-- ==== Sys2Proof/Word.lean ====
section
/-! DEFINITION. The machine's word and byte, and nothing else: every register is a 32-bit word (R295), memory is bytes in little-endian order (R3). -/
namespace Sys2Proof

/-- A register, a record word or an address word: 32 bits (R295). -/
abbrev Word := BitVec 32

/-- One byte of a memory (R3). -/
abbrev Byte := BitVec 8

end Sys2Proof
end

