-- ==== Sys2Proof/Syntax.lean ====
section
/-!
DEFINITION. The commands of the SX96: one constructor of `Instr` per row of the opcode table, with the operands of each.
Some commands are writes and reads of the host, some are external events (an edge at a ball, a frame at a link, a supply that
fails), and some are events of the block's own engines (a compare that fires, a queued frame that starts). Operands carry what
comes from outside: the host path, an address, a value, a level, a measured quantity.
-/
namespace Sys2Proof

/-- The two host paths (R32, chapter 12): PCIe and SPI. Each has its own shadows, held words and fence. -/
inductive Path where
  | pcie | spi
  deriving DecidableEq, Repr


/-- What the ECC of the SRAM or of the MRAM finds in the words that a command reads (R371, R375): nothing, an error that it corrects, or
one that it cannot correct. Mark: DESIGN CHOICE, log entry 83. -/
inductive Ecc where
  | ok | corrected | bad
  deriving DecidableEq, Repr

/-- Where a FREEZE or a THAW of `FRZ_CMD` comes from (R376): a host path, or the JTAG vendor debug port. -/
inductive FrzPort where
  | host (p : Path)
  | jtag
  deriving DecidableEq, Repr

/-- How an SPI frame arrives (R300, R303): whole words, an end within a further word, or an instruction that is none of R301's. -/
inductive SpiForm where
  | whole | torn | unknown
  deriving DecidableEq, Repr

/-- An SPI read frame as it arrives: whether its data come too late (R302), and its form (R300, R303). -/
structure SpiReadForm where
  late : Bool
  form : SpiForm
  deriving DecidableEq, Repr

/-- The MSI-X control of the function (R249): its enable and its function mask. -/
structure MsixCtl where
  enable : Bool
  fmask : Bool
  deriving DecidableEq, Repr

/-- What the host's configuration requests set in the function beside Bus Master Enable and MSI-X (R297): BAR0, Max Payload Size (128 or
256 bytes), Max Read Request Size (128 to 512 bytes), extended tags, ASPM L1, the completion timeout value (ranges A and B), and the masks and
severities of Advanced Error Reporting. Mark: DESIGN CHOICE, log entry 66. -/
structure PcieCfg where
  bar0 : BitVec 64
  payload : Fin 2
  readReq : Fin 3
  extTag : Bool
  aspmL1 : Bool
  cplTo : Fin 16
  aerMask : Word
  aerSev : Word
  aerCor : Word
  deriving DecidableEq, Repr

/-- The content of a DELAY_REQ (R277): T3, in ns and subs, and the exchange's number. -/
structure DelayAsk where
  t3Ns : BitVec 64
  t3Sub : BitVec 6
  num : BitVec 8
  deriving DecidableEq, Repr

/-- What every received Ewerlink frame carries in its header (R264). `wire` is `none` where the bytes of the row's own frame arrive, as R264
and R265 lay them out; where the line has changed them, it is the bytes, CRC included, that arrive in their place. -/
structure FrameHead where
  wire : Option (List Byte)
  src : Fin 1024
  hops : Fin 32
  dst : Fin 1024
  conf : Bool
  deriving DecidableEq, Repr

/-- A received BEACON (R264, R265). -/
structure Beacon where
  t1Ns : BitVec 64
  t1Sub : BitVec 6
  prio : BitVec 8
  rootId : Fin 1024
  rootUid : BitVec 64
  depth : Fin 32
  rseq : BitVec 16
  uid : BitVec 64
  qual : Bool
  up : Bool
  deriving DecidableEq, Repr

/-- What a recalibration measures of a bank (R47): element delay in 1/16 ps, raw codes per tick, and the positions of the raw codes in subs. -/
structure BankMeas where
  b : Fin 12
  elem : BitVec 8
  span : BitVec 8
  bins : List (BitVec 6)
  deriving DecidableEq, Repr

/-- What the health block measures of a Gaffer (R98, R113): the microword rate in M/s, and the wake delivery, ephemeris accept and compare
handshake times of its replica paths, together, in subs. -/
structure GafMeas where
  rate : BitVec 16
  paths : BitVec 16
  deriving DecidableEq, Repr

/-- What a delay monitor reads (R372). -/
structure Monitor where
  raw : BitVec 16
  deriving DecidableEq, Repr

/-- A section of a configuration image (R332): pool KB of the Gaffers and of the rings, microwords from an address, bytes from an
offset of the SRAM window, register writes, user calibration words, a strobe, locks. -/
inductive ImgSection where
  | layout (gaf : List (BitVec 8)) (ring : BitVec 16) (heads : Bool)
  | cstore (e : Fin 8) (first : Nat) (ws : List (BitVec 144))
  | sram (ofs : Nat) (bytes : List Byte)
  | regs (writes : List (Word × Word))
  | calu (writes : List (Word × Word))
  | apply (m : BitVec 8)
  | lock (m : BitVec 12)
  deriving DecidableEq, Repr

/-- What a slot's bytes say (R331, R332): whether its first check passes, the fields of its header, whether its digest and MAC
are right, its sections, and whether they tile the image with no reserved TYPE or bit. Mark: DEDUCED, log entry 77. -/
structure SlotImage where
  headerOk : Bool
  gen : Word
  length : Word
  hmac : Bool
  relhold : Bool
  subsys : Word
  digest : BitVec 256
  digestOk : Bool
  macOk : Bool
  tiled : Bool
  sections : List ImgSection
  deriving DecidableEq, Repr

/-- The commands of the block, one constructor per row of the opcode table, in the table's order. Each docstring is the
row's rule and what the row says of it. -/
inductive Instr where
  /-- `PLL_LOCK` (R28). The PLL reports lock after power-on or pin reset and the spine starts counting from 0.0 ns.sub on the next tick. -/
  | pllLock
  /-- `REF_LOST` (R29). No reference edge arrives for 200 ns, so the device declares the reference lost, holds the PLL control value and emits SPINE_REF. -/
  | refLost
  /-- `PLL_UNLOCK` (R29). Lock is lost while the reference is present; this is reported as a reference loss but sets UNLOCK_S. -/
  | pllUnlock
  /-- `RELOCK` (R29). The PLL reacquires after the reference returns, without stepping the spine, and emits a second SPINE_REF. -/
  | relock
  /-- `SPN_RATE_WRITE` (R33). A host write to SPN_RATE sets the rate from the first tick after its handshake, or is ignored with OWNED while the servo owns the spine. -/
  | spnRateWrite (p : Path) (v : Word)
  /-- `SPINE_NOP` (R34). SPN_CMD NOP is accepted, clears CMD_ERR and executes with no effect, either at once or at the apply strobe. -/
  | spineNop (p : Path) (waits : Bool) (ag : Fin 8)
  /-- `SET` (R35). SPN_CMD SET computes the operand minus the spine time and applies that amount as a STEP. -/
  | spineSet (p : Path) (waits : Bool) (ag : Fin 8)
  /-- `STEP` (R35). SPN_CMD STEP adds a signed amount: a positive amount at once, a negative amount below 2^31 ns as a hold, anything larger refused with RANGE. -/
  | spineStep (p : Path) (waits : Bool) (ag : Fin 8)
  /-- `SLEW` (R39). SPN_CMD SLEW computes a slew rate and spreads a signed shift over a duration, replacing any running slew. -/
  | spineSlew (p : Path) (waits : Bool) (ag : Fin 8)
  /-- `SLEW_ABORT` (R40). SPN_CMD SLEW_ABORT ends the running slew where it stands, or is refused with NOSLEW if no slew runs. -/
  | slewAbort (p : Path) (waits : Bool) (ag : Fin 8)
  /-- `SPN_CMD_ILLEGAL` (R34). A SPN_CMD write with a reserved OP is refused with ILLEGAL and leaves any pending command unchanged. -/
  | spnCmdIllegal (p : Path) (op : Fin 3) (waits : Bool) (ag : Fin 8)
  /-- `HOLD_END` (R37). The held tick count expires, the spine advances by 1 ns minus f, normal counting resumes and a suspended slew resumes. -/
  | holdEnd
  /-- `SLEW_DONE` (R39). The accumulated slew shift reaches its amount, the last tick contributes only the remainder, SLEWING clears and SPINE_SLEW_DONE is emitted. -/
  | slewDone
  /-- `PPS_PULSE` (R42). The spine reaches a PPS output boundary and PPS_OUT begins an active pulse through its vernier, unless it is qualified off. -/
  | ppsPulse
  /-- `PPS_PULSE_END` (R42). The PPS output width expires and the pulse ends. -/
  | ppsPulseEnd
  /-- `PPS_CAPTURE` (R43). A PPS_IN edge is captured into SPN_PPSI with its count incremented and a PPS_CAPTURE record emitted, or ignored if it comes within 1 µs of the last edge. -/
  | ppsCapture (falling : Bool) (pos : Fin 64)
  /-- `RECALIBRATION` (R370). A temperature, interval or load trigger runs a code-density recalibration of the replica vernier and TDC and swaps the new tables in at a tick boundary. -/
  | recalibration (ms : List BankMeas) (gs : List GafMeas) (tj : BitVec 16)
  /-- `BANK_SUPPLY_LOSS` (R54). A bank supply becomes absent, so its balls go to high impedance, its inputs read 0 and BANK_DOWN is set. -/
  | bankSupplyLoss (b : Fin 12)
  /-- `BANK_SUPPLY_RETURN` (R54). A bank supply is detected again and its pin cells resume their configured mode from the next tick. -/
  | bankSupplyReturn (b : Fin 12) (volts33 : Bool)
  /-- `INPUT_EDGE` (R57). A transition at a channel ball passes the glitch filter and reaches captures, counters, Orreries, converter triggers and Gaffer wakes. -/
  | inputEdge (c : Fin 96) (level : Bool) (pos : Fin 64) (width : Nat)
  /-- `COMPARE_FIRE` (R63). The spine reaches an armed compare target, which fires on its vernier tap, applies its pin action and emits CMP_FIRED if enabled. -/
  | compareFire (c : Fin 96) (u : Bool)
  /-- `COMPARE_ARM` (R64). A host write of CHc_CMPu_TGT_CTL with ARM = 1 arms or replaces a compare target, which is judged by the due rule at its arming tick. -/
  | compareArm (p : Path) (c : Fin 96) (u : Bool) (v : Word)
  /-- `COMPARE_DISARM` (R64). A host write of CHc_CMPu_TGT_CTL with ARM = 0 disarms a compare that has not fired. -/
  | compareDisarm (p : Path) (c : Fin 96) (u : Bool) (v : Word)
  /-- `CHANNEL_HOLD` (R60). A write of CHc_CTRL.HOLD holds the channel at its safe level, or releases it and fires every due compare late in target order. -/
  | channelHold (p : Path) (c : Fin 96) (hold : Bool)
  /-- `FIFO_PUSH` (R67). A write to CHc_FIFO_ENT_HI pushes an entry composed with the path's held ENT_LO, or is refused with DELTA or FULL. -/
  | fifoPush (p : Path) (c : Fin 96) (v : Word)
  /-- `FIFO_START` (R70). START begins or resumes the edge FIFO train from the base, at once or at the channel's apply strobe, or is refused with OWN. -/
  | fifoStart (p : Path) (c : Fin 96) (waits : Bool)
  /-- `FIFO_STOP` (R70). STOP disarms both compares without firing them and halts the train, keeping the unfired entries. -/
  | fifoStop (p : Path) (c : Fin 96)
  /-- `FIFO_FLUSH` (R70). FLUSH performs a STOP, empties the FIFO and clears ERR. -/
  | fifoFlush (p : Path) (c : Fin 96)
  /-- `FIFO_BREAK` (R69). BREAK makes the running loop pass the last one. -/
  | fifoBreak (p : Path) (c : Fin 96)
  /-- `CAPTURE` (R76). An accepted edge is stamped by a capture unit and enters stage 1 or stage 2, or is dropped, with latch, record and wake as configured. -/
  | capture (c : Fin 96) (k : Bool) (rise : Bool) (pos : Fin 64)
  /-- `CAPTURE_READ` (R77). A host read of CHc_CAPk_LO returns stage 1, copies the high word and status to the path, and consumes the capture if the host is the selected reader. -/
  | captureRead (p : Path) (c : Fin 96) (k : Bool)
  /-- `APPLY_STROBE` (R312). A strobe of an apply group makes every staged value of its blocks active in one tick, releases waiting commands and starts, and sets APPLY wakes. -/
  | applyStrobe (g : Fin 8)
  /-- `THREAD_START` (R134). Ge_CMD START clears PEND, WRES, the flags, the result codes and the return stack, and makes an IDLE or HALTED thread READY at the given PC. -/
  | threadStart (p : Path) (e : Fin 8) (n : Fin 16) (pc : BitVec 11)
  /-- `THREAD_HALT` (R107). Ge_CMD HALT stops a thread at once if it is parked or ready, otherwise at its next safe point or wait. -/
  | threadHalt (p : Path) (e : Fin 8) (n : Fin 16)
  /-- `THREAD_RESUME` (R134). Ge_CMD RESUME makes a HALTED or FAULT thread READY at the stopped microword without clearing anything. -/
  | threadResume (p : Path) (e : Fin 8) (n : Fin 16)
  /-- `THREAD_WAKE` (R102). Ge_CMD WAKE sets the HOST wake bit of a thread. -/
  | threadWake (p : Path) (e : Fin 8) (n : Fin 16)
  /-- `CLRFAULT` (R107). Ge_CMD CLRFAULT moves a FAULT thread to IDLE and clears its fault-mask bit. -/
  | clrFault (p : Path) (e : Fin 8) (n : Fin 16)
  /-- `CLRLAT` (R113). Ge_CMD CLRLAT clears Ge_LAT_MAX. -/
  | clrLat (p : Path) (e : Fin 8) (n : Fin 16)
  /-- `GAFFER_NOP` (R101). Ge_CMD NOP has no effect. -/
  | gafferNop (p : Path) (e : Fin 8) (n : Fin 16)
  /-- `GE_CTRL_RUN` (R105). A write to Ge_CTRL.RUN enables dispatch, or stops the running thread at its next preemption point while keeping its place. -/
  | geCtrlRun (p : Path) (e : Fin 8) (run : Bool)
  /-- `DISPATCH` (R104). The engine is free and the scheduler dispatches the next READY thread of the most urgent class in round-robin order. -/
  | dispatch (e : Fin 8)
  /-- `TIMER_DUE` (R110). The spine reaches a timer entry, which sets its thread's TIMER bit and is removed. -/
  | timerDue (e : Fin 8)
  /-- `THREAD_STARVE` (R116). A thread stays READY beyond Ge_STARVE.US, so one THREAD_STARVE record is emitted for the episode. -/
  | threadStarve (e : Fin 8) (n : Fin 16)
  /-- `SPACE_RETRY` (R135). A thread parked on SPACE retries its FPUSH, insert or record push when space is freed. -/
  | spaceRetry (e : Fin 8) (n : Fin 16)
  /-- `SREG_STORE` (R119). A host write to Ge_SREGm_HI stores the path's held low word and the high byte as one 40-bit value between two microwords. -/
  | sregStore (p : Path) (e : Fin 8) (m : Fin 64) (v : Word)
  /-- `ARITH_NOP` (R127). Arithmetic NOP writes no result and leaves the flags unchanged. -/
  | mwNop (e : Fin 8)
  /-- `MOV` (R127). MOV writes operand B to ADST and sets Z and N. -/
  | mwMov (e : Fin 8)
  /-- `ADD` (R127). ADD writes A plus B modulo 2^40 and sets Z, N, C and V. -/
  | mwAdd (e : Fin 8)
  /-- `SUB` (R127). SUB writes A minus B modulo 2^40 and sets Z, N, borrow C and V. -/
  | mwSub (e : Fin 8)
  /-- `AND` (R127). AND writes the bitwise AND of A and B. -/
  | mwAnd (e : Fin 8)
  /-- `OR` (R127). OR writes the bitwise OR of A and B. -/
  | mwOr (e : Fin 8)
  /-- `XOR` (R127). XOR writes the bitwise XOR of A and B. -/
  | mwXor (e : Fin 8)
  /-- `SHL` (R127). SHL shifts A left by B[5:0]. -/
  | mwShl (e : Fin 8)
  /-- `SHR` (R127). SHR shifts A right logically by B[5:0]. -/
  | mwShr (e : Fin 8)
  /-- `SAR` (R127). SAR shifts A right arithmetically by B[5:0]. -/
  | mwSar (e : Fin 8)
  /-- `CMP` (R127). CMP sets the flags as SUB would, without writing a result. -/
  | mwCmp (e : Fin 8)
  /-- `TST` (R127). TST sets the flags as AND would, without writing a result. -/
  | mwTst (e : Fin 8)
  /-- `MIN` (R127). MIN writes the unsigned lesser of A and B. -/
  | mwMin (e : Fin 8)
  /-- `MAX` (R127). MAX writes the unsigned greater of A and B. -/
  | mwMax (e : Fin 8)
  /-- `TDIFF` (R127). TDIFF writes the signed difference of two time words in subs within the half range. -/
  | mwTdiff (e : Fin 8)
  /-- `BSET` (R127). BSET writes A with bit B[5:0] set. -/
  | mwBset (e : Fin 8)
  /-- `BCLR` (R127). BCLR writes A with bit B[5:0] cleared. -/
  | mwBclr (e : Fin 8)
  /-- `NEXT` (R129). The sequencer goes to PC + 1. -/
  | mwNext (e : Fin 8)
  /-- `JUMP` (R129). The sequencer goes to ADDR if the condition holds. -/
  | mwJump (e : Fin 8)
  /-- `CALL` (R133). The sequencer pushes PC + 1 on the four-entry return stack and goes to ADDR if the condition holds. -/
  | mwCall (e : Fin 8)
  /-- `RET` (R133). The sequencer pops the return address if the condition holds, or faults ILLEGAL on an empty stack. -/
  | mwRet (e : Fin 8)
  /-- `WAIT` (R103). The thread consumes the pending bits under its mask into WRES, or parks until one of them is set. -/
  | mwWait (e : Fin 8)
  /-- `END` (R129). The thread goes to IDLE if the condition holds. -/
  | mwEnd (e : Fin 8)
  /-- `DISP` (R129). The sequencer branches to ADDR plus the number of the lowest set bit of WRES. -/
  | mwDisp (e : Fin 8)
  /-- `YIELD` (R132). The thread goes to the back of its class as READY and reaches a preemption point. -/
  | mwYield (e : Fin 8)
  /-- `INS_CMP` (R109). The thread inserts a compare entry into the ephemeris, which returns OK, TIGHT, BEHIND or a refusal. -/
  | mwInsCmp (e : Fin 8)
  /-- `INS_TMR` (R109). The thread inserts a timer entry; a timer that is behind sets TIMER at once without holding a slot. -/
  | mwInsTmr (e : Fin 8)
  /-- `CAN_CMP` (R111). The thread cancels matching compare entries by tag, with result REMOVED, DISARMED, FIRED or NONE. -/
  | mwCanCmp (e : Fin 8)
  /-- `CAN_TMR` (R111). The thread cancels its own matching timer entries by tag. -/
  | mwCanTmr (e : Fin 8)
  /-- `INS_ANG` (R187). The thread converts an angle target to a spine time from the Orrery estimate and inserts it with ANGLE = 1, or returns RANGE or NOSYNC. -/
  | mwInsAng (e : Fin 8)
  /-- `CAPRD` (R139). The thread reads stage 1 of a capture unit and its status, consuming it when the Gaffer is the selected reader. -/
  | mwCaprd (e : Fin 8)
  /-- `SNAP` (R140). The thread latches a counter image and its time at the tick its handshake reaches the channel. -/
  | mwSnap (e : Fin 8)
  /-- `CNTRD` (R140). The thread reads the last counter image without latching. -/
  | mwCntrd (e : Fin 8)
  /-- `FPUSH` (R141). The thread pushes a FIFO entry from two registers, with result OK or DELTA, or a park or FULL when the FIFO is full. -/
  | mwFpush (e : Fin 8)
  /-- `LDBASE` (R141). The FCTL LDBASE operation writes the FIFO base from a time word. -/
  | mwLdbase (e : Fin 8)
  /-- `CHST` (R141). The thread reads CHc_STAT and CHc_FIFO_STAT live. -/
  | mwChst (e : Fin 8)
  /-- `LD32` (R142). The thread loads 32 bits from its data window or general-pool space, with MERR set for an address that reaches no memory. -/
  | mwLd32 (e : Fin 8) (ecc : Ecc)
  /-- `LD40` (R142). The thread loads a 40-bit value from an 8-byte location. -/
  | mwLd40 (e : Fin 8) (ecc : Ecc)
  /-- `ST32` (R142). The thread stores 32 bits into its data window or general-pool space. -/
  | mwSt32 (e : Fin 8)
  /-- `ST40` (R142). The thread stores a 40-bit value into 8 bytes, writing 0 to bytes 5 to 7. -/
  | mwSt40 (e : Fin 8)
  /-- `REC` (R143). The thread pushes a user record USR0 to USR15 to the record writer under its channel's source, or gets BUSY or parks at the ceiling. -/
  | mwRec (e : Fin 8)
  /-- `ANG` (R144). The thread reads an Orrery's estimated angle base at a time read, together with its speed word. -/
  | mwAng (e : Fin 8)
  /-- `EDGE` (R144). The thread reads the angle base and time of an Orrery's last validated edge. -/
  | mwEdge (e : Fin 8)
  /-- `A2T` (R187). The thread converts an angle to a predicted spine time without inserting anything. -/
  | mwA2t (e : Fin 8)
  /-- `NOW` (R145). The thread takes one time read into two registers. -/
  | mwNow (e : Fin 8)
  /-- `SIGNAL` (R145). The thread sets the SIGNAL wake bit of a thread of the same Gaffer. -/
  | mwSignal (e : Fin 8)
  /-- `WCLR` (R145). The thread clears the selected PEND bits without waking. -/
  | mwWclr (e : Fin 8)
  /-- `TRIG` (R196). The thread requests one conversion, or gets CHRES = BUSY when the converter queue is full. -/
  | mwTrig (e : Fin 8)
  /-- `CS_STORE` (R149). A write of word 4 of a control-store microword stores the path's held words as one microword with parity, or is refused when WE is clear or the store is locked. -/
  | csStore (p : Path) (e : Fin 8) (w : Fin 2048) (v : Word)
  /-- `WHEEL_TOOTH` (R163). An Orrery tooth active edge is classified by the ratio window and accepted, taken as a gap, marked missing, rejected as early, or loses sync. -/
  | wheelTooth (n : Fin 4) (pos : Fin 64)
  /-- `CAM_EDGE` (R167). A cam active edge is tested against the cam window to confirm the phase, assign the turn, resync or fault. -/
  | camEdge (n : Fin 4) (pos : Fin 64)
  /-- `CAM_LOST` (R167). No accepted cam edge arrives for CAMTO cycles, so CAMOK clears and CAM_LOST is reported. -/
  | camLost (n : Fin 4)
  /-- `DIR_PW_DECISION` (R168). A tooth pulse that has not ended after the THR time is decided backward. -/
  | dirPwDecision (n : Fin 4)
  /-- `HALL_CHANGE` (R169). A Hall state change is decoded as a one-step edge or as an illegal change. -/
  | hallChange (n : Fin 4) (lvl : BitVec 3) (pos : Fin 64)
  /-- `QUAD_TRANSITION` (R170). A quadrature transition counts up or down, or is an illegal transition. -/
  | quadTransition (n : Fin 4) (lvl : BitVec 3) (pos : Fin 64)
  /-- `SINCOS_SAMPLE` (R172). A sine/cosine pair sampled at a whole microsecond is corrected, checked for amplitude and tracked for phase and line, then validated. -/
  | sincosSample (n : Fin 4) (rawS : BitVec 14) (rawC : BitVec 14)
  /-- `SINCOS_INDEX` (R174). An IN2 marker edge on SINCOS sets the nearest line boundary to line 0 and checks the lines since the last marker. -/
  | sincosIndex (n : Fin 4) (pos : Fin 64)
  /-- `STILL` (R177). No edge arrives by STILL_MS after the last one, so standstill is declared, the speed reads 0 and ORY_MOTION is emitted. -/
  | still (n : Fin 4)
  /-- `ORY_NOP` (R181). ORYn_CMD NOP has no effect. -/
  | oryNop (p : Path) (n : Fin 4)
  /-- `REACQ` (R181). ORYn_CMD REACQ clears the history and restarts acquisition as a change of TYPE does. -/
  | reacq (p : Path) (n : Fin 4)
  /-- `SETPOS` (R181). ORYn_CMD SETPOS gives the last validated edge the operand angle and moves SYNC to FULL, or is refused in OFF or ACQ. -/
  | setpos (p : Path) (n : Fin 4)
  /-- `CLRCNT` (R181). ORYn_CMD CLRCNT clears the Orrery error counters. -/
  | clrCnt (p : Path) (n : Fin 4)
  /-- `CV_CMD` (R195). A host write to CV_CMD requests one conversion of the named input at the next tick boundary. -/
  | cvCmd (p : Path) (k : Fin 2) (ain : Fin 16)
  /-- `CONV_HOLD` (R196). A queued conversion samples at its hold tick, moved to keep 200 ns between holds. -/
  | convHold (k : Fin 2)
  /-- `CONV_RESULT` (R199). A conversion completes, is corrected and written to its sample buffer and CVk_LAST, with CONV_SAMPLE and CONV_BLOCK records. -/
  | convResult (k : Fin 2) (raw : BitVec 12)
  /-- `CVBUF_RDIDX_WRITE` (R200). A host write to CVBUFb_RDIDX frees STOP-buffer space and reports discarded samples in CONV_OVR, or is ignored if it lies beyond the write index. -/
  | cvbufRdidxWrite (p : Path) (b : Fin 6) (v : Word)
  /-- `COMMAND_FETCH` (R240). The command-ring fetcher reads up to 8 entries from HEAD towards TAIL, advances HEAD and writes the head copy. -/
  | commandFetch (n : Fin 64) (bad corr : BitVec 8)
  /-- `LEHR_NOP` (R214). The Lehr NOP command produces only LEHR_DONE when CPL is set. -/
  | lehrNop (n : Fin 64)
  /-- `ARM` (R214). The Lehr ARM command writes a FREE handle's entry and places it by its distance. -/
  | arm (n : Fin 64)
  /-- `CANCEL` (R214). The Lehr CANCEL command unlinks an armed entry and frees it without firing. -/
  | cancel (n : Fin 64)
  /-- `MOVE` (R214). The Lehr MOVE command unlinks an armed entry and places it again with a new deadline. -/
  | move (n : Fin 64)
  /-- `LEHR_ILLEGAL` (R215). A Lehr command with a reserved OP completes with ILLEGAL and changes nothing. -/
  | lehrIllegal (n : Fin 64)
  /-- `STALL_RESUME` (R218). An ARM or MOVE stalled on a full near cache resumes when a near entry frees. -/
  | stallResume
  /-- `PREFETCH` (R206). N reaches the prefetch point of a level-1 window, so the prefetcher moves its due entries into the near cache. -/
  | prefetch
  /-- `CASCADE` (R208). N reaches the cascade point of a level-2 window, so its entries are placed again and far-list entries migrate. -/
  | cascade
  /-- `DEADLINE_FIRE` (R222). A due deadline is removed from the near cache, freed, its wake delivered and its LEHR_FIRE handed to its ring. -/
  | deadlineFire (ecc : Ecc)
  /-- `LEHR_ENABLE` (R209). A change of LH_CTRL.EN from 0 to 1 sets N and the boundaries, takes the structures as empty and starts command fetching. -/
  | lehrEnable (p : Path) (v : Word)
  /-- `LEHR_DISABLE` (R226). A change of LH_CTRL.EN from 1 to 0 abandons every held deadline, completes fetched commands with DISABLED and emits LEHR_STATE DISABLED. -/
  | lehrDisable (p : Path) (v : Word)
  /-- `LEHR_HOSTERR` (R228). A Lehr PCIe access completes with an error, so all Lehr host traffic stops and LEHR_STATE HOSTERR is emitted. -/
  | lehrHosterr
  /-- `RECORD_WRITE` (R17). The record writer routes a record, numbers it, writes the ring entry and then the head index, or refuses it and counts the refusal. -/
  | recordWrite
  /-- `RING_TAIL_WRITE` (R239). A host write to RINGn_TAIL is accepted if the resulting count is in range, otherwise refused with IDX. -/
  | ringTailWrite (p : Path) (n : Fin 64) (v : Word)
  /-- `RING_ENABLE` (R237). Setting RINGn_CFG.EN zeroes HEAD, TAIL and LOSTCNT and writes the head copy, or is refused if the on-chip extent check fails. -/
  | ringEnable (p : Path) (n : Fin 64) (v : Word)
  /-- `RING_DISABLE` (R244). Clearing RINGn_CFG.EN stops the ring; records numbered before the clear are refused and counted. -/
  | ringDisable (p : Path) (n : Fin 64) (v : Word)
  /-- `RING_HOSTERR` (R243). A ring's PCIe access completes with an error, so the ring stops with HOSTERR and its undelivered records count as refusals. -/
  | ringHosterr (n : Fin 64)
  /-- `FENCE` (R22). The ring-level FENCE command holds later commands of its ring until earlier ones have executed and handed over their records. -/
  | fence (n : Fin 64)
  /-- `MARK` (R241). The ring-level MARK command emits RING_DONE echoing command words 2 and 3. -/
  | mark (n : Fin 64)
  /-- `SUMMARY` (R241). The ring-level SUMMARY command writes the state summary to the named address and emits RING_DONE. -/
  | summary (n : Fin 64)
  /-- `RING_ILLEGAL` (R241). A reserved ring-level OP, or an OP the ring's consumer does not take, completes with RING_DONE result ILLEGAL. -/
  | ringIllegal (n : Fin 64)
  /-- `EC_CLAIM` (R250). A read of EC_CLAIMt returns the lowest assigned source and puts it in service, or returns 1,023 and counts a spurious claim. -/
  | ecClaim (p : Path) (t : Fin 8)
  /-- `EC_COMPLETE` (R251). A write to EC_COMPLETEt ends service of a source claimed through that target, or is counted as a stray. -/
  | ecComplete (p : Path) (t : Fin 8) (v : Word)
  /-- `EC_DOORBELL` (R253). A write of a source number to EC_DOORBELL raises a doorbell request and an optional thread wake, or sets DB_ERR_S. -/
  | ecDoorbell (p : Path) (v : Word)
  /-- `EC_PEND_WRITE` (R252). A write to EC_PENDw replaces the pending bits, withdrawing sources whose PEND clears. -/
  | ecPendWrite (p : Path) (w : Fin 32) (v : Word)
  /-- `EC_EN_WRITE` (R252). A write to EC_ENw changes the source enables, withdrawing or reassigning sources. -/
  | ecEnWrite (p : Path) (w : Fin 32) (v : Word)
  /-- `EC_TGT_WRITE` (R248). A write to EC_TGT changes a source's target mask and reassigns an assigned source whose target was removed. -/
  | ecTgtWrite (p : Path) (v : Word)
  /-- `EC_CTRL_WRITE` (R256). A masked write to EC_CTRL sets or clears a path latch or EN; clearing the last latch applies the deferred requests. -/
  | ecCtrlWrite (p : Path) (v : Word)
  /-- `LATCH_TIMEOUT` (R256). A LATCH bit held for 100 µs clears itself and sets LATCH_TO_S. -/
  | latchTimeout
  /-- `PCIE_D0_RETURN` (R254). On return to D0 with MSI-X enabled, one message is issued for each MSI-X target that has an assigned source. -/
  | pcieD0Return
  /-- `LINK_LOCK` (R262). An Ewerlink port gains symbol lock after 64 valid symbols and enters TRAIN. -/
  | linkLock (p : Fin 4)
  /-- `PORT_DOWN` (R262). An Ewerlink port loses its signal or sees too many code violations and falls to DOWN with a 10 ms holdoff. -/
  | portDown (p : Fin 4) (code : Bool) (viol : BitVec 16)
  /-- `HOLDOFF_END` (R262). The 10 ms holdoff after DOWN expires and the port seeks lock again. -/
  | holdoffEnd (p : Fin 4)
  /-- `BEACON_TIMEOUT` (R262). No valid BEACON arrives on an UP port for 3 ms, so the port falls to DOWN. -/
  | beaconTimeout (p : Fin 4)
  /-- `BEACON_SEND` (R267). At its beacon time a node with a root sends a BEACON on each port in TRAIN or UP. -/
  | beaconSend (p : Fin 4)
  /-- `BEACON_RECEIVE` (R268). A valid BEACON brings the port UP, updates the candidates, the root and parent selection and the port role, and drives the servo on the parent port. -/
  | beaconReceive (p : Fin 4) (f : FrameHead) (b : Beacon) (pos : Fin 64)
  /-- `CANDIDATE_EXPIRY` (R268). A candidate's beacons or RSEQ go stale for 3 ms and the candidates are re-evaluated. -/
  | candidateExpiry (p : Fin 4)
  /-- `DELAY_REQ_SEND` (R277). After every 2^DRATE-th beacon a node sends a timed DELAY_REQ on the port. -/
  | delayReqSend (p : Fin 4)
  /-- `DELAY_REQ_RECEIVE` (R277). A captured DELAY_REQ is answered with DELAY_RESP carrying T4. -/
  | delayReqReceive (p : Fin 4) (f : FrameHead) (ask : DelayAsk) (pos : Fin 64)
  /-- `DELAY_RESP_RECEIVE` (R277). A DELAY_RESP completes a delay sample, which updates the port's mean delay unless it is discarded. -/
  | delayRespReceive (p : Fin 4) (f : FrameHead) (t4Ns : BitVec 64) (t4Sub : BitVec 6) (num : BitVec 8)
  /-- `DELAY_TIMEOUT` (R277). A delay response missing for 1 ms is abandoned. -/
  | delayTimeout (p : Fin 4)
  /-- `JOIN_RECEIVE` (R272). A JOIN on a CHILD port is learned and forwarded or acknowledged, or answered with CONFLICT. -/
  | joinReceive (p : Fin 4) (f : FrameHead) (id : Fin 1024) (uid : BitVec 64)
  /-- `JOIN_RESEND` (R272). Every 10 ms while its own JOIN is unanswered, a node sends its JOINs again. -/
  | joinResend
  /-- `JOIN_ACK_RECEIVE` (R273). A JOIN_ACK is routed; at its node, OK makes the ID held and CONFLICT stops joining. -/
  | joinAckReceive (p : Fin 4) (f : FrameHead) (id : Fin 1024) (conflict : Bool) (uid : BitVec 64)
  /-- `LEAVE_RECEIVE` (R274). A LEAVE on a CHILD port removes the listed IDs held on that port and forwards them upward. -/
  | leaveReceive (p : Fin 4) (f : FrameHead) (ids : List (Fin 1024))
  /-- `APPLY_AT_FRAME` (R284). A broadcast APPLY_AT is delivered to the apply/fence block and forwarded on the tree ports, or discarded as a duplicate. -/
  | applyAtFrame (p : Fin 4) (f : FrameHead) (t : BitVec 64) (m : BitVec 8) (bseq : BitVec 16)
  /-- `DOORBELL_FRAME` (R285). A DOORBELL frame is forwarded or delivered as a doorbell to the event controller, with a DELIVERY if requested. -/
  | doorbellFrame (p : Fin 4) (f : FrameHead) (n : Fin 1024) (mid : BitVec 8)
  /-- `MAILBOX_FRAME` (R285). A MAILBOX frame is forwarded or delivered as EL_MAILBOX RX records, with a DELIVERY if requested. -/
  | mailboxFrame (p : Fin 4) (f : FrameHead) (mid : BitVec 8) (data : List Byte)
  /-- `DELIVERY_RECEIVE` (R286). A DELIVERY arriving at the originator emits EL_MAILBOX CONFIRM, or is discarded after a timeout. -/
  | deliveryReceive (p : Fin 4) (f : FrameHead) (mid : BitVec 8) (typ : BitVec 8) (refused : Bool)
  /-- `MAILBOX_TIMEOUT` (R286). No DELIVERY arrives within 10 ms, so EL_MAILBOX TIMEOUT is emitted. -/
  | mailboxTimeout (mid : BitVec 8)
  /-- `FRAME_SEND` (R266). A queued untimed frame starts when it can end 40 ns before the next timed frame, with the most urgent class first. -/
  | frameSend (p : Fin 4)
  /-- `DOORBELL` (R287). The Ewerlink ring command DOORBELL sends a doorbell frame to a destination or delivers it locally. -/
  | doorbell (n : Fin 64)
  /-- `MAILBOX` (R287). The Ewerlink ring command MAILBOX sends up to 32 bytes, taking an MBOX_CONT entry for more than 24 bytes. -/
  | mailbox (n : Fin 64)
  /-- `MBOX_CONT` (R287). An MBOX_CONT command standing alone completes with FORMAT. -/
  | mboxCont (n : Fin 64)
  /-- `APPLY_AT` (R284). The Ewerlink ring command APPLY_AT originates a broadcast APPLY_AT with a group mask and time. -/
  | applyAt (n : Fin 64)
  /-- `EL_ILLEGAL` (R287). An Ewerlink command with a reserved OP completes with DONE result ILLEGAL. -/
  | elIllegal (n : Fin 64)
  /-- `EL_NOP` (R291). EL_CMD NOP has no effect. -/
  | elNop (p : Path)
  /-- `REJOIN` (R273). EL_CMD REJOIN sends a LEAVE for the held ID, releases it and sends a new JOIN. -/
  | rejoin (p : Path)
  /-- `EL_CLRCNT` (R291). EL_CMD CLRCNT clears the Ewerlink error and drop counters. -/
  | elClrcnt (p : Path)
  /-- `EWERLINK_DISABLE` (R291). Clearing EL_CTRL.EN disables every port, clears the table and held ID, turns the servo off and emits EL_TOPO NOROOT. -/
  | ewerlinkDisable (p : Path) (v : Word)
  /-- `PORT_DISABLE` (R291). Clearing a PORT_EN bit takes that port DOWN with cause DISABLED. -/
  | portDisable (p : Path) (v : Word)
  /-- `REGISTER_WRITE` (R305). A host write to a register without a row of its own takes effect under its access codes, staging, locks and path order. -/
  | registerWrite (p : Path) (a : Word) (v : Word) (full : Bool)
  /-- `RL_READ` (R309). A read of an RL register copies its partner values into the path's shadow. -/
  | rlRead (p : Path) (a : Word)
  /-- `UNMAPPED_ACCESS` (R293). An access to an unmapped range reads 0 or is ignored, and is counted. -/
  | unmappedAccess (p : Path) (a : Word) (isWrite : Bool)
  /-- `READ` (R301). The SPI READ instruction returns data on one line after the dummy clocks. -/
  | spiRead (a : Word) (n : Fin 257) (arr : SpiReadForm)
  /-- `QREAD` (R301). The SPI QREAD instruction returns data on four lines after the dummy clocks. -/
  | spiQread (a : Word) (n : Fin 257) (arr : SpiReadForm)
  /-- `WRITE` (R301). The SPI WRITE instruction posts words on one line. -/
  | spiWrite (a : Word) (ws : List Word) (form : SpiForm)
  /-- `QWRITE` (R301). The SPI QWRITE instruction posts words on four lines. -/
  | spiQwrite (a : Word) (ws : List Word) (form : SpiForm)
  /-- `RDSR` (R304). The SPI RDSR instruction returns the status byte and clears UNDER, FRAME and RSTD. -/
  | rdsr
  /-- `IFRESET` (R301). The SPI IFRESET instruction restarts the SPI port state machine. -/
  | ifreset
  /-- `PCIE_LINK_DOWN` (R299). The PCIe link goes down and every device host-memory access stops. -/
  | pcieLinkDown
  /-- `FUNCTION_LEVEL_RESET` (R299). Function Level Reset stops host-memory access and resets the configuration space. -/
  | functionLevelReset
  /-- `BUS_MASTER_DISABLE` (R299). The host clears Bus Master Enable and host-memory access stops. -/
  | busMasterDisable
  /-- `D0_EXIT` (R299). The function leaves D0 and host-memory access stops. -/
  | d0Exit
  /-- `COMPLETION_TIMEOUT` (R299). A DMA completion times out and host-memory access stops. -/
  | completionTimeout
  /-- `AP_APPLY` (R313). A write to AP_APPLY strobes the named groups in the first tick after the path's earlier writes have taken effect. -/
  | apApply (p : Path) (m : BitVec 8)
  /-- `AP_AT_CMD` (R314). A write to AP_AT_CMD places a pending APPLY_AT entry at the path's time, or refuses it for range or capacity. -/
  | apAtCmd (p : Path) (m : BitVec 8)
  /-- `APPLY_AT_DUE` (R314). The spine reaches a pending entry's time, or a step passes it, and its groups strobe, with LATE where due. -/
  | applyAtDue
  /-- `AP_CANCEL` (R315). A write to AP_CANCEL removes groups from every pending APPLY_AT entry. -/
  | apCancel (p : Path) (m : BitVec 8)
  /-- `AP_ABORT` (R315). A write to AP_ABORT returns the staged copies of the named groups to their active values. -/
  | apAbort (p : Path) (m : BitVec 8)
  /-- `AP_FENCE` (R20). A write to AP_FENCE orders every later write of the path after every earlier one. -/
  | apFence (p : Path)
  /-- `AP_FENCE_READ` (R317). A read of AP_FENCE returns the path's FENCE count only after all of its earlier writes have taken effect. -/
  | apFenceRead (p : Path)
  /-- `GL_LOCK_WRITE` (R319). A write to GL_LOCK sets lock domain bits, which clear only at power-on or pin reset. -/
  | glLockWrite (p : Path) (v : Word)
  /-- `GL_HOSTTAG_WRITE` (R320). The first write to GL_HOSTTAG stores the tag and sets HOSTTAG_SET; later writes are violations. -/
  | glHosttagWrite (p : Path) (v : Word)
  /-- `SIGNATURE_GO` (R325). A GO write to GL_SIGCMD starts a configuration signature unless one is already running. -/
  | signatureGo (p : Path)
  /-- `SIGNATURE_DONE` (R325). The signature computation ends, writes GL_SIG and its status, and emits CFG_SIGNATURE. -/
  | signatureDone
  /-- `SUMMARY_GO` (R326). A GO write to GL_SUMCMD requests an on-chip summary. -/
  | summaryGo (p : Path)
  /-- `SUMMARY_PERIOD` (R326). The GL_SUMCFG period expires and an on-chip summary is requested. -/
  | summaryPeriod
  /-- `SUMMARY_DONE` (R327). A summary is written with COUNT last, the counters advance and SUM_S is set. -/
  | summaryDone
  /-- `POWER_ON_RESET` (R359). VIN rises through its lockout, or a wake occurs from OFF, and everything except MRAM is reset before a load starts. -/
  | powerOnReset
  /-- `BROWN_OUT` (R353). VCORE below its threshold for 2 µs causes a power-on reset that keeps the slow domain. -/
  | brownOut
  /-- `VIN_LOCKOUT` (R353). VIN falls below its lockout threshold and the device enters OFF. -/
  | vinLockout
  /-- `SUPPLY_FAULT` (R353). VDDA, VDDL or a PCIe supply ceases to be good, with the per-supply effects on converters, Ewerlink or the link. -/
  | supplyFault (which : Fin 3)
  /-- `PIN_RESET` (R359). nRESET held low for 1 µs resets the device as at power-on, keeping MRAM and the reset counts. -/
  | pinReset
  /-- `SLOT_SELECTION` (R336). Headers are read and slots verified until the highest intact generation is found and a slot is selected, or none is intact. -/
  | slotSelection (i0 i1 i2 : List Byte)
  /-- `LOAD_PASS` (R337). The selected slot is read again and its sections take effect in image order; its bytes come in two parts, one behind the other. -/
  | loadPass (head rest : List Byte)
  /-- `CFG_NOP` (R343). CFG_CMD NOP has no effect. -/
  | cfgNop (p : Path)
  /-- `RELOAD` (R343). CFG_CMD RELOAD verifies a slot or selects by generation, then holds the device and loads without stopping the spine. -/
  | reload (p : Path) (slot : Fin 4)
  /-- `RELEASE` (R341). CFG_CMD RELEASE clears HOLD_BOOT on every channel and starts Gaffer dispatch at one tick, or is refused if the device is not held. -/
  | release (p : Path)
  /-- `CLRERR` (R343). CFG_CMD CLRERR clears CFG_LOADERR and CFG_HOSTIGN. -/
  | clrerr (p : Path)
  /-- `CAL_U_DATA_ACCESS` (R348). An access to CAL_U_DATA reads or stages the user word of the indexed quantity and auto-increments the index if AINC is set. -/
  | calUDataAccess (p : Path) (wr : Option Word)
  /-- `PW_NOP` (R355). PW_CMD NOP has no effect. -/
  | pwNop (p : Path)
  /-- `PW_RUN` (R355). PW_CMD RUN returns the device from IDLE to RUN. -/
  | pwRun (p : Path)
  /-- `PW_IDLE` (R354). PW_CMD IDLE stops Gaffer dispatch, the converters and the Orreries. -/
  | pwIdle (p : Path)
  /-- `PW_HOLD` (R355). PW_CMD HOLD holds every channel with HOLD_BOOT and stops dispatch. -/
  | pwHold (p : Path)
  /-- `PW_RETAIN` (R356). PW_CMD RETAIN holds the channels, flushes records, saves the event controller and the spine, and powers down the unretained core. -/
  | pwRetain (p : Path)
  /-- `PW_OFF` (R355). PW_CMD OFF logs PWR_STATE to MRAM and powers the device off. -/
  | pwOff (p : Path)
  /-- `PW_SOFT` (R359). PW_CMD SOFT with the key causes a SOFT reset and a load. -/
  | pwSoft (p : Path)
  /-- `PW_CMD_REFUSED` (R383). A PW_CMD with a bad key or not allowed from the present state is refused with CMD_ERR_S. -/
  | pwCmdRefused (p : Path) (v : Word)
  /-- `WKUP_IN_EDGE` (R355). A WKUP_IN active edge ends IDLE, RETAIN or OFF. -/
  | wkupInEdge (falling : Bool)
  /-- `RET_TMR_EXPIRY` (R355). PW_RET_TMR expires and the device leaves RETAIN. -/
  | retTmrExpiry
  /-- `RETAIN_EXIT` (R357). On leaving RETAIN the core is restored, the PLL relocks, the spine resumes, a load runs and the event controller is restored. -/
  | retainExit (edges : Nat)
  /-- `IDLE_WAKE` (R355). With IDLE_WAKE set, the wake condition becoming true returns the device from IDLE to RUN. -/
  | idleWake
  /-- `WATCHDOG_KICK` (R362). A write of the key to PW_WDG_KICK restarts the watchdog; any other value resets the device at once. -/
  | watchdogKick (p : Path) (v : Word)
  /-- `WDG_WARN` (R362). The watchdog reaches half its timeout and sets WDG_WARN_S. -/
  | wdgWarn
  /-- `WATCHDOG_EXPIRY` (R362). The watchdog expires and a WDG reset follows within 100 µs. -/
  | watchdogExpiry
  /-- `LINK_RESET` (R361). 20 µs after a matching doorbell frame arrives, a LINK reset occurs. -/
  | linkReset
  /-- `PSQ_NOP` (R365). PSQ_CMD NOP has no effect. -/
  | psqNop (p : Path)
  /-- `UP` (R365). PSQ_CMD UP starts a power-up sequence at once or at the set time. -/
  | psqUp (p : Path) (timed : Bool)
  /-- `DOWN` (R365). PSQ_CMD DOWN starts a power-down sequence. -/
  | psqDown (p : Path) (timed : Bool)
  /-- `ABORT` (R365). PSQ_CMD ABORT ends the running sequence and leaves every output as it stands. -/
  | psqAbort (p : Path)
  /-- `CLRFLT` (R366). PSQ_CMD CLRFLT clears the rail fault bits. -/
  | clrflt (p : Path)
  /-- `RAIL_ON` (R365). A rail's assertion time is reached, its PSEQ output is asserted and UP_DONE follows once every rail is good. -/
  | railOn (r : Fin 8)
  /-- `RAIL_OFF` (R365). A rail's deassertion time is reached, its output is deasserted and DOWN_DONE follows the last one. -/
  | railOff (r : Fin 8)
  /-- `PG_TIMEOUT` (R366). PGTO expires without PGOOD and the rail faults with the configured action. -/
  | pgTimeout (r : Fin 8)
  /-- `PG_LOST` (R366). PGOOD is lost on an asserted rail and the rail faults with the configured action. -/
  | pgLost (r : Fin 8)
  /-- `HEALTH_SAMPLE` (R369). Every 10 s the health block samples temperature, voltage, the monitors, a vernier self-test and the ECC count, then logs and re-plans.
  `vst` holds the error of each bank's vernier in 1/16 ps. -/
  | healthSample (tj : BitVec 16) (vcore : BitVec 16) (ms : List Monitor) (vst : List (BitVec 16)) (gs : List GafMeas)
  /-- `HEALTH_LIFE` (R373). Every hour the health block writes a checkpoint, emits HEALTH_LIFE and checks the margin. -/
  | healthLife
  /-- `FREEZE_BALL` (R376). The FREEZE ball becomes active for 100 ns with BALL_EN set and raises a freeze request. -/
  | freezeBall
  /-- `FREEZE_BALL_RELEASE` (R376). Release of the FREEZE ball clears the ball request and thaws if no request stands. -/
  | freezeBallRelease
  /-- `FREEZE` (R377). FRZ_CMD FREEZE stops the spine and then every block at its completion boundary. -/
  | freeze (o : FrzPort)
  /-- `THAW` (R379). FRZ_CMD THAW clears the command request; at the thaw tick the spine resumes, optionally adding the gap. -/
  | thaw (o : FrzPort)
  /-- `FRZ_NOP` (R376). FRZ_CMD NOP has no effect. -/
  | frzNop (p : Path)
  /-- `FREEZE_COMPLETE` (R377). Every block has stopped, the freeze buffer is written and FROZEN is set. -/
  | freezeComplete
  /-- `PCIE_LINK_UP` (R401). After PERST_N deasserts or the link has gone down, the PCIe link trains within 20 ms and the function answers configuration requests, with retry status until selection ends. -/
  | pcieLinkUp (wide : Bool) (speed : Fin 3) (bme : Bool) (mx : MsixCtl) (cfg : PcieCfg)
  /-- `SUPPLY_RETURN` (R353). VDDA, VDDL or a PCIe supply becomes good again, ending the refusal of conversions, the forced DOWN of the Ewerlink ports or the PCIe link-down condition. -/
  | supplyReturn (which : Fin 3)
  /-- `PGOOD_ASSERTED` (R365). An asserted rail's deglitched PGOOD input becomes good within PGTO, and UP_DONE follows once every enabled rail is asserted and good. -/
  | pgoodAsserted (r : Fin 8)
  /-- `SRAM_WINDOW_WRITE` (R296). A host write to the SRAM window stores bytes, merging partial words under ECC, for example on-chip command ring entries or Gaffer data. -/
  | sramWindowWrite (p : Path) (a : Word) (v : Word) (be : BitVec 4)
  /-- `MRAM_WINDOW_WRITE` (R375). A host write to the MRAM window takes effect in the user area and is otherwise ignored with HL_EVT.MRAM_S set. -/
  | mramWindowWrite (p : Path) (a : Word) (v : Word)
  /-- `HOST_WINDOW_READ` (R296). A host read of the SRAM or MRAM window that meets an uncorrectable ECC error returns 0xFFFF_FFFF, poisoned over PCIe, and is reported as an ECC error. -/
  | hostWindowRead (p : Path) (a : Word) (ecc : Ecc)
  deriving DecidableEq, Repr

end Sys2Proof
end

