-- ==== Sys2Proof/Decode.lean ====
section
/-!
DEFINITION. Commands by table words. The opcode table gives no row any bits: the commands are accesses of the hosts and events at the
block's pins and links, so no word spells one.
-/
namespace Sys2Proof

/-- The command that a word of the opcode table spells: none, since no row of the table has bits. Mark: DESIGN CHOICE, log entry 38. -/
def decodeTableWord (_nbits _w : Nat) : Option Instr := none

end Sys2Proof
end

