-- ==== Sys2Proof/Machine/RegMap.lean ====
section
/-!
DEFINITION. The register maps of the spec (chapters 02 to 14), one row per register: its bus offset, its index ranges,
and for each named field the bits, the access code (R305 to R311), whether it is staged (ST), its reset value (R8) and the
range of values whose encoding the map does not reserve (R7). Reserved bits are not listed: they read 0 (R6).
The constants `R.<register>` (a bus offset) and `F.<register>_<field>` (a field) name them for the rest of the model.
-/
namespace Sys2Proof.Machine

/-- Access codes of register fields (R305 to R308, R320). RL and SC fields carry the code that governs their writes:
the read side of RL is `RL_READ`'s, and the staleness of SC copies is timing, which the model leaves out. Mark: DESIGN CHOICE, log entry 31. -/
inductive Access where
  | ro | rw | rwm | w1c | w1s | wo | wol
  deriving DecidableEq, Repr

/-- One field of a register map: lowest bit, width, access, staged, reset value, least and greatest legal value. -/
structure FieldDesc where
  lo : Nat
  width : Nat
  acc : Access
  st : Bool
  reset : Nat
  mn : Nat
  mx : Nat
  deriving DecidableEq, Repr

/-- One register of a map: bus offset of its first instance, (count, stride) of each index, fields. -/
structure RegDesc where
  base : Nat
  dims : List (Nat × Nat)
  fields : List FieldDesc
  deriving DecidableEq, Repr

/-- A field by name: the register's bus offset, the lowest bit and the width. -/
structure Fld where
  reg : Nat
  lo : Nat
  width : Nat
  deriving DecidableEq, Repr


/-- Register map rows of the Spine block, part 0. -/
def mapSpine0 : List RegDesc := [
  -- SPN_CTRL
  ⟨0x01000, [], [⟨16, 16, .wo, false, 0x0, 0x0, 0xFFFF⟩,
    ⟨8, 6, .rwm, false, 0x0, 0x0, 0x3F⟩,
    ⟨6, 1, .rwm, false, 0x0, 0x0, 0x1⟩,
    ⟨5, 1, .rwm, false, 0x0, 0x0, 0x1⟩,
    ⟨4, 1, .rwm, false, 0x0, 0x0, 0x1⟩,
    ⟨3, 1, .rwm, false, 0x1, 0x0, 0x1⟩,
    ⟨2, 1, .rwm, false, 0x0, 0x0, 0x1⟩,
    ⟨0, 2, .rwm, false, 0x0, 0x0, 0x1⟩]⟩,
  -- SPN_STAT
  ⟨0x01004, [], [⟨12, 3, .ro, false, 0x0, 0x0, 0x7⟩,
    ⟨8, 4, .ro, false, 0x0, 0x0, 0xF⟩,
    ⟨6, 1, .ro, false, 0x1, 0x0, 0x1⟩,
    ⟨5, 1, .ro, false, 0x0, 0x0, 0x1⟩,
    ⟨4, 1, .ro, false, 0x0, 0x0, 0x1⟩,
    ⟨3, 1, .ro, false, 0x0, 0x0, 0x1⟩,
    ⟨2, 1, .ro, false, 0x0, 0x0, 0x1⟩,
    ⟨1, 1, .ro, false, 0x0, 0x0, 0x1⟩,
    ⟨0, 1, .ro, false, 0x0, 0x0, 0x1⟩]⟩,
  -- SPN_EVT
  ⟨0x01008, [], [⟨5, 1, .w1c, false, 0x0, 0x0, 0x1⟩,
    ⟨4, 1, .w1c, false, 0x0, 0x0, 0x1⟩,
    ⟨3, 1, .w1c, false, 0x0, 0x0, 0x1⟩,
    ⟨2, 1, .w1c, false, 0x0, 0x0, 0x1⟩,
    ⟨1, 1, .w1c, false, 0x0, 0x0, 0x1⟩,
    ⟨0, 1, .w1c, false, 0x0, 0x0, 0x1⟩]⟩,
  -- SPN_NOW_LO
  ⟨0x01010, [], [⟨0, 32, .ro, false, 0x0, 0x0, 0xFFFFFFFF⟩]⟩,
  -- SPN_NOW_HI
  ⟨0x01014, [], [⟨0, 32, .ro, false, 0x0, 0x0, 0xFFFFFFFF⟩]⟩,
  -- SPN_NOW_SUB
  ⟨0x01018, [], [⟨0, 6, .ro, false, 0x0, 0x0, 0x3F⟩]⟩,
  -- SPN_RATE
  ⟨0x01020, [], [⟨0, 32, .rw, false, 0x0, 0x0, 0xFFFFFFFF⟩]⟩,
  -- SPN_RATE_EFF
  ⟨0x01024, [], [⟨0, 32, .ro, false, 0x0, 0x0, 0xFFFFFFFF⟩]⟩,
  -- SPN_OPD_LO
  ⟨0x01030, [], [⟨0, 32, .rw, false, 0x0, 0x0, 0xFFFFFFFF⟩]⟩,
  -- SPN_OPD_HI
  ⟨0x01034, [], [⟨0, 32, .rw, false, 0x0, 0x0, 0xFFFFFFFF⟩]⟩,
  -- SPN_OPD_SUB
  ⟨0x01038, [], [⟨0, 6, .rw, false, 0x0, 0x0, 0x3F⟩]⟩,
  -- SPN_DUR
  ⟨0x0103C, [], [⟨0, 32, .rw, false, 0x0, 0x0, 0xFFFFFFFF⟩]⟩]

/-- Register map rows of the Spine block, part 1. -/
def mapSpine1 : List RegDesc := [
  -- SPN_CMD
  ⟨0x01040, [], [⟨4, 3, .wo, false, 0x0, 0x0, 0x7⟩,
    ⟨3, 1, .wo, false, 0x0, 0x0, 0x1⟩,
    ⟨0, 3, .wo, false, 0x0, 0x0, 0x7⟩]⟩,
  -- SPN_SLEW_REM
  ⟨0x01050, [], [⟨0, 32, .ro, false, 0x0, 0x0, 0xFFFFFFFF⟩]⟩,
  -- SPN_SLEW_REM_SUB
  ⟨0x01054, [], [⟨0, 6, .ro, false, 0x0, 0x0, 0x3F⟩]⟩,
  -- SPN_PPSO_PER
  ⟨0x01060, [], [⟨0, 32, .rw, false, 0x3B9ACA00, 0x64, 0xFFFFFFFF⟩]⟩,
  -- SPN_PPSO_OFS
  ⟨0x01064, [], [⟨0, 32, .rw, false, 0x0, 0x0, 0xFFFFFFFF⟩]⟩,
  -- SPN_PPSO_WID
  ⟨0x01068, [], [⟨0, 32, .rw, false, 0x5F5E100, 0x0, 0xFFFFFFFF⟩]⟩,
  -- SPN_PPSI_LO
  ⟨0x01070, [], [⟨0, 32, .ro, false, 0x0, 0x0, 0xFFFFFFFF⟩]⟩,
  -- SPN_PPSI_HI
  ⟨0x01074, [], [⟨0, 32, .ro, false, 0x0, 0x0, 0xFFFFFFFF⟩]⟩,
  -- SPN_PPSI_SUB
  ⟨0x01078, [], [⟨16, 16, .ro, false, 0x0, 0x0, 0xFFFF⟩,
    ⟨0, 6, .ro, false, 0x0, 0x0, 0x3F⟩]⟩,
  -- SPN_REFCFG
  ⟨0x01080, [], [⟨0, 2, .ro, false, 0x0, 0x0, 0x3⟩]⟩,
  -- SPN_PLL_CNT
  ⟨0x01084, [], [⟨16, 16, .ro, false, 0x0, 0x0, 0xFFFF⟩,
    ⟨0, 16, .ro, false, 0x0, 0x0, 0xFFFF⟩]⟩,
  -- SPN_SLOWPER
  ⟨0x01090, [], [⟨0, 32, .ro, false, 0x77359400, 0x0, 0xFFFFFFFF⟩]⟩]

/-- Register map rows of the Spine block, part 2. -/
def mapSpine2 : List RegDesc := [
  -- SPN_BANKCALb
  ⟨0x01100, [(12, 0x4)], [⟨24, 1, .ro, false, 0x0, 0x0, 0x1⟩,
    ⟨16, 8, .ro, false, 0x0, 0x0, 0xFF⟩,
    ⟨8, 8, .ro, false, 0x6F, 0x0, 0xFF⟩,
    ⟨0, 8, .ro, false, 0x90, 0x0, 0xFF⟩]⟩]

/-- The register map of the Spine block. -/
def mapSpine : List RegDesc := mapSpine0 ++ mapSpine1 ++ mapSpine2


/-- Register map rows of the Channel block, part 0. -/
def mapChannel0 : List RegDesc := [
  -- CHc_CTRL
  ⟨0x100000, [(96, 0x400)], [⟨16, 16, .wo, false, 0x0, 0x0, 0xFFFF⟩,
    ⟨11, 1, .rwm, true, 0x0, 0x0, 0x1⟩,
    ⟨10, 1, .rwm, false, 0x0, 0x0, 0x1⟩,
    ⟨8, 2, .rwm, true, 0x2, 0x0, 0x3⟩,
    ⟨5, 2, .rwm, true, 0x0, 0x0, 0x2⟩,
    ⟨2, 3, .rwm, true, 0x0, 0x0, 0x4⟩,
    ⟨0, 2, .rwm, true, 0x0, 0x0, 0x3⟩]⟩,
  -- CHc_AG
  ⟨0x100004, [(96, 0x400)], [⟨0, 3, .rw, false, 0x0, 0x0, 0x7⟩]⟩,
  -- CHc_PIN
  ⟨0x100008, [(96, 0x400)], [⟨16, 16, .wo, false, 0x0, 0x0, 0xFFFF⟩,
    ⟨8, 8, .rwm, true, 0x0, 0x0, 0xFF⟩,
    ⟨7, 1, .rwm, true, 0x0, 0x0, 0x1⟩,
    ⟨6, 1, .rwm, true, 0x0, 0x0, 0x1⟩,
    ⟨4, 2, .rwm, true, 0x0, 0x0, 0x2⟩,
    ⟨2, 2, .rwm, true, 0x1, 0x0, 0x3⟩,
    ⟨0, 2, .rwm, true, 0x0, 0x0, 0x2⟩]⟩,
  -- CHc_STAT
  ⟨0x10000C, [(96, 0x400)], [⟨10, 1, .ro, false, 0x0, 0x0, 0x1⟩,
    ⟨8, 2, .ro, false, 0x2, 0x0, 0x3⟩,
    ⟨6, 1, .ro, false, 0x0, 0x0, 0x1⟩,
    ⟨5, 1, .ro, false, 0x0, 0x0, 0x1⟩,
    ⟨4, 1, .ro, false, 0x0, 0x0, 0x1⟩,
    ⟨3, 1, .ro, false, 0x1, 0x0, 0x1⟩,
    ⟨2, 1, .ro, false, 0x1, 0x0, 0x1⟩,
    ⟨1, 1, .ro, false, 0x0, 0x0, 0x1⟩,
    ⟨0, 1, .ro, false, 0x0, 0x0, 0x1⟩]⟩,
  -- CHc_EVT
  ⟨0x100010, [(96, 0x400)], [⟨10, 1, .w1c, false, 0x0, 0x0, 0x1⟩,
    ⟨9, 1, .w1c, false, 0x0, 0x0, 0x1⟩,
    ⟨8, 1, .w1c, false, 0x0, 0x0, 0x1⟩,
    ⟨7, 1, .w1c, false, 0x0, 0x0, 0x1⟩,
    ⟨6, 1, .w1c, false, 0x0, 0x0, 0x1⟩,
    ⟨5, 1, .w1c, false, 0x0, 0x0, 0x1⟩,
    ⟨4, 1, .w1c, false, 0x0, 0x0, 0x1⟩,
    ⟨3, 1, .w1c, false, 0x0, 0x0, 0x1⟩,
    ⟨2, 1, .w1c, false, 0x0, 0x0, 0x1⟩,
    ⟨1, 1, .w1c, false, 0x0, 0x0, 0x1⟩,
    ⟨0, 1, .w1c, false, 0x0, 0x0, 0x1⟩]⟩,
  -- CHc_ERRCNT
  ⟨0x100014, [(96, 0x400)], [⟨16, 16, .ro, false, 0x0, 0x0, 0xFFFF⟩,
    ⟨0, 16, .ro, false, 0x0, 0x0, 0xFFFF⟩]⟩,
  -- CHc_CMPu_TGT_LO
  ⟨0x100020, [(96, 0x400), (2, 0x20)], [⟨0, 32, .rw, false, 0x0, 0x0, 0xFFFFFFFF⟩]⟩,
  -- CHc_CMPu_TGT_CTL
  ⟨0x100024, [(96, 0x400), (2, 0x20)], [⟨16, 16, .rw, false, 0x0, 0x0, 0xFFFF⟩,
    ⟨15, 1, .rw, false, 0x0, 0x0, 0x1⟩,
    ⟨10, 1, .rw, false, 0x0, 0x0, 0x1⟩,
    ⟨8, 2, .rw, false, 0x0, 0x0, 0x3⟩,
    ⟨0, 6, .rw, false, 0x0, 0x0, 0x3F⟩]⟩,
  -- CHc_CMPu_LAST_LO
  ⟨0x100028, [(96, 0x400), (2, 0x20)], [⟨0, 32, .ro, false, 0x0, 0x0, 0xFFFFFFFF⟩]⟩,
  -- CHc_CMPu_LAST_HI
  ⟨0x10002C, [(96, 0x400), (2, 0x20)], [⟨0, 32, .ro, false, 0x0, 0x0, 0xFFFFFFFF⟩]⟩,
  -- CHc_CMPu_LAST_SUB
  ⟨0x100030, [(96, 0x400), (2, 0x20)], [⟨24, 8, .ro, false, 0x0, 0x0, 0xFF⟩,
    ⟨17, 1, .ro, false, 0x0, 0x0, 0x1⟩,
    ⟨16, 1, .ro, false, 0x0, 0x0, 0x1⟩,
    ⟨8, 6, .ro, false, 0x0, 0x0, 0x3F⟩,
    ⟨0, 6, .ro, false, 0x0, 0x0, 0x3F⟩]⟩,
  -- CHc_CMPu_LATE
  ⟨0x100034, [(96, 0x400), (2, 0x20)], [⟨0, 32, .ro, false, 0x0, 0x0, 0xFFFFFFFF⟩]⟩]

/-- Register map rows of the Channel block, part 1. -/
def mapChannel1 : List RegDesc := [
  -- CHc_CAPk_CFG
  ⟨0x100080, [(96, 0x400), (2, 0x20)], [⟨16, 16, .wo, false, 0x0, 0x0, 0xFFFF⟩,
    ⟨6, 1, .rwm, true, 0x0, 0x0, 0x1⟩,
    ⟨5, 1, .rwm, true, 0x0, 0x0, 0x1⟩,
    ⟨4, 1, .rwm, true, 0x0, 0x0, 0x1⟩,
    ⟨3, 1, .rwm, true, 0x0, 0x0, 0x1⟩,
    ⟨0, 2, .rwm, true, 0x0, 0x0, 0x3⟩]⟩,
  -- CHc_CAPk_LO
  ⟨0x100084, [(96, 0x400), (2, 0x20)], [⟨0, 32, .ro, false, 0x0, 0x0, 0xFFFFFFFF⟩]⟩,
  -- CHc_CAPk_HI
  ⟨0x100088, [(96, 0x400), (2, 0x20)], [⟨0, 32, .ro, false, 0x0, 0x0, 0xFFFFFFFF⟩]⟩,
  -- CHc_CAPk_STAT
  ⟨0x10008C, [(96, 0x400), (2, 0x20)], [⟨24, 8, .ro, false, 0x0, 0x0, 0xFF⟩,
    ⟨16, 8, .ro, false, 0x0, 0x0, 0xFF⟩,
    ⟨9, 1, .ro, false, 0x0, 0x0, 0x1⟩,
    ⟨8, 1, .ro, false, 0x0, 0x0, 0x1⟩,
    ⟨7, 1, .ro, false, 0x0, 0x0, 0x1⟩,
    ⟨6, 1, .ro, false, 0x0, 0x0, 0x1⟩,
    ⟨0, 6, .ro, false, 0x0, 0x0, 0x3F⟩]⟩,
  -- CHc_CNT_CFG
  ⟨0x1000C0, [(96, 0x400)], [⟨16, 16, .wo, false, 0x0, 0x0, 0xFFFF⟩,
    ⟨9, 1, .rwm, true, 0x0, 0x0, 0x1⟩,
    ⟨8, 1, .rwm, true, 0x0, 0x0, 0x1⟩,
    ⟨7, 1, .rwm, true, 0x0, 0x0, 0x1⟩,
    ⟨6, 1, .rwm, true, 0x0, 0x0, 0x1⟩,
    ⟨5, 1, .rwm, true, 0x0, 0x0, 0x1⟩,
    ⟨0, 4, .rwm, true, 0x0, 0x0, 0x9⟩]⟩,
  -- CHc_CNT_PRESET
  ⟨0x1000C4, [(96, 0x400)], [⟨0, 32, .rw, true, 0x0, 0x0, 0xFFFFFFFF⟩]⟩,
  -- CHc_CNT_IMG
  ⟨0x1000C8, [(96, 0x400)], [⟨0, 32, .ro, false, 0x0, 0x0, 0xFFFFFFFF⟩]⟩,
  -- CHc_CNT_IMGH
  ⟨0x1000CC, [(96, 0x400)], [⟨0, 32, .ro, false, 0x0, 0x0, 0xFFFFFFFF⟩]⟩,
  -- CHc_CNT_TLO
  ⟨0x1000D0, [(96, 0x400)], [⟨0, 32, .ro, false, 0x0, 0x0, 0xFFFFFFFF⟩]⟩,
  -- CHc_CNT_THI
  ⟨0x1000D4, [(96, 0x400)], [⟨0, 32, .ro, false, 0x0, 0x0, 0xFFFFFFFF⟩]⟩,
  -- CHc_CNT_TSUB
  ⟨0x1000D8, [(96, 0x400)], [⟨12, 1, .ro, false, 0x0, 0x0, 0x1⟩,
    ⟨8, 4, .ro, false, 0x0, 0x0, 0xF⟩,
    ⟨0, 6, .ro, false, 0x0, 0x0, 0x3F⟩]⟩,
  -- CHc_FIFO_CTL
  ⟨0x100100, [(96, 0x400)], [⟨8, 4, .rw, false, 0x0, 0x0, 0xF⟩,
    ⟨4, 1, .wo, false, 0x0, 0x0, 0x1⟩,
    ⟨3, 1, .wo, false, 0x0, 0x0, 0x1⟩,
    ⟨2, 1, .wo, false, 0x0, 0x0, 0x1⟩,
    ⟨1, 1, .wo, false, 0x0, 0x0, 0x1⟩,
    ⟨0, 1, .wo, false, 0x0, 0x0, 0x1⟩]⟩]

/-- Register map rows of the Channel block, part 2. -/
def mapChannel2 : List RegDesc := [
  -- CHc_FIFO_STAT
  ⟨0x100104, [(96, 0x400)], [⟨16, 16, .ro, false, 0x0, 0x0, 0xFFFF⟩,
    ⟨12, 1, .ro, false, 0x0, 0x0, 0x1⟩,
    ⟨8, 4, .ro, false, 0x0, 0x0, 0xF⟩,
    ⟨5, 3, .ro, false, 0x0, 0x0, 0x7⟩,
    ⟨0, 5, .ro, false, 0x0, 0x0, 0x1F⟩]⟩,
  -- CHc_FIFO_BASE_LO
  ⟨0x100108, [(96, 0x400)], [⟨0, 32, .rw, false, 0x0, 0x0, 0xFFFFFFFF⟩]⟩,
  -- CHc_FIFO_BASE_SUB
  ⟨0x10010C, [(96, 0x400)], [⟨0, 6, .rw, false, 0x0, 0x0, 0x3F⟩]⟩,
  -- CHc_FIFO_ENT_LO
  ⟨0x100110, [(96, 0x400)], [⟨30, 2, .wo, false, 0x0, 0x0, 0x3⟩,
    ⟨24, 6, .wo, false, 0x0, 0x0, 0x3F⟩,
    ⟨0, 24, .wo, false, 0x0, 0x0, 0xFFFFFF⟩]⟩,
  -- CHc_FIFO_ENT_HI
  ⟨0x100114, [(96, 0x400)], [⟨19, 1, .wo, false, 0x0, 0x0, 0x1⟩,
    ⟨18, 1, .wo, false, 0x0, 0x0, 0x1⟩,
    ⟨17, 1, .wo, false, 0x0, 0x0, 0x1⟩,
    ⟨16, 1, .wo, false, 0x0, 0x0, 0x1⟩,
    ⟨0, 16, .wo, false, 0x0, 0x0, 0xFFFF⟩]⟩]

/-- The register map of the Channel block. -/
def mapChannel : List RegDesc := mapChannel0 ++ mapChannel1 ++ mapChannel2


/-- Register map rows of the Gaffer block, part 0. -/
def mapGaffer0 : List RegDesc := [
  -- Ge_CTRL
  ⟨0x40000, [(8, 0x1000)], [⟨16, 16, .wo, false, 0x0, 0x0, 0xFFFF⟩,
    ⟨8, 8, .rwm, false, 0x10, 0x0, 0xFF⟩,
    ⟨1, 1, .rwm, false, 0x0, 0x0, 0x1⟩,
    ⟨0, 1, .rwm, false, 0x0, 0x0, 0x1⟩]⟩,
  -- Ge_STAT
  ⟨0x40004, [(8, 0x1000)], [⟨16, 16, .ro, false, 0x0, 0x0, 0xFFFF⟩,
    ⟨12, 4, .ro, false, 0x0, 0x0, 0xF⟩,
    ⟨11, 1, .ro, false, 0x0, 0x0, 0x1⟩]⟩,
  -- Ge_EVT
  ⟨0x40008, [(8, 0x1000)], [⟨6, 1, .w1c, false, 0x0, 0x0, 0x1⟩,
    ⟨5, 1, .w1c, false, 0x0, 0x0, 0x1⟩,
    ⟨4, 1, .w1c, false, 0x0, 0x0, 0x1⟩,
    ⟨3, 1, .w1c, false, 0x0, 0x0, 0x1⟩,
    ⟨2, 1, .w1c, false, 0x0, 0x0, 0x1⟩,
    ⟨1, 1, .w1c, false, 0x0, 0x0, 0x1⟩,
    ⟨0, 1, .w1c, false, 0x0, 0x0, 0x1⟩]⟩,
  -- Ge_FLTMASK
  ⟨0x4000C, [(8, 0x1000)], [⟨0, 16, .ro, false, 0x0, 0x0, 0xFFFF⟩]⟩,
  -- Ge_CMD
  ⟨0x40010, [(8, 0x1000)], [⟨16, 11, .wo, false, 0x0, 0x0, 0x7FF⟩,
    ⟨4, 3, .wo, false, 0x0, 0x0, 0x7⟩,
    ⟨0, 4, .wo, false, 0x0, 0x0, 0xF⟩]⟩,
  -- Ge_CMD_STAT
  ⟨0x40014, [(8, 0x1000)], [⟨4, 4, .ro, false, 0x0, 0x0, 0xF⟩,
    ⟨0, 2, .ro, false, 0x0, 0x0, 0x3⟩]⟩,
  -- Ge_LEAD
  ⟨0x40020, [(8, 0x1000)], [⟨0, 16, .ro, false, 0x190, 0x0, 0xFFFF⟩]⟩,
  -- Ge_LEAD_MEAS
  ⟨0x40024, [(8, 0x1000)], [⟨16, 16, .ro, false, 0x0, 0x0, 0xFFFF⟩,
    ⟨0, 16, .ro, false, 0x0, 0x0, 0xFFFF⟩]⟩,
  -- Ge_LEAD_CFG
  ⟨0x40028, [(8, 0x1000)], [⟨16, 16, .rw, false, 0x7D0, 0x0, 0xFFFF⟩,
    ⟨0, 16, .rw, false, 0x190, 0x190, 0xFFFF⟩]⟩,
  -- Ge_LAT_MAX
  ⟨0x4002C, [(8, 0x1000)], [⟨0, 16, .ro, false, 0x0, 0x0, 0xFFFF⟩]⟩,
  -- Ge_SPEED
  ⟨0x40030, [(8, 0x1000)], [⟨0, 16, .ro, false, 0x0, 0x0, 0xFFFF⟩]⟩,
  -- Ge_EPH_STAT
  ⟨0x40040, [(8, 0x1000)], [⟨16, 9, .ro, false, 0x0, 0x0, 0x1FF⟩,
    ⟨0, 9, .ro, false, 0x0, 0x0, 0x1FF⟩]⟩]

/-- Register map rows of the Gaffer block, part 1. -/
def mapGaffer1 : List RegDesc := [
  -- Ge_EPH_CNT
  ⟨0x40044, [(8, 0x1000)], [⟨16, 16, .ro, false, 0x0, 0x0, 0xFFFF⟩,
    ⟨0, 16, .ro, false, 0x0, 0x0, 0xFFFF⟩]⟩,
  -- Ge_LATE_CNT
  ⟨0x40048, [(8, 0x1000)], [⟨0, 32, .ro, false, 0x0, 0x0, 0xFFFFFFFF⟩]⟩,
  -- Ge_STARVE
  ⟨0x4004C, [(8, 0x1000)], [⟨0, 16, .rw, false, 0x0, 0x0, 0xFFFF⟩]⟩,
  -- Ge_FAULT
  ⟨0x40050, [(8, 0x1000)], [⟨16, 11, .ro, false, 0x0, 0x0, 0x7FF⟩,
    ⟨8, 4, .ro, false, 0x0, 0x0, 0xF⟩,
    ⟨4, 4, .ro, false, 0x0, 0x0, 0xF⟩]⟩,
  -- Ge_PARCNT
  ⟨0x40054, [(8, 0x1000)], [⟨16, 16, .ro, false, 0x0, 0x0, 0xFFFF⟩,
    ⟨0, 16, .ro, false, 0x0, 0x0, 0xFFFF⟩]⟩,
  -- Ge_DWIN
  ⟨0x40058, [(8, 0x1000)], [⟨0, 32, .ro, false, 0x0, 0x0, 0xFFFFFFFF⟩]⟩,
  -- Ge_EPH_BASE
  ⟨0x4005C, [(8, 0x1000)], [⟨0, 32, .ro, false, 0x0, 0x0, 0xFFFFFFFF⟩]⟩,
  -- Ge_THRn_CFG
  ⟨0x40100, [(8, 0x1000), (16, 0x10)], [⟨16, 11, .rw, false, 0x0, 0x0, 0x7FF⟩,
    ⟨8, 8, .rw, false, 0x0, 0x0, 0xFF⟩,
    ⟨7, 1, .rw, false, 0x0, 0x0, 0x1⟩,
    ⟨3, 4, .rw, false, 0x0, 0x0, 0xF⟩,
    ⟨2, 1, .rw, false, 0x0, 0x0, 0x1⟩,
    ⟨0, 2, .rw, false, 0x3, 0x0, 0x3⟩]⟩,
  -- Ge_THRn_STAT
  ⟨0x40104, [(8, 0x1000), (16, 0x10)], [⟨16, 16, .ro, false, 0x0, 0x0, 0xFFFF⟩,
    ⟨8, 8, .ro, false, 0x0, 0x0, 0xFF⟩,
    ⟨0, 3, .ro, false, 0x0, 0x0, 0x7⟩]⟩,
  -- Ge_THRn_PC
  ⟨0x40108, [(8, 0x1000), (16, 0x10)], [⟨24, 8, .ro, false, 0x0, 0x0, 0xFF⟩,
    ⟨16, 1, .ro, false, 0x0, 0x0, 0x1⟩,
    ⟨0, 11, .ro, false, 0x0, 0x0, 0x7FF⟩]⟩,
  -- Ge_THRn_WAKE
  ⟨0x4010C, [(8, 0x1000), (16, 0x10)], [⟨16, 16, .ro, false, 0x0, 0x0, 0xFFFF⟩,
    ⟨0, 16, .ro, false, 0x0, 0x0, 0xFFFF⟩]⟩,
  -- Ge_SREGm_LO
  ⟨0x40200, [(8, 0x1000), (64, 0x8)], [⟨0, 32, .rw, false, 0x0, 0x0, 0xFFFFFFFF⟩]⟩]

/-- Register map rows of the Gaffer block, part 2. -/
def mapGaffer2 : List RegDesc := [
  -- Ge_SREGm_HI
  ⟨0x40204, [(8, 0x1000), (64, 0x8)], [⟨0, 8, .rw, false, 0x0, 0x0, 0xFF⟩]⟩]

/-- The register map of the Gaffer block. -/
def mapGaffer : List RegDesc := mapGaffer0 ++ mapGaffer1 ++ mapGaffer2


/-- Register map rows of the Cstore block, part 0. -/
def mapCstore0 : List RegDesc := [
  -- CSe_CTRL
  ⟨0x410000, [(8, 0x20000)], [⟨16, 16, .wo, false, 0x0, 0x0, 0xFFFF⟩,
    ⟨2, 1, .wol, false, 0x0, 0x0, 0x1⟩,
    ⟨1, 1, .rwm, false, 0x0, 0x0, 0x1⟩,
    ⟨0, 1, .rwm, false, 0x0, 0x0, 0x1⟩]⟩,
  -- CSe_STAT
  ⟨0x410004, [(8, 0x20000)], [⟨16, 16, .ro, false, 0x0, 0x0, 0xFFFF⟩,
    ⟨15, 1, .ro, false, 0x0, 0x0, 0x1⟩,
    ⟨0, 11, .ro, false, 0x0, 0x0, 0x7FF⟩]⟩]

/-- The register map of the Cstore block. -/
def mapCstore : List RegDesc := mapCstore0


/-- Register map rows of the Orrery block, part 0. -/
def mapOrrery0 : List RegDesc := [
  -- ORYn_CTRL
  ⟨0x10000, [(4, 0x1000)], [⟨16, 16, .wo, false, 0x0, 0x0, 0xFFFF⟩,
    ⟨14, 1, .rwm, true, 0x0, 0x0, 0x1⟩,
    ⟨13, 1, .rwm, true, 0x0, 0x0, 0x1⟩,
    ⟨12, 1, .rwm, true, 0x0, 0x0, 0x1⟩,
    ⟨11, 1, .rwm, true, 0x0, 0x0, 0x1⟩,
    ⟨10, 1, .rwm, true, 0x0, 0x0, 0x1⟩,
    ⟨9, 1, .rwm, true, 0x0, 0x0, 0x1⟩,
    ⟨7, 2, .rwm, true, 0x0, 0x0, 0x2⟩,
    ⟨6, 1, .rwm, true, 0x0, 0x0, 0x1⟩,
    ⟨1, 3, .rwm, true, 0x0, 0x0, 0x3⟩,
    ⟨0, 1, .rwm, true, 0x0, 0x0, 0x1⟩]⟩,
  -- ORYn_AG
  ⟨0x10004, [(4, 0x1000)], [⟨0, 3, .rw, false, 0x0, 0x0, 0x7⟩]⟩,
  -- ORYn_STAT
  ⟨0x10008, [(4, 0x1000)], [⟨18, 1, .ro, false, 0x0, 0x0, 0x1⟩,
    ⟨17, 1, .ro, false, 0x0, 0x0, 0x1⟩,
    ⟨16, 1, .ro, false, 0x0, 0x0, 0x1⟩,
    ⟨8, 8, .ro, false, 0x0, 0x0, 0xFF⟩,
    ⟨6, 1, .ro, false, 0x0, 0x0, 0x1⟩,
    ⟨5, 1, .ro, false, 0x0, 0x0, 0x1⟩,
    ⟨4, 1, .ro, false, 0x1, 0x0, 0x1⟩,
    ⟨3, 1, .ro, false, 0x0, 0x0, 0x1⟩,
    ⟨0, 3, .ro, false, 0x0, 0x0, 0x7⟩]⟩,
  -- ORYn_EVT
  ⟨0x1000C, [(4, 0x1000)], [⟨11, 1, .w1c, false, 0x0, 0x0, 0x1⟩,
    ⟨10, 1, .w1c, false, 0x0, 0x0, 0x1⟩,
    ⟨9, 1, .w1c, false, 0x0, 0x0, 0x1⟩,
    ⟨8, 1, .w1c, false, 0x0, 0x0, 0x1⟩,
    ⟨7, 1, .w1c, false, 0x0, 0x0, 0x1⟩,
    ⟨6, 1, .w1c, false, 0x0, 0x0, 0x1⟩,
    ⟨5, 1, .w1c, false, 0x0, 0x0, 0x1⟩,
    ⟨4, 1, .w1c, false, 0x0, 0x0, 0x1⟩,
    ⟨3, 1, .w1c, false, 0x0, 0x0, 0x1⟩,
    ⟨2, 1, .w1c, false, 0x0, 0x0, 0x1⟩,
    ⟨1, 1, .w1c, false, 0x0, 0x0, 0x1⟩,
    ⟨0, 1, .w1c, false, 0x0, 0x0, 0x1⟩]⟩,
  -- ORYn_IN
  ⟨0x10010, [(4, 0x1000)], [⟨23, 1, .rw, true, 0x0, 0x0, 0x1⟩,
    ⟨16, 7, .rw, true, 0x7F, 0x0, 0x7F⟩,
    ⟨15, 1, .rw, true, 0x0, 0x0, 0x1⟩,
    ⟨8, 7, .rw, true, 0x7F, 0x0, 0x7F⟩,
    ⟨7, 1, .rw, true, 0x0, 0x0, 0x1⟩,
    ⟨0, 7, .rw, true, 0x7F, 0x0, 0x7F⟩]⟩,
  -- ORYn_WHEEL
  ⟨0x10014, [(4, 0x1000)], [⟨24, 8, .rw, true, 0x28, 0x0, 0xFF⟩,
    ⟨16, 8, .rw, true, 0x18, 0x0, 0xFF⟩,
    ⟨8, 2, .rw, true, 0x2, 0x1, 0x3⟩,
    ⟨0, 8, .rw, true, 0x3C, 0x0, 0xFF⟩]⟩,
  -- ORYn_REF
  ⟨0x10018, [(4, 0x1000)], [⟨0, 24, .rw, true, 0x0, 0x0, 0xFFFFFF⟩]⟩,
  -- ORYn_CAM_LO
  ⟨0x1001C, [(4, 0x1000)], [⟨0, 24, .rw, true, 0x0, 0x0, 0xFFFFFF⟩]⟩,
  -- ORYn_CAM_HI
  ⟨0x10020, [(4, 0x1000)], [⟨0, 24, .rw, true, 0x0, 0x0, 0xFFFFFF⟩]⟩,
  -- ORYn_CAM_CFG
  ⟨0x10024, [(4, 0x1000)], [⟨0, 8, .rw, true, 0x2, 0x0, 0xFF⟩]⟩,
  -- ORYn_LINES
  ⟨0x10028, [(4, 0x1000)], [⟨16, 2, .rw, true, 0x0, 0x0, 0x3⟩,
    ⟨0, 16, .rw, true, 0x400, 0x1, 0xFFFF⟩]⟩,
  -- ORYn_MOTION
  ⟨0x1002C, [(4, 0x1000)], [⟨16, 16, .rw, true, 0xC8, 0x1, 0xFFFF⟩,
    ⟨8, 4, .rw, true, 0x2, 0x0, 0xF⟩,
    ⟨0, 4, .rw, true, 0x1, 0x0, 0xF⟩]⟩]

/-- Register map rows of the Orrery block, part 1. -/
def mapOrrery1 : List RegDesc := [
  -- ORYn_DIRPW
  ⟨0x10030, [(4, 0x1000)], [⟨0, 16, .rw, true, 0x0, 0x0, 0xFFFF⟩]⟩,
  -- ORYn_SC_CFG
  ⟨0x10034, [(4, 0x1000)], [⟨10, 1, .rw, true, 0x0, 0x0, 0x1⟩,
    ⟨0, 10, .rw, true, 0x0, 0x0, 0x3E7⟩]⟩,
  -- ORYn_SC_AMP
  ⟨0x10038, [(4, 0x1000)], [⟨16, 16, .rw, true, 0x1F00, 0x0, 0xFFFF⟩,
    ⟨0, 16, .rw, true, 0x800, 0x0, 0xFFFF⟩]⟩,
  -- ORYn_CMD
  ⟨0x10040, [(4, 0x1000)], [⟨0, 3, .wo, false, 0x0, 0x0, 0x7⟩]⟩,
  -- ORYn_OPD
  ⟨0x10044, [(4, 0x1000)], [⟨0, 32, .rw, false, 0x0, 0x0, 0xFFFFFFFF⟩]⟩,
  -- ORYn_EDGE_LO
  ⟨0x10050, [(4, 0x1000)], [⟨0, 32, .ro, false, 0x0, 0x0, 0xFFFFFFFF⟩]⟩,
  -- ORYn_EDGE_HI
  ⟨0x10054, [(4, 0x1000)], [⟨0, 32, .ro, false, 0x0, 0x0, 0xFFFFFFFF⟩]⟩,
  -- ORYn_EDGE_SUB
  ⟨0x10058, [(4, 0x1000)], [⟨0, 6, .ro, false, 0x0, 0x0, 0x3F⟩]⟩,
  -- ORYn_EDGE_ANG
  ⟨0x1005C, [(4, 0x1000)], [⟨0, 32, .ro, false, 0x0, 0x0, 0xFFFFFFFF⟩]⟩,
  -- ORYn_SPEED_LO
  ⟨0x10060, [(4, 0x1000)], [⟨0, 32, .ro, false, 0x0, 0x0, 0xFFFFFFFF⟩]⟩,
  -- ORYn_SPEED_HI
  ⟨0x10064, [(4, 0x1000)], [⟨0, 8, .ro, false, 0x0, 0x0, 0xFF⟩]⟩,
  -- ORYn_NOW_ANG
  ⟨0x10068, [(4, 0x1000)], [⟨0, 32, .ro, false, 0x0, 0x0, 0xFFFFFFFF⟩]⟩]

/-- Register map rows of the Orrery block, part 2. -/
def mapOrrery2 : List RegDesc := [
  -- ORYn_ERRCNT
  ⟨0x10070, [(4, 0x1000)], [⟨24, 8, .ro, false, 0x0, 0x0, 0xFF⟩,
    ⟨16, 8, .ro, false, 0x0, 0x0, 0xFF⟩,
    ⟨8, 8, .ro, false, 0x0, 0x0, 0xFF⟩,
    ⟨0, 8, .ro, false, 0x0, 0x0, 0xFF⟩]⟩,
  -- ORYn_ERRCNT2
  ⟨0x10074, [(4, 0x1000)], [⟨24, 8, .ro, false, 0x0, 0x0, 0xFF⟩,
    ⟨16, 8, .ro, false, 0x0, 0x0, 0xFF⟩,
    ⟨8, 8, .ro, false, 0x0, 0x0, 0xFF⟩,
    ⟨0, 8, .ro, false, 0x0, 0x0, 0xFF⟩]⟩,
  -- ORYn_IDXDIFF
  ⟨0x10078, [(4, 0x1000)], [⟨0, 32, .ro, false, 0x0, 0x0, 0xFFFFFFFF⟩]⟩,
  -- ORYn_SC_RAW
  ⟨0x10080, [(4, 0x1000)], [⟨16, 16, .ro, false, 0x0, 0x0, 0xFFFF⟩,
    ⟨0, 16, .ro, false, 0x0, 0x0, 0xFFFF⟩]⟩,
  -- ORYn_SC_LVL
  ⟨0x10084, [(4, 0x1000)], [⟨0, 16, .ro, false, 0x0, 0x0, 0xFFFF⟩]⟩]

/-- The register map of the Orrery block. -/
def mapOrrery : List RegDesc := mapOrrery0 ++ mapOrrery1 ++ mapOrrery2


/-- Register map rows of the Converter block, part 0. -/
def mapConverter0 : List RegDesc := [
  -- CV_CTRL
  ⟨0x18000, [], [⟨16, 16, .wo, false, 0x0, 0x0, 0xFFFF⟩,
    ⟨1, 1, .rwm, true, 0x0, 0x0, 0x1⟩,
    ⟨0, 1, .rwm, true, 0x0, 0x0, 0x1⟩]⟩,
  -- CV_STAT
  ⟨0x18004, [], [⟨8, 4, .ro, false, 0x0, 0x0, 0xF⟩,
    ⟨4, 4, .ro, false, 0x0, 0x0, 0xF⟩,
    ⟨1, 1, .ro, false, 0x0, 0x0, 0x1⟩,
    ⟨0, 1, .ro, false, 0x0, 0x0, 0x1⟩]⟩,
  -- CV_EVT
  ⟨0x18008, [], [⟨8, 6, .w1c, false, 0x0, 0x0, 0x3F⟩,
    ⟨2, 1, .w1c, false, 0x0, 0x0, 0x1⟩,
    ⟨1, 1, .w1c, false, 0x0, 0x0, 0x1⟩,
    ⟨0, 1, .w1c, false, 0x0, 0x0, 0x1⟩]⟩,
  -- CV_AG
  ⟨0x1800C, [], [⟨0, 3, .rw, false, 0x0, 0x0, 0x7⟩]⟩,
  -- CV_CMD
  ⟨0x18010, [], [⟨8, 1, .wo, false, 0x0, 0x0, 0x1⟩,
    ⟨0, 4, .wo, false, 0x0, 0x0, 0xF⟩]⟩,
  -- CV_PART
  ⟨0x18014, [], [⟨0, 32, .ro, false, 0x280000, 0x0, 0xFFFFFFFF⟩]⟩,
  -- CVk_SLOTj
  ⟨0x18040, [(2, 0x10), (4, 0x4)], [⟨18, 1, .rw, true, 0x0, 0x0, 0x1⟩,
    ⟨14, 4, .rw, true, 0x0, 0x0, 0xF⟩,
    ⟨10, 4, .rw, true, 0x0, 0x0, 0xF⟩,
    ⟨8, 2, .rw, true, 0x0, 0x0, 0x3⟩,
    ⟨7, 1, .rw, true, 0x0, 0x0, 0x1⟩,
    ⟨0, 7, .rw, true, 0x0, 0x0, 0x5F⟩]⟩,
  -- CVk_SEQ_LO
  ⟨0x18060, [(2, 0x8)], [⟨0, 32, .rw, true, 0x0, 0x0, 0xFFFFFFFF⟩]⟩,
  -- CVk_SEQ_HI
  ⟨0x18064, [(2, 0x8)], [⟨0, 32, .rw, true, 0x0, 0x0, 0xFFFFFFFF⟩]⟩,
  -- CVk_CNT
  ⟨0x18070, [(2, 0x4)], [⟨16, 16, .ro, false, 0x0, 0x0, 0xFFFF⟩,
    ⟨0, 16, .ro, false, 0x0, 0x0, 0xFFFF⟩]⟩,
  -- CVk_LAST
  ⟨0x18078, [(2, 0x4)], [⟨28, 4, .ro, false, 0x0, 0x0, 0xF⟩,
    ⟨16, 12, .ro, false, 0x0, 0x0, 0xFFF⟩,
    ⟨12, 1, .ro, false, 0x0, 0x0, 0x1⟩,
    ⟨0, 12, .ro, false, 0x0, 0x0, 0xFFF⟩]⟩,
  -- CVBUFb_BASE
  ⟨0x18100, [(6, 0x10)], [⟨12, 8, .rw, true, 0x0, 0x0, 0xFF⟩]⟩]

/-- Register map rows of the Converter block, part 1. -/
def mapConverter1 : List RegDesc := [
  -- CVBUFb_CFG
  ⟨0x18104, [(6, 0x10)], [⟨10, 1, .rw, true, 0x0, 0x0, 0x1⟩,
    ⟨5, 5, .rw, true, 0x0, 0x0, 0x10⟩,
    ⟨4, 1, .rw, true, 0x0, 0x0, 0x1⟩,
    ⟨0, 4, .rw, true, 0x0, 0x0, 0x8⟩]⟩,
  -- CVBUFb_WRIDX
  ⟨0x18108, [(6, 0x10)], [⟨0, 32, .ro, false, 0x0, 0x0, 0xFFFFFFFF⟩]⟩,
  -- CVBUFb_RDIDX
  ⟨0x1810C, [(6, 0x10)], [⟨0, 32, .rw, false, 0x0, 0x0, 0xFFFFFFFF⟩]⟩,
  -- CVBUFb_DROP
  ⟨0x18160, [(6, 0x4)], [⟨0, 32, .ro, false, 0x0, 0x0, 0xFFFFFFFF⟩]⟩]

/-- The register map of the Converter block. -/
def mapConverter : List RegDesc := mapConverter0 ++ mapConverter1


/-- Register map rows of the Lehr block, part 0. -/
def mapLehr0 : List RegDesc := [
  -- LH_CTRL
  ⟨0x20000, [], [⟨16, 16, .wo, false, 0x0, 0x0, 0xFFFF⟩,
    ⟨2, 2, .rwm, false, 0x0, 0x0, 0x3⟩,
    ⟨1, 1, .rwm, false, 0x0, 0x0, 0x1⟩,
    ⟨0, 1, .rwm, false, 0x0, 0x0, 0x1⟩]⟩,
  -- LH_STAT
  ⟨0x20004, [], [⟨4, 1, .ro, false, 0x0, 0x0, 0x1⟩,
    ⟨3, 1, .ro, false, 0x0, 0x0, 0x1⟩,
    ⟨2, 1, .ro, false, 0x0, 0x0, 0x1⟩,
    ⟨1, 1, .ro, false, 0x0, 0x0, 0x1⟩,
    ⟨0, 1, .ro, false, 0x0, 0x0, 0x1⟩]⟩,
  -- LH_EVT
  ⟨0x20008, [], [⟨6, 1, .w1c, false, 0x0, 0x0, 0x1⟩,
    ⟨5, 1, .w1c, false, 0x0, 0x0, 0x1⟩,
    ⟨4, 1, .w1c, false, 0x0, 0x0, 0x1⟩,
    ⟨3, 1, .w1c, false, 0x0, 0x0, 0x1⟩,
    ⟨2, 1, .w1c, false, 0x0, 0x0, 0x1⟩,
    ⟨1, 1, .w1c, false, 0x0, 0x0, 0x1⟩,
    ⟨0, 1, .w1c, false, 0x0, 0x0, 0x1⟩]⟩,
  -- LH_CASC
  ⟨0x2000C, [], [⟨0, 12, .rw, false, 0x100, 0x1, 0xFFF⟩]⟩,
  -- LH_POOL_LO
  ⟨0x20010, [], [⟨12, 20, .rw, false, 0x0, 0x0, 0xFFFFF⟩]⟩,
  -- LH_POOL_HI
  ⟨0x20014, [], [⟨0, 32, .rw, false, 0x0, 0x0, 0xFFFFFFFF⟩]⟩,
  -- LH_POOL_SZ
  ⟨0x20018, [], [⟨0, 5, .rw, false, 0x17, 0x10, 0x17⟩]⟩,
  -- LH_L1_LO
  ⟨0x20020, [], [⟨12, 20, .rw, false, 0x0, 0x0, 0xFFFFF⟩]⟩,
  -- LH_L1_HI
  ⟨0x20024, [], [⟨0, 32, .rw, false, 0x0, 0x0, 0xFFFFFFFF⟩]⟩,
  -- LH_L2_LO
  ⟨0x20028, [], [⟨12, 20, .rw, false, 0x0, 0x0, 0xFFFFF⟩]⟩,
  -- LH_L2_HI
  ⟨0x2002C, [], [⟨0, 32, .rw, false, 0x0, 0x0, 0xFFFFFFFF⟩]⟩,
  -- LH_GPOFS
  ⟨0x20030, [], [⟨12, 20, .rw, false, 0x0, 0x0, 0xFFFFF⟩]⟩]

/-- Register map rows of the Lehr block, part 1. -/
def mapLehr1 : List RegDesc := [
  -- LH_NEAR_OFS
  ⟨0x20034, [], [⟨0, 32, .ro, false, 0x80000, 0x0, 0xFFFFFFFF⟩]⟩,
  -- LH_OCC
  ⟨0x20040, [], [⟨0, 24, .ro, false, 0x0, 0x0, 0xFFFFFF⟩]⟩,
  -- LH_NEAR
  ⟨0x20044, [], [⟨0, 17, .ro, false, 0x0, 0x0, 0x1FFFF⟩]⟩,
  -- LH_FAR
  ⟨0x20048, [], [⟨0, 24, .ro, false, 0x0, 0x0, 0xFFFFFF⟩]⟩,
  -- LH_FAR_HEAD
  ⟨0x2004C, [], [⟨31, 1, .ro, false, 0x0, 0x0, 0x1⟩,
    ⟨0, 23, .ro, false, 0x0, 0x0, 0x7FFFFF⟩]⟩,
  -- LH_FIRE_CNT
  ⟨0x20050, [], [⟨0, 32, .ro, false, 0x0, 0x0, 0xFFFFFFFF⟩]⟩,
  -- LH_LATE_CNT
  ⟨0x20054, [], [⟨0, 32, .ro, false, 0x0, 0x0, 0xFFFFFFFF⟩]⟩,
  -- LH_MAXLATE
  ⟨0x20058, [], [⟨0, 32, .w1c, false, 0x0, 0x0, 0xFFFFFFFF⟩]⟩,
  -- LH_REFUSED
  ⟨0x2005C, [], [⟨0, 32, .ro, false, 0x0, 0x0, 0xFFFFFFFF⟩]⟩,
  -- LH_ERRCNT
  ⟨0x20060, [], [⟨16, 16, .ro, false, 0x0, 0x0, 0xFFFF⟩,
    ⟨0, 16, .ro, false, 0x0, 0x0, 0xFFFF⟩]⟩,
  -- LH_PFCNT
  ⟨0x20064, [], [⟨16, 16, .ro, false, 0x0, 0x0, 0xFFFF⟩,
    ⟨0, 16, .ro, false, 0x0, 0x0, 0xFFFF⟩]⟩,
  -- LH_NOW_LO
  ⟨0x20070, [], [⟨0, 32, .ro, false, 0x0, 0x0, 0xFFFFFFFF⟩]⟩]

/-- Register map rows of the Lehr block, part 2. -/
def mapLehr2 : List RegDesc := [
  -- LH_NOW_HI
  ⟨0x20074, [], [⟨0, 32, .ro, false, 0x0, 0x0, 0xFFFFFFFF⟩]⟩,
  -- LH_PB
  ⟨0x20078, [], [⟨0, 32, .ro, false, 0x0, 0x0, 0xFFFFFFFF⟩]⟩,
  -- LH_L1B
  ⟨0x2007C, [], [⟨0, 32, .ro, false, 0x0, 0x0, 0xFFFFFFFF⟩]⟩,
  -- LH_DESTd
  ⟨0x20100, [(64, 0x4)], [⟨14, 1, .rw, false, 0x0, 0x0, 0x1⟩,
    ⟨10, 4, .rw, false, 0x0, 0x0, 0xF⟩,
    ⟨7, 3, .rw, false, 0x0, 0x0, 0x7⟩,
    ⟨6, 1, .rw, false, 0x0, 0x0, 0x1⟩,
    ⟨0, 6, .rw, false, 0x0, 0x0, 0x3F⟩]⟩]

/-- The register map of the Lehr block. -/
def mapLehr : List RegDesc := mapLehr0 ++ mapLehr1 ++ mapLehr2


/-- Register map rows of the Ec block, part 0. -/
def mapEc0 : List RegDesc := [
  -- EC_CTRL
  ⟨0x02000, [], [⟨16, 16, .wo, false, 0x0, 0x0, 0xFFFF⟩,
    ⟨2, 1, .rwm, false, 0x0, 0x0, 0x1⟩,
    ⟨1, 1, .rwm, false, 0x0, 0x0, 0x1⟩,
    ⟨0, 1, .rwm, false, 0x0, 0x0, 0x1⟩]⟩,
  -- EC_STAT
  ⟨0x02004, [], [⟨9, 1, .ro, false, 0x0, 0x0, 0x1⟩,
    ⟨8, 1, .ro, false, 0x0, 0x0, 0x1⟩,
    ⟨0, 8, .ro, false, 0x0, 0x0, 0xFF⟩]⟩,
  -- EC_EVT
  ⟨0x02008, [], [⟨5, 1, .w1c, false, 0x0, 0x0, 0x1⟩,
    ⟨4, 1, .w1c, false, 0x0, 0x0, 0x1⟩,
    ⟨3, 1, .w1c, false, 0x0, 0x0, 0x1⟩,
    ⟨2, 1, .w1c, false, 0x0, 0x0, 0x1⟩,
    ⟨1, 1, .w1c, false, 0x0, 0x0, 0x1⟩,
    ⟨0, 1, .w1c, false, 0x0, 0x0, 0x1⟩]⟩,
  -- EC_IDX
  ⟨0x0200C, [], [⟨0, 10, .rw, false, 0x0, 0x0, 0x3FF⟩]⟩,
  -- EC_TGT
  ⟨0x02010, [], [⟨13, 3, .rw, false, 0x0, 0x0, 0x7⟩,
    ⟨9, 4, .rw, false, 0x0, 0x0, 0xF⟩,
    ⟨8, 1, .rw, false, 0x0, 0x0, 0x1⟩,
    ⟨0, 8, .rw, false, 0x0, 0x0, 0xFF⟩]⟩,
  -- EC_ROUTE
  ⟨0x02014, [], [⟨14, 1, .rw, false, 0x0, 0x0, 0x1⟩,
    ⟨8, 6, .rw, false, 0x0, 0x0, 0x3F⟩,
    ⟨6, 1, .rw, false, 0x0, 0x0, 0x1⟩,
    ⟨0, 6, .rw, false, 0x0, 0x0, 0x3F⟩]⟩,
  -- EC_ALTTYPE_LO
  ⟨0x02018, [], [⟨0, 32, .rw, false, 0x0, 0x0, 0xFFFFFFFF⟩]⟩,
  -- EC_ALTTYPE_HI
  ⟨0x0201C, [], [⟨0, 32, .rw, false, 0x0, 0x0, 0xFFFFFFFF⟩]⟩,
  -- EC_DOORBELL
  ⟨0x02020, [], [⟨0, 10, .wo, false, 0x0, 0x0, 0x3FF⟩]⟩,
  -- EC_WAKE
  ⟨0x02024, [], [⟨16, 16, .wo, false, 0x0, 0x0, 0xFFFF⟩,
    ⟨8, 1, .rwm, false, 0x0, 0x0, 0x1⟩,
    ⟨0, 8, .rwm, false, 0x0, 0x0, 0xFF⟩]⟩,
  -- EC_STRAY
  ⟨0x02028, [], [⟨0, 32, .ro, false, 0x0, 0x0, 0xFFFFFFFF⟩]⟩,
  -- EC_LOST2
  ⟨0x0202C, [], [⟨0, 32, .ro, false, 0x0, 0x0, 0xFFFFFFFF⟩]⟩]

/-- Register map rows of the Ec block, part 1. -/
def mapEc1 : List RegDesc := [
  -- EC_SPUR
  ⟨0x02030, [], [⟨0, 32, .ro, false, 0x0, 0x0, 0xFFFFFFFF⟩]⟩,
  -- EC_DISCARD
  ⟨0x02034, [], [⟨0, 32, .ro, false, 0x0, 0x0, 0xFFFFFFFF⟩]⟩,
  -- EC_CLAIMt
  ⟨0x02040, [(8, 0x10)], [⟨0, 10, .ro, false, 0x3FF, 0x0, 0x3FF⟩]⟩,
  -- EC_COMPLETEt
  ⟨0x02044, [(8, 0x10)], [⟨0, 10, .wo, false, 0x0, 0x0, 0x3FF⟩]⟩,
  -- EC_TCFGt
  ⟨0x02048, [(8, 0x10)], [⟨3, 1, .rw, false, 0x0, 0x0, 0x1⟩,
    ⟨1, 2, .rw, false, 0x0, 0x0, 0x2⟩,
    ⟨0, 1, .rw, false, 0x0, 0x0, 0x1⟩]⟩,
  -- EC_TSTATt
  ⟨0x0204C, [(8, 0x10)], [⟨0, 11, .ro, false, 0x0, 0x0, 0x7FF⟩]⟩,
  -- EC_PENDw
  ⟨0x02100, [(32, 0x4)], [⟨0, 32, .rw, false, 0x0, 0x0, 0xFFFFFFFF⟩]⟩,
  -- EC_ENw
  ⟨0x02180, [(32, 0x4)], [⟨0, 32, .rw, false, 0x0, 0x0, 0xFFFFFFFF⟩]⟩,
  -- EC_ACTw
  ⟨0x02200, [(32, 0x4)], [⟨0, 32, .ro, false, 0x0, 0x0, 0xFFFFFFFF⟩]⟩,
  -- EC_LVLw
  ⟨0x02280, [(32, 0x4)], [⟨0, 32, .ro, false, 0x0, 0x0, 0xFFFFFFFF⟩]⟩]

/-- The register map of the Ec block. -/
def mapEc : List RegDesc := mapEc0 ++ mapEc1


/-- Register map rows of the Ring block, part 0. -/
def mapRing0 : List RegDesc := [
  -- RINGn_CFG
  ⟨0x30000, [(64, 0x40)], [⟨16, 6, .rw, false, 0x0, 0x0, 0x3F⟩,
    ⟨10, 1, .rw, false, 0x0, 0x0, 0x1⟩,
    ⟨8, 2, .rw, false, 0x0, 0x0, 0x2⟩,
    ⟨7, 1, .rw, false, 0x0, 0x0, 0x1⟩,
    ⟨3, 4, .rw, false, 0x0, 0x0, 0xC⟩,
    ⟨2, 1, .rw, false, 0x0, 0x0, 0x1⟩,
    ⟨1, 1, .rw, false, 0x0, 0x0, 0x1⟩,
    ⟨0, 1, .rw, false, 0x0, 0x0, 0x1⟩]⟩,
  -- RINGn_BASE_LO
  ⟨0x30004, [(64, 0x40)], [⟨9, 23, .rw, false, 0x0, 0x0, 0x7FFFFF⟩]⟩,
  -- RINGn_BASE_HI
  ⟨0x30008, [(64, 0x40)], [⟨0, 32, .rw, false, 0x0, 0x0, 0xFFFFFFFF⟩]⟩,
  -- RINGn_HEAD
  ⟨0x3000C, [(64, 0x40)], [⟨0, 32, .ro, false, 0x0, 0x0, 0xFFFFFFFF⟩]⟩,
  -- RINGn_TAIL
  ⟨0x30010, [(64, 0x40)], [⟨0, 32, .rw, false, 0x0, 0x0, 0xFFFFFFFF⟩]⟩,
  -- RINGn_HADDR_LO
  ⟨0x30014, [(64, 0x40)], [⟨3, 29, .rw, false, 0x0, 0x0, 0x1FFFFFFF⟩]⟩,
  -- RINGn_HADDR_HI
  ⟨0x30018, [(64, 0x40)], [⟨0, 32, .rw, false, 0x0, 0x0, 0xFFFFFFFF⟩]⟩,
  -- RINGn_STAT
  ⟨0x3001C, [(64, 0x40)], [⟨4, 4, .ro, false, 0x0, 0x0, 0xF⟩,
    ⟨3, 1, .ro, false, 0x0, 0x0, 0x1⟩,
    ⟨2, 1, .ro, false, 0x1, 0x0, 0x1⟩,
    ⟨1, 1, .ro, false, 0x0, 0x0, 0x1⟩,
    ⟨0, 1, .ro, false, 0x0, 0x0, 0x1⟩]⟩,
  -- RINGn_LOSTCNT
  ⟨0x30020, [(64, 0x40)], [⟨0, 32, .ro, false, 0x0, 0x0, 0xFFFFFFFF⟩]⟩,
  -- RINGn_REFUSED
  ⟨0x30024, [(64, 0x40)], [⟨0, 32, .ro, false, 0x0, 0x0, 0xFFFFFFFF⟩]⟩,
  -- RINGn_EVT
  ⟨0x30028, [(64, 0x40)], [⟨3, 1, .w1c, false, 0x0, 0x0, 0x1⟩,
    ⟨2, 1, .w1c, false, 0x0, 0x0, 0x1⟩,
    ⟨1, 1, .w1c, false, 0x0, 0x0, 0x1⟩,
    ⟨0, 1, .w1c, false, 0x0, 0x0, 0x1⟩]⟩]

/-- The register map of the Ring block. -/
def mapRing : List RegDesc := mapRing0


/-- Register map rows of the Ewerlink block, part 0. -/
def mapEwerlink0 : List RegDesc := [
  -- EL_CTRL
  ⟨0x04000, [], [⟨16, 16, .wo, false, 0x0, 0x0, 0xFFFF⟩,
    ⟨8, 4, .rwm, false, 0x0, 0x0, 0xF⟩,
    ⟨0, 1, .rwm, false, 0x0, 0x0, 0x1⟩]⟩,
  -- EL_STAT
  ⟨0x04004, [], [⟨22, 10, .ro, false, 0x0, 0x0, 0x3FF⟩,
    ⟨17, 5, .ro, false, 0x1F, 0x0, 0x1F⟩,
    ⟨14, 3, .ro, false, 0x0, 0x0, 0x7⟩,
    ⟨12, 2, .ro, false, 0x0, 0x0, 0x3⟩,
    ⟨10, 2, .ro, false, 0x0, 0x0, 0x3⟩,
    ⟨9, 1, .ro, false, 0x0, 0x0, 0x1⟩,
    ⟨8, 1, .ro, false, 0x0, 0x0, 0x1⟩,
    ⟨7, 1, .ro, false, 0x0, 0x0, 0x1⟩,
    ⟨6, 1, .ro, false, 0x0, 0x0, 0x1⟩]⟩,
  -- EL_EVT
  ⟨0x04008, [], [⟨9, 1, .w1c, false, 0x0, 0x0, 0x1⟩,
    ⟨8, 1, .w1c, false, 0x0, 0x0, 0x1⟩,
    ⟨7, 1, .w1c, false, 0x0, 0x0, 0x1⟩,
    ⟨6, 1, .w1c, false, 0x0, 0x0, 0x1⟩,
    ⟨5, 1, .w1c, false, 0x0, 0x0, 0x1⟩,
    ⟨4, 1, .w1c, false, 0x0, 0x0, 0x1⟩,
    ⟨3, 1, .w1c, false, 0x0, 0x0, 0x1⟩,
    ⟨2, 1, .w1c, false, 0x0, 0x0, 0x1⟩,
    ⟨1, 1, .w1c, false, 0x0, 0x0, 0x1⟩,
    ⟨0, 1, .w1c, false, 0x0, 0x0, 0x1⟩]⟩,
  -- EL_ID
  ⟨0x0400C, [], [⟨26, 1, .ro, false, 0x0, 0x0, 0x1⟩,
    ⟨16, 10, .ro, false, 0x0, 0x0, 0x3FF⟩,
    ⟨0, 10, .rw, false, 0x0, 0x0, 0x3FF⟩]⟩,
  -- EL_PRIO
  ⟨0x04010, [], [⟨8, 1, .rw, false, 0x1, 0x0, 0x1⟩,
    ⟨0, 8, .rw, false, 0x80, 0x0, 0xFF⟩]⟩,
  -- EL_UID_LO
  ⟨0x04014, [], [⟨0, 32, .ro, false, 0x0, 0x0, 0xFFFFFFFF⟩]⟩,
  -- EL_UID_HI
  ⟨0x04018, [], [⟨0, 32, .ro, false, 0x0, 0x0, 0xFFFFFFFF⟩]⟩,
  -- EL_ROOT_LO
  ⟨0x0401C, [], [⟨0, 32, .ro, false, 0x0, 0x0, 0xFFFFFFFF⟩]⟩,
  -- EL_ROOT_HI
  ⟨0x04020, [], [⟨0, 32, .ro, false, 0x0, 0x0, 0xFFFFFFFF⟩]⟩,
  -- EL_ROOT_PRIO
  ⟨0x04024, [], [⟨16, 16, .ro, false, 0x0, 0x0, 0xFFFF⟩,
    ⟨0, 8, .ro, false, 0x0, 0x0, 0xFF⟩]⟩,
  -- ELp_STAT
  ⟨0x04040, [(4, 0x10)], [⟨16, 10, .ro, false, 0x0, 0x0, 0x3FF⟩,
    ⟨7, 1, .ro, false, 0x0, 0x0, 0x1⟩,
    ⟨6, 1, .ro, false, 0x0, 0x0, 0x1⟩,
    ⟨4, 2, .ro, false, 0x0, 0x0, 0x3⟩,
    ⟨0, 3, .ro, false, 0x0, 0x0, 0x7⟩]⟩,
  -- ELp_ERR
  ⟨0x04044, [(4, 0x10)], [⟨16, 16, .ro, false, 0x0, 0x0, 0xFFFF⟩,
    ⟨0, 16, .ro, false, 0x0, 0x0, 0xFFFF⟩]⟩]

/-- Register map rows of the Ewerlink block, part 1. -/
def mapEwerlink1 : List RegDesc := [
  -- ELp_DLY
  ⟨0x04048, [(4, 0x10)], [⟨27, 5, .ro, false, 0x0, 0x0, 0x1F⟩,
    ⟨0, 24, .ro, false, 0x0, 0x0, 0xFFFFFF⟩]⟩,
  -- ELp_CNT
  ⟨0x0404C, [(4, 0x10)], [⟨16, 16, .ro, false, 0x0, 0x0, 0xFFFF⟩,
    ⟨0, 16, .ro, false, 0x0, 0x0, 0xFFFF⟩]⟩,
  -- EL_SRV_CFG
  ⟨0x04080, [], [⟨12, 3, .rw, false, 0x3, 0x0, 0x7⟩,
    ⟨8, 4, .rw, false, 0x6, 0x1, 0xF⟩,
    ⟨0, 4, .rw, false, 0x2, 0x0, 0xF⟩]⟩,
  -- EL_SRV_THR
  ⟨0x04084, [], [⟨16, 16, .rw, false, 0x280, 0x0, 0xFFFF⟩,
    ⟨0, 16, .rw, false, 0x40, 0x0, 0xFFFF⟩]⟩,
  -- EL_SRV_STEP
  ⟨0x04088, [], [⟨0, 32, .rw, false, 0x3E8, 0x1, 0xFFFFFFFF⟩]⟩,
  -- EL_SRV_OFS
  ⟨0x0408C, [], [⟨0, 32, .ro, false, 0x0, 0x0, 0xFFFFFFFF⟩]⟩,
  -- EL_SRV_INT
  ⟨0x04090, [], [⟨0, 32, .ro, false, 0x0, 0x0, 0xFFFFFFFF⟩]⟩,
  -- EL_SRV_CNT
  ⟨0x04094, [], [⟨16, 16, .ro, false, 0x0, 0x0, 0xFFFF⟩,
    ⟨0, 16, .ro, false, 0x0, 0x0, 0xFFFF⟩]⟩,
  -- EL_TAB
  ⟨0x040A0, [], [⟨0, 11, .ro, false, 0x0, 0x0, 0x7FF⟩]⟩,
  -- EL_TABIDX
  ⟨0x040A4, [], [⟨0, 10, .rw, false, 0x0, 0x0, 0x3FF⟩]⟩,
  -- EL_TABENT
  ⟨0x040A8, [], [⟨31, 1, .ro, false, 0x0, 0x0, 0x1⟩,
    ⟨0, 2, .ro, false, 0x0, 0x0, 0x3⟩]⟩,
  -- EL_DROP
  ⟨0x040B0, [], [⟨16, 16, .ro, false, 0x0, 0x0, 0xFFFF⟩,
    ⟨0, 16, .ro, false, 0x0, 0x0, 0xFFFF⟩]⟩]

/-- Register map rows of the Ewerlink block, part 2. -/
def mapEwerlink2 : List RegDesc := [
  -- EL_CNT2
  ⟨0x040B4, [], [⟨16, 16, .ro, false, 0x0, 0x0, 0xFFFF⟩,
    ⟨8, 8, .ro, false, 0x0, 0x0, 0xFF⟩,
    ⟨0, 8, .ro, false, 0x0, 0x0, 0xFF⟩]⟩,
  -- EL_CMD
  ⟨0x040C0, [], [⟨0, 2, .wo, false, 0x0, 0x0, 0x3⟩]⟩]

/-- The register map of the Ewerlink block. -/
def mapEwerlink : List RegDesc := mapEwerlink0 ++ mapEwerlink1 ++ mapEwerlink2


/-- Register map rows of the Global block, part 0. -/
def mapGlobal0 : List RegDesc := [
  -- ID
  ⟨0x00000, [], [⟨16, 16, .ro, false, 0x96, 0x0, 0xFFFF⟩,
    ⟨8, 8, .ro, false, 0x5A, 0x0, 0xFF⟩,
    ⟨0, 8, .ro, false, 0xA1, 0x0, 0xFF⟩]⟩,
  -- GL_STAT
  ⟨0x00004, [], [⟨5, 1, .ro, false, 0x0, 0x0, 0x1⟩,
    ⟨4, 1, .ro, false, 0x0, 0x0, 0x1⟩,
    ⟨3, 1, .ro, false, 0x0, 0x0, 0x1⟩,
    ⟨2, 1, .ro, false, 0x0, 0x0, 0x1⟩,
    ⟨1, 1, .ro, false, 0x0, 0x0, 0x1⟩,
    ⟨0, 1, .ro, false, 0x0, 0x0, 0x1⟩]⟩,
  -- GL_EVT
  ⟨0x00008, [], [⟨7, 1, .w1c, false, 0x0, 0x0, 0x1⟩,
    ⟨6, 1, .w1c, false, 0x0, 0x0, 0x1⟩,
    ⟨5, 1, .w1c, false, 0x0, 0x0, 0x1⟩,
    ⟨4, 1, .w1c, false, 0x0, 0x0, 0x1⟩,
    ⟨3, 1, .w1c, false, 0x0, 0x0, 0x1⟩,
    ⟨2, 1, .w1c, false, 0x0, 0x0, 0x1⟩,
    ⟨1, 1, .w1c, false, 0x0, 0x0, 0x1⟩,
    ⟨0, 1, .w1c, false, 0x0, 0x0, 0x1⟩]⟩,
  -- GL_LOCK
  ⟨0x00010, [], [⟨0, 12, .w1s, false, 0x0, 0x0, 0xFFF⟩]⟩,
  -- GL_LOCK_VIOL
  ⟨0x00014, [], [⟨0, 32, .ro, false, 0x0, 0x0, 0xFFFFFFFF⟩]⟩,
  -- GL_LOCK_LAST
  ⟨0x00018, [], [⟨26, 2, .ro, false, 0x0, 0x0, 0x3⟩,
    ⟨0, 26, .ro, false, 0x0, 0x0, 0x3FFFFFF⟩]⟩,
  -- GL_HOSTTAG
  ⟨0x0001C, [], [⟨0, 32, .wol, false, 0x0, 0x0, 0xFFFFFFFF⟩]⟩,
  -- GL_CFGGEN
  ⟨0x00020, [], [⟨0, 32, .ro, false, 0x0, 0x0, 0xFFFFFFFF⟩]⟩,
  -- GL_SIGCMD
  ⟨0x00024, [], [⟨0, 1, .wo, false, 0x0, 0x0, 0x1⟩]⟩,
  -- GL_SIGSTAT
  ⟨0x00028, [], [⟨16, 16, .ro, false, 0x0, 0x0, 0xFFFF⟩,
    ⟨2, 2, .ro, false, 0x0, 0x0, 0x3⟩,
    ⟨1, 1, .ro, false, 0x0, 0x0, 0x1⟩,
    ⟨0, 1, .ro, false, 0x0, 0x0, 0x1⟩]⟩,
  -- GL_SIG
  ⟨0x0002C, [], [⟨0, 32, .ro, false, 0x0, 0x0, 0xFFFFFFFF⟩]⟩,
  -- GL_SIGGEN
  ⟨0x00030, [], [⟨0, 32, .ro, false, 0x0, 0x0, 0xFFFFFFFF⟩]⟩]

/-- Register map rows of the Global block, part 1. -/
def mapGlobal1 : List RegDesc := [
  -- GL_SUMCMD
  ⟨0x00034, [], [⟨0, 1, .wo, false, 0x0, 0x0, 0x1⟩]⟩,
  -- GL_SUMCFG
  ⟨0x00038, [], [⟨0, 16, .rw, false, 0x0, 0x0, 0xFFFF⟩]⟩,
  -- GL_SUMSTAT
  ⟨0x0003C, [], [⟨0, 1, .ro, false, 0x0, 0x0, 0x1⟩]⟩,
  -- GL_SUMCNT
  ⟨0x00040, [], [⟨0, 32, .ro, false, 0x0, 0x0, 0xFFFFFFFF⟩]⟩,
  -- GL_SUMOFS
  ⟨0x00044, [], [⟨0, 32, .ro, false, 0x3A0000, 0x0, 0xFFFFFFFF⟩]⟩,
  -- GL_SPICFG
  ⟨0x00050, [], [⟨0, 5, .rw, false, 0x10, 0x4, 0x1F⟩]⟩,
  -- GL_SPISTAT
  ⟨0x00054, [], [⟨16, 16, .ro, false, 0x0, 0x0, 0xFFFF⟩,
    ⟨0, 16, .ro, false, 0x0, 0x0, 0xFFFF⟩]⟩,
  -- GL_ERRCNT
  ⟨0x00058, [], [⟨16, 16, .ro, false, 0x0, 0x0, 0xFFFF⟩,
    ⟨0, 16, .ro, false, 0x0, 0x0, 0xFFFF⟩]⟩,
  -- GL_SCRATCHn
  ⟨0x00060, [(4, 0x4)], [⟨0, 32, .rw, false, 0x0, 0x0, 0xFFFFFFFF⟩]⟩,
  -- GL_PCIE
  ⟨0x00070, [], [⟨16, 16, .ro, false, 0x0, 0x0, 0xFFFF⟩,
    ⟨8, 2, .ro, false, 0x0, 0x0, 0x3⟩,
    ⟨7, 1, .ro, false, 0x0, 0x0, 0x1⟩,
    ⟨6, 1, .ro, false, 0x0, 0x0, 0x1⟩,
    ⟨5, 1, .ro, false, 0x0, 0x0, 0x1⟩,
    ⟨4, 1, .ro, false, 0x0, 0x0, 0x1⟩,
    ⟨2, 2, .ro, false, 0x0, 0x0, 0x3⟩,
    ⟨0, 2, .ro, false, 0x0, 0x0, 0x3⟩]⟩]

/-- The register map of the Global block. -/
def mapGlobal : List RegDesc := mapGlobal0 ++ mapGlobal1


/-- Register map rows of the Apply block, part 0. -/
def mapApply0 : List RegDesc := [
  -- AP_CTRL
  ⟨0x03000, [], [⟨16, 16, .wo, false, 0x0, 0x0, 0xFFFF⟩,
    ⟨1, 1, .rwm, false, 0x0, 0x0, 0x1⟩,
    ⟨0, 1, .rwm, false, 0x0, 0x0, 0x1⟩]⟩,
  -- AP_STAT
  ⟨0x03004, [], [⟨8, 4, .ro, false, 0x0, 0x0, 0xF⟩,
    ⟨0, 8, .ro, false, 0x0, 0x0, 0xFF⟩]⟩,
  -- AP_EVT
  ⟨0x03008, [], [⟨3, 1, .w1c, false, 0x0, 0x0, 0x1⟩,
    ⟨2, 1, .w1c, false, 0x0, 0x0, 0x1⟩,
    ⟨1, 1, .w1c, false, 0x0, 0x0, 0x1⟩,
    ⟨0, 1, .w1c, false, 0x0, 0x0, 0x1⟩]⟩,
  -- AP_APPLY
  ⟨0x03010, [], [⟨0, 8, .wo, false, 0x0, 0x0, 0xFF⟩]⟩,
  -- AP_AT_LO
  ⟨0x03014, [], [⟨0, 32, .rw, false, 0x0, 0x0, 0xFFFFFFFF⟩]⟩,
  -- AP_AT_HI
  ⟨0x03018, [], [⟨0, 32, .rw, false, 0x0, 0x0, 0xFFFFFFFF⟩]⟩,
  -- AP_AT_CMD
  ⟨0x0301C, [], [⟨0, 8, .wo, false, 0x0, 0x0, 0xFF⟩]⟩,
  -- AP_CANCEL
  ⟨0x03020, [], [⟨0, 8, .wo, false, 0x0, 0x0, 0xFF⟩]⟩,
  -- AP_ABORT
  ⟨0x03024, [], [⟨0, 8, .wo, false, 0x0, 0x0, 0xFF⟩]⟩,
  -- AP_FENCE
  ⟨0x03028, [], [⟨0, 32, .rw, false, 0x0, 0x0, 0xFFFFFFFF⟩]⟩,
  -- AP_PENDi_LO
  ⟨0x03040, [(8, 0x10)], [⟨0, 32, .ro, false, 0x0, 0x0, 0xFFFFFFFF⟩]⟩,
  -- AP_PENDi_HI
  ⟨0x03044, [(8, 0x10)], [⟨0, 32, .ro, false, 0x0, 0x0, 0xFFFFFFFF⟩]⟩]

/-- Register map rows of the Apply block, part 1. -/
def mapApply1 : List RegDesc := [
  -- AP_PENDi_INFO
  ⟨0x03048, [(8, 0x10)], [⟨16, 10, .ro, false, 0x0, 0x0, 0x3FF⟩,
    ⟨10, 1, .ro, false, 0x0, 0x0, 0x1⟩,
    ⟨8, 2, .ro, false, 0x0, 0x0, 0x3⟩,
    ⟨0, 8, .ro, false, 0x0, 0x0, 0xFF⟩]⟩,
  -- AP_PENDi_BSEQ
  ⟨0x0304C, [(8, 0x10)], [⟨0, 16, .ro, false, 0x0, 0x0, 0xFFFF⟩]⟩,
  -- AP_LAST_LO
  ⟨0x030C0, [], [⟨0, 32, .ro, false, 0x0, 0x0, 0xFFFFFFFF⟩]⟩,
  -- AP_LAST_HI
  ⟨0x030C4, [], [⟨0, 32, .ro, false, 0x0, 0x0, 0xFFFFFFFF⟩]⟩,
  -- AP_LAST_INFO
  ⟨0x030C8, [], [⟨8, 8, .ro, false, 0x0, 0x0, 0xFF⟩,
    ⟨0, 8, .ro, false, 0x0, 0x0, 0xFF⟩]⟩,
  -- AP_CNT
  ⟨0x030D0, [], [⟨16, 16, .ro, false, 0x0, 0x0, 0xFFFF⟩,
    ⟨0, 16, .ro, false, 0x0, 0x0, 0xFFFF⟩]⟩]

/-- The register map of the Apply block. -/
def mapApply : List RegDesc := mapApply0 ++ mapApply1


/-- Register map rows of the Cfg block, part 0. -/
def mapCfg0 : List RegDesc := [
  -- CFG_STAT
  ⟨0x06000, [], [⟨12, 1, .ro, false, 0x1, 0x0, 0x1⟩,
    ⟨11, 1, .ro, false, 0x0, 0x0, 0x1⟩,
    ⟨10, 1, .ro, false, 0x0, 0x0, 0x1⟩,
    ⟨9, 1, .ro, false, 0x0, 0x0, 0x1⟩,
    ⟨8, 1, .ro, false, 0x0, 0x0, 0x1⟩,
    ⟨5, 3, .ro, false, 0x0, 0x0, 0x7⟩,
    ⟨4, 1, .ro, false, 0x0, 0x0, 0x1⟩,
    ⟨3, 1, .ro, false, 0x0, 0x0, 0x1⟩,
    ⟨2, 1, .ro, false, 0x1, 0x0, 0x1⟩,
    ⟨0, 2, .ro, false, 0x0, 0x0, 0x3⟩]⟩,
  -- CFG_EVT
  ⟨0x06004, [], [⟨5, 1, .w1c, false, 0x0, 0x0, 0x1⟩,
    ⟨4, 1, .w1c, false, 0x0, 0x0, 0x1⟩,
    ⟨3, 1, .w1c, false, 0x0, 0x0, 0x1⟩,
    ⟨2, 1, .w1c, false, 0x0, 0x0, 0x1⟩,
    ⟨1, 1, .w1c, false, 0x0, 0x0, 0x1⟩,
    ⟨0, 1, .w1c, false, 0x0, 0x0, 0x1⟩]⟩,
  -- CFG_CMD
  ⟨0x06008, [], [⟨4, 2, .wo, false, 0x3, 0x0, 0x3⟩,
    ⟨0, 3, .wo, false, 0x0, 0x0, 0x7⟩]⟩,
  -- CFG_SLOTs_GEN
  ⟨0x06010, [(3, 0x10)], [⟨0, 32, .ro, false, 0x0, 0x0, 0xFFFFFFFF⟩]⟩,
  -- CFG_SLOTs_DIG
  ⟨0x06014, [(3, 0x10)], [⟨0, 32, .ro, false, 0x0, 0x0, 0xFFFFFFFF⟩]⟩,
  -- CFG_SLOTs_STAT
  ⟨0x06018, [(3, 0x10)], [⟨16, 16, .ro, false, 0x0, 0x0, 0xFFFF⟩,
    ⟨0, 4, .ro, false, 0x5, 0x0, 0xF⟩]⟩,
  -- CFG_LOADERR
  ⟨0x06040, [], [⟨16, 16, .ro, false, 0x0, 0x0, 0xFFFF⟩,
    ⟨0, 16, .ro, false, 0x0, 0x0, 0xFFFF⟩]⟩,
  -- CFG_BOOTTIME
  ⟨0x06044, [], [⟨0, 32, .ro, false, 0x0, 0x0, 0xFFFFFFFF⟩]⟩,
  -- CFG_HOSTIGN
  ⟨0x06048, [], [⟨0, 32, .ro, false, 0x0, 0x0, 0xFFFFFFFF⟩]⟩]

/-- The register map of the Cfg block. -/
def mapCfg : List RegDesc := mapCfg0


/-- Register map rows of the Cal block, part 0. -/
def mapCal0 : List RegDesc := [
  -- CAL_AG
  ⟨0x06080, [], [⟨12, 3, .rw, false, 0x0, 0x0, 0x7⟩,
    ⟨8, 3, .rw, false, 0x0, 0x0, 0x7⟩,
    ⟨4, 3, .rw, false, 0x0, 0x0, 0x7⟩,
    ⟨0, 3, .rw, false, 0x0, 0x0, 0x7⟩]⟩,
  -- CAL_IDX
  ⟨0x06084, [], [⟨16, 1, .rw, false, 0x0, 0x0, 0x1⟩,
    ⟨0, 12, .rw, false, 0x0, 0x0, 0xFFF⟩]⟩,
  -- CAL_F_DATA
  ⟨0x06088, [], [⟨0, 32, .ro, false, 0x0, 0x0, 0xFFFFFFFF⟩]⟩,
  -- CAL_U_DATA
  ⟨0x0608C, [], [⟨0, 32, .rw, true, 0x0, 0x0, 0xFFFFFFFF⟩]⟩,
  -- CAL_E_DATA
  ⟨0x06090, [], [⟨0, 32, .ro, false, 0x0, 0x0, 0xFFFFFFFF⟩]⟩,
  -- CAL_VOTE
  ⟨0x06098, [], [⟨31, 1, .ro, false, 0x0, 0x0, 0x1⟩,
    ⟨0, 11, .ro, false, 0x0, 0x0, 0x7FF⟩]⟩,
  -- CAL_OTP_IDX
  ⟨0x060A0, [], [⟨0, 11, .rw, false, 0x0, 0x0, 0x7FF⟩]⟩,
  -- CAL_OTP_DATA
  ⟨0x060A4, [], [⟨0, 32, .ro, false, 0x0, 0x0, 0xFFFFFFFF⟩]⟩,
  -- CAL_OTP_DIFF
  ⟨0x060A8, [], [⟨0, 32, .ro, false, 0x0, 0x0, 0xFFFFFFFF⟩]⟩]

/-- The register map of the Cal block. -/
def mapCal : List RegDesc := mapCal0


/-- Register map rows of the Power block, part 0. -/
def mapPower0 : List RegDesc := [
  -- PW_CTRL
  ⟨0x05000, [], [⟨16, 16, .wo, false, 0x0, 0x0, 0xFFFF⟩,
    ⟨5, 1, .rwm, false, 0x0, 0x0, 0x1⟩,
    ⟨4, 1, .rwm, false, 0x0, 0x0, 0x1⟩,
    ⟨3, 1, .rwm, false, 0x1, 0x0, 0x1⟩,
    ⟨2, 1, .rwm, false, 0x0, 0x0, 0x1⟩]⟩,
  -- PW_STAT
  ⟨0x05004, [], [⟨11, 1, .ro, false, 0x0, 0x0, 0x1⟩,
    ⟨10, 1, .ro, false, 0x1, 0x0, 0x1⟩,
    ⟨9, 1, .ro, false, 0x1, 0x0, 0x1⟩,
    ⟨8, 1, .ro, false, 0x1, 0x0, 0x1⟩,
    ⟨7, 1, .ro, false, 0x1, 0x0, 0x1⟩,
    ⟨6, 1, .ro, false, 0x1, 0x0, 0x1⟩,
    ⟨0, 3, .ro, false, 0x3, 0x0, 0x7⟩]⟩,
  -- PW_EVT
  ⟨0x05008, [], [⟨7, 1, .w1c, false, 0x0, 0x0, 0x1⟩,
    ⟨6, 1, .w1c, false, 0x0, 0x0, 0x1⟩,
    ⟨5, 1, .w1c, false, 0x0, 0x0, 0x1⟩,
    ⟨4, 1, .w1c, false, 0x0, 0x0, 0x1⟩,
    ⟨3, 1, .w1c, false, 0x0, 0x0, 0x1⟩,
    ⟨2, 1, .w1c, false, 0x0, 0x0, 0x1⟩,
    ⟨1, 1, .w1c, false, 0x0, 0x0, 0x1⟩,
    ⟨0, 1, .w1c, false, 0x1, 0x0, 0x1⟩]⟩,
  -- PW_CMD
  ⟨0x0500C, [], [⟨16, 16, .wo, false, 0x0, 0x0, 0xFFFF⟩,
    ⟨0, 4, .wo, false, 0x0, 0x0, 0xF⟩]⟩,
  -- PW_RSTCAUSE
  ⟨0x05010, [], [⟨16, 10, .ro, false, 0x0, 0x0, 0x3FF⟩,
    ⟨7, 1, .ro, false, 0x0, 0x0, 0x1⟩,
    ⟨6, 1, .ro, false, 0x0, 0x0, 0x1⟩,
    ⟨5, 1, .ro, false, 0x0, 0x0, 0x1⟩,
    ⟨4, 1, .ro, false, 0x0, 0x0, 0x1⟩,
    ⟨3, 1, .ro, false, 0x0, 0x0, 0x1⟩,
    ⟨2, 1, .ro, false, 0x0, 0x0, 0x1⟩,
    ⟨1, 1, .ro, false, 0x0, 0x0, 0x1⟩,
    ⟨0, 1, .ro, false, 0x1, 0x0, 0x1⟩]⟩,
  -- PW_RSTCNT
  ⟨0x05014, [], [⟨24, 8, .ro, false, 0x0, 0x0, 0xFF⟩,
    ⟨16, 8, .ro, false, 0x0, 0x0, 0xFF⟩,
    ⟨8, 8, .ro, false, 0x0, 0x0, 0xFF⟩,
    ⟨0, 8, .ro, false, 0x0, 0x0, 0xFF⟩]⟩,
  -- PW_RET_CFG
  ⟨0x05018, [], [⟨0, 16, .rw, false, 0x0, 0x0, 0xFFFF⟩]⟩,
  -- PW_RET_TMR
  ⟨0x0501C, [], [⟨0, 32, .rw, false, 0x0, 0x0, 0xFFFFFFFF⟩]⟩,
  -- PW_WDG
  ⟨0x05020, [], [⟨30, 2, .wol, false, 0x0, 0x0, 0x2⟩,
    ⟨16, 7, .wol, false, 0x0, 0x0, 0x7F⟩,
    ⟨0, 16, .wol, false, 0x3E8, 0x1, 0xFFFF⟩]⟩,
  -- PW_WDG_KICK
  ⟨0x05024, [], [⟨0, 32, .wo, false, 0x0, 0x0, 0xFFFFFFFF⟩]⟩,
  -- PW_WDG_STAT
  ⟨0x05028, [], [⟨16, 1, .ro, false, 0x0, 0x0, 0x1⟩,
    ⟨0, 16, .ro, false, 0x0, 0x0, 0xFFFF⟩]⟩,
  -- PW_LINKRST
  ⟨0x0502C, [], [⟨31, 1, .rw, false, 0x0, 0x0, 0x1⟩,
    ⟨30, 1, .rw, false, 0x0, 0x0, 0x1⟩,
    ⟨16, 10, .rw, false, 0x0, 0x0, 0x3FF⟩,
    ⟨0, 10, .rw, false, 0x3FE, 0x200, 0x3FE⟩]⟩]

/-- The register map of the Power block. -/
def mapPower : List RegDesc := mapPower0


/-- Register map rows of the Psq block, part 0. -/
def mapPsq0 : List RegDesc := [
  -- PSQ_CTRL
  ⟨0x09000, [], [⟨16, 16, .wo, false, 0x0, 0x0, 0xFFFF⟩,
    ⟨8, 2, .rwm, false, 0x0, 0x0, 0x2⟩,
    ⟨0, 8, .rwm, false, 0x0, 0x0, 0xFF⟩]⟩,
  -- PSQ_STAT
  ⟨0x09004, [], [⟨24, 8, .ro, false, 0x0, 0x0, 0xFF⟩,
    ⟨16, 8, .ro, false, 0x0, 0x0, 0xFF⟩,
    ⟨8, 8, .ro, false, 0x0, 0x0, 0xFF⟩,
    ⟨0, 2, .ro, false, 0x0, 0x0, 0x3⟩]⟩,
  -- PSQ_CMD
  ⟨0x09008, [], [⟨3, 1, .wo, false, 0x0, 0x0, 0x1⟩,
    ⟨0, 3, .wo, false, 0x0, 0x0, 0x7⟩]⟩,
  -- PSQ_T_LO
  ⟨0x09010, [], [⟨0, 32, .rw, false, 0x0, 0x0, 0xFFFFFFFF⟩]⟩,
  -- PSQ_T_HI
  ⟨0x09014, [], [⟨0, 32, .rw, false, 0x0, 0x0, 0xFFFFFFFF⟩]⟩,
  -- PSQ_Rr_CFG
  ⟨0x09040, [(8, 0x8)], [⟨16, 16, .rw, false, 0x0, 0x0, 0xFFFF⟩,
    ⟨3, 1, .rw, false, 0x0, 0x0, 0x1⟩,
    ⟨2, 1, .rw, false, 0x0, 0x0, 0x1⟩,
    ⟨1, 1, .rw, false, 0x0, 0x0, 0x1⟩]⟩,
  -- PSQ_Rr_TIM
  ⟨0x09044, [(8, 0x8)], [⟨16, 16, .rw, false, 0x0, 0x0, 0xFFFF⟩,
    ⟨0, 16, .rw, false, 0x0, 0x0, 0xFFFF⟩]⟩]

/-- The register map of the Psq block. -/
def mapPsq : List RegDesc := mapPsq0


/-- Register map rows of the Health block, part 0. -/
def mapHealth0 : List RegDesc := [
  -- HL_CTRL
  ⟨0x07000, [], [⟨16, 16, .wo, false, 0x0, 0x0, 0xFFFF⟩,
    ⟨3, 1, .rwm, false, 0x0, 0x0, 0x1⟩,
    ⟨2, 1, .rwm, false, 0x0, 0x0, 0x1⟩,
    ⟨1, 1, .rwm, false, 0x1, 0x0, 0x1⟩,
    ⟨0, 1, .rwm, false, 0x1, 0x0, 0x1⟩]⟩,
  -- HL_STAT
  ⟨0x07004, [], [⟨7, 1, .ro, false, 0x0, 0x0, 0x1⟩,
    ⟨6, 1, .ro, false, 0x0, 0x0, 0x1⟩,
    ⟨5, 1, .ro, false, 0x0, 0x0, 0x1⟩,
    ⟨4, 1, .ro, false, 0x0, 0x0, 0x1⟩,
    ⟨0, 1, .ro, false, 0x0, 0x0, 0x1⟩]⟩,
  -- HL_EVT
  ⟨0x07008, [], [⟨6, 1, .w1c, false, 0x0, 0x0, 0x1⟩,
    ⟨5, 1, .w1c, false, 0x0, 0x0, 0x1⟩,
    ⟨4, 1, .w1c, false, 0x0, 0x0, 0x1⟩,
    ⟨3, 1, .w1c, false, 0x0, 0x0, 0x1⟩,
    ⟨2, 1, .w1c, false, 0x0, 0x0, 0x1⟩,
    ⟨1, 1, .w1c, false, 0x0, 0x0, 0x1⟩,
    ⟨0, 1, .w1c, false, 0x0, 0x0, 0x1⟩]⟩,
  -- HL_TEMP
  ⟨0x0700C, [], [⟨16, 16, .ro, false, 0x0, 0x0, 0xFFFF⟩,
    ⟨0, 16, .ro, false, 0x0, 0x0, 0xFFFF⟩]⟩,
  -- HL_AGE_LO
  ⟨0x07010, [], [⟨0, 32, .ro, false, 0x0, 0x0, 0xFFFFFFFF⟩]⟩,
  -- HL_AGE_HI
  ⟨0x07014, [], [⟨0, 32, .ro, false, 0x0, 0x0, 0xFFFFFFFF⟩]⟩,
  -- HL_LIFE
  ⟨0x07018, [], [⟨16, 16, .ro, false, 0x0, 0x0, 0xFFFF⟩,
    ⟨0, 16, .ro, false, 0x0, 0x0, 0xFFFF⟩]⟩,
  -- HL_LIFE_CFG
  ⟨0x0701C, [], [⟨0, 16, .rw, false, 0x7D0, 0x0, 0xFFFF⟩]⟩,
  -- HL_ECC
  ⟨0x07020, [], [⟨16, 16, .ro, false, 0x0, 0x0, 0xFFFF⟩,
    ⟨0, 16, .ro, false, 0x0, 0x0, 0xFFFF⟩]⟩,
  -- HL_ECCADDR
  ⟨0x07024, [], [⟨31, 1, .ro, false, 0x0, 0x0, 0x1⟩,
    ⟨0, 31, .ro, false, 0x0, 0x0, 0x7FFFFFFF⟩]⟩,
  -- HL_RECAL
  ⟨0x07028, [], [⟨16, 16, .ro, false, 0x0, 0x0, 0xFFFF⟩,
    ⟨0, 2, .ro, false, 0x0, 0x0, 0x3⟩]⟩,
  -- HL_MRAM
  ⟨0x0702C, [], [⟨16, 16, .ro, false, 0x0, 0x0, 0xFFFF⟩,
    ⟨0, 16, .ro, false, 0x0, 0x0, 0xFFFF⟩]⟩]

/-- Register map rows of the Health block, part 1. -/
def mapHealth1 : List RegDesc := [
  -- HL_MONm
  ⟨0x07100, [(32, 0x4)], [⟨16, 16, .ro, false, 0x0, 0x0, 0xFFFF⟩,
    ⟨0, 16, .ro, false, 0x0, 0x0, 0xFFFF⟩]⟩]

/-- The register map of the Health block. -/
def mapHealth : List RegDesc := mapHealth0 ++ mapHealth1


/-- Register map rows of the Freeze block, part 0. -/
def mapFreeze0 : List RegDesc := [
  -- FRZ_CTRL
  ⟨0x08000, [], [⟨16, 16, .wo, false, 0x0, 0x0, 0xFFFF⟩,
    ⟨4, 1, .rwm, false, 0x0, 0x0, 0x1⟩,
    ⟨3, 1, .rwm, false, 0x0, 0x0, 0x1⟩,
    ⟨2, 1, .rwm, false, 0x0, 0x0, 0x1⟩,
    ⟨1, 1, .rwm, false, 0x0, 0x0, 0x1⟩]⟩,
  -- FRZ_STAT
  ⟨0x08004, [], [⟨3, 1, .ro, false, 0x0, 0x0, 0x1⟩,
    ⟨2, 1, .ro, false, 0x0, 0x0, 0x1⟩,
    ⟨1, 1, .ro, false, 0x0, 0x0, 0x1⟩,
    ⟨0, 1, .ro, false, 0x0, 0x0, 0x1⟩]⟩,
  -- FRZ_EVT
  ⟨0x08008, [], [⟨2, 1, .w1c, false, 0x0, 0x0, 0x1⟩,
    ⟨1, 1, .w1c, false, 0x0, 0x0, 0x1⟩,
    ⟨0, 1, .w1c, false, 0x0, 0x0, 0x1⟩]⟩,
  -- FRZ_CMD
  ⟨0x0800C, [], [⟨0, 2, .wo, false, 0x0, 0x0, 0x3⟩]⟩,
  -- FRZ_T_LO
  ⟨0x08010, [], [⟨0, 32, .ro, false, 0x0, 0x0, 0xFFFFFFFF⟩]⟩,
  -- FRZ_T_HI
  ⟨0x08014, [], [⟨0, 32, .ro, false, 0x0, 0x0, 0xFFFFFFFF⟩]⟩,
  -- FRZ_T_SUB
  ⟨0x08018, [], [⟨0, 6, .ro, false, 0x0, 0x0, 0x3F⟩]⟩,
  -- FRZ_GAP_LO
  ⟨0x08020, [], [⟨0, 32, .ro, false, 0x0, 0x0, 0xFFFFFFFF⟩]⟩,
  -- FRZ_GAP_HI
  ⟨0x08024, [], [⟨0, 32, .ro, false, 0x0, 0x0, 0xFFFFFFFF⟩]⟩,
  -- FRZ_GAP_SUB
  ⟨0x08028, [], [⟨8, 1, .ro, false, 0x0, 0x0, 0x1⟩,
    ⟨0, 6, .ro, false, 0x0, 0x0, 0x3F⟩]⟩,
  -- FRZ_CNT
  ⟨0x08030, [], [⟨16, 16, .ro, false, 0x0, 0x0, 0xFFFF⟩,
    ⟨0, 16, .ro, false, 0x0, 0x0, 0xFFFF⟩]⟩,
  -- FRZ_BUF
  ⟨0x08034, [], [⟨0, 32, .ro, false, 0x3A2000, 0x0, 0xFFFFFFFF⟩]⟩]

/-- The register map of the Freeze block. -/
def mapFreeze : List RegDesc := mapFreeze0

end Sys2Proof.Machine
end

