-- ==== Sys2Proof/Machine/Fields.lean ====
section
/-!
DEFINITION. Names of the registers (`R.…`, bus offsets) and of their fields (`F.…`), as the register maps of the spec give them.
-/
namespace Sys2Proof.Machine

/-- `SPN_CTRL` (R53, 02_time_spine.md). -/
def R.SPN_CTRL : Nat := 0x01000
def F.SPN_CTRL_PPSO_SUB : Fld := ⟨R.SPN_CTRL, 8, 6⟩
def F.SPN_CTRL_PPSI_EDGE : Fld := ⟨R.SPN_CTRL, 6, 1⟩
def F.SPN_CTRL_PPSI_EN : Fld := ⟨R.SPN_CTRL, 5, 1⟩
def F.SPN_CTRL_PPSO_POL : Fld := ⟨R.SPN_CTRL, 4, 1⟩
def F.SPN_CTRL_PPSO_QUAL : Fld := ⟨R.SPN_CTRL, 3, 1⟩
def F.SPN_CTRL_PPSO_EN : Fld := ⟨R.SPN_CTRL, 2, 1⟩
def F.SPN_CTRL_MODE : Fld := ⟨R.SPN_CTRL, 0, 2⟩
/-- `SPN_STAT` (R53, 02_time_spine.md). -/
def R.SPN_STAT : Nat := 0x01004
def F.SPN_STAT_LAST_OP : Fld := ⟨R.SPN_STAT, 12, 3⟩
def F.SPN_STAT_CMD_ERR : Fld := ⟨R.SPN_STAT, 8, 4⟩
def F.SPN_STAT_COARSE : Fld := ⟨R.SPN_STAT, 6, 1⟩
def F.SPN_STAT_OWNER : Fld := ⟨R.SPN_STAT, 5, 1⟩
def F.SPN_STAT_CMD_PEND : Fld := ⟨R.SPN_STAT, 4, 1⟩
def F.SPN_STAT_SLEWING : Fld := ⟨R.SPN_STAT, 3, 1⟩
def F.SPN_STAT_HOLD : Fld := ⟨R.SPN_STAT, 2, 1⟩
def F.SPN_STAT_REF_LOST : Fld := ⟨R.SPN_STAT, 1, 1⟩
def F.SPN_STAT_LOCKED : Fld := ⟨R.SPN_STAT, 0, 1⟩
/-- `SPN_EVT` (R53, 02_time_spine.md). -/
def R.SPN_EVT : Nat := 0x01008
def F.SPN_EVT_PPSI_OVR : Fld := ⟨R.SPN_EVT, 5, 1⟩
def F.SPN_EVT_RATE_CLAMP : Fld := ⟨R.SPN_EVT, 4, 1⟩
def F.SPN_EVT_CAL_SAT : Fld := ⟨R.SPN_EVT, 3, 1⟩
def F.SPN_EVT_CMD_ERR_S : Fld := ⟨R.SPN_EVT, 2, 1⟩
def F.SPN_EVT_UNLOCK_S : Fld := ⟨R.SPN_EVT, 1, 1⟩
def F.SPN_EVT_REF_LOST_S : Fld := ⟨R.SPN_EVT, 0, 1⟩
/-- `SPN_NOW_LO` (R53, 02_time_spine.md). -/
def R.SPN_NOW_LO : Nat := 0x01010
def F.SPN_NOW_LO_NS_LO : Fld := ⟨R.SPN_NOW_LO, 0, 32⟩
/-- `SPN_NOW_HI` (R53, 02_time_spine.md). -/
def R.SPN_NOW_HI : Nat := 0x01014
def F.SPN_NOW_HI_NS_HI : Fld := ⟨R.SPN_NOW_HI, 0, 32⟩
/-- `SPN_NOW_SUB` (R53, 02_time_spine.md). -/
def R.SPN_NOW_SUB : Nat := 0x01018
def F.SPN_NOW_SUB_SUB : Fld := ⟨R.SPN_NOW_SUB, 0, 6⟩
/-- `SPN_RATE` (R53, 02_time_spine.md). -/
def R.SPN_RATE : Nat := 0x01020
def F.SPN_RATE_RATE : Fld := ⟨R.SPN_RATE, 0, 32⟩
/-- `SPN_RATE_EFF` (R53, 02_time_spine.md). -/
def R.SPN_RATE_EFF : Nat := 0x01024
def F.SPN_RATE_EFF_RATE_EFF : Fld := ⟨R.SPN_RATE_EFF, 0, 32⟩
/-- `SPN_OPD_LO` (R53, 02_time_spine.md). -/
def R.SPN_OPD_LO : Nat := 0x01030
def F.SPN_OPD_LO_NS_LO : Fld := ⟨R.SPN_OPD_LO, 0, 32⟩
/-- `SPN_OPD_HI` (R53, 02_time_spine.md). -/
def R.SPN_OPD_HI : Nat := 0x01034
def F.SPN_OPD_HI_NS_HI : Fld := ⟨R.SPN_OPD_HI, 0, 32⟩
/-- `SPN_OPD_SUB` (R53, 02_time_spine.md). -/
def R.SPN_OPD_SUB : Nat := 0x01038
def F.SPN_OPD_SUB_SUB : Fld := ⟨R.SPN_OPD_SUB, 0, 6⟩
/-- `SPN_DUR` (R53, 02_time_spine.md). -/
def R.SPN_DUR : Nat := 0x0103C
def F.SPN_DUR_DUR_US : Fld := ⟨R.SPN_DUR, 0, 32⟩
/-- `SPN_CMD` (R53, 02_time_spine.md). -/
def R.SPN_CMD : Nat := 0x01040
def F.SPN_CMD_AG : Fld := ⟨R.SPN_CMD, 4, 3⟩
def F.SPN_CMD_WHEN : Fld := ⟨R.SPN_CMD, 3, 1⟩
def F.SPN_CMD_OP : Fld := ⟨R.SPN_CMD, 0, 3⟩
/-- `SPN_SLEW_REM` (R53, 02_time_spine.md). -/
def R.SPN_SLEW_REM : Nat := 0x01050
def F.SPN_SLEW_REM_REM : Fld := ⟨R.SPN_SLEW_REM, 0, 32⟩
/-- `SPN_SLEW_REM_SUB` (R53, 02_time_spine.md). -/
def R.SPN_SLEW_REM_SUB : Nat := 0x01054
def F.SPN_SLEW_REM_SUB_SUB : Fld := ⟨R.SPN_SLEW_REM_SUB, 0, 6⟩
/-- `SPN_PPSO_PER` (R53, 02_time_spine.md). -/
def R.SPN_PPSO_PER : Nat := 0x01060
def F.SPN_PPSO_PER_PER : Fld := ⟨R.SPN_PPSO_PER, 0, 32⟩
/-- `SPN_PPSO_OFS` (R53, 02_time_spine.md). -/
def R.SPN_PPSO_OFS : Nat := 0x01064
def F.SPN_PPSO_OFS_OFS : Fld := ⟨R.SPN_PPSO_OFS, 0, 32⟩
/-- `SPN_PPSO_WID` (R53, 02_time_spine.md). -/
def R.SPN_PPSO_WID : Nat := 0x01068
def F.SPN_PPSO_WID_WID : Fld := ⟨R.SPN_PPSO_WID, 0, 32⟩
/-- `SPN_PPSI_LO` (R53, 02_time_spine.md). -/
def R.SPN_PPSI_LO : Nat := 0x01070
def F.SPN_PPSI_LO_NS_LO : Fld := ⟨R.SPN_PPSI_LO, 0, 32⟩
/-- `SPN_PPSI_HI` (R53, 02_time_spine.md). -/
def R.SPN_PPSI_HI : Nat := 0x01074
def F.SPN_PPSI_HI_NS_HI : Fld := ⟨R.SPN_PPSI_HI, 0, 32⟩
/-- `SPN_PPSI_SUB` (R53, 02_time_spine.md). -/
def R.SPN_PPSI_SUB : Nat := 0x01078
def F.SPN_PPSI_SUB_CNT : Fld := ⟨R.SPN_PPSI_SUB, 16, 16⟩
def F.SPN_PPSI_SUB_SUB : Fld := ⟨R.SPN_PPSI_SUB, 0, 6⟩
/-- `SPN_REFCFG` (R53, 02_time_spine.md). -/
def R.SPN_REFCFG : Nat := 0x01080
def F.SPN_REFCFG_SRC : Fld := ⟨R.SPN_REFCFG, 0, 2⟩
/-- `SPN_PLL_CNT` (R53, 02_time_spine.md). -/
def R.SPN_PLL_CNT : Nat := 0x01084
def F.SPN_PLL_CNT_RELOCK_CNT : Fld := ⟨R.SPN_PLL_CNT, 16, 16⟩
def F.SPN_PLL_CNT_LOSS_CNT : Fld := ⟨R.SPN_PLL_CNT, 0, 16⟩
/-- `SPN_SLOWPER` (R53, 02_time_spine.md). -/
def R.SPN_SLOWPER : Nat := 0x01090
def F.SPN_SLOWPER_SLOWPER : Fld := ⟨R.SPN_SLOWPER, 0, 32⟩
/-- `SPN_BANKCALb` (R53, 02_time_spine.md). -/
def R.SPN_BANKCALb (b : Nat) : Nat := 0x01100 + 0x4 * b
def F.SPN_BANKCALb_VALID (b : Nat) : Fld := ⟨R.SPN_BANKCALb b, 24, 1⟩
def F.SPN_BANKCALb_RECAL_CNT (b : Nat) : Fld := ⟨R.SPN_BANKCALb b, 16, 8⟩
def F.SPN_BANKCALb_TDC_SPAN (b : Nat) : Fld := ⟨R.SPN_BANKCALb b, 8, 8⟩
def F.SPN_BANKCALb_ELEM (b : Nat) : Fld := ⟨R.SPN_BANKCALb b, 0, 8⟩
/-- `CHc_CTRL` (R85, 03_channels.md). -/
def R.CHc_CTRL (c : Nat) : Nat := 0x100000 + 0x400 * c
def F.CHc_CTRL_CASC (c : Nat) : Fld := ⟨R.CHc_CTRL c, 11, 1⟩
def F.CHc_CTRL_HOLD (c : Nat) : Fld := ⟨R.CHc_CTRL c, 10, 1⟩
def F.CHc_CTRL_SAFE (c : Nat) : Fld := ⟨R.CHc_CTRL c, 8, 2⟩
def F.CHc_CTRL_FLATE (c : Nat) : Fld := ⟨R.CHc_CTRL c, 5, 2⟩
def F.CHc_CTRL_TB (c : Nat) : Fld := ⟨R.CHc_CTRL c, 2, 3⟩
def F.CHc_CTRL_OWN (c : Nat) : Fld := ⟨R.CHc_CTRL c, 0, 2⟩
/-- `CHc_AG` (R85, 03_channels.md). -/
def R.CHc_AG (c : Nat) : Nat := 0x100004 + 0x400 * c
def F.CHc_AG_AG (c : Nat) : Fld := ⟨R.CHc_AG c, 0, 3⟩
/-- `CHc_PIN` (R85, 03_channels.md). -/
def R.CHc_PIN (c : Nat) : Nat := 0x100008 + 0x400 * c
def F.CHc_PIN_FILT (c : Nat) : Fld := ⟨R.CHc_PIN c, 8, 8⟩
def F.CHc_PIN_OUT_INV (c : Nat) : Fld := ⟨R.CHc_PIN c, 7, 1⟩
def F.CHc_PIN_IN_INV (c : Nat) : Fld := ⟨R.CHc_PIN c, 6, 1⟩
def F.CHc_PIN_PULL (c : Nat) : Fld := ⟨R.CHc_PIN c, 4, 2⟩
def F.CHc_PIN_DRV (c : Nat) : Fld := ⟨R.CHc_PIN c, 2, 2⟩
def F.CHc_PIN_MODE (c : Nat) : Fld := ⟨R.CHc_PIN c, 0, 2⟩
/-- `CHc_STAT` (R85, 03_channels.md). -/
def R.CHc_STAT (c : Nat) : Nat := 0x10000C + 0x400 * c
def F.CHc_STAT_CASC_HI (c : Nat) : Fld := ⟨R.CHc_STAT c, 10, 1⟩
def F.CHc_STAT_BANKV (c : Nat) : Fld := ⟨R.CHc_STAT c, 8, 2⟩
def F.CHc_STAT_HOLD_SW (c : Nat) : Fld := ⟨R.CHc_STAT c, 6, 1⟩
def F.CHc_STAT_BANK_DOWN (c : Nat) : Fld := ⟨R.CHc_STAT c, 5, 1⟩
def F.CHc_STAT_HOLD_FRZ (c : Nat) : Fld := ⟨R.CHc_STAT c, 4, 1⟩
def F.CHc_STAT_HOLD_BOOT (c : Nat) : Fld := ⟨R.CHc_STAT c, 3, 1⟩
def F.CHc_STAT_HELD (c : Nat) : Fld := ⟨R.CHc_STAT c, 2, 1⟩
def F.CHc_STAT_OL (c : Nat) : Fld := ⟨R.CHc_STAT c, 1, 1⟩
def F.CHc_STAT_IN (c : Nat) : Fld := ⟨R.CHc_STAT c, 0, 1⟩
/-- `CHc_EVT` (R85, 03_channels.md). -/
def R.CHc_EVT (c : Nat) : Nat := 0x100010 + 0x400 * c
def F.CHc_EVT_FIFO_EMPTY_S (c : Nat) : Fld := ⟨R.CHc_EVT c, 10, 1⟩
def F.CHc_EVT_FIFO_LWM_S (c : Nat) : Fld := ⟨R.CHc_EVT c, 9, 1⟩
def F.CHc_EVT_CFG_ERR_S (c : Nat) : Fld := ⟨R.CHc_EVT c, 8, 1⟩
def F.CHc_EVT_OWN_ERR_S (c : Nat) : Fld := ⟨R.CHc_EVT c, 7, 1⟩
def F.CHc_EVT_CNT_WRAP_S (c : Nat) : Fld := ⟨R.CHc_EVT c, 6, 1⟩
def F.CHc_EVT_CAP1_DROP_S (c : Nat) : Fld := ⟨R.CHc_EVT c, 5, 1⟩
def F.CHc_EVT_CAP0_DROP_S (c : Nat) : Fld := ⟨R.CHc_EVT c, 4, 1⟩
def F.CHc_EVT_UNDERRUN_S (c : Nat) : Fld := ⟨R.CHc_EVT c, 3, 1⟩
def F.CHc_EVT_FIFO_ERR_S (c : Nat) : Fld := ⟨R.CHc_EVT c, 2, 1⟩
def F.CHc_EVT_RUNT_S (c : Nat) : Fld := ⟨R.CHc_EVT c, 1, 1⟩
def F.CHc_EVT_LATE_S (c : Nat) : Fld := ⟨R.CHc_EVT c, 0, 1⟩
/-- `CHc_ERRCNT` (R85, 03_channels.md). -/
def R.CHc_ERRCNT (c : Nat) : Nat := 0x100014 + 0x400 * c
def F.CHc_ERRCNT_RUNT (c : Nat) : Fld := ⟨R.CHc_ERRCNT c, 16, 16⟩
def F.CHc_ERRCNT_GLITCH (c : Nat) : Fld := ⟨R.CHc_ERRCNT c, 0, 16⟩
/-- `CHc_CMPu_TGT_LO` (R85, 03_channels.md). -/
def R.CHc_CMPu_TGT_LO (c : Nat) (u : Nat) : Nat := 0x100020 + 0x400 * c + 0x20 * u
def F.CHc_CMPu_TGT_LO_NS_LO (c : Nat) (u : Nat) : Fld := ⟨R.CHc_CMPu_TGT_LO c u, 0, 32⟩
/-- `CHc_CMPu_TGT_CTL` (R85, 03_channels.md). -/
def R.CHc_CMPu_TGT_CTL (c : Nat) (u : Nat) : Nat := 0x100024 + 0x400 * c + 0x20 * u
def F.CHc_CMPu_TGT_CTL_TAG (c : Nat) (u : Nat) : Fld := ⟨R.CHc_CMPu_TGT_CTL c u, 16, 16⟩
def F.CHc_CMPu_TGT_CTL_ARM (c : Nat) (u : Nat) : Fld := ⟨R.CHc_CMPu_TGT_CTL c u, 15, 1⟩
def F.CHc_CMPu_TGT_CTL_REC (c : Nat) (u : Nat) : Fld := ⟨R.CHc_CMPu_TGT_CTL c u, 10, 1⟩
def F.CHc_CMPu_TGT_CTL_ACT (c : Nat) (u : Nat) : Fld := ⟨R.CHc_CMPu_TGT_CTL c u, 8, 2⟩
def F.CHc_CMPu_TGT_CTL_SUB (c : Nat) (u : Nat) : Fld := ⟨R.CHc_CMPu_TGT_CTL c u, 0, 6⟩
/-- `CHc_CMPu_LAST_LO` (R85, 03_channels.md). -/
def R.CHc_CMPu_LAST_LO (c : Nat) (u : Nat) : Nat := 0x100028 + 0x400 * c + 0x20 * u
def F.CHc_CMPu_LAST_LO_NS_LO (c : Nat) (u : Nat) : Fld := ⟨R.CHc_CMPu_LAST_LO c u, 0, 32⟩
/-- `CHc_CMPu_LAST_HI` (R85, 03_channels.md). -/
def R.CHc_CMPu_LAST_HI (c : Nat) (u : Nat) : Nat := 0x10002C + 0x400 * c + 0x20 * u
def F.CHc_CMPu_LAST_HI_NS_HI (c : Nat) (u : Nat) : Fld := ⟨R.CHc_CMPu_LAST_HI c u, 0, 32⟩
/-- `CHc_CMPu_LAST_SUB` (R85, 03_channels.md). -/
def R.CHc_CMPu_LAST_SUB (c : Nat) (u : Nat) : Nat := 0x100030 + 0x400 * c + 0x20 * u
def F.CHc_CMPu_LAST_SUB_FIRE_CNT (c : Nat) (u : Nat) : Fld := ⟨R.CHc_CMPu_LAST_SUB c u, 24, 8⟩
def F.CHc_CMPu_LAST_SUB_RUNT (c : Nat) (u : Nat) : Fld := ⟨R.CHc_CMPu_LAST_SUB c u, 17, 1⟩
def F.CHc_CMPu_LAST_SUB_LATE (c : Nat) (u : Nat) : Fld := ⟨R.CHc_CMPu_LAST_SUB c u, 16, 1⟩
def F.CHc_CMPu_LAST_SUB_LATE_SUB (c : Nat) (u : Nat) : Fld := ⟨R.CHc_CMPu_LAST_SUB c u, 8, 6⟩
def F.CHc_CMPu_LAST_SUB_SUB (c : Nat) (u : Nat) : Fld := ⟨R.CHc_CMPu_LAST_SUB c u, 0, 6⟩
/-- `CHc_CMPu_LATE` (R85, 03_channels.md). -/
def R.CHc_CMPu_LATE (c : Nat) (u : Nat) : Nat := 0x100034 + 0x400 * c + 0x20 * u
def F.CHc_CMPu_LATE_LATE_NS (c : Nat) (u : Nat) : Fld := ⟨R.CHc_CMPu_LATE c u, 0, 32⟩
/-- `CHc_CAPk_CFG` (R85, 03_channels.md). -/
def R.CHc_CAPk_CFG (c : Nat) (k : Nat) : Nat := 0x100080 + 0x400 * c + 0x20 * k
def F.CHc_CAPk_CFG_SRC (c : Nat) (k : Nat) : Fld := ⟨R.CHc_CAPk_CFG c k, 6, 1⟩
def F.CHc_CAPk_CFG_RDR (c : Nat) (k : Nat) : Fld := ⟨R.CHc_CAPk_CFG c k, 5, 1⟩
def F.CHc_CAPk_CFG_RDC (c : Nat) (k : Nat) : Fld := ⟨R.CHc_CAPk_CFG c k, 4, 1⟩
def F.CHc_CAPk_CFG_REC (c : Nat) (k : Nat) : Fld := ⟨R.CHc_CAPk_CFG c k, 3, 1⟩
def F.CHc_CAPk_CFG_EDGE (c : Nat) (k : Nat) : Fld := ⟨R.CHc_CAPk_CFG c k, 0, 2⟩
/-- `CHc_CAPk_LO` (R85, 03_channels.md). -/
def R.CHc_CAPk_LO (c : Nat) (k : Nat) : Nat := 0x100084 + 0x400 * c + 0x20 * k
def F.CHc_CAPk_LO_NS_LO (c : Nat) (k : Nat) : Fld := ⟨R.CHc_CAPk_LO c k, 0, 32⟩
/-- `CHc_CAPk_HI` (R85, 03_channels.md). -/
def R.CHc_CAPk_HI (c : Nat) (k : Nat) : Nat := 0x100088 + 0x400 * c + 0x20 * k
def F.CHc_CAPk_HI_NS_HI (c : Nat) (k : Nat) : Fld := ⟨R.CHc_CAPk_HI c k, 0, 32⟩
/-- `CHc_CAPk_STAT` (R85, 03_channels.md). -/
def R.CHc_CAPk_STAT (c : Nat) (k : Nat) : Nat := 0x10008C + 0x400 * c + 0x20 * k
def F.CHc_CAPk_STAT_MISS (c : Nat) (k : Nat) : Fld := ⟨R.CHc_CAPk_STAT c k, 24, 8⟩
def F.CHc_CAPk_STAT_DROP (c : Nat) (k : Nat) : Fld := ⟨R.CHc_CAPk_STAT c k, 16, 8⟩
def F.CHc_CAPk_STAT_FULL1 (c : Nat) (k : Nat) : Fld := ⟨R.CHc_CAPk_STAT c k, 9, 1⟩
def F.CHc_CAPk_STAT_MORE (c : Nat) (k : Nat) : Fld := ⟨R.CHc_CAPk_STAT c k, 8, 1⟩
def F.CHc_CAPk_STAT_FRESH (c : Nat) (k : Nat) : Fld := ⟨R.CHc_CAPk_STAT c k, 7, 1⟩
def F.CHc_CAPk_STAT_POL (c : Nat) (k : Nat) : Fld := ⟨R.CHc_CAPk_STAT c k, 6, 1⟩
def F.CHc_CAPk_STAT_SUB (c : Nat) (k : Nat) : Fld := ⟨R.CHc_CAPk_STAT c k, 0, 6⟩
/-- `CHc_CNT_CFG` (R85, 03_channels.md). -/
def R.CHc_CNT_CFG (c : Nat) : Nat := 0x1000C0 + 0x400 * c
def F.CHc_CNT_CFG_REC (c : Nat) : Fld := ⟨R.CHc_CNT_CFG c, 9, 1⟩
def F.CHc_CNT_CFG_LAT_CAP1 (c : Nat) : Fld := ⟨R.CHc_CNT_CFG c, 8, 1⟩
def F.CHc_CNT_CFG_LAT_CAP0 (c : Nat) : Fld := ⟨R.CHc_CNT_CFG c, 7, 1⟩
def F.CHc_CNT_CFG_LOAD (c : Nat) : Fld := ⟨R.CHc_CNT_CFG c, 6, 1⟩
def F.CHc_CNT_CFG_RUN (c : Nat) : Fld := ⟨R.CHc_CNT_CFG c, 5, 1⟩
def F.CHc_CNT_CFG_SRC (c : Nat) : Fld := ⟨R.CHc_CNT_CFG c, 0, 4⟩
/-- `CHc_CNT_PRESET` (R85, 03_channels.md). -/
def R.CHc_CNT_PRESET (c : Nat) : Nat := 0x1000C4 + 0x400 * c
def F.CHc_CNT_PRESET_PRESET (c : Nat) : Fld := ⟨R.CHc_CNT_PRESET c, 0, 32⟩
/-- `CHc_CNT_IMG` (R85, 03_channels.md). -/
def R.CHc_CNT_IMG (c : Nat) : Nat := 0x1000C8 + 0x400 * c
def F.CHc_CNT_IMG_IMG (c : Nat) : Fld := ⟨R.CHc_CNT_IMG c, 0, 32⟩
/-- `CHc_CNT_IMGH` (R85, 03_channels.md). -/
def R.CHc_CNT_IMGH (c : Nat) : Nat := 0x1000CC + 0x400 * c
def F.CHc_CNT_IMGH_IMGH (c : Nat) : Fld := ⟨R.CHc_CNT_IMGH c, 0, 32⟩
/-- `CHc_CNT_TLO` (R85, 03_channels.md). -/
def R.CHc_CNT_TLO (c : Nat) : Nat := 0x1000D0 + 0x400 * c
def F.CHc_CNT_TLO_NS_LO (c : Nat) : Fld := ⟨R.CHc_CNT_TLO c, 0, 32⟩
/-- `CHc_CNT_THI` (R85, 03_channels.md). -/
def R.CHc_CNT_THI (c : Nat) : Nat := 0x1000D4 + 0x400 * c
def F.CHc_CNT_THI_NS_HI (c : Nat) : Fld := ⟨R.CHc_CNT_THI c, 0, 32⟩
/-- `CHc_CNT_TSUB` (R85, 03_channels.md). -/
def R.CHc_CNT_TSUB (c : Nat) : Nat := 0x1000D8 + 0x400 * c
def F.CHc_CNT_TSUB_VALID (c : Nat) : Fld := ⟨R.CHc_CNT_TSUB c, 12, 1⟩
def F.CHc_CNT_TSUB_CAUSE (c : Nat) : Fld := ⟨R.CHc_CNT_TSUB c, 8, 4⟩
def F.CHc_CNT_TSUB_SUB (c : Nat) : Fld := ⟨R.CHc_CNT_TSUB c, 0, 6⟩
/-- `CHc_FIFO_CTL` (R85, 03_channels.md). -/
def R.CHc_FIFO_CTL (c : Nat) : Nat := 0x100100 + 0x400 * c
def F.CHc_FIFO_CTL_LWM (c : Nat) : Fld := ⟨R.CHc_FIFO_CTL c, 8, 4⟩
def F.CHc_FIFO_CTL_WHEN (c : Nat) : Fld := ⟨R.CHc_FIFO_CTL c, 4, 1⟩
def F.CHc_FIFO_CTL_FLUSH (c : Nat) : Fld := ⟨R.CHc_FIFO_CTL c, 3, 1⟩
def F.CHc_FIFO_CTL_BREAK (c : Nat) : Fld := ⟨R.CHc_FIFO_CTL c, 2, 1⟩
def F.CHc_FIFO_CTL_STOP (c : Nat) : Fld := ⟨R.CHc_FIFO_CTL c, 1, 1⟩
def F.CHc_FIFO_CTL_START (c : Nat) : Fld := ⟨R.CHc_FIFO_CTL c, 0, 1⟩
/-- `CHc_FIFO_STAT` (R85, 03_channels.md). -/
def R.CHc_FIFO_STAT (c : Nat) : Nat := 0x100104 + 0x400 * c
def F.CHc_FIFO_STAT_PASSES (c : Nat) : Fld := ⟨R.CHc_FIFO_STAT c, 16, 16⟩
def F.CHc_FIFO_STAT_LOOPING (c : Nat) : Fld := ⟨R.CHc_FIFO_STAT c, 12, 1⟩
def F.CHc_FIFO_STAT_ERR (c : Nat) : Fld := ⟨R.CHc_FIFO_STAT c, 8, 4⟩
def F.CHc_FIFO_STAT_STATE (c : Nat) : Fld := ⟨R.CHc_FIFO_STAT c, 5, 3⟩
def F.CHc_FIFO_STAT_COUNT (c : Nat) : Fld := ⟨R.CHc_FIFO_STAT c, 0, 5⟩
/-- `CHc_FIFO_BASE_LO` (R85, 03_channels.md). -/
def R.CHc_FIFO_BASE_LO (c : Nat) : Nat := 0x100108 + 0x400 * c
def F.CHc_FIFO_BASE_LO_NS_LO (c : Nat) : Fld := ⟨R.CHc_FIFO_BASE_LO c, 0, 32⟩
/-- `CHc_FIFO_BASE_SUB` (R85, 03_channels.md). -/
def R.CHc_FIFO_BASE_SUB (c : Nat) : Nat := 0x10010C + 0x400 * c
def F.CHc_FIFO_BASE_SUB_SUB (c : Nat) : Fld := ⟨R.CHc_FIFO_BASE_SUB c, 0, 6⟩
/-- `CHc_FIFO_ENT_LO` (R85, 03_channels.md). -/
def R.CHc_FIFO_ENT_LO (c : Nat) : Nat := 0x100110 + 0x400 * c
def F.CHc_FIFO_ENT_LO_ACT (c : Nat) : Fld := ⟨R.CHc_FIFO_ENT_LO c, 30, 2⟩
def F.CHc_FIFO_ENT_LO_DELTA_SUB (c : Nat) : Fld := ⟨R.CHc_FIFO_ENT_LO c, 24, 6⟩
def F.CHc_FIFO_ENT_LO_DELTA_NS (c : Nat) : Fld := ⟨R.CHc_FIFO_ENT_LO c, 0, 24⟩
/-- `CHc_FIFO_ENT_HI` (R85, 03_channels.md). -/
def R.CHc_FIFO_ENT_HI (c : Nat) : Nat := 0x100114 + 0x400 * c
def F.CHc_FIFO_ENT_HI_WAKE (c : Nat) : Fld := ⟨R.CHc_FIFO_ENT_HI c, 19, 1⟩
def F.CHc_FIFO_ENT_HI_REC (c : Nat) : Fld := ⟨R.CHc_FIFO_ENT_HI c, 18, 1⟩
def F.CHc_FIFO_ENT_HI_MARK (c : Nat) : Fld := ⟨R.CHc_FIFO_ENT_HI c, 17, 1⟩
def F.CHc_FIFO_ENT_HI_LOOP (c : Nat) : Fld := ⟨R.CHc_FIFO_ENT_HI c, 16, 1⟩
def F.CHc_FIFO_ENT_HI_REPEAT (c : Nat) : Fld := ⟨R.CHc_FIFO_ENT_HI c, 0, 16⟩
/-- `Ge_CTRL` (R119, 05_gaffer_scheduling.md). -/
def R.Ge_CTRL (e : Nat) : Nat := 0x40000 + 0x1000 * e
def F.Ge_CTRL_QUANTUM (e : Nat) : Fld := ⟨R.Ge_CTRL e, 8, 8⟩
def F.Ge_CTRL_FLT_PURGE (e : Nat) : Fld := ⟨R.Ge_CTRL e, 1, 1⟩
def F.Ge_CTRL_RUN (e : Nat) : Fld := ⟨R.Ge_CTRL e, 0, 1⟩
/-- `Ge_STAT` (R119, 05_gaffer_scheduling.md). -/
def R.Ge_STAT (e : Nat) : Nat := 0x40004 + 0x1000 * e
def F.Ge_STAT_READY (e : Nat) : Fld := ⟨R.Ge_STAT e, 16, 16⟩
def F.Ge_STAT_RUNTHR (e : Nat) : Fld := ⟨R.Ge_STAT e, 12, 4⟩
def F.Ge_STAT_BUSY (e : Nat) : Fld := ⟨R.Ge_STAT e, 11, 1⟩
/-- `Ge_EVT` (R119, 05_gaffer_scheduling.md). -/
def R.Ge_EVT (e : Nat) : Nat := 0x40008 + 0x1000 * e
def F.Ge_EVT_PURGE_S (e : Nat) : Fld := ⟨R.Ge_EVT e, 6, 1⟩
def F.Ge_EVT_EPH_RANGE_S (e : Nat) : Fld := ⟨R.Ge_EVT e, 5, 1⟩
def F.Ge_EVT_EPH_FULL_S (e : Nat) : Fld := ⟨R.Ge_EVT e, 4, 1⟩
def F.Ge_EVT_LEAD_OVER_S (e : Nat) : Fld := ⟨R.Ge_EVT e, 3, 1⟩
def F.Ge_EVT_LEAD_UP_S (e : Nat) : Fld := ⟨R.Ge_EVT e, 2, 1⟩
def F.Ge_EVT_STARVE_S (e : Nat) : Fld := ⟨R.Ge_EVT e, 1, 1⟩
def F.Ge_EVT_FAULT_S (e : Nat) : Fld := ⟨R.Ge_EVT e, 0, 1⟩
/-- `Ge_FLTMASK` (R119, 05_gaffer_scheduling.md). -/
def R.Ge_FLTMASK (e : Nat) : Nat := 0x4000C + 0x1000 * e
def F.Ge_FLTMASK_FLT (e : Nat) : Fld := ⟨R.Ge_FLTMASK e, 0, 16⟩
/-- `Ge_CMD` (R119, 05_gaffer_scheduling.md). -/
def R.Ge_CMD (e : Nat) : Nat := 0x40010 + 0x1000 * e
def F.Ge_CMD_PC (e : Nat) : Fld := ⟨R.Ge_CMD e, 16, 11⟩
def F.Ge_CMD_OP (e : Nat) : Fld := ⟨R.Ge_CMD e, 4, 3⟩
def F.Ge_CMD_THR (e : Nat) : Fld := ⟨R.Ge_CMD e, 0, 4⟩
/-- `Ge_CMD_STAT` (R119, 05_gaffer_scheduling.md). -/
def R.Ge_CMD_STAT (e : Nat) : Nat := 0x40014 + 0x1000 * e
def F.Ge_CMD_STAT_THR (e : Nat) : Fld := ⟨R.Ge_CMD_STAT e, 4, 4⟩
def F.Ge_CMD_STAT_RES (e : Nat) : Fld := ⟨R.Ge_CMD_STAT e, 0, 2⟩
/-- `Ge_LEAD` (R119, 05_gaffer_scheduling.md). -/
def R.Ge_LEAD (e : Nat) : Nat := 0x40020 + 0x1000 * e
def F.Ge_LEAD_BUDGET (e : Nat) : Fld := ⟨R.Ge_LEAD e, 0, 16⟩
/-- `Ge_LEAD_MEAS` (R119, 05_gaffer_scheduling.md). -/
def R.Ge_LEAD_MEAS (e : Nat) : Nat := 0x40024 + 0x1000 * e
def F.Ge_LEAD_MEAS_OBS (e : Nat) : Fld := ⟨R.Ge_LEAD_MEAS e, 16, 16⟩
def F.Ge_LEAD_MEAS_MODEL (e : Nat) : Fld := ⟨R.Ge_LEAD_MEAS e, 0, 16⟩
/-- `Ge_LEAD_CFG` (R119, 05_gaffer_scheduling.md). -/
def R.Ge_LEAD_CFG (e : Nat) : Nat := 0x40028 + 0x1000 * e
def F.Ge_LEAD_CFG_LIMIT (e : Nat) : Fld := ⟨R.Ge_LEAD_CFG e, 16, 16⟩
def F.Ge_LEAD_CFG_MIN (e : Nat) : Fld := ⟨R.Ge_LEAD_CFG e, 0, 16⟩
/-- `Ge_LAT_MAX` (R119, 05_gaffer_scheduling.md). -/
def R.Ge_LAT_MAX (e : Nat) : Nat := 0x4002C + 0x1000 * e
def F.Ge_LAT_MAX_OBS_MAX (e : Nat) : Fld := ⟨R.Ge_LAT_MAX e, 0, 16⟩
/-- `Ge_SPEED` (R119, 05_gaffer_scheduling.md). -/
def R.Ge_SPEED (e : Nat) : Nat := 0x40030 + 0x1000 * e
def F.Ge_SPEED_RATE (e : Nat) : Fld := ⟨R.Ge_SPEED e, 0, 16⟩
/-- `Ge_EPH_STAT` (R119, 05_gaffer_scheduling.md). -/
def R.Ge_EPH_STAT (e : Nat) : Nat := 0x40040 + 0x1000 * e
def F.Ge_EPH_STAT_HIGH (e : Nat) : Fld := ⟨R.Ge_EPH_STAT e, 16, 9⟩
def F.Ge_EPH_STAT_COUNT (e : Nat) : Fld := ⟨R.Ge_EPH_STAT e, 0, 9⟩
/-- `Ge_EPH_CNT` (R119, 05_gaffer_scheduling.md). -/
def R.Ge_EPH_CNT (e : Nat) : Nat := 0x40044 + 0x1000 * e
def F.Ge_EPH_CNT_TIGHT (e : Nat) : Fld := ⟨R.Ge_EPH_CNT e, 16, 16⟩
def F.Ge_EPH_CNT_REFUSED (e : Nat) : Fld := ⟨R.Ge_EPH_CNT e, 0, 16⟩
/-- `Ge_LATE_CNT` (R119, 05_gaffer_scheduling.md). -/
def R.Ge_LATE_CNT (e : Nat) : Nat := 0x40048 + 0x1000 * e
def F.Ge_LATE_CNT_LATE (e : Nat) : Fld := ⟨R.Ge_LATE_CNT e, 0, 32⟩
/-- `Ge_STARVE` (R119, 05_gaffer_scheduling.md). -/
def R.Ge_STARVE (e : Nat) : Nat := 0x4004C + 0x1000 * e
def F.Ge_STARVE_US (e : Nat) : Fld := ⟨R.Ge_STARVE e, 0, 16⟩
/-- `Ge_FAULT` (R119, 05_gaffer_scheduling.md). -/
def R.Ge_FAULT (e : Nat) : Nat := 0x40050 + 0x1000 * e
def F.Ge_FAULT_PC (e : Nat) : Fld := ⟨R.Ge_FAULT e, 16, 11⟩
def F.Ge_FAULT_KIND (e : Nat) : Fld := ⟨R.Ge_FAULT e, 8, 4⟩
def F.Ge_FAULT_THR (e : Nat) : Fld := ⟨R.Ge_FAULT e, 4, 4⟩
/-- `Ge_PARCNT` (R119, 05_gaffer_scheduling.md). -/
def R.Ge_PARCNT (e : Nat) : Nat := 0x40054 + 0x1000 * e
def F.Ge_PARCNT_ECC (e : Nat) : Fld := ⟨R.Ge_PARCNT e, 16, 16⟩
def F.Ge_PARCNT_PARITY (e : Nat) : Fld := ⟨R.Ge_PARCNT e, 0, 16⟩
/-- `Ge_DWIN` (R119, 05_gaffer_scheduling.md). -/
def R.Ge_DWIN (e : Nat) : Nat := 0x40058 + 0x1000 * e
def F.Ge_DWIN_OFS (e : Nat) : Fld := ⟨R.Ge_DWIN e, 0, 32⟩
/-- `Ge_EPH_BASE` (R119, 05_gaffer_scheduling.md). -/
def R.Ge_EPH_BASE (e : Nat) : Nat := 0x4005C + 0x1000 * e
def F.Ge_EPH_BASE_OFS (e : Nat) : Fld := ⟨R.Ge_EPH_BASE e, 0, 32⟩
/-- `Ge_THRn_CFG` (R119, 05_gaffer_scheduling.md). -/
def R.Ge_THRn_CFG (e : Nat) (n : Nat) : Nat := 0x40100 + 0x1000 * e + 0x10 * n
def F.Ge_THRn_CFG_ENTRY (e : Nat) (n : Nat) : Fld := ⟨R.Ge_THRn_CFG e n, 16, 11⟩
def F.Ge_THRn_CFG_EPHQ (e : Nat) (n : Nat) : Fld := ⟨R.Ge_THRn_CFG e n, 8, 8⟩
def F.Ge_THRn_CFG_LEADSUB (e : Nat) (n : Nat) : Fld := ⟨R.Ge_THRn_CFG e n, 7, 1⟩
def F.Ge_THRn_CFG_ORYSUB (e : Nat) (n : Nat) : Fld := ⟨R.Ge_THRn_CFG e n, 3, 4⟩
def F.Ge_THRn_CFG_AUTOSTART (e : Nat) (n : Nat) : Fld := ⟨R.Ge_THRn_CFG e n, 2, 1⟩
def F.Ge_THRn_CFG_CLASS (e : Nat) (n : Nat) : Fld := ⟨R.Ge_THRn_CFG e n, 0, 2⟩
/-- `Ge_THRn_STAT` (R119, 05_gaffer_scheduling.md). -/
def R.Ge_THRn_STAT (e : Nat) (n : Nat) : Nat := 0x40104 + 0x1000 * e + 0x10 * n
def F.Ge_THRn_STAT_MAXWAIT (e : Nat) (n : Nat) : Fld := ⟨R.Ge_THRn_STAT e n, 16, 16⟩
def F.Ge_THRn_STAT_COAL (e : Nat) (n : Nat) : Fld := ⟨R.Ge_THRn_STAT e n, 8, 8⟩
def F.Ge_THRn_STAT_STATE (e : Nat) (n : Nat) : Fld := ⟨R.Ge_THRn_STAT e n, 0, 3⟩
/-- `Ge_THRn_PC` (R119, 05_gaffer_scheduling.md). -/
def R.Ge_THRn_PC (e : Nat) (n : Nat) : Nat := 0x40108 + 0x1000 * e + 0x10 * n
def F.Ge_THRn_PC_EPHN (e : Nat) (n : Nat) : Fld := ⟨R.Ge_THRn_PC e n, 24, 8⟩
def F.Ge_THRn_PC_AT_SAFE (e : Nat) (n : Nat) : Fld := ⟨R.Ge_THRn_PC e n, 16, 1⟩
def F.Ge_THRn_PC_PC (e : Nat) (n : Nat) : Fld := ⟨R.Ge_THRn_PC e n, 0, 11⟩
/-- `Ge_THRn_WAKE` (R119, 05_gaffer_scheduling.md). -/
def R.Ge_THRn_WAKE (e : Nat) (n : Nat) : Nat := 0x4010C + 0x1000 * e + 0x10 * n
def F.Ge_THRn_WAKE_PEND (e : Nat) (n : Nat) : Fld := ⟨R.Ge_THRn_WAKE e n, 0, 16⟩
/-- `Ge_SREGm_LO` (R119, 05_gaffer_scheduling.md). -/
def R.Ge_SREGm_LO (e : Nat) (m : Nat) : Nat := 0x40200 + 0x1000 * e + 0x8 * m
def F.Ge_SREGm_LO_VAL_LO (e : Nat) (m : Nat) : Fld := ⟨R.Ge_SREGm_LO e m, 0, 32⟩
/-- `Ge_SREGm_HI` (R119, 05_gaffer_scheduling.md). -/
def R.Ge_SREGm_HI (e : Nat) (m : Nat) : Nat := 0x40204 + 0x1000 * e + 0x8 * m
def F.Ge_SREGm_HI_VAL_HI (e : Nat) (m : Nat) : Fld := ⟨R.Ge_SREGm_HI e m, 0, 8⟩
/-- `CSe_CTRL` (R152, 06_microword.md). -/
def R.CSe_CTRL (e : Nat) : Nat := 0x410000 + 0x20000 * e
def F.CSe_CTRL_LOCK (e : Nat) : Fld := ⟨R.CSe_CTRL e, 2, 1⟩
def F.CSe_CTRL_PINJ (e : Nat) : Fld := ⟨R.CSe_CTRL e, 1, 1⟩
def F.CSe_CTRL_WE (e : Nat) : Fld := ⟨R.CSe_CTRL e, 0, 1⟩
/-- `CSe_STAT` (R152, 06_microword.md). -/
def R.CSe_STAT (e : Nat) : Nat := 0x410004 + 0x20000 * e
def F.CSe_STAT_REFUSED (e : Nat) : Fld := ⟨R.CSe_STAT e, 16, 16⟩
def F.CSe_STAT_LOCKED (e : Nat) : Fld := ⟨R.CSe_STAT e, 15, 1⟩
def F.CSe_STAT_LAST (e : Nat) : Fld := ⟨R.CSe_STAT e, 0, 11⟩
/-- `ORYn_CTRL` (R185, 07_orrery_tracking.md). -/
def R.ORYn_CTRL (n : Nat) : Nat := 0x10000 + 0x1000 * n
def F.ORYn_CTRL_REC_EDGE (n : Nat) : Fld := ⟨R.ORYn_CTRL n, 14, 1⟩
def F.ORYn_CTRL_ACC (n : Nat) : Fld := ⟨R.ORYn_CTRL n, 13, 1⟩
def F.ORYn_CTRL_GAPCHK (n : Nat) : Fld := ⟨R.ORYn_CTRL n, 12, 1⟩
def F.ORYn_CTRL_CONF (n : Nat) : Fld := ⟨R.ORYn_CTRL n, 11, 1⟩
def F.ORYn_CTRL_RELOK (n : Nat) : Fld := ⟨R.ORYn_CTRL n, 10, 1⟩
def F.ORYn_CTRL_KEEP (n : Nat) : Fld := ⟨R.ORYn_CTRL n, 9, 1⟩
def F.ORYn_CTRL_DIRMODE (n : Nat) : Fld := ⟨R.ORYn_CTRL n, 7, 2⟩
def F.ORYn_CTRL_TPC (n : Nat) : Fld := ⟨R.ORYn_CTRL n, 6, 1⟩
def F.ORYn_CTRL_TYPE (n : Nat) : Fld := ⟨R.ORYn_CTRL n, 1, 3⟩
def F.ORYn_CTRL_EN (n : Nat) : Fld := ⟨R.ORYn_CTRL n, 0, 1⟩
/-- `ORYn_AG` (R185, 07_orrery_tracking.md). -/
def R.ORYn_AG (n : Nat) : Nat := 0x10004 + 0x1000 * n
def F.ORYn_AG_AG (n : Nat) : Fld := ⟨R.ORYn_AG n, 0, 3⟩
/-- `ORYn_STAT` (R185, 07_orrery_tracking.md). -/
def R.ORYn_STAT (n : Nat) : Nat := 0x10008 + 0x1000 * n
def F.ORYn_STAT_CMD_REF (n : Nat) : Fld := ⟨R.ORYn_STAT n, 18, 1⟩
def F.ORYn_STAT_OV (n : Nat) : Fld := ⟨R.ORYn_STAT n, 17, 1⟩
def F.ORYn_STAT_TURN (n : Nat) : Fld := ⟨R.ORYn_STAT n, 16, 1⟩
def F.ORYn_STAT_POS (n : Nat) : Fld := ⟨R.ORYn_STAT n, 8, 8⟩
def F.ORYn_STAT_CAMOK (n : Nat) : Fld := ⟨R.ORYn_STAT n, 6, 1⟩
def F.ORYn_STAT_SUSPECT (n : Nat) : Fld := ⟨R.ORYn_STAT n, 5, 1⟩
def F.ORYn_STAT_STILL (n : Nat) : Fld := ⟨R.ORYn_STAT n, 4, 1⟩
def F.ORYn_STAT_DIR (n : Nat) : Fld := ⟨R.ORYn_STAT n, 3, 1⟩
def F.ORYn_STAT_SYNC (n : Nat) : Fld := ⟨R.ORYn_STAT n, 0, 3⟩
/-- `ORYn_EVT` (R185, 07_orrery_tracking.md). -/
def R.ORYn_EVT (n : Nat) : Nat := 0x1000C + 0x1000 * n
def F.ORYn_EVT_CFG_ERR_S (n : Nat) : Fld := ⟨R.ORYn_EVT n, 11, 1⟩
def F.ORYn_EVT_REV_S (n : Nat) : Fld := ⟨R.ORYn_EVT n, 10, 1⟩
def F.ORYn_EVT_STILL_S (n : Nat) : Fld := ⟨R.ORYn_EVT n, 9, 1⟩
def F.ORYn_EVT_SIGNAL_S (n : Nat) : Fld := ⟨R.ORYn_EVT n, 8, 1⟩
def F.ORYn_EVT_CAM_S (n : Nat) : Fld := ⟨R.ORYn_EVT n, 7, 1⟩
def F.ORYn_EVT_INDEX_S (n : Nat) : Fld := ⟨R.ORYn_EVT n, 6, 1⟩
def F.ORYn_EVT_ILLEGAL_S (n : Nat) : Fld := ⟨R.ORYn_EVT n, 5, 1⟩
def F.ORYn_EVT_LOSS_S (n : Nat) : Fld := ⟨R.ORYn_EVT n, 4, 1⟩
def F.ORYn_EVT_MISSING_S (n : Nat) : Fld := ⟨R.ORYn_EVT n, 3, 1⟩
def F.ORYn_EVT_EARLY_S (n : Nat) : Fld := ⟨R.ORYn_EVT n, 2, 1⟩
def F.ORYn_EVT_RESYNC_S (n : Nat) : Fld := ⟨R.ORYn_EVT n, 1, 1⟩
def F.ORYn_EVT_SYNC_S (n : Nat) : Fld := ⟨R.ORYn_EVT n, 0, 1⟩
/-- `ORYn_IN` (R185, 07_orrery_tracking.md). -/
def R.ORYn_IN (n : Nat) : Nat := 0x10010 + 0x1000 * n
def F.ORYn_IN_POL2 (n : Nat) : Fld := ⟨R.ORYn_IN n, 23, 1⟩
def F.ORYn_IN_IN2 (n : Nat) : Fld := ⟨R.ORYn_IN n, 16, 7⟩
def F.ORYn_IN_POL1 (n : Nat) : Fld := ⟨R.ORYn_IN n, 15, 1⟩
def F.ORYn_IN_IN1 (n : Nat) : Fld := ⟨R.ORYn_IN n, 8, 7⟩
def F.ORYn_IN_POL0 (n : Nat) : Fld := ⟨R.ORYn_IN n, 7, 1⟩
def F.ORYn_IN_IN0 (n : Nat) : Fld := ⟨R.ORYn_IN n, 0, 7⟩
/-- `ORYn_WHEEL` (R185, 07_orrery_tracking.md). -/
def R.ORYn_WHEEL (n : Nat) : Nat := 0x10014 + 0x1000 * n
def F.ORYn_WHEEL_WHI (n : Nat) : Fld := ⟨R.ORYn_WHEEL n, 24, 8⟩
def F.ORYn_WHEEL_WLO (n : Nat) : Fld := ⟨R.ORYn_WHEEL n, 16, 8⟩
def F.ORYn_WHEEL_MISS (n : Nat) : Fld := ⟨R.ORYn_WHEEL n, 8, 2⟩
def F.ORYn_WHEEL_NPOS (n : Nat) : Fld := ⟨R.ORYn_WHEEL n, 0, 8⟩
/-- `ORYn_REF` (R185, 07_orrery_tracking.md). -/
def R.ORYn_REF (n : Nat) : Nat := 0x10018 + 0x1000 * n
def F.ORYn_REF_REF (n : Nat) : Fld := ⟨R.ORYn_REF n, 0, 24⟩
/-- `ORYn_CAM_LO` (R185, 07_orrery_tracking.md). -/
def R.ORYn_CAM_LO (n : Nat) : Nat := 0x1001C + 0x1000 * n
def F.ORYn_CAM_LO_LO (n : Nat) : Fld := ⟨R.ORYn_CAM_LO n, 0, 24⟩
/-- `ORYn_CAM_HI` (R185, 07_orrery_tracking.md). -/
def R.ORYn_CAM_HI (n : Nat) : Nat := 0x10020 + 0x1000 * n
def F.ORYn_CAM_HI_HI (n : Nat) : Fld := ⟨R.ORYn_CAM_HI n, 0, 24⟩
/-- `ORYn_CAM_CFG` (R185, 07_orrery_tracking.md). -/
def R.ORYn_CAM_CFG (n : Nat) : Nat := 0x10024 + 0x1000 * n
def F.ORYn_CAM_CFG_CAMTO (n : Nat) : Fld := ⟨R.ORYn_CAM_CFG n, 0, 8⟩
/-- `ORYn_LINES` (R185, 07_orrery_tracking.md). -/
def R.ORYn_LINES (n : Nat) : Nat := 0x10028 + 0x1000 * n
def F.ORYn_LINES_IDXQ (n : Nat) : Fld := ⟨R.ORYn_LINES n, 16, 2⟩
def F.ORYn_LINES_LINES (n : Nat) : Fld := ⟨R.ORYn_LINES n, 0, 16⟩
/-- `ORYn_MOTION` (R185, 07_orrery_tracking.md). -/
def R.ORYn_MOTION (n : Nat) : Nat := 0x1002C + 0x1000 * n
def F.ORYn_MOTION_STILL_MS (n : Nat) : Fld := ⟨R.ORYn_MOTION n, 16, 16⟩
def F.ORYn_MOTION_HYST (n : Nat) : Fld := ⟨R.ORYn_MOTION n, 8, 4⟩
def F.ORYn_MOTION_SPAN (n : Nat) : Fld := ⟨R.ORYn_MOTION n, 0, 4⟩
/-- `ORYn_DIRPW` (R185, 07_orrery_tracking.md). -/
def R.ORYn_DIRPW (n : Nat) : Nat := 0x10030 + 0x1000 * n
def F.ORYn_DIRPW_THR (n : Nat) : Fld := ⟨R.ORYn_DIRPW n, 0, 16⟩
/-- `ORYn_SC_CFG` (R185, 07_orrery_tracking.md). -/
def R.ORYn_SC_CFG (n : Nat) : Nat := 0x10034 + 0x1000 * n
def F.ORYn_SC_CFG_LOG (n : Nat) : Fld := ⟨R.ORYn_SC_CFG n, 10, 1⟩
def F.ORYn_SC_CFG_PH (n : Nat) : Fld := ⟨R.ORYn_SC_CFG n, 0, 10⟩
/-- `ORYn_SC_AMP` (R185, 07_orrery_tracking.md). -/
def R.ORYn_SC_AMP (n : Nat) : Nat := 0x10038 + 0x1000 * n
def F.ORYn_SC_AMP_AMAX (n : Nat) : Fld := ⟨R.ORYn_SC_AMP n, 16, 16⟩
def F.ORYn_SC_AMP_AMIN (n : Nat) : Fld := ⟨R.ORYn_SC_AMP n, 0, 16⟩
/-- `ORYn_CMD` (R185, 07_orrery_tracking.md). -/
def R.ORYn_CMD (n : Nat) : Nat := 0x10040 + 0x1000 * n
def F.ORYn_CMD_OP (n : Nat) : Fld := ⟨R.ORYn_CMD n, 0, 3⟩
/-- `ORYn_OPD` (R185, 07_orrery_tracking.md). -/
def R.ORYn_OPD (n : Nat) : Nat := 0x10044 + 0x1000 * n
def F.ORYn_OPD_ANG (n : Nat) : Fld := ⟨R.ORYn_OPD n, 0, 32⟩
/-- `ORYn_EDGE_LO` (R185, 07_orrery_tracking.md). -/
def R.ORYn_EDGE_LO (n : Nat) : Nat := 0x10050 + 0x1000 * n
def F.ORYn_EDGE_LO_NS_LO (n : Nat) : Fld := ⟨R.ORYn_EDGE_LO n, 0, 32⟩
/-- `ORYn_EDGE_HI` (R185, 07_orrery_tracking.md). -/
def R.ORYn_EDGE_HI (n : Nat) : Nat := 0x10054 + 0x1000 * n
def F.ORYn_EDGE_HI_NS_HI (n : Nat) : Fld := ⟨R.ORYn_EDGE_HI n, 0, 32⟩
/-- `ORYn_EDGE_SUB` (R185, 07_orrery_tracking.md). -/
def R.ORYn_EDGE_SUB (n : Nat) : Nat := 0x10058 + 0x1000 * n
def F.ORYn_EDGE_SUB_SUB (n : Nat) : Fld := ⟨R.ORYn_EDGE_SUB n, 0, 6⟩
/-- `ORYn_EDGE_ANG` (R185, 07_orrery_tracking.md). -/
def R.ORYn_EDGE_ANG (n : Nat) : Nat := 0x1005C + 0x1000 * n
def F.ORYn_EDGE_ANG_ANG (n : Nat) : Fld := ⟨R.ORYn_EDGE_ANG n, 0, 32⟩
/-- `ORYn_SPEED_LO` (R185, 07_orrery_tracking.md). -/
def R.ORYn_SPEED_LO (n : Nat) : Nat := 0x10060 + 0x1000 * n
def F.ORYn_SPEED_LO_SPD_LO (n : Nat) : Fld := ⟨R.ORYn_SPEED_LO n, 0, 32⟩
/-- `ORYn_SPEED_HI` (R185, 07_orrery_tracking.md). -/
def R.ORYn_SPEED_HI (n : Nat) : Nat := 0x10064 + 0x1000 * n
def F.ORYn_SPEED_HI_SPD_HI (n : Nat) : Fld := ⟨R.ORYn_SPEED_HI n, 0, 8⟩
/-- `ORYn_NOW_ANG` (R185, 07_orrery_tracking.md). -/
def R.ORYn_NOW_ANG (n : Nat) : Nat := 0x10068 + 0x1000 * n
def F.ORYn_NOW_ANG_ANG (n : Nat) : Fld := ⟨R.ORYn_NOW_ANG n, 0, 32⟩
/-- `ORYn_ERRCNT` (R185, 07_orrery_tracking.md). -/
def R.ORYn_ERRCNT (n : Nat) : Nat := 0x10070 + 0x1000 * n
def F.ORYn_ERRCNT_RESYNC (n : Nat) : Fld := ⟨R.ORYn_ERRCNT n, 24, 8⟩
def F.ORYn_ERRCNT_LOSS (n : Nat) : Fld := ⟨R.ORYn_ERRCNT n, 16, 8⟩
def F.ORYn_ERRCNT_MISSING (n : Nat) : Fld := ⟨R.ORYn_ERRCNT n, 8, 8⟩
def F.ORYn_ERRCNT_EARLY (n : Nat) : Fld := ⟨R.ORYn_ERRCNT n, 0, 8⟩
/-- `ORYn_ERRCNT2` (R185, 07_orrery_tracking.md). -/
def R.ORYn_ERRCNT2 (n : Nat) : Nat := 0x10074 + 0x1000 * n
def F.ORYn_ERRCNT2_SIGNAL (n : Nat) : Fld := ⟨R.ORYn_ERRCNT2 n, 24, 8⟩
def F.ORYn_ERRCNT2_CAM (n : Nat) : Fld := ⟨R.ORYn_ERRCNT2 n, 16, 8⟩
def F.ORYn_ERRCNT2_INDEX (n : Nat) : Fld := ⟨R.ORYn_ERRCNT2 n, 8, 8⟩
def F.ORYn_ERRCNT2_ILLEGAL (n : Nat) : Fld := ⟨R.ORYn_ERRCNT2 n, 0, 8⟩
/-- `ORYn_IDXDIFF` (R185, 07_orrery_tracking.md). -/
def R.ORYn_IDXDIFF (n : Nat) : Nat := 0x10078 + 0x1000 * n
def F.ORYn_IDXDIFF_DIFF (n : Nat) : Fld := ⟨R.ORYn_IDXDIFF n, 0, 32⟩
/-- `ORYn_SC_RAW` (R185, 07_orrery_tracking.md). -/
def R.ORYn_SC_RAW (n : Nat) : Nat := 0x10080 + 0x1000 * n
def F.ORYn_SC_RAW_COS (n : Nat) : Fld := ⟨R.ORYn_SC_RAW n, 16, 16⟩
def F.ORYn_SC_RAW_SIN (n : Nat) : Fld := ⟨R.ORYn_SC_RAW n, 0, 16⟩
/-- `ORYn_SC_LVL` (R185, 07_orrery_tracking.md). -/
def R.ORYn_SC_LVL (n : Nat) : Nat := 0x10084 + 0x1000 * n
def F.ORYn_SC_LVL_AMP (n : Nat) : Fld := ⟨R.ORYn_SC_LVL n, 0, 16⟩
/-- `CV_CTRL` (R202, 08_angle_scheduling.md). -/
def R.CV_CTRL : Nat := 0x18000
def F.CV_CTRL_EN1 : Fld := ⟨R.CV_CTRL, 1, 1⟩
def F.CV_CTRL_EN0 : Fld := ⟨R.CV_CTRL, 0, 1⟩
/-- `CV_STAT` (R202, 08_angle_scheduling.md). -/
def R.CV_STAT : Nat := 0x18004
def F.CV_STAT_QLEN1 : Fld := ⟨R.CV_STAT, 8, 4⟩
def F.CV_STAT_QLEN0 : Fld := ⟨R.CV_STAT, 4, 4⟩
def F.CV_STAT_BUSY1 : Fld := ⟨R.CV_STAT, 1, 1⟩
def F.CV_STAT_BUSY0 : Fld := ⟨R.CV_STAT, 0, 1⟩
/-- `CV_EVT` (R202, 08_angle_scheduling.md). -/
def R.CV_EVT : Nat := 0x18008
def F.CV_EVT_BUF_OVR_S : Fld := ⟨R.CV_EVT, 8, 6⟩
def F.CV_EVT_TRG1_REF_S : Fld := ⟨R.CV_EVT, 2, 1⟩
def F.CV_EVT_TRG0_REF_S : Fld := ⟨R.CV_EVT, 1, 1⟩
def F.CV_EVT_CFG_ERR_S : Fld := ⟨R.CV_EVT, 0, 1⟩
/-- `CV_AG` (R202, 08_angle_scheduling.md). -/
def R.CV_AG : Nat := 0x1800C
def F.CV_AG_AG : Fld := ⟨R.CV_AG, 0, 3⟩
/-- `CV_CMD` (R202, 08_angle_scheduling.md). -/
def R.CV_CMD : Nat := 0x18010
def F.CV_CMD_CONV : Fld := ⟨R.CV_CMD, 8, 1⟩
def F.CV_CMD_AIN : Fld := ⟨R.CV_CMD, 0, 4⟩
/-- `CV_PART` (R202, 08_angle_scheduling.md). -/
def R.CV_PART : Nat := 0x18014
def F.CV_PART_OFS : Fld := ⟨R.CV_PART, 0, 32⟩
/-- `CVk_SLOTj` (R202, 08_angle_scheduling.md). -/
def R.CVk_SLOTj (k : Nat) (j : Nat) : Nat := 0x18040 + 0x10 * k + 0x4 * j
def F.CVk_SLOTj_REC (k : Nat) (j : Nat) : Fld := ⟨R.CVk_SLOTj k j, 18, 1⟩
def F.CVk_SLOTj_LEN (k : Nat) (j : Nat) : Fld := ⟨R.CVk_SLOTj k j, 14, 4⟩
def F.CVk_SLOTj_START (k : Nat) (j : Nat) : Fld := ⟨R.CVk_SLOTj k j, 10, 4⟩
def F.CVk_SLOTj_EVT (k : Nat) (j : Nat) : Fld := ⟨R.CVk_SLOTj k j, 8, 2⟩
def F.CVk_SLOTj_EN (k : Nat) (j : Nat) : Fld := ⟨R.CVk_SLOTj k j, 7, 1⟩
def F.CVk_SLOTj_CH (k : Nat) (j : Nat) : Fld := ⟨R.CVk_SLOTj k j, 0, 7⟩
/-- `CVk_SEQ_LO` (R202, 08_angle_scheduling.md). -/
def R.CVk_SEQ_LO (k : Nat) : Nat := 0x18060 + 0x8 * k
def F.CVk_SEQ_LO_SEQ7_SEQ0 (k : Nat) : Fld := ⟨R.CVk_SEQ_LO k, 0, 32⟩
/-- `CVk_SEQ_HI` (R202, 08_angle_scheduling.md). -/
def R.CVk_SEQ_HI (k : Nat) : Nat := 0x18064 + 0x8 * k
def F.CVk_SEQ_HI_SEQ15_SEQ8 (k : Nat) : Fld := ⟨R.CVk_SEQ_HI k, 0, 32⟩
/-- `CVk_CNT` (R202, 08_angle_scheduling.md). -/
def R.CVk_CNT (k : Nat) : Nat := 0x18070 + 0x4 * k
def F.CVk_CNT_REFUSED (k : Nat) : Fld := ⟨R.CVk_CNT k, 16, 16⟩
def F.CVk_CNT_DELAYED (k : Nat) : Fld := ⟨R.CVk_CNT k, 0, 16⟩
/-- `CVk_LAST` (R202, 08_angle_scheduling.md). -/
def R.CVk_LAST (k : Nat) : Nat := 0x18078 + 0x4 * k
def F.CVk_LAST_AIN (k : Nat) : Fld := ⟨R.CVk_LAST k, 28, 4⟩
def F.CVk_LAST_RAW (k : Nat) : Fld := ⟨R.CVk_LAST k, 16, 12⟩
def F.CVk_LAST_SAT (k : Nat) : Fld := ⟨R.CVk_LAST k, 12, 1⟩
def F.CVk_LAST_V (k : Nat) : Fld := ⟨R.CVk_LAST k, 0, 12⟩
/-- `CVBUFb_BASE` (R202, 08_angle_scheduling.md). -/
def R.CVBUFb_BASE (b : Nat) : Nat := 0x18100 + 0x10 * b
def F.CVBUFb_BASE_PAGE (b : Nat) : Fld := ⟨R.CVBUFb_BASE b, 12, 8⟩
/-- `CVBUFb_CFG` (R202, 08_angle_scheduling.md). -/
def R.CVBUFb_CFG (b : Nat) : Nat := 0x18104 + 0x10 * b
def F.CVBUFb_CFG_EN (b : Nat) : Fld := ⟨R.CVBUFb_CFG b, 10, 1⟩
def F.CVBUFb_CFG_BLK (b : Nat) : Fld := ⟨R.CVBUFb_CFG b, 5, 5⟩
def F.CVBUFb_CFG_MODE (b : Nat) : Fld := ⟨R.CVBUFb_CFG b, 4, 1⟩
def F.CVBUFb_CFG_SIZE (b : Nat) : Fld := ⟨R.CVBUFb_CFG b, 0, 4⟩
/-- `CVBUFb_WRIDX` (R202, 08_angle_scheduling.md). -/
def R.CVBUFb_WRIDX (b : Nat) : Nat := 0x18108 + 0x10 * b
def F.CVBUFb_WRIDX_WRIDX (b : Nat) : Fld := ⟨R.CVBUFb_WRIDX b, 0, 32⟩
/-- `CVBUFb_RDIDX` (R202, 08_angle_scheduling.md). -/
def R.CVBUFb_RDIDX (b : Nat) : Nat := 0x1810C + 0x10 * b
def F.CVBUFb_RDIDX_RDIDX (b : Nat) : Fld := ⟨R.CVBUFb_RDIDX b, 0, 32⟩
/-- `CVBUFb_DROP` (R202, 08_angle_scheduling.md). -/
def R.CVBUFb_DROP (b : Nat) : Nat := 0x18160 + 0x4 * b
def F.CVBUFb_DROP_DROP (b : Nat) : Fld := ⟨R.CVBUFb_DROP b, 0, 32⟩
/-- `LH_CTRL` (R231, 09_lehr.md). -/
def R.LH_CTRL : Nat := 0x20000
def F.LH_CTRL_PF_LEAD : Fld := ⟨R.LH_CTRL, 2, 2⟩
def F.LH_CTRL_MODE : Fld := ⟨R.LH_CTRL, 1, 1⟩
def F.LH_CTRL_EN : Fld := ⟨R.LH_CTRL, 0, 1⟩
/-- `LH_STAT` (R231, 09_lehr.md). -/
def R.LH_STAT : Nat := 0x20004
def F.LH_STAT_HOSTERR : Fld := ⟨R.LH_STAT, 4, 1⟩
def F.LH_STAT_FARWALK : Fld := ⟨R.LH_STAT, 3, 1⟩
def F.LH_STAT_PF_BEHIND : Fld := ⟨R.LH_STAT, 2, 1⟩
def F.LH_STAT_STALL : Fld := ⟨R.LH_STAT, 1, 1⟩
def F.LH_STAT_RUN : Fld := ⟨R.LH_STAT, 0, 1⟩
/-- `LH_EVT` (R231, 09_lehr.md). -/
def R.LH_EVT : Nat := 0x20008
def F.LH_EVT_HOSTERR_S : Fld := ⟨R.LH_EVT, 6, 1⟩
def F.LH_EVT_REFUSED_S : Fld := ⟨R.LH_EVT, 5, 1⟩
def F.LH_EVT_FIRE_LATE_S : Fld := ⟨R.LH_EVT, 4, 1⟩
def F.LH_EVT_PF_LATE_S : Fld := ⟨R.LH_EVT, 3, 1⟩
def F.LH_EVT_NEAR_FULL_S : Fld := ⟨R.LH_EVT, 2, 1⟩
def F.LH_EVT_CMD_ERR_S : Fld := ⟨R.LH_EVT, 1, 1⟩
def F.LH_EVT_CFG_ERR_S : Fld := ⟨R.LH_EVT, 0, 1⟩
/-- `LH_CASC` (R231, 09_lehr.md). -/
def R.LH_CASC : Nat := 0x2000C
def F.LH_CASC_LEAD : Fld := ⟨R.LH_CASC, 0, 12⟩
/-- `LH_POOL_LO` (R231, 09_lehr.md). -/
def R.LH_POOL_LO : Nat := 0x20010
def F.LH_POOL_LO_BASE_LO : Fld := ⟨R.LH_POOL_LO, 12, 20⟩
/-- `LH_POOL_HI` (R231, 09_lehr.md). -/
def R.LH_POOL_HI : Nat := 0x20014
def F.LH_POOL_HI_BASE_HI : Fld := ⟨R.LH_POOL_HI, 0, 32⟩
/-- `LH_POOL_SZ` (R231, 09_lehr.md). -/
def R.LH_POOL_SZ : Nat := 0x20018
def F.LH_POOL_SZ_LOG2 : Fld := ⟨R.LH_POOL_SZ, 0, 5⟩
/-- `LH_L1_LO` (R231, 09_lehr.md). -/
def R.LH_L1_LO : Nat := 0x20020
def F.LH_L1_LO_BASE_LO : Fld := ⟨R.LH_L1_LO, 12, 20⟩
/-- `LH_L1_HI` (R231, 09_lehr.md). -/
def R.LH_L1_HI : Nat := 0x20024
def F.LH_L1_HI_BASE_HI : Fld := ⟨R.LH_L1_HI, 0, 32⟩
/-- `LH_L2_LO` (R231, 09_lehr.md). -/
def R.LH_L2_LO : Nat := 0x20028
def F.LH_L2_LO_BASE_LO : Fld := ⟨R.LH_L2_LO, 12, 20⟩
/-- `LH_L2_HI` (R231, 09_lehr.md). -/
def R.LH_L2_HI : Nat := 0x2002C
def F.LH_L2_HI_BASE_HI : Fld := ⟨R.LH_L2_HI, 0, 32⟩
/-- `LH_GPOFS` (R231, 09_lehr.md). -/
def R.LH_GPOFS : Nat := 0x20030
def F.LH_GPOFS_OFS : Fld := ⟨R.LH_GPOFS, 12, 20⟩
/-- `LH_NEAR_OFS` (R231, 09_lehr.md). -/
def R.LH_NEAR_OFS : Nat := 0x20034
def F.LH_NEAR_OFS_OFS : Fld := ⟨R.LH_NEAR_OFS, 0, 32⟩
/-- `LH_OCC` (R231, 09_lehr.md). -/
def R.LH_OCC : Nat := 0x20040
def F.LH_OCC_COUNT : Fld := ⟨R.LH_OCC, 0, 24⟩
/-- `LH_NEAR` (R231, 09_lehr.md). -/
def R.LH_NEAR : Nat := 0x20044
def F.LH_NEAR_COUNT : Fld := ⟨R.LH_NEAR, 0, 17⟩
/-- `LH_FAR` (R231, 09_lehr.md). -/
def R.LH_FAR : Nat := 0x20048
def F.LH_FAR_COUNT : Fld := ⟨R.LH_FAR, 0, 24⟩
/-- `LH_FAR_HEAD` (R231, 09_lehr.md). -/
def R.LH_FAR_HEAD : Nat := 0x2004C
def F.LH_FAR_HEAD_VALID : Fld := ⟨R.LH_FAR_HEAD, 31, 1⟩
def F.LH_FAR_HEAD_HANDLE : Fld := ⟨R.LH_FAR_HEAD, 0, 23⟩
/-- `LH_FIRE_CNT` (R231, 09_lehr.md). -/
def R.LH_FIRE_CNT : Nat := 0x20050
def F.LH_FIRE_CNT_FIRED : Fld := ⟨R.LH_FIRE_CNT, 0, 32⟩
/-- `LH_LATE_CNT` (R231, 09_lehr.md). -/
def R.LH_LATE_CNT : Nat := 0x20054
def F.LH_LATE_CNT_LATE : Fld := ⟨R.LH_LATE_CNT, 0, 32⟩
/-- `LH_MAXLATE` (R231, 09_lehr.md). -/
def R.LH_MAXLATE : Nat := 0x20058
def F.LH_MAXLATE_NS : Fld := ⟨R.LH_MAXLATE, 0, 32⟩
/-- `LH_REFUSED` (R231, 09_lehr.md). -/
def R.LH_REFUSED : Nat := 0x2005C
def F.LH_REFUSED_REFUSED : Fld := ⟨R.LH_REFUSED, 0, 32⟩
/-- `LH_ERRCNT` (R231, 09_lehr.md). -/
def R.LH_ERRCNT : Nat := 0x20060
def F.LH_ERRCNT_DEST : Fld := ⟨R.LH_ERRCNT, 16, 16⟩
def F.LH_ERRCNT_CMD : Fld := ⟨R.LH_ERRCNT, 0, 16⟩
/-- `LH_PFCNT` (R231, 09_lehr.md). -/
def R.LH_PFCNT : Nat := 0x20064
def F.LH_PFCNT_LATEWIN : Fld := ⟨R.LH_PFCNT, 16, 16⟩
def F.LH_PFCNT_STALLS : Fld := ⟨R.LH_PFCNT, 0, 16⟩
/-- `LH_NOW_LO` (R231, 09_lehr.md). -/
def R.LH_NOW_LO : Nat := 0x20070
def F.LH_NOW_LO_N_LO : Fld := ⟨R.LH_NOW_LO, 0, 32⟩
/-- `LH_NOW_HI` (R231, 09_lehr.md). -/
def R.LH_NOW_HI : Nat := 0x20074
def F.LH_NOW_HI_N_HI : Fld := ⟨R.LH_NOW_HI, 0, 32⟩
/-- `LH_PB` (R231, 09_lehr.md). -/
def R.LH_PB : Nat := 0x20078
def F.LH_PB_PB_LO : Fld := ⟨R.LH_PB, 0, 32⟩
/-- `LH_L1B` (R231, 09_lehr.md). -/
def R.LH_L1B : Nat := 0x2007C
def F.LH_L1B_L1B_LO : Fld := ⟨R.LH_L1B, 0, 32⟩
/-- `LH_DESTd` (R231, 09_lehr.md). -/
def R.LH_DESTd (d : Nat) : Nat := 0x20100 + 0x4 * d
def F.LH_DESTd_WAKE_EN (d : Nat) : Fld := ⟨R.LH_DESTd d, 14, 1⟩
def F.LH_DESTd_THREAD (d : Nat) : Fld := ⟨R.LH_DESTd d, 10, 4⟩
def F.LH_DESTd_GAFFER (d : Nat) : Fld := ⟨R.LH_DESTd d, 7, 3⟩
def F.LH_DESTd_RING_EN (d : Nat) : Fld := ⟨R.LH_DESTd d, 6, 1⟩
def F.LH_DESTd_RING (d : Nat) : Fld := ⟨R.LH_DESTd d, 0, 6⟩
/-- `EC_CTRL` (R258, 10_records_rings_events.md). -/
def R.EC_CTRL : Nat := 0x02000
def F.EC_CTRL_LATCH_S : Fld := ⟨R.EC_CTRL, 2, 1⟩
def F.EC_CTRL_LATCH_P : Fld := ⟨R.EC_CTRL, 1, 1⟩
def F.EC_CTRL_EN : Fld := ⟨R.EC_CTRL, 0, 1⟩
/-- `EC_STAT` (R258, 10_records_rings_events.md). -/
def R.EC_STAT : Nat := 0x02004
def F.EC_STAT_WAKE : Fld := ⟨R.EC_STAT, 9, 1⟩
def F.EC_STAT_LATCHED : Fld := ⟨R.EC_STAT, 8, 1⟩
def F.EC_STAT_TPEND : Fld := ⟨R.EC_STAT, 0, 8⟩
/-- `EC_EVT` (R258, 10_records_rings_events.md). -/
def R.EC_EVT : Nat := 0x02008
def F.EC_EVT_UNROUTED_S : Fld := ⟨R.EC_EVT, 5, 1⟩
def F.EC_EVT_DB_ERR_S : Fld := ⟨R.EC_EVT, 4, 1⟩
def F.EC_EVT_LATCH_TO_S : Fld := ⟨R.EC_EVT, 3, 1⟩
def F.EC_EVT_SPUR_S : Fld := ⟨R.EC_EVT, 2, 1⟩
def F.EC_EVT_LOST2_S : Fld := ⟨R.EC_EVT, 1, 1⟩
def F.EC_EVT_STRAY_S : Fld := ⟨R.EC_EVT, 0, 1⟩
/-- `EC_IDX` (R258, 10_records_rings_events.md). -/
def R.EC_IDX : Nat := 0x0200C
def F.EC_IDX_SRC : Fld := ⟨R.EC_IDX, 0, 10⟩
/-- `EC_TGT` (R258, 10_records_rings_events.md). -/
def R.EC_TGT : Nat := 0x02010
def F.EC_TGT_GAFFER : Fld := ⟨R.EC_TGT, 13, 3⟩
def F.EC_TGT_THREAD : Fld := ⟨R.EC_TGT, 9, 4⟩
def F.EC_TGT_WAKE_EN : Fld := ⟨R.EC_TGT, 8, 1⟩
def F.EC_TGT_TMASK : Fld := ⟨R.EC_TGT, 0, 8⟩
/-- `EC_ROUTE` (R258, 10_records_rings_events.md). -/
def R.EC_ROUTE : Nat := 0x02014
def F.EC_ROUTE_ALT_EN : Fld := ⟨R.EC_ROUTE, 14, 1⟩
def F.EC_ROUTE_ALT : Fld := ⟨R.EC_ROUTE, 8, 6⟩
def F.EC_ROUTE_EN : Fld := ⟨R.EC_ROUTE, 6, 1⟩
def F.EC_ROUTE_RING : Fld := ⟨R.EC_ROUTE, 0, 6⟩
/-- `EC_ALTTYPE_LO` (R258, 10_records_rings_events.md). -/
def R.EC_ALTTYPE_LO : Nat := 0x02018
def F.EC_ALTTYPE_LO_TYPES : Fld := ⟨R.EC_ALTTYPE_LO, 0, 32⟩
/-- `EC_ALTTYPE_HI` (R258, 10_records_rings_events.md). -/
def R.EC_ALTTYPE_HI : Nat := 0x0201C
def F.EC_ALTTYPE_HI_TYPES : Fld := ⟨R.EC_ALTTYPE_HI, 0, 32⟩
/-- `EC_DOORBELL` (R258, 10_records_rings_events.md). -/
def R.EC_DOORBELL : Nat := 0x02020
def F.EC_DOORBELL_SRC : Fld := ⟨R.EC_DOORBELL, 0, 10⟩
/-- `EC_WAKE` (R258, 10_records_rings_events.md). -/
def R.EC_WAKE : Nat := 0x02024
def F.EC_WAKE_EN : Fld := ⟨R.EC_WAKE, 8, 1⟩
def F.EC_WAKE_TMASK : Fld := ⟨R.EC_WAKE, 0, 8⟩
/-- `EC_STRAY` (R258, 10_records_rings_events.md). -/
def R.EC_STRAY : Nat := 0x02028
def F.EC_STRAY_COMPLETE_STRAY : Fld := ⟨R.EC_STRAY, 0, 32⟩
/-- `EC_LOST2` (R258, 10_records_rings_events.md). -/
def R.EC_LOST2 : Nat := 0x0202C
def F.EC_LOST2_CNT : Fld := ⟨R.EC_LOST2, 0, 32⟩
/-- `EC_SPUR` (R258, 10_records_rings_events.md). -/
def R.EC_SPUR : Nat := 0x02030
def F.EC_SPUR_CNT : Fld := ⟨R.EC_SPUR, 0, 32⟩
/-- `EC_DISCARD` (R258, 10_records_rings_events.md). -/
def R.EC_DISCARD : Nat := 0x02034
def F.EC_DISCARD_CNT : Fld := ⟨R.EC_DISCARD, 0, 32⟩
/-- `EC_CLAIMt` (R258, 10_records_rings_events.md). -/
def R.EC_CLAIMt (t : Nat) : Nat := 0x02040 + 0x10 * t
def F.EC_CLAIMt_SRC (t : Nat) : Fld := ⟨R.EC_CLAIMt t, 0, 10⟩
/-- `EC_COMPLETEt` (R258, 10_records_rings_events.md). -/
def R.EC_COMPLETEt (t : Nat) : Nat := 0x02044 + 0x10 * t
def F.EC_COMPLETEt_SRC (t : Nat) : Fld := ⟨R.EC_COMPLETEt t, 0, 10⟩
/-- `EC_TCFGt` (R258, 10_records_rings_events.md). -/
def R.EC_TCFGt (t : Nat) : Nat := 0x02048 + 0x10 * t
def F.EC_TCFGt_POL (t : Nat) : Fld := ⟨R.EC_TCFGt t, 3, 1⟩
def F.EC_TCFGt_KIND (t : Nat) : Fld := ⟨R.EC_TCFGt t, 1, 2⟩
def F.EC_TCFGt_EN (t : Nat) : Fld := ⟨R.EC_TCFGt t, 0, 1⟩
/-- `EC_TSTATt` (R258, 10_records_rings_events.md). -/
def R.EC_TSTATt (t : Nat) : Nat := 0x0204C + 0x10 * t
def F.EC_TSTATt_NASSIGN (t : Nat) : Fld := ⟨R.EC_TSTATt t, 0, 11⟩
/-- `EC_PENDw` (R258, 10_records_rings_events.md). -/
def R.EC_PENDw (w : Nat) : Nat := 0x02100 + 0x4 * w
def F.EC_PENDw_PEND (w : Nat) : Fld := ⟨R.EC_PENDw w, 0, 32⟩
/-- `EC_ENw` (R258, 10_records_rings_events.md). -/
def R.EC_ENw (w : Nat) : Nat := 0x02180 + 0x4 * w
def F.EC_ENw_EN (w : Nat) : Fld := ⟨R.EC_ENw w, 0, 32⟩
/-- `EC_ACTw` (R258, 10_records_rings_events.md). -/
def R.EC_ACTw (w : Nat) : Nat := 0x02200 + 0x4 * w
def F.EC_ACTw_ACT (w : Nat) : Fld := ⟨R.EC_ACTw w, 0, 32⟩
/-- `EC_LVLw` (R258, 10_records_rings_events.md). -/
def R.EC_LVLw (w : Nat) : Nat := 0x02280 + 0x4 * w
def F.EC_LVLw_LVL (w : Nat) : Fld := ⟨R.EC_LVLw w, 0, 32⟩
/-- `RINGn_CFG` (R259, 10_records_rings_events.md). -/
def R.RINGn_CFG (n : Nat) : Nat := 0x30000 + 0x40 * n
def F.RINGn_CFG_CPL (n : Nat) : Fld := ⟨R.RINGn_CFG n, 16, 6⟩
def F.RINGn_CFG_DRAIN_IRQ (n : Nat) : Fld := ⟨R.RINGn_CFG n, 10, 1⟩
def F.RINGn_CFG_CONS (n : Nat) : Fld := ⟨R.RINGn_CFG n, 8, 2⟩
def F.RINGn_CFG_HIDX_EN (n : Nat) : Fld := ⟨R.RINGn_CFG n, 7, 1⟩
def F.RINGn_CFG_SIZE (n : Nat) : Fld := ⟨R.RINGn_CFG n, 3, 4⟩
def F.RINGn_CFG_LOC (n : Nat) : Fld := ⟨R.RINGn_CFG n, 2, 1⟩
def F.RINGn_CFG_DIR (n : Nat) : Fld := ⟨R.RINGn_CFG n, 1, 1⟩
def F.RINGn_CFG_EN (n : Nat) : Fld := ⟨R.RINGn_CFG n, 0, 1⟩
/-- `RINGn_BASE_LO` (R259, 10_records_rings_events.md). -/
def R.RINGn_BASE_LO (n : Nat) : Nat := 0x30004 + 0x40 * n
def F.RINGn_BASE_LO_BASE_LO (n : Nat) : Fld := ⟨R.RINGn_BASE_LO n, 9, 23⟩
/-- `RINGn_BASE_HI` (R259, 10_records_rings_events.md). -/
def R.RINGn_BASE_HI (n : Nat) : Nat := 0x30008 + 0x40 * n
def F.RINGn_BASE_HI_BASE_HI (n : Nat) : Fld := ⟨R.RINGn_BASE_HI n, 0, 32⟩
/-- `RINGn_HEAD` (R259, 10_records_rings_events.md). -/
def R.RINGn_HEAD (n : Nat) : Nat := 0x3000C + 0x40 * n
def F.RINGn_HEAD_HEAD (n : Nat) : Fld := ⟨R.RINGn_HEAD n, 0, 32⟩
/-- `RINGn_TAIL` (R259, 10_records_rings_events.md). -/
def R.RINGn_TAIL (n : Nat) : Nat := 0x30010 + 0x40 * n
def F.RINGn_TAIL_TAIL (n : Nat) : Fld := ⟨R.RINGn_TAIL n, 0, 32⟩
/-- `RINGn_HADDR_LO` (R259, 10_records_rings_events.md). -/
def R.RINGn_HADDR_LO (n : Nat) : Nat := 0x30014 + 0x40 * n
def F.RINGn_HADDR_LO_HADDR_LO (n : Nat) : Fld := ⟨R.RINGn_HADDR_LO n, 3, 29⟩
/-- `RINGn_HADDR_HI` (R259, 10_records_rings_events.md). -/
def R.RINGn_HADDR_HI (n : Nat) : Nat := 0x30018 + 0x40 * n
def F.RINGn_HADDR_HI_HADDR_HI (n : Nat) : Fld := ⟨R.RINGn_HADDR_HI n, 0, 32⟩
/-- `RINGn_STAT` (R259, 10_records_rings_events.md). -/
def R.RINGn_STAT (n : Nat) : Nat := 0x3001C + 0x40 * n
def F.RINGn_STAT_ERR (n : Nat) : Fld := ⟨R.RINGn_STAT n, 4, 4⟩
def F.RINGn_STAT_LOSTPEND (n : Nat) : Fld := ⟨R.RINGn_STAT n, 3, 1⟩
def F.RINGn_STAT_EMPTY (n : Nat) : Fld := ⟨R.RINGn_STAT n, 2, 1⟩
def F.RINGn_STAT_FULL (n : Nat) : Fld := ⟨R.RINGn_STAT n, 1, 1⟩
def F.RINGn_STAT_RUN (n : Nat) : Fld := ⟨R.RINGn_STAT n, 0, 1⟩
/-- `RINGn_LOSTCNT` (R259, 10_records_rings_events.md). -/
def R.RINGn_LOSTCNT (n : Nat) : Nat := 0x30020 + 0x40 * n
def F.RINGn_LOSTCNT_CNT (n : Nat) : Fld := ⟨R.RINGn_LOSTCNT n, 0, 32⟩
/-- `RINGn_REFUSED` (R259, 10_records_rings_events.md). -/
def R.RINGn_REFUSED (n : Nat) : Nat := 0x30024 + 0x40 * n
def F.RINGn_REFUSED_CNT (n : Nat) : Fld := ⟨R.RINGn_REFUSED n, 0, 32⟩
/-- `RINGn_EVT` (R259, 10_records_rings_events.md). -/
def R.RINGn_EVT (n : Nat) : Nat := 0x30028 + 0x40 * n
def F.RINGn_EVT_CFG_ERR_S (n : Nat) : Fld := ⟨R.RINGn_EVT n, 3, 1⟩
def F.RINGn_EVT_HOSTERR_S (n : Nat) : Fld := ⟨R.RINGn_EVT n, 2, 1⟩
def F.RINGn_EVT_IDX_ERR_S (n : Nat) : Fld := ⟨R.RINGn_EVT n, 1, 1⟩
def F.RINGn_EVT_LOST_S (n : Nat) : Fld := ⟨R.RINGn_EVT n, 0, 1⟩
/-- `EL_CTRL` (R291, 11_ewerlink.md). -/
def R.EL_CTRL : Nat := 0x04000
def F.EL_CTRL_PORT_EN : Fld := ⟨R.EL_CTRL, 8, 4⟩
def F.EL_CTRL_EN : Fld := ⟨R.EL_CTRL, 0, 1⟩
/-- `EL_STAT` (R291, 11_ewerlink.md). -/
def R.EL_STAT : Nat := 0x04004
def F.EL_STAT_ROOT_ID : Fld := ⟨R.EL_STAT, 22, 10⟩
def F.EL_STAT_DEPTH : Fld := ⟨R.EL_STAT, 17, 5⟩
def F.EL_STAT_SERVO : Fld := ⟨R.EL_STAT, 14, 3⟩
def F.EL_STAT_IDSTATE : Fld := ⟨R.EL_STAT, 12, 2⟩
def F.EL_STAT_PARENT : Fld := ⟨R.EL_STAT, 10, 2⟩
def F.EL_STAT_HASPARENT : Fld := ⟨R.EL_STAT, 9, 1⟩
def F.EL_STAT_ISROOT : Fld := ⟨R.EL_STAT, 8, 1⟩
def F.EL_STAT_TOO_DEEP : Fld := ⟨R.EL_STAT, 7, 1⟩
def F.EL_STAT_QUAL : Fld := ⟨R.EL_STAT, 6, 1⟩
/-- `EL_EVT` (R291, 11_ewerlink.md). -/
def R.EL_EVT : Nat := 0x04008
def F.EL_EVT_MBOX_TO_S : Fld := ⟨R.EL_EVT, 9, 1⟩
def F.EL_EVT_APPLY_REF_S : Fld := ⟨R.EL_EVT, 8, 1⟩
def F.EL_EVT_DROP_S : Fld := ⟨R.EL_EVT, 7, 1⟩
def F.EL_EVT_CRC_S : Fld := ⟨R.EL_EVT, 6, 1⟩
def F.EL_EVT_RANGE_S : Fld := ⟨R.EL_EVT, 5, 1⟩
def F.EL_EVT_UNLOCK_S : Fld := ⟨R.EL_EVT, 4, 1⟩
def F.EL_EVT_SERVO_S : Fld := ⟨R.EL_EVT, 3, 1⟩
def F.EL_EVT_CONFLICT_S : Fld := ⟨R.EL_EVT, 2, 1⟩
def F.EL_EVT_TOPO_S : Fld := ⟨R.EL_EVT, 1, 1⟩
def F.EL_EVT_LINK_S : Fld := ⟨R.EL_EVT, 0, 1⟩
/-- `EL_ID` (R291, 11_ewerlink.md). -/
def R.EL_ID : Nat := 0x0400C
def F.EL_ID_HELD_V : Fld := ⟨R.EL_ID, 26, 1⟩
def F.EL_ID_HELD : Fld := ⟨R.EL_ID, 16, 10⟩
def F.EL_ID_ID : Fld := ⟨R.EL_ID, 0, 10⟩
/-- `EL_PRIO` (R291, 11_ewerlink.md). -/
def R.EL_PRIO : Nat := 0x04010
def F.EL_PRIO_ROOT_ELIG : Fld := ⟨R.EL_PRIO, 8, 1⟩
def F.EL_PRIO_PRIO : Fld := ⟨R.EL_PRIO, 0, 8⟩
/-- `EL_UID_LO` (R291, 11_ewerlink.md). -/
def R.EL_UID_LO : Nat := 0x04014
def F.EL_UID_LO_UID_LO : Fld := ⟨R.EL_UID_LO, 0, 32⟩
/-- `EL_UID_HI` (R291, 11_ewerlink.md). -/
def R.EL_UID_HI : Nat := 0x04018
def F.EL_UID_HI_UID_HI : Fld := ⟨R.EL_UID_HI, 0, 32⟩
/-- `EL_ROOT_LO` (R291, 11_ewerlink.md). -/
def R.EL_ROOT_LO : Nat := 0x0401C
def F.EL_ROOT_LO_UID_LO : Fld := ⟨R.EL_ROOT_LO, 0, 32⟩
/-- `EL_ROOT_HI` (R291, 11_ewerlink.md). -/
def R.EL_ROOT_HI : Nat := 0x04020
def F.EL_ROOT_HI_UID_HI : Fld := ⟨R.EL_ROOT_HI, 0, 32⟩
/-- `EL_ROOT_PRIO` (R291, 11_ewerlink.md). -/
def R.EL_ROOT_PRIO : Nat := 0x04024
def F.EL_ROOT_PRIO_RSEQ : Fld := ⟨R.EL_ROOT_PRIO, 16, 16⟩
def F.EL_ROOT_PRIO_PRIO : Fld := ⟨R.EL_ROOT_PRIO, 0, 8⟩
/-- `ELp_STAT` (R291, 11_ewerlink.md). -/
def R.ELp_STAT (p : Nat) : Nat := 0x04040 + 0x10 * p
def F.ELp_STAT_NBR_ID (p : Nat) : Fld := ⟨R.ELp_STAT p, 16, 10⟩
def F.ELp_STAT_CAND (p : Nat) : Fld := ⟨R.ELp_STAT p, 7, 1⟩
def F.ELp_STAT_HOLDOFF (p : Nat) : Fld := ⟨R.ELp_STAT p, 6, 1⟩
def F.ELp_STAT_ROLE (p : Nat) : Fld := ⟨R.ELp_STAT p, 4, 2⟩
def F.ELp_STAT_STATE (p : Nat) : Fld := ⟨R.ELp_STAT p, 0, 3⟩
/-- `ELp_ERR` (R291, 11_ewerlink.md). -/
def R.ELp_ERR (p : Nat) : Nat := 0x04044 + 0x10 * p
def F.ELp_ERR_CRC (p : Nat) : Fld := ⟨R.ELp_ERR p, 16, 16⟩
def F.ELp_ERR_CV (p : Nat) : Fld := ⟨R.ELp_ERR p, 0, 16⟩
/-- `ELp_DLY` (R291, 11_ewerlink.md). -/
def R.ELp_DLY (p : Nat) : Nat := 0x04048 + 0x10 * p
def F.ELp_DLY_NSAMP (p : Nat) : Fld := ⟨R.ELp_DLY p, 27, 5⟩
def F.ELp_DLY_DLY (p : Nat) : Fld := ⟨R.ELp_DLY p, 0, 24⟩
/-- `ELp_CNT` (R291, 11_ewerlink.md). -/
def R.ELp_CNT (p : Nat) : Nat := 0x0404C + 0x10 * p
def F.ELp_CNT_QDROP (p : Nat) : Fld := ⟨R.ELp_CNT p, 16, 16⟩
def F.ELp_CNT_DOWNS (p : Nat) : Fld := ⟨R.ELp_CNT p, 0, 16⟩
/-- `EL_SRV_CFG` (R291, 11_ewerlink.md). -/
def R.EL_SRV_CFG : Nat := 0x04080
def F.EL_SRV_CFG_DRATE : Fld := ⟨R.EL_SRV_CFG, 12, 3⟩
def F.EL_SRV_CFG_KI : Fld := ⟨R.EL_SRV_CFG, 8, 4⟩
def F.EL_SRV_CFG_KP : Fld := ⟨R.EL_SRV_CFG, 0, 4⟩
/-- `EL_SRV_THR` (R291, 11_ewerlink.md). -/
def R.EL_SRV_THR : Nat := 0x04084
def F.EL_SRV_THR_UNLOCK : Fld := ⟨R.EL_SRV_THR, 16, 16⟩
def F.EL_SRV_THR_LOCK : Fld := ⟨R.EL_SRV_THR, 0, 16⟩
/-- `EL_SRV_STEP` (R291, 11_ewerlink.md). -/
def R.EL_SRV_STEP : Nat := 0x04088
def F.EL_SRV_STEP_STEP : Fld := ⟨R.EL_SRV_STEP, 0, 32⟩
/-- `EL_SRV_OFS` (R291, 11_ewerlink.md). -/
def R.EL_SRV_OFS : Nat := 0x0408C
def F.EL_SRV_OFS_THETA : Fld := ⟨R.EL_SRV_OFS, 0, 32⟩
/-- `EL_SRV_INT` (R291, 11_ewerlink.md). -/
def R.EL_SRV_INT : Nat := 0x04090
def F.EL_SRV_INT_I : Fld := ⟨R.EL_SRV_INT, 0, 32⟩
/-- `EL_SRV_CNT` (R291, 11_ewerlink.md). -/
def R.EL_SRV_CNT : Nat := 0x04094
def F.EL_SRV_CNT_STEPS : Fld := ⟨R.EL_SRV_CNT, 16, 16⟩
def F.EL_SRV_CNT_UNLOCKS : Fld := ⟨R.EL_SRV_CNT, 0, 16⟩
/-- `EL_TAB` (R291, 11_ewerlink.md). -/
def R.EL_TAB : Nat := 0x040A0
def F.EL_TAB_NENT : Fld := ⟨R.EL_TAB, 0, 11⟩
/-- `EL_TABIDX` (R291, 11_ewerlink.md). -/
def R.EL_TABIDX : Nat := 0x040A4
def F.EL_TABIDX_ID : Fld := ⟨R.EL_TABIDX, 0, 10⟩
/-- `EL_TABENT` (R291, 11_ewerlink.md). -/
def R.EL_TABENT : Nat := 0x040A8
def F.EL_TABENT_VALID : Fld := ⟨R.EL_TABENT, 31, 1⟩
def F.EL_TABENT_PORT : Fld := ⟨R.EL_TABENT, 0, 2⟩
/-- `EL_DROP` (R291, 11_ewerlink.md). -/
def R.EL_DROP : Nat := 0x040B0
def F.EL_DROP_NOROUTE : Fld := ⟨R.EL_DROP, 16, 16⟩
def F.EL_DROP_DUP : Fld := ⟨R.EL_DROP, 0, 16⟩
/-- `EL_CNT2` (R291, 11_ewerlink.md). -/
def R.EL_CNT2 : Nat := 0x040B4
def F.EL_CNT2_APPLY_REF : Fld := ⟨R.EL_CNT2, 16, 16⟩
def F.EL_CNT2_CONFLICT : Fld := ⟨R.EL_CNT2, 8, 8⟩
def F.EL_CNT2_MBOX_TO : Fld := ⟨R.EL_CNT2, 0, 8⟩
/-- `EL_CMD` (R291, 11_ewerlink.md). -/
def R.EL_CMD : Nat := 0x040C0
def F.EL_CMD_OP : Fld := ⟨R.EL_CMD, 0, 2⟩
/-- `ID` (R328, 12_host_interface_registers.md). -/
def R.ID : Nat := 0x00000
def F.ID_PART : Fld := ⟨R.ID, 16, 16⟩
def F.ID_FAMILY : Fld := ⟨R.ID, 8, 8⟩
def F.ID_REV : Fld := ⟨R.ID, 0, 8⟩
/-- `GL_STAT` (R328, 12_host_interface_registers.md). -/
def R.GL_STAT : Nat := 0x00004
def F.GL_STAT_LOCKED : Fld := ⟨R.GL_STAT, 5, 1⟩
def F.GL_STAT_SCWP_S : Fld := ⟨R.GL_STAT, 4, 1⟩
def F.GL_STAT_SCWP_P : Fld := ⟨R.GL_STAT, 3, 1⟩
def F.GL_STAT_SUMBUSY : Fld := ⟨R.GL_STAT, 2, 1⟩
def F.GL_STAT_SIGBUSY : Fld := ⟨R.GL_STAT, 1, 1⟩
def F.GL_STAT_HOSTTAG_SET : Fld := ⟨R.GL_STAT, 0, 1⟩
/-- `GL_EVT` (R328, 12_host_interface_registers.md). -/
def R.GL_EVT : Nat := 0x00008
def F.GL_EVT_RELOAD_S : Fld := ⟨R.GL_EVT, 7, 1⟩
def F.GL_EVT_DIVERGE_S : Fld := ⟨R.GL_EVT, 6, 1⟩
def F.GL_EVT_SPI_S : Fld := ⟨R.GL_EVT, 5, 1⟩
def F.GL_EVT_PARTIAL_S : Fld := ⟨R.GL_EVT, 4, 1⟩
def F.GL_EVT_UNMAP_S : Fld := ⟨R.GL_EVT, 3, 1⟩
def F.GL_EVT_SUM_S : Fld := ⟨R.GL_EVT, 2, 1⟩
def F.GL_EVT_SIG_S : Fld := ⟨R.GL_EVT, 1, 1⟩
def F.GL_EVT_LOCK_S : Fld := ⟨R.GL_EVT, 0, 1⟩
/-- `GL_LOCK` (R328, 12_host_interface_registers.md). -/
def R.GL_LOCK : Nat := 0x00010
def F.GL_LOCK_DOMAINS : Fld := ⟨R.GL_LOCK, 0, 12⟩
/-- `GL_LOCK_VIOL` (R328, 12_host_interface_registers.md). -/
def R.GL_LOCK_VIOL : Nat := 0x00014
def F.GL_LOCK_VIOL_CNT : Fld := ⟨R.GL_LOCK_VIOL, 0, 32⟩
/-- `GL_LOCK_LAST` (R328, 12_host_interface_registers.md). -/
def R.GL_LOCK_LAST : Nat := 0x00018
def F.GL_LOCK_LAST_PATH : Fld := ⟨R.GL_LOCK_LAST, 26, 2⟩
def F.GL_LOCK_LAST_OFS : Fld := ⟨R.GL_LOCK_LAST, 0, 26⟩
/-- `GL_HOSTTAG` (R328, 12_host_interface_registers.md). -/
def R.GL_HOSTTAG : Nat := 0x0001C
def F.GL_HOSTTAG_TAG : Fld := ⟨R.GL_HOSTTAG, 0, 32⟩
/-- `GL_CFGGEN` (R328, 12_host_interface_registers.md). -/
def R.GL_CFGGEN : Nat := 0x00020
def F.GL_CFGGEN_GEN : Fld := ⟨R.GL_CFGGEN, 0, 32⟩
/-- `GL_SIGCMD` (R328, 12_host_interface_registers.md). -/
def R.GL_SIGCMD : Nat := 0x00024
def F.GL_SIGCMD_GO : Fld := ⟨R.GL_SIGCMD, 0, 1⟩
/-- `GL_SIGSTAT` (R328, 12_host_interface_registers.md). -/
def R.GL_SIGSTAT : Nat := 0x00028
def F.GL_SIGSTAT_DUR : Fld := ⟨R.GL_SIGSTAT, 16, 16⟩
def F.GL_SIGSTAT_REQ : Fld := ⟨R.GL_SIGSTAT, 2, 2⟩
def F.GL_SIGSTAT_STALE : Fld := ⟨R.GL_SIGSTAT, 1, 1⟩
def F.GL_SIGSTAT_VALID : Fld := ⟨R.GL_SIGSTAT, 0, 1⟩
/-- `GL_SIG` (R328, 12_host_interface_registers.md). -/
def R.GL_SIG : Nat := 0x0002C
def F.GL_SIG_CRC : Fld := ⟨R.GL_SIG, 0, 32⟩
/-- `GL_SIGGEN` (R328, 12_host_interface_registers.md). -/
def R.GL_SIGGEN : Nat := 0x00030
def F.GL_SIGGEN_GEN : Fld := ⟨R.GL_SIGGEN, 0, 32⟩
/-- `GL_SUMCMD` (R328, 12_host_interface_registers.md). -/
def R.GL_SUMCMD : Nat := 0x00034
def F.GL_SUMCMD_GO : Fld := ⟨R.GL_SUMCMD, 0, 1⟩
/-- `GL_SUMCFG` (R328, 12_host_interface_registers.md). -/
def R.GL_SUMCFG : Nat := 0x00038
def F.GL_SUMCFG_PERIOD : Fld := ⟨R.GL_SUMCFG, 0, 16⟩
/-- `GL_SUMSTAT` (R328, 12_host_interface_registers.md). -/
def R.GL_SUMSTAT : Nat := 0x0003C
def F.GL_SUMSTAT_LAST : Fld := ⟨R.GL_SUMSTAT, 0, 1⟩
/-- `GL_SUMCNT` (R328, 12_host_interface_registers.md). -/
def R.GL_SUMCNT : Nat := 0x00040
def F.GL_SUMCNT_CNT : Fld := ⟨R.GL_SUMCNT, 0, 32⟩
/-- `GL_SUMOFS` (R328, 12_host_interface_registers.md). -/
def R.GL_SUMOFS : Nat := 0x00044
def F.GL_SUMOFS_OFS : Fld := ⟨R.GL_SUMOFS, 0, 32⟩
/-- `GL_SPICFG` (R328, 12_host_interface_registers.md). -/
def R.GL_SPICFG : Nat := 0x00050
def F.GL_SPICFG_DUMMY : Fld := ⟨R.GL_SPICFG, 0, 5⟩
/-- `GL_SPISTAT` (R328, 12_host_interface_registers.md). -/
def R.GL_SPISTAT : Nat := 0x00054
def F.GL_SPISTAT_UNDER : Fld := ⟨R.GL_SPISTAT, 16, 16⟩
def F.GL_SPISTAT_FRAME : Fld := ⟨R.GL_SPISTAT, 0, 16⟩
/-- `GL_ERRCNT` (R328, 12_host_interface_registers.md). -/
def R.GL_ERRCNT : Nat := 0x00058
def F.GL_ERRCNT_UNMAP : Fld := ⟨R.GL_ERRCNT, 16, 16⟩
def F.GL_ERRCNT_PARTIAL : Fld := ⟨R.GL_ERRCNT, 0, 16⟩
/-- `GL_SCRATCHn` (R328, 12_host_interface_registers.md). -/
def R.GL_SCRATCHn (n : Nat) : Nat := 0x00060 + 0x4 * n
def F.GL_SCRATCHn_VAL (n : Nat) : Fld := ⟨R.GL_SCRATCHn n, 0, 32⟩
/-- `GL_PCIE` (R328, 12_host_interface_registers.md). -/
def R.GL_PCIE : Nat := 0x00070
def F.GL_PCIE_LINKDOWN : Fld := ⟨R.GL_PCIE, 16, 16⟩
def F.GL_PCIE_DSTATE : Fld := ⟨R.GL_PCIE, 8, 2⟩
def F.GL_PCIE_FMASK : Fld := ⟨R.GL_PCIE, 7, 1⟩
def F.GL_PCIE_MSIXEN : Fld := ⟨R.GL_PCIE, 6, 1⟩
def F.GL_PCIE_BME : Fld := ⟨R.GL_PCIE, 5, 1⟩
def F.GL_PCIE_LINKUP : Fld := ⟨R.GL_PCIE, 4, 1⟩
def F.GL_PCIE_WIDTH : Fld := ⟨R.GL_PCIE, 2, 2⟩
def F.GL_PCIE_SPEED : Fld := ⟨R.GL_PCIE, 0, 2⟩
/-- `AP_CTRL` (R329, 12_host_interface_registers.md). -/
def R.AP_CTRL : Nat := 0x03000
def F.AP_CTRL_VIEW_S : Fld := ⟨R.AP_CTRL, 1, 1⟩
def F.AP_CTRL_VIEW_P : Fld := ⟨R.AP_CTRL, 0, 1⟩
/-- `AP_STAT` (R329, 12_host_interface_registers.md). -/
def R.AP_STAT : Nat := 0x03004
def F.AP_STAT_NPEND : Fld := ⟨R.AP_STAT, 8, 4⟩
def F.AP_STAT_DIRTY : Fld := ⟨R.AP_STAT, 0, 8⟩
/-- `AP_EVT` (R329, 12_host_interface_registers.md). -/
def R.AP_EVT : Nat := 0x03008
def F.AP_EVT_STROBE_S : Fld := ⟨R.AP_EVT, 3, 1⟩
def F.AP_EVT_LATE_S : Fld := ⟨R.AP_EVT, 2, 1⟩
def F.AP_EVT_RANGE_S : Fld := ⟨R.AP_EVT, 1, 1⟩
def F.AP_EVT_FULL_S : Fld := ⟨R.AP_EVT, 0, 1⟩
/-- `AP_APPLY` (R329, 12_host_interface_registers.md). -/
def R.AP_APPLY : Nat := 0x03010
def F.AP_APPLY_GROUPS : Fld := ⟨R.AP_APPLY, 0, 8⟩
/-- `AP_AT_LO` (R329, 12_host_interface_registers.md). -/
def R.AP_AT_LO : Nat := 0x03014
def F.AP_AT_LO_T_LO : Fld := ⟨R.AP_AT_LO, 0, 32⟩
/-- `AP_AT_HI` (R329, 12_host_interface_registers.md). -/
def R.AP_AT_HI : Nat := 0x03018
def F.AP_AT_HI_T_HI : Fld := ⟨R.AP_AT_HI, 0, 32⟩
/-- `AP_AT_CMD` (R329, 12_host_interface_registers.md). -/
def R.AP_AT_CMD : Nat := 0x0301C
def F.AP_AT_CMD_GROUPS : Fld := ⟨R.AP_AT_CMD, 0, 8⟩
/-- `AP_CANCEL` (R329, 12_host_interface_registers.md). -/
def R.AP_CANCEL : Nat := 0x03020
def F.AP_CANCEL_GROUPS : Fld := ⟨R.AP_CANCEL, 0, 8⟩
/-- `AP_ABORT` (R329, 12_host_interface_registers.md). -/
def R.AP_ABORT : Nat := 0x03024
def F.AP_ABORT_GROUPS : Fld := ⟨R.AP_ABORT, 0, 8⟩
/-- `AP_FENCE` (R329, 12_host_interface_registers.md). -/
def R.AP_FENCE : Nat := 0x03028
def F.AP_FENCE_CNT : Fld := ⟨R.AP_FENCE, 0, 32⟩
/-- `AP_PENDi_LO` (R329, 12_host_interface_registers.md). -/
def R.AP_PENDi_LO (i : Nat) : Nat := 0x03040 + 0x10 * i
def F.AP_PENDi_LO_T_LO (i : Nat) : Fld := ⟨R.AP_PENDi_LO i, 0, 32⟩
/-- `AP_PENDi_HI` (R329, 12_host_interface_registers.md). -/
def R.AP_PENDi_HI (i : Nat) : Nat := 0x03044 + 0x10 * i
def F.AP_PENDi_HI_T_HI (i : Nat) : Fld := ⟨R.AP_PENDi_HI i, 0, 32⟩
/-- `AP_PENDi_INFO` (R329, 12_host_interface_registers.md). -/
def R.AP_PENDi_INFO (i : Nat) : Nat := 0x03048 + 0x10 * i
def F.AP_PENDi_INFO_SRC (i : Nat) : Fld := ⟨R.AP_PENDi_INFO i, 16, 10⟩
def F.AP_PENDi_INFO_VALID (i : Nat) : Fld := ⟨R.AP_PENDi_INFO i, 10, 1⟩
def F.AP_PENDi_INFO_ORIGIN (i : Nat) : Fld := ⟨R.AP_PENDi_INFO i, 8, 2⟩
def F.AP_PENDi_INFO_GROUPS (i : Nat) : Fld := ⟨R.AP_PENDi_INFO i, 0, 8⟩
/-- `AP_PENDi_BSEQ` (R329, 12_host_interface_registers.md). -/
def R.AP_PENDi_BSEQ (i : Nat) : Nat := 0x0304C + 0x10 * i
def F.AP_PENDi_BSEQ_BSEQ (i : Nat) : Fld := ⟨R.AP_PENDi_BSEQ i, 0, 16⟩
/-- `AP_LAST_LO` (R329, 12_host_interface_registers.md). -/
def R.AP_LAST_LO : Nat := 0x030C0
def F.AP_LAST_LO_NS_LO : Fld := ⟨R.AP_LAST_LO, 0, 32⟩
/-- `AP_LAST_HI` (R329, 12_host_interface_registers.md). -/
def R.AP_LAST_HI : Nat := 0x030C4
def F.AP_LAST_HI_NS_HI : Fld := ⟨R.AP_LAST_HI, 0, 32⟩
/-- `AP_LAST_INFO` (R329, 12_host_interface_registers.md). -/
def R.AP_LAST_INFO : Nat := 0x030C8
def F.AP_LAST_INFO_INCL : Fld := ⟨R.AP_LAST_INFO, 8, 8⟩
def F.AP_LAST_INFO_GROUPS : Fld := ⟨R.AP_LAST_INFO, 0, 8⟩
/-- `AP_CNT` (R329, 12_host_interface_registers.md). -/
def R.AP_CNT : Nat := 0x030D0
def F.AP_CNT_REFUSED : Fld := ⟨R.AP_CNT, 16, 16⟩
def F.AP_CNT_STROBES : Fld := ⟨R.AP_CNT, 0, 16⟩
/-- `CFG_STAT` (R350, 13_boot_image_calibration.md). -/
def R.CFG_STAT : Nat := 0x06000
def F.CFG_STAT_LOADING : Fld := ⟨R.CFG_STAT, 12, 1⟩
def F.CFG_STAT_CMD_REF : Fld := ⟨R.CFG_STAT, 11, 1⟩
def F.CFG_STAT_KEYSET : Fld := ⟨R.CFG_STAT, 10, 1⟩
def F.CFG_STAT_AUTHREQ : Fld := ⟨R.CFG_STAT, 9, 1⟩
def F.CFG_STAT_HOLDPOL : Fld := ⟨R.CFG_STAT, 8, 1⟩
def F.CFG_STAT_INTACT : Fld := ⟨R.CFG_STAT, 5, 3⟩
def F.CFG_STAT_DIVERGE : Fld := ⟨R.CFG_STAT, 4, 1⟩
def F.CFG_STAT_NOIMAGE : Fld := ⟨R.CFG_STAT, 3, 1⟩
def F.CFG_STAT_HELD : Fld := ⟨R.CFG_STAT, 2, 1⟩
def F.CFG_STAT_SLOT : Fld := ⟨R.CFG_STAT, 0, 2⟩
/-- `CFG_EVT` (R350, 13_boot_image_calibration.md). -/
def R.CFG_EVT : Nat := 0x06004
def F.CFG_EVT_FCRC_S : Fld := ⟨R.CFG_EVT, 5, 1⟩
def F.CFG_EVT_SAT_S : Fld := ⟨R.CFG_EVT, 4, 1⟩
def F.CFG_EVT_CMD_ERR_S : Fld := ⟨R.CFG_EVT, 3, 1⟩
def F.CFG_EVT_RELEASE_S : Fld := ⟨R.CFG_EVT, 2, 1⟩
def F.CFG_EVT_FAIL_S : Fld := ⟨R.CFG_EVT, 1, 1⟩
def F.CFG_EVT_LOAD_S : Fld := ⟨R.CFG_EVT, 0, 1⟩
/-- `CFG_CMD` (R350, 13_boot_image_calibration.md). -/
def R.CFG_CMD : Nat := 0x06008
def F.CFG_CMD_SLOT : Fld := ⟨R.CFG_CMD, 4, 2⟩
def F.CFG_CMD_OP : Fld := ⟨R.CFG_CMD, 0, 3⟩
/-- `CFG_SLOTs_GEN` (R350, 13_boot_image_calibration.md). -/
def R.CFG_SLOTs_GEN (s : Nat) : Nat := 0x06010 + 0x10 * s
def F.CFG_SLOTs_GEN_GEN (s : Nat) : Fld := ⟨R.CFG_SLOTs_GEN s, 0, 32⟩
/-- `CFG_SLOTs_DIG` (R350, 13_boot_image_calibration.md). -/
def R.CFG_SLOTs_DIG (s : Nat) : Nat := 0x06014 + 0x10 * s
def F.CFG_SLOTs_DIG_DIG (s : Nat) : Fld := ⟨R.CFG_SLOTs_DIG s, 0, 32⟩
/-- `CFG_SLOTs_STAT` (R350, 13_boot_image_calibration.md). -/
def R.CFG_SLOTs_STAT (s : Nat) : Nat := 0x06018 + 0x10 * s
def F.CFG_SLOTs_STAT_LEN_KB (s : Nat) : Fld := ⟨R.CFG_SLOTs_STAT s, 16, 16⟩
def F.CFG_SLOTs_STAT_STATE (s : Nat) : Fld := ⟨R.CFG_SLOTs_STAT s, 0, 4⟩
/-- `CFG_LOADERR` (R350, 13_boot_image_calibration.md). -/
def R.CFG_LOADERR : Nat := 0x06040
def F.CFG_LOADERR_LOCKED : Fld := ⟨R.CFG_LOADERR, 16, 16⟩
def F.CFG_LOADERR_REFUSED : Fld := ⟨R.CFG_LOADERR, 0, 16⟩
/-- `CFG_BOOTTIME` (R350, 13_boot_image_calibration.md). -/
def R.CFG_BOOTTIME : Nat := 0x06044
def F.CFG_BOOTTIME_US : Fld := ⟨R.CFG_BOOTTIME, 0, 32⟩
/-- `CFG_HOSTIGN` (R350, 13_boot_image_calibration.md). -/
def R.CFG_HOSTIGN : Nat := 0x06048
def F.CFG_HOSTIGN_CNT : Fld := ⟨R.CFG_HOSTIGN, 0, 32⟩
/-- `CAL_AG` (R350, 13_boot_image_calibration.md). -/
def R.CAL_AG : Nat := 0x06080
def F.CAL_AG_EL_AG : Fld := ⟨R.CAL_AG, 12, 3⟩
def F.CAL_AG_CV_AG : Fld := ⟨R.CAL_AG, 8, 3⟩
def F.CAL_AG_ORY_AG : Fld := ⟨R.CAL_AG, 4, 3⟩
def F.CAL_AG_DLY_AG : Fld := ⟨R.CAL_AG, 0, 3⟩
/-- `CAL_IDX` (R350, 13_boot_image_calibration.md). -/
def R.CAL_IDX : Nat := 0x06084
def F.CAL_IDX_AINC : Fld := ⟨R.CAL_IDX, 16, 1⟩
def F.CAL_IDX_IDX : Fld := ⟨R.CAL_IDX, 0, 12⟩
/-- `CAL_F_DATA` (R350, 13_boot_image_calibration.md). -/
def R.CAL_F_DATA : Nat := 0x06088
def F.CAL_F_DATA_F : Fld := ⟨R.CAL_F_DATA, 0, 32⟩
/-- `CAL_U_DATA` (R350, 13_boot_image_calibration.md). -/
def R.CAL_U_DATA : Nat := 0x0608C
def F.CAL_U_DATA_U : Fld := ⟨R.CAL_U_DATA, 0, 32⟩
/-- `CAL_E_DATA` (R350, 13_boot_image_calibration.md). -/
def R.CAL_E_DATA : Nat := 0x06090
def F.CAL_E_DATA_E : Fld := ⟨R.CAL_E_DATA, 0, 32⟩
/-- `CAL_VOTE` (R350, 13_boot_image_calibration.md). -/
def R.CAL_VOTE : Nat := 0x06098
def F.CAL_VOTE_FBAD : Fld := ⟨R.CAL_VOTE, 31, 1⟩
def F.CAL_VOTE_CORR : Fld := ⟨R.CAL_VOTE, 0, 11⟩
/-- `CAL_OTP_IDX` (R350, 13_boot_image_calibration.md). -/
def R.CAL_OTP_IDX : Nat := 0x060A0
def F.CAL_OTP_IDX_IDX : Fld := ⟨R.CAL_OTP_IDX, 0, 11⟩
/-- `CAL_OTP_DATA` (R350, 13_boot_image_calibration.md). -/
def R.CAL_OTP_DATA : Nat := 0x060A4
def F.CAL_OTP_DATA_WORD : Fld := ⟨R.CAL_OTP_DATA, 0, 32⟩
/-- `CAL_OTP_DIFF` (R350, 13_boot_image_calibration.md). -/
def R.CAL_OTP_DIFF : Nat := 0x060A8
def F.CAL_OTP_DIFF_DIFF : Fld := ⟨R.CAL_OTP_DIFF, 0, 32⟩
/-- `PW_CTRL` (R383, 14_power_health_freeze.md). -/
def R.PW_CTRL : Nat := 0x05000
def F.PW_CTRL_SKIPSRAM : Fld := ⟨R.PW_CTRL, 5, 1⟩
def F.PW_CTRL_WKPOL : Fld := ⟨R.PW_CTRL, 4, 1⟩
def F.PW_CTRL_WKEN : Fld := ⟨R.PW_CTRL, 3, 1⟩
def F.PW_CTRL_IDLE_WAKE : Fld := ⟨R.PW_CTRL, 2, 1⟩
/-- `PW_STAT` (R383, 14_power_health_freeze.md). -/
def R.PW_STAT : Nat := 0x05004
def F.PW_STAT_WDG_RUN : Fld := ⟨R.PW_STAT, 11, 1⟩
def F.PW_STAT_VPE_OK : Fld := ⟨R.PW_STAT, 10, 1⟩
def F.PW_STAT_VDDL_OK : Fld := ⟨R.PW_STAT, 9, 1⟩
def F.PW_STAT_VDDA_OK : Fld := ⟨R.PW_STAT, 8, 1⟩
def F.PW_STAT_VCORE_OK : Fld := ⟨R.PW_STAT, 7, 1⟩
def F.PW_STAT_VIN_OK : Fld := ⟨R.PW_STAT, 6, 1⟩
def F.PW_STAT_STATE : Fld := ⟨R.PW_STAT, 0, 3⟩
/-- `PW_EVT` (R383, 14_power_health_freeze.md). -/
def R.PW_EVT : Nat := 0x05008
def F.PW_EVT_PSEQ_FLT_S : Fld := ⟨R.PW_EVT, 7, 1⟩
def F.PW_EVT_PSEQ_DONE_S : Fld := ⟨R.PW_EVT, 6, 1⟩
def F.PW_EVT_WDG_WARN_S : Fld := ⟨R.PW_EVT, 5, 1⟩
def F.PW_EVT_SUPPLY_S : Fld := ⟨R.PW_EVT, 4, 1⟩
def F.PW_EVT_CMD_ERR_S : Fld := ⟨R.PW_EVT, 3, 1⟩
def F.PW_EVT_WAKE_S : Fld := ⟨R.PW_EVT, 2, 1⟩
def F.PW_EVT_STATE_S : Fld := ⟨R.PW_EVT, 1, 1⟩
def F.PW_EVT_RESET_S : Fld := ⟨R.PW_EVT, 0, 1⟩
/-- `PW_CMD` (R383, 14_power_health_freeze.md). -/
def R.PW_CMD : Nat := 0x0500C
def F.PW_CMD_KEY : Fld := ⟨R.PW_CMD, 16, 16⟩
def F.PW_CMD_OP : Fld := ⟨R.PW_CMD, 0, 4⟩
/-- `PW_RSTCAUSE` (R383, 14_power_health_freeze.md). -/
def R.PW_RSTCAUSE : Nat := 0x05010
def F.PW_RSTCAUSE_LINKSRC : Fld := ⟨R.PW_RSTCAUSE, 16, 10⟩
def F.PW_RSTCAUSE_BOR : Fld := ⟨R.PW_RSTCAUSE, 7, 1⟩
def F.PW_RSTCAUSE_RETX : Fld := ⟨R.PW_RSTCAUSE, 6, 1⟩
def F.PW_RSTCAUSE_RELOAD : Fld := ⟨R.PW_RSTCAUSE, 5, 1⟩
def F.PW_RSTCAUSE_LINK : Fld := ⟨R.PW_RSTCAUSE, 4, 1⟩
def F.PW_RSTCAUSE_SOFT : Fld := ⟨R.PW_RSTCAUSE, 3, 1⟩
def F.PW_RSTCAUSE_WDG : Fld := ⟨R.PW_RSTCAUSE, 2, 1⟩
def F.PW_RSTCAUSE_PIN : Fld := ⟨R.PW_RSTCAUSE, 1, 1⟩
def F.PW_RSTCAUSE_POR : Fld := ⟨R.PW_RSTCAUSE, 0, 1⟩
/-- `PW_RSTCNT` (R383, 14_power_health_freeze.md). -/
def R.PW_RSTCNT : Nat := 0x05014
def F.PW_RSTCNT_WDG : Fld := ⟨R.PW_RSTCNT, 24, 8⟩
def F.PW_RSTCNT_SOFT : Fld := ⟨R.PW_RSTCNT, 16, 8⟩
def F.PW_RSTCNT_LINK : Fld := ⟨R.PW_RSTCNT, 8, 8⟩
def F.PW_RSTCNT_PIN : Fld := ⟨R.PW_RSTCNT, 0, 8⟩
/-- `PW_RET_CFG` (R383, 14_power_health_freeze.md). -/
def R.PW_RET_CFG : Nat := 0x05018
def F.PW_RET_CFG_BANKS : Fld := ⟨R.PW_RET_CFG, 0, 16⟩
/-- `PW_RET_TMR` (R383, 14_power_health_freeze.md). -/
def R.PW_RET_TMR : Nat := 0x0501C
def F.PW_RET_TMR_MS : Fld := ⟨R.PW_RET_TMR, 0, 32⟩
/-- `PW_WDG` (R383, 14_power_health_freeze.md). -/
def R.PW_WDG : Nat := 0x05020
def F.PW_WDG_MODE : Fld := ⟨R.PW_WDG, 30, 2⟩
def F.PW_WDG_SRC : Fld := ⟨R.PW_WDG, 16, 7⟩
def F.PW_WDG_TIMEOUT : Fld := ⟨R.PW_WDG, 0, 16⟩
/-- `PW_WDG_KICK` (R383, 14_power_health_freeze.md). -/
def R.PW_WDG_KICK : Nat := 0x05024
def F.PW_WDG_KICK_KEY : Fld := ⟨R.PW_WDG_KICK, 0, 32⟩
/-- `PW_WDG_STAT` (R383, 14_power_health_freeze.md). -/
def R.PW_WDG_STAT : Nat := 0x05028
def F.PW_WDG_STAT_WARN : Fld := ⟨R.PW_WDG_STAT, 16, 1⟩
def F.PW_WDG_STAT_REMAIN : Fld := ⟨R.PW_WDG_STAT, 0, 16⟩
/-- `PW_LINKRST` (R383, 14_power_health_freeze.md). -/
def R.PW_LINKRST : Nat := 0x0502C
def F.PW_LINKRST_EN : Fld := ⟨R.PW_LINKRST, 31, 1⟩
def F.PW_LINKRST_FROM_EN : Fld := ⟨R.PW_LINKRST, 30, 1⟩
def F.PW_LINKRST_FROM : Fld := ⟨R.PW_LINKRST, 16, 10⟩
def F.PW_LINKRST_SRC : Fld := ⟨R.PW_LINKRST, 0, 10⟩
/-- `PSQ_CTRL` (R384, 14_power_health_freeze.md). -/
def R.PSQ_CTRL : Nat := 0x09000
def F.PSQ_CTRL_FAULT : Fld := ⟨R.PSQ_CTRL, 8, 2⟩
def F.PSQ_CTRL_EN : Fld := ⟨R.PSQ_CTRL, 0, 8⟩
/-- `PSQ_STAT` (R384, 14_power_health_freeze.md). -/
def R.PSQ_STAT : Nat := 0x09004
def F.PSQ_STAT_PG : Fld := ⟨R.PSQ_STAT, 24, 8⟩
def F.PSQ_STAT_ON : Fld := ⟨R.PSQ_STAT, 16, 8⟩
def F.PSQ_STAT_FLT : Fld := ⟨R.PSQ_STAT, 8, 8⟩
def F.PSQ_STAT_SEQ : Fld := ⟨R.PSQ_STAT, 0, 2⟩
/-- `PSQ_CMD` (R384, 14_power_health_freeze.md). -/
def R.PSQ_CMD : Nat := 0x09008
def F.PSQ_CMD_AT : Fld := ⟨R.PSQ_CMD, 3, 1⟩
def F.PSQ_CMD_OP : Fld := ⟨R.PSQ_CMD, 0, 3⟩
/-- `PSQ_T_LO` (R384, 14_power_health_freeze.md). -/
def R.PSQ_T_LO : Nat := 0x09010
def F.PSQ_T_LO_T : Fld := ⟨R.PSQ_T_LO, 0, 32⟩
/-- `PSQ_T_HI` (R384, 14_power_health_freeze.md). -/
def R.PSQ_T_HI : Nat := 0x09014
def F.PSQ_T_HI_T : Fld := ⟨R.PSQ_T_HI, 0, 32⟩
/-- `PSQ_Rr_CFG` (R384, 14_power_health_freeze.md). -/
def R.PSQ_Rr_CFG (r : Nat) : Nat := 0x09040 + 0x8 * r
def F.PSQ_Rr_CFG_PGTO (r : Nat) : Fld := ⟨R.PSQ_Rr_CFG r, 16, 16⟩
def F.PSQ_Rr_CFG_RETKEEP (r : Nat) : Fld := ⟨R.PSQ_Rr_CFG r, 3, 1⟩
def F.PSQ_Rr_CFG_PG_POL (r : Nat) : Fld := ⟨R.PSQ_Rr_CFG r, 2, 1⟩
def F.PSQ_Rr_CFG_OUT_POL (r : Nat) : Fld := ⟨R.PSQ_Rr_CFG r, 1, 1⟩
/-- `PSQ_Rr_TIM` (R384, 14_power_health_freeze.md). -/
def R.PSQ_Rr_TIM (r : Nat) : Nat := 0x09044 + 0x8 * r
def F.PSQ_Rr_TIM_DN_DLY (r : Nat) : Fld := ⟨R.PSQ_Rr_TIM r, 16, 16⟩
def F.PSQ_Rr_TIM_UP_DLY (r : Nat) : Fld := ⟨R.PSQ_Rr_TIM r, 0, 16⟩
/-- `HL_CTRL` (R385, 14_power_health_freeze.md). -/
def R.HL_CTRL : Nat := 0x07000
def F.HL_CTRL_CREC : Fld := ⟨R.HL_CTRL, 3, 1⟩
def F.HL_CTRL_REC : Fld := ⟨R.HL_CTRL, 2, 1⟩
def F.HL_CTRL_LOG : Fld := ⟨R.HL_CTRL, 1, 1⟩
def F.HL_CTRL_EN : Fld := ⟨R.HL_CTRL, 0, 1⟩
/-- `HL_STAT` (R385, 14_power_health_freeze.md). -/
def R.HL_STAT : Nat := 0x07004
def F.HL_STAT_WARN : Fld := ⟨R.HL_STAT, 7, 1⟩
def F.HL_STAT_VST_FAIL : Fld := ⟨R.HL_STAT, 6, 1⟩
def F.HL_STAT_MON_FAIL : Fld := ⟨R.HL_STAT, 5, 1⟩
def F.HL_STAT_MRAM_ERR : Fld := ⟨R.HL_STAT, 4, 1⟩
def F.HL_STAT_BUSY : Fld := ⟨R.HL_STAT, 0, 1⟩
/-- `HL_EVT` (R385, 14_power_health_freeze.md). -/
def R.HL_EVT : Nat := 0x07008
def F.HL_EVT_LIFE_S : Fld := ⟨R.HL_EVT, 6, 1⟩
def F.HL_EVT_MRAM_S : Fld := ⟨R.HL_EVT, 5, 1⟩
def F.HL_EVT_VST_S : Fld := ⟨R.HL_EVT, 4, 1⟩
def F.HL_EVT_MON_S : Fld := ⟨R.HL_EVT, 3, 1⟩
def F.HL_EVT_ECC_U_S : Fld := ⟨R.HL_EVT, 2, 1⟩
def F.HL_EVT_ECC_C_S : Fld := ⟨R.HL_EVT, 1, 1⟩
def F.HL_EVT_RECAL_S : Fld := ⟨R.HL_EVT, 0, 1⟩
/-- `HL_TEMP` (R385, 14_power_health_freeze.md). -/
def R.HL_TEMP : Nat := 0x0700C
def F.HL_TEMP_TCAL : Fld := ⟨R.HL_TEMP, 16, 16⟩
def F.HL_TEMP_TJ : Fld := ⟨R.HL_TEMP, 0, 16⟩
/-- `HL_AGE_LO` (R385, 14_power_health_freeze.md). -/
def R.HL_AGE_LO : Nat := 0x07010
def F.HL_AGE_LO_AGE : Fld := ⟨R.HL_AGE_LO, 0, 32⟩
/-- `HL_AGE_HI` (R385, 14_power_health_freeze.md). -/
def R.HL_AGE_HI : Nat := 0x07014
def F.HL_AGE_HI_AGE : Fld := ⟨R.HL_AGE_HI, 0, 32⟩
/-- `HL_LIFE` (R385, 14_power_health_freeze.md). -/
def R.HL_LIFE : Nat := 0x07018
def F.HL_LIFE_PROJ : Fld := ⟨R.HL_LIFE, 16, 16⟩
def F.HL_LIFE_NOW : Fld := ⟨R.HL_LIFE, 0, 16⟩
/-- `HL_LIFE_CFG` (R385, 14_power_health_freeze.md). -/
def R.HL_LIFE_CFG : Nat := 0x0701C
def F.HL_LIFE_CFG_WARN : Fld := ⟨R.HL_LIFE_CFG, 0, 16⟩
/-- `HL_ECC` (R385, 14_power_health_freeze.md). -/
def R.HL_ECC : Nat := 0x07020
def F.HL_ECC_UNCORR : Fld := ⟨R.HL_ECC, 16, 16⟩
def F.HL_ECC_CORR : Fld := ⟨R.HL_ECC, 0, 16⟩
/-- `HL_ECCADDR` (R385, 14_power_health_freeze.md). -/
def R.HL_ECCADDR : Nat := 0x07024
def F.HL_ECCADDR_MRAM : Fld := ⟨R.HL_ECCADDR, 31, 1⟩
def F.HL_ECCADDR_OFS : Fld := ⟨R.HL_ECCADDR, 0, 31⟩
/-- `HL_RECAL` (R385, 14_power_health_freeze.md). -/
def R.HL_RECAL : Nat := 0x07028
def F.HL_RECAL_COUNT : Fld := ⟨R.HL_RECAL, 16, 16⟩
def F.HL_RECAL_LAST : Fld := ⟨R.HL_RECAL, 0, 2⟩
/-- `HL_MRAM` (R385, 14_power_health_freeze.md). -/
def R.HL_MRAM : Nat := 0x0702C
def F.HL_MRAM_HOURIDX : Fld := ⟨R.HL_MRAM, 16, 16⟩
def F.HL_MRAM_SAMPIDX : Fld := ⟨R.HL_MRAM, 0, 16⟩
/-- `HL_MONm` (R385, 14_power_health_freeze.md). -/
def R.HL_MONm (m : Nat) : Nat := 0x07100 + 0x4 * m
def F.HL_MONm_SLOW (m : Nat) : Fld := ⟨R.HL_MONm m, 16, 16⟩
def F.HL_MONm_RAW (m : Nat) : Fld := ⟨R.HL_MONm m, 0, 16⟩
/-- `FRZ_CTRL` (R386, 14_power_health_freeze.md). -/
def R.FRZ_CTRL : Nat := 0x08000
def F.FRZ_CTRL_ADDGAP : Fld := ⟨R.FRZ_CTRL, 4, 1⟩
def F.FRZ_CTRL_PINS : Fld := ⟨R.FRZ_CTRL, 3, 1⟩
def F.FRZ_CTRL_POL : Fld := ⟨R.FRZ_CTRL, 2, 1⟩
def F.FRZ_CTRL_BALL_EN : Fld := ⟨R.FRZ_CTRL, 1, 1⟩
/-- `FRZ_STAT` (R386, 14_power_health_freeze.md). -/
def R.FRZ_STAT : Nat := 0x08004
def F.FRZ_STAT_STOPPING : Fld := ⟨R.FRZ_STAT, 3, 1⟩
def F.FRZ_STAT_REQ_CMD : Fld := ⟨R.FRZ_STAT, 2, 1⟩
def F.FRZ_STAT_REQ_BALL : Fld := ⟨R.FRZ_STAT, 1, 1⟩
def F.FRZ_STAT_FROZEN : Fld := ⟨R.FRZ_STAT, 0, 1⟩
/-- `FRZ_EVT` (R386, 14_power_health_freeze.md). -/
def R.FRZ_EVT : Nat := 0x08008
def F.FRZ_EVT_REF_S : Fld := ⟨R.FRZ_EVT, 2, 1⟩
def F.FRZ_EVT_THAW_S : Fld := ⟨R.FRZ_EVT, 1, 1⟩
def F.FRZ_EVT_FREEZE_S : Fld := ⟨R.FRZ_EVT, 0, 1⟩
/-- `FRZ_CMD` (R386, 14_power_health_freeze.md). -/
def R.FRZ_CMD : Nat := 0x0800C
def F.FRZ_CMD_OP : Fld := ⟨R.FRZ_CMD, 0, 2⟩
/-- `FRZ_T_LO` (R386, 14_power_health_freeze.md). -/
def R.FRZ_T_LO : Nat := 0x08010
def F.FRZ_T_LO_NS_LO : Fld := ⟨R.FRZ_T_LO, 0, 32⟩
/-- `FRZ_T_HI` (R386, 14_power_health_freeze.md). -/
def R.FRZ_T_HI : Nat := 0x08014
def F.FRZ_T_HI_NS_HI : Fld := ⟨R.FRZ_T_HI, 0, 32⟩
/-- `FRZ_T_SUB` (R386, 14_power_health_freeze.md). -/
def R.FRZ_T_SUB : Nat := 0x08018
def F.FRZ_T_SUB_SUB : Fld := ⟨R.FRZ_T_SUB, 0, 6⟩
/-- `FRZ_GAP_LO` (R386, 14_power_health_freeze.md). -/
def R.FRZ_GAP_LO : Nat := 0x08020
def F.FRZ_GAP_LO_NS_LO : Fld := ⟨R.FRZ_GAP_LO, 0, 32⟩
/-- `FRZ_GAP_HI` (R386, 14_power_health_freeze.md). -/
def R.FRZ_GAP_HI : Nat := 0x08024
def F.FRZ_GAP_HI_NS_HI : Fld := ⟨R.FRZ_GAP_HI, 0, 32⟩
/-- `FRZ_GAP_SUB` (R386, 14_power_health_freeze.md). -/
def R.FRZ_GAP_SUB : Nat := 0x08028
def F.FRZ_GAP_SUB_ADDGAP : Fld := ⟨R.FRZ_GAP_SUB, 8, 1⟩
def F.FRZ_GAP_SUB_SUB : Fld := ⟨R.FRZ_GAP_SUB, 0, 6⟩
/-- `FRZ_CNT` (R386, 14_power_health_freeze.md). -/
def R.FRZ_CNT : Nat := 0x08030
def F.FRZ_CNT_IGN : Fld := ⟨R.FRZ_CNT, 16, 16⟩
def F.FRZ_CNT_FREEZES : Fld := ⟨R.FRZ_CNT, 0, 16⟩
/-- `FRZ_BUF` (R386, 14_power_health_freeze.md). -/
def R.FRZ_BUF : Nat := 0x08034
def F.FRZ_BUF_OFS : Fld := ⟨R.FRZ_BUF, 0, 32⟩

end Sys2Proof.Machine
end

