-- ==== Sys2Proof/Config.lean ====
section
/-!
DEFINITION. What an implementation fixes and what the spec leaves open. Every `opaque` constant here is a free value: it has no
body, so nothing can be proved that depends on which value it has. A free value is drawn at `State.free`, a plain counter that
the drawing step advances.
-/
namespace Sys2Proof.Config

/-- Whether a pulse whose width lies between the two limits of R57 (or that R58 leaves open) is accepted. Mark: DESIGN CHOICE, log entry 9. -/
opaque filterAccepts : Nat → Bool

/-- Whether a record writer with that many waiting records works at its ceiling (R25, R135): the spec gives the ceiling as a
rate and states no queue length. Mark: DESIGN CHOICE, log entry 17. -/
opaque atCeiling : Nat → Bool

/-- Which of two port results that name one register stands: the spec states no order between them (R124). Mark: DESIGN CHOICE, log entry 18. -/
opaque secondStands : Nat → Bool

/-- Which of several near entries with one deadline fires first (R221 defines no order). Mark: DESIGN CHOICE, log entry 19. -/
opaque fireFirst : Nat → Nat

/-- The near-cache index that an entry takes in host mode (R212 calls the layout internal). Mark: DESIGN CHOICE, log entry 20. -/
opaque nearIndex : Nat → BitVec 16

/-- The cause code of an EL_LINK record for a change of state that R289 names no cause for. Mark: DESIGN CHOICE, log entry 21. -/
opaque linkCause : Nat → BitVec 4

/-- `Ge_STAT.RUNTHR` while no thread runs: the map calls the field valid only with BUSY (R118). Mark: DESIGN CHOICE, log entry 22. -/
opaque idleThread : Nat → BitVec 4

/-- The HMAC key that the OTP holds and no host path reads (R334). Mark: DESIGN CHOICE, log entry 103. -/
opaque hmacKey : BitVec 256

/-- The signature of a computation during which the configuration changed (R325): the spec does not say which values entered it. Mark: DESIGN CHOICE, log entry 23. -/
opaque staleSignature : Nat → BitVec 32

/-- The RING_DONE result of a SUMMARY command whose SRAM destination leaves the SRAM window (R241 states none). Mark: DESIGN CHOICE, log entry 24. -/
opaque summaryResult : Nat → BitVec 4

/-- A word of an MRAM log entry (R374 gives the entries no layout). Mark: DESIGN CHOICE, log entry 25. -/
opaque logWord : Nat → BitVec 32

/-- A byte of the MRAM header area (R374), by the hour entries written so far and the offset: the spec gives the header no layout. Mark: DESIGN CHOICE, log entry 25. -/
opaque mramHeader : Nat → Nat → BitVec 8

/-- The duration in µs of a load that began before the spine counted (R345, R350). Mark: DESIGN CHOICE, log entry 26. -/
opaque loadTime : Nat → BitVec 32

/-- A byte of the freeze buffer whose place within its item R377's table does not give, by the free-value counter and the offset. Mark: DESIGN CHOICE, log entry 27. -/
opaque freezeByte : Nat → Nat → BitVec 8

/-- What a word of the SRAM window shows where it lies in a partition that a structure of the block occupies (R24, R212): the spec gives
these structures no layout. By the free-value counter and the offset. Mark: DESIGN CHOICE, log entry 28. -/
opaque internalWord : Nat → Nat → BitVec 32

/-- Contents of a structure of the block after a host write into its partition (R296): by the free-value counter and the entry. Mark: DESIGN CHOICE, log entry 28. -/
opaque spoiled : Nat → Nat → BitVec 64

/-- The slot loaded (bits 1 and 0) and GEN (the bits above) of a CFG_RELOAD record with result NOTHING, for which nothing was loaded (R345). Mark: DESIGN CHOICE, log entry 29. -/
opaque nothingLoaded : Nat → BitVec 34

/-- Which of the words that a reader takes together holds the ECC error (R371 records its offset; an entry has several words). Mark: DESIGN CHOICE, log entry 83. -/
opaque eccWord : Nat → Nat

/-- A delay monitor's reading normalised to 0.80 V and 25 °C, by the raw reading, VCORE and the junction temperature (R372 does not say how it is
normalised). Mark: DESIGN CHOICE, log entry 109. -/
opaque monitorNorm : BitVec 16 → BitVec 16 → BitVec 16 → Nat

/-- The slowdown shown for a monitor whose OTP reference is 0, by its raw reading (R372 compares with the reference). Mark: DESIGN CHOICE, log entry 109. -/
opaque slowNoRef : BitVec 16 → BitVec 16

end Sys2Proof.Config
end

