-- ==== Sys2Proof/Machine/Table.lean ====
section
/-!
DEFINITION. Sparse tables: lists of (key, value) pairs with strictly rising keys. Registers, memories and every
other collection that is mostly at its reset contents is held as one. A table that has a default (`get`, `set`) lists no
entry equal to the default, so that equal contents are equal data.
-/
namespace Sys2Proof.Machine

/-- A sparse table: (key, value) pairs in rising key order. -/
abbrev Tbl (α : Type) := List (Nat × α)

/-- The value listed at a key. -/
def tblFind {α : Type} : Tbl α → Nat → Option α
  | [], _ => none
  | (k, v) :: t, a => if k = a then some v else tblFind t a

/-- List a value at a key, in place of any value listed there. -/
def tblPut {α : Type} : Tbl α → Nat → α → Tbl α
  | [], a, x => [(a, x)]
  | (k, v) :: t, a, x =>
    if a < k then (a, x) :: (k, v) :: t
    else if a = k then (a, x) :: t
    else (k, v) :: tblPut t a x

/-- Unlist a key. -/
def tblDel {α : Type} : Tbl α → Nat → Tbl α
  | [], _ => []
  | (k, v) :: t, a => if k = a then tblDel t a else (k, v) :: tblDel t a

/-- The contents at a key, where `d` gives what an unlisted key reads as. -/
def tblGet {α : Type} (d : Nat → α) (t : Tbl α) (a : Nat) : α := (tblFind t a).getD (d a)

/-- Write the contents at a key; writing what an unlisted key reads as removes the entry. -/
def tblSet {α : Type} [DecidableEq α] (d : Nat → α) (t : Tbl α) (a : Nat) (x : α) : Tbl α :=
  if x = d a then tblDel t a else tblPut t a x

/-- Every key of the table lies above `b`, and the keys rise strictly. -/
def tblAbove {α : Type} : Nat → Tbl α → Bool
  | _, [] => true
  | b, (k, _) :: t => decide (b < k) && tblAbove k t

/-- The keys rise strictly. -/
def tblSorted {α : Type} : Tbl α → Bool
  | [] => true
  | (k, _) :: t => tblAbove k t

/-- The canonical form: strictly rising keys, and no entry equal to what an unlisted key reads as. -/
def tblWf {α : Type} [DecidableEq α] (d : Nat → α) (t : Tbl α) : Bool :=
  tblSorted t && t.all (fun e => decide (e.2 ≠ d e.1))

end Sys2Proof.Machine
end

