-- ==== Sys2Proof/Machine/State.lean ====
section
/-!
DEFINITION. The state of the block, as plain data: everything the spec gives the SX96, and the queue of commands that wait.
Registers of the maps live in the register file `regs` (what an unlisted register reads as is its reset value); the state that
the maps do not name, and the fields that engines change all the time, live in the structures below.
-/
namespace Sys2Proof.Machine


/-! ### The time spine (chapter 02) -/

/-- A running slew (R39): its rate word S, the shift still to come and the whole shift, both in units of 2^-40 ns, and,
once the whole shift has been applied, the spine time (in subs) at the start of the first tick that contributes none (R44). -/
structure Slew where
  rate : Int
  left : Int
  total : Int
  doneAt : Option Nat
  deriving DecidableEq, Repr

/-- A hold in progress (R37): whole ticks still to be held, and the fraction f in units of 2^-40 ns. -/
structure Hold where
  n : Nat
  f : Nat
  deriving DecidableEq, Repr

/-- The phase commands of `SPN_CMD` (R34). -/
inductive SpnOp where
  | nop | set | step | slew | slewAbort
  deriving DecidableEq, Repr

/-- A command latched by a `SPN_CMD` write that waits for its strobe (R34): operation, operand registers, group. -/
structure SpnCmd where
  op : SpnOp
  ns : Word × Word        -- SPN_OPD_LO, SPN_OPD_HI
  sub : Nat
  dur : Nat
  ag : Nat
  deriving DecidableEq, Repr

/-- The time spine (R28 to R43). -/
structure Spine where
  /-- The 104-bit count in units of 2^-40 ns: ns 64 bits, sub 6 bits, residue 34 bits (R30). -/
  acc : BitVec 104
  /-- The spine counts: the PLL has locked since the last power-on or pin reset (R28). -/
  counting : Bool
  /-- PLL ticks since reset, the identity of the present tick (R80 tells ticks apart even during a hold). -/
  tick : Nat
  /-- The tick in which a positive step executed last (R38). -/
  stepTick : Option Nat
  hold : Option Hold
  slew : Option Slew
  pend : Option SpnCmd
  /-- End time, in subs, of the PPS_OUT pulse in progress (R42). -/
  ppsOut : Option Nat
  /-- The last PPS_OUT boundary that pulsed, in subs. -/
  ppsLast : Option Nat
  /-- The last PPS_IN capture in subs, whether `SPN_PPSI_LO` has not been read since it arrived, and the last accepted edge (R43), in subs of
  PLL ticks. -/
  ppsIn : Nat
  ppsUnread : Bool
  ppsEdge : Option Nat
  /-- Vernier tap of the last PPS_OUT pulse (R42, R45). -/
  ppsTap : Nat
  /-- No reference edges arrive (R29). -/
  refGone : Bool
  deriving DecidableEq, Repr

/-- The tables of a bank in force (R47): the element delay in 1/16 ps, and the positions in subs of the raw capture codes. -/
structure BankTab where
  elem : Nat
  bins : List (BitVec 6)
  deriving DecidableEq, Repr

/-- The tables of one channel bank that recalibration measures (R47), and its supply (R54). -/
structure Bank where
  /-- Positions in subs of the raw capture codes: the TDC bin table last measured. -/
  bins : List (BitVec 6)
  /-- The tables in force; `none`: the seeds of OTP (R346). -/
  live : Option BankTab
  /-- A measured set waits in the shadow copy for the next tick boundary. -/
  swap : Bool
  /-- Supply: 0 absent, 1 1.8 V, 2 3.3 V; and the voltage last detected (R347). -/
  supply : Nat
  lastV : Nat
  deriving DecidableEq, Repr

/-! ### Channels (chapters 03 and 04) -/

/-- A compare unit (R61 to R66). -/
structure Cmp where
  armed : Bool
  /-- Target: ns[31:0] and sub as a count of subs, 38 bits (R63). -/
  target : Nat
  /-- Ball time of the target, in subs of the whole spine time (R63). -/
  tb : Int
  act : Nat
  recEn : Bool
  tag : Nat
  /-- The edge comes from the edge FIFO, and whether it wakes the bound thread (R67). -/
  fifo : Bool
  wake : Bool
  /-- Ball time at which CATCH has placed the pin change of an overdue FIFO edge: it carries LATE when it fires (R73). -/
  place : Option Int
  /-- Reached during a hold: fires at the release (R60). -/
  due : Bool
  /-- Key of the ephemeris entry committed to this compare (R110). -/
  eph : Option Nat
  deriving DecidableEq, Repr

/-- An edge FIFO entry (R67). -/
structure FifoEnt where
  delta : Nat
  act : Nat
  repeats : Nat
  loop : Bool
  mark : Bool
  recEn : Bool
  wake : Bool
  deriving DecidableEq, Repr

/-- A loop body: first and last entry index, and the passes still to run after the present one (R69). -/
structure FifoBody where
  first : Nat
  last : Nat
  passes : Nat
  deriving DecidableEq, Repr

/-- A position in a train: entry index, repetitions done, the body that runs, and the previous edge's target (38-bit subs). -/
structure FifoPos where
  idx : Nat
  reps : Nat
  body : Option FifoBody
  prev : Nat
  deriving DecidableEq, Repr

/-- One edge of a train: its target (38-bit subs), action, record and wake enables, and the remaining REPEAT (R83). -/
structure FifoEdge where
  target : Nat
  act : Nat
  recEn : Bool
  wake : Bool
  left : Nat
  deriving DecidableEq, Repr

/-- An edge that the sequencer has armed: unit, edge, and its position in the train. -/
structure FifoArmed where
  unit : Nat
  edge : FifoEdge
  before : FifoPos
  deriving DecidableEq, Repr

/-- States of the edge FIFO, in the encoding of `CHc_FIFO_STAT.STATE`. -/
inductive FifoState where
  | idle | run | drained | halted | waitStart
  deriving DecidableEq, Repr

/-- The edge FIFO and its sequencer (R67 to R73). -/
structure Fifo where
  ents : List FifoEnt
  state : FifoState
  /-- Position of the next edge to arm, and the armed edges, earliest first. -/
  next : FifoPos
  armed : List FifoArmed
  /-- The compare that takes the next edge (0 A, 1 B). -/
  unit : Nat
  /-- Targets of the last edges fired, for the spacing rules of R71: of the train, and per compare. -/
  lastEdge : Option Nat
  lastA : Option Nat
  lastB : Option Nat
  /-- Pin time at the ball of the last edge fired late under CATCH. -/
  catchPin : Option Int
  /-- No edge of the train that the last START began has been armed or consumed (R70). -/
  fromBase : Bool
  /-- The tick of the last STOP or FLUSH that a host wrote (R147). -/
  hostStop : Option Nat
  deriving DecidableEq, Repr

/-- One capture: time in subs at the reference plane, polarity, STEP flag, and which consumers have taken it (R75). -/
structure CapT where
  t : Nat
  rise : Bool
  step : Bool
  /-- COARSE as the spine stood at the capture (R233). -/
  coarse : Bool
  /-- The angle base at the capture's time, where the channel's timebase is an Orrery (R82). -/
  ang : Option Nat
  recDone : Bool
  rdDone : Bool
  /-- Every consumer enabled at some moment had taken it: it stays consumed (R75). -/
  used : Bool
  deriving DecidableEq, Repr

/-- A capture unit (R74 to R77): the two stages, the last accepted edge in subs of PLL ticks (R74), and the drops not yet reported. -/
structure Cap where
  s1 : Option CapT
  s2 : Option CapT
  lastEdge : Option Nat
  dropped : Nat
  /-- The tick in which stage 1 took its capture in place of a consumed one, and the capture it replaced (R76). -/
  entered : Option Nat
  older : Option CapT
  /-- The first stamp after a thaw carries STEP (R379). -/
  mark : Bool
  deriving DecidableEq, Repr

/-- A latched counter image (R80): 64-bit value, time in subs, causes (SNAP, CAP0, CAP1, STOP), the tick of the latch, and COARSE
as the spine then stood. -/
structure Image where
  val : Nat
  t : Nat
  cause : BitVec 4
  tick : Nat
  coarse : Bool
  deriving DecidableEq, Repr

/-- A record in a channel's record stage (R25): type, time in subs, flags, payload words 4 to 7. -/
structure ChRec where
  type : Nat
  t : Nat
  flags : Nat
  w4 : Word
  w5 : Word
  w6 : Word
  w7 : Word
  deriving DecidableEq, Repr

/-- One channel (R54 to R85). Its configuration and event registers are in the register file. -/
structure Channel where
  inLvl : Bool
  ol : Bool
  holdBoot : Bool
  holdFrz : Bool
  /-- The level driven at entry to the hold (SAFE = 0b11, R60); `none` is high impedance. -/
  heldLvl : Option Bool
  /-- Time at the ball of the last pin change, and the vernier tap of the last fire (R45, R65). -/
  lastPin : Option Int
  /-- Position of that change on the PLL's ticks, in units of 2^-34 sub: the time base of the 2.0 ns between pin changes, which a step or a
  hold of the spine does not bend (R65). -/
  lastAt : Int
  lastTap : Nat
  /-- The raw tap of that fire, from the element delay in force (R45). -/
  lastRaw : Nat
  cmpA : Cmp
  cmpB : Cmp
  lastA : Nat
  lastB : Nat
  fifo : Fifo
  cap0 : Cap
  cap1 : Cap
  /-- The 32-bit event counter and the tick of its last count (R78). -/
  cnt : Nat
  cntTick : Option Nat
  /-- The tick of the last event of a counter source, and the sources with an event in it, as bits (R78, R312). -/
  evTick : Nat
  evMask : Nat
  img : Option Image
  /-- The image before the last one, which a host read in the tick of a SNAP returns (R147). -/
  imgOld : Option Image
  /-- The image's COUNT record is still to be emitted, at the end of the tick (R80, R83). -/
  imgPend : Bool
  /-- Records that wait in the record stage, each type in time order (R16, R25). -/
  stage : List ChRec
  /-- Level changes on their way to the input path through the channel's own ball or `IN_INV` (R55): input level and ball time. -/
  own : List (Bool × Int)
  deriving DecidableEq, Repr

/-! ### Gaffers (chapters 05 and 06) -/

/-- Thread states (R101). -/
inductive ThState where
  | idle | ready | run | parked | halted | fault
  deriving DecidableEq, Repr

/-- A resource whose space a port operation waits for (R135): the ephemeris, the FIFO of a channel, the record writer. -/
inductive SpaceOf where
  | ephemeris
  | fifo (c : Nat)
  | writer
  deriving DecidableEq, Repr

/-- What a parked thread waits for: its WAIT mask (R103), or SPACE at a port operation (R135). -/
inductive Park where
  | none
  | wait
  | space (of : SpaceOf)
  deriving DecidableEq, Repr

/-- One hardware thread (R100 to R107, R122, R128 to R135). -/
structure Thread where
  state : ThState
  pc : BitVec 11
  atSafe : Bool
  p : Vector (BitVec 40) 8
  wres : BitVec 16
  flags : BitVec 5          -- Z, N, C, V, OV from bit 0 (R122)
  ephres : BitVec 4
  chres : BitVec 4
  recres : BitVec 4
  snapt : BitVec 40
  fresh : Bool
  more : Bool
  merr : Bool
  ret : List (BitVec 11)    -- newest first, at most four (R133)
  pend : BitVec 16
  mask : BitVec 16
  park : Park
  /-- Microwords since the last safe point or wait (R106), and since dispatch (R105). -/
  run : Nat
  quantum : Nat
  haltReq : Bool
  /-- First of its class at the next dispatch (R105). -/
  keep : Bool
  /-- The class in force (R106). -/
  cls : Nat
  readySince : Option Nat
  starved : Bool
  /-- Time at which a wake made this parked P0 thread READY (R113). -/
  wokenAt : Option Nat
  coal : Nat
  maxWait : Nat
  deriving DecidableEq, Repr

/-- An ephemeris entry (R108); `tFull` is the target in subs of the whole spine time, by which the entries are sorted. -/
structure EphEnt where
  slot : Nat
  tgt : Nat
  tFull : Int
  timer : Bool
  chan : Nat
  unit : Nat
  act : Nat
  recEn : Bool
  tag : Nat
  thr : Nat
  tight : Bool
  committed : Bool
  angle : Bool
  insNs : Nat
  /-- The tick of the insert (R147). -/
  tick : Nat
  /-- Time of the wake whose latency the arming of this entry measures (R113). -/
  woke : Option Nat
  deriving DecidableEq, Repr

/-- One Gaffer (R98 to R152). -/
structure Gaffer where
  thr : Vector Thread 16
  running : Option (Fin 16)
  /-- The thread last dispatched in each class (R104). -/
  last : Vector (Fin 16) 4
  sreg : Vector (BitVec 40) 64
  /-- Control store: 144 bits with the four parity bits above them (R149, R150). -/
  cs : Tbl (BitVec 148)
  /-- Ephemeris entries in target order (R108). -/
  eph : List EphEnt
  /-- Budgets that the last samples called for, newest first, while a decrease waits (R114). -/
  lower : List Nat
  /-- Latencies observed that are the largest since, newest first: the tick of each and its ns (R113). -/
  obs : List (Nat × Nat)
  /-- The Gaffer has been set running since boot release (R101), and a thread has run since reset (R8). -/
  started : Bool
  ran : Bool
  deriving DecidableEq, Repr

/-! ### Orreries (chapter 07) -/

/-- Synchronisation states (R161). -/
inductive Sync where
  | off | acq | turn | rel | full
  deriving DecidableEq, Repr

/-- A validated edge of the history (R160): angle base before `ORY_ZERO` is added, time in subs, speed word, direction, and
the angle in au to the next expected edge. -/
structure OryEdge where
  base : Nat
  t : Nat
  speed : Int
  back : Bool
  dnext : Nat
  deriving DecidableEq, Repr

/-- A stamped edge at an input of an Orrery (R154): time at the channel's reference plane, STEP, COARSE as the spine stood (R233), position in
subs of PLL ticks, and the tick in which the broadcast of what it brings completes (R156). -/
structure OryStamp where
  t : Nat
  step : Bool
  coarse : Bool
  at' : Nat
  due : Nat
  deriving DecidableEq, Repr

/-- A quadrature transition that waits for one on the other line (R170): the levels now, Z at the transition, its stamp, and whether it
came less than 40 ns after the previous edge (R155). -/
structure QuadEdge where
  lvl : BitVec 3
  z : Bool
  x : OryStamp
  early : Bool
  deriving DecidableEq, Repr

/-- What an Orrery shows outside itself (R156, R160, R188): registers, history and broadcast as the last completed broadcast left them. -/
structure OryView where
  sync : Sync
  back : Bool
  still : Bool
  suspect : Bool
  camok : Bool
  /-- The broadcast is marked RESYNC (R166). -/
  resync : Bool
  pos : Nat
  hist : List OryEdge
  deriving DecidableEq, Repr

/-- A broadcast in progress (R188): the tick in which it completes, whether it wakes, and what it brings. -/
structure OryBcast where
  due : Nat
  wake : Bool
  view : OryView
  deriving DecidableEq, Repr

/-- One Orrery (R153 to R185). Configuration, events and error counters are in the register file. -/
structure Orrery where
  sync : Sync
  back : Bool
  still : Bool
  suspect : Bool
  camok : Bool
  /-- Cycle count modulo 256 (R157). -/
  cyc : Nat
  /-- Position in steps within the cycle: tooth position h·NPOS + j, Hall sector, count q, or line l (R159). -/
  pos : Nat
  /-- Interpolated phase of the last SINCOS sample (R173). -/
  phi : Nat
  /-- The last eight validated edges, newest first (R160). -/
  hist : List OryEdge
  /-- Edge times and steps of the intervals since the last standstill or reversal, newest first (R176). -/
  ivals : List (Nat × Int)
  /-- Levels of IN0 to IN2 as last decoded, the last accepted edge of the Orrery (a stamp), and of each stamper (in subs of PLL ticks)
  (R154, R155). -/
  lvl : BitVec 3
  lastAcc : Option Nat
  stamp : Vector (Option Nat) 3
  /-- Stampers whose next stamp is the first after a thaw (R379). -/
  marks : BitVec 3
  /-- Wheel: time of the last accepted tooth, the last two accepted periods with their spans, and a gap awaiting CONF (R163, R164). -/
  tooth : Option Nat
  pLast : Nat
  kLast : Nat
  pPrev : Nat
  kPrev : Nat
  confGap : Bool
  /-- The tick of the last accepted tooth (R182). -/
  toothTick : Option Nat
  /-- A tooth whose pulse-width direction is not yet decided (R168). -/
  pw : Option OryStamp
  /-- Registers and user words that a strobe has changed since that tooth, with the values under which it is handled (R180). -/
  pwRegs : List (Nat × Word)
  pwWords : List (Nat × Word)
  /-- A cam edge that waits for the end of its tick, and whether it came less than 40 ns after the previous edge (R182). -/
  camWait : Option (OryStamp × Bool)
  /-- Steps run since the last accepted cam edge, less the angle in au from the step before that edge to it; and CAM_LOST has been
  reported since (R167). -/
  camSteps : Nat
  camOff : Nat
  camTold : Bool
  /-- Net steps since the last index crossing and whether that crossing was backward (R171, R174). -/
  idxNet : Option (Int × Bool)
  /-- SINCOS: consecutive bad pairs, unwrapped angle in steps, anchor and its time, furthest angle, last raw pair and its amplitude (R172 to R175). -/
  bad : Nat
  unwrapped : Int
  anchor : Int
  anchorT : Nat
  furthest : Int
  rawS : BitVec 14
  rawC : BitVec 14
  ampl : Nat
  /-- Per fault kind: time of its last record, and faults since (R183). -/
  faults : Tbl (Nat × Nat)
  /-- A quadrature transition that is not yet decided (R170). -/
  qwait : Option QuadEdge
  /-- Commands of `ORYn_CMD` that have not yet executed: the tick of the write, and OP (R181). -/
  cmds : List (Nat × Nat)
  /-- Broadcasts in progress, oldest first, and what the last completed one shows (R156, R188). -/
  bcs : List OryBcast
  seen : OryView
  deriving DecidableEq, Repr

/-! ### Converters (chapter 08) -/

/-- A queued conversion (R195, R196): input, request code (0 to 3 slot, 4 TRIG, 5 host), earliest hold time in subs, whether
its slot records it, the slot's channel, the tick of the request, the thread of a TRIG, and whether the 200 ns after the previous hold have
moved its own (R196). -/
structure Conv where
  ain : Nat
  req : Nat
  due : Nat
  recEn : Bool
  chan : Option Nat
  tick : Nat
  thread : Option (Fin 8 × Fin 16)
  moved : Bool
  deriving DecidableEq, Repr

/-- A conversion that has held: the request, its hold tick in subs, whether the hold was moved (R196), and COARSE as the spine stood (R233). -/
structure ConvHeld where
  conv : Conv
  hold : Nat
  dly : Bool
  coarse : Bool
  deriving DecidableEq, Repr

/-- Converter k. `CVk_CNT` and `CVk_LAST` are in the register file. -/
structure Converter where
  queue : List Conv
  held : List ConvHeld
  lastHold : Option Nat
  deriving DecidableEq, Repr

/-- A sample buffer's hidden state: samples discarded since it last had space, and for each BLK from 0 to 16 the full stamp (in subs)
of the last entry that began a block of 2^BLK entries, with COARSE as the spine then stood (R200, R233). -/
structure SampBuf where
  lost : Nat
  blockT : Vector (Nat × Bool) 17
  deriving DecidableEq, Repr

/-! ### The Lehr (chapter 09) -/

/-- An armed deadline: handle, full deadline in µs (the stored DL is its residue modulo 2^40), tag, descriptor, its near-cache
index, and whether a positive step has made it due (R205, R210). -/
structure LhEnt where
  h : Nat
  dl : Int
  tag : Word
  dest : Nat
  idx : Nat
  step : Bool
  deriving DecidableEq, Repr

/-- The Lehr (R206 to R228). Level-1 and level-2 entries carry their level and stand newest first, as their slot lists do; the far
list is in deadline order. PB and L1B are in µs. -/
structure Lehr where
  near : List LhEnt
  slots : List (Bool × LhEnt)      -- true: level 2
  far : List LhEnt
  pb : Nat
  l1b : Nat
  /-- The command ring whose ARM or MOVE waits for near space (R218). -/
  stall : Option Nat
  /-- NEAR_FULL stands reported (R220), and the first level-1 window not yet reported late (R219). -/
  nearFull : Bool
  lateFrom : Nat
  /-- The prefetch lead in force until N reaches a window boundary, in µs, after a write of PF_LEAD (R226). -/
  pfOld : Nat
  pfAt : Nat
  /-- The command ring that executed last (R216). -/
  turn : Nat
  /-- Entries that an ECC error has discarded from the near cache, whose pool entries still stand marked NEAR (R228). -/
  lost : List LhEnt
  deriving DecidableEq, Repr


/-! ### Rings and the event controller (chapter 10) -/

/-- What a refused record leaves in the notes of its ring: source, type, sequence number (R244). -/
structure RecNote where
  src : Nat
  type : Nat
  seq : Nat
  deriving DecidableEq, Repr

/-- A command entry that the fetcher has read: its eight words, or `none` where the fetch met an uncorrectable ECC error (R240, R243). -/
abbrev CmdWords := Option (Vector Word 8)

/-- The hidden state of a ring: the notes of R244, the time of the first refusal, fetched commands not yet executed (R240),
and the summaries written by its commands (R327). -/
structure Ring where
  first : Option RecNote
  last : Option RecNote
  firstNs : Nat
  fetched : List CmdWords
  sums : Nat
  deriving DecidableEq, Repr

/-- One source of the event controller (R247, R248): `EC_TGT` and `EC_ROUTE` of the source, its assigned target and the target
it was claimed through. Its EN bit is in `EC_ENw`. -/
structure EcSrc where
  pend : Bool
  act : Bool
  ptr : Nat
  asg : Option Nat
  claimed : Nat
  tgt : Word
  route : Word
  deriving DecidableEq, Repr

/-- A source after reset: nothing pending, pointer 7 (R248). -/
def EcSrc.reset : EcSrc := ⟨false, false, 7, none, 0, 0, 0⟩

/-- The event controller. -/
structure Ec where
  srcs : Tbl EcSrc
  /-- Edge requests deferred under LATCH (R256). -/
  deferred : List Nat
  /-- Spine times at which LATCH_P and LATCH_S were set. -/
  latchP : Nat
  latchS : Nat
  /-- MSI-X messages issued, newest first (an output), and the pending bit of each masked vector (R249). -/
  msix : List Nat
  msixPend : BitVec 8
  /-- A return to D0, or of the link, while the device is frozen owes one message to each assigned MSI-X target (R254, R378). -/
  owed : Bool
  deriving DecidableEq, Repr

/-- The live state of the PCIe function (`GL_PCIE`, R297, R299), its MSI-X table by byte offset within the MSI-X range, and what the host has
set of BAR0, payload and read request sizes (as powers of two times 128 bytes), extended tags, ASPM L1, the completion timeout and Advanced
Error Reporting: masks, severities and the errors found (R297). -/
structure PcieFn where
  linkUp : Bool
  width : Nat
  speed : Nat
  bme : Bool
  msixEn : Bool
  fmask : Bool
  d3 : Bool
  table : Tbl Word
  bar0 : BitVec 64
  payload : Nat
  readReq : Nat
  extTag : Bool
  aspmL1 : Bool
  cplTo : Nat
  aerMask : Word
  aerSev : Word
  aerCor : Word
  aerSts : Word
  deriving DecidableEq, Repr

/-! ### Ewerlink (chapter 11) -/

/-- The latest valid BEACON of a port (R265), without its timing: T1 in subs. -/
structure ElBcn where
  t1 : Nat
  prio : Nat
  rootId : Nat
  rootUid : Nat
  depth : Nat
  rseq : Nat
  uid : Nat
  src : Nat
  qual : Bool
  up : Bool
  deriving DecidableEq, Repr

/-- What an untimed frame carries (R265). -/
inductive ElBody where
  | join (id uid : Nat)
  | joinAck (id : Nat) (conflict : Bool) (uid : Nat)
  | leave (ids : List Nat)
  | applyAt (t : Nat) (mask : BitVec 8) (bseq : Nat)
  | doorbell (n mid : Nat)
  | mailbox (mid : Nat) (data : List Byte)
  | delivery (mid type : Nat) (refused : Bool)
  deriving DecidableEq, Repr

/-- An untimed frame: source, hops, destination, CONF, and what it carries. -/
structure ElMsg where
  src : Nat
  hops : Nat
  dst : Nat
  conf : Bool
  body : ElBody
  deriving DecidableEq, Repr

/-- What a port last sent: a BEACON, a DELAY_REQ with T3 and its number, a DELAY_RESP with T4 and the number, or an untimed frame. -/
inductive ElOut where
  | nothing
  | beacon (b : ElBcn)
  | delayReq (t3 num : Nat)
  | delayResp (t4 num : Nat)
  | untimed (m : ElMsg)
  deriving DecidableEq, Repr

/-- A delay request under way (R277): number, T3, T2 − T1 of the beacon it follows, where that is usable, the tick in which T3 was chosen,
and the tick of T3. -/
structure ElReq where
  num : Nat
  t3 : Nat
  t21 : Option Int
  made : Nat
  tick : Nat
  deriving DecidableEq, Repr

/-- A port. Its state, role, neighbour and counters are in `ELp_STAT` and the registers beside it. Its timers count spine ticks: the last
valid BEACON, the last change of RSEQ, and the entry to DOWN are ticks. -/
structure ElPort where
  bcn : Option ElBcn
  bcnAt : Nat
  rseqAt : Nat
  downAt : Nat
  /-- T2 − T1 of the latest beacon, unless T2 carries STEP. -/
  t21 : Option Int
  /-- Delay samples, newest first (R277); beacons since the last request; the request due; its number; the one under way. -/
  samples : List Int
  bcns : Nat
  reqDue : Bool
  reqNum : Nat
  req : Option ElReq
  queue : List ElMsg
  /-- The beacon time last used, and what the port sent last (an output). -/
  lastBcn : Option Nat
  sent : ElOut
  /-- The tick from which the line is free, and a DELAY_RESP that waits for it: T4 and the request number (R266, R277). -/
  busy : Nat
  resp : Option (Nat × Nat)
  /-- The next beacon's first stamp after a thaw carries STEP (R379). -/
  mark : Bool
  deriving DecidableEq, Repr

/-- A CONF frame whose outcome is awaited (R286): MID, destination, frame type, and the tick in which it was sent. -/
structure ElConf where
  mid : Nat
  dst : Nat
  type : Nat
  t : Nat
  deriving DecidableEq, Repr

/-- A forwarding-table entry (R271). -/
structure ElEnt where
  port : Nat
  uid : Nat
  deriving DecidableEq, Repr

/-- Ewerlink. `EL_STAT`, `EL_ID` and the servo's registers hold the rest. -/
structure Ewer where
  ports : Vector ElPort 4
  table : Tbl ElEnt
  /-- Broadcasts seen: source, BSEQ, tick (R276). -/
  seen : List (Nat × Nat × Nat)
  bseq : Nat
  mid : Nat
  confs : List ElConf
  rootUid : Nat
  rootPrio : Nat
  rseq : Nat
  /-- The spine time, in subs, below which this node, as root, has counted its beacon times in RSEQ (R267). -/
  counted : Nat
  /-- The node ID of the JOIN under way, and the tick of the last JOINs (R272). -/
  joinId : Nat
  joinAt : Nat
  /-- Servo (R278, R279): the first beacon of ACQ (T1, T2), the beacon after a step is unused, consecutive beacons within LOCK, and
  RANGE reported for this root. -/
  acq : Option (Nat × Nat)
  skip : Bool
  run : Nat
  ranged : Bool
  /-- The last θ, in subs, as `EL_SRV_OFS` shows it without saturation (R289). -/
  theta : Int
  /-- The command ring that executed last (R287). -/
  turn : Nat
  deriving DecidableEq, Repr



/-! ### Apply block (chapter 12) -/

/-- A write that waits at the apply block for the start of the next tick: an APPLY of a mask, its path (R313), or an ABORT written
behind one (R315). -/
inductive ApReq where
  | apply (mask path : Nat)
  | abort (mask : Nat)
  deriving DecidableEq, Repr

/-- What the registers of the apply block do not hold (R314): the tick of the last strobe, which pending entries were late when
they were placed, or have been passed by a positive step, the writes that wait for the next tick, and the Orrery and converter values
of a strobe, which the edges, samples and triggers of the strobe tick do not yet see (R180, R202): registers and user words. -/
structure ApState where
  lastTick : Option Nat
  late : BitVec 8
  passed : BitVec 8
  reqs : List ApReq
  regs : List (Nat × Word)
  words : List (Nat × Word)
  deriving DecidableEq, Repr

/-- A signature computation that runs (R325): requester, `GL_CFGGEN` at its start, and the time of its start in subs. -/
structure SigRun where
  req : Nat
  gen : Nat
  start : Nat
  deriving DecidableEq, Repr

/-- An on-chip summary that is being written (R326): requester, start time in subs, COARSE at the start. -/
structure SumRun where
  req : Nat
  start : Nat
  coarse : Bool
  deriving DecidableEq, Repr

/-- A write accepted for the slow domain (R310): path, bus offset, the bits it writes and their values; once it is applied, the word that
the copy still shows. -/
structure SlowWr where
  path : Path
  ofs : Nat
  bits : Word
  w : Word
  deriving DecidableEq, Repr

/-- The host interface's own state: the SPI status bits (R304), the signature and the summary under way, and the time of the last
periodic summary. -/
structure HostIf where
  under : Bool
  frame : Bool
  rstd : Bool
  sig : Option SigRun
  sum : Option SumRun
  periodAt : Nat
  /-- Event bits that hardware has set in the present tick, by bus offset (R307). -/
  evSet : Tbl Word
  /-- Writes to SC registers that the slow domain has not yet applied, oldest first (R310), and those applied at the last slow
  edge, which the copies do not yet show. -/
  slow : List SlowWr
  slowOld : List SlowWr
  deriving DecidableEq, Repr

/-! ### Boot and calibration (chapter 13) -/

/-- One factory word: its three copies (R346). -/
structure OtpWord where
  a : Word
  b : Word
  c : Word
  deriving DecidableEq, Repr

/-- The division of the general pool that LAYOUT of the loaded image sets (R332, R333): KB for each Gaffer, for rings, and
whether the Lehr standalone heads are reserved. -/
structure Layout where
  gaf : Vector Nat 8
  ring : Nat
  heads : Bool
  deriving DecidableEq, Repr

/-- A RELOAD that verifies while the device works on (R343): the slot it names, 3 for selection. -/
structure Reload where
  slot : Nat
  start : Nat
  deriving DecidableEq, Repr

/-- What the end of a load needs of its image (R339): slot, LOCK, RELHOLD, GEN, DIGEST bytes 0 to 3, subsystem IDs. -/
structure LoadEnd where
  slot : Option Nat
  lock : Option (BitVec 12)
  relhold : Bool
  gen : Word
  dig : Word
  subsys : Word
  deriving DecidableEq, Repr

/-- What the recalibration of a load has measured so far (R364, R370): banks, Gaffers, junction temperature. -/
structure LoadMeas where
  banks : List BankMeas
  gafs : List GafMeas
  tj : BitVec 16
  deriving DecidableEq, Repr

/-- The loader (R335 to R345): a RELOAD that verifies, whether the load is a RELOAD's, the slot selected, the slots excluded, divergent
slots and the word of a digest that CFG_DIVERGE names (R345), its start in subs, whether it follows RETAIN; the sequence's reset cause is in `PW_RSTCAUSE`. -/
structure Load where
  reload : Option Reload
  isReload : Bool
  sel : Option Nat
  only : Nat
  excl : BitVec 3
  divs : BitVec 3
  dig2 : Word
  start : Nat
  retx : Bool
  /-- PCIe subsystem IDs (R340). -/
  subsys : Word
  /-- The digest that selection has verified (R338). -/
  digest : BitVec 256
  /-- The load pass is over, but not the load's recalibration (R364); and its measurements so far. -/
  ended : Option LoadEnd
  meas : Option LoadMeas
  /-- The crystal load trim in force (R335). -/
  trim : Nat
  deriving DecidableEq, Repr


/-! ### Power, health and freeze (chapter 14) -/

/-- The freeze block's own state (R377 to R380): PLL ticks since the freeze began, and the source of the request that began it
(0 ball, 1 PCIe, 2 SPI), and the level of the FREEZE ball (R376). Tf and the gap are in `FRZ_T_*` and `FRZ_GAP_*`. -/
structure Frz where
  ticks : Nat
  cause : Nat
  ball : Bool
  deriving DecidableEq, Repr

/-- A rail sequence (R365): whether it is an UP sequence, its start time in subs, and the rails it has still to switch. -/
structure RailSeq where
  up : Bool
  start : Nat
  todo : BitVec 8
  deriving DecidableEq, Repr

/-- What `PSQ_STAT` does not hold: the sequence, the rails that have been good since their assertion,
those whose PGTO has expired since then, and the time of each assertion. -/
structure Psq where
  seq : Option RailSeq
  wasGood : BitVec 8
  timedOut : BitVec 8
  onAt : Vector Nat 8
  deriving DecidableEq, Repr

/-- What the retention registers hold (R255): the sources, and the event-controller registers by bus offset. Mark: DEDUCED, log entry 64. -/
structure RetEc where
  srcs : Tbl EcSrc
  regs : Tbl Word
  deriving DecidableEq, Repr

/-- Power state that the registers do not hold: the watchdog's PLL ticks since its last kick and whether it has warned (R362), whether
`PW_WDG` is fixed, a LINK reset that a doorbell has asked for (its sender, and its time in subs, R361), and what RETAIN keeps (R52, R255). -/
structure Power where
  wdgTicks : Nat
  wdgWarned : Bool
  wdgFixed : Bool
  linkRst : Option (Nat × Nat)
  saved : Nat
  retEc : Option RetEc
  /-- RETAIN is being left: the cause of the coming change of state (2 WKUP_IN, 3 timer). -/
  leave : Option Nat
  deriving DecidableEq, Repr

/-- The health block's counts: corrected ECC errors at the last sample (R369), records copied to the fault ring (R374), the time of the
last recalibration in subs (R370), and the PLL ticks of the last sample and of the last checkpoint (R369, R373). -/
structure Health where
  corrAt : Nat
  faults : Nat
  recalAt : Nat
  /-- The fraction of the age accumulator below one second, in units of 2^-32 s (R373). -/
  ageFrac : Nat
  sampleAt : Option Nat
  lifeAt : Option Nat
  deriving DecidableEq, Repr

/-! ### Host paths, records and the whole machine -/

/-- What one host path holds for itself (R32, R68, R119, R149, R309, R317): written words held until their partner arrives
(by bus offset), the shadows that RL reads filled (by bus offset), the words the last read returned, and its FENCE count. -/
structure PathState where
  held : Tbl Word
  shadow : Tbl Word
  rdata : List Word
  fences : Word
  deriving DecidableEq, Repr

/-- A record handed to the record writer (R232): type, source, sequence number, time in subs, flags, payload words 4 to 7, and
the ring it is routed to. -/
structure Rec where
  type : Nat
  src : Nat
  seq : Nat
  t : Nat
  flags : Nat
  w4 : Word
  w5 : Word
  w6 : Word
  w7 : Word
  ring : Nat
  deriving DecidableEq, Repr

/-- The machine. -/
structure State where
  /-- The register file: active values of the registers of every map, by bus offset. -/
  regs : Tbl Word
  /-- Staged values not yet active (R311), by bus offset. -/
  staged : Tbl Word
  pcie : PathState
  spi : PathState
  spine : Spine
  banks : Vector Bank 12
  ch : Vector Channel 96
  gaf : Vector Gaffer 8
  ory : Vector Orrery 4
  conv : Vector Converter 2
  sbuf : Vector SampBuf 6
  /-- Records handed over and not yet written, oldest first, and the next sequence number of each source (R13). -/
  recq : List Rec
  seqs : Tbl Nat
  /-- OTP factory words and active user words (R346 to R348), and user words staged and not yet active. -/
  otp : Tbl OtpWord
  calU : Tbl Word
  calS : Tbl Word
  /-- The general pool as the image divides it (R24, R332). -/
  layout : Layout
  ap : ApState
  rings : Vector Ring 64
  lehr : Lehr
  el : Ewer
  ec : Ec
  fn : PcieFn
  hif : HostIf
  load : Load
  frz : Frz
  psq : Psq
  pw : Power
  hl : Health
  /-- The SRAM behind the SRAM window (R24), as bytes. -/
  sram : Tbl Byte
  /-- The MRAM behind the MRAM window (R374), as bytes. -/
  mram : Tbl Byte
  /-- Host memory as the device reads and writes it (R17, R240), as bytes. -/
  host : Tbl Byte
  /-- Counter that picks the free values (the model's own). -/
  free : Nat
  /-- Commands that wait, first in, first out. -/
  pending : List Instr
  deriving DecidableEq, Repr

/-- Why a step stops with a fault. -/
inductive Fault where
  /-- Nobody raises it: the spec gives every command an effect, and no step stops with a fault. Safe. -/
  | never
  deriving DecidableEq, Repr

/-- Why a step is refused. -/
inductive Refusal where
  /-- Raised by `exec` for a command that has no meaning yet. Safe: nothing can be proved about what follows. -/
  | notModelled (mnemonic : String)
  deriving DecidableEq, Repr

/-! ### Reset -/

def Spine.reset : Spine := ⟨0, false, 0, none, none, none, none, none, none, 0, false, none, 0, false⟩
/-- Mark: DESIGN CHOICE, log entry 33. -/
def Bank.reset : Bank := ⟨[], none, false, 2, 2⟩
def Cmp.reset : Cmp := ⟨false, 0, 0, 0, false, 0, false, false, none, false, none⟩
def FifoPos.reset : FifoPos := ⟨0, 0, none, 0⟩
def Fifo.reset : Fifo := ⟨[], .idle, FifoPos.reset, [], 0, none, none, none, none, false, none⟩
def Cap.reset : Cap := ⟨none, none, none, 0, none, none, false⟩
/-- Mark: DESIGN CHOICE, log entry 35. -/
def Channel.reset : Channel :=
  ⟨false, false, true, false, none, none, 0, 0, 0, Cmp.reset, Cmp.reset, 0, 0, Fifo.reset, Cap.reset, Cap.reset, 0, none, 0, 0, none, none, false, [], []⟩
/-- Mark: DESIGN CHOICE, log entry 35. -/
def Thread.reset : Thread :=
  ⟨.idle, 0, false, Vector.replicate 8 0, 0, 0, 0, 0, 0, 0, false, false, false, [], 0, 0, .none, 0, 0, false, false, 3, none,
   false, none, 0, 0⟩
/-- Mark: DESIGN CHOICE, log entry 35. -/
def Gaffer.reset : Gaffer :=
  ⟨Vector.replicate 16 Thread.reset, none, Vector.replicate 4 15, Vector.replicate 64 0, [], [], [], [], false, false⟩
/-- Mark: DESIGN CHOICE, log entry 35. -/
def Orrery.reset : Orrery :=
  ⟨.off, false, true, false, false, 0, 0, 0, [], [], 0, none, Vector.replicate 3 none, 0, none, 0, 1, 0, 1, false, none, none, [], [],
   none, 0, 0, false, none, 0, 0, 0, 0, 0, 0, 0, 0, [], none, [], [], ⟨.off, false, true, false, false, false, 0, []⟩⟩
/-- Mark: DESIGN CHOICE, log entry 35. -/
def Converter.reset : Converter := ⟨[], [], none⟩
def PathState.reset : PathState := ⟨[], [], [], 0⟩

/-- Mark: DESIGN CHOICE, log entry 35. -/
def Lehr.reset : Lehr := ⟨[], [], [], 0, 0, none, false, 0, 1, 0, 63, []⟩
def ElPort.reset : ElPort := ⟨none, 0, 0, 0, none, [], 0, false, 0, none, [], none, .nothing, 0, none, false⟩
/-- Mark: DESIGN CHOICE, log entry 35. -/
def Ewer.reset : Ewer := ⟨Vector.replicate 4 ElPort.reset, [], [], 0, 0, [], 0, 0, 0, 0, 0, 0, none, false, 0, false, 0, 63⟩

/-- The machine right after power-on reset. -/
def State.reset : State where
  regs := []
  staged := []
  pcie := PathState.reset
  spi := PathState.reset
  spine := Spine.reset
  banks := Vector.replicate 12 Bank.reset
  ch := Vector.replicate 96 Channel.reset
  gaf := Vector.replicate 8 Gaffer.reset
  ory := Vector.replicate 4 Orrery.reset
  conv := Vector.replicate 2 Converter.reset
  sbuf := Vector.replicate 6 ⟨0, Vector.replicate 17 (0, false)⟩
  recq := []
  seqs := []
  otp := []
  calU := []
  calS := []
  layout := ⟨Vector.replicate 8 0, 0, false⟩
  ap := ⟨none, 0, 0, [], [], []⟩
  rings := Vector.replicate 64 ⟨none, none, 0, [], 0⟩
  lehr := Lehr.reset
  el := Ewer.reset
  ec := ⟨[], [], 0, 0, [], 0, false⟩
  fn := ⟨false, 0, 0, false, false, false, false, [], 0, 0, 2, false, false, 0, 0, 0x00462030, 0x2000, 0⟩
  hif := ⟨false, false, true, none, none, 0, [], [], []⟩
  load := ⟨none, false, none, 3, 0, 0, 0, 0, false, 0x1F3A, 0, none, none, 0⟩
  frz := ⟨0, 0, false⟩
  psq := ⟨none, 0, 0, Vector.replicate 8 0⟩
  pw := ⟨0, false, false, none, 0, none, none⟩
  hl := ⟨0, 0, 0, 0, none, none⟩
  sram := []
  mram := []
  host := []
  free := 0
  pending := []

end Sys2Proof.Machine
end

