-- ==== Sys2Proof/Machine/Ops.lean ====
section
/-!
DEFINITION. The operations that every family shares: bit fields, the register file, spine time, records, the event controller's
requests, thread wakes, and the memories.
-/
namespace Sys2Proof.Machine
open Sys2Proof

/-! ### Bit fields -/

/-- Bits [lo + n − 1 : lo] of a word. -/
def wfld (w : Word) (lo n : Nat) : Nat := (w.toNat >>> lo) % 2 ^ n

/-- A word with bits [lo + n − 1 : lo] replaced by the low n bits of a value. -/
def wset (w : Word) (lo n v : Nat) : Word :=
  BitVec.ofNat 32 (w.toNat - wfld w lo n * 2 ^ lo + (v % 2 ^ n) * 2 ^ lo)

/-- Bit i of a natural number. -/
def nbit (v i : Nat) : Bool := (v >>> i) % 2 = 1

def b2n (b : Bool) : Nat := if b then 1 else 0

/-- A word from a natural number, modulo 2^32. -/
def word (v : Nat) : Word := BitVec.ofNat 32 v

/-- The low word of an integer in two's complement. -/
def iword (v : Int) : Word := BitVec.ofInt 32 v

/-- An integer saturated to signed 32 bits, in two's complement (R158). -/
def satWord (v : Int) : Word :=
  iword (if v > 2147483647 then 2147483647 else if v < -2147483648 then -2147483648 else v)

/-- Round a ratio of a natural number by a positive one to the nearest integer, halves up (away from zero). -/
def roundDiv (a b : Nat) : Nat := (2 * a + b) / (2 * b)

/-- Round a ratio to the nearest integer, halves away from zero. -/
def roundDivI (a : Int) (b : Nat) : Int :=
  if a < 0 then -(roundDiv a.natAbs b : Int) else (roundDiv a.natAbs b : Int)

/-- The residue of an integer modulo m, read in the range −m/2 to m/2 − 1 (R63). -/
def halfRange (d : Int) (m : Nat) : Int :=
  let r := d % (m : Int)
  if 2 * r < (m : Int) then r else r - m

/-- The integer that a two's complement value of n bits stands for. -/
def signed (v n : Nat) : Int := if v % 2 ^ n < 2 ^ (n - 1) then (v % 2 ^ n : Nat) else (v % 2 ^ n : Nat) - (2 ^ n : Nat)

/-! ### The register maps -/

/-- The block map that a bus offset falls in (R292). -/
def mapAt (o : Nat) : List RegDesc :=
  if o < 0x1000 then mapGlobal else if o < 0x2000 then mapSpine else if o < 0x3000 then mapEc
  else if o < 0x4000 then mapApply else if o < 0x5000 then mapEwerlink else if o < 0x6000 then mapPower
  else if o < 0x7000 then mapCfg ++ mapCal else if o < 0x8000 then mapHealth else if o < 0x9000 then mapFreeze
  else if o < 0xA000 then mapPsq else if o < 0x14000 then mapOrrery else if o < 0x19000 then mapConverter
  else if o < 0x30000 then mapLehr else if o < 0x40000 then mapRing else if o < 0x48000 then mapGaffer
  else if o < 0x120000 then mapChannel else mapCstore

/-- Whether an offset within a register's instances is that of an instance, given (count, stride) of each index. -/
def dimsMatch : List (Nat × Nat) → Nat → Bool
  | [], d => d = 0
  | (cnt, st) :: ds, d => decide (d / st < cnt) && dimsMatch ds (d % st)

/-- The map row of the register at a bus offset. -/
def descAt (o : Nat) : Option RegDesc :=
  (mapAt o).find? (fun r => decide (r.base ≤ o) && dimsMatch r.dims (o - r.base))

/-- The word that a row's reset values make (R8). -/
def descReset (r : RegDesc) : Nat := r.fields.foldl (fun a f => a + f.reset * 2 ^ f.lo) 0

/-- What a register reads as before anything has written it. `Ge_DWIN` and `Ge_EPH_BASE` depend on the Gaffer (R24). Mark: DESIGN CHOICE, log entry 33; DESIGN CHOICE, log entry 34. -/
def resetWord (o : Nat) : Word :=
  match descAt o with
  | none => 0
  | some r =>
    if r.base = R.Ge_DWIN 0 then word ((o - r.base) / 0x1000 * 0x10000)
    else if r.base = R.Ge_EPH_BASE 0 then word (0x380000 + (o - r.base) / 0x1000 * 0x1000)
    else word (descReset r)

/-! ### The register file -/

/-- The active value of the register at a bus offset. -/
def State.reg (s : State) (o : Nat) : Word := tblGet resetWord s.regs o

/-- Give a register an active value. -/
def State.setReg (s : State) (o : Nat) (w : Word) : State := { s with regs := tblSet resetWord s.regs o w }

/-- The value of a field. -/
def State.rget (s : State) (f : Fld) : Nat := wfld (s.reg f.reg) f.lo f.width

/-- Give a field a value, modulo its width. -/
def State.rput (s : State) (f : Fld) (v : Nat) : State := s.setReg f.reg (wset (s.reg f.reg) f.lo f.width v)

/-- A one-bit field is 1. -/
def State.ron (s : State) (f : Fld) : Bool := s.rget f != 0

/-- Add to a counter field that saturates. -/
def State.rsat (s : State) (f : Fld) (k : Nat) : State := s.rput f (min (s.rget f + k) (2 ^ f.width - 1))

/-- Add to a counter field that wraps. -/
def State.rwrap (s : State) (f : Fld) (k : Nat) : State := s.rput f (s.rget f + k)

/-! ### Free values -/

/-- Draw a free value: the counter advances, and the constant of `Config` is applied to its old value. Mark: DESIGN CHOICE, log entry 30. -/
def State.drawn (s : State) : State := { s with free := s.free + 1 }

/-! ### Spine time (R28 to R38) -/

/-- Spine time in subs: ns and sub, without the residue. -/
def State.now (s : State) : Nat := s.spine.acc.toNat / 2 ^ 34

/-- The ns field of the spine time. -/
def State.nowNs (s : State) : Nat := s.spine.acc.toNat / 2 ^ 40

/-- ns of a time in subs. -/
def tNs (t : Nat) : Nat := t / 64

/-- sub of a time in subs. -/
def tSub (t : Nat) : Nat := t % 64

/-- The shift that the running slew asks of one tick: its rate word, or the part still needed (R39). -/
def slewWant (l : Slew) : Int :=
  if l.left = 0 then 0 else if l.left.natAbs ≤ l.rate.natAbs then l.left else l.rate

/-- `SPN_RATE` as a signed number. -/
def State.rateWord (s : State) : Int := (s.reg R.SPN_RATE).toInt

/-- Clamp to the range of a rate word (R30). -/
def clampRate (r : Int) : Int := if r > 2147483647 then 2147483647 else if r < -2147483648 then -2147483648 else r

/-- The slew contribution in force: none while no slew runs or once it has given its whole shift. -/
def State.slewNow (s : State) : Int := match s.spine.slew with | none => 0 | some l => slewWant l

/-- `SPN_RATE_EFF`: rate plus slew, clamped (R30). -/
def State.rateEff (s : State) : Int := clampRate (s.rateWord + s.slewNow)

/-- What one tick adds to the spine state, in units of 2^-40 ns (R30). -/
def State.tickInc (s : State) : Nat := ((2 ^ 40 : Int) + s.rateEff).toNat

/-- The spine time, in subs, of the tick k ticks after the present one, as the present rate and the running hold give it (R30, R37). -/
def State.tAhead (s : State) (k : Nat) : Nat :=
  match s.spine.hold with
  | none => (s.spine.acc.toNat + k * s.tickInc) / 2 ^ 34
  | some h => if k ≤ h.n then s.now else (s.spine.acc.toNat + (k - h.n) * s.tickInc - h.f) / 2 ^ 34

/-- The spine in units of 2^-40 ns at the tick k ticks after the present one (R30, R37). -/
def State.accAhead (s : State) (k : Nat) : Nat :=
  match s.spine.hold with
  | none => s.spine.acc.toNat + k * s.tickInc
  | some h => if k ≤ h.n then s.spine.acc.toNat else s.spine.acc.toNat + (k - h.n) * s.tickInc - h.f

/-- `SPN_STAT.HOLD` (R37): held ticks, or a part f of a tick, are still to come. -/
def State.holding (s : State) : Bool := match s.spine.hold with | none => false | some h => h.n != 0 || h.f != 0

/-- The present tick is not a held one: the spine reaches new times in it (R37). -/
def State.moving (s : State) : Bool := match s.spine.hold with | none => true | some h => h.n == 0

/-- A boundary in subs that the spine reaches in the present tick: in the tick in which a hold ends, one behind the held time (R37). -/
def State.reaches (s : State) (b : Nat) : Bool :=
  decide (b < s.tAhead 1) && (match s.spine.hold with | none => true | some h => h.n == 0 && decide (s.now < b))

/-- The latest stamp of the present tick: one sub below the time of the next (R38), and never below the time of this one. -/
def State.stampCap (s : State) : Nat := max s.now (s.tAhead 1 - 1)

/-- The stamp of an edge at a position within the present tick, before any trace delay, and whether it carries STEP (R38). Mark: DESIGN CHOICE, log entry 7. -/
def State.stampAt (s : State) (pos : Nat) : Nat × Bool :=
  match s.spine.hold with
  | some h =>
    if h.n = 0 ∧ h.f ≤ pos * 2 ^ 34 then (min ((s.spine.acc.toNat + (pos * 2 ^ 34 - h.f)) / 2 ^ 34) s.stampCap, true)
    else (s.now, true)
  | none => (min (s.now + pos) s.stampCap, s.spine.stepTick = some s.spine.tick)

/-! ### Per-index updates -/

def State.modCh (s : State) (c : Fin 96) (f : Channel → Channel) : State := { s with ch := s.ch.set c (f s.ch[c]) }
def State.modGaf (s : State) (e : Fin 8) (f : Gaffer → Gaffer) : State := { s with gaf := s.gaf.set e (f s.gaf[e]) }
def State.modOry (s : State) (n : Fin 4) (f : Orrery → Orrery) : State := { s with ory := s.ory.set n (f s.ory[n]) }
def State.modConv (s : State) (k : Fin 2) (f : Converter → Converter) : State := { s with conv := s.conv.set k (f s.conv[k]) }
def State.modRing (s : State) (n : Fin 64) (f : Ring → Ring) : State := { s with rings := s.rings.set n (f s.rings[n]) }
def State.modBank (s : State) (b : Fin 12) (f : Bank → Bank) : State := { s with banks := s.banks.set b (f s.banks[b]) }
def State.modSpine (s : State) (f : Spine → Spine) : State := { s with spine := f s.spine }

/-- A thread of a Gaffer. -/
def State.thr (s : State) (e : Fin 8) (n : Fin 16) : Thread := s.gaf[e].thr[n]

def State.modThr (s : State) (e : Fin 8) (n : Fin 16) (f : Thread → Thread) : State :=
  s.modGaf e (fun g => { g with thr := g.thr.set n (f g.thr[n]) })

/-- The state that one host path holds. -/
def State.path (s : State) (p : Path) : PathState := match p with | .pcie => s.pcie | .spi => s.spi

def State.modPath (s : State) (p : Path) (f : PathState → PathState) : State :=
  match p with
  | .pcie => { s with pcie := f s.pcie }
  | .spi => { s with spi := f s.spi }

def pathBit (p : Path) : Nat := match p with | .pcie => 0 | .spi => 1

/-- The word that a path holds for a register whose written word waits for its partner (R68, R119, R149). -/
def State.heldWord (s : State) (p : Path) (o : Nat) : Word := tblGet (fun _ => 0) (s.path p).held o

def State.setHeld (s : State) (p : Path) (o : Nat) (w : Word) : State :=
  s.modPath p (fun q => { q with held := tblSet (fun _ => 0) q.held o w })

/-- The copy that a path's last RL read left for a partner register (R309); 0 if there has been none. -/
def State.shadowWord (s : State) (p : Path) (o : Nat) : Word := tblGet (fun _ => 0) (s.path p).shadow o

def State.setShadow (s : State) (p : Path) (o : Nat) (w : Word) : State :=
  s.modPath p (fun q => { q with shadow := tblSet (fun _ => 0) q.shadow o w })

/-! ### Event controller (R246 to R252) -/

/-- Sources that can request: 0–107, 128–191 and 512–1,022 (R246). -/
def ecExists (n : Nat) : Bool := n < 108 || (128 ≤ n && n < 192) || (512 ≤ n && n < 1023)

def State.ecSrc (s : State) (n : Nat) : EcSrc := tblGet (fun _ => EcSrc.reset) s.ec.srcs n

def State.setEcSrc (s : State) (n : Nat) (x : EcSrc) : State :=
  { s with ec := { s.ec with srcs := tblSet (fun _ => EcSrc.reset) s.ec.srcs n x } }

/-- The EN bit of a source. -/
def State.ecEn (s : State) (n : Nat) : Bool := nbit (s.reg (R.EC_ENw (n / 32))).toNat (n % 32)

/-- A LATCH bit is set (R256). -/
def State.ecLatched (s : State) : Bool := s.ron F.EC_CTRL_LATCH_P || s.ron F.EC_CTRL_LATCH_S

/-- A freeze request stands: the device is frozen (R376). -/
def State.frozen (s : State) : Bool := s.ron F.FRZ_STAT_REQ_CMD || s.ron F.FRZ_STAT_REQ_BALL

/-- The event controller stands still: a latch is set (R256), the device is frozen (R377, R378), or what RETAIN has saved is not yet
restored, before which no request is taken (R255). Mark: DEDUCED, log entry 64; DEDUCED, log entry 74. -/
def State.ecStill (s : State) : Bool := s.ecLatched || s.frozen || s.pw.retEc.isSome

/-- MSI-X messages can leave the device (R254). -/
def State.msixOpen (s : State) : Bool := s.fn.linkUp && s.fn.msixEn && !s.fn.d3

/-- The mask bit of a vector in the MSI-X table, 1 after reset (PCIe 3.0, R249). Mark: PRESUMED, log entry 37. -/
def State.vecMasked (s : State) (t : Nat) : Bool :=
  s.fn.fmask || nbit (tblGet (fun o => if o % 16 = 12 then 1 else 0) s.fn.table (16 * t + 12)).toNat 0

/-- Issue one MSI-X message on a vector, or hold it in the pending bit while the vector is masked (R249, R254). -/
def State.msixSend (s : State) (t : Nat) : State :=
  if s.msixOpen then
    if s.vecMasked t then { s with ec := { s.ec with msixPend := s.ec.msixPend ||| BitVec.ofNat 8 (2 ^ t) } }
    else { s with ec := { s.ec with msix := t :: s.ec.msix } }
  else s

/-- The first target after a pointer, in circular order, that a mask names and that is enabled (R248). -/
def State.ecPick (s : State) (ptr tmask : Nat) : Option Nat :=
  ((List.range 8).map (fun i => (ptr + 1 + i) % 8)).find? (fun t => nbit tmask t && s.ron (F.EC_TCFGt_EN t))

/-- Assign a pending source to a target, if it can be, and deliver (R248, R249). -/
def State.ecAssign (s : State) (n : Nat) : State :=
  let x := s.ecSrc n
  if x.pend ∧ x.asg = none ∧ s.ecEn n ∧ s.ron F.EC_CTRL_EN ∧ ¬ s.ecStill then
    match s.ecPick x.ptr (wfld x.tgt 0 8) with
    | none => s
    | some t =>
      let s1 := s.setEcSrc n { x with asg := some t, ptr := t }
      if s1.rget (F.EC_TCFGt_KIND t) = 0 then s1.msixSend t else s1
  else s

/-- Note that hardware sets an event bit in the present tick: a write of the tick does not clear it (R307). -/
def State.noteSet (s : State) (f : Fld) : State :=
  let old := tblGet (fun _ => (0 : Word)) s.hif.evSet f.reg
  { s with hif := { s.hif with evSet := tblSet (fun _ => (0 : Word)) s.hif.evSet f.reg (old ||| BitVec.ofNat 32 (2 ^ f.lo)) } }

/-- Set a bit of `EC_EVT`, which raises no source (R246). -/
def State.ecEvt (s : State) (f : Fld) : State := (s.noteSet f).rput f 1

/-- An edge request of a source (R247, R256); it waits while the event controller stands still. Mark: DEDUCED, log entry 74. -/
def State.ecEdge (s : State) (n : Nat) : State :=
  if s.ecStill then { s with ec := { s.ec with deferred := s.ec.deferred ++ [n] } }
  else if (s.ecSrc n).act then (s.rsat F.EC_LOST2_CNT 1).ecEvt F.EC_EVT_LOST2_S
  else (s.setEcSrc n { s.ecSrc n with pend := true }).ecAssign n

/-- The entries that a ring holds (R237). -/
def State.ringCount (s : State) (n : Nat) : Nat :=
  let h := s.rget (F.RINGn_HEAD_HEAD n)
  let t := s.rget (F.RINGn_TAIL_TAIL n)
  (if s.ron (F.RINGn_CFG_DIR n) then t + 2 ^ 32 - h else h + 2 ^ 32 - t) % 2 ^ 32

/-- The entries that a ring has room for (R236). -/
def State.ringSize (s : State) (n : Nat) : Nat := 16 * 2 ^ s.rget (F.RINGn_CFG_SIZE n)

/-- The level of a ring source (R240). -/
def State.ringLevel (s : State) (n : Nat) : Bool :=
  s.ron (F.RINGn_CFG_EN n) &&
    (if s.ron (F.RINGn_CFG_DIR n) then s.ringCount n = 0 && s.ron (F.RINGn_CFG_DRAIN_IRQ n) else s.ringCount n != 0)

/-- Let a ring source's PEND follow its level (R247); a level that falls withdraws the source (R252). -/
def State.ecLevel (s : State) (n : Nat) : State :=
  let x := s.ecSrc (128 + n)
  if s.ecStill ∨ x.act then s
  else if s.ringLevel n then
    if x.pend then s else (s.setEcSrc (128 + n) { x with pend := true }).ecAssign (128 + n)
  else s.setEcSrc (128 + n) { x with pend := false, asg := none }

/-! ### Event bits -/

/-- The source that an event register's bit raises (R246). -/
def evtSource (f : Fld) : Option Nat :=
  let o := f.reg
  if o = R.GL_EVT ∨ o = R.AP_EVT ∨ o = R.CFG_EVT then some 104
  else if o = R.SPN_EVT ∨ o = R.HL_EVT then some 105
  else if o = R.EL_EVT then some 103
  else if o = R.PW_EVT then some 106
  else if o = R.FRZ_EVT then some 107
  else if o = R.LH_EVT then some 102
  else if o = R.CV_EVT then
    (if f.lo = 0 ∨ f.lo = 1 ∨ f.lo = 8 ∨ f.lo = 10 ∨ f.lo = 11 then some 100 else some 101)
  else if 0x40000 ≤ o ∧ o < 0x48000 then some 105
  else if 0x10000 ≤ o ∧ o < 0x14000 then some (96 + (o - 0x10000) / 0x1000)
  else if 0x100000 ≤ o ∧ o < 0x118000 then some ((o - 0x100000) / 0x400)
  else none

/-- Set a W1C event bit. The setting of a bit that was 0 is an edge request of its source (R246). -/
def State.evt (s : State) (f : Fld) : State :=
  if s.ron f then s.noteSet f
  else
    let s1 := (s.noteSet f).rput f 1
    match evtSource f with
    | none => s1
    | some n => s1.ecEdge n

/-! ### Memories (R3, R24) -/

/-- What a byte of SRAM or host memory that nothing has written reads as. Mark: DESIGN CHOICE, log entry 36. -/
def memDefault (_ : Nat) : Byte := 0

/-- Mark: DESIGN CHOICE, log entry 36. -/
def memRd (m : Tbl Byte) (a : Nat) : Byte := tblGet memDefault m a

def memWr (m : Tbl Byte) (a : Nat) (b : Byte) : Tbl Byte := tblSet memDefault m a b

/-- n bytes from an address, least significant first. -/
def memRdN (m : Tbl Byte) (a : Nat) : Nat → Nat
  | 0 => 0
  | n + 1 => (memRd m a).toNat + 256 * memRdN m (a + 1) n

/-- Write n bytes of a value, least significant first. -/
def memWrN (m : Tbl Byte) (a : Nat) : Nat → Nat → Tbl Byte
  | 0, _ => m
  | n + 1, v => memWrN (memWr m a (BitVec.ofNat 8 v)) (a + 1) n (v / 256)

def memRdW (m : Tbl Byte) (a : Nat) : Word := word (memRdN m a 4)
def memWrW (m : Tbl Byte) (a : Nat) (w : Word) : Tbl Byte := memWrN m a 4 w.toNat

/-- Write consecutive words from an address. -/
def memWrWs (m : Tbl Byte) (a : Nat) : List Word → Tbl Byte
  | [] => m
  | w :: ws => memWrWs (memWrW m a w) (a + 4) ws

def State.sramWr (s : State) (a : Nat) (ws : List Word) : State := { s with sram := memWrWs s.sram a ws }
def State.mramWr (s : State) (a : Nat) (ws : List Word) : State := { s with mram := memWrWs s.mram a ws }
def State.hostWr (s : State) (a : Nat) (ws : List Word) : State := { s with host := memWrWs s.host a ws }

/-- The canonical form of a memory: strictly rising addresses, and no entry equal to what an unlisted byte reads as. -/
def Memory.wf (m : Tbl Byte) : Bool := tblWf memDefault m

/-! ### Records (R13, R232 to R235) -/

/-- The next sequence number of a source. Mark: DESIGN CHOICE, log entry 15. -/
def State.nextSeq (s : State) (src : Nat) : Nat := tblGet (fun _ => 0) s.seqs src

/-- An enabled event ring. -/
def State.eventRing (s : State) (n : Nat) : Bool := s.ron (F.RINGn_CFG_EN n) && !s.ron (F.RINGn_CFG_DIR n)

/-- The ring that a record of a source 0–127 is routed to (R235). -/
def State.routeOf (s : State) (src type : Nat) : Option Nat :=
  let r := (s.ecSrc src).route
  let alt := nbit (if type < 32 then (s.reg R.EC_ALTTYPE_LO).toNat else (s.reg R.EC_ALTTYPE_HI).toNat) (type % 32)
  if alt ∧ wfld r 14 1 = 1 then some (wfld r 8 6)
  else if wfld r 6 1 = 1 then some (wfld r 0 6)
  else none

/-- Record flags (R233). -/
def flLate : Nat := 1
def flLost : Nat := 2
def flDir : Nat := 4
def flFault : Nat := 8
def flMore : Nat := 16
def flTrunc : Nat := 32
def flStep : Nat := 64
def flRunt : Nat := 128
def flCoarse : Nat := 256

/-- Hand a record to the record writer for a given ring, or discard it unnumbered (R235). Mark: DESIGN CHOICE, log entry 15. -/
def State.emitTo (s : State) (ring : Option Nat) (type src t flags : Nat) (w4 w5 w6 w7 : Word) : State :=
  match ring with
  | some n =>
    if s.eventRing n then
      let q := s.nextSeq src
      { s with
        recq := s.recq ++ [⟨type, src, q, t, flags, w4, w5, w6, w7, n⟩]
        seqs := tblSet (fun _ => 0) s.seqs src ((q + 1) % 65536) }
    else (s.rsat F.EC_DISCARD_CNT 1).ecEvt F.EC_EVT_UNROUTED_S
  | none => (s.rsat F.EC_DISCARD_CNT 1).ecEvt F.EC_EVT_UNROUTED_S

/-- The node ID that records carry (R232, R273). -/
def State.nodeId (s : State) : Nat := if s.rget F.EL_STAT_IDSTATE = 2 then s.rget F.EL_ID_HELD else s.rget F.EL_ID_ID

/-- COARSE as the spine stands (R52, R233). -/
def State.coarseFlag (s : State) : Nat := if s.ron F.SPN_STAT_COARSE then flCoarse else 0

/-- Words 0 to 3 of a record (R232). -/
def recHead (src type seq t node flags : Nat) : List Word :=
  [word (src * 2 ^ 22 + type * 2 ^ 16 + seq), word (tNs t), word (tNs t / 2 ^ 32), word (tSub t * 2 ^ 26 + node * 2 ^ 16 + flags)]

/-- The MRAM fault ring takes a copy of every record that carries FAULT, of RESET_CAUSE and of PWR_STATE (R374). -/
def State.faultLog (s : State) (type src t flags : Nat) (w4 w5 w6 w7 : Word) : State :=
  if nbit flags 3 ∨ type = 0x2F ∨ type = 0x2D then
    { s with
      mram := memWrWs s.mram (0x68000 + 32 * (s.hl.faults % 2048)) (recHead src type (s.nextSeq src) t s.nodeId flags ++ [w4, w5, w6, w7])
      hl := { s.hl with faults := s.hl.faults + 1 } }
  else s

/-- In RECORD mode each USR15 record of the named source kicks the watchdog (R362). -/
def State.recordKick (s : State) (type src : Nat) : State :=
  if type = 0x3F ∧ s.rget F.PW_WDG_MODE = 2 ∧ s.rget F.PW_WDG_SRC = src then
    { s with pw := { s.pw with wdgTicks := 0, wdgWarned := false } }
  else s

/-- Hand a record of a source 0–127 to the record writer, its flags being those of the moment of its stamp (R233). -/
def State.emitFl (s : State) (type src t fl : Nat) (w4 w5 w6 w7 : Word) : State :=
  ((s.faultLog type src t fl w4 w5 w6 w7).recordKick type src).emitTo (s.routeOf src type) type src t fl w4 w5 w6 w7

/-- Hand a record of a source 0–127 to the record writer, with COARSE as the spine stands (R52, R233). -/
def State.emit (s : State) (type src t flags : Nat) (w4 w5 w6 w7 : Word) : State :=
  s.emitFl type src t (flags + s.coarseFlag) w4 w5 w6 w7

/-- The record writer works at its ceiling (R25); with nothing handed over and not yet written it does not. Mark: DESIGN CHOICE, log entry 17. -/
def State.atCeil (s : State) : Bool := !s.recq.isEmpty && Config.atCeiling s.recq.length

/-! ### ECC errors (R371, R375) -/

/-- An uncorrectable error that a reader met: in the SRAM, or in the MRAM. Mark: DESIGN CHOICE, log entry 83. -/
def State.eccBad (s : State) (mram : Bool) (ofs : Nat) : State :=
  let s0 := ((s.rsat F.HL_ECC_UNCORR 1).setReg R.HL_ECCADDR (word (ofs + 2 ^ 31 * b2n mram))).evt F.HL_EVT_ECC_U_S
  let s1 := if mram then s0.evt F.HL_EVT_MRAM_S else s0
  s1.emit 0x22 105 s1.now flFault (word (1 + 2 * b2n mram)) (word ofs) 0 0

/-- An SRAM error that is corrected and written back: counted, and recorded with CREC = 1. Mark: DESIGN CHOICE, log entry 83. -/
def State.eccCorr (s : State) (ofs : Nat) : State :=
  let s1 := (s.rsat F.HL_ECC_CORR 1).evt F.HL_EVT_ECC_C_S
  if s1.ron F.HL_CTRL_CREC then s1.emit 0x22 105 s1.now 0 0 (word ofs) 0 0 else s1

/-- Offset of an error in some words of the SRAM window that a reader takes together: in which of them is a free value. -/
def State.eccOfs (s : State) (ofs words : Nat) : Nat := ofs + (if words ≤ 1 then 0 else 4 * (Config.eccWord s.free % words))

/-- What ECC reports of some words of the SRAM window that a reader takes together. Mark: DESIGN CHOICE, log entry 83. -/
def State.eccRead (s : State) (ecc : Ecc) (ofs words : Nat) : State :=
  match ecc with
  | .ok => s
  | .corrected => s.drawn.eccCorr (s.eccOfs ofs words)
  | .bad => s.drawn.eccBad false (s.eccOfs ofs words)

/-! ### Thread wakes (R102, R103) -/

/-- Set a wake bit of a thread; a parked thread whose wait it ends becomes READY. Mark: DEDUCED, log entry 43. -/
def State.wake (s : State) (e : Fin 8) (n : Fin 16) (bit : Nat) : State :=
  let t := s.thr e n
  if nbit t.pend.toNat bit then s.modThr e n (fun t => { t with coal := min (t.coal + 1) 255 })
  else
    let ends := decide (t.state = .parked) &&
      (match t.park with | .none => false | .wait => nbit t.mask.toNat bit | .space _ => bit == 10)
    s.modThr e n (fun t =>
      let t := { t with pend := t.pend ||| BitVec.ofNat 16 (2 ^ bit) }
      if ends then { t with state := .ready, readySince := some s.now, wokenAt := if t.cls = 0 then some s.now else none }
      else t)

/-- The Gaffer and the bound thread that serve a channel (chapter 05). -/
def gafOf (c : Fin 96) : Fin 8 := ⟨c.val / 12, by omega⟩
def thrOf (c : Fin 96) : Fin 16 := ⟨c.val % 12, by omega⟩

/-- Wake the thread bound to a channel. -/
def State.wakeCh (s : State) (c : Fin 96) (bit : Nat) : State := s.wake (gafOf c) (thrOf c) bit

/-- Space freed in a resource ends the SPACE waits of the Gaffer's threads that are parked for that resource (R102, R135). -/
def State.wakeSpace (s : State) (e : Fin 8) (of : SpaceOf) : State :=
  (List.finRange 16).foldl (fun s n => if (s.thr e n).state = .parked ∧ (s.thr e n).park = .space of then s.wake e n 10 else s) s

/-- Record space is free again (R102, R135). -/
def State.wakeWriter (s : State) : State := (List.finRange 8).foldl (fun s e => s.wakeSpace e .writer) s

end Sys2Proof.Machine
end

