-- ==== Sys2Proof/Machine/Cal.lean ====
section
/-!
DEFINITION. Calibration words (R48, R56, R346 to R348): factory words in OTP, user words, and the effective values composed of them.
-/
namespace Sys2Proof.Machine
open Sys2Proof

/-- The four bin seeds of codes 4·q to 4·q + 3 of a line with 111 codes per tick: evenly spread positions. Mark: DESIGN CHOICE, log entry 32. -/
def seedWord (q : Nat) : Word :=
  (List.range 4).foldl (fun (a : Word) i => a ||| BitVec.ofNat 32 (min 63 ((4 * q + i) * 64 / 111) * 256 ^ i)) 0

/-- The OTP word that a device holds where nothing else is said: delay words of 197 subs, 9 ps elements with 111 codes per
tick and evenly spread bins, gains of 1.0, monitor references of 10000, everything else 0 (the spec says every device differs). Mark: DESIGN CHOICE, log entry 32. -/
def otpDefault (i : Nat) : Word :=
  if i < 0x3C2 ∨ 0x3C4 ≤ i ∧ i < 0x3CC then 197
  else if 0x400 ≤ i ∧ i < 0x700 then seedWord ((i - 0x400) % 64)
  else if 0x3D0 ≤ i ∧ i < 0x3DC then 0x6F90
  else if 0x3E0 ≤ i ∧ i < 0x3F0 ∧ i % 2 = 1 then 0x8000
  else if i = 0x3F1 ∨ i = 0x3F4 then 0x8000
  else if 0x700 ≤ i ∧ i < 0x720 then 10000
  else if i = 0x7FF then 0xA11D3ADC
  else 0

/-- The three copies of a factory word. Mark: DESIGN CHOICE, log entry 32. -/
def State.otpWord (s : State) (i : Nat) : OtpWord :=
  tblGet (fun i => ⟨otpDefault i, otpDefault i, otpDefault i⟩) s.otp i

/-- The voted word: the bitwise majority of the three copies (R346). -/
def voted (w : OtpWord) : Word := (w.a &&& w.b) ||| (w.a &&& w.c) ||| (w.b &&& w.c)

/-- The bits in which the copies disagree. -/
def otpDiff (w : OtpWord) : Word := (w.a ^^^ w.b) ||| (w.a ^^^ w.c)

def State.otpV (s : State) (i : Nat) : Nat := (voted (s.otpWord i)).toNat

/-- Quantity indices that are gains (R347). -/
def calIsGain (q : Nat) : Bool :=
  (0xD0 ≤ q && q < 0xF0 && (q % 8 = 1 || q % 8 = 3)) || q = 0xF1 || q = 0xF5

/-- Quantity indices that have a user word (R347). -/
def calHasU (q : Nat) : Bool :=
  q < 0xC2 || (0xCC ≤ q && q < 0xD0) || (0xD0 ≤ q && q < 0xF0 && q % 8 < 6) ||
    (0xF0 ≤ q && q < 0xF8 && q % 4 < 3)

/-- Mark: DESIGN CHOICE, log entry 32. -/
def calUDefault (q : Nat) : Word := if calIsGain q then 0x8000 else 0

/-- The active user word of a quantity. -/
def State.calUser (s : State) (q : Nat) : Word := tblGet calUDefault s.calU q

/-- Bank of a channel. -/
def bankOf (c : Fin 96) : Fin 12 := ⟨c.val / 8, by omega⟩

/-- The voltage index that selects a channel's factory words: the bank's supply, or the one last detected (R347). -/
def State.calVolt (s : State) (c : Fin 96) : Nat :=
  let b := s.banks[bankOf c]
  if (if b.supply = 0 then b.lastV else b.supply) = 2 then 1 else 0

/-- The factory word of a quantity (R56, R347). -/
def State.calF (s : State) (q : Nat) : Nat :=
  if h : q < 0x60 then s.otpV (8 * q + 4 * s.calVolt ⟨q, h⟩ + s.rget (F.CHc_PIN_DRV q)) % 65536
  else if h : q - 0x60 < 96 then s.otpV (0x300 + 2 * (q - 0x60) + s.calVolt ⟨q - 0x60, h⟩) % 65536
  else if q = 0xC0 ∨ q = 0xC1 then s.otpV (0x3C0 + (q - 0xC0)) % 65536
  else if 0xC4 ≤ q ∧ q < 0xCC then s.otpV (0x3C4 + (q - 0xC4))
  else if 0xD0 ≤ q ∧ q < 0xF0 ∧ q % 8 < 4 then s.otpV (0x3E0 + 4 * ((q - 0xD0) / 8) + q % 8) % 65536
  else if 0xF0 ≤ q ∧ q < 0xF8 ∧ q % 4 < 3 then s.otpV (0x3F0 + 3 * ((q - 0xF0) / 4) + q % 4) % 65536
  else 0

/-- Saturate to an interval; whether it saturated. -/
def satI (v lo hi : Int) : Int × Bool := if v < lo then (lo, true) else if v > hi then (hi, true) else (v, false)

/-- The effective word of a quantity, and whether it saturated (R48, R178, R347). Mark: DEDUCED, log entry 70. -/
def State.calE (s : State) (q : Nat) : Int × Bool :=
  let f := s.calF q
  let u := (s.calUser q).toNat
  if q < 0xC2 ∨ q = 0xF2 ∨ q = 0xF6 then satI ((f : Int) + signed u 16) 0 65535
  else if q < 0xCC then ((f : Int), false)
  else if q < 0xD0 then (signed u 16, false)
  else if calIsGain q then
    let g : Nat := f * u / 2 ^ 15
    if g ≥ 2 ^ 17 then (((2 ^ 17 - 1 : Nat) : Int), true) else ((g : Int), false)
  else if q < 0xF0 ∧ q % 8 = 4 then (signed u 16, false)
  else if q < 0xF0 ∧ q % 8 = 5 then (((u % 2 ^ 24 : Nat) : Int), false)
  else if q < 0xF8 ∧ (q < 0xF0 ∧ q % 8 < 4 ∨ 0xF0 ≤ q ∧ q % 4 = 0) then
    satI (signed f 16 + signed u 16) (-32768) 32767
  else (0, false)

/-- `CAL_U.OUT_TRC` of a channel, in subs (R49). -/
def State.outTrc (s : State) (c : Nat) : Int := signed (s.calUser c).toNat 16

/-- What a capture subtracts from the time at the ball: the effective input delay less the factory part, through which the edge has
already come (R46, R48, R50). It is `CAL_U.IN_TRC` unless the sum saturates. -/
def State.inTrcOf (s : State) (q : Nat) : Int := (s.calE q).1 - s.calF q

/-- `inTrcOf` of a channel. -/
def State.inTrc (s : State) (c : Nat) : Int := s.inTrcOf (0x60 + c)

/-- The launch advance K of a channel: whole ticks of its launch-to-ball delay (R45). -/
def State.launchK (s : State) (c : Nat) : Nat := (s.calF c + 63) / 64

/-- The gain product of a correction in units of 2^-30, saturated below 4.0 (R178). -/
def State.gainProduct (s : State) (qg : Nat) : Nat :=
  let g := s.calF qg * (s.calUser qg).toNat
  if 2 ^ 32 ≤ g then (2 ^ 17 - 1) * 2 ^ 15 else g

/-- A gain-and-offset correction (R178, R197): (raw − F.OFS − U.OFS) × F.GAIN × U.GAIN / 2^30, rounded down, with the offset sum and
the gain product saturated. -/
def State.correct (s : State) (raw : Int) (qo qg : Nat) : Int :=
  (raw - (satI (signed (s.calF qo) 16 + signed (s.calUser qo).toNat 16) (-32768) 32767).1) * (s.gainProduct qg : Int) / 2 ^ 30

/-- The event bits of a composition that saturates (R48, R178, R347). -/
def State.calSaturate (s : State) (q : Nat) : State :=
  if (s.calE q).2 then
    let s1 := s.evt F.CFG_EVT_SAT_S
    if q < 0xC4 then s1.evt F.SPN_EVT_CAL_SAT
    else if 0xD0 ≤ q ∧ q < 0xF0 then s1.evt (F.ORYn_EVT_CFG_ERR_S ((q - 0xD0) / 8))
    else s1
  else s

/-! ### Taps and bins (R45 to R47) -/

/-- The raw capture code positions of a bank in force: measured, or the seeds of OTP (R46, R47, R346). -/
def State.binTab (s : State) (b : Fin 12) : List Nat :=
  match s.banks[b].live with
  | some t => t.bins.map BitVec.toNat
  | none => (List.range 256).map (fun r => s.otpV (0x400 + 64 * b.val + r / 4) / 256 ^ (r % 4) % 64)

/-- The element delay of a bank in force, in 1/16 ps (R45, R47). -/
def State.elemOf (s : State) (b : Fin 12) : Nat :=
  match s.banks[b].live with
  | some t => t.elem
  | none => s.otpV (0x3D0 + b.val) % 256

/-- The position in subs that a bank's bin table gives an edge at a true position: the line answers the first code that its table
places at or behind the edge, the last one where there is none (R46, R47). Mark: DEDUCED, log entry 104. -/
def State.binned (s : State) (b : Fin 12) (pos : Nat) : Nat :=
  let tab := s.binTab b
  (tab.find? (fun x => pos ≤ x)).getD (tab.getLast?.getD pos)

/-- A position within the present tick, in subs of PLL ticks: the time base of the dead times, which runs on in a hold (R74, R154). -/
def State.tickPos (s : State) (pos : Nat) : Nat := s.spine.tick * 64 + pos

/-- The stamp of an edge at ball b: time at the channel's reference plane, and STEP (R38, R46, R50). A stamp that would lie below 0 is
cut to 0. Mark: DESIGN CHOICE, log entry 7. -/
def State.ballStamp (s : State) (b : Fin 96) (pos : Nat) : Nat × Bool :=
  let (t0, st) := s.stampAt (s.binned (bankOf b) pos)
  (((t0 : Int) - s.inTrc b).toNat, st)

/-- The raw tap of vernier tap n of a channel, in elements of 1/16 ps: round((K·1000 ps − P + n·15.625 ps) / e) (R45). -/
def State.rawTap (s : State) (c : Fin 96) (n : Nat) : Nat :=
  min 255 (roundDiv ((64 * s.launchK c - s.calF c + n) * 250) (s.elemOf (bankOf c)))

/-- A tick boundary takes a measured table set out of its shadow copy (R47). -/
def State.bankSwap (s : State) (b : Fin 12) : State :=
  if s.banks[b].swap then
    s.modBank b (fun x => { x with live := some ⟨s.rget (F.SPN_BANKCALb_ELEM b), x.bins⟩, swap := false })
  else s

end Sys2Proof.Machine
end

