-- ==== Sys2Proof/Machine/RecStage.lean ====
section
/-!
DEFINITION. The record stage of a channel (R16, R25): a record stays in it until no record of its type with an earlier stamp can
follow, and while the record writer works at its ceiling.
-/
namespace Sys2Proof.Machine
open Sys2Proof

/-- t(a+K): the ball time of an edge that leaves at the present tick on tap 0 (R63). -/
def State.tLaunch (s : State) (c : Fin 96) : Int := s.tAhead (s.launchK c)

/-- The other channel of a pair. -/
def pairOf (c : Fin 96) : Fin 96 := ⟨if c.val % 2 = 0 then c.val + 1 else c.val - 1, by split <;> omega⟩

def kNat (k : Bool) : Nat := b2n k

/-- The ball of a capture unit (R74). -/
def State.capBallOf (s : State) (c : Fin 96) (k : Bool) : Fin 96 := if s.ron (F.CHc_CAPk_CFG_SRC c (kNat k)) then pairOf c else c

/-- The earliest stamp that an edge at a ball can still get: one of the present tick, or of an own change that waits for its filter (R55, R57). Mark: DEDUCED, log entry 84. -/
def State.edgeFloor (s : State) (b : Fin 96) : Int :=
  (match s.ch[b].own with | [] => (s.now : Int) | x :: _ => min x.2 s.now) - s.inTrc b

/-- The earliest stamp that a record of a type can still get on a channel: a fire's pin change lies at t(a+K) or later, an image
that a capture latches takes the capture's time, a SKIP that moves the pin reports the time of the change, and anything else takes the time of
its tick (R63, R73, R80, R83). Mark: DEDUCED, log entry 84. -/
def State.stageFloor (s : State) (c : Fin 96) (type : Nat) : Int :=
  if type = 0x08 then s.tLaunch c + s.outTrc c
  else if type = 0x0A then
    let from0 := if s.ron (F.CHc_CNT_CFG_LAT_CAP0 c) then s.edgeFloor (s.capBallOf c false) else s.now
    let from1 := if s.ron (F.CHc_CNT_CFG_LAT_CAP1 c) then s.edgeFloor (s.capBallOf c true) else s.now
    min s.now (min from0 from1)
  else if type = 0x0B then min (s.now : Int) (s.tLaunch c + s.outTrc c)
  else s.now

/-- Put a record into a stage behind the records of its type with no later stamp. -/
def stageInsert (r : ChRec) : List ChRec → List ChRec
  | [] => [r]
  | x :: xs => if x.type = r.type ∧ r.t < x.t then r :: x :: xs else x :: stageInsert r xs

/-- Hand over the records of a stage that are free to go, in order; the others stay (R16, R25). Mark: DEDUCED, log entry 84. -/
def State.stageRun (s : State) (c : Fin 96) : List ChRec → State × List ChRec
  | [] => (s, [])
  | r :: rs =>
    if (r.t : Int) ≤ s.stageFloor c r.type ∧ ¬ s.atCeil then (s.emitFl r.type c.val r.t r.flags r.w4 r.w5 r.w6 r.w7).stageRun c rs
    else
      let (s1, kept) := s.stageRun c rs
      (s1, r :: kept)

/-- Let a channel's record stage hand over what it can. -/
def State.stagePump (s : State) (c : Fin 96) : State :=
  if s.ch[c].stage = [] then s
  else
    let (s1, kept) := s.stageRun c s.ch[c].stage
    s1.modCh c (fun x => { x with stage := kept })

/-- A channel reports a record, with the flags of the moment of its stamp: through the record stage (R25, R83). -/
def State.chEmitFl (s : State) (c : Fin 96) (type t fl : Nat) (w4 w5 w6 w7 : Word) : State :=
  (s.modCh c (fun x => { x with stage := stageInsert ⟨type, t, fl, w4, w5, w6, w7⟩ x.stage })).stagePump c

/-- A channel reports a record stamped now. -/
def State.chEmit (s : State) (c : Fin 96) (type t flags : Nat) (w4 w5 w6 w7 : Word) : State :=
  s.chEmitFl c type t (flags + s.coarseFlag) w4 w5 w6 w7

end Sys2Proof.Machine
end

