-- ==== Sys2Proof/Machine/SampBuf.lean ====
section
/-!
DEFINITION. The six sample buffers of the sample partition (R198 to R201).
-/
namespace Sys2Proof.Machine
open Sys2Proof

/-- The sample partition (R24, R198). -/
def sampPart : Nat := 0x280000

/-- The source that buffer b reports under (R201). -/
def sbufSource (b : Nat) : Nat := if b = 0 ∨ b = 2 ∨ b = 3 then 100 else 101

/-- Entries that a buffer holds. -/
def State.sbufSize (s : State) (b : Nat) : Nat := 2 ^ (s.rget (F.CVBUFb_CFG_SIZE b) + 8)

/-- A STOP buffer that is full (R200). -/
def State.sbufFull (s : State) (b : Nat) : Bool :=
  s.ron (F.CVBUFb_CFG_MODE b) &&
    ((s.rget (F.CVBUFb_WRIDX_WRIDX b) + 2 ^ 32 - s.rget (F.CVBUFb_RDIDX_RDIDX b)) % 2 ^ 32 = s.sbufSize b)

/-- `BUF_OVR_S` of a buffer. -/
def sbufOvr (b : Nat) : Fld := ⟨R.CV_EVT, 8 + b, 1⟩

def State.modSbuf (s : State) (b : Fin 6) (f : SampBuf → SampBuf) : State := { s with sbuf := s.sbuf.set b (f s.sbuf[b]) }

/-- Offer an entry of four words, stamped t with COARSE as the spine then stood (R233), to a buffer (R198 to R200): a disabled buffer takes none, a full STOP buffer
discards it, otherwise it is written and then the write index, with CONV_BLOCK at each multiple of 2^BLK. -/
def State.sbufPut (s : State) (b : Fin 6) (t : Nat) (coarse : Bool) (w0 w1 w2 w3 : Word) : State :=
  if ¬ s.ron (F.CVBUFb_CFG_EN b) then s
  else if s.sbufFull b then
    ((s.rwrap (F.CVBUFb_DROP_DROP b) 1).evt (sbufOvr b)).modSbuf b (fun x => { x with lost := x.lost + 1 })
  else
    let i := s.rget (F.CVBUFb_WRIDX_WRIDX b)
    let a := sampPart + s.rget (F.CVBUFb_BASE_PAGE b) * 4096 + 16 * (i % s.sbufSize b)
    let blk := s.rget (F.CVBUFb_CFG_BLK b)
    let s1 := (s.sramWr a [w0, w1, w2, w3]).rput (F.CVBUFb_WRIDX_WRIDX b) (i + 1)
    let s2 := s1.modSbuf b (fun x => { x with blockT := x.blockT.mapIdx (fun k v => if i % 2 ^ k = 0 then (t, coarse) else v) })
    let start := (s2.sbuf[b]).blockT.toList.getD blk (0, false)
    if blk ≠ 0 ∧ (i + 1) % 2 ^ blk = 0 then
      s2.emitFl 0x12 (sbufSource b) start.1 (b2n start.2 * flCoarse) (word b) (word (i + 1 + 2 ^ 32 - 2 ^ blk)) 0 0
    else s2

/-- Space has returned to a buffer that discarded samples: their number is reported (R200). Mark: DEDUCED, log entry 47. -/
def State.sbufSpace (s : State) (b : Fin 6) : State :=
  let n := s.sbuf[b].lost
  if n = 0 ∨ s.sbufFull b then s
  else (s.modSbuf b (fun x => { x with lost := 0 })).emit 0x13 (sbufSource b) s.now 0 (word b.val) (word n) 0 0

end Sys2Proof.Machine
end

