-- ==== Sys2Proof/Machine/Orrery.lean ====
section
/-!
DEFINITION. Orreries (chapter 07): the estimate, the decoders of the four input types, standstill and the commands of `ORYn_CMD`.
-/
namespace Sys2Proof.Machine
open Sys2Proof

/-! ### Description and angles (R157 to R162) -/

def State.oType (s : State) (n : Nat) : Nat := s.rget (F.ORYn_CTRL_TYPE n)
def State.oNpos (s : State) (n : Nat) : Nat := s.rget (F.ORYn_WHEEL_NPOS n)
def State.oMiss (s : State) (n : Nat) : Nat := s.rget (F.ORYn_WHEEL_MISS n)
def State.oTurns (s : State) (n : Nat) : Nat := if s.ron (F.ORYn_CTRL_TPC n) then 2 else 1

/-- Steps of position in one cycle, by decoder (R159). -/
def State.oSteps (s : State) (n : Nat) : Nat :=
  match s.oType n with
  | 0 => s.oTurns n * s.oNpos n
  | 1 => 6
  | 2 => 4 * s.rget (F.ORYn_LINES_LINES n)
  | _ => s.rget (F.ORYn_LINES_LINES n)

/-- The angle of a position, with its carry, before `ORY_ZERO` (R159). -/
def State.oAngle (s : State) (n pos phi : Nat) : Nat :=
  let ref := s.rget (F.ORYn_REF_REF n)
  match s.oType n with
  | 1 => pos * 2 ^ 24 / 6
  | 3 => ref + (4096 * pos + phi) * 2 ^ 24 / (4096 * s.oSteps n)
  | _ => ref + pos * 2 ^ 24 / s.oSteps n

/-- The angle base of a position in a cycle (R157). -/
def State.oBase (s : State) (n cyc pos phi : Nat) : Nat := (cyc * 2 ^ 24 + s.oAngle n pos phi) % 2 ^ 32

/-- `CAL_U.ORY_ZERO` added to an angle base, with its carry into the cycle count (R179). -/
def State.oZero (s : State) (n : Nat) (base : Nat) : Nat := (base + (s.calUser (0xD5 + 8 * n)).toNat % 2 ^ 24) % 2 ^ 32

/-- The position that the next wheel tooth is expected to advance by (R165). -/
def State.oSpan (s : State) (n pos : Nat) (back : Bool) : Nat :=
  let j := pos % s.oNpos n
  if back then (if j = 0 then s.oMiss n + 1 else 1)
  else if j + s.oMiss n + 1 = s.oNpos n then s.oMiss n + 1 else 1

/-- Angle from the edge at a position to the next expected edge, in au (R160, R191). For SINCOS it is what |speed| covers in 2,000 ns. -/
def State.oNext (s : State) (n pos : Nat) (back : Bool) (speed : Int) : Nat :=
  if s.oType n = 3 then speed.natAbs * 2000 / 2 ^ 24
  else
    let k := if s.oType n = 0 then s.oSpan n pos back else 1
    let N := s.oSteps n
    if back then (s.oAngle n pos 0 + 2 ^ 24 - s.oAngle n ((pos + N - k) % N) 0) % 2 ^ 24
    else (s.oAngle n ((pos + k) % N) 0 + 2 ^ 24 - s.oAngle n pos 0) % 2 ^ 24

/-- What an Orrery would show if a broadcast completed now. -/
def Orrery.view (o : Orrery) : OryView := ⟨o.sync, o.back, o.still, o.suspect, o.camok, false, o.pos, o.hist⟩

/-- A valid estimate in a synchronisation state (R161). -/
def State.syncValid (s : State) (n : Fin 4) (x : Sync) : Bool := x = .full || (x = .rel && s.ron (F.ORYn_CTRL_RELOK n))

/-- The Orrery has a valid estimate (R161), as the last completed broadcast shows it (R188). -/
def State.oValid (s : State) (n : Fin 4) : Bool := s.syncValid n s.ory[n].seen.sync

/-- The latest edge of a history stamped no later than t (R160). -/
def OryView.edgeAt (v : OryView) (t : Nat) : Option OryEdge := v.hist.find? (fun e => e.t ≤ t)

/-- The extension Δ of an edge at t, in au (R160). -/
def State.oDelta (s : State) (n : Fin 4) (still : Bool) (e : OryEdge) (t : Nat) : Nat :=
  if still then 0
  else if s.oType n = 3 then e.speed.natAbs * min (t - e.t) (2000 * 64) / (64 * 2 ^ 24)
  else min (e.speed.natAbs * (t - e.t) / (64 * 2 ^ 24)) (e.dnext - 1)

/-- The estimated angle base at t from a view, before `ORY_ZERO`: none if no edge is that early (R160). It extends the edge in the
edge's own direction. -/
def State.oEstOf (s : State) (n : Fin 4) (v : OryView) (t : Nat) : Option Nat :=
  (v.edgeAt t).map (fun e =>
    if e.back then (e.base + 2 ^ 32 - s.oDelta n v.still e t) % 2 ^ 32 else (e.base + s.oDelta n v.still e t) % 2 ^ 32)

/-- The estimate that the Orrery itself goes by. -/
def State.oEst (s : State) (n : Fin 4) (t : Nat) : Option Nat := s.oEstOf n s.ory[n].view t

/-- The angle that a record or an operation reports for time t: none while the estimate is not valid (R161, R179). It goes by the
history as the last completed broadcast left it (R156, R188). -/
def State.oReport (s : State) (n : Fin 4) (t : Nat) : Option Nat :=
  if s.oValid n then (s.oEstOf n s.ory[n].seen t).map (s.oZero n) else none

/-- The speed word after the last validated edge. -/
def State.oSpeed (s : State) (n : Fin 4) : Int :=
  if s.ory[n].still then 0 else match s.ory[n].hist with | e :: _ => e.speed | [] => 0

/-- The speed word that a view reports at t (R177): bounded by the angle to the overdue edge. -/
def State.oSpeedOf (s : State) (n : Fin 4) (v : OryView) (t : Nat) : Int :=
  if v.still then 0
  else match v.hist with
  | [] => 0
  | e :: _ =>
    if s.oType n = 3 ∨ t ≤ e.t then e.speed
    else
      let m := min e.speed.natAbs (roundDiv (e.dnext * 64 * 2 ^ 24) (t - e.t))
      if e.speed < 0 then -(m : Int) else (m : Int)

/-- The speed word reported at t, outside the Orrery and in its own records. -/
def State.oSpeedAt (s : State) (n : Fin 4) (t : Nat) : Int := s.oSpeedOf n s.ory[n].seen t
def State.oSpeedIn (s : State) (n : Fin 4) (t : Nat) : Int := s.oSpeedOf n s.ory[n].view t

/-! ### Broadcasts (R156, R188) -/

/-- The ORY wake of every thread that subscribes (R102, R156). -/
def State.oWakes (s : State) (n : Fin 4) : State :=
  (List.finRange 8).foldl (fun s (e : Fin 8) =>
    (List.finRange 16).foldl (fun s (t : Fin 16) => if nbit (s.rget (F.Ge_THRn_CFG_ORYSUB e t)) n then s.wake e t 6 else s) s) s

/-- What the Orrery holds now is shown in a tick to come, marked RESYNC or not (R166): at the end of the time that R156 allows for it. Mark: DESIGN CHOICE, log entry 90. -/
def State.oPush (s : State) (n : Fin 4) (due : Nat) (wake rs : Bool) : State :=
  s.modOry n (fun o => { o with bcs := o.bcs ++ [⟨due, wake, { o.view with resync := rs }⟩] })

/-- Broadcast an estimate (R156). -/
def State.oBroadcast (s : State) (n : Fin 4) (due : Nat) (rs : Bool) : State := s.oPush n due true rs

/-- The last broadcast begun carries what has changed since. -/
def State.oAmend (s : State) (n : Fin 4) : State :=
  s.modOry n (fun o => { o with bcs := match o.bcs.getLast? with | some b => o.bcs.dropLast ++ [{ b with view := { o.view with resync := b.view.resync } }] | none => [] })

/-- A change of configuration shows at once, and ends the broadcasts in progress (R180). -/
def State.oShow (s : State) (n : Fin 4) : State := s.modOry n (fun o => { o with bcs := [], seen := o.view })

/-- A change of one part shows at once. -/
def State.oShowPart (s : State) (n : Fin 4) (f : OryView → OryView) : State :=
  s.modOry n (fun o => { o with bcs := o.bcs.map (fun b => { b with view := f b.view }), seen := f o.seen })

/-- The broadcasts whose time has come complete, in order. -/
def State.oDeliver (s : State) (n : Fin 4) : State :=
  (s.ory[n].bcs.takeWhile (fun b => b.due ≤ s.spine.tick)).foldl (fun (s : State) b =>
    let s1 := s.modOry n (fun o => { o with bcs := o.bcs.drop 1, seen := b.view })
    if b.wake then s1.oWakes n else s1) s

/-! ### Records and state changes (R161, R183) -/

def oSrc (n : Nat) : Nat := 96 + n

/-- The flags of an Orrery record: the direction after the event, and STEP where its edge carried it (R183). -/
def oFlags (back step : Bool) : Nat := (if back then flDir else 0) + (if step then flStep else 0)

/-- The flags of a record that its edge's stamp gives (R183, R233). -/
def OryStamp.fl (x : OryStamp) (back : Bool) : Nat := oFlags back x.step + b2n x.coarse * flCoarse

/-- The flags of a record of the present tick. -/
def State.oDirFlag (s : State) (n : Fin 4) : Nat := oFlags s.ory[n].back false + s.coarseFlag

def syncCode : Sync → Nat
  | .off => 0 | .acq => 1 | .turn => 2 | .rel => 3 | .full => 4

/-- The angle base of the last validated edge. -/
def State.oLast (s : State) (n : Fin 4) : Nat :=
  match s.ory[n].hist with | e :: _ => s.oZero n e.base | [] => 0

/-- Change SYNC, with its ORY_SYNC record of flags `fl` (R157, R161). -/
def State.oSync (s : State) (n : Fin 4) (new : Sync) (cause t fl : Nat) : State :=
  let old := s.ory[n].sync
  let s1 := s.modOry n (fun o => { o with sync := new, cyc := if (old = .off ∨ old = .acq) ∧ (new = .full ∨ new = .rel) then 0 else o.cyc })
  let s2 := if old = new then s1 else s1.evt (F.ORYn_EVT_SYNC_S n)
  s2.emitFl 0x0C (oSrc n) t fl (word (syncCode new + 16 * syncCode old + 256 * cause))
    (word (s2.oLast n)) (satWord (s2.oSpeedIn n t)) 0

/-- Report a fault of a kind: a record at most once per kind per 1 ms, with the count since the previous one (R183). -/
def State.oFault (s : State) (n : Fin 4) (kind t fl : Nat) (info : Word) : State :=
  match tblFind s.ory[n].faults kind with
  | none =>
    (s.modOry n (fun o => { o with faults := tblPut o.faults kind (t, 0) })).emitFl 0x0E (oSrc n) t (flFault + fl)
      (word (kind + 65536)) (word (s.oLast n)) info 0
  | some (t0, c) =>
    if t0 + 1000000 * 64 ≤ t then
      (s.modOry n (fun o => { o with faults := tblPut o.faults kind (t, 0) })).emitFl 0x0E (oSrc n) t
        (flFault + fl + (if c + 1 > 65535 then flTrunc else 0))
        (word (kind + 65536 * min (c + 1) 65535)) (word (s.oLast n)) info 0
    else s.modOry n (fun o => { o with faults := tblPut o.faults kind (t0, c + 1) })

/-- A resync: count, event bit and record, with the shift and the angle bases before and after (R166, R183). -/
def State.oResync (s : State) (n : Fin 4) (cause t fl : Nat) (shift steps : Int) (before after : Nat) : State :=
  (((s.rsat (F.ORYn_ERRCNT_RESYNC n) 1).evt (F.ORYn_EVT_RESYNC_S n)).modOry n (fun o => { o with suspect := false })).emitFl
    0x0D (oSrc n) t fl (iword shift) (word ((steps % 65536).toNat + 65536 * cause))
    (word (s.oZero n after)) (word (s.oZero n before))

/-- Put the position at `pos` and phase `phi` with the angle base nearest to a counted one: the shift, the new base and its cycle
count (R166). -/
def State.oShift (s : State) (n : Fin 4) (counted pos phi : Nat) : Int × Nat × Nat :=
  let raw := s.oAngle n pos phi
  let d := halfRange ((raw : Int) - (counted : Int)) (2 ^ 24)
  let after := (((counted : Int) + d) % 2 ^ 32).toNat
  (d, after, ((after + 2 ^ 32 - raw) / 2 ^ 24) % 256)

/-- A shift of d au from one position of N to another, in positions (R183). -/
def stepShift (d : Int) (old new N : Nat) : Int :=
  if d < 0 then -(((old + N - new) % N : Nat) : Int) else (((new + N - old) % N : Nat) : Int)

/-! ### A validated edge (R156, R176, R177) -/

/-- The speed word of `steps` steps of `den` to a cycle in `dt` subs (R158, R176). -/
def speedWord (steps den dt : Nat) (back : Bool) : Int :=
  let m := min (roundDiv (steps * 2 ^ 48 * 64) (den * dt)) (2 ^ 39 - 1)
  if back then -(m : Int) else (m : Int)

/-- ORY_MOTION of an edge that ends a standstill or is a reversal, with the speed word before it (R176, R177). -/
def State.oMotion (s : State) (n : Fin 4) (x : OryStamp) (rev woke : Bool) (v : Int) : State :=
  let back := s.ory[n].back
  let s1 := if rev then s.evt (F.ORYn_EVT_REV_S n) else s
  if rev ∨ woke then
    s1.emitFl 0x0F (oSrc n) x.t (x.fl back) (word (2 * b2n rev + 4 * b2n back)) (word (s1.oLast n)) (satWord v) 0
  else s1

/-- ORY_EDGE of the last validated edge (R183). -/
def State.oRecEdge (s : State) (n : Fin 4) (x : OryStamp) (info : Nat) (rs : Bool) : State :=
  if s.ron (F.ORYn_CTRL_REC_EDGE n) then
    s.emitFl 0x10 (oSrc n) x.t (x.fl s.ory[n].back) (word (s.oLast n)) (satWord (s.oSpeed n))
      (word (info % 256 + 256 * b2n s.ory[n].suspect + 512 * b2n rs)) 0
  else s

/-- Record a validated edge in direction `back`, `k` steps after the previous one. Position and cycle count have already been moved.
`den` is the steps of one cycle for the speed, `info` the k* of ORY_EDGE, `rs` its RESYNC bit. -/
def State.oEdge (s : State) (n : Fin 4) (x : OryStamp) (back : Bool) (k : Int) (span den info : Nat) (rs : Bool) : State :=
  let o := s.ory[n]
  let rev : Bool := back != o.back
  let ivals := if rev ∨ x.step ∨ o.ivals = [] then [(x.t, (0 : Int))] else ((x.t, k) :: o.ivals).take 1026
  let cnt := min span (ivals.length - 1)
  let speed : Int :=
    if rev then 0
    else if x.step then s.oSpeed n
    else if cnt = 0 then 0
    else speedWord ((ivals.take cnt).foldl (fun (a : Int) (y : Nat × Int) => a + y.2) 0).natAbs den (x.t - (ivals.getD cnt (x.t, 0)).1) back
  let base := s.oBase n o.cyc o.pos o.phi
  let s1 := s.modOry n (fun o => { o with
    back := back, still := false, ivals := ivals
    hist := (⟨base, x.t, speed, back, s.oNext n o.pos back speed⟩ :: o.hist).take 8 })
  (((s1.oMotion n x rev o.still (s.oSpeedIn n x.t)).oRecEdge n x info rs)).oBroadcast n x.due rs

/-- Move the position k steps in a direction, with the wrap into the cycle count (R157), and count steps for CAMTO and the index. -/
def State.oMove (s : State) (n : Fin 4) (k : Nat) (back : Bool) : State :=
  let N := s.oSteps n
  s.modOry n (fun o =>
    let p := if back then o.pos + N * (k / N + 1) - k else o.pos + k
    let wraps := p / N
    let borrow := k / N + 1
    { o with
      pos := p % N
      cyc := if back then (o.cyc + 256 * borrow + wraps - borrow) % 256 else (o.cyc + wraps) % 256
      camSteps := o.camSteps + k
      idxNet := o.idxNet.map (fun x => (x.1 + (if back then -(k : Int) else (k : Int)), x.2)) })

/-- Shift the angle bases of the history (R167, R174, R180). -/
def Orrery.shiftHist (o : Orrery) (d : Int) : Orrery :=
  { o with hist := o.hist.map (fun e => { e with base := (((e.base : Int) + d) % (2 ^ 32 : Nat)).toNat }) }

/-- The same of what the Orrery shows. -/
def OryView.shiftHist (v : OryView) (d : Int) : OryView :=
  { v with hist := v.hist.map (fun e => { e with base := (((e.base : Int) + d) % (2 ^ 32 : Nat)).toNat }) }

/-- Clear the history and return to acquisition (R165, R180). -/
def oClear (o : Orrery) : Orrery :=
  { o with hist := [], ivals := [], tooth := none, pLast := 0, kLast := 1, pPrev := 0, kPrev := 1, confGap := false,
           pw := none, pwRegs := [], pwWords := [], camWait := none, idxNet := none, bad := 0, suspect := false, camok := false, camSteps := 0, camOff := 0,
           camTold := false, pos := 0, phi := 0, qwait := none }

/-! ### Input stampers (R154, R155) -/

/-- The channel named by an input field, if any (R153). -/
def State.oInput (s : State) (n i : Nat) : Option (Fin 96) :=
  let v := match i with | 0 => s.rget (F.ORYn_IN_IN0 n) | 1 => s.rget (F.ORYn_IN_IN1 n) | _ => s.rget (F.ORYn_IN_IN2 n)
  if h : v < 96 then some ⟨v, h⟩ else none

/-- The tick in which what an edge brings has been broadcast (R156): FILT + 2 ns to the Orrery, 30 ns to validate it, 20 ns more. Mark: DESIGN CHOICE, log entry 90. -/
def State.oDue (s : State) (n i : Nat) : Nat :=
  s.spine.tick + 52 + (match s.oInput n i with | some c => s.rget (F.CHc_PIN_FILT c) | none => 0)

/-- Stamp an edge of input i at a position in the tick (R46, R154). -/
def State.oStamp (s : State) (n : Fin 4) (i : Fin 3) (pos : Nat) : OryStamp :=
  let (t, step) := match s.oInput n i with | some c => s.ballStamp c pos | none => s.stampAt pos
  ⟨t, step, s.ron F.SPN_STAT_COARSE, s.tickPos pos, s.oDue n i⟩

/-- The earliest stamp that an edge at an input of the Orrery can still get (R50, R55). -/
def State.oFloor (s : State) (n : Fin 4) : Int :=
  (List.range 3).foldl (fun (a : Int) i => match s.oInput n i with | some c => min a (s.edgeFloor c) | none => a) s.now

/-- The bank of an input is without supply: the input has no edges (R54, R182). -/
def State.oInputOff (s : State) (n i : Nat) : Bool := match s.oInput n i with | some c => s.banks[bankOf c].supply = 0 | none => false

/-- Levels at the inputs as the decoder can see them: those of a bank without supply stay. -/
def State.oSeenLvl (s : State) (n : Fin 4) (cur lvl : BitVec 3) : BitVec 3 :=
  (List.finRange 3).foldl (fun (a : BitVec 3) (i : Fin 3) =>
    if (cur ^^^ lvl).getLsbD i ∧ ¬ s.oInputOff n i then a ^^^ BitVec.ofNat 3 (2 ^ i.val) else a) cur

/-- An edge in the dead time of its stamper, which does not see it (R154). -/
def State.oDead (s : State) (n : Fin 4) (i : Fin 3) (x : OryStamp) : Bool :=
  match s.ory[n].stamp[i] with | some u => decide (x.at' < u + 256) | none => false

/-- An edge stamped less than 40 ns after the Orrery's previous accepted edge (R155). -/
def State.oClose (s : State) (n : Fin 4) (x : OryStamp) : Bool :=
  match s.ory[n].lastAcc with | some u => decide (x.t < u + 2560) | none => false

/-- A stamper's edge, with STEP on its first one after a thaw (R379). -/
def State.oMarked (s : State) (n : Fin 4) (i : Fin 3) (x : OryStamp) : OryStamp := { x with step := x.step || s.ory[n].marks.getLsbD i }

/-- A stamper has seen an edge. -/
def State.oStamped (s : State) (n : Fin 4) (i : Fin 3) (x : OryStamp) : State :=
  s.modOry n (fun o => { o with stamp := o.stamp.set i (some x.at'), marks := o.marks &&& ~~~(BitVec.ofNat 3 (2 ^ i.val)) })

/-- The Orrery has accepted an edge. -/
def State.oAccepted (s : State) (n : Fin 4) (x : OryStamp) : State :=
  s.modOry n (fun o => { o with lastAcc := some (max x.t (o.lastAcc.getD 0)) })

/-- The stampers take the level changes of a three-bit input, each unless its dead time hides it: the levels then decoded, and the
stamp of the first change taken (R154). -/
def State.oTakeLvl (s : State) (n : Fin 4) (cur lvl : BitVec 3) (mk : Fin 3 → OryStamp) : State × BitVec 3 × Option OryStamp :=
  (List.finRange 3).foldl (fun (r : State × BitVec 3 × Option OryStamp) (i : Fin 3) =>
    if (cur ^^^ lvl).getLsbD i ∧ ¬ s.oDead n i (mk i) then
      (r.1.oStamped n i (mk i), r.2.1 ^^^ BitVec.ofNat 3 (2 ^ i.val), r.2.2.or (some (s.oMarked n i (mk i))))
    else r) (s, cur, none)

/-- An edge rejected as early: counted, with the event bit (R155). -/
def State.oEarlyCnt (s : State) (n : Fin 4) : State := (s.rsat (F.ORYn_ERRCNT_EARLY n) 1).evt (F.ORYn_EVT_EARLY_S n)

/-- An edge rejected as early, with its fault (R155, R163, R165). -/
def State.oEarly (s : State) (n : Fin 4) (x : OryStamp) (info : Word) : State := (s.oEarlyCnt n).oFault n 1 x.t (x.fl s.ory[n].back) info

/-! ### Toothed wheels (R163 to R168) -/

/-- The predicted pitch period as a ratio (R163). -/
def State.oPitch (s : State) (n : Fin 4) : Nat × Nat :=
  let o := s.ory[n]
  if s.ron (F.ORYn_CTRL_ACC n) ∧ o.pPrev ≠ 0 then
    let a := o.pLast * o.kPrev
    let b := o.kLast * o.pPrev
    let (a, b) := if 4 * a < 3 * b then (3, 4) else if 1000 * a > 1333 * b then (1333, 1000) else (a, b)
    (o.pLast * a, o.kLast * b)
  else (o.pLast, o.kLast)

/-- Classes of a tooth (R163). -/
inductive ToothClass where
  | early | loss | spans (k : Nat)
  deriving DecidableEq, Repr

/-- The k from 1 to MISS + 1 that minimises |x/k − 1|, x = a/b, ties to the smaller (R163). -/
def bestSpan (a b miss : Nat) : Nat :=
  (List.range miss).foldl (fun (best i : Nat) =>
    let k : Nat := i + 2
    if ((a : Int) - (k * b : Nat)).natAbs * best < ((a : Int) - (best * b : Nat)).natAbs * k then k else best) 1

/-- Classify a period of P subs; with x × 256 for the fault record. -/
def State.oClassify (s : State) (n : Fin 4) (P : Nat) : ToothClass × Word :=
  let (pn, pd) := s.oPitch n
  let a := P * pd
  let b := pn
  let miss := s.oMiss n
  let lo := s.rget (F.ORYn_WHEEL_WLO n)
  let hi := s.rget (F.ORYn_WHEEL_WHI n)
  let k := bestSpan a b miss
  let x := word (a * 256 / b)
  if 32 * a < lo * b then (.early, x)
  else if 32 * a > hi * (miss + 1) * b ∨ 32 * a < lo * k * b ∨ 32 * a > hi * k * b then (.loss, x)
  else (.spans k, x)

/-- Accept a tooth as the start of a new period. -/
def State.oAccept (s : State) (n : Fin 4) (t P k : Nat) : State :=
  s.modOry n (fun o => { o with tooth := some t, pPrev := o.pLast, kPrev := o.kLast, pLast := P, kLast := k })

/-- The period up to a tooth counts for the prediction, unless its interval is discarded: with STEP, and at a reversal, the last period
stays; over a standstill there is none, and the next one sets it anew (R163, R168, R176). Mark: DEDUCED, log entry 91. -/
def State.oTimed (s : State) (n : Fin 4) (x : OryStamp) (P k : Nat) (back : Bool) : State :=
  let o := s.ory[n]
  if o.still then s.modOry n (fun o => { o with tooth := some x.t, pLast := 0, pPrev := 0 })
  else if x.step ∨ back ≠ o.back ∨ o.tooth = none then s.modOry n (fun o => { o with tooth := some x.t })
  else s.oAccept n x.t P k

def State.oWheelSpan (s : State) (n : Fin 4) : Nat := s.rget (F.ORYn_MOTION_SPAN n)

/-- Position 0 of turn 0 is reached (forward), or the last tooth before the gap (backward): sync is declared (R164). -/
def State.oAcquired (s : State) (n : Fin 4) (x : OryStamp) (back : Bool) (pos k : Nat) : State :=
  let s1 := s.modOry n (fun o => { o with pos := pos, phi := 0, cyc := 0, confGap := false, camSteps := 0, camOff := 0, camTold := false })
  let s2 := s1.oEdge n x back k (s.oWheelSpan n) (s.oSteps n) k false
  (s2.oSync n (if s.ron (F.ORYn_CTRL_TPC n) then .turn else .full) 0 x.t (x.fl back)).oAmend n

/-- A tooth in ACQ ends a standstill and can be a reversal (R176, R177). -/
def State.oMoving (s : State) (n : Fin 4) (x : OryStamp) (back : Bool) : State :=
  let o := s.ory[n]
  (s.modOry n (fun o => { o with back := back, still := false })).oMotion n x (back != o.back) o.still (s.oSpeedIn n x.t)

/-- What a tooth in ACQ brings the search for the gap (R164): the first one a time, the second one a period. An interval that R176
discards restarts step 4. -/
def State.oSeek (s : State) (n : Fin 4) (x : OryStamp) (back rev : Bool) : State :=
  let o := s.ory[n]
  let t := x.t
  let go (s : State) (f : Orrery → Orrery) : State := (s.modOry n (fun o => { f o with tooth := some t })).oPush n x.due false false
  match o.tooth with
  | none => go s (fun o => { o with pLast := 0, pPrev := 0, ivals := [(t, 0)] })
  | some t0 =>
    let P := t - t0
    let seed (o : Orrery) : Orrery := { o with pLast := P, kLast := 1, pPrev := 0, confGap := false, ivals := [(t, 1), (t0, 0)] }
    if x.step ∨ rev then go s (fun o => { o with confGap := false, ivals := [(t, 0)] })
    else if o.pLast = 0 then go s seed
    else match (s.oClassify n P).1 with
    | .early => go s seed
    | .loss => go s (fun o => { o with pLast := 0, pPrev := 0, confGap := false, ivals := [(t, 0)] })
    | .spans k =>
      let gap := s.oMiss n + 1
      let s1 := s.oAccept n t P k
      let ivals := ((t, (k : Int)) :: o.ivals).take 1026
      if o.confGap ∧ k = 1 then
        s1.oAcquired n x back (if back then s.oNpos n - s.oMiss n - 2 else 1) k
      else if k = gap then
        if s.ron (F.ORYn_CTRL_CONF n) then go s1 (fun o => { o with confGap := true, ivals := ivals })
        else s1.oAcquired n x back (if back then s.oNpos n - s.oMiss n - 1 else 0) k
      else go s1 (fun o => { o with confGap := false, ivals := ivals })

/-- A tooth in ACQ (R164, R177). -/
def State.oToothAcq (s : State) (n : Fin 4) (x : OryStamp) (back : Bool) : State :=
  (s.oMoving n x back).oSeek n x back (back != s.ory[n].back)

/-- Advance over k pitches and record the edge. -/
def State.oAdvance (s : State) (n : Fin 4) (x : OryStamp) (P k : Nat) (back : Bool) : State :=
  ((s.oTimed n x P k back).oMove n k back).oEdge n x back k (s.oWheelSpan n) (s.oSteps n) k false

/-- Teeth counted as missing (R165). -/
def State.oMissing (s : State) (n : Fin 4) (lost kind : Nat) (x : OryStamp) (back : Bool) (info : Word) : State :=
  ((s.rsat (F.ORYn_ERRCNT_MISSING n) lost).evt (F.ORYn_EVT_MISSING_S n)).oFault n kind x.t (x.fl back) info

/-- A gap found early: the gap edge takes position 0 of the following turn (R166); going backward, the last tooth before the
gap of the preceding turn. -/
def State.oGapEarly (s : State) (n : Fin 4) (x : OryStamp) (P k : Nat) (back : Bool) : State :=
  let N := s.oSteps n
  let npos := s.oNpos n
  let s1 := (s.oTimed n x P k back).oMove n k back
  let q := s1.ory[n].pos
  let counted := s1.oBase n s1.ory[n].cyc q 0
  let target := if back then ((q / npos) * npos + N - s.oMiss n - 1) % N else ((q / npos + 1) * npos) % N
  let (d, after, cyc) := s1.oShift n counted target 0
  let s2 := s1.modOry n (fun o => { o with pos := target, cyc := cyc })
  let s3 := s2.oResync n 1 x.t (x.fl back) d (stepShift d q target N) counted after
  s3.oEdge n x back k (s.oWheelSpan n) N k true

/-- A tooth whose direction is known, in any state (R163 to R166). An interval that carries STEP, and one over a standstill, is not
classified: k* = m (R168, R176). Mark: DEDUCED, log entry 91. -/
def State.oTooth (s : State) (n : Fin 4) (x : OryStamp) (back : Bool) : State :=
  let o := s.ory[n]
  if o.sync = .acq then s.oToothAcq n x back
  else
    let m := s.oSpan n o.pos back
    let gap := s.oMiss n + 1
    let P := x.t - o.tooth.getD x.t
    let (cls, r) := if x.step ∨ o.still ∨ o.tooth = none ∨ o.pLast = 0 then (.spans m, (0 : Word)) else s.oClassify n P
    match cls with
    | .early => s.oEarly n x r
    | .loss =>
      let s1 := (((s.rsat (F.ORYn_ERRCNT_LOSS n) 1).evt (F.ORYn_EVT_LOSS_S n)).oFault n 3 x.t (x.fl back) r).oMoving n x back
      let s2 := s1.oSync n .acq 4 x.t (x.fl back)
      ((s2.modOry n oClear).modOry n (fun o => { o with tooth := some x.t, ivals := [(x.t, 0)] })).oPush n x.due false false
    | .spans k =>
      if k = m then
        let s1 := if m = gap then s.modOry n (fun o => { o with suspect := false }) else s
        s1.oAdvance n x P k back
      else if m = 1 ∧ k < gap then
        (s.oMissing n (k - 1) 2 x back r).oAdvance n x P k back
      else if m = 1 then
        if s.ron (F.ORYn_CTRL_GAPCHK n) ∧ ¬ o.suspect then
          ((s.oMissing n (k - 1) 2 x back r).modOry n (fun o => { o with suspect := true })).oAdvance n x P k back
        else s.oGapEarly n x P k back
      else
        ((s.oMissing n 1 4 x back r).modOry n (fun o => { o with suspect := true })).oAdvance n x P k back

/-- Do something under older values of registers of the Orrery block and of user words, and put the present ones back (R180). Mark: DEDUCED, log entry 111. -/
def State.underOld (s : State) (rs ws : List (Nat × Word)) (f : State → State) : State :=
  let put := fun (a : State) (l : List (Nat × Word)) => l.foldl (fun (a : State) e => if 0x10000 ≤ e.1 ∧ e.1 < 0x14000 then a.setReg e.1 e.2 else a) a
  let t := f { put s rs with calU := ws.foldl (fun (u : Tbl Word) e => tblSet calUDefault u e.1 e.2) s.calU }
  { put t (rs.map (fun e => (e.1, s.reg e.1))) with calU := s.calU }

/-- Before a strobe changes registers and user words of an Orrery, the tooth that waits for its pulse width keeps the values under which it is
handled (R180). Mark: DEDUCED, log entry 111. -/
def State.oKeepOld (s : State) (n : Fin 4) (rs ws : List (Nat × Word)) : State :=
  if s.ory[n].pw = none then s
  else
    let fresh := fun (l old : List (Nat × Word)) => l.filter (fun e => old.all (fun x => x.1 != e.1))
    s.modOry n (fun o => { o with
      pwRegs := o.pwRegs ++ (fresh rs o.pwRegs).map (fun e => (e.1, s.reg e.1))
      pwWords := o.pwWords ++ (fresh ws o.pwWords).map (fun e => (e.1, s.calUser e.1)) })

/-- Decide a tooth that waits for its pulse width (R168), under the configuration of its tick (R180). -/
def State.oPwDecide (s : State) (n : Fin 4) (back : Bool) (due : Nat) : State :=
  match s.ory[n].pw with
  | none => s
  | some x =>
    let o := s.ory[n]
    (s.modOry n (fun o => { o with pw := none, pwRegs := [], pwWords := [] })).underOld o.pwRegs o.pwWords
      (fun s => s.oTooth n { x with due := due } back)

/-- The end of a tooth pulse decides its direction, if the THR time has not (R168). -/
def State.oPwEnd (s : State) (n : Fin 4) (x : OryStamp) : State :=
  match s.ory[n].pw with
  | none => s
  | some y => s.oPwDecide n (decide (y.t + s.rget (F.ORYn_DIRPW_THR n) * 64 ≤ x.t)) x.due

/-- A tooth that the 40 ns limit rejects: its ratio as the fault record carries it (R155, R163). -/
def State.oCloseRatio (s : State) (n : Fin 4) (x : OryStamp) : Word :=
  match s.ory[n].tooth with
  | some t0 => if s.ory[n].pLast = 0 then 0 else (s.oClassify n (x.t - t0)).2
  | none => 0

/-- An active tooth edge at IN0 of a wheel (R154, R155, R163, R168). -/
def State.oWheelEdge (s : State) (n : Fin 4) (x0 : OryStamp) : State :=
  if s.oType n = 0 ∧ s.ory[n].sync ≠ .off ∧ ¬ s.oDead n 0 x0 then
    let x := s.oMarked n 0 x0
    let s1 := (s.oStamped n 0 x).oPwEnd n x
    if s1.oClose n x then s1.oEarly n x (s1.oCloseRatio n x)
    else
      let s2 := (s1.oAccepted n x).modOry n (fun o => { o with toothTick := some s.spine.tick })
      match s.rget (F.ORYn_CTRL_DIRMODE n) with
      | 1 => s2.modOry n (fun o => { o with pw := some x })
      | 2 => s2.oTooth n x (match s.oInput n 1 with | some c => s.ch[c].inLvl | none => false)
      | _ => s2.oTooth n x false
  else s

/-- The end of a tooth pulse at IN0 of a wheel (R154, R168). -/
def State.oWheelEnd (s : State) (n : Fin 4) (x : OryStamp) : State :=
  if s.oDead n 0 x then s else (s.oStamped n 0 x).oPwEnd n x

/-- Whether an angle lies in the cam window, taken forward from LO to HI and wrapping through 0 (R167). -/
def State.oCamIn (s : State) (n a : Nat) : Bool :=
  let lo := s.rget (F.ORYn_CAM_LO_LO n)
  let hi := s.rget (F.ORYn_CAM_HI_HI n)
  if lo ≤ hi then lo ≤ a && a ≤ hi else lo ≤ a || a ≤ hi

/-- What the estimate at t adds to the last validated edge, in au (R160). -/
def State.oAhead (s : State) (n : Fin 4) (t : Nat) : Nat :=
  match s.ory[n].hist with | e :: _ => s.oDelta n s.ory[n].still e t | [] => 0

/-- An accepted cam edge, `off` au behind the last step. -/
def oCamOk (off : Nat) (o : Orrery) : Orrery := { o with camok := true, camSteps := 0, camOff := off, camTold := false }

/-- Shift the estimate by a turn: position, cycle count and the bases of the history (R167). -/
def State.oTurnBy (s : State) (n : Fin 4) (pos cyc before after : Nat) : State :=
  s.modOry n (fun o => { o.shiftHist ((after : Int) - before) with pos := pos, cyc := cyc })

/-- A cam edge is judged (R167). -/
def State.oCamJudge (s : State) (n : Fin 4) (x : OryStamp) : State :=
  match s.oEst n x.t with
  | none => s
  | some est =>
    let fl := x.fl s.ory[n].back
    let full := (s.oZero n est) % 2 ^ 24
    let a := full % 2 ^ 23
    let in0 := s.oCamIn n a
    let in1 := s.oCamIn n (a + 2 ^ 23)
    let off := s.oAhead n x.t
    if in0 = in1 then ((s.rsat (F.ORYn_ERRCNT2_CAM n) 1).evt (F.ORYn_EVT_CAM_S n)).oFault n 7 x.t fl 0
    else
      let matches_ := decide (full < 2 ^ 23) = in0
      let o := s.ory[n]
      let npos := s.oNpos n
      let flipped := (o.pos + npos) % (2 * npos)
      let before := s.oBase n o.cyc o.pos 0
      if o.sync = .turn then
        let pos := if matches_ then o.pos else flipped
        let s1 := (s.oTurnBy n pos 0 before (s.oBase n 0 pos 0)).modOry n (oCamOk off)
        (s1.oSync n .full 0 x.t fl).oBroadcast n x.due false
      else if matches_ then (s.modOry n (oCamOk off)).oPush n x.due false false
      else
        let after := (before + 2 ^ 32 - 2 ^ 23) % 2 ^ 32
        let cyc := ((after + 2 ^ 32 - s.oAngle n flipped 0) / 2 ^ 24) % 256
        let s1 := (s.oTurnBy n flipped cyc before after).modOry n (oCamOk off)
        (s1.oResync n 2 x.t fl (-8388608) (-(npos : Int)) before after).oBroadcast n x.due true

/-- A cam edge is evaluated (R167): on a wheel of two turns, in TURN and FULL. -/
def State.oCamTakes (s : State) (n : Fin 4) : Bool :=
  s.oType n = 0 && s.ron (F.ORYn_CTRL_TPC n) && (s.ory[n].sync = .turn || s.ory[n].sync = .full)

/-- An active cam edge (R154, R167): it is judged at the end of its tick, behind a tooth of the tick (R182). -/
def State.oCamEdge (s : State) (n : Fin 4) (x0 : OryStamp) : State :=
  if s.oType n = 0 ∧ s.ory[n].sync ≠ .off ∧ ¬ s.oDead n 2 x0 then
    let x := s.oMarked n 2 x0
    let s1 := s.oStamped n 2 x
    if s.oCamTakes n then s1.modOry n (fun o => { o with camWait := some (x, s.oClose n x) }) else s1
  else s

/-- The cam edge of a tick is judged on the result of the tick's tooth, which the 40 ns limit does not set against it (R155, R182). -/
def State.oCamSettle (s : State) (n : Fin 4) : State :=
  match s.ory[n].camWait with
  | none => s
  | some (x, close) =>
    let s1 := s.modOry n (fun o => { o with camWait := none })
    if ¬ s.oCamTakes n then s1
    else if close ∧ s.ory[n].toothTick ≠ some s.spine.tick then s1.oEarly n x 0
    else (s1.oAccepted n x).oCamJudge n x

/-! ### Hall sensors (R169) -/

/-- The sector of a legal Hall state. -/
def hallSector (v : Nat) : Option Nat :=
  match v with | 1 => some 0 | 3 => some 1 | 2 => some 2 | 6 => some 3 | 4 => some 4 | 5 => some 5 | _ => none

/-- An illegal change or transition: SUSPECT, event bit, count and record (R169, R170). -/
def State.oIllegal (s : State) (n : Fin 4) (x : OryStamp) : State :=
  (((s.modOry n (fun o => { o with suspect := true })).rsat (F.ORYn_ERRCNT2_ILLEGAL n) 1).evt (F.ORYn_EVT_ILLEGAL_S n)).oFault n 5 x.t
    (x.fl s.ory[n].back) 0

/-- The centre of a Hall sector, as an edge of the history (R169). -/
def hallCentre (k t : Nat) (back : Bool) : OryEdge := ⟨(2 * k + 1) * 2 ^ 24 / 12, t, 0, back, 2 ^ 24 / 12⟩

/-- The Hall state has become one of a sector, by an illegal change: the position is set to the boundary that it implies (R169). -/
def State.oHallPlace (s : State) (n : Fin 4) (x : OryStamp) (k : Nat) : State :=
  let o := s.ory[n]
  let before := s.oBase n o.cyc o.pos 0
  let (d, after, cyc) := s.oShift n before k 0
  let s1 := (s.modOry n (fun o => { o with
    pos := k, cyc := cyc
    hist := match o.hist with | e :: h => { e with base := after } :: h | [] => [] })).oIllegal n x
  if d = 0 then s1
  else (s1.oResync n 4 x.t (x.fl o.back) d (stepShift d o.pos k 6) before after).modOry n (fun o => { o with suspect := true })

/-- A change of the Hall state (R154, R155, R169). -/
def State.oHall (s : State) (n : Fin 4) (lvl : BitVec 3) (mk : Fin 3 → OryStamp) : State :=
  let o := s.ory[n]
  if s.oType n = 1 ∧ o.sync ≠ .off ∧ lvl ≠ o.lvl then
    match s.oTakeLvl n o.lvl lvl mk with
    | (_, _, none) => s
    | (s0, l, some x) =>
      let close := s.oClose n x
      let s1 := s0.modOry n (fun o => { o with lvl := l })
      let s2 := if close then s1.oEarlyCnt n else s1.oAccepted n x
      match hallSector l.toNat with
      | none => (s2.oIllegal n x).oPush n x.due false false
      | some k =>
        let old := hallSector o.lvl.toNat
        let fwd : Bool := old = some ((k + 5) % 6)
        let bwd : Bool := old = some ((k + 1) % 6)
        if !close && (fwd || bwd) && (o.sync = .rel || o.sync = .full) then
          let s3 := (s2.oMove n 1 bwd).modOry n (fun o => { o with suspect := false })
          let s4 := s3.oEdge n x bwd 1 (s.oWheelSpan n) 6 1 false
          if o.sync = .rel then (s4.oSync n .full 0 x.t (x.fl bwd)).oAmend n else s4
        else if o.sync = .acq then
          -- the first legal state after an illegal one at enable: REL at the centre of that sector, unless the 40 ns limit rejects it
          if close then (s2.oIllegal n x).oPush n x.due false false
          else ((s2.modOry n (fun o => { o with pos := k, hist := [hallCentre k x.t o.back] })).oSync n .rel 0 x.t (x.fl o.back)).oPush n
            x.due false false
        else
          let s3 := s2.oHallPlace n x k
          s3.oPush n x.due false (s3.ory[n].pos != o.pos)
  else s

/-! ### Quadrature encoders (R170, R171) -/

/-- The place of a quadrature state in the forward sequence 0, 1, 3, 2. -/
def quadPlace (v : Nat) : Nat := match v with | 0 => 0 | 1 => 1 | 3 => 2 | _ => 3

/-- The check at an index crossing (R171, R174). The crossing lies `off` steps ahead of the present position, which becomes `pos0`; the
net steps are counted from crossing to crossing, `L` of them to a turn. Whether it was a resync. -/
def State.oIndex (s : State) (n : Fin 4) (t fl : Nat) (back : Bool) (L pos0 : Nat) (off : Int) : State × Bool :=
  let o := s.ory[n]
  let before := s.oBase n o.cyc o.pos o.phi
  let (d, after, cyc) := s.oShift n before pos0 o.phi
  let place := fun (s : State) => s.modOry n (fun o => { o with pos := pos0, cyc := cyc, suspect := false, idxNet := some (-off, back) })
  let shifted := fun (s : State) => (place s).oResync n 3 t fl d (stepShift d o.pos pos0 L) before after
  if o.sync = .rel then ((shifted s).oSync n .full 0 t fl, true)
  else
    match o.idxNet with
    | none => (place s, false)
    | some (net0, prevBack) =>
      let net := net0 + off
      let want : Int := if back = prevBack then (if back then -(L : Int) else (L : Int)) else 0
      if net = want then (place s, false)
      else
        let s1 := (((s.rput (F.ORYn_IDXDIFF_DIFF n) (iword (net - want)).toNat).rsat (F.ORYn_ERRCNT2_INDEX n) 1).evt
          (F.ORYn_EVT_INDEX_S n)).oFault n 6 t fl (iword (net - want))
        (shifted s1, true)

/-- A step of the count, with the index boundary (R170, R171): into state IDXQ forward, out of it backward, while Z is active. -/
def State.oQuadStep (s : State) (n : Fin 4) (a b : Nat) (z back : Bool) (x : OryStamp) : State :=
  let crossing := z && (if back then a else b) == s.rget (F.ORYn_LINES_IDXQ n)
  let L := s.oSteps n
  let s1 := s.oMove n 1 back
  let (s2, rs) := if crossing then s1.oIndex n x.t (x.fl back) back L 0 (b2n back) else (s1, false)
  s2.oEdge n x back 1 (s.oWheelSpan n) L 1 rs

/-- The index input is at its active level (R153, R171). -/
def State.oZ (s : State) (n : Fin 4) (lvl : BitVec 3) : Bool := (s.oInput n 2).isSome && lvl.getLsbD 2 != s.ron (F.ORYn_IN_POL2 n)

/-- An illegal transition: the levels are taken, the count stays (R155, R170). -/
def State.oQuadIllegal (s : State) (n : Fin 4) (lvl : BitVec 3) (x : OryStamp) (early : Bool) : State :=
  let s1 := s.modOry n (fun o => { o with qwait := none, lvl := lvl })
  ((if early then s1.oEarlyCnt n else s1).oIllegal n x).oPush n x.due false false

/-- A transition that the 40 ns limit rejects: the levels are taken, the count stays (R155). -/
def State.oQuadEarly (s : State) (n : Fin 4) (lvl : BitVec 3) (x : OryStamp) : State :=
  ((s.modOry n (fun o => { o with qwait := none, lvl := lvl, suspect := true })).oEarly n x 0).oPush n x.due false false

/-- A transition that has stayed alone for 2.0 ns is decoded (R170). -/
def State.oQuadSettle (s : State) (n : Fin 4) : State :=
  match s.ory[n].qwait with
  | none => s
  | some w =>
    let a := s.ory[n].lvl.toNat % 4
    let b := w.lvl.toNat % 4
    if w.early then s.oQuadEarly n w.lvl w.x
    else
      (s.modOry n (fun o => { o with qwait := none, lvl := w.lvl })).oQuadStep n a b w.z
        (decide ((quadPlace b + 4 - quadPlace a) % 4 = 3)) w.x

/-- At the start of a tick: no edge within 2.0 ns of the waiting transition can follow, or the 30 ns of R156 have passed. Mark: DEDUCED, log entry 92. -/
def State.oQuadDue (s : State) (n : Fin 4) : State :=
  match s.ory[n].qwait with
  | some w => if (w.x.t : Int) + 128 ≤ s.oFloor n ∨ w.x.at' + 1920 ≤ s.tickPos 0 then s.oQuadSettle n else s
  | none => s

/-- A transition arrives at a decoder at which none waits: one on both lines at once is illegal, one of Z moves no count, and one on one
line waits 2.0 ns for the other (R155, R170). -/
def State.oQuadArrive (s : State) (n : Fin 4) (lvl : BitVec 3) (x : OryStamp) : State :=
  let a := s.ory[n].lvl.toNat % 4
  let b := lvl.toNat % 4
  let close := s.oClose n x
  let s1 := if close then s else s.oAccepted n x
  if (quadPlace b + 4 - quadPlace a) % 4 = 2 then s1.oQuadIllegal n lvl x close
  else if a = b then (if close then s1.oQuadEarly n lvl x else s1.modOry n (fun o => { o with lvl := lvl }))
  else s1.modOry n (fun o => { o with qwait := some ⟨lvl, s.oZ n lvl, x, close⟩ })

/-- An edge of Z while a transition waits (R155, R171): its level is taken, the transition keeps its own; the 40 ns limit can reject it. -/
def State.oQuadIdx (s : State) (n : Fin 4) (lvl : BitVec 3) (w : QuadEdge) (x : OryStamp) : State :=
  let s1 := s.modOry n (fun o => { o with qwait := some { w with lvl := lvl } })
  if s.oClose n x then ((s1.modOry n (fun o => { o with suspect := true })).oEarly n x 0).oPush n x.due false false
  else s1.oAccepted n x

/-- The levels that the decoder goes by: with a transition that waits. -/
def State.oQuadLvl (s : State) (n : Fin 4) : BitVec 3 := match s.ory[n].qwait with | some w => w.lvl | none => s.ory[n].lvl

/-- A change of the quadrature state: bits A, B, Z (R154, R155, R170, R171). Edges on A and B stamped less than 2.0 ns apart are one illegal
transition. Mark: DEDUCED, log entry 92. -/
def State.oQuad (s : State) (n : Fin 4) (lvl : BitVec 3) (mk : Fin 3 → OryStamp) : State :=
  let o := s.ory[n]
  let cur := s.oQuadLvl n
  if s.oType n = 2 ∧ o.sync ≠ .off ∧ lvl ≠ cur then
    match s.oTakeLvl n cur lvl mk with
    | (_, _, none) => s
    | (s0, l, some x) =>
      match o.qwait with
      | none => s0.oQuadArrive n l x
      | some w =>
        if (l ^^^ w.lvl).toNat % 4 = 0 then s0.oQuadIdx n l w x
        else if ((x.t : Int) - w.x.t).natAbs < 128 ∧ (l ^^^ o.lvl).toNat % 4 = 3 then s0.oQuadIllegal n l w.x w.early
        else (s0.oQuadSettle n).oQuadArrive n l x
  else s

/-! ### Sine/cosine tracks (R172 to R175) -/

/-- Arctangents of 2^-i in units of 2^-32 turn, for the rotation below. -/
def atanTab : List Nat :=
  [536870912, 316933406, 167458907, 85004756, 42667331, 21354465, 10679838, 5340245, 2670163, 1335087, 667544, 333772,
   166886, 83443, 41722, 20861, 10430, 5215, 2608, 1304, 652, 326, 163, 81]

/-- The angle of (x, y) with x > 0, in units of 2^-32 turn, by successive rotations. -/
def rotAngle (x y : Int) : Int :=
  ((List.zip atanTab (List.range 24)).foldl (fun (st : Int × Int × Int) (p : Nat × Nat) =>
    let (x, y, z) := st
    let k : Int := 2 ^ p.2
    if y < 0 then (x - y / k, y + x / k, z - p.1) else (x + y / k, y - x / k, z + p.1))
    (x * 2 ^ 32, y * 2 ^ 32, 0)).2.2

/-- The phase atan2(y, x) quantised to 12 bits, 0 where y = 0 and x > 0 (R173). -/
def phase12 (y x : Int) : Nat :=
  let z : Int :=
    if y = 0 then (if x < 0 then 2 ^ 31 else 0)
    else if x = 0 then (if y > 0 then 2 ^ 30 else -(2 ^ 30))
    else if x > 0 then rotAngle x y
    else 2 ^ 31 + rotAngle (-x) (-y)
  (((z + 2 ^ 19) / 2 ^ 20) % 4096).toNat

/-- Lose the signal after 64 bad pairs (R172). -/
def State.oBadPair (s : State) (n : Fin 4) (x : OryStamp) (ampl : Nat) : State :=
  let fl := x.fl s.ory[n].back
  let s1 := ((s.rsat (F.ORYn_ERRCNT2_SIGNAL n) 1).evt (F.ORYn_EVT_SIGNAL_S n)).oFault n 9 x.t fl (word ampl)
  let s2 := s1.modOry n (fun o => { o with bad := o.bad + 1 })
  if s2.ory[n].bad ≥ 64 ∧ s2.ory[n].sync ≠ .acq then ((s2.modOry n oClear).oSync n .acq 5 x.t fl).oPush n x.due false false else s2

/-- A valid pair of phase φ (R173 to R175). -/
def State.oGoodPair (s : State) (n : Fin 4) (x : OryStamp) (phi : Nat) : State :=
  let o := s.ory[n]
  let lines := s.oSteps n
  if o.sync = .acq then
    let s1 := s.modOry n (fun o => { oClear o with phi := phi, unwrapped := 0, anchor := 0, anchorT := x.t, furthest := 0, cyc := 0 })
    let s2 := s1.oEdge n x o.back 0 1 (4096 * lines) 1 false
    (s2.oSync n (if lines = 1 then .full else .rel) 0 x.t (x.fl o.back)).oAmend n
  else
    let d := halfRange ((phi : Int) - o.phi) 4096
    let fast := d.natAbs > 1536
    let lineUp := d ≥ 0 ∧ phi < o.phi
    let lineDn := d < 0 ∧ phi > o.phi
    let s1 := if lineUp then s.oMove n 1 false else if lineDn then s.oMove n 1 true else s
    let unw := o.unwrapped + d
    let hyst : Nat := s.rget (F.ORYn_MOTION_HYST n)
    let leaves : Bool := decide ((unw - o.anchor).natAbs > hyst)
    let rev : Bool := !o.still && decide (if o.back then unw - o.furthest > hyst else o.furthest - unw > hyst)
    let back := if o.still && leaves then decide (unw < o.anchor) else if rev then !o.back else o.back
    let s2 := s1.modOry n (fun o => { o with phi := phi, unwrapped := unw, bad := 0, suspect := o.suspect || fast })
    let s3 := if fast then ((s2.rsat (F.ORYn_ERRCNT2_SIGNAL n) 1).evt (F.ORYn_EVT_SIGNAL_S n)).oFault n 10 x.t (x.fl back) 0 else s2
    let s4 := if leaves then s3.modOry n (fun o => { o with anchor := unw, anchorT := x.t }) else s3
    let span := 2 ^ min (s.rget (F.ORYn_MOTION_SPAN n)) 10
    if o.still then
      if leaves then (s4.modOry n (fun o => { o with ivals := [], furthest := unw })).oEdge n x back d span (4096 * lines) 1 false
      else
        -- a sample inside the band at standstill: validated, recorded and broadcast with speed 0
        let base := s4.oBase n s4.ory[n].cyc s4.ory[n].pos phi
        ((s4.modOry n (fun o => { o with hist := (⟨base, x.t, 0, o.back, 0⟩ :: o.hist).take 8 })).oRecEdge n x 1 false).oBroadcast n x.due false
    else
      let s5 := s4.modOry n (fun o => { o with
        furthest := if rev then unw else if o.back then min o.furthest unw else max o.furthest unw })
      s5.oEdge n x back d span (4096 * lines) 1 false

/-- The sample instant of the present tick: a whole microsecond plus PH ns (R172). -/
def State.oSampleAt (s : State) (n : Fin 4) : Option Nat :=
  let b := s.now + (((s.rget (F.ORYn_SC_CFG_PH n) * 64 : Nat) - (s.now : Int)) % 64000).toNat
  if s.reaches b then some b else none

/-- A sampled pair (R172, R178). Without VDDA every pair lies outside the amplitude window (R353). A pair is validated 1,200 ns after its
instant, and broadcast 20 ns later (R156). -/
def State.oSincos (s : State) (n : Fin 4) (rawS rawC : BitVec 14) : State :=
  match s.oSampleAt n with
  | none => s
  | some t =>
    if s.oType n = 3 ∧ s.ory[n].sync ≠ .off then
      let x : OryStamp := ⟨t, (s.stampAt (t - s.now)).2, s.ron F.SPN_STAT_COARSE, s.tickPos (t - s.now), s.spine.tick + 1220⟩
      let q := 0xD0 + 8 * n.val
      let sc := s.correct rawS.toInt q (q + 1)
      let c0 := s.correct rawC.toInt (q + 2) (q + 3)
      let cc := c0 + sc * signed (s.calUser (q + 4)).toNat 16 / 2 ^ 15
      let sq := (sc * sc + cc * cc).toNat
      let ampl := min (Nat.sqrt sq) 65535
      let lo := s.rget (F.ORYn_SC_AMP_AMIN n)
      let hi := s.rget (F.ORYn_SC_AMP_AMAX n)
      let good := s.ron F.PW_STAT_VDDA_OK ∧ lo * lo ≤ sq ∧ sq ≤ hi * hi
      let s0 := if (s.calE q).2 ∨ (s.calE (q + 1)).2 ∨ (s.calE (q + 2)).2 ∨ (s.calE (q + 3)).2
        then s.evt (F.ORYn_EVT_CFG_ERR_S n) else s
      let s1 := s0.modOry n (fun o => { o with rawS := rawS, rawC := rawC, ampl := ampl })
      let s2 := if good then s1.oGoodPair n x (phase12 sc cc) else s1.oBadPair n x ampl
      if s.ron (F.ORYn_SC_CFG_LOG n) then
        let ang := if s2.syncValid n s2.ory[n].sync then (s2.oEst n t).map (s2.oZero n) else none
        s2.sbufPut ⟨2 + n.val, by omega⟩ t x.coarse (word (tNs t))
          (word (128 * b2n (!decide good) + 256 * b2n ang.isSome + 65536 * (tNs t / 2 ^ 32 % 256)))
          (word ((rawS.toInt % 65536).toNat + 65536 * (rawC.toInt % 65536).toNat)) (word (ang.getD 0))
      else s2
    else s

/-- How many lines the line boundary nearest to the estimate at t lies ahead of the line of the last sample (R174). -/
def State.oNearLine (s : State) (n : Fin 4) (t : Nat) : Int :=
  let o := s.ory[n]
  let est := (s.oEst n t).getD (s.oBase n o.cyc o.pos o.phi)
  (2 * halfRange ((est : Int) - s.oBase n o.cyc o.pos 0) (2 ^ 32) * s.oSteps n + 2 ^ 24) / 2 ^ 25

/-- An active marker edge at IN2 of SINCOS (R174): the boundary nearest to the estimate at the edge becomes line 0. -/
def State.oMarker (s : State) (n : Fin 4) (x0 : OryStamp) : State :=
  let o := s.ory[n]
  if s.oType n = 3 ∧ o.sync ≠ .off ∧ ¬ s.oDead n 2 x0 then
    let x := s.oMarked n 2 x0
    let s1 := s.oStamped n 2 x
    if o.sync ≠ .rel ∧ o.sync ≠ .full then s1
    else if s.oClose n x then s1.oEarly n x 0
    else
      let lines := s.oSteps n
      let off := s.oNearLine n x.t
      let pos0 := (-off % (lines : Int)).toNat
      let before := s.oBase n o.cyc o.pos o.phi
      let (s2, rs) := (s1.oAccepted n x).oIndex n x.t (x.fl o.back) o.back lines pos0 off
      let after := s2.oBase n s2.ory[n].cyc s2.ory[n].pos o.phi
      (s2.modOry n (fun o => o.shiftHist ((after : Int) - before))).oBroadcast n x.due rs
  else s

/-! ### Inputs, standstill, configuration and commands -/

/-- A transition at an input of an Orrery to a level (R153, R154): every transition is stamped, an active one goes to the decoder. -/
def State.oInputOf (s : State) (n : Fin 4) (c : Fin 96) (level : Bool) (mk : Fin 3 → OryStamp) : State :=
  let names := fun (i : Nat) => s.oInput n i = some c
  let stampOnly (s : State) (i : Fin 3) : State := if s.oDead n i (mk i) then s else s.oStamped n i (mk i)
  let active0 := level = !s.ron (F.ORYn_IN_POL0 n)
  let active2 := level = !s.ron (F.ORYn_IN_POL2 n)
  match s.oType n with
  | 0 =>
    let s1 := if names 0 then (if active0 then s.oWheelEdge n (mk 0) else s.oWheelEnd n (mk 0)) else s
    let s2 := if names 1 then stampOnly s1 1 else s1
    if names 2 then (if active2 then s2.oCamEdge n (mk 2) else stampOnly s2 2) else s2
  | 3 => if names 2 then (if active2 then s.oMarker n (mk 2) else stampOnly s 2) else s
  | ty =>
    let cur := s.oQuadLvl n
    let bit := fun (i : Nat) => if names i then level else nbit cur.toNat i
    let lvl := BitVec.ofNat 3 (b2n (bit 0) + 2 * b2n (bit 1) + 4 * b2n (bit 2))
    if ty = 1 then s.oHall n lvl mk else s.oQuad n lvl mk

/-- An accepted transition of a channel, as the channel's input path stamped it, reaches the Orreries that name the channel (R153). In
IDLE they take no part (R354). Mark: DESIGN CHOICE, log entry 44. -/
def State.oInputEdge (s : State) (c : Fin 96) (level : Bool) (t : Nat) (step : Bool) (at' : Nat) : State :=
  if s.rget F.PW_STAT_STATE = 2 then s
  else
    (List.finRange 4).foldl (fun s (n : Fin 4) =>
      if s.ory[n].sync = .off then s else s.oInputOf n c level (fun i => ⟨t, step, s.ron F.SPN_STAT_COARSE, at', s.oDue n i.val⟩)) s

/-- The time of the last edge of an Orrery: its last tooth, its last edge or sample out of the band (R175, R177). -/
def State.oLastT (s : State) (n : Fin 4) : Option Nat :=
  let o := s.ory[n]
  if s.oType n = 3 then (match o.hist with | _ :: _ => some o.anchorT | [] => none)
  else if s.oType n = 0 then o.tooth
  else match o.hist with | e :: _ => some e.t | [] => none

/-- No edge stamped before a time waits at the decoder, or can still come: such an edge is a running one (R177). Mark: DEDUCED, log entry 110. -/
def State.oQuiet (s : State) (n : Fin 4) (t : Nat) : Bool :=
  let o := s.ory[n]
  (s.oType n = 3 || decide ((t : Int) ≤ s.oFloor n)) &&
    (match o.pw with | some x => decide (t ≤ x.t) | none => true) &&
    (match o.qwait with | some w => w.early || decide (t ≤ w.x.t) | none => true)

/-- Standstill is declared (R168, R177): a wheel without KEEP, or without a direction input, falls to ACQ; in ACQ it takes no interval over
the standstill (R176). Mark: DEDUCED, log entry 110. -/
def State.oStill (s : State) (n : Fin 4) : State :=
  let o := s.ory[n]
  match s.oLastT n with
  | none => s
  | some te =>
    let at' := te + s.rget (F.ORYn_MOTION_STILL_MS n) * 1000000 * 64
    if o.sync ≠ .off ∧ ¬ o.still ∧ at' ≤ s.now ∧ s.oQuiet n at' then
      let v := s.oSpeedIn n s.now
      let s1 := ((s.modOry n (fun o => { o with still := true, ivals := [] })).evt (F.ORYn_EVT_STILL_S n)).emitFl 0x0F (oSrc n) s.now
        (s.oDirFlag n) (word (1 + 4 * b2n o.back)) (word (s.oLast n)) (satWord v) 0
      if s.oType n = 0 ∧ ¬ (s.ron (F.ORYn_CTRL_KEEP n) ∧ s.rget (F.ORYn_CTRL_DIRMODE n) ≠ 0) ∧ (o.sync = .turn ∨ o.sync = .full) then
        ((s1.oSync n .acq 1 s.now (s.oDirFlag n)).modOry n oClear).oShow n
      else if s.oType n = 0 ∧ o.sync = .acq then
        (s1.modOry n (fun o => { o with tooth := none, pLast := 0, pPrev := 0, confGap := false })).oShowPart n (fun v => { v with still := true })
      else s1.oShowPart n (fun v => { v with still := true })
    else s

/-- No accepted cam edge for CAMTO cycles (R167): reported once, until the next one. -/
def State.oCamLost (s : State) (n : Fin 4) : State :=
  let lim := s.rget (F.ORYn_CAM_CFG_CAMTO n)
  let o := s.ory[n]
  let N := s.oSteps n
  let run : Nat := o.camSteps * 2 ^ 24 + s.oAhead n s.now * N
  let due : Nat := (lim * 2 ^ 24 + o.camOff) * N
  if s.oCamTakes n ∧ o.sync = .full ∧ ¬ o.camTold ∧ lim ≠ 0 ∧ due ≤ run then
    let s1 := (s.modOry n (fun o => { o with camok := false, camTold := true })).oShowPart n (fun v => { v with camok := false })
    (s1.evt (F.ORYn_EVT_CAM_S n)).oFault n 8 s.now (s.oDirFlag n) 0
  else s

/-- A tooth pulse has lasted THR: the tooth is backward (R168). -/
def State.oPwDue (s : State) (n : Fin 4) : State :=
  match s.ory[n].pw with
  | none => s
  | some x => if x.t + s.rget (F.ORYn_DIRPW_THR n) * 64 ≤ s.now then s.oPwDecide n true (s.spine.tick + 50) else s

/-- Levels of the three inputs now, as the decoders read them. -/
def State.oLevels (s : State) (n : Fin 4) : BitVec 3 :=
  let l := fun i => match s.oInput n i with | some c => s.ch[c].inLvl | none => false
  BitVec.ofNat 3 (b2n (l 0) + 2 * b2n (l 1) + 4 * b2n (l 2))

/-- A change of TYPE, or another change that restarts acquisition (R157, R169, R170, R180). -/
def State.oRestart (s : State) (n : Fin 4) (cause : Nat) : State :=
  let lvl := s.oLevels n
  let s1 := s.modOry n (fun o => { oClear o with still := true, back := false, lvl := lvl, cyc := 0 })
  let s2 := match s.oType n with
    | 1 =>
      match hallSector lvl.toNat with
      | some k => (s1.modOry n (fun o => { o with pos := k, hist := [hallCentre k s.now false] })).oSync n .rel cause s.now s.coarseFlag
      | none => s1.oSync n .acq cause s.now s.coarseFlag
    | 2 => (s1.modOry n (fun o => { o with hist := [⟨s.oAngle n 0 0, s.now, 0, false, s.oNext n 0 false 0⟩] })).oSync n .rel cause s.now s.coarseFlag
    | _ => s1.oSync n .acq cause s.now s.coarseFlag
  s2.oShow n

/-- The Orrery is disabled (R180). -/
def State.oOff (s : State) (n : Fin 4) : State :=
  ((s.modOry n (fun o => { oClear o with still := true })).oSync n .off 2 s.now (s.oDirFlag n)).oShow n

/-- A command of `ORYn_CMD` is accepted, or refused (R181). -/
def State.oCmdDone (s : State) (n : Fin 4) (ok : Bool) : State :=
  if ok then s.rput (F.ORYn_STAT_CMD_REF n) 0
  else (s.rput (F.ORYn_STAT_CMD_REF n) 1).evt (F.ORYn_EVT_CFG_ERR_S n)

/-- The position and cycle count that an angle base falls to (R181): the position whose angle is nearest below it; for SINCOS the line whose
angle at the present phase is nearest to it. -/
def State.oPlaceAt (s : State) (n : Fin 4) (after : Nat) : Nat × Nat :=
  let N := s.oSteps n
  let ref := if s.oType n = 1 then 0 else s.rget (F.ORYn_REF_REF n)
  if s.oType n = 3 then
    let rel := ((after : Int) - s.oAngle n 0 s.ory[n].phi) % 2 ^ 24
    let pos := ((rel * N + 2 ^ 23) / 2 ^ 24).toNat % N
    (pos, (((after : Int) - s.oAngle n pos s.ory[n].phi + 2 ^ 23) / 2 ^ 24 % 256).toNat)
  else
    let pos := (((after + 2 ^ 24 - ref) % 2 ^ 24 + 1) * N - 1) / 2 ^ 24 % N
    (pos, ((after + 2 ^ 32 - s.oAngle n pos 0) / 2 ^ 24) % 256)

/-- SETPOS (R181): the last validated edge takes the operand's angle base; the next edge is the one behind the position that it falls to. -/
def State.oSetpos (s : State) (n : Fin 4) : State :=
  let o := s.ory[n]
  match o.hist with
  | [] => s.oCmdDone n false
  | e :: h =>
    if o.sync = .turn ∨ o.sync = .rel ∨ o.sync = .full then
      let zro := (s.calUser (0xD5 + 8 * n.val)).toNat % 2 ^ 24
      let after := ((s.reg (R.ORYn_OPD n)).toNat + 2 ^ 32 - zro) % 2 ^ 32
      let N := s.oSteps n
      let (pos, cyc) := s.oPlaceAt n after
      let ahead := s.oNext n pos e.back e.speed
      let past := (after + 2 ^ 32 - s.oAngle n pos 0) % 2 ^ 24
      let dnext := if s.oType n = 3 then ahead else if e.back then ahead + past else ahead - past
      let d := halfRange ((after : Int) - (e.base : Int)) (2 ^ 24)
      let s1 := (s.modOry n (fun o => { o with pos := pos, cyc := cyc, hist := { e with base := after, dnext := dnext } :: h }))
      let s2 := s1.oResync n 5 s.now (s.oDirFlag n) d (stepShift d o.pos pos N) e.base after
      let s3 := if o.sync = .full then s2 else s2.oSync n .full 3 s.now (s.oDirFlag n)
      (s3.oCmdDone n true).oBroadcast n (s.spine.tick + 20) true
    else s.oCmdDone n false

/-- REACQ (R181): as a change of TYPE (R180). It has nothing to restart in an Orrery that is off. -/
def State.oReacq (s : State) (n : Fin 4) : State := (if s.ory[n].sync = .off then s else s.oRestart n 2).oCmdDone n true

/-- CLRCNT (R181). -/
def State.oClrCnt (s : State) (n : Fin 4) : State := ((s.setReg (R.ORYn_ERRCNT n) 0).setReg (R.ORYn_ERRCNT2 n) 0).oCmdDone n true

/-- A command of `ORYn_CMD` by its OP: 0 NOP, 1 REACQ, 2 SETPOS, 3 CLRCNT (R181). -/
def State.oCommand (s : State) (n : Fin 4) (op : Nat) : State :=
  match op with | 0 => s.oCmdDone n true | 1 => s.oReacq n | 2 => s.oSetpos n | _ => s.oClrCnt n

/-- A write of `ORYn_CMD`: it executes in the first tick after the write, behind the edges of that tick (R181, R182). Mark: DESIGN CHOICE, log entry 5. -/
def State.oCmdPost (s : State) (n : Fin 4) (op : Nat) : State :=
  s.modOry n (fun o => { o with cmds := o.cmds ++ [(s.spine.tick, op)] })

/-- The commands written in earlier ticks execute, at the end of the present tick, behind its edges (R182): a transition that waits is decoded
first. Mark: DEDUCED, log entry 92. -/
def State.oCmdRun (s : State) (n : Fin 4) : State :=
  let due := s.ory[n].cmds.takeWhile (fun c => c.1 < s.spine.tick)
  due.foldl (fun (s : State) c => s.oCommand n c.2)
    ((if due = [] then s else s.oQuadSettle n).modOry n (fun o => { o with cmds := o.cmds.drop due.length }))

/-- What an Orrery completes at the end of a tick: its cam edge, then its commands (R182). -/
def State.oTickEnd (s : State) (n : Fin 4) : State := (s.oCamSettle n).oCmdRun n

/-- What an Orrery completes at the start of a tick: a transition 2.0 ns old, and the broadcasts whose time has come. -/
def State.oTickStart (s : State) (n : Fin 4) : State := (s.oQuadDue n).oDeliver n

end Sys2Proof.Machine
end

