-- ==== Sys2Proof/Machine/Converter.lean ====
section
/-!
DEFINITION. The sample converters C0 and C1 (chapter 08): requests, hold instants, results and the sample buffers of B0 and B1.
-/
namespace Sys2Proof.Machine
open Sys2Proof

/-- `TRGk_REF_S`. -/
def trgRef (k : Nat) : Fld := ⟨R.CV_EVT, 1 + k, 1⟩

/-- Converter k is enabled, its supply VDDA is good (R353), and the device is not in IDLE (R354). -/
def State.convOn (s : State) (k : Nat) : Bool :=
  s.ron ⟨R.CV_CTRL, k, 1⟩ && s.ron F.PW_STAT_VDDA_OK && s.rget F.PW_STAT_STATE != 2

/-- Room for m more conversions in a converter's queue of 8 (R196). -/
def State.convRoom (s : State) (k : Fin 2) (m : Nat) : Bool := s.convOn k && decide (s.conv[k].queue.length + m ≤ 8)

/-- Put a request into a queue: behind every request, but for those of its own tick that it goes before (R196). -/
def convInsert (q : Conv) : List Conv → List Conv
  | [] => [q]
  | x :: xs => if x.tick = q.tick ∧ q.req < x.req then q :: x :: xs else x :: convInsert q xs

/-- Queue one conversion: of one tick's requests slots 0 to 3 come first, then TRIG, then `CV_CMD` (R196). Mark: DEDUCED, log entry 46. -/
def State.convPush (s : State) (k : Fin 2) (q : Conv) : State := s.modConv k (fun x => { x with queue := convInsert q x.queue })

/-- Requests of the present tick that a request of a class goes before (R196). -/
def State.convBehind (s : State) (k : Fin 2) (req : Nat) : List Conv :=
  s.conv[k].queue.filter (fun x => decide (x.tick = s.spine.tick ∧ req < x.req))

/-- A request of m conversions fits, in the order of its tick's requests: those that it goes before do not stand in its way (R196). -/
def State.convFits (s : State) (k : Fin 2) (req m : Nat) : Bool :=
  s.convOn k && decide (s.conv[k].queue.length + m ≤ 8 + (s.convBehind k req).length)

/-- A request is refused (R196): TRIG by its thread's CHRES, the others by the count and the event bit. -/
def State.convRefuse (s : State) (k : Fin 2) (thread : Option (Fin 8 × Fin 16)) : State :=
  match thread with
  | some (e, n) => s.modThr e n (fun t => { t with chres := 4 })
  | none => (s.rsat (F.CVk_CNT_REFUSED k) 1).evt (trgRef k)

/-- Refuse the last request of a queue, whole. -/
def State.convDrop (s : State) (k : Fin 2) : State :=
  match s.conv[k].queue.getLast? with
  | none => s
  | some x =>
    (s.modConv k (fun c => { c with queue :=
      if x.req < 4 then c.queue.filter (fun y => !(y.tick = x.tick && y.req = x.req)) else c.queue.dropLast })).convRefuse k x.thread

/-- Requests of the present tick that come behind one of m conversions give way to it, the last one first, until it fits (R196). Mark: DEDUCED, log entry 46. -/
def State.convClear (s : State) (k : Fin 2) (m : Nat) : Nat → State
  | 0 => s
  | n + 1 => if s.convRoom k m then s else (s.convDrop k).convClear k m n

/-- Input of sequence entry i (R196). -/
def State.convSeq (s : State) (k i : Nat) : Nat :=
  if i % 16 < 8 then wfld (s.reg (R.CVk_SEQ_LO k)) (4 * (i % 16)) 4 else wfld (s.reg (R.CVk_SEQ_HI k)) (4 * (i % 16 - 8)) 4

/-- A slot trigger: LEN + 1 conversions, or refused whole (R195, R196). `due` is the earliest hold time in subs. -/
def State.convSlot (s : State) (k : Fin 2) (j due : Nat) (c : Nat) : State :=
  let len := s.rget (F.CVk_SLOTj_LEN k j)
  let start := s.rget (F.CVk_SLOTj_START k j)
  if s.convFits k j (len + 1) then
    (List.range (len + 1)).foldl (fun s i =>
      s.convPush k ⟨s.convSeq k (start + i), j, due, s.ron (F.CVk_SLOTj_REC k j), some c, s.spine.tick, none, false⟩) (s.convClear k (len + 1) 8)
  else s.convRefuse k none

/-- A channel event (0 CMPA, 1 CMPB, 2 CAP0, 3 CAP1) triggers the slots that watch it, in slot order (R195, R196). -/
def State.convEvent (s : State) (c : Fin 96) (ev due : Nat) : State :=
  (List.finRange 2).foldl (fun s (k : Fin 2) =>
    (List.range 4).foldl (fun s j =>
      if s.ron (F.CVk_SLOTj_EN k j) ∧ s.rget (F.CVk_SLOTj_CH k j) = c ∧ s.rget (F.CVk_SLOTj_EVT k j) = ev
      then s.convSlot k j due c else s) s) s

/-- 200 ns have passed since the last hold (R196). -/
def State.convApart (s : State) (k : Fin 2) : Bool := match s.conv[k].lastHold with | none => true | some h => decide (h + 12800 ≤ s.now)

/-- The present tick boundary is a hold instant for the front of the queue: it is due, 200 ns have passed since the last hold (R196), and the
device is not in IDLE (R354). Mark: DEDUCED, log entry 46. -/
def State.convReady (s : State) (k : Fin 2) : Bool :=
  match s.conv[k].queue with
  | [] => false
  | q :: _ => decide (q.due ≤ s.now) && s.convApart k && s.rget F.PW_STAT_STATE != 2

/-- At the start of a tick: the 200 ns after the previous hold move the hold of a conversion that is due at this boundary (R196). Mark: DEDUCED, log entry 46. -/
def State.convTick (s : State) (k : Fin 2) : State :=
  match s.conv[k].queue with
  | [] => s
  | q :: rest =>
    if q.due ≤ s.now ∧ ¬ s.convApart k then s.modConv k (fun x => { x with queue := { q with moved := true } :: rest }) else s

/-- Sample the front of the queue at this tick (R195, R196). Mark: DEDUCED, log entry 46. -/
def State.convHold (s : State) (k : Fin 2) : State :=
  match s.conv[k].queue with
  | [] => s
  | q :: rest =>
    if s.convReady k then
      let s1 := s.modConv k (fun x => { x with queue := rest, held := x.held ++ [⟨q, s.now, q.moved, s.ron F.SPN_STAT_COARSE⟩], lastHold := some s.now })
      if q.moved then s1.rsat (F.CVk_CNT_DELAYED k) 1 else s1
    else s

/-- The result of the oldest held conversion (R197 to R201). Mark: DEDUCED, log entry 46. -/
def State.convResult (s : State) (k : Fin 2) (raw : BitVec 12) : State :=
  match s.conv[k].held with
  | [] => s
  | h :: rest =>
    let q := 0xF0 + 4 * k.val
    let v0 := s.correct raw.toNat q (q + 1)
    let (v, sat) := satI v0 0 4095
    let t := h.hold + (s.calE (q + 2)).1.toNat
    let ang := match h.conv.chan with
      | none => none
      | some c =>
        let tb := s.rget (F.CHc_CTRL_TB c)
        if hn : 1 ≤ tb ∧ tb ≤ 4 then s.oReport ⟨tb - 1, by omega⟩ t else none
    let w2 := word (v.toNat + 65536 * raw.toNat)
    let s1 := s.modConv k (fun x => { x with held := rest })
    let s2 := s1.setReg (R.CVk_LAST k) (word (v.toNat + 4096 * b2n sat + 65536 * raw.toNat + 2 ^ 28 * h.conv.ain))
    let s3 := s2.sbufPut ⟨k.val, by omega⟩ t h.coarse (word (tNs t))
      (word (tSub t + 64 * b2n h.dly + 128 * b2n sat + 256 * b2n ang.isSome + 512 * h.conv.ain + 8192 * h.conv.req
        + 65536 * (tNs t / 2 ^ 32 % 256))) w2 (word (ang.getD 0))
    if h.conv.recEn then
      s3.emitFl 0x11 (100 + k.val) t (b2n h.coarse * flCoarse) (word (v.toNat + 65536 * raw.toNat + 2 ^ 28 * h.conv.ain)) (word (ang.getD 0))
        (word (b2n h.dly + 2 * b2n sat + 4 * h.conv.req)) 0
    else s3

end Sys2Proof.Machine
end

