-- ==== Sys2Proof/Machine/Capture.lean ====
section
/-!
DEFINITION. Event counters (R78 to R81) and capture units (R74 to R77).
-/
namespace Sys2Proof.Machine
open Sys2Proof

/-! ### Event counter -/

/-- Channel c is the high half of a cascade (R79). -/
def State.cascHi (s : State) (c : Fin 96) : Bool := decide (c.val % 2 = 1) && s.ron (F.CHc_CTRL_CASC (c.val - 1))

/-- Channel c governs a cascade (R79). -/
def State.cascLo (s : State) (c : Fin 96) : Bool := decide (c.val % 2 = 0) && s.ron (F.CHc_CTRL_CASC c)

/-- The channel whose configuration governs a channel's count. -/
def State.cntGov (s : State) (c : Fin 96) : Fin 96 := if s.cascHi c then ⟨c.val - 1, by omega⟩ else c

/-- The sources of a channel that have had an event in the present tick, as bits. -/
def State.eventsNow (s : State) (c : Fin 96) : Nat := if s.ch[c].evTick = s.spine.tick then s.ch[c].evMask else 0

/-- Count one event of a source code on a channel: at most one count in a tick (R78, R79). -/
def State.countNow (s : State) (c : Fin 96) (src : Nat) : State :=
  if s.cascHi c ∨ ¬ s.ron (F.CHc_CNT_CFG_RUN c) ∨ s.rget (F.CHc_CNT_CFG_SRC c) ≠ src ∨ s.ch[c].cntTick = some s.spine.tick then s
  else
    let v := (s.ch[c].cnt + 1) % 2 ^ 32
    let s1 := s.modCh c (fun x => { x with cnt := v, cntTick := some s.spine.tick })
    if v ≠ 0 then s1
    else if s.cascLo c then
      let h := pairOf c
      let w := (s1.ch[h].cnt + 1) % 2 ^ 32
      let s2 := s1.modCh h (fun x => { x with cnt := w })
      if w = 0 then s2.evt (F.CHc_EVT_CNT_WRAP_S c) else s2
    else s1.evt (F.CHc_EVT_CNT_WRAP_S c)

/-- An event of a source on a channel: it is counted, and remembered for a strobe that acts from the start of its tick (R78, R312). -/
def State.count (s : State) (c : Fin 96) (src : Nat) : State :=
  (s.modCh c (fun x => { x with evTick := s.spine.tick, evMask := s.eventsNow c ||| 2 ^ src })).countNow c src

/-- The count of the ticks before the present one: 64 bits in a cascade (R80). -/
def State.cntBefore (s : State) (c : Fin 96) : Nat :=
  let lo := s.ch[c].cnt
  let v := if s.cascLo c then lo + 2 ^ 32 * s.ch[pairOf c].cnt else lo
  let m := if s.cascLo c then 2 ^ 64 else 2 ^ 32
  if s.ch[c].cntTick = some s.spine.tick then (v + m - 1) % m else v

/-- Causes of an image (R80): SNAP, CAP0, CAP1, STOP. -/
def causeSnap : BitVec 4 := 1
def causeCap (k : Bool) : BitVec 4 := if k then 4 else 2
def causeStop : BitVec 4 := 8

/-- A new image, behind the one that stands. -/
def State.newImage (s : State) (c : Fin 96) (cause : BitVec 4) (t : Nat) : State :=
  s.modCh c (fun x => { x with
    img := some ⟨s.cntBefore c, t, cause, s.spine.tick, s.ron F.SPN_STAT_COARSE⟩, imgOld := x.img, imgPend := true })

/-- Latch an image in the present tick (R80): latches of one tick make one image with their causes OR-ed; its time is the
earliest capture time, or the tick's. The COUNT record follows when the tick is over. -/
def State.latch (s : State) (c0 : Fin 96) (cause : BitVec 4) (t : Nat) : State :=
  let c := s.cntGov c0
  let isCap := cause &&& 6 ≠ 0
  match s.ch[c].img with
  | some i =>
    if i.tick = s.spine.tick then
      let t' := if isCap then (if i.cause &&& 6 ≠ 0 then min i.t t else t) else i.t
      s.modCh c (fun x => { x with img := some { i with cause := i.cause ||| cause, t := t' } })
    else s.newImage c cause t
  | none => s.newImage c cause t

/-- Emit the COUNT record of an image whose tick is over (R80, R83). Mark: DESIGN CHOICE, log entry 16. -/
def State.flushImage (s : State) (c : Fin 96) : State :=
  if s.ch[c].imgPend then
    let s1 := s.modCh c (fun x => { x with imgPend := false })
    match s.ch[c].img with
    | some i =>
      if s.ron (F.CHc_CNT_CFG_REC c) then
        s1.chEmitFl c 0x0A i.t (b2n i.coarse * flCoarse) (word i.val) (if s.cascLo c then word (i.val / 2 ^ 32) else 0)
          (word (i.cause.toNat + 16 * b2n (s.cascLo c))) 0
      else s1
    | none => s1
  else s

/-! ### Capture units -/

def capOf (x : Channel) (k : Bool) : Cap := if k then x.cap1 else x.cap0
def setCap (x : Channel) (k : Bool) (p : Cap) : Channel := if k then { x with cap1 := p } else { x with cap0 := p }
/-- Every enabled consumer has taken a capture, now or at some moment before (R75). -/
def State.capTaken (s : State) (c : Fin 96) (k : Bool) (x : CapT) : Bool :=
  x.used || ((!s.ron (F.CHc_CAPk_CFG_REC c (kNat k)) || x.recDone) && (!s.ron (F.CHc_CAPk_CFG_RDC c (kNat k)) || x.rdDone))

/-- Stage 1 is consumed, or empty (R75). -/
def State.capConsumed (s : State) (c : Fin 96) (k : Bool) : Bool :=
  match (capOf s.ch[c] k).s1 with
  | none => true
  | some x => s.capTaken c k x

/-- A capture whose CAPTURE record is still to be handed over (R75). -/
def State.capUnrec (s : State) (c : Fin 96) (k : Bool) (x : CapT) : Bool :=
  s.ron (F.CHc_CAPk_CFG_REC c (kNat k)) && !x.recDone && !x.used

/-- No CAPTURE record of the other unit with an earlier stamp is still to come: neither of a capture it holds, nor, on another ball, of
an edge yet to arrive or to pass its filter (R16, R95). Mark: DEDUCED, log entry 84. -/
def State.capFirst (s : State) (c : Fin 96) (k : Bool) (t : Nat) : Bool :=
  let o := capOf s.ch[c] !k
  let before (y : Option CapT) : Bool := match y with | none => false | some y => s.capUnrec c (!k) y && decide (if k then y.t ≤ t else y.t < t)
  let mayCome := s.ron (F.CHc_CAPk_CFG_REC c (kNat !k)) && s.rget (F.CHc_CAPk_CFG_EDGE c (kNat !k)) != 0 &&
    s.capBallOf c k != s.capBallOf c (!k) && decide (s.edgeFloor (s.capBallOf c (!k)) < t)
  !before o.s1 && !before o.s2 && !mayCome

/-- The Orrery angle base of a channel's capture at t, if its timebase is an Orrery (R82). -/
def State.capAngle (s : State) (c : Fin 96) (t : Nat) : Option Nat :=
  let tb := s.rget (F.CHc_CTRL_TB c)
  if h : 1 ≤ tb ∧ tb ≤ 4 then s.oReport ⟨tb - 1, by omega⟩ t else none

/-- Hand the CAPTURE record of stage 1 to the record writer, if enabled: unless the writer works at its ceiling or an earlier one of the
other unit goes first, while which the capture stays unconsumed (R16, R25, R76, R83). -/
def State.capRecord (s : State) (c : Fin 96) (k : Bool) : State :=
  match (capOf s.ch[c] k).s1 with
  | none => s
  | some x =>
    if s.capUnrec c k x ∧ ¬ s.atCeil ∧ s.capFirst c k x.t then
      let p := capOf s.ch[c] k
      let fl := b2n p.s2.isSome * flMore + b2n x.step * flStep + b2n (decide (255 < p.dropped)) * flTrunc + b2n x.coarse * flCoarse
      (s.modCh c (fun y => setCap y k { p with s1 := some { x with recDone := true }, dropped := 0 })).emitFl 0x09 c.val x.t fl
        (word (kNat k + 2 * b2n x.rise + 256 * min p.dropped 255)) (word (x.ang.getD 0)) (word (b2n x.ang.isSome)) 0
    else s

/-- Record stage 1 where that can be done; once it is consumed it stays so, and stage 2 moves into it (R75, R76). -/
def State.capStep (s : State) (c : Fin 96) (k : Bool) : State :=
  let s1 := s.capRecord c k
  let p := capOf s1.ch[c] k
  match p.s1 with
  | none => s1
  | some x =>
    if s1.capTaken c k x then
      match p.s2 with
      | none => s1.modCh c (fun y => setCap y k { p with s1 := some { x with used := true } })
      | some z => s1.modCh c (fun y => setCap y k { p with s1 := some z, s2 := none })
    else s1

/-- Both units of a channel come to rest: each holds at most two captures, and a record of one can free one of the other (R16, R76). -/
def State.capPump (s : State) (c : Fin 96) : State :=
  [false, true, false, true, false, true].foldl (fun s k => s.capStep c k) s

/-- `CAPk_DROP_S`. -/
def capDropEvt (c : Nat) (k : Bool) : Fld := if k then F.CHc_EVT_CAP1_DROP_S c else F.CHc_EVT_CAP0_DROP_S c

/-- A capture enters its unit: stage 1 if that is consumed, else stage 2, else it is dropped (R76). -/
def State.capEnter (s : State) (c : Fin 96) (k : Bool) (p : Cap) (x : CapT) : State :=
  if s.capConsumed c k ∧ p.s2 = none then
    s.modCh c (fun y => setCap y k { p with s1 := some x, entered := some s.spine.tick, older := p.s1 })
  else if p.s2 = none then s.modCh c (fun y => setCap y k { p with s2 := some x })
  else ((s.modCh c (fun y => setCap y k { p with dropped := p.dropped + 1 })).rsat (F.CHc_CAPk_STAT_DROP c (kNat k)) 1).evt (capDropEvt c k)

/-- An edge at a capture unit, stamped t at the reference plane, at a position in subs of PLL ticks (R74 to R76), with its counts, latch,
trigger and wake. -/
def State.capEdge (s : State) (c : Fin 96) (k rise : Bool) (t : Nat) (step : Bool) (at' : Nat) : State :=
  let p := capOf s.ch[c] k
  let dead : Bool := match p.lastEdge with | some u => decide (at' < u + 256) | none => false
  if dead then s.rsat (F.CHc_CAPk_STAT_MISS c (kNat k)) 1
  else
    let x : CapT := ⟨t, rise, step || p.mark, s.ron F.SPN_STAT_COARSE, s.capAngle c t, false, false, false⟩
    let s1 := (s.capEnter c k { p with mark := false, lastEdge := some at' } x).capPump c
    let s2 := s1.count c (7 + kNat k)
    let g := s2.cntGov c
    let s3 := if (if k then s2.ron (F.CHc_CNT_CFG_LAT_CAP1 g) else s2.ron (F.CHc_CNT_CFG_LAT_CAP0 g)) ∧ g = c
      then s2.latch c (causeCap k) t else s2
    let s4 := s3.convEvent c (2 + kNat k) (t + (s.rget (F.CHc_PIN_FILT c) + 10) * 64)
    s4.wakeCh c (2 + kNat k)

/-- Whether a capture unit takes an edge of a polarity (EDGE). -/
def State.capTakes (s : State) (c : Fin 96) (k rise : Bool) : Bool :=
  nbit (s.rget (F.CHc_CAPk_CFG_EDGE c (kNat k))) (if rise then 0 else 1)

/-- A read coincides with the capture that has just taken stage 1: it returns the older one (R76). Mark: DEDUCED, log entry 85. -/
def State.capCoincides (s : State) (c : Fin 96) (k : Bool) : Bool := (capOf s.ch[c] k).entered = some s.spine.tick && !s.frozen

/-- Read stage 1 as the host or a Gaffer does (R75 to R77): the capture, whether it was fresh, and the state after, in which
stage 1 is consumed if this reader is the selected one. Mark: DEDUCED, log entry 85. -/
def State.capRead (s : State) (c : Fin 96) (k byGaffer : Bool) : Option CapT × Bool × State :=
  let p := capOf s.ch[c] k
  if s.capCoincides c k then (p.older, false, s.modCh c (fun y => setCap y k { p with entered := none, older := none }))
  else
    match p.s1 with
    | none => (none, false, s)
    | some x =>
      let fresh := !s.capConsumed c k
      let mine := s.ron (F.CHc_CAPk_CFG_RDC c (kNat k)) && (s.ron (F.CHc_CAPk_CFG_RDR c (kNat k)) == byGaffer)
      (some x, fresh,
        if mine then (s.modCh c (fun y => setCap y k { p with s1 := some { x with rdDone := true } })).capPump c else s)

end Sys2Proof.Machine
end

