-- ==== Sys2Proof/Machine/Gate.lean ====
section
/-!
DEFINITION. What every command passes first: a frozen device takes no events and ignores host writes (R377, R378), a load ignores
host writes (R342), and a device that is powered down takes none of either (R354).
-/
namespace Sys2Proof.Machine
open Sys2Proof

/-- A load runs (R335). -/
def State.loading (s : State) : Bool := s.ron F.CFG_STAT_LOADING

/-- The core is powered: neither RETAIN nor OFF (R354). -/
def State.powered (s : State) : Bool := s.rget F.PW_STAT_STATE != 4 && s.rget F.PW_STAT_STATE != 5

/-- An event of the block or at its balls: none occurs while the device is frozen or powered down. Mark: DESIGN CHOICE, log entry 2; DESIGN CHOICE, log entry 4. -/
def State.event (s : State) (f : State → State) : Host.Outcome State Fault Refusal :=
  if s.frozen ∨ ¬ s.powered then .next s else .next (f s)

/-- An event of the slow domain, or of the supplies and resets, which occurs whatever the core does. Mark: DESIGN CHOICE, log entry 2. -/
def State.always (s : State) (f : State → State) : Host.Outcome State Fault Refusal := .next (f s)

/-- A page that takes writes while the device is frozen (R378). Mark: DESIGN CHOICE, log entry 4. -/
def freezePage (o : Nat) : Bool := 0x8000 ≤ o && o < 0x9000

/-- A host write at an offset (R342, R378). Writes to `CFG_CMD` pass a load, which refuses them itself. Mark: DESIGN CHOICE, log entry 4. -/
def State.hostWrite (s : State) (o : Nat) (f : State → State) : State :=
  if ¬ s.powered then s
  else if s.frozen ∧ ¬ freezePage o then s.rsat F.FRZ_CNT_IGN 1
  else if s.loading ∧ o ≠ R.CFG_CMD then s.rsat F.CFG_HOSTIGN_CNT 1
  else f s

/-- A host write of a command row. The path counts only for what the row itself holds per path. Mark: DESIGN CHOICE, log entry 4. -/
def State.hostAct (s : State) (_p : Path) (o : Nat) (f : State → State) : Host.Outcome State Fault Refusal := .next (s.hostWrite o f)

end Sys2Proof.Machine
end

