-- ==== Sys2Proof/Machine/Compare.lean ====
section
/-!
DEFINITION. Compare units and the pin (R54 to R66), the edge FIFO (R67 to R73) and the commits of the ephemeris (R108 to R112),
which arm one another: a fire lets its owner arm the next target at once.
-/
namespace Sys2Proof.Machine
open Sys2Proof

/-! ### The pin -/

/-- Held in its safe state for any reason (R59). -/
def State.held (s : State) (c : Fin 96) : Bool :=
  s.ch[c].holdBoot || s.ron (F.CHc_CTRL_HOLD c) || s.ch[c].holdFrz || s.banks[bankOf c].supply = 0

/-- The pin cell drives its ball (R55). -/
def State.drives (s : State) (c : Fin 96) : Bool := s.rget (F.CHc_PIN_MODE c) = 1 || s.rget (F.CHc_PIN_MODE c) = 2

/-- The level that the driver puts on the ball; `none` is high impedance, as in RETAIN and OFF (R54, R55, R60, R354). Mark: DESIGN CHOICE, log entry 10. -/
def State.ballLevel (s : State) (c : Fin 96) : Option Bool :=
  if ¬ s.powered ∨ s.banks[bankOf c].supply = 0 ∨ ¬ s.drives c then none
  else
    let od := s.rget (F.CHc_PIN_MODE c) = 2
    if s.held c then
      match s.rget (F.CHc_CTRL_SAFE c) with
      | 0 => some false
      | 1 => if od then none else some true
      | 2 => none
      | _ => s.ch[c].heldLvl
    else
      let l := s.ch[c].ol != s.ron (F.CHc_PIN_OUT_INV c)
      if od ∧ l then none else some l

/-- Put a level change on its way to the input path: what would have come later does not come (R55). -/
def ownInsert (x : Bool × Int) (own : List (Bool × Int)) : List (Bool × Int) := own.filter (fun y => decide (y.2 ≤ x.2)) ++ [x]

/-- The level before the filter at a ball time: that of the last change on its way, else the level that has come. -/
def ownLevel (lvl : Bool) (t : Int) (own : List (Bool × Int)) : Bool :=
  match (own.filter (fun y => decide (y.2 ≤ t))).getLast? with
  | some y => y.1
  | none => lvl

def State.ownPush (s : State) (c : Fin 96) (l : Bool) (t : Int) : State := s.modCh c (fun x => { x with own := ownInsert (l, t) x.own })

/-- The driver has changed the level of its ball at a ball time: the change reaches the channel's input path (R55). `old` is the state
before the change. -/
def State.pinEcho (s old : State) (c : Fin 96) (t : Int) : State :=
  match s.ballLevel c with
  | some l => if old.ballLevel c = some l then s else s.ownPush c (l != s.ron (F.CHc_PIN_IN_INV c)) t
  | none => s

/-! ### Compare units -/

def cmpOf (x : Channel) (u : Bool) : Cmp := if u then x.cmpB else x.cmpA
def setCmp (x : Channel) (u : Bool) (p : Cmp) : Channel := if u then { x with cmpB := p } else { x with cmpA := p }

def State.modCmp (s : State) (c : Fin 96) (u : Bool) (f : Cmp → Cmp) : State :=
  s.modCh c (fun x => setCmp x u (f (cmpOf x u)))

/-- The output level after a pin action (R62). -/
def actLevel (ol : Bool) (act : Nat) : Bool := match act % 4 with | 0 => ol | 1 => false | 2 => true | _ => !ol

/-- D of R63 for a 38-bit target at the present tick. -/
def State.dueD (s : State) (c : Fin 96) (target : Nat) : Int :=
  halfRange (s.tLaunch c - ((target : Int) - s.outTrc c)) (2 ^ 38)

/-- The ball time at which a compare asks for its edge: the target's, or the place that CATCH gave it (R63, R73). -/
def Cmp.ask (x : Cmp) : Int := x.place.getD x.tb

/-- The launch tick of a waiting compare has been reached: its ball time lies before t(a+1+K) (R45, R71). In a held tick none fires (R37). -/
def State.launched (s : State) (c : Fin 96) (u : Bool) : Bool :=
  let x := cmpOf s.ch[c] u
  x.armed && !x.due && s.moving && decide (x.ask < (s.tAhead (s.launchK c + 1) : Int))

/-- `CHc_CMPu_TGT_CTL.ARM`: 1 from arming until the launch tick (R64, R71). -/
def State.armBit (s : State) (c : Fin 96) (u : Bool) : Bool :=
  (cmpOf s.ch[c] u).armed && (s.held c || !s.launched c u)

/-- The position on the PLL's ticks, in units of 2^-34 sub, of a pin change that leaves at the present tick for a ball time (R45, R65). -/
def State.pinPos (s : State) (c : Fin 96) (tb : Int) : Int :=
  ((s.spine.tick + s.launchK c) * 64 * 2 ^ 34 : Nat) + (tb * 2 ^ 34 - s.accAhead (s.launchK c))

/-- The subs by which a pin change asked for at a ball time lies behind the channel's last one; both lie on whole subs. -/
def State.pinGap (s : State) (c : Fin 96) (tb : Int) : Option Int :=
  s.ch[c].lastPin.map (fun _ => roundDivI (s.pinPos c tb - s.ch[c].lastAt) (2 ^ 34))

/-- The ball time that a pin change gets: 2.0 ns behind the last one at least (R65). -/
def State.pinSlot (s : State) (c : Fin 96) (tb : Int) : Int :=
  match s.pinGap c tb with
  | some g => if g < 128 then tb + (128 - g) else tb
  | none => tb

/-- Note a pin change at a ball time. -/
def State.pinMoved (s : State) (c : Fin 96) (tp : Int) : State :=
  let at' := s.pinPos c tp
  s.modCh c (fun x => { x with lastPin := some tp, lastAt := at' })

/-- A fire of compare u, with its edge asked for at a ball time, the lateness D (0 if on time) and the STEP flag. The unit is
disarmed, OL and the last-fire registers change, and the record, counts, wakes and triggers follow (R62 to R66, R78, R83, R102,
R195). `quiet`: the fire is one of several at a release, after which the pin moves once (R60). The lateness of a late compare whose pin
change R65 also stretches is D, and that of an edge that CATCH placed its time less its target (R73). Mark: DESIGN CHOICE, log entry 86. -/
def State.fireCore (s : State) (c : Fin 96) (u : Bool) (tb : Int) (d : Nat) (step quiet : Bool) : State :=
  let x := cmpOf s.ch[c] u
  let n := b2n u
  let ol := actLevel s.ch[c].ol x.act
  let change := ol != s.ch[c].ol && s.drives c && !quiet
  let slot := s.pinSlot c tb
  let runt : Bool := change && decide (slot ≠ tb)
  let tp : Int := if runt then slot else tb
  let t := (tp + s.outTrc c).toNat
  let lateness := if x.place.isSome then (tp - x.tb).toNat else d
  let late := decide (lateness ≠ 0)
  let ns := min (lateness / 64) (2 ^ 32 - 1)
  let tap := (min 63 (tb - (s.tAhead (s.launchK c) : Int))).toNat
  let old := s
  let s := if change then s.pinMoved c tp else s
  let s := s.modCh c (fun y => { setCmp y u { x with armed := false, due := false, place := none, eph := none, fifo := false } with
    ol := ol
    lastTap := tap
    lastRaw := s.rawTap c tap
    lastA := if u then y.lastA else t
    lastB := if u then t else y.lastB })
  let s := if quiet then s else s.pinEcho old c tp
  let s := (((((s.rwrap (F.CHc_CMPu_LAST_SUB_FIRE_CNT c n) 1).rput (F.CHc_CMPu_LAST_SUB_RUNT c n) (b2n runt)).rput
    (F.CHc_CMPu_LAST_SUB_LATE c n) (b2n late)).rput (F.CHc_CMPu_LAST_SUB_LATE_SUB c n) (lateness % 64)).setReg
    (R.CHc_CMPu_LATE c n) (word ns))
  let s := if late then s.evt (F.CHc_EVT_LATE_S c) else s
  let s := if runt then (s.rsat (F.CHc_ERRCNT_RUNT c) 1).evt (F.CHc_EVT_RUNT_S c) else s
  let s :=
    if x.recEn then
      s.chEmit c 0x08 t (b2n late * flLate + b2n (decide (2 ^ 38 ≤ lateness)) * flTrunc + b2n runt * flRunt + b2n step * flStep) (word (x.target / 64))
        (word (x.target % 64 + 64 * n + 128 * x.act + 512 * b2n ol + 1024 * b2n x.fifo + 65536 * x.tag)) (word ns) (word (lateness % 64))
    else s
  let s := if change then s.count c 4 else s
  let s := s.count c (5 + n)
  let s := s.convEvent c n (t + 512)
  s.wakeCh c n

/-- The STEP flag of a compare that fires in the present tick (R36). -/
def State.stepNow (s : State) : Bool := s.spine.stepTick = some s.spine.tick

/-- A waiting compare fires on time; an edge that CATCH placed late carries its lateness (R63, R73). Mark: DESIGN CHOICE, log entry 11. -/
def State.fireTimely (s : State) (c : Fin 96) (u : Bool) : State := s.fireCore c u (cmpOf s.ch[c] u).ask 0 s.stepNow false

/-- A compare that is behind fires in the present tick on tap 0 (R63). Mark: DESIGN CHOICE, log entry 11; DEDUCED, log entry 14. -/
def State.fireLate (s : State) (c : Fin 96) (u : Bool) (step quiet : Bool) : State :=
  let x := cmpOf s.ch[c] u
  s.fireCore c u (s.tLaunch c) (s.tLaunch c - x.tb).toNat step quiet

/-- Load a compare: it is armed, waits or is due (R63, R60). Whether it must fire at once is left to the caller. The arming tick is that
of the command itself: the handshake before it takes no tick of its own (R12). Mark: DESIGN CHOICE, log entry 5. -/
def State.loadCmp (s : State) (c : Fin 96) (u : Bool) (target act : Nat) (recEn : Bool) (tag : Nat) (fifo wake : Bool)
    (eph : Option Nat) : State :=
  let d := s.dueD c target
  s.modCmp c u (fun _ => ⟨true, target, s.tLaunch c - d, act, recEn, tag, fifo, wake, none, decide (0 < d) && s.held c, eph⟩)

/-- A loaded compare is behind and its channel is not held: it fires at once (R63). -/
def State.behind (s : State) (c : Fin 96) (u : Bool) : Bool :=
  let x := cmpOf s.ch[c] u
  x.armed && decide (x.ask < s.tLaunch c) && !s.held c

def State.disarmCmp (s : State) (c : Fin 96) (u : Bool) : State :=
  s.modCmp c u (fun x => { x with armed := false, due := false, place := none, eph := none, fifo := false })

/-! ### Edge FIFO: the train -/

/-- The index of the first LOOP entry at or behind an index. -/
def fifoLoopAt (es : List FifoEnt) (i : Nat) : Option Nat := ((es.drop i).findIdx? (fun e => e.loop)).map (· + i)

/-- The body that entry i begins when the sequencer reaches it, or the entry alone outside any body; `none`: the sequencer must
not begin it (R69). -/
def fifoBegin (es : List FifoEnt) (i : Nat) : Option FifoBody :=
  match es[i]? with
  | none => none
  | some e =>
    match fifoLoopAt es i with
    | some l =>
      if ((es.take (l + 1)).drop (i + 1)).any (fun x => x.mark) then some ⟨i, i, 0⟩
      else some ⟨i, l, match es[l]? with | some x => x.repeats | none => 0⟩
    | none => if e.mark then none else some ⟨i, i, 0⟩

/-- A position with the entry at it begun. -/
def fifoBegun (es : List FifoEnt) (p : FifoPos) : Option FifoPos :=
  match p.body with
  | some _ => some p
  | none => (fifoBegin es p.idx).map (fun b => { p with body := some b })

/-- The next edge of a train from a begun position, and the position after it (R69, R86). Mark: DEDUCED, log entry 12. -/
def fifoEdge (es : List FifoEnt) (p : FifoPos) : Option (FifoEdge × FifoPos) :=
  match p.body, es[p.idx]? with
  | some b, some e =>
    let target := (p.prev + e.delta) % 2 ^ 38
    let edge : FifoEdge := ⟨target, e.act, e.recEn, e.wake, if e.loop then b.passes else e.repeats - p.reps⟩
    let next : FifoPos :=
      if ¬ e.loop ∧ p.reps < e.repeats then ⟨p.idx, p.reps + 1, some b, target⟩
      else if p.idx < b.last then ⟨p.idx + 1, 0, some b, target⟩
      else if b.passes = 65535 then ⟨b.first, 0, some b, target⟩
      else if 0 < b.passes then ⟨b.first, 0, some { b with passes := b.passes - 1 }, target⟩
      else ⟨b.last + 1, 0, none, target⟩
    some (edge, next)
  | _, _ => none

/-- The position of the first edge not yet fired. Mark: DEDUCED, log entry 12. -/
def Fifo.firedPos (f : Fifo) : FifoPos := match f.armed with | a :: _ => a.before | [] => f.next

/-- Entries in front that no edge still to fire needs. -/
def FifoPos.spent (p : FifoPos) : Nat := match p.body with | some b => b.first | none => p.idx

/-- A position after the removal of k entries in front. -/
def FifoPos.shift (p : FifoPos) (k : Nat) : FifoPos :=
  { p with idx := p.idx - k, body := p.body.map (fun b => { b with first := b.first - k, last := b.last - k }) }

/-- A loop body that runs at a position. -/
def Fifo.looping (f : Fifo) : Option FifoBody :=
  match f.firedPos.body with
  | some b => match f.ents[b.last]? with | some e => if e.loop then some b else none | none => none
  | none => none

def fifoCode (x : FifoState) : Nat := match x with | .idle => 0 | .run => 1 | .drained => 2 | .halted => 3 | .waitStart => 4

/-- `CHc_FIFO_STAT`, live. -/
def State.fifoStat (s : State) (c : Fin 96) : Word :=
  let f := s.ch[c].fifo
  let lo := f.ents.length + 32 * fifoCode f.state + 256 * s.rget (F.CHc_FIFO_STAT_ERR c)
  match f.looping with
  | some b => word (lo + 4096 + 65536 * b.passes)
  | none => word lo

def State.modFifo (s : State) (c : Fin 96) (g : Fifo → Fifo) : State := s.modCh c (fun x => { x with fifo := g x.fifo })

/-- A change of FIFO state: FIFO_STATE record, and the FIFO wake bit (R83, R102). A train that has drained catches up no more. -/
def State.fifoSet (s : State) (c : Fin 96) (x : FifoState) : State :=
  if s.ch[c].fifo.state = x then s
  else
    let s1 := s.modFifo c (fun f => { f with state := x, catchPin := if x = .drained then none else f.catchPin })
    let s2 := if x = .drained then s1.evt (F.CHc_EVT_FIFO_EMPTY_S c) else s1
    (s2.chEmit c 0x0B s2.now 0 (s2.fifoStat c) 0 0 0).wakeCh c 4

/-- Write an error code (R70). -/
def State.fifoErr (s : State) (c : Fin 96) (code : Nat) : State :=
  (s.rput (F.CHc_FIFO_STAT_ERR c) code).evt (F.CHc_EVT_FIFO_ERR_S c)

/-- Halt the train before its next edge (R71, R73). -/
def State.fifoHalt (s : State) (c : Fin 96) (code : Nat) : State := (s.fifoErr c code).fifoSet c .halted

/-- Remove the entries whose edges have all fired or been consumed, with the low-water mark (R69, R72) and the SPACE wakes
(R102). -/
def State.fifoTrim (s : State) (c : Fin 96) : State :=
  let f := s.ch[c].fifo
  let k := f.firedPos.spent
  if k = 0 then s
  else
    let n := f.ents.length
    let m := n - k
    let s1 := s.modFifo c (fun f =>
      { f with ents := f.ents.drop k, next := f.next.shift k, armed := f.armed.map (fun a => { a with before := a.before.shift k }) })
    let w := s1.rget (F.CHc_FIFO_CTL_LWM c)
    let s2 := if w ≠ 0 ∧ m ≤ w ∧ w < n then (s1.evt (F.CHc_EVT_FIFO_LWM_S c)).wakeCh c 4 else s1
    if n = 16 then s2.wakeSpace (gafOf c) (.fifo c.val) else s2

/-- The compare that takes a train's next edge (R61). -/
def State.fifoUnit (s : State) (c : Fin 96) : Nat := if s.rget (F.CHc_CTRL_OWN c) = 3 then 0 else s.ch[c].fifo.unit

/-- After an edge on a compare, the next goes to the other under OWN = FIFO, to A under FIFO_A (R61, R71). -/
def State.fifoOther (s : State) (c : Fin 96) (u : Nat) : Nat := if s.rget (F.CHc_CTRL_OWN c) = 3 then 0 else 1 - u

/-- The spacing rules of R71 for a target, after the given edges of the train and of the compare. An edge that lies before the other
one fails them. -/
def spacingOk (target : Nat) (prev same : Option Nat) : Bool :=
  (match prev with | none => true | some p => decide (128 ≤ halfRange ((target : Int) - p) (2 ^ 38))) &&
    (match same with | none => true | some p => decide (512 ≤ halfRange ((target : Int) - p) (2 ^ 38)))

/-- A train edge on a compare has fired with its pin change at `pin` (ball time): the sequencer's own bookkeeping (R67, R71, R73). Mark: DEDUCED, log entry 13. -/
def State.fifoFired (s : State) (c : Fin 96) (u : Nat) (late : Bool) (pin : Int) : State :=
  match s.ch[c].fifo.armed.find? (fun a => a.unit = u) with
  | none => s
  | some a =>
    let s1 := s.modFifo c (fun f =>
      { f with
        armed := f.armed.filter (fun b => b.unit ≠ u)
        lastEdge := some a.edge.target
        lastA := if u = 0 then some a.edge.target else f.lastA
        lastB := if u = 0 then f.lastB else some a.edge.target
        catchPin := if late then some pin else none })
    let s2 := s1.fifoTrim c
    if a.edge.wake then s2.wakeCh c 4 else s2

/-- Ball time at which the channel's compare u last made its edge. Mark: DEDUCED, log entry 13. -/
def State.lastBall (s : State) (c : Fin 96) (u : Nat) : Int :=
  ((if u = 0 then s.ch[c].lastA else s.ch[c].lastB : Nat) : Int) - s.outTrc c

/-- Where SKIP comes out: the position after the consumed edges, their number, the level, and the unit and target of the last
one. `d` is how far behind the first edge's target is (R73). Mark: DEDUCED, log entry 13. -/
def fifoSkip (es : List FifoEnt) : Nat → FifoPos → Int → Nat → Nat → Nat → Nat → Bool → Bool → FifoPos × Nat × Bool × Nat × Nat × Nat
  | 0, p, _, n, u, lastU, lastT, lv, _ => (p, n, lv, u, lastU, lastT)
  | k + 1, p, d, n, u, lastU, lastT, lv, fa =>
    match fifoBegun es p with
    | none => (p, n, lv, u, lastU, lastT)
    | some q =>
      match fifoEdge es q with
      | none => (q, n, lv, u, lastU, lastT)
      | some (e, q') =>
        let d' := d - (((e.target + 2 ^ 38 - q.prev) % 2 ^ 38 : Nat) : Int)
        if d' ≤ 0 then (q, n, lv, u, lastU, lastT)
        else fifoSkip es k q' d' (n + 1) (if fa then 0 else 1 - u) u e.target (actLevel lv e.act) fa

/-- SKIP at the present tick from a begun position whose previous edge's target is d behind: consume every edge that is behind,
move the pin once to the net level, and report the skip (R73). The move is a fire of its compare. Mark: DEDUCED, log entry 13; DESIGN CHOICE, log entry 106. -/
def State.fifoDoSkip (s : State) (c : Fin 96) (p : FifoPos) (d : Int) : State :=
  let fa := decide (s.rget (F.CHc_CTRL_OWN c) = 3)
  let u0 := s.fifoUnit c
  let (p', n, lv, u', lastU, lastT) := fifoSkip s.ch[c].fifo.ents (d.toNat / 128 + 1) p d 0 u0 u0 0 s.ch[c].ol fa
  let s1 := s.modFifo c (fun f => { f with next := p', unit := u', fromBase := false, catchPin := none })
  if lv = s1.ch[c].ol then
    let s2 := s1.fifoTrim c
    s2.chEmit c 0x0B s2.now 0 (s2.fifoStat c) (word n) 0 0
  else
    let u := decide (lastU = 1)
    let s2 := s1.modCmp c u (fun _ =>
      ⟨true, lastT, s1.tLaunch c - s1.dueD c lastT, if lv then 2 else 1, false, 0, true, false, none, false, none⟩)
    let s3 := s2.fireLate c u s2.stepNow false
    let t := if u then s3.ch[c].lastB else s3.ch[c].lastA
    let g := t % 2 ^ 38
    let s4 := (s3.modFifo c (fun f =>
      { f with lastEdge := some g, lastA := if u then f.lastA else some g, lastB := if u then some g else f.lastB })).fifoTrim c
    s4.chEmit c 0x0B t 0 (s4.fifoStat c) (word n) (word (1 + 2 * b2n lv)) 0

/-- The sequencer arms what it can: up to one edge per compare, testing each by R63 and R71 (R71 to R73). `under`: the train
continues from DRAINED. `ds`: D of the first edges where a positive step gives it without reduction (R36). Mark: DEDUCED, log entry 12. -/
def State.fifoFill : Nat → State → Fin 96 → Bool → List Int → State
  | 0, s, _, _, _ => s
  | k + 1, s, c, under, ds =>
    let f := s.ch[c].fifo
    let u := s.fifoUnit c
    if f.state ≠ .run ∨ f.armed.any (fun a => a.unit = u) ∨ (f.catchPin.isSome ∧ f.armed ≠ []) then s
    else
      match fifoBegun f.ents f.next with
      | none => if f.armed = [] ∧ (¬ f.fromBase ∨ f.ents ≠ []) then s.fifoSet c .drained else s
      | some p =>
        match fifoEdge f.ents p with
        | none => s
        | some (e, p') =>
          let d := ds.head?.getD (s.dueD c e.target)
          let flate := s.rget (F.CHc_CTRL_FLATE c)
          let same := if u = 0 then f.lastA else f.lastB
          let prev := match f.armed.getLast? with | some a => some a.edge.target | none => f.lastEdge
          let s := if under ∧ 0 < d then s.evt (F.CHc_EVT_UNDERRUN_S c) else s
          if 0 < d ∧ (f.armed ≠ [] ∨ s.held c) then s
          else if 0 < d ∧ flate = 2 then s.fifoHalt c 2
          else if 0 < d ∧ flate = 1 then
            fifoFill k (s.fifoDoSkip c p (d + (((e.target + 2 ^ 38 - p.prev) % 2 ^ 38 : Nat) : Int))) c false []
          else if ¬ spacingOk e.target prev same then (if f.armed = [] then s.fifoHalt c 1 else s)
          else
            let x : Cmp := ⟨true, e.target, s.tLaunch c - d, e.act, e.recEn, e.left, true, e.wake, none, false, none⟩
            let s1 := (s.modCmp c (decide (u = 1)) (fun _ => x)).modFifo c (fun f =>
              { f with
                armed := f.armed ++ [⟨u, e, p⟩]
                next := p'
                unit := s.fifoOther c u
                fromBase := false
                catchPin := if 0 < d then f.catchPin else none })
            if 0 < d then
              match f.catchPin with
              | none =>
                let s2 := s1.fireLate c (decide (u = 1)) s1.stepNow false
                fifoFill k (s2.fifoFired c u true (s2.lastBall c u)) c false ds.tail
              | some q =>
                s1.modCmp c (decide (u = 1)) (fun x =>
                  { x with place := some (max (q + (if s.rget (F.CHc_CTRL_OWN c) = 3 then 512 else 256)) (s.tLaunch c)) })
            else fifoFill k s1 c false ds.tail

/-- Fuel for the sequencer: each turn arms an edge on a free compare, consumes overdue ones, or ends. -/
def fifoFuel : Nat := 2 ^ 20

/-! ### Ephemeris: the table -/

/-- Word 1 of an entry (R108). -/
def EphEnt.word1 (x : EphEnt) : Word :=
  word (x.tgt % 64 + 64 * b2n x.timer + 256 * x.chan + 4096 * x.unit + 8192 * x.act + 32768 * b2n x.recEn + 65536 * x.tag)

def EphEnt.word2 (x : EphEnt) : Word :=
  word (x.thr + 16 * b2n x.tight + 32 * b2n x.committed + 64 * b2n x.angle + 128)

/-- The entry in its slot of the ephemeris partition (R108). -/
def State.ephStore (s : State) (e : Fin 8) (x : EphEnt) : State :=
  s.sramWr ((s.reg (R.Ge_EPH_BASE e)).toNat + 16 * x.slot) [word (x.tgt / 64), x.word1, x.word2, word x.insNs]

/-- Change the entry of a slot. -/
def State.ephMod (s : State) (e : Fin 8) (slot : Nat) (f : EphEnt → EphEnt) : State :=
  match s.gaf[e].eph.find? (fun x => x.slot = slot) with
  | none => s
  | some x => (s.modGaf e (fun g => { g with eph := g.eph.map (fun y => if y.slot = slot then f y else y) })).ephStore e (f x)

/-- Remove the entry of a slot: VALID clears, and threads that wait for space are woken. -/
def State.ephDrop (s : State) (e : Fin 8) (slot : Nat) : State :=
  let a := (s.reg (R.Ge_EPH_BASE e)).toNat + 16 * slot
  let full := s.gaf[e].eph.length = 256
  let s1 := s.modGaf e (fun g => { g with eph := g.eph.filter (fun y => y.slot ≠ slot) })
  let s2 := { s1 with sram := memWrW s1.sram (a + 8) (memRdW s1.sram (a + 8) &&& 0xFFFFFF7F) }
  if full then s2.wakeSpace e .ephemeris else s2

/-- Entries of one compare's queue, in target order (R108). -/
def State.ephQueue (s : State) (e : Fin 8) (i : Nat) (u : Nat) : List EphEnt :=
  s.gaf[e].eph.filter (fun x => !x.timer && x.chan = i && x.unit = u)

/-- Channel i of Gaffer e. -/
def chanOf (e : Fin 8) (i : Fin 12) : Fin 96 := ⟨12 * e.val + i.val, by omega⟩

/-- Local number of a channel within its Gaffer. -/
def localOf (c : Fin 96) : Nat := c.val % 12

/-- The observed latency of a wake, in ns, as its first entry is armed (R113). -/
def State.latObserve (s : State) (e : Fin 8) (woke : Option Nat) : State :=
  match woke with
  | none => s
  | some w =>
    let ns := min ((s.now - w + 63) / 64) 65535
    (s.rput (F.Ge_LAT_MAX_OBS_MAX e) (max (s.rget (F.Ge_LAT_MAX_OBS_MAX e)) ns)).modGaf e (fun g =>
      { g with obs := (s.spine.tick, ns) :: g.obs.filter (fun x => decide (ns < x.2)) })

/-- `Ge_LEAD_MEAS.OBS`: the largest latency observed over the last 10 s (R113). -/
def State.obsNow (s : State) (e : Fin 8) : Nat :=
  (s.gaf[e].obs.filter (fun x => decide (s.spine.tick < x.1 + 10000000000))).foldl (fun (a : Nat) x => max a x.2) 0

/-- `Ge_LEAD_MEAS` as it reads: MODEL of the last re-plan, and OBS (R113). -/
def State.leadMeas (s : State) (e : Fin 8) : Word := wset (s.reg (R.Ge_LEAD_MEAS e)) 16 16 (s.obsNow e)

/-- An ephemeris entry has fired: it is removed, and counted if late (R110). -/
def State.ephFired (s : State) (c : Fin 96) (slot : Option Nat) (late : Bool) : State :=
  match slot with
  | none => s
  | some k =>
    let s1 := s.ephDrop (gafOf c) k
    if late then s1.rwrap (F.Ge_LATE_CNT_LATE (gafOf c)) 1 else s1

/-- Compare A fires in its launch tick before a fire of B in that tick (R66); the ephemeris arms A's next one after it. -/
def State.fireA (s : State) (c : Fin 96) : State :=
  let y := s.ch[c].cmpA
  let s1 := s.fireTimely c false
  if y.fifo then State.fifoFill fifoFuel (s1.fifoFired c 0 y.place.isSome (s1.lastBall c 0)) c false []
  else s1.ephFired c y.eph y.place.isSome

/-- Compare A waits to fire in the present tick, and goes before a fire of B in it (R66): unless B's launch tick was an earlier one. -/
def State.aFirst (s : State) (c : Fin 96) : Bool :=
  let a := s.ch[c].cmpA
  let b := s.ch[c].cmpB
  s.launched c false && !(b.armed && decide (b.ask < a.ask) && decide (b.ask < s.tLaunch c))

/-- Keep the earliest entry of a queue committed to its compare (R110). A fire of B that this brings about lets A go first (R66). -/
def State.ephCommit : Nat → State → Fin 96 → Bool → State
  | 0, s, _, _ => s
  | k + 1, s, c, u =>
    let e := gafOf c
    match s.ephQueue e (localOf c) (b2n u) with
    | [] => s
    | x :: _ =>
      if x.committed then s
      else
        let y := cmpOf s.ch[c] u
        if y.armed ∧ s.launched c u ∧ ¬ s.held c then
          if u ∧ s.aFirst c then ephCommit k (ephCommit k (s.fireA c) c false) c u
          else ephCommit k ((s.fireTimely c u).ephFired c y.eph false) c u
        else
          let s1 := match y.eph with
            | some o => if y.armed then s.ephMod e o (fun z => { z with committed := false }) else s
            | none => s
          let s2 := (s1.ephMod e x.slot (fun z => { z with committed := true, woke := none })).latObserve e x.woke
          let s3 := s2.loadCmp c u x.tgt x.act x.recEn x.tag false false (some x.slot)
          if s3.behind c u then
            let s4 := if u ∧ s3.launched c false then ephCommit k (s3.fireA c) c false else s3
            ephCommit k ((s4.fireLate c u s4.stepNow false).ephFired c (some x.slot) true) c u
          else s3

/-- Fuel for commits: each turn fires or commits one of at most 256 entries. -/
def ephFuel : Nat := 600

/-! ### Fires with what follows them -/

/-- The owner of a compare that has fired arms its next target (R71, R110). `y` is the compare before the fire. -/
def State.afterFire (s : State) (c : Fin 96) (u : Bool) (y : Cmp) (late : Bool) : State :=
  let s1 := if y.fifo then s.fifoFired c (b2n u) late (s.lastBall c (b2n u)) else s.ephFired c y.eph late
  if y.fifo then State.fifoFill fifoFuel s1 c false []
  else if y.eph.isSome then State.ephCommit ephFuel s1 c u
  else s1

/-- A compare that its launch tick has reached fires, or is marked due while its channel is held (R60, R63). -/
def State.cmpReachOne (s : State) (c : Fin 96) (u : Bool) : State :=
  if ¬ s.launched c u then s
  else if s.held c then s.modCmp c u (fun x => { x with due := true })
  else
    let y := cmpOf s.ch[c] u
    (s.fireTimely c u).afterFire c u y y.place.isSome

/-- The launch tick of a compare has come: A fires before B where both are due in the tick (R60, R63, R66). Mark: DESIGN CHOICE, log entry 11. -/
def State.cmpReach (s : State) (c : Fin 96) (u : Bool) : State :=
  (if u && s.launched c true && s.aFirst c then s.cmpReachOne c false else s).cmpReachOne c u

/-- A compare that is behind fires late, and its owner arms the next (R63); a late B leaves an A that its launch tick has reached its place
(R66). -/
def State.cmpLate (s : State) (c : Fin 96) (u : Bool) (step : Bool) : State :=
  let s := if u && s.launched c false then s.cmpReachOne c false else s
  let y := cmpOf s.ch[c] u
  (s.fireLate c u step false).afterFire c u y true

/-- A host arms a compare (R63, R64): an old target whose launch tick is reached fires first, and a late B leaves A its place (R66). In a
hold no compare fires (R60): an old target already due is replaced with the others. Mark: DESIGN CHOICE, log entry 87. -/
def State.cmpArm (s : State) (c : Fin 96) (u : Bool) (target act : Nat) (recEn : Bool) (tag : Nat) : State :=
  let s1 := if s.held c then s else s.cmpReach c u
  let s2 := s1.loadCmp c u target act recEn tag false false none
  if s2.behind c u then s2.cmpLate c u s2.stepNow else s2

/-- Disarm a compare, unless its launch tick is reached: then it fires (R64). In a hold none fires. Mark: DESIGN CHOICE, log entry 87. -/
def State.cmpDisarm (s : State) (c : Fin 96) (u : Bool) : State :=
  let s1 := if s.held c then s else s.cmpReach c u
  s1.disarmCmp c u

/-- Judge an armed compare again at the present tick: behind, it fires late or is due; ahead, it waits on (R36, R49). -/
def State.cmpRejudge (s : State) (c : Fin 96) (u step : Bool) : State :=
  let x := cmpOf s.ch[c] u
  if x.armed ∧ x.ask < s.tLaunch c then
    if s.held c then s.modCmp c u (fun y => { y with due := true }) else s.cmpLate c u step
  else s

/-- A positive step has passed the first armed edge of a train: the train stands before it again, and it and the armed edge behind it
follow FLATE, with D not reduced (R36, R73, R91). An edge that CATCH has placed fires at once, one that it passed while the channel is
held is due. Mark: DEDUCED, log entry 13. -/
def State.fifoStep (s : State) (c : Fin 96) : State :=
  match s.ch[c].fifo.armed with
  | [] => s
  | a :: rest =>
    let u := decide (a.unit = 1)
    let x := cmpOf s.ch[c] u
    if s.tLaunch c ≤ x.ask then s
    else if s.held c ∨ x.place.isSome then (s.cmpRejudge c u true)
    else
      let lag (b : FifoArmed) : Int := s.tLaunch c - (cmpOf s.ch[c] (decide (b.unit = 1))).tb
      let s1 := (a :: rest).foldl (fun (s : State) b => s.disarmCmp c (decide (b.unit = 1))) s
      let s2 := s1.modFifo c (fun f => { f with next := a.before, unit := a.unit, armed := [] })
      State.fifoFill fifoFuel s2 c false ((a :: rest).map lag)

/-- A channel after a positive step: its train, then the compares that do not belong to it, A before B (R36, R66, R91). -/
def State.stepChannel (s : State) (c : Fin 96) : State :=
  let one (s : State) (u : Bool) : State := if (cmpOf s.ch[c] u).fifo && !s.held c then s else s.cmpRejudge c u true
  one (one (s.fifoStep c) false) true

/-- All compares of all channels after a positive step (R36). -/
def State.stepRejudge (s : State) : State := (List.finRange 96).foldl (fun s (c : Fin 96) => s.stepChannel c) s

/-- Armed compares of a channel adopt a new trace delay or launch advance (R49, R56). -/
def State.cmpRetime (s : State) (c : Fin 96) (oldTrc : Int) : State :=
  let shift := oldTrc - s.outTrc c
  let move (x : Cmp) : Cmp := if x.armed then { x with tb := x.tb + shift, place := x.place.map (· + shift) } else x
  let s1 := s.modCh c (fun x => { x with cmpA := move x.cmpA, cmpB := move x.cmpB })
  (s1.cmpRejudge c false s1.stepNow).cmpRejudge c true s1.stepNow

/-! ### Holds -/

/-- The compares of a channel that its release fires: in target order, A before B (R60). -/
def State.relFire (s : State) (c : Fin 96) (dueA dueB : Bool) : State :=
  let fire (s : State) (u : Bool) : State := s.fireLate c u s.stepNow true
  if dueA ∧ dueB then
    (if s.ch[c].cmpB.tb < s.ch[c].cmpA.tb then fire (fire s true) false else fire (fire s false) true)
  else if dueA then fire s false
  else if dueB then fire s true
  else s

/-- The pin of a released channel moves once, at its launch, if its output level has changed: 2.0 ns behind its last change at least, and
counted where that stretches it (R65). Mark: DEDUCED, log entry 14. -/
def State.relPin (s : State) (c : Fin 96) (ol : Bool) : State :=
  if s.ch[c].ol != ol && s.drives c then
    let tp := s.pinSlot c (s.tLaunch c)
    let s1 := (s.pinMoved c tp).count c 4
    if tp = s.tLaunch c then s1 else (s1.rsat (F.CHc_ERRCNT_RUNT c) 1).evt (F.CHc_EVT_RUNT_S c)
  else s

/-- A compare that was marked due in its launch tick, and is released in it, waits for its target again. -/
def State.relWait (s : State) (c : Fin 96) (u : Bool) (y : Cmp) : State :=
  if y.armed ∧ y.due ∧ s.tLaunch c ≤ y.ask then (s.modCmp c u (fun x => { x with due := false })).cmpReachOne c u else s

/-- Release of a hold: due compares fire late on tap 0 in target order, A before B, the pin moves once, and the train and the
queues resume (R60, R73). A compare that was marked due in its launch tick, and is released in it, still meets its target. Mark: DEDUCED, log entry 14. -/
def State.holdRelease (s : State) (c : Fin 96) : State :=
  let a := s.ch[c].cmpA
  let b := s.ch[c].cmpB
  let dueA := a.armed && decide (a.ask < s.tLaunch c)
  let dueB := b.armed && decide (b.ask < s.tLaunch c)
  let s2 := (s.relFire c dueA dueB).relPin c s.ch[c].ol
  let s3 := if dueA then s2.afterFire c false a true else s2
  let s4 := if dueB then s3.afterFire c true b true else s3
  State.fifoFill fifoFuel ((s4.relWait c false a).relWait c true b) c false []

/-- What follows for a channel when something that may hold it has changed: entry to a hold keeps the level driven, the end of it is a
release (R60). A new level of the ball reaches the input path (R55). `old` is the state before the change. Mark: DESIGN CHOICE, log entry 10. -/
def State.holdMoved (s old : State) (c : Fin 96) : State :=
  if s.held c ∧ ¬ old.held c then (s.modCh c (fun x => { x with heldLvl := old.ballLevel c })).pinEcho old c s.now
  else if old.held c ∧ ¬ s.held c then
    let s1 := s.holdRelease c
    s1.pinEcho old c (if s1.ch[c].ol = old.ch[c].ol then s.now else s1.ch[c].lastPin.getD (s.tLaunch c))
  else s.pinEcho old c s.now

/-- Change what holds a channel. -/
def State.holdChange (s : State) (c : Fin 96) (f : State → State) : State := (f s).holdMoved s c

/-! ### Edge FIFO: control (R67, R70) -/

/-- Results of a push, in the codes of CHRES (R138). -/
inductive FifoRes where
  | ok | full | delta | own
  deriving DecidableEq, Repr

/-- The entry that two words make (R67). -/
def fifoEntry (lo hi : Word) : FifoEnt :=
  ⟨wfld lo 0 24 * 64 + wfld lo 24 6, wfld lo 30 2, wfld hi 0 16, wfld hi 16 1 = 1, wfld hi 17 1 = 1, wfld hi 18 1 = 1, wfld hi 19 1 = 1⟩

/-- What a push of an entry would answer (R67). -/
def State.fifoTest (s : State) (c : Fin 96) (e : FifoEnt) : FifoRes :=
  if e.delta < 128 then .delta else if 16 ≤ s.ch[c].fifo.ents.length then .full else .ok

/-- A refused push writes ERR, except over the reason of a halt, and sets FIFO_ERR_S (R67, R70). -/
def State.fifoRefuse (s : State) (c : Fin 96) (code : Nat) : State :=
  let keep := s.ch[c].fifo.state = .halted ∧ (s.rget (F.CHc_FIFO_STAT_ERR c) = 1 ∨ s.rget (F.CHc_FIFO_STAT_ERR c) = 2)
  if keep then s.evt (F.CHc_EVT_FIFO_ERR_S c) else s.fifoErr c code

/-- Push an accepted entry; a drained train that can go on does so (R72). -/
def State.fifoAppend (s : State) (c : Fin 96) (e : FifoEnt) : State :=
  let s1 := s.modFifo c (fun f => { f with ents := f.ents ++ [e] })
  let f := s1.ch[c].fifo
  if f.state = .drained ∧ (fifoBegun f.ents f.next).isSome then State.fifoFill fifoFuel (s1.fifoSet c .run) c true []
  else State.fifoFill fifoFuel s1 c false []

/-- Push an entry from a host path (R67). -/
def State.fifoPush (s : State) (c : Fin 96) (e : FifoEnt) : State :=
  match s.fifoTest c e with
  | .delta => s.fifoRefuse c 3
  | .full => s.fifoRefuse c 4
  | _ => s.fifoAppend c e

/-- The train begins at its base, and with it the spacing rules: no edge from before the START takes part in them (R70, R71). Mark: DESIGN CHOICE, log entry 106. -/
def State.fifoBegin (s : State) (c : Fin 96) : State :=
  let base := s.rget (F.CHc_FIFO_BASE_LO_NS_LO c) * 64 + s.rget (F.CHc_FIFO_BASE_SUB_SUB c)
  let s1 := s.modFifo c (fun f =>
    { f with next := { f.next with prev := base }, unit := 0, lastEdge := none, lastA := none, lastB := none, catchPin := none,
             fromBase := true })
  State.fifoFill fifoFuel (s1.fifoSet c .run) c false []

/-- START (R70). -/
def State.fifoStart (s : State) (c : Fin 96) (waits : Bool) : State × FifoRes :=
  let own := s.rget (F.CHc_CTRL_OWN c)
  if own < 2 then (s.fifoErr c 5, .own)
  else if s.ch[c].fifo.state = .run ∨ s.ch[c].fifo.state = .waitStart then (s, .ok)
  else
    let s1 := s.rput (F.CHc_FIFO_STAT_ERR c) 0
    if waits then (s1.fifoSet c .waitStart, .ok) else (s1.fifoBegin c, .ok)

/-- Take the armed edges back: the train stands at the first edge not fired (R70). Edges in their launch tick fire first (R64). Mark: DEDUCED, log entry 12. -/
def State.fifoUnarm (s : State) (c : Fin 96) : State :=
  let launch (s : State) (u : Bool) : State :=
    if (cmpOf s.ch[c] u).fifo ∧ s.launched c u ∧ ¬ s.held c then
      let y := cmpOf s.ch[c] u
      let s1 := s.fireTimely c u
      s1.fifoFired c (b2n u) y.place.isSome (s1.lastBall c (b2n u))
    else s
  let s1 := launch (launch s false) true
  let take (s : State) (u : Bool) : State := if (cmpOf s.ch[c] u).fifo then s.disarmCmp c u else s
  let s2 := take (take s1 false) true
  s2.modFifo c (fun f =>
    { f with next := f.firedPos, unit := match f.armed with | a :: _ => a.unit | [] => f.unit, armed := [], catchPin := none })

/-- STOP disarms a compare whoever has loaded it (R70); in its launch tick it fires. An entry of the ephemeris that was committed to it stays
there, no longer committed. Mark: DEDUCED, log entry 12. -/
def State.stopCmp (s : State) (c : Fin 96) (u : Bool) : State :=
  let y := cmpOf s.ch[c] u
  if ¬ y.armed then s
  else if s.launched c u ∧ ¬ s.held c then (s.fireTimely c u).ephFired c y.eph false
  else
    let s1 := match y.eph with
      | some o => s.ephMod (gafOf c) o (fun z => { z with committed := false })
      | none => s
    s1.disarmCmp c u

/-- STOP (R70). -/
def State.fifoStop (s : State) (c : Fin 96) : State := (((s.fifoUnarm c).stopCmp c false).stopCmp c true).fifoSet c .idle

/-- A STOP or FLUSH that a host writes takes effect after the Gaffer's operations of its tick (R147). -/
def State.noteHostStop (s : State) (c : Fin 96) : State := s.modFifo c (fun f => { f with hostStop := some s.spine.tick })

/-- FLUSH (R70): a STOP, whose record shows the FIFO as it stood, and the FIFO is emptied. It is no fall of the entry count to the low-water mark: neither event nor wake of R72 follows. Mark: DESIGN CHOICE, log entry 88; DESIGN CHOICE, log entry 106. -/
def State.fifoFlush (s : State) (c : Fin 96) : State :=
  let full := s.ch[c].fifo.ents.length = 16
  let s1 := (s.fifoStop c).modFifo c (fun f => { f with ents := [], next := ⟨0, 0, none, f.next.prev⟩ })
  let s2 := s1.rput (F.CHc_FIFO_STAT_ERR c) 0
  if full then s2.wakeSpace (gafOf c) (.fifo c.val) else s2

/-- The armed edges that belong to the pass of the first one: each lies behind the one before it in the same pass of the same body. -/
def passEdges (a : FifoArmed) : List FifoArmed → List FifoArmed
  | [] => []
  | b :: rest =>
    if a.before.body = b.before.body ∧
        (a.before.idx < b.before.idx ∨ (a.before.idx = b.before.idx ∧ a.before.reps < b.before.reps)) then b :: passEdges b rest
    else []

/-- A position in the last pass of its body. -/
def FifoPos.lastPass (p : FifoPos) : FifoPos := { p with body := p.body.map (fun b => { b with passes := 0 }) }

/-- BREAK: the pass in progress, that of the first edge not yet fired, is the last one (R69, R87); in the last pass it changes nothing
(R91). The armed edges of the pass stay armed, wherever CATCH or a hold has put them; an edge already armed for a pass that does not come is
armed no more. A train that does not run keeps its passes. Mark: DESIGN CHOICE, log entry 89. -/
def State.fifoBreak (s : State) (c : Fin 96) : State :=
  let f := s.ch[c].fifo
  if f.state ≠ .run ∨ f.looping.all (fun b => b.passes = 0) then s
  else
    match f.armed with
    | [] => s.modFifo c (fun f => { f with next := f.next.lastPass })
    | a :: rest =>
      let keep := a :: passEdges a rest
      let lost := f.armed.drop keep.length
      let last (b : FifoArmed) : FifoArmed :=
        let loop : Bool := match f.ents[b.before.idx]? with | some e => e.loop | none => false
        { b with before := b.before.lastPass, edge := { b.edge with left := if loop then 0 else b.edge.left } }
      let kept := keep.map last
      let s1 := lost.foldl (fun (s : State) b => s.disarmCmp c (decide (b.unit = 1))) s
      let s2 := kept.foldl (fun (s : State) b => s.modCmp c (decide (b.unit = 1)) (fun x => { x with tag := b.edge.left })) s1
      let next : FifoPos := match kept.getLast? with
        | some b => match fifoEdge f.ents b.before with | some (_, p) => p | none => f.next
        | none => f.next
      let s3 := s2.modFifo c (fun f => { f with armed := kept, next := next, unit := match lost with | b :: _ => b.unit | [] => f.unit })
      State.fifoFill fifoFuel s3 c false []

/-! ### Purges (R112) -/

/-- EPH_PURGE record and event, if anything was removed. -/
def State.ephPurged (s : State) (e : Fin 8) (chan cause n : Nat) : State :=
  if n = 0 then s
  else (s.emit 0x1F 105 s.now 0 (word (e.val + 16 * chan + 256 * cause + 65536 * n)) 0 0 0).evt (F.Ge_EVT_PURGE_S e)

/-- Remove the entries that a predicate names. -/
def State.ephRemove (s : State) (e : Fin 8) (p : EphEnt → Bool) : State :=
  (s.gaf[e].eph.filter p).foldl (fun s x => s.ephDrop e x.slot) s

/-- Gaffer owns compare u under an owner code (R61). -/
def gafferOwns (own : Nat) (u : Nat) : Bool := own = 1 || (own = 3 && u = 1)

/-- An insert of the tick of an owner change comes behind it, and is refused (R112, R147). -/
def State.ephRefused (s : State) (e : Fin 8) (n : Nat) : State :=
  (s.rsat (F.Ge_EPH_CNT_REFUSED e) 1).modThr e ⟨n % 16, by omega⟩ (fun t => { t with ephres := 4 })

/-- A strobe changes OWN: both compares are disarmed without firing, the train stops, and entries that lose their owner go (R61,
R112). A halted or drained train becomes IDLE too, and entries that keep their owner stay, committed again with the next insert. Mark: DESIGN CHOICE, log entry 106. -/
def State.ownChange (s : State) (c : Fin 96) (old new : Nat) : State :=
  let e := gafOf c
  let s1 := (s.disarmCmp c false).disarmCmp c true
  let s2 := s1.modFifo c (fun f => { f with next := f.firedPos, armed := [], catchPin := none })
  let s3 := s2.fifoSet c .idle
  let gone (x : EphEnt) : Bool := !x.timer && x.chan = localOf c && gafferOwns old x.unit && !gafferOwns new x.unit
  let fresh (x : EphEnt) : Bool := gone x && x.tick = s.spine.tick
  let n := (s3.gaf[e].eph.filter (fun x => gone x && !fresh x)).length
  let s3 := (s3.gaf[e].eph.filter fresh).foldl (fun (a : State) x => a.ephRefused e x.thr) s3
  let s4 := (s3.ephRemove e gone).ephPurged e (localOf c) 0 n
  (s4.gaf[e].eph.filter (fun x => !x.timer && x.chan = localOf c && x.committed)).foldl
    (fun (s : State) x => s.ephMod e x.slot (fun z => { z with committed := false })) s4

end Sys2Proof.Machine
end

