-- ==== Sys2Proof/Machine/LehrTime.lean ====
section
/-!
DEFINITION. What the passage of spine time does to the Lehr: deadlines that a step passes, and windows that come due (R203 to R206, R219).
-/
namespace Sys2Proof.Machine
open Sys2Proof

def State.modLehr (s : State) (f : Lehr → Lehr) : State := { s with lehr := f s.lehr }

/-- The current microsecond N (R203). -/
def State.lhNow (s : State) : Nat := s.nowNs / 1000

/-- A LEHR_STATE record (R230). -/
def State.lhState (s : State) (kind : Nat) (w5 w6 : Word) : State := s.emit 0x16 102 s.now 0 (word kind) w5 w6 0

/-- Every window whose prefetch has not completed when N reaches its start (R219) is counted and reported once. Mark: DEDUCED, log entry 54. -/
def State.lhLateCheck (s : State) : State :=
  let lo := max s.lehr.lateFrom (s.lehr.pb / 4096)
  let n := s.lhNow / 4096 + 1 - lo
  if s.ron F.LH_CTRL_EN ∧ n ≠ 0 then
    (List.range n).foldl (fun (a : State) i => a.lhState 2 0 (word (lo + i)))
      (((s.modLehr (fun l => { l with lateFrom := lo + n })).rsat F.LH_PFCNT_LATEWIN n).evt F.LH_EVT_PF_LATE_S)
  else s

/-- A positive step makes deadlines due at once, whose records carry STEP (R205), and skips windows (R219). Mark: DEDUCED, log entry 54. -/
def State.lhPass (s : State) : State :=
  let mark := fun (e : LhEnt) => if e.dl ≤ (s.lhNow : Int) then { e with step := true } else e
  (s.modLehr (fun l => { l with near := l.near.map mark, slots := l.slots.map (fun x => (x.1, mark x.2)), far := l.far.map mark })).lhLateCheck

end Sys2Proof.Machine
end

