-- ==== Sys2Proof/Machine/Spine.lean ====
section
/-!
DEFINITION. The time spine: phase commands, holds and slews, the PLL tick, the reference, and the PPS balls (R27 to R47).
-/
namespace Sys2Proof.Machine
open Sys2Proof

/-- The Ewerlink servo owns the spine (R41). -/
def State.servoOwns (s : State) : Bool :=
  s.rget F.SPN_CTRL_MODE = 1 && s.ron F.EL_CTRL_EN && s.ron F.EL_STAT_HASPARENT

/-- Refuse a command or rate write (R34). -/
def State.spnRefuse (s : State) (code : Nat) : State := (s.rput F.SPN_STAT_CMD_ERR code).evt F.SPN_EVT_CMD_ERR_S

/-- T of pending APPLY_AT entry i, in ns. -/
def State.apT (s : State) (i : Nat) : Nat := (s.reg (R.AP_PENDi_LO i)).toNat + 2 ^ 32 * (s.reg (R.AP_PENDi_HI i)).toNat

/-- A positive step from a time (in subs) to the present marks the pending APPLY_AT entries that it passed (R314). -/
def State.apPass (s : State) (pre : Nat) : State :=
  (List.range 8).foldl (fun s i =>
    if s.ron (F.AP_PENDi_INFO_VALID i) ∧ pre < s.apT i * 64 ∧ s.apT i * 64 ≤ s.now then
      { s with ap := { s.ap with passed := s.ap.passed ||| BitVec.ofNat 8 (2 ^ i) } }
    else s) s

/-- A signed amount in subs as SPINE_STEP and SPINE_SLEW_DONE carry it: ns[31:0], ns[63:32], sub (R44). -/
def amountWords (a : Int) : Word × Word × Nat :=
  let ns := (a / 64) % (2 ^ 64 : Nat)
  (word (ns.toNat), word (ns.toNat / 2 ^ 32), (a % 64).toNat)

/-- An amount or time operand: ns two's complement or unsigned, and sub (R33, R35). -/
def operandSubs (isSigned : Bool) (q : SpnCmd) : Int :=
  let v := q.ns.1.toNat + 2 ^ 32 * q.ns.2.toNat
  (if isSigned then signed v 64 else (v : Int)) * 64 + q.sub

/-- STEP and SET (R35 to R37): a positive amount at once, a negative one as a hold, or RANGE. An amount of exactly 0 counts as a positive
step. Mark: DEDUCED, log entry 6; DESIGN CHOICE, log entry 100. -/
def State.stepBy (s : State) (a : Int) (isSet : Bool) : State :=
  let (w4, w5, sub) := amountWords a
  if 0 ≤ a then
    let s1 := s.modSpine (fun p => { p with acc := p.acc + BitVec.ofNat 104 (a.toNat * 2 ^ 34), stepTick := some p.tick })
    let s2 := s1.rput F.SPN_STAT_COARSE 0
    (((s2.emit 0x18 105 s2.now 0 w4 w5 (word (sub + 256 * b2n isSet)) 0).stepRejudge).apPass s.now).lhPass
  else
    let (n0, f0) := match s.spine.hold with | some h => (h.n, h.f) | none => (0, 0)
    let u := n0 * 2 ^ 40 + f0 + (-a).toNat * 2 ^ 34
    if 2 ^ 37 ≤ (-a).toNat ∨ 2 ^ 71 ≤ u then s.spnRefuse 3
    else
      let s1 := s.modSpine (fun p => { p with hold := some ⟨u / 2 ^ 40, u % 2 ^ 40⟩ })
      let s2 := s1.rput F.SPN_STAT_COARSE 0
      s2.emit 0x18 105 s2.now 0 w4 w5 (word (sub + 256 * b2n isSet + 1024)) 0

/-- SPINE_SLEW_DONE of a slew that gave a shift in units of 2^-40 ns, at a spine time (R39, R44); a whole slew clears COARSE (R52). The
shift of an aborted slew is rounded down to whole subs. Mark: DESIGN CHOICE, log entry 8. -/
def State.slewReport (s : State) (shift : Int) (aborted : Bool) (t : Nat) : State :=
  let (w4, w5, sub) := amountWords (shift / 2 ^ 34)
  let s1 := s.modSpine (fun p => { p with slew := none })
  let s2 := if aborted then s1 else s1.rput F.SPN_STAT_COARSE 0
  s2.emit 0x19 105 t 0 w4 w5 (word (sub + 256 * b2n aborted)) 0

/-- End a slew that has given its whole shift (R39). -/
def State.slewFinish (s : State) : State :=
  match s.spine.slew with
  | some l => match l.doneAt with | some t => s.slewReport l.total false t | none => s
  | none => s

/-- End a running slew where it stands (R40). -/
def State.slewStop (s : State) : State :=
  match s.spine.slew with
  | some l => match l.doneAt with | some t => s.slewReport l.total false t | none => s.slewReport (l.total - l.left) true s.now
  | none => s

/-- SLEW (R39, R40): `a` in subs over `dur` µs. -/
def State.slewBegin (s : State) (a : Int) (dur : Nat) : State :=
  let shift := a * 2 ^ 34
  let rate := roundDivI shift (dur * 1000)
  if dur = 0 ∨ 2 ^ 37 ≤ a.natAbs ∨ 2147483647 < rate.natAbs then s.spnRefuse 3
  else
    let s1 := s.slewStop
    s1.modSpine (fun p => { p with slew := some ⟨rate, shift, shift, if a = 0 then some s1.now else none⟩ })

/-- Execute a command at the present tick (R34 to R40). -/
def State.spnRun (s : State) (q : SpnCmd) : State :=
  match q.op with
  | .nop => s
  | .set => s.stepBy (operandSubs false q - s.now) true
  | .step => s.stepBy (operandSubs true q) false
  | .slew => s.slewBegin (operandSubs true q) q.dur
  | .slewAbort =>
    match s.spine.slew with
    | none => s.spnRefuse 4
    | some _ => s.slewStop

def spnCode (op : SpnOp) : Nat := match op with | .nop => 0 | .set => 1 | .step => 2 | .slew => 3 | .slewAbort => 4

/-- A `SPN_CMD` write (R34, R41): ILLEGAL is tested first, then OWNED, then BUSY. `op` is `none` for a reserved OP. Mark: DESIGN CHOICE, log entry 5. -/
def State.spnCommand (s : State) (op : Option SpnOp) (code : Nat) (waits : Bool) (ag : Nat) : State :=
  let s0 := s.rput F.SPN_STAT_LAST_OP code
  match op with
  | none => s0.spnRefuse 5
  | some o =>
    if s0.servoOwns then s0.spnRefuse 2
    else if s0.spine.pend.isSome then s0.spnRefuse 1
    else
      let s1 := s0.rput F.SPN_STAT_CMD_ERR 0
      let q : SpnCmd := ⟨o, (s1.reg R.SPN_OPD_LO, s1.reg R.SPN_OPD_HI), s1.rget F.SPN_OPD_SUB_SUB, (s1.reg R.SPN_DUR).toNat, ag⟩
      if waits then s1.modSpine (fun p => { p with pend := some q }) else s1.spnRun q

/-- A host write to `SPN_RATE` (R33, R41). Mark: DESIGN CHOICE, log entry 5. -/
def State.rateWrite (s : State) (v : Word) : State := if s.servoOwns then s.spnRefuse 2 else s.setReg R.SPN_RATE v

/-- The strobe of a group runs the command that waits for it (R34). -/
def State.spnStrobe (s : State) (g : Nat) : State :=
  match s.spine.pend with
  | some q => if q.ag = g then (s.modSpine (fun p => { p with pend := none })).spnRun q else s
  | none => s

/-! ### The tick -/

/-- The sum of rate and slew lies outside the rate range (R30). -/
def State.rateClamped (s : State) : Bool := s.rateEff != s.rateWord + s.slewNow

/-- The spine advances by one tick's increment less a part f of a ns; the slew gives its contribution (R30, R37, R39). -/
def State.spineAdvance (s : State) (f : Nat) : State :=
  let inc := s.tickInc - f
  let give := s.rateEff - s.rateWord
  let s1 := if s.rateClamped then s.evt F.SPN_EVT_RATE_CLAMP else s
  s1.modSpine (fun p =>
    let acc := p.acc + BitVec.ofNat 104 inc
    { p with
      acc := acc
      slew := p.slew.map (fun l =>
        if l.doneAt.isSome then l
        else
          let left := l.left - give
          { l with left := left, doneAt := if left = 0 then some (acc.toNat / 2 ^ 34) else none }) })

/-! ### Reference and PLL (R28, R29) -/

/-- SPINE_REF with the values after the change (R44). -/
def State.refRecord (s : State) : State :=
  s.emit 0x1A 105 s.now 0 (word (s.rget F.SPN_STAT_REF_LOST + 2 * s.rget F.SPN_STAT_LOCKED)) 0 0 0

/-- A loss of lock (R29). Mark: DEDUCED, log entry 67. -/
def State.lockLost (s : State) (f : Fld) : State :=
  ((((s.rput F.SPN_STAT_LOCKED 0).rput F.SPN_STAT_REF_LOST 1).evt f).rsat F.SPN_PLL_CNT_LOSS_CNT 1).refRecord

/-! ### Rows 0 to 15 of the opcode table -/

/-- An event of the reference or the PLL: it runs on while the device is frozen (R29, R378), and not while the core is powered down. -/
def State.pllEvent (s : State) (f : State → State) : Host.Outcome State Fault Refusal := .next (if s.powered then f s else s)

/-- PLL lock after a reset (R28): a reference that was lost before it has returned. -/
def State.pllLock (s : State) : State :=
  if s.spine.counting then s else ((s.modSpine (fun p => { p with counting := true, refGone := false })).rput F.SPN_STAT_LOCKED 1).rput F.SPN_STAT_REF_LOST 0

/-- No reference edge has arrived for 200 ns (R29): declared once, until the reference returns. Mark: DEDUCED, log entry 67. -/
def State.refLost (s : State) : State :=
  if s.spine.refGone then s else (s.modSpine (fun p => { p with refGone := true })).lockLost F.SPN_EVT_REF_LOST_S

/-- The PLL has reacquired (R29). -/
def State.relock (s : State) : State :=
  if s.spine.counting ∧ ¬ s.ron F.SPN_STAT_LOCKED then
    ((((s.modSpine (fun p => { p with refGone := false })).rput F.SPN_STAT_LOCKED 1).rput F.SPN_STAT_REF_LOST 0).rsat
      F.SPN_PLL_CNT_RELOCK_CNT 1).refRecord
  else s

/-- The first PPS_OUT boundary at or after the present tick (R42), in subs. -/
def State.ppsBoundary (s : State) : Nat :=
  let per := (s.reg R.SPN_PPSO_PER).toNat * 64
  let ofs := (s.reg R.SPN_PPSO_OFS).toNat * 64 + s.rget F.SPN_CTRL_PPSO_SUB
  s.now + (((ofs : Int) - s.now) % (per : Int)).toNat

/-- PPS pulses are not suppressed (R42, R280). -/
def State.ppsQualified (s : State) : Bool :=
  !s.ron F.SPN_CTRL_PPSO_QUAL ||
    (s.ron F.SPN_STAT_LOCKED &&
      (s.rget F.SPN_CTRL_MODE != 1 || s.ron F.EL_STAT_ISROOT || s.rget F.EL_STAT_SERVO = 3))

/-- A PPS_OUT boundary in the present tick that has not pulsed begins a pulse at the ball, on its vernier tap (R42, R45): `CAL_U.PPSO_TRC` does
not move it. Mark: DESIGN CHOICE, log entry 105. -/
def State.ppsPulse (s : State) : State :=
  let b := s.ppsBoundary
  if s.ron F.SPN_CTRL_PPSO_EN ∧ s.spine.counting ∧ s.reaches b ∧ s.ppsQualified ∧ s.spine.ppsLast ≠ some b then
    s.modSpine (fun p => { p with ppsLast := some b, ppsTap := min 63 (b - s.now), ppsOut := some (b + (s.reg R.SPN_PPSO_WID).toNat * 64) })
  else s

/-- The level of ball PPS_OUT (R42): active during a pulse, inactive while PPSO_EN = 0, with the polarity of PPSO_POL. -/
def State.ppsLevel (s : State) : Bool := (s.ron F.SPN_CTRL_PPSO_EN && s.spine.ppsOut.isSome) != s.ron F.SPN_CTRL_PPSO_POL

/-- The width in force at the start of a pulse has passed (R42). -/
def State.ppsPulseEnd (s : State) : State :=
  match s.spine.ppsOut with
  | some e => if e < s.tAhead 1 then s.modSpine (fun p => { p with ppsOut := none }) else s
  | none => s

/-- An edge at PPS_IN at a position in the present tick (R43, R46, R48); the interval of 1 µs runs on the PLL's ticks, also in a hold. -/
def State.ppsCapture (s : State) (falling : Bool) (pos : Fin 64) : State :=
  let (t0, st) := s.stampAt pos
  let t := ((t0 : Int) - s.inTrcOf 0xC1).toNat
  let soon : Bool := match s.spine.ppsEdge with | some e => decide (s.tickPos pos < e + 64000) | none => false
  if s.ron F.SPN_CTRL_PPSI_EN ∧ s.ron F.SPN_CTRL_PPSI_EDGE = falling ∧ ¬ soon then
    let s1 := (s.modSpine (fun p => { p with ppsIn := t, ppsUnread := true, ppsEdge := some (s.tickPos pos) })).rwrap F.SPN_PPSI_SUB_CNT 1
    let s2 := if s.spine.ppsUnread then s1.evt F.SPN_EVT_PPSI_OVR else s1
    s2.emit 0x1B 105 t (if st then flStep else 0) (word (s2.rget F.SPN_PPSI_SUB_CNT)) 0 0 0
  else s

/-- `PLL_LOCK` (R28). -/
def execPllLock (s : State) : Host.Outcome State Fault Refusal := s.pllEvent State.pllLock

/-- `REF_LOST` (R29). -/
def execRefLost (s : State) : Host.Outcome State Fault Refusal :=
  s.pllEvent State.refLost

/-- `PLL_UNLOCK` (R29). -/
def execPllUnlock (s : State) : Host.Outcome State Fault Refusal :=
  s.pllEvent (fun s => if s.ron F.SPN_STAT_LOCKED then s.lockLost F.SPN_EVT_UNLOCK_S else s)

/-- `RELOCK` (R29). -/
def execRelock (s : State) : Host.Outcome State Fault Refusal := s.pllEvent State.relock

/-- `SPN_RATE_WRITE` (R33, R41). -/
def execSpnRateWrite (p : Path) (v : Word) (s : State) : Host.Outcome State Fault Refusal :=
  s.hostAct p R.SPN_RATE (fun s => s.rateWrite v)

/-- `SPINE_NOP` (R34). -/
def execSpineNop (p : Path) (waits : Bool) (ag : Fin 8) (s : State) : Host.Outcome State Fault Refusal :=
  s.hostAct p R.SPN_CMD (fun s => s.spnCommand (some .nop) 0 waits ag)

/-- `SLEW` (R39). -/
def execSpineSlew (p : Path) (waits : Bool) (ag : Fin 8) (s : State) : Host.Outcome State Fault Refusal :=
  s.hostAct p R.SPN_CMD (fun s => s.spnCommand (some .slew) 3 waits ag)

/-- `SLEW_ABORT` (R40). -/
def execSlewAbort (p : Path) (waits : Bool) (ag : Fin 8) (s : State) : Host.Outcome State Fault Refusal :=
  s.hostAct p R.SPN_CMD (fun s => s.spnCommand (some .slewAbort) 4 waits ag)

/-- `SPN_CMD_ILLEGAL` (R34): the reserved OP values 5 to 7. -/
def execSpnCmdIllegal (p : Path) (op : Fin 3) (waits : Bool) (ag : Fin 8) (s : State) : Host.Outcome State Fault Refusal :=
  s.hostAct p R.SPN_CMD (fun s => s.spnCommand none (5 + op) waits ag)

/-- `SLEW_DONE` (R39). -/
def execSlewDone (s : State) : Host.Outcome State Fault Refusal := s.event State.slewFinish

/-- `PPS_PULSE` (R42). -/
def execPpsPulse (s : State) : Host.Outcome State Fault Refusal := s.event State.ppsPulse

/-- `PPS_PULSE_END` (R42). -/
def execPpsPulseEnd (s : State) : Host.Outcome State Fault Refusal := s.event State.ppsPulseEnd

/-- `PPS_CAPTURE` (R43). -/
def execPpsCapture (falling : Bool) (pos : Fin 64) (s : State) : Host.Outcome State Fault Refusal :=
  s.event (fun s => s.ppsCapture falling pos)

end Sys2Proof.Machine
end

