-- ==== Sys2Proof/Machine/Operands.lean ====
section
/-!
DEFINITION. The fields of a microword and the register operands of a thread (R120 to R123).
-/
namespace Sys2Proof.Machine
open Sys2Proof

/-- Bits [lo + n − 1 : lo] of a microword. -/
def mwf (w : BitVec 144) (lo n : Nat) : Nat := (w.toNat >>> lo) % 2 ^ n

/-! ### Field map (R120) -/

def mwSop (w : BitVec 144) : Nat := mwf w 140 4
def mwAddr (w : BitVec 144) : Nat := mwf w 129 11
def mwCond (w : BitVec 144) : Nat := mwf w 124 5
def mwCinv (w : BitVec 144) : Bool := mwf w 123 1 = 1
def mwSafe (w : BitVec 144) : Bool := mwf w 122 1 = 1
def mwNw (w : BitVec 144) : Bool := mwf w 121 1 = 1
def mwAop (w : BitVec 144) : Nat := mwf w 116 5
def mwAdst (w : BitVec 144) : Nat := mwf w 109 7
def mwAsra (w : BitVec 144) : Nat := mwf w 102 7
def mwAsrb (w : BitVec 144) : Nat := mwf w 95 7
def mwImx (w : BitVec 144) : Nat := mwf w 93 2
def mwImm (w : BitVec 144) : Nat := mwf w 61 32
def mwPsel (w : BitVec 144) : Nat := mwf w 58 3

/-- The port operation code: EOP, COP, MOP, UTYPE, OOP or XOP (R136 to R145). -/
def mwPop (w : BitVec 144) : Nat :=
  match mwPsel w with
  | 1 | 3 | 5 => mwf w 55 3
  | 2 | 4 | 6 => mwf w 54 4
  | _ => 0

/-- IMM extended by IMX (R123). -/
def mwImmx (w : BitVec 144) : Nat :=
  match mwImx w with
  | 0 => mwImm w
  | 1 => if 2 ^ 31 ≤ mwImm w then mwImm w + (2 ^ 40 - 2 ^ 32) else mwImm w
  | _ => mwImm w * 256

/-! ### Operands (R121, R122) -/

/-- The present spine time as a time word (R121). -/
def State.timeWord (s : State) : Nat := s.now % 2 ^ 40

/-- SELF of a thread (R122). -/
def State.selfWord (s : State) (e : Fin 8) (n : Fin 16) : Nat :=
  n.val + 16 * e.val + 256 * (s.thr e n).cls +
    (if n.val < 12 then 4096 * n.val + 65536 * (12 * e.val + n.val) else 4096 * 15 + 65536 * 255)

/-- The value that a specifier reads (R122). -/
def State.rdSpec (s : State) (e : Fin 8) (n : Fin 16) (w : BitVec 144) (x : Nat) : Nat :=
  let t := s.thr e n
  if h : x < 8 then t.p[x].toNat
  else if h : 0x40 ≤ x ∧ x < 0x80 then (s.gaf[e].sreg[x - 0x40]'(by omega)).toNat
  else match x with
    | 0x09 => mwImmx w
    | 0x0A => t.wres.toNat
    | 0x0B => t.ephres.toNat
    | 0x0C => t.chres.toNat
    | 0x0D => t.recres.toNat
    | 0x0E => t.snapt.toNat
    | 0x0F => s.selfWord e n
    | 0x10 => s.timeWord
    | 0x11 => s.rget (F.Ge_LEAD_BUDGET e) * 64
    | 0x12 => t.flags.toNat
    | _ => 0

/-- Write a result to a specifier; a specifier that is not writable discards it (R122). -/
def State.wrSpec (s : State) (e : Fin 8) (n : Fin 16) (x v : Nat) : State :=
  if h : x < 8 then s.modThr e n (fun t => { t with p := t.p.set x (BitVec.ofNat 40 v) })
  else if x = 0x12 then s.modThr e n (fun t => { t with flags := BitVec.ofNat 5 v })
  else if h : 0x40 ≤ x ∧ x < 0x80 then
    s.modGaf e (fun g => { g with sreg := g.sreg.set (x - 0x40) (BitVec.ofNat 40 v) })
  else s

/-- A specifier that may not be read (R146). -/
def specReserved (x : Nat) : Bool := 0x13 ≤ x && x < 0x40

/-- Source specifiers of the arithmetic group that are in use (R127). -/
def mwArithSrc (w : BitVec 144) : List Nat :=
  match mwAop w with
  | 0 => []
  | 1 => [mwAsrb w]
  | _ => [mwAsra w, mwAsrb w]

/-- Source specifiers of the port group that are in use (R136 to R145). -/
def mwPortSrc (w : BitVec 144) : List Nat :=
  match mwPsel w, mwPop w with
  | 1, 0 | 1, 1 | 1, 4 => [mwf w 40 7, mwf w 33 7]
  | 1, 2 | 1, 3 => [mwf w 33 7]
  | 2, 3 => [mwf w 42 7, mwf w 35 7]
  | 2, 4 => if mwf w 29 1 = 1 then [mwf w 42 7] else []
  | 3, 0 | 3, 1 => [mwf w 41 7]
  | 3, 2 | 3, 3 => [mwf w 48 7, mwf w 41 7]
  | 4, _ => [mwf w 43 7, mwf w 36 7, mwf w 29 7, mwf w 22 7] ++ (if mwf w 21 1 = 1 then [mwf w 14 7] else [])
  | 5, 2 => [mwf w 32 7]
  | _, _ => []

/-- The CHAN field where the microword uses one (R136, R138, R143); a record push of a bound thread does not. -/
def mwChan (w : BitVec 144) (n : Fin 16) : Option Nat :=
  match mwPsel w, mwPop w with
  | 1, 0 | 1, 2 | 1, 4 => some (mwf w 51 4)
  | 2, _ => some (mwf w 50 4)
  | 4, _ => if n.val < 12 then none else some (mwf w 50 4)
  | _, _ => none

/-- A port operation code that is reserved (R146). -/
def mwPortReserved (w : BitVec 144) : Bool :=
  match mwPsel w with
  | 0 | 4 => false
  | 1 => decide (5 ≤ mwPop w)
  | 2 => decide (6 ≤ mwPop w)
  | 3 => decide (4 ≤ mwPop w)
  | 5 => decide (3 ≤ mwPop w)
  | 6 => decide (4 ≤ mwPop w)
  | _ => true

/-- The microword faults ILLEGAL when thread n issues it (R146), the return stack apart. -/
def mwIllegal (w : BitVec 144) (n : Fin 16) : Bool :=
  let src := mwArithSrc w ++ mwPortSrc w
  decide (8 ≤ mwSop w) || decide (0x11 ≤ mwAop w) || decide (0x14 ≤ mwCond w) || mwPortReserved w || src.any specReserved ||
    (mwImx w = 3 && src.any (fun x => x = 0x09)) ||
    (match mwChan w n with
     | some x => (0xC ≤ x && x < 0xF) || (x = 0xF && 12 ≤ n.val)
     | none => false)

/-- The channel, within the Gaffer, that a microword of thread n names: 0xF is the bound channel. -/
def mwLocal (x : Nat) (n : Fin 16) : Fin 12 := if h : x < 12 then ⟨x, h⟩ else ⟨n.val % 12, by omega⟩

end Sys2Proof.Machine
end

