-- ==== Sys2Proof/Machine/Flags.lean ====
section
/-!
DEFINITION. The arithmetic operations, their flags, and the conditions (R127, R128, R130).
-/
namespace Sys2Proof.Machine
open Sys2Proof

def m40 : Nat := 2 ^ 40

/-- Bit 39 of a 40-bit value. -/
def sign40 (v : Nat) : Bool := nbit v 39

/-- An arithmetic result: the value written to ADST (`none` for NOP, CMP and TST), and the flags Z, N, C, V (`none`: unchanged). -/
structure AluRes where
  val : Option Nat
  flags : Option (BitVec 4)
  deriving DecidableEq, Repr

/-- Flags of a result (R128). -/
def aluFlags (r : Nat) (c v : Bool) : BitVec 4 := BitVec.ofNat 4 (b2n (r % m40 = 0) + 2 * b2n (sign40 r) + 4 * b2n c + 8 * b2n v)

/-- A result with C = V = 0. -/
def aluPlain (r : Nat) : AluRes := ⟨some r, some (aluFlags r false false)⟩

def aluAdd (a b : Nat) : Nat := (a + b) % m40
def aluSub (a b : Nat) : Nat := (a + m40 - b) % m40

/-- Flags of SUB: C is the borrow, V the signed overflow (R127). -/
def subFlags (a b : Nat) : BitVec 4 :=
  let r := aluSub a b
  aluFlags r (decide (a < b)) (sign40 a != sign40 b && sign40 r != sign40 a)

def addFlags (a b : Nat) : BitVec 4 :=
  let r := aluAdd a b
  aluFlags r (decide (m40 ≤ a + b)) (sign40 a == sign40 b && sign40 r != sign40 a)

def aluShl (a k : Nat) : Nat := if 40 ≤ k then 0 else (a * 2 ^ k) % m40
def aluShr (a k : Nat) : Nat := if 40 ≤ k then 0 else a / 2 ^ k
def aluSar (a k : Nat) : Nat := ((BitVec.ofNat 40 a).sshiftRight k).toNat

/-- TDIFF: ((A − B) mod 2^38) sign-extended from bit 37. -/
def aluTdiff (a b : Nat) : Nat :=
  let d := (a + m40 - b) % 2 ^ 38
  if nbit d 37 then d + (m40 - 2 ^ 38) else d

def aluBset (a k : Nat) : Nat := if 40 ≤ k then a else a ||| 2 ^ k
def aluBclr (a k : Nat) : Nat := if 40 ≤ k ∨ ¬ nbit a k then a else a - 2 ^ k

/-- The arithmetic group on 40-bit operands (R127). -/
def alu (op a b : Nat) : AluRes :=
  let k := b % 64
  match op with
  | 0x01 => aluPlain b
  | 0x02 => ⟨some (aluAdd a b), some (addFlags a b)⟩
  | 0x03 => ⟨some (aluSub a b), some (subFlags a b)⟩
  | 0x04 => aluPlain (a &&& b)
  | 0x05 => aluPlain (a ||| b)
  | 0x06 => aluPlain (a ^^^ b)
  | 0x07 => aluPlain (aluShl a k)
  | 0x08 => aluPlain (aluShr a k)
  | 0x09 => aluPlain (aluSar a k)
  | 0x0A => ⟨none, some (subFlags a b)⟩
  | 0x0B => ⟨none, some (aluFlags (a &&& b) false false)⟩
  | 0x0C => aluPlain (min a b)
  | 0x0D => aluPlain (max a b)
  | 0x0E => aluPlain (aluTdiff a b)
  | 0x0F => aluPlain (aluBset a k)
  | 0x10 => aluPlain (aluBclr a k)
  | _ => ⟨none, none⟩

/-- COND, before CINV (R130). -/
def Thread.condBase (t : Thread) (cond : Nat) : Bool :=
  let z := t.flags.getLsbD 0
  let n := t.flags.getLsbD 1
  let c := t.flags.getLsbD 2
  let v := t.flags.getLsbD 3
  let r := t.ephres.toNat
  match cond with
  | 0x00 => true
  | 0x01 => z
  | 0x02 => n
  | 0x03 => c
  | 0x04 => v
  | 0x05 => n != v
  | 0x06 => z || n != v
  | 0x07 => c || z
  | 0x08 => decide (r ≤ 2)
  | 0x09 => decide (r = 1)
  | 0x0A => decide (r = 2)
  | 0x0B => decide (3 ≤ r ∧ r ≤ 7)
  | 0x0C => decide (r = 0xA)
  | 0x0D => t.fresh
  | 0x0E => t.more
  | 0x0F => t.chres != 0
  | 0x10 => t.recres != 0
  | 0x11 => t.merr
  | 0x12 => t.pend != 0
  | 0x13 => t.flags.getLsbD 4
  | _ => false

/-- The condition of a microword. -/
def Thread.cond (t : Thread) (w : BitVec 144) : Bool := t.condBase (mwCond w) != mwCinv w

end Sys2Proof.Machine
end

