-- ==== Sys2Proof/Machine/Gaffer.lean ====
section
/-!
DEFINITION. Gaffer threads and their scheduling (R100 to R107), the ephemeris operations (R108 to R112), and the channel status
word that a microword and the host read.
-/
namespace Sys2Proof.Machine
open Sys2Proof

/-! ### Threads -/

/-- The class that `Ge_THRn_CFG` sets (R104). -/
def State.thClass (s : State) (e : Fin 8) (n : Fin 16) : Nat := s.rget (F.Ge_THRn_CFG_CLASS e n)

/-- A thread becomes READY. -/
def Thread.toReady (t : Thread) (now : Nat) : Thread := { t with state := .ready, readySince := some now, starved := false }

/-- START or AUTOSTART at a PC (R134). -/
def State.thStart (s : State) (e : Fin 8) (n : Fin 16) (pc : BitVec 11) : State :=
  let cls := s.thClass e n
  s.modThr e n (fun t =>
    ({ t with
      pc := pc, atSafe := false, wres := 0, flags := 0, ephres := 0, chres := 0, recres := 0, fresh := false, more := false
      merr := false, ret := [], pend := 0, park := .none, run := 0, quantum := 0, haltReq := false, keep := false, cls := cls
      wokenAt := none }).toReady s.now)

/-- Threads with AUTOSTART start when a Gaffer is first set running after boot release (R101); one that is not IDLE then is left as it is. Mark: DEDUCED, log entry 42; DESIGN CHOICE, log entry 112. -/
def State.autostart (s : State) (e : Fin 8) : State :=
  if s.gaf[e].started then s
  else
    (List.finRange 16).foldl (fun s (n : Fin 16) =>
      if s.ron (F.Ge_THRn_CFG_AUTOSTART e n) ∧ (s.thr e n).state = .idle then
        s.thStart e n (BitVec.ofNat 11 (s.rget (F.Ge_THRn_CFG_ENTRY e n)))
      else s) (s.modGaf e (fun g => { g with started := true }))

/-- `Ge_CMD_STAT` after a command (R107). -/
def State.geCmdStat (s : State) (e : Fin 8) (n : Fin 16) (res : Nat) : State :=
  (s.rput (F.Ge_CMD_STAT_THR e) n).rput (F.Ge_CMD_STAT_RES e) res

/-- A pending HALT has been taken up, or its thread has stopped otherwise. -/
def State.haltDone (s : State) (e : Fin 8) (n : Fin 16) : State :=
  if s.rget (F.Ge_CMD_STAT_RES e) = 1 ∧ s.rget (F.Ge_CMD_STAT_THR e) = n then s.rput (F.Ge_CMD_STAT_RES e) 0 else s

/-- The engine is free. -/
def State.geFree (s : State) (e : Fin 8) : State := s.modGaf e (fun g => { g with running := none })

/-- A thread of the Gaffer is READY in a class for which a predicate holds, other than n. -/
def State.readyClass (s : State) (e : Fin 8) (n : Fin 16) (p : Nat → Bool) : Bool :=
  (List.finRange 16).any (fun m => m != n && (s.thr e m).state = .ready && p (s.thr e m).cls)

/-- The Gaffer dispatches: RUN is set and the device is in the RUN state (R105, R354). -/
def State.dispatchOn (s : State) (e : Fin 8) : Bool := s.ron (F.Ge_CTRL_RUN e) && s.rget F.PW_STAT_STATE = 1

/-- A preemption point that is not a wait: the class in force is taken over, the count of R106 restarts, a pending HALT takes
effect, and the scheduler applies R105 (R132). -/
def State.preemptPoint (s : State) (e : Fin 8) (n : Fin 16) : State :=
  let cls := s.thClass e n
  let s1 := s.modThr e n (fun t => { t with run := 0, cls := cls })
  let t := s1.thr e n
  let q := s1.rget (F.Ge_CTRL_QUANTUM e)
  if t.haltReq then
    ((s1.modThr e n (fun t => { t with state := .halted, atSafe := true, haltReq := false })).geFree e).haltDone e n
  else if ¬ s1.dispatchOn e ∨ s1.readyClass e n (fun k => k < cls) then
    (s1.modThr e n (fun t => { t with atSafe := true, keep := true }.toReady s1.now)).geFree e
  else if q ≠ 0 ∧ 8 * q ≤ t.quantum ∧ s1.readyClass e n (fun k => k = cls) then
    (s1.modThr e n (fun t => { t with atSafe := true }.toReady s1.now)).geFree e
  else s1

/-- A running thread parks on a WAIT or on SPACE (R103, R135); a pending HALT takes effect (R132). -/
def State.parkThread (s : State) (e : Fin 8) (n : Fin 16) (why : Park) : State :=
  let cls := s.thClass e n
  let s1 := (s.modThr e n (fun t =>
    { t with state := .parked, park := why, run := 0, cls := cls, wokenAt := none })).geFree e
  if (s.thr e n).haltReq then
    (s1.modThr e n (fun t => { t with state := .halted, park := .none, haltReq := false })).haltDone e n
  else s1

/-- Purge a faulted thread's uncommitted entries (R112). -/
def State.faultPurge (s : State) (e : Fin 8) (n : Fin 16) : State :=
  let mine (x : EphEnt) : Bool := x.thr = n.val && !x.committed
  let held := s.gaf[e].eph.filter mine
  let s1 := s.ephRemove e mine
  let s2 := (List.range 12).foldl (fun s i => s.ephPurged e i 1 (held.filter (fun x => !x.timer && x.chan = i)).length) s1
  s2.ephPurged e 15 1 (held.filter (fun x => x.timer)).length

/-- A synchronous fault stops the running thread at its microword (R107, R117). -/
def State.thFault (s : State) (e : Fin 8) (n : Fin 16) (kind addr : Nat) : State :=
  let pc := (s.thr e n).pc.toNat
  let s1 := (s.modThr e n (fun t => { t with state := .fault, haltReq := false })).geFree e
  let s2 := (s1.haltDone e n).rput (F.Ge_FLTMASK_FLT e) (s1.rget (F.Ge_FLTMASK_FLT e) ||| 2 ^ n.val)
  let s3 := ((s2.rput (F.Ge_FAULT_PC e) pc).rput (F.Ge_FAULT_KIND e) kind).rput (F.Ge_FAULT_THR e) n
  let s4 := if kind = 1 then s3.rsat (F.Ge_PARCNT_PARITY e) 1 else if kind = 2 then s3.rsat (F.Ge_PARCNT_ECC e) 1 else s3
  let s5 := (s4.evt (F.Ge_EVT_FAULT_S e)).emit 0x1C 105 s4.now flFault (word (e.val + 16 * n.val + 256 * kind + 65536 * pc)) (word addr) 0 0
  if s5.ron (F.Ge_CTRL_FLT_PURGE e) then s5.faultPurge e n else s5

/-! ### Dispatch (R104) -/

/-- The READY thread of a class that is dispatched next: the one that keeps its place, else the first after the last dispatched. -/
def State.pickClass (s : State) (e : Fin 8) (cls : Fin 4) : Option (Fin 16) :=
  let ready (m : Fin 16) : Bool := (s.thr e m).state = .ready && (s.thr e m).cls = cls.val
  match (List.finRange 16).find? (fun m => ready m && (s.thr e m).keep) with
  | some m => some m
  | none => ((List.finRange 16).map (fun i => s.gaf[e].last[cls] + 1 + i)).find? ready

/-- The thread that the scheduler dispatches when the engine is free. -/
def State.pickThread (s : State) (e : Fin 8) : Option (Fin 4 × Fin 16) :=
  (List.finRange 4).findSome? (fun k => (s.pickClass e k).map (fun n => (k, n)))

/-- The end of a READY interval: MAXWAIT in units of 8 ns, saturating (R116). -/
def Thread.waited (t : Thread) (now : Nat) : Thread :=
  match t.readySince with
  | some r => { t with readySince := none, maxWait := min (max t.maxWait ((now - r) / 512)) 65535 }
  | none => t

/-- Dispatch a thread: MAXWAIT is kept, and a WAIT that a wake ended hands over its bits (R103, R116). The count of R106 runs on. Mark: DEDUCED, log entry 43. -/
def State.dispatchThread (s : State) (e : Fin 8) (cls : Fin 4) (n : Fin 16) : State :=
  let s1 := s.modGaf e (fun g => { g with running := some n, last := g.last.set cls n, ran := true })
  s1.modThr e n (fun t =>
    let t : Thread := { t.waited s.now with state := .run, atSafe := false, keep := false, quantum := 0, starved := false }
    if t.park = .wait then
      { t with park := .none, wres := t.pend &&& t.mask, pend := t.pend &&& ~~~t.mask, pc := t.pc + 1 }
    else t)

/-! ### Ephemeris operations (R109, R111) -/

/-- Result codes of EPHRES (R137). -/
inductive EphRes where
  | ok | tight | behind | range | own | quota | full | nosync | removed | disarmed | fired | none
  deriving DecidableEq, Repr

def ephCode (r : EphRes) : Nat :=
  match r with
  | .ok => 0 | .tight => 1 | .behind => 2 | .range => 3 | .own => 4 | .quota => 5 | .full => 6 | .nosync => 7
  | .removed => 8 | .disarmed => 9 | .fired => 10 | .none => 11

/-- What an insert asks for. -/
structure EphReq where
  timer : Bool
  chan : Fin 12
  unit : Bool
  act : Nat
  recEn : Bool
  tag : Nat
  angle : Bool
  deriving DecidableEq, Repr

/-- The distance D of a target behind the present time, in subs (R109). -/
def State.ephD (s : State) (tgt : Nat) : Int := halfRange ((s.now : Int) - (tgt % 2 ^ 38 : Nat)) (2 ^ 38)

/-- The result that an insert of thread n would have (R109). -/
def State.ephTest (s : State) (e : Fin 8) (n : Fin 16) (q : EphReq) (tgt : Nat) : EphRes :=
  let d := s.ephD tgt
  let quota := s.rget (F.Ge_THRn_CFG_EPHQ e n)
  if ¬ q.timer ∧ ¬ gafferOwns (s.rget (F.CHc_CTRL_OWN (chanOf e q.chan))) (b2n q.unit) then .own
  else if d < -(2 ^ 36) then .range
  else if q.timer ∧ 0 < d then .behind
  else if quota ≠ 0 ∧ quota ≤ (s.gaf[e].eph.filter (fun x => x.thr = n.val)).length then .quota
  else if 256 ≤ s.gaf[e].eph.length then .full
  else if 0 < d then .behind
  else if -d ≤ s.rget (F.Ge_LEAD_BUDGET e) * 64 then .tight
  else .ok

/-- Insert an entry behind those with the same or an earlier target. -/
def ephPlace (x : EphEnt) : List EphEnt → List EphEnt
  | [] => [x]
  | y :: ys => if y.tFull ≤ x.tFull then y :: ephPlace x ys else x :: y :: ys

/-- The lowest slot not in use. -/
def ephSlot (es : List EphEnt) : Nat := ((List.range 256).find? (fun k => es.all (fun x => x.slot ≠ k))).getD 0

/-- Insert (R109, R110, R113). A FULL result here is the refusal; parking is the caller's. -/
def State.ephInsert (s : State) (e : Fin 8) (n : Fin 16) (q : EphReq) (tgt : Nat) : State × EphRes :=
  let r := s.ephTest e n q tgt
  match r with
  | .own | .quota => (s.rsat (F.Ge_EPH_CNT_REFUSED e) 1, r)
  | .range => ((s.rsat (F.Ge_EPH_CNT_REFUSED e) 1).evt (F.Ge_EVT_EPH_RANGE_S e), r)
  | .full => ((s.rsat (F.Ge_EPH_CNT_REFUSED e) 1).evt (F.Ge_EVT_EPH_FULL_S e), r)
  | _ =>
    if q.timer ∧ r = .behind then (s.wake e n 5, r)
    else
      let measure := !q.timer && (q.recEn || q.act != 0)
      let x : EphEnt :=
        ⟨ephSlot s.gaf[e].eph, tgt % 2 ^ 38, (s.now : Int) - s.ephD tgt, q.timer, q.chan, b2n q.unit, q.act, q.recEn, q.tag, n,
          decide (r = .tight), false, q.angle, s.nowNs % 2 ^ 32, s.spine.tick, if measure then (s.thr e n).wokenAt else none⟩
      let s1 := (s.modGaf e (fun g => { g with eph := ephPlace x g.eph })).ephStore e x
      let s2 := if measure then s1.modThr e n (fun t => { t with wokenAt := none }) else s1
      let s3 := if r = .tight then s2.rsat (F.Ge_EPH_CNT_TIGHT e) 1 else s2
      let s4 := s3.rput (F.Ge_EPH_STAT_HIGH e) (max (s3.rget (F.Ge_EPH_STAT_HIGH e)) s3.gaf[e].eph.length)
      (if q.timer then s4 else State.ephCommit ephFuel s4 (chanOf e q.chan) q.unit, r)

/-- Cancel compare entries by tag (R111). -/
def State.ephCancel (s : State) (e : Fin 8) (i : Fin 12) (u : Bool) (tag : Nat) : State × EphRes :=
  let c := chanOf e i
  let hit (x : EphEnt) : Bool := !x.timer && x.chan = i && x.unit = b2n u && x.tag = tag
  let all := s.gaf[e].eph.filter hit
  if all = [] then (s, .none)
  else
    match all.find? (fun x => x.committed) with
    | none => (State.ephCommit ephFuel (s.ephRemove e hit) c u, .removed)
    | some x =>
      let y := cmpOf s.ch[c] u
      if y.due ∨ s.launched c u then
        let s1 := s.ephRemove e (fun z => hit z && z.slot ≠ x.slot)
        (s1.cmpReach c u, .fired)
      else (State.ephCommit ephFuel ((s.disarmCmp c u).ephRemove e hit) c u, .disarmed)

/-- Cancel the issuing thread's timers by tag (R111, R136). -/
def State.ephCancelTimer (s : State) (e : Fin 8) (n : Fin 16) (tag : Nat) : State × EphRes :=
  let hit (x : EphEnt) : Bool := x.timer && x.thr = n.val && x.tag = tag
  if s.gaf[e].eph.filter hit = [] then (s, .none) else (s.ephRemove e hit, .removed)

/-- A timer entry that is reached wakes its thread and is removed (R110). -/
def State.timerDue (s : State) (e : Fin 8) : State :=
  match s.gaf[e].eph.find? (fun x => x.timer && decide (x.tFull ≤ (s.now : Int))) with
  | none => s
  | some x => (s.ephDrop e x.slot).wake e ⟨x.thr % 16, by omega⟩ 5

/-! ### Channel status -/

/-- `CHc_STAT`, live (R54, R59, R79). -/
def State.chStat (s : State) (c : Fin 96) : Word :=
  let v := s.banks[bankOf c].supply
  word (b2n s.ch[c].inLvl + 2 * b2n s.ch[c].ol + 4 * b2n (s.held c) + 8 * b2n s.ch[c].holdBoot + 16 * b2n s.ch[c].holdFrz +
    32 * b2n (v = 0) + 64 * s.rget (F.CHc_CTRL_HOLD c) + 256 * v + 1024 * b2n (s.cascHi c))

end Sys2Proof.Machine
end

