-- ==== Sys2Proof/Machine/Microword.lean ====
section
/-!
DEFINITION. How a microword executes (R106, R124 to R146): the fetch with its parity, the port operations, the sequencer, and one
meaning per microword operation of the opcode table.
-/
namespace Sys2Proof.Machine
open Sys2Proof

/-! ### Control store (R149, R150) -/

/-- Even parity over 36 bits of a microword from a bit. -/
def parity36 (w : Nat) (lo : Nat) : Nat := ((List.range 36).map (fun i => (w >>> (lo + i)) % 2)).sum % 2

/-- The parity bits P3 to P0 of a microword. -/
def mwParity (w : Nat) : Nat := parity36 w 0 + 2 * parity36 w 36 + 4 * parity36 w 72 + 8 * parity36 w 108

/-- A microword of a control store with its parity bits above it. -/
def State.csWord (s : State) (e : Fin 8) (a : Nat) : BitVec 148 := tblGet (fun _ => 0) s.gaf[e].cs a

/-- The microword itself. -/
def csMicro (x : BitVec 148) : BitVec 144 := BitVec.ofNat 144 x.toNat

/-- The parity bits agree with the microword. -/
def csParityOk (x : BitVec 148) : Bool := x.toNat / 2 ^ 144 = mwParity (x.toNat % 2 ^ 144)

/-! ### Angle conversion (R186, R187) -/

/-- The Orrery that an operation uses on a channel: the one that TB names, else the operation's ORY field (R186). -/
def State.angOry (s : State) (c : Fin 96) (field : Nat) : Fin 4 :=
  let tb := s.rget (F.CHc_CTRL_TB c)
  if h : 1 ≤ tb ∧ tb ≤ 4 then ⟨tb - 1, by omega⟩ else ⟨field % 4, by omega⟩

/-- The spine time, in subs, at which an Orrery reaches an angle, from its estimate at t (R187), by the history
as the last completed broadcast left it (R188); the outer `none`: no valid estimate, the inner one: no time. -/
def State.angTime (s : State) (n : Fin 4) (target t : Nat) : Option (Option Int) :=
  if ¬ s.oValid n then none
  else
    match s.ory[n].seen.edgeAt t with
    | none => none
    | some e =>
      let diff : Int := (target % 2 ^ 24 : Nat) - (s.oZero n e.base % 2 ^ 24 : Nat)
      let r := ((if s.ory[n].seen.back then -diff else diff) % (2 ^ 24 : Nat) : Int)
      let d := if r ≤ 8388608 then r else r - 2 ^ 24
      let sp := (s.oSpeedAt n t).natAbs
      let se := e.speed.natAbs
      let a := d - s.oDelta n s.ory[n].seen.still e t
      let floorT (x : Int) : Int := max x ((t : Int) - 2 ^ 36)
      if sp = 0 then (if d < 0 then some (some t) else some none)
      else if sp = se then some (some (floorT ((e.t : Int) + roundDivI (d * 2 ^ 30) se)))
      else some (some (floorT ((t : Int) + roundDivI (a * 2 ^ 30) sp)))

/-! ### Memory (R142) -/

/-- First byte of a Gaffer's general-pool region, and its size (R333). -/
def State.poolRegion (s : State) (e : Fin 8) : Nat × Nat :=
  let up (k : Nat) : Nat := (k * 1024 + 4095) / 4096 * 4096
  (0x3B2000 + ((List.finRange 8).map (fun (i : Fin 8) => if i.val < e.val then up s.layout.gaf[i] else 0)).sum,
    s.layout.gaf[e] * 1024)

/-- SRAM address of a MEM address of a Gaffer; none where it reaches no memory. -/
def State.memAddr (s : State) (e : Fin 8) (a : Nat) : Option Nat :=
  if a < 0x10000 then some ((s.reg (R.Ge_DWIN e)).toNat + a)
  else
    let (b, size) := s.poolRegion e
    if a - 0x10000 < size then some (b + (a - 0x10000)) else none

/-! ### Port operations -/

/-- What a port operation did: the state after, the values for its result registers in order, and whether it parks on SPACE
instead (the state then holds only what the attempt itself shows). -/
structure PortRes where
  st : State
  res : List (Nat × Nat)
  parks : Option SpaceOf
  ov : Option Bool

def portDone (s : State) (res : List (Nat × Nat)) : PortRes := ⟨s, res, none, none⟩

def State.setEphres (s : State) (e : Fin 8) (n : Fin 16) (r : EphRes) : State :=
  s.modThr e n (fun t => { t with ephres := BitVec.ofNat 4 (ephCode r) })

def State.setChres (s : State) (e : Fin 8) (n : Fin 16) (v : Nat) : State :=
  s.modThr e n (fun t => { t with chres := BitVec.ofNat 4 v })

/-- EPH (R109, R111, R136). -/
def State.portEph (s : State) (e : Fin 8) (n : Fin 16) (w : BitVec 144) : PortRes :=
  let i := mwLocal (mwf w 51 4) n
  let u := mwf w 50 1 = 1
  let treg := s.rdSpec e n w (mwf w 40 7)
  let tag := s.rdSpec e n w (mwf w 33 7) % 65536
  let insert (timer angle : Bool) (tgt : Nat) : PortRes :=
    let q : EphReq := if timer then ⟨true, 0, false, 0, false, tag, angle⟩ else ⟨false, i, u, mwf w 48 2, mwf w 47 1 = 1, tag, angle⟩
    if s.ephTest e n q tgt = .full ∧ ¬ mwNw w then ⟨s.evt (F.Ge_EVT_EPH_FULL_S e), [], some .ephemeris, none⟩
    else
      let (s1, r) := s.ephInsert e n q tgt
      portDone (s1.setEphres e n r) []
  match mwPop w with
  | 0 => insert false false (treg % 2 ^ 38)
  | 1 => insert true false (treg % 2 ^ 38)
  | 2 => let (s1, r) := s.ephCancel e i u tag; portDone (s1.setEphres e n r) []
  | 3 => let (s1, r) := s.ephCancelTimer e n tag; portDone (s1.setEphres e n r) []
  | _ =>
    match s.angTime (s.angOry (chanOf e i) (mwf w 31 2)) (treg % 2 ^ 32) s.now with
    | none => portDone (s.setEphres e n .nosync) []
    | some t =>
      let far := match t with | none => true | some v => decide ((s.now : Int) + 2 ^ 36 < v)
      if far then
        -- RANGE, unless OWN comes first (R109)
        let own := !gafferOwns (s.rget (F.CHc_CTRL_OWN (chanOf e i))) (b2n u)
        let s1 := s.rsat (F.Ge_EPH_CNT_REFUSED e) 1
        if own then portDone (s1.setEphres e n .own) []
        else portDone ((s1.evt (F.Ge_EVT_EPH_RANGE_S e)).setEphres e n .range) []
      else insert false true ((t.getD 0) % (2 ^ 38 : Nat)).toNat

/-- The values of a counter image for SNAP and CNTRD (R140): low word, high word in a cascade, image time. -/
def State.imageWords (s : State) (c : Fin 96) : Nat × Nat × Nat :=
  let g := s.cntGov c
  match s.ch[g].img with
  | none => (0, 0, 0)
  | some i => (i.val % 2 ^ 32, if s.cascLo g then i.val / 2 ^ 32 else 0, i.t % 2 ^ 40)

/-- CHAN (R138 to R141). -/
def State.portChan (s : State) (e : Fin 8) (n : Fin 16) (w : BitVec 144) : PortRes :=
  let c := chanOf e (mwLocal (mwf w 50 4) n)
  let d1 := mwf w 42 7
  let d2 := mwf w 35 7
  let v1 := s.rdSpec e n w d1
  let v2 := s.rdSpec e n w d2
  match mwPop w with
  | 0 =>
    let k := mwf w 49 1 = 1
    let p := capOf s.ch[c] k
    -- a capture that coincides with the read waits behind the older one (R76, R147)
    let met := s.capCoincides c k
    let full1 := !met && !s.capConsumed c k
    let more := met || p.s2.isSome
    let (x, fresh, s1) := s.capRead c k true
    let s2 := s1.modThr e n (fun t => { t with fresh := fresh, more := more, chres := 0 })
    let pol := match x with | some y => y.rise | none => false
    portDone s2 [(d1, match x with | some y => y.t % 2 ^ 40 | none => 0),
      (d2, b2n fresh + 2 * b2n pol + 4 * b2n more + 8 * b2n full1 + 256 * s.rget (F.CHc_CAPk_STAT_DROP c (kNat k))
        + 65536 * s.rget (F.CHc_CAPk_STAT_MISS c (kNat k)))]
  | 1 =>
    let s1 := s.latch c causeSnap s.now
    let (lo, hi, t) := s1.imageWords c
    portDone (s1.modThr e n (fun x => { x with snapt := BitVec.ofNat 40 t, chres := 0 })) [(d1, lo), (d2, hi)]
  | 2 =>
    let (lo, hi, t) := s.imageWords c
    portDone (s.modThr e n (fun x => { x with snapt := BitVec.ofNat 40 t, chres := 0 })) [(d1, lo), (d2, hi)]
  | 3 =>
    let x := fifoEntry (word v1) (word v2)
    match s.fifoTest c x with
    | .delta => portDone ((s.fifoRefuse c 3).setChres e n 2) []
    | .full => if mwNw w then portDone ((s.fifoRefuse c 4).setChres e n 1) [] else ⟨s, [], some (.fifo c.val), none⟩
    | _ => portDone ((s.fifoAppend c x).setChres e n 0) []
  | 4 =>
    let s1 := if mwf w 33 1 = 1 then s.fifoStop c else s
    let s2 := if mwf w 32 1 = 1 then s1.fifoFlush c else s1
    let s3 := if mwf w 29 1 = 1 then
        (s2.setReg (R.CHc_FIFO_BASE_LO c) (word (v1 / 64))).setReg (R.CHc_FIFO_BASE_SUB c) (word (v1 % 64))
      else s2
    let (s4, r) := if mwf w 34 1 = 1 then s3.fifoStart c (mwf w 30 1 = 1) else (s3, FifoRes.ok)
    let s5 := if mwf w 31 1 = 1 then s4.fifoBreak c else s4
    -- a host's STOP of the same tick takes effect after this operation (R147)
    let s5 := if mwf w 34 1 = 1 ∧ s.ch[c].fifo.hostStop = some s.spine.tick then s5.fifoStop c else s5
    portDone (s5.setChres e n (if r = .own then 3 else 0)) []
  | _ => portDone (s.setChres e n 0) [(d1, (s.chStat c).toNat), (d2, (s.fifoStat c).toNat)]

/-- MEM (R142). -/
def State.portMem (s : State) (e : Fin 8) (n : Fin 16) (w : BitVec 144) : PortRes :=
  let d := mwf w 48 7
  let v := s.rdSpec e n w d
  let a0 := (s.rdSpec e n w (mwf w 41 7) % 2 ^ 24 + mwf w 25 16) % 2 ^ 24
  let wide := mwPop w % 2 = 1
  let a := s.memAddr e (if wide then a0 / 8 * 8 else a0 / 4 * 4)
  let s1 := s.modThr e n (fun t => { t with merr := a.isNone })
  if mwPop w < 2 then
    portDone s1 [(d, match a with | none => 0 | some x => memRdN s.sram x (if wide then 5 else 4))]
  else
    match a with
    | none => portDone s1 []
    | some x => portDone { s1 with sram := if wide then memWrN s1.sram x 8 (v % 2 ^ 40) else memWrN s1.sram x 4 (v % 2 ^ 32) } []

/-- The full time of a time word within 2^33 ns of the present, ns modulo 2^64 (R143). -/
def State.wholeTime (s : State) (tw : Nat) : Nat := (((s.now : Int) + halfRange ((tw : Int) - s.now) (2 ^ 40)) % (2 ^ 70 : Nat)).toNat

/-- REC (R143): the record carries no flags. Mark: DESIGN CHOICE, log entry 17. -/
def State.portRec (s : State) (e : Fin 8) (n : Fin 16) (w : BitVec 144) : PortRes :=
  if s.atCeil then
    if mwNw w then portDone (s.modThr e n (fun t => { t with recres := 1 })) [] else ⟨s, [], some .writer, none⟩
  else
    let c := chanOf e (if n.val < 12 then ⟨n.val % 12, by omega⟩ else mwLocal (mwf w 50 4) n)
    let type := 0x30 + mwf w 54 4
    let rd (lo : Nat) : Word := word (s.rdSpec e n w (mwf w lo 7))
    let t := if mwf w 21 1 = 1 then s.wholeTime (s.rdSpec e n w (mwf w 14 7)) else s.now
    let s1 := (s.recordKick type c).emitTo (s.routeOf c type) type c t 0 (rd 43) (rd 36) (rd 29) (rd 22)
    portDone (s1.modThr e n (fun t => { t with recres := 0 })) []

/-- ORY (R144, R187): the results, or zeros and OV clear while the estimate is not valid. -/
def State.portOry (s : State) (e : Fin 8) (n : Fin 16) (w : BitVec 144) : PortRes :=
  let o : Fin 4 := ⟨mwf w 53 2 % 4, by omega⟩
  let d1 := mwf w 46 7
  let d2 := mwf w 39 7
  let a40 (v : Int) : Nat := (v % (2 ^ 40 : Nat)).toNat
  let r : Option (Nat × Nat) :=
    match mwPop w with
    | 0 => (s.oReport o s.now).map (fun a => (a, a40 (s.oSpeedAt o s.now)))
    | 1 => if s.oValid o then (match s.ory[o].seen.hist with | x :: _ => some (s.oZero o x.base, x.t % 2 ^ 40) | [] => none) else none
    | _ =>
      (s.angTime o (s.rdSpec e n w (mwf w 32 7) % 2 ^ 32) s.now).map (fun t =>
        let far : Int := (s.now : Int) + 2 ^ 36
        (a40 (match t with | none => far | some v => min v far), 0))
  let (v1, v2) := r.getD (0, 0)
  ⟨s, if mwPop w = 2 then [(d1, v1)] else [(d1, v1), (d2, v2)], none, some r.isSome⟩

/-- SYS (R145, R196). -/
def State.portSys (s : State) (e : Fin 8) (n : Fin 16) (w : BitVec 144) : PortRes :=
  match mwPop w with
  | 0 => portDone s [(mwf w 43 7, s.timeWord), (mwf w 36 7, s.nowNs / 2 ^ 34)]
  | 1 => portDone (s.wake e ⟨mwf w 50 4 % 16, by omega⟩ 9) []
  | 2 => portDone (s.modThr e n (fun t => { t with pend := t.pend &&& ~~~(BitVec.ofNat 16 (mwImm w)) })) []
  | _ =>
    let k : Fin 2 := ⟨mwf w 35 1 % 2, by omega⟩
    if s.convFits k 4 1 then
      portDone (((s.convClear k 1 8).convPush k ⟨mwf w 31 4, 4, s.now + 1, false, none, s.spine.tick, some (e, n), false⟩).setChres e n 0) []
    else portDone (s.setChres e n 4) []

/-- The port group of a microword (R120). -/
def State.portOp (s : State) (e : Fin 8) (n : Fin 16) (w : BitVec 144) : PortRes :=
  match mwPsel w with
  | 1 => s.portEph e n w
  | 2 => s.portChan e n w
  | 3 => s.portMem e n w
  | 4 => s.portRec e n w
  | 5 => s.portOry e n w
  | 6 => s.portSys e n w
  | _ => portDone s []

/-! ### Execution (R124) -/

/-- Write the port results; where two name one register, the spec does not say which stands: a free choice. Mark: DESIGN CHOICE, log entry 18. -/
def State.wrPort (s : State) (e : Fin 8) (n : Fin 16) (res : List (Nat × Nat)) : State :=
  match res with
  | [(d1, v1), (d2, v2)] =>
    if d1 = d2 then (if Config.secondStands s.free then s.drawn.wrSpec e n d2 v2 else s.drawn.wrSpec e n d1 v1)
    else (s.wrSpec e n d1 v1).wrSpec e n d2 v2
  | _ => res.foldl (fun s x => s.wrSpec e n x.1 x.2) s

/-- The lowest set bit of WRES, or 15 (R129). -/
def dispIndex (wres : Nat) : Nat := ((List.range 14).find? (fun i => nbit wres i)).getD 15

/-- The sequencer (R129 to R133): it acts on the flags and results as they stand, then the preemption point follows where there
is one. -/
def State.sequence (s : State) (e : Fin 8) (n : Fin 16) (w : BitVec 144) : State :=
  let t := s.thr e n
  let next := t.pc + 1
  let addr : BitVec 11 := BitVec.ofNat 11 (mwAddr w)
  let go (s : State) (pc : BitVec 11) : State :=
    let s1 := s.modThr e n (fun t => { t with pc := pc })
    if mwSafe w then s1.preemptPoint e n else s1
  if ¬ t.cond w then go s next
  else
    match mwSop w with
    | 1 => go s addr
    | 2 => go (s.modThr e n (fun t => { t with ret := (next :: t.ret).take 4 })) addr
    | 3 => go (s.modThr e n (fun t => { t with ret := t.ret.drop 1 })) (t.ret.headD next)
    | 4 =>
      let m : BitVec 16 := BitVec.ofNat 16 (mwImm w)
      let s1 := s.modThr e n (fun t => { t with mask := m })
      if t.pend &&& m ≠ 0 then
        go (s1.modThr e n (fun t => { t with wres := t.pend &&& m, pend := t.pend &&& ~~~m, run := 0, cls := s.thClass e n })) next
      else s1.parkThread e n .wait
    | 5 => ((s.modThr e n (fun t => { t with state := .idle, pc := next, haltReq := false })).geFree e).haltDone e n
    | 6 => go s (addr + BitVec.ofNat 11 (dispIndex t.wres.toNat))
    | 7 =>
      let s1 := s.modThr e n (fun t => { t with pc := next })
      let s2 := s1.preemptPoint e n
      if (s2.thr e n).state = .run then (s2.modThr e n (fun t => t.toReady s2.now)).geFree e
      else s2.modThr e n (fun t => { t with keep := false })
    | _ => go s next

/-- A fault that the microword at the running thread's PC takes when it issues (R106, R107, R133, R146): kind, or `none`. Of several the parity
error comes first, then NOSAFE. Mark: DESIGN CHOICE, log entry 112. -/
def State.mwFault (s : State) (e : Fin 8) (n : Fin 16) : Option Nat :=
  let t := s.thr e n
  let x := s.csWord e t.pc.toNat
  let w := csMicro x
  if ¬ csParityOk x then some 1
  else if 63 ≤ t.run then some 4
  else if mwSop w = 3 ∧ t.ret = [] then some 3
  else if mwIllegal w n then some 3
  else none

/-- The thread issues a microword that does not fault (R124): sources, operations, writes, flags, sequencer. -/
def State.mwRun (s : State) (e : Fin 8) (n : Fin 16) (w : BitVec 144) : State :=
  let a := s.rdSpec e n w (mwAsra w)
  let b := s.rdSpec e n w (mwAsrb w)
  let r := alu (mwAop w) a b
  let p := s.portOp e n w
  let spaceWas : Bool := match (s.thr e n).park with | .space _ => true | _ => false
  match p.parks with
  | some of =>
    -- a SPACE bit left from an earlier event is consumed by a retry that fails again (R135)
    (p.st.modThr e n (fun t => { t with pend := t.pend &&& ~~~(BitVec.ofNat 16 1024) })).parkThread e n (.space of)
  | none =>
    let s1 := if spaceWas then
        p.st.modThr e n (fun t => { t with park := .none, pend := t.pend &&& ~~~(BitVec.ofNat 16 1024) })
      else p.st
    let s2 := match r.val with | some v => s1.wrSpec e n (mwAdst w) v | none => s1
    let s3 := s2.wrPort e n p.res
    let flagsWritten := (r.val.isSome && mwAdst w = 0x12) || p.res.any (fun x => x.1 = 0x12)
    let s4 :=
      if flagsWritten then s3
      else
        let s4 := match r.flags with
          | some f => s3.modThr e n (fun t => { t with flags := BitVec.ofNat 5 (f.toNat + t.flags.toNat / 16 * 16) })
          | none => s3
        match p.ov with
        | some o => s4.modThr e n (fun t => { t with flags := BitVec.ofNat 5 (t.flags.toNat % 16 + 16 * b2n o) })
        | none => s4
    let s5 := s4.modThr e n (fun t => { t with run := t.run + 1, quantum := t.quantum + 1 })
    s5.sequence e n w

/-- The running thread of a Gaffer issues its next microword, if it is one that a predicate names (a faulting microword faults
whatever its operation). Mark: DESIGN CHOICE, log entry 3. -/
def State.issue (s : State) (e : Fin 8) (named : BitVec 144 → Bool) : State :=
  match s.gaf[e].running with
  | none => s
  | some n =>
    match s.mwFault e n with
    | some k => s.thFault e n k 0
    | none =>
      let w := csMicro (s.csWord e (s.thr e n).pc.toNat)
      if named w then s.mwRun e n w else s

/-- The running thread of a Gaffer, and the SRAM offset that the load it issues next reads; none where that microword is no such load,
faults by itself, or reaches no memory. -/
def State.loadSite (s : State) (e : Fin 8) (wide : Bool) : Option (Fin 16 × Nat) :=
  match s.gaf[e].running with
  | none => none
  | some n =>
    let w := csMicro (s.csWord e (s.thr e n).pc.toNat)
    let a := (s.rdSpec e n w (mwf w 41 7) % 2 ^ 24 + mwf w 25 16) % 2 ^ 24
    if s.mwFault e n = none ∧ mwPsel w = 3 ∧ mwPop w = b2n wide then
      (s.memAddr e (if wide then a / 8 * 8 else a / 4 * 4)).map (fun x => (n, x))
    else none

/-- A load, with what ECC finds in the words it reads: a corrected error changes nothing for the thread, and an uncorrectable one
faults ECC, so that the microword does not execute (R107, R142, R371). Mark: DESIGN CHOICE, log entry 83. -/
def State.issueLoad (s : State) (e : Fin 8) (wide : Bool) (ecc : Ecc) : State :=
  let words := if wide then 2 else 1
  let load (s : State) : State := s.issue e (fun w => mwPsel w = 3 && mwPop w = b2n wide)
  match s.loadSite e wide with
  | none => load s
  | some (n, x) => if ecc = .bad then (s.eccRead ecc x words).thFault e n 2 (s.eccOfs x words) else load (s.eccRead ecc x words)

/-- The arithmetic operation of a microword. Mark: DESIGN CHOICE, log entry 3. -/
def isAop (k : Nat) (w : BitVec 144) : Bool := mwAop w = k
/-- Mark: DESIGN CHOICE, log entry 3. -/
def isSop (k : Nat) (w : BitVec 144) : Bool := mwSop w = k
/-- Mark: DESIGN CHOICE, log entry 3. -/
def isPort (psel pop : Nat) (w : BitVec 144) : Bool := mwPsel w = psel && mwPop w = pop

/-! ### Rows 45 to 92 of the opcode table -/

/-- `ARITH_NOP` (R127). -/
def execMwArithNop (e : Fin 8) (s : State) : Host.Outcome State Fault Refusal :=
  s.event (fun s => s.issue e (isAop 0))

/-- `MOV` (R127). -/
def execMwMov (e : Fin 8) (s : State) : Host.Outcome State Fault Refusal :=
  s.event (fun s => s.issue e (isAop 1))

/-- `ADD` (R127). -/
def execMwAdd (e : Fin 8) (s : State) : Host.Outcome State Fault Refusal :=
  s.event (fun s => s.issue e (isAop 2))

/-- `SUB` (R127). -/
def execMwSub (e : Fin 8) (s : State) : Host.Outcome State Fault Refusal :=
  s.event (fun s => s.issue e (isAop 3))

/-- `AND` (R127). -/
def execMwAnd (e : Fin 8) (s : State) : Host.Outcome State Fault Refusal :=
  s.event (fun s => s.issue e (isAop 4))

/-- `OR` (R127). -/
def execMwOr (e : Fin 8) (s : State) : Host.Outcome State Fault Refusal :=
  s.event (fun s => s.issue e (isAop 5))

/-- `XOR` (R127). -/
def execMwXor (e : Fin 8) (s : State) : Host.Outcome State Fault Refusal :=
  s.event (fun s => s.issue e (isAop 6))

/-- `SHL` (R127). -/
def execMwShl (e : Fin 8) (s : State) : Host.Outcome State Fault Refusal :=
  s.event (fun s => s.issue e (isAop 7))

/-- `SHR` (R127). -/
def execMwShr (e : Fin 8) (s : State) : Host.Outcome State Fault Refusal :=
  s.event (fun s => s.issue e (isAop 8))

/-- `SAR` (R127). -/
def execMwSar (e : Fin 8) (s : State) : Host.Outcome State Fault Refusal :=
  s.event (fun s => s.issue e (isAop 9))

/-- `CMP` (R127). -/
def execMwCmp (e : Fin 8) (s : State) : Host.Outcome State Fault Refusal :=
  s.event (fun s => s.issue e (isAop 10))

/-- `TST` (R127). -/
def execMwTst (e : Fin 8) (s : State) : Host.Outcome State Fault Refusal :=
  s.event (fun s => s.issue e (isAop 11))

/-- `MIN` (R127). -/
def execMwMin (e : Fin 8) (s : State) : Host.Outcome State Fault Refusal :=
  s.event (fun s => s.issue e (isAop 12))

/-- `MAX` (R127). -/
def execMwMax (e : Fin 8) (s : State) : Host.Outcome State Fault Refusal :=
  s.event (fun s => s.issue e (isAop 13))

/-- `TDIFF` (R127). -/
def execMwTdiff (e : Fin 8) (s : State) : Host.Outcome State Fault Refusal :=
  s.event (fun s => s.issue e (isAop 14))

/-- `BSET` (R127). -/
def execMwBset (e : Fin 8) (s : State) : Host.Outcome State Fault Refusal :=
  s.event (fun s => s.issue e (isAop 15))

/-- `BCLR` (R127). -/
def execMwBclr (e : Fin 8) (s : State) : Host.Outcome State Fault Refusal :=
  s.event (fun s => s.issue e (isAop 16))

/-- `NEXT` (R129). -/
def execMwNext (e : Fin 8) (s : State) : Host.Outcome State Fault Refusal :=
  s.event (fun s => s.issue e (isSop 0))

/-- `JUMP` (R129). -/
def execMwJump (e : Fin 8) (s : State) : Host.Outcome State Fault Refusal :=
  s.event (fun s => s.issue e (isSop 1))

/-- `CALL` (R133). -/
def execMwCall (e : Fin 8) (s : State) : Host.Outcome State Fault Refusal :=
  s.event (fun s => s.issue e (isSop 2))

/-- `RET` (R133). -/
def execMwRet (e : Fin 8) (s : State) : Host.Outcome State Fault Refusal :=
  s.event (fun s => s.issue e (isSop 3))

/-- `WAIT` (R103). -/
def execMwWait (e : Fin 8) (s : State) : Host.Outcome State Fault Refusal :=
  s.event (fun s => s.issue e (isSop 4))

/-- `END` (R129). -/
def execMwEnd (e : Fin 8) (s : State) : Host.Outcome State Fault Refusal :=
  s.event (fun s => s.issue e (isSop 5))

/-- `DISP` (R129). -/
def execMwDisp (e : Fin 8) (s : State) : Host.Outcome State Fault Refusal :=
  s.event (fun s => s.issue e (isSop 6))

/-- `YIELD` (R132). -/
def execMwYield (e : Fin 8) (s : State) : Host.Outcome State Fault Refusal :=
  s.event (fun s => s.issue e (isSop 7))

/-- `INS_CMP` (R109). -/
def execMwInsCmp (e : Fin 8) (s : State) : Host.Outcome State Fault Refusal :=
  s.event (fun s => s.issue e (isPort 1 0))

/-- `INS_TMR` (R109). -/
def execMwInsTmr (e : Fin 8) (s : State) : Host.Outcome State Fault Refusal :=
  s.event (fun s => s.issue e (isPort 1 1))

/-- `CAN_CMP` (R111). -/
def execMwCanCmp (e : Fin 8) (s : State) : Host.Outcome State Fault Refusal :=
  s.event (fun s => s.issue e (isPort 1 2))

/-- `CAN_TMR` (R111). -/
def execMwCanTmr (e : Fin 8) (s : State) : Host.Outcome State Fault Refusal :=
  s.event (fun s => s.issue e (isPort 1 3))

/-- `INS_ANG` (R187). -/
def execMwInsAng (e : Fin 8) (s : State) : Host.Outcome State Fault Refusal :=
  s.event (fun s => s.issue e (isPort 1 4))

/-- `CAPRD` (R139). -/
def execMwCaprd (e : Fin 8) (s : State) : Host.Outcome State Fault Refusal :=
  s.event (fun s => s.issue e (isPort 2 0))

/-- `SNAP` (R140). -/
def execMwSnap (e : Fin 8) (s : State) : Host.Outcome State Fault Refusal :=
  s.event (fun s => s.issue e (isPort 2 1))

/-- `CNTRD` (R140). -/
def execMwCntrd (e : Fin 8) (s : State) : Host.Outcome State Fault Refusal :=
  s.event (fun s => s.issue e (isPort 2 2))

/-- `FPUSH` (R141). -/
def execMwFpush (e : Fin 8) (s : State) : Host.Outcome State Fault Refusal :=
  s.event (fun s => s.issue e (isPort 2 3))

/-- `LDBASE` (R141: the FCTL operation, whatever else it does). -/
def execMwLdbase (e : Fin 8) (s : State) : Host.Outcome State Fault Refusal :=
  s.event (fun s => s.issue e (isPort 2 4))

/-- `CHST` (R141). -/
def execMwChst (e : Fin 8) (s : State) : Host.Outcome State Fault Refusal :=
  s.event (fun s => s.issue e (isPort 2 5))

/-- `LD32` (R142). -/
def execMwLd32 (e : Fin 8) (ecc : Ecc) (s : State) : Host.Outcome State Fault Refusal :=
  s.event (fun s => s.issueLoad e false ecc)

/-- `LD40` (R142). -/
def execMwLd40 (e : Fin 8) (ecc : Ecc) (s : State) : Host.Outcome State Fault Refusal :=
  s.event (fun s => s.issueLoad e true ecc)

/-- `ST32` (R142). -/
def execMwSt32 (e : Fin 8) (s : State) : Host.Outcome State Fault Refusal :=
  s.event (fun s => s.issue e (isPort 3 2))

/-- `ST40` (R142). -/
def execMwSt40 (e : Fin 8) (s : State) : Host.Outcome State Fault Refusal :=
  s.event (fun s => s.issue e (isPort 3 3))

/-- `REC` (R143). -/
def execMwRec (e : Fin 8) (s : State) : Host.Outcome State Fault Refusal :=
  s.event (fun s => s.issue e (fun w => mwPsel w = 4))

/-- `ANG` (R144). -/
def execMwAng (e : Fin 8) (s : State) : Host.Outcome State Fault Refusal :=
  s.event (fun s => s.issue e (isPort 5 0))

/-- `EDGE` (R144). -/
def execMwEdge (e : Fin 8) (s : State) : Host.Outcome State Fault Refusal :=
  s.event (fun s => s.issue e (isPort 5 1))

/-- `A2T` (R187). -/
def execMwA2t (e : Fin 8) (s : State) : Host.Outcome State Fault Refusal :=
  s.event (fun s => s.issue e (isPort 5 2))

/-- `NOW` (R145). -/
def execMwNow (e : Fin 8) (s : State) : Host.Outcome State Fault Refusal :=
  s.event (fun s => s.issue e (isPort 6 0))

/-- `SIGNAL` (R145). -/
def execMwSignal (e : Fin 8) (s : State) : Host.Outcome State Fault Refusal :=
  s.event (fun s => s.issue e (isPort 6 1))

/-- `WCLR` (R145). -/
def execMwWclr (e : Fin 8) (s : State) : Host.Outcome State Fault Refusal :=
  s.event (fun s => s.issue e (isPort 6 2))

/-- `TRIG` (R196). -/
def execMwTrig (e : Fin 8) (s : State) : Host.Outcome State Fault Refusal :=
  s.event (fun s => s.issue e (isPort 6 3))

end Sys2Proof.Machine
end

