-- ==== Sys2Proof/Machine/Channel.lean ====
section
/-!
DEFINITION. Commands at the channels: the bank supplies, input edges, compare units, holds, the edge FIFO and captures (R54 to R83).
-/
namespace Sys2Proof.Machine
open Sys2Proof

/-! ### Host accesses that rows share -/

/-- A register read of a host path returns one word. -/
def State.answer (s : State) (p : Path) (w : Word) : State := s.modPath p (fun q => { q with rdata := [w] })

/-- A host read of a row of its own: none while the core is powered down (R354). -/
def State.hostRead (s : State) (f : State → State) : Host.Outcome State Fault Refusal := .next (if s.powered then f s else s)

/-! ### Bank supplies (R54) -/

/-- The channels of a bank. -/
def bankChannels (b : Fin 12) : List (Fin 96) := (List.finRange 8).map (fun (i : Fin 8) => ⟨8 * b.val + i.val, by omega⟩)

/-- Change what holds several channels at one tick: entry keeps the level driven, the end of a hold is a release (R60). -/
def State.holdsChange (s : State) (cs : List (Fin 96)) (f : State → State) : State :=
  cs.foldl (fun (a : State) (c : Fin 96) => a.holdMoved s c) (f s)

/-- The supply of a bank becomes absent: its channels are held, and their inputs read 0 without an edge (R54). -/
def State.bankLoss (s : State) (b : Fin 12) : State :=
  s.holdsChange (bankChannels b) (fun s =>
    (bankChannels b).foldl (fun s c => s.modCh c (fun x => { x with inLvl := false, own := [] })) (s.modBank b (fun x => { x with supply := 0 })))

/-- A bank's voltage selects the factory words of its channels (R347): their sums are composed anew (R48), and armed compares adopt the
new launch advance (R56). -/
def State.bankWords (s : State) (b : Fin 12) : State :=
  (bankChannels b).foldl (fun (a : State) (c : Fin 96) => ((a.cmpRetime c (a.outTrc c)).calSaturate c).calSaturate (0x60 + c)) s

/-- The supply of a bank is detected: 1.8 V or 3.3 V (R54, R56). -/
def State.bankReturn (s : State) (b : Fin 12) (volts33 : Bool) : State :=
  let v := if volts33 then 2 else 1
  if s.banks[b].supply = 0 then
    let s1 := s.holdsChange (bankChannels b) (fun s => s.modBank b (fun x => { x with supply := v, lastV := v }))
    if s.banks[b].lastV = v then s1 else s1.bankWords b
  else s

/-- `BANK_SUPPLY_LOSS` (R54). -/
def execBankSupplyLoss (b : Fin 12) (s : State) : Host.Outcome State Fault Refusal := s.always (fun s => s.bankLoss b)

/-- `BANK_SUPPLY_RETURN` (R54). -/
def execBankSupplyReturn (b : Fin 12) (volts33 : Bool) (s : State) : Host.Outcome State Fault Refusal :=
  s.always (fun s => s.bankReturn b volts33)

/-! ### Input edges (R57, R58, R74 to R78) -/

/-- What the glitch filter does with a transition whose new level lasts `width` subs: accepted, rejected and counted, or unseen. -/
inductive FilterFate where
  | accept | reject | unseen
  deriving DecidableEq, Repr

/-- The filter's decision (R57, R58); between the limits it is a free choice, drawn at the present counter. Mark: DESIGN CHOICE, log entry 9. -/
def filterFate (filt width free : Nat) : FilterFate :=
  if filt = 0 then (if 128 ≤ width ∨ Config.filterAccepts free then .accept else .unseen)
  else if 64 * filt ≤ width then .accept
  else if width < 64 * (filt - 1) then .reject
  else if Config.filterAccepts free then .accept
  else .reject

/-- The filter's decision is left open for a width (R57, R58). Mark: DESIGN CHOICE, log entry 9. -/
def filterOpen (filt width : Nat) : Bool :=
  if filt = 0 then decide (width < 128) else decide (64 * (filt - 1) ≤ width ∧ width < 64 * filt)

/-- A transition that the filter has accepted, to the input level `l` after `IN_INV`, stamped t at the reference plane, at a position in
subs of PLL ticks: counts, captures of the channel and of its pair, Orreries (R57, R74, R78, R153). Mark: DESIGN CHOICE, log entry 10. -/
def State.acceptEdge (s : State) (c : Fin 96) (l : Bool) (t : Nat) (step : Bool) (at' : Nat) : State :=
  let s1 := s.modCh c (fun x => { x with inLvl := l })
  let s2 := ((s1.count c (if l then 1 else 2)).count c 3)
  let cap (s : State) (d : Fin 96) (k : Bool) (src : Nat) : State :=
    if s.rget (F.CHc_CAPk_CFG_SRC d (kNat k)) = src ∧ s.capTakes d k l then s.capEdge d k l t step at' else s
  let s3 := cap (cap s2 c false 0) c true 0
  let s4 := cap (cap s3 (pairOf c) false 1) (pairOf c) true 1
  s4.oInputEdge c l t step at'

/-- The first of the channel's own level changes that is to be judged (R55): a change reaches what lies behind the filter FILT ns after the
ball, and by then its pulse has lasted or has ended, so that both edges of a pulse share one fate and keep their distance (R57, R93).
`until`: an edge from outside at a ball time, which ends the pulse that stands. Mark: DESIGN CHOICE, log entry 9; DESIGN CHOICE, log entry 10. -/
def State.ownFirst (s : State) (c : Fin 96) (until' : Option Int) : State :=
  match s.ch[c].own with
  | [] => s
  | (l, t) :: rest =>
    let f := s.rget (F.CHc_PIN_FILT c)
    let drop (s : State) (k : Nat) : State := s.modCh c (fun x => { x with own := x.own.drop k })
    let ripe : Bool := match until' with | some tb => decide (t ≤ tb) | none => decide (t + 64 * f < s.tAhead 1)
    if !ripe then s
    else if s.banks[bankOf c].supply = 0 ∨ l = s.ch[c].inLvl then drop s 1
    else
      let next := rest.findIdx (fun y => y.1 != l)
      let ends := match rest[next]?, until' with | some y, some tb => some (min y.2 tb) | some y, none => some y.2 | none, u => u
      let width := match ends with | some e => (e - t).toNat | none => max 128 (64 * f)
      let s1 := if filterOpen f width then s.drawn else s
      match filterFate f width s.free with
      | .accept =>
        (drop s1 1).acceptEdge c l (t - s1.inTrc c).toNat s1.stepNow ((s1.tickPos 0 : Int) + (t - s1.now)).toNat
      | .reject => (drop s1 (next + 2)).rsat (F.CHc_ERRCNT_GLITCH c) 1
      | .unseen => drop s1 (next + 2)

/-- What a channel's own ball brings its input path in the present tick, or before an edge from outside (R55): each round takes one change
or a pulse, or none. -/
def State.ownStep (s : State) (c : Fin 96) (until' : Option Int) : State :=
  if s.ch[c].own = [] then s else (List.range s.ch[c].own.length).foldl (fun a _ => a.ownFirst c until') s

/-- A transition at a channel ball to `level`, at a position in the present tick, that lasts `width` subs; the channel's own changes before
it come first. Mark: DESIGN CHOICE, log entry 9; DESIGN CHOICE, log entry 10. -/
def State.inputEdge (s : State) (c : Fin 96) (level : Bool) (pos width : Nat) : State :=
  let s := s.ownStep c (some ((s.stampAt pos).1 : Int))
  let l := level != s.ron (F.CHc_PIN_IN_INV c)
  if s.banks[bankOf c].supply = 0 ∨ l = s.ch[c].inLvl then s
  else
    let f := s.rget (F.CHc_PIN_FILT c)
    let s1 := if filterOpen f width then s.drawn else s
    match filterFate f width s.free with
    | .accept =>
      let (t, step) := s1.ballStamp c pos
      s1.acceptEdge c l t step (s1.tickPos pos)
    | .reject => s1.rsat (F.CHc_ERRCNT_GLITCH c) 1
    | .unseen => s1

/-- `INPUT_EDGE` (R57). -/
def execInputEdge (c : Fin 96) (level : Bool) (pos : Fin 64) (width : Nat) (s : State) : Host.Outcome State Fault Refusal :=
  s.event (fun s => s.inputEdge c level pos width)

/-! ### Compare units (R61 to R66) -/

/-- `COMPARE_FIRE` (R63): the launch tick of a waiting compare has come. -/
def execCompareFire (c : Fin 96) (u : Bool) (s : State) : Host.Outcome State Fault Refusal :=
  s.event (fun s => s.cmpReach c u)

/-- The compare's owner is the host (R61). -/
def State.hostOwns (s : State) (c : Fin 96) : Bool := s.rget (F.CHc_CTRL_OWN c) = 0

/-- A host write to `CHc_CMPu_TGT_CTL` (R61, R64): the path's held TGT_LO makes the target. -/
def State.cmpCtlWrite (s : State) (p : Path) (c : Fin 96) (u : Bool) (v : Word) (arm : Bool) : State :=
  if ¬ s.hostOwns c then s.evt (F.CHc_EVT_OWN_ERR_S c)
  else
    let s1 := s.setReg (R.CHc_CMPu_TGT_CTL c (b2n u)) (v &&& 0xFFFF073F)
    if arm then
      s1.cmpArm c u ((s1.heldWord p (R.CHc_CMPu_TGT_LO c (b2n u))).toNat * 64 + wfld v 0 6) (wfld v 8 2) (wfld v 10 1 = 1) (wfld v 16 16)
    else s1.cmpDisarm c u

/-- `COMPARE_ARM` (R64). -/
def execCompareArm (p : Path) (c : Fin 96) (u : Bool) (v : Word) (s : State) : Host.Outcome State Fault Refusal :=
  s.hostAct p (R.CHc_CMPu_TGT_CTL c (b2n u)) (fun s => s.cmpCtlWrite p c u v true)

/-- `COMPARE_DISARM` (R64). -/
def execCompareDisarm (p : Path) (c : Fin 96) (u : Bool) (v : Word) (s : State) : Host.Outcome State Fault Refusal :=
  s.hostAct p (R.CHc_CMPu_TGT_CTL c (b2n u)) (fun s => s.cmpCtlWrite p c u v false)

/-- `CHANNEL_HOLD` (R60). -/
def execChannelHold (p : Path) (c : Fin 96) (hold : Bool) (s : State) : Host.Outcome State Fault Refusal :=
  s.hostAct p (R.CHc_CTRL c) (fun s => s.holdChange c (fun s => s.rput (F.CHc_CTRL_HOLD c) (b2n hold)))

/-! ### Edge FIFO (R67 to R73) -/

/-- `FIFO_PUSH` (R67, R68): the entry is composed with the path's held ENT_LO. -/
def execFifoPush (p : Path) (c : Fin 96) (v : Word) (s : State) : Host.Outcome State Fault Refusal :=
  s.hostAct p (R.CHc_FIFO_ENT_HI c) (fun s => s.fifoPush c (fifoEntry (s.heldWord p (R.CHc_FIFO_ENT_LO c)) v))

/-- `FIFO_START` (R70). -/
def execFifoStart (p : Path) (c : Fin 96) (waits : Bool) (s : State) : Host.Outcome State Fault Refusal :=
  s.hostAct p (R.CHc_FIFO_CTL c) (fun s => (s.fifoStart c waits).1)

/-- `FIFO_STOP` (R70). -/
def execFifoStop (p : Path) (c : Fin 96) (s : State) : Host.Outcome State Fault Refusal :=
  s.hostAct p (R.CHc_FIFO_CTL c) (fun s => (s.fifoStop c).noteHostStop c)

/-- `FIFO_FLUSH` (R70). -/
def execFifoFlush (p : Path) (c : Fin 96) (s : State) : Host.Outcome State Fault Refusal :=
  s.hostAct p (R.CHc_FIFO_CTL c) (fun s => (s.fifoFlush c).noteHostStop c)

/-- `FIFO_BREAK` (R69). -/
def execFifoBreak (p : Path) (c : Fin 96) (s : State) : Host.Outcome State Fault Refusal :=
  s.hostAct p (R.CHc_FIFO_CTL c) (fun s => s.fifoBreak c)

/-! ### Captures (R74 to R77) -/

/-- `CAPTURE` (R76): an edge at the unit's ball that its EDGE field takes. -/
def execCapture (c : Fin 96) (k rise : Bool) (pos : Fin 64) (s : State) : Host.Outcome State Fault Refusal :=
  s.event (fun s =>
    let b := if s.ron (F.CHc_CAPk_CFG_SRC c (kNat k)) then pairOf c else c
    let (t, step) := s.ballStamp b pos
    if s.banks[bankOf b].supply ≠ 0 ∧ s.capTakes c k rise then s.capEdge c k rise t step (s.tickPos pos) else s)

/-- A read of `CHc_CAPk_LO` (R77); while the device is frozen it consumes nothing (R378). -/
def State.capHostRead (s : State) (p : Path) (c : Fin 96) (k : Bool) : State :=
  let (x, fresh, s1) := s.capRead c k false
  let s2 := if s.frozen then s else s1
  let (t, rise) := match x with | some y => (y.t, y.rise) | none => (0, false)
  ((s2.setShadow p (R.CHc_CAPk_HI c (kNat k)) (word (tNs t / 2 ^ 32))).setShadow p (R.CHc_CAPk_STAT c (kNat k))
    (word (tSub t + 64 * b2n rise + 128 * b2n fresh))).answer p (word (tNs t))

/-- `CAPTURE_READ` (R77). -/
def execCaptureRead (p : Path) (c : Fin 96) (k : Bool) (s : State) : Host.Outcome State Fault Refusal :=
  s.hostRead (fun s => s.capHostRead p c k)

end Sys2Proof.Machine
end

