-- ==== Sys2Proof/Machine/GafferCmd.lean ====
section
/-!
DEFINITION. The commands of `Ge_CMD`, the scheduler's own events, the shared registers and the control store (R101 to R119, R134,
R135, R149 to R152).
-/
namespace Sys2Proof.Machine
open Sys2Proof

/-- START (R107, R134): of an IDLE or HALTED thread. Mark: DEDUCED, log entry 42. -/
def State.cmdStart (s : State) (e : Fin 8) (n : Fin 16) (pc : BitVec 11) : State :=
  if (s.thr e n).state = .idle ∨ (s.thr e n).state = .halted then (s.thStart e n pc).geCmdStat e n 0 else s.geCmdStat e n 2

/-- HALT (R107): at once for a PARKED or READY thread, whose READY interval ends (R116), at the next safe point or wait for a running one. Mark: DEDUCED, log entry 42. -/
def State.cmdHalt (s : State) (e : Fin 8) (n : Fin 16) : State :=
  match (s.thr e n).state with
  | .run => (s.modThr e n (fun t => { t with haltReq := true })).geCmdStat e n 1
  | .ready | .parked =>
    (s.modThr e n (fun t => { Thread.waited t s.now with state := .halted, park := .none, keep := false, wokenAt := none })).geCmdStat e n 0
  | _ => s.geCmdStat e n 2

def State.clrFlt (s : State) (e : Fin 8) (n : Fin 16) : State :=
  let m := s.rget (F.Ge_FLTMASK_FLT e)
  if nbit m n then s.rput (F.Ge_FLTMASK_FLT e) (m - 2 ^ n.val) else s

/-- RESUME (R107, R134): of a HALTED or FAULT thread, which clears nothing but the fault mask bit. Mark: DEDUCED, log entry 42. -/
def State.cmdResume (s : State) (e : Fin 8) (n : Fin 16) : State :=
  if (s.thr e n).state = .halted ∨ (s.thr e n).state = .fault then
    ((s.clrFlt e n).modThr e n (fun t => { t with haltReq := false }.toReady s.now)).geCmdStat e n 0
  else s.geCmdStat e n 2

/-- CLRFAULT (R107): FAULT to IDLE. -/
def State.cmdClrFault (s : State) (e : Fin 8) (n : Fin 16) : State :=
  if (s.thr e n).state = .fault then ((s.clrFlt e n).modThr e n (fun t => { t with state := .idle })).geCmdStat e n 0
  else s.geCmdStat e n 2

def State.cmdWake (s : State) (e : Fin 8) (n : Fin 16) : State := (s.wake e n 8).geCmdStat e n 0
def State.cmdClrLat (s : State) (e : Fin 8) (n : Fin 16) : State := (s.setReg (R.Ge_LAT_MAX e) 0).geCmdStat e n 0

/-- A write to `Ge_CTRL.RUN` (R101, R105): the first setting after boot release starts the AUTOSTART threads. -/
def State.runWrite (s : State) (e : Fin 8) (run : Bool) : State :=
  let s1 := s.rput (F.Ge_CTRL_RUN e) (b2n run)
  if s1.dispatchOn e then s1.autostart e else s1

/-- The engine is free and the Gaffer dispatches: the next thread runs, if one is READY (R104). Mark: DEDUCED, log entry 43. -/
def State.dispatch (s : State) (e : Fin 8) : State :=
  if s.dispatchOn e ∧ s.gaf[e].running = none then
    match s.pickThread e with
    | some (k, n) => s.dispatchThread e k n
    | none => s
  else s

/-- A thread that has been READY for longer than the threshold is reported once (R116, R117). -/
def State.threadStarve (s : State) (e : Fin 8) (n : Fin 16) : State :=
  let t := s.thr e n
  let us := s.rget (F.Ge_STARVE_US e)
  match t.readySince with
  | some r =>
    if us ≠ 0 ∧ t.state = .ready ∧ ¬ t.starved ∧ r + us * 64000 < s.now then
      ((s.modThr e n (fun t => { t with starved := true })).evt (F.Ge_EVT_STARVE_S e)).emit 0x1E 105 s.now 0
        (word (e.val + 16 * n.val + 256 * t.cls)) (word ((s.now - r) / 64000)) 0 0
    else s
  | none => s

/-- The retry of a thread parked on SPACE that has been woken: it is dispatched, if it is next, and issues its microword again
(R135). -/
def State.spaceRetry (s : State) (e : Fin 8) (n : Fin 16) : State :=
  let s1 := s.dispatch e
  let spaced : Bool := match (s1.thr e n).park with | .space _ => true | _ => false
  if s1.gaf[e].running = some n ∧ spaced then s1.issue e (fun _ => true) else s

/-- A write to `Ge_SREGm_HI` (R119): the path's held low word and the high byte, as one value. -/
def State.sregStore (s : State) (p : Path) (e : Fin 8) (m : Fin 64) (v : Word) : State :=
  let x := (s.heldWord p (R.Ge_SREGm_LO e m)).toNat + 2 ^ 32 * wfld v 0 8
  s.modGaf e (fun g => { g with sreg := g.sreg.set m (BitVec.ofNat 40 x) })

/-! ### Control store (R149, R150) -/

/-- The control-store set of a Gaffer is locked (R319, CSe_CTRL.LOCK). -/
def State.csLocked (s : State) (e : Fin 8) : Bool := s.ron (F.CSe_CTRL_LOCK e) || nbit (s.rget F.GL_LOCK_DOMAINS) 9

/-- Store a microword with its parity; PINJ inverts P0 once (R150). The configuration count advances (R323). -/
def State.csPut (s : State) (e : Fin 8) (w : Fin 2048) (m : Nat) : State :=
  let m := m % 2 ^ 144
  let par := mwParity m
  let par := if s.ron (F.CSe_CTRL_PINJ e) then (if par % 2 = 1 then par - 1 else par + 1) else par
  let s1 := s.modGaf e (fun g => { g with cs := tblSet (fun _ => 0) g.cs w (BitVec.ofNat 148 (m + par * 2 ^ 144)) })
  ((s1.rput (F.CSe_CTRL_PINJ e) 0).rput (F.CSe_STAT_LAST e) w).rwrap F.GL_CFGGEN_GEN 1

/-- The bus offset of word i of a microword. -/
def csOffset (e : Fin 8) (w i : Nat) : Nat := 0x400000 + e.val * 0x20000 + 0x20 * w + 4 * i

/-- The microword that a path's held words 0 to 3 and a word 4 make. -/
def State.csHeld (s : State) (p : Path) (e : Fin 8) (w : Fin 2048) (v : Word) : Nat :=
  ((List.range 4).map (fun i => (s.heldWord p (csOffset e w i)).toNat * 2 ^ (32 * i))).sum + wfld v 0 16 * 2 ^ 128

/-- `THREAD_START` (R134). -/
def execThreadStart (p : Path) (e : Fin 8) (n : Fin 16) (pc : BitVec 11) (s : State) : Host.Outcome State Fault Refusal :=
  s.hostAct p (R.Ge_CMD e) (fun s => s.cmdStart e n pc)

/-- `THREAD_HALT` (R107). -/
def execThreadHalt (p : Path) (e : Fin 8) (n : Fin 16) (s : State) : Host.Outcome State Fault Refusal :=
  s.hostAct p (R.Ge_CMD e) (fun s => s.cmdHalt e n)

/-- `THREAD_RESUME` (R134). -/
def execThreadResume (p : Path) (e : Fin 8) (n : Fin 16) (s : State) : Host.Outcome State Fault Refusal :=
  s.hostAct p (R.Ge_CMD e) (fun s => s.cmdResume e n)

/-- `THREAD_WAKE` (R102). -/
def execThreadWake (p : Path) (e : Fin 8) (n : Fin 16) (s : State) : Host.Outcome State Fault Refusal :=
  s.hostAct p (R.Ge_CMD e) (fun s => s.cmdWake e n)

/-- `CLRFAULT` (R107). -/
def execClrFault (p : Path) (e : Fin 8) (n : Fin 16) (s : State) : Host.Outcome State Fault Refusal :=
  s.hostAct p (R.Ge_CMD e) (fun s => s.cmdClrFault e n)

/-- `CLRLAT` (R113). -/
def execClrLat (p : Path) (e : Fin 8) (n : Fin 16) (s : State) : Host.Outcome State Fault Refusal :=
  s.hostAct p (R.Ge_CMD e) (fun s => s.cmdClrLat e n)

/-- `GAFFER_NOP` (R101): no effect. -/
def execGafferNop (p : Path) (e : Fin 8) (_n : Fin 16) (s : State) : Host.Outcome State Fault Refusal :=
  s.hostAct p (R.Ge_CMD e) (fun s => s)

/-- `DISPATCH` (R104). -/
def execDispatch (e : Fin 8) (s : State) : Host.Outcome State Fault Refusal := s.event (fun s => s.dispatch e)

/-- `TIMER_DUE` (R110). -/
def execTimerDue (e : Fin 8) (s : State) : Host.Outcome State Fault Refusal := s.event (fun s => s.timerDue e)

/-- `THREAD_STARVE` (R116). -/
def execThreadStarve (e : Fin 8) (n : Fin 16) (s : State) : Host.Outcome State Fault Refusal :=
  s.event (fun s => s.threadStarve e n)

/-- `SPACE_RETRY` (R135). -/
def execSpaceRetry (e : Fin 8) (n : Fin 16) (s : State) : Host.Outcome State Fault Refusal := s.event (fun s => s.spaceRetry e n)

/-- `SREG_STORE` (R119). -/
def execSregStore (p : Path) (e : Fin 8) (m : Fin 64) (v : Word) (s : State) : Host.Outcome State Fault Refusal :=
  s.hostAct p (R.Ge_SREGm_HI e m) (fun s => s.sregStore p e m v)

end Sys2Proof.Machine
end

