-- ==== Sys2Proof/Machine/Locks.lean ====
section
/-!
DEFINITION. Lock domains and write-once registers (R319 to R322), and the configuration count (R323, R324).
-/
namespace Sys2Proof.Machine
open Sys2Proof

/-! ### Lock domains -/

/-- The fields of a Channel, Orrery or other register that a lock domain holds: (domain, mask of its bits), by bus offset (R319).
The CAL_U words (domain 1) are behind CAL_U_DATA; command operations are tested where they are decoded. -/
def lockMask (o : Nat) : Option (Nat × Nat) :=
  if o < 0x1000 then none
  else if o < 0x2000 then
    if o = R.SPN_CTRL ∨ o = R.SPN_PPSO_PER ∨ o = R.SPN_PPSO_OFS ∨ o = R.SPN_PPSO_WID then some (0, 0xFFFFFFFF) else none
  else if o < 0x3000 then
    if o = R.EC_TGT ∨ o = R.EC_ROUTE ∨ o = R.EC_ALTTYPE_LO ∨ o = R.EC_ALTTYPE_HI ∨ o = R.EC_WAKE then some (5, 0xFFFFFFFF)
    else if o = R.EC_CTRL then some (5, 1)
    else if 0x2040 ≤ o ∧ o < 0x20C0 ∧ o % 16 = 8 then some (5, 0xFFFFFFFF)
    else none
  else if o < 0x4000 then none
  else if o < 0x5000 then
    if o = R.EL_CTRL ∨ o = R.EL_PRIO ∨ o = R.EL_SRV_CFG ∨ o = R.EL_SRV_THR ∨ o = R.EL_SRV_STEP then some (7, 0xFFFFFFFF)
    else if o = R.EL_ID then some (7, 0x3FF)
    else none
  else if o = R.CAL_U_DATA then some (1, 0xFFFFFFFF)
  else if o < 0x9000 then none
  else if o < 0xA000 then
    if o = R.PSQ_CTRL ∨ (R.PSQ_Rr_CFG 0 ≤ o ∧ o < R.PSQ_Rr_CFG 0 + 64) then some (11, 0xFFFFFFFF) else none
  else if o < 0x14000 then
    let i := o % 0x1000
    if i = 0 ∨ i = 4 ∨ (0x10 ≤ i ∧ i < 0x3C) then some (3, 0xFFFFFFFF) else none
  else if o < 0x19000 then
    let i := o % 0x1000
    if i = 0 ∨ i = 0xC ∨ (0x40 ≤ i ∧ i < 0x70) ∨ (0x100 ≤ i ∧ i < 0x160 ∧ i % 16 < 8) then some (10, 0xFFFFFFFF) else none
  else if o < 0x30000 then
    if o = R.LH_CTRL then some (6, 0xE)
    else if o = R.LH_CASC ∨ (R.LH_POOL_LO ≤ o ∧ o ≤ R.LH_GPOFS) ∨ (R.LH_DESTd 0 ≤ o) then some (6, 0xFFFFFFFF)
    else none
  else if o < 0x40000 then
    let i := o % 0x40
    if i = 0 then some (4, 0xFFFFFFFE) else if i = 4 ∨ i = 8 ∨ i = 0x14 ∨ i = 0x18 then some (4, 0xFFFFFFFF) else none
  else if o < 0x48000 then
    let i := o % 0x1000
    if i = 0 then some (8, 0xFF02)
    else if i = 0x28 ∨ i = 0x4C ∨ (0x100 ≤ i ∧ i < 0x200 ∧ i % 16 = 0) then some (8, 0xFFFFFFFF)
    else none
  else if 0x100000 ≤ o ∧ o < 0x118000 then
    let i := o % 0x400
    if i = 0 then some (2, 0x0B7F) else if i = 4 ∨ i = 8 then some (2, 0xFFFFFFFF) else none
  else none

/-- A lock domain is locked. -/
def State.locked (s : State) (d : Nat) : Bool := nbit (s.rget F.GL_LOCK_DOMAINS) d

/-- The bits of a register that locks hold now. -/
def State.lockedBits (s : State) (o : Nat) : Nat :=
  match lockMask o with | some (d, m) => if s.locked d then m else 0 | none => 0

/-- A violation (R320, R322): counted, noted and reported. `domains` are those whose fields the write selected. While a load runs the
write is the loader's, and is only counted (R344). -/
def State.lockViolation (s : State) (p : Path) (o : Nat) (v : Word) (domains : Nat) (once : Bool) : State :=
  if s.loading then s.rsat F.CFG_LOADERR_LOCKED 1 else
  let s1 := ((s.rsat F.GL_LOCK_VIOL_CNT 1).setReg R.GL_LOCK_LAST (word (o + 2 ^ 26 * pathBit p))).evt F.GL_EVT_LOCK_S
  s1.emit 0x28 104 s1.now flFault (word (o + 2 ^ 26 * pathBit p)) v (word (domains + 32768 * b2n once)) (s1.reg R.GL_LOCK_VIOL)

/-- A host command operation that a lock domain holds is a violation without further effect (R319, R320). -/
def State.lockedCommand (s : State) (p : Path) (o d : Nat) (v : Word) (f : State → State) : State :=
  if s.locked d then s.lockViolation p o v (2 ^ d) false else f s

/-! ### The configuration count (R323, R324) -/

/-- Bits of a register that the signature set leaves out (R324), besides the bits whose access is not RW, RWM, W1S or WOL. -/
def sigExcluded (o : Nat) : Nat :=
  let all := 0xFFFFFFFF
  if o = R.SPN_RATE ∨ o = R.SPN_OPD_LO ∨ o = R.SPN_OPD_HI ∨ o = R.SPN_OPD_SUB ∨ o = R.SPN_DUR then all
  else if o = R.EC_IDX ∨ (0x2100 ≤ o ∧ o < 0x2200) ∨ o = R.EC_TGT ∨ o = R.EC_ROUTE then all
  else if o = R.EC_CTRL then 6
  else if o = R.EL_TABIDX ∨ o = R.AP_CTRL ∨ o = R.AP_AT_LO ∨ o = R.AP_AT_HI ∨ o = R.AP_FENCE then all
  else if o = R.CAL_IDX ∨ o = R.CAL_OTP_IDX ∨ o = R.CAL_U_DATA then all
  else if 0x60 ≤ o ∧ o < 0x70 then all
  else if 0x10000 ≤ o ∧ o < 0x14000 ∧ o % 0x1000 = 0x44 then all
  else if 0x18100 ≤ o ∧ o < 0x18160 ∧ o % 16 = 12 then all
  else if 0x30000 ≤ o ∧ o < 0x40000 ∧ o % 0x40 = 0x10 then all
  else if 0x40000 ≤ o ∧ o < 0x48000 ∧ 0x200 ≤ o % 0x1000 then all
  else if 0x400000 ≤ o then 3
  else if 0x100000 ≤ o ∧ o < 0x118000 then
    let i := o % 0x400
    if i = 0 then 0x400 else if 0x20 ≤ i ∧ i < 0x80 then all else if i = 0x108 ∨ i = 0x10C then all else 0
  else 0

/-- Bits of a register whose access includes RW, RWM, W1S or WOL. -/
def descSig (r : RegDesc) : Nat :=
  r.fields.foldl (fun a f =>
    match f.acc with
    | .rw | .rwm | .w1s | .wol => a + (2 ^ f.width - 1) * 2 ^ f.lo
    | _ => a) 0

/-- The bits of a register that are in the signature set. -/
def sigBits (o : Nat) : Nat :=
  match descAt o with
  | none => 0
  | some r => descSig r &&& (0xFFFFFFFF - sigExcluded o)

/-- The part of a register's active value that is in the signature set. -/
def State.sigValue (s : State) (o : Nat) : Nat := (s.reg o).toNat &&& sigBits o

/-- Count a change of the configuration (R323). -/
def State.cfgChanged (s : State) : State := s.rwrap F.GL_CFGGEN_GEN 1

/-- A host write to one register: the configuration count advances if it changed a field of the signature set (R323). -/
def State.cfgWrite (s : State) (o : Nat) (f : State → State) : State :=
  let t := f s
  if t.sigValue o = s.sigValue o then t else t.cfgChanged

/-! ### Control-store stores (R149, R319) -/

/-- A write to word 4 of a microword (R149): refused while WE is 0 or the store is locked; a locked store is a violation too. -/
def State.csWrite (s : State) (p : Path) (e : Fin 8) (w : Fin 2048) (v : Word) : State :=
  let refuse := fun (s : State) => s.rsat (F.CSe_STAT_REFUSED e) 1
  if s.csLocked e then (refuse s).lockViolation p (csOffset e w 4) v (2 ^ 9) false
  else if s.ron (F.CSe_CTRL_WE e) then s.csPut e w (s.csHeld p e w v)
  else refuse s

/-- `CS_STORE` (R149). -/
def execCsStore (p : Path) (e : Fin 8) (w : Fin 2048) (v : Word) (s : State) : Host.Outcome State Fault Refusal :=
  s.hostAct p (csOffset e w 4) (fun s => s.csWrite p e w v)

/-- `GE_CTRL_RUN` (R105); RUN is in the signature set. -/
def execGeCtrlRun (p : Path) (e : Fin 8) (run : Bool) (s : State) : Host.Outcome State Fault Refusal :=
  s.hostAct p (R.Ge_CTRL e) (fun s => s.cfgWrite (R.Ge_CTRL e) (fun s => s.runWrite e run))

end Sys2Proof.Machine
end

