-- ==== Sys2Proof/Machine/OrreryCmd.lean ====
section
/-!
DEFINITION. Commands at the Orreries and the converters (R153 to R201): edges at an Orrery's own inputs, samples, time-outs, and
the writes of the host.
-/
namespace Sys2Proof.Machine
open Sys2Proof

/-! ### Orrery events -/

/-- The Orreries take part: not in IDLE (R354). Mark: DESIGN CHOICE, log entry 44. -/
def State.oryEvent (s : State) (f : State → State) : Host.Outcome State Fault Refusal :=
  s.event (fun s => if s.rget F.PW_STAT_STATE = 2 then s else f s)

/-- An edge at one input of an Orrery: none comes from a bank without supply (R54, R182). -/
def State.oryEdge (s : State) (n : Fin 4) (i : Nat) (f : State → State) : Host.Outcome State Fault Refusal :=
  s.oryEvent (fun s => if s.oInputOff n i then s else f s)

/-- `WHEEL_TOOTH` (R163). -/
def execWheelTooth (n : Fin 4) (pos : Fin 64) (s : State) : Host.Outcome State Fault Refusal := s.oryEdge n 0 (fun s => s.oWheelEdge n (s.oStamp n 0 pos))

/-- `CAM_EDGE` (R167). -/
def execCamEdge (n : Fin 4) (pos : Fin 64) (s : State) : Host.Outcome State Fault Refusal := s.oryEdge n 2 (fun s => s.oCamEdge n (s.oStamp n 2 pos))

/-- `CAM_LOST` (R167). -/
def execCamLost (n : Fin 4) (s : State) : Host.Outcome State Fault Refusal := s.oryEvent (fun s => s.oCamLost n)

/-- `DIR_PW_DECISION` (R168). -/
def execDirPwDecision (n : Fin 4) (s : State) : Host.Outcome State Fault Refusal := s.oryEvent (fun s => s.oPwDue n)

/-- `HALL_CHANGE` (R169). -/
def execHallChange (n : Fin 4) (lvl : BitVec 3) (pos : Fin 64) (s : State) : Host.Outcome State Fault Refusal :=
  s.oryEvent (fun s => s.oHall n (s.oSeenLvl n s.ory[n].lvl lvl) (fun i => s.oStamp n i pos))

/-- `QUAD_TRANSITION` (R170). -/
def execQuadTransition (n : Fin 4) (lvl : BitVec 3) (pos : Fin 64) (s : State) : Host.Outcome State Fault Refusal :=
  s.oryEvent (fun s => s.oQuad n (s.oSeenLvl n (s.oQuadLvl n) lvl) (fun i => s.oStamp n i pos))

/-- `SINCOS_SAMPLE` (R172). -/
def execSincosSample (n : Fin 4) (rawS rawC : BitVec 14) (s : State) : Host.Outcome State Fault Refusal :=
  s.oryEvent (fun s => s.oSincos n rawS rawC)

/-- `SINCOS_INDEX` (R174). -/
def execSincosIndex (n : Fin 4) (pos : Fin 64) (s : State) : Host.Outcome State Fault Refusal := s.oryEdge n 2 (fun s => s.oMarker n (s.oStamp n 2 pos))

/-- `STILL` (R177). -/
def execStill (n : Fin 4) (s : State) : Host.Outcome State Fault Refusal := s.oryEvent (fun s => s.oStill n)

/-! ### `ORYn_CMD` (R181) -/

/-- `ORY_NOP` (R181): accepted, without effect but on CMD_REF. -/
def execOryNop (p : Path) (n : Fin 4) (s : State) : Host.Outcome State Fault Refusal :=
  s.hostAct p (R.ORYn_CMD n) (fun s => s.oCmdPost n 0)

/-- `REACQ` (R181); domain ORY holds it. -/
def execReacq (p : Path) (n : Fin 4) (s : State) : Host.Outcome State Fault Refusal :=
  s.hostAct p (R.ORYn_CMD n) (fun s => s.lockedCommand p (R.ORYn_CMD n) 3 1 (fun s => s.oCmdPost n 1))

/-- `SETPOS` (R181); domain ORY holds it. -/
def execSetpos (p : Path) (n : Fin 4) (s : State) : Host.Outcome State Fault Refusal :=
  s.hostAct p (R.ORYn_CMD n) (fun s => s.lockedCommand p (R.ORYn_CMD n) 3 2 (fun s => s.oCmdPost n 2))

/-- `CLRCNT` (R181). -/
def execClrCnt (p : Path) (n : Fin 4) (s : State) : Host.Outcome State Fault Refusal :=
  s.hostAct p (R.ORYn_CMD n) (fun s => s.oCmdPost n 3)

/-! ### Converters (R195 to R201) -/

/-- A `CV_CMD` write (R195, R196). -/
def State.cvCommand (s : State) (k : Fin 2) (ain : Nat) : State :=
  if s.convRoom k 1 then s.convPush k ⟨ain, 5, s.now + 1, false, none, s.spine.tick, none, false⟩
  else s.convRefuse k none

/-- A host write to `CVBUFb_RDIDX` (R200): beyond the write index it is ignored; where a full buffer gets space, the samples
discarded meanwhile are reported. Mark: DEDUCED, log entry 47. -/
def State.rdidxWrite (s : State) (b : Fin 6) (v : Word) : State :=
  let old := s.rget (F.CVBUFb_RDIDX_RDIDX b)
  let wr := s.rget (F.CVBUFb_WRIDX_WRIDX b)
  if (wr + 2 ^ 32 - old) % 2 ^ 32 < (v.toNat + 2 ^ 32 - old) % 2 ^ 32 then s.evt F.CV_EVT_CFG_ERR_S
  else
    (s.setReg (R.CVBUFb_RDIDX b) v).sbufSpace b

/-- `CV_CMD` (R195). -/
def execCvCmd (p : Path) (k : Fin 2) (ain : Fin 16) (s : State) : Host.Outcome State Fault Refusal :=
  s.hostAct p R.CV_CMD (fun s => s.cvCommand k ain)

/-- `CONV_HOLD` (R196). -/
def execConvHold (k : Fin 2) (s : State) : Host.Outcome State Fault Refusal := s.event (fun s => s.convHold k)

/-- `CONV_RESULT` (R199). -/
def execConvResult (k : Fin 2) (raw : BitVec 12) (s : State) : Host.Outcome State Fault Refusal := s.event (fun s => s.convResult k raw)

/-- `CVBUF_RDIDX_WRITE` (R200). -/
def execCvbufRdidxWrite (p : Path) (b : Fin 6) (v : Word) (s : State) : Host.Outcome State Fault Refusal :=
  s.hostAct p (R.CVBUFb_RDIDX b) (fun s => s.rdidxWrite b v)

end Sys2Proof.Machine
end

