-- ==== Sys2Proof/Machine/Apply.lean ====
section
/-!
DEFINITION. Staging, apply groups and strobes (R82, R85, R180, R202, R311 to R318, R348).
-/
namespace Sys2Proof.Machine
open Sys2Proof

/-! ### Staged values (R311) -/

/-- Bits of a register that are staged (ST). -/
def descSt (r : RegDesc) : Nat := r.fields.foldl (fun a f => if f.st then a + (2 ^ f.width - 1) * 2 ^ f.lo else a) 0

def stBits (o : Nat) : Nat := match descAt o with | none => 0 | some r => descSt r

/-- A register's word with its staged fields taken from another. -/
def stMerge (o : Nat) (old w : Word) : Word :=
  BitVec.ofNat 32 ((old.toNat &&& (0xFFFFFFFF - stBits o)) ||| (w.toNat &&& stBits o))

/-- The active value of a register, that of a strobe in the present tick included (R311, R312). -/
def State.shownReg (s : State) (o : Nat) : Word := match tblFind s.ap.regs o with | some w => stMerge o (s.reg o) w | none => s.reg o

/-- The staged value of a register: the active value where nothing is staged. -/
def State.stagedReg (s : State) (o : Nat) : Word := (tblFind s.staged o).getD (s.shownReg o)

/-- Stage a value. -/
def State.stage (s : State) (o : Nat) (w : Word) : State := { s with staged := tblPut s.staged o w }

/-- The group of a user word (R348). -/
def State.calGroup (s : State) (q : Nat) : Nat :=
  if q < 0xC4 ∨ q = 0xF2 ∨ q = 0xF6 then s.rget F.CAL_AG_DLY_AG
  else if q < 0xD0 then s.rget F.CAL_AG_EL_AG
  else if q < 0xF0 then s.rget F.CAL_AG_ORY_AG
  else s.rget F.CAL_AG_CV_AG

/-- The apply group of the block that a staged register belongs to (R85, R180, R202). -/
def State.groupOf (s : State) (o : Nat) : Nat :=
  if 0x100000 ≤ o then s.rget (F.CHc_AG_AG ((o - 0x100000) / 0x400))
  else if 0x18000 ≤ o then s.rget F.CV_AG_AG
  else s.rget (F.ORYn_AG_AG ((o - 0x10000) / 0x1000))

/-- The groups that hold staged values: `AP_STAT.DIRTY`. -/
def State.dirty (s : State) : Nat :=
  let a := s.staged.foldl (fun (m : Nat) e => m ||| 2 ^ s.groupOf e.1) 0
  s.calS.foldl (fun (m : Nat) e => m ||| 2 ^ s.calGroup e.1) a

/-! ### What a strobe does to each block (R312) -/

/-- Registers of the Orreries and the converters: an edge, a sample or a trigger of the strobe tick is handled under the configuration of
its start (R180, R202), so a strobe's values wait for the end of the tick. -/
def waitsBlock (o : Nat) : Bool := 0x10000 ≤ o && o < 0x19000

/-- The user words of the Orreries, which wait likewise (R180). -/
def waitsWord (q : Nat) : Bool := 0xD0 ≤ q && q < 0xF0

/-- The register values that a mask of groups makes active. -/
def State.activate (s : State) (m : Nat) : State :=
  let due := s.staged.filter (fun e => nbit m (s.groupOf e.1))
  let s1 := (due.filter (fun e => !waitsBlock e.1)).foldl (fun (a : State) e => a.setReg e.1 (stMerge e.1 (a.reg e.1) e.2)) s
  { s1 with
    staged := s.staged.filter (fun e => !nbit m (s.groupOf e.1))
    ap := { s1.ap with regs := (due.filter (fun e => waitsBlock e.1)).foldl (fun t e => tblPut t e.1 e.2) s1.ap.regs } }

/-- The user words that a mask of groups makes active. -/
def State.activateCal (s : State) (m : Nat) : State :=
  let due := s.calS.filter (fun e => nbit m (s.calGroup e.1))
  { s with
    calU := (due.filter (fun e => !waitsWord e.1)).foldl (fun t e => tblSet calUDefault t e.1 e.2) s.calU
    calS := s.calS.filter (fun e => !nbit m (s.calGroup e.1))
    ap := { s.ap with words := (due.filter (fun e => waitsWord e.1)).foldl (fun t e => tblPut t e.1 e.2) s.ap.words } }

/-- Count from a value on, with the events that the source in force has had in the present tick: a strobe acts from the start of its tick,
also one that stands within it, as that of an entry which a step has passed (R92, R312). -/
def State.cntFrom (s : State) (c : Fin 96) (v : Nat) : State :=
  let s1 := s.modCh c (fun x => { x with cnt := v % 2 ^ 32, cntTick := none })
  let s2 := if s.cascLo c then s1.modCh (pairOf c) (fun x => { x with cnt := v / 2 ^ 32 }) else s1
  let src := s.rget (F.CHc_CNT_CFG_SRC c)
  if nbit (s.eventsNow c) src then s2.countNow c src else s2

/-- What LOAD puts into a counter that starts, both halves of a cascade (R79). -/
def State.cntPreset (s : State) (c : Fin 96) : Nat :=
  (s.reg (R.CHc_CNT_PRESET c)).toNat + (if s.cascLo c then 2 ^ 32 * (s.reg (R.CHc_CNT_PRESET (pairOf c))).toNat else 0)

/-- The counter of a channel after a strobe that may set or clear RUN, or change its source (R78 to R80). `old` is the state before the
strobe. A counter that becomes the high half of a cascade, or ceases to be one, neither stops nor starts (R79). Mark: DESIGN CHOICE, log entry 39. -/
def State.cntStrobe (s old : State) (c : Fin 96) : State :=
  let was := old.ron (F.CHc_CNT_CFG_RUN c) && !old.cascHi c
  if s.cascHi c then s
  else if was ∧ ¬ s.ron (F.CHc_CNT_CFG_RUN c) then
    -- a stop: an event of this tick is not counted, and the image is the final count
    let v := s.cntBefore c
    let s1 := s.latch c causeStop s.now
    let s2 := s1.modCh c (fun x => { x with cnt := v % 2 ^ 32, cntTick := none })
    if s.cascLo c then s2.modCh (pairOf c) (fun x => { x with cnt := v / 2 ^ 32 }) else s2
  else if ¬ s.ron (F.CHc_CNT_CFG_RUN c) then s
  else if ¬ old.ron (F.CHc_CNT_CFG_RUN c) then
    s.cntFrom c (if s.ron (F.CHc_CNT_CFG_LOAD c) then s.cntPreset c else s.cntBefore c)
  else if old.rget (F.CHc_CNT_CFG_SRC c) ≠ s.rget (F.CHc_CNT_CFG_SRC c) then s.cntFrom c (s.cntBefore c)
  else s

/-- What a strobe of a channel's pin fields brings its input path (R55): a new inversion, which turns the level that stands and those on
their way, and a new level of the driven ball. -/
def State.pinStrobe (s old : State) (c : Fin 96) : State :=
  let s1 :=
    if s.banks[bankOf c].supply ≠ 0 ∧ old.ron (F.CHc_PIN_IN_INV c) ≠ s.ron (F.CHc_PIN_IN_INV c) then
      s.modCh c (fun x => { x with
        own := ownInsert (!ownLevel x.inLvl s.now x.own, (s.now : Int)) x.own ++
          (x.own.filter (fun y => decide ((s.now : Int) < y.2))).map (fun y => (!y.1, y.2)) })
    else s
  s1.pinEcho old c s.now

/-- A channel of a strobed group (R55, R56, R61, R70, R75, R82, R102). A train that waits begins from the base registers as they stand at the
strobe. Mark: DESIGN CHOICE, log entry 106. -/
def State.chStrobe (s old : State) (c : Fin 96) : State :=
  let s1 := s.cntStrobe old c
  let own := old.rget (F.CHc_CTRL_OWN c)
  let own' := s.rget (F.CHc_CTRL_OWN c)
  let s2 := if own = own' then s1 else s1.ownChange c own own'
  let s3 := if own ≠ own' ∨ old.rget (F.CHc_CTRL_TB c) ≠ s.rget (F.CHc_CTRL_TB c) then s2.wakeCh c 11 else s2
  let s4 := if old.rget (F.CHc_PIN_DRV c) = s.rget (F.CHc_PIN_DRV c) then s3 else (s3.cmpRetime c (s.outTrc c)).calSaturate c
  let s5 := if s4.ch[c].fifo.state = .waitStart then s4.fifoBegin c else s4
  ((s5.pinStrobe old c).capPump c).wakeCh c 13

/-- Fields of an Orrery whose change restarts acquisition (R180). -/
def State.oShape (s : State) (n : Nat) : List Nat :=
  [s.oType n, s.rget (F.ORYn_CTRL_TPC n), s.rget (F.ORYn_CTRL_DIRMODE n), (s.reg (R.ORYn_IN n)).toNat, s.oNpos n, s.oMiss n,
    (s.reg (R.ORYn_LINES n)).toNat, s.rget (F.ORYn_CTRL_EN n)]

/-- Angles move by a change of REF or `ORY_ZERO` (R180): by the difference of the reported angles in half a cycle, which the cycle count
and the history follow. -/
def State.oRefMoved (s old : State) (n : Fin 4) : State :=
  let o := s.ory[n]
  if o.sync = .rel ∨ o.sync = .full then
    let raw := s.oAngle n o.pos o.phi
    let was := old.oZero n (old.oBase n o.cyc o.pos o.phi)
    let d := halfRange ((s.oZero n raw : Int) - was) (2 ^ 24)
    let zro : Int := (s.calUser (0xD5 + 8 * n.val)).toNat % 2 ^ 24
    let base := (((was : Int) + d - zro) % (2 ^ 32 : Nat)).toNat
    let move : Int := (base : Int) - old.oBase n o.cyc o.pos o.phi
    let before := old.oLast n
    let zmove : Int := (old.calUser (0xD5 + 8 * n.val)).toNat % 2 ^ 24 - zro
    let s1 := (s.oShowPart n (fun v => v.shiftHist zmove)).modOry n (fun o =>
      { o.shiftHist move with cyc := (base + 2 ^ 32 - raw) / 2 ^ 24 % 256, suspect := false })
    ((((s1.rsat (F.ORYn_ERRCNT_RESYNC n) 1).evt (F.ORYn_EVT_RESYNC_S n))).emitFl 0x0D (oSrc n) s1.now (s1.oDirFlag n) (iword d)
      (word (65536 * 6)) (word (s1.oLast n)) (word before)).oBroadcast n (s.spine.tick + 20) true
  else s

/-- An Orrery after a strobe (R180). In IDLE it stays off (R354). -/
def State.oryStrobe (s old : State) (n : Fin 4) : State :=
  let en := s.ron (F.ORYn_CTRL_EN n)
  if s.rget F.PW_STAT_STATE = 2 then s
  else if old.ron (F.ORYn_CTRL_EN n) ∧ ¬ en then s.oOff n
  else if ¬ en then s
  else if s.oShape n ≠ old.oShape n then s.oRestart n 2
  else if s.rget (F.ORYn_REF_REF n) ≠ old.rget (F.ORYn_REF_REF n) ∨
      s.calUser (0xD5 + 8 * n.val) ≠ old.calUser (0xD5 + 8 * n.val) then s.oRefMoved old n
  else s

/-- Channels whose delay words a strobe has changed adopt them (R49). -/
def State.calStrobe (s old : State) : State :=
  let s1 := (List.finRange 96).foldl (fun (a : State) (c : Fin 96) =>
    if old.outTrc c = s.outTrc c then a else a.cmpRetime c (old.outTrc c)) s
  (List.range 0xF8).foldl (fun (a : State) q => if old.calUser q = s.calUser q then a else a.calSaturate q) s1

/-- What a strobe's values for an Orrery meet first (R180, R182): a transition that waits is decoded, and a tooth that waits for its pulse width
keeps the values of its tick. Mark: DEDUCED, log entry 92; DEDUCED, log entry 111. -/
def State.oBeforeStrobe (s : State) (n : Fin 4) : State :=
  let rs := s.ap.regs.filter (fun e => decide (R.ORYn_CTRL n ≤ e.1 ∧ e.1 < R.ORYn_CTRL n + 0x1000))
  let ws := s.ap.words.filter (fun e => decide (0xD0 + 8 * n.val ≤ e.1 ∧ e.1 < 0xD8 + 8 * n.val))
  if rs = [] ∧ ws = [] then s else (s.oQuadSettle n).oKeepOld n rs ws

/-- The values that a strobe has left for the end of its tick become active (R180, R200, R202, R348). -/
def State.activateHeld (s : State) : State :=
  if s.ap.regs = [] ∧ s.ap.words = [] then s
  else
    let s0 := (List.finRange 4).foldl (fun (x : State) (n : Fin 4) => x.oBeforeStrobe n) s
    let a := s.ap.regs.foldl (fun (x : State) e => x.setReg e.1 (stMerge e.1 (x.reg e.1) e.2)) s0
    let a1 := { a with calU := s.ap.words.foldl (fun t e => tblSet calUDefault t e.1 e.2) a.calU, ap := { a.ap with regs := [], words := [] } }
    let a2 := (List.finRange 4).foldl (fun (x : State) (n : Fin 4) => x.oryStrobe s0 n) a1
    let a3 := s.ap.words.foldl (fun (x : State) e => if s.calUser e.1 = x.calUser e.1 then x else x.calSaturate e.1) a2
    (List.finRange 6).foldl (fun (x : State) (b : Fin 6) => x.sbufSpace b) a3

/-- A value that a strobe has left for the end of its tick differs from the active one. -/
def State.heldDiffers (s : State) : Bool :=
  s.ap.regs.any (fun e => stMerge e.1 (s.reg e.1) e.2 != s.reg e.1) || s.ap.words.any (fun e => s.calUser e.1 != e.2)

/-- A strobe of a mask of groups in the present tick (R312): all blocks change together, then the releases and wakes follow. The
second component is the groups that held staged values. -/
def State.strobe (s : State) (m : Nat) : State × Nat :=
  let incl := s.dirty &&& m
  let a := (s.activate m).activateCal m
  let changed := decide (a.regs ≠ s.regs ∨ a.calU ≠ s.calU) || (a.ap != s.ap && a.heldDiffers)
  let a1 := if changed then a.cfgChanged else a
  let a3 := a1.calStrobe s
  let a4 := (List.finRange 96).foldl (fun (x : State) (c : Fin 96) =>
    if nbit m (s.rget (F.CHc_AG_AG c)) then x.chStrobe s c else x) a3
  let a5 := (List.range 8).foldl (fun (x : State) g => if nbit m g then x.spnStrobe g else x) a4
  (a5, incl)

/-- What every strobe leaves in the apply block: `AP_LAST`, the count of strobe ticks, the event bit (R312, R314). -/
def State.strobeNote (s : State) (m incl : Nat) : State :=
  let same := s.ap.lastTick = some s.spine.tick
  let g := if same then s.rget F.AP_LAST_INFO_GROUPS ||| m else m
  let i := if same then s.rget F.AP_LAST_INFO_INCL ||| incl else incl
  let s1 := ((s.setReg R.AP_LAST_LO (word s.nowNs)).setReg R.AP_LAST_HI (word (s.nowNs / 2 ^ 32))).setReg R.AP_LAST_INFO (word (g + 256 * i))
  let s2 := if same then s1 else s1.rwrap F.AP_CNT_STROBES 1
  ({ s2 with ap := { s2.ap with lastTick := some s.spine.tick } }).evt F.AP_EVT_STROBE_S

/-- Origins of APPLY_DONE (R316). -/
def originApply : Nat := 0
def originHostAt : Nat := 1
def originEwerlink : Nat := 2
def originImage : Nat := 3

/-- APPLY_DONE of a request that strobes now: an APPLY or an image's APPLY section (R313, R316). -/
def State.applyDone (s : State) (m incl origin path : Nat) : State :=
  s.emit 0x29 104 s.now 0 (word (m + 256 * (incl &&& m) + 2 ^ 18 * origin + 2 ^ 20 * path)) 0 (word (tNs s.now)) 0

/-- An image's APPLY section (R337): the machine does not run yet, and every block takes its values at once. -/
def State.applyNow (s : State) (m origin path : Nat) : State :=
  let (s1, incl) := s.strobe m
  (s1.activateHeld.strobeNote m incl).applyDone m incl origin path

/-! ### Pending APPLY_AT entries (R314) -/

def State.apValid (s : State) (i : Nat) : Bool := s.ron (F.AP_PENDi_INFO_VALID i)

/-- Pending entries: `AP_STAT.NPEND`. -/
def State.apCount (s : State) : Nat := ((List.range 8).filter (fun i => s.apValid i)).length

def State.apFree (s : State) (i : Nat) : State :=
  { ((((s.setReg (R.AP_PENDi_LO i) 0).setReg (R.AP_PENDi_HI i) 0).setReg (R.AP_PENDi_INFO i) 0).setReg (R.AP_PENDi_BSEQ i) 0) with
    ap := { s.ap with late := s.ap.late &&& ~~~(BitVec.ofNat 8 (2 ^ i)), passed := s.ap.passed &&& ~~~(BitVec.ofNat 8 (2 ^ i)) } }

/-- Place an entry, or refuse it (R314, R316). `origin` is 0 PCIe, 1 SPI, 2 Ewerlink. The Boolean says whether it was placed. -/
def State.apPlace (s : State) (t m origin src bseq : Nat) : State × Bool :=
  let range := decide ((2 ^ 31 : Nat) * 64 + s.now ≤ t * 64)
  match (List.range 8).find? (fun i => !s.apValid i), range with
  | some i, false =>
    let s1 := (((s.setReg (R.AP_PENDi_LO i) (word t)).setReg (R.AP_PENDi_HI i) (word (t / 2 ^ 32))).setReg (R.AP_PENDi_INFO i)
      (word (m + 256 * origin + 1024 + 65536 * src))).setReg (R.AP_PENDi_BSEQ i) (word bseq)
    (if t * 64 ≤ s.now then { s1 with ap := { s1.ap with late := s1.ap.late ||| BitVec.ofNat 8 (2 ^ i) } } else s1, true)
  | _, _ =>
    let s1 := (s.evt (if range then F.AP_EVT_RANGE_S else F.AP_EVT_FULL_S)).rsat F.AP_CNT_REFUSED 1
    let org := if origin = 2 then originEwerlink else originHostAt
    (s1.emit 0x29 104 s1.now 0
      (word (m + 65536 + 131072 * b2n range + 2 ^ 18 * org + 2 ^ 20 * (if origin = 1 then 1 else 0))) 0 (word t)
      (word (if origin = 2 then src + 65536 * bseq else 0)), false)

/-- Entry i has been reached, or was late when it was placed (R314). -/
def State.apDue (s : State) (i : Nat) : Bool := s.apValid i && (nbit s.ap.late.toNat i || decide (s.apT i ≤ s.nowNs))

/-- Entry i has been passed by a positive step (R314). -/
def State.apPassedBit (s : State) (i : Nat) : Bool := s.apValid i && nbit s.ap.passed.toNat i

/-- APPLY_DONE of an entry that strobes now, as it stood before it was freed (R316). -/
def State.apDone (s old : State) (i incl : Nat) : State :=
  let g := old.rget (F.AP_PENDi_INFO_GROUPS i)
  let origin := old.rget (F.AP_PENDi_INFO_ORIGIN i)
  let t := s.now
  let lag : Int := (t : Int) - old.apT i * 64
  let passed := nbit old.ap.passed.toNat i
  let late := nbit old.ap.late.toNat i || (passed && decide (0 < lag))
  let s1 := if late then s.evt F.AP_EVT_LATE_S else s
  s1.emit 0x29 104 t (flLate * b2n late + flStep * b2n passed + flTrunc * b2n (late && decide (2 ^ 38 ≤ lag)))
    (word (g + 256 * (incl &&& g) + 2 ^ 18 * (if origin = 2 then originEwerlink else originHostAt) + 2 ^ 20 * (if origin = 1 then 1 else 0)))
    (if late then word (min (lag.toNat / 64) (2 ^ 32 - 1)) else 0) (old.reg (R.AP_PENDi_LO i))
    (if origin = 2 then word (old.rget (F.AP_PENDi_INFO_SRC i) + 65536 * old.rget (F.AP_PENDi_BSEQ_BSEQ i)) else 0)

/-- The groups of some entries. -/
def State.apGroups (s : State) (es : List Nat) : Nat := es.foldl (fun (a : Nat) i => a ||| s.rget (F.AP_PENDi_INFO_GROUPS i)) 0

/-- Pending entries strobe together, with the groups of some requests: one strobe, and an APPLY_DONE for each of them (R312, R314, R316,
R318). -/
def State.apStrobe (s : State) (extra : Nat) (reqs : List (Nat × Nat)) (es : List Nat) : State :=
  let m := (reqs.foldl (fun (a : Nat) q => a ||| q.1) extra) ||| s.apGroups es
  let freed := es.foldl (fun (a : State) i => a.apFree i) s
  if m = 0 then freed
  else
    let (s1, incl) := freed.strobe m
    let s2 := reqs.foldl (fun (a : State) q => a.applyDone q.1 incl originApply q.2) (s1.strobeNote m incl)
    es.foldl (fun (a : State) i => a.apDone s i incl) s2

/-- The requests that wait for the next tick: each APPLY's mask and path, and the masks of the ABORTs behind them. -/
def State.apApplies (s : State) : List (Nat × Nat) := s.ap.reqs.filterMap (fun r => match r with | .apply m p => some (m, p) | .abort _ => none)
def State.apAborts (s : State) : List Nat := s.ap.reqs.filterMap (fun r => match r with | .abort m => some m | .apply _ _ => none)

/-- `AP_CANCEL` (R315). -/
def State.apCancel (s : State) (m : Nat) : State :=
  (List.range 8).foldl (fun (a : State) i =>
    if a.apValid i then
      let g := a.rget (F.AP_PENDi_INFO_GROUPS i) &&& (255 - m % 256)
      if g = 0 then a.apFree i else a.rput (F.AP_PENDi_INFO_GROUPS i) g
    else a) s

/-- Staged values return to the active ones (R315). -/
def State.apDrop (s : State) (m : Nat) : State :=
  { s with
    staged := s.staged.filter (fun e => !nbit m (s.groupOf e.1))
    calS := s.calS.filter (fun e => !nbit m (s.calGroup e.1)) }

/-- `AP_ABORT` (R315): behind an APPLY that still waits for its tick, it takes effect after that strobe. -/
def State.apAbort (s : State) (m : Nat) : State :=
  if s.ap.reqs = [] then s.apDrop m else { s with ap := { s.ap with reqs := s.ap.reqs ++ [.abort m] } }

/-- `AP_APPLY` (R313): the groups strobe in the first tick after the write. -/
def State.apRequest (s : State) (m path : Nat) : State :=
  if m = 0 then s else { s with ap := { s.ap with reqs := s.ap.reqs ++ [.apply m path] } }

/-- Entries that a positive step has passed strobe in the step tick (R314); a strobe can release a command that steps again. -/
def State.apPassed : Nat → State → State
  | 0, s => s
  | k + 1, s =>
    let es := (List.range 8).filter (fun i => s.apPassedBit i)
    if es = [] then s else State.apPassed k (s.apStrobe 0 [] es)

/-- What follows in the present tick for the entries that something has passed: `old` is the state before it. Mark: DESIGN CHOICE, log entry 39. -/
def State.apFollow (s old : State) : State := if s.ap.passed = old.ap.passed then s else State.apPassed 8 s

/-- What the apply block does at the start of a tick: the requests, the entries that the spine has reached and the groups of `extra` strobe
together; the entries that a command so released passes, and the ABORTs, follow (R312 to R315, R318). -/
def State.apTick (s : State) (extra : Nat) : State :=
  let es := (List.range 8).filter (fun i => s.apDue i)
  let s1 := (({ s with ap := { s.ap with reqs := [] } }).apStrobe extra s.apApplies es).apFollow s
  s.apAborts.foldl (fun (a : State) m => a.apDrop m) s1

/-- A FENCE (R20, R317): commands take effect in the order in which they come, so it has nothing to wait for; it is counted. -/
def State.apFence (s : State) (p : Path) : State := s.modPath p (fun q => { q with fences := q.fences + 1 })

/-! ### Rows -/

/-- `AP_APPLY` (R313). -/
def execApApply (p : Path) (m : BitVec 8) (s : State) : Host.Outcome State Fault Refusal :=
  s.hostAct p R.AP_APPLY (fun s => s.apRequest m.toNat (pathBit p))

/-- `AP_AT_CMD` (R314): at the time that the path's `AP_AT_HI` and `AP_AT_LO` hold. -/
def execApAtCmd (p : Path) (m : BitVec 8) (s : State) : Host.Outcome State Fault Refusal :=
  s.hostAct p R.AP_AT_CMD (fun s =>
    if m = 0 then s
    else (s.apPlace ((s.heldWord p R.AP_AT_LO).toNat + 2 ^ 32 * (s.heldWord p R.AP_AT_HI).toNat) m.toNat (pathBit p) 0 0).1)

/-- `AP_CANCEL` (R315). -/
def execApCancel (p : Path) (m : BitVec 8) (s : State) : Host.Outcome State Fault Refusal :=
  s.hostAct p R.AP_CANCEL (fun s => s.apCancel m.toNat)

/-- `AP_ABORT` (R315). -/
def execApAbort (p : Path) (m : BitVec 8) (s : State) : Host.Outcome State Fault Refusal :=
  s.hostAct p R.AP_ABORT (fun s => s.apAbort m.toNat)

/-- `AP_FENCE` (R20, R317). -/
def execApFence (p : Path) (s : State) : Host.Outcome State Fault Refusal := s.hostAct p R.AP_FENCE (fun s => s.apFence p)

/-- `AP_FENCE_READ` (R317). -/
def execApFenceRead (p : Path) (s : State) : Host.Outcome State Fault Refusal :=
  s.hostRead (fun s => s.answer p (s.path p).fences)

end Sys2Proof.Machine
end

