-- ==== Sys2Proof/Machine/Bytes.lean ====
section
/-!
DEFINITION. Values as bytes, least significant first (R3), and the CRC-32C of the device (R324).
-/
namespace Sys2Proof.Machine
open Sys2Proof

/-! ### Little-endian values (R3) -/

/-- The n bytes of a value. -/
def leBytes : Nat → Nat → List Byte
  | 0, _ => []
  | n + 1, v => BitVec.ofNat 8 v :: leBytes n (v / 256)

/-- The value of bytes. -/
def leVal : List Byte → Nat
  | [] => 0
  | b :: bs => b.toNat + 256 * leVal bs

/-- The value of the n bytes at an offset; what lies behind the end counts 0. -/
def leAt (bs : List Byte) (i n : Nat) : Nat := leVal ((bs.drop i).take n)

/-! ### CRC-32C (R324) -/

/-- One bit of the reflected Castagnoli division. -/
def crcBit (r : Nat) : Nat := if r % 2 = 1 then (r / 2) ^^^ 0x82F63B78 else r / 2

/-- One byte. -/
def crcByte (r b : Nat) : Nat := crcBit (crcBit (crcBit (crcBit (crcBit (crcBit (crcBit (crcBit (r ^^^ b))))))))

/-- n bytes of a value, least significant first. -/
def crcBytes (r : Nat) : Nat → Nat → Nat
  | 0, _ => r
  | n + 1, v => crcBytes (crcByte r (v % 256)) n (v / 256)

/-- The CRC of a list of words. -/
def crcWords (r : Nat) (ws : List Nat) : Nat := ws.foldl (fun a w => crcBytes a 4 w) r

/-- Initial value, and the final XOR. -/
def crcInit : Nat := 0xFFFFFFFF
def crcFinal (r : Nat) : Word := word (r ^^^ 0xFFFFFFFF)

/-- The CRC-32C of bytes. -/
def crcOf (bs : List Byte) : Nat := (crcFinal (bs.foldl (fun r b => crcByte r b.toNat) crcInit)).toNat

end Sys2Proof.Machine
end

