-- ==== Sys2Proof/Machine/Frame.lean ====
section
/-!
DEFINITION. Ewerlink frames as bytes on the line (R264, R265), their line times, and the beacon times of a port (R267).
-/
namespace Sys2Proof.Machine
open Sys2Proof

/-! ### Layout (R264, R265) -/

/-- TYPE of an untimed frame. -/
def bodyType : ElBody → Nat
  | .join _ _ => 4
  | .joinAck _ _ _ => 5
  | .leave _ => 6
  | .applyAt _ _ _ => 7
  | .doorbell _ _ => 8
  | .mailbox _ _ => 9
  | .delivery _ _ _ => 10

/-- Payload of an untimed frame. -/
def bodyBytes : ElBody → List Byte
  | .join id uid => leBytes 2 id ++ leBytes 8 uid
  | .joinAck id conflict uid => leBytes 2 id ++ leBytes 1 (b2n conflict) ++ leBytes 8 uid
  | .leave ids => leBytes 1 ids.length ++ leBytes 1 0 ++ ids.flatMap (fun i => leBytes 2 i)
  | .applyAt t mask bseq => leBytes 8 t ++ [mask] ++ leBytes 2 bseq
  | .doorbell n mid => leBytes 2 n ++ leBytes 1 mid
  | .mailbox mid data => leBytes 1 data.length ++ leBytes 1 mid ++ data
  | .delivery mid type refused => leBytes 1 mid ++ leBytes 1 type ++ leBytes 1 (b2n refused)

/-- A spine time in subs as ns and sub: 9 bytes. -/
def timeBytes (t : Nat) : List Byte := leBytes 8 (t / 64) ++ leBytes 1 (t % 64)

/-- Payload of a BEACON. -/
def bcnBytes (b : ElBcn) : List Byte :=
  timeBytes b.t1 ++ leBytes 1 b.prio ++ leBytes 2 b.rootId ++ leBytes 8 b.rootUid ++ leBytes 1 b.depth ++ leBytes 1 0 ++ leBytes 2 b.rseq ++
    leBytes 8 b.uid

/-- The header: VER 1 and TYPE, flags, SRC and HOPS, DST. -/
def headBytes (type flags src hops dst : Nat) : List Byte :=
  leBytes 1 (type + 16) ++ leBytes 1 flags ++ leBytes 2 (src + 1024 * hops) ++ leBytes 2 dst

/-- Header and payload of a frame; `src` is the node that sends one that carries no source of its own. -/
def frameBody (src : Nat) : ElOut → List Byte
  | .nothing => []
  | .beacon b => headBytes 1 (4 * b2n b.qual + 8 * b2n b.up) b.src 0 0 ++ bcnBytes b
  | .delayReq t3 num => headBytes 2 0 src 0 0 ++ (timeBytes t3 ++ leBytes 1 num)
  | .delayResp t4 num => headBytes 3 0 src 0 0 ++ (timeBytes t4 ++ leBytes 1 num)
  | .untimed m =>
    headBytes (bodyType m.body) (b2n (decide (bodyType m.body = 7)) + 2 * b2n m.conf) m.src m.hops m.dst ++ bodyBytes m.body

/-- The bytes of a frame between its start symbol and EOF: the CRC covers header and payload. Mark: DEDUCED, log entry 98. -/
def frameWire (src : Nat) (o : ElOut) : List Byte := frameBody src o ++ leBytes 4 (crcOf (frameBody src o))

/-- The time in the 9 bytes at an offset, in subs. -/
def timeAt (x : List Byte) (i : Nat) : Nat := leAt x i 8 * 64 + leAt x (i + 8) 1 % 64

/-- The untimed frame of a type with a payload, if the length agrees with the type. -/
def bodyFrom (type : Nat) (x : List Byte) : Option ElBody :=
  match type with
  | 4 => if x.length = 10 then some (.join (leAt x 0 2 % 1024) (leAt x 2 8)) else none
  | 5 => if x.length = 11 then some (.joinAck (leAt x 0 2 % 1024) (decide (leAt x 2 1 = 1)) (leAt x 3 8)) else none
  | 6 =>
    let n := leAt x 0 1
    if 1 ≤ n ∧ n ≤ 16 ∧ x.length = 2 + 2 * n then some (.leave ((List.range n).map (fun i => leAt x (2 + 2 * i) 2 % 1024))) else none
  | 7 => if x.length = 11 then some (.applyAt (leAt x 0 8) (BitVec.ofNat 8 (leAt x 8 1)) (leAt x 9 2)) else none
  | 8 => if x.length = 3 then some (.doorbell (leAt x 0 2 % 1024) (leAt x 2 1)) else none
  | 9 =>
    let n := leAt x 0 1
    if 1 ≤ n ∧ n ≤ 32 ∧ x.length = 2 + n then some (.mailbox (leAt x 1 1) (x.drop 2)) else none
  | 10 => if x.length = 3 then some (.delivery (leAt x 0 1) (leAt x 1 1) (decide (leAt x 2 1 = 1))) else none
  | _ => none

/-- What bytes between a start symbol and EOF are: nothing, where CRC, VER, TYPE or length are wrong (R265). Reserved bits, and BCAST, are
not looked at. Mark: DEDUCED, log entry 98. -/
def frameFrom (bs : List Byte) : Option ElOut :=
  let y := bs.take (bs.length - 4)
  let x := y.drop 6
  let fl := leAt y 1 1
  let sh := leAt y 2 2
  if bs.length < 10 ∨ leAt bs (bs.length - 4) 4 ≠ crcOf y ∨ leAt y 0 1 / 16 ≠ 1 then none
  else
    match leAt y 0 1 % 16 with
    | 1 =>
      if x.length = 32 then
        some (.beacon ⟨timeAt x 0, leAt x 9 1, leAt x 10 2 % 1024, leAt x 12 8, leAt x 20 1 % 32, leAt x 22 2, leAt x 24 8, sh % 1024,
          nbit fl 2, nbit fl 3⟩)
      else none
    | 2 => if x.length = 10 then some (.delayReq (timeAt x 0) (leAt x 9 1)) else none
    | 3 => if x.length = 10 then some (.delayResp (timeAt x 0) (leAt x 9 1)) else none
    | k => (bodyFrom k x).map (fun b => .untimed ⟨sh % 1024, sh / 1024 % 32, leAt y 4 2 % 1024, nbit fl 1, b⟩)

/-- A frame whose length agrees with its type. -/
def frameSized : ElOut → Bool
  | .untimed m =>
    match m.body with
    | .leave ids => decide (1 ≤ ids.length ∧ ids.length ≤ 16)
    | .mailbox _ data => decide (1 ≤ data.length ∧ data.length ≤ 32)
    | _ => true
  | .nothing => false
  | _ => true

/-- The frame that arrives: the row's own, unless the line has changed its bytes (R265). -/
def frameGot (f : FrameHead) (o : ElOut) : Option ElOut :=
  match f.wire with
  | some bs => frameFrom bs
  | none => if frameSized o then some o else none

/-! ### Line times (R265, R266) -/

/-- The symbols of an untimed frame: start symbol, header, payload, CRC and EOF. -/
def bodySymbols : ElBody → Nat
  | .applyAt _ _ _ => 23
  | .join _ _ => 22
  | .joinAck _ _ _ => 23
  | .leave ids => 14 + 2 * ids.length
  | .doorbell _ _ => 15
  | .mailbox _ d => 14 + d.length
  | .delivery _ _ _ => 15

/-- A symbol takes 20 ns, which are 20 spine ticks. -/
def symbolTicks : Nat := 20

/-- The symbols of a BEACON, and those of a DELAY_REQ or DELAY_RESP. -/
def bcnSymbols : Nat := 44
def reqSymbols : Nat := 22

/-! ### Beacon times (R267) -/

/-- 1 ms, in subs. -/
def bcnPeriod : Nat := 64000000

/-- The first beacon time of a port, in subs: 2,000·p ns. -/
def bcnFirst (p : Nat) : Nat := 128000 * p

/-- How many beacon times of a port, k × 1,000,000 + 2,000·p ns, lie below a spine time in subs. -/
def bcnBelow (p t : Nat) : Nat := (t - bcnFirst p + (bcnPeriod - 1)) / bcnPeriod

/-- The root counts in RSEQ each of its beacon times up to the end of the present tick, the ones that a hold or a step leaves unsent
with the others (R267, R288). Mark: DEDUCED, log entry 98. -/
def State.rseqStep (s : State) : State :=
  if s.ron F.EL_STAT_ISROOT then
    let t := max s.el.counted (s.tAhead 1)
    let live := (List.range 4).filter (fun p => decide (2 ≤ s.rget (F.ELp_STAT_STATE p)))
    let n := (live.map (fun p => bcnBelow p t - bcnBelow p s.el.counted)).sum
    { s with el := { s.el with counted := t, rseq := (s.el.rseq + n) % 65536 } }
  else s

end Sys2Proof.Machine
end

