-- ==== Sys2Proof/Machine/EventCtl.lean ====
section
/-!
DEFINITION. The event controller's commands: claims and completions, doorbells, writes of its per-source bits, the latches, and what
the return of the PCIe function to D0 delivers (R246 to R256). Requests, assignment and delivery are in Ops.
-/
namespace Sys2Proof.Machine
open Sys2Proof

/-- The sources 32w to 32w + 31. -/
def wordSources (w : Nat) : List Nat := (List.range 32).map (fun i => 32 * w + i)

/-- Assign every source that waits for a target, in source order (R248). -/
def State.ecAssignAll (s : State) : State := (s.ec.srcs.map Prod.fst).foldl (fun s n => s.ecAssign n) s

/-- End a source's assignment (R252). -/
def State.ecWithdraw (s : State) (n : Nat) : State := s.setEcSrc n { s.ecSrc n with asg := none }

/-- The sources assigned to a target. -/
def State.ecAssigned (s : State) (t : Nat) : List Nat :=
  (s.ec.srcs.filter (fun e => decide (e.2.asg = some t))).map Prod.fst

/-- A claim through a target (R250): the state after it, and the number that the read returns. -/
def State.ecClaim (s : State) (t : Nat) : State × Nat :=
  match s.ecAssigned t with
  | n :: _ => (s.setEcSrc n { s.ecSrc n with act := true, pend := false, asg := none, claimed := t }, n)
  | [] => ((s.rsat F.EC_SPUR_CNT 1).ecEvt F.EC_EVT_SPUR_S, 1023)

/-- Let a level source follow its level at once; an edge source stays as it is (R247). -/
def State.ecFollow (s : State) (n : Nat) : State := if 128 ≤ n ∧ n < 192 then s.ecLevel (n - 128) else s

/-- A completion of a source through a target (R251). -/
def State.ecComplete (s : State) (t n : Nat) : State :=
  if n = 1023 then s
  else if (s.ecSrc n).act ∧ (s.ecSrc n).claimed = t then (s.setEcSrc n { s.ecSrc n with act := false }).ecFollow n
  else (s.rsat F.EC_STRAY_COMPLETE_STRAY 1).ecEvt F.EC_EVT_STRAY_S

/-- A doorbell (R253): a request of its source, and EXT in the thread that its target word names. -/
def State.ecDoorbell (s : State) (n : Nat) : State :=
  if 512 ≤ n ∧ n < 1023 then
    let w := (s.ecSrc n).tgt
    let s1 := if wfld w 8 1 = 1 then s.wake ⟨wfld w 13 3, Nat.mod_lt _ (by decide)⟩ ⟨wfld w 9 4, Nat.mod_lt _ (by decide)⟩ 7 else s
    s1.ecEdge n
  else s.ecEvt F.EC_EVT_DB_ERR_S

/-- A host's write of one PEND bit (R247, R252): a source in service ignores it; a level source tracks its level again. -/
def State.ecPendBit (s : State) (n : Nat) (v : Bool) : State :=
  if ¬ ecExists n ∨ (s.ecSrc n).act then s
  else
    let x := s.ecSrc n
    ((s.setEcSrc n { x with pend := v, asg := if v then x.asg else none }).ecFollow n).ecAssign n

/-- A host write of `EC_PENDw`. -/
def State.ecPendWrite (s : State) (w : Nat) (v : Word) : State :=
  (wordSources w).foldl (fun s n => s.ecPendBit n (nbit v.toNat (n % 32))) s

/-- Bits of an `EC_` bit array that belong to sources that can request (R246). -/
def ecWordMask (w : Nat) : Nat := (List.range 32).foldl (fun a i => if ecExists (32 * w + i) then a + 2 ^ i else a) 0

/-- A host write of `EC_ENw` (R252): cleared bits withdraw, set bits assign. -/
def State.ecEnWrite (s : State) (w : Nat) (v : Word) : State :=
  let s1 := s.setReg (R.EC_ENw w) (word (v.toNat &&& ecWordMask w))
  (wordSources w).foldl (fun s n => if s.ecEn n then s.ecAssign n else s.ecWithdraw n) s1

/-- A source's assignment is made again if its target no longer stands (R248). -/
def State.ecReassign (s : State) (n : Nat) : State :=
  let x := s.ecSrc n
  match x.asg with
  | some t =>
    if nbit (wfld x.tgt 0 8) t ∧ s.ron (F.EC_TCFGt_EN t) then s else (s.ecWithdraw n).ecAssign n
  | none => s.ecAssign n

/-- A write of a source's target word (R248, R253): only doorbells hold the wake fields. -/
def State.ecTgtWrite (s : State) (n : Nat) (v : Word) : State :=
  if ecExists n then
    let w := if 512 ≤ n then v.toNat % 65536 else v.toNat % 256
    let s1 := (s.setEcSrc n { s.ecSrc n with tgt := word w }).ecReassign n
    if word w = (s.ecSrc n).tgt then s1 else s1.cfgChanged
  else s

/-- A write of a source's route (R235): sources from 128 on have none. -/
def State.ecRouteWrite (s : State) (n : Nat) (v : Word) : State :=
  if ecExists n ∧ n < 128 then
    let w := word (v.toNat &&& 0x7F7F)
    let s1 := s.setEcSrc n { s.ecSrc n with route := w }
    if w = (s.ecSrc n).route then s1 else s1.cfgChanged
  else s

/-- A write of `EC_TCFGt` (R248): KIND 3, and PIN for targets 4 to 7, are reserved encodings, which keep the field. -/
def State.ecTcfgWrite (s : State) (t : Nat) (v : Word) : State :=
  let k := wfld v 1 2
  let k1 := if k = 3 ∨ (k = 1 ∧ 4 ≤ t) then s.rget (F.EC_TCFGt_KIND t) else k
  let s1 := s.setReg (R.EC_TCFGt t) (word (wfld v 0 1 + 2 * k1 + 8 * wfld v 3 1))
  (s1.ec.srcs.map Prod.fst).foldl (fun s n => s.ecReassign n) s1

/-- The last latch clears (R256): deferred edges in source order, levels, assignments. -/
def State.ecUnlatch (s : State) : State :=
  let ds := s.ec.deferred.insertionSort (· ≤ ·)
  let s1 := ds.foldl (fun s n => s.ecEdge n) { s with ec := { s.ec with deferred := [] } }
  ((List.range 64).foldl (fun s n => s.ecLevel n) s1).ecAssignAll

/-- A field of `EC_CTRL` after a masked write (R306). -/
def State.ecPick1 (s : State) (m : Nat) (v : Word) (i : Nat) (f : Fld) : Nat := if nbit m i then wfld v i 1 else s.rget f

/-- Give `EC_CTRL` its three bits; a latch that becomes set notes the time, and EN withdraws or assigns (R252, R256). -/
def State.ecCtrlSet (s : State) (en lp ls : Nat) : State :=
  let tp := if lp = 1 ∧ ¬ s.ron F.EC_CTRL_LATCH_P then s.now else s.ec.latchP
  let ts := if ls = 1 ∧ ¬ s.ron F.EC_CTRL_LATCH_S then s.now else s.ec.latchS
  let s1 := s.setReg R.EC_CTRL (word (en + 2 * lp + 4 * ls))
  let s2 := { s1 with ec := { s1.ec with latchP := tp, latchS := ts } }
  let s3 := if en = s.rget F.EC_CTRL_EN then s2 else s2.cfgChanged
  let s4 := if en = 0 then (s3.ec.srcs.map Prod.fst).foldl (fun s n => s.ecWithdraw n) s3 else s3.ecAssignAll
  if s.ecLatched ∧ ¬ s4.ecLatched then s4.ecUnlatch else s4

/-- A masked write of `EC_CTRL` (R256, R306): the latches, and EN unless its domain is locked. Mark: DEDUCED, log entry 60. -/
def State.ecCtrlWrite (s : State) (p : Path) (v : Word) : State :=
  let m := wfld v 16 16
  if nbit m 0 = true ∧ s.locked 5 = true then
    (s.lockViolation p R.EC_CTRL v (2 ^ 5) false).ecCtrlSet (s.rget F.EC_CTRL_EN)
      (s.ecPick1 m v 1 F.EC_CTRL_LATCH_P) (s.ecPick1 m v 2 F.EC_CTRL_LATCH_S)
  else s.ecCtrlSet (s.ecPick1 m v 0 F.EC_CTRL_EN) (s.ecPick1 m v 1 F.EC_CTRL_LATCH_P) (s.ecPick1 m v 2 F.EC_CTRL_LATCH_S)

/-- A latch held for 100 µs clears itself (R256). -/
def State.latchTimeout (s : State) : State :=
  let out := fun (f : Fld) (t : Nat) => s.ron f && decide (t + 6400000 ≤ s.now)
  let p := out F.EC_CTRL_LATCH_P s.ec.latchP
  let q := out F.EC_CTRL_LATCH_S s.ec.latchS
  if p ∨ q then
    let s1 := if p then s.rput F.EC_CTRL_LATCH_P 0 else s
    let s2 := (if q then s1.rput F.EC_CTRL_LATCH_S 0 else s1).ecEvt F.EC_EVT_LATCH_TO_S
    if s2.ecLatched then s2 else s2.ecUnlatch
  else s

/-- One message for each MSI-X target that has a source assigned (R254, R255). Mark: DEDUCED, log entry 60. -/
def State.ecRedeliver (s : State) : State :=
  (List.range 8).foldl (fun s t => if s.rget (F.EC_TCFGt_KIND t) = 0 ∧ s.ecAssigned t ≠ [] then s.msixSend t else s) s

/-- Messages can leave again (R254): at once, or, while the device is frozen, at the thaw (R378). Mark: DEDUCED, log entry 74. -/
def State.msixBack (s : State) : State := if s.frozen then { s with ec := { s.ec with owed := true } } else s.ecRedeliver

/-- The WAKE ball is driven (R254). -/
def State.wakeBall (s : State) : Bool :=
  s.ron F.EC_WAKE_EN &&
    ((s.ec.srcs.any (fun e => e.2.pend && s.ecEn e.1 && decide (wfld e.2.tgt 0 8 &&& s.rget F.EC_WAKE_TMASK ≠ 0))) ||
     (List.range 64).any (fun n => s.ringLevel n && s.ecEn (128 + n) &&
       decide (wfld (s.ecSrc (128 + n)).tgt 0 8 &&& s.rget F.EC_WAKE_TMASK ≠ 0)))

/-- The level of INTt (R249): true is high. -/
def State.intBall (s : State) (t : Fin 4) : Bool :=
  let shown := s.rget (F.EC_TCFGt_KIND t) = 1 && s.ron (F.EC_TCFGt_EN t) && s.ron F.EC_CTRL_EN && !(s.ecAssigned t).isEmpty
  if s.ron (F.EC_TCFGt_POL t) then shown else !shown

/-! ### Rows -/

/-- A read of `EC_CLAIMt` (R250): while the device is frozen it claims nothing and returns 1,023 (R378). -/
def State.claimRead (s : State) (p : Path) (t : Nat) : State :=
  if s.frozen then s.answer p 1023 else let (s1, n) := s.ecClaim t; s1.answer p (word n)

/-- `EC_CLAIM` (R250). -/
def execEcClaim (p : Path) (t : Fin 8) (s : State) : Host.Outcome State Fault Refusal := s.hostRead (fun s => s.claimRead p t)

/-- `EC_COMPLETE` (R251). -/
def execEcComplete (p : Path) (t : Fin 8) (v : Word) (s : State) : Host.Outcome State Fault Refusal :=
  s.hostAct p (R.EC_COMPLETEt t) (fun s => s.ecComplete t (wfld v 0 10))

/-- `EC_DOORBELL` (R253). -/
def execEcDoorbell (p : Path) (v : Word) (s : State) : Host.Outcome State Fault Refusal :=
  s.hostAct p R.EC_DOORBELL (fun s => s.ecDoorbell (wfld v 0 10))

/-- `EC_PEND_WRITE` (R252). -/
def execEcPendWrite (p : Path) (w : Fin 32) (v : Word) (s : State) : Host.Outcome State Fault Refusal :=
  s.hostAct p (R.EC_PENDw w) (fun s => s.ecPendWrite w v)

/-- `EC_EN_WRITE` (R252). -/
def execEcEnWrite (p : Path) (w : Fin 32) (v : Word) (s : State) : Host.Outcome State Fault Refusal :=
  s.hostAct p (R.EC_ENw w) (fun s => s.ecEnWrite w v)

/-- `EC_TGT_WRITE` (R248): of the source in the path's `EC_IDX`; a locked domain refuses it. -/
def execEcTgtWrite (p : Path) (v : Word) (s : State) : Host.Outcome State Fault Refusal :=
  s.hostAct p R.EC_TGT (fun s => s.lockedCommand p R.EC_TGT 5 v (fun s => s.ecTgtWrite (wfld (s.heldWord p R.EC_IDX) 0 10) v))

/-- `EC_CTRL_WRITE` (R256). -/
def execEcCtrlWrite (p : Path) (v : Word) (s : State) : Host.Outcome State Fault Refusal :=
  s.hostAct p R.EC_CTRL (fun s => s.ecCtrlWrite p v)

/-- `LATCH_TIMEOUT` (R256). -/
def execLatchTimeout (s : State) : Host.Outcome State Fault Refusal := s.event State.latchTimeout

/-- `PCIE_D0_RETURN` (R254). -/
def execPcieD0Return (s : State) : Host.Outcome State Fault Refusal :=
  s.always (fun s => if s.powered ∧ s.fn.d3 then ({ s with fn := { s.fn with d3 := false } }).msixBack else s)

end Sys2Proof.Machine
end

