-- ==== Sys2Proof/Machine/Ring.lean ====
section
/-!
DEFINITION. Rings (R232 to R245): the record writer, the indices, enabling, errors, the command-ring fetcher, and the ring-level
commands.
-/
namespace Sys2Proof.Machine
open Sys2Proof

/-- The device can reach host memory (R299). Mark: DESIGN CHOICE, log entry 49. -/
def State.hostOpen (s : State) : Bool := s.fn.linkUp && s.fn.bme && !s.fn.d3

/-- The eight words of a record as written now. -/
def State.recWords (s : State) (r : Rec) : List Word :=
  recHead r.src r.type r.seq r.t s.nodeId r.flags ++ [r.w4, r.w5, r.w6, r.w7]

/-! ### Ring memory -/

def State.ringOnChip (s : State) (n : Nat) : Bool := s.ron (F.RINGn_CFG_LOC n)

/-- The byte address of entry i of a ring (R236). -/
def State.ringAddr (s : State) (n i : Nat) : Nat :=
  let at' := (s.reg (R.RINGn_BASE_LO n)).toNat + 32 * (i % s.ringSize n)
  if s.ringOnChip n then at' else at' + 2 ^ 32 * (s.reg (R.RINGn_BASE_HI n)).toNat

/-- Write words to a ring's memory. -/
def State.ringStore (s : State) (n i : Nat) (ws : List Word) : State :=
  if s.ringOnChip n then s.sramWr (s.ringAddr n i) ws else s.hostWr (s.ringAddr n i) ws

/-- The eight words of entry i. -/
def State.ringLoad (s : State) (n i : Nat) : Vector Word 8 :=
  Vector.ofFn (fun (k : Fin 8) => memRdW (if s.ringOnChip n then s.sram else s.host) (s.ringAddr n i + 4 * k.val))

/-- A ring that an error has stopped (R243). -/
def State.ringStopped (s : State) (n : Nat) : Bool := s.rget (F.RINGn_STAT_ERR n) = 2

/-- Write the head copy of a host-memory ring (R238). -/
def State.headCopy (s : State) (n : Nat) : State :=
  if s.ron (F.RINGn_CFG_HIDX_EN n) ∧ ¬ s.ringOnChip n then
    s.hostWr ((s.reg (R.RINGn_HADDR_LO n)).toNat + 2 ^ 32 * (s.reg (R.RINGn_HADDR_HI n)).toNat)
      [s.reg (R.RINGn_HEAD n), if s.ron (F.RINGn_CFG_DIR n) then 0 else s.reg (R.RINGn_LOSTCNT n)]
  else s

/-- `RINGn_LOSTCNT` has changed: the head copy follows, while the ring can write it (R238). -/
def State.lostCopy (s : State) (n : Nat) : State :=
  if s.eventRing n ∧ ¬ s.ringStopped n ∧ s.hostOpen then s.headCopy n else s

/-- Show an error, unless HOSTERR stands (`RINGn_STAT.ERR`). -/
def State.ringErr (s : State) (n code : Nat) : State := if s.ringStopped n then s else s.rput (F.RINGn_STAT_ERR n) code

/-- A refused configuration write (R236). -/
def State.ringCfgErr (s : State) (n : Nat) : State := (s.ringErr n 3).evt (F.RINGn_EVT_CFG_ERR_S n)

/-- The ring is full. -/
def State.ringFull (s : State) (n : Nat) : Bool := s.ringCount n = s.ringSize n

/-- Write one entry of an event ring at HEAD, then HEAD and its copy (R17). -/
def State.ringPut (s : State) (n : Fin 64) (ws : List Word) : State :=
  (((s.ringStore n (s.rget (F.RINGn_HEAD_HEAD n)) ws).rwrap (F.RINGn_HEAD_HEAD n) 1).headCopy n).ecLevel n

/-! ### Refusals (R244, R245) -/

/-- What R245 notes of a record: source, type, sequence number. -/
def noteWord : Option RecNote → Word
  | none => 0
  | some x => word (x.src + 1024 * x.type + 65536 * x.seq)

/-- A mailbox part that has been refused marks the later parts of its mailbox with TRUNC (R285). -/
def truncParts : List Rec → List Rec
  | [] => []
  | r :: rs =>
    if r.type = 0x27 then
      { r with flags := r.flags ||| flTrunc } :: (if nbit r.flags 4 then truncParts rs else rs)
    else r :: truncParts rs

/-- A ring refuses a record that was numbered for it. -/
def State.ringRefuse (s : State) (n : Fin 64) (r : Rec) : State :=
  let note : RecNote := ⟨r.src, r.type, r.seq⟩
  let s1 := ((((s.rsat (F.RINGn_LOSTCNT_CNT n) 1).rwrap (F.RINGn_REFUSED_CNT n) 1).evt (F.RINGn_EVT_LOST_S n)).modRing n (fun x =>
    { x with first := some (x.first.getD note), last := some note, firstNs := if x.first.isSome then x.firstNs else s.nowNs })).lostCopy n
  let s2 := if r.type = 0x14 then (s1.rwrap F.LH_REFUSED_REFUSED 1).evt F.LH_EVT_REFUSED_S else s1
  if r.type = 0x27 ∧ nbit r.flags 4 then { s2 with recq := truncParts s2.recq } else s2

/-- While refusals wait to be reported, the first entry that becomes free takes a LOST record (R244, R245). Mark: DEDUCED, log entry 51. -/
def State.ringLost (s : State) (n : Fin 64) : State :=
  let c := s.rget (F.RINGn_LOSTCNT_CNT n)
  if s.eventRing n ∧ ¬ s.ringStopped n ∧ ¬ s.ringFull n ∧ c ≠ 0 then
    let x := s.rings[n]
    let src := 128 + n.val
    let q := s.nextSeq src
    let fl := flLost + (if c = 2 ^ 32 - 1 then flTrunc else 0) + s.coarseFlag
    let ws := recHead src 0x01 q s.now s.nodeId fl ++ [word c, noteWord x.first, noteWord x.last, word x.firstNs]
    let s1 := (s.rput (F.RINGn_LOSTCNT_CNT n) 0).modRing n (fun x => { x with first := none, last := none, firstNs := 0 })
    ({ s1 with seqs := tblSet (fun _ => 0) s1.seqs src ((q + 1) % 65536) }).ringPut n ws
  else s

/-! ### Record space (R25, R102) -/

/-- The record writer has left its ceiling: threads that wait for record space are woken, and the channels hand over what waits in their
stages and captures (R25, R75, R102, R135). `old` is the state before. -/
def State.recRoom (s old : State) : State :=
  if old.atCeil ∧ ¬ s.atCeil then
    (List.finRange 96).foldl (fun (a : State) (c : Fin 96) => (a.stagePump c).capPump c) s.wakeWriter
  else s

/-! ### Errors (R243, R299) -/

/-- The waiting records of a ring, in order. -/
def State.ringWaiting (s : State) (n : Nat) : List Rec := s.recq.filter (fun r => decide (r.ring = n))

/-- Every record that waits for a ring is refused, which can leave the record writer room. -/
def State.ringRefuseAll (s : State) (n : Fin 64) : State :=
  ((s.ringWaiting n).foldl (fun (s : State) r => s.ringRefuse n r) { s with recq := s.recq.filter (fun r => decide (r.ring ≠ n.val)) }).recRoom s

/-- A PCIe error on a ring's access: the ring stops, and what its head index has not passed counts as refused (R243). Mark: DESIGN CHOICE, log entry 49. -/
def State.ringHosterr (s : State) (n : Fin 64) : State :=
  ((s.rput (F.RINGn_STAT_ERR n) 2).evt (F.RINGn_EVT_HOSTERR_S n)).ringRefuseAll n

/-- The rings that use host memory (R299). -/
def State.hostRings (s : State) : List (Fin 64) :=
  (List.finRange 64).filter (fun (n : Fin 64) => s.ron (F.RINGn_CFG_EN n) && !s.ringOnChip n && !s.ringStopped n)

/-! ### The record writer -/

/-- Write or refuse one record (R17, R235, R244). -/
def State.recPut (s : State) (n : Fin 64) (r : Rec) : State :=
  if ¬ s.eventRing n ∨ s.ringStopped n then s.ringRefuse n r
  else if ¬ s.ringOnChip n ∧ ¬ s.hostOpen then
    ((s.rput (F.RINGn_STAT_ERR n) 2).evt (F.RINGn_EVT_HOSTERR_S n)).ringRefuse n r
  else if s.rget (F.RINGn_LOSTCNT_CNT n) ≠ 0 ∨ s.ringFull n then s.ringRefuse n r
  else s.ringPut n (s.recWords r)

/-- The record writer takes the record that has waited longest. Mark: DESIGN CHOICE, log entry 15. -/
def State.recordTake (s : State) : State :=
  match s.recq with
  | [] => s
  | r :: rs => if h : r.ring < 64 then ({ s with recq := rs }).recPut ⟨r.ring, h⟩ r else { s with recq := rs }

/-- The record writer takes a record, and a source may follow (R25). Mark: DESIGN CHOICE, log entry 15. -/
def State.recordWrite (s : State) : State := s.recordTake.recRoom s

/-! ### Host DMA (R10) -/

/-- The record writer has a request outstanding: a record waits for a ring in host memory. -/
def State.writerAsks (s : State) : Bool := s.recq.any (fun r => s.eventRing r.ring && !s.ringOnChip r.ring && !s.ringStopped r.ring)

/-! ### Host indices and enables (R236, R237, R239) -/

/-- A host write of `RINGn_TAIL`. Mark: DEDUCED, log entry 51. -/
def State.tailWrite (s : State) (n : Fin 64) (v : Word) : State :=
  let h := s.rget (F.RINGn_HEAD_HEAD n)
  let c := (if s.ron (F.RINGn_CFG_DIR n) then v.toNat + 2 ^ 32 - h else h + 2 ^ 32 - v.toNat) % 2 ^ 32
  if c ≤ s.ringSize n then ((s.setReg (R.RINGn_TAIL n) v).ecLevel n).ringLost n
  else (s.ringErr n 1).evt (F.RINGn_EVT_IDX_ERR_S n)

/-- The general pool's regions: a KB figure rounded up to 4 KB, in bytes (R333). -/
def poolBytes (kb : Nat) : Nat := (kb + 3) / 4 * 4096

/-- Where the ring region of the general pool begins, and its size (R236, R333). -/
def State.ringPool (s : State) : Nat × Nat :=
  (0x3B2000 + (s.layout.gaf.toList.map poolBytes).sum, poolBytes s.layout.ring)

/-- The on-chip extent check of R236, for a ring configuration that would be in force. -/
def State.ringFits (s : State) (n : Nat) : Bool :=
  !s.ringOnChip n ||
    (let b := (s.reg (R.RINGn_BASE_LO n)).toNat
     let e := b + 32 * s.ringSize n
     let (p, k) := s.ringPool
     (decide (0x180000 ≤ b ∧ e ≤ 0x280000)) || decide (p ≤ b ∧ e ≤ p + k))

/-- The fields of `RINGn_CFG` except EN as a write gives them: reserved encodings keep the field (R7, R236). Mark: DEDUCED, log entry 50. -/
def State.ringCfgSet (s : State) (n : Nat) (v : Word) : State :=
  let old := s.reg (R.RINGn_CFG n)
  let size := if 12 < wfld v 3 4 then wfld old 3 4 else wfld v 3 4
  let cons := if wfld v 8 2 = 3 then wfld old 8 2 else wfld v 8 2
  s.setReg (R.RINGn_CFG n) (word (wfld old 0 1 + 2 * wfld v 1 2 + 8 * size + 128 * wfld v 7 1 + 256 * cons + 1024 * wfld v 10 1
    + 65536 * wfld v 16 6))

/-- EN changes from 0 to 1 (R237), or the extent check refuses it (R236). A head copy that cannot be written is an error of the ring (R243). Mark: DEDUCED, log entry 50. -/
def State.ringOn (s : State) (n : Fin 64) : State :=
  if s.ringFits n then
    let s1 := ((((s.rput (F.RINGn_CFG_EN n) 1).setReg (R.RINGn_HEAD n) 0).setReg (R.RINGn_TAIL n) 0).setReg (R.RINGn_LOSTCNT n) 0).rput
      (F.RINGn_STAT_ERR n) 0
    let s2 := s1.modRing n (fun x => { x with first := none, last := none, firstNs := 0 })
    if s2.ron (F.RINGn_CFG_HIDX_EN n) ∧ ¬ s2.ringOnChip n ∧ ¬ s2.hostOpen then (s2.ecLevel n).ringHosterr n
    else (s2.headCopy n).ecLevel n
  else s.ringCfgErr n

/-- EN changes from 1 to 0 (R244). Mark: DEDUCED, log entry 52. -/
def State.ringOff (s : State) (n : Fin 64) : State := ((s.rput (F.RINGn_CFG_EN n) 0).ringRefuseAll n).ecLevel n

/-- A host write of `RINGn_CFG` (R236): while EN = 1 it may only clear EN or leave it; the locked fields keep their values (R319). Mark: DEDUCED, log entry 50. -/
def State.ringCfgWrite (s : State) (p : Path) (n : Fin 64) (v : Word) : State :=
  s.cfgWrite (R.RINGn_CFG n) (fun s =>
    let old := s.reg (R.RINGn_CFG n)
    let changes := decide (wfld v 1 31 ≠ wfld old 1 31)
    if s.ron (F.RINGn_CFG_EN n) then
      let s1 := if s.locked 4 then s.lockViolation p (R.RINGn_CFG n) v (2 ^ 4) false
        else if changes then s.ringCfgErr n else s
      if nbit v.toNat 0 then s1 else s1.ringOff n
    else
      let s1 := if s.locked 4 then s.lockViolation p (R.RINGn_CFG n) v (2 ^ 4) false else s.ringCfgSet n v
      if nbit v.toNat 0 then s1.ringOn n else s1)

/-- A host write of a base or head-copy register (R236): ignored while EN = 1. `m` masks the bits that the register holds. -/
def State.ringBaseWrite (s : State) (n o : Nat) (v : Word) (m : Nat) : State :=
  if s.ron (F.RINGn_CFG_EN n) then s.ringCfgErr n else s.setReg o (word (v.toNat &&& m))

/-! ### The command-ring fetcher (R240, R243) -/

/-- A command ring that is fetched from (R227, R240, R299). -/
def State.fetchable (s : State) (n : Nat) : Bool :=
  s.ron (F.RINGn_CFG_EN n) && s.ron (F.RINGn_CFG_DIR n) && !s.ringStopped n && (s.ringOnChip n || s.hostOpen) &&
    (s.rget (F.RINGn_CFG_CONS n) != 1 || s.ron F.LH_CTRL_EN)

/-- Whether the fetcher takes entries of a ring now: in host memory, only while the record writer asks for nothing (R10). -/
def State.fetches (s : State) (n : Nat) : Bool := s.fetchable n && (s.ringOnChip n || !s.writerAsks)

/-- RING_DONE (R242), to the event ring that the ring's CPL names. -/
def State.ringDone (s : State) (n : Nat) (cseq op result : Nat) (w2 w3 : Word) : State :=
  s.emitTo (some (s.rget (F.RINGn_CFG_CPL n))) 0x02 (128 + n) s.now s.coarseFlag (word (cseq + 65536 * op + 2 ^ 22 * result)) (word n) w2 w3

/-- Entries at the front of the fetched ones that an ECC error skipped complete with result ECC (R243). -/
def State.ringSkips (s : State) (n : Fin 64) : Nat → State
  | 0 => s
  | k + 1 =>
    match s.rings[n].fetched with
    | none :: q => ((s.modRing n (fun x => { x with fetched := q })).ringDone n 0 0 9 0 0).ringSkips n k
    | _ => s

/-- What ECC finds in entry i of a batch: two masks mark the entries with an uncorrectable and with a corrected error. -/
def eccOf (bad corr : BitVec 8) (i : Nat) : Ecc := if nbit bad.toNat i then .bad else if nbit corr.toNat i then .corrected else .ok

/-- Fetch one batch of at most 8 entries (R240). `bad` and `corr` mark the entries of the batch whose on-chip words meet an
uncorrectable and a corrected ECC error (R243, R371). Mark: DESIGN CHOICE, log entry 49; DESIGN CHOICE, log entry 83. -/
def State.commandFetch (s : State) (n : Fin 64) (bad corr : BitVec 8) : State :=
  let k := min 8 (s.ringCount n)
  if s.fetches n ∧ k ≠ 0 then
    let h := s.rget (F.RINGn_HEAD_HEAD n)
    let es : List CmdWords := (List.range k).map (fun i => if s.ringOnChip n ∧ nbit bad.toNat i then none else some (s.ringLoad n (h + i)))
    let s1 := (s.rwrap (F.RINGn_HEAD_HEAD n) k).modRing n (fun x => { x with fetched := x.fetched ++ es })
    let s2 := if s.ringOnChip n then
        (List.range k).foldl (fun (t : State) i => t.eccRead (eccOf bad corr i) (s.ringAddr n (h + i)) 8) s1
      else s1
    ((s2.headCopy n).ecLevel n).ringSkips n k
  else s

/-! ### Execution of fetched commands (R22, R216, R241, R287) -/

/-- The fields of a command's word 0. -/
def cmdOp (w : Vector Word 8) : Nat := wfld w[0] 16 6
def cmdSeq (w : Vector Word 8) : Nat := wfld w[0] 0 16

/-- A Lehr command that needs host memory (R217): one that reads or writes the entry of a handle of its pool. -/
def State.lhNeedsHost (s : State) (w : Vector Word 8) : Bool :=
  !s.ron F.LH_CTRL_MODE && decide (1 ≤ cmdOp w ∧ cmdOp w ≤ 3) && decide (wfld w[1] 0 23 < 2 ^ s.rget F.LH_POOL_SZ_LOG2)

/-- A host error of the Lehr holds the front command of a ring (R228): the other rings go on. -/
def State.lhHolds (s : State) (q : List CmdWords) : Bool :=
  match q with
  | some w :: _ => s.ron F.LH_STAT_HOSTERR && s.lhNeedsHost w
  | _ => false

/-- The next ring after one, in circular order, whose consumer is the given one and that has a fetched command which no host error holds. Mark: DESIGN CHOICE, log entry 48. -/
def State.ringTurn (s : State) (cons last : Nat) : Option Nat :=
  ((List.range 64).map (fun i => (last + 1 + i) % 64)).find? (fun n =>
    s.rget (F.RINGn_CFG_CONS n) = cons &&
      (if h : n < 64 then !s.rings[n].fetched.isEmpty && !(cons == 1 && s.lhHolds s.rings[n].fetched) else false))

/-- A ring's front command may execute now: a LEHR or EWERLINK ring takes its turn (R216, R287), a disabled or stalled Lehr
executes nothing (R218, R227). Mark: DESIGN CHOICE, log entry 48. -/
def State.ringMay (s : State) (n : Nat) : Bool :=
  match s.rget (F.RINGn_CFG_CONS n) with
  | 1 => s.ron F.LH_CTRL_EN && s.lehr.stall = none && s.ringTurn 1 s.lehr.turn = some n
  | 2 => s.ringTurn 2 s.el.turn = some n
  | _ => true

/-- The front command of a ring leaves it: the consumer's turn passes, and skipped entries behind it complete. -/
def State.ringPop (s : State) (n : Fin 64) : State :=
  let s1 := s.modRing n (fun x => { x with fetched := x.fetched.tail })
  match s.rget (F.RINGn_CFG_CONS n) with
  | 1 => { s1 with lehr := { s1.lehr with turn := n } }
  | 2 => { s1 with el := { s1.el with turn := n } }
  | _ => s1

/-- The front command of a ring, if it may execute now. Mark: DESIGN CHOICE, log entry 48. -/
def State.ringFront (s : State) (n : Fin 64) : Option (Vector Word 8) :=
  match s.rings[n].fetched with
  | some w :: _ => if s.ringMay n then some w else none
  | _ => none

/-- A command is a SUMMARY to host memory, which is written through the command-ring fetcher's client (R10, R326). -/
def sumToHost (w : Vector Word 8) : Bool := cmdOp w = 0x22 && wfld w[1] 0 1 = 0

/-- The front command of a ring is a SUMMARY to host memory that the record writer's requests hold back (R10, R326). -/
def State.sumHeld (s : State) (n : Fin 64) : Bool :=
  s.writerAsks && s.hostOpen && (match s.ringFront n with | some w => sumToHost w | none => false)

/-- The command-ring fetcher has a request outstanding: a ring in host memory that is fetched from holds entries, or a summary waits to be
written to host memory (R10, R326). -/
def State.fetcherAsks (s : State) : Bool :=
  (List.range 64).any (fun n => s.fetchable n && !s.ringOnChip n && s.ringCount n != 0) || (List.finRange 64).any (fun n => s.sumHeld n)

/-- Execute the front command of a ring if its OP is one of the row's: it leaves the ring, `f` is its effect, and skipped entries
behind it complete. Mark: DESIGN CHOICE, log entry 48. -/
def State.ringExec (s : State) (n : Fin 64) (isRow : Nat → Bool) (f : State → Vector Word 8 → State) : State :=
  match s.ringFront n with
  | some w => if isRow (cmdOp w) then (f (s.ringPop n) w).ringSkips n 65536 else s
  | none => s

/-- An OP that a ring's consumer does not take, or a reserved ring-level OP (R241). The reserved OPs of a LEHR or EWERLINK ring below
0x20 belong to those consumers (R215, R287). -/
def State.ringIllegalOp (s : State) (n op : Nat) : Bool :=
  0x23 ≤ op || (op < 0x20 && s.rget (F.RINGn_CFG_CONS n) = 0) ||
    (op = 0 && s.rget (F.RINGn_CFG_CONS n) = 2)

/-! ### Rows -/

/-- `RECORD_WRITE` (R17). -/
def execRecordWrite (s : State) : Host.Outcome State Fault Refusal := s.event State.recordWrite

/-- `RING_TAIL_WRITE` (R239). -/
def execRingTailWrite (p : Path) (n : Fin 64) (v : Word) (s : State) : Host.Outcome State Fault Refusal :=
  s.hostAct p (R.RINGn_TAIL n) (fun s => s.tailWrite n v)

/-- `RING_ENABLE` (R237): a write of `RINGn_CFG` with EN = 1. -/
def execRingEnable (p : Path) (n : Fin 64) (v : Word) (s : State) : Host.Outcome State Fault Refusal :=
  s.hostAct p (R.RINGn_CFG n) (fun s => s.ringCfgWrite p n (v ||| 1))

/-- `RING_DISABLE` (R244): a write of `RINGn_CFG` with EN = 0. -/
def execRingDisable (p : Path) (n : Fin 64) (v : Word) (s : State) : Host.Outcome State Fault Refusal :=
  s.hostAct p (R.RINGn_CFG n) (fun s => s.ringCfgWrite p n (v &&& 0xFFFFFFFE))

/-- `RING_HOSTERR` (R243): an access of an enabled host-memory ring completes with an error. -/
def execRingHosterr (n : Fin 64) (s : State) : Host.Outcome State Fault Refusal :=
  s.event (fun s => if n ∈ s.hostRings then s.ringHosterr n else s)

/-- `COMMAND_FETCH` (R240). -/
def execCommandFetch (n : Fin 64) (bad corr : BitVec 8) (s : State) : Host.Outcome State Fault Refusal :=
  s.event (fun s => s.commandFetch n bad corr)

/-- `FENCE` (R22): the commands ahead of it have executed and handed over their records, for the commands of a ring execute one by one. -/
def execFence (n : Fin 64) (s : State) : Host.Outcome State Fault Refusal :=
  s.event (fun s => s.ringExec n (fun op => op = 0x20) (fun s _ => s))

/-- `MARK` (R241). -/
def execMark (n : Fin 64) (s : State) : Host.Outcome State Fault Refusal :=
  s.event (fun s => s.ringExec n (fun op => op = 0x21) (fun s w => s.ringDone n (cmdSeq w) 0x21 0 w[2] w[3]))

/-- `RING_ILLEGAL` (R241). -/
def execRingIllegal (n : Fin 64) (s : State) : Host.Outcome State Fault Refusal :=
  s.event (fun s => s.ringExec n (fun op => s.ringIllegalOp n op) (fun s w => s.ringDone n (cmdSeq w) (cmdOp w) 7 w[2] w[3]))

end Sys2Proof.Machine
end

