-- ==== Sys2Proof/Machine/Servo.lean ====
section
/-!
DEFINITION. The Ewerlink servo (R277 to R282): the hop delay, the offset from the parent, and how a node steers its spine.
-/
namespace Sys2Proof.Machine
open Sys2Proof

def State.modEl (s : State) (f : Ewer → Ewer) : State := { s with el := f s.el }
def State.modPort (s : State) (p : Fin 4) (f : ElPort → ElPort) : State := s.modEl (fun e => { e with ports := e.ports.set p (f e.ports[p]) })

/-! ### Hop delay (R277) -/

/-- The inbound delay d of a port as a ratio of integers, in subs: (S/n + A)/2 with S the sum of its n samples and A its asymmetry. -/
def State.elDelayNum (s : State) (p : Fin 4) : Int :=
  s.el.ports[p].samples.sum + (s.el.ports[p].samples.length : Int) * signed (s.calUser (0xCC + p.val)).toNat 16
def State.elDelayDen (s : State) (p : Fin 4) : Nat := 2 * s.el.ports[p].samples.length

/-- d as `ELp_DLY` and the records show it, rounded down: it follows the samples and the asymmetry. Mark: DEDUCED, log entry 57. -/
def State.elDly (s : State) (p : Fin 4) : Nat :=
  if s.el.ports[p].samples = [] then 0 else ((s.elDelayNum p / (s.elDelayDen p : Int)) % (2 ^ 24 : Nat)).toNat

/-- A sample Σ in subs: once 16 are held, one more than 2 ns from their mean is discarded. -/
def State.elSample (s : State) (p : Fin 4) (x : Int) : State :=
  let l := s.el.ports[p].samples
  if l.length = 16 ∧ 128 * 16 < (16 * x - l.sum).natAbs then s
  else
    let l' := (x :: l).take 16
    (s.modPort p (fun q => { q with samples := l' })).rput (F.ELp_DLY_NSAMP p) l'.length

/-! ### Servo states (R278) -/

/-- EL_SERVO causes (R289). -/
def servoLock : Nat := 1
def servoUnlock : Nat := 2
def servoStep : Nat := 3
def servoHold : Nat := 4
def servoRange : Nat := 5
def servoParent : Nat := 6
def servoRoot : Nat := 7

/-- A value saturated to a signed word, and whether it saturated. -/
def satFlag (v : Int) : Word × Bool := (satWord v, decide (v > 2147483647 ∨ v < -2147483648))

/-- EL_SERVO (R289). -/
def State.servoRecord (s : State) (new old cause : Nat) (theta : Int) : State :=
  let (w, t) := satFlag theta
  let p : Fin 4 := ⟨s.rget F.EL_STAT_PARENT % 4, Nat.mod_lt _ (by decide)⟩
  s.emit 0x26 103 s.now (if t then flTrunc else 0) (word (new + 16 * old + 256 * cause)) w (s.reg R.SPN_RATE) (word (s.elDly p))

/-- The servo enters another state. HOLD keeps the integrator's rate; leaving LOCK is counted; reporting lock clears COARSE (R52). -/
def State.servoEnter (s : State) (new : Nat) : State :=
  let s1 := ((s.rput F.EL_STAT_SERVO new).evt F.EL_EVT_SERVO_S).modEl (fun e => { e with run := 0, skip := false, acq := none })
  let s2 := if s.rget F.EL_STAT_SERVO = 3 then (s1.rsat F.EL_SRV_CNT_UNLOCKS 1).evt F.EL_EVT_UNLOCK_S else s1
  if new = 4 then s2.setReg R.SPN_RATE (s2.reg R.EL_SRV_INT) else if new = 3 then s2.rput F.SPN_STAT_COARSE 0 else s2

/-- A change of state, with its record (R279). -/
def State.servoTo (s : State) (new cause : Nat) (theta : Int) : State :=
  let old := s.rget F.EL_STAT_SERVO
  if new = old then s else (s.servoEnter new).servoRecord new old cause theta

/-- A change of servo state for which R289 names no cause: its code is a free value. Mark: DESIGN CHOICE, log entry 21. -/
def State.servoFree (s : State) (new : Nat) (theta : Int) : State :=
  s.drawn.servoTo new (Config.linkCause s.free).toNat theta

/-- The servo must be OFF (R278). -/
def State.servoOff (s : State) : Bool := s.rget F.SPN_CTRL_MODE != 1 || !s.ron F.EL_CTRL_EN || !s.ron F.EL_STAT_HASPARENT

/-- The last θ, in subs. -/
def State.lastTheta (s : State) : Int := s.el.theta

/-- Bring OFF and ACQ into line with the mode, EN and the parent (R278): the cause is the caller's. A node that loses its last parent
goes on at the integrator's rate. -/
def State.servoFollow (s : State) (cause : Nat) (lost : Bool) : State :=
  if s.servoOff then
    if s.rget F.EL_STAT_SERVO = 0 then s
    else (if lost then s.setReg R.SPN_RATE (s.reg R.EL_SRV_INT) else s).servoTo 0 cause s.lastTheta
  else if s.rget F.EL_STAT_SERVO = 0 then s.servoTo 1 cause s.lastTheta else s

/-- A change of `SPN_CTRL.MODE` (R278), for which R289 names no cause. Mark: DESIGN CHOICE, log entry 21. -/
def State.servoMode (s : State) : State := s.drawn.servoFollow (Config.linkCause s.free).toNat false

/-! ### Steering (R278, R279) -/

/-- θ as a ratio of integers, in subs: (T2 − T1) − d. Mark: DEDUCED, log entry 57. -/
def State.thetaNum (s : State) (p : Fin 4) (t21 : Int) : Int := t21 * (s.elDelayDen p : Int) - s.elDelayNum p

/-- C of R278: 2^40/10^6, rounded. -/
def servoC : Int := 1099512

/-- A steering term: round(C × θ / 2^k), θ in ns. Mark: DEDUCED, log entry 57. -/
def State.servoTerm (s : State) (p : Fin 4) (num : Int) (k : Nat) : Int := roundDivI (servoC * num) (s.elDelayDen p * 64 * 2 ^ k)

/-- Steer: the integrator, then the rate. Mark: DEDUCED, log entry 57. -/
def State.servoSteer (s : State) (p : Fin 4) (num : Int) : State :=
  let i := clampRate ((s.reg R.EL_SRV_INT).toInt - s.servoTerm p num (s.rget F.EL_SRV_CFG_KI))
  (s.setReg R.EL_SRV_INT (iword i)).setReg R.SPN_RATE (iword (clampRate (i - s.servoTerm p num (s.rget F.EL_SRV_CFG_KP))))

/-- The servo's STEP command, by −θ rounded to a sub (R279, R34), and the entries that it passes (R314). -/
def State.servoDoStep (s : State) (a : Int) : State :=
  let s0 := s.rput F.SPN_STAT_LAST_OP 2
  if s0.spine.pend.isSome then s0.spnRefuse 1 else ((s0.rput F.SPN_STAT_CMD_ERR 0).stepBy a false).apFollow s

/-- θ at or above 2^31 ns (R279): HOLD with cause RANGE, reported once for a root, also where the servo holds already. -/
def State.servoRanged (s : State) (theta : Int) : State :=
  let st := s.rget F.EL_STAT_SERVO
  let s1 := if st = 4 then s else s.servoEnter 4
  let s2 := if s.el.ranged then s1 else s1.servoRecord 4 st servoRange theta
  (s2.modEl (fun e => { e with ranged := true })).evt F.EL_EVT_RANGE_S

/-- TRACK or LOCK at a usable beacon of the parent. -/
def State.servoTrack (s : State) (p : Fin 4) (num : Int) : State :=
  let den : Int := s.elDelayDen p
  let theta := num / den
  let st := s.rget F.EL_STAT_SERVO
  if (2 ^ 37 : Nat) * den ≤ num then s.servoRanged theta
  else if ((s.reg R.EL_SRV_STEP).toNat : Int) * 64 * den < num.natAbs then
    let s1 := ((s.servoDoStep (-(roundDivI num (s.elDelayDen p)))).rsat F.EL_SRV_CNT_STEPS 1)
    let s2 := if st = 3 then s1.servoTo 2 servoStep theta else s1.servoRecord 2 2 servoStep theta
    s2.modEl (fun e => { e with skip := true, run := 0 })
  else
    let s1 := s.servoSteer p num
    if st = 3 then
      (if (s.rget F.EL_SRV_THR_UNLOCK : Int) * den < num.natAbs then s1.servoTo 2 servoUnlock theta else s1)
    else
      let r := if (num.natAbs : Int) ≤ (s.rget F.EL_SRV_THR_LOCK : Int) * den then s.el.run + 1 else 0
      let s2 := s1.modEl (fun e => { e with run := r })
      if 16 ≤ r then s2.servoTo 3 servoLock theta else s2

/-- ACQ at a beacon of the parent with times T1 and T2: the second one sets the integrator (R278). -/
def State.servoAcq (s : State) (t1 t2 : Nat) : State :=
  match s.el.acq with
  | none => s.modEl (fun e => { e with acq := some (t1, t2) })
  | some (a1, a2) =>
    if t1 ≤ a1 then s.modEl (fun e => { e with acq := some (t1, t2) })
    else
      let i := clampRate (s.rateWord - roundDivI ((((t2 : Int) - a2) - ((t1 : Int) - a1)) * 2 ^ 40) (t1 - a1))
      ((s.setReg R.EL_SRV_INT (iword i)).setReg R.SPN_RATE (iword i)).servoFree 2 s.lastTheta

/-- θ is formed at each BEACON accepted on the parent port, whatever the servo does with it (R278): where a delay sample is held, and the
beacon's capture does not carry STEP. -/
def State.servoOffset (s : State) (p : Fin 4) (t21 : Int) (step : Bool) : State :=
  if step ∨ s.el.ports[p].samples = [] then s
  else
    let theta := s.thetaNum p t21 / (s.elDelayDen p : Int)
    (s.setReg R.EL_SRV_OFS (satWord theta)).modEl (fun e => { e with theta := theta })

/-- The servo at a BEACON accepted on the parent port (R278, R279). The beacon after a STEP, and one whose capture carries STEP, is not used. -/
def State.servoBeacon (s : State) (p : Fin 4) (t1 t2 : Nat) (step qual : Bool) : State :=
  let st := s.rget F.EL_STAT_SERVO
  let t21 : Int := (t2 : Int) - t1
  let s1 := (s.servoOffset p t21 step).modEl (fun e => { e with skip := false })
  if s.servoOff ∨ st = 0 then s1
  else if ¬ qual then s1.servoTo 4 servoHold s1.lastTheta
  else if step ∨ s.el.skip then s1
  else if st = 1 then s1.servoAcq t1 t2
  else if s.el.ports[p].samples = [] then s1
  else
    let num := s.thetaNum p t21
    if st = 4 ∧ num < (2 ^ 37 : Nat) * (s.elDelayDen p : Int) then (s1.servoFree 2 s1.lastTheta).servoTrack p num else s1.servoTrack p num

end Sys2Proof.Machine
end

