-- ==== Sys2Proof/Machine/Tree.lean ====
section
/-!
DEFINITION. The Ewerlink tree (R260 to R276): ports, candidates, root and parent selection, roles, the forwarding table, queues and
routing.
-/
namespace Sys2Proof.Machine
open Sys2Proof

/-! ### Registers and records of the block -/

/-- The device's unique ID (R267). -/
def State.elUid (s : State) : Nat := s.otpV 0x720 + 2 ^ 32 * s.otpV 0x721

/-- Port states of `ELp_STAT.STATE` and roles of `ELp_STAT.ROLE`. -/
def psDisabled : Nat := 0
def psDown : Nat := 1
def psTrain : Nat := 2
def psUp : Nat := 3
def roleParent : Nat := 1
def roleChild : Nat := 2
def roleBlocked : Nat := 3

def State.elState (s : State) (p : Nat) : Nat := s.rget (F.ELp_STAT_STATE p)
def State.elRole (s : State) (p : Nat) : Nat := s.rget (F.ELp_STAT_ROLE p)
def State.elUp (s : State) (p : Nat) : Bool := s.elState p = psUp

/-- The parent port, if there is one. -/
def State.elParent (s : State) : Option (Fin 4) :=
  if s.ron F.EL_STAT_HASPARENT then some ⟨s.rget F.EL_STAT_PARENT % 4, Nat.mod_lt _ (by decide)⟩ else none

/-- A tree port: the parent port or a CHILD port (R269). -/
def State.elTree (s : State) (p : Nat) : Bool := s.elUp p && (s.elRole p = roleParent || s.elRole p = roleChild)

/-- EL_LINK: a port's change of state (R262, R289). -/
def State.elLink (s : State) (p old new cause : Nat) : State :=
  (s.evt F.EL_EVT_LINK_S).emit 0x24 103 s.now 0 (word (p + 4 * new + 32 * old + 256 * cause + 4096 * s.elRole p))
    (word (s.rget (F.ELp_STAT_NBR_ID p))) (s.reg (R.ELp_ERR p)) 0

/-- A change of state for which R289 names no cause: its code is a free value. Mark: DESIGN CHOICE, log entry 21. -/
def State.elLinkFree (s : State) (p old new : Nat) : State := s.drawn.elLink p old new (Config.linkCause s.free).toNat

/-- EL_TOPO kinds (R289). -/
def topoRoot : Nat := 1
def topoParent : Nat := 2
def topoJoined : Nat := 3
def topoConflict : Nat := 4
def topoDeep : Nat := 5
def topoLeave : Nat := 6
def topoNoRoot : Nat := 7

def State.elTopo (s : State) (kind node : Nat) : State :=
  (s.evt F.EL_EVT_TOPO_S).emit 0x25 103 s.now 0
    (word (kind + 16 * s.rget F.EL_STAT_PARENT + 64 * s.rget F.EL_STAT_DEPTH + 65536 * node)) (word s.el.rootUid)
    (word (s.el.rootUid / 2 ^ 32)) (word (s.el.rootPrio + 65536 * s.rget F.EL_STAT_ROOT_ID))

/-- The ID under which this node is known: the held ID, the ID of its JOIN, or the configured one (R272, R273). -/
def State.elOwnId (s : State) : Nat :=
  match s.rget F.EL_STAT_IDSTATE with
  | 2 => s.rget F.EL_ID_HELD
  | 0 => s.rget F.EL_ID_ID
  | _ => s.el.joinId

/-- A frame is addressed to this node (R275). -/
def State.elMine (s : State) (dst : Nat) : Bool := s.rget F.EL_STAT_IDSTATE = 2 && s.rget F.EL_ID_HELD = dst

/-! ### Queues and routing (R266, R275) -/

/-- Offer a frame to a port's queue of 16: the second component says whether it was taken. -/
def State.elOffer (s : State) (p : Fin 4) (m : ElMsg) : State × Bool :=
  if s.el.ports[p].queue.length < 16 then (s.modPort p (fun q => { q with queue := q.queue ++ [m] }), true)
  else (s.rsat (F.ELp_CNT_QDROP p) 1, false)

def State.elSend (s : State) (p : Fin 4) (m : ElMsg) : State := (s.elOffer p m).1

/-- The table's port for an ID. -/
def State.elTabPort (s : State) (id : Nat) : Option (Fin 4) :=
  (tblFind s.el.table id).map (fun e => ⟨e.port % 4, Nat.mod_lt _ (by decide)⟩)

/-- The port that a unicast frame leaves by (R275). -/
def State.elRoute (s : State) (fromParent : Bool) (dst : Nat) : Option (Fin 4) :=
  match s.elTabPort dst with
  | some p => some p
  | none => if fromParent then none else s.elParent

/-- A frame that has nowhere to go (R275). Mark: DEDUCED, log entry 58. -/
def State.elDrop (s : State) : State := (s.rsat F.EL_DROP_NOROUTE 1).evt F.EL_EVT_DROP_S

/-- Forward a unicast frame that arrived at a port, towards a node (R275). Mark: DEDUCED, log entry 58. -/
def State.elForward (s : State) (p : Fin 4) (to' : Nat) (m : ElMsg) : State :=
  if 31 ≤ m.hops + 1 then s.elDrop
  else
    match s.elRoute (s.elParent = some p) to' with
    | some q => s.elSend q { m with hops := m.hops + 1 }
    | none => s.elDrop

/-! ### Joining and leaving (R272 to R274) -/

/-- Send a JOIN for one node on the parent port. -/
def State.elJoinUp (s : State) (id uid : Nat) : State :=
  match s.elParent with
  | some p => s.elSend p ⟨s.elOwnId, 0, id, false, .join id uid⟩
  | none => s

/-- Send the JOIN of this node, unless its ID is in conflict, and one for every table entry (R272). -/
def State.elJoin (s : State) : State :=
  match s.elParent with
  | none => s
  | some _ =>
    let s1 := s.modEl (fun e => { e with joinAt := s.spine.tick })
    let s2 := if s.rget F.EL_STAT_IDSTATE = 3 then s1
      else
        let id := if s.rget F.EL_STAT_IDSTATE = 0 then s.rget F.EL_ID_ID else s.elOwnId
        ((s1.modEl (fun e => { e with joinId := id })).rput F.EL_STAT_IDSTATE 1).elJoinUp id s.elUid
    s.el.table.foldl (fun (a : State) x => a.elJoinUp x.1 x.2.uid) s2

/-- LEAVE frames of at most 16 IDs each on the parent port. -/
def State.elLeaveUp (s : State) (ids : List Nat) : Nat → State
  | 0 => s
  | k + 1 =>
    match ids, s.elParent with
    | [], _ => s
    | _, none => s
    | _, some p => (s.elSend p ⟨s.elOwnId, 0, 0, false, .leave (ids.take 16)⟩).elLeaveUp (ids.drop 16) k

/-- Remove table entries, report them, and tell the parent (R274). -/
def State.elRemove (s : State) (ids : List Nat) : State :=
  if ids = [] then s
  else
    let s1 := s.modEl (fun e => { e with table := ids.foldl (fun (t : Tbl ElEnt) i => tblDel t i) e.table })
    (s1.elTopo topoLeave ids.length).elLeaveUp ids 64

/-- A port has ceased to be CHILD: its entries go (R274). -/
def State.elChildLost (s : State) (p : Nat) : State :=
  s.elRemove ((s.el.table.filter (fun x => decide (x.2.port = p))).map Prod.fst)

/-! ### Candidates and selection (R268 to R270) -/

/-- 3 ms, in spine ticks, which are what the ports' timers count. -/
def bcnLimit : Nat := 3000000

/-- The vector of a candidate as one number: comparing these is comparing the vectors (R267). -/
def elKey (prio rootUid depth uid port : Nat) : Nat := (((prio * 2 ^ 64 + rootUid) * 64 + depth) * 2 ^ 64 + uid) * 4 + port

/-- The candidates of the ports, with their vectors. -/
def State.elCands (s : State) : List (Nat × Fin 4) :=
  (List.finRange 4).filterMap (fun (p : Fin 4) =>
    match s.el.ports[p].bcn with
    | some b => if s.ron (F.ELp_STAT_CAND p) then some (elKey b.prio b.rootUid (b.depth + 1) b.uid p, p) else none
    | none => none)

/-- The candidate of the smallest vector. -/
def elLeast : List (Nat × Fin 4) → Option (Nat × Fin 4)
  | [] => none
  | c :: cs => match elLeast cs with | some d => if c.1 < d.1 then some c else some d | none => some c

/-- What selection chooses: itself as root, a parent port, or nothing. -/
inductive ElPick where
  | own | parent (p : Fin 4) | nothing
  deriving DecidableEq, Repr

/-- Selection (R268). -/
def State.elChoose (s : State) : ElPick :=
  if ¬ s.ron F.EL_CTRL_EN then .nothing
  else
    let own := elKey (s.rget F.EL_PRIO_PRIO) s.elUid 0 s.elUid 0
    let mine := s.ron F.EL_PRIO_ROOT_ELIG
    match elLeast s.elCands with
    | some (k, p) => if mine ∧ own < k then .own else .parent p
    | none => if mine then .own else .nothing

/-- Every received beacon lies 16 or more hops from its root, and the node may not be root (R270). -/
def State.elDeep (s : State) : Bool :=
  let bs := s.el.ports.toList.filterMap (fun q => q.bcn)
  s.ron F.EL_CTRL_EN && !s.ron F.EL_PRIO_ROOT_ELIG && !bs.isEmpty && bs.all (fun b => decide (16 ≤ b.depth))

/-- Put the outcome of a selection into `EL_STAT` and the root's data. A new root counts RSEQ from its present time. -/
def State.elAdopt (s : State) (c : ElPick) : State :=
  match c with
  | .own =>
    let s0 := if s.ron F.EL_STAT_ISROOT then s else s.modEl (fun e => { e with counted := s.now })
    (((((s0.rput F.EL_STAT_ISROOT 1).rput F.EL_STAT_HASPARENT 0).rput F.EL_STAT_PARENT 0).rput F.EL_STAT_DEPTH 0).rput F.EL_STAT_ROOT_ID
      s.elOwnId).modEl (fun e => { e with rootUid := s.elUid, rootPrio := s.rget F.EL_PRIO_PRIO }) |>.rseqStep
  | .parent p =>
    match s.el.ports[p].bcn with
    | some b =>
      (((((s.rput F.EL_STAT_ISROOT 0).rput F.EL_STAT_HASPARENT 1).rput F.EL_STAT_PARENT p).rput F.EL_STAT_DEPTH (b.depth + 1)).rput
        F.EL_STAT_ROOT_ID b.rootId).modEl (fun e => { e with rootUid := b.rootUid, rootPrio := b.prio, rseq := b.rseq })
    | none => s
  | .nothing =>
    (((((s.rput F.EL_STAT_ISROOT 0).rput F.EL_STAT_HASPARENT 0).rput F.EL_STAT_PARENT 0).rput F.EL_STAT_DEPTH 31).rput F.EL_STAT_ROOT_ID
      0).modEl (fun e => { e with rootUid := 0, rootPrio := 0 })

/-- The role of each UP port (R269); a port that ceases to be CHILD loses its entries (R274). -/
def State.elRoles (s : State) : State :=
  (List.finRange 4).foldl (fun (s : State) (p : Fin 4) =>
    let old := s.elRole p
    let new := if ¬ s.elUp p then 0 else if s.elParent = some p then roleParent
      else match s.el.ports[p].bcn with | some b => if b.up then roleChild else roleBlocked | none => roleBlocked
    let s1 := s.rput (F.ELp_STAT_ROLE p) new
    if old = roleChild ∧ new ≠ roleChild then s1.elChildLost p else s1) s

/-- The node has a root. -/
def State.elHasRoot (s : State) : Bool := s.ron F.EL_STAT_ISROOT || s.ron F.EL_STAT_HASPARENT

/-- QUAL of the beacons that this node sends (R281). -/
def State.elQual (s : State) : Bool :=
  s.ron F.EL_STAT_ISROOT ||
    ((s.rget F.EL_STAT_SERVO = 2 || s.rget F.EL_STAT_SERVO = 3) &&
      (match s.elParent with | some p => (match s.el.ports[p].bcn with | some b => b.qual | none => false) | none => false))

/-- What a change of root or parent does to the servo (R278, R282): in ACQ it waits for two beacons of the new parent. -/
def State.elServoMoved (s : State) (hadParent rootChanged parentChanged : Bool) : State :=
  let s0 := if rootChanged then s.modEl (fun e => { e with ranged := false }) else s
  let s1 := if rootChanged ∨ parentChanged then s0.modEl (fun e => { e with acq := none }) else s0
  if s1.servoOff then s1.servoFollow (if s1.ron F.EL_STAT_ISROOT then servoRoot else servoParent) hadParent
  else if rootChanged then s1.servoTo 1 servoRoot s1.lastTheta
  else if s1.rget F.EL_STAT_SERVO = 0 then s1.servoTo 1 servoParent s1.lastTheta
  else if parentChanged ∧ s1.rget F.EL_STAT_SERVO ≠ 1 then
    match s1.elParent with
    | some p => if s1.el.ports[p].samples = [] then s1.servoTo 4 servoParent s1.lastTheta else s1
    | none => s1
  else s1

/-- Evaluate the candidates again (R268): what changes is adopted, reported, and followed by roles, joins and the servo. -/
def State.elSelect (s : State) : State :=
  let s1 := s.elAdopt s.elChoose
  let rootChanged := decide (s1.elHasRoot ≠ s.elHasRoot ∨ s1.el.rootUid ≠ s.el.rootUid)
  let parentChanged := decide (s1.elParent ≠ s.elParent)
  let s2 :=
    if rootChanged then s1.elTopo (if s1.elHasRoot then topoRoot else topoNoRoot) s1.elOwnId
    else if parentChanged then s1.elTopo topoParent s1.elOwnId else s1
  let s3 := s2.elRoles
  let deep := s3.elDeep && !s3.elHasRoot
  let s4 := if deep ∧ ¬ s3.ron F.EL_STAT_TOO_DEEP then (s3.rput F.EL_STAT_TOO_DEEP 1).elTopo topoDeep s3.elOwnId
    else s3.rput F.EL_STAT_TOO_DEEP (b2n deep)
  let s5 := if parentChanged then s4.elJoin else s4
  s5.elServoMoved s.elParent.isSome rootChanged parentChanged

/-! ### Port states (R262) -/

/-- A port leaves the tree for DOWN or DISABLED. -/
def State.elPortOff (s : State) (p : Fin 4) (new : Nat) (report : State → Nat → State) : State :=
  let old := s.elState p
  if old = new then s
  else
    let child := s.elRole p = roleChild
    let s1 := (((s.rput (F.ELp_STAT_STATE p) new).rput (F.ELp_STAT_ROLE p) 0).rput (F.ELp_STAT_CAND p) 0).rput (F.ELp_STAT_HOLDOFF p)
      (b2n (decide (new = psDown)))
    let s2 := (s1.modPort p (fun q => { q with bcn := none, t21 := none, reqDue := false, req := none, bcns := 0, downAt := s.spine.tick, resp := none }))
    let s3 := if new = psDown then s2.rsat (F.ELp_CNT_DOWNS p) 1 else s2
    let s4 := report s3 old
    (if child then s4.elChildLost p else s4).elSelect

/-- A port falls to DOWN (R262). -/
def State.elDown (s : State) (p : Fin 4) (cause : Nat) : State :=
  if s.elState p = psTrain ∨ s.elState p = psUp then s.elPortOff p psDown (fun s old => s.elLink p old psDown cause) else s

/-- A port is enabled: it enters DOWN, without symbol lock (R262). -/
def State.elPortOn (s : State) (p : Fin 4) : State :=
  if s.elState p = psDisabled then s.elPortOff p psDown (fun s old => s.elLinkFree p old psDown) else s

/-- A port is switched off (R291). -/
def State.elPortDisable (s : State) (p : Fin 4) : State := s.elPortOff p psDisabled (fun s old => s.elLink p old psDisabled 5)

/-- Symbol lock (R262); without VDDL a port stays DOWN (R353). -/
def State.elLockOn (s : State) (p : Fin 4) : State :=
  if s.elState p = psDown ∧ ¬ s.ron (F.ELp_STAT_HOLDOFF p) ∧ s.ron F.PW_STAT_VDDL_OK then (s.rput (F.ELp_STAT_STATE p) psTrain).elLink p psDown psTrain 1 else s

/-- Ewerlink is switched off (R291). `SPN_RATE` is kept. -/
def State.elOff (s : State) : State :=
  let s1 := (List.finRange 4).foldl (fun (s : State) (p : Fin 4) =>
    let old := s.elState p
    let s1 := (((s.rput (F.ELp_STAT_STATE p) psDisabled).rput (F.ELp_STAT_ROLE p) 0).rput (F.ELp_STAT_CAND p) 0).rput (F.ELp_STAT_HOLDOFF p) 0
    let s2 := s1.modPort p (fun q => { q with bcn := none, t21 := none, reqDue := false, req := none, bcns := 0, queue := [], resp := none })
    if old = psDisabled then s2 else s2.elLink p old psDisabled 5) s
  let s2 := (s1.modEl (fun e => { e with table := [] })).elAdopt .nothing
  let s3 := ((((s2.rput F.EL_ID_HELD_V 0).rput F.EL_ID_HELD 0).rput F.EL_STAT_IDSTATE 0).rput F.EL_STAT_TOO_DEEP 0)
  (s3.servoTo 0 servoParent s3.lastTheta).elTopo topoNoRoot s3.elOwnId

/-- Bring the ports into line with PORT_EN, and the selection with EN (R268, R291). -/
def State.elPorts (s : State) : State :=
  (List.finRange 4).foldl (fun (s : State) (p : Fin 4) =>
    if s.ron F.EL_CTRL_EN ∧ nbit (s.rget F.EL_CTRL_PORT_EN) p then s.elPortOn p else s.elPortDisable p) s

/-- A masked write of `EL_CTRL` (R291, R319). -/
def State.elCtrlWrite (s : State) (p : Path) (v : Word) : State :=
  if s.locked 7 ∧ wfld v 16 16 &&& 0xF01 ≠ 0 then s.lockViolation p R.EL_CTRL v (2 ^ 7) false
  else s.cfgWrite R.EL_CTRL (fun s =>
    let m := wfld v 16 16 &&& 0xF01
    let new := (s.reg R.EL_CTRL).toNat &&& (0xF01 - m) ||| (v.toNat &&& m)
    let was := s.ron F.EL_CTRL_EN
    let s1 := s.setReg R.EL_CTRL (word new)
    if was ∧ ¬ s1.ron F.EL_CTRL_EN then s1.elOff
    else if s1.ron F.EL_CTRL_EN then (if was then s1.elPorts else s1.elPorts.elSelect) else s1)

end Sys2Proof.Machine
end

