-- ==== Sys2Proof/Machine/Ewerlink.lean ====
section
/-!
DEFINITION. Ewerlink's events and commands (R260 to R291): link states, timed frames, received frames, queued frames, the ring commands
and the register commands.
-/
namespace Sys2Proof.Machine
open Sys2Proof

/-! ### Link states (R262) -/

/-- 10 ms, in spine ticks. -/
def holdoffTicks : Nat := 10000000

/-- The 10 ms after DOWN have passed. -/
def State.holdoffEnd (s : State) (p : Fin 4) : State :=
  if s.ron (F.ELp_STAT_HOLDOFF p) ∧ s.el.ports[p].downAt + holdoffTicks ≤ s.spine.tick then s.rput (F.ELp_STAT_HOLDOFF p) 0 else s

/-- An UP port without a valid BEACON for 3 ms. -/
def State.beaconTimeout (s : State) (p : Fin 4) : State :=
  if s.elUp p ∧ s.el.ports[p].bcnAt + bcnLimit ≤ s.spine.tick then s.elDown p 4 else s

/-! ### Beacons (R267, R268) -/

/-- A port's first beacon time at or after a spine time, in subs. -/
def beaconFrom (p : Fin 4) (t : Nat) : Nat := (t : Int) + (((bcnFirst p : Nat) : Int) - (t : Int)) % (bcnPeriod : Int) |>.toNat

/-- A beacon time of a port in the present tick, in subs: one that falls in a hold is none (R37). -/
def State.beaconTime (s : State) (p : Fin 4) : Option Nat :=
  let t := beaconFrom p s.now
  if s.reaches t ∧ s.el.ports[p].lastBcn ≠ some t then some t else none

/-- The beacon that a node sends at T1 on a port. -/
def State.beaconOf (s : State) (p : Fin 4) (t : Nat) : ElBcn :=
  if s.elHasRoot then
    ⟨t, s.el.rootPrio, s.rget F.EL_STAT_ROOT_ID, s.el.rootUid, s.rget F.EL_STAT_DEPTH, s.el.rseq, s.elUid, s.nodeId, s.elQual,
      decide (s.elParent = some p)⟩
  else ⟨t, s.el.rootPrio, 0, s.el.rootUid, 17, s.el.rseq, s.elUid, s.nodeId, false, false⟩

/-- The node sends BEACONs (R267, R270). -/
def State.beacons (s : State) : Bool := s.elHasRoot || s.ron F.EL_STAT_TOO_DEEP

/-- Nothing is on a port's line at the present tick. -/
def State.lineFree (s : State) (p : Fin 4) : Bool := decide (s.el.ports[p].busy ≤ s.spine.tick)

/-- Send a BEACON on a port at its beacon time (R267, R270). After a step that time can find another frame on the line: the BEACON is then
not sent. Mark: DEDUCED, log entry 98. -/
def State.beaconSend (s : State) (p : Fin 4) : State :=
  match s.beaconTime p with
  | some t =>
    if (s.elState p = psTrain ∨ s.elUp p) ∧ s.beacons ∧ s.lineFree p then
      s.modPort p (fun q => { q with
        lastBcn := some t, sent := .beacon (s.beaconOf p t), busy := s.spine.tick + symbolTicks * bcnSymbols + 1 })
    else s
  | none => s

/-- The BEACON of a row. -/
def bcnOf (f : FrameHead) (b : Beacon) : ElBcn :=
  ⟨b.t1Ns.toNat * 64 + b.t1Sub.toNat, b.prio.toNat, b.rootId, b.rootUid.toNat, b.depth, b.rseq.toNat, b.uid.toNat, f.src, b.qual, b.up⟩

/-- A port takes a valid BEACON captured at T2: it becomes the port's candidate while its RSEQ moves (R268), and a delay request falls
due after every 2^DRATE-th one (R277). -/
def State.beaconTake (s : State) (p : Fin 4) (b : ElBcn) (t2 : Nat) (step : Bool) : State :=
  let q := s.el.ports[p]
  let moved : Bool := match q.bcn with | some o => decide (o.rseq ≠ b.rseq) | none => true
  let ra := if moved then s.spine.tick else q.rseqAt
  let n := q.bcns + 1
  let due := decide (2 ^ s.rget F.EL_SRV_CFG_DRATE ≤ n)
  let s1 := s.modPort p (fun q => { q with
    bcn := some b, bcnAt := s.spine.tick, rseqAt := ra, mark := false, t21 := if step then none else some ((t2 : Int) - b.t1),
    bcns := if due then 0 else n, reqDue := q.reqDue || due })
  (s1.rput (F.ELp_STAT_NBR_ID p) b.src).rput (F.ELp_STAT_CAND p) (b2n (decide (b.depth < 16 ∧ s.spine.tick ≤ ra + bcnLimit)))

/-- A BEACON is received (R262, R268, R278): EL_LINK of a port that comes up shows what the BEACON has made of it (R289). -/
def State.beaconReceive (s : State) (p : Fin 4) (b : ElBcn) (pos : Nat) : State :=
  let (t2, st) := s.stampAt pos
  let step := st || s.el.ports[p].mark
  let train := s.elState p = psTrain
  let s1 := if train then s.rput (F.ELp_STAT_STATE p) psUp else s
  let s2 := (s1.beaconTake p b t2 step).elSelect
  let s3 := if train then s2.elLinkFree p psTrain psUp else s2
  if s3.elParent = some p then (s3.modEl (fun e => { e with rseq := b.rseq })).servoBeacon p b.t1 t2 step b.qual else s3

/-- A candidate whose beacons or RSEQ have gone stale for 3 ms (R268). -/
def State.candidateExpiry (s : State) (p : Fin 4) : State :=
  let q := s.el.ports[p]
  let k := s.spine.tick
  if q.bcn.isSome ∧ (q.bcnAt + bcnLimit < k ∨ (s.ron (F.ELp_STAT_CAND p) ∧ q.rseqAt + bcnLimit < k)) then
    let s1 := s.rput (F.ELp_STAT_CAND p) 0
    (if q.bcnAt + bcnLimit < k then s1.modPort p (fun q => { q with bcn := none }) else s1).elSelect
  else s

/-! ### Delay exchanges (R277) -/

/-- The smallest even ns at or above a spine time, in subs. -/
def evenNs (t : Nat) : Nat := (t + 127) / 128 * 128

/-- T3 of a DELAY_REQ that the port sends now (R263, R277): the first even ns, sub 0, from which the free line carries it before the port's
next BEACON, or else the first one behind that BEACON. Mark: DESIGN CHOICE, log entry 102. -/
def State.elT3 (s : State) (p : Fin 4) : Nat :=
  let t := evenNs (s.tAhead (s.el.ports[p].busy - s.spine.tick))
  let b := beaconFrom p s.now
  if s.beacons ∧ b < t + 64 * symbolTicks * reqSymbols then max t (evenNs (b + 64 * symbolTicks * bcnSymbols)) else t

/-- 100 µs, in spine ticks. -/
def reqLimit : Nat := 100000

/-- Send the DELAY_REQ that is due, while its T3 lies within 100 µs of the beacon. -/
def State.delayReqSend (s : State) (p : Fin 4) : State :=
  let q := s.el.ports[p]
  let t3 := s.elT3 p
  let at' := s.spine.tick + (t3 - s.now + 63) / 64
  if q.reqDue ∧ s.elUp p ∧ s.spine.hold = none ∧ at' ≤ q.bcnAt + reqLimit then
    let k := (q.reqNum + 1) % 256
    s.modPort p (fun q => { q with
      reqDue := false, reqNum := k, req := some ⟨k, t3, q.t21, s.spine.tick, at'⟩, sent := .delayReq t3 k,
      busy := at' + symbolTicks * reqSymbols })
  else s

/-- 40 ns, in subs. -/
def sendGap : Nat := 2560

/-- A frame of so many symbols, started now, leaves the line free 40 ns before the port's next timed frame (R266). -/
def State.lineFits (s : State) (p : Fin 4) (symbols : Nat) : Bool :=
  s.lineFree p && (!s.beacons || decide (s.now + 64 * symbolTicks * symbols + sendGap ≤ beaconFrom p s.now))

/-- Send the DELAY_RESP that waits, as soon as the line takes it. -/
def State.respSend (s : State) (p : Fin 4) : State :=
  match s.el.ports[p].resp with
  | some (t4, num) =>
    if (s.elState p = psTrain ∨ s.elUp p) ∧ s.lineFits p reqSymbols then
      s.modPort p (fun q => { q with resp := none, sent := .delayResp t4 num, busy := s.spine.tick + symbolTicks * reqSymbols })
    else s
  | none => s

/-- Answer a DELAY_REQ with its capture time T4, at once where the line is free and at the next `FRAME_SEND` otherwise. One captured across a
step is not answered, as its time is not usable. Mark: DEDUCED, log entry 98. -/
def State.delayReqReceive (s : State) (p : Fin 4) (num pos : Nat) : State :=
  let (t4, st) := s.stampAt pos
  let s1 := s.modPort p (fun q => { q with mark := false })
  if st ∨ s.el.ports[p].mark then s1 else (s1.modPort p (fun q => { q with resp := some (t4, num) })).respSend p

/-- T3 carries STEP: the spine was stepped between the tick in which it was chosen and its own (R277). -/
def State.reqStepped (s : State) (r : ElReq) : Bool :=
  match s.spine.stepTick with | some k => decide (r.made ≤ k ∧ k ≤ r.tick) | none => false

/-- A DELAY_RESP completes the sample (T2 − T1) + (T4 − T3), unless one of the times carries STEP. -/
def State.delayRespReceive (s : State) (p : Fin 4) (t4 num : Nat) : State :=
  match s.el.ports[p].req with
  | some r =>
    if r.num = num then
      let s1 := s.modPort p (fun q => { q with req := none })
      match r.t21 with
      | some d => if s.reqStepped r then s1 else s1.elSample p (d + ((t4 : Int) - r.t3))
      | none => s1
    else s
  | none => s

/-- 1 ms, in spine ticks. -/
def respLimit : Nat := 1000000

/-- A response missing for 1 ms is abandoned. -/
def State.delayTimeout (s : State) (p : Fin 4) : State :=
  match s.el.ports[p].req with
  | some r => if r.tick + respLimit ≤ s.spine.tick then s.modPort p (fun q => { q with req := none }) else s
  | none => s

/-! ### The tree's frames (R272 to R274) -/

/-- The port's JOIN for a node's ID (R272). -/
def State.joinReceive (s : State) (p : Fin 4) (m : ElMsg) (id uid : Nat) : State :=
  let clash : Bool := decide (id = s.elOwnId) || (match tblFind s.el.table id with | some e => decide (e.uid ≠ uid) | none => false)
  if clash then
    (((s.elSend p ⟨s.elOwnId, 0, id, false, .joinAck id true uid⟩).rsat F.EL_CNT2_CONFLICT 1).evt F.EL_EVT_CONFLICT_S).elTopo topoConflict id
  else
    let s1 := s.modEl (fun e => { e with table := tblPut e.table id ⟨p, uid⟩ })
    if s1.ron F.EL_STAT_ISROOT then s1.elSend p ⟨s1.elOwnId, 0, id, false, .joinAck id false uid⟩
    else
      match s1.elParent with
      | some q => s1.elSend q { m with hops := (m.hops + 1) % 32, body := .join id uid }
      | none => s1

/-- A JOIN_ACK reaches its node, joining or joined, or goes on towards it (R273, R275). One for the held ID with another node's UID is
delivered, and changes nothing. Mark: DEDUCED, log entry 98. -/
def State.joinAckReceive (s : State) (p : Fin 4) (m : ElMsg) (id : Nat) (conflict : Bool) (uid : Nat) : State :=
  if ((s.rget F.EL_STAT_IDSTATE = 1 ∧ s.el.joinId = id) ∨ s.elMine id) ∧ s.elUid = uid then
    if conflict then ((s.rput F.EL_STAT_IDSTATE 3).evt F.EL_EVT_CONFLICT_S).elTopo topoConflict id
    else (((s.rput F.EL_STAT_IDSTATE 2).rput F.EL_ID_HELD id).rput F.EL_ID_HELD_V 1).elTopo topoJoined id
  else if s.elMine id then s
  else
    let s1 := s.elForward p id m
    if conflict then s1.modEl (fun e => { e with table := tblDel e.table id }) else s1

/-- A LEAVE removes the listed IDs whose entries lie on the port (R274). -/
def State.leaveReceive (s : State) (p : Fin 4) (ids : List Nat) : State :=
  s.elRemove (ids.filter (fun i => s.elTabPort i = some p))

/-- The JOINs are sent again while the node's own is unanswered for 10 ms (R272). -/
def State.joinResend (s : State) : State :=
  if s.rget F.EL_STAT_IDSTATE = 1 ∧ s.el.joinAt + holdoffTicks ≤ s.spine.tick then s.elJoin else s

/-! ### Broadcasts, doorbells, mailboxes (R276, R284 to R286) -/

/-- 100 ms, in spine ticks. Mark: DEDUCED, log entry 59. -/
def seenLimit : Nat := 100000000

/-- A broadcast reaches this node's apply block (R284). -/
def State.elApply (s : State) (t m src bseq : Nat) : State :=
  if m = 0 then s
  else
    let (s1, ok) := s.apPlace t m 2 src bseq
    if ok then s1 else (s1.rsat F.EL_CNT2_APPLY_REF 1).evt F.EL_EVT_APPLY_REF_S

/-- Send a broadcast on every tree port but one. -/
def State.elSpread (s : State) (not' : Option (Fin 4)) (m : ElMsg) : State :=
  (List.finRange 4).foldl (fun (s : State) (p : Fin 4) => if s.elTree p ∧ not' ≠ some p then s.elSend p m else s) s

/-- Note a broadcast as seen, and forget the ones of more than 100 ms ago. Mark: DEDUCED, log entry 59. -/
def State.elSee (s : State) (src bseq : Nat) : State :=
  s.modEl (fun e => { e with seen := (src, bseq, s.spine.tick) :: e.seen.filter (fun x => decide (s.spine.tick ≤ x.2.2 + seenLimit)) })

/-- Mark: DEDUCED, log entry 59. -/
def State.elSeen (s : State) (src bseq : Nat) : Bool :=
  s.el.seen.any (fun x => decide (x.1 = src ∧ x.2.1 = bseq ∧ s.spine.tick ≤ x.2.2 + seenLimit))

/-- An APPLY_AT frame (R276, R284). -/
def State.applyAtFrame (s : State) (p : Fin 4) (m : ElMsg) (t mask bseq : Nat) : State :=
  if s.elSeen m.src bseq then s.rsat F.EL_DROP_DUP 1
  else ((s.elSee m.src bseq).elApply t mask m.src bseq).elSpread (some p) { m with hops := (m.hops + 1) % 32 }

/-- A doorbell that has come over Ewerlink for this node is one that asks for a LINK reset (R361). -/
def State.linkMatch (s : State) (n src : Nat) : Bool :=
  s.ron F.PW_LINKRST_EN && s.rget F.PW_LINKRST_SRC = n && (!s.ron F.PW_LINKRST_FROM_EN || s.rget F.PW_LINKRST_FROM = src)

/-- Whether a doorbell of a number is confirmed as refused (R285). -/
def dbRefused (n : Nat) : Bool := !(512 ≤ n && n < 1023)

/-- Return a DELIVERY, if it was asked for (R285). -/
def State.elConfirm (s : State) (p : Fin 4) (m : ElMsg) (mid type : Nat) (refused : Bool) : State :=
  if m.conf then
    let d : ElMsg := ⟨s.nodeId, 0, m.src, false, .delivery mid type refused⟩
    match s.elRoute (s.elParent = some p) m.src with
    | some q => s.elSend q d
    | none => match s.elParent with | some q => s.elSend q d | none => s.elDrop
  else s

/-- A DOORBELL frame (R285, R361). -/
def State.doorbellFrame (s : State) (p : Fin 4) (m : ElMsg) (n mid : Nat) : State :=
  if s.elMine m.dst then
    let s1 := s.elConfirm p m mid 8 (dbRefused n)
    if s1.linkMatch n m.src then { s1 with pw := { s1.pw with linkRst := s1.pw.linkRst.or (some (m.src, s1.now)) } } else s1.ecDoorbell n
  else s.elForward p m.dst m

/-- Four bytes of mailbox data as a word. -/
def mailWord (d : List Byte) (i : Nat) : Word :=
  word ((d.getD i 0).toNat + 256 * (d.getD (i + 1) 0).toNat + 65536 * (d.getD (i + 2) 0).toNat + 16777216 * (d.getD (i + 3) 0).toNat)

/-- EL_MAILBOX kind RX, in as many parts as the data needs (R285, R289). -/
def State.mailRx (s : State) (src mid : Nat) (d : List Byte) : State :=
  let parts := (d.length + 11) / 12
  (List.range parts).foldl (fun (s : State) k =>
    s.emit 0x27 103 s.now (flMore * b2n (decide (k + 1 < parts)))
      (word (2 ^ 20 * mid + 2 ^ 18 * k + 1024 * d.length + src)) (mailWord d (12 * k)) (mailWord d (12 * k + 4)) (mailWord d (12 * k + 8))) s

/-- A MAILBOX frame. -/
def State.mailboxFrame (s : State) (p : Fin 4) (m : ElMsg) (mid : Nat) (d : List Byte) : State :=
  if s.elMine m.dst then (s.mailRx m.src mid d).elConfirm p m mid 9 false else s.elForward p m.dst m

/-- EL_MAILBOX kinds CONFIRM and TIMEOUT (R286, R289). -/
def State.mailOutcome (s : State) (kind mid : Nat) (refused : Bool) (dst : Nat) : State :=
  s.emit 0x27 103 s.now 0 (word (2 ^ 28 * kind + 2 ^ 20 * mid + 65536 * b2n refused + dst)) 0 0 0

/-- A DELIVERY (R286): one that nobody waits for any more is discarded. -/
def State.deliveryReceive (s : State) (p : Fin 4) (m : ElMsg) (mid type : Nat) (refused : Bool) : State :=
  if s.elMine m.dst then
    if s.el.confs.any (fun c => decide (c.mid = mid ∧ c.dst = m.src ∧ c.type = type)) then
      (s.modEl (fun e => { e with confs := e.confs.eraseP (fun c => decide (c.mid = mid ∧ c.dst = m.src ∧ c.type = type)) })).mailOutcome 2 mid refused m.src
    else s
  else s.elForward p m.dst m

/-- No DELIVERY within 10 ms. -/
def State.mailboxTimeout (s : State) (mid : Nat) : State :=
  match s.el.confs.find? (fun c => decide (c.mid = mid ∧ c.t + holdoffTicks ≤ s.spine.tick)) with
  | some c =>
    (((s.modEl (fun e => { e with confs := e.confs.filter (fun x => decide (x ≠ c)) })).rsat F.EL_CNT2_MBOX_TO 1).evt
      F.EL_EVT_MBOX_TO_S).mailOutcome 3 mid false c.dst
  | none => s

/-! ### Sending (R266) -/

/-- The class of a frame. -/
def elClass : ElBody → Nat
  | .applyAt _ _ _ => 0
  | .join _ _ | .joinAck _ _ _ | .leave _ => 1
  | _ => 2

/-- The first frame of the most urgent class, and the queue without it. -/
def elNext (q : List ElMsg) : Option (ElMsg × List ElMsg) :=
  match q.find? (fun m => elClass m.body = 0) with
  | some m => some (m, q.erase m)
  | none =>
    match q.find? (fun m => elClass m.body = 1) with
    | some m => some (m, q.erase m)
    | none => match q with | [] => none | m :: r => some (m, r)

/-- A queued frame starts, if it ends 40 ns before the next timed frame; a BLOCKED port starts none (R269). A DELAY_RESP that waits goes
first. Mark: DESIGN CHOICE, log entry 102. -/
def State.frameSend (s : State) (p : Fin 4) : State :=
  if s.el.ports[p].resp.isSome then s.respSend p
  else
    match elNext s.el.ports[p].queue with
    | some (m, q') =>
      if s.elTree p ∧ s.lineFits p (bodySymbols m.body) then
        s.modPort p (fun q => { q with queue := q', sent := .untimed m, busy := s.spine.tick + symbolTicks * bodySymbols m.body })
      else s
    | none => s

/-! ### Ring commands (R287) -/

/-- EL_MAILBOX kind DONE, for every result but OK, and for OK with CPL. -/
def State.elDone (s : State) (w : Vector Word 8) (mid result : Nat) : State :=
  if result ≠ 0 ∨ nbit w[1].toNat 11 then
    s.emit 0x27 103 s.now 0 (word (2 ^ 28 + 2 ^ 20 * mid + 65536 * result + cmdSeq w)) (word (65536 * cmdOp w + wfld w[1] 0 10)) 0 0
  else s

/-- Originate a unicast frame that is not for this node (R275): QUEUE if its port's queue is full. -/
def State.elOriginate (s : State) (m : ElMsg) : State × Nat :=
  match s.elRoute false m.dst with
  | some p => let (s1, ok) := s.elOffer p m; (s1, if ok then 0 else 3)
  | none => (s.elDrop, 0)

/-- A unicast command: local delivery with its confirmation at once, or a frame whose outcome is awaited (R286, R287). `deliver` is the
local effect. -/
def State.elUnicast (s : State) (w : Vector Word 8) (type : Nat) (body : Nat → ElBody) (deliver : State → Nat → State) (refused : Bool) : State :=
  let mid := s.el.mid
  let dst := wfld w[1] 0 10
  let conf := nbit w[1].toNat 10
  let s0 := s.modEl (fun e => { e with mid := (mid + 1) % 256 })
  if s0.elMine dst then
    let s1 := deliver s0 mid
    (if conf then s1.mailOutcome 2 mid refused dst else s1).elDone w mid 0
  else
    let (s1, r) := s0.elOriginate ⟨s0.nodeId, 0, dst, conf, body mid⟩
    let s2 := if conf ∧ r = 0 then s1.modEl (fun e => { e with confs := ⟨mid, dst, type, s1.spine.tick⟩ :: e.confs }) else s1
    s2.elDone w mid r

def State.elJoined (s : State) : Bool := s.rget F.EL_STAT_IDSTATE = 2

/-- A command that is refused takes its MID all the same. -/
def State.elRefuse (s : State) (w : Vector Word 8) (result : Nat) : State :=
  (s.modEl (fun e => { e with mid := (e.mid + 1) % 256 })).elDone w s.el.mid result

/-- DOORBELL. -/
def State.elDoorbell (s : State) (w : Vector Word 8) : State :=
  let n := wfld w[2] 0 10
  if ¬ s.elJoined then s.elRefuse w 1
  else if dbRefused n then s.elRefuse w 2
  else s.elUnicast w 8 (fun mid => .doorbell n mid) (fun s _ => s.ecDoorbell n) false

/-- The bytes of words, least significant first. -/
def wordBytes (ws : List Word) : List Byte :=
  ws.flatMap (fun w => [BitVec.ofNat 8 w.toNat, BitVec.ofNat 8 (w.toNat / 256), BitVec.ofNat 8 (w.toNat / 65536), BitVec.ofNat 8 (w.toNat / 16777216)])

/-- MAILBOX, with the data of its MBOX_CONT entry if it has one. -/
def State.elMailboxSend (s : State) (w : Vector Word 8) (more : List Word) : State :=
  let len := wfld w[1] 16 6
  let d := (wordBytes ([w[2], w[3], w[4], w[5], w[6], w[7]] ++ more)).take len
  if ¬ s.elJoined then s.elRefuse w 1
  else if len = 0 ∨ 32 < len then s.elRefuse w 2
  else s.elUnicast w 9 (fun mid => .mailbox mid d) (fun s mid => s.mailRx s.nodeId mid d) false

/-- MAILBOX of a ring: one of more than 24 bytes consumes the MBOX_CONT entry behind it, or completes with FORMAT. While that entry has
not been fetched, the command waits for it. -/
def State.elMailbox (s : State) (n : Fin 64) : State :=
  match s.ringFront n with
  | some w =>
    if cmdOp w = 2 ∧ s.rget (F.RINGn_CFG_CONS n) = 2 then
      if wfld w[1] 16 6 ≤ 24 then ((s.ringPop n).elMailboxSend w []).ringSkips n 65536
      else
        match s.rings[n].fetched with
        | _ :: some x :: _ =>
          if cmdOp x = 3 then (((s.ringPop n).ringPop n).elMailboxSend w [x[2], x[3]]).ringSkips n 65536
          else ((s.ringPop n).elRefuse w 4).ringSkips n 65536
        | _ :: none :: _ => ((s.ringPop n).elRefuse w 4).ringSkips n 65536
        | _ => s
    else s
  | none => s

/-- APPLY_AT: T is judged first; the frame goes to every tree port and to this node's own apply block (R284). -/
def State.elApplyAt (s : State) (w : Vector Word 8) : State :=
  let t := w[2].toNat + 2 ^ 32 * w[3].toNat
  let m := wfld w[1] 24 8
  if m = 0 ∨ (2 ^ 31 : Nat) < ((t : Int) - s.nowNs).natAbs then s.elDone w 0 2
  else
    let q := s.el.bseq
    let s1 := (s.modEl (fun e => { e with bseq := (q + 1) % 65536 })).elSee s.nodeId q
    let full := (List.finRange 4).any (fun (p : Fin 4) => s.elTree p && decide (16 ≤ s.el.ports[p].queue.length))
    let s2 := (s1.elApply t m s.nodeId q).elSpread none ⟨s.nodeId, 0, 0, false, .applyAt t (BitVec.ofNat 8 m) q⟩
    s2.elDone w 0 (if full then 3 else 0)

/-! ### Register commands (R291) -/

/-- REJOIN (R273). -/
def State.elRejoin (s : State) : State :=
  let s1 := if s.ron F.EL_ID_HELD_V then
      (match s.elParent with
        | some p => s.elSend p ⟨s.elOwnId, 0, 0, false, .leave [s.rget F.EL_ID_HELD]⟩
        | none => s)
    else s
  (((s1.rput F.EL_ID_HELD_V 0).rput F.EL_ID_HELD 0).rput F.EL_STAT_IDSTATE 0).elJoin

/-- CLRCNT. -/
def State.elClrCnt (s : State) : State :=
  let s1 := (List.range 4).foldl (fun (s : State) p => (s.setReg (R.ELp_ERR p) 0).setReg (R.ELp_CNT p) 0) s
  ((s1.setReg R.EL_SRV_CNT 0).setReg R.EL_DROP 0).setReg R.EL_CNT2 0

/-! ### Received frames (R265) -/

/-- The untimed frame of a row. -/
def msgOf (f : FrameHead) (b : ElBody) : ElOut := .untimed ⟨f.src, f.hops, f.dst, f.conf, b⟩

/-- An untimed frame arrives at a tree port; JOIN and LEAVE are taken on a CHILD port only (R272, R274). -/
def State.elUntimed (s : State) (p : Fin 4) (m : ElMsg) : State :=
  match m.body with
  | .join id uid => if s.elRole p = roleChild then s.joinReceive p m id uid else s
  | .joinAck id conflict uid => s.joinAckReceive p m id conflict uid
  | .leave ids => if s.elRole p = roleChild then s.leaveReceive p ids else s
  | .applyAt t mask bseq => s.applyAtFrame p m t mask.toNat bseq
  | .doorbell n mid => s.doorbellFrame p m n mid
  | .mailbox mid data => s.mailboxFrame p m mid data
  | .delivery mid type refused => s.deliveryReceive p m mid type refused

/-- A frame that is discarded (R265). -/
def State.elBad (s : State) (p : Fin 4) : State := (s.rsat (F.ELp_ERR_CRC p) 1).evt F.EL_EVT_CRC_S

/-- What a frame does, with the position of its timing point where it began with TSOF: other frames than the two with timed types are
carried by tree ports only (R269). A frame whose start symbol is not its type's is discarded. Mark: DEDUCED, log entry 98. -/
def State.elArrives (s : State) (p : Fin 4) (o : ElOut) (pos : Option Nat) : State :=
  match o, pos with
  | .beacon b, some x => s.beaconReceive p b x
  | .delayReq _ num, some x => s.delayReqReceive p num x
  | .delayResp t4 num, none => s.delayRespReceive p t4 num
  | .untimed m, none => if s.elTree p then s.elUntimed p m else s
  | _, _ => s.elBad p

/-- A frame arrives at a port that holds symbol lock: one that fails its checks is counted and goes no further (R265). -/
def State.elFrame (s : State) (p : Fin 4) (f : FrameHead) (o : ElOut) (pos : Option Nat) : State :=
  if s.elState p = psTrain ∨ s.elUp p then
    match frameGot f o with
    | some x => s.elArrives p x pos
    | none => s.elBad p
  else s

/-! ### Rows -/

/-- `LINK_LOCK` (R262). -/
def execLinkLock (p : Fin 4) (s : State) : Host.Outcome State Fault Refusal := s.event (fun s => s.elLockOn p)

/-- `PORT_DOWN` (R262): the signal is lost, or 4 code violations have come within 256 symbols; violations are counted. -/
def execPortDown (p : Fin 4) (code : Bool) (viol : BitVec 16) (s : State) : Host.Outcome State Fault Refusal :=
  s.event (fun s =>
    let s1 := if s.elState p = psDisabled then s else s.rsat (F.ELp_ERR_CV p) viol.toNat
    if code ∧ viol.toNat < 4 then s1 else s1.elDown p (if code then 3 else 2))

/-- `HOLDOFF_END` (R262). -/
def execHoldoffEnd (p : Fin 4) (s : State) : Host.Outcome State Fault Refusal := s.event (fun s => s.holdoffEnd p)

/-- `BEACON_TIMEOUT` (R262). -/
def execBeaconTimeout (p : Fin 4) (s : State) : Host.Outcome State Fault Refusal := s.event (fun s => s.beaconTimeout p)

/-- `BEACON_SEND` (R267). -/
def execBeaconSend (p : Fin 4) (s : State) : Host.Outcome State Fault Refusal := s.event (fun s => s.beaconSend p)

/-- `BEACON_RECEIVE` (R268). -/
def execBeaconReceive (p : Fin 4) (f : FrameHead) (b : Beacon) (pos : Fin 64) (s : State) : Host.Outcome State Fault Refusal :=
  s.event (fun s => s.elFrame p f (.beacon (bcnOf f b)) (some pos))

/-- `CANDIDATE_EXPIRY` (R268). -/
def execCandidateExpiry (p : Fin 4) (s : State) : Host.Outcome State Fault Refusal := s.event (fun s => s.candidateExpiry p)

/-- `DELAY_REQ_SEND` (R277). -/
def execDelayReqSend (p : Fin 4) (s : State) : Host.Outcome State Fault Refusal := s.event (fun s => s.delayReqSend p)

/-- `DELAY_REQ_RECEIVE` (R277). -/
def execDelayReqReceive (p : Fin 4) (f : FrameHead) (ask : DelayAsk) (pos : Fin 64) (s : State) :
    Host.Outcome State Fault Refusal :=
  s.event (fun s => s.elFrame p f (.delayReq (ask.t3Ns.toNat * 64 + ask.t3Sub.toNat) ask.num.toNat) (some pos))

/-- `DELAY_RESP_RECEIVE` (R277). -/
def execDelayRespReceive (p : Fin 4) (f : FrameHead) (t4Ns : BitVec 64) (t4Sub : BitVec 6) (num : BitVec 8) (s : State) :
    Host.Outcome State Fault Refusal :=
  s.event (fun s => s.elFrame p f (.delayResp (t4Ns.toNat * 64 + t4Sub.toNat) num.toNat) none)

/-- `DELAY_TIMEOUT` (R277). -/
def execDelayTimeout (p : Fin 4) (s : State) : Host.Outcome State Fault Refusal := s.event (fun s => s.delayTimeout p)

/-- `JOIN_RECEIVE` (R272): only a CHILD port takes it. -/
def execJoinReceive (p : Fin 4) (f : FrameHead) (id : Fin 1024) (uid : BitVec 64) (s : State) : Host.Outcome State Fault Refusal :=
  s.event (fun s => s.elFrame p f (msgOf f (.join id uid.toNat)) none)

/-- `JOIN_RESEND` (R272). -/
def execJoinResend (s : State) : Host.Outcome State Fault Refusal := s.event State.joinResend

/-- `JOIN_ACK_RECEIVE` (R273). -/
def execJoinAckReceive (p : Fin 4) (f : FrameHead) (id : Fin 1024) (conflict : Bool) (uid : BitVec 64) (s : State) :
    Host.Outcome State Fault Refusal :=
  s.event (fun s => s.elFrame p f (msgOf f (.joinAck id conflict uid.toNat)) none)

/-- `LEAVE_RECEIVE` (R274). -/
def execLeaveReceive (p : Fin 4) (f : FrameHead) (ids : List (Fin 1024)) (s : State) : Host.Outcome State Fault Refusal :=
  s.event (fun s => s.elFrame p f (msgOf f (.leave (ids.map (fun (i : Fin 1024) => i.val)))) none)

/-- `APPLY_AT_FRAME` (R284). -/
def execApplyAtFrame (p : Fin 4) (f : FrameHead) (t : BitVec 64) (m : BitVec 8) (bseq : BitVec 16) (s : State) :
    Host.Outcome State Fault Refusal :=
  s.event (fun s => s.elFrame p f (msgOf f (.applyAt t.toNat m bseq.toNat)) none)

/-- `DOORBELL_FRAME` (R285). -/
def execDoorbellFrame (p : Fin 4) (f : FrameHead) (n : Fin 1024) (mid : BitVec 8) (s : State) : Host.Outcome State Fault Refusal :=
  s.event (fun s => s.elFrame p f (msgOf f (.doorbell n mid.toNat)) none)

/-- `MAILBOX_FRAME` (R285): LEN is the number of data bytes, and at most 32. -/
def execMailboxFrame (p : Fin 4) (f : FrameHead) (mid : BitVec 8) (data : List Byte) (s : State) : Host.Outcome State Fault Refusal :=
  s.event (fun s => s.elFrame p f (msgOf f (.mailbox mid.toNat data)) none)

/-- `DELIVERY_RECEIVE` (R286). -/
def execDeliveryReceive (p : Fin 4) (f : FrameHead) (mid : BitVec 8) (typ : BitVec 8) (refused : Bool) (s : State) :
    Host.Outcome State Fault Refusal :=
  s.event (fun s => s.elFrame p f (msgOf f (.delivery mid.toNat typ.toNat refused)) none)

/-- `MAILBOX_TIMEOUT` (R286). -/
def execMailboxTimeout (mid : BitVec 8) (s : State) : Host.Outcome State Fault Refusal := s.event (fun s => s.mailboxTimeout mid.toNat)

/-- `FRAME_SEND` (R266). -/
def execFrameSend (p : Fin 4) (s : State) : Host.Outcome State Fault Refusal := s.event (fun s => s.frameSend p)

/-- A ring command of an EWERLINK ring. Mark: DESIGN CHOICE, log entry 48. -/
def State.elExec (s : State) (n : Fin 64) (isRow : Nat → Bool) (f : State → Vector Word 8 → State) : State :=
  if s.rget (F.RINGn_CFG_CONS n) = 2 then s.ringExec n isRow f else s

/-- `DOORBELL` (R287). -/
def execDoorbell (n : Fin 64) (s : State) : Host.Outcome State Fault Refusal :=
  s.event (fun s => s.elExec n (fun op => op = 1) State.elDoorbell)

/-- `MAILBOX` (R287). -/
def execMailbox (n : Fin 64) (s : State) : Host.Outcome State Fault Refusal := s.event (fun s => s.elMailbox n)

/-- `MBOX_CONT` (R287). -/
def execMboxCont (n : Fin 64) (s : State) : Host.Outcome State Fault Refusal :=
  s.event (fun s => s.elExec n (fun op => op = 3) (fun s w => s.elDone w 0 4))

/-- `APPLY_AT` (R284). -/
def execApplyAt (n : Fin 64) (s : State) : Host.Outcome State Fault Refusal :=
  s.event (fun s => s.elExec n (fun op => op = 4) State.elApplyAt)

/-- `EL_ILLEGAL` (R287). -/
def execElIllegal (n : Fin 64) (s : State) : Host.Outcome State Fault Refusal :=
  s.event (fun s => s.elExec n (fun op => 5 ≤ op && op < 0x20) (fun s w => s.elDone w 0 7))

/-- `EL_NOP` (R291). -/
def execElNop (p : Path) (s : State) : Host.Outcome State Fault Refusal := s.hostAct p R.EL_CMD id

/-- `REJOIN` (R273): a locked EL domain refuses it (R319). -/
def execRejoin (p : Path) (s : State) : Host.Outcome State Fault Refusal :=
  s.hostAct p R.EL_CMD (fun s => s.lockedCommand p R.EL_CMD 7 1 State.elRejoin)

/-- `EL_CLRCNT` (R291). -/
def execElClrcnt (p : Path) (s : State) : Host.Outcome State Fault Refusal := s.hostAct p R.EL_CMD State.elClrCnt

/-- `EWERLINK_DISABLE` (R291): a write of `EL_CTRL` whose mask selects EN, with EN = 0. -/
def execEwerlinkDisable (p : Path) (v : Word) (s : State) : Host.Outcome State Fault Refusal :=
  s.hostAct p R.EL_CTRL (fun s => s.elCtrlWrite p ((v ||| 0x10000) &&& 0xFFFFFFFE))

/-- `PORT_DISABLE` (R291): a write of `EL_CTRL` that leaves EN alone. -/
def execPortDisable (p : Path) (v : Word) (s : State) : Host.Outcome State Fault Refusal :=
  s.hostAct p R.EL_CTRL (fun s => s.elCtrlWrite p (v &&& 0xFFFEFFFF))

end Sys2Proof.Machine
end

