-- ==== Sys2Proof/Machine/Lehr.lean ====
section
/-!
DEFINITION. The Lehr (R203 to R231): where a deadline is held, the image of the lists in memory, the commands, prefetch, cascade and
firing.
-/
namespace Sys2Proof.Machine
open Sys2Proof

def State.lhStandalone (s : State) : Bool := s.ron F.LH_CTRL_MODE

/-- The prefetch lead PF in windows (R206): a value written while EN = 1 counts from the next window boundary (R226). -/
def State.lhPF (s : State) : Nat := if s.lehr.pfAt ≤ s.lhNow then s.rget F.LH_CTRL_PF_LEAD + 1 else s.lehr.pfOld

/-- A write of PF_LEAD, under a mask of its two bits. -/
def State.lhPfWrite (s : State) (m v : Nat) : State :=
  let s1 := if s.ron F.LH_CTRL_EN then s.modLehr (fun l => { l with pfOld := s.lhPF, pfAt := (s.lhNow / 4096 + 1) * 4096 }) else s
  s1.rput F.LH_CTRL_PF_LEAD ((s.rget F.LH_CTRL_PF_LEAD &&& (3 - m)) ||| (v &&& m))

/-- Near entries that the near cache holds in host mode. -/
def nearSize : Nat := 65536

/-- The first window start that R206 has not yet required, in µs: for prefetch, and the end of the last window cascaded. -/
def State.lhFirstPB (s : State) : Nat := (s.lhNow / 4096 + s.lhPF + 1) * 4096
def State.lhFirstL1B (s : State) : Nat := ((s.lhNow + s.rget F.LH_CASC_LEAD * 4096) / 2 ^ 24 + 1) * 2 ^ 24

/-! ### The lists -/

/-- Every entry held, with its place: 0 near, 1 level 1, 2 level 2, 3 far (as LEHR_DONE codes them). -/
def State.lhAll (s : State) : List (Nat × LhEnt) :=
  s.lehr.near.map (fun e => (0, e)) ++ s.lehr.slots.map (fun x => (if x.1 then 2 else 1, x.2)) ++ s.lehr.far.map (fun e => (3, e))

def State.lhFind (s : State) (h : Nat) : Option (Nat × LhEnt) := s.lhAll.find? (fun x => decide (x.2.h = h))

/-- Slot of an entry at level 1 or 2 (R206). -/
def lhSlot (two : Bool) (e : LhEnt) : Nat := ((if two then e.dl / 2 ^ 24 else e.dl / 2 ^ 12) % 4096).toNat

/-- The list that holds a level-1 or level-2 slot, first entry first. -/
def State.lhSlotList (s : State) (two : Bool) (k : Nat) : List LhEnt :=
  (s.lehr.slots.filter (fun x => x.1 = two && decide (lhSlot two x.2 = k))).map Prod.snd

/-- The stored deadline (R203). -/
def dl40 (dl : Int) : Nat := (dl % (2 ^ 40 : Nat)).toNat

/-! ### The image in memory (R210, R211, R225) -/

/-- The Lehr meets an error on an access to host memory, or its traffic is stopped (R228, R299). Mark: DESIGN CHOICE, log entry 81. -/
def State.lhHosterr (s : State) : State :=
  if s.ron F.LH_CTRL_EN ∧ ¬ s.lhStandalone ∧ ¬ s.ron F.LH_STAT_HOSTERR then
    ((s.rput F.LH_STAT_HOSTERR 1).evt F.LH_EVT_HOSTERR_S).lhState 4 0 0
  else s

/-- The Lehr's host-memory traffic finds the host path closed (R228, R299). Mark: DESIGN CHOICE, log entry 49. -/
def State.lhClosed (s : State) : Bool := !s.lhStandalone && !s.hostOpen

/-- The Lehr's turn at the host DMA engine (R10, R217): the record writer and the command-ring fetcher ask for nothing. -/
def State.lhServed (s : State) : Bool := s.lhStandalone || (!s.writerAsks && !s.fetcherAsks)

/-- Write words at a byte offset of the pool or of a head array: in host memory from a base, or in the SRAM. -/
def State.lhStore (s : State) (standalone : Nat) (lo hi ofs : Nat) (ws : List Word) : State :=
  if s.lhStandalone then s.sramWr (standalone + ofs) ws
  else if s.ron F.LH_STAT_HOSTERR then s
  else if ¬ s.hostOpen then s.lhHosterr
  else s.hostWr ((s.reg lo).toNat + 2 ^ 32 * (s.reg hi).toNat + ofs) ws

def State.lhPool (s : State) (ofs : Nat) (ws : List Word) : State := s.lhStore 0x80000 R.LH_POOL_LO R.LH_POOL_HI ofs ws

def State.lhHead (s : State) (two : Bool) (k : Nat) (w : Word) : State :=
  let gp := (s.reg R.LH_GPOFS).toNat
  if two then s.lhStore (gp + 16384) R.LH_L2_LO R.LH_L2_HI (4 * k) [w] else s.lhStore gp R.LH_L1_LO R.LH_L1_HI (4 * k) [w]

/-- Word 3 of a pool entry. Mark: DEDUCED, log entry 55. -/
def lhWord3 (prev dest st : Nat) (far : Bool) : Word := word (prev + 2 ^ 23 * dest + 2 ^ 29 * st + 2 ^ 31 * b2n far)

/-- The neighbours of a handle in a list: the entry before it and the entry after it. -/
def neighbours (h : Nat) : Option Nat → List LhEnt → Option Nat × Option Nat
  | _, [] => (none, none)
  | p, e :: es => if e.h = h then (p, es.head?.map LhEnt.h) else neighbours h (some e.h) es

/-- Write words 1 and 3 of the pool entry of a handle in a list (R210). Mark: DEDUCED, log entry 55. -/
def State.lhLinks (s : State) (l : List LhEnt) (st : Nat) (far : Bool) (h : Nat) : State :=
  match l.find? (fun e => decide (e.h = h)) with
  | none => s
  | some e =>
    let (p, n) := neighbours h none l
    (s.lhPool (16 * h + 4) [word (n.getD h + 2 ^ 24 * (dl40 e.dl / 2 ^ 32))]).lhPool (16 * h + 12) [lhWord3 (p.getD h) e.dest st far]

/-- Rewrite the links of some handles of a slot, and its head (R211). -/
def State.lhSlotSync (s : State) (two : Bool) (k : Nat) (hs : List Nat) : State :=
  let l := s.lhSlotList two k
  (hs.foldl (fun s h => s.lhLinks l (if two then 2 else 1) false h) s).lhHead two k
    (match l with | [] => 0 | e :: _ => word (e.h + 2 ^ 31))

/-- Rewrite the links of some handles of the far list. -/
def State.lhFarSync (s : State) (hs : List Nat) : State := hs.foldl (fun s h => s.lhLinks s.lehr.far 2 true h) s

/-- Word 3 of the pool entry of an entry that is in the near cache (R219). Mark: DEDUCED, log entry 55. -/
def State.lhNearSync (s : State) (e : LhEnt) : State := s.lhPool (16 * e.h + 12) [lhWord3 e.idx e.dest 3 false]

/-- Words 0 to 2 of an entry that a command has given its deadline: it links to itself until it is linked. -/
def State.lhBody (s : State) (e : LhEnt) : State :=
  s.lhPool (16 * e.h) [word (dl40 e.dl), word (e.h + 2 ^ 24 * (dl40 e.dl / 2 ^ 32)), e.tag]

/-- Mark a pool entry FREE (R214, R222). -/
def State.lhFree (s : State) (e : LhEnt) : State := s.lhPool (16 * e.h + 12) [lhWord3 e.h e.dest 0 false]

/-! ### Placement (R207) -/

/-- The place of a deadline under the present boundaries: an overdue one lies near. -/
def State.lhPlaceOf (s : State) (dl : Int) : Nat :=
  if dl < s.lehr.pb ∨ dl < (s.lhNow : Int) then 0 else if dl < s.lehr.l1b then 1 else if dl < s.lehr.l1b + 4095 * 2 ^ 24 then 2 else 3

/-- Insert into the far list: ascending DL, equal ones in insertion order (R211). -/
def farInsert (e : LhEnt) : List LhEnt → List LhEnt
  | [] => [e]
  | x :: xs => if e.dl < x.dl then e :: x :: xs else x :: farInsert e xs

/-- The near cache has room: in host mode it holds 65,536 entries; in standalone mode it is the pool (R220, R225). -/
def State.nearRoom (s : State) : Bool := s.lhStandalone || decide (s.lehr.near.length < nearSize)

/-- The near cache of the host mode is full (R220): reported once until an entry leaves it. -/
def State.lhNearFull (s : State) : State :=
  if s.lehr.nearFull ∨ s.nearRoom then s
  else ((s.modLehr (fun l => { l with nearFull := true })).evt F.LH_EVT_NEAR_FULL_S).lhState 1 (word s.lehr.near.length) 0

/-- Put an entry into the near cache. Its index is its handle in standalone mode, and internal in host mode (R212, R225). Mark: DESIGN CHOICE, log entry 20. -/
def State.lhToNear (s : State) (e : LhEnt) : State :=
  let e1 := { e with idx := if s.lhStandalone then e.h else (Config.nearIndex s.free).toNat }
  ((s.drawn.modLehr (fun l => { l with near := l.near ++ [e1] })).lhNearSync e1).lhNearFull

/-- Put an entry at the head of its slot list, and link it. -/
def State.lhToSlot (s : State) (two : Bool) (e : LhEnt) : State :=
  let k := lhSlot two e
  let nb := ((s.lhSlotList two k).head?.map (fun x => [x.h])).getD []
  (s.modLehr (fun l => { l with slots := (two, e) :: l.slots })).lhSlotSync two k (e.h :: nb)

/-- Put an entry into the far list, and link it. -/
def State.lhToFar (s : State) (e : LhEnt) : State :=
  let s1 := s.modLehr (fun l => { l with far := farInsert e l.far })
  let (p, n) := neighbours e.h none s1.lehr.far
  s1.lhFarSync (p.toList ++ [e.h] ++ n.toList)

/-- Place an entry (R207). -/
def State.lhPut (s : State) (e : LhEnt) : State :=
  match s.lhPlaceOf e.dl with
  | 0 => s.lhToNear e
  | 1 => s.lhToSlot false e
  | 2 => s.lhToSlot true e
  | _ => s.lhToFar e

/-- Take an entry out of its list, and mend the links around it (R214). -/
def State.lhOut (s : State) (place : Nat) (e : LhEnt) : State :=
  match place with
  | 0 => s.modLehr (fun l => { l with near := l.near.filter (fun x => decide (x.h ≠ e.h)) })
  | 3 =>
    let (p, n) := neighbours e.h none s.lehr.far
    (s.modLehr (fun l => { l with far := l.far.filter (fun x => decide (x.h ≠ e.h)) })).lhFarSync (p.toList ++ n.toList)
  | _ =>
    let two := decide (place = 2)
    let k := lhSlot two e
    let (p, n) := neighbours e.h none (s.lhSlotList two k)
    (s.modLehr (fun l => { l with slots := l.slots.filter (fun x => decide (x.2.h ≠ e.h)) })).lhSlotSync two k (p.toList ++ n.toList)

/-! ### Reports (R230) -/

/-- An entry that an ECC error discarded from the near cache, by its handle (R228). -/
def State.lhLost (s : State) (h : Nat) : Option LhEnt := s.lehr.lost.find? (fun e => decide (e.h = h))

/-- A command has named a handle: if its entry was lost, the Lehr knows it from now on. -/
def State.lhFound (s : State) (h : Nat) : State := s.modLehr (fun l => { l with lost := l.lost.filter (fun e => decide (e.h ≠ h)) })

/-- An entry has left the near cache. -/
def State.lhNearLeft (s : State) : State := s.modLehr (fun l => { l with nearFull := false })

/-! ### Commands (R213 to R218) -/

/-- The fields of a command (R213). -/
def lhHandle (w : Vector Word 8) : Nat := wfld w[1] 0 23
def lhDest (w : Vector Word 8) : Nat := wfld w[1] 23 6

/-- The signed distance of a 40-bit deadline from N, over −2^39 < δ ≤ 2^39 (R203). -/
def State.lhDelta (s : State) (d : Nat) : Int :=
  let r : Nat := (d + 2 ^ 40 - s.lhNow % 2 ^ 40) % 2 ^ 40
  if r ≤ 2 ^ 39 then (r : Int) else (r : Int) - 2 ^ 40

/-- The 40-bit deadline that an ARM or MOVE names (R213). -/
def State.lhCmdDl (s : State) (w : Vector Word 8) : Nat :=
  let f := w[2].toNat + 2 ^ 32 * wfld w[3] 0 8
  if nbit w[1].toNat 30 then (s.lhNow + f) % 2 ^ 40 else f

/-- A descriptor that an ARM may name (R215). -/
def State.lhDestOk (s : State) (d : Nat) : Bool :=
  (s.ron (F.LH_DESTd_RING_EN d) || s.ron (F.LH_DESTd_WAKE_EN d)) &&
    !(s.ron (F.LH_DESTd_RING_EN d) && s.ron (F.RINGn_CFG_DIR (s.rget (F.LH_DESTd_RING d))))

/-- LEHR_DONE (R215, R230), and the count of a refusal. -/
def State.lhDone (s : State) (n : Nat) (w : Vector Word 8) (result dl place : Nat) : State :=
  let s1 := if result = 0 then s else (s.rsat F.LH_ERRCNT_CMD 1).evt F.LH_EVT_CMD_ERR_S
  if result ≠ 0 ∨ nbit w[1].toNat 29 then
    s1.emit 0x15 102 s1.now 0 (word (cmdSeq w + 65536 * cmdOp w + 2 ^ 22 * result)) (word (lhHandle w + 2 ^ 23 * n)) (word dl)
      (word (dl / 2 ^ 32 + 256 * place))
  else s1

/-- The result of an ARM, CANCEL or MOVE, as far as no entry changes (R215). Mark: DEDUCED, log entry 53. -/
def State.lhJudge (s : State) (w : Vector Word 8) : Nat :=
  let h := lhHandle w
  let op := cmdOp w
  let limit := if s.lhStandalone then 65536 else 2 ^ s.rget F.LH_POOL_SZ_LOG2
  if limit ≤ h then 2
  else if op = 1 ∧ s.lhStandalone ∧ 65536 ≤ s.lhAll.length then 6
  else
    match s.lhFind h with
    | none =>
      if op ≠ 1 then 3
      else if s.lhDelta (s.lhCmdDl w) = 2 ^ 39 then 2
      else if s.lhDestOk (lhDest w) then 0 else 5
    | some (_, e) =>
      if op = 1 then 1
      else if nbit w[1].toNat 31 ∧ e.tag ≠ w[4] then 4
      else if op = 3 ∧ s.lhDelta (s.lhCmdDl w) = 2 ^ 39 then 2
      else 0

/-- The full deadline that a command gives. -/
def State.lhNewDl (s : State) (w : Vector Word 8) : Int := (s.lhNow : Int) + s.lhDelta (s.lhCmdDl w)

/-- An ARM or MOVE that would place its entry in a full near cache (R218). -/
def State.lhStalls (s : State) (w : Vector Word 8) : Bool :=
  s.lhPlaceOf (s.lhNewDl w) = 0 && !s.nearRoom &&
    (match s.lhFind (lhHandle w) with | some (0, _) => false | _ => true)

/-- Prefetch, cascade and the stalled command wait while a host error stands (R228). -/
def State.lhWaits (s : State) : Bool := !s.lhStandalone && s.ron F.LH_STAT_HOSTERR

/-- The effect of an ARM, CANCEL or MOVE that is not refused (R214). -/
def State.lhAct (s : State) (w : Vector Word 8) : State :=
  let h := lhHandle w
  match s.lhFind h with
  | none =>
    let e : LhEnt := ⟨h, s.lhNewDl w, w[4], lhDest w, 0, false⟩
    ((s.lhFound h).lhBody e).lhPut e
  | some (place, e) =>
    let s1 := s.lhOut place e
    let s2 := if place = 0 then s1.lhNearLeft else s1
    if cmdOp w = 3 then
      let e1 := { e with dl := s.lhNewDl w, step := false }
      (s2.lhBody e1).lhPut e1
    else s2.lhFree e

/-- A CANCEL or MOVE that finds the near entry of its handle lost writes ST = FREE (R228). Mark: DESIGN CHOICE, log entry 83. -/
def State.lhRefuse (s : State) (w : Vector Word 8) (result : Nat) : State :=
  match s.lhLost (lhHandle w) with
  | some e => if result = 3 then (s.lhFound e.h).lhFree e else s
  | none => s

/-- Execute an ARM, CANCEL or MOVE (R214, R215). -/
def State.lhExecute (s : State) (n : Nat) (w : Vector Word 8) : State :=
  let r := s.lhJudge w
  let dl := if cmdOp w = 2 then ((s.lhFind (lhHandle w)).map (fun x => dl40 x.2.dl)).getD 0 else s.lhCmdDl w
  let place := if r = 0 then
      (if cmdOp w = 2 then ((s.lhFind (lhHandle w)).map Prod.fst).getD 0 else s.lhPlaceOf (s.lhNewDl w)) else 0
  if r = 0 then (s.lhAct w).lhDone n w 0 dl place else (s.lhRefuse w r).lhDone n w r dl place

/-- The front command of a LEHR ring, if it is an ARM, CANCEL or MOVE of the row: it waits for host memory (R10, R228) or for near space
(R218), or executes. Mark: DESIGN CHOICE, log entry 48. -/
def State.lhCommand (s : State) (n : Fin 64) (op : Nat) : State :=
  match s.ringFront n with
  | some w =>
    if cmdOp w = op ∧ s.rget (F.RINGn_CFG_CONS n) = 1 then
      if s.lhNeedsHost w ∧ (s.lhWaits ∨ ¬ s.lhServed) then s
      else if s.lhNeedsHost w ∧ s.lhClosed then s.lhHosterr
      else if op ≠ 2 ∧ s.lhJudge w = 0 ∧ s.lhStalls w then
        ((s.rput F.LH_STAT_STALL 1).rsat F.LH_PFCNT_STALLS 1).modLehr (fun l => { l with stall := some n.val })
      else ((s.ringPop n).lhExecute n w).ringSkips n 65536
    else s
  | none => s

/-- A stalled command resumes once the near cache has room (R218). -/
def State.lhResume (s : State) : State :=
  match s.lehr.stall with
  | some n =>
    if s.ron F.LH_CTRL_EN ∧ s.nearRoom ∧ ¬ s.lhWaits ∧ s.lhServed then
      let s1 := (s.rput F.LH_STAT_STALL 0).modLehr (fun l => { l with stall := none })
      if h : n < 64 then
        match s1.rings[n].fetched with
        | some w :: _ => ((s1.ringPop ⟨n, h⟩).lhExecute n w).ringSkips ⟨n, h⟩ 65536
        | _ => s1
      else s1
    else s
  | none => s

/-! ### Prefetch and cascade (R206, R208, R220) -/

/-- Move entries of a level-1 or level-2 slot to where `near` says they belong, in list order, while the near cache has room.
The second component says whether all moved. -/
def State.lhMoveAll (s : State) (two : Bool) (near : LhEnt → Bool) : List LhEnt → State × Bool
  | [] => (s, true)
  | e :: es =>
    if near e ∧ ¬ s.nearRoom then (s, false)
    else
      let s1 := s.lhOut (if two then 2 else 1) e
      (if near e then s1.lhToNear e else s1.lhToSlot false e).lhMoveAll two near es

/-- R206 requires the prefetch of the window at PB, the cascade of the window at L1B. -/
def State.lhPfDue (s : State) : Bool := decide (s.lehr.pb ≤ s.lhNow + s.lhPF * 4096)
def State.lhCascDue (s : State) : Bool := decide (s.lehr.l1b ≤ s.lhNow + s.rget F.LH_CASC_LEAD * 4096)

/-- Prefetch the window at PB, if R206 requires it; a cascade that is required and lies no later in time comes first (R205). -/
def State.lhPrefetch (s : State) : State :=
  let k := s.lehr.pb / 4096
  if s.ron F.LH_CTRL_EN ∧ s.lhPfDue ∧ ¬ (s.lhCascDue ∧ s.lehr.l1b ≤ s.lehr.pb) ∧ ¬ s.lhWaits ∧ s.lhServed then
    if s.lhClosed then s.lhHosterr else
    let es := (s.lhSlotList false (k % 4096)).filter (fun (e : LhEnt) => decide (e.dl < (((k + 1) * 4096 : Nat) : Int)))
    let (s1, all) := s.lhMoveAll false (fun _ => true) es
    if all then s1.modLehr (fun l => { l with pb := (k + 1) * 4096 }) else s1
  else s

/-- Far-list entries from its head that now fall within the level-2 range move to level 2 (R208), those that a step has made overdue among
them: they come to the near cache with the cascade of their window, in time order (R205). Mark: DEDUCED, log entry 113. -/
def State.lhMigrate (s : State) : List LhEnt → State
  | [] => s
  | e :: es => if e.dl < s.lehr.l1b + 4095 * 2 ^ 24 then ((s.lhOut 3 e).lhToSlot true e).lhMigrate es else s

/-- A step has skipped the level-1 window at PB, and it lies before the level-2 window at L1B: it is prefetched first (R205), as long as the
near cache has room, or L1B too has been skipped. Mark: DEDUCED, log entry 113. -/
def State.lhSkipped (s : State) : Bool :=
  s.lhPfDue && decide (s.lehr.pb < s.lehr.l1b) && (decide (s.lehr.l1b ≤ s.lhNow) || (decide (s.lehr.pb ≤ s.lhNow) && s.nearRoom))

/-- Cascade the window at L1B, if R206 requires it; it waits for the prefetch of earlier windows that a step has skipped (R205). When it
completes, the far list is looked at (R208). Mark: DEDUCED, log entry 113. -/
def State.lhCascade (s : State) : State :=
  let j := s.lehr.l1b / 2 ^ 24
  if s.ron F.LH_CTRL_EN ∧ s.lhCascDue ∧ ¬ s.lhSkipped ∧ ¬ s.lhWaits ∧ s.lhServed then
    if s.lhClosed then s.lhHosterr else
    let (s1, all) := s.lhMoveAll true (fun e => decide (s.lhPlaceOf e.dl = 0)) (s.lhSlotList true (j % 4096))
    if all then
      let s2 := s1.modLehr (fun l => { l with l1b := (j + 1) * 2 ^ 24 })
      s2.lhMigrate s2.lehr.far
    else s1
  else s

/-! ### Firing (R221 to R224) -/

/-- The near entries that may fire next: due, and of the least deadline (R204, R221). -/
def State.lhDue (s : State) : List LhEnt :=
  let due := s.lehr.near.filter (fun e => decide (e.dl ≤ (s.lhNow : Int)))
  match (due.map LhEnt.dl).min? with
  | some m => due.filter (fun e => decide (e.dl = m))
  | none => []

/-- Hand a LEHR_FIRE to its ring (R223, R224). Of a disabled event ring too, the record is numbered and refused, as R223 says; one for a
ring that is no event ring is discarded (R224, R235). Mark: DEDUCED, log entry 56. -/
def State.lhRecord (s : State) (e : LhEnt) (late : Nat) : State :=
  if s.ron (F.LH_DESTd_RING_EN e.dest) then
    let n := s.rget (F.LH_DESTd_RING e.dest)
    if s.ron (F.RINGn_CFG_DIR n) then (((s.rsat F.EC_DISCARD_CNT 1).ecEvt F.EC_EVT_UNROUTED_S).rsat F.LH_ERRCNT_DEST 1).lhState 3 (word e.h) 0
    else
      let q := s.nextSeq 102
      { s with
        recq := s.recq ++ [⟨0x14, 102, q, s.now, flLate * b2n (decide (1000 ≤ late)) + flStep * b2n e.step + flTrunc * b2n (decide (2 ^ 32 ≤ late)) + s.coarseFlag, e.tag,
          word (e.h + 2 ^ 23 * e.dest), word (dl40 e.dl), word (min late (2 ^ 32 - 1)), n⟩]
        seqs := tblSet (fun _ => 0) s.seqs 102 ((q + 1) % 65536) }
  else s

/-- The largest lateness is kept; a write of the tick does not clear what hardware has set (R222, R307). -/
def State.lhMaxLate (s : State) (late : Nat) : State :=
  if s.rget F.LH_MAXLATE_NS < late then
    { s.rput F.LH_MAXLATE_NS late with hif := { s.hif with evSet := tblSet (fun _ => (0 : Word)) s.hif.evSet R.LH_MAXLATE (word late) } }
  else s

/-- Fire an entry (R222). -/
def State.lhFire (s : State) (e : LhEnt) : State :=
  let s1 := ((s.lhOut 0 e).lhNearLeft).lhFree e
  let d := e.dest
  let s2 := if s1.ron (F.LH_DESTd_WAKE_EN d) then
      s1.wake ⟨s1.rget (F.LH_DESTd_GAFFER d) % 8, Nat.mod_lt _ (by decide)⟩ ⟨s1.rget (F.LH_DESTd_THREAD d) % 16, Nat.mod_lt _ (by decide)⟩ 7
    else s1
  let late := (((s.now : Int) - e.dl * 64000) / 64).toNat
  let s3 := (s2.lhRecord e late).rwrap F.LH_FIRE_CNT_FIRED 1
  let s4 := if 1000 ≤ late then (s3.rwrap F.LH_LATE_CNT_LATE 1).evt F.LH_EVT_FIRE_LATE_S else s3
  s4.lhMaxLate (min late (2 ^ 32 - 1))

/-- A near entry that an uncorrectable ECC error discards (R228, R371): its deadline does not fire, and its pool entry stays marked NEAR. Mark: DESIGN CHOICE, log entry 83. -/
def State.lhLose (s : State) (e : LhEnt) : State :=
  let s1 := ((s.lhOut 0 e).lhNearLeft).modLehr (fun l => { l with lost := e :: l.lost })
  (s1.eccRead .bad (0x80000 + 16 * e.idx) 4).lhState 5 (word e.idx) 0

/-- One deadline fires: among those of one DL, the free value picks; `ecc` is what ECC finds in its near entry. A deadline with a record
waits while the record writer is at its ceiling (R25, R223). Mark: DESIGN CHOICE, log entry 19. -/
def State.lhFireNext (s : State) (ecc : Ecc) : State :=
  if s.ron F.LH_CTRL_EN ∧ s.spine.hold = none then
    match s.lhDue with
    | [] => s
    | e :: es =>
      let x := (e :: es).getD (Config.fireFirst s.free % (es.length + 1)) e
      if ecc = .bad then s.drawn.lhLose x
      else if s.ron (F.LH_DESTd_RING_EN x.dest) ∧ s.atCeil then s
      else (s.drawn.eccRead ecc (0x80000 + 16 * x.idx) 4).lhFire x
  else s

/-! ### Enabling and disabling (R209, R225 to R228) -/

/-- EN changes from 0 to 1. In standalone mode the pool and the head arrays are zeroed. -/
def State.lhOn (s : State) : State :=
  let s1 := ((s.rput F.LH_CTRL_EN 1).rput F.LH_STAT_RUN 1).modLehr (fun l => { l with pfOld := 0, pfAt := 0 })
  let s2 := s1.modLehr (fun l => { l with
    near := [], slots := [], far := [], lost := [], pb := s1.lhFirstPB, l1b := s1.lhFirstL1B, stall := none, nearFull := false,
    lateFrom := s1.lhFirstPB / 4096 })
  if s2.lhStandalone then
    let gp := (s2.reg R.LH_GPOFS).toNat
    { s2 with sram := s2.sram.filter (fun b => !(decide (0x80000 ≤ b.1 ∧ b.1 < 0x180000)) && !(decide (gp ≤ b.1 ∧ b.1 < gp + 32768))) }
  else s2

/-- A fetched entry that is a Lehr command. -/
def isLehrCmd : CmdWords → Bool
  | some w => decide (cmdOp w < 0x20)
  | none => false

/-- The Lehr commands that a LEHR ring has fetched complete with DISABLED; its ring-level commands wait (R227). Mark: DEDUCED, log entry 52. -/
def State.lhDrain (s : State) (n : Fin 64) : State :=
  let s1 := s.rings[n].fetched.foldl (fun (s : State) c =>
    match c with | some w => if cmdOp w < 0x20 then s.lhDone n w 8 0 0 else s | none => s) s
  (s1.modRing n (fun x => { x with fetched := x.fetched.filter (fun c => !isLehrCmd c) })).ringSkips n 65536

/-- EN changes from 1 to 0 (R226, R227): the on-chip state is cleared, the command rings' turn apart. -/
def State.lhOff (s : State) : State :=
  let s1 := ((((s.rput F.LH_CTRL_EN 0).rput F.LH_STAT_RUN 0).rput F.LH_STAT_STALL 0).rput F.LH_STAT_HOSTERR 0).modLehr (fun l =>
    { Lehr.reset with turn := l.turn })
  let s2 := (List.finRange 64).foldl (fun (s : State) (n : Fin 64) =>
    if s.rget (F.RINGn_CFG_CONS n) = 1 then s.lhDrain n else s) s1
  s2.lhState 6 (word s.lhAll.length) 0

/-- A masked write of `LH_CTRL` (R226, R319): MODE changes only while EN = 0, and then before EN is set. -/
def State.lhCtrlWrite (s : State) (p : Path) (v : Word) : State :=
  s.cfgWrite R.LH_CTRL (fun s =>
    let m := wfld v 16 16
    let en := s.ron F.LH_CTRL_EN
    let s := if nbit m 1 ∧ en then s.evt F.LH_EVT_CFG_ERR_S else s
    let s1 := if s.locked 6 ∧ m &&& 0xE ≠ 0 then s.lockViolation p R.LH_CTRL v (2 ^ 6) false
      else
        let s0 := if nbit m 1 ∧ ¬ en then s.rput F.LH_CTRL_MODE (wfld v 1 1) else s
        if m &&& 0xC = 0 then s0 else s0.lhPfWrite (m / 4 % 4) (wfld v 2 2)
    if nbit m 0 then
      (if nbit v.toNat 0 then (if en then s1 else s1.lhOn) else (if en then s1.lhOff else s1))
    else s1)

/-! ### Rows -/

/-- `LEHR_NOP` (R214). -/
def execLehrNop (n : Fin 64) (s : State) : Host.Outcome State Fault Refusal :=
  s.event (fun s => if s.rget (F.RINGn_CFG_CONS n) = 1 then s.ringExec n (fun op => op = 0) (fun s w => s.lhDone n w 0 (s.lhCmdDl w) 0) else s)

/-- `ARM` (R214). -/
def execArm (n : Fin 64) (s : State) : Host.Outcome State Fault Refusal := s.event (fun s => s.lhCommand n 1)

/-- `CANCEL` (R214). -/
def execCancel (n : Fin 64) (s : State) : Host.Outcome State Fault Refusal := s.event (fun s => s.lhCommand n 2)

/-- `MOVE` (R214). -/
def execMove (n : Fin 64) (s : State) : Host.Outcome State Fault Refusal := s.event (fun s => s.lhCommand n 3)

/-- `LEHR_ILLEGAL` (R215). -/
def execLehrIllegal (n : Fin 64) (s : State) : Host.Outcome State Fault Refusal :=
  s.event (fun s => if s.rget (F.RINGn_CFG_CONS n) = 1 then
    s.ringExec n (fun op => 4 ≤ op && op < 0x20) (fun s w => s.lhDone n w 7 0 0) else s)

/-- `STALL_RESUME` (R218). -/
def execStallResume (s : State) : Host.Outcome State Fault Refusal := s.event State.lhResume

/-- `PREFETCH` (R206). -/
def execPrefetch (s : State) : Host.Outcome State Fault Refusal := s.event State.lhPrefetch

/-- `CASCADE` (R208). -/
def execCascade (s : State) : Host.Outcome State Fault Refusal := s.event State.lhCascade

/-- `DEADLINE_FIRE` (R222). -/
def execDeadlineFire (ecc : Ecc) (s : State) : Host.Outcome State Fault Refusal := s.event (fun s => s.lhFireNext ecc)

/-- `LEHR_ENABLE` (R209): a write of `LH_CTRL` whose mask selects EN, with EN = 1. -/
def execLehrEnable (p : Path) (v : Word) (s : State) : Host.Outcome State Fault Refusal :=
  s.hostAct p R.LH_CTRL (fun s => s.lhCtrlWrite p (v ||| 0x10001))

/-- `LEHR_DISABLE` (R226): a write of `LH_CTRL` whose mask selects EN, with EN = 0. -/
def execLehrDisable (p : Path) (v : Word) (s : State) : Host.Outcome State Fault Refusal :=
  s.hostAct p R.LH_CTRL (fun s => s.lhCtrlWrite p ((v ||| 0x10000) &&& 0xFFFFFFFE))

/-- `LEHR_HOSTERR` (R228). -/
def execLehrHosterr (s : State) : Host.Outcome State Fault Refusal := s.event State.lhHosterr

end Sys2Proof.Machine
end

