-- ==== Sys2Proof/Machine/RegRead.lean ====
section
/-!
DEFINITION. The address space (R292 to R295), what each register reads as, and the copies that RL reads leave (R309). The register
file holds most registers; the words below add the fields that the blocks' own state holds.
-/
namespace Sys2Proof.Machine
open Sys2Proof

/-! ### The address space (R292 to R294) -/

/-- Where an address leads: a named register, an unnamed offset that acts as its block's status register, a word that reads 0, word
i of a microword, a byte offset of the SRAM, MRAM or MSI-X range, or nothing. -/
inductive Site where
  | reg (o : Nat)
  | status (o : Nat)
  | blank
  | micro (e w i : Nat)
  | sram (a : Nat)
  | mram (a : Nat)
  | msix (a : Nat)
  | unmapped
  deriving DecidableEq, Repr

/-- The status register of the page at a base offset (R53, R118, R152, R184, R202, R231, R258, R290, R328, R329, R350, R383 to R386). -/
def pageStatus (base : Nat) : Nat :=
  if base = 0x6000 then base
  else if 0x10000 ≤ base ∧ base < 0x14000 then base + 8
  else base + 4

/-- An offset of a partially decoded page (R294). -/
def partialSite (base a : Nat) : Site :=
  let o := base + a % 0x400 / 4 * 4
  if (descAt o).isSome then .reg o else .status (pageStatus base)

/-- An offset of a fully decoded block (R84, R259). -/
def fullSite (o : Nat) : Site := if (descAt o).isSome then .reg (o / 4 * 4) else .blank

/-- Where an offset of the control-store windows leads (R149). -/
def csSite (a : Nat) : Site :=
  let e := (a - 0x400000) / 0x20000
  let r := (a - 0x400000) % 0x20000
  if r < 0x10000 then (if r % 0x20 / 4 < 5 then .micro e (r / 0x20) (r % 0x20 / 4) else .blank)
  else if r < 0x11000 then partialSite (0x410000 + e * 0x20000) (r % 0x1000)
  else .unmapped

/-- Where an address of a host path leads. -/
def siteOf (p : Path) (a0 : Nat) : Site :=
  let a := a0 / 4 * 4
  if a < 0xA000 then partialSite (a / 0x1000 * 0x1000) (a % 0x1000)
  else if a < 0xF000 then .unmapped
  else if a < 0x10000 then (match p with | .pcie => .msix (a - 0xF000) | .spi => .unmapped)
  else if a < 0x14000 then partialSite (a / 0x1000 * 0x1000) (a % 0x1000)
  else if a < 0x18000 then .unmapped
  else if a < 0x19000 then partialSite 0x18000 (a % 0x1000)
  else if a < 0x20000 then .unmapped
  else if a < 0x30000 then partialSite 0x20000 (a % 0x1000)
  else if a < 0x40000 then fullSite (0x30000 + a % 0x1000)
  else if a < 0x48000 then partialSite (a / 0x1000 * 0x1000) (a % 0x1000)
  else if a < 0x100000 then .unmapped
  else if a < 0x118000 then fullSite a
  else if a < 0x400000 then .unmapped
  else if a < 0x500000 then csSite a
  else if a < 0x1000000 then .unmapped
  else if a < 0x1400000 then .sram (a - 0x1000000)
  else if a < 0x2000000 then .unmapped
  else if a < 0x2080000 then .mram (a - 0x2000000)
  else .unmapped

/-! ### Live fields, block by block -/

/-- A one-bit field at bit i. -/
def bitAt (i : Nat) (b : Bool) : Nat := if b then 2 ^ i else 0

/-- The spine block (chapter 02). A time read answers the time of the present tick: its age is 0 (R11). Mark: DESIGN CHOICE, log entry 8; DESIGN CHOICE, log entry 95. -/
def State.spineWord (s : State) (o : Nat) : Word :=
  if o = R.SPN_STAT then
    s.reg o ||| word (bitAt 2 s.holding + bitAt 3 s.spine.slew.isSome + bitAt 4 s.spine.pend.isSome + bitAt 5 s.servoOwns)
  else if o = R.SPN_NOW_LO then word s.nowNs
  else if o = R.SPN_NOW_HI then word (s.nowNs / 2 ^ 32)
  else if o = R.SPN_NOW_SUB then word (tSub s.now)
  else if o = R.SPN_RATE_EFF then iword s.rateEff
  else if o = R.SPN_SLEW_REM then (match s.spine.slew with | some l => iword (l.left / 2 ^ 40) | none => 0)
  else if o = R.SPN_SLEW_REM_SUB then (match s.spine.slew with | some l => iword (l.left / 2 ^ 34 % 64) | none => 0)
  else if o = R.SPN_PPSI_LO then word (tNs s.spine.ppsIn)
  else if o = R.SPN_PPSI_HI then word (tNs s.spine.ppsIn / 2 ^ 32)
  else if o = R.SPN_PPSI_SUB then s.reg o ||| word (tSub s.spine.ppsIn)
  else if R.SPN_BANKCALb 0 ≤ o ∧ o < R.SPN_BANKCALb 12 ∧ wfld (s.reg o) 24 1 = 0 then
    word ((s.reg o).toNat / 2 ^ 16 * 2 ^ 16 + s.otpV (0x3D0 + (o - R.SPN_BANKCALb 0) / 4) % 2 ^ 16)
  else s.reg o

/-- `CHc_CAPk_STAT` but for its copied fields (R75). -/
def State.capStat (s : State) (c : Fin 96) (k : Bool) : Word :=
  s.reg (R.CHc_CAPk_STAT c (kNat k)) ||| word (bitAt 8 ((capOf s.ch[c] k).s2.isSome) + bitAt 9 (!s.capConsumed c k))

/-- The image that a host reads: in the tick of a SNAP the one before it, as the SNAP image is the newer one (R147). -/
def State.imgShown (s : State) (c : Fin 96) : Option Image :=
  match s.ch[c].img with
  | some g => if g.tick = s.spine.tick ∧ g.cause &&& causeSnap ≠ 0 then s.ch[c].imgOld else some g
  | none => none

/-- The words of a counter image (R80, R81): IMG, IMGH, TLO, THI, TSUB. The high-half channel of a cascade shows the governing channel's. Mark: DESIGN CHOICE, log entry 107. -/
def State.imgWord (s : State) (c0 : Fin 96) (i : Nat) : Word :=
  match s.imgShown (s.cntGov c0) with
  | none => 0
  | some g =>
    match i with
    | 0 => word g.val
    | 1 => if s.cascLo (s.cntGov c0) then word (g.val / 2 ^ 32) else 0
    | 2 => word (tNs g.t)
    | 3 => word (tNs g.t / 2 ^ 32)
    | _ => word (tSub g.t + g.cause.toNat * 2 ^ 8 + 2 ^ 12)

/-- A channel block (chapters 03 and 04); `i` is the offset within it. -/
def State.chWord (s : State) (p : Path) (c : Fin 96) (i : Nat) : Word :=
  let o := 0x100000 + 0x400 * c.val + i
  let last := if 0x40 ≤ i then s.ch[c].lastB else s.ch[c].lastA
  if i = 0xC then s.chStat c
  else if i = 0x20 ∨ i = 0x40 then s.heldWord p o
  else if i = 0x24 then (s.reg o &&& 0xFFFF073F) ||| word (bitAt 15 (s.armBit c false))
  else if i = 0x44 then (s.reg o &&& 0xFFFF073F) ||| word (bitAt 15 (s.armBit c true))
  else if i = 0x28 ∨ i = 0x48 then word (tNs last)
  else if i = 0x2C ∨ i = 0x4C then word (tNs last / 2 ^ 32)
  else if i = 0x30 ∨ i = 0x50 then s.reg o ||| word (tSub last)
  else if i = 0x8C then s.capStat c false
  else if i = 0xAC then s.capStat c true
  else if 0xC8 ≤ i ∧ i ≤ 0xD8 then s.imgWord c ((i - 0xC8) / 4)
  else if i = 0x104 then s.fifoStat c
  else s.reg o

/-- The encoding of `Ge_THRn_STAT.STATE` (R101). -/
def thCode (x : ThState) : Nat :=
  match x with | .idle => 0 | .ready => 1 | .run => 2 | .parked => 3 | .halted => 4 | .fault => 5

/-- `Ge_STAT`: RUNTHR reads its reset value until a thread has run (R8). Mark: DESIGN CHOICE, log entry 22. -/
def State.geStat (s : State) (e : Fin 8) : Nat :=
  let ready := (List.finRange 16).foldl (fun (a : Nat) (n : Fin 16) => a + bitAt n.val (decide ((s.thr e n).state = .ready))) 0
  match s.gaf[e].running with
  | some n => ready * 2 ^ 16 + n.val * 2 ^ 12 + 2 ^ 11
  | none => ready * 2 ^ 16 + (if s.gaf[e].ran then (Config.idleThread s.free).toNat else 0) * 2 ^ 12

/-- A Gaffer page (chapter 05). -/
def State.gafWord (s : State) (e : Fin 8) (i : Nat) : Word :=
  let o := 0x40000 + 0x1000 * e.val + i
  if i = 4 then word (s.geStat e)
  else if i = 0x24 then s.leadMeas e
  else if i = 0x40 then s.reg o ||| word s.gaf[e].eph.length
  else if 0x100 ≤ i ∧ i < 0x200 then
    let n : Fin 16 := ⟨(i - 0x100) / 16 % 16, Nat.mod_lt _ (by decide)⟩
    let t := s.thr e n
    if i % 16 = 4 then word (thCode t.state + t.coal * 2 ^ 8 + t.maxWait * 2 ^ 16)
    else if i % 16 = 8 then
      word (t.pc.toNat + bitAt 16 t.atSafe + (s.gaf[e].eph.filter (fun x => decide (x.thr = n.val))).length % 256 * 2 ^ 24)
    else if i % 16 = 12 then word (t.pend.toNat + t.mask.toNat * 2 ^ 16)
    else s.reg o
  else if 0x200 ≤ i then
    let m : Fin 64 := ⟨(i - 0x200) / 8 % 64, Nat.mod_lt _ (by decide)⟩
    if i % 8 = 0 then word s.gaf[e].sreg[m].toNat else word (s.gaf[e].sreg[m].toNat / 2 ^ 32)
  else s.reg o

/-- An Orrery page (chapter 07): what the last completed broadcast shows (R156, R188), and configuration as a strobe of this tick leaves it. -/
def State.oryWord (s : State) (n : Fin 4) (i : Nat) : Word :=
  let o := 0x10000 + 0x1000 * n.val + i
  let y := s.ory[n]
  let v := y.seen
  let (edge, ang) : Nat × Nat := match v.hist with | x :: _ => (x.t, s.oZero n x.base) | [] => (0, 0)
  let npos := max 1 (s.oNpos n)
  let wheel := s.oType n = 0
  if i = 8 then
    word (syncCode v.sync + bitAt 3 v.back + bitAt 4 v.still + bitAt 5 v.suspect + bitAt 6 v.camok +
      (if wheel then v.pos % npos * 2 ^ 8 + v.pos / npos % 2 * 2 ^ 16 else 0) + bitAt 17 (s.oValid n) + bitAt 18 (s.ron (F.ORYn_STAT_CMD_REF n)))
  else if i = 0x50 then word (tNs edge)
  else if i = 0x54 then word (tNs edge / 2 ^ 32)
  else if i = 0x58 then word (tSub edge)
  else if i = 0x5C then word ang
  else if i = 0x60 then iword (s.oSpeedAt n s.now)
  else if i = 0x64 then iword (s.oSpeedAt n s.now / 2 ^ 32 % 256)
  else if i = 0x68 then word ((s.oReport n s.now).getD 0)
  else if i = 0x80 then word ((y.rawC.signExtend 16).toNat * 2 ^ 16 + (y.rawS.signExtend 16).toNat)
  else if i = 0x84 then word (y.ampl % 2 ^ 16)
  else s.shownReg o

/-- `CV_STAT`. -/
def State.cvStat (s : State) : Nat :=
  bitAt 0 (!s.conv[0].held.isEmpty) + bitAt 1 (!s.conv[1].held.isEmpty) + s.conv[0].queue.length * 2 ^ 4 + s.conv[1].queue.length * 2 ^ 8

/-- The Lehr page (chapter 09). -/
def State.lhWord (s : State) (o : Nat) : Word :=
  let l := s.lehr
  if o = R.LH_STAT then
    s.reg o ||| word (bitAt 2 (s.ron F.LH_CTRL_EN && decide (l.pb ≤ s.lhNow + s.lhPF * 4096)))
  else if o = R.LH_OCC then word (l.near.length + l.slots.length + l.far.length)
  else if o = R.LH_NEAR then word l.near.length
  else if o = R.LH_FAR then word l.far.length
  else if o = R.LH_FAR_HEAD then (match l.far with | e :: _ => word (e.h + 2 ^ 31) | [] => 0)
  else if o = R.LH_NOW_LO then word s.lhNow
  else if o = R.LH_NOW_HI then word (s.lhNow / 2 ^ 32)
  else if o = R.LH_PB then word l.pb
  else if o = R.LH_L1B then word l.l1b
  else s.reg o

/-- The OR of the bits of the event registers that a source 0–107 stands for (R246). -/
def State.evtLevel (s : State) (n : Nat) : Bool :=
  let on := fun (o m : Nat) => (s.reg o).toNat &&& m != 0
  let all := 0xFFFFFFFF
  if n < 96 then on (R.CHc_EVT n) all
  else if n < 100 then on (R.ORYn_EVT (n - 96)) all
  else if n = 100 then on R.CV_EVT 0xD03
  else if n = 101 then on R.CV_EVT 0x3204
  else if n = 102 then on R.LH_EVT all
  else if n = 103 then on R.EL_EVT all
  else if n = 104 then on R.GL_EVT all || on R.AP_EVT all || on R.CFG_EVT all
  else if n = 105 then on R.SPN_EVT all || on R.HL_EVT all || (List.range 8).any (fun e => on (R.Ge_EVT e) all)
  else if n = 106 then on R.PW_EVT all
  else on R.FRZ_EVT all

/-- A word of 32 bits, bit i from source 32w + i. -/
def wordOf (w : Nat) (f : Nat → Bool) : Word := word ((List.range 32).foldl (fun (a : Nat) i => a + bitAt i (f (32 * w + i))) 0)

/-- A word of `EC_LVLw`. Mark: DESIGN CHOICE, log entry 108. -/
def State.lvlWord (s : State) (w : Nat) : Word :=
  wordOf w (fun n => if n < 108 then s.evtLevel n else if 128 ≤ n ∧ n < 192 then s.ringLevel (n - 128) else false)

/-- The event controller's page (chapter 10). -/
def State.ecWord (s : State) (p : Path) (o : Nat) : Word :=
  let x := s.ecSrc (wfld (s.heldWord p R.EC_IDX) 0 10)
  if o = R.EC_STAT then
    word ((List.range 8).foldl (fun (a : Nat) t => a + bitAt t (!(s.ecAssigned t).isEmpty)) 0 + bitAt 8 s.ecLatched + bitAt 9 s.wakeBall)
  else if o = R.EC_IDX then s.heldWord p o
  else if o = R.EC_TGT then x.tgt
  else if o = R.EC_ROUTE then x.route
  else if 0x2040 ≤ o ∧ o < 0x20C0 ∧ o % 16 = 0xC then word (s.ecAssigned ((o - 0x2040) / 16)).length
  else if 0x2040 ≤ o ∧ o < 0x20C0 ∧ o % 16 = 0 then 1023
  else if R.EC_PENDw 0 ≤ o ∧ o < R.EC_PENDw 32 then wordOf ((o - R.EC_PENDw 0) / 4) (fun n => (s.ecSrc n).pend)
  else if R.EC_ACTw 0 ≤ o ∧ o < R.EC_ACTw 32 then wordOf ((o - R.EC_ACTw 0) / 4) (fun n => (s.ecSrc n).act)
  else if R.EC_LVLw 0 ≤ o ∧ o < R.EC_LVLw 32 then s.lvlWord ((o - R.EC_LVLw 0) / 4)
  else s.reg o

/-- `RINGn_STAT` (R237, R243, R244). -/
def State.ringStat (s : State) (n : Nat) : Nat :=
  bitAt 0 (s.ron (F.RINGn_CFG_EN n) && !s.ringStopped n) + bitAt 1 (s.ringFull n) + bitAt 2 (s.ringCount n = 0) +
    bitAt 3 (s.rget (F.RINGn_LOSTCNT_CNT n) != 0) + s.rget (F.RINGn_STAT_ERR n) * 2 ^ 4

/-- Ewerlink's page (chapter 11). QUAL and d are shown as they stand (R277, R281). -/
def State.elWord (s : State) (p : Path) (o : Nat) : Word :=
  let id := wfld (s.heldWord p R.EL_TABIDX) 0 10
  if o = R.EL_UID_LO then word s.elUid
  else if o = R.EL_UID_HI then word (s.elUid / 2 ^ 32)
  else if o = R.EL_ROOT_LO then word s.el.rootUid
  else if o = R.EL_ROOT_HI then word (s.el.rootUid / 2 ^ 32)
  else if o = R.EL_ROOT_PRIO then word (s.el.rootPrio % 256 + s.el.rseq % 2 ^ 16 * 2 ^ 16)
  else if o = R.EL_STAT then (s.reg o &&& 0xFFFFFFBF) ||| word (bitAt 6 s.elQual)
  else if R.ELp_DLY 0 ≤ o ∧ o ≤ R.ELp_DLY 3 ∧ o % 16 = 8 then
    word (s.rget (F.ELp_DLY_NSAMP ((o - R.ELp_DLY 0) / 16)) * 2 ^ 27 + s.elDly ⟨(o - R.ELp_DLY 0) / 16 % 4, Nat.mod_lt _ (by decide)⟩)
  else if o = R.EL_TAB then word s.el.table.length
  else if o = R.EL_TABIDX then s.heldWord p o
  else if o = R.EL_TABENT then (match tblFind s.el.table id with | some x => word (x.port + 2 ^ 31) | none => 0)
  else s.reg o

/-- A path has a write on its way to the slow domain that its copy does not yet show (R310). -/
def State.slowWaits (s : State) (p : Path) : Bool := (s.hif.slow ++ s.hif.slowOld).any (fun x => x.path = p)

/-- A register of the slow domain as its copy shows it: a write shows one slow edge after the edge that applied it (R310). -/
def State.slowReg (s : State) (o : Nat) : Word :=
  match s.hif.slowOld.find? (fun x => decide (x.ofs = o)) with | some x => x.w | none => s.reg o

/-- The global page (chapter 12). -/
def State.glWord (s : State) (o : Nat) : Word :=
  if o = R.GL_STAT then
    (s.reg o &&& 1) ||| word (bitAt 1 s.hif.sig.isSome + bitAt 2 s.hif.sum.isSome + bitAt 3 (s.slowWaits .pcie) + bitAt 4 (s.slowWaits .spi) +
      bitAt 5 (s.reg R.GL_LOCK != 0))
  else if o = R.GL_PCIE then
    word (s.rget F.GL_PCIE_LINKDOWN * 2 ^ 16 + s.fn.speed + s.fn.width * 4 + bitAt 4 s.fn.linkUp + bitAt 5 s.fn.bme + bitAt 6 s.fn.msixEn +
      bitAt 7 s.fn.fmask + (if s.fn.d3 then 3 * 2 ^ 8 else 0))
  else s.reg o

/-- The calibration and configuration page (chapter 13). -/
def State.cfgWord (s : State) (p : Path) (view : Bool) (o : Nat) : Word :=
  let q := wfld (s.heldWord p R.CAL_IDX) 0 12
  let i := wfld (s.heldWord p R.CAL_OTP_IDX) 0 11
  if o = R.CFG_STAT then s.reg o &&& 0x18FF ||| word (s.otpV 0x722 % 8 * 2 ^ 8)
  else if o = R.CAL_IDX ∨ o = R.CAL_OTP_IDX then s.heldWord p o
  else if o = R.CFG_CMD then 0
  else if o = R.CAL_F_DATA then word (s.calF q)
  else if o = R.CAL_U_DATA then (if view then (tblFind s.calS q).getD (s.calUser q) else s.calUser q)
  else if o = R.CAL_E_DATA then iword (s.calE q).1
  else if o = R.CAL_OTP_DATA then voted (s.otpWord i)
  else if o = R.CAL_OTP_DIFF then otpDiff (s.otpWord i)
  else s.reg o

/-- The watchdog counts (R362): it is on, and nothing pauses it. -/
def State.wdgRuns (s : State) : Bool := s.rget F.PW_WDG_MODE != 0 && !s.loading && !s.frozen && s.powered

/-- ms that the watchdog has counted since its last kick. -/
def State.wdgMs (s : State) : Nat := s.pw.wdgTicks / 1000000

/-- The power page (chapter 14). -/
def State.pwWord (s : State) (o : Nat) : Word :=
  if o = R.PW_STAT then s.reg o ||| word (bitAt 11 s.wdgRuns)
  else if o = R.PW_WDG_STAT then
    (if s.rget F.PW_WDG_MODE = 0 then 0 else word (s.rget F.PW_WDG_TIMEOUT - s.wdgMs + bitAt 16 s.pw.wdgWarned))
  else s.slowReg o

/-- The state of the rail sequencer: 0 IDLE, 1 UP, 2 DOWN, 3 WAIT (a start time that lies ahead). -/
def State.psqState (s : State) : Nat :=
  match s.psq.seq with
  | none => 0
  | some q => if s.now < q.start then 3 else if q.up then 1 else 2

def State.psqWord (s : State) (o : Nat) : Word := if o = R.PSQ_STAT then s.reg o ||| word s.psqState else s.reg o

/-- The value that a control-store page or a microword word shows. -/
def State.csStat (s : State) (e : Fin 8) : Word := s.reg (R.CSe_STAT e) ||| word (bitAt 15 (s.ron (F.CSe_CTRL_LOCK e)))

def State.microWord (s : State) (e : Fin 8) (w i : Nat) : Word := word ((s.csWord e w).toNat / 2 ^ (32 * i))

/-! ### What a register holds, and what a path reads -/

/-- The value of a register as a path sees it, before copies (R309): fields not held in the register file come from the blocks. Mark: DESIGN CHOICE, log entry 31. -/
def State.liveWord (s : State) (p : Path) (view : Bool) (o : Nat) : Word :=
  if o < 0x1000 then s.glWord o
  else if o < 0x2000 then s.spineWord o
  else if o < 0x3000 then s.ecWord p o
  else if o < 0x4000 then
    (if o = R.AP_STAT then word (s.dirty + s.apCount * 2 ^ 8) else if o = R.AP_AT_LO ∨ o = R.AP_AT_HI then s.heldWord p o
     else if o = R.AP_FENCE then (s.path p).fences else s.reg o)
  else if o < 0x5000 then s.elWord p o
  else if o < 0x6000 then s.pwWord o
  else if o < 0x7000 then s.cfgWord p view o
  else if o < 0x9000 then s.reg o
  else if o < 0xA000 then s.psqWord o
  else if o < 0x14000 then s.oryWord ⟨(o - 0x10000) / 0x1000 % 4, Nat.mod_lt _ (by decide)⟩ (o % 0x1000)
  else if o < 0x19000 then (if o = R.CV_STAT then word s.cvStat else s.shownReg o)
  else if o < 0x30000 then s.lhWord o
  else if o < 0x40000 then (if o % 0x40 = 0x1C then word (s.ringStat ((o - 0x30000) / 0x40)) else s.reg o)
  else if o < 0x48000 then s.gafWord ⟨(o - 0x40000) / 0x1000 % 8, Nat.mod_lt _ (by decide)⟩ (o % 0x1000)
  else if o < 0x118000 then s.chWord p ⟨(o - 0x100000) / 0x400 % 96, Nat.mod_lt _ (by decide)⟩ (o % 0x400)
  else if o % 0x20000 = 0x10004 then s.csStat ⟨(o - 0x400000) / 0x20000 % 8, Nat.mod_lt _ (by decide)⟩
  else s.reg o

/-- The copy registers that a read of an RL register fills, with the bits copied (R32, R77, R81, R119, R185, R309). The capture stamps
have a read of their own. -/
def rlCopies (o : Nat) : List (Nat × Nat) :=
  let all := 0xFFFFFFFF
  if o = R.SPN_NOW_LO then [(R.SPN_NOW_HI, all), (R.SPN_NOW_SUB, all)]
  else if o = R.SPN_SLEW_REM then [(R.SPN_SLEW_REM_SUB, all)]
  else if o = R.SPN_PPSI_LO then [(R.SPN_PPSI_HI, all), (R.SPN_PPSI_SUB, 0x3F)]
  else if o = R.AP_LAST_LO then [(R.AP_LAST_HI, all), (R.AP_LAST_INFO, all)]
  else if o = R.EL_UID_LO then [(R.EL_UID_HI, all)]
  else if o = R.EL_ROOT_LO then [(R.EL_ROOT_HI, all), (R.EL_ROOT_PRIO, all)]
  else if o = R.CAL_OTP_DATA then [(R.CAL_OTP_DIFF, all)]
  else if o = R.HL_AGE_LO then [(R.HL_AGE_HI, all)]
  else if o = R.FRZ_T_LO then [(R.FRZ_T_HI, all), (R.FRZ_T_SUB, all)]
  else if o = R.FRZ_GAP_LO then [(R.FRZ_GAP_HI, all), (R.FRZ_GAP_SUB, all)]
  else if o = R.LH_NOW_LO then [(R.LH_NOW_HI, all)]
  else if 0x10000 ≤ o ∧ o < 0x14000 ∧ o % 0x1000 = 0x50 then [(o + 4, all), (o + 8, all), (o + 12, all)]
  else if 0x10000 ≤ o ∧ o < 0x14000 ∧ o % 0x1000 = 0x60 then [(o + 4, all)]
  else if 0x40000 ≤ o ∧ o < 0x48000 ∧ 0x200 ≤ o % 0x1000 ∧ o % 8 = 0 then [(o + 4, all)]
  else if 0x100000 ≤ o ∧ o < 0x118000 then
    (if o % 0x400 = 0x28 ∨ o % 0x400 = 0x48 then [(o + 4, all), (o + 8, 0x3F)]
     else if o % 0x400 = 0xC8 then [(o + 4, all), (o + 8, all), (o + 12, all), (o + 16, 0xF3F)]
     else [])
  else []

/-- The bits of a register that read as a path's copy. -/
def copyMask (o : Nat) : Nat :=
  if 0x100000 ≤ o ∧ o < 0x118000 ∧ (o % 0x400 = 0x88 ∨ o % 0x400 = 0xA8) then 0xFFFFFFFF
  else if 0x100000 ≤ o ∧ o < 0x118000 ∧ (o % 0x400 = 0x8C ∨ o % 0x400 = 0xAC) then 0xFF
  else
    ([4, 8, 12, 16].foldl (fun (m : Nat) d =>
      match (rlCopies (o - d)).find? (fun x => decide (x.1 = o)) with | some x => x.2 | none => m) 0)

/-- The view bit of a path (R311). -/
def State.viewOf (s : State) (p : Path) : Bool := match p with | .pcie => s.ron F.AP_CTRL_VIEW_P | .spi => s.ron F.AP_CTRL_VIEW_S

/-- What a read of a register returns on a path (R309, R311). Mark: DESIGN CHOICE, log entry 31. -/
def State.readWord (s : State) (p : Path) (o : Nat) : Word :=
  let live := s.liveWord p (s.viewOf p) o
  let shown :=
    if s.viewOf p then
      match tblFind s.staged o with
      | some w => word ((live.toNat &&& (0xFFFFFFFF - stBits o)) ||| (w.toNat &&& stBits o))
      | none => live
    else live
  let m := copyMask o
  if m = 0 then shown else word ((shown.toNat &&& (0xFFFFFFFF - m)) ||| ((s.shadowWord p o).toNat &&& m))

/-- The copies that a read of an RL register makes (R309). -/
def State.rlCopy (s : State) (p : Path) (o : Nat) : State :=
  (rlCopies o).foldl (fun (a : State) (x : Nat × Nat) => a.setShadow p x.1 (word ((s.liveWord p false x.1).toNat &&& x.2))) s

/-- The index that a path's access to `CAL_U_DATA` leaves (AINC). Mark: DEDUCED, log entry 70. -/
def State.calStep (s : State) (p : Path) : State :=
  let w := s.heldWord p R.CAL_IDX
  if wfld w 16 1 = 1 then s.setHeld p R.CAL_IDX (wset w 0 12 (wfld w 0 12 + 1)) else s

/-- A read of a register: its answer, copies and side effects. While the device is frozen a read makes copies and has no other
effect (R378). -/
def State.readReg (s : State) (p : Path) (o : Nat) : State :=
  if 0x100000 ≤ o ∧ o < 0x118000 ∧ (o % 0x400 = 0x84 ∨ o % 0x400 = 0xA4) then
    s.capHostRead p ⟨(o - 0x100000) / 0x400 % 96, Nat.mod_lt _ (by decide)⟩ (o % 0x400 = 0xA4)
  else if 0x2040 ≤ o ∧ o < 0x20C0 ∧ o % 16 = 0 then s.claimRead p ((o - 0x2040) / 16)
  else
    let s1 := (s.rlCopy p o).answer p (s.readWord p o)
    if s.frozen then s1
    else if o = R.SPN_PPSI_LO then s1.modSpine (fun x => { x with ppsUnread := false })
    else if o = R.CAL_U_DATA then s1.calStep p
    else s1

/-- A read of word i of a microword (R149). -/
def State.readMicro (s : State) (p : Path) (e : Fin 8) (w i : Nat) : State :=
  if i = 0 then
    ([1, 2, 3, 4].foldl (fun (a : State) j => a.setShadow p (csOffset e w j) (s.microWord e w j)) s).answer p (s.microWord e w 0)
  else s.answer p (s.shadowWord p (csOffset e w i))

/-- An access to an unmapped range (R293). -/
def State.unmapped (s : State) : State := (s.rsat F.GL_ERRCNT_UNMAP 1).evt F.GL_EVT_UNMAP_S

/-- What a word of the MSI-X range reads as: the table, and the pending bits (PCIe 3.0). Mark: PRESUMED, log entry 37. -/
def State.msixWord (s : State) (a : Nat) : Word :=
  if a < 0x80 then tblGet (fun o => if o % 16 = 12 then 1 else 0) s.fn.table a
  else if a = 0x800 then word s.ec.msixPend.toNat
  else 0

/-- A word of the MRAM window: the header area has no layout of its own (R374). Mark: DESIGN CHOICE, log entry 25. -/
def State.mramWord (s : State) (a : Nat) : Word :=
  if a < 0x8000 then
    let b := fun i => (Config.mramHeader (s.rget F.HL_MRAM_HOURIDX) (a + i)).toNat
    word (b 0 + 2 ^ 8 * b 1 + 2 ^ 16 * b 2 + 2 ^ 24 * b 3)
  else memRdW s.mram a

/-- A partition of the SRAM that a structure of the block occupies and whose layout the spec does not give: the near cache in host mode, the channel state (R24). Mark: DESIGN CHOICE, log entry 28. -/
def State.internalPart (s : State) (a : Nat) : Bool :=
  (0x80000 ≤ a && a < 0x180000 && s.ron F.LH_CTRL_EN && !s.lhStandalone) || (0x388000 ≤ a && a < 0x3A0000)

/-- A read of a word of the SRAM window. Mark: DESIGN CHOICE, log entry 28. -/
def State.readSram (s : State) (p : Path) (a : Nat) : State :=
  if s.internalPart a then (s.answer p (Config.internalWord s.free a)).drawn else s.answer p (memRdW s.sram a)

/-- A read of one word at an address, on a path. -/
def State.readAt (s : State) (p : Path) (a : Nat) : State :=
  match siteOf p a with
  | .reg o => s.readReg p o
  | .status o => s.answer p (s.readWord p o)
  | .blank => s.answer p 0
  | .micro e w i => s.readMicro p ⟨e % 8, Nat.mod_lt _ (by decide)⟩ w i
  | .sram b => s.readSram p b
  | .mram b => s.answer p (s.mramWord b)
  | .msix b => s.answer p (s.msixWord b)
  | .unmapped => (if s.frozen then s else s.unmapped).answer p 0

/-! ### Rows -/

/-- `RL_READ` (R309). -/
def execRlRead (p : Path) (a : Word) (s : State) : Host.Outcome State Fault Refusal := s.hostRead (fun s => s.readAt p a.toNat)

end Sys2Proof.Machine
end

