-- ==== Sys2Proof/Machine/Pcie.lean ====
section
/-!
DEFINITION. The PCIe function (R254, R297 to R299, R342): the events that stop the device's own host-memory traffic, and the link.
-/
namespace Sys2Proof.Machine
open Sys2Proof

def State.modFn (s : State) (f : PcieFn → PcieFn) : State := { s with fn := f s.fn }

/-- The device's own host-memory traffic stops (R299): host-memory rings, the Lehr in host mode, and the count. Mark: DESIGN CHOICE, log entry 49. -/
def State.hostLost (s : State) : State :=
  ((s.hostRings.foldl (fun (a : State) (n : Fin 64) => a.ringHosterr n) s).lhHosterr).rsat F.GL_PCIE_LINKDOWN 1

/-- The configuration space at its defaults: no setting of the host stands. Mark: PRESUMED, log entry 37. -/
def fnDefaults (f : PcieFn) : PcieFn :=
  { f with
    bme := false, msixEn := false, fmask := false, d3 := false, bar0 := 0, payload := 0, readReq := 2, extTag := false, aspmL1 := false, cplTo := 0,
    aerMask := 0, aerSev := 0x00462030, aerCor := 0x2000, aerSts := 0 }

/-- What the host's configuration requests set. BAR0 spans 64 MB. -/
def fnSet (f : PcieFn) (bme : Bool) (mx : MsixCtl) (c : PcieCfg) : PcieFn :=
  { f with
    bme := f.bme || bme, msixEn := mx.enable, fmask := mx.fmask, bar0 := c.bar0 &&& 0xFFFFFFFFFC000000, payload := c.payload.val,
    readReq := c.readReq.val, extTag := c.extTag, aspmL1 := c.aspmL1, cplTo := c.cplTo.val, aerMask := c.aerMask, aerSev := c.aerSev, aerCor := c.aerCor }

/-- Words of the function's configuration space for which R297 gives the contents: Vendor and Device ID, Revision ID and class code, BAR0 (64-bit
memory, non-prefetchable), subsystem IDs from the image, Interrupt Pin 0; power management (D0, D3hot, no PME) at 0x40; MSI-X, 8 vectors, at 0x50;
the device and link capabilities, controls and states at 0x70; Advanced Error Reporting at 0x100. Their places and codes are PCIe 3.0's. Mark: PRESUMED, log entry 37. -/
def State.configWord (s : State) (o : Nat) : Option Word :=
  let f := s.fn
  match o with
  | 0x00 => some (word (0x1F3A + 2 ^ 16 * 0x0096))
  | 0x08 => some (word (0xA1 + 2 ^ 8 * 0x118000))
  | 0x10 => some (word (s.fn.bar0.toNat % 2 ^ 32 + 4))
  | 0x14 => some (word (s.fn.bar0.toNat / 2 ^ 32))
  | 0x2C => some s.load.subsys
  | 0x34 => some 0x40
  | 0x3C => some 0
  | 0x40 => some (word (0x01 + 2 ^ 8 * 0x50 + 2 ^ 16 * 3))
  | 0x44 => some (word (8 + 3 * b2n f.d3))
  | 0x50 => some (word (0x11 + 2 ^ 8 * 0x70 + 2 ^ 16 * (7 + 2 ^ 14 * b2n f.fmask + 2 ^ 15 * b2n f.msixEn)))
  | 0x54 => some 0xF000
  | 0x58 => some 0xF800
  | 0x70 => some (word (0x10 + 2 ^ 16 * 2))
  | 0x74 => some (word (1 + 2 ^ 5 + 2 ^ 15 + 2 ^ 28))
  | 0x78 => some (word (2 ^ 5 * f.payload + 2 ^ 8 * b2n f.extTag + 2 ^ 12 * f.readReq))
  | 0x7C => some (word (3 + 2 ^ 4 * 2 + 2 ^ 10 * 2))
  | 0x80 => some (word (2 * b2n f.aspmL1 + 2 ^ 16 * f.speed + 2 ^ 20 * f.width))
  | 0x94 => some 3
  | 0x98 => some (word f.cplTo)
  | 0x9C => some 0xE
  | 0x100 => some (word (0x0001 + 2 ^ 16 * 2))
  | 0x104 => some f.aerSts
  | 0x108 => some f.aerMask
  | 0x10C => some f.aerSev
  | 0x114 => some f.aerCor
  | _ => none

/-- A function in reset (R401): the configuration space, the MSI-X table and the pending bits return to their defaults. Mark: PRESUMED, log entry 37. -/
def State.fnReset (s : State) : State :=
  let s1 := s.modFn (fun f => { fnDefaults f with linkUp := false, width := 0, speed := 0, table := [] })
  { s1 with ec := { s1.ec with msixPend := 0 } }

/-- The link goes down (R299, R401). The live fields show no trained link (GL_PCIE). Mark: DESIGN CHOICE, log entry 66. -/
def State.linkDown (s : State) : State := if s.fn.linkUp then s.fnReset.hostLost else s

/-- Function Level Reset (R299): the configuration space returns to its defaults; no register of BAR0 changes. -/
def State.flr (s : State) : State := if s.fn.linkUp then (s.modFn fnDefaults).hostLost else s

/-- The host clears Bus Master Enable (R299). -/
def State.bmeOff (s : State) : State := if s.fn.bme then (s.modFn (fun f => { f with bme := false })).hostLost else s

/-- The function leaves D0 (R299). -/
def State.d0Exit (s : State) : State := if s.fn.linkUp ∧ ¬ s.fn.d3 then (s.modFn (fun f => { f with d3 := true })).hostLost else s

/-- A DMA completion times out (R299): Advanced Error Reporting shows it in its uncorrectable error status. Mark: PRESUMED, log entry 37. -/
def State.dmaTimeout (s : State) : State := if s.hostOpen then (s.modFn (fun f => { f with aerSts := f.aerSts ||| 0x4000 })).hostLost else s

/-- Messages whose vectors are no longer masked leave (R249, PCIe 3.0), but not while the device is frozen (R378). -/
def State.msixFlush (s : State) : State :=
  if s.frozen then s
  else (List.range 8).foldl (fun (a : State) t =>
    if nbit a.ec.msixPend.toNat t ∧ ¬ a.vecMasked t ∧ a.msixOpen then
      ({ a with ec := { a.ec with msixPend := a.ec.msixPend &&& ~~~(BitVec.ofNat 8 (2 ^ t)) } }).msixSend t
    else a) s

/-- Selection has ended, or no load runs: configuration requests complete normally (R342). Mark: DESIGN CHOICE, log entry 66. -/
def State.configReady (s : State) : Bool := !s.loading || s.load.sel.isSome || s.load.ended.isSome || s.load.isReload || s.ron F.CFG_STAT_NOIMAGE

/-- MSI-X messages can leave again (R254): one for each assigned MSIX target. Mark: DESIGN CHOICE, log entry 66. -/
def State.msixReturn (s old : State) : State := if s.msixOpen ∧ ¬ old.msixOpen then s.msixBack else s

/-- The link trains (R401), and the host's configuration requests set the function, once they are answered (R342); a function that so
returns to D0 with MSI-X enabled delivers again (R254). Mark: DESIGN CHOICE, log entry 66. -/
def State.linkUp (s : State) (wide : Bool) (speed : Fin 3) (bme : Bool) (mx : MsixCtl) (cfg : PcieCfg) : State :=
  if s.powered ∧ s.ron F.PW_STAT_VPE_OK then
    let s1 := if s.fn.linkUp then s else s.modFn (fun f => { f with linkUp := true, width := if wide then 2 else 1, speed := speed.val + 1 })
    if s1.configReady ∧ ¬ s1.fn.d3 then
      ((s1.modFn (fun f => fnSet f bme mx cfg)).msixFlush).msixReturn s
    else s1
  else s

/-! ### Rows -/

/-- `PCIE_LINK_DOWN` (R299). -/
def execPcieLinkDown (s : State) : Host.Outcome State Fault Refusal := s.always State.linkDown

/-- `FUNCTION_LEVEL_RESET` (R299). -/
def execFunctionLevelReset (s : State) : Host.Outcome State Fault Refusal := s.always State.flr

/-- `BUS_MASTER_DISABLE` (R299). -/
def execBusMasterDisable (s : State) : Host.Outcome State Fault Refusal := s.always State.bmeOff

/-- `D0_EXIT` (R299). -/
def execD0Exit (s : State) : Host.Outcome State Fault Refusal := s.always State.d0Exit

/-- `COMPLETION_TIMEOUT` (R299). -/
def execCompletionTimeout (s : State) : Host.Outcome State Fault Refusal := s.always State.dmaTimeout

/-- `PCIE_LINK_UP` (R342, R401). -/
def execPcieLinkUp (wide : Bool) (speed : Fin 3) (bme : Bool) (mx : MsixCtl) (cfg : PcieCfg) (s : State) : Host.Outcome State Fault Refusal :=
  s.always (fun s => s.linkUp wide speed bme mx cfg)

end Sys2Proof.Machine
end

