-- ==== Sys2Proof/Machine/Psq.lean ====
section
/-!
DEFINITION. The sensor rail sequencer (R365 to R368): sequences in spine time, PGOOD supervision, faults.
-/
namespace Sys2Proof.Machine
open Sys2Proof

def State.modPsq (s : State) (f : Psq → Psq) : State := { s with psq := f s.psq }

/-- A byte with bit r given a value. -/
def setBit8 (m : BitVec 8) (r : Fin 8) (b : Bool) : BitVec 8 := BitVec.ofNat 8 (m.toNat - (if nbit m.toNat r then 2 ^ r.val else 0) + bitAt r b)

/-- Bit r of a field of the sequencer. -/
def State.psqBit (s : State) (f : Fld) (r : Nat) : Bool := nbit (s.rget f) r

/-- Give bit r of a field of the sequencer a value. -/
def State.psqSet (s : State) (f : Fld) (r : Fin 8) (b : Bool) : State := s.rput f (setBit8 (BitVec.ofNat 8 (s.rget f)) r b).toNat

/-- The level of ball PSEQr (R365, R384): true is high; `PSQ_Rr_CFG.OUT_POL` gives the active level. -/
def State.pseqLevel (s : State) (r : Fin 8) : Bool := s.psqBit F.PSQ_STAT_ON r != s.ron (F.PSQ_Rr_CFG_OUT_POL r)

/-- Kinds of PSEQ_EVENT (R381). -/
def pqUpDone : Nat := 1
def pqDownDone : Nat := 2
def pqTimeout : Nat := 3
def pqLost : Nat := 4
def pqRailOn : Nat := 5
def pqRailOff : Nat := 6

/-- A PSEQ_EVENT record (R381): the two faults carry FAULT. -/
def State.psqEvent (s : State) (r : Fin 8) (kind : Nat) : State :=
  s.emit 0x2E 106 s.now (if kind = pqTimeout ∨ kind = pqLost then flFault else 0) (word (r.val + 16 * kind)) (s.psqWord R.PSQ_STAT) 0 0

/-- A sequence completes (R365). -/
def State.psqDone (s : State) (r : Fin 8) (kind : Nat) : State :=
  ((s.modPsq (fun q => { q with seq := none })).evt F.PW_EVT_PSEQ_DONE_S).psqEvent r kind

/-- A rail is asserted, and good if it is checked (R365). -/
def State.railGood (s : State) (r : Fin 8) : Bool :=
  s.psqBit F.PSQ_STAT_ON r && (s.rget (F.PSQ_Rr_CFG_PGTO r) = 0 || s.psqBit F.PSQ_STAT_PG r)

/-- UP_DONE once every enabled rail is asserted and good (R365). Mark: DESIGN CHOICE, log entry 68. -/
def State.upCheck (s : State) (r : Fin 8) : State :=
  match s.psq.seq with
  | some q =>
    if q.up ∧ q.todo = 0 ∧ ((List.finRange 8).all (fun x => !s.psqBit F.PSQ_CTRL_EN x || s.railGood x)) = true then s.psqDone r pqUpDone else s
  | none => s

/-- Assert a rail's output. -/
def State.railAssert (s : State) (r : Fin 8) : State :=
  if s.psqBit F.PSQ_STAT_ON r then s
  else
    ((s.psqSet F.PSQ_STAT_ON r true).modPsq (fun q =>
      { q with
        onAt := q.onAt.set r s.now
        wasGood := setBit8 q.wasGood r (s.psqBit F.PSQ_STAT_PG r)
        timedOut := setBit8 q.timedOut r false })).psqEvent r pqRailOn

/-- Deassert a rail's output. -/
def State.railDeassert (s : State) (r : Fin 8) : State :=
  if s.psqBit F.PSQ_STAT_ON r then
    ((s.psqSet F.PSQ_STAT_ON r false).modPsq (fun q => { q with wasGood := setBit8 q.wasGood r false })).psqEvent r pqRailOff
  else s

/-- Start a sequence of the enabled rails. -/
def State.psqBegin (s : State) (up : Bool) (start : Nat) : State :=
  s.modPsq (fun q => { q with seq := some ⟨up, start, BitVec.ofNat 8 (s.rget F.PSQ_CTRL_EN)⟩ })

/-- The start time that an UP or DOWN command gives (R365), in subs: `PSQ_T` if it lies ahead, else the next tick. Mark: DESIGN CHOICE, log entry 68. -/
def State.psqStart (s : State) (timed : Bool) : Nat :=
  let t := ((s.reg R.PSQ_T_LO).toNat + 2 ^ 32 * (s.reg R.PSQ_T_HI).toNat) * 64
  if timed ∧ s.now < t then t else s.tAhead 1

/-- An UP or DOWN command (R365): refused during a sequence. With no rail enabled an UP is complete at once. Mark: DESIGN CHOICE, log entry 68. -/
def State.psqCommand (s : State) (up timed : Bool) : State :=
  if s.psq.seq.isSome then s.evt F.PW_EVT_CMD_ERR_S
  else if s.rget F.PSQ_CTRL_EN = 0 then (if up then s.psqDone 0 pqUpDone else s)
  else s.psqBegin up (s.psqStart timed)

/-- The delay of a rail in the running sequence, in subs. -/
def State.railDelay (s : State) (up : Bool) (r : Nat) : Nat :=
  640000 * (if up then s.rget (F.PSQ_Rr_TIM_UP_DLY r) else s.rget (F.PSQ_Rr_TIM_DN_DLY r))

/-- A rail whose step of the running sequence is due. -/
def State.railDue (s : State) (up : Bool) (r : Fin 8) : Bool :=
  match s.psq.seq with
  | some q => q.up == up && nbit q.todo.toNat r && decide (q.start + s.railDelay up r ≤ s.now)
  | none => false

/-- The rail is the lowest-numbered one that is due: steps passed together take place in rail order (R367). -/
def State.railNext (s : State) (up : Bool) (r : Fin 8) : Bool := (List.finRange 8).find? (fun x => s.railDue up x) = some r

/-- A rail's step has been taken. -/
def State.railTaken (s : State) (r : Fin 8) : State :=
  s.modPsq (fun q => { q with seq := q.seq.map (fun x => { x with todo := setBit8 x.todo r false }) })

/-- A rail's assertion time (R365). -/
def State.railOn (s : State) (r : Fin 8) : State :=
  if s.railNext true r then ((s.railTaken r).railAssert r).upCheck r else s

/-- A rail's deassertion time (R365). -/
def State.railOff (s : State) (r : Fin 8) : State :=
  if s.railNext false r then
    let s1 := (s.railTaken r).railDeassert r
    match s1.psq.seq with
    | some q => if q.todo = 0 then s1.psqDone r pqDownDone else s1
    | none => s1
  else s

/-- A rail faults (R366). -/
def State.railFault (s : State) (r : Fin 8) (kind : Nat) : State :=
  let s1 := ((s.psqSet F.PSQ_STAT_FLT r true).evt F.PW_EVT_PSEQ_FLT_S).psqEvent r kind
  match s1.rget F.PSQ_CTRL_FAULT with
  | 1 => s1.railDeassert r
  | 2 => s1.psqBegin false (s1.tAhead 1)
  | _ => s1

/-- PGTO expires without PGOOD (R366). Mark: DESIGN CHOICE, log entry 68. -/
def State.pgTimeout (s : State) (r : Fin 8) : State :=
  let ms := s.rget (F.PSQ_Rr_CFG_PGTO r)
  if s.psqBit F.PSQ_STAT_ON r ∧ ms ≠ 0 ∧ ¬ s.psqBit F.PSQ_STAT_PG r ∧ nbit s.psq.wasGood.toNat r = false ∧ nbit s.psq.timedOut.toNat r = false ∧
      s.psq.onAt[r] + ms * 64000000 ≤ s.now then
    (s.modPsq (fun q => { q with timedOut := setBit8 q.timedOut r true })).railFault r pqTimeout
  else s

/-- The deglitched PGOOD of a rail goes to the inactive level of `PSQ_Rr_CFG.PG_POL` (R366): a fault if the rail is asserted and has been good. -/
def State.pgLost (s : State) (r : Fin 8) : State :=
  if s.psqBit F.PSQ_STAT_PG r then
    let s1 := s.psqSet F.PSQ_STAT_PG r false
    if s.psqBit F.PSQ_STAT_ON r ∧ nbit s.psq.wasGood.toNat r = true then s1.railFault r pqLost else s1
  else s

/-- The deglitched PGOOD of a rail goes to its active level (R365). -/
def State.pgGood (s : State) (r : Fin 8) : State :=
  let s1 := s.psqSet F.PSQ_STAT_PG r true
  if s.psqBit F.PSQ_STAT_ON r then (s1.modPsq (fun q => { q with wasGood := setBit8 q.wasGood r true })).upCheck r else s1

/-! ### Rows -/

/-- `PSQ_NOP` (R365). -/
def execPsqNop (p : Path) (s : State) : Host.Outcome State Fault Refusal := s.hostAct p R.PSQ_CMD id

/-- `UP` (R365). -/
def execPsqUp (p : Path) (timed : Bool) (s : State) : Host.Outcome State Fault Refusal := s.hostAct p R.PSQ_CMD (fun s => s.psqCommand true timed)

/-- `DOWN` (R365). -/
def execPsqDown (p : Path) (timed : Bool) (s : State) : Host.Outcome State Fault Refusal := s.hostAct p R.PSQ_CMD (fun s => s.psqCommand false timed)

/-- `ABORT` (R365). -/
def execPsqAbort (p : Path) (s : State) : Host.Outcome State Fault Refusal :=
  s.hostAct p R.PSQ_CMD (fun s => s.modPsq (fun q => { q with seq := none }))

/-- `CLRFLT` (R366). -/
def execClrflt (p : Path) (s : State) : Host.Outcome State Fault Refusal := s.hostAct p R.PSQ_CMD (fun s => s.rput F.PSQ_STAT_FLT 0)

/-- `RAIL_ON` (R365). -/
def execRailOn (r : Fin 8) (s : State) : Host.Outcome State Fault Refusal := s.event (fun s => s.railOn r)

/-- `RAIL_OFF` (R365). -/
def execRailOff (r : Fin 8) (s : State) : Host.Outcome State Fault Refusal := s.event (fun s => s.railOff r)

/-- `PG_TIMEOUT` (R366). -/
def execPgTimeout (r : Fin 8) (s : State) : Host.Outcome State Fault Refusal := s.event (fun s => s.pgTimeout r)

/-- `PG_LOST` (R366). -/
def execPgLost (r : Fin 8) (s : State) : Host.Outcome State Fault Refusal := s.event (fun s => s.pgLost r)

/-- `PGOOD_ASSERTED` (R365). -/
def execPgoodAsserted (r : Fin 8) (s : State) : Host.Outcome State Fault Refusal := s.event (fun s => s.pgGood r)

end Sys2Proof.Machine
end

