-- ==== Sys2Proof/Machine/Power.lean ====
section
/-!
DEFINITION. Supplies, power states and resets (R351 to R364): what each reset keeps, RETAIN and its exit, the watchdog, and the hold and
release of the device (R341, R355).
-/
namespace Sys2Proof.Machine
open Sys2Proof

/-! ### Power states (R354, R355) -/

def stRun : Nat := 1
def stIdle : Nat := 2
def stHold : Nat := 3
def stRetain : Nat := 4
def stOff : Nat := 5

/-- `PW_STAT.STATE`. -/
def State.pwSt (s : State) : Nat := s.rget F.PW_STAT_STATE

/-- Causes of PWR_STATE (R381). -/
def causeCommand : Nat := 1
def causeWkup : Nat := 2
def causeTimer : Nat := 3
def causeWake : Nat := 4
def causeRelease : Nat := 5
def causeLoad : Nat := 6

/-- A change of state (R355): the record, and its event bit. -/
def State.pwState (s : State) (new cause : Nat) : State :=
  let old := s.pwSt
  if old = new then s
  else
    let s1 := (s.rput F.PW_STAT_STATE new).evt F.PW_EVT_STATE_S
    s1.emit 0x2D 106 s1.now 0 (word (new + 16 * old + 256 * cause)) (s1.pwWord R.PW_STAT) 0 0

/-- A `PW_CMD` that is not allowed (R355). -/
def State.pwRefuse (s : State) : State := s.evt F.PW_EVT_CMD_ERR_S

/-- Hold every channel with HOLD_BOOT, or let it go, at one tick (R59, R341). -/
def State.holdBootAll (s : State) (on : Bool) : State :=
  s.holdsChange (List.finRange 96) (fun s => (List.finRange 96).foldl (fun (a : State) (c : Fin 96) => a.modCh c (fun x => { x with holdBoot := on })) s)

/-- AUTOSTART threads of the Gaffers that dispatch (R101, R341). -/
def State.autostartAll (s : State) : State :=
  (List.finRange 8).foldl (fun (a : State) (e : Fin 8) => if a.dispatchOn e then a.autostart e else a) s

/-- Every enabled Orrery that IDLE has put off acquires again, with cause CONFIG (R354). -/
def State.oryResume (s : State) : State :=
  (List.finRange 4).foldl (fun (a : State) (n : Fin 4) =>
    if a.ron (F.ORYn_CTRL_EN n) ∧ a.ory[n].sync = .off then a.oRestart n 2 else a) s

/-- Release (R341): HOLD_BOOT clears on every channel, and dispatch begins; a device that went from IDLE to HOLD returns to RUN here (R354). -/
def State.releaseNow (s : State) : State :=
  (((((s.rput F.CFG_STAT_HELD 0).evt F.CFG_EVT_RELEASE_S).pwState stRun causeRelease).holdBootAll false).oryResume).autostartAll

/-- HOLD (R354, R355): the device waits for RELEASE. -/
def State.pwHold (s : State) : State :=
  if s.pwSt = stRun ∨ s.pwSt = stIdle then ((s.holdBootAll true).rput F.CFG_STAT_HELD 1).pwState stHold causeCommand else s.pwRefuse

/-- IDLE (R354): every enabled Orrery goes off. -/
def State.pwIdle (s : State) : State :=
  if s.pwSt = stRun then
    (List.finRange 4).foldl (fun (a : State) (n : Fin 4) => if a.ron (F.ORYn_CTRL_EN n) then a.oOff n else a) (s.pwState stIdle causeCommand)
  else s.pwRefuse

/-- IDLE ends (R354): dispatch goes on, and every enabled Orrery acquires again. -/
def State.idleEnd (s : State) (cause : Nat) : State :=
  ((List.finRange 4).foldl (fun (a : State) (n : Fin 4) => if a.ron (F.ORYn_CTRL_EN n) then a.oRestart n 2 else a) (s.pwState stRun cause)).autostartAll

/-- `PW_CMD` RUN (R355). -/
def State.pwRun (s : State) : State := if s.pwSt = stIdle then s.idleEnd causeCommand else s.pwRefuse

/-! ### What a reset keeps (R360, R364) -/

/-- The device's own partitions of the SRAM (R24), which a reset initialises again. -/
def ownPartition (a : Nat) : Bool := (0x80000 ≤ a && a < 0x180000) || (0x280000 ≤ a && a < 0x3B2000)

/-- Host-visible memory that a reset leaves (R364). -/
def keepSram (m : Tbl Byte) : Tbl Byte := m.filter (fun e => !ownPartition e.1)

/-- The registers that live in MRAM (R364, R385). -/
def mramReg (o : Nat) : Bool := o = R.HL_AGE_LO || o = R.HL_AGE_HI || o = R.HL_MRAM

/-- Bits that show supplies and PGOOD levels, which no reset changes. Mark: DEDUCED, log entry 63. -/
def physicalBits (o : Nat) : Nat := if o = R.PW_STAT then 0x7C0 else if o = R.PSQ_STAT then 0xFF000000 else 0

/-- Bits of a register that a reset kind keeps, besides those that locks hold. -/
inductive ResetKind where
  | por | brown | pin | core | reload | retain
  deriving DecidableEq, Repr

/-- Global and spine registers that a core reset keeps (R321, R360): locks, the host tag, the PLL's state. Mark: DEDUCED, log entry 61. -/
def coreBits (o : Nat) : Nat :=
  if 0x5000 ≤ o ∧ o < 0x6000 then 0xFFFFFFFF
  else if 0x9000 ≤ o ∧ o < 0xA000 then 0xFFFFFFFF
  else if o = R.GL_LOCK ∨ o = R.GL_HOSTTAG ∨ o = R.GL_STAT then 0xFFFFFFFF
  else if o = R.SPN_STAT then 3
  else if 0x400000 ≤ o ∧ o % 0x20000 = 0x10000 then 4
  else 0

/-- What RELOAD keeps (R364). The table has no row for the configuration registers of the Gaffers, for `CFG_STAT` and for the global
scratch registers: the first two return to their reset values, the last are kept with the global counters. Mark: DESIGN CHOICE, log entry 101. -/
def reloadBits (o : Nat) : Nat :=
  if o < 0x2000 then 0xFFFFFFFF
  else if 0x3000 ≤ o ∧ o < 0x4000 then (if R.AP_PENDi_LO 0 ≤ o ∧ o < R.AP_PENDi_LO 8 then 0 else 0xFFFFFFFF)
  else if 0x5000 ≤ o ∧ o < 0x8000 then (if o = R.CFG_STAT then 0 else 0xFFFFFFFF)
  else if 0x9000 ≤ o ∧ o < 0xA000 then 0xFFFFFFFF
  else if 0x40000 ≤ o ∧ o < 0x48000 then (if o % 0x1000 = 0x20 ∨ o % 0x1000 = 0x24 then 0xFFFFFFFF else 0)
  else if 0x400000 ≤ o then 0xFFFFFFFF
  else 0

/-- Bits of a register that a reset of a kind keeps. Locked bits keep their values wherever the locks survive (R321, R344). Mark: DEDUCED, log entry 61. -/
def State.keptBits (s : State) (k : ResetKind) (o : Nat) : Nat :=
  let base := if mramReg o then 0xFFFFFFFF else physicalBits o
  match k with
  | .por => base
  | .brown => if (0x5000 ≤ o ∧ o < 0x6000) ∨ (0x9000 ≤ o ∧ o < 0xA000) then 0xFFFFFFFF else base
  | .pin => if o = R.PW_RSTCNT then 0xFFFFFFFF else base
  | .core => base ||| coreBits o ||| s.lockedBits o
  | .reload => base ||| reloadBits o ||| s.lockedBits o
  | .retain => base ||| (if o = R.SPN_STAT then 0 else coreBits o) ||| s.lockedBits o

/-- The register file after a reset of a kind. -/
def State.keptRegs (s : State) (k : ResetKind) : Tbl Word :=
  s.regs.foldl (fun (t : Tbl Word) (e : Nat × Word) =>
    let m := s.keptBits k e.1
    let w := (resetWord e.1).toNat
    tblSet resetWord t e.1 (word ((w &&& (0xFFFFFFFF - m)) ||| (e.2.toNat &&& m)))) []

/-- A channel after a reset: the input shows its ball, the ball is at high impedance under HOLD_BOOT. -/
def chAfter (x : Channel) : Channel := { Channel.reset with inLvl := x.inLvl }

/-- A bank after a reset: its supply is what it is, and the voltage last detected is none but the present one (R347). -/
def bankAfter (b : Bank) : Bank := ⟨[], none, false, b.supply, if b.supply = 0 then 1 else b.supply⟩

/-- Sources after a reset: a locked domain keeps targets and routes (R319, R344). -/
def State.srcsAfter (s : State) (locks : Bool) : Tbl EcSrc :=
  if locks ∧ s.locked 5 then
    s.ec.srcs.foldl (fun (t : Tbl EcSrc) (e : Nat × EcSrc) =>
      tblSet (fun _ => EcSrc.reset) t e.1 { EcSrc.reset with tgt := e.2.tgt, route := e.2.route }) []
  else []

/-- Control stores after a core reset: D, but a locked store stays as it is (R344). -/
def State.gafAfter (s : State) (keepCs : Bool) (e : Fin 8) : Gaffer :=
  if keepCs ∨ s.csLocked e then { Gaffer.reset with cs := s.gaf[e].cs } else Gaffer.reset

/-- The host interface after a reset that the slow domain survives: its writes are still on their way (R310, R364). -/
def State.hifAfter (s : State) : HostIf := { State.reset.hif with slow := s.hif.slow, slowOld := s.hif.slowOld }

/-- The load that follows a reset. -/
def loadAfter (start : Nat) (retx : Bool) : Load := { State.reset.load with start := start, retx := retx }

/-- PGOOD levels as a reset of PG_POL to 0 reads them (R384). -/
def State.pgLevels (s : State) : State :=
  s.rput F.PSQ_STAT_PG ((List.range 8).foldl (fun (a : Nat) r => a + bitAt r (s.psqBit F.PSQ_STAT_PG r != s.ron (F.PSQ_Rr_CFG_PG_POL r))) 0)

/-- Power-on, brown-out and pin reset (R359, R364). Mark: DESIGN CHOICE, log entry 36; DEDUCED, log entry 62. -/
def State.coldReset (s : State) (k : ResetKind) : State :=
  { State.reset with
    regs := (if k = .brown then s else s.pgLevels).keptRegs k
    banks := s.banks.map bankAfter
    ch := s.ch.map chAfter
    otp := s.otp
    frz := { State.reset.frz with ball := s.frz.ball }
    ec := { State.reset.ec with msix := s.ec.msix }
    hif := if k = .brown then s.hifAfter else State.reset.hif
    psq := if k = .brown then s.psq else State.reset.psq
    pw := if k = .brown then { s.pw with linkRst := none, leave := none, retEc := none } else State.reset.pw
    hl := { State.reset.hl with faults := s.hl.faults, ageFrac := s.hl.ageFrac }
    mram := s.mram
    host := s.host
    free := s.free
    pending := s.pending }

/-- WDG, SOFT and LINK resets, and what RETAIN's exit shares with them (R359, R360, R364). -/
def State.coreReset (s : State) (k : ResetKind) : State :=
  { State.reset with
    regs := s.keptRegs k
    spine := { Spine.reset with acc := s.spine.acc, counting := s.spine.counting, tick := s.spine.tick, refGone := s.spine.refGone }
    banks := s.banks.map bankAfter
    ch := s.ch.map chAfter
    gaf := Vector.ofFn (fun e => s.gafAfter false e)
    otp := s.otp
    calU := if s.locked 1 then s.calU else []
    ec := { State.reset.ec with srcs := s.srcsAfter true, msix := s.ec.msix }
    fn := s.fn
    frz := { State.reset.frz with ball := s.frz.ball }
    hif := s.hifAfter
    load := loadAfter s.now false
    psq := s.psq
    pw := { s.pw with linkRst := none, leave := none, retEc := none, wdgTicks := 0, wdgWarned := false }
    hl := { State.reset.hl with faults := s.hl.faults, ageFrac := s.hl.ageFrac, recalAt := s.now }
    sram := keepSram s.sram
    mram := s.mram
    host := s.host
    free := s.free
    pending := s.pending }

/-- RELOAD's hold tick (R343, R364). -/
def State.reloadReset (s : State) : State :=
  { State.reset with
    regs := s.keptRegs .reload
    pcie := s.pcie
    spi := s.spi
    spine := s.spine
    banks := s.banks
    ch := s.ch.map chAfter
    gaf := Vector.ofFn (fun e => s.gafAfter true e)
    seqs := s.seqs
    otp := s.otp
    calU := if s.locked 1 then s.calU else []
    ap := ⟨s.ap.lastTick, 0, 0, [], [], []⟩
    ec := { State.reset.ec with srcs := s.srcsAfter true, msix := s.ec.msix }
    fn := s.fn
    frz := { State.reset.frz with ball := s.frz.ball }
    hif := s.hif
    load := { s.load with isReload := true, reload := none }
    psq := s.psq
    pw := s.pw
    hl := s.hl
    sram := keepSram s.sram
    mram := s.mram
    host := s.host
    free := s.free
    pending := s.pending }

/-! ### The OTP scan, with which the load after a reset begins (R335, R346) -/

def State.modLoad (s : State) (f : Load → Load) : State := { s with load := f s.load }

/-- The voted words 0x000 to 0x7FE. -/
def State.otpVoted (s : State) : List Nat := (List.range 0x7FF).map (fun i => s.otpV i)

/-- Count the words in which the copies disagree, and check the CRC; the scan supplies the crystal load
trim (R335). Mark: DESIGN CHOICE, log entry 78. -/
def State.otpScan (s : State) : State :=
  let corr := (s.otp.filter (fun e => e.1 < 0x800 && otpDiff e.2 != 0)).length
  let bad := crcFinal (crcWords crcInit s.otpVoted) ≠ word (s.otpV 0x7FF)
  let s1 := (s.rput F.CAL_VOTE_CORR corr).rput F.CAL_VOTE_FBAD (b2n bad)
  let s2 := s1.modLoad (fun l => { l with trim := s.otpV 0x3F8 % 64 })
  if bad then s2.evt F.CFG_EVT_FCRC_S else s2

/-! ### Resets (R359 to R363) -/

/-- `PW_RSTCAUSE` names the cause alone (R363). Mark: DEDUCED, log entry 62. -/
def State.rstCause (s : State) (cause : Nat) : State := s.setReg R.PW_RSTCAUSE (word cause)

/-- What every reset leaves: its cause, RESET_S, and RSTD in the SPI status (R304, R363). Mark: DEDUCED, log entry 62. -/
def State.resetDone (s : State) (cause : Nat) : State :=
  let s1 := (s.rstCause cause).evt F.PW_EVT_RESET_S
  { s1 with hif := { s1.hif with rstd := true } }

/-- Power-on reset: `PW_RSTCAUSE` reads POR, with BOR after a brown-out (R353). -/
def State.por (s : State) : State := (s.coldReset .por).otpScan

/-- A brown-out keeps the slow domain, so its state change shows (R353, R355). Mark: DEDUCED, log entry 63. -/
def State.brownOut (s : State) : State := ((s.coldReset .brown).resetDone 0x81).otpScan.pwState stHold causeLoad

def State.pinReset (s : State) : State := (((s.coldReset .pin).rsat F.PW_RSTCNT_PIN 1).rstCause 2).otpScan

/-- A WDG (bit 2), SOFT (bit 3) or LINK (bit 4) reset: the load starts, and the device is in HOLD (R355, R360). -/
def State.warmReset (s : State) (cause : Nat) (count : Fld) : State :=
  (((s.coreReset .core).rsat count 1).resetDone cause).otpScan.pwState stHold causeLoad

def State.wdgReset (s : State) : State := s.warmReset 4 F.PW_RSTCNT_WDG
def State.softReset (s : State) : State := s.warmReset 8 F.PW_RSTCNT_SOFT
def State.linkReset (s : State) (src : Nat) : State := s.warmReset (16 + 2 ^ 16 * src) F.PW_RSTCNT_LINK

/-! ### RETAIN and OFF (R355 to R357) -/

/-- The event-controller registers that the retention registers hold (R255): EN, ALTTYPE, TCFG and WAKE. Mark: DEDUCED, log entry 64. -/
def retEcReg (o : Nat) : Bool :=
  (R.EC_ENw 0 ≤ o && o < R.EC_ENw 32) || o = R.EC_ALTTYPE_LO || o = R.EC_ALTTYPE_HI || o = R.EC_WAKE ||
    (0x2040 ≤ o && o < 0x20C0 && o % 16 = 8)

/-- The record writer finishes the records it holds (R356); what waits at a source stays there. Mark: DEDUCED, log entry 64. -/
def State.writeAll (s : State) : State := (List.range s.recq.length).foldl (fun (a : State) _ => a.recordTake) s

/-- Rails without RETKEEP are deasserted, and a sequence ends (R368). -/
def State.railsRetain (s : State) : State :=
  (List.finRange 8).foldl (fun (a : State) (r : Fin 8) => if a.ron (F.PSQ_Rr_CFG_RETKEEP r) then a else a.railDeassert r)
    (s.modPsq (fun q => { q with seq := none }))

/-- Ticks from the present one to the first behind the next edge of the slow clock. -/
def State.ticksToSlowEdge (s : State) : Nat := ((s.spine.tick * 32768 / 10 ^ 9 + 1) * 10 ^ 9 + 32767) / 32768 - s.spine.tick

/-- Entry to RETAIN (R52, R255, R356): the spine is saved at the next edge of the slow clock. -/
def State.retainEnter (s : State) : State :=
  let s1 := (((s.holdBootAll true).railsRetain).pwState stRetain causeCommand).writeAll
  { s1 with pw := { s1.pw with
      saved := s1.accAhead s1.ticksToSlowEdge
      retEc := some ⟨s1.ec.srcs, s1.regs.filter (fun e => retEcReg e.1)⟩
      leave := none } }

/-- `PW_CMD` RETAIN is accepted only with the function in D3hot or the link down (R355); a load or a freeze has ignored the write. -/
def State.pwRetain (s : State) : State :=
  if (s.pwSt = stRun ∨ s.pwSt = stIdle ∨ s.pwSt = stHold) ∧ (s.fn.d3 ∨ ¬ s.fn.linkUp) then s.retainEnter else s.pwRefuse

/-- `PW_CMD` OFF: the record is handed over and copied to the MRAM, then the core is powered down (R355). -/
def State.pwOff (s : State) : State := (s.pwState stOff causeCommand).writeAll

/-- VIN below its lockout threshold (R353). Mark: DESIGN CHOICE, log entry 117. -/
def State.vinLockout (s : State) : State := (s.rput F.PW_STAT_VIN_OK 0).rput F.PW_STAT_STATE stOff

/-- An active WKUP_IN edge (R355, R356). Mark: DEDUCED, log entry 65. -/
def State.wkup (s : State) (falling : Bool) : State :=
  if s.ron F.PW_CTRL_WKPOL = falling then
    if s.pwSt = stIdle ∧ ¬ s.frozen then (s.evt F.PW_EVT_WAKE_S).idleEnd causeWkup
    else if s.pwSt = stRetain ∧ s.ron F.PW_CTRL_WKEN ∧ s.pw.leave = none then { s with pw := { s.pw with leave := some causeWkup } }
    else if s.pwSt = stOff ∧ s.ron F.PW_CTRL_WKEN ∧ s.ron F.PW_STAT_VIN_OK then s.por
    else s
  else s

/-- `PW_RET_TMR` expires in RETAIN (R355). Mark: DEDUCED, log entry 65. -/
def State.retTimer (s : State) : State :=
  if s.pwSt = stRetain ∧ s.reg R.PW_RET_TMR ≠ 0 ∧ s.pw.leave = none then { s with pw := { s.pw with leave := some causeTimer } } else s

/-- SRAM of the retained banks (R356, R364). Mark: DESIGN CHOICE, log entry 36. -/
def State.retainedSram (s : State) : Tbl Byte := s.sram.filter (fun e => nbit (s.rget F.PW_RET_CFG_BANKS) (e.1 / 0x40000))

/-- The spine after RETAIN, N slow edges after it was saved (R52). `SPN_SLOWPER` keeps its nominal value: nothing that a command carries
measures the slow clock. Mark: DESIGN CHOICE, log entry 94. -/
def State.resumed (s : State) (edges : Nat) : BitVec 104 := BitVec.ofNat 104 (s.pw.saved + edges * (s.reg R.SPN_SLOWPER).toNat * 2 ^ 24)

/-- The slow edges that a leave of RETAIN by `PW_RET_TMR` has counted cover its MS milliseconds (R355). -/
def State.timerRun (s : State) (cause edges : Nat) : Bool := cause != causeTimer || decide ((s.reg R.PW_RET_TMR).toNat * 32768 ≤ edges * 1000)

/-- Exit from RETAIN (R52, R357, R364): the load that follows restores the event controller before its end. Mark: DEDUCED, log entry 65. -/
def State.retainExit (s : State) (edges : Nat) : State :=
  match s.pw.leave with
  | some cause =>
    if s.pwSt = stRetain ∧ s.timerRun cause edges then
      let s1 := s.modSpine (fun x => { x with acc := s.resumed edges })
      let s2 := { (s1.coreReset .retain).modSpine (fun x => { x with refGone := false }) with
        sram := s1.retainedSram
        fn := State.reset.fn
        load := loadAfter s1.now true
        hif := { s.hifAfter with rstd := s.hif.rstd }
        pw := { s1.pw with linkRst := none, leave := none } }
      ((((s2.rput F.SPN_STAT_LOCKED 1).rstCause 0x40).evt F.PW_EVT_RESET_S).evt F.PW_EVT_WAKE_S).otpScan.pwState stHold cause
    else s
  | none => s

/-- The event controller's registers and sources as RETAIN kept them; without EN nothing is assigned. -/
def State.ecKept (s : State) (q : RetEc) : State :=
  let on := s.ron F.EC_CTRL_EN
  let s1 := q.regs.foldl (fun (a : State) (e : Nat × Word) => a.setReg e.1 e.2) { s with regs := s.regs.filter (fun e => !retEcReg e.1) }
  { s1 with
    ec := { s1.ec with srcs := q.srcs.foldl (fun (t : Tbl EcSrc) (e : Nat × EcSrc) =>
      tblSet (fun _ => EcSrc.reset) t e.1 { e.2 with asg := if on then e.2.asg else none }) [] }
    pw := { s1.pw with retEc := none } }

/-- The event controller is restored (R255): requests since the exit are taken, level sources are evaluated again, pending sources are
assigned, and one message goes to each assigned MSI-X target. Mark: DEDUCED, log entry 64. -/
def State.ecRestore (s : State) : State :=
  match s.pw.retEc with
  | some q =>
    let s2 := s.ecKept q
    (if s2.ecStill then s2 else s2.ecUnlatch).ecRedeliver
  | none => s

/-- The wake condition is true in IDLE with IDLE_WAKE = 1 (R355). -/
def State.idleWake (s : State) : State :=
  if s.pwSt = stIdle ∧ s.ron F.PW_CTRL_IDLE_WAKE ∧ s.wakeBall then (s.evt F.PW_EVT_WAKE_S).idleEnd causeWake else s

/-! ### Supplies (R353) -/

/-- A supply fails: 0 VDDA, 1 VDDL, 2 VPE08 or VPE18. Mark: DEDUCED, log entry 67. -/
def State.supplyFault (s : State) (which : Fin 3) : State :=
  match which with
  | 0 =>
    if s.ron F.PW_STAT_VDDA_OK then
      let s1 := (s.rput F.PW_STAT_VDDA_OK 0).evt F.PW_EVT_SUPPLY_S
      if s1.ron F.SPN_STAT_LOCKED then s1.lockLost F.SPN_EVT_UNLOCK_S else s1
    else s
  | 1 =>
    if s.ron F.PW_STAT_VDDL_OK then
      (List.finRange 4).foldl (fun (a : State) (p : Fin 4) => a.elDown p 2) ((s.rput F.PW_STAT_VDDL_OK 0).evt F.PW_EVT_SUPPLY_S)
    else s
  | 2 => if s.ron F.PW_STAT_VPE_OK then ((s.rput F.PW_STAT_VPE_OK 0).evt F.PW_EVT_SUPPLY_S).linkDown else s

/-- A supply returns. -/
def State.supplyReturn (s : State) (which : Fin 3) : State :=
  match which with
  | 0 => s.rput F.PW_STAT_VDDA_OK 1
  | 1 => s.rput F.PW_STAT_VDDL_OK 1
  | 2 => s.rput F.PW_STAT_VPE_OK 1

/-! ### The watchdog (R362) and the LINK reset (R361) -/

/-- The watchdog's timeout in PLL ticks. Mark: DEDUCED, log entry 72. -/
def State.wdgLimit (s : State) : Nat := s.rget F.PW_WDG_TIMEOUT * 1000000

/-- A write of `PW_WDG_KICK` in HOST mode: the key kicks, any other value resets at once. -/
def State.wdgKick (s : State) (v : Word) : State :=
  if s.rget F.PW_WDG_MODE = 1 then
    if v = 0x0000C396 then { s with pw := { s.pw with wdgTicks := 0, wdgWarned := false } } else s.wdgReset
  else s

/-- Half of TIMEOUT has passed. -/
def State.wdgWarn (s : State) : State :=
  if s.wdgRuns ∧ ¬ s.pw.wdgWarned ∧ s.wdgLimit ≤ 2 * s.pw.wdgTicks then
    ({ s with pw := { s.pw with wdgWarned := true } }).evt F.PW_EVT_WDG_WARN_S
  else s

/-- The watchdog expires. Mark: DEDUCED, log entry 72. -/
def State.wdgExpiry (s : State) : State := if s.wdgRuns ∧ s.wdgLimit ≤ s.pw.wdgTicks then s.wdgReset else s

/-- A LINK reset 20 µs after a matching doorbell (R361). Mark: DESIGN CHOICE, log entry 81. -/
def State.linkResetDue (s : State) : State :=
  match s.pw.linkRst with
  | some (src, t) => if t + 1280000 ≤ s.now then s.linkReset src else s
  | none => s

/-! ### Rows -/

/-- `POWER_ON_RESET` (R359): VIN rises through its lockout threshold. -/
def execPowerOnReset (s : State) : Host.Outcome State Fault Refusal :=
  s.always (fun s => if s.pwSt = stOff then (s.rput F.PW_STAT_VIN_OK 1).por else s)

/-- `BROWN_OUT` (R353). -/
def execBrownOut (s : State) : Host.Outcome State Fault Refusal := s.always (fun s => if s.powered then s.brownOut else s)

/-- `VIN_LOCKOUT` (R353). -/
def execVinLockout (s : State) : Host.Outcome State Fault Refusal := s.always State.vinLockout

/-- `SUPPLY_FAULT` (R353). -/
def execSupplyFault (which : Fin 3) (s : State) : Host.Outcome State Fault Refusal := s.always (fun s => s.supplyFault which)

/-- `SUPPLY_RETURN` (R353). -/
def execSupplyReturn (which : Fin 3) (s : State) : Host.Outcome State Fault Refusal := s.always (fun s => s.supplyReturn which)

/-- `PIN_RESET` (R359). -/
def execPinReset (s : State) : Host.Outcome State Fault Refusal := s.always (fun s => if s.pwSt = stOff then s else s.pinReset)

/-- A `PW_CMD` write with the key (R355, R383); during a freeze it is refused (R380). -/
def State.pwCommand (s : State) (f : State → State) : State :=
  let s1 := s.hostWrite R.PW_CMD f
  if s.frozen ∧ s.powered then s1.pwRefuse else s1

/-- `PW_NOP` (R355). -/
def execPwNop (_p : Path) (s : State) : Host.Outcome State Fault Refusal := .next (s.pwCommand id)

/-- `PW_RUN` (R355). -/
def execPwRun (_p : Path) (s : State) : Host.Outcome State Fault Refusal := .next (s.pwCommand State.pwRun)

/-- `PW_IDLE` (R354, R355). -/
def execPwIdle (_p : Path) (s : State) : Host.Outcome State Fault Refusal := .next (s.pwCommand State.pwIdle)

/-- `PW_HOLD` (R355). -/
def execPwHold (_p : Path) (s : State) : Host.Outcome State Fault Refusal := .next (s.pwCommand State.pwHold)

/-- `PW_RETAIN` (R355, R356). -/
def execPwRetain (_p : Path) (s : State) : Host.Outcome State Fault Refusal := .next (s.pwCommand State.pwRetain)

/-- `PW_OFF` (R355). -/
def execPwOff (_p : Path) (s : State) : Host.Outcome State Fault Refusal := .next (s.pwCommand State.pwOff)

/-- `PW_SOFT` (R359). -/
def execPwSoft (_p : Path) (s : State) : Host.Outcome State Fault Refusal := .next (s.pwCommand State.softReset)

/-- A `PW_CMD` write that the row refuses: a key other than 0x5D96, or a reserved OP, or an OP that the present state does not allow
(R355, R383). An allowed command is not this row's. Mark: DESIGN CHOICE, log entry 4. -/
def State.pwCmdRefused (s : State) (v : Word) : State :=
  let op := wfld v 0 4
  let allowed : Bool :=
    match op with
    | 0 => true
    | 1 => decide (s.pwSt = stIdle)
    | 2 => decide (s.pwSt = stRun)
    | 3 => decide (s.pwSt = stRun ∨ s.pwSt = stIdle)
    | 4 => decide (s.fn.d3 ∨ ¬ s.fn.linkUp)
    | 5 | 6 => true
    | _ => false
  if wfld v 16 16 = 0x5D96 ∧ allowed then s else s.pwRefuse

/-- `PW_CMD_REFUSED` (R383). -/
def execPwCmdRefused (_p : Path) (v : Word) (s : State) : Host.Outcome State Fault Refusal :=
  .next (s.pwCommand (fun s => s.pwCmdRefused v))

/-- `WKUP_IN_EDGE` (R355). -/
def execWkupInEdge (falling : Bool) (s : State) : Host.Outcome State Fault Refusal := s.always (fun s => s.wkup falling)

/-- `RET_TMR_EXPIRY` (R355). -/
def execRetTmrExpiry (s : State) : Host.Outcome State Fault Refusal := s.always State.retTimer

/-- `RETAIN_EXIT` (R357). -/
def execRetainExit (edges : Nat) (s : State) : Host.Outcome State Fault Refusal := s.always (fun s => s.retainExit edges)

/-- `IDLE_WAKE` (R355). -/
def execIdleWake (s : State) : Host.Outcome State Fault Refusal := s.event State.idleWake

/-- `WATCHDOG_KICK` (R362). -/
def execWatchdogKick (p : Path) (v : Word) (s : State) : Host.Outcome State Fault Refusal := s.hostAct p R.PW_WDG_KICK (fun s => s.wdgKick v)

/-- `WDG_WARN` (R362). -/
def execWdgWarn (s : State) : Host.Outcome State Fault Refusal := s.event State.wdgWarn

/-- `WATCHDOG_EXPIRY` (R362). -/
def execWatchdogExpiry (s : State) : Host.Outcome State Fault Refusal := s.event State.wdgExpiry

/-- `LINK_RESET` (R361). -/
def execLinkReset (s : State) : Host.Outcome State Fault Refusal := s.event State.linkResetDue

end Sys2Proof.Machine
end

