-- ==== Sys2Proof/Machine/Health.lean ====
section
/-!
DEFINITION. Health, ageing and the lead budget (R47, R98, R113, R114, R369 to R375).
-/
namespace Sys2Proof.Machine
open Sys2Proof

/-! ### The lead budget (R113, R114) -/

/-- The largest effective launch delay of a Gaffer's channels, in subs (R113). -/
def State.maxOutDly (s : State) (e : Fin 8) : Nat :=
  (List.range 12).foldl (fun (a : Nat) i => max a (s.calE (12 * e.val + i)).1.toNat) 0

/-- The modelled latency of a Gaffer, in subs times the measured rate in M/s: paths, 56 microwords, 1 ns and the launch delay (R113). -/
def State.modelNum (s : State) (e : Fin 8) (g : GafMeas) : Nat := (g.paths.toNat + 64 + s.maxOutDly e) * g.rate.toNat + 56 * 64000

/-- A ratio rounded up. -/
def ceilDiv (a b : Nat) : Nat := (a + b - 1) / b

/-- The budget that a measurement calls for, in ns, with the latency observed (R113). -/
def State.leadCall (s : State) (e : Fin 8) (g : GafMeas) (obs : Nat) : Nat :=
  let d := 64 * max 1 g.rate.toNat
  let num := max (s.modelNum e g) (obs * d)
  max (s.rget (F.Ge_LEAD_CFG_MIN e)) (ceilDiv (5 * num) (4 * d) + 100)

/-- A change of a Gaffer's budget: LEAD_PLAN, and LEAD wakes of the threads that subscribe (R102, R114, R117). -/
def State.leadSet (s : State) (e : Fin 8) (new : Nat) : State :=
  let prev := s.rget (F.Ge_LEAD_BUDGET e)
  let past := s.rget (F.Ge_LEAD_CFG_LIMIT e) < new
  let s1 := s.rput (F.Ge_LEAD_BUDGET e) new
  let s2 := if prev < new then s1.evt (F.Ge_EVT_LEAD_UP_S e) else s1
  let s3 := s2.emit 0x1D 105 s2.now 0 (word (e.val + 256 * b2n past)) (word (new + 2 ^ 16 * prev)) (s2.leadMeas e) (word (s2.rget (F.Ge_SPEED_RATE e)))
  (List.finRange 16).foldl (fun (a : State) (n : Fin 16) => if a.ron (F.Ge_THRn_CFG_LEADSUB e n) then a.wake e n 12 else a) s3

/-- What a measurement of a Gaffer shows (R98, R113). -/
def State.leadModel (s : State) (e : Fin 8) (g : GafMeas) : State :=
  (s.rput (F.Ge_LEAD_MEAS_MODEL e) (min (ceilDiv (s.modelNum e g) (64 * max 1 g.rate.toNat)) 65535)).rput (F.Ge_SPEED_RATE e) g.rate.toNat

/-- A budget past its limit is reported (R114). -/
def State.leadOver (s : State) (e : Fin 8) : State :=
  if s.rget (F.Ge_LEAD_CFG_LIMIT e) < s.rget (F.Ge_LEAD_BUDGET e) then s.evt (F.Ge_EVT_LEAD_OVER_S e) else s

/-- The plan of one Gaffer at boot: from the model alone, and at once (R113). -/
def State.leadBoot (s : State) (e : Fin 8) (g : GafMeas) : State :=
  let s0 := s.leadModel e g
  let new := min (s0.leadCall e g 0) 65535
  (if new = s0.rget (F.Ge_LEAD_BUDGET e) then s0 else s0.leadSet e new).leadOver e

/-- The re-plan of one Gaffer from its measurement (R114). -/
def State.replan (s : State) (e : Fin 8) (g : GafMeas) : State :=
  let s0 := s.leadModel e g
  let new := min (s0.leadCall e g (s0.obsNow e)) 65535
  let prev := s0.rget (F.Ge_LEAD_BUDGET e)
  let s1 :=
    if prev < new then (s0.modGaf e (fun x => { x with lower := [] })).leadSet e new
    else
      let calls := (new :: s0.gaf[e].lower).take 3
      let s1 := s0.modGaf e (fun x => { x with lower := calls })
      let top := calls.foldl max 0
      if calls.length = 3 ∧ top < prev then s1.leadSet e top else s1
  s1.leadOver e

/-- The re-plan of the Gaffers that a list of measurements covers, G0 first. `HL_CTRL.EN` = 0 freezes the budgets. -/
def State.replanAll (s : State) (gs : List GafMeas) : State :=
  if s.ron F.HL_CTRL_EN then
    (gs.zip (List.finRange 8)).foldl (fun (a : State) (x : GafMeas × Fin 8) => a.replan x.2 x.1) s
  else s

/-! ### Age (R373) -/

/-- exp of a ratio times 2^96, for exponents between −64 and 32, by a series of the 256th part and eight squarings. -/
def expFix (num : Int) (den : Nat) : Nat :=
  let one : Int := (2 ^ 96 : Nat)
  let y : Int := num * one / den / 256
  let series := (List.range 24).foldl (fun (a : Int × Int) k =>
    let t := a.2 * y / (one * ((k : Int) + 1))
    (a.1 + t, t)) (one, one)
  ((List.range 8).foldl (fun (a : Int) _ => a * a / one) series.1).toNat

/-- Ten seconds times the acceleration factor at a junction temperature in 1/8 °C, in units of 2^-32 s (R373). Temperatures are counted in
1/40 K, in which 273.15 K and 383.15 K are whole; (0.7 / 8.617·10^-5) · 40 is 2 800 000 000 / 8617. Mark: DEDUCED, log entry 71. -/
def ageStep (tj : Int) : Nat :=
  let t := 5 * tj + 10926
  let num : Int := 2800000000 * (t - 15326)
  let den := 8617 * 15326 * t.toNat
  if t ≤ 0 ∨ num < -64 * (den : Int) then 0 else 10 * expFix num den / 2 ^ 64

/-- The age in seconds at 110 °C. -/
def State.age (s : State) : Nat := (s.reg R.HL_AGE_LO).toNat + 2 ^ 32 * (s.reg R.HL_AGE_HI).toNat

/-- Add to the age accumulator. -/
def State.ageAdd (s : State) (tj : Int) : State :=
  let total := s.age * 2 ^ 32 + s.hl.ageFrac + ageStep tj
  let a := total / 2 ^ 32
  let s1 := (s.setReg R.HL_AGE_LO (word a)).setReg R.HL_AGE_HI (word (a / 2 ^ 32))
  { s1 with hl := { s1.hl with ageFrac := total % 2 ^ 32 } }

/-- The projected end-of-life slowdown: W × (788 940 000 s / A)^0.25, rounded down, once A reaches 3,600 s (R373). Mark: DEDUCED, log entry 71. -/
def projection (w a : Nat) : Nat := if a < 3600 then 0 else Nat.sqrt (Nat.sqrt (w ^ 4 * 788940000 / a))

/-! ### Samples (R369, R372, R374) -/

/-- The slowdown of a monitor in 0.001 % (R372): its reading, normalised to 0.80 V and 25 °C, against its OTP reference (R346), saturated to
the field. Mark: DESIGN CHOICE, log entry 109. -/
def State.monSlow (s : State) (m : Nat) (x : Monitor) (vcore tj : BitVec 16) : Int :=
  let ref := s.otpV (0x700 + m)
  if ref = 0 then (Config.slowNoRef x.raw).toInt
  else (satI (roundDivI (((Config.monitorNorm x.raw vcore tj : Int) - ref) * 100000) ref) (-32768) 32767).1

/-- The slowdowns of a sample's monitors, monitor 0 first. -/
def State.slows (s : State) (ms : List Monitor) (vcore tj : BitVec 16) : List Int :=
  (ms.zip (List.range 32)).map (fun x => s.monSlow x.2 x.1 vcore tj)

/-- The worst slowdown of a sample and its monitor, the lowest-numbered of equals. -/
def worstOf (slows : List Int) : Int × Nat :=
  match slows with
  | [] => (0, 0)
  | m :: rest => (rest.foldl (fun (a : (Int × Nat) × Nat) x => if a.1.1 < x then ((x, a.2), a.2 + 1) else (a.1, a.2 + 1)) ((m, 0), 1)).1

/-- A bank's replica vernier fails its self-test: its error against the capture converter exceeds 20 ps, in 1/16 ps (R369). Mark: DESIGN CHOICE, log entry 109. -/
def vernierFails (e : BitVec 16) : Bool := decide (320 < e.toNat)

/-- n words of an entry whose layout the spec does not give. Mark: DESIGN CHOICE, log entry 25. -/
def State.logWords (s : State) (n : Nat) : List Word := (List.range n).map (fun i => Config.logWord (s.free + i))

/-- Append an entry of 64 bytes to a ring of the MRAM log: written whole before its index advances (R374). Mark: DESIGN CHOICE, log entry 25. -/
def State.mramEntry (s : State) (base size : Nat) (idx : Fld) : State :=
  let s1 := s.mramWr (base + 64 * (s.rget idx % size)) (s.logWords 16)
  ({ s1 with free := s1.free + 16 }).rwrap idx 1

/-- What a health sample shows (R369, R372, R373): monitors, self-test, age and projection. -/
def State.healthRegs (s : State) (tj : BitVec 16) (ms : List Monitor) (slows : List Int) (vstFail : Bool) : State :=
  let s1 := ((ms.zip slows).zip (List.range 32)).foldl (fun (a : State) (x : (Monitor × Int) × Nat) =>
    a.setReg (R.HL_MONm x.2) (word (x.1.1.raw.toNat + 2 ^ 16 * (x.1.2 % 65536).toNat))) (s.rput F.HL_TEMP_TJ tj.toNat)
  let bad := slows.any (fun v => decide (10000 < v))
  let s2 := (s1.rput F.HL_STAT_MON_FAIL (b2n bad)).rput F.HL_STAT_VST_FAIL (b2n vstFail)
  let s3 := if bad then s2.evt F.HL_EVT_MON_S else s2
  let s4 := (if vstFail then s3.evt F.HL_EVT_VST_S else s3).ageAdd tj.toInt
  let w := (worstOf slows).1
  (s4.rput F.HL_LIFE_NOW (w % 65536).toNat).rput F.HL_LIFE_PROJ (min (projection w.toNat s4.age) 65535)

/-- A sample enters the MRAM log while `HL_CTRL.LOG` is 1 (R374). -/
def State.healthLog (s : State) : State := if s.ron F.HL_CTRL_LOG then s.mramEntry 0x8000 4096 F.HL_MRAM_SAMPIDX else s

/-- HEALTH_SAMPLE, while `HL_CTRL.REC` is 1 (R369, R381): corrected ECC errors since the last sample and the worst monitor's number among the rest. -/
def State.healthRecord (s : State) (tj vcore : BitVec 16) (ecc worst : Nat) (vstFail : Bool) : State :=
  if s.ron F.HL_CTRL_REC then
    s.emit 0x20 105 s.now 0 (word (tj.toNat + 2 ^ 16 * s.rget F.HL_LIFE_NOW)) (word (ecc + 2 ^ 16 * vcore.toNat)) (word (s.age / 3600))
      (word (worst + 256 * b2n vstFail))
  else s

/-- The corrected errors are counted anew from a sample on. -/
def State.eccMark (s : State) : State := { s with hl := { s.hl with corrAt := s.rget F.HL_ECC_CORR } }

/-- PLL ticks of the 10 s between samples (R369), and of the hour between checkpoints (R373). -/
def samplePeriod : Nat := 10 * 10 ^ 9
def lifePeriod : Nat := 3600 * 10 ^ 9

/-- Nothing has been taken yet, or a period has passed since. -/
def State.periodOver (s : State) (last : Option Nat) (period : Nat) : Bool :=
  match last with
  | none => true
  | some t => decide (t + period ≤ s.spine.tick)

/-- The health block takes its next sample now (R369): `HL_CTRL.EN` is 1, and the last sample lies 10 s back. Mark: DESIGN CHOICE, log entry 114. -/
def State.sampleDue (s : State) : Bool := s.ron F.HL_CTRL_EN && s.periodOver s.hl.sampleAt samplePeriod

/-- A sample of the health block (R369). -/
def State.healthSample (s : State) (tj vcore : BitVec 16) (ms : List Monitor) (vst : List (BitVec 16)) (gs : List GafMeas) : State :=
  if s.sampleDue then
    let slows := s.slows ms vcore tj
    let vstFail := vst.any vernierFails
    let s1 := { s with hl := { s.hl with sampleAt := some s.spine.tick } }
    (((s1.healthRegs tj ms slows vstFail).replanAll gs).eccMark.healthLog).healthRecord tj vcore
      (s.rget F.HL_ECC_CORR - s.hl.corrAt) (worstOf slows).2 vstFail
  else s

/-- The margin: the limit of 10 % minus the projection, in 0.001 % (R373). -/
def State.margin (s : State) : Int := 10000 - (s.rget F.HL_LIFE_PROJ : Int)

/-- The health block writes its next checkpoint now (R373): an hour after the last. Mark: DESIGN CHOICE, log entry 114. -/
def State.lifeDue (s : State) : Bool := s.ron F.HL_CTRL_EN && s.periodOver s.hl.lifeAt lifePeriod

/-- The hourly checkpoint (R373, R374). -/
def State.healthLife (s : State) : State :=
  if s.lifeDue then
    let low := decide (s.margin < (s.rget F.HL_LIFE_CFG_WARN : Int))
    let s0 := { s with hl := { s.hl with lifeAt := some s.spine.tick } }
    let s1 := (s0.mramEntry 0x48000 2048 F.HL_MRAM_HOURIDX).rput F.HL_STAT_WARN (b2n low)
    let s2 := if low then s1.evt F.HL_EVT_LIFE_S else s1
    s2.emit 0x23 105 s2.now 0 (word (s2.age / 3600)) (s2.reg R.HL_LIFE) (iword s2.margin) (word (b2n low))
  else s

/-! ### Recalibration (R47, R370) -/

/-- Why a recalibration runs now: 3 a load, 1 the temperature, 2 the interval; 0 none (R370). Mark: DEDUCED, log entry 71. -/
def State.recalCause (s : State) (tj : Int) : Nat :=
  if s.loading then 3
  else if ¬ s.ron F.HL_CTRL_EN then 0
  else if 40 ≤ (tj - signed (s.rget F.HL_TEMP_TCAL) 16).natAbs then 1
  else if s.hl.recalAt + 600 * 64000000000 ≤ s.now then 2
  else 0

/-- The new tables of one bank, in the shadow copy that the next tick boundary takes (R47). -/
def State.recalBank (s : State) (m : BankMeas) : State :=
  (((((s.modBank m.b (fun x => { x with bins := m.bins, swap := true })).rwrap (F.SPN_BANKCALb_RECAL_CNT m.b) 1).rput (F.SPN_BANKCALb_TDC_SPAN m.b) m.span.toNat).rput
    (F.SPN_BANKCALb_ELEM m.b) m.elem.toNat).rput (F.SPN_BANKCALb_VALID m.b) 1)

/-- A recalibration (R370): tables, TCAL, the count, the record, and the re-plan (R114), or the plan at boot (R113, R364). Mark: DESIGN CHOICE, log entry 78. -/
def State.recalibrate (s : State) (ms : List BankMeas) (gs : List GafMeas) (tj : BitVec 16) : State :=
  let cause := s.recalCause tj.toInt
  if cause = 0 then s
  else
    let s1 := ms.foldl (fun (a : State) m => a.recalBank m) s
    let mask := (List.finRange 12).foldl (fun (a : Nat) (b : Fin 12) => a + bitAt b (ms.any (fun m => m.b == b))) 0
    let s2 := ((s1.rput F.HL_TEMP_TCAL tj.toNat).rwrap F.HL_RECAL_COUNT 1).rput F.HL_RECAL_LAST cause
    let s3 := ({ s2 with hl := { s2.hl with recalAt := s2.now } }).evt F.HL_EVT_RECAL_S
    let s4 := s3.emit 0x21 105 s3.now 0 (word cause) (word tj.toNat) (word mask) 0
    if cause = 3 ∧ ¬ s.load.isReload then (gs.zip (List.finRange 8)).foldl (fun (a : State) (x : GafMeas × Fin 8) => a.leadBoot x.2 x.1) s4
    else s4.replanAll gs

/-! ### Rows -/

/-- `HEALTH_SAMPLE` (R369). -/
def execHealthSample (tj vcore : BitVec 16) (ms : List Monitor) (vst : List (BitVec 16)) (gs : List GafMeas) (s : State) :
    Host.Outcome State Fault Refusal :=
  s.event (fun s => s.healthSample tj vcore ms vst gs)

/-- `HEALTH_LIFE` (R373). -/
def execHealthLife (s : State) : Host.Outcome State Fault Refusal := s.event State.healthLife

end Sys2Proof.Machine
end

