-- ==== Sys2Proof/Machine/Tick.lean ====
section
/-!
DEFINITION. The PLL tick (R28, R30, R37, R312): what the end of a tick completes, the spine's move, and what the start of the next one
does, a strobe first; and the rows of the spine and the apply block that are a tick or can strobe in one.
-/
namespace Sys2Proof.Machine
open Sys2Proof

/-! ### The slow clock (R310) -/

/-- The slow domain's clock, of 32,768 Hz, has an edge between tick k and the next: its edges are counted from reset. Mark: DESIGN CHOICE, log entry 93. -/
def slowEdgeAt (k : Nat) : Bool := (k + 1) * 32768 / 10 ^ 9 != k * 32768 / 10 ^ 9

/-- The waiting writes of the slow domain take effect, in the order in which they were accepted (R310). -/
def State.slowApply (s : State) : State :=
  s.hif.slow.foldl (fun (a : State) x => a.setReg x.ofs ((a.reg x.ofs &&& ~~~x.bits) ||| (x.w &&& x.bits))) s

/-- The configuration count advances for each of some registers that differs from its earlier value (R323). -/
def State.slowCount (s old : State) (os : List Nat) : State :=
  os.foldl (fun (a : State) o => if s.sigValue o = old.sigValue o then a else a.cfgChanged) s

/-- An edge of the slow clock (R310): the copies show what the last edge applied, and the writes accepted since are applied; the changes
count (R323), and a watchdog that such a write turns on counts from here (R362). Mark: DEDUCED, log entry 115. -/
def State.slowEdge (s : State) : State :=
  let s1 := s.slowApply.slowCount s (s.hif.slow.map SlowWr.ofs).dedup
  let s2 := if s.hif.slow.any (fun x => decide (x.ofs = R.PW_WDG)) then { s1 with pw := { s1.pw with wdgTicks := 0, wdgWarned := false } } else s1
  { s2 with hif := { s2.hif with slow := [], slowOld := s.hif.slow.map (fun x => { x with w := s.reg x.ofs }) } }

/-- The edge, if the slow clock has one behind a tick. -/
def State.slowTick (s : State) (k : Nat) : State :=
  if slowEdgeAt k ∧ (s.hif.slow ≠ [] ∨ s.hif.slowOld ≠ []) then s.slowEdge else s

/-! ### The tick -/

/-- What the channels do at the start of a tick, after its strobe: ticks are counted, own edges arrive, and records that have waited go
(R25, R55, R78). -/
def State.chTick (s : State) (c : Fin 96) : State :=
  let s1 := if s.ch[c].inLvl then s.count c 9 else s
  ((s1.ownStep c none).stagePump c).capPump c

/-- The start of the next tick (R312): its identity, the strobe of what is due in it with further groups, then the blocks. -/
def State.tickStart (s : State) (extra : Nat) : State :=
  let s0 := { s.modSpine (fun p => { p with tick := p.tick + 1 }) with hif := { s.hif with evSet := [] } }
  let s1 := (s0.slowTick s.spine.tick).apTick extra
  let s2 := (List.finRange 12).foldl (fun (s : State) (b : Fin 12) => s.bankSwap b) s1
  let s3 := (List.finRange 2).foldl (fun (s : State) (k : Fin 2) => s.convTick k)
    ((List.finRange 4).foldl (fun (s : State) (n : Fin 4) => s.oTickStart n) s2)
  (List.finRange 96).foldl (fun (s : State) (c : Fin 96) => s.chTick c) s3.lhLateCheck.rseqStep

/-- What the end of a tick completes: COUNT records of the images latched in it, the report of a slew that ended (R39, R80), the cam edges
and commands of the Orreries (R182), and the values that its strobe left for its end (R180, R202). Mark: DESIGN CHOICE, log entry 16. -/
def State.tickEnd (s : State) : State :=
  let s1 := ((List.finRange 96).foldl (fun (s : State) (c : Fin 96) => s.flushImage c) s).slewFinish
  ((List.finRange 4).foldl (fun (s : State) (n : Fin 4) => s.oTickEnd n) s1).activateHeld

/-- The spine's own move from one tick to the next (R30, R37): a held spine stays. -/
def State.spineMove (s : State) : State :=
  match s.spine.hold with
  | some h =>
    if h.n = 0 then (s.spineAdvance h.f).modSpine (fun p => { p with hold := none })
    else s.modSpine (fun p => { p with hold := some { h with n := h.n - 1 } })
  | none => s.spineAdvance 0

/-- The move from one tick to the next, which begins with a strobe of further groups. -/
def State.tickMove (s : State) (extra : Nat) : State := s.tickEnd.spineMove.tickStart extra

/-- One PLL tick. Before lock the spine does not count (R28); while the device is frozen it stays and the frozen ticks are counted
(R377, R378); in RETAIN and OFF there is no PLL (R354). The watchdog counts ticks as its time (R362). Mark: DESIGN CHOICE, log entry 1; DEDUCED, log entry 72. -/
def State.pllTickWith (s : State) (extra : Nat) : State :=
  let quiet := { s with hif := { s.hif with evSet := [] } }
  if ¬ s.spine.counting ∨ ¬ s.powered then quiet.slowEdge
  else if s.frozen then ({ quiet with frz := { s.frz with ticks := s.frz.ticks + 1 } }).slowTick (s.spine.tick + s.frz.ticks)
  else
    let s1 := if s.loading then s else { s with pw := { s.pw with wdgTicks := s.pw.wdgTicks + 1 } }
    s1.tickMove extra

/-- One PLL tick with no strobe but what is due. Mark: DESIGN CHOICE, log entry 1; DEDUCED, log entry 72. -/
def State.pllTick (s : State) : State := s.pllTickWith 0

/-! ### Phase commands (R35, R314) -/

/-- A `SPN_CMD` write, and the entries that a positive step passes (R314). -/
def State.spnIssue (s : State) (op : Option SpnOp) (code : Nat) (waits : Bool) (ag : Nat) : State :=
  (s.spnCommand op code waits ag).apFollow s

/-- `SET` (R35). -/
def execSpineSet (p : Path) (waits : Bool) (ag : Fin 8) (s : State) : Host.Outcome State Fault Refusal :=
  s.hostAct p R.SPN_CMD (fun s => s.spnIssue (some .set) 1 waits ag)

/-- `STEP` (R35). -/
def execSpineStep (p : Path) (waits : Bool) (ag : Fin 8) (s : State) : Host.Outcome State Fault Refusal :=
  s.hostAct p R.SPN_CMD (fun s => s.spnIssue (some .step) 2 waits ag)

/-! ### Rows that are a tick -/

/-- `HOLD_END` (R37): the tick in which a hold ends, if that is the next one. -/
def execHoldEnd (s : State) : Host.Outcome State Fault Refusal :=
  s.event (fun s => match s.spine.hold with
    | some h => if h.n = 0 ∨ (h.n = 1 ∧ h.f = 0) then s.pllTick else s
    | none => s)

/-- `APPLY_STROBE` (R312): a tick that begins with a strobe of the group. Mark: DESIGN CHOICE, log entry 41. -/
def execApplyStrobe (g : Fin 8) (s : State) : Host.Outcome State Fault Refusal := s.event (fun s => s.pllTickWith (2 ^ g.val))

/-- The next tick strobes a pending entry (R314): its spine time reaches one, or one was late when it was placed. -/
def State.apNext (s : State) : Bool :=
  (List.range 8).any (fun i => s.apValid i && (nbit s.ap.late.toNat i || decide (s.apT i * 64 ≤ s.tAhead 1)))

/-- `APPLY_AT_DUE` (R314): the tick in which the spine reaches a pending entry, if that is the next one. -/
def execApplyAtDue (s : State) : Host.Outcome State Fault Refusal := s.event (fun s => if s.apNext then s.pllTick else s)

end Sys2Proof.Machine
end

