-- ==== Sys2Proof/Machine/Freeze.lean ====
section
/-!
DEFINITION. Freeze and thaw (R376 to R381).
-/
namespace Sys2Proof.Machine
open Sys2Proof

/-- A refused request (R376, R380). -/
def State.frzRefuse (s : State) : State := s.evt F.FRZ_EVT_REF_S

/-- Hold every channel with HOLD_FRZ, or let it go, at one tick (R59, R377). -/
def State.holdFrzAll (s : State) (on : Bool) : State :=
  s.holdsChange (List.finRange 96) (fun s => (List.finRange 96).foldl (fun (a : State) (c : Fin 96) => a.modCh c (fun x => { x with holdFrz := on })) s)

/-- The freeze tick (R377): the spine stops in the present tick at Tf, and pins hold OL or go to their safe level. Mark: DEDUCED, log entry 73. -/
def State.frzBegin (s : State) (cause : Nat) : State :=
  let s1 := ((s.setReg R.FRZ_T_LO (word (tNs s.now))).setReg R.FRZ_T_HI (word (tNs s.now / 2 ^ 32))).setReg R.FRZ_T_SUB (word (tSub s.now))
  let s2 := ({ s1 with frz := ⟨0, cause, s1.frz.ball⟩ }).rwrap F.FRZ_CNT_FREEZES 1
  let s3 := (s2.rput F.FRZ_STAT_STOPPING 1).evt F.FRZ_EVT_FREEZE_S
  if s3.ron F.FRZ_CTRL_PINS then s3.holdFrzAll true else s3

/-- A freeze request (R376): of the ball, or of a command. -/
def State.frzRequest (s : State) (f : Fld) (cause : Nat) : State :=
  if ¬ s.powered ∨ s.loading then s.frzRefuse
  else if s.frozen then s.rput f 1
  else (s.rput f 1).frzBegin cause

/-- The gap G, in units of 2^-40 ns: what the spine would have counted at `SPN_RATE` over the frozen ticks, which lie between the freeze
tick and the thaw tick (R380). Mark: DEDUCED, log entry 73. -/
def State.frzGap (s : State) : Nat := s.frz.ticks * ((2 ^ 40 : Int) + s.rateWord).toNat

/-- The gap is added as a positive step, without the record of one (R36, R205, R314, R379). Mark: DEDUCED, log entry 73. -/
def State.gapStep (s : State) (g : Nat) : State :=
  let s1 := s.modSpine (fun x => { x with acc := x.acc + BitVec.ofNat 104 g, stepTick := some x.tick })
  (((s1.stepRejudge).apPass s.now).lhPass).apFollow s

/-- The first stamp of each capture unit, Orrery stamper and Ewerlink capture after the thaw carries STEP (R379); the frozen ticks, which
the PLL has counted, have passed for whatever counts PLL ticks, except health sampling, which has paused (R378). -/
def State.frzMarks (s : State) : State :=
  { s with
    spine := { s.spine with tick := s.spine.tick + s.frz.ticks }
    ch := s.ch.map (fun x => { x with cap0 := { x.cap0 with mark := true }, cap1 := { x.cap1 with mark := true } })
    ory := s.ory.map (fun x => { x with marks := 7 })
    hl := { s.hl with sampleAt := s.hl.sampleAt.map (· + s.frz.ticks), lifeAt := s.hl.lifeAt.map (· + s.frz.ticks) }
    el := { s.el with ports := s.el.ports.map (fun x => { x with mark := true }) } }

/-- What the thaw shows of the gap (R380). -/
def State.gapRegs (s : State) (g : Nat) : State :=
  ((s.setReg R.FRZ_GAP_LO (word (g / 2 ^ 40))).setReg R.FRZ_GAP_HI (word (g / 2 ^ 72))).setReg R.FRZ_GAP_SUB
    (word (g / 2 ^ 34 % 64 + 256 * s.rget F.FRZ_CTRL_ADDGAP))

/-- The FREEZE and THAW records (R379, R381). Mark: DEDUCED, log entry 73. -/
def State.frzRecords (s : State) (g : Nat) (pins : Bool) : State :=
  let tf := ((s.reg R.FRZ_T_LO).toNat + 2 ^ 32 * (s.reg R.FRZ_T_HI).toNat) * 64 + s.rget F.FRZ_T_SUB_SUB
  let s1 := s.emit 0x05 107 tf 0 (word (s.frz.cause + 16 * b2n pins)) (word (s.rget F.FRZ_CNT_FREEZES)) 0 0
  s1.emit 0x06 107 s1.now 0 (word (g / 2 ^ 40)) (word (g / 2 ^ 72)) (s1.reg R.FRZ_GAP_SUB) (word (min s1.frz.ticks (2 ^ 32 - 1)))

/-- The messages that a freeze has kept back leave (R254, R378). -/
def State.frzMsix (s : State) : State :=
  let s1 := s.msixFlush
  if s1.ec.owed then ({ s1 with ec := { s1.ec with owed := false } }).ecRedeliver else s1

/-- The thaw tick (R379): no request stands any more. Mark: DEDUCED, log entry 73; DEDUCED, log entry 74. -/
def State.frzThaw (s : State) : State :=
  let g := s.frzGap
  let pins := s.ch[0].holdFrz
  let s1 := (((s.rput F.FRZ_STAT_STOPPING 0).rput F.FRZ_STAT_FROZEN 0).gapRegs g).frzMarks.tickMove 0
  let s2 := s1.holdFrzAll false
  let s3 := if s2.ron F.FRZ_CTRL_ADDGAP then s2.gapStep g else s2
  let s4 := ((s3.frzRecords g pins).evt F.FRZ_EVT_THAW_S).frzMsix
  if s4.ecLatched then s4 else s4.ecUnlatch

/-- A request ends; if none stands any more, the device thaws (R376). -/
def State.frzEnd (s : State) (f : Fld) : State :=
  let s1 := s.rput f 0
  if s1.frozen then s1 else s1.frzThaw

/-! ### The FREEZE ball (R376) -/

/-- The FREEZE ball is at the active level that `FRZ_CTRL.POL` gives. -/
def State.frzActive (s : State) : Bool := s.frz.ball != s.ron F.FRZ_CTRL_POL

/-- The ball as it stands, judged by BALL_EN and POL (R376): active, it requests; released, its request ends. Mark: DEDUCED, log entry 116. -/
def State.frzBall (s : State) : State :=
  if s.frzActive then (if s.ron F.FRZ_CTRL_BALL_EN ∧ ¬ s.ron F.FRZ_STAT_REQ_BALL then s.frzRequest F.FRZ_STAT_REQ_BALL 0 else s)
  else if s.ron F.FRZ_STAT_REQ_BALL then s.frzEnd F.FRZ_STAT_REQ_BALL
  else s

/-- The ball goes to its active level for 100 ns, or is released. -/
def State.frzBallTo (s : State) (active : Bool) : State :=
  ({ s with frz := { s.frz with ball := active != s.ron F.FRZ_CTRL_POL } }).frzBall

/-! ### The freeze buffer (R377) -/

/-- The shared registers of the Gaffers, 8 bytes each, G0 first. -/
def State.frzShared (s : State) : List Word :=
  (List.finRange 8).flatMap (fun (e : Fin 8) => s.gaf[e].sreg.toList.flatMap (fun v => [word v.toNat, word (v.toNat / 2 ^ 32)]))

/-- Bytes of the buffer in a range: the spec names what an item holds, and not where in the item it stands. Mark: DESIGN CHOICE, log entry 27. -/
def frzFree (free lo n : Nat) (m : Tbl Byte) (base : Nat) : Tbl Byte :=
  (List.range n).foldl (fun (t : Tbl Byte) i => memWr t (base + lo + i) (Config.freezeByte free (lo + i))) m

/-- Write the buffer: threads, shared registers, channels, Orreries, requests and held records. Mark: DESIGN CHOICE, log entry 27. -/
def State.frzBuffer (s : State) : State :=
  let b := (s.reg R.FRZ_BUF).toNat
  let m1 := frzFree s.free 0 0x4000 s.sram b
  let m2 := frzFree s.free 0x5000 0x2000 m1 b
  { s with sram := memWrWs m2 (b + 0x4000) s.frzShared, free := s.free + 1 }

/-- Every block has stopped (R377). -/
def State.frzComplete (s : State) : State :=
  if s.frozen ∧ s.ron F.FRZ_STAT_STOPPING then (s.frzBuffer.rput F.FRZ_STAT_STOPPING 0).rput F.FRZ_STAT_FROZEN 1 else s

/-! ### Rows -/

/-- `FREEZE_BALL` (R376). -/
def execFreezeBall (s : State) : Host.Outcome State Fault Refusal :=
  s.always (fun s => s.frzBallTo true)

/-- `FREEZE_BALL_RELEASE` (R376). -/
def execFreezeBallRelease (s : State) : Host.Outcome State Fault Refusal :=
  s.always (fun s => s.frzBallTo false)

/-- A `FRZ_CMD` write: a load ignores it as any host write (R342), and the request is refused, as in RETAIN and OFF (R376). Mark: DESIGN CHOICE, log entry 4. -/
def State.frzCommand (s : State) (f : State → State) : State :=
  let s1 := s.hostWrite R.FRZ_CMD f
  if s.loading ∨ ¬ s.powered then s1.frzRefuse else s1

/-- The cause that a FREEZE record names (R381): 1 PCIe, 2 SPI, 3 JTAG. -/
def frzCause (o : FrzPort) : Nat := match o with | .host p => 1 + pathBit p | .jtag => 3

/-- FREEZE of a host path or of the JTAG vendor debug port. -/
def State.frzFreeze (s : State) (o : FrzPort) : State := s.frzRequest F.FRZ_STAT_REQ_CMD (frzCause o)

/-- THAW (R376): refused with no freeze (R380). -/
def State.frzThawCmd (s : State) : State :=
  if ¬ s.frozen then s.frzRefuse else if s.ron F.FRZ_STAT_REQ_CMD then s.frzEnd F.FRZ_STAT_REQ_CMD else s

/-- `FREEZE` (R376, R377). -/
def execFreeze (o : FrzPort) (s : State) : Host.Outcome State Fault Refusal := .next (s.frzCommand (fun s => s.frzFreeze o))

/-- `THAW` (R379). -/
def execThaw (_o : FrzPort) (s : State) : Host.Outcome State Fault Refusal := .next (s.hostWrite R.FRZ_CMD State.frzThawCmd)

/-- `FRZ_NOP` (R376). -/
def execFrzNop (p : Path) (s : State) : Host.Outcome State Fault Refusal := s.hostAct p R.FRZ_CMD id

/-- `FREEZE_COMPLETE` (R377). -/
def execFreezeComplete (s : State) : Host.Outcome State Fault Refusal := s.always State.frzComplete

end Sys2Proof.Machine
end

