-- ==== Sys2Proof/Machine/CfgCmd.lean ====
section
/-!
DEFINITION. The commands of `CFG_CMD` (R341 to R343, R350), the write-once registers and locks of the global page (R308, R319, R320),
and the user calibration words (R347, R348).
-/
namespace Sys2Proof.Machine
open Sys2Proof

/-! ### `CFG_CMD` -/

/-- A refused command (R341, R343). -/
def State.cfgRefuse (s : State) : State := (s.rput F.CFG_STAT_CMD_REF 1).evt F.CFG_EVT_CMD_ERR_S

/-- An accepted command clears CMD_REF; during a load every command is refused (R342). -/
def State.cfgAccept (s : State) (f : State → State) : State := if s.loading then s.cfgRefuse else f (s.rput F.CFG_STAT_CMD_REF 0)

/-- RELOAD (R343): verification begins, while the device works on. Mark: DEDUCED, log entry 75. -/
def State.cfgReload (s : State) (slot : Nat) : State :=
  s.cfgAccept (fun s => { s with load := { s.load with reload := some ⟨slot, s.now⟩, excl := 0, divs := 0 } })

/-- RELEASE (R341): of a device that is held. -/
def State.cfgRelease (s : State) : State :=
  if s.loading ∨ ¬ s.ron F.CFG_STAT_HELD then s.cfgRefuse else s.cfgAccept State.releaseNow

/-- CLRERR (R350). -/
def State.cfgClrerr (s : State) : State := s.cfgAccept (fun s => (s.setReg R.CFG_LOADERR 0).setReg R.CFG_HOSTIGN 0)

/-- A write to `CFG_CMD`: reserved OP values name no command, and a load refuses any write (R342). -/
def State.cfgCommand (s : State) (v : Word) : State :=
  match wfld v 0 3 with
  | 0 => s.cfgAccept id
  | 1 => s.cfgReload (wfld v 4 2)
  | 2 => s.cfgRelease
  | 3 => s.cfgClrerr
  | _ => if s.loading then s.cfgRefuse else s

/-- A host's RELOAD: while the device is frozen it is refused, besides being counted as any other write (R343, R380). Mark: DEDUCED, log entry 75. -/
def State.reloadWrite (s : State) (slot : Nat) : State :=
  let s1 := s.hostWrite R.CFG_CMD (fun s => s.cfgReload slot)
  if s.frozen ∧ s.powered then s1.cfgRefuse else s1

/-! ### Locks and the host tag -/

/-- A write to `GL_LOCK` (R308, R319): CSTORE sets the locks of all eight control stores. -/
def State.lockWrite (s : State) (v : Word) : State :=
  s.cfgWrite R.GL_LOCK (fun s =>
    let s1 := s.rput F.GL_LOCK_DOMAINS (s.rget F.GL_LOCK_DOMAINS ||| wfld v 0 12)
    if nbit v.toNat 9 then
      (List.range 8).foldl (fun (a : State) e => (a.rput (F.CSe_CTRL_LOCK e) 1).rput (F.CSe_CTRL_WE e) 0) s1
    else s1)

/-- A write to `GL_HOSTTAG` (R320). -/
def State.tagWrite (s : State) (p : Path) (v : Word) : State :=
  if s.ron F.GL_STAT_HOSTTAG_SET then s.lockViolation p R.GL_HOSTTAG v 0 true
  else (s.cfgWrite R.GL_HOSTTAG (fun s => s.setReg R.GL_HOSTTAG v)).rput F.GL_STAT_HOSTTAG_SET 1

/-! ### User calibration words -/

/-- The bits of a user word that are used (R347). -/
def calBits (q : Nat) : Nat :=
  if ¬ calHasU q then 0
  else if 0xD0 ≤ q ∧ q < 0xF0 ∧ q % 8 = 5 then 0xFFFFFF
  else 0xFFFF

/-- A write of `CAL_U_DATA` (R319, R347, R348): the word of the path's index is staged. -/
def State.calWrite (s : State) (p : Path) (v : Word) : State :=
  let q := wfld (s.heldWord p R.CAL_IDX) 0 12
  if s.locked 1 then s.lockViolation p R.CAL_U_DATA v 2 false
  else if calHasU q then { s with calS := tblPut s.calS q (word (v.toNat &&& calBits q)) }
  else s

/-! ### Rows -/

/-- `CFG_NOP` (R343, R350). -/
def execCfgNop (_p : Path) (s : State) : Host.Outcome State Fault Refusal := .next (s.hostWrite R.CFG_CMD (fun s => s.cfgAccept id))

/-- `RELOAD` (R343). -/
def execReload (_p : Path) (slot : Fin 4) (s : State) : Host.Outcome State Fault Refusal := .next (s.reloadWrite slot)

/-- `RELEASE` (R341). -/
def execRelease (_p : Path) (s : State) : Host.Outcome State Fault Refusal := .next (s.hostWrite R.CFG_CMD State.cfgRelease)

/-- `CLRERR` (R350). -/
def execClrerr (_p : Path) (s : State) : Host.Outcome State Fault Refusal := .next (s.hostWrite R.CFG_CMD State.cfgClrerr)

/-- `GL_LOCK_WRITE` (R319). -/
def execGlLockWrite (p : Path) (v : Word) (s : State) : Host.Outcome State Fault Refusal := s.hostAct p R.GL_LOCK (fun s => s.lockWrite v)

/-- `GL_HOSTTAG_WRITE` (R320). -/
def execGlHosttagWrite (p : Path) (v : Word) (s : State) : Host.Outcome State Fault Refusal :=
  s.hostAct p R.GL_HOSTTAG (fun s => s.tagWrite p v)

/-- `CAL_U_DATA_ACCESS` (R348, R350): a read, or a write of a word; AINC steps the index after either. -/
def execCalUDataAccess (p : Path) (wr : Option Word) (s : State) : Host.Outcome State Fault Refusal :=
  match wr with
  | some v => s.hostAct p R.CAL_U_DATA (fun s => (s.calWrite p v).calStep p)
  | none => s.hostRead (fun s => s.readReg p R.CAL_U_DATA)

end Sys2Proof.Machine
end

