-- ==== Sys2Proof/Machine/Summary.lean ====
section
/-!
DEFINITION. The configuration signature (R324, R325) and the state summary (R326, R327, R382).
-/
namespace Sys2Proof.Machine
open Sys2Proof

/-! ### The signature (R324, R325) -/

/-- Aligned offsets from `lo`, n words. -/
def offsets (lo n : Nat) : List Nat := (List.range n).map (fun i => lo + 4 * i)

/-- Every offset that a register of the signature set can have, in ascending order. -/
def sigOffsets : List Nat :=
  offsets 0 0x2800 ++ offsets 0x10000 0xE000 ++ offsets 0x100000 0x6000 ++ (List.range 8).map (fun e => R.CSe_CTRL e)

/-- The words of the register part of the stream (R324, R348). -/
def State.sigRegs (s : State) : List Nat :=
  sigOffsets.flatMap (fun o =>
    if o = R.CAL_U_DATA then
      ((List.range 0xF8).filter calHasU).flatMap (fun q => [0x80000000 + q, (s.calUser q).toNat])
    else if sigBits o = 0 then [] else [o, s.sigValue o])

/-- The words of the sources' part of the stream. -/
def State.sigSources (s : State) : List Nat :=
  (List.range 1024).flatMap (fun n => [n, (s.ecSrc n).tgt.toNat, (s.ecSrc n).route.toNat])

/-- The CRC over the control stores. -/
def State.sigStores (s : State) (r : Nat) : Nat :=
  (List.finRange 8).foldl (fun (a : Nat) (e : Fin 8) =>
    (List.range 2048).foldl (fun (a : Nat) w => crcBytes a 18 ((s.csWord e w).toNat % 2 ^ 144)) a) r

/-- The configuration signature (R324). -/
def State.signature (s : State) : Word := crcFinal (s.sigStores (crcWords (crcWords crcInit s.sigRegs) s.sigSources))

/-- A request for a signature: one that runs serves it (R325). -/
def State.sigStart (s : State) (req : Nat) : State :=
  match s.hif.sig with
  | some _ => s
  | none => { s with hif := { s.hif with sig := some ⟨req, s.rget F.GL_CFGGEN_GEN, s.now⟩ } }

/-- The end of the computation (R325). Mark: DESIGN CHOICE, log entry 23. -/
def State.sigDone (s : State) : State :=
  match s.hif.sig with
  | none => s
  | some q =>
    let stale := s.rget F.GL_CFGGEN_GEN != q.gen
    let sig := if stale then Config.staleSignature s.free else s.signature
    let s0 := if stale then s.drawn else s
    let us := (s.now - q.start) / 64000
    let s1 := { s0 with hif := { s0.hif with sig := none } }
    let s2 := ((s1.setReg R.GL_SIG sig).setReg R.GL_SIGGEN (word q.gen)).setReg R.GL_SIGSTAT
      (word (1 + 2 * b2n stale + 4 * q.req + 2 ^ 16 * min us 65535))
    (s2.evt F.GL_EVT_SIG_S).emit 0x2B 104 s2.now 0 sig (word q.gen) (word (b2n stale + 2 * q.req)) (word us)

/-! ### The summary (R326, R327) -/

/-- Who asked for a summary, and what its header says: requester, ring, CSEQ, COUNT, start time and COARSE. -/
structure SumHead where
  req : Nat
  ring : Nat
  cseq : Nat
  count : Nat
  start : Nat
  coarse : Bool
  deriving DecidableEq, Repr

/-- A register as the summary shows it. -/
def State.sumReg (s : State) (o : Nat) : Word := s.liveWord .pcie false o

/-- Offsets 0x000 to 0x03F. -/
def State.sumHeader (s : State) (h : SumHead) : List Word :=
  [0x36395853, 0x10000001, word h.count, word (h.req + 2 ^ 8 * h.ring + 2 ^ 16 * h.cseq), word (tNs h.start), word (tNs h.start / 2 ^ 32),
    word (tSub h.start + 2 ^ 8 * b2n h.coarse), word s.nowNs, s.sumReg R.ID, s.sumReg R.GL_HOSTTAG, s.sumReg R.GL_STAT, s.sumReg R.PW_RSTCAUSE,
    0, 0, 0, 0]

/-- Offsets 0x040 to 0x13F. -/
def State.sumSpine (s : State) : List Word :=
  ([R.SPN_STAT, R.SPN_RATE, R.SPN_RATE_EFF, R.SPN_SLEW_REM, R.SPN_SLEW_REM_SUB, R.SPN_PLL_CNT, R.EL_STAT, R.EL_ID, R.EL_ROOT_LO, R.EL_ROOT_HI,
    R.EL_SRV_OFS, R.EL_SRV_INT].map s.sumReg) ++ List.replicate 4 0 ++
  ([R.AP_STAT, R.AP_CNT, R.AP_LAST_LO, R.AP_LAST_HI, R.AP_LAST_INFO].map s.sumReg) ++ List.replicate 3 0 ++
  ((List.range 8).flatMap (fun i => [s.reg (R.AP_PENDi_LO i), s.reg (R.AP_PENDi_HI i), s.reg (R.AP_PENDi_INFO i)])) ++
  [s.reg R.GL_LOCK, word ((List.range 8).foldl (fun (a : Nat) e => a + bitAt e (s.ron (F.CSe_CTRL_LOCK e))) 0), s.reg R.GL_LOCK_VIOL,
    s.reg R.GL_LOCK_LAST, s.reg R.GL_CFGGEN, s.reg R.GL_SIG, s.reg R.GL_SIGGEN, s.reg R.GL_SIGSTAT] ++ List.replicate 8 0

/-- Offsets 0x140 to 0x1BF. -/
def State.sumGaffers (s : State) : List Word :=
  (List.finRange 8).flatMap (fun e =>
    let st := fun (lo : Nat) => word ((List.finRange 16).foldl (fun (a : Nat) (n : Fin 16) =>
      if n.val / 8 = lo then a + thCode (s.thr e n).state * 2 ^ (4 * (n.val % 8)) else a) 0)
    [st 0, st 1, word (s.rget (F.Ge_FLTMASK_FLT e) + 2 ^ 16 * s.rget (F.Ge_LEAD_BUDGET e)), s.reg (R.Ge_FAULT e)])

/-- Offsets 0x1C0 to 0x27F. -/
def State.sumOrreries (s : State) : List Word :=
  ((List.finRange 4).flatMap (fun n =>
    [s.oryWord n 8, s.reg (R.ORYn_ERRCNT n), s.reg (R.ORYn_ERRCNT2 n), s.oryWord n 0x5C, s.oryWord n 0x50, s.oryWord n 0x54, s.oryWord n 0x60,
      word ((s.oryWord n 0x64).toNat + 2 ^ 8 * (s.oryWord n 0x58).toNat)])) ++
  ([R.LH_STAT, R.LH_OCC, R.LH_NEAR, R.LH_FAR, R.LH_FIRE_CNT, R.LH_LATE_CNT, R.LH_REFUSED, R.LH_ERRCNT, R.LH_NOW_LO, R.LH_NOW_HI, R.LH_PB, R.LH_L1B,
    R.LH_CTRL].map s.sumReg) ++ List.replicate 3 0

/-- Offsets 0x280 to 0x7FF. -/
def State.sumRings (s : State) : List Word :=
  ((List.range 32).map (fun w => wordOf w (fun n => (s.ecSrc n).pend))) ++ ((List.range 32).map (fun w => wordOf w (fun n => (s.ecSrc n).act))) ++
  ((List.range 32).map (fun w => s.reg (R.EC_ENw w))) ++
  ((List.range 64).flatMap (fun n => [s.reg (R.RINGn_CFG n), s.reg (R.RINGn_HEAD n), s.reg (R.RINGn_TAIL n), s.reg (R.RINGn_LOSTCNT n)]))

/-- Offsets 0x800 to 0xAFF. -/
def State.sumSources (s : State) : List Word :=
  ((List.range 96).map (fun i => word (s.nextSeq (2 * i) + 2 ^ 16 * s.nextSeq (2 * i + 1)))) ++
  ((List.finRange 96).map (fun c => word ((s.chStat c).toNat % 2 ^ 11 + 2 ^ 16 * ((s.reg (R.CHc_EVT c)).toNat % 2 ^ 11))))

/-- Offsets 0xB00 to 0xFFB. -/
def State.sumEvents (s : State) : List Word :=
  ([R.GL_EVT, R.AP_EVT, R.CFG_EVT, R.SPN_EVT, R.EC_EVT, R.LH_EVT, R.EL_EVT, R.CV_EVT].map s.sumReg) ++
  ((List.range 4).map (fun n => s.reg (R.ORYn_EVT n))) ++ ((List.range 8).map (fun e => s.reg (R.Ge_EVT e))) ++
  ([R.EC_STRAY, R.EC_LOST2, R.EC_SPUR, R.EC_DISCARD, R.PW_EVT, R.PW_STAT, R.PW_RSTCAUSE, R.PSQ_STAT, R.HL_EVT, R.HL_STAT, R.FRZ_EVT,
    R.FRZ_STAT].map s.sumReg) ++ List.replicate 287 0

/-- The summary's 1,024 words: every row sampled now, and the CRC over the words before it (R327). Mark: DESIGN CHOICE, log entry 69. -/
def State.summaryWords (s : State) (h : SumHead) : List Word :=
  let body := s.sumHeader h ++ s.sumSpine ++ s.sumGaffers ++ s.sumOrreries ++ s.sumRings ++ s.sumSources ++ s.sumEvents
  body ++ [crcFinal (crcWords crcInit (body.map BitVec.toNat))]

/-- The on-chip buffer that the next summary takes: they take turns (R326). -/
def State.sumBuf (s : State) : Nat := 0x3A0000 + 0x1000 * (if s.rget F.GL_SUMCNT_CNT = 0 then 0 else 1 - s.rget F.GL_SUMSTAT_LAST)

/-- A request for an on-chip summary: one that is being written serves it (R326). COUNT is written 0 first (R327). Mark: DESIGN CHOICE, log entry 69. -/
def State.sumStart (s : State) (req : Nat) : State :=
  match s.hif.sum with
  | some _ => s
  | none => { s.sramWr (s.sumBuf + 8) [0] with hif := { s.hif with sum := some ⟨req, s.now, s.ron F.SPN_STAT_COARSE⟩ } }

/-- The PERIOD of `GL_SUMCFG` expires (R326). -/
def State.sumPeriod (s : State) : State :=
  let per := s.rget F.GL_SUMCFG_PERIOD
  if per ≠ 0 ∧ s.hif.periodAt + per * 64000000 ≤ s.now then ({ s with hif := { s.hif with periodAt := s.now } }).sumStart 1 else s

/-- An on-chip summary completes (R326, R327): the buffers take turns, and the count is never 0. Mark: DESIGN CHOICE, log entry 69. -/
def State.sumDone (s : State) : State :=
  match s.hif.sum with
  | none => s
  | some q =>
    let n := s.rget F.GL_SUMCNT_CNT
    let n1 := if (n + 1) % 2 ^ 32 = 0 then 1 else n + 1
    let ws := s.summaryWords ⟨q.req, 0, 0, n1, q.start, q.coarse⟩
    let s1 := { s with hif := { s.hif with sum := none } }
    (((s1.sramWr s.sumBuf ws).setReg R.GL_SUMCNT (word n1)).rput F.GL_SUMSTAT_LAST ((s.sumBuf - 0x3A0000) / 0x1000)).evt F.GL_EVT_SUM_S

/-- The ring command SUMMARY (R241, R326), once no other summary is being written. Mark: DESIGN CHOICE, log entry 24. -/
def State.ringSummary (s : State) (n : Fin 64) (w : Vector Word 8) : State :=
  let a := w[2].toNat + 2 ^ 32 * w[3].toNat
  let count := s.rings[n].sums + 1
  let ws := s.summaryWords ⟨2, n, cmdSeq w, count % 2 ^ 32, s.now, s.ron F.SPN_STAT_COARSE⟩
  let done := fun (s : State) (result : Nat) => s.ringDone n (cmdSeq w) 0x22 result w[2] w[3]
  let counted := s.modRing n (fun x => { x with sums := count })
  if wfld w[1] 0 1 = 1 then
    if a + 0x1000 ≤ 0x400000 then done (counted.sramWr a ws) 0
    else done s.drawn (Config.summaryResult s.free).toNat
  else if s.hostOpen then done (counted.hostWr a ws) 0
  else done s 8

/-! ### Rows -/

/-- `SIGNATURE_GO` (R325). -/
def execSignatureGo (p : Path) (s : State) : Host.Outcome State Fault Refusal :=
  s.hostAct p R.GL_SIGCMD (fun s => s.sigStart (pathBit p))

/-- `SIGNATURE_DONE` (R325). -/
def execSignatureDone (s : State) : Host.Outcome State Fault Refusal := s.event State.sigDone

/-- `SUMMARY_GO` (R326). -/
def execSummaryGo (p : Path) (s : State) : Host.Outcome State Fault Refusal := s.hostAct p R.GL_SUMCMD (fun s => s.sumStart 0)

/-- `SUMMARY_PERIOD` (R326). -/
def execSummaryPeriod (s : State) : Host.Outcome State Fault Refusal := s.event State.sumPeriod

/-- `SUMMARY_DONE` (R327). -/
def execSummaryDone (s : State) : Host.Outcome State Fault Refusal := s.event State.sumDone

/-- `SUMMARY` (R241): one to host memory waits while the record writer has requests of its own (R10, R326). -/
def execSummary (n : Fin 64) (s : State) : Host.Outcome State Fault Refusal :=
  s.event (fun s => if s.hif.sum.isSome ∨ s.sumHeld n then s else s.ringExec n (fun op => op = 0x22) (fun s w => s.ringSummary n w))

end Sys2Proof.Machine
end

