-- ==== Sys2Proof/Machine/RegWrite.lean ====
section
/-!
DEFINITION. Host writes to registers (R6, R7, R293 to R295, R305 to R311, R319, R320): what a write gives each field by its access code, the
rules that bind several fields, the words that a path holds, and where each register's own command is.
-/
namespace Sys2Proof.Machine
open Sys2Proof

/-! ### Fields -/

/-- The value that a written word gives a field by its access code (R305 to R308): masked in an RWM register. `hw` holds the bits that
hardware has set in this tick, which a W1C write leaves (R307). -/
def fieldWritten (f : FieldDesc) (hw old v : Word) : Nat :=
  let o := wfld old f.lo f.width
  let n := wfld v f.lo f.width
  match f.acc with
  | .ro | .wo => o
  | .rw | .wol => n
  | .rwm => (o &&& (2 ^ f.width - 1 - wfld v (16 + f.lo) f.width)) ||| (n &&& wfld v (16 + f.lo) f.width)
  | .w1c => o &&& ((2 ^ f.width - 1 - n) ||| wfld hw f.lo f.width)
  | .w1s => o ||| n

/-- A write can change the field. -/
def fieldWritable (f : FieldDesc) : Bool := f.acc != .ro && f.acc != .wo

/-- The bits of a field. -/
def fieldBits (f : FieldDesc) : Nat := (2 ^ f.width - 1) * 2 ^ f.lo

/-- Encodings that depend on more than the field are not reserved (R42, R79, R153, R162, R175, R248). `w` is the word that the write would leave: NPOS of `ORYn_WHEEL` is judged with the MISS written, also where that is a reserved
encoding, which is not kept. Mark: DESIGN CHOICE, log entry 96. -/
def State.fieldExtra (s : State) (o lo n : Nat) (w : Word) : Bool :=
  if o = R.SPN_PPSO_OFS then decide (n < (s.reg R.SPN_PPSO_PER).toNat)
  else if o = R.SPN_PPSO_WID then decide (2 ≤ n ∧ n + 2 ≤ (s.reg R.SPN_PPSO_PER).toNat)
  else if 0x2040 ≤ o ∧ o < 0x20C0 ∧ o % 16 = 8 then !(lo = 1 && n = 1 && decide (R.EC_TCFGt 4 ≤ o))
  else if 0x10000 ≤ o ∧ o < 0x14000 then
    let i := o % 0x1000
    if i = 0x10 then !((lo = 0 || lo = 8 || lo = 16) && decide (0x60 ≤ n ∧ n < 0x7F))
    else if i = 0x14 then
      (if lo = 0 then decide (2 * (wfld w 8 2 + 1) ≤ n) else if lo = 16 then decide (8 ≤ n ∧ n ≤ 31)
       else if lo = 24 then decide (33 ≤ n ∧ n ≤ 64) else true)
    else if i = 0x2C then !(lo = 8 && n = 0)
    else true
  else if 0x100000 ≤ o ∧ o < 0x118000 then !(o % 0x400 = 0 && lo = 11 && n = 1 && (o / 0x400) % 2 = 1)
  else true

/-- A value of a field is an encoding that the map does not reserve (R7). -/
def State.fieldFits (s : State) (o : Nat) (f : FieldDesc) (n : Nat) (w : Word) : Bool :=
  decide (f.mn ≤ n ∧ n ≤ f.mx) && s.fieldExtra o f.lo n w

/-- The word that a write leaves where every encoding is taken as it is. -/
def rawWord (fs : List FieldDesc) (hw old v : Word) : Word :=
  fs.foldl (fun (w : Word) f => wset w f.lo f.width (fieldWritten f hw old v)) old

/-- The event bits of a register that hardware has set in the present tick (R307). -/
def State.setNow (s : State) (o : Nat) : Word := tblGet (fun _ => (0 : Word)) s.hif.evSet o

/-- The word that a write leaves in the staged (`st`) or the other fields: locked fields and reserved encodings keep their values. -/
def State.mergeWord (s : State) (o lk : Nat) (old v : Word) (st : Bool) (fs : List FieldDesc) : Word :=
  let raw := rawWord fs (s.setNow o) old v
  fs.foldl (fun (w : Word) f =>
    let n := fieldWritten f (s.setNow o) old v
    if f.st = st ∧ fieldWritable f ∧ lk &&& fieldBits f = 0 ∧ s.fieldFits o f n raw then wset w f.lo f.width n else w) old

/-- A register is RWM: its upper half is the mask of a write (R306). -/
def descRwm (r : RegDesc) : Bool := r.fields.any (fun f => f.acc = .rwm)

/-- The bits that a write selects. -/
def descSelects (r : RegDesc) (v : Word) : Nat :=
  let all := r.fields.foldl (fun (a : Nat) f => if fieldWritable f then a + fieldBits f else a) 0
  if descRwm r then all &&& wfld v 16 16 else all

/-- A write selects a field whose written encoding is reserved (R7). -/
def State.reservedIn (s : State) (o : Nat) (v : Word) : Bool :=
  match descAt o with
  | none => false
  | some r =>
    let old := s.stagedReg o
    let raw := rawWord r.fields (s.setNow o) old v
    r.fields.any (fun f => fieldWritable f && (descSelects r v &&& fieldBits f != 0) && (s.lockedBits o &&& fieldBits f = 0) &&
      !s.fieldFits o f (fieldWritten f (s.setNow o) old v) raw)

/-- The domain that holds a register's fields. Mark: DEDUCED, log entry 60. -/
def lockDomain (o : Nat) : Nat := match lockMask o with | some (d, _) => d | none => 0

/-- Write the fields of a register (R305 to R311, R320): a violation if the write selects a locked field; active fields change at once, and
ST fields in the staged copy. -/
def State.fieldsWrite (s : State) (p : Path) (o : Nat) (v : Word) : State :=
  match descAt o with
  | none => s
  | some r =>
    let lk := s.lockedBits o
    let sel := descSelects r v
    let s1 := if sel &&& lk = 0 then s else s.lockViolation p o v (2 ^ lockDomain o) false
    let s2 := s1.cfgWrite o (fun x => x.setReg o (s.mergeWord o lk (s.reg o) v false r.fields))
    if sel &&& descSt r &&& (0xFFFFFFFF - lk) = 0 then s2 else s2.stage o (s.mergeWord o lk (s.stagedReg o) v true r.fields)

/-- Write a word that the path holds (R68, R119, R149, R313, R350). -/
def State.heldWrite (s : State) (p : Path) (o : Nat) (v : Word) : State :=
  match descAt o with
  | none => s.setHeld p o v
  | some r => s.setHeld p o (word (v.toNat &&& (r.fields.foldl (fun (a : Nat) f => a + fieldBits f) 0)))

/-! ### Rules that bind several fields -/

/-- The timebase rule (R82), on the staged values that a write has left. -/
def State.tbRule (s old : State) (c : Fin 96) : State :=
  let o := R.CHc_CTRL c
  let w := s.stagedReg o
  if wfld w 2 3 ≠ 0 ∧ wfld w 0 2 ≠ 1 then
    let was := old.stagedReg o
    let w1 := wset w 2 3 (wfld was 2 3)
    let w2 := if wfld w1 2 3 ≠ 0 ∧ wfld w1 0 2 ≠ 1 then wset w1 0 2 (wfld was 0 2) else w1
    (s.stage o w2).evt (F.CHc_EVT_CFG_ERR_S c)
  else s

/-- A write of `CHc_CTRL` (R59, R60, R82): HOLD is not staged. -/
def State.chCtrlWrite (s : State) (p : Path) (c : Fin 96) (v : Word) : State :=
  (s.holdChange c (fun s => s.fieldsWrite p (R.CHc_CTRL c) v)).tbRule s c

/-- The inputs that a decoder type requires are named (R153). Mark: DEDUCED, log entry 45. -/
def oryCombo (ctrl inp : Word) : Bool :=
  let has := fun lo => decide (wfld inp lo 7 ≠ 0x7F)
  match wfld ctrl 1 3 with
  | 0 => has 0
  | 1 => has 0 && has 8 && has 16
  | 2 => has 0 && has 8
  | _ => true

/-- A write of `ORYn_CTRL` or `ORYn_IN` whose TYPE would lack an input keeps TYPE and IN (R153). Mark: DEDUCED, log entry 45. -/
def State.oryWrite (s : State) (p : Path) (n : Fin 4) (o : Nat) (v : Word) : State :=
  let s1 := s.fieldsWrite p o v
  let c := R.ORYn_CTRL n
  let i := R.ORYn_IN n
  let picks := if o = c then nbit (wfld v 16 16) 1 || nbit (wfld v 16 16) 2 || nbit (wfld v 16 16) 3 else true
  if picks ∧ s.lockedBits o = 0 ∧ ¬ oryCombo (s1.stagedReg c) (s1.stagedReg i) then
    let s2 := if o = c then s1.stage c (wset (s1.stagedReg c) 1 3 (wfld (s.stagedReg c) 1 3)) else { s1 with staged := s.staged }
    s2.evt (F.ORYn_EVT_CFG_ERR_S n)
  else s1

/-- A configuration register of the Lehr that takes writes only while EN = 0 (R226); under the lock the write is a violation too (R320). -/
def State.lhBaseWrite (s : State) (p : Path) (o : Nat) (v : Word) : State :=
  if s.ron F.LH_CTRL_EN then
    let s1 := s.evt F.LH_EVT_CFG_ERR_S
    if s.locked 6 then s1.lockViolation p o v (2 ^ 6) false else s1
  else s.fieldsWrite p o v

/-- A register of the slow domain with the writes that wait for it (R306, R310). -/
def State.slowNext (s : State) (o : Nat) : Word := s.slowApply.reg o

/-- A write of a register of the slow domain (R310): accepted at once, and applied at the next slow-clock edge, after the writes that wait
already, so that of two the later one stands. A loader's write has long been applied when its load ends. Mark: DESIGN CHOICE, log entry 93. -/
def State.slowWrite (s : State) (p : Path) (o : Nat) (v : Word) : State :=
  match descAt o, s.loading with
  | none, _ => s
  | some _, true => s.fieldsWrite p o v
  | some r, false =>
    { s with hif := { s.hif with
        slow := s.hif.slow ++ [⟨p, o, word (descSelects r v), s.mergeWord o 0 (s.slowNext o) v false r.fields⟩] } }

/-- A write of `PW_WDG` (R310, R320, R362): the first one that turns the watchdog on fixes the register. -/
def State.wdgWrite (s : State) (p : Path) (v : Word) : State :=
  if s.pw.wdgFixed then s.lockViolation p R.PW_WDG v 0 true
  else
    let s1 := s.slowWrite p R.PW_WDG v
    if s1.rget F.PW_WDG_MODE ≠ 0 ∨ s1.hif.slow.any (fun x => decide (x.ofs = R.PW_WDG ∧ wfld x.w 30 2 ≠ 0)) then
      { s1 with pw := { s1.pw with wdgFixed := true, wdgTicks := 0, wdgWarned := false } }
    else s1

/-- A write of `CSe_CTRL` (R149, R319, R320): LOCK forces WE to 0, and a second write of LOCK is a violation. Mark: DESIGN CHOICE, log entry 79. -/
def State.csCtrlWrite (s : State) (p : Path) (e : Nat) (v : Word) : State :=
  let m := wfld v 16 16
  let was := s.ron (F.CSe_CTRL_LOCK e)
  let s1 := if nbit m 2 ∧ was then s.lockViolation p (R.CSe_CTRL e) v 0 true else s
  s1.cfgWrite (R.CSe_CTRL e) (fun s =>
    let s2 := if nbit m 1 then s.rput (F.CSe_CTRL_PINJ e) (wfld v 1 1) else s
    let s3 := if nbit m 2 ∧ nbit v.toNat 2 then s2.rput (F.CSe_CTRL_LOCK e) 1 else s2
    if s3.ron (F.CSe_CTRL_LOCK e) then s3.rput (F.CSe_CTRL_WE e) 0 else if nbit m 0 then s3.rput (F.CSe_CTRL_WE e) (wfld v 0 1) else s3)

/-- A write of `CHc_FIFO_CTL` (R70, R72): LWM, then STOP, FLUSH, START, BREAK. Mark: DEDUCED, log entry 80. -/
def State.fifoCtlWrite (s : State) (p : Path) (c : Fin 96) (v : Word) : State :=
  let b := fun i => nbit v.toNat i
  let s1 := s.fieldsWrite p (R.CHc_FIFO_CTL c) v
  let s2 := if b 1 then (s1.fifoStop c).noteHostStop c else s1
  let s3 := if b 3 then (s2.fifoFlush c).noteHostStop c else s2
  let s4 := if b 0 then (s3.fifoStart c (b 4)).1 else s3
  if b 2 then s4.fifoBreak c else s4

/-- A write of the TGT_LO of a compare (R61, R68). -/
def State.cmpLoWrite (s : State) (p : Path) (c : Fin 96) (o : Nat) (v : Word) : State :=
  if s.hostOwns c then s.setHeld p o v else s.evt (F.CHc_EVT_OWN_ERR_S c)

/-! ### Command registers -/

/-- A write of `SPN_CMD` (R34). -/
def State.spnCmdWrite (s : State) (v : Word) : State :=
  let op : Option SpnOp := match wfld v 0 3 with | 0 => some .nop | 1 => some .set | 2 => some .step | 3 => some .slew | 4 => some .slewAbort | _ => none
  s.spnIssue op (wfld v 0 3) (nbit v.toNat 3) (wfld v 4 3)

/-- A write of `Ge_CMD` (R101, R134): the reserved OP names no command. Mark: DEDUCED, log entry 75. -/
def State.geCmdWrite (s : State) (e : Fin 8) (v : Word) : State :=
  let n : Fin 16 := ⟨wfld v 0 4, Nat.mod_lt _ (by decide)⟩
  match wfld v 4 3 with
  | 1 => s.cmdStart e n (BitVec.ofNat 11 (wfld v 16 11))
  | 2 => s.cmdHalt e n
  | 3 => s.cmdResume e n
  | 4 => s.cmdWake e n
  | 5 => s.cmdClrFault e n
  | 6 => s.cmdClrLat e n
  | _ => s

/-- A write of `Ge_CTRL` (R101, R105, R112). -/
def State.geCtrlWrite (s : State) (p : Path) (e : Fin 8) (v : Word) : State :=
  let s1 := s.fieldsWrite p (R.Ge_CTRL e) v
  if nbit v.toNat 16 then s1.runWrite e (nbit v.toNat 0) else s1

/-- A write of `ORYn_CMD` (R181, R319): reserved OP values name no command. -/
def State.oryCmdWrite (s : State) (p : Path) (n : Fin 4) (v : Word) : State :=
  match wfld v 0 3 with
  | 0 => s.oCmdPost n 0
  | 1 => s.lockedCommand p (R.ORYn_CMD n) 3 v (fun s => s.oCmdPost n 1)
  | 2 => s.lockedCommand p (R.ORYn_CMD n) 3 v (fun s => s.oCmdPost n 2)
  | 3 => s.oCmdPost n 3
  | _ => s

/-- A write of `EL_CMD` (R291, R319). -/
def State.elCmdWrite (s : State) (p : Path) (v : Word) : State :=
  match wfld v 0 2 with
  | 1 => s.lockedCommand p R.EL_CMD 7 v State.elRejoin
  | 2 => s.elClrCnt
  | _ => s

/-- A write of `PSQ_CMD` (R365): reserved OP values name no command. -/
def State.psqCmdWrite (s : State) (v : Word) : State :=
  match wfld v 0 3 with
  | 1 => s.psqCommand true (nbit v.toNat 3)
  | 2 => s.psqCommand false (nbit v.toNat 3)
  | 3 => s.modPsq (fun q => { q with seq := none })
  | 4 => s.rput F.PSQ_STAT_FLT 0
  | _ => s

/-- A write of `PW_CMD` (R355, R383). -/
def State.pwCmdWrite (s : State) (v : Word) : State :=
  if wfld v 16 16 ≠ 0x5D96 then s.pwRefuse
  else
    match wfld v 0 4 with
    | 0 => s
    | 1 => s.pwRun
    | 2 => s.pwIdle
    | 3 => s.pwHold
    | 4 => s.pwRetain
    | 5 => s.pwOff
    | 6 => s.softReset
    | _ => s.pwRefuse

/-- A write of `FRZ_CMD` (R376): the reserved OP names no command. Mark: DEDUCED, log entry 75. -/
def State.frzCmdWrite (s : State) (p : Path) (v : Word) : State :=
  match wfld v 0 2 with
  | 1 => s.frzFreeze (.host p)
  | 2 => s.frzThawCmd
  | _ => s

/-- A write of `FRZ_CTRL` (R376): enable and polarity judge the ball as it stands. -/
def State.frzCtrlWrite (s : State) (p : Path) (v : Word) : State := (s.fieldsWrite p R.FRZ_CTRL v).frzBall

/-- A write of `PSQ_Rr_CFG` (R366, R384): a change of PG_POL turns the PGOOD level round. -/
def State.psqCfgWrite (s : State) (p : Path) (r : Fin 8) (v : Word) : State :=
  let s1 := s.fieldsWrite p (R.PSQ_Rr_CFG r) v
  if s1.rget (F.PSQ_Rr_CFG_PG_POL r) = s.rget (F.PSQ_Rr_CFG_PG_POL r) then s1
  else if s1.psqBit F.PSQ_STAT_PG r then s1.pgLost r
  else s1.pgGood r

/-! ### Block by block -/

def State.glWrite (s : State) (p : Path) (o : Nat) (v : Word) : State :=
  if o = R.GL_LOCK then s.lockWrite v
  else if o = R.GL_HOSTTAG then s.tagWrite p v
  else if o = R.GL_SIGCMD then (if nbit v.toNat 0 then s.sigStart (pathBit p) else s)
  else if o = R.GL_SUMCMD then (if nbit v.toNat 0 then s.sumStart 0 else s)
  else if o = R.GL_SUMCFG then
    let s1 := s.fieldsWrite p o v
    { s1 with hif := { s1.hif with periodAt := s1.now } }
  else s.fieldsWrite p o v

def State.spnWrite (s : State) (p : Path) (o : Nat) (v : Word) : State :=
  if o = R.SPN_RATE then s.rateWrite v
  else if o = R.SPN_CMD then s.spnCmdWrite v
  else if o = R.SPN_CTRL then
    let s1 := s.fieldsWrite p o v
    if s1.rget F.SPN_CTRL_MODE = s.rget F.SPN_CTRL_MODE then s1 else s1.servoMode
  else s.fieldsWrite p o v

def State.ecWrite (s : State) (p : Path) (o : Nat) (v : Word) : State :=
  let src := wfld (s.heldWord p R.EC_IDX) 0 10
  if o = R.EC_CTRL then s.ecCtrlWrite p v
  else if o = R.EC_IDX then s.heldWrite p o v
  else if o = R.EC_TGT then s.lockedCommand p o 5 v (fun s => s.ecTgtWrite src v)
  else if o = R.EC_ROUTE then s.lockedCommand p o 5 v (fun s => s.ecRouteWrite src v)
  else if o = R.EC_DOORBELL then s.ecDoorbell (wfld v 0 10)
  else if 0x2040 ≤ o ∧ o < 0x20C0 ∧ o % 16 = 4 then s.ecComplete ((o - 0x2040) / 16) (wfld v 0 10)
  else if 0x2040 ≤ o ∧ o < 0x20C0 ∧ o % 16 = 8 then s.lockedCommand p o 5 v (fun s => s.cfgWrite o (fun s => s.ecTcfgWrite ((o - 0x2040) / 16) v))
  else if R.EC_PENDw 0 ≤ o ∧ o < R.EC_PENDw 32 then s.ecPendWrite ((o - R.EC_PENDw 0) / 4) v
  else if R.EC_ENw 0 ≤ o ∧ o < R.EC_ENw 32 then s.ecEnWrite ((o - R.EC_ENw 0) / 4) v
  else s.fieldsWrite p o v

def State.apWrite (s : State) (p : Path) (o : Nat) (v : Word) : State :=
  let m := wfld v 0 8
  if o = R.AP_APPLY then s.apRequest m (pathBit p)
  else if o = R.AP_AT_LO ∨ o = R.AP_AT_HI then s.heldWrite p o v
  else if o = R.AP_AT_CMD then
    (if m = 0 then s else (s.apPlace ((s.heldWord p R.AP_AT_LO).toNat + 2 ^ 32 * (s.heldWord p R.AP_AT_HI).toNat) m (pathBit p) 0 0).1)
  else if o = R.AP_CANCEL then s.apCancel m
  else if o = R.AP_ABORT then s.apAbort m
  else if o = R.AP_FENCE then s.apFence p
  else s.fieldsWrite p o v

def State.elWrite (s : State) (p : Path) (o : Nat) (v : Word) : State :=
  if o = R.EL_CTRL then s.elCtrlWrite p v
  else if o = R.EL_CMD then s.elCmdWrite p v
  else if o = R.EL_TABIDX then s.heldWrite p o v
  else s.fieldsWrite p o v

def State.pwWrite (s : State) (p : Path) (o : Nat) (v : Word) : State :=
  if o = R.PW_CMD then s.pwCmdWrite v
  else if o = R.PW_WDG then s.wdgWrite p v
  else if o = R.PW_WDG_KICK then s.wdgKick v
  else if o = R.PW_EVT then s.fieldsWrite p o v
  else s.slowWrite p o v

def State.calPageWrite (s : State) (p : Path) (o : Nat) (v : Word) : State :=
  if o = R.CFG_CMD then s.cfgCommand v
  else if o = R.CAL_IDX ∨ o = R.CAL_OTP_IDX then s.heldWrite p o v
  else if o = R.CAL_U_DATA then (s.calWrite p v).calStep p
  else s.fieldsWrite p o v

def State.oryPageWrite (s : State) (p : Path) (o : Nat) (v : Word) : State :=
  let n : Fin 4 := ⟨(o - 0x10000) / 0x1000 % 4, Nat.mod_lt _ (by decide)⟩
  let i := o % 0x1000
  if i = 0x40 then s.oryCmdWrite p n v
  else if i = 0 ∨ i = 0x10 then s.oryWrite p n o v
  else s.fieldsWrite p o v

def State.psqWrite (s : State) (p : Path) (o : Nat) (v : Word) : State :=
  if o = R.PSQ_CMD then s.psqCmdWrite v
  else if R.PSQ_Rr_CFG 0 ≤ o ∧ o < R.PSQ_Rr_CFG 8 ∧ o % 8 = 0 then s.psqCfgWrite p ⟨(o - R.PSQ_Rr_CFG 0) / 8 % 8, Nat.mod_lt _ (by decide)⟩ v
  else s.fieldsWrite p o v

def State.frzWrite (s : State) (p : Path) (o : Nat) (v : Word) : State :=
  if o = R.FRZ_CMD then s.frzCmdWrite p v
  else if o = R.FRZ_CTRL then s.frzCtrlWrite p v
  else s.fieldsWrite p o v

def State.cvPageWrite (s : State) (p : Path) (o : Nat) (v : Word) : State :=
  if o = R.CV_CMD then s.cvCommand ⟨wfld v 8 1, Nat.mod_lt _ (by decide)⟩ (wfld v 0 4)
  else if 0x18100 ≤ o ∧ o < 0x18160 ∧ o % 16 = 12 then s.rdidxWrite ⟨(o - 0x18100) / 16 % 6, Nat.mod_lt _ (by decide)⟩ v
  else s.fieldsWrite p o v

def State.lhPageWrite (s : State) (p : Path) (o : Nat) (v : Word) : State :=
  if o = R.LH_CTRL then s.lhCtrlWrite p v
  else if o = R.LH_CASC ∨ (R.LH_POOL_LO ≤ o ∧ o ≤ R.LH_GPOFS) then s.lhBaseWrite p o v
  else s.fieldsWrite p o v

def State.ringPageWrite (s : State) (p : Path) (o : Nat) (v : Word) : State :=
  let n : Fin 64 := ⟨(o - 0x30000) / 0x40 % 64, Nat.mod_lt _ (by decide)⟩
  let i := o % 0x40
  let base := fun (m : Nat) => s.lockedCommand p o 4 v (fun s => s.cfgWrite o (fun s => s.ringBaseWrite n o v m))
  if i = 0 then s.ringCfgWrite p n v
  else if i = 4 then base 0xFFFFFE00
  else if i = 0x14 then base 0xFFFFFFF8
  else if i = 8 ∨ i = 0x18 then base 0xFFFFFFFF
  else if i = 0x10 then s.tailWrite n v
  else s.fieldsWrite p o v

def State.gafPageWrite (s : State) (p : Path) (o : Nat) (v : Word) : State :=
  let e : Fin 8 := ⟨(o - 0x40000) / 0x1000 % 8, Nat.mod_lt _ (by decide)⟩
  let i := o % 0x1000
  if i = 0 then s.geCtrlWrite p e v
  else if i = 0x10 then s.geCmdWrite e v
  else if 0x200 ≤ i ∧ i % 8 = 0 then s.setHeld p o v
  else if 0x200 ≤ i then s.sregStore p e ⟨(i - 0x200) / 8 % 64, Nat.mod_lt _ (by decide)⟩ v
  else s.fieldsWrite p o v

def State.chPageWrite (s : State) (p : Path) (o : Nat) (v : Word) : State :=
  let c : Fin 96 := ⟨(o - 0x100000) / 0x400 % 96, Nat.mod_lt _ (by decide)⟩
  let i := o % 0x400
  if i = 0 then s.chCtrlWrite p c v
  else if i = 0x20 ∨ i = 0x40 then s.cmpLoWrite p c o v
  else if i = 0x24 ∨ i = 0x44 then s.cmpCtlWrite p c (i = 0x44) v (nbit v.toNat 15)
  else if i = 0x100 then s.fifoCtlWrite p c v
  else if i = 0x110 then s.setHeld p o v
  else if i = 0x114 then s.fifoPush c (fifoEntry (s.heldWord p (R.CHc_FIFO_ENT_LO c)) v)
  else s.fieldsWrite p o v

/-- A write to the register at a bus offset takes effect. -/
def State.writeReg (s : State) (p : Path) (o : Nat) (v : Word) : State :=
  if o < 0x1000 then s.glWrite p o v
  else if o < 0x2000 then s.spnWrite p o v
  else if o < 0x3000 then s.ecWrite p o v
  else if o < 0x4000 then s.apWrite p o v
  else if o < 0x5000 then s.elWrite p o v
  else if o < 0x6000 then s.pwWrite p o v
  else if o < 0x7000 then s.calPageWrite p o v
  else if o < 0x8000 then s.fieldsWrite p o v
  else if o < 0x9000 then s.frzWrite p o v
  else if o < 0xA000 then s.psqWrite p o v
  else if o < 0x14000 then s.oryPageWrite p o v
  else if o < 0x19000 then s.cvPageWrite p o v
  else if o < 0x30000 then s.lhPageWrite p o v
  else if o < 0x40000 then s.ringPageWrite p o v
  else if o < 0x48000 then s.gafPageWrite p o v
  else if o < 0x118000 then s.chPageWrite p o v
  else if o % 0x20000 = 0x10000 then s.csCtrlWrite p ((o - 0x400000) / 0x20000) v
  else s

/-! ### Host writes -/

/-- A host write to a register, with what a load or a freeze makes of it (R342, R376, R378, R380). -/
def State.hostReg (s : State) (p : Path) (o : Nat) (v : Word) : State :=
  if o = R.PW_CMD then s.pwCommand (fun s => s.pwCmdWrite v)
  else if o = R.FRZ_CMD then
    (if wfld v 0 2 = 1 then s.frzCommand (fun s => s.frzFreeze (.host p)) else s.hostWrite o (fun s => s.frzCmdWrite p v))
  else if o = R.CFG_CMD ∧ wfld v 0 3 = 1 then s.reloadWrite (wfld v 4 2)
  else s.hostWrite o (fun s => s.writeReg p o v)

/-- A register write with partial byte enables (R295). -/
def State.partialWrite (s : State) : State := (s.rsat F.GL_ERRCNT_PARTIAL 1).evt F.GL_EVT_PARTIAL_S

/-- A write to a word of a microword (R149): words 0 to 3 are held, word 4 stores. -/
def State.microWrite (s : State) (p : Path) (e : Fin 8) (w : Fin 2048) (i : Nat) (v : Word) : State :=
  if i < 4 then s.setHeld p (csOffset e w i) v else s.csWrite p e w v

/-- A write in the MSI-X range (PCIe 3.0): the table takes it, and the pending bits do not. -/
def State.msixWrite (s : State) (a : Nat) (v : Word) : State :=
  if a < 0x80 then
    let w := if a % 16 = 12 then word (v.toNat % 2) else if a % 16 = 0 then word (v.toNat / 4 * 4) else v
    (s.modFn (fun f => { f with table := tblSet (fun o => if o % 16 = 12 then 1 else 0) f.table a w })).msixFlush
  else s

/-- The bytes that byte enables select are stored (R295). -/
def State.sramBytes (s : State) (a : Nat) (v : Word) (be : Nat) : State :=
  { s with sram := (List.range 4).foldl (fun (t : Tbl Byte) i =>
      if nbit be i then memWr t (a + i) (BitVec.ofNat 8 (v.toNat / 2 ^ (8 * i))) else t) s.sram }

/-- The entries of an ephemeris after a host write into its partition (R296): their contents are undefined, and stay in target order. -/
def spoilEph (free : Nat) (es : List EphEnt) : List EphEnt :=
  let hit := fun (x : EphEnt × Nat) =>
    let v := (Config.spoiled free x.2).toNat
    { x.1 with tgt := v % 2 ^ 38, tFull := (v % 2 ^ 38 : Nat), chan := v / 2 ^ 38 % 12, unit := v / 2 ^ 42 % 2, act := v / 2 ^ 43 % 4, recEn := nbit v 45, tag := v / 2 ^ 46 % 2 ^ 16 }
  ((es.zip (List.range es.length)).map hit).insertionSort (fun a b => a.tFull ≤ b.tFull)

/-- The near cache after a host write into its partition. -/
def spoilNear (free : Nat) (es : List LhEnt) : List LhEnt :=
  (es.zip (List.range es.length)).map (fun x =>
    let v := (Config.spoiled free x.2).toNat
    { x.1 with dl := (v % 2 ^ 26 : Nat), tag := word (v / 2 ^ 26), dest := v / 2 ^ 58 % 64 })

/-- A host write into a partition that the device uses leaves the structure there undefined (R296). Mark: DESIGN CHOICE, log entry 28. -/
def State.spoil (s : State) (a : Nat) : State :=
  if 0x380000 ≤ a ∧ a < 0x388000 then
    s.drawn.modGaf ⟨(a - 0x380000) / 0x1000 % 8, Nat.mod_lt _ (by decide)⟩ (fun g => { g with eph := spoilEph s.free g.eph })
  else if 0x80000 ≤ a ∧ a < 0x180000 ∧ s.ron F.LH_CTRL_EN then s.drawn.modLehr (fun l => { l with near := spoilNear s.free l.near })
  else s

/-- The summary that is being written when a host writes into its buffer: what the host wrote is not what stands there (R296). -/
def State.summaryBusy (s : State) (a : Nat) : Bool := 0x3A0000 ≤ a && a < 0x3A2000 && s.hif.sum.isSome

/-- A host write of the SRAM window, with byte enables (R295, R296). -/
def State.sramStore (s : State) (a : Nat) (v : Word) (be : Nat) : State :=
  if s.summaryBusy a then (s.sramBytes a (Config.internalWord s.free a) be).drawn else (s.sramBytes a v be).spoil a

/-- A write of a word to the MRAM window (R375): the user area takes it. -/
def State.mramStore (s : State) (a : Nat) (v : Word) : State :=
  if 0x78000 ≤ a ∧ a < 0x80000 then s.mramWr a [v] else s.evt F.HL_EVT_MRAM_S

/-- A write of one word at an address of a path (R292 to R295). A partial write to an unmapped range of the register space counts as both. Mark: DEDUCED, log entry 97. -/
def State.writeAt (s : State) (p : Path) (a : Nat) (v : Word) (full : Bool) : State :=
  match siteOf p a with
  | .reg o => if full then s.hostReg p o v else s.hostWrite o State.partialWrite
  | .micro e w i =>
    if full then s.hostWrite a (fun s => s.microWrite p ⟨e % 8, Nat.mod_lt _ (by decide)⟩ ⟨w % 2048, Nat.mod_lt _ (by decide)⟩ i v)
    else s.hostWrite a State.partialWrite
  | .msix b => if full then s.hostWrite a (fun s => s.msixWrite b v) else s.hostWrite a State.partialWrite
  | .status _ | .blank => if full then s.hostWrite a id else s.hostWrite a State.partialWrite
  | .sram b => if full then s.hostWrite a (fun s => s.sramStore b v 15) else s
  | .mram b => if full then s.hostWrite a (fun s => s.mramStore b v) else s
  | .unmapped => s.hostWrite a (fun s => if full ∨ 0x400000 ≤ a then s.unmapped else s.unmapped.partialWrite)

/-! ### Rows -/

/-- `REGISTER_WRITE` (R305): `full` is false where a PCIe write's byte enables are not all set. A window's partial writes are
`SRAM_WINDOW_WRITE`'s. -/
def execRegisterWrite (p : Path) (a v : Word) (full : Bool) (s : State) : Host.Outcome State Fault Refusal := .next (s.writeAt p a.toNat v full)

/-- `UNMAPPED_ACCESS` (R293). -/
def execUnmappedAccess (p : Path) (a : Word) (isWrite : Bool) (s : State) : Host.Outcome State Fault Refusal :=
  match siteOf p a.toNat with
  | .unmapped => if isWrite then s.hostAct p a.toNat State.unmapped else s.hostRead (fun s => s.readAt p a.toNat)
  | _ => .next s

end Sys2Proof.Machine
end

