-- ==== Sys2Proof/Machine/HostIf.lean ====
section
/-!
DEFINITION. The SPI port (R300 to R304) and the memory windows (R295, R296, R374, R375).
-/
namespace Sys2Proof.Machine
open Sys2Proof

/-! ### SPI frames -/

def State.modHif (s : State) (f : HostIf → HostIf) : State := { s with hif := f s.hif }

/-- A frame or a word is discarded (R300, R303). -/
def State.spiFrame (s : State) : State := ((s.modHif (fun h => { h with frame := true })).rsat F.GL_SPISTAT_FRAME 1).evt F.GL_EVT_SPI_S

/-- The data of a read is not ready when it is due (R302). -/
def State.spiUnder (s : State) : State := ((s.modHif (fun h => { h with under := true })).rsat F.GL_SPISTAT_UNDER 1).evt F.GL_EVT_SPI_S

/-- An address in a window, in which frames go on from word to word (R292, R303): SRAM, MRAM, and the microword area of a control-store
window, its reserved words included. Control pages are register space. -/
def inWindow (a : Nat) : Bool :=
  (decide (0x1000000 ≤ a ∧ a < 0x1400000) || decide (0x2000000 ≤ a ∧ a < 0x2080000)) ||
    decide (0x400000 ≤ a ∧ a < 0x500000 ∧ (a - 0x400000) % 0x20000 < 0x10000)

/-- Successive reads from an address; the words read are kept. -/
def State.spiReadWords (s : State) (a : Nat) : Nat → List Word → State × List Word
  | 0, ws => (s, ws)
  | n + 1, ws =>
    let s1 := s.readAt .spi a
    s1.spiReadWords (a + 4) n (ws ++ s1.spi.rdata)

/-- A READ or QREAD of n words (R301 to R303): register space transfers one word, and all ones follow. A frame that ends within a further word
reads that word and discards it. Mark: DESIGN CHOICE, log entry 79. -/
def State.spiReadFrame (s : State) (a n : Nat) (late : Bool) (form : SpiForm) : State :=
  let m := n + b2n (decide (form = .torn))
  if form = .unknown ∨ a % 4 ≠ 0 then s.spiFrame
  else if m = 0 then s
  else
    let (s1, ws) := s.spiReadWords a (if inWindow a then min m 256 else 1) []
    let out := (ws ++ List.replicate (n - ws.length) 0xFFFFFFFF).take n
    let seen := if late then out.set 0 0xFFFFFFFF else out
    let s2 := s1.modPath .spi (fun q => { q with rdata := seen })
    let s3 := if late then s2.spiUnder else s2
    if form = .torn then s3.spiFrame else s3

/-- Successive writes from an address (R303). -/
def State.spiWriteWords (s : State) (a : Nat) : List Word → State
  | [] => s
  | w :: ws => (s.writeAt .spi a w true).spiWriteWords (a + 4) ws

/-- A WRITE or QWRITE frame (R301, R303): up to 1,024 bytes; a frame that ends within a word discards that word. Mark: DESIGN CHOICE, log entry 79. -/
def State.spiWriteFrame (s : State) (a : Nat) (ws : List Word) (form : SpiForm) : State :=
  if form = .unknown ∨ a % 4 ≠ 0 then s.spiFrame
  else
    let s1 := s.spiWriteWords a (ws.take 256)
    if form = .torn then s1.spiFrame else s1

/-- The status byte (R304). Writes take effect as they come, so none is under way. -/
def State.spiStatus (s : State) : Word := word (bitAt 1 s.hif.under + bitAt 2 s.hif.frame + bitAt 3 s.hif.rstd)

/-- RDSR (R301, R304): the byte is sent, and its bits clear. -/
def State.spiRdsr (s : State) : State := (s.answer .spi s.spiStatus).modHif (fun h => { h with under := false, frame := false, rstd := false })

/-! ### Windows -/

/-- A host read of a window word that meets an uncorrectable error (R296, R371): reported, except while the device is frozen. -/
def State.badRead (s : State) (p : Path) (mram : Bool) (a : Nat) : State :=
  let s1 := s.answer p 0xFFFFFFFF
  if s.frozen then s1 else s1.eccBad mram a

/-- A host read of an SRAM word with what ECC finds in it (R296, R371). Mark: DESIGN CHOICE, log entry 83. -/
def State.eccSram (s : State) (p : Path) (a : Nat) (ecc : Ecc) : State :=
  match ecc with
  | .ok => s.readSram p a
  | .corrected =>
    let s1 := s.readSram p a
    if s.frozen then s1 else s1.eccCorr a
  | .bad => s.badRead p false a

/-- A host read of an MRAM word with what ECC finds in it (R375); R371 counts corrections in the SRAM only. -/
def State.eccMram (s : State) (p : Path) (a : Nat) (ecc : Ecc) : State :=
  match ecc with
  | .bad => s.badRead p true a
  | _ => s.answer p (s.mramWord a)

/-! ### Rows -/

/-- `READ` (R301). -/
def execSpiRead (a : Word) (n : Fin 257) (arr : SpiReadForm) (s : State) : Host.Outcome State Fault Refusal :=
  s.hostRead (fun s => s.spiReadFrame a.toNat n arr.late arr.form)

/-- `QREAD` (R301). -/
def execSpiQread (a : Word) (n : Fin 257) (arr : SpiReadForm) (s : State) : Host.Outcome State Fault Refusal :=
  s.hostRead (fun s => s.spiReadFrame a.toNat n arr.late arr.form)

/-- `WRITE` (R301). -/
def execSpiWrite (a : Word) (ws : List Word) (form : SpiForm) (s : State) : Host.Outcome State Fault Refusal :=
  .next (if s.powered then s.spiWriteFrame a.toNat ws form else s)

/-- `QWRITE` (R301). -/
def execSpiQwrite (a : Word) (ws : List Word) (form : SpiForm) (s : State) : Host.Outcome State Fault Refusal :=
  .next (if s.powered then s.spiWriteFrame a.toNat ws form else s)

/-- `RDSR` (R301, R304). -/
def execRdsr (s : State) : Host.Outcome State Fault Refusal := s.hostRead State.spiRdsr

/-- `IFRESET` (R301): the port's state machine restarts between frames; no other state changes. -/
def execIfreset (s : State) : Host.Outcome State Fault Refusal := .next s

/-- `SRAM_WINDOW_WRITE` (R296). -/
def execSramWindowWrite (p : Path) (a v : Word) (be : BitVec 4) (s : State) : Host.Outcome State Fault Refusal :=
  match siteOf p a.toNat with
  | .sram b => s.hostAct p a.toNat (fun s => s.sramStore b v (match p with | .pcie => be.toNat | .spi => 15))
  | _ => .next s

/-- `MRAM_WINDOW_WRITE` (R375). -/
def execMramWindowWrite (p : Path) (a v : Word) (s : State) : Host.Outcome State Fault Refusal :=
  match siteOf p a.toNat with
  | .mram b => s.hostAct p a.toNat (fun s => s.mramStore b v)
  | _ => .next s

/-- `HOST_WINDOW_READ` (R296). -/
def execHostWindowRead (p : Path) (a : Word) (ecc : Ecc) (s : State) : Host.Outcome State Fault Refusal :=
  match siteOf p a.toNat with
  | .sram b => s.hostRead (fun s => s.eccSram p b ecc)
  | .mram b => s.hostRead (fun s => s.eccMram p b ecc)
  | _ => .next s

end Sys2Proof.Machine
end

