-- ==== Sys2Proof/Machine/Image.lean ====
section
/-!
DEFINITION. A flash slot as bytes (R331, R332): SHA-256 and HMAC, the header, and the sections. All values are little-endian (R3).
-/
namespace Sys2Proof.Machine
open Sys2Proof

/-! ### SHA-256 (FIPS 180-4) and HMAC (RFC 2104). -/

/-- The words of SHA-256 have 32 bits. -/
def low32 (x : Nat) : Nat := x % 2 ^ 32

/-- Rotation to the right by n: the word doubled up, and cut out n places higher. -/
def shaRotr (n x : Nat) : Nat := low32 (x * (2 ^ 32 + 1) / 2 ^ n)

/-- The sum modulo 2 of a word's rotations. -/
def shaTurns (x : Nat) (ns : List Nat) : Nat := ns.foldl (fun acc n => acc ^^^ shaRotr n x) 0

/-- The 64 primes below 312: a composite number below 19² has a prime factor below 19. -/
def shaPrimes : List Nat :=
  let small := [2, 3, 5, 7, 11, 13, 17]
  small ++ (List.range' 18 294).filter (fun p => small.all (fun d => p % d != 0))

/-- The greatest number whose k-th power is at most x, sought bit by bit from bit n - 1 down, upwards from r. -/
def rootFrom (k x : Nat) : Nat → Nat → Nat
  | 0, r => r
  | n + 1, r => rootFrom k x n (if (r + 2 ^ n) ^ k ≤ x then r + 2 ^ n else r)

/-- The first 32 bits of the fraction of a prime's k-th root. -/
def rootFraction (k p : Nat) : Nat := low32 (rootFrom k (p * 2 ^ (32 * k)) 37 0)

/-- The constants of the 64 rounds, and the initial hash value: fractions of cube roots, and of square roots. -/
def shaConstants : List Nat := shaPrimes.map (rootFraction 3)
def shaInit : List Nat := (shaPrimes.take 8).map (rootFraction 2)

/-- A word of the message schedule, from the 16 words before it. -/
def shaExpand (w : List Nat) : Nat :=
  let old := w.getD 1 0
  let late := w.getD 14 0
  low32 (w.headD 0 + w.getD 9 0 + (old / 2 ^ 3 ^^^ shaTurns old [7, 18]) + (late / 2 ^ 10 ^^^ shaTurns late [17, 19]))

/-- One round: the working variables before it, and the sum of its constant and its word of the schedule. -/
def shaRound (v : List Nat) (kw : Nat) : List Nat :=
  match v with
  | [a, b, c, d, e, f, g, h] =>
    let pick := g ^^^ (e &&& (f ^^^ g))
    let most := (a &&& b) ||| (c &&& (a ||| b))
    let gain := kw + h + pick + shaTurns e [6, 11, 25]
    [low32 (gain + most + shaTurns a [2, 13, 22]), a, b, c, low32 (d + gain), e, f, g]
  | _ => v

/-- The rounds of the constants still to come, with the next 16 words of the schedule. -/
def shaRounds : List Nat → List Nat → List Nat → List Nat
  | [], _, v => v
  | k :: ks, w, v => shaRounds ks (w.tail ++ [shaExpand w]) (shaRound v (k + w.headD 0))

/-- One block of 16 words. -/
def shaBlock (v w : List Nat) : List Nat := List.zipWith (fun x y => low32 (x + y)) v (shaRounds shaConstants w v)

/-- A value of bytes, most significant first, and the n bytes of a value so. -/
def beVal (bs : List Byte) : Nat := bs.foldl (fun a b => a * 256 + b.toNat) 0
def beBytes (n v : Nat) : List Byte := (leBytes n v).reverse

/-- The 16 words at the head of bytes. -/
def shaWords (bs : List Byte) : List Nat := (List.range 16).map (fun i => beVal ((bs.drop (4 * i)).take 4))

/-- The blocks of a padded message. -/
def shaBlocks : Nat → List Byte → List Nat → List Nat
  | 0, _, h => h
  | n + 1, bs, h => shaBlocks n (bs.drop 64) (shaBlock h (shaWords bs))

/-- Padding to whole blocks of 64 bytes: 0x80, zeros, and the length in bits. -/
def shaPad (bs : List Byte) : List Byte := bs ++ [0x80] ++ List.replicate ((119 - bs.length % 64) % 64) 0 ++ beBytes 8 (8 * bs.length)

/-- SHA-256, as 32 bytes. Mark: PRESUMED, log entry 99. -/
def sha256 (bs : List Byte) : List Byte := (shaBlocks ((shaPad bs).length / 64) (shaPad bs) shaInit).flatMap (fun w => beBytes 4 w)

/-- HMAC-SHA-256 with a key of 32 bytes. Mark: PRESUMED, log entry 99. -/
def hmac256 (key bs : List Byte) : List Byte :=
  let k := key ++ List.replicate (64 - key.length) 0
  sha256 (k.map (fun b => b ^^^ 0x5C) ++ sha256 (k.map (fun b => b ^^^ 0x36) ++ bs))

/-! ### Sections (R332) -/

/-- The words of bytes, from the first on. -/
def wordsFrom (n : Nat) (bs : List Byte) : List Word := (List.range n).map (fun i => word (leAt bs (4 * i) 4))

/-- Pairs of words. -/
def pairsFrom (n : Nat) (bs : List Byte) : List (Word × Word) :=
  (List.range n).map (fun i => (word (leAt bs (8 * i) 4), word (leAt bs (8 * i + 4) 4)))

/-- Bytes that are all 0. -/
def allZero (bs : List Byte) : Bool := bs.all (fun b => b = 0)

/-- A section of a TYPE and TARGET with a payload: nothing where TYPE, TARGET or the payload is not as R332 lays it out. Bits that R332 does not name are not looked at. -/
def sectionFrom (type target : Nat) (x : List Byte) : Option ImgSection :=
  let n := x.length
  match type with
  | 1 =>
    if target = 0 ∧ n = 16 then
      some (.layout ((List.range 8).map (fun i => BitVec.ofNat 8 (leAt x i 1))) (BitVec.ofNat 16 (leAt x 8 2)) (nbit (leAt x 12 1) 0))
    else none
  | 2 =>
    let k := leAt x 4 4
    let used := 8 + 18 * k
    if h : target < 8 ∧ 8 ≤ n ∧ n = (used + 3) / 4 * 4 ∧ allZero (x.drop used) then
      some (.cstore ⟨target, h.1⟩ (leAt x 0 4 % 2048) ((List.range k).map (fun i => BitVec.ofNat 144 (leAt x (8 + 18 * i) 18))))
    else none
  | 3 => if target = 0 ∧ 4 ≤ n then some (.sram (leAt x 0 4) (x.drop 4)) else none
  | 4 => if target = 0 ∧ n % 8 = 0 then some (.regs (pairsFrom (n / 8) x)) else none
  | 5 => if target = 0 ∧ n % 8 = 0 then some (.calu (pairsFrom (n / 8) x)) else none
  | 6 => if target = 0 ∧ n = 4 then some (.apply (BitVec.ofNat 8 (leAt x 0 4))) else none
  | 7 => if target = 0 ∧ n = 4 then some (.lock (BitVec.ofNat 12 (leAt x 0 4))) else none
  | _ => none

/-- The sections of an image that tile its bytes and end with one END; nothing otherwise (R333). The first argument bounds their number. -/
def sectionsFrom : Nat → List Byte → Option (List ImgSection)
  | 0, _ => none
  | k + 1, bs =>
    let type := leAt bs 0 1
    let target := leAt bs 1 1
    let n := leAt bs 4 4
    if bs.length < 8 + n ∨ n % 4 ≠ 0 ∨ leAt bs 2 2 ≠ 0 then none
    else if type = 0x0F then (if target = 0 ∧ n = 0 ∧ bs.length = 8 then some [] else none)
    else
      match sectionFrom type target ((bs.drop 8).take n), sectionsFrom k (bs.drop (8 + n)) with
      | some x, some xs => some (x :: xs)
      | _, _ => none

/-! ### The slot (R331, R333) -/

/-- Bytes of the digest stream: header bytes 0x00 to 0x3F, and the image behind the header. -/
def digestStream (bs : List Byte) : List Byte := bs.take 0x40 ++ (bs.take (leAt bs 0x0C 4)).drop 0x100

/-- MAGIC, VERSION and HLEN, and the range of LENGTH (R331). -/
def headerFits (bs : List Byte) : Bool :=
  let n := leAt bs 0x0C 4
  decide (leAt bs 0 4 = 0x4D495853 ∧ leAt bs 4 4 = 0x01000001 ∧ n % 4 = 0 ∧ 0x108 ≤ n ∧ n ≤ 0x1000000)

/-- What R331 calls reserved in the header is 0. Mark: DEDUCED, log entry 77. -/
def headerClean (bs : List Byte) : Bool :=
  decide (leAt bs 0x10 4 < 4 ∧ leAt bs 0x18 4 < 2 ^ 13) && allZero ((bs.drop 0x2C).take 20) && allZero ((bs.drop 0x80).take 128)

/-- What the loader reads of a slot whose first bytes are these. Mark: DEDUCED, log entry 77. -/
def slotFrom (bs : List Byte) : SlotImage :=
  let n := leAt bs 0x0C 4
  let x := (bs.take n).drop 0x100
  let secs := if n ≤ bs.length then sectionsFrom x.length x else none
  { headerOk := headerFits bs
    gen := word (leAt bs 8 4)
    length := word n
    hmac := nbit (leAt bs 0x10 1) 0
    relhold := nbit (leAt bs 0x10 1) 1
    subsys := word (leAt bs 0x14 4)
    digest := BitVec.ofNat 256 (leAt bs 0x40 32)
    digestOk := decide ((bs.drop 0x40).take 32 = sha256 (digestStream bs))
    macOk := decide ((bs.drop 0x60).take 32 = hmac256 (leBytes 32 Config.hmacKey.toNat) (digestStream bs))
    tiled := headerClean bs && secs.isSome
    sections := secs.getD [] }

end Sys2Proof.Machine
end

