-- ==== Sys2Proof/Machine/Boot.lean ====
section
/-!
DEFINITION. The loader (R331 to R345): slot selection, the load pass, the load's recalibration, and the end of a load.
-/
namespace Sys2Proof.Machine
open Sys2Proof

/-- The level of OSPI_BUSY: high while a load owns the flash bus, and also while a RELOAD reads its slots (R330, R343). Mark: DEDUCED, log entry 75. -/
def State.ospiBusy (s : State) : Bool := s.loading || s.load.reload.isSome

/-- The policy bits (R334): HOLD, AUTHREQ, KEYSET. -/
def State.policy (s : State) (i : Nat) : Bool := nbit (s.otpV 0x722) i

/-! ### The checks of a slot (R333, R334) -/

/-- States of a slot, as `CFG_SLOTs_STAT.STATE` encodes them. -/
def slEmpty : Nat := 0
def slBadDigest : Nat := 1
def slBadAuth : Nat := 2
def slBadFormat : Nat := 3
def slIntact : Nat := 4
def slNotChecked : Nat := 5
def slLoadFail : Nat := 6

/-- Authentication (R334). -/
def State.authentic (s : State) (i : SlotImage) : Bool :=
  if s.policy 2 then (if i.hmac then i.macOk else !s.policy 1) else !s.policy 1

/-- The KB figures of an image's LAYOUT: Gaffers, rings, and whether the Lehr heads are reserved. -/
def imgLayout (secs : List ImgSection) : Layout :=
  match secs.findSome? (fun x => match x with | .layout g r h => some (g, r, h) | _ => none) with
  | some (g, r, h) => ⟨Vector.ofFn (fun (e : Fin 8) => (g.getD e.val 0).toNat), r.toNat, h⟩
  | none => ⟨Vector.replicate 8 0, 0, false⟩

/-- Bytes of the general pool that a division gives to Gaffers, and to rings (R333). -/
def poolGaf (l : Layout) : Nat := (l.gaf.toList.map poolBytes).sum
def poolRing (l : Layout) : Nat := poolBytes l.ring

/-- At most one LAYOUT, before every CSTORE, SRAM and REGS section. -/
def layoutFirst (secs : List ImgSection) : Bool :=
  let isLay := fun x => match x with | ImgSection.layout _ _ _ => true | _ => false
  let needs := fun x => match x with | ImgSection.cstore _ _ _ | .sram _ _ | .regs _ => true | _ => false
  let n := (secs.filter isLay).length
  n = 0 || (n = 1 && !(secs.takeWhile (fun x => !isLay x)).any needs)

/-- At most one LOCK, followed by APPLY sections only. -/
def lockLast (secs : List ImgSection) : Bool :=
  let isLock := fun x => match x with | ImgSection.lock _ => true | _ => false
  let isApply := fun x => match x with | ImgSection.apply _ => true | _ => false
  match secs.dropWhile (fun x => !isLock x) with
  | [] => true
  | _ :: rest => rest.all isApply

/-- The bytes from an offset lie in Gaffer data windows or in pool space that belongs to Gaffers. -/
def gafSpace (l : Layout) (ofs n : Nat) : Bool :=
  ofs % 4 = 0 && (decide (ofs + n ≤ 0x80000) || decide (0x3B2000 ≤ ofs ∧ ofs + n ≤ 0x3B2000 + poolGaf l))

/-- A REGS offset names a register with a writable field, outside the windows. Mark: DEDUCED, log entry 76. -/
def regNamed (o : Nat) : Bool :=
  decide (o < 0x400000 ∧ o % 4 = 0) &&
    (match siteOf .pcie o with
     | .reg r => (match descAt r with | some d => d.fields.any (fun f => f.acc != .ro) | none => false)
     | _ => false)

/-- The ranges and names of one section. -/
def sectionOk (l : Layout) (x : ImgSection) : Bool :=
  match x with
  | .layout g _ _ => decide (g.length = 8) && decide (poolGaf l + poolRing l + (if l.heads then 32768 else 0) ≤ 319488)
  | .cstore _ first ws => decide (first + ws.length ≤ 2048)
  | .sram ofs bytes => gafSpace l ofs bytes.length && decide (bytes.length % 4 = 0)
  | .regs ws => ws.all (fun w => regNamed w.1.toNat)
  | .calu ws => ws.all (fun w => calHasU w.1.toNat)
  | .apply _ | .lock _ => true

/-- The register writes of an image, in order. -/
def imgWrites (secs : List ImgSection) : List (Nat × Word) :=
  secs.flatMap (fun x => match x with | .regs ws => ws.map (fun w => (w.1.toNat, w.2)) | _ => [])

/-- Every on-chip ring that REGS enables fits (R236). The table holds the bases written so far. -/
def ringsFit (l : Layout) : Tbl Nat → List (Nat × Word) → Bool
  | _, [] => true
  | t, (a, v) :: rest =>
    match siteOf .pcie a with
    | .reg o =>
      if 0x30000 ≤ o ∧ o < 0x40000 then
        let n := (o - 0x30000) / 0x40
        if o % 0x40 = 4 then ringsFit l (tblPut t n (v.toNat / 512 * 512)) rest
        else if o % 0x40 = 0 ∧ nbit v.toNat 0 ∧ nbit v.toNat 2 then
          let b := tblGet (fun _ => 0) t n
          let e := b + 32 * (16 * 2 ^ wfld v 3 4)
          let p := 0x3B2000 + poolGaf l
          (decide (0x180000 ≤ b ∧ e ≤ 0x280000) || decide (p ≤ b ∧ e ≤ p + poolRing l)) && ringsFit l t rest
        else ringsFit l t rest
      else ringsFit l t rest
    | _ => ringsFit l t rest

/-- The format check of R333. Mark: DEDUCED, log entry 76. -/
def formatOk (i : SlotImage) : Bool :=
  let l := imgLayout i.sections
  i.tiled && layoutFirst i.sections && lockLast i.sections && i.sections.all (sectionOk l) && ringsFit l [] (imgWrites i.sections)

/-- What a verifying read finds of a slot whose header passes (R333). Mark: DEDUCED, log entry 77. -/
def State.verify (s : State) (i : SlotImage) : Nat :=
  if ¬ i.digestOk then slBadDigest else if ¬ s.authentic i then slBadAuth else if ¬ formatOk i then slBadFormat else slIntact

/-! ### Selection (R336) -/

/-- The slots that take part: read, not excluded, with a header that passes. -/
def State.slotsIn (s : State) (only : Nat) (imgs : List (Nat × SlotImage)) : List (Nat × SlotImage) :=
  imgs.filter (fun x => (only = 3 || only = x.1) && !nbit s.load.excl.toNat x.1 && x.2.headerOk)

/-- The generations of the slots, highest first. -/
def gensOf (xs : List (Nat × SlotImage)) : List Nat := ((xs.map (fun x => x.2.gen.toNat)).dedup).insertionSort (fun a b => b ≤ a)

/-- The first generation with an intact slot: its slots, and the generations tried. -/
def State.pickGen (s : State) (xs : List (Nat × SlotImage)) : List Nat → List Nat → Option Nat × List Nat
  | [], tried => (none, tried)
  | g :: gs, tried =>
    if xs.any (fun x => x.2.gen.toNat = g && s.verify x.2 = slIntact) then (some g, g :: tried) else s.pickGen xs gs (g :: tried)

/-- What selection finds: the slot, the divergent slots, the digest of the lowest-numbered other divergent slot. -/
structure Selected where
  sel : Option Nat
  divs : Nat
  dig2 : Word
  tried : List Nat
  deriving DecidableEq, Repr

/-- DIGEST bytes 0 to 3. Mark: DESIGN CHOICE, log entry 79. -/
def digWord (i : SlotImage) : Word := word i.digest.toNat

def State.selectSlot (s : State) (only : Nat) (imgs : List (Nat × SlotImage)) : Selected :=
  let xs := s.slotsIn only imgs
  let (g, tried) := s.pickGen xs (gensOf xs) []
  match g with
  | none => ⟨none, 0, 0, tried⟩
  | some g =>
    match xs.filter (fun x => x.2.gen.toNat = g && s.verify x.2 = slIntact) with
    | [] => ⟨none, 0, 0, tried⟩
    | x :: rest =>
      match rest.filter (fun y => y.2.digest != x.2.digest) with
      | [] => ⟨some x.1, 0, 0, tried⟩
      | y :: more => ⟨some x.1, 2 ^ x.1 + 2 ^ y.1 + (more.map (fun z => 2 ^ z.1)).sum, digWord y.2, tried⟩

/-- What the slot registers show of one slot (R336, R350). Mark: DEDUCED, log entry 77. -/
def State.slotShow (s : State) (tried : List Nat) (x : Nat × SlotImage) : State :=
  let (n, i) := x
  let st := if nbit s.load.excl.toNat n then slLoadFail else if ¬ i.headerOk then slEmpty
    else if i.gen.toNat ∈ tried then s.verify i else slNotChecked
  (((s.setReg (R.CFG_SLOTs_GEN n) i.gen).setReg (R.CFG_SLOTs_DIG n) (digWord i)).rput (F.CFG_SLOTs_STAT_LEN_KB n) ((i.length.toNat + 1023) / 1024)).rput
    (F.CFG_SLOTs_STAT_STATE n) st

/-- The slot registers and the selection bits of `CFG_STAT`. -/
def State.selShow (s : State) (only : Nat) (imgs : List (Nat × SlotImage)) (r : Selected) : State :=
  let s1 := (imgs.filter (fun x => only = 3 || only = x.1)).foldl (fun (a : State) x => a.slotShow r.tried x) s
  let found := (List.range 3).foldl (fun (m : Nat) n => m + bitAt n (s1.rget (F.CFG_SLOTs_STAT_STATE n) = slIntact && (only = 3 || only = n))) 0
  let s2 := (s1.rput F.CFG_STAT_INTACT found).rput F.CFG_STAT_DIVERGE (b2n (r.divs != 0))
  if r.divs = 0 then s2 else s2.evt F.GL_EVT_DIVERGE_S

/-- RESET_CAUSE (R363, R381), with its copy in the MRAM. Mark: DEDUCED, log entry 62. -/
def State.resetRecord (s : State) : State :=
  let ns := if (s.reg R.PW_RSTCAUSE).toNat &&& 0x83 = 0 then word (tNs s.load.start) else 0
  s.emit 0x2F 106 s.now 0 (s.reg R.PW_RSTCAUSE) (s.reg R.PW_RSTCNT) ns 0

/-- The digest of a slot's image (R338). -/
def slotDigest (imgs : List (Nat × SlotImage)) (n : Nat) : BitVec 256 :=
  match imgs.find? (fun x => decide (x.1 = n)) with | some x => x.2.digest | none => 0

/-! ### The end of a load (R339, R340) -/

/-- CFG_RELOAD's duration of a load since a time, in µs. -/
def State.loadUs (s : State) (t : Nat) : Nat := (s.now - t) / 64000

/-- CFG_RELOAD (R345). -/
def State.reloadRecord (s : State) (slot result : Nat) (gen us : Word) : State :=
  s.emit 0x2C 104 s.now 0
    (word (b2n (s.load.isReload || result = 1) + 4 * slot + 16 * s.rget F.CFG_STAT_HELD + 32 * s.rget F.CFG_STAT_DIVERGE +
      64 * s.rget F.CAL_VOTE_FBAD + 256 * result + 4096 * s.load.excl.toNat))
    gen (s.reg R.CFG_LOADERR) us

/-- CFG_DIVERGE (R345). -/
def State.divergeRecord (s : State) (n : Nat) (q : LoadEnd) : State :=
  s.emit 0x2A 104 s.now 0 (word (n + 16 * s.load.divs.toNat + 256 * b2n (s.policy 0))) q.gen q.dig s.load.dig2

/-- The duration that the end of the load reports: free where the load began before the spine counted. Mark: DESIGN CHOICE, log entry 26. -/
def State.loadTime (s : State) : State × Word :=
  if s.load.isReload ∨ (s.reg R.PW_RSTCAUSE).toNat &&& 0xC3 = 0 then (s, word (s.loadUs s.load.start)) else (s.drawn, Config.loadTime s.free)

/-- The device stays held after the load (R339). -/
def State.staysHeld (s : State) (q : LoadEnd) : Bool := q.relhold || (s.load.divs != 0 && s.policy 0)

/-- The loader has nothing more to do. -/
def State.loadIdle (s : State) (subsys : Word) : State :=
  s.modLoad (fun l => { l with sel := none, isReload := false, retx := false, subsys := subsys, ended := none, meas := none })

/-- The records and marks at the end of a load. -/
def State.loadNotes (s : State) (n : Nat) (q : LoadEnd) : State :=
  let s0 := if s.load.divs = 0 then s else s.divergeRecord n q
  let (s1, us) := (s0.rput F.CFG_STAT_HELD (b2n (s0.staysHeld q))).loadTime
  let s2 := ((s1.reloadRecord n 0 q.gen us).resetRecord.setReg R.CFG_BOOTTIME us).rput F.CFG_STAT_SLOT n
  let s3 := ((s2.rput F.CFG_STAT_NOIMAGE 0).rput F.CFG_STAT_LOADING 0).evt F.CFG_EVT_LOAD_S
  let s4 := if s3.load.isReload then s3.evt F.GL_EVT_RELOAD_S else s3
  s4.loadIdle q.subsys

/-- The end of a successful load: locks, signature, records, release. Mark: DESIGN CHOICE, log entry 78. -/
def State.loadEnd (s : State) (n : Nat) (q : LoadEnd) : State :=
  let s1 := match q.lock with | some m => s.ecRestore.lockWrite (m.setWidth 32) | none => s.ecRestore
  let s2 := (s1.sigStart 3).loadNotes n q
  if s2.ron F.CFG_STAT_HELD then s2 else s2.pllTick.releaseNow

/-- The end of a load that has found no intact slot (R340): the device stays held. -/
def State.noImageEnd (s : State) : State := ((s.ecRestore.resetRecord).rput F.CFG_STAT_LOADING 0).loadIdle 0x1F3A

/-- A load's measurements cover every bank (R364). -/
def measComplete (m : LoadMeas) : Bool := (List.finRange 12).all (fun b => m.banks.any (fun x => x.b == b))

/-- The end of a load waits for its pass and for the recalibration of all banks, which comes before the release (R364, R370). Mark: DESIGN CHOICE, log entry 78. -/
def State.loadClose (s : State) : State :=
  match s.load.ended, s.load.meas with
  | some q, some m =>
    if measComplete m then
      let s1 := s.recalibrate m.banks m.gafs m.tj
      match q.slot with
      | some n => s1.loadEnd n q
      | none => s1.noImageEnd
    else s
  | _, _ => s

/-- The load pass, or a selection that finds no image, is over. -/
def State.loadOver (s : State) (q : LoadEnd) : State := (s.modLoad (fun l => { l with ended := some q })).loadClose

/-- Measurements of a load's recalibration: the latest of each bank counts. -/
def LoadMeas.add (old : Option LoadMeas) (ms : List BankMeas) (gs : List GafMeas) (tj : BitVec 16) : LoadMeas :=
  let before := match old with | some m => m.banks.filter (fun x => !ms.any (fun y => y.b == x.b)) | none => []
  ⟨before ++ ms, gs, tj⟩

/-- A recalibration (R370): a load's waits for the end of its pass. Mark: DESIGN CHOICE, log entry 78. -/
def State.recalRow (s : State) (ms : List BankMeas) (gs : List GafMeas) (tj : BitVec 16) : State :=
  if s.loading then (s.modLoad (fun l => { l with meas := some (LoadMeas.add l.meas ms gs tj) })).loadClose
  else s.recalibrate ms gs tj

/-! ### The selection of a load (R336, R340) -/

/-- No slot is intact (R340): nothing is loaded, and the device is held. -/
def State.noImage (s : State) : State :=
  (((s.rput F.CFG_STAT_NOIMAGE 1).rput F.CFG_STAT_HELD 1).evt F.CFG_EVT_FAIL_S).loadOver ⟨none, none, true, 0, 0, 0⟩

/-- Selection of a load that runs (R336). -/
def State.loadSelect (s : State) (imgs : List (Nat × SlotImage)) : State :=
  let r := s.selectSlot s.load.only imgs
  let s1 := s.selShow s.load.only imgs r
  match r.sel with
  | none => s1.noImage
  | some n => s1.modLoad (fun l => { l with sel := some n, divs := BitVec.ofNat 3 r.divs, dig2 := r.dig2, digest := slotDigest imgs n })

/-! ### RELOAD (R343) -/

/-- A RELOAD that finds nothing to load ends with no change. Mark: DESIGN CHOICE, log entry 29. -/
def State.reloadNothing (s : State) (t : Nat) : State :=
  let v := (Config.nothingLoaded s.free).toNat
  (((s.drawn.modLoad (fun l => { l with reload := none })).rput F.CFG_STAT_CMD_REF 1)).reloadRecord (v % 4) 1 (word (v / 4)) (word (s.loadUs t))

/-- The hold tick of a RELOAD: blocks take their states, and the load begins. -/
def State.reloadHold (s : State) (only : Nat) (r : Selected) (n : Nat) (dig : BitVec 256) : State :=
  let s1 := s.reloadReset
  let s2 := (s1.modLoad (fun l => { l with
    isReload := true, reload := none, sel := some n, only := only, excl := 0, divs := BitVec.ofNat 3 r.divs, dig2 := r.dig2,
    start := s1.now, retx := false, digest := dig, ended := none, meas := none })).resetDone 0x20
  (s2.pwState stHold causeLoad).otpScan

/-- The verification of a RELOAD ends. -/
def State.reloadSelect (s : State) (q : Reload) (imgs : List (Nat × SlotImage)) : State :=
  let r := s.selectSlot q.slot imgs
  match r.sel with
  | none => (s.selShow q.slot imgs r).reloadNothing q.start
  | some n => (s.reloadHold q.slot r n (slotDigest imgs n)).selShow q.slot imgs r

/-- Selection, of the load that runs once the spine counts, or of a RELOAD that verifies. Mark: DEDUCED, log entry 77. -/
def State.selection (s : State) (i0 i1 i2 : SlotImage) : State :=
  let imgs := [(0, i0), (1, i1), (2, i2)]
  if s.loading then (if s.load.sel = none ∧ s.load.ended = none ∧ s.spine.counting then s.loadSelect imgs else s)
  else
    match s.load.reload with
    | some q => s.reloadSelect q imgs
    | none => s

/-! ### The load pass (R337, R344) -/

/-- Bits that show the refusal of a write, by the register they stand in. -/
def refusalBits (o : Nat) : Nat × Nat :=
  if o < 0x1000 then (R.GL_EVT, 0)
  else if o < 0x2000 then (R.SPN_EVT, 4)
  else if o < 0x3000 then (R.EC_EVT, 0x11)
  else if o < 0x4000 then (R.AP_EVT, 3)
  else if o < 0x5000 then (R.EL_EVT, 0)
  else if o < 0x6000 then (R.PW_EVT, 8)
  else if o < 0x7000 then (R.CFG_EVT, 8)
  else if o < 0x8000 then (R.HL_EVT, 0)
  else if o < 0x9000 then (R.FRZ_EVT, 4)
  else if o < 0xA000 then (R.PW_EVT, 8)
  else if o < 0x14000 then (R.ORYn_EVT ((o - 0x10000) / 0x1000), 0x800)
  else if o < 0x19000 then (R.CV_EVT, 7)
  else if o < 0x30000 then (R.LH_EVT, 1)
  else if o < 0x40000 then (R.RINGn_EVT ((o - 0x30000) / 0x40), 0xA)
  else if o < 0x48000 then (R.Ge_CMD_STAT ((o - 0x40000) / 0x1000), 2)
  else (R.CHc_EVT ((o - 0x100000) / 0x400), 0x184)

/-- A write of a command register names a reserved operation (R7). -/
def reservedOp (o : Nat) (v : Word) : Bool :=
  if o = R.EL_CMD then decide (wfld v 0 2 = 3)
  else if o = R.PSQ_CMD then decide (4 < wfld v 0 3)
  else if o = R.CFG_CMD then decide (3 < wfld v 0 3)
  else if o = R.FRZ_CMD then decide (wfld v 0 2 = 3)
  else if 0x10000 ≤ o ∧ o < 0x14000 ∧ o % 0x1000 = 0x40 then decide (3 < wfld v 0 3)
  else if 0x40000 ≤ o ∧ o < 0x48000 ∧ o % 0x1000 = 0x10 then decide (wfld v 4 3 = 7)
  else false

/-- A rule refuses a write in part or in whole: tried on a state that shows no refusal yet. Mark: DEDUCED, log entry 76. -/
def State.writeRefused (s : State) (p : Path) (o : Nat) (v : Word) : Bool :=
  let (r, m) := refusalBits o
  let probe := (s.setReg r (word ((s.reg r).toNat &&& (0xFFFFFFFF - m)))).writeReg p o v
  s.reservedIn o v || reservedOp o v || (probe.reg r).toNat &&& m != 0

/-- A write of a REGS section (R337): as a host write, on the loader's own path state. Mark: DEDUCED, log entry 76. -/
def State.imageWrite (s : State) (a : Nat) (v : Word) : State :=
  match siteOf .pcie a with
  | .reg o =>
    let s1 := s.writeReg .pcie o v
    if s.writeRefused .pcie o v then s1.rsat F.CFG_LOADERR_REFUSED 1 else s1
  | _ => s

/-- A write that a lock refuses is skipped and counted (R344). Mark: DEDUCED, log entry 76. -/
def State.imageLocked (s : State) : State := s.rsat F.CFG_LOADERR_LOCKED 1

/-- A LAYOUT section (R333, R337): the division of the pool, and `LH_GPOFS`. -/
def State.imageLayout (s : State) (l : Layout) : State :=
  let s1 := { s with layout := l }
  if l.heads then
    (if s.locked 6 then s1.imageLocked else s1.setReg R.LH_GPOFS (word (0x3B2000 + poolGaf l + poolRing l)))
  else s1

/-- A CSTORE section (R149, R337, R344). -/
def State.imageStore (s : State) (e : Fin 8) (first : Nat) (ws : List (BitVec 144)) : State :=
  if s.csLocked e then s.imageLocked
  else (ws.zip (List.range ws.length)).foldl (fun (a : State) x =>
    a.csPut e ⟨(first + x.2) % 2048, Nat.mod_lt _ (by decide)⟩ x.1.toNat) s

/-- Bytes from an offset of the SRAM. -/
def sramPut (m : Tbl Byte) (a : Nat) (bytes : List Byte) : Tbl Byte :=
  (bytes.zip (List.range bytes.length)).foldl (fun (t : Tbl Byte) x => memWr t (a + x.2) x.1) m

/-- The bytes lie wholly inside retained banks (R356, R357). -/
def State.inRetained (s : State) (a n : Nat) : Bool :=
  (List.range 16).all (fun b => nbit (s.rget F.PW_RET_CFG_BANKS) b || decide (a + n ≤ b * 0x40000 ∨ (b + 1) * 0x40000 ≤ a))

/-- A CALU entry (R337, R344): the word is staged. -/
def State.imageCal (s : State) (q : Nat) (v : Word) : State :=
  if s.locked 1 then s.imageLocked
  else if calHasU q then { s with calS := tblPut s.calS q (word (v.toNat &&& calBits q)) } else s

/-- One section takes effect; LOCK waits for the end of the load. A reset that an image's own write has caused ends the pass. Mark: DESIGN CHOICE, log entry 78. -/
def State.imageSection (s : State) (x : ImgSection) : State :=
  if s.load.sel = none then s
  else
    match x with
    | .layout g r h => s.imageLayout (imgLayout [.layout g r h])
    | .cstore e first ws => s.imageStore e first ws
    | .sram ofs bytes =>
      if s.load.retx ∧ s.ron F.PW_CTRL_SKIPSRAM ∧ s.inRetained ofs bytes.length then s else { s with sram := sramPut s.sram ofs bytes }
    | .regs ws => ws.foldl (fun (a : State) w => if a.load.sel = none then a else a.imageWrite w.1.toNat w.2) s
    | .calu ws => ws.foldl (fun (a : State) w => a.imageCal w.1.toNat w.2) s
    | .apply m => if m = 0 then s else s.pllTick.applyNow m.toNat originImage 0
    | .lock _ => s

/-- The sections in image order, on a path state of the loader's own. -/
def State.imageSections (s : State) (secs : List ImgSection) : State :=
  let t := secs.foldl (fun (a : State) x => a.imageSection x) { s with pcie := PathState.reset }
  { t with pcie := if t.load.sel = none then t.pcie else s.pcie }

/-- LOCK's value. -/
def imgLock (secs : List ImgSection) : Option (BitVec 12) := secs.findSome? (fun x => match x with | .lock m => some m | _ => none)

/-- What the end of a load needs of the slot loaded and its image. -/
def endOf (n : Nat) (i : SlotImage) : LoadEnd := ⟨some n, imgLock i.sections, i.relhold, i.gen, digWord i, i.subsys⟩

/-- The load pass of the selected slot: a recomputed digest that differs from the image's, or from the one that selection has verified,
excludes the slot, and selection is repeated (R338). -/
def State.loadPass (s : State) (i : SlotImage) : State :=
  match s.load.sel with
  | none => s
  | some n =>
    if ¬ s.loading ∨ s.load.ended ≠ none then s
    else if ¬ i.digestOk ∨ i.digest ≠ s.load.digest then
      (s.rput (F.CFG_SLOTs_STAT_STATE n) slLoadFail).modLoad (fun l => { l with sel := none, excl := l.excl ||| BitVec.ofNat 3 (2 ^ n) })
    else
      let t := s.imageSections i.sections
      if t.load.sel = none then t else t.loadOver (endOf n i)

/-! ### Rows -/

/-- `RECALIBRATION` (R370). -/
def execRecalibration (ms : List BankMeas) (gs : List GafMeas) (tj : BitVec 16) (s : State) : Host.Outcome State Fault Refusal :=
  s.event (fun s => s.recalRow ms gs tj)

/-- `SLOT_SELECTION` (R336, R343). -/
def execSlotSelection (i0 i1 i2 : List Byte) (s : State) : Host.Outcome State Fault Refusal :=
  s.event (fun s => s.selection (slotFrom i0) (slotFrom i1) (slotFrom i2))

/-- `LOAD_PASS` (R337 to R339). -/
def execLoadPass (head rest : List Byte) (s : State) : Host.Outcome State Fault Refusal := s.event (fun s => s.loadPass (slotFrom (head ++ rest)))

end Sys2Proof.Machine
end

