-- ==== Sys2Proof/Machine/Dispatch.lean ====
section
/-!
DEFINITION. What each command does: one arm per constructor of `Instr`, each one direct call of that command's meaning.
-/
namespace Sys2Proof.Machine
open Sys2Proof

/-- The effect of one command on everything but the queue. -/
def exec (i : Instr) (s : State) : Host.Outcome State Fault Refusal :=
  match i with
  | .pllLock => Sys2Proof.Machine.execPllLock s
  | .refLost => Sys2Proof.Machine.execRefLost s
  | .pllUnlock => Sys2Proof.Machine.execPllUnlock s
  | .relock => Sys2Proof.Machine.execRelock s
  | .spnRateWrite p v => Sys2Proof.Machine.execSpnRateWrite p v s
  | .spineNop p waits ag => Sys2Proof.Machine.execSpineNop p waits ag s
  | .spineSet p waits ag => Sys2Proof.Machine.execSpineSet p waits ag s
  | .spineStep p waits ag => Sys2Proof.Machine.execSpineStep p waits ag s
  | .spineSlew p waits ag => Sys2Proof.Machine.execSpineSlew p waits ag s
  | .slewAbort p waits ag => Sys2Proof.Machine.execSlewAbort p waits ag s
  | .spnCmdIllegal p op waits ag => Sys2Proof.Machine.execSpnCmdIllegal p op waits ag s
  | .holdEnd => Sys2Proof.Machine.execHoldEnd s
  | .slewDone => Sys2Proof.Machine.execSlewDone s
  | .ppsPulse => Sys2Proof.Machine.execPpsPulse s
  | .ppsPulseEnd => Sys2Proof.Machine.execPpsPulseEnd s
  | .ppsCapture falling pos => Sys2Proof.Machine.execPpsCapture falling pos s
  | .recalibration ms gs tj => Sys2Proof.Machine.execRecalibration ms gs tj s
  | .bankSupplyLoss b => Sys2Proof.Machine.execBankSupplyLoss b s
  | .bankSupplyReturn b volts33 => Sys2Proof.Machine.execBankSupplyReturn b volts33 s
  | .inputEdge c level pos width => Sys2Proof.Machine.execInputEdge c level pos width s
  | .compareFire c u => Sys2Proof.Machine.execCompareFire c u s
  | .compareArm p c u v => Sys2Proof.Machine.execCompareArm p c u v s
  | .compareDisarm p c u v => Sys2Proof.Machine.execCompareDisarm p c u v s
  | .channelHold p c hold => Sys2Proof.Machine.execChannelHold p c hold s
  | .fifoPush p c v => Sys2Proof.Machine.execFifoPush p c v s
  | .fifoStart p c waits => Sys2Proof.Machine.execFifoStart p c waits s
  | .fifoStop p c => Sys2Proof.Machine.execFifoStop p c s
  | .fifoFlush p c => Sys2Proof.Machine.execFifoFlush p c s
  | .fifoBreak p c => Sys2Proof.Machine.execFifoBreak p c s
  | .capture c k rise pos => Sys2Proof.Machine.execCapture c k rise pos s
  | .captureRead p c k => Sys2Proof.Machine.execCaptureRead p c k s
  | .applyStrobe g => Sys2Proof.Machine.execApplyStrobe g s
  | .threadStart p e n pc => Sys2Proof.Machine.execThreadStart p e n pc s
  | .threadHalt p e n => Sys2Proof.Machine.execThreadHalt p e n s
  | .threadResume p e n => Sys2Proof.Machine.execThreadResume p e n s
  | .threadWake p e n => Sys2Proof.Machine.execThreadWake p e n s
  | .clrFault p e n => Sys2Proof.Machine.execClrFault p e n s
  | .clrLat p e n => Sys2Proof.Machine.execClrLat p e n s
  | .gafferNop p e n => Sys2Proof.Machine.execGafferNop p e n s
  | .geCtrlRun p e run => Sys2Proof.Machine.execGeCtrlRun p e run s
  | .dispatch e => Sys2Proof.Machine.execDispatch e s
  | .timerDue e => Sys2Proof.Machine.execTimerDue e s
  | .threadStarve e n => Sys2Proof.Machine.execThreadStarve e n s
  | .spaceRetry e n => Sys2Proof.Machine.execSpaceRetry e n s
  | .sregStore p e m v => Sys2Proof.Machine.execSregStore p e m v s
  | .mwNop e => Sys2Proof.Machine.execMwArithNop e s
  | .mwMov e => Sys2Proof.Machine.execMwMov e s
  | .mwAdd e => Sys2Proof.Machine.execMwAdd e s
  | .mwSub e => Sys2Proof.Machine.execMwSub e s
  | .mwAnd e => Sys2Proof.Machine.execMwAnd e s
  | .mwOr e => Sys2Proof.Machine.execMwOr e s
  | .mwXor e => Sys2Proof.Machine.execMwXor e s
  | .mwShl e => Sys2Proof.Machine.execMwShl e s
  | .mwShr e => Sys2Proof.Machine.execMwShr e s
  | .mwSar e => Sys2Proof.Machine.execMwSar e s
  | .mwCmp e => Sys2Proof.Machine.execMwCmp e s
  | .mwTst e => Sys2Proof.Machine.execMwTst e s
  | .mwMin e => Sys2Proof.Machine.execMwMin e s
  | .mwMax e => Sys2Proof.Machine.execMwMax e s
  | .mwTdiff e => Sys2Proof.Machine.execMwTdiff e s
  | .mwBset e => Sys2Proof.Machine.execMwBset e s
  | .mwBclr e => Sys2Proof.Machine.execMwBclr e s
  | .mwNext e => Sys2Proof.Machine.execMwNext e s
  | .mwJump e => Sys2Proof.Machine.execMwJump e s
  | .mwCall e => Sys2Proof.Machine.execMwCall e s
  | .mwRet e => Sys2Proof.Machine.execMwRet e s
  | .mwWait e => Sys2Proof.Machine.execMwWait e s
  | .mwEnd e => Sys2Proof.Machine.execMwEnd e s
  | .mwDisp e => Sys2Proof.Machine.execMwDisp e s
  | .mwYield e => Sys2Proof.Machine.execMwYield e s
  | .mwInsCmp e => Sys2Proof.Machine.execMwInsCmp e s
  | .mwInsTmr e => Sys2Proof.Machine.execMwInsTmr e s
  | .mwCanCmp e => Sys2Proof.Machine.execMwCanCmp e s
  | .mwCanTmr e => Sys2Proof.Machine.execMwCanTmr e s
  | .mwInsAng e => Sys2Proof.Machine.execMwInsAng e s
  | .mwCaprd e => Sys2Proof.Machine.execMwCaprd e s
  | .mwSnap e => Sys2Proof.Machine.execMwSnap e s
  | .mwCntrd e => Sys2Proof.Machine.execMwCntrd e s
  | .mwFpush e => Sys2Proof.Machine.execMwFpush e s
  | .mwLdbase e => Sys2Proof.Machine.execMwLdbase e s
  | .mwChst e => Sys2Proof.Machine.execMwChst e s
  | .mwLd32 e ecc => Sys2Proof.Machine.execMwLd32 e ecc s
  | .mwLd40 e ecc => Sys2Proof.Machine.execMwLd40 e ecc s
  | .mwSt32 e => Sys2Proof.Machine.execMwSt32 e s
  | .mwSt40 e => Sys2Proof.Machine.execMwSt40 e s
  | .mwRec e => Sys2Proof.Machine.execMwRec e s
  | .mwAng e => Sys2Proof.Machine.execMwAng e s
  | .mwEdge e => Sys2Proof.Machine.execMwEdge e s
  | .mwA2t e => Sys2Proof.Machine.execMwA2t e s
  | .mwNow e => Sys2Proof.Machine.execMwNow e s
  | .mwSignal e => Sys2Proof.Machine.execMwSignal e s
  | .mwWclr e => Sys2Proof.Machine.execMwWclr e s
  | .mwTrig e => Sys2Proof.Machine.execMwTrig e s
  | .csStore p e w v => Sys2Proof.Machine.execCsStore p e w v s
  | .wheelTooth n pos => Sys2Proof.Machine.execWheelTooth n pos s
  | .camEdge n pos => Sys2Proof.Machine.execCamEdge n pos s
  | .camLost n => Sys2Proof.Machine.execCamLost n s
  | .dirPwDecision n => Sys2Proof.Machine.execDirPwDecision n s
  | .hallChange n lvl pos => Sys2Proof.Machine.execHallChange n lvl pos s
  | .quadTransition n lvl pos => Sys2Proof.Machine.execQuadTransition n lvl pos s
  | .sincosSample n rawS rawC => Sys2Proof.Machine.execSincosSample n rawS rawC s
  | .sincosIndex n pos => Sys2Proof.Machine.execSincosIndex n pos s
  | .still n => Sys2Proof.Machine.execStill n s
  | .oryNop p n => Sys2Proof.Machine.execOryNop p n s
  | .reacq p n => Sys2Proof.Machine.execReacq p n s
  | .setpos p n => Sys2Proof.Machine.execSetpos p n s
  | .clrCnt p n => Sys2Proof.Machine.execClrCnt p n s
  | .cvCmd p k ain => Sys2Proof.Machine.execCvCmd p k ain s
  | .convHold k => Sys2Proof.Machine.execConvHold k s
  | .convResult k raw => Sys2Proof.Machine.execConvResult k raw s
  | .cvbufRdidxWrite p b v => Sys2Proof.Machine.execCvbufRdidxWrite p b v s
  | .commandFetch n bad corr => Sys2Proof.Machine.execCommandFetch n bad corr s
  | .lehrNop n => Sys2Proof.Machine.execLehrNop n s
  | .arm n => Sys2Proof.Machine.execArm n s
  | .cancel n => Sys2Proof.Machine.execCancel n s
  | .move n => Sys2Proof.Machine.execMove n s
  | .lehrIllegal n => Sys2Proof.Machine.execLehrIllegal n s
  | .stallResume => Sys2Proof.Machine.execStallResume s
  | .prefetch => Sys2Proof.Machine.execPrefetch s
  | .cascade => Sys2Proof.Machine.execCascade s
  | .deadlineFire ecc => Sys2Proof.Machine.execDeadlineFire ecc s
  | .lehrEnable p v => Sys2Proof.Machine.execLehrEnable p v s
  | .lehrDisable p v => Sys2Proof.Machine.execLehrDisable p v s
  | .lehrHosterr => Sys2Proof.Machine.execLehrHosterr s
  | .recordWrite => Sys2Proof.Machine.execRecordWrite s
  | .ringTailWrite p n v => Sys2Proof.Machine.execRingTailWrite p n v s
  | .ringEnable p n v => Sys2Proof.Machine.execRingEnable p n v s
  | .ringDisable p n v => Sys2Proof.Machine.execRingDisable p n v s
  | .ringHosterr n => Sys2Proof.Machine.execRingHosterr n s
  | .fence n => Sys2Proof.Machine.execFence n s
  | .mark n => Sys2Proof.Machine.execMark n s
  | .summary n => Sys2Proof.Machine.execSummary n s
  | .ringIllegal n => Sys2Proof.Machine.execRingIllegal n s
  | .ecClaim p t => Sys2Proof.Machine.execEcClaim p t s
  | .ecComplete p t v => Sys2Proof.Machine.execEcComplete p t v s
  | .ecDoorbell p v => Sys2Proof.Machine.execEcDoorbell p v s
  | .ecPendWrite p w v => Sys2Proof.Machine.execEcPendWrite p w v s
  | .ecEnWrite p w v => Sys2Proof.Machine.execEcEnWrite p w v s
  | .ecTgtWrite p v => Sys2Proof.Machine.execEcTgtWrite p v s
  | .ecCtrlWrite p v => Sys2Proof.Machine.execEcCtrlWrite p v s
  | .latchTimeout => Sys2Proof.Machine.execLatchTimeout s
  | .pcieD0Return => Sys2Proof.Machine.execPcieD0Return s
  | .linkLock p => Sys2Proof.Machine.execLinkLock p s
  | .portDown p code viol => Sys2Proof.Machine.execPortDown p code viol s
  | .holdoffEnd p => Sys2Proof.Machine.execHoldoffEnd p s
  | .beaconTimeout p => Sys2Proof.Machine.execBeaconTimeout p s
  | .beaconSend p => Sys2Proof.Machine.execBeaconSend p s
  | .beaconReceive p f b pos => Sys2Proof.Machine.execBeaconReceive p f b pos s
  | .candidateExpiry p => Sys2Proof.Machine.execCandidateExpiry p s
  | .delayReqSend p => Sys2Proof.Machine.execDelayReqSend p s
  | .delayReqReceive p f ask pos => Sys2Proof.Machine.execDelayReqReceive p f ask pos s
  | .delayRespReceive p f t4Ns t4Sub num => Sys2Proof.Machine.execDelayRespReceive p f t4Ns t4Sub num s
  | .delayTimeout p => Sys2Proof.Machine.execDelayTimeout p s
  | .joinReceive p f id uid => Sys2Proof.Machine.execJoinReceive p f id uid s
  | .joinResend => Sys2Proof.Machine.execJoinResend s
  | .joinAckReceive p f id conflict uid => Sys2Proof.Machine.execJoinAckReceive p f id conflict uid s
  | .leaveReceive p f ids => Sys2Proof.Machine.execLeaveReceive p f ids s
  | .applyAtFrame p f t m bseq => Sys2Proof.Machine.execApplyAtFrame p f t m bseq s
  | .doorbellFrame p f n mid => Sys2Proof.Machine.execDoorbellFrame p f n mid s
  | .mailboxFrame p f mid data => Sys2Proof.Machine.execMailboxFrame p f mid data s
  | .deliveryReceive p f mid typ refused => Sys2Proof.Machine.execDeliveryReceive p f mid typ refused s
  | .mailboxTimeout mid => Sys2Proof.Machine.execMailboxTimeout mid s
  | .frameSend p => Sys2Proof.Machine.execFrameSend p s
  | .doorbell n => Sys2Proof.Machine.execDoorbell n s
  | .mailbox n => Sys2Proof.Machine.execMailbox n s
  | .mboxCont n => Sys2Proof.Machine.execMboxCont n s
  | .applyAt n => Sys2Proof.Machine.execApplyAt n s
  | .elIllegal n => Sys2Proof.Machine.execElIllegal n s
  | .elNop p => Sys2Proof.Machine.execElNop p s
  | .rejoin p => Sys2Proof.Machine.execRejoin p s
  | .elClrcnt p => Sys2Proof.Machine.execElClrcnt p s
  | .ewerlinkDisable p v => Sys2Proof.Machine.execEwerlinkDisable p v s
  | .portDisable p v => Sys2Proof.Machine.execPortDisable p v s
  | .registerWrite p a v full => Sys2Proof.Machine.execRegisterWrite p a v full s
  | .rlRead p a => Sys2Proof.Machine.execRlRead p a s
  | .unmappedAccess p a isWrite => Sys2Proof.Machine.execUnmappedAccess p a isWrite s
  | .spiRead a n arr => Sys2Proof.Machine.execSpiRead a n arr s
  | .spiQread a n arr => Sys2Proof.Machine.execSpiQread a n arr s
  | .spiWrite a ws form => Sys2Proof.Machine.execSpiWrite a ws form s
  | .spiQwrite a ws form => Sys2Proof.Machine.execSpiQwrite a ws form s
  | .rdsr => Sys2Proof.Machine.execRdsr s
  | .ifreset => Sys2Proof.Machine.execIfreset s
  | .pcieLinkDown => Sys2Proof.Machine.execPcieLinkDown s
  | .functionLevelReset => Sys2Proof.Machine.execFunctionLevelReset s
  | .busMasterDisable => Sys2Proof.Machine.execBusMasterDisable s
  | .d0Exit => Sys2Proof.Machine.execD0Exit s
  | .completionTimeout => Sys2Proof.Machine.execCompletionTimeout s
  | .apApply p m => Sys2Proof.Machine.execApApply p m s
  | .apAtCmd p m => Sys2Proof.Machine.execApAtCmd p m s
  | .applyAtDue => Sys2Proof.Machine.execApplyAtDue s
  | .apCancel p m => Sys2Proof.Machine.execApCancel p m s
  | .apAbort p m => Sys2Proof.Machine.execApAbort p m s
  | .apFence p => Sys2Proof.Machine.execApFence p s
  | .apFenceRead p => Sys2Proof.Machine.execApFenceRead p s
  | .glLockWrite p v => Sys2Proof.Machine.execGlLockWrite p v s
  | .glHosttagWrite p v => Sys2Proof.Machine.execGlHosttagWrite p v s
  | .signatureGo p => Sys2Proof.Machine.execSignatureGo p s
  | .signatureDone => Sys2Proof.Machine.execSignatureDone s
  | .summaryGo p => Sys2Proof.Machine.execSummaryGo p s
  | .summaryPeriod => Sys2Proof.Machine.execSummaryPeriod s
  | .summaryDone => Sys2Proof.Machine.execSummaryDone s
  | .powerOnReset => Sys2Proof.Machine.execPowerOnReset s
  | .brownOut => Sys2Proof.Machine.execBrownOut s
  | .vinLockout => Sys2Proof.Machine.execVinLockout s
  | .supplyFault which => Sys2Proof.Machine.execSupplyFault which s
  | .pinReset => Sys2Proof.Machine.execPinReset s
  | .slotSelection i0 i1 i2 => Sys2Proof.Machine.execSlotSelection i0 i1 i2 s
  | .loadPass head rest => Sys2Proof.Machine.execLoadPass head rest s
  | .cfgNop p => Sys2Proof.Machine.execCfgNop p s
  | .reload p slot => Sys2Proof.Machine.execReload p slot s
  | .release p => Sys2Proof.Machine.execRelease p s
  | .clrerr p => Sys2Proof.Machine.execClrerr p s
  | .calUDataAccess p wr => Sys2Proof.Machine.execCalUDataAccess p wr s
  | .pwNop p => Sys2Proof.Machine.execPwNop p s
  | .pwRun p => Sys2Proof.Machine.execPwRun p s
  | .pwIdle p => Sys2Proof.Machine.execPwIdle p s
  | .pwHold p => Sys2Proof.Machine.execPwHold p s
  | .pwRetain p => Sys2Proof.Machine.execPwRetain p s
  | .pwOff p => Sys2Proof.Machine.execPwOff p s
  | .pwSoft p => Sys2Proof.Machine.execPwSoft p s
  | .pwCmdRefused p v => Sys2Proof.Machine.execPwCmdRefused p v s
  | .wkupInEdge falling => Sys2Proof.Machine.execWkupInEdge falling s
  | .retTmrExpiry => Sys2Proof.Machine.execRetTmrExpiry s
  | .retainExit edges => Sys2Proof.Machine.execRetainExit edges s
  | .idleWake => Sys2Proof.Machine.execIdleWake s
  | .watchdogKick p v => Sys2Proof.Machine.execWatchdogKick p v s
  | .wdgWarn => Sys2Proof.Machine.execWdgWarn s
  | .watchdogExpiry => Sys2Proof.Machine.execWatchdogExpiry s
  | .linkReset => Sys2Proof.Machine.execLinkReset s
  | .psqNop p => Sys2Proof.Machine.execPsqNop p s
  | .psqUp p timed => Sys2Proof.Machine.execPsqUp p timed s
  | .psqDown p timed => Sys2Proof.Machine.execPsqDown p timed s
  | .psqAbort p => Sys2Proof.Machine.execPsqAbort p s
  | .clrflt p => Sys2Proof.Machine.execClrflt p s
  | .railOn r => Sys2Proof.Machine.execRailOn r s
  | .railOff r => Sys2Proof.Machine.execRailOff r s
  | .pgTimeout r => Sys2Proof.Machine.execPgTimeout r s
  | .pgLost r => Sys2Proof.Machine.execPgLost r s
  | .healthSample tj vcore ms vstFail gs => Sys2Proof.Machine.execHealthSample tj vcore ms vstFail gs s
  | .healthLife => Sys2Proof.Machine.execHealthLife s
  | .freezeBall => Sys2Proof.Machine.execFreezeBall s
  | .freezeBallRelease => Sys2Proof.Machine.execFreezeBallRelease s
  | .freeze o => Sys2Proof.Machine.execFreeze o s
  | .thaw o => Sys2Proof.Machine.execThaw o s
  | .frzNop p => Sys2Proof.Machine.execFrzNop p s
  | .freezeComplete => Sys2Proof.Machine.execFreezeComplete s
  | .pcieLinkUp wide speed bme mx cfg => Sys2Proof.Machine.execPcieLinkUp wide speed bme mx cfg s
  | .supplyReturn which => Sys2Proof.Machine.execSupplyReturn which s
  | .pgoodAsserted r => Sys2Proof.Machine.execPgoodAsserted r s
  | .sramWindowWrite p a v be => Sys2Proof.Machine.execSramWindowWrite p a v be s
  | .mramWindowWrite p a v => Sys2Proof.Machine.execMramWindowWrite p a v s
  | .hostWindowRead p a ecc => Sys2Proof.Machine.execHostWindowRead p a ecc s

end Sys2Proof.Machine
end

