-- ==== Sys2Proof/WellFormed.lean ====
section
/-!
DEFINITION. Which operands a command can carry. Where the type of an operand is wider than what can come from outside (a list of any
length, an address of any alignment), the checks here give the bounds; a meaning is given all the same outside them.
-/
namespace Sys2Proof

/-- An access of the hosts moves an aligned 32-bit word (R3, R295). -/
def wordAligned (a : Word) : Bool := a.toNat % 4 = 0

/-- A frame writes at most 1,024 bytes (R303). -/
def frameFits (ws : List Word) : Bool := decide (ws.length ≤ 256)

/-- A MAILBOX carries 1 to 32 bytes (R264). -/
def mailboxFits (data : List Byte) : Bool := decide (1 ≤ data.length) && decide (data.length ≤ 32)

/-- A LEAVE lists 1 to 16 node IDs (R264). -/
def leaveFits (ids : List (Fin 1024)) : Bool := decide (1 ≤ ids.length) && decide (ids.length ≤ 16)

/-- A level that an input takes lasts some time (R57). -/
def pulseLasts (width : Nat) : Bool := decide (0 < width)

/-- A recalibration measures a bank once (R370). -/
def banksOnce : List BankMeas → Bool
  | [] => true
  | m :: ms => ms.all (fun x => decide (x.b ≠ m.b)) && banksOnce ms

/-- The health block measures the replica paths of each of the eight Gaffers (R98). -/
def gaffersAll (gs : List GafMeas) : Bool := decide (gs.length = 8)

/-- The health block reads 32 delay monitors (R372). -/
def monitorsAll (ms : List Monitor) : Bool := decide (ms.length = 32)

/-- A slot spans 16 MB of the flash (R330). -/
def slotFits (bs : List Byte) : Bool := decide (bs.length ≤ 0x1000000)

/-- The operands are such as a command can carry. -/
def Instr.wf : Instr → Bool
  | .recalibration ms gs _ => banksOnce ms && gaffersAll gs
  | .inputEdge _ _ _ width => pulseLasts width
  | .healthSample _ _ ms vst gs => monitorsAll ms && decide (vst.length = 12) && gaffersAll gs
  | .registerWrite _ a _ _ => wordAligned a
  | .rlRead _ a => wordAligned a
  | .unmappedAccess _ a _ => wordAligned a
  | .sramWindowWrite _ a _ _ => wordAligned a
  | .mramWindowWrite _ a _ => wordAligned a
  | .hostWindowRead _ a _ => wordAligned a
  | .spiWrite _ ws _ => frameFits ws
  | .spiQwrite _ ws _ => frameFits ws
  | .mailboxFrame _ _ _ data => mailboxFits data
  | .leaveReceive _ _ ids => leaveFits ids
  | .slotSelection i0 i1 i2 => slotFits i0 && slotFits i1 && slotFits i2
  | .loadPass head rest => slotFits (head ++ rest)
  | _ => true

end Sys2Proof
end

