-- ==== Sys2Proof/Safety.lean ====
section
/-!
DEFINITION. What counts as a safe run, in the terms that statements use: a step answers a next state, the contents of registers and
memories stay in their one canonical form, and the words that no command can change stay as they are.
-/
namespace Sys2Proof.Machine
open Sys2Proof

/-- The register file and the memories are in canonical form, so that equal contents are equal data. -/
def State.canonical (s : State) : Bool :=
  tblWf resetWord s.regs && Memory.wf s.sram && Memory.wf s.mram && Memory.wf s.host

/-- An outcome that lets the machine go on. -/
def goesOn (o : Host.Outcome State Fault Refusal) : Prop := ∃ t, o = .next t

/-- What holds of the next state, where there is one. -/
def onNext (o : Host.Outcome State Fault Refusal) (q : State → Prop) : Prop := ∃ t, o = .next t ∧ q t

/-- The device takes events: it is powered and not frozen (R354, R377). -/
def State.takesEvents (s : State) : Bool := s.powered && !s.frozen

/-- Host writes take effect: the device takes events and no load runs (R342, R354, R378). -/
def State.takesWrites (s : State) : Bool := s.takesEvents && !s.loading

/-! ### Gates -/

/-- The bus offset that a row which is a host write writes (R295): `none` for the rows that are no host write, and for those whose
offset is an operand or whose gate is their own (`PW_CMD`, `CFG_CMD`, `FRZ_CMD`, the windows). -/
def hostOffset : Instr → Option Nat
  | .spnRateWrite _ _ => some R.SPN_RATE
  | .spineNop _ _ _ => some R.SPN_CMD
  | .spineSet _ _ _ => some R.SPN_CMD
  | .spineStep _ _ _ => some R.SPN_CMD
  | .spineSlew _ _ _ => some R.SPN_CMD
  | .slewAbort _ _ _ => some R.SPN_CMD
  | .spnCmdIllegal _ _ _ _ => some R.SPN_CMD
  | .compareArm _ c u _ => some (R.CHc_CMPu_TGT_CTL c (b2n u))
  | .compareDisarm _ c u _ => some (R.CHc_CMPu_TGT_CTL c (b2n u))
  | .channelHold _ c _ => some (R.CHc_CTRL c)
  | .fifoPush _ c _ => some (R.CHc_FIFO_ENT_HI c)
  | .fifoStart _ c _ => some (R.CHc_FIFO_CTL c)
  | .fifoStop _ c => some (R.CHc_FIFO_CTL c)
  | .fifoFlush _ c => some (R.CHc_FIFO_CTL c)
  | .fifoBreak _ c => some (R.CHc_FIFO_CTL c)
  | .threadStart _ e _ _ => some (R.Ge_CMD e)
  | .threadHalt _ e _ => some (R.Ge_CMD e)
  | .threadResume _ e _ => some (R.Ge_CMD e)
  | .threadWake _ e _ => some (R.Ge_CMD e)
  | .clrFault _ e _ => some (R.Ge_CMD e)
  | .clrLat _ e _ => some (R.Ge_CMD e)
  | .gafferNop _ e _ => some (R.Ge_CMD e)
  | .geCtrlRun _ e _ => some (R.Ge_CTRL e)
  | .sregStore _ e m _ => some (R.Ge_SREGm_HI e m)
  | .csStore _ e w _ => some (csOffset e w 4)
  | .oryNop _ n => some (R.ORYn_CMD n)
  | .reacq _ n => some (R.ORYn_CMD n)
  | .setpos _ n => some (R.ORYn_CMD n)
  | .clrCnt _ n => some (R.ORYn_CMD n)
  | .cvCmd _ _ _ => some R.CV_CMD
  | .cvbufRdidxWrite _ b _ => some (R.CVBUFb_RDIDX b)
  | .lehrEnable _ _ => some R.LH_CTRL
  | .lehrDisable _ _ => some R.LH_CTRL
  | .ringTailWrite _ n _ => some (R.RINGn_TAIL n)
  | .ringEnable _ n _ => some (R.RINGn_CFG n)
  | .ringDisable _ n _ => some (R.RINGn_CFG n)
  | .ecComplete _ t _ => some (R.EC_COMPLETEt t)
  | .ecDoorbell _ _ => some R.EC_DOORBELL
  | .ecPendWrite _ w _ => some (R.EC_PENDw w)
  | .ecEnWrite _ w _ => some (R.EC_ENw w)
  | .ecTgtWrite _ _ => some R.EC_TGT
  | .ecCtrlWrite _ _ => some R.EC_CTRL
  | .elNop _ => some R.EL_CMD
  | .rejoin _ => some R.EL_CMD
  | .elClrcnt _ => some R.EL_CMD
  | .ewerlinkDisable _ _ => some R.EL_CTRL
  | .portDisable _ _ => some R.EL_CTRL
  | .apApply _ _ => some R.AP_APPLY
  | .apAtCmd _ _ => some R.AP_AT_CMD
  | .apCancel _ _ => some R.AP_CANCEL
  | .apAbort _ _ => some R.AP_ABORT
  | .apFence _ => some R.AP_FENCE
  | .glLockWrite _ _ => some R.GL_LOCK
  | .glHosttagWrite _ _ => some R.GL_HOSTTAG
  | .signatureGo _ => some R.GL_SIGCMD
  | .summaryGo _ => some R.GL_SUMCMD
  | .watchdogKick _ _ => some R.PW_WDG_KICK
  | .psqNop _ => some R.PSQ_CMD
  | .psqUp _ _ => some R.PSQ_CMD
  | .psqDown _ _ => some R.PSQ_CMD
  | .psqAbort _ => some R.PSQ_CMD
  | .clrflt _ => some R.PSQ_CMD
  | .frzNop _ => some R.FRZ_CMD
  | .calUDataAccess _ wr => if wr.isSome then some R.CAL_U_DATA else none
  | _ => none

/-- The rows that are events of the block's own engines, or at its balls and links: none occurs while the device is frozen or powered
down (R354, R378). Those of the PLL and its reference go on in a frozen device (R29, R378). -/
def isEvent : Instr → Bool
  | .holdEnd => true
  | .slewDone => true
  | .ppsPulse => true
  | .ppsPulseEnd => true
  | .ppsCapture _ _ => true
  | .inputEdge _ _ _ _ => true
  | .compareFire _ _ => true
  | .capture _ _ _ _ => true
  | .applyStrobe _ => true
  | .dispatch _ => true
  | .timerDue _ => true
  | .threadStarve _ _ => true
  | .spaceRetry _ _ => true
  | .mwNop _ => true
  | .mwMov _ => true
  | .mwAdd _ => true
  | .mwSub _ => true
  | .mwAnd _ => true
  | .mwOr _ => true
  | .mwXor _ => true
  | .mwShl _ => true
  | .mwShr _ => true
  | .mwSar _ => true
  | .mwCmp _ => true
  | .mwTst _ => true
  | .mwMin _ => true
  | .mwMax _ => true
  | .mwTdiff _ => true
  | .mwBset _ => true
  | .mwBclr _ => true
  | .mwNext _ => true
  | .mwJump _ => true
  | .mwCall _ => true
  | .mwRet _ => true
  | .mwWait _ => true
  | .mwEnd _ => true
  | .mwDisp _ => true
  | .mwYield _ => true
  | .mwInsCmp _ => true
  | .mwInsTmr _ => true
  | .mwCanCmp _ => true
  | .mwCanTmr _ => true
  | .mwInsAng _ => true
  | .mwCaprd _ => true
  | .mwSnap _ => true
  | .mwCntrd _ => true
  | .mwFpush _ => true
  | .mwLdbase _ => true
  | .mwChst _ => true
  | .mwLd32 _ _ => true
  | .mwLd40 _ _ => true
  | .mwSt32 _ => true
  | .mwSt40 _ => true
  | .mwRec _ => true
  | .mwAng _ => true
  | .mwEdge _ => true
  | .mwA2t _ => true
  | .mwNow _ => true
  | .mwSignal _ => true
  | .mwWclr _ => true
  | .mwTrig _ => true
  | .wheelTooth _ _ => true
  | .camEdge _ _ => true
  | .camLost _ => true
  | .dirPwDecision _ => true
  | .hallChange _ _ _ => true
  | .quadTransition _ _ _ => true
  | .sincosSample _ _ _ => true
  | .sincosIndex _ _ => true
  | .still _ => true
  | .convHold _ => true
  | .convResult _ _ => true
  | .commandFetch _ _ _ => true
  | .lehrNop _ => true
  | .arm _ => true
  | .cancel _ => true
  | .move _ => true
  | .lehrIllegal _ => true
  | .stallResume => true
  | .prefetch => true
  | .cascade => true
  | .deadlineFire _ => true
  | .lehrHosterr => true
  | .recordWrite => true
  | .ringHosterr _ => true
  | .fence _ => true
  | .mark _ => true
  | .ringIllegal _ => true
  | .latchTimeout => true
  | .linkLock _ => true
  | .portDown _ _ _ => true
  | .holdoffEnd _ => true
  | .beaconTimeout _ => true
  | .beaconSend _ => true
  | .beaconReceive _ _ _ _ => true
  | .candidateExpiry _ => true
  | .delayReqSend _ => true
  | .delayReqReceive _ _ _ _ => true
  | .delayRespReceive _ _ _ _ _ => true
  | .delayTimeout _ => true
  | .joinReceive _ _ _ _ => true
  | .joinResend => true
  | .joinAckReceive _ _ _ _ _ => true
  | .leaveReceive _ _ _ => true
  | .applyAtFrame _ _ _ _ _ => true
  | .doorbellFrame _ _ _ _ => true
  | .mailboxFrame _ _ _ _ => true
  | .deliveryReceive _ _ _ _ _ => true
  | .mailboxTimeout _ => true
  | .frameSend _ => true
  | .doorbell _ => true
  | .mailbox _ => true
  | .mboxCont _ => true
  | .applyAt _ => true
  | .elIllegal _ => true
  | .applyAtDue => true
  | .recalibration _ _ _ => true
  | .signatureDone => true
  | .summaryPeriod => true
  | .summaryDone => true
  | .summary _ => true
  | .slotSelection _ _ _ => true
  | .loadPass _ _ => true
  | .idleWake => true
  | .wdgWarn => true
  | .watchdogExpiry => true
  | .linkReset => true
  | .railOn _ => true
  | .railOff _ => true
  | .pgTimeout _ => true
  | .pgLost _ => true
  | .pgoodAsserted _ => true
  | .healthSample _ _ _ _ _ => true
  | .healthLife => true
  | _ => false

/-! ### What stays

Frames are said with three predicates: the parts of the state that only the hosts, the links, the power block and the spine change;
beside them the parts that commands of the core change; and registers. Reports go through the record queue, the sequence numbers,
the event controller's sources and messages, and the MRAM log. -/

/-- Everything outside the core's own blocks is as it was: staged values, host paths, spine, banks, calibration, layout, apply block,
rings, Lehr, Ewerlink, PCIe function, host interface, loader, freeze, rails, host memory, and the queue; of the event controller, the
power block, the health block and the host interface, all but what reports change. -/
def State.sameFar (s t : State) : Prop :=
  t.staged = s.staged ∧ t.pcie = s.pcie ∧ t.spi = s.spi ∧ t.spine = s.spine ∧ t.banks = s.banks ∧ t.otp = s.otp ∧ t.calU = s.calU ∧
  t.calS = s.calS ∧ t.layout = s.layout ∧ t.ap = s.ap ∧ t.rings = s.rings ∧ t.lehr = s.lehr ∧ t.el = s.el ∧ t.ec.latchP = s.ec.latchP ∧
  t.ec.latchS = s.ec.latchS ∧ t.ec.owed = s.ec.owed ∧ t.fn = s.fn ∧ { t.hif with evSet := s.hif.evSet } = s.hif ∧ t.load = s.load ∧ t.frz = s.frz ∧ t.psq = s.psq ∧
  t.pw.wdgFixed = s.pw.wdgFixed ∧ t.pw.linkRst = s.pw.linkRst ∧ t.pw.saved = s.pw.saved ∧ t.pw.retEc = s.pw.retEc ∧
  t.pw.leave = s.pw.leave ∧ t.hl.corrAt = s.hl.corrAt ∧ t.hl.recalAt = s.hl.recalAt ∧ t.hl.ageFrac = s.hl.ageFrac ∧
  t.hl.sampleAt = s.hl.sampleAt ∧ t.hl.lifeAt = s.hl.lifeAt ∧ t.host = s.host ∧ t.pending = s.pending

/-- The core's blocks are as they were: channels, Gaffers, Orreries, converters, sample buffers, SRAM, and the free-value counter. -/
def State.sameCore (s t : State) : Prop :=
  t.ch = s.ch ∧ t.gaf = s.gaf ∧ t.ory = s.ory ∧ t.conv = s.conv ∧ t.sbuf = s.sbuf ∧ t.sram = s.sram ∧ t.free = s.free

/-- Nothing but registers and reports has changed. -/
def State.sameBlocks (s t : State) : Prop := s.sameFar t ∧ s.sameCore t

/-- The registers that any report can change: discarded records and lost requests of the event controller, and its event bits (R235, R247). -/
def reportReg (o : Nat) : Bool := o == R.EC_DISCARD || o == R.EC_LOST2 || o == R.EC_EVT

/-- Every register outside a list is as it was, but for those that reports change. -/
def State.sameRegsBut (s t : State) (os : List Nat) : Prop := ∀ o, reportReg o = false → o ∉ os → t.reg o = s.reg o

end Sys2Proof.Machine
end

