-- ==== Sys2Proof/Certificates/Slice0/Obligations.lean ====
section
/-!
DEFINITION. The statements about the block. Each docstring names the rules of the spec that it formalises; a statement that rests on a
choice of the model names the log entry.
-/
open Sys2Proof Sys2Proof.Machine

/-! ### The queue and the whole machine -/

/-- A step takes the command at the front of the queue and runs it with the rest of the queue. -/
def Obligations.StepRunsFrontCommand : Prop :=
  ∀ (c : Instr) (rest : List Instr) (s : State), s.pending = c :: rest → step s = exec c { s with pending := rest }

/-- The model's choice: a step on an empty queue is one PLL tick.
Choices of the model: log entry 1. -/
def Obligations.IdleStepIsATick : Prop :=
  ∀ s : State, s.pending = [] → step s = .next s.pllTick

/-- No command stops the machine: every command answers a next state, leaves the queue as it was, and changes no factory word (R346).
Choices of the model: log entries 2 and 39. -/
def Obligations.CommandsGoOnAndLeaveQueue : Prop :=
  ∀ (c : Instr) (s : State), ∃ t, exec c s = .next t ∧ t.pending = s.pending ∧ ∀ i, t.otpWord i = s.otpWord i

/-- Every step keeps the canonical form of the register file and of the memories, in every state that has it. -/
def Obligations.StepKeepsCanonicalForm : Prop :=
  ∀ s t : State, s.canonical = true → step s = .next t → t.canonical = true

/-- R8, R332, R335, R339, R359: the state after power-on reset. It has the canonical form, every register reads its reset value, the load is about to run
in HOLD with every channel held, the spine stands at 0 and does not count, and nothing waits.
Choices of the model: log entries 33, 34, 35, 36 and 37. -/
def Obligations.ResetLeavesTheResetState : Prop :=
  State.reset.canonical = true ∧ (∀ o, State.reset.reg o = resetWord o) ∧ State.reset.rget F.PW_STAT_STATE = 3 ∧
  State.reset.ron F.CFG_STAT_LOADING = true ∧ State.reset.ron F.CFG_STAT_HELD = true ∧ State.reset.ron F.PW_RSTCAUSE_POR = true ∧
  (∀ c : Fin 96, State.reset.ch[c].holdBoot = true ∧ State.reset.held c = true) ∧ State.reset.spine.acc = 0 ∧
  State.reset.spine.counting = false ∧ State.reset.recq = [] ∧ State.reset.staged = [] ∧ State.reset.pending = []

/-! ### Gates -/

/-- R378: while the device is frozen, a host write outside the freeze page changes nothing but the count of ignored writes. -/
def frozenIgnoresWrites : Prop :=
  ∀ (c : Instr) (o : Nat) (s : State), hostOffset c = some o → s.powered = true → s.frozen = true → freezePage o = false →
    ∃ t, exec c s = .next t ∧ t.rget F.FRZ_CNT_IGN = min (s.rget F.FRZ_CNT_IGN + 1) (2 ^ F.FRZ_CNT_IGN.width - 1) ∧
      s.sameRegsBut t [R.FRZ_CNT] ∧ s.sameBlocks t

/-- R342: while a load runs, a host write changes nothing but the count of ignored writes. -/
def loadIgnoresWrites : Prop :=
  ∀ (c : Instr) (o : Nat) (s : State), hostOffset c = some o → s.takesEvents = true → s.loading = true →
    ∃ t, exec c s = .next t ∧ t.rget F.CFG_HOSTIGN_CNT = min (s.rget F.CFG_HOSTIGN_CNT + 1) (2 ^ F.CFG_HOSTIGN_CNT.width - 1) ∧
      s.sameRegsBut t [R.CFG_HOSTIGN] ∧ s.sameBlocks t

/-- While the device is frozen or powered down, no event of its engines, balls or links changes anything (R354, R377); those of the PLL
and its reference, which go on in a frozen device, change nothing while the core is powered down (R29, R378). -/
def frozenTakesNoEvents : Prop :=
  (∀ (c : Instr) (s : State), isEvent c = true → s.takesEvents = false → exec c s = .next s) ∧
  ∀ (c : Instr) (s : State), c ∈ ([.pllLock, .refLost, .pllUnlock, .relock] : List Instr) → s.powered = false → exec c s = .next s

/-- R29, R342, R354, R377, R378: what a freeze, a load and a power-down hold back: a frozen device and a load ignore and count host writes, no
event of the engines, balls or links occurs in a device that is frozen or powered down, and none of the PLL in one that is powered down.
Choices of the model: log entry 4. -/
def Obligations.GatesHoldCommandsBack : Prop := frozenIgnoresWrites ∧ loadIgnoresWrites ∧ frozenTakesNoEvents

/-! ### The time spine -/

/-- The operands of a phase command, as the operand registers hold them (R34). -/
def opsOf (s : State) (op : SpnOp) (ag : Nat) : SpnCmd :=
  ⟨op, (s.reg R.SPN_OPD_LO, s.reg R.SPN_OPD_HI), s.rget F.SPN_OPD_SUB_SUB, (s.reg R.SPN_DUR).toNat, ag⟩

/-- The row of a phase command. -/
def spnRow (op : SpnOp) (p : Path) (waits : Bool) (ag : Fin 8) : Instr :=
  match op with
  | .nop => .spineNop p waits ag
  | .set => .spineSet p waits ag
  | .step => .spineStep p waits ag
  | .slew => .spineSlew p waits ag
  | .slewAbort => .slewAbort p waits ag

/-- A phase command finds the spine free: writes take effect, the servo does not own the spine, and no command is pending (R34, R41). -/
def spnFree (s : State) : Prop := s.takesWrites = true ∧ s.servoOwns = false ∧ s.spine.pend = none

/-- R34: a phase command that waits for its strobe is latched with its operands: `SPINE_NOP`, `SET`, `STEP`, `SLEW`, `SLEW_ABORT`. -/
def phaseCommandWaits : Prop :=
  ∀ (op : SpnOp) (p : Path) (ag : Fin 8) (s : State), spnFree s →
    ∃ t, exec (spnRow op p true ag) s = .next t ∧ t.spine = { s.spine with pend := some (opsOf s op ag) } ∧
      t.rget F.SPN_STAT_LAST_OP = spnCode op ∧ t.rget F.SPN_STAT_CMD_ERR = 0 ∧
      s.sameRegsBut t [R.SPN_STAT] ∧ State.sameBlocks { s with spine := t.spine } t

/-- R34, R41: a phase command is refused with OWNED while the servo owns the spine, and with BUSY while a command is pending; a
reserved OP is refused with ILLEGAL first of all. The spine stays as it is. -/
def phaseCommandRefused : Prop :=
  (∀ (op : SpnOp) (p : Path) (waits : Bool) (ag : Fin 8) (s : State), s.takesWrites = true →
    (s.servoOwns = true ∨ s.spine.pend.isSome = true) →
    ∃ t, exec (spnRow op p waits ag) s = .next t ∧ t.rget F.SPN_STAT_CMD_ERR = (if s.servoOwns then 2 else 1) ∧
      t.rget F.SPN_STAT_LAST_OP = spnCode op ∧ t.ron F.SPN_EVT_CMD_ERR_S = true ∧
      s.sameRegsBut t [R.SPN_STAT, R.SPN_EVT] ∧ s.sameBlocks t) ∧
  (∀ (p : Path) (op : Fin 3) (waits : Bool) (ag : Fin 8) (s : State), s.takesWrites = true →
    ∃ t, exec (.spnCmdIllegal p op waits ag) s = .next t ∧ t.rget F.SPN_STAT_CMD_ERR = 5 ∧
      t.rget F.SPN_STAT_LAST_OP = 5 + op.val ∧ t.ron F.SPN_EVT_CMD_ERR_S = true ∧
      s.sameRegsBut t [R.SPN_STAT, R.SPN_EVT] ∧ s.sameBlocks t)

/-- R34, R41: a phase command that waits for its strobe is latched; one that finds the spine owned or busy, and a reserved OP, are refused.
Choices of the model: log entry 5. -/
def Obligations.PhaseCommandsWaitOrAreRefused : Prop := phaseCommandWaits ∧ phaseCommandRefused

/-- The amount, in subs, by which SET and STEP move the spine (R35). -/
def stepAmount (s : State) (isSet : Bool) : Int :=
  if isSet then operandSubs false (opsOf s .set 0) - s.now else operandSubs true (opsOf s .step 0)

/-- The held amount that stands, in units of 2^-40 ns (R37). -/
def heldUnits (s : State) : Nat := match s.spine.hold with | some h => h.n * 2 ^ 40 + h.f | none => 0

/-- Compare u is the only armed one of a channel that is not held and runs no train, and its host armed it. -/
def aloneArmed (s : State) (c : Fin 96) (u : Bool) : Prop :=
  (cmpOf s.ch[c] u).armed = true ∧ (cmpOf s.ch[c] u).due = false ∧ (cmpOf s.ch[c] u).place = none ∧ (cmpOf s.ch[c] u).fifo = false ∧
  (cmpOf s.ch[c] u).eph = none ∧ (cmpOf s.ch[c] (!u)).armed = false ∧ s.ch[c].fifo.armed = [] ∧ s.held c = false

/-- R35, R36, R37: SET and STEP that execute at once. An amount of zero or more is added to the spine in the present tick; an armed compare is
judged once more by the time after it, and fires late with its lateness or goes on waiting: stated of a channel with one armed compare, of
its host, and of a step that passes no pending entry of the apply block. A negative
amount below 2^31 ns joins the hold that stands, and the spine itself does not go back; anything else is refused with RANGE.
Choices of the model: log entries 5, 6 and 100. -/
def Obligations.StepMovesTheSpine : Prop :=
  ∀ (isSet : Bool) (p : Path) (ag : Fin 8) (s : State), spnFree s →
    ∃ t, exec (spnRow (if isSet then .set else .step) p false ag) s = .next t ∧
      (0 ≤ stepAmount s isSet →
        t.spine = { s.spine with acc := s.spine.acc + BitVec.ofNat 104 ((stepAmount s isSet).toNat * 2 ^ 34), stepTick := some s.spine.tick }) ∧
      (0 ≤ stepAmount s isSet → (∀ i < 8, s.apValid i = false) → ∀ (c : Fin 96) (u : Bool), aloneArmed s c u →
        let x := cmpOf s.ch[c] u
        (x.tb < t.tLaunch c → (cmpOf t.ch[c] u).armed = false ∧ t.ch[c].ol = actLevel s.ch[c].ol x.act ∧
          t.ron (F.CHc_CMPu_LAST_SUB_LATE c (b2n u)) = true ∧
          t.reg (R.CHc_CMPu_LATE c (b2n u)) = word (min ((t.tLaunch c - x.tb).toNat / 64) (2 ^ 32 - 1))) ∧
        (t.tLaunch c ≤ x.tb → cmpOf t.ch[c] u = x ∧ t.ch[c].ol = s.ch[c].ol)) ∧
      (stepAmount s isSet < 0 → (-(stepAmount s isSet)).toNat < 2 ^ 37 →
        heldUnits s + (-(stepAmount s isSet)).toNat * 2 ^ 34 < 2 ^ 71 →
        t.spine.acc = s.spine.acc ∧
        t.spine.hold = some ⟨(heldUnits s + (-(stepAmount s isSet)).toNat * 2 ^ 34) / 2 ^ 40,
          (heldUnits s + (-(stepAmount s isSet)).toNat * 2 ^ 34) % 2 ^ 40⟩ ∧
        t.rget F.SPN_STAT_CMD_ERR = 0 ∧ t.rget F.SPN_STAT_COARSE = 0 ∧
        s.sameRegsBut t [R.SPN_STAT] ∧ State.sameBlocks { s with spine := t.spine } t) ∧
      (stepAmount s isSet < 0 → (2 ^ 37 ≤ (-(stepAmount s isSet)).toNat ∨
        2 ^ 71 ≤ heldUnits s + (-(stepAmount s isSet)).toNat * 2 ^ 34) →
        t.rget F.SPN_STAT_CMD_ERR = 3 ∧ s.sameRegsBut t [R.SPN_STAT, R.SPN_EVT] ∧ s.sameBlocks t)

/-- R39, R40: a SLEW that executes at once replaces a running slew by one of its own rate and shift, or is refused with RANGE; an
aborted slew ends where it stands, and SLEW_ABORT without a slew is refused with NOSLEW; NOP changes nothing but the status. -/
def slewCommandsRun : Prop :=
  ∀ (p : Path) (ag : Fin 8) (s : State), spnFree s →
    (∃ t, exec (.spineSlew p false ag) s = .next t ∧
      (let a := operandSubs true (opsOf s .slew ag)
       let dur := (s.reg R.SPN_DUR).toNat
       let rate := roundDivI (a * 2 ^ 34) (dur * 1000)
       if dur = 0 ∨ 2 ^ 37 ≤ a.natAbs ∨ 2147483647 < rate.natAbs then
         t.rget F.SPN_STAT_CMD_ERR = 3 ∧ s.sameBlocks t
       else t.spine = { s.spine with slew := some ⟨rate, a * 2 ^ 34, a * 2 ^ 34, if a = 0 then some s.now else none⟩ } ∧
         t.rget F.SPN_STAT_CMD_ERR = 0 ∧ s.sameRegsBut t [R.SPN_STAT] ∧ State.sameBlocks { s with spine := t.spine } t)) ∧
    (∃ t, exec (.slewAbort p false ag) s = .next t ∧ t.spine = { s.spine with slew := none } ∧
      t.rget F.SPN_STAT_CMD_ERR = (if s.spine.slew.isNone then 4 else 0) ∧
      s.sameRegsBut t [R.SPN_STAT, R.SPN_EVT] ∧ State.sameBlocks { s with spine := t.spine } t) ∧
    (∃ t, exec (.spineNop p false ag) s = .next t ∧ t.rget F.SPN_STAT_CMD_ERR = 0 ∧ t.rget F.SPN_STAT_LAST_OP = 0 ∧
      s.sameRegsBut t [R.SPN_STAT] ∧ s.sameBlocks t)

/-- R33, R41: a rate write sets the rate, or is refused with OWNED while the servo owns the spine. -/
def rateWriteSetsTheRate : Prop :=
  ∀ (p : Path) (v : Word) (s : State), s.takesWrites = true →
    ∃ t, exec (.spnRateWrite p v) s = .next t ∧
      (s.servoOwns = false → t.reg R.SPN_RATE = v ∧ s.sameRegsBut t [R.SPN_RATE] ∧ s.sameBlocks t) ∧
      (s.servoOwns = true → t.reg R.SPN_RATE = s.reg R.SPN_RATE ∧ t.rget F.SPN_STAT_CMD_ERR = 2 ∧
        s.sameRegsBut t [R.SPN_STAT, R.SPN_EVT] ∧ s.sameBlocks t)

/-- R33, R39, R40, R41: SLEW, SLEW_ABORT and NOP that execute at once, and a write of the rate.
Choices of the model: log entry 5. -/
def Obligations.SlewAndRateCommandsRun : Prop := slewCommandsRun ∧ rateWriteSetsTheRate

/-- R28, R29, R378: in a device that is powered, frozen or not, the spine starts counting at lock, with no reference lost; a lost reference, which is declared once until the
reference returns, or an unlocked PLL clears LOCKED and is counted, and reacquisition sets LOCKED again and is counted; none of the last
three moves the spine.
Choices of the model: log entries 2 and 67. -/
def Obligations.LockFollowsThePll : Prop :=
  ∀ s : State, s.powered = true →
    (∃ t, exec .pllLock s = .next t ∧
      (s.spine.counting = false → t.spine = { s.spine with counting := true, refGone := false } ∧ t.rget F.SPN_STAT_LOCKED = 1 ∧
        t.rget F.SPN_STAT_REF_LOST = 0 ∧ s.sameRegsBut t [R.SPN_STAT] ∧ State.sameBlocks { s with spine := t.spine } t) ∧
      (s.spine.counting = true → t = s)) ∧
    (∃ t, exec .refLost s = .next t ∧
      (s.spine.refGone = false → t.spine = { s.spine with refGone := true } ∧ t.rget F.SPN_STAT_LOCKED = 0 ∧
        t.rget F.SPN_STAT_REF_LOST = 1 ∧ t.ron F.SPN_EVT_REF_LOST_S = true ∧
        t.rget F.SPN_PLL_CNT_LOSS_CNT = min (s.rget F.SPN_PLL_CNT_LOSS_CNT + 1) (2 ^ F.SPN_PLL_CNT_LOSS_CNT.width - 1) ∧
        s.sameRegsBut t [R.SPN_STAT, R.SPN_EVT, R.SPN_PLL_CNT] ∧ State.sameBlocks { s with spine := t.spine } t) ∧
      (s.spine.refGone = true → t = s)) ∧
    (∃ t, exec .pllUnlock s = .next t ∧
      (s.ron F.SPN_STAT_LOCKED = true → t.rget F.SPN_STAT_LOCKED = 0 ∧ t.rget F.SPN_STAT_REF_LOST = 1 ∧
        t.ron F.SPN_EVT_UNLOCK_S = true ∧
        t.rget F.SPN_PLL_CNT_LOSS_CNT = min (s.rget F.SPN_PLL_CNT_LOSS_CNT + 1) (2 ^ F.SPN_PLL_CNT_LOSS_CNT.width - 1) ∧
        s.sameRegsBut t [R.SPN_STAT, R.SPN_EVT, R.SPN_PLL_CNT] ∧ s.sameBlocks t) ∧
      (s.ron F.SPN_STAT_LOCKED = false → t = s)) ∧
    (∃ t, exec .relock s = .next t ∧
      (s.spine.counting = true → s.ron F.SPN_STAT_LOCKED = false → t.spine = { s.spine with refGone := false } ∧
        t.rget F.SPN_STAT_LOCKED = 1 ∧ t.rget F.SPN_STAT_REF_LOST = 0 ∧
        t.rget F.SPN_PLL_CNT_RELOCK_CNT = min (s.rget F.SPN_PLL_CNT_RELOCK_CNT + 1) (2 ^ F.SPN_PLL_CNT_RELOCK_CNT.width - 1) ∧
        s.sameRegsBut t [R.SPN_STAT, R.SPN_PLL_CNT] ∧ State.sameBlocks { s with spine := t.spine } t) ∧
      (¬ (s.spine.counting = true ∧ s.ron F.SPN_STAT_LOCKED = false) → t = s))

/-- R30, R37, R39: one PLL tick of a counting spine. It adds the increment; a held spine stays, and at the end of the hold it advances by
the increment less the fraction that the hold left; a running slew gives what the rate takes from it. `HOLD_END` is the tick that ends a
hold, and nothing before it. No phase command waits for a strobe in the tick. -/
def tickAdvancesTheSpine : Prop :=
  ∀ s : State, s.takesEvents = true → s.spine.counting = true → (∀ l, s.spine.slew = some l → l.doneAt = none) →
    (s.spine.pend = none ∨ (s.hif.slow = [] ∧ s.ap.reqs = [] ∧ ∀ i < 8, s.apValid i = false)) →
    s.pllTick.spine.tick = s.spine.tick + 1 ∧
    (s.spine.hold = none → s.pllTick.spine.acc = s.spine.acc + BitVec.ofNat 104 s.tickInc ∧ s.pllTick.spine.hold = none) ∧
    (∀ h, s.spine.hold = some h → 0 < h.n → s.pllTick.spine.acc = s.spine.acc ∧ s.pllTick.spine.hold = some ⟨h.n - 1, h.f⟩ ∧
      s.pllTick.spine.slew = s.spine.slew) ∧
    (∀ h, s.spine.hold = some h → h.n = 0 →
      ∃ t, exec .holdEnd s = .next t ∧ t.spine.acc = s.spine.acc + BitVec.ofNat 104 (s.tickInc - h.f) ∧ t.spine.hold = none ∧
        t.spine.tick = s.spine.tick + 1) ∧
    (∀ h, s.spine.hold = some h → h.n = 1 → h.f = 0 → exec .holdEnd s = .next s.pllTick) ∧
    ((s.spine.hold = none ∨ ∃ h, s.spine.hold = some h ∧ 0 < h.n ∧ (h.n = 1 → h.f ≠ 0)) → exec .holdEnd s = .next s) ∧
    (∀ l, s.spine.slew = some l → s.spine.hold = none →
      ∃ l', s.pllTick.spine.slew = some l' ∧ l'.left = l.left - (s.rateEff - s.rateWord) ∧ l'.rate = l.rate ∧ l'.total = l.total ∧
        (l'.doneAt.isSome = true ↔ l'.left = 0))

/-- R39, R52: `SLEW_DONE` reports a slew that has given its whole shift, ends it, and clears COARSE; before that it changes nothing. -/
def slewDoneEndsTheSlew : Prop :=
  ∀ s : State, s.takesEvents = true →
    (∀ l d, s.spine.slew = some l → l.doneAt = some d →
      ∃ t, exec .slewDone s = .next t ∧ t.spine = { s.spine with slew := none } ∧ t.rget F.SPN_STAT_COARSE = 0 ∧
        s.sameRegsBut t [R.SPN_STAT] ∧ State.sameBlocks { s with spine := t.spine } t) ∧
    ((∀ l, s.spine.slew = some l → l.doneAt = none) → exec .slewDone s = .next s)

/-- R30, R37, R39, R52: a tick advances the spine, and HOLD_END and SLEW_DONE end a hold and a slew.
Choices of the model: log entries 1 and 2. -/
def Obligations.TicksHoldsAndSlews : Prop := tickAdvancesTheSpine ∧ slewDoneEndsTheSlew

/-- R42, R43, R45, R46: a PPS_OUT boundary of the present tick, which in a tick that ends a hold lies behind the held time, begins a pulse of
the width in force on the nearest vernier tap, which ends when the width has passed; an edge at PPS_IN is stamped, corrected by its input
delay net of the factory part, and counted, unless less than 1 µs of PLL ticks has passed since the last one. Nothing but the spine and its
PPS registers changes.
Choices of the model: log entries 2, 7 and 105. -/
def Obligations.PpsPulsesAndCaptures : Prop :=
  (∀ (s : State) (b : Nat), s.takesEvents = true → s.ron F.SPN_CTRL_PPSO_EN = true → s.spine.counting = true →
    (s.spine.hold = none ∨ ∃ h, s.spine.hold = some h ∧ h.n = 0 ∧ s.now < b) → s.ppsQualified = true → 0 < (s.reg R.SPN_PPSO_PER).toNat →
    s.now ≤ b → b < s.now + (s.reg R.SPN_PPSO_PER).toNat * 64 → b < s.tAhead 1 → s.spine.ppsLast ≠ some b →
    ((b : Int) - ((s.reg R.SPN_PPSO_OFS).toNat * 64 + s.rget F.SPN_CTRL_PPSO_SUB)) % ((s.reg R.SPN_PPSO_PER).toNat * 64) = 0 →
    exec .ppsPulse s =
      .next { s with spine := { s.spine with
        ppsLast := some b, ppsTap := min 63 (b - s.now), ppsOut := some (b + (s.reg R.SPN_PPSO_WID).toNat * 64) } }) ∧
  (∀ s : State, s.takesEvents = true → (s.ron F.SPN_CTRL_PPSO_EN = false ∨ s.spine.counting = false ∨ s.ppsQualified = false) →
    exec .ppsPulse s = .next s) ∧
  (∀ (s : State) (e : Nat), s.takesEvents = true → s.spine.ppsOut = some e →
    exec .ppsPulseEnd s = .next (if e < s.tAhead 1 then { s with spine := { s.spine with ppsOut := none } } else s)) ∧
  (∀ (falling : Bool) (pos : Fin 64) (s : State), s.takesEvents = true → s.ron F.SPN_CTRL_PPSI_EN = true →
    s.ron F.SPN_CTRL_PPSI_EDGE = falling → (∀ e, s.spine.ppsEdge = some e → e + 64000 ≤ s.spine.tick * 64 + pos.val) →
    ∃ t, exec (.ppsCapture falling pos) s = .next t ∧
      t.spine = { s.spine with
        ppsIn := (((s.stampAt pos).1 : Int) - ((s.calE 0xC1).1 - s.calF 0xC1)).toNat, ppsUnread := true
        ppsEdge := some (s.spine.tick * 64 + pos.val) } ∧
      t.rget F.SPN_PPSI_SUB_CNT = (s.rget F.SPN_PPSI_SUB_CNT + 1) % 2 ^ F.SPN_PPSI_SUB_CNT.width ∧
      (s.spine.ppsUnread = true → t.ron F.SPN_EVT_PPSI_OVR = true) ∧
      s.sameRegsBut t [R.SPN_PPSI_SUB, R.SPN_EVT] ∧ State.sameBlocks { s with spine := t.spine } t)

/-! ### Banks, inputs and compares -/

/-- R54: a bank that loses its supply reads 0 at its inputs, holds its channels and drives none of its balls; every other channel, and
every register, stays. A supply that returns is taken over; while one is present the row changes nothing. -/
def bankSuppliesHold : Prop :=
  ∀ (b : Fin 12) (s : State),
    (∃ t, exec (.bankSupplyLoss b) s = .next t ∧ t.banks = (s.modBank b (fun x => { x with supply := 0 })).banks ∧
      (∀ c : Fin 96, bankOf c = b → t.ch[c].inLvl = false ∧ t.held c = true ∧ t.ballLevel c = none) ∧
      (∀ c : Fin 96, bankOf c ≠ b → t.ch[c] = s.ch[c]) ∧ (∀ o, t.reg o = s.reg o) ∧
      State.sameBlocks { s with ch := t.ch, banks := t.banks } t) ∧
    (∀ v : Bool, ∃ t, exec (.bankSupplyReturn b v) s = .next t ∧
      (s.banks[b].supply = 0 →
        t.banks = (s.modBank b (fun x => { x with supply := if v then 2 else 1, lastV := if v then 2 else 1 })).banks ∧
        State.sameFar { s with banks := t.banks } t) ∧
      (s.banks[b].supply ≠ 0 → t = s))

/-- R57, R58, R78: a transition that the filter must accept sets the input level, and a running counter whose source it is counts it; one that it must reject is counted as a glitch and changes
nothing else; a level that the input already has is no transition, and a bank without supply sees none (R54). The channel's own level changes
that lie before the transition come first; where none is on its way, the state is the one that the row finds (R55).
Choices of the model: log entries 7, 9 and 10. -/
def Obligations.InputEdgesAreFiltered : Prop :=
  ∀ (c : Fin 96) (level : Bool) (pos : Fin 64) (width : Nat) (s : State), s.takesEvents = true →
    let a := s.ownStep c (some ((s.stampAt pos).1 : Int))
    (s.ch[c].own = [] → a = s) ∧
    (a.banks[bankOf c].supply = 0 ∨ (level != a.ron (F.CHc_PIN_IN_INV c)) = a.ch[c].inLvl →
      exec (.inputEdge c level pos width) s = .next a) ∧
    (a.banks[bankOf c].supply ≠ 0 → (level != a.ron (F.CHc_PIN_IN_INV c)) ≠ a.ch[c].inLvl →
      (a.rget (F.CHc_PIN_FILT c) ≠ 0 → 64 * a.rget (F.CHc_PIN_FILT c) ≤ width) → (a.rget (F.CHc_PIN_FILT c) = 0 → 128 ≤ width) →
      ∃ t, exec (.inputEdge c level pos width) s = .next t ∧ t.ch[c].inLvl = (level != a.ron (F.CHc_PIN_IN_INV c)) ∧ s.sameFar t ∧
        (a.cascHi c = false → a.ron (F.CHc_CNT_CFG_RUN c) = true → a.ch[c].cntTick ≠ some a.spine.tick →
          a.rget (F.CHc_CNT_CFG_SRC c) = 3 ∨ a.rget (F.CHc_CNT_CFG_SRC c) = (if t.ch[c].inLvl then 1 else 2) →
          t.ch[c].cnt = (a.ch[c].cnt + 1) % 2 ^ 32)) ∧
    (a.banks[bankOf c].supply ≠ 0 → (level != a.ron (F.CHc_PIN_IN_INV c)) ≠ a.ch[c].inLvl →
      a.rget (F.CHc_PIN_FILT c) ≠ 0 → width < 64 * (a.rget (F.CHc_PIN_FILT c) - 1) →
      ∃ t, exec (.inputEdge c level pos width) s = .next t ∧
        t.rget (F.CHc_ERRCNT_GLITCH c) = min (a.rget (F.CHc_ERRCNT_GLITCH c) + 1) (2 ^ (F.CHc_ERRCNT_GLITCH c).width - 1) ∧
        a.sameRegsBut t [R.CHc_ERRCNT c] ∧ a.sameBlocks t)

/-- Only the named channel, among all the blocks, differs. -/
def onlyChannel (s t : State) (c : Fin 96) : Prop :=
  State.sameBlocks { s with ch := t.ch } t ∧ ∀ d : Fin 96, d ≠ c → t.ch[d] = s.ch[d]

/-- The target, in subs of the low 38 bits, that a write to `CHc_CMPu_TGT_CTL` makes with the path's held low word (R64, R68). -/
def armTarget (s : State) (p : Path) (c : Fin 96) (u : Bool) (v : Word) : Nat :=
  (s.heldWord p (R.CHc_CMPu_TGT_LO c (b2n u))).toNat * 64 + wfld v 0 6

/-- A compare that its host armed: neither the edge FIFO nor the ephemeris arms its next target. -/
def ofHost (s : State) (c : Fin 96) (u : Bool) : Prop := (cmpOf s.ch[c] u).fifo = false ∧ (cmpOf s.ch[c] u).eph = none

/-- The output level before a fire of compare u in the present tick: A, if it goes first, has applied its action (R66). -/
def olBefore (s : State) (c : Fin 96) (aGoes : Bool) : Bool := if aGoes then actLevel s.ch[c].ol s.ch[c].cmpA.act else s.ch[c].ol

/-- The compare has fired once more, and is disarmed; its pin action is applied to an output level. -/
def hasFired (s t : State) (c : Fin 96) (u ol : Bool) (act : Nat) (late : Bool) : Prop :=
  (cmpOf t.ch[c] u).armed = false ∧ t.ch[c].ol = actLevel ol act ∧
  t.rget (F.CHc_CMPu_LAST_SUB_FIRE_CNT c (b2n u)) =
    (s.rget (F.CHc_CMPu_LAST_SUB_FIRE_CNT c (b2n u)) + 1) % 2 ^ (F.CHc_CMPu_LAST_SUB_FIRE_CNT c (b2n u)).width ∧
  t.ron (F.CHc_CMPu_LAST_SUB_LATE c (b2n u)) = late ∧ s.sameFar t

/-- R60, R61, R63, R64, R66: a write with ARM = 1 loads a compare whose old target is not yet launched. A target ahead waits for its tick, a
target behind on a held channel is due, and a target behind fires at once, late, compare A that is launched in the tick before B. On a held channel an
old target whose launch tick has come is replaced too; on one that is not held it fires first, and a new target ahead is armed behind it. Of a
compare that the host does not own, the write sets OWN_ERR_S and nothing else.
Choices of the model: log entries 5, 11 and 87. -/
def Obligations.CompareArmLoadsOrFires : Prop :=
  ∀ (p : Path) (c : Fin 96) (u : Bool) (v : Word) (s : State), s.takesWrites = true →
    (s.rget (F.CHc_CTRL_OWN c) = 0 → (s.launched c u = false ∨ s.held c = true) →
      (s.dueD c (armTarget s p c u v) ≤ 0 ∨ s.held c = true) →
      ∃ t, exec (.compareArm p c u v) s = .next t ∧
        cmpOf t.ch[c] u = ⟨true, armTarget s p c u v, s.tLaunch c - s.dueD c (armTarget s p c u v), wfld v 8 2, wfld v 10 1 == 1,
          wfld v 16 16, false, false, none, decide (0 < s.dueD c (armTarget s p c u v)), none⟩ ∧
        cmpOf t.ch[c] (!u) = cmpOf s.ch[c] (!u) ∧ t.ch[c].ol = s.ch[c].ol ∧
        s.sameRegsBut t [R.CHc_CMPu_TGT_CTL c (b2n u)] ∧ onlyChannel s t c) ∧
    (s.rget (F.CHc_CTRL_OWN c) = 0 → s.launched c u = false → s.held c = false → 0 < s.dueD c (armTarget s p c u v) →
      (u = true → ofHost s c false) →
      ∃ t, exec (.compareArm p c u v) s = .next t ∧ hasFired s t c u (olBefore s c (u && s.launched c false)) (wfld v 8 2) true) ∧
    (s.rget (F.CHc_CTRL_OWN c) = 0 → s.launched c u = true → s.held c = false → s.dueD c (armTarget s p c u v) ≤ 0 → ofHost s c u →
      (u = true → ofHost s c false) → (cmpOf s.ch[c] u).place = none →
      ∃ t, exec (.compareArm p c u v) s = .next t ∧ s.sameFar t ∧
        cmpOf t.ch[c] u = ⟨true, armTarget s p c u v, s.tLaunch c - s.dueD c (armTarget s p c u v), wfld v 8 2, wfld v 10 1 == 1,
          wfld v 16 16, false, false, none, false, none⟩ ∧
        t.ch[c].ol = actLevel (olBefore s c (u && s.aFirst c)) (cmpOf s.ch[c] u).act ∧
        t.rget (F.CHc_CMPu_LAST_SUB_FIRE_CNT c (b2n u)) =
          (s.rget (F.CHc_CMPu_LAST_SUB_FIRE_CNT c (b2n u)) + 1) % 2 ^ (F.CHc_CMPu_LAST_SUB_FIRE_CNT c (b2n u)).width ∧
        t.ron (F.CHc_CMPu_LAST_SUB_LATE c (b2n u)) = false) ∧
    (s.rget (F.CHc_CTRL_OWN c) ≠ 0 → ∃ t, exec (.compareArm p c u v) s = .next t ∧ t.ron (F.CHc_EVT_OWN_ERR_S c) = true ∧
      s.sameRegsBut t [R.CHc_EVT c] ∧ s.sameBlocks t)

/-- R64: a write with ARM = 0 disarms the compare, which does not fire; where its launch tick is reached, it fires first. -/
def compareDisarms : Prop :=
  ∀ (p : Path) (c : Fin 96) (u : Bool) (v : Word) (s : State), s.takesWrites = true →
    (s.rget (F.CHc_CTRL_OWN c) = 0 → (s.launched c u = false ∨ s.held c = true) →
      ∃ t, exec (.compareDisarm p c u v) s = .next t ∧ (cmpOf t.ch[c] u).armed = false ∧
        (cmpOf t.ch[c] u).target = (cmpOf s.ch[c] u).target ∧ cmpOf t.ch[c] (!u) = cmpOf s.ch[c] (!u) ∧ t.ch[c].ol = s.ch[c].ol ∧
        s.sameRegsBut t [R.CHc_CMPu_TGT_CTL c (b2n u)] ∧ onlyChannel s t c) ∧
    (s.rget (F.CHc_CTRL_OWN c) = 0 → s.launched c u = true → s.held c = false → ofHost s c u → (u = true → ofHost s c false) →
      (cmpOf s.ch[c] u).place = none →
      ∃ t, exec (.compareDisarm p c u v) s = .next t ∧ hasFired s t c u (olBefore s c (u && s.aFirst c)) (cmpOf s.ch[c] u).act false) ∧
    (s.rget (F.CHc_CTRL_OWN c) ≠ 0 → ∃ t, exec (.compareDisarm p c u v) s = .next t ∧ t.ron (F.CHc_EVT_OWN_ERR_S c) = true ∧
      s.sameRegsBut t [R.CHc_EVT c] ∧ s.sameBlocks t)

/-- R60, R63, R66: a waiting compare that a host armed fires in its launch tick, on time, compare A before B where both wait; while its channel
is held it becomes due, and no other channel nor any register changes; before its launch tick the row changes nothing. -/
def compareFires : Prop :=
  ∀ (c : Fin 96) (u : Bool) (s : State), s.takesEvents = true →
    (s.launched c u = false → exec (.compareFire c u) s = .next s) ∧
    (s.launched c u = true → s.held c = true →
      ∃ t, exec (.compareFire c u) s = .next t ∧ cmpOf t.ch[c] u = { cmpOf s.ch[c] u with due := true } ∧
        (∀ o, t.reg o = s.reg o) ∧ onlyChannel s t c) ∧
    (s.launched c u = true → s.held c = false → ofHost s c u → (u = true → ofHost s c false) → (cmpOf s.ch[c] u).place = none →
      ∃ t, exec (.compareFire c u) s = .next t ∧ hasFired s t c u (olBefore s c (u && s.aFirst c)) (cmpOf s.ch[c] u).act false)

/-- R60, R63, R64, R66: a disarmed compare does not fire, unless its launch tick is reached; a waiting one fires in its launch tick.
Choices of the model: log entries 2, 11 and 87. -/
def Obligations.ComparesFireOrAreDisarmed : Prop := compareDisarms ∧ compareFires

/-- The level changes on their way to a channel's input path after a change of what it drives: a new level of its own ball joins them (R55). -/
def echoed (s t : State) (c : Fin 96) : List (Bool × Int) :=
  match t.ballLevel c with
  | some l => if s.ballLevel c = some l then s.ch[c].own else ownInsert (l != s.ron (F.CHc_PIN_IN_INV c), (s.now : Int)) s.ch[c].own
  | none => s.ch[c].own

/-- R55, R59, R60: HOLD = 1 holds the channel, and keeps the level that its ball showed at the entry; HOLD = 0 on a channel with no compare
armed and no train running ends that hold. A new level of the driven ball is on its way to the input path, and nothing else changes. At the
release of a channel that only HOLD held, a compare whose target the spine has passed fires late. -/
def channelHoldKeepsTheLevel : Prop :=
  ∀ (p : Path) (c : Fin 96) (s : State), s.takesWrites = true →
    (∃ t, exec (.channelHold p c true) s = .next t ∧ t.ron (F.CHc_CTRL_HOLD c) = true ∧ t.held c = true ∧
      t.ch[c] = (if s.held c then s.ch[c] else { s.ch[c] with heldLvl := s.ballLevel c, own := echoed s t c }) ∧
      s.sameRegsBut t [R.CHc_CTRL c] ∧ onlyChannel s t c) ∧
    (s.ch[c].cmpA.armed = false → s.ch[c].cmpB.armed = false → s.ch[c].fifo.state ≠ .run →
      ∃ t, exec (.channelHold p c false) s = .next t ∧ t.ron (F.CHc_CTRL_HOLD c) = false ∧
        t.held c = (s.ch[c].holdBoot || s.ch[c].holdFrz || decide (s.banks[bankOf c].supply = 0)) ∧
        t.ch[c] = { s.ch[c] with own := echoed s t c } ∧
        s.sameRegsBut t [R.CHc_CTRL c] ∧ onlyChannel s t c) ∧
    (∀ u : Bool, (cmpOf s.ch[c] u).armed = true → (cmpOf s.ch[c] u).tb < s.tLaunch c → (cmpOf s.ch[c] u).place = none → ofHost s c u →
      (cmpOf s.ch[c] (!u)).armed = false → s.ch[c].fifo.state ≠ .run → s.ron (F.CHc_CTRL_HOLD c) = true →
      (s.ch[c].holdBoot || s.ch[c].holdFrz || decide (s.banks[bankOf c].supply = 0)) = false →
      ∃ t, exec (.channelHold p c false) s = .next t ∧ t.held c = false ∧ hasFired s t c u s.ch[c].ol (cmpOf s.ch[c] u).act true)

/-- R54, R55, R59, R60: what holds a channel: a bank without supply, and HOLD.
Choices of the model: log entries 10 and 14. -/
def Obligations.HoldsAndBankSupplies : Prop := bankSuppliesHold ∧ channelHoldKeepsTheLevel

/-! ### Edge FIFO and captures -/

/-- The entry that a write to `CHc_FIFO_ENT_HI` pushes (R67, R68). -/
def pushed (s : State) (p : Path) (c : Fin 96) (v : Word) : FifoEnt := fifoEntry (s.heldWord p (R.CHc_FIFO_ENT_LO c)) v

/-- The FIFO is halted for SPACING or LATE, which a refused push does not replace (R70). -/
def haltStands (s : State) (c : Fin 96) : Prop :=
  s.ch[c].fifo.state = .halted ∧ (s.rget (F.CHc_FIFO_STAT_ERR c) = 1 ∨ s.rget (F.CHc_FIFO_STAT_ERR c) = 2)

/-- R67, R70, R72: a push is refused with DELTA, whether or not the FIFO is full, or with FULL, and leaves the FIFO as it is; an accepted
one joins the entries. A train that runs or has drained may go on at once; in any other state nothing else changes. -/
def Obligations.FifoPushIsTestedAndKept : Prop :=
  ∀ (p : Path) (c : Fin 96) (v : Word) (s : State), s.takesWrites = true →
    ∃ t, exec (.fifoPush p c v) s = .next t ∧ s.sameFar t ∧
      ((pushed s p c v).delta < 128 ∨ 16 ≤ s.ch[c].fifo.ents.length →
        t.ron (F.CHc_EVT_FIFO_ERR_S c) = true ∧ s.sameRegsBut t [R.CHc_FIFO_STAT c, R.CHc_EVT c] ∧ s.sameBlocks t ∧
        (haltStands s c → t.rget (F.CHc_FIFO_STAT_ERR c) = s.rget (F.CHc_FIFO_STAT_ERR c)) ∧
        (¬ haltStands s c → t.rget (F.CHc_FIFO_STAT_ERR c) = if (pushed s p c v).delta < 128 then 3 else 4)) ∧
      (128 ≤ (pushed s p c v).delta → s.ch[c].fifo.ents.length < 16 → s.ch[c].fifo.state ≠ .run → s.ch[c].fifo.state ≠ .drained →
        t.ch[c] = { s.ch[c] with fifo := { s.ch[c].fifo with ents := s.ch[c].fifo.ents ++ [pushed s p c v] } } ∧
        (∀ o, t.reg o = s.reg o) ∧ onlyChannel s t c)

/-- R70: START is refused with OWN unless a FIFO owner code stands; it changes nothing while a train runs or waits; with WAIT it waits for
the strobe; of an empty FIFO it begins a train at the base. -/
def fifoStarts : Prop :=
  ∀ (p : Path) (c : Fin 96) (waits : Bool) (s : State), s.takesWrites = true →
    ∃ t, exec (.fifoStart p c waits) s = .next t ∧ s.sameFar t ∧
      (s.rget (F.CHc_CTRL_OWN c) < 2 → t.rget (F.CHc_FIFO_STAT_ERR c) = 5 ∧ t.ron (F.CHc_EVT_FIFO_ERR_S c) = true ∧
        s.sameRegsBut t [R.CHc_FIFO_STAT c, R.CHc_EVT c] ∧ s.sameBlocks t) ∧
      (2 ≤ s.rget (F.CHc_CTRL_OWN c) → (s.ch[c].fifo.state = .run ∨ s.ch[c].fifo.state = .waitStart) → t = s) ∧
      (2 ≤ s.rget (F.CHc_CTRL_OWN c) → s.ch[c].fifo.state ≠ .run → s.ch[c].fifo.state ≠ .waitStart → waits = true →
        t.ch[c] = { s.ch[c] with fifo := { s.ch[c].fifo with state := .waitStart }, stage := t.ch[c].stage } ∧
        (s.ch[c].stage = [] → s.atCeil = false → (s.now : Int) ≤ s.tLaunch c + s.outTrc c → t.ch[c].stage = []) ∧ t.rget (F.CHc_FIFO_STAT_ERR c) = 0 ∧
        s.sameRegsBut t [R.CHc_FIFO_STAT c]) ∧
      (2 ≤ s.rget (F.CHc_CTRL_OWN c) → s.ch[c].fifo.state ≠ .run → s.ch[c].fifo.state ≠ .waitStart → waits = false →
        s.ch[c].fifo.ents = [] → s.ch[c].fifo.armed = [] →
        t.ch[c].fifo.state = .run ∧ t.ch[c].fifo.ents = [] ∧ t.rget (F.CHc_FIFO_STAT_ERR c) = 0 ∧
        t.ch[c].fifo.next.prev = s.rget (F.CHc_FIFO_BASE_LO_NS_LO c) * 64 + s.rget (F.CHc_FIFO_BASE_SUB_SUB c))

/-- The armed edges of a train lie on different compares, and so does the next edge. -/
def trainWf (f : Fifo) : Prop := (f.armed.map (fun a => a.unit)).Nodup ∧ (∀ a ∈ f.armed, a.unit < 2) ∧ f.unit < 2

/-- R69, R70, R87: STOP leaves the train IDLE with nothing armed, and keeps the entries of a train none of whose edges is being launched; FLUSH
also empties the FIFO and clears ERR; BREAK changes nothing unless a train runs a body, whose present pass becomes the last one: no entry
goes and no pin moves, and the armed edges of the pass stay armed as they are. -/
def fifoStopsFlushesBreaks : Prop :=
  ∀ (p : Path) (c : Fin 96) (s : State), s.takesWrites = true →
    (∃ t, exec (.fifoStop p c) s = .next t ∧ s.sameFar t ∧ t.ch[c].fifo.state = .idle ∧ t.ch[c].fifo.armed = [] ∧
      (∀ u, (cmpOf t.ch[c] u).fifo = false) ∧
      (s.launched c false = false → s.launched c true = false → t.ch[c].fifo.ents = s.ch[c].fifo.ents ∧ t.ch[c].ol = s.ch[c].ol)) ∧
    (∃ t, exec (.fifoFlush p c) s = .next t ∧ s.sameFar t ∧ t.ch[c].fifo.state = .idle ∧ t.ch[c].fifo.armed = [] ∧
      t.ch[c].fifo.ents = [] ∧ t.rget (F.CHc_FIFO_STAT_ERR c) = 0) ∧
    (s.ch[c].fifo.state ≠ .run ∨ s.ch[c].fifo.looping = none → exec (.fifoBreak p c) s = .next s) ∧
    (s.ch[c].fifo.state = .run → s.ch[c].fifo.looping.isSome = true → trainWf s.ch[c].fifo →
      ∃ t, exec (.fifoBreak p c) s = .next t ∧ s.sameFar t ∧ (∃ b, t.ch[c].fifo.looping = some b ∧ b.passes = 0) ∧
        t.ch[c].fifo.ents = s.ch[c].fifo.ents ∧ t.ch[c].ol = s.ch[c].ol ∧ t.ch[c].lastPin = s.ch[c].lastPin ∧
        (s.ch[c].fifo.armed = [] → t = s.modFifo c (fun f => { f with next := f.next.lastPass })) ∧
        (∀ a rest, s.ch[c].fifo.armed = a :: rest → ∀ b ∈ a :: passEdges a rest, ∃ left,
          cmpOf t.ch[c] (decide (b.unit = 1)) = { cmpOf s.ch[c] (decide (b.unit = 1)) with tag := left }))

/-- R69, R71 to R73: an armed edge of a train fires in its launch tick. Behind the last edge of the last entry the train is DRAINED. Where it
goes on in entries that stay, the sequencer arms the next edge on the compare whose turn it is, if the edge is ahead and keeps the
spacing; an edge that does not keep it halts the train, as one that is behind does under HALT; under CATCH such an edge fires late. -/
def trainEdgesFire : Prop :=
  ∀ (c : Fin 96) (u : Bool) (a : FifoArmed) (s : State), s.takesEvents = true → s.launched c u = true → s.held c = false →
    (cmpOf s.ch[c] u).fifo = true → (cmpOf s.ch[c] u).place = none → (cmpOf s.ch[c] (!u)).armed = false →
    s.ch[c].fifo.state = .run → s.ch[c].fifo.armed = [a] → a.unit = b2n u → s.ch[c].fifo.fromBase = false →
    let f := s.ch[c].fifo
    (f.next.body = none → f.next.idx = f.ents.length →
      ∃ t, exec (.compareFire c u) s = .next t ∧ hasFired s t c u s.ch[c].ol (cmpOf s.ch[c] u).act false ∧
        t.ch[c].fifo.state = .drained ∧ t.ch[c].fifo.ents = [] ∧ t.ch[c].fifo.armed = [] ∧
        t.ch[c].fifo.lastEdge = some a.edge.target ∧ t.ron (F.CHc_EVT_FIFO_EMPTY_S c) = true) ∧
    (∀ p e p', f.next.spent = 0 → fifoBegun f.ents f.next = some p → fifoEdge f.ents p = some (e, p') →
      let v := s.fifoUnit c
      let keeps := spacingOk e.target (some a.edge.target) (if v = b2n u then some a.edge.target else if v = 0 then f.lastA else f.lastB)
      ∃ t, exec (.compareFire c u) s = .next t ∧ s.sameFar t ∧
        (s.dueD c e.target ≤ 0 → keeps = true → (∃ more, t.ch[c].fifo.armed = ⟨v, e, p⟩ :: more) ∧ t.ch[c].fifo.state = .run ∧
          (cmpOf t.ch[c] (decide (v = 1))).armed = true ∧ (cmpOf t.ch[c] (decide (v = 1))).target = e.target ∧
          (cmpOf t.ch[c] (decide (v = 1))).act = e.act ∧ (cmpOf t.ch[c] (decide (v = 1))).fifo = true) ∧
        (s.dueD c e.target ≤ 0 → keeps = false → t.ch[c].fifo.state = .halted ∧ t.ch[c].fifo.armed = [] ∧
          t.rget (F.CHc_FIFO_STAT_ERR c) = 1 ∧ t.ron (F.CHc_EVT_FIFO_ERR_S c) = true) ∧
        (0 < s.dueD c e.target → s.rget (F.CHc_CTRL_FLATE c) = 2 → t.ch[c].fifo.state = .halted ∧ t.ch[c].fifo.armed = [] ∧
          t.rget (F.CHc_FIFO_STAT_ERR c) = 2 ∧ t.ron (F.CHc_EVT_FIFO_ERR_S c) = true) ∧
        (0 < s.dueD c e.target → s.rget (F.CHc_CTRL_FLATE c) = 0 → keeps = true → t.ron (F.CHc_EVT_LATE_S c) = true))

/-- R69 to R73, R87: the four commands of the edge FIFO, and what follows an edge of a train.
Choices of the model: log entries 2, 11, 12, 13, 80, 84, 89 and 106. -/
def Obligations.FifoCommandsRun : Prop := fifoStarts ∧ fifoStopsFlushesBreaks ∧ trainEdgesFire

/-- The ball that a capture unit watches (R74). -/
def capBall (s : State) (c : Fin 96) (k : Bool) : Fin 96 := if s.ron (F.CHc_CAPk_CFG_SRC c (kNat k)) then pairOf c else c

/-- Stage 1 holds a capture that it goes on holding: it waits for the selected reader, or for a record writer at its ceiling (R75). -/
def stays (s : State) (c : Fin 96) (k : Bool) (y : CapT) : Prop :=
  (s.ron (F.CHc_CAPk_CFG_RDC c (kNat k)) = true ∧ y.rdDone = false ∧ y.used = false) ∨ (s.capTaken c k y = false ∧ s.atCeil = true)

/-- A capture, but for what its consumers have taken (R75). -/
def isCap (p : Option CapT) (x : CapT) : Prop := ∃ r d u, p = some { x with recDone := r, rdDone := d, used := u }

/-- R74, R75, R76: an edge that a capture unit takes. Within the dead time, which runs in PLL ticks, it is a miss, and nothing else changes;
otherwise it enters stage 1 where that is consumed and stage 2 is empty, else an empty stage 2, and else it is dropped and counted. A
capture that waits only for a record writer that takes it gives its stage to the next one.
Choices of the model: log entries 7 and 17. -/
def Obligations.CapturesEnterTheirStages : Prop :=
  ∀ (c : Fin 96) (k rise : Bool) (pos : Fin 64) (s : State), s.takesEvents = true →
    s.banks[bankOf (capBall s c k)].supply ≠ 0 → s.capTakes c k rise = true →
    let q := capOf s.ch[c] k
    let stamp := s.ballStamp (capBall s c k) pos
    let at' := s.spine.tick * 64 + pos.val
    let x : CapT := ⟨stamp.1, rise, stamp.2 || q.mark, s.ron F.SPN_STAT_COARSE, s.capAngle c stamp.1, false, false, false⟩
    let rec' := s.ron (F.CHc_CAPk_CFG_REC c (kNat k))
    let rdc := s.ron (F.CHc_CAPk_CFG_RDC c (kNat k))
    ((∃ e, q.lastEdge = some e ∧ at' < e + 256) →
      ∃ t, exec (.capture c k rise pos) s = .next t ∧
        t.rget (F.CHc_CAPk_STAT_MISS c (kNat k)) =
          min (s.rget (F.CHc_CAPk_STAT_MISS c (kNat k)) + 1) (2 ^ (F.CHc_CAPk_STAT_MISS c (kNat k)).width - 1) ∧
        s.sameRegsBut t [R.CHc_CAPk_STAT c (kNat k)] ∧ s.sameBlocks t) ∧
    ((∀ e, q.lastEdge = some e → e + 256 ≤ at') →
      ∃ t, exec (.capture c k rise pos) s = .next t ∧ s.sameFar t ∧ (capOf t.ch[c] k).lastEdge = some at' ∧
        (s.ron (F.CHc_CAPk_CFG_REC c (kNat !k)) = false → s.capStep c (!k) = s → capOf t.ch[c] (!k) = capOf s.ch[c] (!k)) ∧
        (s.capConsumed c k = true → q.s2 = none →
          (∃ r u, (capOf t.ch[c] k).s1 = some { x with recDone := r, used := u } ∧ (rec' = false → r = false) ∧
            (rec' = true → s.ron (F.CHc_CAPk_CFG_REC c (kNat !k)) = false → s.atCeil = false → r = true) ∧
            (u = true ↔ rdc = false ∧ (rec' = false ∨ r = true))) ∧
          (capOf t.ch[c] k).s2 = none) ∧
        (∀ y, q.s1 = some y → s.capConsumed c k = false → q.s2 = none → stays s c k y →
          isCap (capOf t.ch[c] k).s1 y ∧ (capOf t.ch[c] k).s2 = some x) ∧
        (∀ y, q.s1 = some y → s.capConsumed c k = false → q.s2 = none → rdc = false → s.atCeil = false →
          s.ron (F.CHc_CAPk_CFG_REC c (kNat !k)) = false →
          isCap (capOf t.ch[c] k).s1 x ∧ (capOf t.ch[c] k).s2 = none) ∧
        (∀ y, q.s1 = some y → q.s2.isSome = true → stays s c k y →
          isCap (capOf t.ch[c] k).s1 y ∧ (capOf t.ch[c] k).s2 = q.s2 ∧
          (s.capUnrec c k y = false ∨ s.atCeil = true → (capOf t.ch[c] k).dropped = q.dropped + 1)) ∧
        (q.s2.isSome = true →
          t.rget (F.CHc_CAPk_STAT_DROP c (kNat k)) =
            min (s.rget (F.CHc_CAPk_STAT_DROP c (kNat k)) + 1) (2 ^ (F.CHc_CAPk_STAT_DROP c (kNat k)).width - 1) ∧
          t.ron (capDropEvt c k) = true))

/-- R75, R76, R77, R378: a read of `CHc_CAPk_LO` returns ns[31:0] of stage 1 (0 with nothing captured), and leaves ns[63:32], and sub, polarity
and FRESH, in the path's shadows. A read in the tick in which a capture took stage 1 from a consumed one returns that older one, not fresh,
and takes nothing. Else it consumes stage 1, which stage 2 then fills, but only for the selected reader, and never in a frozen device.
Choices of the model: log entry 85. -/
def Obligations.CaptureReadReturnsStageOne : Prop :=
  ∀ (p : Path) (c : Fin 96) (k : Bool) (s : State), s.powered = true →
    let q := capOf s.ch[c] k
    let met := decide (q.entered = some s.spine.tick) && !s.frozen
    let shown := if met then q.older else q.s1
    ∃ t, exec (.captureRead p c k) s = .next t ∧ State.sameFar { s with pcie := t.pcie, spi := t.spi } t ∧
      (t.path (match p with | .pcie => .spi | .spi => .pcie) = s.path (match p with | .pcie => .spi | .spi => .pcie)) ∧
      (shown = none → (t.path p).rdata = [0] ∧ t.shadowWord p (R.CHc_CAPk_HI c (kNat k)) = 0 ∧
        t.shadowWord p (R.CHc_CAPk_STAT c (kNat k)) = 0) ∧
      (∀ x, shown = some x → (t.path p).rdata = [word (x.t / 64)] ∧
        t.shadowWord p (R.CHc_CAPk_HI c (kNat k)) = word (x.t / 64 / 2 ^ 32) ∧
        t.shadowWord p (R.CHc_CAPk_STAT c (kNat k)) = word (x.t % 64 + 64 * b2n x.rise + 128 * b2n (!met && !s.capConsumed c k))) ∧
      (met = false → q.s1 = none ∨ s.frozen = true ∨ s.ron (F.CHc_CAPk_CFG_RDC c (kNat k)) = false ∨
        s.ron (F.CHc_CAPk_CFG_RDR c (kNat k)) = true → t.ch = s.ch) ∧
      (met = true → t.ch = (s.modCh c (fun y => setCap y k { q with entered := none, older := none })).ch) ∧
      (met = false → s.frozen = false → s.ron (F.CHc_CAPk_CFG_RDC c (kNat k)) = true → s.ron (F.CHc_CAPk_CFG_RDR c (kNat k)) = false →
        (∀ x, q.s1 = some x → q.s2 = none →
          ∃ r u, (capOf t.ch[c] k).s1 = some { x with rdDone := true, recDone := r, used := u } ∧ (capOf t.ch[c] k).s2 = none) ∧
        (∀ x z, q.s1 = some x → q.s2 = some z → (s.ron (F.CHc_CAPk_CFG_REC c (kNat k)) = false ∨ x.recDone = true) →
          isCap (capOf t.ch[c] k).s1 z ∧ (capOf t.ch[c] k).s2 = none))

/-! ### Gaffer threads and their scheduling -/

/-- Only one thread of one Gaffer, among all the blocks, differs. -/
def onlyThread (s t : State) (e : Fin 8) (n : Fin 16) : Prop :=
  State.sameBlocks { s with gaf := t.gaf } t ∧ t.gaf = (s.modThr e n (fun _ => t.thr e n)).gaf

/-- `Ge_CMD_STAT` names the thread and the result of a command (R107). -/
def cmdResult (t : State) (e : Fin 8) (n : Fin 16) (res : Nat) : Prop :=
  t.rget (F.Ge_CMD_STAT_RES e) = res ∧ t.rget (F.Ge_CMD_STAT_THR e) = n.val

/-- The fault mask with the bit of one thread cleared. -/
def maskCleared (s t : State) (e : Fin 8) (n : Fin 16) : Prop :=
  nbit (t.rget (F.Ge_FLTMASK_FLT e)) n = false ∧
  ∀ m : Fin 16, m ≠ n → nbit (t.rget (F.Ge_FLTMASK_FLT e)) m = nbit (s.rget (F.Ge_FLTMASK_FLT e)) m

/-- What a wake bit does to a thread (R102, R103): a bit already set is coalesced; otherwise it is set, and ends a wait for it. -/
def wokenBy (x y : Thread) (now bit : Nat) : Prop :=
  if nbit x.pend.toNat bit then y = { x with coal := min (x.coal + 1) 255 }
  else y.pend = x.pend ||| BitVec.ofNat 16 (2 ^ bit) ∧ y.pc = x.pc ∧ y.p = x.p ∧ y.mask = x.mask ∧ y.park = x.park ∧
    (if x.state = .parked ∧ (match x.park with | .wait => nbit x.mask.toNat bit | .space _ => decide (bit = 10) | .none => false) = true then
      y.state = .ready ∧ y.readySince = some now
    else y.state = x.state ∧ y.readySince = x.readySince)

/-- MAXWAIT when a READY interval ends, in units of 8 ns, saturating (R116). -/
def longestWait (x : Thread) (now : Nat) : Nat :=
  match x.readySince with | some r => min (max x.maxWait ((now - r) / 512)) 65535 | none => x.maxWait

/-- R101, R102, R107, R113, R116, R134: the commands of `Ge_CMD`. START of an IDLE or HALTED thread makes it READY at the given PC with its
results cleared; HALT stops a thread that waits at once, which ends its READY interval, and asks a running one; RESUME makes a HALTED or FAULT thread READY where it
stands; CLRFAULT makes a FAULT thread IDLE; in every other state they answer 2 and change no thread. WAKE sets wake bit 8, CLRLAT clears
the latency maximum, and NOP changes nothing. -/
def gafferCommandsRun : Prop :=
  ∀ (p : Path) (e : Fin 8) (n : Fin 16) (s : State), s.takesWrites = true →
    (∀ pc : BitVec 11, ∃ t, exec (.threadStart p e n pc) s = .next t ∧ s.sameRegsBut t [R.Ge_CMD_STAT e] ∧ onlyThread s t e n ∧
      (if (s.thr e n).state = .idle ∨ (s.thr e n).state = .halted then
        cmdResult t e n 0 ∧ t.thr e n = { s.thr e n with
          state := .ready, pc := pc, atSafe := false, wres := 0, flags := 0, ephres := 0, chres := 0, recres := 0, fresh := false
          more := false, merr := false, ret := [], pend := 0, park := .none, run := 0, quantum := 0, haltReq := false, keep := false
          cls := s.thClass e n, readySince := some s.now, starved := false, wokenAt := none }
      else cmdResult t e n 2 ∧ t.thr e n = s.thr e n)) ∧
    (∃ t, exec (.threadHalt p e n) s = .next t ∧ s.sameRegsBut t [R.Ge_CMD_STAT e] ∧ onlyThread s t e n ∧
      ((s.thr e n).state = .run → cmdResult t e n 1 ∧ t.thr e n = { s.thr e n with haltReq := true }) ∧
      ((s.thr e n).state = .ready ∨ (s.thr e n).state = .parked → cmdResult t e n 0 ∧
        t.thr e n = { s.thr e n with
          state := .halted, park := .none, readySince := none, keep := false, wokenAt := none
          maxWait := longestWait (s.thr e n) s.now }) ∧
      ((s.thr e n).state = .idle ∨ (s.thr e n).state = .halted ∨ (s.thr e n).state = .fault → cmdResult t e n 2 ∧ t.thr e n = s.thr e n)) ∧
    (∃ t, exec (.threadResume p e n) s = .next t ∧ s.sameRegsBut t [R.Ge_CMD_STAT e, R.Ge_FLTMASK e] ∧ onlyThread s t e n ∧
      (if (s.thr e n).state = .halted ∨ (s.thr e n).state = .fault then
        cmdResult t e n 0 ∧ maskCleared s t e n ∧
        t.thr e n = { s.thr e n with state := .ready, haltReq := false, readySince := some s.now, starved := false }
      else cmdResult t e n 2 ∧ t.thr e n = s.thr e n ∧ t.reg (R.Ge_FLTMASK e) = s.reg (R.Ge_FLTMASK e))) ∧
    (∃ t, exec (.clrFault p e n) s = .next t ∧ s.sameRegsBut t [R.Ge_CMD_STAT e, R.Ge_FLTMASK e] ∧ onlyThread s t e n ∧
      (if (s.thr e n).state = .fault then cmdResult t e n 0 ∧ maskCleared s t e n ∧ t.thr e n = { s.thr e n with state := .idle }
      else cmdResult t e n 2 ∧ t.thr e n = s.thr e n ∧ t.reg (R.Ge_FLTMASK e) = s.reg (R.Ge_FLTMASK e))) ∧
    (∃ t, exec (.threadWake p e n) s = .next t ∧ s.sameRegsBut t [R.Ge_CMD_STAT e] ∧ onlyThread s t e n ∧ cmdResult t e n 0 ∧
      wokenBy (s.thr e n) (t.thr e n) s.now 8) ∧
    (∃ t, exec (.clrLat p e n) s = .next t ∧ t.reg (R.Ge_LAT_MAX e) = 0 ∧ cmdResult t e n 0 ∧
      s.sameRegsBut t [R.Ge_LAT_MAX e, R.Ge_CMD_STAT e] ∧ s.sameBlocks t) ∧
    exec (.gafferNop p e n) s = .next s

/-- The places by which a thread lies behind the one that its class dispatched last, in circular order (R104). -/
def placesBehind (s : State) (e : Fin 8) (cls : Nat) (k : Fin 16) : Nat := (k - 1 - s.gaf[e].last.toList.getD cls 0).val

/-- The next entry of a queue is committed to its compare, which the ephemeris has loaded (R110). -/
def committedTo (t : State) (e : Fin 8) (c : Fin 96) (u : Bool) (tgt act : Nat) (slot : Nat) : Prop :=
  (cmpOf t.ch[c] u).armed = true ∧ (cmpOf t.ch[c] u).target = tgt ∧ (cmpOf t.ch[c] u).act = act ∧ (cmpOf t.ch[c] u).due = false ∧
  (cmpOf t.ch[c] u).eph = some slot ∧ ∃ x ∈ t.gaf[e].eph, x.slot = slot ∧ x.tgt = tgt ∧ x.committed = true

/-- R110: a compare that an entry has armed fires; the entry is removed, and the next one of its queue is committed. -/
def entriesFollow : Prop :=
  ∀ (e : Fin 8) (i : Fin 12) (u : Bool) (x y : EphEnt) (s : State), s.takesEvents = true →
    let c := chanOf e i
    s.launched c u = true → s.held c = false → (cmpOf s.ch[c] u).fifo = false → (cmpOf s.ch[c] u).place = none →
    (cmpOf s.ch[c] (!u)).armed = false → (cmpOf s.ch[c] u).eph = some x.slot → (s.gaf[e].eph.map EphEnt.slot).Nodup →
    s.ephQueue e i (b2n u) = [x, y] → y.committed = false → s.dueD c y.tgt ≤ 0 →
    ∃ t, exec (.compareFire c u) s = .next t ∧ s.sameFar t ∧ (∀ z ∈ t.gaf[e].eph, z.slot ≠ x.slot) ∧
      committedTo t e c u y.tgt y.act y.slot ∧ t.ch[c].ol = actLevel s.ch[c].ol (cmpOf s.ch[c] u).act

/-- R103, R104, R110, R116: the events of the scheduler and of the ephemeris. A free engine takes a READY thread of the highest class that has
one: the one that keeps its place, else the next behind the last one dispatched; a WAIT that a wake ended hands over its bits; a timer that is reached wakes its thread and is removed; a thread READY for longer than the
threshold is reported once. When a compare of the ephemeris fires, the next entry takes it.
Choices of the model: log entries 2, 11 and 43. -/
def Obligations.SchedulerEvents : Prop :=
  entriesFollow ∧ ∀ (e : Fin 8) (s : State), s.takesEvents = true →
    ((s.dispatchOn e = false ∨ s.gaf[e].running ≠ none ∨ ∀ m, (s.thr e m).state ≠ .ready) → exec (.dispatch e) s = .next s) ∧
    (s.dispatchOn e = true → s.gaf[e].running = none → ∀ m, (s.thr e m).state = .ready → (s.thr e m).cls < 4 →
      ∃ t n, exec (.dispatch e) s = .next t ∧ t.gaf[e].running = some n ∧ (s.thr e n).state = .ready ∧
        (s.thr e n).cls ≤ (s.thr e m).cls ∧
        (let mates (k : Fin 16) := (s.thr e k).state = .ready ∧ (s.thr e k).cls = (s.thr e n).cls
         ((∃ k, mates k ∧ (s.thr e k).keep = true) → (s.thr e n).keep = true ∧ ∀ k, mates k → (s.thr e k).keep = true → n ≤ k) ∧
         ((∀ k, mates k → (s.thr e k).keep = false) →
           ∀ k, mates k → placesBehind s e (s.thr e n).cls n ≤ placesBehind s e (s.thr e n).cls k) ∧
         t.gaf[e].last.toList.getD (s.thr e n).cls 0 = n) ∧
        (t.thr e n).state = .run ∧ (t.thr e n).readySince = none ∧
        (t.thr e n).maxWait = longestWait (s.thr e n) s.now ∧
        (if (s.thr e n).park = .wait then
          (t.thr e n).wres = (s.thr e n).pend &&& (s.thr e n).mask ∧ (t.thr e n).pend = (s.thr e n).pend &&& ~~~(s.thr e n).mask ∧
          (t.thr e n).pc = (s.thr e n).pc + 1 ∧ (t.thr e n).park = .none
        else (t.thr e n).pend = (s.thr e n).pend ∧ (t.thr e n).pc = (s.thr e n).pc ∧ (t.thr e n).park = (s.thr e n).park) ∧
        (∀ k, k ≠ n → t.thr e k = s.thr e k) ∧ (∀ o, t.reg o = s.reg o) ∧ State.sameBlocks { s with gaf := t.gaf } t) ∧
    ((∀ x ∈ s.gaf[e].eph, x.timer = true → (s.now : Int) < x.tFull) → exec (.timerDue e) s = .next s) ∧
    (∀ pre x rest, s.gaf[e].eph = pre ++ x :: rest → (∀ y ∈ pre, y.timer = true → (s.now : Int) < y.tFull) → x.timer = true →
      x.tFull ≤ (s.now : Int) →
      ∃ t, exec (.timerDue e) s = .next t ∧ t.gaf[e].eph = s.gaf[e].eph.filter (fun y => decide (y.slot ≠ x.slot)) ∧
        nbit (t.thr e ⟨x.thr % 16, by omega⟩).pend.toNat 5 = true ∧ t.ch = s.ch ∧ (∀ o, t.reg o = s.reg o) ∧ s.sameFar t) ∧
    (∀ n : Fin 16,
      let x := s.thr e n
      let us := s.rget (F.Ge_STARVE_US e)
      (∀ r, x.readySince = some r → us ≠ 0 → x.state = .ready → x.starved = false → r + us * 64000 < s.now →
        ∃ t, exec (.threadStarve e n) s = .next t ∧ t.thr e n = { x with starved := true } ∧ t.ron (F.Ge_EVT_STARVE_S e) = true ∧
          s.sameRegsBut t [R.Ge_EVT e] ∧ onlyThread s t e n) ∧
      ((us = 0 ∨ x.state ≠ .ready ∨ x.starved = true ∨ (∀ r, x.readySince = some r → s.now ≤ r + us * 64000)) →
        exec (.threadStarve e n) s = .next s))

/-! ### Microwords -/

/-- The arithmetic rows, with their AOP codes (R127). -/
def arithRows (e : Fin 8) : List (Instr × Nat) :=
  [(.mwNop e, 0x00), (.mwMov e, 0x01), (.mwAdd e, 0x02), (.mwSub e, 0x03), (.mwAnd e, 0x04), (.mwOr e, 0x05), (.mwXor e, 0x06),
   (.mwShl e, 0x07), (.mwShr e, 0x08), (.mwSar e, 0x09), (.mwCmp e, 0x0A), (.mwTst e, 0x0B), (.mwMin e, 0x0C), (.mwMax e, 0x0D),
   (.mwTdiff e, 0x0E), (.mwBset e, 0x0F), (.mwBclr e, 0x10)]

/-- The sequencer rows, with their SOP codes (R129). -/
def seqRows (e : Fin 8) : List (Instr × Nat) :=
  [(.mwNext e, 0), (.mwJump e, 1), (.mwCall e, 2), (.mwRet e, 3), (.mwWait e, 4), (.mwEnd e, 5), (.mwDisp e, 6), (.mwYield e, 7)]

/-- The port rows, with their PSEL and operation codes (R136 to R145). -/
def portRows (e : Fin 8) : List (Instr × Nat × Nat) :=
  [(.mwInsCmp e, 1, 0), (.mwInsTmr e, 1, 1), (.mwCanCmp e, 1, 2), (.mwCanTmr e, 1, 3), (.mwInsAng e, 1, 4), (.mwCaprd e, 2, 0),
   (.mwSnap e, 2, 1), (.mwCntrd e, 2, 2), (.mwFpush e, 2, 3), (.mwLdbase e, 2, 4), (.mwChst e, 2, 5), (.mwLd32 e .ok, 3, 0),
   (.mwLd40 e .ok, 3, 1), (.mwSt32 e, 3, 2), (.mwSt40 e, 3, 3), (.mwAng e, 5, 0), (.mwEdge e, 5, 1), (.mwA2t e, 5, 2), (.mwNow e, 6, 0),
   (.mwSignal e, 6, 1), (.mwWclr e, 6, 2), (.mwTrig e, 6, 3)]

/-- Every microword row, with what the microword must be for the row to issue it. -/
def microRows (e : Fin 8) : List (Instr × (BitVec 144 → Bool)) :=
  (arithRows e).map (fun x => (x.1, isAop x.2)) ++ (seqRows e).map (fun x => (x.1, isSop x.2)) ++
    (portRows e).map (fun x => (x.1, isPort x.2.1 x.2.2)) ++ [(Instr.mwRec e, fun w => decide (mwPsel w = 4))]

/-- The microword at the PC of a thread. -/
def wordAt (s : State) (e : Fin 8) (n : Fin 16) : BitVec 144 := csMicro (s.csWord e (s.thr e n).pc.toNat)

/-- A counter field has gone up by one, saturating. -/
def countedOne (s t : State) (f : Fld) : Prop := t.rget f = min (s.rget f + 1) (2 ^ f.width - 1)

/-- The thread waits for space at its microword, or retries it (R135). -/
def onSpace (x : Thread) : Prop := ∃ of, x.park = .space of

/-- Thread n runs, in a device that takes events, and its microword does not fault. -/
def microReady (s : State) (e : Fin 8) (n : Fin 16) : Prop :=
  s.takesEvents = true ∧ s.gaf[e].running = some n ∧ (s.thr e n).state = .run ∧ s.mwFault e n = none

/-- R106, R107, R124: a microword row issues the running thread's microword where it has the row's operation; otherwise, and with no
thread running, it changes nothing. A microword that faults stops its thread in FAULT at the microword, with its kind and place
reported. No microword changes anything outside the core's blocks, reports apart. `SPACE_RETRY` issues a retry.
Choices of the model: log entries 3 and 18. -/
def Obligations.MicrowordsIssueOrFault : Prop :=
  ∀ (e : Fin 8) (s : State) (row : Instr × (BitVec 144 → Bool)), row ∈ microRows e → s.takesEvents = true →
    (∃ t, exec row.1 s = .next t ∧ s.sameFar t) ∧
    (s.gaf[e].running = none → exec row.1 s = .next s) ∧
    (∀ n, microReady s e n →
      exec row.1 s = .next (if row.2 (wordAt s e n) then s.mwRun e n (wordAt s e n) else s) ∧
      (onSpace (s.thr e n) → exec (.spaceRetry e n) s = .next (s.mwRun e n (wordAt s e n))) ∧
      (¬ onSpace (s.thr e n) → exec (.spaceRetry e n) s = .next s)) ∧
    (∀ n k, s.gaf[e].running = some n → s.mwFault e n = some k →
      ∃ t, exec row.1 s = .next t ∧ (t.thr e n).state = .fault ∧ (t.thr e n).pc = (s.thr e n).pc ∧ t.gaf[e].running = none ∧
        nbit (t.rget (F.Ge_FLTMASK_FLT e)) n = true ∧ t.rget (F.Ge_FAULT_PC e) = (s.thr e n).pc.toNat ∧
        t.rget (F.Ge_FAULT_KIND e) = k ∧ t.rget (F.Ge_FAULT_THR e) = n.val ∧ t.ron (F.Ge_EVT_FAULT_S e) = true ∧ s.sameFar t)

/-- Flags Z, N, C and V of a 40-bit result (R127, R128). -/
def flagsOf (r : BitVec 40) (c v : Bool) : BitVec 4 := BitVec.ofBool v ++ BitVec.ofBool c ++ BitVec.ofBool r.msb ++ BitVec.ofBool (r == 0)

/-- R127, R128: the arithmetic group computes the table of R127 on 40-bit words: wrapping sums and differences with carry, borrow and
signed overflow; logic; shifts by B mod 64; unsigned minimum and maximum; the 38-bit difference, sign-extended; single bits. -/
def Obligations.ArithmeticIsTheTable : Prop :=
  ∀ a b : BitVec 40,
    let k := b.toNat % 64
    let plain (r : BitVec 40) : AluRes := ⟨some r.toNat, some (flagsOf r false false)⟩
    let sub := flagsOf (a - b) (decide (a.toNat < b.toNat)) (decide ((a - b).toInt ≠ a.toInt - b.toInt))
    alu 0x00 a.toNat b.toNat = ⟨none, none⟩ ∧
    alu 0x01 a.toNat b.toNat = plain b ∧
    alu 0x02 a.toNat b.toNat = ⟨some (a + b).toNat,
      some (flagsOf (a + b) (decide (2 ^ 40 ≤ a.toNat + b.toNat)) (decide ((a + b).toInt ≠ a.toInt + b.toInt)))⟩ ∧
    alu 0x03 a.toNat b.toNat = ⟨some (a - b).toNat, some sub⟩ ∧
    alu 0x04 a.toNat b.toNat = plain (a &&& b) ∧
    alu 0x05 a.toNat b.toNat = plain (a ||| b) ∧
    alu 0x06 a.toNat b.toNat = plain (a ^^^ b) ∧
    alu 0x07 a.toNat b.toNat = plain (a <<< k) ∧
    alu 0x08 a.toNat b.toNat = plain (a >>> k) ∧
    alu 0x09 a.toNat b.toNat = plain (a.sshiftRight k) ∧
    alu 0x0A a.toNat b.toNat = ⟨none, some sub⟩ ∧
    alu 0x0B a.toNat b.toNat = ⟨none, some (flagsOf (a &&& b) false false)⟩ ∧
    alu 0x0C a.toNat b.toNat = plain (if a.toNat ≤ b.toNat then a else b) ∧
    alu 0x0D a.toNat b.toNat = plain (if a.toNat ≤ b.toNat then b else a) ∧
    alu 0x0E a.toNat b.toNat = plain (((a - b).setWidth 38).signExtend 40) ∧
    alu 0x0F a.toNat b.toNat = plain (a ||| (1#40 <<< k)) ∧
    alu 0x10 a.toNat b.toNat = plain (a &&& ~~~(1#40 <<< k))

/-- R122, R124, R127, R128: an arithmetic microword reads its two sources, writes its result to ADST (a private or shared register, or the
flags), sets Z, N, C and V unless ADST was the flags, and goes on to the next microword. Nothing else changes.
Choices of the model: log entry 3. -/
def Obligations.ArithmeticRowsRun : Prop :=
  ∀ (e : Fin 8) (n : Fin 16) (s : State) (row : Instr × Nat), row ∈ arithRows e → microReady s e n → ¬ onSpace (s.thr e n) →
    let w := wordAt s e n
    let x := s.thr e n
    let r := alu row.2 (s.rdSpec e n w (mwAsra w)) (s.rdSpec e n w (mwAsrb w))
    mwAop w = row.2 → mwSop w = 0 → mwSafe w = false → mwPsel w = 0 →
    ∃ t, exec row.1 s = .next t ∧ (∀ o, t.reg o = s.reg o) ∧ State.sameBlocks { s with gaf := t.gaf } t ∧
      t.gaf = (s.modGaf e (fun g => { g with
        sreg := (match r.val with
          | some v => if 0x40 ≤ mwAdst w then g.sreg.setIfInBounds (mwAdst w - 0x40) (BitVec.ofNat 40 v) else g.sreg
          | none => g.sreg)
        thr := g.thr.set n { x with
          pc := x.pc + 1, run := x.run + 1, quantum := x.quantum + 1
          p := (match r.val with | some v => x.p.setIfInBounds (mwAdst w) (BitVec.ofNat 40 v) | none => x.p)
          flags := (match r.val, r.flags with
            | some v, some f => if mwAdst w = 0x12 then BitVec.ofNat 5 v else BitVec.ofNat 5 (f.toNat + x.flags.toNat / 16 * 16)
            | none, some f => BitVec.ofNat 5 (f.toNat + x.flags.toNat / 16 * 16)
            | _, none => x.flags) } })).gaf

/-- R103, R129 to R133: a sequencer microword goes on to the next word where its condition does not hold. Where it holds, JUMP, CALL,
RET and DISP go where they say; WAIT takes the pending bits that it names and goes on, or parks its thread; END leaves the thread IDLE;
YIELD leaves it READY. -/
def sequencerRows : Prop :=
  ∀ (e : Fin 8) (n : Fin 16) (s : State), microReady s e n → ¬ onSpace (s.thr e n) → (s.thr e n).haltReq = false →
    let w := wordAt s e n
    let x := s.thr e n
    let y : Thread := { x with run := x.run + 1, quantum := x.quantum + 1 }
    let m : BitVec 16 := BitVec.ofNat 16 (mwImm w)
    mwAop w = 0 → mwPsel w = 0 → mwSafe w = false →
    (∀ row ∈ seqRows e, mwSop w = row.2 → x.cond w = false →
      ∃ t, exec row.1 s = .next t ∧ t.thr e n = { y with pc := x.pc + 1 } ∧ onlyThread s t e n) ∧
    (mwSop w = 0 → ∃ t, exec (.mwNext e) s = .next t ∧ t.thr e n = { y with pc := x.pc + 1 } ∧ onlyThread s t e n) ∧
    (mwSop w = 1 → x.cond w = true →
      ∃ t, exec (.mwJump e) s = .next t ∧ t.thr e n = { y with pc := BitVec.ofNat 11 (mwAddr w) } ∧ onlyThread s t e n) ∧
    (mwSop w = 2 → x.cond w = true →
      ∃ t, exec (.mwCall e) s = .next t ∧
        t.thr e n = { y with pc := BitVec.ofNat 11 (mwAddr w), ret := ((x.pc + 1) :: x.ret).take 4 } ∧ onlyThread s t e n) ∧
    (∀ a as, mwSop w = 3 → x.cond w = true → x.ret = a :: as →
      ∃ t, exec (.mwRet e) s = .next t ∧ t.thr e n = { y with pc := a, ret := as } ∧ onlyThread s t e n) ∧
    (mwSop w = 4 → x.cond w = true →
      ∃ t, exec (.mwWait e) s = .next t ∧
        (x.pend &&& m ≠ 0 → onlyThread s t e n ∧ t.thr e n = { y with
          pc := x.pc + 1, mask := m, wres := x.pend &&& m, pend := x.pend &&& ~~~m, run := 0, cls := s.thClass e n }) ∧
        (x.pend &&& m = 0 → t.gaf[e].running = none ∧ t.thr e n = { y with
          state := .parked, park := .wait, mask := m, run := 0, cls := s.thClass e n, wokenAt := none } ∧
          State.sameBlocks { s with gaf := t.gaf } t)) ∧
    (mwSop w = 5 → x.cond w = true →
      ∃ t, exec (.mwEnd e) s = .next t ∧ t.gaf[e].running = none ∧ t.thr e n = { y with state := .idle, pc := x.pc + 1 } ∧
        s.sameRegsBut t [R.Ge_CMD_STAT e] ∧ State.sameBlocks { s with gaf := t.gaf } t) ∧
    (mwSop w = 6 → x.cond w = true →
      ∃ t, exec (.mwDisp e) s = .next t ∧ onlyThread s t e n ∧
        t.thr e n = { y with pc := BitVec.ofNat 11 (mwAddr w) + BitVec.ofNat 11 (dispIndex x.wres.toNat) }) ∧
    (mwSop w = 7 → x.cond w = true →
      ∃ t, exec (.mwYield e) s = .next t ∧ t.gaf[e].running = none ∧ (t.thr e n).state = .ready ∧ (t.thr e n).pc = x.pc + 1 ∧
        (t.thr e n).p = x.p ∧ (∀ o, t.reg o = s.reg o) ∧ State.sameBlocks { s with gaf := t.gaf } t)

/-- R105, R106, R132: at a safe point the running thread gives way to a READY thread of a more urgent class, or where the Gaffer does not
dispatch, and keeps its place; it goes behind a READY thread of its own class once it has issued 8 × QUANTUM microwords; otherwise it goes on.
In each case the count of words without a safe point starts anew. -/
def safePointsPreempt : Prop :=
  ∀ (e : Fin 8) (n : Fin 16) (s : State), microReady s e n → ¬ onSpace (s.thr e n) → (s.thr e n).haltReq = false →
    let w := wordAt s e n
    let x := s.thr e n
    let q := s.rget (F.Ge_CTRL_QUANTUM e)
    let urgent := s.dispatchOn e = false ∨ ∃ k : Fin 16, k ≠ n ∧ (s.thr e k).state = .ready ∧ (s.thr e k).cls < s.thClass e n
    let spent := q ≠ 0 ∧ 8 * q ≤ x.quantum + 1 ∧ ∃ k : Fin 16, k ≠ n ∧ (s.thr e k).state = .ready ∧ (s.thr e k).cls = s.thClass e n
    mwAop w = 0 → mwPsel w = 0 → mwSop w = 0 → mwSafe w = true →
    ∃ t, exec (.mwNext e) s = .next t ∧ (∀ o, t.reg o = s.reg o) ∧ State.sameBlocks { s with gaf := t.gaf } t ∧
      (t.thr e n).pc = x.pc + 1 ∧ (t.thr e n).run = 0 ∧ (t.thr e n).cls = s.thClass e n ∧ (∀ k, k ≠ n → t.thr e k = s.thr e k) ∧
      (urgent → t.gaf[e].running = none ∧ (t.thr e n).state = .ready ∧ (t.thr e n).keep = true ∧ (t.thr e n).readySince = some s.now) ∧
      (¬ urgent → spent → t.gaf[e].running = none ∧ (t.thr e n).state = .ready ∧ (t.thr e n).keep = x.keep) ∧
      (¬ urgent → ¬ spent → t.gaf[e].running = some n ∧ (t.thr e n).state = .run)

/-- R103, R105, R106, R129 to R133: the sequencer, and the safe points at which a thread gives way.
Choices of the model: log entries 3 and 43. -/
def Obligations.SequencerRowsRun : Prop := sequencerRows ∧ safePointsPreempt

/-- A microword with nothing but a port operation. -/
def portOnly (w : BitVec 144) (psel pop : Nat) : Prop :=
  mwPsel w = psel ∧ mwPop w = pop ∧ mwAop w = 0 ∧ mwSop w = 0 ∧ mwSafe w = false

/-- Thread n runs and is not in a retry; its microword, which does not fault, is a port operation alone. -/
def portReady (s : State) (e : Fin 8) (n : Fin 16) (psel pop : Nat) : Prop :=
  microReady s e n ∧ ¬ onSpace (s.thr e n) ∧ portOnly (wordAt s e n) psel pop

/-- A register of a thread, private or shared, holds a value. -/
def holds (t : State) (e : Fin 8) (n : Fin 16) (d v : Nat) : Prop :=
  (∀ h : d < 8, (t.thr e n).p[d] = BitVec.ofNat 40 v) ∧
  (∀ h : 0x40 ≤ d ∧ d < 0x80, (t.gaf[e].sreg[d - 0x40]'(by omega)) = BitVec.ofNat 40 v)

/-- The thread has completed its microword and goes on. -/
def wentOn (s t : State) (e : Fin 8) (n : Fin 16) : Prop :=
  t.gaf[e].running = some n ∧ (t.thr e n).state = (s.thr e n).state ∧ (t.thr e n).pc = (s.thr e n).pc + 1

/-- The thread is parked on SPACE of a resource at its microword (R135). -/
def parksOnSpace (s t : State) (e : Fin 8) (n : Fin 16) (of : SpaceOf) : Prop :=
  t.gaf[e].running = none ∧ (t.thr e n).pc = (s.thr e n).pc ∧
  (if (s.thr e n).haltReq then (t.thr e n).state = .halted else (t.thr e n).state = .parked ∧ (t.thr e n).park = .space of)

/-- The insert that an ephemeris microword asks for (R109, R136). -/
def insReq (s : State) (e : Fin 8) (n : Fin 16) (timer angle : Bool) : EphReq :=
  let w := wordAt s e n
  ⟨timer, mwLocal (mwf w 51 4) n, decide (mwf w 50 1 = 1), mwf w 48 2, decide (mwf w 47 1 = 1), s.rdSpec e n w (mwf w 33 7) % 65536, angle⟩

/-- R109 to R112, R135, R187: the ephemeris operations. An insert answers in EPHRES what its tests give, and parks its thread where the
table is full and it may wait; a timer that is ahead joins the table, one that is behind wakes its thread at once; an entry for a compare
that is earlier than what the compare holds takes it, and the displaced one stays. A cancel answers
NONE where no entry has the tag, and leaves no entry that it has taken out.
Choices of the model: log entries 3 and 11. -/
def Obligations.EphemerisRowsRun : Prop :=
  ∀ (e : Fin 8) (n : Fin 16) (s : State),
    let w := wordAt s e n
    let tgt := s.rdSpec e n w (mwf w 40 7) % 2 ^ 38
    let tag := s.rdSpec e n w (mwf w 33 7) % 65536
    let i := mwLocal (mwf w 51 4) n
    let u := decide (mwf w 50 1 = 1)
    let inserts (row : Instr) (q : EphReq) (tgt : Nat) : Prop :=
      ∃ t, exec row s = .next t ∧ s.sameFar t ∧
        (s.ephTest e n q tgt = .full ∧ mwNw w = false → parksOnSpace s t e n .ephemeris ∧ t.ron (F.Ge_EVT_EPH_FULL_S e) = true) ∧
        (s.ephTest e n q tgt ≠ .full ∨ mwNw w = true → wentOn s t e n ∧
          (t.thr e n).ephres = BitVec.ofNat 4 (ephCode (s.ephTest e n q tgt))) ∧
        (s.ephTest e n q tgt = .own ∨ s.ephTest e n q tgt = .quota ∨ s.ephTest e n q tgt = .range → t.gaf[e].eph = s.gaf[e].eph ∧
          t.rget (F.Ge_EPH_CNT_REFUSED e) = min (s.rget (F.Ge_EPH_CNT_REFUSED e) + 1) (2 ^ (F.Ge_EPH_CNT_REFUSED e).width - 1)) ∧
        (q.timer = true → s.ephTest e n q tgt = .behind → t.gaf[e].eph = s.gaf[e].eph ∧ nbit (t.thr e n).pend.toNat 5 = true) ∧
        (q.timer = true → s.ephTest e n q tgt = .ok ∨ s.ephTest e n q tgt = .tight →
          t.gaf[e].eph.length = s.gaf[e].eph.length + 1 ∧ (∀ x ∈ s.gaf[e].eph, x ∈ t.gaf[e].eph) ∧
          ∃ x ∈ t.gaf[e].eph, x.timer = true ∧ x.tgt = tgt % 2 ^ 38 ∧ x.thr = n.val ∧ x.tag = q.tag ∧ x.committed = false ∧
            x.tight = decide (s.ephTest e n q tgt = .tight)) ∧
        (let c := chanOf e q.chan
         let queue := s.ephQueue e q.chan (b2n q.unit)
         q.timer = false → s.ephTest e n q tgt = .ok ∨ s.ephTest e n q tgt = .tight → s.dueD c (tgt % 2 ^ 38) ≤ 0 →
          ((queue = [] ∧ (cmpOf s.ch[c] q.unit).armed = false) ∨ (∃ o, queue = [o] ∧ o.committed = true ∧ (cmpOf s.ch[c] q.unit).armed = true ∧
            (cmpOf s.ch[c] q.unit).eph = some o.slot ∧ s.launched c q.unit = false ∧ (s.now : Int) - s.ephD tgt < o.tFull)) →
          t.gaf[e].eph.length = s.gaf[e].eph.length + 1 ∧ committedTo t e c q.unit (tgt % 2 ^ 38) q.act (ephSlot s.gaf[e].eph) ∧
          ∀ o ∈ queue, ∃ z ∈ t.gaf[e].eph, z.slot = o.slot ∧ z.tgt = o.tgt ∧ z.committed = false)
    (portReady s e n 1 0 → inserts (.mwInsCmp e) (insReq s e n false false) tgt) ∧
    (portReady s e n 1 1 → inserts (.mwInsTmr e) (insReq s e n true false) tgt) ∧
    (portReady s e n 1 4 →
      (s.angTime (s.angOry (chanOf e i) (mwf w 31 2)) (s.rdSpec e n w (mwf w 40 7) % 2 ^ 32) s.now = none →
        ∃ t, exec (.mwInsAng e) s = .next t ∧ wentOn s t e n ∧ (t.thr e n).ephres = 7 ∧ onlyThread s t e n) ∧
      (∀ v : Int, s.angTime (s.angOry (chanOf e i) (mwf w 31 2)) (s.rdSpec e n w (mwf w 40 7) % 2 ^ 32) s.now = some (some v) →
        v ≤ (s.now : Int) + 2 ^ 36 → inserts (.mwInsAng e) (insReq s e n false true) (v % (2 ^ 38 : Nat)).toNat)) ∧
    (portReady s e n 1 2 →
      let hit (x : EphEnt) : Bool := !x.timer && x.chan = i && x.unit = b2n u && x.tag = tag
      ∃ t, exec (.mwCanCmp e) s = .next t ∧ s.sameFar t ∧ wentOn s t e n ∧
        (s.gaf[e].eph.filter hit = [] → (t.thr e n).ephres = 11 ∧ onlyThread s t e n) ∧
        (s.gaf[e].eph.filter hit ≠ [] → (∀ x ∈ s.gaf[e].eph, hit x = true → x.committed = false) →
          (t.thr e n).ephres = 8 ∧ ∀ x ∈ t.gaf[e].eph, hit x = false) ∧
        ((∃ x ∈ s.gaf[e].eph, hit x = true ∧ x.committed = true) →
          (t.thr e n).ephres = (if (cmpOf s.ch[chanOf e i] u).due ∨ s.launched (chanOf e i) u then 10 else 9))) ∧
    (portReady s e n 1 3 →
      let hit (x : EphEnt) : Bool := x.timer && x.thr = n.val && x.tag = tag
      ∃ t, exec (.mwCanTmr e) s = .next t ∧ s.sameFar t ∧ wentOn s t e n ∧ t.ch = s.ch ∧
        (t.thr e n).ephres = (if s.gaf[e].eph.filter hit = [] then 11 else 8) ∧ ∀ x ∈ t.gaf[e].eph, hit x = false)

/-- R138 to R141: the channel operations. CAPRD reads stage 1 and consumes it only for the selected reader; in
the tick in which a capture took stage 1 from a consumed one it returns that older one, with MORE, and takes nothing (R76, R147); SNAP latches an image and
reads it, CNTRD reads it as it stands; FPUSH answers in CHRES, and parks its thread where the FIFO is full and it may wait; LDBASE
loads the base; CHST reads the status.
Choices of the model: log entries 3 and 85. -/
def Obligations.ChannelRowsRun : Prop :=
  ∀ (e : Fin 8) (n : Fin 16) (s : State),
    let w := wordAt s e n
    let c := chanOf e (mwLocal (mwf w 50 4) n)
    let d1 := mwf w 42 7
    let d2 := mwf w 35 7
    let k := decide (mwf w 49 1 = 1)
    let v1 := s.rdSpec e n w d1
    let x := fifoEntry (word v1) (word (s.rdSpec e n w d2))
    let g := s.cntGov c
    let q := capOf s.ch[c] k
    let met := decide (q.entered = some s.spine.tick) && !s.frozen
    let shown := if met then q.older else q.s1
    let full := !met && !s.capConsumed c k
    (portReady s e n 2 0 → d1 ≠ d2 →
      ∃ t, exec (.mwCaprd e) s = .next t ∧ s.sameFar t ∧ wentOn s t e n ∧ (t.thr e n).chres = 0 ∧
        (t.thr e n).more = (met || q.s2.isSome) ∧
        (shown = none → holds t e n d1 0 ∧ (t.thr e n).fresh = false) ∧
        (∀ y, shown = some y → holds t e n d1 (y.t % 2 ^ 40) ∧ (t.thr e n).fresh = full ∧
          holds t e n d2 (b2n full + 2 * b2n y.rise + 4 * b2n (met || q.s2.isSome) + 8 * b2n full +
            256 * s.rget (F.CHc_CAPk_STAT_DROP c (kNat k)) + 65536 * s.rget (F.CHc_CAPk_STAT_MISS c (kNat k)))) ∧
        (met = true → t.ch = (s.modCh c (fun y => setCap y k { q with entered := none, older := none })).ch) ∧
        (met = false → q.s1 = none ∨ s.ron (F.CHc_CAPk_CFG_RDC c (kNat k)) = false ∨ s.ron (F.CHc_CAPk_CFG_RDR c (kNat k)) = false →
          t.ch = s.ch) ∧
        (∀ y, met = false → q.s1 = some y → q.s2 = none → s.ron (F.CHc_CAPk_CFG_RDC c (kNat k)) = true →
          s.ron (F.CHc_CAPk_CFG_RDR c (kNat k)) = true →
          ∃ r v, (capOf t.ch[c] k).s1 = some { y with rdDone := true, recDone := r, used := v })) ∧
    (portReady s e n 2 1 → d1 ≠ d2 →
      ∃ t i, exec (.mwSnap e) s = .next t ∧ s.sameFar t ∧ wentOn s t e n ∧ (t.thr e n).chres = 0 ∧ t.ch[g].img = some i ∧
        i.tick = s.spine.tick ∧ i.cause &&& 1 = 1 ∧ holds t e n d1 (i.val % 2 ^ 32) ∧
        holds t e n d2 (if s.cascLo g then i.val / 2 ^ 32 else 0) ∧ (t.thr e n).snapt = BitVec.ofNat 40 (i.t % 2 ^ 40) ∧
        ((∀ j, s.ch[g].img = some j → j.tick ≠ s.spine.tick) → i.val = s.cntBefore g ∧ i.t = s.now ∧ i.cause = 1)) ∧
    (portReady s e n 2 2 → d1 ≠ d2 →
      ∃ t, exec (.mwCntrd e) s = .next t ∧ State.sameBlocks { s with gaf := t.gaf } t ∧ wentOn s t e n ∧ (t.thr e n).chres = 0 ∧
        (∀ i, s.ch[g].img = some i → holds t e n d1 (i.val % 2 ^ 32) ∧ holds t e n d2 (if s.cascLo g then i.val / 2 ^ 32 else 0) ∧
          (t.thr e n).snapt = BitVec.ofNat 40 (i.t % 2 ^ 40)) ∧
        (s.ch[g].img = none → holds t e n d1 0 ∧ holds t e n d2 0 ∧ (t.thr e n).snapt = 0)) ∧
    (portReady s e n 2 3 →
      ∃ t, exec (.mwFpush e) s = .next t ∧ s.sameFar t ∧
        (x.delta < 128 → wentOn s t e n ∧ (t.thr e n).chres = 2 ∧ t.ch = s.ch) ∧
        (128 ≤ x.delta → 16 ≤ s.ch[c].fifo.ents.length → mwNw w = true → wentOn s t e n ∧ (t.thr e n).chres = 1 ∧ t.ch = s.ch) ∧
        (128 ≤ x.delta → 16 ≤ s.ch[c].fifo.ents.length → mwNw w = false → parksOnSpace s t e n (.fifo c) ∧ t.ch = s.ch) ∧
        (128 ≤ x.delta → s.ch[c].fifo.ents.length < 16 → wentOn s t e n ∧ (t.thr e n).chres = 0 ∧
          (s.ch[c].fifo.state ≠ .run → s.ch[c].fifo.state ≠ .drained →
            t.ch[c] = { s.ch[c] with fifo := { s.ch[c].fifo with ents := s.ch[c].fifo.ents ++ [x] } }))) ∧
    (portReady s e n 2 4 →
      ∃ t, exec (.mwLdbase e) s = .next t ∧ s.sameFar t ∧ wentOn s t e n ∧
        (mwf w 30 5 = 0 → (t.thr e n).chres = 0 ∧ t.ch = s.ch ∧
          (mwf w 29 1 = 1 → t.reg (R.CHc_FIFO_BASE_LO c) = word (v1 / 64) ∧ t.reg (R.CHc_FIFO_BASE_SUB c) = word (v1 % 64)) ∧
          s.sameRegsBut t [R.CHc_FIFO_BASE_LO c, R.CHc_FIFO_BASE_SUB c]) ∧
        (mwf w 34 1 = 1 → s.rget (F.CHc_CTRL_OWN c) < 2 → (t.thr e n).chres = 3) ∧
        (mwf w 34 1 = 0 → (t.thr e n).chres = 0) ∧
        (mwf w 29 6 = 2 ^ 3 → t.ch[c].fifo.state = .idle ∧ t.ch[c].fifo.ents = [])) ∧
    (portReady s e n 2 5 → d1 ≠ d2 →
      ∃ t, exec (.mwChst e) s = .next t ∧ (∀ o, t.reg o = s.reg o) ∧ State.sameBlocks { s with gaf := t.gaf } t ∧ wentOn s t e n ∧
        (t.thr e n).chres = 0 ∧ holds t e n d1 (s.chStat c).toNat ∧ holds t e n d2 (s.fifoStat c).toNat)

/-- The MEM address of a microword, in the Gaffer's view, aligned to its width (R142). -/
def memEff (s : State) (e : Fin 8) (n : Fin 16) (wide : Bool) : Nat :=
  let w := wordAt s e n
  let a := (s.rdSpec e n w (mwf w 41 7) % 2 ^ 24 + mwf w 25 16) % 2 ^ 24
  if wide then a / 8 * 8 else a / 4 * 4

/-- The load of a width, with what ECC finds in the words it reads. -/
def loadRow (e : Fin 8) (wide : Bool) (ecc : Ecc) : Instr := if wide then .mwLd40 e ecc else .mwLd32 e ecc

/-- The thread stops at its load with fault ECC, and the error is reported at one of the words read (R107, R371). -/
def loadFaults (s t : State) (e : Fin 8) (n : Fin 16) (wide : Bool) (a : Nat) : Prop :=
  ∃ i, i < 1 + b2n wide ∧ (t.thr e n).state = .fault ∧ (t.thr e n).pc = (s.thr e n).pc ∧ t.gaf[e].running = none ∧
    (t.thr e n).p = (s.thr e n).p ∧ t.gaf[e].sreg = s.gaf[e].sreg ∧ t.rget (F.Ge_FAULT_KIND e) = 2 ∧
    t.rget (F.Ge_FAULT_PC e) = (s.thr e n).pc.toNat ∧ t.rget (F.Ge_FAULT_THR e) = n.val ∧ t.ron (F.Ge_EVT_FAULT_S e) = true ∧
    countedOne s t (F.Ge_PARCNT_ECC e) ∧ countedOne s t F.HL_ECC_UNCORR ∧ t.reg R.HL_ECCADDR = word (a + 4 * i) ∧
    t.ron F.HL_EVT_ECC_U_S = true ∧ s.sameFar t

/-- R135, R142, R143, R371, R107: the memory operations and REC. A load reads four or five bytes, least significant first; a store writes four or
eight, and every other byte of SRAM stays. A load whose words hold a corrected error is counted and otherwise runs as ever; an
uncorrectable one stops the thread with fault ECC. An address that reaches no memory sets MERR, reads 0 and stores nothing. A record goes to
the ring of its route, without flags, unless the record writer works at its ceiling.
Choices of the model: log entries 3, 15, 17, 83 and 95. -/
def Obligations.MemoryAndRecordRowsRun : Prop :=
  ∀ (e : Fin 8) (n : Fin 16) (s : State),
    let w := wordAt s e n
    let d := mwf w 48 7
    let rd (lo : Nat) : Word := word (s.rdSpec e n w (mwf w lo 7))
    (∀ wide : Bool, portReady s e n 3 (b2n wide) →
      ∃ t, exec (loadRow e wide .ok) s = .next t ∧ wentOn s t e n ∧ (∀ o, t.reg o = s.reg o) ∧
        State.sameBlocks { s with gaf := t.gaf } t ∧
        (∀ a, s.memAddr e (memEff s e n wide) = some a → (t.thr e n).merr = false ∧
          holds t e n d (memRdN s.sram a (if wide then 5 else 4))) ∧
        (s.memAddr e (memEff s e n wide) = none → (t.thr e n).merr = true ∧ holds t e n d 0)) ∧
    (∀ (wide : Bool) (ecc : Ecc), s.loadSite e wide = none → exec (loadRow e wide ecc) s = exec (loadRow e wide .ok) s) ∧
    (∀ (wide : Bool) (a : Nat), portReady s e n 3 (b2n wide) → s.memAddr e (memEff s e n wide) = some a →
      (∃ t, exec (loadRow e wide .bad) s = .next t ∧ loadFaults s t e n wide a) ∧
      ∃ t, exec (loadRow e wide .corrected) s = .next t ∧ wentOn s t e n ∧ (t.thr e n).merr = false ∧
        holds t e n d (memRdN s.sram a (if wide then 5 else 4)) ∧ countedOne s t F.HL_ECC_CORR ∧ t.ron F.HL_EVT_ECC_C_S = true ∧
        s.sameRegsBut t [R.HL_ECC, R.HL_EVT] ∧ State.sameBlocks { s with gaf := t.gaf, free := t.free } t) ∧
    (∀ wide : Bool, portReady s e n 3 (2 + b2n wide) →
      ∃ t, exec (if wide then .mwSt40 e else .mwSt32 e) s = .next t ∧ wentOn s t e n ∧ (∀ o, t.reg o = s.reg o) ∧
        State.sameBlocks { s with gaf := t.gaf, sram := t.sram } t ∧ (t.thr e n).p = (s.thr e n).p ∧
        (∀ a, s.memAddr e (memEff s e n wide) = some a → (t.thr e n).merr = false ∧
          memRdN t.sram a (if wide then 8 else 4) = s.rdSpec e n w d % 2 ^ (if wide then 40 else 32) ∧
          ∀ b, (b < a ∨ a + (if wide then 8 else 4) ≤ b) → memRd t.sram b = memRd s.sram b) ∧
        (s.memAddr e (memEff s e n wide) = none → (t.thr e n).merr = true ∧ t.sram = s.sram)) ∧
    (microReady s e n → ¬ onSpace (s.thr e n) → mwPsel w = 4 → mwAop w = 0 → mwSop w = 0 → mwSafe w = false →
      let c := chanOf e (if n.val < 12 then ⟨n.val % 12, by omega⟩ else mwLocal (mwf w 50 4) n)
      let type := 0x30 + mwf w 54 4
      ∃ t, exec (.mwRec e) s = .next t ∧ s.sameFar t ∧ t.ch = s.ch ∧ t.sram = s.sram ∧
        (s.atCeil = true → t.recq = s.recq ∧
          (mwNw w = true → wentOn s t e n ∧ (t.thr e n).recres = 1) ∧ (mwNw w = false → parksOnSpace s t e n .writer)) ∧
        (s.atCeil = false → wentOn s t e n ∧ (t.thr e n).recres = 0 ∧
          (∀ r, s.routeOf c type = some r → s.eventRing r = true →
            t.recq = s.recq ++ [⟨type, c, s.nextSeq c, if mwf w 21 1 = 1 then s.wholeTime (s.rdSpec e n w (mwf w 14 7)) else s.now, 0,
              rd 43, rd 36, rd 29, rd 22, r⟩]) ∧
          ((s.routeOf c type = none ∨ ∃ r, s.routeOf c type = some r ∧ s.eventRing r = false) → t.recq = s.recq ∧
            t.rget F.EC_DISCARD_CNT = min (s.rget F.EC_DISCARD_CNT + 1) (2 ^ F.EC_DISCARD_CNT.width - 1))))

/-- R144, R145, R187, R188, R196: the Orrery operations answer the estimate of the last completed broadcast with OV set, or zeros with OV clear while it is not valid; NOW
reads the spine; SIGNAL sets wake bit 9 of a thread; WCLR clears pending bits; TRIG queues a conversion where there is room for
it before the requests that come behind it in its tick. A read of the present time is of age 0.
Choices of the model: log entries 3, 46 and 95. -/
def Obligations.OrreryAndSystemRowsRun : Prop :=
  ∀ (e : Fin 8) (n : Fin 16) (s : State),
    let w := wordAt s e n
    let o : Fin 4 := ⟨mwf w 53 2 % 4, by omega⟩
    let d1 := mwf w 46 7
    let d2 := mwf w 39 7
    let k : Fin 2 := ⟨mwf w 35 1 % 2, by omega⟩
    let quiet (t : State) : Prop := wentOn s t e n ∧ (∀ a, t.reg a = s.reg a) ∧ State.sameBlocks { s with gaf := t.gaf } t
    (portReady s e n 5 0 → d1 ≠ d2 → d1 ≠ 0x12 → d2 ≠ 0x12 →
      ∃ t, exec (.mwAng e) s = .next t ∧ quiet t ∧ (t.thr e n).flags.getLsbD 4 = (s.oReport o s.now).isSome ∧
        (∀ a, s.oReport o s.now = some a → holds t e n d1 a ∧ holds t e n d2 (s.oSpeedAt o s.now % (2 ^ 40 : Nat)).toNat) ∧
        (s.oReport o s.now = none → holds t e n d1 0 ∧ holds t e n d2 0)) ∧
    (portReady s e n 5 1 → d1 ≠ d2 → d1 ≠ 0x12 → d2 ≠ 0x12 →
      ∃ t, exec (.mwEdge e) s = .next t ∧ quiet t ∧
        (∀ x xs, s.oValid o = true → s.ory[o].seen.hist = x :: xs →
          holds t e n d1 (s.oZero o x.base) ∧ holds t e n d2 (x.t % 2 ^ 40) ∧ (t.thr e n).flags.getLsbD 4 = true) ∧
        (s.oValid o = false → holds t e n d1 0 ∧ holds t e n d2 0 ∧ (t.thr e n).flags.getLsbD 4 = false)) ∧
    (portReady s e n 5 2 → d1 ≠ 0x12 →
      ∃ t, exec (.mwA2t e) s = .next t ∧ quiet t ∧
        (s.angTime o (s.rdSpec e n w (mwf w 32 7) % 2 ^ 32) s.now = none → holds t e n d1 0 ∧ (t.thr e n).flags.getLsbD 4 = false) ∧
        (∀ v : Int, s.angTime o (s.rdSpec e n w (mwf w 32 7) % 2 ^ 32) s.now = some (some v) →
          holds t e n d1 (min v ((s.now : Int) + 2 ^ 36) % (2 ^ 40 : Nat)).toNat ∧ (t.thr e n).flags.getLsbD 4 = true)) ∧
    (portReady s e n 6 0 → mwf w 43 7 ≠ mwf w 36 7 →
      ∃ t, exec (.mwNow e) s = .next t ∧ quiet t ∧ holds t e n (mwf w 43 7) (s.now % 2 ^ 40) ∧
        holds t e n (mwf w 36 7) (s.spine.acc.toNat / 2 ^ 40 / 2 ^ 34)) ∧
    (portReady s e n 6 1 →
      ∃ t, exec (.mwSignal e) s = .next t ∧ quiet t ∧ nbit (t.thr e ⟨mwf w 50 4 % 16, by omega⟩).pend.toNat 9 = true) ∧
    (portReady s e n 6 2 →
      ∃ t, exec (.mwWclr e) s = .next t ∧ quiet t ∧ onlyThread s t e n ∧
        (t.thr e n).pend = (s.thr e n).pend &&& ~~~(BitVec.ofNat 16 (mwImm w))) ∧
    (portReady s e n 6 3 →
      ∃ t, exec (.mwTrig e) s = .next t ∧ s.sameFar t ∧ wentOn s t e n ∧ (t.thr e n).chres = (if s.convFits k 4 1 then 0 else 4) ∧
        (s.convRoom k 1 = true →
          t.conv = (s.convPush k ⟨mwf w 31 4, 4, s.now + 1, false, none, s.spine.tick, some (e, n), false⟩).conv) ∧
        (s.convFits k 4 1 = false → quiet t))

/-- R101, R105, R119, R149, R150, R320: the control store takes a microword with its parity (inverted once by PINJ) and no other word
changes; it refuses one while WE is 0, and one to a locked store, which is a violation too. A shared register takes its 40 bits whole.
RUN is written; where it starts the Gaffer for the first time, the AUTOSTART threads that are IDLE become READY. -/
def gafferStoresRun : Prop :=
  ∀ (p : Path) (e : Fin 8) (s : State), s.takesWrites = true →
    (∀ (w : Fin 2048) (v : Word),
      (s.csLocked e = false → s.ron (F.CSe_CTRL_WE e) = true →
        ∃ t, exec (.csStore p e w v) s = .next t ∧ csMicro (t.csWord e w) = BitVec.ofNat 144 (s.csHeld p e w v) ∧
          csParityOk (t.csWord e w) = !s.ron (F.CSe_CTRL_PINJ e) ∧ t.ron (F.CSe_CTRL_PINJ e) = false ∧
          (∀ w', w' ≠ w.val → t.csWord e w' = s.csWord e w') ∧ (∀ d, d ≠ e → t.gaf[d] = s.gaf[d]) ∧
          t.rget F.GL_CFGGEN_GEN = (s.rget F.GL_CFGGEN_GEN + 1) % 2 ^ F.GL_CFGGEN_GEN.width ∧
          s.sameRegsBut t [R.CSe_CTRL e, R.CSe_STAT e, R.GL_CFGGEN] ∧ State.sameBlocks { s with gaf := t.gaf } t) ∧
      (s.csLocked e = false → s.ron (F.CSe_CTRL_WE e) = false →
        ∃ t, exec (.csStore p e w v) s = .next t ∧
          t.rget (F.CSe_STAT_REFUSED e) = min (s.rget (F.CSe_STAT_REFUSED e) + 1) (2 ^ (F.CSe_STAT_REFUSED e).width - 1) ∧
          s.sameRegsBut t [R.CSe_STAT e] ∧ s.sameBlocks t) ∧
      (s.csLocked e = true →
        ∃ t, exec (.csStore p e w v) s = .next t ∧
          t.rget (F.CSe_STAT_REFUSED e) = min (s.rget (F.CSe_STAT_REFUSED e) + 1) (2 ^ (F.CSe_STAT_REFUSED e).width - 1) ∧
          t.rget F.GL_LOCK_VIOL_CNT = min (s.rget F.GL_LOCK_VIOL_CNT + 1) (2 ^ F.GL_LOCK_VIOL_CNT.width - 1) ∧
          t.ron F.GL_EVT_LOCK_S = true ∧ s.sameBlocks t)) ∧
    (∀ (m : Fin 64) (v : Word), ∃ t, exec (.sregStore p e m v) s = .next t ∧
      t.gaf = (s.modGaf e (fun g => { g with
        sreg := g.sreg.set m (BitVec.ofNat 40 ((s.heldWord p (R.Ge_SREGm_LO e m)).toNat + 2 ^ 32 * (v.toNat % 256))) })).gaf ∧
      (∀ o, t.reg o = s.reg o) ∧ State.sameBlocks { s with gaf := t.gaf } t) ∧
    (∀ run : Bool, ∃ t, exec (.geCtrlRun p e run) s = .next t ∧ t.ron (F.Ge_CTRL_RUN e) = run ∧
      s.sameRegsBut t [R.Ge_CTRL e, R.GL_CFGGEN] ∧ State.sameBlocks { s with gaf := t.gaf } t ∧
      (run = false ∨ s.rget F.PW_STAT_STATE ≠ 1 ∨ s.gaf[e].started = true → t.gaf = s.gaf) ∧
      (run = true → s.rget F.PW_STAT_STATE = 1 → s.gaf[e].started = false → t.gaf[e].started = true ∧
        ∀ n, t.thr e n = (if s.ron (F.Ge_THRn_CFG_AUTOSTART e n) = true ∧ (s.thr e n).state = .idle then
          (s.thStart e n (BitVec.ofNat 11 (s.rget (F.Ge_THRn_CFG_ENTRY e n)))).thr e n else s.thr e n)))

/-- The host commands of a Gaffer, and the stores into it: threads, RUN, shared registers, control store.
Choices of the model: log entries 42 and 79. -/
def Obligations.GafferCommandsAndStores : Prop := gafferCommandsRun ∧ gafferStoresRun

/-! ### Orreries and converters -/

/-- Only one Orrery, among channels and Orreries, differs; nothing outside the core's blocks does, and no register but the Orrery's own
and those of the sample buffers. -/
def onlyOrrery (s t : State) (n : Fin 4) : Prop :=
  s.sameFar t ∧ t.ch = s.ch ∧ (∀ m : Fin 4, m ≠ n → t.ory[m] = s.ory[m]) ∧
  ∀ o, reportReg o = false → (o < R.ORYn_CTRL n ∨ R.ORYn_CTRL n + 0x1000 ≤ o) → (o < 0x14000 ∨ 0x19000 ≤ o) → t.reg o = s.reg o

/-- The rows at an Orrery's inputs. -/
def oryRows (n : Fin 4) (lvl : BitVec 3) (pos : Fin 64) (a b : BitVec 14) : List Instr :=
  [.wheelTooth n pos, .camEdge n pos, .camLost n, .dirPwDecision n, .hallChange n lvl pos, .quadTransition n lvl pos,
   .sincosSample n a b, .sincosIndex n pos, .still n]

/-- The Orreries take part: the device takes events, and is not in IDLE (R354). -/
def oryTakes (s : State) : Prop := s.takesEvents = true ∧ s.rget F.PW_STAT_STATE ≠ 2

/-- R153, R354: what happens at the inputs of one Orrery changes that Orrery alone, and in IDLE nothing.
Choices of the model: log entry 44. -/
def Obligations.OrreriesStandApart : Prop :=
  ∀ (n : Fin 4) (lvl : BitVec 3) (pos : Fin 64) (a b : BitVec 14) (s : State) (row : Instr), row ∈ oryRows n lvl pos a b →
    (s.rget F.PW_STAT_STATE = 2 → exec row s = .next s) ∧ ∃ t, exec row s = .next t ∧ onlyOrrery s t n

/-- What a tooth of a wheel in FULL counts as, where the last one came at t0: its class, but over an interval that R168 and R176 discard the
pitches expected of it. -/
def toothIs (s : State) (n : Fin 4) (x : OryStamp) (t0 : Nat) : ToothClass :=
  let o := s.ory[n]
  if x.step = true ∨ o.still = true ∨ o.pLast = 0 then .spans (s.oSpan n o.pos false) else (s.oClassify n (x.t - t0)).1

/-- A broadcast of what the Orrery now holds has begun, marked RESYNC or not, behind those in progress, and what it shows outside is as it
was (R156, R166, R188). -/
def broadcasts (s t : State) (n : Fin 4) (due : Nat) (rs : Bool) : Prop :=
  t.ory[n].bcs = s.ory[n].bcs ++ [⟨due, true, { t.ory[n].view with resync := rs }⟩] ∧ t.ory[n].seen = s.ory[n].seen

/-- No input of an Orrery lies in a bank without supply (R54, R182). -/
def inputsOn (s : State) (n : Fin 4) : Prop := ∀ i, i < 3 → s.oInputOff n i = false

/-- A tick without work but at Orrery n: nothing strobes in it or after it, no slow write waits, no slew runs, no channel holds an own edge, a
record, an image or a capture, no conversion waits, the Lehr is off, the node is no root, and no Orrery has a broadcast or a transition in
progress; the other Orreries have neither a cam edge nor a command. -/
def onlyWork (s : State) (n : Fin 4) : Prop :=
  s.pending = [] ∧ s.spine.counting = true ∧ s.powered = true ∧ s.frozen = false ∧ s.spine.slew = none ∧
  s.hif.slow = [] ∧ s.hif.slowOld = [] ∧ s.ap.regs = [] ∧ s.ap.words = [] ∧ s.ap.reqs = [] ∧ (∀ i, i < 8 → s.apValid i = false) ∧
  (∀ b : Fin 12, s.banks[b].swap = false) ∧ (∀ k : Fin 2, s.conv[k].queue = []) ∧
  (∀ c : Fin 96, s.ch[c].own = [] ∧ s.ch[c].stage = [] ∧ s.ch[c].imgPend = false ∧ s.ch[c].cap0.s1 = none ∧ s.ch[c].cap1.s1 = none) ∧
  s.ron F.LH_CTRL_EN = false ∧ s.ron F.EL_STAT_ISROOT = false ∧
  ∀ m : Fin 4, s.ory[m].qwait = none ∧ s.ory[m].bcs = [] ∧ (m ≠ n → s.ory[m].camWait = none ∧ s.ory[m].cmds = [])

/-- R154 to R156, R163 to R166, R168, R176: teeth of a wheel. In FULL, a tooth that spans the pitches expected of it moves the position by them,
wrapping, and is the latest validated edge, which a broadcast shows; an early one, and one less than 40 ns after the previous edge, is counted
and moves nothing; a lost signal falls to ACQ with an empty history, in the tooth's direction. A tooth in the dead time, and one of a bank
without supply, is not seen, and the first one in ACQ gives a time. -/
def wheelTeeth : Prop :=
  ∀ (n : Fin 4) (pos : Fin 64) (s : State), oryTakes s → s.oType n = 0 →
    let o := s.ory[n]
    let x := s.oMarked n 0 (s.oStamp n 0 pos)
    (s.oInputOff n 0 = true ∨ o.sync = .off ∨ s.oDead n 0 (s.oStamp n 0 pos) = true → exec (.wheelTooth n pos) s = .next s) ∧
    (s.oInputOff n 0 = false → o.sync ≠ .off → s.oDead n 0 (s.oStamp n 0 pos) = false → o.pw = none → s.oClose n x = true →
      ∃ t, exec (.wheelTooth n pos) s = .next t ∧ countedOne s t (F.ORYn_ERRCNT_EARLY n) ∧ t.ron (F.ORYn_EVT_EARLY_S n) = true ∧
        t.ory[n].pos = o.pos ∧ t.ory[n].hist = o.hist ∧ t.ory[n].tooth = o.tooth ∧ t.ory[n].sync = o.sync) ∧
    (∀ t0, s.oInputOff n 0 = false → o.sync = .full → s.rget (F.ORYn_CTRL_DIRMODE n) = 0 → o.pw = none → s.oDead n 0 (s.oStamp n 0 pos) = false →
      s.oClose n x = false → o.tooth = some t0 →
      ∃ t, exec (.wheelTooth n pos) s = .next t ∧
        (toothIs s n x t0 = .spans (s.oSpan n o.pos false) →
          t.ory[n].pos = (o.pos + s.oSpan n o.pos false) % s.oSteps n ∧ t.ory[n].sync = .full ∧ t.ory[n].tooth = some x.t ∧
          t.ory[n].still = false ∧ t.ory[n].back = false ∧ broadcasts s t n x.due false ∧
          ∃ y, t.ory[n].hist = (y :: o.hist).take 8 ∧ y.t = x.t ∧ y.back = false) ∧
        (toothIs s n x t0 = .early → countedOne s t (F.ORYn_ERRCNT_EARLY n) ∧ t.ron (F.ORYn_EVT_EARLY_S n) = true ∧
          t.ory[n].pos = o.pos ∧ t.ory[n].hist = o.hist ∧ t.ory[n].tooth = some t0 ∧ t.ory[n].sync = .full) ∧
        (toothIs s n x t0 = .loss → countedOne s t (F.ORYn_ERRCNT_LOSS n) ∧ t.ron (F.ORYn_EVT_LOSS_S n) = true ∧
          t.ory[n].sync = .acq ∧ t.ory[n].hist = [] ∧ t.ory[n].tooth = some x.t ∧ t.ory[n].back = false ∧ t.ory[n].still = false)) ∧
    (s.oInputOff n 0 = false → o.sync = .acq → s.rget (F.ORYn_CTRL_DIRMODE n) = 0 → o.pw = none → s.oDead n 0 (s.oStamp n 0 pos) = false → s.oClose n x = false →
      o.tooth = none →
      ∃ t, exec (.wheelTooth n pos) s = .next t ∧ t.ory[n].tooth = some x.t ∧ t.ory[n].sync = .acq ∧ t.ory[n].hist = o.hist ∧
        t.ory[n].still = false)

/-- The state in which the watchdog has counted a tick (R362). -/
def ticked (s : State) : State := if s.loading then s else { s with pw := { s.pw with wdgTicks := s.pw.wdgTicks + 1 } }

/-- R154, R155, R167, R182: cam edges. One that is seen waits for the end of its tick, behind a tooth of the tick, which the 40 ns limit does not
set against it; the next step, which ends the tick, judges it. In FULL, a cam edge in the window that the estimate names confirms it, one in the other half moves it by a turn, and one in
both or in neither is counted. A cam that stays away for CAMTO cycles of steps is reported once. A pulse that has lasted the threshold makes
its tooth a backward one, under the configuration that stood when the tooth came (R168, R180). -/
def wheelCams : Prop :=
  ∀ (n : Fin 4) (pos : Fin 64) (s : State), oryTakes s →
    let o := s.ory[n]
    let x := s.oMarked n 2 (s.oStamp n 2 pos)
    (s.oInputOff n 2 = true ∨ s.oType n ≠ 0 ∨ o.sync = .off ∨ s.oDead n 2 (s.oStamp n 2 pos) = true → exec (.camEdge n pos) s = .next s) ∧
    (s.oInputOff n 2 = false → s.oType n = 0 → o.sync ≠ .off → s.oDead n 2 (s.oStamp n 2 pos) = false →
      ∃ t, exec (.camEdge n pos) s = .next t ∧ (∀ a, t.reg a = s.reg a) ∧ t.ory[n].stamp = o.stamp.set 2 (some x.at') ∧
        t.ory[n].camWait = (if s.ron (F.ORYn_CTRL_TPC n) = true ∧ (o.sync = .turn ∨ o.sync = .full) then some (x, s.oClose n x) else o.camWait) ∧
        t.ory[n].pos = o.pos ∧ t.ory[n].sync = o.sync ∧ t.ory[n].hist = o.hist ∧ t.ory[n].camok = o.camok) ∧
    (∀ (x : OryStamp) (close : Bool), o.camWait = some (x, close) → s.oType n = 0 → s.ron (F.ORYn_CTRL_TPC n) = true → o.sync = .full →
      let t := s.oCamSettle n
      (close = true → o.toothTick ≠ some s.spine.tick → countedOne s t (F.ORYn_ERRCNT_EARLY n) ∧ t.ory[n].pos = o.pos ∧
        t.ory[n].hist = o.hist ∧ t.ory[n].camok = o.camok) ∧
      (∀ est, (close = false ∨ o.toothTick = some s.spine.tick) → s.oEst n x.t = some est →
        let full := s.oZero n est % 2 ^ 24
        let in0 := s.oCamIn n (full % 2 ^ 23)
        let in1 := s.oCamIn n (full % 2 ^ 23 + 2 ^ 23)
        t.ory[n].sync = .full ∧ t.ory[n].camWait = none ∧
        (in0 = in1 → countedOne s t (F.ORYn_ERRCNT2_CAM n) ∧ t.ron (F.ORYn_EVT_CAM_S n) = true ∧ t.ory[n].pos = o.pos) ∧
        (in0 ≠ in1 → in0 = decide (full < 2 ^ 23) → t.ory[n].camok = true ∧ t.ory[n].camSteps = 0 ∧ t.ory[n].camTold = false ∧
          t.ory[n].camOff = s.oAhead n x.t ∧ t.ory[n].pos = o.pos ∧ t.ory[n].hist = o.hist) ∧
        (in0 ≠ in1 → in0 ≠ decide (full < 2 ^ 23) → t.ory[n].camok = true ∧ countedOne s t (F.ORYn_ERRCNT_RESYNC n) ∧
          t.ory[n].pos = (o.pos + s.oNpos n) % (2 * s.oNpos n)))) ∧
    (∀ (x : OryStamp) (close : Bool), o.camWait = some (x, close) → onlyWork s n → o.cmds = [] → s.spine.tick + 1 < x.due →
      ∃ t, Machine.step s = .next t ∧ t.spine.tick = s.spine.tick + 1 ∧ t.ory[n] = ((ticked s).oCamSettle n).ory[n]) ∧
    (let lim := s.rget (F.ORYn_CAM_CFG_CAMTO n)
     let ran := o.camSteps * 2 ^ 24 + s.oAhead n s.now * s.oSteps n
     let told := s.oType n = 0 ∧ s.ron (F.ORYn_CTRL_TPC n) = true ∧ o.sync = .full ∧ o.camTold = false ∧ lim ≠ 0 ∧
       (lim * 2 ^ 24 + o.camOff) * s.oSteps n ≤ ran
     (told → ∃ t, exec (.camLost n) s = .next t ∧ t.ory[n].camok = false ∧ t.ory[n].camTold = true ∧ t.ron (F.ORYn_EVT_CAM_S n) = true ∧
       t.ory[n].pos = o.pos) ∧
     (¬ told → exec (.camLost n) s = .next s)) ∧
    (∀ y, o.pw = some y →
      (s.now < y.t + s.rget (F.ORYn_DIRPW_THR n) * 64 → exec (.dirPwDecision n) s = .next s) ∧
      (y.t + s.rget (F.ORYn_DIRPW_THR n) * 64 ≤ s.now → ∃ t, exec (.dirPwDecision n) s = .next t ∧ t.ory[n].pw = none ∧
        t = (s.modOry n (fun o => { o with pw := none, pwRegs := [], pwWords := [] })).underOld o.pwRegs o.pwWords
          (fun u => u.oTooth n { y with due := s.spine.tick + 50 } true) ∧
        (o.pwRegs = [] → o.pwWords = [] →
          t = (s.modOry n (fun o => { o with pw := none })).oTooth n { y with due := s.spine.tick + 50 } true))) ∧
    (o.pw = none → exec (.dirPwDecision n) s = .next s)

/-- R154 to R156, R163 to R168, R176, R180, R182: the wheel decoder: teeth, cam edges, the missing cam and the pulse width.
Choices of the model: log entries 2, 7, 44, 90, 91, 92 and 111. -/
def Obligations.WheelDecoding : Prop := wheelTeeth ∧ wheelCams

/-- R154, R155, R169: Hall changes, of the lines that no dead time hides and no bank without supply has. A legal change to the next sector moves
the position by one, and makes the Orrery FULL; an illegal state sets SUSPECT and is counted; a change that comes less than 40 ns after the
previous edge is counted as early, and in ACQ as illegal too; the first legal one in ACQ makes the Orrery REL in its sector. -/
def hallChanges : Prop :=
  ∀ (n : Fin 4) (pos : Fin 64) (lvl : BitVec 3) (s : State), oryTakes s → s.oType n = 1 → s.ory[n].sync ≠ .off →
    let o := s.ory[n]
    let g := s.oSeenLvl n o.lvl lvl
    let r := s.oTakeLvl n o.lvl g (fun i => s.oStamp n i pos)
    let l := r.2.1
    (inputsOn s n → g = lvl) ∧
    (g = o.lvl ∨ r.2.2 = none → exec (.hallChange n lvl pos) s = .next s) ∧
    (∀ i : Fin 3, g = o.lvl ^^^ BitVec.ofNat 3 (2 ^ i.val) → s.oDead n i (s.oStamp n i pos) = false →
      l = g ∧ r.2.2 = some (s.oMarked n i (s.oStamp n i pos))) ∧
    (∀ x, g ≠ o.lvl → r.2.2 = some x → ∃ t, exec (.hallChange n lvl pos) s = .next t ∧ t.ory[n].lvl = l ∧
      (s.oClose n x = true → countedOne s t (F.ORYn_ERRCNT_EARLY n) ∧ t.ron (F.ORYn_EVT_EARLY_S n) = true) ∧
      (hallSector l.toNat = none → t.ory[n].suspect = true ∧ countedOne s t (F.ORYn_ERRCNT2_ILLEGAL n) ∧
        t.ron (F.ORYn_EVT_ILLEGAL_S n) = true ∧ t.ory[n].pos = o.pos ∧ t.ory[n].hist = o.hist) ∧
      (∀ k, hallSector l.toNat = some k → o.sync = .acq →
        (s.oClose n x = true → t.ory[n].sync = .acq ∧ t.ory[n].suspect = true ∧ countedOne s t (F.ORYn_ERRCNT2_ILLEGAL n)) ∧
        (s.oClose n x = false → t.ory[n].sync = .rel ∧ t.ory[n].pos = k)) ∧
      (∀ k, hallSector l.toNat = some k → s.oClose n x = false → o.sync = .rel ∨ o.sync = .full →
        (hallSector o.lvl.toNat = some ((k + 5) % 6) → t.ory[n].pos = (o.pos + 1) % 6 ∧ t.ory[n].back = false ∧ t.ory[n].suspect = false ∧
          t.ory[n].sync = .full ∧ ∃ y, t.ory[n].hist = (y :: o.hist).take 8 ∧ y.t = x.t ∧ y.back = false) ∧
        (hallSector o.lvl.toNat = some ((k + 1) % 6) → t.ory[n].pos = (o.pos + 5) % 6 ∧ t.ory[n].back = true ∧ t.ory[n].sync = .full)))

/-- R154, R155, R170, R171: quadrature. A transition of one line waits 2.0 ns for one of the other: both stamped within it are one illegal
transition, which leaves the count, as a transition of both at once does; one that stays alone then counts one step, or is counted as early.
One of Z alone moves no count, and leaves a transition that waits. -/
def quadTransitions : Prop :=
  ∀ (n : Fin 4) (pos : Fin 64) (lvl : BitVec 3) (s : State), oryTakes s → s.oType n = 2 → s.ory[n].sync ≠ .off →
    let o := s.ory[n]
    let g := s.oSeenLvl n (s.oQuadLvl n) lvl
    let illegal (t : State) (l : BitVec 3) : Prop :=
      t.ory[n].lvl = l ∧ t.ory[n].qwait = none ∧ t.ory[n].suspect = true ∧ countedOne s t (F.ORYn_ERRCNT2_ILLEGAL n) ∧
        t.ron (F.ORYn_EVT_ILLEGAL_S n) = true ∧ t.ory[n].pos = o.pos ∧ t.ory[n].sync = o.sync
    (inputsOn s n → g = lvl) ∧
    (g = s.oQuadLvl n → exec (.quadTransition n lvl pos) s = .next s) ∧
    (o.qwait = none → g ≠ o.lvl →
      let r := s.oTakeLvl n o.lvl g (fun i => s.oStamp n i pos)
      let l := r.2.1
      let d := (quadPlace (l.toNat % 4) + 4 - quadPlace (o.lvl.toNat % 4)) % 4
      (r.2.2 = none → exec (.quadTransition n lvl pos) s = .next s) ∧
      (∀ x, r.2.2 = some x → ∃ t, exec (.quadTransition n lvl pos) s = .next t ∧ t.ory[n].pos = o.pos ∧ t.ory[n].sync = o.sync ∧
        t.ory[n].hist = o.hist ∧
        (d = 2 → illegal t l ∧ (s.oClose n x = true → countedOne s t (F.ORYn_ERRCNT_EARLY n))) ∧
        (d = 1 ∨ d = 3 → t.ory[n].lvl = o.lvl ∧ t.ory[n].qwait = some ⟨l, s.oZ n l, x, s.oClose n x⟩ ∧ ∀ a, t.reg a = s.reg a) ∧
        (d = 0 → t.ory[n].lvl = l ∧ t.ory[n].qwait = none ∧
          (s.oClose n x = true → countedOne s t (F.ORYn_ERRCNT_EARLY n) ∧ t.ron (F.ORYn_EVT_EARLY_S n) = true) ∧
          (s.oClose n x = false → ∀ a, t.reg a = s.reg a)))) ∧
    (∀ w, o.qwait = some w →
      (g ≠ w.lvl →
        let r := s.oTakeLvl n w.lvl g (fun i => s.oStamp n i pos)
        let l := r.2.1
        (r.2.2 = none → exec (.quadTransition n lvl pos) s = .next s) ∧
        (∀ x, r.2.2 = some x →
          let both := ((x.t : Int) - w.x.t).natAbs < 128 ∧ (l ^^^ o.lvl).toNat % 4 = 3
          ((l ^^^ w.lvl).toNat % 4 = 0 →
            ∃ t, exec (.quadTransition n lvl pos) s = .next t ∧ t.ory[n].qwait = some { w with lvl := l } ∧ t.ory[n].pos = o.pos ∧
              t.ory[n].sync = o.sync ∧ t.ory[n].hist = o.hist ∧
              (s.oClose n x = true → countedOne s t (F.ORYn_ERRCNT_EARLY n) ∧ t.ory[n].suspect = true) ∧
              (s.oClose n x = false → ∀ a, t.reg a = s.reg a)) ∧
          ((l ^^^ w.lvl).toNat % 4 ≠ 0 → both →
            ∃ t, exec (.quadTransition n lvl pos) s = .next t ∧ illegal t l ∧
              (w.early = true → countedOne s t (F.ORYn_ERRCNT_EARLY n))) ∧
          ((l ^^^ w.lvl).toNat % 4 ≠ 0 → ¬ both →
            exec (.quadTransition n lvl pos) s = .next ((r.1.oQuadSettle n).oQuadArrive n l x)))) ∧
      (((w.x.t : Int) + 128 ≤ s.oFloor n ∨ w.x.at' + 1920 ≤ s.tickPos 0) → s.oQuadDue n = s.oQuadSettle n) ∧
      (s.oFloor n < (w.x.t : Int) + 128 → s.tickPos 0 < w.x.at' + 1920 → s.oQuadDue n = s) ∧
      let t := s.oQuadSettle n
      let d := (quadPlace (w.lvl.toNat % 4) + 4 - quadPlace (o.lvl.toNat % 4)) % 4
      (t.ory[n].lvl = w.lvl ∧ t.ory[n].qwait = none ∧
        (w.early = true → countedOne s t (F.ORYn_ERRCNT_EARLY n) ∧ t.ron (F.ORYn_EVT_EARLY_S n) = true ∧ t.ory[n].suspect = true ∧
          t.ory[n].pos = o.pos ∧ t.ory[n].hist = o.hist) ∧
        (w.early = false → w.z = false → t.ory[n].sync = o.sync ∧
          (d = 1 → t.ory[n].pos = (o.pos + 1) % s.oSteps n ∧ t.ory[n].back = false) ∧
          (d = 3 → 1 < s.oSteps n → t.ory[n].pos = (o.pos + s.oSteps n - 1) % s.oSteps n ∧ t.ory[n].back = true) ∧
          broadcasts s t n w.x.due false)))

/-- The corrected sine and cosine of a sampled pair, the cosine with the phase word's share of the sine (R178). -/
def pairIn (s : State) (n : Fin 4) (a b : BitVec 14) : Int × Int :=
  let q := 0xD0 + 8 * n.val
  let sine := s.correct a.toInt q (q + 1)
  (sine, s.correct b.toInt (q + 2) (q + 3) + sine * signed (s.calUser (q + 4)).toNat 16 / 2 ^ 15)

/-- The square of a pair's amplitude. -/
def ampOf (s : State) (n : Fin 4) (a b : BitVec 14) : Nat := ((pairIn s n a b).1 * (pairIn s n a b).1 + (pairIn s n a b).2 * (pairIn s n a b).2).toNat

/-- VDDA is present and a pair's amplitude lies in the window (R172, R353). -/
def inWindow (s : State) (n : Fin 4) (a b : BitVec 14) : Prop :=
  s.ron F.PW_STAT_VDDA_OK = true ∧ s.rget (F.ORYn_SC_AMP_AMIN n) * s.rget (F.ORYn_SC_AMP_AMIN n) ≤ ampOf s n a b ∧
    ampOf s n a b ≤ s.rget (F.ORYn_SC_AMP_AMAX n) * s.rget (F.ORYn_SC_AMP_AMAX n)

/-- R172, R173, R353: a sample is taken over whole at its instant. One outside the amplitude window, or without VDDA, is counted, and the 64th in
a row loses the track. A good one gives the phase: in ACQ it starts the track at line 0, in REL, or FULL where one line makes a cycle; later
the phase's wrap, over less than half a cycle, moves the line by one, and a move of more than 3/8 of a line is counted as a signal fault with
SUSPECT. It is the latest validated edge, which a broadcast shows 1,220 ns after its instant. -/
def samplesTaken : Prop :=
  ∀ (n : Fin 4) (a b : BitVec 14) (s : State), oryTakes s →
    let o := s.ory[n]
    let phi := phase12 (pairIn s n a b).1 (pairIn s n a b).2
    let d := halfRange ((phi : Int) - o.phi) 4096
    (s.oType n ≠ 3 ∨ o.sync = .off ∨ s.oSampleAt n = none → exec (.sincosSample n a b) s = .next s) ∧
    (∀ at' : Nat, s.oType n = 3 → o.sync ≠ .off → s.oSampleAt n = some at' →
      ∃ t, exec (.sincosSample n a b) s = .next t ∧ t.ory[n].rawS = a ∧ t.ory[n].rawC = b ∧
        t.ory[n].ampl = min (Nat.sqrt (ampOf s n a b)) 65535 ∧
        (¬ inWindow s n a b → countedOne s t (F.ORYn_ERRCNT2_SIGNAL n) ∧ t.ron (F.ORYn_EVT_SIGNAL_S n) = true ∧
          t.ory[n].bad = (if 64 ≤ o.bad + 1 ∧ o.sync ≠ .acq then 0 else o.bad + 1) ∧
          t.ory[n].sync = (if 64 ≤ o.bad + 1 ∧ o.sync ≠ .acq then .acq else o.sync) ∧
          (64 ≤ o.bad + 1 → o.sync ≠ .acq → t.ory[n].hist = []) ∧
          (o.bad + 1 < 64 → t.ory[n].pos = o.pos ∧ t.ory[n].phi = o.phi ∧ t.ory[n].hist = o.hist)) ∧
        (inWindow s n a b → t.ory[n].phi = phi ∧ t.ory[n].bad = 0 ∧ broadcasts s t n (s.spine.tick + 1220) false ∧
          (∃ y ys, t.ory[n].hist = y :: ys ∧ y.t = at' ∧ y.base = s.oBase n t.ory[n].cyc t.ory[n].pos phi) ∧
          (o.sync = .acq → t.ory[n].pos = 0 ∧ t.ory[n].cyc = 0 ∧ t.ory[n].sync = (if s.oSteps n = 1 then .full else .rel)) ∧
          (o.sync ≠ .acq → t.ory[n].sync = o.sync ∧ t.ory[n].unwrapped = o.unwrapped + d ∧
            (0 ≤ d → phi < o.phi → t.ory[n].pos = (o.pos + 1) % s.oSteps n) ∧
            (d < 0 → o.phi < phi → 1 < s.oSteps n → t.ory[n].pos = (o.pos + s.oSteps n - 1) % s.oSteps n) ∧
            ((0 ≤ d ∧ o.phi ≤ phi) ∨ (d < 0 ∧ phi ≤ o.phi) → t.ory[n].pos = o.pos) ∧
            (1536 < d.natAbs → t.ory[n].suspect = true ∧ countedOne s t (F.ORYn_ERRCNT2_SIGNAL n)) ∧
            (d.natAbs ≤ 1536 → t.ory[n].suspect = o.suspect)))) ∧
    (∀ v : Int, 0 < v → phase12 0 v = 0 ∧ phase12 v 0 = 1024 ∧ phase12 0 (-v) = 2048 ∧ phase12 (-v) 0 = 3072) ∧
    (s.spine.hold = none → ∀ at', s.oSampleAt n = some at' →
      s.now ≤ at' ∧ at' < s.tAhead 1 ∧ (at' : Int) % 64000 = s.rget (F.ORYn_SC_CFG_PH n) * 64 % 64000)

/-- R174: a marker makes the boundary nearest to the estimate line 0, and the track FULL; one less than 40 ns after the previous edge is
counted as early. -/
def trackMarkers : Prop :=
  ∀ (n : Fin 4) (pos : Fin 64) (s : State), oryTakes s →
    let o := s.ory[n]
    let x := s.oMarked n 2 (s.oStamp n 2 pos)
    (s.oInputOff n 2 = true ∨ s.oType n ≠ 3 ∨ o.sync = .off ∨ s.oDead n 2 (s.oStamp n 2 pos) = true →
      exec (.sincosIndex n pos) s = .next s) ∧
    (s.oInputOff n 2 = false → s.oType n = 3 → o.sync ≠ .off → s.oDead n 2 (s.oStamp n 2 pos) = false →
      ∃ t, exec (.sincosIndex n pos) s = .next t ∧ t.ory[n].phi = o.phi ∧
        (o.sync = .rel ∨ o.sync = .full → s.oClose n x = true → countedOne s t (F.ORYn_ERRCNT_EARLY n) ∧ t.ory[n].pos = o.pos ∧
          t.ory[n].sync = o.sync ∧ t.ory[n].hist = o.hist) ∧
        (o.sync = .rel ∨ (o.sync = .full ∧ o.idxNet = none) → s.oClose n x = false → 0 < s.oSteps n → t.ory[n].sync = .full ∧
          (t.ory[n].pos : Int) = -(s.oNearLine n x.t) % (s.oSteps n : Int) ∧
          (o.sync = .rel → countedOne s t (F.ORYn_ERRCNT_RESYNC n))))

/-- R168, R175 to R177: standstill is declared once, when no edge stamped before its time can still come; a wheel that cannot keep its position
falls from TURN and FULL to ACQ, and one in ACQ takes no interval over it. -/
def standstill : Prop :=
  ∀ (n : Fin 4) (s : State), oryTakes s →
    let o := s.ory[n]
    let lim := s.rget (F.ORYn_MOTION_STILL_MS n) * 1000000 * 64
    (o.sync = .off ∨ o.still = true ∨ s.oLastT n = none ∨ (∃ te, s.oLastT n = some te ∧ (s.now < te + lim ∨ s.oQuiet n (te + lim) = false)) →
      exec (.still n) s = .next s) ∧
    (∀ te, o.sync ≠ .off → o.still = false → s.oLastT n = some te → te + lim ≤ s.now → s.oQuiet n (te + lim) = true →
      ∃ t, exec (.still n) s = .next t ∧ t.ory[n].still = true ∧ t.ory[n].ivals = [] ∧ t.ron (F.ORYn_EVT_STILL_S n) = true ∧
        (s.oType n = 0 → o.sync = .acq → t.ory[n].tooth = none ∧ t.ory[n].pLast = 0) ∧
        (if s.oType n = 0 ∧ (s.ron (F.ORYn_CTRL_KEEP n) = false ∨ s.rget (F.ORYn_CTRL_DIRMODE n) = 0) ∧ (o.sync = .turn ∨ o.sync = .full)
        then t.ory[n].sync = .acq ∧ t.ory[n].hist = [] else t.ory[n].sync = o.sync ∧ t.ory[n].hist = o.hist))

/-- R154, R155, R168 to R178, R353: the other decoders: Hall sensors, quadrature, sine/cosine tracks, and standstill.
Choices of the model: log entries 2, 7, 44, 90, 92 and 110. -/
def Obligations.SectorAndTrackDecoding : Prop := hallChanges ∧ quadTransitions ∧ samplesTaken ∧ trackMarkers ∧ standstill

/-- A command of `ORYn_CMD` has been written: it waits for the next tick, and nothing else has changed (R181). -/
def oryPosted (s : State) (n : Fin 4) (op : Nat) : State :=
  s.modOry n (fun o => { o with cmds := o.cmds ++ [(s.spine.tick, op)] })

/-- R181, R319: a write of `ORYn_CMD` answers a next state in which its command waits; domain ORY holds REACQ and SETPOS. -/
def oryWritesComplete : Prop :=
  ∀ (p : Path) (n : Fin 4) (s : State), s.takesWrites = true →
    exec (.oryNop p n) s = .next (oryPosted s n 0) ∧
    exec (.clrCnt p n) s = .next (oryPosted s n 3) ∧
    (s.locked 3 = false → exec (.reacq p n) s = .next (oryPosted s n 1) ∧ exec (.setpos p n) s = .next (oryPosted s n 2)) ∧
    (s.locked 3 = true → (∃ t, exec (.reacq p n) s = .next t ∧ countedOne s t F.GL_LOCK_VIOL_CNT ∧ t.ron F.GL_EVT_LOCK_S = true ∧
      s.sameBlocks t) ∧ (∃ t, exec (.setpos p n) s = .next t ∧ countedOne s t F.GL_LOCK_VIOL_CNT ∧ s.sameBlocks t))

/-- What a command of `ORYn_CMD` has done between two states (R181): NOP is accepted; CLRCNT clears both error counters; REACQ restarts
acquisition, and SETPOS gives the last validated edge the operand's angle, counting a resync, or is refused while there is none. -/
def oryDone (s t : State) (n : Fin 4) (op : Nat) : Prop :=
  let o := s.ory[n]
  let others (l : List Nat) : Prop := ∀ a, R.ORYn_CTRL n ≤ a → a < R.ORYn_CTRL n + 0x1000 → a ∉ l → t.reg a = s.reg a
  (op = 0 → t.ron (F.ORYn_STAT_CMD_REF n) = false ∧ t.ory[n] = { o with cmds := [] } ∧ others [R.ORYn_STAT n]) ∧
  (op = 3 → t.reg (R.ORYn_ERRCNT n) = 0 ∧ t.reg (R.ORYn_ERRCNT2 n) = 0 ∧ t.ron (F.ORYn_STAT_CMD_REF n) = false ∧
    t.ory[n] = { o with cmds := [] } ∧ others [R.ORYn_STAT n, R.ORYn_ERRCNT n, R.ORYn_ERRCNT2 n]) ∧
  (op = 1 → t.ron (F.ORYn_STAT_CMD_REF n) = false ∧
    (o.sync = .off → t.ory[n] = { o with cmds := [] }) ∧
    (o.sync ≠ .off → t.ory[n].still = true ∧ t.ory[n].back = false ∧ t.ory[n].cyc = 0 ∧ t.ory[n].bcs = [] ∧
      t.ory[n].seen = t.ory[n].view) ∧
    (o.sync ≠ .off → s.oType n = 0 ∨ s.oType n = 3 → t.ory[n].sync = .acq ∧ t.ory[n].hist = []) ∧
    (∀ j, o.sync ≠ .off → s.oType n = 1 → hallSector (s.oLevels n).toNat = some j → t.ory[n].sync = .rel ∧ t.ory[n].pos = j) ∧
    (o.sync ≠ .off → s.oType n = 2 → t.ory[n].sync = .rel ∧ t.ory[n].pos = 0)) ∧
  (op = 2 → (o.hist = [] ∨ o.sync = .off ∨ o.sync = .acq → t.ron (F.ORYn_STAT_CMD_REF n) = true ∧ t.ron (F.ORYn_EVT_CFG_ERR_S n) = true ∧
      t.ory[n] = { o with cmds := [] }) ∧
    (∀ x xs, o.hist = x :: xs → (o.sync = .turn ∨ o.sync = .rel ∨ o.sync = .full) →
      t.ron (F.ORYn_STAT_CMD_REF n) = false ∧ t.ory[n].sync = .full ∧ countedOne s t (F.ORYn_ERRCNT_RESYNC n) ∧
      broadcasts s t n (s.spine.tick + 20) true ∧
      ∃ y, t.ory[n].hist = y :: xs ∧ y.t = x.t ∧ s.oZero n y.base = (s.reg (R.ORYn_OPD n)).toNat))

/-- R181, R182: a step of a counting device with an empty queue, which is a tick: one command that waits from an earlier tick executes in it,
behind the tick's edges, and none waits then; one written in the present tick still waits. Nothing else changes at any Orrery. -/
def oryCommandsExecute : Prop :=
  ∀ (n : Fin 4) (k op : Nat) (s : State), onlyWork s n → s.ory[n].camWait = none → s.ory[n].cmds = [(k, op)] →
    ∃ t, Machine.step s = .next t ∧ t.spine.tick = s.spine.tick + 1 ∧ (∀ m : Fin 4, m ≠ n → t.ory[m] = s.ory[m]) ∧
      (k < s.spine.tick → t.ory[n].cmds = [] ∧ oryDone s t n op) ∧ (s.spine.tick ≤ k → t.ory[n] = s.ory[n])

/-- R181, R182, R319: the commands of `ORYn_CMD`: every write completes, and the command that it makes wait executes in the next tick.
Choices of the model: log entries 1, 5 and 90. -/
def Obligations.OrreryCommands : Prop := oryWritesComplete ∧ oryCommandsExecute

/-- R195 to R200: the converters. A host request joins a queue with room, and is refused and counted otherwise; a due conversion holds at
the first free instant, marked where the 200 ns after the previous hold moved it there; its result, corrected and limited to twelve bits, is the last one and leaves the held list. A read index beyond
the write index is ignored, another is taken, and the samples lost meanwhile are reported once the buffer has space.
Choices of the model: log entries 2, 46 and 47. -/
def Obligations.ConvertersRun : Prop :=
  (∀ (p : Path) (k : Fin 2) (ain : Fin 16) (s : State), s.takesWrites = true →
    ∃ t, exec (.cvCmd p k ain) s = .next t ∧
      (s.convRoom k 1 = true → t.conv = (s.convPush k ⟨ain, 5, s.now + 1, false, none, s.spine.tick, none, false⟩).conv ∧ (∀ o, t.reg o = s.reg o) ∧
        State.sameBlocks { s with conv := t.conv } t) ∧
      (s.convRoom k 1 = false → countedOne s t (F.CVk_CNT_REFUSED k) ∧ t.ron (trgRef k) = true ∧
        s.sameRegsBut t [R.CVk_CNT k, R.CV_EVT] ∧ s.sameBlocks t)) ∧
  (∀ (k : Fin 2) (s : State), s.takesEvents = true →
    (s.convReady k = false → exec (.convHold k) s = .next s) ∧
    (∀ q rest, s.conv[k].queue = q :: rest → s.convReady k = true →
      ∃ t, exec (.convHold k) s = .next t ∧ t.conv[k].queue = rest ∧
        t.conv[k].held = s.conv[k].held ++ [⟨q, s.now, q.moved, s.ron F.SPN_STAT_COARSE⟩] ∧ t.conv[k].lastHold = some s.now ∧
        (q.moved = true → countedOne s t (F.CVk_CNT_DELAYED k)) ∧
        s.sameRegsBut t [R.CVk_CNT k] ∧ State.sameBlocks { s with conv := t.conv } t) ∧
    (∀ q rest, s.conv[k].queue = q :: rest → s.convTick k =
      (if q.due ≤ s.now ∧ s.convApart k = false then s.modConv k (fun x => { x with queue := { q with moved := true } :: rest }) else s))) ∧
  (∀ (k : Fin 2) (raw : BitVec 12) (s : State), s.takesEvents = true →
    (s.conv[k].held = [] → exec (.convResult k raw) s = .next s) ∧
    (∀ h rest, s.conv[k].held = h :: rest →
      let v := s.correct raw.toNat (0xF0 + 4 * k) (0xF1 + 4 * k)
      let c := min 4095 (max 0 v)
      ∃ t, exec (.convResult k raw) s = .next t ∧ s.sameFar t ∧ t.ch = s.ch ∧ t.conv[k].held = rest ∧ t.conv[k].queue = s.conv[k].queue ∧
        t.reg (R.CVk_LAST k) = word (c.toNat + 4096 * b2n (decide (v < 0 ∨ 4095 < v)) + 65536 * raw.toNat + 2 ^ 28 * h.conv.ain))) ∧
  (∀ (p : Path) (b : Fin 6) (v : Word) (s : State), s.takesWrites = true →
    let old := s.rget (F.CVBUFb_RDIDX_RDIDX b)
    let wr := s.rget (F.CVBUFb_WRIDX_WRIDX b)
    let beyond := (wr + 2 ^ 32 - old) % 2 ^ 32 < (v.toNat + 2 ^ 32 - old) % 2 ^ 32
    ∃ t, exec (.cvbufRdidxWrite p b v) s = .next t ∧
      (beyond → t.ron F.CV_EVT_CFG_ERR_S = true ∧ s.sameRegsBut t [R.CV_EVT] ∧ s.sameBlocks t) ∧
      (¬ beyond → t.reg (R.CVBUFb_RDIDX b) = v ∧ s.sameRegsBut t [R.CVBUFb_RDIDX b] ∧ State.sameBlocks { s with sbuf := t.sbuf } t ∧
        t.sbuf[b].lost = (if (s.ron (F.CVBUFb_CFG_MODE b) = true ∧ (wr + 2 ^ 32 - v.toNat) % 2 ^ 32 = s.sbufSize b) then s.sbuf[b].lost else 0)))

/-! ### Rings -/

/-- Only the record queue, the rings, SRAM and host memory, and reports, have changed. -/
def onlyRings (s t : State) : Prop :=
  State.sameBlocks { s with rings := t.rings, sram := t.sram, host := t.host } t

/-- A host memory, and a ring's head copy written over it where the ring keeps one (R238): HEAD and LOSTCNT as they stand in t. -/
def withCopy (t : State) (n : Fin 64) (m : Tbl Byte) : Tbl Byte :=
  if t.ron (F.RINGn_CFG_HIDX_EN n) ∧ t.ringOnChip n = false then
    memWrWs m ((t.reg (R.RINGn_HADDR_LO n)).toNat + 2 ^ 32 * (t.reg (R.RINGn_HADDR_HI n)).toNat)
      [t.reg (R.RINGn_HEAD n), t.reg (R.RINGn_LOSTCNT n)]
  else m

/-- The memories after one entry of an event ring and the head copy are written (R236, R238): in SRAM, or in host memory. -/
def entryWritten (s t : State) (n : Fin 64) (i : Nat) (ws : List Word) : Prop :=
  if s.ringOnChip n then t.sram = memWrWs s.sram (s.ringAddr n i) ws ∧ t.host = s.host
  else t.sram = s.sram ∧ t.host = withCopy t n (memWrWs s.host (s.ringAddr n i) ws)

/-- What the record writer does with the oldest record r of the queue, for ring n: the ring takes it, or refuses it. -/
def recordTaken (s t : State) (n : Fin 64) (r : Rec) (rs : List Rec) : Prop :=
  onlyRings s t ∧
  (s.eventRing n = true → s.ringStopped n = false → (s.ringOnChip n = true ∨ s.hostOpen = true) →
    s.rget (F.RINGn_LOSTCNT_CNT n) = 0 → s.ringFull n = false →
    t.recq = rs ∧ t.rget (F.RINGn_HEAD_HEAD n) = (s.rget (F.RINGn_HEAD_HEAD n) + 1) % 2 ^ 32 ∧
    entryWritten s t n (s.rget (F.RINGn_HEAD_HEAD n)) (s.recWords r) ∧ t.rings = s.rings ∧ s.sameRegsBut t [R.RINGn_HEAD n]) ∧
  (s.eventRing n = false ∨ s.ringStopped n = true ∨ (s.ringOnChip n = false ∧ s.hostOpen = false) ∨
    s.rget (F.RINGn_LOSTCNT_CNT n) ≠ 0 ∨ s.ringFull n = true →
    countedOne s t (F.RINGn_LOSTCNT_CNT n) ∧ t.rget (F.RINGn_REFUSED_CNT n) = (s.rget (F.RINGn_REFUSED_CNT n) + 1) % 2 ^ 32 ∧
    t.ron (F.RINGn_EVT_LOST_S n) = true ∧ (t.rings[n].last = some ⟨r.src, r.type, r.seq⟩) ∧
    t.reg (R.RINGn_HEAD n) = s.reg (R.RINGn_HEAD n) ∧ t.sram = s.sram ∧ (r.type ≠ 0x27 → t.recq = rs) ∧
    t.host = (if s.eventRing n = true ∧ s.ringStopped n = false ∧ s.hostOpen = true then withCopy t n s.host else s.host) ∧
    s.sameRegsBut t [R.RINGn_LOSTCNT n, R.RINGn_REFUSED n, R.RINGn_EVT n, R.RINGn_STAT n, R.LH_REFUSED, R.LH_EVT])

/-- R17, R25, R235, R238, R244: the record writer takes the oldest record. A ring that runs, with room and nothing to report, takes it at its head,
which advances; any other refuses it, and counts it; the head copy follows. An empty queue changes nothing. A writer that so leaves its
ceiling wakes the threads that wait for record space, and lets the channels hand over what they hold back.
Choices of the model: log entries 2, 15, 17, 49 and 84. -/
def Obligations.RecordWriterWritesOrRefuses : Prop :=
  ∀ s : State, s.takesEvents = true →
    (s.recq = [] → exec .recordWrite s = .next s) ∧
    (∀ r rs, s.recq = r :: rs → ∀ n : Fin 64, r.ring = n →
      ∃ m t, recordTaken s m n r rs ∧ exec .recordWrite s = .next t ∧ (s.atCeil = false ∨ m.atCeil = true → t = m) ∧
        t.rings = m.rings ∧ t.sram = m.sram ∧ t.host = m.host ∧ (∀ x ∈ m.recq, x ∈ t.recq) ∧
        (s.atCeil = true → m.atCeil = false → ∀ (e : Fin 8) (h : Fin 16), (s.thr e h).state = .parked → (s.thr e h).park = .space .writer →
          nbit (t.thr e h).pend.toNat 10 = true ∧ (nbit (s.thr e h).pend.toNat 10 = false → (t.thr e h).state = .ready)))

/-- What `onlyRings` says, but that threads and channels have made use of room that the record writer has got (R25, R102, R135). -/
def ringsAndRoom (s t : State) : Prop :=
  State.sameBlocks { s with rings := t.rings, sram := t.sram, host := t.host, gaf := t.gaf, ch := t.ch } t ∧
  (s.atCeil = false → onlyRings s t)

/-- R236 to R239, R243, R244: host writes of a ring's indices and enable. A tail within the ring's size is taken, another is an index
error; enabling clears head, tail and lost count where the extent fits, and is refused otherwise; disabling, and an error of the host,
refuse every record that waits for the ring, which can give the record writer room. Enabling writes the head copy; where the host path is
closed to it, the ring stops with HOSTERR at that access.
Choices of the model: log entries 49, 50, 51 and 52. -/
def Obligations.RingHostWrites : Prop :=
  ∀ (p : Path) (n : Fin 64) (v : Word) (s : State), s.takesWrites = true →
    let count := (if s.ron (F.RINGn_CFG_DIR n) then v.toNat + 2 ^ 32 - s.rget (F.RINGn_HEAD_HEAD n)
      else s.rget (F.RINGn_HEAD_HEAD n) + 2 ^ 32 - v.toNat) % 2 ^ 32
    (∃ t, exec (.ringTailWrite p n v) s = .next t ∧ onlyRings s t ∧
      (count ≤ s.ringSize n → t.reg (R.RINGn_TAIL n) = v ∧
        (s.rget (F.RINGn_LOSTCNT_CNT n) = 0 → s.sameRegsBut t [R.RINGn_TAIL n] ∧ t.rings = s.rings ∧ t.sram = s.sram ∧ t.host = s.host) ∧
        (s.rget (F.RINGn_LOSTCNT_CNT n) ≠ 0 → s.eventRing n = true → s.ringStopped n = false → count < s.ringSize n →
          t.rget (F.RINGn_LOSTCNT_CNT n) = 0 ∧ t.rget (F.RINGn_HEAD_HEAD n) = (s.rget (F.RINGn_HEAD_HEAD n) + 1) % 2 ^ 32 ∧
          t.rings[n].first = none ∧ t.rings[n].last = none)) ∧
      (s.ringSize n < count → t.reg (R.RINGn_TAIL n) = s.reg (R.RINGn_TAIL n) ∧ t.ron (F.RINGn_EVT_IDX_ERR_S n) = true ∧
        t.rget (F.RINGn_STAT_ERR n) = (if s.ringStopped n then 2 else 1) ∧ s.sameRegsBut t [R.RINGn_STAT n, R.RINGn_EVT n])) ∧
    (let new := s.ringCfgSet n (v ||| 1)
      let lost := new.ron (F.RINGn_CFG_HIDX_EN n) = true ∧ new.ringOnChip n = false ∧ s.hostOpen = false
      ∃ t, exec (.ringEnable p n v) s = .next t ∧ ringsAndRoom s t ∧
      (s.ron (F.RINGn_CFG_EN n) = false → s.locked 4 = false → new.ringFits n = true →
        t.ron (F.RINGn_CFG_EN n) = true ∧ t.reg (R.RINGn_HEAD n) = 0 ∧ t.reg (R.RINGn_TAIL n) = 0 ∧ t.rget (F.RINGn_CFG_CPL n) = wfld v 16 6 ∧
        t.sram = s.sram ∧
        (¬ lost → t.reg (R.RINGn_LOSTCNT n) = 0 ∧ t.rget (F.RINGn_STAT_ERR n) = 0 ∧ t.host = withCopy t n s.host) ∧
        (lost → t.rget (F.RINGn_STAT_ERR n) = 2 ∧ t.ron (F.RINGn_EVT_HOSTERR_S n) = true ∧
          (s.atCeil = false → ∀ r ∈ t.recq, r.ring ≠ n.val) ∧ t.host = s.host)) ∧
      (s.ron (F.RINGn_CFG_EN n) = false → s.locked 4 = false → new.ringFits n = false →
        t.ron (F.RINGn_CFG_EN n) = false ∧ t.ron (F.RINGn_EVT_CFG_ERR_S n) = true ∧
        t.rget (F.RINGn_STAT_ERR n) = (if s.ringStopped n then 2 else 3)) ∧
      (s.ron (F.RINGn_CFG_EN n) = true → s.locked 4 = false → wfld v 1 31 = wfld (s.reg (R.RINGn_CFG n)) 1 31 → t = s)) ∧
    (∃ t, exec (.ringDisable p n v) s = .next t ∧ ringsAndRoom s t ∧
      (s.ron (F.RINGn_CFG_EN n) = true → t.ron (F.RINGn_CFG_EN n) = false ∧ (∀ r ∈ t.recq, r.ring ≠ n.val) ∧
        t.reg (R.RINGn_HEAD n) = s.reg (R.RINGn_HEAD n) ∧ t.reg (R.RINGn_TAIL n) = s.reg (R.RINGn_TAIL n) ∧ t.sram = s.sram ∧
        t.host = s.host)) ∧
    (n ∉ s.hostRings → exec (.ringHosterr n) s = .next s) ∧
    (n ∈ s.hostRings → ∃ t, exec (.ringHosterr n) s = .next t ∧ ringsAndRoom s t ∧ t.rget (F.RINGn_STAT_ERR n) = 2 ∧
      t.ron (F.RINGn_EVT_HOSTERR_S n) = true ∧ (s.atCeil = false → ∀ r ∈ t.recq, r.ring ≠ n.val) ∧ t.sram = s.sram ∧ t.host = s.host)

/-- A ring's front command, which may execute, and the entries behind it, the first of which an ECC error has not skipped. -/
def fronts (s : State) (n : Fin 64) (w : Vector Word 8) (rest : List CmdWords) : Prop :=
  s.takesEvents = true ∧ s.ringMay n = true ∧ s.rings[n].fetched = some w :: rest ∧ rest.head? ≠ some none

/-- The front command has left its ring, and no other ring has changed. -/
def popped (s t : State) (n : Fin 64) (rest : List CmdWords) : Prop :=
  t.rings = (s.modRing n (fun x => { x with fetched := rest })).rings

/-- The result of a ring-level command goes to the event ring that CPL names, where that runs (R242). -/
def ringAnswer (s t : State) (n : Fin 64) (w : Vector Word 8) (result : Nat) : Prop :=
  let c := s.rget (F.RINGn_CFG_CPL n)
  if s.eventRing c then
    t.recq = s.recq ++ [⟨0x02, 128 + n.val, s.nextSeq (128 + n.val), s.now, s.coarseFlag,
      word (cmdSeq w + 65536 * cmdOp w + 2 ^ 22 * result), word n, w[2], w[3], c⟩]
  else t.recq = s.recq ∧ countedOne s t F.EC_DISCARD_CNT

/-- R22, R240 to R243: the fetcher takes up to eight entries behind the head, which advances by as many; a corrected ECC error in one is
counted, and one with an uncorrectable error is skipped and completes with result ECC. FENCE, MARK and an illegal
ring-level command leave their ring, the last two with their result. A ring whose front command is another's, or may not execute,
is left alone.
Choices of the model: log entries 2, 48, 49 and 83. -/
def Obligations.CommandRingsRun : Prop :=
  (∀ (n : Fin 64) (bad corr : BitVec 8) (s : State), s.takesEvents = true →
    let k := min 8 (s.ringCount n)
    let h := s.rget (F.RINGn_HEAD_HEAD n)
    (s.fetches n = false ∨ s.ringCount n = 0 → exec (.commandFetch n bad corr) s = .next s) ∧
    (s.fetches n = true → s.ringCount n ≠ 0 → bad = 0 → s.rings[n].fetched.head? ≠ some none →
      ∃ t, exec (.commandFetch n bad corr) s = .next t ∧ State.sameBlocks { s with rings := t.rings, host := t.host, free := t.free } t ∧
        t.rget (F.RINGn_HEAD_HEAD n) = (h + k) % 2 ^ 32 ∧
        (s.ringOnChip n = false ∨ corr = 0 → s.sameRegsBut t [R.RINGn_HEAD n] ∧ t.free = s.free) ∧
        (s.ringOnChip n = true → s.sameRegsBut t [R.RINGn_HEAD n, R.HL_ECC, R.HL_EVT] ∧
          t.rget F.HL_ECC_CORR = min (s.rget F.HL_ECC_CORR + (List.range k).countP (fun i => nbit corr.toNat i)) 65535) ∧
        let es : List CmdWords := (List.range k).map (fun i => some (s.ringLoad n (h + i)))
        t.rings = (s.modRing n (fun x => { x with fetched := x.fetched ++ es })).rings) ∧
    (s.fetches n = true → s.ringOnChip n = true → s.ringCount n = 1 → nbit bad.toNat 0 = true → s.rings[n].fetched = [] →
      ∃ t i, exec (.commandFetch n bad corr) s = .next t ∧ i < 8 ∧ State.sameBlocks { s with free := t.free } t ∧
        t.rget (F.RINGn_HEAD_HEAD n) = (h + 1) % 2 ^ 32 ∧ countedOne s t F.HL_ECC_UNCORR ∧
        t.reg R.HL_ECCADDR = word (s.ringAddr n h + 4 * i) ∧ t.ron F.HL_EVT_ECC_U_S = true ∧
        s.sameRegsBut t [R.RINGn_HEAD n, R.HL_ECC, R.HL_ECCADDR, R.HL_EVT] ∧
        (s.eventRing (s.rget (F.RINGn_CFG_CPL n)) = true → ∃ r, t.recq.getLast? = some r ∧ r.type = 0x02 ∧ r.src = 128 + n.val ∧
          r.w4 = word (2 ^ 22 * 9) ∧ r.w5 = word n ∧ r.w6 = 0 ∧ r.w7 = 0 ∧ r.ring = s.rget (F.RINGn_CFG_CPL n)))) ∧
  (∀ (n : Fin 64) (w : Vector Word 8) (rest : List CmdWords) (s : State), fronts s n w rest →
    (cmdOp w = 0x20 → ∃ t, exec (.fence n) s = .next t ∧ popped s t n rest ∧ t.recq = s.recq ∧ (∀ o, t.reg o = s.reg o) ∧
      exec (.mark n) s = .next s) ∧
    (cmdOp w = 0x21 → ∃ t, exec (.mark n) s = .next t ∧ popped s t n rest ∧ ringAnswer s t n w 0 ∧ s.sameRegsBut t [] ∧
      exec (.fence n) s = .next s) ∧
    (s.ringIllegalOp n (cmdOp w) = true →
      ∃ t, exec (.ringIllegal n) s = .next t ∧ popped s t n rest ∧ ringAnswer s t n w 7 ∧ s.sameRegsBut t []) ∧
    (s.ringIllegalOp n (cmdOp w) = false → exec (.ringIllegal n) s = .next s))

/-! ### The Lehr -/

/-- Only the Lehr, the rings, SRAM, host memory, Gaffer threads and the free-value counter have changed, reports apart. -/
def onlyLehr (s t : State) : Prop :=
  State.sameBlocks { s with lehr := t.lehr, rings := t.rings, gaf := t.gaf, sram := t.sram, host := t.host, free := t.free } t

/-- Every handle but one is held as it was, in the same place. -/
def otherHandles (s t : State) (h : Nat) : Prop := ∀ k, k ≠ h → t.lhFind k = s.lhFind k

/-- The row of a Lehr command that changes an entry. -/
def lhRow (n : Fin 64) (op : Fin 3) : Instr := match op with | 0 => .arm n | 1 => .cancel n | 2 => .move n

/-- The Lehr has met an error of host memory (R228, R299): it is shown and reported, and no entry and no ring has changed. -/
def lehrStopped (s t : State) : Prop :=
  t.ron F.LH_STAT_HOSTERR = true ∧ t.ron F.LH_EVT_HOSTERR_S = true ∧ s.sameRegsBut t [R.LH_STAT, R.LH_EVT] ∧ s.sameBlocks t

/-- The near cache of the host mode fills with an entry that is placed near: that is shown (R220). -/
def nearFills (t : State) : Prop := t.ron F.LH_EVT_NEAR_FULL_S = true ∧ t.lehr.nearFull = true

/-- R10, R203, R207, R213 to R215, R218, R220, R228: the commands of the Lehr. A refused one is counted and changes no entry; ARM places a new
deadline where the boundaries say, MOVE gives an entry another and places it again, CANCEL takes an entry out; every other entry
stays as it is. One that needs near space where there is none stalls the Lehr; one that needs host memory waits while a host error stands or
others use the DMA, and meets a host error where host memory cannot be reached. NOP and an illegal OP change no entry. A CANCEL or MOVE of
an entry that ECC lost writes ST = FREE.
Choices of the model: log entries 39, 48, 49, 53 and 83. -/
def Obligations.LehrCommandsExecute : Prop :=
  ∀ (n : Fin 64) (w : Vector Word 8) (rest : List CmdWords) (s : State), fronts s n w rest → s.rget (F.RINGn_CFG_CONS n) = 1 →
    let h := lhHandle w
    (∀ op : Fin 3, cmdOp w = op.val + 1 →
      (s.lhNeedsHost w = true → s.lhWaits = true ∨ s.lhServed = false → exec (lhRow n op) s = .next s) ∧
      (s.lhNeedsHost w = true → s.lhWaits = false → s.lhServed = true → s.lhClosed = true →
        ∃ t, exec (lhRow n op) s = .next t ∧ lehrStopped s t) ∧
      (s.lhNeedsHost w = false ∨ (s.lhWaits = false ∧ s.lhServed = true ∧ s.lhClosed = false) →
        ∃ t, exec (lhRow n op) s = .next t ∧ onlyLehr s t ∧
        (s.lhJudge w ≠ 0 → popped s t n rest ∧ (∀ k, t.lhFind k = s.lhFind k) ∧ countedOne s t F.LH_ERRCNT_CMD ∧
          t.ron F.LH_EVT_CMD_ERR_S = true ∧ s.sameRegsBut t [R.LH_ERRCNT, R.LH_EVT] ∧
          (∀ e, s.lhLost h = some e → s.lhStandalone = true → s.lhJudge w = 3 →
            t.lhLost h = none ∧ memRdW t.sram (0x80000 + 16 * h + 12) = lhWord3 h e.dest 0 false)) ∧
        (s.lhJudge w = 0 → op.val = 1 ∨ s.lhStalls w = false → popped s t n rest ∧ otherHandles s t h ∧ s.sameRegsBut t [R.LH_EVT] ∧
          (op.val = 1 ∨ s.lhStandalone = true ∨ s.lehr.near.length + 1 < nearSize → s.sameRegsBut t []) ∧
          (op.val = 0 → s.lhStandalone = false → s.lehr.nearFull = false → s.lehr.near.length + 1 = nearSize →
            s.lhPlaceOf (s.lhNewDl w) = 0 → nearFills t) ∧
          (op.val = 0 → ∃ place e, t.lhFind h = some (place, e) ∧ place = s.lhPlaceOf (s.lhNewDl w) ∧ e.dl = s.lhNewDl w ∧
            e.tag = w[4] ∧ e.dest = lhDest w) ∧
          (op.val = 1 → (s.lhAll.map (fun x => x.2.h)).Nodup → t.lhFind h = none) ∧
          (op.val = 2 → (s.lhAll.map (fun x => x.2.h)).Nodup → ∀ old e0, s.lhFind h = some (old, e0) →
            ∃ place e, t.lhFind h = some (place, e) ∧ place = s.lhPlaceOf (s.lhNewDl w) ∧ e.dl = s.lhNewDl w ∧ e.tag = e0.tag ∧
              e.dest = e0.dest ∧ e.step = false)) ∧
        (s.lhJudge w = 0 → op.val ≠ 1 → s.lhStalls w = true → t.lehr = { s.lehr with stall := some n.val } ∧
          t.ron F.LH_STAT_STALL = true ∧ countedOne s t F.LH_PFCNT_STALLS ∧ t.rings = s.rings ∧
          s.sameRegsBut t [R.LH_STAT, R.LH_PFCNT]))) ∧
    (cmdOp w = 0 → ∃ t, exec (.lehrNop n) s = .next t ∧ onlyLehr s t ∧ popped s t n rest ∧ (∀ k, t.lhFind k = s.lhFind k) ∧
      s.sameRegsBut t []) ∧
    (4 ≤ cmdOp w → cmdOp w < 0x20 → ∃ t, exec (.lehrIllegal n) s = .next t ∧ onlyLehr s t ∧ popped s t n rest ∧
      (∀ k, t.lhFind k = s.lhFind k) ∧ countedOne s t F.LH_ERRCNT_CMD ∧ t.ron F.LH_EVT_CMD_ERR_S = true ∧
      s.sameRegsBut t [R.LH_ERRCNT, R.LH_EVT])

/-- The near entry of a due deadline is lost to an uncorrectable error (R228, R371): nothing fires, and its pool entry stays as it was. -/
def nearLost (s t : State) (e : LhEnt) : Prop :=
  e ∈ s.lehr.near ∧ e.dl ≤ (s.lhNow : Int) ∧ (∀ x ∈ s.lehr.near, e.dl ≤ x.dl) ∧
  t.lehr = { s.lehr with near := s.lehr.near.filter (fun x => decide (x.h ≠ e.h)), lost := e :: s.lehr.lost, nearFull := false } ∧
  State.sameBlocks { s with lehr := t.lehr, free := t.free } t ∧ countedOne s t F.HL_ECC_UNCORR ∧ t.ron F.HL_EVT_ECC_U_S = true ∧
  (∃ i, i < 4 ∧ t.reg R.HL_ECCADDR = word (0x80000 + 16 * e.idx + 4 * i)) ∧ s.sameRegsBut t [R.HL_ECC, R.HL_ECCADDR, R.HL_EVT] ∧
  (∀ r, s.routeOf 102 0x16 = some r → s.eventRing r = true → ∃ x, t.recq.getLast? = some x ∧ x.type = 0x16 ∧ x.w4 = 5 ∧ x.w5 = word e.idx)

/-- R10, R204 to R206, R208, R218 to R222, R228: what the passage of time does to the Lehr, in its turn at the DMA engine. A window that fits is
prefetched whole and the boundary moves to the next, unless a cascade that lies no later comes first; cascading moves the other boundary,
and the far entries at the head of their list that lie within the level-2 range, and waits for the prefetch of earlier windows that a step has
skipped; neither loses or makes an entry, and both meet a host error where host memory cannot be reached. Firing takes out one of the entries that are due and
earliest, wakes the thread that its descriptor names, hands its LEHR_FIRE to the descriptor's event ring, and counts
it, a record waiting for the record writer; an uncorrectable ECC error discards it instead. A stalled command runs once there is room. -/
def lehrFollowsTime : Prop :=
  ∀ s : State, s.takesEvents = true →
    let turn := s.ron F.LH_CTRL_EN = true ∧ s.lhWaits = false ∧ s.lhServed = true
    let kept := fun t : State => ∀ h, (t.lhFind h).isSome = (s.lhFind h).isSome
    let pfDue := s.lehr.pb ≤ s.lhNow + s.lhPF * 4096
    let cascDue := s.lehr.l1b ≤ s.lhNow + s.rget F.LH_CASC_LEAD * 4096
    (let k := s.lehr.pb / 4096
      let es := (s.lhSlotList false (k % 4096)).filter (fun e => decide (e.dl < (((k + 1) * 4096 : Nat) : Int)))
      let due := turn ∧ pfDue ∧ ¬ (cascDue ∧ s.lehr.l1b ≤ s.lehr.pb)
      (¬ due → exec .prefetch s = .next s) ∧
      (due → s.lhClosed = true → ∃ t, exec .prefetch s = .next t ∧ lehrStopped s t) ∧
      (due → s.lhClosed = false → ∃ t, exec .prefetch s = .next t ∧ onlyLehr s t ∧ kept t ∧ t.lehr.far = s.lehr.far ∧
        (s.lhStandalone = true ∨ s.lehr.near.length + es.length ≤ nearSize → t.lehr.pb = (k + 1) * 4096 ∧
          t.lehr.near.map (fun e => e.h) = s.lehr.near.map (fun e => e.h) ++ es.map (fun e => e.h)) ∧
        (s.lhStandalone = false → nearSize ≤ s.lehr.near.length → es ≠ [] → t = s) ∧
        (s.lhStandalone = false → s.lehr.near.length < nearSize → nearSize ≤ s.lehr.near.length + es.length → s.lehr.nearFull = false →
          t.lehr.near.length = nearSize ∧ nearFills t))) ∧
    (let j := s.lehr.l1b / 2 ^ 24
      let es := s.lhSlotList true (j % 4096)
      let skipped := pfDue ∧ s.lehr.pb < s.lehr.l1b ∧ (s.lehr.l1b ≤ s.lhNow ∨ (s.lehr.pb ≤ s.lhNow ∧ s.nearRoom = true))
      let due := cascDue ∧ ¬ skipped
      (¬ turn ∨ ¬ due → exec .cascade s = .next s) ∧
      (turn → due → s.lhClosed = true → ∃ t, exec .cascade s = .next t ∧ lehrStopped s t) ∧
      (turn → due → s.lhClosed = false → ∃ t, exec .cascade s = .next t ∧ onlyLehr s t ∧ kept t ∧ t.lehr.pb = s.lehr.pb ∧
        (s.lhStandalone = true ∨ s.lehr.near.length + es.length ≤ nearSize → t.lehr.l1b = (j + 1) * 2 ^ 24 ∧
          ((s.lehr.far.map LhEnt.h).Nodup →
            t.lehr.far = s.lehr.far.dropWhile (fun e => decide (e.dl < (((j + 1 + 4095) * 2 ^ 24 : Nat) : Int))))))) ∧
    (s.ron F.LH_CTRL_EN = false ∨ s.spine.hold ≠ none ∨ (∀ e ∈ s.lehr.near, (s.lhNow : Int) < e.dl) →
      ∀ ecc, exec (.deadlineFire ecc) s = .next s) ∧
    (s.ron F.LH_CTRL_EN = true → s.spine.hold = none → (∃ e ∈ s.lehr.near, e.dl ≤ (s.lhNow : Int)) →
      (∀ ecc, ecc ≠ .bad → s.atCeil = true → (∀ e ∈ s.lehr.near, s.ron (F.LH_DESTd_RING_EN e.dest) = true) →
        exec (.deadlineFire ecc) s = .next s) ∧
      (∀ ecc, ecc ≠ .bad → s.atCeil = false ∨ (∀ e ∈ s.lehr.near, s.ron (F.LH_DESTd_RING_EN e.dest) = false) → ∃ t e, exec (.deadlineFire ecc) s = .next t ∧ onlyLehr s t ∧ e ∈ s.lehr.near ∧ e.dl ≤ (s.lhNow : Int) ∧ (∀ x ∈ s.lehr.near, e.dl ≤ x.dl) ∧
        t.lehr.near = s.lehr.near.filter (fun x => decide (x.h ≠ e.h)) ∧ t.lehr.slots = s.lehr.slots ∧ t.lehr.far = s.lehr.far ∧
        t.rget F.LH_FIRE_CNT_FIRED = (s.rget F.LH_FIRE_CNT_FIRED + 1) % 2 ^ 32 ∧
        (s.ron (F.LH_DESTd_WAKE_EN e.dest) = true →
          nbit (t.thr ⟨s.rget (F.LH_DESTd_GAFFER e.dest) % 8, Nat.mod_lt _ (by decide)⟩
            ⟨s.rget (F.LH_DESTd_THREAD e.dest) % 16, Nat.mod_lt _ (by decide)⟩).pend.toNat 7 = true) ∧
        (let late := (((s.now : Int) - e.dl * 64000) / 64).toNat
         s.ron (F.LH_DESTd_RING_EN e.dest) = true → s.ron (F.RINGn_CFG_DIR (s.rget (F.LH_DESTd_RING e.dest))) = false →
          t.recq = s.recq ++ [⟨0x14, 102, s.nextSeq 102, s.now,
            flLate * b2n (decide (1000 ≤ late)) + flStep * b2n e.step + flTrunc * b2n (decide (2 ^ 32 ≤ late)) + s.coarseFlag, e.tag,
            word (e.h + 2 ^ 23 * e.dest), word (dl40 e.dl), word (min late (2 ^ 32 - 1)), s.rget (F.LH_DESTd_RING e.dest)⟩]) ∧
        (s.ron (F.LH_DESTd_RING_EN e.dest) = false → t.recq = s.recq) ∧
        (ecc = .corrected → countedOne s t F.HL_ECC_CORR)) ∧
      (∃ t e, exec (.deadlineFire .bad) s = .next t ∧ nearLost s t e)) ∧
    (s.lehr.stall = none ∨ s.nearRoom = false ∨ ¬ turn → exec .stallResume s = .next s) ∧
    (∀ (n : Fin 64) w rest, s.lehr.stall = some n.val → s.nearRoom = true → turn →
      s.rings[n].fetched = some w :: rest → rest.head? ≠ some none →
      ∃ t, exec .stallResume s = .next t ∧ onlyLehr s t ∧ t.lehr.stall = none ∧ t.ron F.LH_STAT_STALL = false ∧ popped s t n rest ∧
        otherHandles s t (lhHandle w))

/-- R209, R226 to R228: enabling begins with empty lists at the boundaries of the present time; disabling clears the on-chip state, the rings'
turn apart, and completes the Lehr commands that were fetched, so that no skipped entry is left in front of a ring; writing the value that stands changes nothing. A host error stops the Lehr's traffic and is reported. -/
def lehrEnabled : Prop :=
  ∀ s : State,
    (∀ (p : Path) (v : Word), s.takesWrites = true → wfld v 16 16 &&& 0xE = 0 →
      (s.ron F.LH_CTRL_EN = true → exec (.lehrEnable p v) s = .next s) ∧
      (s.ron F.LH_CTRL_EN = false → ∃ t, exec (.lehrEnable p v) s = .next t ∧ onlyLehr s t ∧ t.ron F.LH_CTRL_EN = true ∧
        t.ron F.LH_STAT_RUN = true ∧ t.lehr.near = [] ∧ t.lehr.slots = [] ∧ t.lehr.far = [] ∧ t.lehr.lost = [] ∧ t.lehr.nearFull = false ∧
        t.lehr.pb = (s.lhNow / 4096 + s.rget F.LH_CTRL_PF_LEAD + 2) * 4096 ∧
        t.lehr.l1b = ((s.lhNow + s.rget F.LH_CASC_LEAD * 4096) / 2 ^ 24 + 1) * 2 ^ 24 ∧ t.lehr.stall = none ∧ t.rings = s.rings ∧ t.gaf = s.gaf ∧ t.host = s.host ∧
        s.sameRegsBut t [R.LH_CTRL, R.LH_STAT, R.GL_CFGGEN]) ∧
      (s.ron F.LH_CTRL_EN = false → exec (.lehrDisable p v) s = .next s) ∧
      (s.ron F.LH_CTRL_EN = true → ∃ t, exec (.lehrDisable p v) s = .next t ∧ onlyLehr s t ∧ t.ron F.LH_CTRL_EN = false ∧
        t.ron F.LH_STAT_RUN = false ∧ t.ron F.LH_STAT_STALL = false ∧ t.ron F.LH_STAT_HOSTERR = false ∧
        t.lehr = { Lehr.reset with turn := s.lehr.turn } ∧ t.sram = s.sram ∧ t.host = s.host ∧
        (∀ n : Fin 64, s.rings[n].fetched.length ≤ 65536 → t.rings[n] = (if s.rget (F.RINGn_CFG_CONS n) = 1 then
          { s.rings[n] with fetched := (s.rings[n].fetched.filter (fun c => !isLehrCmd c)).dropWhile (fun c => c.isNone) }
          else s.rings[n])))) ∧
    (s.takesEvents = true →
      (s.ron F.LH_CTRL_EN = true → s.lhStandalone = false → s.ron F.LH_STAT_HOSTERR = false →
        ∃ t, exec .lehrHosterr s = .next t ∧ lehrStopped s t) ∧
      (s.ron F.LH_CTRL_EN = false ∨ s.lhStandalone = true ∨ s.ron F.LH_STAT_HOSTERR = true → exec .lehrHosterr s = .next s))

/-- R10, R204 to R206, R208, R209, R218 to R222, R226 to R228: what time does to the Lehr, and its enabling, disabling and host error.
Choices of the model: log entries 2, 17, 19, 20, 39, 49, 54, 56, 83 and 113. -/
def Obligations.LehrRunsInTime : Prop := lehrFollowsTime ∧ lehrEnabled

/-! ### The event controller -/

/-- Every source but one is as it was. -/
def otherSources (s t : State) (n : Nat) : Prop := ∀ k, k ≠ n → t.ecSrc k = s.ecSrc k

/-- A source that follows a ring's level (R247). -/
def levelSource (n : Nat) : Prop := 128 ≤ n ∧ n < 192

/-- R247 to R256: the event controller. A claim takes the first source assigned to its target into service and returns its number, or is
spurious; a completion ends the service of the source claimed through that target, or is stray; a doorbell requests its source and wakes
the thread that its target word names; a PEND, EN or TGT write acts on the sources that it names and on no other; latches are set and
cleared by masked writes, and clear themselves; the return to D0 delivers what waits, or owes it to the thaw.
Choices of the model: log entries 2 and 60. -/
def Obligations.EventControllerRuns : Prop :=
  (∀ (p : Path) (t : Fin 8) (s : State), s.powered = true →
    ∃ u, exec (.ecClaim p t) s = .next u ∧ State.sameBlocks { s with pcie := u.pcie, spi := u.spi } u ∧
      (s.frozen = true → (u.path p).rdata = [1023] ∧ u.ec = s.ec ∧ ∀ o, u.reg o = s.reg o) ∧
      (∀ n ns, s.frozen = false → s.ecAssigned t = n :: ns → (u.path p).rdata = [word n] ∧ otherSources s u n ∧
        u.ecSrc n = { s.ecSrc n with act := true, pend := false, asg := none, claimed := t.val } ∧ ∀ o, u.reg o = s.reg o) ∧
      (s.frozen = false → s.ecAssigned t = [] → (u.path p).rdata = [1023] ∧ countedOne s u F.EC_SPUR_CNT ∧ u.ron F.EC_EVT_SPUR_S = true ∧
        u.ec = s.ec ∧ s.sameRegsBut u [R.EC_SPUR])) ∧
  (∀ (p : Path) (t : Fin 8) (v : Word) (s : State), s.takesWrites = true →
    let n := wfld v 0 10
    ∃ u, exec (.ecComplete p t v) s = .next u ∧ s.sameBlocks u ∧ otherSources s u n ∧ (n = 1023 → u = s) ∧
      (n ≠ 1023 → (s.ecSrc n).act = true → (s.ecSrc n).claimed = t.val → (u.ecSrc n).act = false ∧ (∀ o, u.reg o = s.reg o) ∧
        (¬ levelSource n → u.ecSrc n = { s.ecSrc n with act := false })) ∧
      (n ≠ 1023 → ((s.ecSrc n).act = false ∨ (s.ecSrc n).claimed ≠ t.val) → countedOne s u F.EC_STRAY_COMPLETE_STRAY ∧
        u.ron F.EC_EVT_STRAY_S = true ∧ u.ec = s.ec)) ∧
  (∀ (p : Path) (v : Word) (s : State), s.takesWrites = true →
    let n := wfld v 0 10
    let w := (s.ecSrc n).tgt
    ∃ u, exec (.ecDoorbell p v) s = .next u ∧ State.sameBlocks { s with gaf := u.gaf } u ∧
      (¬ (512 ≤ n ∧ n < 1023) → u.ron F.EC_EVT_DB_ERR_S = true ∧ u.ec = s.ec ∧ u.gaf = s.gaf) ∧
      (512 ≤ n → n < 1023 → otherSources s u n ∧
        (s.ecStill = true → u.ec.deferred = s.ec.deferred ++ [n]) ∧
        (s.ecStill = false → (s.ecSrc n).act = true → countedOne s u F.EC_LOST2_CNT ∧ u.ec = s.ec) ∧
        (s.ecStill = false → (s.ecSrc n).act = false → (u.ecSrc n).pend = true ∧ ∀ o, u.reg o = s.reg o) ∧
        (wfld w 8 1 = 1 → nbit (u.thr ⟨wfld w 13 3, Nat.mod_lt _ (by decide)⟩ ⟨wfld w 9 4, Nat.mod_lt _ (by decide)⟩).pend.toNat 7 = true) ∧
        (wfld w 8 1 = 0 → u.gaf = s.gaf))) ∧
  (∀ (p : Path) (w : Fin 32) (v : Word) (s : State), s.takesWrites = true →
    (∃ u, exec (.ecPendWrite p w v) s = .next u ∧ s.sameBlocks u ∧ (∀ o, u.reg o = s.reg o) ∧
      (∀ n, n / 32 ≠ w.val → u.ecSrc n = s.ecSrc n) ∧
      (∀ n, n / 32 = w.val → (ecExists n = false ∨ (s.ecSrc n).act = true) → u.ecSrc n = s.ecSrc n) ∧
      (∀ n, n / 32 = w.val → ecExists n = true → (s.ecSrc n).act = false → ¬ levelSource n →
        (u.ecSrc n).pend = nbit v.toNat (n % 32) ∧ (nbit v.toNat (n % 32) = false → (u.ecSrc n).asg = none))) ∧
    (∃ u, exec (.ecEnWrite p w v) s = .next u ∧ s.sameBlocks u ∧ s.sameRegsBut u [R.EC_ENw w] ∧
      (∀ n, n / 32 ≠ w.val → u.ecSrc n = s.ecSrc n) ∧
      (∀ n, n / 32 = w.val → u.ecEn n = (ecExists n && nbit v.toNat (n % 32)) ∧ (u.ecSrc n).pend = (s.ecSrc n).pend ∧
        ((ecExists n && nbit v.toNat (n % 32)) = false → (u.ecSrc n).asg = none)))) ∧
  (∀ (p : Path) (v : Word) (s : State), s.takesWrites = true →
    let n := wfld (s.heldWord p R.EC_IDX) 0 10
    (s.locked 5 = false → ecExists n = true → ∃ u, exec (.ecTgtWrite p v) s = .next u ∧ s.sameBlocks u ∧ otherSources s u n ∧
      (u.ecSrc n).tgt = word (if 512 ≤ n then v.toNat % 65536 else v.toNat % 256) ∧ (u.ecSrc n).pend = (s.ecSrc n).pend ∧
      s.sameRegsBut u [R.GL_CFGGEN]) ∧
    (s.locked 5 = false → ecExists n = false → exec (.ecTgtWrite p v) s = .next s) ∧
    (s.locked 5 = true → ∃ u, exec (.ecTgtWrite p v) s = .next u ∧ countedOne s u F.GL_LOCK_VIOL_CNT ∧ s.sameBlocks u ∧
      ∀ k, (u.ecSrc k).tgt = (s.ecSrc k).tgt)) ∧
  (∀ (p : Path) (v : Word) (s : State), s.takesWrites = true → s.locked 5 = false →
    ∃ u, exec (.ecCtrlWrite p v) s = .next u ∧ s.sameCore u ∧
      u.rget F.EC_CTRL_EN = (if nbit v.toNat 16 then wfld v 0 1 else s.rget F.EC_CTRL_EN) ∧
      u.rget F.EC_CTRL_LATCH_P = (if nbit v.toNat 17 then wfld v 1 1 else s.rget F.EC_CTRL_LATCH_P) ∧
      u.rget F.EC_CTRL_LATCH_S = (if nbit v.toNat 18 then wfld v 2 1 else s.rget F.EC_CTRL_LATCH_S) ∧
      (u.rget F.EC_CTRL_EN = 0 → ∀ n, (u.ecSrc n).asg = none) ∧
      (s.ecLatched = true → u.ecLatched = false → u.ec.deferred = []) ∧
      s.sameRegsBut u [R.EC_CTRL, R.GL_CFGGEN]) ∧
  (∀ s : State,
    (s.takesEvents = true → (s.ron F.EC_CTRL_LATCH_P = false ∨ s.now < s.ec.latchP + 6400000) →
      (s.ron F.EC_CTRL_LATCH_S = false ∨ s.now < s.ec.latchS + 6400000) → exec .latchTimeout s = .next s) ∧
    (s.takesEvents = true → s.ron F.EC_CTRL_LATCH_P = true → s.ec.latchP + 6400000 ≤ s.now →
      ∃ u, exec .latchTimeout s = .next u ∧ u.ron F.EC_CTRL_LATCH_P = false ∧ u.ron F.EC_EVT_LATCH_TO_S = true ∧ s.sameBlocks u ∧
        u.rget F.EC_CTRL_EN = s.rget F.EC_CTRL_EN ∧ s.sameRegsBut u [R.EC_CTRL]) ∧
    (s.powered = false ∨ s.fn.d3 = false → exec .pcieD0Return s = .next s) ∧
    (s.powered = true → s.fn.d3 = true →
      ∃ u, exec .pcieD0Return s = .next u ∧ u.fn = { s.fn with d3 := false } ∧ u.ec.srcs = s.ec.srcs ∧ (∀ o, u.reg o = s.reg o) ∧
        State.sameBlocks { s with fn := u.fn, ec := u.ec } u ∧
        (s.frozen = true → u.ec.msix = s.ec.msix ∧ u.ec.owed = true) ∧
        ∀ t : Fin 8, s.frozen = false → s.rget (F.EC_TCFGt_KIND t) = 0 → s.ecAssigned t ≠ [] → s.fn.linkUp = true → s.fn.msixEn = true →
          s.vecMasked t = false → t.val ∈ u.ec.msix))

/-! ### Ewerlink -/

/-- Among the blocks only Ewerlink has changed, and the free-value counter. -/
def onlyEwer (s t : State) : Prop := State.sameBlocks { s with el := t.el, free := t.free } t

/-- Registers outside the Ewerlink page are as they were, but for the rate that the servo leaves, COARSE, and the configuration count. -/
def ewerRegs (s t : State) : Prop :=
  ∀ o, reportReg o = false → ¬ (0x4000 ≤ o ∧ o < 0x5000) → o ≠ R.SPN_RATE → o ≠ R.SPN_STAT → o ≠ R.GL_CFGGEN → t.reg o = s.reg o

/-- A port holds symbol lock: TRAIN or UP. -/
def hasLock (s : State) (p : Fin 4) : Prop := s.elState p = 2 ∨ s.elState p = 3

/-- The port has fallen to DOWN (R262). -/
def fellDown (s t : State) (p : Fin 4) : Prop :=
  t.elState p = 1 ∧ t.elRole p = 0 ∧ t.ron (F.ELp_STAT_CAND p) = false ∧ t.ron (F.ELp_STAT_HOLDOFF p) = true ∧
  t.el.ports[p].bcn = none ∧ t.el.ports[p].downAt = s.spine.tick ∧ countedOne s t (F.ELp_CNT_DOWNS p) ∧ t.ron F.EL_EVT_LINK_S = true ∧
  onlyEwer s t ∧ ewerRegs s t

/-- R262, R268, R291: the states of a port follow its link. Symbol lock takes DOWN to TRAIN once the hold-off has passed; a lost signal, four
code violations, or 3 ms without a beacon take TRAIN or UP to DOWN; violations are counted in every state but DISABLED; the hold-off ends
after 10 ms; a candidate without a beacon for 3 ms is one no more; a cleared PORT_EN bit, and a cleared EN, disable. The timers count
spine ticks, of 1 ns.
Choices of the model: log entries 2, 21 and 98. -/
def Obligations.EwerlinkPortsFollowTheirLinks : Prop :=
  (∀ (p : Fin 4) (s : State), s.takesEvents = true →
    (s.elState p = 1 → s.ron (F.ELp_STAT_HOLDOFF p) = false → s.ron F.PW_STAT_VDDL_OK = true →
      ∃ t, exec (.linkLock p) s = .next t ∧ t.elState p = 2 ∧ t.ron F.EL_EVT_LINK_S = true ∧
        s.sameRegsBut t [R.ELp_STAT p, R.EL_EVT] ∧ s.sameBlocks t) ∧
    (s.elState p ≠ 1 ∨ s.ron (F.ELp_STAT_HOLDOFF p) = true ∨ s.ron F.PW_STAT_VDDL_OK = false → exec (.linkLock p) s = .next s) ∧
    (∀ (code : Bool) (viol : BitVec 16),
      (s.elState p = 0 → exec (.portDown p code viol) s = .next s) ∧
      (s.elState p ≠ 0 → ∃ t, exec (.portDown p code viol) s = .next t ∧
        t.rget (F.ELp_ERR_CV p) = min (s.rget (F.ELp_ERR_CV p) + viol.toNat) 65535 ∧
        ((code = true ∧ viol.toNat < 4) ∨ ¬ hasLock s p → s.sameRegsBut t [R.ELp_ERR p] ∧ s.sameBlocks t) ∧
        (hasLock s p → code = false ∨ 4 ≤ viol.toNat → fellDown s t p))) ∧
    (s.ron (F.ELp_STAT_HOLDOFF p) = true → s.el.ports[p].downAt + 10000000 ≤ s.spine.tick →
      ∃ t, exec (.holdoffEnd p) s = .next t ∧ t.ron (F.ELp_STAT_HOLDOFF p) = false ∧ t.elState p = s.elState p ∧
        s.sameRegsBut t [R.ELp_STAT p] ∧ s.sameBlocks t) ∧
    (s.ron (F.ELp_STAT_HOLDOFF p) = false ∨ s.spine.tick < s.el.ports[p].downAt + 10000000 → exec (.holdoffEnd p) s = .next s) ∧
    (s.elState p = 3 → s.el.ports[p].bcnAt + 3000000 ≤ s.spine.tick → ∃ t, exec (.beaconTimeout p) s = .next t ∧ fellDown s t p) ∧
    (s.elState p ≠ 3 ∨ s.spine.tick < s.el.ports[p].bcnAt + 3000000 → exec (.beaconTimeout p) s = .next s) ∧
    (s.el.ports[p].bcn.isSome = true → s.el.ports[p].bcnAt + 3000000 < s.spine.tick ∨
        (s.ron (F.ELp_STAT_CAND p) = true ∧ s.el.ports[p].rseqAt + 3000000 < s.spine.tick) →
      ∃ t, exec (.candidateExpiry p) s = .next t ∧ t.ron (F.ELp_STAT_CAND p) = false ∧ t.elState p = s.elState p ∧
        (s.el.ports[p].bcnAt + 3000000 < s.spine.tick → t.el.ports[p].bcn = none) ∧ onlyEwer s t ∧ ewerRegs s t) ∧
    (s.el.ports[p].bcn = none ∨ (s.spine.tick ≤ s.el.ports[p].bcnAt + 3000000 ∧
        (s.ron (F.ELp_STAT_CAND p) = false ∨ s.spine.tick ≤ s.el.ports[p].rseqAt + 3000000)) → exec (.candidateExpiry p) s = .next s)) ∧
  (∀ (q : Path) (v : Word) (s : State), s.takesWrites = true →
    (s.locked 7 = true → ∃ t, exec (.ewerlinkDisable q v) s = .next t ∧ countedOne s t F.GL_LOCK_VIOL_CNT ∧
      t.reg R.EL_CTRL = s.reg R.EL_CTRL ∧ s.sameBlocks t) ∧
    (s.locked 7 = false → s.ron F.EL_CTRL_EN = false → ∃ t, exec (.ewerlinkDisable q v) s = .next t ∧ t.ron F.EL_CTRL_EN = false ∧
      s.sameRegsBut t [R.EL_CTRL, R.GL_CFGGEN] ∧ s.sameBlocks t) ∧
    (s.locked 7 = false → s.ron F.EL_CTRL_EN = true → ∃ t, exec (.ewerlinkDisable q v) s = .next t ∧ t.ron F.EL_CTRL_EN = false ∧
      (∀ p : Fin 4, t.elState p = 0 ∧ t.elRole p = 0 ∧ t.el.ports[p].bcn = none ∧ t.el.ports[p].queue = []) ∧ t.el.table = [] ∧
      t.rget F.EL_STAT_IDSTATE = 0 ∧ t.ron F.EL_ID_HELD_V = false ∧ t.rget F.EL_STAT_SERVO = 0 ∧ t.ron F.EL_STAT_HASPARENT = false ∧
      t.ron F.EL_STAT_ISROOT = false ∧ t.rget F.EL_STAT_DEPTH = 31 ∧ t.reg R.SPN_RATE = s.reg R.SPN_RATE ∧ onlyEwer s t ∧ ewerRegs s t) ∧
    (∀ p : Fin 4, s.locked 7 = false → s.ron F.EL_CTRL_EN = true → nbit v.toNat (24 + p.val) = true → nbit v.toNat (8 + p.val) = false →
      ∃ t, exec (.portDisable q v) s = .next t ∧ t.ron F.EL_CTRL_EN = true ∧ nbit (t.rget F.EL_CTRL_PORT_EN) p.val = false ∧
        t.elState p = 0 ∧ onlyEwer s t ∧ ewerRegs s t))

/-- The untimed frame that a row brings, its content apart. -/
def heard (f : FrameHead) (b : ElBody) : ElMsg := ⟨f.src, f.hops, f.dst, f.conf, b⟩

/-- The rows by which a frame arrives at a port, each with its frame. -/
def frameRows (p : Fin 4) (f : FrameHead) (b : Beacon) (pos : Fin 64) (n8 m8 : BitVec 8) (w16 : BitVec 16) (u : BitVec 64) (u6 : BitVec 6)
    (id : Fin 1024) (flag : Bool) (ids : List (Fin 1024)) (data : List Byte) : List (Instr × ElOut) :=
  [(.beaconReceive p f b pos, .beacon (bcnOf f b)),
    (.delayReqReceive p f ⟨u, u6, n8⟩ pos, .delayReq (u.toNat * 64 + u6.toNat) n8.toNat),
    (.delayRespReceive p f u u6 n8, .delayResp (u.toNat * 64 + u6.toNat) n8.toNat),
    (.joinReceive p f id u, .untimed (heard f (.join id u.toNat))),
    (.joinAckReceive p f id flag u, .untimed (heard f (.joinAck id flag u.toNat))),
    (.leaveReceive p f ids, .untimed (heard f (.leave (ids.map Fin.val)))),
    (.applyAtFrame p f u m8 w16, .untimed (heard f (.applyAt u.toNat m8 w16.toNat))),
    (.doorbellFrame p f id n8, .untimed (heard f (.doorbell id n8.toNat))),
    (.mailboxFrame p f n8 data, .untimed (heard f (.mailbox n8.toNat data))),
    (.deliveryReceive p f n8 m8 flag, .untimed (heard f (.delivery n8.toNat m8.toNat flag)))]

/-- The number of data bytes or of listed IDs agrees with the frame's type (R265). -/
def sizeFits (o : ElOut) : Prop :=
  ∀ m, o = .untimed m → (∀ ids, m.body = .leave ids → 1 ≤ ids.length ∧ ids.length ≤ 16) ∧
    (∀ mid data, m.body = .mailbox mid data → 1 ≤ data.length ∧ data.length ≤ 32)

/-- A frame of so many symbols of 20 ns can start now: nothing is on the line, and it is free 40 ns before the next timed frame (R266). -/
def lineTakes (s : State) (p : Fin 4) (symbols : Nat) : Prop :=
  s.el.ports[p].busy ≤ s.spine.tick ∧
  (s.elHasRoot = true ∨ s.ron F.EL_STAT_TOO_DEEP = true → s.now + 1280 * symbols + 2560 ≤ beaconFrom p s.now)

/-- The line is taken for so many symbols. -/
def lineTaken (s : State) (symbols : Nat) : Nat := s.spine.tick + 20 * symbols

/-- R264 to R266, R269: a frame whose bytes fail the check of CRC, VER, TYPE or length is counted and goes no further; the bytes of a row's frame
stand for that frame; a port without symbol lock receives nothing. A queued frame of the most urgent class leaves the queue of a tree port, in
order, when the line is free long enough, behind a DELAY_RESP that waits; the other ports stay as they are.
Choices of the model: log entries 2, 7, 98 and 102. -/
def Obligations.EwerlinkFramesAreCheckedAndSent : Prop :=
  (∀ (p : Fin 4) f b pos n8 m8 w16 u u6 id flag ids data (c : Instr × ElOut) (s : State),
    c ∈ frameRows p f b pos n8 m8 w16 u u6 id flag ids data → s.takesEvents = true →
    (¬ hasLock s p → exec c.1 s = .next s) ∧
    (hasLock s p → (∃ bs, f.wire = some bs ∧ frameFrom bs = none) ∨ (f.wire = none ∧ ¬ sizeFits c.2) →
      ∃ t, exec c.1 s = .next t ∧ countedOne s t (F.ELp_ERR_CRC p) ∧ t.ron F.EL_EVT_CRC_S = true ∧
        s.sameRegsBut t [R.ELp_ERR p, R.EL_EVT] ∧ s.sameBlocks t)) ∧
  (∀ (p : Fin 4) f b pos n8 m8 w16 u u6 id flag ids data (c : Instr × ElOut),
    c ∈ frameRows p f b pos n8 m8 w16 u u6 id flag ids data → sizeFits c.2 → frameFrom (frameWire f.src c.2) = some c.2) ∧
  (∀ (p : Fin 4) (s : State), s.takesEvents = true →
    (∀ t4 num, s.el.ports[p].resp = some (t4, num) →
      (hasLock s p → lineTakes s p 22 → ∃ t, exec (.frameSend p) s = .next t ∧ (∀ o, t.reg o = s.reg o) ∧ onlyEwer s t ∧
        t.el = (s.modPort p (fun q => { q with resp := none, sent := .delayResp t4 num, busy := lineTaken s 22 })).el) ∧
      (¬ hasLock s p ∨ ¬ lineTakes s p 22 → exec (.frameSend p) s = .next s)) ∧
    (s.el.ports[p].resp = none →
      (s.el.ports[p].queue = [] ∨ s.elTree p = false ∨ (∀ m ∈ s.el.ports[p].queue, ¬ lineTakes s p (bodySymbols m.body)) →
        exec (.frameSend p) s = .next s) ∧
      (s.el.ports[p].queue ≠ [] → s.elTree p = true → (∀ m ∈ s.el.ports[p].queue, lineTakes s p (bodySymbols m.body)) →
        ∃ t m, exec (.frameSend p) s = .next t ∧ (∀ x ∈ s.el.ports[p].queue, elClass m.body ≤ elClass x.body) ∧
          (s.el.ports[p].queue.filter (fun x => decide (elClass x.body = elClass m.body))).head? = some m ∧
          t.el = (s.modPort p (fun q => { q with
            queue := q.queue.erase m, sent := .untimed m, busy := lineTaken s (bodySymbols m.body) })).el ∧
          (∀ o, t.reg o = s.reg o) ∧ onlyEwer s t)))

/-- R262, R267, R268, R281: the beacons. One leaves at its time with the node's own data, on a free line; a received one makes the port UP and
becomes its candidate's data. Without the servo (MODE ≠ 1) it touches nothing outside Ewerlink. -/
def beaconsRun : Prop :=
  (∀ (p : Fin 4) (b : Nat) (s : State), s.takesEvents = true →
    (s.elHasRoot = false ∧ s.ron F.EL_STAT_TOO_DEEP = false ∨ ¬ hasLock s p ∨ s.spine.tick < s.el.ports[p].busy →
      exec (.beaconSend p) s = .next s) ∧
    (s.elHasRoot = true ∨ s.ron F.EL_STAT_TOO_DEEP = true → hasLock s p → s.spine.hold = none → s.el.ports[p].busy ≤ s.spine.tick →
      s.now ≤ b → b < s.now + 64000000 → b < s.tAhead 1 → b % 64000000 = 128000 * p.val → s.el.ports[p].lastBcn ≠ some b →
      ∃ t x, exec (.beaconSend p) s = .next t ∧ x.t1 = b ∧ x.uid = s.elUid ∧ x.src = s.nodeId ∧ x.rseq = s.el.rseq ∧
        (s.elHasRoot = true → x.rootUid = s.el.rootUid ∧ x.prio = s.el.rootPrio ∧ x.depth = s.rget F.EL_STAT_DEPTH ∧
          x.rootId = s.rget F.EL_STAT_ROOT_ID ∧ x.up = decide (s.elParent = some p) ∧
          (x.qual = true ↔ s.ron F.EL_STAT_ISROOT = true ∨ ((s.rget F.EL_STAT_SERVO = 2 ∨ s.rget F.EL_STAT_SERVO = 3) ∧
            ∃ q y, s.elParent = some q ∧ s.el.ports[q].bcn = some y ∧ y.qual = true))) ∧
        (s.elHasRoot = false → x.depth = 17 ∧ x.qual = false) ∧
        t.el = (s.modPort p (fun q => { q with lastBcn := some b, sent := .beacon x, busy := lineTaken s 44 + 1 })).el ∧
        (∀ o, t.reg o = s.reg o) ∧ onlyEwer s t)) ∧
  (∀ (p : Fin 4) (f : FrameHead) (b : Beacon) (pos : Fin 64) (s : State), s.takesEvents = true → f.wire = none → hasLock s p →
    ∃ t, exec (.beaconReceive p f b pos) s = .next t ∧ t.elState p = 3 ∧ t.el.ports[p].bcn = some (bcnOf f b) ∧
      t.el.ports[p].bcnAt = s.spine.tick ∧ t.rget (F.ELp_STAT_NBR_ID p) = f.src.val ∧
      (b.depth.val < 16 → (∀ o, s.el.ports[p].bcn = some o → o.rseq ≠ b.rseq.toNat) → t.ron (F.ELp_STAT_CAND p) = true) ∧
      (16 ≤ b.depth.val → t.ron (F.ELp_STAT_CAND p) = false) ∧ (∀ q : Fin 4, q ≠ p → t.elState q = s.elState q) ∧
      (s.rget F.SPN_CTRL_MODE ≠ 1 → onlyEwer s t ∧ ewerRegs s t))

/-- R277: the delay exchange. A request that is due leaves at an even ns at which the line carries it before or behind the next beacon, within 100 µs of
the last one; a request is answered with its capture time, once the line is free; a response completes the sample, unless one of the four
times carries STEP; a response missing for 1 ms is abandoned. -/
def delayExchange : Prop :=
  ∀ (p : Fin 4) (s : State), s.takesEvents = true →
    (let t3 := s.elT3 p
      let b := beaconFrom p s.now
      let tick := s.spine.tick + (t3 - s.now + 63) / 64
      t3 % 128 = 0 ∧ s.tAhead (s.el.ports[p].busy - s.spine.tick) ≤ t3 ∧
      (s.elHasRoot = true ∨ s.ron F.EL_STAT_TOO_DEEP = true → t3 + 1280 * 22 ≤ b ∨ b + 1280 * 44 ≤ t3) ∧
      (s.el.ports[p].reqDue = false ∨ s.elState p ≠ 3 ∨ s.spine.hold ≠ none ∨ s.el.ports[p].bcnAt + 100000 < tick →
        exec (.delayReqSend p) s = .next s) ∧
      (s.el.ports[p].reqDue = true → s.elState p = 3 → s.spine.hold = none → tick ≤ s.el.ports[p].bcnAt + 100000 →
        ∃ t, exec (.delayReqSend p) s = .next t ∧ (∀ o, t.reg o = s.reg o) ∧ onlyEwer s t ∧
          t.el = (s.modPort p (fun q => { q with
            reqDue := false, reqNum := (q.reqNum + 1) % 256, req := some ⟨(q.reqNum + 1) % 256, t3, q.t21, s.spine.tick, tick⟩
            sent := .delayReq t3 ((q.reqNum + 1) % 256), busy := tick + 20 * 22 })).el)) ∧
    (∀ (f : FrameHead) (ask : DelayAsk) (pos : Fin 64), f.wire = none → hasLock s p →
      ∃ t, exec (.delayReqReceive p f ask pos) s = .next t ∧ (∀ o, t.reg o = s.reg o) ∧ onlyEwer s t ∧
        ((s.stampAt pos).2 = true ∨ s.el.ports[p].mark = true → t.el = (s.modPort p (fun q => { q with mark := false })).el) ∧
        ((s.stampAt pos).2 = false → s.el.ports[p].mark = false →
          (lineTakes s p 22 → t.el = (s.modPort p (fun q => { q with
            resp := none, sent := .delayResp (s.stampAt pos).1 ask.num.toNat, busy := lineTaken s 22 })).el) ∧
          (¬ lineTakes s p 22 → t.el = (s.modPort p (fun q => { q with resp := some ((s.stampAt pos).1, ask.num.toNat) })).el))) ∧
    (∀ (f : FrameHead) (t4 : BitVec 64) (sub : BitVec 6) (num : BitVec 8), f.wire = none → hasLock s p →
      ((∀ r, s.el.ports[p].req = some r → r.num ≠ num.toNat) → exec (.delayRespReceive p f t4 sub num) s = .next s) ∧
      (∀ r, s.el.ports[p].req = some r → r.num = num.toNat →
        let old := s.el.ports[p].samples
        let stepped := ∃ k, s.spine.stepTick = some k ∧ r.made ≤ k ∧ k ≤ r.tick
        ∃ t, exec (.delayRespReceive p f t4 sub num) s = .next t ∧
          t.el.ports[p].req = none ∧ (∀ q : Fin 4, q ≠ p → t.el.ports[q] = s.el.ports[q]) ∧ s.sameRegsBut t [R.ELp_DLY p] ∧ onlyEwer s t ∧
          (r.t21 = none ∨ stepped → t.el.ports[p].samples = old) ∧
          (∀ d, r.t21 = some d → ¬ stepped →
            let x := d + ((t4.toNat * 64 + sub.toNat : Nat) - (r.t3 : Int))
            (old.length < 16 → t.el.ports[p].samples = x :: old ∧ t.rget (F.ELp_DLY_NSAMP p) = old.length + 1) ∧
            (old.length = 16 → (16 * x - old.sum).natAbs ≤ 2048 → t.el.ports[p].samples = x :: old.take 15) ∧
            (old.length = 16 → 2048 < (16 * x - old.sum).natAbs → t.el.ports[p].samples = old)))) ∧
    (∀ r, s.el.ports[p].req = some r →
      exec (.delayTimeout p) s = .next (if r.tick + 1000000 ≤ s.spine.tick then s.modPort p (fun q => { q with req := none }) else s)) ∧
    (s.el.ports[p].req = none → exec (.delayTimeout p) s = .next s)

/-- R278, R279: the servo at a beacon accepted on the parent port. The offset θ is formed whatever the servo does with it, where a delay sample
is held and the capture carries no STEP; `num` over `den` is θ in subs. In TRACK and LOCK it steers the integrator and the rate, steps where θ
exceeds EL_SRV_STEP, and holds where θ reaches 2^31 ns; sixteen beacons in a row within THR.LOCK lock it, one beyond THR.UNLOCK unlocks it. In
ACQ the second beacon sets the integrator; a beacon of QUAL 0 enters HOLD at the integrator's rate; with the servo off the rate is the host's. -/
def servoSteers : Prop :=
  (∀ (p : Fin 4) (f : FrameHead) (b : Beacon) (pos : Fin 64) (s : State), s.takesEvents = true → f.wire = none → hasLock s p →
    let x := s.stampAt pos
    let step := x.2 || s.el.ports[p].mark
    let u := ((if s.elState p = 2 then s.rput (F.ELp_STAT_STATE p) 3 else s).beaconTake p (bcnOf f b) x.1 step).elSelect
    let v := if s.elState p = 2 then u.elLinkFree p 2 3 else u
    exec (.beaconReceive p f b pos) s = .next (if v.elParent = some p then
      (v.modEl (fun e => { e with rseq := (bcnOf f b).rseq })).servoBeacon p (bcnOf f b).t1 x.1 step (bcnOf f b).qual else v)) ∧
  (∀ (p : Fin 4) (t1 t2 : Nat) (step qual : Bool) (s : State),
    let t := s.servoBeacon p t1 t2 step qual
    let den := s.elDelayDen p
    let num := s.thetaNum p ((t2 : Int) - t1)
    let st := s.rget F.EL_STAT_SERVO
    let I := (s.reg R.EL_SRV_INT).toInt
    let usable := s.servoOff = false ∧ qual = true ∧ step = false ∧ s.el.skip = false
    let big := ((s.reg R.EL_SRV_STEP).toNat : Int) * 64 * den < num.natAbs
    let far := (2 ^ 37 : Int) * den ≤ num
    (s.servoOff = true → t.reg R.SPN_RATE = s.reg R.SPN_RATE ∧ t.rget F.EL_STAT_SERVO = st) ∧
    (s.servoOff = true → s.el.ports[p].samples ≠ [] → step = false → t.reg R.EL_SRV_OFS = satWord (num / (den : Int))) ∧
    (s.servoOff = false → qual = false → st = 1 ∨ st = 2 ∨ st = 3 → t.rget F.EL_STAT_SERVO = 4 ∧ t.reg R.SPN_RATE = s.reg R.EL_SRV_INT) ∧
    (usable → st = 1 → s.el.acq = none → t.el.acq = some (t1, t2) ∧ t.rget F.EL_STAT_SERVO = 1 ∧ t.reg R.SPN_RATE = s.reg R.SPN_RATE) ∧
    (∀ a1 a2, usable → st = 1 → s.el.acq = some (a1, a2) → a1 < t1 → t.rget F.EL_STAT_SERVO = 2 ∧
      t.reg R.SPN_RATE = t.reg R.EL_SRV_INT ∧
      t.reg R.EL_SRV_INT = iword (clampRate (s.rateWord - roundDivI ((((t2 : Int) - a2) - ((t1 : Int) - a1)) * 2 ^ 40) (t1 - a1)))) ∧
    (usable → st = 2 ∨ st = 3 → s.el.ports[p].samples ≠ [] → ¬ far → ¬ big →
      let i := clampRate (I - roundDivI (1099512 * num) (den * 64 * 2 ^ s.rget F.EL_SRV_CFG_KI))
      let r := if (num.natAbs : Int) ≤ (s.rget F.EL_SRV_THR_LOCK : Int) * den then s.el.run + 1 else 0
      t.reg R.EL_SRV_OFS = satWord (num / (den : Int)) ∧ t.reg R.EL_SRV_INT = iword i ∧
      t.reg R.SPN_RATE = iword (clampRate (i - roundDivI (1099512 * num) (den * 64 * 2 ^ s.rget F.EL_SRV_CFG_KP))) ∧
      (st = 2 → t.rget F.EL_STAT_SERVO = (if 16 ≤ r then 3 else 2)) ∧
      (st = 3 → t.rget F.EL_STAT_SERVO = (if (s.rget F.EL_SRV_THR_UNLOCK : Int) * den < num.natAbs then 2 else 3))) ∧
    (usable → st = 2 ∨ st = 3 → s.el.ports[p].samples ≠ [] → far → t.rget F.EL_STAT_SERVO = 4 ∧ t.el.ranged = true ∧
      t.reg R.SPN_RATE = s.reg R.EL_SRV_INT ∧ t.ron F.EL_EVT_RANGE_S = true) ∧
    (usable → st = 2 ∨ st = 3 → s.el.ports[p].samples ≠ [] → ¬ far → big → s.spine.pend = none → (∀ i, i < 8 → s.apValid i = false) →
      t.rget F.EL_STAT_SERVO = 2 ∧ t.el.skip = true ∧ t.reg R.EL_SRV_INT = s.reg R.EL_SRV_INT ∧ t.reg R.SPN_RATE = s.reg R.SPN_RATE ∧
      (num < 0 → t.spine.acc = s.spine.acc + BitVec.ofNat 104 ((-(roundDivI num den)).toNat * 2 ^ 34) ∧
        t.spine.stepTick = some s.spine.tick)))

/-- R262, R267, R268, R277 to R279, R281: the timed frames: beacons, the delay exchange and the servo.
Choices of the model: log entries 2, 5, 7, 57, 98 and 102. -/
def Obligations.EwerlinkTimedFrames : Prop := beaconsRun ∧ delayExchange ∧ servoSteers

/-- A unicast frame for another node goes on by the port that routing gives, one hop further, where its queue has room; one that has
nowhere to go is counted and dropped (R266, R275). -/
def forwarded (s t : State) (p : Fin 4) (dst : Nat) (m : ElMsg) : Prop :=
  let to' := if 31 ≤ m.hops + 1 then none else s.elRoute (decide (s.elParent = some p)) dst
  (to' = none → countedOne s t F.EL_DROP_NOROUTE ∧ t.el = s.el) ∧
  (∀ q : Fin 4, to' = some q →
    t.el = (if s.el.ports[q].queue.length < 16 then
      s.modPort q (fun x => { x with queue := x.queue ++ [{ m with hops := m.hops + 1 }] }) else s).el)

/-- A record of Ewerlink's has been handed to the ring that takes it. -/
def mailRecord (s t : State) (w4 w5 w6 w7 : Word) : Prop :=
  ∀ n, s.routeOf 103 0x27 = some n → s.eventRing n = true →
    t.recq = s.recq ++ [⟨0x27, 103, s.nextSeq 103, s.now, s.coarseFlag, w4, w5, w6, w7, n⟩]

/-- R271 to R276, R284 to R286, R361: the tree's frames at a tree port. A JOIN enters its node in the table, or is a conflict; the JOIN_ACK of
this node's own JOIN, or for the ID that it holds, gives it its ID or takes it away; a LEAVE removes entries of its port and no other; a broadcast is taken once;
doorbells, mailboxes and deliveries for this node take their effect, a delivery on the one entry that waits for it, and others go on; a second
doorbell of the link reset leaves the time that the first one set. JOINs and awaited deliveries time out.
Choices of the model: log entries 2, 58, 59 and 98. -/
def Obligations.EwerlinkTreeFrames : Prop :=
  (∀ (p : Fin 4) (f : FrameHead) (s : State), s.takesEvents = true → f.wire = none → s.elTree p = true →
    (∀ (id : Fin 1024) (uid : BitVec 64), s.elRole p = 2 →
      ∃ t, exec (.joinReceive p f id uid) s = .next t ∧ onlyEwer s t ∧
        (id.val = s.elOwnId ∨ (∃ e, tblFind s.el.table id = some e ∧ e.uid ≠ uid.toNat) →
          countedOne s t F.EL_CNT2_CONFLICT ∧ t.ron F.EL_EVT_CONFLICT_S = true ∧ t.el.table = s.el.table) ∧
        (id.val ≠ s.elOwnId → (∀ e, tblFind s.el.table id = some e → e.uid = uid.toNat) →
          tblFind t.el.table id = some ⟨p.val, uid.toNat⟩ ∧ (∀ k, k ≠ id.val → tblFind t.el.table k = tblFind s.el.table k) ∧
          s.sameRegsBut t [R.ELp_CNT 0, R.ELp_CNT 1, R.ELp_CNT 2, R.ELp_CNT 3])) ∧
    (∀ (id : Fin 1024) (conflict : Bool) (uid : BitVec 64),
      let mine := (s.rget F.EL_STAT_IDSTATE = 1 ∧ s.el.joinId = id.val) ∨ s.elMine id = true
      ∃ t, exec (.joinAckReceive p f id conflict uid) s = .next t ∧ onlyEwer s t ∧
        (mine → s.elUid = uid.toNat → conflict = false →
          t.rget F.EL_STAT_IDSTATE = 2 ∧ t.rget F.EL_ID_HELD = id.val ∧ t.ron F.EL_ID_HELD_V = true ∧
          s.sameRegsBut t [R.EL_STAT, R.EL_ID, R.EL_EVT]) ∧
        (mine → s.elUid = uid.toNat → conflict = true →
          t.rget F.EL_STAT_IDSTATE = 3 ∧ s.sameRegsBut t [R.EL_STAT, R.EL_EVT]) ∧
        (s.elMine id = true → s.elUid ≠ uid.toNat → t = s) ∧
        (s.elMine id = false → ¬ mine ∨ s.elUid ≠ uid.toNat →
          t.reg R.EL_STAT = s.reg R.EL_STAT ∧ (conflict = false → t.el.table = s.el.table) ∧
          (conflict = false → forwarded s t p id (heard f (.joinAck id conflict uid.toNat))) ∧
          (conflict = true → tblFind t.el.table id = none ∧ ∀ k, k ≠ id.val → tblFind t.el.table k = tblFind s.el.table k))) ∧
    (∀ ids : List (Fin 1024), s.elRole p = 2 → 1 ≤ ids.length → ids.length ≤ 16 →
      ∃ t, exec (.leaveReceive p f ids) s = .next t ∧ onlyEwer s t ∧ ewerRegs s t ∧
        ∀ k : Nat, ((∃ i ∈ ids, i.val = k) → s.elTabPort k = some p → tblFind t.el.table k = none) ∧
          ((∀ i ∈ ids, i.val ≠ k) ∨ s.elTabPort k ≠ some p → tblFind t.el.table k = tblFind s.el.table k)) ∧
    (∀ (tm : BitVec 64) (m : BitVec 8) (bseq : BitVec 16),
      (s.elSeen f.src bseq.toNat = true → ∃ t, exec (.applyAtFrame p f tm m bseq) s = .next t ∧ countedOne s t F.EL_DROP_DUP ∧
        s.sameRegsBut t [R.EL_DROP] ∧ s.sameBlocks t) ∧
      (s.elSeen f.src bseq.toNat = false → ∃ t, exec (.applyAtFrame p f tm m bseq) s = .next t ∧ t.elSeen f.src bseq.toNat = true ∧
        State.sameBlocks { s with el := t.el, ap := t.ap } t ∧
        (∀ i : Fin 8, s.apValid i = false → (∀ j : Fin 8, j < i → s.apValid j = true) → m ≠ 0 → tm.toNat * 64 < 2 ^ 37 + s.now →
          t.apValid i = true ∧ t.apT i = tm.toNat ∧ t.rget (F.AP_PENDi_INFO_GROUPS i) = m.toNat))) ∧
    (∀ (n : Fin 1024) (mid : BitVec 8), ∃ t, exec (.doorbellFrame p f n mid) s = .next t ∧
      (s.elMine f.dst = true → s.linkMatch n f.src = true → t.pw.linkRst = s.pw.linkRst.or (some (f.src.val, s.now)) ∧
        (f.conf = false → t.ec = s.ec)) ∧
      (s.elMine f.dst = true → s.linkMatch n f.src = false → 512 ≤ n.val → n.val < 1023 → s.ecStill = false → (s.ecSrc n).act = false →
        (t.ecSrc n).pend = true ∧ State.sameBlocks { s with el := t.el, gaf := t.gaf } t) ∧
      (s.elMine f.dst = false → forwarded s t p f.dst (heard f (.doorbell n mid.toNat)) ∧ onlyEwer s t)) ∧
    (∀ (mid : BitVec 8) (data : List Byte), 1 ≤ data.length → data.length ≤ 32 →
      ∃ t, exec (.mailboxFrame p f mid data) s = .next t ∧ onlyEwer s t ∧
        (s.elMine f.dst = true → data.length ≤ 12 → mailRecord s t
          (word (2 ^ 20 * mid.toNat + 1024 * data.length + f.src.val)) (mailWord data 0) (mailWord data 4) (mailWord data 8)) ∧
        (s.elMine f.dst = false → forwarded s t p f.dst (heard f (.mailbox mid.toNat data)))) ∧
    (∀ (mid typ : BitVec 8) (refused : Bool),
      ∃ t, exec (.deliveryReceive p f mid typ refused) s = .next t ∧ onlyEwer s t ∧
        (s.elMine f.dst = true → (∃ c ∈ s.el.confs, c.mid = mid.toNat ∧ c.dst = f.src.val ∧ c.type = typ.toNat) →
          t.el.confs = s.el.confs.eraseP (fun c => decide (c.mid = mid.toNat ∧ c.dst = f.src.val ∧ c.type = typ.toNat)) ∧
          mailRecord s t (word (2 ^ 29 + 2 ^ 20 * mid.toNat + 65536 * b2n refused + f.src.val)) 0 0 0) ∧
        (s.elMine f.dst = true → (∀ c ∈ s.el.confs, ¬ (c.mid = mid.toNat ∧ c.dst = f.src.val ∧ c.type = typ.toNat)) → t = s) ∧
        (s.elMine f.dst = false → forwarded s t p f.dst (heard f (.delivery mid.toNat typ.toNat refused))))) ∧
  (∀ s : State, s.takesEvents = true →
    (s.rget F.EL_STAT_IDSTATE ≠ 1 ∨ s.spine.tick < s.el.joinAt + 10000000 → exec .joinResend s = .next s) ∧
    (∀ q : Fin 4, s.rget F.EL_STAT_IDSTATE = 1 → s.el.joinAt + 10000000 ≤ s.spine.tick → s.elParent = some q → s.el.ports[q].queue.length < 16 →
      ∃ t, exec .joinResend s = .next t ∧ t.el.joinAt = s.spine.tick ∧ t.el.joinId = s.el.joinId ∧ t.rget F.EL_STAT_IDSTATE = 1 ∧
        (⟨s.el.joinId, 0, s.el.joinId, false, .join s.el.joinId s.elUid⟩ : ElMsg) ∈ t.el.ports[q].queue ∧ t.el.table = s.el.table ∧
        onlyEwer s t ∧ ewerRegs s t) ∧
    (∀ mid : BitVec 8,
      ((∀ c ∈ s.el.confs, c.mid = mid.toNat → s.spine.tick < c.t + 10000000) → exec (.mailboxTimeout mid) s = .next s) ∧
      ((∃ c ∈ s.el.confs, c.mid = mid.toNat ∧ c.t + 10000000 ≤ s.spine.tick) →
        ∃ t c, exec (.mailboxTimeout mid) s = .next t ∧ c ∈ s.el.confs ∧ c.mid = mid.toNat ∧ c.t + 10000000 ≤ s.spine.tick ∧
          t.el = { s.el with confs := s.el.confs.filter (fun x => decide (x ≠ c)) } ∧ countedOne s t F.EL_CNT2_MBOX_TO ∧
          t.ron F.EL_EVT_MBOX_TO_S = true ∧ s.sameRegsBut t [R.EL_CNT2, R.EL_EVT] ∧ s.sameBlocks { t with el := s.el })))

/-- The front of an Ewerlink ring is a command of the given OP. -/
def elFront (s : State) (n : Fin 64) (w : Vector Word 8) (rest : List CmdWords) (op : Nat) : Prop :=
  fronts s n w rest ∧ s.rget (F.RINGn_CFG_CONS n) = 2 ∧ cmdOp w = op

/-- What a ring command of Ewerlink may change. -/
def onlyElCmd (s t : State) : Prop := State.sameBlocks { s with el := t.el, rings := t.rings, ap := t.ap, gaf := t.gaf } t

/-- The command has left its ring refused, with a result. -/
def elRefused (s t : State) (n : Fin 64) (w : Vector Word 8) (rest : List CmdWords) (mid result : Nat) : Prop :=
  popped s t n rest ∧ t.el.ports = s.el.ports ∧ t.el.confs = s.el.confs ∧ t.ap = s.ap ∧ t.gaf = s.gaf ∧ s.sameRegsBut t [] ∧
  mailRecord s t (word (2 ^ 28 + 2 ^ 20 * mid + 65536 * result + cmdSeq w)) (word (65536 * cmdOp w + wfld w[1] 0 10)) 0 0

/-- A frame to another node has joined the queue of the port that leads there. -/
def elQueued (s t : State) (w : Vector Word 8) (body : ElBody) : Prop :=
  ∀ q : Fin 4, s.elMine (wfld w[1] 0 10) = false → s.elRoute false (wfld w[1] 0 10) = some q → s.el.ports[q].queue.length < 16 →
    t.el.ports = (s.modPort q (fun x => { x with queue := x.queue ++
      [⟨s.nodeId, 0, wfld w[1] 0 10, nbit w[1].toNat 10, body⟩] })).el.ports

/-- R273, R284 to R287, R291: Ewerlink's commands. Each ring command leaves its ring. A unicast one takes the next MID, and is refused with
NOT JOINED, RANGE or FORMAT, executed here, or sent; APPLY_AT with a time too far off or no group is refused, and otherwise noted as
seen and taken; a stray MBOX_CONT and an illegal OP are refused. A MAILBOX whose continuation has not been fetched waits. The register
commands: NOP changes nothing, REJOIN gives up the ID and joins again, CLRCNT clears the counters.
Choices of the model: log entry 48. -/
def Obligations.EwerlinkCommands : Prop :=
  (∀ (n : Fin 64) (w : Vector Word 8) (rest : List CmdWords) (s : State),
    (elFront s n w rest 1 → ∃ t, exec (.doorbell n) s = .next t ∧ onlyElCmd s t ∧ popped s t n rest ∧ t.el.mid = (s.el.mid + 1) % 256 ∧
      (s.elJoined = false → elRefused s t n w rest s.el.mid 1) ∧
      (s.elJoined = true → dbRefused (wfld w[2] 0 10) = true → elRefused s t n w rest s.el.mid 2) ∧
      (s.elJoined = true → dbRefused (wfld w[2] 0 10) = false →
        elQueued s t w (.doorbell (wfld w[2] 0 10) s.el.mid) ∧
        (s.elMine (wfld w[1] 0 10) = true → s.ecStill = false → (s.ecSrc (wfld w[2] 0 10)).act = false →
          (t.ecSrc (wfld w[2] 0 10)).pend = true ∧ t.el.ports = s.el.ports))) ∧
    (elFront s n w rest 2 → wfld w[1] 16 6 ≤ 24 →
      ∃ t, exec (.mailbox n) s = .next t ∧ onlyElCmd s t ∧ popped s t n rest ∧ t.el.mid = (s.el.mid + 1) % 256 ∧
        (s.elJoined = false → elRefused s t n w rest s.el.mid 1) ∧
        (s.elJoined = true → wfld w[1] 16 6 = 0 → elRefused s t n w rest s.el.mid 2) ∧
        (s.elJoined = true → 1 ≤ wfld w[1] 16 6 → elQueued s t w
          (.mailbox s.el.mid ((wordBytes [w[2], w[3], w[4], w[5], w[6], w[7]]).take (wfld w[1] 16 6))))) ∧
    (elFront s n w rest 2 → 24 < wfld w[1] 16 6 → rest = [] → exec (.mailbox n) s = .next s) ∧
    (∀ x rest', elFront s n w (some x :: rest') 2 → 24 < wfld w[1] 16 6 → rest'.head? ≠ some none →
      ∃ t, exec (.mailbox n) s = .next t ∧ onlyElCmd s t ∧ t.el.mid = (s.el.mid + 1) % 256 ∧
        (cmdOp x ≠ 3 → elRefused s t n w (some x :: rest') s.el.mid 4) ∧
        (cmdOp x = 3 → popped s t n rest' ∧
          (s.elJoined = true → wfld w[1] 16 6 ≤ 32 → elQueued s t w
            (.mailbox s.el.mid ((wordBytes [w[2], w[3], w[4], w[5], w[6], w[7], x[2], x[3]]).take (wfld w[1] 16 6)))))) ∧
    (elFront s n w rest 3 → ∃ t, exec (.mboxCont n) s = .next t ∧ onlyElCmd s t ∧ t.el.mid = s.el.mid ∧ elRefused s t n w rest 0 4) ∧
    (elFront s n w rest 4 →
      let T := w[2].toNat + 2 ^ 32 * w[3].toNat
      ∃ t, exec (.applyAt n) s = .next t ∧ onlyElCmd s t ∧ t.el.mid = s.el.mid ∧
        (wfld w[1] 24 8 = 0 ∨ 2 ^ 31 < ((T : Int) - s.nowNs).natAbs → elRefused s t n w rest 0 2) ∧
        (wfld w[1] 24 8 ≠ 0 → ((T : Int) - s.nowNs).natAbs ≤ 2 ^ 31 → popped s t n rest ∧ t.el.bseq = (s.el.bseq + 1) % 65536 ∧
          t.elSeen s.nodeId s.el.bseq = true ∧
          (∀ i : Fin 8, s.apValid i = false → (∀ j : Fin 8, j < i → s.apValid j = true) → T * 64 < 2 ^ 37 + s.now →
            t.apValid i = true ∧ t.apT i = T ∧ t.rget (F.AP_PENDi_INFO_GROUPS i) = wfld w[1] 24 8) ∧
          (∀ p : Fin 4, s.elTree p = true → s.el.ports[p].queue.length < 16 → t.el.ports[p].queue = s.el.ports[p].queue ++
            [⟨s.nodeId, 0, 0, false, .applyAt T (BitVec.ofNat 8 (wfld w[1] 24 8)) s.el.bseq⟩]))) ∧
    (∀ op, elFront s n w rest op → 5 ≤ op → op < 0x20 →
      ∃ t, exec (.elIllegal n) s = .next t ∧ onlyElCmd s t ∧ t.el.mid = s.el.mid ∧ elRefused s t n w rest 0 7)) ∧
  (∀ (p : Path) (s : State), s.takesWrites = true →
    exec (.elNop p) s = .next s ∧
    (∃ t, exec (.elClrcnt p) s = .next t ∧ (∀ q : Fin 4, t.reg (R.ELp_ERR q) = 0 ∧ t.reg (R.ELp_CNT q) = 0) ∧ t.reg R.EL_SRV_CNT = 0 ∧
      t.reg R.EL_DROP = 0 ∧ t.reg R.EL_CNT2 = 0 ∧ s.sameBlocks t ∧
      s.sameRegsBut t ([R.EL_SRV_CNT, R.EL_DROP, R.EL_CNT2] ++ (List.range 4).flatMap (fun q => [R.ELp_ERR q, R.ELp_CNT q]))) ∧
    (s.locked 7 = true → ∃ t, exec (.rejoin p) s = .next t ∧ countedOne s t F.GL_LOCK_VIOL_CNT ∧ t.reg R.EL_ID = s.reg R.EL_ID ∧
      s.sameBlocks t) ∧
    (s.locked 7 = false → ∃ t, exec (.rejoin p) s = .next t ∧ t.ron F.EL_ID_HELD_V = false ∧ t.rget F.EL_ID_HELD = 0 ∧
      t.rget F.EL_STAT_IDSTATE = (if s.elParent.isSome then 1 else 0) ∧
      (s.elParent.isSome = true → t.el.joinAt = s.spine.tick ∧ t.el.joinId = s.rget F.EL_ID_ID) ∧
      t.el.table = s.el.table ∧ onlyEwer s t ∧ ewerRegs s t))

/-! ### Staging and strobes -/

/-- The tick that has begun began with a strobe of a mask of groups: what they had staged is staged no more, and is what the tick shows; what
belongs to the Orreries and the converters is in force from its end (R180, R202, R312, R348). -/
def strobed (s t : State) (m : Nat) : Prop :=
  t.spine.tick = s.spine.tick + 1 ∧
  t.staged = s.staged.filter (fun e => !nbit m (s.groupOf e.1)) ∧ t.calS = s.calS.filter (fun e => !nbit m (s.calGroup e.1)) ∧
  (tblSorted s.staged = true → ∀ e ∈ s.staged, nbit m (s.groupOf e.1) = true →
    t.shownReg e.1 &&& word (stBits e.1) = e.2 &&& word (stBits e.1) ∧
    (waitsBlock e.1 = false → t.reg e.1 &&& word (stBits e.1) = e.2 &&& word (stBits e.1))) ∧
  (tblSorted s.calS = true → ∀ e ∈ s.calS, nbit m (s.calGroup e.1) = true →
    if waitsWord e.1 then tblFind t.ap.words e.1 = some e.2 else t.calUser e.1 = e.2) ∧
  t.ron F.AP_EVT_STROBE_S = true ∧ t.reg R.AP_LAST_LO = word t.nowNs

/-- Pending entry i strobes in the next tick: the spine reaches it there, or it was late when it was placed (R314). -/
def strobesNext (s : State) (i : Nat) : Bool := s.apValid i && (nbit s.ap.late.toNat i || decide (s.apT i * 64 ≤ s.tAhead 1))

/-- The groups that strobe in the next tick: those of the APPLYs that wait for it, of the entries that are due in it, and of `extra`. -/
def nextMask (s : State) (extra : Nat) : Nat :=
  (s.ap.reqs.foldl (fun (a : Nat) r => match r with | .apply m _ => a ||| m | .abort _ => a) extra) |||
    ((List.range 8).filter (fun i => strobesNext s i)).foldl (fun (a : Nat) i => a ||| s.rget (F.AP_PENDi_INFO_GROUPS i)) 0

/-- The registers of a pending entry. -/
def pendRegs (i : Nat) : List Nat := [R.AP_PENDi_LO i, R.AP_PENDi_HI i, R.AP_PENDi_INFO i, R.AP_PENDi_BSEQ i]

/-- R180, R202, R312 to R315, R318: the tick. All that the APPLYs before it, the entries due in it and the row have named strobes together at
its start, the groups' staged values as they stand then; the entries become free, and the requests are done. No ABORT waits behind an APPLY, no
phase command for the strobe, no write for the slow clock, and no slew has just ended. -/
def tickStrobes : Prop :=
  ∀ s : State, s.takesEvents = true → s.spine.counting = true → s.spine.pend = none → s.hif.slow = [] → (∀ l, s.spine.slew = some l → l.doneAt = none) →
    (∀ r ∈ s.ap.reqs, ∃ m p, r = .apply m p) →
    let done := fun (t : State) (extra : Nat) => strobed s t (nextMask s extra) ∧ t.ap.reqs = [] ∧
      ∀ i : Fin 8, (strobesNext s i = true → t.apValid i = false) ∧ (strobesNext s i = false → ∀ o ∈ pendRegs i, t.reg o = s.reg o)
    (∀ g : Fin 8, ∃ t, exec (.applyStrobe g) s = .next t ∧ done t (2 ^ g.val)) ∧
    (s.pending = [] → nextMask s 0 ≠ 0 → ∃ t, step s = .next t ∧ done t 0) ∧
    ((∃ i : Fin 8, strobesNext s i = true) → nextMask s 0 ≠ 0 → ∃ t, exec .applyAtDue s = .next t ∧ done t 0)

/-- R180, R202, R312 to R318: the apply block. A tick begins with one strobe of all that is due in it, which makes active, and unstages, all that
its groups have staged; an APPLY asks for one in the first tick after it; an APPLY_AT takes the first free entry, or is refused as full or
out of range; entries that the spine has reached strobe together and become free; CANCEL takes groups away from the entries, ABORT unstages
groups, after the strobe where an APPLY waits, FENCE counts, and a mask without a group does nothing.
Choices of the model: log entries 2 and 41. -/
def Obligations.ApplyCommandsRun : Prop :=
  tickStrobes ∧
  (∀ (p : Path) (m : BitVec 8) (s : State), s.takesWrites = true →
    (m = 0 → exec (.apApply p m) s = .next s ∧ exec (.apAtCmd p m) s = .next s) ∧
    (m ≠ 0 → exec (.apApply p m) s = .next { s with ap := { s.ap with reqs := s.ap.reqs ++ [.apply m.toNat (pathBit p)] } }) ∧
    (m ≠ 0 →
      let T := (s.heldWord p R.AP_AT_LO).toNat + 2 ^ 32 * (s.heldWord p R.AP_AT_HI).toNat
      ∃ t, exec (.apAtCmd p m) s = .next t ∧ State.sameBlocks { s with ap := t.ap } t ∧
        (∀ i : Fin 8, s.apValid i = false → (∀ j : Fin 8, j < i → s.apValid j = true) → T * 64 < 2 ^ 37 + s.now →
          t.apValid i = true ∧ t.apT i = T ∧ t.rget (F.AP_PENDi_INFO_GROUPS i) = m.toNat ∧
          t.rget (F.AP_PENDi_INFO_ORIGIN i) = pathBit p ∧ s.sameRegsBut t (pendRegs i)) ∧
        (2 ^ 37 + s.now ≤ T * 64 → t.ron F.AP_EVT_RANGE_S = true ∧ countedOne s t F.AP_CNT_REFUSED ∧ t.ap = s.ap ∧
          s.sameRegsBut t [R.AP_EVT, R.AP_CNT]) ∧
        ((∀ j : Fin 8, s.apValid j = true) → T * 64 < 2 ^ 37 + s.now → t.ron F.AP_EVT_FULL_S = true ∧ countedOne s t F.AP_CNT_REFUSED ∧
          t.ap = s.ap ∧ s.sameRegsBut t [R.AP_EVT, R.AP_CNT])) ∧
    (∃ t, exec (.apCancel p m) s = .next t ∧ State.sameBlocks { s with ap := t.ap } t ∧
      (∀ i : Fin 8, (s.apValid i = false → ∀ o ∈ pendRegs i, t.reg o = s.reg o) ∧
        (s.apValid i = true → s.rget (F.AP_PENDi_INFO_GROUPS i) &&& (255 - m.toNat) = 0 → t.apValid i = false) ∧
        (s.apValid i = true → s.rget (F.AP_PENDi_INFO_GROUPS i) &&& (255 - m.toNat) ≠ 0 → t.apValid i = true ∧ t.apT i = s.apT i ∧
          t.rget (F.AP_PENDi_INFO_GROUPS i) = s.rget (F.AP_PENDi_INFO_GROUPS i) &&& (255 - m.toNat))) ∧
      s.sameRegsBut t ((List.range 8).flatMap pendRegs)) ∧
    (s.ap.reqs = [] → exec (.apAbort p m) s = .next { s with
      staged := s.staged.filter (fun e => !nbit m.toNat (s.groupOf e.1)), calS := s.calS.filter (fun e => !nbit m.toNat (s.calGroup e.1)) }) ∧
    (s.ap.reqs ≠ [] → exec (.apAbort p m) s = .next { s with ap := { s.ap with reqs := s.ap.reqs ++ [.abort m.toNat] } }) ∧
    exec (.apFence p) s = .next (s.modPath p (fun q => { q with fences := q.fences + 1 }))) ∧
  (∀ (p : Path) (s : State), s.powered = true →
    exec (.apFenceRead p) s = .next (s.modPath p (fun q => { q with rdata := [(s.path p).fences] }))) ∧
  (∀ s : State, s.takesEvents = true →
    (∀ i : Fin 8, strobesNext s i = false) → exec .applyAtDue s = .next s)

/-! ### Locks, signature, summary -/

/-- Where the next on-chip summary goes: the two buffers take turns (R326). -/
def nextSummary (s : State) : Nat := if s.rget F.GL_SUMCNT_CNT = 0 ∨ s.rget F.GL_SUMSTAT_LAST = 1 then 0x3A0000 else 0x3A1000

/-- R10, R308, R319, R320, R323 to R327, R241: a written lock bit stays set, CSTORE locks the control stores too, and the host tag is written once. A
signature is computed from its request to its end, is stale where the configuration changed on the way, and one that runs serves every
request; so does a summary, whose 1,024 words close with their CRC and fill the two buffers by turns, and whose COUNT reads 0 from its start
to its end; the ring command writes one where it is told, waits while the record writer has requests of its own to host memory, and answers
with an error while host memory is out of reach.
Choices of the model: log entries 23, 24, 48, 49 and 69. -/
def Obligations.LocksSignatureSummary : Prop :=
  (∀ (p : Path) (v : Word) (s : State), s.takesWrites = true →
    (∃ t, exec (.glLockWrite p v) s = .next t ∧ t.rget F.GL_LOCK_DOMAINS = s.rget F.GL_LOCK_DOMAINS ||| wfld v 0 12 ∧ s.sameBlocks t ∧
      s.sameRegsBut t ([R.GL_LOCK, R.GL_CFGGEN] ++ if nbit v.toNat 9 then (List.range 8).map (fun e => R.CSe_CTRL e) else []) ∧
      (nbit v.toNat 9 = true → ∀ e : Fin 8, t.ron (F.CSe_CTRL_LOCK e) = true ∧ t.ron (F.CSe_CTRL_WE e) = false)) ∧
    (s.ron F.GL_STAT_HOSTTAG_SET = false → ∃ t, exec (.glHosttagWrite p v) s = .next t ∧ t.reg R.GL_HOSTTAG = v ∧
      t.ron F.GL_STAT_HOSTTAG_SET = true ∧ s.sameRegsBut t [R.GL_HOSTTAG, R.GL_STAT, R.GL_CFGGEN] ∧ s.sameBlocks t) ∧
    (s.ron F.GL_STAT_HOSTTAG_SET = true → ∃ t, exec (.glHosttagWrite p v) s = .next t ∧ t.reg R.GL_HOSTTAG = s.reg R.GL_HOSTTAG ∧
      countedOne s t F.GL_LOCK_VIOL_CNT ∧ t.ron F.GL_EVT_LOCK_S = true ∧ s.sameBlocks t) ∧
    exec (.signatureGo p) s = .next (if s.hif.sig.isSome then s else
      { s with hif := { s.hif with sig := some ⟨pathBit p, s.rget F.GL_CFGGEN_GEN, s.now⟩ } }) ∧
    exec (.summaryGo p) s = .next (if s.hif.sum.isSome then s else
      { s with
        sram := memWrWs s.sram (nextSummary s + 8) [0]
        hif := { s.hif with sum := some ⟨0, s.now, s.ron F.SPN_STAT_COARSE⟩ } })) ∧
  (∀ s : State, s.takesEvents = true →
    (s.hif.sig = none → exec .signatureDone s = .next s) ∧
    (∀ q, s.hif.sig = some q → ∃ t, exec .signatureDone s = .next t ∧ { t.hif with evSet := s.hif.evSet } = { s.hif with sig := none } ∧
      State.sameBlocks { s with hif := t.hif, free := t.free } t ∧ s.sameRegsBut t [R.GL_SIG, R.GL_SIGGEN, R.GL_SIGSTAT, R.GL_EVT] ∧
      t.ron F.GL_SIGSTAT_VALID = true ∧ t.ron F.GL_SIGSTAT_STALE = (s.rget F.GL_CFGGEN_GEN != q.gen) ∧ t.rget F.GL_SIGSTAT_REQ = q.req % 4 ∧
      t.reg R.GL_SIGGEN = word q.gen ∧ t.ron F.GL_EVT_SIG_S = true ∧ (s.rget F.GL_CFGGEN_GEN = q.gen → t.reg R.GL_SIG = s.signature)) ∧
    (let due := s.rget F.GL_SUMCFG_PERIOD ≠ 0 ∧ s.hif.periodAt + s.rget F.GL_SUMCFG_PERIOD * 64000000 ≤ s.now
     (¬ due → exec .summaryPeriod s = .next s) ∧
     (due → ∃ t, exec .summaryPeriod s = .next t ∧ t.hif.periodAt = s.now ∧
      t.hif.sum = (if s.hif.sum.isSome then s.hif.sum else some ⟨1, s.now, s.ron F.SPN_STAT_COARSE⟩) ∧ (∀ o, t.reg o = s.reg o) ∧
      t.sram = (if s.hif.sum.isSome then s.sram else memWrWs s.sram (nextSummary s + 8) [0]) ∧
      State.sameBlocks { s with hif := t.hif, sram := t.sram } t)) ∧
    (s.hif.sum = none → exec .summaryDone s = .next s) ∧
    (∀ q, s.hif.sum = some q → ∃ t ws, exec .summaryDone s = .next t ∧ ws.length = 1024 ∧ ws.head? = some 0x36395853 ∧
      ws.getLast? = some (crcFinal (crcWords crcInit (ws.dropLast.map BitVec.toNat))) ∧
      t.sram = memWrWs s.sram (nextSummary s) ws ∧
      t.rget F.GL_SUMCNT_CNT = (if s.rget F.GL_SUMCNT_CNT = 2 ^ 32 - 1 then 1 else s.rget F.GL_SUMCNT_CNT + 1) ∧
      t.ron F.GL_EVT_SUM_S = true ∧ { t.hif with evSet := s.hif.evSet } = { s.hif with sum := none } ∧ s.sameRegsBut t [R.GL_SUMCNT, R.GL_SUMSTAT, R.GL_EVT] ∧
      State.sameBlocks { s with hif := t.hif, sram := t.sram } t)) ∧
  (∀ (n : Fin 64) (w : Vector Word 8) (rest : List CmdWords) (s : State), fronts s n w rest → cmdOp w = 0x22 →
    let a := w[2].toNat + 2 ^ 32 * w[3].toNat
    (s.hif.sum.isSome = true ∨ (wfld w[1] 0 1 = 0 ∧ s.writerAsks = true ∧ s.hostOpen = true) → exec (.summary n) s = .next s) ∧
    (s.hif.sum = none → ¬ (wfld w[1] 0 1 = 0 ∧ s.writerAsks = true ∧ s.hostOpen = true) → ∃ t ws, exec (.summary n) s = .next t ∧ ws.length = 1024 ∧ ws.head? = some 0x36395853 ∧ s.sameRegsBut t [] ∧
      (wfld w[1] 0 1 = 1 → a + 0x1000 ≤ 0x400000 → t.sram = memWrWs s.sram a ws ∧ t.host = s.host ∧ ringAnswer s t n w 0) ∧
      (wfld w[1] 0 1 = 1 → 0x400000 < a + 0x1000 → t.sram = s.sram ∧ t.host = s.host) ∧
      (wfld w[1] 0 1 = 0 → s.hostOpen = true → t.host = memWrWs s.host a ws ∧ t.sram = s.sram ∧ ringAnswer s t n w 0) ∧
      (wfld w[1] 0 1 = 0 → s.hostOpen = false → t.host = s.host ∧ t.sram = s.sram ∧ popped s t n rest ∧ ringAnswer s t n w 8)))

/-! ### Host accesses -/

/-- The other host path. -/
def otherPath (p : Path) : Path := match p with | .pcie => .spi | .spi => .pcie

/-- A register once the writes that wait for the slow clock have been applied, in their order. -/
def afterSlow (s : State) (o : Nat) : Word :=
  s.hif.slow.foldl (fun (w : Word) x => if x.ofs = o then (w &&& ~~~x.bits) ||| (x.w &&& x.bits) else w) (s.reg o)

/-- R306, R310, R323: a write of a register of the slow domain waits for the next edge of the slow clock, behind those that wait already; that
edge applies the bits that each selects, and a later one stands over an earlier. The configuration counter moves at that edge, by one where
it changed a value of the configuration, and not where the register ends as it was. The copy that reads show follows one edge later. -/
def slowWrites : Prop :=
  (∀ (p : Path) (v : Word) (s : State), s.takesWrites = true →
    (∃ t, exec (.registerWrite p (word R.PW_RET_TMR) v true) s = .next t ∧
      t.hif = { s.hif with slow := s.hif.slow ++ [⟨p, R.PW_RET_TMR, 0xFFFFFFFF, v⟩] } ∧
      (∀ o, t.reg o = s.reg o) ∧ State.sameBlocks { s with hif := t.hif } t) ∧
    (∃ t x, exec (.registerWrite p (word R.PW_CTRL) v true) s = .next t ∧ x.path = p ∧ x.ofs = R.PW_CTRL ∧
      wfld x.w 3 1 = (if nbit v.toNat 19 then wfld v 3 1 else wfld (afterSlow s R.PW_CTRL) 3 1) ∧ nbit x.bits.toNat 3 = nbit v.toNat 19 ∧
      wfld x.w 2 1 = (if nbit v.toNat 18 then wfld v 2 1 else wfld (afterSlow s R.PW_CTRL) 2 1) ∧ nbit x.bits.toNat 2 = nbit v.toNat 18 ∧
      t.hif = { s.hif with slow := s.hif.slow ++ [x] } ∧ (∀ o, t.reg o = s.reg o) ∧ State.sameBlocks { s with hif := t.hif } t)) ∧
  (∀ s : State, s.pending = [] → s.takesEvents = true → (s.spine.counting = true → slowEdgeAt s.spine.tick = true) → s.hif.slow ≠ [] →
    (∀ x ∈ s.hif.slow, x.ofs = R.PW_RET_TMR ∨ x.ofs = R.PW_CTRL) →
    ∃ t, step s = .next t ∧ t.hif.slow = [] ∧ (∀ o ∈ [R.PW_RET_TMR, R.PW_CTRL], t.reg o = afterSlow s o) ∧
      t.hif.slowOld = s.hif.slow.map (fun x => { x with w := s.reg x.ofs }) ∧ (∀ x ∈ s.hif.slow, ∀ p, t.liveWord p false x.ofs = s.reg x.ofs) ∧
      (s.spine.counting = false → t.rget F.GL_CFGGEN_GEN =
        (s.rget F.GL_CFGGEN_GEN + ([R.PW_RET_TMR, R.PW_CTRL].filter (fun o => decide (t.sigValue o ≠ s.sigValue o))).length) % 2 ^ 32))

/-- R6, R293, R295, R305 to R311: register accesses. A write gives an RW field its value, an RWM field the bits that its mask selects, clears
W1C bits written as ones that hardware does not set in the tick, leaves an RO register, and stages an ST field; one of the slow domain waits
for its clock behind the others; a partial write and an access to nothing are counted, a partial one to nothing in the register space twice, and do no
more; a read of an RL register leaves copies of its partners on its own path.
Choices of the model: log entries 4, 93, 95, 97 and 115. -/
def Obligations.RegisterAccesses : Prop :=
  slowWrites ∧
  (∀ (p : Path) (a v : Word) (o : Nat) (s : State), s.takesWrites = true → siteOf p a.toNat = .reg o →
    ∃ t, exec (.registerWrite p a v false) s = .next t ∧ countedOne s t F.GL_ERRCNT_PARTIAL ∧ t.ron F.GL_EVT_PARTIAL_S = true ∧
      s.sameRegsBut t [R.GL_ERRCNT, R.GL_EVT] ∧ s.sameBlocks t) ∧
  (∀ (p : Path) (v : Word) (s : State), s.takesWrites = true →
    (∃ t, exec (.registerWrite p (word R.SPN_DUR) v true) s = .next t ∧ t.reg R.SPN_DUR = v ∧ s.sameRegsBut t [R.SPN_DUR] ∧ s.sameBlocks t) ∧
    (∃ t, exec (.registerWrite p (word R.AP_CTRL) v true) s = .next t ∧
      t.rget F.AP_CTRL_VIEW_P = (if nbit v.toNat 16 then wfld v 0 1 else s.rget F.AP_CTRL_VIEW_P) ∧
      t.rget F.AP_CTRL_VIEW_S = (if nbit v.toNat 17 then wfld v 1 1 else s.rget F.AP_CTRL_VIEW_S) ∧
      s.sameRegsBut t [R.AP_CTRL] ∧ s.sameBlocks t) ∧
    (∃ t, exec (.registerWrite p (word R.HL_EVT) v true) s = .next t ∧
      t.reg R.HL_EVT &&& 0x7F = s.reg R.HL_EVT &&& (~~~v ||| s.setNow R.HL_EVT) &&& 0x7F ∧ s.sameRegsBut t [R.HL_EVT] ∧ s.sameBlocks t) ∧
    (∃ t, exec (.registerWrite p (word R.ID) v true) s = .next t ∧ (∀ o, t.reg o = s.reg o) ∧ s.sameBlocks t) ∧
    (∀ c : Fin 96, s.locked 2 = false → wfld v 24 8 = 255 → ∃ t w, exec (.registerWrite p (word (R.CHc_PIN c)) v true) s = .next t ∧
      (∀ o, t.reg o = s.reg o) ∧ tblFind t.staged (R.CHc_PIN c) = some w ∧ wfld w 8 8 = wfld v 8 8 ∧
      (∀ o, o ≠ R.CHc_PIN c → tblFind t.staged o = tblFind s.staged o) ∧ State.sameBlocks { s with staged := t.staged } t)) ∧
  (∀ (p : Path) (a v : Word) (full isWrite : Bool) (s : State), siteOf p a.toNat = .unmapped → s.takesWrites = true →
    ∀ c ∈ [Instr.registerWrite p a v full, .unmappedAccess p a isWrite, .rlRead p a],
      ∃ t, exec c s = .next t ∧ countedOne s t F.GL_ERRCNT_UNMAP ∧ t.ron F.GL_EVT_UNMAP_S = true ∧
        s.sameRegsBut t [R.GL_ERRCNT, R.GL_EVT] ∧ State.sameBlocks { s with pcie := t.pcie, spi := t.spi } t ∧
        (c = .registerWrite p a v false → a.toNat < 0x400000 → countedOne s t F.GL_ERRCNT_PARTIAL ∧ t.ron F.GL_EVT_PARTIAL_S = true) ∧
        (c = .registerWrite p a v true → t.rget F.GL_ERRCNT_PARTIAL = s.rget F.GL_ERRCNT_PARTIAL) ∧
        (c = .rlRead p a ∨ (c = .unmappedAccess p a isWrite ∧ isWrite = false) → (t.path p).rdata = [0])) ∧
  (∀ a : Nat, 0xF000 ≤ a → a < 0x10000 → siteOf .spi a = .unmapped) ∧
  (∀ (p : Path) (s : State), s.powered = true →
    ∃ t, exec (.rlRead p (word R.SPN_NOW_LO)) s = .next t ∧ (t.path p).rdata = [word s.nowNs] ∧
      t.shadowWord p R.SPN_NOW_HI = word (s.nowNs / 2 ^ 32) ∧ t.shadowWord p R.SPN_NOW_SUB = word (tSub s.now) ∧
      t.path (otherPath p) = s.path (otherPath p) ∧ (∀ o, t.reg o = s.reg o) ∧ State.sameBlocks { s with pcie := t.pcie, spi := t.spi } t)

/-- The two read frames and the two write frames of SPI. -/
def readFrame (quad : Bool) (a : Word) (n : Fin 257) (late : Bool) (form : SpiForm) : Instr :=
  if quad then .spiQread a n ⟨late, form⟩ else .spiRead a n ⟨late, form⟩
def writeFrame (quad : Bool) (a : Word) (ws : List Word) (form : SpiForm) : Instr := if quad then .spiQwrite a ws form else .spiWrite a ws form

/-- A frame or a word has been discarded (R300, R303). -/
def discarded (s t : State) : Prop :=
  countedOne s t F.GL_SPISTAT_FRAME ∧ { t.hif with evSet := s.hif.evSet } = { s.hif with frame := true } ∧ t.ron F.GL_EVT_SPI_S = true ∧
  s.sameRegsBut t [R.GL_SPISTAT, R.GL_EVT]

/-- R24, R295, R296, R300 to R304, R371, R375: SPI frames and the memory windows. A frame with an unknown instruction, or at an address that no word has, is discarded; a read goes on
from word to word in a window, and shows all ones behind one register; a late read shows all ones first and is counted; a write stores
its words; a frame that ends within a word discards that word. RDSR sends the status and clears it; IFRESET changes nothing. A window write stores the bytes that
its enables select; the MRAM takes writes in its user area only; a word that cannot be corrected reads as ones and is reported.
Choices of the model: log entries 28, 79 and 83. -/
def Obligations.FramesAndWindows : Prop :=
  (∀ (quad late : Bool) (a : Word) (n : Fin 257) (s : State), s.powered = true →
    (∀ form, a.toNat % 4 ≠ 0 ∨ form = .unknown →
      ∃ t, exec (readFrame quad a n late form) s = .next t ∧ discarded s t ∧ State.sameBlocks { s with hif := t.hif } t) ∧
    (1 ≤ n.val → a.toNat % 4 = 0 → 0x1000000 ≤ a.toNat → a.toNat + 4 * n.val ≤ 0x1080000 → late = false →
      exec (readFrame quad a n late .whole) s = .next (s.modPath .spi (fun q => { q with
        rdata := (List.range n.val).map (fun i => memRdW s.sram (a.toNat - 0x1000000 + 4 * i)) }))) ∧
    (n.val < 256 → a.toNat % 4 = 0 → 0x1000000 ≤ a.toNat → a.toNat + 4 * n.val < 0x1080000 → late = false →
      ∃ t, exec (readFrame quad a n late .torn) s = .next t ∧ discarded s t ∧ State.sameBlocks { s with hif := t.hif, spi := t.spi } t ∧
        t.spi.rdata = (List.range n.val).map (fun i => memRdW s.sram (a.toNat - 0x1000000 + 4 * i))) ∧
    (1 ≤ n.val → exec (readFrame quad (word R.ID) n false .whole) s =
      .next (s.modPath .spi (fun q => { q with rdata := s.reg R.ID :: List.replicate (n.val - 1) 0xFFFFFFFF }))) ∧
    (1 ≤ n.val → ∃ t, exec (readFrame quad (word R.ID) n true .whole) s = .next t ∧ t.spi.rdata = List.replicate n.val 0xFFFFFFFF ∧
      countedOne s t F.GL_SPISTAT_UNDER ∧ { t.hif with evSet := s.hif.evSet } = { s.hif with under := true } ∧
      s.sameRegsBut t [R.GL_SPISTAT, R.GL_EVT])) ∧
  (∀ (quad : Bool) (a : Word) (ws : List Word) (form : SpiForm) (s : State), s.takesWrites = true →
    (a.toNat % 4 ≠ 0 ∨ form = .unknown →
      ∃ t, exec (writeFrame quad a ws form) s = .next t ∧ discarded s t ∧ State.sameBlocks { s with hif := t.hif } t) ∧
    (a.toNat % 4 = 0 → 0x1000000 ≤ a.toNat → a.toNat + 4 * ws.length ≤ 0x1080000 → ws.length ≤ 256 → form ≠ .unknown →
      ∃ t, exec (writeFrame quad a ws form) s = .next t ∧ t.sram = memWrWs s.sram (a.toNat - 0x1000000) ws ∧
        State.sameBlocks { s with sram := t.sram, hif := t.hif } t ∧ (form = .torn → discarded s t) ∧
        (form = .whole → t.hif = s.hif ∧ ∀ o, t.reg o = s.reg o))) ∧
  (∀ s : State, exec .ifreset s = .next s) ∧
  (∀ s : State, s.powered = true → exec .rdsr s = .next { s with
    spi := { s.spi with rdata := [word (bitAt 1 s.hif.under + bitAt 2 s.hif.frame + bitAt 3 s.hif.rstd)] }
    hif := { s.hif with under := false, frame := false, rstd := false } }) ∧
  (∀ (p : Path) (a v : Word) (be : BitVec 4) (b : Nat) (s : State), s.takesWrites = true →
    (siteOf p a.toNat = .sram b → b < 0x80000 → ∃ t, exec (.sramWindowWrite p a v be) s = .next t ∧ t = { s with sram := t.sram } ∧
      (∀ i : Fin 4, memRd t.sram (b + i.val) = if p = .spi ∨ nbit be.toNat i.val = true then BitVec.ofNat 8 (v.toNat / 2 ^ (8 * i.val))
        else memRd s.sram (b + i.val)) ∧
      (∀ k, k < b ∨ b + 4 ≤ k → memRd t.sram k = memRd s.sram k)) ∧
    (siteOf p a.toNat = .mram b → 0x78000 ≤ b →
      exec (.mramWindowWrite p a v) s = .next { s with mram := memWrWs s.mram b [v] }) ∧
    (siteOf p a.toNat = .mram b → b < 0x78000 → ∃ t, exec (.mramWindowWrite p a v) s = .next t ∧ t.mram = s.mram ∧
      t.ron F.HL_EVT_MRAM_S = true ∧ s.sameRegsBut t [R.HL_EVT] ∧ s.sameBlocks t)) ∧
  (∀ (p : Path) (a : Word) (b : Nat) (s : State), s.powered = true →
    (siteOf p a.toNat = .sram b → b < 0x80000 ∨ (0x380000 ≤ b ∧ b < 0x388000) →
      exec (.hostWindowRead p a .ok) s = .next (s.modPath p (fun q => { q with rdata := [memRdW s.sram b] }))) ∧
    (siteOf p a.toNat = .mram b → 0x8000 ≤ b →
      exec (.hostWindowRead p a .ok) s = .next (s.modPath p (fun q => { q with rdata := [memRdW s.mram b] }))) ∧
    (siteOf p a.toNat = .sram b → b < 0x80000 → s.frozen = false → ∃ t, exec (.hostWindowRead p a .corrected) s = .next t ∧
      (t.path p).rdata = [memRdW s.sram b] ∧ countedOne s t F.HL_ECC_CORR ∧ t.ron F.HL_EVT_ECC_C_S = true ∧
      s.sameRegsBut t [R.HL_ECC, R.HL_EVT] ∧ State.sameBlocks { s with pcie := t.pcie, spi := t.spi } t) ∧
    (siteOf p a.toNat = .mram b → s.frozen = false → ∃ t, exec (.hostWindowRead p a .bad) s = .next t ∧
      (t.path p).rdata = [0xFFFFFFFF] ∧ countedOne s t F.HL_ECC_UNCORR ∧ t.reg R.HL_ECCADDR = word (b + 2 ^ 31) ∧
      t.ron F.HL_EVT_ECC_U_S = true ∧ t.ron F.HL_EVT_MRAM_S = true ∧ s.sameRegsBut t [R.HL_ECC, R.HL_ECCADDR, R.HL_EVT] ∧
      State.sameBlocks { s with pcie := t.pcie, spi := t.spi } t) ∧
    (siteOf p a.toNat = .sram b → s.frozen = false → ∃ t, exec (.hostWindowRead p a .bad) s = .next t ∧
      (t.path p).rdata = [0xFFFFFFFF] ∧ countedOne s t F.HL_ECC_UNCORR ∧ t.reg R.HL_ECCADDR = word b ∧ t.ron F.HL_EVT_ECC_U_S = true ∧
      s.sameRegsBut t [R.HL_ECC, R.HL_ECCADDR, R.HL_EVT] ∧ State.sameBlocks { s with pcie := t.pcie, spi := t.spi } t))

/-- The device's own traffic to host memory has stopped, which can leave the record writer room (R25, R299). -/
def hostStopped (s t : State) : Prop :=
  countedOne s t F.GL_PCIE_LINKDOWN ∧ (∀ n ∈ s.hostRings, t.rget (F.RINGn_STAT_ERR n) = 2 ∧ t.ron (F.RINGn_EVT_HOSTERR_S n) = true) ∧
  (s.ron F.LH_CTRL_EN = true → s.lhStandalone = false → t.ron F.LH_STAT_HOSTERR = true) ∧
  (s.atCeil = false → ∀ n : Fin 64, n ∉ s.hostRings → t.rings[n] = s.rings[n]) ∧
  State.sameBlocks { s with fn := t.fn, rings := t.rings, ec := t.ec, gaf := t.gaf, ch := t.ch } t ∧
  (s.atCeil = false → State.sameBlocks { s with fn := t.fn, rings := t.rings, ec := t.ec } t)

/-- The function's configuration space once it has returned to its defaults (R299). -/
def atDefaults (f : PcieFn) : PcieFn :=
  { f with
    bme := false, msixEn := false, fmask := false, d3 := false, bar0 := 0, payload := 0, readReq := 2, extTag := false, aspmL1 := false
    cplTo := 0, aerMask := 0, aerSev := 0x00462030, aerCor := 0x2000, aerSts := 0 }

/-- R254, R297 to R299, R342, R378, R401: what happens to the PCIe function. Link-down and a function reset clear the host's settings, link-down
also the MSI-X table and its pending bits; a cleared Bus Master Enable and a left D0 change only themselves, and a timed-out completion is
noted in the error status; each stops the device's own traffic. A link that trains shows its width and speed; the host's settings follow
once configuration requests are answered, and with MSI-X enabled each target that has a source assigned sends a message, but none while the
device is frozen.
Choices of the model: log entries 37, 49, 66 and 74. -/
def Obligations.PcieFunctionRuns : Prop :=
  ∀ s : State,
    (s.fn.linkUp = false → exec .pcieLinkDown s = .next s ∧ exec .functionLevelReset s = .next s ∧ exec .d0Exit s = .next s) ∧
    (s.fn.linkUp = true →
      (∃ t, exec .pcieLinkDown s = .next t ∧ hostStopped s t ∧ 
        t.fn = { atDefaults s.fn with linkUp := false, width := 0, speed := 0, table := [] } ∧ t.ec.msixPend = 0) ∧
      (∃ t, exec .functionLevelReset s = .next t ∧ hostStopped s t ∧ t.fn = atDefaults s.fn) ∧
      (s.fn.d3 = false → ∃ t, exec .d0Exit s = .next t ∧ hostStopped s t ∧ t.fn = { s.fn with d3 := true }) ∧
      (s.fn.d3 = true → exec .d0Exit s = .next s)) ∧
    (s.fn.bme = false → exec .busMasterDisable s = .next s) ∧
    (s.fn.bme = true → ∃ t, exec .busMasterDisable s = .next t ∧ hostStopped s t ∧ t.fn = { s.fn with bme := false }) ∧
    (s.hostOpen = false → exec .completionTimeout s = .next s) ∧
    (s.hostOpen = true → ∃ t, exec .completionTimeout s = .next t ∧ hostStopped s t ∧
      t.fn = { s.fn with aerSts := s.fn.aerSts ||| 0x4000 }) ∧
    (∀ (wide : Bool) (speed : Fin 3) (bme : Bool) (mx : MsixCtl) (cfg : PcieCfg),
      let up := { s.fn with linkUp := true, width := if wide then 2 else 1, speed := speed.val + 1 }
      (s.powered = false ∨ s.ron F.PW_STAT_VPE_OK = false → exec (.pcieLinkUp wide speed bme mx cfg) s = .next s) ∧
      (s.powered = true → s.ron F.PW_STAT_VPE_OK = true → s.fn.linkUp = false →
        ∃ t, exec (.pcieLinkUp wide speed bme mx cfg) s = .next t ∧ (∀ o, t.reg o = s.reg o) ∧ State.sameBlocks { s with fn := t.fn, ec := t.ec } t ∧
          (s.configReady = false ∨ s.fn.d3 = true → t.fn = up ∧ t.ec = s.ec) ∧
          (s.configReady = true → s.fn.d3 = false →
            t.fn = { up with
              bme := s.fn.bme || bme, msixEn := mx.enable, fmask := mx.fmask, bar0 := cfg.bar0 &&& 0xFFFFFFFFFC000000,
              payload := cfg.payload.val, readReq := cfg.readReq.val, extTag := cfg.extTag, aspmL1 := cfg.aspmL1
              cplTo := cfg.cplTo.val, aerMask := cfg.aerMask, aerSev := cfg.aerSev, aerCor := cfg.aerCor } ∧
            t.ec.srcs = s.ec.srcs ∧
            (s.frozen = true → t.ec.msix = s.ec.msix) ∧
            ∀ v : Fin 8, s.frozen = false → mx.enable = true → s.rget (F.EC_TCFGt_KIND v) = 0 → s.ecAssigned v ≠ [] → t.vecMasked v = false →
              v.val ∈ t.ec.msix)))

/-- The pages that are decoded in part, with the status register that their unnamed offsets show: base and status register (R53, R118, R152,
R184, R202, R231, R258, R290, R292, R328, R329, R350, R383 to R386). -/
def statusPages : List (Nat × Nat) :=
  [(0x0000, R.GL_STAT), (0x1000, R.SPN_STAT), (0x2000, R.EC_STAT), (0x3000, R.AP_STAT), (0x4000, R.EL_STAT), (0x5000, R.PW_STAT),
    (0x6000, R.CFG_STAT), (0x7000, R.HL_STAT), (0x8000, R.FRZ_STAT), (0x9000, R.PSQ_STAT), (0x18000, R.CV_STAT), (0x20000, R.LH_STAT)] ++
    (List.finRange 4).map (fun n : Fin 4 => (0x10000 + 0x1000 * n.val, R.ORYn_STAT n)) ++
    (List.finRange 8).map (fun e : Fin 8 => (0x40000 + 0x1000 * e.val, R.Ge_STAT e)) ++
    (List.finRange 8).map (fun e : Fin 8 => (0x410000 + 0x20000 * e.val, R.CSe_STAT e))

/-- The areas that are decoded in full, beside the channel blocks (R149, R231, R259, R294): the ring page, the microwords, and the windows of SRAM
and MRAM; and the pages that alias the ring page and the Lehr's. -/
def fullAreas (p : Path) : Prop :=
  (∀ (n : Fin 64) (i : Nat) (k : Fin 16), i < 0x40 →
    let o := 0x30000 + 0x40 * n.val + i / 4 * 4
    siteOf p (0x30000 + 0x1000 * k.val + 0x40 * n.val + i) = (if (descAt o).isSome then .reg o else .blank) ∧ (0x2C ≤ i → descAt o = none)) ∧
  (∀ (k : Fin 16) (i : Nat), i < 0x1000 → siteOf p (0x20000 + 0x1000 * k.val + i) = siteOf p (0x20000 + i)) ∧
  (∀ (e : Fin 8) (w : Fin 2048) (i : Nat), i < 0x20 →
    siteOf p (0x400000 + 0x20000 * e.val + 0x20 * w.val + i) = (if i < 0x14 then .micro e w (i / 4) else .blank)) ∧
  (∀ a : Nat, (a < 0x400000 → siteOf p (0x1000000 + a) = .sram (a / 4 * 4)) ∧ (a < 0x80000 → siteOf p (0x2000000 + a) = .mram (a / 4 * 4)))

/-- R53, R84, R118, R152, R184, R231, R294, R329, R384, R385, R386: unnamed offsets. In the pages that are decoded in part, offsets 0x400 to 0xFFF
act as 0x000 to 0x3FF do; a read of an offset that the map does not name returns the page's status register, and a write there has no
effect. A Gaffer page names every offset from 0x100. The channel blocks, the ring page, the microwords and the windows are decoded in full:
in a channel block an unnamed offset reads 0, a write there has no effect, and a named one leads to its own register. -/
def Obligations.UnnamedOffsetsShowTheStatus : Prop :=
  (∀ p : Path, fullAreas p) ∧
  (∀ (base st i : Nat) (p : Path) (s : State), (base, st) ∈ statusPages → i < 0x400 →
    (∀ (j : Fin 4) (v : Word) (full : Bool), exec (.rlRead p (word (base + 0x400 * j + i))) s = exec (.rlRead p (word (base + i))) s ∧
      exec (.registerWrite p (word (base + 0x400 * j + i)) v full) s = exec (.registerWrite p (word (base + i)) v full) s) ∧
    (descAt (base + i / 4 * 4) = none → exec (.rlRead p (word (base + i))) s = exec (.rlRead p (word st)) s ∧
      (s.powered = true → ∃ t, exec (.rlRead p (word (base + i))) s = .next t ∧ (t.path p).rdata = [s.readWord p st]) ∧
      (s.takesWrites = true → ∀ v : Word, exec (.registerWrite p (word (base + i)) v true) s = .next s))) ∧
  (∀ (e : Fin 8) (i : Nat), 0x100 ≤ i → i < 0x400 → (descAt (0x40000 + 0x1000 * e.val + i / 4 * 4)).isSome = true) ∧
  (∀ (c : Fin 96) (i : Nat) (p : Path) (s : State), i < 0x400 →
    let o := 0x100000 + 0x400 * c.val + i / 4 * 4
    let a := 0x100000 + 0x400 * c.val + i
    (descAt o ≠ none → siteOf p a = .reg o) ∧
    (descAt o = none → (s.powered = true → ∃ t, exec (.rlRead p (word a)) s = .next t ∧ (t.path p).rdata = [0]) ∧
      (s.takesWrites = true → ∀ v : Word, exec (.registerWrite p (word a) v true) s = .next s)))

/-- R11, R32, R119: a read of `SPN_NOW_LO` returns ns[31:0] of the present time, and leaves ns[63:32] and the sub in the path's own copies, which
reads of `SPN_NOW_HI` and `SPN_NOW_SUB` return, and which are 0 at reset. A write to `Ge_SREGm_LO` is held on its path, and the following write
to `Ge_SREGm_HI` from that path stores both halves as one value of 40 bits; a read of `Ge_SREGm_LO` leaves bits [39:32] in the path's
`Ge_SREGm_HI`. The read shows exactly the present time, where an age of up to 3 ns is allowed.
Choices of the model: log entry 95. -/
def Obligations.TimeReadsAndSharedRegisters : Prop :=
  ∀ (p : Path) (s : State),
    (State.reset.shadowWord p R.SPN_NOW_HI = 0 ∧ State.reset.shadowWord p R.SPN_NOW_SUB = 0) ∧
    (s.powered = true →
      (∃ t u w, exec (.rlRead p (word R.SPN_NOW_LO)) s = .next t ∧ (t.path p).rdata = [word s.nowNs] ∧
        exec (.rlRead p (word R.SPN_NOW_HI)) t = .next u ∧ (u.path p).rdata = [word (s.nowNs / 2 ^ 32)] ∧
        exec (.rlRead p (word R.SPN_NOW_SUB)) u = .next w ∧ (w.path p).rdata = [word (tSub s.now)] ∧
        w.path (otherPath p) = s.path (otherPath p) ∧ (∀ o, w.reg o = s.reg o) ∧ State.sameBlocks { s with pcie := w.pcie, spi := w.spi } w) ∧
      (∀ o ∈ [R.SPN_NOW_HI, R.SPN_NOW_SUB], ∃ t, exec (.rlRead p (word o)) s = .next t ∧ (t.path p).rdata = [s.shadowWord p o] ∧
        ∀ x, t.shadowWord p x = s.shadowWord p x) ∧
      (∀ (e : Fin 8) (m : Fin 64), ∃ t u, exec (.rlRead p (word (R.Ge_SREGm_LO e m))) s = .next t ∧
        (t.path p).rdata = [word s.gaf[e].sreg[m].toNat] ∧ t.path (otherPath p) = s.path (otherPath p) ∧
        exec (.rlRead p (word (R.Ge_SREGm_HI e m))) t = .next u ∧ (u.path p).rdata = [word (s.gaf[e].sreg[m].toNat / 2 ^ 32)] ∧
        (∀ o, u.reg o = s.reg o) ∧ State.sameBlocks { s with pcie := u.pcie, spi := u.spi } u)) ∧
    (s.takesWrites = true → ∀ (e : Fin 8) (m : Fin 64) (lo hi : Word),
      ∃ t u, exec (.registerWrite p (word (R.Ge_SREGm_LO e m)) lo true) s = .next t ∧ t.gaf = s.gaf ∧
        t.path (otherPath p) = s.path (otherPath p) ∧ exec (.sregStore p e m hi) t = .next u ∧
        u.gaf = (s.modGaf e (fun g => { g with sreg := g.sreg.set m (BitVec.ofNat 40 (lo.toNat + 2 ^ 32 * (hi.toNat % 256))) })).gaf ∧
        s.sameRegsBut u [R.GL_CFGGEN] ∧ State.sameBlocks { s with gaf := u.gaf, pcie := u.pcie, spi := u.spi } u)

/-! ### Resets -/

/-- Registers that a reset itself writes. -/
def resetRegs : List Nat := [R.PW_STAT, R.PW_EVT, R.PW_RSTCAUSE, R.PW_RSTCNT, R.CAL_VOTE, R.CFG_EVT]

/-- The OTP scan with which a load begins has run (R335, R346): it shows the words whose copies disagree and whether the CRC fails, and supplies
the crystal load trim. -/
def scanned (s t : State) : Prop :=
  let bad := crcFinal (crcWords crcInit ((List.range 0x7FF).map (fun i => s.otpV i))) ≠ word (s.otpV 0x7FF)
  t.rget F.CAL_VOTE_CORR = (s.otp.filter (fun e => e.1 < 0x800 && otpDiff e.2 != 0)).length % 2 ^ 11 ∧
  (t.ron F.CAL_VOTE_FBAD = true ↔ bad) ∧ (bad → t.ron F.CFG_EVT_FCRC_S = true) ∧ t.load.trim = s.otpV 0x3F8 % 64

/-- A core reset has taken place (R304, R335, R355, R360, R363, R364): the spine goes on, what the reset keeps stands, everything else reads its
reset value, and the load begins in HOLD with every channel held. -/
def warmFrom (s t : State) (cause : Nat) (count : Fld) : Prop :=
  t.reg R.PW_RSTCAUSE = word cause ∧ countedOne s t count ∧ t.pwSt = 3 ∧ t.loading = true ∧ t.ron F.PW_EVT_RESET_S = true ∧
  t.hif.rstd = true ∧ t.spine = { Spine.reset with acc := s.spine.acc, counting := s.spine.counting, tick := s.spine.tick, refGone := s.spine.refGone } ∧
  (∀ c : Fin 96, t.ch[c] = chAfter s.ch[c]) ∧ t.fn = s.fn ∧ t.psq = s.psq ∧ t.otp = s.otp ∧ t.host = s.host ∧ t.recq = [] ∧ t.staged = [] ∧
  t.pw.wdgTicks = 0 ∧ t.frz = { State.reset.frz with ball := s.frz.ball } ∧ scanned s t ∧ (∀ a, memRd t.sram a = if ownPartition a then 0 else memRd s.sram a) ∧
  ∀ o, reportReg o = false → o ∉ resetRegs →
    (s.keptBits .core o = 0xFFFFFFFF → t.reg o = s.reg o) ∧ (s.keptBits .core o = 0 → t.reg o = resetWord o)

/-- A power-on, brown-out or pin reset has taken place (R335, R359, R364, R384): of the core only what lives in OTP and MRAM, and the input levels,
stand; a PGOOD level is read again under the polarity that holds now. -/
def coldFrom (s t : State) (k : ResetKind) : Prop :=
  t.pwSt = 3 ∧ t.loading = true ∧ t.ron F.PW_EVT_RESET_S = true ∧ t.spine = Spine.reset ∧ (∀ c : Fin 96, t.ch[c] = chAfter s.ch[c]) ∧
  t.fn = State.reset.fn ∧ t.otp = s.otp ∧ t.host = s.host ∧ t.sram = [] ∧ t.recq = [] ∧ t.staged = [] ∧ t.calU = [] ∧
  t.pcie = PathState.reset ∧ t.spi = PathState.reset ∧ t.frz = { State.reset.frz with ball := s.frz.ball } ∧ scanned s t ∧
  (∀ r : Fin 8, t.psqBit F.PSQ_STAT_PG r =
    if k = .brown then s.psqBit F.PSQ_STAT_PG r else s.psqBit F.PSQ_STAT_PG r != s.ron (F.PSQ_Rr_CFG_PG_POL r)) ∧
  ∀ o, reportReg o = false → o ∉ resetRegs → (s.keptBits k o = 0xFFFFFFFF → t.reg o = s.reg o) ∧
    (s.keptBits k o = 0 → t.reg o = resetWord o)

/-- R353, R359 to R364: the resets. VIN above its threshold resets a device that is off; a brown-out and RESET_N reset one that is not; a key
other than the watchdog's, its expiry, PW_CMD SOFT and a LINK reset 20 µs after its doorbell reset the core. Each names its cause, and
counts itself where it has a count. -/
def resetsLeaveTheDevice : Prop :=
  ∀ s : State, s.canonical = true →
    (s.pwSt = 5 → ∃ t, exec .powerOnReset s = .next t ∧ coldFrom s t .por ∧ t.reg R.PW_RSTCAUSE = 1 ∧ t.ron F.PW_STAT_VIN_OK = true) ∧
    (s.pwSt ≠ 5 → exec .powerOnReset s = .next s) ∧
    (s.powered = true → ∃ t, exec .brownOut s = .next t ∧ coldFrom s t .brown ∧ t.reg R.PW_RSTCAUSE = 0x81 ∧ t.psq = s.psq) ∧
    (s.powered = false → exec .brownOut s = .next s) ∧
    (s.pwSt ≠ 5 → ∃ t, exec .pinReset s = .next t ∧ coldFrom s t .pin ∧ t.reg R.PW_RSTCAUSE = 2 ∧ countedOne s t F.PW_RSTCNT_PIN) ∧
    (s.pwSt = 5 → exec .pinReset s = .next s) ∧
    (∀ p : Path, s.takesWrites = true →
      (∃ t, exec (.pwSoft p) s = .next t ∧ warmFrom s t 8 F.PW_RSTCNT_SOFT) ∧
      (∀ v : Word,
        (s.rget F.PW_WDG_MODE ≠ 1 → exec (.watchdogKick p v) s = .next s) ∧
        (s.rget F.PW_WDG_MODE = 1 → v = 0xC396 →
          exec (.watchdogKick p v) s = .next { s with pw := { s.pw with wdgTicks := 0, wdgWarned := false } }) ∧
        (s.rget F.PW_WDG_MODE = 1 → v ≠ 0xC396 → ∃ t, exec (.watchdogKick p v) s = .next t ∧ warmFrom s t 4 F.PW_RSTCNT_WDG))) ∧
    (s.takesEvents = true →
      (s.rget F.PW_WDG_MODE = 0 ∨ s.loading = true → exec .watchdogExpiry s = .next s ∧ exec .wdgWarn s = .next s) ∧
      (s.rget F.PW_WDG_MODE ≠ 0 → s.loading = false →
        (s.pw.wdgTicks < s.rget F.PW_WDG_TIMEOUT * 1000000 → exec .watchdogExpiry s = .next s) ∧
        (s.rget F.PW_WDG_TIMEOUT * 1000000 ≤ s.pw.wdgTicks →
          ∃ t, exec .watchdogExpiry s = .next t ∧ warmFrom s t 4 F.PW_RSTCNT_WDG) ∧
        (s.pw.wdgWarned = true ∨ 2 * s.pw.wdgTicks < s.rget F.PW_WDG_TIMEOUT * 1000000 → exec .wdgWarn s = .next s) ∧
        (s.pw.wdgWarned = false → s.rget F.PW_WDG_TIMEOUT * 1000000 ≤ 2 * s.pw.wdgTicks →
          ∃ t, exec .wdgWarn s = .next t ∧ t.pw = { s.pw with wdgWarned := true } ∧ t.ron F.PW_EVT_WDG_WARN_S = true ∧
            s.sameRegsBut t [R.PW_EVT] ∧ s.sameBlocks t)) ∧
      (s.pw.linkRst = none → exec .linkReset s = .next s) ∧
      (∀ src t0, s.pw.linkRst = some (src, t0) →
        (s.now < t0 + 1280000 → exec .linkReset s = .next s) ∧
        (t0 + 1280000 ≤ s.now → ∃ t, exec .linkReset s = .next t ∧ warmFrom s t (16 + 2 ^ 16 * src) F.PW_RSTCNT_LINK)))

/-- R353: the supplies. Below the lockout the device is off; a lost VDDA loses lock, a lost VDDL takes the ports down, a lost VPE the PCIe link;
a supply that returns shows, and changes nothing else. -/
def suppliesFailAndReturn : Prop :=
  ∀ s : State,
    (∃ t, exec .vinLockout s = .next t ∧ t.pwSt = 5 ∧ t.ron F.PW_STAT_VIN_OK = false ∧ s.sameRegsBut t [R.PW_STAT] ∧ s.sameBlocks t) ∧
    (s.ron F.PW_STAT_VDDA_OK = false → exec (.supplyFault 0) s = .next s) ∧
    (s.ron F.PW_STAT_VDDA_OK = true → ∃ t, exec (.supplyFault 0) s = .next t ∧ t.ron F.PW_STAT_VDDA_OK = false ∧
      t.ron F.PW_EVT_SUPPLY_S = true ∧ t.ron F.SPN_STAT_LOCKED = false ∧
      (s.ron F.SPN_STAT_LOCKED = true → t.ron F.SPN_STAT_REF_LOST = true ∧ countedOne s t F.SPN_PLL_CNT_LOSS_CNT) ∧
      (s.ron F.SPN_STAT_LOCKED = false → t.reg R.SPN_STAT = s.reg R.SPN_STAT ∧ t.reg R.SPN_PLL_CNT = s.reg R.SPN_PLL_CNT) ∧
      s.sameRegsBut t [R.PW_STAT, R.PW_EVT, R.SPN_STAT, R.SPN_EVT, R.SPN_PLL_CNT] ∧ s.sameBlocks t) ∧
    (s.ron F.PW_STAT_VDDL_OK = false → exec (.supplyFault 1) s = .next s) ∧
    (s.ron F.PW_STAT_VDDL_OK = true → ∃ t, exec (.supplyFault 1) s = .next t ∧ t.ron F.PW_STAT_VDDL_OK = false ∧
      t.ron F.PW_EVT_SUPPLY_S = true ∧ (∀ p : Fin 4, hasLock s p → t.elState p = 1) ∧ onlyEwer s t) ∧
    (s.ron F.PW_STAT_VPE_OK = false → exec (.supplyFault 2) s = .next s) ∧
    (s.ron F.PW_STAT_VPE_OK = true → ∃ t, exec (.supplyFault 2) s = .next t ∧ t.ron F.PW_STAT_VPE_OK = false ∧
      t.ron F.PW_EVT_SUPPLY_S = true ∧ t.fn.linkUp = false ∧
      State.sameBlocks { s with fn := t.fn, rings := t.rings, ec := t.ec, gaf := t.gaf, ch := t.ch } t ∧
      (s.atCeil = false → State.sameBlocks { s with fn := t.fn, rings := t.rings, ec := t.ec } t)) ∧
    (∀ (which : Fin 3) (f : Fld), f = (match which with | 0 => F.PW_STAT_VDDA_OK | 1 => F.PW_STAT_VDDL_OK | 2 => F.PW_STAT_VPE_OK) →
      ∃ t, exec (.supplyReturn which) s = .next t ∧ t.ron f = true ∧ (∀ g ∈ [F.PW_STAT_STATE, F.PW_STAT_VIN_OK], t.rget g = s.rget g) ∧
        s.sameRegsBut t [R.PW_STAT] ∧ s.sameBlocks t)

/-- R353, R359 to R364: the resets, and the supplies.
Choices of the model: log entries 2, 36, 61, 62, 63, 67, 72, 78, 81 and 117. -/
def Obligations.ResetsAndSupplies : Prop := resetsLeaveTheDevice ∧ suppliesFailAndReturn

/-! ### Power states -/

/-- A `PW_CMD` has been refused (R355). -/
def pwRefused (s t : State) : Prop := t.ron F.PW_EVT_CMD_ERR_S = true ∧ s.sameRegsBut t [R.PW_EVT] ∧ s.sameBlocks t

/-- R52, R354 to R357, R380: the power states. RUN leaves IDLE, IDLE leaves RUN with the Orreries off, HOLD leaves both with every channel held,
RETAIN saves the spine as the next edge of the slow clock finds it, hands every record over and keeps the rails that it names, OFF hands
every record over, and either leaves every ball at high impedance; a command in another state, in a freeze, with a wrong key or a reserved
OP is refused. A wake ball, the wake condition, and the timer end IDLE, RETAIN and OFF, the timer once its time has run; leaving RETAIN, the
spine reads what it would have counted, and the retained banks their contents.
Choices of the model: log entries 4, 36, 62, 64, 65 and 94. -/
def Obligations.PowerStatesFollow : Prop :=
  (∀ (p : Path) (s : State), s.takesWrites = true →
    exec (.pwNop p) s = .next s ∧
    (s.pwSt = 2 → ∃ t, exec (.pwRun p) s = .next t ∧ t.pwSt = 1 ∧ s.sameFar t) ∧
    (s.pwSt ≠ 2 → ∃ t, exec (.pwRun p) s = .next t ∧ pwRefused s t) ∧
    (s.pwSt = 1 → ∃ t, exec (.pwIdle p) s = .next t ∧ t.pwSt = 2 ∧ s.sameFar t ∧
      ∀ n : Fin 4, (s.ron (F.ORYn_CTRL_EN n) = true → t.ory[n].sync = .off) ∧ (s.ron (F.ORYn_CTRL_EN n) = false → t.ory[n] = s.ory[n])) ∧
    (s.pwSt ≠ 1 → ∃ t, exec (.pwIdle p) s = .next t ∧ pwRefused s t) ∧
    (s.pwSt = 1 ∨ s.pwSt = 2 → ∃ t, exec (.pwHold p) s = .next t ∧ t.pwSt = 3 ∧ t.ron F.CFG_STAT_HELD = true ∧
      (∀ c : Fin 96, t.ch[c].holdBoot = true) ∧ s.sameRegsBut t [R.CFG_STAT, R.PW_STAT, R.PW_EVT] ∧
      State.sameBlocks { s with ch := t.ch } t) ∧
    (s.pwSt ≠ 1 → s.pwSt ≠ 2 → ∃ t, exec (.pwHold p) s = .next t ∧ pwRefused s t) ∧
    (s.pwSt = 1 ∨ s.pwSt = 2 ∨ s.pwSt = 3 → s.fn.d3 = true ∨ s.fn.linkUp = false →
      ∃ t, exec (.pwRetain p) s = .next t ∧ t.pwSt = 4 ∧ t.powered = false ∧ t.pw.saved = s.accAhead s.ticksToSlowEdge ∧
        (s.spine.hold = none → t.pw.saved = s.spine.acc.toNat + s.ticksToSlowEdge * s.tickInc) ∧ t.pw.retEc.isSome = true ∧
        (∀ c : Fin 96, t.ballLevel c = none) ∧
        t.pw.leave = none ∧ t.recq = [] ∧ (∀ c : Fin 96, t.ch[c].holdBoot = true) ∧
        ∀ r : Fin 8, t.psqBit F.PSQ_STAT_ON r = (s.psqBit F.PSQ_STAT_ON r && s.ron (F.PSQ_Rr_CFG_RETKEEP r))) ∧
    (s.fn.d3 = false → s.fn.linkUp = true → ∃ t, exec (.pwRetain p) s = .next t ∧ pwRefused s t) ∧
    (∃ t, exec (.pwOff p) s = .next t ∧ t.pwSt = 5 ∧ t.powered = false ∧ t.recq = [] ∧ ∀ c : Fin 96, t.ballLevel c = none) ∧
    (∀ v : Word, wfld v 16 16 ≠ 0x5D96 ∨ 7 ≤ wfld v 0 4 → ∃ t, exec (.pwCmdRefused p v) s = .next t ∧ pwRefused s t)) ∧
  (∀ (p : Path) (s : State), s.powered = true → s.frozen = true →
    ∀ c ∈ [Instr.pwNop p, .pwRun p, .pwIdle p, .pwHold p, .pwRetain p, .pwOff p, .pwSoft p],
      ∃ t, exec c s = .next t ∧ countedOne s t F.FRZ_CNT_IGN ∧ t.ron F.PW_EVT_CMD_ERR_S = true ∧ s.sameRegsBut t [R.FRZ_CNT, R.PW_EVT] ∧
        s.sameBlocks t) ∧
  (∀ s : State, slowEdgeAt (s.spine.tick + s.ticksToSlowEdge - 1) = true ∧
    ∀ k, s.spine.tick ≤ k → k + 1 < s.spine.tick + s.ticksToSlowEdge → slowEdgeAt k = false) ∧
  (∀ (falling : Bool) (s : State),
    (s.ron F.PW_CTRL_WKPOL ≠ falling → exec (.wkupInEdge falling) s = .next s) ∧
    (s.ron F.PW_CTRL_WKPOL = falling →
      (s.pwSt = 2 → s.frozen = false → ∃ t, exec (.wkupInEdge falling) s = .next t ∧ t.pwSt = 1 ∧ t.ron F.PW_EVT_WAKE_S = true ∧ s.sameFar t) ∧
      (s.pwSt = 4 → s.ron F.PW_CTRL_WKEN = true → s.pw.leave = none →
        exec (.wkupInEdge falling) s = .next { s with pw := { s.pw with leave := some 2 } }) ∧
      (s.pwSt = 5 → s.ron F.PW_CTRL_WKEN = true → s.ron F.PW_STAT_VIN_OK = true →
        ∃ t, exec (.wkupInEdge falling) s = .next t ∧ t.pwSt = 3 ∧ t.loading = true ∧ t.reg R.PW_RSTCAUSE = 1) ∧
      (s.pwSt = 1 ∨ s.pwSt = 3 ∨ (3 < s.pwSt ∧ s.ron F.PW_CTRL_WKEN = false) → exec (.wkupInEdge falling) s = .next s))) ∧
  (∀ s : State,
    (s.pwSt ≠ 4 ∨ s.reg R.PW_RET_TMR = 0 ∨ s.pw.leave ≠ none → exec .retTmrExpiry s = .next s) ∧
    (s.pwSt = 4 → s.reg R.PW_RET_TMR ≠ 0 → s.pw.leave = none →
      exec .retTmrExpiry s = .next { s with pw := { s.pw with leave := some 3 } }) ∧
    (∀ edges : Nat,
      (s.pwSt ≠ 4 ∨ s.pw.leave = none → exec (.retainExit edges) s = .next s) ∧
      (∀ cause, s.pwSt = 4 → s.pw.leave = some cause → cause = 3 → edges * 1000 < (s.reg R.PW_RET_TMR).toNat * 32768 →
        exec (.retainExit edges) s = .next s) ∧
      (∀ cause, s.pwSt = 4 → s.pw.leave = some cause → (cause = 3 → (s.reg R.PW_RET_TMR).toNat * 32768 ≤ edges * 1000) →
        ∃ t, exec (.retainExit edges) s = .next t ∧ t.pwSt = 3 ∧ t.loading = true ∧
        t.load.retx = true ∧ t.reg R.PW_RSTCAUSE = 0x40 ∧ t.ron F.SPN_STAT_LOCKED = true ∧ t.pw.leave = none ∧
        t.spine.acc = BitVec.ofNat 104 (s.pw.saved + edges * (s.reg R.SPN_SLOWPER).toNat * 2 ^ 24) ∧ t.spine.hold = none ∧ t.spine.refGone = false ∧ scanned s t ∧
        t.ron F.PW_EVT_WAKE_S = true ∧ t.ron F.PW_EVT_RESET_S = true ∧
        ∀ a, memRd t.sram a = if nbit (s.rget F.PW_RET_CFG_BANKS) (a / 0x40000) then memRd s.sram a else 0)) ∧
    (s.takesEvents = true →
      (s.pwSt ≠ 2 ∨ s.ron F.PW_CTRL_IDLE_WAKE = false ∨ s.wakeBall = false → exec .idleWake s = .next s) ∧
      (s.pwSt = 2 → s.ron F.PW_CTRL_IDLE_WAKE = true → s.wakeBall = true →
        ∃ t, exec .idleWake s = .next t ∧ t.pwSt = 1 ∧ t.ron F.PW_EVT_WAKE_S = true ∧ s.sameFar t)))

/-! ### The loader -/

/-- The bytes of a slot that selection takes: its header passes, and it is intact (R331 to R334, R336). -/
def goodImage (s : State) (bs : List Byte) : Prop := (slotFrom bs).headerOk = true ∧ s.verify (slotFrom bs) = slIntact

/-- Nothing is due in the next tick but what every tick does: no write waits for the slow clock, no APPLY, and no entry. -/
def plainTick (s : State) : Prop := s.hif.slow = [] ∧ s.ap.reqs = [] ∧ ∀ i < 8, s.apValid i = false

/-- The load of slot n has ended (R339, R364): locks are set, the slot shows, every bank has been calibrated, and the device is released, unless
the image or the policy holds it. -/
def loadDone (s t : State) (n : Nat) (q : LoadEnd) : Prop :=
  t.loading = false ∧ t.rget F.CFG_STAT_SLOT = n % 4 ∧ t.ron F.CFG_STAT_NOIMAGE = false ∧ t.ron F.CFG_EVT_LOAD_S = true ∧ t.load.sel = none ∧
  t.load.ended = none ∧ t.ron F.CFG_STAT_HELD = s.staysHeld q ∧ t.rget F.HL_RECAL_LAST = 3 ∧
  (∀ b : Fin 12, t.ron (F.SPN_BANKCALb_VALID b) = true) ∧
  (∀ m, q.lock = some m → t.rget F.GL_LOCK_DOMAINS = s.rget F.GL_LOCK_DOMAINS ||| m.toNat) ∧
  (s.staysHeld q = true → t.pwSt = s.pwSt ∧ t.spine = s.spine ∧ t.ch = s.ch) ∧
  (s.staysHeld q = false → t.pwSt = 1 ∧ ∀ c : Fin 96, t.ch[c].holdBoot = false)

/-- The measurements of a load cover every bank. -/
def measured (s : State) : Bool := match s.load.meas with | some m => measComplete m | none => false

/-- R335 to R343, R349, R364, R370: selection and the load pass. Selection takes an intact slot of the highest generation, or ends with no image
and the device held; a RELOAD that finds one restarts the device while the spine goes on, and one that finds none changes nothing. A
digest that differs from the image's, or from the one that selection verified, excludes the slot. The end of a pass, or of a selection
without an image, waits until the recalibration of the load has covered every bank: stated of a pass without register or apply sections.
Choices of the model: log entries 71, 77, 78 and 99. -/
def Obligations.LoaderSelectsAndLoads : Prop :=
  (∀ (i0 i1 i2 : List Byte) (s : State), s.takesEvents = true →
    (s.loading = true → s.load.sel ≠ none ∨ s.load.ended ≠ none ∨ s.spine.counting = false → exec (.slotSelection i0 i1 i2) s = .next s) ∧
    (s.loading = false → s.load.reload = none → exec (.slotSelection i0 i1 i2) s = .next s) ∧
    (s.loading = true → s.load.sel = none → s.load.ended = none → s.spine.counting = true → s.load.only = 3 → s.load.excl = 0 →
      ((∀ i ∈ [i0, i1, i2], ¬ goodImage s i) → ∃ t, exec (.slotSelection i0 i1 i2) s = .next t ∧ t.ron F.CFG_STAT_NOIMAGE = true ∧
        t.ron F.CFG_STAT_HELD = true ∧ t.loading = !measured s ∧ t.load.sel = none ∧ t.load.ended.isSome = !measured s ∧
        t.ron F.CFG_EVT_FAIL_S = true) ∧
      ((∃ i ∈ [i0, i1, i2], goodImage s i) → ∃ t k i, exec (.slotSelection i0 i1 i2) s = .next t ∧ t.loading = true ∧
        t.load.sel = some k ∧ (k, i) ∈ [(0, i0), (1, i1), (2, i2)] ∧ goodImage s i ∧ t.load.digest = (slotFrom i).digest ∧
        ∀ j ∈ [i0, i1, i2], goodImage s j → (slotFrom j).gen.toNat ≤ (slotFrom i).gen.toNat)) ∧
    (∀ q, s.loading = false → s.load.reload = some q → q.slot = 3 → s.load.excl = 0 →
      ((∀ i ∈ [i0, i1, i2], ¬ goodImage s i) → ∃ t, exec (.slotSelection i0 i1 i2) s = .next t ∧ t.load.reload = none ∧
        t.ron F.CFG_STAT_CMD_REF = true ∧ t.loading = false ∧ t.spine = s.spine ∧ t.ch = s.ch ∧ t.gaf = s.gaf ∧ t.sram = s.sram ∧
        t.pwSt = s.pwSt) ∧
      ((∃ i ∈ [i0, i1, i2], goodImage s i) → ∃ t k i, exec (.slotSelection i0 i1 i2) s = .next t ∧ t.loading = true ∧ t.pwSt = 3 ∧
        t.load.sel = some k ∧ (k, i) ∈ [(0, i0), (1, i1), (2, i2)] ∧ goodImage s i ∧ t.load.isReload = true ∧ t.load.digest = (slotFrom i).digest ∧ scanned s t ∧
        t.reg R.PW_RSTCAUSE = 0x20 ∧ t.spine = s.spine ∧ (∀ c : Fin 96, t.ch[c] = chAfter s.ch[c])))) ∧
  (∀ (head rest : List Byte) (s : State), s.takesEvents = true →
    let i := slotFrom (head ++ rest)
    (s.load.sel = none ∨ s.loading = false ∨ s.load.ended ≠ none → exec (.loadPass head rest) s = .next s) ∧
    (∀ n, s.load.sel = some n → s.loading = true → s.load.ended = none →
      (i.digestOk = false ∨ i.digest ≠ s.load.digest → n < 3 → ∃ t, exec (.loadPass head rest) s = .next t ∧ t.load.sel = none ∧ nbit t.load.excl.toNat n = true ∧
        t.rget (F.CFG_SLOTs_STAT_STATE n) = 6 ∧ t.loading = true ∧ s.sameRegsBut t [R.CFG_SLOTs_STAT n] ∧
        State.sameBlocks { s with load := t.load } t) ∧
      (i.digestOk = true → i.digest = s.load.digest → s.pw.retEc = none → (∀ x ∈ i.sections, (∀ ws, x ≠ .regs ws) ∧ ∀ m, x ≠ .apply m) →
        let q := endOf n i
        let loaded := fun (t : State) =>
          ∀ ofs bytes, i.sections = [.sram ofs bytes] → s.load.retx = false → t.sram = sramPut s.sram ofs bytes
        (measured s = false → ∃ t, exec (.loadPass head rest) s = .next t ∧ t.load.ended = some q ∧ t.loading = true ∧ t.load.sel = some n ∧
          t.pwSt = s.pwSt ∧ t.spine = s.spine ∧ t.ch = s.ch ∧ loaded t) ∧
        (measured s = true → s.staysHeld q = true ∨ plainTick s →
          ∃ t, exec (.loadPass head rest) s = .next t ∧ loadDone s t n q ∧ (s.staysHeld q = true → loaded t))))) ∧
  (∀ (ms : List BankMeas) (gs : List GafMeas) (tj : BitVec 16) (s : State), s.takesEvents = true → s.loading = true →
    let m := LoadMeas.add s.load.meas ms gs tj
    (s.load.ended = none ∨ measComplete m = false →
      exec (.recalibration ms gs tj) s = .next { s with load := { s.load with meas := some m } }) ∧
    (∀ q, s.load.ended = some q → measComplete m = true → s.pw.retEc = none →
      (∀ n, q.slot = some n → s.staysHeld q = true ∨ plainTick s → ∃ t, exec (.recalibration ms gs tj) s = .next t ∧ loadDone s t n q) ∧
      (q.slot = none → ∃ t, exec (.recalibration ms gs tj) s = .next t ∧ t.loading = false ∧ t.load.ended = none ∧
        t.ron F.CFG_STAT_HELD = s.ron F.CFG_STAT_HELD ∧ t.pwSt = s.pwSt ∧ t.spine = s.spine ∧ t.ch = s.ch ∧
        ∀ b : Fin 12, t.ron (F.SPN_BANKCALb_VALID b) = true)))

/-- R341 to R343, R347, R348, R350: every write of CFG_CMD is refused during a load, and RELOAD during a freeze too; otherwise NOP clears CMD_REF,
RELOAD begins to verify, RELEASE lets a held device run, and is refused by one that is not held, CLRERR clears the load's counts. An access
to the user words reads one or stages one, and steps the index where it is told to.
Choices of the model: log entries 4 and 75. -/
def Obligations.ConfigurationCommandsRun : Prop :=
  (∀ (p : Path) (slot : Fin 4) (s : State), s.takesEvents = true →
    (s.loading = true → ∀ c ∈ [Instr.cfgNop p, .reload p slot, .release p, .clrerr p],
      ∃ t, exec c s = .next t ∧ t.ron F.CFG_STAT_CMD_REF = true ∧ t.ron F.CFG_EVT_CMD_ERR_S = true ∧
        s.sameRegsBut t [R.CFG_STAT, R.CFG_EVT] ∧ s.sameBlocks t) ∧
    (∀ v : Word, 4 ≤ wfld v 0 3 →
      (s.loading = true → ∃ t, exec (.registerWrite p (word R.CFG_CMD) v true) s = .next t ∧ t.ron F.CFG_STAT_CMD_REF = true ∧
        t.ron F.CFG_EVT_CMD_ERR_S = true ∧ s.sameRegsBut t [R.CFG_STAT, R.CFG_EVT] ∧ s.sameBlocks t) ∧
      (s.loading = false → exec (.registerWrite p (word R.CFG_CMD) v true) s = .next s)) ∧
    (s.loading = false →
      (∃ t, exec (.cfgNop p) s = .next t ∧ t.ron F.CFG_STAT_CMD_REF = false ∧ s.sameRegsBut t [R.CFG_STAT] ∧ s.sameBlocks t) ∧
      (∃ t, exec (.reload p slot) s = .next t ∧ t.ron F.CFG_STAT_CMD_REF = false ∧
        t.load = { s.load with reload := some ⟨slot.val, s.now⟩, excl := 0, divs := 0 } ∧ s.sameRegsBut t [R.CFG_STAT] ∧
        State.sameBlocks { s with load := t.load } t) ∧
      (s.ron F.CFG_STAT_HELD = true → ∃ t, exec (.release p) s = .next t ∧ t.ron F.CFG_STAT_HELD = false ∧ t.pwSt = 1 ∧
        t.ron F.CFG_EVT_RELEASE_S = true ∧ (∀ c : Fin 96, t.ch[c].holdBoot = false) ∧ s.sameFar t) ∧
      (s.ron F.CFG_STAT_HELD = false → ∃ t, exec (.release p) s = .next t ∧ t.ron F.CFG_STAT_CMD_REF = true ∧
        s.sameRegsBut t [R.CFG_STAT, R.CFG_EVT] ∧ s.sameBlocks t) ∧
      (∃ t, exec (.clrerr p) s = .next t ∧ t.reg R.CFG_LOADERR = 0 ∧ t.reg R.CFG_HOSTIGN = 0 ∧ t.ron F.CFG_STAT_CMD_REF = false ∧
        s.sameRegsBut t [R.CFG_STAT, R.CFG_LOADERR, R.CFG_HOSTIGN] ∧ s.sameBlocks t))) ∧
  (∀ (p : Path) (slot : Fin 4) (s : State), s.powered = true → s.frozen = true →
    ∃ t, exec (.reload p slot) s = .next t ∧ countedOne s t F.FRZ_CNT_IGN ∧ t.ron F.CFG_STAT_CMD_REF = true ∧
      s.sameRegsBut t [R.FRZ_CNT, R.CFG_STAT, R.CFG_EVT] ∧ s.sameBlocks t) ∧
  (∀ (p : Path) (v : Word) (s : State), s.takesWrites = true →
    let q := wfld (s.heldWord p R.CAL_IDX) 0 12
    let next := if wfld (s.heldWord p R.CAL_IDX) 16 1 = 1 then (q + 1) % 4096 else q
    (s.locked 1 = false → ∃ t, exec (.calUDataAccess p (some v)) s = .next t ∧ wfld (t.heldWord p R.CAL_IDX) 0 12 = next ∧
      t.calU = s.calU ∧ (∀ k, k ≠ q → tblFind t.calS k = tblFind s.calS k) ∧
      (calHasU q = true → tblFind t.calS q = some (word (v.toNat &&& calBits q))) ∧ (calHasU q = false → t.calS = s.calS) ∧
      (∀ o, t.reg o = s.reg o) ∧ State.sameBlocks { s with calS := t.calS, pcie := t.pcie, spi := t.spi } t) ∧
    (s.locked 1 = true → ∃ t, exec (.calUDataAccess p (some v)) s = .next t ∧ countedOne s t F.GL_LOCK_VIOL_CNT ∧ t.calS = s.calS ∧
      t.calU = s.calU) ∧
    (s.viewOf p = false → ∃ t, exec (.calUDataAccess p none) s = .next t ∧ (t.path p).rdata = [s.calUser q] ∧
      wfld (t.heldWord p R.CAL_IDX) 0 12 = next ∧ (∀ o, t.reg o = s.reg o) ∧ State.sameBlocks { s with pcie := t.pcie, spi := t.spi } t))

/-! ### Rails, health, freeze -/

/-- Only the rail sequencer has changed. -/
def onlyPsq (s t : State) : Prop := State.sameBlocks { s with psq := t.psq } t ∧ s.sameRegsBut t [R.PSQ_STAT, R.PW_EVT]

/-- Every other rail is as it was. -/
def otherRails (s t : State) (r : Fin 8) : Prop := ∀ x : Fin 8, x ≠ r → t.psqBit F.PSQ_STAT_ON x = s.psqBit F.PSQ_STAT_ON x

/-- A rail has faulted (R366): alone, or with its output off, or with a DOWN sequence from the next tick. -/
def railFaulted (s t : State) (r : Fin 8) : Prop :=
  t.psqBit F.PSQ_STAT_FLT r = true ∧ t.ron F.PW_EVT_PSEQ_FLT_S = true ∧ otherRails s t r ∧ onlyPsq s t ∧
  t.psqBit F.PSQ_STAT_ON r = (s.psqBit F.PSQ_STAT_ON r && s.rget F.PSQ_CTRL_FAULT != 1) ∧
  t.psq.seq = (if s.rget F.PSQ_CTRL_FAULT = 2 then some ⟨false, s.tAhead 1, BitVec.ofNat 8 (s.rget F.PSQ_CTRL_EN)⟩ else s.psq.seq)

/-- R365 to R367, R384: the rails. UP and DOWN begin a sequence of the enabled rails, and are refused during one; ABORT ends it, CLRFLT clears the fault
bits. In a sequence the lowest-numbered rail that is due is switched. A rail that is not good in time, and one that was good and is no
more, fault. A rail's ball is at the active level that OUT_POL gives while the rail is asserted, and a change of PG_POL turns its PGOOD round.
Choices of the model: log entries 2 and 68. -/
def Obligations.RailsFollowTheirSequence : Prop :=
  (∀ (p : Path) (up timed : Bool) (s : State), s.takesWrites = true →
    let row : Instr := if up then .psqUp p timed else .psqDown p timed
    (s.psq.seq.isSome = true → ∃ t, exec row s = .next t ∧ pwRefused s t) ∧
    (s.psq.seq = none → s.rget F.PSQ_CTRL_EN ≠ 0 → exec row s = .next { s with psq := { s.psq with
      seq := some ⟨up, s.psqStart timed, BitVec.ofNat 8 (s.rget F.PSQ_CTRL_EN)⟩ } }) ∧
    (s.psq.seq = none → s.rget F.PSQ_CTRL_EN = 0 → up = false → exec row s = .next s) ∧
    (s.psq.seq = none → s.rget F.PSQ_CTRL_EN = 0 → up = true → ∃ t, exec row s = .next t ∧ t.ron F.PW_EVT_PSEQ_DONE_S = true ∧ onlyPsq s t) ∧
    exec (.psqAbort p) s = .next { s with psq := { s.psq with seq := none } } ∧
    (∃ t, exec (.clrflt p) s = .next t ∧ t.rget F.PSQ_STAT_FLT = 0 ∧ t.rget F.PSQ_STAT_ON = s.rget F.PSQ_STAT_ON ∧
      s.sameRegsBut t [R.PSQ_STAT] ∧ s.sameBlocks t) ∧
    exec (.psqNop p) s = .next s) ∧
  (∀ (up : Bool) (r : Fin 8) (s : State), s.takesEvents = true →
    let row : Instr := if up then .railOn r else .railOff r
    (s.railDue up r = false ∨ (∃ x : Fin 8, x < r ∧ s.railDue up x = true) → exec row s = .next s) ∧
    (s.railDue up r = true → (∀ x : Fin 8, x < r → s.railDue up x = false) →
      ∃ t, exec row s = .next t ∧ t.psqBit F.PSQ_STAT_ON r = up ∧ t.pseqLevel r = (up != s.ron (F.PSQ_Rr_CFG_OUT_POL r)) ∧ otherRails s t r ∧ onlyPsq s t ∧
        (∀ q, t.psq.seq = some q → nbit q.todo.toNat r = false ∧ q.up = up) ∧
        (∀ q, up = false → s.psq.seq = some q → q.todo = BitVec.ofNat 8 (2 ^ r.val) → t.psq.seq = none ∧ t.ron F.PW_EVT_PSEQ_DONE_S = true))) ∧
  (∀ (p : Path) (r : Fin 8) (v : Word) (s : State), s.takesWrites = true → s.lockedBits (R.PSQ_Rr_CFG r) = 0 →
    ∃ t, exec (.registerWrite p (word (R.PSQ_Rr_CFG r)) v true) s = .next t ∧
      t.psqBit F.PSQ_STAT_PG r = (s.psqBit F.PSQ_STAT_PG r != (t.ron (F.PSQ_Rr_CFG_PG_POL r) != s.ron (F.PSQ_Rr_CFG_PG_POL r))) ∧
      ∀ x : Fin 8, x ≠ r → t.psqBit F.PSQ_STAT_PG x = s.psqBit F.PSQ_STAT_PG x) ∧
  (∀ (r : Fin 8) (s : State), s.takesEvents = true →
    (let late := s.psqBit F.PSQ_STAT_ON r = true ∧ s.rget (F.PSQ_Rr_CFG_PGTO r) ≠ 0 ∧ s.psqBit F.PSQ_STAT_PG r = false ∧
       nbit s.psq.wasGood.toNat r = false ∧ nbit s.psq.timedOut.toNat r = false ∧
       s.psq.onAt[r] + s.rget (F.PSQ_Rr_CFG_PGTO r) * 64000000 ≤ s.now
     (¬ late → exec (.pgTimeout r) s = .next s) ∧
     (late → ∃ t, exec (.pgTimeout r) s = .next t ∧ railFaulted s t r ∧ nbit t.psq.timedOut.toNat r = true)) ∧
    (s.psqBit F.PSQ_STAT_PG r = false → exec (.pgLost r) s = .next s) ∧
    (s.psqBit F.PSQ_STAT_PG r = true → ∃ t, exec (.pgLost r) s = .next t ∧ t.psqBit F.PSQ_STAT_PG r = false ∧
      (s.psqBit F.PSQ_STAT_ON r = true → nbit s.psq.wasGood.toNat r = true → railFaulted s t r) ∧
      (s.psqBit F.PSQ_STAT_ON r = false ∨ nbit s.psq.wasGood.toNat r = false → s.sameRegsBut t [R.PSQ_STAT] ∧ s.sameBlocks t ∧
        t.rget F.PSQ_STAT_ON = s.rget F.PSQ_STAT_ON ∧ t.rget F.PSQ_STAT_FLT = s.rget F.PSQ_STAT_FLT)) ∧
    (∃ t, exec (.pgoodAsserted r) s = .next t ∧ t.psqBit F.PSQ_STAT_PG r = true ∧ onlyPsq s t ∧
      t.rget F.PSQ_STAT_ON = s.rget F.PSQ_STAT_ON ∧ (s.psqBit F.PSQ_STAT_ON r = true → nbit t.psq.wasGood.toNat r = true) ∧
      (s.psq.seq = none → t.psq.seq = none)))

/-- R47, R369, R370, R372, R373: the health block does nothing while it is disabled. A sample is taken once 10 s have passed since the last one; it
shows the temperature, the monitors with their slowdowns against the OTP references, and the failures, those of the verniers judged at
20 ps, and starts the error count anew; a checkpoint is taken once an hour has passed, and judges the margin; a recalibration outside a load
gives its banks new tables, which are in force from the next tick on, and is counted.
Choices of the model: log entries 2, 71, 109 and 114. -/
def Obligations.HealthSamplesAndRecalibrates : Prop :=
  (∀ (tj vcore : BitVec 16) (ms : List Monitor) (vst : List (BitVec 16)) (gs : List GafMeas) (s : State), s.takesEvents = true →
    let past := fun (last : Option Nat) (period : Nat) => ∀ k, last = some k → k + period ≤ s.spine.tick
    (s.ron F.HL_CTRL_EN = false ∨ ¬ past s.hl.sampleAt (10 * 10 ^ 9) → exec (.healthSample tj vcore ms vst gs) s = .next s) ∧
    (s.ron F.HL_CTRL_EN = false ∨ ¬ past s.hl.lifeAt (3600 * 10 ^ 9) → exec .healthLife s = .next s) ∧
    (s.ron F.HL_CTRL_EN = true →
      (past s.hl.sampleAt (10 * 10 ^ 9) → ∃ t, exec (.healthSample tj vcore ms vst gs) s = .next t ∧ t.rget F.HL_TEMP_TJ = tj.toNat ∧ t.ron F.HL_STAT_VST_FAIL = vst.any (fun e => decide (20 * 16 < e.toNat)) ∧ t.hl.sampleAt = some s.spine.tick ∧
        t.ron F.HL_STAT_MON_FAIL = (ms.zip (List.range 32)).any (fun x => decide (10000 < s.monSlow x.2 x.1 vcore tj)) ∧ t.hl.corrAt = s.rget F.HL_ECC_CORR ∧
        (∀ k m, k < 32 → ms[k]? = some m → t.reg (R.HL_MONm k) = word (m.raw.toNat + 2 ^ 16 * (s.monSlow k m vcore tj % 65536).toNat)) ∧
        State.sameBlocks { s with hl := t.hl, gaf := t.gaf, free := t.free } t) ∧
      (past s.hl.lifeAt (3600 * 10 ^ 9) → ∃ t, exec .healthLife s = .next t ∧ t.hl.lifeAt = some s.spine.tick ∧ t.ron F.HL_STAT_WARN = decide (10000 - (s.rget F.HL_LIFE_PROJ : Int) < s.rget F.HL_LIFE_CFG_WARN) ∧
        t.rget F.HL_MRAM_HOURIDX = (s.rget F.HL_MRAM_HOURIDX + 1) % 2 ^ 16 ∧ s.sameRegsBut t [R.HL_MRAM, R.HL_STAT, R.HL_EVT] ∧
        State.sameBlocks { s with free := t.free, hl := t.hl } t))) ∧
  (∀ (ms : List BankMeas) (gs : List GafMeas) (tj : BitVec 16) (s : State), s.takesEvents = true →
    (s.loading = false → s.ron F.HL_CTRL_EN = false → exec (.recalibration ms gs tj) s = .next s) ∧
    (s.loading = false → (tj.toInt - signed (s.rget F.HL_TEMP_TCAL) 16).natAbs < 40 → s.now < s.hl.recalAt + 38400000000000 →
      exec (.recalibration ms gs tj) s = .next s) ∧
    (s.loading = false → s.ron F.HL_CTRL_EN = true → (40 ≤ (tj.toInt - signed (s.rget F.HL_TEMP_TCAL) 16).natAbs ∨
        s.hl.recalAt + 38400000000000 ≤ s.now) →
      ∃ t, exec (.recalibration ms gs tj) s = .next t ∧ t.rget F.HL_TEMP_TCAL = tj.toNat ∧
        t.rget F.HL_RECAL_COUNT = (s.rget F.HL_RECAL_COUNT + 1) % 2 ^ 16 ∧ t.hl.recalAt = s.now ∧ t.ron F.HL_EVT_RECAL_S = true ∧
        t.rget F.HL_RECAL_LAST = (if 40 ≤ (tj.toInt - signed (s.rget F.HL_TEMP_TCAL) 16).natAbs then 1 else 2) ∧
        (∀ b : Fin 12, (∀ m ∈ ms, m.b ≠ b) → t.banks[b] = s.banks[b]) ∧
        (∀ m, ms = [m] → t.banks[m.b] = { s.banks[m.b] with bins := m.bins, swap := true } ∧
          t.ron (F.SPN_BANKCALb_VALID m.b) = true ∧ t.rget (F.SPN_BANKCALb_ELEM m.b) = m.elem.toNat) ∧
        State.sameBlocks { s with banks := t.banks, hl := t.hl, gaf := t.gaf } t)) ∧
  (∀ (b : Fin 12) (s : State), s.takesEvents = true → s.spine.counting = true → plainTick s → s.pending = [] →
    ∃ t, step s = .next t ∧ t.banks[b] = if s.banks[b].swap then
      { s.banks[b] with live := some ⟨s.rget (F.SPN_BANKCALb_ELEM b), s.banks[b].bins⟩, swap := false } else s.banks[b])

/-- A freeze has begun (R377): Tf is the present time, and with PINS every channel is held. -/
def frozeAt (s t : State) (cause : Nat) (ball : Bool) : Prop :=
  t.frozen = true ∧ t.reg R.FRZ_T_LO = word s.nowNs ∧ t.reg R.FRZ_T_HI = word (s.nowNs / 2 ^ 32) ∧ t.rget F.FRZ_T_SUB_SUB = tSub s.now ∧
  t.frz = ⟨0, cause, ball⟩ ∧ t.rget F.FRZ_CNT_FREEZES = (s.rget F.FRZ_CNT_FREEZES + 1) % 2 ^ 16 ∧ t.ron F.FRZ_STAT_STOPPING = true ∧
  (s.ron F.FRZ_CTRL_PINS = true → ∀ c : Fin 96, t.ch[c].holdFrz = true) ∧ (s.ron F.FRZ_CTRL_PINS = false → t.ch = s.ch) ∧
  s.sameRegsBut t [R.FRZ_T_LO, R.FRZ_T_HI, R.FRZ_T_SUB, R.FRZ_STAT, R.FRZ_CNT, R.FRZ_EVT] ∧
  State.sameBlocks { s with ch := t.ch, frz := t.frz } t

/-- The device has thawed (R254, R378 to R380): the gap shows, no channel is held for the freeze, the PLL's ticks have gone on, and so does the
spine, by the gap too where ADDGAP asks; messages that the freeze has kept back are owed no more. -/
def thawed (s t : State) : Prop :=
  t.frozen = false ∧ t.spine.tick = s.spine.tick + s.frz.ticks + 1 ∧ t.ron F.FRZ_STAT_FROZEN = false ∧ t.ron F.FRZ_STAT_STOPPING = false ∧ t.ron F.FRZ_EVT_THAW_S = true ∧ t.ec.owed = false ∧
  t.reg R.FRZ_GAP_LO = word (s.frzGap / 2 ^ 40) ∧ t.reg R.FRZ_GAP_HI = word (s.frzGap / 2 ^ 72) ∧ (∀ c : Fin 96, t.ch[c].holdFrz = false) ∧
  (s.spine.hold = none → s.spine.slew = none → t.spine.acc = s.spine.acc + BitVec.ofNat 104 s.tickInc +
    (if s.ron F.FRZ_CTRL_ADDGAP then BitVec.ofNat 104 s.frzGap else 0))

/-- R376 to R380: freeze and thaw. A request of the ball, of a path or of the debug port freezes a device that is powered and loads nothing, and is
refused else; in a frozen device it only joins the request that stands. The ball is at a level, which FRZ_CTRL judges: a write that makes it
active and enabled freezes the device too. The device thaws when the last request ends: stated of a thaw in whose tick nothing else is due.
When every block has stopped, the buffer is written.
Choices of the model: log entries 4, 27, 73, 74 and 116. -/
def Obligations.FreezeAndThaw : Prop :=
  ∀ s : State,
    let ballAt := fun (b : Bool) => { s with frz := { s.frz with ball := b } }
    let on := !s.ron F.FRZ_CTRL_POL
    (s.ron F.FRZ_CTRL_BALL_EN = false ∨ s.ron F.FRZ_STAT_REQ_BALL = true → exec .freezeBall s = .next (ballAt on)) ∧
    (s.ron F.FRZ_CTRL_BALL_EN = true → s.ron F.FRZ_STAT_REQ_BALL = false →
      (s.powered = false ∨ s.loading = true → ∃ t, exec .freezeBall s = .next t ∧ t.ron F.FRZ_EVT_REF_S = true ∧
        s.sameRegsBut t [R.FRZ_EVT] ∧ State.sameBlocks (ballAt on) t) ∧
      (s.powered = true → s.loading = false → s.frozen = true → ∃ t, exec .freezeBall s = .next t ∧ t.ron F.FRZ_STAT_REQ_BALL = true ∧
        t.ron F.FRZ_STAT_REQ_CMD = s.ron F.FRZ_STAT_REQ_CMD ∧ s.sameRegsBut t [R.FRZ_STAT] ∧ State.sameBlocks (ballAt on) t) ∧
      (s.takesWrites = true → ∃ t, exec .freezeBall s = .next t ∧ t.ron F.FRZ_STAT_REQ_BALL = true ∧ frozeAt s t 0 on)) ∧
    (s.ron F.FRZ_STAT_REQ_BALL = false → exec .freezeBallRelease s = .next (ballAt (!on))) ∧
    (s.ron F.FRZ_STAT_REQ_BALL = true →
      (s.ron F.FRZ_STAT_REQ_CMD = true → ∃ t, exec .freezeBallRelease s = .next t ∧ t.ron F.FRZ_STAT_REQ_BALL = false ∧ t.frozen = true ∧
        s.sameRegsBut t [R.FRZ_STAT] ∧ State.sameBlocks (ballAt (!on)) t) ∧
      (s.ron F.FRZ_STAT_REQ_CMD = false → plainTick s → ∃ t, exec .freezeBallRelease s = .next t ∧ thawed s t ∧ t.frz.ball = !on)) ∧
    (∀ (p : Path) (v : Word), s.takesWrites = true → ∃ t, exec (.registerWrite p (word R.FRZ_CTRL) v true) s = .next t ∧
      t.frozen = (t.ron F.FRZ_CTRL_BALL_EN && (s.frz.ball != t.ron F.FRZ_CTRL_POL)) ∧ t.frz.ball = s.frz.ball) ∧
    (∀ (p : Path) (o : FrzPort), s.powered = true →
      (s.takesWrites = true → ∃ t, exec (.freeze o) s = .next t ∧ t.ron F.FRZ_STAT_REQ_CMD = true ∧ frozeAt s t (match o with | .host q => 1 + pathBit q | .jtag => 3) s.frz.ball) ∧
      (s.frozen = true → s.loading = false → ∃ t, exec (.freeze o) s = .next t ∧ t.ron F.FRZ_STAT_REQ_CMD = true ∧
        s.sameRegsBut t [R.FRZ_STAT] ∧ s.sameBlocks t) ∧
      (s.frozen = false → s.loading = true → ∃ t, exec (.freeze o) s = .next t ∧ countedOne s t F.CFG_HOSTIGN_CNT ∧
        t.ron F.FRZ_EVT_REF_S = true ∧ s.sameRegsBut t [R.CFG_HOSTIGN, R.FRZ_EVT] ∧ s.sameBlocks t) ∧
      (s.takesWrites = true → ∃ t, exec (.thaw o) s = .next t ∧ t.ron F.FRZ_EVT_REF_S = true ∧ s.sameRegsBut t [R.FRZ_EVT] ∧ s.sameBlocks t) ∧
      (s.loading = false → s.ron F.FRZ_STAT_REQ_CMD = true → s.ron F.FRZ_STAT_REQ_BALL = true →
        ∃ t, exec (.thaw o) s = .next t ∧ t.ron F.FRZ_STAT_REQ_CMD = false ∧ t.frozen = true ∧ s.sameRegsBut t [R.FRZ_STAT] ∧ s.sameBlocks t) ∧
      (s.loading = false → s.ron F.FRZ_STAT_REQ_CMD = true → s.ron F.FRZ_STAT_REQ_BALL = false → plainTick s →
        ∃ t, exec (.thaw o) s = .next t ∧ thawed s t) ∧
      (s.loading = false → exec (.frzNop p) s = .next s)) ∧
    (∀ o : FrzPort, s.powered = false → ∃ t, exec (.freeze o) s = .next t ∧ t.ron F.FRZ_EVT_REF_S = true ∧ s.sameRegsBut t [R.FRZ_EVT] ∧
      s.sameBlocks t) ∧
    (s.frozen = false ∨ s.ron F.FRZ_STAT_STOPPING = false → exec .freezeComplete s = .next s) ∧
    (s.frozen = true → s.ron F.FRZ_STAT_STOPPING = true → ∃ t, exec .freezeComplete s = .next t ∧ t.ron F.FRZ_STAT_STOPPING = false ∧
      t.ron F.FRZ_STAT_FROZEN = true ∧ s.sameRegsBut t [R.FRZ_STAT] ∧ State.sameBlocks { s with sram := t.sram, free := t.free } t ∧
      ∀ a, a < (s.reg R.FRZ_BUF).toNat ∨ (s.reg R.FRZ_BUF).toNat + 0x7000 ≤ a → memRd t.sram a = memRd s.sram a)
end

