-- ==== Sys2Proof/Laws/Table.lean ====
section
/-!
SUPPORT. Laws of the sparse tables and of the memories: what is read after a write, and that every operation keeps the canonical form.
-/
namespace Sys2Proof.Machine
open Sys2Proof

variable {α : Type}

/-! ### Reading after writing -/

theorem tblFind_put_same (t : Tbl α) (a : Nat) (x : α) : tblFind (tblPut t a x) a = some x := by
  induction t with
  | nil => simp [tblPut, tblFind]
  | cons e t ih =>
    obtain ⟨k, v⟩ := e
    simp only [tblPut]
    split_ifs with h1 h2
    · simp [tblFind]
    · simp [tblFind]
    · simp [tblFind, Ne.symm h2, ih]

theorem tblFind_put_ne (t : Tbl α) {a b : Nat} (x : α) (h : b ≠ a) : tblFind (tblPut t a x) b = tblFind t b := by
  induction t with
  | nil => simp [tblPut, tblFind, h.symm]
  | cons e t ih =>
    obtain ⟨k, v⟩ := e
    simp only [tblPut]
    split_ifs with h1 h2
    · simp [tblFind, h.symm]
    · subst h2; simp [tblFind, h.symm]
    · simp [tblFind, ih]

theorem tblFind_del_same (t : Tbl α) (a : Nat) : tblFind (tblDel t a) a = none := by
  induction t with
  | nil => rfl
  | cons e t ih =>
    obtain ⟨k, v⟩ := e
    simp only [tblDel]
    split_ifs with h
    · exact ih
    · simp [tblFind, h, ih]

theorem tblFind_del_ne (t : Tbl α) {a b : Nat} (h : b ≠ a) : tblFind (tblDel t a) b = tblFind t b := by
  induction t with
  | nil => rfl
  | cons e t ih =>
    obtain ⟨k, v⟩ := e
    simp only [tblDel]
    split_ifs with hk
    · subst hk; simp [tblFind, h.symm, ih]
    · simp [tblFind, ih]

variable [DecidableEq α] (d : Nat → α)

@[simp] theorem tblGet_set_same (t : Tbl α) (a : Nat) (x : α) : tblGet d (tblSet d t a x) a = x := by
  unfold tblGet tblSet
  split_ifs with h
  · simp [tblFind_del_same, h]
  · simp [tblFind_put_same]

theorem tblGet_set_ne (t : Tbl α) {a b : Nat} (x : α) (h : b ≠ a) : tblGet d (tblSet d t a x) b = tblGet d t b := by
  unfold tblGet tblSet
  split_ifs
  · rw [tblFind_del_ne t h]
  · rw [tblFind_put_ne t x h]

/-! ### The canonical form -/

omit [DecidableEq α] in
theorem tblAbove_weaken {t : Tbl α} {b c : Nat} (h : tblAbove c t = true) (hb : b ≤ c) : tblAbove b t = true := by
  cases t with
  | nil => rfl
  | cons e t =>
    obtain ⟨k, v⟩ := e
    simp only [tblAbove, Bool.and_eq_true, decide_eq_true_eq] at h ⊢
    exact ⟨by omega, h.2⟩

omit [DecidableEq α] in
theorem tblSorted_of_above {t : Tbl α} {b : Nat} (h : tblAbove b t = true) : tblSorted t = true := by
  cases t with
  | nil => rfl
  | cons e t =>
    obtain ⟨k, v⟩ := e
    simp only [tblAbove, Bool.and_eq_true] at h
    exact h.2

omit [DecidableEq α] in
theorem tblAbove_put (t : Tbl α) {b a : Nat} (x : α) (h : tblAbove b t = true) (ha : b < a) :
    tblAbove b (tblPut t a x) = true := by
  induction t generalizing b with
  | nil => simp [tblPut, tblAbove, ha]
  | cons e t ih =>
    obtain ⟨k, v⟩ := e
    simp only [tblAbove, Bool.and_eq_true, decide_eq_true_eq] at h
    simp only [tblPut]
    split_ifs with h1 h2
    · simp [tblAbove, ha, h1, h.2]
    · subst h2; simp [tblAbove, ha, h.2]
    · have hk : k < a := by omega
      simp [tblAbove, h.1, ih h.2 hk]

omit [DecidableEq α] in
theorem tblSorted_put (t : Tbl α) (a : Nat) (x : α) (h : tblSorted t = true) : tblSorted (tblPut t a x) = true := by
  cases t with
  | nil => rfl
  | cons e t =>
    obtain ⟨k, v⟩ := e
    simp only [tblSorted] at h
    simp only [tblPut]
    split_ifs with h1 h2
    · simp [tblSorted, tblAbove, h1, h]
    · subst h2; simpa [tblSorted] using h
    · have hk : k < a := by omega
      simpa [tblSorted] using tblAbove_put t x h hk

omit [DecidableEq α] in
theorem tblAbove_del (t : Tbl α) {b : Nat} (a : Nat) (h : tblAbove b t = true) : tblAbove b (tblDel t a) = true := by
  induction t generalizing b with
  | nil => rfl
  | cons e t ih =>
    obtain ⟨k, v⟩ := e
    simp only [tblAbove, Bool.and_eq_true, decide_eq_true_eq] at h
    simp only [tblDel]
    split_ifs
    · exact ih (tblAbove_weaken h.2 h.1.le)
    · simp [tblAbove, h.1, ih h.2]

omit [DecidableEq α] in
theorem tblSorted_del (t : Tbl α) (a : Nat) (h : tblSorted t = true) : tblSorted (tblDel t a) = true := by
  cases t with
  | nil => rfl
  | cons e t =>
    obtain ⟨k, v⟩ := e
    simp only [tblSorted] at h
    simp only [tblDel]
    split_ifs
    · exact tblSorted_of_above (tblAbove_del t a h)
    · simpa [tblSorted] using tblAbove_del t a h

omit [DecidableEq α] in
theorem tblAbove_filter (t : Tbl α) {b : Nat} (p : Nat × α → Bool) (h : tblAbove b t = true) : tblAbove b (t.filter p) = true := by
  induction t generalizing b with
  | nil => rfl
  | cons e t ih =>
    obtain ⟨k, v⟩ := e
    simp only [tblAbove, Bool.and_eq_true, decide_eq_true_eq] at h
    simp only [List.filter_cons]
    split_ifs
    · simp [tblAbove, h.1, ih h.2]
    · exact ih (tblAbove_weaken h.2 h.1.le)

omit [DecidableEq α] in
theorem tblSorted_filter (t : Tbl α) (p : Nat × α → Bool) (h : tblSorted t = true) : tblSorted (t.filter p) = true := by
  cases t with
  | nil => rfl
  | cons e t =>
    obtain ⟨k, v⟩ := e
    simp only [tblSorted] at h
    simp only [List.filter_cons]
    split_ifs
    · simpa [tblSorted] using tblAbove_filter t p h
    · exact tblSorted_of_above (tblAbove_filter t p h)

omit [DecidableEq α] in
theorem mem_tblPut {t : Tbl α} {a : Nat} {x : α} {e : Nat × α} (h : e ∈ tblPut t a x) : e = (a, x) ∨ e ∈ t := by
  induction t with
  | nil => simpa [tblPut] using h
  | cons f t ih =>
    obtain ⟨k, v⟩ := f
    simp only [tblPut] at h
    split_ifs at h with h1 h2
    · simpa using h
    · rcases List.mem_cons.mp h with h | h
      · exact .inl h
      · exact .inr (List.mem_cons_of_mem _ h)
    · rcases List.mem_cons.mp h with h | h
      · exact .inr (by simp [h])
      · exact (ih h).imp_right (List.mem_cons_of_mem _)

omit [DecidableEq α] in
theorem mem_tblDel {t : Tbl α} {a : Nat} {e : Nat × α} (h : e ∈ tblDel t a) : e ∈ t := by
  induction t with
  | nil => simp [tblDel] at h
  | cons f t ih =>
    obtain ⟨k, v⟩ := f
    simp only [tblDel] at h
    split_ifs at h
    · exact List.mem_cons_of_mem _ (ih h)
    · rcases List.mem_cons.mp h with h | h
      · simp [h]
      · exact List.mem_cons_of_mem _ (ih h)

/-- A write keeps the canonical form. -/
theorem tblWf_set (t : Tbl α) (a : Nat) (x : α) (h : tblWf d t = true) : tblWf d (tblSet d t a x) = true := by
  simp only [tblWf, Bool.and_eq_true, List.all_eq_true, decide_eq_true_eq] at h ⊢
  unfold tblSet
  split_ifs with hx
  · exact ⟨tblSorted_del t a h.1, fun e he => h.2 e (mem_tblDel he)⟩
  · refine ⟨tblSorted_put t a x h.1, fun e he => ?_⟩
    rcases mem_tblPut he with rfl | he
    · exact hx
    · exact h.2 e he

/-- Dropping entries keeps the canonical form. -/
theorem tblWf_filter (t : Tbl α) (p : Nat × α → Bool) (h : tblWf d t = true) : tblWf d (t.filter p) = true := by
  simp only [tblWf, Bool.and_eq_true, List.all_eq_true, decide_eq_true_eq] at h ⊢
  exact ⟨tblSorted_filter t p h.1, fun e he => h.2 e (List.mem_of_mem_filter he)⟩

/-! ### Memories -/

@[simp] theorem memRd_wr_same (m : Tbl Byte) (a : Nat) (b : Byte) : memRd (memWr m a b) a = b := tblGet_set_same _ m a b

theorem memRd_wr_ne (m : Tbl Byte) {a x : Nat} (b : Byte) (h : x ≠ a) : memRd (memWr m a b) x = memRd m x :=
  tblGet_set_ne _ m b h

theorem memWr_wf (m : Tbl Byte) (a : Nat) (b : Byte) (h : Memory.wf m = true) : Memory.wf (memWr m a b) = true :=
  tblWf_set _ m a b h

/-- A write of n bytes changes no other byte. -/
theorem memRd_wrN_out (m : Tbl Byte) (a n v : Nat) {x : Nat} (h : x < a ∨ a + n ≤ x) : memRd (memWrN m a n v) x = memRd m x := by
  induction n generalizing m a v with
  | zero => rfl
  | succ n ih =>
    simp only [memWrN]
    rw [ih _ _ _ (by omega), memRd_wr_ne _ _ (by omega)]

/-- A write of n bytes leaves the bytes of the value, least significant first. -/
theorem memRd_wrN_in (m : Tbl Byte) (a n v i : Nat) (h : i < n) :
    memRd (memWrN m a n v) (a + i) = BitVec.ofNat 8 (v / 256 ^ i) := by
  induction n generalizing m a v i with
  | zero => omega
  | succ n ih =>
    simp only [memWrN]
    cases i with
    | zero => rw [memRd_wrN_out _ _ _ _ (by omega)]; simp
    | succ i =>
      have := ih (memWr m a (BitVec.ofNat 8 v)) (a + 1) (v / 256) i (by omega)
      rw [show a + (i + 1) = a + 1 + i by omega, this, Nat.div_div_eq_div_mul, pow_succ']

theorem memWrN_wf (m : Tbl Byte) (a n v : Nat) (h : Memory.wf m = true) : Memory.wf (memWrN m a n v) = true := by
  induction n generalizing m a v with
  | zero => exact h
  | succ n ih => exact ih _ _ _ (memWr_wf m a _ h)

theorem memWrW_wf (m : Tbl Byte) (a : Nat) (w : Word) (h : Memory.wf m = true) : Memory.wf (memWrW m a w) = true :=
  memWrN_wf m a 4 _ h

theorem memWrWs_wf (m : Tbl Byte) (a : Nat) (ws : List Word) (h : Memory.wf m = true) : Memory.wf (memWrWs m a ws) = true := by
  induction ws generalizing m a with
  | nil => exact h
  | cons w ws ih => exact ih _ _ (memWrW_wf m a w h)

/-- A write of words changes no byte outside them. -/
theorem memRd_wrWs_out (m : Tbl Byte) (a : Nat) (ws : List Word) {x : Nat} (h : x < a ∨ a + 4 * ws.length ≤ x) :
    memRd (memWrWs m a ws) x = memRd m x := by
  induction ws generalizing m a with
  | nil => rfl
  | cons w ws ih =>
    simp only [List.length_cons] at h
    simp only [memWrWs]
    rw [ih _ _ (by omega), memWrW, memRd_wrN_out _ _ _ _ (by omega)]

end Sys2Proof.Machine
end

