-- ==== Sys2Proof/Laws/CoreOps.lean ====
section
/-!
SUPPORT. What leaves the blocks of the core as they were (Ops, Frame, Gate, LehrTime).
-/
namespace Sys2Proof.Machine
open Sys2Proof

/-- `State.sameCore`, over the parts that stay. -/
def CoreQ (s : State) (ch : Vector Channel 96) (gaf : Vector Gaffer 8) (ory : Vector Orrery 4) (conv : Vector Converter 2) (sbuf : Vector SampBuf 6) (sram : Tbl Byte) (free : Nat) : Prop :=
  ch = s.ch ∧ gaf = s.gaf ∧ ory = s.ory ∧ conv = s.conv ∧ sbuf = s.sbuf ∧ sram = s.sram ∧ free = s.free

/-- The blocks of the core are as they were. -/
def Core (s t : State) : Prop := CoreQ s t.ch t.gaf t.ory t.conv t.sbuf t.sram t.free

theorem core_iff (s t : State) : Core s t ↔ s.sameCore t := Iff.rfl

/-- `Core` of the next state that an outcome gives. -/
def CoreO (s : State) (o : Host.Outcome State Fault Refusal) : Prop := ∀ t, o = .next t → Core s t

theorem core_refl (s : State) : Core s s := by simp [Core, CoreQ]

theorem core_q {s₀ s : State} (h : Core s₀ s) : CoreQ s₀ s.ch s.gaf s.ory s.conv s.sbuf s.sram s.free := h

theorem core_mk {s₀ : State} {x_regs : Tbl Word} {x_staged : Tbl Word} {x_pcie : PathState} {x_spi : PathState} {x_spine : Spine} {x_banks : Vector Bank 12} {x_ch : Vector Channel 96} {x_gaf : Vector Gaffer 8} {x_ory : Vector Orrery 4} {x_conv : Vector Converter 2} {x_sbuf : Vector SampBuf 6} {x_recq : List Rec} {x_seqs : Tbl Nat} {x_otp : Tbl OtpWord} {x_calU : Tbl Word} {x_calS : Tbl Word} {x_layout : Layout} {x_ap : ApState} {x_rings : Vector Ring 64} {x_lehr : Lehr} {x_el : Ewer} {x_ec : Ec} {x_fn : PcieFn} {x_hif : HostIf} {x_load : Load} {x_frz : Frz} {x_psq : Psq} {x_pw : Power} {x_hl : Health} {x_sram : Tbl Byte} {x_mram : Tbl Byte} {x_host : Tbl Byte} {x_free : Nat} {x_pending : List Instr} :
    Core s₀ (State.mk x_regs x_staged x_pcie x_spi x_spine x_banks x_ch x_gaf x_ory x_conv x_sbuf x_recq x_seqs x_otp x_calU x_calS x_layout x_ap x_rings x_lehr x_el x_ec x_fn x_hif x_load x_frz x_psq x_pw x_hl x_sram x_mram x_host x_free x_pending) = CoreQ s₀ x_ch x_gaf x_ory x_conv x_sbuf x_sram x_free := rfl

theorem core_next {s₀ s : State} (h : Core s₀ s) : CoreO s₀ (.next s) := by
  intro t ht; cases ht; exact h

theorem core_ite {s₀ a b : State} {c : Prop} [Decidable c] (ha : Core s₀ a) (hb : Core s₀ b) : Core s₀ (if c then a else b) := by
  split <;> assumption

theorem core_foldl {s₀ s : State} {β : Type} (f : State → β → State) (l : List β) (hf : ∀ a x, Core s₀ a → Core s₀ (f a x))
    (h : Core s₀ s) : Core s₀ (l.foldl f s) := by
  induction l generalizing s with
  | nil => exact h
  | cons x l ih => exact ih (hf s x h)

theorem core_ite_fst {s₀ : State} {β : Type} {a b : State × β} {c : Prop} [Decidable c] (ha : Core s₀ a.1) (hb : Core s₀ b.1) :
    Core s₀ (if c then a else b).1 := by
  split <;> assumption

theorem core_pair {s₀ t : State} {β : Type} {b : β} {x : State × β} (he : x = (t, b)) (h : Core s₀ x.1) : Core s₀ t := by
  rw [he] at h; exact h

theorem core_dite {s₀ : State} {c : Prop} [Decidable c] {a : c → State} {b : ¬c → State} (ha : ∀ h, Core s₀ (a h)) (hb : ∀ h, Core s₀ (b h)) :
    Core s₀ (if h : c then a h else b h) := by
  split
  · exact ha _
  · exact hb _

theorem setReg_core {s₀ : State} (s : State) (o : Nat) (w : Word) (hk : Core s₀ s) :
    Core s₀ (State.setReg s o w) := by
  unfold State.setReg
  with_reducible repeat' first | assumption | (intro _) | (simp only [core_mk]; apply core_q)

theorem rput_core {s₀ : State} (s : State) (f : Fld) (v : Nat) (hk : Core s₀ s) :
    Core s₀ (State.rput s f v) := by
  unfold State.rput
  with_reducible repeat' first | assumption | (intro _) | apply setReg_core

theorem rsat_core {s₀ : State} (s : State) (f : Fld) (k : Nat) (hk : Core s₀ s) :
    Core s₀ (State.rsat s f k) := by
  unfold State.rsat
  with_reducible repeat' first | assumption | (intro _) | apply rput_core

theorem rwrap_core {s₀ : State} (s : State) (f : Fld) (k : Nat) (hk : Core s₀ s) :
    Core s₀ (State.rwrap s f k) := by
  unfold State.rwrap
  with_reducible repeat' first | assumption | (intro _) | apply rput_core

theorem modRing_core {s₀ : State} (s : State) (n : Fin 64) (f : Ring → Ring) (hk : Core s₀ s) :
    Core s₀ (State.modRing s n f) := by
  unfold State.modRing
  with_reducible repeat' first | assumption | (intro _) | (simp only [core_mk]; apply core_q)

theorem modBank_core {s₀ : State} (s : State) (b : Fin 12) (f : Bank → Bank) (hk : Core s₀ s) :
    Core s₀ (State.modBank s b f) := by
  unfold State.modBank
  with_reducible repeat' first | assumption | (intro _) | (simp only [core_mk]; apply core_q)

theorem modSpine_core {s₀ : State} (s : State) (f : Spine → Spine) (hk : Core s₀ s) :
    Core s₀ (State.modSpine s f) := by
  unfold State.modSpine
  with_reducible repeat' first | assumption | (intro _) | (simp only [core_mk]; apply core_q)

theorem modPath_core {s₀ : State} (s : State) (p : Path) (f : PathState → PathState) (hk : Core s₀ s) :
    Core s₀ (State.modPath s p f) := by
  unfold State.modPath
  with_reducible repeat' first | assumption | (intro _) | (simp only [core_mk]; apply core_q) | dsimp only | split

theorem setHeld_core {s₀ : State} (s : State) (p : Path) (o : Nat) (w : Word) (hk : Core s₀ s) :
    Core s₀ (State.setHeld s p o w) := by
  unfold State.setHeld
  with_reducible repeat' first | assumption | (intro _) | apply modPath_core

theorem setShadow_core {s₀ : State} (s : State) (p : Path) (o : Nat) (w : Word) (hk : Core s₀ s) :
    Core s₀ (State.setShadow s p o w) := by
  unfold State.setShadow
  with_reducible repeat' first | assumption | (intro _) | apply modPath_core

theorem setEcSrc_core {s₀ : State} (s : State) (n : Nat) (x : EcSrc) (hk : Core s₀ s) :
    Core s₀ (State.setEcSrc s n x) := by
  unfold State.setEcSrc
  with_reducible repeat' first | assumption | (intro _) | (simp only [core_mk]; apply core_q)

theorem msixSend_core {s₀ : State} (s : State) (t : Nat) (hk : Core s₀ s) :
    Core s₀ (State.msixSend s t) := by
  unfold State.msixSend
  with_reducible repeat' first | assumption | (intro _) | (simp only [core_mk]; apply core_q) | apply core_ite

theorem ecAssign_core {s₀ : State} (s : State) (n : Nat) (hk : Core s₀ s) :
    Core s₀ (State.ecAssign s n) := by
  unfold State.ecAssign
  with_reducible repeat' first | assumption | (intro _) | apply setEcSrc_core | apply msixSend_core | apply core_ite | dsimp only | split

theorem noteSet_core {s₀ : State} (s : State) (f : Fld) (hk : Core s₀ s) :
    Core s₀ (State.noteSet s f) := by
  unfold State.noteSet
  with_reducible repeat' first | assumption | (intro _) | (simp only [core_mk]; apply core_q)

theorem ecEvt_core {s₀ : State} (s : State) (f : Fld) (hk : Core s₀ s) :
    Core s₀ (State.ecEvt s f) := by
  unfold State.ecEvt
  with_reducible repeat' first | assumption | (intro _) | apply noteSet_core | apply rput_core

theorem ecEdge_core {s₀ : State} (s : State) (n : Nat) (hk : Core s₀ s) :
    Core s₀ (State.ecEdge s n) := by
  unfold State.ecEdge
  with_reducible repeat' first | assumption | (intro _) | (simp only [core_mk]; apply core_q) | apply rsat_core | apply ecEvt_core | apply setEcSrc_core | apply ecAssign_core | apply core_ite

theorem ecLevel_core {s₀ : State} (s : State) (n : Nat) (hk : Core s₀ s) :
    Core s₀ (State.ecLevel s n) := by
  unfold State.ecLevel
  with_reducible repeat' first | assumption | (intro _) | apply setEcSrc_core | apply ecAssign_core | apply core_ite

theorem evt_core {s₀ : State} (s : State) (f : Fld) (hk : Core s₀ s) :
    Core s₀ (State.evt s f) := by
  unfold State.evt
  with_reducible repeat' first | assumption | (intro _) | apply noteSet_core | apply rput_core | apply ecEdge_core | apply core_ite | dsimp only | split

theorem mramWr_core {s₀ : State} (s : State) (a : Nat) (ws : List Word) (hk : Core s₀ s) :
    Core s₀ (State.mramWr s a ws) := by
  unfold State.mramWr
  with_reducible repeat' first | assumption | (intro _) | (simp only [core_mk]; apply core_q)

theorem hostWr_core {s₀ : State} (s : State) (a : Nat) (ws : List Word) (hk : Core s₀ s) :
    Core s₀ (State.hostWr s a ws) := by
  unfold State.hostWr
  with_reducible repeat' first | assumption | (intro _) | (simp only [core_mk]; apply core_q)

theorem emitTo_core {s₀ : State} (s : State) (ring : Option Nat) (type src t flags : Nat) (w4 w5 w6 w7 : Word) (hk : Core s₀ s) :
    Core s₀ (State.emitTo s ring type src t flags w4 w5 w6 w7) := by
  unfold State.emitTo
  with_reducible repeat' first | assumption | (intro _) | (simp only [core_mk]; apply core_q) | apply rsat_core | apply ecEvt_core | apply core_ite | dsimp only | split

theorem faultLog_core {s₀ : State} (s : State) (type src t flags : Nat) (w4 w5 w6 w7 : Word) (hk : Core s₀ s) :
    Core s₀ (State.faultLog s type src t flags w4 w5 w6 w7) := by
  unfold State.faultLog
  with_reducible repeat' first | assumption | (intro _) | (simp only [core_mk]; apply core_q) | apply core_ite

theorem recordKick_core {s₀ : State} (s : State) (type src : Nat) (hk : Core s₀ s) :
    Core s₀ (State.recordKick s type src) := by
  unfold State.recordKick
  with_reducible repeat' first | assumption | (intro _) | (simp only [core_mk]; apply core_q) | apply core_ite

theorem emitFl_core {s₀ : State} (s : State) (type src t fl : Nat) (w4 w5 w6 w7 : Word) (hk : Core s₀ s) :
    Core s₀ (State.emitFl s type src t fl w4 w5 w6 w7) := by
  unfold State.emitFl
  with_reducible repeat' first | assumption | (intro _) | apply faultLog_core | apply recordKick_core | apply emitTo_core

theorem emit_core {s₀ : State} (s : State) (type src t flags : Nat) (w4 w5 w6 w7 : Word) (hk : Core s₀ s) :
    Core s₀ (State.emit s type src t flags w4 w5 w6 w7) := by
  unfold State.emit
  with_reducible repeat' first | assumption | (intro _) | apply emitFl_core

theorem eccBad_core {s₀ : State} (s : State) (mram : Bool) (ofs : Nat) (hk : Core s₀ s) :
    Core s₀ (State.eccBad s mram ofs) := by
  unfold State.eccBad
  with_reducible repeat' first | assumption | (intro _) | apply rsat_core | apply setReg_core | apply evt_core | apply emit_core | apply core_ite

theorem eccCorr_core {s₀ : State} (s : State) (ofs : Nat) (hk : Core s₀ s) :
    Core s₀ (State.eccCorr s ofs) := by
  unfold State.eccCorr
  with_reducible repeat' first | assumption | (intro _) | apply rsat_core | apply evt_core | apply emit_core | apply core_ite

theorem rseqStep_core {s₀ : State} (s : State) (hk : Core s₀ s) :
    Core s₀ (State.rseqStep s) := by
  unfold State.rseqStep
  with_reducible repeat' first | assumption | (intro _) | (simp only [core_mk]; apply core_q) | apply core_ite

theorem event_core {s₀ : State} (s : State) (f : State → State) (hf : ∀ a, Core s₀ a → Core s₀ (f a)) (h : Core s₀ s) :
    CoreO s₀ (s.event f) := by
  unfold State.event
  split
  · exact core_next h
  · exact core_next (hf s h)

theorem always_core {s₀ : State} (s : State) (f : State → State) (hf : ∀ a, Core s₀ a → Core s₀ (f a)) (h : Core s₀ s) :
    CoreO s₀ (s.always f) := core_next (hf s h)

theorem hostWrite_core {s₀ : State} (s : State) (o : Nat) (f : State → State) (hf : ∀ a, Core s₀ a → Core s₀ (f a)) (hk : Core s₀ s) :
    Core s₀ (State.hostWrite s o f) := by
  unfold State.hostWrite
  with_reducible repeat' first | assumption | (intro _) | apply hf | apply rsat_core | apply core_ite

theorem hostAct_core {s₀ : State} (s : State) (p : Path) (o : Nat) (f : State → State) (hf : ∀ a, Core s₀ a → Core s₀ (f a))
    (h : Core s₀ s) : CoreO s₀ (s.hostAct p o f) := core_next (hostWrite_core s o f hf h)

theorem modLehr_core {s₀ : State} (s : State) (f : Lehr → Lehr) (hk : Core s₀ s) :
    Core s₀ (State.modLehr s f) := by
  unfold State.modLehr
  with_reducible repeat' first | assumption | (intro _) | (simp only [core_mk]; apply core_q)

theorem lhState_core {s₀ : State} (s : State) (kind : Nat) (w5 w6 : Word) (hk : Core s₀ s) :
    Core s₀ (State.lhState s kind w5 w6) := by
  unfold State.lhState
  with_reducible repeat' first | assumption | (intro _) | apply emit_core

theorem lhLateCheck_core {s₀ : State} (s : State) (hk : Core s₀ s) :
    Core s₀ (State.lhLateCheck s) := by
  unfold State.lhLateCheck
  with_reducible repeat' first | assumption | (intro _) | apply lhState_core | apply modLehr_core | apply rsat_core | apply evt_core | apply core_ite | apply core_foldl

theorem lhPass_core {s₀ : State} (s : State) (hk : Core s₀ s) :
    Core s₀ (State.lhPass s) := by
  unfold State.lhPass
  with_reducible repeat' first | assumption | (intro _) | apply modLehr_core | apply lhLateCheck_core

end Sys2Proof.Machine
end

