-- ==== Sys2Proof/Laws/FarOps.lean ====
section
/-!
SUPPORT. What the operations of the core leave as it was (Ops, Gate, Cal, RecStage, SampBuf).
-/
namespace Sys2Proof.Machine
open Sys2Proof

/-- `State.sameFar`, over the parts that stay. -/
def FarQ (s : State) (staged : Tbl Word) (pcie : PathState) (spi : PathState) (spine : Spine) (banks : Vector Bank 12) (otp : Tbl OtpWord) (calU : Tbl Word) (calS : Tbl Word) (layout : Layout) (ap : ApState) (rings : Vector Ring 64) (lehr : Lehr) (el : Ewer) (ec_latchP : Nat) (ec_latchS : Nat) (ec_owed : Bool) (fn : PcieFn) (hif : HostIf) (load : Load) (frz : Frz) (psq : Psq) (pw_wdgFixed : Bool) (pw_linkRst : Option (Nat × Nat)) (pw_saved : Nat) (pw_retEc : Option RetEc) (pw_leave : Option Nat) (hl_corrAt : Nat) (hl_recalAt : Nat) (hl_ageFrac : Nat) (hl_sampleAt : Option Nat) (hl_lifeAt : Option Nat) (host : Tbl Byte) (pending : List Instr) : Prop :=
  staged = s.staged ∧ pcie = s.pcie ∧ spi = s.spi ∧ spine = s.spine ∧ banks = s.banks ∧ otp = s.otp ∧ calU = s.calU ∧ calS = s.calS ∧ layout = s.layout ∧ ap = s.ap ∧ rings = s.rings ∧ lehr = s.lehr ∧ el = s.el ∧ ec_latchP = s.ec.latchP ∧ ec_latchS = s.ec.latchS ∧ ec_owed = s.ec.owed ∧ fn = s.fn ∧ { hif with evSet := s.hif.evSet } = s.hif ∧ load = s.load ∧ frz = s.frz ∧ psq = s.psq ∧ pw_wdgFixed = s.pw.wdgFixed ∧ pw_linkRst = s.pw.linkRst ∧ pw_saved = s.pw.saved ∧ pw_retEc = s.pw.retEc ∧ pw_leave = s.pw.leave ∧ hl_corrAt = s.hl.corrAt ∧ hl_recalAt = s.hl.recalAt ∧ hl_ageFrac = s.hl.ageFrac ∧ hl_sampleAt = s.hl.sampleAt ∧ hl_lifeAt = s.hl.lifeAt ∧ host = s.host ∧ pending = s.pending

/-- Everything outside the core is as it was. -/
def Far (s t : State) : Prop := FarQ s t.staged t.pcie t.spi t.spine t.banks t.otp t.calU t.calS t.layout t.ap t.rings t.lehr t.el t.ec.latchP t.ec.latchS t.ec.owed t.fn t.hif t.load t.frz t.psq t.pw.wdgFixed t.pw.linkRst t.pw.saved t.pw.retEc t.pw.leave t.hl.corrAt t.hl.recalAt t.hl.ageFrac t.hl.sampleAt t.hl.lifeAt t.host t.pending

theorem far_iff (s t : State) : Far s t ↔ s.sameFar t := Iff.rfl

/-- `Far` of the next state that an outcome gives. -/
def FarO (s : State) (o : Host.Outcome State Fault Refusal) : Prop := ∀ t, o = .next t → Far s t

theorem far_refl (s : State) : Far s s := by simp [Far, FarQ]

theorem far_q {s₀ s : State} (h : Far s₀ s) : FarQ s₀ s.staged s.pcie s.spi s.spine s.banks s.otp s.calU s.calS s.layout s.ap s.rings s.lehr s.el s.ec.latchP s.ec.latchS s.ec.owed s.fn s.hif s.load s.frz s.psq s.pw.wdgFixed s.pw.linkRst s.pw.saved s.pw.retEc s.pw.leave s.hl.corrAt s.hl.recalAt s.hl.ageFrac s.hl.sampleAt s.hl.lifeAt s.host s.pending := h

theorem far_mk {s₀ : State} {x_regs : Tbl Word} {x_staged : Tbl Word} {x_pcie : PathState} {x_spi : PathState} {x_spine : Spine} {x_banks : Vector Bank 12} {x_ch : Vector Channel 96} {x_gaf : Vector Gaffer 8} {x_ory : Vector Orrery 4} {x_conv : Vector Converter 2} {x_sbuf : Vector SampBuf 6} {x_recq : List Rec} {x_seqs : Tbl Nat} {x_otp : Tbl OtpWord} {x_calU : Tbl Word} {x_calS : Tbl Word} {x_layout : Layout} {x_ap : ApState} {x_rings : Vector Ring 64} {x_lehr : Lehr} {x_el : Ewer} {x_ec : Ec} {x_fn : PcieFn} {x_hif : HostIf} {x_load : Load} {x_frz : Frz} {x_psq : Psq} {x_pw : Power} {x_hl : Health} {x_sram : Tbl Byte} {x_mram : Tbl Byte} {x_host : Tbl Byte} {x_free : Nat} {x_pending : List Instr} :
    Far s₀ (State.mk x_regs x_staged x_pcie x_spi x_spine x_banks x_ch x_gaf x_ory x_conv x_sbuf x_recq x_seqs x_otp x_calU x_calS x_layout x_ap x_rings x_lehr x_el x_ec x_fn x_hif x_load x_frz x_psq x_pw x_hl x_sram x_mram x_host x_free x_pending) = FarQ s₀ x_staged x_pcie x_spi x_spine x_banks x_otp x_calU x_calS x_layout x_ap x_rings x_lehr x_el x_ec.latchP x_ec.latchS x_ec.owed x_fn x_hif x_load x_frz x_psq x_pw.wdgFixed x_pw.linkRst x_pw.saved x_pw.retEc x_pw.leave x_hl.corrAt x_hl.recalAt x_hl.ageFrac x_hl.sampleAt x_hl.lifeAt x_host x_pending := rfl

theorem far_next {s₀ s : State} (h : Far s₀ s) : FarO s₀ (.next s) := by
  intro t ht; cases ht; exact h

theorem far_ite {s₀ a b : State} {c : Prop} [Decidable c] (ha : Far s₀ a) (hb : Far s₀ b) : Far s₀ (if c then a else b) := by
  split <;> assumption

theorem far_foldl {s₀ s : State} {β : Type} (f : State → β → State) (l : List β) (hf : ∀ a x, Far s₀ a → Far s₀ (f a x))
    (h : Far s₀ s) : Far s₀ (l.foldl f s) := by
  induction l generalizing s with
  | nil => exact h
  | cons x l ih => exact ih (hf s x h)

theorem far_ite_fst {s₀ : State} {β : Type} {a b : State × β} {c : Prop} [Decidable c] (ha : Far s₀ a.1) (hb : Far s₀ b.1) :
    Far s₀ (if c then a else b).1 := by
  split <;> assumption

theorem far_pair {s₀ t : State} {β : Type} {b : β} {x : State × β} (he : x = (t, b)) (h : Far s₀ x.1) : Far s₀ t := by
  rw [he] at h; exact h

theorem far_dite {s₀ : State} {c : Prop} [Decidable c] {a : c → State} {b : ¬c → State} (ha : ∀ h, Far s₀ (a h)) (hb : ∀ h, Far s₀ (b h)) :
    Far s₀ (if h : c then a h else b h) := by
  split
  · exact ha _
  · exact hb _

theorem far_foldl_fst {s₀ : State} {β γ : Type} (f : State × β → γ → State × β) (l : List γ)
    (hf : ∀ r x, Far s₀ r.1 → Far s₀ (f r x).1) (r : State × β) (h : Far s₀ r.1) : Far s₀ (l.foldl f r).1 := by
  induction l generalizing r with
  | nil => exact h
  | cons x l ih => exact ih _ (hf r x h)

theorem hif_trans {a b c : HostIf} (h : { b with evSet := a.evSet } = a) (h' : { c with evSet := b.evSet } = b) : { c with evSet := a.evSet } = a := by
  cases a; cases b; cases c; simp_all

theorem far_trans {a b c : State} (h : Far a b) (h' : Far b c) : Far a c := by
  have := hif_trans h.2.2.2.2.2.2.2.2.2.2.2.2.2.2.2.2.2.1 h'.2.2.2.2.2.2.2.2.2.2.2.2.2.2.2.2.2.1
  simp only [Far, FarQ] at *
  simp_all

/-- What was done under other user words, with the user words put back. -/
theorem far_calU {t u : State} {w : Tbl Word} (h : Far { t with calU := w } u) : Far t { u with calU := t.calU } := by
  simp only [Far, FarQ] at *
  simp_all

theorem setReg_far {s₀ : State} (s : State) (o : Nat) (w : Word) (hk : Far s₀ s) :
    Far s₀ (State.setReg s o w) := by
  unfold State.setReg
  with_reducible repeat' first | assumption | (intro _) | (simp only [far_mk]; apply far_q)

theorem rput_far {s₀ : State} (s : State) (f : Fld) (v : Nat) (hk : Far s₀ s) :
    Far s₀ (State.rput s f v) := by
  unfold State.rput
  with_reducible repeat' first | assumption | (intro _) | apply setReg_far

theorem rsat_far {s₀ : State} (s : State) (f : Fld) (k : Nat) (hk : Far s₀ s) :
    Far s₀ (State.rsat s f k) := by
  unfold State.rsat
  with_reducible repeat' first | assumption | (intro _) | apply rput_far

theorem rwrap_far {s₀ : State} (s : State) (f : Fld) (k : Nat) (hk : Far s₀ s) :
    Far s₀ (State.rwrap s f k) := by
  unfold State.rwrap
  with_reducible repeat' first | assumption | (intro _) | apply rput_far

theorem drawn_far {s₀ : State} (s : State) (hk : Far s₀ s) :
    Far s₀ (State.drawn s) := by
  unfold State.drawn
  with_reducible repeat' first | assumption | (intro _) | (simp only [far_mk]; apply far_q)

theorem modCh_far {s₀ : State} (s : State) (c : Fin 96) (f : Channel → Channel) (hk : Far s₀ s) :
    Far s₀ (State.modCh s c f) := by
  unfold State.modCh
  with_reducible repeat' first | assumption | (intro _) | (simp only [far_mk]; apply far_q)

theorem modGaf_far {s₀ : State} (s : State) (e : Fin 8) (f : Gaffer → Gaffer) (hk : Far s₀ s) :
    Far s₀ (State.modGaf s e f) := by
  unfold State.modGaf
  with_reducible repeat' first | assumption | (intro _) | (simp only [far_mk]; apply far_q)

theorem modOry_far {s₀ : State} (s : State) (n : Fin 4) (f : Orrery → Orrery) (hk : Far s₀ s) :
    Far s₀ (State.modOry s n f) := by
  unfold State.modOry
  with_reducible repeat' first | assumption | (intro _) | (simp only [far_mk]; apply far_q)

theorem modConv_far {s₀ : State} (s : State) (k : Fin 2) (f : Converter → Converter) (hk : Far s₀ s) :
    Far s₀ (State.modConv s k f) := by
  unfold State.modConv
  with_reducible repeat' first | assumption | (intro _) | (simp only [far_mk]; apply far_q)

theorem modThr_far {s₀ : State} (s : State) (e : Fin 8) (n : Fin 16) (f : Thread → Thread) (hk : Far s₀ s) :
    Far s₀ (State.modThr s e n f) := by
  unfold State.modThr
  with_reducible repeat' first | assumption | (intro _) | apply modGaf_far

theorem setEcSrc_far {s₀ : State} (s : State) (n : Nat) (x : EcSrc) (hk : Far s₀ s) :
    Far s₀ (State.setEcSrc s n x) := by
  unfold State.setEcSrc
  with_reducible repeat' first | assumption | (intro _) | (simp only [far_mk]; apply far_q)

theorem msixSend_far {s₀ : State} (s : State) (t : Nat) (hk : Far s₀ s) :
    Far s₀ (State.msixSend s t) := by
  unfold State.msixSend
  with_reducible repeat' first | assumption | (intro _) | (simp only [far_mk]; apply far_q) | apply far_ite

theorem ecAssign_far {s₀ : State} (s : State) (n : Nat) (hk : Far s₀ s) :
    Far s₀ (State.ecAssign s n) := by
  unfold State.ecAssign
  with_reducible repeat' first | assumption | (intro _) | apply setEcSrc_far | apply msixSend_far | apply far_ite | dsimp only | split

theorem noteSet_far {s₀ : State} (s : State) (f : Fld) (hk : Far s₀ s) : Far s₀ (State.noteSet s f) := by
  unfold State.noteSet
  simp only [far_mk]
  exact far_q hk

theorem ecEvt_far {s₀ : State} (s : State) (f : Fld) (hk : Far s₀ s) :
    Far s₀ (State.ecEvt s f) := by
  unfold State.ecEvt
  with_reducible repeat' first | assumption | (intro _) | apply noteSet_far | apply rput_far

theorem ecEdge_far {s₀ : State} (s : State) (n : Nat) (hk : Far s₀ s) :
    Far s₀ (State.ecEdge s n) := by
  unfold State.ecEdge
  with_reducible repeat' first | assumption | (intro _) | (simp only [far_mk]; apply far_q) | apply rsat_far | apply ecEvt_far | apply setEcSrc_far | apply ecAssign_far | apply far_ite

theorem ecLevel_far {s₀ : State} (s : State) (n : Nat) (hk : Far s₀ s) :
    Far s₀ (State.ecLevel s n) := by
  unfold State.ecLevel
  with_reducible repeat' first | assumption | (intro _) | apply setEcSrc_far | apply ecAssign_far | apply far_ite

theorem evt_far {s₀ : State} (s : State) (f : Fld) (hk : Far s₀ s) :
    Far s₀ (State.evt s f) := by
  unfold State.evt
  with_reducible repeat' first | assumption | (intro _) | apply noteSet_far | apply rput_far | apply ecEdge_far | apply far_ite | dsimp only | split

theorem sramWr_far {s₀ : State} (s : State) (a : Nat) (ws : List Word) (hk : Far s₀ s) :
    Far s₀ (State.sramWr s a ws) := by
  unfold State.sramWr
  with_reducible repeat' first | assumption | (intro _) | (simp only [far_mk]; apply far_q)

theorem mramWr_far {s₀ : State} (s : State) (a : Nat) (ws : List Word) (hk : Far s₀ s) :
    Far s₀ (State.mramWr s a ws) := by
  unfold State.mramWr
  with_reducible repeat' first | assumption | (intro _) | (simp only [far_mk]; apply far_q)

theorem emitTo_far {s₀ : State} (s : State) (ring : Option Nat) (type src t flags : Nat) (w4 w5 w6 w7 : Word) (hk : Far s₀ s) :
    Far s₀ (State.emitTo s ring type src t flags w4 w5 w6 w7) := by
  unfold State.emitTo
  with_reducible repeat' first | assumption | (intro _) | (simp only [far_mk]; apply far_q) | apply rsat_far | apply ecEvt_far | apply far_ite | dsimp only | split

theorem faultLog_far {s₀ : State} (s : State) (type src t flags : Nat) (w4 w5 w6 w7 : Word) (hk : Far s₀ s) :
    Far s₀ (State.faultLog s type src t flags w4 w5 w6 w7) := by
  unfold State.faultLog
  with_reducible repeat' first | assumption | (intro _) | (simp only [far_mk]; apply far_q) | apply far_ite

theorem recordKick_far {s₀ : State} (s : State) (type src : Nat) (hk : Far s₀ s) :
    Far s₀ (State.recordKick s type src) := by
  unfold State.recordKick
  with_reducible repeat' first | assumption | (intro _) | (simp only [far_mk]; apply far_q) | apply far_ite

theorem emitFl_far {s₀ : State} (s : State) (type src t fl : Nat) (w4 w5 w6 w7 : Word) (hk : Far s₀ s) :
    Far s₀ (State.emitFl s type src t fl w4 w5 w6 w7) := by
  unfold State.emitFl
  with_reducible repeat' first | assumption | (intro _) | apply faultLog_far | apply recordKick_far | apply emitTo_far

theorem emit_far {s₀ : State} (s : State) (type src t flags : Nat) (w4 w5 w6 w7 : Word) (hk : Far s₀ s) :
    Far s₀ (State.emit s type src t flags w4 w5 w6 w7) := by
  unfold State.emit
  with_reducible repeat' first | assumption | (intro _) | apply emitFl_far

theorem eccBad_far {s₀ : State} (s : State) (mram : Bool) (ofs : Nat) (hk : Far s₀ s) :
    Far s₀ (State.eccBad s mram ofs) := by
  unfold State.eccBad
  with_reducible repeat' first | assumption | (intro _) | apply rsat_far | apply setReg_far | apply evt_far | apply emit_far | apply far_ite

theorem eccCorr_far {s₀ : State} (s : State) (ofs : Nat) (hk : Far s₀ s) :
    Far s₀ (State.eccCorr s ofs) := by
  unfold State.eccCorr
  with_reducible repeat' first | assumption | (intro _) | apply rsat_far | apply evt_far | apply emit_far | apply far_ite

theorem eccRead_far {s₀ : State} (s : State) (ecc : Ecc) (ofs words : Nat) (hk : Far s₀ s) :
    Far s₀ (State.eccRead s ecc ofs words) := by
  unfold State.eccRead
  with_reducible repeat' first | assumption | (intro _) | apply drawn_far | apply eccCorr_far | apply eccBad_far | dsimp only | split

theorem wake_far {s₀ : State} (s : State) (e : Fin 8) (n : Fin 16) (bit : Nat) (hk : Far s₀ s) :
    Far s₀ (State.wake s e n bit) := by
  unfold State.wake
  with_reducible repeat' first | assumption | (intro _) | apply modThr_far | apply far_ite

theorem wakeCh_far {s₀ : State} (s : State) (c : Fin 96) (bit : Nat) (hk : Far s₀ s) :
    Far s₀ (State.wakeCh s c bit) := by
  unfold State.wakeCh
  with_reducible repeat' first | assumption | (intro _) | apply wake_far

theorem wakeSpace_far {s₀ : State} (s : State) (e : Fin 8) (of : SpaceOf) (hk : Far s₀ s) :
    Far s₀ (State.wakeSpace s e of) := by
  unfold State.wakeSpace
  with_reducible repeat' first | assumption | (intro _) | apply wake_far | apply far_ite | apply far_foldl

theorem wakeWriter_far {s₀ : State} (s : State) (hk : Far s₀ s) :
    Far s₀ (State.wakeWriter s) := by
  unfold State.wakeWriter
  with_reducible repeat' first | assumption | (intro _) | apply wakeSpace_far | apply far_foldl

theorem event_far {s₀ : State} (s : State) (f : State → State) (hf : ∀ a, Far s₀ a → Far s₀ (f a)) (h : Far s₀ s) :
    FarO s₀ (s.event f) := by
  unfold State.event
  split
  · exact far_next h
  · exact far_next (hf s h)

theorem always_far {s₀ : State} (s : State) (f : State → State) (hf : ∀ a, Far s₀ a → Far s₀ (f a)) (h : Far s₀ s) :
    FarO s₀ (s.always f) := far_next (hf s h)

theorem hostWrite_far {s₀ : State} (s : State) (o : Nat) (f : State → State) (hf : ∀ a, Far s₀ a → Far s₀ (f a)) (hk : Far s₀ s) :
    Far s₀ (State.hostWrite s o f) := by
  unfold State.hostWrite
  with_reducible repeat' first | assumption | (intro _) | apply hf | apply rsat_far | apply far_ite

theorem hostAct_far {s₀ : State} (s : State) (p : Path) (o : Nat) (f : State → State) (hf : ∀ a, Far s₀ a → Far s₀ (f a))
    (h : Far s₀ s) : FarO s₀ (s.hostAct p o f) := far_next (hostWrite_far s o f hf h)

theorem calSaturate_far {s₀ : State} (s : State) (q : Nat) (hk : Far s₀ s) :
    Far s₀ (State.calSaturate s q) := by
  unfold State.calSaturate
  with_reducible repeat' first | assumption | (intro _) | apply evt_far | apply far_ite

theorem stageRun_far {s₀ : State} (s : State) (c : Fin 96) (rs : List ChRec) (hk : Far s₀ s) : Far s₀ (s.stageRun c rs).1 := by
  induction rs generalizing s with
  | nil => exact hk
  | cons r rs ih =>
    unfold State.stageRun
    split
    · exact ih _ (emitFl_far _ _ _ _ _ _ _ _ _ hk)
    · exact ih s hk

theorem stagePump_far {s₀ : State} (s : State) (c : Fin 96) (hk : Far s₀ s) : Far s₀ (State.stagePump s c) := by
  unfold State.stagePump
  split
  · exact hk
  · exact modCh_far _ _ _ (stageRun_far _ _ _ hk)

theorem chEmitFl_far {s₀ : State} (s : State) (c : Fin 96) (type t fl : Nat) (w4 w5 w6 w7 : Word) (hk : Far s₀ s) :
    Far s₀ (State.chEmitFl s c type t fl w4 w5 w6 w7) := by
  unfold State.chEmitFl
  with_reducible repeat' first | assumption | (intro _) | apply modCh_far | apply stagePump_far

theorem chEmit_far {s₀ : State} (s : State) (c : Fin 96) (type t flags : Nat) (w4 w5 w6 w7 : Word) (hk : Far s₀ s) :
    Far s₀ (State.chEmit s c type t flags w4 w5 w6 w7) := by
  unfold State.chEmit
  with_reducible repeat' first | assumption | (intro _) | apply chEmitFl_far

theorem modSbuf_far {s₀ : State} (s : State) (b : Fin 6) (f : SampBuf → SampBuf) (hk : Far s₀ s) :
    Far s₀ (State.modSbuf s b f) := by
  unfold State.modSbuf
  with_reducible repeat' first | assumption | (intro _) | (simp only [far_mk]; apply far_q)

theorem sbufPut_far {s₀ : State} (s : State) (b : Fin 6) (t : Nat) (coarse : Bool) (w0 w1 w2 w3 : Word) (hk : Far s₀ s) :
    Far s₀ (State.sbufPut s b t coarse w0 w1 w2 w3) := by
  unfold State.sbufPut
  with_reducible repeat' first | assumption | (intro _) | apply rwrap_far | apply evt_far | apply modSbuf_far | apply sramWr_far | apply rput_far | apply emitFl_far | apply far_ite

theorem sbufSpace_far {s₀ : State} (s : State) (b : Fin 6) (hk : Far s₀ s) :
    Far s₀ (State.sbufSpace s b) := by
  unfold State.sbufSpace
  with_reducible repeat' first | assumption | (intro _) | apply modSbuf_far | apply emit_far | apply far_ite

end Sys2Proof.Machine
end

