-- ==== Sys2Proof/Laws/FarPins.lean ====
section
/-!
SUPPORT. What the operations of the core leave as it was (Orrery, Converter, Capture, Compare).
-/
namespace Sys2Proof.Machine
open Sys2Proof

theorem oWakes_far {s₀ : State} (s : State) (n : Fin 4) (hk : Far s₀ s) :
    Far s₀ (State.oWakes s n) := by
  unfold State.oWakes
  with_reducible repeat' first | assumption | (intro _) | apply wake_far | apply far_ite | apply far_foldl

theorem oPush_far {s₀ : State} (s : State) (n : Fin 4) (due : Nat) (wake rs : Bool) (hk : Far s₀ s) :
    Far s₀ (State.oPush s n due wake rs) := by
  unfold State.oPush
  with_reducible repeat' first | assumption | (intro _) | apply modOry_far

theorem oBroadcast_far {s₀ : State} (s : State) (n : Fin 4) (due : Nat) (rs : Bool) (hk : Far s₀ s) :
    Far s₀ (State.oBroadcast s n due rs) := by
  unfold State.oBroadcast
  with_reducible repeat' first | assumption | (intro _) | apply oPush_far

theorem oAmend_far {s₀ : State} (s : State) (n : Fin 4) (hk : Far s₀ s) :
    Far s₀ (State.oAmend s n) := by
  unfold State.oAmend
  with_reducible repeat' first | assumption | (intro _) | apply modOry_far

theorem oShow_far {s₀ : State} (s : State) (n : Fin 4) (hk : Far s₀ s) :
    Far s₀ (State.oShow s n) := by
  unfold State.oShow
  with_reducible repeat' first | assumption | (intro _) | apply modOry_far

theorem oShowPart_far {s₀ : State} (s : State) (n : Fin 4) (f : OryView → OryView) (hk : Far s₀ s) :
    Far s₀ (State.oShowPart s n f) := by
  unfold State.oShowPart
  with_reducible repeat' first | assumption | (intro _) | apply modOry_far

theorem oDeliver_far {s₀ : State} (s : State) (n : Fin 4) (hk : Far s₀ s) :
    Far s₀ (State.oDeliver s n) := by
  unfold State.oDeliver
  with_reducible repeat' first | assumption | (intro _) | apply modOry_far | apply wake_far | apply oWakes_far | apply far_ite | apply far_foldl

theorem oSync_far {s₀ : State} (s : State) (n : Fin 4) (new : Sync) (cause t fl : Nat) (hk : Far s₀ s) :
    Far s₀ (State.oSync s n new cause t fl) := by
  unfold State.oSync
  with_reducible repeat' first | assumption | (intro _) | apply modOry_far | apply evt_far | apply emitFl_far | apply far_ite

theorem oFault_far {s₀ : State} (s : State) (n : Fin 4) (kind t fl : Nat) (info : Word) (hk : Far s₀ s) :
    Far s₀ (State.oFault s n kind t fl info) := by
  unfold State.oFault
  with_reducible repeat' first | assumption | (intro _) | apply modOry_far | apply emitFl_far | apply far_ite | dsimp only | split

theorem oResync_far {s₀ : State} (s : State) (n : Fin 4) (cause t fl : Nat) (shift steps : Int) (before after : Nat) (hk : Far s₀ s) :
    Far s₀ (State.oResync s n cause t fl shift steps before after) := by
  unfold State.oResync
  with_reducible repeat' first | assumption | (intro _) | apply rsat_far | apply evt_far | apply modOry_far | apply emitFl_far

theorem oMotion_far {s₀ : State} (s : State) (n : Fin 4) (x : OryStamp) (rev woke : Bool) (v : Int) (hk : Far s₀ s) :
    Far s₀ (State.oMotion s n x rev woke v) := by
  unfold State.oMotion
  with_reducible repeat' first | assumption | (intro _) | apply evt_far | apply emitFl_far | apply far_ite

theorem oRecEdge_far {s₀ : State} (s : State) (n : Fin 4) (x : OryStamp) (info : Nat) (rs : Bool) (hk : Far s₀ s) :
    Far s₀ (State.oRecEdge s n x info rs) := by
  unfold State.oRecEdge
  with_reducible repeat' first | assumption | (intro _) | apply emitFl_far | apply far_ite

theorem oEdge_far {s₀ : State} (s : State) (n : Fin 4) (x : OryStamp) (back : Bool) (k : Int) (span den info : Nat) (rs : Bool) (hk : Far s₀ s) :
    Far s₀ (State.oEdge s n x back k span den info rs) := by
  unfold State.oEdge
  with_reducible repeat' first | assumption | (intro _) | apply modOry_far | apply oMotion_far | apply oRecEdge_far | apply oBroadcast_far

theorem oMove_far {s₀ : State} (s : State) (n : Fin 4) (k : Nat) (back : Bool) (hk : Far s₀ s) :
    Far s₀ (State.oMove s n k back) := by
  unfold State.oMove
  with_reducible repeat' first | assumption | (intro _) | apply modOry_far

theorem oStamped_far {s₀ : State} (s : State) (n : Fin 4) (i : Fin 3) (x : OryStamp) (hk : Far s₀ s) :
    Far s₀ (State.oStamped s n i x) := by
  unfold State.oStamped
  with_reducible repeat' first | assumption | (intro _) | apply modOry_far

theorem oAccepted_far {s₀ : State} (s : State) (n : Fin 4) (x : OryStamp) (hk : Far s₀ s) :
    Far s₀ (State.oAccepted s n x) := by
  unfold State.oAccepted
  with_reducible repeat' first | assumption | (intro _) | apply modOry_far

theorem oTakeLvl_far {s₀ : State} (s : State) (n : Fin 4) (cur lvl : BitVec 3) (mk : Fin 3 → OryStamp) (hk : Far s₀ s) :
    Far s₀ (State.oTakeLvl s n cur lvl mk).1 := by
  unfold State.oTakeLvl
  refine far_foldl_fst _ _ (fun r x hr => ?_) _ hk
  split
  · exact oStamped_far _ _ _ _ hr
  · exact hr

theorem oEarlyCnt_far {s₀ : State} (s : State) (n : Fin 4) (hk : Far s₀ s) :
    Far s₀ (State.oEarlyCnt s n) := by
  unfold State.oEarlyCnt
  with_reducible repeat' first | assumption | (intro _) | apply rsat_far | apply evt_far

theorem oEarly_far {s₀ : State} (s : State) (n : Fin 4) (x : OryStamp) (info : Word) (hk : Far s₀ s) :
    Far s₀ (State.oEarly s n x info) := by
  unfold State.oEarly
  with_reducible repeat' first | assumption | (intro _) | apply oEarlyCnt_far | apply oFault_far

theorem oAccept_far {s₀ : State} (s : State) (n : Fin 4) (t P k : Nat) (hk : Far s₀ s) :
    Far s₀ (State.oAccept s n t P k) := by
  unfold State.oAccept
  with_reducible repeat' first | assumption | (intro _) | apply modOry_far

theorem oTimed_far {s₀ : State} (s : State) (n : Fin 4) (x : OryStamp) (P k : Nat) (back : Bool) (hk : Far s₀ s) :
    Far s₀ (State.oTimed s n x P k back) := by
  unfold State.oTimed
  with_reducible repeat' first | assumption | (intro _) | apply modOry_far | apply oAccept_far | apply far_ite

theorem oAcquired_far {s₀ : State} (s : State) (n : Fin 4) (x : OryStamp) (back : Bool) (pos k : Nat) (hk : Far s₀ s) :
    Far s₀ (State.oAcquired s n x back pos k) := by
  unfold State.oAcquired
  with_reducible repeat' first | assumption | (intro _) | apply modOry_far | apply oEdge_far | apply oSync_far | apply oAmend_far

theorem oMoving_far {s₀ : State} (s : State) (n : Fin 4) (x : OryStamp) (back : Bool) (hk : Far s₀ s) :
    Far s₀ (State.oMoving s n x back) := by
  unfold State.oMoving
  with_reducible repeat' first | assumption | (intro _) | apply modOry_far | apply oMotion_far

theorem oSeek_far {s₀ : State} (s : State) (n : Fin 4) (x : OryStamp) (back rev : Bool) (hk : Far s₀ s) :
    Far s₀ (State.oSeek s n x back rev) := by
  unfold State.oSeek
  with_reducible repeat' first | assumption | (intro _) | apply modOry_far | apply oPush_far | apply oAccept_far | apply oAcquired_far | apply far_ite | dsimp only | split

theorem oToothAcq_far {s₀ : State} (s : State) (n : Fin 4) (x : OryStamp) (back : Bool) (hk : Far s₀ s) :
    Far s₀ (State.oToothAcq s n x back) := by
  unfold State.oToothAcq
  with_reducible repeat' first | assumption | (intro _) | apply oMoving_far | apply oSeek_far

theorem oAdvance_far {s₀ : State} (s : State) (n : Fin 4) (x : OryStamp) (P k : Nat) (back : Bool) (hk : Far s₀ s) :
    Far s₀ (State.oAdvance s n x P k back) := by
  unfold State.oAdvance
  with_reducible repeat' first | assumption | (intro _) | apply oTimed_far | apply oMove_far | apply oEdge_far

theorem oMissing_far {s₀ : State} (s : State) (n : Fin 4) (lost kind : Nat) (x : OryStamp) (back : Bool) (info : Word) (hk : Far s₀ s) :
    Far s₀ (State.oMissing s n lost kind x back info) := by
  unfold State.oMissing
  with_reducible repeat' first | assumption | (intro _) | apply rsat_far | apply evt_far | apply oFault_far

theorem oGapEarly_far {s₀ : State} (s : State) (n : Fin 4) (x : OryStamp) (P k : Nat) (back : Bool) (hk : Far s₀ s) :
    Far s₀ (State.oGapEarly s n x P k back) := by
  unfold State.oGapEarly
  with_reducible repeat' first | assumption | (intro _) | apply oTimed_far | apply oMove_far | apply modOry_far | apply oResync_far | apply oEdge_far

theorem oTooth_far {s₀ : State} (s : State) (n : Fin 4) (x : OryStamp) (back : Bool) (hk : Far s₀ s) :
    Far s₀ (State.oTooth s n x back) := by
  unfold State.oTooth
  with_reducible repeat' first | assumption | (intro _) | apply oToothAcq_far | apply oEarly_far | apply rsat_far | apply evt_far | apply oFault_far | apply oMoving_far | apply oSync_far | apply modOry_far | apply oPush_far | apply oAdvance_far | apply oMissing_far | apply oGapEarly_far | apply far_ite | dsimp only | split

theorem underOld_far {s₀ : State} (s : State) (rs ws : List (Nat × Word)) (f : State → State) (hf : ∀ s₁ a, Far s₁ a → Far s₁ (f a)) (hk : Far s₀ s) :
    Far s₀ (State.underOld s rs ws f) := by
  have put : ∀ {s₁ : State} (a : State) (l : List (Nat × Word)), Far s₁ a →
      Far s₁ (l.foldl (fun (a : State) e => if 0x10000 ≤ e.1 ∧ e.1 < 0x14000 then a.setReg e.1 e.2 else a) a) := fun a l h =>
    far_foldl _ l (fun a e ha => far_ite (setReg_far a _ _ ha) ha) h
  refine far_trans hk (far_trans (put s rs (far_refl s)) ?_)
  unfold State.underOld
  have hu : s.calU = (rs.foldl (fun (a : State) e => if 0x10000 ≤ e.1 ∧ e.1 < 0x14000 then a.setReg e.1 e.2 else a) s).calU :=
    (put s rs (far_refl s)).2.2.2.2.2.2.1.symm
  dsimp only
  rw [hu]
  exact far_calU (put _ _ (hf _ _ (far_refl _)))

theorem oKeepOld_far {s₀ : State} (s : State) (n : Fin 4) (rs ws : List (Nat × Word)) (hk : Far s₀ s) :
    Far s₀ (State.oKeepOld s n rs ws) := by
  unfold State.oKeepOld
  with_reducible repeat' first | assumption | (intro _) | apply modOry_far | apply far_ite

theorem oPwDecide_far {s₀ : State} (s : State) (n : Fin 4) (back : Bool) (due : Nat) (hk : Far s₀ s) :
    Far s₀ (State.oPwDecide s n back due) := by
  unfold State.oPwDecide
  with_reducible repeat' first | assumption | (intro _) | apply modOry_far | apply underOld_far | apply oTooth_far | dsimp only | split

theorem oPwEnd_far {s₀ : State} (s : State) (n : Fin 4) (x : OryStamp) (hk : Far s₀ s) :
    Far s₀ (State.oPwEnd s n x) := by
  unfold State.oPwEnd
  with_reducible repeat' first | assumption | (intro _) | apply oPwDecide_far | dsimp only | split

theorem oWheelEdge_far {s₀ : State} (s : State) (n : Fin 4) (x0 : OryStamp) (hk : Far s₀ s) :
    Far s₀ (State.oWheelEdge s n x0) := by
  unfold State.oWheelEdge
  with_reducible repeat' first | assumption | (intro _) | apply oStamped_far | apply oPwEnd_far | apply oEarly_far | apply oAccepted_far | apply modOry_far | apply oTooth_far | apply far_ite | dsimp only | split

theorem oWheelEnd_far {s₀ : State} (s : State) (n : Fin 4) (x : OryStamp) (hk : Far s₀ s) :
    Far s₀ (State.oWheelEnd s n x) := by
  unfold State.oWheelEnd
  with_reducible repeat' first | assumption | (intro _) | apply oStamped_far | apply oPwEnd_far | apply far_ite

theorem oTurnBy_far {s₀ : State} (s : State) (n : Fin 4) (pos cyc before after : Nat) (hk : Far s₀ s) :
    Far s₀ (State.oTurnBy s n pos cyc before after) := by
  unfold State.oTurnBy
  with_reducible repeat' first | assumption | (intro _) | apply modOry_far

theorem oCamJudge_far {s₀ : State} (s : State) (n : Fin 4) (x : OryStamp) (hk : Far s₀ s) :
    Far s₀ (State.oCamJudge s n x) := by
  unfold State.oCamJudge
  with_reducible repeat' first | assumption | (intro _) | apply rsat_far | apply evt_far | apply oFault_far | apply oTurnBy_far | apply modOry_far | apply oSync_far | apply oBroadcast_far | apply oPush_far | apply oResync_far | apply far_ite | dsimp only | split

theorem oCamEdge_far {s₀ : State} (s : State) (n : Fin 4) (x0 : OryStamp) (hk : Far s₀ s) :
    Far s₀ (State.oCamEdge s n x0) := by
  unfold State.oCamEdge
  with_reducible repeat' first | assumption | (intro _) | apply oStamped_far | apply modOry_far | apply far_ite

theorem oCamSettle_far {s₀ : State} (s : State) (n : Fin 4) (hk : Far s₀ s) :
    Far s₀ (State.oCamSettle s n) := by
  unfold State.oCamSettle
  with_reducible repeat' first | assumption | (intro _) | apply modOry_far | apply oEarly_far | apply oAccepted_far | apply oCamJudge_far | apply far_ite | dsimp only | split

theorem oIllegal_far {s₀ : State} (s : State) (n : Fin 4) (x : OryStamp) (hk : Far s₀ s) :
    Far s₀ (State.oIllegal s n x) := by
  unfold State.oIllegal
  with_reducible repeat' first | assumption | (intro _) | apply modOry_far | apply rsat_far | apply evt_far | apply oFault_far

theorem oHallPlace_far {s₀ : State} (s : State) (n : Fin 4) (x : OryStamp) (k : Nat) (hk : Far s₀ s) :
    Far s₀ (State.oHallPlace s n x k) := by
  unfold State.oHallPlace
  with_reducible repeat' first | assumption | (intro _) | apply modOry_far | apply oIllegal_far | apply oResync_far | apply far_ite

theorem oHall_far {s₀ : State} (s : State) (n : Fin 4) (lvl : BitVec 3) (mk : Fin 3 → OryStamp) (hk : Far s₀ s) :
    Far s₀ (State.oHall s n lvl mk) := by
  unfold State.oHall
  with_reducible repeat' first | assumption | (intro _) | (refine far_pair (by assumption) ?_) | apply oTakeLvl_far | apply modOry_far | apply oEarlyCnt_far | apply oAccepted_far | apply oIllegal_far | apply oPush_far | apply oMove_far | apply oEdge_far | apply oSync_far | apply oAmend_far | apply oHallPlace_far | apply far_ite | dsimp only | split

theorem oIndex_far {s₀ : State} (s : State) (n : Fin 4) (t fl : Nat) (back : Bool) (L pos0 : Nat) (off : Int) (hk : Far s₀ s) :
    Far s₀ ((State.oIndex s n t fl back L pos0 off).1) := by
  unfold State.oIndex
  with_reducible repeat' first | assumption | (intro _) | (refine far_pair (by assumption) ?_) | apply far_ite_fst | apply modOry_far | apply oResync_far | apply oSync_far | apply rput_far | apply rsat_far | apply evt_far | apply oFault_far | apply far_ite | dsimp only | split

theorem oQuadStep_far {s₀ : State} (s : State) (n : Fin 4) (a b : Nat) (z back : Bool) (x : OryStamp) (hk : Far s₀ s) :
    Far s₀ (State.oQuadStep s n a b z back x) := by
  unfold State.oQuadStep
  with_reducible repeat' first | assumption | (intro _) | (refine far_pair (by assumption) ?_) | apply oMove_far | apply oIndex_far | apply oEdge_far | apply far_ite | dsimp only | split

theorem oQuadIllegal_far {s₀ : State} (s : State) (n : Fin 4) (lvl : BitVec 3) (x : OryStamp) (early : Bool) (hk : Far s₀ s) :
    Far s₀ (State.oQuadIllegal s n lvl x early) := by
  unfold State.oQuadIllegal
  with_reducible repeat' first | assumption | (intro _) | apply modOry_far | apply oEarlyCnt_far | apply oIllegal_far | apply oPush_far | apply far_ite

theorem oQuadEarly_far {s₀ : State} (s : State) (n : Fin 4) (lvl : BitVec 3) (x : OryStamp) (hk : Far s₀ s) :
    Far s₀ (State.oQuadEarly s n lvl x) := by
  unfold State.oQuadEarly
  with_reducible repeat' first | assumption | (intro _) | apply modOry_far | apply oEarly_far | apply oPush_far

theorem oQuadSettle_far {s₀ : State} (s : State) (n : Fin 4) (hk : Far s₀ s) :
    Far s₀ (State.oQuadSettle s n) := by
  unfold State.oQuadSettle
  with_reducible repeat' first | assumption | (intro _) | apply oQuadEarly_far | apply modOry_far | apply oQuadStep_far | apply far_ite | dsimp only | split

theorem oQuadDue_far {s₀ : State} (s : State) (n : Fin 4) (hk : Far s₀ s) :
    Far s₀ (State.oQuadDue s n) := by
  unfold State.oQuadDue
  with_reducible repeat' first | assumption | (intro _) | apply oQuadSettle_far | apply far_ite | dsimp only | split

theorem oQuadArrive_far {s₀ : State} (s : State) (n : Fin 4) (lvl : BitVec 3) (x : OryStamp) (hk : Far s₀ s) :
    Far s₀ (State.oQuadArrive s n lvl x) := by
  unfold State.oQuadArrive
  with_reducible repeat' first | assumption | (intro _) | apply oAccepted_far | apply oQuadIllegal_far | apply oQuadEarly_far | apply modOry_far | apply far_ite

theorem oQuadIdx_far {s₀ : State} (s : State) (n : Fin 4) (lvl : BitVec 3) (w : QuadEdge) (x : OryStamp) (hk : Far s₀ s) :
    Far s₀ (State.oQuadIdx s n lvl w x) := by
  unfold State.oQuadIdx
  with_reducible repeat' first | assumption | (intro _) | apply modOry_far | apply oEarly_far | apply oPush_far | apply oAccepted_far | apply far_ite

theorem oQuad_far {s₀ : State} (s : State) (n : Fin 4) (lvl : BitVec 3) (mk : Fin 3 → OryStamp) (hk : Far s₀ s) :
    Far s₀ (State.oQuad s n lvl mk) := by
  unfold State.oQuad
  with_reducible repeat' first | assumption | (intro _) | (refine far_pair (by assumption) ?_) | apply oTakeLvl_far | apply oQuadArrive_far | apply oQuadIdx_far | apply oQuadIllegal_far | apply oQuadSettle_far | apply far_ite | dsimp only | split

theorem oBadPair_far {s₀ : State} (s : State) (n : Fin 4) (x : OryStamp) (ampl : Nat) (hk : Far s₀ s) :
    Far s₀ (State.oBadPair s n x ampl) := by
  unfold State.oBadPair
  with_reducible repeat' first | assumption | (intro _) | apply rsat_far | apply evt_far | apply oFault_far | apply modOry_far | apply oSync_far | apply oPush_far | apply far_ite

theorem oGoodPair_far {s₀ : State} (s : State) (n : Fin 4) (x : OryStamp) (phi : Nat) (hk : Far s₀ s) :
    Far s₀ (State.oGoodPair s n x phi) := by
  unfold State.oGoodPair
  with_reducible repeat' first | assumption | (intro _) | apply modOry_far | apply oEdge_far | apply oSync_far | apply oAmend_far | apply oMove_far | apply rsat_far | apply evt_far | apply oFault_far | apply oRecEdge_far | apply oBroadcast_far | apply far_ite

theorem oSincos_far {s₀ : State} (s : State) (n : Fin 4) (rawS rawC : BitVec 14) (hk : Far s₀ s) :
    Far s₀ (State.oSincos s n rawS rawC) := by
  unfold State.oSincos
  with_reducible repeat' first | assumption | (intro _) | apply evt_far | apply modOry_far | apply oGoodPair_far | apply oBadPair_far | apply sbufPut_far | apply far_ite | dsimp only | split

theorem oMarker_far {s₀ : State} (s : State) (n : Fin 4) (x0 : OryStamp) (hk : Far s₀ s) :
    Far s₀ (State.oMarker s n x0) := by
  unfold State.oMarker
  with_reducible repeat' first | assumption | (intro _) | (refine far_pair (by assumption) ?_) | apply oStamped_far | apply oEarly_far | apply oAccepted_far | apply oIndex_far | apply modOry_far | apply oBroadcast_far | apply far_ite

theorem oInputOf_far {s₀ : State} (s : State) (n : Fin 4) (c : Fin 96) (level : Bool) (mk : Fin 3 → OryStamp) (hk : Far s₀ s) :
    Far s₀ (State.oInputOf s n c level mk) := by
  unfold State.oInputOf
  with_reducible repeat' first | assumption | (intro _) | apply oStamped_far | apply oWheelEdge_far | apply oWheelEnd_far | apply oCamEdge_far | apply oMarker_far | apply oHall_far | apply oQuad_far | apply far_ite | dsimp only | split

theorem oInputEdge_far {s₀ : State} (s : State) (c : Fin 96) (level : Bool) (t : Nat) (step : Bool) (at' : Nat) (hk : Far s₀ s) :
    Far s₀ (State.oInputEdge s c level t step at') := by
  unfold State.oInputEdge
  with_reducible repeat' first | assumption | (intro _) | apply oInputOf_far | apply far_ite | apply far_foldl

theorem oStill_far {s₀ : State} (s : State) (n : Fin 4) (hk : Far s₀ s) :
    Far s₀ (State.oStill s n) := by
  unfold State.oStill
  with_reducible repeat' first | assumption | (intro _) | apply modOry_far | apply evt_far | apply emitFl_far | apply oSync_far | apply oShow_far | apply oShowPart_far | apply far_ite | dsimp only | split

theorem oCamLost_far {s₀ : State} (s : State) (n : Fin 4) (hk : Far s₀ s) :
    Far s₀ (State.oCamLost s n) := by
  unfold State.oCamLost
  with_reducible repeat' first | assumption | (intro _) | apply modOry_far | apply oShowPart_far | apply evt_far | apply oFault_far | apply far_ite

theorem oPwDue_far {s₀ : State} (s : State) (n : Fin 4) (hk : Far s₀ s) :
    Far s₀ (State.oPwDue s n) := by
  unfold State.oPwDue
  with_reducible repeat' first | assumption | (intro _) | apply oPwDecide_far | apply far_ite | dsimp only | split

theorem oRestart_far {s₀ : State} (s : State) (n : Fin 4) (cause : Nat) (hk : Far s₀ s) :
    Far s₀ (State.oRestart s n cause) := by
  unfold State.oRestart
  with_reducible repeat' first | assumption | (intro _) | apply modOry_far | apply oSync_far | apply oShow_far | dsimp only | split

theorem oOff_far {s₀ : State} (s : State) (n : Fin 4) (hk : Far s₀ s) :
    Far s₀ (State.oOff s n) := by
  unfold State.oOff
  with_reducible repeat' first | assumption | (intro _) | apply modOry_far | apply oSync_far | apply oShow_far

theorem oCmdDone_far {s₀ : State} (s : State) (n : Fin 4) (ok : Bool) (hk : Far s₀ s) :
    Far s₀ (State.oCmdDone s n ok) := by
  unfold State.oCmdDone
  with_reducible repeat' first | assumption | (intro _) | apply rput_far | apply evt_far | apply far_ite

theorem oSetpos_far {s₀ : State} (s : State) (n : Fin 4) (hk : Far s₀ s) :
    Far s₀ (State.oSetpos s n) := by
  unfold State.oSetpos
  with_reducible repeat' first | assumption | (intro _) | apply oCmdDone_far | apply modOry_far | apply oResync_far | apply oSync_far | apply oBroadcast_far | apply far_ite | dsimp only | split

theorem oReacq_far {s₀ : State} (s : State) (n : Fin 4) (hk : Far s₀ s) :
    Far s₀ (State.oReacq s n) := by
  unfold State.oReacq
  with_reducible repeat' first | assumption | (intro _) | apply oRestart_far | apply oCmdDone_far | apply far_ite

theorem oClrCnt_far {s₀ : State} (s : State) (n : Fin 4) (hk : Far s₀ s) :
    Far s₀ (State.oClrCnt s n) := by
  unfold State.oClrCnt
  with_reducible repeat' first | assumption | (intro _) | apply setReg_far | apply oCmdDone_far

theorem oCommand_far {s₀ : State} (s : State) (n : Fin 4) (op : Nat) (hk : Far s₀ s) :
    Far s₀ (State.oCommand s n op) := by
  unfold State.oCommand
  with_reducible repeat' first | assumption | (intro _) | apply oCmdDone_far | apply oReacq_far | apply oSetpos_far | apply oClrCnt_far | dsimp only | split

theorem oCmdPost_far {s₀ : State} (s : State) (n : Fin 4) (op : Nat) (hk : Far s₀ s) :
    Far s₀ (State.oCmdPost s n op) := by
  unfold State.oCmdPost
  with_reducible repeat' first | assumption | (intro _) | apply modOry_far

theorem oCmdRun_far {s₀ : State} (s : State) (n : Fin 4) (hk : Far s₀ s) :
    Far s₀ (State.oCmdRun s n) := by
  unfold State.oCmdRun
  with_reducible repeat' first | assumption | (intro _) | apply oCommand_far | apply oQuadSettle_far | apply modOry_far | apply far_ite | apply far_foldl

theorem oTickEnd_far {s₀ : State} (s : State) (n : Fin 4) (hk : Far s₀ s) :
    Far s₀ (State.oTickEnd s n) := by
  unfold State.oTickEnd
  with_reducible repeat' first | assumption | (intro _) | apply oCamSettle_far | apply oCmdRun_far

theorem oTickStart_far {s₀ : State} (s : State) (n : Fin 4) (hk : Far s₀ s) :
    Far s₀ (State.oTickStart s n) := by
  unfold State.oTickStart
  with_reducible repeat' first | assumption | (intro _) | apply oQuadDue_far | apply oDeliver_far

theorem convPush_far {s₀ : State} (s : State) (k : Fin 2) (q : Conv) (hk : Far s₀ s) :
    Far s₀ (State.convPush s k q) := by
  unfold State.convPush
  with_reducible repeat' first | assumption | (intro _) | apply modConv_far

theorem convRefuse_far {s₀ : State} (s : State) (k : Fin 2) (thread : Option (Fin 8 × Fin 16)) (hk : Far s₀ s) :
    Far s₀ (State.convRefuse s k thread) := by
  unfold State.convRefuse
  with_reducible repeat' first | assumption | (intro _) | apply modThr_far | apply rsat_far | apply evt_far | dsimp only | split

theorem convDrop_far {s₀ : State} (s : State) (k : Fin 2) (hk : Far s₀ s) :
    Far s₀ (State.convDrop s k) := by
  unfold State.convDrop
  with_reducible repeat' first | assumption | (intro _) | apply modConv_far | apply convRefuse_far | apply far_ite | dsimp only | split

theorem convClear_far {s₀ : State} (s : State) (k : Fin 2) (m j : Nat) (h : Far s₀ s) : Far s₀ (State.convClear s k m j) := by
  induction j generalizing s with
  | zero => exact h
  | succ k ih =>
    unfold State.convClear
    with_reducible repeat' first | assumption | (intro _) | apply ih | apply convDrop_far | apply far_ite

theorem convSlot_far {s₀ : State} (s : State) (k : Fin 2) (j due : Nat) (c : Nat) (hk : Far s₀ s) :
    Far s₀ (State.convSlot s k j due c) := by
  unfold State.convSlot
  with_reducible repeat' first | assumption | (intro _) | apply convPush_far | apply convClear_far | apply convRefuse_far | apply far_ite | apply far_foldl

theorem convEvent_far {s₀ : State} (s : State) (c : Fin 96) (ev due : Nat) (hk : Far s₀ s) :
    Far s₀ (State.convEvent s c ev due) := by
  unfold State.convEvent
  with_reducible repeat' first | assumption | (intro _) | apply convSlot_far | apply far_ite | apply far_foldl

theorem convTick_far {s₀ : State} (s : State) (k : Fin 2) (hk : Far s₀ s) :
    Far s₀ (State.convTick s k) := by
  unfold State.convTick
  with_reducible repeat' first | assumption | (intro _) | apply modConv_far | apply far_ite | dsimp only | split

theorem convHold_far {s₀ : State} (s : State) (k : Fin 2) (hk : Far s₀ s) :
    Far s₀ (State.convHold s k) := by
  unfold State.convHold
  with_reducible repeat' first | assumption | (intro _) | apply modConv_far | apply rsat_far | apply far_ite | dsimp only | split

theorem convResult_far {s₀ : State} (s : State) (k : Fin 2) (raw : BitVec 12) (hk : Far s₀ s) :
    Far s₀ (State.convResult s k raw) := by
  unfold State.convResult
  with_reducible repeat' first | assumption | (intro _) | apply modConv_far | apply setReg_far | apply sbufPut_far | apply emitFl_far | apply far_ite | apply far_dite | dsimp only | split

theorem countNow_far {s₀ : State} (s : State) (c : Fin 96) (src : Nat) (hk : Far s₀ s) :
    Far s₀ (State.countNow s c src) := by
  unfold State.countNow
  with_reducible repeat' first | assumption | (intro _) | apply modCh_far | apply evt_far | apply far_ite

theorem count_far {s₀ : State} (s : State) (c : Fin 96) (src : Nat) (hk : Far s₀ s) :
    Far s₀ (State.count s c src) := by
  unfold State.count
  with_reducible repeat' first | assumption | (intro _) | apply modCh_far | apply countNow_far

theorem newImage_far {s₀ : State} (s : State) (c : Fin 96) (cause : BitVec 4) (t : Nat) (hk : Far s₀ s) :
    Far s₀ (State.newImage s c cause t) := by
  unfold State.newImage
  with_reducible repeat' first | assumption | (intro _) | apply modCh_far

theorem latch_far {s₀ : State} (s : State) (c0 : Fin 96) (cause : BitVec 4) (t : Nat) (hk : Far s₀ s) :
    Far s₀ (State.latch s c0 cause t) := by
  unfold State.latch
  with_reducible repeat' first | assumption | (intro _) | apply modCh_far | apply newImage_far | apply far_ite | dsimp only | split

theorem flushImage_far {s₀ : State} (s : State) (c : Fin 96) (hk : Far s₀ s) :
    Far s₀ (State.flushImage s c) := by
  unfold State.flushImage
  with_reducible repeat' first | assumption | (intro _) | apply modCh_far | apply chEmitFl_far | apply far_ite | dsimp only | split

theorem capRecord_far {s₀ : State} (s : State) (c : Fin 96) (k : Bool) (hk : Far s₀ s) :
    Far s₀ (State.capRecord s c k) := by
  unfold State.capRecord
  with_reducible repeat' first | assumption | (intro _) | apply modCh_far | apply emitFl_far | apply far_ite | dsimp only | split

theorem capStep_far {s₀ : State} (s : State) (c : Fin 96) (k : Bool) (hk : Far s₀ s) :
    Far s₀ (State.capStep s c k) := by
  unfold State.capStep
  with_reducible repeat' first | assumption | (intro _) | apply capRecord_far | apply modCh_far | apply far_ite | dsimp only | split

theorem capPump_far {s₀ : State} (s : State) (c : Fin 96) (hk : Far s₀ s) :
    Far s₀ (State.capPump s c) := by
  unfold State.capPump
  with_reducible repeat' first | assumption | (intro _) | apply capStep_far | apply far_foldl

theorem capEnter_far {s₀ : State} (s : State) (c : Fin 96) (k : Bool) (p : Cap) (x : CapT) (hk : Far s₀ s) :
    Far s₀ (State.capEnter s c k p x) := by
  unfold State.capEnter
  with_reducible repeat' first | assumption | (intro _) | apply modCh_far | apply rsat_far | apply evt_far | apply far_ite

theorem capEdge_far {s₀ : State} (s : State) (c : Fin 96) (k rise : Bool) (t : Nat) (step : Bool) (at' : Nat) (hk : Far s₀ s) :
    Far s₀ (State.capEdge s c k rise t step at') := by
  unfold State.capEdge
  with_reducible repeat' first | assumption | (intro _) | apply rsat_far | apply capEnter_far | apply capPump_far | apply count_far | apply latch_far | apply convEvent_far | apply wakeCh_far | apply far_ite

theorem capRead_far {s₀ : State} (s : State) (c : Fin 96) (k g : Bool) (h : Far s₀ s) : Far s₀ (s.capRead c k g).2.2 := by
  unfold State.capRead
  dsimp only
  split
  · exact modCh_far _ _ _ h
  · split
    · exact h
    · dsimp only
      split
      · exact capPump_far _ _ (modCh_far _ _ _ h)
      · exact h

theorem ownPush_far {s₀ : State} (s : State) (c : Fin 96) (l : Bool) (t : Int) (hk : Far s₀ s) :
    Far s₀ (State.ownPush s c l t) := by
  unfold State.ownPush
  with_reducible repeat' first | assumption | (intro _) | apply modCh_far

theorem pinEcho_far {s₀ : State} (s old : State) (c : Fin 96) (t : Int) (hk : Far s₀ s) :
    Far s₀ (State.pinEcho s old c t) := by
  unfold State.pinEcho
  with_reducible repeat' first | assumption | (intro _) | apply ownPush_far | apply far_ite | dsimp only | split

theorem modCmp_far {s₀ : State} (s : State) (c : Fin 96) (u : Bool) (f : Cmp → Cmp) (hk : Far s₀ s) :
    Far s₀ (State.modCmp s c u f) := by
  unfold State.modCmp
  with_reducible repeat' first | assumption | (intro _) | apply modCh_far

theorem pinMoved_far {s₀ : State} (s : State) (c : Fin 96) (tp : Int) (hk : Far s₀ s) :
    Far s₀ (State.pinMoved s c tp) := by
  unfold State.pinMoved
  with_reducible repeat' first | assumption | (intro _) | apply modCh_far

theorem fireCore_far {s₀ : State} (s : State) (c : Fin 96) (u : Bool) (tb : Int) (d : Nat) (step quiet : Bool) (hk : Far s₀ s) :
    Far s₀ (State.fireCore s c u tb d step quiet) := by
  unfold State.fireCore
  with_reducible repeat' first | assumption | (intro _) | apply pinMoved_far | apply modCh_far | apply pinEcho_far | apply rwrap_far | apply rput_far | apply setReg_far | apply evt_far | apply rsat_far | apply chEmit_far | apply count_far | apply convEvent_far | apply wakeCh_far | apply far_ite

theorem fireTimely_far {s₀ : State} (s : State) (c : Fin 96) (u : Bool) (hk : Far s₀ s) :
    Far s₀ (State.fireTimely s c u) := by
  unfold State.fireTimely
  with_reducible repeat' first | assumption | (intro _) | apply fireCore_far

theorem fireLate_far {s₀ : State} (s : State) (c : Fin 96) (u : Bool) (step quiet : Bool) (hk : Far s₀ s) :
    Far s₀ (State.fireLate s c u step quiet) := by
  unfold State.fireLate
  with_reducible repeat' first | assumption | (intro _) | apply fireCore_far

theorem loadCmp_far {s₀ : State} (s : State) (c : Fin 96) (u : Bool) (target act : Nat) (recEn : Bool) (tag : Nat) (fifo wake : Bool) (eph : Option Nat) (hk : Far s₀ s) :
    Far s₀ (State.loadCmp s c u target act recEn tag fifo wake eph) := by
  unfold State.loadCmp
  with_reducible repeat' first | assumption | (intro _) | apply modCmp_far

theorem disarmCmp_far {s₀ : State} (s : State) (c : Fin 96) (u : Bool) (hk : Far s₀ s) :
    Far s₀ (State.disarmCmp s c u) := by
  unfold State.disarmCmp
  with_reducible repeat' first | assumption | (intro _) | apply modCmp_far

theorem modFifo_far {s₀ : State} (s : State) (c : Fin 96) (g : Fifo → Fifo) (hk : Far s₀ s) :
    Far s₀ (State.modFifo s c g) := by
  unfold State.modFifo
  with_reducible repeat' first | assumption | (intro _) | apply modCh_far

theorem fifoSet_far {s₀ : State} (s : State) (c : Fin 96) (x : FifoState) (hk : Far s₀ s) :
    Far s₀ (State.fifoSet s c x) := by
  unfold State.fifoSet
  with_reducible repeat' first | assumption | (intro _) | apply modFifo_far | apply evt_far | apply chEmit_far | apply wakeCh_far | apply far_ite

theorem fifoErr_far {s₀ : State} (s : State) (c : Fin 96) (code : Nat) (hk : Far s₀ s) :
    Far s₀ (State.fifoErr s c code) := by
  unfold State.fifoErr
  with_reducible repeat' first | assumption | (intro _) | apply rput_far | apply evt_far

theorem fifoHalt_far {s₀ : State} (s : State) (c : Fin 96) (code : Nat) (hk : Far s₀ s) :
    Far s₀ (State.fifoHalt s c code) := by
  unfold State.fifoHalt
  with_reducible repeat' first | assumption | (intro _) | apply fifoErr_far | apply fifoSet_far

theorem fifoTrim_far {s₀ : State} (s : State) (c : Fin 96) (hk : Far s₀ s) :
    Far s₀ (State.fifoTrim s c) := by
  unfold State.fifoTrim
  with_reducible repeat' first | assumption | (intro _) | apply modFifo_far | apply evt_far | apply wakeCh_far | apply wakeSpace_far | apply far_ite

theorem fifoFired_far {s₀ : State} (s : State) (c : Fin 96) (u : Nat) (late : Bool) (pin : Int) (hk : Far s₀ s) :
    Far s₀ (State.fifoFired s c u late pin) := by
  unfold State.fifoFired
  with_reducible repeat' first | assumption | (intro _) | apply modFifo_far | apply fifoTrim_far | apply wake_far | apply wakeCh_far | apply far_ite | dsimp only | split

theorem fifoDoSkip_far {s₀ : State} (s : State) (c : Fin 96) (p : FifoPos) (d : Int) (hk : Far s₀ s) :
    Far s₀ (State.fifoDoSkip s c p d) := by
  unfold State.fifoDoSkip
  with_reducible repeat' first | assumption | (intro _) | apply modFifo_far | apply fifoTrim_far | apply chEmit_far | apply modCmp_far | apply fireLate_far | apply far_ite

theorem fifoFill_far {s₀ : State} (k : Nat) (s : State) (c : Fin 96) (under : Bool) (ds : List Int) (h : Far s₀ s) : Far s₀ (State.fifoFill k s c under ds) := by
  induction k generalizing s c under ds with
  | zero => exact h
  | succ k ih =>
    unfold State.fifoFill
    with_reducible repeat' first | assumption | (intro _) | apply ih | apply fifoSet_far | apply evt_far | apply fifoHalt_far | apply fifoDoSkip_far | apply wake_far | apply modCmp_far | apply modFifo_far | apply fireLate_far | apply fifoFired_far | apply far_ite | dsimp only | split

theorem ephStore_far {s₀ : State} (s : State) (e : Fin 8) (x : EphEnt) (hk : Far s₀ s) :
    Far s₀ (State.ephStore s e x) := by
  unfold State.ephStore
  with_reducible repeat' first | assumption | (intro _) | apply sramWr_far

theorem ephMod_far {s₀ : State} (s : State) (e : Fin 8) (slot : Nat) (f : EphEnt → EphEnt) (hk : Far s₀ s) :
    Far s₀ (State.ephMod s e slot f) := by
  unfold State.ephMod
  with_reducible repeat' first | assumption | (intro _) | apply modGaf_far | apply ephStore_far | apply far_ite | dsimp only | split

theorem ephDrop_far {s₀ : State} (s : State) (e : Fin 8) (slot : Nat) (hk : Far s₀ s) :
    Far s₀ (State.ephDrop s e slot) := by
  unfold State.ephDrop
  with_reducible repeat' first | assumption | (intro _) | (simp only [far_mk]; apply far_q) | apply modGaf_far | apply wakeSpace_far | apply far_ite

theorem latObserve_far {s₀ : State} (s : State) (e : Fin 8) (woke : Option Nat) (hk : Far s₀ s) :
    Far s₀ (State.latObserve s e woke) := by
  unfold State.latObserve
  with_reducible repeat' first | assumption | (intro _) | apply rput_far | apply modGaf_far | dsimp only | split

theorem ephFired_far {s₀ : State} (s : State) (c : Fin 96) (slot : Option Nat) (late : Bool) (hk : Far s₀ s) :
    Far s₀ (State.ephFired s c slot late) := by
  unfold State.ephFired
  with_reducible repeat' first | assumption | (intro _) | apply ephDrop_far | apply rwrap_far | apply far_ite | dsimp only | split

theorem fireA_far {s₀ : State} (s : State) (c : Fin 96) (hk : Far s₀ s) :
    Far s₀ (State.fireA s c) := by
  unfold State.fireA
  with_reducible repeat' first | assumption | (intro _) | apply fireTimely_far | apply fifoFill_far | apply fifoFired_far | apply ephFired_far | apply far_ite

theorem ephCommit_far {s₀ : State} (k : Nat) (s : State) (c : Fin 96) (u : Bool) (h : Far s₀ s) : Far s₀ (State.ephCommit k s c u) := by
  induction k generalizing s c u with
  | zero => exact h
  | succ k ih =>
    unfold State.ephCommit
    with_reducible repeat' first | assumption | (intro _) | apply ih | apply fireA_far | apply fireTimely_far | apply ephFired_far | apply ephMod_far | apply latObserve_far | apply loadCmp_far | apply fireLate_far | apply far_ite | dsimp only | split

theorem afterFire_far {s₀ : State} (s : State) (c : Fin 96) (u : Bool) (y : Cmp) (late : Bool) (hk : Far s₀ s) :
    Far s₀ (State.afterFire s c u y late) := by
  unfold State.afterFire
  with_reducible repeat' first | assumption | (intro _) | apply fifoFired_far | apply ephFired_far | apply fifoFill_far | apply ephCommit_far | apply far_ite

theorem cmpReachOne_far {s₀ : State} (s : State) (c : Fin 96) (u : Bool) (hk : Far s₀ s) :
    Far s₀ (State.cmpReachOne s c u) := by
  unfold State.cmpReachOne
  with_reducible repeat' first | assumption | (intro _) | apply modCmp_far | apply fireTimely_far | apply afterFire_far | apply far_ite

theorem cmpReach_far {s₀ : State} (s : State) (c : Fin 96) (u : Bool) (hk : Far s₀ s) :
    Far s₀ (State.cmpReach s c u) := by
  unfold State.cmpReach
  with_reducible repeat' first | assumption | (intro _) | apply cmpReachOne_far | apply far_ite

theorem cmpLate_far {s₀ : State} (s : State) (c : Fin 96) (u : Bool) (step : Bool) (hk : Far s₀ s) :
    Far s₀ (State.cmpLate s c u step) := by
  unfold State.cmpLate
  with_reducible repeat' first | assumption | (intro _) | apply cmpReachOne_far | apply fireLate_far | apply afterFire_far | apply far_ite

theorem cmpArm_far {s₀ : State} (s : State) (c : Fin 96) (u : Bool) (target act : Nat) (recEn : Bool) (tag : Nat) (hk : Far s₀ s) :
    Far s₀ (State.cmpArm s c u target act recEn tag) := by
  unfold State.cmpArm
  with_reducible repeat' first | assumption | (intro _) | apply cmpReach_far | apply loadCmp_far | apply cmpLate_far | apply far_ite

theorem cmpDisarm_far {s₀ : State} (s : State) (c : Fin 96) (u : Bool) (hk : Far s₀ s) :
    Far s₀ (State.cmpDisarm s c u) := by
  unfold State.cmpDisarm
  with_reducible repeat' first | assumption | (intro _) | apply cmpReach_far | apply disarmCmp_far | apply far_ite

theorem cmpRejudge_far {s₀ : State} (s : State) (c : Fin 96) (u step : Bool) (hk : Far s₀ s) :
    Far s₀ (State.cmpRejudge s c u step) := by
  unfold State.cmpRejudge
  with_reducible repeat' first | assumption | (intro _) | apply modCmp_far | apply cmpLate_far | apply far_ite

theorem fifoStep_far {s₀ : State} (s : State) (c : Fin 96) (hk : Far s₀ s) :
    Far s₀ (State.fifoStep s c) := by
  unfold State.fifoStep
  with_reducible repeat' first | assumption | (intro _) | apply cmpRejudge_far | apply disarmCmp_far | apply modFifo_far | apply fifoFill_far | apply far_ite | apply far_foldl | dsimp only | split

theorem stepChannel_far {s₀ : State} (s : State) (c : Fin 96) (hk : Far s₀ s) :
    Far s₀ (State.stepChannel s c) := by
  unfold State.stepChannel
  with_reducible repeat' first | assumption | (intro _) | apply cmpRejudge_far | apply fifoStep_far | apply far_ite

theorem stepRejudge_far {s₀ : State} (s : State) (hk : Far s₀ s) :
    Far s₀ (State.stepRejudge s) := by
  unfold State.stepRejudge
  with_reducible repeat' first | assumption | (intro _) | apply stepChannel_far | apply far_foldl

theorem cmpRetime_far {s₀ : State} (s : State) (c : Fin 96) (oldTrc : Int) (hk : Far s₀ s) :
    Far s₀ (State.cmpRetime s c oldTrc) := by
  unfold State.cmpRetime
  with_reducible repeat' first | assumption | (intro _) | apply modCh_far | apply cmpRejudge_far

theorem relFire_far {s₀ : State} (s : State) (c : Fin 96) (dueA dueB : Bool) (hk : Far s₀ s) :
    Far s₀ (State.relFire s c dueA dueB) := by
  unfold State.relFire
  with_reducible repeat' first | assumption | (intro _) | apply fireLate_far | apply far_ite

theorem relPin_far {s₀ : State} (s : State) (c : Fin 96) (ol : Bool) (hk : Far s₀ s) :
    Far s₀ (State.relPin s c ol) := by
  unfold State.relPin
  with_reducible repeat' first | assumption | (intro _) | apply pinMoved_far | apply count_far | apply rsat_far | apply evt_far | apply far_ite

theorem relWait_far {s₀ : State} (s : State) (c : Fin 96) (u : Bool) (y : Cmp) (hk : Far s₀ s) :
    Far s₀ (State.relWait s c u y) := by
  unfold State.relWait
  with_reducible repeat' first | assumption | (intro _) | apply modCmp_far | apply cmpReachOne_far | apply far_ite

theorem holdRelease_far {s₀ : State} (s : State) (c : Fin 96) (hk : Far s₀ s) :
    Far s₀ (State.holdRelease s c) := by
  unfold State.holdRelease
  with_reducible repeat' first | assumption | (intro _) | apply relFire_far | apply relPin_far | apply afterFire_far | apply fifoFill_far | apply relWait_far | apply far_ite

theorem holdMoved_far {s₀ : State} (s old : State) (c : Fin 96) (hk : Far s₀ s) :
    Far s₀ (State.holdMoved s old c) := by
  unfold State.holdMoved
  with_reducible repeat' first | assumption | (intro _) | apply modCh_far | apply pinEcho_far | apply holdRelease_far | apply far_ite

theorem holdChange_far {s₀ : State} (s : State) (c : Fin 96) (f : State → State) (hf : ∀ a, Far s₀ a → Far s₀ (f a)) (hk : Far s₀ s) :
    Far s₀ (State.holdChange s c f) := by
  unfold State.holdChange
  with_reducible repeat' first | assumption | (intro _) | apply hf | apply holdMoved_far

theorem fifoRefuse_far {s₀ : State} (s : State) (c : Fin 96) (code : Nat) (hk : Far s₀ s) :
    Far s₀ (State.fifoRefuse s c code) := by
  unfold State.fifoRefuse
  with_reducible repeat' first | assumption | (intro _) | apply evt_far | apply fifoErr_far | apply far_ite

theorem fifoAppend_far {s₀ : State} (s : State) (c : Fin 96) (e : FifoEnt) (hk : Far s₀ s) :
    Far s₀ (State.fifoAppend s c e) := by
  unfold State.fifoAppend
  with_reducible repeat' first | assumption | (intro _) | apply modFifo_far | apply fifoFill_far | apply fifoSet_far | apply far_ite

theorem fifoPush_far {s₀ : State} (s : State) (c : Fin 96) (e : FifoEnt) (hk : Far s₀ s) :
    Far s₀ (State.fifoPush s c e) := by
  unfold State.fifoPush
  with_reducible repeat' first | assumption | (intro _) | apply fifoRefuse_far | apply fifoAppend_far | dsimp only | split

theorem fifoBegin_far {s₀ : State} (s : State) (c : Fin 96) (hk : Far s₀ s) :
    Far s₀ (State.fifoBegin s c) := by
  unfold State.fifoBegin
  with_reducible repeat' first | assumption | (intro _) | apply modFifo_far | apply fifoFill_far | apply fifoSet_far

theorem fifoStart_far {s₀ : State} (s : State) (c : Fin 96) (waits : Bool) (hk : Far s₀ s) :
    Far s₀ ((State.fifoStart s c waits).1) := by
  unfold State.fifoStart
  with_reducible repeat' first | assumption | (intro _) | (refine far_pair (by assumption) ?_) | apply far_ite_fst | apply fifoErr_far | apply rput_far | apply fifoSet_far | apply fifoBegin_far

theorem fifoUnarm_far {s₀ : State} (s : State) (c : Fin 96) (hk : Far s₀ s) :
    Far s₀ (State.fifoUnarm s c) := by
  unfold State.fifoUnarm
  with_reducible repeat' first | assumption | (intro _) | apply fireTimely_far | apply fifoFired_far | apply disarmCmp_far | apply modFifo_far | apply far_ite

theorem stopCmp_far {s₀ : State} (s : State) (c : Fin 96) (u : Bool) (hk : Far s₀ s) :
    Far s₀ (State.stopCmp s c u) := by
  unfold State.stopCmp
  with_reducible repeat' first | assumption | (intro _) | apply fireTimely_far | apply ephFired_far | apply ephMod_far | apply disarmCmp_far | apply far_ite | dsimp only | split

theorem fifoStop_far {s₀ : State} (s : State) (c : Fin 96) (hk : Far s₀ s) :
    Far s₀ (State.fifoStop s c) := by
  unfold State.fifoStop
  with_reducible repeat' first | assumption | (intro _) | apply fifoUnarm_far | apply stopCmp_far | apply fifoSet_far

theorem noteHostStop_far {s₀ : State} (s : State) (c : Fin 96) (hk : Far s₀ s) :
    Far s₀ (State.noteHostStop s c) := by
  unfold State.noteHostStop
  with_reducible repeat' first | assumption | (intro _) | apply modFifo_far

theorem fifoFlush_far {s₀ : State} (s : State) (c : Fin 96) (hk : Far s₀ s) :
    Far s₀ (State.fifoFlush s c) := by
  unfold State.fifoFlush
  with_reducible repeat' first | assumption | (intro _) | apply fifoStop_far | apply modFifo_far | apply rput_far | apply wakeSpace_far | apply far_ite

theorem fifoBreak_far {s₀ : State} (s : State) (c : Fin 96) (hk : Far s₀ s) :
    Far s₀ (State.fifoBreak s c) := by
  unfold State.fifoBreak
  with_reducible repeat' first | assumption | (intro _) | apply modFifo_far | apply disarmCmp_far | apply modCmp_far | apply fifoFill_far | apply far_ite | apply far_foldl | dsimp only | split

theorem ephPurged_far {s₀ : State} (s : State) (e : Fin 8) (chan cause n : Nat) (hk : Far s₀ s) :
    Far s₀ (State.ephPurged s e chan cause n) := by
  unfold State.ephPurged
  with_reducible repeat' first | assumption | (intro _) | apply emit_far | apply evt_far | apply far_ite

theorem ephRemove_far {s₀ : State} (s : State) (e : Fin 8) (p : EphEnt → Bool) (hk : Far s₀ s) :
    Far s₀ (State.ephRemove s e p) := by
  unfold State.ephRemove
  with_reducible repeat' first | assumption | (intro _) | apply ephDrop_far | apply far_foldl

theorem ephRefused_far {s₀ : State} (s : State) (e : Fin 8) (n : Nat) (hk : Far s₀ s) :
    Far s₀ (State.ephRefused s e n) := by
  unfold State.ephRefused
  with_reducible repeat' first | assumption | (intro _) | apply rsat_far | apply modThr_far

theorem ownChange_far {s₀ : State} (s : State) (c : Fin 96) (old new : Nat) (hk : Far s₀ s) :
    Far s₀ (State.ownChange s c old new) := by
  unfold State.ownChange
  with_reducible repeat' first | assumption | (intro _) | apply disarmCmp_far | apply modFifo_far | apply fifoSet_far | apply ephRefused_far | apply ephRemove_far | apply ephPurged_far | apply ephMod_far | apply far_foldl

end Sys2Proof.Machine
end

