-- ==== Sys2Proof/Laws/FarGaffer.lean ====
section
/-!
SUPPORT. What the operations of the core leave as it was (Operands, Flags, Gaffer, Microword, Channel, GafferCmd, OrreryCmd).
-/
namespace Sys2Proof.Machine
open Sys2Proof

theorem wrSpec_far {s₀ : State} (s : State) (e : Fin 8) (n : Fin 16) (x v : Nat) (hk : Far s₀ s) :
    Far s₀ (State.wrSpec s e n x v) := by
  unfold State.wrSpec
  with_reducible repeat' first | assumption | (intro _) | apply modThr_far | apply modGaf_far | apply far_ite | apply far_dite

theorem thStart_far {s₀ : State} (s : State) (e : Fin 8) (n : Fin 16) (pc : BitVec 11) (hk : Far s₀ s) :
    Far s₀ (State.thStart s e n pc) := by
  unfold State.thStart
  with_reducible repeat' first | assumption | (intro _) | apply modThr_far

theorem autostart_far {s₀ : State} (s : State) (e : Fin 8) (hk : Far s₀ s) :
    Far s₀ (State.autostart s e) := by
  unfold State.autostart
  with_reducible repeat' first | assumption | (intro _) | apply thStart_far | apply modGaf_far | apply far_ite | apply far_foldl

theorem geCmdStat_far {s₀ : State} (s : State) (e : Fin 8) (n : Fin 16) (res : Nat) (hk : Far s₀ s) :
    Far s₀ (State.geCmdStat s e n res) := by
  unfold State.geCmdStat
  with_reducible repeat' first | assumption | (intro _) | apply rput_far

theorem haltDone_far {s₀ : State} (s : State) (e : Fin 8) (n : Fin 16) (hk : Far s₀ s) :
    Far s₀ (State.haltDone s e n) := by
  unfold State.haltDone
  with_reducible repeat' first | assumption | (intro _) | apply rput_far | apply far_ite

theorem geFree_far {s₀ : State} (s : State) (e : Fin 8) (hk : Far s₀ s) :
    Far s₀ (State.geFree s e) := by
  unfold State.geFree
  with_reducible repeat' first | assumption | (intro _) | apply modGaf_far

theorem preemptPoint_far {s₀ : State} (s : State) (e : Fin 8) (n : Fin 16) (hk : Far s₀ s) :
    Far s₀ (State.preemptPoint s e n) := by
  unfold State.preemptPoint
  with_reducible repeat' first | assumption | (intro _) | apply modThr_far | apply geFree_far | apply haltDone_far | apply far_ite

theorem parkThread_far {s₀ : State} (s : State) (e : Fin 8) (n : Fin 16) (why : Park) (hk : Far s₀ s) :
    Far s₀ (State.parkThread s e n why) := by
  unfold State.parkThread
  with_reducible repeat' first | assumption | (intro _) | apply modThr_far | apply geFree_far | apply haltDone_far | apply far_ite

theorem faultPurge_far {s₀ : State} (s : State) (e : Fin 8) (n : Fin 16) (hk : Far s₀ s) :
    Far s₀ (State.faultPurge s e n) := by
  unfold State.faultPurge
  with_reducible repeat' first | assumption | (intro _) | apply ephRemove_far | apply ephPurged_far | apply far_foldl

theorem thFault_far {s₀ : State} (s : State) (e : Fin 8) (n : Fin 16) (kind addr : Nat) (hk : Far s₀ s) :
    Far s₀ (State.thFault s e n kind addr) := by
  unfold State.thFault
  with_reducible repeat' first | assumption | (intro _) | apply modThr_far | apply geFree_far | apply haltDone_far | apply rput_far | apply rsat_far | apply evt_far | apply emit_far | apply faultPurge_far | apply far_ite

theorem dispatchThread_far {s₀ : State} (s : State) (e : Fin 8) (cls : Fin 4) (n : Fin 16) (hk : Far s₀ s) :
    Far s₀ (State.dispatchThread s e cls n) := by
  unfold State.dispatchThread
  with_reducible repeat' first | assumption | (intro _) | apply modGaf_far | apply modThr_far

theorem ephInsert_far {s₀ : State} (s : State) (e : Fin 8) (n : Fin 16) (q : EphReq) (tgt : Nat) (hk : Far s₀ s) :
    Far s₀ ((State.ephInsert s e n q tgt).1) := by
  unfold State.ephInsert
  with_reducible repeat' first | assumption | (intro _) | (refine far_pair (by assumption) ?_) | apply far_ite_fst | apply rsat_far | apply evt_far | apply wake_far | apply modGaf_far | apply ephStore_far | apply modThr_far | apply rput_far | apply ephCommit_far | apply far_ite | dsimp only | split

theorem ephCancel_far {s₀ : State} (s : State) (e : Fin 8) (i : Fin 12) (u : Bool) (tag : Nat) (hk : Far s₀ s) :
    Far s₀ ((State.ephCancel s e i u tag).1) := by
  unfold State.ephCancel
  with_reducible repeat' first | assumption | (intro _) | (refine far_pair (by assumption) ?_) | apply far_ite_fst | apply ephCommit_far | apply ephRemove_far | apply cmpReach_far | apply disarmCmp_far | apply far_ite | dsimp only | split

theorem ephCancelTimer_far {s₀ : State} (s : State) (e : Fin 8) (n : Fin 16) (tag : Nat) (hk : Far s₀ s) :
    Far s₀ ((State.ephCancelTimer s e n tag).1) := by
  unfold State.ephCancelTimer
  with_reducible repeat' first | assumption | (intro _) | (refine far_pair (by assumption) ?_) | apply far_ite_fst | apply ephRemove_far

theorem timerDue_far {s₀ : State} (s : State) (e : Fin 8) (hk : Far s₀ s) :
    Far s₀ (State.timerDue s e) := by
  unfold State.timerDue
  with_reducible repeat' first | assumption | (intro _) | apply ephDrop_far | apply wake_far | dsimp only | split

theorem portDone_far {s₀ : State} (s : State) (res : List (Nat × Nat)) (hk : Far s₀ s) :
    Far s₀ ((portDone s res).st) := by
  unfold portDone
  with_reducible repeat' first | assumption

theorem setEphres_far {s₀ : State} (s : State) (e : Fin 8) (n : Fin 16) (r : EphRes) (hk : Far s₀ s) :
    Far s₀ (State.setEphres s e n r) := by
  unfold State.setEphres
  with_reducible repeat' first | assumption | (intro _) | apply modThr_far

theorem setChres_far {s₀ : State} (s : State) (e : Fin 8) (n : Fin 16) (v : Nat) (hk : Far s₀ s) :
    Far s₀ (State.setChres s e n v) := by
  unfold State.setChres
  with_reducible repeat' first | assumption | (intro _) | apply modThr_far

theorem portEph_far {s₀ : State} (s : State) (e : Fin 8) (n : Fin 16) (w : BitVec 144) (hk : Far s₀ s) :
    Far s₀ ((State.portEph s e n w).st) := by
  unfold State.portEph
  with_reducible repeat' first | assumption | (intro _) | (refine far_pair (by assumption) ?_) | apply evt_far | apply ephInsert_far | apply portDone_far | apply setEphres_far | apply ephCancel_far | apply ephCancelTimer_far | apply rsat_far | apply far_ite | dsimp only | split

theorem portChan_far {s₀ : State} (s : State) (e : Fin 8) (n : Fin 16) (w : BitVec 144) (hk : Far s₀ s) :
    Far s₀ ((State.portChan s e n w).st) := by
  unfold State.portChan
  with_reducible repeat' first | assumption | (intro _) | (refine far_pair (by assumption) ?_) | apply capRead_far | apply modThr_far | apply portDone_far | apply latch_far | apply fifoRefuse_far | apply setChres_far | apply fifoAppend_far | apply fifoStop_far | apply fifoFlush_far | apply setReg_far | apply fifoStart_far | apply fifoBreak_far | apply far_ite | dsimp only | split

theorem portMem_far {s₀ : State} (s : State) (e : Fin 8) (n : Fin 16) (w : BitVec 144) (hk : Far s₀ s) :
    Far s₀ ((State.portMem s e n w).st) := by
  unfold State.portMem
  with_reducible repeat' first | assumption | (intro _) | (simp only [far_mk]; apply far_q) | apply modThr_far | apply portDone_far | apply far_ite | dsimp only | split

theorem portRec_far {s₀ : State} (s : State) (e : Fin 8) (n : Fin 16) (w : BitVec 144) (hk : Far s₀ s) :
    Far s₀ ((State.portRec s e n w).st) := by
  unfold State.portRec
  with_reducible repeat' first | assumption | (intro _) | apply portDone_far | apply modThr_far | apply recordKick_far | apply emitTo_far | apply far_ite | dsimp only | split

theorem portOry_far {s₀ : State} (s : State) (e : Fin 8) (n : Fin 16) (w : BitVec 144) (hk : Far s₀ s) :
    Far s₀ ((State.portOry s e n w).st) := by
  unfold State.portOry
  with_reducible repeat' first | assumption

theorem portSys_far {s₀ : State} (s : State) (e : Fin 8) (n : Fin 16) (w : BitVec 144) (hk : Far s₀ s) :
    Far s₀ ((State.portSys s e n w).st) := by
  unfold State.portSys
  with_reducible repeat' first | assumption | (intro _) | apply portDone_far | apply wake_far | apply modThr_far | apply convClear_far | apply convPush_far | apply setChres_far | apply far_ite | dsimp only | split

theorem portOp_far {s₀ : State} (s : State) (e : Fin 8) (n : Fin 16) (w : BitVec 144) (hk : Far s₀ s) :
    Far s₀ ((State.portOp s e n w).st) := by
  unfold State.portOp
  with_reducible repeat' first | assumption | (intro _) | apply portEph_far | apply portChan_far | apply portMem_far | apply portRec_far | apply portOry_far | apply portSys_far | apply portDone_far | dsimp only | split

theorem wrPort_far {s₀ : State} (s : State) (e : Fin 8) (n : Fin 16) (res : List (Nat × Nat)) (hk : Far s₀ s) :
    Far s₀ (State.wrPort s e n res) := by
  unfold State.wrPort
  with_reducible repeat' first | assumption | (intro _) | apply drawn_far | apply wrSpec_far | apply far_ite | apply far_foldl | dsimp only | split

theorem sequence_far {s₀ : State} (s : State) (e : Fin 8) (n : Fin 16) (w : BitVec 144) (hk : Far s₀ s) :
    Far s₀ (State.sequence s e n w) := by
  unfold State.sequence
  with_reducible repeat' first | assumption | (intro _) | apply modThr_far | apply preemptPoint_far | apply parkThread_far | apply geFree_far | apply haltDone_far | apply far_ite | dsimp only | split

theorem mwRun_far {s₀ : State} (s : State) (e : Fin 8) (n : Fin 16) (w : BitVec 144) (hk : Far s₀ s) :
    Far s₀ (State.mwRun s e n w) := by
  unfold State.mwRun
  with_reducible repeat' first | assumption | (intro _) | apply portOp_far | apply event_far | apply modThr_far | apply parkThread_far | apply wrSpec_far | apply wrPort_far | apply sequence_far | apply far_ite | dsimp only | split

theorem issue_far {s₀ : State} (s : State) (e : Fin 8) (named : BitVec 144 → Bool) (hk : Far s₀ s) :
    Far s₀ (State.issue s e named) := by
  unfold State.issue
  with_reducible repeat' first | assumption | (intro _) | apply thFault_far | apply mwRun_far | apply far_ite | dsimp only | split

theorem issueLoad_far {s₀ : State} (s : State) (e : Fin 8) (wide : Bool) (ecc : Ecc) (hk : Far s₀ s) :
    Far s₀ (State.issueLoad s e wide ecc) := by
  unfold State.issueLoad
  with_reducible repeat' first | assumption | (intro _) | apply issue_far | apply eccRead_far | apply thFault_far | apply far_ite | dsimp only | split

theorem execMwArithNop_far {s₀ : State} (e : Fin 8) (s : State) (hk : Far s₀ s) :
    FarO s₀ (execMwArithNop e s) := by
  unfold execMwArithNop
  with_reducible repeat' first | assumption | (intro _) | apply event_far | apply issue_far

theorem execMwMov_far {s₀ : State} (e : Fin 8) (s : State) (hk : Far s₀ s) :
    FarO s₀ (execMwMov e s) := by
  unfold execMwMov
  with_reducible repeat' first | assumption | (intro _) | apply event_far | apply issue_far

theorem execMwAdd_far {s₀ : State} (e : Fin 8) (s : State) (hk : Far s₀ s) :
    FarO s₀ (execMwAdd e s) := by
  unfold execMwAdd
  with_reducible repeat' first | assumption | (intro _) | apply event_far | apply issue_far

theorem execMwSub_far {s₀ : State} (e : Fin 8) (s : State) (hk : Far s₀ s) :
    FarO s₀ (execMwSub e s) := by
  unfold execMwSub
  with_reducible repeat' first | assumption | (intro _) | apply event_far | apply issue_far

theorem execMwAnd_far {s₀ : State} (e : Fin 8) (s : State) (hk : Far s₀ s) :
    FarO s₀ (execMwAnd e s) := by
  unfold execMwAnd
  with_reducible repeat' first | assumption | (intro _) | apply event_far | apply issue_far

theorem execMwOr_far {s₀ : State} (e : Fin 8) (s : State) (hk : Far s₀ s) :
    FarO s₀ (execMwOr e s) := by
  unfold execMwOr
  with_reducible repeat' first | assumption | (intro _) | apply event_far | apply issue_far

theorem execMwXor_far {s₀ : State} (e : Fin 8) (s : State) (hk : Far s₀ s) :
    FarO s₀ (execMwXor e s) := by
  unfold execMwXor
  with_reducible repeat' first | assumption | (intro _) | apply event_far | apply issue_far

theorem execMwShl_far {s₀ : State} (e : Fin 8) (s : State) (hk : Far s₀ s) :
    FarO s₀ (execMwShl e s) := by
  unfold execMwShl
  with_reducible repeat' first | assumption | (intro _) | apply event_far | apply issue_far

theorem execMwShr_far {s₀ : State} (e : Fin 8) (s : State) (hk : Far s₀ s) :
    FarO s₀ (execMwShr e s) := by
  unfold execMwShr
  with_reducible repeat' first | assumption | (intro _) | apply event_far | apply issue_far

theorem execMwSar_far {s₀ : State} (e : Fin 8) (s : State) (hk : Far s₀ s) :
    FarO s₀ (execMwSar e s) := by
  unfold execMwSar
  with_reducible repeat' first | assumption | (intro _) | apply event_far | apply issue_far

theorem execMwCmp_far {s₀ : State} (e : Fin 8) (s : State) (hk : Far s₀ s) :
    FarO s₀ (execMwCmp e s) := by
  unfold execMwCmp
  with_reducible repeat' first | assumption | (intro _) | apply event_far | apply issue_far

theorem execMwTst_far {s₀ : State} (e : Fin 8) (s : State) (hk : Far s₀ s) :
    FarO s₀ (execMwTst e s) := by
  unfold execMwTst
  with_reducible repeat' first | assumption | (intro _) | apply event_far | apply issue_far

theorem execMwMin_far {s₀ : State} (e : Fin 8) (s : State) (hk : Far s₀ s) :
    FarO s₀ (execMwMin e s) := by
  unfold execMwMin
  with_reducible repeat' first | assumption | (intro _) | apply event_far | apply issue_far

theorem execMwMax_far {s₀ : State} (e : Fin 8) (s : State) (hk : Far s₀ s) :
    FarO s₀ (execMwMax e s) := by
  unfold execMwMax
  with_reducible repeat' first | assumption | (intro _) | apply event_far | apply issue_far

theorem execMwTdiff_far {s₀ : State} (e : Fin 8) (s : State) (hk : Far s₀ s) :
    FarO s₀ (execMwTdiff e s) := by
  unfold execMwTdiff
  with_reducible repeat' first | assumption | (intro _) | apply event_far | apply issue_far

theorem execMwBset_far {s₀ : State} (e : Fin 8) (s : State) (hk : Far s₀ s) :
    FarO s₀ (execMwBset e s) := by
  unfold execMwBset
  with_reducible repeat' first | assumption | (intro _) | apply event_far | apply issue_far

theorem execMwBclr_far {s₀ : State} (e : Fin 8) (s : State) (hk : Far s₀ s) :
    FarO s₀ (execMwBclr e s) := by
  unfold execMwBclr
  with_reducible repeat' first | assumption | (intro _) | apply event_far | apply issue_far

theorem execMwNext_far {s₀ : State} (e : Fin 8) (s : State) (hk : Far s₀ s) :
    FarO s₀ (execMwNext e s) := by
  unfold execMwNext
  with_reducible repeat' first | assumption | (intro _) | apply event_far | apply issue_far

theorem execMwJump_far {s₀ : State} (e : Fin 8) (s : State) (hk : Far s₀ s) :
    FarO s₀ (execMwJump e s) := by
  unfold execMwJump
  with_reducible repeat' first | assumption | (intro _) | apply event_far | apply issue_far

theorem execMwCall_far {s₀ : State} (e : Fin 8) (s : State) (hk : Far s₀ s) :
    FarO s₀ (execMwCall e s) := by
  unfold execMwCall
  with_reducible repeat' first | assumption | (intro _) | apply event_far | apply issue_far

theorem execMwRet_far {s₀ : State} (e : Fin 8) (s : State) (hk : Far s₀ s) :
    FarO s₀ (execMwRet e s) := by
  unfold execMwRet
  with_reducible repeat' first | assumption | (intro _) | apply event_far | apply issue_far

theorem execMwWait_far {s₀ : State} (e : Fin 8) (s : State) (hk : Far s₀ s) :
    FarO s₀ (execMwWait e s) := by
  unfold execMwWait
  with_reducible repeat' first | assumption | (intro _) | apply event_far | apply issue_far

theorem execMwEnd_far {s₀ : State} (e : Fin 8) (s : State) (hk : Far s₀ s) :
    FarO s₀ (execMwEnd e s) := by
  unfold execMwEnd
  with_reducible repeat' first | assumption | (intro _) | apply event_far | apply issue_far

theorem execMwDisp_far {s₀ : State} (e : Fin 8) (s : State) (hk : Far s₀ s) :
    FarO s₀ (execMwDisp e s) := by
  unfold execMwDisp
  with_reducible repeat' first | assumption | (intro _) | apply event_far | apply issue_far

theorem execMwYield_far {s₀ : State} (e : Fin 8) (s : State) (hk : Far s₀ s) :
    FarO s₀ (execMwYield e s) := by
  unfold execMwYield
  with_reducible repeat' first | assumption | (intro _) | apply event_far | apply issue_far

theorem execMwInsCmp_far {s₀ : State} (e : Fin 8) (s : State) (hk : Far s₀ s) :
    FarO s₀ (execMwInsCmp e s) := by
  unfold execMwInsCmp
  with_reducible repeat' first | assumption | (intro _) | apply event_far | apply issue_far

theorem execMwInsTmr_far {s₀ : State} (e : Fin 8) (s : State) (hk : Far s₀ s) :
    FarO s₀ (execMwInsTmr e s) := by
  unfold execMwInsTmr
  with_reducible repeat' first | assumption | (intro _) | apply event_far | apply issue_far

theorem execMwCanCmp_far {s₀ : State} (e : Fin 8) (s : State) (hk : Far s₀ s) :
    FarO s₀ (execMwCanCmp e s) := by
  unfold execMwCanCmp
  with_reducible repeat' first | assumption | (intro _) | apply event_far | apply issue_far

theorem execMwCanTmr_far {s₀ : State} (e : Fin 8) (s : State) (hk : Far s₀ s) :
    FarO s₀ (execMwCanTmr e s) := by
  unfold execMwCanTmr
  with_reducible repeat' first | assumption | (intro _) | apply event_far | apply issue_far

theorem execMwInsAng_far {s₀ : State} (e : Fin 8) (s : State) (hk : Far s₀ s) :
    FarO s₀ (execMwInsAng e s) := by
  unfold execMwInsAng
  with_reducible repeat' first | assumption | (intro _) | apply event_far | apply issue_far

theorem execMwCaprd_far {s₀ : State} (e : Fin 8) (s : State) (hk : Far s₀ s) :
    FarO s₀ (execMwCaprd e s) := by
  unfold execMwCaprd
  with_reducible repeat' first | assumption | (intro _) | apply event_far | apply issue_far

theorem execMwSnap_far {s₀ : State} (e : Fin 8) (s : State) (hk : Far s₀ s) :
    FarO s₀ (execMwSnap e s) := by
  unfold execMwSnap
  with_reducible repeat' first | assumption | (intro _) | apply event_far | apply issue_far

theorem execMwCntrd_far {s₀ : State} (e : Fin 8) (s : State) (hk : Far s₀ s) :
    FarO s₀ (execMwCntrd e s) := by
  unfold execMwCntrd
  with_reducible repeat' first | assumption | (intro _) | apply event_far | apply issue_far

theorem execMwFpush_far {s₀ : State} (e : Fin 8) (s : State) (hk : Far s₀ s) :
    FarO s₀ (execMwFpush e s) := by
  unfold execMwFpush
  with_reducible repeat' first | assumption | (intro _) | apply event_far | apply issue_far

theorem execMwLdbase_far {s₀ : State} (e : Fin 8) (s : State) (hk : Far s₀ s) :
    FarO s₀ (execMwLdbase e s) := by
  unfold execMwLdbase
  with_reducible repeat' first | assumption | (intro _) | apply event_far | apply issue_far

theorem execMwChst_far {s₀ : State} (e : Fin 8) (s : State) (hk : Far s₀ s) :
    FarO s₀ (execMwChst e s) := by
  unfold execMwChst
  with_reducible repeat' first | assumption | (intro _) | apply event_far | apply issue_far

theorem execMwLd32_far {s₀ : State} (e : Fin 8) (ecc : Ecc) (s : State) (hk : Far s₀ s) :
    FarO s₀ (execMwLd32 e ecc s) := by
  unfold execMwLd32
  with_reducible repeat' first | assumption | (intro _) | apply event_far | apply issueLoad_far

theorem execMwLd40_far {s₀ : State} (e : Fin 8) (ecc : Ecc) (s : State) (hk : Far s₀ s) :
    FarO s₀ (execMwLd40 e ecc s) := by
  unfold execMwLd40
  with_reducible repeat' first | assumption | (intro _) | apply event_far | apply issueLoad_far

theorem execMwSt32_far {s₀ : State} (e : Fin 8) (s : State) (hk : Far s₀ s) :
    FarO s₀ (execMwSt32 e s) := by
  unfold execMwSt32
  with_reducible repeat' first | assumption | (intro _) | apply event_far | apply issue_far

theorem execMwSt40_far {s₀ : State} (e : Fin 8) (s : State) (hk : Far s₀ s) :
    FarO s₀ (execMwSt40 e s) := by
  unfold execMwSt40
  with_reducible repeat' first | assumption | (intro _) | apply event_far | apply issue_far

theorem execMwRec_far {s₀ : State} (e : Fin 8) (s : State) (hk : Far s₀ s) :
    FarO s₀ (execMwRec e s) := by
  unfold execMwRec
  with_reducible repeat' first | assumption | (intro _) | apply event_far | apply issue_far

theorem execMwAng_far {s₀ : State} (e : Fin 8) (s : State) (hk : Far s₀ s) :
    FarO s₀ (execMwAng e s) := by
  unfold execMwAng
  with_reducible repeat' first | assumption | (intro _) | apply event_far | apply issue_far

theorem execMwEdge_far {s₀ : State} (e : Fin 8) (s : State) (hk : Far s₀ s) :
    FarO s₀ (execMwEdge e s) := by
  unfold execMwEdge
  with_reducible repeat' first | assumption | (intro _) | apply event_far | apply issue_far

theorem execMwA2t_far {s₀ : State} (e : Fin 8) (s : State) (hk : Far s₀ s) :
    FarO s₀ (execMwA2t e s) := by
  unfold execMwA2t
  with_reducible repeat' first | assumption | (intro _) | apply event_far | apply issue_far

theorem execMwNow_far {s₀ : State} (e : Fin 8) (s : State) (hk : Far s₀ s) :
    FarO s₀ (execMwNow e s) := by
  unfold execMwNow
  with_reducible repeat' first | assumption | (intro _) | apply event_far | apply issue_far

theorem execMwSignal_far {s₀ : State} (e : Fin 8) (s : State) (hk : Far s₀ s) :
    FarO s₀ (execMwSignal e s) := by
  unfold execMwSignal
  with_reducible repeat' first | assumption | (intro _) | apply event_far | apply issue_far

theorem execMwWclr_far {s₀ : State} (e : Fin 8) (s : State) (hk : Far s₀ s) :
    FarO s₀ (execMwWclr e s) := by
  unfold execMwWclr
  with_reducible repeat' first | assumption | (intro _) | apply event_far | apply issue_far

theorem execMwTrig_far {s₀ : State} (e : Fin 8) (s : State) (hk : Far s₀ s) :
    FarO s₀ (execMwTrig e s) := by
  unfold execMwTrig
  with_reducible repeat' first | assumption | (intro _) | apply event_far | apply issue_far

theorem hostRead_far {s₀ : State} (s : State) (f : State → State) (hf : ∀ a, Far s₀ a → Far s₀ (f a)) (hk : Far s₀ s) :
    FarO s₀ (State.hostRead s f) := by
  unfold State.hostRead
  with_reducible repeat' first | assumption | (intro _) | apply hf | apply far_ite | apply far_next

theorem holdsChange_far {s₀ : State} (s : State) (cs : List (Fin 96)) (f : State → State) (hf : ∀ a, Far s₀ a → Far s₀ (f a)) (hk : Far s₀ s) :
    Far s₀ (State.holdsChange s cs f) := by
  unfold State.holdsChange
  with_reducible repeat' first | assumption | (intro _) | apply hf | apply holdMoved_far | apply far_foldl

theorem bankWords_far {s₀ : State} (s : State) (b : Fin 12) (hk : Far s₀ s) :
    Far s₀ (State.bankWords s b) := by
  unfold State.bankWords
  with_reducible repeat' first | assumption | (intro _) | apply cmpRetime_far | apply calSaturate_far | apply far_foldl

theorem acceptEdge_far {s₀ : State} (s : State) (c : Fin 96) (l : Bool) (t : Nat) (step : Bool) (at' : Nat) (hk : Far s₀ s) :
    Far s₀ (State.acceptEdge s c l t step at') := by
  unfold State.acceptEdge
  with_reducible repeat' first | assumption | (intro _) | apply modCh_far | apply count_far | apply capEdge_far | apply oInputEdge_far | apply far_ite

theorem ownFirst_far {s₀ : State} (s : State) (c : Fin 96) (until' : Option Int) (hk : Far s₀ s) :
    Far s₀ (State.ownFirst s c until') := by
  unfold State.ownFirst
  with_reducible repeat' first | assumption | (intro _) | apply modCh_far | apply drawn_far | apply acceptEdge_far | apply rsat_far | apply far_ite | dsimp only | split

theorem ownStep_far {s₀ : State} (s : State) (c : Fin 96) (until' : Option Int) (hk : Far s₀ s) :
    Far s₀ (State.ownStep s c until') := by
  unfold State.ownStep
  with_reducible repeat' first | assumption | (intro _) | apply ownFirst_far | apply far_ite | apply far_foldl

theorem inputEdge_far {s₀ : State} (s : State) (c : Fin 96) (level : Bool) (pos width : Nat) (hk : Far s₀ s) :
    Far s₀ (State.inputEdge s c level pos width) := by
  unfold State.inputEdge
  with_reducible repeat' first | assumption | (intro _) | apply ownStep_far | apply drawn_far | apply acceptEdge_far | apply rsat_far | apply far_ite | dsimp only | split

theorem execInputEdge_far {s₀ : State} (c : Fin 96) (level : Bool) (pos : Fin 64) (width : Nat) (s : State) (hk : Far s₀ s) :
    FarO s₀ (execInputEdge c level pos width s) := by
  unfold execInputEdge
  with_reducible repeat' first | assumption | (intro _) | apply event_far | apply inputEdge_far

theorem execCompareFire_far {s₀ : State} (c : Fin 96) (u : Bool) (s : State) (hk : Far s₀ s) :
    FarO s₀ (execCompareFire c u s) := by
  unfold execCompareFire
  with_reducible repeat' first | assumption | (intro _) | apply event_far | apply cmpReach_far

theorem cmpCtlWrite_far {s₀ : State} (s : State) (p : Path) (c : Fin 96) (u : Bool) (v : Word) (arm : Bool) (hk : Far s₀ s) :
    Far s₀ (State.cmpCtlWrite s p c u v arm) := by
  unfold State.cmpCtlWrite
  with_reducible repeat' first | assumption | (intro _) | apply evt_far | apply setReg_far | apply cmpArm_far | apply cmpDisarm_far | apply far_ite

theorem execCompareArm_far {s₀ : State} (p : Path) (c : Fin 96) (u : Bool) (v : Word) (s : State) (hk : Far s₀ s) :
    FarO s₀ (execCompareArm p c u v s) := by
  unfold execCompareArm
  with_reducible repeat' first | assumption | (intro _) | apply hostAct_far | apply cmpCtlWrite_far

theorem execCompareDisarm_far {s₀ : State} (p : Path) (c : Fin 96) (u : Bool) (v : Word) (s : State) (hk : Far s₀ s) :
    FarO s₀ (execCompareDisarm p c u v s) := by
  unfold execCompareDisarm
  with_reducible repeat' first | assumption | (intro _) | apply hostAct_far | apply cmpCtlWrite_far

theorem execChannelHold_far {s₀ : State} (p : Path) (c : Fin 96) (hold : Bool) (s : State) (hk : Far s₀ s) :
    FarO s₀ (execChannelHold p c hold s) := by
  unfold execChannelHold
  with_reducible repeat' first | assumption | (intro _) | apply hostAct_far | apply holdChange_far | apply rput_far

theorem execFifoPush_far {s₀ : State} (p : Path) (c : Fin 96) (v : Word) (s : State) (hk : Far s₀ s) :
    FarO s₀ (execFifoPush p c v s) := by
  unfold execFifoPush
  with_reducible repeat' first | assumption | (intro _) | apply hostAct_far | apply fifoPush_far

theorem execFifoStart_far {s₀ : State} (p : Path) (c : Fin 96) (waits : Bool) (s : State) (hk : Far s₀ s) :
    FarO s₀ (execFifoStart p c waits s) := by
  unfold execFifoStart
  with_reducible repeat' first | assumption | (intro _) | (refine far_pair (by assumption) ?_) | apply hostAct_far | apply fifoStart_far

theorem execFifoStop_far {s₀ : State} (p : Path) (c : Fin 96) (s : State) (hk : Far s₀ s) :
    FarO s₀ (execFifoStop p c s) := by
  unfold execFifoStop
  with_reducible repeat' first | assumption | (intro _) | apply hostAct_far | apply fifoStop_far | apply noteHostStop_far

theorem execFifoFlush_far {s₀ : State} (p : Path) (c : Fin 96) (s : State) (hk : Far s₀ s) :
    FarO s₀ (execFifoFlush p c s) := by
  unfold execFifoFlush
  with_reducible repeat' first | assumption | (intro _) | apply hostAct_far | apply fifoFlush_far | apply noteHostStop_far

theorem execFifoBreak_far {s₀ : State} (p : Path) (c : Fin 96) (s : State) (hk : Far s₀ s) :
    FarO s₀ (execFifoBreak p c s) := by
  unfold execFifoBreak
  with_reducible repeat' first | assumption | (intro _) | apply hostAct_far | apply fifoBreak_far

theorem execCapture_far {s₀ : State} (c : Fin 96) (k rise : Bool) (pos : Fin 64) (s : State) (hk : Far s₀ s) :
    FarO s₀ (execCapture c k rise pos s) := by
  unfold execCapture
  with_reducible repeat' first | assumption | (intro _) | apply event_far | apply capEdge_far | apply far_ite

theorem cmdStart_far {s₀ : State} (s : State) (e : Fin 8) (n : Fin 16) (pc : BitVec 11) (hk : Far s₀ s) :
    Far s₀ (State.cmdStart s e n pc) := by
  unfold State.cmdStart
  with_reducible repeat' first | assumption | (intro _) | apply thStart_far | apply geCmdStat_far | apply far_ite

theorem cmdHalt_far {s₀ : State} (s : State) (e : Fin 8) (n : Fin 16) (hk : Far s₀ s) :
    Far s₀ (State.cmdHalt s e n) := by
  unfold State.cmdHalt
  with_reducible repeat' first | assumption | (intro _) | apply modThr_far | apply geCmdStat_far | dsimp only | split

theorem clrFlt_far {s₀ : State} (s : State) (e : Fin 8) (n : Fin 16) (hk : Far s₀ s) :
    Far s₀ (State.clrFlt s e n) := by
  unfold State.clrFlt
  with_reducible repeat' first | assumption | (intro _) | apply rput_far | apply far_ite

theorem cmdResume_far {s₀ : State} (s : State) (e : Fin 8) (n : Fin 16) (hk : Far s₀ s) :
    Far s₀ (State.cmdResume s e n) := by
  unfold State.cmdResume
  with_reducible repeat' first | assumption | (intro _) | apply clrFlt_far | apply modThr_far | apply geCmdStat_far | apply far_ite

theorem cmdClrFault_far {s₀ : State} (s : State) (e : Fin 8) (n : Fin 16) (hk : Far s₀ s) :
    Far s₀ (State.cmdClrFault s e n) := by
  unfold State.cmdClrFault
  with_reducible repeat' first | assumption | (intro _) | apply clrFlt_far | apply modThr_far | apply geCmdStat_far | apply far_ite

theorem cmdWake_far {s₀ : State} (s : State) (e : Fin 8) (n : Fin 16) (hk : Far s₀ s) :
    Far s₀ (State.cmdWake s e n) := by
  unfold State.cmdWake
  with_reducible repeat' first | assumption | (intro _) | apply wake_far | apply geCmdStat_far

theorem cmdClrLat_far {s₀ : State} (s : State) (e : Fin 8) (n : Fin 16) (hk : Far s₀ s) :
    Far s₀ (State.cmdClrLat s e n) := by
  unfold State.cmdClrLat
  with_reducible repeat' first | assumption | (intro _) | apply setReg_far | apply geCmdStat_far

theorem runWrite_far {s₀ : State} (s : State) (e : Fin 8) (run : Bool) (hk : Far s₀ s) :
    Far s₀ (State.runWrite s e run) := by
  unfold State.runWrite
  with_reducible repeat' first | assumption | (intro _) | apply rput_far | apply autostart_far | apply far_ite

theorem dispatch_far {s₀ : State} (s : State) (e : Fin 8) (hk : Far s₀ s) :
    Far s₀ (State.dispatch s e) := by
  unfold State.dispatch
  with_reducible repeat' first | assumption | (intro _) | apply dispatchThread_far | apply far_ite | dsimp only | split

theorem threadStarve_far {s₀ : State} (s : State) (e : Fin 8) (n : Fin 16) (hk : Far s₀ s) :
    Far s₀ (State.threadStarve s e n) := by
  unfold State.threadStarve
  with_reducible repeat' first | assumption | (intro _) | apply modThr_far | apply evt_far | apply emit_far | apply far_ite | dsimp only | split

theorem spaceRetry_far {s₀ : State} (s : State) (e : Fin 8) (n : Fin 16) (hk : Far s₀ s) :
    Far s₀ (State.spaceRetry s e n) := by
  unfold State.spaceRetry
  with_reducible repeat' first | assumption | (intro _) | apply dispatch_far | apply issue_far | apply far_ite

theorem sregStore_far {s₀ : State} (s : State) (p : Path) (e : Fin 8) (m : Fin 64) (v : Word) (hk : Far s₀ s) :
    Far s₀ (State.sregStore s p e m v) := by
  unfold State.sregStore
  with_reducible repeat' first | assumption | (intro _) | apply modGaf_far

theorem csPut_far {s₀ : State} (s : State) (e : Fin 8) (w : Fin 2048) (m : Nat) (hk : Far s₀ s) :
    Far s₀ (State.csPut s e w m) := by
  unfold State.csPut
  with_reducible repeat' first | assumption | (intro _) | apply modGaf_far | apply rput_far | apply rwrap_far

theorem execThreadStart_far {s₀ : State} (p : Path) (e : Fin 8) (n : Fin 16) (pc : BitVec 11) (s : State) (hk : Far s₀ s) :
    FarO s₀ (execThreadStart p e n pc s) := by
  unfold execThreadStart
  with_reducible repeat' first | assumption | (intro _) | apply hostAct_far | apply cmdStart_far

theorem execThreadHalt_far {s₀ : State} (p : Path) (e : Fin 8) (n : Fin 16) (s : State) (hk : Far s₀ s) :
    FarO s₀ (execThreadHalt p e n s) := by
  unfold execThreadHalt
  with_reducible repeat' first | assumption | (intro _) | apply hostAct_far | apply cmdHalt_far

theorem execThreadResume_far {s₀ : State} (p : Path) (e : Fin 8) (n : Fin 16) (s : State) (hk : Far s₀ s) :
    FarO s₀ (execThreadResume p e n s) := by
  unfold execThreadResume
  with_reducible repeat' first | assumption | (intro _) | apply hostAct_far | apply cmdResume_far

theorem execThreadWake_far {s₀ : State} (p : Path) (e : Fin 8) (n : Fin 16) (s : State) (hk : Far s₀ s) :
    FarO s₀ (execThreadWake p e n s) := by
  unfold execThreadWake
  with_reducible repeat' first | assumption | (intro _) | apply hostAct_far | apply cmdWake_far

theorem execClrFault_far {s₀ : State} (p : Path) (e : Fin 8) (n : Fin 16) (s : State) (hk : Far s₀ s) :
    FarO s₀ (execClrFault p e n s) := by
  unfold execClrFault
  with_reducible repeat' first | assumption | (intro _) | apply hostAct_far | apply cmdClrFault_far

theorem execClrLat_far {s₀ : State} (p : Path) (e : Fin 8) (n : Fin 16) (s : State) (hk : Far s₀ s) :
    FarO s₀ (execClrLat p e n s) := by
  unfold execClrLat
  with_reducible repeat' first | assumption | (intro _) | apply hostAct_far | apply cmdClrLat_far

theorem execGafferNop_far {s₀ : State} (p : Path) (e : Fin 8) (_n : Fin 16) (s : State) (hk : Far s₀ s) :
    FarO s₀ (execGafferNop p e _n s) := by
  unfold execGafferNop
  with_reducible repeat' first | assumption | (intro _) | apply hostAct_far

theorem execDispatch_far {s₀ : State} (e : Fin 8) (s : State) (hk : Far s₀ s) :
    FarO s₀ (execDispatch e s) := by
  unfold execDispatch
  with_reducible repeat' first | assumption | (intro _) | apply event_far | apply dispatch_far

theorem execTimerDue_far {s₀ : State} (e : Fin 8) (s : State) (hk : Far s₀ s) :
    FarO s₀ (execTimerDue e s) := by
  unfold execTimerDue
  with_reducible repeat' first | assumption | (intro _) | apply event_far | apply timerDue_far

theorem execThreadStarve_far {s₀ : State} (e : Fin 8) (n : Fin 16) (s : State) (hk : Far s₀ s) :
    FarO s₀ (execThreadStarve e n s) := by
  unfold execThreadStarve
  with_reducible repeat' first | assumption | (intro _) | apply event_far | apply threadStarve_far

theorem execSpaceRetry_far {s₀ : State} (e : Fin 8) (n : Fin 16) (s : State) (hk : Far s₀ s) :
    FarO s₀ (execSpaceRetry e n s) := by
  unfold execSpaceRetry
  with_reducible repeat' first | assumption | (intro _) | apply event_far | apply spaceRetry_far

theorem execSregStore_far {s₀ : State} (p : Path) (e : Fin 8) (m : Fin 64) (v : Word) (s : State) (hk : Far s₀ s) :
    FarO s₀ (execSregStore p e m v s) := by
  unfold execSregStore
  with_reducible repeat' first | assumption | (intro _) | apply hostAct_far | apply sregStore_far

theorem oryEvent_far {s₀ : State} (s : State) (f : State → State) (hf : ∀ a, Far s₀ a → Far s₀ (f a)) (hk : Far s₀ s) :
    FarO s₀ (State.oryEvent s f) := by
  unfold State.oryEvent
  with_reducible repeat' first | assumption | (intro _) | apply hf | apply event_far | apply far_ite

theorem oryEdge_far {s₀ : State} (s : State) (n : Fin 4) (i : Nat) (f : State → State) (hf : ∀ a, Far s₀ a → Far s₀ (f a)) (hk : Far s₀ s) :
    FarO s₀ (State.oryEdge s n i f) := by
  unfold State.oryEdge
  with_reducible repeat' first | assumption | (intro _) | apply hf | apply oryEvent_far | apply far_ite

theorem execWheelTooth_far {s₀ : State} (n : Fin 4) (pos : Fin 64) (s : State) (hk : Far s₀ s) :
    FarO s₀ (execWheelTooth n pos s) := by
  unfold execWheelTooth
  with_reducible repeat' first | assumption | (intro _) | apply oryEdge_far | apply oWheelEdge_far

theorem execCamEdge_far {s₀ : State} (n : Fin 4) (pos : Fin 64) (s : State) (hk : Far s₀ s) :
    FarO s₀ (execCamEdge n pos s) := by
  unfold execCamEdge
  with_reducible repeat' first | assumption | (intro _) | apply oryEdge_far | apply oCamEdge_far

theorem execCamLost_far {s₀ : State} (n : Fin 4) (s : State) (hk : Far s₀ s) :
    FarO s₀ (execCamLost n s) := by
  unfold execCamLost
  with_reducible repeat' first | assumption | (intro _) | apply oryEvent_far | apply oCamLost_far

theorem execDirPwDecision_far {s₀ : State} (n : Fin 4) (s : State) (hk : Far s₀ s) :
    FarO s₀ (execDirPwDecision n s) := by
  unfold execDirPwDecision
  with_reducible repeat' first | assumption | (intro _) | apply oryEvent_far | apply oPwDue_far

theorem execHallChange_far {s₀ : State} (n : Fin 4) (lvl : BitVec 3) (pos : Fin 64) (s : State) (hk : Far s₀ s) :
    FarO s₀ (execHallChange n lvl pos s) := by
  unfold execHallChange
  with_reducible repeat' first | assumption | (intro _) | apply oryEvent_far | apply oHall_far

theorem execQuadTransition_far {s₀ : State} (n : Fin 4) (lvl : BitVec 3) (pos : Fin 64) (s : State) (hk : Far s₀ s) :
    FarO s₀ (execQuadTransition n lvl pos s) := by
  unfold execQuadTransition
  with_reducible repeat' first | assumption | (intro _) | apply oryEvent_far | apply oQuad_far

theorem execSincosSample_far {s₀ : State} (n : Fin 4) (rawS rawC : BitVec 14) (s : State) (hk : Far s₀ s) :
    FarO s₀ (execSincosSample n rawS rawC s) := by
  unfold execSincosSample
  with_reducible repeat' first | assumption | (intro _) | apply oryEvent_far | apply oSincos_far

theorem execSincosIndex_far {s₀ : State} (n : Fin 4) (pos : Fin 64) (s : State) (hk : Far s₀ s) :
    FarO s₀ (execSincosIndex n pos s) := by
  unfold execSincosIndex
  with_reducible repeat' first | assumption | (intro _) | apply oryEdge_far | apply oMarker_far

theorem execStill_far {s₀ : State} (n : Fin 4) (s : State) (hk : Far s₀ s) :
    FarO s₀ (execStill n s) := by
  unfold execStill
  with_reducible repeat' first | assumption | (intro _) | apply oryEvent_far | apply oStill_far

theorem execOryNop_far {s₀ : State} (p : Path) (n : Fin 4) (s : State) (hk : Far s₀ s) :
    FarO s₀ (execOryNop p n s) := by
  unfold execOryNop
  with_reducible repeat' first | assumption | (intro _) | apply hostAct_far | apply oCmdPost_far

theorem execClrCnt_far {s₀ : State} (p : Path) (n : Fin 4) (s : State) (hk : Far s₀ s) :
    FarO s₀ (execClrCnt p n s) := by
  unfold execClrCnt
  with_reducible repeat' first | assumption | (intro _) | apply hostAct_far | apply oCmdPost_far

theorem cvCommand_far {s₀ : State} (s : State) (k : Fin 2) (ain : Nat) (hk : Far s₀ s) :
    Far s₀ (State.cvCommand s k ain) := by
  unfold State.cvCommand
  with_reducible repeat' first | assumption | (intro _) | apply convPush_far | apply convRefuse_far | apply far_ite

theorem rdidxWrite_far {s₀ : State} (s : State) (b : Fin 6) (v : Word) (hk : Far s₀ s) :
    Far s₀ (State.rdidxWrite s b v) := by
  unfold State.rdidxWrite
  with_reducible repeat' first | assumption | (intro _) | apply evt_far | apply setReg_far | apply sbufSpace_far | apply far_ite

theorem execCvCmd_far {s₀ : State} (p : Path) (k : Fin 2) (ain : Fin 16) (s : State) (hk : Far s₀ s) :
    FarO s₀ (execCvCmd p k ain s) := by
  unfold execCvCmd
  with_reducible repeat' first | assumption | (intro _) | apply hostAct_far | apply cvCommand_far

theorem execConvHold_far {s₀ : State} (k : Fin 2) (s : State) (hk : Far s₀ s) :
    FarO s₀ (execConvHold k s) := by
  unfold execConvHold
  with_reducible repeat' first | assumption | (intro _) | apply event_far | apply convHold_far

theorem execConvResult_far {s₀ : State} (k : Fin 2) (raw : BitVec 12) (s : State) (hk : Far s₀ s) :
    FarO s₀ (execConvResult k raw s) := by
  unfold execConvResult
  with_reducible repeat' first | assumption | (intro _) | apply event_far | apply convResult_far

theorem execCvbufRdidxWrite_far {s₀ : State} (p : Path) (b : Fin 6) (v : Word) (s : State) (hk : Far s₀ s) :
    FarO s₀ (execCvbufRdidxWrite p b v s) := by
  unfold execCvbufRdidxWrite
  with_reducible repeat' first | assumption | (intro _) | apply hostAct_far | apply rdidxWrite_far

end Sys2Proof.Machine
end

