-- ==== Sys2Proof/Laws/Regs.lean ====
section
/-!
SUPPORT. Laws of the register file: what a field reads after a field has been written.
-/
namespace Sys2Proof.Machine
open Sys2Proof

/-! ### Fields of a word -/

/-- A word is its part above a field, the field, and its part below. -/
theorem word_split (w : Word) (lo n : Nat) :
    w.toNat = w.toNat / 2 ^ (lo + n) * 2 ^ (lo + n) + wfld w lo n * 2 ^ lo + w.toNat % 2 ^ lo := by
  have h1 := Nat.div_add_mod w.toNat (2 ^ lo)
  have h2 := Nat.div_add_mod (w.toNat / 2 ^ lo) (2 ^ n)
  rw [Nat.div_div_eq_div_mul, ← pow_add] at h2
  simp only [wfld, Nat.shiftRight_eq_div_pow]
  rw [pow_add]
  have h3 : 2 ^ lo * (2 ^ n * (w.toNat / 2 ^ (lo + n)) + w.toNat / 2 ^ lo % 2 ^ n) + w.toNat % 2 ^ lo = w.toNat := by rw [h2]; exact h1
  rw [pow_add] at h3
  generalize w.toNat / (2 ^ lo * 2 ^ n) = a at h3 ⊢
  generalize w.toNat / 2 ^ lo % 2 ^ n = b at h3 ⊢
  generalize w.toNat % 2 ^ lo = c at h3 ⊢
  rw [← h3]
  ring

/-- The number that a word becomes when a field of it is replaced. -/
theorem wset_toNat (w : Word) (lo n v : Nat) (h : lo + n ≤ 32) :
    (wset w lo n v).toNat = w.toNat / 2 ^ (lo + n) * 2 ^ (lo + n) + v % 2 ^ n * 2 ^ lo + w.toNat % 2 ^ lo := by
  have hs := word_split w lo n
  have hw : w.toNat < 2 ^ 32 := w.isLt
  have hB : w.toNat % 2 ^ lo < 2 ^ lo := Nat.mod_lt _ (by positivity)
  have hv : v % 2 ^ n < 2 ^ n := Nat.mod_lt _ (by positivity)
  have hA : w.toNat / 2 ^ (lo + n) * 2 ^ (lo + n) + 2 ^ (lo + n) ≤ 2 ^ 32 := by
    obtain ⟨k, hk⟩ : ∃ k, 2 ^ 32 = k * 2 ^ (lo + n) := ⟨2 ^ (32 - (lo + n)), by rw [← pow_add]; congr 1; omega⟩
    have : w.toNat / 2 ^ (lo + n) < k := by
      rw [Nat.div_lt_iff_lt_mul (by positivity)]; omega
    calc w.toNat / 2 ^ (lo + n) * 2 ^ (lo + n) + 2 ^ (lo + n) = (w.toNat / 2 ^ (lo + n) + 1) * 2 ^ (lo + n) := by ring
      _ ≤ k * 2 ^ (lo + n) := Nat.mul_le_mul_right _ this
      _ = 2 ^ 32 := hk.symm
  have hf : v % 2 ^ n * 2 ^ lo + 2 ^ lo ≤ 2 ^ (lo + n) := by
    rw [pow_add]
    calc v % 2 ^ n * 2 ^ lo + 2 ^ lo = (v % 2 ^ n + 1) * 2 ^ lo := by ring
      _ ≤ 2 ^ n * 2 ^ lo := Nat.mul_le_mul_right _ hv
      _ = 2 ^ lo * 2 ^ n := by ring
  unfold wset
  rw [BitVec.toNat_ofNat, Nat.mod_eq_of_lt]
  · omega
  · omega

theorem wfld_wset_same (w : Word) (lo n v : Nat) (h : lo + n ≤ 32) : wfld (wset w lo n v) lo n = v % 2 ^ n := by
  have hB : w.toNat % 2 ^ lo < 2 ^ lo := Nat.mod_lt _ (by positivity)
  rw [wfld, wset_toNat w lo n v h, Nat.shiftRight_eq_div_pow, pow_add]
  rw [show w.toNat / (2 ^ lo * 2 ^ n) * (2 ^ lo * 2 ^ n) + v % 2 ^ n * 2 ^ lo + w.toNat % 2 ^ lo
      = w.toNat % 2 ^ lo + 2 ^ lo * (2 ^ n * (w.toNat / (2 ^ lo * 2 ^ n)) + v % 2 ^ n) by ring]
  rw [Nat.add_mul_div_left _ _ (by positivity), Nat.div_eq_of_lt hB, zero_add, Nat.mul_add_mod, Nat.mod_mod]

theorem wfld_wset_low (w : Word) (lo n v lo' n' : Nat) (h : lo + n ≤ 32) (hd : lo' + n' ≤ lo) :
    wfld (wset w lo n v) lo' n' = wfld w lo' n' := by
  rw [wfld, wfld, wset_toNat w lo n v h]
  conv_rhs => rw [word_split w lo n]
  simp only [Nat.shiftRight_eq_div_pow]
  obtain ⟨k, rfl⟩ : ∃ k, lo = lo' + n' + k := ⟨lo - lo' - n', by omega⟩
  have e : ∀ a f b : Nat, (a * 2 ^ (lo' + n' + k + n) + f * 2 ^ (lo' + n' + k) + b) / 2 ^ lo' % 2 ^ n' = b / 2 ^ lo' % 2 ^ n' := by
    intro a f b
    rw [show a * 2 ^ (lo' + n' + k + n) + f * 2 ^ (lo' + n' + k) + b
      = b + 2 ^ lo' * (2 ^ n' * (a * 2 ^ (k + n) + f * 2 ^ k)) by rw [pow_add, pow_add, pow_add, pow_add]; ring]
    rw [Nat.add_mul_div_left _ _ (by positivity), Nat.add_mul_mod_self_left]
  rw [e, e]

theorem wfld_wset_high (w : Word) (lo n v lo' n' : Nat) (h : lo + n ≤ 32) (hd : lo + n ≤ lo') :
    wfld (wset w lo n v) lo' n' = wfld w lo' n' := by
  have key : ∀ f : Nat, f < 2 ^ n → (w.toNat / 2 ^ (lo + n) * 2 ^ (lo + n) + f * 2 ^ lo + w.toNat % 2 ^ lo) / 2 ^ (lo + n)
      = w.toNat / 2 ^ (lo + n) := by
    intro f hf
    have hB : w.toNat % 2 ^ lo < 2 ^ lo := Nat.mod_lt _ (by positivity)
    have hl : f * 2 ^ lo + w.toNat % 2 ^ lo < 2 ^ (lo + n) := by
      rw [pow_add]
      calc f * 2 ^ lo + w.toNat % 2 ^ lo < f * 2 ^ lo + 2 ^ lo := by omega
        _ = (f + 1) * 2 ^ lo := by ring
        _ ≤ 2 ^ n * 2 ^ lo := Nat.mul_le_mul_right _ hf
        _ = 2 ^ lo * 2 ^ n := by ring
    rw [add_assoc, Nat.add_comm, Nat.add_mul_div_right _ _ (by positivity), Nat.div_eq_of_lt hl, zero_add]
  have split : ∀ x : Nat, x / 2 ^ lo' = x / 2 ^ (lo + n) / 2 ^ (lo' - (lo + n)) := by
    intro x
    rw [Nat.div_div_eq_div_mul, ← pow_add]
    congr 2; omega
  rw [wfld, wfld, wset_toNat w lo n v h]
  simp only [Nat.shiftRight_eq_div_pow]
  rw [split, key _ (Nat.mod_lt _ (by positivity)), split w.toNat]

/-! ### Registers -/

@[simp] theorem reg_setReg_same (s : State) (o : Nat) (w : Word) : (s.setReg o w).reg o = w := tblGet_set_same _ _ _ _

theorem reg_setReg_ne (s : State) {o o' : Nat} (w : Word) (h : o' ≠ o) : (s.setReg o w).reg o' = s.reg o' := tblGet_set_ne _ _ _ h

theorem reg_rput_ne (s : State) {f : Fld} {o : Nat} (v : Nat) (h : o ≠ f.reg) : (s.rput f v).reg o = s.reg o := reg_setReg_ne s _ h

theorem reg_rsat_ne (s : State) {f : Fld} {o : Nat} (k : Nat) (h : o ≠ f.reg) : (s.rsat f k).reg o = s.reg o := reg_rput_ne s _ h

theorem reg_rwrap_ne (s : State) {f : Fld} {o : Nat} (k : Nat) (h : o ≠ f.reg) : (s.rwrap f k).reg o = s.reg o := reg_rput_ne s _ h

theorem rget_rput_same (s : State) (f : Fld) (v : Nat) (h : f.lo + f.width ≤ 32) : (s.rput f v).rget f = v % 2 ^ f.width := by
  simp only [State.rget, State.rput, reg_setReg_same]
  exact wfld_wset_same _ _ _ _ h

theorem rget_of_reg {s t : State} {f : Fld} (h : t.reg f.reg = s.reg f.reg) : t.rget f = s.rget f := by
  simp only [State.rget, h]

theorem rget_rput_ne (s : State) {f g : Fld} (v : Nat) (h : g.reg ≠ f.reg) : (s.rput f v).rget g = s.rget g :=
  rget_of_reg (reg_rput_ne s v h)

/-- Fields of one register that do not overlap do not disturb each other. -/
theorem rget_rput_apart (s : State) {f g : Fld} (v : Nat) (hf : f.lo + f.width ≤ 32) (hr : g.reg = f.reg)
    (h : g.lo + g.width ≤ f.lo ∨ f.lo + f.width ≤ g.lo) : (s.rput f v).rget g = s.rget g := by
  simp only [State.rget, State.rput, hr, reg_setReg_same]
  rcases h with h | h
  · exact wfld_wset_low _ _ _ _ _ _ hf h
  · exact wfld_wset_high _ _ _ _ _ _ hf h

end Sys2Proof.Machine
end

