-- ==== Sys2Proof/Laws/Reports.lean ====
section
/-!
SUPPORT. What a report changes: events, edge requests and records leave every register but their own as it was, and every block.
-/
namespace Sys2Proof.Machine
open Sys2Proof

theorem sameBlocks_of {s t : State} (hf : Far s t) (hc : Core s t) : s.sameBlocks t := ⟨hf, hc⟩

/-! ### Registers -/

/-- A register that no report changes. -/
theorem reportReg_false {o : Nat} (h : reportReg o = false) : o ≠ R.EC_DISCARD ∧ o ≠ R.EC_LOST2 ∧ o ≠ R.EC_EVT := by
  simpa [reportReg, Bool.or_eq_false_iff, and_assoc] using h

theorem reg_ecEvt (s : State) (f : Fld) {o : Nat} (hf : f.reg = R.EC_EVT) (h : reportReg o = false) : (s.ecEvt f).reg o = s.reg o :=
  reg_rput_ne s _ (by rw [hf]; exact (reportReg_false h).2.2)

theorem reg_setEcSrc (s : State) (n : Nat) (x : EcSrc) (o : Nat) : (s.setEcSrc n x).reg o = s.reg o := rfl

theorem reg_msixSend (s : State) (t o : Nat) : (s.msixSend t).reg o = s.reg o := by
  unfold State.msixSend
  split
  · split <;> rfl
  · rfl

theorem reg_ecAssign (s : State) (n o : Nat) : (s.ecAssign n).reg o = s.reg o := by
  unfold State.ecAssign
  dsimp only
  split
  · split
    · rfl
    · split
      · rw [reg_msixSend, reg_setEcSrc]
      · rfl
  · rfl

theorem reg_ecEdge (s : State) (n : Nat) {o : Nat} (h : reportReg o = false) : (s.ecEdge n).reg o = s.reg o := by
  have h' := reportReg_false h
  unfold State.ecEdge
  split
  · rfl
  · split
    · rw [reg_ecEvt _ _ rfl h, reg_rsat_ne _ _ h'.2.1]
    · rw [reg_ecAssign, reg_setEcSrc]

theorem reg_noteSet (s : State) (f : Fld) (o : Nat) : (s.noteSet f).reg o = s.reg o := rfl

theorem reg_evt (s : State) (f : Fld) {o : Nat} (h : reportReg o = false) (ho : o ≠ f.reg) : (s.evt f).reg o = s.reg o := by
  unfold State.evt
  split
  · rfl
  · dsimp only
    split
    · exact reg_rput_ne (s.noteSet f) _ ho
    · rw [reg_ecEdge _ _ h, reg_rput_ne (s.noteSet f) _ ho, reg_noteSet]

theorem reg_faultLog (s : State) (type src t flags : Nat) (w4 w5 w6 w7 : Word) (o : Nat) :
    (s.faultLog type src t flags w4 w5 w6 w7).reg o = s.reg o := by
  unfold State.faultLog
  split <;> rfl

theorem reg_recordKick (s : State) (type src o : Nat) : (s.recordKick type src).reg o = s.reg o := by
  unfold State.recordKick
  split <;> rfl

theorem reg_emitTo (s : State) (ring : Option Nat) (type src t flags : Nat) (w4 w5 w6 w7 : Word) {o : Nat} (h : reportReg o = false) :
    (s.emitTo ring type src t flags w4 w5 w6 w7).reg o = s.reg o := by
  have h' := reportReg_false h
  unfold State.emitTo
  split
  · split
    · rfl
    · rw [reg_ecEvt _ _ rfl h, reg_rsat_ne _ _ h'.1]
  · rw [reg_ecEvt _ _ rfl h, reg_rsat_ne _ _ h'.1]

theorem reg_emitFl (s : State) (type src t fl : Nat) (w4 w5 w6 w7 : Word) {o : Nat} (h : reportReg o = false) :
    (s.emitFl type src t fl w4 w5 w6 w7).reg o = s.reg o := by
  unfold State.emitFl
  rw [reg_emitTo _ _ _ _ _ _ _ _ _ _ h, reg_recordKick, reg_faultLog]

theorem reg_emit (s : State) (type src t flags : Nat) (w4 w5 w6 w7 : Word) {o : Nat} (h : reportReg o = false) :
    (s.emit type src t flags w4 w5 w6 w7).reg o = s.reg o := by
  simp only [State.emit]
  exact reg_emitFl _ _ _ _ _ _ _ _ _ h

/-! ### Event bits -/

theorem ron_of_rget {s : State} {f : Fld} (h : s.rget f = 1) : s.ron f = true := by simp [State.ron, h]

/-- An event bit that is set stands, whatever its source does. -/
theorem ron_evt (s : State) (f : Fld) (hw : f.width = 1) (hl : f.lo + f.width ≤ 32) (hr : reportReg f.reg = false) :
    (s.evt f).ron f = true := by
  have h1 : ((s.noteSet f).rput f 1).rget f = 1 := by rw [rget_rput_same _ _ _ hl, hw]; norm_num
  unfold State.evt
  split
  · assumption
  · dsimp only
    split
    · exact ron_of_rget h1
    · exact ron_of_rget ((rget_of_reg (reg_ecEdge _ _ hr)).trans h1)

end Sys2Proof.Machine
end

