-- ==== Sys2Proof/Laws/Gates.lean ====
section
/-!
SUPPORT. The gates: what a host write, a host read and an event are in a device that takes them.
-/
namespace Sys2Proof.Machine
open Sys2Proof

theorem takesEvents_iff (s : State) : s.takesEvents = true ↔ s.powered = true ∧ s.frozen = false := by
  simp [State.takesEvents]

theorem takesWrites_iff (s : State) : s.takesWrites = true ↔ s.powered = true ∧ s.frozen = false ∧ s.loading = false := by
  simp [State.takesWrites, State.takesEvents, and_assoc]

theorem takesEvents_of_writes {s : State} (h : s.takesWrites = true) : s.takesEvents = true := by
  rw [takesWrites_iff] at h
  exact (takesEvents_iff s).2 ⟨h.1, h.2.1⟩

/-- A host write that takes effect. -/
theorem hostWrite_open {s : State} (h : s.takesWrites = true) (o : Nat) (f : State → State) : s.hostWrite o f = f s := by
  rw [takesWrites_iff] at h
  simp [State.hostWrite, h.1, h.2.1, h.2.2]

theorem hostAct_open {s : State} (h : s.takesWrites = true) (p : Path) (o : Nat) (f : State → State) : s.hostAct p o f = .next (f s) := by
  simp only [State.hostAct, hostWrite_open h]

/-- A host write to a frozen device is counted, and nothing else. -/
theorem hostWrite_frozen {s : State} (hp : s.powered = true) (hf : s.frozen = true) {o : Nat} (ho : freezePage o = false)
    (f : State → State) : s.hostWrite o f = s.rsat F.FRZ_CNT_IGN 1 := by
  simp [State.hostWrite, hp, hf, ho]

/-- A host write during a load is counted, and nothing else. -/
theorem hostWrite_loading {s : State} (h : s.takesEvents = true) (hl : s.loading = true) {o : Nat} (ho : o ≠ R.CFG_CMD)
    (f : State → State) : s.hostWrite o f = s.rsat F.CFG_HOSTIGN_CNT 1 := by
  rw [takesEvents_iff] at h
  simp [State.hostWrite, h.1, h.2, hl, ho]

/-- An event in a device that takes events. -/
theorem event_open {s : State} (h : s.takesEvents = true) (f : State → State) : s.event f = .next (f s) := by
  rw [takesEvents_iff] at h
  simp [State.event, h.1, h.2]

/-- An event in a device that takes none. -/
theorem event_shut {s : State} (h : s.takesEvents = false) (f : State → State) : s.event f = .next s := by
  have h' : s.frozen = true ∨ ¬ s.powered = true := by
    by_contra hc
    push Not at hc
    have := (takesEvents_iff s).2 ⟨hc.2, by simpa using hc.1⟩
    simp [this] at h
  simp only [State.event, if_pos h']

theorem hostRead_open {s : State} (h : s.powered = true) (f : State → State) : s.hostRead f = .next (f s) := by
  simp [State.hostRead, h]

theorem sameBlocks_refl (s : State) : s.sameBlocks s := ⟨far_refl s, core_refl s⟩

theorem sameRegsBut_refl (s : State) (os : List Nat) : s.sameRegsBut s os := fun _ _ _ => rfl

theorem rget_rsat_same (s : State) (f : Fld) (k : Nat) (h : f.lo + f.width ≤ 32) :
    (s.rsat f k).rget f = min (s.rget f + k) (2 ^ f.width - 1) := by
  unfold State.rsat
  rw [rget_rput_same _ _ _ h, Nat.mod_eq_of_lt]
  have : 0 < 2 ^ f.width := by positivity
  omega

end Sys2Proof.Machine
end

