-- ==== Sys2Proof/Laws/KeptOps.lean ====
section
/-!
SUPPORT. What every operation keeps (Ops, Frame, Gate, LehrTime, Cal, RecStage, SampBuf).
-/
namespace Sys2Proof.Machine
open Sys2Proof

/-- What every command keeps, whatever it does: the queue, the factory words (R346), and the canonical form of the register file and
of the memories. -/
def KeptQ (s : State) (regs : Tbl Word) (otp : Tbl OtpWord) (sram mram host : Tbl Byte) (pending : List Instr) : Prop :=
  pending = s.pending ∧ otp = s.otp ∧
    (s.canonical = true → tblWf resetWord regs = true ∧ Memory.wf sram = true ∧ Memory.wf mram = true ∧ Memory.wf host = true)

/-- `KeptQ` between two states. -/
def Kept (s t : State) : Prop := KeptQ s t.regs t.otp t.sram t.mram t.host t.pending

/-- `Kept` of the next state that an outcome gives. -/
def KeptO (s : State) (o : Host.Outcome State Fault Refusal) : Prop := ∀ t, o = .next t → Kept s t

theorem kept_refl (s : State) : Kept s s :=
  ⟨rfl, rfl, fun h => by simpa [State.canonical, Bool.and_eq_true, and_assoc] using h⟩

theorem Kept.canonical {s t : State} (h : Kept s t) (hs : s.canonical = true) : t.canonical = true := by
  have := h.2.2 hs
  simp [State.canonical, this]

theorem kept_q {s₀ s : State} (h : Kept s₀ s) : KeptQ s₀ s.regs s.otp s.sram s.mram s.host s.pending := h

theorem kept_next {s₀ s : State} (h : Kept s₀ s) : KeptO s₀ (.next s) := by
  intro t ht; cases ht; exact h

theorem kept_ite {s₀ a b : State} {c : Prop} [Decidable c] (ha : Kept s₀ a) (hb : Kept s₀ b) : Kept s₀ (if c then a else b) := by
  split <;> assumption

theorem kept_foldl {s₀ s : State} {β : Type} (f : State → β → State) (l : List β) (hf : ∀ a x, Kept s₀ a → Kept s₀ (f a x))
    (h : Kept s₀ s) : Kept s₀ (l.foldl f s) := by
  induction l generalizing s with
  | nil => exact h
  | cons x l ih => exact ih (hf s x h)

theorem kept_regs {s₀ s : State} {r : Tbl Word} (h : Kept s₀ s) (hr : tblWf resetWord s.regs = true → tblWf resetWord r = true) :
    KeptQ s₀ r s.otp s.sram s.mram s.host s.pending := ⟨h.1, h.2.1, fun hs => ⟨hr (h.2.2 hs).1, (h.2.2 hs).2⟩⟩

theorem kept_sram {s₀ s : State} {m : Tbl Byte} (h : Kept s₀ s) (hm : Memory.wf s.sram = true → Memory.wf m = true) :
    KeptQ s₀ s.regs s.otp m s.mram s.host s.pending :=
  ⟨h.1, h.2.1, fun hs => ⟨(h.2.2 hs).1, hm (h.2.2 hs).2.1, (h.2.2 hs).2.2⟩⟩

theorem kept_mram {s₀ s : State} {m : Tbl Byte} (h : Kept s₀ s) (hm : Memory.wf s.mram = true → Memory.wf m = true) :
    KeptQ s₀ s.regs s.otp s.sram m s.host s.pending :=
  ⟨h.1, h.2.1, fun hs => ⟨(h.2.2 hs).1, (h.2.2 hs).2.1, hm (h.2.2 hs).2.2.1, (h.2.2 hs).2.2.2⟩⟩

theorem kept_host {s₀ s : State} {m : Tbl Byte} (h : Kept s₀ s) (hm : Memory.wf s.host = true → Memory.wf m = true) :
    KeptQ s₀ s.regs s.otp s.sram s.mram m s.pending :=
  ⟨h.1, h.2.1, fun hs => ⟨(h.2.2 hs).1, (h.2.2 hs).2.1, (h.2.2 hs).2.2.1, hm (h.2.2 hs).2.2.2⟩⟩

theorem kept_mk {s₀ : State} {regs : Tbl Word} {x_staged : Tbl Word} {x_pcie : PathState} {x_spi : PathState} {x_spine : Spine} {x_banks : Vector Bank 12} {x_ch : Vector Channel 96} {x_gaf : Vector Gaffer 8} {x_ory : Vector Orrery 4} {x_conv : Vector Converter 2} {x_sbuf : Vector SampBuf 6} {x_recq : List Rec} {x_seqs : Tbl Nat} {otp : Tbl OtpWord} {x_calU : Tbl Word} {x_calS : Tbl Word} {x_layout : Layout} {x_ap : ApState} {x_rings : Vector Ring 64} {x_lehr : Lehr} {x_el : Ewer} {x_ec : Ec} {x_fn : PcieFn} {x_hif : HostIf} {x_load : Load} {x_frz : Frz} {x_psq : Psq} {x_pw : Power} {x_hl : Health} {sram : Tbl Byte} {mram : Tbl Byte} {host : Tbl Byte} {x_free : Nat} {pending : List Instr} :
    Kept s₀ (State.mk regs x_staged x_pcie x_spi x_spine x_banks x_ch x_gaf x_ory x_conv x_sbuf x_recq x_seqs otp x_calU x_calS x_layout x_ap x_rings x_lehr x_el x_ec x_fn x_hif x_load x_frz x_psq x_pw x_hl sram mram host x_free pending) = KeptQ s₀ regs otp sram mram host pending := rfl

theorem kept_ite_fst {s₀ : State} {β : Type} {a b : State × β} {c : Prop} [Decidable c] (ha : Kept s₀ a.1) (hb : Kept s₀ b.1) :
    Kept s₀ (if c then a else b).1 := by
  split <;> assumption

theorem kept_pair {s₀ t : State} {β : Type} {b : β} {x : State × β} (he : x = (t, b)) (h : Kept s₀ x.1) : Kept s₀ t := by
  rw [he] at h; exact h

theorem kept_dite {s₀ : State} {c : Prop} [Decidable c] {a : c → State} {b : ¬c → State} (ha : ∀ h, Kept s₀ (a h)) (hb : ∀ h, Kept s₀ (b h)) :
    Kept s₀ (if h : c then a h else b h) := by
  split
  · exact ha _
  · exact hb _

theorem memFilter_wf (m : Tbl Byte) (p : Nat × Byte → Bool) (h : Memory.wf m = true) : Memory.wf (m.filter p) = true :=
  tblWf_filter _ m p h

theorem kept_sram_of {s₀ s u : State} {m : Tbl Byte} (h : Kept s₀ s) (hu : Kept s₀ u) (hm : Memory.wf u.sram = true → Memory.wf m = true) :
    KeptQ s₀ s.regs s.otp m s.mram s.host s.pending :=
  ⟨h.1, h.2.1, fun hs => ⟨(h.2.2 hs).1, hm (hu.2.2 hs).2.1, (h.2.2 hs).2.2⟩⟩

/-- What keeps the canonical form at every turn keeps it through a fold. -/
theorem wf_foldl {β γ : Type} (wf : γ → Prop) (f : γ → β → γ) (l : List β) (m : γ) (hf : ∀ t x, wf t → wf (f t x)) (h : wf m) :
    wf (l.foldl f m) := by
  induction l generalizing m with
  | nil => exact h
  | cons x l ih => exact ih _ (hf m x h)

theorem kept_foldl_fst {s₀ : State} {β γ : Type} (f : State × β → γ → State × β) (l : List γ)
    (hf : ∀ r x, Kept s₀ r.1 → Kept s₀ (f r x).1) (r : State × β) (h : Kept s₀ r.1) : Kept s₀ (l.foldl f r).1 := by
  induction l generalizing r with
  | nil => exact h
  | cons x l ih => exact ih _ (hf r x h)

theorem setReg_kept {s₀ : State} (s : State) (o : Nat) (w : Word) (h : Kept s₀ s) : Kept s₀ (s.setReg o w) :=
  kept_regs (s := s) h (tblWf_set _ _ _ _)

theorem rput_kept {s₀ : State} (s : State) (f : Fld) (v : Nat) (hk : Kept s₀ s) :
    Kept s₀ (State.rput s f v) := by
  unfold State.rput
  with_reducible repeat' first | assumption | (intro _) | apply setReg_kept

theorem rsat_kept {s₀ : State} (s : State) (f : Fld) (k : Nat) (hk : Kept s₀ s) :
    Kept s₀ (State.rsat s f k) := by
  unfold State.rsat
  with_reducible repeat' first | assumption | (intro _) | apply rput_kept

theorem rwrap_kept {s₀ : State} (s : State) (f : Fld) (k : Nat) (hk : Kept s₀ s) :
    Kept s₀ (State.rwrap s f k) := by
  unfold State.rwrap
  with_reducible repeat' first | assumption | (intro _) | apply rput_kept

theorem drawn_kept {s₀ : State} (s : State) (hk : Kept s₀ s) :
    Kept s₀ (State.drawn s) := by
  unfold State.drawn
  with_reducible repeat' first | assumption | (intro _) | (simp only [kept_mk]; apply kept_q)

theorem modCh_kept {s₀ : State} (s : State) (c : Fin 96) (f : Channel → Channel) (hk : Kept s₀ s) :
    Kept s₀ (State.modCh s c f) := by
  unfold State.modCh
  with_reducible repeat' first | assumption | (intro _) | (simp only [kept_mk]; apply kept_q)

theorem modGaf_kept {s₀ : State} (s : State) (e : Fin 8) (f : Gaffer → Gaffer) (hk : Kept s₀ s) :
    Kept s₀ (State.modGaf s e f) := by
  unfold State.modGaf
  with_reducible repeat' first | assumption | (intro _) | (simp only [kept_mk]; apply kept_q)

theorem modOry_kept {s₀ : State} (s : State) (n : Fin 4) (f : Orrery → Orrery) (hk : Kept s₀ s) :
    Kept s₀ (State.modOry s n f) := by
  unfold State.modOry
  with_reducible repeat' first | assumption | (intro _) | (simp only [kept_mk]; apply kept_q)

theorem modConv_kept {s₀ : State} (s : State) (k : Fin 2) (f : Converter → Converter) (hk : Kept s₀ s) :
    Kept s₀ (State.modConv s k f) := by
  unfold State.modConv
  with_reducible repeat' first | assumption | (intro _) | (simp only [kept_mk]; apply kept_q)

theorem modRing_kept {s₀ : State} (s : State) (n : Fin 64) (f : Ring → Ring) (hk : Kept s₀ s) :
    Kept s₀ (State.modRing s n f) := by
  unfold State.modRing
  with_reducible repeat' first | assumption | (intro _) | (simp only [kept_mk]; apply kept_q)

theorem modBank_kept {s₀ : State} (s : State) (b : Fin 12) (f : Bank → Bank) (hk : Kept s₀ s) :
    Kept s₀ (State.modBank s b f) := by
  unfold State.modBank
  with_reducible repeat' first | assumption | (intro _) | (simp only [kept_mk]; apply kept_q)

theorem modSpine_kept {s₀ : State} (s : State) (f : Spine → Spine) (hk : Kept s₀ s) :
    Kept s₀ (State.modSpine s f) := by
  unfold State.modSpine
  with_reducible repeat' first | assumption | (intro _) | (simp only [kept_mk]; apply kept_q)

theorem modThr_kept {s₀ : State} (s : State) (e : Fin 8) (n : Fin 16) (f : Thread → Thread) (hk : Kept s₀ s) :
    Kept s₀ (State.modThr s e n f) := by
  unfold State.modThr
  with_reducible repeat' first | assumption | (intro _) | apply modGaf_kept

theorem modPath_kept {s₀ : State} (s : State) (p : Path) (f : PathState → PathState) (hk : Kept s₀ s) :
    Kept s₀ (State.modPath s p f) := by
  unfold State.modPath
  with_reducible repeat' first | assumption | (intro _) | (simp only [kept_mk]; apply kept_q) | dsimp only | split

theorem setHeld_kept {s₀ : State} (s : State) (p : Path) (o : Nat) (w : Word) (hk : Kept s₀ s) :
    Kept s₀ (State.setHeld s p o w) := by
  unfold State.setHeld
  with_reducible repeat' first | assumption | (intro _) | apply modPath_kept

theorem setShadow_kept {s₀ : State} (s : State) (p : Path) (o : Nat) (w : Word) (hk : Kept s₀ s) :
    Kept s₀ (State.setShadow s p o w) := by
  unfold State.setShadow
  with_reducible repeat' first | assumption | (intro _) | apply modPath_kept

theorem setEcSrc_kept {s₀ : State} (s : State) (n : Nat) (x : EcSrc) (hk : Kept s₀ s) :
    Kept s₀ (State.setEcSrc s n x) := by
  unfold State.setEcSrc
  with_reducible repeat' first | assumption | (intro _) | (simp only [kept_mk]; apply kept_q)

theorem msixSend_kept {s₀ : State} (s : State) (t : Nat) (hk : Kept s₀ s) :
    Kept s₀ (State.msixSend s t) := by
  unfold State.msixSend
  with_reducible repeat' first | assumption | (intro _) | (simp only [kept_mk]; apply kept_q) | apply kept_ite

theorem ecAssign_kept {s₀ : State} (s : State) (n : Nat) (hk : Kept s₀ s) :
    Kept s₀ (State.ecAssign s n) := by
  unfold State.ecAssign
  with_reducible repeat' first | assumption | (intro _) | apply setEcSrc_kept | apply msixSend_kept | apply kept_ite | dsimp only | split

theorem noteSet_kept {s₀ : State} (s : State) (f : Fld) (hk : Kept s₀ s) :
    Kept s₀ (State.noteSet s f) := by
  unfold State.noteSet
  with_reducible repeat' first | assumption | (intro _) | (simp only [kept_mk]; apply kept_q)

theorem ecEvt_kept {s₀ : State} (s : State) (f : Fld) (hk : Kept s₀ s) :
    Kept s₀ (State.ecEvt s f) := by
  unfold State.ecEvt
  with_reducible repeat' first | assumption | (intro _) | apply noteSet_kept | apply rput_kept

theorem ecEdge_kept {s₀ : State} (s : State) (n : Nat) (hk : Kept s₀ s) :
    Kept s₀ (State.ecEdge s n) := by
  unfold State.ecEdge
  with_reducible repeat' first | assumption | (intro _) | (simp only [kept_mk]; apply kept_q) | apply rsat_kept | apply ecEvt_kept | apply setEcSrc_kept | apply ecAssign_kept | apply kept_ite

theorem ecLevel_kept {s₀ : State} (s : State) (n : Nat) (hk : Kept s₀ s) :
    Kept s₀ (State.ecLevel s n) := by
  unfold State.ecLevel
  with_reducible repeat' first | assumption | (intro _) | apply setEcSrc_kept | apply ecAssign_kept | apply kept_ite

theorem evt_kept {s₀ : State} (s : State) (f : Fld) (hk : Kept s₀ s) :
    Kept s₀ (State.evt s f) := by
  unfold State.evt
  with_reducible repeat' first | assumption | (intro _) | apply noteSet_kept | apply rput_kept | apply ecEdge_kept | apply kept_ite | dsimp only | split

theorem sramWr_kept {s₀ : State} (s : State) (a : Nat) (ws : List Word) (h : Kept s₀ s) : Kept s₀ (s.sramWr a ws) :=
  kept_sram (s := s) h (memWrWs_wf _ _ _)

theorem mramWr_kept {s₀ : State} (s : State) (a : Nat) (ws : List Word) (h : Kept s₀ s) : Kept s₀ (s.mramWr a ws) :=
  kept_mram (s := s) h (memWrWs_wf _ _ _)

theorem hostWr_kept {s₀ : State} (s : State) (a : Nat) (ws : List Word) (h : Kept s₀ s) : Kept s₀ (s.hostWr a ws) :=
  kept_host (s := s) h (memWrWs_wf _ _ _)

theorem emitTo_kept {s₀ : State} (s : State) (ring : Option Nat) (type src t flags : Nat) (w4 w5 w6 w7 : Word) (hk : Kept s₀ s) :
    Kept s₀ (State.emitTo s ring type src t flags w4 w5 w6 w7) := by
  unfold State.emitTo
  with_reducible repeat' first | assumption | (intro _) | (simp only [kept_mk]; apply kept_q) | apply rsat_kept | apply ecEvt_kept | apply kept_ite | dsimp only | split

theorem faultLog_kept {s₀ : State} (s : State) (type src t flags : Nat) (w4 w5 w6 w7 : Word) (h : Kept s₀ s) :
    Kept s₀ (s.faultLog type src t flags w4 w5 w6 w7) := by
  unfold State.faultLog
  split
  · exact kept_mram (s := s) h (memWrWs_wf _ _ _)
  · exact h

theorem recordKick_kept {s₀ : State} (s : State) (type src : Nat) (hk : Kept s₀ s) :
    Kept s₀ (State.recordKick s type src) := by
  unfold State.recordKick
  with_reducible repeat' first | assumption | (intro _) | (simp only [kept_mk]; apply kept_q) | apply kept_ite

theorem emitFl_kept {s₀ : State} (s : State) (type src t fl : Nat) (w4 w5 w6 w7 : Word) (hk : Kept s₀ s) :
    Kept s₀ (State.emitFl s type src t fl w4 w5 w6 w7) := by
  unfold State.emitFl
  with_reducible repeat' first | assumption | (intro _) | apply faultLog_kept | apply recordKick_kept | apply emitTo_kept

theorem emit_kept {s₀ : State} (s : State) (type src t flags : Nat) (w4 w5 w6 w7 : Word) (hk : Kept s₀ s) :
    Kept s₀ (State.emit s type src t flags w4 w5 w6 w7) := by
  unfold State.emit
  with_reducible repeat' first | assumption | (intro _) | apply emitFl_kept

theorem eccBad_kept {s₀ : State} (s : State) (mram : Bool) (ofs : Nat) (hk : Kept s₀ s) :
    Kept s₀ (State.eccBad s mram ofs) := by
  unfold State.eccBad
  with_reducible repeat' first | assumption | (intro _) | apply rsat_kept | apply setReg_kept | apply evt_kept | apply emit_kept | apply kept_ite

theorem eccCorr_kept {s₀ : State} (s : State) (ofs : Nat) (hk : Kept s₀ s) :
    Kept s₀ (State.eccCorr s ofs) := by
  unfold State.eccCorr
  with_reducible repeat' first | assumption | (intro _) | apply rsat_kept | apply evt_kept | apply emit_kept | apply kept_ite

theorem eccRead_kept {s₀ : State} (s : State) (ecc : Ecc) (ofs words : Nat) (hk : Kept s₀ s) :
    Kept s₀ (State.eccRead s ecc ofs words) := by
  unfold State.eccRead
  with_reducible repeat' first | assumption | (intro _) | apply drawn_kept | apply eccCorr_kept | apply eccBad_kept | dsimp only | split

theorem wake_kept {s₀ : State} (s : State) (e : Fin 8) (n : Fin 16) (bit : Nat) (hk : Kept s₀ s) :
    Kept s₀ (State.wake s e n bit) := by
  unfold State.wake
  with_reducible repeat' first | assumption | (intro _) | apply modThr_kept | apply kept_ite

theorem wakeCh_kept {s₀ : State} (s : State) (c : Fin 96) (bit : Nat) (hk : Kept s₀ s) :
    Kept s₀ (State.wakeCh s c bit) := by
  unfold State.wakeCh
  with_reducible repeat' first | assumption | (intro _) | apply wake_kept

theorem wakeSpace_kept {s₀ : State} (s : State) (e : Fin 8) (of : SpaceOf) (hk : Kept s₀ s) :
    Kept s₀ (State.wakeSpace s e of) := by
  unfold State.wakeSpace
  with_reducible repeat' first | assumption | (intro _) | apply wake_kept | apply kept_ite | apply kept_foldl

theorem wakeWriter_kept {s₀ : State} (s : State) (hk : Kept s₀ s) :
    Kept s₀ (State.wakeWriter s) := by
  unfold State.wakeWriter
  with_reducible repeat' first | assumption | (intro _) | apply wakeSpace_kept | apply kept_foldl

theorem rseqStep_kept {s₀ : State} (s : State) (hk : Kept s₀ s) :
    Kept s₀ (State.rseqStep s) := by
  unfold State.rseqStep
  with_reducible repeat' first | assumption | (intro _) | (simp only [kept_mk]; apply kept_q) | apply kept_ite

theorem event_kept {s₀ : State} (s : State) (f : State → State) (hf : ∀ a, Kept s₀ a → Kept s₀ (f a)) (h : Kept s₀ s) :
    KeptO s₀ (s.event f) := by
  unfold State.event
  split
  · exact kept_next h
  · exact kept_next (hf s h)

theorem always_kept {s₀ : State} (s : State) (f : State → State) (hf : ∀ a, Kept s₀ a → Kept s₀ (f a)) (h : Kept s₀ s) :
    KeptO s₀ (s.always f) := kept_next (hf s h)

theorem hostWrite_kept {s₀ : State} (s : State) (o : Nat) (f : State → State) (hf : ∀ a, Kept s₀ a → Kept s₀ (f a)) (hk : Kept s₀ s) :
    Kept s₀ (State.hostWrite s o f) := by
  unfold State.hostWrite
  with_reducible repeat' first | assumption | (intro _) | apply hf | apply rsat_kept | apply kept_ite

theorem hostAct_kept {s₀ : State} (s : State) (p : Path) (o : Nat) (f : State → State) (hf : ∀ a, Kept s₀ a → Kept s₀ (f a))
    (h : Kept s₀ s) : KeptO s₀ (s.hostAct p o f) := kept_next (hostWrite_kept s o f hf h)

theorem modLehr_kept {s₀ : State} (s : State) (f : Lehr → Lehr) (hk : Kept s₀ s) :
    Kept s₀ (State.modLehr s f) := by
  unfold State.modLehr
  with_reducible repeat' first | assumption | (intro _) | (simp only [kept_mk]; apply kept_q)

theorem lhState_kept {s₀ : State} (s : State) (kind : Nat) (w5 w6 : Word) (hk : Kept s₀ s) :
    Kept s₀ (State.lhState s kind w5 w6) := by
  unfold State.lhState
  with_reducible repeat' first | assumption | (intro _) | apply emit_kept

theorem lhLateCheck_kept {s₀ : State} (s : State) (hk : Kept s₀ s) :
    Kept s₀ (State.lhLateCheck s) := by
  unfold State.lhLateCheck
  with_reducible repeat' first | assumption | (intro _) | apply lhState_kept | apply modLehr_kept | apply rsat_kept | apply evt_kept | apply kept_ite | apply kept_foldl

theorem lhPass_kept {s₀ : State} (s : State) (hk : Kept s₀ s) :
    Kept s₀ (State.lhPass s) := by
  unfold State.lhPass
  with_reducible repeat' first | assumption | (intro _) | apply step_kept | apply modLehr_kept | apply lhLateCheck_kept

theorem calSaturate_kept {s₀ : State} (s : State) (q : Nat) (hk : Kept s₀ s) :
    Kept s₀ (State.calSaturate s q) := by
  unfold State.calSaturate
  with_reducible repeat' first | assumption | (intro _) | apply evt_kept | apply kept_ite

theorem bankSwap_kept {s₀ : State} (s : State) (b : Fin 12) (hk : Kept s₀ s) :
    Kept s₀ (State.bankSwap s b) := by
  unfold State.bankSwap
  with_reducible repeat' first | assumption | (intro _) | apply modBank_kept | apply kept_ite

theorem stageRun_kept {s₀ : State} (s : State) (c : Fin 96) (rs : List ChRec) (hk : Kept s₀ s) : Kept s₀ (s.stageRun c rs).1 := by
  induction rs generalizing s with
  | nil => exact hk
  | cons r rs ih =>
    unfold State.stageRun
    split
    · exact ih _ (emitFl_kept _ _ _ _ _ _ _ _ _ hk)
    · exact ih s hk

theorem stagePump_kept {s₀ : State} (s : State) (c : Fin 96) (hk : Kept s₀ s) : Kept s₀ (State.stagePump s c) := by
  unfold State.stagePump
  split
  · exact hk
  · exact modCh_kept _ _ _ (stageRun_kept _ _ _ hk)

theorem chEmitFl_kept {s₀ : State} (s : State) (c : Fin 96) (type t fl : Nat) (w4 w5 w6 w7 : Word) (hk : Kept s₀ s) :
    Kept s₀ (State.chEmitFl s c type t fl w4 w5 w6 w7) := by
  unfold State.chEmitFl
  with_reducible repeat' first | assumption | (intro _) | apply modCh_kept | apply stage_kept | apply stagePump_kept

theorem chEmit_kept {s₀ : State} (s : State) (c : Fin 96) (type t flags : Nat) (w4 w5 w6 w7 : Word) (hk : Kept s₀ s) :
    Kept s₀ (State.chEmit s c type t flags w4 w5 w6 w7) := by
  unfold State.chEmit
  with_reducible repeat' first | assumption | (intro _) | apply chEmitFl_kept

theorem modSbuf_kept {s₀ : State} (s : State) (b : Fin 6) (f : SampBuf → SampBuf) (hk : Kept s₀ s) :
    Kept s₀ (State.modSbuf s b f) := by
  unfold State.modSbuf
  with_reducible repeat' first | assumption | (intro _) | (simp only [kept_mk]; apply kept_q)

theorem sbufPut_kept {s₀ : State} (s : State) (b : Fin 6) (t : Nat) (coarse : Bool) (w0 w1 w2 w3 : Word) (hk : Kept s₀ s) :
    Kept s₀ (State.sbufPut s b t coarse w0 w1 w2 w3) := by
  unfold State.sbufPut
  with_reducible repeat' first | assumption | (intro _) | apply rwrap_kept | apply evt_kept | apply modSbuf_kept | apply sramWr_kept | apply rput_kept | apply emitFl_kept | apply kept_ite

theorem sbufSpace_kept {s₀ : State} (s : State) (b : Fin 6) (hk : Kept s₀ s) :
    Kept s₀ (State.sbufSpace s b) := by
  unfold State.sbufSpace
  with_reducible repeat' first | assumption | (intro _) | apply modSbuf_kept | apply emit_kept | apply kept_ite

end Sys2Proof.Machine
end

