-- ==== Sys2Proof/Laws/KeptPins.lean ====
section
/-!
SUPPORT. What every operation keeps (Orrery, Converter, Capture, Compare, Spine).
-/
namespace Sys2Proof.Machine
open Sys2Proof

theorem oWakes_kept {s₀ : State} (s : State) (n : Fin 4) (hk : Kept s₀ s) :
    Kept s₀ (State.oWakes s n) := by
  unfold State.oWakes
  with_reducible repeat' first | assumption | (intro _) | apply wake_kept | apply kept_ite | apply kept_foldl

theorem oPush_kept {s₀ : State} (s : State) (n : Fin 4) (due : Nat) (wake rs : Bool) (hk : Kept s₀ s) :
    Kept s₀ (State.oPush s n due wake rs) := by
  unfold State.oPush
  with_reducible repeat' first | assumption | (intro _) | apply modOry_kept

theorem oBroadcast_kept {s₀ : State} (s : State) (n : Fin 4) (due : Nat) (rs : Bool) (hk : Kept s₀ s) :
    Kept s₀ (State.oBroadcast s n due rs) := by
  unfold State.oBroadcast
  with_reducible repeat' first | assumption | (intro _) | apply oPush_kept

theorem oAmend_kept {s₀ : State} (s : State) (n : Fin 4) (hk : Kept s₀ s) :
    Kept s₀ (State.oAmend s n) := by
  unfold State.oAmend
  with_reducible repeat' first | assumption | (intro _) | apply modOry_kept

theorem oShow_kept {s₀ : State} (s : State) (n : Fin 4) (hk : Kept s₀ s) :
    Kept s₀ (State.oShow s n) := by
  unfold State.oShow
  with_reducible repeat' first | assumption | (intro _) | apply modOry_kept

theorem oShowPart_kept {s₀ : State} (s : State) (n : Fin 4) (f : OryView → OryView) (hk : Kept s₀ s) :
    Kept s₀ (State.oShowPart s n f) := by
  unfold State.oShowPart
  with_reducible repeat' first | assumption | (intro _) | apply modOry_kept

theorem oDeliver_kept {s₀ : State} (s : State) (n : Fin 4) (hk : Kept s₀ s) :
    Kept s₀ (State.oDeliver s n) := by
  unfold State.oDeliver
  with_reducible repeat' first | assumption | (intro _) | apply modOry_kept | apply wake_kept | apply oWakes_kept | apply kept_ite | apply kept_foldl

theorem oSync_kept {s₀ : State} (s : State) (n : Fin 4) (new : Sync) (cause t fl : Nat) (hk : Kept s₀ s) :
    Kept s₀ (State.oSync s n new cause t fl) := by
  unfold State.oSync
  with_reducible repeat' first | assumption | (intro _) | apply modOry_kept | apply evt_kept | apply emitFl_kept | apply kept_ite

theorem oFault_kept {s₀ : State} (s : State) (n : Fin 4) (kind t fl : Nat) (info : Word) (hk : Kept s₀ s) :
    Kept s₀ (State.oFault s n kind t fl info) := by
  unfold State.oFault
  with_reducible repeat' first | assumption | (intro _) | apply modOry_kept | apply emitFl_kept | apply kept_ite | dsimp only | split

theorem oResync_kept {s₀ : State} (s : State) (n : Fin 4) (cause t fl : Nat) (shift steps : Int) (before after : Nat) (hk : Kept s₀ s) :
    Kept s₀ (State.oResync s n cause t fl shift steps before after) := by
  unfold State.oResync
  with_reducible repeat' first | assumption | (intro _) | apply rsat_kept | apply evt_kept | apply modOry_kept | apply emitFl_kept

theorem oMotion_kept {s₀ : State} (s : State) (n : Fin 4) (x : OryStamp) (rev woke : Bool) (v : Int) (hk : Kept s₀ s) :
    Kept s₀ (State.oMotion s n x rev woke v) := by
  unfold State.oMotion
  with_reducible repeat' first | assumption | (intro _) | apply evt_kept | apply emitFl_kept | apply kept_ite

theorem oRecEdge_kept {s₀ : State} (s : State) (n : Fin 4) (x : OryStamp) (info : Nat) (rs : Bool) (hk : Kept s₀ s) :
    Kept s₀ (State.oRecEdge s n x info rs) := by
  unfold State.oRecEdge
  with_reducible repeat' first | assumption | (intro _) | apply emitFl_kept | apply kept_ite

theorem oEdge_kept {s₀ : State} (s : State) (n : Fin 4) (x : OryStamp) (back : Bool) (k : Int) (span den info : Nat) (rs : Bool) (hk : Kept s₀ s) :
    Kept s₀ (State.oEdge s n x back k span den info rs) := by
  unfold State.oEdge
  with_reducible repeat' first | assumption | (intro _) | apply step_kept | apply modOry_kept | apply oMotion_kept | apply oRecEdge_kept | apply oBroadcast_kept

theorem oMove_kept {s₀ : State} (s : State) (n : Fin 4) (k : Nat) (back : Bool) (hk : Kept s₀ s) :
    Kept s₀ (State.oMove s n k back) := by
  unfold State.oMove
  with_reducible repeat' first | assumption | (intro _) | apply modOry_kept

theorem oStamped_kept {s₀ : State} (s : State) (n : Fin 4) (i : Fin 3) (x : OryStamp) (hk : Kept s₀ s) :
    Kept s₀ (State.oStamped s n i x) := by
  unfold State.oStamped
  with_reducible repeat' first | assumption | (intro _) | apply modOry_kept

theorem oAccepted_kept {s₀ : State} (s : State) (n : Fin 4) (x : OryStamp) (hk : Kept s₀ s) :
    Kept s₀ (State.oAccepted s n x) := by
  unfold State.oAccepted
  with_reducible repeat' first | assumption | (intro _) | apply modOry_kept

theorem oTakeLvl_kept {s₀ : State} (s : State) (n : Fin 4) (cur lvl : BitVec 3) (mk : Fin 3 → OryStamp) (hk : Kept s₀ s) :
    Kept s₀ (State.oTakeLvl s n cur lvl mk).1 := by
  unfold State.oTakeLvl
  refine kept_foldl_fst _ _ (fun r x hr => ?_) _ hk
  split
  · exact oStamped_kept _ _ _ _ hr
  · exact hr

theorem oEarlyCnt_kept {s₀ : State} (s : State) (n : Fin 4) (hk : Kept s₀ s) :
    Kept s₀ (State.oEarlyCnt s n) := by
  unfold State.oEarlyCnt
  with_reducible repeat' first | assumption | (intro _) | apply rsat_kept | apply evt_kept

theorem oEarly_kept {s₀ : State} (s : State) (n : Fin 4) (x : OryStamp) (info : Word) (hk : Kept s₀ s) :
    Kept s₀ (State.oEarly s n x info) := by
  unfold State.oEarly
  with_reducible repeat' first | assumption | (intro _) | apply oEarlyCnt_kept | apply oFault_kept

theorem oAccept_kept {s₀ : State} (s : State) (n : Fin 4) (t P k : Nat) (hk : Kept s₀ s) :
    Kept s₀ (State.oAccept s n t P k) := by
  unfold State.oAccept
  with_reducible repeat' first | assumption | (intro _) | apply modOry_kept

theorem oTimed_kept {s₀ : State} (s : State) (n : Fin 4) (x : OryStamp) (P k : Nat) (back : Bool) (hk : Kept s₀ s) :
    Kept s₀ (State.oTimed s n x P k back) := by
  unfold State.oTimed
  with_reducible repeat' first | assumption | (intro _) | apply modOry_kept | apply step_kept | apply oAccept_kept | apply kept_ite

theorem oAcquired_kept {s₀ : State} (s : State) (n : Fin 4) (x : OryStamp) (back : Bool) (pos k : Nat) (hk : Kept s₀ s) :
    Kept s₀ (State.oAcquired s n x back pos k) := by
  unfold State.oAcquired
  with_reducible repeat' first | assumption | (intro _) | apply modOry_kept | apply oEdge_kept | apply oSync_kept | apply oAmend_kept

theorem oMoving_kept {s₀ : State} (s : State) (n : Fin 4) (x : OryStamp) (back : Bool) (hk : Kept s₀ s) :
    Kept s₀ (State.oMoving s n x back) := by
  unfold State.oMoving
  with_reducible repeat' first | assumption | (intro _) | apply modOry_kept | apply oMotion_kept

theorem oSeek_kept {s₀ : State} (s : State) (n : Fin 4) (x : OryStamp) (back rev : Bool) (hk : Kept s₀ s) :
    Kept s₀ (State.oSeek s n x back rev) := by
  unfold State.oSeek
  with_reducible repeat' first | assumption | (intro _) | apply modOry_kept | apply oPush_kept | apply step_kept | apply oAccept_kept | apply oAcquired_kept | apply kept_ite | dsimp only | split

theorem oToothAcq_kept {s₀ : State} (s : State) (n : Fin 4) (x : OryStamp) (back : Bool) (hk : Kept s₀ s) :
    Kept s₀ (State.oToothAcq s n x back) := by
  unfold State.oToothAcq
  with_reducible repeat' first | assumption | (intro _) | apply oMoving_kept | apply oSeek_kept

theorem oAdvance_kept {s₀ : State} (s : State) (n : Fin 4) (x : OryStamp) (P k : Nat) (back : Bool) (hk : Kept s₀ s) :
    Kept s₀ (State.oAdvance s n x P k back) := by
  unfold State.oAdvance
  with_reducible repeat' first | assumption | (intro _) | apply oTimed_kept | apply oMove_kept | apply oEdge_kept

theorem oMissing_kept {s₀ : State} (s : State) (n : Fin 4) (lost kind : Nat) (x : OryStamp) (back : Bool) (info : Word) (hk : Kept s₀ s) :
    Kept s₀ (State.oMissing s n lost kind x back info) := by
  unfold State.oMissing
  with_reducible repeat' first | assumption | (intro _) | apply rsat_kept | apply evt_kept | apply oFault_kept

theorem oGapEarly_kept {s₀ : State} (s : State) (n : Fin 4) (x : OryStamp) (P k : Nat) (back : Bool) (hk : Kept s₀ s) :
    Kept s₀ (State.oGapEarly s n x P k back) := by
  unfold State.oGapEarly
  with_reducible repeat' first | assumption | (intro _) | apply oTimed_kept | apply oMove_kept | apply modOry_kept | apply oResync_kept | apply oEdge_kept

theorem oTooth_kept {s₀ : State} (s : State) (n : Fin 4) (x : OryStamp) (back : Bool) (hk : Kept s₀ s) :
    Kept s₀ (State.oTooth s n x back) := by
  unfold State.oTooth
  with_reducible repeat' first | assumption | (intro _) | apply oToothAcq_kept | apply step_kept | apply oEarly_kept | apply rsat_kept | apply evt_kept | apply oFault_kept | apply oMoving_kept | apply oSync_kept | apply modOry_kept | apply oPush_kept | apply oAdvance_kept | apply oMissing_kept | apply oGapEarly_kept | apply kept_ite | dsimp only | split

theorem underOld_kept {s₀ : State} (s : State) (rs ws : List (Nat × Word)) (f : State → State) (hf : ∀ a, Kept s₀ a → Kept s₀ (f a)) (hk : Kept s₀ s) :
    Kept s₀ (State.underOld s rs ws f) := by
  unfold State.underOld
  with_reducible repeat' first | assumption | (intro _) | (simp only [kept_mk]; apply kept_q) | apply hf | apply setReg_kept | apply kept_ite | apply kept_foldl

theorem oKeepOld_kept {s₀ : State} (s : State) (n : Fin 4) (rs ws : List (Nat × Word)) (hk : Kept s₀ s) :
    Kept s₀ (State.oKeepOld s n rs ws) := by
  unfold State.oKeepOld
  with_reducible repeat' first | assumption | (intro _) | apply modOry_kept | apply kept_ite

theorem oPwDecide_kept {s₀ : State} (s : State) (n : Fin 4) (back : Bool) (due : Nat) (hk : Kept s₀ s) :
    Kept s₀ (State.oPwDecide s n back due) := by
  unfold State.oPwDecide
  with_reducible repeat' first | assumption | (intro _) | apply modOry_kept | apply underOld_kept | apply oTooth_kept | dsimp only | split

theorem oPwEnd_kept {s₀ : State} (s : State) (n : Fin 4) (x : OryStamp) (hk : Kept s₀ s) :
    Kept s₀ (State.oPwEnd s n x) := by
  unfold State.oPwEnd
  with_reducible repeat' first | assumption | (intro _) | apply oPwDecide_kept | dsimp only | split

theorem oWheelEdge_kept {s₀ : State} (s : State) (n : Fin 4) (x0 : OryStamp) (hk : Kept s₀ s) :
    Kept s₀ (State.oWheelEdge s n x0) := by
  unfold State.oWheelEdge
  with_reducible repeat' first | assumption | (intro _) | apply oStamped_kept | apply oPwEnd_kept | apply oEarly_kept | apply oAccepted_kept | apply modOry_kept | apply oTooth_kept | apply kept_ite | dsimp only | split

theorem oWheelEnd_kept {s₀ : State} (s : State) (n : Fin 4) (x : OryStamp) (hk : Kept s₀ s) :
    Kept s₀ (State.oWheelEnd s n x) := by
  unfold State.oWheelEnd
  with_reducible repeat' first | assumption | (intro _) | apply oStamped_kept | apply oPwEnd_kept | apply kept_ite

theorem oTurnBy_kept {s₀ : State} (s : State) (n : Fin 4) (pos cyc before after : Nat) (hk : Kept s₀ s) :
    Kept s₀ (State.oTurnBy s n pos cyc before after) := by
  unfold State.oTurnBy
  with_reducible repeat' first | assumption | (intro _) | apply modOry_kept

theorem oCamJudge_kept {s₀ : State} (s : State) (n : Fin 4) (x : OryStamp) (hk : Kept s₀ s) :
    Kept s₀ (State.oCamJudge s n x) := by
  unfold State.oCamJudge
  with_reducible repeat' first | assumption | (intro _) | apply rsat_kept | apply evt_kept | apply oFault_kept | apply oTurnBy_kept | apply modOry_kept | apply oSync_kept | apply oBroadcast_kept | apply oPush_kept | apply oResync_kept | apply kept_ite | dsimp only | split

theorem oCamEdge_kept {s₀ : State} (s : State) (n : Fin 4) (x0 : OryStamp) (hk : Kept s₀ s) :
    Kept s₀ (State.oCamEdge s n x0) := by
  unfold State.oCamEdge
  with_reducible repeat' first | assumption | (intro _) | apply oStamped_kept | apply modOry_kept | apply kept_ite

theorem oCamSettle_kept {s₀ : State} (s : State) (n : Fin 4) (hk : Kept s₀ s) :
    Kept s₀ (State.oCamSettle s n) := by
  unfold State.oCamSettle
  with_reducible repeat' first | assumption | (intro _) | apply modOry_kept | apply oEarly_kept | apply oAccepted_kept | apply oCamJudge_kept | apply kept_ite | dsimp only | split

theorem oIllegal_kept {s₀ : State} (s : State) (n : Fin 4) (x : OryStamp) (hk : Kept s₀ s) :
    Kept s₀ (State.oIllegal s n x) := by
  unfold State.oIllegal
  with_reducible repeat' first | assumption | (intro _) | apply modOry_kept | apply rsat_kept | apply evt_kept | apply oFault_kept

theorem oHallPlace_kept {s₀ : State} (s : State) (n : Fin 4) (x : OryStamp) (k : Nat) (hk : Kept s₀ s) :
    Kept s₀ (State.oHallPlace s n x k) := by
  unfold State.oHallPlace
  with_reducible repeat' first | assumption | (intro _) | apply modOry_kept | apply oIllegal_kept | apply oResync_kept | apply kept_ite

theorem oHall_kept {s₀ : State} (s : State) (n : Fin 4) (lvl : BitVec 3) (mk : Fin 3 → OryStamp) (hk : Kept s₀ s) :
    Kept s₀ (State.oHall s n lvl mk) := by
  unfold State.oHall
  with_reducible repeat' first | assumption | (intro _) | (refine kept_pair (by assumption) ?_) | apply oTakeLvl_kept | apply modOry_kept | apply oEarlyCnt_kept | apply oAccepted_kept | apply oIllegal_kept | apply oPush_kept | apply oMove_kept | apply oEdge_kept | apply oSync_kept | apply oAmend_kept | apply oHallPlace_kept | apply kept_ite | dsimp only | split

theorem oIndex_kept {s₀ : State} (s : State) (n : Fin 4) (t fl : Nat) (back : Bool) (L pos0 : Nat) (off : Int) (hk : Kept s₀ s) :
    Kept s₀ ((State.oIndex s n t fl back L pos0 off).1) := by
  unfold State.oIndex
  with_reducible repeat' first | assumption | (intro _) | (refine kept_pair (by assumption) ?_) | apply kept_ite_fst | apply modOry_kept | apply oResync_kept | apply oSync_kept | apply rput_kept | apply rsat_kept | apply evt_kept | apply oFault_kept | apply kept_ite | dsimp only | split

theorem oQuadStep_kept {s₀ : State} (s : State) (n : Fin 4) (a b : Nat) (z back : Bool) (x : OryStamp) (hk : Kept s₀ s) :
    Kept s₀ (State.oQuadStep s n a b z back x) := by
  unfold State.oQuadStep
  with_reducible repeat' first | assumption | (intro _) | (refine kept_pair (by assumption) ?_) | apply oMove_kept | apply oIndex_kept | apply oEdge_kept | apply kept_ite | dsimp only | split

theorem oQuadIllegal_kept {s₀ : State} (s : State) (n : Fin 4) (lvl : BitVec 3) (x : OryStamp) (early : Bool) (hk : Kept s₀ s) :
    Kept s₀ (State.oQuadIllegal s n lvl x early) := by
  unfold State.oQuadIllegal
  with_reducible repeat' first | assumption | (intro _) | apply modOry_kept | apply oEarlyCnt_kept | apply oIllegal_kept | apply oPush_kept | apply kept_ite

theorem oQuadEarly_kept {s₀ : State} (s : State) (n : Fin 4) (lvl : BitVec 3) (x : OryStamp) (hk : Kept s₀ s) :
    Kept s₀ (State.oQuadEarly s n lvl x) := by
  unfold State.oQuadEarly
  with_reducible repeat' first | assumption | (intro _) | apply modOry_kept | apply oEarly_kept | apply oPush_kept

theorem oQuadSettle_kept {s₀ : State} (s : State) (n : Fin 4) (hk : Kept s₀ s) :
    Kept s₀ (State.oQuadSettle s n) := by
  unfold State.oQuadSettle
  with_reducible repeat' first | assumption | (intro _) | apply oQuadEarly_kept | apply modOry_kept | apply oQuadStep_kept | apply kept_ite | dsimp only | split

theorem oQuadDue_kept {s₀ : State} (s : State) (n : Fin 4) (hk : Kept s₀ s) :
    Kept s₀ (State.oQuadDue s n) := by
  unfold State.oQuadDue
  with_reducible repeat' first | assumption | (intro _) | apply oQuadSettle_kept | apply kept_ite | dsimp only | split

theorem oQuadArrive_kept {s₀ : State} (s : State) (n : Fin 4) (lvl : BitVec 3) (x : OryStamp) (hk : Kept s₀ s) :
    Kept s₀ (State.oQuadArrive s n lvl x) := by
  unfold State.oQuadArrive
  with_reducible repeat' first | assumption | (intro _) | apply oAccepted_kept | apply oQuadIllegal_kept | apply oQuadEarly_kept | apply modOry_kept | apply kept_ite

theorem oQuadIdx_kept {s₀ : State} (s : State) (n : Fin 4) (lvl : BitVec 3) (w : QuadEdge) (x : OryStamp) (hk : Kept s₀ s) :
    Kept s₀ (State.oQuadIdx s n lvl w x) := by
  unfold State.oQuadIdx
  with_reducible repeat' first | assumption | (intro _) | apply modOry_kept | apply oEarly_kept | apply oPush_kept | apply oAccepted_kept | apply kept_ite

theorem oQuad_kept {s₀ : State} (s : State) (n : Fin 4) (lvl : BitVec 3) (mk : Fin 3 → OryStamp) (hk : Kept s₀ s) :
    Kept s₀ (State.oQuad s n lvl mk) := by
  unfold State.oQuad
  with_reducible repeat' first | assumption | (intro _) | (refine kept_pair (by assumption) ?_) | apply oTakeLvl_kept | apply oQuadArrive_kept | apply oQuadIdx_kept | apply oQuadIllegal_kept | apply oQuadSettle_kept | apply kept_ite | dsimp only | split

theorem oBadPair_kept {s₀ : State} (s : State) (n : Fin 4) (x : OryStamp) (ampl : Nat) (hk : Kept s₀ s) :
    Kept s₀ (State.oBadPair s n x ampl) := by
  unfold State.oBadPair
  with_reducible repeat' first | assumption | (intro _) | apply rsat_kept | apply evt_kept | apply oFault_kept | apply modOry_kept | apply oSync_kept | apply oPush_kept | apply kept_ite

theorem oGoodPair_kept {s₀ : State} (s : State) (n : Fin 4) (x : OryStamp) (phi : Nat) (hk : Kept s₀ s) :
    Kept s₀ (State.oGoodPair s n x phi) := by
  unfold State.oGoodPair
  with_reducible repeat' first | assumption | (intro _) | apply modOry_kept | apply oEdge_kept | apply oSync_kept | apply oAmend_kept | apply oMove_kept | apply rsat_kept | apply evt_kept | apply oFault_kept | apply oRecEdge_kept | apply oBroadcast_kept | apply kept_ite

theorem oSincos_kept {s₀ : State} (s : State) (n : Fin 4) (rawS rawC : BitVec 14) (hk : Kept s₀ s) :
    Kept s₀ (State.oSincos s n rawS rawC) := by
  unfold State.oSincos
  with_reducible repeat' first | assumption | (intro _) | apply evt_kept | apply modOry_kept | apply oGoodPair_kept | apply oBadPair_kept | apply sbufPut_kept | apply kept_ite | dsimp only | split

theorem oMarker_kept {s₀ : State} (s : State) (n : Fin 4) (x0 : OryStamp) (hk : Kept s₀ s) :
    Kept s₀ (State.oMarker s n x0) := by
  unfold State.oMarker
  with_reducible repeat' first | assumption | (intro _) | (refine kept_pair (by assumption) ?_) | apply oStamped_kept | apply oEarly_kept | apply oAccepted_kept | apply oIndex_kept | apply modOry_kept | apply oBroadcast_kept | apply kept_ite

theorem oInputOf_kept {s₀ : State} (s : State) (n : Fin 4) (c : Fin 96) (level : Bool) (mk : Fin 3 → OryStamp) (hk : Kept s₀ s) :
    Kept s₀ (State.oInputOf s n c level mk) := by
  unfold State.oInputOf
  with_reducible repeat' first | assumption | (intro _) | apply oStamped_kept | apply oWheelEdge_kept | apply oWheelEnd_kept | apply oCamEdge_kept | apply oMarker_kept | apply oHall_kept | apply oQuad_kept | apply kept_ite | dsimp only | split

theorem oInputEdge_kept {s₀ : State} (s : State) (c : Fin 96) (level : Bool) (t : Nat) (step : Bool) (at' : Nat) (hk : Kept s₀ s) :
    Kept s₀ (State.oInputEdge s c level t step at') := by
  unfold State.oInputEdge
  with_reducible repeat' first | assumption | (intro _) | apply oInputOf_kept | apply step_kept | apply kept_ite | apply kept_foldl

theorem oStill_kept {s₀ : State} (s : State) (n : Fin 4) (hk : Kept s₀ s) :
    Kept s₀ (State.oStill s n) := by
  unfold State.oStill
  with_reducible repeat' first | assumption | (intro _) | apply modOry_kept | apply evt_kept | apply emitFl_kept | apply oSync_kept | apply oShow_kept | apply oShowPart_kept | apply kept_ite | dsimp only | split

theorem oCamLost_kept {s₀ : State} (s : State) (n : Fin 4) (hk : Kept s₀ s) :
    Kept s₀ (State.oCamLost s n) := by
  unfold State.oCamLost
  with_reducible repeat' first | assumption | (intro _) | apply modOry_kept | apply oShowPart_kept | apply evt_kept | apply oFault_kept | apply kept_ite

theorem oPwDue_kept {s₀ : State} (s : State) (n : Fin 4) (hk : Kept s₀ s) :
    Kept s₀ (State.oPwDue s n) := by
  unfold State.oPwDue
  with_reducible repeat' first | assumption | (intro _) | apply oPwDecide_kept | apply kept_ite | dsimp only | split

theorem oRestart_kept {s₀ : State} (s : State) (n : Fin 4) (cause : Nat) (hk : Kept s₀ s) :
    Kept s₀ (State.oRestart s n cause) := by
  unfold State.oRestart
  with_reducible repeat' first | assumption | (intro _) | apply modOry_kept | apply oSync_kept | apply oShow_kept | dsimp only | split

theorem oOff_kept {s₀ : State} (s : State) (n : Fin 4) (hk : Kept s₀ s) :
    Kept s₀ (State.oOff s n) := by
  unfold State.oOff
  with_reducible repeat' first | assumption | (intro _) | apply modOry_kept | apply oSync_kept | apply oShow_kept

theorem oCmdDone_kept {s₀ : State} (s : State) (n : Fin 4) (ok : Bool) (hk : Kept s₀ s) :
    Kept s₀ (State.oCmdDone s n ok) := by
  unfold State.oCmdDone
  with_reducible repeat' first | assumption | (intro _) | apply rput_kept | apply evt_kept | apply kept_ite

theorem oSetpos_kept {s₀ : State} (s : State) (n : Fin 4) (hk : Kept s₀ s) :
    Kept s₀ (State.oSetpos s n) := by
  unfold State.oSetpos
  with_reducible repeat' first | assumption | (intro _) | apply oCmdDone_kept | apply modOry_kept | apply oResync_kept | apply oSync_kept | apply oBroadcast_kept | apply kept_ite | dsimp only | split

theorem oReacq_kept {s₀ : State} (s : State) (n : Fin 4) (hk : Kept s₀ s) :
    Kept s₀ (State.oReacq s n) := by
  unfold State.oReacq
  with_reducible repeat' first | assumption | (intro _) | apply oRestart_kept | apply oCmdDone_kept | apply kept_ite

theorem oClrCnt_kept {s₀ : State} (s : State) (n : Fin 4) (hk : Kept s₀ s) :
    Kept s₀ (State.oClrCnt s n) := by
  unfold State.oClrCnt
  with_reducible repeat' first | assumption | (intro _) | apply setReg_kept | apply oCmdDone_kept

theorem oCommand_kept {s₀ : State} (s : State) (n : Fin 4) (op : Nat) (hk : Kept s₀ s) :
    Kept s₀ (State.oCommand s n op) := by
  unfold State.oCommand
  with_reducible repeat' first | assumption | (intro _) | apply oCmdDone_kept | apply oReacq_kept | apply oSetpos_kept | apply oClrCnt_kept | dsimp only | split

theorem oCmdPost_kept {s₀ : State} (s : State) (n : Fin 4) (op : Nat) (hk : Kept s₀ s) :
    Kept s₀ (State.oCmdPost s n op) := by
  unfold State.oCmdPost
  with_reducible repeat' first | assumption | (intro _) | apply modOry_kept

theorem oCmdRun_kept {s₀ : State} (s : State) (n : Fin 4) (hk : Kept s₀ s) :
    Kept s₀ (State.oCmdRun s n) := by
  unfold State.oCmdRun
  with_reducible repeat' first | assumption | (intro _) | apply oCommand_kept | apply oQuadSettle_kept | apply modOry_kept | apply kept_ite | apply kept_foldl

theorem oTickEnd_kept {s₀ : State} (s : State) (n : Fin 4) (hk : Kept s₀ s) :
    Kept s₀ (State.oTickEnd s n) := by
  unfold State.oTickEnd
  with_reducible repeat' first | assumption | (intro _) | apply oCamSettle_kept | apply oCmdRun_kept

theorem oTickStart_kept {s₀ : State} (s : State) (n : Fin 4) (hk : Kept s₀ s) :
    Kept s₀ (State.oTickStart s n) := by
  unfold State.oTickStart
  with_reducible repeat' first | assumption | (intro _) | apply oQuadDue_kept | apply oDeliver_kept

theorem convPush_kept {s₀ : State} (s : State) (k : Fin 2) (q : Conv) (hk : Kept s₀ s) :
    Kept s₀ (State.convPush s k q) := by
  unfold State.convPush
  with_reducible repeat' first | assumption | (intro _) | apply modConv_kept

theorem convRefuse_kept {s₀ : State} (s : State) (k : Fin 2) (thread : Option (Fin 8 × Fin 16)) (hk : Kept s₀ s) :
    Kept s₀ (State.convRefuse s k thread) := by
  unfold State.convRefuse
  with_reducible repeat' first | assumption | (intro _) | apply modThr_kept | apply rsat_kept | apply evt_kept | dsimp only | split

theorem convDrop_kept {s₀ : State} (s : State) (k : Fin 2) (hk : Kept s₀ s) :
    Kept s₀ (State.convDrop s k) := by
  unfold State.convDrop
  with_reducible repeat' first | assumption | (intro _) | apply modConv_kept | apply convRefuse_kept | apply kept_ite | dsimp only | split

theorem convClear_kept {s₀ : State} (s : State) (k : Fin 2) (m j : Nat) (h : Kept s₀ s) : Kept s₀ (State.convClear s k m j) := by
  induction j generalizing s with
  | zero => exact h
  | succ k ih =>
    unfold State.convClear
    with_reducible repeat' first | assumption | (intro _) | apply ih | apply convDrop_kept | apply kept_ite

theorem convSlot_kept {s₀ : State} (s : State) (k : Fin 2) (j due : Nat) (c : Nat) (hk : Kept s₀ s) :
    Kept s₀ (State.convSlot s k j due c) := by
  unfold State.convSlot
  with_reducible repeat' first | assumption | (intro _) | apply convPush_kept | apply convClear_kept | apply convRefuse_kept | apply kept_ite | apply kept_foldl

theorem convEvent_kept {s₀ : State} (s : State) (c : Fin 96) (ev due : Nat) (hk : Kept s₀ s) :
    Kept s₀ (State.convEvent s c ev due) := by
  unfold State.convEvent
  with_reducible repeat' first | assumption | (intro _) | apply convSlot_kept | apply kept_ite | apply kept_foldl

theorem convTick_kept {s₀ : State} (s : State) (k : Fin 2) (hk : Kept s₀ s) :
    Kept s₀ (State.convTick s k) := by
  unfold State.convTick
  with_reducible repeat' first | assumption | (intro _) | apply modConv_kept | apply kept_ite | dsimp only | split

theorem convHold_kept {s₀ : State} (s : State) (k : Fin 2) (hk : Kept s₀ s) :
    Kept s₀ (State.convHold s k) := by
  unfold State.convHold
  with_reducible repeat' first | assumption | (intro _) | apply modConv_kept | apply rsat_kept | apply kept_ite | dsimp only | split

theorem convResult_kept {s₀ : State} (s : State) (k : Fin 2) (raw : BitVec 12) (hk : Kept s₀ s) :
    Kept s₀ (State.convResult s k raw) := by
  unfold State.convResult
  with_reducible repeat' first | assumption | (intro _) | apply modConv_kept | apply setReg_kept | apply sbufPut_kept | apply emitFl_kept | apply kept_ite | apply kept_dite | dsimp only | split

theorem countNow_kept {s₀ : State} (s : State) (c : Fin 96) (src : Nat) (hk : Kept s₀ s) :
    Kept s₀ (State.countNow s c src) := by
  unfold State.countNow
  with_reducible repeat' first | assumption | (intro _) | apply modCh_kept | apply evt_kept | apply kept_ite

theorem count_kept {s₀ : State} (s : State) (c : Fin 96) (src : Nat) (hk : Kept s₀ s) :
    Kept s₀ (State.count s c src) := by
  unfold State.count
  with_reducible repeat' first | assumption | (intro _) | apply modCh_kept | apply countNow_kept

theorem newImage_kept {s₀ : State} (s : State) (c : Fin 96) (cause : BitVec 4) (t : Nat) (hk : Kept s₀ s) :
    Kept s₀ (State.newImage s c cause t) := by
  unfold State.newImage
  with_reducible repeat' first | assumption | (intro _) | apply modCh_kept

theorem latch_kept {s₀ : State} (s : State) (c0 : Fin 96) (cause : BitVec 4) (t : Nat) (hk : Kept s₀ s) :
    Kept s₀ (State.latch s c0 cause t) := by
  unfold State.latch
  with_reducible repeat' first | assumption | (intro _) | apply modCh_kept | apply newImage_kept | apply kept_ite | dsimp only | split

theorem flushImage_kept {s₀ : State} (s : State) (c : Fin 96) (hk : Kept s₀ s) :
    Kept s₀ (State.flushImage s c) := by
  unfold State.flushImage
  with_reducible repeat' first | assumption | (intro _) | apply modCh_kept | apply chEmitFl_kept | apply kept_ite | dsimp only | split

theorem capRecord_kept {s₀ : State} (s : State) (c : Fin 96) (k : Bool) (hk : Kept s₀ s) :
    Kept s₀ (State.capRecord s c k) := by
  unfold State.capRecord
  with_reducible repeat' first | assumption | (intro _) | apply step_kept | apply modCh_kept | apply emitFl_kept | apply kept_ite | dsimp only | split

theorem capStep_kept {s₀ : State} (s : State) (c : Fin 96) (k : Bool) (hk : Kept s₀ s) :
    Kept s₀ (State.capStep s c k) := by
  unfold State.capStep
  with_reducible repeat' first | assumption | (intro _) | apply capRecord_kept | apply modCh_kept | apply kept_ite | dsimp only | split

theorem capPump_kept {s₀ : State} (s : State) (c : Fin 96) (hk : Kept s₀ s) :
    Kept s₀ (State.capPump s c) := by
  unfold State.capPump
  with_reducible repeat' first | assumption | (intro _) | apply capStep_kept | apply kept_foldl

theorem capEnter_kept {s₀ : State} (s : State) (c : Fin 96) (k : Bool) (p : Cap) (x : CapT) (hk : Kept s₀ s) :
    Kept s₀ (State.capEnter s c k p x) := by
  unfold State.capEnter
  with_reducible repeat' first | assumption | (intro _) | apply modCh_kept | apply rsat_kept | apply evt_kept | apply kept_ite

theorem capEdge_kept {s₀ : State} (s : State) (c : Fin 96) (k rise : Bool) (t : Nat) (step : Bool) (at' : Nat) (hk : Kept s₀ s) :
    Kept s₀ (State.capEdge s c k rise t step at') := by
  unfold State.capEdge
  with_reducible repeat' first | assumption | (intro _) | apply rsat_kept | apply step_kept | apply capEnter_kept | apply capPump_kept | apply count_kept | apply latch_kept | apply convEvent_kept | apply wakeCh_kept | apply kept_ite

theorem capRead_kept {s₀ : State} (s : State) (c : Fin 96) (k g : Bool) (h : Kept s₀ s) : Kept s₀ (s.capRead c k g).2.2 := by
  unfold State.capRead
  dsimp only
  split
  · exact modCh_kept _ _ _ h
  · split
    · exact h
    · dsimp only
      split
      · exact capPump_kept _ _ (modCh_kept _ _ _ h)
      · exact h

theorem ownPush_kept {s₀ : State} (s : State) (c : Fin 96) (l : Bool) (t : Int) (hk : Kept s₀ s) :
    Kept s₀ (State.ownPush s c l t) := by
  unfold State.ownPush
  with_reducible repeat' first | assumption | (intro _) | apply modCh_kept

theorem pinEcho_kept {s₀ : State} (s old : State) (c : Fin 96) (t : Int) (hk : Kept s₀ s) :
    Kept s₀ (State.pinEcho s old c t) := by
  unfold State.pinEcho
  with_reducible repeat' first | assumption | (intro _) | apply ownPush_kept | apply kept_ite | dsimp only | split

theorem modCmp_kept {s₀ : State} (s : State) (c : Fin 96) (u : Bool) (f : Cmp → Cmp) (hk : Kept s₀ s) :
    Kept s₀ (State.modCmp s c u f) := by
  unfold State.modCmp
  with_reducible repeat' first | assumption | (intro _) | apply modCh_kept

theorem pinMoved_kept {s₀ : State} (s : State) (c : Fin 96) (tp : Int) (hk : Kept s₀ s) :
    Kept s₀ (State.pinMoved s c tp) := by
  unfold State.pinMoved
  with_reducible repeat' first | assumption | (intro _) | apply modCh_kept

theorem fireCore_kept {s₀ : State} (s : State) (c : Fin 96) (u : Bool) (tb : Int) (d : Nat) (step quiet : Bool) (hk : Kept s₀ s) :
    Kept s₀ (State.fireCore s c u tb d step quiet) := by
  unfold State.fireCore
  with_reducible repeat' first | assumption | (intro _) | apply pinMoved_kept | apply modCh_kept | apply pinEcho_kept | apply rwrap_kept | apply rput_kept | apply setReg_kept | apply evt_kept | apply rsat_kept | apply chEmit_kept | apply step_kept | apply count_kept | apply convEvent_kept | apply wakeCh_kept | apply kept_ite

theorem fireTimely_kept {s₀ : State} (s : State) (c : Fin 96) (u : Bool) (hk : Kept s₀ s) :
    Kept s₀ (State.fireTimely s c u) := by
  unfold State.fireTimely
  with_reducible repeat' first | assumption | (intro _) | apply fireCore_kept

theorem fireLate_kept {s₀ : State} (s : State) (c : Fin 96) (u : Bool) (step quiet : Bool) (hk : Kept s₀ s) :
    Kept s₀ (State.fireLate s c u step quiet) := by
  unfold State.fireLate
  with_reducible repeat' first | assumption | (intro _) | apply fireCore_kept

theorem loadCmp_kept {s₀ : State} (s : State) (c : Fin 96) (u : Bool) (target act : Nat) (recEn : Bool) (tag : Nat) (fifo wake : Bool) (eph : Option Nat) (hk : Kept s₀ s) :
    Kept s₀ (State.loadCmp s c u target act recEn tag fifo wake eph) := by
  unfold State.loadCmp
  with_reducible repeat' first | assumption | (intro _) | apply modCmp_kept

theorem disarmCmp_kept {s₀ : State} (s : State) (c : Fin 96) (u : Bool) (hk : Kept s₀ s) :
    Kept s₀ (State.disarmCmp s c u) := by
  unfold State.disarmCmp
  with_reducible repeat' first | assumption | (intro _) | apply modCmp_kept

theorem modFifo_kept {s₀ : State} (s : State) (c : Fin 96) (g : Fifo → Fifo) (hk : Kept s₀ s) :
    Kept s₀ (State.modFifo s c g) := by
  unfold State.modFifo
  with_reducible repeat' first | assumption | (intro _) | apply modCh_kept

theorem fifoSet_kept {s₀ : State} (s : State) (c : Fin 96) (x : FifoState) (hk : Kept s₀ s) :
    Kept s₀ (State.fifoSet s c x) := by
  unfold State.fifoSet
  with_reducible repeat' first | assumption | (intro _) | apply modFifo_kept | apply evt_kept | apply chEmit_kept | apply wakeCh_kept | apply kept_ite

theorem fifoErr_kept {s₀ : State} (s : State) (c : Fin 96) (code : Nat) (hk : Kept s₀ s) :
    Kept s₀ (State.fifoErr s c code) := by
  unfold State.fifoErr
  with_reducible repeat' first | assumption | (intro _) | apply rput_kept | apply evt_kept

theorem fifoHalt_kept {s₀ : State} (s : State) (c : Fin 96) (code : Nat) (hk : Kept s₀ s) :
    Kept s₀ (State.fifoHalt s c code) := by
  unfold State.fifoHalt
  with_reducible repeat' first | assumption | (intro _) | apply fifoErr_kept | apply fifoSet_kept

theorem fifoTrim_kept {s₀ : State} (s : State) (c : Fin 96) (hk : Kept s₀ s) :
    Kept s₀ (State.fifoTrim s c) := by
  unfold State.fifoTrim
  with_reducible repeat' first | assumption | (intro _) | apply modFifo_kept | apply evt_kept | apply wakeCh_kept | apply wakeSpace_kept | apply kept_ite

theorem fifoFired_kept {s₀ : State} (s : State) (c : Fin 96) (u : Nat) (late : Bool) (pin : Int) (hk : Kept s₀ s) :
    Kept s₀ (State.fifoFired s c u late pin) := by
  unfold State.fifoFired
  with_reducible repeat' first | assumption | (intro _) | apply modFifo_kept | apply fifoTrim_kept | apply wake_kept | apply wakeCh_kept | apply kept_ite | dsimp only | split

theorem fifoDoSkip_kept {s₀ : State} (s : State) (c : Fin 96) (p : FifoPos) (d : Int) (hk : Kept s₀ s) :
    Kept s₀ (State.fifoDoSkip s c p d) := by
  unfold State.fifoDoSkip
  with_reducible repeat' first | assumption | (intro _) | apply modFifo_kept | apply fifoTrim_kept | apply chEmit_kept | apply modCmp_kept | apply fireLate_kept | apply kept_ite

theorem fifoFill_kept {s₀ : State} (k : Nat) (s : State) (c : Fin 96) (under : Bool) (ds : List Int) (h : Kept s₀ s) : Kept s₀ (State.fifoFill k s c under ds) := by
  induction k generalizing s c under ds with
  | zero => exact h
  | succ k ih =>
    unfold State.fifoFill
    with_reducible repeat' first | assumption | (intro _) | apply ih | apply fifoSet_kept | apply evt_kept | apply fifoHalt_kept | apply fifoDoSkip_kept | apply wake_kept | apply modCmp_kept | apply modFifo_kept | apply fireLate_kept | apply fifoFired_kept | apply kept_ite | dsimp only | split

theorem ephStore_kept {s₀ : State} (s : State) (e : Fin 8) (x : EphEnt) (hk : Kept s₀ s) :
    Kept s₀ (State.ephStore s e x) := by
  unfold State.ephStore
  with_reducible repeat' first | assumption | (intro _) | apply sramWr_kept

theorem ephMod_kept {s₀ : State} (s : State) (e : Fin 8) (slot : Nat) (f : EphEnt → EphEnt) (hk : Kept s₀ s) :
    Kept s₀ (State.ephMod s e slot f) := by
  unfold State.ephMod
  with_reducible repeat' first | assumption | (intro _) | apply modGaf_kept | apply ephStore_kept | apply kept_ite | dsimp only | split

theorem ephDrop_kept {s₀ : State} (s : State) (e : Fin 8) (slot : Nat) (h : Kept s₀ s) : Kept s₀ (s.ephDrop e slot) := by
  have h2 : ∀ a b w, Kept s₀ a → Kept s₀ { a with sram := memWrW a.sram b w } := fun a b w ha => kept_sram (s := a) ha (memWrW_wf _ _ _)
  unfold State.ephDrop
  dsimp only
  split
  · exact wakeSpace_kept _ _ _ (h2 _ _ _ (modGaf_kept _ _ _ h))
  · exact h2 _ _ _ (modGaf_kept _ _ _ h)

theorem latObserve_kept {s₀ : State} (s : State) (e : Fin 8) (woke : Option Nat) (hk : Kept s₀ s) :
    Kept s₀ (State.latObserve s e woke) := by
  unfold State.latObserve
  with_reducible repeat' first | assumption | (intro _) | apply rput_kept | apply modGaf_kept | dsimp only | split

theorem ephFired_kept {s₀ : State} (s : State) (c : Fin 96) (slot : Option Nat) (late : Bool) (hk : Kept s₀ s) :
    Kept s₀ (State.ephFired s c slot late) := by
  unfold State.ephFired
  with_reducible repeat' first | assumption | (intro _) | apply ephDrop_kept | apply rwrap_kept | apply kept_ite | dsimp only | split

theorem fireA_kept {s₀ : State} (s : State) (c : Fin 96) (hk : Kept s₀ s) :
    Kept s₀ (State.fireA s c) := by
  unfold State.fireA
  with_reducible repeat' first | assumption | (intro _) | apply fireTimely_kept | apply fifoFill_kept | apply fifoFired_kept | apply ephFired_kept | apply kept_ite

theorem ephCommit_kept {s₀ : State} (k : Nat) (s : State) (c : Fin 96) (u : Bool) (h : Kept s₀ s) : Kept s₀ (State.ephCommit k s c u) := by
  induction k generalizing s c u with
  | zero => exact h
  | succ k ih =>
    unfold State.ephCommit
    with_reducible repeat' first | assumption | (intro _) | apply ih | apply fireA_kept | apply fireTimely_kept | apply ephFired_kept | apply ephMod_kept | apply latObserve_kept | apply loadCmp_kept | apply fireLate_kept | apply kept_ite | dsimp only | split

theorem afterFire_kept {s₀ : State} (s : State) (c : Fin 96) (u : Bool) (y : Cmp) (late : Bool) (hk : Kept s₀ s) :
    Kept s₀ (State.afterFire s c u y late) := by
  unfold State.afterFire
  with_reducible repeat' first | assumption | (intro _) | apply fifoFired_kept | apply ephFired_kept | apply fifoFill_kept | apply ephCommit_kept | apply kept_ite

theorem cmpReachOne_kept {s₀ : State} (s : State) (c : Fin 96) (u : Bool) (hk : Kept s₀ s) :
    Kept s₀ (State.cmpReachOne s c u) := by
  unfold State.cmpReachOne
  with_reducible repeat' first | assumption | (intro _) | apply modCmp_kept | apply fireTimely_kept | apply afterFire_kept | apply kept_ite

theorem cmpReach_kept {s₀ : State} (s : State) (c : Fin 96) (u : Bool) (hk : Kept s₀ s) :
    Kept s₀ (State.cmpReach s c u) := by
  unfold State.cmpReach
  with_reducible repeat' first | assumption | (intro _) | apply cmpReachOne_kept | apply kept_ite

theorem cmpLate_kept {s₀ : State} (s : State) (c : Fin 96) (u : Bool) (step : Bool) (hk : Kept s₀ s) :
    Kept s₀ (State.cmpLate s c u step) := by
  unfold State.cmpLate
  with_reducible repeat' first | assumption | (intro _) | apply cmpReachOne_kept | apply fireLate_kept | apply step_kept | apply afterFire_kept | apply kept_ite

theorem cmpArm_kept {s₀ : State} (s : State) (c : Fin 96) (u : Bool) (target act : Nat) (recEn : Bool) (tag : Nat) (hk : Kept s₀ s) :
    Kept s₀ (State.cmpArm s c u target act recEn tag) := by
  unfold State.cmpArm
  with_reducible repeat' first | assumption | (intro _) | apply cmpReach_kept | apply loadCmp_kept | apply cmpLate_kept | apply kept_ite

theorem cmpDisarm_kept {s₀ : State} (s : State) (c : Fin 96) (u : Bool) (hk : Kept s₀ s) :
    Kept s₀ (State.cmpDisarm s c u) := by
  unfold State.cmpDisarm
  with_reducible repeat' first | assumption | (intro _) | apply cmpReach_kept | apply disarmCmp_kept | apply kept_ite

theorem cmpRejudge_kept {s₀ : State} (s : State) (c : Fin 96) (u step : Bool) (hk : Kept s₀ s) :
    Kept s₀ (State.cmpRejudge s c u step) := by
  unfold State.cmpRejudge
  with_reducible repeat' first | assumption | (intro _) | apply modCmp_kept | apply cmpLate_kept | apply step_kept | apply kept_ite

theorem fifoStep_kept {s₀ : State} (s : State) (c : Fin 96) (hk : Kept s₀ s) :
    Kept s₀ (State.fifoStep s c) := by
  unfold State.fifoStep
  with_reducible repeat' first | assumption | (intro _) | apply cmpRejudge_kept | apply disarmCmp_kept | apply modFifo_kept | apply fifoFill_kept | apply kept_ite | apply kept_foldl | dsimp only | split

theorem stepChannel_kept {s₀ : State} (s : State) (c : Fin 96) (hk : Kept s₀ s) :
    Kept s₀ (State.stepChannel s c) := by
  unfold State.stepChannel
  with_reducible repeat' first | assumption | (intro _) | apply cmpRejudge_kept | apply fifoStep_kept | apply kept_ite

theorem stepRejudge_kept {s₀ : State} (s : State) (hk : Kept s₀ s) :
    Kept s₀ (State.stepRejudge s) := by
  unfold State.stepRejudge
  with_reducible repeat' first | assumption | (intro _) | apply stepChannel_kept | apply kept_foldl

theorem cmpRetime_kept {s₀ : State} (s : State) (c : Fin 96) (oldTrc : Int) (hk : Kept s₀ s) :
    Kept s₀ (State.cmpRetime s c oldTrc) := by
  unfold State.cmpRetime
  with_reducible repeat' first | assumption | (intro _) | apply modCh_kept | apply cmpRejudge_kept

theorem relFire_kept {s₀ : State} (s : State) (c : Fin 96) (dueA dueB : Bool) (hk : Kept s₀ s) :
    Kept s₀ (State.relFire s c dueA dueB) := by
  unfold State.relFire
  with_reducible repeat' first | assumption | (intro _) | apply fireLate_kept | apply kept_ite

theorem relPin_kept {s₀ : State} (s : State) (c : Fin 96) (ol : Bool) (hk : Kept s₀ s) :
    Kept s₀ (State.relPin s c ol) := by
  unfold State.relPin
  with_reducible repeat' first | assumption | (intro _) | apply pinMoved_kept | apply count_kept | apply rsat_kept | apply evt_kept | apply kept_ite

theorem relWait_kept {s₀ : State} (s : State) (c : Fin 96) (u : Bool) (y : Cmp) (hk : Kept s₀ s) :
    Kept s₀ (State.relWait s c u y) := by
  unfold State.relWait
  with_reducible repeat' first | assumption | (intro _) | apply modCmp_kept | apply cmpReachOne_kept | apply kept_ite

theorem holdRelease_kept {s₀ : State} (s : State) (c : Fin 96) (hk : Kept s₀ s) :
    Kept s₀ (State.holdRelease s c) := by
  unfold State.holdRelease
  with_reducible repeat' first | assumption | (intro _) | apply relFire_kept | apply relPin_kept | apply afterFire_kept | apply fifoFill_kept | apply relWait_kept | apply kept_ite

theorem holdMoved_kept {s₀ : State} (s old : State) (c : Fin 96) (hk : Kept s₀ s) :
    Kept s₀ (State.holdMoved s old c) := by
  unfold State.holdMoved
  with_reducible repeat' first | assumption | (intro _) | apply modCh_kept | apply pinEcho_kept | apply holdRelease_kept | apply kept_ite

theorem holdChange_kept {s₀ : State} (s : State) (c : Fin 96) (f : State → State) (hf : ∀ a, Kept s₀ a → Kept s₀ (f a)) (hk : Kept s₀ s) :
    Kept s₀ (State.holdChange s c f) := by
  unfold State.holdChange
  with_reducible repeat' first | assumption | (intro _) | apply hf | apply holdMoved_kept

theorem fifoRefuse_kept {s₀ : State} (s : State) (c : Fin 96) (code : Nat) (hk : Kept s₀ s) :
    Kept s₀ (State.fifoRefuse s c code) := by
  unfold State.fifoRefuse
  with_reducible repeat' first | assumption | (intro _) | apply evt_kept | apply fifoErr_kept | apply kept_ite

theorem fifoAppend_kept {s₀ : State} (s : State) (c : Fin 96) (e : FifoEnt) (hk : Kept s₀ s) :
    Kept s₀ (State.fifoAppend s c e) := by
  unfold State.fifoAppend
  with_reducible repeat' first | assumption | (intro _) | apply modFifo_kept | apply fifoFill_kept | apply fifoSet_kept | apply kept_ite

theorem fifoPush_kept {s₀ : State} (s : State) (c : Fin 96) (e : FifoEnt) (hk : Kept s₀ s) :
    Kept s₀ (State.fifoPush s c e) := by
  unfold State.fifoPush
  with_reducible repeat' first | assumption | (intro _) | apply fifoRefuse_kept | apply fifoAppend_kept | dsimp only | split

theorem fifoBegin_kept {s₀ : State} (s : State) (c : Fin 96) (hk : Kept s₀ s) :
    Kept s₀ (State.fifoBegin s c) := by
  unfold State.fifoBegin
  with_reducible repeat' first | assumption | (intro _) | apply modFifo_kept | apply fifoFill_kept | apply fifoSet_kept

theorem fifoStart_kept {s₀ : State} (s : State) (c : Fin 96) (waits : Bool) (hk : Kept s₀ s) :
    Kept s₀ ((State.fifoStart s c waits).1) := by
  unfold State.fifoStart
  with_reducible repeat' first | assumption | (intro _) | (refine kept_pair (by assumption) ?_) | apply kept_ite_fst | apply fifoErr_kept | apply rput_kept | apply fifoSet_kept | apply fifoBegin_kept

theorem fifoUnarm_kept {s₀ : State} (s : State) (c : Fin 96) (hk : Kept s₀ s) :
    Kept s₀ (State.fifoUnarm s c) := by
  unfold State.fifoUnarm
  with_reducible repeat' first | assumption | (intro _) | apply fireTimely_kept | apply fifoFired_kept | apply disarmCmp_kept | apply modFifo_kept | apply kept_ite

theorem stopCmp_kept {s₀ : State} (s : State) (c : Fin 96) (u : Bool) (hk : Kept s₀ s) :
    Kept s₀ (State.stopCmp s c u) := by
  unfold State.stopCmp
  with_reducible repeat' first | assumption | (intro _) | apply fireTimely_kept | apply ephFired_kept | apply ephMod_kept | apply disarmCmp_kept | apply kept_ite | dsimp only | split

theorem fifoStop_kept {s₀ : State} (s : State) (c : Fin 96) (hk : Kept s₀ s) :
    Kept s₀ (State.fifoStop s c) := by
  unfold State.fifoStop
  with_reducible repeat' first | assumption | (intro _) | apply fifoUnarm_kept | apply stopCmp_kept | apply fifoSet_kept

theorem noteHostStop_kept {s₀ : State} (s : State) (c : Fin 96) (hk : Kept s₀ s) :
    Kept s₀ (State.noteHostStop s c) := by
  unfold State.noteHostStop
  with_reducible repeat' first | assumption | (intro _) | apply modFifo_kept

theorem fifoFlush_kept {s₀ : State} (s : State) (c : Fin 96) (hk : Kept s₀ s) :
    Kept s₀ (State.fifoFlush s c) := by
  unfold State.fifoFlush
  with_reducible repeat' first | assumption | (intro _) | apply fifoStop_kept | apply modFifo_kept | apply rput_kept | apply wakeSpace_kept | apply kept_ite

theorem fifoBreak_kept {s₀ : State} (s : State) (c : Fin 96) (hk : Kept s₀ s) :
    Kept s₀ (State.fifoBreak s c) := by
  unfold State.fifoBreak
  with_reducible repeat' first | assumption | (intro _) | apply modFifo_kept | apply disarmCmp_kept | apply modCmp_kept | apply fifoFill_kept | apply kept_ite | apply kept_foldl | dsimp only | split

theorem ephPurged_kept {s₀ : State} (s : State) (e : Fin 8) (chan cause n : Nat) (hk : Kept s₀ s) :
    Kept s₀ (State.ephPurged s e chan cause n) := by
  unfold State.ephPurged
  with_reducible repeat' first | assumption | (intro _) | apply emit_kept | apply evt_kept | apply kept_ite

theorem ephRemove_kept {s₀ : State} (s : State) (e : Fin 8) (p : EphEnt → Bool) (hk : Kept s₀ s) :
    Kept s₀ (State.ephRemove s e p) := by
  unfold State.ephRemove
  with_reducible repeat' first | assumption | (intro _) | apply ephDrop_kept | apply kept_foldl

theorem ephRefused_kept {s₀ : State} (s : State) (e : Fin 8) (n : Nat) (hk : Kept s₀ s) :
    Kept s₀ (State.ephRefused s e n) := by
  unfold State.ephRefused
  with_reducible repeat' first | assumption | (intro _) | apply rsat_kept | apply modThr_kept

theorem ownChange_kept {s₀ : State} (s : State) (c : Fin 96) (old new : Nat) (hk : Kept s₀ s) :
    Kept s₀ (State.ownChange s c old new) := by
  unfold State.ownChange
  with_reducible repeat' first | assumption | (intro _) | apply disarmCmp_kept | apply modFifo_kept | apply fifoSet_kept | apply ephRefused_kept | apply ephRemove_kept | apply ephPurged_kept | apply ephMod_kept | apply kept_foldl

theorem spnRefuse_kept {s₀ : State} (s : State) (code : Nat) (hk : Kept s₀ s) :
    Kept s₀ (State.spnRefuse s code) := by
  unfold State.spnRefuse
  with_reducible repeat' first | assumption | (intro _) | apply rput_kept | apply evt_kept

theorem apPass_kept {s₀ : State} (s : State) (pre : Nat) (hk : Kept s₀ s) :
    Kept s₀ (State.apPass s pre) := by
  unfold State.apPass
  with_reducible repeat' first | assumption | (intro _) | (simp only [kept_mk]; apply kept_q) | apply kept_ite | apply kept_foldl

theorem stepBy_kept {s₀ : State} (s : State) (a : Int) (isSet : Bool) (hk : Kept s₀ s) :
    Kept s₀ (State.stepBy s a isSet) := by
  unfold State.stepBy
  with_reducible repeat' first | assumption | (intro _) | apply modSpine_kept | apply rput_kept | apply emit_kept | apply stepRejudge_kept | apply apPass_kept | apply lhPass_kept | apply spnRefuse_kept | apply kept_ite

theorem slewReport_kept {s₀ : State} (s : State) (shift : Int) (aborted : Bool) (t : Nat) (hk : Kept s₀ s) :
    Kept s₀ (State.slewReport s shift aborted t) := by
  unfold State.slewReport
  with_reducible repeat' first | assumption | (intro _) | apply modSpine_kept | apply rput_kept | apply emit_kept | apply kept_ite

theorem slewFinish_kept {s₀ : State} (s : State) (hk : Kept s₀ s) :
    Kept s₀ (State.slewFinish s) := by
  unfold State.slewFinish
  with_reducible repeat' first | assumption | (intro _) | apply slewReport_kept | dsimp only | split

theorem slewStop_kept {s₀ : State} (s : State) (hk : Kept s₀ s) :
    Kept s₀ (State.slewStop s) := by
  unfold State.slewStop
  with_reducible repeat' first | assumption | (intro _) | apply slewReport_kept | dsimp only | split

theorem slewBegin_kept {s₀ : State} (s : State) (a : Int) (dur : Nat) (hk : Kept s₀ s) :
    Kept s₀ (State.slewBegin s a dur) := by
  unfold State.slewBegin
  with_reducible repeat' first | assumption | (intro _) | apply spnRefuse_kept | apply slewStop_kept | apply modSpine_kept | apply kept_ite

theorem spnRun_kept {s₀ : State} (s : State) (q : SpnCmd) (hk : Kept s₀ s) :
    Kept s₀ (State.spnRun s q) := by
  unfold State.spnRun
  with_reducible repeat' first | assumption | (intro _) | apply stepBy_kept | apply step_kept | apply slewBegin_kept | apply spnRefuse_kept | apply slewStop_kept | dsimp only | split

theorem spnCommand_kept {s₀ : State} (s : State) (op : Option SpnOp) (code : Nat) (waits : Bool) (ag : Nat) (hk : Kept s₀ s) :
    Kept s₀ (State.spnCommand s op code waits ag) := by
  unfold State.spnCommand
  with_reducible repeat' first | assumption | (intro _) | apply rput_kept | apply spnRefuse_kept | apply modSpine_kept | apply spnRun_kept | apply kept_ite | dsimp only | split

theorem rateWrite_kept {s₀ : State} (s : State) (v : Word) (hk : Kept s₀ s) :
    Kept s₀ (State.rateWrite s v) := by
  unfold State.rateWrite
  with_reducible repeat' first | assumption | (intro _) | apply spnRefuse_kept | apply setReg_kept | apply kept_ite

theorem spnStrobe_kept {s₀ : State} (s : State) (g : Nat) (hk : Kept s₀ s) :
    Kept s₀ (State.spnStrobe s g) := by
  unfold State.spnStrobe
  with_reducible repeat' first | assumption | (intro _) | apply modSpine_kept | apply spnRun_kept | apply kept_ite | dsimp only | split

theorem spineAdvance_kept {s₀ : State} (s : State) (f : Nat) (hk : Kept s₀ s) :
    Kept s₀ (State.spineAdvance s f) := by
  unfold State.spineAdvance
  with_reducible repeat' first | assumption | (intro _) | apply evt_kept | apply modSpine_kept | apply kept_ite

theorem refRecord_kept {s₀ : State} (s : State) (hk : Kept s₀ s) :
    Kept s₀ (State.refRecord s) := by
  unfold State.refRecord
  with_reducible repeat' first | assumption | (intro _) | apply emit_kept

theorem lockLost_kept {s₀ : State} (s : State) (f : Fld) (hk : Kept s₀ s) :
    Kept s₀ (State.lockLost s f) := by
  unfold State.lockLost
  with_reducible repeat' first | assumption | (intro _) | apply rput_kept | apply evt_kept | apply rsat_kept | apply refRecord_kept

theorem pllEvent_kept {s₀ : State} (s : State) (f : State → State) (hf : ∀ a, Kept s₀ a → Kept s₀ (f a)) (hk : Kept s₀ s) :
    KeptO s₀ (State.pllEvent s f) := by
  unfold State.pllEvent
  with_reducible repeat' first | assumption | (intro _) | apply hf | apply kept_ite | apply kept_next

theorem pllLock_kept {s₀ : State} (s : State) (hk : Kept s₀ s) :
    Kept s₀ (State.pllLock s) := by
  unfold State.pllLock
  with_reducible repeat' first | assumption | (intro _) | apply modSpine_kept | apply rput_kept | apply kept_ite

theorem refLost_kept {s₀ : State} (s : State) (hk : Kept s₀ s) :
    Kept s₀ (State.refLost s) := by
  unfold State.refLost
  with_reducible repeat' first | assumption | (intro _) | apply modSpine_kept | apply lockLost_kept | apply kept_ite

theorem relock_kept {s₀ : State} (s : State) (hk : Kept s₀ s) :
    Kept s₀ (State.relock s) := by
  unfold State.relock
  with_reducible repeat' first | assumption | (intro _) | apply modSpine_kept | apply rput_kept | apply rsat_kept | apply refRecord_kept | apply kept_ite

theorem ppsPulse_kept {s₀ : State} (s : State) (hk : Kept s₀ s) :
    Kept s₀ (State.ppsPulse s) := by
  unfold State.ppsPulse
  with_reducible repeat' first | assumption | (intro _) | apply modSpine_kept | apply kept_ite

theorem ppsPulseEnd_kept {s₀ : State} (s : State) (hk : Kept s₀ s) :
    Kept s₀ (State.ppsPulseEnd s) := by
  unfold State.ppsPulseEnd
  with_reducible repeat' first | assumption | (intro _) | apply modSpine_kept | apply kept_ite | dsimp only | split

theorem ppsCapture_kept {s₀ : State} (s : State) (falling : Bool) (pos : Fin 64) (hk : Kept s₀ s) :
    Kept s₀ (State.ppsCapture s falling pos) := by
  unfold State.ppsCapture
  with_reducible repeat' first | assumption | (intro _) | apply modSpine_kept | apply rwrap_kept | apply evt_kept | apply emit_kept | apply kept_ite

theorem execPllLock_kept {s₀ : State} (s : State) (hk : Kept s₀ s) :
    KeptO s₀ (execPllLock s) := by
  unfold execPllLock
  with_reducible repeat' first | assumption | (intro _) | apply pllEvent_kept | apply pllLock_kept

theorem execRefLost_kept {s₀ : State} (s : State) (hk : Kept s₀ s) :
    KeptO s₀ (execRefLost s) := by
  unfold execRefLost
  with_reducible repeat' first | assumption | (intro _) | apply pllEvent_kept | apply refLost_kept

theorem execPllUnlock_kept {s₀ : State} (s : State) (hk : Kept s₀ s) :
    KeptO s₀ (execPllUnlock s) := by
  unfold execPllUnlock
  with_reducible repeat' first | assumption | (intro _) | apply pllEvent_kept | apply lockLost_kept | apply kept_ite

theorem execRelock_kept {s₀ : State} (s : State) (hk : Kept s₀ s) :
    KeptO s₀ (execRelock s) := by
  unfold execRelock
  with_reducible repeat' first | assumption | (intro _) | apply pllEvent_kept | apply relock_kept

theorem execSpnRateWrite_kept {s₀ : State} (p : Path) (v : Word) (s : State) (hk : Kept s₀ s) :
    KeptO s₀ (execSpnRateWrite p v s) := by
  unfold execSpnRateWrite
  with_reducible repeat' first | assumption | (intro _) | apply hostAct_kept | apply rateWrite_kept

theorem execSpineNop_kept {s₀ : State} (p : Path) (waits : Bool) (ag : Fin 8) (s : State) (hk : Kept s₀ s) :
    KeptO s₀ (execSpineNop p waits ag s) := by
  unfold execSpineNop
  with_reducible repeat' first | assumption | (intro _) | apply hostAct_kept | apply spnCommand_kept

theorem execSpineSlew_kept {s₀ : State} (p : Path) (waits : Bool) (ag : Fin 8) (s : State) (hk : Kept s₀ s) :
    KeptO s₀ (execSpineSlew p waits ag s) := by
  unfold execSpineSlew
  with_reducible repeat' first | assumption | (intro _) | apply hostAct_kept | apply spnCommand_kept

theorem execSlewAbort_kept {s₀ : State} (p : Path) (waits : Bool) (ag : Fin 8) (s : State) (hk : Kept s₀ s) :
    KeptO s₀ (execSlewAbort p waits ag s) := by
  unfold execSlewAbort
  with_reducible repeat' first | assumption | (intro _) | apply hostAct_kept | apply spnCommand_kept

theorem execSpnCmdIllegal_kept {s₀ : State} (p : Path) (op : Fin 3) (waits : Bool) (ag : Fin 8) (s : State) (hk : Kept s₀ s) :
    KeptO s₀ (execSpnCmdIllegal p op waits ag s) := by
  unfold execSpnCmdIllegal
  with_reducible repeat' first | assumption | (intro _) | apply hostAct_kept | apply spnCommand_kept

theorem execSlewDone_kept {s₀ : State} (s : State) (hk : Kept s₀ s) :
    KeptO s₀ (execSlewDone s) := by
  unfold execSlewDone
  with_reducible repeat' first | assumption | (intro _) | apply event_kept | apply slewFinish_kept

theorem execPpsPulse_kept {s₀ : State} (s : State) (hk : Kept s₀ s) :
    KeptO s₀ (execPpsPulse s) := by
  unfold execPpsPulse
  with_reducible repeat' first | assumption | (intro _) | apply event_kept | apply ppsPulse_kept

theorem execPpsPulseEnd_kept {s₀ : State} (s : State) (hk : Kept s₀ s) :
    KeptO s₀ (execPpsPulseEnd s) := by
  unfold execPpsPulseEnd
  with_reducible repeat' first | assumption | (intro _) | apply event_kept | apply ppsPulseEnd_kept

theorem execPpsCapture_kept {s₀ : State} (falling : Bool) (pos : Fin 64) (s : State) (hk : Kept s₀ s) :
    KeptO s₀ (execPpsCapture falling pos s) := by
  unfold execPpsCapture
  with_reducible repeat' first | assumption | (intro _) | apply event_kept | apply ppsCapture_kept

end Sys2Proof.Machine
end

