-- ==== Sys2Proof/Laws/KeptGaffer.lean ====
section
/-!
SUPPORT. What every operation keeps (Operands, Flags, Gaffer, Microword, Channel, GafferCmd, Locks, OrreryCmd, Apply, Tick).
-/
namespace Sys2Proof.Machine
open Sys2Proof

theorem wrSpec_kept {s₀ : State} (s : State) (e : Fin 8) (n : Fin 16) (x v : Nat) (hk : Kept s₀ s) :
    Kept s₀ (State.wrSpec s e n x v) := by
  unfold State.wrSpec
  with_reducible repeat' first | assumption | (intro _) | apply modThr_kept | apply modGaf_kept | apply kept_ite | apply kept_dite

theorem thStart_kept {s₀ : State} (s : State) (e : Fin 8) (n : Fin 16) (pc : BitVec 11) (hk : Kept s₀ s) :
    Kept s₀ (State.thStart s e n pc) := by
  unfold State.thStart
  with_reducible repeat' first | assumption | (intro _) | apply modThr_kept

theorem autostart_kept {s₀ : State} (s : State) (e : Fin 8) (hk : Kept s₀ s) :
    Kept s₀ (State.autostart s e) := by
  unfold State.autostart
  with_reducible repeat' first | assumption | (intro _) | apply thStart_kept | apply modGaf_kept | apply kept_ite | apply kept_foldl

theorem geCmdStat_kept {s₀ : State} (s : State) (e : Fin 8) (n : Fin 16) (res : Nat) (hk : Kept s₀ s) :
    Kept s₀ (State.geCmdStat s e n res) := by
  unfold State.geCmdStat
  with_reducible repeat' first | assumption | (intro _) | apply rput_kept

theorem haltDone_kept {s₀ : State} (s : State) (e : Fin 8) (n : Fin 16) (hk : Kept s₀ s) :
    Kept s₀ (State.haltDone s e n) := by
  unfold State.haltDone
  with_reducible repeat' first | assumption | (intro _) | apply rput_kept | apply kept_ite

theorem geFree_kept {s₀ : State} (s : State) (e : Fin 8) (hk : Kept s₀ s) :
    Kept s₀ (State.geFree s e) := by
  unfold State.geFree
  with_reducible repeat' first | assumption | (intro _) | apply modGaf_kept

theorem preemptPoint_kept {s₀ : State} (s : State) (e : Fin 8) (n : Fin 16) (hk : Kept s₀ s) :
    Kept s₀ (State.preemptPoint s e n) := by
  unfold State.preemptPoint
  with_reducible repeat' first | assumption | (intro _) | apply modThr_kept | apply geFree_kept | apply haltDone_kept | apply kept_ite

theorem parkThread_kept {s₀ : State} (s : State) (e : Fin 8) (n : Fin 16) (why : Park) (hk : Kept s₀ s) :
    Kept s₀ (State.parkThread s e n why) := by
  unfold State.parkThread
  with_reducible repeat' first | assumption | (intro _) | apply modThr_kept | apply geFree_kept | apply haltDone_kept | apply kept_ite

theorem faultPurge_kept {s₀ : State} (s : State) (e : Fin 8) (n : Fin 16) (hk : Kept s₀ s) :
    Kept s₀ (State.faultPurge s e n) := by
  unfold State.faultPurge
  with_reducible repeat' first | assumption | (intro _) | apply ephRemove_kept | apply ephPurged_kept | apply kept_foldl

theorem thFault_kept {s₀ : State} (s : State) (e : Fin 8) (n : Fin 16) (kind addr : Nat) (hk : Kept s₀ s) :
    Kept s₀ (State.thFault s e n kind addr) := by
  unfold State.thFault
  with_reducible repeat' first | assumption | (intro _) | apply modThr_kept | apply geFree_kept | apply haltDone_kept | apply rput_kept | apply rsat_kept | apply evt_kept | apply emit_kept | apply faultPurge_kept | apply kept_ite

theorem dispatchThread_kept {s₀ : State} (s : State) (e : Fin 8) (cls : Fin 4) (n : Fin 16) (hk : Kept s₀ s) :
    Kept s₀ (State.dispatchThread s e cls n) := by
  unfold State.dispatchThread
  with_reducible repeat' first | assumption | (intro _) | apply modGaf_kept | apply modThr_kept

theorem ephInsert_kept {s₀ : State} (s : State) (e : Fin 8) (n : Fin 16) (q : EphReq) (tgt : Nat) (hk : Kept s₀ s) :
    Kept s₀ ((State.ephInsert s e n q tgt).1) := by
  unfold State.ephInsert
  with_reducible repeat' first | assumption | (intro _) | (refine kept_pair (by assumption) ?_) | apply kept_ite_fst | apply rsat_kept | apply evt_kept | apply wake_kept | apply modGaf_kept | apply ephStore_kept | apply modThr_kept | apply rput_kept | apply ephCommit_kept | apply kept_ite | dsimp only | split

theorem ephCancel_kept {s₀ : State} (s : State) (e : Fin 8) (i : Fin 12) (u : Bool) (tag : Nat) (hk : Kept s₀ s) :
    Kept s₀ ((State.ephCancel s e i u tag).1) := by
  unfold State.ephCancel
  with_reducible repeat' first | assumption | (intro _) | (refine kept_pair (by assumption) ?_) | apply kept_ite_fst | apply ephCommit_kept | apply ephRemove_kept | apply cmpReach_kept | apply disarmCmp_kept | apply kept_ite | dsimp only | split

theorem ephCancelTimer_kept {s₀ : State} (s : State) (e : Fin 8) (n : Fin 16) (tag : Nat) (hk : Kept s₀ s) :
    Kept s₀ ((State.ephCancelTimer s e n tag).1) := by
  unfold State.ephCancelTimer
  with_reducible repeat' first | assumption | (intro _) | (refine kept_pair (by assumption) ?_) | apply kept_ite_fst | apply ephRemove_kept

theorem timerDue_kept {s₀ : State} (s : State) (e : Fin 8) (hk : Kept s₀ s) :
    Kept s₀ (State.timerDue s e) := by
  unfold State.timerDue
  with_reducible repeat' first | assumption | (intro _) | apply ephDrop_kept | apply wake_kept | dsimp only | split

theorem portDone_kept {s₀ : State} (s : State) (res : List (Nat × Nat)) (hk : Kept s₀ s) :
    Kept s₀ ((portDone s res).st) := by
  unfold portDone
  with_reducible repeat' first | assumption

theorem setEphres_kept {s₀ : State} (s : State) (e : Fin 8) (n : Fin 16) (r : EphRes) (hk : Kept s₀ s) :
    Kept s₀ (State.setEphres s e n r) := by
  unfold State.setEphres
  with_reducible repeat' first | assumption | (intro _) | apply modThr_kept

theorem setChres_kept {s₀ : State} (s : State) (e : Fin 8) (n : Fin 16) (v : Nat) (hk : Kept s₀ s) :
    Kept s₀ (State.setChres s e n v) := by
  unfold State.setChres
  with_reducible repeat' first | assumption | (intro _) | apply modThr_kept

theorem portEph_kept {s₀ : State} (s : State) (e : Fin 8) (n : Fin 16) (w : BitVec 144) (hk : Kept s₀ s) :
    Kept s₀ ((State.portEph s e n w).st) := by
  unfold State.portEph
  with_reducible repeat' first | assumption | (intro _) | (refine kept_pair (by assumption) ?_) | apply evt_kept | apply ephInsert_kept | apply portDone_kept | apply setEphres_kept | apply ephCancel_kept | apply ephCancelTimer_kept | apply rsat_kept | apply kept_ite | dsimp only | split

theorem portChan_kept {s₀ : State} (s : State) (e : Fin 8) (n : Fin 16) (w : BitVec 144) (hk : Kept s₀ s) :
    Kept s₀ ((State.portChan s e n w).st) := by
  unfold State.portChan
  with_reducible repeat' first | assumption | (intro _) | (refine kept_pair (by assumption) ?_) | apply capRead_kept | apply modThr_kept | apply portDone_kept | apply latch_kept | apply fifoRefuse_kept | apply setChres_kept | apply fifoAppend_kept | apply fifoStop_kept | apply fifoFlush_kept | apply setReg_kept | apply fifoStart_kept | apply fifoBreak_kept | apply kept_ite | dsimp only | split

theorem portMem_kept {s₀ : State} (s : State) (e : Fin 8) (n : Fin 16) (w : BitVec 144) (hk : Kept s₀ s) :
    Kept s₀ ((State.portMem s e n w).st) := by
  unfold State.portMem
  with_reducible repeat' first | assumption | (intro _) | apply modThr_kept | apply portDone_kept | apply kept_ite | dsimp only | split | (simp only [kept_mk]; apply kept_sram) | apply memWrN_wf

theorem portRec_kept {s₀ : State} (s : State) (e : Fin 8) (n : Fin 16) (w : BitVec 144) (hk : Kept s₀ s) :
    Kept s₀ ((State.portRec s e n w).st) := by
  unfold State.portRec
  with_reducible repeat' first | assumption | (intro _) | apply portDone_kept | apply modThr_kept | apply recordKick_kept | apply emitTo_kept | apply kept_ite | dsimp only | split

theorem portOry_kept {s₀ : State} (s : State) (e : Fin 8) (n : Fin 16) (w : BitVec 144) (hk : Kept s₀ s) :
    Kept s₀ ((State.portOry s e n w).st) := by
  unfold State.portOry
  with_reducible repeat' first | assumption

theorem portSys_kept {s₀ : State} (s : State) (e : Fin 8) (n : Fin 16) (w : BitVec 144) (hk : Kept s₀ s) :
    Kept s₀ ((State.portSys s e n w).st) := by
  unfold State.portSys
  with_reducible repeat' first | assumption | (intro _) | apply portDone_kept | apply wake_kept | apply modThr_kept | apply convClear_kept | apply convPush_kept | apply setChres_kept | apply kept_ite | dsimp only | split

theorem portOp_kept {s₀ : State} (s : State) (e : Fin 8) (n : Fin 16) (w : BitVec 144) (hk : Kept s₀ s) :
    Kept s₀ ((State.portOp s e n w).st) := by
  unfold State.portOp
  with_reducible repeat' first | assumption | (intro _) | apply portEph_kept | apply portChan_kept | apply portMem_kept | apply portRec_kept | apply portOry_kept | apply portSys_kept | apply portDone_kept | dsimp only | split

theorem wrPort_kept {s₀ : State} (s : State) (e : Fin 8) (n : Fin 16) (res : List (Nat × Nat)) (hk : Kept s₀ s) :
    Kept s₀ (State.wrPort s e n res) := by
  unfold State.wrPort
  with_reducible repeat' first | assumption | (intro _) | apply drawn_kept | apply wrSpec_kept | apply kept_ite | apply kept_foldl | dsimp only | split

theorem sequence_kept {s₀ : State} (s : State) (e : Fin 8) (n : Fin 16) (w : BitVec 144) (hk : Kept s₀ s) :
    Kept s₀ (State.sequence s e n w) := by
  unfold State.sequence
  with_reducible repeat' first | assumption | (intro _) | apply modThr_kept | apply preemptPoint_kept | apply parkThread_kept | apply geFree_kept | apply haltDone_kept | apply kept_ite | dsimp only | split

theorem mwRun_kept {s₀ : State} (s : State) (e : Fin 8) (n : Fin 16) (w : BitVec 144) (hk : Kept s₀ s) :
    Kept s₀ (State.mwRun s e n w) := by
  unfold State.mwRun
  with_reducible repeat' first | assumption | (intro _) | apply portOp_kept | apply event_kept | apply modThr_kept | apply parkThread_kept | apply wrSpec_kept | apply wrPort_kept | apply sequence_kept | apply kept_ite | dsimp only | split

theorem issue_kept {s₀ : State} (s : State) (e : Fin 8) (named : BitVec 144 → Bool) (hk : Kept s₀ s) :
    Kept s₀ (State.issue s e named) := by
  unfold State.issue
  with_reducible repeat' first | assumption | (intro _) | apply thFault_kept | apply mwRun_kept | apply kept_ite | dsimp only | split

theorem issueLoad_kept {s₀ : State} (s : State) (e : Fin 8) (wide : Bool) (ecc : Ecc) (hk : Kept s₀ s) :
    Kept s₀ (State.issueLoad s e wide ecc) := by
  unfold State.issueLoad
  with_reducible repeat' first | assumption | (intro _) | apply issue_kept | apply eccRead_kept | apply thFault_kept | apply kept_ite | dsimp only | split

theorem execMwArithNop_kept {s₀ : State} (e : Fin 8) (s : State) (hk : Kept s₀ s) :
    KeptO s₀ (execMwArithNop e s) := by
  unfold execMwArithNop
  with_reducible repeat' first | assumption | (intro _) | apply event_kept | apply issue_kept

theorem execMwMov_kept {s₀ : State} (e : Fin 8) (s : State) (hk : Kept s₀ s) :
    KeptO s₀ (execMwMov e s) := by
  unfold execMwMov
  with_reducible repeat' first | assumption | (intro _) | apply event_kept | apply issue_kept

theorem execMwAdd_kept {s₀ : State} (e : Fin 8) (s : State) (hk : Kept s₀ s) :
    KeptO s₀ (execMwAdd e s) := by
  unfold execMwAdd
  with_reducible repeat' first | assumption | (intro _) | apply event_kept | apply issue_kept

theorem execMwSub_kept {s₀ : State} (e : Fin 8) (s : State) (hk : Kept s₀ s) :
    KeptO s₀ (execMwSub e s) := by
  unfold execMwSub
  with_reducible repeat' first | assumption | (intro _) | apply event_kept | apply issue_kept

theorem execMwAnd_kept {s₀ : State} (e : Fin 8) (s : State) (hk : Kept s₀ s) :
    KeptO s₀ (execMwAnd e s) := by
  unfold execMwAnd
  with_reducible repeat' first | assumption | (intro _) | apply event_kept | apply issue_kept

theorem execMwOr_kept {s₀ : State} (e : Fin 8) (s : State) (hk : Kept s₀ s) :
    KeptO s₀ (execMwOr e s) := by
  unfold execMwOr
  with_reducible repeat' first | assumption | (intro _) | apply event_kept | apply issue_kept

theorem execMwXor_kept {s₀ : State} (e : Fin 8) (s : State) (hk : Kept s₀ s) :
    KeptO s₀ (execMwXor e s) := by
  unfold execMwXor
  with_reducible repeat' first | assumption | (intro _) | apply event_kept | apply issue_kept

theorem execMwShl_kept {s₀ : State} (e : Fin 8) (s : State) (hk : Kept s₀ s) :
    KeptO s₀ (execMwShl e s) := by
  unfold execMwShl
  with_reducible repeat' first | assumption | (intro _) | apply event_kept | apply issue_kept

theorem execMwShr_kept {s₀ : State} (e : Fin 8) (s : State) (hk : Kept s₀ s) :
    KeptO s₀ (execMwShr e s) := by
  unfold execMwShr
  with_reducible repeat' first | assumption | (intro _) | apply event_kept | apply issue_kept

theorem execMwSar_kept {s₀ : State} (e : Fin 8) (s : State) (hk : Kept s₀ s) :
    KeptO s₀ (execMwSar e s) := by
  unfold execMwSar
  with_reducible repeat' first | assumption | (intro _) | apply event_kept | apply issue_kept

theorem execMwCmp_kept {s₀ : State} (e : Fin 8) (s : State) (hk : Kept s₀ s) :
    KeptO s₀ (execMwCmp e s) := by
  unfold execMwCmp
  with_reducible repeat' first | assumption | (intro _) | apply event_kept | apply issue_kept

theorem execMwTst_kept {s₀ : State} (e : Fin 8) (s : State) (hk : Kept s₀ s) :
    KeptO s₀ (execMwTst e s) := by
  unfold execMwTst
  with_reducible repeat' first | assumption | (intro _) | apply event_kept | apply issue_kept

theorem execMwMin_kept {s₀ : State} (e : Fin 8) (s : State) (hk : Kept s₀ s) :
    KeptO s₀ (execMwMin e s) := by
  unfold execMwMin
  with_reducible repeat' first | assumption | (intro _) | apply event_kept | apply issue_kept

theorem execMwMax_kept {s₀ : State} (e : Fin 8) (s : State) (hk : Kept s₀ s) :
    KeptO s₀ (execMwMax e s) := by
  unfold execMwMax
  with_reducible repeat' first | assumption | (intro _) | apply event_kept | apply issue_kept

theorem execMwTdiff_kept {s₀ : State} (e : Fin 8) (s : State) (hk : Kept s₀ s) :
    KeptO s₀ (execMwTdiff e s) := by
  unfold execMwTdiff
  with_reducible repeat' first | assumption | (intro _) | apply event_kept | apply issue_kept

theorem execMwBset_kept {s₀ : State} (e : Fin 8) (s : State) (hk : Kept s₀ s) :
    KeptO s₀ (execMwBset e s) := by
  unfold execMwBset
  with_reducible repeat' first | assumption | (intro _) | apply event_kept | apply issue_kept

theorem execMwBclr_kept {s₀ : State} (e : Fin 8) (s : State) (hk : Kept s₀ s) :
    KeptO s₀ (execMwBclr e s) := by
  unfold execMwBclr
  with_reducible repeat' first | assumption | (intro _) | apply event_kept | apply issue_kept

theorem execMwNext_kept {s₀ : State} (e : Fin 8) (s : State) (hk : Kept s₀ s) :
    KeptO s₀ (execMwNext e s) := by
  unfold execMwNext
  with_reducible repeat' first | assumption | (intro _) | apply event_kept | apply issue_kept

theorem execMwJump_kept {s₀ : State} (e : Fin 8) (s : State) (hk : Kept s₀ s) :
    KeptO s₀ (execMwJump e s) := by
  unfold execMwJump
  with_reducible repeat' first | assumption | (intro _) | apply event_kept | apply issue_kept

theorem execMwCall_kept {s₀ : State} (e : Fin 8) (s : State) (hk : Kept s₀ s) :
    KeptO s₀ (execMwCall e s) := by
  unfold execMwCall
  with_reducible repeat' first | assumption | (intro _) | apply event_kept | apply issue_kept

theorem execMwRet_kept {s₀ : State} (e : Fin 8) (s : State) (hk : Kept s₀ s) :
    KeptO s₀ (execMwRet e s) := by
  unfold execMwRet
  with_reducible repeat' first | assumption | (intro _) | apply event_kept | apply issue_kept

theorem execMwWait_kept {s₀ : State} (e : Fin 8) (s : State) (hk : Kept s₀ s) :
    KeptO s₀ (execMwWait e s) := by
  unfold execMwWait
  with_reducible repeat' first | assumption | (intro _) | apply event_kept | apply issue_kept

theorem execMwEnd_kept {s₀ : State} (e : Fin 8) (s : State) (hk : Kept s₀ s) :
    KeptO s₀ (execMwEnd e s) := by
  unfold execMwEnd
  with_reducible repeat' first | assumption | (intro _) | apply event_kept | apply issue_kept

theorem execMwDisp_kept {s₀ : State} (e : Fin 8) (s : State) (hk : Kept s₀ s) :
    KeptO s₀ (execMwDisp e s) := by
  unfold execMwDisp
  with_reducible repeat' first | assumption | (intro _) | apply event_kept | apply issue_kept

theorem execMwYield_kept {s₀ : State} (e : Fin 8) (s : State) (hk : Kept s₀ s) :
    KeptO s₀ (execMwYield e s) := by
  unfold execMwYield
  with_reducible repeat' first | assumption | (intro _) | apply event_kept | apply issue_kept

theorem execMwInsCmp_kept {s₀ : State} (e : Fin 8) (s : State) (hk : Kept s₀ s) :
    KeptO s₀ (execMwInsCmp e s) := by
  unfold execMwInsCmp
  with_reducible repeat' first | assumption | (intro _) | apply event_kept | apply issue_kept

theorem execMwInsTmr_kept {s₀ : State} (e : Fin 8) (s : State) (hk : Kept s₀ s) :
    KeptO s₀ (execMwInsTmr e s) := by
  unfold execMwInsTmr
  with_reducible repeat' first | assumption | (intro _) | apply event_kept | apply issue_kept

theorem execMwCanCmp_kept {s₀ : State} (e : Fin 8) (s : State) (hk : Kept s₀ s) :
    KeptO s₀ (execMwCanCmp e s) := by
  unfold execMwCanCmp
  with_reducible repeat' first | assumption | (intro _) | apply event_kept | apply issue_kept

theorem execMwCanTmr_kept {s₀ : State} (e : Fin 8) (s : State) (hk : Kept s₀ s) :
    KeptO s₀ (execMwCanTmr e s) := by
  unfold execMwCanTmr
  with_reducible repeat' first | assumption | (intro _) | apply event_kept | apply issue_kept

theorem execMwInsAng_kept {s₀ : State} (e : Fin 8) (s : State) (hk : Kept s₀ s) :
    KeptO s₀ (execMwInsAng e s) := by
  unfold execMwInsAng
  with_reducible repeat' first | assumption | (intro _) | apply event_kept | apply issue_kept

theorem execMwCaprd_kept {s₀ : State} (e : Fin 8) (s : State) (hk : Kept s₀ s) :
    KeptO s₀ (execMwCaprd e s) := by
  unfold execMwCaprd
  with_reducible repeat' first | assumption | (intro _) | apply event_kept | apply issue_kept

theorem execMwSnap_kept {s₀ : State} (e : Fin 8) (s : State) (hk : Kept s₀ s) :
    KeptO s₀ (execMwSnap e s) := by
  unfold execMwSnap
  with_reducible repeat' first | assumption | (intro _) | apply event_kept | apply issue_kept

theorem execMwCntrd_kept {s₀ : State} (e : Fin 8) (s : State) (hk : Kept s₀ s) :
    KeptO s₀ (execMwCntrd e s) := by
  unfold execMwCntrd
  with_reducible repeat' first | assumption | (intro _) | apply event_kept | apply issue_kept

theorem execMwFpush_kept {s₀ : State} (e : Fin 8) (s : State) (hk : Kept s₀ s) :
    KeptO s₀ (execMwFpush e s) := by
  unfold execMwFpush
  with_reducible repeat' first | assumption | (intro _) | apply event_kept | apply issue_kept

theorem execMwLdbase_kept {s₀ : State} (e : Fin 8) (s : State) (hk : Kept s₀ s) :
    KeptO s₀ (execMwLdbase e s) := by
  unfold execMwLdbase
  with_reducible repeat' first | assumption | (intro _) | apply event_kept | apply issue_kept

theorem execMwChst_kept {s₀ : State} (e : Fin 8) (s : State) (hk : Kept s₀ s) :
    KeptO s₀ (execMwChst e s) := by
  unfold execMwChst
  with_reducible repeat' first | assumption | (intro _) | apply event_kept | apply issue_kept

theorem execMwLd32_kept {s₀ : State} (e : Fin 8) (ecc : Ecc) (s : State) (hk : Kept s₀ s) :
    KeptO s₀ (execMwLd32 e ecc s) := by
  unfold execMwLd32
  with_reducible repeat' first | assumption | (intro _) | apply event_kept | apply issueLoad_kept

theorem execMwLd40_kept {s₀ : State} (e : Fin 8) (ecc : Ecc) (s : State) (hk : Kept s₀ s) :
    KeptO s₀ (execMwLd40 e ecc s) := by
  unfold execMwLd40
  with_reducible repeat' first | assumption | (intro _) | apply event_kept | apply issueLoad_kept

theorem execMwSt32_kept {s₀ : State} (e : Fin 8) (s : State) (hk : Kept s₀ s) :
    KeptO s₀ (execMwSt32 e s) := by
  unfold execMwSt32
  with_reducible repeat' first | assumption | (intro _) | apply event_kept | apply issue_kept

theorem execMwSt40_kept {s₀ : State} (e : Fin 8) (s : State) (hk : Kept s₀ s) :
    KeptO s₀ (execMwSt40 e s) := by
  unfold execMwSt40
  with_reducible repeat' first | assumption | (intro _) | apply event_kept | apply issue_kept

theorem execMwRec_kept {s₀ : State} (e : Fin 8) (s : State) (hk : Kept s₀ s) :
    KeptO s₀ (execMwRec e s) := by
  unfold execMwRec
  with_reducible repeat' first | assumption | (intro _) | apply event_kept | apply issue_kept

theorem execMwAng_kept {s₀ : State} (e : Fin 8) (s : State) (hk : Kept s₀ s) :
    KeptO s₀ (execMwAng e s) := by
  unfold execMwAng
  with_reducible repeat' first | assumption | (intro _) | apply event_kept | apply issue_kept

theorem execMwEdge_kept {s₀ : State} (e : Fin 8) (s : State) (hk : Kept s₀ s) :
    KeptO s₀ (execMwEdge e s) := by
  unfold execMwEdge
  with_reducible repeat' first | assumption | (intro _) | apply event_kept | apply issue_kept

theorem execMwA2t_kept {s₀ : State} (e : Fin 8) (s : State) (hk : Kept s₀ s) :
    KeptO s₀ (execMwA2t e s) := by
  unfold execMwA2t
  with_reducible repeat' first | assumption | (intro _) | apply event_kept | apply issue_kept

theorem execMwNow_kept {s₀ : State} (e : Fin 8) (s : State) (hk : Kept s₀ s) :
    KeptO s₀ (execMwNow e s) := by
  unfold execMwNow
  with_reducible repeat' first | assumption | (intro _) | apply event_kept | apply issue_kept

theorem execMwSignal_kept {s₀ : State} (e : Fin 8) (s : State) (hk : Kept s₀ s) :
    KeptO s₀ (execMwSignal e s) := by
  unfold execMwSignal
  with_reducible repeat' first | assumption | (intro _) | apply event_kept | apply issue_kept

theorem execMwWclr_kept {s₀ : State} (e : Fin 8) (s : State) (hk : Kept s₀ s) :
    KeptO s₀ (execMwWclr e s) := by
  unfold execMwWclr
  with_reducible repeat' first | assumption | (intro _) | apply event_kept | apply issue_kept

theorem execMwTrig_kept {s₀ : State} (e : Fin 8) (s : State) (hk : Kept s₀ s) :
    KeptO s₀ (execMwTrig e s) := by
  unfold execMwTrig
  with_reducible repeat' first | assumption | (intro _) | apply event_kept | apply issue_kept

theorem answer_kept {s₀ : State} (s : State) (p : Path) (w : Word) (hk : Kept s₀ s) :
    Kept s₀ (State.answer s p w) := by
  unfold State.answer
  with_reducible repeat' first | assumption | (intro _) | apply modPath_kept

theorem hostRead_kept {s₀ : State} (s : State) (f : State → State) (hf : ∀ a, Kept s₀ a → Kept s₀ (f a)) (hk : Kept s₀ s) :
    KeptO s₀ (State.hostRead s f) := by
  unfold State.hostRead
  with_reducible repeat' first | assumption | (intro _) | apply hf | apply kept_ite | apply kept_next

theorem holdsChange_kept {s₀ : State} (s : State) (cs : List (Fin 96)) (f : State → State) (hf : ∀ a, Kept s₀ a → Kept s₀ (f a)) (hk : Kept s₀ s) :
    Kept s₀ (State.holdsChange s cs f) := by
  unfold State.holdsChange
  with_reducible repeat' first | assumption | (intro _) | apply hf | apply holdMoved_kept | apply kept_foldl

theorem bankLoss_kept {s₀ : State} (s : State) (b : Fin 12) (hk : Kept s₀ s) :
    Kept s₀ (State.bankLoss s b) := by
  unfold State.bankLoss
  with_reducible repeat' first | assumption | (intro _) | apply holdsChange_kept | apply modCh_kept | apply modBank_kept | apply kept_foldl

theorem bankWords_kept {s₀ : State} (s : State) (b : Fin 12) (hk : Kept s₀ s) :
    Kept s₀ (State.bankWords s b) := by
  unfold State.bankWords
  with_reducible repeat' first | assumption | (intro _) | apply cmpRetime_kept | apply calSaturate_kept | apply kept_foldl

theorem bankReturn_kept {s₀ : State} (s : State) (b : Fin 12) (volts33 : Bool) (hk : Kept s₀ s) :
    Kept s₀ (State.bankReturn s b volts33) := by
  unfold State.bankReturn
  with_reducible repeat' first | assumption | (intro _) | apply holdsChange_kept | apply modBank_kept | apply bankWords_kept | apply kept_ite

theorem execBankSupplyLoss_kept {s₀ : State} (b : Fin 12) (s : State) (hk : Kept s₀ s) :
    KeptO s₀ (execBankSupplyLoss b s) := by
  unfold execBankSupplyLoss
  with_reducible repeat' first | assumption | (intro _) | apply always_kept | apply bankLoss_kept

theorem execBankSupplyReturn_kept {s₀ : State} (b : Fin 12) (volts33 : Bool) (s : State) (hk : Kept s₀ s) :
    KeptO s₀ (execBankSupplyReturn b volts33 s) := by
  unfold execBankSupplyReturn
  with_reducible repeat' first | assumption | (intro _) | apply always_kept | apply bankReturn_kept

theorem acceptEdge_kept {s₀ : State} (s : State) (c : Fin 96) (l : Bool) (t : Nat) (step : Bool) (at' : Nat) (hk : Kept s₀ s) :
    Kept s₀ (State.acceptEdge s c l t step at') := by
  unfold State.acceptEdge
  with_reducible repeat' first | assumption | (intro _) | apply modCh_kept | apply count_kept | apply capEdge_kept | apply step_kept | apply oInputEdge_kept | apply kept_ite

theorem ownFirst_kept {s₀ : State} (s : State) (c : Fin 96) (until' : Option Int) (hk : Kept s₀ s) :
    Kept s₀ (State.ownFirst s c until') := by
  unfold State.ownFirst
  with_reducible repeat' first | assumption | (intro _) | apply modCh_kept | apply drawn_kept | apply acceptEdge_kept | apply rsat_kept | apply kept_ite | dsimp only | split

theorem ownStep_kept {s₀ : State} (s : State) (c : Fin 96) (until' : Option Int) (hk : Kept s₀ s) :
    Kept s₀ (State.ownStep s c until') := by
  unfold State.ownStep
  with_reducible repeat' first | assumption | (intro _) | apply ownFirst_kept | apply kept_ite | apply kept_foldl

theorem inputEdge_kept {s₀ : State} (s : State) (c : Fin 96) (level : Bool) (pos width : Nat) (hk : Kept s₀ s) :
    Kept s₀ (State.inputEdge s c level pos width) := by
  unfold State.inputEdge
  with_reducible repeat' first | assumption | (intro _) | apply ownStep_kept | apply drawn_kept | apply step_kept | apply acceptEdge_kept | apply rsat_kept | apply kept_ite | dsimp only | split

theorem execInputEdge_kept {s₀ : State} (c : Fin 96) (level : Bool) (pos : Fin 64) (width : Nat) (s : State) (hk : Kept s₀ s) :
    KeptO s₀ (execInputEdge c level pos width s) := by
  unfold execInputEdge
  with_reducible repeat' first | assumption | (intro _) | apply event_kept | apply inputEdge_kept

theorem execCompareFire_kept {s₀ : State} (c : Fin 96) (u : Bool) (s : State) (hk : Kept s₀ s) :
    KeptO s₀ (execCompareFire c u s) := by
  unfold execCompareFire
  with_reducible repeat' first | assumption | (intro _) | apply event_kept | apply cmpReach_kept

theorem cmpCtlWrite_kept {s₀ : State} (s : State) (p : Path) (c : Fin 96) (u : Bool) (v : Word) (arm : Bool) (hk : Kept s₀ s) :
    Kept s₀ (State.cmpCtlWrite s p c u v arm) := by
  unfold State.cmpCtlWrite
  with_reducible repeat' first | assumption | (intro _) | apply evt_kept | apply setReg_kept | apply cmpArm_kept | apply cmpDisarm_kept | apply kept_ite

theorem execCompareArm_kept {s₀ : State} (p : Path) (c : Fin 96) (u : Bool) (v : Word) (s : State) (hk : Kept s₀ s) :
    KeptO s₀ (execCompareArm p c u v s) := by
  unfold execCompareArm
  with_reducible repeat' first | assumption | (intro _) | apply hostAct_kept | apply cmpCtlWrite_kept

theorem execCompareDisarm_kept {s₀ : State} (p : Path) (c : Fin 96) (u : Bool) (v : Word) (s : State) (hk : Kept s₀ s) :
    KeptO s₀ (execCompareDisarm p c u v s) := by
  unfold execCompareDisarm
  with_reducible repeat' first | assumption | (intro _) | apply hostAct_kept | apply cmpCtlWrite_kept

theorem execChannelHold_kept {s₀ : State} (p : Path) (c : Fin 96) (hold : Bool) (s : State) (hk : Kept s₀ s) :
    KeptO s₀ (execChannelHold p c hold s) := by
  unfold execChannelHold
  with_reducible repeat' first | assumption | (intro _) | apply hostAct_kept | apply holdChange_kept | apply rput_kept

theorem execFifoPush_kept {s₀ : State} (p : Path) (c : Fin 96) (v : Word) (s : State) (hk : Kept s₀ s) :
    KeptO s₀ (execFifoPush p c v s) := by
  unfold execFifoPush
  with_reducible repeat' first | assumption | (intro _) | apply hostAct_kept | apply fifoPush_kept

theorem execFifoStart_kept {s₀ : State} (p : Path) (c : Fin 96) (waits : Bool) (s : State) (hk : Kept s₀ s) :
    KeptO s₀ (execFifoStart p c waits s) := by
  unfold execFifoStart
  with_reducible repeat' first | assumption | (intro _) | (refine kept_pair (by assumption) ?_) | apply hostAct_kept | apply fifoStart_kept

theorem execFifoStop_kept {s₀ : State} (p : Path) (c : Fin 96) (s : State) (hk : Kept s₀ s) :
    KeptO s₀ (execFifoStop p c s) := by
  unfold execFifoStop
  with_reducible repeat' first | assumption | (intro _) | apply hostAct_kept | apply fifoStop_kept | apply noteHostStop_kept

theorem execFifoFlush_kept {s₀ : State} (p : Path) (c : Fin 96) (s : State) (hk : Kept s₀ s) :
    KeptO s₀ (execFifoFlush p c s) := by
  unfold execFifoFlush
  with_reducible repeat' first | assumption | (intro _) | apply hostAct_kept | apply fifoFlush_kept | apply noteHostStop_kept

theorem execFifoBreak_kept {s₀ : State} (p : Path) (c : Fin 96) (s : State) (hk : Kept s₀ s) :
    KeptO s₀ (execFifoBreak p c s) := by
  unfold execFifoBreak
  with_reducible repeat' first | assumption | (intro _) | apply hostAct_kept | apply fifoBreak_kept

theorem execCapture_kept {s₀ : State} (c : Fin 96) (k rise : Bool) (pos : Fin 64) (s : State) (hk : Kept s₀ s) :
    KeptO s₀ (execCapture c k rise pos s) := by
  unfold execCapture
  with_reducible repeat' first | assumption | (intro _) | apply event_kept | apply step_kept | apply capEdge_kept | apply kept_ite

theorem capHostRead_kept {s₀ : State} (s : State) (p : Path) (c : Fin 96) (k : Bool) (hk : Kept s₀ s) :
    Kept s₀ (State.capHostRead s p c k) := by
  unfold State.capHostRead
  with_reducible repeat' first | assumption | (intro _) | apply capRead_kept | apply setShadow_kept | apply answer_kept | apply kept_ite

theorem execCaptureRead_kept {s₀ : State} (p : Path) (c : Fin 96) (k : Bool) (s : State) (hk : Kept s₀ s) :
    KeptO s₀ (execCaptureRead p c k s) := by
  unfold execCaptureRead
  with_reducible repeat' first | assumption | (intro _) | apply hostRead_kept | apply capHostRead_kept

theorem cmdStart_kept {s₀ : State} (s : State) (e : Fin 8) (n : Fin 16) (pc : BitVec 11) (hk : Kept s₀ s) :
    Kept s₀ (State.cmdStart s e n pc) := by
  unfold State.cmdStart
  with_reducible repeat' first | assumption | (intro _) | apply thStart_kept | apply geCmdStat_kept | apply kept_ite

theorem cmdHalt_kept {s₀ : State} (s : State) (e : Fin 8) (n : Fin 16) (hk : Kept s₀ s) :
    Kept s₀ (State.cmdHalt s e n) := by
  unfold State.cmdHalt
  with_reducible repeat' first | assumption | (intro _) | apply modThr_kept | apply geCmdStat_kept | dsimp only | split

theorem clrFlt_kept {s₀ : State} (s : State) (e : Fin 8) (n : Fin 16) (hk : Kept s₀ s) :
    Kept s₀ (State.clrFlt s e n) := by
  unfold State.clrFlt
  with_reducible repeat' first | assumption | (intro _) | apply rput_kept | apply kept_ite

theorem cmdResume_kept {s₀ : State} (s : State) (e : Fin 8) (n : Fin 16) (hk : Kept s₀ s) :
    Kept s₀ (State.cmdResume s e n) := by
  unfold State.cmdResume
  with_reducible repeat' first | assumption | (intro _) | apply clrFlt_kept | apply modThr_kept | apply geCmdStat_kept | apply kept_ite

theorem cmdClrFault_kept {s₀ : State} (s : State) (e : Fin 8) (n : Fin 16) (hk : Kept s₀ s) :
    Kept s₀ (State.cmdClrFault s e n) := by
  unfold State.cmdClrFault
  with_reducible repeat' first | assumption | (intro _) | apply clrFlt_kept | apply modThr_kept | apply geCmdStat_kept | apply kept_ite

theorem cmdWake_kept {s₀ : State} (s : State) (e : Fin 8) (n : Fin 16) (hk : Kept s₀ s) :
    Kept s₀ (State.cmdWake s e n) := by
  unfold State.cmdWake
  with_reducible repeat' first | assumption | (intro _) | apply wake_kept | apply geCmdStat_kept

theorem cmdClrLat_kept {s₀ : State} (s : State) (e : Fin 8) (n : Fin 16) (hk : Kept s₀ s) :
    Kept s₀ (State.cmdClrLat s e n) := by
  unfold State.cmdClrLat
  with_reducible repeat' first | assumption | (intro _) | apply setReg_kept | apply geCmdStat_kept

theorem runWrite_kept {s₀ : State} (s : State) (e : Fin 8) (run : Bool) (hk : Kept s₀ s) :
    Kept s₀ (State.runWrite s e run) := by
  unfold State.runWrite
  with_reducible repeat' first | assumption | (intro _) | apply rput_kept | apply autostart_kept | apply kept_ite

theorem dispatch_kept {s₀ : State} (s : State) (e : Fin 8) (hk : Kept s₀ s) :
    Kept s₀ (State.dispatch s e) := by
  unfold State.dispatch
  with_reducible repeat' first | assumption | (intro _) | apply dispatchThread_kept | apply kept_ite | dsimp only | split

theorem threadStarve_kept {s₀ : State} (s : State) (e : Fin 8) (n : Fin 16) (hk : Kept s₀ s) :
    Kept s₀ (State.threadStarve s e n) := by
  unfold State.threadStarve
  with_reducible repeat' first | assumption | (intro _) | apply modThr_kept | apply evt_kept | apply emit_kept | apply kept_ite | dsimp only | split

theorem spaceRetry_kept {s₀ : State} (s : State) (e : Fin 8) (n : Fin 16) (hk : Kept s₀ s) :
    Kept s₀ (State.spaceRetry s e n) := by
  unfold State.spaceRetry
  with_reducible repeat' first | assumption | (intro _) | apply dispatch_kept | apply issue_kept | apply kept_ite

theorem sregStore_kept {s₀ : State} (s : State) (p : Path) (e : Fin 8) (m : Fin 64) (v : Word) (hk : Kept s₀ s) :
    Kept s₀ (State.sregStore s p e m v) := by
  unfold State.sregStore
  with_reducible repeat' first | assumption | (intro _) | apply modGaf_kept

theorem csPut_kept {s₀ : State} (s : State) (e : Fin 8) (w : Fin 2048) (m : Nat) (hk : Kept s₀ s) :
    Kept s₀ (State.csPut s e w m) := by
  unfold State.csPut
  with_reducible repeat' first | assumption | (intro _) | apply modGaf_kept | apply rput_kept | apply rwrap_kept

theorem execThreadStart_kept {s₀ : State} (p : Path) (e : Fin 8) (n : Fin 16) (pc : BitVec 11) (s : State) (hk : Kept s₀ s) :
    KeptO s₀ (execThreadStart p e n pc s) := by
  unfold execThreadStart
  with_reducible repeat' first | assumption | (intro _) | apply hostAct_kept | apply cmdStart_kept

theorem execThreadHalt_kept {s₀ : State} (p : Path) (e : Fin 8) (n : Fin 16) (s : State) (hk : Kept s₀ s) :
    KeptO s₀ (execThreadHalt p e n s) := by
  unfold execThreadHalt
  with_reducible repeat' first | assumption | (intro _) | apply hostAct_kept | apply cmdHalt_kept

theorem execThreadResume_kept {s₀ : State} (p : Path) (e : Fin 8) (n : Fin 16) (s : State) (hk : Kept s₀ s) :
    KeptO s₀ (execThreadResume p e n s) := by
  unfold execThreadResume
  with_reducible repeat' first | assumption | (intro _) | apply hostAct_kept | apply cmdResume_kept

theorem execThreadWake_kept {s₀ : State} (p : Path) (e : Fin 8) (n : Fin 16) (s : State) (hk : Kept s₀ s) :
    KeptO s₀ (execThreadWake p e n s) := by
  unfold execThreadWake
  with_reducible repeat' first | assumption | (intro _) | apply hostAct_kept | apply cmdWake_kept

theorem execClrFault_kept {s₀ : State} (p : Path) (e : Fin 8) (n : Fin 16) (s : State) (hk : Kept s₀ s) :
    KeptO s₀ (execClrFault p e n s) := by
  unfold execClrFault
  with_reducible repeat' first | assumption | (intro _) | apply hostAct_kept | apply cmdClrFault_kept

theorem execClrLat_kept {s₀ : State} (p : Path) (e : Fin 8) (n : Fin 16) (s : State) (hk : Kept s₀ s) :
    KeptO s₀ (execClrLat p e n s) := by
  unfold execClrLat
  with_reducible repeat' first | assumption | (intro _) | apply hostAct_kept | apply cmdClrLat_kept

theorem execGafferNop_kept {s₀ : State} (p : Path) (e : Fin 8) (_n : Fin 16) (s : State) (hk : Kept s₀ s) :
    KeptO s₀ (execGafferNop p e _n s) := by
  unfold execGafferNop
  with_reducible repeat' first | assumption | (intro _) | apply hostAct_kept

theorem execDispatch_kept {s₀ : State} (e : Fin 8) (s : State) (hk : Kept s₀ s) :
    KeptO s₀ (execDispatch e s) := by
  unfold execDispatch
  with_reducible repeat' first | assumption | (intro _) | apply event_kept | apply dispatch_kept

theorem execTimerDue_kept {s₀ : State} (e : Fin 8) (s : State) (hk : Kept s₀ s) :
    KeptO s₀ (execTimerDue e s) := by
  unfold execTimerDue
  with_reducible repeat' first | assumption | (intro _) | apply event_kept | apply timerDue_kept

theorem execThreadStarve_kept {s₀ : State} (e : Fin 8) (n : Fin 16) (s : State) (hk : Kept s₀ s) :
    KeptO s₀ (execThreadStarve e n s) := by
  unfold execThreadStarve
  with_reducible repeat' first | assumption | (intro _) | apply event_kept | apply threadStarve_kept

theorem execSpaceRetry_kept {s₀ : State} (e : Fin 8) (n : Fin 16) (s : State) (hk : Kept s₀ s) :
    KeptO s₀ (execSpaceRetry e n s) := by
  unfold execSpaceRetry
  with_reducible repeat' first | assumption | (intro _) | apply event_kept | apply spaceRetry_kept

theorem execSregStore_kept {s₀ : State} (p : Path) (e : Fin 8) (m : Fin 64) (v : Word) (s : State) (hk : Kept s₀ s) :
    KeptO s₀ (execSregStore p e m v s) := by
  unfold execSregStore
  with_reducible repeat' first | assumption | (intro _) | apply hostAct_kept | apply sregStore_kept

theorem lockViolation_kept {s₀ : State} (s : State) (p : Path) (o : Nat) (v : Word) (domains : Nat) (once : Bool) (hk : Kept s₀ s) :
    Kept s₀ (State.lockViolation s p o v domains once) := by
  unfold State.lockViolation
  with_reducible repeat' first | assumption | (intro _) | apply rsat_kept | apply setReg_kept | apply evt_kept | apply emit_kept | apply kept_ite

theorem lockedCommand_kept {s₀ : State} (s : State) (p : Path) (o d : Nat) (v : Word) (f : State → State) (hf : ∀ a, Kept s₀ a → Kept s₀ (f a)) (hk : Kept s₀ s) :
    Kept s₀ (State.lockedCommand s p o d v f) := by
  unfold State.lockedCommand
  with_reducible repeat' first | assumption | (intro _) | apply hf | apply lockViolation_kept | apply kept_ite

theorem cfgChanged_kept {s₀ : State} (s : State) (hk : Kept s₀ s) :
    Kept s₀ (State.cfgChanged s) := by
  unfold State.cfgChanged
  with_reducible repeat' first | assumption | (intro _) | apply rwrap_kept

theorem cfgWrite_kept {s₀ : State} (s : State) (o : Nat) (f : State → State) (hf : ∀ a, Kept s₀ a → Kept s₀ (f a)) (hk : Kept s₀ s) :
    Kept s₀ (State.cfgWrite s o f) := by
  unfold State.cfgWrite
  with_reducible repeat' first | assumption | (intro _) | apply hf | apply cfgChanged_kept | apply kept_ite

theorem csWrite_kept {s₀ : State} (s : State) (p : Path) (e : Fin 8) (w : Fin 2048) (v : Word) (hk : Kept s₀ s) :
    Kept s₀ (State.csWrite s p e w v) := by
  unfold State.csWrite
  with_reducible repeat' first | assumption | (intro _) | apply rsat_kept | apply lockViolation_kept | apply csPut_kept | apply kept_ite

theorem execCsStore_kept {s₀ : State} (p : Path) (e : Fin 8) (w : Fin 2048) (v : Word) (s : State) (hk : Kept s₀ s) :
    KeptO s₀ (execCsStore p e w v s) := by
  unfold execCsStore
  with_reducible repeat' first | assumption | (intro _) | apply hostAct_kept | apply csWrite_kept

theorem execGeCtrlRun_kept {s₀ : State} (p : Path) (e : Fin 8) (run : Bool) (s : State) (hk : Kept s₀ s) :
    KeptO s₀ (execGeCtrlRun p e run s) := by
  unfold execGeCtrlRun
  with_reducible repeat' first | assumption | (intro _) | apply hostAct_kept | apply cfgWrite_kept | apply runWrite_kept

theorem oryEvent_kept {s₀ : State} (s : State) (f : State → State) (hf : ∀ a, Kept s₀ a → Kept s₀ (f a)) (hk : Kept s₀ s) :
    KeptO s₀ (State.oryEvent s f) := by
  unfold State.oryEvent
  with_reducible repeat' first | assumption | (intro _) | apply hf | apply event_kept | apply kept_ite

theorem oryEdge_kept {s₀ : State} (s : State) (n : Fin 4) (i : Nat) (f : State → State) (hf : ∀ a, Kept s₀ a → Kept s₀ (f a)) (hk : Kept s₀ s) :
    KeptO s₀ (State.oryEdge s n i f) := by
  unfold State.oryEdge
  with_reducible repeat' first | assumption | (intro _) | apply hf | apply oryEvent_kept | apply kept_ite

theorem execWheelTooth_kept {s₀ : State} (n : Fin 4) (pos : Fin 64) (s : State) (hk : Kept s₀ s) :
    KeptO s₀ (execWheelTooth n pos s) := by
  unfold execWheelTooth
  with_reducible repeat' first | assumption | (intro _) | apply oryEdge_kept | apply oWheelEdge_kept

theorem execCamEdge_kept {s₀ : State} (n : Fin 4) (pos : Fin 64) (s : State) (hk : Kept s₀ s) :
    KeptO s₀ (execCamEdge n pos s) := by
  unfold execCamEdge
  with_reducible repeat' first | assumption | (intro _) | apply oryEdge_kept | apply oCamEdge_kept

theorem execCamLost_kept {s₀ : State} (n : Fin 4) (s : State) (hk : Kept s₀ s) :
    KeptO s₀ (execCamLost n s) := by
  unfold execCamLost
  with_reducible repeat' first | assumption | (intro _) | apply oryEvent_kept | apply oCamLost_kept

theorem execDirPwDecision_kept {s₀ : State} (n : Fin 4) (s : State) (hk : Kept s₀ s) :
    KeptO s₀ (execDirPwDecision n s) := by
  unfold execDirPwDecision
  with_reducible repeat' first | assumption | (intro _) | apply oryEvent_kept | apply oPwDue_kept

theorem execHallChange_kept {s₀ : State} (n : Fin 4) (lvl : BitVec 3) (pos : Fin 64) (s : State) (hk : Kept s₀ s) :
    KeptO s₀ (execHallChange n lvl pos s) := by
  unfold execHallChange
  with_reducible repeat' first | assumption | (intro _) | apply oryEvent_kept | apply oHall_kept

theorem execQuadTransition_kept {s₀ : State} (n : Fin 4) (lvl : BitVec 3) (pos : Fin 64) (s : State) (hk : Kept s₀ s) :
    KeptO s₀ (execQuadTransition n lvl pos s) := by
  unfold execQuadTransition
  with_reducible repeat' first | assumption | (intro _) | apply oryEvent_kept | apply oQuad_kept

theorem execSincosSample_kept {s₀ : State} (n : Fin 4) (rawS rawC : BitVec 14) (s : State) (hk : Kept s₀ s) :
    KeptO s₀ (execSincosSample n rawS rawC s) := by
  unfold execSincosSample
  with_reducible repeat' first | assumption | (intro _) | apply oryEvent_kept | apply oSincos_kept

theorem execSincosIndex_kept {s₀ : State} (n : Fin 4) (pos : Fin 64) (s : State) (hk : Kept s₀ s) :
    KeptO s₀ (execSincosIndex n pos s) := by
  unfold execSincosIndex
  with_reducible repeat' first | assumption | (intro _) | apply oryEdge_kept | apply oMarker_kept

theorem execStill_kept {s₀ : State} (n : Fin 4) (s : State) (hk : Kept s₀ s) :
    KeptO s₀ (execStill n s) := by
  unfold execStill
  with_reducible repeat' first | assumption | (intro _) | apply oryEvent_kept | apply oStill_kept

theorem execOryNop_kept {s₀ : State} (p : Path) (n : Fin 4) (s : State) (hk : Kept s₀ s) :
    KeptO s₀ (execOryNop p n s) := by
  unfold execOryNop
  with_reducible repeat' first | assumption | (intro _) | apply hostAct_kept | apply oCmdPost_kept

theorem execReacq_kept {s₀ : State} (p : Path) (n : Fin 4) (s : State) (hk : Kept s₀ s) :
    KeptO s₀ (execReacq p n s) := by
  unfold execReacq
  with_reducible repeat' first | assumption | (intro _) | apply hostAct_kept | apply lockedCommand_kept | apply oCmdPost_kept

theorem execSetpos_kept {s₀ : State} (p : Path) (n : Fin 4) (s : State) (hk : Kept s₀ s) :
    KeptO s₀ (execSetpos p n s) := by
  unfold execSetpos
  with_reducible repeat' first | assumption | (intro _) | apply hostAct_kept | apply lockedCommand_kept | apply oCmdPost_kept

theorem execClrCnt_kept {s₀ : State} (p : Path) (n : Fin 4) (s : State) (hk : Kept s₀ s) :
    KeptO s₀ (execClrCnt p n s) := by
  unfold execClrCnt
  with_reducible repeat' first | assumption | (intro _) | apply hostAct_kept | apply oCmdPost_kept

theorem cvCommand_kept {s₀ : State} (s : State) (k : Fin 2) (ain : Nat) (hk : Kept s₀ s) :
    Kept s₀ (State.cvCommand s k ain) := by
  unfold State.cvCommand
  with_reducible repeat' first | assumption | (intro _) | apply convPush_kept | apply convRefuse_kept | apply kept_ite

theorem rdidxWrite_kept {s₀ : State} (s : State) (b : Fin 6) (v : Word) (hk : Kept s₀ s) :
    Kept s₀ (State.rdidxWrite s b v) := by
  unfold State.rdidxWrite
  with_reducible repeat' first | assumption | (intro _) | apply evt_kept | apply setReg_kept | apply sbufSpace_kept | apply kept_ite

theorem execCvCmd_kept {s₀ : State} (p : Path) (k : Fin 2) (ain : Fin 16) (s : State) (hk : Kept s₀ s) :
    KeptO s₀ (execCvCmd p k ain s) := by
  unfold execCvCmd
  with_reducible repeat' first | assumption | (intro _) | apply hostAct_kept | apply cvCommand_kept

theorem execConvHold_kept {s₀ : State} (k : Fin 2) (s : State) (hk : Kept s₀ s) :
    KeptO s₀ (execConvHold k s) := by
  unfold execConvHold
  with_reducible repeat' first | assumption | (intro _) | apply event_kept | apply convHold_kept

theorem execConvResult_kept {s₀ : State} (k : Fin 2) (raw : BitVec 12) (s : State) (hk : Kept s₀ s) :
    KeptO s₀ (execConvResult k raw s) := by
  unfold execConvResult
  with_reducible repeat' first | assumption | (intro _) | apply event_kept | apply convResult_kept

theorem execCvbufRdidxWrite_kept {s₀ : State} (p : Path) (b : Fin 6) (v : Word) (s : State) (hk : Kept s₀ s) :
    KeptO s₀ (execCvbufRdidxWrite p b v s) := by
  unfold execCvbufRdidxWrite
  with_reducible repeat' first | assumption | (intro _) | apply hostAct_kept | apply rdidxWrite_kept

theorem stage_kept {s₀ : State} (s : State) (o : Nat) (w : Word) (hk : Kept s₀ s) :
    Kept s₀ (State.stage s o w) := by
  unfold State.stage
  with_reducible repeat' first | assumption | (intro _) | (simp only [kept_mk]; apply kept_q)

theorem activate_kept {s₀ : State} (s : State) (m : Nat) (hk : Kept s₀ s) :
    Kept s₀ (State.activate s m) := by
  unfold State.activate
  with_reducible repeat' first | assumption | (intro _) | (simp only [kept_mk]; apply kept_q) | apply setReg_kept | apply kept_foldl

theorem activateCal_kept {s₀ : State} (s : State) (m : Nat) (hk : Kept s₀ s) :
    Kept s₀ (State.activateCal s m) := by
  unfold State.activateCal
  with_reducible repeat' first | assumption | (intro _) | (simp only [kept_mk]; apply kept_q)

theorem cntFrom_kept {s₀ : State} (s : State) (c : Fin 96) (v : Nat) (hk : Kept s₀ s) :
    Kept s₀ (State.cntFrom s c v) := by
  unfold State.cntFrom
  with_reducible repeat' first | assumption | (intro _) | apply modCh_kept | apply countNow_kept | apply kept_ite

theorem cntStrobe_kept {s₀ : State} (s old : State) (c : Fin 96) (hk : Kept s₀ s) :
    Kept s₀ (State.cntStrobe s old c) := by
  unfold State.cntStrobe
  with_reducible repeat' first | assumption | (intro _) | apply event_kept | apply count_kept | apply latch_kept | apply modCh_kept | apply cntFrom_kept | apply kept_ite

theorem pinStrobe_kept {s₀ : State} (s old : State) (c : Fin 96) (hk : Kept s₀ s) :
    Kept s₀ (State.pinStrobe s old c) := by
  unfold State.pinStrobe
  with_reducible repeat' first | assumption | (intro _) | apply modCh_kept | apply pinEcho_kept | apply kept_ite

theorem chStrobe_kept {s₀ : State} (s old : State) (c : Fin 96) (hk : Kept s₀ s) :
    Kept s₀ (State.chStrobe s old c) := by
  unfold State.chStrobe
  with_reducible repeat' first | assumption | (intro _) | apply cntStrobe_kept | apply ownChange_kept | apply wakeCh_kept | apply cmpRetime_kept | apply calSaturate_kept | apply fifoBegin_kept | apply pinStrobe_kept | apply capPump_kept | apply kept_ite

theorem oRefMoved_kept {s₀ : State} (s old : State) (n : Fin 4) (hk : Kept s₀ s) :
    Kept s₀ (State.oRefMoved s old n) := by
  unfold State.oRefMoved
  with_reducible repeat' first | assumption | (intro _) | apply oShowPart_kept | apply modOry_kept | apply rsat_kept | apply evt_kept | apply emitFl_kept | apply oBroadcast_kept | apply kept_ite

theorem oryStrobe_kept {s₀ : State} (s old : State) (n : Fin 4) (hk : Kept s₀ s) :
    Kept s₀ (State.oryStrobe s old n) := by
  unfold State.oryStrobe
  with_reducible repeat' first | assumption | (intro _) | apply oOff_kept | apply oRestart_kept | apply oRefMoved_kept | apply kept_ite

theorem calStrobe_kept {s₀ : State} (s old : State) (hk : Kept s₀ s) :
    Kept s₀ (State.calStrobe s old) := by
  unfold State.calStrobe
  with_reducible repeat' first | assumption | (intro _) | apply cmpRetime_kept | apply calSaturate_kept | apply kept_ite | apply kept_foldl

theorem oBeforeStrobe_kept {s₀ : State} (s : State) (n : Fin 4) (hk : Kept s₀ s) :
    Kept s₀ (State.oBeforeStrobe s n) := by
  unfold State.oBeforeStrobe
  with_reducible repeat' first | assumption | (intro _) | apply oQuadSettle_kept | apply oKeepOld_kept | apply kept_ite

theorem activateHeld_kept {s₀ : State} (s : State) (hk : Kept s₀ s) :
    Kept s₀ (State.activateHeld s) := by
  unfold State.activateHeld
  with_reducible repeat' first | assumption | (intro _) | (simp only [kept_mk]; apply kept_q) | apply oBeforeStrobe_kept | apply setReg_kept | apply oryStrobe_kept | apply calSaturate_kept | apply sbufSpace_kept | apply kept_ite | apply kept_foldl

theorem strobe_kept {s₀ : State} (s : State) (m : Nat) (hk : Kept s₀ s) :
    Kept s₀ ((State.strobe s m).1) := by
  unfold State.strobe
  with_reducible repeat' first | assumption | (intro _) | (refine kept_pair (by assumption) ?_) | apply kept_ite_fst | apply activate_kept | apply activateCal_kept | apply cfgChanged_kept | apply calStrobe_kept | apply chStrobe_kept | apply spnStrobe_kept | apply kept_ite | apply kept_foldl

theorem strobeNote_kept {s₀ : State} (s : State) (m incl : Nat) (hk : Kept s₀ s) :
    Kept s₀ (State.strobeNote s m incl) := by
  unfold State.strobeNote
  with_reducible repeat' first | assumption | (intro _) | (simp only [kept_mk]; apply kept_q) | apply setReg_kept | apply rwrap_kept | apply evt_kept | apply kept_ite

theorem applyDone_kept {s₀ : State} (s : State) (m incl origin path : Nat) (hk : Kept s₀ s) :
    Kept s₀ (State.applyDone s m incl origin path) := by
  unfold State.applyDone
  with_reducible repeat' first | assumption | (intro _) | apply emit_kept

theorem applyNow_kept {s₀ : State} (s : State) (m origin path : Nat) (hk : Kept s₀ s) :
    Kept s₀ (State.applyNow s m origin path) := by
  unfold State.applyNow
  with_reducible repeat' first | assumption | (intro _) | (refine kept_pair (by assumption) ?_) | apply strobe_kept | apply activateHeld_kept | apply strobeNote_kept | apply applyDone_kept

theorem apFree_kept {s₀ : State} (s : State) (i : Nat) (hk : Kept s₀ s) :
    Kept s₀ (State.apFree s i) := by
  unfold State.apFree
  with_reducible repeat' first | assumption | (intro _) | (simp only [kept_mk]; apply kept_q) | apply setReg_kept

theorem apPlace_kept {s₀ : State} (s : State) (t m origin src bseq : Nat) (hk : Kept s₀ s) :
    Kept s₀ ((State.apPlace s t m origin src bseq).1) := by
  unfold State.apPlace
  with_reducible repeat' first | assumption | (intro _) | (refine kept_pair (by assumption) ?_) | apply kept_ite_fst | (simp only [kept_mk]; apply kept_q) | apply setReg_kept | apply evt_kept | apply rsat_kept | apply emit_kept | apply kept_ite | dsimp only | split

theorem apDone_kept {s₀ : State} (s old : State) (i incl : Nat) (hk : Kept s₀ s) :
    Kept s₀ (State.apDone s old i incl) := by
  unfold State.apDone
  with_reducible repeat' first | assumption | (intro _) | apply evt_kept | apply emit_kept | apply kept_ite

theorem apStrobe_kept {s₀ : State} (s : State) (extra : Nat) (reqs : List (Nat × Nat)) (es : List Nat) (hk : Kept s₀ s) :
    Kept s₀ (State.apStrobe s extra reqs es) := by
  unfold State.apStrobe
  with_reducible repeat' first | assumption | (intro _) | (refine kept_pair (by assumption) ?_) | apply apFree_kept | apply strobe_kept | apply applyDone_kept | apply strobeNote_kept | apply apDone_kept | apply kept_ite | apply kept_foldl

theorem apCancel_kept {s₀ : State} (s : State) (m : Nat) (hk : Kept s₀ s) :
    Kept s₀ (State.apCancel s m) := by
  unfold State.apCancel
  with_reducible repeat' first | assumption | (intro _) | apply apFree_kept | apply rput_kept | apply kept_ite | apply kept_foldl

theorem apDrop_kept {s₀ : State} (s : State) (m : Nat) (hk : Kept s₀ s) :
    Kept s₀ (State.apDrop s m) := by
  unfold State.apDrop
  with_reducible repeat' first | assumption | (intro _) | (simp only [kept_mk]; apply kept_q)

theorem apAbort_kept {s₀ : State} (s : State) (m : Nat) (hk : Kept s₀ s) :
    Kept s₀ (State.apAbort s m) := by
  unfold State.apAbort
  with_reducible repeat' first | assumption | (intro _) | (simp only [kept_mk]; apply kept_q) | apply apDrop_kept | apply kept_ite

theorem apRequest_kept {s₀ : State} (s : State) (m path : Nat) (hk : Kept s₀ s) :
    Kept s₀ (State.apRequest s m path) := by
  unfold State.apRequest
  with_reducible repeat' first | assumption | (intro _) | (simp only [kept_mk]; apply kept_q) | apply kept_ite

theorem apPassed_kept {s₀ : State} (k : Nat) (s : State) (h : Kept s₀ s) : Kept s₀ (State.apPassed k s) := by
  induction k generalizing s with
  | zero => exact h
  | succ k ih =>
    unfold State.apPassed
    with_reducible repeat' first | assumption | (intro _) | apply ih | apply apStrobe_kept | apply kept_ite

theorem apFollow_kept {s₀ : State} (s old : State) (hk : Kept s₀ s) :
    Kept s₀ (State.apFollow s old) := by
  unfold State.apFollow
  with_reducible repeat' first | assumption | (intro _) | apply apPassed_kept | apply kept_ite

theorem apTick_kept {s₀ : State} (s : State) (extra : Nat) (hk : Kept s₀ s) :
    Kept s₀ (State.apTick s extra) := by
  unfold State.apTick
  with_reducible repeat' first | assumption | (intro _) | (simp only [kept_mk]; apply kept_q) | apply apStrobe_kept | apply apFollow_kept | apply apDrop_kept | apply kept_foldl

theorem apFence_kept {s₀ : State} (s : State) (p : Path) (hk : Kept s₀ s) :
    Kept s₀ (State.apFence s p) := by
  unfold State.apFence
  with_reducible repeat' first | assumption | (intro _) | apply modPath_kept

theorem execApApply_kept {s₀ : State} (p : Path) (m : BitVec 8) (s : State) (hk : Kept s₀ s) :
    KeptO s₀ (execApApply p m s) := by
  unfold execApApply
  with_reducible repeat' first | assumption | (intro _) | apply hostAct_kept | apply apRequest_kept

theorem execApAtCmd_kept {s₀ : State} (p : Path) (m : BitVec 8) (s : State) (hk : Kept s₀ s) :
    KeptO s₀ (execApAtCmd p m s) := by
  unfold execApAtCmd
  with_reducible repeat' first | assumption | (intro _) | (refine kept_pair (by assumption) ?_) | apply hostAct_kept | apply apPlace_kept | apply kept_ite

theorem execApCancel_kept {s₀ : State} (p : Path) (m : BitVec 8) (s : State) (hk : Kept s₀ s) :
    KeptO s₀ (execApCancel p m s) := by
  unfold execApCancel
  with_reducible repeat' first | assumption | (intro _) | apply hostAct_kept | apply apCancel_kept

theorem execApAbort_kept {s₀ : State} (p : Path) (m : BitVec 8) (s : State) (hk : Kept s₀ s) :
    KeptO s₀ (execApAbort p m s) := by
  unfold execApAbort
  with_reducible repeat' first | assumption | (intro _) | apply hostAct_kept | apply apAbort_kept

theorem execApFence_kept {s₀ : State} (p : Path) (s : State) (hk : Kept s₀ s) :
    KeptO s₀ (execApFence p s) := by
  unfold execApFence
  with_reducible repeat' first | assumption | (intro _) | apply hostAct_kept | apply apFence_kept

theorem execApFenceRead_kept {s₀ : State} (p : Path) (s : State) (hk : Kept s₀ s) :
    KeptO s₀ (execApFenceRead p s) := by
  unfold execApFenceRead
  with_reducible repeat' first | assumption | (intro _) | apply hostRead_kept | apply answer_kept

theorem slowApply_kept {s₀ : State} (s : State) (hk : Kept s₀ s) :
    Kept s₀ (State.slowApply s) := by
  unfold State.slowApply
  with_reducible repeat' first | assumption | (intro _) | apply setReg_kept | apply kept_foldl

theorem slowCount_kept {s₀ : State} (s old : State) (os : List Nat) (hk : Kept s₀ s) :
    Kept s₀ (State.slowCount s old os) := by
  unfold State.slowCount
  with_reducible repeat' first | assumption | (intro _) | apply cfgChanged_kept | apply kept_ite | apply kept_foldl

theorem slowEdge_kept {s₀ : State} (s : State) (hk : Kept s₀ s) :
    Kept s₀ (State.slowEdge s) := by
  unfold State.slowEdge
  with_reducible repeat' first | assumption | (intro _) | (simp only [kept_mk]; apply kept_q) | apply slowApply_kept | apply slowCount_kept | apply kept_ite

theorem slowTick_kept {s₀ : State} (s : State) (k : Nat) (hk : Kept s₀ s) :
    Kept s₀ (State.slowTick s k) := by
  unfold State.slowTick
  with_reducible repeat' first | assumption | (intro _) | apply slowEdge_kept | apply kept_ite

theorem chTick_kept {s₀ : State} (s : State) (c : Fin 96) (hk : Kept s₀ s) :
    Kept s₀ (State.chTick s c) := by
  unfold State.chTick
  with_reducible repeat' first | assumption | (intro _) | apply count_kept | apply ownStep_kept | apply stagePump_kept | apply capPump_kept | apply kept_ite

theorem tickStart_kept {s₀ : State} (s : State) (extra : Nat) (hk : Kept s₀ s) :
    Kept s₀ (State.tickStart s extra) := by
  unfold State.tickStart
  with_reducible repeat' first | assumption | (intro _) | (simp only [kept_mk]; apply kept_q) | apply modSpine_kept | apply slowTick_kept | apply apTick_kept | apply bankSwap_kept | apply convTick_kept | apply oTickStart_kept | apply chTick_kept | apply lhLateCheck_kept | apply rseqStep_kept | apply kept_foldl

theorem tickEnd_kept {s₀ : State} (s : State) (hk : Kept s₀ s) :
    Kept s₀ (State.tickEnd s) := by
  unfold State.tickEnd
  with_reducible repeat' first | assumption | (intro _) | apply flushImage_kept | apply slewFinish_kept | apply oTickEnd_kept | apply activateHeld_kept | apply kept_foldl

theorem spineMove_kept {s₀ : State} (s : State) (hk : Kept s₀ s) :
    Kept s₀ (State.spineMove s) := by
  unfold State.spineMove
  with_reducible repeat' first | assumption | (intro _) | apply spineAdvance_kept | apply modSpine_kept | apply kept_ite | apply kept_dite | dsimp only | split

theorem tickMove_kept {s₀ : State} (s : State) (extra : Nat) (hk : Kept s₀ s) :
    Kept s₀ (State.tickMove s extra) := by
  unfold State.tickMove
  with_reducible repeat' first | assumption | (intro _) | apply tickEnd_kept | apply spineMove_kept | apply tickStart_kept

theorem pllTickWith_kept {s₀ : State} (s : State) (extra : Nat) (hk : Kept s₀ s) :
    Kept s₀ (State.pllTickWith s extra) := by
  unfold State.pllTickWith
  with_reducible repeat' first | assumption | (intro _) | (simp only [kept_mk]; apply kept_q) | apply slowEdge_kept | apply slowTick_kept | apply tickMove_kept | apply kept_ite

theorem pllTick_kept {s₀ : State} (s : State) (hk : Kept s₀ s) :
    Kept s₀ (State.pllTick s) := by
  unfold State.pllTick
  with_reducible repeat' first | assumption | (intro _) | apply pllTickWith_kept

theorem spnIssue_kept {s₀ : State} (s : State) (op : Option SpnOp) (code : Nat) (waits : Bool) (ag : Nat) (hk : Kept s₀ s) :
    Kept s₀ (State.spnIssue s op code waits ag) := by
  unfold State.spnIssue
  with_reducible repeat' first | assumption | (intro _) | apply spnCommand_kept | apply apFollow_kept

theorem execSpineSet_kept {s₀ : State} (p : Path) (waits : Bool) (ag : Fin 8) (s : State) (hk : Kept s₀ s) :
    KeptO s₀ (execSpineSet p waits ag s) := by
  unfold execSpineSet
  with_reducible repeat' first | assumption | (intro _) | apply hostAct_kept | apply spnIssue_kept

theorem execSpineStep_kept {s₀ : State} (p : Path) (waits : Bool) (ag : Fin 8) (s : State) (hk : Kept s₀ s) :
    KeptO s₀ (execSpineStep p waits ag s) := by
  unfold execSpineStep
  with_reducible repeat' first | assumption | (intro _) | apply hostAct_kept | apply spnIssue_kept

theorem execHoldEnd_kept {s₀ : State} (s : State) (hk : Kept s₀ s) :
    KeptO s₀ (execHoldEnd s) := by
  unfold execHoldEnd
  with_reducible repeat' first | assumption | (intro _) | apply event_kept | apply pllTick_kept | apply kept_ite | apply kept_dite | dsimp only | split

theorem execApplyStrobe_kept {s₀ : State} (g : Fin 8) (s : State) (hk : Kept s₀ s) :
    KeptO s₀ (execApplyStrobe g s) := by
  unfold execApplyStrobe
  with_reducible repeat' first | assumption | (intro _) | apply event_kept | apply pllTickWith_kept

theorem execApplyAtDue_kept {s₀ : State} (s : State) (hk : Kept s₀ s) :
    KeptO s₀ (execApplyAtDue s) := by
  unfold execApplyAtDue
  with_reducible repeat' first | assumption | (intro _) | apply event_kept | apply pllTick_kept | apply kept_ite

end Sys2Proof.Machine
end

