-- ==== Sys2Proof/Laws/KeptRings.lean ====
section
/-!
SUPPORT. What every operation keeps (EventCtl, Ring, Lehr, Servo, Tree, Ewerlink).
-/
namespace Sys2Proof.Machine
open Sys2Proof

theorem ecAssignAll_kept {s₀ : State} (s : State) (hk : Kept s₀ s) :
    Kept s₀ (State.ecAssignAll s) := by
  unfold State.ecAssignAll
  with_reducible repeat' first | assumption | (intro _) | apply ecAssign_kept | apply kept_foldl

theorem ecWithdraw_kept {s₀ : State} (s : State) (n : Nat) (hk : Kept s₀ s) :
    Kept s₀ (State.ecWithdraw s n) := by
  unfold State.ecWithdraw
  with_reducible repeat' first | assumption | (intro _) | apply setEcSrc_kept

theorem ecClaim_kept {s₀ : State} (s : State) (t : Nat) (hk : Kept s₀ s) :
    Kept s₀ ((State.ecClaim s t).1) := by
  unfold State.ecClaim
  with_reducible repeat' first | assumption | (intro _) | (refine kept_pair (by assumption) ?_) | apply kept_ite_fst | apply setEcSrc_kept | apply rsat_kept | apply ecEvt_kept | dsimp only | split

theorem ecFollow_kept {s₀ : State} (s : State) (n : Nat) (hk : Kept s₀ s) :
    Kept s₀ (State.ecFollow s n) := by
  unfold State.ecFollow
  with_reducible repeat' first | assumption | (intro _) | apply ecLevel_kept | apply kept_ite

theorem ecComplete_kept {s₀ : State} (s : State) (t n : Nat) (hk : Kept s₀ s) :
    Kept s₀ (State.ecComplete s t n) := by
  unfold State.ecComplete
  with_reducible repeat' first | assumption | (intro _) | apply setEcSrc_kept | apply ecFollow_kept | apply rsat_kept | apply ecEvt_kept | apply kept_ite

theorem ecDoorbell_kept {s₀ : State} (s : State) (n : Nat) (hk : Kept s₀ s) :
    Kept s₀ (State.ecDoorbell s n) := by
  unfold State.ecDoorbell
  with_reducible repeat' first | assumption | (intro _) | apply wake_kept | apply ecEdge_kept | apply ecEvt_kept | apply kept_ite

theorem ecPendBit_kept {s₀ : State} (s : State) (n : Nat) (v : Bool) (hk : Kept s₀ s) :
    Kept s₀ (State.ecPendBit s n v) := by
  unfold State.ecPendBit
  with_reducible repeat' first | assumption | (intro _) | apply setEcSrc_kept | apply ecFollow_kept | apply ecAssign_kept | apply kept_ite

theorem ecPendWrite_kept {s₀ : State} (s : State) (w : Nat) (v : Word) (hk : Kept s₀ s) :
    Kept s₀ (State.ecPendWrite s w v) := by
  unfold State.ecPendWrite
  with_reducible repeat' first | assumption | (intro _) | apply ecPendBit_kept | apply kept_foldl

theorem ecEnWrite_kept {s₀ : State} (s : State) (w : Nat) (v : Word) (hk : Kept s₀ s) :
    Kept s₀ (State.ecEnWrite s w v) := by
  unfold State.ecEnWrite
  with_reducible repeat' first | assumption | (intro _) | apply setReg_kept | apply ecAssign_kept | apply ecWithdraw_kept | apply kept_ite | apply kept_foldl

theorem ecReassign_kept {s₀ : State} (s : State) (n : Nat) (hk : Kept s₀ s) :
    Kept s₀ (State.ecReassign s n) := by
  unfold State.ecReassign
  with_reducible repeat' first | assumption | (intro _) | apply ecWithdraw_kept | apply ecAssign_kept | apply kept_ite | dsimp only | split

theorem ecTgtWrite_kept {s₀ : State} (s : State) (n : Nat) (v : Word) (hk : Kept s₀ s) :
    Kept s₀ (State.ecTgtWrite s n v) := by
  unfold State.ecTgtWrite
  with_reducible repeat' first | assumption | (intro _) | apply setEcSrc_kept | apply ecReassign_kept | apply cfgChanged_kept | apply kept_ite

theorem ecRouteWrite_kept {s₀ : State} (s : State) (n : Nat) (v : Word) (hk : Kept s₀ s) :
    Kept s₀ (State.ecRouteWrite s n v) := by
  unfold State.ecRouteWrite
  with_reducible repeat' first | assumption | (intro _) | apply setEcSrc_kept | apply cfgChanged_kept | apply kept_ite

theorem ecTcfgWrite_kept {s₀ : State} (s : State) (t : Nat) (v : Word) (hk : Kept s₀ s) :
    Kept s₀ (State.ecTcfgWrite s t v) := by
  unfold State.ecTcfgWrite
  with_reducible repeat' first | assumption | (intro _) | apply setReg_kept | apply ecReassign_kept | apply kept_ite | apply kept_foldl

theorem ecUnlatch_kept {s₀ : State} (s : State) (hk : Kept s₀ s) :
    Kept s₀ (State.ecUnlatch s) := by
  unfold State.ecUnlatch
  with_reducible repeat' first | assumption | (intro _) | (simp only [kept_mk]; apply kept_q) | apply ecEdge_kept | apply ecLevel_kept | apply ecAssignAll_kept | apply kept_foldl

theorem ecCtrlSet_kept {s₀ : State} (s : State) (en lp ls : Nat) (hk : Kept s₀ s) :
    Kept s₀ (State.ecCtrlSet s en lp ls) := by
  unfold State.ecCtrlSet
  with_reducible repeat' first | assumption | (intro _) | (simp only [kept_mk]; apply kept_q) | apply setReg_kept | apply cfgChanged_kept | apply ecWithdraw_kept | apply ecAssignAll_kept | apply ecUnlatch_kept | apply kept_ite | apply kept_foldl

theorem ecCtrlWrite_kept {s₀ : State} (s : State) (p : Path) (v : Word) (hk : Kept s₀ s) :
    Kept s₀ (State.ecCtrlWrite s p v) := by
  unfold State.ecCtrlWrite
  with_reducible repeat' first | assumption | (intro _) | apply lockViolation_kept | apply ecCtrlSet_kept | apply kept_ite

theorem latchTimeout_kept {s₀ : State} (s : State) (hk : Kept s₀ s) :
    Kept s₀ (State.latchTimeout s) := by
  unfold State.latchTimeout
  with_reducible repeat' first | assumption | (intro _) | apply rput_kept | apply ecEvt_kept | apply ecUnlatch_kept | apply kept_ite

theorem ecRedeliver_kept {s₀ : State} (s : State) (hk : Kept s₀ s) :
    Kept s₀ (State.ecRedeliver s) := by
  unfold State.ecRedeliver
  with_reducible repeat' first | assumption | (intro _) | apply msixSend_kept | apply kept_ite | apply kept_foldl

theorem msixBack_kept {s₀ : State} (s : State) (hk : Kept s₀ s) :
    Kept s₀ (State.msixBack s) := by
  unfold State.msixBack
  with_reducible repeat' first | assumption | (intro _) | (simp only [kept_mk]; apply kept_q) | apply ecRedeliver_kept | apply kept_ite

theorem claimRead_kept {s₀ : State} (s : State) (p : Path) (t : Nat) (hk : Kept s₀ s) :
    Kept s₀ (State.claimRead s p t) := by
  unfold State.claimRead
  with_reducible repeat' first | assumption | (intro _) | (refine kept_pair (by assumption) ?_) | apply answer_kept | apply ecClaim_kept | apply kept_ite

theorem execEcClaim_kept {s₀ : State} (p : Path) (t : Fin 8) (s : State) (hk : Kept s₀ s) :
    KeptO s₀ (execEcClaim p t s) := by
  unfold execEcClaim
  with_reducible repeat' first | assumption | (intro _) | apply hostRead_kept | apply claimRead_kept

theorem execEcComplete_kept {s₀ : State} (p : Path) (t : Fin 8) (v : Word) (s : State) (hk : Kept s₀ s) :
    KeptO s₀ (execEcComplete p t v s) := by
  unfold execEcComplete
  with_reducible repeat' first | assumption | (intro _) | apply hostAct_kept | apply ecComplete_kept

theorem execEcDoorbell_kept {s₀ : State} (p : Path) (v : Word) (s : State) (hk : Kept s₀ s) :
    KeptO s₀ (execEcDoorbell p v s) := by
  unfold execEcDoorbell
  with_reducible repeat' first | assumption | (intro _) | apply hostAct_kept | apply ecDoorbell_kept

theorem execEcPendWrite_kept {s₀ : State} (p : Path) (w : Fin 32) (v : Word) (s : State) (hk : Kept s₀ s) :
    KeptO s₀ (execEcPendWrite p w v s) := by
  unfold execEcPendWrite
  with_reducible repeat' first | assumption | (intro _) | apply hostAct_kept | apply ecPendWrite_kept

theorem execEcEnWrite_kept {s₀ : State} (p : Path) (w : Fin 32) (v : Word) (s : State) (hk : Kept s₀ s) :
    KeptO s₀ (execEcEnWrite p w v s) := by
  unfold execEcEnWrite
  with_reducible repeat' first | assumption | (intro _) | apply hostAct_kept | apply ecEnWrite_kept

theorem execEcTgtWrite_kept {s₀ : State} (p : Path) (v : Word) (s : State) (hk : Kept s₀ s) :
    KeptO s₀ (execEcTgtWrite p v s) := by
  unfold execEcTgtWrite
  with_reducible repeat' first | assumption | (intro _) | apply hostAct_kept | apply lockedCommand_kept | apply ecTgtWrite_kept

theorem execEcCtrlWrite_kept {s₀ : State} (p : Path) (v : Word) (s : State) (hk : Kept s₀ s) :
    KeptO s₀ (execEcCtrlWrite p v s) := by
  unfold execEcCtrlWrite
  with_reducible repeat' first | assumption | (intro _) | apply hostAct_kept | apply ecCtrlWrite_kept

theorem execLatchTimeout_kept {s₀ : State} (s : State) (hk : Kept s₀ s) :
    KeptO s₀ (execLatchTimeout s) := by
  unfold execLatchTimeout
  with_reducible repeat' first | assumption | (intro _) | apply event_kept | apply latchTimeout_kept

theorem execPcieD0Return_kept {s₀ : State} (s : State) (hk : Kept s₀ s) :
    KeptO s₀ (execPcieD0Return s) := by
  unfold execPcieD0Return
  with_reducible repeat' first | assumption | (intro _) | (simp only [kept_mk]; apply kept_q) | apply always_kept | apply msixBack_kept | apply kept_ite

theorem ringStore_kept {s₀ : State} (s : State) (n i : Nat) (ws : List Word) (hk : Kept s₀ s) :
    Kept s₀ (State.ringStore s n i ws) := by
  unfold State.ringStore
  with_reducible repeat' first | assumption | (intro _) | apply sramWr_kept | apply hostWr_kept | apply kept_ite

theorem headCopy_kept {s₀ : State} (s : State) (n : Nat) (hk : Kept s₀ s) :
    Kept s₀ (State.headCopy s n) := by
  unfold State.headCopy
  with_reducible repeat' first | assumption | (intro _) | apply hostWr_kept | apply kept_ite

theorem lostCopy_kept {s₀ : State} (s : State) (n : Nat) (hk : Kept s₀ s) :
    Kept s₀ (State.lostCopy s n) := by
  unfold State.lostCopy
  with_reducible repeat' first | assumption | (intro _) | apply headCopy_kept | apply kept_ite

theorem ringErr_kept {s₀ : State} (s : State) (n code : Nat) (hk : Kept s₀ s) :
    Kept s₀ (State.ringErr s n code) := by
  unfold State.ringErr
  with_reducible repeat' first | assumption | (intro _) | apply rput_kept | apply kept_ite

theorem ringCfgErr_kept {s₀ : State} (s : State) (n : Nat) (hk : Kept s₀ s) :
    Kept s₀ (State.ringCfgErr s n) := by
  unfold State.ringCfgErr
  with_reducible repeat' first | assumption | (intro _) | apply ringErr_kept | apply evt_kept

theorem ringPut_kept {s₀ : State} (s : State) (n : Fin 64) (ws : List Word) (hk : Kept s₀ s) :
    Kept s₀ (State.ringPut s n ws) := by
  unfold State.ringPut
  with_reducible repeat' first | assumption | (intro _) | apply ringStore_kept | apply rwrap_kept | apply headCopy_kept | apply ecLevel_kept

theorem ringRefuse_kept {s₀ : State} (s : State) (n : Fin 64) (r : Rec) (hk : Kept s₀ s) :
    Kept s₀ (State.ringRefuse s n r) := by
  unfold State.ringRefuse
  with_reducible repeat' first | assumption | (intro _) | (simp only [kept_mk]; apply kept_q) | apply rsat_kept | apply rwrap_kept | apply evt_kept | apply modRing_kept | apply lostCopy_kept | apply kept_ite

theorem ringLost_kept {s₀ : State} (s : State) (n : Fin 64) (hk : Kept s₀ s) :
    Kept s₀ (State.ringLost s n) := by
  unfold State.ringLost
  with_reducible repeat' first | assumption | (intro _) | (simp only [kept_mk]; apply kept_q) | apply rput_kept | apply modRing_kept | apply ringPut_kept | apply kept_ite

theorem recRoom_kept {s₀ : State} (s old : State) (hk : Kept s₀ s) :
    Kept s₀ (State.recRoom s old) := by
  unfold State.recRoom
  with_reducible repeat' first | assumption | (intro _) | apply stagePump_kept | apply capPump_kept | apply wakeWriter_kept | apply kept_ite | apply kept_foldl

theorem ringRefuseAll_kept {s₀ : State} (s : State) (n : Fin 64) (hk : Kept s₀ s) :
    Kept s₀ (State.ringRefuseAll s n) := by
  unfold State.ringRefuseAll
  with_reducible repeat' first | assumption | (intro _) | (simp only [kept_mk]; apply kept_q) | apply ringRefuse_kept | apply recRoom_kept | apply kept_foldl

theorem ringHosterr_kept {s₀ : State} (s : State) (n : Fin 64) (hk : Kept s₀ s) :
    Kept s₀ (State.ringHosterr s n) := by
  unfold State.ringHosterr
  with_reducible repeat' first | assumption | (intro _) | apply rput_kept | apply evt_kept | apply ringRefuseAll_kept

theorem recPut_kept {s₀ : State} (s : State) (n : Fin 64) (r : Rec) (hk : Kept s₀ s) :
    Kept s₀ (State.recPut s n r) := by
  unfold State.recPut
  with_reducible repeat' first | assumption | (intro _) | apply ringRefuse_kept | apply rput_kept | apply evt_kept | apply ringPut_kept | apply kept_ite

theorem recordTake_kept {s₀ : State} (s : State) (hk : Kept s₀ s) :
    Kept s₀ (State.recordTake s) := by
  unfold State.recordTake
  with_reducible repeat' first | assumption | (intro _) | (simp only [kept_mk]; apply kept_q) | apply recPut_kept | apply kept_ite | apply kept_dite | dsimp only | split

theorem recordWrite_kept {s₀ : State} (s : State) (hk : Kept s₀ s) :
    Kept s₀ (State.recordWrite s) := by
  unfold State.recordWrite
  with_reducible repeat' first | assumption | (intro _) | apply recordTake_kept | apply recRoom_kept

theorem tailWrite_kept {s₀ : State} (s : State) (n : Fin 64) (v : Word) (hk : Kept s₀ s) :
    Kept s₀ (State.tailWrite s n v) := by
  unfold State.tailWrite
  with_reducible repeat' first | assumption | (intro _) | apply setReg_kept | apply ecLevel_kept | apply ringLost_kept | apply ringErr_kept | apply evt_kept | apply kept_ite

theorem ringCfgSet_kept {s₀ : State} (s : State) (n : Nat) (v : Word) (hk : Kept s₀ s) :
    Kept s₀ (State.ringCfgSet s n v) := by
  unfold State.ringCfgSet
  with_reducible repeat' first | assumption | (intro _) | apply setReg_kept

theorem ringOn_kept {s₀ : State} (s : State) (n : Fin 64) (hk : Kept s₀ s) :
    Kept s₀ (State.ringOn s n) := by
  unfold State.ringOn
  with_reducible repeat' first | assumption | (intro _) | apply rput_kept | apply setReg_kept | apply modRing_kept | apply ecLevel_kept | apply ringHosterr_kept | apply headCopy_kept | apply ringCfgErr_kept | apply kept_ite

theorem ringOff_kept {s₀ : State} (s : State) (n : Fin 64) (hk : Kept s₀ s) :
    Kept s₀ (State.ringOff s n) := by
  unfold State.ringOff
  with_reducible repeat' first | assumption | (intro _) | apply rput_kept | apply ringRefuseAll_kept | apply ecLevel_kept

theorem ringCfgWrite_kept {s₀ : State} (s : State) (p : Path) (n : Fin 64) (v : Word) (hk : Kept s₀ s) :
    Kept s₀ (State.ringCfgWrite s p n v) := by
  unfold State.ringCfgWrite
  with_reducible repeat' first | assumption | (intro _) | apply cfgWrite_kept | apply lockViolation_kept | apply ringCfgErr_kept | apply ringOff_kept | apply ringCfgSet_kept | apply ringOn_kept | apply kept_ite

theorem ringBaseWrite_kept {s₀ : State} (s : State) (n o : Nat) (v : Word) (m : Nat) (hk : Kept s₀ s) :
    Kept s₀ (State.ringBaseWrite s n o v m) := by
  unfold State.ringBaseWrite
  with_reducible repeat' first | assumption | (intro _) | apply ringCfgErr_kept | apply setReg_kept | apply kept_ite

theorem ringDone_kept {s₀ : State} (s : State) (n : Nat) (cseq op result : Nat) (w2 w3 : Word) (hk : Kept s₀ s) :
    Kept s₀ (State.ringDone s n cseq op result w2 w3) := by
  unfold State.ringDone
  with_reducible repeat' first | assumption | (intro _) | apply emitTo_kept

theorem ringSkips_kept {s₀ : State} (s : State) (n : Fin 64) (k : Nat) (h : Kept s₀ s) : Kept s₀ (s.ringSkips n k) := by
  induction k generalizing s with
  | zero => exact h
  | succ k ih =>
    unfold State.ringSkips
    with_reducible repeat' first | assumption | (intro _) | apply ih | apply modRing_kept | apply ringDone_kept | dsimp only | split

theorem commandFetch_kept {s₀ : State} (s : State) (n : Fin 64) (bad corr : BitVec 8) (hk : Kept s₀ s) :
    Kept s₀ (State.commandFetch s n bad corr) := by
  unfold State.commandFetch
  with_reducible repeat' first | assumption | (intro _) | apply rwrap_kept | apply modRing_kept | apply eccRead_kept | apply headCopy_kept | apply ecLevel_kept | apply ringSkips_kept | apply kept_ite | apply kept_foldl

theorem ringPop_kept {s₀ : State} (s : State) (n : Fin 64) (hk : Kept s₀ s) :
    Kept s₀ (State.ringPop s n) := by
  unfold State.ringPop
  with_reducible repeat' first | assumption | (intro _) | (simp only [kept_mk]; apply kept_q) | apply modRing_kept | dsimp only | split

theorem ringExec_kept {s₀ : State} (s : State) (n : Fin 64) (isRow : Nat → Bool) (f : State → Vector Word 8 → State) (hf : ∀ a x0, Kept s₀ a → Kept s₀ (f a x0)) (hk : Kept s₀ s) :
    Kept s₀ (State.ringExec s n isRow f) := by
  unfold State.ringExec
  with_reducible repeat' first | assumption | (intro _) | apply hf | apply ringPop_kept | apply ringSkips_kept | apply kept_ite | dsimp only | split

theorem execRecordWrite_kept {s₀ : State} (s : State) (hk : Kept s₀ s) :
    KeptO s₀ (execRecordWrite s) := by
  unfold execRecordWrite
  with_reducible repeat' first | assumption | (intro _) | apply event_kept | apply recordWrite_kept

theorem execRingTailWrite_kept {s₀ : State} (p : Path) (n : Fin 64) (v : Word) (s : State) (hk : Kept s₀ s) :
    KeptO s₀ (execRingTailWrite p n v s) := by
  unfold execRingTailWrite
  with_reducible repeat' first | assumption | (intro _) | apply hostAct_kept | apply tailWrite_kept

theorem execRingEnable_kept {s₀ : State} (p : Path) (n : Fin 64) (v : Word) (s : State) (hk : Kept s₀ s) :
    KeptO s₀ (execRingEnable p n v s) := by
  unfold execRingEnable
  with_reducible repeat' first | assumption | (intro _) | apply hostAct_kept | apply ringCfgWrite_kept

theorem execRingDisable_kept {s₀ : State} (p : Path) (n : Fin 64) (v : Word) (s : State) (hk : Kept s₀ s) :
    KeptO s₀ (execRingDisable p n v s) := by
  unfold execRingDisable
  with_reducible repeat' first | assumption | (intro _) | apply hostAct_kept | apply ringCfgWrite_kept

theorem execRingHosterr_kept {s₀ : State} (n : Fin 64) (s : State) (hk : Kept s₀ s) :
    KeptO s₀ (execRingHosterr n s) := by
  unfold execRingHosterr
  with_reducible repeat' first | assumption | (intro _) | apply event_kept | apply ringHosterr_kept | apply kept_ite

theorem execCommandFetch_kept {s₀ : State} (n : Fin 64) (bad corr : BitVec 8) (s : State) (hk : Kept s₀ s) :
    KeptO s₀ (execCommandFetch n bad corr s) := by
  unfold execCommandFetch
  with_reducible repeat' first | assumption | (intro _) | apply event_kept | apply commandFetch_kept

theorem execFence_kept {s₀ : State} (n : Fin 64) (s : State) (hk : Kept s₀ s) :
    KeptO s₀ (execFence n s) := by
  unfold execFence
  with_reducible repeat' first | assumption | (intro _) | apply event_kept | apply ringExec_kept

theorem execMark_kept {s₀ : State} (n : Fin 64) (s : State) (hk : Kept s₀ s) :
    KeptO s₀ (execMark n s) := by
  unfold execMark
  with_reducible repeat' first | assumption | (intro _) | apply event_kept | apply ringExec_kept | apply ringDone_kept

theorem execRingIllegal_kept {s₀ : State} (n : Fin 64) (s : State) (hk : Kept s₀ s) :
    KeptO s₀ (execRingIllegal n s) := by
  unfold execRingIllegal
  with_reducible repeat' first | assumption | (intro _) | apply event_kept | apply ringExec_kept | apply ringDone_kept

theorem lhPfWrite_kept {s₀ : State} (s : State) (m v : Nat) (hk : Kept s₀ s) :
    Kept s₀ (State.lhPfWrite s m v) := by
  unfold State.lhPfWrite
  with_reducible repeat' first | assumption | (intro _) | apply modLehr_kept | apply rput_kept | apply kept_ite

theorem lhHosterr_kept {s₀ : State} (s : State) (hk : Kept s₀ s) :
    Kept s₀ (State.lhHosterr s) := by
  unfold State.lhHosterr
  with_reducible repeat' first | assumption | (intro _) | apply rput_kept | apply evt_kept | apply lhState_kept | apply kept_ite

theorem lhStore_kept {s₀ : State} (s : State) (standalone : Nat) (lo hi ofs : Nat) (ws : List Word) (hk : Kept s₀ s) :
    Kept s₀ (State.lhStore s standalone lo hi ofs ws) := by
  unfold State.lhStore
  with_reducible repeat' first | assumption | (intro _) | apply sramWr_kept | apply lhHosterr_kept | apply hostWr_kept | apply kept_ite

theorem lhPool_kept {s₀ : State} (s : State) (ofs : Nat) (ws : List Word) (hk : Kept s₀ s) :
    Kept s₀ (State.lhPool s ofs ws) := by
  unfold State.lhPool
  with_reducible repeat' first | assumption | (intro _) | apply lhStore_kept

theorem lhHead_kept {s₀ : State} (s : State) (two : Bool) (k : Nat) (w : Word) (hk : Kept s₀ s) :
    Kept s₀ (State.lhHead s two k w) := by
  unfold State.lhHead
  with_reducible repeat' first | assumption | (intro _) | apply lhStore_kept | apply kept_ite

theorem lhLinks_kept {s₀ : State} (s : State) (l : List LhEnt) (st : Nat) (far : Bool) (h : Nat) (hk : Kept s₀ s) :
    Kept s₀ (State.lhLinks s l st far h) := by
  unfold State.lhLinks
  with_reducible repeat' first | assumption | (intro _) | apply lhPool_kept | dsimp only | split

theorem lhSlotSync_kept {s₀ : State} (s : State) (two : Bool) (k : Nat) (hs : List Nat) (hk : Kept s₀ s) :
    Kept s₀ (State.lhSlotSync s two k hs) := by
  unfold State.lhSlotSync
  with_reducible repeat' first | assumption | (intro _) | apply lhLinks_kept | apply lhHead_kept | apply kept_ite | apply kept_foldl

theorem lhFarSync_kept {s₀ : State} (s : State) (hs : List Nat) (hk : Kept s₀ s) :
    Kept s₀ (State.lhFarSync s hs) := by
  unfold State.lhFarSync
  with_reducible repeat' first | assumption | (intro _) | apply lhLinks_kept | apply kept_foldl

theorem lhNearSync_kept {s₀ : State} (s : State) (e : LhEnt) (hk : Kept s₀ s) :
    Kept s₀ (State.lhNearSync s e) := by
  unfold State.lhNearSync
  with_reducible repeat' first | assumption | (intro _) | apply lhPool_kept

theorem lhBody_kept {s₀ : State} (s : State) (e : LhEnt) (hk : Kept s₀ s) :
    Kept s₀ (State.lhBody s e) := by
  unfold State.lhBody
  with_reducible repeat' first | assumption | (intro _) | apply lhPool_kept

theorem lhFree_kept {s₀ : State} (s : State) (e : LhEnt) (hk : Kept s₀ s) :
    Kept s₀ (State.lhFree s e) := by
  unfold State.lhFree
  with_reducible repeat' first | assumption | (intro _) | apply lhPool_kept

theorem lhNearFull_kept {s₀ : State} (s : State) (hk : Kept s₀ s) :
    Kept s₀ (State.lhNearFull s) := by
  unfold State.lhNearFull
  with_reducible repeat' first | assumption | (intro _) | apply modLehr_kept | apply evt_kept | apply lhState_kept | apply kept_ite

theorem lhToNear_kept {s₀ : State} (s : State) (e : LhEnt) (hk : Kept s₀ s) :
    Kept s₀ (State.lhToNear s e) := by
  unfold State.lhToNear
  with_reducible repeat' first | assumption | (intro _) | apply drawn_kept | apply modLehr_kept | apply lhNearSync_kept | apply lhNearFull_kept

theorem lhToSlot_kept {s₀ : State} (s : State) (two : Bool) (e : LhEnt) (hk : Kept s₀ s) :
    Kept s₀ (State.lhToSlot s two e) := by
  unfold State.lhToSlot
  with_reducible repeat' first | assumption | (intro _) | apply modLehr_kept | apply lhSlotSync_kept

theorem lhToFar_kept {s₀ : State} (s : State) (e : LhEnt) (hk : Kept s₀ s) :
    Kept s₀ (State.lhToFar s e) := by
  unfold State.lhToFar
  with_reducible repeat' first | assumption | (intro _) | apply modLehr_kept | apply lhFarSync_kept

theorem lhPut_kept {s₀ : State} (s : State) (e : LhEnt) (hk : Kept s₀ s) :
    Kept s₀ (State.lhPut s e) := by
  unfold State.lhPut
  with_reducible repeat' first | assumption | (intro _) | apply lhToNear_kept | apply lhToSlot_kept | apply lhToFar_kept | dsimp only | split

theorem lhOut_kept {s₀ : State} (s : State) (place : Nat) (e : LhEnt) (hk : Kept s₀ s) :
    Kept s₀ (State.lhOut s place e) := by
  unfold State.lhOut
  with_reducible repeat' first | assumption | (intro _) | apply modLehr_kept | apply lhFarSync_kept | apply lhSlotSync_kept | dsimp only | split

theorem lhFound_kept {s₀ : State} (s : State) (h : Nat) (hk : Kept s₀ s) :
    Kept s₀ (State.lhFound s h) := by
  unfold State.lhFound
  with_reducible repeat' first | assumption | (intro _) | apply modLehr_kept

theorem lhNearLeft_kept {s₀ : State} (s : State) (hk : Kept s₀ s) :
    Kept s₀ (State.lhNearLeft s) := by
  unfold State.lhNearLeft
  with_reducible repeat' first | assumption | (intro _) | apply modLehr_kept

theorem lhDone_kept {s₀ : State} (s : State) (n : Nat) (w : Vector Word 8) (result dl place : Nat) (hk : Kept s₀ s) :
    Kept s₀ (State.lhDone s n w result dl place) := by
  unfold State.lhDone
  with_reducible repeat' first | assumption | (intro _) | apply rsat_kept | apply evt_kept | apply emit_kept | apply kept_ite

theorem lhAct_kept {s₀ : State} (s : State) (w : Vector Word 8) (hk : Kept s₀ s) :
    Kept s₀ (State.lhAct s w) := by
  unfold State.lhAct
  with_reducible repeat' first | assumption | (intro _) | apply lhFound_kept | apply lhBody_kept | apply lhPut_kept | apply lhOut_kept | apply lhNearLeft_kept | apply step_kept | apply lhFree_kept | apply kept_ite | dsimp only | split

theorem lhRefuse_kept {s₀ : State} (s : State) (w : Vector Word 8) (result : Nat) (hk : Kept s₀ s) :
    Kept s₀ (State.lhRefuse s w result) := by
  unfold State.lhRefuse
  with_reducible repeat' first | assumption | (intro _) | apply lhFound_kept | apply lhFree_kept | apply kept_ite | dsimp only | split

theorem lhExecute_kept {s₀ : State} (s : State) (n : Nat) (w : Vector Word 8) (hk : Kept s₀ s) :
    Kept s₀ (State.lhExecute s n w) := by
  unfold State.lhExecute
  with_reducible repeat' first | assumption | (intro _) | apply lhAct_kept | apply lhDone_kept | apply lhRefuse_kept | apply kept_ite

theorem lhCommand_kept {s₀ : State} (s : State) (n : Fin 64) (op : Nat) (hk : Kept s₀ s) :
    Kept s₀ (State.lhCommand s n op) := by
  unfold State.lhCommand
  with_reducible repeat' first | assumption | (intro _) | apply lhHosterr_kept | apply rput_kept | apply rsat_kept | apply modLehr_kept | apply ringPop_kept | apply lhExecute_kept | apply ringSkips_kept | apply kept_ite | dsimp only | split

theorem lhResume_kept {s₀ : State} (s : State) (hk : Kept s₀ s) :
    Kept s₀ (State.lhResume s) := by
  unfold State.lhResume
  with_reducible repeat' first | assumption | (intro _) | apply rput_kept | apply modLehr_kept | apply ringPop_kept | apply lhExecute_kept | apply ringSkips_kept | apply kept_ite | apply kept_dite | dsimp only | split

theorem lhMoveAll_kept {s₀ : State} (s : State) (two : Bool) (near : LhEnt → Bool) (es : List LhEnt) (h : Kept s₀ s) : Kept s₀ ((s.lhMoveAll two near es).1) := by
  induction es generalizing s with
  | nil => exact h
  | cons e es ih =>
    unfold State.lhMoveAll
    with_reducible repeat' first | assumption | (intro _) | apply ih | apply lhOut_kept | apply lhToNear_kept | apply lhToSlot_kept | apply kept_ite | dsimp only | split

theorem lhPrefetch_kept {s₀ : State} (s : State) (hk : Kept s₀ s) :
    Kept s₀ (State.lhPrefetch s) := by
  unfold State.lhPrefetch
  with_reducible repeat' first | assumption | (intro _) | apply lhHosterr_kept | apply lhMoveAll_kept | apply modLehr_kept | apply kept_ite

theorem lhMigrate_kept {s₀ : State} (s : State) (es : List LhEnt) (h : Kept s₀ s) : Kept s₀ (s.lhMigrate es) := by
  induction es generalizing s with
  | nil => exact h
  | cons e es ih =>
    unfold State.lhMigrate
    with_reducible repeat' first | assumption | (intro _) | apply ih | apply lhOut_kept | apply lhToSlot_kept | apply kept_ite

theorem lhCascade_kept {s₀ : State} (s : State) (hk : Kept s₀ s) :
    Kept s₀ (State.lhCascade s) := by
  unfold State.lhCascade
  with_reducible repeat' first | assumption | (intro _) | apply lhHosterr_kept | apply lhMoveAll_kept | apply modLehr_kept | apply lhMigrate_kept | apply kept_ite

theorem lhRecord_kept {s₀ : State} (s : State) (e : LhEnt) (late : Nat) (hk : Kept s₀ s) :
    Kept s₀ (State.lhRecord s e late) := by
  unfold State.lhRecord
  with_reducible repeat' first | assumption | (intro _) | (simp only [kept_mk]; apply kept_q) | apply rsat_kept | apply ecEvt_kept | apply lhState_kept | apply step_kept | apply kept_ite

theorem lhMaxLate_kept {s₀ : State} (s : State) (late : Nat) (hk : Kept s₀ s) :
    Kept s₀ (State.lhMaxLate s late) := by
  unfold State.lhMaxLate
  with_reducible repeat' first | assumption | (intro _) | (simp only [kept_mk]; apply kept_q) | apply rput_kept | apply kept_ite

theorem lhFire_kept {s₀ : State} (s : State) (e : LhEnt) (hk : Kept s₀ s) :
    Kept s₀ (State.lhFire s e) := by
  unfold State.lhFire
  with_reducible repeat' first | assumption | (intro _) | apply lhOut_kept | apply lhNearLeft_kept | apply lhFree_kept | apply wake_kept | apply lhRecord_kept | apply rwrap_kept | apply evt_kept | apply lhMaxLate_kept | apply kept_ite

theorem lhLose_kept {s₀ : State} (s : State) (e : LhEnt) (hk : Kept s₀ s) :
    Kept s₀ (State.lhLose s e) := by
  unfold State.lhLose
  with_reducible repeat' first | assumption | (intro _) | apply lhOut_kept | apply lhNearLeft_kept | apply modLehr_kept | apply eccRead_kept | apply lhState_kept

theorem lhFireNext_kept {s₀ : State} (s : State) (ecc : Ecc) (hk : Kept s₀ s) :
    Kept s₀ (State.lhFireNext s ecc) := by
  unfold State.lhFireNext
  with_reducible repeat' first | assumption | (intro _) | apply drawn_kept | apply lhLose_kept | apply eccRead_kept | apply lhFire_kept | apply kept_ite | dsimp only | split

theorem lhOn_kept {s₀ : State} (s : State) (hk : Kept s₀ s) :
    Kept s₀ (State.lhOn s) := by
  unfold State.lhOn
  with_reducible repeat' first | assumption | (intro _) | apply rput_kept | apply modLehr_kept | apply kept_ite | dsimp only | split | (simp only [kept_mk]; apply kept_sram) | apply memWrN_wf | apply memFilter_wf

theorem lhDrain_kept {s₀ : State} (s : State) (n : Fin 64) (hk : Kept s₀ s) :
    Kept s₀ (State.lhDrain s n) := by
  unfold State.lhDrain
  with_reducible repeat' first | assumption | (intro _) | apply lhDone_kept | apply modRing_kept | apply ringSkips_kept | apply kept_ite | apply kept_foldl | dsimp only | split

theorem lhOff_kept {s₀ : State} (s : State) (hk : Kept s₀ s) :
    Kept s₀ (State.lhOff s) := by
  unfold State.lhOff
  with_reducible repeat' first | assumption | (intro _) | apply rput_kept | apply modLehr_kept | apply reset_kept | apply lhDrain_kept | apply lhState_kept | apply kept_ite | apply kept_foldl

theorem lhCtrlWrite_kept {s₀ : State} (s : State) (p : Path) (v : Word) (hk : Kept s₀ s) :
    Kept s₀ (State.lhCtrlWrite s p v) := by
  unfold State.lhCtrlWrite
  with_reducible repeat' first | assumption | (intro _) | apply cfgWrite_kept | apply evt_kept | apply lockViolation_kept | apply rput_kept | apply lhPfWrite_kept | apply lhOn_kept | apply lhOff_kept | apply kept_ite

theorem execLehrNop_kept {s₀ : State} (n : Fin 64) (s : State) (hk : Kept s₀ s) :
    KeptO s₀ (execLehrNop n s) := by
  unfold execLehrNop
  with_reducible repeat' first | assumption | (intro _) | apply event_kept | apply ringExec_kept | apply lhDone_kept | apply kept_ite

theorem execArm_kept {s₀ : State} (n : Fin 64) (s : State) (hk : Kept s₀ s) :
    KeptO s₀ (execArm n s) := by
  unfold execArm
  with_reducible repeat' first | assumption | (intro _) | apply event_kept | apply lhCommand_kept

theorem execCancel_kept {s₀ : State} (n : Fin 64) (s : State) (hk : Kept s₀ s) :
    KeptO s₀ (execCancel n s) := by
  unfold execCancel
  with_reducible repeat' first | assumption | (intro _) | apply event_kept | apply lhCommand_kept

theorem execMove_kept {s₀ : State} (n : Fin 64) (s : State) (hk : Kept s₀ s) :
    KeptO s₀ (execMove n s) := by
  unfold execMove
  with_reducible repeat' first | assumption | (intro _) | apply event_kept | apply lhCommand_kept

theorem execLehrIllegal_kept {s₀ : State} (n : Fin 64) (s : State) (hk : Kept s₀ s) :
    KeptO s₀ (execLehrIllegal n s) := by
  unfold execLehrIllegal
  with_reducible repeat' first | assumption | (intro _) | apply event_kept | apply ringExec_kept | apply lhDone_kept | apply kept_ite

theorem execStallResume_kept {s₀ : State} (s : State) (hk : Kept s₀ s) :
    KeptO s₀ (execStallResume s) := by
  unfold execStallResume
  with_reducible repeat' first | assumption | (intro _) | apply event_kept | apply lhResume_kept

theorem execPrefetch_kept {s₀ : State} (s : State) (hk : Kept s₀ s) :
    KeptO s₀ (execPrefetch s) := by
  unfold execPrefetch
  with_reducible repeat' first | assumption | (intro _) | apply event_kept | apply lhPrefetch_kept

theorem execCascade_kept {s₀ : State} (s : State) (hk : Kept s₀ s) :
    KeptO s₀ (execCascade s) := by
  unfold execCascade
  with_reducible repeat' first | assumption | (intro _) | apply event_kept | apply lhCascade_kept

theorem execDeadlineFire_kept {s₀ : State} (ecc : Ecc) (s : State) (hk : Kept s₀ s) :
    KeptO s₀ (execDeadlineFire ecc s) := by
  unfold execDeadlineFire
  with_reducible repeat' first | assumption | (intro _) | apply event_kept | apply lhFireNext_kept

theorem execLehrEnable_kept {s₀ : State} (p : Path) (v : Word) (s : State) (hk : Kept s₀ s) :
    KeptO s₀ (execLehrEnable p v s) := by
  unfold execLehrEnable
  with_reducible repeat' first | assumption | (intro _) | apply hostAct_kept | apply lhCtrlWrite_kept

theorem execLehrDisable_kept {s₀ : State} (p : Path) (v : Word) (s : State) (hk : Kept s₀ s) :
    KeptO s₀ (execLehrDisable p v s) := by
  unfold execLehrDisable
  with_reducible repeat' first | assumption | (intro _) | apply hostAct_kept | apply lhCtrlWrite_kept

theorem execLehrHosterr_kept {s₀ : State} (s : State) (hk : Kept s₀ s) :
    KeptO s₀ (execLehrHosterr s) := by
  unfold execLehrHosterr
  with_reducible repeat' first | assumption | (intro _) | apply event_kept | apply lhHosterr_kept

theorem modEl_kept {s₀ : State} (s : State) (f : Ewer → Ewer) (hk : Kept s₀ s) :
    Kept s₀ (State.modEl s f) := by
  unfold State.modEl
  with_reducible repeat' first | assumption | (intro _) | (simp only [kept_mk]; apply kept_q)

theorem modPort_kept {s₀ : State} (s : State) (p : Fin 4) (f : ElPort → ElPort) (hk : Kept s₀ s) :
    Kept s₀ (State.modPort s p f) := by
  unfold State.modPort
  with_reducible repeat' first | assumption | (intro _) | apply modEl_kept

theorem elSample_kept {s₀ : State} (s : State) (p : Fin 4) (x : Int) (hk : Kept s₀ s) :
    Kept s₀ (State.elSample s p x) := by
  unfold State.elSample
  with_reducible repeat' first | assumption | (intro _) | apply modPort_kept | apply rput_kept | apply kept_ite

theorem servoRecord_kept {s₀ : State} (s : State) (new old cause : Nat) (theta : Int) (hk : Kept s₀ s) :
    Kept s₀ (State.servoRecord s new old cause theta) := by
  unfold State.servoRecord
  with_reducible repeat' first | assumption | (intro _) | apply emit_kept

theorem servoEnter_kept {s₀ : State} (s : State) (new : Nat) (hk : Kept s₀ s) :
    Kept s₀ (State.servoEnter s new) := by
  unfold State.servoEnter
  with_reducible repeat' first | assumption | (intro _) | apply rput_kept | apply evt_kept | apply modEl_kept | apply rsat_kept | apply setReg_kept | apply kept_ite

theorem servoTo_kept {s₀ : State} (s : State) (new cause : Nat) (theta : Int) (hk : Kept s₀ s) :
    Kept s₀ (State.servoTo s new cause theta) := by
  unfold State.servoTo
  with_reducible repeat' first | assumption | (intro _) | apply servoEnter_kept | apply servoRecord_kept | apply kept_ite

theorem servoFree_kept {s₀ : State} (s : State) (new : Nat) (theta : Int) (hk : Kept s₀ s) :
    Kept s₀ (State.servoFree s new theta) := by
  unfold State.servoFree
  with_reducible repeat' first | assumption | (intro _) | apply drawn_kept | apply servoTo_kept

theorem servoFollow_kept {s₀ : State} (s : State) (cause : Nat) (lost : Bool) (hk : Kept s₀ s) :
    Kept s₀ (State.servoFollow s cause lost) := by
  unfold State.servoFollow
  with_reducible repeat' first | assumption | (intro _) | apply setReg_kept | apply servoTo_kept | apply kept_ite

theorem servoMode_kept {s₀ : State} (s : State) (hk : Kept s₀ s) :
    Kept s₀ (State.servoMode s) := by
  unfold State.servoMode
  with_reducible repeat' first | assumption | (intro _) | apply drawn_kept | apply servoFollow_kept

theorem servoSteer_kept {s₀ : State} (s : State) (p : Fin 4) (num : Int) (hk : Kept s₀ s) :
    Kept s₀ (State.servoSteer s p num) := by
  unfold State.servoSteer
  with_reducible repeat' first | assumption | (intro _) | apply setReg_kept

theorem servoDoStep_kept {s₀ : State} (s : State) (a : Int) (hk : Kept s₀ s) :
    Kept s₀ (State.servoDoStep s a) := by
  unfold State.servoDoStep
  with_reducible repeat' first | assumption | (intro _) | apply rput_kept | apply spnRefuse_kept | apply stepBy_kept | apply apFollow_kept | apply kept_ite

theorem servoRanged_kept {s₀ : State} (s : State) (theta : Int) (hk : Kept s₀ s) :
    Kept s₀ (State.servoRanged s theta) := by
  unfold State.servoRanged
  with_reducible repeat' first | assumption | (intro _) | apply servoEnter_kept | apply servoRecord_kept | apply modEl_kept | apply evt_kept | apply kept_ite

theorem servoTrack_kept {s₀ : State} (s : State) (p : Fin 4) (num : Int) (hk : Kept s₀ s) :
    Kept s₀ (State.servoTrack s p num) := by
  unfold State.servoTrack
  with_reducible repeat' first | assumption | (intro _) | apply servoRanged_kept | apply servoDoStep_kept | apply rsat_kept | apply servoTo_kept | apply servoRecord_kept | apply modEl_kept | apply servoSteer_kept | apply kept_ite

theorem servoAcq_kept {s₀ : State} (s : State) (t1 t2 : Nat) (hk : Kept s₀ s) :
    Kept s₀ (State.servoAcq s t1 t2) := by
  unfold State.servoAcq
  with_reducible repeat' first | assumption | (intro _) | apply modEl_kept | apply setReg_kept | apply servoFree_kept | apply kept_ite | dsimp only | split

theorem servoOffset_kept {s₀ : State} (s : State) (p : Fin 4) (t21 : Int) (step : Bool) (hk : Kept s₀ s) :
    Kept s₀ (State.servoOffset s p t21 step) := by
  unfold State.servoOffset
  with_reducible repeat' first | assumption | (intro _) | apply step_kept | apply setReg_kept | apply modEl_kept | apply kept_ite

theorem servoBeacon_kept {s₀ : State} (s : State) (p : Fin 4) (t1 t2 : Nat) (step qual : Bool) (hk : Kept s₀ s) :
    Kept s₀ (State.servoBeacon s p t1 t2 step qual) := by
  unfold State.servoBeacon
  with_reducible repeat' first | assumption | (intro _) | apply servoOffset_kept | apply step_kept | apply modEl_kept | apply servoTo_kept | apply servoAcq_kept | apply servoFree_kept | apply servoTrack_kept | apply kept_ite

theorem elLink_kept {s₀ : State} (s : State) (p old new cause : Nat) (hk : Kept s₀ s) :
    Kept s₀ (State.elLink s p old new cause) := by
  unfold State.elLink
  with_reducible repeat' first | assumption | (intro _) | apply evt_kept | apply emit_kept

theorem elLinkFree_kept {s₀ : State} (s : State) (p old new : Nat) (hk : Kept s₀ s) :
    Kept s₀ (State.elLinkFree s p old new) := by
  unfold State.elLinkFree
  with_reducible repeat' first | assumption | (intro _) | apply drawn_kept | apply elLink_kept

theorem elTopo_kept {s₀ : State} (s : State) (kind node : Nat) (hk : Kept s₀ s) :
    Kept s₀ (State.elTopo s kind node) := by
  unfold State.elTopo
  with_reducible repeat' first | assumption | (intro _) | apply evt_kept | apply emit_kept

theorem elOffer_kept {s₀ : State} (s : State) (p : Fin 4) (m : ElMsg) (hk : Kept s₀ s) :
    Kept s₀ ((State.elOffer s p m).1) := by
  unfold State.elOffer
  with_reducible repeat' first | assumption | (intro _) | (refine kept_pair (by assumption) ?_) | apply kept_ite_fst | apply modPort_kept | apply rsat_kept

theorem elSend_kept {s₀ : State} (s : State) (p : Fin 4) (m : ElMsg) (hk : Kept s₀ s) :
    Kept s₀ (State.elSend s p m) := by
  unfold State.elSend
  with_reducible repeat' first | assumption | (intro _) | (refine kept_pair (by assumption) ?_) | apply elOffer_kept

theorem elDrop_kept {s₀ : State} (s : State) (hk : Kept s₀ s) :
    Kept s₀ (State.elDrop s) := by
  unfold State.elDrop
  with_reducible repeat' first | assumption | (intro _) | apply rsat_kept | apply evt_kept

theorem elForward_kept {s₀ : State} (s : State) (p : Fin 4) (to' : Nat) (m : ElMsg) (hk : Kept s₀ s) :
    Kept s₀ (State.elForward s p to' m) := by
  unfold State.elForward
  with_reducible repeat' first | assumption | (intro _) | apply elDrop_kept | apply elSend_kept | apply kept_ite | dsimp only | split

theorem elJoinUp_kept {s₀ : State} (s : State) (id uid : Nat) (hk : Kept s₀ s) :
    Kept s₀ (State.elJoinUp s id uid) := by
  unfold State.elJoinUp
  with_reducible repeat' first | assumption | (intro _) | apply elSend_kept | dsimp only | split

theorem elJoin_kept {s₀ : State} (s : State) (hk : Kept s₀ s) :
    Kept s₀ (State.elJoin s) := by
  unfold State.elJoin
  with_reducible repeat' first | assumption | (intro _) | apply modEl_kept | apply rput_kept | apply elJoinUp_kept | apply kept_ite | apply kept_foldl | dsimp only | split

theorem elLeaveUp_kept {s₀ : State} (s : State) (ids : List Nat) (k : Nat) (h : Kept s₀ s) : Kept s₀ (s.elLeaveUp ids k) := by
  induction k generalizing s ids with
  | zero => exact h
  | succ k ih =>
    unfold State.elLeaveUp
    with_reducible repeat' first | assumption | (intro _) | apply ih | apply elSend_kept | dsimp only | split

theorem elRemove_kept {s₀ : State} (s : State) (ids : List Nat) (hk : Kept s₀ s) :
    Kept s₀ (State.elRemove s ids) := by
  unfold State.elRemove
  with_reducible repeat' first | assumption | (intro _) | apply modEl_kept | apply elTopo_kept | apply elLeaveUp_kept | apply kept_ite

theorem elChildLost_kept {s₀ : State} (s : State) (p : Nat) (hk : Kept s₀ s) :
    Kept s₀ (State.elChildLost s p) := by
  unfold State.elChildLost
  with_reducible repeat' first | assumption | (intro _) | apply elRemove_kept

theorem elAdopt_kept {s₀ : State} (s : State) (c : ElPick) (hk : Kept s₀ s) :
    Kept s₀ (State.elAdopt s c) := by
  unfold State.elAdopt
  with_reducible repeat' first | assumption | (intro _) | apply modEl_kept | apply rput_kept | apply rseqStep_kept | apply kept_ite | dsimp only | split

theorem elRoles_kept {s₀ : State} (s : State) (hk : Kept s₀ s) :
    Kept s₀ (State.elRoles s) := by
  unfold State.elRoles
  with_reducible repeat' first | assumption | (intro _) | apply rput_kept | apply elChildLost_kept | apply kept_ite | apply kept_foldl

theorem elServoMoved_kept {s₀ : State} (s : State) (hadParent rootChanged parentChanged : Bool) (hk : Kept s₀ s) :
    Kept s₀ (State.elServoMoved s hadParent rootChanged parentChanged) := by
  unfold State.elServoMoved
  with_reducible repeat' first | assumption | (intro _) | apply modEl_kept | apply servoFollow_kept | apply servoTo_kept | apply kept_ite | dsimp only | split

theorem elSelect_kept {s₀ : State} (s : State) (hk : Kept s₀ s) :
    Kept s₀ (State.elSelect s) := by
  unfold State.elSelect
  with_reducible repeat' first | assumption | (intro _) | apply elAdopt_kept | apply elTopo_kept | apply elRoles_kept | apply rput_kept | apply elJoin_kept | apply elServoMoved_kept | apply kept_ite

theorem elPortOff_kept {s₀ : State} (s : State) (p : Fin 4) (new : Nat) (report : State → Nat → State) (hreport : ∀ a x0, Kept s₀ a → Kept s₀ (report a x0)) (hk : Kept s₀ s) :
    Kept s₀ (State.elPortOff s p new report) := by
  unfold State.elPortOff
  with_reducible repeat' first | assumption | (intro _) | apply hreport | apply rput_kept | apply modPort_kept | apply rsat_kept | apply elChildLost_kept | apply elSelect_kept | apply kept_ite

theorem elDown_kept {s₀ : State} (s : State) (p : Fin 4) (cause : Nat) (hk : Kept s₀ s) :
    Kept s₀ (State.elDown s p cause) := by
  unfold State.elDown
  with_reducible repeat' first | assumption | (intro _) | apply elPortOff_kept | apply elLink_kept | apply kept_ite

theorem elPortOn_kept {s₀ : State} (s : State) (p : Fin 4) (hk : Kept s₀ s) :
    Kept s₀ (State.elPortOn s p) := by
  unfold State.elPortOn
  with_reducible repeat' first | assumption | (intro _) | apply elPortOff_kept | apply elLinkFree_kept | apply kept_ite

theorem elPortDisable_kept {s₀ : State} (s : State) (p : Fin 4) (hk : Kept s₀ s) :
    Kept s₀ (State.elPortDisable s p) := by
  unfold State.elPortDisable
  with_reducible repeat' first | assumption | (intro _) | apply elPortOff_kept | apply elLink_kept

theorem elLockOn_kept {s₀ : State} (s : State) (p : Fin 4) (hk : Kept s₀ s) :
    Kept s₀ (State.elLockOn s p) := by
  unfold State.elLockOn
  with_reducible repeat' first | assumption | (intro _) | apply rput_kept | apply elLink_kept | apply kept_ite

theorem elOff_kept {s₀ : State} (s : State) (hk : Kept s₀ s) :
    Kept s₀ (State.elOff s) := by
  unfold State.elOff
  with_reducible repeat' first | assumption | (intro _) | apply rput_kept | apply modPort_kept | apply elLink_kept | apply modEl_kept | apply elAdopt_kept | apply servoTo_kept | apply elTopo_kept | apply kept_ite | apply kept_foldl

theorem elPorts_kept {s₀ : State} (s : State) (hk : Kept s₀ s) :
    Kept s₀ (State.elPorts s) := by
  unfold State.elPorts
  with_reducible repeat' first | assumption | (intro _) | apply elPortOn_kept | apply elPortDisable_kept | apply kept_ite | apply kept_foldl

theorem elCtrlWrite_kept {s₀ : State} (s : State) (p : Path) (v : Word) (hk : Kept s₀ s) :
    Kept s₀ (State.elCtrlWrite s p v) := by
  unfold State.elCtrlWrite
  with_reducible repeat' first | assumption | (intro _) | apply lockViolation_kept | apply cfgWrite_kept | apply setReg_kept | apply elOff_kept | apply elPorts_kept | apply elSelect_kept | apply kept_ite

theorem holdoffEnd_kept {s₀ : State} (s : State) (p : Fin 4) (hk : Kept s₀ s) :
    Kept s₀ (State.holdoffEnd s p) := by
  unfold State.holdoffEnd
  with_reducible repeat' first | assumption | (intro _) | apply rput_kept | apply kept_ite

theorem beaconTimeout_kept {s₀ : State} (s : State) (p : Fin 4) (hk : Kept s₀ s) :
    Kept s₀ (State.beaconTimeout s p) := by
  unfold State.beaconTimeout
  with_reducible repeat' first | assumption | (intro _) | apply elDown_kept | apply kept_ite

theorem beaconSend_kept {s₀ : State} (s : State) (p : Fin 4) (hk : Kept s₀ s) :
    Kept s₀ (State.beaconSend s p) := by
  unfold State.beaconSend
  with_reducible repeat' first | assumption | (intro _) | apply modPort_kept | apply kept_ite | dsimp only | split

theorem beaconTake_kept {s₀ : State} (s : State) (p : Fin 4) (b : ElBcn) (t2 : Nat) (step : Bool) (hk : Kept s₀ s) :
    Kept s₀ (State.beaconTake s p b t2 step) := by
  unfold State.beaconTake
  with_reducible repeat' first | assumption | (intro _) | apply modPort_kept | apply step_kept | apply rput_kept

theorem beaconReceive_kept {s₀ : State} (s : State) (p : Fin 4) (b : ElBcn) (pos : Nat) (hk : Kept s₀ s) :
    Kept s₀ (State.beaconReceive s p b pos) := by
  unfold State.beaconReceive
  with_reducible repeat' first | assumption | (intro _) | apply step_kept | apply rput_kept | apply beaconTake_kept | apply elSelect_kept | apply elLinkFree_kept | apply modEl_kept | apply servoBeacon_kept | apply kept_ite

theorem candidateExpiry_kept {s₀ : State} (s : State) (p : Fin 4) (hk : Kept s₀ s) :
    Kept s₀ (State.candidateExpiry s p) := by
  unfold State.candidateExpiry
  with_reducible repeat' first | assumption | (intro _) | apply rput_kept | apply modPort_kept | apply elSelect_kept | apply kept_ite

theorem delayReqSend_kept {s₀ : State} (s : State) (p : Fin 4) (hk : Kept s₀ s) :
    Kept s₀ (State.delayReqSend s p) := by
  unfold State.delayReqSend
  with_reducible repeat' first | assumption | (intro _) | apply modPort_kept | apply kept_ite

theorem respSend_kept {s₀ : State} (s : State) (p : Fin 4) (hk : Kept s₀ s) :
    Kept s₀ (State.respSend s p) := by
  unfold State.respSend
  with_reducible repeat' first | assumption | (intro _) | apply modPort_kept | apply kept_ite | dsimp only | split

theorem delayReqReceive_kept {s₀ : State} (s : State) (p : Fin 4) (num pos : Nat) (hk : Kept s₀ s) :
    Kept s₀ (State.delayReqReceive s p num pos) := by
  unfold State.delayReqReceive
  with_reducible repeat' first | assumption | (intro _) | apply modPort_kept | apply respSend_kept | apply kept_ite

theorem delayRespReceive_kept {s₀ : State} (s : State) (p : Fin 4) (t4 num : Nat) (hk : Kept s₀ s) :
    Kept s₀ (State.delayRespReceive s p t4 num) := by
  unfold State.delayRespReceive
  with_reducible repeat' first | assumption | (intro _) | apply modPort_kept | apply elSample_kept | apply kept_ite | dsimp only | split

theorem delayTimeout_kept {s₀ : State} (s : State) (p : Fin 4) (hk : Kept s₀ s) :
    Kept s₀ (State.delayTimeout s p) := by
  unfold State.delayTimeout
  with_reducible repeat' first | assumption | (intro _) | apply modPort_kept | apply kept_ite | dsimp only | split

theorem joinReceive_kept {s₀ : State} (s : State) (p : Fin 4) (m : ElMsg) (id uid : Nat) (hk : Kept s₀ s) :
    Kept s₀ (State.joinReceive s p m id uid) := by
  unfold State.joinReceive
  with_reducible repeat' first | assumption | (intro _) | apply elSend_kept | apply rsat_kept | apply evt_kept | apply elTopo_kept | apply modEl_kept | apply kept_ite | dsimp only | split

theorem joinAckReceive_kept {s₀ : State} (s : State) (p : Fin 4) (m : ElMsg) (id : Nat) (conflict : Bool) (uid : Nat) (hk : Kept s₀ s) :
    Kept s₀ (State.joinAckReceive s p m id conflict uid) := by
  unfold State.joinAckReceive
  with_reducible repeat' first | assumption | (intro _) | apply rput_kept | apply evt_kept | apply elTopo_kept | apply elForward_kept | apply modEl_kept | apply kept_ite

theorem leaveReceive_kept {s₀ : State} (s : State) (p : Fin 4) (ids : List Nat) (hk : Kept s₀ s) :
    Kept s₀ (State.leaveReceive s p ids) := by
  unfold State.leaveReceive
  with_reducible repeat' first | assumption | (intro _) | apply elRemove_kept

theorem joinResend_kept {s₀ : State} (s : State) (hk : Kept s₀ s) :
    Kept s₀ (State.joinResend s) := by
  unfold State.joinResend
  with_reducible repeat' first | assumption | (intro _) | apply elJoin_kept | apply kept_ite

theorem elApply_kept {s₀ : State} (s : State) (t m src bseq : Nat) (hk : Kept s₀ s) :
    Kept s₀ (State.elApply s t m src bseq) := by
  unfold State.elApply
  with_reducible repeat' first | assumption | (intro _) | (refine kept_pair (by assumption) ?_) | apply apPlace_kept | apply rsat_kept | apply evt_kept | apply kept_ite

theorem elSpread_kept {s₀ : State} (s : State) (not' : Option (Fin 4)) (m : ElMsg) (hk : Kept s₀ s) :
    Kept s₀ (State.elSpread s not' m) := by
  unfold State.elSpread
  with_reducible repeat' first | assumption | (intro _) | apply elSend_kept | apply kept_ite | apply kept_foldl

theorem elSee_kept {s₀ : State} (s : State) (src bseq : Nat) (hk : Kept s₀ s) :
    Kept s₀ (State.elSee s src bseq) := by
  unfold State.elSee
  with_reducible repeat' first | assumption | (intro _) | apply modEl_kept

theorem applyAtFrame_kept {s₀ : State} (s : State) (p : Fin 4) (m : ElMsg) (t mask bseq : Nat) (hk : Kept s₀ s) :
    Kept s₀ (State.applyAtFrame s p m t mask bseq) := by
  unfold State.applyAtFrame
  with_reducible repeat' first | assumption | (intro _) | apply rsat_kept | apply elSee_kept | apply elApply_kept | apply elSpread_kept | apply kept_ite

theorem elConfirm_kept {s₀ : State} (s : State) (p : Fin 4) (m : ElMsg) (mid type : Nat) (refused : Bool) (hk : Kept s₀ s) :
    Kept s₀ (State.elConfirm s p m mid type refused) := by
  unfold State.elConfirm
  with_reducible repeat' first | assumption | (intro _) | apply elSend_kept | apply elDrop_kept | apply kept_ite | dsimp only | split

theorem doorbellFrame_kept {s₀ : State} (s : State) (p : Fin 4) (m : ElMsg) (n mid : Nat) (hk : Kept s₀ s) :
    Kept s₀ (State.doorbellFrame s p m n mid) := by
  unfold State.doorbellFrame
  with_reducible repeat' first | assumption | (intro _) | (simp only [kept_mk]; apply kept_q) | apply elConfirm_kept | apply ecDoorbell_kept | apply elForward_kept | apply kept_ite

theorem mailRx_kept {s₀ : State} (s : State) (src mid : Nat) (d : List Byte) (hk : Kept s₀ s) :
    Kept s₀ (State.mailRx s src mid d) := by
  unfold State.mailRx
  with_reducible repeat' first | assumption | (intro _) | apply emit_kept | apply kept_foldl

theorem mailboxFrame_kept {s₀ : State} (s : State) (p : Fin 4) (m : ElMsg) (mid : Nat) (d : List Byte) (hk : Kept s₀ s) :
    Kept s₀ (State.mailboxFrame s p m mid d) := by
  unfold State.mailboxFrame
  with_reducible repeat' first | assumption | (intro _) | apply mailRx_kept | apply elConfirm_kept | apply elForward_kept | apply kept_ite

theorem mailOutcome_kept {s₀ : State} (s : State) (kind mid : Nat) (refused : Bool) (dst : Nat) (hk : Kept s₀ s) :
    Kept s₀ (State.mailOutcome s kind mid refused dst) := by
  unfold State.mailOutcome
  with_reducible repeat' first | assumption | (intro _) | apply emit_kept

theorem deliveryReceive_kept {s₀ : State} (s : State) (p : Fin 4) (m : ElMsg) (mid type : Nat) (refused : Bool) (hk : Kept s₀ s) :
    Kept s₀ (State.deliveryReceive s p m mid type refused) := by
  unfold State.deliveryReceive
  with_reducible repeat' first | assumption | (intro _) | apply modEl_kept | apply mailOutcome_kept | apply elForward_kept | apply kept_ite

theorem mailboxTimeout_kept {s₀ : State} (s : State) (mid : Nat) (hk : Kept s₀ s) :
    Kept s₀ (State.mailboxTimeout s mid) := by
  unfold State.mailboxTimeout
  with_reducible repeat' first | assumption | (intro _) | apply modEl_kept | apply rsat_kept | apply evt_kept | apply mailOutcome_kept | dsimp only | split

theorem frameSend_kept {s₀ : State} (s : State) (p : Fin 4) (hk : Kept s₀ s) :
    Kept s₀ (State.frameSend s p) := by
  unfold State.frameSend
  with_reducible repeat' first | assumption | (intro _) | apply respSend_kept | apply modPort_kept | apply kept_ite | dsimp only | split

theorem elDone_kept {s₀ : State} (s : State) (w : Vector Word 8) (mid result : Nat) (hk : Kept s₀ s) :
    Kept s₀ (State.elDone s w mid result) := by
  unfold State.elDone
  with_reducible repeat' first | assumption | (intro _) | apply emit_kept | apply kept_ite

theorem elOriginate_kept {s₀ : State} (s : State) (m : ElMsg) (hk : Kept s₀ s) :
    Kept s₀ ((State.elOriginate s m).1) := by
  unfold State.elOriginate
  with_reducible repeat' first | assumption | (intro _) | (refine kept_pair (by assumption) ?_) | apply kept_ite_fst | apply elOffer_kept | apply elDrop_kept | apply kept_ite | dsimp only | split

theorem elUnicast_kept {s₀ : State} (s : State) (w : Vector Word 8) (type : Nat) (body : Nat → ElBody) (deliver : State → Nat → State) (refused : Bool) (hdeliver : ∀ a x0, Kept s₀ a → Kept s₀ (deliver a x0)) (hk : Kept s₀ s) :
    Kept s₀ (State.elUnicast s w type body deliver refused) := by
  unfold State.elUnicast
  with_reducible repeat' first | assumption | (intro _) | (refine kept_pair (by assumption) ?_) | apply hdeliver | apply modEl_kept | apply mailOutcome_kept | apply elDone_kept | apply elOriginate_kept | apply kept_ite

theorem elRefuse_kept {s₀ : State} (s : State) (w : Vector Word 8) (result : Nat) (hk : Kept s₀ s) :
    Kept s₀ (State.elRefuse s w result) := by
  unfold State.elRefuse
  with_reducible repeat' first | assumption | (intro _) | apply modEl_kept | apply elDone_kept

theorem elDoorbell_kept {s₀ : State} (s : State) (w : Vector Word 8) (hk : Kept s₀ s) :
    Kept s₀ (State.elDoorbell s w) := by
  unfold State.elDoorbell
  with_reducible repeat' first | assumption | (intro _) | apply elRefuse_kept | apply elUnicast_kept | apply ecDoorbell_kept | apply kept_ite

theorem elMailboxSend_kept {s₀ : State} (s : State) (w : Vector Word 8) (more : List Word) (hk : Kept s₀ s) :
    Kept s₀ (State.elMailboxSend s w more) := by
  unfold State.elMailboxSend
  with_reducible repeat' first | assumption | (intro _) | apply elRefuse_kept | apply elUnicast_kept | apply mailRx_kept | apply kept_ite

theorem elMailbox_kept {s₀ : State} (s : State) (n : Fin 64) (hk : Kept s₀ s) :
    Kept s₀ (State.elMailbox s n) := by
  unfold State.elMailbox
  with_reducible repeat' first | assumption | (intro _) | apply ringPop_kept | apply elMailboxSend_kept | apply ringSkips_kept | apply elRefuse_kept | apply kept_ite | dsimp only | split

theorem elApplyAt_kept {s₀ : State} (s : State) (w : Vector Word 8) (hk : Kept s₀ s) :
    Kept s₀ (State.elApplyAt s w) := by
  unfold State.elApplyAt
  with_reducible repeat' first | assumption | (intro _) | apply elDone_kept | apply modEl_kept | apply elSee_kept | apply elApply_kept | apply elSpread_kept | apply kept_ite

theorem elRejoin_kept {s₀ : State} (s : State) (hk : Kept s₀ s) :
    Kept s₀ (State.elRejoin s) := by
  unfold State.elRejoin
  with_reducible repeat' first | assumption | (intro _) | apply elSend_kept | apply rput_kept | apply elJoin_kept | apply kept_ite | dsimp only | split

theorem elClrCnt_kept {s₀ : State} (s : State) (hk : Kept s₀ s) :
    Kept s₀ (State.elClrCnt s) := by
  unfold State.elClrCnt
  with_reducible repeat' first | assumption | (intro _) | apply setReg_kept | apply kept_foldl

theorem elUntimed_kept {s₀ : State} (s : State) (p : Fin 4) (m : ElMsg) (hk : Kept s₀ s) :
    Kept s₀ (State.elUntimed s p m) := by
  unfold State.elUntimed
  with_reducible repeat' first | assumption | (intro _) | apply joinReceive_kept | apply joinAckReceive_kept | apply leaveReceive_kept | apply applyAtFrame_kept | apply doorbellFrame_kept | apply mailboxFrame_kept | apply deliveryReceive_kept | apply kept_ite | dsimp only | split

theorem elBad_kept {s₀ : State} (s : State) (p : Fin 4) (hk : Kept s₀ s) :
    Kept s₀ (State.elBad s p) := by
  unfold State.elBad
  with_reducible repeat' first | assumption | (intro _) | apply rsat_kept | apply evt_kept

theorem elArrives_kept {s₀ : State} (s : State) (p : Fin 4) (o : ElOut) (pos : Option Nat) (hk : Kept s₀ s) :
    Kept s₀ (State.elArrives s p o pos) := by
  unfold State.elArrives
  with_reducible repeat' first | assumption | (intro _) | apply beaconReceive_kept | apply delayReqReceive_kept | apply delayRespReceive_kept | apply elUntimed_kept | apply elBad_kept | apply kept_ite | dsimp only | split

theorem elFrame_kept {s₀ : State} (s : State) (p : Fin 4) (f : FrameHead) (o : ElOut) (pos : Option Nat) (hk : Kept s₀ s) :
    Kept s₀ (State.elFrame s p f o pos) := by
  unfold State.elFrame
  with_reducible repeat' first | assumption | (intro _) | apply elArrives_kept | apply elBad_kept | apply kept_ite | dsimp only | split

theorem execLinkLock_kept {s₀ : State} (p : Fin 4) (s : State) (hk : Kept s₀ s) :
    KeptO s₀ (execLinkLock p s) := by
  unfold execLinkLock
  with_reducible repeat' first | assumption | (intro _) | apply event_kept | apply elLockOn_kept

theorem execPortDown_kept {s₀ : State} (p : Fin 4) (code : Bool) (viol : BitVec 16) (s : State) (hk : Kept s₀ s) :
    KeptO s₀ (execPortDown p code viol s) := by
  unfold execPortDown
  with_reducible repeat' first | assumption | (intro _) | apply event_kept | apply rsat_kept | apply elDown_kept | apply kept_ite

theorem execHoldoffEnd_kept {s₀ : State} (p : Fin 4) (s : State) (hk : Kept s₀ s) :
    KeptO s₀ (execHoldoffEnd p s) := by
  unfold execHoldoffEnd
  with_reducible repeat' first | assumption | (intro _) | apply event_kept | apply holdoffEnd_kept

theorem execBeaconTimeout_kept {s₀ : State} (p : Fin 4) (s : State) (hk : Kept s₀ s) :
    KeptO s₀ (execBeaconTimeout p s) := by
  unfold execBeaconTimeout
  with_reducible repeat' first | assumption | (intro _) | apply event_kept | apply beaconTimeout_kept

theorem execBeaconSend_kept {s₀ : State} (p : Fin 4) (s : State) (hk : Kept s₀ s) :
    KeptO s₀ (execBeaconSend p s) := by
  unfold execBeaconSend
  with_reducible repeat' first | assumption | (intro _) | apply event_kept | apply beaconSend_kept

theorem execBeaconReceive_kept {s₀ : State} (p : Fin 4) (f : FrameHead) (b : Beacon) (pos : Fin 64) (s : State) (hk : Kept s₀ s) :
    KeptO s₀ (execBeaconReceive p f b pos s) := by
  unfold execBeaconReceive
  with_reducible repeat' first | assumption | (intro _) | apply event_kept | apply elFrame_kept

theorem execCandidateExpiry_kept {s₀ : State} (p : Fin 4) (s : State) (hk : Kept s₀ s) :
    KeptO s₀ (execCandidateExpiry p s) := by
  unfold execCandidateExpiry
  with_reducible repeat' first | assumption | (intro _) | apply event_kept | apply candidateExpiry_kept

theorem execDelayReqSend_kept {s₀ : State} (p : Fin 4) (s : State) (hk : Kept s₀ s) :
    KeptO s₀ (execDelayReqSend p s) := by
  unfold execDelayReqSend
  with_reducible repeat' first | assumption | (intro _) | apply event_kept | apply delayReqSend_kept

theorem execDelayReqReceive_kept {s₀ : State} (p : Fin 4) (f : FrameHead) (ask : DelayAsk) (pos : Fin 64) (s : State) (hk : Kept s₀ s) :
    KeptO s₀ (execDelayReqReceive p f ask pos s) := by
  unfold execDelayReqReceive
  with_reducible repeat' first | assumption | (intro _) | apply event_kept | apply elFrame_kept

theorem execDelayRespReceive_kept {s₀ : State} (p : Fin 4) (f : FrameHead) (t4Ns : BitVec 64) (t4Sub : BitVec 6) (num : BitVec 8) (s : State) (hk : Kept s₀ s) :
    KeptO s₀ (execDelayRespReceive p f t4Ns t4Sub num s) := by
  unfold execDelayRespReceive
  with_reducible repeat' first | assumption | (intro _) | apply event_kept | apply elFrame_kept

theorem execDelayTimeout_kept {s₀ : State} (p : Fin 4) (s : State) (hk : Kept s₀ s) :
    KeptO s₀ (execDelayTimeout p s) := by
  unfold execDelayTimeout
  with_reducible repeat' first | assumption | (intro _) | apply event_kept | apply delayTimeout_kept

theorem execJoinReceive_kept {s₀ : State} (p : Fin 4) (f : FrameHead) (id : Fin 1024) (uid : BitVec 64) (s : State) (hk : Kept s₀ s) :
    KeptO s₀ (execJoinReceive p f id uid s) := by
  unfold execJoinReceive
  with_reducible repeat' first | assumption | (intro _) | apply event_kept | apply elFrame_kept

theorem execJoinResend_kept {s₀ : State} (s : State) (hk : Kept s₀ s) :
    KeptO s₀ (execJoinResend s) := by
  unfold execJoinResend
  with_reducible repeat' first | assumption | (intro _) | apply event_kept | apply joinResend_kept

theorem execJoinAckReceive_kept {s₀ : State} (p : Fin 4) (f : FrameHead) (id : Fin 1024) (conflict : Bool) (uid : BitVec 64) (s : State) (hk : Kept s₀ s) :
    KeptO s₀ (execJoinAckReceive p f id conflict uid s) := by
  unfold execJoinAckReceive
  with_reducible repeat' first | assumption | (intro _) | apply event_kept | apply elFrame_kept

theorem execLeaveReceive_kept {s₀ : State} (p : Fin 4) (f : FrameHead) (ids : List (Fin 1024)) (s : State) (hk : Kept s₀ s) :
    KeptO s₀ (execLeaveReceive p f ids s) := by
  unfold execLeaveReceive
  with_reducible repeat' first | assumption | (intro _) | apply event_kept | apply elFrame_kept

theorem execApplyAtFrame_kept {s₀ : State} (p : Fin 4) (f : FrameHead) (t : BitVec 64) (m : BitVec 8) (bseq : BitVec 16) (s : State) (hk : Kept s₀ s) :
    KeptO s₀ (execApplyAtFrame p f t m bseq s) := by
  unfold execApplyAtFrame
  with_reducible repeat' first | assumption | (intro _) | apply event_kept | apply elFrame_kept

theorem execDoorbellFrame_kept {s₀ : State} (p : Fin 4) (f : FrameHead) (n : Fin 1024) (mid : BitVec 8) (s : State) (hk : Kept s₀ s) :
    KeptO s₀ (execDoorbellFrame p f n mid s) := by
  unfold execDoorbellFrame
  with_reducible repeat' first | assumption | (intro _) | apply event_kept | apply elFrame_kept

theorem execMailboxFrame_kept {s₀ : State} (p : Fin 4) (f : FrameHead) (mid : BitVec 8) (data : List Byte) (s : State) (hk : Kept s₀ s) :
    KeptO s₀ (execMailboxFrame p f mid data s) := by
  unfold execMailboxFrame
  with_reducible repeat' first | assumption | (intro _) | apply event_kept | apply elFrame_kept

theorem execDeliveryReceive_kept {s₀ : State} (p : Fin 4) (f : FrameHead) (mid : BitVec 8) (typ : BitVec 8) (refused : Bool) (s : State) (hk : Kept s₀ s) :
    KeptO s₀ (execDeliveryReceive p f mid typ refused s) := by
  unfold execDeliveryReceive
  with_reducible repeat' first | assumption | (intro _) | apply event_kept | apply elFrame_kept

theorem execMailboxTimeout_kept {s₀ : State} (mid : BitVec 8) (s : State) (hk : Kept s₀ s) :
    KeptO s₀ (execMailboxTimeout mid s) := by
  unfold execMailboxTimeout
  with_reducible repeat' first | assumption | (intro _) | apply event_kept | apply mailboxTimeout_kept

theorem execFrameSend_kept {s₀ : State} (p : Fin 4) (s : State) (hk : Kept s₀ s) :
    KeptO s₀ (execFrameSend p s) := by
  unfold execFrameSend
  with_reducible repeat' first | assumption | (intro _) | apply event_kept | apply frameSend_kept

theorem elExec_kept {s₀ : State} (s : State) (n : Fin 64) (isRow : Nat → Bool) (f : State → Vector Word 8 → State) (hf : ∀ a x0, Kept s₀ a → Kept s₀ (f a x0)) (hk : Kept s₀ s) :
    Kept s₀ (State.elExec s n isRow f) := by
  unfold State.elExec
  with_reducible repeat' first | assumption | (intro _) | apply hf | apply ringExec_kept | apply kept_ite

theorem execDoorbell_kept {s₀ : State} (n : Fin 64) (s : State) (hk : Kept s₀ s) :
    KeptO s₀ (execDoorbell n s) := by
  unfold execDoorbell
  with_reducible repeat' first | assumption | (intro _) | apply event_kept | apply elExec_kept | apply elDoorbell_kept

theorem execMailbox_kept {s₀ : State} (n : Fin 64) (s : State) (hk : Kept s₀ s) :
    KeptO s₀ (execMailbox n s) := by
  unfold execMailbox
  with_reducible repeat' first | assumption | (intro _) | apply event_kept | apply elMailbox_kept

theorem execMboxCont_kept {s₀ : State} (n : Fin 64) (s : State) (hk : Kept s₀ s) :
    KeptO s₀ (execMboxCont n s) := by
  unfold execMboxCont
  with_reducible repeat' first | assumption | (intro _) | apply event_kept | apply elExec_kept | apply elDone_kept

theorem execApplyAt_kept {s₀ : State} (n : Fin 64) (s : State) (hk : Kept s₀ s) :
    KeptO s₀ (execApplyAt n s) := by
  unfold execApplyAt
  with_reducible repeat' first | assumption | (intro _) | apply event_kept | apply elExec_kept | apply elApplyAt_kept

theorem execElIllegal_kept {s₀ : State} (n : Fin 64) (s : State) (hk : Kept s₀ s) :
    KeptO s₀ (execElIllegal n s) := by
  unfold execElIllegal
  with_reducible repeat' first | assumption | (intro _) | apply event_kept | apply elExec_kept | apply elDone_kept

theorem execElNop_kept {s₀ : State} (p : Path) (s : State) (hk : Kept s₀ s) :
    KeptO s₀ (execElNop p s) := by
  unfold execElNop
  with_reducible repeat' first | assumption | (intro _) | apply hostAct_kept | simp only [id_eq]

theorem execRejoin_kept {s₀ : State} (p : Path) (s : State) (hk : Kept s₀ s) :
    KeptO s₀ (execRejoin p s) := by
  unfold execRejoin
  with_reducible repeat' first | assumption | (intro _) | apply hostAct_kept | apply lockedCommand_kept | apply elRejoin_kept

theorem execElClrcnt_kept {s₀ : State} (p : Path) (s : State) (hk : Kept s₀ s) :
    KeptO s₀ (execElClrcnt p s) := by
  unfold execElClrcnt
  with_reducible repeat' first | assumption | (intro _) | apply hostAct_kept | apply elClrCnt_kept

theorem execEwerlinkDisable_kept {s₀ : State} (p : Path) (v : Word) (s : State) (hk : Kept s₀ s) :
    KeptO s₀ (execEwerlinkDisable p v s) := by
  unfold execEwerlinkDisable
  with_reducible repeat' first | assumption | (intro _) | apply hostAct_kept | apply elCtrlWrite_kept

theorem execPortDisable_kept {s₀ : State} (p : Path) (v : Word) (s : State) (hk : Kept s₀ s) :
    KeptO s₀ (execPortDisable p v s) := by
  unfold execPortDisable
  with_reducible repeat' first | assumption | (intro _) | apply hostAct_kept | apply elCtrlWrite_kept

end Sys2Proof.Machine
end

