-- ==== Sys2Proof/Laws/KeptHost.lean ====
section
/-!
SUPPORT. What every operation keeps (RegRead, Summary, Psq, Pcie, Power, Health, Freeze, CfgCmd, RegWrite, HostIf, Boot).
-/
namespace Sys2Proof.Machine
open Sys2Proof

theorem rlCopy_kept {s₀ : State} (s : State) (p : Path) (o : Nat) (hk : Kept s₀ s) :
    Kept s₀ (State.rlCopy s p o) := by
  unfold State.rlCopy
  with_reducible repeat' first | assumption | (intro _) | apply setShadow_kept | apply kept_foldl

theorem calStep_kept {s₀ : State} (s : State) (p : Path) (hk : Kept s₀ s) :
    Kept s₀ (State.calStep s p) := by
  unfold State.calStep
  with_reducible repeat' first | assumption | (intro _) | apply setHeld_kept | apply kept_ite

theorem readReg_kept {s₀ : State} (s : State) (p : Path) (o : Nat) (hk : Kept s₀ s) :
    Kept s₀ (State.readReg s p o) := by
  unfold State.readReg
  with_reducible repeat' first | assumption | (intro _) | apply capHostRead_kept | apply claimRead_kept | apply rlCopy_kept | apply answer_kept | apply modSpine_kept | apply calStep_kept | apply kept_ite

theorem readMicro_kept {s₀ : State} (s : State) (p : Path) (e : Fin 8) (w i : Nat) (hk : Kept s₀ s) :
    Kept s₀ (State.readMicro s p e w i) := by
  unfold State.readMicro
  with_reducible repeat' first | assumption | (intro _) | apply setShadow_kept | apply answer_kept | apply kept_ite | apply kept_foldl

theorem unmapped_kept {s₀ : State} (s : State) (hk : Kept s₀ s) :
    Kept s₀ (State.unmapped s) := by
  unfold State.unmapped
  with_reducible repeat' first | assumption | (intro _) | apply rsat_kept | apply evt_kept

theorem readSram_kept {s₀ : State} (s : State) (p : Path) (a : Nat) (hk : Kept s₀ s) :
    Kept s₀ (State.readSram s p a) := by
  unfold State.readSram
  with_reducible repeat' first | assumption | (intro _) | apply answer_kept | apply drawn_kept | apply kept_ite

theorem readAt_kept {s₀ : State} (s : State) (p : Path) (a : Nat) (hk : Kept s₀ s) :
    Kept s₀ (State.readAt s p a) := by
  unfold State.readAt
  with_reducible repeat' first | assumption | (intro _) | apply readReg_kept | apply answer_kept | apply readMicro_kept | apply readSram_kept | apply unmapped_kept | apply kept_ite | dsimp only | split

theorem execRlRead_kept {s₀ : State} (p : Path) (a : Word) (s : State) (hk : Kept s₀ s) :
    KeptO s₀ (execRlRead p a s) := by
  unfold execRlRead
  with_reducible repeat' first | assumption | (intro _) | apply hostRead_kept | apply readAt_kept

theorem sigStart_kept {s₀ : State} (s : State) (req : Nat) (hk : Kept s₀ s) :
    Kept s₀ (State.sigStart s req) := by
  unfold State.sigStart
  with_reducible repeat' first | assumption | (intro _) | (simp only [kept_mk]; apply kept_q) | dsimp only | split

theorem sigDone_kept {s₀ : State} (s : State) (hk : Kept s₀ s) :
    Kept s₀ (State.sigDone s) := by
  unfold State.sigDone
  with_reducible repeat' first | assumption | (intro _) | (simp only [kept_mk]; apply kept_q) | apply drawn_kept | apply setReg_kept | apply evt_kept | apply emit_kept | apply kept_ite | dsimp only | split

theorem sumStart_kept {s₀ : State} (s : State) (req : Nat) (hk : Kept s₀ s) :
    Kept s₀ (State.sumStart s req) := by
  unfold State.sumStart
  with_reducible repeat' first | assumption | (intro _) | (simp only [kept_mk]; apply kept_q) | apply sramWr_kept | dsimp only | split

theorem sumPeriod_kept {s₀ : State} (s : State) (hk : Kept s₀ s) :
    Kept s₀ (State.sumPeriod s) := by
  unfold State.sumPeriod
  with_reducible repeat' first | assumption | (intro _) | (simp only [kept_mk]; apply kept_q) | apply sumStart_kept | apply kept_ite

theorem sumDone_kept {s₀ : State} (s : State) (hk : Kept s₀ s) :
    Kept s₀ (State.sumDone s) := by
  unfold State.sumDone
  with_reducible repeat' first | assumption | (intro _) | (simp only [kept_mk]; apply kept_q) | apply sramWr_kept | apply setReg_kept | apply rput_kept | apply evt_kept | apply kept_ite | dsimp only | split

theorem ringSummary_kept {s₀ : State} (s : State) (n : Fin 64) (w : Vector Word 8) (hk : Kept s₀ s) :
    Kept s₀ (State.ringSummary s n w) := by
  unfold State.ringSummary
  with_reducible repeat' first | assumption | (intro _) | apply count_kept | apply ringDone_kept | apply modRing_kept | apply sramWr_kept | apply drawn_kept | apply hostWr_kept | apply kept_ite

theorem execSignatureGo_kept {s₀ : State} (p : Path) (s : State) (hk : Kept s₀ s) :
    KeptO s₀ (execSignatureGo p s) := by
  unfold execSignatureGo
  with_reducible repeat' first | assumption | (intro _) | apply hostAct_kept | apply sigStart_kept

theorem execSignatureDone_kept {s₀ : State} (s : State) (hk : Kept s₀ s) :
    KeptO s₀ (execSignatureDone s) := by
  unfold execSignatureDone
  with_reducible repeat' first | assumption | (intro _) | apply event_kept | apply sigDone_kept

theorem execSummaryGo_kept {s₀ : State} (p : Path) (s : State) (hk : Kept s₀ s) :
    KeptO s₀ (execSummaryGo p s) := by
  unfold execSummaryGo
  with_reducible repeat' first | assumption | (intro _) | apply hostAct_kept | apply sumStart_kept

theorem execSummaryPeriod_kept {s₀ : State} (s : State) (hk : Kept s₀ s) :
    KeptO s₀ (execSummaryPeriod s) := by
  unfold execSummaryPeriod
  with_reducible repeat' first | assumption | (intro _) | apply event_kept | apply sumPeriod_kept

theorem execSummaryDone_kept {s₀ : State} (s : State) (hk : Kept s₀ s) :
    KeptO s₀ (execSummaryDone s) := by
  unfold execSummaryDone
  with_reducible repeat' first | assumption | (intro _) | apply event_kept | apply sumDone_kept

theorem execSummary_kept {s₀ : State} (n : Fin 64) (s : State) (hk : Kept s₀ s) :
    KeptO s₀ (execSummary n s) := by
  unfold execSummary
  with_reducible repeat' first | assumption | (intro _) | apply event_kept | apply ringExec_kept | apply ringSummary_kept | apply kept_ite

theorem modPsq_kept {s₀ : State} (s : State) (f : Psq → Psq) (hk : Kept s₀ s) :
    Kept s₀ (State.modPsq s f) := by
  unfold State.modPsq
  with_reducible repeat' first | assumption | (intro _) | (simp only [kept_mk]; apply kept_q)

theorem psqSet_kept {s₀ : State} (s : State) (f : Fld) (r : Fin 8) (b : Bool) (hk : Kept s₀ s) :
    Kept s₀ (State.psqSet s f r b) := by
  unfold State.psqSet
  with_reducible repeat' first | assumption | (intro _) | apply rput_kept

theorem psqEvent_kept {s₀ : State} (s : State) (r : Fin 8) (kind : Nat) (hk : Kept s₀ s) :
    Kept s₀ (State.psqEvent s r kind) := by
  unfold State.psqEvent
  with_reducible repeat' first | assumption | (intro _) | apply emit_kept

theorem psqDone_kept {s₀ : State} (s : State) (r : Fin 8) (kind : Nat) (hk : Kept s₀ s) :
    Kept s₀ (State.psqDone s r kind) := by
  unfold State.psqDone
  with_reducible repeat' first | assumption | (intro _) | apply modPsq_kept | apply evt_kept | apply psqEvent_kept

theorem upCheck_kept {s₀ : State} (s : State) (r : Fin 8) (hk : Kept s₀ s) :
    Kept s₀ (State.upCheck s r) := by
  unfold State.upCheck
  with_reducible repeat' first | assumption | (intro _) | apply psqDone_kept | apply kept_ite | dsimp only | split

theorem railAssert_kept {s₀ : State} (s : State) (r : Fin 8) (hk : Kept s₀ s) :
    Kept s₀ (State.railAssert s r) := by
  unfold State.railAssert
  with_reducible repeat' first | assumption | (intro _) | apply psqSet_kept | apply modPsq_kept | apply psqEvent_kept | apply kept_ite

theorem railDeassert_kept {s₀ : State} (s : State) (r : Fin 8) (hk : Kept s₀ s) :
    Kept s₀ (State.railDeassert s r) := by
  unfold State.railDeassert
  with_reducible repeat' first | assumption | (intro _) | apply psqSet_kept | apply modPsq_kept | apply psqEvent_kept | apply kept_ite

theorem psqBegin_kept {s₀ : State} (s : State) (up : Bool) (start : Nat) (hk : Kept s₀ s) :
    Kept s₀ (State.psqBegin s up start) := by
  unfold State.psqBegin
  with_reducible repeat' first | assumption | (intro _) | apply modPsq_kept

theorem psqCommand_kept {s₀ : State} (s : State) (up timed : Bool) (hk : Kept s₀ s) :
    Kept s₀ (State.psqCommand s up timed) := by
  unfold State.psqCommand
  with_reducible repeat' first | assumption | (intro _) | apply evt_kept | apply psqDone_kept | apply psqBegin_kept | apply kept_ite

theorem railTaken_kept {s₀ : State} (s : State) (r : Fin 8) (hk : Kept s₀ s) :
    Kept s₀ (State.railTaken s r) := by
  unfold State.railTaken
  with_reducible repeat' first | assumption | (intro _) | apply modPsq_kept

theorem railOn_kept {s₀ : State} (s : State) (r : Fin 8) (hk : Kept s₀ s) :
    Kept s₀ (State.railOn s r) := by
  unfold State.railOn
  with_reducible repeat' first | assumption | (intro _) | apply railTaken_kept | apply railAssert_kept | apply upCheck_kept | apply kept_ite

theorem railOff_kept {s₀ : State} (s : State) (r : Fin 8) (hk : Kept s₀ s) :
    Kept s₀ (State.railOff s r) := by
  unfold State.railOff
  with_reducible repeat' first | assumption | (intro _) | apply railTaken_kept | apply railDeassert_kept | apply psqDone_kept | apply kept_ite | dsimp only | split

theorem railFault_kept {s₀ : State} (s : State) (r : Fin 8) (kind : Nat) (hk : Kept s₀ s) :
    Kept s₀ (State.railFault s r kind) := by
  unfold State.railFault
  with_reducible repeat' first | assumption | (intro _) | apply psqSet_kept | apply evt_kept | apply psqEvent_kept | apply railDeassert_kept | apply psqBegin_kept | dsimp only | split

theorem pgTimeout_kept {s₀ : State} (s : State) (r : Fin 8) (hk : Kept s₀ s) :
    Kept s₀ (State.pgTimeout s r) := by
  unfold State.pgTimeout
  with_reducible repeat' first | assumption | (intro _) | apply modPsq_kept | apply railFault_kept | apply kept_ite

theorem pgLost_kept {s₀ : State} (s : State) (r : Fin 8) (hk : Kept s₀ s) :
    Kept s₀ (State.pgLost s r) := by
  unfold State.pgLost
  with_reducible repeat' first | assumption | (intro _) | apply psqSet_kept | apply railFault_kept | apply kept_ite

theorem pgGood_kept {s₀ : State} (s : State) (r : Fin 8) (hk : Kept s₀ s) :
    Kept s₀ (State.pgGood s r) := by
  unfold State.pgGood
  with_reducible repeat' first | assumption | (intro _) | apply psqSet_kept | apply modPsq_kept | apply upCheck_kept | apply kept_ite

theorem execPsqNop_kept {s₀ : State} (p : Path) (s : State) (hk : Kept s₀ s) :
    KeptO s₀ (execPsqNop p s) := by
  unfold execPsqNop
  with_reducible repeat' first | assumption | (intro _) | apply hostAct_kept | simp only [id_eq]

theorem execPsqUp_kept {s₀ : State} (p : Path) (timed : Bool) (s : State) (hk : Kept s₀ s) :
    KeptO s₀ (execPsqUp p timed s) := by
  unfold execPsqUp
  with_reducible repeat' first | assumption | (intro _) | apply hostAct_kept | apply psqCommand_kept

theorem execPsqDown_kept {s₀ : State} (p : Path) (timed : Bool) (s : State) (hk : Kept s₀ s) :
    KeptO s₀ (execPsqDown p timed s) := by
  unfold execPsqDown
  with_reducible repeat' first | assumption | (intro _) | apply hostAct_kept | apply psqCommand_kept

theorem execPsqAbort_kept {s₀ : State} (p : Path) (s : State) (hk : Kept s₀ s) :
    KeptO s₀ (execPsqAbort p s) := by
  unfold execPsqAbort
  with_reducible repeat' first | assumption | (intro _) | apply hostAct_kept | apply modPsq_kept

theorem execClrflt_kept {s₀ : State} (p : Path) (s : State) (hk : Kept s₀ s) :
    KeptO s₀ (execClrflt p s) := by
  unfold execClrflt
  with_reducible repeat' first | assumption | (intro _) | apply hostAct_kept | apply rput_kept

theorem execRailOn_kept {s₀ : State} (r : Fin 8) (s : State) (hk : Kept s₀ s) :
    KeptO s₀ (execRailOn r s) := by
  unfold execRailOn
  with_reducible repeat' first | assumption | (intro _) | apply event_kept | apply railOn_kept

theorem execRailOff_kept {s₀ : State} (r : Fin 8) (s : State) (hk : Kept s₀ s) :
    KeptO s₀ (execRailOff r s) := by
  unfold execRailOff
  with_reducible repeat' first | assumption | (intro _) | apply event_kept | apply railOff_kept

theorem execPgTimeout_kept {s₀ : State} (r : Fin 8) (s : State) (hk : Kept s₀ s) :
    KeptO s₀ (execPgTimeout r s) := by
  unfold execPgTimeout
  with_reducible repeat' first | assumption | (intro _) | apply event_kept | apply pgTimeout_kept

theorem execPgLost_kept {s₀ : State} (r : Fin 8) (s : State) (hk : Kept s₀ s) :
    KeptO s₀ (execPgLost r s) := by
  unfold execPgLost
  with_reducible repeat' first | assumption | (intro _) | apply event_kept | apply pgLost_kept

theorem execPgoodAsserted_kept {s₀ : State} (r : Fin 8) (s : State) (hk : Kept s₀ s) :
    KeptO s₀ (execPgoodAsserted r s) := by
  unfold execPgoodAsserted
  with_reducible repeat' first | assumption | (intro _) | apply event_kept | apply pgGood_kept

theorem modFn_kept {s₀ : State} (s : State) (f : PcieFn → PcieFn) (hk : Kept s₀ s) :
    Kept s₀ (State.modFn s f) := by
  unfold State.modFn
  with_reducible repeat' first | assumption | (intro _) | (simp only [kept_mk]; apply kept_q)

theorem hostLost_kept {s₀ : State} (s : State) (hk : Kept s₀ s) :
    Kept s₀ (State.hostLost s) := by
  unfold State.hostLost
  with_reducible repeat' first | assumption | (intro _) | apply ringHosterr_kept | apply lhHosterr_kept | apply rsat_kept | apply kept_foldl

theorem fnReset_kept {s₀ : State} (s : State) (hk : Kept s₀ s) :
    Kept s₀ (State.fnReset s) := by
  unfold State.fnReset
  with_reducible repeat' first | assumption | (intro _) | (simp only [kept_mk]; apply kept_q) | apply modFn_kept

theorem linkDown_kept {s₀ : State} (s : State) (hk : Kept s₀ s) :
    Kept s₀ (State.linkDown s) := by
  unfold State.linkDown
  with_reducible repeat' first | assumption | (intro _) | apply linkUp_kept | apply fnReset_kept | apply hostLost_kept | apply kept_ite

theorem flr_kept {s₀ : State} (s : State) (hk : Kept s₀ s) :
    Kept s₀ (State.flr s) := by
  unfold State.flr
  with_reducible repeat' first | assumption | (intro _) | apply linkUp_kept | apply modFn_kept | apply hostLost_kept | apply kept_ite

theorem bmeOff_kept {s₀ : State} (s : State) (hk : Kept s₀ s) :
    Kept s₀ (State.bmeOff s) := by
  unfold State.bmeOff
  with_reducible repeat' first | assumption | (intro _) | apply modFn_kept | apply hostLost_kept | apply kept_ite

theorem d0Exit_kept {s₀ : State} (s : State) (hk : Kept s₀ s) :
    Kept s₀ (State.d0Exit s) := by
  unfold State.d0Exit
  with_reducible repeat' first | assumption | (intro _) | apply linkUp_kept | apply modFn_kept | apply hostLost_kept | apply kept_ite

theorem dmaTimeout_kept {s₀ : State} (s : State) (hk : Kept s₀ s) :
    Kept s₀ (State.dmaTimeout s) := by
  unfold State.dmaTimeout
  with_reducible repeat' first | assumption | (intro _) | apply modFn_kept | apply hostLost_kept | apply kept_ite

theorem msixFlush_kept {s₀ : State} (s : State) (hk : Kept s₀ s) :
    Kept s₀ (State.msixFlush s) := by
  unfold State.msixFlush
  with_reducible repeat' first | assumption | (intro _) | (simp only [kept_mk]; apply kept_q) | apply msixSend_kept | apply kept_ite | apply kept_foldl

theorem msixReturn_kept {s₀ : State} (s old : State) (hk : Kept s₀ s) :
    Kept s₀ (State.msixReturn s old) := by
  unfold State.msixReturn
  with_reducible repeat' first | assumption | (intro _) | apply msixBack_kept | apply kept_ite

theorem linkUp_kept {s₀ : State} (s : State) (wide : Bool) (speed : Fin 3) (bme : Bool) (mx : MsixCtl) (cfg : PcieCfg) (hk : Kept s₀ s) :
    Kept s₀ (State.linkUp s wide speed bme mx cfg) := by
  unfold State.linkUp
  with_reducible repeat' first | assumption | (intro _) | apply modFn_kept | apply msixFlush_kept | apply msixReturn_kept | apply kept_ite

theorem execPcieLinkDown_kept {s₀ : State} (s : State) (hk : Kept s₀ s) :
    KeptO s₀ (execPcieLinkDown s) := by
  unfold execPcieLinkDown
  with_reducible repeat' first | assumption | (intro _) | apply always_kept | apply linkDown_kept

theorem execFunctionLevelReset_kept {s₀ : State} (s : State) (hk : Kept s₀ s) :
    KeptO s₀ (execFunctionLevelReset s) := by
  unfold execFunctionLevelReset
  with_reducible repeat' first | assumption | (intro _) | apply always_kept | apply flr_kept

theorem execBusMasterDisable_kept {s₀ : State} (s : State) (hk : Kept s₀ s) :
    KeptO s₀ (execBusMasterDisable s) := by
  unfold execBusMasterDisable
  with_reducible repeat' first | assumption | (intro _) | apply always_kept | apply bmeOff_kept

theorem execD0Exit_kept {s₀ : State} (s : State) (hk : Kept s₀ s) :
    KeptO s₀ (execD0Exit s) := by
  unfold execD0Exit
  with_reducible repeat' first | assumption | (intro _) | apply always_kept | apply d0Exit_kept

theorem execCompletionTimeout_kept {s₀ : State} (s : State) (hk : Kept s₀ s) :
    KeptO s₀ (execCompletionTimeout s) := by
  unfold execCompletionTimeout
  with_reducible repeat' first | assumption | (intro _) | apply always_kept | apply dmaTimeout_kept

theorem execPcieLinkUp_kept {s₀ : State} (wide : Bool) (speed : Fin 3) (bme : Bool) (mx : MsixCtl) (cfg : PcieCfg) (s : State) (hk : Kept s₀ s) :
    KeptO s₀ (execPcieLinkUp wide speed bme mx cfg s) := by
  unfold execPcieLinkUp
  with_reducible repeat' first | assumption | (intro _) | apply always_kept | apply linkUp_kept

theorem pwState_kept {s₀ : State} (s : State) (new cause : Nat) (hk : Kept s₀ s) :
    Kept s₀ (State.pwState s new cause) := by
  unfold State.pwState
  with_reducible repeat' first | assumption | (intro _) | apply rput_kept | apply evt_kept | apply emit_kept | apply kept_ite

theorem pwRefuse_kept {s₀ : State} (s : State) (hk : Kept s₀ s) :
    Kept s₀ (State.pwRefuse s) := by
  unfold State.pwRefuse
  with_reducible repeat' first | assumption | (intro _) | apply evt_kept

theorem holdBootAll_kept {s₀ : State} (s : State) (on : Bool) (hk : Kept s₀ s) :
    Kept s₀ (State.holdBootAll s on) := by
  unfold State.holdBootAll
  with_reducible repeat' first | assumption | (intro _) | apply holdsChange_kept | apply modCh_kept | apply kept_foldl

theorem autostartAll_kept {s₀ : State} (s : State) (hk : Kept s₀ s) :
    Kept s₀ (State.autostartAll s) := by
  unfold State.autostartAll
  with_reducible repeat' first | assumption | (intro _) | apply autostart_kept | apply kept_ite | apply kept_foldl

theorem oryResume_kept {s₀ : State} (s : State) (hk : Kept s₀ s) :
    Kept s₀ (State.oryResume s) := by
  unfold State.oryResume
  with_reducible repeat' first | assumption | (intro _) | apply oRestart_kept | apply kept_ite | apply kept_foldl

theorem releaseNow_kept {s₀ : State} (s : State) (hk : Kept s₀ s) :
    Kept s₀ (State.releaseNow s) := by
  unfold State.releaseNow
  with_reducible repeat' first | assumption | (intro _) | apply rput_kept | apply evt_kept | apply pwState_kept | apply holdBootAll_kept | apply oryResume_kept | apply autostartAll_kept

theorem pwHold_kept {s₀ : State} (s : State) (hk : Kept s₀ s) :
    Kept s₀ (State.pwHold s) := by
  unfold State.pwHold
  with_reducible repeat' first | assumption | (intro _) | apply holdBootAll_kept | apply rput_kept | apply pwState_kept | apply pwRefuse_kept | apply kept_ite

theorem pwIdle_kept {s₀ : State} (s : State) (hk : Kept s₀ s) :
    Kept s₀ (State.pwIdle s) := by
  unfold State.pwIdle
  with_reducible repeat' first | assumption | (intro _) | apply oOff_kept | apply pwState_kept | apply pwRefuse_kept | apply kept_ite | apply kept_foldl

theorem idleEnd_kept {s₀ : State} (s : State) (cause : Nat) (hk : Kept s₀ s) :
    Kept s₀ (State.idleEnd s cause) := by
  unfold State.idleEnd
  with_reducible repeat' first | assumption | (intro _) | apply oRestart_kept | apply pwState_kept | apply autostartAll_kept | apply kept_ite | apply kept_foldl

theorem pwRun_kept {s₀ : State} (s : State) (hk : Kept s₀ s) :
    Kept s₀ (State.pwRun s) := by
  unfold State.pwRun
  with_reducible repeat' first | assumption | (intro _) | apply idleEnd_kept | apply pwRefuse_kept | apply kept_ite

theorem pgLevels_kept {s₀ : State} (s : State) (hk : Kept s₀ s) :
    Kept s₀ (State.pgLevels s) := by
  unfold State.pgLevels
  with_reducible repeat' first | assumption | (intro _) | apply rput_kept

theorem keptRegs_wf (s : State) (k : ResetKind) : tblWf resetWord (s.keptRegs k) = true :=
  wf_foldl (fun t => tblWf resetWord t = true) _ _ _ (fun _ _ h => tblWf_set _ _ _ _ h) (by rfl)

theorem coldReset_kept {s₀ : State} (s : State) (k : ResetKind) (hk : Kept s₀ s) : Kept s₀ (s.coldReset k) :=
  ⟨hk.1, hk.2.1, fun hs => ⟨keptRegs_wf _ k, by rfl, (hk.2.2 hs).2.2⟩⟩

theorem coreReset_kept {s₀ : State} (s : State) (k : ResetKind) (hk : Kept s₀ s) : Kept s₀ (s.coreReset k) :=
  ⟨hk.1, hk.2.1, fun hs => ⟨keptRegs_wf s k, memFilter_wf _ _ (hk.2.2 hs).2.1, (hk.2.2 hs).2.2⟩⟩

theorem reloadReset_kept {s₀ : State} (s : State) (hk : Kept s₀ s) : Kept s₀ s.reloadReset :=
  ⟨hk.1, hk.2.1, fun hs => ⟨keptRegs_wf s _, memFilter_wf _ _ (hk.2.2 hs).2.1, (hk.2.2 hs).2.2⟩⟩

theorem modLoad_kept {s₀ : State} (s : State) (f : Load → Load) (hk : Kept s₀ s) :
    Kept s₀ (State.modLoad s f) := by
  unfold State.modLoad
  with_reducible repeat' first | assumption | (intro _) | (simp only [kept_mk]; apply kept_q)

theorem otpScan_kept {s₀ : State} (s : State) (hk : Kept s₀ s) :
    Kept s₀ (State.otpScan s) := by
  unfold State.otpScan
  with_reducible repeat' first | assumption | (intro _) | apply rput_kept | apply modLoad_kept | apply evt_kept | apply kept_ite

theorem rstCause_kept {s₀ : State} (s : State) (cause : Nat) (hk : Kept s₀ s) :
    Kept s₀ (State.rstCause s cause) := by
  unfold State.rstCause
  with_reducible repeat' first | assumption | (intro _) | apply setReg_kept

theorem resetDone_kept {s₀ : State} (s : State) (cause : Nat) (hk : Kept s₀ s) :
    Kept s₀ (State.resetDone s cause) := by
  unfold State.resetDone
  with_reducible repeat' first | assumption | (intro _) | (simp only [kept_mk]; apply kept_q) | apply rstCause_kept | apply evt_kept

theorem por_kept {s₀ : State} (s : State) (hk : Kept s₀ s) :
    Kept s₀ (State.por s) := by
  unfold State.por
  with_reducible repeat' first | assumption | (intro _) | apply coldReset_kept | apply otpScan_kept

theorem brownOut_kept {s₀ : State} (s : State) (hk : Kept s₀ s) :
    Kept s₀ (State.brownOut s) := by
  unfold State.brownOut
  with_reducible repeat' first | assumption | (intro _) | apply coldReset_kept | apply resetDone_kept | apply otpScan_kept | apply pwState_kept

theorem pinReset_kept {s₀ : State} (s : State) (hk : Kept s₀ s) :
    Kept s₀ (State.pinReset s) := by
  unfold State.pinReset
  with_reducible repeat' first | assumption | (intro _) | apply coldReset_kept | apply rsat_kept | apply rstCause_kept | apply otpScan_kept

theorem warmReset_kept {s₀ : State} (s : State) (cause : Nat) (count : Fld) (hk : Kept s₀ s) :
    Kept s₀ (State.warmReset s cause count) := by
  unfold State.warmReset
  with_reducible repeat' first | assumption | (intro _) | apply coreReset_kept | apply rsat_kept | apply count_kept | apply resetDone_kept | apply otpScan_kept | apply pwState_kept

theorem wdgReset_kept {s₀ : State} (s : State) (hk : Kept s₀ s) :
    Kept s₀ (State.wdgReset s) := by
  unfold State.wdgReset
  with_reducible repeat' first | assumption | (intro _) | apply warmReset_kept

theorem softReset_kept {s₀ : State} (s : State) (hk : Kept s₀ s) :
    Kept s₀ (State.softReset s) := by
  unfold State.softReset
  with_reducible repeat' first | assumption | (intro _) | apply warmReset_kept

theorem linkReset_kept {s₀ : State} (s : State) (src : Nat) (hk : Kept s₀ s) :
    Kept s₀ (State.linkReset s src) := by
  unfold State.linkReset
  with_reducible repeat' first | assumption | (intro _) | apply warmReset_kept

theorem writeAll_kept {s₀ : State} (s : State) (hk : Kept s₀ s) :
    Kept s₀ (State.writeAll s) := by
  unfold State.writeAll
  with_reducible repeat' first | assumption | (intro _) | apply recordTake_kept | apply kept_foldl

theorem railsRetain_kept {s₀ : State} (s : State) (hk : Kept s₀ s) :
    Kept s₀ (State.railsRetain s) := by
  unfold State.railsRetain
  with_reducible repeat' first | assumption | (intro _) | apply railDeassert_kept | apply modPsq_kept | apply kept_ite | apply kept_foldl

theorem retainEnter_kept {s₀ : State} (s : State) (hk : Kept s₀ s) :
    Kept s₀ (State.retainEnter s) := by
  unfold State.retainEnter
  with_reducible repeat' first | assumption | (intro _) | (simp only [kept_mk]; apply kept_q) | apply holdBootAll_kept | apply railsRetain_kept | apply pwState_kept | apply writeAll_kept

theorem pwRetain_kept {s₀ : State} (s : State) (hk : Kept s₀ s) :
    Kept s₀ (State.pwRetain s) := by
  unfold State.pwRetain
  with_reducible repeat' first | assumption | (intro _) | apply linkUp_kept | apply retainEnter_kept | apply pwRefuse_kept | apply kept_ite

theorem pwOff_kept {s₀ : State} (s : State) (hk : Kept s₀ s) :
    Kept s₀ (State.pwOff s) := by
  unfold State.pwOff
  with_reducible repeat' first | assumption | (intro _) | apply pwState_kept | apply writeAll_kept

theorem vinLockout_kept {s₀ : State} (s : State) (hk : Kept s₀ s) :
    Kept s₀ (State.vinLockout s) := by
  unfold State.vinLockout
  with_reducible repeat' first | assumption | (intro _) | apply rput_kept

theorem wkup_kept {s₀ : State} (s : State) (falling : Bool) (hk : Kept s₀ s) :
    Kept s₀ (State.wkup s falling) := by
  unfold State.wkup
  with_reducible repeat' first | assumption | (intro _) | (simp only [kept_mk]; apply kept_q) | apply evt_kept | apply idleEnd_kept | apply por_kept | apply kept_ite

theorem retTimer_kept {s₀ : State} (s : State) (hk : Kept s₀ s) :
    Kept s₀ (State.retTimer s) := by
  unfold State.retTimer
  with_reducible repeat' first | assumption | (intro _) | (simp only [kept_mk]; apply kept_q) | apply kept_ite

theorem retainExit_kept {s₀ : State} (s : State) (edges : Nat) (hk : Kept s₀ s) : Kept s₀ (s.retainExit edges) := by
  unfold State.retainExit
  split
  · apply kept_ite
    · apply pwState_kept
      apply otpScan_kept
      apply evt_kept
      apply evt_kept
      apply rstCause_kept
      apply rput_kept
      have h1 := modSpine_kept s (fun x => { x with acc := s.resumed edges }) hk
      exact kept_sram_of (s := State.modSpine (State.coreReset _ .retain) (fun x => { x with refGone := false })) (modSpine_kept _ _ (coreReset_kept _ .retain h1)) h1 (memFilter_wf _ _)
    · exact hk
  · exact hk

theorem ecKept_kept {s₀ : State} (s : State) (q : RetEc) (hk : Kept s₀ s) : Kept s₀ (s.ecKept q) :=
  kept_foldl _ _ (fun a _ ha => setReg_kept a _ _ ha) (kept_regs (s := s) hk (tblWf_filter _ _ _))

theorem ecRestore_kept {s₀ : State} (s : State) (hk : Kept s₀ s) : Kept s₀ s.ecRestore := by
  unfold State.ecRestore
  split
  · exact ecRedeliver_kept _ (kept_ite (ecKept_kept _ _ hk) (ecUnlatch_kept _ (ecKept_kept _ _ hk)))
  · exact hk

theorem idleWake_kept {s₀ : State} (s : State) (hk : Kept s₀ s) :
    Kept s₀ (State.idleWake s) := by
  unfold State.idleWake
  with_reducible repeat' first | assumption | (intro _) | apply evt_kept | apply idleEnd_kept | apply kept_ite

theorem supplyFault_kept {s₀ : State} (s : State) (which : Fin 3) (hk : Kept s₀ s) :
    Kept s₀ (State.supplyFault s which) := by
  unfold State.supplyFault
  with_reducible repeat' first | assumption | (intro _) | apply rput_kept | apply evt_kept | apply lockLost_kept | apply elDown_kept | apply linkDown_kept | apply kept_ite | apply kept_foldl | dsimp only | split

theorem supplyReturn_kept {s₀ : State} (s : State) (which : Fin 3) (hk : Kept s₀ s) :
    Kept s₀ (State.supplyReturn s which) := by
  unfold State.supplyReturn
  with_reducible repeat' first | assumption | (intro _) | apply rput_kept | dsimp only | split

theorem wdgKick_kept {s₀ : State} (s : State) (v : Word) (hk : Kept s₀ s) :
    Kept s₀ (State.wdgKick s v) := by
  unfold State.wdgKick
  with_reducible repeat' first | assumption | (intro _) | (simp only [kept_mk]; apply kept_q) | apply wdgReset_kept | apply kept_ite

theorem wdgWarn_kept {s₀ : State} (s : State) (hk : Kept s₀ s) :
    Kept s₀ (State.wdgWarn s) := by
  unfold State.wdgWarn
  with_reducible repeat' first | assumption | (intro _) | (simp only [kept_mk]; apply kept_q) | apply evt_kept | apply kept_ite

theorem wdgExpiry_kept {s₀ : State} (s : State) (hk : Kept s₀ s) :
    Kept s₀ (State.wdgExpiry s) := by
  unfold State.wdgExpiry
  with_reducible repeat' first | assumption | (intro _) | apply wdgReset_kept | apply kept_ite

theorem linkResetDue_kept {s₀ : State} (s : State) (hk : Kept s₀ s) :
    Kept s₀ (State.linkResetDue s) := by
  unfold State.linkResetDue
  with_reducible repeat' first | assumption | (intro _) | apply linkReset_kept | apply kept_ite | dsimp only | split

theorem execPowerOnReset_kept {s₀ : State} (s : State) (hk : Kept s₀ s) :
    KeptO s₀ (execPowerOnReset s) := by
  unfold execPowerOnReset
  with_reducible repeat' first | assumption | (intro _) | apply always_kept | apply rput_kept | apply por_kept | apply kept_ite

theorem execBrownOut_kept {s₀ : State} (s : State) (hk : Kept s₀ s) :
    KeptO s₀ (execBrownOut s) := by
  unfold execBrownOut
  with_reducible repeat' first | assumption | (intro _) | apply always_kept | apply brownOut_kept | apply kept_ite

theorem execVinLockout_kept {s₀ : State} (s : State) (hk : Kept s₀ s) :
    KeptO s₀ (execVinLockout s) := by
  unfold execVinLockout
  with_reducible repeat' first | assumption | (intro _) | apply always_kept | apply vinLockout_kept

theorem execSupplyFault_kept {s₀ : State} (which : Fin 3) (s : State) (hk : Kept s₀ s) :
    KeptO s₀ (execSupplyFault which s) := by
  unfold execSupplyFault
  with_reducible repeat' first | assumption | (intro _) | apply always_kept | apply supplyFault_kept

theorem execSupplyReturn_kept {s₀ : State} (which : Fin 3) (s : State) (hk : Kept s₀ s) :
    KeptO s₀ (execSupplyReturn which s) := by
  unfold execSupplyReturn
  with_reducible repeat' first | assumption | (intro _) | apply always_kept | apply supplyReturn_kept

theorem execPinReset_kept {s₀ : State} (s : State) (hk : Kept s₀ s) :
    KeptO s₀ (execPinReset s) := by
  unfold execPinReset
  with_reducible repeat' first | assumption | (intro _) | apply always_kept | apply pinReset_kept | apply kept_ite

theorem pwCommand_kept {s₀ : State} (s : State) (f : State → State) (hf : ∀ a, Kept s₀ a → Kept s₀ (f a)) (hk : Kept s₀ s) :
    Kept s₀ (State.pwCommand s f) := by
  unfold State.pwCommand
  with_reducible repeat' first | assumption | (intro _) | apply hf | apply hostWrite_kept | apply pwRefuse_kept | apply kept_ite

theorem execPwNop_kept {s₀ : State} (_p : Path) (s : State) (hk : Kept s₀ s) :
    KeptO s₀ (execPwNop _p s) := by
  unfold execPwNop
  with_reducible repeat' first | assumption | (intro _) | apply pwCommand_kept | apply kept_next | simp only [id_eq]

theorem execPwRun_kept {s₀ : State} (_p : Path) (s : State) (hk : Kept s₀ s) :
    KeptO s₀ (execPwRun _p s) := by
  unfold execPwRun
  with_reducible repeat' first | assumption | (intro _) | apply pwCommand_kept | apply pwRun_kept | apply kept_next

theorem execPwIdle_kept {s₀ : State} (_p : Path) (s : State) (hk : Kept s₀ s) :
    KeptO s₀ (execPwIdle _p s) := by
  unfold execPwIdle
  with_reducible repeat' first | assumption | (intro _) | apply pwCommand_kept | apply pwIdle_kept | apply kept_next

theorem execPwHold_kept {s₀ : State} (_p : Path) (s : State) (hk : Kept s₀ s) :
    KeptO s₀ (execPwHold _p s) := by
  unfold execPwHold
  with_reducible repeat' first | assumption | (intro _) | apply pwCommand_kept | apply pwHold_kept | apply kept_next

theorem execPwRetain_kept {s₀ : State} (_p : Path) (s : State) (hk : Kept s₀ s) :
    KeptO s₀ (execPwRetain _p s) := by
  unfold execPwRetain
  with_reducible repeat' first | assumption | (intro _) | apply pwCommand_kept | apply pwRetain_kept | apply kept_next

theorem execPwOff_kept {s₀ : State} (_p : Path) (s : State) (hk : Kept s₀ s) :
    KeptO s₀ (execPwOff _p s) := by
  unfold execPwOff
  with_reducible repeat' first | assumption | (intro _) | apply pwCommand_kept | apply pwOff_kept | apply kept_next

theorem execPwSoft_kept {s₀ : State} (_p : Path) (s : State) (hk : Kept s₀ s) :
    KeptO s₀ (execPwSoft _p s) := by
  unfold execPwSoft
  with_reducible repeat' first | assumption | (intro _) | apply pwCommand_kept | apply softReset_kept | apply kept_next

theorem pwCmdRefused_kept {s₀ : State} (s : State) (v : Word) (hk : Kept s₀ s) :
    Kept s₀ (State.pwCmdRefused s v) := by
  unfold State.pwCmdRefused
  with_reducible repeat' first | assumption | (intro _) | apply linkUp_kept | apply pwRefuse_kept | apply kept_ite

theorem execPwCmdRefused_kept {s₀ : State} (_p : Path) (v : Word) (s : State) (hk : Kept s₀ s) :
    KeptO s₀ (execPwCmdRefused _p v s) := by
  unfold execPwCmdRefused
  with_reducible repeat' first | assumption | (intro _) | apply pwCommand_kept | apply pwCmdRefused_kept | apply kept_next

theorem execWkupInEdge_kept {s₀ : State} (falling : Bool) (s : State) (hk : Kept s₀ s) :
    KeptO s₀ (execWkupInEdge falling s) := by
  unfold execWkupInEdge
  with_reducible repeat' first | assumption | (intro _) | apply always_kept | apply wkup_kept

theorem execRetTmrExpiry_kept {s₀ : State} (s : State) (hk : Kept s₀ s) :
    KeptO s₀ (execRetTmrExpiry s) := by
  unfold execRetTmrExpiry
  with_reducible repeat' first | assumption | (intro _) | apply always_kept | apply retTimer_kept

theorem execRetainExit_kept {s₀ : State} (edges : Nat) (s : State) (hk : Kept s₀ s) :
    KeptO s₀ (execRetainExit edges s) := by
  unfold execRetainExit
  with_reducible repeat' first | assumption | (intro _) | apply always_kept | apply retainExit_kept

theorem execIdleWake_kept {s₀ : State} (s : State) (hk : Kept s₀ s) :
    KeptO s₀ (execIdleWake s) := by
  unfold execIdleWake
  with_reducible repeat' first | assumption | (intro _) | apply event_kept | apply idleWake_kept

theorem execWatchdogKick_kept {s₀ : State} (p : Path) (v : Word) (s : State) (hk : Kept s₀ s) :
    KeptO s₀ (execWatchdogKick p v s) := by
  unfold execWatchdogKick
  with_reducible repeat' first | assumption | (intro _) | apply hostAct_kept | apply wdgKick_kept

theorem execWdgWarn_kept {s₀ : State} (s : State) (hk : Kept s₀ s) :
    KeptO s₀ (execWdgWarn s) := by
  unfold execWdgWarn
  with_reducible repeat' first | assumption | (intro _) | apply event_kept | apply wdgWarn_kept

theorem execWatchdogExpiry_kept {s₀ : State} (s : State) (hk : Kept s₀ s) :
    KeptO s₀ (execWatchdogExpiry s) := by
  unfold execWatchdogExpiry
  with_reducible repeat' first | assumption | (intro _) | apply event_kept | apply wdgExpiry_kept

theorem execLinkReset_kept {s₀ : State} (s : State) (hk : Kept s₀ s) :
    KeptO s₀ (execLinkReset s) := by
  unfold execLinkReset
  with_reducible repeat' first | assumption | (intro _) | apply event_kept | apply linkResetDue_kept

theorem leadSet_kept {s₀ : State} (s : State) (e : Fin 8) (new : Nat) (hk : Kept s₀ s) :
    Kept s₀ (State.leadSet s e new) := by
  unfold State.leadSet
  with_reducible repeat' first | assumption | (intro _) | apply rput_kept | apply evt_kept | apply emit_kept | apply wake_kept | apply kept_ite | apply kept_foldl

theorem leadModel_kept {s₀ : State} (s : State) (e : Fin 8) (g : GafMeas) (hk : Kept s₀ s) :
    Kept s₀ (State.leadModel s e g) := by
  unfold State.leadModel
  with_reducible repeat' first | assumption | (intro _) | apply rput_kept

theorem leadOver_kept {s₀ : State} (s : State) (e : Fin 8) (hk : Kept s₀ s) :
    Kept s₀ (State.leadOver s e) := by
  unfold State.leadOver
  with_reducible repeat' first | assumption | (intro _) | apply evt_kept | apply kept_ite

theorem leadBoot_kept {s₀ : State} (s : State) (e : Fin 8) (g : GafMeas) (hk : Kept s₀ s) :
    Kept s₀ (State.leadBoot s e g) := by
  unfold State.leadBoot
  with_reducible repeat' first | assumption | (intro _) | apply leadModel_kept | apply leadSet_kept | apply leadOver_kept | apply kept_ite

theorem replan_kept {s₀ : State} (s : State) (e : Fin 8) (g : GafMeas) (hk : Kept s₀ s) :
    Kept s₀ (State.replan s e g) := by
  unfold State.replan
  with_reducible repeat' first | assumption | (intro _) | apply leadModel_kept | apply modGaf_kept | apply leadSet_kept | apply leadOver_kept | apply kept_ite

theorem replanAll_kept {s₀ : State} (s : State) (gs : List GafMeas) (hk : Kept s₀ s) :
    Kept s₀ (State.replanAll s gs) := by
  unfold State.replanAll
  with_reducible repeat' first | assumption | (intro _) | apply replan_kept | apply kept_ite | apply kept_foldl

theorem ageAdd_kept {s₀ : State} (s : State) (tj : Int) (hk : Kept s₀ s) :
    Kept s₀ (State.ageAdd s tj) := by
  unfold State.ageAdd
  with_reducible repeat' first | assumption | (intro _) | (simp only [kept_mk]; apply kept_q) | apply setReg_kept

theorem mramEntry_kept {s₀ : State} (s : State) (base size : Nat) (idx : Fld) (hk : Kept s₀ s) :
    Kept s₀ (State.mramEntry s base size idx) := by
  unfold State.mramEntry
  with_reducible repeat' first | assumption | (intro _) | (simp only [kept_mk]; apply kept_q) | apply mramWr_kept | apply rwrap_kept

theorem healthRegs_kept {s₀ : State} (s : State) (tj : BitVec 16) (ms : List Monitor) (slows : List Int) (vstFail : Bool) (hk : Kept s₀ s) :
    Kept s₀ (State.healthRegs s tj ms slows vstFail) := by
  unfold State.healthRegs
  with_reducible repeat' first | assumption | (intro _) | apply setReg_kept | apply rput_kept | apply evt_kept | apply ageAdd_kept | apply kept_ite | apply kept_foldl

theorem healthLog_kept {s₀ : State} (s : State) (hk : Kept s₀ s) :
    Kept s₀ (State.healthLog s) := by
  unfold State.healthLog
  with_reducible repeat' first | assumption | (intro _) | apply mramEntry_kept | apply kept_ite

theorem healthRecord_kept {s₀ : State} (s : State) (tj vcore : BitVec 16) (ecc worst : Nat) (vstFail : Bool) (hk : Kept s₀ s) :
    Kept s₀ (State.healthRecord s tj vcore ecc worst vstFail) := by
  unfold State.healthRecord
  with_reducible repeat' first | assumption | (intro _) | apply emit_kept | apply kept_ite

theorem eccMark_kept {s₀ : State} (s : State) (hk : Kept s₀ s) :
    Kept s₀ (State.eccMark s) := by
  unfold State.eccMark
  with_reducible repeat' first | assumption | (intro _) | (simp only [kept_mk]; apply kept_q)

theorem healthSample_kept {s₀ : State} (s : State) (tj vcore : BitVec 16) (ms : List Monitor) (vst : List (BitVec 16)) (gs : List GafMeas) (hk : Kept s₀ s) :
    Kept s₀ (State.healthSample s tj vcore ms vst gs) := by
  unfold State.healthSample
  with_reducible repeat' first | assumption | (intro _) | (simp only [kept_mk]; apply kept_q) | apply healthRegs_kept | apply replanAll_kept | apply eccMark_kept | apply healthLog_kept | apply healthRecord_kept | apply kept_ite

theorem healthLife_kept {s₀ : State} (s : State) (hk : Kept s₀ s) :
    Kept s₀ (State.healthLife s) := by
  unfold State.healthLife
  with_reducible repeat' first | assumption | (intro _) | (simp only [kept_mk]; apply kept_q) | apply mramEntry_kept | apply rput_kept | apply evt_kept | apply emit_kept | apply kept_ite

theorem recalBank_kept {s₀ : State} (s : State) (m : BankMeas) (hk : Kept s₀ s) :
    Kept s₀ (State.recalBank s m) := by
  unfold State.recalBank
  with_reducible repeat' first | assumption | (intro _) | apply modBank_kept | apply rwrap_kept | apply rput_kept

theorem recalibrate_kept {s₀ : State} (s : State) (ms : List BankMeas) (gs : List GafMeas) (tj : BitVec 16) (hk : Kept s₀ s) :
    Kept s₀ (State.recalibrate s ms gs tj) := by
  unfold State.recalibrate
  with_reducible repeat' first | assumption | (intro _) | (simp only [kept_mk]; apply kept_q) | apply recalBank_kept | apply rput_kept | apply rwrap_kept | apply evt_kept | apply emit_kept | apply leadBoot_kept | apply replanAll_kept | apply kept_ite | apply kept_foldl

theorem execHealthSample_kept {s₀ : State} (tj vcore : BitVec 16) (ms : List Monitor) (vst : List (BitVec 16)) (gs : List GafMeas) (s : State) (hk : Kept s₀ s) :
    KeptO s₀ (execHealthSample tj vcore ms vst gs s) := by
  unfold execHealthSample
  with_reducible repeat' first | assumption | (intro _) | apply event_kept | apply healthSample_kept

theorem execHealthLife_kept {s₀ : State} (s : State) (hk : Kept s₀ s) :
    KeptO s₀ (execHealthLife s) := by
  unfold execHealthLife
  with_reducible repeat' first | assumption | (intro _) | apply event_kept | apply healthLife_kept

theorem frzRefuse_kept {s₀ : State} (s : State) (hk : Kept s₀ s) :
    Kept s₀ (State.frzRefuse s) := by
  unfold State.frzRefuse
  with_reducible repeat' first | assumption | (intro _) | apply evt_kept

theorem holdFrzAll_kept {s₀ : State} (s : State) (on : Bool) (hk : Kept s₀ s) :
    Kept s₀ (State.holdFrzAll s on) := by
  unfold State.holdFrzAll
  with_reducible repeat' first | assumption | (intro _) | apply holdsChange_kept | apply modCh_kept | apply kept_foldl

theorem frzBegin_kept {s₀ : State} (s : State) (cause : Nat) (hk : Kept s₀ s) :
    Kept s₀ (State.frzBegin s cause) := by
  unfold State.frzBegin
  with_reducible repeat' first | assumption | (intro _) | (simp only [kept_mk]; apply kept_q) | apply setReg_kept | apply rwrap_kept | apply rput_kept | apply evt_kept | apply holdFrzAll_kept | apply kept_ite

theorem frzRequest_kept {s₀ : State} (s : State) (f : Fld) (cause : Nat) (hk : Kept s₀ s) :
    Kept s₀ (State.frzRequest s f cause) := by
  unfold State.frzRequest
  with_reducible repeat' first | assumption | (intro _) | apply frzRefuse_kept | apply rput_kept | apply frzBegin_kept | apply kept_ite

theorem gapStep_kept {s₀ : State} (s : State) (g : Nat) (hk : Kept s₀ s) :
    Kept s₀ (State.gapStep s g) := by
  unfold State.gapStep
  with_reducible repeat' first | assumption | (intro _) | apply modSpine_kept | apply stepRejudge_kept | apply apPass_kept | apply lhPass_kept | apply apFollow_kept

theorem frzMarks_kept {s₀ : State} (s : State) (hk : Kept s₀ s) :
    Kept s₀ (State.frzMarks s) := by
  unfold State.frzMarks
  with_reducible repeat' first | assumption | (intro _) | (simp only [kept_mk]; apply kept_q)

theorem gapRegs_kept {s₀ : State} (s : State) (g : Nat) (hk : Kept s₀ s) :
    Kept s₀ (State.gapRegs s g) := by
  unfold State.gapRegs
  with_reducible repeat' first | assumption | (intro _) | apply setReg_kept

theorem frzRecords_kept {s₀ : State} (s : State) (g : Nat) (pins : Bool) (hk : Kept s₀ s) :
    Kept s₀ (State.frzRecords s g pins) := by
  unfold State.frzRecords
  with_reducible repeat' first | assumption | (intro _) | apply emit_kept

theorem frzMsix_kept {s₀ : State} (s : State) (hk : Kept s₀ s) :
    Kept s₀ (State.frzMsix s) := by
  unfold State.frzMsix
  with_reducible repeat' first | assumption | (intro _) | (simp only [kept_mk]; apply kept_q) | apply msixFlush_kept | apply ecRedeliver_kept | apply kept_ite

theorem frzThaw_kept {s₀ : State} (s : State) (hk : Kept s₀ s) :
    Kept s₀ (State.frzThaw s) := by
  unfold State.frzThaw
  with_reducible repeat' first | assumption | (intro _) | apply rput_kept | apply gapRegs_kept | apply frzMarks_kept | apply tickMove_kept | apply holdFrzAll_kept | apply gapStep_kept | apply frzRecords_kept | apply evt_kept | apply frzMsix_kept | apply ecUnlatch_kept | apply kept_ite

theorem frzEnd_kept {s₀ : State} (s : State) (f : Fld) (hk : Kept s₀ s) :
    Kept s₀ (State.frzEnd s f) := by
  unfold State.frzEnd
  with_reducible repeat' first | assumption | (intro _) | apply rput_kept | apply frzThaw_kept | apply kept_ite

theorem frzBall_kept {s₀ : State} (s : State) (hk : Kept s₀ s) :
    Kept s₀ (State.frzBall s) := by
  unfold State.frzBall
  with_reducible repeat' first | assumption | (intro _) | apply frzRequest_kept | apply frzEnd_kept | apply kept_ite

theorem frzBallTo_kept {s₀ : State} (s : State) (active : Bool) (hk : Kept s₀ s) :
    Kept s₀ (State.frzBallTo s active) := by
  unfold State.frzBallTo
  with_reducible repeat' first | assumption | (intro _) | (simp only [kept_mk]; apply kept_q) | apply frzBall_kept

theorem frzFree_wf (free lo n base : Nat) (m : Tbl Byte) (h : Memory.wf m = true) : Memory.wf (frzFree free lo n m base) = true :=
  wf_foldl (fun t => Memory.wf t = true) _ _ _ (fun _ _ ht => memWr_wf _ _ _ ht) h

theorem frzBuffer_kept {s₀ : State} (s : State) (hk : Kept s₀ s) : Kept s₀ s.frzBuffer :=
  kept_sram (s := s) hk (fun h => memWrWs_wf _ _ _ (frzFree_wf _ _ _ _ _ (frzFree_wf _ _ _ _ _ h)))

theorem frzComplete_kept {s₀ : State} (s : State) (hk : Kept s₀ s) :
    Kept s₀ (State.frzComplete s) := by
  unfold State.frzComplete
  with_reducible repeat' first | assumption | (intro _) | apply frzBuffer_kept | apply rput_kept | apply kept_ite

theorem execFreezeBall_kept {s₀ : State} (s : State) (hk : Kept s₀ s) :
    KeptO s₀ (execFreezeBall s) := by
  unfold execFreezeBall
  with_reducible repeat' first | assumption | (intro _) | apply always_kept | apply frzBallTo_kept

theorem execFreezeBallRelease_kept {s₀ : State} (s : State) (hk : Kept s₀ s) :
    KeptO s₀ (execFreezeBallRelease s) := by
  unfold execFreezeBallRelease
  with_reducible repeat' first | assumption | (intro _) | apply always_kept | apply frzBallTo_kept

theorem frzCommand_kept {s₀ : State} (s : State) (f : State → State) (hf : ∀ a, Kept s₀ a → Kept s₀ (f a)) (hk : Kept s₀ s) :
    Kept s₀ (State.frzCommand s f) := by
  unfold State.frzCommand
  with_reducible repeat' first | assumption | (intro _) | apply hf | apply hostWrite_kept | apply frzRefuse_kept | apply kept_ite

theorem frzFreeze_kept {s₀ : State} (s : State) (o : FrzPort) (hk : Kept s₀ s) :
    Kept s₀ (State.frzFreeze s o) := by
  unfold State.frzFreeze
  with_reducible repeat' first | assumption | (intro _) | apply frzRequest_kept

theorem frzThawCmd_kept {s₀ : State} (s : State) (hk : Kept s₀ s) :
    Kept s₀ (State.frzThawCmd s) := by
  unfold State.frzThawCmd
  with_reducible repeat' first | assumption | (intro _) | apply frzRefuse_kept | apply frzEnd_kept | apply kept_ite

theorem execFreeze_kept {s₀ : State} (o : FrzPort) (s : State) (hk : Kept s₀ s) :
    KeptO s₀ (execFreeze o s) := by
  unfold execFreeze
  with_reducible repeat' first | assumption | (intro _) | apply frzCommand_kept | apply frzFreeze_kept | apply kept_next

theorem execThaw_kept {s₀ : State} (_o : FrzPort) (s : State) (hk : Kept s₀ s) :
    KeptO s₀ (execThaw _o s) := by
  unfold execThaw
  with_reducible repeat' first | assumption | (intro _) | apply hostWrite_kept | apply frzThawCmd_kept | apply kept_next

theorem execFrzNop_kept {s₀ : State} (p : Path) (s : State) (hk : Kept s₀ s) :
    KeptO s₀ (execFrzNop p s) := by
  unfold execFrzNop
  with_reducible repeat' first | assumption | (intro _) | apply hostAct_kept | simp only [id_eq]

theorem execFreezeComplete_kept {s₀ : State} (s : State) (hk : Kept s₀ s) :
    KeptO s₀ (execFreezeComplete s) := by
  unfold execFreezeComplete
  with_reducible repeat' first | assumption | (intro _) | apply always_kept | apply frzComplete_kept

theorem cfgRefuse_kept {s₀ : State} (s : State) (hk : Kept s₀ s) :
    Kept s₀ (State.cfgRefuse s) := by
  unfold State.cfgRefuse
  with_reducible repeat' first | assumption | (intro _) | apply rput_kept | apply evt_kept

theorem cfgAccept_kept {s₀ : State} (s : State) (f : State → State) (hf : ∀ a, Kept s₀ a → Kept s₀ (f a)) (hk : Kept s₀ s) :
    Kept s₀ (State.cfgAccept s f) := by
  unfold State.cfgAccept
  with_reducible repeat' first | assumption | (intro _) | apply hf | apply cfgRefuse_kept | apply rput_kept | apply kept_ite

theorem cfgReload_kept {s₀ : State} (s : State) (slot : Nat) (hk : Kept s₀ s) :
    Kept s₀ (State.cfgReload s slot) := by
  unfold State.cfgReload
  with_reducible repeat' first | assumption | (intro _) | (simp only [kept_mk]; apply kept_q) | apply cfgAccept_kept

theorem cfgRelease_kept {s₀ : State} (s : State) (hk : Kept s₀ s) :
    Kept s₀ (State.cfgRelease s) := by
  unfold State.cfgRelease
  with_reducible repeat' first | assumption | (intro _) | apply cfgRefuse_kept | apply cfgAccept_kept | apply releaseNow_kept | apply kept_ite

theorem cfgClrerr_kept {s₀ : State} (s : State) (hk : Kept s₀ s) :
    Kept s₀ (State.cfgClrerr s) := by
  unfold State.cfgClrerr
  with_reducible repeat' first | assumption | (intro _) | apply cfgAccept_kept | apply setReg_kept

theorem cfgCommand_kept {s₀ : State} (s : State) (v : Word) (hk : Kept s₀ s) :
    Kept s₀ (State.cfgCommand s v) := by
  unfold State.cfgCommand
  with_reducible repeat' first | assumption | (intro _) | apply cfgAccept_kept | apply cfgReload_kept | apply cfgRelease_kept | apply cfgClrerr_kept | apply cfgRefuse_kept | apply kept_ite | dsimp only | split | simp only [id_eq]

theorem reloadWrite_kept {s₀ : State} (s : State) (slot : Nat) (hk : Kept s₀ s) :
    Kept s₀ (State.reloadWrite s slot) := by
  unfold State.reloadWrite
  with_reducible repeat' first | assumption | (intro _) | apply hostWrite_kept | apply cfgReload_kept | apply cfgRefuse_kept | apply kept_ite

theorem lockWrite_kept {s₀ : State} (s : State) (v : Word) (hk : Kept s₀ s) :
    Kept s₀ (State.lockWrite s v) := by
  unfold State.lockWrite
  with_reducible repeat' first | assumption | (intro _) | apply cfgWrite_kept | apply rput_kept | apply kept_ite | apply kept_foldl

theorem tagWrite_kept {s₀ : State} (s : State) (p : Path) (v : Word) (hk : Kept s₀ s) :
    Kept s₀ (State.tagWrite s p v) := by
  unfold State.tagWrite
  with_reducible repeat' first | assumption | (intro _) | apply lockViolation_kept | apply cfgWrite_kept | apply setReg_kept | apply rput_kept | apply kept_ite

theorem calWrite_kept {s₀ : State} (s : State) (p : Path) (v : Word) (hk : Kept s₀ s) :
    Kept s₀ (State.calWrite s p v) := by
  unfold State.calWrite
  with_reducible repeat' first | assumption | (intro _) | (simp only [kept_mk]; apply kept_q) | apply lockViolation_kept | apply kept_ite

theorem execCfgNop_kept {s₀ : State} (_p : Path) (s : State) (hk : Kept s₀ s) :
    KeptO s₀ (execCfgNop _p s) := by
  unfold execCfgNop
  with_reducible repeat' first | assumption | (intro _) | apply hostWrite_kept | apply cfgAccept_kept | apply kept_next | simp only [id_eq]

theorem execReload_kept {s₀ : State} (_p : Path) (slot : Fin 4) (s : State) (hk : Kept s₀ s) :
    KeptO s₀ (execReload _p slot s) := by
  unfold execReload
  with_reducible repeat' first | assumption | (intro _) | apply reloadWrite_kept | apply kept_next

theorem execRelease_kept {s₀ : State} (_p : Path) (s : State) (hk : Kept s₀ s) :
    KeptO s₀ (execRelease _p s) := by
  unfold execRelease
  with_reducible repeat' first | assumption | (intro _) | apply hostWrite_kept | apply cfgRelease_kept | apply kept_next

theorem execClrerr_kept {s₀ : State} (_p : Path) (s : State) (hk : Kept s₀ s) :
    KeptO s₀ (execClrerr _p s) := by
  unfold execClrerr
  with_reducible repeat' first | assumption | (intro _) | apply hostWrite_kept | apply cfgClrerr_kept | apply kept_next

theorem execGlLockWrite_kept {s₀ : State} (p : Path) (v : Word) (s : State) (hk : Kept s₀ s) :
    KeptO s₀ (execGlLockWrite p v s) := by
  unfold execGlLockWrite
  with_reducible repeat' first | assumption | (intro _) | apply hostAct_kept | apply lockWrite_kept

theorem execGlHosttagWrite_kept {s₀ : State} (p : Path) (v : Word) (s : State) (hk : Kept s₀ s) :
    KeptO s₀ (execGlHosttagWrite p v s) := by
  unfold execGlHosttagWrite
  with_reducible repeat' first | assumption | (intro _) | apply hostAct_kept | apply tagWrite_kept

theorem execCalUDataAccess_kept {s₀ : State} (p : Path) (wr : Option Word) (s : State) (hk : Kept s₀ s) :
    KeptO s₀ (execCalUDataAccess p wr s) := by
  unfold execCalUDataAccess
  with_reducible repeat' first | assumption | (intro _) | apply hostAct_kept | apply calWrite_kept | apply calStep_kept | apply hostRead_kept | apply readReg_kept | dsimp only | split

theorem fieldsWrite_kept {s₀ : State} (s : State) (p : Path) (o : Nat) (v : Word) (hk : Kept s₀ s) :
    Kept s₀ (State.fieldsWrite s p o v) := by
  unfold State.fieldsWrite
  with_reducible repeat' first | assumption | (intro _) | apply lockViolation_kept | apply cfgWrite_kept | apply setReg_kept | apply stage_kept | apply kept_ite | dsimp only | split

theorem heldWrite_kept {s₀ : State} (s : State) (p : Path) (o : Nat) (v : Word) (hk : Kept s₀ s) :
    Kept s₀ (State.heldWrite s p o v) := by
  unfold State.heldWrite
  with_reducible repeat' first | assumption | (intro _) | apply setHeld_kept | apply kept_foldl | dsimp only | split

theorem tbRule_kept {s₀ : State} (s old : State) (c : Fin 96) (hk : Kept s₀ s) :
    Kept s₀ (State.tbRule s old c) := by
  unfold State.tbRule
  with_reducible repeat' first | assumption | (intro _) | apply stage_kept | apply evt_kept | apply kept_ite

theorem chCtrlWrite_kept {s₀ : State} (s : State) (p : Path) (c : Fin 96) (v : Word) (hk : Kept s₀ s) :
    Kept s₀ (State.chCtrlWrite s p c v) := by
  unfold State.chCtrlWrite
  with_reducible repeat' first | assumption | (intro _) | apply holdChange_kept | apply fieldsWrite_kept | apply tbRule_kept

theorem oryWrite_kept {s₀ : State} (s : State) (p : Path) (n : Fin 4) (o : Nat) (v : Word) (hk : Kept s₀ s) :
    Kept s₀ (State.oryWrite s p n o v) := by
  unfold State.oryWrite
  with_reducible repeat' first | assumption | (intro _) | (simp only [kept_mk]; apply kept_q) | apply fieldsWrite_kept | apply stage_kept | apply evt_kept | apply kept_ite

theorem lhBaseWrite_kept {s₀ : State} (s : State) (p : Path) (o : Nat) (v : Word) (hk : Kept s₀ s) :
    Kept s₀ (State.lhBaseWrite s p o v) := by
  unfold State.lhBaseWrite
  with_reducible repeat' first | assumption | (intro _) | apply evt_kept | apply lockViolation_kept | apply fieldsWrite_kept | apply kept_ite

theorem slowWrite_kept {s₀ : State} (s : State) (p : Path) (o : Nat) (v : Word) (hk : Kept s₀ s) :
    Kept s₀ (State.slowWrite s p o v) := by
  unfold State.slowWrite
  with_reducible repeat' first | assumption | (intro _) | (simp only [kept_mk]; apply kept_q) | apply fieldsWrite_kept | dsimp only | split

theorem wdgWrite_kept {s₀ : State} (s : State) (p : Path) (v : Word) (hk : Kept s₀ s) :
    Kept s₀ (State.wdgWrite s p v) := by
  unfold State.wdgWrite
  with_reducible repeat' first | assumption | (intro _) | (simp only [kept_mk]; apply kept_q) | apply lockViolation_kept | apply slowWrite_kept | apply kept_ite

theorem csCtrlWrite_kept {s₀ : State} (s : State) (p : Path) (e : Nat) (v : Word) (hk : Kept s₀ s) :
    Kept s₀ (State.csCtrlWrite s p e v) := by
  unfold State.csCtrlWrite
  with_reducible repeat' first | assumption | (intro _) | apply lockViolation_kept | apply cfgWrite_kept | apply rput_kept | apply kept_ite

theorem fifoCtlWrite_kept {s₀ : State} (s : State) (p : Path) (c : Fin 96) (v : Word) (hk : Kept s₀ s) :
    Kept s₀ (State.fifoCtlWrite s p c v) := by
  unfold State.fifoCtlWrite
  with_reducible repeat' first | assumption | (intro _) | (refine kept_pair (by assumption) ?_) | apply fieldsWrite_kept | apply fifoStop_kept | apply noteHostStop_kept | apply fifoFlush_kept | apply fifoStart_kept | apply fifoBreak_kept | apply kept_ite

theorem cmpLoWrite_kept {s₀ : State} (s : State) (p : Path) (c : Fin 96) (o : Nat) (v : Word) (hk : Kept s₀ s) :
    Kept s₀ (State.cmpLoWrite s p c o v) := by
  unfold State.cmpLoWrite
  with_reducible repeat' first | assumption | (intro _) | apply setHeld_kept | apply evt_kept | apply kept_ite

theorem spnCmdWrite_kept {s₀ : State} (s : State) (v : Word) (hk : Kept s₀ s) :
    Kept s₀ (State.spnCmdWrite s v) := by
  unfold State.spnCmdWrite
  with_reducible repeat' first | assumption | (intro _) | apply step_kept | apply spnIssue_kept

theorem geCmdWrite_kept {s₀ : State} (s : State) (e : Fin 8) (v : Word) (hk : Kept s₀ s) :
    Kept s₀ (State.geCmdWrite s e v) := by
  unfold State.geCmdWrite
  with_reducible repeat' first | assumption | (intro _) | apply cmdStart_kept | apply cmdHalt_kept | apply cmdResume_kept | apply cmdWake_kept | apply cmdClrFault_kept | apply cmdClrLat_kept | dsimp only | split

theorem geCtrlWrite_kept {s₀ : State} (s : State) (p : Path) (e : Fin 8) (v : Word) (hk : Kept s₀ s) :
    Kept s₀ (State.geCtrlWrite s p e v) := by
  unfold State.geCtrlWrite
  with_reducible repeat' first | assumption | (intro _) | apply fieldsWrite_kept | apply runWrite_kept | apply kept_ite

theorem oryCmdWrite_kept {s₀ : State} (s : State) (p : Path) (n : Fin 4) (v : Word) (hk : Kept s₀ s) :
    Kept s₀ (State.oryCmdWrite s p n v) := by
  unfold State.oryCmdWrite
  with_reducible repeat' first | assumption | (intro _) | apply oCmdPost_kept | apply lockedCommand_kept | dsimp only | split

theorem elCmdWrite_kept {s₀ : State} (s : State) (p : Path) (v : Word) (hk : Kept s₀ s) :
    Kept s₀ (State.elCmdWrite s p v) := by
  unfold State.elCmdWrite
  with_reducible repeat' first | assumption | (intro _) | apply lockedCommand_kept | apply elRejoin_kept | apply elClrCnt_kept | dsimp only | split

theorem psqCmdWrite_kept {s₀ : State} (s : State) (v : Word) (hk : Kept s₀ s) :
    Kept s₀ (State.psqCmdWrite s v) := by
  unfold State.psqCmdWrite
  with_reducible repeat' first | assumption | (intro _) | apply psqCommand_kept | apply modPsq_kept | apply rput_kept | dsimp only | split

theorem pwCmdWrite_kept {s₀ : State} (s : State) (v : Word) (hk : Kept s₀ s) :
    Kept s₀ (State.pwCmdWrite s v) := by
  unfold State.pwCmdWrite
  with_reducible repeat' first | assumption | (intro _) | apply pwRefuse_kept | apply pwRun_kept | apply pwIdle_kept | apply pwHold_kept | apply pwRetain_kept | apply pwOff_kept | apply softReset_kept | apply kept_ite | dsimp only | split

theorem frzCmdWrite_kept {s₀ : State} (s : State) (p : Path) (v : Word) (hk : Kept s₀ s) :
    Kept s₀ (State.frzCmdWrite s p v) := by
  unfold State.frzCmdWrite
  with_reducible repeat' first | assumption | (intro _) | apply frzFreeze_kept | apply frzThawCmd_kept | dsimp only | split

theorem frzCtrlWrite_kept {s₀ : State} (s : State) (p : Path) (v : Word) (hk : Kept s₀ s) :
    Kept s₀ (State.frzCtrlWrite s p v) := by
  unfold State.frzCtrlWrite
  with_reducible repeat' first | assumption | (intro _) | apply fieldsWrite_kept | apply frzBall_kept

theorem psqCfgWrite_kept {s₀ : State} (s : State) (p : Path) (r : Fin 8) (v : Word) (hk : Kept s₀ s) :
    Kept s₀ (State.psqCfgWrite s p r v) := by
  unfold State.psqCfgWrite
  with_reducible repeat' first | assumption | (intro _) | apply fieldsWrite_kept | apply pgLost_kept | apply pgGood_kept | apply kept_ite

theorem glWrite_kept {s₀ : State} (s : State) (p : Path) (o : Nat) (v : Word) (hk : Kept s₀ s) :
    Kept s₀ (State.glWrite s p o v) := by
  unfold State.glWrite
  with_reducible repeat' first | assumption | (intro _) | (simp only [kept_mk]; apply kept_q) | apply lockWrite_kept | apply tagWrite_kept | apply sigStart_kept | apply sumStart_kept | apply fieldsWrite_kept | apply kept_ite

theorem spnWrite_kept {s₀ : State} (s : State) (p : Path) (o : Nat) (v : Word) (hk : Kept s₀ s) :
    Kept s₀ (State.spnWrite s p o v) := by
  unfold State.spnWrite
  with_reducible repeat' first | assumption | (intro _) | apply rateWrite_kept | apply spnCmdWrite_kept | apply fieldsWrite_kept | apply servoMode_kept | apply kept_ite

theorem ecWrite_kept {s₀ : State} (s : State) (p : Path) (o : Nat) (v : Word) (hk : Kept s₀ s) :
    Kept s₀ (State.ecWrite s p o v) := by
  unfold State.ecWrite
  with_reducible repeat' first | assumption | (intro _) | apply ecCtrlWrite_kept | apply heldWrite_kept | apply lockedCommand_kept | apply ecTgtWrite_kept | apply ecRouteWrite_kept | apply ecDoorbell_kept | apply ecComplete_kept | apply cfgWrite_kept | apply ecTcfgWrite_kept | apply ecPendWrite_kept | apply ecEnWrite_kept | apply fieldsWrite_kept | apply kept_ite

theorem apWrite_kept {s₀ : State} (s : State) (p : Path) (o : Nat) (v : Word) (hk : Kept s₀ s) :
    Kept s₀ (State.apWrite s p o v) := by
  unfold State.apWrite
  with_reducible repeat' first | assumption | (intro _) | (refine kept_pair (by assumption) ?_) | apply apRequest_kept | apply heldWrite_kept | apply apPlace_kept | apply apCancel_kept | apply apAbort_kept | apply apFence_kept | apply fieldsWrite_kept | apply kept_ite

theorem elWrite_kept {s₀ : State} (s : State) (p : Path) (o : Nat) (v : Word) (hk : Kept s₀ s) :
    Kept s₀ (State.elWrite s p o v) := by
  unfold State.elWrite
  with_reducible repeat' first | assumption | (intro _) | apply elCtrlWrite_kept | apply elCmdWrite_kept | apply heldWrite_kept | apply fieldsWrite_kept | apply kept_ite

theorem pwWrite_kept {s₀ : State} (s : State) (p : Path) (o : Nat) (v : Word) (hk : Kept s₀ s) :
    Kept s₀ (State.pwWrite s p o v) := by
  unfold State.pwWrite
  with_reducible repeat' first | assumption | (intro _) | apply pwCmdWrite_kept | apply wdgWrite_kept | apply wdgKick_kept | apply fieldsWrite_kept | apply slowWrite_kept | apply kept_ite

theorem calPageWrite_kept {s₀ : State} (s : State) (p : Path) (o : Nat) (v : Word) (hk : Kept s₀ s) :
    Kept s₀ (State.calPageWrite s p o v) := by
  unfold State.calPageWrite
  with_reducible repeat' first | assumption | (intro _) | apply cfgCommand_kept | apply heldWrite_kept | apply calWrite_kept | apply calStep_kept | apply fieldsWrite_kept | apply kept_ite

theorem oryPageWrite_kept {s₀ : State} (s : State) (p : Path) (o : Nat) (v : Word) (hk : Kept s₀ s) :
    Kept s₀ (State.oryPageWrite s p o v) := by
  unfold State.oryPageWrite
  with_reducible repeat' first | assumption | (intro _) | apply oryCmdWrite_kept | apply oryWrite_kept | apply fieldsWrite_kept | apply kept_ite

theorem psqWrite_kept {s₀ : State} (s : State) (p : Path) (o : Nat) (v : Word) (hk : Kept s₀ s) :
    Kept s₀ (State.psqWrite s p o v) := by
  unfold State.psqWrite
  with_reducible repeat' first | assumption | (intro _) | apply psqCmdWrite_kept | apply psqCfgWrite_kept | apply fieldsWrite_kept | apply kept_ite

theorem frzWrite_kept {s₀ : State} (s : State) (p : Path) (o : Nat) (v : Word) (hk : Kept s₀ s) :
    Kept s₀ (State.frzWrite s p o v) := by
  unfold State.frzWrite
  with_reducible repeat' first | assumption | (intro _) | apply frzCmdWrite_kept | apply frzCtrlWrite_kept | apply fieldsWrite_kept | apply kept_ite

theorem cvPageWrite_kept {s₀ : State} (s : State) (p : Path) (o : Nat) (v : Word) (hk : Kept s₀ s) :
    Kept s₀ (State.cvPageWrite s p o v) := by
  unfold State.cvPageWrite
  with_reducible repeat' first | assumption | (intro _) | apply cvCommand_kept | apply rdidxWrite_kept | apply fieldsWrite_kept | apply kept_ite

theorem lhPageWrite_kept {s₀ : State} (s : State) (p : Path) (o : Nat) (v : Word) (hk : Kept s₀ s) :
    Kept s₀ (State.lhPageWrite s p o v) := by
  unfold State.lhPageWrite
  with_reducible repeat' first | assumption | (intro _) | apply lhCtrlWrite_kept | apply lhBaseWrite_kept | apply fieldsWrite_kept | apply kept_ite

theorem ringPageWrite_kept {s₀ : State} (s : State) (p : Path) (o : Nat) (v : Word) (hk : Kept s₀ s) :
    Kept s₀ (State.ringPageWrite s p o v) := by
  unfold State.ringPageWrite
  with_reducible repeat' first | assumption | (intro _) | apply lockedCommand_kept | apply cfgWrite_kept | apply ringBaseWrite_kept | apply ringCfgWrite_kept | apply tailWrite_kept | apply fieldsWrite_kept | apply kept_ite

theorem gafPageWrite_kept {s₀ : State} (s : State) (p : Path) (o : Nat) (v : Word) (hk : Kept s₀ s) :
    Kept s₀ (State.gafPageWrite s p o v) := by
  unfold State.gafPageWrite
  with_reducible repeat' first | assumption | (intro _) | apply geCtrlWrite_kept | apply geCmdWrite_kept | apply setHeld_kept | apply sregStore_kept | apply fieldsWrite_kept | apply kept_ite

theorem chPageWrite_kept {s₀ : State} (s : State) (p : Path) (o : Nat) (v : Word) (hk : Kept s₀ s) :
    Kept s₀ (State.chPageWrite s p o v) := by
  unfold State.chPageWrite
  with_reducible repeat' first | assumption | (intro _) | apply chCtrlWrite_kept | apply cmpLoWrite_kept | apply cmpCtlWrite_kept | apply fifoCtlWrite_kept | apply setHeld_kept | apply fifoPush_kept | apply fieldsWrite_kept | apply kept_ite

theorem writeReg_kept {s₀ : State} (s : State) (p : Path) (o : Nat) (v : Word) (hk : Kept s₀ s) :
    Kept s₀ (State.writeReg s p o v) := by
  unfold State.writeReg
  with_reducible repeat' first | assumption | (intro _) | apply glWrite_kept | apply spnWrite_kept | apply ecWrite_kept | apply apWrite_kept | apply elWrite_kept | apply pwWrite_kept | apply calPageWrite_kept | apply fieldsWrite_kept | apply frzWrite_kept | apply psqWrite_kept | apply oryPageWrite_kept | apply cvPageWrite_kept | apply lhPageWrite_kept | apply ringPageWrite_kept | apply gafPageWrite_kept | apply chPageWrite_kept | apply csCtrlWrite_kept | apply kept_ite

theorem hostReg_kept {s₀ : State} (s : State) (p : Path) (o : Nat) (v : Word) (hk : Kept s₀ s) :
    Kept s₀ (State.hostReg s p o v) := by
  unfold State.hostReg
  with_reducible repeat' first | assumption | (intro _) | apply pwCommand_kept | apply pwCmdWrite_kept | apply frzCommand_kept | apply frzFreeze_kept | apply hostWrite_kept | apply frzCmdWrite_kept | apply reloadWrite_kept | apply writeReg_kept | apply kept_ite

theorem partialWrite_kept {s₀ : State} (s : State) (hk : Kept s₀ s) :
    Kept s₀ (State.partialWrite s) := by
  unfold State.partialWrite
  with_reducible repeat' first | assumption | (intro _) | apply rsat_kept | apply evt_kept

theorem microWrite_kept {s₀ : State} (s : State) (p : Path) (e : Fin 8) (w : Fin 2048) (i : Nat) (v : Word) (hk : Kept s₀ s) :
    Kept s₀ (State.microWrite s p e w i v) := by
  unfold State.microWrite
  with_reducible repeat' first | assumption | (intro _) | apply setHeld_kept | apply csWrite_kept | apply kept_ite

theorem msixWrite_kept {s₀ : State} (s : State) (a : Nat) (v : Word) (hk : Kept s₀ s) :
    Kept s₀ (State.msixWrite s a v) := by
  unfold State.msixWrite
  with_reducible repeat' first | assumption | (intro _) | apply modFn_kept | apply msixFlush_kept | apply kept_ite

theorem sramBytes_kept {s₀ : State} (s : State) (a : Nat) (v : Word) (be : Nat) (hk : Kept s₀ s) : Kept s₀ (s.sramBytes a v be) := by
  refine kept_sram (s := s) hk (fun h => wf_foldl (fun t => Memory.wf t = true) _ _ _ (fun t x ht => ?_) h)
  split
  · exact memWr_wf _ _ _ ht
  · exact ht

theorem spoil_kept {s₀ : State} (s : State) (a : Nat) (hk : Kept s₀ s) :
    Kept s₀ (State.spoil s a) := by
  unfold State.spoil
  with_reducible repeat' first | assumption | (intro _) | apply drawn_kept | apply modGaf_kept | apply modLehr_kept | apply kept_ite

theorem sramStore_kept {s₀ : State} (s : State) (a : Nat) (v : Word) (be : Nat) (hk : Kept s₀ s) :
    Kept s₀ (State.sramStore s a v be) := by
  unfold State.sramStore
  with_reducible repeat' first | assumption | (intro _) | apply sramBytes_kept | apply drawn_kept | apply spoil_kept | apply kept_ite

theorem mramStore_kept {s₀ : State} (s : State) (a : Nat) (v : Word) (hk : Kept s₀ s) :
    Kept s₀ (State.mramStore s a v) := by
  unfold State.mramStore
  with_reducible repeat' first | assumption | (intro _) | apply mramWr_kept | apply evt_kept | apply kept_ite

theorem writeAt_kept {s₀ : State} (s : State) (p : Path) (a : Nat) (v : Word) (full : Bool) (hk : Kept s₀ s) :
    Kept s₀ (State.writeAt s p a v full) := by
  unfold State.writeAt
  with_reducible repeat' first | assumption | (intro _) | apply hostReg_kept | apply hostWrite_kept | apply partialWrite_kept | apply microWrite_kept | apply msixWrite_kept | apply sramStore_kept | apply mramStore_kept | apply unmapped_kept | apply kept_ite | dsimp only | split | simp only [id_eq]

theorem execRegisterWrite_kept {s₀ : State} (p : Path) (a v : Word) (full : Bool) (s : State) (hk : Kept s₀ s) :
    KeptO s₀ (execRegisterWrite p a v full s) := by
  unfold execRegisterWrite
  with_reducible repeat' first | assumption | (intro _) | apply writeAt_kept | apply kept_next

theorem execUnmappedAccess_kept {s₀ : State} (p : Path) (a : Word) (isWrite : Bool) (s : State) (hk : Kept s₀ s) :
    KeptO s₀ (execUnmappedAccess p a isWrite s) := by
  unfold execUnmappedAccess
  with_reducible repeat' first | assumption | (intro _) | apply unmapped_kept | apply hostAct_kept | apply hostRead_kept | apply readAt_kept | apply kept_ite | dsimp only | split | apply kept_next

theorem modHif_kept {s₀ : State} (s : State) (f : HostIf → HostIf) (hk : Kept s₀ s) :
    Kept s₀ (State.modHif s f) := by
  unfold State.modHif
  with_reducible repeat' first | assumption | (intro _) | (simp only [kept_mk]; apply kept_q)

theorem spiFrame_kept {s₀ : State} (s : State) (hk : Kept s₀ s) :
    Kept s₀ (State.spiFrame s) := by
  unfold State.spiFrame
  with_reducible repeat' first | assumption | (intro _) | apply modHif_kept | apply rsat_kept | apply evt_kept

theorem spiUnder_kept {s₀ : State} (s : State) (hk : Kept s₀ s) :
    Kept s₀ (State.spiUnder s) := by
  unfold State.spiUnder
  with_reducible repeat' first | assumption | (intro _) | apply modHif_kept | apply rsat_kept | apply evt_kept

theorem spiReadWords_kept {s₀ : State} (s : State) (a : Nat) (k : Nat) (ws : List Word) (h : Kept s₀ s) : Kept s₀ ((s.spiReadWords a k ws).1) := by
  induction k generalizing s a ws with
  | zero => exact h
  | succ k ih =>
    unfold State.spiReadWords
    with_reducible repeat' first | assumption | (intro _) | apply ih | apply readAt_kept

theorem spiReadFrame_kept {s₀ : State} (s : State) (a n : Nat) (late : Bool) (form : SpiForm) (hk : Kept s₀ s) :
    Kept s₀ (State.spiReadFrame s a n late form) := by
  unfold State.spiReadFrame
  with_reducible repeat' first | assumption | (intro _) | apply spiFrame_kept | apply spiReadWords_kept | apply modPath_kept | apply spiUnder_kept | apply kept_ite

theorem spiWriteWords_kept {s₀ : State} (s : State) (a : Nat) (es : List Word) (h : Kept s₀ s) : Kept s₀ (s.spiWriteWords a es) := by
  induction es generalizing s a with
  | nil => exact h
  | cons e es ih =>
    unfold State.spiWriteWords
    with_reducible repeat' first | assumption | (intro _) | apply ih | apply writeAt_kept

theorem spiWriteFrame_kept {s₀ : State} (s : State) (a : Nat) (ws : List Word) (form : SpiForm) (hk : Kept s₀ s) :
    Kept s₀ (State.spiWriteFrame s a ws form) := by
  unfold State.spiWriteFrame
  with_reducible repeat' first | assumption | (intro _) | apply spiFrame_kept | apply spiWriteWords_kept | apply kept_ite

theorem spiRdsr_kept {s₀ : State} (s : State) (hk : Kept s₀ s) :
    Kept s₀ (State.spiRdsr s) := by
  unfold State.spiRdsr
  with_reducible repeat' first | assumption | (intro _) | apply answer_kept | apply modHif_kept

theorem badRead_kept {s₀ : State} (s : State) (p : Path) (mram : Bool) (a : Nat) (hk : Kept s₀ s) :
    Kept s₀ (State.badRead s p mram a) := by
  unfold State.badRead
  with_reducible repeat' first | assumption | (intro _) | apply answer_kept | apply eccBad_kept | apply kept_ite

theorem eccSram_kept {s₀ : State} (s : State) (p : Path) (a : Nat) (ecc : Ecc) (hk : Kept s₀ s) :
    Kept s₀ (State.eccSram s p a ecc) := by
  unfold State.eccSram
  with_reducible repeat' first | assumption | (intro _) | apply readSram_kept | apply eccCorr_kept | apply badRead_kept | apply kept_ite | dsimp only | split

theorem eccMram_kept {s₀ : State} (s : State) (p : Path) (a : Nat) (ecc : Ecc) (hk : Kept s₀ s) :
    Kept s₀ (State.eccMram s p a ecc) := by
  unfold State.eccMram
  with_reducible repeat' first | assumption | (intro _) | apply badRead_kept | apply answer_kept | dsimp only | split

theorem execSpiRead_kept {s₀ : State} (a : Word) (n : Fin 257) (arr : SpiReadForm) (s : State) (hk : Kept s₀ s) :
    KeptO s₀ (execSpiRead a n arr s) := by
  unfold execSpiRead
  with_reducible repeat' first | assumption | (intro _) | apply hostRead_kept | apply spiReadFrame_kept

theorem execSpiQread_kept {s₀ : State} (a : Word) (n : Fin 257) (arr : SpiReadForm) (s : State) (hk : Kept s₀ s) :
    KeptO s₀ (execSpiQread a n arr s) := by
  unfold execSpiQread
  with_reducible repeat' first | assumption | (intro _) | apply hostRead_kept | apply spiReadFrame_kept

theorem execSpiWrite_kept {s₀ : State} (a : Word) (ws : List Word) (form : SpiForm) (s : State) (hk : Kept s₀ s) :
    KeptO s₀ (execSpiWrite a ws form s) := by
  unfold execSpiWrite
  with_reducible repeat' first | assumption | (intro _) | apply spiWriteFrame_kept | apply kept_ite | apply kept_next

theorem execSpiQwrite_kept {s₀ : State} (a : Word) (ws : List Word) (form : SpiForm) (s : State) (hk : Kept s₀ s) :
    KeptO s₀ (execSpiQwrite a ws form s) := by
  unfold execSpiQwrite
  with_reducible repeat' first | assumption | (intro _) | apply spiWriteFrame_kept | apply kept_ite | apply kept_next

theorem execRdsr_kept {s₀ : State} (s : State) (hk : Kept s₀ s) :
    KeptO s₀ (execRdsr s) := by
  unfold execRdsr
  with_reducible repeat' first | assumption | (intro _) | apply hostRead_kept | apply spiRdsr_kept

theorem execIfreset_kept {s₀ : State} (s : State) (hk : Kept s₀ s) :
    KeptO s₀ (execIfreset s) := by
  unfold execIfreset
  with_reducible repeat' first | assumption | (intro _) | apply kept_next

theorem execSramWindowWrite_kept {s₀ : State} (p : Path) (a v : Word) (be : BitVec 4) (s : State) (hk : Kept s₀ s) :
    KeptO s₀ (execSramWindowWrite p a v be s) := by
  unfold execSramWindowWrite
  with_reducible repeat' first | assumption | (intro _) | apply hostAct_kept | apply sramStore_kept | dsimp only | split | apply kept_next

theorem execMramWindowWrite_kept {s₀ : State} (p : Path) (a v : Word) (s : State) (hk : Kept s₀ s) :
    KeptO s₀ (execMramWindowWrite p a v s) := by
  unfold execMramWindowWrite
  with_reducible repeat' first | assumption | (intro _) | apply hostAct_kept | apply mramStore_kept | dsimp only | split | apply kept_next

theorem execHostWindowRead_kept {s₀ : State} (p : Path) (a : Word) (ecc : Ecc) (s : State) (hk : Kept s₀ s) :
    KeptO s₀ (execHostWindowRead p a ecc s) := by
  unfold execHostWindowRead
  with_reducible repeat' first | assumption | (intro _) | apply hostRead_kept | apply eccSram_kept | apply eccMram_kept | dsimp only | split | apply kept_next

theorem slotShow_kept {s₀ : State} (s : State) (tried : List Nat) (x : Nat × SlotImage) (hk : Kept s₀ s) :
    Kept s₀ (State.slotShow s tried x) := by
  unfold State.slotShow
  with_reducible repeat' first | assumption | (intro _) | apply setReg_kept | apply rput_kept

theorem selShow_kept {s₀ : State} (s : State) (only : Nat) (imgs : List (Nat × SlotImage)) (r : Selected) (hk : Kept s₀ s) :
    Kept s₀ (State.selShow s only imgs r) := by
  unfold State.selShow
  with_reducible repeat' first | assumption | (intro _) | apply slotShow_kept | apply rput_kept | apply evt_kept | apply kept_ite | apply kept_foldl

theorem resetRecord_kept {s₀ : State} (s : State) (hk : Kept s₀ s) :
    Kept s₀ (State.resetRecord s) := by
  unfold State.resetRecord
  with_reducible repeat' first | assumption | (intro _) | apply emit_kept

theorem reloadRecord_kept {s₀ : State} (s : State) (slot result : Nat) (gen us : Word) (hk : Kept s₀ s) :
    Kept s₀ (State.reloadRecord s slot result gen us) := by
  unfold State.reloadRecord
  with_reducible repeat' first | assumption | (intro _) | apply emit_kept

theorem divergeRecord_kept {s₀ : State} (s : State) (n : Nat) (q : LoadEnd) (hk : Kept s₀ s) :
    Kept s₀ (State.divergeRecord s n q) := by
  unfold State.divergeRecord
  with_reducible repeat' first | assumption | (intro _) | apply emit_kept

theorem loadTime_kept {s₀ : State} (s : State) (hk : Kept s₀ s) :
    Kept s₀ ((State.loadTime s).1) := by
  unfold State.loadTime
  with_reducible repeat' first | assumption | (intro _) | (refine kept_pair (by assumption) ?_) | apply kept_ite_fst | apply drawn_kept

theorem loadIdle_kept {s₀ : State} (s : State) (subsys : Word) (hk : Kept s₀ s) :
    Kept s₀ (State.loadIdle s subsys) := by
  unfold State.loadIdle
  with_reducible repeat' first | assumption | (intro _) | apply modLoad_kept

theorem loadNotes_kept {s₀ : State} (s : State) (n : Nat) (q : LoadEnd) (hk : Kept s₀ s) :
    Kept s₀ (State.loadNotes s n q) := by
  unfold State.loadNotes
  with_reducible repeat' first | assumption | (intro _) | (refine kept_pair (by assumption) ?_) | apply divergeRecord_kept | apply rput_kept | apply loadTime_kept | apply reloadRecord_kept | apply resetRecord_kept | apply setReg_kept | apply evt_kept | apply loadIdle_kept | apply kept_ite

theorem loadEnd_kept {s₀ : State} (s : State) (n : Nat) (q : LoadEnd) (hk : Kept s₀ s) :
    Kept s₀ (State.loadEnd s n q) := by
  unfold State.loadEnd
  with_reducible repeat' first | assumption | (intro _) | apply ecRestore_kept | apply lockWrite_kept | apply sigStart_kept | apply loadNotes_kept | apply pllTick_kept | apply releaseNow_kept | apply kept_ite | dsimp only | split

theorem noImageEnd_kept {s₀ : State} (s : State) (hk : Kept s₀ s) :
    Kept s₀ (State.noImageEnd s) := by
  unfold State.noImageEnd
  with_reducible repeat' first | assumption | (intro _) | apply ecRestore_kept | apply resetRecord_kept | apply rput_kept | apply loadIdle_kept

theorem loadClose_kept {s₀ : State} (s : State) (hk : Kept s₀ s) :
    Kept s₀ (State.loadClose s) := by
  unfold State.loadClose
  with_reducible repeat' first | assumption | (intro _) | apply recalibrate_kept | apply loadEnd_kept | apply noImageEnd_kept | apply kept_ite | dsimp only | split

theorem loadOver_kept {s₀ : State} (s : State) (q : LoadEnd) (hk : Kept s₀ s) :
    Kept s₀ (State.loadOver s q) := by
  unfold State.loadOver
  with_reducible repeat' first | assumption | (intro _) | apply modLoad_kept | apply loadClose_kept

theorem recalRow_kept {s₀ : State} (s : State) (ms : List BankMeas) (gs : List GafMeas) (tj : BitVec 16) (hk : Kept s₀ s) :
    Kept s₀ (State.recalRow s ms gs tj) := by
  unfold State.recalRow
  with_reducible repeat' first | assumption | (intro _) | apply modLoad_kept | apply loadClose_kept | apply recalibrate_kept | apply kept_ite

theorem noImage_kept {s₀ : State} (s : State) (hk : Kept s₀ s) :
    Kept s₀ (State.noImage s) := by
  unfold State.noImage
  with_reducible repeat' first | assumption | (intro _) | apply rput_kept | apply evt_kept | apply loadOver_kept

theorem loadSelect_kept {s₀ : State} (s : State) (imgs : List (Nat × SlotImage)) (hk : Kept s₀ s) :
    Kept s₀ (State.loadSelect s imgs) := by
  unfold State.loadSelect
  with_reducible repeat' first | assumption | (intro _) | apply selShow_kept | apply noImage_kept | apply modLoad_kept | dsimp only | split

theorem reloadNothing_kept {s₀ : State} (s : State) (t : Nat) (hk : Kept s₀ s) :
    Kept s₀ (State.reloadNothing s t) := by
  unfold State.reloadNothing
  with_reducible repeat' first | assumption | (intro _) | apply drawn_kept | apply modLoad_kept | apply rput_kept | apply reloadRecord_kept

theorem reloadHold_kept {s₀ : State} (s : State) (only : Nat) (r : Selected) (n : Nat) (dig : BitVec 256) (hk : Kept s₀ s) :
    Kept s₀ (State.reloadHold s only r n dig) := by
  unfold State.reloadHold
  with_reducible repeat' first | assumption | (intro _) | apply reloadReset_kept | apply modLoad_kept | apply resetDone_kept | apply pwState_kept | apply otpScan_kept

theorem reloadSelect_kept {s₀ : State} (s : State) (q : Reload) (imgs : List (Nat × SlotImage)) (hk : Kept s₀ s) :
    Kept s₀ (State.reloadSelect s q imgs) := by
  unfold State.reloadSelect
  with_reducible repeat' first | assumption | (intro _) | apply selShow_kept | apply reloadNothing_kept | apply reloadHold_kept | dsimp only | split

theorem selection_kept {s₀ : State} (s : State) (i0 i1 i2 : SlotImage) (hk : Kept s₀ s) :
    Kept s₀ (State.selection s i0 i1 i2) := by
  unfold State.selection
  with_reducible repeat' first | assumption | (intro _) | apply loadSelect_kept | apply reloadSelect_kept | apply kept_ite | dsimp only | split

theorem imageWrite_kept {s₀ : State} (s : State) (a : Nat) (v : Word) (hk : Kept s₀ s) :
    Kept s₀ (State.imageWrite s a v) := by
  unfold State.imageWrite
  with_reducible repeat' first | assumption | (intro _) | apply writeReg_kept | apply rsat_kept | apply kept_ite | dsimp only | split

theorem imageLocked_kept {s₀ : State} (s : State) (hk : Kept s₀ s) :
    Kept s₀ (State.imageLocked s) := by
  unfold State.imageLocked
  with_reducible repeat' first | assumption | (intro _) | apply rsat_kept

theorem imageLayout_kept {s₀ : State} (s : State) (l : Layout) (hk : Kept s₀ s) :
    Kept s₀ (State.imageLayout s l) := by
  unfold State.imageLayout
  with_reducible repeat' first | assumption | (intro _) | (simp only [kept_mk]; apply kept_q) | apply imageLocked_kept | apply setReg_kept | apply kept_ite

theorem imageStore_kept {s₀ : State} (s : State) (e : Fin 8) (first : Nat) (ws : List (BitVec 144)) (hk : Kept s₀ s) :
    Kept s₀ (State.imageStore s e first ws) := by
  unfold State.imageStore
  with_reducible repeat' first | assumption | (intro _) | apply imageLocked_kept | apply csPut_kept | apply kept_ite | apply kept_foldl

theorem imageCal_kept {s₀ : State} (s : State) (q : Nat) (v : Word) (hk : Kept s₀ s) :
    Kept s₀ (State.imageCal s q v) := by
  unfold State.imageCal
  with_reducible repeat' first | assumption | (intro _) | (simp only [kept_mk]; apply kept_q) | apply imageLocked_kept | apply kept_ite

theorem sramPut_wf (m : Tbl Byte) (a : Nat) (bytes : List Byte) (h : Memory.wf m = true) : Memory.wf (sramPut m a bytes) = true :=
  wf_foldl (fun t => Memory.wf t = true) _ _ _ (fun _ _ ht => memWr_wf _ _ _ ht) h

theorem imageSection_kept {s₀ : State} (s : State) (x : ImgSection) (hk : Kept s₀ s) :
    Kept s₀ (State.imageSection s x) := by
  unfold State.imageSection
  with_reducible repeat' first | assumption | (intro _) | apply imageLayout_kept | apply imageStore_kept | apply imageWrite_kept | apply imageCal_kept | apply pllTick_kept | apply applyNow_kept | apply kept_ite | apply kept_foldl | dsimp only | split | (simp only [kept_mk]; apply kept_sram) | apply memWrN_wf | apply memFilter_wf | apply memWrW_wf | apply memWrWs_wf | apply sramPut_wf

theorem imageSections_kept {s₀ : State} (s : State) (secs : List ImgSection) (hk : Kept s₀ s) : Kept s₀ (s.imageSections secs) :=
  kept_foldl (s := { s with pcie := PathState.reset }) _ _ (fun a x ha => imageSection_kept a x ha) hk

theorem loadPass_kept {s₀ : State} (s : State) (i : SlotImage) (hk : Kept s₀ s) :
    Kept s₀ (State.loadPass s i) := by
  unfold State.loadPass
  with_reducible repeat' first | assumption | (intro _) | apply rput_kept | apply modLoad_kept | apply imageSections_kept | apply loadOver_kept | apply kept_ite | dsimp only | split

theorem execRecalibration_kept {s₀ : State} (ms : List BankMeas) (gs : List GafMeas) (tj : BitVec 16) (s : State) (hk : Kept s₀ s) :
    KeptO s₀ (execRecalibration ms gs tj s) := by
  unfold execRecalibration
  with_reducible repeat' first | assumption | (intro _) | apply event_kept | apply recalRow_kept

theorem execSlotSelection_kept {s₀ : State} (i0 i1 i2 : List Byte) (s : State) (hk : Kept s₀ s) :
    KeptO s₀ (execSlotSelection i0 i1 i2 s) := by
  unfold execSlotSelection
  with_reducible repeat' first | assumption | (intro _) | apply event_kept | apply selection_kept

theorem execLoadPass_kept {s₀ : State} (head rest : List Byte) (s : State) (hk : Kept s₀ s) :
    KeptO s₀ (execLoadPass head rest s) := by
  unfold execLoadPass
  with_reducible repeat' first | assumption | (intro _) | apply event_kept | apply loadPass_kept

end Sys2Proof.Machine
end

