-- ==== Sys2Proof/Laws/PerInstr.lean ====
section
/-!
SUPPORT. Laws that are stated one instruction at a time.
-/
namespace Sys2Proof.Laws.EncodesNone
open Sys2Proof

/-- The opcode table gives no row any bits, so no word of it spells the command. -/
def Statement (i : Instr) : Prop := ∀ nbits w : Nat, decodeTableWord nbits w ≠ some i

theorem pllLock : Statement .pllLock := fun _ _ => nofun
theorem refLost : Statement .refLost := fun _ _ => nofun
theorem pllUnlock : Statement .pllUnlock := fun _ _ => nofun
theorem relock : Statement .relock := fun _ _ => nofun
theorem spnRateWrite (p : Path) (v : Word) : Statement (.spnRateWrite p v) := fun _ _ => nofun
theorem spineNop (p : Path) (waits : Bool) (ag : Fin 8) : Statement (.spineNop p waits ag) := fun _ _ => nofun
theorem spineSet (p : Path) (waits : Bool) (ag : Fin 8) : Statement (.spineSet p waits ag) := fun _ _ => nofun
theorem spineStep (p : Path) (waits : Bool) (ag : Fin 8) : Statement (.spineStep p waits ag) := fun _ _ => nofun
theorem spineSlew (p : Path) (waits : Bool) (ag : Fin 8) : Statement (.spineSlew p waits ag) := fun _ _ => nofun
theorem slewAbort (p : Path) (waits : Bool) (ag : Fin 8) : Statement (.slewAbort p waits ag) := fun _ _ => nofun
theorem spnCmdIllegal (p : Path) (op : Fin 3) (waits : Bool) (ag : Fin 8) : Statement (.spnCmdIllegal p op waits ag) := fun _ _ => nofun
theorem holdEnd : Statement .holdEnd := fun _ _ => nofun
theorem slewDone : Statement .slewDone := fun _ _ => nofun
theorem ppsPulse : Statement .ppsPulse := fun _ _ => nofun
theorem ppsPulseEnd : Statement .ppsPulseEnd := fun _ _ => nofun
theorem ppsCapture (falling : Bool) (pos : Fin 64) : Statement (.ppsCapture falling pos) := fun _ _ => nofun
theorem recalibration (ms : List BankMeas) (gs : List GafMeas) (tj : BitVec 16) : Statement (.recalibration ms gs tj) := fun _ _ => nofun
theorem bankSupplyLoss (b : Fin 12) : Statement (.bankSupplyLoss b) := fun _ _ => nofun
theorem bankSupplyReturn (b : Fin 12) (volts33 : Bool) : Statement (.bankSupplyReturn b volts33) := fun _ _ => nofun
theorem inputEdge (c : Fin 96) (level : Bool) (pos : Fin 64) (width : Nat) : Statement (.inputEdge c level pos width) := fun _ _ => nofun
theorem compareFire (c : Fin 96) (u : Bool) : Statement (.compareFire c u) := fun _ _ => nofun
theorem compareArm (p : Path) (c : Fin 96) (u : Bool) (v : Word) : Statement (.compareArm p c u v) := fun _ _ => nofun
theorem compareDisarm (p : Path) (c : Fin 96) (u : Bool) (v : Word) : Statement (.compareDisarm p c u v) := fun _ _ => nofun
theorem channelHold (p : Path) (c : Fin 96) (hold : Bool) : Statement (.channelHold p c hold) := fun _ _ => nofun
theorem fifoPush (p : Path) (c : Fin 96) (v : Word) : Statement (.fifoPush p c v) := fun _ _ => nofun
theorem fifoStart (p : Path) (c : Fin 96) (waits : Bool) : Statement (.fifoStart p c waits) := fun _ _ => nofun
theorem fifoStop (p : Path) (c : Fin 96) : Statement (.fifoStop p c) := fun _ _ => nofun
theorem fifoFlush (p : Path) (c : Fin 96) : Statement (.fifoFlush p c) := fun _ _ => nofun
theorem fifoBreak (p : Path) (c : Fin 96) : Statement (.fifoBreak p c) := fun _ _ => nofun
theorem capture (c : Fin 96) (k : Bool) (rise : Bool) (pos : Fin 64) : Statement (.capture c k rise pos) := fun _ _ => nofun
theorem captureRead (p : Path) (c : Fin 96) (k : Bool) : Statement (.captureRead p c k) := fun _ _ => nofun
theorem applyStrobe (g : Fin 8) : Statement (.applyStrobe g) := fun _ _ => nofun
theorem threadStart (p : Path) (e : Fin 8) (n : Fin 16) (pc : BitVec 11) : Statement (.threadStart p e n pc) := fun _ _ => nofun
theorem threadHalt (p : Path) (e : Fin 8) (n : Fin 16) : Statement (.threadHalt p e n) := fun _ _ => nofun
theorem threadResume (p : Path) (e : Fin 8) (n : Fin 16) : Statement (.threadResume p e n) := fun _ _ => nofun
theorem threadWake (p : Path) (e : Fin 8) (n : Fin 16) : Statement (.threadWake p e n) := fun _ _ => nofun
theorem clrFault (p : Path) (e : Fin 8) (n : Fin 16) : Statement (.clrFault p e n) := fun _ _ => nofun
theorem clrLat (p : Path) (e : Fin 8) (n : Fin 16) : Statement (.clrLat p e n) := fun _ _ => nofun
theorem gafferNop (p : Path) (e : Fin 8) (n : Fin 16) : Statement (.gafferNop p e n) := fun _ _ => nofun
theorem geCtrlRun (p : Path) (e : Fin 8) (run : Bool) : Statement (.geCtrlRun p e run) := fun _ _ => nofun
theorem dispatch (e : Fin 8) : Statement (.dispatch e) := fun _ _ => nofun
theorem timerDue (e : Fin 8) : Statement (.timerDue e) := fun _ _ => nofun
theorem threadStarve (e : Fin 8) (n : Fin 16) : Statement (.threadStarve e n) := fun _ _ => nofun
theorem spaceRetry (e : Fin 8) (n : Fin 16) : Statement (.spaceRetry e n) := fun _ _ => nofun
theorem sregStore (p : Path) (e : Fin 8) (m : Fin 64) (v : Word) : Statement (.sregStore p e m v) := fun _ _ => nofun
theorem mwNop (e : Fin 8) : Statement (.mwNop e) := fun _ _ => nofun
theorem mwMov (e : Fin 8) : Statement (.mwMov e) := fun _ _ => nofun
theorem mwAdd (e : Fin 8) : Statement (.mwAdd e) := fun _ _ => nofun
theorem mwSub (e : Fin 8) : Statement (.mwSub e) := fun _ _ => nofun
theorem mwAnd (e : Fin 8) : Statement (.mwAnd e) := fun _ _ => nofun
theorem mwOr (e : Fin 8) : Statement (.mwOr e) := fun _ _ => nofun
theorem mwXor (e : Fin 8) : Statement (.mwXor e) := fun _ _ => nofun
theorem mwShl (e : Fin 8) : Statement (.mwShl e) := fun _ _ => nofun
theorem mwShr (e : Fin 8) : Statement (.mwShr e) := fun _ _ => nofun
theorem mwSar (e : Fin 8) : Statement (.mwSar e) := fun _ _ => nofun
theorem mwCmp (e : Fin 8) : Statement (.mwCmp e) := fun _ _ => nofun
theorem mwTst (e : Fin 8) : Statement (.mwTst e) := fun _ _ => nofun
theorem mwMin (e : Fin 8) : Statement (.mwMin e) := fun _ _ => nofun
theorem mwMax (e : Fin 8) : Statement (.mwMax e) := fun _ _ => nofun
theorem mwTdiff (e : Fin 8) : Statement (.mwTdiff e) := fun _ _ => nofun
theorem mwBset (e : Fin 8) : Statement (.mwBset e) := fun _ _ => nofun
theorem mwBclr (e : Fin 8) : Statement (.mwBclr e) := fun _ _ => nofun
theorem mwNext (e : Fin 8) : Statement (.mwNext e) := fun _ _ => nofun
theorem mwJump (e : Fin 8) : Statement (.mwJump e) := fun _ _ => nofun
theorem mwCall (e : Fin 8) : Statement (.mwCall e) := fun _ _ => nofun
theorem mwRet (e : Fin 8) : Statement (.mwRet e) := fun _ _ => nofun
theorem mwWait (e : Fin 8) : Statement (.mwWait e) := fun _ _ => nofun
theorem mwEnd (e : Fin 8) : Statement (.mwEnd e) := fun _ _ => nofun
theorem mwDisp (e : Fin 8) : Statement (.mwDisp e) := fun _ _ => nofun
theorem mwYield (e : Fin 8) : Statement (.mwYield e) := fun _ _ => nofun
theorem mwInsCmp (e : Fin 8) : Statement (.mwInsCmp e) := fun _ _ => nofun
theorem mwInsTmr (e : Fin 8) : Statement (.mwInsTmr e) := fun _ _ => nofun
theorem mwCanCmp (e : Fin 8) : Statement (.mwCanCmp e) := fun _ _ => nofun
theorem mwCanTmr (e : Fin 8) : Statement (.mwCanTmr e) := fun _ _ => nofun
theorem mwInsAng (e : Fin 8) : Statement (.mwInsAng e) := fun _ _ => nofun
theorem mwCaprd (e : Fin 8) : Statement (.mwCaprd e) := fun _ _ => nofun
theorem mwSnap (e : Fin 8) : Statement (.mwSnap e) := fun _ _ => nofun
theorem mwCntrd (e : Fin 8) : Statement (.mwCntrd e) := fun _ _ => nofun
theorem mwFpush (e : Fin 8) : Statement (.mwFpush e) := fun _ _ => nofun
theorem mwLdbase (e : Fin 8) : Statement (.mwLdbase e) := fun _ _ => nofun
theorem mwChst (e : Fin 8) : Statement (.mwChst e) := fun _ _ => nofun
theorem mwLd32 (e : Fin 8) (ecc : Ecc) : Statement (.mwLd32 e ecc) := fun _ _ => nofun
theorem mwLd40 (e : Fin 8) (ecc : Ecc) : Statement (.mwLd40 e ecc) := fun _ _ => nofun
theorem mwSt32 (e : Fin 8) : Statement (.mwSt32 e) := fun _ _ => nofun
theorem mwSt40 (e : Fin 8) : Statement (.mwSt40 e) := fun _ _ => nofun
theorem mwRec (e : Fin 8) : Statement (.mwRec e) := fun _ _ => nofun
theorem mwAng (e : Fin 8) : Statement (.mwAng e) := fun _ _ => nofun
theorem mwEdge (e : Fin 8) : Statement (.mwEdge e) := fun _ _ => nofun
theorem mwA2t (e : Fin 8) : Statement (.mwA2t e) := fun _ _ => nofun
theorem mwNow (e : Fin 8) : Statement (.mwNow e) := fun _ _ => nofun
theorem mwSignal (e : Fin 8) : Statement (.mwSignal e) := fun _ _ => nofun
theorem mwWclr (e : Fin 8) : Statement (.mwWclr e) := fun _ _ => nofun
theorem mwTrig (e : Fin 8) : Statement (.mwTrig e) := fun _ _ => nofun
theorem csStore (p : Path) (e : Fin 8) (w : Fin 2048) (v : Word) : Statement (.csStore p e w v) := fun _ _ => nofun
theorem wheelTooth (n : Fin 4) (pos : Fin 64) : Statement (.wheelTooth n pos) := fun _ _ => nofun
theorem camEdge (n : Fin 4) (pos : Fin 64) : Statement (.camEdge n pos) := fun _ _ => nofun
theorem camLost (n : Fin 4) : Statement (.camLost n) := fun _ _ => nofun
theorem dirPwDecision (n : Fin 4) : Statement (.dirPwDecision n) := fun _ _ => nofun
theorem hallChange (n : Fin 4) (lvl : BitVec 3) (pos : Fin 64) : Statement (.hallChange n lvl pos) := fun _ _ => nofun
theorem quadTransition (n : Fin 4) (lvl : BitVec 3) (pos : Fin 64) : Statement (.quadTransition n lvl pos) := fun _ _ => nofun
theorem sincosSample (n : Fin 4) (rawS : BitVec 14) (rawC : BitVec 14) : Statement (.sincosSample n rawS rawC) := fun _ _ => nofun
theorem sincosIndex (n : Fin 4) (pos : Fin 64) : Statement (.sincosIndex n pos) := fun _ _ => nofun
theorem still (n : Fin 4) : Statement (.still n) := fun _ _ => nofun
theorem oryNop (p : Path) (n : Fin 4) : Statement (.oryNop p n) := fun _ _ => nofun
theorem reacq (p : Path) (n : Fin 4) : Statement (.reacq p n) := fun _ _ => nofun
theorem setpos (p : Path) (n : Fin 4) : Statement (.setpos p n) := fun _ _ => nofun
theorem clrCnt (p : Path) (n : Fin 4) : Statement (.clrCnt p n) := fun _ _ => nofun
theorem cvCmd (p : Path) (k : Fin 2) (ain : Fin 16) : Statement (.cvCmd p k ain) := fun _ _ => nofun
theorem convHold (k : Fin 2) : Statement (.convHold k) := fun _ _ => nofun
theorem convResult (k : Fin 2) (raw : BitVec 12) : Statement (.convResult k raw) := fun _ _ => nofun
theorem cvbufRdidxWrite (p : Path) (b : Fin 6) (v : Word) : Statement (.cvbufRdidxWrite p b v) := fun _ _ => nofun
theorem commandFetch (n : Fin 64) (bad corr : BitVec 8) : Statement (.commandFetch n bad corr) := fun _ _ => nofun
theorem lehrNop (n : Fin 64) : Statement (.lehrNop n) := fun _ _ => nofun
theorem arm (n : Fin 64) : Statement (.arm n) := fun _ _ => nofun
theorem cancel (n : Fin 64) : Statement (.cancel n) := fun _ _ => nofun
theorem move (n : Fin 64) : Statement (.move n) := fun _ _ => nofun
theorem lehrIllegal (n : Fin 64) : Statement (.lehrIllegal n) := fun _ _ => nofun
theorem stallResume : Statement .stallResume := fun _ _ => nofun
theorem prefetch : Statement .prefetch := fun _ _ => nofun
theorem cascade : Statement .cascade := fun _ _ => nofun
theorem deadlineFire (ecc : Ecc) : Statement (.deadlineFire ecc) := fun _ _ => nofun
theorem lehrEnable (p : Path) (v : Word) : Statement (.lehrEnable p v) := fun _ _ => nofun
theorem lehrDisable (p : Path) (v : Word) : Statement (.lehrDisable p v) := fun _ _ => nofun
theorem lehrHosterr : Statement .lehrHosterr := fun _ _ => nofun
theorem recordWrite : Statement .recordWrite := fun _ _ => nofun
theorem ringTailWrite (p : Path) (n : Fin 64) (v : Word) : Statement (.ringTailWrite p n v) := fun _ _ => nofun
theorem ringEnable (p : Path) (n : Fin 64) (v : Word) : Statement (.ringEnable p n v) := fun _ _ => nofun
theorem ringDisable (p : Path) (n : Fin 64) (v : Word) : Statement (.ringDisable p n v) := fun _ _ => nofun
theorem ringHosterr (n : Fin 64) : Statement (.ringHosterr n) := fun _ _ => nofun
theorem fence (n : Fin 64) : Statement (.fence n) := fun _ _ => nofun
theorem mark (n : Fin 64) : Statement (.mark n) := fun _ _ => nofun
theorem summary (n : Fin 64) : Statement (.summary n) := fun _ _ => nofun
theorem ringIllegal (n : Fin 64) : Statement (.ringIllegal n) := fun _ _ => nofun
theorem ecClaim (p : Path) (t : Fin 8) : Statement (.ecClaim p t) := fun _ _ => nofun
theorem ecComplete (p : Path) (t : Fin 8) (v : Word) : Statement (.ecComplete p t v) := fun _ _ => nofun
theorem ecDoorbell (p : Path) (v : Word) : Statement (.ecDoorbell p v) := fun _ _ => nofun
theorem ecPendWrite (p : Path) (w : Fin 32) (v : Word) : Statement (.ecPendWrite p w v) := fun _ _ => nofun
theorem ecEnWrite (p : Path) (w : Fin 32) (v : Word) : Statement (.ecEnWrite p w v) := fun _ _ => nofun
theorem ecTgtWrite (p : Path) (v : Word) : Statement (.ecTgtWrite p v) := fun _ _ => nofun
theorem ecCtrlWrite (p : Path) (v : Word) : Statement (.ecCtrlWrite p v) := fun _ _ => nofun
theorem latchTimeout : Statement .latchTimeout := fun _ _ => nofun
theorem pcieD0Return : Statement .pcieD0Return := fun _ _ => nofun
theorem linkLock (p : Fin 4) : Statement (.linkLock p) := fun _ _ => nofun
theorem portDown (p : Fin 4) (code : Bool) (viol : BitVec 16) : Statement (.portDown p code viol) := fun _ _ => nofun
theorem holdoffEnd (p : Fin 4) : Statement (.holdoffEnd p) := fun _ _ => nofun
theorem beaconTimeout (p : Fin 4) : Statement (.beaconTimeout p) := fun _ _ => nofun
theorem beaconSend (p : Fin 4) : Statement (.beaconSend p) := fun _ _ => nofun
theorem beaconReceive (p : Fin 4) (f : FrameHead) (b : Beacon) (pos : Fin 64) : Statement (.beaconReceive p f b pos) := fun _ _ => nofun
theorem candidateExpiry (p : Fin 4) : Statement (.candidateExpiry p) := fun _ _ => nofun
theorem delayReqSend (p : Fin 4) : Statement (.delayReqSend p) := fun _ _ => nofun
theorem delayReqReceive (p : Fin 4) (f : FrameHead) (ask : DelayAsk) (pos : Fin 64) : Statement (.delayReqReceive p f ask pos) := fun _ _ => nofun
theorem delayRespReceive (p : Fin 4) (f : FrameHead) (t4Ns : BitVec 64) (t4Sub : BitVec 6) (num : BitVec 8) : Statement (.delayRespReceive p f t4Ns t4Sub num) := fun _ _ => nofun
theorem delayTimeout (p : Fin 4) : Statement (.delayTimeout p) := fun _ _ => nofun
theorem joinReceive (p : Fin 4) (f : FrameHead) (id : Fin 1024) (uid : BitVec 64) : Statement (.joinReceive p f id uid) := fun _ _ => nofun
theorem joinResend : Statement .joinResend := fun _ _ => nofun
theorem joinAckReceive (p : Fin 4) (f : FrameHead) (id : Fin 1024) (conflict : Bool) (uid : BitVec 64) : Statement (.joinAckReceive p f id conflict uid) := fun _ _ => nofun
theorem leaveReceive (p : Fin 4) (f : FrameHead) (ids : List (Fin 1024)) : Statement (.leaveReceive p f ids) := fun _ _ => nofun
theorem applyAtFrame (p : Fin 4) (f : FrameHead) (t : BitVec 64) (m : BitVec 8) (bseq : BitVec 16) : Statement (.applyAtFrame p f t m bseq) := fun _ _ => nofun
theorem doorbellFrame (p : Fin 4) (f : FrameHead) (n : Fin 1024) (mid : BitVec 8) : Statement (.doorbellFrame p f n mid) := fun _ _ => nofun
theorem mailboxFrame (p : Fin 4) (f : FrameHead) (mid : BitVec 8) (data : List Byte) : Statement (.mailboxFrame p f mid data) := fun _ _ => nofun
theorem deliveryReceive (p : Fin 4) (f : FrameHead) (mid : BitVec 8) (typ : BitVec 8) (refused : Bool) : Statement (.deliveryReceive p f mid typ refused) := fun _ _ => nofun
theorem mailboxTimeout (mid : BitVec 8) : Statement (.mailboxTimeout mid) := fun _ _ => nofun
theorem frameSend (p : Fin 4) : Statement (.frameSend p) := fun _ _ => nofun
theorem doorbell (n : Fin 64) : Statement (.doorbell n) := fun _ _ => nofun
theorem mailbox (n : Fin 64) : Statement (.mailbox n) := fun _ _ => nofun
theorem mboxCont (n : Fin 64) : Statement (.mboxCont n) := fun _ _ => nofun
theorem applyAt (n : Fin 64) : Statement (.applyAt n) := fun _ _ => nofun
theorem elIllegal (n : Fin 64) : Statement (.elIllegal n) := fun _ _ => nofun
theorem elNop (p : Path) : Statement (.elNop p) := fun _ _ => nofun
theorem rejoin (p : Path) : Statement (.rejoin p) := fun _ _ => nofun
theorem elClrcnt (p : Path) : Statement (.elClrcnt p) := fun _ _ => nofun
theorem ewerlinkDisable (p : Path) (v : Word) : Statement (.ewerlinkDisable p v) := fun _ _ => nofun
theorem portDisable (p : Path) (v : Word) : Statement (.portDisable p v) := fun _ _ => nofun
theorem registerWrite (p : Path) (a : Word) (v : Word) (full : Bool) : Statement (.registerWrite p a v full) := fun _ _ => nofun
theorem rlRead (p : Path) (a : Word) : Statement (.rlRead p a) := fun _ _ => nofun
theorem unmappedAccess (p : Path) (a : Word) (isWrite : Bool) : Statement (.unmappedAccess p a isWrite) := fun _ _ => nofun
theorem spiRead (a : Word) (n : Fin 257) (arr : SpiReadForm) : Statement (.spiRead a n arr) := fun _ _ => nofun
theorem spiQread (a : Word) (n : Fin 257) (arr : SpiReadForm) : Statement (.spiQread a n arr) := fun _ _ => nofun
theorem spiWrite (a : Word) (ws : List Word) (form : SpiForm) : Statement (.spiWrite a ws form) := fun _ _ => nofun
theorem spiQwrite (a : Word) (ws : List Word) (form : SpiForm) : Statement (.spiQwrite a ws form) := fun _ _ => nofun
theorem rdsr : Statement .rdsr := fun _ _ => nofun
theorem ifreset : Statement .ifreset := fun _ _ => nofun
theorem pcieLinkDown : Statement .pcieLinkDown := fun _ _ => nofun
theorem functionLevelReset : Statement .functionLevelReset := fun _ _ => nofun
theorem busMasterDisable : Statement .busMasterDisable := fun _ _ => nofun
theorem d0Exit : Statement .d0Exit := fun _ _ => nofun
theorem completionTimeout : Statement .completionTimeout := fun _ _ => nofun
theorem apApply (p : Path) (m : BitVec 8) : Statement (.apApply p m) := fun _ _ => nofun
theorem apAtCmd (p : Path) (m : BitVec 8) : Statement (.apAtCmd p m) := fun _ _ => nofun
theorem applyAtDue : Statement .applyAtDue := fun _ _ => nofun
theorem apCancel (p : Path) (m : BitVec 8) : Statement (.apCancel p m) := fun _ _ => nofun
theorem apAbort (p : Path) (m : BitVec 8) : Statement (.apAbort p m) := fun _ _ => nofun
theorem apFence (p : Path) : Statement (.apFence p) := fun _ _ => nofun
theorem apFenceRead (p : Path) : Statement (.apFenceRead p) := fun _ _ => nofun
theorem glLockWrite (p : Path) (v : Word) : Statement (.glLockWrite p v) := fun _ _ => nofun
theorem glHosttagWrite (p : Path) (v : Word) : Statement (.glHosttagWrite p v) := fun _ _ => nofun
theorem signatureGo (p : Path) : Statement (.signatureGo p) := fun _ _ => nofun
theorem signatureDone : Statement .signatureDone := fun _ _ => nofun
theorem summaryGo (p : Path) : Statement (.summaryGo p) := fun _ _ => nofun
theorem summaryPeriod : Statement .summaryPeriod := fun _ _ => nofun
theorem summaryDone : Statement .summaryDone := fun _ _ => nofun
theorem powerOnReset : Statement .powerOnReset := fun _ _ => nofun
theorem brownOut : Statement .brownOut := fun _ _ => nofun
theorem vinLockout : Statement .vinLockout := fun _ _ => nofun
theorem supplyFault (which : Fin 3) : Statement (.supplyFault which) := fun _ _ => nofun
theorem pinReset : Statement .pinReset := fun _ _ => nofun
theorem slotSelection (i0 i1 i2 : List Byte) : Statement (.slotSelection i0 i1 i2) := fun _ _ => nofun
theorem loadPass (head rest : List Byte) : Statement (.loadPass head rest) := fun _ _ => nofun
theorem cfgNop (p : Path) : Statement (.cfgNop p) := fun _ _ => nofun
theorem reload (p : Path) (slot : Fin 4) : Statement (.reload p slot) := fun _ _ => nofun
theorem release (p : Path) : Statement (.release p) := fun _ _ => nofun
theorem clrerr (p : Path) : Statement (.clrerr p) := fun _ _ => nofun
theorem calUDataAccess (p : Path) (wr : Option Word) : Statement (.calUDataAccess p wr) := fun _ _ => nofun
theorem pwNop (p : Path) : Statement (.pwNop p) := fun _ _ => nofun
theorem pwRun (p : Path) : Statement (.pwRun p) := fun _ _ => nofun
theorem pwIdle (p : Path) : Statement (.pwIdle p) := fun _ _ => nofun
theorem pwHold (p : Path) : Statement (.pwHold p) := fun _ _ => nofun
theorem pwRetain (p : Path) : Statement (.pwRetain p) := fun _ _ => nofun
theorem pwOff (p : Path) : Statement (.pwOff p) := fun _ _ => nofun
theorem pwSoft (p : Path) : Statement (.pwSoft p) := fun _ _ => nofun
theorem pwCmdRefused (p : Path) (v : Word) : Statement (.pwCmdRefused p v) := fun _ _ => nofun
theorem wkupInEdge (falling : Bool) : Statement (.wkupInEdge falling) := fun _ _ => nofun
theorem retTmrExpiry : Statement .retTmrExpiry := fun _ _ => nofun
theorem retainExit (edges : Nat) : Statement (.retainExit edges) := fun _ _ => nofun
theorem idleWake : Statement .idleWake := fun _ _ => nofun
theorem watchdogKick (p : Path) (v : Word) : Statement (.watchdogKick p v) := fun _ _ => nofun
theorem wdgWarn : Statement .wdgWarn := fun _ _ => nofun
theorem watchdogExpiry : Statement .watchdogExpiry := fun _ _ => nofun
theorem linkReset : Statement .linkReset := fun _ _ => nofun
theorem psqNop (p : Path) : Statement (.psqNop p) := fun _ _ => nofun
theorem psqUp (p : Path) (timed : Bool) : Statement (.psqUp p timed) := fun _ _ => nofun
theorem psqDown (p : Path) (timed : Bool) : Statement (.psqDown p timed) := fun _ _ => nofun
theorem psqAbort (p : Path) : Statement (.psqAbort p) := fun _ _ => nofun
theorem clrflt (p : Path) : Statement (.clrflt p) := fun _ _ => nofun
theorem railOn (r : Fin 8) : Statement (.railOn r) := fun _ _ => nofun
theorem railOff (r : Fin 8) : Statement (.railOff r) := fun _ _ => nofun
theorem pgTimeout (r : Fin 8) : Statement (.pgTimeout r) := fun _ _ => nofun
theorem pgLost (r : Fin 8) : Statement (.pgLost r) := fun _ _ => nofun
theorem healthSample (tj : BitVec 16) (vcore : BitVec 16) (ms : List Monitor) (vst : List (BitVec 16)) (gs : List GafMeas) : Statement (.healthSample tj vcore ms vst gs) := fun _ _ => nofun
theorem healthLife : Statement .healthLife := fun _ _ => nofun
theorem freezeBall : Statement .freezeBall := fun _ _ => nofun
theorem freezeBallRelease : Statement .freezeBallRelease := fun _ _ => nofun
theorem freeze (o : FrzPort) : Statement (.freeze o) := fun _ _ => nofun
theorem thaw (o : FrzPort) : Statement (.thaw o) := fun _ _ => nofun
theorem frzNop (p : Path) : Statement (.frzNop p) := fun _ _ => nofun
theorem freezeComplete : Statement .freezeComplete := fun _ _ => nofun
theorem pcieLinkUp (wide : Bool) (speed : Fin 3) (bme : Bool) (mx : MsixCtl) (cfg : PcieCfg) : Statement (.pcieLinkUp wide speed bme mx cfg) := fun _ _ => nofun
theorem supplyReturn (which : Fin 3) : Statement (.supplyReturn which) := fun _ _ => nofun
theorem pgoodAsserted (r : Fin 8) : Statement (.pgoodAsserted r) := fun _ _ => nofun
theorem sramWindowWrite (p : Path) (a : Word) (v : Word) (be : BitVec 4) : Statement (.sramWindowWrite p a v be) := fun _ _ => nofun
theorem mramWindowWrite (p : Path) (a : Word) (v : Word) : Statement (.mramWindowWrite p a v) := fun _ _ => nofun
theorem hostWindowRead (p : Path) (a : Word) (ecc : Ecc) : Statement (.hostWindowRead p a ecc) := fun _ _ => nofun

end Sys2Proof.Laws.EncodesNone
end

