-- ==== Sys2Proof/Laws/State.lean ====
section
/-!
SUPPORT. What each field of the state is after each elementary update: the updated field, and every other one as it was.
-/
namespace Sys2Proof.Machine
open Sys2Proof

/-! ### `State.setReg` -/

@[simp] theorem State.setReg_regs (s : State) (o : Nat) (w : Word) : (s.setReg o w).regs = tblSet resetWord s.regs o w := rfl
@[simp] theorem State.setReg_staged (s : State) (o : Nat) (w : Word) : (s.setReg o w).staged = s.staged := rfl
@[simp] theorem State.setReg_pcie (s : State) (o : Nat) (w : Word) : (s.setReg o w).pcie = s.pcie := rfl
@[simp] theorem State.setReg_spi (s : State) (o : Nat) (w : Word) : (s.setReg o w).spi = s.spi := rfl
@[simp] theorem State.setReg_spine (s : State) (o : Nat) (w : Word) : (s.setReg o w).spine = s.spine := rfl
@[simp] theorem State.setReg_banks (s : State) (o : Nat) (w : Word) : (s.setReg o w).banks = s.banks := rfl
@[simp] theorem State.setReg_ch (s : State) (o : Nat) (w : Word) : (s.setReg o w).ch = s.ch := rfl
@[simp] theorem State.setReg_gaf (s : State) (o : Nat) (w : Word) : (s.setReg o w).gaf = s.gaf := rfl
@[simp] theorem State.setReg_ory (s : State) (o : Nat) (w : Word) : (s.setReg o w).ory = s.ory := rfl
@[simp] theorem State.setReg_conv (s : State) (o : Nat) (w : Word) : (s.setReg o w).conv = s.conv := rfl
@[simp] theorem State.setReg_sbuf (s : State) (o : Nat) (w : Word) : (s.setReg o w).sbuf = s.sbuf := rfl
@[simp] theorem State.setReg_recq (s : State) (o : Nat) (w : Word) : (s.setReg o w).recq = s.recq := rfl
@[simp] theorem State.setReg_seqs (s : State) (o : Nat) (w : Word) : (s.setReg o w).seqs = s.seqs := rfl
@[simp] theorem State.setReg_otp (s : State) (o : Nat) (w : Word) : (s.setReg o w).otp = s.otp := rfl
@[simp] theorem State.setReg_calU (s : State) (o : Nat) (w : Word) : (s.setReg o w).calU = s.calU := rfl
@[simp] theorem State.setReg_calS (s : State) (o : Nat) (w : Word) : (s.setReg o w).calS = s.calS := rfl
@[simp] theorem State.setReg_layout (s : State) (o : Nat) (w : Word) : (s.setReg o w).layout = s.layout := rfl
@[simp] theorem State.setReg_ap (s : State) (o : Nat) (w : Word) : (s.setReg o w).ap = s.ap := rfl
@[simp] theorem State.setReg_rings (s : State) (o : Nat) (w : Word) : (s.setReg o w).rings = s.rings := rfl
@[simp] theorem State.setReg_lehr (s : State) (o : Nat) (w : Word) : (s.setReg o w).lehr = s.lehr := rfl
@[simp] theorem State.setReg_el (s : State) (o : Nat) (w : Word) : (s.setReg o w).el = s.el := rfl
@[simp] theorem State.setReg_ec (s : State) (o : Nat) (w : Word) : (s.setReg o w).ec = s.ec := rfl
@[simp] theorem State.setReg_fn (s : State) (o : Nat) (w : Word) : (s.setReg o w).fn = s.fn := rfl
@[simp] theorem State.setReg_hif (s : State) (o : Nat) (w : Word) : (s.setReg o w).hif = s.hif := rfl
@[simp] theorem State.setReg_load (s : State) (o : Nat) (w : Word) : (s.setReg o w).load = s.load := rfl
@[simp] theorem State.setReg_frz (s : State) (o : Nat) (w : Word) : (s.setReg o w).frz = s.frz := rfl
@[simp] theorem State.setReg_psq (s : State) (o : Nat) (w : Word) : (s.setReg o w).psq = s.psq := rfl
@[simp] theorem State.setReg_pw (s : State) (o : Nat) (w : Word) : (s.setReg o w).pw = s.pw := rfl
@[simp] theorem State.setReg_hl (s : State) (o : Nat) (w : Word) : (s.setReg o w).hl = s.hl := rfl
@[simp] theorem State.setReg_sram (s : State) (o : Nat) (w : Word) : (s.setReg o w).sram = s.sram := rfl
@[simp] theorem State.setReg_mram (s : State) (o : Nat) (w : Word) : (s.setReg o w).mram = s.mram := rfl
@[simp] theorem State.setReg_host (s : State) (o : Nat) (w : Word) : (s.setReg o w).host = s.host := rfl
@[simp] theorem State.setReg_free (s : State) (o : Nat) (w : Word) : (s.setReg o w).free = s.free := rfl
@[simp] theorem State.setReg_pending (s : State) (o : Nat) (w : Word) : (s.setReg o w).pending = s.pending := rfl

/-! ### `State.drawn` -/

@[simp] theorem State.drawn_regs (s : State) : (s.drawn).regs = s.regs := rfl
@[simp] theorem State.drawn_staged (s : State) : (s.drawn).staged = s.staged := rfl
@[simp] theorem State.drawn_pcie (s : State) : (s.drawn).pcie = s.pcie := rfl
@[simp] theorem State.drawn_spi (s : State) : (s.drawn).spi = s.spi := rfl
@[simp] theorem State.drawn_spine (s : State) : (s.drawn).spine = s.spine := rfl
@[simp] theorem State.drawn_banks (s : State) : (s.drawn).banks = s.banks := rfl
@[simp] theorem State.drawn_ch (s : State) : (s.drawn).ch = s.ch := rfl
@[simp] theorem State.drawn_gaf (s : State) : (s.drawn).gaf = s.gaf := rfl
@[simp] theorem State.drawn_ory (s : State) : (s.drawn).ory = s.ory := rfl
@[simp] theorem State.drawn_conv (s : State) : (s.drawn).conv = s.conv := rfl
@[simp] theorem State.drawn_sbuf (s : State) : (s.drawn).sbuf = s.sbuf := rfl
@[simp] theorem State.drawn_recq (s : State) : (s.drawn).recq = s.recq := rfl
@[simp] theorem State.drawn_seqs (s : State) : (s.drawn).seqs = s.seqs := rfl
@[simp] theorem State.drawn_otp (s : State) : (s.drawn).otp = s.otp := rfl
@[simp] theorem State.drawn_calU (s : State) : (s.drawn).calU = s.calU := rfl
@[simp] theorem State.drawn_calS (s : State) : (s.drawn).calS = s.calS := rfl
@[simp] theorem State.drawn_layout (s : State) : (s.drawn).layout = s.layout := rfl
@[simp] theorem State.drawn_ap (s : State) : (s.drawn).ap = s.ap := rfl
@[simp] theorem State.drawn_rings (s : State) : (s.drawn).rings = s.rings := rfl
@[simp] theorem State.drawn_lehr (s : State) : (s.drawn).lehr = s.lehr := rfl
@[simp] theorem State.drawn_el (s : State) : (s.drawn).el = s.el := rfl
@[simp] theorem State.drawn_ec (s : State) : (s.drawn).ec = s.ec := rfl
@[simp] theorem State.drawn_fn (s : State) : (s.drawn).fn = s.fn := rfl
@[simp] theorem State.drawn_hif (s : State) : (s.drawn).hif = s.hif := rfl
@[simp] theorem State.drawn_load (s : State) : (s.drawn).load = s.load := rfl
@[simp] theorem State.drawn_frz (s : State) : (s.drawn).frz = s.frz := rfl
@[simp] theorem State.drawn_psq (s : State) : (s.drawn).psq = s.psq := rfl
@[simp] theorem State.drawn_pw (s : State) : (s.drawn).pw = s.pw := rfl
@[simp] theorem State.drawn_hl (s : State) : (s.drawn).hl = s.hl := rfl
@[simp] theorem State.drawn_sram (s : State) : (s.drawn).sram = s.sram := rfl
@[simp] theorem State.drawn_mram (s : State) : (s.drawn).mram = s.mram := rfl
@[simp] theorem State.drawn_host (s : State) : (s.drawn).host = s.host := rfl
@[simp] theorem State.drawn_free (s : State) : (s.drawn).free = s.free + 1 := rfl
@[simp] theorem State.drawn_pending (s : State) : (s.drawn).pending = s.pending := rfl

/-! ### `State.modSpine` -/

@[simp] theorem State.modSpine_regs (s : State) (f : Spine → Spine) : (s.modSpine f).regs = s.regs := rfl
@[simp] theorem State.modSpine_staged (s : State) (f : Spine → Spine) : (s.modSpine f).staged = s.staged := rfl
@[simp] theorem State.modSpine_pcie (s : State) (f : Spine → Spine) : (s.modSpine f).pcie = s.pcie := rfl
@[simp] theorem State.modSpine_spi (s : State) (f : Spine → Spine) : (s.modSpine f).spi = s.spi := rfl
@[simp] theorem State.modSpine_spine (s : State) (f : Spine → Spine) : (s.modSpine f).spine = f s.spine := rfl
@[simp] theorem State.modSpine_banks (s : State) (f : Spine → Spine) : (s.modSpine f).banks = s.banks := rfl
@[simp] theorem State.modSpine_ch (s : State) (f : Spine → Spine) : (s.modSpine f).ch = s.ch := rfl
@[simp] theorem State.modSpine_gaf (s : State) (f : Spine → Spine) : (s.modSpine f).gaf = s.gaf := rfl
@[simp] theorem State.modSpine_ory (s : State) (f : Spine → Spine) : (s.modSpine f).ory = s.ory := rfl
@[simp] theorem State.modSpine_conv (s : State) (f : Spine → Spine) : (s.modSpine f).conv = s.conv := rfl
@[simp] theorem State.modSpine_sbuf (s : State) (f : Spine → Spine) : (s.modSpine f).sbuf = s.sbuf := rfl
@[simp] theorem State.modSpine_recq (s : State) (f : Spine → Spine) : (s.modSpine f).recq = s.recq := rfl
@[simp] theorem State.modSpine_seqs (s : State) (f : Spine → Spine) : (s.modSpine f).seqs = s.seqs := rfl
@[simp] theorem State.modSpine_otp (s : State) (f : Spine → Spine) : (s.modSpine f).otp = s.otp := rfl
@[simp] theorem State.modSpine_calU (s : State) (f : Spine → Spine) : (s.modSpine f).calU = s.calU := rfl
@[simp] theorem State.modSpine_calS (s : State) (f : Spine → Spine) : (s.modSpine f).calS = s.calS := rfl
@[simp] theorem State.modSpine_layout (s : State) (f : Spine → Spine) : (s.modSpine f).layout = s.layout := rfl
@[simp] theorem State.modSpine_ap (s : State) (f : Spine → Spine) : (s.modSpine f).ap = s.ap := rfl
@[simp] theorem State.modSpine_rings (s : State) (f : Spine → Spine) : (s.modSpine f).rings = s.rings := rfl
@[simp] theorem State.modSpine_lehr (s : State) (f : Spine → Spine) : (s.modSpine f).lehr = s.lehr := rfl
@[simp] theorem State.modSpine_el (s : State) (f : Spine → Spine) : (s.modSpine f).el = s.el := rfl
@[simp] theorem State.modSpine_ec (s : State) (f : Spine → Spine) : (s.modSpine f).ec = s.ec := rfl
@[simp] theorem State.modSpine_fn (s : State) (f : Spine → Spine) : (s.modSpine f).fn = s.fn := rfl
@[simp] theorem State.modSpine_hif (s : State) (f : Spine → Spine) : (s.modSpine f).hif = s.hif := rfl
@[simp] theorem State.modSpine_load (s : State) (f : Spine → Spine) : (s.modSpine f).load = s.load := rfl
@[simp] theorem State.modSpine_frz (s : State) (f : Spine → Spine) : (s.modSpine f).frz = s.frz := rfl
@[simp] theorem State.modSpine_psq (s : State) (f : Spine → Spine) : (s.modSpine f).psq = s.psq := rfl
@[simp] theorem State.modSpine_pw (s : State) (f : Spine → Spine) : (s.modSpine f).pw = s.pw := rfl
@[simp] theorem State.modSpine_hl (s : State) (f : Spine → Spine) : (s.modSpine f).hl = s.hl := rfl
@[simp] theorem State.modSpine_sram (s : State) (f : Spine → Spine) : (s.modSpine f).sram = s.sram := rfl
@[simp] theorem State.modSpine_mram (s : State) (f : Spine → Spine) : (s.modSpine f).mram = s.mram := rfl
@[simp] theorem State.modSpine_host (s : State) (f : Spine → Spine) : (s.modSpine f).host = s.host := rfl
@[simp] theorem State.modSpine_free (s : State) (f : Spine → Spine) : (s.modSpine f).free = s.free := rfl
@[simp] theorem State.modSpine_pending (s : State) (f : Spine → Spine) : (s.modSpine f).pending = s.pending := rfl

/-! ### `State.modBank` -/

@[simp] theorem State.modBank_regs (s : State) (b : Fin 12) (f : Bank → Bank) : (s.modBank b f).regs = s.regs := rfl
@[simp] theorem State.modBank_staged (s : State) (b : Fin 12) (f : Bank → Bank) : (s.modBank b f).staged = s.staged := rfl
@[simp] theorem State.modBank_pcie (s : State) (b : Fin 12) (f : Bank → Bank) : (s.modBank b f).pcie = s.pcie := rfl
@[simp] theorem State.modBank_spi (s : State) (b : Fin 12) (f : Bank → Bank) : (s.modBank b f).spi = s.spi := rfl
@[simp] theorem State.modBank_spine (s : State) (b : Fin 12) (f : Bank → Bank) : (s.modBank b f).spine = s.spine := rfl
@[simp] theorem State.modBank_banks (s : State) (b : Fin 12) (f : Bank → Bank) : (s.modBank b f).banks = s.banks.set b (f s.banks[b]) := rfl
@[simp] theorem State.modBank_ch (s : State) (b : Fin 12) (f : Bank → Bank) : (s.modBank b f).ch = s.ch := rfl
@[simp] theorem State.modBank_gaf (s : State) (b : Fin 12) (f : Bank → Bank) : (s.modBank b f).gaf = s.gaf := rfl
@[simp] theorem State.modBank_ory (s : State) (b : Fin 12) (f : Bank → Bank) : (s.modBank b f).ory = s.ory := rfl
@[simp] theorem State.modBank_conv (s : State) (b : Fin 12) (f : Bank → Bank) : (s.modBank b f).conv = s.conv := rfl
@[simp] theorem State.modBank_sbuf (s : State) (b : Fin 12) (f : Bank → Bank) : (s.modBank b f).sbuf = s.sbuf := rfl
@[simp] theorem State.modBank_recq (s : State) (b : Fin 12) (f : Bank → Bank) : (s.modBank b f).recq = s.recq := rfl
@[simp] theorem State.modBank_seqs (s : State) (b : Fin 12) (f : Bank → Bank) : (s.modBank b f).seqs = s.seqs := rfl
@[simp] theorem State.modBank_otp (s : State) (b : Fin 12) (f : Bank → Bank) : (s.modBank b f).otp = s.otp := rfl
@[simp] theorem State.modBank_calU (s : State) (b : Fin 12) (f : Bank → Bank) : (s.modBank b f).calU = s.calU := rfl
@[simp] theorem State.modBank_calS (s : State) (b : Fin 12) (f : Bank → Bank) : (s.modBank b f).calS = s.calS := rfl
@[simp] theorem State.modBank_layout (s : State) (b : Fin 12) (f : Bank → Bank) : (s.modBank b f).layout = s.layout := rfl
@[simp] theorem State.modBank_ap (s : State) (b : Fin 12) (f : Bank → Bank) : (s.modBank b f).ap = s.ap := rfl
@[simp] theorem State.modBank_rings (s : State) (b : Fin 12) (f : Bank → Bank) : (s.modBank b f).rings = s.rings := rfl
@[simp] theorem State.modBank_lehr (s : State) (b : Fin 12) (f : Bank → Bank) : (s.modBank b f).lehr = s.lehr := rfl
@[simp] theorem State.modBank_el (s : State) (b : Fin 12) (f : Bank → Bank) : (s.modBank b f).el = s.el := rfl
@[simp] theorem State.modBank_ec (s : State) (b : Fin 12) (f : Bank → Bank) : (s.modBank b f).ec = s.ec := rfl
@[simp] theorem State.modBank_fn (s : State) (b : Fin 12) (f : Bank → Bank) : (s.modBank b f).fn = s.fn := rfl
@[simp] theorem State.modBank_hif (s : State) (b : Fin 12) (f : Bank → Bank) : (s.modBank b f).hif = s.hif := rfl
@[simp] theorem State.modBank_load (s : State) (b : Fin 12) (f : Bank → Bank) : (s.modBank b f).load = s.load := rfl
@[simp] theorem State.modBank_frz (s : State) (b : Fin 12) (f : Bank → Bank) : (s.modBank b f).frz = s.frz := rfl
@[simp] theorem State.modBank_psq (s : State) (b : Fin 12) (f : Bank → Bank) : (s.modBank b f).psq = s.psq := rfl
@[simp] theorem State.modBank_pw (s : State) (b : Fin 12) (f : Bank → Bank) : (s.modBank b f).pw = s.pw := rfl
@[simp] theorem State.modBank_hl (s : State) (b : Fin 12) (f : Bank → Bank) : (s.modBank b f).hl = s.hl := rfl
@[simp] theorem State.modBank_sram (s : State) (b : Fin 12) (f : Bank → Bank) : (s.modBank b f).sram = s.sram := rfl
@[simp] theorem State.modBank_mram (s : State) (b : Fin 12) (f : Bank → Bank) : (s.modBank b f).mram = s.mram := rfl
@[simp] theorem State.modBank_host (s : State) (b : Fin 12) (f : Bank → Bank) : (s.modBank b f).host = s.host := rfl
@[simp] theorem State.modBank_free (s : State) (b : Fin 12) (f : Bank → Bank) : (s.modBank b f).free = s.free := rfl
@[simp] theorem State.modBank_pending (s : State) (b : Fin 12) (f : Bank → Bank) : (s.modBank b f).pending = s.pending := rfl

/-! ### `State.modCh` -/

@[simp] theorem State.modCh_regs (s : State) (c : Fin 96) (f : Channel → Channel) : (s.modCh c f).regs = s.regs := rfl
@[simp] theorem State.modCh_staged (s : State) (c : Fin 96) (f : Channel → Channel) : (s.modCh c f).staged = s.staged := rfl
@[simp] theorem State.modCh_pcie (s : State) (c : Fin 96) (f : Channel → Channel) : (s.modCh c f).pcie = s.pcie := rfl
@[simp] theorem State.modCh_spi (s : State) (c : Fin 96) (f : Channel → Channel) : (s.modCh c f).spi = s.spi := rfl
@[simp] theorem State.modCh_spine (s : State) (c : Fin 96) (f : Channel → Channel) : (s.modCh c f).spine = s.spine := rfl
@[simp] theorem State.modCh_banks (s : State) (c : Fin 96) (f : Channel → Channel) : (s.modCh c f).banks = s.banks := rfl
@[simp] theorem State.modCh_ch (s : State) (c : Fin 96) (f : Channel → Channel) : (s.modCh c f).ch = s.ch.set c (f s.ch[c]) := rfl
@[simp] theorem State.modCh_gaf (s : State) (c : Fin 96) (f : Channel → Channel) : (s.modCh c f).gaf = s.gaf := rfl
@[simp] theorem State.modCh_ory (s : State) (c : Fin 96) (f : Channel → Channel) : (s.modCh c f).ory = s.ory := rfl
@[simp] theorem State.modCh_conv (s : State) (c : Fin 96) (f : Channel → Channel) : (s.modCh c f).conv = s.conv := rfl
@[simp] theorem State.modCh_sbuf (s : State) (c : Fin 96) (f : Channel → Channel) : (s.modCh c f).sbuf = s.sbuf := rfl
@[simp] theorem State.modCh_recq (s : State) (c : Fin 96) (f : Channel → Channel) : (s.modCh c f).recq = s.recq := rfl
@[simp] theorem State.modCh_seqs (s : State) (c : Fin 96) (f : Channel → Channel) : (s.modCh c f).seqs = s.seqs := rfl
@[simp] theorem State.modCh_otp (s : State) (c : Fin 96) (f : Channel → Channel) : (s.modCh c f).otp = s.otp := rfl
@[simp] theorem State.modCh_calU (s : State) (c : Fin 96) (f : Channel → Channel) : (s.modCh c f).calU = s.calU := rfl
@[simp] theorem State.modCh_calS (s : State) (c : Fin 96) (f : Channel → Channel) : (s.modCh c f).calS = s.calS := rfl
@[simp] theorem State.modCh_layout (s : State) (c : Fin 96) (f : Channel → Channel) : (s.modCh c f).layout = s.layout := rfl
@[simp] theorem State.modCh_ap (s : State) (c : Fin 96) (f : Channel → Channel) : (s.modCh c f).ap = s.ap := rfl
@[simp] theorem State.modCh_rings (s : State) (c : Fin 96) (f : Channel → Channel) : (s.modCh c f).rings = s.rings := rfl
@[simp] theorem State.modCh_lehr (s : State) (c : Fin 96) (f : Channel → Channel) : (s.modCh c f).lehr = s.lehr := rfl
@[simp] theorem State.modCh_el (s : State) (c : Fin 96) (f : Channel → Channel) : (s.modCh c f).el = s.el := rfl
@[simp] theorem State.modCh_ec (s : State) (c : Fin 96) (f : Channel → Channel) : (s.modCh c f).ec = s.ec := rfl
@[simp] theorem State.modCh_fn (s : State) (c : Fin 96) (f : Channel → Channel) : (s.modCh c f).fn = s.fn := rfl
@[simp] theorem State.modCh_hif (s : State) (c : Fin 96) (f : Channel → Channel) : (s.modCh c f).hif = s.hif := rfl
@[simp] theorem State.modCh_load (s : State) (c : Fin 96) (f : Channel → Channel) : (s.modCh c f).load = s.load := rfl
@[simp] theorem State.modCh_frz (s : State) (c : Fin 96) (f : Channel → Channel) : (s.modCh c f).frz = s.frz := rfl
@[simp] theorem State.modCh_psq (s : State) (c : Fin 96) (f : Channel → Channel) : (s.modCh c f).psq = s.psq := rfl
@[simp] theorem State.modCh_pw (s : State) (c : Fin 96) (f : Channel → Channel) : (s.modCh c f).pw = s.pw := rfl
@[simp] theorem State.modCh_hl (s : State) (c : Fin 96) (f : Channel → Channel) : (s.modCh c f).hl = s.hl := rfl
@[simp] theorem State.modCh_sram (s : State) (c : Fin 96) (f : Channel → Channel) : (s.modCh c f).sram = s.sram := rfl
@[simp] theorem State.modCh_mram (s : State) (c : Fin 96) (f : Channel → Channel) : (s.modCh c f).mram = s.mram := rfl
@[simp] theorem State.modCh_host (s : State) (c : Fin 96) (f : Channel → Channel) : (s.modCh c f).host = s.host := rfl
@[simp] theorem State.modCh_free (s : State) (c : Fin 96) (f : Channel → Channel) : (s.modCh c f).free = s.free := rfl
@[simp] theorem State.modCh_pending (s : State) (c : Fin 96) (f : Channel → Channel) : (s.modCh c f).pending = s.pending := rfl

/-! ### `State.modGaf` -/

@[simp] theorem State.modGaf_regs (s : State) (e : Fin 8) (f : Gaffer → Gaffer) : (s.modGaf e f).regs = s.regs := rfl
@[simp] theorem State.modGaf_staged (s : State) (e : Fin 8) (f : Gaffer → Gaffer) : (s.modGaf e f).staged = s.staged := rfl
@[simp] theorem State.modGaf_pcie (s : State) (e : Fin 8) (f : Gaffer → Gaffer) : (s.modGaf e f).pcie = s.pcie := rfl
@[simp] theorem State.modGaf_spi (s : State) (e : Fin 8) (f : Gaffer → Gaffer) : (s.modGaf e f).spi = s.spi := rfl
@[simp] theorem State.modGaf_spine (s : State) (e : Fin 8) (f : Gaffer → Gaffer) : (s.modGaf e f).spine = s.spine := rfl
@[simp] theorem State.modGaf_banks (s : State) (e : Fin 8) (f : Gaffer → Gaffer) : (s.modGaf e f).banks = s.banks := rfl
@[simp] theorem State.modGaf_ch (s : State) (e : Fin 8) (f : Gaffer → Gaffer) : (s.modGaf e f).ch = s.ch := rfl
@[simp] theorem State.modGaf_gaf (s : State) (e : Fin 8) (f : Gaffer → Gaffer) : (s.modGaf e f).gaf = s.gaf.set e (f s.gaf[e]) := rfl
@[simp] theorem State.modGaf_ory (s : State) (e : Fin 8) (f : Gaffer → Gaffer) : (s.modGaf e f).ory = s.ory := rfl
@[simp] theorem State.modGaf_conv (s : State) (e : Fin 8) (f : Gaffer → Gaffer) : (s.modGaf e f).conv = s.conv := rfl
@[simp] theorem State.modGaf_sbuf (s : State) (e : Fin 8) (f : Gaffer → Gaffer) : (s.modGaf e f).sbuf = s.sbuf := rfl
@[simp] theorem State.modGaf_recq (s : State) (e : Fin 8) (f : Gaffer → Gaffer) : (s.modGaf e f).recq = s.recq := rfl
@[simp] theorem State.modGaf_seqs (s : State) (e : Fin 8) (f : Gaffer → Gaffer) : (s.modGaf e f).seqs = s.seqs := rfl
@[simp] theorem State.modGaf_otp (s : State) (e : Fin 8) (f : Gaffer → Gaffer) : (s.modGaf e f).otp = s.otp := rfl
@[simp] theorem State.modGaf_calU (s : State) (e : Fin 8) (f : Gaffer → Gaffer) : (s.modGaf e f).calU = s.calU := rfl
@[simp] theorem State.modGaf_calS (s : State) (e : Fin 8) (f : Gaffer → Gaffer) : (s.modGaf e f).calS = s.calS := rfl
@[simp] theorem State.modGaf_layout (s : State) (e : Fin 8) (f : Gaffer → Gaffer) : (s.modGaf e f).layout = s.layout := rfl
@[simp] theorem State.modGaf_ap (s : State) (e : Fin 8) (f : Gaffer → Gaffer) : (s.modGaf e f).ap = s.ap := rfl
@[simp] theorem State.modGaf_rings (s : State) (e : Fin 8) (f : Gaffer → Gaffer) : (s.modGaf e f).rings = s.rings := rfl
@[simp] theorem State.modGaf_lehr (s : State) (e : Fin 8) (f : Gaffer → Gaffer) : (s.modGaf e f).lehr = s.lehr := rfl
@[simp] theorem State.modGaf_el (s : State) (e : Fin 8) (f : Gaffer → Gaffer) : (s.modGaf e f).el = s.el := rfl
@[simp] theorem State.modGaf_ec (s : State) (e : Fin 8) (f : Gaffer → Gaffer) : (s.modGaf e f).ec = s.ec := rfl
@[simp] theorem State.modGaf_fn (s : State) (e : Fin 8) (f : Gaffer → Gaffer) : (s.modGaf e f).fn = s.fn := rfl
@[simp] theorem State.modGaf_hif (s : State) (e : Fin 8) (f : Gaffer → Gaffer) : (s.modGaf e f).hif = s.hif := rfl
@[simp] theorem State.modGaf_load (s : State) (e : Fin 8) (f : Gaffer → Gaffer) : (s.modGaf e f).load = s.load := rfl
@[simp] theorem State.modGaf_frz (s : State) (e : Fin 8) (f : Gaffer → Gaffer) : (s.modGaf e f).frz = s.frz := rfl
@[simp] theorem State.modGaf_psq (s : State) (e : Fin 8) (f : Gaffer → Gaffer) : (s.modGaf e f).psq = s.psq := rfl
@[simp] theorem State.modGaf_pw (s : State) (e : Fin 8) (f : Gaffer → Gaffer) : (s.modGaf e f).pw = s.pw := rfl
@[simp] theorem State.modGaf_hl (s : State) (e : Fin 8) (f : Gaffer → Gaffer) : (s.modGaf e f).hl = s.hl := rfl
@[simp] theorem State.modGaf_sram (s : State) (e : Fin 8) (f : Gaffer → Gaffer) : (s.modGaf e f).sram = s.sram := rfl
@[simp] theorem State.modGaf_mram (s : State) (e : Fin 8) (f : Gaffer → Gaffer) : (s.modGaf e f).mram = s.mram := rfl
@[simp] theorem State.modGaf_host (s : State) (e : Fin 8) (f : Gaffer → Gaffer) : (s.modGaf e f).host = s.host := rfl
@[simp] theorem State.modGaf_free (s : State) (e : Fin 8) (f : Gaffer → Gaffer) : (s.modGaf e f).free = s.free := rfl
@[simp] theorem State.modGaf_pending (s : State) (e : Fin 8) (f : Gaffer → Gaffer) : (s.modGaf e f).pending = s.pending := rfl

/-! ### `State.modOry` -/

@[simp] theorem State.modOry_regs (s : State) (n : Fin 4) (f : Orrery → Orrery) : (s.modOry n f).regs = s.regs := rfl
@[simp] theorem State.modOry_staged (s : State) (n : Fin 4) (f : Orrery → Orrery) : (s.modOry n f).staged = s.staged := rfl
@[simp] theorem State.modOry_pcie (s : State) (n : Fin 4) (f : Orrery → Orrery) : (s.modOry n f).pcie = s.pcie := rfl
@[simp] theorem State.modOry_spi (s : State) (n : Fin 4) (f : Orrery → Orrery) : (s.modOry n f).spi = s.spi := rfl
@[simp] theorem State.modOry_spine (s : State) (n : Fin 4) (f : Orrery → Orrery) : (s.modOry n f).spine = s.spine := rfl
@[simp] theorem State.modOry_banks (s : State) (n : Fin 4) (f : Orrery → Orrery) : (s.modOry n f).banks = s.banks := rfl
@[simp] theorem State.modOry_ch (s : State) (n : Fin 4) (f : Orrery → Orrery) : (s.modOry n f).ch = s.ch := rfl
@[simp] theorem State.modOry_gaf (s : State) (n : Fin 4) (f : Orrery → Orrery) : (s.modOry n f).gaf = s.gaf := rfl
@[simp] theorem State.modOry_ory (s : State) (n : Fin 4) (f : Orrery → Orrery) : (s.modOry n f).ory = s.ory.set n (f s.ory[n]) := rfl
@[simp] theorem State.modOry_conv (s : State) (n : Fin 4) (f : Orrery → Orrery) : (s.modOry n f).conv = s.conv := rfl
@[simp] theorem State.modOry_sbuf (s : State) (n : Fin 4) (f : Orrery → Orrery) : (s.modOry n f).sbuf = s.sbuf := rfl
@[simp] theorem State.modOry_recq (s : State) (n : Fin 4) (f : Orrery → Orrery) : (s.modOry n f).recq = s.recq := rfl
@[simp] theorem State.modOry_seqs (s : State) (n : Fin 4) (f : Orrery → Orrery) : (s.modOry n f).seqs = s.seqs := rfl
@[simp] theorem State.modOry_otp (s : State) (n : Fin 4) (f : Orrery → Orrery) : (s.modOry n f).otp = s.otp := rfl
@[simp] theorem State.modOry_calU (s : State) (n : Fin 4) (f : Orrery → Orrery) : (s.modOry n f).calU = s.calU := rfl
@[simp] theorem State.modOry_calS (s : State) (n : Fin 4) (f : Orrery → Orrery) : (s.modOry n f).calS = s.calS := rfl
@[simp] theorem State.modOry_layout (s : State) (n : Fin 4) (f : Orrery → Orrery) : (s.modOry n f).layout = s.layout := rfl
@[simp] theorem State.modOry_ap (s : State) (n : Fin 4) (f : Orrery → Orrery) : (s.modOry n f).ap = s.ap := rfl
@[simp] theorem State.modOry_rings (s : State) (n : Fin 4) (f : Orrery → Orrery) : (s.modOry n f).rings = s.rings := rfl
@[simp] theorem State.modOry_lehr (s : State) (n : Fin 4) (f : Orrery → Orrery) : (s.modOry n f).lehr = s.lehr := rfl
@[simp] theorem State.modOry_el (s : State) (n : Fin 4) (f : Orrery → Orrery) : (s.modOry n f).el = s.el := rfl
@[simp] theorem State.modOry_ec (s : State) (n : Fin 4) (f : Orrery → Orrery) : (s.modOry n f).ec = s.ec := rfl
@[simp] theorem State.modOry_fn (s : State) (n : Fin 4) (f : Orrery → Orrery) : (s.modOry n f).fn = s.fn := rfl
@[simp] theorem State.modOry_hif (s : State) (n : Fin 4) (f : Orrery → Orrery) : (s.modOry n f).hif = s.hif := rfl
@[simp] theorem State.modOry_load (s : State) (n : Fin 4) (f : Orrery → Orrery) : (s.modOry n f).load = s.load := rfl
@[simp] theorem State.modOry_frz (s : State) (n : Fin 4) (f : Orrery → Orrery) : (s.modOry n f).frz = s.frz := rfl
@[simp] theorem State.modOry_psq (s : State) (n : Fin 4) (f : Orrery → Orrery) : (s.modOry n f).psq = s.psq := rfl
@[simp] theorem State.modOry_pw (s : State) (n : Fin 4) (f : Orrery → Orrery) : (s.modOry n f).pw = s.pw := rfl
@[simp] theorem State.modOry_hl (s : State) (n : Fin 4) (f : Orrery → Orrery) : (s.modOry n f).hl = s.hl := rfl
@[simp] theorem State.modOry_sram (s : State) (n : Fin 4) (f : Orrery → Orrery) : (s.modOry n f).sram = s.sram := rfl
@[simp] theorem State.modOry_mram (s : State) (n : Fin 4) (f : Orrery → Orrery) : (s.modOry n f).mram = s.mram := rfl
@[simp] theorem State.modOry_host (s : State) (n : Fin 4) (f : Orrery → Orrery) : (s.modOry n f).host = s.host := rfl
@[simp] theorem State.modOry_free (s : State) (n : Fin 4) (f : Orrery → Orrery) : (s.modOry n f).free = s.free := rfl
@[simp] theorem State.modOry_pending (s : State) (n : Fin 4) (f : Orrery → Orrery) : (s.modOry n f).pending = s.pending := rfl

/-! ### `State.modConv` -/

@[simp] theorem State.modConv_regs (s : State) (k : Fin 2) (f : Converter → Converter) : (s.modConv k f).regs = s.regs := rfl
@[simp] theorem State.modConv_staged (s : State) (k : Fin 2) (f : Converter → Converter) : (s.modConv k f).staged = s.staged := rfl
@[simp] theorem State.modConv_pcie (s : State) (k : Fin 2) (f : Converter → Converter) : (s.modConv k f).pcie = s.pcie := rfl
@[simp] theorem State.modConv_spi (s : State) (k : Fin 2) (f : Converter → Converter) : (s.modConv k f).spi = s.spi := rfl
@[simp] theorem State.modConv_spine (s : State) (k : Fin 2) (f : Converter → Converter) : (s.modConv k f).spine = s.spine := rfl
@[simp] theorem State.modConv_banks (s : State) (k : Fin 2) (f : Converter → Converter) : (s.modConv k f).banks = s.banks := rfl
@[simp] theorem State.modConv_ch (s : State) (k : Fin 2) (f : Converter → Converter) : (s.modConv k f).ch = s.ch := rfl
@[simp] theorem State.modConv_gaf (s : State) (k : Fin 2) (f : Converter → Converter) : (s.modConv k f).gaf = s.gaf := rfl
@[simp] theorem State.modConv_ory (s : State) (k : Fin 2) (f : Converter → Converter) : (s.modConv k f).ory = s.ory := rfl
@[simp] theorem State.modConv_conv (s : State) (k : Fin 2) (f : Converter → Converter) : (s.modConv k f).conv = s.conv.set k (f s.conv[k]) := rfl
@[simp] theorem State.modConv_sbuf (s : State) (k : Fin 2) (f : Converter → Converter) : (s.modConv k f).sbuf = s.sbuf := rfl
@[simp] theorem State.modConv_recq (s : State) (k : Fin 2) (f : Converter → Converter) : (s.modConv k f).recq = s.recq := rfl
@[simp] theorem State.modConv_seqs (s : State) (k : Fin 2) (f : Converter → Converter) : (s.modConv k f).seqs = s.seqs := rfl
@[simp] theorem State.modConv_otp (s : State) (k : Fin 2) (f : Converter → Converter) : (s.modConv k f).otp = s.otp := rfl
@[simp] theorem State.modConv_calU (s : State) (k : Fin 2) (f : Converter → Converter) : (s.modConv k f).calU = s.calU := rfl
@[simp] theorem State.modConv_calS (s : State) (k : Fin 2) (f : Converter → Converter) : (s.modConv k f).calS = s.calS := rfl
@[simp] theorem State.modConv_layout (s : State) (k : Fin 2) (f : Converter → Converter) : (s.modConv k f).layout = s.layout := rfl
@[simp] theorem State.modConv_ap (s : State) (k : Fin 2) (f : Converter → Converter) : (s.modConv k f).ap = s.ap := rfl
@[simp] theorem State.modConv_rings (s : State) (k : Fin 2) (f : Converter → Converter) : (s.modConv k f).rings = s.rings := rfl
@[simp] theorem State.modConv_lehr (s : State) (k : Fin 2) (f : Converter → Converter) : (s.modConv k f).lehr = s.lehr := rfl
@[simp] theorem State.modConv_el (s : State) (k : Fin 2) (f : Converter → Converter) : (s.modConv k f).el = s.el := rfl
@[simp] theorem State.modConv_ec (s : State) (k : Fin 2) (f : Converter → Converter) : (s.modConv k f).ec = s.ec := rfl
@[simp] theorem State.modConv_fn (s : State) (k : Fin 2) (f : Converter → Converter) : (s.modConv k f).fn = s.fn := rfl
@[simp] theorem State.modConv_hif (s : State) (k : Fin 2) (f : Converter → Converter) : (s.modConv k f).hif = s.hif := rfl
@[simp] theorem State.modConv_load (s : State) (k : Fin 2) (f : Converter → Converter) : (s.modConv k f).load = s.load := rfl
@[simp] theorem State.modConv_frz (s : State) (k : Fin 2) (f : Converter → Converter) : (s.modConv k f).frz = s.frz := rfl
@[simp] theorem State.modConv_psq (s : State) (k : Fin 2) (f : Converter → Converter) : (s.modConv k f).psq = s.psq := rfl
@[simp] theorem State.modConv_pw (s : State) (k : Fin 2) (f : Converter → Converter) : (s.modConv k f).pw = s.pw := rfl
@[simp] theorem State.modConv_hl (s : State) (k : Fin 2) (f : Converter → Converter) : (s.modConv k f).hl = s.hl := rfl
@[simp] theorem State.modConv_sram (s : State) (k : Fin 2) (f : Converter → Converter) : (s.modConv k f).sram = s.sram := rfl
@[simp] theorem State.modConv_mram (s : State) (k : Fin 2) (f : Converter → Converter) : (s.modConv k f).mram = s.mram := rfl
@[simp] theorem State.modConv_host (s : State) (k : Fin 2) (f : Converter → Converter) : (s.modConv k f).host = s.host := rfl
@[simp] theorem State.modConv_free (s : State) (k : Fin 2) (f : Converter → Converter) : (s.modConv k f).free = s.free := rfl
@[simp] theorem State.modConv_pending (s : State) (k : Fin 2) (f : Converter → Converter) : (s.modConv k f).pending = s.pending := rfl

/-! ### `State.modRing` -/

@[simp] theorem State.modRing_regs (s : State) (n : Fin 64) (f : Ring → Ring) : (s.modRing n f).regs = s.regs := rfl
@[simp] theorem State.modRing_staged (s : State) (n : Fin 64) (f : Ring → Ring) : (s.modRing n f).staged = s.staged := rfl
@[simp] theorem State.modRing_pcie (s : State) (n : Fin 64) (f : Ring → Ring) : (s.modRing n f).pcie = s.pcie := rfl
@[simp] theorem State.modRing_spi (s : State) (n : Fin 64) (f : Ring → Ring) : (s.modRing n f).spi = s.spi := rfl
@[simp] theorem State.modRing_spine (s : State) (n : Fin 64) (f : Ring → Ring) : (s.modRing n f).spine = s.spine := rfl
@[simp] theorem State.modRing_banks (s : State) (n : Fin 64) (f : Ring → Ring) : (s.modRing n f).banks = s.banks := rfl
@[simp] theorem State.modRing_ch (s : State) (n : Fin 64) (f : Ring → Ring) : (s.modRing n f).ch = s.ch := rfl
@[simp] theorem State.modRing_gaf (s : State) (n : Fin 64) (f : Ring → Ring) : (s.modRing n f).gaf = s.gaf := rfl
@[simp] theorem State.modRing_ory (s : State) (n : Fin 64) (f : Ring → Ring) : (s.modRing n f).ory = s.ory := rfl
@[simp] theorem State.modRing_conv (s : State) (n : Fin 64) (f : Ring → Ring) : (s.modRing n f).conv = s.conv := rfl
@[simp] theorem State.modRing_sbuf (s : State) (n : Fin 64) (f : Ring → Ring) : (s.modRing n f).sbuf = s.sbuf := rfl
@[simp] theorem State.modRing_recq (s : State) (n : Fin 64) (f : Ring → Ring) : (s.modRing n f).recq = s.recq := rfl
@[simp] theorem State.modRing_seqs (s : State) (n : Fin 64) (f : Ring → Ring) : (s.modRing n f).seqs = s.seqs := rfl
@[simp] theorem State.modRing_otp (s : State) (n : Fin 64) (f : Ring → Ring) : (s.modRing n f).otp = s.otp := rfl
@[simp] theorem State.modRing_calU (s : State) (n : Fin 64) (f : Ring → Ring) : (s.modRing n f).calU = s.calU := rfl
@[simp] theorem State.modRing_calS (s : State) (n : Fin 64) (f : Ring → Ring) : (s.modRing n f).calS = s.calS := rfl
@[simp] theorem State.modRing_layout (s : State) (n : Fin 64) (f : Ring → Ring) : (s.modRing n f).layout = s.layout := rfl
@[simp] theorem State.modRing_ap (s : State) (n : Fin 64) (f : Ring → Ring) : (s.modRing n f).ap = s.ap := rfl
@[simp] theorem State.modRing_rings (s : State) (n : Fin 64) (f : Ring → Ring) : (s.modRing n f).rings = s.rings.set n (f s.rings[n]) := rfl
@[simp] theorem State.modRing_lehr (s : State) (n : Fin 64) (f : Ring → Ring) : (s.modRing n f).lehr = s.lehr := rfl
@[simp] theorem State.modRing_el (s : State) (n : Fin 64) (f : Ring → Ring) : (s.modRing n f).el = s.el := rfl
@[simp] theorem State.modRing_ec (s : State) (n : Fin 64) (f : Ring → Ring) : (s.modRing n f).ec = s.ec := rfl
@[simp] theorem State.modRing_fn (s : State) (n : Fin 64) (f : Ring → Ring) : (s.modRing n f).fn = s.fn := rfl
@[simp] theorem State.modRing_hif (s : State) (n : Fin 64) (f : Ring → Ring) : (s.modRing n f).hif = s.hif := rfl
@[simp] theorem State.modRing_load (s : State) (n : Fin 64) (f : Ring → Ring) : (s.modRing n f).load = s.load := rfl
@[simp] theorem State.modRing_frz (s : State) (n : Fin 64) (f : Ring → Ring) : (s.modRing n f).frz = s.frz := rfl
@[simp] theorem State.modRing_psq (s : State) (n : Fin 64) (f : Ring → Ring) : (s.modRing n f).psq = s.psq := rfl
@[simp] theorem State.modRing_pw (s : State) (n : Fin 64) (f : Ring → Ring) : (s.modRing n f).pw = s.pw := rfl
@[simp] theorem State.modRing_hl (s : State) (n : Fin 64) (f : Ring → Ring) : (s.modRing n f).hl = s.hl := rfl
@[simp] theorem State.modRing_sram (s : State) (n : Fin 64) (f : Ring → Ring) : (s.modRing n f).sram = s.sram := rfl
@[simp] theorem State.modRing_mram (s : State) (n : Fin 64) (f : Ring → Ring) : (s.modRing n f).mram = s.mram := rfl
@[simp] theorem State.modRing_host (s : State) (n : Fin 64) (f : Ring → Ring) : (s.modRing n f).host = s.host := rfl
@[simp] theorem State.modRing_free (s : State) (n : Fin 64) (f : Ring → Ring) : (s.modRing n f).free = s.free := rfl
@[simp] theorem State.modRing_pending (s : State) (n : Fin 64) (f : Ring → Ring) : (s.modRing n f).pending = s.pending := rfl

/-! ### `State.setEcSrc` -/

@[simp] theorem State.setEcSrc_regs (s : State) (n : Nat) (x : EcSrc) : (s.setEcSrc n x).regs = s.regs := rfl
@[simp] theorem State.setEcSrc_staged (s : State) (n : Nat) (x : EcSrc) : (s.setEcSrc n x).staged = s.staged := rfl
@[simp] theorem State.setEcSrc_pcie (s : State) (n : Nat) (x : EcSrc) : (s.setEcSrc n x).pcie = s.pcie := rfl
@[simp] theorem State.setEcSrc_spi (s : State) (n : Nat) (x : EcSrc) : (s.setEcSrc n x).spi = s.spi := rfl
@[simp] theorem State.setEcSrc_spine (s : State) (n : Nat) (x : EcSrc) : (s.setEcSrc n x).spine = s.spine := rfl
@[simp] theorem State.setEcSrc_banks (s : State) (n : Nat) (x : EcSrc) : (s.setEcSrc n x).banks = s.banks := rfl
@[simp] theorem State.setEcSrc_ch (s : State) (n : Nat) (x : EcSrc) : (s.setEcSrc n x).ch = s.ch := rfl
@[simp] theorem State.setEcSrc_gaf (s : State) (n : Nat) (x : EcSrc) : (s.setEcSrc n x).gaf = s.gaf := rfl
@[simp] theorem State.setEcSrc_ory (s : State) (n : Nat) (x : EcSrc) : (s.setEcSrc n x).ory = s.ory := rfl
@[simp] theorem State.setEcSrc_conv (s : State) (n : Nat) (x : EcSrc) : (s.setEcSrc n x).conv = s.conv := rfl
@[simp] theorem State.setEcSrc_sbuf (s : State) (n : Nat) (x : EcSrc) : (s.setEcSrc n x).sbuf = s.sbuf := rfl
@[simp] theorem State.setEcSrc_recq (s : State) (n : Nat) (x : EcSrc) : (s.setEcSrc n x).recq = s.recq := rfl
@[simp] theorem State.setEcSrc_seqs (s : State) (n : Nat) (x : EcSrc) : (s.setEcSrc n x).seqs = s.seqs := rfl
@[simp] theorem State.setEcSrc_otp (s : State) (n : Nat) (x : EcSrc) : (s.setEcSrc n x).otp = s.otp := rfl
@[simp] theorem State.setEcSrc_calU (s : State) (n : Nat) (x : EcSrc) : (s.setEcSrc n x).calU = s.calU := rfl
@[simp] theorem State.setEcSrc_calS (s : State) (n : Nat) (x : EcSrc) : (s.setEcSrc n x).calS = s.calS := rfl
@[simp] theorem State.setEcSrc_layout (s : State) (n : Nat) (x : EcSrc) : (s.setEcSrc n x).layout = s.layout := rfl
@[simp] theorem State.setEcSrc_ap (s : State) (n : Nat) (x : EcSrc) : (s.setEcSrc n x).ap = s.ap := rfl
@[simp] theorem State.setEcSrc_rings (s : State) (n : Nat) (x : EcSrc) : (s.setEcSrc n x).rings = s.rings := rfl
@[simp] theorem State.setEcSrc_lehr (s : State) (n : Nat) (x : EcSrc) : (s.setEcSrc n x).lehr = s.lehr := rfl
@[simp] theorem State.setEcSrc_el (s : State) (n : Nat) (x : EcSrc) : (s.setEcSrc n x).el = s.el := rfl
@[simp] theorem State.setEcSrc_ec (s : State) (n : Nat) (x : EcSrc) : (s.setEcSrc n x).ec = { s.ec with srcs := tblSet (fun _ => EcSrc.reset) s.ec.srcs n x } := rfl
@[simp] theorem State.setEcSrc_fn (s : State) (n : Nat) (x : EcSrc) : (s.setEcSrc n x).fn = s.fn := rfl
@[simp] theorem State.setEcSrc_hif (s : State) (n : Nat) (x : EcSrc) : (s.setEcSrc n x).hif = s.hif := rfl
@[simp] theorem State.setEcSrc_load (s : State) (n : Nat) (x : EcSrc) : (s.setEcSrc n x).load = s.load := rfl
@[simp] theorem State.setEcSrc_frz (s : State) (n : Nat) (x : EcSrc) : (s.setEcSrc n x).frz = s.frz := rfl
@[simp] theorem State.setEcSrc_psq (s : State) (n : Nat) (x : EcSrc) : (s.setEcSrc n x).psq = s.psq := rfl
@[simp] theorem State.setEcSrc_pw (s : State) (n : Nat) (x : EcSrc) : (s.setEcSrc n x).pw = s.pw := rfl
@[simp] theorem State.setEcSrc_hl (s : State) (n : Nat) (x : EcSrc) : (s.setEcSrc n x).hl = s.hl := rfl
@[simp] theorem State.setEcSrc_sram (s : State) (n : Nat) (x : EcSrc) : (s.setEcSrc n x).sram = s.sram := rfl
@[simp] theorem State.setEcSrc_mram (s : State) (n : Nat) (x : EcSrc) : (s.setEcSrc n x).mram = s.mram := rfl
@[simp] theorem State.setEcSrc_host (s : State) (n : Nat) (x : EcSrc) : (s.setEcSrc n x).host = s.host := rfl
@[simp] theorem State.setEcSrc_free (s : State) (n : Nat) (x : EcSrc) : (s.setEcSrc n x).free = s.free := rfl
@[simp] theorem State.setEcSrc_pending (s : State) (n : Nat) (x : EcSrc) : (s.setEcSrc n x).pending = s.pending := rfl

/-! ### `State.modLehr` -/

@[simp] theorem State.modLehr_regs (s : State) (f : Lehr → Lehr) : (s.modLehr f).regs = s.regs := rfl
@[simp] theorem State.modLehr_staged (s : State) (f : Lehr → Lehr) : (s.modLehr f).staged = s.staged := rfl
@[simp] theorem State.modLehr_pcie (s : State) (f : Lehr → Lehr) : (s.modLehr f).pcie = s.pcie := rfl
@[simp] theorem State.modLehr_spi (s : State) (f : Lehr → Lehr) : (s.modLehr f).spi = s.spi := rfl
@[simp] theorem State.modLehr_spine (s : State) (f : Lehr → Lehr) : (s.modLehr f).spine = s.spine := rfl
@[simp] theorem State.modLehr_banks (s : State) (f : Lehr → Lehr) : (s.modLehr f).banks = s.banks := rfl
@[simp] theorem State.modLehr_ch (s : State) (f : Lehr → Lehr) : (s.modLehr f).ch = s.ch := rfl
@[simp] theorem State.modLehr_gaf (s : State) (f : Lehr → Lehr) : (s.modLehr f).gaf = s.gaf := rfl
@[simp] theorem State.modLehr_ory (s : State) (f : Lehr → Lehr) : (s.modLehr f).ory = s.ory := rfl
@[simp] theorem State.modLehr_conv (s : State) (f : Lehr → Lehr) : (s.modLehr f).conv = s.conv := rfl
@[simp] theorem State.modLehr_sbuf (s : State) (f : Lehr → Lehr) : (s.modLehr f).sbuf = s.sbuf := rfl
@[simp] theorem State.modLehr_recq (s : State) (f : Lehr → Lehr) : (s.modLehr f).recq = s.recq := rfl
@[simp] theorem State.modLehr_seqs (s : State) (f : Lehr → Lehr) : (s.modLehr f).seqs = s.seqs := rfl
@[simp] theorem State.modLehr_otp (s : State) (f : Lehr → Lehr) : (s.modLehr f).otp = s.otp := rfl
@[simp] theorem State.modLehr_calU (s : State) (f : Lehr → Lehr) : (s.modLehr f).calU = s.calU := rfl
@[simp] theorem State.modLehr_calS (s : State) (f : Lehr → Lehr) : (s.modLehr f).calS = s.calS := rfl
@[simp] theorem State.modLehr_layout (s : State) (f : Lehr → Lehr) : (s.modLehr f).layout = s.layout := rfl
@[simp] theorem State.modLehr_ap (s : State) (f : Lehr → Lehr) : (s.modLehr f).ap = s.ap := rfl
@[simp] theorem State.modLehr_rings (s : State) (f : Lehr → Lehr) : (s.modLehr f).rings = s.rings := rfl
@[simp] theorem State.modLehr_lehr (s : State) (f : Lehr → Lehr) : (s.modLehr f).lehr = f s.lehr := rfl
@[simp] theorem State.modLehr_el (s : State) (f : Lehr → Lehr) : (s.modLehr f).el = s.el := rfl
@[simp] theorem State.modLehr_ec (s : State) (f : Lehr → Lehr) : (s.modLehr f).ec = s.ec := rfl
@[simp] theorem State.modLehr_fn (s : State) (f : Lehr → Lehr) : (s.modLehr f).fn = s.fn := rfl
@[simp] theorem State.modLehr_hif (s : State) (f : Lehr → Lehr) : (s.modLehr f).hif = s.hif := rfl
@[simp] theorem State.modLehr_load (s : State) (f : Lehr → Lehr) : (s.modLehr f).load = s.load := rfl
@[simp] theorem State.modLehr_frz (s : State) (f : Lehr → Lehr) : (s.modLehr f).frz = s.frz := rfl
@[simp] theorem State.modLehr_psq (s : State) (f : Lehr → Lehr) : (s.modLehr f).psq = s.psq := rfl
@[simp] theorem State.modLehr_pw (s : State) (f : Lehr → Lehr) : (s.modLehr f).pw = s.pw := rfl
@[simp] theorem State.modLehr_hl (s : State) (f : Lehr → Lehr) : (s.modLehr f).hl = s.hl := rfl
@[simp] theorem State.modLehr_sram (s : State) (f : Lehr → Lehr) : (s.modLehr f).sram = s.sram := rfl
@[simp] theorem State.modLehr_mram (s : State) (f : Lehr → Lehr) : (s.modLehr f).mram = s.mram := rfl
@[simp] theorem State.modLehr_host (s : State) (f : Lehr → Lehr) : (s.modLehr f).host = s.host := rfl
@[simp] theorem State.modLehr_free (s : State) (f : Lehr → Lehr) : (s.modLehr f).free = s.free := rfl
@[simp] theorem State.modLehr_pending (s : State) (f : Lehr → Lehr) : (s.modLehr f).pending = s.pending := rfl

/-! ### `State.modEl` -/

@[simp] theorem State.modEl_regs (s : State) (f : Ewer → Ewer) : (s.modEl f).regs = s.regs := rfl
@[simp] theorem State.modEl_staged (s : State) (f : Ewer → Ewer) : (s.modEl f).staged = s.staged := rfl
@[simp] theorem State.modEl_pcie (s : State) (f : Ewer → Ewer) : (s.modEl f).pcie = s.pcie := rfl
@[simp] theorem State.modEl_spi (s : State) (f : Ewer → Ewer) : (s.modEl f).spi = s.spi := rfl
@[simp] theorem State.modEl_spine (s : State) (f : Ewer → Ewer) : (s.modEl f).spine = s.spine := rfl
@[simp] theorem State.modEl_banks (s : State) (f : Ewer → Ewer) : (s.modEl f).banks = s.banks := rfl
@[simp] theorem State.modEl_ch (s : State) (f : Ewer → Ewer) : (s.modEl f).ch = s.ch := rfl
@[simp] theorem State.modEl_gaf (s : State) (f : Ewer → Ewer) : (s.modEl f).gaf = s.gaf := rfl
@[simp] theorem State.modEl_ory (s : State) (f : Ewer → Ewer) : (s.modEl f).ory = s.ory := rfl
@[simp] theorem State.modEl_conv (s : State) (f : Ewer → Ewer) : (s.modEl f).conv = s.conv := rfl
@[simp] theorem State.modEl_sbuf (s : State) (f : Ewer → Ewer) : (s.modEl f).sbuf = s.sbuf := rfl
@[simp] theorem State.modEl_recq (s : State) (f : Ewer → Ewer) : (s.modEl f).recq = s.recq := rfl
@[simp] theorem State.modEl_seqs (s : State) (f : Ewer → Ewer) : (s.modEl f).seqs = s.seqs := rfl
@[simp] theorem State.modEl_otp (s : State) (f : Ewer → Ewer) : (s.modEl f).otp = s.otp := rfl
@[simp] theorem State.modEl_calU (s : State) (f : Ewer → Ewer) : (s.modEl f).calU = s.calU := rfl
@[simp] theorem State.modEl_calS (s : State) (f : Ewer → Ewer) : (s.modEl f).calS = s.calS := rfl
@[simp] theorem State.modEl_layout (s : State) (f : Ewer → Ewer) : (s.modEl f).layout = s.layout := rfl
@[simp] theorem State.modEl_ap (s : State) (f : Ewer → Ewer) : (s.modEl f).ap = s.ap := rfl
@[simp] theorem State.modEl_rings (s : State) (f : Ewer → Ewer) : (s.modEl f).rings = s.rings := rfl
@[simp] theorem State.modEl_lehr (s : State) (f : Ewer → Ewer) : (s.modEl f).lehr = s.lehr := rfl
@[simp] theorem State.modEl_el (s : State) (f : Ewer → Ewer) : (s.modEl f).el = f s.el := rfl
@[simp] theorem State.modEl_ec (s : State) (f : Ewer → Ewer) : (s.modEl f).ec = s.ec := rfl
@[simp] theorem State.modEl_fn (s : State) (f : Ewer → Ewer) : (s.modEl f).fn = s.fn := rfl
@[simp] theorem State.modEl_hif (s : State) (f : Ewer → Ewer) : (s.modEl f).hif = s.hif := rfl
@[simp] theorem State.modEl_load (s : State) (f : Ewer → Ewer) : (s.modEl f).load = s.load := rfl
@[simp] theorem State.modEl_frz (s : State) (f : Ewer → Ewer) : (s.modEl f).frz = s.frz := rfl
@[simp] theorem State.modEl_psq (s : State) (f : Ewer → Ewer) : (s.modEl f).psq = s.psq := rfl
@[simp] theorem State.modEl_pw (s : State) (f : Ewer → Ewer) : (s.modEl f).pw = s.pw := rfl
@[simp] theorem State.modEl_hl (s : State) (f : Ewer → Ewer) : (s.modEl f).hl = s.hl := rfl
@[simp] theorem State.modEl_sram (s : State) (f : Ewer → Ewer) : (s.modEl f).sram = s.sram := rfl
@[simp] theorem State.modEl_mram (s : State) (f : Ewer → Ewer) : (s.modEl f).mram = s.mram := rfl
@[simp] theorem State.modEl_host (s : State) (f : Ewer → Ewer) : (s.modEl f).host = s.host := rfl
@[simp] theorem State.modEl_free (s : State) (f : Ewer → Ewer) : (s.modEl f).free = s.free := rfl
@[simp] theorem State.modEl_pending (s : State) (f : Ewer → Ewer) : (s.modEl f).pending = s.pending := rfl

/-! ### `State.modHif` -/

@[simp] theorem State.modHif_regs (s : State) (f : HostIf → HostIf) : (s.modHif f).regs = s.regs := rfl
@[simp] theorem State.modHif_staged (s : State) (f : HostIf → HostIf) : (s.modHif f).staged = s.staged := rfl
@[simp] theorem State.modHif_pcie (s : State) (f : HostIf → HostIf) : (s.modHif f).pcie = s.pcie := rfl
@[simp] theorem State.modHif_spi (s : State) (f : HostIf → HostIf) : (s.modHif f).spi = s.spi := rfl
@[simp] theorem State.modHif_spine (s : State) (f : HostIf → HostIf) : (s.modHif f).spine = s.spine := rfl
@[simp] theorem State.modHif_banks (s : State) (f : HostIf → HostIf) : (s.modHif f).banks = s.banks := rfl
@[simp] theorem State.modHif_ch (s : State) (f : HostIf → HostIf) : (s.modHif f).ch = s.ch := rfl
@[simp] theorem State.modHif_gaf (s : State) (f : HostIf → HostIf) : (s.modHif f).gaf = s.gaf := rfl
@[simp] theorem State.modHif_ory (s : State) (f : HostIf → HostIf) : (s.modHif f).ory = s.ory := rfl
@[simp] theorem State.modHif_conv (s : State) (f : HostIf → HostIf) : (s.modHif f).conv = s.conv := rfl
@[simp] theorem State.modHif_sbuf (s : State) (f : HostIf → HostIf) : (s.modHif f).sbuf = s.sbuf := rfl
@[simp] theorem State.modHif_recq (s : State) (f : HostIf → HostIf) : (s.modHif f).recq = s.recq := rfl
@[simp] theorem State.modHif_seqs (s : State) (f : HostIf → HostIf) : (s.modHif f).seqs = s.seqs := rfl
@[simp] theorem State.modHif_otp (s : State) (f : HostIf → HostIf) : (s.modHif f).otp = s.otp := rfl
@[simp] theorem State.modHif_calU (s : State) (f : HostIf → HostIf) : (s.modHif f).calU = s.calU := rfl
@[simp] theorem State.modHif_calS (s : State) (f : HostIf → HostIf) : (s.modHif f).calS = s.calS := rfl
@[simp] theorem State.modHif_layout (s : State) (f : HostIf → HostIf) : (s.modHif f).layout = s.layout := rfl
@[simp] theorem State.modHif_ap (s : State) (f : HostIf → HostIf) : (s.modHif f).ap = s.ap := rfl
@[simp] theorem State.modHif_rings (s : State) (f : HostIf → HostIf) : (s.modHif f).rings = s.rings := rfl
@[simp] theorem State.modHif_lehr (s : State) (f : HostIf → HostIf) : (s.modHif f).lehr = s.lehr := rfl
@[simp] theorem State.modHif_el (s : State) (f : HostIf → HostIf) : (s.modHif f).el = s.el := rfl
@[simp] theorem State.modHif_ec (s : State) (f : HostIf → HostIf) : (s.modHif f).ec = s.ec := rfl
@[simp] theorem State.modHif_fn (s : State) (f : HostIf → HostIf) : (s.modHif f).fn = s.fn := rfl
@[simp] theorem State.modHif_hif (s : State) (f : HostIf → HostIf) : (s.modHif f).hif = f s.hif := rfl
@[simp] theorem State.modHif_load (s : State) (f : HostIf → HostIf) : (s.modHif f).load = s.load := rfl
@[simp] theorem State.modHif_frz (s : State) (f : HostIf → HostIf) : (s.modHif f).frz = s.frz := rfl
@[simp] theorem State.modHif_psq (s : State) (f : HostIf → HostIf) : (s.modHif f).psq = s.psq := rfl
@[simp] theorem State.modHif_pw (s : State) (f : HostIf → HostIf) : (s.modHif f).pw = s.pw := rfl
@[simp] theorem State.modHif_hl (s : State) (f : HostIf → HostIf) : (s.modHif f).hl = s.hl := rfl
@[simp] theorem State.modHif_sram (s : State) (f : HostIf → HostIf) : (s.modHif f).sram = s.sram := rfl
@[simp] theorem State.modHif_mram (s : State) (f : HostIf → HostIf) : (s.modHif f).mram = s.mram := rfl
@[simp] theorem State.modHif_host (s : State) (f : HostIf → HostIf) : (s.modHif f).host = s.host := rfl
@[simp] theorem State.modHif_free (s : State) (f : HostIf → HostIf) : (s.modHif f).free = s.free := rfl
@[simp] theorem State.modHif_pending (s : State) (f : HostIf → HostIf) : (s.modHif f).pending = s.pending := rfl

/-! ### `State.modFn` -/

@[simp] theorem State.modFn_regs (s : State) (f : PcieFn → PcieFn) : (s.modFn f).regs = s.regs := rfl
@[simp] theorem State.modFn_staged (s : State) (f : PcieFn → PcieFn) : (s.modFn f).staged = s.staged := rfl
@[simp] theorem State.modFn_pcie (s : State) (f : PcieFn → PcieFn) : (s.modFn f).pcie = s.pcie := rfl
@[simp] theorem State.modFn_spi (s : State) (f : PcieFn → PcieFn) : (s.modFn f).spi = s.spi := rfl
@[simp] theorem State.modFn_spine (s : State) (f : PcieFn → PcieFn) : (s.modFn f).spine = s.spine := rfl
@[simp] theorem State.modFn_banks (s : State) (f : PcieFn → PcieFn) : (s.modFn f).banks = s.banks := rfl
@[simp] theorem State.modFn_ch (s : State) (f : PcieFn → PcieFn) : (s.modFn f).ch = s.ch := rfl
@[simp] theorem State.modFn_gaf (s : State) (f : PcieFn → PcieFn) : (s.modFn f).gaf = s.gaf := rfl
@[simp] theorem State.modFn_ory (s : State) (f : PcieFn → PcieFn) : (s.modFn f).ory = s.ory := rfl
@[simp] theorem State.modFn_conv (s : State) (f : PcieFn → PcieFn) : (s.modFn f).conv = s.conv := rfl
@[simp] theorem State.modFn_sbuf (s : State) (f : PcieFn → PcieFn) : (s.modFn f).sbuf = s.sbuf := rfl
@[simp] theorem State.modFn_recq (s : State) (f : PcieFn → PcieFn) : (s.modFn f).recq = s.recq := rfl
@[simp] theorem State.modFn_seqs (s : State) (f : PcieFn → PcieFn) : (s.modFn f).seqs = s.seqs := rfl
@[simp] theorem State.modFn_otp (s : State) (f : PcieFn → PcieFn) : (s.modFn f).otp = s.otp := rfl
@[simp] theorem State.modFn_calU (s : State) (f : PcieFn → PcieFn) : (s.modFn f).calU = s.calU := rfl
@[simp] theorem State.modFn_calS (s : State) (f : PcieFn → PcieFn) : (s.modFn f).calS = s.calS := rfl
@[simp] theorem State.modFn_layout (s : State) (f : PcieFn → PcieFn) : (s.modFn f).layout = s.layout := rfl
@[simp] theorem State.modFn_ap (s : State) (f : PcieFn → PcieFn) : (s.modFn f).ap = s.ap := rfl
@[simp] theorem State.modFn_rings (s : State) (f : PcieFn → PcieFn) : (s.modFn f).rings = s.rings := rfl
@[simp] theorem State.modFn_lehr (s : State) (f : PcieFn → PcieFn) : (s.modFn f).lehr = s.lehr := rfl
@[simp] theorem State.modFn_el (s : State) (f : PcieFn → PcieFn) : (s.modFn f).el = s.el := rfl
@[simp] theorem State.modFn_ec (s : State) (f : PcieFn → PcieFn) : (s.modFn f).ec = s.ec := rfl
@[simp] theorem State.modFn_fn (s : State) (f : PcieFn → PcieFn) : (s.modFn f).fn = f s.fn := rfl
@[simp] theorem State.modFn_hif (s : State) (f : PcieFn → PcieFn) : (s.modFn f).hif = s.hif := rfl
@[simp] theorem State.modFn_load (s : State) (f : PcieFn → PcieFn) : (s.modFn f).load = s.load := rfl
@[simp] theorem State.modFn_frz (s : State) (f : PcieFn → PcieFn) : (s.modFn f).frz = s.frz := rfl
@[simp] theorem State.modFn_psq (s : State) (f : PcieFn → PcieFn) : (s.modFn f).psq = s.psq := rfl
@[simp] theorem State.modFn_pw (s : State) (f : PcieFn → PcieFn) : (s.modFn f).pw = s.pw := rfl
@[simp] theorem State.modFn_hl (s : State) (f : PcieFn → PcieFn) : (s.modFn f).hl = s.hl := rfl
@[simp] theorem State.modFn_sram (s : State) (f : PcieFn → PcieFn) : (s.modFn f).sram = s.sram := rfl
@[simp] theorem State.modFn_mram (s : State) (f : PcieFn → PcieFn) : (s.modFn f).mram = s.mram := rfl
@[simp] theorem State.modFn_host (s : State) (f : PcieFn → PcieFn) : (s.modFn f).host = s.host := rfl
@[simp] theorem State.modFn_free (s : State) (f : PcieFn → PcieFn) : (s.modFn f).free = s.free := rfl
@[simp] theorem State.modFn_pending (s : State) (f : PcieFn → PcieFn) : (s.modFn f).pending = s.pending := rfl

/-! ### `State.modLoad` -/

@[simp] theorem State.modLoad_regs (s : State) (f : Load → Load) : (s.modLoad f).regs = s.regs := rfl
@[simp] theorem State.modLoad_staged (s : State) (f : Load → Load) : (s.modLoad f).staged = s.staged := rfl
@[simp] theorem State.modLoad_pcie (s : State) (f : Load → Load) : (s.modLoad f).pcie = s.pcie := rfl
@[simp] theorem State.modLoad_spi (s : State) (f : Load → Load) : (s.modLoad f).spi = s.spi := rfl
@[simp] theorem State.modLoad_spine (s : State) (f : Load → Load) : (s.modLoad f).spine = s.spine := rfl
@[simp] theorem State.modLoad_banks (s : State) (f : Load → Load) : (s.modLoad f).banks = s.banks := rfl
@[simp] theorem State.modLoad_ch (s : State) (f : Load → Load) : (s.modLoad f).ch = s.ch := rfl
@[simp] theorem State.modLoad_gaf (s : State) (f : Load → Load) : (s.modLoad f).gaf = s.gaf := rfl
@[simp] theorem State.modLoad_ory (s : State) (f : Load → Load) : (s.modLoad f).ory = s.ory := rfl
@[simp] theorem State.modLoad_conv (s : State) (f : Load → Load) : (s.modLoad f).conv = s.conv := rfl
@[simp] theorem State.modLoad_sbuf (s : State) (f : Load → Load) : (s.modLoad f).sbuf = s.sbuf := rfl
@[simp] theorem State.modLoad_recq (s : State) (f : Load → Load) : (s.modLoad f).recq = s.recq := rfl
@[simp] theorem State.modLoad_seqs (s : State) (f : Load → Load) : (s.modLoad f).seqs = s.seqs := rfl
@[simp] theorem State.modLoad_otp (s : State) (f : Load → Load) : (s.modLoad f).otp = s.otp := rfl
@[simp] theorem State.modLoad_calU (s : State) (f : Load → Load) : (s.modLoad f).calU = s.calU := rfl
@[simp] theorem State.modLoad_calS (s : State) (f : Load → Load) : (s.modLoad f).calS = s.calS := rfl
@[simp] theorem State.modLoad_layout (s : State) (f : Load → Load) : (s.modLoad f).layout = s.layout := rfl
@[simp] theorem State.modLoad_ap (s : State) (f : Load → Load) : (s.modLoad f).ap = s.ap := rfl
@[simp] theorem State.modLoad_rings (s : State) (f : Load → Load) : (s.modLoad f).rings = s.rings := rfl
@[simp] theorem State.modLoad_lehr (s : State) (f : Load → Load) : (s.modLoad f).lehr = s.lehr := rfl
@[simp] theorem State.modLoad_el (s : State) (f : Load → Load) : (s.modLoad f).el = s.el := rfl
@[simp] theorem State.modLoad_ec (s : State) (f : Load → Load) : (s.modLoad f).ec = s.ec := rfl
@[simp] theorem State.modLoad_fn (s : State) (f : Load → Load) : (s.modLoad f).fn = s.fn := rfl
@[simp] theorem State.modLoad_hif (s : State) (f : Load → Load) : (s.modLoad f).hif = s.hif := rfl
@[simp] theorem State.modLoad_load (s : State) (f : Load → Load) : (s.modLoad f).load = f s.load := rfl
@[simp] theorem State.modLoad_frz (s : State) (f : Load → Load) : (s.modLoad f).frz = s.frz := rfl
@[simp] theorem State.modLoad_psq (s : State) (f : Load → Load) : (s.modLoad f).psq = s.psq := rfl
@[simp] theorem State.modLoad_pw (s : State) (f : Load → Load) : (s.modLoad f).pw = s.pw := rfl
@[simp] theorem State.modLoad_hl (s : State) (f : Load → Load) : (s.modLoad f).hl = s.hl := rfl
@[simp] theorem State.modLoad_sram (s : State) (f : Load → Load) : (s.modLoad f).sram = s.sram := rfl
@[simp] theorem State.modLoad_mram (s : State) (f : Load → Load) : (s.modLoad f).mram = s.mram := rfl
@[simp] theorem State.modLoad_host (s : State) (f : Load → Load) : (s.modLoad f).host = s.host := rfl
@[simp] theorem State.modLoad_free (s : State) (f : Load → Load) : (s.modLoad f).free = s.free := rfl
@[simp] theorem State.modLoad_pending (s : State) (f : Load → Load) : (s.modLoad f).pending = s.pending := rfl

/-! ### `State.modPath` -/

@[simp] theorem State.modPath_regs (s : State) (p : Path) (f : PathState → PathState) : (s.modPath p f).regs = s.regs := by cases p <;> rfl
@[simp] theorem State.modPath_staged (s : State) (p : Path) (f : PathState → PathState) : (s.modPath p f).staged = s.staged := by cases p <;> rfl
@[simp] theorem State.modPath_pcie_same (s : State) (f : PathState → PathState) : (s.modPath .pcie f).pcie = f s.pcie := rfl
@[simp] theorem State.modPath_pcie_other (s : State) (f : PathState → PathState) : (s.modPath .spi f).pcie = s.pcie := rfl
@[simp] theorem State.modPath_spi_same (s : State) (f : PathState → PathState) : (s.modPath .spi f).spi = f s.spi := rfl
@[simp] theorem State.modPath_spi_other (s : State) (f : PathState → PathState) : (s.modPath .pcie f).spi = s.spi := rfl
@[simp] theorem State.modPath_spine (s : State) (p : Path) (f : PathState → PathState) : (s.modPath p f).spine = s.spine := by cases p <;> rfl
@[simp] theorem State.modPath_banks (s : State) (p : Path) (f : PathState → PathState) : (s.modPath p f).banks = s.banks := by cases p <;> rfl
@[simp] theorem State.modPath_ch (s : State) (p : Path) (f : PathState → PathState) : (s.modPath p f).ch = s.ch := by cases p <;> rfl
@[simp] theorem State.modPath_gaf (s : State) (p : Path) (f : PathState → PathState) : (s.modPath p f).gaf = s.gaf := by cases p <;> rfl
@[simp] theorem State.modPath_ory (s : State) (p : Path) (f : PathState → PathState) : (s.modPath p f).ory = s.ory := by cases p <;> rfl
@[simp] theorem State.modPath_conv (s : State) (p : Path) (f : PathState → PathState) : (s.modPath p f).conv = s.conv := by cases p <;> rfl
@[simp] theorem State.modPath_sbuf (s : State) (p : Path) (f : PathState → PathState) : (s.modPath p f).sbuf = s.sbuf := by cases p <;> rfl
@[simp] theorem State.modPath_recq (s : State) (p : Path) (f : PathState → PathState) : (s.modPath p f).recq = s.recq := by cases p <;> rfl
@[simp] theorem State.modPath_seqs (s : State) (p : Path) (f : PathState → PathState) : (s.modPath p f).seqs = s.seqs := by cases p <;> rfl
@[simp] theorem State.modPath_otp (s : State) (p : Path) (f : PathState → PathState) : (s.modPath p f).otp = s.otp := by cases p <;> rfl
@[simp] theorem State.modPath_calU (s : State) (p : Path) (f : PathState → PathState) : (s.modPath p f).calU = s.calU := by cases p <;> rfl
@[simp] theorem State.modPath_calS (s : State) (p : Path) (f : PathState → PathState) : (s.modPath p f).calS = s.calS := by cases p <;> rfl
@[simp] theorem State.modPath_layout (s : State) (p : Path) (f : PathState → PathState) : (s.modPath p f).layout = s.layout := by cases p <;> rfl
@[simp] theorem State.modPath_ap (s : State) (p : Path) (f : PathState → PathState) : (s.modPath p f).ap = s.ap := by cases p <;> rfl
@[simp] theorem State.modPath_rings (s : State) (p : Path) (f : PathState → PathState) : (s.modPath p f).rings = s.rings := by cases p <;> rfl
@[simp] theorem State.modPath_lehr (s : State) (p : Path) (f : PathState → PathState) : (s.modPath p f).lehr = s.lehr := by cases p <;> rfl
@[simp] theorem State.modPath_el (s : State) (p : Path) (f : PathState → PathState) : (s.modPath p f).el = s.el := by cases p <;> rfl
@[simp] theorem State.modPath_ec (s : State) (p : Path) (f : PathState → PathState) : (s.modPath p f).ec = s.ec := by cases p <;> rfl
@[simp] theorem State.modPath_fn (s : State) (p : Path) (f : PathState → PathState) : (s.modPath p f).fn = s.fn := by cases p <;> rfl
@[simp] theorem State.modPath_hif (s : State) (p : Path) (f : PathState → PathState) : (s.modPath p f).hif = s.hif := by cases p <;> rfl
@[simp] theorem State.modPath_load (s : State) (p : Path) (f : PathState → PathState) : (s.modPath p f).load = s.load := by cases p <;> rfl
@[simp] theorem State.modPath_frz (s : State) (p : Path) (f : PathState → PathState) : (s.modPath p f).frz = s.frz := by cases p <;> rfl
@[simp] theorem State.modPath_psq (s : State) (p : Path) (f : PathState → PathState) : (s.modPath p f).psq = s.psq := by cases p <;> rfl
@[simp] theorem State.modPath_pw (s : State) (p : Path) (f : PathState → PathState) : (s.modPath p f).pw = s.pw := by cases p <;> rfl
@[simp] theorem State.modPath_hl (s : State) (p : Path) (f : PathState → PathState) : (s.modPath p f).hl = s.hl := by cases p <;> rfl
@[simp] theorem State.modPath_sram (s : State) (p : Path) (f : PathState → PathState) : (s.modPath p f).sram = s.sram := by cases p <;> rfl
@[simp] theorem State.modPath_mram (s : State) (p : Path) (f : PathState → PathState) : (s.modPath p f).mram = s.mram := by cases p <;> rfl
@[simp] theorem State.modPath_host (s : State) (p : Path) (f : PathState → PathState) : (s.modPath p f).host = s.host := by cases p <;> rfl
@[simp] theorem State.modPath_free (s : State) (p : Path) (f : PathState → PathState) : (s.modPath p f).free = s.free := by cases p <;> rfl
@[simp] theorem State.modPath_pending (s : State) (p : Path) (f : PathState → PathState) : (s.modPath p f).pending = s.pending := by cases p <;> rfl

end Sys2Proof.Machine
end

