-- ==== Sys2Proof/Tests/Slice0.lean ====
section
/-!
SUPPORT. Tests. For each check of the well-formedness, a term that it refuses. For each statement with hypotheses, a state and operands that
meet them, for each of its clauses (`test_witness_…`). And small tests of single steps, whose expected results are the spec's worked
examples and tables, or are worked out by hand from its rules.
-/
set_option Elab.async false

open Sys2Proof Sys2Proof.Machine

namespace Sys2Proof.Tests

/-! ### States for tests -/

/-- A state with fields given values. -/
def puts (s : State) (l : List (Fld × Nat)) : State := l.foldl (fun a x => a.rput x.1 x.2) s

/-- A device that runs: no load, RUN, no channel held for boot, lock, 3.3 V everywhere, the spine at 1,000 ns. -/
def live : State :=
  { puts State.reset [(F.CFG_STAT_LOADING, 0), (F.CFG_STAT_HELD, 0), (F.PW_STAT_STATE, 1), (F.SPN_STAT_LOCKED, 1)] with
    ch := State.reset.ch.map (fun x => { x with holdBoot := false })
    spine := { Spine.reset with counting := true, acc := BitVec.ofNat 104 (1000 * 2 ^ 40) } }

def frozenNow : State := puts live [(F.FRZ_STAT_REQ_CMD, 1)]
def loadingNow : State := puts live [(F.CFG_STAT_LOADING, 1)]
def owned : State := puts live [(F.SPN_CTRL_MODE, 1), (F.EL_CTRL_EN, 1), (F.EL_STAT_HASPARENT, 1)]

/-! ### Well-formedness -/

def gaf8 : List GafMeas := List.replicate 8 ⟨1200, 400⟩

theorem test_illformed_bank_twice : (Instr.recalibration [⟨0, 0, 0, []⟩, ⟨0, 0, 0, []⟩] gaf8 0).wf = false := by decide
theorem test_illformed_gaffers_missing : (Instr.recalibration [] [] 0).wf = false := by decide
theorem test_illformed_monitors_missing : (Instr.healthSample 0 0 [] [] gaf8).wf = false := by decide
theorem test_illformed_no_width : (Instr.inputEdge 0 true 0 0).wf = false := by decide
theorem test_illformed_unaligned : (Instr.registerWrite .pcie 2 0 true).wf = false := by decide
theorem test_illformed_long_frame : (Instr.spiWrite 0 (List.replicate 257 0) .whole).wf = false := by decide +kernel
theorem test_illformed_empty_mailbox : (Instr.mailboxFrame 0 ⟨none, 1, 0, 2, false⟩ 0 []).wf = false := by decide
theorem test_illformed_empty_leave : (Instr.leaveReceive 0 ⟨none, 1, 0, 2, false⟩ []).wf = false := by decide
theorem test_illformed_slot : (Instr.loadPass (List.replicate 0x1000001 0) []).wf = false := by simp [Instr.wf, slotFits, -List.reduceReplicate]
theorem test_illformed_third_slot : (Instr.slotSelection [] [] (List.replicate 0x1000001 0)).wf = false := by simp [Instr.wf, slotFits, -List.reduceReplicate]
theorem test_wellformed_recalibration : (Instr.recalibration [⟨0, 0, 0, []⟩, ⟨1, 0, 0, []⟩] gaf8 0).wf = true := by decide

/-! ### The queue, the gates, the spine -/

theorem test_witness_queue : ({ live with pending := [.refLost, .pllLock] } : State).pending = .refLost :: [.pllLock] ∧
    live.pending = [] := ⟨rfl, by decide +kernel⟩

theorem test_witness_canonical : live.canonical = true ∧ step live = .next live.pllTick := ⟨by decide +kernel, rfl⟩

theorem test_witness_gates :
    (hostOffset (.spineNop .pcie false 0) = some R.SPN_CMD ∧ frozenNow.powered = true ∧ frozenNow.frozen = true ∧
      freezePage R.SPN_CMD = false) ∧
    (hostOffset (.spnRateWrite .pcie 0) = some R.SPN_RATE ∧ loadingNow.takesEvents = true ∧ loadingNow.loading = true) ∧
    (isEvent .recordWrite = true ∧ frozenNow.takesEvents = false) ∧ (puts live [(F.PW_STAT_STATE, 5)]).powered = false := by decide +kernel

/-- A command that waits for apply group 3. -/
def waiting : State := { live with spine := { live.spine with pend := some (opsOf live .step 3) } }

theorem test_witness_phase_commands :
    (live.takesWrites = true ∧ live.servoOwns = false ∧ live.spine.pend = none) ∧
    (owned.takesWrites = true ∧ owned.servoOwns = true) ∧ (waiting.takesWrites = true ∧ waiting.spine.pend.isSome = true) := by
  decide +kernel

/-- Operands: ns low and high words, and sub. -/
def opd (lo hi : Word) (sub : Nat) : State := puts ((live.setReg R.SPN_OPD_LO lo).setReg R.SPN_OPD_HI hi) [(F.SPN_OPD_SUB_SUB, sub)]

/-- The amounts of STEP at the ends of its ranges: 0, one sub back, the last amount that is a hold, and the first that is refused; and of SET
to the present time. -/
theorem test_witness_step :
    (spnFree (opd 0 0 0) ∧ stepAmount (opd 0 0 0) false = 0) ∧
    (spnFree (opd 0xFFFFFFFF 0xFFFFFFFF 63) ∧ stepAmount (opd 0xFFFFFFFF 0xFFFFFFFF 63) false = -1 ∧ heldUnits (opd 0xFFFFFFFF 0xFFFFFFFF 63) = 0) ∧
    (spnFree (opd 0x80000000 0xFFFFFFFF 1) ∧ stepAmount (opd 0x80000000 0xFFFFFFFF 1) false = -(2 ^ 37 - 1)) ∧
    (spnFree (opd 0x80000000 0xFFFFFFFF 0) ∧ stepAmount (opd 0x80000000 0xFFFFFFFF 0) false = -2 ^ 37) ∧
    (spnFree (opd 1000 0 0) ∧ stepAmount (opd 1000 0 0) true = 0) := by
  unfold spnFree; decide +kernel

/-- Compare A of channel 5 waits for a ball time. -/
def armAt (s : State) (tb : Int) : State := s.modCh 5 (fun x => { x with cmpA := { Cmp.reset with armed := true, tb := tb, act := 2 } })

/-- After a STEP of 1,000 ns the launch position of channel 5 lies at 2,004 ns: a compare at it waits, and one a sub before it is late. -/
theorem test_witness_step_rejudges :
    ∀ x ∈ [((128256 : Int), false), (128255, true)], let s := armAt (opd 1000 0 0) x.1
      spnFree s ∧ 0 ≤ stepAmount s false ∧ (∀ i < 8, s.apValid i = false) ∧ aloneArmed s 5 false ∧
      onNext (exec (.spineStep .pcie false 0) s) (fun t => decide (x.1 < t.tLaunch 5) = x.2) := by
  have h : ∀ x ∈ [((128256 : Int), false), (128255, true)], let s := armAt (opd 1000 0 0) x.1
      spnFree s ∧ 0 ≤ stepAmount s false ∧ (∀ i < 8, s.apValid i = false) ∧ aloneArmed s 5 false := by
    unfold spnFree aloneArmed; decide +kernel
  intro x hx
  obtain ⟨h1, h2, h3, h4⟩ := h x hx
  refine ⟨h1, h2, h3, h4, ?_⟩
  simp only [List.mem_cons, List.not_mem_nil, or_false] at hx
  obtain rfl | rfl := hx <;> exact ⟨_, rfl, by decide +kernel⟩

theorem test_witness_slew_and_rate :
    spnFree live ∧ (live.takesWrites = true ∧ live.servoOwns = false) ∧ (owned.takesWrites = true ∧ owned.servoOwns = true) := by
  unfold spnFree; decide +kernel

/-- The PLL unlocked; and no reference in a frozen device. -/
theorem test_witness_lock :
    (live.powered = true ∧ live.spine.counting = true ∧ live.ron F.SPN_STAT_LOCKED = true ∧ live.spine.refGone = false) ∧
    (State.reset.powered = true ∧ State.reset.spine.counting = false) ∧
    ((puts live [(F.SPN_STAT_LOCKED, 0)]).powered = true ∧ (puts live [(F.SPN_STAT_LOCKED, 0)]).spine.counting = true ∧
      (puts live [(F.SPN_STAT_LOCKED, 0)]).ron F.SPN_STAT_LOCKED = false) ∧
    ((frozenNow.modSpine (fun x => { x with refGone := true })).powered = true ∧
      (frozenNow.modSpine (fun x => { x with refGone := true })).spine.refGone = true) := by decide +kernel

def holding (n f : Nat) : State := { live with spine := { live.spine with hold := some ⟨n, f⟩ } }
def slewing (left : Int) (d : Option Nat) : State := { live with spine := { live.spine with slew := some ⟨1000, left, 10000, d⟩ } }

theorem test_witness_ticks :
    (live.takesEvents = true ∧ live.spine.counting = true ∧ live.spine.slew = none ∧ live.spine.hold = none ∧ live.spine.pend = none) ∧
    (waiting.spine.pend ≠ none ∧ waiting.hif.slow = [] ∧ waiting.ap.reqs = [] ∧ ∀ i < 8, waiting.apValid i = false) ∧
    (∀ h ∈ [(1, 0), (0, 2 ^ 39), (0, 0)], (holding h.1 h.2).takesEvents = true ∧ (holding h.1 h.2).spine.counting = true ∧
      (holding h.1 h.2).spine.slew = none ∧ (holding h.1 h.2).spine.hold = some ⟨h.1, h.2⟩) ∧
    ((slewing 1000 none).takesEvents = true ∧ (slewing 1000 none).spine.hold = none ∧
      (slewing 1000 none).spine.slew = some ⟨1000, 1000, 10000, none⟩) ∧
    ((slewing 0 (some 64000)).takesEvents = true ∧ (slewing 0 (some 64000)).spine.slew = some ⟨1000, 0, 10000, some 64000⟩) := by
  decide +kernel

/-- PPS_OUT of 1,000 ns, whose boundary is the present tick. -/
def pps : State := (puts live [(F.SPN_CTRL_PPSO_EN, 1), (F.SPN_CTRL_PPSI_EN, 1)]).setReg R.SPN_PPSO_PER 1000

theorem test_witness_pps :
    (pps.takesEvents = true ∧ pps.ron F.SPN_CTRL_PPSO_EN = true ∧ pps.spine.counting = true ∧ pps.spine.hold = none ∧
      pps.ppsQualified = true ∧ 0 < (pps.reg R.SPN_PPSO_PER).toNat ∧ pps.now ≤ 64000 ∧
      64000 < pps.now + (pps.reg R.SPN_PPSO_PER).toNat * 64 ∧ 64000 < pps.tAhead 1 ∧ pps.spine.ppsLast ≠ some 64000 ∧
      (((64000 : Nat) : Int) - ((pps.reg R.SPN_PPSO_OFS).toNat * 64 + pps.rget F.SPN_CTRL_PPSO_SUB)) % ((pps.reg R.SPN_PPSO_PER).toNat * 64) = 0) ∧
    (let s : State := (puts pps [(F.SPN_CTRL_PPSO_SUB, 63)]).modSpine (fun x => { x with hold := some ⟨0, 0⟩ })
     s.takesEvents = true ∧ s.ron F.SPN_CTRL_PPSO_EN = true ∧ s.spine.counting = true ∧ s.spine.hold = some ⟨0, 0⟩ ∧ s.now < 64063 ∧
      s.ppsQualified = true ∧ 0 < (s.reg R.SPN_PPSO_PER).toNat ∧ 64063 < s.now + (s.reg R.SPN_PPSO_PER).toNat * 64 ∧ 64063 < s.tAhead 1 ∧
      s.spine.ppsLast ≠ some 64063 ∧
      (((64063 : Nat) : Int) - ((s.reg R.SPN_PPSO_OFS).toNat * 64 + s.rget F.SPN_CTRL_PPSO_SUB)) % ((s.reg R.SPN_PPSO_PER).toNat * 64) = 0) ∧
    (∀ e ∈ [64063, 64064], ({ live with spine := { live.spine with ppsOut := some e } } : State).takesEvents = true) ∧ live.tAhead 1 = 64064 ∧
    (let s := pps.modSpine (fun x => { x with tick := 1000, ppsEdge := some 63 })
     s.takesEvents = true ∧ s.ron F.SPN_CTRL_PPSI_EN = true ∧ s.ron F.SPN_CTRL_PPSI_EDGE = false ∧ 63 + 64000 ≤ s.spine.tick * 64 + 63) := by
  decide +kernel

/-! ### Banks, inputs and compares -/

def filt (n : Nat) : State := puts live [(F.CHc_PIN_FILT 5, n)]

/-- A counter that counts rising edges, or every edge. -/
theorem test_witness_input_counts :
    ∀ src ∈ [1, 3], let s := puts (filt 0) [(F.CHc_CNT_CFG_RUN 5, 1), (F.CHc_CNT_CFG_SRC 5, src)]
      s.cascHi 5 = false ∧ s.ron (F.CHc_CNT_CFG_RUN 5) = true ∧ s.ch[(5 : Fin 96)].cntTick ≠ some s.spine.tick ∧
      s.rget (F.CHc_CNT_CFG_SRC 5) = src ∧ s.ch[(5 : Fin 96)].own = [] := by decide +kernel

/-- FILT = 10: accepted at 10 ns, rejected below 9 ns. -/
theorem test_witness_input_edges :
    ((filt 0).takesEvents = true ∧ (filt 0).banks[bankOf 5].supply ≠ 0 ∧ (filt 0).ch[(5 : Fin 96)].inLvl = false ∧
      (filt 0).ron (F.CHc_PIN_IN_INV 5) = false ∧ (filt 0).rget (F.CHc_PIN_FILT 5) = 0) ∧
    ((filt 10).takesEvents = true ∧ (filt 10).banks[bankOf 5].supply ≠ 0 ∧ (filt 10).ron (F.CHc_PIN_IN_INV 5) = false ∧
      (filt 10).ch[(5 : Fin 96)].inLvl = false ∧ 64 * (filt 10).rget (F.CHc_PIN_FILT 5) = 640 ∧
      64 * ((filt 10).rget (F.CHc_PIN_FILT 5) - 1) = 576) ∧
    ((live.modBank 0 (fun x => { x with supply := 0 })).takesEvents = true ∧
      (live.modBank 0 (fun x => { x with supply := 0 })).banks[bankOf 5].supply = 0) := by decide +kernel

def tgt (ns : Word) : State := live.setHeld .pcie (R.CHc_CMPu_TGT_LO 5 0) ns
def heldCh (s : State) : State := puts s [(F.CHc_CTRL_HOLD 5, 1)]
def gafferOwned : State := puts live [(F.CHc_CTRL_OWN 5, 1)]

/-- The first target that still waits, the last one that is behind, and both on a held channel. -/
theorem test_witness_compare_arm :
    (∀ s ∈ [tgt (1000 + word (live.launchK 5)), heldCh (tgt (999 + word (live.launchK 5)))], s.takesWrites = true ∧ s.rget (F.CHc_CTRL_OWN 5) = 0 ∧
      (s.launched 5 false = false ∨ s.held 5 = true) ∧ (s.dueD 5 (armTarget s .pcie 5 false 0) ≤ 0 ∨ s.held 5 = true)) ∧
    (let s := tgt (999 + word (live.launchK 5))
     s.takesWrites = true ∧ s.rget (F.CHc_CTRL_OWN 5) = 0 ∧ s.launched 5 false = false ∧ s.held 5 = false ∧
      0 < s.dueD 5 (armTarget s .pcie 5 false 0)) ∧
    (tgt (1000 + word (live.launchK 5))).dueD 5 (armTarget (tgt (1000 + word (live.launchK 5))) .pcie 5 false 0) = 0 ∧
    (gafferOwned.takesWrites = true ∧ gafferOwned.rget (F.CHc_CTRL_OWN 5) ≠ 0) := by decide +kernel

def armedAt (tb : Int) : State := armAt live tb

/-- A target ahead meets an old one that is launched, on channels that are held and that are not. -/
theorem test_witness_compare_rewrite :
    let s := armAt (tgt (1000 + word (live.launchK 5))) 64000
    (s.takesWrites = true ∧ s.rget (F.CHc_CTRL_OWN 5) = 0 ∧ s.launched 5 false = true ∧ s.held 5 = false ∧
      s.dueD 5 (armTarget s .pcie 5 false 0) ≤ 0 ∧ ofHost s 5 false ∧ (cmpOf s.ch[(5 : Fin 96)] false).place = none) ∧
    ((heldCh s).launched 5 false = false ∨ (heldCh s).held 5 = true) := by unfold ofHost; decide +kernel

theorem test_witness_compare_fires :
    ((armedAt 10000000).takesWrites = true ∧ (armedAt 10000000).rget (F.CHc_CTRL_OWN 5) = 0 ∧ (armedAt 10000000).launched 5 false = false) ∧
    ((armedAt 64000).takesWrites = true ∧ (armedAt 64000).rget (F.CHc_CTRL_OWN 5) = 0 ∧ (armedAt 64000).launched 5 false = true ∧
      (armedAt 64000).held 5 = false ∧ (cmpOf (armedAt 64000).ch[(5 : Fin 96)] false).fifo = false ∧
      (cmpOf (armedAt 64000).ch[(5 : Fin 96)] false).eph = none ∧ (cmpOf (armedAt 64000).ch[(5 : Fin 96)] false).place = none) ∧
    (let s := (armedAt 64000).modCh 5 (fun x => { x with cmpB := x.cmpA })
     s.launched 5 true = true ∧ s.aFirst 5 = true ∧ ofHost s 5 true ∧ ofHost s 5 false ∧ (cmpOf s.ch[(5 : Fin 96)] true).place = none) ∧
    ((heldCh (armedAt 64000)).takesEvents = true ∧ (heldCh (armedAt 64000)).launched 5 false = true ∧ (heldCh (armedAt 64000)).held 5 = true) ∧
    (gafferOwned.takesWrites = true ∧ gafferOwned.rget (F.CHc_CTRL_OWN 5) ≠ 0) := by unfold ofHost; decide +kernel

theorem test_witness_holds :
    (live.takesWrites = true ∧ live.ch[(5 : Fin 96)].cmpA.armed = false ∧ live.ch[(5 : Fin 96)].cmpB.armed = false ∧
      live.ch[(5 : Fin 96)].fifo.state ≠ .run) ∧
    (live.banks[(0 : Fin 12)].supply ≠ 0 ∧ bankOf 7 = 0 ∧ bankOf 8 ≠ 0) ∧
    (let s := heldCh (armedAt 64255)
     s.takesWrites = true ∧ (cmpOf s.ch[(5 : Fin 96)] false).armed = true ∧ (cmpOf s.ch[(5 : Fin 96)] false).tb < s.tLaunch 5 ∧
      (cmpOf s.ch[(5 : Fin 96)] false).place = none ∧ ofHost s 5 false ∧ (cmpOf s.ch[(5 : Fin 96)] (!false)).armed = false ∧
      s.ch[(5 : Fin 96)].fifo.state ≠ .run ∧ s.ron (F.CHc_CTRL_HOLD 5) = true ∧
      (s.ch[(5 : Fin 96)].holdBoot || s.ch[(5 : Fin 96)].holdFrz || decide (s.banks[bankOf 5].supply = 0)) = false) ∧
    (live.modBank 0 (fun x => { x with supply := 0 })).banks[(0 : Fin 12)].supply = 0 := by unfold ofHost; decide +kernel

/-! ### Edge FIFO and captures -/

/-- A held entry word whose DELTA is d, and a FIFO with n entries in a state. -/
def fifo (n : Nat) (x : FifoState) : State :=
  live.modCh 5 (fun y => { y with fifo := { y.fifo with ents := List.replicate n (fifoEntry 0 0), state := x } })
def owns (s : State) : State := puts s [(F.CHc_CTRL_OWN 5, 2)]
def entLo (s : State) (d : Word) : State := s.setHeld .pcie (R.CHc_FIFO_ENT_LO 5) d

/-- DELTA 127 and 128 subs; 15 and 16 entries; a halt for LATE. -/
theorem test_witness_fifo_push :
    (∀ n ∈ [0, 16], (entLo (fifo n .idle) 0x3F000001).takesWrites = true ∧ (pushed (entLo (fifo n .idle) 0x3F000001) .pcie 5 0).delta = 127) ∧
    ((entLo (fifo 15 .idle) 2).takesWrites = true ∧ (pushed (entLo (fifo 15 .idle) 2) .pcie 5 0).delta = 128 ∧
      (entLo (fifo 15 .idle) 2).ch[(5 : Fin 96)].fifo.ents.length = 15 ∧ (entLo (fifo 15 .idle) 2).ch[(5 : Fin 96)].fifo.state = .idle) ∧
    ((entLo (fifo 16 .idle) 2).takesWrites = true ∧ (entLo (fifo 16 .idle) 2).ch[(5 : Fin 96)].fifo.ents.length = 16) ∧
    (haltStands (puts (fifo 16 .halted) [(F.CHc_FIFO_STAT_ERR 5, 2)]) 5 ∧ ¬ haltStands (fifo 16 .halted) 5) := by
  unfold haltStands; decide +kernel

theorem test_witness_fifo_commands :
    ((fifo 0 .idle).takesWrites = true ∧ (fifo 0 .idle).rget (F.CHc_CTRL_OWN 5) < 2) ∧
    (∀ x ∈ [FifoState.run, .waitStart], (owns (fifo 1 x)).takesWrites = true ∧ 2 ≤ (owns (fifo 1 x)).rget (F.CHc_CTRL_OWN 5) ∧
      (owns (fifo 1 x)).ch[(5 : Fin 96)].fifo.state = x) ∧
    ((owns (fifo 0 .idle)).takesWrites = true ∧ 2 ≤ (owns (fifo 0 .idle)).rget (F.CHc_CTRL_OWN 5) ∧
      (owns (fifo 0 .idle)).ch[(5 : Fin 96)].fifo.state = .idle ∧ (owns (fifo 0 .idle)).ch[(5 : Fin 96)].fifo.ents = [] ∧
      (owns (fifo 0 .idle)).ch[(5 : Fin 96)].fifo.armed = []) ∧
    ((fifo 3 .run).launched 5 false = false ∧ (fifo 3 .run).launched 5 true = false) := by decide +kernel

/-- A train that runs in a loop body of three entries, with edges armed. -/
def looping (arm : List FifoArmed) : State :=
  (fifo 3 .run).modFifo 5 (fun f => { f with ents := [fifoEntry 2 0, fifoEntry 2 0, fifoEntry 2 0x10000], next := ⟨1, 0, some ⟨0, 2, 4⟩, 6400000⟩, armed := arm })

/-- Edge 2 of a pass on compare A, and the first one of the next pass on B. -/
def twoArmed : List FifoArmed :=
  [⟨0, ⟨6400128, 2, false, false, 0⟩, ⟨2, 0, some ⟨0, 2, 5⟩, 6400000⟩⟩, ⟨1, ⟨6400256, 2, false, false, 0⟩, ⟨0, 0, some ⟨0, 2, 4⟩, 6400128⟩⟩]

theorem test_witness_fifo_break :
    ∀ l ∈ [[], twoArmed], (looping l).takesWrites = true ∧ (looping l).ch[(5 : Fin 96)].fifo.state = .run ∧
      (looping l).ch[(5 : Fin 96)].fifo.looping.isSome = true ∧ trainWf (looping l).ch[(5 : Fin 96)].fifo := by
  unfold trainWf; decide +kernel

/-- R69: the edge of the next pass goes, and the one of the present pass stays armed. -/
theorem test_fifo_break_ends_the_body :
    ((looping twoArmed).fifoBreak 5).ch[(5 : Fin 96)].fifo.armed.map (fun a => a.edge.target) = [6400128] := by decide +kernel

/-- A train whose armed edge, on compare A, is reached; the owner, what is done behind it, and the entries that follow. -/
def train (own flate : Nat) (ents : List FifoEnt) : State :=
  (puts (armAt live 64000) [(F.CHc_CTRL_OWN 5, own), (F.CHc_CTRL_FLATE 5, flate)]).modCh 5 (fun x =>
    { x with cmpA := { x.cmpA with fifo := true }
             fifo := { x.fifo with ents := ents, state := .run, next := ⟨0, 0, none, 64000⟩, unit := 1, fromBase := false,
                                   armed := [⟨0, ⟨64000, 2, false, false, 0⟩, ⟨0, 0, none, 63000⟩⟩] } })

/-- What the clauses ask of a train in common. -/
def firing (s : State) : Prop :=
  s.takesEvents = true ∧ s.launched 5 false = true ∧ s.held 5 = false ∧ (cmpOf s.ch[(5 : Fin 96)] false).fifo = true ∧
  (cmpOf s.ch[(5 : Fin 96)] false).place = none ∧ (cmpOf s.ch[(5 : Fin 96)] (!false)).armed = false ∧ s.ch[(5 : Fin 96)].fifo.state = .run ∧
  s.ch[(5 : Fin 96)].fifo.armed = [⟨0, ⟨64000, 2, false, false, 0⟩, ⟨0, 0, none, 63000⟩⟩] ∧ s.ch[(5 : Fin 96)].fifo.fromBase = false

/-- The next edge of a train, judged. -/
def nextEdge (s : State) : Option (Bool × Bool) :=
  let f := s.ch[(5 : Fin 96)].fifo
  (fifoBegun f.ents f.next).bind (fun p => (fifoEdge f.ents p).map (fun q =>
    (decide (s.dueD 5 q.1.target ≤ 0),
      spacingOk q.1.target (some 64000) (if s.fifoUnit 5 = b2n false then some 64000 else if s.fifoUnit 5 = 0 then f.lastA else f.lastB))))

/-- The launch position lies 256 subs ahead of the last edge. No entry left; an edge at it on compare B; on compare A, 512 subs behind its last
edge and one less; and one behind the launch position, under HALT and under CATCH. -/
theorem test_witness_train_edges :
    (firing (train 2 0 []) ∧ (train 2 0 []).ch[(5 : Fin 96)].fifo.next.body = none ∧ (train 2 0 []).ch[(5 : Fin 96)].fifo.next.idx = 0) ∧
    (∀ x ∈ [(2, (0x80000004 : Word), true, true), (3, 0x80000008, true, true), (3, 0xBF000007, true, false), (2, 0xBF000003, false, true)],
      ∀ flate ∈ [0, 2], let s := train x.1 flate [fifoEntry x.2.1 0]
        firing s ∧ s.ch[(5 : Fin 96)].fifo.next.spent = 0 ∧ nextEdge s = some x.2.2 ∧ s.rget (F.CHc_CTRL_FLATE 5) = flate) := by
  unfold firing; decide +kernel

/-- Capture unit 0 of channel 5 takes both edges in tick 4; stages, and an edge accepted in tick 0, as given. -/
def capt (s1 s2 : Option CapT) (e : Option Nat) : State :=
  (puts live [(F.CHc_CAPk_CFG_EDGE 5 0, 3), (F.CHc_CAPk_CFG_RDC 5 0, 1)]).modSpine (fun x => { x with tick := 4 }) |>.modCh 5 (fun x =>
    { x with cap0 := ⟨s1, s2, e, 0, none, none, false⟩ })
def capv (done : Bool) : CapT := ⟨6400, true, false, false, none, true, done, done⟩

/-- Only the record writer consumes. -/
def recOnly (s : State) : State := puts s [(F.CHc_CAPk_CFG_RDC 5 0, 0), (F.CHc_CAPk_CFG_REC 5 0, 1)]
def unrec : CapT := { capv false with recDone := false }

/-- Dead time: 255 and 256 subs of PLL ticks after the last edge. -/
theorem test_witness_captures :
    (∀ x ∈ [(none, none), (some (capv true), none), (some (capv false), none), (some (capv false), some (capv false))],
      (capt x.1 x.2 none).takesEvents = true ∧ (capt x.1 x.2 none).banks[bankOf (capBall (capt x.1 x.2 none) 5 false)].supply ≠ 0 ∧
      (capt x.1 x.2 none).capTakes 5 false true = true) ∧
    ((capt (some (capv true)) none none).capConsumed 5 false = true ∧ (capt (some (capv false)) none none).capConsumed 5 false = false) ∧
    stays (capt (some (capv false)) none none) 5 false (capv false) ∧
    (let s := recOnly (capt (some unrec) none none)
     s.takesEvents = true ∧ s.capTakes 5 false true = true ∧ s.capConsumed 5 false = false ∧ s.ron (F.CHc_CAPk_CFG_RDC 5 (kNat false)) = false ∧
      s.atCeil = false ∧ s.ron (F.CHc_CAPk_CFG_REC 5 (kNat !false)) = false) ∧
    (capt none none none).ron (F.CHc_CAPk_CFG_REC 5 (kNat !false)) = false ∧
    ((capt none none (some 1)).takesEvents = true ∧ (capt none none (some 1)).spine.tick * 64 < 1 + 256 ∧
      0 + 256 ≤ (capt none none (some 0)).spine.tick * 64) := by
  unfold stays; refine ⟨?_, ?_, ?_, ?_, ?_, ?_, ?_⟩ <;> decide +kernel

theorem capStep_of_empty (s : State) (c : Fin 96) (k : Bool) (h : (capOf s.ch[c] k).s1 = none) : s.capStep c k = s := by
  simp only [State.capStep, State.capRecord, h]

theorem test_witness_other_unit_empty : (capt none none none).capStep 5 (!false) = capt none none none :=
  capStep_of_empty _ _ _ (by decide +kernel)

/-- R25, R75: a capture that only the record writer consumes is handed over at once; the next one takes its stage. -/
theorem test_capture_record_frees_the_stage :
    onNext (exec (.capture 5 false true 0) (recOnly (capt none none none))) (fun t => t.capConsumed 5 false = true) := by
  unfold onNext; exact ⟨_, rfl, by decide +kernel⟩

/-- Stage 1 has taken a capture in the present tick, in place of an older one. -/
def met : State := (capt (some (capv false)) none none).modCh 5 (fun x => { x with cap0 := { x.cap0 with entered := some 4, older := some (capv true) } })

theorem test_witness_capture_read :
    (met.powered = true ∧ met.frozen = false ∧ (capOf met.ch[(5 : Fin 96)] false).entered = some met.spine.tick) ∧
    ((recOnly (capt (some (capv false)) (some (capv false)) none)).ron (F.CHc_CAPk_CFG_RDC 5 (kNat false)) = false) ∧
    ((capt (some (capv false)) (some (capv false)) none).ron (F.CHc_CAPk_CFG_REC 5 (kNat false)) = false) ∧
    ((capt none none none).powered = true ∧ (capOf (capt none none none).ch[(5 : Fin 96)] false).s1 = none) ∧
    ((capt (some (capv false)) none none).powered = true ∧ (capOf (capt (some (capv false)) none none).ch[(5 : Fin 96)] false).s1 = some (capv false) ∧
      (capt (some (capv false)) none none).frozen = false ∧ (capt (some (capv false)) none none).ron (F.CHc_CAPk_CFG_RDC 5 (kNat false)) = true ∧
      (capt (some (capv false)) none none).ron (F.CHc_CAPk_CFG_RDR 5 (kNat false)) = false ∧
      (capOf (capt (some (capv false)) none none).ch[(5 : Fin 96)] false).s2 = none) ∧
    ((puts (capt (some (capv false)) none none) [(F.CHc_CAPk_CFG_RDR 5 0, 1)]).powered = true ∧
      (puts (capt (some (capv false)) none none) [(F.CHc_CAPk_CFG_RDR 5 0, 1)]).ron (F.CHc_CAPk_CFG_RDR 5 (kNat false)) = true) := by
  decide +kernel

/-! ### Gaffers -/

/-- Thread 3 of Gaffer 0 in a state. -/
def th (x : ThState) : State := live.modThr 0 3 (fun t => { t with state := x })

theorem test_witness_gaffer_commands :
    (∀ x ∈ [ThState.idle, .ready, .run, .parked, .halted, .fault], (th x).takesWrites = true ∧ ((th x).thr 0 3).state = x) ∧
    (live.csLocked 0 = false ∧ live.ron (F.CSe_CTRL_WE 0) = false) ∧
    ((puts live [(F.CSe_CTRL_WE 0, 1)]).csLocked 0 = false ∧ (puts live [(F.CSe_CTRL_WE 0, 1)]).ron (F.CSe_CTRL_WE 0) = true) ∧
    ((puts live [(F.CSe_CTRL_LOCK 0, 1)]).takesWrites = true ∧ (puts live [(F.CSe_CTRL_LOCK 0, 1)]).csLocked 0 = true) ∧
    (live.rget F.PW_STAT_STATE = 1 ∧ live.gaf[(0 : Fin 8)].started = false ∧
      (live.modGaf 0 (fun g => { g with started := true })).gaf[(0 : Fin 8)].started = true) := by decide +kernel

/-- A READY thread 3 of class 0 in a Gaffer that runs. -/
def toDispatch (park : Park) : State :=
  puts (live.modThr 0 3 (fun t => { t with state := .ready, cls := 0, park := park, readySince := some 0, pend := 1, mask := 1 }))
    [(F.Ge_CTRL_RUN 0, 1), (F.Ge_STARVE_US 0, 1)]

/-- An ephemeris entry of thread 0: a timer or a compare edge. -/
def ephAt (timer committed : Bool) (t : Nat) : EphEnt :=
  ⟨0, t, t, timer, 0, 0, 2, false, 7, 0, false, committed, false, 0, 0, none⟩
def withEph (s : State) (l : List EphEnt) : State := s.modGaf 0 (fun g => { g with eph := l })

/-- The thread has been READY for 1 µs and one sub, and for 1 µs. -/
theorem test_witness_scheduler :
    (∀ k ∈ [Park.none, .wait], (toDispatch k).takesEvents = true ∧ (toDispatch k).dispatchOn 0 = true ∧ (toDispatch k).gaf[(0 : Fin 8)].running = none ∧
      ((toDispatch k).thr 0 3).state = .ready ∧ ((toDispatch k).thr 0 3).cls < 4) ∧
    (live.takesEvents = true ∧ live.dispatchOn 0 = false) ∧
    (∀ x ∈ (withEph live [ephAt true false 64001]).gaf[(0 : Fin 8)].eph, x.timer = true → ((withEph live [ephAt true false 64001]).now : Int) < x.tFull) ∧
    ((withEph live [ephAt true false 64000]).gaf[(0 : Fin 8)].eph = [] ++ ephAt true false 64000 :: [] ∧
      (ephAt true false 64000).timer = true ∧ (ephAt true false 64000).tFull ≤ ((withEph live [ephAt true false 64000]).now : Int)) ∧
    (let s := (toDispatch .none).modSpine (fun x => { x with acc := BitVec.ofNat 104 (64001 * 2 ^ 34) })
     (s.thr 0 3).readySince = some 0 ∧ s.rget (F.Ge_STARVE_US 0) ≠ 0 ∧ (s.thr 0 3).starved = false ∧
      0 + s.rget (F.Ge_STARVE_US 0) * 64000 < s.now) ∧ live.now = 0 + 1 * 64000 := by decide +kernel

/-- Compare A of channel 0, which its Gaffer owns, is loaded with the entry of slot 0, and reached; the queue of the compare as given. -/
def ephRun (l : List EphEnt) : State :=
  (withEph (puts live [(F.CHc_CTRL_OWN 0, 1)]) l).modCh 0 (fun x =>
    { x with cmpA := { Cmp.reset with armed := true, target := 64000, tb := 64000, act := 2, eph := some 0 } })

/-- The next entry of the queue lies at the launch position. -/
theorem test_witness_entries_follow :
    let x := ephAt false true 64000
    let y := { ephAt false false (64000 + 64 * live.launchK 0) with slot := 1 }
    let s := ephRun [x, y]
    s.takesEvents = true ∧ chanOf 0 0 = 0 ∧ s.launched 0 false = true ∧ s.held 0 = false ∧ (cmpOf s.ch[(0 : Fin 96)] false).fifo = false ∧
      (cmpOf s.ch[(0 : Fin 96)] false).place = none ∧ (cmpOf s.ch[(0 : Fin 96)] (!false)).armed = false ∧
      (cmpOf s.ch[(0 : Fin 96)] false).eph = some x.slot ∧ (s.gaf[(0 : Fin 8)].eph.map EphEnt.slot).Nodup ∧
      s.ephQueue 0 0 (b2n false) = [x, y] ∧ y.committed = false ∧ s.dueD 0 y.tgt ≤ 0 := by decide +kernel

/-- Two READY threads of one class; the one behind keeps its place, or neither does. -/
theorem test_witness_dispatch_order :
    ∀ k ∈ [true, false], let s := (toDispatch .none).modThr 0 5 (fun t => { t with state := .ready, cls := 0, keep := k })
      s.takesEvents = true ∧ s.dispatchOn 0 = true ∧ s.gaf[(0 : Fin 8)].running = none ∧ (s.thr 0 3).state = .ready ∧ (s.thr 0 3).cls = 0 ∧
      (s.thr 0 3).keep = false ∧ (s.thr 0 5).state = .ready ∧ (s.thr 0 5).cls = 0 ∧ (s.thr 0 5).keep = k := by decide +kernel

/-- The thread is not in a retry for space. -/
def parkFree (x : Thread) : Bool := match x.park with | .space _ => false | _ => true

theorem onSpace_iff (x : Thread) : onSpace x ↔ parkFree x = false := by
  unfold onSpace parkFree; cases x.park <;> simp

/-- A microword: values at bit positions. -/
def mw (l : List (Nat × Nat)) : Nat := (l.map (fun x => x.2 * 2 ^ x.1)).sum

/-- Thread n of Gaffer 0 runs the microword at address 0. -/
def mrun (n : Fin 16) (l : List (Nat × Nat)) : State :=
  ((live.csPut 0 0 (mw l)).modGaf 0 (fun g => { g with running := some n })).modThr 0 n (fun t => { t with state := .run })

def bad : State := (mrun 0 []).modGaf 0 (fun g => { g with cs := [(0, BitVec.ofNat 148 (2 ^ 144))] })

theorem test_witness_microwords :
    (microReady (mrun 0 []) 0 0 ∧ ¬ onSpace ((mrun 0 []).thr 0 0)) ∧
    (microReady ((mrun 0 []).modThr 0 0 (fun t => { t with park := .space .writer })) 0 0 ∧
      onSpace (((mrun 0 []).modThr 0 0 (fun t => { t with park := .space .writer })).thr 0 0)) ∧
    (live.takesEvents = true ∧ live.gaf[(0 : Fin 8)].running = none) ∧
    (bad.gaf[(0 : Fin 8)].running = some 0 ∧ bad.mwFault 0 0 = some 1) ∧
    ((mrun 0 [(140, 3)]).mwFault 0 0 = some 3) ∧
    (((mrun 0 []).modThr 0 0 (fun t => { t with run := 63 })).mwFault 0 0 = some 4) := by
  simp only [microReady, onSpace_iff]; decide +kernel

/-- Every arithmetic row finds a microword of its own. -/
theorem test_witness_arithmetic_rows :
    ∀ row ∈ arithRows 0, let s := mrun 0 [(116, row.2), (109, 0x12)]
      microReady s 0 0 ∧ ¬ onSpace (s.thr 0 0) ∧ mwAop (wordAt s 0 0) = row.2 ∧ mwSop (wordAt s 0 0) = 0 ∧
      mwSafe (wordAt s 0 0) = false ∧ mwPsel (wordAt s 0 0) = 0 := by
  simp only [microReady, onSpace_iff]; decide +kernel

/-- Thread 0 with an address on its return stack runs a sequencer operation, with the condition as it stands or inverted. -/
def srun (op inv : Nat) : State :=
  (mrun 0 [(140, op), (123, inv), (129, 7), (61, 1)]).modThr 0 0 (fun t => { t with ret := [5] })

theorem test_witness_sequencer_rows :
    (∀ row ∈ seqRows 0, let s := srun row.2 1
      microReady s 0 0 ∧ ¬ onSpace (s.thr 0 0) ∧ (s.thr 0 0).haltReq = false ∧ mwAop (wordAt s 0 0) = 0 ∧ mwPsel (wordAt s 0 0) = 0 ∧
      mwSafe (wordAt s 0 0) = false ∧ mwSop (wordAt s 0 0) = row.2 ∧ (s.thr 0 0).cond (wordAt s 0 0) = false) ∧
    (∀ row ∈ seqRows 0, let s := srun row.2 0
      microReady s 0 0 ∧ (s.thr 0 0).haltReq = false ∧ mwSop (wordAt s 0 0) = row.2 ∧ (s.thr 0 0).cond (wordAt s 0 0) = true ∧
      (s.thr 0 0).ret = 5 :: []) ∧
    ((srun 4 0).thr 0 0).pend &&& BitVec.ofNat 16 (mwImm (wordAt (srun 4 0) 0 0)) = 0 ∧
    (((srun 4 0).modThr 0 0 (fun t => { t with pend := 1 })).thr 0 0).pend &&& BitVec.ofNat 16 (mwImm (wordAt (srun 4 0) 0 0)) ≠ 0 := by
  simp only [microReady, onSpace_iff]; decide +kernel

/-- Thread 0, of class 2, is at a safe point behind its 7th microword, in a Gaffer that runs; thread 3 is READY in a class. -/
def safe (cls : Nat) : State :=
  puts ((mrun 0 [(122, 1)]).modThr 0 0 (fun t => { t with quantum := 7 }) |>.modThr 0 3 (fun t => { t with state := .ready, cls := cls }))
    [(F.Ge_CTRL_RUN 0, 1), (F.Ge_CTRL_QUANTUM 0, 1), (F.Ge_THRn_CFG_CLASS 0 0, 2)]

/-- A more urgent class, the same one, and a less urgent one; and a Gaffer that does not dispatch. -/
theorem test_witness_safe_points :
    ∀ cls ∈ [0, 2, 3], let s := safe cls
      microReady s 0 0 ∧ ¬ onSpace (s.thr 0 0) ∧ (s.thr 0 0).haltReq = false ∧ mwAop (wordAt s 0 0) = 0 ∧ mwPsel (wordAt s 0 0) = 0 ∧
      mwSop (wordAt s 0 0) = 0 ∧ mwSafe (wordAt s 0 0) = true ∧ s.dispatchOn 0 = true ∧ s.rget (F.Ge_CTRL_QUANTUM 0) = 1 ∧
      8 * 1 ≤ (s.thr 0 0).quantum + 1 ∧ (s.thr 0 3).state = .ready ∧ (s.thr 0 3).cls = cls ∧ s.thClass 0 0 = 2 ∧
      (∀ k : Fin 16, k ≠ 0 → k ≠ 3 → (s.thr 0 k).state = .idle) ∧ (mrun 0 [(122, 1)]).dispatchOn 0 = false := by
  simp only [microReady, onSpace_iff]; decide +kernel

/-- Thread n runs a port operation. -/
def prun (n : Fin 16) (psel pop : Nat) (l : List (Nat × Nat)) : State :=
  mrun n ([(58, psel), (if psel % 2 = 1 then 55 else 54, pop)] ++ l)

/-- A thread bound to channel 0, which it owns, inserts for a time word in P0. -/
def ins (pop : Nat) (t : BitVec 40) : State :=
  puts ((prun 0 1 pop [(40, 0), (33, 1)]).modThr 0 0 (fun x => { x with p := x.p.set 0 t })) [(F.CHc_CTRL_OWN 0, 1)]

/-- An Orrery whose history is as given, broadcast included. -/
def oryAt (o : Orrery) (y : Sync) (l : List OryEdge) : Orrery :=
  { o with sync := y, still := false, hist := l, seen := { o.seen with sync := y, still := false, hist := l } }

/-- Orrery 0 in FULL: one edge at angle 0 and 990 ns, a speed of 2^24 au/ms. -/
def turning (s : State) : State := s.modOry 0 (fun o => oryAt o .full [⟨0, 63360, 2 ^ 24, false, 10000⟩])

/-- The five answers of an insert: a compare that is not owned, one behind, one tight, one ahead; a table that is full; and what a cancel finds. -/
theorem test_witness_ephemeris :
    (∀ i ∈ [0, 1, 2, 3, 4], portReady (ins i 0) 0 0 1 i) ∧
    ((prun 0 1 0 []).ephTest 0 0 (insReq (prun 0 1 0 []) 0 0 false false) 0 = .own) ∧
    ((ins 1 0).ephTest 0 0 (insReq (ins 1 0) 0 0 true false) 0 = .behind) ∧
    ((ins 1 0).ephTest 0 0 (insReq (ins 1 0) 0 0 true false) 6400000 = .ok) ∧
    ((ins 1 0).ephTest 0 0 (insReq (ins 1 0) 0 0 true false) 70000 = .tight) ∧
    ((withEph (ins 0 0) (List.replicate 256 (ephAt false false 6400000))).ephTest 0 0 (insReq (ins 0 0) 0 0 false false) 6400000 = .full) ∧
    (live.angTime 0 0 live.now = none ∧ (turning (ins 4 0)).angTime ((turning (ins 4 0)).angOry 0 0) 100 (turning (ins 4 0)).now = some (some 69760)) ∧
    ((withEph (ins 2 0) []).gaf[(0 : Fin 8)].eph = [] ∧ (ephAt false false 6400000).timer = false ∧ (ephAt false true 6400000).committed = true) := by
  simp only [portReady, microReady, portOnly, onSpace_iff]; decide +kernel

/-- An insert for compare A of channel 0, ahead of its launch position: no entry waits; and the one that the compare holds lies behind. -/
theorem test_witness_ephemeris_commits :
    ∀ l ∈ [[], [ephAt false true 6500000]],
      let s := (withEph (ins 0 6400000) l).modCh 0 (fun x =>
        { x with cmpA := if l = [] then x.cmpA else { Cmp.reset with armed := true, target := 6500000, tb := 6500000, eph := some 0 } })
      let q := insReq s 0 0 false false
      portReady s 0 0 1 0 ∧ q.timer = false ∧ s.ephTest 0 0 q 6400000 = .ok ∧ s.dueD (chanOf 0 q.chan) (6400000 % 2 ^ 38) ≤ 0 ∧
      s.rdSpec 0 0 (wordAt s 0 0) (mwf (wordAt s 0 0) 40 7) % 2 ^ 38 = 6400000 ∧
      s.ephQueue 0 q.chan (b2n q.unit) = l ∧ (cmpOf s.ch[chanOf 0 q.chan] q.unit).armed = decide (l ≠ []) ∧
      (∀ o ∈ l, o.committed = true ∧ (cmpOf s.ch[chanOf 0 q.chan] q.unit).eph = some o.slot ∧
        s.launched (chanOf 0 q.chan) q.unit = false ∧ (s.now : Int) - s.ephD 6400000 < o.tFull) := by
  simp only [portReady, microReady, portOnly, onSpace_iff]; decide +kernel

/-- Thread 0 runs a channel operation on its channel, with results to P0 and P1, and P2 and P3 as sources. -/
def crun (pop : Nat) (l : List (Nat × Nat)) : State := prun 0 2 pop ([(42, 0), (35, 1)] ++ l)

theorem test_witness_channel_rows :
    (∀ i ∈ [0, 1, 2, 3, 4, 5], portReady (crun i []) 0 0 2 i ∧ mwf (wordAt (crun i []) 0 0) 42 7 ≠ mwf (wordAt (crun i []) 0 0) 35 7) ∧
    ((capOf (crun 0 []).ch[(0 : Fin 96)] false).s1 = none) ∧
    (portReady (crun 4 [(29, 1)]) 0 0 2 4 ∧ mwf (wordAt (crun 4 [(29, 1)]) 0 0) 30 5 = 0 ∧ mwf (wordAt (crun 4 [(29, 1)]) 0 0) 29 1 = 1) ∧
    (portReady (crun 4 [(34, 1)]) 0 0 2 4 ∧ mwf (wordAt (crun 4 [(34, 1)]) 0 0) 34 1 = 1 ∧ (crun 4 [(34, 1)]).rget (F.CHc_CTRL_OWN 0) < 2) ∧
    (portReady (crun 4 [(32, 1)]) 0 0 2 4 ∧ mwf (wordAt (crun 4 [(32, 1)]) 0 0) 29 6 = 2 ^ 3) ∧
    ((fifoEntry (word ((crun 3 []).rdSpec 0 0 (wordAt (crun 3 []) 0 0) 0)) 0).delta < 128) ∧
    (let s := (crun 3 [(121, 1)]).modThr 0 0 (fun x => { x with p := x.p.set 0 2 })
     portReady s 0 0 2 3 ∧ mwNw (wordAt s 0 0) = true ∧ (fifoEntry (word (s.rdSpec 0 0 (wordAt s 0 0) 0)) 0).delta = 128) := by
  simp only [portReady, microReady, portOnly, onSpace_iff]; refine ⟨?_, ?_, ?_, ?_, ?_, ?_, ?_⟩ <;> decide +kernel

/-- Channel 0 with captures in unit 0, read by the Gaffer; the tick in which stage 1 took one is given. -/
def caprd (s1 : Option CapT) (at' : Option Nat) : State :=
  (puts (crun 0 []) [(F.CHc_CAPk_CFG_RDC 0 0, 1), (F.CHc_CAPk_CFG_RDR 0 0, 1)]).modCh 0 (fun x =>
    { x with cap0 := { x.cap0 with s1 := s1, entered := at', older := some (capv true) } })
def fifo0 (s : State) (n : Nat) : State := s.modFifo 0 (fun f => { f with ents := List.replicate n (fifoEntry 2 0) })

/-- A capture read in its tick, and one later; a FIFO that is full, with NW set and clear, and one with room. -/
theorem test_witness_channel_stages :
    (∀ x ∈ [(some (capv false), some 0), (some (capv false), none), (none, none)], portReady (caprd x.1 x.2) 0 0 2 0) ∧
    ((caprd (some (capv false)) (some 0)).spine.tick = 0 ∧ (caprd (some (capv false)) (some 0)).frozen = false) ∧
    ((caprd (some (capv false)) none).ron (F.CHc_CAPk_CFG_RDC 0 (kNat false)) = true ∧
      (caprd (some (capv false)) none).ron (F.CHc_CAPk_CFG_RDR 0 (kNat false)) = true) ∧
    (∀ nw ∈ [0, 1], let s := (fifo0 (crun 3 [(121, nw)]) 16).modThr 0 0 (fun x => { x with p := x.p.set 0 2 })
      portReady s 0 0 2 3 ∧ mwNw (wordAt s 0 0) = decide (nw = 1) ∧ s.ch[(0 : Fin 96)].fifo.ents.length = 16 ∧
        128 ≤ (fifoEntry (word (s.rdSpec 0 0 (wordAt s 0 0) 0)) 0).delta) ∧
    ((fifo0 (crun 3 []) 15).ch[(0 : Fin 96)].fifo.ents.length < 16 ∧ (fifo0 (crun 3 []) 15).ch[(0 : Fin 96)].fifo.state = .idle) := by
  simp only [portReady, microReady, portOnly, onSpace_iff]; refine ⟨?_, ?_, ?_, ?_, ?_⟩ <;> decide +kernel

/-- The ceiling of the record writer is an implementation's: where one waiting record reaches it, a state meets the clauses of a ceiling. -/
theorem test_witness_ceiling (h : Config.atCeiling 1 = true) :
    ({ mrun 0 [(58, 4)] with recq := [⟨0x30, 0, 0, 0, 0, 0, 0, 0, 0, 0⟩] } : State).atCeil = true := by
  simp [State.atCeil, h]

/-- An address register that reaches the data window, and one that reaches no memory. -/
def mem (pop : Nat) (a : BitVec 40) : State :=
  (prun 0 3 pop [(48, 0), (41, 1)]).modThr 0 0 (fun x => { x with p := x.p.set 1 a })

/-- Route of channel 0 to ring 2, an event ring that runs. -/
def routed (s : State) : State :=
  puts (s.setEcSrc 0 { EcSrc.reset with route := word (2 + 2 ^ 6) }) [(F.RINGn_CFG_EN 2, 1)]

theorem test_witness_memory_and_record :
    (∀ i ∈ [0, 1, 2, 3], portReady (mem i 0xFFFC) 0 0 3 i ∧ portReady (mem i 0xFFFFFF) 0 0 3 i) ∧
    ((mem 0 0xFFFC).memAddr 0 (memEff (mem 0 0xFFFC) 0 0 false) = some 0xFFFC ∧
      (mem 0 0xFFFFFF).memAddr 0 (memEff (mem 0 0xFFFFFF) 0 0 false) = none ∧ (mem 0 0xFFFFFF).loadSite 0 false = none ∧
      (mem 1 0xFFFF).memAddr 0 (memEff (mem 1 0xFFFF) 0 0 true) = some 0xFFF8 ∧ (mem 1 0xFFFF).loadSite 0 true = some (0, 0xFFF8)) ∧
    (let s := mrun 0 [(58, 4)]
     microReady s 0 0 ∧ ¬ onSpace (s.thr 0 0) ∧ mwPsel (wordAt s 0 0) = 4 ∧ mwAop (wordAt s 0 0) = 0 ∧ mwSop (wordAt s 0 0) = 0 ∧
      mwSafe (wordAt s 0 0) = false ∧ s.routeOf 0 0x30 = none) ∧
    ((routed live).routeOf 0 0x30 = some 2 ∧ (routed live).eventRing 2 = true) := by
  simp only [portReady, microReady, portOnly, onSpace_iff]; refine ⟨?_, ?_, ?_, ?_⟩ <;> decide +kernel

/-- Thread 0 runs an Orrery operation with results to P0 and P1, or a system operation. -/
def orun (pop : Nat) : State := turning (prun 0 5 pop [(46, 0), (39, 1)])
def xrun (pop : Nat) : State := prun 0 6 pop [(43, 0), (36, 1), (61, 1)]

theorem test_witness_orrery_and_system_rows :
    (∀ i ∈ [0, 1, 2], portReady (orun i) 0 0 5 i ∧ mwf (wordAt (orun i) 0 0) 46 7 ≠ mwf (wordAt (orun i) 0 0) 39 7 ∧
      mwf (wordAt (orun i) 0 0) 46 7 ≠ 0x12 ∧ mwf (wordAt (orun i) 0 0) 39 7 ≠ 0x12) ∧
    (∀ i ∈ [0, 1, 2, 3], portReady (xrun i) 0 0 6 i) ∧ mwf (wordAt (xrun 0) 0 0) 43 7 ≠ mwf (wordAt (xrun 0) 0 0) 36 7 ∧
    ((orun 0).oReport 0 (orun 0).now).isSome = true ∧ live.oReport 0 live.now = none ∧ (orun 1).oValid 0 = true ∧ live.oValid 0 = false ∧
    live.convFits 0 4 1 = false ∧ (let s := puts (xrun 3) [(F.CV_CTRL_EN0, 1)]
      portReady s 0 0 6 3 ∧ s.convRoom 0 1 = true ∧ s.convFits 0 4 1 = true) := by
  simp only [portReady, microReady, portOnly, onSpace_iff]; refine ⟨?_, ?_, ?_, ?_, ?_, ?_, ?_, ?_, ?_⟩ <;> decide +kernel

/-! ### Orreries and converters -/

/-- Orrery 0 follows a wheel of 60 positions less 2, at a pitch of 100 ns; its last tooth came at t0, at position j. -/
def wheel (t0 j : Nat) : State :=
  (puts live [(F.ORYn_WHEEL_NPOS 0, 60), (F.ORYn_CTRL_EN 0, 1)]).modOry 0 (fun o => { oryAt o .full [⟨0, t0, 1000, false, 10000⟩] with
    tooth := some t0, pLast := 6400, kLast := 1, pPrev := 6400, kPrev := 1, pos := j })

def withOry (s : State) (f : Orrery → Orrery) : State := s.modOry 0 f

/-- A tooth of Orrery 0 at the present, 1,000 ns. -/
def toothX (s : State) : OryStamp := s.oMarked 0 0 (s.oStamp 0 0 0)
def toothHyps (s : State) (t0 : Nat) : Prop :=
  oryTakes s ∧ s.oType 0 = 0 ∧ s.oInputOff 0 0 = false ∧ s.ory[(0 : Fin 4)].sync = .full ∧ s.rget (F.ORYn_CTRL_DIRMODE 0) = 0 ∧ s.ory[(0 : Fin 4)].pw = none ∧
  s.oDead 0 0 (s.oStamp 0 0 0) = false ∧ s.oClose 0 (toothX s) = false ∧ s.ory[(0 : Fin 4)].tooth = some t0

theorem test_witness_orreries_apart :
    (Instr.still 2 ∈ oryRows 2 0 0 0 0 ∧ (puts live [(F.PW_STAT_STATE, 2)]).rget F.PW_STAT_STATE = 2) := by decide +kernel

/-- One pitch; the gap's three pitches; early; lost; a standstill, of which any interval is discarded. -/
theorem test_witness_wheel_teeth :
    (∀ x ∈ [(57600, 3), (44800, 57)], toothHyps (wheel x.1 x.2) x.1 ∧
      toothIs (wheel x.1 x.2) 0 (toothX (wheel x.1 x.2)) x.1 = .spans ((wheel x.1 x.2).oSpan 0 x.2 false)) ∧
    (toothHyps (wheel 62000 3) 62000 ∧ toothIs (wheel 62000 3) 0 (toothX (wheel 62000 3)) 62000 = .early) ∧
    (toothHyps (wheel 0 3) 0 ∧ toothIs (wheel 0 3) 0 (toothX (wheel 0 3)) 0 = .loss) ∧
    (let s := withOry (wheel 0 3) (fun o => { o with still := true })
     toothHyps s 0 ∧ toothIs s 0 (toothX s) 0 = .spans (s.oSpan 0 3 false)) := by
  unfold toothHyps oryTakes; refine ⟨?_, ?_, ?_, ?_⟩ <;> decide +kernel

/-- Edges 40 ns and one sub less after the previous one; 4.0 ns and one sub less after the stamper's. -/
theorem test_witness_wheel_edges :
    (let s := withOry (wheel 0 3) (fun o => { o with sync := .acq, tooth := none })
     oryTakes s ∧ s.oType 0 = 0 ∧ s.oInputOff 0 0 = false ∧ s.ory[(0 : Fin 4)].sync = .acq ∧ s.rget (F.ORYn_CTRL_DIRMODE 0) = 0 ∧
      s.ory[(0 : Fin 4)].pw = none ∧ s.oDead 0 0 (s.oStamp 0 0 0) = false ∧ s.oClose 0 (toothX s) = false ∧ s.ory[(0 : Fin 4)].tooth = none) ∧
    (∀ x ∈ [(64000 - 2559, true), (64000 - 2560, false)], let s := withOry (wheel 0 3) (fun o => { o with lastAcc := some x.1 })
     oryTakes s ∧ s.oType 0 = 0 ∧ s.oInputOff 0 0 = false ∧ s.ory[(0 : Fin 4)].sync ≠ .off ∧ s.ory[(0 : Fin 4)].pw = none ∧ s.oDead 0 0 (s.oStamp 0 0 0) = false ∧ s.oClose 0 (toothX s) = x.2) ∧
    (∀ x ∈ [(1, true), (0, false)], let s := (withOry (wheel 0 3) (fun o => { o with stamp := o.stamp.set 0 (some x.1) })).modSpine (fun y => { y with tick := 4 })
     oryTakes s ∧ s.oType 0 = 0 ∧ s.oDead 0 0 (s.oStamp 0 0 0) = x.2) := by
  unfold oryTakes; refine ⟨?_, ?_, ?_⟩ <;> decide +kernel

/-- All but the Orrery's own work is at rest. -/
def atRest (s : State) (n : Fin 4) : Bool :=
  decide (s.pending = [] ∧ s.spine.counting = true ∧ s.powered = true ∧ s.frozen = false ∧ s.spine.slew = none ∧
    s.hif.slow = [] ∧ s.hif.slowOld = [] ∧ s.ap.regs = [] ∧ s.ap.words = [] ∧ s.ap.reqs = []) && (List.range 8).all (fun i => !s.apValid i) &&
  decide (∀ b : Fin 12, s.banks[b].swap = false) && decide (∀ k : Fin 2, s.conv[k].queue = []) &&
  decide (∀ c : Fin 96, s.ch[c].own = [] ∧ s.ch[c].stage = [] ∧ s.ch[c].imgPend = false ∧ s.ch[c].cap0.s1 = none ∧ s.ch[c].cap1.s1 = none) &&
  decide (s.ron F.LH_CTRL_EN = false ∧ s.ron F.EL_STAT_ISROOT = false) &&
  decide (∀ m : Fin 4, s.ory[m].qwait = none ∧ s.ory[m].bcs = [] ∧ (m ≠ n → s.ory[m].camWait = none ∧ s.ory[m].cmds = []))

theorem onlyWork_of_atRest {s : State} {n : Fin 4} (h : atRest s n = true) : onlyWork s n := by
  simp only [atRest, Bool.and_eq_true, decide_eq_true_eq, List.all_eq_true, List.mem_range, Bool.not_eq_true'] at h
  obtain ⟨⟨⟨⟨⟨⟨⟨h1, h2, h3, h4, h5, h6, h7, h8, h9, h10⟩, h11⟩, h12⟩, h13⟩, h14⟩, h15, h16⟩, h17⟩ := h
  exact ⟨h1, h2, h3, h4, h5, h6, h7, h8, h9, h10, h11, h12, h13, h14, h15, h16, h17⟩

/-- A cam whose window is the second half, or all, of a half cycle; two turns per cycle; an edge waits, close behind another or not. -/
def cam (lo hi : Nat) (base : Nat) (close : Bool) : State :=
  withOry (puts (wheel 57600 3) [(F.ORYn_CTRL_TPC 0, 1), (F.ORYn_CAM_LO_LO 0, lo), (F.ORYn_CAM_HI_HI 0, hi), (F.ORYn_CAM_CFG_CAMTO 0, 4)])
    (fun o => { oryAt o .full [⟨base, 57600, 0, false, 10000⟩] with camok := true, camWait := some (⟨64000, false, false, 0, 52⟩, close) })

theorem test_witness_wheel_cams :
    (let s := cam 0 1000 0 false
     oryTakes s ∧ s.oType 0 = 0 ∧ s.oInputOff 0 2 = false ∧ s.ory[(0 : Fin 4)].sync ≠ .off ∧ s.oDead 0 2 (s.oStamp 0 2 0) = false ∧ (live.oType 0 ≠ 0 ∨ live.ory[(0 : Fin 4)].sync = .off)) ∧
    (let s := cam 0 1000 0 true
     s.ory[(0 : Fin 4)].camWait = some (⟨64000, false, false, 0, 52⟩, true) ∧ s.ron (F.ORYn_CTRL_TPC 0) = true ∧ s.ory[(0 : Fin 4)].sync = .full ∧
      s.ory[(0 : Fin 4)].toothTick ≠ some s.spine.tick) ∧
    (let s := cam 0 0xFFFFFF 0 false
     s.oEst 0 64000 = some 0 ∧ s.oCamIn 0 0 = s.oCamIn 0 (2 ^ 23)) ∧
    (∀ base ∈ [0, 2 ^ 23], let s := cam 0 1000 base false
     s.oEst 0 64000 = some base ∧ s.oZero 0 base % 2 ^ 24 = base ∧ s.oCamIn 0 0 = true ∧ s.oCamIn 0 (2 ^ 23) = false) ∧
    (∀ x ∈ [(60 * 4 * 2, true), (60 * 4 * 2 - 1, false)], let s := withOry (cam 0 1000 0 false) (fun o => { o with camSteps := x.1 })
     oryTakes s ∧ s.oType 0 = 0 ∧ s.ory[(0 : Fin 4)].camTold = false ∧ s.rget (F.ORYn_CAM_CFG_CAMTO 0) = 4 ∧
      decide ((4 * 2 ^ 24 + s.ory[(0 : Fin 4)].camOff) * s.oSteps 0 ≤ x.1 * 2 ^ 24 + s.oAhead 0 s.now * s.oSteps 0) = x.2) ∧
    (∀ t0 ∈ [57600, 57601], let s := withOry (puts (wheel 0 3) [(F.ORYn_DIRPW_THR 0, 100)]) (fun o => { o with pw := some ⟨t0, false, false, 0, 52⟩ })
     oryTakes s ∧ s.ory[(0 : Fin 4)].pw = some ⟨t0, false, false, 0, 52⟩ ∧ t0 + s.rget (F.ORYn_DIRPW_THR 0) * 64 = t0 + 6400 ∧ s.now = 57600 + 6400 ∧ s.ory[(0 : Fin 4)].pwRegs = [] ∧
       s.ory[(0 : Fin 4)].pwWords = []) := by
  unfold oryTakes; refine ⟨?_, ?_, ?_, ?_, ?_, ?_⟩ <;> decide +kernel

/-- An idle step judges a waiting cam edge. -/
theorem test_witness_cam_step :
    let s := cam 0 1000 0 false
    s.ory[(0 : Fin 4)].camWait = some (⟨64000, false, false, 0, 52⟩, false) ∧ onlyWork s 0 ∧ s.ory[(0 : Fin 4)].cmds = [] ∧ s.spine.tick + 1 < 52 :=
  ⟨by decide +kernel, onlyWork_of_atRest (by decide +kernel), by decide +kernel, by decide +kernel⟩

/-- Orrery 0 with a decoder of a type, in a state of synchronisation, at input levels. -/
def track (type : Nat) (y : Sync) (lvl : BitVec 3) (pos : Nat) : State :=
  (puts live [(F.ORYn_CTRL_TYPE 0, type), (F.ORYn_LINES_LINES 0, 512)]).modOry 0 (fun o => { oryAt o y [⟨0, 60000, 0, false, 10000⟩] with
    lvl := lvl, pos := pos })

/-- What the stampers take of a change of levels from those given. -/
def taken (s : State) (cur lvl : BitVec 3) : BitVec 3 × Option OryStamp := (s.oTakeLvl 0 cur lvl (fun i => s.oStamp 0 i 0)).2

/-- Hall: forwards, backwards and to an illegal code, from sector 5 and sector 0; an edge that the dead time hides, and one that is early. -/
theorem test_witness_sectors :
    (let s := track 1 .full 5 5
     oryTakes s ∧ s.oType 0 = 1 ∧ s.ory[(0 : Fin 4)].sync = .full ∧ (1 : BitVec 3) ≠ s.ory[(0 : Fin 4)].lvl ∧ (taken s 5 1).1 = 1 ∧
      (taken s 5 1).2.isSome = true ∧ hallSector 1 = some 0 ∧ hallSector 5 = some ((0 + 5) % 6)) ∧
    (oryTakes (track 1 .full 1 0) ∧ (taken (track 1 .full 1 0) 1 5).1 = 5 ∧ hallSector 5 = some 5 ∧ hallSector 1 = some ((5 + 1) % 6)) ∧
    ((taken (track 1 .full 5 5) 5 7).1 = 7 ∧ hallSector 7 = none ∧ hallSector 0 = none) ∧
    (5 : BitVec 3) = 1 ^^^ BitVec.ofNat 3 (2 ^ 2) ∧
    (let s := withOry (track 1 .full 1 0) (fun o => { o with stamp := o.stamp.set 2 (some 0) })
     oryTakes s ∧ (taken s 1 5).2 = none) ∧
    (∀ y ∈ [Sync.full, .acq], let s := withOry (track 1 y 1 0) (fun o => { o with lastAcc := some 63999 })
     oryTakes s ∧ s.ory[(0 : Fin 4)].sync = y ∧ inputsOn s 0 ∧ (taken s 1 5).2.any (fun x => s.oClose 0 x) = true ∧ hallSector (taken s 1 5).1.toNat = some 5) := by
  unfold oryTakes inputsOn; refine ⟨?_, ?_, ?_, ?_, ?_, ?_⟩ <;> decide +kernel

/-- A transition of line A waits, stamped at a position of tick 0, early or not; the present tick. -/
def quad (w : BitVec 3) (pos : Nat) (early : Bool) (tick : Nat) : State :=
  (withOry (track 2 .rel 0 0) (fun o => { o with qwait := some ⟨w, false, ⟨64000 + pos, false, false, pos, 52⟩, early⟩ })).modSpine (fun x => { x with tick := tick })

/-- One step either way, both lines at once, and Z alone; a line of the other input stamped 2.0 ns, and one sub less, from the first; Z behind
it; and the ticks about the last one in which another line can come. -/
theorem test_witness_quadrature :
    (∀ x ∈ [((1 : BitVec 3), 1), (2, 3), (3, 2), (4, 0)], let s := track 2 .rel 0 0
     oryTakes s ∧ s.oType 0 = 2 ∧ s.ory[(0 : Fin 4)].sync ≠ .off ∧ s.ory[(0 : Fin 4)].qwait = none ∧ x.1 ≠ s.ory[(0 : Fin 4)].lvl ∧
      (taken s 0 x.1).1 = x.1 ∧ (taken s 0 x.1).2.isSome = true ∧
      (quadPlace (x.1.toNat % 4) + 4 - quadPlace ((0 : BitVec 3).toNat % 4)) % 4 = x.2 ∧ 1 < s.oSteps 0) ∧
    (∀ y ∈ [(127, true), (128, false)], ∀ l ∈ [((3 : BitVec 3), 3), (5, 1)], let s := quad 1 y.1 false 1
     oryTakes s ∧ inputsOn s 0 ∧ s.oQuadLvl 0 = 1 ∧ (taken s 1 l.1).1 = l.1 ∧ (l.1 ^^^ s.ory[(0 : Fin 4)].lvl).toNat % 4 = l.2 ∧
      (taken s 1 l.1).2.map (fun x => decide (((x.t : Int) - (64000 + y.1 : Nat)).natAbs < 128)) = some y.2) ∧
    (∀ y ∈ [(0, false, true), (128, true, true), (0, true, false)], let s := (quad 1 0 false (if y.2.2 then 0 else 30)).modSpine (fun x =>
       { x with acc := BitVec.ofNat 104 ((64000 + y.1) * 2 ^ 34) })
     decide ((64000 : Int) + 128 ≤ s.oFloor 0 ∨ 0 + 1920 ≤ s.tickPos 0) = y.2.1) ∧
    ((quad 1 0 true 2).ory[(0 : Fin 4)].qwait = some ⟨1, false, ⟨64000, false, false, 0, 52⟩, true⟩ ∧ (quad 1 0 false 2).oZ 0 1 = false) ∧
    (quadPlace 2 + 4 - quadPlace 0) % 4 = 3 := by
  unfold oryTakes inputsOn; refine ⟨?_, ?_, ?_, ?_, ?_⟩ <;> decide +kernel

/-- A SINCOS track whose last sample had a phase, on 512 lines or on one. -/
def sampled (y : Sync) (phi lines : Nat) : State :=
  withOry (puts (track 3 y 0 7) [(F.ORYn_LINES_LINES 0, lines), (F.ORYn_SC_AMP_AMIN 0, 100), (F.ORYn_SC_AMP_AMAX 0, 5000)]) (fun o => { o with phi := phi })

/-- Whether a pair lies in the window, its phase, and how far that has moved. -/
def judged (s : State) (a b : BitVec 14) : Bool × Nat × Int :=
  (decide (s.ron F.PW_STAT_VDDA_OK = true ∧ s.rget (F.ORYn_SC_AMP_AMIN 0) * s.rget (F.ORYn_SC_AMP_AMIN 0) ≤ ampOf s 0 a b ∧
    ampOf s 0 a b ≤ s.rget (F.ORYn_SC_AMP_AMAX 0) * s.rget (F.ORYn_SC_AMP_AMAX 0)),
   phase12 (pairIn s 0 a b).1 (pairIn s 0 a b).2,
   halfRange ((phase12 (pairIn s 0 a b).1 (pairIn s 0 a b).2 : Int) - s.ory[(0 : Fin 4)].phi) 4096)

/-- Good samples in ACQ, of a track and of a single line; in REL: forwards in a line and past its end, backwards in it and past it, 3/8 of a line
and one count more; and one too weak, the 64th bad one in a row, and one too strong. -/
theorem test_witness_samples :
    (∀ n ∈ [1, 512], let s := sampled .acq 0 n
     oryTakes s ∧ s.oType 0 = 3 ∧ s.ory[(0 : Fin 4)].sync = .acq ∧ s.oSampleAt 0 = some 64000 ∧ (judged s 0 1000).1 = true ∧
      decide (s.oSteps 0 = 1) = decide (n = 1)) ∧
    (∀ x ∈ [(0, (10 : Int)), (4000, 106), (20, -10), (5, 5), (2570, 1536), (2569, 1537)],
      let s := sampled .rel x.1 512
      oryTakes s ∧ s.oType 0 = 3 ∧ s.ory[(0 : Fin 4)].sync = .rel ∧ s.oSampleAt 0 = some 64000 ∧ 1 < s.oSteps 0 ∧
        judged s 16 1000 = (true, 10, x.2)) ∧
    judged (sampled .rel 10 512) (-16) 1000 = (true, 4086, -20) ∧
    (let s := withOry (sampled .rel 0 512) (fun o => { o with bad := 63 })
     (judged s 0 99).1 = false ∧ (judged s 0 100).1 = true ∧ (judged s 0 5001).1 = false ∧ s.ory[(0 : Fin 4)].bad = 63) := by
  unfold oryTakes; refine ⟨?_, ?_, ?_, ?_⟩ <;> decide +kernel

theorem test_witness_tracks_and_standstill :
    (let s := track 3 .rel 0 7
     oryTakes s ∧ s.oType 0 = 3 ∧ s.ory[(0 : Fin 4)].sync ≠ .off ∧ s.oSampleAt 0 = some 64000 ∧ s.spine.hold = none ∧
      (puts s [(F.PW_STAT_VDDA_OK, 0)]).ron F.PW_STAT_VDDA_OK = false ∧ s.oInputOff 0 2 = false ∧ 0 < s.oSteps 0 ∧ s.oDead 0 2 (s.oStamp 0 2 0) = false ∧
      s.oClose 0 (s.oMarked 0 2 (s.oStamp 0 2 0)) = false ∧ s.ory[(0 : Fin 4)].sync = .rel) ∧
    ((puts (track 3 .rel 0 7) [(F.ORYn_SC_CFG_PH 0, 999)]).oSampleAt 0 = none) ∧
    (let s := track 3 .full 0 7
     s.ory[(0 : Fin 4)].sync = .full ∧ s.ory[(0 : Fin 4)].idxNet = none) ∧
    (let s := puts (track 2 .full 0 7) [(F.ORYn_MOTION_STILL_MS 0, 1)]
     oryTakes s ∧ s.oLastT 0 = some 60000 ∧ s.ory[(0 : Fin 4)].sync ≠ .off ∧
      (quad 1 0 false 0).oQuiet 0 64001 = false ∧ s.now < 60000 + s.rget (F.ORYn_MOTION_STILL_MS 0) * 1000000 * 64) ∧
    (∀ x ∈ [(track 2 .full 0 7, false), (wheel 60000 7, true)],
      let s := (puts x.1 [(F.ORYn_MOTION_STILL_MS 0, 1)]).modSpine (fun x => { x with acc := BitVec.ofNat 104 (64060000 * 2 ^ 34) })
      oryTakes s ∧ s.ory[(0 : Fin 4)].still = false ∧ s.oLastT 0 = some 60000 ∧ decide (s.oType 0 = 0) = x.2 ∧
        60000 + s.rget (F.ORYn_MOTION_STILL_MS 0) * 1000000 * 64 = s.now ∧ s.oQuiet 0 s.now = true) := by
  unfold oryTakes; refine ⟨?_, ?_, ?_, ?_, ?_⟩ <;> decide +kernel

/-- A command of `ORYn_CMD` waits since tick 0, in a tick. -/
def cmdWaits (s : State) (op tick : Nat) : State := (withOry s (fun o => { o with cmds := [(0, op)] })).modSpine (fun x => { x with tick := tick })

theorem test_witness_orrery_commands :
    (live.takesWrites = true ∧ live.locked 3 = false) ∧
    ((puts live [(F.GL_LOCK_DOMAINS, 8)]).takesWrites = true ∧ (puts live [(F.GL_LOCK_DOMAINS, 8)]).locked 3 = true) ∧
    (∀ op ∈ [0, 1, 2, 3], ∀ k ∈ [0, 1], (cmdWaits (wheel 0 3) op k).ory[(0 : Fin 4)].cmds = [(0, op)] ∧
      (cmdWaits (wheel 0 3) op k).ory[(0 : Fin 4)].camWait = none ∧ (cmdWaits (wheel 0 3) op k).spine.tick = k ∧
      atRest (cmdWaits (wheel 0 3) op k) 0 = true) ∧
    ((wheel 0 3).ory[(0 : Fin 4)].sync = .full ∧ (wheel 0 3).oType 0 = 0 ∧ (wheel 0 3).ory[(0 : Fin 4)].hist = ⟨0, 0, 1000, false, 10000⟩ :: []) ∧
    ((track 2 .off 0 0).ory[(0 : Fin 4)].sync = .off ∧ (track 2 .rel 0 0).ory[(0 : Fin 4)].sync ≠ .off ∧ (track 2 .rel 0 0).oType 0 = 2) ∧
    (let s := (puts (track 1 .rel 1 0) [(F.ORYn_IN_IN0 0, 1)]).modCh 1 (fun x => { x with inLvl := true })
     s.oType 0 = 1 ∧ (hallSector (s.oLevels 0).toNat).isSome = true) := by
  refine ⟨?_, ?_, ?_, ?_, ?_, ?_⟩ <;> decide +kernel

/-- Converter 0 with conversions queued and held, and its last hold. -/
def conv (q : List Conv) (h : List ConvHeld) (last : Option Nat) : State :=
  (puts live [(F.CV_CTRL_EN0, 1)]).modConv 0 (fun _ => ⟨q, h, last⟩)
def conv1 : Conv := ⟨3, 5, 64000, false, none, 0, none, false⟩
def held1 : ConvHeld := ⟨conv1, 0, false, false⟩

/-- Seven and eight conversions queued; a hold 200 ns after the last one, and one sub less; and indices at and beyond the write index. -/
theorem test_witness_converters :
    ((conv (List.replicate 7 conv1) [] none).takesWrites = true ∧ (conv (List.replicate 7 conv1) [] none).convRoom 0 1 = true) ∧
    ((conv (List.replicate 8 conv1) [] none).takesWrites = true ∧ (conv (List.replicate 8 conv1) [] none).convRoom 0 1 = false) ∧
    ((conv [conv1] [] (some 51200)).takesEvents = true ∧ (conv [conv1] [] (some 51200)).conv[(0 : Fin 2)].queue = conv1 :: [] ∧
      (conv [conv1] [] (some 51200)).convReady 0 = true) ∧
    ((conv [conv1] [] (some 51201)).convReady 0 = false) ∧
    ((conv [conv1] [] (some 51201)).convApart 0 = false ∧ conv1.due ≤ (conv [conv1] [] (some 51201)).now) ∧
    (let s := conv [{ conv1 with moved := true }] [] (some 51200)
     s.convReady 0 = true ∧ ({ conv1 with moved := true } : Conv).moved = true) ∧
    ((conv [] [held1] none).takesEvents = true ∧ (conv [] [held1] none).conv[(0 : Fin 2)].held = held1 :: []) ∧
    (let s := puts live [(F.CVBUFb_WRIDX_WRIDX 0, 4)]
     s.takesWrites = true ∧
      ¬ (s.rget (F.CVBUFb_WRIDX_WRIDX 0) + 2 ^ 32 - s.rget (F.CVBUFb_RDIDX_RDIDX 0)) % 2 ^ 32 < ((4 : Word).toNat + 2 ^ 32 - s.rget (F.CVBUFb_RDIDX_RDIDX 0)) % 2 ^ 32 ∧
      (s.rget (F.CVBUFb_WRIDX_WRIDX 0) + 2 ^ 32 - s.rget (F.CVBUFb_RDIDX_RDIDX 0)) % 2 ^ 32 < ((5 : Word).toNat + 2 ^ 32 - s.rget (F.CVBUFb_RDIDX_RDIDX 0)) % 2 ^ 32) := by
  refine ⟨?_, ?_, ?_, ?_, ?_, ?_, ?_, ?_⟩ <;> decide +kernel

/-! ### Rings -/

/-- Ring 2 is an event ring (or a command ring) in SRAM at 0x18_0000, that runs with a head and a tail. -/
def ring (dir head tail : Nat) : State :=
  puts live [(F.RINGn_CFG_EN 2, 1), (F.RINGn_CFG_DIR 2, dir), (F.RINGn_CFG_LOC 2, 1), (F.RINGn_BASE_LO_BASE_LO 2, 0x180000 / 512),
    (F.RINGn_HEAD_HEAD 2, head), (F.RINGn_TAIL_TAIL 2, tail)]
def rec1 : Rec := ⟨0x30, 0, 0, 64000, 0, 0, 0, 0, 0, 2⟩
def queued (s : State) : State := { s with recq := [rec1] }

/-- 15 and 16 entries of 16; a lost count; a stopped ring; one that is disabled; one in host memory that is out of reach. -/
theorem test_witness_record_writer :
    (let s := queued (ring 0 15 0)
     s.takesEvents = true ∧ s.recq = rec1 :: [] ∧ rec1.ring = (2 : Fin 64).val ∧ s.eventRing 2 = true ∧ s.ringStopped 2 = false ∧
      s.ringOnChip 2 = true ∧ s.rget (F.RINGn_LOSTCNT_CNT 2) = 0 ∧ s.ringFull 2 = false) ∧
    ((queued (ring 0 16 0)).ringFull 2 = true) ∧ ((puts (ring 0 0 0) [(F.RINGn_LOSTCNT_CNT 2, 1)]).rget (F.RINGn_LOSTCNT_CNT 2) ≠ 0) ∧
    ((puts (ring 0 0 0) [(F.RINGn_STAT_ERR 2, 2)]).ringStopped 2 = true) ∧ (live.eventRing 2 = false ∧ live.recq = []) ∧
    ((puts (ring 0 0 0) [(F.RINGn_CFG_LOC 2, 0)]).ringOnChip 2 = false ∧ live.hostOpen = false) := by
  refine ⟨?_, ?_, ?_, ?_, ?_, ?_⟩ <;> decide +kernel

theorem test_witness_ring_writes :
    (let s := ring 0 16 0
     s.takesWrites = true ∧ s.ringSize 2 = 16 ∧ (s.rget (F.RINGn_HEAD_HEAD 2) + 2 ^ 32 - (0 : Word).toNat) % 2 ^ 32 = 16 ∧
      (s.rget (F.RINGn_HEAD_HEAD 2) + 2 ^ 32 - (0xFFFFFFFF : Word).toNat) % 2 ^ 32 = 17 ∧
      (puts s [(F.RINGn_LOSTCNT_CNT 2, 1)]).rget (F.RINGn_LOSTCNT_CNT 2) ≠ 0 ∧ s.eventRing 2 = true ∧ s.ringStopped 2 = false ∧
      (s.rget (F.RINGn_HEAD_HEAD 2) + 2 ^ 32 - (1 : Word).toNat) % 2 ^ 32 < s.ringSize 2) ∧
    (let s := puts live [(F.RINGn_BASE_LO_BASE_LO 2, 0x180000 / 512)]
     s.takesWrites = true ∧ s.ron (F.RINGn_CFG_EN 2) = false ∧ s.locked 4 = false ∧ (s.ringCfgSet 2 (8 ||| 1)).ringFits 2 = true) ∧
    (let s := puts live [(F.RINGn_CFG_LOC 2, 1)]
     s.ron (F.RINGn_CFG_EN 2) = false ∧ s.locked 4 = false ∧ (s.ringCfgSet 2 (s.reg (R.RINGn_CFG 2) ||| 1)).ringFits 2 = false) ∧
    (let s := puts live [(F.RINGn_CFG_HIDX_EN 2, 1)]
     let new := s.ringCfgSet 2 (s.reg (R.RINGn_CFG 2) ||| 1)
     s.takesWrites = true ∧ s.ron (F.RINGn_CFG_EN 2) = false ∧ new.ringFits 2 = true ∧ new.ron (F.RINGn_CFG_HIDX_EN 2) = true ∧
      new.ringOnChip 2 = false ∧ s.hostOpen = false) ∧
    (let s := ring 0 0 0
     s.ron (F.RINGn_CFG_EN 2) = true ∧ s.locked 4 = false ∧ wfld (s.reg (R.RINGn_CFG 2)) 1 31 = wfld (s.reg (R.RINGn_CFG 2)) 1 31) ∧
    ((2 : Fin 64) ∉ (ring 0 0 0).hostRings ∧ (2 : Fin 64) ∈ (puts (ring 0 0 0) [(F.RINGn_CFG_LOC 2, 0)]).hostRings) := by
  refine ⟨?_, ?_, ?_, ?_, ?_, ?_⟩ <;> decide +kernel

/-- A command's words: OP, and the words after it. -/
def cmdw (op : Nat) (l : List Word) : Vector Word 8 := Vector.ofFn (fun i => if i.val = 0 then word (op * 2 ^ 16 + 7) else l.getD (i.val - 1) 0)

/-- Command ring 2 of a consumer, with one command fetched. -/
def fetched (cons op : Nat) (l : List Word) : State :=
  (puts (ring 1 0 0) [(F.RINGn_CFG_CONS 2, cons), (F.LH_CTRL_EN, 1), (F.RINGn_CFG_CPL 2, 3)]).modRing 2 (fun x => { x with fetched := [some (cmdw op l)] })

theorem test_witness_command_rings :
    ((ring 1 0 9).takesEvents = true ∧ (ring 1 0 9).fetches 2 = true ∧ (ring 1 0 9).ringCount 2 = 9 ∧ (ring 1 0 9).rings[(2 : Fin 64)].fetched.head? ≠ some none) ∧
    ((ring 1 4 4).ringCount 2 = 0 ∧ live.fetches 2 = false) ∧
    ((ring 1 0 1).fetches 2 = true ∧ (ring 1 0 1).ringOnChip 2 = true ∧ (ring 1 0 1).ringCount 2 = 1 ∧ nbit (1 : BitVec 8).toNat 0 = true ∧
      (ring 1 0 1).rings[(2 : Fin 64)].fetched = []) ∧
    (∀ op ∈ [0x20, 0x21, 0x23, 0x1F], fronts (fetched 0 op []) 2 (cmdw op []) [] ∧ cmdOp (cmdw op []) = op) ∧
    ((fetched 0 0x23 []).ringIllegalOp 2 0x23 = true ∧ (fetched 0 0x1F []).ringIllegalOp 2 0x1F = true ∧ (fetched 1 0x1F []).ringIllegalOp 2 0x1F = false) ∧
    ((ring 1 0 0).eventRing 3 = false ∧ (puts (ring 1 0 0) [(F.RINGn_CFG_EN 3, 1)]).eventRing 3 = true) := by
  unfold fronts; refine ⟨?_, ?_, ?_, ?_, ?_, ?_⟩ <;> decide +kernel

/-! ### The Lehr -/

/-- A Lehr that runs, standalone or in host memory, with entries near, in level 1, in level 2 and far, and its boundaries. -/
def lehr (standalone : Nat) (near : List LhEnt) (slots : List (Bool × LhEnt)) (pb l1b : Nat) : State :=
  ((puts live [(F.LH_CTRL_EN, 1), (F.LH_CTRL_MODE, standalone), (F.LH_POOL_SZ_LOG2, 10)]).modFn (fun f => { f with linkUp := true, bme := true })).modLehr (fun l =>
    { l with near := near, slots := slots, pb := pb, l1b := l1b })
def noLink (s : State) : State := s.modFn (fun f => { f with linkUp := false })
def lh1 (h : Nat) (dl : Int) : LhEnt := ⟨h, dl, 0, 0, h, false⟩

/-- The command ring of the Lehr, with one command at its front. -/
def lfetch (s : State) (op : Nat) (l : List Word) : State :=
  (puts s [(F.RINGn_CFG_EN 2, 1), (F.RINGn_CFG_DIR 2, 1), (F.RINGn_CFG_LOC 2, 1), (F.RINGn_CFG_CONS 2, 1), (F.LH_DESTd_WAKE_EN 0, 1)]).modRing 2
    (fun x => { x with fetched := [some (cmdw op l)] })

/-- ARM of a free handle; CANCEL and MOVE of one that is held; ARM of a handle beyond the pool; and the same while a host error stands, while a
record waits for a ring in host memory, and with the link down. -/
theorem test_witness_lehr_commands :
    (∀ op ∈ [0, 1, 4, 0x1F], fronts (lfetch (lehr 0 [] [] 0 0) op [5, 9]) 2 (cmdw op [5, 9]) [] ∧
      (lfetch (lehr 0 [] [] 0 0) op [5, 9]).rget (F.RINGn_CFG_CONS 2) = 1 ∧ cmdOp (cmdw op [5, 9]) = op) ∧
    ((lfetch (lehr 0 [] [] 0 0) 1 [5, 9]).lhJudge (cmdw 1 [5, 9]) = 0 ∧ (lfetch (lehr 0 [] [] 0 0) 1 [5, 9]).lhStalls (cmdw 1 [5, 9]) = false ∧
      (lfetch (lehr 0 [] [] 0 0) 1 [5, 9]).lhWaits = false) ∧
    ((lfetch (lehr 0 [] [] 0 0) 1 [1024, 9]).lhJudge (cmdw 1 [1024, 9]) = 2 ∧ (lfetch (lehr 0 [] [] 0 0) 1 [1023, 9]).lhJudge (cmdw 1 [1023, 9]) = 0) ∧
    (∀ op ∈ [2, 3], let s := lfetch (lehr 0 [lh1 5 9] [] 0 0) op [5, 20]
      fronts s 2 (cmdw op [5, 20]) [] ∧ s.lhJudge (cmdw op [5, 20]) = 0 ∧ s.lhWaits = false ∧ (s.lhAll.map (fun x => x.2.h)).Nodup ∧
      s.lhFind 5 = some (0, lh1 5 9)) ∧
    ((puts (lehr 0 [] [] 0 0) [(F.LH_STAT_HOSTERR, 1)]).lhWaits = true) ∧
    (let s := lfetch (lehr 0 [] [] 0 0) 1 [5, 9]
     s.lhNeedsHost (cmdw 1 [5, 9]) = true ∧ s.lhNeedsHost (cmdw 1 [1024, 9]) = false ∧ s.lhServed = true ∧ s.lhClosed = false ∧
      (noLink s).lhClosed = true ∧ (noLink s).lhServed = true ∧ (noLink s).lhNeedsHost (cmdw 1 [5, 9]) = true ∧
      ({ puts s [(F.RINGn_CFG_EN 3, 1)] with recq := [{ rec1 with ring := 3 }] } : State).lhServed = false) := by
  unfold fronts; refine ⟨?_, ?_, ?_, ?_, ?_, ?_⟩ <;> decide +kernel

/-- CANCEL and MOVE, standalone, of a handle whose near entry an ECC error has discarded. -/
def lostNear (op : Nat) : State := lfetch ((lehr 1 [] [] 0 0).modLehr (fun l => { l with lost := [lh1 5 9] })) op [5, 20]

theorem test_witness_lehr_lost : ∀ op ∈ [2, 3], fronts (lostNear op) 2 (cmdw op [5, 20]) [] ∧ cmdOp (cmdw op [5, 20]) = op ∧
    (lostNear op).rget (F.RINGn_CFG_CONS 2) = 1 ∧ (lostNear op).lhWaits = false ∧ (lostNear op).lhLost 5 = some (lh1 5 9) ∧
    (lostNear op).lhStandalone = true ∧ (lostNear op).lhJudge (cmdw op [5, 20]) = 3 := by unfold fronts; decide +kernel

/-- An ARM that needs near space where there is none: 65,536 entries are held near. -/
theorem test_witness_lehr_stalls :
    (lehr 0 (List.replicate 65536 (lh1 5 9)) [] 8192 0).nearRoom = false ∧
    (lehr 0 (List.replicate 65536 (lh1 5 9)) [] 8192 0).lhPlaceOf 4097 = 0 := by
  constructor
  · simp only [lehr, State.nearRoom, State.modLehr, List.length_replicate, nearSize, lt_self_iff_false, decide_false, Bool.or_false]
    decide +kernel
  · simp only [lehr, State.lhPlaceOf, State.modLehr]; decide

/-- An ARM, and a prefetch of one entry, that fill the near cache of the host mode. -/
theorem test_witness_lehr_fills :
    (let s := lfetch (lehr 0 (List.replicate 65535 (lh1 5 9)) [] 8192 0) 1 [7, 9]
     s.lehr.near.length + 1 = nearSize ∧ s.lhStandalone = false ∧ s.lehr.nearFull = false ∧ s.lhPlaceOf 9 = 0) ∧
    (let s := lehr 0 (List.replicate 65535 (lh1 5 9)) [(false, lh1 6 4097)] 4096 (2 ^ 24)
     s.lehr.near.length = 65535 ∧ (s.lhSlotList false 1).length = 1 ∧ s.lehr.nearFull = false) ∧
    (let s := lehr 0 (List.replicate 65536 (lh1 5 9)) [(false, lh1 6 4097)] 4096 (2 ^ 24)
     s.lehr.near.length = 65536 ∧ (s.lhSlotList false 1) ≠ []) := by
  refine ⟨⟨?_, by decide +kernel, by decide +kernel, by decide +kernel⟩, ⟨?_, by decide +kernel, by decide +kernel⟩, ?_, by decide +kernel⟩ <;>
    simp only [lehr, lfetch, puts, List.foldl, State.modLehr, State.modRing, State.rput, State.setReg, List.length_replicate, nearSize]

/-- So many µs after the spine began to count. -/
def lateUs (n : Nat) (s : State) : State := s.modSpine (fun x => { x with acc := BitVec.ofNat 104 (n * 1000 * 2 ^ 40) })

/-- A step has skipped level-2 window 1 and the prefetch of its first window: the cascade waits for that. -/
theorem test_witness_lehr_skipped :
    let s := lateUs (2 ^ 25) (lehr 1 [] [] 4096 (2 ^ 24))
    s.lehr.l1b ≤ s.lhNow + s.rget F.LH_CASC_LEAD * 4096 ∧ s.lehr.pb ≤ s.lhNow + s.lhPF * 4096 ∧ s.lehr.pb < s.lehr.l1b ∧ s.lehr.l1b ≤ s.lhNow := by
  decide +kernel

/-- An entry that is due, with an event ring, 2^32 ns late or more, and less. -/
theorem test_witness_lehr_fires :
    ∀ x ∈ [(4294969, true), (4294968, false)], let s := lateUs x.1 (puts (lehr 0 [lh1 5 1] [] 0 0) [(F.LH_DESTd_RING_EN 0, 1), (F.LH_DESTd_RING 0, 2)])
      s.ron F.LH_CTRL_EN = true ∧ s.spine.hold = none ∧ (lh1 5 1) ∈ s.lehr.near ∧ (lh1 5 1).dl ≤ (s.lhNow : Int) ∧
      s.ron (F.LH_DESTd_RING_EN 0) = true ∧ s.ron (F.RINGn_CFG_DIR (s.rget (F.LH_DESTd_RING 0))) = false ∧
      decide (2 ^ 32 ≤ (((s.now : Int) - (lh1 5 1).dl * 64000) / 64).toNat) = x.2 := by decide +kernel

/-- N is 1 µs, and PF is 1: window 1 is prefetched from the start, window 2 only at 4,096 µs. -/
theorem test_witness_lehr_time :
    (let s := lehr 0 [] [(false, lh1 5 4097)] 4096 (2 ^ 24)
     s.takesEvents = true ∧ s.ron F.LH_CTRL_EN = true ∧ s.lehr.pb ≤ s.lhNow + s.lhPF * 4096 ∧ s.lhWaits = false ∧ s.lhServed = true ∧
      s.lhClosed = false ∧ (noLink s).lhClosed = true ∧ (noLink s).lhServed = true ∧ ¬ s.lehr.l1b ≤ s.lehr.pb ∧
      s.lehr.near.length + ((s.lhSlotList false (1 % 4096)).filter (fun e => decide (e.dl < (((1 + 1) * 4096 : Nat) : Int)))).length ≤ nearSize) ∧
    (let s := lehr 0 [] [] 8192 (2 ^ 25)
     ¬ s.lehr.pb ≤ s.lhNow + s.lhPF * 4096 ∧ ¬ s.lehr.l1b ≤ s.lhNow + s.rget F.LH_CASC_LEAD * 4096) ∧
    (let s := lehr 1 [] [(true, lh1 5 4097)] 4096 0
     s.lehr.l1b ≤ s.lhNow + s.rget F.LH_CASC_LEAD * 4096 ∧ s.lhWaits = false ∧ s.lhStandalone = true ∧ ¬ s.lehr.pb < s.lehr.l1b ∧
      s.lehr.far = [] ∧ s.lhServed = true ∧ s.lhClosed = false) ∧
    (let s := (lehr 1 [] [] 4096 0).modLehr (fun l => { l with far := [lh1 5 (2 ^ 36 - 1), lh1 6 (2 ^ 36)] })
     (s.lehr.far.map LhEnt.h).Nodup ∧
      s.lehr.far.dropWhile (fun e => decide (e.dl < (((0 / 2 ^ 24 + 1 + 4095) * 2 ^ 24 : Nat) : Int))) = [lh1 6 (2 ^ 36)]) ∧
    ((∀ e ∈ (lehr 0 [lh1 5 2] [] 0 0).lehr.near, ((lehr 0 [lh1 5 2] [] 0 0).lhNow : Int) < e.dl) ∧
      (∃ e ∈ (lehr 0 [lh1 5 1] [] 0 0).lehr.near, e.dl ≤ ((lehr 0 [lh1 5 1] [] 0 0).lhNow : Int)) ∧ (lehr 0 [lh1 5 1] [] 0 0).spine.hold = none) ∧
    (let s := (lfetch (lehr 0 [] [] 4096 0) 1 [5, 9]).modLehr (fun l => { l with stall := some 2 })
     s.lehr.stall = some (2 : Fin 64).val ∧ s.ron F.LH_CTRL_EN = true ∧ s.nearRoom = true ∧ s.lhWaits = false ∧ s.lhServed = true ∧
      s.rings[(2 : Fin 64)].fetched = some (cmdw 1 [5, 9]) :: []) ∧
    (wfld (0x10001 : Word) 16 16 &&& 0xE = 0 ∧ (lehr 0 [] [] 0 0).takesWrites = true ∧ live.ron F.LH_CTRL_EN = false) ∧
    (let s := lehr 0 [] [] 0 0
     s.ron F.LH_CTRL_EN = true ∧ s.lhStandalone = false ∧ s.ron F.LH_STAT_HOSTERR = false) := by
  refine ⟨?_, ?_, ?_, ?_, ?_, ?_, ?_, ?_⟩ <;> decide +kernel

/-! ### The event controller -/

/-- A source with a state, and its EC_TGT word. -/
def src (n : Nat) (x : EcSrc) : State := live.setEcSrc n x

theorem test_witness_event_controller :
    (let s := src 600 { EcSrc.reset with pend := true, asg := some 3 }
     s.powered = true ∧ s.frozen = false ∧ s.ecAssigned (3 : Fin 8) = 600 :: [] ∧ s.ecAssigned (4 : Fin 8) = []) ∧
    (let s := src 600 { EcSrc.reset with act := true, claimed := 3 }
     s.takesWrites = true ∧ wfld (600 : Word) 0 10 = 600 ∧ (s.ecSrc 600).act = true ∧ (s.ecSrc 600).claimed = (3 : Fin 8).val ∧
      (s.ecSrc 600).claimed ≠ (4 : Fin 8).val ∧ (s.ecSrc 601).act = false ∧ wfld (1023 : Word) 0 10 = 1023) ∧
    (∀ n ∈ [512, 1022], wfld (word n) 0 10 = n ∧ ecExists n = true ∧ (live.ecSrc n).act = false ∧ live.ecStill = false) ∧
    (∀ n ∈ [511, 1023], wfld (word n) 0 10 = n ∧ ecExists n = false) ∧
    ((puts live [(F.EC_CTRL_LATCH_P, 1)]).ecStill = true ∧ (puts live [(F.EC_CTRL_LATCH_P, 1)]).ecLatched = true) ∧
    (wfld ((src 600 { EcSrc.reset with tgt := 0x100 }).ecSrc 600).tgt 8 1 = 1) ∧
    ((live.setHeld .pcie R.EC_IDX 600).takesWrites = true ∧ (live.setHeld .pcie R.EC_IDX 600).locked 5 = false ∧
      ecExists (wfld ((live.setHeld .pcie R.EC_IDX 600).heldWord .pcie R.EC_IDX) 0 10) = true ∧
      (puts live [(F.GL_LOCK_DOMAINS, 32)]).locked 5 = true) := by
  refine ⟨?_, ?_, ?_, ?_, ?_, ?_, ?_⟩ <;> decide +kernel

/-- A latch of 100 µs, and of one sub less; and a function in D3 with a source assigned to an MSI-X target. -/
theorem test_witness_latch_and_d0 :
    (let s := (puts live [(F.EC_CTRL_LATCH_P, 1)]).modSpine (fun x => { x with acc := BitVec.ofNat 104 (6400000 * 2 ^ 34) })
     s.takesEvents = true ∧ s.ron F.EC_CTRL_LATCH_P = true ∧ s.ec.latchP + 6400000 ≤ s.now) ∧
    (let s := (puts live [(F.EC_CTRL_LATCH_P, 1)]).modSpine (fun x => { x with acc := BitVec.ofNat 104 (6399999 * 2 ^ 34) })
     s.now < s.ec.latchP + 6400000 ∧ s.ron F.EC_CTRL_LATCH_S = false) ∧
    (let s := (src 600 { EcSrc.reset with pend := true, asg := some 3 }).modFn (fun f => { f with linkUp := true, msixEn := true, d3 := true, table := [(60, 0)] })
     s.powered = true ∧ s.fn.d3 = true ∧ s.rget (F.EC_TCFGt_KIND 3) = 0 ∧ s.ecAssigned (3 : Fin 8) ≠ [] ∧ s.fn.linkUp = true ∧ s.fn.msixEn = true ∧
      s.vecMasked 3 = false ∧ (puts s [(F.FRZ_STAT_REQ_CMD, 1)]).powered = true ∧ (puts s [(F.FRZ_STAT_REQ_CMD, 1)]).frozen = true) := by
  refine ⟨?_, ?_, ?_⟩ <;> decide +kernel

/-! ### Ewerlink -/

/-- Port 1 in a state and a role; the node has joined with ID 9; its parent is port 0. -/
def port (st role : Nat) : State :=
  puts live [(F.EL_CTRL_EN, 1), (F.ELp_STAT_STATE 1, st), (F.ELp_STAT_ROLE 1, role), (F.EL_STAT_HASPARENT, 1), (F.EL_STAT_IDSTATE, 2),
    (F.EL_ID_HELD, 9), (F.EL_ID_HELD_V, 1), (F.ELp_STAT_STATE 0, 3), (F.ELp_STAT_ROLE 0, 1), (F.PW_STAT_VDDL_OK, 1)]
def onPort (s : State) (f : ElPort → ElPort) : State := s.modPort 1 f
/-- So many ns after the spine began to count. -/
def late (t : Nat) (s : State) : State := s.modSpine (fun x => { x with acc := BitVec.ofNat 104 (t * 2 ^ 40), tick := t })
def bcn1 : ElBcn := ⟨0, 0, 0, 0, 3, 7, 0, 0, true, false⟩

/-- The hold-off of 10 ms and the 3 ms without a beacon, at their ends and one tick before. -/
theorem test_witness_ports :
    ((port 1 0).takesEvents = true ∧ (port 1 0).elState 1 = 1 ∧ (port 1 0).ron (F.ELp_STAT_HOLDOFF 1) = false ∧ (port 1 0).ron F.PW_STAT_VDDL_OK = true) ∧
    ((port 0 0).elState 1 = 0 ∧ hasLock (port 2 0) 1 ∧ hasLock (port 3 0) 1 ∧ ¬ hasLock (port 1 0) 1) ∧
    (let s := puts (late 10000000 (port 1 0)) [(F.ELp_STAT_HOLDOFF 1, 1)]
     s.ron (F.ELp_STAT_HOLDOFF 1) = true ∧ s.el.ports[(1 : Fin 4)].downAt + 10000000 = s.spine.tick ∧
      (late 9999999 s).spine.tick < s.el.ports[(1 : Fin 4)].downAt + 10000000) ∧
    (let s := onPort (late 3000000 (port 3 2)) (fun q => { q with bcn := some bcn1 })
     s.takesEvents = true ∧ s.elState 1 = 3 ∧ s.el.ports[(1 : Fin 4)].bcnAt + 3000000 = s.spine.tick ∧ s.el.ports[(1 : Fin 4)].bcn.isSome = true ∧
      (late 2999999 s).spine.tick < s.el.ports[(1 : Fin 4)].bcnAt + 3000000 ∧ (late 3000001 s).el.ports[(1 : Fin 4)].bcnAt + 3000000 < (late 3000001 s).spine.tick) ∧
    (let s := puts (onPort (late 3000001 (port 3 2)) (fun q => { q with bcn := some bcn1, bcnAt := 1 })) [(F.ELp_STAT_CAND 1, 1)]
     s.ron (F.ELp_STAT_CAND 1) = true ∧ s.el.ports[(1 : Fin 4)].rseqAt + 3000000 < s.spine.tick) ∧
    ((port 3 2).takesWrites = true ∧ (port 3 2).locked 7 = false ∧ (port 3 2).ron F.EL_CTRL_EN = true ∧ live.ron F.EL_CTRL_EN = false ∧
      nbit (0x02000000 : Word).toNat (24 + 1) = true ∧ nbit (0x02000000 : Word).toNat (8 + 1) = false ∧ (puts live [(F.GL_LOCK_DOMAINS, 128)]).locked 7 = true) := by
  unfold hasLock; refine ⟨?_, ?_, ?_, ?_, ?_, ?_⟩ <;> decide +kernel

/-- A header whose frame arrives as it was sent, and one in whose place other bytes arrive. -/
def head (src dst : Fin 1024) : FrameHead := ⟨none, src, 0, dst, false⟩
def changed (src dst : Fin 1024) (bs : List Byte) : FrameHead := { head src dst with wire := some bs }
def beacon1 (depth : Fin 32) : Beacon := ⟨0, 0, 0, 0, 0, depth, 8, 0, true, false⟩
def msg1 : ElMsg := ⟨9, 0, 4, false, .doorbell 600 0⟩
def beacon1Out : ElOut := .beacon (bcnOf (head 5 0) (beacon1 3))

/-- A frame whose bytes have a false CRC, a MAILBOX without data, and frames of each kind of body that fit. -/
theorem test_witness_frames :
    ((Instr.beaconReceive 1 (changed 5 0 []) (beacon1 3) 0, .beacon (bcnOf (changed 5 0 []) (beacon1 3))) ∈
        frameRows 1 (changed 5 0 []) (beacon1 3) 0 0 0 0 0 0 0 false [] [] ∧
      (port 3 2).takesEvents = true ∧ hasLock (port 3 2) 1 ∧ (changed 5 0 []).wire = some [] ∧ frameFrom [] = none ∧ ¬ hasLock (port 1 0) 1) ∧
    frameFrom ((frameWire 5 beacon1Out).map (fun b => b ^^^ 1)) = none ∧
    ((Instr.mailboxFrame 1 (head 5 9) 0 [], .untimed (heard (head 5 9) (.mailbox 0 []))) ∈ frameRows 1 (head 5 9) (beacon1 3) 0 0 0 0 0 0 0 false [] []) ∧
    (let s := onPort (port 3 2) (fun q => { q with queue := [msg1] })
     s.el.ports[(1 : Fin 4)].resp = none ∧ s.el.ports[(1 : Fin 4)].queue ≠ [] ∧ s.elTree 1 = true ∧
      (∀ m ∈ s.el.ports[(1 : Fin 4)].queue, lineTakes s 1 (bodySymbols m.body)) ∧
      (∀ m ∈ s.el.ports[(1 : Fin 4)].queue, ¬ lineTakes (onPort s (fun q => { q with busy := 1 })) 1 (bodySymbols m.body)) ∧
      (puts s [(F.ELp_STAT_ROLE 1, 3)]).elTree 1 = false) ∧
    (∀ f : FrameHead, ∀ b : Beacon, sizeFits (.beacon (bcnOf f b))) ∧
    ¬ sizeFits (.untimed (heard (head 5 9) (.mailbox 0 []))) ∧
    (let s := onPort (port 3 2) (fun q => { q with resp := some (64, 3) })
     s.el.ports[(1 : Fin 4)].resp = some (64, 3) ∧ hasLock s 1 ∧ lineTakes s 1 22 ∧ ¬ lineTakes (late 1900 s) 1 22) := by
  refine ⟨?_, ?_, ?_, ?_, ?_, ?_, ?_⟩
  · unfold hasLock; decide +kernel
  · decide +kernel
  · decide +kernel
  · unfold lineTakes; decide +kernel
  · intro f b m h; cases h
  · intro h; exact absurd (h _ rfl).2 (by simp [heard])
  · unfold lineTakes hasLock; decide +kernel

/-- R324: the check value of CRC-32C in the catalogues: the CRC of the bytes of "123456789". -/
theorem test_crc : crcOf [0x31, 0x32, 0x33, 0x34, 0x35, 0x36, 0x37, 0x38, 0x39] = 0xE3069283 := by decide +kernel

/-- R264, R265: DOORBELL 600 (0x258), MID 7, from node 9 to node 4 with CONF: VER 1 and TYPE 8, flags, SRC, DST, number, MID; then the CRC. -/
theorem test_frame_bytes :
    frameBody 0 (.untimed ⟨9, 0, 4, true, .doorbell 600 7⟩) = [0x18, 0x02, 0x09, 0x00, 0x04, 0x00, 0x58, 0x02, 0x07] ∧
    frameFrom (frameWire 0 (.untimed ⟨9, 0, 4, true, .doorbell 600 7⟩)) = some (.untimed ⟨9, 0, 4, true, .doorbell 600 7⟩) ∧
    frameFrom (frameWire 5 beacon1Out) = some beacon1Out := by decide +kernel

/-- Port 1 sends at 2 µs past each ms; a request that is due 100 µs after its beacon; a response missing for 1 ms. -/
theorem test_witness_timed_frames :
    (let s := late 2000 (port 3 2)
     s.takesEvents = true ∧ s.elHasRoot = true ∧ hasLock s 1 ∧ s.spine.hold = none ∧ s.el.ports[(1 : Fin 4)].busy ≤ s.spine.tick ∧ s.now ≤ 128000 ∧
      128000 < s.now + 64000000 ∧ 128000 < s.tAhead 1 ∧ 128000 % 64000000 = 128000 * (1 : Fin 4).val ∧ s.el.ports[(1 : Fin 4)].lastBcn ≠ some 128000 ∧
      s.spine.tick < (onPort s (fun q => { q with busy := 2001 })).el.ports[(1 : Fin 4)].busy) ∧
    (live.elHasRoot = false ∧ live.ron F.EL_STAT_TOO_DEEP = false) ∧
    ((head 5 0).wire = none ∧ (beacon1 15).depth.val < 16 ∧ 16 ≤ (beacon1 16).depth.val ∧ (port 3 2).el.ports[(1 : Fin 4)].bcn = none ∧
      (port 3 2).rget F.SPN_CTRL_MODE ≠ 1) ∧
    (let s := onPort (late 3000 (port 3 2)) (fun q => { q with reqDue := true })
     s.el.ports[(1 : Fin 4)].reqDue = true ∧ s.elState 1 = 3 ∧ s.spine.hold = none ∧
      s.spine.tick + (s.elT3 1 - s.now + 63) / 64 ≤ s.el.ports[(1 : Fin 4)].bcnAt + 100000 ∧
      s.el.ports[(1 : Fin 4)].bcnAt + 100000 < (late 100001 s).spine.tick + ((late 100001 s).elT3 1 - (late 100001 s).now + 63) / 64) ∧
    (((port 3 2).stampAt 0).2 = false ∧ (port 3 2).el.ports[(1 : Fin 4)].mark = false ∧ lineTakes (port 3 2) 1 22 ∧ ¬ lineTakes (late 1900 (port 3 2)) 1 22) ∧
    (let s := onPort (late 1000000 (port 3 2)) (fun q => { q with req := some ⟨4, 0, some 100, 0, 0⟩ })
     s.el.ports[(1 : Fin 4)].req = some ⟨4, 0, some 100, 0, 0⟩ ∧ 0 + 1000000 ≤ s.spine.tick ∧ s.spine.stepTick = none ∧ s.el.ports[(1 : Fin 4)].samples.length < 16 ∧
      (4 : Nat) = (4 : BitVec 8).toNat) := by
  unfold hasLock lineTakes; refine ⟨?_, ?_, ?_, ?_, ?_, ?_⟩ <;> decide +kernel

/-- A node that follows its parent, port 0: the servo in a state, with one delay sample of 0 subs, and a step threshold of 1,000 ns. -/
def servo (st : Nat) (acq : Option (Nat × Nat)) : State :=
  ((puts (port 3 2) [(F.SPN_CTRL_MODE, 1), (F.EL_STAT_SERVO, st), (F.EL_SRV_STEP_STEP, 1000)]).modPort 0 (fun q => { q with samples := [0] })).modEl
    (fun e => { e with acq := acq })

/-- The servo off; ACQ at its two beacons; TRACK and LOCK, where θ reaches the step threshold, passes it on either side, and reaches 2^31 ns. -/
theorem test_witness_servo :
    (port 3 2).servoOff = true ∧
    (∀ a ∈ [none, some (64000, 64000)], (servo 1 a).servoOff = false ∧ (servo 1 a).rget F.EL_STAT_SERVO = 1 ∧ (servo 1 a).el.skip = false ∧
      (servo 1 a).el.acq = a) ∧
    (∀ st ∈ [2, 3], let s := servo st none
      s.servoOff = false ∧ s.rget F.EL_STAT_SERVO = st ∧ s.el.skip = false ∧ s.el.ports[(0 : Fin 4)].samples ≠ [] ∧ s.spine.pend = none ∧
      (∀ i < 8, s.apValid i = false) ∧
      ∀ x ∈ [((64000 : Int), false, false), (64001, true, false), (-64001, true, false), (2 ^ 37, true, true)],
        decide (((s.reg R.EL_SRV_STEP).toNat : Int) * 64 * s.elDelayDen 0 < (s.thetaNum 0 x.1).natAbs) = x.2.1 ∧
        decide ((2 ^ 37 : Int) * s.elDelayDen 0 ≤ s.thetaNum 0 x.1) = x.2.2) ∧
    (late 10 (port 2 2)).takesEvents = true ∧ hasLock (port 2 2) 1 ∧ (port 2 2).elState 1 = 2 := by
  unfold hasLock; refine ⟨?_, ?_, ?_, ?_, ?_, ?_⟩ <;> decide +kernel

/-- R277: a request that the line carries before the beacon at 2,000 ns leaves at 1,002 ns; one due at 1,900 ns would run into that beacon, and leaves
880 ns after its start. -/
theorem test_request_avoids_the_beacon :
    (late 1001 (port 3 2)).elT3 1 = 64 * 1002 ∧ (late 1900 (port 3 2)).elT3 1 = 64 * 2880 := by decide +kernel

/-- A child port that knows node 4; a JOIN that this node has sent; a broadcast that it has seen. -/
def tree (s : State) (f : Ewer → Ewer) : State := s.modEl f

theorem test_witness_tree_frames :
    ((port 3 2).takesEvents = true ∧ (port 3 2).elTree 1 = true ∧ (port 3 2).elRole 1 = 2 ∧ (4 : Fin 1024).val ≠ (port 3 2).elOwnId ∧
      (9 : Fin 1024).val = (port 3 2).elOwnId ∧ tblFind (port 3 2).el.table 4 = none) ∧
    (let s := tree (port 3 2) (fun e => { e with table := [(4, ⟨1, 77⟩)] })
     tblFind s.el.table 4 = some ⟨1, 77⟩ ∧ (77 : Nat) ≠ (78 : BitVec 64).toNat ∧ s.elTabPort 4 = some 1 ∧ s.elTabPort 5 = none) ∧
    (let s := tree (puts (port 3 2) [(F.EL_STAT_IDSTATE, 1)]) (fun e => { e with joinId := 9 })
     s.rget F.EL_STAT_IDSTATE = 1 ∧ s.el.joinId = (9 : Fin 1024).val ∧ s.elUid = (0 : BitVec 64).toNat) ∧
    (let s := tree (port 3 2) (fun e => { e with seen := [(5, 6, 64000)] })
     s.elSeen 5 6 = true ∧ s.elSeen 5 7 = false ∧ s.apValid 0 = false ∧ (2000 : Nat) * 64 < 2 ^ 37 + s.now) ∧
    ((port 3 2).elMine 9 = true ∧ (port 3 2).elMine 4 = false ∧ (port 3 2).elUid = (0 : BitVec 64).toNat ∧ (port 3 2).elUid ≠ (1 : BitVec 64).toNat ∧
      (port 3 2).linkMatch 600 5 = false ∧ (port 3 2).ecStill = false ∧ ((port 3 2).ecSrc 512).act = false ∧ ((port 3 2).ecSrc 1022).act = false) ∧
    ((puts (port 3 2) [(F.PW_LINKRST_EN, 1), (F.PW_LINKRST_SRC, 600)]).linkMatch 600 5 = true) ∧
    (let s := tree (port 3 2) (fun e => { e with confs := [⟨3, 4, 11, 0⟩] })
     ∃ c ∈ s.el.confs, c.mid = (3 : BitVec 8).toNat ∧ c.dst = (4 : Fin 1024).val ∧ c.type = (11 : BitVec 8).toNat) := by
  refine ⟨?_, ?_, ?_, ?_, ?_, ?_, ?_⟩ <;> decide +kernel

/-- A JOIN and a delivery that have been awaited for 10 ms, and for one tick less. -/
theorem test_witness_tree_timeouts :
    (let s := puts (late 10000000 (port 3 2)) [(F.EL_STAT_IDSTATE, 1)]
     s.takesEvents = true ∧ s.rget F.EL_STAT_IDSTATE = 1 ∧ s.el.joinAt + 10000000 ≤ s.spine.tick ∧ s.elParent = some 0 ∧ s.el.ports[(0 : Fin 4)].queue.length < 16) ∧
    ((late 9999999 (port 3 2)).spine.tick < (port 3 2).el.joinAt + 10000000) ∧
    (let s := tree (late 10000000 (port 3 2)) (fun e => { e with confs := [⟨3, 4, 11, 0⟩] })
     ∃ c ∈ s.el.confs, c.mid = (3 : BitVec 8).toNat ∧ c.t + 10000000 ≤ s.spine.tick) ∧
    (let s := tree (late 9999999 (port 3 2)) (fun e => { e with confs := [⟨3, 4, 11, 0⟩] })
     ∀ c ∈ s.el.confs, c.mid = (3 : BitVec 8).toNat → s.spine.tick < c.t + 10000000) := by
  refine ⟨?_, ?_, ?_, ?_⟩ <;> decide +kernel

/-- The command ring of Ewerlink, with commands fetched. -/
def efetch (op : Nat) (l : List Word) (rest : List CmdWords) : State :=
  (puts (port 3 2) [(F.RINGn_CFG_EN 2, 1), (F.RINGn_CFG_DIR 2, 1), (F.RINGn_CFG_LOC 2, 1), (F.RINGn_CFG_CONS 2, 2)]).modRing 2
    (fun x => { x with fetched := some (cmdw op l) :: rest })

/-- DOORBELL at the ends of its range; MAILBOX of 24 and 25 bytes, alone, with a continuation, and with another command behind; APPLY_AT
2^31 ns ahead, and beyond. -/
theorem test_witness_ewerlink_commands :
    (∀ op ∈ [1, 2, 3, 4, 5, 0x1F], elFront (efetch op [] []) 2 (cmdw op []) [] op) ∧
    ((efetch 1 [] []).elJoined = true ∧ (puts (efetch 1 [] []) [(F.EL_STAT_IDSTATE, 0)]).elJoined = false ∧
      dbRefused 512 = false ∧ dbRefused 1022 = false ∧ dbRefused 511 = true ∧ dbRefused 1023 = true ∧ (efetch 1 [] []).elMine (wfld (9 : Word) 0 10) = true) ∧
    (wfld ((cmdw 2 [word (24 * 65536)])[1]) 16 6 = 24 ∧ wfld ((cmdw 2 [word (25 * 65536)])[1]) 16 6 = 25) ∧
    (elFront (efetch 2 [word (25 * 65536)] [some (cmdw 3 [])]) 2 (cmdw 2 [word (25 * 65536)]) (some (cmdw 3 []) :: []) 2 ∧ cmdOp (cmdw 3 []) = 3 ∧
      cmdOp (cmdw 1 []) ≠ 3) ∧
    (wfld ((cmdw 4 [word (3 * 2 ^ 24)])[1]) 24 8 ≠ 0 ∧ (((2 ^ 31 + 1000 : Nat) : Int) - (efetch 4 [] []).nowNs).natAbs ≤ 2 ^ 31 ∧
      2 ^ 31 < (((2 ^ 31 + 1001 : Nat) : Int) - (efetch 4 [] []).nowNs).natAbs ∧ (efetch 4 [] []).elTree 1 = true ∧
      (efetch 4 [] []).el.ports[(1 : Fin 4)].queue.length < 16 ∧ (efetch 4 [] []).apValid 0 = false) ∧
    ((port 3 2).takesWrites = true ∧ (port 3 2).locked 7 = false ∧ (port 3 2).elParent.isSome = true ∧
      (puts live [(F.GL_LOCK_DOMAINS, 128)]).takesWrites = true ∧ (puts live [(F.GL_LOCK_DOMAINS, 128)]).locked 7 = true) := by
  unfold elFront fronts; refine ⟨?_, ?_, ?_, ?_, ?_, ?_⟩ <;> decide +kernel


/-! ### Staging, strobes, host accesses -/

/-- A pending entry 0 of group 3, due at 1,000 ns, and one of groups 0 and 1 at 1,001 ns. -/
def entries : State := (((puts live [(F.AP_PENDi_INFO_VALID 0, 1), (F.AP_PENDi_INFO_GROUPS 0, 8), (F.AP_PENDi_INFO_VALID 1, 1),
  (F.AP_PENDi_INFO_GROUPS 1, 3)]).setReg (R.AP_PENDi_LO 0) 1000).setReg (R.AP_PENDi_LO 1) 1001)

def full : State := puts live ((List.range 8).map (fun i => (F.AP_PENDi_INFO_VALID i, 1)))

/-- A held AT operand at the last time that is taken, 2^31 ns and 1,000 ns, less one; and one further. -/
def at31 (extra : Nat) : State := live.modPath .pcie (fun q => { q with held := [(R.AP_AT_LO, word (2 ^ 31 + 1000 + extra))] })

theorem test_witness_apply :
    (live.takesEvents = true ∧ live.takesWrites = true ∧ live.powered = true) ∧
    (let s := { live with staged := [(R.CHc_PIN 0, 3)], calS := [(0x40, 9)] }
     tblSorted s.staged = true ∧ tblSorted s.calS = true ∧ s.spine.pend = none ∧ nbit 255 (s.groupOf (R.CHc_PIN 0)) = true ∧
     nbit 255 (s.calGroup 0x40) = true) ∧
    (entries.apValid 2 = false ∧ (∀ j : Fin 8, j < 2 → entries.apValid j = true) ∧ (2 ^ 31 + 999) * 64 < 2 ^ 37 + entries.now ∧
      2 ^ 37 + entries.now ≤ (2 ^ 31 + 1000) * 64) ∧
    (∀ j : Fin 8, full.apValid j = true) ∧
    (entries.rget (F.AP_PENDi_INFO_GROUPS 0) &&& (255 - 8) = 0 ∧ entries.rget (F.AP_PENDi_INFO_GROUPS 1) &&& (255 - 1) ≠ 0) ∧
    (entries.apDue 0 = true ∧ entries.apDue 1 = false ∧ entries.spine.hold = none ∧ entries.takesEvents = true) ∧
    ((holding 1 0).spine.hold ≠ none ∧ ∀ i : Fin 8, live.apDue i = false) := by
  refine ⟨?_, ?_, ?_, ?_, ?_, ?_, ?_⟩ <;> decide +kernel

/-- An APPLY waits, before the entries at 1,000 ns and 1,001 ns, which the next tick reaches, and one at 1,002 ns, which it does not. -/
def requests : State :=
  let s := (puts entries [(F.AP_PENDi_INFO_VALID 2, 1), (F.AP_PENDi_INFO_GROUPS 2, 16)]).setReg (R.AP_PENDi_LO 2) 1002
  { s with ap := { s.ap with reqs := [.apply 0x40 1] }, staged := [(R.CHc_PIN 0, 3)] }

theorem test_witness_strobes :
    (requests.takesEvents = true ∧ requests.spine.counting = true ∧ requests.spine.pend = none ∧ requests.hif.slow = [] ∧ requests.spine.slew = none ∧
      requests.pending = [] ∧ requests.ap.reqs = [.apply 0x40 1] ∧ requests.ap.reqs ≠ []) ∧
    ((List.range 4).map (strobesNext requests) = [true, true, false, false] ∧ nextMask requests 0 = 0x4B ∧ nextMask live 0 = 0) ∧
    (tblSorted requests.staged = true ∧ waitsBlock (R.CHc_PIN 0) = false ∧ stBits (R.CHc_PIN 0) ≠ 0) ∧
    ((live.ap.reqs = [] ∧ ∀ i < 8, strobesNext live i = false) ∧ (2 ^ 37 + live.now ≤ (2 ^ 31 + 1000) * 64) ∧ ¬ (2 ^ 37 + live.now ≤ (2 ^ 31 + 999) * 64)) := by
  refine ⟨?_, ?_, ?_, ?_⟩ <;> decide +kernel

def sigRuns (gen : Nat) : State := { live with hif := { live.hif with sig := some ⟨1, gen, 0⟩ } }
def sumRuns : State := { live with hif := { live.hif with sum := some ⟨0, 0, false⟩ } }

theorem test_witness_locks_signature_summary :
    (nbit (0x200 : Word).toNat 9 = true ∧ nbit (0x1FF : Word).toNat 9 = false) ∧
    (live.ron F.GL_STAT_HOSTTAG_SET = false ∧ (puts live [(F.GL_STAT_HOSTTAG_SET, 1)]).takesWrites = true ∧
      (puts live [(F.GL_STAT_HOSTTAG_SET, 1)]).ron F.GL_STAT_HOSTTAG_SET = true) ∧
    (live.hif.sig = none ∧ (sigRuns 0).takesEvents = true ∧ (sigRuns 0).rget F.GL_CFGGEN_GEN = 0 ∧ (sigRuns 1).rget F.GL_CFGGEN_GEN ≠ 1) ∧
    (let s := puts (late 2000000 live) [(F.GL_SUMCFG_PERIOD, 2)]
     s.takesEvents = true ∧ s.rget F.GL_SUMCFG_PERIOD ≠ 0 ∧ s.hif.periodAt + s.rget F.GL_SUMCFG_PERIOD * 64000000 ≤ s.now) ∧
    (let s := puts (late 1999999 live) [(F.GL_SUMCFG_PERIOD, 2)]
     s.now < s.hif.periodAt + s.rget F.GL_SUMCFG_PERIOD * 64000000) ∧
    (sumRuns.takesEvents = true ∧ sumRuns.hif.sum.isSome = true ∧ sumRuns.rget F.GL_SUMCNT_CNT = 0 ∧ live.hif.sum = none) := by
  refine ⟨?_, ?_, ?_, ?_, ?_, ?_⟩ <;> decide +kernel

/-- The command SUMMARY in a ring of host memory, and in one of the SRAM. -/
def summaryRing (loc : Nat) (l : List Word) : State :=
  (puts live [(F.RINGn_CFG_EN 3, 1), (F.RINGn_CFG_DIR 3, 1), (F.RINGn_CFG_LOC 3, loc)]).modRing 3
    (fun x => { x with fetched := [some (cmdw 0x22 l)] })

/-- SUMMARY to the last place of the window, one byte beyond it, and to host memory, open and closed. -/
theorem test_witness_summary_command :
    (∀ l ∈ [[(1 : Word), 0x3FF000, 0], [1, 0x3FF001, 0], [0, 0, 1]], fronts (summaryRing 1 l) 3 (cmdw 0x22 l) [] ∧ cmdOp (cmdw 0x22 l) = 0x22) ∧
    ((0x3FF000 + 0x1000 ≤ 0x400000) ∧ (0x400000 < 0x3FF001 + 0x1000)) ∧ (summaryRing 1 []).hif.sum = none ∧
    ({ live with fn := { live.fn with linkUp := true, bme := true } } : State).hostOpen = true ∧ live.hostOpen = false ∧ live.writerAsks = false ∧
    (let s : State := { puts live [(F.RINGn_CFG_EN 2, 1)] with recq := [rec1], fn := { live.fn with linkUp := true, bme := true } }
     s.writerAsks = true ∧ s.hostOpen = true) := by
  unfold fronts; refine ⟨?_, ?_, ?_, ?_, ?_, ?_, ?_⟩ <;> decide +kernel

theorem test_witness_register_accesses :
    (live.takesWrites = true ∧ siteOf .pcie (word R.HL_EVT).toNat = .reg R.HL_EVT) ∧
    (live.locked 2 = false ∧ wfld (0xFF010203 : Word) 24 8 = 255 ∧ live.powered = true) ∧
    (siteOf .spi (0xF000 : Word).toNat = .unmapped ∧ siteOf .pcie (0xFFFFFFFC : Word).toNat = .unmapped) := by
  refine ⟨?_, ?_, ?_⟩ <;> decide +kernel

/-- R310: the first edge of the slow clock of 32,768 Hz, 30,517.578125 ns after reset; a write to the timer that waits for it. -/
def slowly : State :=
  { late 30517 live with hif := { live.hif with slow := [⟨.spi, R.PW_RET_TMR, 0xFFFFFFFF, 5⟩] } }

theorem test_witness_slow_writes :
    ((List.range 3).map (fun i => slowEdgeAt (30516 + i)) = [false, true, false]) ∧
    (slowly.pending = [] ∧ slowly.takesEvents = true ∧ slowEdgeAt slowly.spine.tick = true ∧
      slowly.hif.slow = [⟨.spi, R.PW_RET_TMR, 0xFFFFFFFF, 5⟩]) ∧
    (let s : State := { State.reset with hif := { live.hif with slow := [⟨.spi, R.PW_RET_TMR, 0xFFFFFFFF, 5⟩, ⟨.pcie, R.PW_CTRL, 4, 4⟩, ⟨.pcie, R.PW_RET_TMR, 0xFFFFFFFF, 0⟩] } }
     s.pending = [] ∧ s.takesEvents = true ∧ s.spine.counting = false ∧ (∀ x ∈ s.hif.slow, x.ofs = R.PW_RET_TMR ∨ x.ofs = R.PW_CTRL) ∧
      afterSlow s R.PW_RET_TMR = 0 ∧ s.reg R.PW_RET_TMR = 0 ∧ afterSlow s R.PW_CTRL ≠ s.reg R.PW_CTRL) ∧
    (siteOf .pcie (word 0x3FFFFC).toNat = .unmapped ∧ (word 0x3FFFFC).toNat < 0x400000) := by
  refine ⟨?_, ?_, ?_, ?_⟩ <;> decide +kernel

/-- Reads and stores of times and shared registers: writes take effect, and so reads do. -/
theorem test_witness_time_reads : live.powered = true ∧ live.takesWrites = true ∧ frozenNow.powered = true := by decide +kernel

/-- R300, R303: a frame of an instruction that there is not, and one that ends within a word, each leave GL_SPISTAT.FRAME. -/
theorem test_frames_are_discarded :
    onNext (exec (.spiWrite 0x1000000 [7] .torn) live) (fun t => memRdW t.sram 0 = 7 ∧ t.rget F.GL_SPISTAT_FRAME = 1) ∧
    onNext (exec (.spiWrite 0x1000000 [7] .unknown) live) (fun t => memRdW t.sram 0 = 0 ∧ t.rget F.GL_SPISTAT_FRAME = 1) := by
  unfold onNext; exact ⟨⟨_, rfl, by decide +kernel⟩, ⟨_, rfl, by decide +kernel⟩⟩

theorem test_witness_frames_and_windows :
    ((0x1000002 : Word).toNat % 4 ≠ 0 ∧ (0x1000000 : Word).toNat % 4 = 0) ∧
    ((0x107FC00 : Word).toNat + 4 * (256 : Fin 257).val ≤ 0x1080000 ∧ 0x1000000 ≤ (0x107FC00 : Word).toNat) ∧
    (let ws : List Word := List.replicate 256 7
     (0x107FC00 : Word).toNat + 4 * ws.length ≤ 0x1080000 ∧ ws.length ≤ 256) ∧
    (siteOf .spi (0x107FFFC : Word).toNat = .sram 0x7FFFC ∧ siteOf .pcie (0x1000000 : Word).toNat = .sram 0) ∧
    (∃ a : Word, siteOf .pcie a.toNat = .mram 0x78000) ∧ (∃ a : Word, siteOf .pcie a.toNat = .mram 0x77FFC) ∧
    (live.powered = true ∧ live.takesWrites = true ∧ live.frozen = false) := by
  refine ⟨?_, ?_, ?_, ?_, ⟨word (0x2000000 + 0x78000), ?_⟩, ⟨word (0x2000000 + 0x77FFC), ?_⟩, ?_⟩ <;> decide +kernel

/-- A device in link-down whose source 512 is assigned to target 0, whose vector is not masked. -/
def messaged : State :=
  { live with
    ec := { live.ec with srcs := [(512, { EcSrc.reset with pend := true, asg := some 0, tgt := 1 })] }
    fn := { live.fn with table := [(12, 0)] } }

theorem test_witness_link_messages :
    messaged.configReady = true ∧ messaged.fn.d3 = false ∧ messaged.fn.linkUp = false ∧ messaged.powered = true ∧ messaged.ron F.PW_STAT_VPE_OK = true ∧
    messaged.rget (F.EC_TCFGt_KIND 0) = 0 ∧ messaged.ecAssigned 0 ≠ [] ∧ messaged.vecMasked 0 = false ∧ messaged.frozen = false ∧
    (puts messaged [(F.FRZ_STAT_REQ_CMD, 1)]).frozen = true ∧ (puts messaged [(F.FRZ_STAT_REQ_CMD, 1)]).powered = true ∧
    (puts messaged [(F.FRZ_STAT_REQ_CMD, 1)]).configReady = true := by decide +kernel

theorem test_witness_pcie :
    (live.fn.linkUp = false ∧ live.fn.bme = false ∧ live.hostOpen = false ∧ live.powered = true ∧ live.ron F.PW_STAT_VPE_OK = true ∧
      live.configReady = true ∧ live.fn.d3 = false) ∧
    (let s : State := { live with fn := { live.fn with linkUp := true, bme := true } }
     s.fn.linkUp = true ∧ s.fn.bme = true ∧ s.hostOpen = true ∧ s.fn.d3 = false) ∧
    (let s : State := { live with fn := { live.fn with linkUp := true, d3 := true } }
     s.fn.linkUp = true ∧ s.fn.d3 = true) ∧
    (State.reset.configReady = false ∧ State.reset.powered = true ∧ (puts live [(F.PW_STAT_VPE_OK, 0)]).ron F.PW_STAT_VPE_OK = false) := by
  refine ⟨?_, ?_, ?_, ?_⟩ <;> decide +kernel

/-- The first and the last unnamed offset of a page, and offsets of a channel block. -/
theorem test_witness_unnamed_offsets :
    ((0x1000, R.SPN_STAT) ∈ statusPages ∧ descAt (0x1000 + 0x3FC / 4 * 4) = none ∧ live.powered = true ∧ live.takesWrites = true) ∧
    ((0x47000, R.Ge_STAT 7) ∈ statusPages ∧ descAt (0x47000 + 0xFC / 4 * 4) = none) ∧
    ((0x4F0000, R.CSe_STAT 7) ∈ statusPages ∧ descAt (0x4F0000 + 0x3FC / 4 * 4) = none ∧ (0, R.GL_STAT) ∈ statusPages ∧ descAt (0x3FC / 4 * 4) = none) ∧
    (descAt (0x100000 + 0x400 * (95 : Fin 96).val + 0 / 4 * 4) ≠ none ∧ descAt (0x100000 + 0x400 * (95 : Fin 96).val + 0x3FF / 4 * 4) = none) := by
  refine ⟨?_, ?_, ?_, ?_⟩ <;> decide +kernel

/-! ### Resets, power, loader -/

def off (s : State) : State := puts s [(F.PW_STAT_STATE, 5)]
def wdg (ticks : Nat) (warned : Bool) : State :=
  { puts live [(F.PW_WDG_MODE, 1), (F.PW_WDG_TIMEOUT, 7)] with pw := { live.pw with wdgTicks := ticks, wdgWarned := warned } }

/-- A watchdog of 7 ms at its half, its end, and a tick before each; a LINK reset at 20 µs, and 1 ns before. -/
theorem test_witness_resets :
    (live.canonical = true ∧ live.powered = true ∧ live.pwSt ≠ 5 ∧ live.takesWrites = true ∧ live.takesEvents = true) ∧
    ((off live).canonical = true ∧ (off live).pwSt = 5 ∧ (off live).powered = false) ∧
    (live.rget F.PW_WDG_MODE ≠ 1 ∧ (wdg 0 false).rget F.PW_WDG_MODE = 1 ∧ (0xC396 : Word) ≠ 0xC397) ∧
    (∀ n ∈ [3499999, 3500000, 6999999, 7000000], (wdg n false).canonical = true ∧ (wdg n false).takesEvents = true ∧
      (wdg n false).rget F.PW_WDG_MODE ≠ 0 ∧ (wdg n false).loading = false ∧ (wdg n false).pw.wdgTicks = n ∧
      (wdg n false).rget F.PW_WDG_TIMEOUT * 1000000 = 7000000) ∧
    (∀ t ∈ [20000, 19999], let s := late t { live with pw := { live.pw with linkRst := some (9, 0) } }
      s.pw.linkRst = some (9, 0) ∧ s.canonical = true ∧ s.takesEvents = true ∧ s.now = 64 * t) := by
  refine ⟨?_, ?_, ?_, ?_, ?_⟩ <;> decide +kernel

theorem test_witness_supplies :
    (live.ron F.PW_STAT_VDDA_OK = true ∧ live.ron F.PW_STAT_VDDL_OK = true ∧ live.ron F.PW_STAT_VPE_OK = true) ∧
    (let s := puts live [(F.PW_STAT_VDDA_OK, 0), (F.PW_STAT_VDDL_OK, 0), (F.PW_STAT_VPE_OK, 0)]
     live.ron F.SPN_STAT_LOCKED = true ∧ (puts live [(F.SPN_STAT_LOCKED, 0)]).ron F.SPN_STAT_LOCKED = false ∧
      s.ron F.PW_STAT_VDDA_OK = false ∧ s.ron F.PW_STAT_VDDL_OK = false ∧ s.ron F.PW_STAT_VPE_OK = false) ∧ hasLock (port 3 2) 1 := by
  unfold hasLock; refine ⟨?_, ?_, ?_⟩ <;> decide +kernel

def inState (n : Nat) : State := puts live [(F.PW_STAT_STATE, n), (F.PW_CTRL_WKEN, 1)]
def leaving : State := { inState 4 with pw := { live.pw with leave := some 2 } }

theorem test_witness_power_states :
    (∀ n ∈ [1, 2, 3], (inState n).takesWrites = true ∧ (inState n).pwSt = n ∧ (inState n).fn.linkUp = false ∧
      (inState n).ron F.PW_CTRL_WKPOL = false ∧ (inState n).frozen = false ∧ (inState n).takesEvents = true) ∧
    (let s : State := { live with fn := { live.fn with linkUp := true } }
     s.fn.d3 = false ∧ s.fn.linkUp = true ∧ s.takesWrites = true) ∧
    (wfld (0x5D960007 : Word) 16 16 = 0x5D96 ∧ 7 ≤ wfld (0x5D960007 : Word) 0 4 ∧ wfld (0x5D970006 : Word) 16 16 ≠ 0x5D96) ∧
    ((inState 4).pwSt = 4 ∧ (inState 4).ron F.PW_CTRL_WKEN = true ∧ (inState 4).pw.leave = none ∧
      ((inState 4).setReg R.PW_RET_TMR 1).reg R.PW_RET_TMR ≠ 0 ∧ ((inState 4).setReg R.PW_RET_TMR 1).pwSt = 4) ∧
    ((inState 5).pwSt = 5 ∧ (inState 5).ron F.PW_CTRL_WKEN = true ∧ (inState 5).ron F.PW_STAT_VIN_OK = true) ∧
    ((puts live [(F.PW_STAT_STATE, 6), (F.PW_CTRL_WKEN, 0)]).pwSt = 6 ∧ (puts live [(F.PW_CTRL_WKEN, 0)]).ron F.PW_CTRL_WKEN = false) ∧ (leaving.pwSt = 4 ∧ leaving.pw.leave.isSome = true) ∧
    (let s : State := { (inState 4).setReg R.PW_RET_TMR 1000 with pw := { live.pw with leave := some 3 } }
     s.pwSt = 4 ∧ s.pw.leave = some 3 ∧ (s.reg R.PW_RET_TMR).toNat * 32768 ≤ 32768 * 1000 ∧ 32767 * 1000 < (s.reg R.PW_RET_TMR).toNat * 32768) ∧
    (frozenNow.powered = true ∧ frozenNow.frozen = true) := by
  refine ⟨?_, ?_, ?_, ?_, ?_, ?_, ?_, ?_, ?_⟩ <;> decide +kernel

/-- A source with EN, pending, whose target is in the wake mask; IDLE, with the wake enabled. -/
theorem test_witness_idle_wake :
    let s : State := { puts live [(F.PW_STAT_STATE, 2), (F.PW_CTRL_IDLE_WAKE, 1), (F.EC_WAKE_EN, 1), (F.EC_WAKE_TMASK, 255)] with
      regs := (((puts live [(F.PW_STAT_STATE, 2), (F.PW_CTRL_IDLE_WAKE, 1), (F.EC_WAKE_EN, 1), (F.EC_WAKE_TMASK, 255)]).setReg (R.EC_ENw 0) 1)).regs
      ec := { live.ec with srcs := [(0, { EcSrc.reset with pend := true, tgt := 1 })] } }
    s.pwSt = 2 ∧ s.ron F.PW_CTRL_IDLE_WAKE = true ∧ s.wakeBall = true ∧ s.takesEvents = true := by decide +kernel

/-- The bytes of a slot (R331, R332): MAGIC, VERSION and HLEN, generation 1, LENGTH, FLAGS, zeros; the digest; no authentication; the sections. -/
def slotOf (flags : Nat) (secs : List Byte) : List Byte :=
  let head := leBytes 4 0x4D495853 ++ leBytes 4 0x01000001 ++ leBytes 4 1 ++ leBytes 4 (0x100 + secs.length) ++ leBytes 4 flags ++ List.replicate 44 0
  head ++ sha256 (head ++ secs) ++ List.replicate 160 0 ++ secs

/-- An SRAM section with the bytes 1 to 4 for offset 0, and END. -/
def section1 : List Byte := [3, 0, 0, 0, 8, 0, 0, 0, 0, 0, 0, 0, 1, 2, 3, 4, 0x0F, 0, 0, 0, 0, 0, 0, 0]

/-- An image that selection takes, one that stays held, and one with a wrong digest. -/
def good : List Byte := slotOf 0 section1
def heldImage : List Byte := slotOf 2 section1
def worse : List Byte := good.set 0x40 (good.getD 0x40 0 ^^^ 1)

/-- FIPS 180-4, and RFC 4231, test case 2: the digest of "abc", and the HMAC of "what do ya want for nothing?" with the key "Jefe". -/
theorem test_digest :
    sha256 [0x61, 0x62, 0x63] = beBytes 32 0xba7816bf8f01cfea414140de5dae2223b00361a396177a9cb410ff61f20015ad ∧
    hmac256 [0x4a, 0x65, 0x66, 0x65] (beBytes 28 0x7768617420646f2079612077616e7420666f72206e6f7468696e673f) =
      beBytes 32 0x5bdcc146bf60754e6a042426089575c75a003f089d2739839dec58b964ec3843 := by constructor <;> decide +kernel
def booting : State := { State.reset with spine := { Spine.reset with counting := true } }
/-- Slot n is selected, with a verified digest; the banks measured so far. -/
def passing (n : Nat) (d : BitVec 256) (m : Option LoadMeas) : State :=
  { booting with load := { booting.load with sel := some n, digest := d, meas := m } }
def bankMs : List BankMeas := (List.finRange 12).map (fun b => ⟨b, 0, 0, []⟩)
/-- The pass of slot 2 has ended, and waits for the recalibration. -/
def passed (q : LoadEnd) (m : Option LoadMeas) : State := let s := passing 2 (slotFrom good).digest m; { s with load := { s.load with ended := some q } }

theorem test_witness_loader :
    (booting.takesEvents = true ∧ booting.loading = true ∧ booting.load.sel = none ∧ booting.spine.counting = true ∧ booting.load.only = 3 ∧
      booting.load.excl = 0 ∧ booting.load.ended = none ∧ measured booting = false) ∧
    (goodImage booting good ∧ ¬ goodImage booting worse) ∧
    (live.loading = false ∧ live.load.reload = none ∧ live.takesEvents = true) ∧
    (let s : State := { live with load := { live.load with reload := some ⟨3, 0⟩ } }
     s.takesEvents = true ∧ s.loading = false ∧ s.load.reload = some ⟨3, 0⟩ ∧ s.load.excl = 0 ∧ goodImage s good ∧ ¬ goodImage s worse) ∧
    (∀ m ∈ [none, some ⟨bankMs, gaf8, 200⟩], let s := passing 2 (slotFrom good).digest m
     s.takesEvents = true ∧ s.load.sel = some 2 ∧ s.loading = true ∧ s.load.ended = none ∧ s.pw.retEc = none ∧ s.load.retx = false ∧
      (slotFrom good).digestOk = true ∧ (slotFrom worse).digestOk = false ∧ (slotFrom good).digest = s.load.digest ∧
      (slotFrom good).digest ≠ (passing 2 0 m).load.digest ∧ measured s = m.isSome ∧ s.staysHeld (endOf 2 (slotFrom good)) = false ∧
      s.staysHeld (endOf 2 (slotFrom heldImage)) = true ∧ plainTick s) ∧
    (∀ l ∈ [bankMs, bankMs.tail], ∀ q ∈ [endOf 2 (slotFrom good), { endOf 2 (slotFrom good) with slot := none }], let s := passed q (some ⟨[], [], 0⟩)
     s.takesEvents = true ∧ s.loading = true ∧ s.load.ended = some q ∧ s.pw.retEc = none ∧ s.staysHeld q = false ∧ plainTick s ∧
      measComplete (LoadMeas.add s.load.meas l gaf8 200) = decide (l = bankMs)) ∧
    ((slotFrom good).sections = [.sram 0 [1, 2, 3, 4]] ∧ (∀ x ∈ [ImgSection.sram 0 [1, 2, 3, 4]], (∀ ws, x ≠ .regs ws) ∧ ∀ m, x ≠ .apply m) ∧
      imgLock [.lock 0xFFF] = some 0xFFF) := by
  unfold goodImage plainTick
  refine ⟨by decide +kernel, by decide +kernel, by decide +kernel, by decide +kernel, by decide +kernel, by decide +kernel, by decide +kernel, ?_, rfl⟩
  intro x hx
  simp only [List.mem_singleton] at hx
  subst hx
  exact ⟨fun _ h => by simp at h, fun _ h => by simp at h⟩

theorem test_witness_configuration_commands :
    (loadingNow.takesEvents = true ∧ loadingNow.loading = true ∧ 4 ≤ wfld (4 : Word) 0 3 ∧ 4 ≤ wfld (7 : Word) 0 3) ∧ (live.takesEvents = true ∧ live.loading = false ∧ live.ron F.CFG_STAT_HELD = false) ∧
    ((puts live [(F.CFG_STAT_HELD, 1)]).ron F.CFG_STAT_HELD = true) ∧ (frozenNow.powered = true ∧ frozenNow.frozen = true) ∧
    (let s := live.modPath .spi (fun q => { q with held := [(R.CAL_IDX, 0x10FFF)] })
     wfld (s.heldWord .spi R.CAL_IDX) 0 12 = 4095 ∧ wfld (s.heldWord .spi R.CAL_IDX) 16 1 = 1 ∧ s.locked 1 = false ∧ s.viewOf .spi = false) ∧
    ((puts live [(F.GL_LOCK_DOMAINS, 2)]).locked 1 = true ∧ (puts live [(F.GL_LOCK_DOMAINS, 2)]).takesWrites = true) ∧
    ((∃ q : Fin 4096, calHasU q = true) ∧ calHasU 4095 = false) := by
  refine ⟨?_, ?_, ?_, ?_, ?_, ?_, ⟨⟨0x40, by decide⟩, ?_⟩, ?_⟩ <;> decide +kernel

/-! ### Rails, health, freeze -/

def rails (up : Bool) (todo : BitVec 8) : State :=
  { puts live [(F.PSQ_CTRL_EN, 5)] with psq := { live.psq with seq := some ⟨up, 0, todo⟩ } }
def railIs (l : List (Fld × Nat)) (good : BitVec 8) : State := { puts live l with psq := { live.psq with wasGood := good } }

/-- Rails 0 and 2 enabled; rail 2 as the last of a DOWN sequence; a PGTO of 1 ms reached, and 1 ns short of it. -/
theorem test_witness_rails :
    ((rails true 5).takesWrites = true ∧ (rails true 5).psq.seq.isSome = true ∧ live.psq.seq = none ∧ live.rget F.PSQ_CTRL_EN = 0 ∧
      (puts live [(F.PSQ_CTRL_EN, 5)]).rget F.PSQ_CTRL_EN ≠ 0 ∧ (puts live [(F.PSQ_CTRL_EN, 5)]).psq.seq = none) ∧
    ((rails true 5).takesEvents = true ∧ (rails true 5).railDue true 0 = true ∧ (rails true 5).railDue true 2 = true ∧
      (rails true 5).railDue false 0 = false) ∧
    ((rails false 4).railDue false 2 = true ∧ (∀ x : Fin 8, x < 2 → (rails false 4).railDue false x = false) ∧
      (rails false 4).psq.seq = some ⟨false, 0, BitVec.ofNat 8 (2 ^ (2 : Fin 8).val)⟩) ∧
    (let s := late 1000000 (railIs [(F.PSQ_STAT_ON, 128), (F.PSQ_Rr_CFG_PGTO 7, 1)] 0)
     s.takesEvents = true ∧ s.psqBit F.PSQ_STAT_ON 7 = true ∧ s.rget (F.PSQ_Rr_CFG_PGTO 7) ≠ 0 ∧ s.psqBit F.PSQ_STAT_PG 7 = false ∧
     nbit s.psq.wasGood.toNat 7 = false ∧ nbit s.psq.timedOut.toNat 7 = false ∧
     s.psq.onAt[(7 : Fin 8)] + s.rget (F.PSQ_Rr_CFG_PGTO 7) * 64000000 ≤ s.now) ∧
    (let s := late 999999 (railIs [(F.PSQ_STAT_ON, 128), (F.PSQ_Rr_CFG_PGTO 7, 1)] 0)
     s.now < s.psq.onAt[(7 : Fin 8)] + s.rget (F.PSQ_Rr_CFG_PGTO 7) * 64000000) ∧
    (let s := railIs [(F.PSQ_STAT_ON, 1), (F.PSQ_STAT_PG, 1)] 1
     s.psqBit F.PSQ_STAT_PG 0 = true ∧ s.psqBit F.PSQ_STAT_ON 0 = true ∧ nbit s.psq.wasGood.toNat 0 = true) ∧
    (let s := railIs [(F.PSQ_STAT_PG, 1)] 0
     live.takesWrites = true ∧ live.lockedBits (R.PSQ_Rr_CFG 7) = 0 ∧ s.psqBit F.PSQ_STAT_PG 0 = true ∧ s.psqBit F.PSQ_STAT_ON 0 = false ∧ s.psq.seq = none) := by
  refine ⟨?_, ?_, ?_, ?_, ?_, ?_, ?_⟩ <;> decide +kernel

/-- A change of 5 °C (40 eighths) and of 39 eighths; ten minutes since the last recalibration, and a sub less. -/
theorem test_witness_health :
    (let s := puts live [(F.HL_CTRL_EN, 1)]
     s.takesEvents = true ∧ s.ron F.HL_CTRL_EN = true ∧ s.loading = false ∧ (puts live [(F.HL_CTRL_EN, 0)]).ron F.HL_CTRL_EN = false) ∧
    (live.hl.sampleAt = none ∧ live.hl.lifeAt = none ∧
      (∀ d ∈ [0, 1], let s := ({ live with hl := { live.hl with sampleAt := some d, lifeAt := some d } } : State).modSpine (fun x => { x with tick := 10 * 10 ^ 9 })
       s.hl.sampleAt = some d ∧ decide (d + 10 * 10 ^ 9 ≤ s.spine.tick) = decide (d = 0) ∧ ¬ d + 3600 * 10 ^ 9 ≤ s.spine.tick)) ∧
    (let s := puts live [(F.HL_CTRL_EN, 1), (F.HL_TEMP_TCAL, 250)]
     40 ≤ ((290 : BitVec 16).toInt - signed (s.rget F.HL_TEMP_TCAL) 16).natAbs ∧
     ((211 : BitVec 16).toInt - signed (s.rget F.HL_TEMP_TCAL) 16).natAbs < 40 ∧ s.now < s.hl.recalAt + 38400000000000) ∧
    (let s := late 600000000000 (puts live [(F.HL_CTRL_EN, 1)])
     s.hl.recalAt + 38400000000000 ≤ s.now ∧ s.takesEvents = true) ∧
    (loadingNow.loading = true ∧ ∀ m ∈ [(⟨3, 0, 0, []⟩ : BankMeas)], m.b ≠ (4 : Fin 12)) ∧
    (let s : State := { live with banks := live.banks.map (fun b => { b with swap := true }) }
     s.takesEvents = true ∧ s.spine.counting = true ∧ plainTick s ∧ s.pending = [] ∧ s.banks[(4 : Fin 12)].swap = true ∧
      live.banks[(4 : Fin 12)].swap = false ∧ plainTick live ∧ live.pending = []) := by
  unfold plainTick; refine ⟨?_, ?_, ?_, ?_, ?_, ?_⟩ <;> decide +kernel

def ball (l : List (Fld × Nat)) : State := puts live ((F.FRZ_CTRL_BALL_EN, 1) :: l)

theorem test_witness_freeze :
    (live.ron F.FRZ_CTRL_BALL_EN = false ∧ live.ron F.FRZ_STAT_REQ_BALL = false) ∧
    ((ball []).ron F.FRZ_CTRL_BALL_EN = true ∧ (ball []).ron F.FRZ_STAT_REQ_BALL = false ∧ (ball []).takesWrites = true) ∧
    ((ball [(F.CFG_STAT_LOADING, 1)]).loading = true ∧ (ball [(F.PW_STAT_STATE, 5)]).powered = false) ∧
    ((ball [(F.FRZ_STAT_REQ_CMD, 1)]).powered = true ∧ (ball [(F.FRZ_STAT_REQ_CMD, 1)]).loading = false ∧
      (ball [(F.FRZ_STAT_REQ_CMD, 1)]).frozen = true ∧ (ball [(F.FRZ_STAT_REQ_CMD, 1)]).ron F.FRZ_STAT_REQ_BALL = false) ∧
    (loadingNow.frozen = false ∧ loadingNow.loading = true ∧ loadingNow.powered = true ∧ (inState 4).powered = false) ∧
    (let s := ball [(F.FRZ_STAT_REQ_CMD, 1), (F.FRZ_STAT_REQ_BALL, 1), (F.FRZ_STAT_STOPPING, 1)]
     s.ron F.FRZ_STAT_REQ_BALL = true ∧ s.ron F.FRZ_STAT_REQ_CMD = true ∧ s.frozen = true ∧ s.ron F.FRZ_STAT_STOPPING = true ∧
     s.powered = true ∧ s.loading = false) ∧
    (let s := ball [(F.FRZ_STAT_REQ_BALL, 1)]
     s.ron F.FRZ_STAT_REQ_BALL = true ∧ s.ron F.FRZ_STAT_REQ_CMD = false ∧ s.spine.hold = none ∧ s.spine.slew = none ∧ plainTick s) ∧
    (plainTick frozenNow ∧ frozenNow.ron F.FRZ_STAT_REQ_CMD = true ∧ frozenNow.ron F.FRZ_STAT_REQ_BALL = false ∧ frozenNow.powered = true ∧ frozenNow.loading = false) := by
  unfold plainTick; refine ⟨?_, ?_, ?_, ?_, ?_, ?_, ?_, ?_⟩ <;> decide +kernel


/-! ### Single steps of the spec's worked examples -/

def nx (o : Host.Outcome State Fault Refusal) : State := match o with | .next t => t | _ => State.reset

/-- Sources 104, 105 and 107 are routed to ring 0, which runs. -/
def routes : State :=
  { puts live [(F.RINGn_CFG_EN 0, 1), (F.RINGn_CFG_LOC 0, 1), (F.RINGn_CFG_SIZE 0, 6)] with
    ec := { live.ec with srcs := [104, 105, 107].map (fun k => (k, { EcSrc.reset with route := 0x40 })) } }

/-- Slewing +1.5 µs over 2 s (chapter 02): S = 824,634, 1,649,267,441,664,000 units. -/
theorem test_slew_example : (nx (exec (.spineSlew .pcie false 0) ((opd 1500 0 0).setReg R.SPN_DUR 2000000))).spine.slew =
    some ⟨824634, 1649267441664000, 1649267441664000, none⟩ := by decide +kernel

/-- A compare of channel 40 armed at 5,000,000,000 ns. -/
def arm40 (tgt : Word) : State :=
  nx (exec (.compareArm .pcie 40 false 0x8600) ((late (5000000000) live).setHeld .pcie (R.CHc_CMPu_TGT_LO 40 0) tgt))

/-- The window at arming (chapter 03): late by 260 ns, ahead by 12 ns, ahead by half the range, late by half the range less 1 ns. -/
theorem test_arming_window_example :
    ([0x2A05F100, 0x2A05F210, 0xAA05F204, 0xAA05F205] : List Word).map (fun x =>
      ((arm40 x).ch[(40 : Fin 96)].cmpA.armed, (arm40 x).ron (F.CHc_CMPu_LAST_SUB_LATE 40 0), (arm40 x).rget (F.CHc_CMPu_LATE_LATE_NS 40 0))) =
    [(false, true, 260), (true, false, 0), (true, false, 0), (false, true, 2147483647)] := by decide +kernel

/-- The entries of the pulse group (chapter 03), pushed one after the other. -/
def pulses : State := ([(0x80000FA0, 0x00020000), (0x400003E8, 0x00050002)] : List (Word × Word)).foldl (fun s x =>
  nx (exec (.fifoPush .pcie 22 x.2) (s.setHeld .pcie (R.CHc_FIFO_ENT_LO 22) x.1))) (puts live [(F.CHc_CTRL_OWN 22, 2)])

/-- A pulse group with a loop (chapter 03): the first two edges. -/
theorem test_fifo_example :
    (nx (exec (.fifoStart .pcie 22 false) ((late 999000000 pulses).setReg (R.CHc_FIFO_BASE_LO 22) 0x3B9ACA00))).ch[(22 : Fin 96)].fifo.armed.map
      (fun a => (a.unit, a.edge.target / 64, a.edge.act, a.edge.recEn)) = [(0, 1000004000, 2, false), (1, 1000005000, 1, true)] := by decide +kernel

/-- The microword of `ins.cmp @, a, high, p0, #0x0001, rec || jump.eref pfail` (chapter 06), from its table of set bits. -/
def word6 : BitVec 144 := ([140, 129, 135, 124, 125, 127, 61, 58, 51, 52, 53, 54, 49, 47, 33, 36] : List Nat).foldl (fun a i => a + 2 ^ i) 0

theorem test_microword_example : (mwSop word6, mwAddr word6, mwCond word6, mwImm word6, mwPsel word6, mwPop word6, mwIllegal word6 3) =
    (1, 0x41, 0x0B, 1, 1, 0, false) := by decide +kernel

/-- A quadrature encoder of 1,024 lines, SPAN 4, at standstill. -/
def encoder : State :=
  (puts (late 0 live) [(F.ORYn_CTRL_TYPE 0, 2), (F.ORYn_LINES_LINES 0, 1024), (F.ORYn_MOTION_SPAN 0, 4), (F.ORYn_MOTION_STILL_MS 0, 200)]).modOry 0
    (fun o => { o with sync := .rel, still := true })

/-- The speed words of the encoder's edges e1, e2 and, from standstill, of a reversal (chapter 07), counted from 1 ms; each edge as the decoder
takes it once 2.0 ns have passed. -/
theorem test_quadrature_example :
    (([(1000000, 1), (1025000, 3), (1200000, 1), (1230000, 0)] : List (Nat × BitVec 3)).foldl (fun (a : State × List Int) e =>
      let t := (nx (exec (.quadTransition 0 e.2 0) (late e.1 a.1))).oQuadSettle 0
      (t, a.2 ++ [((t.ory[(0 : Fin 4)].hist.head?).map (·.speed)).getD (-1)])) (encoder, [])).2 = [0, 2748779, 0, -2290649] := by decide +kernel

/-- An ARM, relative, 50,000 µs ahead at 7,000,000 µs (chapter 09): deadline 7,050,000, in level 1. -/
theorem test_lehr_example :
    let l : List Word := [word (0x1234 + 2 * 2 ^ 23 + 2 ^ 30), 50000, 0, 0xC01]
    let s := lfetch (puts (late 7000000000 (lehr 0 [] [] 7004160 (2 ^ 24))) [(F.LH_POOL_SZ_LOG2, 20), (F.LH_DESTd_WAKE_EN 2, 1)]) 1 l
    (nx (exec (.arm 2) s)).lehr.slots.map (fun x => (x.1, x.2.h, x.2.dl, x.2.tag, x.2.dest)) = [(false, 0x1234, 7050000, 0xC01, 2)] := by
  decide +kernel

/-- A full ring in the SRAM at 0x18_0000 (chapter 10): the LOST record of 37 refusals at slot 1,008, once TAIL leaves room. -/
theorem test_lost_example :
    let s := (puts live [(F.RINGn_CFG_EN 0, 1), (F.RINGn_CFG_LOC 0, 1), (F.RINGn_CFG_SIZE 0, 6), (F.RINGn_BASE_LO_BASE_LO 0, 0x180000 / 512),
      (F.RINGn_HEAD_HEAD 0, 0xFFFFFFF0), (F.RINGn_TAIL_TAIL 0, 0xFFFFFBF0), (F.RINGn_LOSTCNT_CNT 0, 37)]).modRing 0 (fun x =>
        { x with first := some ⟨14, 8, 0x2A10⟩, last := some ⟨20, 9, 0x7F03⟩, firstNs := 5000012000 })
    let t := nx (exec (.ringTailWrite .pcie 0 0xFFFFFC00) s)
    (t.rget (F.RINGn_HEAD_HEAD 0), t.rget (F.RINGn_LOSTCNT_CNT 0)) = (0xFFFFFFF1, 0) ∧
      (List.range 4).map (fun i => memRdW t.sram (0x180000 + 0x7E00 + 16 + 4 * i)) = [0x25, 0x2A10200E, 0x7F032414, 0x2A0620E0] := by
  decide +kernel

/-- One steering update (chapter 11): T2 − T1 = −396.75 ns, a mean of 56.0625 ns, an asymmetry of 8 subs. -/
theorem test_servo_example :
    let s := { ((puts (port 3 2) [(F.EL_SRV_CFG_KP, 2), (F.EL_SRV_CFG_KI, 6)]).setReg R.EL_SRV_INT 2000000).modPort 1
      (fun q => { q with samples := [3588] }) with calU := [(0xCD, 8)] }
    let t := s.servoSteer 1 (s.thetaNum 1 (-25392))
    (t.reg R.EL_SRV_INT, t.reg R.SPN_RATE) = (9298763, 126078963) := by decide +kernel

/-- Restaging a filter over SPI (chapter 12): the writes, as two frames, and the strobe at its time. -/
def restaged : State :=
  nx (exec (.spiQwrite 0x3014 [0x2A05F200, 1, 8] .whole) (late 4000000000 (nx (exec (.spiQwrite 0x104404 [3, 0xFF000A00] .whole) routes))))

theorem test_restaging_example :
    restaged.readWord .spi R.AP_STAT = 0x108 ∧ restaged.rget (F.CHc_PIN_FILT 17) ≠ 10 ∧
    (late 5000000000 restaged).apNext = true ∧
    (let t := ((late 5000000000 restaged).modSpine (fun x => { x with tick := x.tick + 1 })).apTick 0
     t.rget (F.CHc_PIN_FILT 17) = 10 ∧ t.recq.map (fun r => (r.w4, r.w5, r.w6)) = [(0x00140808, 0, 0x2A05F200)]) := by
  refine ⟨?_, ?_, ?_, ?_⟩ <;> decide +kernel

/-- Divergent slots (chapter 13): of slots 1 and 2, with the highest generation and digests that differ, slot 1 is selected. -/
theorem test_selection_example :
    let i := fun (g n : Word) (d : BitVec 256) => (⟨true, g, n, false, false, 0, d, true, true, true, []⟩ : SlotImage)
    let r := booting.selectSlot 3 [(0, i 41 1572864 1), (1, i 42 2097152 2), (2, i 42 2101248 3)]
    (r.sel, r.divs) = (some 1, 6) := by decide +kernel

/-- A 250 ms freeze on a root node (chapter 14): the spine at the thaw tick, without and with the gap, and the THAW record. -/
theorem test_freeze_example :
    ([0, 1] : List Nat).map (fun a =>
      let s : State := { (puts (late 10000000000 routes) [(F.FRZ_CTRL_ADDGAP, a)]).setReg R.SPN_RATE 2000000 with frz := ⟨249999999, 1, false⟩ }
      let u := (s.gapRegs s.frzGap).spineMove
      let t := (if s.ron F.FRZ_CTRL_ADDGAP then u.modSpine (fun x => { x with acc := x.acc + BitVec.ofNat 104 s.frzGap }) else u).frzRecords s.frzGap false
      (t.now, (t.recq.getLast?).map (fun r => (r.w4, r.w5, r.w6, r.w7)))) =
    [(10000000001 * 64, some (0x0EE6B445, 0, 0x2F, 0x0EE6B27F)), (10250000454 * 64 + 47, some (0x0EE6B445, 0, 0x12F, 0x0EE6B27F))] := by
  decide +kernel

/-! ### Single steps worked out by hand -/

/-- A positive STEP of 1.5 ns takes effect at once, a negative one of 1 sub is a hold. -/
theorem test_step : (nx (exec (.spineStep .spi false 0) (opd 1 0 32))).now = live.now + 96 ∧
    (nx (exec (.spineStep .spi false 0) (opd 0xFFFFFFFF 0xFFFFFFFF 63))).spine.hold.isSome = true := by constructor <;> decide +kernel

/-- A read of `SPN_NOW_LO` at 1,000 ns, and of an address that nothing has. -/
theorem test_reads : (nx (exec (.rlRead .pcie (word R.SPN_NOW_LO)) live)).pcie.rdata = [1000] ∧
    (nx (exec (.rlRead .spi 0xF004) live)).spi.rdata = [0] := by constructor <;> decide +kernel

/-- A command leaves the queue, whatever its row. -/
theorem test_step_takes_the_front :
    (match step { live with pending := [.ifreset, .rdsr] } with | .next t => t.pending | _ => []) = [.rdsr] := by decide +kernel

/-- A load whose word cannot be corrected, and one whose word is corrected (chapters 05, 06 and 14). -/
theorem test_load_ecc :
    (let t := nx (exec (.mwLd32 0 .bad) (mem 0 0xFFFC))
     (t.thr 0 0).state = .fault ∧ t.rget (F.Ge_FAULT_KIND 0) = 2 ∧ t.rget F.HL_ECC_UNCORR = 1 ∧ t.reg R.HL_ECCADDR = 0xFFFC) ∧
    (let t := nx (exec (.mwLd40 0 .corrected) (mem 1 0xFFFC))
     t.rget F.HL_ECC_CORR = 1 ∧ (t.thr 0 0).pc = 1 ∧ t.recq = []) := by constructor <;> decide +kernel

/-- A CANCEL of a handle whose near entry was lost returns NOTARMED and writes ST = FREE (chapter 09). -/
theorem test_lost_near_entry :
    (let t := nx (exec (.cancel 2) (lostNear 2))
     t.lehr.lost = [] ∧ memRdW t.sram (0x80000 + 80 + 12) = 5 ∧ t.rget F.LH_ERRCNT_CMD = 1) := by decide +kernel

end Sys2Proof.Tests
end

section
/-!
SUPPORT. The address space: where the pages that are decoded in part and the blocks that are decoded in full lead (R294), and what a
read and a write do by the site they reach.
-/
namespace Sys2Proof.Machine
open Sys2Proof

/-! ### Host accesses by the site they reach -/

theorem word_toNat_of_lt {n : Nat} (h : n < 2 ^ 32) : (word n).toNat = n := Nat.mod_eq_of_lt h

theorem exec_rlRead (p : Path) (a : Word) (s : State) : exec (.rlRead p a) s = s.hostRead (fun s => s.readAt p a.toNat) := rfl

theorem exec_registerWrite (p : Path) (a v : Word) (full : Bool) (s : State) :
    exec (.registerWrite p a v full) s = .next (s.writeAt p a.toNat v full) := rfl

theorem answer_rdata (s : State) (p : Path) (w : Word) : ((s.answer p w).path p).rdata = [w] := by cases p <;> rfl

theorem readAt_reg {p : Path} {a o : Nat} (h : siteOf p a = .reg o) (s : State) : s.readAt p a = s.readReg p o := by
  simp only [State.readAt, h]

theorem readAt_status {p : Path} {a o : Nat} (h : siteOf p a = .status o) (s : State) : s.readAt p a = s.answer p (s.readWord p o) := by
  simp only [State.readAt, h]

theorem readAt_blank {p : Path} {a : Nat} (h : siteOf p a = .blank) (s : State) : s.readAt p a = s.answer p 0 := by
  simp only [State.readAt, h]

/-- A read sees of its address only the site. -/
theorem readAt_congr {p : Path} {a b : Nat} (h : siteOf p a = siteOf p b) (s : State) : s.readAt p a = s.readAt p b := by
  simp only [State.readAt, h]

theorem writeAt_status {p : Path} {a o : Nat} (h : siteOf p a = .status o) {s : State} (hs : s.takesWrites = true) (v : Word) :
    s.writeAt p a v true = s := by
  simp [State.writeAt, h, hostWrite_open hs]

theorem writeAt_blank {p : Path} {a : Nat} (h : siteOf p a = .blank) {s : State} (hs : s.takesWrites = true) (v : Word) :
    s.writeAt p a v true = s := by
  simp [State.writeAt, h, hostWrite_open hs]

theorem freezePage_congr {a b : Nat} (h : a / 0x1000 = b / 0x1000) : freezePage a = freezePage b := by
  have h1 : 0x8000 ≤ a ↔ 0x8000 ≤ b := by omega
  have h2 : a < 0x9000 ↔ b < 0x9000 := by omega
  simp only [freezePage, h1, h2]

/-- The gates of a host write see of its offset the page, and whether it is `CFG_CMD`. -/
theorem hostWrite_congr {a b : Nat} (h : a / 0x1000 = b / 0x1000) (ha : a ≠ R.CFG_CMD) (hb : b ≠ R.CFG_CMD) (s : State)
    (f : State → State) : s.hostWrite a f = s.hostWrite b f := by
  simp [State.hostWrite, freezePage_congr h, ha, hb]

theorem siteOf_cfgCmd (p : Path) : siteOf p R.CFG_CMD = .reg R.CFG_CMD := by cases p <;> decide +kernel

/-- A write sees of its address the site, and of the gates the page: `CFG_CMD`, which has a gate of its own, is a register's site. -/
theorem writeAt_congr {p : Path} {a b : Nat} (h : siteOf p a = siteOf p b) (hp : a / 0x1000 = b / 0x1000) (s : State) (v : Word)
    (full : Bool) : s.writeAt p a v full = s.writeAt p b v full := by
  have gate (hn : ∀ o, siteOf p b ≠ .reg o) (f : State → State) : s.hostWrite a f = s.hostWrite b f :=
    hostWrite_congr hp (fun e => hn _ (by rw [← h, e, siteOf_cfgCmd])) (fun e => hn _ (by rw [e, siteOf_cfgCmd])) s f
  have hu : 0x400000 ≤ a ↔ 0x400000 ≤ b := by omega
  unfold State.writeAt
  rw [h]
  cases hb : siteOf p b with
  | reg o => rfl
  | status o => simp only [gate (by simp [hb])]
  | blank => simp only [gate (by simp [hb])]
  | micro e w i => simp only [gate (by simp [hb])]
  | sram m => simp only [gate (by simp [hb])]
  | mram m => simp only [gate (by simp [hb])]
  | msix m => simp only [gate (by simp [hb])]
  | unmapped => simp only [gate (by simp [hb]), hu]

/-- A read of a register without copies and without a side effect only answers. -/
theorem readReg_of_plain {o : Nat} (hcap : ¬ (0x100000 ≤ o ∧ o < 0x118000 ∧ (o % 0x400 = 0x84 ∨ o % 0x400 = 0xA4)))
    (hclaim : ¬ (0x2040 ≤ o ∧ o < 0x20C0 ∧ o % 16 = 0)) (hcopy : rlCopies o = []) (hpps : o ≠ R.SPN_PPSI_LO) (hcal : o ≠ R.CAL_U_DATA)
    (s : State) (p : Path) : s.readReg p o = s.answer p (s.readWord p o) := by
  have hs : s.rlCopy p o = s := by simp [State.rlCopy, hcopy]
  simp only [State.readReg, if_neg hcap, if_neg hclaim, hs, if_neg hpps, if_neg hcal, ite_self]

/-! ### Pages that are decoded in part -/

/-- The bases of the areas in which a page is decoded in part (R292, R294). -/
def partialBase (base : Nat) : Prop :=
  base % 0x1000 = 0 ∧ (base < 0xA000 ∨ (0x10000 ≤ base ∧ base < 0x14000) ∨ base = 0x18000 ∨ base = 0x20000 ∨
    (0x40000 ≤ base ∧ base < 0x48000) ∨ (0x400000 ≤ base ∧ base < 0x500000 ∧ base % 0x20000 = 0x10000))

/-- Of an offset in its page, a page that is decoded in part uses bits 9:2. -/
theorem partialSite_congr {base a b : Nat} (h : a % 0x400 / 4 = b % 0x400 / 4) : partialSite base a = partialSite base b := by
  simp only [partialSite, h]

theorem partialSite_unnamed {base i : Nat} (hi : i < 0x400) (h : descAt (base + i / 4 * 4) = none) :
    partialSite base i = .status (pageStatus base) := by
  simp [partialSite, Nat.mod_eq_of_lt hi, h]

theorem csSite_controlPage {base a : Nat} (hb : 0x400000 ≤ base ∧ base % 0x20000 = 0x10000) (ha : a / 0x1000 * 0x1000 = base) :
    csSite a = partialSite base (a % 0x1000) := by
  have hpage : 0x410000 + (a - 0x400000) / 0x20000 * 0x20000 = base := by omega
  simp (disch := omega) only [csSite, if_neg, if_pos, hpage]
  exact partialSite_congr (by omega)

/-- An address in a page that is decoded in part leads where its offset in the page does. -/
theorem siteOf_partialPage {base : Nat} (hb : partialBase base) (p : Path) {k : Nat} (hk : k < 0x1000) :
    siteOf p (base + k) = partialSite base k := by
  obtain ⟨hal, hr⟩ := hb
  have hpage : (base + k) / 4 * 4 / 0x1000 * 0x1000 = base := by omega
  have hofs : partialSite base ((base + k) / 4 * 4 % 0x1000) = partialSite base k := partialSite_congr (by omega)
  rw [← hofs]
  rcases hr with h | h | rfl | rfl | h | h
  · simp (disch := omega) only [siteOf, if_neg, if_pos, hpage]
  · simp (disch := omega) only [siteOf, if_neg, if_pos, hpage]
  · simp (disch := omega) only [siteOf, if_neg, if_pos]
  · simp (disch := omega) only [siteOf, if_neg, if_pos]
  · simp (disch := omega) only [siteOf, if_neg, if_pos, hpage]
  · simp (disch := omega) only [siteOf, if_neg, if_pos]
    exact csSite_controlPage ⟨h.1, h.2.2⟩ hpage

theorem partialBase_lt {base : Nat} (h : partialBase base) : base + 0x1000 ≤ 2 ^ 32 := by
  unfold partialBase at h
  omega

/-- Offsets 0x400 to 0xFFF act as 0x000 to 0x3FF do. -/
theorem siteOf_alias {base : Nat} (hb : partialBase base) (p : Path) (j : Fin 4) {i : Nat} (hi : i < 0x400) :
    siteOf p (base + 0x400 * j + i) = siteOf p (base + i) := by
  rw [Nat.add_assoc, siteOf_partialPage hb p (by omega), siteOf_partialPage hb p (by omega)]
  exact partialSite_congr (by omega)

theorem siteOf_unnamed {base : Nat} (hb : partialBase base) (p : Path) {i : Nat} (hi : i < 0x400) (h : descAt (base + i / 4 * 4) = none) :
    siteOf p (base + i) = .status (pageStatus base) := by
  rw [siteOf_partialPage hb p (by omega), partialSite_unnamed hi h]

/-! ### Blocks that are decoded in full -/

theorem fullSite_aligned {o : Nat} (h : o % 4 = 0) : fullSite o = if (descAt o).isSome then .reg o else .blank := by
  have ho : o / 4 * 4 = o := by omega
  simp only [fullSite, ho]

theorem siteOf_ringPage (p : Path) (n : Fin 64) (k : Fin 16) {i : Nat} (hi : i < 0x40) :
    siteOf p (0x30000 + 0x1000 * k.val + 0x40 * n.val + i) = fullSite (0x30000 + 0x40 * n.val + i / 4 * 4) := by
  have ho : 0x30000 + (0x30000 + 0x1000 * k.val + 0x40 * n.val + i) / 4 * 4 % 0x1000 = 0x30000 + 0x40 * n.val + i / 4 * 4 := by omega
  simp (disch := omega) only [siteOf, if_neg, if_pos, ho]

theorem siteOf_channelBlock (p : Path) (c : Fin 96) {i : Nat} (hi : i < 0x400) :
    siteOf p (0x100000 + 0x400 * c.val + i) = fullSite (0x100000 + 0x400 * c.val + i / 4 * 4) := by
  have ho : (0x100000 + 0x400 * c.val + i) / 4 * 4 = 0x100000 + 0x400 * c.val + i / 4 * 4 := by omega
  simp (disch := omega) only [siteOf, if_neg, if_pos, ho]

theorem siteOf_lehrPage_alias (p : Path) (k : Fin 16) {i : Nat} (hi : i < 0x1000) :
    siteOf p (0x20000 + 0x1000 * k.val + i) = siteOf p (0x20000 + i) := by
  simp (disch := omega) only [siteOf, if_neg, if_pos]
  exact partialSite_congr (by omega)

theorem siteOf_microword (p : Path) (e : Fin 8) (w : Fin 2048) {i : Nat} (hi : i < 0x20) :
    siteOf p (0x400000 + 0x20000 * e.val + 0x20 * w.val + i) = if i < 0x14 then .micro e w (i / 4) else .blank := by
  have ha : (0x400000 + 0x20000 * e.val + 0x20 * w.val + i) / 4 * 4 - 0x400000 = 0x20000 * e.val + (0x20 * w.val + i / 4 * 4) := by omega
  have he : (0x20000 * e.val + (0x20 * w.val + i / 4 * 4)) / 0x20000 = e := by omega
  have hr : (0x20000 * e.val + (0x20 * w.val + i / 4 * 4)) % 0x20000 = 0x20 * w.val + i / 4 * 4 := by omega
  have hw : (0x20 * w.val + i / 4 * 4) / 0x20 = w := by omega
  have hi4 : (0x20 * w.val + i / 4 * 4) % 0x20 / 4 = i / 4 := by omega
  have hword : i / 4 < 5 ↔ i < 0x14 := by omega
  simp (disch := omega) only [siteOf, csSite, ha, he, hr, hw, hi4, hword, if_neg, if_pos]

theorem siteOf_sramWindow (p : Path) {a : Nat} (ha : a < 0x400000) : siteOf p (0x1000000 + a) = .sram (a / 4 * 4) := by
  have ho : (0x1000000 + a) / 4 * 4 - 0x1000000 = a / 4 * 4 := by omega
  simp (disch := omega) only [siteOf, if_neg, if_pos, ho]

theorem siteOf_mramWindow (p : Path) {a : Nat} (ha : a < 0x80000) : siteOf p (0x2000000 + a) = .mram (a / 4 * 4) := by
  have ho : (0x2000000 + a) / 4 * 4 - 0x2000000 = a / 4 * 4 := by omega
  simp (disch := omega) only [siteOf, if_neg, if_pos, ho]

/-! ### Named offsets of the ring and Gaffer pages -/

theorem descAt_ringPage {o : Nat} (h : 0x30000 ≤ o ∧ o < 0x40000) :
    descAt o = mapRing.find? (fun r => decide (r.base ≤ o) && dimsMatch r.dims (o - r.base)) := by
  simp (disch := omega) only [descAt, mapAt, if_neg, if_pos]

theorem descAt_gafferPage {o : Nat} (h : 0x40000 ≤ o ∧ o < 0x48000) :
    descAt o = mapGaffer.find? (fun r => decide (r.base ≤ o) && dimsMatch r.dims (o - r.base)) := by
  simp (disch := omega) only [descAt, mapAt, if_neg, if_pos]

/-- The registers of a ring lie at its offsets 0 to 0x28. -/
theorem mapRing_rows : ∀ r ∈ mapRing, r.dims = [(64, 0x40)] ∧ 0x30000 ≤ r.base ∧ r.base ≤ 0x30028 := by decide

theorem descAt_ringTail (n : Fin 64) {j : Nat} (hj : 0x2C ≤ j) (hj' : j < 0x40) : descAt (0x30000 + 0x40 * n.val + j) = none := by
  rw [descAt_ringPage (by omega), List.find?_eq_none]
  intro r hr
  obtain ⟨hd, hlo, hhi⟩ := mapRing_rows r hr
  simp only [hd, dimsMatch, Bool.and_eq_true, decide_eq_true_eq]
  omega

/-- A row of the Gaffer's map names each of its instances: `e` counts the Gaffers, `n` what a Gaffer has of it. -/
theorem descAt_gafferInstance {r : RegDesc} (hr : r ∈ mapGaffer) {cnt stride d : Nat} (hd : r.dims = [(8, 0x1000), (cnt, stride)])
    (hlo : 0x40000 ≤ r.base) (hhi : r.base + d < 0x41000) (e : Fin 8) (hn : d / stride < cnt) (hz : d % stride = 0) :
    (descAt (0x1000 * e.val + r.base + d)).isSome = true := by
  rw [descAt_gafferPage (by omega), List.find?_isSome]
  refine ⟨r, hr, ?_⟩
  have hle : r.base ≤ 0x1000 * e.val + r.base + d := by omega
  have hofs : 0x1000 * e.val + r.base + d - r.base = 0x1000 * e.val + d := by omega
  have he : (0x1000 * e.val + d) / 0x1000 < 8 := by omega
  have hrest : (0x1000 * e.val + d) % 0x1000 = d := by omega
  simp [hd, dimsMatch, hle, hofs, he, hrest, hn, hz]

/-- The four registers of a thread. -/
theorem mapGaffer_thread_rows : ∀ k < 4, ∃ r ∈ mapGaffer, r.base = 0x40100 + 4 * k ∧ r.dims = [(8, 0x1000), (16, 0x10)] := by decide

/-- The two halves of a shared register. -/
theorem mapGaffer_shared_rows : ∀ k < 2, ∃ r ∈ mapGaffer, r.base = 0x40200 + 4 * k ∧ r.dims = [(8, 0x1000), (64, 0x8)] := by decide

/-- The registers of the threads fill a Gaffer's page from 0x100 to 0x1FF, those shared with the host the rest. -/
theorem descAt_gaffer_named (e : Fin 8) {i : Nat} (hlo : 0x100 ≤ i) (hhi : i < 0x400) :
    (descAt (0x40000 + 0x1000 * e.val + i / 4 * 4)).isSome = true := by
  by_cases h : i < 0x200
  · obtain ⟨r, hr, hb, hd⟩ := mapGaffer_thread_rows (i / 4 % 4) (by omega)
    have ho : 0x40000 + 0x1000 * e.val + i / 4 * 4 = 0x1000 * e.val + r.base + (i - 0x100) / 0x10 * 0x10 := by rw [hb]; omega
    rw [ho]
    exact descAt_gafferInstance hr hd (by omega) (by omega) e (by omega) (by omega)
  · obtain ⟨r, hr, hb, hd⟩ := mapGaffer_shared_rows (i / 4 % 2) (by omega)
    have ho : 0x40000 + 0x1000 * e.val + i / 4 * 4 = 0x1000 * e.val + r.base + (i - 0x200) / 8 * 8 := by rw [hb]; omega
    rw [ho]
    exact descAt_gafferInstance hr hd (by omega) (by omega) e (by omega) (by omega)

end Sys2Proof.Machine
end

section
/-!
SUPPORT. Unnamed offsets show the status (R294).
-/
namespace Sys2Proof
open Sys2Proof.Machine

/-! ### The status pages -/

theorem statusPages_partial : ∀ x ∈ statusPages, partialBase x.1 := by
  unfold partialBase
  decide +kernel

theorem statusPages_status : ∀ x ∈ statusPages, x.2 = pageStatus x.1 := by decide +kernel

theorem siteOf_statusRegister (p : Path) : ∀ x ∈ statusPages, siteOf p x.2 = .reg x.2 := by cases p <;> decide +kernel

/-- A read of a status register makes no copies and has no side effect. -/
theorem readReg_statusRegister {base st : Nat} (h : (base, st) ∈ statusPages) (s : State) (p : Path) :
    s.readReg p st = s.answer p (s.readWord p st) := by
  have plain : ∀ x ∈ statusPages, ¬ (0x100000 ≤ x.2 ∧ x.2 < 0x118000 ∧ (x.2 % 0x400 = 0x84 ∨ x.2 % 0x400 = 0xA4)) ∧
      ¬ (0x2040 ≤ x.2 ∧ x.2 < 0x20C0 ∧ x.2 % 16 = 0) ∧ rlCopies x.2 = [] ∧ x.2 ≠ R.SPN_PPSI_LO ∧ x.2 ≠ R.CAL_U_DATA := by decide +kernel
  obtain ⟨hcap, hclaim, hcopy, hpps, hcal⟩ := plain _ h
  exact readReg_of_plain hcap hclaim hcopy hpps hcal s p

theorem exec_read_alias {base st : Nat} (h : (base, st) ∈ statusPages) (j : Fin 4) {i : Nat} (hi : i < 0x400) (p : Path) (s : State) :
    exec (.rlRead p (word (base + 0x400 * j + i))) s = exec (.rlRead p (word (base + i))) s := by
  have hb := statusPages_partial _ h
  have hlt := partialBase_lt hb
  simp only [exec_rlRead, word_toNat_of_lt (show base + 0x400 * j + i < 2 ^ 32 by omega),
    word_toNat_of_lt (show base + i < 2 ^ 32 by omega), readAt_congr (siteOf_alias hb p j hi)]

theorem exec_write_alias {base st : Nat} (h : (base, st) ∈ statusPages) (j : Fin 4) {i : Nat} (hi : i < 0x400) (p : Path) (v : Word)
    (full : Bool) (s : State) :
    exec (.registerWrite p (word (base + 0x400 * j + i)) v full) s = exec (.registerWrite p (word (base + i)) v full) s := by
  have hb := statusPages_partial _ h
  have hlt := partialBase_lt hb
  have hpage : (base + 0x400 * j + i) / 0x1000 = (base + i) / 0x1000 := by have := hb.1; omega
  simp only [exec_registerWrite, word_toNat_of_lt (show base + 0x400 * j + i < 2 ^ 32 by omega),
    word_toNat_of_lt (show base + i < 2 ^ 32 by omega), writeAt_congr (siteOf_alias hb p j hi) hpage]

/-- An unnamed offset of a status page is a site of the page's status register, at an address of 32 bits. -/
theorem siteOf_statusPage_unnamed {base st i : Nat} (h : (base, st) ∈ statusPages) (hi : i < 0x400) (hn : descAt (base + i / 4 * 4) = none)
    (p : Path) : siteOf p (word (base + i)).toNat = .status st := by
  have hb := statusPages_partial _ h
  have hlt := partialBase_lt hb
  rw [word_toNat_of_lt (by omega), siteOf_unnamed hb p hi hn, ← statusPages_status _ h]

/-- A read of the status register itself answers what an unnamed offset of its page shows. -/
theorem readAt_statusRegister {base st : Nat} (h : (base, st) ∈ statusPages) (s : State) (p : Path) :
    s.readAt p (word st).toNat = s.answer p (s.readWord p st) := by
  have hst : ∀ x ∈ statusPages, x.2 < 2 ^ 32 := by decide +kernel
  rw [word_toNat_of_lt (hst _ h), readAt_reg (siteOf_statusRegister p _ h), readReg_statusRegister h]

/-! ### Channel blocks -/

theorem siteOf_channelBlock_named (p : Path) (c : Fin 96) {i : Nat} (hi : i < 0x400)
    (h : descAt (0x100000 + 0x400 * c.val + i / 4 * 4) ≠ none) :
    siteOf p (0x100000 + 0x400 * c.val + i) = .reg (0x100000 + 0x400 * c.val + i / 4 * 4) := by
  rw [siteOf_channelBlock p c hi, fullSite_aligned (by omega), if_pos (Option.isSome_iff_ne_none.2 h)]

theorem siteOf_channelBlock_unnamed (p : Path) (c : Fin 96) {i : Nat} (hi : i < 0x400)
    (h : descAt (0x100000 + 0x400 * c.val + i / 4 * 4) = none) : siteOf p (word (0x100000 + 0x400 * c.val + i)).toNat = .blank := by
  rw [word_toNat_of_lt (by omega), siteOf_channelBlock p c hi, fullSite_aligned (by omega)]
  simp [h]

/-! ### The areas that are decoded in full -/

theorem fullAreas_hold (p : Path) : fullAreas p := by
  refine ⟨fun n i k hi => ⟨?_, fun hj => descAt_ringTail n (by omega) (by omega)⟩, fun k i hi => siteOf_lehrPage_alias p k hi,
    fun e w i hi => siteOf_microword p e w hi, fun a => ⟨siteOf_sramWindow p, siteOf_mramWindow p⟩⟩
  rw [siteOf_ringPage p n k hi, fullSite_aligned (by omega)]

/-- Settles O52: a site decides what a read and a write do; a page that is decoded in part uses bits 9:2 of an offset, and an unnamed
one is a site of its status register. -/
theorem unnamedOffsetsShowTheStatus : Obligations.UnnamedOffsetsShowTheStatus := by
  unfold Obligations.UnnamedOffsetsShowTheStatus
  refine ⟨fullAreas_hold, ?pages, fun e i hlo hhi => descAt_gaffer_named e hlo hhi, ?channels⟩
  case pages =>
    intro base st i p s h hi
    refine ⟨fun j v full => ⟨exec_read_alias h j hi p s, exec_write_alias h j hi p v full s⟩, fun hn => ?_⟩
    have hsite := siteOf_statusPage_unnamed h hi hn p
    refine ⟨?_, fun hp => ?_, fun hw v => ?_⟩
    · simp only [exec_rlRead, readAt_status hsite, readAt_statusRegister h]
    · exact ⟨_, by rw [exec_rlRead, hostRead_open hp, readAt_status hsite], answer_rdata s p _⟩
    · rw [exec_registerWrite, writeAt_status hsite hw]
  case channels =>
    intro c i p s hi
    refine ⟨siteOf_channelBlock_named p c hi, fun hn => ?_⟩
    have hsite := siteOf_channelBlock_unnamed p c hi hn
    refine ⟨fun hp => ?_, fun hw v => ?_⟩
    · exact ⟨_, by rw [exec_rlRead, hostRead_open hp, readAt_blank hsite], answer_rdata s p 0⟩
    · rw [exec_registerWrite, writeAt_blank hsite hw]

end Sys2Proof
end

section
/-!
SUPPORT. The arithmetic group on naturals is arithmetic of 40-bit words (R127, R128): one lemma for each function of the group.
-/
namespace Sys2Proof.Machine
open Sys2Proof

/-! ### Bits of a word -/

theorem nbit_eq_testBit (v i : Nat) : nbit v i = v.testBit i := by
  simp [nbit, Nat.testBit_eq_decide_div_mod_eq, Nat.shiftRight_eq_div_pow]

theorem nbit_toNat {w : Nat} (x : BitVec w) (i : Nat) : nbit x.toNat i = x.getLsbD i := by
  rw [nbit_eq_testBit, BitVec.testBit_toNat]

theorem sign40_toNat (a : BitVec 40) : sign40 a.toNat = a.msb := by
  rw [sign40, nbit_toNat, BitVec.msb_eq_getLsbD_last]

/-! ### Flags -/

/-- The weights 1, 2, 4, 8 place the flags Z, N, C, V. -/
theorem ofNat_flags : ∀ z n c v : Bool, BitVec.ofNat 4 (b2n z + 2 * b2n n + 4 * b2n c + 8 * b2n v) =
    BitVec.ofBool v ++ BitVec.ofBool c ++ BitVec.ofBool n ++ BitVec.ofBool z := by decide

theorem aluFlags_toNat (r : BitVec 40) (c v : Bool) : aluFlags r.toNat c v = flagsOf r c v := by
  have hz : decide (r.toNat % m40 = 0) = (r == 0) := by
    rw [show r.toNat % m40 = r.toNat from Nat.mod_eq_of_lt r.isLt, Bool.eq_iff_iff, decide_eq_true_iff, beq_iff_eq, BitVec.toNat_eq]
    rfl
  rw [aluFlags, ofNat_flags, hz, sign40_toNat, flagsOf]

theorem aluPlain_of_eq_toNat {n : Nat} {r : BitVec 40} (h : n = r.toNat) :
    aluPlain n = ⟨some r.toNat, some (flagsOf r false false)⟩ := by
  rw [h, aluPlain, aluFlags_toNat]

/-! ### Sums and differences -/

theorem aluAdd_toNat (a b : BitVec 40) : aluAdd a.toNat b.toNat = (a + b).toNat := (BitVec.toNat_add a b).symm

theorem aluSub_toNat (a b : BitVec 40) : aluSub a.toNat b.toNat = (a - b).toNat := by
  have hb := b.isLt
  rw [aluSub, BitVec.toNat_sub, m40]
  congr 1
  omega

/-- A sum that fits the signed range is exact, and one that does not is not, for the exact sum lies outside the range. -/
theorem toInt_add_ne_iff_saddOverflow (a b : BitVec 40) : (a + b).toInt ≠ a.toInt + b.toInt ↔ a.saddOverflow b = true := by
  refine ⟨fun h => by_contra fun ho => h (BitVec.toInt_add_of_not_saddOverflow ho), fun ho heq => ?_⟩
  have hlt := (a + b).two_mul_toInt_lt
  have hge := (a + b).le_two_mul_toInt
  simp only [BitVec.saddOverflow, Bool.or_eq_true, decide_eq_true_iff] at ho
  omega

theorem toInt_sub_ne_iff_ssubOverflow (a b : BitVec 40) : (a - b).toInt ≠ a.toInt - b.toInt ↔ a.ssubOverflow b = true := by
  refine ⟨fun h => by_contra fun ho => h (BitVec.toInt_sub_of_not_ssubOverflow ho), fun ho heq => ?_⟩
  have hlt := (a - b).two_mul_toInt_lt
  have hge := (a - b).le_two_mul_toInt
  simp only [BitVec.ssubOverflow, Bool.or_eq_true, decide_eq_true_iff] at ho
  omega

/-- A sum overflows where the operands have one sign and the sum has the other. -/
theorem addFlags_toNat (a b : BitVec 40) : addFlags a.toNat b.toNat =
    flagsOf (a + b) (decide (2 ^ 40 ≤ a.toNat + b.toNat)) (decide ((a + b).toInt ≠ a.toInt + b.toInt)) := by
  simp only [addFlags, aluAdd_toNat, aluFlags_toNat, sign40_toNat, toInt_add_ne_iff_saddOverflow, Bool.decide_eq_true,
    BitVec.saddOverflow_eq, bne]
  rfl

/-- A difference overflows where the operands differ in sign and the difference has not the sign of A. -/
theorem subFlags_toNat (a b : BitVec 40) : subFlags a.toNat b.toNat =
    flagsOf (a - b) (decide (a.toNat < b.toNat)) (decide ((a - b).toInt ≠ a.toInt - b.toInt)) := by
  have hv : ∀ x y z : Bool, (x != y && z != x) = (!x && y && z || x && !y && !z) := by decide
  simp only [subFlags, aluSub_toNat, aluFlags_toNat, sign40_toNat, toInt_sub_ne_iff_ssubOverflow, Bool.decide_eq_true,
    BitVec.ssubOverflow_eq, hv]

/-- TDIFF: 2^40 is a multiple of 2^38, and the sign extension adds the two upper bits. -/
theorem aluTdiff_toNat (a b : BitVec 40) : aluTdiff a.toNat b.toNat = (((a - b).setWidth 38).signExtend 40).toNat := by
  have hd : (a.toNat + m40 - b.toNat) % 2 ^ 38 = ((a - b).setWidth 38).toNat := by
    rw [BitVec.toNat_setWidth, ← aluSub_toNat, aluSub, Nat.mod_mod_of_dvd _ (by decide)]
  rw [aluTdiff, hd, nbit_toNat, BitVec.toNat_signExtend, BitVec.toNat_setWidth_of_le (b := (a - b).setWidth 38) (by decide),
    BitVec.msb_eq_getLsbD_last]
  split <;> rfl

/-! ### Shifts -/

theorem aluShl_toNat (a : BitVec 40) (k : Nat) : aluShl a.toNat k = (a <<< k).toNat := by
  rw [aluShl]
  split
  case isTrue hk => rw [BitVec.shiftLeft_eq_zero hk, BitVec.toNat_zero]
  case isFalse => rw [BitVec.toNat_shiftLeft, Nat.shiftLeft_eq, m40]

theorem aluShr_toNat (a : BitVec 40) (k : Nat) : aluShr a.toNat k = (a >>> k).toNat := by
  rw [aluShr]
  split
  case isTrue hk => rw [BitVec.ushiftRight_eq_zero hk, BitVec.toNat_zero]
  case isFalse => rw [BitVec.toNat_ushiftRight, Nat.shiftRight_eq_div_pow]

theorem aluSar_toNat (a : BitVec 40) (k : Nat) : aluSar a.toNat k = (a.sshiftRight k).toNat := by
  rw [aluSar, BitVec.ofNat_toNat, BitVec.setWidth_eq]

/-! ### The lesser and the greater -/

theorem min_toNat (a b : BitVec 40) : min a.toNat b.toNat = (if a.toNat ≤ b.toNat then a else b).toNat := by
  rw [Nat.min_def, apply_ite BitVec.toNat]

theorem max_toNat (a b : BitVec 40) : max a.toNat b.toNat = (if a.toNat ≤ b.toNat then b else a).toNat := by
  rw [Nat.max_def, apply_ite BitVec.toNat]

/-! ### Single bits -/

theorem aluBset_toNat (a : BitVec 40) (k : Nat) : aluBset a.toNat k = (a ||| (1#40 <<< k)).toNat := by
  rw [aluBset, ← BitVec.twoPow_eq]
  split
  case isTrue hk => rw [BitVec.toNat_or, BitVec.toNat_twoPow_of_le hk, Nat.or_zero]
  case isFalse hk => rw [BitVec.toNat_or, BitVec.toNat_twoPow_of_lt (by omega)]

/-- Clearing the bits of a mask takes away those that are set. -/
theorem and_not_eq_sub_and {w : Nat} (a m : BitVec w) : a &&& ~~~m = a - (a &&& m) := by
  have hdisj : (a &&& ~~~m) &&& (a &&& m) = 0#w := by
    ext i hi; cases h : m[i] <;> simp [h]
  have hsum : (a &&& ~~~m) + (a &&& m) = a := by
    rw [BitVec.add_eq_or_of_and_eq_zero _ _ hdisj]
    ext i hi; cases h : m[i] <;> simp [h]
  exact BitVec.eq_sub_iff_add_eq.2 hsum

theorem aluBclr_toNat (a : BitVec 40) (k : Nat) : aluBclr a.toNat k = (a &&& ~~~(1#40 <<< k)).toNat := by
  rw [← BitVec.twoPow_eq, and_not_eq_sub_and, BitVec.and_twoPow, aluBclr, nbit_toNat]
  by_cases hbit : a.getLsbD k = true
  case pos =>
    have hk : k < 40 := BitVec.lt_of_getLsbD hbit
    have hle : 2 ^ k ≤ a.toNat := Nat.ge_two_pow_of_testBit (by rwa [BitVec.testBit_toNat])
    have hpow : (BitVec.twoPow 40 k).toNat = 2 ^ k := BitVec.toNat_twoPow_of_lt hk
    rw [if_neg (by simp [hbit, hk]), if_pos hbit, BitVec.toNat_sub_of_le (by rwa [BitVec.le_def, hpow]), hpow]
  case neg => rw [if_pos (.inr hbit), if_neg hbit, BitVec.sub_zero]

end Sys2Proof.Machine
end

section
/-!
SUPPORT. The arithmetic group is the table of R127.
-/
namespace Sys2Proof
open Sys2Proof.Machine

theorem alu_add_toNat (a b : BitVec 40) : alu 0x02 a.toNat b.toNat = ⟨some (a + b).toNat,
    some (flagsOf (a + b) (decide (2 ^ 40 ≤ a.toNat + b.toNat)) (decide ((a + b).toInt ≠ a.toInt + b.toInt)))⟩ := by
  rw [alu, aluAdd_toNat, addFlags_toNat]

theorem alu_sub_toNat (a b : BitVec 40) : alu 0x03 a.toNat b.toNat = ⟨some (a - b).toNat,
    some (flagsOf (a - b) (decide (a.toNat < b.toNat)) (decide ((a - b).toInt ≠ a.toInt - b.toInt)))⟩ := by
  rw [alu, aluSub_toNat, subFlags_toNat]

theorem alu_cmp_toNat (a b : BitVec 40) : alu 0x0A a.toNat b.toNat = ⟨none,
    some (flagsOf (a - b) (decide (a.toNat < b.toNat)) (decide ((a - b).toInt ≠ a.toInt - b.toInt)))⟩ := by
  rw [alu, subFlags_toNat]

theorem alu_tst_toNat (a b : BitVec 40) : alu 0x0B a.toNat b.toNat = ⟨none, some (flagsOf (a &&& b) false false)⟩ := by
  rw [alu, ← BitVec.toNat_and, aluFlags_toNat]

/-- Settles O23: each row of the table is the lemma about the function that its AOP code selects. -/
theorem arithmeticIsTheTable : Obligations.ArithmeticIsTheTable := by
  unfold Obligations.ArithmeticIsTheTable
  intro a b k plain sub
  refine ⟨?nop, ?mov, ?add, ?sub, ?and, ?or, ?xor, ?shl, ?shr, ?sar, ?cmp, ?tst, ?min, ?max, ?tdiff, ?bset, ?bclr⟩
  case nop => rfl
  case mov => exact aluPlain_of_eq_toNat rfl
  case add => exact alu_add_toNat a b
  case sub => exact alu_sub_toNat a b
  case and => exact aluPlain_of_eq_toNat (BitVec.toNat_and a b).symm
  case or => exact aluPlain_of_eq_toNat (BitVec.toNat_or a b).symm
  case xor => exact aluPlain_of_eq_toNat (BitVec.toNat_xor a b).symm
  case shl => exact aluPlain_of_eq_toNat (aluShl_toNat a k)
  case shr => exact aluPlain_of_eq_toNat (aluShr_toNat a k)
  case sar => exact aluPlain_of_eq_toNat (aluSar_toNat a k)
  case cmp => exact alu_cmp_toNat a b
  case tst => exact alu_tst_toNat a b
  case min => exact aluPlain_of_eq_toNat (min_toNat a b)
  case max => exact aluPlain_of_eq_toNat (max_toNat a b)
  case tdiff => exact aluPlain_of_eq_toNat (aluTdiff_toNat a b)
  case bset => exact aluPlain_of_eq_toNat (aluBset_toNat a k)
  case bclr => exact aluPlain_of_eq_toNat (aluBclr_toNat a k)

end Sys2Proof
end

section
/-!
SUPPORT. The whole machine: what every command answers and keeps, and what a step is.
-/
set_option Elab.async false
namespace Sys2Proof.Machine
open Sys2Proof

theorem event_goesOn (s : State) (f : State → State) : goesOn (s.event f) := by
  unfold State.event
  split <;> exact ⟨_, rfl⟩

/-- A row that is an event of the block passes the gate of events. -/
theorem exec_event (c : Instr) (s : State) (h : isEvent c = true) : ∃ f, exec c s = s.event f := by
  cases c
  case holdEnd => exact ⟨_, execHoldEnd.eq_1 s⟩
  case slewDone => exact ⟨_, execSlewDone.eq_1 s⟩
  case ppsPulse => exact ⟨_, execPpsPulse.eq_1 s⟩
  case ppsPulseEnd => exact ⟨_, execPpsPulseEnd.eq_1 s⟩
  case ppsCapture falling pos => exact ⟨_, execPpsCapture.eq_1 falling pos s⟩
  case recalibration ms gs tj => exact ⟨_, execRecalibration.eq_1 ms gs tj s⟩
  case inputEdge c level pos width => exact ⟨_, execInputEdge.eq_1 c level pos width s⟩
  case compareFire c u => exact ⟨_, execCompareFire.eq_1 c u s⟩
  case capture c k rise pos => exact ⟨_, execCapture.eq_1 c k rise pos s⟩
  case applyStrobe g => exact ⟨_, execApplyStrobe.eq_1 g s⟩
  case dispatch e => exact ⟨_, execDispatch.eq_1 e s⟩
  case timerDue e => exact ⟨_, execTimerDue.eq_1 e s⟩
  case threadStarve e n => exact ⟨_, execThreadStarve.eq_1 e n s⟩
  case spaceRetry e n => exact ⟨_, execSpaceRetry.eq_1 e n s⟩
  case mwNop e => exact ⟨_, execMwArithNop.eq_1 e s⟩
  case mwMov e => exact ⟨_, execMwMov.eq_1 e s⟩
  case mwAdd e => exact ⟨_, execMwAdd.eq_1 e s⟩
  case mwSub e => exact ⟨_, execMwSub.eq_1 e s⟩
  case mwAnd e => exact ⟨_, execMwAnd.eq_1 e s⟩
  case mwOr e => exact ⟨_, execMwOr.eq_1 e s⟩
  case mwXor e => exact ⟨_, execMwXor.eq_1 e s⟩
  case mwShl e => exact ⟨_, execMwShl.eq_1 e s⟩
  case mwShr e => exact ⟨_, execMwShr.eq_1 e s⟩
  case mwSar e => exact ⟨_, execMwSar.eq_1 e s⟩
  case mwCmp e => exact ⟨_, execMwCmp.eq_1 e s⟩
  case mwTst e => exact ⟨_, execMwTst.eq_1 e s⟩
  case mwMin e => exact ⟨_, execMwMin.eq_1 e s⟩
  case mwMax e => exact ⟨_, execMwMax.eq_1 e s⟩
  case mwTdiff e => exact ⟨_, execMwTdiff.eq_1 e s⟩
  case mwBset e => exact ⟨_, execMwBset.eq_1 e s⟩
  case mwBclr e => exact ⟨_, execMwBclr.eq_1 e s⟩
  case mwNext e => exact ⟨_, execMwNext.eq_1 e s⟩
  case mwJump e => exact ⟨_, execMwJump.eq_1 e s⟩
  case mwCall e => exact ⟨_, execMwCall.eq_1 e s⟩
  case mwRet e => exact ⟨_, execMwRet.eq_1 e s⟩
  case mwWait e => exact ⟨_, execMwWait.eq_1 e s⟩
  case mwEnd e => exact ⟨_, execMwEnd.eq_1 e s⟩
  case mwDisp e => exact ⟨_, execMwDisp.eq_1 e s⟩
  case mwYield e => exact ⟨_, execMwYield.eq_1 e s⟩
  case mwInsCmp e => exact ⟨_, execMwInsCmp.eq_1 e s⟩
  case mwInsTmr e => exact ⟨_, execMwInsTmr.eq_1 e s⟩
  case mwCanCmp e => exact ⟨_, execMwCanCmp.eq_1 e s⟩
  case mwCanTmr e => exact ⟨_, execMwCanTmr.eq_1 e s⟩
  case mwInsAng e => exact ⟨_, execMwInsAng.eq_1 e s⟩
  case mwCaprd e => exact ⟨_, execMwCaprd.eq_1 e s⟩
  case mwSnap e => exact ⟨_, execMwSnap.eq_1 e s⟩
  case mwCntrd e => exact ⟨_, execMwCntrd.eq_1 e s⟩
  case mwFpush e => exact ⟨_, execMwFpush.eq_1 e s⟩
  case mwLdbase e => exact ⟨_, execMwLdbase.eq_1 e s⟩
  case mwChst e => exact ⟨_, execMwChst.eq_1 e s⟩
  case mwLd32 e ecc => exact ⟨_, execMwLd32.eq_1 e ecc s⟩
  case mwLd40 e ecc => exact ⟨_, execMwLd40.eq_1 e ecc s⟩
  case mwSt32 e => exact ⟨_, execMwSt32.eq_1 e s⟩
  case mwSt40 e => exact ⟨_, execMwSt40.eq_1 e s⟩
  case mwRec e => exact ⟨_, execMwRec.eq_1 e s⟩
  case mwAng e => exact ⟨_, execMwAng.eq_1 e s⟩
  case mwEdge e => exact ⟨_, execMwEdge.eq_1 e s⟩
  case mwA2t e => exact ⟨_, execMwA2t.eq_1 e s⟩
  case mwNow e => exact ⟨_, execMwNow.eq_1 e s⟩
  case mwSignal e => exact ⟨_, execMwSignal.eq_1 e s⟩
  case mwWclr e => exact ⟨_, execMwWclr.eq_1 e s⟩
  case mwTrig e => exact ⟨_, execMwTrig.eq_1 e s⟩
  case wheelTooth n pos => exact ⟨_, (execWheelTooth.eq_1 n pos s).trans (State.oryEdge.eq_1 _ _ _ _)⟩
  case camEdge n pos => exact ⟨_, (execCamEdge.eq_1 n pos s).trans (State.oryEdge.eq_1 _ _ _ _)⟩
  case camLost n => exact ⟨_, execCamLost.eq_1 n s⟩
  case dirPwDecision n => exact ⟨_, execDirPwDecision.eq_1 n s⟩
  case hallChange n lvl pos => exact ⟨_, execHallChange.eq_1 n lvl pos s⟩
  case quadTransition n lvl pos => exact ⟨_, execQuadTransition.eq_1 n lvl pos s⟩
  case sincosSample n rawS rawC => exact ⟨_, execSincosSample.eq_1 n rawS rawC s⟩
  case sincosIndex n pos => exact ⟨_, (execSincosIndex.eq_1 n pos s).trans (State.oryEdge.eq_1 _ _ _ _)⟩
  case still n => exact ⟨_, execStill.eq_1 n s⟩
  case convHold k => exact ⟨_, execConvHold.eq_1 k s⟩
  case convResult k raw => exact ⟨_, execConvResult.eq_1 k raw s⟩
  case commandFetch n bad corr => exact ⟨_, execCommandFetch.eq_1 n bad corr s⟩
  case lehrNop n => exact ⟨_, execLehrNop.eq_1 n s⟩
  case arm n => exact ⟨_, execArm.eq_1 n s⟩
  case cancel n => exact ⟨_, execCancel.eq_1 n s⟩
  case move n => exact ⟨_, execMove.eq_1 n s⟩
  case lehrIllegal n => exact ⟨_, execLehrIllegal.eq_1 n s⟩
  case stallResume => exact ⟨_, execStallResume.eq_1 s⟩
  case prefetch => exact ⟨_, execPrefetch.eq_1 s⟩
  case cascade => exact ⟨_, execCascade.eq_1 s⟩
  case deadlineFire ecc => exact ⟨_, execDeadlineFire.eq_1 ecc s⟩
  case lehrHosterr => exact ⟨_, execLehrHosterr.eq_1 s⟩
  case recordWrite => exact ⟨_, execRecordWrite.eq_1 s⟩
  case ringHosterr n => exact ⟨_, execRingHosterr.eq_1 n s⟩
  case fence n => exact ⟨_, execFence.eq_1 n s⟩
  case mark n => exact ⟨_, execMark.eq_1 n s⟩
  case summary n => exact ⟨_, execSummary.eq_1 n s⟩
  case ringIllegal n => exact ⟨_, execRingIllegal.eq_1 n s⟩
  case latchTimeout => exact ⟨_, execLatchTimeout.eq_1 s⟩
  case linkLock p => exact ⟨_, execLinkLock.eq_1 p s⟩
  case portDown p code viol => exact ⟨_, execPortDown.eq_1 p code viol s⟩
  case holdoffEnd p => exact ⟨_, execHoldoffEnd.eq_1 p s⟩
  case beaconTimeout p => exact ⟨_, execBeaconTimeout.eq_1 p s⟩
  case beaconSend p => exact ⟨_, execBeaconSend.eq_1 p s⟩
  case beaconReceive p f b pos => exact ⟨_, execBeaconReceive.eq_1 p f b pos s⟩
  case candidateExpiry p => exact ⟨_, execCandidateExpiry.eq_1 p s⟩
  case delayReqSend p => exact ⟨_, execDelayReqSend.eq_1 p s⟩
  case delayReqReceive p f ask pos => exact ⟨_, execDelayReqReceive.eq_1 p f ask pos s⟩
  case delayRespReceive p f t4Ns t4Sub num => exact ⟨_, execDelayRespReceive.eq_1 p f t4Ns t4Sub num s⟩
  case delayTimeout p => exact ⟨_, execDelayTimeout.eq_1 p s⟩
  case joinReceive p f id uid => exact ⟨_, execJoinReceive.eq_1 p f id uid s⟩
  case joinResend => exact ⟨_, execJoinResend.eq_1 s⟩
  case joinAckReceive p f id conflict uid => exact ⟨_, execJoinAckReceive.eq_1 p f id conflict uid s⟩
  case leaveReceive p f ids => exact ⟨_, execLeaveReceive.eq_1 p f ids s⟩
  case applyAtFrame p f t m bseq => exact ⟨_, execApplyAtFrame.eq_1 p f t m bseq s⟩
  case doorbellFrame p f n mid => exact ⟨_, execDoorbellFrame.eq_1 p f n mid s⟩
  case mailboxFrame p f mid data => exact ⟨_, execMailboxFrame.eq_1 p f mid data s⟩
  case deliveryReceive p f mid typ refused => exact ⟨_, execDeliveryReceive.eq_1 p f mid typ refused s⟩
  case mailboxTimeout mid => exact ⟨_, execMailboxTimeout.eq_1 mid s⟩
  case frameSend p => exact ⟨_, execFrameSend.eq_1 p s⟩
  case doorbell n => exact ⟨_, execDoorbell.eq_1 n s⟩
  case mailbox n => exact ⟨_, execMailbox.eq_1 n s⟩
  case mboxCont n => exact ⟨_, execMboxCont.eq_1 n s⟩
  case applyAt n => exact ⟨_, execApplyAt.eq_1 n s⟩
  case elIllegal n => exact ⟨_, execElIllegal.eq_1 n s⟩
  case applyAtDue => exact ⟨_, execApplyAtDue.eq_1 s⟩
  case signatureDone => exact ⟨_, execSignatureDone.eq_1 s⟩
  case summaryPeriod => exact ⟨_, execSummaryPeriod.eq_1 s⟩
  case summaryDone => exact ⟨_, execSummaryDone.eq_1 s⟩
  case slotSelection i0 i1 i2 => exact ⟨_, execSlotSelection.eq_1 i0 i1 i2 s⟩
  case loadPass head rest => exact ⟨_, execLoadPass.eq_1 head rest s⟩
  case idleWake => exact ⟨_, execIdleWake.eq_1 s⟩
  case wdgWarn => exact ⟨_, execWdgWarn.eq_1 s⟩
  case watchdogExpiry => exact ⟨_, execWatchdogExpiry.eq_1 s⟩
  case linkReset => exact ⟨_, execLinkReset.eq_1 s⟩
  case railOn r => exact ⟨_, execRailOn.eq_1 r s⟩
  case railOff r => exact ⟨_, execRailOff.eq_1 r s⟩
  case pgTimeout r => exact ⟨_, execPgTimeout.eq_1 r s⟩
  case pgLost r => exact ⟨_, execPgLost.eq_1 r s⟩
  case healthSample tj vcore ms vstFail gs => exact ⟨_, execHealthSample.eq_1 tj vcore ms vstFail gs s⟩
  case healthLife => exact ⟨_, execHealthLife.eq_1 s⟩
  case pgoodAsserted r => exact ⟨_, execPgoodAsserted.eq_1 r s⟩
  all_goals exact nomatch h

/-- A row that is a host write passes the gate of host writes, at its offset. -/
theorem exec_hostOffset {c : Instr} {o : Nat} (s : State) (h : hostOffset c = some o) : ∃ f, exec c s = .next (s.hostWrite o f) := by
  cases c
  case calUDataAccess p wr =>
    cases wr <;> cases h
    exact ⟨_, rfl⟩
  all_goals cases h
  all_goals exact ⟨_, rfl⟩

/-- Every command answers a next state: an event by its gate, any other as it is written. -/
theorem exec_goesOn (c : Instr) (s : State) : goesOn (exec c s) := by
  by_cases h : isEvent c = true
  · obtain ⟨f, hf⟩ := exec_event c s h
    exact hf ▸ event_goesOn s f
  · cases c
    case calUDataAccess p wr => cases wr <;> exact ⟨_, rfl⟩
    case unmappedAccess p a w =>
      show goesOn (execUnmappedAccess p a w s)
      unfold execUnmappedAccess
      split
      · cases w <;> exact ⟨_, rfl⟩
      · exact ⟨_, rfl⟩
    case sramWindowWrite p a v be =>
      show goesOn (execSramWindowWrite p a v be s)
      unfold execSramWindowWrite
      split <;> exact ⟨_, rfl⟩
    case mramWindowWrite p a v =>
      show goesOn (execMramWindowWrite p a v s)
      unfold execMramWindowWrite
      split <;> exact ⟨_, rfl⟩
    case hostWindowRead p a ecc =>
      show goesOn (execHostWindowRead p a ecc s)
      unfold execHostWindowRead
      split <;> exact ⟨_, rfl⟩
    all_goals first | exact absurd rfl h | exact ⟨_, rfl⟩

/-- Every command keeps the queue, the factory words and the canonical form. -/
theorem exec_kept : ∀ (c : Instr) (s : State), KeptO s (exec c s)
  | .pllLock, s => execPllLock_kept s (kept_refl s)
  | .refLost, s => execRefLost_kept s (kept_refl s)
  | .pllUnlock, s => execPllUnlock_kept s (kept_refl s)
  | .relock, s => execRelock_kept s (kept_refl s)
  | .spnRateWrite p v, s => execSpnRateWrite_kept p v s (kept_refl s)
  | .spineNop p waits ag, s => execSpineNop_kept p waits ag s (kept_refl s)
  | .spineSet p waits ag, s => execSpineSet_kept p waits ag s (kept_refl s)
  | .spineStep p waits ag, s => execSpineStep_kept p waits ag s (kept_refl s)
  | .spineSlew p waits ag, s => execSpineSlew_kept p waits ag s (kept_refl s)
  | .slewAbort p waits ag, s => execSlewAbort_kept p waits ag s (kept_refl s)
  | .spnCmdIllegal p op waits ag, s => execSpnCmdIllegal_kept p op waits ag s (kept_refl s)
  | .holdEnd, s => execHoldEnd_kept s (kept_refl s)
  | .slewDone, s => execSlewDone_kept s (kept_refl s)
  | .ppsPulse, s => execPpsPulse_kept s (kept_refl s)
  | .ppsPulseEnd, s => execPpsPulseEnd_kept s (kept_refl s)
  | .ppsCapture falling pos, s => execPpsCapture_kept falling pos s (kept_refl s)
  | .recalibration ms gs tj, s => execRecalibration_kept ms gs tj s (kept_refl s)
  | .bankSupplyLoss b, s => execBankSupplyLoss_kept b s (kept_refl s)
  | .bankSupplyReturn b volts33, s => execBankSupplyReturn_kept b volts33 s (kept_refl s)
  | .inputEdge c level pos width, s => execInputEdge_kept c level pos width s (kept_refl s)
  | .compareFire c u, s => execCompareFire_kept c u s (kept_refl s)
  | .compareArm p c u v, s => execCompareArm_kept p c u v s (kept_refl s)
  | .compareDisarm p c u v, s => execCompareDisarm_kept p c u v s (kept_refl s)
  | .channelHold p c hold, s => execChannelHold_kept p c hold s (kept_refl s)
  | .fifoPush p c v, s => execFifoPush_kept p c v s (kept_refl s)
  | .fifoStart p c waits, s => execFifoStart_kept p c waits s (kept_refl s)
  | .fifoStop p c, s => execFifoStop_kept p c s (kept_refl s)
  | .fifoFlush p c, s => execFifoFlush_kept p c s (kept_refl s)
  | .fifoBreak p c, s => execFifoBreak_kept p c s (kept_refl s)
  | .capture c k rise pos, s => execCapture_kept c k rise pos s (kept_refl s)
  | .captureRead p c k, s => execCaptureRead_kept p c k s (kept_refl s)
  | .applyStrobe g, s => execApplyStrobe_kept g s (kept_refl s)
  | .threadStart p e n pc, s => execThreadStart_kept p e n pc s (kept_refl s)
  | .threadHalt p e n, s => execThreadHalt_kept p e n s (kept_refl s)
  | .threadResume p e n, s => execThreadResume_kept p e n s (kept_refl s)
  | .threadWake p e n, s => execThreadWake_kept p e n s (kept_refl s)
  | .clrFault p e n, s => execClrFault_kept p e n s (kept_refl s)
  | .clrLat p e n, s => execClrLat_kept p e n s (kept_refl s)
  | .gafferNop p e n, s => execGafferNop_kept p e n s (kept_refl s)
  | .geCtrlRun p e run, s => execGeCtrlRun_kept p e run s (kept_refl s)
  | .dispatch e, s => execDispatch_kept e s (kept_refl s)
  | .timerDue e, s => execTimerDue_kept e s (kept_refl s)
  | .threadStarve e n, s => execThreadStarve_kept e n s (kept_refl s)
  | .spaceRetry e n, s => execSpaceRetry_kept e n s (kept_refl s)
  | .sregStore p e m v, s => execSregStore_kept p e m v s (kept_refl s)
  | .mwNop e, s => execMwArithNop_kept e s (kept_refl s)
  | .mwMov e, s => execMwMov_kept e s (kept_refl s)
  | .mwAdd e, s => execMwAdd_kept e s (kept_refl s)
  | .mwSub e, s => execMwSub_kept e s (kept_refl s)
  | .mwAnd e, s => execMwAnd_kept e s (kept_refl s)
  | .mwOr e, s => execMwOr_kept e s (kept_refl s)
  | .mwXor e, s => execMwXor_kept e s (kept_refl s)
  | .mwShl e, s => execMwShl_kept e s (kept_refl s)
  | .mwShr e, s => execMwShr_kept e s (kept_refl s)
  | .mwSar e, s => execMwSar_kept e s (kept_refl s)
  | .mwCmp e, s => execMwCmp_kept e s (kept_refl s)
  | .mwTst e, s => execMwTst_kept e s (kept_refl s)
  | .mwMin e, s => execMwMin_kept e s (kept_refl s)
  | .mwMax e, s => execMwMax_kept e s (kept_refl s)
  | .mwTdiff e, s => execMwTdiff_kept e s (kept_refl s)
  | .mwBset e, s => execMwBset_kept e s (kept_refl s)
  | .mwBclr e, s => execMwBclr_kept e s (kept_refl s)
  | .mwNext e, s => execMwNext_kept e s (kept_refl s)
  | .mwJump e, s => execMwJump_kept e s (kept_refl s)
  | .mwCall e, s => execMwCall_kept e s (kept_refl s)
  | .mwRet e, s => execMwRet_kept e s (kept_refl s)
  | .mwWait e, s => execMwWait_kept e s (kept_refl s)
  | .mwEnd e, s => execMwEnd_kept e s (kept_refl s)
  | .mwDisp e, s => execMwDisp_kept e s (kept_refl s)
  | .mwYield e, s => execMwYield_kept e s (kept_refl s)
  | .mwInsCmp e, s => execMwInsCmp_kept e s (kept_refl s)
  | .mwInsTmr e, s => execMwInsTmr_kept e s (kept_refl s)
  | .mwCanCmp e, s => execMwCanCmp_kept e s (kept_refl s)
  | .mwCanTmr e, s => execMwCanTmr_kept e s (kept_refl s)
  | .mwInsAng e, s => execMwInsAng_kept e s (kept_refl s)
  | .mwCaprd e, s => execMwCaprd_kept e s (kept_refl s)
  | .mwSnap e, s => execMwSnap_kept e s (kept_refl s)
  | .mwCntrd e, s => execMwCntrd_kept e s (kept_refl s)
  | .mwFpush e, s => execMwFpush_kept e s (kept_refl s)
  | .mwLdbase e, s => execMwLdbase_kept e s (kept_refl s)
  | .mwChst e, s => execMwChst_kept e s (kept_refl s)
  | .mwLd32 e ecc, s => execMwLd32_kept e ecc s (kept_refl s)
  | .mwLd40 e ecc, s => execMwLd40_kept e ecc s (kept_refl s)
  | .mwSt32 e, s => execMwSt32_kept e s (kept_refl s)
  | .mwSt40 e, s => execMwSt40_kept e s (kept_refl s)
  | .mwRec e, s => execMwRec_kept e s (kept_refl s)
  | .mwAng e, s => execMwAng_kept e s (kept_refl s)
  | .mwEdge e, s => execMwEdge_kept e s (kept_refl s)
  | .mwA2t e, s => execMwA2t_kept e s (kept_refl s)
  | .mwNow e, s => execMwNow_kept e s (kept_refl s)
  | .mwSignal e, s => execMwSignal_kept e s (kept_refl s)
  | .mwWclr e, s => execMwWclr_kept e s (kept_refl s)
  | .mwTrig e, s => execMwTrig_kept e s (kept_refl s)
  | .csStore p e w v, s => execCsStore_kept p e w v s (kept_refl s)
  | .wheelTooth n pos, s => execWheelTooth_kept n pos s (kept_refl s)
  | .camEdge n pos, s => execCamEdge_kept n pos s (kept_refl s)
  | .camLost n, s => execCamLost_kept n s (kept_refl s)
  | .dirPwDecision n, s => execDirPwDecision_kept n s (kept_refl s)
  | .hallChange n lvl pos, s => execHallChange_kept n lvl pos s (kept_refl s)
  | .quadTransition n lvl pos, s => execQuadTransition_kept n lvl pos s (kept_refl s)
  | .sincosSample n rawS rawC, s => execSincosSample_kept n rawS rawC s (kept_refl s)
  | .sincosIndex n pos, s => execSincosIndex_kept n pos s (kept_refl s)
  | .still n, s => execStill_kept n s (kept_refl s)
  | .oryNop p n, s => execOryNop_kept p n s (kept_refl s)
  | .reacq p n, s => execReacq_kept p n s (kept_refl s)
  | .setpos p n, s => execSetpos_kept p n s (kept_refl s)
  | .clrCnt p n, s => execClrCnt_kept p n s (kept_refl s)
  | .cvCmd p k ain, s => execCvCmd_kept p k ain s (kept_refl s)
  | .convHold k, s => execConvHold_kept k s (kept_refl s)
  | .convResult k raw, s => execConvResult_kept k raw s (kept_refl s)
  | .cvbufRdidxWrite p b v, s => execCvbufRdidxWrite_kept p b v s (kept_refl s)
  | .commandFetch n bad corr, s => execCommandFetch_kept n bad corr s (kept_refl s)
  | .lehrNop n, s => execLehrNop_kept n s (kept_refl s)
  | .arm n, s => execArm_kept n s (kept_refl s)
  | .cancel n, s => execCancel_kept n s (kept_refl s)
  | .move n, s => execMove_kept n s (kept_refl s)
  | .lehrIllegal n, s => execLehrIllegal_kept n s (kept_refl s)
  | .stallResume, s => execStallResume_kept s (kept_refl s)
  | .prefetch, s => execPrefetch_kept s (kept_refl s)
  | .cascade, s => execCascade_kept s (kept_refl s)
  | .deadlineFire ecc, s => execDeadlineFire_kept ecc s (kept_refl s)
  | .lehrEnable p v, s => execLehrEnable_kept p v s (kept_refl s)
  | .lehrDisable p v, s => execLehrDisable_kept p v s (kept_refl s)
  | .lehrHosterr, s => execLehrHosterr_kept s (kept_refl s)
  | .recordWrite, s => execRecordWrite_kept s (kept_refl s)
  | .ringTailWrite p n v, s => execRingTailWrite_kept p n v s (kept_refl s)
  | .ringEnable p n v, s => execRingEnable_kept p n v s (kept_refl s)
  | .ringDisable p n v, s => execRingDisable_kept p n v s (kept_refl s)
  | .ringHosterr n, s => execRingHosterr_kept n s (kept_refl s)
  | .fence n, s => execFence_kept n s (kept_refl s)
  | .mark n, s => execMark_kept n s (kept_refl s)
  | .summary n, s => execSummary_kept n s (kept_refl s)
  | .ringIllegal n, s => execRingIllegal_kept n s (kept_refl s)
  | .ecClaim p t, s => execEcClaim_kept p t s (kept_refl s)
  | .ecComplete p t v, s => execEcComplete_kept p t v s (kept_refl s)
  | .ecDoorbell p v, s => execEcDoorbell_kept p v s (kept_refl s)
  | .ecPendWrite p w v, s => execEcPendWrite_kept p w v s (kept_refl s)
  | .ecEnWrite p w v, s => execEcEnWrite_kept p w v s (kept_refl s)
  | .ecTgtWrite p v, s => execEcTgtWrite_kept p v s (kept_refl s)
  | .ecCtrlWrite p v, s => execEcCtrlWrite_kept p v s (kept_refl s)
  | .latchTimeout, s => execLatchTimeout_kept s (kept_refl s)
  | .pcieD0Return, s => execPcieD0Return_kept s (kept_refl s)
  | .linkLock p, s => execLinkLock_kept p s (kept_refl s)
  | .portDown p code viol, s => execPortDown_kept p code viol s (kept_refl s)
  | .holdoffEnd p, s => execHoldoffEnd_kept p s (kept_refl s)
  | .beaconTimeout p, s => execBeaconTimeout_kept p s (kept_refl s)
  | .beaconSend p, s => execBeaconSend_kept p s (kept_refl s)
  | .beaconReceive p f b pos, s => execBeaconReceive_kept p f b pos s (kept_refl s)
  | .candidateExpiry p, s => execCandidateExpiry_kept p s (kept_refl s)
  | .delayReqSend p, s => execDelayReqSend_kept p s (kept_refl s)
  | .delayReqReceive p f ask pos, s => execDelayReqReceive_kept p f ask pos s (kept_refl s)
  | .delayRespReceive p f t4Ns t4Sub num, s => execDelayRespReceive_kept p f t4Ns t4Sub num s (kept_refl s)
  | .delayTimeout p, s => execDelayTimeout_kept p s (kept_refl s)
  | .joinReceive p f id uid, s => execJoinReceive_kept p f id uid s (kept_refl s)
  | .joinResend, s => execJoinResend_kept s (kept_refl s)
  | .joinAckReceive p f id conflict uid, s => execJoinAckReceive_kept p f id conflict uid s (kept_refl s)
  | .leaveReceive p f ids, s => execLeaveReceive_kept p f ids s (kept_refl s)
  | .applyAtFrame p f t m bseq, s => execApplyAtFrame_kept p f t m bseq s (kept_refl s)
  | .doorbellFrame p f n mid, s => execDoorbellFrame_kept p f n mid s (kept_refl s)
  | .mailboxFrame p f mid data, s => execMailboxFrame_kept p f mid data s (kept_refl s)
  | .deliveryReceive p f mid typ refused, s => execDeliveryReceive_kept p f mid typ refused s (kept_refl s)
  | .mailboxTimeout mid, s => execMailboxTimeout_kept mid s (kept_refl s)
  | .frameSend p, s => execFrameSend_kept p s (kept_refl s)
  | .doorbell n, s => execDoorbell_kept n s (kept_refl s)
  | .mailbox n, s => execMailbox_kept n s (kept_refl s)
  | .mboxCont n, s => execMboxCont_kept n s (kept_refl s)
  | .applyAt n, s => execApplyAt_kept n s (kept_refl s)
  | .elIllegal n, s => execElIllegal_kept n s (kept_refl s)
  | .elNop p, s => execElNop_kept p s (kept_refl s)
  | .rejoin p, s => execRejoin_kept p s (kept_refl s)
  | .elClrcnt p, s => execElClrcnt_kept p s (kept_refl s)
  | .ewerlinkDisable p v, s => execEwerlinkDisable_kept p v s (kept_refl s)
  | .portDisable p v, s => execPortDisable_kept p v s (kept_refl s)
  | .registerWrite p a v full, s => execRegisterWrite_kept p a v full s (kept_refl s)
  | .rlRead p a, s => execRlRead_kept p a s (kept_refl s)
  | .unmappedAccess p a isWrite, s => execUnmappedAccess_kept p a isWrite s (kept_refl s)
  | .spiRead a n arr, s => execSpiRead_kept a n arr s (kept_refl s)
  | .spiQread a n arr, s => execSpiQread_kept a n arr s (kept_refl s)
  | .spiWrite a ws form, s => execSpiWrite_kept a ws form s (kept_refl s)
  | .spiQwrite a ws form, s => execSpiQwrite_kept a ws form s (kept_refl s)
  | .rdsr, s => execRdsr_kept s (kept_refl s)
  | .ifreset, s => execIfreset_kept s (kept_refl s)
  | .pcieLinkDown, s => execPcieLinkDown_kept s (kept_refl s)
  | .functionLevelReset, s => execFunctionLevelReset_kept s (kept_refl s)
  | .busMasterDisable, s => execBusMasterDisable_kept s (kept_refl s)
  | .d0Exit, s => execD0Exit_kept s (kept_refl s)
  | .completionTimeout, s => execCompletionTimeout_kept s (kept_refl s)
  | .apApply p m, s => execApApply_kept p m s (kept_refl s)
  | .apAtCmd p m, s => execApAtCmd_kept p m s (kept_refl s)
  | .applyAtDue, s => execApplyAtDue_kept s (kept_refl s)
  | .apCancel p m, s => execApCancel_kept p m s (kept_refl s)
  | .apAbort p m, s => execApAbort_kept p m s (kept_refl s)
  | .apFence p, s => execApFence_kept p s (kept_refl s)
  | .apFenceRead p, s => execApFenceRead_kept p s (kept_refl s)
  | .glLockWrite p v, s => execGlLockWrite_kept p v s (kept_refl s)
  | .glHosttagWrite p v, s => execGlHosttagWrite_kept p v s (kept_refl s)
  | .signatureGo p, s => execSignatureGo_kept p s (kept_refl s)
  | .signatureDone, s => execSignatureDone_kept s (kept_refl s)
  | .summaryGo p, s => execSummaryGo_kept p s (kept_refl s)
  | .summaryPeriod, s => execSummaryPeriod_kept s (kept_refl s)
  | .summaryDone, s => execSummaryDone_kept s (kept_refl s)
  | .powerOnReset, s => execPowerOnReset_kept s (kept_refl s)
  | .brownOut, s => execBrownOut_kept s (kept_refl s)
  | .vinLockout, s => execVinLockout_kept s (kept_refl s)
  | .supplyFault which, s => execSupplyFault_kept which s (kept_refl s)
  | .pinReset, s => execPinReset_kept s (kept_refl s)
  | .slotSelection i0 i1 i2, s => execSlotSelection_kept i0 i1 i2 s (kept_refl s)
  | .loadPass head rest, s => execLoadPass_kept head rest s (kept_refl s)
  | .cfgNop p, s => execCfgNop_kept p s (kept_refl s)
  | .reload p slot, s => execReload_kept p slot s (kept_refl s)
  | .release p, s => execRelease_kept p s (kept_refl s)
  | .clrerr p, s => execClrerr_kept p s (kept_refl s)
  | .calUDataAccess p wr, s => execCalUDataAccess_kept p wr s (kept_refl s)
  | .pwNop p, s => execPwNop_kept p s (kept_refl s)
  | .pwRun p, s => execPwRun_kept p s (kept_refl s)
  | .pwIdle p, s => execPwIdle_kept p s (kept_refl s)
  | .pwHold p, s => execPwHold_kept p s (kept_refl s)
  | .pwRetain p, s => execPwRetain_kept p s (kept_refl s)
  | .pwOff p, s => execPwOff_kept p s (kept_refl s)
  | .pwSoft p, s => execPwSoft_kept p s (kept_refl s)
  | .pwCmdRefused p v, s => execPwCmdRefused_kept p v s (kept_refl s)
  | .wkupInEdge falling, s => execWkupInEdge_kept falling s (kept_refl s)
  | .retTmrExpiry, s => execRetTmrExpiry_kept s (kept_refl s)
  | .retainExit edges, s => execRetainExit_kept edges s (kept_refl s)
  | .idleWake, s => execIdleWake_kept s (kept_refl s)
  | .watchdogKick p v, s => execWatchdogKick_kept p v s (kept_refl s)
  | .wdgWarn, s => execWdgWarn_kept s (kept_refl s)
  | .watchdogExpiry, s => execWatchdogExpiry_kept s (kept_refl s)
  | .linkReset, s => execLinkReset_kept s (kept_refl s)
  | .psqNop p, s => execPsqNop_kept p s (kept_refl s)
  | .psqUp p timed, s => execPsqUp_kept p timed s (kept_refl s)
  | .psqDown p timed, s => execPsqDown_kept p timed s (kept_refl s)
  | .psqAbort p, s => execPsqAbort_kept p s (kept_refl s)
  | .clrflt p, s => execClrflt_kept p s (kept_refl s)
  | .railOn r, s => execRailOn_kept r s (kept_refl s)
  | .railOff r, s => execRailOff_kept r s (kept_refl s)
  | .pgTimeout r, s => execPgTimeout_kept r s (kept_refl s)
  | .pgLost r, s => execPgLost_kept r s (kept_refl s)
  | .healthSample tj vcore ms vstFail gs, s => execHealthSample_kept tj vcore ms vstFail gs s (kept_refl s)
  | .healthLife, s => execHealthLife_kept s (kept_refl s)
  | .freezeBall, s => execFreezeBall_kept s (kept_refl s)
  | .freezeBallRelease, s => execFreezeBallRelease_kept s (kept_refl s)
  | .freeze o, s => execFreeze_kept o s (kept_refl s)
  | .thaw o, s => execThaw_kept o s (kept_refl s)
  | .frzNop p, s => execFrzNop_kept p s (kept_refl s)
  | .freezeComplete, s => execFreezeComplete_kept s (kept_refl s)
  | .pcieLinkUp wide speed bme mx cfg, s => execPcieLinkUp_kept wide speed bme mx cfg s (kept_refl s)
  | .supplyReturn which, s => execSupplyReturn_kept which s (kept_refl s)
  | .pgoodAsserted r, s => execPgoodAsserted_kept r s (kept_refl s)
  | .sramWindowWrite p a v be, s => execSramWindowWrite_kept p a v be s (kept_refl s)
  | .mramWindowWrite p a v, s => execMramWindowWrite_kept p a v s (kept_refl s)
  | .hostWindowRead p a ecc, s => execHostWindowRead_kept p a ecc s (kept_refl s)
/-- A step keeps the canonical form: that of a command is what the command keeps, that of an empty queue what a tick does. -/
theorem step_canonical {s t : State} (hs : s.canonical = true) (h : step s = .next t) : t.canonical = true := by
  unfold step at h
  split at h
  case h_1 =>
    obtain rfl : s.pllTick = t := by simpa using h
    exact (pllTick_kept s (kept_refl s)).canonical hs
  case h_2 c rest _ => exact (exec_kept c _ t h).canonical hs

end Sys2Proof.Machine
end

section
/-!
SUPPORT. The queue and the whole machine.
-/
set_option Elab.async false
namespace Sys2Proof
open Sys2Proof.Machine

/-- Settles O1: by the definition of a step. -/
theorem stepRunsFrontCommand : Obligations.StepRunsFrontCommand := by
  unfold Obligations.StepRunsFrontCommand
  intro c rest s h
  simp only [step, h]

/-- Settles O2: by the definition of a step. -/
theorem idleStepIsATick : Obligations.IdleStepIsATick := by
  unfold Obligations.IdleStepIsATick
  intro s h
  simp only [step, h]

/-- Settles O3: every command answers a next state, and what it keeps is known of each. -/
theorem commandsGoOnAndLeaveQueue : Obligations.CommandsGoOnAndLeaveQueue := by
  unfold Obligations.CommandsGoOnAndLeaveQueue
  intro c s
  obtain ⟨t, ht⟩ := exec_goesOn c s
  obtain ⟨hq, hotp, -⟩ := exec_kept c s t ht
  exact ⟨t, ht, hq, fun i => by simp only [State.otpWord, hotp]⟩

/-- Settles O4: every command keeps the canonical form, and so does a tick. -/
theorem stepKeepsCanonicalForm : Obligations.StepKeepsCanonicalForm := by
  unfold Obligations.StepKeepsCanonicalForm
  exact fun s t hs h => step_canonical hs h

/-- Settles O5: the register file lists nothing, and the rest stands in `State.reset`. -/
theorem resetLeavesTheResetState : Obligations.ResetLeavesTheResetState := by
  unfold Obligations.ResetLeavesTheResetState
  refine ⟨by decide, fun _ => rfl, by decide +kernel, by decide +kernel, by decide +kernel, by decide +kernel, fun c => ?_, rfl, rfl, rfl, rfl, rfl⟩
  have hb : State.reset.ch[c].holdBoot = true := by simp [State.reset, Channel.reset]
  exact ⟨hb, by simp only [State.held, hb, Bool.true_or]⟩

end Sys2Proof
end

section
/-!
SUPPORT. Frames: what a chain of register writes and reports leaves as it was, one rule for each operation.
-/
set_option Elab.async false
namespace Sys2Proof.Machine
open Sys2Proof

/-! ### Parts of what stays -/

theorem Far.spine {s t : State} (h : Far s t) : t.spine = s.spine := h.2.2.2.1
theorem Far.rings {s t : State} (h : Far s t) : t.rings = s.rings := h.2.2.2.2.2.2.2.2.2.2.1
theorem Far.banks {s t : State} (h : Far s t) : t.banks = s.banks := h.2.2.2.2.1
theorem Core.ch {s t : State} (h : Core s t) : t.ch = s.ch := h.1
theorem Core.gaf {s t : State} (h : Core s t) : t.gaf = s.gaf := h.2.1
theorem Core.sram {s t : State} (h : Core s t) : t.sram = s.sram := h.2.2.2.2.2.1
theorem Core.free {s t : State} (h : Core s t) : t.free = s.free := h.2.2.2.2.2.2

/-! ### Registers and blocks together -/

/-- Every register outside a list is as it was, and every block: but for reports, only the listed registers have changed. -/
def Frame (os : List Nat) (s t : State) : Prop := s.sameRegsBut t os ∧ s.sameBlocks t

theorem Frame.regs {os : List Nat} {s t : State} (h : Frame os s t) : s.sameRegsBut t os := h.1
theorem Frame.blocks {os : List Nat} {s t : State} (h : Frame os s t) : s.sameBlocks t := h.2
theorem Frame.far {os : List Nat} {s t : State} (h : Frame os s t) : Far s t := h.2.1
theorem Frame.core {os : List Nat} {s t : State} (h : Frame os s t) : Core s t := h.2.2
theorem Frame.spine {os : List Nat} {s t : State} (h : Frame os s t) : t.spine = s.spine := h.far.spine

theorem Frame.refl (os : List Nat) (s : State) : Frame os s s := ⟨sameRegsBut_refl s os, sameBlocks_refl s⟩

section
variable {os : List Nat} {s t : State} (h : Frame os s t)
include h

theorem Frame.setReg {o : Nat} (w : Word) (ho : o ∈ os) : Frame os s (t.setReg o w) :=
  ⟨fun o' hr ho' => (reg_setReg_ne t w (fun he => ho' (by rwa [he]))).trans (h.regs o' hr ho'),
    setReg_far _ _ _ h.far, setReg_core _ _ _ h.core⟩

theorem Frame.rput {f : Fld} (v : Nat) (hf : f.reg ∈ os) : Frame os s (t.rput f v) := h.setReg _ hf

theorem Frame.rsat {f : Fld} (k : Nat) (hf : f.reg ∈ os) : Frame os s (t.rsat f k) := h.rput _ hf

theorem Frame.rwrap {f : Fld} (k : Nat) (hf : f.reg ∈ os) : Frame os s (t.rwrap f k) := h.rput _ hf

theorem Frame.evt {f : Fld} (hf : f.reg ∈ os) : Frame os s (t.evt f) :=
  ⟨fun o hr ho => (reg_evt t f hr (fun he => ho (he ▸ hf))).trans (h.regs o hr ho), evt_far _ _ h.far, evt_core _ _ h.core⟩

theorem Frame.emitFl (type src tm fl : Nat) (w4 w5 w6 w7 : Word) : Frame os s (t.emitFl type src tm fl w4 w5 w6 w7) :=
  ⟨fun o hr ho => (reg_emitFl t type src tm fl w4 w5 w6 w7 hr).trans (h.regs o hr ho),
    emitFl_far _ _ _ _ _ _ _ _ _ h.far, emitFl_core _ _ _ _ _ _ _ _ _ h.core⟩

theorem Frame.emit (type src tm fl : Nat) (w4 w5 w6 w7 : Word) : Frame os s (t.emit type src tm fl w4 w5 w6 w7) :=
  h.emitFl _ _ _ _ _ _ _ _

theorem Frame.modSpine_regs (f : Spine → Spine) : s.sameRegsBut (t.modSpine f) os := h.regs

theorem Frame.modSpine_blocks (f : Spine → Spine) : State.sameBlocks { s with spine := (t.modSpine f).spine } (t.modSpine f) := by
  obtain ⟨hst, hp, hspi, -, hrest⟩ := h.far
  exact ⟨⟨hst, hp, hspi, rfl, hrest⟩, h.core⟩

theorem Frame.trans {u : State} (h' : Frame os t u) : Frame os s u :=
  ⟨fun o hr ho => (h'.regs o hr ho).trans (h.regs o hr ho), far_trans h.far h'.far, by
    obtain ⟨a1, a2, a3, a4, a5, a6, a7⟩ := h.core
    obtain ⟨b1, b2, b3, b4, b5, b6, b7⟩ := h'.core
    exact ⟨b1.trans a1, b2.trans a2, b3.trans a3, b4.trans a4, b5.trans a5, b6.trans a6, b7.trans a7⟩⟩

end

theorem Frame.mono {os os' : List Nat} {s t : State} (h : Frame os s t) (hs : ∀ o ∈ os, o ∈ os') : Frame os' s t :=
  ⟨fun o hr ho => h.regs o hr (fun hm => ho (hs o hm)), h.blocks⟩

/-! ### The spine and registers -/

/-- But for the spine, and reports, only the listed registers have changed. -/
def SpineFrame (os : List Nat) (s t : State) : Prop := Frame os { s with spine := t.spine } t

theorem Frame.onSpine {os : List Nat} {s t : State} {x : Spine} (h : Frame os { s with spine := x } t) : SpineFrame os s t := by
  have hx : t.spine = x := h.spine
  rw [SpineFrame, hx]
  exact h

theorem Frame.toSpine {os : List Nat} {s t : State} (h : Frame os s t) : SpineFrame os s t := Frame.onSpine (x := s.spine) h

theorem SpineFrame.regs {os : List Nat} {s t : State} (h : SpineFrame os s t) : s.sameRegsBut t os := h.1
theorem SpineFrame.blocks {os : List Nat} {s t : State} (h : SpineFrame os s t) : State.sameBlocks { s with spine := t.spine } t := h.2

theorem SpineFrame.modSpine {os : List Nat} {s t : State} (h : SpineFrame os s t) (f : Spine → Spine) : SpineFrame os s (t.modSpine f) :=
  ⟨Frame.modSpine_regs h f, Frame.modSpine_blocks h f⟩

theorem SpineFrame.rput {os : List Nat} {s t : State} (h : SpineFrame os s t) {f : Fld} (v : Nat) (hf : f.reg ∈ os) :
    SpineFrame os s (t.rput f v) := Frame.rput h v hf

theorem SpineFrame.rwrap {os : List Nat} {s t : State} (h : SpineFrame os s t) {f : Fld} (k : Nat) (hf : f.reg ∈ os) :
    SpineFrame os s (t.rwrap f k) := Frame.rwrap h k hf

theorem SpineFrame.evt {os : List Nat} {s t : State} (h : SpineFrame os s t) {f : Fld} (hf : f.reg ∈ os) :
    SpineFrame os s (t.evt f) := (Frame.evt h hf).onSpine

theorem SpineFrame.emit {os : List Nat} {s t : State} (h : SpineFrame os s t) (type src tm fl : Nat) (w4 w5 w6 w7 : Word) :
    SpineFrame os s (t.emit type src tm fl w4 w5 w6 w7) := (Frame.emit h _ _ _ _ _ _ _ _).onSpine

/-! ### Fields behind a report -/

theorem rget_evt_ne (s : State) {f g : Fld} (hr : reportReg g.reg = false) (h : g.reg ≠ f.reg) : (s.evt f).rget g = s.rget g :=
  rget_of_reg (reg_evt s f hr h)

theorem rget_emit (s : State) (type src t fl : Nat) (w4 w5 w6 w7 : Word) {g : Fld} (hr : reportReg g.reg = false) :
    (s.emit type src t fl w4 w5 w6 w7).rget g = s.rget g := rget_of_reg (reg_emit s _ _ _ _ _ _ _ _ hr)

theorem rget_emitFl (s : State) (type src t fl : Nat) (w4 w5 w6 w7 : Word) {g : Fld} (hr : reportReg g.reg = false) :
    (s.emitFl type src t fl w4 w5 w6 w7).rget g = s.rget g := rget_of_reg (reg_emitFl s _ _ _ _ _ _ _ _ hr)

theorem rget_rsat_ne (s : State) {f g : Fld} (k : Nat) (h : g.reg ≠ f.reg) : (s.rsat f k).rget g = s.rget g :=
  rget_of_reg (reg_rsat_ne s k h)

theorem rget_rwrap_ne (s : State) {f g : Fld} (k : Nat) (h : g.reg ≠ f.reg) : (s.rwrap f k).rget g = s.rget g :=
  rget_of_reg (reg_rwrap_ne s k h)

theorem rget_rwrap_same (s : State) (f : Fld) (k : Nat) (h : f.lo + f.width ≤ 32) :
    (s.rwrap f k).rget f = (s.rget f + k) % 2 ^ f.width := rget_rput_same _ _ _ h

theorem rget_setReg_ne (s : State) {o : Nat} {g : Fld} (w : Word) (h : g.reg ≠ o) : (s.setReg o w).rget g = s.rget g :=
  rget_of_reg (reg_setReg_ne s w h)

theorem ron_of_rget_eq {s t : State} {f : Fld} (h : t.rget f = s.rget f) : t.ron f = s.ron f := by simp only [State.ron, h]

theorem ron_of_reg {s t : State} {f : Fld} (h : t.reg f.reg = s.reg f.reg) : t.ron f = s.ron f := ron_of_rget_eq (rget_of_reg h)

theorem ron_eq_true {s : State} {f : Fld} : s.ron f = true ↔ s.rget f ≠ 0 := by simp [State.ron]

theorem ron_eq_false {s : State} {f : Fld} : s.ron f = false ↔ s.rget f = 0 := by simp [State.ron]

theorem rget_lt (s : State) (f : Fld) : s.rget f < 2 ^ f.width := Nat.mod_lt _ (by positivity)

theorem emit_spine (s : State) (type src t fl : Nat) (w4 w5 w6 w7 : Word) : (s.emit type src t fl w4 w5 w6 w7).spine = s.spine :=
  (emit_far _ _ _ _ _ _ _ _ _ (far_refl s)).spine

theorem evt_spine (s : State) (f : Fld) : (s.evt f).spine = s.spine := (evt_far _ _ (far_refl s)).spine

@[simp] theorem reg_modSpine (s : State) (f : Spine → Spine) (o : Nat) : (s.modSpine f).reg o = s.reg o := rfl
@[simp] theorem rget_modSpine (s : State) (f : Spine → Spine) (g : Fld) : (s.modSpine f).rget g = s.rget g := rfl
@[simp] theorem ron_modSpine (s : State) (f : Spine → Spine) (g : Fld) : (s.modSpine f).ron g = s.ron g := rfl

/-- The registers outside the event controller's page are not those of reports. -/
theorem reportReg_of_page {o : Nat} (h : o < 0x2000 ∨ 0x3000 ≤ o) : reportReg o = false := by
  have hne : ∀ a, 0x2000 ≤ a → a < 0x3000 → (o == a) = false := fun a h1 h2 => beq_eq_false_iff_ne.2 (by omega)
  simp only [reportReg, hne R.EC_DISCARD (by decide) (by decide), hne R.EC_LOST2 (by decide) (by decide),
    hne R.EC_EVT (by decide) (by decide), Bool.or_self]

end Sys2Proof.Machine
end

section
/-!
SUPPORT. The gates.
-/
set_option Elab.async false
namespace Sys2Proof
open Sys2Proof.Machine

theorem frozenIgnoresWrites_holds : frozenIgnoresWrites := by
  intro c o s hc hp hf ho
  obtain ⟨f, hx⟩ := exec_hostOffset s hc
  have hfr : Frame [R.FRZ_CNT] s (s.rsat F.FRZ_CNT_IGN 1) := (Frame.refl _ s).rsat 1 (by decide)
  exact ⟨_, hx.trans (congrArg _ (hostWrite_frozen hp hf ho f)), rget_rsat_same _ _ _ (by decide), hfr.regs, hfr.blocks⟩

/-- No row that is gated as a host write of an offset writes `CFG_CMD`. -/
theorem hostOffset_ne_cfgCmd {c : Instr} {o : Nat} (h : hostOffset c = some o) : o ≠ R.CFG_CMD := by
  cases c
  case calUDataAccess p wr => cases wr <;> cases h; decide
  all_goals cases h
  all_goals first | decide | (intro he; simp only [R.CFG_CMD, R.CHc_CMPu_TGT_CTL, R.CHc_CTRL, R.CHc_FIFO_ENT_HI, R.CHc_FIFO_CTL, R.Ge_CMD, R.Ge_CTRL, R.Ge_SREGm_HI, csOffset, R.ORYn_CMD, R.CVBUFb_RDIDX, R.RINGn_TAIL, R.RINGn_CFG, R.EC_COMPLETEt, R.EC_PENDw, R.EC_ENw] at he; omega)

theorem loadIgnoresWrites_holds : loadIgnoresWrites := by
  intro c o s hc he hl
  obtain ⟨f, hx⟩ := exec_hostOffset s hc
  have hfr : Frame [R.CFG_HOSTIGN] s (s.rsat F.CFG_HOSTIGN_CNT 1) := (Frame.refl _ s).rsat 1 (by decide)
  exact ⟨_, hx.trans (congrArg _ (hostWrite_loading he hl (hostOffset_ne_cfgCmd hc) f)), rget_rsat_same _ _ _ (by decide),
    hfr.regs, hfr.blocks⟩

theorem frozenTakesNoEvents_holds : frozenTakesNoEvents := by
  refine ⟨fun c s hc hs => ?_, fun c s hc hp => ?_⟩
  · obtain ⟨f, hf⟩ := exec_event c s hc
    rw [hf, event_shut hs]
  · have hgate : ∀ f, s.pllEvent f = .next s := fun f => by simp [State.pllEvent, hp]
    simp only [List.mem_cons, List.not_mem_nil, or_false] at hc
    obtain rfl | rfl | rfl | rfl := hc <;> exact hgate _

/-- Settles O6: each row passes one gate, and the gate holds it back. -/
theorem gatesHoldCommandsBack : Obligations.GatesHoldCommandsBack :=
  ⟨frozenIgnoresWrites_holds, loadIgnoresWrites_holds, frozenTakesNoEvents_holds⟩

end Sys2Proof
end

section
/-!
SUPPORT. The phase commands of the spine (R34 to R41): one equation for each outcome of a `SPN_CMD` write.
-/
set_option Elab.async false
namespace Sys2Proof.Machine
open Sys2Proof

/-- The code of a command's operation is of three bits. -/
theorem spnCode_lt (op : SpnOp) : spnCode op < 8 := by cases op <;> decide

/-! ### The gate and the owner -/

theorem apFollow_self {s t : State} (h : t.ap = s.ap) : t.apFollow s = t := by simp [State.apFollow, h]

theorem Far.ap {s t : State} (h : Far s t) : t.ap = s.ap := h.2.2.2.2.2.2.2.2.2.1

theorem servoOwns_of_regs {s t : State} (h : ∀ o, o ≠ R.SPN_STAT → o ≠ R.SPN_EVT → t.reg o = s.reg o) :
    t.servoOwns = s.servoOwns := by
  have e : ∀ f : Fld, f.reg ≠ R.SPN_STAT → f.reg ≠ R.SPN_EVT → t.rget f = s.rget f := fun f h1 h2 => rget_of_reg (h f.reg h1 h2)
  simp only [State.servoOwns, State.ron, e F.SPN_CTRL_MODE (by decide) (by decide), e F.EL_CTRL_EN (by decide) (by decide),
    e F.EL_STAT_HASPARENT (by decide) (by decide)]

/-- The status of a command is noted before it is judged; neither the owner nor the operands depend on it. -/
theorem servoOwns_rput (s : State) {f : Fld} (v : Nat) (hf : f.reg = R.SPN_STAT) : (s.rput f v).servoOwns = s.servoOwns :=
  servoOwns_of_regs (fun _ h _ => reg_rput_ne s v (by rw [hf]; exact h))

/-- A state in which a command's status stands: LAST_OP its code, CMD_ERR 0. -/
def State.spnNoted (s : State) (code : Nat) : State := (s.rput F.SPN_STAT_LAST_OP code).rput F.SPN_STAT_CMD_ERR 0

theorem spnNoted_frame (s : State) (code : Nat) : Frame [R.SPN_STAT] s (s.spnNoted code) :=
  ((Frame.refl _ s).rput code (by decide)).rput 0 (by decide)

theorem spnNoted_lastOp (s : State) {code : Nat} (h : code < 8) : (s.spnNoted code).rget F.SPN_STAT_LAST_OP = code := by
  simp (disch := decide) only [State.spnNoted, rget_rput_apart, rget_rput_same]
  exact Nat.mod_eq_of_lt h

theorem spnNoted_cmdErr (s : State) (code : Nat) : (s.spnNoted code).rget F.SPN_STAT_CMD_ERR = 0 := rget_rput_same _ _ _ (by decide)

theorem spnNoted_opsOf (s : State) (code : Nat) (op : SpnOp) (ag : Nat) : opsOf (s.spnNoted code) op ag = opsOf s op ag := by
  have e : ∀ o, o ≠ R.SPN_STAT → (s.spnNoted code).reg o = s.reg o := fun o h =>
    (reg_rput_ne _ _ h).trans (reg_rput_ne _ _ h)
  simp only [opsOf, State.rget, e R.SPN_OPD_LO (by decide), e R.SPN_OPD_HI (by decide), e F.SPN_OPD_SUB_SUB.reg (by decide), e R.SPN_DUR (by decide)]

/-- What a refusal with a code leaves. -/
theorem spnRefuse_frame {s t : State} (h : Frame [R.SPN_STAT, R.SPN_EVT] s t) (code : Nat) :
    Frame [R.SPN_STAT, R.SPN_EVT] s (t.spnRefuse code) := (h.rput code (by decide)).evt (by decide)

theorem spnRefuse_cmdErr (s : State) {code : Nat} (h : code < 16) : (s.spnRefuse code).rget F.SPN_STAT_CMD_ERR = code := by
  rw [State.spnRefuse, rget_evt_ne _ (by decide) (by decide), rget_rput_same _ _ _ (by decide)]
  exact Nat.mod_eq_of_lt h

theorem spnRefuse_lastOp (s : State) (code : Nat) : (s.spnRefuse code).rget F.SPN_STAT_LAST_OP = s.rget F.SPN_STAT_LAST_OP := by
  simp (disch := decide) only [State.spnRefuse, rget_evt_ne, rget_rput_apart]

theorem spnRefuse_event (s : State) (code : Nat) : (s.spnRefuse code).ron F.SPN_EVT_CMD_ERR_S = true :=
  ron_evt _ _ rfl (by decide) (by decide)

/-! ### Outcomes of a write -/

theorem spnCommand_illegal (s : State) (code : Nat) (waits : Bool) (ag : Nat) :
    s.spnCommand none code waits ag = (s.rput F.SPN_STAT_LAST_OP code).spnRefuse 5 := rfl

theorem spnCommand_owned {s : State} (h : s.servoOwns = true) (op : SpnOp) (code : Nat) (waits : Bool) (ag : Nat) :
    s.spnCommand (some op) code waits ag = (s.rput F.SPN_STAT_LAST_OP code).spnRefuse 2 := by
  simp only [State.spnCommand, servoOwns_rput s (f := F.SPN_STAT_LAST_OP) code rfl, h, if_true]

theorem spnCommand_busy {s : State} (ho : s.servoOwns = false) (h : s.spine.pend.isSome = true) (op : SpnOp) (code : Nat) (waits : Bool)
    (ag : Nat) : s.spnCommand (some op) code waits ag = (s.rput F.SPN_STAT_LAST_OP code).spnRefuse 1 := by
  have hp : (s.rput F.SPN_STAT_LAST_OP code).spine.pend.isSome = true := h
  simp only [State.spnCommand, servoOwns_rput s (f := F.SPN_STAT_LAST_OP) code rfl, ho, hp, if_true, Bool.false_eq_true, if_false]

theorem spnCommand_waits {s : State} (h : spnFree s) (op : SpnOp) (code : Nat) (ag : Nat) :
    s.spnCommand (some op) code true ag = (s.spnNoted code).modSpine (fun p => { p with pend := some (opsOf s op ag) }) := by
  obtain ⟨-, ho, hp⟩ := h
  have hp' : (s.rput F.SPN_STAT_LAST_OP code).spine.pend = none := hp
  rw [← spnNoted_opsOf s code op ag]
  simp [State.spnCommand, servoOwns_rput s (f := F.SPN_STAT_LAST_OP) code rfl, ho, hp', opsOf, State.spnNoted]

theorem spnCommand_runs {s : State} (h : spnFree s) (op : SpnOp) (code : Nat) (ag : Nat) :
    s.spnCommand (some op) code false ag = (s.spnNoted code).spnRun (opsOf s op ag) := by
  obtain ⟨-, ho, hp⟩ := h
  have hp' : (s.rput F.SPN_STAT_LAST_OP code).spine.pend = none := hp
  rw [← spnNoted_opsOf s code op ag]
  simp [State.spnCommand, servoOwns_rput s (f := F.SPN_STAT_LAST_OP) code rfl, ho, hp', opsOf, State.spnNoted]

/-- The row of a phase command is a `SPN_CMD` write of its operation; what SET and STEP add follows a change of the apply block only. -/
theorem exec_spnRow {s : State} (h : s.takesWrites = true) (op : SpnOp) (p : Path) (waits : Bool) (ag : Fin 8)
    (ha : (s.spnCommand (some op) (spnCode op) waits ag).ap = s.ap) :
    exec (spnRow op p waits ag) s = .next (s.spnCommand (some op) (spnCode op) waits ag) := by
  cases op
  case set => exact (hostAct_open h p R.SPN_CMD _).trans (congrArg _ (apFollow_self ha))
  case step => exact (hostAct_open h p R.SPN_CMD _).trans (congrArg _ (apFollow_self ha))
  all_goals exact hostAct_open h p R.SPN_CMD _

end Sys2Proof.Machine
end

section
/-!
SUPPORT. Phase commands that wait or are refused (R34, R41).
-/
set_option Elab.async false
namespace Sys2Proof
open Sys2Proof.Machine

theorem phaseCommandWaits_holds : phaseCommandWaits := by
  intro op p ag s h
  have hc := spnCommand_waits h op (spnCode op) ag
  have hf := spnNoted_frame s (spnCode op)
  refine ⟨_, exec_spnRow h.1 op p true ag (by rw [hc]; exact hf.far.ap), ?_⟩
  rw [hc]
  exact ⟨by rw [State.modSpine_spine, hf.spine], (rget_modSpine _ _ _).trans (spnNoted_lastOp s (spnCode_lt op)),
    (rget_modSpine _ _ _).trans (spnNoted_cmdErr s _), hf.modSpine_regs _, hf.modSpine_blocks _⟩

theorem phaseCommandRefused_holds : phaseCommandRefused := by
  have refused : ∀ (s : State) (op : Nat) (code : Nat), op < 8 → code < 16 →
      let t := (s.rput F.SPN_STAT_LAST_OP op).spnRefuse code
      t.rget F.SPN_STAT_CMD_ERR = code ∧ t.rget F.SPN_STAT_LAST_OP = op ∧ t.ron F.SPN_EVT_CMD_ERR_S = true ∧
        s.sameRegsBut t [R.SPN_STAT, R.SPN_EVT] ∧ s.sameBlocks t := by
    intro s op code hop hcode
    have hf := spnRefuse_frame ((Frame.refl [R.SPN_STAT, R.SPN_EVT] s).rput op (f := F.SPN_STAT_LAST_OP) (by decide)) code
    refine ⟨spnRefuse_cmdErr _ hcode, ?_, spnRefuse_event _ _, hf.regs, hf.blocks⟩
    rw [spnRefuse_lastOp, rget_rput_same _ _ _ (by decide)]
    exact Nat.mod_eq_of_lt hop
  refine ⟨fun op p waits ag s hw hb => ?_, fun p op waits ag s hw => ?_⟩
  · by_cases ho : s.servoOwns = true
    · have hc := spnCommand_owned ho op (spnCode op) waits ag
      have hr := refused s (spnCode op) 2 (spnCode_lt op) (by decide)
      refine ⟨_, exec_spnRow hw op p waits ag ?_, ?_⟩
      · rw [hc]; exact hr.2.2.2.2.1.2.2.2.2.2.2.2.2.2.1
      · rw [hc, if_pos ho]; exact hr
    · have ho' : s.servoOwns = false := by simpa using ho
      have hc := spnCommand_busy ho' (hb.resolve_left ho) op (spnCode op) waits ag
      have hr := refused s (spnCode op) 1 (spnCode_lt op) (by decide)
      refine ⟨_, exec_spnRow hw op p waits ag ?_, ?_⟩
      · rw [hc]; exact hr.2.2.2.2.1.2.2.2.2.2.2.2.2.2.1
      · rw [hc, if_neg ho]; exact hr
  · exact ⟨_, hostAct_open hw p R.SPN_CMD _, refused s (5 + op) 5 (by omega) (by decide)⟩

/-- Settles O7: a command that waits is latched behind its status; a refusal writes its code and its event. -/
theorem phaseCommandsWaitOrAreRefused : Obligations.PhaseCommandsWaitOrAreRefused := ⟨phaseCommandWaits_holds, phaseCommandRefused_holds⟩

end Sys2Proof
end

section
/-!
SUPPORT. Slews and the rate (R33, R39, R40).
-/
set_option Elab.async false
namespace Sys2Proof.Machine
open Sys2Proof

/-! ### The report of a slew, and its end -/

theorem slewReport_spine (s : State) (shift : Int) (aborted : Bool) (t : Nat) :
    (s.slewReport shift aborted t).spine = { s.spine with slew := none } := by
  cases aborted <;> exact emit_spine _ _ _ _ _ _ _ _ _

theorem slewReport_frame {s u : State} {os : List Nat} (h : SpineFrame os s u) (hs : R.SPN_STAT ∈ os) (shift : Int) (aborted : Bool) (t : Nat) :
    SpineFrame os s (u.slewReport shift aborted t) := by
  cases aborted
  · exact ((h.modSpine _).rput 0 hs).emit _ _ _ _ _ _ _ _
  · exact (h.modSpine _).emit _ _ _ _ _ _ _ _

theorem slewReport_cmdErr (s : State) (shift : Int) (aborted : Bool) (t : Nat) :
    (s.slewReport shift aborted t).rget F.SPN_STAT_CMD_ERR = s.rget F.SPN_STAT_CMD_ERR := by
  cases aborted
  · exact (rget_emit _ _ _ _ _ _ _ _ _ (by decide)).trans (rget_rput_apart _ _ (by decide) rfl (by decide))
  · exact rget_emit _ _ _ _ _ _ _ _ _ (by decide)

theorem slewStop_spine (s : State) : s.slewStop.spine = { s.spine with slew := none } := by
  unfold State.slewStop
  split
  · split <;> exact slewReport_spine _ _ _ _
  case h_2 h => rw [← h]

theorem slewStop_frame {s u : State} {os : List Nat} (h : SpineFrame os s u) (hs : R.SPN_STAT ∈ os) : SpineFrame os s u.slewStop := by
  unfold State.slewStop
  split
  · split <;> exact slewReport_frame h hs _ _ _
  · exact h

theorem slewStop_cmdErr (s : State) : s.slewStop.rget F.SPN_STAT_CMD_ERR = s.rget F.SPN_STAT_CMD_ERR := by
  unfold State.slewStop
  split
  · split <;> exact slewReport_cmdErr _ _ _ _
  · rfl

/-! ### SLEW -/

/-- SLEW is refused with RANGE, or replaces the running slew. -/
def slewRange (a : Int) (dur : Nat) : Prop := dur = 0 ∨ 2 ^ 37 ≤ a.natAbs ∨ 2147483647 < (roundDivI (a * 2 ^ 34) (dur * 1000)).natAbs

theorem slewBegin_range {s : State} {a : Int} {dur : Nat} (h : slewRange a dur) : s.slewBegin a dur = s.spnRefuse 3 := if_pos h

theorem slewBegin_replaces {s : State} {a : Int} {dur : Nat} (h : ¬ slewRange a dur) :
    s.slewBegin a dur = s.slewStop.modSpine (fun p =>
      { p with slew := some ⟨roundDivI (a * 2 ^ 34) (dur * 1000), a * 2 ^ 34, a * 2 ^ 34, if a = 0 then some s.now else none⟩ }) := by
  have hnow : s.slewStop.now = s.now := by simp only [State.now, slewStop_spine]
  rw [← hnow]
  exact if_neg h

end Sys2Proof.Machine
end

section
/-!
SUPPORT. SLEW, SLEW_ABORT, NOP and a write of the rate.
-/
set_option Elab.async false
namespace Sys2Proof
open Sys2Proof.Machine

theorem slewRow_holds (p : Path) (ag : Fin 8) {s : State} (h : spnFree s) :
    ∃ t, exec (.spineSlew p false ag) s = .next t ∧
      (let a := operandSubs true (opsOf s .slew ag)
       let dur := (s.reg R.SPN_DUR).toNat
       let rate := roundDivI (a * 2 ^ 34) (dur * 1000)
       if dur = 0 ∨ 2 ^ 37 ≤ a.natAbs ∨ 2147483647 < rate.natAbs then
         t.rget F.SPN_STAT_CMD_ERR = 3 ∧ s.sameBlocks t
       else t.spine = { s.spine with slew := some ⟨rate, a * 2 ^ 34, a * 2 ^ 34, if a = 0 then some s.now else none⟩ } ∧
         t.rget F.SPN_STAT_CMD_ERR = 0 ∧ s.sameRegsBut t [R.SPN_STAT] ∧ State.sameBlocks { s with spine := t.spine } t) := by
  refine ⟨_, hostAct_open h.1 p R.SPN_CMD _, ?_⟩
  have hc : s.spnCommand (some .slew) 3 false ag = (s.spnNoted 3).slewBegin (operandSubs true (opsOf s .slew ag)) (s.reg R.SPN_DUR).toNat :=
    spnCommand_runs h .slew 3 ag
  have hf := spnNoted_frame s 3
  rw [hc]
  intro a dur rate
  split
  case isTrue hr =>
    rw [slewBegin_range hr]
    exact ⟨spnRefuse_cmdErr _ (by decide), (spnRefuse_frame (hf.mono (by simp)) 3).blocks⟩
  case isFalse hr =>
    rw [slewBegin_replaces hr]
    have hs := (slewStop_frame hf.toSpine (by simp)).modSpine (fun p =>
      { p with slew := some ⟨rate, a * 2 ^ 34, a * 2 ^ 34, if a = 0 then some (s.spnNoted 3).now else none⟩ })
    refine ⟨?_, (rget_modSpine _ _ _).trans ((slewStop_cmdErr _).trans (spnNoted_cmdErr s 3)), hs.regs, hs.blocks⟩
    rw [State.modSpine_spine, slewStop_spine]
    rfl

theorem slewAbortRow_holds (p : Path) (ag : Fin 8) {s : State} (h : spnFree s) :
    ∃ t, exec (.slewAbort p false ag) s = .next t ∧ t.spine = { s.spine with slew := none } ∧
      t.rget F.SPN_STAT_CMD_ERR = (if s.spine.slew.isNone then 4 else 0) ∧
      s.sameRegsBut t [R.SPN_STAT, R.SPN_EVT] ∧ State.sameBlocks { s with spine := t.spine } t := by
  refine ⟨_, hostAct_open h.1 p R.SPN_CMD _, ?_⟩
  have hf := (spnNoted_frame s 4).mono (os' := [R.SPN_STAT, R.SPN_EVT]) (by simp)
  have hc : s.spnCommand (some .slewAbort) 4 false ag = (s.spnNoted 4).spnRun (opsOf s .slewAbort ag) := spnCommand_runs h .slewAbort 4 ag
  rw [hc]
  cases hl : s.spine.slew with
  | none =>
    have hrun : (s.spnNoted 4).spnRun (opsOf s .slewAbort ag) = (s.spnNoted 4).spnRefuse 4 := by
      simp only [State.spnRun, opsOf, hf.spine, hl]
    have hs := (spnRefuse_frame hf 4).toSpine
    rw [hrun]
    refine ⟨?_, spnRefuse_cmdErr _ (by decide), hs.regs, hs.blocks⟩
    rw [(spnRefuse_frame hf 4).spine, ← hl]
  | some l =>
    have hrun : (s.spnNoted 4).spnRun (opsOf s .slewAbort ag) = (s.spnNoted 4).slewStop := by
      simp only [State.spnRun, opsOf, hf.spine, hl]
    have hs := slewStop_frame hf.toSpine (by simp)
    rw [hrun]
    exact ⟨slewStop_spine _, (slewStop_cmdErr _).trans (spnNoted_cmdErr s 4), hs.regs, hs.blocks⟩

theorem slewCommandsRun_holds : slewCommandsRun := by
  intro p ag s h
  refine ⟨slewRow_holds p ag h, slewAbortRow_holds p ag h, _, hostAct_open h.1 p R.SPN_CMD _, ?_⟩
  have hc : s.spnCommand (some .nop) 0 false ag = s.spnNoted 0 := spnCommand_runs h .nop 0 ag
  rw [hc]
  exact ⟨spnNoted_cmdErr s 0, spnNoted_lastOp s (by decide), (spnNoted_frame s 0).regs, (spnNoted_frame s 0).blocks⟩

theorem rateWriteSetsTheRate_holds : rateWriteSetsTheRate := by
  intro p v s h
  refine ⟨_, hostAct_open h p R.SPN_RATE _, fun ho => ?_, fun ho => ?_⟩
  · have hw : s.rateWrite v = s.setReg R.SPN_RATE v := by simp only [State.rateWrite, ho, Bool.false_eq_true, if_false]
    have hf : Frame [R.SPN_RATE] s (s.setReg R.SPN_RATE v) := (Frame.refl _ s).setReg v (by simp)
    rw [hw]
    exact ⟨reg_setReg_same _ _ _, hf.regs, hf.blocks⟩
  · have hw : s.rateWrite v = s.spnRefuse 2 := if_pos ho
    have hf := spnRefuse_frame (Frame.refl [R.SPN_STAT, R.SPN_EVT] s) 2
    rw [hw]
    exact ⟨hf.regs _ (by decide) (by decide), spnRefuse_cmdErr s (by decide), hf.regs, hf.blocks⟩

/-- Settles O9: a slew is refused, or replaces the one that it ends where it stands; the rate is written, or the write refused. -/
theorem slewAndRateCommandsRun : Obligations.SlewAndRateCommandsRun := ⟨slewCommandsRun_holds, rateWriteSetsTheRate_holds⟩

/-! ### The PLL and its reference -/

/-- A loss of lock: both status bits, its event, and the count. -/
theorem lockLost_frame (s : State) {f : Fld} (hf : f.reg = R.SPN_EVT) : Frame [R.SPN_STAT, R.SPN_EVT, R.SPN_PLL_CNT] s (s.lockLost f) :=
  (((((Frame.refl _ s).rput 0 (by decide)).rput 1 (by decide)).evt (by simp [hf])).rsat 1 (by decide)).emit _ _ _ _ _ _ _ _

theorem lockLost_values (s : State) {f : Fld} (hf : f.reg = R.SPN_EVT) (hw : f.width = 1) (hl : f.lo + f.width ≤ 32) :
    (s.lockLost f).rget F.SPN_STAT_LOCKED = 0 ∧ (s.lockLost f).rget F.SPN_STAT_REF_LOST = 1 ∧ (s.lockLost f).ron f = true ∧
      (s.lockLost f).rget F.SPN_PLL_CNT_LOSS_CNT = min (s.rget F.SPN_PLL_CNT_LOSS_CNT + 1) (2 ^ F.SPN_PLL_CNT_LOSS_CNT.width - 1) := by
  have hr : reportReg f.reg = false := by rw [hf]; decide
  have h1 : F.SPN_STAT_LOCKED.reg ≠ f.reg := by rw [hf]; decide
  have h2 : F.SPN_STAT_REF_LOST.reg ≠ f.reg := by rw [hf]; decide
  have h3 : F.SPN_PLL_CNT_LOSS_CNT.reg ≠ f.reg := by rw [hf]; decide
  have h4 : f.reg ≠ F.SPN_PLL_CNT_LOSS_CNT.reg := h3.symm
  refine ⟨?_, ?_, ?_, ?_⟩
  · simp (disch := first | assumption | decide) only [State.lockLost, State.refRecord, rget_emit, rget_rsat_ne, rget_evt_ne, rget_rput_apart,
      rget_rput_same]
    rfl
  · simp (disch := first | assumption | decide) only [State.lockLost, State.refRecord, rget_emit, rget_rsat_ne, rget_evt_ne, rget_rput_same]
    rfl
  · have he := ron_evt ((s.rput F.SPN_STAT_LOCKED 0).rput F.SPN_STAT_REF_LOST 1) f hw hl hr
    exact (ron_of_reg ((reg_emit _ _ _ _ _ _ _ _ _ hr).trans (reg_rsat_ne _ _ h4))).trans he
  · simp (disch := first | assumption | decide) only [State.lockLost, State.refRecord, rget_emit, rget_rsat_same, rget_evt_ne, rget_rput_ne]

theorem pllEvent_open {s : State} (h : s.powered = true) (f : State → State) : s.pllEvent f = .next (f s) := by
  simp only [State.pllEvent, h, if_true]

theorem relock_acquires {s : State} (hc : s.spine.counting = true) (hl : s.ron F.SPN_STAT_LOCKED = false) :
    let t := s.relock
    t.spine = { s.spine with refGone := false } ∧ t.rget F.SPN_STAT_LOCKED = 1 ∧ t.rget F.SPN_STAT_REF_LOST = 0 ∧
      t.rget F.SPN_PLL_CNT_RELOCK_CNT = min (s.rget F.SPN_PLL_CNT_RELOCK_CNT + 1) (2 ^ F.SPN_PLL_CNT_RELOCK_CNT.width - 1) ∧
      SpineFrame [R.SPN_STAT, R.SPN_PLL_CNT] s t := by
  have ht : s.relock = ((((s.modSpine (fun p => { p with refGone := false })).rput F.SPN_STAT_LOCKED 1).rput F.SPN_STAT_REF_LOST 0).rsat
      F.SPN_PLL_CNT_RELOCK_CNT 1).refRecord := by simp [State.relock, hc, hl]
  have hs : SpineFrame [R.SPN_STAT, R.SPN_PLL_CNT] s (s.modSpine (fun p => { p with refGone := false })) :=
    (Frame.refl _ s).toSpine.modSpine _
  rw [ht]
  refine ⟨emit_spine _ _ _ _ _ _ _ _ _, ?_, ?_, ?_,
    Frame.onSpine ((((Frame.rput hs 1 (by decide)).rput 0 (by decide)).rsat 1 (by decide)).emit _ _ _ _ _ _ _ _)⟩ <;>
    simp (disch := decide) only [State.refRecord, rget_emit, rget_rsat_ne, rget_rsat_same, rget_rput_ne, rget_rput_apart, rget_rput_same,
      rget_modSpine] <;> rfl

theorem pllLock_locks {s : State} (hc : s.spine.counting = false) :
    let t := s.pllLock
    t.spine = { s.spine with counting := true, refGone := false } ∧ t.rget F.SPN_STAT_LOCKED = 1 ∧ t.rget F.SPN_STAT_REF_LOST = 0 ∧
      SpineFrame [R.SPN_STAT] s t := by
  have ht : s.pllLock = ((s.modSpine (fun p => { p with counting := true, refGone := false })).rput F.SPN_STAT_LOCKED 1).rput
      F.SPN_STAT_REF_LOST 0 := by simp only [State.pllLock, hc, Bool.false_eq_true, if_false]
  have hs : SpineFrame [R.SPN_STAT] s (s.modSpine (fun p => { p with counting := true, refGone := false })) :=
    (Frame.refl _ s).toSpine.modSpine _
  rw [ht]
  refine ⟨rfl, ?_, rget_rput_same _ _ _ (by decide), (hs.rput 1 (by decide)).rput 0 (by decide)⟩
  simp (disch := decide) only [rget_rput_apart, rget_rput_same]
  rfl

/-- Settles O10: each row of the PLL does what its condition calls for, or nothing. -/
theorem lockFollowsThePll : Obligations.LockFollowsThePll := by
  unfold Obligations.LockFollowsThePll
  intro s hp
  refine ⟨⟨_, pllEvent_open hp _, fun hc => ?_, fun hc => if_pos hc⟩, ⟨_, pllEvent_open hp _, fun hg => ?_, fun hg => if_pos hg⟩,
    ⟨_, pllEvent_open hp _, fun hl => ?_, fun hl => ?_⟩, ⟨_, pllEvent_open hp _, fun hc hl => ?_, fun h => ?_⟩⟩
  · obtain ⟨hs, h1, h2, hf⟩ := pllLock_locks hc
    exact ⟨hs, h1, h2, hf.regs, hf.blocks⟩
  · have ht : s.refLost = (s.modSpine (fun p => { p with refGone := true })).lockLost F.SPN_EVT_REF_LOST_S := by
      simp only [State.refLost, hg, Bool.false_eq_true, if_false]
    have hf := (lockLost_frame (s.modSpine (fun p => { p with refGone := true })) (f := F.SPN_EVT_REF_LOST_S) rfl)
    obtain ⟨h1, h2, h3, h4⟩ := lockLost_values (s.modSpine (fun p => { p with refGone := true })) (f := F.SPN_EVT_REF_LOST_S) rfl rfl (by decide)
    rw [ht]
    have hs := hf.spine
    exact ⟨hs, h1, h2, h3, h4, hf.regs, (Frame.onSpine (s := s) hf).blocks⟩
  · have ht : (if s.ron F.SPN_STAT_LOCKED then s.lockLost F.SPN_EVT_UNLOCK_S else s) = s.lockLost F.SPN_EVT_UNLOCK_S := if_pos hl
    have hf := lockLost_frame s (f := F.SPN_EVT_UNLOCK_S) rfl
    obtain ⟨h1, h2, h3, h4⟩ := lockLost_values s (f := F.SPN_EVT_UNLOCK_S) rfl rfl (by decide)
    rw [ht]
    exact ⟨h1, h2, h3, h4, hf.regs, hf.blocks⟩
  · simp only [hl, Bool.false_eq_true, if_false]
  · obtain ⟨hs, h1, h2, h3, hf⟩ := relock_acquires hc hl
    exact ⟨hs, h1, h2, h3, hf.regs, hf.blocks⟩
  · exact if_neg (by simpa using h)

end Sys2Proof
end

section
/-!
SUPPORT. The PPS balls (R42, R43, R45, R46).
-/
set_option Elab.async false
namespace Sys2Proof.Machine
open Sys2Proof

/-! ### PPS_OUT -/

/-- The only boundary of a period that begins at the present time is the one that the row finds. -/
theorem ppsBoundary_unique (s : State) {b : Nat} (hlo : s.now ≤ b)
    (hhi : b < s.now + (s.reg R.SPN_PPSO_PER).toNat * 64)
    (hm : ((b : Int) - ((s.reg R.SPN_PPSO_OFS).toNat * 64 + s.rget F.SPN_CTRL_PPSO_SUB)) % ((s.reg R.SPN_PPSO_PER).toNat * 64) = 0) :
    s.ppsBoundary = b := by
  obtain ⟨k, hk⟩ := Int.dvd_of_emod_eq_zero hm
  have hmod : (((s.reg R.SPN_PPSO_OFS).toNat * 64 + s.rget F.SPN_CTRL_PPSO_SUB : Nat) - (s.now : Int)) %
      (((s.reg R.SPN_PPSO_PER).toNat * 64 : Nat) : Int) = (b : Int) - s.now := by
    have hshift : (((s.reg R.SPN_PPSO_OFS).toNat * 64 + s.rget F.SPN_CTRL_PPSO_SUB : Nat) - (s.now : Int)) =
        ((b : Int) - s.now) + (((s.reg R.SPN_PPSO_PER).toNat * 64 : Nat) : Int) * (-k) := by push_cast; linarith
    rw [hshift, Int.add_mul_emod_self_left]
    exact Int.emod_eq_of_lt (by omega) (by push_cast; omega)
  simp only [State.ppsBoundary, hmod]
  omega

theorem reaches_of_moving {s : State} {b : Nat} (h : s.spine.hold = none ∨ ∃ h, s.spine.hold = some h ∧ h.n = 0 ∧ s.now < b)
    (hb : b < s.tAhead 1) : s.reaches b = true := by
  obtain h | ⟨x, h, hn, hlt⟩ := h <;> simp_all [State.reaches]

theorem ppsPulse_begins {s : State} {b : Nat} (he : s.ron F.SPN_CTRL_PPSO_EN = true) (hc : s.spine.counting = true)
    (hr : s.reaches b = true) (hq : s.ppsQualified = true) (hl : s.spine.ppsLast ≠ some b) (hb : s.ppsBoundary = b) :
    s.ppsPulse = s.modSpine (fun p =>
      { p with ppsLast := some b, ppsTap := min 63 (b - s.now), ppsOut := some (b + (s.reg R.SPN_PPSO_WID).toNat * 64) }) := by
  subst hb
  exact if_pos ⟨he, hc, hr, hq, hl⟩

theorem ppsPulse_quiet {s : State} (h : s.ron F.SPN_CTRL_PPSO_EN = false ∨ s.spine.counting = false ∨ s.ppsQualified = false) :
    s.ppsPulse = s := by
  refine if_neg fun hc => ?_
  obtain ⟨he, hcnt, -, hq, -⟩ := hc
  simp_all

/-! ### PPS_IN -/

/-- The spine and the count with an edge taken at a position of the present tick. -/
def State.ppsTaken (s : State) (pos : Fin 64) : State :=
  (s.modSpine (fun p => { p with ppsIn := (((s.stampAt pos).1 : Int) - s.inTrcOf 0xC1).toNat, ppsUnread := true,
                                 ppsEdge := some (s.tickPos pos) })).rwrap F.SPN_PPSI_SUB_CNT 1

theorem ppsTaken_frame (s : State) (pos : Fin 64) : SpineFrame [R.SPN_PPSI_SUB, R.SPN_EVT] s (s.ppsTaken pos) :=
  ((Frame.refl _ s).toSpine.modSpine _).rwrap 1 (by decide)

theorem ppsTaken_cnt (s : State) (pos : Fin 64) : (s.ppsTaken pos).rget F.SPN_PPSI_SUB_CNT =
    (s.rget F.SPN_PPSI_SUB_CNT + 1) % 2 ^ F.SPN_PPSI_SUB_CNT.width := rget_rwrap_same _ _ _ (by decide)

/-- An edge that comes 1 µs of PLL ticks behind the last one, or is the first, is taken, and a capture not yet read reports an overrun. -/
theorem ppsCapture_takes {s : State} {falling : Bool} {pos : Fin 64} (he : s.ron F.SPN_CTRL_PPSI_EN = true)
    (hp : s.ron F.SPN_CTRL_PPSI_EDGE = falling) (hs : ∀ e, s.spine.ppsEdge = some e → e + 64000 ≤ s.spine.tick * 64 + pos.val) :
    ∃ t fl w, s.ppsCapture falling pos =
      (if s.spine.ppsUnread then (s.ppsTaken pos).evt F.SPN_EVT_PPSI_OVR else s.ppsTaken pos).emit 0x1B 105 t fl w 0 0 0 := by
  refine ⟨_, _, _, if_pos ⟨he, hp, ?_⟩⟩
  cases h : s.spine.ppsEdge with
  | none => simp
  | some e =>
    intro hd
    have hlt : s.tickPos pos < e + 64000 := of_decide_eq_true hd
    have := hs e h
    unfold State.tickPos at hlt
    omega

end Sys2Proof.Machine
end

section
set_option Elab.async false
namespace Sys2Proof
open Sys2Proof.Machine

/-- Settles O12: the boundary is unique in its period, and an edge that comes late enough is taken. -/
theorem ppsPulsesAndCaptures : Obligations.PpsPulsesAndCaptures := by
  unfold Obligations.PpsPulsesAndCaptures
  refine ⟨fun s b he hen hc hh hq _ hlo hhi hb hl hm => ?_, fun s he h => ?_, fun s e he ho => ?_, fun falling pos s he hen hp hs => ?_⟩
  · refine (event_open he _).trans (congrArg _ ?_)
    exact ppsPulse_begins hen hc (reaches_of_moving hh hb) hq hl (ppsBoundary_unique s hlo hhi hm)
  · exact (event_open he _).trans (congrArg _ (ppsPulse_quiet h))
  · refine (event_open he _).trans (congrArg _ ?_)
    simp only [State.ppsPulseEnd, ho]
    rfl
  · obtain ⟨tm, fl, w, ht⟩ := ppsCapture_takes hen hp hs
    have hf := ppsTaken_frame s pos
    refine ⟨_, event_open he (fun s => s.ppsCapture falling pos), ?_⟩
    rw [ht]
    cases hu : s.spine.ppsUnread
    · have hf' := hf.emit 0x1B 105 tm fl w 0 0 0
      exact ⟨emit_spine _ _ _ _ _ _ _ _ _, (rget_emit _ _ _ _ _ _ _ _ _ (by decide)).trans (ppsTaken_cnt s pos), nofun, hf'.regs, hf'.blocks⟩
    · have hf' := (hf.evt (f := F.SPN_EVT_PPSI_OVR) (by decide)).emit 0x1B 105 tm fl w 0 0 0
      refine ⟨(emit_spine _ _ _ _ _ _ _ _ _).trans (evt_spine _ _), ?_, fun _ => ?_, hf'.regs, hf'.blocks⟩
      · exact (rget_emit _ _ _ _ _ _ _ _ _ (by decide)).trans ((rget_evt_ne _ (by decide) (by decide)).trans (ppsTaken_cnt s pos))
      · exact (ron_of_rget_eq (rget_emit _ _ _ _ _ _ _ _ _ (by decide))).trans (ron_evt _ _ rfl (by decide) (by decide))

end Sys2Proof
end

section
/-!
SUPPORT. Threads and Gaffers: what a change of one leaves as it was, and the commands of `Ge_CMD` (R101, R102, R107, R113).
-/
set_option Elab.async false
namespace Sys2Proof.Machine
open Sys2Proof

/-! ### One Gaffer, one thread -/

@[simp] theorem gaf_modGaf_same (s : State) (e : Fin 8) (f : Gaffer → Gaffer) : (s.modGaf e f).gaf[e] = f s.gaf[e] := by
  simp [State.modGaf]

theorem gaf_modGaf_ne (s : State) {e d : Fin 8} (f : Gaffer → Gaffer) (h : d ≠ e) : (s.modGaf e f).gaf[d] = s.gaf[d] := by
  have hne : e.val ≠ d.val := fun he => h (Fin.ext he.symm)
  simp [State.modGaf, hne]

theorem modGaf_modGaf (s : State) (e : Fin 8) (f g : Gaffer → Gaffer) : (s.modGaf e f).modGaf e g = s.modGaf e (fun x => g (f x)) := by
  simp [State.modGaf]

theorem modGaf_self (s : State) (e : Fin 8) {f : Gaffer → Gaffer} (h : f s.gaf[e] = s.gaf[e]) : s.modGaf e f = s := by
  have hv : s.gaf.set e (f s.gaf[e]) = s.gaf := by rw [h]; exact Vector.set_getElem_self _
  unfold State.modGaf
  rw [hv]

@[simp] theorem thr_modThr_same (s : State) (e : Fin 8) (n : Fin 16) (f : Thread → Thread) : (s.modThr e n f).thr e n = f (s.thr e n) := by
  simp [State.thr, State.modThr]

theorem thr_modThr_ne (s : State) (e : Fin 8) {n m : Fin 16} (f : Thread → Thread) (h : m ≠ n) : (s.modThr e n f).thr e m = s.thr e m := by
  have hne : n.val ≠ m.val := fun he => h (Fin.ext he.symm)
  simp [State.thr, State.modThr, hne]

theorem modThr_modThr (s : State) (e : Fin 8) (n : Fin 16) (f g : Thread → Thread) :
    (s.modThr e n f).modThr e n g = s.modThr e n (fun x => g (f x)) := by
  simp [State.modThr, modGaf_modGaf]

theorem modThr_self (s : State) (e : Fin 8) (n : Fin 16) {f : Thread → Thread} (h : f (s.thr e n) = s.thr e n) : s.modThr e n f = s := by
  refine modGaf_self _ _ ?_
  have hv : s.gaf[e].thr.set n (f s.gaf[e].thr[n]) = s.gaf[e].thr := by
    have h' : f s.gaf[e].thr[n] = s.gaf[e].thr[n] := h
    rw [h']
    exact Vector.set_getElem_self _
  rw [hv]

theorem modThr_congr (s : State) (e : Fin 8) (n : Fin 16) {f g : Thread → Thread} (h : f (s.thr e n) = g (s.thr e n)) :
    s.modThr e n f = s.modThr e n g := by
  have h' : f s.gaf[e].thr[n] = g s.gaf[e].thr[n] := h
  simp only [State.modThr, State.modGaf, h']

theorem modThr_geFree_comm (s : State) (e : Fin 8) (n : Fin 16) (f : Thread → Thread) :
    (s.modThr e n f).geFree e = (s.geFree e).modThr e n f := by
  simp [State.geFree, State.modThr, modGaf_modGaf]

@[simp] theorem thr_geFree (s : State) (e : Fin 8) (n : Fin 16) : (s.geFree e).thr e n = s.thr e n := by
  simp [State.geFree, State.thr]

@[simp] theorem running_geFree (s : State) (e : Fin 8) : (s.geFree e).gaf[e].running = none := by simp [State.geFree]

@[simp] theorem running_modThr (s : State) (e : Fin 8) (n : Fin 16) (f : Thread → Thread) : (s.modThr e n f).gaf[e].running = s.gaf[e].running := by
  simp [State.modThr]

theorem thr_of_gaf {s t : State} (h : t.gaf = s.gaf) (e : Fin 8) (n : Fin 16) : t.thr e n = s.thr e n := by simp only [State.thr, h]

/-! ### Frames that leave one thread -/

section
variable {os : List Nat} {s t : State} {e : Fin 8} {n : Fin 16} {f : Thread → Thread}

theorem Frame.gaf (h : Frame os s t) : t.gaf = s.gaf := h.core.gaf

theorem Frame.thr_same (h : Frame os (s.modThr e n f) t) : t.thr e n = f (s.thr e n) :=
  (thr_of_gaf h.gaf e n).trans (thr_modThr_same _ _ _ _)

theorem Frame.onGaf {g : Vector Gaffer 8} (h : Frame os { s with gaf := g } t) : State.sameBlocks { s with gaf := t.gaf } t := by
  rw [show t.gaf = g from h.gaf]
  exact h.blocks

theorem Frame.onlyThread_modThr (h : Frame os (s.modThr e n f) t) : onlyThread s t e n := by
  refine ⟨Frame.onGaf (os := os) (g := (s.modThr e n f).gaf) h, ?_⟩
  rw [h.gaf, h.thr_same]
  exact congrArg State.gaf (modThr_congr s e n rfl)

theorem Frame.onlyThread_self (h : Frame os s t) (e : Fin 8) (n : Fin 16) : onlyThread s t e n :=
  Frame.onlyThread_modThr (os := os) (f := id) (by rw [modThr_self s e n rfl]; exact h)

end

/-! ### `Ge_CMD_STAT` and the fault mask -/

theorem geCmdStat_frame {os : List Nat} {s t : State} {e : Fin 8} (h : Frame os s t) (ho : R.Ge_CMD_STAT e ∈ os) (n : Fin 16) (res : Nat) :
    Frame os s (t.geCmdStat e n res) := (h.rput (f := F.Ge_CMD_STAT_THR e) n ho).rput (f := F.Ge_CMD_STAT_RES e) res ho

theorem geCmdStat_result (s : State) (e : Fin 8) (n : Fin 16) {res : Nat} (h : res < 4) : cmdResult (s.geCmdStat e n res) e n res := by
  refine ⟨?_, ?_⟩
  · exact (rget_rput_same _ (F.Ge_CMD_STAT_RES e) res (by decide : (0 : Nat) + 2 ≤ 32)).trans (Nat.mod_eq_of_lt h)
  · refine (rget_rput_apart (f := F.Ge_CMD_STAT_RES e) (g := F.Ge_CMD_STAT_THR e) _ res (by decide : (0 : Nat) + 2 ≤ 32) rfl
      (Or.inr (by decide : (0 : Nat) + 2 ≤ 4))).trans ?_
    exact (rget_rput_same _ (F.Ge_CMD_STAT_THR e) n.val (by decide : (4 : Nat) + 4 ≤ 32)).trans (Nat.mod_eq_of_lt n.isLt)

/-- Subtracting a set bit's weight clears that bit and no other. -/
theorem nbit_sub_two_pow {m k : Nat} (h : nbit m k = true) (j : Nat) : nbit (m - 2 ^ k) j = (nbit m j && decide (j ≠ k)) := by
  have hm : m < 2 ^ m := Nat.lt_two_pow_self
  have hx : (BitVec.ofNat m m).toNat = m := Nat.mod_eq_of_lt hm
  have hb : (BitVec.ofNat m m).getLsbD k = true := by rw [← nbit_toNat, hx, h]
  have hk : k < m := BitVec.lt_of_getLsbD hb
  have hle : 2 ^ k ≤ m := Nat.ge_two_pow_of_testBit (by rw [← nbit_eq_testBit, h])
  have hsub : m - 2 ^ k = (BitVec.ofNat m m &&& ~~~BitVec.twoPow m k).toNat := by
    rw [and_not_eq_sub_and, BitVec.and_twoPow, if_pos hb, BitVec.toNat_sub_of_le, hx, BitVec.toNat_twoPow_of_lt hk]
    rw [BitVec.le_def, hx, BitVec.toNat_twoPow_of_lt hk]
    exact hle
  have hj : (BitVec.ofNat m m).getLsbD j = nbit m j := by rw [← nbit_toNat, hx]
  rw [hsub, nbit_toNat, BitVec.getLsbD_and, BitVec.getLsbD_not, BitVec.getLsbD_twoPow, hj]
  by_cases hjm : j < m
  · simp [hjm, hk, eq_comm]
  · have : nbit m j = false := by rw [← hj]; exact BitVec.getLsbD_of_ge _ _ (by omega)
    simp [this]

end Sys2Proof.Machine
end

section
/-!
SUPPORT. The commands of `Ge_CMD` (R101, R102, R107, R113, R134).
-/
set_option Elab.async false
namespace Sys2Proof.Machine
open Sys2Proof

/-! ### The fault mask -/

theorem clrFlt_frame {os : List Nat} {s : State} {e : Fin 8} (n : Fin 16) (ho : R.Ge_FLTMASK e ∈ os) : Frame os s (s.clrFlt e n) := by
  unfold State.clrFlt
  dsimp only
  split
  · exact (Frame.refl os s).rput (f := F.Ge_FLTMASK_FLT e) _ ho
  · exact Frame.refl os s

theorem clrFlt_mask (s : State) (e : Fin 8) (n : Fin 16) : maskCleared s (s.clrFlt e n) e n := by
  have hlt : s.rget (F.Ge_FLTMASK_FLT e) < 2 ^ 16 := rget_lt s (F.Ge_FLTMASK_FLT e)
  unfold State.clrFlt
  dsimp only
  split
  case isTrue h =>
    have hm : (s.rput (F.Ge_FLTMASK_FLT e) (s.rget (F.Ge_FLTMASK_FLT e) - 2 ^ n.val)).rget (F.Ge_FLTMASK_FLT e) =
        s.rget (F.Ge_FLTMASK_FLT e) - 2 ^ n.val :=
      (rget_rput_same _ _ _ (by decide : (0 : Nat) + 16 ≤ 32)).trans (Nat.mod_eq_of_lt ((Nat.sub_le _ _).trans_lt hlt))
    refine ⟨?_, fun m hne => ?_⟩
    · rw [hm, nbit_sub_two_pow h]; simp
    · rw [hm, nbit_sub_two_pow h]
      simp [show m.val ≠ n.val from fun he => hne (Fin.ext he)]
  case isFalse h => exact ⟨by simpa using h, fun _ _ => rfl⟩

theorem maskCleared_of_reg {s t u : State} {e : Fin 8} {n : Fin 16} (h : maskCleared s t e n)
    (hr : u.reg (R.Ge_FLTMASK e) = t.reg (R.Ge_FLTMASK e)) : maskCleared s u e n := by
  have hg : u.rget (F.Ge_FLTMASK_FLT e) = t.rget (F.Ge_FLTMASK_FLT e) := rget_of_reg hr
  exact ⟨by rw [hg]; exact h.1, fun m hm => by rw [hg]; exact h.2 m hm⟩

theorem geCmdStat_reg_ne (s : State) {e : Fin 8} (n : Fin 16) (res : Nat) {o : Nat} (h : o ≠ R.Ge_CMD_STAT e) :
    (s.geCmdStat e n res).reg o = s.reg o := (reg_rput_ne _ _ h).trans (reg_rput_ne _ _ h)

theorem fltmask_ne_cmdStat (e : Fin 8) : R.Ge_FLTMASK e ≠ R.Ge_CMD_STAT e := by unfold R.Ge_FLTMASK R.Ge_CMD_STAT; omega

/-! ### The end of a READY interval -/

theorem Thread.waited_eq (t : Thread) (now : Nat) : t.waited now = { t with readySince := none, maxWait := longestWait t now } := by
  unfold Thread.waited longestWait
  cases h : t.readySince <;> simp [← h]

/-- A thread that HALT stops at once. -/
def Thread.stopped (now : Nat) (t : Thread) : Thread :=
  { Thread.waited t now with state := .halted, park := .none, keep := false, wokenAt := none }

theorem Thread.stopped_eq (t : Thread) (now : Nat) : Thread.stopped now t = { t with
    state := .halted, park := .none, readySince := none, keep := false, wokenAt := none, maxWait := longestWait t now } := by
  rw [Thread.stopped, Thread.waited_eq]

/-! ### Wakes -/

/-- What a wake bit does to a thread. -/
def Thread.woken (t : Thread) (now bit : Nat) : Thread :=
  if nbit t.pend.toNat bit then { t with coal := min (t.coal + 1) 255 }
  else if t.state = .parked ∧ (match t.park with | .none => false | .wait => nbit t.mask.toNat bit | .space _ => bit == 10) = true then
    { t with pend := t.pend ||| BitVec.ofNat 16 (2 ^ bit), state := .ready, readySince := some now
             wokenAt := if t.cls = 0 then some now else none }
  else { t with pend := t.pend ||| BitVec.ofNat 16 (2 ^ bit) }

theorem wake_eq (s : State) (e : Fin 8) (n : Fin 16) (bit : Nat) :
    s.wake e n bit = s.modThr e n (fun t => t.woken s.now bit) := by
  unfold State.wake
  dsimp only
  split
  case isTrue h => exact modThr_congr _ _ _ (by simp only [Thread.woken, h, if_true])
  case isFalse h =>
    refine modThr_congr _ _ _ ?_
    simp only [Thread.woken, h, Bool.and_eq_true, decide_eq_true_eq]
    rfl

theorem Thread.woken_by (t : Thread) (now bit : Nat) : wokenBy t (t.woken now bit) now bit := by
  unfold wokenBy Thread.woken
  by_cases hp : nbit t.pend.toNat bit = true
  · simp only [hp, if_true]
  · simp only [hp]
    cases t.park with
    | none => simp
    | wait => by_cases hs : t.state = .parked <;> by_cases hb : nbit t.mask.toNat bit = true <;> simp [hs, hb]
    | space _ => by_cases hs : t.state = .parked <;> by_cases hb : bit = 10 <;> simp [hs, hb]

end Sys2Proof.Machine
end

section
set_option Elab.async false
namespace Sys2Proof
open Sys2Proof.Machine

theorem gafferCommandsRun_holds : gafferCommandsRun := by
  intro p e n s hw
  have self : ∀ res : Nat, Frame [R.Ge_CMD_STAT e] s (s.geCmdStat e n res) := fun res =>
    geCmdStat_frame (Frame.refl _ s) (by simp) n res
  have refused : s.sameRegsBut (s.geCmdStat e n 2) [R.Ge_CMD_STAT e] ∧ onlyThread s (s.geCmdStat e n 2) e n ∧
      cmdResult (s.geCmdStat e n 2) e n 2 ∧ (s.geCmdStat e n 2).thr e n = s.thr e n :=
    ⟨(self 2).regs, (self 2).onlyThread_self e n, geCmdStat_result s e n (by decide), thr_of_gaf (self 2).gaf e n⟩
  have on : ∀ (f : Thread → Thread) (res : Nat), res < 4 → let t := (s.modThr e n f).geCmdStat e n res
      s.sameRegsBut t [R.Ge_CMD_STAT e] ∧ onlyThread s t e n ∧ cmdResult t e n res ∧ t.thr e n = f (s.thr e n) := by
    intro f res hr
    have hf : Frame [R.Ge_CMD_STAT e] (s.modThr e n f) ((s.modThr e n f).geCmdStat e n res) :=
      geCmdStat_frame (Frame.refl _ _) (by simp) n res
    exact ⟨hf.regs, hf.onlyThread_modThr, geCmdStat_result _ e n hr, hf.thr_same⟩
  have cleared : ∀ (f : Thread → Thread), let t := ((s.clrFlt e n).modThr e n f).geCmdStat e n 0
      s.sameRegsBut t [R.Ge_CMD_STAT e, R.Ge_FLTMASK e] ∧ onlyThread s t e n ∧ cmdResult t e n 0 ∧ maskCleared s t e n ∧
        t.thr e n = f (s.thr e n) := by
    intro f
    have hf : Frame [R.Ge_CMD_STAT e, R.Ge_FLTMASK e] (s.modThr e n f) (((s.clrFlt e n).modThr e n f).geCmdStat e n 0) := by
      have hm : (s.clrFlt e n).modThr e n f = (s.modThr e n f).clrFlt e n := 
        apply_ite (fun u : State => u.modThr e n f) _ _ _
      rw [hm]
      exact geCmdStat_frame (clrFlt_frame n (by simp)) (by simp) n 0
    exact ⟨hf.regs, hf.onlyThread_modThr, geCmdStat_result _ e n (by decide),
      maskCleared_of_reg (clrFlt_mask s e n) (geCmdStat_reg_ne _ _ _ (fltmask_ne_cmdStat e)), hf.thr_same⟩
  have mono : ∀ t : State, s.sameRegsBut t [R.Ge_CMD_STAT e] → s.sameRegsBut t [R.Ge_CMD_STAT e, R.Ge_FLTMASK e] :=
    fun t h o hr ho => h o hr (by simp_all)
  refine ⟨fun pc => ⟨_, hostAct_open hw p _ _, ?_⟩, ⟨_, hostAct_open hw p _ _, ?_⟩, ⟨_, hostAct_open hw p _ _, ?_⟩,
    ⟨_, hostAct_open hw p _ _, ?_⟩, ⟨_, hostAct_open hw p _ _, ?_⟩, ⟨_, hostAct_open hw p _ _, ?_⟩, hostAct_open hw p _ _⟩
  · unfold State.cmdStart
    split
    · exact ⟨(on _ 0 (by decide)).1, (on _ 0 (by decide)).2.1, (on _ 0 (by decide)).2.2⟩
    · exact refused
  · unfold State.cmdHalt
    cases hs : (s.thr e n).state
    case run =>
      obtain ⟨h1, h2, h3, h4⟩ := on (fun t => { t with haltReq := true }) 1 (by decide)
      exact ⟨h1, h2, fun _ => ⟨h3, h4⟩, by simp, by simp⟩
    case ready =>
      obtain ⟨h1, h2, h3, h4⟩ := on (Thread.stopped s.now) 0 (by decide)
      exact ⟨h1, h2, by simp, fun _ => ⟨h3, h4.trans (Thread.stopped_eq _ _)⟩, by simp⟩
    case parked =>
      obtain ⟨h1, h2, h3, h4⟩ := on (Thread.stopped s.now) 0 (by decide)
      exact ⟨h1, h2, by simp, fun _ => ⟨h3, h4.trans (Thread.stopped_eq _ _)⟩, by simp⟩
    all_goals
      obtain ⟨h1, h2, h3, h4⟩ := refused
      exact ⟨h1, h2, by simp, by simp, fun _ => ⟨h3, h4⟩⟩
  · unfold State.cmdResume
    split
    · obtain ⟨h1, h2, h3, h4, h5⟩ := cleared (fun t => { t with haltReq := false }.toReady s.now)
      exact ⟨h1, h2, h3, h4, h5⟩
    · obtain ⟨h1, h2, h3, h4⟩ := refused
      exact ⟨mono _ h1, h2, h3, h4, geCmdStat_reg_ne _ _ _ (fltmask_ne_cmdStat e)⟩
  · unfold State.cmdClrFault
    split
    · obtain ⟨h1, h2, h3, h4, h5⟩ := cleared (fun t => { t with state := .idle })
      exact ⟨h1, h2, h3, h4, h5⟩
    · obtain ⟨h1, h2, h3, h4⟩ := refused
      exact ⟨mono _ h1, h2, h3, h4, geCmdStat_reg_ne _ _ _ (fltmask_ne_cmdStat e)⟩
  · obtain ⟨h1, h2, h3, h4⟩ := on (fun t => t.woken s.now 8) 0 (by decide)
    have ht : s.cmdWake e n = (s.modThr e n (fun t => t.woken s.now 8)).geCmdStat e n 0 := by rw [State.cmdWake, wake_eq]
    rw [ht]
    exact ⟨h1, h2, h3, h4 ▸ Thread.woken_by _ _ _⟩
  · have hf : Frame [R.Ge_LAT_MAX e, R.Ge_CMD_STAT e] s (s.cmdClrLat e n) :=
      geCmdStat_frame ((Frame.refl _ s).setReg 0 (by simp)) (by simp) n 0
    exact ⟨(geCmdStat_reg_ne _ _ _ (by unfold R.Ge_LAT_MAX R.Ge_CMD_STAT; omega)).trans (reg_setReg_same _ _ _),
      geCmdStat_result _ e n (by decide), hf.regs, hf.blocks⟩

end Sys2Proof
end

section
/-!
SUPPORT. Lock violations and the configuration count (R320, R323); the stores into a Gaffer (R101, R119, R149, R150).
-/
set_option Elab.async false
namespace Sys2Proof.Machine
open Sys2Proof

/-! ### Violations -/

theorem loading_of_writes {s : State} (h : s.takesWrites = true) : s.loading = false := ((takesWrites_iff s).1 h).2.2

/-- The registers of a lock violation. -/
def violRegs : List Nat := [R.GL_LOCK_VIOL, R.GL_LOCK_LAST, R.GL_EVT]

/-- A violation outside a load is counted, noted and reported. -/
theorem lockViolation_frame {os : List Nat} {s t : State} (h : Frame os s t) (hl : t.loading = false) (hos : ∀ o ∈ violRegs, o ∈ os)
    (p : Path) (o : Nat) (v : Word) (domains : Nat) (once : Bool) : Frame os s (t.lockViolation p o v domains once) := by
  unfold State.lockViolation
  rw [if_neg (by simp [hl])]
  exact (((h.rsat (f := F.GL_LOCK_VIOL_CNT) 1 (hos _ (by decide))).setReg _ (hos _ (by decide))).evt (hos _ (by decide))).emit _ _ _ _ _ _ _ _

theorem lockViolation_counts {s : State} (hl : s.loading = false) (p : Path) (o : Nat) (v : Word) (domains : Nat) (once : Bool) :
    countedOne s (s.lockViolation p o v domains once) F.GL_LOCK_VIOL_CNT ∧ (s.lockViolation p o v domains once).ron F.GL_EVT_LOCK_S = true := by
  unfold State.lockViolation
  rw [if_neg (by simp [hl])]
  refine ⟨?_, ?_⟩
  · show State.rget _ _ = _
    simp (disch := decide) only [rget_emit, rget_evt_ne, rget_setReg_ne, rget_rsat_same]
  · exact (ron_of_rget_eq (rget_emit _ _ _ _ _ _ _ _ _ (by decide))).trans (ron_evt _ _ rfl (by decide) (by decide))

theorem violRegs_sub {os : List Nat} {a : List Nat} : ∀ o ∈ violRegs, o ∈ a ++ violRegs ++ os := by
  intro o h; simp [h]

/-! ### The configuration count -/

/-- A configuration write that puts what it puts, and may count a change. -/
theorem cfgWrite_cases (s : State) (o : Nat) (f : State → State) :
    s.cfgWrite o f = f s ∨ s.cfgWrite o f = (f s).rwrap F.GL_CFGGEN_GEN 1 := by
  unfold State.cfgWrite
  dsimp only
  split
  · exact Or.inl rfl
  · exact Or.inr rfl

theorem cfgWrite_frame {os : List Nat} {s u : State} {o : Nat} {f : State → State} (h : Frame os u (f s)) (ho : R.GL_CFGGEN ∈ os) :
    Frame os u (s.cfgWrite o f) := by
  obtain h' | h' := cfgWrite_cases s o f <;> rw [h']
  · exact h
  · exact h.rwrap 1 ho

theorem cfgWrite_reg (s : State) {o a : Nat} {f : State → State} (h : a ≠ R.GL_CFGGEN) : (s.cfgWrite o f).reg a = (f s).reg a := by
  obtain h' | h' := cfgWrite_cases s o f <;> rw [h']
  exact reg_rwrap_ne _ _ h

theorem cfgWrite_rget (s : State) {o : Nat} {f : State → State} {g : Fld} (h : g.reg ≠ R.GL_CFGGEN) :
    (s.cfgWrite o f).rget g = (f s).rget g := rget_of_reg (cfgWrite_reg s h)

theorem cfgWrite_gaf (s : State) (o : Nat) (f : State → State) : (s.cfgWrite o f).gaf = (f s).gaf := by
  obtain h' | h' := cfgWrite_cases s o f <;> rw [h']
  rfl

/-! ### The control store -/

theorem parity36_lt (w lo : Nat) : parity36 w lo < 2 := Nat.mod_lt _ (by decide)

theorem mwParity_lt (w : Nat) : mwParity w < 16 := by
  have h := parity36_lt w
  have h0 := h 0; have h1 := h 36; have h2 := h 72; have h3 := h 108
  unfold mwParity
  omega

/-- The parity that a store puts above a microword. -/
def putParity (inject : Bool) (m : Nat) : Nat :=
  if inject then (if mwParity m % 2 = 1 then mwParity m - 1 else mwParity m + 1) else mwParity m

theorem putParity_lt (i : Bool) (m : Nat) : putParity i m < 16 := by
  have := mwParity_lt m
  unfold putParity
  split_ifs <;> omega

theorem putParity_eq_iff (i : Bool) (m : Nat) : putParity i m = mwParity m ↔ i = false := by
  unfold putParity
  split_ifs with hi h
  · simp [hi]; omega
  · simp [hi]
  · simp [hi]

theorem putWord_toNat {m par : Nat} (hm : m < 2 ^ 144) (hp : par < 16) : (BitVec.ofNat 148 (m + par * 2 ^ 144)).toNat = m + par * 2 ^ 144 := by
  rw [BitVec.toNat_ofNat]
  exact Nat.mod_eq_of_lt (by omega)

theorem csMicro_putWord {m par : Nat} (hm : m < 2 ^ 144) (hp : par < 16) :
    csMicro (BitVec.ofNat 148 (m + par * 2 ^ 144)) = BitVec.ofNat 144 m := by
  refine BitVec.eq_of_toNat_eq ?_
  rw [csMicro, putWord_toNat hm hp, BitVec.toNat_ofNat, BitVec.toNat_ofNat, Nat.add_mul_mod_self_right]

theorem csParityOk_putWord {m par : Nat} (hm : m < 2 ^ 144) (hp : par < 16) :
    csParityOk (BitVec.ofNat 148 (m + par * 2 ^ 144)) = decide (par = mwParity m) := by
  have hd : (m + par * 2 ^ 144) / 2 ^ 144 = par := by omega
  have hr : (m + par * 2 ^ 144) % 2 ^ 144 = m := by rw [Nat.add_mul_mod_self_right]; exact Nat.mod_eq_of_lt hm
  rw [csParityOk, putWord_toNat hm hp, hd, hr]

/-- The word, parity above it, that a store of a microword puts. -/
def State.putWord (s : State) (e : Fin 8) (m : Nat) : BitVec 148 :=
  BitVec.ofNat 148 (m % 2 ^ 144 + putParity (s.ron (F.CSe_CTRL_PINJ e)) (m % 2 ^ 144) * 2 ^ 144)

/-- A Gaffer with one word of its control store set. -/
def Gaffer.withCs (a : Nat) (x : BitVec 148) (g : Gaffer) : Gaffer := { g with cs := tblSet (fun _ => 0) g.cs a x }

theorem csPut_eq (s : State) (e : Fin 8) (w : Fin 2048) (m : Nat) : s.csPut e w m =
    ((((s.modGaf e (Gaffer.withCs w (s.putWord e m))).rput (F.CSe_CTRL_PINJ e) 0).rput
      (F.CSe_STAT_LAST e) w).rwrap F.GL_CFGGEN_GEN 1) := rfl

theorem csPut_gaf (s : State) (e : Fin 8) (w : Fin 2048) (m : Nat) :
    (s.csPut e w m).gaf = (s.modGaf e (Gaffer.withCs w (s.putWord e m))).gaf := rfl

theorem csPut_csWord (s : State) (e : Fin 8) (w : Fin 2048) (m a : Nat) :
    (s.csPut e w m).csWord e a = if a = w.val then s.putWord e m else s.csWord e a := by
  unfold State.csWord
  rw [csPut_gaf, gaf_modGaf_same, Gaffer.withCs]
  split
  case isTrue h => rw [h]; exact tblGet_set_same _ _ _ _
  case isFalse h => exact tblGet_set_ne _ _ _ h

theorem csReg_ne_cfggen (e : Fin 8) : R.CSe_CTRL e ≠ R.GL_CFGGEN ∧ R.CSe_STAT e ≠ R.GL_CFGGEN ∧ R.CSe_CTRL e ≠ R.CSe_STAT e := by
  unfold R.CSe_CTRL R.CSe_STAT R.GL_CFGGEN; omega

/-- What a store of a microword leaves. -/
theorem csPut_stores (s : State) (e : Fin 8) (w : Fin 2048) (m : Nat) :
    let t := s.csPut e w m
    csMicro (t.csWord e w) = BitVec.ofNat 144 m ∧ csParityOk (t.csWord e w) = !s.ron (F.CSe_CTRL_PINJ e) ∧ t.ron (F.CSe_CTRL_PINJ e) = false ∧
      (∀ w', w' ≠ w.val → t.csWord e w' = s.csWord e w') ∧ (∀ d, d ≠ e → t.gaf[d] = s.gaf[d]) ∧
      t.rget F.GL_CFGGEN_GEN = (s.rget F.GL_CFGGEN_GEN + 1) % 2 ^ F.GL_CFGGEN_GEN.width ∧
      s.sameRegsBut t [R.CSe_CTRL e, R.CSe_STAT e, R.GL_CFGGEN] ∧ State.sameBlocks { s with gaf := t.gaf } t := by
  intro t
  have hm : m % 2 ^ 144 < 2 ^ 144 := Nat.mod_lt _ (by decide)
  have hp := putParity_lt (s.ron (F.CSe_CTRL_PINJ e)) (m % 2 ^ 144)
  obtain ⟨hc, hs, hcs⟩ := csReg_ne_cfggen e
  have hw : t.csWord e w = s.putWord e m := (csPut_csWord s e w m w).trans (if_pos rfl)
  have hf : Frame [R.CSe_CTRL e, R.CSe_STAT e, R.GL_CFGGEN] { s with gaf := t.gaf } t :=
    (((Frame.refl _ { s with gaf := t.gaf }).rput (f := F.CSe_CTRL_PINJ e) 0 (by simp [F.CSe_CTRL_PINJ])).rput (f := F.CSe_STAT_LAST e) w
      (by simp [F.CSe_STAT_LAST])).rwrap (f := F.GL_CFGGEN_GEN) 1 (by simp [F.GL_CFGGEN_GEN])
  refine ⟨?_, ?_, ?_, fun w' hne => (csPut_csWord s e w m w').trans (if_neg hne), fun d hd => gaf_modGaf_ne s (Gaffer.withCs w (s.putWord e m)) hd, ?_, hf.regs, hf.blocks⟩
  · rw [hw, State.putWord, csMicro_putWord hm hp]
    exact BitVec.eq_of_toNat_eq (by simp)
  · rw [hw, State.putWord, csParityOk_putWord hm hp, Bool.eq_iff_iff, decide_eq_true_iff, putParity_eq_iff]
    simp
  · refine ron_eq_false.2 ?_
    rw [show t = s.csPut e w m from rfl, csPut_eq, rget_rwrap_ne _ _ hc, rget_rput_ne _ _ hcs, rget_rput_same _ _ _ (by decide : (1 : Nat) + 1 ≤ 32)]
    rfl
  · rw [show t = s.csPut e w m from rfl, csPut_eq, rget_rwrap_same _ _ _ (by decide), rget_rput_ne _ _ hs.symm, rget_rput_ne _ _ hc.symm]
    rfl

/-! ### AUTOSTART -/

/-- A thread as START leaves it. -/
def Thread.started (t : Thread) (pc : BitVec 11) (cls now : Nat) : Thread :=
  { t with
    pc := pc, atSafe := false, wres := 0, flags := 0, ephres := 0, chres := 0, recres := 0, fresh := false, more := false
    merr := false, ret := [], pend := 0, park := .none, run := 0, quantum := 0, haltReq := false, keep := false, cls := cls
    wokenAt := none, state := .ready, readySince := some now, starved := false }

theorem thStart_eq (s : State) (e : Fin 8) (n : Fin 16) (pc : BitVec 11) :
    s.thStart e n pc = s.modThr e n (fun t => t.started pc (s.thClass e n) s.now) := rfl

/-- What AUTOSTART does about one thread. -/
def State.autoOne (e : Fin 8) (s : State) (n : Fin 16) : State :=
  if s.ron (F.Ge_THRn_CFG_AUTOSTART e n) ∧ (s.thr e n).state = .idle then
    s.thStart e n (BitVec.ofNat 11 (s.rget (F.Ge_THRn_CFG_ENTRY e n)))
  else s

theorem autoOne_frame {s t : State} (h : Frame [] { s with gaf := t.gaf } t) (e : Fin 8) (n : Fin 16) :
    Frame [] { s with gaf := (t.autoOne e n).gaf } (t.autoOne e n) := by
  unfold State.autoOne
  split
  · exact ⟨h.regs, h.far, h.core.1, rfl, h.core.2.2⟩
  · exact h

theorem autoOne_thr_ne (s : State) (e : Fin 8) {n m : Fin 16} (h : m ≠ n) : (s.autoOne e n).thr e m = s.thr e m := by
  unfold State.autoOne
  split
  · exact thr_modThr_ne _ _ _ h
  · rfl

theorem autoOne_thr_same (s : State) (e : Fin 8) (n : Fin 16) : (s.autoOne e n).thr e n =
    if s.ron (F.Ge_THRn_CFG_AUTOSTART e n) = true ∧ (s.thr e n).state = .idle then
      (s.thr e n).started (BitVec.ofNat 11 (s.rget (F.Ge_THRn_CFG_ENTRY e n))) (s.thClass e n) s.now
    else s.thr e n := by
  unfold State.autoOne
  split
  · exact thr_modThr_same _ _ _ _
  · rfl

theorem autostart_eq {s : State} {e : Fin 8} (h : s.gaf[e].started = false) :
    s.autostart e = (List.finRange 16).foldl (State.autoOne e) (s.modGaf e (fun g => { g with started := true })) := by
  unfold State.autostart
  rw [h]
  rfl

theorem autoOne_regs (s : State) (e : Fin 8) (n : Fin 16) : (s.autoOne e n).regs = s.regs ∧ (s.autoOne e n).spine = s.spine := by
  unfold State.autoOne
  split <;> exact ⟨rfl, rfl⟩

/-- AUTOSTART judges each thread by itself. -/
theorem autoFold_thr (e : Fin 8) (n : Fin 16) {l : List (Fin 16)} (hl : l.Nodup) (s : State) :
    (l.foldl (State.autoOne e) s).thr e n = if n ∈ l then (s.autoOne e n).thr e n else s.thr e n := by
  induction l generalizing s with
  | nil => rfl
  | cons m l ih =>
    obtain ⟨hm, hl⟩ := List.nodup_cons.1 hl
    rw [List.foldl_cons, ih hl]
    by_cases hnm : n = m
    · subst hnm; simp [hm]
    · obtain ⟨hr, hs⟩ := autoOne_regs s e m
      have hg : ∀ f, (s.autoOne e m).rget f = s.rget f := fun f => by simp only [State.rget, State.reg, hr]
      have ht := autoOne_thr_ne s e hnm
      have hn : (s.autoOne e m).now = s.now := by simp only [State.now, hs]
      have hone : ((s.autoOne e m).autoOne e n).thr e n = (s.autoOne e n).thr e n := by
        rw [autoOne_thr_same, autoOne_thr_same, ht, hn]
        simp only [State.ron, State.thClass, hg]
        rfl
      simp [hnm, hone, ht]

theorem autoFold_frame {s : State} (e : Fin 8) (l : List (Fin 16)) {t : State} (h : Frame [] { s with gaf := t.gaf } t) :
    Frame [] { s with gaf := (l.foldl (State.autoOne e) t).gaf } (l.foldl (State.autoOne e) t) := by
  induction l generalizing t with
  | nil => exact h
  | cons m l ih => exact ih (autoOne_frame h e m)

theorem autoOne_started (s : State) (e : Fin 8) (n : Fin 16) : (s.autoOne e n).gaf[e].started = s.gaf[e].started := by
  unfold State.autoOne
  split
  · rw [thStart_eq]; simp [State.modThr]
  · rfl

theorem autoFold_started (e : Fin 8) (l : List (Fin 16)) (s : State) :
    (l.foldl (State.autoOne e) s).gaf[e].started = s.gaf[e].started := by
  induction l generalizing s with
  | nil => rfl
  | cons m l ih => exact (ih _).trans (autoOne_started s e m)

/-- The first setting of RUN starts the AUTOSTART threads, each as START would, and nothing else. -/
theorem autostart_starts {s : State} {e : Fin 8} (h : s.gaf[e].started = false) :
    let t := s.autostart e
    Frame [] { s with gaf := t.gaf } t ∧ t.gaf[e].started = true ∧ ∀ n, t.thr e n = (s.autoOne e n).thr e n := by
  intro t
  have ht : t = _ := autostart_eq h
  have hthr : ∀ n, (s.modGaf e (fun g => { g with started := true })).thr e n = s.thr e n := fun n => by simp [State.thr]
  rw [ht]
  refine ⟨autoFold_frame e _ ⟨fun _ _ _ => rfl, far_refl _, core_refl _⟩, ?_, fun n => ?_⟩
  · rw [autoFold_started, gaf_modGaf_same]
  · rw [autoFold_thr e n (List.nodup_finRange 16), if_pos (List.mem_finRange n), autoOne_thr_same, autoOne_thr_same, hthr]
    rfl

end Sys2Proof.Machine
end

section
set_option Elab.async false
namespace Sys2Proof
open Sys2Proof.Machine

theorem csStores_hold {s : State} (hw : s.takesWrites = true) (p : Path) (e : Fin 8) (w : Fin 2048) (v : Word) :
    (s.csLocked e = false → s.ron (F.CSe_CTRL_WE e) = true →
      ∃ t, exec (.csStore p e w v) s = .next t ∧ csMicro (t.csWord e w) = BitVec.ofNat 144 (s.csHeld p e w v) ∧
        csParityOk (t.csWord e w) = !s.ron (F.CSe_CTRL_PINJ e) ∧ t.ron (F.CSe_CTRL_PINJ e) = false ∧
        (∀ w', w' ≠ w.val → t.csWord e w' = s.csWord e w') ∧ (∀ d, d ≠ e → t.gaf[d] = s.gaf[d]) ∧
        t.rget F.GL_CFGGEN_GEN = (s.rget F.GL_CFGGEN_GEN + 1) % 2 ^ F.GL_CFGGEN_GEN.width ∧
        s.sameRegsBut t [R.CSe_CTRL e, R.CSe_STAT e, R.GL_CFGGEN] ∧ State.sameBlocks { s with gaf := t.gaf } t) ∧
    (s.csLocked e = false → s.ron (F.CSe_CTRL_WE e) = false →
      ∃ t, exec (.csStore p e w v) s = .next t ∧
        t.rget (F.CSe_STAT_REFUSED e) = min (s.rget (F.CSe_STAT_REFUSED e) + 1) (2 ^ (F.CSe_STAT_REFUSED e).width - 1) ∧
        s.sameRegsBut t [R.CSe_STAT e] ∧ s.sameBlocks t) ∧
    (s.csLocked e = true →
      ∃ t, exec (.csStore p e w v) s = .next t ∧
        t.rget (F.CSe_STAT_REFUSED e) = min (s.rget (F.CSe_STAT_REFUSED e) + 1) (2 ^ (F.CSe_STAT_REFUSED e).width - 1) ∧
        t.rget F.GL_LOCK_VIOL_CNT = min (s.rget F.GL_LOCK_VIOL_CNT + 1) (2 ^ F.GL_LOCK_VIOL_CNT.width - 1) ∧
        t.ron F.GL_EVT_LOCK_S = true ∧ s.sameBlocks t) := by
  have hx : exec (.csStore p e w v) s = .next (s.csWrite p e w v) := hostAct_open hw p _ _
  have hcnt : (s.rsat (F.CSe_STAT_REFUSED e) 1).rget (F.CSe_STAT_REFUSED e) = _ :=
    rget_rsat_same s (F.CSe_STAT_REFUSED e) 1 (by decide : (16 : Nat) + 16 ≤ 32)
  have hf : Frame [R.CSe_STAT e] s (s.rsat (F.CSe_STAT_REFUSED e) 1) :=
    (Frame.refl _ s).rsat (f := F.CSe_STAT_REFUSED e) 1 (by simp [F.CSe_STAT_REFUSED])
  refine ⟨fun hl he => ⟨_, hx, ?_⟩, fun hl he => ⟨_, hx, ?_⟩, fun hl => ⟨_, hx, ?_⟩⟩
  · have ht : s.csWrite p e w v = s.csPut e w (s.csHeld p e w v) := by simp [State.csWrite, hl, he]
    rw [ht]
    exact csPut_stores s e w _
  · have ht : s.csWrite p e w v = s.rsat (F.CSe_STAT_REFUSED e) 1 := by simp [State.csWrite, hl, he]
    rw [ht]
    exact ⟨hcnt, hf.regs, hf.blocks⟩
  · have ht : s.csWrite p e w v = (s.rsat (F.CSe_STAT_REFUSED e) 1).lockViolation p (csOffset e w 4) v (2 ^ 9) false := by
      simp only [State.csWrite, hl, if_true]
    have hload : (s.rsat (F.CSe_STAT_REFUSED e) 1).loading = false := by
      rw [← loading_of_writes hw]
      exact ron_of_reg (reg_rsat_ne _ _ (by unfold F.CSe_STAT_REFUSED R.CSe_STAT; simp only [F.CFG_STAT_LOADING, R.CFG_STAT]; omega))
    have hv := lockViolation_frame (os := violRegs) (Frame.refl _ (s.rsat (F.CSe_STAT_REFUSED e) 1)) hload (fun _ h => h) p (csOffset e w 4) v (2 ^ 9) false
    obtain ⟨h1, h2⟩ := lockViolation_counts hload p (csOffset e w 4) v (2 ^ 9) false
    rw [ht]
    refine ⟨?_, ?_, h2, (hf.mono (os' := R.CSe_STAT e :: violRegs) (by simp)).trans (hv.mono fun _ => List.mem_cons_of_mem _) |>.blocks⟩
    · rw [← hcnt]
      exact rget_of_reg (hv.regs _ (reportReg_of_page (by unfold F.CSe_STAT_REFUSED R.CSe_STAT; simp only; omega))
        (by simp only [violRegs, F.CSe_STAT_REFUSED, R.CSe_STAT, R.GL_LOCK_VIOL, R.GL_LOCK_LAST, R.GL_EVT, List.mem_cons, List.not_mem_nil, or_false]; omega))
    · rw [h1, rget_rsat_ne _ _ (by simp only [F.GL_LOCK_VIOL_CNT, F.CSe_STAT_REFUSED, R.CSe_STAT, R.GL_LOCK_VIOL]; omega)]

theorem runWrite_holds {s : State} (hw : s.takesWrites = true) (p : Path) (e : Fin 8) (run : Bool) :
    ∃ t, exec (.geCtrlRun p e run) s = .next t ∧ t.ron (F.Ge_CTRL_RUN e) = run ∧
      s.sameRegsBut t [R.Ge_CTRL e, R.GL_CFGGEN] ∧ State.sameBlocks { s with gaf := t.gaf } t ∧
      (run = false ∨ s.rget F.PW_STAT_STATE ≠ 1 ∨ s.gaf[e].started = true → t.gaf = s.gaf) ∧
      (run = true → s.rget F.PW_STAT_STATE = 1 → s.gaf[e].started = false → t.gaf[e].started = true ∧
        ∀ n, t.thr e n = (if s.ron (F.Ge_THRn_CFG_AUTOSTART e n) = true ∧ (s.thr e n).state = .idle then
          (s.thStart e n (BitVec.ofNat 11 (s.rget (F.Ge_THRn_CFG_ENTRY e n)))).thr e n else s.thr e n)) := by
  let s1 := s.rput (F.Ge_CTRL_RUN e) (b2n run)
  have hne : R.Ge_CTRL e ≠ R.GL_CFGGEN := by unfold R.Ge_CTRL R.GL_CFGGEN; omega
  have hrun : s1.ron (F.Ge_CTRL_RUN e) = run := by
    have h : s1.rget (F.Ge_CTRL_RUN e) = b2n run % 2 ^ 1 := rget_rput_same _ _ _ (by decide : (0 : Nat) + 1 ≤ 32)
    rw [State.ron, h]
    cases run <;> rfl
  have hst : s1.rget F.PW_STAT_STATE = s.rget F.PW_STAT_STATE :=
    rget_rput_ne _ _ (by simp only [F.PW_STAT_STATE, F.Ge_CTRL_RUN, R.PW_STAT, R.Ge_CTRL]; omega)
  have hf : Frame [R.Ge_CTRL e, R.GL_CFGGEN] s s1 := (Frame.refl _ s).rput (f := F.Ge_CTRL_RUN e) _ (by simp [F.Ge_CTRL_RUN])
  have hx : exec (.geCtrlRun p e run) s = .next (s.cfgWrite (R.Ge_CTRL e) (fun s => s.runWrite e run)) := hostAct_open hw p _ _
  by_cases hgo : run = true ∧ s.rget F.PW_STAT_STATE = 1 ∧ s.gaf[e].started = false
  · obtain ⟨hr, hp, hstart⟩ := hgo
    have hd : s1.dispatchOn e = true := by simp [State.dispatchOn, hrun, hr, hst, hp]
    have ht : s.runWrite e run = s1.autostart e := if_pos hd
    obtain ⟨ha, has, hathr⟩ := autostart_starts (s := s1) (e := e) hstart
    have hall : Frame [R.Ge_CTRL e, R.GL_CFGGEN] { s with gaf := (s1.autostart e).gaf } (s1.autostart e) := by
      have h1 : Frame [R.Ge_CTRL e, R.GL_CFGGEN] { s with gaf := (s1.autostart e).gaf } { s1 with gaf := (s1.autostart e).gaf } :=
        ⟨hf.regs, hf.far, hf.core.1, rfl, hf.core.2.2⟩
      exact h1.trans (ha.mono (by simp))
    have hc : Frame [R.Ge_CTRL e, R.GL_CFGGEN] { s with gaf := (s1.autostart e).gaf } (s.cfgWrite (R.Ge_CTRL e) (fun s => s.runWrite e run)) :=
      cfgWrite_frame (by rw [ht]; exact hall) (by simp)
    have hgaf : (s.cfgWrite (R.Ge_CTRL e) (fun s => s.runWrite e run)).gaf = (s1.autostart e).gaf := (cfgWrite_gaf _ _ _).trans (by rw [ht])
    refine ⟨_, hx, ?_, hc.regs, ?_, fun h => ?_, fun _ _ _ => ⟨by rw [hgaf]; exact has, fun n => ?_⟩⟩
    · refine (ron_of_rget_eq (cfgWrite_rget _ hne)).trans ?_
      rw [ht]
      exact (ron_of_reg (ha.regs _ (reportReg_of_page (by unfold F.Ge_CTRL_RUN R.Ge_CTRL; simp only; omega)) (by simp))).trans hrun
    · exact Frame.onGaf (os := [R.Ge_CTRL e, R.GL_CFGGEN]) hc
    · rw [hr, hstart] at h
      exact absurd h (by simp [hp])
    · have hreg : ∀ f : Fld, f.reg = R.Ge_THRn_CFG e n → s1.rget f = s.rget f := fun f hfr =>
        rget_rput_ne _ _ (by rw [hfr]; simp only [F.Ge_CTRL_RUN, R.Ge_CTRL, R.Ge_THRn_CFG]; omega)
      have ha1 := hreg (F.Ge_THRn_CFG_AUTOSTART e n) rfl
      have ha2 := hreg (F.Ge_THRn_CFG_ENTRY e n) rfl
      have ha3 := hreg (F.Ge_THRn_CFG_CLASS e n) rfl
      rw [thr_of_gaf hgaf, hathr, autoOne_thr_same, thStart_eq, thr_modThr_same]
      simp only [State.ron, State.thClass, ha1, ha2, ha3]
      rfl
  · have ht : (s.runWrite e run).gaf = s.gaf ∧ Frame [R.Ge_CTRL e, R.GL_CFGGEN] s (s.runWrite e run) ∧
        (s.runWrite e run).ron (F.Ge_CTRL_RUN e) = run := by
      have h1 : s.runWrite e run = s1 := by
        by_cases hd : s1.dispatchOn e = true
        · have h2 : s.runWrite e run = s1.autostart e := if_pos hd
          simp only [State.dispatchOn, hrun, hst, Bool.and_eq_true, decide_eq_true_eq] at hd
          have h3 : s1.gaf[e].started = true := by
            by_contra h4
            exact hgo ⟨hd.1, hd.2, Bool.eq_false_iff.2 h4⟩
          rw [h2]
          exact if_pos h3
        · exact if_neg hd
      rw [h1]
      exact ⟨rfl, hf, hrun⟩
    obtain ⟨hg, hfr, hr⟩ := ht
    have hc := cfgWrite_frame (o := R.Ge_CTRL e) (f := fun s => s.runWrite e run) hfr (by simp)
    refine ⟨_, hx, (ron_of_rget_eq (cfgWrite_rget _ hne)).trans hr, hc.regs, Frame.onGaf (os := [R.Ge_CTRL e, R.GL_CFGGEN]) (g := s.gaf) hc, fun _ => hc.gaf,
      fun h1 h2 h3 => absurd ⟨h1, h2, h3⟩ hgo⟩

theorem gafferStoresRun_holds : gafferStoresRun := by
  intro p e s hw
  exact ⟨fun w v => csStores_hold hw p e w v, fun m v => ⟨_, hostAct_open hw p _ _, rfl, fun _ => rfl, far_refl _, core_refl _⟩,
    fun run => runWrite_holds hw p e run⟩

/-- Settles O30: each command of a Gaffer changes one thread; each store its one word. -/
theorem gafferCommandsAndStores : Obligations.GafferCommandsAndStores := ⟨gafferCommandsRun_holds, gafferStoresRun_holds⟩

end Sys2Proof
end

section
/-!
SUPPORT. Faults of a thread (R107, R112): what stands once a fault has been taken and its entries purged.
-/
set_option Elab.async false
namespace Sys2Proof.Machine
open Sys2Proof

/-! ### What a purge leaves -/

/-- A purge of ephemeris entries leaves every thread of the Gaffer that is not parked, and no register but the event register. -/
def Purged (e : Fin 8) (s t : State) : Prop :=
  (∀ o, reportReg o = false → o ≠ R.Ge_EVT e → t.reg o = s.reg o) ∧ (s.ron (F.Ge_EVT_FAULT_S e) = true → t.ron (F.Ge_EVT_FAULT_S e) = true) ∧
  t.gaf[e].running = s.gaf[e].running ∧ t.gaf[e].sreg = s.gaf[e].sreg ∧ ∀ n, (s.thr e n).state ≠ .parked → t.thr e n = s.thr e n

theorem Purged.refl (e : Fin 8) (s : State) : Purged e s s := ⟨fun _ _ _ => rfl, id, rfl, rfl, fun _ _ => rfl⟩

section
variable {e : Fin 8} {s t : State} (h : Purged e s t)
include h

theorem Purged.wake {m : Fin 16} (hm : (t.thr e m).state = .parked) (bit : Nat) : Purged e s (t.wake e m bit) := by
  obtain ⟨hr, hf, hrun, hs, ht⟩ := h
  rw [wake_eq]
  refine ⟨hr, hf, (running_modThr _ _ _ _).trans hrun, by simpa [State.modThr] using hs, fun n hn => ?_⟩
  have hnm : n ≠ m := fun he => hn (by rw [← ht n hn, he, hm])
  exact (thr_modThr_ne _ _ _ hnm).trans (ht n hn)

theorem Purged.wakeSpace (of : SpaceOf) : Purged e s (t.wakeSpace e of) := by
  unfold State.wakeSpace
  refine List.foldlRecOn _ _ h (fun u hu m _ => ?_)
  split
  case isTrue hp => exact hu.wake hp.1 10
  case isFalse => exact hu

theorem Purged.ephDrop (slot : Nat) : Purged e s (t.ephDrop e slot) := by
  have h1 : ∀ m, Purged e s { (t.modGaf e (fun g => { g with eph := g.eph.filter (fun y => decide (y.slot ≠ slot)) })) with sram := m } := by
    obtain ⟨hr, hf, hrun, hs, ht⟩ := h
    intro m
    have hg := gaf_modGaf_same t e (fun g => { g with eph := g.eph.filter (fun y => decide (y.slot ≠ slot)) })
    exact ⟨hr, hf, (congrArg Gaffer.running hg).trans hrun, (congrArg Gaffer.sreg hg).trans hs,
      fun n hn => (congrArg (fun g : Gaffer => g.thr[n]) hg).trans (ht n hn)⟩
  unfold State.ephDrop
  dsimp only
  split
  · exact (h1 _).wakeSpace _
  · exact h1 _

theorem Purged.ephRemove (p : EphEnt → Bool) : Purged e s (t.ephRemove e p) :=
  List.foldlRecOn _ _ h (fun _ hu x _ => hu.ephDrop x.slot)

theorem Purged.emit (type src tm fl : Nat) (w4 w5 w6 w7 : Word) : Purged e s (t.emit type src tm fl w4 w5 w6 w7) := by
  have hg : (t.emit type src tm fl w4 w5 w6 w7).gaf = t.gaf := (emit_core _ _ _ _ _ _ _ _ _ (core_refl t)).gaf
  have hevt : reportReg (R.Ge_EVT e) = false := reportReg_of_page (by unfold R.Ge_EVT; omega)
  obtain ⟨hr, hf, hrun, hs, ht⟩ := h
  refine ⟨fun o hro ho => (reg_emit t _ _ _ _ _ _ _ _ hro).trans (hr o hro ho), fun hx => ?_, by rw [hg]; exact hrun, by rw [hg]; exact hs,
    fun n hn => (thr_of_gaf hg e n).trans (ht n hn)⟩
  exact (ron_of_reg (reg_emit t _ _ _ _ _ _ _ _ hevt)).trans (hf hx)

end

theorem rget_ecEdge (s : State) (n : Nat) {g : Fld} (hr : reportReg g.reg = false) : (s.ecEdge n).rget g = s.rget g := rget_of_reg (reg_ecEdge s n hr)

/-- Another bit of an event register stays as it was. -/
theorem rget_evt_apart (s : State) {f g : Fld} (hr : reportReg g.reg = false) (hf : f.lo + f.width ≤ 32) (he : g.reg = f.reg)
    (hd : g.lo + g.width ≤ f.lo ∨ f.lo + f.width ≤ g.lo) : (s.evt f).rget g = s.rget g := by
  unfold State.evt
  split
  · rfl
  · have h1 : ((s.noteSet f).rput f 1).rget g = s.rget g := rget_rput_apart (s.noteSet f) 1 hf he hd
    dsimp only
    split
    · exact h1
    · exact (rget_ecEdge _ _ hr).trans h1

theorem geEvt_page (e : Fin 8) : reportReg (R.Ge_EVT e) = false := reportReg_of_page (by unfold R.Ge_EVT; omega)

theorem Purged.ephPurged {e : Fin 8} {s t : State} (h : Purged e s t) (chan cause n : Nat) : Purged e s (t.ephPurged e chan cause n) := by
  unfold State.ephPurged
  split
  · exact h
  · obtain ⟨hr, hf, hrun, hs, ht⟩ := h.emit 0x1F 105 t.now 0 (word (e.val + 16 * chan + 256 * cause + 65536 * n)) 0 0 0
    have hg := fun u : State => (evt_core u (F.Ge_EVT_PURGE_S e) (core_refl u)).gaf
    refine ⟨fun o hro ho => (reg_evt _ _ hro ho).trans (hr o hro ho), fun hx => ?_, by rw [hg]; exact hrun, by rw [hg]; exact hs,
      fun n hn => (thr_of_gaf (hg _) e n).trans (ht n hn)⟩
    exact (ron_of_rget_eq (rget_evt_apart (f := F.Ge_EVT_PURGE_S e) (g := F.Ge_EVT_FAULT_S e) _ (geEvt_page e) (by decide : (6 : Nat) + 1 ≤ 32) rfl (Or.inl (by decide : (0 : Nat) + 1 ≤ 6)))).trans (hf hx)

theorem faultPurge_purged (s : State) (e : Fin 8) (n : Fin 16) : Purged e s (s.faultPurge e n) := by
  unfold State.faultPurge
  dsimp only
  exact (List.foldlRecOn _ _ ((Purged.refl e s).ephRemove _) (fun _ hu i _ => hu.ephPurged i 1 _)).ephPurged 15 1 _

/-! ### What a fault leaves -/

/-- The registers of a Gaffer that a fault writes. -/
def faultRegs (e : Fin 8) : List Nat := [R.Ge_CMD_STAT e, R.Ge_FLTMASK e, R.Ge_FAULT e, R.Ge_PARCNT e, R.Ge_EVT e]

theorem faultRegs_apart (e : Fin 8) : (faultRegs e).Nodup := by
  unfold faultRegs R.Ge_CMD_STAT R.Ge_FLTMASK R.Ge_FAULT R.Ge_PARCNT R.Ge_EVT
  simp

theorem haltDone_frame {os : List Nat} {s t : State} {e : Fin 8} (h : Frame os s t) (ho : R.Ge_CMD_STAT e ∈ os) (n : Fin 16) :
    Frame os s (t.haltDone e n) := by
  unfold State.haltDone
  split
  · exact h.rput (f := F.Ge_CMD_STAT_RES e) 0 ho
  · exact h

theorem haltDone_gaf (s : State) (e : Fin 8) (n : Fin 16) : (s.haltDone e n).gaf = s.gaf := by
  unfold State.haltDone
  split <;> rfl

theorem haltDone_reg (s : State) {e : Fin 8} (n : Fin 16) {o : Nat} (h : o ≠ R.Ge_CMD_STAT e) : (s.haltDone e n).reg o = s.reg o := by
  unfold State.haltDone
  split
  · exact reg_rput_ne _ _ h
  · rfl

/-- The thread that faults, and its engine, once it has stopped. -/
def State.stopped (s : State) (e : Fin 8) (n : Fin 16) : State :=
  (s.modThr e n (fun t => { t with state := .fault, haltReq := false })).geFree e

/-- The fault as it is noted, before its report. -/
def State.faultNoted (s : State) (e : Fin 8) (n : Fin 16) (kind : Nat) : State :=
  let s2 := ((s.stopped e n).haltDone e n).rput (F.Ge_FLTMASK_FLT e) ((s.stopped e n).rget (F.Ge_FLTMASK_FLT e) ||| 2 ^ n.val)
  let s3 := ((s2.rput (F.Ge_FAULT_PC e) (s.thr e n).pc.toNat).rput (F.Ge_FAULT_KIND e) kind).rput (F.Ge_FAULT_THR e) n
  if kind = 1 then s3.rsat (F.Ge_PARCNT_PARITY e) 1 else if kind = 2 then s3.rsat (F.Ge_PARCNT_ECC e) 1 else s3

/-- The fault as it is noted and reported. -/
def State.faultReported (s : State) (e : Fin 8) (n : Fin 16) (kind addr : Nat) : State :=
  let s4 := s.faultNoted e n kind
  (s4.evt (F.Ge_EVT_FAULT_S e)).emit 0x1C 105 s4.now flFault (word (e.val + 16 * n.val + 256 * kind + 65536 * (s.thr e n).pc.toNat))
    (word addr) 0 0

theorem thFault_eq (s : State) (e : Fin 8) (n : Fin 16) (kind addr : Nat) : s.thFault e n kind addr =
    if (s.faultReported e n kind addr).ron (F.Ge_CTRL_FLT_PURGE e) then (s.faultReported e n kind addr).faultPurge e n
    else s.faultReported e n kind addr := rfl

theorem thFault_purged (s : State) (e : Fin 8) (n : Fin 16) (kind addr : Nat) :
    Purged e (s.faultReported e n kind addr) (s.thFault e n kind addr) := by
  rw [thFault_eq]
  split
  · exact faultPurge_purged _ e n
  · exact Purged.refl e _

theorem faultNoted_gaf (s : State) (e : Fin 8) (n : Fin 16) (kind : Nat) : (s.faultNoted e n kind).gaf = (s.stopped e n).gaf := by
  have h := haltDone_gaf (s.stopped e n) e n
  unfold State.faultNoted
  dsimp only
  split_ifs <;> exact h

theorem faultReported_gaf (s : State) (e : Fin 8) (n : Fin 16) (kind addr : Nat) :
    (s.faultReported e n kind addr).gaf = (s.stopped e n).gaf :=
  ((emit_core _ _ _ _ _ _ _ _ _ (core_refl _)).gaf.trans (evt_core _ _ (core_refl _)).gaf).trans (faultNoted_gaf s e n kind)

/-- What a fault shows: the thread where it stopped, its place and kind, its bit in the mask, and the event. -/
structure FaultShown (s t : State) (e : Fin 8) (n : Fin 16) (kind : Nat) : Prop where
  state : (t.thr e n).state = .fault
  pc : (t.thr e n).pc = (s.thr e n).pc
  p : (t.thr e n).p = (s.thr e n).p
  sreg : t.gaf[e].sreg = s.gaf[e].sreg
  running : t.gaf[e].running = none
  mask : nbit (t.rget (F.Ge_FLTMASK_FLT e)) n = true
  atPc : t.rget (F.Ge_FAULT_PC e) = (s.thr e n).pc.toNat
  kind : t.rget (F.Ge_FAULT_KIND e) = kind
  thr : t.rget (F.Ge_FAULT_THR e) = n.val
  event : t.ron (F.Ge_EVT_FAULT_S e) = true

theorem faultNoted_regs (s : State) (e : Fin 8) (n : Fin 16) (kind : Nat) :
    ∀ o, o ∉ faultRegs e → (s.faultNoted e n kind).reg o = s.reg o := by
  intro o ho
  simp only [faultRegs, List.mem_cons, List.not_mem_nil, or_false, not_or] at ho
  obtain ⟨h1, h2, h3, h4, -⟩ := ho
  have hb : (((((s.stopped e n).haltDone e n).rput (F.Ge_FLTMASK_FLT e) ((s.stopped e n).rget (F.Ge_FLTMASK_FLT e) ||| 2 ^ n.val)).rput
      (F.Ge_FAULT_PC e) (s.thr e n).pc.toNat).rput (F.Ge_FAULT_KIND e) kind |>.rput (F.Ge_FAULT_THR e) n).reg o = s.reg o :=
    (reg_rput_ne _ _ h3).trans ((reg_rput_ne _ _ h3).trans ((reg_rput_ne _ _ h3).trans ((reg_rput_ne _ _ h2).trans (haltDone_reg _ n h1))))
  unfold State.faultNoted
  dsimp only
  split_ifs
  · exact (reg_rsat_ne _ _ h4).trans hb
  · exact (reg_rsat_ne _ _ h4).trans hb
  · exact hb

theorem faultPage {e : Fin 8} {o : Nat} (h : o ∈ faultRegs e) : reportReg o = false := by
  simp only [faultRegs, List.mem_cons, List.not_mem_nil, or_false, R.Ge_CMD_STAT, R.Ge_FLTMASK, R.Ge_FAULT, R.Ge_PARCNT, R.Ge_EVT] at h
  exact reportReg_of_page (by omega)

theorem rget_faultReported {s : State} {e : Fin 8} {n : Fin 16} {kind addr : Nat} {g : Fld} (h : reportReg g.reg = false) (he : g.reg ≠ R.Ge_EVT e) :
    (s.faultReported e n kind addr).rget g = (s.faultNoted e n kind).rget g :=
  (rget_emit _ _ _ _ _ _ _ _ _ h).trans (rget_evt_ne _ h he)

/-- A register outside the Gaffer's fault registers is as it was, reports apart. -/
theorem thFault_regs (s : State) (e : Fin 8) (n : Fin 16) (kind addr : Nat) :
    ∀ o, reportReg o = false → o ∉ faultRegs e → (s.thFault e n kind addr).reg o = s.reg o := by
  intro o hr ho
  have he : o ≠ R.Ge_EVT e := fun h => ho (by simp [h, faultRegs])
  exact ((thFault_purged s e n kind addr).1 o hr he).trans
    (((reg_emit _ _ _ _ _ _ _ _ _ hr).trans (reg_evt _ _ hr he)).trans (faultNoted_regs s e n kind o ho))

theorem thFault_rget {s : State} {e : Fin 8} {n : Fin 16} {kind addr : Nat} {g : Fld} (h : reportReg g.reg = false) (he : g.reg ≠ R.Ge_EVT e) :
    (s.thFault e n kind addr).rget g = (s.faultNoted e n kind).rget g :=
  (rget_of_reg ((thFault_purged s e n kind addr).1 _ h he)).trans (rget_faultReported h he)

/-- The fields of a fault: each outlives those written behind it. -/
theorem faultNoted_fields (s : State) (e : Fin 8) (n : Fin 16) {kind : Nat} (hk : kind < 16) :
    nbit ((s.faultNoted e n kind).rget (F.Ge_FLTMASK_FLT e)) n = true ∧
    (s.faultNoted e n kind).rget (F.Ge_FAULT_PC e) = (s.thr e n).pc.toNat ∧ (s.faultNoted e n kind).rget (F.Ge_FAULT_KIND e) = kind ∧
    (s.faultNoted e n kind).rget (F.Ge_FAULT_THR e) = n.val ∧
    (kind = 2 → (s.faultNoted e n kind).rget (F.Ge_PARCNT_ECC e) = min (s.rget (F.Ge_PARCNT_ECC e) + 1) (2 ^ (F.Ge_PARCNT_ECC e).width - 1)) := by
  let b := (((((s.stopped e n).haltDone e n).rput (F.Ge_FLTMASK_FLT e) ((s.stopped e n).rget (F.Ge_FLTMASK_FLT e) ||| 2 ^ n.val)).rput
      (F.Ge_FAULT_PC e) (s.thr e n).pc.toNat).rput (F.Ge_FAULT_KIND e) kind).rput (F.Ge_FAULT_THR e) n
  have hd : s.faultNoted e n kind = (if kind = 1 then b.rsat (F.Ge_PARCNT_PARITY e) 1 else if kind = 2 then b.rsat (F.Ge_PARCNT_ECC e) 1 else b) := rfl
  have hne : R.Ge_FLTMASK e ≠ R.Ge_FAULT e ∧ R.Ge_FLTMASK e ≠ R.Ge_PARCNT e ∧ R.Ge_FAULT e ≠ R.Ge_PARCNT e ∧ R.Ge_PARCNT e ≠ R.Ge_CMD_STAT e := by
    unfold R.Ge_FLTMASK R.Ge_FAULT R.Ge_PARCNT R.Ge_CMD_STAT; omega
  obtain ⟨hmf, hmp, hfp, hpc⟩ := hne
  have hb : ∀ g : Fld, g.reg ≠ R.Ge_PARCNT e → (s.faultNoted e n kind).rget g = b.rget g := fun g hg => by
    rw [hd]
    split_ifs
    · exact rget_rsat_ne _ _ hg
    · exact rget_rsat_ne _ _ hg
    · rfl
  refine ⟨?_, ?_, ?_, ?_, fun h2 => ?_⟩
  · rw [hb (F.Ge_FLTMASK_FLT e) hmp]
    have hm : b.rget (F.Ge_FLTMASK_FLT e) = ((s.stopped e n).rget (F.Ge_FLTMASK_FLT e) ||| 2 ^ n.val) % 2 ^ 16 :=
      (rget_rput_ne _ _ hmf).trans ((rget_rput_ne _ _ hmf).trans ((rget_rput_ne _ _ hmf).trans
        (rget_rput_same _ (F.Ge_FLTMASK_FLT e) _ (by decide : (0 : Nat) + 16 ≤ 32))))
    rw [hm, nbit_eq_testBit, Nat.testBit_mod_two_pow, Nat.testBit_or, Nat.testBit_two_pow_self]
    simp
  · rw [hb (F.Ge_FAULT_PC e) hfp]
    refine (rget_rput_apart (f := F.Ge_FAULT_THR e) (g := F.Ge_FAULT_PC e) _ _ (by decide : (4 : Nat) + 4 ≤ 32) rfl
      (Or.inr (by decide : (4 : Nat) + 4 ≤ 16))).trans ?_
    refine (rget_rput_apart (f := F.Ge_FAULT_KIND e) (g := F.Ge_FAULT_PC e) _ _ (by decide : (8 : Nat) + 4 ≤ 32) rfl (Or.inr (by decide : (8 : Nat) + 4 ≤ 16))).trans ?_
    exact (rget_rput_same _ (F.Ge_FAULT_PC e) _ (by decide : (16 : Nat) + 11 ≤ 32)).trans (Nat.mod_eq_of_lt (s.thr e n).pc.isLt)
  · rw [hb (F.Ge_FAULT_KIND e) hfp]
    refine (rget_rput_apart (f := F.Ge_FAULT_THR e) (g := F.Ge_FAULT_KIND e) _ _ (by decide : (4 : Nat) + 4 ≤ 32) rfl
      (Or.inr (by decide : (4 : Nat) + 4 ≤ 8))).trans ?_
    exact (rget_rput_same _ (F.Ge_FAULT_KIND e) _ (by decide : (8 : Nat) + 4 ≤ 32)).trans (Nat.mod_eq_of_lt hk)
  · rw [hb (F.Ge_FAULT_THR e) hfp]
    exact (rget_rput_same _ (F.Ge_FAULT_THR e) _ (by decide : (4 : Nat) + 4 ≤ 32)).trans (Nat.mod_eq_of_lt n.isLt)
  · rw [hd, if_neg (by omega), if_pos h2, rget_rsat_same _ _ _ (by decide : (16 : Nat) + 16 ≤ 32)]
    have hp : b.rget (F.Ge_PARCNT_ECC e) = s.rget (F.Ge_PARCNT_ECC e) :=
      (rget_rput_ne _ _ hfp.symm).trans ((rget_rput_ne _ _ hfp.symm).trans ((rget_rput_ne _ _ hfp.symm).trans ((rget_rput_ne _ _ hmp.symm).trans
        (rget_of_reg (haltDone_reg _ n hpc)))))
    rw [hp]

theorem thFault_shown (s : State) (e : Fin 8) (n : Fin 16) {kind : Nat} (hk : kind < 16) (addr : Nat) :
    FaultShown s (s.thFault e n kind addr) e n kind := by
  obtain ⟨-, hf, hrun, hs, ht⟩ := thFault_purged s e n kind addr
  have hg := faultReported_gaf s e n kind addr
  have hthr : (s.faultReported e n kind addr).thr e n = { s.thr e n with state := .fault, haltReq := false } := by
    rw [thr_of_gaf hg, State.stopped, thr_geFree, thr_modThr_same]
  have ht' := ht n (by rw [hthr]; simp)
  obtain ⟨h1, h2, h3, h4, -⟩ := faultNoted_fields s e n hk
  have hne : R.Ge_FLTMASK e ≠ R.Ge_EVT e ∧ R.Ge_FAULT e ≠ R.Ge_EVT e := by unfold R.Ge_FLTMASK R.Ge_FAULT R.Ge_EVT; omega
  have hm := thFault_rget (s := s) (n := n) (kind := kind) (addr := addr) (g := F.Ge_FLTMASK_FLT e) (faultPage (e := e) (by simp [faultRegs, F.Ge_FLTMASK_FLT])) hne.1
  have hfl := fun (g : Fld) (hr : g.reg = R.Ge_FAULT e) => thFault_rget (s := s) (n := n) (kind := kind) (addr := addr) (g := g)
    (faultPage (e := e) (by simp [faultRegs, hr])) (by rw [hr]; exact hne.2)
  refine ⟨by rw [ht', hthr], by rw [ht', hthr], by rw [ht', hthr], ?_, ?_, by rw [hm]; exact h1, (hfl (F.Ge_FAULT_PC e) rfl).trans h2,
    (hfl (F.Ge_FAULT_KIND e) rfl).trans h3, (hfl (F.Ge_FAULT_THR e) rfl).trans h4, hf ?_⟩
  · rw [hs, hg]; simp [State.stopped, State.geFree, State.modThr]
  · rw [hrun, hg]; exact running_geFree _ _
  · exact (ron_of_reg (reg_emit _ _ _ _ _ _ _ _ _ (geEvt_page e))).trans (ron_evt _ _ rfl (by decide : (0 : Nat) + 1 ≤ 32) (geEvt_page e))

end Sys2Proof.Machine
end

section
/-!
SUPPORT. How a microword issues (R106, R107, R124).
-/
set_option Elab.async false
namespace Sys2Proof.Machine
open Sys2Proof

theorem eccRead_ok (s : State) (ofs words : Nat) : s.eccRead .ok ofs words = s := rfl

/-- A load without an error issues as any other microword. -/
theorem issueLoad_ok (s : State) (e : Fin 8) (wide : Bool) :
    s.issueLoad e wide .ok = s.issue e (isPort 3 (b2n wide)) := by
  unfold State.issueLoad
  dsimp only
  split <;> rfl

theorem issue_idle {s : State} {e : Fin 8} (h : s.gaf[e].running = none) (named : BitVec 144 → Bool) : s.issue e named = s := by
  simp only [State.issue, h]

theorem issue_faults {s : State} {e : Fin 8} {n : Fin 16} {k : Nat} (h : s.gaf[e].running = some n) (hf : s.mwFault e n = some k)
    (named : BitVec 144 → Bool) : s.issue e named = s.thFault e n k 0 := by simp only [State.issue, h, hf]

theorem issue_runs {s : State} {e : Fin 8} {n : Fin 16} (h : microReady s e n) (named : BitVec 144 → Bool) :
    s.issue e named = if named (wordAt s e n) then s.mwRun e n (wordAt s e n) else s := by
  obtain ⟨-, hr, -, hf⟩ := h
  unfold State.issue
  rw [hr]
  dsimp only
  rw [hf]
  rfl

theorem mwFault_lt {s : State} {e : Fin 8} {n : Fin 16} {k : Nat} (h : s.mwFault e n = some k) : k < 16 := by
  unfold State.mwFault at h
  dsimp only at h
  split_ifs at h <;> cases h <;> decide

theorem dispatch_busy {s : State} {e : Fin 8} (h : s.gaf[e].running ≠ none) : s.dispatch e = s := if_neg fun hc => h hc.2

/-- A retry of the running thread issues its microword where the thread is on SPACE. -/
theorem spaceRetry_runs {s : State} {e : Fin 8} {n : Fin 16} (h : microReady s e n) (hs : onSpace (s.thr e n)) :
    s.spaceRetry e n = s.mwRun e n (wordAt s e n) := by
  obtain ⟨of, hof⟩ := hs
  have hr := h.2.1
  unfold State.spaceRetry
  rw [dispatch_busy (by rw [hr]; exact Option.some_ne_none n)]
  simp only [hof, hr, and_self, if_true, issue_runs h]

theorem spaceRetry_idle {s : State} {e : Fin 8} {n : Fin 16} (h : s.gaf[e].running ≠ none) (hs : ¬ onSpace (s.thr e n)) : s.spaceRetry e n = s := by
  unfold State.spaceRetry
  rw [dispatch_busy h]
  cases hp : (s.thr e n).park with
  | space of => exact absurd ⟨of, hp⟩ hs
  | none => simp [hp]
  | wait => simp [hp]

/-! ### The rows -/

theorem exec_arithRow (e : Fin 8) (s : State) : ∀ x ∈ arithRows e, exec x.1 s = s.event (fun s => s.issue e (isAop x.2)) := by
  simp only [arithRows, List.forall_mem_cons, List.not_mem_nil, false_implies, implies_true, and_true]
  refine ⟨?_, ?_, ?_, ?_, ?_, ?_, ?_, ?_, ?_, ?_, ?_, ?_, ?_, ?_, ?_, ?_, ?_⟩ <;> rfl

theorem exec_seqRow (e : Fin 8) (s : State) : ∀ x ∈ seqRows e, exec x.1 s = s.event (fun s => s.issue e (isSop x.2)) := by
  simp only [seqRows, List.forall_mem_cons, List.not_mem_nil, false_implies, implies_true, and_true]
  refine ⟨?_, ?_, ?_, ?_, ?_, ?_, ?_, ?_⟩ <;> rfl

theorem exec_load (e : Fin 8) (wide : Bool) (ecc : Ecc) (s : State) :
    exec (loadRow e wide ecc) s = s.event (fun s => s.issueLoad e wide ecc) := by cases wide <;> rfl

theorem exec_portRow (e : Fin 8) (s : State) : ∀ x ∈ portRows e, exec x.1 s = s.event (fun s => s.issue e (isPort x.2.1 x.2.2)) := by
  have h32 := (exec_load e false .ok s).trans (congrArg s.event (funext fun u => issueLoad_ok u e false))
  have h40 := (exec_load e true .ok s).trans (congrArg s.event (funext fun u => issueLoad_ok u e true))
  simp only [portRows, List.forall_mem_cons, List.not_mem_nil, false_implies, implies_true, and_true]
  refine ⟨?_, ?_, ?_, ?_, ?_, ?_, ?_, ?_, ?_, ?_, ?_, h32, h40, ?_, ?_, ?_, ?_, ?_, ?_, ?_, ?_, ?_⟩ <;> rfl

/-- Every microword row issues by the predicate that it names. -/
theorem exec_microRow (e : Fin 8) (s : State) : ∀ row ∈ microRows e, exec row.1 s = s.event (fun s => s.issue e row.2) := by
  simp only [microRows, List.forall_mem_append, List.forall_mem_map]
  refine ⟨⟨⟨exec_arithRow e s, exec_seqRow e s⟩, exec_portRow e s⟩, ?_⟩
  simp only [List.forall_mem_cons, List.not_mem_nil, false_implies, implies_true, and_true]
  rfl

/-- The row of a microword that is the running thread's runs it. -/
theorem exec_row_runs {s : State} {e : Fin 8} {n : Fin 16} (h : microReady s e n) {i : Instr} {named : BitVec 144 → Bool}
    (hx : exec i s = s.event (fun s => s.issue e named)) (hn : named (wordAt s e n) = true) :
    exec i s = .next (s.mwRun e n (wordAt s e n)) := by
  rw [hx, event_open h.1, issue_runs h, if_pos hn]

end Sys2Proof.Machine
end

section
set_option Elab.async false
namespace Sys2Proof
open Sys2Proof.Machine

/-- Settles O22: each row issues by its own predicate, and a fault is shown whatever the microword. -/
theorem microwordsIssueOrFault : Obligations.MicrowordsIssueOrFault := by
  intro e s row hrow he
  have hx : exec row.1 s = .next (s.issue e row.2) := (exec_microRow e s row hrow).trans (event_open he _)
  have hfar := issue_far s e row.2 (far_refl s)
  refine ⟨⟨_, hx, hfar⟩, fun hr => by rw [hx, issue_idle hr], fun n h => ⟨by rw [hx, issue_runs h], fun hs => ?_, fun hs => ?_⟩,
    fun n k hr hf => ⟨_, hx, ?_⟩⟩
  · exact (event_open he (fun s => s.spaceRetry e n)).trans (congrArg _ (spaceRetry_runs h hs))
  · exact (event_open he (fun s => s.spaceRetry e n)).trans (congrArg _ (spaceRetry_idle (by rw [h.2.1]; exact Option.some_ne_none n) hs))
  · have hi := issue_faults hr hf row.2
    rw [hi] at hfar ⊢
    obtain ⟨h1, h2, -, -, h5, h6, h7, h8, h9, h10⟩ := thFault_shown s e n (mwFault_lt hf) 0
    exact ⟨h1, h2, h5, h6, h7, h8, h9, h10, hfar⟩

end Sys2Proof
end

section
/-!
SUPPORT. The parts of a microword's execution (R122, R124, R129): result, flags, counts and sequencer.
-/
set_option Elab.async false
namespace Sys2Proof.Machine
open Sys2Proof

theorem modGaf_congr (s : State) (e : Fin 8) {f g : Gaffer → Gaffer} (h : f s.gaf[e] = g s.gaf[e]) : s.modGaf e f = s.modGaf e g := by
  unfold State.modGaf
  rw [h]

/-! ### Writing a result -/

/-- A specifier as a write leaves its thread. -/
def Thread.wrSpec (x v : Nat) (t : Thread) : Thread :=
  { t with p := t.p.setIfInBounds x (BitVec.ofNat 40 v), flags := if x = 0x12 then BitVec.ofNat 5 v else t.flags }

/-- A specifier as a write leaves its Gaffer. -/
def Gaffer.wrSpec (n : Fin 16) (x v : Nat) (g : Gaffer) : Gaffer :=
  { g with
    sreg := if 0x40 ≤ x then g.sreg.setIfInBounds (x - 0x40) (BitVec.ofNat 40 v) else g.sreg
    thr := g.thr.set n (g.thr[n].wrSpec x v) }

theorem setIfInBounds_of_lt {α : Type} {k : Nat} (xs : Vector α k) {i : Nat} (h : i < k) (y : α) : xs.setIfInBounds i y = xs.set i y h := by
  ext j hj
  simp only [Vector.getElem_setIfInBounds, Vector.getElem_set]

theorem setIfInBounds_of_le {α : Type} {k : Nat} (xs : Vector α k) {i : Nat} (h : k ≤ i) (y : α) : xs.setIfInBounds i y = xs := by
  ext j hj
  rw [Vector.getElem_setIfInBounds, if_neg (by omega)]

theorem Thread.wrSpec_other {x : Nat} (h8 : ¬ x < 8) (h12 : x ≠ 0x12) (v : Nat) (t : Thread) : t.wrSpec x v = t := by
  simp only [Thread.wrSpec, setIfInBounds_of_le _ (Nat.not_lt.1 h8), if_neg h12]

theorem Gaffer.wrSpec_other {n : Fin 16} {x : Nat} (h8 : ¬ x < 8) (h12 : x ≠ 0x12) (v : Nat) (g : Gaffer) :
    g.wrSpec n x v = { g with sreg := if 0x40 ≤ x then g.sreg.setIfInBounds (x - 0x40) (BitVec.ofNat 40 v) else g.sreg } := by
  simp only [Gaffer.wrSpec, Thread.wrSpec_other h8 h12, Fin.getElem_fin, Vector.set_getElem_self]

theorem wrSpec_eq (s : State) (e : Fin 8) (n : Fin 16) {x : Nat} (hx : x < 128) (v : Nat) :
    s.wrSpec e n x v = s.modGaf e (Gaffer.wrSpec n x v) := by
  unfold State.wrSpec
  split_ifs with h8 h12 h40
  · refine modGaf_congr _ _ ?_
    simp [Gaffer.wrSpec, Thread.wrSpec, setIfInBounds_of_lt _ h8, show ¬ 64 ≤ x by omega, show x ≠ 18 by omega]
  · refine modGaf_congr _ _ ?_
    simp [Gaffer.wrSpec, Thread.wrSpec, h12, setIfInBounds_of_le]
  · refine modGaf_congr _ _ ?_
    have hlt : x - 64 < 64 := by omega
    rw [Gaffer.wrSpec_other h8 h12, if_pos h40.1, setIfInBounds_of_lt _ hlt]
  · refine (modGaf_self _ _ ?_).symm
    rw [Gaffer.wrSpec_other h8 h12, if_neg (by omega)]

theorem mwAdst_lt (w : BitVec 144) : mwAdst w < 128 := Nat.mod_lt _ (by decide)

/-! ### The sequencer's common step -/

/-- A microword without a safe point goes on at a PC. -/
theorem sequence_next {s : State} {e : Fin 8} {n : Fin 16} {w : BitVec 144} (hs : mwSafe w = false)
    (h : (s.thr e n).cond w = false ∨ mwSop w = 0) : s.sequence e n w = s.modThr e n (fun t => { t with pc := t.pc + 1 }) := by
  have hgo : s.modThr e n (fun t => { t with pc := (s.thr e n).pc + 1 }) = s.modThr e n (fun t => { t with pc := t.pc + 1 }) :=
    modThr_congr _ _ _ rfl
  unfold State.sequence
  simp only [hs, Bool.false_eq_true, if_false]
  split
  · exact hgo
  case isFalse hc =>
    obtain h | h := h
    · exact absurd h (by simpa using hc)
    · rw [h]; exact hgo

/-! ### Execution -/

/-- A microword has been counted: towards NOSAFE, and towards the quantum. -/
def Thread.counted (t : Thread) : Thread := { t with run := t.run + 1, quantum := t.quantum + 1 }

/-- What the operations of a microword write: the arithmetic result, the port's results, the flags, the counts. -/
def State.mwWritten (s : State) (e : Fin 8) (n : Fin 16) (w : BitVec 144) (r : AluRes) (res : List (Nat × Nat)) (ov : Option Bool) : State :=
  let s2 := match r.val with | some v => s.wrSpec e n (mwAdst w) v | none => s
  let s3 := s2.wrPort e n res
  let s4 :=
    if (r.val.isSome && mwAdst w = 0x12) || res.any (fun x => x.1 = 0x12) then s3
    else
      let s4 := match r.flags with
        | some f => s3.modThr e n (fun t => { t with flags := BitVec.ofNat 5 (f.toNat + t.flags.toNat / 16 * 16) })
        | none => s3
      match ov with
      | some o => s4.modThr e n (fun t => { t with flags := BitVec.ofNat 5 (t.flags.toNat % 16 + 16 * b2n o) })
      | none => s4
  s4.modThr e n Thread.counted

/-- A microword whose port operation does not park, of a thread that is not in a retry. -/
theorem mwRun_eq {s : State} {e : Fin 8} {n : Fin 16} {w : BitVec 144} (hp : (s.portOp e n w).parks = none) (hs : ¬ onSpace (s.thr e n)) :
    s.mwRun e n w = ((s.portOp e n w).st.mwWritten e n w (alu (mwAop w) (s.rdSpec e n w (mwAsra w)) (s.rdSpec e n w (mwAsrb w)))
      (s.portOp e n w).res (s.portOp e n w).ov).sequence e n w := by
  have hk : ∀ of, (s.thr e n).park ≠ .space of := fun of h => hs ⟨of, h⟩
  unfold State.mwRun
  dsimp only
  rw [hp]
  cases h : (s.thr e n).park with
  | space of => exact absurd h (hk of)
  | none => rfl
  | wait => rfl

/-- A microword whose port operation parks its thread. -/
theorem mwRun_parks {s : State} {e : Fin 8} {n : Fin 16} {w : BitVec 144} {of : SpaceOf} (hp : (s.portOp e n w).parks = some of) :
    s.mwRun e n w = (((s.portOp e n w).st.modThr e n (fun t => { t with pend := t.pend &&& ~~~(BitVec.ofNat 16 1024) })).parkThread e n
      (.space of)) := by
  unfold State.mwRun
  dsimp only
  rw [hp]

theorem portOp_none {s : State} {e : Fin 8} {n : Fin 16} {w : BitVec 144} (h : mwPsel w = 0) : s.portOp e n w = portDone s [] := by
  simp only [State.portOp, h]

/-- An arithmetic result as its Gaffer takes it, with the counts. -/
def Gaffer.arith (n : Fin 16) (w : BitVec 144) (r : AluRes) (g : Gaffer) : Gaffer :=
  { g with
    sreg := (match r.val with
      | some v => if 0x40 ≤ mwAdst w then g.sreg.setIfInBounds (mwAdst w - 0x40) (BitVec.ofNat 40 v) else g.sreg
      | none => g.sreg)
    thr := g.thr.set n { g.thr[n] with
      run := g.thr[n].run + 1, quantum := g.thr[n].quantum + 1
      p := (match r.val with | some v => g.thr[n].p.setIfInBounds (mwAdst w) (BitVec.ofNat 40 v) | none => g.thr[n].p)
      flags := (match r.val, r.flags with
        | some v, some f => if mwAdst w = 0x12 then BitVec.ofNat 5 v else BitVec.ofNat 5 (f.toNat + g.thr[n].flags.toNat / 16 * 16)
        | none, some f => BitVec.ofNat 5 (f.toNat + g.thr[n].flags.toNat / 16 * 16)
        | _, none => g.thr[n].flags) } }

/-- An arithmetic operation that writes a result sets flags too. -/
theorem alu_flags (op a b : Nat) (h : (alu op a b).val.isSome = true) : (alu op a b).flags.isSome = true := by
  unfold alu at h ⊢
  dsimp only at h ⊢
  split at h <;> first | rfl | simp_all

theorem mwWritten_arith (s : State) (e : Fin 8) (n : Fin 16) (w : BitVec 144) {r : AluRes} (hr : r.val.isSome = true → r.flags.isSome = true) :
    s.mwWritten e n w r [] none = s.modGaf e (Gaffer.arith n w r) := by
  obtain ⟨val, flags⟩ := r
  have hd := mwAdst_lt w
  cases val with
  | none =>
    cases flags with
    | none => rfl
    | some f =>
      exact modThr_modThr s e n (fun t => { t with flags := BitVec.ofNat 5 (f.toNat + t.flags.toNat / 16 * 16) }) Thread.counted
  | some v =>
    obtain ⟨f, rfl⟩ : ∃ f, flags = some f := Option.isSome_iff_exists.1 (hr rfl)
    have hw : (s.wrSpec e n (mwAdst w) v).wrPort e n [] = s.modGaf e (Gaffer.wrSpec n (mwAdst w) v) := wrSpec_eq s e n hd v
    by_cases h12 : mwAdst w = 0x12
    · have : s.mwWritten e n w ⟨some v, some f⟩ [] none = (s.modGaf e (Gaffer.wrSpec n (mwAdst w) v)).modThr e n Thread.counted := by
        rw [← hw, State.mwWritten]; simp [h12]
      rw [this, State.modThr, modGaf_modGaf]
      refine modGaf_congr _ _ ?_
      simp [Gaffer.wrSpec, Gaffer.arith, Thread.wrSpec, Thread.counted, h12]
    · have : s.mwWritten e n w ⟨some v, some f⟩ [] none = ((s.modGaf e (Gaffer.wrSpec n (mwAdst w) v)).modThr e n
          (fun t => { t with flags := BitVec.ofNat 5 (f.toNat + t.flags.toNat / 16 * 16) })).modThr e n Thread.counted := by
        rw [← hw, State.mwWritten]; simp [h12]
      rw [this, modThr_modThr, State.modThr, modGaf_modGaf]
      refine modGaf_congr _ _ ?_
      simp [Gaffer.wrSpec, Gaffer.arith, Thread.wrSpec, Thread.counted, h12]

end Sys2Proof.Machine
end

section
set_option Elab.async false
namespace Sys2Proof
open Sys2Proof.Machine

/-- Settles O24: the result goes where ADST says, and the sequencer to the next word. -/
theorem arithmeticRowsRun : Obligations.ArithmeticRowsRun := by
  intro e n s row hrow hm hs w x r hop hsop hsafe hpsel
  have hx : exec row.1 s = .next (s.mwRun e n w) := exec_row_runs hm (exec_arithRow e s row hrow) (by simpa [isAop] using hop)
  have hp : s.portOp e n w = portDone s [] := portOp_none hpsel
  have hrun : s.mwRun e n w = (s.mwWritten e n w r [] none).sequence e n w := by
    rw [mwRun_eq (by rw [hp]; rfl) hs, hp, hop]
    rfl
  have ht : s.mwRun e n w = (s.modGaf e (Gaffer.arith n w r)).modThr e n (fun t => { t with pc := t.pc + 1 }) := by
    rw [hrun, mwWritten_arith s e n w (alu_flags _ _ _), sequence_next hsafe (Or.inr hsop)]
  refine ⟨_, hx, ?_⟩
  rw [ht, State.modThr, modGaf_modGaf]
  refine ⟨fun _ => rfl, sameBlocks_refl _, congrArg State.gaf (modGaf_congr s e ?_)⟩
  simp only [Gaffer.arith, Fin.getElem_fin, Vector.getElem_set_self, Vector.set_set]
  rfl

end Sys2Proof
end

section
/-!
SUPPORT. The sequencer and the safe points (R105, R129 to R133).
-/
set_option Elab.async false
namespace Sys2Proof.Machine
open Sys2Proof

/-- The counts do not enter a condition. -/
theorem cond_counted (t : Thread) (w : BitVec 144) : t.counted.cond w = t.cond w := rfl

/-- A row of a microword with neither an arithmetic nor a port operation hands over to the sequencer. -/
theorem exec_sequences {s : State} {e : Fin 8} {n : Fin 16} (h : microReady s e n) (hs : ¬ onSpace (s.thr e n)) {i : Instr}
    {named : BitVec 144 → Bool} (hx : exec i s = s.event (fun s => s.issue e named)) (hn : named (wordAt s e n) = true)
    (ha : mwAop (wordAt s e n) = 0) (hp : mwPsel (wordAt s e n) = 0) :
    exec i s = .next ((s.modThr e n Thread.counted).sequence e n (wordAt s e n)) := by
  have hport : s.portOp e n (wordAt s e n) = portDone s [] := portOp_none hp
  rw [exec_row_runs h hx hn, mwRun_eq (by rw [hport]; rfl) hs, hport, ha]
  rfl

theorem onlyThread_modThr (s : State) (e : Fin 8) (n : Fin 16) (f : Thread → Thread) : onlyThread s (s.modThr e n f) e n :=
  Frame.onlyThread_modThr (Frame.refl [] _)

/-- The thread without its place. -/
theorem modThr_blocks (s : State) (e : Fin 8) (n : Fin 16) (f : Thread → Thread) :
    State.sameBlocks { s with gaf := (s.modThr e n f).gaf } (s.modThr e n f) := sameBlocks_refl _

section
variable {s : State} {e : Fin 8} {n : Fin 16} {w : BitVec 144} (hs : mwSafe w = false) (hc : (s.thr e n).cond w = true)
include hs hc

theorem sequence_jump (h : mwSop w = 1) : s.sequence e n w = s.modThr e n (fun t => { t with pc := BitVec.ofNat 11 (mwAddr w) }) := by
  simp only [State.sequence, hs, hc, h, not_true_eq_false, if_false, Bool.false_eq_true]

theorem sequence_call (h : mwSop w = 2) : s.sequence e n w = s.modThr e n (fun t =>
    { t with pc := BitVec.ofNat 11 (mwAddr w), ret := (((s.thr e n).pc + 1) :: t.ret).take 4 }) := by
  simp only [State.sequence, hs, hc, h, not_true_eq_false, if_false, Bool.false_eq_true, modThr_modThr]

theorem sequence_ret (h : mwSop w = 3) {a : BitVec 11} {as : List (BitVec 11)} (hr : (s.thr e n).ret = a :: as) :
    s.sequence e n w = s.modThr e n (fun t => { t with pc := a, ret := t.ret.drop 1 }) := by
  simp only [State.sequence, hs, hc, h, hr, not_true_eq_false, if_false, Bool.false_eq_true, modThr_modThr, List.headD_cons]

theorem sequence_disp (h : mwSop w = 6) : s.sequence e n w = s.modThr e n (fun t =>
    { t with pc := BitVec.ofNat 11 (mwAddr w) + BitVec.ofNat 11 (dispIndex (s.thr e n).wres.toNat) }) := by
  simp only [State.sequence, hs, hc, h, not_true_eq_false, if_false, Bool.false_eq_true]

theorem sequence_wait_taken (h : mwSop w = 4) (hp : (s.thr e n).pend &&& BitVec.ofNat 16 (mwImm w) ≠ 0) :
    s.sequence e n w = s.modThr e n (fun t => { t with
      mask := BitVec.ofNat 16 (mwImm w), wres := t.pend &&& BitVec.ofNat 16 (mwImm w), pend := t.pend &&& ~~~(BitVec.ofNat 16 (mwImm w))
      run := 0, cls := s.thClass e n, pc := (s.thr e n).pc + 1 }) := by
  simp only [State.sequence, hs, hc, h, hp, ne_eq, not_true_eq_false, not_false_eq_true, if_true, if_false, Bool.false_eq_true, modThr_modThr]

omit hs in
theorem sequence_wait_parks (h : mwSop w = 4) (hp : (s.thr e n).pend &&& BitVec.ofNat 16 (mwImm w) = 0) :
    s.sequence e n w = (s.modThr e n (fun t => { t with mask := BitVec.ofNat 16 (mwImm w) })).parkThread e n .wait := by
  simp only [State.sequence, hc, h, hp, ne_eq, not_true_eq_false, if_false]

omit hs in
theorem sequence_end (h : mwSop w = 5) : s.sequence e n w =
    ((s.modThr e n (fun t => { t with state := .idle, pc := (s.thr e n).pc + 1, haltReq := false })).geFree e).haltDone e n := by
  simp only [State.sequence, hc, h, not_true_eq_false, if_false]

end

/-- A thread parks: the engine is free, and the class in force is taken over. -/
theorem parkThread_parks {s : State} {e : Fin 8} {n : Fin 16} (h : (s.thr e n).haltReq = false) (why : Park) :
    s.parkThread e n why = (s.modThr e n (fun t =>
      { t with state := .parked, park := why, run := 0, cls := s.thClass e n, wokenAt := none })).geFree e := by
  simp only [State.parkThread, h, Bool.false_eq_true, if_false]

theorem geFree_blocks {s t : State} (h : State.sameBlocks { s with gaf := t.gaf } t) (e : Fin 8) :
    State.sameBlocks { s with gaf := (t.geFree e).gaf } (t.geFree e) := by
  obtain ⟨hf, hch, hg, hrest⟩ := h
  exact ⟨hf, hch, rfl, hrest⟩

/-! ### Safe points -/

/-- At a preemption point the running thread gives way and keeps its place, goes behind its class, or goes on. -/
theorem preemptPoint_cases {s : State} {e : Fin 8} {n : Fin 16} (h : (s.thr e n).haltReq = false) :
    let u := s.modThr e n (fun t => { t with run := 0, cls := s.thClass e n })
    s.preemptPoint e n =
      if s.dispatchOn e = false ∨ u.readyClass e n (fun k => decide (k < s.thClass e n)) = true then
        (u.modThr e n (fun t => { t with atSafe := true, keep := true }.toReady s.now)).geFree e
      else if s.rget (F.Ge_CTRL_QUANTUM e) ≠ 0 ∧ 8 * s.rget (F.Ge_CTRL_QUANTUM e) ≤ (s.thr e n).quantum ∧
          u.readyClass e n (fun k => decide (k = s.thClass e n)) = true then
        (u.modThr e n (fun t => { t with atSafe := true }.toReady s.now)).geFree e
      else u := by
  intro u
  have hu : u.thr e n = { s.thr e n with run := 0, cls := s.thClass e n } := thr_modThr_same _ _ _ _
  unfold State.preemptPoint
  dsimp only
  rw [show (s.modThr e n (fun t => { t with run := 0, cls := s.thClass e n })) = u from rfl, hu]
  simp only [h, Bool.false_eq_true, if_false, Bool.not_eq_true]
  rfl

theorem readyClass_iff (s : State) (e : Fin 8) (n : Fin 16) (p : Nat → Bool) :
    s.readyClass e n p = true ↔ ∃ k : Fin 16, k ≠ n ∧ (s.thr e k).state = .ready ∧ p (s.thr e k).cls = true := by
  simp [State.readyClass, and_assoc]

theorem readyClass_modThr (s : State) (e : Fin 8) (n : Fin 16) (f : Thread → Thread) (p : Nat → Bool) :
    (s.modThr e n f).readyClass e n p = s.readyClass e n p := by
  rw [Bool.eq_iff_iff, readyClass_iff, readyClass_iff]
  refine exists_congr fun k => and_congr_right fun hk => ?_
  rw [thr_modThr_ne _ _ _ hk]

/-! ### YIELD -/

/-- A thread that has yielded: READY, behind its class. -/
def State.yielded (s : State) (e : Fin 8) (n : Fin 16) : State :=
  let s2 := s.preemptPoint e n
  if (s2.thr e n).state = .run then (s2.modThr e n (fun t => t.toReady s2.now)).geFree e
  else s2.modThr e n (fun t => { t with keep := false })

theorem sequence_yield {s : State} {e : Fin 8} {n : Fin 16} {w : BitVec 144} (hc : (s.thr e n).cond w = true) (h : mwSop w = 7) :
    s.sequence e n w = (s.modThr e n (fun t => { t with pc := t.pc + 1 })).yielded e n := by
  have hpc : s.modThr e n (fun t => { t with pc := (s.thr e n).pc + 1 }) = s.modThr e n (fun t => { t with pc := t.pc + 1 }) :=
    modThr_congr _ _ _ rfl
  rw [← hpc]
  simp only [State.sequence, hc, h, not_true_eq_false, if_false]
  rfl

/-- A microword with a safe point goes on, and the preemption point follows. -/
theorem sequence_safe {s : State} {e : Fin 8} {n : Fin 16} {w : BitVec 144} (hs : mwSafe w = true) (h : mwSop w = 0) :
    s.sequence e n w = (s.modThr e n (fun t => { t with pc := t.pc + 1 })).preemptPoint e n := by
  have hpc : s.modThr e n (fun t => { t with pc := (s.thr e n).pc + 1 }) = s.modThr e n (fun t => { t with pc := t.pc + 1 }) :=
    modThr_congr _ _ _ rfl
  rw [← hpc]
  simp only [State.sequence, hs, h, if_true, ite_self]

theorem yielded_leaves {s : State} {e : Fin 8} {n : Fin 16} (hh : (s.thr e n).haltReq = false) (hrun : (s.thr e n).state = .run) :
    let t := s.yielded e n
    t.gaf[e].running = none ∧ (t.thr e n).state = .ready ∧ (t.thr e n).pc = (s.thr e n).pc ∧ (t.thr e n).p = (s.thr e n).p ∧
      (∀ o, t.reg o = s.reg o) ∧ State.sameBlocks { s with gaf := t.gaf } t := by
  have leaves : ∀ t : State, ∀ f : Thread → Thread, t = (s.modThr e n f).geFree e → (f (s.thr e n)).state = .ready →
      (f (s.thr e n)).pc = (s.thr e n).pc → (f (s.thr e n)).p = (s.thr e n).p →
      t.gaf[e].running = none ∧ (t.thr e n).state = .ready ∧ (t.thr e n).pc = (s.thr e n).pc ∧ (t.thr e n).p = (s.thr e n).p ∧
        (∀ o, t.reg o = s.reg o) ∧ State.sameBlocks { s with gaf := t.gaf } t := by
    intro t f ht h1 h2 h3
    subst ht
    refine ⟨running_geFree _ _, ?_, ?_, ?_, fun _ => rfl, geFree_blocks (modThr_blocks s e n _) e⟩ <;> rw [thr_geFree, thr_modThr_same]
    exacts [h1, h2, h3]
  have free : ∀ f g : Thread → Thread, (((s.modThr e n f).modThr e n g).geFree e).modThr e n (fun t => { t with keep := false }) =
      (s.modThr e n (fun t => { g (f t) with keep := false })).geFree e := fun f g => by
    rw [← modThr_geFree_comm, modThr_modThr, modThr_modThr]
  unfold State.yielded
  dsimp only
  rw [preemptPoint_cases hh]
  split_ifs with h1 h2 h3 h4 h5
  · rw [thr_geFree, thr_modThr_same] at h2; exact absurd h2 (by simp [Thread.toReady])
  · exact leaves _ _ (free _ _) rfl rfl rfl
  · rw [thr_geFree, thr_modThr_same] at h4; exact absurd h4 (by simp [Thread.toReady])
  · exact leaves _ _ (free _ _) rfl rfl rfl
  · exact leaves _ _ (congrArg (fun u : State => u.geFree e) (modThr_modThr _ _ _ _ _)) rfl rfl rfl
  · rw [thr_modThr_same] at h5; exact absurd hrun h5

end Sys2Proof.Machine
end

section
set_option Elab.async false
namespace Sys2Proof
open Sys2Proof.Machine

theorem sequencerRows_holds : sequencerRows := by
  intro e n s hm hsp hh w x y m ha hp hsafe
  have hx : ∀ row ∈ seqRows e, mwSop w = row.2 → exec row.1 s = .next ((s.modThr e n Thread.counted).sequence e n w) := fun row hr hs =>
    exec_sequences hm hsp (exec_seqRow e s row hr) (by simpa [isSop] using hs) ha hp
  have hy : (s.modThr e n Thread.counted).thr e n = y := thr_modThr_same _ _ _ _
  have done : ∀ f : Thread → Thread, ((s.modThr e n Thread.counted).modThr e n f).thr e n = f y ∧
      onlyThread s ((s.modThr e n Thread.counted).modThr e n f) e n := fun f =>
    ⟨by rw [thr_modThr_same, hy], by rw [modThr_modThr]; exact onlyThread_modThr s e n _⟩
  have hcond : x.cond w = true → ((s.modThr e n Thread.counted).thr e n).cond w = true := fun h => by rw [hy]; exact h
  have mem : ∀ i k, (i, k) ∈ seqRows e → mwSop w = k → exec i s = .next ((s.modThr e n Thread.counted).sequence e n w) := fun i k h => hx (i, k) h
  refine ⟨fun row hr hs hc => ⟨_, hx row hr hs, ?_⟩, fun hs => ⟨_, mem _ _ (by simp [seqRows]) hs, ?_⟩, fun hs hc => ⟨_, mem _ _ (by simp [seqRows]) hs, ?_⟩,
    fun hs hc => ⟨_, mem _ _ (by simp [seqRows]) hs, ?_⟩, fun a as hs hc hr => ⟨_, mem _ _ (by simp [seqRows]) hs, ?_⟩,
    fun hs hc => ⟨_, mem _ _ (by simp [seqRows]) hs, ?_⟩, fun hs hc => ⟨_, mem _ _ (by simp [seqRows]) hs, ?_⟩,
    fun hs hc => ⟨_, mem _ _ (by simp [seqRows]) hs, ?_⟩, fun hs hc => ⟨_, mem _ _ (by simp [seqRows]) hs, ?_⟩⟩
  · rw [sequence_next hsafe (Or.inl (by rw [hy]; exact hc))]
    exact done _
  · rw [sequence_next hsafe (Or.inr hs)]
    exact done _
  · rw [sequence_jump hsafe (hcond hc) hs]
    exact done _
  · rw [sequence_call hsafe (hcond hc) hs, hy]
    exact done _
  · rw [sequence_ret hsafe (hcond hc) hs (by rw [hy]; exact hr)]
    refine ⟨(done _).1.trans ?_, (done _).2⟩
    simp only [y, hr, List.drop_one, List.tail_cons]
  · refine ⟨fun hpend => ?_, fun hpend => ?_⟩
    · rw [sequence_wait_taken hsafe (hcond hc) hs (by rw [hy]; exact hpend), hy]
      exact (done _).symm
    · rw [sequence_wait_parks (hcond hc) hs (by rw [hy]; exact hpend), parkThread_parks (by rw [thr_modThr_same, hy]; exact hh), modThr_modThr,
        modThr_modThr]
      exact ⟨running_geFree _ _, by rw [thr_geFree, thr_modThr_same]; rfl, geFree_blocks (modThr_blocks s e n _) e⟩
  · have hf : ∀ f : Thread → Thread, Frame [R.Ge_CMD_STAT e] { s with gaf := ((s.modThr e n f).geFree e).gaf }
        (((s.modThr e n f).geFree e).haltDone e n) := fun f =>
      haltDone_frame ⟨fun _ _ _ => rfl, geFree_blocks (modThr_blocks s e n f) e⟩ (by simp) n
    rw [sequence_end (hcond hc) hs, modThr_modThr, hy]
    refine ⟨?_, ?_, (hf _).regs, Frame.onGaf (os := [R.Ge_CMD_STAT e]) (hf _)⟩
    · rw [haltDone_gaf]; exact running_geFree _ _
    · rw [thr_of_gaf (haltDone_gaf _ _ _), thr_geFree, thr_modThr_same]
      simp only [y, Thread.counted, x, hh]
  · rw [sequence_disp hsafe (hcond hc) hs, hy]
    exact (done _).symm
  · rw [sequence_yield (hcond hc) hs, modThr_modThr]
    have h1 : ((s.modThr e n (fun t => { t.counted with pc := t.counted.pc + 1 })).thr e n) = { y with pc := x.pc + 1 } := thr_modThr_same _ _ _ _
    obtain ⟨h2, h3, h4, h5, h6, h7⟩ := yielded_leaves (s := s.modThr e n (fun t => { t.counted with pc := t.counted.pc + 1 })) (e := e) (n := n)
      (by rw [h1]; exact hh) (by rw [h1]; exact hm.2.2.1)
    exact ⟨h2, h3, h4.trans (by rw [h1]), h5.trans (by rw [h1]), h6, h7⟩

theorem safePointsPreempt_holds : safePointsPreempt := by
  intro e n s hm hsp hh w x q urgent spent ha hp hsop hsafe
  have hx : exec (.mwNext e) s = .next ((s.modThr e n Thread.counted).sequence e n w) :=
    exec_sequences hm hsp (exec_seqRow e s (.mwNext e, 0) (by simp [seqRows])) (by simpa [isSop] using hsop) ha hp
  let u := s.modThr e n (fun t => { t.counted with pc := t.counted.pc + 1 })
  have hu : u.thr e n = { x with run := x.run + 1, quantum := x.quantum + 1, pc := x.pc + 1 } := thr_modThr_same _ _ _ _
  have hseq : (s.modThr e n Thread.counted).sequence e n w = u.preemptPoint e n := by
    rw [sequence_safe hsafe hsop, modThr_modThr]
  have hready : ∀ p : Nat → Bool, (u.modThr e n (fun t => { t with run := 0, cls := u.thClass e n })).readyClass e n p = true ↔
      ∃ k : Fin 16, k ≠ n ∧ (s.thr e k).state = .ready ∧ p (s.thr e k).cls = true := fun p => by
    rw [readyClass_modThr, readyClass_modThr, readyClass_iff]
  have hurg : (u.dispatchOn e = false ∨ (u.modThr e n (fun t => { t with run := 0, cls := u.thClass e n })).readyClass e n
      (fun k => decide (k < u.thClass e n)) = true) ↔ urgent := by
    rw [hready]
    simp only [decide_eq_true_eq]
    rfl
  have hspent : (u.rget (F.Ge_CTRL_QUANTUM e) ≠ 0 ∧ 8 * u.rget (F.Ge_CTRL_QUANTUM e) ≤ (u.thr e n).quantum ∧
      (u.modThr e n (fun t => { t with run := 0, cls := u.thClass e n })).readyClass e n (fun k => decide (k = u.thClass e n)) = true) ↔ spent := by
    rw [hready, hu]
    simp only [decide_eq_true_eq]
    rfl
  refine ⟨_, hx, ?_⟩
  rw [hseq, preemptPoint_cases (by rw [hu]; exact hh)]
  have others : ∀ (f : Thread → Thread) (k : Fin 16), k ≠ n → (u.modThr e n f).thr e k = s.thr e k := fun f k hk =>
    (thr_modThr_ne _ _ _ hk).trans (thr_modThr_ne _ _ _ hk)
  by_cases h1 : urgent
  · rw [if_pos (hurg.2 h1), modThr_modThr]
    refine ⟨fun _ => rfl, ?_, ?_, ?_, ?_, fun k hk => (thr_geFree _ _ _).trans (others _ k hk), fun _ => ⟨running_geFree _ _, ?_, ?_, ?_⟩,
      fun h => absurd h1 h, fun h => absurd h1 h⟩
    · exact geFree_blocks (modThr_blocks u e n _) e
    all_goals rw [thr_geFree, thr_modThr_same, hu]; rfl
  · rw [if_neg (fun h => h1 (hurg.1 h))]
    by_cases h2 : spent
    · rw [if_pos (hspent.2 h2), modThr_modThr]
      refine ⟨fun _ => rfl, ?_, ?_, ?_, ?_, fun k hk => (thr_geFree _ _ _).trans (others _ k hk), fun h => absurd h h1,
        fun _ _ => ⟨running_geFree _ _, ?_, ?_⟩, fun _ h => absurd h2 h⟩
      · exact geFree_blocks (modThr_blocks u e n _) e
      all_goals rw [thr_geFree, thr_modThr_same, hu]; rfl
    · rw [if_neg (fun h => h2 (hspent.1 h))]
      refine ⟨fun _ => rfl, modThr_blocks u e n _, ?_, ?_, ?_, others _, fun h => absurd h h1, fun _ h => absurd h h2, fun _ _ => ⟨?_, ?_⟩⟩
      · rw [thr_modThr_same, hu]
      · rw [thr_modThr_same, hu]
      · rw [thr_modThr_same, hu]; rfl
      · exact (running_modThr _ _ _ _).trans ((running_modThr _ _ _ _).trans hm.2.1)
      · rw [thr_modThr_same, hu]; exact hm.2.2.1

/-- Settles O25: each operation of the sequencer, and the preemption point behind a safe microword. -/
theorem sequencerRowsRun : Obligations.SequencerRowsRun := ⟨sequencerRows_holds, safePointsPreempt_holds⟩

end Sys2Proof
end

section
/-!
SUPPORT. Port operations (R136 to R145): what a microword that is a port operation alone leaves of its thread and its Gaffer.
-/
set_option Elab.async false
namespace Sys2Proof.Machine
open Sys2Proof

/-! ### Results in a Gaffer's registers -/

/-- A register of thread n, private or shared, holds a value. -/
def Gaffer.holdsAt (n : Fin 16) (d v : Nat) (g : Gaffer) : Prop :=
  (∀ h : d < 8, g.thr[n].p[d] = BitVec.ofNat 40 v) ∧
  (∀ h : 0x40 ≤ d ∧ d < 0x80, (g.sreg[d - 0x40]'(by omega)) = BitVec.ofNat 40 v)

theorem Gaffer.holdsAt_same (n : Fin 16) (d v : Nat) (g : Gaffer) : (g.wrSpec n d v).holdsAt n d v := by
  refine ⟨fun h => ?_, fun h => ?_⟩
  · simp [Gaffer.wrSpec, Thread.wrSpec]
  · simp [Gaffer.wrSpec, h.1]

theorem Gaffer.holdsAt_ne {n : Fin 16} {d v d' : Nat} {g : Gaffer} (hg : g.holdsAt n d v) (h : d ≠ d') (v' : Nat) :
    (g.wrSpec n d' v').holdsAt n d v := by
  refine ⟨fun h8 => ?_, fun h40 => ?_⟩
  · simpa [Gaffer.wrSpec, Thread.wrSpec, Vector.getElem_setIfInBounds, h.symm] using hg.1 h8
  · have := hg.2 h40
    simp only [Gaffer.wrSpec]
    split
    case isTrue h' => rw [Vector.getElem_setIfInBounds, if_neg (by omega)]; exact this
    case isFalse => exact this

/-- A Gaffer once the port's results have been written. -/
def Gaffer.wrRes (n : Fin 16) (res : List (Nat × Nat)) (g : Gaffer) : Gaffer := res.foldl (fun g x => g.wrSpec n x.1 x.2) g

theorem foldl_wrSpec (e : Fin 8) (n : Fin 16) (res : List (Nat × Nat)) (h : ∀ x ∈ res, x.1 < 128) (s : State) :
    res.foldl (fun s x => s.wrSpec e n x.1 x.2) s = s.modGaf e (Gaffer.wrRes n res) := by
  induction res generalizing s with
  | nil => exact (modGaf_self s e rfl).symm
  | cons x xs ih =>
    rw [List.foldl_cons, ih (fun y hy => h y (List.mem_cons_of_mem _ hy)), wrSpec_eq s e n (h x List.mem_cons_self), modGaf_modGaf]
    rfl

/-- Results that name different registers are all written. -/
theorem wrPort_eq (s : State) (e : Fin 8) (n : Fin 16) {res : List (Nat × Nat)} (h : ∀ x ∈ res, x.1 < 128) (hd : (res.map Prod.fst).Nodup) :
    s.wrPort e n res = s.modGaf e (Gaffer.wrRes n res) := by
  rw [← foldl_wrSpec e n res h]
  unfold State.wrPort
  split
  · rename_i d1 v1 d2 v2
    rw [if_neg (by simpa using hd)]
    rfl
  · rfl

/-! ### A port operation alone -/

/-- The flags once a port operation has set OV. -/
def withOv (f : BitVec 5) : Option Bool → BitVec 5
  | some o => BitVec.ofNat 5 (f.toNat % 16 + 16 * b2n o)
  | none => f

theorem withOv_bit (f : BitVec 5) (o : Bool) : (withOv f (some o)).getLsbD 4 = o := by
  have h : ∀ (k : Fin 16) (o : Bool), (BitVec.ofNat 5 (k.val + 16 * b2n o)).getLsbD 4 = o := by decide
  exact h ⟨f.toNat % 16, Nat.mod_lt _ (by decide)⟩ o

/-- A thread that has completed a port operation: OV, the counts, and the next microword. -/
def Thread.ported (ov : Option Bool) (t : Thread) : Thread :=
  { t with flags := withOv t.flags ov, run := t.run + 1, quantum := t.quantum + 1, pc := t.pc + 1 }

/-- A Gaffer whose thread has completed a port operation. -/
def Gaffer.ported (n : Fin 16) (res : List (Nat × Nat)) (ov : Option Bool) (g : Gaffer) : Gaffer :=
  { g.wrRes n res with thr := (g.wrRes n res).thr.set n ((g.wrRes n res).thr[n].ported ov) }

theorem mwWritten_port (s : State) (e : Fin 8) (n : Fin 16) (w : BitVec 144) {res : List (Nat × Nat)} (h : ∀ x ∈ res, x.1 < 128)
    (hd : (res.map Prod.fst).Nodup) {ov : Option Bool} (hov : ov.isSome = true → ∀ x ∈ res, x.1 ≠ 0x12) :
    (s.mwWritten e n w ⟨none, none⟩ res ov).modThr e n (fun t => { t with pc := t.pc + 1 }) = s.modGaf e (Gaffer.ported n res ov) := by
  have hw := wrPort_eq s e n h hd
  have hfin : ∀ f : Thread → Thread, ((s.wrPort e n res).modThr e n f) = s.modGaf e (fun g => { g.wrRes n res with
      thr := (g.wrRes n res).thr.set n (f (g.wrRes n res).thr[n]) }) := fun f => by
    rw [hw, State.modThr, modGaf_modGaf]
  cases ov with
  | none =>
    have : s.mwWritten e n w ⟨none, none⟩ res none = (s.wrPort e n res).modThr e n Thread.counted := by
      simp [State.mwWritten]
    rw [this, modThr_modThr, hfin]
    rfl
  | some o =>
    have hany : res.any (fun x => x.1 = 0x12) = false := by
      rw [List.any_eq_false]
      intro x hx
      simpa using hov rfl x hx
    have : s.mwWritten e n w ⟨none, none⟩ res (some o) = ((s.wrPort e n res).modThr e n
        (fun t => { t with flags := BitVec.ofNat 5 (t.flags.toNat % 16 + 16 * b2n o) })).modThr e n Thread.counted := by
      simp [State.mwWritten, hany]
    rw [this, modThr_modThr, modThr_modThr, hfin]
    rfl

/-- The row of a port operation that does not park. -/
theorem exec_port {s : State} {e : Fin 8} {n : Fin 16} {psel pop : Nat} (h : portReady s e n psel pop) {i : Instr} {named : BitVec 144 → Bool}
    (hx : exec i s = s.event (fun s => s.issue e named)) (hn : named (wordAt s e n) = true) {u : State} {res : List (Nat × Nat)} {ov : Option Bool}
    (hp : s.portOp e n (wordAt s e n) = ⟨u, res, none, ov⟩) (hr : ∀ x ∈ res, x.1 < 128) (hd : (res.map Prod.fst).Nodup)
    (hov : ov.isSome = true → ∀ x ∈ res, x.1 ≠ 0x12) : exec i s = .next (u.modGaf e (Gaffer.ported n res ov)) := by
  obtain ⟨hm, hs, -, -, ha, hsop, hsafe⟩ := h
  rw [exec_row_runs hm hx hn, mwRun_eq (by rw [hp]) hs, hp, ha]
  show Host.Outcome.next ((u.mwWritten e n (wordAt s e n) ⟨none, none⟩ res ov).sequence e n (wordAt s e n)) = _
  rw [sequence_next hsafe (Or.inr hsop), mwWritten_port u e n _ hr hd hov]

/-- The row of a port operation that parks its thread. -/
theorem exec_port_parks {s : State} {e : Fin 8} {n : Fin 16} {psel pop : Nat} (h : portReady s e n psel pop) {i : Instr}
    {named : BitVec 144 → Bool} (hx : exec i s = s.event (fun s => s.issue e named)) (hn : named (wordAt s e n) = true) {of : SpaceOf}
    (hp : (s.portOp e n (wordAt s e n)).parks = some of) :
    exec i s = .next ((((s.portOp e n (wordAt s e n)).st.modThr e n (fun t =>
      { t with pend := t.pend &&& ~~~(BitVec.ofNat 16 1024) })).parkThread e n (.space of))) := by
  rw [exec_row_runs h.1 hx hn, mwRun_parks hp]

/-! ### What it leaves -/

section
variable (u : State) (e : Fin 8) (n : Fin 16) (res : List (Nat × Nat)) (ov : Option Bool)

theorem wrRes_thr (g : Gaffer) : ∃ p f, (g.wrRes n res).thr = g.thr.set n { g.thr[n] with p := p, flags := f } ∧
    ((∀ x ∈ res, x.1 ≠ 0x12) → f = g.thr[n].flags) ∧ (res = [] → p = g.thr[n].p) := by
  induction res generalizing g with
  | nil => exact ⟨_, _, (Vector.set_getElem_self _).symm, fun _ => rfl, fun _ => rfl⟩
  | cons x xs ih =>
    obtain ⟨p, f, hthr, hf, -⟩ := ih (g.wrSpec n x.1 x.2)
    refine ⟨p, f, ?_, fun hne => ?_, fun h => by cases h⟩
    · show ((g.wrSpec n x.1 x.2).wrRes n xs).thr = _
      rw [hthr]
      simp [Gaffer.wrSpec, Thread.wrSpec]
    · rw [hf (fun y hy => hne y (List.mem_cons_of_mem _ hy))]
      simp [Gaffer.wrSpec, Thread.wrSpec, hne x List.mem_cons_self]

theorem ported_gaf : (u.modGaf e (Gaffer.ported n res ov)).gaf[e] = Gaffer.ported n res ov u.gaf[e] := gaf_modGaf_same _ _ _

theorem wrRes_rest (g : Gaffer) : (g.wrRes n res).running = g.running ∧ (g.wrRes n res).eph = g.eph := by
  induction res generalizing g with
  | nil => exact ⟨rfl, rfl⟩
  | cons x xs ih => exact ih (g.wrSpec n x.1 x.2)

theorem ported_thr : ∃ p f, (u.modGaf e (Gaffer.ported n res ov)).thr e n = { u.thr e n with
      p := p, flags := withOv f ov, run := (u.thr e n).run + 1, quantum := (u.thr e n).quantum + 1, pc := (u.thr e n).pc + 1 } ∧
    ((∀ x ∈ res, x.1 ≠ 0x12) → f = (u.thr e n).flags) ∧ (res = [] → p = (u.thr e n).p) := by
  obtain ⟨p, f, hthr, hf, hp⟩ := wrRes_thr n res u.gaf[e]
  refine ⟨p, f, ?_, hf, hp⟩
  show (u.modGaf e (Gaffer.ported n res ov)).gaf[e].thr[n] = _
  rw [ported_gaf, Gaffer.ported]
  generalize Gaffer.wrRes n res u.gaf[e] = g at hthr
  simp only [hthr, Thread.ported, Fin.getElem_fin, Vector.getElem_set_self]
  rfl

theorem ported_thr_ne {k : Fin 16} (hk : k ≠ n) : (u.modGaf e (Gaffer.ported n res ov)).thr e k = u.thr e k := by
  obtain ⟨p, f, hthr, -, -⟩ := wrRes_thr n res u.gaf[e]
  have hne : n.val ≠ k.val := fun he => hk (Fin.ext he.symm)
  show (u.modGaf e (Gaffer.ported n res ov)).gaf[e].thr[k] = _
  rw [ported_gaf, Gaffer.ported]
  generalize Gaffer.wrRes n res u.gaf[e] = g at hthr
  simp only [hthr, Fin.getElem_fin, Vector.getElem_set_ne _ _ hne]
  rfl

theorem ported_running : (u.modGaf e (Gaffer.ported n res ov)).gaf[e].running = u.gaf[e].running := by
  rw [ported_gaf]
  exact (wrRes_rest n res _).1

theorem ported_eph : (u.modGaf e (Gaffer.ported n res ov)).gaf[e].eph = u.gaf[e].eph := by
  rw [ported_gaf]
  exact (wrRes_rest n res _).2

theorem ported_blocks {s : State} (h : State.sameBlocks { s with gaf := u.gaf } u) :
    State.sameBlocks { s with gaf := (u.modGaf e (Gaffer.ported n res ov)).gaf } (u.modGaf e (Gaffer.ported n res ov)) := by
  obtain ⟨hf, hch, hg, hrest⟩ := h
  exact ⟨hf, hch, rfl, hrest⟩

theorem ported_far {s : State} (h : Far s u) : Far s (u.modGaf e (Gaffer.ported n res ov)) := h

/-- The results of other operations, and what a channel operation has noted, stay. -/
theorem ported_results : let t := (u.modGaf e (Gaffer.ported n res ov)).thr e n
    t.ephres = (u.thr e n).ephres ∧ t.chres = (u.thr e n).chres ∧ t.recres = (u.thr e n).recres ∧ t.snapt = (u.thr e n).snapt ∧
      t.fresh = (u.thr e n).fresh ∧ t.more = (u.thr e n).more ∧ t.merr = (u.thr e n).merr ∧ t.pend = (u.thr e n).pend := by
  obtain ⟨p, f, ht, -⟩ := ported_thr u e n res ov
  rw [ht]
  exact ⟨rfl, rfl, rfl, rfl, rfl, rfl, rfl, rfl⟩

theorem ported_ephres : ((u.modGaf e (Gaffer.ported n res ov)).thr e n).ephres = (u.thr e n).ephres := (ported_results u e n res ov).1
theorem ported_chres : ((u.modGaf e (Gaffer.ported n res ov)).thr e n).chres = (u.thr e n).chres := (ported_results u e n res ov).2.1
theorem ported_recres : ((u.modGaf e (Gaffer.ported n res ov)).thr e n).recres = (u.thr e n).recres := (ported_results u e n res ov).2.2.1
theorem ported_snapt : ((u.modGaf e (Gaffer.ported n res ov)).thr e n).snapt = (u.thr e n).snapt := (ported_results u e n res ov).2.2.2.1
theorem ported_fresh : ((u.modGaf e (Gaffer.ported n res ov)).thr e n).fresh = (u.thr e n).fresh := (ported_results u e n res ov).2.2.2.2.1
theorem ported_more : ((u.modGaf e (Gaffer.ported n res ov)).thr e n).more = (u.thr e n).more := (ported_results u e n res ov).2.2.2.2.2.1
theorem ported_merr : ((u.modGaf e (Gaffer.ported n res ov)).thr e n).merr = (u.thr e n).merr := (ported_results u e n res ov).2.2.2.2.2.2.1

/-- A port operation leaves every thread's pending bits. -/
theorem ported_pend (k : Fin 16) : ((u.modGaf e (Gaffer.ported n res ov)).thr e k).pend = (u.thr e k).pend := by
  by_cases hk : k = n
  · subst hk
    exact (ported_results u e k res ov).2.2.2.2.2.2.2
  · rw [ported_thr_ne u e n res ov hk]

/-- The thread goes on where the operation itself has left it running where it was. -/
theorem ported_wentOn {s : State} (hr : u.gaf[e].running = some n) (hs : (u.thr e n).state = (s.thr e n).state) (hp : (u.thr e n).pc = (s.thr e n).pc) :
    wentOn s (u.modGaf e (Gaffer.ported n res ov)) e n := by
  obtain ⟨p, f, ht, -⟩ := ported_thr u e n res ov
  refine ⟨(ported_running u e n res ov).trans hr, ?_, ?_⟩ <;> rw [ht]
  · exact hs
  · exact congrArg (· + 1) hp

theorem holds_ported_of {d v : Nat} (h : (u.gaf[e].wrRes n res).holdsAt n d v) : holds (u.modGaf e (Gaffer.ported n res ov)) e n d v := by
  show ((u.modGaf e (Gaffer.ported n res ov)).gaf[e]).holdsAt n d v
  rw [ported_gaf]
  refine ⟨fun h8 => ?_, fun h40 => h.2 h40⟩
  have := h.1 h8
  simpa [Gaffer.ported, Thread.ported] using this

theorem holds_one (d v : Nat) : holds (u.modGaf e (Gaffer.ported n [(d, v)] ov)) e n d v :=
  holds_ported_of u e n _ ov (Gaffer.holdsAt_same n d v _)

theorem holds_two {d1 d2 : Nat} (h : d1 ≠ d2) (v1 v2 : Nat) :
    holds (u.modGaf e (Gaffer.ported n [(d1, v1), (d2, v2)] ov)) e n d1 v1 ∧ holds (u.modGaf e (Gaffer.ported n [(d1, v1), (d2, v2)] ov)) e n d2 v2 :=
  ⟨holds_ported_of u e n _ ov (Gaffer.holdsAt_ne (Gaffer.holdsAt_same n d1 v1 _) h v2), holds_ported_of u e n _ ov (Gaffer.holdsAt_same n d2 v2 _)⟩

/-- Without results or OV only the thread is another. -/
theorem ported_plain : u.modGaf e (Gaffer.ported n [] none) = u.modThr e n (Thread.ported none) := rfl

end

theorem mwf7_lt (w : BitVec 144) (lo : Nat) : mwf w lo 7 < 128 := Nat.mod_lt _ (by decide)

end Sys2Proof.Machine
end

section
/-!
SUPPORT. The Orrery and system operations of a microword (R144, R145, R187, R196).
-/
set_option Elab.async false
namespace Sys2Proof.Machine
open Sys2Proof

/-! ### TRIG -/

/-- Refusals of queued requests leave the thread where it runs. -/
def Runs (e : Fin 8) (n : Fin 16) (s t : State) : Prop :=
  t.gaf[e].running = s.gaf[e].running ∧ (t.thr e n).state = (s.thr e n).state ∧ (t.thr e n).pc = (s.thr e n).pc

theorem Runs.modThr {e : Fin 8} {n : Fin 16} {s t : State} (h : Runs e n s t) (d : Fin 8) (m : Fin 16) {f : Thread → Thread}
    (hs : ∀ x, (f x).state = x.state) (hp : ∀ x, (f x).pc = x.pc) : Runs e n s (t.modThr d m f) := by
  obtain ⟨h1, h2, h3⟩ := h
  by_cases hd : e = d
  · subst hd
    refine ⟨(running_modThr _ _ _ _).trans h1, ?_⟩
    by_cases hm : n = m
    · subst hm
      rw [thr_modThr_same, hs, hp]
      exact ⟨h2, h3⟩
    · rw [thr_modThr_ne _ _ _ hm]
      exact ⟨h2, h3⟩
  · have hg : (t.modThr d m f).gaf[e] = t.gaf[e] := gaf_modGaf_ne t _ hd
    have ht : (t.modThr d m f).thr e n = t.thr e n := congrArg (fun g : Gaffer => g.thr[n]) hg
    exact ⟨(congrArg Gaffer.running hg).trans h1, by rw [ht]; exact h2, by rw [ht]; exact h3⟩

theorem Runs.of_gaf {e : Fin 8} {n : Fin 16} {s t u : State} (h : Runs e n s t) (hg : u.gaf = t.gaf) : Runs e n s u := by
  obtain ⟨h1, h2, h3⟩ := h
  have ht := thr_of_gaf hg e n
  exact ⟨by rw [hg]; exact h1, by rw [ht]; exact h2, by rw [ht]; exact h3⟩

theorem Runs.refl (e : Fin 8) (n : Fin 16) (s : State) : Runs e n s s := ⟨rfl, rfl, rfl⟩

/-! ### Wakes of a thread that runs -/

theorem woken_pend (t : Thread) (now : Nat) {bit : Nat} (h : bit < 16) : nbit (t.woken now bit).pend.toNat bit = true := by
  have hor : nbit (t.pend ||| BitVec.ofNat 16 (2 ^ bit)).toNat bit = true := by
    rw [nbit_toNat, BitVec.getLsbD_or, BitVec.getLsbD_ofNat, Nat.testBit_two_pow_self]
    simp [h]
  have hw := Thread.woken_by t now bit
  unfold wokenBy at hw
  by_cases hb : nbit t.pend.toNat bit = true
  · rw [if_pos hb] at hw
    rw [hw]
    exact hb
  · rw [if_neg hb] at hw
    rw [hw.1]
    exact hor

theorem woken_running {t : Thread} (h : t.state ≠ .parked) (now bit : Nat) : (t.woken now bit).state = t.state ∧ (t.woken now bit).pc = t.pc := by
  unfold Thread.woken
  rw [if_neg (fun hc : _ ∧ _ => h hc.1)]
  split <;> exact ⟨rfl, rfl⟩

theorem wake_runs {s : State} {e : Fin 8} {n : Fin 16} (h : (s.thr e n).state ≠ .parked) (m : Fin 16) (bit : Nat) :
    Runs e n s (s.wake e m bit) := by
  rw [wake_eq]
  refine ⟨running_modThr _ _ _ _, ?_⟩
  by_cases hm : n = m
  · subst hm
    rw [thr_modThr_same]
    exact woken_running h _ _
  · rw [thr_modThr_ne _ _ _ hm]
    exact ⟨rfl, rfl⟩

theorem wake_pend (s : State) (e : Fin 8) (m : Fin 16) {bit : Nat} (h : bit < 16) : nbit ((s.wake e m bit).thr e m).pend.toNat bit = true := by
  rw [wake_eq, thr_modThr_same]
  exact woken_pend _ _ h

theorem wake_blocks (s : State) (e : Fin 8) (m : Fin 16) (bit : Nat) : State.sameBlocks { s with gaf := (s.wake e m bit).gaf } (s.wake e m bit) := by
  rw [wake_eq]
  exact modThr_blocks s e m _

theorem reg_wake (s : State) (e : Fin 8) (m : Fin 16) (bit o : Nat) : (s.wake e m bit).reg o = s.reg o := by
  rw [wake_eq]
  rfl

theorem convRefuse_runs {e : Fin 8} {n : Fin 16} {s t : State} (h : Runs e n s t) (k : Fin 2) (th : Option (Fin 8 × Fin 16)) :
    Runs e n s (t.convRefuse k th) := by
  unfold State.convRefuse
  cases th with
  | none => exact h.of_gaf (evt_core _ _ (core_refl _)).gaf
  | some x => exact h.modThr x.1 x.2 (fun _ => rfl) (fun _ => rfl)

theorem convClear_runs {e : Fin 8} {n : Fin 16} {s t : State} (h : Runs e n s t) (k : Fin 2) (m j : Nat) : Runs e n s (t.convClear k m j) := by
  induction j generalizing t with
  | zero => exact h
  | succ j ih =>
    unfold State.convClear
    split
    · exact h
    · refine ih ?_
      unfold State.convDrop
      split
      · exact h
      · exact convRefuse_runs (h.of_gaf (by rfl)) k _

theorem convClear_room {s : State} {k : Fin 2} {m : Nat} (h : s.convRoom k m = true) (j : Nat) : s.convClear k m j = s := by
  cases j with
  | zero => rfl
  | succ j => exact if_pos h

/-- The state in which a TRIG of an input has joined its queue. -/
def State.trigTaken (s : State) (e : Fin 8) (n : Fin 16) (k : Fin 2) (ain : Nat) : State :=
  ((s.convClear k 1 8).convPush k ⟨ain, 4, s.now + 1, false, none, s.spine.tick, some (e, n), false⟩).setChres e n 0

theorem trigTaken_runs (s : State) (e : Fin 8) (n : Fin 16) (k : Fin 2) (ain : Nat) : Runs e n s (s.trigTaken e n k ain) := by
  have h := convClear_runs (Runs.refl e n s) k 1 8
  have hp : ∀ q : Conv, Runs e n s ((s.convClear k 1 8).convPush k q) := fun q => h.of_gaf (u := (s.convClear k 1 8).convPush k q) rfl
  exact (hp _).modThr e n (f := fun t => { t with chres := BitVec.ofNat 4 0 }) (fun _ => rfl) (fun _ => rfl)

theorem trigTaken_far (s : State) (e : Fin 8) (n : Fin 16) (k : Fin 2) (ain : Nat) : Far s (s.trigTaken e n k ain) :=
  modThr_far _ _ _ _ (convPush_far _ _ _ (convClear_far _ _ _ _ (far_refl s)))

theorem portOp_trig {s : State} {e : Fin 8} {n : Fin 16} {w : BitVec 144} (hsel : mwPsel w = 6) (hpop : mwPop w = 3) :
    s.portOp e n w = if s.convFits ⟨mwf w 35 1 % 2, by omega⟩ 4 1 then portDone (s.trigTaken e n ⟨mwf w 35 1 % 2, by omega⟩ (mwf w 31 4)) []
      else portDone (s.setChres e n 4) [] := by
  simp only [State.portOp, State.portSys, hsel, hpop]
  rfl

/-! ### The Orrery operations -/

/-- The result that ANG answers: angle and speed, where the estimate is valid. -/
def State.angResult (s : State) (o : Fin 4) : Option (Nat × Nat) :=
  (s.oReport o s.now).map (fun a => (a, (s.oSpeedAt o s.now % (2 ^ 40 : Nat)).toNat))

/-- The result that EDGE answers: the angle and the time of the latest validated edge. -/
def State.edgeResult (s : State) (o : Fin 4) : Option (Nat × Nat) :=
  if s.oValid o then (match s.ory[o].seen.hist with | x :: _ => some (s.oZero o x.base, x.t % 2 ^ 40) | [] => none) else none

/-- The result that A2T answers: the time of an angle, at most 2^30 ns ahead. -/
def State.a2tResult (s : State) (o : Fin 4) (a : Nat) : Option (Nat × Nat) :=
  (s.angTime o (a % 2 ^ 32) s.now).map (fun t =>
    (((match t with | none => (s.now : Int) + 2 ^ 36 | some v => min v ((s.now : Int) + 2 ^ 36) : Int) % (2 ^ 40 : Nat)).toNat, 0))

/-- The writes of an operation with two result registers. -/
def twoResults (d1 d2 : Nat) (r : Option (Nat × Nat)) : List (Nat × Nat) := [(d1, (r.getD (0, 0)).1), (d2, (r.getD (0, 0)).2)]

section
variable {s : State} {e : Fin 8} {n : Fin 16} {w : BitVec 144} (hsel : mwPsel w = 5)
include hsel

theorem portOp_ang (hpop : mwPop w = 0) : s.portOp e n w = ⟨s, twoResults (mwf w 46 7) (mwf w 39 7) (s.angResult ⟨mwf w 53 2 % 4, by omega⟩), none,
    some (s.angResult ⟨mwf w 53 2 % 4, by omega⟩).isSome⟩ := by
  simp only [State.portOp, hsel, State.portOry, hpop]
  rfl

theorem portOp_edge (hpop : mwPop w = 1) : s.portOp e n w = ⟨s, twoResults (mwf w 46 7) (mwf w 39 7) (s.edgeResult ⟨mwf w 53 2 % 4, by omega⟩), none,
    some (s.edgeResult ⟨mwf w 53 2 % 4, by omega⟩).isSome⟩ := by
  simp only [State.portOp, hsel, State.portOry, hpop]
  rfl

theorem portOp_a2t (hpop : mwPop w = 2) : s.portOp e n w =
    ⟨s, [(mwf w 46 7, ((s.a2tResult ⟨mwf w 53 2 % 4, by omega⟩ (s.rdSpec e n w (mwf w 32 7))).getD (0, 0)).1)], none,
      some (s.a2tResult ⟨mwf w 53 2 % 4, by omega⟩ (s.rdSpec e n w (mwf w 32 7))).isSome⟩ := by
  simp only [State.portOp, hsel, State.portOry, hpop, if_true]
  rfl

end

end Sys2Proof.Machine
end

section
set_option Elab.async false
namespace Sys2Proof
open Sys2Proof.Machine

/-- Settles O29: each operation's results, and that the thread goes on with nothing else changed. -/
theorem orreryAndSystemRowsRun : Obligations.OrreryAndSystemRowsRun := by
  intro e n s w o d1 d2 k quiet
  have row : ∀ i psel pop, (i, psel, pop) ∈ portRows e → portReady s e n psel pop → ∀ {u : State} {res ov},
      s.portOp e n w = ⟨u, res, none, ov⟩ → (∀ x ∈ res, x.1 < 128) → (res.map Prod.fst).Nodup → (ov.isSome = true → ∀ x ∈ res, x.1 ≠ 0x12) →
      exec i s = .next (u.modGaf e (Gaffer.ported n res ov)) := fun i psel pop hmem hrdy _ _ _ hp hr hd hov =>
    exec_port hrdy (exec_portRow e s (i, psel, pop) hmem) (by simp [isPort, hrdy.2.2.1, hrdy.2.2.2.1]) hp hr hd hov
  have went : ∀ {psel pop}, portReady s e n psel pop → ∀ res ov, quiet (s.modGaf e (Gaffer.ported n res ov)) := fun hrdy res ov =>
    ⟨ported_wentOn s e n res ov hrdy.1.2.1 rfl rfl, fun _ => rfl, ported_blocks s e n res ov (sameBlocks_refl s)⟩
  have hov : ∀ {b : Bool} {res : List (Nat × Nat)}, ((s.modGaf e (Gaffer.ported n res (some b))).thr e n).flags.getLsbD 4 = b := fun {b res} => by
    obtain ⟨p, f, ht, -, -⟩ := ported_thr s e n res (some b)
    rw [ht]
    exact withOv_bit f b
  have lt7 := mwf7_lt w
  have two : ∀ {a b : Nat} (r : Option (Nat × Nat)), a < 128 → b < 128 → ∀ x ∈ twoResults a b r, x.1 < 128 := fun r ha hb => by
    simp [twoResults, ha, hb]
  refine ⟨fun h hne h1 h2 => ?_, fun h hne h1 h2 => ?_, fun h h1 => ?_, fun h hne => ?_, fun h => ?_, fun h => ?_, fun h => ?_⟩
  · have hp := portOp_ang (s := s) (e := e) (n := n) h.2.2.1 h.2.2.2.1
    have hr : s.angResult o = (s.oReport o s.now).map _ := rfl
    refine ⟨_, row (.mwAng e) 5 0 (by simp [portRows]) h hp (two _ (lt7 _) (lt7 _)) (by simpa [twoResults] using hne)
      (fun _ => by simpa [twoResults] using ⟨h1, h2⟩), went h _ _, hov.trans (by rw [State.angResult, Option.isSome_map]), fun a ha => ?_, fun ha => ?_⟩
    all_goals
      rw [ha] at hr
      rw [show s.angResult ⟨mwf (wordAt s e n) 53 2 % 4, by omega⟩ = _ from hr]
      exact holds_two s e n _ hne _ _
  · have hp := portOp_edge (s := s) (e := e) (n := n) h.2.2.1 h.2.2.2.1
    refine ⟨_, row (.mwEdge e) 5 1 (by simp [portRows]) h hp (two _ (lt7 _) (lt7 _)) (by simpa [twoResults] using hne)
      (fun _ => by simpa [twoResults] using ⟨h1, h2⟩), went h _ _, fun x xs hv hx => ?_, fun hv => ?_⟩
    · have hr : s.edgeResult o = some (s.oZero o x.base, x.t % 2 ^ 40) := by rw [State.edgeResult, hv, if_pos rfl, hx]
      rw [show s.edgeResult ⟨mwf (wordAt s e n) 53 2 % 4, by omega⟩ = _ from hr]
      exact ⟨(holds_two s e n _ hne _ _).1, (holds_two s e n _ hne _ _).2, hov⟩
    · have hr : s.edgeResult o = none := by rw [State.edgeResult, hv]; rfl
      rw [show s.edgeResult ⟨mwf (wordAt s e n) 53 2 % 4, by omega⟩ = _ from hr]
      exact ⟨(holds_two s e n _ hne _ _).1, (holds_two s e n _ hne _ _).2, hov⟩
  · have hp := portOp_a2t (s := s) (e := e) (n := n) h.2.2.1 h.2.2.2.1
    refine ⟨_, row (.mwA2t e) 5 2 (by simp [portRows]) h hp (by simpa using lt7 46) (by simp) (fun _ => by simpa using h1), went h _ _,
      fun ha => ?_, fun v ha => ?_⟩
    all_goals
      have hr : s.a2tResult o (s.rdSpec e n w (mwf w 32 7)) = Option.map _ _ := rfl
      rw [ha] at hr
      rw [show s.a2tResult ⟨mwf (wordAt s e n) 53 2 % 4, by omega⟩ (s.rdSpec e n (wordAt s e n) (mwf (wordAt s e n) 32 7)) = _ from hr]
      exact ⟨holds_one s e n _ _ _, hov⟩
  · have hp : s.portOp e n w = portDone s [(mwf w 43 7, s.timeWord), (mwf w 36 7, s.nowNs / 2 ^ 34)] := by
      simp only [State.portOp, State.portSys, show mwPsel w = 6 from h.2.2.1, show mwPop w = 0 from h.2.2.2.1]
    exact ⟨_, row (.mwNow e) 6 0 (by simp [portRows]) h hp (by simpa using ⟨lt7 43, lt7 36⟩) (by simpa using hne) nofun, went h _ _,
      holds_two s e n none hne _ _⟩
  · have hp : s.portOp e n w = portDone (s.wake e ⟨mwf w 50 4 % 16, by omega⟩ 9) [] := by
      simp only [State.portOp, State.portSys, show mwPsel w = 6 from h.2.2.1, show mwPop w = 1 from h.2.2.2.1]
    have hr : Runs e n s (s.wake e ⟨mwf w 50 4 % 16, by omega⟩ 9) := wake_runs (by rw [h.1.2.2.1]; simp) _ _
    refine ⟨_, row (.mwSignal e) 6 1 (by simp [portRows]) h hp (by simp) (by simp) nofun, ⟨?_, fun _ => reg_wake _ _ _ _ _, ?_⟩, ?_⟩
    · exact ported_wentOn _ e n _ _ (hr.1.trans h.1.2.1) hr.2.1 hr.2.2
    · exact ported_blocks _ e n _ _ (wake_blocks s e _ 9)
    · rw [ported_pend]
      exact wake_pend s e _ (by decide)
  · have hp : s.portOp e n w = portDone (s.modThr e n (fun t => { t with pend := t.pend &&& ~~~(BitVec.ofNat 16 (mwImm w)) })) [] := by
      simp only [State.portOp, State.portSys, show mwPsel w = 6 from h.2.2.1, show mwPop w = 2 from h.2.2.2.1]
    refine ⟨_, row (.mwWclr e) 6 2 (by simp [portRows]) h hp (by simp) (by simp) nofun, ⟨?_, fun _ => rfl, ?_⟩, ?_, ?_⟩
    · exact ported_wentOn _ e n _ _ ((running_modThr _ _ _ _).trans h.1.2.1) (by rw [thr_modThr_same]) (by rw [thr_modThr_same])
    · exact ported_blocks _ e n _ _ (modThr_blocks s e n _)
    · rw [ported_plain, modThr_modThr]
      exact onlyThread_modThr s e n _
    · rw [ported_pend, thr_modThr_same]
  · have hport := portOp_trig (s := s) (e := e) (n := n) h.2.2.1 h.2.2.2.1
    by_cases hfit : s.convFits k 4 1 = true
    · rw [if_pos hfit] at hport
      have hr := trigTaken_runs s e n k (mwf w 31 4)
      refine ⟨_, row (.mwTrig e) 6 3 (by simp [portRows]) h hport (by simp) (by simp) nofun,
        ported_far _ e n _ _ (trigTaken_far s e n k (mwf w 31 4)), ported_wentOn _ e n _ _ (hr.1.trans h.1.2.1) hr.2.1 hr.2.2, ?_, fun hroom => ?_,
        fun hno => ?_⟩
      · rw [ported_chres, if_pos hfit, State.trigTaken, State.setChres, thr_modThr_same]
        rfl
      · show (s.trigTaken e n k (mwf w 31 4)).conv = _
        rw [State.trigTaken, convClear_room hroom]
        rfl
      · rw [hfit] at hno; cases hno
    · rw [if_neg hfit] at hport
      have hw := ported_wentOn (s := s) (s.setChres e n 4) e n [] none ((running_modThr _ _ _ _).trans h.1.2.1)
        (by rw [State.setChres, thr_modThr_same]) (by rw [State.setChres, thr_modThr_same])
      refine ⟨_, row (.mwTrig e) 6 3 (by simp [portRows]) h hport (by simp) (by simp) nofun, far_refl s, hw, ?_, fun hroom => ?_,
        fun _ => ⟨hw, fun _ => rfl, ported_blocks _ e n _ _ (modThr_blocks s e n _)⟩⟩
      · rw [ported_chres, if_neg hfit, State.setChres, thr_modThr_same]
        rfl
      · refine absurd ?_ hfit
        simp only [State.convRoom, State.convFits, Bool.and_eq_true, decide_eq_true_eq] at hroom ⊢
        exact ⟨hroom.1, hroom.2.trans (Nat.le_add_right _ _)⟩

end Sys2Proof
end

section
/-!
SUPPORT. ECC errors as they are counted and reported (R371), words in a memory, and records handed to their ring (R234, R235).
-/
set_option Elab.async false
namespace Sys2Proof.Machine
open Sys2Proof

/-! ### ECC -/

/-- The registers of an ECC error. -/
def eccRegs : List Nat := [R.HL_ECC, R.HL_ECCADDR, R.HL_EVT]

/-- An uncorrectable error, counted with its address. -/
def State.eccNoted (s : State) (a : Word) : State := ((s.rsat F.HL_ECC_UNCORR 1).setReg R.HL_ECCADDR a).evt F.HL_EVT_ECC_U_S

theorem eccNoted_frame {os : List Nat} {s t : State} (h : Frame os s t) (hos : ∀ o ∈ eccRegs, o ∈ os) (a : Word) : Frame os s (t.eccNoted a) :=
  ((h.rsat (f := F.HL_ECC_UNCORR) 1 (hos _ (by decide))).setReg (o := R.HL_ECCADDR) a (hos _ (by decide))).evt
    (f := F.HL_EVT_ECC_U_S) (hos _ (by decide))

theorem eccNoted_shows (s : State) (a : Word) :
    countedOne s (s.eccNoted a) F.HL_ECC_UNCORR ∧ (s.eccNoted a).reg R.HL_ECCADDR = a ∧ (s.eccNoted a).ron F.HL_EVT_ECC_U_S = true := by
  refine ⟨?_, (reg_evt _ _ (by decide) (by decide)).trans (reg_setReg_same _ _ _), ron_evt _ _ rfl (by decide) (by decide)⟩
  show State.rget _ _ = _
  simp (disch := decide) only [State.eccNoted, rget_evt_ne, rget_setReg_ne, rget_rsat_same]

theorem eccBad_eq (s : State) (mram : Bool) (ofs : Nat) : ∃ tm w4 w5, s.eccBad mram ofs =
    (if mram then (s.eccNoted (word (ofs + 2 ^ 31 * b2n mram))).evt F.HL_EVT_MRAM_S else s.eccNoted (word (ofs + 2 ^ 31 * b2n mram))).emit
      0x22 105 tm flFault w4 w5 0 0 := ⟨_, _, _, rfl⟩

theorem eccBad_frame {os : List Nat} {s t : State} (h : Frame os s t) (hos : ∀ o ∈ eccRegs, o ∈ os) (mram : Bool) (ofs : Nat) :
    Frame os s (t.eccBad mram ofs) := by
  obtain ⟨tm, w4, w5, he⟩ := eccBad_eq t mram ofs
  have h0 := eccNoted_frame h hos (word (ofs + 2 ^ 31 * b2n mram))
  rw [he]
  split
  · exact (h0.evt (f := F.HL_EVT_MRAM_S) (hos _ (by decide))).emit _ _ _ _ _ _ _ _
  · exact h0.emit _ _ _ _ _ _ _ _

/-- An uncorrectable error is counted, with its address, and reported. -/
theorem eccBad_shows (s : State) (mram : Bool) (ofs : Nat) :
    countedOne s (s.eccBad mram ofs) F.HL_ECC_UNCORR ∧ (s.eccBad mram ofs).reg R.HL_ECCADDR = word (ofs + 2 ^ 31 * b2n mram) ∧
      (s.eccBad mram ofs).ron F.HL_EVT_ECC_U_S = true ∧ (mram = true → (s.eccBad mram ofs).ron F.HL_EVT_MRAM_S = true) := by
  obtain ⟨tm, w4, w5, he⟩ := eccBad_eq s mram ofs
  obtain ⟨h1, h2, h3⟩ := eccNoted_shows s (word (ofs + 2 ^ 31 * b2n mram))
  rw [he]
  generalize word (ofs + 2 ^ 31 * b2n mram) = a at *
  cases mram with
  | false =>
    simp only [Bool.false_eq_true, if_false]
    exact ⟨(rget_emit _ _ _ _ _ _ _ _ _ (by decide)).trans h1, (reg_emit _ _ _ _ _ _ _ _ _ (by decide)).trans h2,
      (ron_of_rget_eq (rget_emit _ _ _ _ _ _ _ _ _ (by decide))).trans h3, nofun⟩
  | true =>
    simp only [if_true]
    exact ⟨(rget_emit _ _ _ _ _ _ _ _ _ (by decide)).trans ((rget_evt_ne _ (by decide) (by decide)).trans h1),
      (reg_emit _ _ _ _ _ _ _ _ _ (by decide)).trans ((reg_evt _ _ (by decide) (by decide)).trans h2),
      (ron_of_rget_eq ((rget_emit _ _ _ _ _ _ _ _ _ (by decide)).trans
        (rget_evt_apart _ (f := F.HL_EVT_MRAM_S) (g := F.HL_EVT_ECC_U_S) (by decide) (by decide) rfl (by decide)))).trans h3,
      fun _ => (ron_of_rget_eq (rget_emit _ _ _ _ _ _ _ _ _ (by decide))).trans (ron_evt _ _ rfl (by decide) (by decide))⟩

theorem eccCorr_frame {os : List Nat} {s t : State} (h : Frame os s t) (h1 : R.HL_ECC ∈ os) (h2 : R.HL_EVT ∈ os) (ofs : Nat) :
    Frame os s (t.eccCorr ofs) := by
  have h0 := (h.rsat (f := F.HL_ECC_CORR) 1 h1).evt (f := F.HL_EVT_ECC_C_S) h2
  unfold State.eccCorr
  dsimp only
  split
  · exact h0.emit _ _ _ _ _ _ _ _
  · exact h0

theorem eccCorr_shows (s : State) (ofs : Nat) :
    countedOne s (s.eccCorr ofs) F.HL_ECC_CORR ∧ (s.eccCorr ofs).ron F.HL_EVT_ECC_C_S = true := by
  have h1 : ((s.rsat F.HL_ECC_CORR 1).evt F.HL_EVT_ECC_C_S).rget F.HL_ECC_CORR = _ :=
    (rget_evt_ne _ (by decide) (by decide)).trans (rget_rsat_same s F.HL_ECC_CORR 1 (by decide))
  have h2 : ((s.rsat F.HL_ECC_CORR 1).evt F.HL_EVT_ECC_C_S).ron F.HL_EVT_ECC_C_S = true := ron_evt _ _ rfl (by decide) (by decide)
  unfold State.eccCorr
  dsimp only
  split
  · exact ⟨(rget_emit _ _ _ _ _ _ _ _ _ (by decide)).trans h1, (ron_of_rget_eq (rget_emit _ _ _ _ _ _ _ _ _ (by decide))).trans h2⟩
  · exact ⟨h1, h2⟩

/-! ### Words in a memory -/

theorem memRdN_of_bytes {m : Tbl Byte} {a n v : Nat} (h : ∀ i, i < n → memRd m (a + i) = BitVec.ofNat 8 (v / 256 ^ i)) : memRdN m a n = v % 256 ^ n := by
  induction n generalizing a v with
  | zero => simp [memRdN, Nat.mod_one]
  | succ n ih =>
    have h0 : (memRd m a).toNat = v % 256 := by simpa using congrArg BitVec.toNat (h 0 (Nat.succ_pos n))
    have hrest : memRdN m (a + 1) n = v / 256 % 256 ^ n := ih (fun i hi => by
      rw [Nat.add_assoc, Nat.add_comm 1 i, h (i + 1) (by omega), Nat.div_div_eq_div_mul, pow_succ']
      )
    rw [memRdN, h0, hrest, pow_succ', Nat.mod_mul]

theorem memRdN_wrN (m : Tbl Byte) (a n v : Nat) : memRdN (memWrN m a n v) a n = v % 256 ^ n :=
  memRdN_of_bytes (fun i hi => memRd_wrN_in m a n v i hi)

theorem memRdN_congr {m m' : Tbl Byte} {a n : Nat} (h : ∀ i, i < n → memRd m' (a + i) = memRd m (a + i)) : memRdN m' a n = memRdN m a n := by
  induction n generalizing a with
  | zero => rfl
  | succ n ih =>
    have h0 : memRd m' a = memRd m a := h 0 (Nat.succ_pos n)
    have hrest : memRdN m' (a + 1) n = memRdN m (a + 1) n := ih (fun i hi => by
      rw [Nat.add_assoc, Nat.add_comm 1 i]; exact h (i + 1) (by omega))
    simp only [memRdN, h0, hrest]

/-! ### A record on its way -/

/-- A record whose ring runs joins those that wait, numbered by its source. -/
theorem emitTo_taken {s : State} {r : Nat} (h : s.eventRing r = true) (type src t fl : Nat) (w4 w5 w6 w7 : Word) :
    (s.emitTo (some r) type src t fl w4 w5 w6 w7).recq = s.recq ++ [⟨type, src, s.nextSeq src, t, fl, w4, w5, w6, w7, r⟩] := by
  simp only [State.emitTo, h, if_true]

/-- A record without a ring that runs is discarded and counted. -/
theorem emitTo_discards {s : State} {r : Option Nat} (h : r = none ∨ ∃ n, r = some n ∧ s.eventRing n = false) (type src t fl : Nat)
    (w4 w5 w6 w7 : Word) : s.emitTo r type src t fl w4 w5 w6 w7 = (s.rsat F.EC_DISCARD_CNT 1).ecEvt F.EC_EVT_UNROUTED_S := by
  obtain rfl | ⟨n, rfl, hn⟩ := h
  · rfl
  · simp only [State.emitTo, hn, Bool.false_eq_true, if_false]

theorem discard_counts (s : State) : countedOne s ((s.rsat F.EC_DISCARD_CNT 1).ecEvt F.EC_EVT_UNROUTED_S) F.EC_DISCARD_CNT ∧
    ((s.rsat F.EC_DISCARD_CNT 1).ecEvt F.EC_EVT_UNROUTED_S).recq = s.recq :=
  ⟨(rget_rput_ne _ _ (by decide)).trans (rget_rsat_same s F.EC_DISCARD_CNT 1 (by decide)), rfl⟩

theorem recordKick_same (s : State) (type src : Nat) : (s.recordKick type src).regs = s.regs ∧ (s.recordKick type src).recq = s.recq ∧
    (s.recordKick type src).seqs = s.seqs ∧ (s.recordKick type src).ec = s.ec ∧ (s.recordKick type src).gaf = s.gaf ∧
    (s.recordKick type src).ch = s.ch ∧ (s.recordKick type src).sram = s.sram := by
  unfold State.recordKick
  split <;> exact ⟨rfl, rfl, rfl, rfl, rfl, rfl, rfl⟩

end Sys2Proof.Machine
end

section
/-!
SUPPORT. The memory operations and REC of a microword (R135, R142, R143).
-/
set_option Elab.async false
namespace Sys2Proof.Machine
open Sys2Proof

/-! ### Parking -/

theorem haltDone_gafFrame {os : List Nat} {s t : State} {e : Fin 8} (h : Frame os { s with gaf := t.gaf } t) (ho : R.Ge_CMD_STAT e ∈ os)
    (n : Fin 16) : Frame os { s with gaf := (t.haltDone e n).gaf } (t.haltDone e n) := by
  rw [haltDone_gaf]
  exact haltDone_frame h ho n

theorem modThr_gafFrame {os : List Nat} {s t : State} (h : Frame os { s with gaf := t.gaf } t) (e : Fin 8) (n : Fin 16) (f : Thread → Thread) :
    Frame os { s with gaf := (t.modThr e n f).gaf } (t.modThr e n f) := ⟨h.regs, h.far, h.core.1, rfl, h.core.2.2⟩

theorem geFree_gafFrame {os : List Nat} {s t : State} (h : Frame os { s with gaf := t.gaf } t) (e : Fin 8) :
    Frame os { s with gaf := (t.geFree e).gaf } (t.geFree e) := ⟨h.regs, h.far, h.core.1, rfl, h.core.2.2⟩

/-- A thread that parks changes Gaffers, and the status of a pending HALT. -/
theorem parkThread_frame {os : List Nat} {s t : State} {e : Fin 8} (h : Frame os { s with gaf := t.gaf } t) (ho : R.Ge_CMD_STAT e ∈ os)
    (n : Fin 16) (why : Park) : Frame os { s with gaf := (t.parkThread e n why).gaf } (t.parkThread e n why) := by
  unfold State.parkThread
  dsimp only
  split
  · exact haltDone_gafFrame (modThr_gafFrame (geFree_gafFrame (modThr_gafFrame h e n _) e) e n _) ho n
  · exact geFree_gafFrame (modThr_gafFrame h e n _) e

theorem parkThread_parked (s : State) (e : Fin 8) (n : Fin 16) (why : Park) :
    let t := s.parkThread e n why
    t.gaf[e].running = none ∧ (t.thr e n).pc = (s.thr e n).pc ∧
      (if (s.thr e n).haltReq then (t.thr e n).state = .halted else (t.thr e n).state = .parked ∧ (t.thr e n).park = why) := by
  unfold State.parkThread
  dsimp only
  split
  case isTrue h =>
    rw [thr_of_gaf (haltDone_gaf _ _ _), thr_modThr_same, thr_geFree, thr_modThr_same]
    exact ⟨(congrArg (fun g : Vector Gaffer 8 => g[e].running) (haltDone_gaf _ _ _)).trans ((running_modThr _ _ _ _).trans (running_geFree _ _)),
      rfl, rfl⟩
  case isFalse h =>
    rw [thr_geFree, thr_modThr_same]
    exact ⟨running_geFree _ _, rfl, rfl, rfl⟩

/-- The thread of a port operation that finds no space parks there. -/
theorem parks_onSpace {s u : State} {e : Fin 8} {n : Fin 16} (hu : u.thr e n = s.thr e n) (of : SpaceOf) :
    parksOnSpace s ((u.modThr e n (fun t => { t with pend := t.pend &&& ~~~(BitVec.ofNat 16 1024) })).parkThread e n (.space of)) e n of := by
  have h := parkThread_parked (u.modThr e n (fun t => { t with pend := t.pend &&& ~~~(BitVec.ofNat 16 1024) })) e n (.space of)
  rw [thr_modThr_same, hu] at h
  exact h

/-! ### Loads and stores -/

/-- The state in which a memory operation has noted whether its address reaches a memory. -/
def State.merrNoted (s : State) (e : Fin 8) (n : Fin 16) (a : Option Nat) : State := s.modThr e n (fun t => { t with merr := a.isNone })

/-- What a load reads. -/
def loaded (m : Tbl Byte) (wide : Bool) (a : Option Nat) : Nat := match a with | none => 0 | some x => memRdN m x (if wide then 5 else 4)

/-- SRAM once a store has stored. -/
def stored (m : Tbl Byte) (wide : Bool) (v : Nat) (a : Option Nat) : Tbl Byte :=
  match a with | none => m | some x => if wide then memWrN m x 8 (v % 2 ^ 40) else memWrN m x 4 (v % 2 ^ 32)

section
variable {s : State} {e : Fin 8} {n : Fin 16} (hsel : mwPsel (wordAt s e n) = 3) {wide : Bool}
include hsel

theorem portOp_load (hpop : mwPop (wordAt s e n) = b2n wide) : s.portOp e n (wordAt s e n) =
    portDone (s.merrNoted e n (s.memAddr e (memEff s e n wide)))
      [(mwf (wordAt s e n) 48 7, loaded s.sram wide (s.memAddr e (memEff s e n wide)))] := by
  simp only [State.portOp, hsel, State.portMem, hpop, State.merrNoted, loaded, memEff]
  cases wide <;> rfl

theorem portOp_store (hpop : mwPop (wordAt s e n) = 2 + b2n wide) : s.portOp e n (wordAt s e n) =
    portDone { s.merrNoted e n (s.memAddr e (memEff s e n wide)) with
      sram := stored s.sram wide (s.rdSpec e n (wordAt s e n) (mwf (wordAt s e n) 48 7)) (s.memAddr e (memEff s e n wide)) } [] := by
  have h0 : ∀ x : Nat, (if (2 + b2n wide) % 2 = 1 then x / 8 * 8 else x / 4 * 4) = if wide then x / 8 * 8 else x / 4 * 4 := by cases wide <;> exact fun _ => rfl
  simp only [State.portOp, hsel, State.portMem, hpop, State.merrNoted, h0]
  rw [if_neg (by omega)]
  simp only [memEff]
  cases s.memAddr e _ <;> cases wide <;> rfl

end

/-! ### ECC at a load -/

/-- What a microword of engine e reads has not changed. -/
structure SameReads (e : Fin 8) (s u : State) : Prop where
  gaf : u.gaf = s.gaf
  spine : u.spine = s.spine
  sram : u.sram = s.sram
  layout : u.layout = s.layout
  lead : u.reg (R.Ge_LEAD e) = s.reg (R.Ge_LEAD e)
  dwin : u.reg (R.Ge_DWIN e) = s.reg (R.Ge_DWIN e)
  takes : u.takesEvents = s.takesEvents

section
variable {e : Fin 8} {s u : State} (h : SameReads e s u)
include h

theorem SameReads.thr (n : Fin 16) : u.thr e n = s.thr e n := thr_of_gaf h.gaf e n

theorem SameReads.csWord (a : Nat) : u.csWord e a = s.csWord e a := by unfold State.csWord; rw [h.gaf]

theorem SameReads.word (n : Fin 16) : wordAt u e n = wordAt s e n := by unfold wordAt; rw [h.csWord, h.thr]

theorem SameReads.mwFault (n : Fin 16) : u.mwFault e n = s.mwFault e n := by simp only [State.mwFault, h.csWord, h.thr]

theorem SameReads.rdSpec (n : Fin 16) (w : BitVec 144) (x : Nat) : u.rdSpec e n w x = s.rdSpec e n w x := by
  have hl : u.rget (F.Ge_LEAD_BUDGET e) = s.rget (F.Ge_LEAD_BUDGET e) := rget_of_reg h.lead
  simp only [State.rdSpec, State.selfWord, State.timeWord, State.now, h.thr, h.gaf, h.spine, hl]

theorem SameReads.memAddr (a : Nat) : u.memAddr e a = s.memAddr e a := by
  simp only [State.memAddr, State.poolRegion, h.dwin, h.layout]

theorem SameReads.effective (n : Fin 16) (wide : Bool) : memEff u e n wide = memEff s e n wide := by
  simp only [memEff, h.word, h.rdSpec]

theorem SameReads.ready {n : Fin 16} {psel pop : Nat} (hr : portReady s e n psel pop) : portReady u e n psel pop := by
  unfold portReady microReady at *
  rw [h.takes, h.gaf, h.thr, h.mwFault, h.word]
  exact hr

end

/-! ### What a load leaves -/

/-- The state in which the running thread's load has completed. -/
def State.loadDone (s : State) (e : Fin 8) (n : Fin 16) (wide : Bool) : State :=
  (s.merrNoted e n (s.memAddr e (memEff s e n wide))).modGaf e
    (Gaffer.ported n [(mwf (wordAt s e n) 48 7, loaded s.sram wide (s.memAddr e (memEff s e n wide)))] none)

section
variable {s : State} {e : Fin 8} {n : Fin 16} {wide : Bool}

theorem issue_load (h : portReady s e n 3 (b2n wide)) :
    s.issue e (isPort 3 (b2n wide)) = s.loadDone e n wide := by
  have hx : exec (loadRow e wide .ok) s = s.event (fun s => s.issue e (isPort 3 (b2n wide))) :=
    (exec_load e wide .ok s).trans (congrArg s.event (funext fun u => issueLoad_ok u e wide))
  have hrun := exec_port h hx (by simp [isPort, h.2.2.1, h.2.2.2.1]) (portOp_load h.2.2.1 h.2.2.2.1)
    (by simpa using mwf7_lt (wordAt s e n) 48) (by simp) nofun
  rw [hx, event_open h.1.1] at hrun
  exact Host.Outcome.next.inj hrun

theorem loadDone_wentOn (h : portReady s e n 3 (b2n wide)) : wentOn s (s.loadDone e n wide) e n :=
  ported_wentOn _ e n _ _ ((running_modThr _ _ _ _).trans h.1.2.1) (by rw [State.merrNoted, thr_modThr_same]) (by rw [State.merrNoted, thr_modThr_same])

theorem loadDone_blocks : State.sameBlocks { s with gaf := (s.loadDone e n wide).gaf } (s.loadDone e n wide) :=
  ported_blocks _ e n _ _ (modThr_blocks s e n _)

theorem loadDone_merr : ((s.loadDone e n wide).thr e n).merr = (s.memAddr e (memEff s e n wide)).isNone := by
  rw [State.loadDone, ported_merr, State.merrNoted, thr_modThr_same]

theorem loadDone_holds : holds (s.loadDone e n wide) e n (mwf (wordAt s e n) 48 7) (loaded s.sram wide (s.memAddr e (memEff s e n wide))) :=
  holds_one _ e n none _ _

theorem loadSite_some (h : portReady s e n 3 (b2n wide)) {a : Nat} (ha : s.memAddr e (memEff s e n wide) = some a) : s.loadSite e wide = some (n, a) := by
  obtain ⟨⟨-, hr, -, hf⟩, -, hs, hp, -⟩ := h
  have hm : (s.memAddr e (memEff s e n wide)).map (fun x => (n, x)) = some (n, a) := by rw [ha]; rfl
  simp only [State.loadSite, hr]
  exact (if_pos ⟨hf, hs, hp⟩).trans hm

/-- A load whose words hold an error: an uncorrectable one faults, a corrected one is counted and the load runs. -/
theorem exec_loadBad (h : portReady s e n 3 (b2n wide)) {a : Nat} (ha : s.memAddr e (memEff s e n wide) = some a) :
    exec (loadRow e wide .bad) s = .next ((s.eccRead .bad a (if wide then 2 else 1)).thFault e n 2 (s.eccOfs a (if wide then 2 else 1))) := by
  rw [exec_load, event_open h.1.1]
  simp only [State.issueLoad, loadSite_some h ha, if_true]

theorem exec_loadCorrected (h : portReady s e n 3 (b2n wide)) {a : Nat} (ha : s.memAddr e (memEff s e n wide) = some a)
    (hr : SameReads e s (s.eccRead .corrected a (if wide then 2 else 1))) :
    exec (loadRow e wide .corrected) s = .next ((s.eccRead .corrected a (if wide then 2 else 1)).loadDone e n wide) := by
  rw [exec_load, event_open h.1.1, ← issue_load (hr.ready h)]
  simp only [State.issueLoad, loadSite_some h ha]
  rfl

/-- The place of an ECC error is one of the words read. -/
theorem eccOfs_word (s : State) (a : Nat) (wide : Bool) : ∃ i, i < 1 + b2n wide ∧ s.eccOfs a (if wide then 2 else 1) = a + 4 * i := by
  cases wide
  · exact ⟨0, by decide, rfl⟩
  · exact ⟨Config.eccWord s.free % 2, Nat.mod_lt _ (by decide), rfl⟩

theorem eccRead_corrected_frame (s : State) (ofs words : Nat) : Frame [R.HL_ECC, R.HL_EVT] s.drawn (s.eccRead .corrected ofs words) :=
  eccCorr_frame (Frame.refl _ _) (by decide) (by decide) _

theorem eccRead_corrected_reads (s : State) (e : Fin 8) (ofs words : Nat) : SameReads e s (s.eccRead .corrected ofs words) := by
  have hf := eccRead_corrected_frame s ofs words
  have hreg : ∀ o, 0x40000 ≤ o → o < 0x50000 → (s.eccRead .corrected ofs words).reg o = s.reg o := fun o hlo hhi =>
    hf.regs o (reportReg_of_page (by omega)) (by
      simp only [List.mem_cons, List.not_mem_nil, or_false, R.HL_ECC, R.HL_EVT]
      omega)
  refine ⟨hf.core.gaf, hf.spine, hf.core.sram, hf.far.2.2.2.2.2.2.2.2.1, hreg _ ?_ ?_, hreg _ ?_ ?_, ?_⟩
  · unfold R.Ge_LEAD; omega
  · unfold R.Ge_LEAD; omega
  · unfold R.Ge_DWIN; omega
  · unfold R.Ge_DWIN; omega
  · have hst : ∀ f : Fld, f.reg = R.PW_STAT ∨ f.reg = R.FRZ_STAT → (s.eccRead .corrected ofs words).rget f = s.rget f := fun f hreg => by
      refine rget_of_reg (hf.regs _ ?_ ?_) <;> obtain h | h := hreg <;> rw [h] <;> decide
    simp only [State.takesEvents, State.powered, State.frozen, State.ron, hst F.PW_STAT_STATE (Or.inl rfl), hst F.FRZ_STAT_REQ_CMD (Or.inr rfl),
      hst F.FRZ_STAT_REQ_BALL (Or.inr rfl)]

end

end Sys2Proof.Machine
end

section
set_option Elab.async false
namespace Sys2Proof.Machine
open Sys2Proof

/-! ### What a store leaves -/

/-- The state in which the running thread's store has completed. -/
def State.storeDone (s : State) (e : Fin 8) (n : Fin 16) (wide : Bool) : State :=
  State.modGaf { s.merrNoted e n (s.memAddr e (memEff s e n wide)) with
      sram := stored s.sram wide (s.rdSpec e n (wordAt s e n) (mwf (wordAt s e n) 48 7)) (s.memAddr e (memEff s e n wide)) } e
    (Gaffer.ported n [] none)

section
variable {s : State} {e : Fin 8} {n : Fin 16} {wide : Bool}

theorem exec_store (h : portReady s e n 3 (2 + b2n wide)) :
    exec (if wide then .mwSt40 e else .mwSt32 e) s = .next (s.storeDone e n wide) := by
  have hx : exec (if wide then .mwSt40 e else .mwSt32 e) s = s.event (fun s => s.issue e (isPort 3 (2 + b2n wide))) := by cases wide <;> rfl
  exact exec_port h hx (by simp [isPort, h.2.2.1, h.2.2.2.1]) (portOp_store h.2.2.1 h.2.2.2.1) (by simp) (by simp) nofun

theorem storeDone_thr : (s.storeDone e n wide).thr e n =
    ((s.merrNoted e n (s.memAddr e (memEff s e n wide))).thr e n).ported none := by
  rw [State.storeDone, ported_plain, thr_modThr_same]
  rfl

theorem merrNoted_thr (a : Option Nat) : (s.merrNoted e n a).thr e n = { s.thr e n with merr := a.isNone } := thr_modThr_same s e n _

theorem merrNoted_running (a : Option Nat) : (s.merrNoted e n a).gaf[e].running = s.gaf[e].running := running_modThr s e n _

theorem merrNoted_at (a : Option Nat) : ((s.merrNoted e n a).thr e n).state = (s.thr e n).state ∧ ((s.merrNoted e n a).thr e n).pc = (s.thr e n).pc := by
  rw [merrNoted_thr]
  exact ⟨rfl, rfl⟩

theorem storeDone_wentOn (h : portReady s e n 3 (2 + b2n wide)) : wentOn s (s.storeDone e n wide) e n :=
  ported_wentOn _ e n _ _ ((merrNoted_running (s.memAddr e (memEff s e n wide))).trans h.1.2.1)
    (merrNoted_at (s.memAddr e (memEff s e n wide))).1 (merrNoted_at (s.memAddr e (memEff s e n wide))).2

theorem storeDone_blocks : State.sameBlocks { s with gaf := (s.storeDone e n wide).gaf, sram := (s.storeDone e n wide).sram } (s.storeDone e n wide) :=
  ⟨far_refl s, rfl, rfl, rfl, rfl, rfl, rfl, rfl⟩

theorem storeDone_sram : (s.storeDone e n wide).sram =
    stored s.sram wide (s.rdSpec e n (wordAt s e n) (mwf (wordAt s e n) 48 7)) (s.memAddr e (memEff s e n wide)) := rfl

end

/-- What a store has written, and the bytes outside it. -/
theorem stored_at (m : Tbl Byte) (wide : Bool) (v a : Nat) :
    memRdN (stored m wide v (some a)) a (if wide then 8 else 4) = v % 2 ^ (if wide then 40 else 32) ∧
      ∀ b, (b < a ∨ a + (if wide then 8 else 4) ≤ b) → memRd (stored m wide v (some a)) b = memRd m b := by
  cases wide
  · exact ⟨(memRdN_wrN m a 4 _).trans (Nat.mod_eq_of_lt (Nat.mod_lt _ (by decide))), fun b hb => memRd_wrN_out _ _ _ _ hb⟩
  · exact ⟨(memRdN_wrN m a 8 _).trans (Nat.mod_eq_of_lt ((Nat.mod_lt _ (by decide)).trans (by decide))), fun b hb => memRd_wrN_out _ _ _ _ hb⟩

/-! ### What an uncorrectable error leaves -/

theorem loadBad_faults (s : State) (e : Fin 8) (n : Fin 16) (a words : Nat) {ofs : Nat} (ho : s.eccOfs a words = ofs) :
    let t := (s.eccRead .bad a words).thFault e n 2 (s.eccOfs a words)
    (t.thr e n).state = .fault ∧ (t.thr e n).pc = (s.thr e n).pc ∧ t.gaf[e].running = none ∧
    (t.thr e n).p = (s.thr e n).p ∧ t.gaf[e].sreg = s.gaf[e].sreg ∧ t.rget (F.Ge_FAULT_KIND e) = 2 ∧
    t.rget (F.Ge_FAULT_PC e) = (s.thr e n).pc.toNat ∧ t.rget (F.Ge_FAULT_THR e) = n.val ∧ t.ron (F.Ge_EVT_FAULT_S e) = true ∧
    countedOne s t (F.Ge_PARCNT_ECC e) ∧ countedOne s t F.HL_ECC_UNCORR ∧ t.reg R.HL_ECCADDR = word ofs ∧
    t.ron F.HL_EVT_ECC_U_S = true ∧ s.sameFar t := by
  intro t
  have hf : Frame eccRegs s.drawn (s.eccRead .bad a words) := eccBad_frame (Frame.refl _ _) (fun _ h => h) _ _
  obtain ⟨h1, h2, h3, h4, h5, -, h7, h8, h9, h10⟩ := thFault_shown (s.eccRead .bad a words) e n (by decide : 2 < 16) (s.eccOfs a words)
  obtain ⟨c1, c2, c3, -⟩ := eccBad_shows s.drawn false (s.eccOfs a words)
  have hthr : (s.eccRead .bad a words).thr e n = s.thr e n := thr_of_gaf hf.core.gaf e n
  have hout : ∀ o ∈ eccRegs, t.reg o = (s.eccRead .bad a words).reg o := by
    intro o ho
    refine thFault_regs _ e n 2 _ o (?_) ?_
    · simp only [eccRegs, List.mem_cons, List.not_mem_nil, or_false] at ho
      obtain rfl | rfl | rfl := ho <;> decide
    · simp only [eccRegs, List.mem_cons, List.not_mem_nil, or_false, R.HL_ECC, R.HL_ECCADDR, R.HL_EVT] at ho
      simp only [faultRegs, List.mem_cons, List.not_mem_nil, or_false, R.Ge_CMD_STAT, R.Ge_FLTMASK, R.Ge_FAULT, R.Ge_PARCNT, R.Ge_EVT]
      omega
  rw [hthr] at h2 h3 h7
  refine ⟨h1, h2, h5, h3, h4.trans (congrArg (fun g : Vector Gaffer 8 => g[e].sreg) hf.core.gaf), h8, h7, h9, h10, ?_, ?_, ?_, ?_, ?_⟩
  · have hp := (faultNoted_fields (s.eccRead .bad a words) e n (by decide : 2 < 16)).2.2.2.2 rfl
    have hreg : (s.eccRead .bad a words).rget (F.Ge_PARCNT_ECC e) = s.rget (F.Ge_PARCNT_ECC e) := rget_of_reg (hf.regs _ (faultPage (e := e) (by
      simp [faultRegs, F.Ge_PARCNT_ECC])) (by
      simp only [eccRegs, List.mem_cons, List.not_mem_nil, or_false, R.HL_ECC, R.HL_ECCADDR, R.HL_EVT, F.Ge_PARCNT_ECC, R.Ge_PARCNT]
      omega))
    rw [hreg] at hp
    exact (thFault_rget (faultPage (e := e) (by simp [faultRegs, F.Ge_PARCNT_ECC])) (by
      simp only [F.Ge_PARCNT_ECC, R.Ge_PARCNT, R.Ge_EVT]; omega)).trans hp
  · exact (rget_of_reg (hout R.HL_ECC (by decide))).trans c1
  · rw [hout _ (by decide), ← ho]
    exact c2
  · exact (ron_of_reg (hout R.HL_EVT (by decide))).trans c3
  · exact thFault_far _ e n 2 _ hf.far

/-! ### REC -/

def State.setRecres (s : State) (e : Fin 8) (n : Fin 16) (v : BitVec 4) : State := s.modThr e n (fun t => { t with recres := v })

theorem rget_of_regs {s u : State} (h : u.regs = s.regs) (f : Fld) : u.rget f = s.rget f :=
  rget_of_reg (congrArg (fun r => tblGet resetWord r f.reg) h)

theorem eventRing_of_regs {s u : State} (h : u.regs = s.regs) (r : Nat) : u.eventRing r = s.eventRing r := by
  simp only [State.eventRing, State.ron, rget_of_regs h]

/-- What parks a thread leaves channels, SRAM and the records that wait. -/
theorem parkThread_rest (s : State) (e : Fin 8) (n : Fin 16) (why : Park) :
    (s.parkThread e n why).ch = s.ch ∧ (s.parkThread e n why).sram = s.sram ∧ (s.parkThread e n why).recq = s.recq := by
  unfold State.parkThread State.haltDone
  dsimp only
  split
  · split <;> exact ⟨rfl, rfl, rfl⟩
  · exact ⟨rfl, rfl, rfl⟩

/-- The channel that REC names. -/
def recSrc (s : State) (e : Fin 8) (n : Fin 16) : Fin 96 :=
  chanOf e (if n.val < 12 then ⟨n.val % 12, by omega⟩ else mwLocal (mwf (wordAt s e n) 50 4) n)

/-- The state in which REC has sent its record. -/
def State.recSent (s : State) (e : Fin 8) (n : Fin 16) : State :=
  let w := wordAt s e n
  let c := recSrc s e n
  let type := 0x30 + mwf w 54 4
  let rd (lo : Nat) : Word := word (s.rdSpec e n w (mwf w lo 7))
  (s.recordKick type c).emitTo (s.routeOf c type) type c (if mwf w 21 1 = 1 then s.wholeTime (s.rdSpec e n w (mwf w 14 7)) else s.now) 0
    (rd 43) (rd 36) (rd 29) (rd 22)

section
variable {s : State} {e : Fin 8} {n : Fin 16}

theorem portOp_rec (hsel : mwPsel (wordAt s e n) = 4) : s.portOp e n (wordAt s e n) =
    if s.atCeil then if mwNw (wordAt s e n) then portDone (s.setRecres e n 1) [] else ⟨s, [], some .writer, none⟩
    else portDone ((s.recSent e n).setRecres e n 0) [] := by
  simp only [State.portOp, hsel]
  rfl

theorem setRecres_wentOn {u : State} (hr : s.gaf[e].running = some n) (hg : u.gaf = s.gaf) (v : BitVec 4) :
    wentOn s ((u.setRecres e n v).modGaf e (Gaffer.ported n [] none)) e n := by
  refine ported_wentOn _ e n _ _ ((running_modThr u e n _).trans ((congrArg (fun g : Vector Gaffer 8 => g[e].running) hg).trans hr)) ?_ ?_
  all_goals
    rw [State.setRecres, thr_modThr_same, thr_of_gaf hg]

theorem recSent_far (s : State) (e : Fin 8) (n : Fin 16) : Far s (s.recSent e n) := emitTo_far _ _ _ _ _ _ _ _ _ _ (recordKick_far s _ _ (far_refl s))

theorem recSent_same (s : State) (e : Fin 8) (n : Fin 16) : (s.recSent e n).gaf = s.gaf ∧ (s.recSent e n).ch = s.ch ∧ (s.recSent e n).sram = s.sram := by
  have h := emitTo_core (s.recordKick (0x30 + mwf (wordAt s e n) 54 4) (recSrc s e n)) (s.routeOf (recSrc s e n) (0x30 + mwf (wordAt s e n) 54 4))
    (0x30 + mwf (wordAt s e n) 54 4) (recSrc s e n)
    (if mwf (wordAt s e n) 21 1 = 1 then s.wholeTime (s.rdSpec e n (wordAt s e n) (mwf (wordAt s e n) 14 7)) else s.now) 0
    (word (s.rdSpec e n (wordAt s e n) (mwf (wordAt s e n) 43 7))) (word (s.rdSpec e n (wordAt s e n) (mwf (wordAt s e n) 36 7)))
    (word (s.rdSpec e n (wordAt s e n) (mwf (wordAt s e n) 29 7))) (word (s.rdSpec e n (wordAt s e n) (mwf (wordAt s e n) 22 7)))
    (recordKick_core s _ _ (core_refl s))
  exact ⟨h.gaf, h.ch, h.sram⟩

theorem recSent_taken {r : Nat} (hr : s.routeOf (recSrc s e n) (0x30 + mwf (wordAt s e n) 54 4) = some r) (hring : s.eventRing r = true) :
    (s.recSent e n).recq = s.recq ++ [⟨0x30 + mwf (wordAt s e n) 54 4, recSrc s e n, s.nextSeq (recSrc s e n),
      if mwf (wordAt s e n) 21 1 = 1 then s.wholeTime (s.rdSpec e n (wordAt s e n) (mwf (wordAt s e n) 14 7)) else s.now, 0,
      word (s.rdSpec e n (wordAt s e n) (mwf (wordAt s e n) 43 7)), word (s.rdSpec e n (wordAt s e n) (mwf (wordAt s e n) 36 7)),
      word (s.rdSpec e n (wordAt s e n) (mwf (wordAt s e n) 29 7)), word (s.rdSpec e n (wordAt s e n) (mwf (wordAt s e n) 22 7)), r⟩] := by
  obtain ⟨hregs, hq, hseq, -⟩ := recordKick_same s (0x30 + mwf (wordAt s e n) 54 4) (recSrc s e n)
  unfold State.recSent
  dsimp only
  rw [hr, emitTo_taken ((eventRing_of_regs hregs r).trans hring), hq]
  simp only [State.nextSeq, hseq]

theorem recSent_discards (hno : s.routeOf (recSrc s e n) (0x30 + mwf (wordAt s e n) 54 4) = none ∨
      ∃ r, s.routeOf (recSrc s e n) (0x30 + mwf (wordAt s e n) 54 4) = some r ∧ s.eventRing r = false) :
    (s.recSent e n).recq = s.recq ∧ countedOne s (s.recSent e n) F.EC_DISCARD_CNT := by
  obtain ⟨hregs, hq, -⟩ := recordKick_same s (0x30 + mwf (wordAt s e n) 54 4) (recSrc s e n)
  unfold State.recSent
  dsimp only
  rw [emitTo_discards (hno.imp id fun ⟨r, hr, he⟩ => ⟨r, hr, (eventRing_of_regs hregs r).trans he⟩)]
  obtain ⟨h1, h2⟩ := discard_counts (s.recordKick (0x30 + mwf (wordAt s e n) 54 4) (recSrc s e n))
  refine ⟨h2.trans hq, h1.trans ?_⟩
  rw [rget_of_regs hregs]

end

end Sys2Proof.Machine
end

section
set_option Elab.async false
namespace Sys2Proof
open Sys2Proof.Machine

/-- REC at the writer's ceiling: it fails at once where it may not wait, and parks its thread otherwise. -/
theorem recRow_atCeiling {s : State} {e : Fin 8} {n : Fin 16} (h : portReady s e n 4 (mwPop (wordAt s e n))) (hc : s.atCeil = true) :
    ∃ t, exec (.mwRec e) s = .next t ∧ s.sameFar t ∧ t.ch = s.ch ∧ t.sram = s.sram ∧ t.recq = s.recq ∧
      (mwNw (wordAt s e n) = true → wentOn s t e n ∧ (t.thr e n).recres = 1) ∧ (mwNw (wordAt s e n) = false → parksOnSpace s t e n .writer) := by
  have hx : exec (.mwRec e) s = s.event (fun s => s.issue e (fun w => mwPsel w = 4)) := rfl
  have hn : decide (mwPsel (wordAt s e n) = 4) = true := decide_eq_true h.2.2.1
  by_cases hnw : mwNw (wordAt s e n) = true
  · have hp : s.portOp e n (wordAt s e n) = portDone (s.setRecres e n 1) [] := by rw [portOp_rec h.2.2.1, if_pos hc, if_pos hnw]
    refine ⟨_, exec_port h hx hn hp (by simp) (by simp) nofun, far_refl s, rfl, rfl, rfl, fun _ => ⟨?_, ?_⟩, fun hf => ?_⟩
    · exact setRecres_wentOn (u := s) h.1.2.1 rfl 1
    · rw [ported_recres, State.setRecres, thr_modThr_same]
    · cases hnw.symm.trans hf
  · have hp : s.portOp e n (wordAt s e n) = ⟨s, [], some .writer, none⟩ := by rw [portOp_rec h.2.2.1, if_pos hc, if_neg hnw]
    have hk := exec_port_parks h hx hn (of := .writer) (by rw [hp])
    rw [hp] at hk
    have hch := parkThread_rest (s.modThr e n (fun t => { t with pend := t.pend &&& ~~~(BitVec.ofNat 16 1024) })) e n (.space .writer)
    exact ⟨_, hk, parkThread_far _ e n _ (modThr_far s e n _ (far_refl s)), hch.1, hch.2.1, hch.2.2, fun hf => absurd hf hnw,
      fun _ => parks_onSpace rfl .writer⟩

/-- REC below the writer's ceiling sends its record. -/
theorem recRow_sends {s : State} {e : Fin 8} {n : Fin 16} (h : portReady s e n 4 (mwPop (wordAt s e n))) (hc : ¬ s.atCeil = true) :
    ∃ t, exec (.mwRec e) s = .next t ∧ s.sameFar t ∧ t.ch = s.ch ∧ t.sram = s.sram ∧ wentOn s t e n ∧ (t.thr e n).recres = 0 ∧
      t.recq = (s.recSent e n).recq ∧ t.regs = (s.recSent e n).regs := by
  have hp : s.portOp e n (wordAt s e n) = portDone ((s.recSent e n).setRecres e n 0) [] := by rw [portOp_rec h.2.2.1, if_neg hc]
  have hn : decide (mwPsel (wordAt s e n) = 4) = true := decide_eq_true h.2.2.1
  have hs := recSent_same s e n
  refine ⟨_, exec_port h (i := .mwRec e) rfl hn hp (by simp) (by simp) nofun, ported_far _ e n _ _ (modThr_far _ e n _ (recSent_far s e n)), hs.2.1, hs.2.2,
    setRecres_wentOn h.1.2.1 hs.1 0, ?_, rfl, rfl⟩
  rw [ported_recres, State.setRecres, thr_modThr_same]

/-- Settles O28: what a load, a store and REC leave, with the reports of ECC. -/
theorem memoryAndRecordRowsRun : Obligations.MemoryAndRecordRowsRun := by
  intro e n s w d rd
  refine ⟨fun wide h => ?_, fun wide ecc h => ?_, fun wide a h ha => ⟨?_, ?_⟩, fun wide h => ?_, fun h hsp hsel ha hs hsafe => ?_⟩
  · have hx : exec (loadRow e wide .ok) s = .next (s.loadDone e n wide) := by
      rw [exec_load, event_open h.1.1, issueLoad_ok]
      exact congrArg Host.Outcome.next (issue_load h)
    refine ⟨_, hx, loadDone_wentOn h, fun _ => rfl, loadDone_blocks, fun a ha => ?_, fun ha => ?_⟩
    all_goals
      have hm := loadDone_merr (s := s) (e := e) (n := n) (wide := wide)
      have hv := loadDone_holds (s := s) (e := e) (n := n) (wide := wide)
      rw [ha] at hm hv
      exact ⟨hm, hv⟩
  · rw [exec_load, exec_load]
    simp only [State.event, State.issueLoad, h]
  · obtain ⟨i, hi, hofs⟩ := eccOfs_word s a wide
    exact ⟨_, exec_loadBad h ha, i, hi, loadBad_faults s e n a (if wide then 2 else 1) hofs⟩
  · have hf := eccRead_corrected_frame s a (if wide then 2 else 1)
    have hr := eccRead_corrected_reads s e a (if wide then 2 else 1)
    have hs := eccCorr_shows s.drawn (s.eccOfs a (if wide then 2 else 1))
    have hm := loadDone_merr (s := s.eccRead .corrected a (if wide then 2 else 1)) (e := e) (n := n) (wide := wide)
    have hv := loadDone_holds (s := s.eccRead .corrected a (if wide then 2 else 1)) (e := e) (n := n) (wide := wide)
    have hw := loadDone_wentOn (hr.ready h)
    simp only [hr.memAddr, hr.effective, hr.word, hr.sram, ha] at hm hv
    refine ⟨_, exec_loadCorrected h ha hr, ?_, hm, hv, hs.1, hs.2, hf.regs, ?_⟩
    · unfold wentOn at hw ⊢
      rwa [hr.thr] at hw
    · obtain ⟨hfar, hch, -, hory, hconv, hsbuf, hsram, -⟩ := hf.blocks
      exact ⟨hfar, hch, rfl, hory, hconv, hsbuf, hsram, rfl⟩
  · refine ⟨_, exec_store h, storeDone_wentOn h, fun _ => rfl, storeDone_blocks, ?_, fun a ha => ?_, fun ha => ?_⟩
    · rw [storeDone_thr, State.merrNoted, thr_modThr_same]
      rfl
    all_goals
      rw [storeDone_thr, State.merrNoted, thr_modThr_same, storeDone_sram, ha]
    · exact ⟨rfl, stored_at _ wide _ a⟩
    · exact ⟨rfl, rfl⟩
  · have hrdy : portReady s e n 4 (mwPop w) := ⟨h, hsp, hsel, rfl, ha, hs, hsafe⟩
    by_cases hc : s.atCeil = true
    · obtain ⟨t, hx, h1, h2, h3, h4, h5⟩ := recRow_atCeiling hrdy hc
      exact ⟨t, hx, h1, h2, h3, fun _ => ⟨h4, h5⟩, fun hf => by cases hc.symm.trans hf⟩
    · obtain ⟨t, hx, h1, h2, h3, h4, h5, h6, h7⟩ := recRow_sends hrdy hc
      refine ⟨t, hx, h1, h2, h3, fun hf => absurd hf hc, fun _ => ⟨h4, h5, fun r hr hring => h6.trans (recSent_taken hr hring), fun hno => ?_⟩⟩
      obtain ⟨hd1, hd2⟩ := recSent_discards hno
      exact ⟨h6.trans hd1, (rget_of_regs h7 _).trans hd2⟩

end Sys2Proof
end

section
/-!
SUPPORT. Host writes of a register (R293, R305 to R311): where a row's write goes, and what the write of a register's fields leaves.
-/
set_option Elab.async false
namespace Sys2Proof.Machine
open Sys2Proof

/-- A full write of a register by a host takes effect as the register's page says. -/
theorem exec_fullWrite {p : Path} {a v : Word} {o : Nat} {s : State} (hw : s.takesWrites = true) (hsite : siteOf p a.toNat = .reg o)
    (h1 : o ≠ R.PW_CMD) (h2 : o ≠ R.FRZ_CMD) (h3 : o ≠ R.CFG_CMD) :
    exec (.registerWrite p a v true) s = .next (s.writeReg p o v) := by
  show Host.Outcome.next (s.writeAt p a.toNat v true) = _
  unfold State.writeAt State.hostReg
  rw [hsite]
  dsimp only
  rw [if_pos rfl, if_neg h1, if_neg h2, if_neg fun h => h3 h.1, hostWrite_open hw]

/-- The state in which the written word stands in the active and in the staged fields, and nothing else. -/
theorem fieldsWrite_frame {os : List Nat} {s : State} {o : Nat} (hl : s.lockedBits o = 0) (ho : o ∈ os) (hg : R.GL_CFGGEN ∈ os) (p : Path) (v : Word) :
    Frame os { s with staged := (s.fieldsWrite p o v).staged } (s.fieldsWrite p o v) := by
  unfold State.fieldsWrite
  cases descAt o with
  | none => exact Frame.refl _ _
  | some r =>
    dsimp only
    rw [hl, Nat.and_zero, if_pos rfl]
    have h : Frame os s (s.cfgWrite o (fun x => x.setReg o (s.mergeWord o 0 (s.reg o) v false r.fields))) :=
      cfgWrite_frame ((Frame.refl os s).setReg _ ho) hg
    split
    · exact ⟨h.regs, ⟨rfl, h.far.2⟩, h.core⟩
    · exact ⟨h.regs, ⟨rfl, h.far.2⟩, h.core⟩

/-- A register that the write does not name, the configuration count apart, is as it was. -/
theorem fieldsWrite_rget {s : State} {o : Nat} (hl : s.lockedBits o = 0) (p : Path) (v : Word) {f : Fld} (hr : reportReg f.reg = false)
    (ho : f.reg ≠ o) (hg : f.reg ≠ R.GL_CFGGEN) : (s.fieldsWrite p o v).rget f = s.rget f :=
  rget_of_reg ((fieldsWrite_frame (os := [o, R.GL_CFGGEN]) hl (by simp) (by simp) p v).regs _ hr (by simp [ho, hg]))

end Sys2Proof.Machine
end

section
/-!
SUPPORT. The rail sequencer (R365 to R368): its bits, its records, and what each of its operations leaves.
-/
set_option Elab.async false
namespace Sys2Proof.Machine
open Sys2Proof

/-! ### Bits of a byte -/

theorem setBit8_eq (m : BitVec 8) (r : Fin 8) (b : Bool) :
    setBit8 m r b = (m &&& ~~~BitVec.twoPow 8 r) ||| (if b then BitVec.twoPow 8 r else 0) := by
  have hp : (BitVec.twoPow 8 r).toNat = 2 ^ r.val := BitVec.toNat_twoPow_of_lt r.isLt
  have hd : (m &&& ~~~BitVec.twoPow 8 r) &&& (if b then BitVec.twoPow 8 r else 0) = 0#8 := by
    cases b
    · simp
    · ext i hi; cases h : (BitVec.twoPow 8 r.val)[i] <;> simp [h]
  have hle : (if m.getLsbD r then 2 ^ r.val else 0) ≤ m.toNat := by
    split
    case isTrue h => exact Nat.ge_two_pow_of_testBit (by rwa [BitVec.testBit_toNat])
    case isFalse => exact Nat.zero_le _
  rw [← BitVec.add_eq_or_of_and_eq_zero _ _ hd, and_not_eq_sub_and, BitVec.and_twoPow]
  refine BitVec.eq_of_toNat_eq ?_
  unfold setBit8 bitAt
  rw [nbit_toNat, BitVec.toNat_ofNat, BitVec.toNat_add]
  congr 2
  · split
    case isTrue h =>
      rw [if_pos h] at hle
      rw [BitVec.toNat_sub_of_le (by rwa [BitVec.le_def, hp]), hp]
    case isFalse h => simp
  · cases b
    · rfl
    · exact hp.symm

/-- A byte with one bit given a value: that bit, and every other as it was. -/
theorem nbit_setBit8 (m : BitVec 8) (r x : Fin 8) (b : Bool) : nbit (setBit8 m r b).toNat x = if x = r then b else nbit m.toNat x := by
  rw [nbit_toNat, nbit_toNat, setBit8_eq]
  by_cases h : x = r
  · subst h
    cases b <;> simp
  · have hne : ¬ x.val = r.val := fun he => h (Fin.ext he)
    cases b <;> simp [h, hne]

/-! ### Bits of the sequencer's status -/

section
variable (s : State) (r : Fin 8) (b : Bool)

theorem rget_psqSet_same {f : Fld} (hf : f.lo + f.width ≤ 32) (hw : f.width = 8) : (s.psqSet f r b).rget f = (setBit8 (BitVec.ofNat 8 (s.rget f)) r b).toNat := by
  rw [State.psqSet, rget_rput_same _ _ _ hf, hw]
  exact Nat.mod_eq_of_lt (setBit8 _ _ _).isLt

theorem psqBit_psqSet_same {f : Fld} (hf : f.lo + f.width ≤ 32) (hw : f.width = 8) (x : Fin 8) :
    (s.psqSet f r b).psqBit f x = if x = r then b else s.psqBit f x := by
  have hlt : s.rget f < 2 ^ 8 := hw ▸ rget_lt s f
  rw [State.psqBit, rget_psqSet_same s r b hf hw, nbit_setBit8, BitVec.toNat_ofNat, Nat.mod_eq_of_lt hlt]
  rfl

end

theorem psqSet_seq (s : State) (f : Fld) (r : Fin 8) (b : Bool) : (s.psqSet f r b).psq.seq = s.psq.seq := rfl

theorem rget_modPsq (s : State) (f : Psq → Psq) (g : Fld) : (s.modPsq f).rget g = s.rget g := rfl

theorem psqBit_modPsq (s : State) (f : Psq → Psq) (g : Fld) (x : Nat) : (s.modPsq f).psqBit g x = s.psqBit g x := rfl

/-- Two states whose rail status, but for one field, is the same. -/
def sameStatBut (f : Fld) (s t : State) : Prop :=
  ∀ g ∈ [F.PSQ_STAT_ON, F.PSQ_STAT_PG, F.PSQ_STAT_FLT], g ≠ f → t.rget g = s.rget g

theorem psqSet_sameStat (s : State) {f : Fld} (hm : f ∈ [F.PSQ_STAT_ON, F.PSQ_STAT_PG, F.PSQ_STAT_FLT]) (r : Fin 8) (b : Bool) :
    sameStatBut f s (s.psqSet f r b) := by
  intro g hg hne
  have hall : ∀ f ∈ [F.PSQ_STAT_ON, F.PSQ_STAT_PG, F.PSQ_STAT_FLT], ∀ g ∈ [F.PSQ_STAT_ON, F.PSQ_STAT_PG, F.PSQ_STAT_FLT], g ≠ f →
      f.lo + f.width ≤ 32 ∧ g.reg = f.reg ∧ (g.lo + g.width ≤ f.lo ∨ f.lo + f.width ≤ g.lo) := by decide
  obtain ⟨h1, h2, h3⟩ := hall f hm g hg hne
  exact rget_rput_apart s _ h1 h2 h3

/-! ### Frames -/

/-- The registers that the sequencer writes. -/
def psqRegs : List Nat := [R.PSQ_STAT, R.PW_EVT]

/-- Only the sequencer, its status and the event bits of its page have changed. -/
def PsqFrame (s t : State) : Prop := Frame psqRegs { s with psq := t.psq } t

theorem Far.psq {s t : State} (h : Far s t) : t.psq = s.psq :=
  h.2.2.2.2.2.2.2.2.2.2.2.2.2.2.2.2.2.2.2.2.1

theorem PsqFrame.refl (s : State) : PsqFrame s s := Frame.refl _ _

/-- A chain of writes and reports that leaves the sequencer's own state goes on from a frame. -/
theorem PsqFrame.on {s t u : State} (h : PsqFrame s t) (hu : Frame psqRegs t u) : PsqFrame s u := by
  have hp : u.psq = t.psq := hu.far.psq
  unfold PsqFrame
  rw [hp]
  exact h.trans hu

theorem PsqFrame.modPsq {s t : State} (h : PsqFrame s t) (f : Psq → Psq) : PsqFrame s (t.modPsq f) := by
  obtain ⟨hr, ⟨h1, h2, h3, h4, h5, h6, h7, h8, h9, h10, h11, h12, h13, h14, h15, h16, h17, h18, h19, h20, -, hrest⟩, hc⟩ := h
  exact ⟨hr, ⟨h1, h2, h3, h4, h5, h6, h7, h8, h9, h10, h11, h12, h13, h14, h15, h16, h17, h18, h19, h20, rfl, hrest⟩, hc⟩

theorem PsqFrame.psqSet {s t : State} (h : PsqFrame s t) {f : Fld} (hf : f.reg = R.PSQ_STAT) (r : Fin 8) (b : Bool) : PsqFrame s (t.psqSet f r b) :=
  h.on ((Frame.refl _ t).rput _ (by rw [hf]; decide))

theorem PsqFrame.evt {s t : State} (h : PsqFrame s t) {f : Fld} (hf : f.reg = R.PW_EVT) : PsqFrame s (t.evt f) :=
  h.on ((Frame.refl _ t).evt (by rw [hf]; decide))

theorem psqEvent_frame (s : State) (r : Fin 8) (kind : Nat) : Frame psqRegs s (s.psqEvent r kind) := (Frame.refl _ s).emit _ _ _ _ _ _ _ _

theorem PsqFrame.psqEvent {s t : State} (h : PsqFrame s t) (r : Fin 8) (kind : Nat) : PsqFrame s (t.psqEvent r kind) := h.on (psqEvent_frame t r kind)

theorem PsqFrame.psqDone {s t : State} (h : PsqFrame s t) (r : Fin 8) (kind : Nat) : PsqFrame s (t.psqDone r kind) :=
  ((h.modPsq _).evt rfl).psqEvent r kind

theorem PsqFrame.railTaken {s t : State} (h : PsqFrame s t) (r : Fin 8) : PsqFrame s (t.railTaken r) := h.modPsq _

theorem PsqFrame.railAssert {s t : State} (h : PsqFrame s t) (r : Fin 8) : PsqFrame s (t.railAssert r) := by
  unfold State.railAssert
  split
  · exact h
  · exact ((h.psqSet rfl r true).modPsq _).psqEvent r _

theorem PsqFrame.railDeassert {s t : State} (h : PsqFrame s t) (r : Fin 8) : PsqFrame s (t.railDeassert r) := by
  unfold State.railDeassert
  split
  · exact ((h.psqSet rfl r false).modPsq _).psqEvent r _
  · exact h

theorem PsqFrame.upCheck {s t : State} (h : PsqFrame s t) (r : Fin 8) : PsqFrame s (t.upCheck r) := by
  unfold State.upCheck
  split
  · split
    · exact h.psqDone r _
    · exact h
  · exact h

/-! ### Status after an operation -/

/-- The status fields of the rails are those of another state. -/
def SameStat (s t : State) : Prop := t.reg R.PSQ_STAT = s.reg R.PSQ_STAT

theorem SameStat.rget {s t : State} (h : SameStat s t) {f : Fld} (hf : f.reg = R.PSQ_STAT) : t.rget f = s.rget f := rget_of_reg (by rw [hf]; exact h)

theorem SameStat.bit {s t : State} (h : SameStat s t) {f : Fld} (hf : f.reg = R.PSQ_STAT) (x : Nat) : t.psqBit f x = s.psqBit f x :=
  congrArg (fun v => nbit v x) (h.rget hf)

theorem psqEvent_sameStat (s : State) (r : Fin 8) (kind : Nat) : SameStat s (s.psqEvent r kind) := reg_emit _ _ _ _ _ _ _ _ _ (by decide)

theorem psqEvent_psq (s : State) (r : Fin 8) (kind : Nat) : (s.psqEvent r kind).psq = s.psq := (psqEvent_frame s r kind).far.psq

theorem psqDone_shows (s : State) (r : Fin 8) (kind : Nat) :
    SameStat s (s.psqDone r kind) ∧ (s.psqDone r kind).psq = { s.psq with seq := none } ∧ (s.psqDone r kind).ron F.PW_EVT_PSEQ_DONE_S = true :=
  ⟨(psqEvent_sameStat _ r kind).trans (reg_evt _ _ (by decide) (by decide)),
    (psqEvent_psq _ r kind).trans ((Frame.refl [R.PW_EVT] (s.modPsq (fun q => { q with seq := none }))).evt (f := F.PW_EVT_PSEQ_DONE_S) (by decide)).far.psq,
    (ron_of_rget_eq (rget_emit _ _ _ _ _ _ _ _ _ (by decide))).trans (ron_evt _ _ rfl (by decide) (by decide))⟩

theorem upCheck_shows (s : State) (r : Fin 8) :
    SameStat s (s.upCheck r) ∧ (s.upCheck r).psq.wasGood = s.psq.wasGood ∧ ((s.upCheck r).psq.seq = none ∨ (s.upCheck r).psq.seq = s.psq.seq) := by
  unfold State.upCheck
  split
  · split
    · obtain ⟨h1, h2, -⟩ := psqDone_shows s r pqUpDone
      rw [h2]
      exact ⟨h1, rfl, Or.inl rfl⟩
    · exact ⟨rfl, rfl, Or.inr rfl⟩
  · exact ⟨rfl, rfl, Or.inr rfl⟩

/-- A rail's output once it is asserted; the sequence goes on. -/
theorem railAssert_shows (s : State) (r : Fin 8) :
    (∀ x : Fin 8, (s.railAssert r).psqBit F.PSQ_STAT_ON x = if x = r then true else s.psqBit F.PSQ_STAT_ON x) ∧
      sameStatBut F.PSQ_STAT_ON s (s.railAssert r) ∧ (s.railAssert r).psq.seq = s.psq.seq := by
  unfold State.railAssert
  split
  case isTrue h =>
    refine ⟨fun x => ?_, fun _ _ _ => rfl, rfl⟩
    split
    case isTrue hx => rw [hx]; exact h
    case isFalse => rfl
  case isFalse =>
    have hs := psqEvent_sameStat ((s.psqSet F.PSQ_STAT_ON r true).modPsq (fun q =>
      { q with onAt := q.onAt.set r s.now, wasGood := setBit8 q.wasGood r (s.psqBit F.PSQ_STAT_PG r), timedOut := setBit8 q.timedOut r false })) r pqRailOn
    refine ⟨fun x => (hs.bit rfl x).trans (psqBit_psqSet_same s r true (by decide) rfl x), fun g hg hne => ?_, ?_⟩
    · have hreg : g.reg = R.PSQ_STAT := by
        simp only [List.mem_cons, List.not_mem_nil, or_false] at hg
        obtain rfl | rfl | rfl := hg <;> rfl
      exact (hs.rget hreg).trans (psqSet_sameStat s (by decide) r true g hg hne)
    · rw [psqEvent_psq]
      rfl

theorem railDeassert_shows (s : State) (r : Fin 8) :
    (∀ x : Fin 8, (s.railDeassert r).psqBit F.PSQ_STAT_ON x = if x = r then false else s.psqBit F.PSQ_STAT_ON x) ∧
      sameStatBut F.PSQ_STAT_ON s (s.railDeassert r) ∧ (s.railDeassert r).psq.seq = s.psq.seq ∧ (s.railDeassert r).psq.timedOut = s.psq.timedOut ∧
      ∀ o, reportReg o = false → o ≠ R.PSQ_STAT → (s.railDeassert r).reg o = s.reg o := by
  unfold State.railDeassert
  split
  case isFalse h =>
    refine ⟨fun x => ?_, fun _ _ _ => rfl, rfl, rfl, fun _ _ _ => rfl⟩
    split
    case isTrue hx => rw [hx]; exact Bool.eq_false_iff.2 h
    case isFalse => rfl
  case isTrue =>
    have hs := psqEvent_sameStat ((s.psqSet F.PSQ_STAT_ON r false).modPsq (fun q => { q with wasGood := setBit8 q.wasGood r false })) r pqRailOff
    refine ⟨fun x => (hs.bit rfl x).trans (psqBit_psqSet_same s r false (by decide) rfl x), fun g hg hne => ?_, ?_, ?_, fun o hr ho => ?_⟩
    · have hreg : g.reg = R.PSQ_STAT := by
        simp only [List.mem_cons, List.not_mem_nil, or_false] at hg
        obtain rfl | rfl | rfl := hg <;> rfl
      exact (hs.rget hreg).trans (psqSet_sameStat s (by decide) r false g hg hne)
    · rw [psqEvent_psq]
      rfl
    · rw [psqEvent_psq]
      rfl
    · exact (reg_emit _ _ _ _ _ _ _ _ _ hr).trans (reg_rput_ne _ _ ho)

end Sys2Proof.Machine
end

section
/-!
SUPPORT. Faults of a rail, and the commands of the sequencer (R365, R366).
-/
set_option Elab.async false
namespace Sys2Proof.Machine
open Sys2Proof

/-! ### What a fault reads -/

theorem tickInc_congr {s t : State} (hs : t.spine = s.spine) (hr : t.reg R.SPN_RATE = s.reg R.SPN_RATE) : t.tickInc = s.tickInc := by
  simp only [State.tickInc, State.rateEff, State.rateWord, State.slewNow, hs, hr]

theorem tAhead_congr {s t : State} (hs : t.spine = s.spine) (hr : t.reg R.SPN_RATE = s.reg R.SPN_RATE) (k : Nat) : t.tAhead k = s.tAhead k := by
  simp only [State.tAhead, State.now, hs, tickInc_congr hs hr]

theorem PsqFrame.tAhead {s t : State} (h : PsqFrame s t) (k : Nat) : t.tAhead k = s.tAhead k :=
  tAhead_congr h.spine (h.regs _ (by decide) (by decide)) k

theorem PsqFrame.rget {s t : State} (h : PsqFrame s t) {f : Fld} (hf : reportReg f.reg = false) (ho : f.reg ∉ psqRegs) : t.rget f = s.rget f :=
  rget_of_reg (h.regs _ hf ho)

theorem PsqFrame.onlyPsq {s t : State} (h : PsqFrame s t) : onlyPsq s t := ⟨h.blocks, h.regs⟩

theorem psqFrame_of_only {s t : State} (h : onlyPsq s t) : PsqFrame s t := ⟨h.2, h.1⟩

end Sys2Proof.Machine
end

section
set_option Elab.async false
namespace Sys2Proof
open Sys2Proof.Machine

/-- The fault of a rail whose status but for PGOOD is as it was shows as R366 says, whatever its kind. -/
theorem railFault_faulted {s u : State} (h : PsqFrame s u) (hon : u.rget F.PSQ_STAT_ON = s.rget F.PSQ_STAT_ON) (hseq : u.psq.seq = s.psq.seq)
    (r : Fin 8) (kind : Nat) : railFaulted s (u.railFault r kind) r ∧ (u.railFault r kind).psq.timedOut = u.psq.timedOut ∧
      (u.railFault r kind).rget F.PSQ_STAT_PG = u.rget F.PSQ_STAT_PG := by
  let v := ((u.psqSet F.PSQ_STAT_FLT r true).evt F.PW_EVT_PSEQ_FLT_S).psqEvent r kind
  have hv : PsqFrame s v := ((h.psqSet rfl r true).evt rfl).psqEvent r kind
  have hstat : SameStat (u.psqSet F.PSQ_STAT_FLT r true) v := (psqEvent_sameStat _ r kind).trans (reg_evt _ _ (by decide) (by decide))
  have hpsq : v.psq = u.psq := (psqEvent_psq _ r kind).trans
    ((Frame.refl [R.PW_EVT] (u.psqSet F.PSQ_STAT_FLT r true)).evt (f := F.PW_EVT_PSEQ_FLT_S) (by decide)).far.psq
  have hset := psqSet_sameStat u (f := F.PSQ_STAT_FLT) (by decide) r true
  have hfl : v.psqBit F.PSQ_STAT_FLT r = true := (hstat.bit rfl r).trans ((psqBit_psqSet_same u r true (by decide) rfl r).trans (if_pos rfl))
  have hvon : v.rget F.PSQ_STAT_ON = s.rget F.PSQ_STAT_ON := (hstat.rget rfl).trans ((hset _ (by decide) (by decide)).trans hon)
  have hvpg : v.rget F.PSQ_STAT_PG = u.rget F.PSQ_STAT_PG := (hstat.rget rfl).trans (hset _ (by decide) (by decide))
  have hev : v.ron F.PW_EVT_PSEQ_FLT_S = true := (ron_of_rget_eq (rget_emit _ _ _ _ _ _ _ _ _ (by decide))).trans (ron_evt _ _ rfl (by decide) (by decide))
  have hbit : ∀ x : Nat, v.psqBit F.PSQ_STAT_ON x = s.psqBit F.PSQ_STAT_ON x := fun x => congrArg (fun w => nbit w x) hvon
  have hctl : v.rget F.PSQ_CTRL_FAULT = s.rget F.PSQ_CTRL_FAULT := hv.rget (by decide) (by decide)
  have hen : v.rget F.PSQ_CTRL_EN = s.rget F.PSQ_CTRL_EN := hv.rget (by decide) (by decide)
  have ht : u.railFault r kind = match v.rget F.PSQ_CTRL_FAULT with | 1 => v.railDeassert r | 2 => v.psqBegin false (v.tAhead 1) | _ => v := rfl
  rw [ht, hctl]
  unfold railFaulted otherRails
  split
  case h_1 h1 =>
    obtain ⟨hd1, hd2, hd3, hd4, hd5⟩ := railDeassert_shows v r
    rw [h1]
    refine ⟨⟨?_, ?_, fun x hx => (hd1 x).trans ((if_neg hx).trans (hbit x)), (hv.railDeassert r).onlyPsq, ?_, ?_⟩, hd4.trans (congrArg Psq.timedOut hpsq), ?_⟩
    · exact (congrArg (fun w => nbit w r) (hd2 F.PSQ_STAT_FLT (by decide) (by decide))).trans hfl
    · exact (ron_of_reg (hd5 _ (by decide) (by decide))).trans hev
    · rw [hd1 r, if_pos rfl]; simp
    · rw [hd3, if_neg (by decide), hpsq, hseq]
    · exact (hd2 _ (by decide) (by decide)).trans hvpg
  case h_2 h2 =>
    rw [h2]
    refine ⟨⟨hfl, hev, fun x hx => hbit x, (hv.modPsq _).onlyPsq, ?_, ?_⟩, (congrArg Psq.timedOut hpsq : v.psq.timedOut = _), hvpg⟩
    · exact (hbit r).trans (by simp)
    · rw [if_pos rfl, ← hen, ← hv.tAhead 1]
      rfl
  case h_3 h1 h2 =>
    refine ⟨⟨hfl, hev, fun x hx => hbit x, hv.onlyPsq, ?_, ?_⟩, congrArg Psq.timedOut hpsq, hvpg⟩
    · rw [hbit r, bne_iff_ne.2 h1, Bool.and_true]
    · rw [if_neg h2, hpsq, hseq]

end Sys2Proof
end

section
/-!
SUPPORT. The rows of the rail sequencer (R365 to R367).
-/
set_option Elab.async false
namespace Sys2Proof.Machine
open Sys2Proof

/-- A rail's step of the sequence changes no rail's status. -/
theorem railTaken_regs (s : State) (r : Fin 8) : (s.railTaken r).regs = s.regs := rfl

theorem railTaken_seq {s : State} {q : RailSeq} (h : s.psq.seq = some q) (r : Fin 8) :
    (s.railTaken r).psq.seq = some { q with todo := setBit8 q.todo r false } := by
  show s.psq.seq.map _ = _
  rw [h]
  rfl

theorem railDue_seq {s : State} {up : Bool} {r : Fin 8} (h : s.railDue up r = true) : ∃ q, s.psq.seq = some q ∧ q.up = up := by
  unfold State.railDue at h
  split at h
  case h_1 q hq =>
    simp only [Bool.and_eq_true, beq_iff_eq] at h
    exact ⟨q, hq, h.1.1⟩
  case h_2 => cases h

/-- The rail that is next is the first one due. -/
theorem railNext_iff (s : State) (up : Bool) (r : Fin 8) :
    s.railNext up r = true ↔ s.railDue up r = true ∧ ∀ x : Fin 8, x < r → s.railDue up x = false := by
  unfold State.railNext
  rw [decide_eq_true_iff, List.find?_eq_some_iff_getElem]
  simp only [List.getElem_finRange, Bool.not_eq_true']
  constructor
  · rintro ⟨hr, i, hi, hri, hlow⟩
    refine ⟨hr, fun x hx => ?_⟩
    have hxi : x.val < i := by have := congrArg Fin.val hri; simp at this; omega
    exact hlow x.val hxi
  · rintro ⟨hr, hlow⟩
    exact ⟨hr, r.val, by simp, rfl, fun j hj => hlow ⟨j, by omega⟩ hj⟩

theorem setBit8_last {r : Fin 8} : setBit8 (BitVec.ofNat 8 (2 ^ r.val)) r false = 0 := by
  revert r; decide

end Sys2Proof.Machine
end

section
set_option Elab.async false
namespace Sys2Proof
open Sys2Proof.Machine

theorem psqCommands_run (p : Path) (up timed : Bool) {s : State} (hw : s.takesWrites = true) :
    let row : Instr := if up then .psqUp p timed else .psqDown p timed
    (s.psq.seq.isSome = true → ∃ t, exec row s = .next t ∧ pwRefused s t) ∧
    (s.psq.seq = none → s.rget F.PSQ_CTRL_EN ≠ 0 → exec row s = .next { s with psq := { s.psq with
      seq := some ⟨up, s.psqStart timed, BitVec.ofNat 8 (s.rget F.PSQ_CTRL_EN)⟩ } }) ∧
    (s.psq.seq = none → s.rget F.PSQ_CTRL_EN = 0 → up = false → exec row s = .next s) ∧
    (s.psq.seq = none → s.rget F.PSQ_CTRL_EN = 0 → up = true → ∃ t, exec row s = .next t ∧ t.ron F.PW_EVT_PSEQ_DONE_S = true ∧ onlyPsq s t) := by
  intro row
  have hx : exec row s = .next (s.psqCommand up timed) := by
    cases up <;> exact hostAct_open hw p _ _
  refine ⟨fun h => ⟨_, hx, ?_⟩, fun h he => ?_, fun h he hu => ?_, fun h he hu => ⟨_, hx, ?_⟩⟩
  · have hc : s.psqCommand up timed = s.evt F.PW_EVT_CMD_ERR_S := if_pos h
    have hf : Frame [R.PW_EVT] s (s.evt F.PW_EVT_CMD_ERR_S) := (Frame.refl _ s).evt (by decide)
    rw [hc]
    exact ⟨ron_evt _ _ rfl (by decide) (by decide), hf.regs, hf.blocks⟩
  · rw [hx, State.psqCommand, h, if_neg (by simp), if_neg he]
    rfl
  · rw [hx, State.psqCommand, h, if_neg (by simp), if_pos he, hu]
    rfl
  · rw [State.psqCommand, h, if_neg (by simp), if_pos he, hu, if_pos rfl]
    exact ⟨(psqDone_shows s 0 pqUpDone).2.2, ((PsqFrame.refl s).psqDone 0 _).onlyPsq⟩

theorem railSteps_run (up : Bool) (r : Fin 8) {s : State} (he : s.takesEvents = true) :
    let row : Instr := if up then .railOn r else .railOff r
    (s.railDue up r = false ∨ (∃ x : Fin 8, x < r ∧ s.railDue up x = true) → exec row s = .next s) ∧
    (s.railDue up r = true → (∀ x : Fin 8, x < r → s.railDue up x = false) →
      ∃ t, exec row s = .next t ∧ t.psqBit F.PSQ_STAT_ON r = up ∧ t.pseqLevel r = (up != s.ron (F.PSQ_Rr_CFG_OUT_POL r)) ∧ otherRails s t r ∧ onlyPsq s t ∧
        (∀ q, t.psq.seq = some q → nbit q.todo.toNat r = false ∧ q.up = up) ∧
        (∀ q, up = false → s.psq.seq = some q → q.todo = BitVec.ofNat 8 (2 ^ r.val) → t.psq.seq = none ∧ t.ron F.PW_EVT_PSEQ_DONE_S = true)) := by
  intro row
  have hx : exec row s = .next (if up then s.railOn r else s.railOff r) := by
    cases up <;> exact event_open he _
  have hlevel : ∀ t, PsqFrame s t → t.psqBit F.PSQ_STAT_ON r = up → t.pseqLevel r = (up != s.ron (F.PSQ_Rr_CFG_OUT_POL r)) := by
    intro t ht hon
    have hpol : t.ron (F.PSQ_Rr_CFG_OUT_POL r) = s.ron (F.PSQ_Rr_CFG_OUT_POL r) := ron_of_rget_eq (ht.rget
      (reportReg_of_page (by simp only [F.PSQ_Rr_CFG_OUT_POL, R.PSQ_Rr_CFG]; omega))
      (by simp only [psqRegs, List.mem_cons, List.not_mem_nil, or_false, F.PSQ_Rr_CFG_OUT_POL, R.PSQ_Rr_CFG, R.PSQ_STAT, R.PW_EVT]; omega))
    rw [State.pseqLevel, hon, hpol]
  refine ⟨fun h => ?_, fun hd hlow => ⟨_, hx, ?_⟩⟩
  · have hno : s.railNext up r = false := by
      rw [Bool.eq_false_iff, ne_eq, railNext_iff]
      rintro ⟨hr, hlow⟩
      obtain h | ⟨x, hx, hd⟩ := h
      · cases h.symm.trans hr
      · cases (hlow x hx).symm.trans hd
    cases up <;> simp only [hx, State.railOn, State.railOff, hno, Bool.false_eq_true, if_false, if_true]
  · have hnext := (railNext_iff s up r).2 ⟨hd, hlow⟩
    obtain ⟨q, hq, hqup⟩ := railDue_seq hd
    have hseq := railTaken_seq hq r
    have htodo : nbit (setBit8 q.todo r false).toNat r = false := (nbit_setBit8 _ _ _ _).trans (if_pos rfl)
    cases up with
    | true =>
      obtain ⟨ha1, -, ha3⟩ := railAssert_shows (s.railTaken r) r
      obtain ⟨hu1, -, hu3⟩ := upCheck_shows ((s.railTaken r).railAssert r) r
      have ht : (if true = true then s.railOn r else s.railOff r) = ((s.railTaken r).railAssert r).upCheck r := if_pos hnext
      have hon := fun x : Fin 8 => (hu1.bit (f := F.PSQ_STAT_ON) rfl x).trans (ha1 x)
      have hf : PsqFrame s (((s.railTaken r).railAssert r).upCheck r) := (((PsqFrame.refl s).railTaken r).railAssert r).upCheck r
      rw [ht]
      refine ⟨(hon r).trans (if_pos rfl), hlevel _ hf ((hon r).trans (if_pos rfl)), fun x hx => (hon x).trans (if_neg hx), hf.onlyPsq, fun q' hq' => ?_, nofun⟩
      rcases hu3 with h | h
      · cases h.symm.trans hq'
      · cases (hseq.symm.trans (ha3.symm.trans h.symm)).trans hq'
        exact ⟨htodo, hqup⟩
    | false =>
      obtain ⟨ha1, -, ha3, -, -⟩ := railDeassert_shows (s.railTaken r) r
      let v := (s.railTaken r).railDeassert r
      have hv : PsqFrame s v := ((PsqFrame.refl s).railTaken r).railDeassert r
      have hvseq : v.psq.seq = some { q with todo := setBit8 q.todo r false } := ha3.trans hseq
      have ht : (if false = true then s.railOn r else s.railOff r) = if setBit8 q.todo r false = 0 then v.psqDone r pqDownDone else v := by
        show s.railOff r = _
        simp only [State.railOff, hnext, if_true]
        rw [show ((s.railTaken r).railDeassert r).psq.seq = _ from hvseq]
      rw [ht]
      split
      case isTrue hz =>
        obtain ⟨h1, h2, h3⟩ := psqDone_shows v r pqDownDone
        have hon := fun x : Fin 8 => (h1.bit (f := F.PSQ_STAT_ON) rfl x).trans (ha1 x)
        rw [h2]
        exact ⟨(hon r).trans (if_pos rfl), hlevel _ (hv.psqDone r _) ((hon r).trans (if_pos rfl)), fun x hx => (hon x).trans (if_neg hx), (hv.psqDone r _).onlyPsq,
          nofun, fun _ _ _ _ => ⟨rfl, h3⟩⟩
      case isFalse hz =>
        refine ⟨(ha1 r).trans (if_pos rfl), hlevel _ hv ((ha1 r).trans (if_pos rfl)), fun x hx => (ha1 x).trans (if_neg hx), hv.onlyPsq, fun q' hq' => ?_, fun q' _ hq' htd => ?_⟩
        · cases hvseq.symm.trans hq'
          exact ⟨htodo, hqup⟩
        · cases hq.symm.trans hq'
          exact absurd (htd ▸ setBit8_last) hz


theorem railFaults_run (r : Fin 8) {s : State} (he : s.takesEvents = true) :
    (let late := s.psqBit F.PSQ_STAT_ON r = true ∧ s.rget (F.PSQ_Rr_CFG_PGTO r) ≠ 0 ∧ s.psqBit F.PSQ_STAT_PG r = false ∧
       nbit s.psq.wasGood.toNat r = false ∧ nbit s.psq.timedOut.toNat r = false ∧
       s.psq.onAt[r] + s.rget (F.PSQ_Rr_CFG_PGTO r) * 64000000 ≤ s.now
     (¬ late → exec (.pgTimeout r) s = .next s) ∧
     (late → ∃ t, exec (.pgTimeout r) s = .next t ∧ railFaulted s t r ∧ nbit t.psq.timedOut.toNat r = true)) ∧
    (s.psqBit F.PSQ_STAT_PG r = false → exec (.pgLost r) s = .next s) ∧
    (s.psqBit F.PSQ_STAT_PG r = true → ∃ t, exec (.pgLost r) s = .next t ∧ t.psqBit F.PSQ_STAT_PG r = false ∧
      (s.psqBit F.PSQ_STAT_ON r = true → nbit s.psq.wasGood.toNat r = true → railFaulted s t r) ∧
      (s.psqBit F.PSQ_STAT_ON r = false ∨ nbit s.psq.wasGood.toNat r = false → s.sameRegsBut t [R.PSQ_STAT] ∧ s.sameBlocks t ∧
        t.rget F.PSQ_STAT_ON = s.rget F.PSQ_STAT_ON ∧ t.rget F.PSQ_STAT_FLT = s.rget F.PSQ_STAT_FLT)) ∧
    (∃ t, exec (.pgoodAsserted r) s = .next t ∧ t.psqBit F.PSQ_STAT_PG r = true ∧ onlyPsq s t ∧
      t.rget F.PSQ_STAT_ON = s.rget F.PSQ_STAT_ON ∧ (s.psqBit F.PSQ_STAT_ON r = true → nbit t.psq.wasGood.toNat r = true) ∧
      (s.psq.seq = none → t.psq.seq = none)) := by
  have hpg := psqSet_sameStat s (f := F.PSQ_STAT_PG) (by decide) r
  have hon := fun b => hpg b F.PSQ_STAT_ON (by decide) (by decide)
  have hset : ∀ b, (s.psqSet F.PSQ_STAT_PG r b).psqBit F.PSQ_STAT_PG r = b := fun b => (psqBit_psqSet_same s r b (by decide) rfl r).trans (if_pos rfl)
  have hframe : ∀ b, PsqFrame s (s.psqSet F.PSQ_STAT_PG r b) := (PsqFrame.refl s).psqSet rfl r
  have hx1 : exec (.pgTimeout r) s = .next (s.pgTimeout r) := event_open he (fun s => s.pgTimeout r)
  have hx2 : exec (.pgLost r) s = .next (s.pgLost r) := event_open he (fun s => s.pgLost r)
  have hx3 : exec (.pgoodAsserted r) s = .next (s.pgGood r) := event_open he (fun s => s.pgGood r)
  refine ⟨⟨fun h => ?_, fun h => ⟨_, hx1, ?_⟩⟩, fun h => ?_, fun h => ⟨_, hx2, ?_⟩, ⟨_, hx3, ?_⟩⟩
  · rw [hx1, State.pgTimeout, if_neg fun hc => h (by simpa using hc)]
  · have ht : s.pgTimeout r = (s.modPsq (fun q => { q with timedOut := setBit8 q.timedOut r true })).railFault r pqTimeout := by
      rw [State.pgTimeout, if_pos (by simpa using h)]
    obtain ⟨h1, h2, -⟩ := railFault_faulted (u := s.modPsq (fun q => { q with timedOut := setBit8 q.timedOut r true }))
      ((PsqFrame.refl s).modPsq _) rfl rfl r pqTimeout
    rw [ht, h2]
    exact ⟨h1, (nbit_setBit8 _ _ _ _).trans (if_pos rfl)⟩
  · exact hx2.trans (congrArg _ (if_neg (by simp [h])))
  · have ht : s.pgLost r = if s.psqBit F.PSQ_STAT_ON r = true ∧ nbit s.psq.wasGood.toNat r = true then (s.psqSet F.PSQ_STAT_PG r false).railFault r pqLost
        else s.psqSet F.PSQ_STAT_PG r false := if_pos h
    obtain ⟨h1, -, h3⟩ := railFault_faulted (hframe false) (hon false) (psqSet_seq s _ r false) r pqLost
    rw [ht]
    split
    case isTrue hc =>
      refine ⟨(congrArg (fun v => nbit v r) h3).trans (hset false), fun _ _ => h1, fun hno => ?_⟩
      rw [hc.1, hc.2] at hno
      simp at hno
    case isFalse hc =>
      have hf : Frame [R.PSQ_STAT] s (s.psqSet F.PSQ_STAT_PG r false) := (Frame.refl _ s).rput (f := F.PSQ_STAT_PG) _ (by decide)
      exact ⟨hset false, fun ha hb => absurd ⟨ha, hb⟩ hc, fun _ => ⟨hf.regs, hf.blocks, hon false, hpg false _ (by decide) (by decide)⟩⟩
  · have ht : s.pgGood r = if s.psqBit F.PSQ_STAT_ON r = true then
        ((s.psqSet F.PSQ_STAT_PG r true).modPsq (fun q => { q with wasGood := setBit8 q.wasGood r true })).upCheck r else s.psqSet F.PSQ_STAT_PG r true := rfl
    rw [ht]
    split
    case isTrue ho =>
      obtain ⟨h1, h2, h3⟩ := upCheck_shows ((s.psqSet F.PSQ_STAT_PG r true).modPsq (fun q => { q with wasGood := setBit8 q.wasGood r true })) r
      refine ⟨(h1.bit rfl r).trans ((psqBit_modPsq _ _ _ r).trans (hset true)), (((hframe true).modPsq _).upCheck r).onlyPsq,
        (h1.rget rfl).trans ((rget_modPsq _ _ _).trans (hon true)), fun _ => ?_, fun hs => ?_⟩
      · rw [h2]
        exact (nbit_setBit8 _ _ _ _).trans (if_pos rfl)
      · rcases h3 with h | h
        · exact h
        · exact h.trans ((psqSet_seq s F.PSQ_STAT_PG r true).trans hs)
    case isFalse ho =>
      exact ⟨hset true, (hframe true).onlyPsq, hon true, fun h => absurd h ho, fun hs => (psqSet_seq s _ r true).trans hs⟩

theorem psqBit_eq_of_rget {s t : State} {f : Fld} (h : t.rget f = s.rget f) (x : Nat) : t.psqBit f x = s.psqBit f x := congrArg (fun v => nbit v x) h

/-- Where PGOOD of a rail goes, at any rail. -/
theorem pgLost_level (s : State) (r : Fin 8) (h : s.psqBit F.PSQ_STAT_PG r = true) :
    PsqFrame s (s.pgLost r) ∧ ∀ x : Fin 8, (s.pgLost r).psqBit F.PSQ_STAT_PG x = if x = r then false else s.psqBit F.PSQ_STAT_PG x := by
  have hframe : PsqFrame s (s.psqSet F.PSQ_STAT_PG r false) := (PsqFrame.refl s).psqSet rfl r false
  have hset := psqBit_psqSet_same s r false (f := F.PSQ_STAT_PG) (by decide) rfl
  have hon := psqSet_sameStat s (f := F.PSQ_STAT_PG) (by decide) r false F.PSQ_STAT_ON (by decide) (by decide)
  obtain ⟨h1, -, h3⟩ := railFault_faulted hframe hon (psqSet_seq s _ r false) r pqLost
  have ht : s.pgLost r = if s.psqBit F.PSQ_STAT_ON r = true ∧ nbit s.psq.wasGood.toNat r = true then (s.psqSet F.PSQ_STAT_PG r false).railFault r pqLost
      else s.psqSet F.PSQ_STAT_PG r false := if_pos h
  rw [ht]
  split
  case isTrue =>
    obtain ⟨-, -, -, honly, -⟩ := h1
    exact ⟨psqFrame_of_only honly, fun x => (psqBit_eq_of_rget h3 x).trans (hset x)⟩
  case isFalse => exact ⟨hframe, hset⟩

theorem pgGood_level (s : State) (r : Fin 8) :
    PsqFrame s (s.pgGood r) ∧ ∀ x : Fin 8, (s.pgGood r).psqBit F.PSQ_STAT_PG x = if x = r then true else s.psqBit F.PSQ_STAT_PG x := by
  have hframe : PsqFrame s (s.psqSet F.PSQ_STAT_PG r true) := (PsqFrame.refl s).psqSet rfl r true
  have hset := psqBit_psqSet_same s r true (f := F.PSQ_STAT_PG) (by decide) rfl
  have ht : s.pgGood r = if s.psqBit F.PSQ_STAT_ON r = true then
      ((s.psqSet F.PSQ_STAT_PG r true).modPsq (fun q => { q with wasGood := setBit8 q.wasGood r true })).upCheck r else s.psqSet F.PSQ_STAT_PG r true := rfl
  rw [ht]
  split
  case isTrue => exact ⟨(hframe.modPsq _).upCheck r, fun x => ((upCheck_shows _ r).1.bit rfl x).trans ((psqBit_modPsq _ _ _ x).trans (hset x))⟩
  case isFalse => exact ⟨hframe, hset⟩

theorem siteOf_psqCfg (p : Path) (r : Fin 8) : siteOf p (word (R.PSQ_Rr_CFG r)).toNat = .reg (R.PSQ_Rr_CFG r) := by
  revert p r
  have h : ∀ r : Fin 8, siteOf .pcie (word (R.PSQ_Rr_CFG r)).toNat = .reg (R.PSQ_Rr_CFG r) ∧
    siteOf .spi (word (R.PSQ_Rr_CFG r)).toNat = .reg (R.PSQ_Rr_CFG r) := by decide +kernel
  intro p r
  cases p
  · exact (h r).1
  · exact (h r).2

theorem writeReg_psqCfg (s : State) (p : Path) (r : Fin 8) (v : Word) : s.writeReg p (R.PSQ_Rr_CFG r) v = s.psqCfgWrite p r v := by
  have hlo : 0x9040 ≤ R.PSQ_Rr_CFG r ∧ R.PSQ_Rr_CFG r < 0x9080 := by unfold R.PSQ_Rr_CFG; omega
  have hr : (⟨(R.PSQ_Rr_CFG r - R.PSQ_Rr_CFG 0) / 8 % 8, Nat.mod_lt _ (by decide)⟩ : Fin 8) = r := by
    refine Fin.ext ?_
    simp only [R.PSQ_Rr_CFG]
    omega
  have h1 : s.writeReg p (R.PSQ_Rr_CFG r) v = s.psqWrite p (R.PSQ_Rr_CFG r) v := by
    unfold State.writeReg
    iterate 9 rw [if_neg (by omega)]
    rw [if_pos (by omega)]
  have h2 : R.PSQ_Rr_CFG r ≠ R.PSQ_CMD := by unfold R.PSQ_CMD; omega
  have h3 : R.PSQ_Rr_CFG 0 ≤ R.PSQ_Rr_CFG r ∧ R.PSQ_Rr_CFG r < R.PSQ_Rr_CFG 8 ∧ R.PSQ_Rr_CFG r % 8 = 0 := by unfold R.PSQ_Rr_CFG; omega
  rw [h1, State.psqWrite, if_neg h2, if_pos h3, hr]

theorem bool_of_rget_ne {s t : State} {f : Fld} (hw : f.width = 1) (h : t.rget f ≠ s.rget f) : (t.ron f != s.ron f) = true := by
  have hs : s.rget f < 2 := by simpa [hw] using rget_lt s f
  have ht : t.rget f < 2 := by simpa [hw] using rget_lt t f
  rw [bne_iff_ne, ne_eq, Bool.eq_iff_iff, ron_eq_true, ron_eq_true]
  omega

theorem pgPolarity_turns (p : Path) (r : Fin 8) (v : Word) {s : State} (hw : s.takesWrites = true) (hl : s.lockedBits (R.PSQ_Rr_CFG r) = 0) :
    ∃ t, exec (.registerWrite p (word (R.PSQ_Rr_CFG r)) v true) s = .next t ∧
      t.psqBit F.PSQ_STAT_PG r = (s.psqBit F.PSQ_STAT_PG r != (t.ron (F.PSQ_Rr_CFG_PG_POL r) != s.ron (F.PSQ_Rr_CFG_PG_POL r))) ∧
      ∀ x : Fin 8, x ≠ r → t.psqBit F.PSQ_STAT_PG x = s.psqBit F.PSQ_STAT_PG x := by
  have hx := exec_fullWrite (v := v) hw (siteOf_psqCfg p r) (by unfold R.PSQ_Rr_CFG R.PW_CMD; omega) (by unfold R.PSQ_Rr_CFG R.FRZ_CMD; omega)
    (by unfold R.PSQ_Rr_CFG R.CFG_CMD; omega)
  rw [writeReg_psqCfg] at hx
  refine ⟨_, hx, ?_⟩
  let u := s.fieldsWrite p (R.PSQ_Rr_CFG r) v
  have hu : ∀ x : Nat, u.psqBit F.PSQ_STAT_PG x = s.psqBit F.PSQ_STAT_PG x := psqBit_eq_of_rget (fieldsWrite_rget hl p v (by decide)
    (by unfold R.PSQ_Rr_CFG; simp only [F.PSQ_STAT_PG, R.PSQ_STAT]; omega) (by decide))
  have hpol : ∀ t, PsqFrame u t → t.ron (F.PSQ_Rr_CFG_PG_POL r) = u.ron (F.PSQ_Rr_CFG_PG_POL r) := fun t ht => ron_of_rget_eq (ht.rget
    (reportReg_of_page (by simp only [F.PSQ_Rr_CFG_PG_POL, R.PSQ_Rr_CFG]; omega))
    (by simp only [psqRegs, List.mem_cons, List.not_mem_nil, or_false, F.PSQ_Rr_CFG_PG_POL, R.PSQ_Rr_CFG, R.PSQ_STAT, R.PW_EVT]; omega))
  have ht : s.psqCfgWrite p r v = if u.rget (F.PSQ_Rr_CFG_PG_POL r) = s.rget (F.PSQ_Rr_CFG_PG_POL r) then u
      else if u.psqBit F.PSQ_STAT_PG r then u.pgLost r else u.pgGood r := rfl
  rw [ht]
  split
  case isTrue h => exact ⟨by rw [hu, ron_of_rget_eq h, bne_self_eq_false, Bool.bne_false], fun x _ => hu x⟩
  case isFalse h =>
    have hturn := bool_of_rget_ne (f := F.PSQ_Rr_CFG_PG_POL r) rfl h
    split
    case isTrue hg =>
      obtain ⟨hf, hb⟩ := pgLost_level u r hg
      exact ⟨by rw [hb, if_pos rfl, hpol _ hf, hturn, ← hu, hg]; rfl, fun x hx => (hb x).trans ((if_neg hx).trans (hu x))⟩
    case isFalse hg =>
      obtain ⟨hf, hb⟩ := pgGood_level u r
      exact ⟨by rw [hb, if_pos rfl, hpol _ hf, hturn, ← hu, Bool.eq_false_iff.2 hg]; rfl, fun x hx => (hb x).trans ((if_neg hx).trans (hu x))⟩

/-- Settles O58: the commands, the steps of a sequence, a change of polarity, and the faults. -/
theorem railsFollowTheirSequence : Obligations.RailsFollowTheirSequence := by
  refine ⟨fun p up timed s hw => ?_, fun up r s he => railSteps_run up r he, fun p r v s hw hl => pgPolarity_turns p r v hw hl,
    fun r s he => railFaults_run r he⟩
  obtain ⟨h1, h2, h3, h4⟩ := psqCommands_run p up timed hw
  have hf : Frame [R.PSQ_STAT] s (s.rput F.PSQ_STAT_FLT 0) := (Frame.refl _ s).rput 0 (by decide)
  exact ⟨h1, h2, h3, h4, hostAct_open hw p _ _, ⟨_, hostAct_open hw p _ _, rget_rput_same _ _ _ (by decide),
    rget_rput_apart (f := F.PSQ_STAT_FLT) (g := F.PSQ_STAT_ON) s 0 (by decide) rfl (by decide), hf.regs, hf.blocks⟩, hostAct_open hw p _ _⟩

end Sys2Proof
end

section
/-!
SUPPORT. A state that the event controller's statement (O41) does not hold in: the controller's retained copy stands although the device is powered.
-/
set_option Elab.async false
namespace Sys2Proof.Machine
open Sys2Proof

theorem exec_ecCtrlWrite {s : State} (h : s.takesWrites = true) (p : Path) (v : Word) : exec (.ecCtrlWrite p v) s = .next (s.ecCtrlWrite p v) :=
  hostAct_open h p _ _

/-- A running device with LATCH_P set and one deferred doorbell, in which the copy of the event controller that RETAIN keeps has not been
taken back: the controller stands still (`State.ecStill`) although no latch is set and nothing is frozen. -/
def latchedRetained : State :=
  let s := ((State.reset.rput F.CFG_STAT_LOADING 0).rput F.PW_STAT_STATE 1).rput F.EC_CTRL_LATCH_P 1
  { s with ec := { s.ec with deferred := [512] }, pw := { s.pw with retEc := some ⟨[], []⟩ } }

/-- The write that clears LATCH_P. -/
def clearLatchP : Word := 0x00020000

theorem latchedRetained_open : latchedRetained.takesWrites = true ∧ latchedRetained.locked 5 = false ∧ latchedRetained.ecLatched = true := by
  decide +kernel

/-- The cleared latch defers the doorbell once more. -/
theorem latchedRetained_defers (p : Path) : (latchedRetained.ecCtrlWrite p clearLatchP).ecLatched = false ∧
    (latchedRetained.ecCtrlWrite p clearLatchP).ec.deferred = [512] := by
  cases p <;> decide +kernel

end Sys2Proof.Machine
end

section
set_option Elab.async false
namespace Sys2Proof
open Sys2Proof.Machine

/-- Refutes O41: its sixth clause asks that a write which clears the last latch leaves no deferred edge, in every state that takes writes.
In `latchedRetained` the retained copy still stands, so the controller stands still and the edge is deferred again. (The other clauses are
not what fails.) -/
theorem not_eventControllerRuns : ¬ Obligations.EventControllerRuns := by
  intro h
  obtain ⟨-, -, -, -, -, hctrl, -⟩ := h
  obtain ⟨hw, hl, hlatched⟩ := latchedRetained_open
  obtain ⟨hclear, hdef⟩ := latchedRetained_defers .pcie
  obtain ⟨u, hx, -, -, -, -, -, hgone, -⟩ := hctrl .pcie clearLatchP latchedRetained hw hl
  have hu : latchedRetained.ecCtrlWrite .pcie clearLatchP = u := Host.Outcome.next.inj ((exec_ecCtrlWrite hw .pcie clearLatchP).symm.trans hx)
  rw [← hu] at hgone
  exact List.cons_ne_nil 512 [] (hdef.symm.trans (hgone hlatched hclear))

end Sys2Proof
end

section
/-!
SUPPORT. What a path's accesses leave: its answer, its copies and the words that it holds, and nothing outside the path (R309).
-/
set_option Elab.async false
namespace Sys2Proof.Machine
open Sys2Proof

/-! ### Changes of one path -/

/-- Only one path's own state has changed. -/
def PathOnly (p : Path) (s t : State) : Prop := ∃ f, t = s.modPath p f

theorem modPath_modPath (s : State) (p : Path) (f g : PathState → PathState) : (s.modPath p f).modPath p g = s.modPath p (g ∘ f) := by cases p <;> rfl

theorem path_modPath (s : State) (p : Path) (f : PathState → PathState) : (s.modPath p f).path p = f (s.path p) := by cases p <;> rfl

theorem path_modPath_other (s : State) (p : Path) (f : PathState → PathState) : (s.modPath p f).path (otherPath p) = s.path (otherPath p) := by
  cases p <;> rfl

theorem PathOnly.mod (p : Path) (s : State) (f : PathState → PathState) : PathOnly p s (s.modPath p f) := ⟨f, rfl⟩

theorem PathOnly.refl (p : Path) (s : State) : PathOnly p s s := ⟨id, by cases p <;> rfl⟩

section
variable {p : Path} {s t u : State}

theorem PathOnly.trans (h : PathOnly p s t) (h' : PathOnly p t u) : PathOnly p s u := by
  obtain ⟨f, rfl⟩ := h
  obtain ⟨g, rfl⟩ := h'
  exact ⟨g ∘ f, modPath_modPath s p f g⟩

theorem PathOnly.regs (h : PathOnly p s t) : t.regs = s.regs := by
  obtain ⟨f, rfl⟩ := h
  exact State.modPath_regs s p f

theorem PathOnly.reg (h : PathOnly p s t) (o : Nat) : t.reg o = s.reg o := by simp only [State.reg, h.regs]

theorem PathOnly.rget (h : PathOnly p s t) (f : Fld) : t.rget f = s.rget f := rget_of_regs h.regs f

theorem PathOnly.gaf (h : PathOnly p s t) : t.gaf = s.gaf := by
  obtain ⟨f, rfl⟩ := h
  exact State.modPath_gaf s p f

theorem PathOnly.spine (h : PathOnly p s t) : t.spine = s.spine := by
  obtain ⟨f, rfl⟩ := h
  exact State.modPath_spine s p f

theorem PathOnly.other (h : PathOnly p s t) : t.path (otherPath p) = s.path (otherPath p) := by
  obtain ⟨f, rfl⟩ := h
  exact path_modPath_other s p f

theorem PathOnly.blocks (h : PathOnly p s t) : State.sameBlocks { s with pcie := t.pcie, spi := t.spi } t := by
  obtain ⟨f, rfl⟩ := h
  cases p <;> exact sameBlocks_refl _

theorem PathOnly.gates (h : PathOnly p s t) : t.powered = s.powered ∧ t.frozen = s.frozen ∧ t.loading = s.loading := by
  simp only [State.powered, State.frozen, State.loading, State.ron, h.rget, and_self]

theorem PathOnly.takesWrites (h : PathOnly p s t) : t.takesWrites = s.takesWrites := by
  rw [Bool.eq_iff_iff, takesWrites_iff, takesWrites_iff, h.gates.1, h.gates.2.1, h.gates.2.2]

end

theorem answer_only (p : Path) (s : State) (w : Word) : PathOnly p s (s.answer p w) := .mod p s _

theorem setShadow_only (p : Path) (s : State) (o : Nat) (w : Word) : PathOnly p s (s.setShadow p o w) := .mod p s _

theorem setHeld_only (p : Path) (s : State) (o : Nat) (w : Word) : PathOnly p s (s.setHeld p o w) := .mod p s _

theorem rlCopy_only (p : Path) (s : State) (o : Nat) : PathOnly p s (s.rlCopy p o) := by
  unfold State.rlCopy
  exact List.foldlRecOn _ _ (PathOnly.refl p s) (fun b hb x _ => hb.trans (setShadow_only p b x.1 _))

/-! ### Copies and held words -/

theorem shadowWord_answer (s : State) (p : Path) (w : Word) (o : Nat) : (s.answer p w).shadowWord p o = s.shadowWord p o := by cases p <;> rfl

theorem shadowWord_setShadow (s : State) (p : Path) (o : Nat) (w : Word) (x : Nat) :
    (s.setShadow p o w).shadowWord p x = if x = o then w else s.shadowWord p x := by
  unfold State.shadowWord State.setShadow
  rw [path_modPath]
  split
  case isTrue h => rw [h]; exact tblGet_set_same _ _ _ _
  case isFalse h => exact tblGet_set_ne _ _ _ h

theorem heldWord_setHeld (s : State) (p : Path) (o : Nat) (w : Word) (x : Nat) :
    (s.setHeld p o w).heldWord p x = if x = o then w else s.heldWord p x := by
  unfold State.heldWord State.setHeld
  rw [path_modPath]
  split
  case isTrue h => rw [h]; exact tblGet_set_same _ _ _ _
  case isFalse h => exact tblGet_set_ne _ _ _ h

/-! ### Reads of registers -/

theorem word_of_toNat (w : Word) : word w.toNat = w := BitVec.eq_of_toNat_eq (Nat.mod_eq_of_lt w.isLt)

theorem and_full (w : Word) : w.toNat &&& 0xFFFFFFFF = w.toNat := (Nat.and_two_pow_sub_one_eq_mod w.toNat 32).trans (Nat.mod_eq_of_lt w.isLt)

/-- A register without fields that can be staged, and without copies, reads as it stands. -/
theorem readWord_live {o : Nat} (hs : stBits o = 0) (hc : copyMask o = 0) (s : State) (p : Path) : s.readWord p o = s.liveWord p (s.viewOf p) o := by
  unfold State.readWord
  dsimp only
  rw [if_pos hc, hs]
  split
  · split
    · rw [Nat.sub_zero, and_full, Nat.and_zero, Nat.or_zero]
      exact word_of_toNat _
    · rfl
  · rfl

/-- A copy register reads as the path's copy. -/
theorem readWord_copy {o : Nat} (hc : copyMask o = 0xFFFFFFFF) (s : State) (p : Path) : s.readWord p o = s.shadowWord p o := by
  unfold State.readWord
  dsimp only
  rw [if_neg (by rw [hc]; decide), hc, Nat.sub_self, Nat.and_zero, Nat.zero_or, and_full]
  exact word_of_toNat _

/-- A register that no read of its page treats apart is read with its copies. -/
theorem readReg_copies {o : Nat} (hcap : ¬ (0x100000 ≤ o ∧ o < 0x118000 ∧ (o % 0x400 = 0x84 ∨ o % 0x400 = 0xA4)))
    (hclaim : ¬ (0x2040 ≤ o ∧ o < 0x20C0 ∧ o % 16 = 0)) (hpps : o ≠ R.SPN_PPSI_LO) (hcal : o ≠ R.CAL_U_DATA)
    (s : State) (p : Path) : s.readReg p o = (s.rlCopy p o).answer p (s.readWord p o) := by
  simp only [State.readReg, if_neg hcap, if_neg hclaim, if_neg hpps, if_neg hcal, ite_self]

/-- A read by a powered device of a register that its address names. -/
theorem exec_regRead {p : Path} {a : Word} {o : Nat} {s : State} (hp : s.powered = true) (hsite : siteOf p a.toNat = .reg o)
    (hcap : ¬ (0x100000 ≤ o ∧ o < 0x118000 ∧ (o % 0x400 = 0x84 ∨ o % 0x400 = 0xA4)))
    (hclaim : ¬ (0x2040 ≤ o ∧ o < 0x20C0 ∧ o % 16 = 0)) (hpps : o ≠ R.SPN_PPSI_LO) (hcal : o ≠ R.CAL_U_DATA) :
    exec (.rlRead p a) s = .next ((s.rlCopy p o).answer p (s.readWord p o)) := by
  rw [exec_rlRead, hostRead_open hp, readAt_reg hsite, readReg_copies hcap hclaim hpps hcal]

end Sys2Proof.Machine
end

section
/-!
SUPPORT. Reads of the present time, and the shared registers of a Gaffer (R11, R32, R119).
-/
set_option Elab.async false
namespace Sys2Proof.Machine
open Sys2Proof

/-- The addresses of the time registers and of the shared registers lead to them; only their copies differ from what they hold. -/
theorem timeRegs_sites (p : Path) : siteOf p (word R.SPN_NOW_LO).toNat = .reg R.SPN_NOW_LO ∧ siteOf p (word R.SPN_NOW_HI).toNat = .reg R.SPN_NOW_HI ∧
    siteOf p (word R.SPN_NOW_SUB).toNat = .reg R.SPN_NOW_SUB := by cases p <;> decide +kernel

theorem timeRegs_masks : stBits R.SPN_NOW_LO = 0 ∧ copyMask R.SPN_NOW_LO = 0 ∧ copyMask R.SPN_NOW_HI = 0xFFFFFFFF ∧ copyMask R.SPN_NOW_SUB = 0xFFFFFFFF ∧
    rlCopies R.SPN_NOW_HI = [] ∧ rlCopies R.SPN_NOW_SUB = [] := by decide +kernel

/-- A read of the present time leaves its partners on its path. -/
theorem rlCopy_now (s : State) (p : Path) :
    s.rlCopy p R.SPN_NOW_LO = (s.setShadow p R.SPN_NOW_HI (word (s.nowNs / 2 ^ 32))).setShadow p R.SPN_NOW_SUB (word (tSub s.now)) := by
  have h : s.rlCopy p R.SPN_NOW_LO = (s.setShadow p R.SPN_NOW_HI (word ((word (s.nowNs / 2 ^ 32)).toNat &&& 0xFFFFFFFF))).setShadow p R.SPN_NOW_SUB
    (word ((word (tSub s.now)).toNat &&& 0xFFFFFFFF)) := rfl
  rw [h, and_full, and_full, word_of_toNat, word_of_toNat]

theorem sregs_named (e : Fin 8) (m : Fin 64) : descAt (R.Ge_SREGm_LO e m) ≠ none ∧ descAt (R.Ge_SREGm_HI e m) ≠ none ∧ stBits (R.Ge_SREGm_LO e m) = 0 := by
  revert e m
  decide +kernel

theorem siteOf_sreg (p : Path) (e : Fin 8) (m : Fin 64) : siteOf p (word (R.Ge_SREGm_LO e m)).toNat = .reg (R.Ge_SREGm_LO e m) ∧
    siteOf p (word (R.Ge_SREGm_HI e m)).toNat = .reg (R.Ge_SREGm_HI e m) := by
  have h : ∀ k, 0x200 ≤ k → k < 0x400 → k % 4 = 0 → descAt (0x40000 + 0x1000 * e.val + k) ≠ none →
      siteOf p (word (0x40000 + 0x1000 * e.val + k)).toNat = .reg (0x40000 + 0x1000 * e.val + k) := by
    intro k hk0 hk1 hk2 hd
    have hb : partialBase (0x40000 + 0x1000 * e.val) := ⟨by omega, by omega⟩
    rw [word_toNat_of_lt (by omega), siteOf_partialPage hb p (show k < 0x1000 by omega)]
    have ho : 0x40000 + 0x1000 * e.val + k % 0x400 / 4 * 4 = 0x40000 + 0x1000 * e.val + k := by omega
    simp only [partialSite, ho, Option.isSome_iff_ne_none.2 hd, if_true]
  have hlo : R.Ge_SREGm_LO e m = 0x40000 + 0x1000 * e.val + (0x200 + 8 * m.val) := by unfold R.Ge_SREGm_LO; omega
  have hhi : R.Ge_SREGm_HI e m = 0x40000 + 0x1000 * e.val + (0x204 + 8 * m.val) := by unfold R.Ge_SREGm_HI; omega
  obtain ⟨h1, h2, -⟩ := sregs_named e m
  rw [hlo] at h1 ⊢
  rw [hhi] at h2 ⊢
  exact ⟨h _ (by omega) (by omega) (by omega) h1, h _ (by omega) (by omega) (by omega) h2⟩

/-- Where the copies of a shared register's read go, and that its own word is none. -/
theorem sreg_copies (e : Fin 8) (m : Fin 64) : rlCopies (R.Ge_SREGm_LO e m) = [(R.Ge_SREGm_HI e m, 0xFFFFFFFF)] ∧ rlCopies (R.Ge_SREGm_HI e m) = [] ∧
    copyMask (R.Ge_SREGm_LO e m) = 0 ∧ copyMask (R.Ge_SREGm_HI e m) = 0xFFFFFFFF := by
  revert e m
  decide +kernel

theorem liveWord_sreg (s : State) (p : Path) (view : Bool) (e : Fin 8) (m : Fin 64) :
    s.liveWord p view (R.Ge_SREGm_LO e m) = word s.gaf[e].sreg[m].toNat ∧
      s.liveWord p view (R.Ge_SREGm_HI e m) = word (s.gaf[e].sreg[m].toNat / 2 ^ 32) := by
  have h : ∀ o, 0x40000 ≤ o → o < 0x48000 → s.liveWord p view o = s.gafWord ⟨(o - 0x40000) / 0x1000 % 8, Nat.mod_lt _ (by decide)⟩ (o % 0x1000) := by
    intro o h1 h2
    unfold State.liveWord
    iterate 13 rw [if_neg (by omega)]
    rw [if_pos (by omega)]
  have hg : ∀ i, 0x200 ≤ i → (i - 0x200) / 8 % 64 = m.val → s.gafWord e i = if i % 8 = 0 then word s.gaf[e].sreg[m].toNat
      else word (s.gaf[e].sreg[m].toNat / 2 ^ 32) := by
    intro i hi hm
    obtain rfl : (⟨(i - 0x200) / 8 % 64, Nat.mod_lt _ (by decide)⟩ : Fin 64) = m := Fin.ext hm
    unfold State.gafWord
    dsimp only
    rw [if_neg (by omega), if_neg (by omega), if_neg (by omega), if_neg (by omega), if_pos hi]
  have hlo : R.Ge_SREGm_LO e m = 0x40200 + 0x1000 * e + 0x8 * m := rfl
  have hhi : R.Ge_SREGm_HI e m = 0x40204 + 0x1000 * e + 0x8 * m := rfl
  have he : ∀ k, k < 0x400 → (⟨(0x40000 + 0x1000 * e.val + k - 0x40000) / 0x1000 % 8, Nat.mod_lt _ (by decide)⟩ : Fin 8) = e := fun k hk => Fin.ext (by
    show _ / 0x1000 % 8 = e.val; omega)
  have hkey : ∀ j, j < 8 → s.liveWord p view (0x40000 + 0x1000 * e.val + (0x200 + 8 * m.val + j)) =
      if j = 0 then word s.gaf[e].sreg[m].toNat else word (s.gaf[e].sreg[m].toNat / 2 ^ 32) := fun j hj => by
    have hi : (0x40000 + 0x1000 * e.val + (0x200 + 8 * m.val + j)) % 0x1000 = 0x200 + 8 * m.val + j := by omega
    have h8 : (0x200 + 8 * m.val + j) % 8 = 0 ↔ j = 0 := by omega
    rw [h _ (by omega) (by omega), he (0x200 + 8 * m.val + j) (by omega), hi, hg (0x200 + 8 * m.val + j) (by omega) (by omega)]
    simp only [h8]
  have h0 := (hkey 0 (by decide)).trans (if_pos rfl)
  have h4 := (hkey 4 (by decide)).trans (if_neg (by decide))
  rw [hlo, hhi, show 0x40200 + 0x1000 * e.val + 0x8 * m.val = 0x40000 + 0x1000 * e.val + (0x200 + 8 * m.val + 0) by omega,
    show 0x40204 + 0x1000 * e.val + 0x8 * m.val = 0x40000 + 0x1000 * e.val + (0x200 + 8 * m.val + 4) by omega]
  exact ⟨h0, h4⟩

end Sys2Proof.Machine
end

section
set_option Elab.async false
namespace Sys2Proof
open Sys2Proof.Machine

theorem timeReads_hold (p : Path) {s : State} (hp : s.powered = true) :
    (∃ t u w, exec (.rlRead p (word R.SPN_NOW_LO)) s = .next t ∧ (t.path p).rdata = [word s.nowNs] ∧
      exec (.rlRead p (word R.SPN_NOW_HI)) t = .next u ∧ (u.path p).rdata = [word (s.nowNs / 2 ^ 32)] ∧
      exec (.rlRead p (word R.SPN_NOW_SUB)) u = .next w ∧ (w.path p).rdata = [word (tSub s.now)] ∧
      w.path (otherPath p) = s.path (otherPath p) ∧ (∀ o, w.reg o = s.reg o) ∧ State.sameBlocks { s with pcie := w.pcie, spi := w.spi } w) ∧
    (∀ o ∈ [R.SPN_NOW_HI, R.SPN_NOW_SUB], ∃ t, exec (.rlRead p (word o)) s = .next t ∧ (t.path p).rdata = [s.shadowWord p o] ∧
      ∀ x, t.shadowWord p x = s.shadowWord p x) := by
  obtain ⟨hs1, hs2, hs3⟩ := timeRegs_sites p
  obtain ⟨m1, m2, m3, m4, c2, c3⟩ := timeRegs_masks
  have hread : ∀ o ∈ [R.SPN_NOW_HI, R.SPN_NOW_SUB], ∀ {u : State}, u.powered = true → exec (.rlRead p (word o)) u = .next (u.answer p (u.shadowWord p o)) := by
    intro o ho u hu
    simp only [List.mem_cons, List.not_mem_nil, or_false] at ho
    obtain rfl | rfl := ho
    · rw [exec_regRead hu hs2 (by decide) (by decide) (by decide) (by decide), readWord_copy m3]
      simp only [State.rlCopy, c2, List.foldl_nil]
    · rw [exec_regRead hu hs3 (by decide) (by decide) (by decide) (by decide), readWord_copy m4]
      simp only [State.rlCopy, c3, List.foldl_nil]
  refine ⟨?_, fun o ho => ⟨_, hread o ho hp, answer_rdata s p _, fun x => shadowWord_answer s p _ x⟩⟩
  let t := (s.rlCopy p R.SPN_NOW_LO).answer p (s.readWord p R.SPN_NOW_LO)
  have hx : exec (.rlRead p (word R.SPN_NOW_LO)) s = .next t := exec_regRead hp hs1 (by decide) (by decide) (by decide) (by decide)
  have ht : PathOnly p s t := (rlCopy_only p s _).trans (answer_only p _ _)
  have hcopy := rlCopy_now s p
  have hhi : t.shadowWord p R.SPN_NOW_HI = word (s.nowNs / 2 ^ 32) := by
    rw [show t = _ from rfl, shadowWord_answer, hcopy, shadowWord_setShadow, if_neg (by decide), shadowWord_setShadow, if_pos rfl]
  have hsub : t.shadowWord p R.SPN_NOW_SUB = word (tSub s.now) := by
    rw [show t = _ from rfl, shadowWord_answer, hcopy, shadowWord_setShadow, if_pos rfl]
  have hpt : t.powered = true := ht.gates.1.trans hp
  have hu : PathOnly p t (t.answer p (t.shadowWord p R.SPN_NOW_HI)) := answer_only p t _
  have hw : PathOnly p _ ((t.answer p (t.shadowWord p R.SPN_NOW_HI)).answer p ((t.answer p (t.shadowWord p R.SPN_NOW_HI)).shadowWord p R.SPN_NOW_SUB)) :=
    answer_only p _ _
  have hall := (ht.trans hu).trans hw
  refine ⟨t, _, _, hx, ?_, hread _ (by simp) hpt, ?_, hread _ (by simp) (hu.gates.1.trans hpt), ?_, hall.other, hall.reg, hall.blocks⟩
  · rw [show t = _ from rfl, answer_rdata, readWord_live m1 m2]
    rfl
  · rw [answer_rdata, hhi]
  · rw [answer_rdata, shadowWord_answer, hsub]

theorem sregReads_hold (p : Path) {s : State} (hp : s.powered = true) (e : Fin 8) (m : Fin 64) :
    ∃ t u, exec (.rlRead p (word (R.Ge_SREGm_LO e m))) s = .next t ∧
      (t.path p).rdata = [word s.gaf[e].sreg[m].toNat] ∧ t.path (otherPath p) = s.path (otherPath p) ∧
      exec (.rlRead p (word (R.Ge_SREGm_HI e m))) t = .next u ∧ (u.path p).rdata = [word (s.gaf[e].sreg[m].toNat / 2 ^ 32)] ∧
      (∀ o, u.reg o = s.reg o) ∧ State.sameBlocks { s with pcie := u.pcie, spi := u.spi } u := by
  obtain ⟨hlo, hhi⟩ := siteOf_sreg p e m
  obtain ⟨c1, c2, m1, m2⟩ := sreg_copies e m
  obtain ⟨hl1, -⟩ := liveWord_sreg s p (s.viewOf p) e m
  obtain ⟨-, hl2⟩ := liveWord_sreg s p false e m
  have hbound : 0x40000 ≤ R.Ge_SREGm_LO e m ∧ R.Ge_SREGm_LO e m < 0x48000 ∧ 0x40000 ≤ R.Ge_SREGm_HI e m ∧ R.Ge_SREGm_HI e m < 0x48000 := by
    unfold R.Ge_SREGm_LO R.Ge_SREGm_HI; omega
  have hread : ∀ {u : State} {o : Nat}, 0x40000 ≤ o → o < 0x48000 → siteOf p (word o).toNat = .reg o → u.powered = true →
      exec (.rlRead p (word o)) u = .next ((u.rlCopy p o).answer p (u.readWord p o)) := fun h1 h2 hs hu =>
    exec_regRead hu hs (by omega) (by omega) (by unfold R.SPN_PPSI_LO; omega) (by unfold R.CAL_U_DATA; omega)
  have hcopy : s.rlCopy p (R.Ge_SREGm_LO e m) = s.setShadow p (R.Ge_SREGm_HI e m) (word (s.gaf[e].sreg[m].toNat / 2 ^ 32)) := by
    rw [State.rlCopy, c1, List.foldl_cons, List.foldl_nil, hl2, and_full, word_of_toNat]
  let t := (s.rlCopy p (R.Ge_SREGm_LO e m)).answer p (s.readWord p (R.Ge_SREGm_LO e m))
  have ht : PathOnly p s t := (rlCopy_only p s _).trans (answer_only p _ _)
  have hsh : t.shadowWord p (R.Ge_SREGm_HI e m) = word (s.gaf[e].sreg[m].toNat / 2 ^ 32) := by
    rw [show t = _ from rfl, shadowWord_answer, hcopy, shadowWord_setShadow, if_pos rfl]
  have hu : PathOnly p s ((t.rlCopy p (R.Ge_SREGm_HI e m)).answer p (t.readWord p (R.Ge_SREGm_HI e m))) :=
    ht.trans ((rlCopy_only p t _).trans (answer_only p _ _))
  refine ⟨t, _, hread hbound.1 hbound.2.1 hlo hp, ?_, ht.other, hread hbound.2.2.1 hbound.2.2.2 hhi (ht.gates.1.trans hp), ?_, hu.reg, hu.blocks⟩
  · rw [show t = _ from rfl, answer_rdata, readWord_live (sregs_named e m).2.2 m1, hl1]
  · rw [answer_rdata, readWord_copy m2, hsh]

theorem sregWrites_hold (p : Path) {s : State} (hw : s.takesWrites = true) (e : Fin 8) (m : Fin 64) (lo hi : Word) :
    ∃ t u, exec (.registerWrite p (word (R.Ge_SREGm_LO e m)) lo true) s = .next t ∧ t.gaf = s.gaf ∧
      t.path (otherPath p) = s.path (otherPath p) ∧ exec (.sregStore p e m hi) t = .next u ∧
      u.gaf = (s.modGaf e (fun g => { g with sreg := g.sreg.set m (BitVec.ofNat 40 (lo.toNat + 2 ^ 32 * (hi.toNat % 256))) })).gaf ∧
      s.sameRegsBut u [R.GL_CFGGEN] ∧ State.sameBlocks { s with gaf := u.gaf, pcie := u.pcie, spi := u.spi } u := by
  have hb : 0x40200 ≤ R.Ge_SREGm_LO e m ∧ R.Ge_SREGm_LO e m < 0x48000 ∧ 0x200 ≤ R.Ge_SREGm_LO e m % 0x1000 ∧ R.Ge_SREGm_LO e m % 0x1000 % 8 = 0 := by
    unfold R.Ge_SREGm_LO; omega
  have hwr : s.writeReg p (R.Ge_SREGm_LO e m) lo = s.setHeld p (R.Ge_SREGm_LO e m) lo := by
    have h : s.writeReg p (R.Ge_SREGm_LO e m) lo = s.gafPageWrite p (R.Ge_SREGm_LO e m) lo := by
      unfold State.writeReg
      iterate 14 rw [if_neg (by omega)]
      rw [if_pos (by omega)]
    rw [h, State.gafPageWrite, if_neg (by omega), if_neg (by omega), if_pos ⟨hb.2.2.1, hb.2.2.2⟩]
  have hx := exec_fullWrite (v := lo) hw (siteOf_sreg p e m).1 (by unfold R.PW_CMD; omega) (by unfold R.FRZ_CMD; omega) (by unfold R.CFG_CMD; omega)
  rw [hwr] at hx
  have ht := setHeld_only p s (R.Ge_SREGm_LO e m) lo
  refine ⟨_, _, hx, ht.gaf, ht.other, hostAct_open (ht.takesWrites.trans hw) p _ _, ?_, fun o _ _ => ht.reg o, ?_⟩
  · have hheld : (s.setHeld p (R.Ge_SREGm_LO e m) lo).heldWord p (R.Ge_SREGm_LO e m) = lo := (heldWord_setHeld s p _ lo _).trans (if_pos rfl)
    simp only [State.sregStore, hheld, State.modGaf, ht.gaf]
    rfl
  · obtain ⟨hf, hc⟩ := ht.blocks
    exact ⟨hf, hc.1, rfl, hc.2.2⟩

/-- Settles O53: time reads, the copies, and the two halves of a shared register. -/
theorem timeReadsAndSharedRegisters : Obligations.TimeReadsAndSharedRegisters := by
  intro p s
  refine ⟨by cases p <;> exact ⟨rfl, rfl⟩, fun hp => ?_, fun hw e m lo hi => sregWrites_hold p hw e m lo hi⟩
  obtain ⟨h1, h2⟩ := timeReads_hold p hp
  exact ⟨h1, h2, fun e m => sregReads_hold p hp e m⟩

end Sys2Proof
end

section
/-!
SUPPORT. A state that the loader's statement (O56) does not hold in: what RETAIN keeps of the event controller holds a word of `CFG_STAT`.
-/
set_option Elab.async false
namespace Sys2Proof.Machine
open Sys2Proof

/-- A load that is about to select, with every bank measured, in which the words that RETAIN keeps name `CFG_STAT`: the end of the load
writes them back (`State.ecRestore`). -/
def loadingRetained : State :=
  { State.reset with
    spine := { State.reset.spine with counting := true }
    load := { State.reset.load with
      only := 3, excl := 0, sel := none, ended := none, meas := some ⟨(List.finRange 12).map (fun b => ⟨b, 0, 0, []⟩), [], 0⟩ }
    pw := { State.reset.pw with retEc := some ⟨[], [(R.CFG_STAT, 0)]⟩ } }

theorem loadingRetained_selects : loadingRetained.takesEvents = true ∧ loadingRetained.loading = true ∧ loadingRetained.load.sel = none ∧
    loadingRetained.load.ended = none ∧ loadingRetained.spine.counting = true ∧ loadingRetained.load.only = 3 ∧ loadingRetained.load.excl = 0 := by
  decide +kernel

/-- A slot without a byte has no header that passes. -/
theorem emptySlot_header : (slotFrom []).headerOk = false := by decide +kernel

/-- The load ends without an image, and without the bit that says so. -/
theorem loadingRetained_ends : (loadingRetained.selection (slotFrom []) (slotFrom []) (slotFrom [])).ron F.CFG_STAT_NOIMAGE = false := by
  decide +kernel

theorem exec_slotSelection {s : State} (h : s.takesEvents = true) (i0 i1 i2 : List Byte) :
    exec (.slotSelection i0 i1 i2) s = .next (s.selection (slotFrom i0) (slotFrom i1) (slotFrom i2)) :=
  event_open h (fun s => s.selection (slotFrom i0) (slotFrom i1) (slotFrom i2))

end Sys2Proof.Machine
end

section
set_option Elab.async false
namespace Sys2Proof
open Sys2Proof.Machine

/-- Refutes O56: where no slot has an image, the first clause asks for `CFG_STAT.NOIMAGE` in every state whose load selects. In
`loadingRetained` the words kept over RETAIN name `CFG_STAT` itself, and the end of the load puts them back. -/
theorem not_loaderSelectsAndLoads : ¬ Obligations.LoaderSelectsAndLoads := by
  intro h
  obtain ⟨hsel, -⟩ := h
  obtain ⟨he, hl, hs, hend, hcnt, honly, hexcl⟩ := loadingRetained_selects
  obtain ⟨-, -, hload, -⟩ := hsel [] [] [] loadingRetained he
  have hbad : ∀ i ∈ [([] : List Byte), [], []], ¬ goodImage loadingRetained i := by
    intro i hi hg
    obtain rfl : i = [] := by simpa using hi
    exact absurd hg.1 (by rw [emptySlot_header]; decide)
  obtain ⟨t, hx, hno, -⟩ := (hload hl hs hend hcnt honly hexcl).1 hbad
  have ht : loadingRetained.selection (slotFrom []) (slotFrom []) (slotFrom []) = t :=
    Host.Outcome.next.inj ((exec_slotSelection he [] [] []).symm.trans hx)
  rw [← ht, loadingRetained_ends] at hno
  exact absurd hno (by decide)

end Sys2Proof
end

section
/-!
SUPPORT. A state that the statement of the FIFO's commands (O18) does not hold in: a train whose turn is a compare that a channel does not have.
-/
set_option Elab.async false
namespace Sys2Proof.Machine
open Sys2Proof

/-- A device that runs: no load, RUN, the channels released, the spine counting at 1,000 ns. -/
def running : State :=
  { ((State.reset.rput F.CFG_STAT_LOADING 0).rput F.CFG_STAT_HELD 0).rput F.PW_STAT_STATE 1 with
    ch := State.reset.ch.map (fun x => { x with holdBoot := false })
    spine := { Spine.reset with counting := true, acc := BitVec.ofNat 104 (1000 * 2 ^ 40) } }

/-- The edge that compare B has armed, and the train's position behind it. -/
def oddArmed : FifoArmed := ⟨1, ⟨64000, 2, false, false, 0⟩, ⟨0, 0, none, 63000⟩⟩
def oddEntry : FifoEnt := ⟨256, 2, 0, false, false, false, false⟩

/-- A train on channel 5, owned by the FIFO on both compares in turn, whose edge on compare B is reached while the turn is at compare "5": the
next edge lies 256 subs behind it. -/
def oddTrain : State :=
  (running.rput (F.CHc_CTRL_OWN 5) 2).modCh 5 (fun x =>
    { x with
      cmpB := { Cmp.reset with armed := true, tb := 64000, act := 2, fifo := true }
      fifo := { x.fifo with
        ents := [oddEntry], state := .run, next := ⟨0, 0, none, 64000⟩, unit := 5, fromBase := false, armed := [oddArmed] } })

theorem oddTrain_fires : oddTrain.takesEvents = true ∧ oddTrain.launched 5 true = true ∧ oddTrain.held 5 = false ∧
    (cmpOf oddTrain.ch[(5 : Fin 96)] true).fifo = true ∧ (cmpOf oddTrain.ch[(5 : Fin 96)] true).place = none ∧
    (cmpOf oddTrain.ch[(5 : Fin 96)] (!true)).armed = false ∧ oddTrain.ch[(5 : Fin 96)].fifo.state = .run ∧
    oddTrain.ch[(5 : Fin 96)].fifo.armed = [oddArmed] ∧ oddTrain.ch[(5 : Fin 96)].fifo.fromBase = false := by
  decide +kernel

/-- The next edge, its body, and the position behind it. -/
def oddBegun : FifoPos := ⟨0, 0, some ⟨0, 0, 0⟩, 64000⟩
def oddNext : FifoEdge × FifoPos := (⟨64256, 2, false, false, 0⟩, ⟨1, 0, none, 64256⟩)

theorem oddTrain_next : oddTrain.ch[(5 : Fin 96)].fifo.next.spent = 0 ∧
    fifoBegun oddTrain.ch[(5 : Fin 96)].fifo.ents oddTrain.ch[(5 : Fin 96)].fifo.next = some oddBegun ∧
    fifoEdge oddTrain.ch[(5 : Fin 96)].fifo.ents oddBegun = some oddNext ∧ oddTrain.dueD 5 oddNext.1.target ≤ 0 := by
  decide +kernel

/-- By the statement's own test the edge keeps the spacing. -/
theorem oddTrain_keeps :
    spacingOk oddNext.1.target (some oddArmed.edge.target)
      (if oddTrain.fifoUnit 5 = b2n true then some oddArmed.edge.target
       else if oddTrain.fifoUnit 5 = 0 then oddTrain.ch[(5 : Fin 96)].fifo.lastA else oddTrain.ch[(5 : Fin 96)].fifo.lastB) = true := by
  decide +kernel

/-- In the model it does not: compare "5" is judged by the last edge of compare B, which has just fired. -/
theorem oddTrain_halts : (oddTrain.cmpReach 5 true).ch[(5 : Fin 96)].fifo.state = .halted := by decide +kernel

theorem exec_compareFire {s : State} (h : s.takesEvents = true) (c : Fin 96) (u : Bool) : exec (.compareFire c u) s = .next (s.cmpReach c u) :=
  event_open h (fun s => s.cmpReach c u)

end Sys2Proof.Machine
end

section
set_option Elab.async false
namespace Sys2Proof
open Sys2Proof.Machine

/-- Refutes O18: the last clause judges the edge that follows on a compare other than A and B by the edges fired before, the model by the one
that fires now. In `oddTrain` the turn is at such a compare, and the train halts where the clause has it run. -/
theorem not_fifoCommandsRun : ¬ Obligations.FifoCommandsRun := by
  rintro ⟨-, -, hfires⟩
  obtain ⟨he, hl, hh, hf, hp, ho, hr, ha, hb⟩ := oddTrain_fires
  obtain ⟨hspent, hbeg, hedge, hdue⟩ := oddTrain_next
  obtain ⟨t, hx, -, hkeeps, -⟩ :=
    (hfires 5 true oddArmed oddTrain he hl hh hf hp ho hr ha rfl hb).2 oddBegun oddNext.1 oddNext.2 hspent hbeg hedge
  obtain ⟨-, hrun, -⟩ := hkeeps hdue oddTrain_keeps
  have ht : oddTrain.cmpReach 5 true = t := Host.Outcome.next.inj ((exec_compareFire he 5 true).symm.trans hx)
  rw [← ht, oddTrain_halts] at hrun
  exact absurd hrun (by decide)

end Sys2Proof
end

section
/-!
SUPPORT. A strobe of groups in which nothing is staged, and a tick in which nothing else is due: what they leave as it is. And a state that the
statement of the apply block (O47) does not hold in: two pending entries whose time a step has passed, one of them due in the next tick.
-/
set_option Elab.async false
namespace Sys2Proof.Machine
open Sys2Proof

/-! ### A strobe of nothing -/

theorem calStrobe_self (s : State) : s.calStrobe s = s := by simp [State.calStrobe]

theorem spnStrobe_still {s : State} (h : s.spine.pend = none) (g : Nat) : s.spnStrobe g = s := by unfold State.spnStrobe; rw [h]

theorem activate_still {s : State} (h : s.staged = []) (m : Nat) : s.activate m = s := by
  obtain ⟨⟩ := s
  subst h
  rfl

theorem activateCal_still {s : State} (h : s.calS = []) (m : Nat) : s.activateCal m = s := by
  obtain ⟨⟩ := s
  subst h
  rfl

/-- Nothing is staged, no phase command waits, and no channel is in a group of the mask. -/
structure NothingFor (s : State) (m : Nat) : Prop where
  staged : s.staged = []
  calS : s.calS = []
  pend : s.spine.pend = none
  apart : ∀ c : Fin 96, nbit m (s.rget (F.CHc_AG_AG c)) = false

theorem strobe_still {s : State} {m : Nat} (h : NothingFor s m) : s.strobe m = (s, s.dirty &&& m) := by
  have hch : (List.finRange 96).foldl (fun (x : State) (c : Fin 96) => if nbit m (s.rget (F.CHc_AG_AG c)) then x.chStrobe s c else x) s = s :=
    List.foldl_fixed' (fun c => if_neg (by rw [h.apart c]; exact Bool.false_ne_true)) _
  have hspn : (List.range 8).foldl (fun (x : State) g => if nbit m g then x.spnStrobe g else x) s = s :=
    List.foldl_fixed' (fun g => by rw [spnStrobe_still h.pend, ite_self]) _
  unfold State.strobe
  simp only [activate_still h.staged, activateCal_still h.calS]
  rw [show (decide (s.regs ≠ s.regs ∨ s.calU ≠ s.calU) || (s.ap != s.ap && s.heldDiffers)) = false by simp]
  simp only [Bool.false_eq_true, if_false, calStrobe_self, hch, hspn]

/-- What the strobe of some entries, and of the groups of an APPLY_STROBE, leaves of such a state. -/
def strobedOnly (s : State) (m : Nat) (es : List Nat) : State :=
  let freed := es.foldl (fun (a : State) i => a.apFree i) s
  es.foldl (fun (a : State) i => a.apDone s i (freed.dirty &&& m)) (freed.strobeNote m (freed.dirty &&& m))

theorem apStrobe_still {s : State} {extra m : Nat} {es : List Nat} (hm : extra ||| s.apGroups es = m) (h0 : m ≠ 0)
    (h : NothingFor (es.foldl (fun (a : State) i => a.apFree i) s) m) : s.apStrobe extra [] es = strobedOnly s m es := by
  unfold State.apStrobe strobedOnly
  simp only [List.foldl_nil, hm, if_neg h0, strobe_still h]

/-! ### A tick in which nothing else is due -/

/-- No image, slew, cam edge or Orrery command waits for the end of the tick, and no value of a strobe. -/
structure EndsQuietly (s : State) : Prop where
  img : ∀ c : Fin 96, s.ch[c].imgPend = false
  slew : s.spine.slew = none
  cam : ∀ n : Fin 4, s.ory[n].camWait = none
  cmds : ∀ n : Fin 4, s.ory[n].cmds = []
  regs : s.ap.regs = []
  words : s.ap.words = []

theorem oCmdRun_still {s : State} {n : Fin 4} (h : s.ory[n].cmds = []) : s.oCmdRun n = s := by
  unfold State.oCmdRun
  simp only [h, List.takeWhile_nil, List.foldl_nil, if_pos, List.length_nil, List.drop_zero]
  have hn : s.ory.set n s.ory[n] = s.ory := Vector.set_getElem_self n.isLt
  have ho : ({ s.ory[n] with cmds := [] } : Orrery) = s.ory[n] := by rw [← h]
  show { s with ory := s.ory.set n { s.ory[n] with cmds := _ } } = s
  rw [h, ho, hn]

theorem tickEnd_still {s : State} (h : EndsQuietly s) : s.tickEnd = s := by
  have himg : (List.finRange 96).foldl (fun (s : State) (c : Fin 96) => s.flushImage c) s = s :=
    List.foldl_fixed' (fun c => by unfold State.flushImage; rw [if_neg (by rw [h.img c]; exact Bool.false_ne_true)]) _
  have hory : (List.finRange 4).foldl (fun (s : State) (n : Fin 4) => s.oTickEnd n) s = s :=
    List.foldl_fixed' (fun n => by
      have hc : s.oCamSettle n = s := by unfold State.oCamSettle; rw [h.cam n]
      unfold State.oTickEnd; rw [hc, oCmdRun_still (h.cmds n)]) _
  have hslew : s.slewFinish = s := by unfold State.slewFinish; rw [h.slew]
  unfold State.tickEnd
  simp only [himg, hslew, hory]
  unfold State.activateHeld
  rw [if_pos ⟨h.regs, h.words⟩]

/-- Nothing waits for the start of a tick but what the apply block does there. -/
structure StartsQuietly (s : State) : Prop where
  swap : ∀ b : Fin 12, s.banks[b].swap = false
  queue : ∀ k : Fin 2, s.conv[k].queue = []
  qwait : ∀ n : Fin 4, s.ory[n].qwait = none
  bcs : ∀ n : Fin 4, s.ory[n].bcs = []
  lehr : s.ron F.LH_CTRL_EN = false
  root : s.ron F.EL_STAT_ISROOT = false
  inLvl : ∀ c : Fin 96, s.ch[c].inLvl = false
  own : ∀ c : Fin 96, s.ch[c].own = []
  stage : ∀ c : Fin 96, s.ch[c].stage = []
  caps : ∀ (c : Fin 96) (k : Bool), (capOf s.ch[c] k).s1 = none

theorem capPump_still {s : State} {c : Fin 96} (h : ∀ k, (capOf s.ch[c] k).s1 = none) : s.capPump c = s :=
  List.foldl_fixed' (fun k => by simp only [State.capStep, State.capRecord, h k]) _

theorem chTick_still {s : State} (h : StartsQuietly s) (c : Fin 96) : s.chTick c = s := by
  unfold State.chTick
  rw [if_neg (by rw [h.inLvl c]; exact Bool.false_ne_true)]
  unfold State.ownStep State.stagePump
  simp only [if_pos (h.own c), if_pos (h.stage c)]
  exact capPump_still (h.caps c)

theorem oTickStart_still {s : State} (h : StartsQuietly s) (n : Fin 4) : s.oTickStart n = s := by
  have hq : s.oQuadDue n = s := by unfold State.oQuadDue; rw [h.qwait n]
  unfold State.oTickStart
  rw [hq]
  unfold State.oDeliver
  rw [h.bcs n]
  rfl

/-- The tick that the apply block begins. -/
def ticked (s : State) : State := { s.modSpine (fun p => { p with tick := p.tick + 1 }) with hif := { s.hif with evSet := [] } }

theorem tickStart_still {s u : State} {extra : Nat} (hslow : s.hif.slow = []) (hold : s.hif.slowOld = []) (hu : (ticked s).apTick extra = u)
    (h : StartsQuietly u) : s.tickStart extra = u := by
  have hedge : (ticked s).slowTick s.spine.tick = ticked s := by
    unfold State.slowTick
    exact if_neg (fun hx => hx.2.elim (fun h1 => h1 hslow) (fun h2 => h2 hold))
  have hb : (List.finRange 12).foldl (fun (s : State) (b : Fin 12) => s.bankSwap b) u = u :=
    List.foldl_fixed' (fun b => by unfold State.bankSwap; rw [if_neg (by rw [h.swap b]; exact Bool.false_ne_true)]) _
  have hk : (List.finRange 2).foldl (fun (s : State) (k : Fin 2) => s.convTick k) u = u :=
    List.foldl_fixed' (fun k => by unfold State.convTick; rw [h.queue k]) _
  have hn : (List.finRange 4).foldl (fun (s : State) (n : Fin 4) => s.oTickStart n) u = u := List.foldl_fixed' (oTickStart_still h) _
  have hl : u.lhLateCheck = u := by
    unfold State.lhLateCheck
    exact if_neg (fun hx => absurd hx.1 (by rw [h.lehr]; exact Bool.false_ne_true))
  have hr : u.rseqStep = u := by
    unfold State.rseqStep
    rw [if_neg (by rw [h.root]; exact Bool.false_ne_true)]
  have hc : (List.finRange 96).foldl (fun (s : State) (c : Fin 96) => s.chTick c) u = u := List.foldl_fixed' (chTick_still h) _
  unfold State.tickStart
  simp only [show ({ s.modSpine (fun p => { p with tick := p.tick + 1 }) with hif := { s.hif with evSet := [] } } : State) = ticked s from rfl,
    hedge, hu, hb, hn, hk, hl, hr, hc]

/-! ### Two entries that a step has passed -/

/-- Entry 0, of group 1, is at 1,000 ns; entry 1, of group 2, at 2^32 ns. Both are marked as passed by a step. -/
def twoPassed : State :=
  let s := ((((running.setReg (R.AP_PENDi_LO 0) 1000).rput (F.AP_PENDi_INFO_GROUPS 0) 2).rput (F.AP_PENDi_INFO_VALID 0) 1).setReg
    (R.AP_PENDi_HI 1) 1).rput (F.AP_PENDi_INFO_GROUPS 1) 4 |>.rput (F.AP_PENDi_INFO_VALID 1) 1
  { s with ap := { s.ap with passed := 3 } }

theorem twoPassed_ticks : twoPassed.takesEvents = true ∧ twoPassed.spine.counting = true ∧ twoPassed.spine.pend = none ∧
    twoPassed.hif.slow = [] ∧ twoPassed.spine.slew = none ∧ twoPassed.ap.reqs = [] := by
  decide +kernel

/-- Entry 1 does not strobe in the next tick. -/
theorem twoPassed_waits : strobesNext twoPassed 1 = false := by decide +kernel

/-- The end of the tick. -/
def twoEnded : State := { twoPassed with pw := { twoPassed.pw with wdgTicks := twoPassed.pw.wdgTicks + 1 } }

theorem twoEnded_quiet : EndsQuietly twoEnded where
  img := by decide +kernel
  slew := by decide +kernel
  cam := by decide +kernel
  cmds := by decide +kernel
  regs := by decide +kernel
  words := by decide +kernel

/-- The tick that begins, before its strobe. -/
def twoBegun : State := { ticked twoEnded.spineMove with ap := { twoEnded.ap with reqs := [] } }

theorem pllTick_twoPassed (extra : Nat) : twoPassed.pllTickWith extra = twoEnded.spineMove.tickStart extra := by
  unfold State.pllTickWith
  rw [if_neg (by decide +kernel), if_neg (by decide +kernel)]
  simp only [if_neg (by decide +kernel : ¬ twoPassed.loading = true)]
  unfold State.tickMove
  exact congrArg (fun s : State => s.spineMove.tickStart extra) (tickEnd_still twoEnded_quiet)

/-- The strobe of entry 0 and of the row's group 1. -/
def twoFirst : State := strobedOnly twoBegun 2 [0]
/-- The strobe of entry 1 in the same tick. -/
def twoSecond : State := strobedOnly twoFirst 4 [1]

theorem twoBegun_strobes : twoBegun.apStrobe 2 [] [0] = twoFirst :=
  apStrobe_still (by decide +kernel) (by decide)
    { staged := by decide +kernel, calS := by decide +kernel, pend := by decide +kernel, apart := by decide +kernel }

theorem twoFirst_strobes : twoFirst.apStrobe 0 [] [1] = twoSecond :=
  apStrobe_still (by decide +kernel) (by decide)
    { staged := by decide +kernel, calS := by decide +kernel, pend := by decide +kernel, apart := by decide +kernel }

theorem twoFirst_passed : (List.range 8).filter (fun i => twoFirst.apPassedBit i) = [1] := by decide +kernel
theorem twoSecond_passed : (List.range 8).filter (fun i => twoSecond.apPassedBit i) = [] := by decide +kernel
theorem twoFirst_marks : twoFirst.ap.passed ≠ (ticked twoEnded.spineMove).ap.passed := by decide +kernel

theorem twoFirst_follows : twoFirst.apFollow (ticked twoEnded.spineMove) = twoSecond := by
  unfold State.apFollow
  rw [if_neg twoFirst_marks]
  unfold State.apPassed
  simp only [twoFirst_passed, List.cons_ne_nil, if_false, twoFirst_strobes]
  unfold State.apPassed
  simp only [twoSecond_passed, if_true]

theorem twoBegun_due : (List.range 8).filter (fun i => (ticked twoEnded.spineMove).apDue i) = [0] := by decide +kernel
theorem twoBegun_requests : (ticked twoEnded.spineMove).apApplies = [] ∧ (ticked twoEnded.spineMove).apAborts = [] := by decide +kernel

theorem twoBegun_ticks : (ticked twoEnded.spineMove).apTick 2 = twoSecond := by
  obtain ⟨happ, hab⟩ := twoBegun_requests
  unfold State.apTick
  simp only [twoBegun_due, happ, hab, List.foldl_nil]
  rw [show ({ ticked twoEnded.spineMove with ap := { (ticked twoEnded.spineMove).ap with reqs := [] } } : State) = twoBegun from rfl,
    twoBegun_strobes, twoFirst_follows]

theorem twoSecond_quiet : StartsQuietly twoSecond where
  swap := by decide +kernel
  queue := by decide +kernel
  qwait := by decide +kernel
  bcs := by decide +kernel
  lehr := by decide +kernel
  root := by decide +kernel
  inLvl := by decide +kernel
  own := by decide +kernel
  stage := by decide +kernel
  caps := by decide +kernel

/-- With entry 0 freed the mark of the step has changed, and entry 1 is taken to have been passed in this tick as well. -/
theorem twoPassed_strobes : (twoPassed.pllTickWith 2).reg (R.AP_PENDi_INFO 1) ≠ twoPassed.reg (R.AP_PENDi_INFO 1) := by
  rw [pllTick_twoPassed, tickStart_still (by decide +kernel) (by decide +kernel) twoBegun_ticks twoSecond_quiet]
  decide +kernel

theorem exec_applyStrobe {s : State} (h : s.takesEvents = true) (g : Fin 8) : exec (.applyStrobe g) s = .next (s.pllTickWith (2 ^ g.val)) :=
  event_open h (fun s => s.pllTickWith (2 ^ g.val))

end Sys2Proof.Machine
end

section
set_option Elab.async false
namespace Sys2Proof
open Sys2Proof.Machine

/-- Refutes O47: an entry that is not due keeps its registers in the first clause. In `twoPassed` such an entry carries the mark of a step that
has passed it, and the tick that frees the entry before it strobes it too. -/
theorem not_applyCommandsRun : ¬ Obligations.ApplyCommandsRun := by
  rintro ⟨hticks, -⟩
  obtain ⟨he, hc, hp, hslow, hslew, hreqs⟩ := twoPassed_ticks
  have hend : ∀ l, twoPassed.spine.slew = some l → l.doneAt = none := by rw [hslew]; exact fun l h => absurd h (by simp)
  have happly : ∀ r ∈ twoPassed.ap.reqs, ∃ m p, r = .apply m p := by rw [hreqs]; exact fun r h => absurd h (by simp)
  obtain ⟨t, hx, -, -, hentries⟩ := (hticks twoPassed he hc hp hslow hend happly).1 1
  have ht : twoPassed.pllTickWith 2 = t := Host.Outcome.next.inj ((exec_applyStrobe he 1).symm.trans hx)
  refine twoPassed_strobes ?_
  rw [ht]
  exact (hentries 1).2 twoPassed_waits (R.AP_PENDi_INFO 1) (by simp [pendRegs])

end Sys2Proof
end

section
/-!
SUPPORT. A state that the statement of the Lehr's time (O40) does not hold in: a deadline without a record is due while host memory, which the
Lehr has not yet found closed, is out of reach.
-/
set_option Elab.async false
namespace Sys2Proof.Machine
open Sys2Proof

/-- A deadline at 0, for destination 0, which neither wakes nor records. -/
def dueEntry : LhEnt := ⟨5, 0, 0, 0, 0, false⟩

/-- The Lehr in host mode, enabled, with that one deadline near, no link to the host, and the source of its LEHR_STATE records routed to ring 0. -/
def unreachable : State :=
  { (running.rput F.LH_CTRL_EN 1).rput (F.RINGn_CFG_EN 0) 1 with
    lehr := { Lehr.reset with near := [dueEntry] }
    ec := { running.ec with srcs := [(102, { EcSrc.reset with route := 64 })] } }

theorem unreachable_fires : unreachable.takesEvents = true ∧ unreachable.ron F.LH_CTRL_EN = true ∧ unreachable.spine.hold = none ∧
    unreachable.lehr.near = [dueEntry] ∧ dueEntry.dl ≤ (unreachable.lhNow : Int) ∧ unreachable.lhDue = [dueEntry] ∧
    unreachable.recq = [] ∧ unreachable.ron (F.LH_DESTd_RING_EN dueEntry.dest) = false := by
  decide +kernel

/-- Freeing the entry meets the host error, whose LEHR_STATE record waits. -/
theorem unreachable_reports : ((unreachable.drawn.eccRead .ok (0x80000 + 16 * dueEntry.idx) 4).lhFire dueEntry).recq ≠ [] := by
  decide +kernel

/-- The one deadline that is due fires. -/
theorem lhFireNext_one {s : State} {e : LhEnt} (hen : s.ron F.LH_CTRL_EN = true) (hh : s.spine.hold = none) (hd : s.lhDue = [e])
    (hr : s.ron (F.LH_DESTd_RING_EN e.dest) = false) :
    s.lhFireNext .ok = (s.drawn.eccRead .ok (0x80000 + 16 * e.idx) 4).lhFire e := by
  unfold State.lhFireNext
  rw [if_pos ⟨hen, hh⟩, hd]
  simp only [List.length_nil, Nat.zero_add, Nat.mod_one, List.getD_cons_zero]
  rw [if_neg (by decide), if_neg (fun h => absurd h.1 (by rw [hr]; exact Bool.false_ne_true))]

theorem exec_deadlineFire {s : State} (h : s.takesEvents = true) (ecc : Ecc) : exec (.deadlineFire ecc) s = .next (s.lhFireNext ecc) :=
  event_open h (fun s => s.lhFireNext ecc)

end Sys2Proof.Machine
end

section
set_option Elab.async false
namespace Sys2Proof
open Sys2Proof.Machine

/-- Refutes O40: a deadline without a record leaves the waiting records as they are, says the clause of firing. In `unreachable` the entry that
fires is freed in host memory, which cannot be reached: the host error is reported with a record of its own. -/
theorem not_lehrRunsInTime : ¬ Obligations.LehrRunsInTime := by
  rintro ⟨htime, -⟩
  obtain ⟨he, hen, hhold, hnear, hdl, hdue, hq, hring⟩ := unreachable_fires
  obtain ⟨-, -, -, hfire, -⟩ := htime unreachable he
  obtain ⟨-, hgood, -⟩ := hfire hen hhold ⟨dueEntry, by rw [hnear]; exact List.mem_singleton_self _, hdl⟩
  obtain ⟨t, e, hx, -, hmem, -, -, -, -, -, -, -, -, hsame, -⟩ :=
    hgood .ok (by decide) (Or.inl (by unfold State.atCeil; rw [hq]; rfl))
  have ht : (unreachable.drawn.eccRead .ok (0x80000 + 16 * dueEntry.idx) 4).lhFire dueEntry = t := by
    rw [← lhFireNext_one hen hhold hdue hring]
    exact Host.Outcome.next.inj ((exec_deadlineFire he .ok).symm.trans hx)
  obtain rfl : e = dueEntry := List.mem_singleton.mp (hnear ▸ hmem)
  exact unreachable_reports (by rw [ht, hsame hring, hq])

end Sys2Proof
end

section
/-!
SUPPORT. Rules of one channel: what a change of its state leaves, and the registers of its page; and a push into the edge FIFO (O17).
-/
set_option Elab.async false
namespace Sys2Proof.Machine
open Sys2Proof

theorem ch_modCh_same (s : State) (c : Fin 96) (f : Channel → Channel) : (s.modCh c f).ch[c] = f s.ch[c] := by simp [State.modCh]

theorem ch_modCh_ne (s : State) {c d : Fin 96} (f : Channel → Channel) (h : d ≠ c) : (s.modCh c f).ch[d] = s.ch[d] := by
  have hne : c.val ≠ d.val := fun he => h (Fin.ext he.symm)
  simp [State.modCh, hne]

theorem fifo_modFifo_same (s : State) (c : Fin 96) (g : Fifo → Fifo) : (s.modFifo c g).ch[c].fifo = g s.ch[c].fifo := by
  rw [State.modFifo, ch_modCh_same]

theorem onlyChannel_modCh (s : State) (c : Fin 96) (f : Channel → Channel) : onlyChannel s (s.modCh c f) c :=
  ⟨sameBlocks_refl _, fun _ h => ch_modCh_ne s f h⟩

/-- No register of a channel's page is one that reports touch. -/
theorem reportReg_ch {o : Nat} (h : 0x100000 ≤ o) : reportReg o = false := reportReg_of_page (by omega)

theorem chEvt_page (c : Fin 96) : reportReg (R.CHc_EVT c) = false := reportReg_ch (by unfold R.CHc_EVT; omega)
theorem fifoStat_page (c : Fin 96) : reportReg (R.CHc_FIFO_STAT c) = false := reportReg_ch (by unfold R.CHc_FIFO_STAT; omega)
theorem fifoStat_ne_evt (c : Fin 96) : R.CHc_FIFO_STAT c ≠ R.CHc_EVT c := by unfold R.CHc_FIFO_STAT R.CHc_EVT; omega

/-! ### The error field of the edge FIFO -/

theorem fifoErrEvent (s : State) (c : Fin 96) : (s.evt (F.CHc_EVT_FIFO_ERR_S c)).ron (F.CHc_EVT_FIFO_ERR_S c) = true :=
  ron_evt _ _ rfl (by decide : (2 : Nat) + 1 ≤ 32) (chEvt_page c)

theorem fifoErr_frame (s : State) (c : Fin 96) (code : Nat) : Frame [R.CHc_FIFO_STAT c, R.CHc_EVT c] s (s.fifoErr c code) :=
  ((Frame.refl _ s).rput (f := F.CHc_FIFO_STAT_ERR c) code (by simp [F.CHc_FIFO_STAT_ERR])).evt (by simp [F.CHc_EVT_FIFO_ERR_S])

theorem rget_fifoErrEvent (s : State) (c : Fin 96) :
    (s.evt (F.CHc_EVT_FIFO_ERR_S c)).rget (F.CHc_FIFO_STAT_ERR c) = s.rget (F.CHc_FIFO_STAT_ERR c) :=
  rget_evt_ne s (f := F.CHc_EVT_FIFO_ERR_S c) (g := F.CHc_FIFO_STAT_ERR c) (fifoStat_page c) (fifoStat_ne_evt c)

theorem fifoErr_code (s : State) (c : Fin 96) {code : Nat} (h : code < 16) : (s.fifoErr c code).rget (F.CHc_FIFO_STAT_ERR c) = code :=
  (rget_fifoErrEvent _ c).trans ((rget_rput_same _ _ _ (by decide : (8 : Nat) + 4 ≤ 32)).trans (Nat.mod_eq_of_lt h))

/-! ### A push -/

theorem fifoRefuse_halted {s : State} {c : Fin 96} (h : haltStands s c) (code : Nat) :
    s.fifoRefuse c code = s.evt (F.CHc_EVT_FIFO_ERR_S c) := if_pos h

theorem fifoRefuse_codes {s : State} {c : Fin 96} (h : ¬ haltStands s c) (code : Nat) : s.fifoRefuse c code = s.fifoErr c code := if_neg h

/-- A refused push sets FIFO_ERR_S, and writes its code unless the reason of a halt stands. -/
theorem fifoRefuse_shows (s : State) (c : Fin 96) {code : Nat} (h : code < 16) :
    (s.fifoRefuse c code).ron (F.CHc_EVT_FIFO_ERR_S c) = true ∧ Frame [R.CHc_FIFO_STAT c, R.CHc_EVT c] s (s.fifoRefuse c code) ∧
    (haltStands s c → (s.fifoRefuse c code).rget (F.CHc_FIFO_STAT_ERR c) = s.rget (F.CHc_FIFO_STAT_ERR c)) ∧
    (¬ haltStands s c → (s.fifoRefuse c code).rget (F.CHc_FIFO_STAT_ERR c) = code) := by
  by_cases hk : haltStands s c
  · rw [fifoRefuse_halted hk]
    exact ⟨fifoErrEvent s c, (Frame.refl _ s).evt (by simp [F.CHc_EVT_FIFO_ERR_S]), fun _ => rget_fifoErrEvent s c, fun hn => absurd hk hn⟩
  · rw [fifoRefuse_codes hk]
    exact ⟨fifoErrEvent _ c, fifoErr_frame s c code, fun hs => absurd hs hk, fun _ => fifoErr_code s c h⟩

theorem fifoPush_refused {s : State} {c : Fin 96} {e : FifoEnt} (h : e.delta < 128 ∨ 16 ≤ s.ch[c].fifo.ents.length) :
    s.fifoPush c e = s.fifoRefuse c (if e.delta < 128 then 3 else 4) := by
  unfold State.fifoPush State.fifoTest
  by_cases hd : e.delta < 128
  · simp only [hd, if_true]
  · simp only [hd, if_false, if_pos (h.resolve_left hd)]

/-- A train that does not run takes no edge. -/
theorem fifoFill_still {s : State} {c : Fin 96} (h : s.ch[c].fifo.state ≠ .run) (k : Nat) (under : Bool) (ds : List Int) :
    State.fifoFill k s c under ds = s := by
  cases k with
  | zero => rfl
  | succ k => exact if_pos (Or.inl h)

/-- An accepted push to a train that neither runs nor has drained joins the entries. -/
theorem fifoPush_joins {s : State} {c : Fin 96} {e : FifoEnt} (hd : 128 ≤ e.delta) (hn : s.ch[c].fifo.ents.length < 16)
    (hr : s.ch[c].fifo.state ≠ .run) (hdr : s.ch[c].fifo.state ≠ .drained) :
    s.fifoPush c e = s.modFifo c (fun f => { f with ents := f.ents ++ [e] }) := by
  have hst : (s.modFifo c (fun f => { f with ents := f.ents ++ [e] })).ch[c].fifo.state = s.ch[c].fifo.state := by
    rw [fifo_modFifo_same]
  unfold State.fifoPush State.fifoTest
  simp only [if_neg (by omega : ¬ e.delta < 128), if_neg (by omega : ¬ 16 ≤ s.ch[c].fifo.ents.length)]
  unfold State.fifoAppend
  dsimp only
  rw [if_neg (fun hx => hdr (hst.symm.trans hx.1))]
  exact fifoFill_still (fun hx => hr (hst.symm.trans hx)) _ _ _

end Sys2Proof.Machine
end

section
set_option Elab.async false
namespace Sys2Proof
open Sys2Proof.Machine

/-- Settles O17: a refused push writes only the error field and the event, and an accepted one joins the entries. -/
theorem fifoPushIsTestedAndKept : Obligations.FifoPushIsTestedAndKept := by
  intro p c v s hw
  refine ⟨s.fifoPush c (pushed s p c v), hostAct_open hw p _ _, fifoPush_far _ _ _ (far_refl s), fun h => ?_, fun hd hn hr hdr => ?_⟩
  · rw [fifoPush_refused h]
    obtain ⟨hevt, hframe, hkeeps, hcode⟩ :=
      fifoRefuse_shows s c (code := if (pushed s p c v).delta < 128 then 3 else 4) (by split <;> decide)
    exact ⟨hevt, hframe.regs, hframe.blocks, hkeeps, hcode⟩
  · rw [fifoPush_joins hd hn hr hdr]
    exact ⟨ch_modCh_same s c _, fun _ => rfl, onlyChannel_modCh s c _⟩

end Sys2Proof
end

section
/-!
SUPPORT. The command rings (R22, R240 to R242): the front command of a ring, what its execution leaves, and the answer that it gets.
-/
set_option Elab.async false
namespace Sys2Proof.Machine
open Sys2Proof

theorem ring_modRing_same (s : State) (n : Fin 64) (f : Ring → Ring) : (s.modRing n f).rings[n] = f s.rings[n] := by simp [State.modRing]

theorem ring_modRing_ne (s : State) {n m : Fin 64} (f : Ring → Ring) (h : m ≠ n) : (s.modRing n f).rings[m] = s.rings[m] := by
  have hne : n.val ≠ m.val := fun he => h (Fin.ext he.symm)
  simp [State.modRing, hne]

theorem modRing_congr (s : State) {n : Fin 64} {f g : Ring → Ring} (h : f s.rings[n] = g s.rings[n]) : s.modRing n f = s.modRing n g := by
  unfold State.modRing
  rw [h]

/-! ### The front command -/

theorem ringFront_of_fronts {s : State} {n : Fin 64} {w : Vector Word 8} {rest : List CmdWords} (h : fronts s n w rest) :
    s.ringFront n = some w := by
  obtain ⟨-, hmay, hq, -⟩ := h
  unfold State.ringFront
  rw [hq]
  exact if_pos hmay

/-- Where no ECC error has skipped the front entry, nothing completes. -/
theorem ringSkips_still {s : State} {n : Fin 64} (h : s.rings[n].fetched.head? ≠ some none) (k : Nat) : s.ringSkips n k = s := by
  cases k with
  | zero => rfl
  | succ k =>
    unfold State.ringSkips
    split
    next q hq => rw [hq] at h; exact absurd rfl h
    next => rfl

/-- The front command has been taken: the ring's queue is one shorter, and the consumer's turn has passed. -/
theorem ringPop_eq {s : State} {n : Fin 64} {w : CmdWords} {rest : List CmdWords} (h : s.rings[n].fetched = w :: rest) :
    s.ringPop n = { s.modRing n (fun x => { x with fetched := rest }) with lehr := (s.ringPop n).lehr, el := (s.ringPop n).el } := by
  have hm : s.modRing n (fun x => { x with fetched := x.fetched.tail }) = s.modRing n (fun x => { x with fetched := rest }) :=
    modRing_congr s (by simp only [h, List.tail_cons])
  unfold State.ringPop
  dsimp only
  rw [hm]
  split <;> rfl

/-- A command of the row leaves its ring and runs; a command behind it, which no error has skipped, waits. -/
theorem ringExec_fetched {s : State} {n : Fin 64} {w : Vector Word 8} {rest : List CmdWords} (h : fronts s n w rest) {isRow : Nat → Bool}
    (hr : isRow (cmdOp w) = true) {f : State → Vector Word 8 → State}
    (hf : (f (s.ringPop n) w).rings[n].fetched = (s.ringPop n).rings[n].fetched) : s.ringExec n isRow f = f (s.ringPop n) w := by
  obtain ⟨-, -, hq, hrest⟩ := id h
  unfold State.ringExec
  rw [ringFront_of_fronts h]
  dsimp only
  rw [if_pos hr]
  refine ringSkips_still ?_ _
  rw [hf, ringPop_eq hq]
  show (s.modRing n (fun x => { x with fetched := rest })).rings[n].fetched.head? ≠ some none
  rw [ring_modRing_same]
  exact hrest

theorem ringExec_runs {s : State} {n : Fin 64} {w : Vector Word 8} {rest : List CmdWords} (h : fronts s n w rest) {isRow : Nat → Bool}
    (hr : isRow (cmdOp w) = true) {f : State → Vector Word 8 → State} (hf : (f (s.ringPop n) w).rings = (s.ringPop n).rings) :
    s.ringExec n isRow f = f (s.ringPop n) w := ringExec_fetched h hr (by rw [hf])

/-- A command of another row is left alone. -/
theorem ringExec_other {s : State} {n : Fin 64} {w : Vector Word 8} {rest : List CmdWords} (h : fronts s n w rest) {isRow : Nat → Bool}
    (hr : isRow (cmdOp w) = false) (f : State → Vector Word 8 → State) : s.ringExec n isRow f = s := by
  unfold State.ringExec
  rw [ringFront_of_fronts h]
  dsimp only
  rw [if_neg (by rw [hr]; exact Bool.false_ne_true)]

theorem ringPop_popped {s : State} {n : Fin 64} {w : Vector Word 8} {rest : List CmdWords} (h : fronts s n w rest) :
    popped s (s.ringPop n) n rest := by
  obtain ⟨-, -, hq, -⟩ := h
  unfold popped
  rw [ringPop_eq hq]

/-- What the front command leaves as it was: the records that wait, the registers, the memories and the time. -/
theorem ringPop_same (s : State) (n : Fin 64) : (s.ringPop n).regs = s.regs ∧ (s.ringPop n).recq = s.recq ∧ (s.ringPop n).seqs = s.seqs ∧
    (s.ringPop n).spine = s.spine ∧ (s.ringPop n).sram = s.sram ∧ (s.ringPop n).host = s.host := by
  unfold State.ringPop
  dsimp only
  split <;> exact ⟨rfl, rfl, rfl, rfl, rfl, rfl⟩

/-! ### The answer -/

/-- A state that answers a command as another one: they agree in what RING_DONE shows. -/
structure SameAnswers (s u : State) : Prop where
  regs : u.regs = s.regs
  recq : u.recq = s.recq
  seqs : u.seqs = s.seqs
  spine : u.spine = s.spine

theorem ringPop_answers (s : State) (n : Fin 64) : SameAnswers s (s.ringPop n) :=
  ⟨(ringPop_same s n).1, (ringPop_same s n).2.1, (ringPop_same s n).2.2.1, (ringPop_same s n).2.2.2.1⟩

theorem ringDone_taken {s : State} {n : Nat} (h : s.eventRing (s.rget (F.RINGn_CFG_CPL n)) = true) (cseq op result : Nat) (w2 w3 : Word) :
    (s.ringDone n cseq op result w2 w3).recq = s.recq ++ [⟨0x02, 128 + n, s.nextSeq (128 + n), s.now, s.coarseFlag,
      word (cseq + 65536 * op + 2 ^ 22 * result), word n, w2, w3, s.rget (F.RINGn_CFG_CPL n)⟩] := emitTo_taken h _ _ _ _ _ _ _ _

theorem ringDone_discards {s : State} {n : Nat} (h : s.eventRing (s.rget (F.RINGn_CFG_CPL n)) = false) (cseq op result : Nat) (w2 w3 : Word) :
    s.ringDone n cseq op result w2 w3 = (s.rsat F.EC_DISCARD_CNT 1).ecEvt F.EC_EVT_UNROUTED_S :=
  emitTo_discards (Or.inr ⟨_, rfl, h⟩) _ _ _ _ _ _ _ _

theorem ringDone_frame {os : List Nat} {s t : State} (h : Frame os s t) (n cseq op result : Nat) (w2 w3 : Word) :
    Frame os s (t.ringDone n cseq op result w2 w3) :=
  ⟨fun o hr ho => (reg_emitTo _ _ _ _ _ _ _ _ _ _ hr).trans (h.regs o hr ho),
    ⟨emitTo_far _ _ _ _ _ _ _ _ _ _ h.far, emitTo_core _ _ _ _ _ _ _ _ _ _ h.core⟩⟩

/-- The result of a command that has left its ring. -/
theorem ringDone_answers {s u : State} {n : Fin 64} {w : Vector Word 8} (h : SameAnswers s u) (result : Nat) :
    ringAnswer s (u.ringDone n (cmdSeq w) (cmdOp w) result w[2] w[3]) n w result := by
  have hg : ∀ f, u.rget f = s.rget f := rget_of_regs h.regs
  have he : ∀ r, u.eventRing r = s.eventRing r := eventRing_of_regs h.regs
  unfold ringAnswer
  dsimp only
  by_cases hc : s.eventRing (s.rget (F.RINGn_CFG_CPL n)) = true
  · rw [if_pos hc, ringDone_taken (by rw [hg, he]; exact hc), h.recq]
    simp only [State.nextSeq, State.now, State.coarseFlag, State.ron, hg, h.seqs, h.spine]
    rfl
  · rw [if_neg hc, ringDone_discards (by rw [hg, he]; simpa using hc)]
    obtain ⟨hcnt, hq⟩ := discard_counts u
    exact ⟨hq.trans h.recq, by unfold countedOne at hcnt ⊢; rw [hcnt, hg]⟩

theorem ringDone_rings (s : State) (n cseq op result : Nat) (w2 w3 : Word) : (s.ringDone n cseq op result w2 w3).rings = s.rings :=
  (ringDone_frame (Frame.refl [] s) n cseq op result w2 w3).far.rings

theorem ringDone_regs (s : State) (n cseq op result : Nat) (w2 w3 : Word) : s.sameRegsBut (s.ringDone n cseq op result w2 w3) [] :=
  (ringDone_frame (Frame.refl [] s) n cseq op result w2 w3).regs

end Sys2Proof.Machine
end

section
/-!
SUPPORT. The command-ring fetcher (R240, R243, R371): the batch that it takes, and the ring-level commands (O38).
-/
set_option Elab.async false
namespace Sys2Proof.Machine
open Sys2Proof

theorem reg_ecLevel (s : State) (n o : Nat) : (s.ecLevel n).reg o = s.reg o := by
  unfold State.ecLevel
  dsimp only
  split
  · rfl
  · split
    · split
      · rfl
      · exact reg_ecAssign _ _ _
    · rfl

theorem ecLevel_frame {os : List Nat} {s t : State} (h : Frame os s t) (n : Nat) : Frame os s (t.ecLevel n) :=
  ⟨fun o hr ho => (reg_ecLevel t n o).trans (h.regs o hr ho), ecLevel_far _ _ h.far, ecLevel_core _ _ h.core⟩

/-- The head copy lies in host memory. -/
theorem headCopy_eq (s : State) (n : Nat) : s.headCopy n = { s with host := (s.headCopy n).host } := by
  unfold State.headCopy
  split <;> rfl

theorem headCopy_onChip {s : State} {n : Nat} (h : s.ringOnChip n = true) : s.headCopy n = s :=
  if_neg fun hc => hc.2 h

/-! ### ECC in a batch -/

theorem Far.host {s t : State} (h : Far s t) : t.host = s.host := h.2.2.2.2.2.2.2.2.2.2.2.2.2.2.2.2.2.2.2.2.2.2.2.2.2.2.2.2.2.2.2.1

theorem Frame.refree {os : List Nat} {s t : State} {k : Nat} (h : Frame os { s with free := k } t) (j : Nat) :
    Frame os { s with free := j } { t with free := j } :=
  ⟨h.regs, h.far, h.core.1, h.core.2.1, h.core.2.2.1, h.core.2.2.2.1, h.core.2.2.2.2.1, h.core.2.2.2.2.2.1, rfl⟩

/-- Corrected errors in the entries of a batch are counted, and change nothing else. -/
theorem eccBatch_corrects (corr : BitVec 8) (addr : Nat → Nat) (l : List Nat) (s : State) :
    let t := l.foldl (fun (t : State) i => t.eccRead (eccOf 0 corr i) (addr i) 8) s
    Frame [R.HL_ECC, R.HL_EVT] { s with free := t.free } t ∧
      t.rget F.HL_ECC_CORR = min (s.rget F.HL_ECC_CORR + l.countP (fun i => nbit corr.toNat i)) 65535 := by
  induction l generalizing s with
  | nil =>
    have hlt : s.rget F.HL_ECC_CORR < 65536 := rget_lt s F.HL_ECC_CORR
    exact ⟨Frame.refl _ s, by simp only [List.foldl_nil, List.countP_nil]; omega⟩
  | cons i l ih =>
    simp only [List.foldl_cons]
    have hz : nbit (0 : BitVec 8).toNat i = false := by simp [nbit]
    by_cases hi : nbit corr.toNat i = true
    · have he : eccOf 0 corr i = .corrected := by simp only [eccOf, hz, hi, Bool.false_eq_true, if_false, if_true]
      rw [he]
      obtain ⟨hf, hc⟩ := ih (s.eccRead .corrected (addr i) 8)
      have h1 := eccRead_corrected_frame s (addr i) 8
      have hone : (s.eccRead .corrected (addr i) 8).rget F.HL_ECC_CORR = min (s.rget F.HL_ECC_CORR + 1) 65535 := (eccCorr_shows s.drawn _).1
      refine ⟨(Frame.refree (k := s.free + 1) h1 _).trans hf, ?_⟩
      rw [hc, hone]
      simp only [List.countP_cons, hi, if_true]
      omega
    · have he : eccOf 0 corr i = .ok := by simp only [eccOf, hz, hi, Bool.false_eq_true, if_false]
      rw [he, eccRead_ok]
      obtain ⟨hf, hc⟩ := ih s
      exact ⟨hf, by rw [hc, List.countP_cons_of_neg hi]⟩

/-- A batch without an error is read as it stands. -/
theorem eccBatch_clean (addr : Nat → Nat) (l : List Nat) (s : State) :
    l.foldl (fun (t : State) i => t.eccRead (eccOf 0 0 i) (addr i) 8) s = s :=
  List.foldl_fixed' (fun i => by simp [eccOf, nbit, eccRead_ok]) l

/-! ### The batch -/

/-- The state in which the fetcher has taken k entries behind the head of a ring. -/
def State.taken (s : State) (n : Fin 64) (k : Nat) (es : List CmdWords) : State :=
  (s.rwrap (F.RINGn_HEAD_HEAD n) k).modRing n (fun x => { x with fetched := x.fetched ++ es })

theorem taken_frame (s : State) (n : Fin 64) (k : Nat) (es : List CmdWords) :
    Frame [R.RINGn_HEAD n] { s with rings := (s.taken n k es).rings } (s.taken n k es) :=
  (Frame.refl _ { s with rings := (s.taken n k es).rings }).rwrap (f := F.RINGn_HEAD_HEAD n) k (by simp [F.RINGn_HEAD_HEAD])

theorem taken_rings (s : State) (n : Fin 64) (k : Nat) (es : List CmdWords) :
    (s.taken n k es).rings = (s.modRing n (fun x => { x with fetched := x.fetched ++ es })).rings := rfl

theorem taken_head (s : State) (n : Fin 64) (k : Nat) (es : List CmdWords) :
    (s.taken n k es).rget (F.RINGn_HEAD_HEAD n) = (s.rget (F.RINGn_HEAD_HEAD n) + k) % 2 ^ 32 :=
  rget_rwrap_same s (F.RINGn_HEAD_HEAD n) k (by decide : (0 : Nat) + 32 ≤ 32)

/-- What the fetcher does with a batch whose entries are good. -/
theorem commandFetch_good {s : State} {n : Fin 64} (hf : s.fetches n = true) (hc : s.ringCount n ≠ 0) (corr : BitVec 8) :
    let k := min 8 (s.ringCount n)
    let h := s.rget (F.RINGn_HEAD_HEAD n)
    let s1 := s.taken n k ((List.range k).map (fun i => some (s.ringLoad n (h + i))))
    s.commandFetch n 0 corr = (((if s.ringOnChip n then
      (List.range k).foldl (fun (t : State) i => t.eccRead (eccOf 0 corr i) (s.ringAddr n (h + i)) 8) s1 else s1).headCopy n).ecLevel n).ringSkips n k := by
  intro k h s1
  unfold State.commandFetch
  have hz : ∀ i, nbit (0 : BitVec 8).toNat i = false := by simp [nbit]
  dsimp only
  rw [if_pos ⟨hf, by omega⟩]
  simp only [hz, Bool.false_eq_true, and_false, if_false]
  rfl

/-- Host memory may be given another content on both sides. -/
theorem Frame.rehost {os : List Nat} {s t : State} (h : Frame os s t) (x : Tbl Byte) : Frame os { s with host := x } { t with host := x } := by
  obtain ⟨hr, ⟨hstaged, hpcie, hspi, hspine, hbanks, hotp, hcalU, hcalS, hlayout, hap, hrings, hlehr, hel, hlatchP, hlatchS, howed,
    hfn, hhif, hload, hfrz, hpsq, hwdg, hlink, hsaved, hretEc, hleave, hcorr, hrecal, hage, hsample, hlife, hhost, hpending⟩, hcore⟩ := h
  exact ⟨hr, ⟨hstaged, hpcie, hspi, hspine, hbanks, hotp, hcalU, hcalS, hlayout, hap, hrings, hlehr, hel, hlatchP, hlatchS, howed,
    hfn, hhif, hload, hfrz, hpsq, hwdg, hlink, hsaved, hretEc, hleave, hcorr, hrecal, hage, hsample, hlife, rfl, hpending⟩, hcore⟩

/-- The batch of a ring, in the state in which its head copy follows. -/
def State.headShown (s : State) (n : Fin 64) : State := (s.headCopy n).ecLevel n

theorem headShown_frame {s v : State} {os : List Nat} {n : Fin 64} (h : Frame os { s with rings := v.rings, free := v.free } v) :
    let u := v.headShown n
    State.sameBlocks { s with rings := u.rings, host := u.host, free := u.free } u ∧ s.sameRegsBut u os ∧ u.rings = v.rings ∧ u.free = v.free := by
  intro u
  have hc : Frame os { s with rings := v.rings, host := (v.headCopy n).host, free := v.free } (v.headCopy n) := by
    rw [headCopy_eq]
    exact h.rehost _
  have hl : Frame os { s with rings := v.rings, host := (v.headCopy n).host, free := v.free } u := ecLevel_frame hc n
  have hr : u.rings = v.rings := hl.far.rings
  have hf : u.free = v.free := hl.core.free
  have hh : u.host = (v.headCopy n).host := hl.far.host
  refine ⟨?_, hl.regs, hr, hf⟩
  rw [hr, hh, hf]
  exact hl.blocks

/-- The head copy and the level of a ring leave a register as it was. -/
theorem headShown_reg (s : State) (n : Fin 64) (o : Nat) : (s.headShown n).reg o = s.reg o := by
  unfold State.headShown
  rw [reg_ecLevel, headCopy_eq]
  rfl

theorem headShown_onChip {s : State} {n : Fin 64} (h : s.ringOnChip n = true) : s.headShown n = s.ecLevel n := by
  unfold State.headShown
  rw [headCopy_onChip h]

/-! ### A batch without an uncorrectable error -/

/-- The state in which the words of a batch have been read. -/
def State.batchRead (s : State) (n : Fin 64) (k : Nat) (corr : BitVec 8) (es : List CmdWords) : State :=
  if s.ringOnChip n then
    (List.range k).foldl (fun (t : State) i => t.eccRead (eccOf 0 corr i) (s.ringAddr n (s.rget (F.RINGn_HEAD_HEAD n) + i)) 8) (s.taken n k es)
  else s.taken n k es

theorem eccRegs_ne_head (n : Fin 64) : R.RINGn_HEAD n ∉ [R.HL_ECC, R.HL_EVT] := by
  simp only [List.mem_cons, List.not_mem_nil, or_false, R.RINGn_HEAD, R.HL_ECC, R.HL_EVT]
  omega

theorem head_page (n : Fin 64) : reportReg (R.RINGn_HEAD n) = false := reportReg_of_page (by unfold R.RINGn_HEAD; omega)

theorem batchRead_clean {s : State} {n : Fin 64} {corr : BitVec 8} (h : s.ringOnChip n = false ∨ corr = 0) (k : Nat) (es : List CmdWords) :
    s.batchRead n k corr es = s.taken n k es := by
  unfold State.batchRead
  obtain h | rfl := h
  · rw [if_neg (by rw [h]; exact Bool.false_ne_true)]
  · split
    · exact eccBatch_clean _ _ _
    · rfl

/-- The batch joins its ring, and its corrected errors are counted. -/
theorem batchRead_frame (s : State) (n : Fin 64) (k : Nat) (corr : BitVec 8) (es : List CmdWords) :
    let v := s.batchRead n k corr es
    Frame [R.RINGn_HEAD n, R.HL_ECC, R.HL_EVT] { s with rings := v.rings, free := v.free } v ∧ v.rings = (s.taken n k es).rings ∧
    v.rget (F.RINGn_HEAD_HEAD n) = (s.rget (F.RINGn_HEAD_HEAD n) + k) % 2 ^ 32 ∧
    (s.ringOnChip n = true → v.rget F.HL_ECC_CORR = min (s.rget F.HL_ECC_CORR + (List.range k).countP (fun i => nbit corr.toNat i)) 65535) := by
  intro v
  have ht : Frame [R.RINGn_HEAD n, R.HL_ECC, R.HL_EVT] { s with rings := (s.taken n k es).rings } (s.taken n k es) :=
    (taken_frame s n k es).mono (fun o ho => by simp only [List.mem_singleton] at ho; simp [ho])
  by_cases hc : s.ringOnChip n = true
  · obtain ⟨hf, hcnt⟩ := eccBatch_corrects corr (fun i => s.ringAddr n (s.rget (F.RINGn_HEAD_HEAD n) + i)) (List.range k) (s.taken n k es)
    have hv : v = (List.range k).foldl (fun (t : State) i => t.eccRead (eccOf 0 corr i) (s.ringAddr n (s.rget (F.RINGn_HEAD_HEAD n) + i)) 8)
        (s.taken n k es) := if_pos hc
    rw [← hv] at hf hcnt
    have hr : v.rings = (s.taken n k es).rings := hf.far.rings
    refine ⟨?_, hr, ?_, fun _ => ?_⟩
    · rw [hr]
      exact (Frame.refree (s := { s with rings := (s.taken n k es).rings }) (k := s.free) ht v.free).trans (hf.mono (fun o ho => List.mem_cons_of_mem _ ho))
    · exact (rget_of_reg (hf.regs _ (head_page n) (eccRegs_ne_head n))).trans (taken_head s n k es)
    · rw [hcnt]
      congr 2
      exact rget_of_reg ((taken_frame s n k es).regs R.HL_ECC (by decide) (by
        simp only [List.mem_singleton, R.RINGn_HEAD, R.HL_ECC]
        omega))
  · have hv : v = s.taken n k es := if_neg hc
    rw [hv]
    exact ⟨ht, rfl, taken_head s n k es, fun h => absurd h hc⟩

/-! ### An entry with an uncorrectable error -/

theorem cfg_page (n : Fin 64) : reportReg (R.RINGn_CFG n) = false := reportReg_of_page (by unfold R.RINGn_CFG; omega)

/-- The state in which the only entry of a batch has been found bad. -/
def State.badTaken (s : State) (n : Fin 64) : State :=
  (s.taken n 1 [none]).eccRead .bad (s.ringAddr n (s.rget (F.RINGn_HEAD_HEAD n) + 0)) 8

theorem badTaken_frame (s : State) (n : Fin 64) :
    Frame (R.RINGn_HEAD n :: eccRegs) { s with rings := (s.taken n 1 [none]).rings, free := s.free + 1 } (s.badTaken n) :=
  (Frame.refree (s := { s with rings := (s.taken n 1 [none]).rings }) (k := s.free)
    ((taken_frame s n 1 [none]).mono (fun o ho => by simp only [List.mem_singleton] at ho; simp [ho])) (s.free + 1)).trans
    ((eccBad_frame (Frame.refl eccRegs (s.taken n 1 [none]).drawn) (fun _ h => h) false _).mono (fun o ho => List.mem_cons_of_mem _ ho))

/-- A bad entry leaves the ring, and completes with result ECC. -/
theorem badTaken_skipped {s : State} {n : Fin 64} (hq : s.rings[n].fetched = []) {u : State} (hu : u.rings = (s.taken n 1 [none]).rings) :
    ∃ x : State, x = { u with rings := s.rings } ∧ u.ringSkips n 1 = x.ringDone n 0 0 9 0 0 := by
  have hf : u.rings[n].fetched = [none] := by
    rw [hu, taken_rings, ring_modRing_same]
    show s.rings[n].fetched ++ [none] = [none]
    rw [hq, List.nil_append]
  have hx : u.modRing n (fun x => { x with fetched := [] }) = { u with rings := s.rings } := by
    have hself : ({ s.rings[n] with fetched := [] } : Ring) = s.rings[n] := by rw [← hq]
    unfold State.modRing
    rw [hu, taken_rings, ring_modRing_same]
    unfold State.modRing
    simp only [Vector.set_set]
    rw [hself]
    exact congrArg (fun r => ({ u with rings := r } : State)) (Vector.set_getElem_self _)
  refine ⟨_, rfl, ?_⟩
  unfold State.ringSkips
  rw [hf]
  dsimp only
  rw [hx]
  rfl

end Sys2Proof.Machine
end

section
set_option Elab.async false
namespace Sys2Proof
open Sys2Proof.Machine

/-- A batch whose entries are good. -/
theorem fetch_good {s : State} {n : Fin 64} (he : s.takesEvents = true) (corr : BitVec 8) (hf : s.fetches n = true) (hc : s.ringCount n ≠ 0)
    (hq : s.rings[n].fetched.head? ≠ some none) :
    let k := min 8 (s.ringCount n)
    let h := s.rget (F.RINGn_HEAD_HEAD n)
    ∃ t, exec (.commandFetch n 0 corr) s = .next t ∧ State.sameBlocks { s with rings := t.rings, host := t.host, free := t.free } t ∧
        t.rget (F.RINGn_HEAD_HEAD n) = (h + k) % 2 ^ 32 ∧
        (s.ringOnChip n = false ∨ corr = 0 → s.sameRegsBut t [R.RINGn_HEAD n] ∧ t.free = s.free) ∧
        (s.ringOnChip n = true → s.sameRegsBut t [R.RINGn_HEAD n, R.HL_ECC, R.HL_EVT] ∧
          t.rget F.HL_ECC_CORR = min (s.rget F.HL_ECC_CORR + (List.range k).countP (fun i => nbit corr.toNat i)) 65535) ∧
        let es : List CmdWords := (List.range k).map (fun i => some (s.ringLoad n (h + i)))
        t.rings = (s.modRing n (fun x => { x with fetched := x.fetched ++ es })).rings := by
  intro k h
  let es : List CmdWords := (List.range k).map (fun i => some (s.ringLoad n (h + i)))
  obtain ⟨hframe, hrings, hhead, hcnt⟩ := batchRead_frame s n k corr es
  obtain ⟨hblocks, hregs, hurings, -⟩ := headShown_frame hframe
  have hring : ((s.batchRead n k corr es).headShown n).rings = (s.modRing n (fun x => { x with fetched := x.fetched ++ es })).rings :=
    hurings.trans hrings
  have hstill : (s.commandFetch n 0 corr) = (s.batchRead n k corr es).headShown n := by
    refine (commandFetch_good hf hc corr).trans (ringSkips_still ?_ _)
    show ((s.batchRead n k corr es).headShown n).rings[n].fetched.head? ≠ some none
    rw [hring, ring_modRing_same, List.head?_append]
    cases hh : s.rings[n].fetched with
    | nil =>
      have hpos : k ≠ 0 := by omega
      obtain ⟨j, hj⟩ := Nat.exists_eq_succ_of_ne_zero hpos
      simp [es, hj, List.range_succ_eq_map]
    | cons x xs => rw [hh] at hq; simpa using hq
  refine ⟨_, (event_open he (fun s => s.commandFetch n 0 corr)).trans (congrArg _ hstill), hblocks,
    (rget_of_reg (headShown_reg _ n _)).trans hhead, fun hno => ?_, fun hon => ⟨hregs, (rget_of_reg (headShown_reg _ n _)).trans (hcnt hon)⟩, hring⟩
  rw [batchRead_clean hno]
  obtain ⟨-, hr, -, hfr⟩ := headShown_frame (n := n) (s := s) (v := s.taken n k es) (taken_frame s n k es)
  exact ⟨hr, hfr⟩

/-- A batch of one entry with an uncorrectable error. -/
theorem fetch_bad {s : State} {n : Fin 64} (he : s.takesEvents = true) (bad corr : BitVec 8) (hf : s.fetches n = true)
    (hon : s.ringOnChip n = true) (hc : s.ringCount n = 1) (hb : nbit bad.toNat 0 = true) (hq : s.rings[n].fetched = []) :
    let h := s.rget (F.RINGn_HEAD_HEAD n)
    ∃ t i, exec (.commandFetch n bad corr) s = .next t ∧ i < 8 ∧ State.sameBlocks { s with free := t.free } t ∧
        t.rget (F.RINGn_HEAD_HEAD n) = (h + 1) % 2 ^ 32 ∧ countedOne s t F.HL_ECC_UNCORR ∧
        t.reg R.HL_ECCADDR = word (s.ringAddr n h + 4 * i) ∧ t.ron F.HL_EVT_ECC_U_S = true ∧
        s.sameRegsBut t [R.RINGn_HEAD n, R.HL_ECC, R.HL_ECCADDR, R.HL_EVT] ∧
        (s.eventRing (s.rget (F.RINGn_CFG_CPL n)) = true → ∃ r, t.recq.getLast? = some r ∧ r.type = 0x02 ∧ r.src = 128 + n.val ∧
          r.w4 = word (2 ^ 22 * 9) ∧ r.w5 = word n ∧ r.w6 = 0 ∧ r.w7 = 0 ∧ r.ring = s.rget (F.RINGn_CFG_CPL n)) := by
  intro h
  have hv := badTaken_frame s n
  have hcfg : ∀ m : Fin 64, (s.badTaken n).reg (R.RINGn_CFG m) = s.reg (R.RINGn_CFG m) := fun m => hv.regs _ (cfg_page m) (by
    simp only [eccRegs, List.mem_cons, List.not_mem_nil, or_false, R.RINGn_CFG, R.RINGn_HEAD, R.HL_ECC, R.HL_ECCADDR, R.HL_EVT]; omega)
  have hon' : (s.badTaken n).ringOnChip n = true := (ron_of_reg (f := F.RINGn_CFG_LOC n) (hcfg n)).trans hon
  have hu : (s.badTaken n).headShown n = (s.badTaken n).ecLevel n := headShown_onChip hon'
  have hurings : ((s.badTaken n).headShown n).rings = (s.taken n 1 [none]).rings := by
    rw [hu]; exact (ecLevel_frame hv n).far.rings
  obtain ⟨x, hx, hskip⟩ := badTaken_skipped hq hurings
  have hstep : s.commandFetch n bad corr = x.ringDone n 0 0 9 0 0 := by
    unfold State.commandFetch
    dsimp only
    rw [if_pos ⟨hf, by omega⟩, hc]
    simp only [show min 8 1 = 1 from rfl, show List.range 1 = [0] from rfl, List.map_cons, List.map_nil, List.foldl_cons, List.foldl_nil,
      eccOf, hb, hon, and_self, if_true]
    exact hskip
  have hxf : Frame (R.RINGn_HEAD n :: eccRegs) { s with free := s.free + 1 } x := by
    rw [hx, hu]
    have hl := ecLevel_frame hv n
    obtain ⟨h1, h2, h3, h4, h5, h6, h7, h8, h9, h10, h11, h12⟩ := hl.far
    exact ⟨hl.regs, ⟨h1, h2, h3, h4, h5, h6, h7, h8, h9, h10, rfl, h12⟩, hl.core⟩
  have ht := ringDone_frame hxf n 0 0 9 0 0
  have hxreg : ∀ o, x.reg o = (s.badTaken n).reg o := fun o => by rw [hx]; exact headShown_reg _ n o
  obtain ⟨hcnt, haddr, hevt, -⟩ := eccBad_shows (s.taken n 1 [none]).drawn false
    ((s.taken n 1 [none]).eccOfs (s.ringAddr n (s.rget (F.RINGn_HEAD_HEAD n) + 0)) 8)
  have hout : ∀ o, reportReg o = false → (x.ringDone n 0 0 9 0 0).reg o = (s.badTaken n).reg o := fun o ho =>
    (reg_emitTo x _ _ _ _ _ _ _ _ _ ho).trans (hxreg o)
  have heccTaken : (s.taken n 1 [none]).reg R.HL_ECC = s.reg R.HL_ECC := (taken_frame s n 1 [none]).regs _ (by decide) (by
    simp only [List.mem_singleton, R.RINGn_HEAD, R.HL_ECC]; omega)
  refine ⟨_, Config.eccWord s.free % 8, (event_open he (fun s => s.commandFetch n bad corr)).trans (congrArg _ hstep),
    Nat.mod_lt _ (by decide), ?_, ?_, ?_, ?_, ?_, ht.regs, fun hr => ?_⟩
  · rw [show (x.ringDone n 0 0 9 0 0).free = s.free + 1 from ht.core.free]
    exact ht.blocks
  · refine (rget_of_reg (f := F.RINGn_HEAD_HEAD n) (s := s.taken n 1 [none]) ((hout _ (head_page n)).trans ?_)).trans (taken_head s n 1 [none])
    exact (eccBad_frame (Frame.refl eccRegs (s.taken n 1 [none]).drawn) (fun _ h => h) false _).regs _ (head_page n) (by
      simp only [eccRegs, List.mem_cons, List.not_mem_nil, or_false, R.RINGn_HEAD, R.HL_ECC, R.HL_ECCADDR, R.HL_EVT]; omega)
  · have hs : (s.taken n 1 [none]).drawn.rget F.HL_ECC_UNCORR = s.rget F.HL_ECC_UNCORR := rget_of_reg (f := F.HL_ECC_UNCORR) heccTaken
    unfold countedOne at hcnt ⊢
    rw [← hs, ← hcnt]
    exact rget_of_reg (f := F.HL_ECC_UNCORR) (hout _ (by decide))
  · exact (hout _ (by decide)).trans haddr
  · exact (ron_of_reg (f := F.HL_EVT_ECC_U_S) (hout _ (by decide))).trans hevt
  · have hxc : ∀ m : Fin 64, x.reg (R.RINGn_CFG m) = s.reg (R.RINGn_CFG m) := fun m => (hxreg _).trans (hcfg m)
    have hcpl : x.rget (F.RINGn_CFG_CPL n) = s.rget (F.RINGn_CFG_CPL n) := rget_of_reg (f := F.RINGn_CFG_CPL n) (hxc n)
    have hlt : s.rget (F.RINGn_CFG_CPL n) < 64 := rget_lt s (F.RINGn_CFG_CPL n)
    have hring : x.eventRing (x.rget (F.RINGn_CFG_CPL n)) = true := by
      rw [hcpl, ← hr]
      have h1 := ron_of_reg (f := F.RINGn_CFG_EN _) (hxc ⟨_, hlt⟩)
      have h2 := ron_of_reg (f := F.RINGn_CFG_DIR _) (hxc ⟨_, hlt⟩)
      unfold State.eventRing
      rw [h1, h2]
    rw [ringDone_taken hring]
    exact ⟨_, List.getLast?_concat, rfl, rfl, rfl, rfl, rfl, rfl, hcpl⟩

theorem exec_fence {s : State} (h : s.takesEvents = true) (n : Fin 64) :
    exec (.fence n) s = .next (s.ringExec n (fun op => op = 0x20) (fun s _ => s)) :=
  event_open h (fun s => s.ringExec n (fun op => op = 0x20) (fun s _ => s))

theorem exec_mark {s : State} (h : s.takesEvents = true) (n : Fin 64) :
    exec (.mark n) s = .next (s.ringExec n (fun op => op = 0x21) (fun s w => s.ringDone n (cmdSeq w) 0x21 0 w[2] w[3])) :=
  event_open h (fun s => s.ringExec n (fun op => op = 0x21) (fun s w => s.ringDone n (cmdSeq w) 0x21 0 w[2] w[3]))

theorem exec_ringIllegal {s : State} (h : s.takesEvents = true) (n : Fin 64) :
    exec (.ringIllegal n) s = .next (s.ringExec n (fun op => s.ringIllegalOp n op) (fun s w => s.ringDone n (cmdSeq w) (cmdOp w) 7 w[2] w[3])) :=
  event_open h (fun s => s.ringExec n (fun op => s.ringIllegalOp n op) (fun s w => s.ringDone n (cmdSeq w) (cmdOp w) 7 w[2] w[3]))

/-- The front command of a ring, as a ring-level row. -/
theorem ringLevel_rows {s : State} {n : Fin 64} {w : Vector Word 8} {rest : List CmdWords} (h : fronts s n w rest) :
    (cmdOp w = 0x20 → ∃ t, exec (.fence n) s = .next t ∧ popped s t n rest ∧ t.recq = s.recq ∧ (∀ o, t.reg o = s.reg o) ∧
      exec (.mark n) s = .next s) ∧
    (cmdOp w = 0x21 → ∃ t, exec (.mark n) s = .next t ∧ popped s t n rest ∧ ringAnswer s t n w 0 ∧ s.sameRegsBut t [] ∧
      exec (.fence n) s = .next s) ∧
    (s.ringIllegalOp n (cmdOp w) = true →
      ∃ t, exec (.ringIllegal n) s = .next t ∧ popped s t n rest ∧ ringAnswer s t n w 7 ∧ s.sameRegsBut t []) ∧
    (s.ringIllegalOp n (cmdOp w) = false → exec (.ringIllegal n) s = .next s) := by
  have he : s.takesEvents = true := h.1
  have hregs : ∀ o, (s.ringPop n).reg o = s.reg o := fun o => congrArg (fun r => tblGet resetWord r o) (ringPop_same s n).1
  have hanswer : ∀ op result, cmdOp w = op → let t := (s.ringPop n).ringDone n (cmdSeq w) op result w[2] w[3]
      popped s t n rest ∧ ringAnswer s t n w result ∧ s.sameRegsBut t [] := by
    rintro op result rfl
    exact ⟨(ringDone_rings _ _ _ _ _ _ _).trans (ringPop_popped h), ringDone_answers (ringPop_answers s n) result,
      fun o hr ho => (ringDone_regs _ _ _ _ _ _ _ o hr ho).trans (hregs o)⟩
  rw [exec_fence he, exec_mark he, exec_ringIllegal he]
  refine ⟨fun hop => ?_, fun hop => ?_, fun hop => ?_, fun hop => ?_⟩
  · refine ⟨s.ringPop n, (congrArg _ (ringExec_runs h (by rw [hop]; decide) rfl)), ringPop_popped h,
      (ringPop_same s n).2.1, hregs, (congrArg _ (ringExec_other h (by rw [hop]; decide) _))⟩
  · obtain ⟨h1, h2, h3⟩ := hanswer 0x21 0 hop
    exact ⟨_, (congrArg _ (ringExec_runs h (by rw [hop]; decide) (ringDone_rings _ _ _ _ _ _ _))), h1, h2, h3,
      (congrArg _ (ringExec_other h (by rw [hop]; decide) _))⟩
  · obtain ⟨h1, h2, h3⟩ := hanswer _ 7 rfl
    exact ⟨_, (congrArg _ (ringExec_runs h hop (ringDone_rings _ _ _ _ _ _ _))), h1, h2, h3⟩
  · exact (congrArg _ (ringExec_other h hop _))

/-- Settles O38: the fetcher's batches, and the ring-level commands. -/
theorem commandRingsRun : Obligations.CommandRingsRun := by
  refine ⟨fun n bad corr s he => ⟨fun hno => ?_, fun hf hc hb hq => ?_, fetch_bad he bad corr⟩, fun n w rest s h => ringLevel_rows h⟩
  · refine (event_open he (fun s => s.commandFetch n bad corr)).trans (congrArg _ (if_neg fun hy => ?_))
    obtain hno | hno := hno
    · exact absurd hy.1 (by rw [hno]; exact Bool.false_ne_true)
    · exact hy.2 (by rw [hno]; rfl)
  · subst hb
    exact fetch_good he corr hf hc hq

end Sys2Proof
end

section
/-!
SUPPORT. Locks, the configuration signature and the state summary (R308, R319 to R327).
-/
set_option Elab.async false
namespace Sys2Proof.Machine
open Sys2Proof

/-! ### Locks -/

/-- The store of an engine is locked: LOCK is set, and WE is not. -/
def storeLocked (s : State) (e : Nat) : Prop := s.ron (F.CSe_CTRL_LOCK e) = true ∧ s.ron (F.CSe_CTRL_WE e) = false

/-- The locks of some control stores are set. -/
def State.storesLock (s : State) (l : List Nat) : State :=
  l.foldl (fun (a : State) e => (a.rput (F.CSe_CTRL_LOCK e) 1).rput (F.CSe_CTRL_WE e) 0) s

theorem csCtrl_injective {d e : Nat} (h : d ≠ e) : R.CSe_CTRL d ≠ R.CSe_CTRL e := by unfold R.CSe_CTRL; omega

theorem storeLock_locks (s : State) (e : Nat) : storeLocked ((s.rput (F.CSe_CTRL_LOCK e) 1).rput (F.CSe_CTRL_WE e) 0) e := by
  have h1 : ((s.rput (F.CSe_CTRL_LOCK e) 1).rput (F.CSe_CTRL_WE e) 0).rget (F.CSe_CTRL_LOCK e) = 1 :=
    (rget_rput_apart _ (f := F.CSe_CTRL_WE e) (g := F.CSe_CTRL_LOCK e) 0 (by decide : (0 : Nat) + 1 ≤ 32) rfl
      (Or.inr (by decide : (0 : Nat) + 1 ≤ 2))).trans (rget_rput_same s _ 1 (by decide : (2 : Nat) + 1 ≤ 32))
  have h0 : ((s.rput (F.CSe_CTRL_LOCK e) 1).rput (F.CSe_CTRL_WE e) 0).rget (F.CSe_CTRL_WE e) = 0 :=
    rget_rput_same _ _ 0 (by decide : (0 : Nat) + 1 ≤ 32)
  exact ⟨ron_of_rget h1, ron_eq_false.2 h0⟩

theorem storeLocked_of_reg {s t : State} {e : Nat} (h : t.reg (R.CSe_CTRL e) = s.reg (R.CSe_CTRL e)) (hs : storeLocked s e) : storeLocked t e :=
  ⟨(ron_of_reg (f := F.CSe_CTRL_LOCK e) h).trans hs.1, (ron_of_reg (f := F.CSe_CTRL_WE e) h).trans hs.2⟩

theorem storesLock_cons (s : State) (e : Nat) (l : List Nat) :
    s.storesLock (e :: l) = ((s.rput (F.CSe_CTRL_LOCK e) 1).rput (F.CSe_CTRL_WE e) 0).storesLock l := rfl

theorem storesLock_locks {l : List Nat} {s : State} {e : Nat} (h : e ∈ l ∨ storeLocked s e) : storeLocked (s.storesLock l) e := by
  induction l generalizing s with
  | nil => exact h.resolve_left (by simp)
  | cons d l ih =>
    rw [storesLock_cons]
    refine ih ?_
    by_cases hd : e = d
    · subst hd
      exact Or.inr (storeLock_locks s e)
    · have hreg : ((s.rput (F.CSe_CTRL_LOCK d) 1).rput (F.CSe_CTRL_WE d) 0).reg (R.CSe_CTRL e) = s.reg (R.CSe_CTRL e) := by
        rw [reg_rput_ne _ (f := F.CSe_CTRL_WE d) 0 (csCtrl_injective hd), reg_rput_ne _ (f := F.CSe_CTRL_LOCK d) 1 (csCtrl_injective hd)]
      obtain hm | hs := h
      · exact Or.inl ((List.mem_cons.1 hm).resolve_left hd)
      · exact Or.inr (storeLocked_of_reg hreg hs)

theorem storesLock_frame {os : List Nat} {l : List Nat} {s t : State} (h : Frame os s t) (hl : ∀ e ∈ l, R.CSe_CTRL e ∈ os) :
    Frame os s (t.storesLock l) := by
  induction l generalizing t with
  | nil => exact h
  | cons d l ih =>
    have hd := hl d List.mem_cons_self
    rw [storesLock_cons]
    exact ih ((h.rput (f := F.CSe_CTRL_LOCK d) 1 hd).rput (f := F.CSe_CTRL_WE d) 0 hd) (fun e he => hl e (List.mem_cons_of_mem _ he))

/-- The registers that a write of the locks may change. -/
def lockRegs (v : Word) : List Nat := [R.GL_LOCK, R.GL_CFGGEN] ++ if nbit v.toNat 9 then (List.range 8).map (fun e => R.CSe_CTRL e) else []

/-- The state that a write of the locks puts. -/
def State.locksPut (s : State) (v : Word) : State :=
  let s1 := s.rput F.GL_LOCK_DOMAINS (s.rget F.GL_LOCK_DOMAINS ||| wfld v 0 12)
  if nbit v.toNat 9 then s1.storesLock (List.range 8) else s1

theorem locksPut_frame (s : State) (v : Word) : Frame (lockRegs v) s (s.locksPut v) := by
  have h1 : Frame (lockRegs v) s (s.rput F.GL_LOCK_DOMAINS (s.rget F.GL_LOCK_DOMAINS ||| wfld v 0 12)) :=
    (Frame.refl _ s).rput _ (List.mem_append_left _ (by decide))
  unfold State.locksPut
  dsimp only
  split
  next hb =>
    refine storesLock_frame h1 (fun e he => ?_)
    unfold lockRegs
    rw [if_pos hb]
    exact List.mem_append_right _ (List.mem_map_of_mem he)
  next => exact h1

theorem locksPut_domains (s : State) (v : Word) : (s.locksPut v).rget F.GL_LOCK_DOMAINS = s.rget F.GL_LOCK_DOMAINS ||| wfld v 0 12 := by
  have hlt : s.rget F.GL_LOCK_DOMAINS ||| wfld v 0 12 < 2 ^ 12 := Nat.or_lt_two_pow (rget_lt s F.GL_LOCK_DOMAINS) (Nat.mod_lt _ (by decide))
  have h1 : (s.rput F.GL_LOCK_DOMAINS (s.rget F.GL_LOCK_DOMAINS ||| wfld v 0 12)).rget F.GL_LOCK_DOMAINS =
      s.rget F.GL_LOCK_DOMAINS ||| wfld v 0 12 := (rget_rput_same _ _ _ (by decide)).trans (Nat.mod_eq_of_lt hlt)
  unfold State.locksPut
  dsimp only
  split
  · refine (rget_of_reg (f := F.GL_LOCK_DOMAINS) ?_).trans h1
    refine (storesLock_frame (os := (List.range 8).map (fun e => R.CSe_CTRL e)) (Frame.refl _ _) (fun e he => List.mem_map_of_mem he)).regs _
      (by decide) (by decide)
  · exact h1

theorem locksPut_stores (s : State) {v : Word} (h : nbit v.toNat 9 = true) (e : Fin 8) : storeLocked (s.locksPut v) e := by
  unfold State.locksPut
  dsimp only
  rw [if_pos h]
  exact storesLock_locks (Or.inl (List.mem_range.2 e.isLt))

theorem lockWrite_eq (s : State) (v : Word) : s.lockWrite v = s.cfgWrite R.GL_LOCK (fun s => s.locksPut v) := rfl

/-! ### The host tag -/

theorem tagWrite_once {s : State} (h : s.ron F.GL_STAT_HOSTTAG_SET = false) (p : Path) (v : Word) :
    s.tagWrite p v = (s.cfgWrite R.GL_HOSTTAG (fun s => s.setReg R.GL_HOSTTAG v)).rput F.GL_STAT_HOSTTAG_SET 1 :=
  if_neg (by rw [h]; exact Bool.false_ne_true)

theorem tagWrite_again {s : State} (h : s.ron F.GL_STAT_HOSTTAG_SET = true) (p : Path) (v : Word) :
    s.tagWrite p v = s.lockViolation p R.GL_HOSTTAG v 0 true := if_pos h

end Sys2Proof.Machine
end

section
set_option Elab.async false
namespace Sys2Proof
open Sys2Proof.Machine

/-- The writes of the locks and of the host tag. -/
theorem locksAndTag_written (p : Path) (v : Word) {s : State} (hw : s.takesWrites = true) :
    (∃ t, exec (.glLockWrite p v) s = .next t ∧ t.rget F.GL_LOCK_DOMAINS = s.rget F.GL_LOCK_DOMAINS ||| wfld v 0 12 ∧ s.sameBlocks t ∧
      s.sameRegsBut t ([R.GL_LOCK, R.GL_CFGGEN] ++ if nbit v.toNat 9 then (List.range 8).map (fun e => R.CSe_CTRL e) else []) ∧
      (nbit v.toNat 9 = true → ∀ e : Fin 8, t.ron (F.CSe_CTRL_LOCK e) = true ∧ t.ron (F.CSe_CTRL_WE e) = false)) ∧
    (s.ron F.GL_STAT_HOSTTAG_SET = false → ∃ t, exec (.glHosttagWrite p v) s = .next t ∧ t.reg R.GL_HOSTTAG = v ∧
      t.ron F.GL_STAT_HOSTTAG_SET = true ∧ s.sameRegsBut t [R.GL_HOSTTAG, R.GL_STAT, R.GL_CFGGEN] ∧ s.sameBlocks t) ∧
    (s.ron F.GL_STAT_HOSTTAG_SET = true → ∃ t, exec (.glHosttagWrite p v) s = .next t ∧ t.reg R.GL_HOSTTAG = s.reg R.GL_HOSTTAG ∧
      countedOne s t F.GL_LOCK_VIOL_CNT ∧ t.ron F.GL_EVT_LOCK_S = true ∧ s.sameBlocks t) := by
  refine ⟨⟨s.lockWrite v, hostAct_open hw p _ _, ?_⟩, fun h => ⟨s.tagWrite p v, hostAct_open hw p _ _, ?_⟩,
    fun h => ⟨s.tagWrite p v, hostAct_open hw p _ _, ?_⟩⟩
  · rw [lockWrite_eq]
    have hf := cfgWrite_frame (o := R.GL_LOCK) (f := fun s => s.locksPut v) (locksPut_frame s v) (List.mem_append_left _ (by decide))
    refine ⟨(cfgWrite_rget s (by decide)).trans (locksPut_domains s v), hf.blocks, hf.regs, fun hb e => ?_⟩
    exact storeLocked_of_reg (cfgWrite_reg s (by unfold R.CSe_CTRL R.GL_CFGGEN; omega)) (locksPut_stores s hb e)
  · rw [tagWrite_once h]
    have hf : Frame [R.GL_HOSTTAG, R.GL_STAT, R.GL_CFGGEN] s
        ((s.cfgWrite R.GL_HOSTTAG (fun s => s.setReg R.GL_HOSTTAG v)).rput F.GL_STAT_HOSTTAG_SET 1) :=
      (cfgWrite_frame ((Frame.refl _ s).setReg v (by decide)) (by decide)).rput 1 (by decide)
    exact ⟨(reg_rput_ne _ _ (by decide)).trans ((cfgWrite_reg s (by decide)).trans (reg_setReg_same _ _ _)),
      ron_of_rget (rget_rput_same _ _ _ (by decide)), hf.regs, hf.blocks⟩
  · rw [tagWrite_again h]
    have hl := loading_of_writes hw
    have hf := lockViolation_frame (Frame.refl violRegs s) hl (fun _ h => h) p R.GL_HOSTTAG v 0 true
    obtain ⟨hc, he⟩ := lockViolation_counts hl p R.GL_HOSTTAG v 0 true
    exact ⟨hf.regs _ (by decide) (by decide), hc, he, hf.blocks⟩

end Sys2Proof
end

section
/-!
SUPPORT. The configuration signature and the state summary (R323 to R327): what their requests and their ends leave.
-/
set_option Elab.async false
namespace Sys2Proof.Machine
open Sys2Proof

theorem Far.hif {s t : State} (h : Far s t) : { t.hif with evSet := s.hif.evSet } = s.hif := h.2.2.2.2.2.2.2.2.2.2.2.2.2.2.2.2.2.1

/-- The host interface may be taken from the later state: it differs in the event bits of the tick alone. -/
theorem Frame.onHif {os : List Nat} {s t : State} {x : HostIf} (h : Frame os { s with hif := x } t) : State.sameBlocks { s with hif := t.hif } t := by
  obtain ⟨hr, ⟨h1, h2, h3, h4, h5, h6, h7, h8, h9, h10, h11, h12, h13, h14, h15, h16, h17, -, h19⟩, hcore⟩ := h
  exact ⟨⟨h1, h2, h3, h4, h5, h6, h7, h8, h9, h10, h11, h12, h13, h14, h15, h16, h17, rfl, h19⟩, hcore⟩

/-! ### The signature -/

/-- What the end of a computation leaves in the registers, before it is reported. -/
def State.sigShown (s : State) (sig : Word) (gen info : Nat) : State :=
  ((((s.setReg R.GL_SIG sig).setReg R.GL_SIGGEN (word gen)).setReg R.GL_SIGSTAT (word info)).evt F.GL_EVT_SIG_S)

theorem sigShown_frame (s : State) (sig : Word) (gen info : Nat) :
    Frame [R.GL_SIG, R.GL_SIGGEN, R.GL_SIGSTAT, R.GL_EVT] s (s.sigShown sig gen info) :=
  ((((Frame.refl _ s).setReg sig (by decide)).setReg _ (by decide)).setReg _ (by decide)).evt (by decide)

theorem sigShown_regs (s : State) (sig : Word) (gen info : Nat) :
    (s.sigShown sig gen info).reg R.GL_SIG = sig ∧ (s.sigShown sig gen info).reg R.GL_SIGGEN = word gen ∧
    (s.sigShown sig gen info).reg R.GL_SIGSTAT = word info ∧ (s.sigShown sig gen info).ron F.GL_EVT_SIG_S = true := by
  unfold State.sigShown
  refine ⟨?_, ?_, ?_, ron_evt _ _ rfl (by decide) (by decide)⟩ <;> rw [reg_evt _ _ (by decide) (by decide)]
  · rw [reg_setReg_ne _ _ (by decide), reg_setReg_ne _ _ (by decide), reg_setReg_same]
  · rw [reg_setReg_ne _ _ (by decide), reg_setReg_same]
  · rw [reg_setReg_same]

/-- The fields of the word that `GL_SIGSTAT` shows. -/
theorem sigStat_fields {s : State} {stale : Bool} {req us : Nat}
    (h : s.reg R.GL_SIGSTAT = word (1 + 2 * b2n stale + 4 * req + 2 ^ 16 * us)) :
    s.ron F.GL_SIGSTAT_VALID = true ∧ s.ron F.GL_SIGSTAT_STALE = stale ∧ s.rget F.GL_SIGSTAT_REQ = req % 4 := by
  have hw : ∀ lo width, wfld (word (1 + 2 * b2n stale + 4 * req + 2 ^ 16 * us)) lo width =
      (1 + 2 * b2n stale + 4 * req + 2 ^ 16 * us) % 2 ^ 32 / 2 ^ lo % 2 ^ width := fun lo width => by
    simp [wfld, word, Nat.shiftRight_eq_div_pow]
  have hb : b2n stale = 0 ∧ stale = false ∨ b2n stale = 1 ∧ stale = true := by cases stale <;> simp [b2n]
  simp only [State.ron, State.rget, F.GL_SIGSTAT_VALID, F.GL_SIGSTAT_STALE, F.GL_SIGSTAT_REQ, h, hw]
  refine ⟨?_, ?_, ?_⟩
  · simp only [bne_iff_ne, ne_eq]; omega
  · obtain ⟨h0, rfl⟩ | ⟨h1, rfl⟩ := hb
    · simp only [bne_eq_false_iff_eq]; omega
    · simp only [bne_iff_ne, ne_eq]; omega
  · omega

/-! ### The summary -/

theorem sumBuf_eq (s : State) : s.sumBuf = nextSummary s := by
  have hl : s.rget F.GL_SUMSTAT_LAST < 2 := rget_lt s F.GL_SUMSTAT_LAST
  unfold State.sumBuf nextSummary
  by_cases h0 : s.rget F.GL_SUMCNT_CNT = 0
  · simp [h0]
  · by_cases h1 : s.rget F.GL_SUMSTAT_LAST = 1
    · simp [h1]
    · simp only [h0, h1, or_self, if_false]
      omega

theorem sumStart_idle {s : State} (h : s.hif.sum = none) (req : Nat) : s.sumStart req =
    { s with sram := memWrWs s.sram (nextSummary s + 8) [0], hif := { s.hif with sum := some ⟨req, s.now, s.ron F.SPN_STAT_COARSE⟩ } } := by
  unfold State.sumStart
  rw [h, sumBuf_eq]
  rfl

theorem sumStart_busy {s : State} {q : SumRun} (h : s.hif.sum = some q) (req : Nat) : s.sumStart req = s := by
  unfold State.sumStart
  rw [h]

theorem sumHeader_length (s : State) (h : SumHead) : (s.sumHeader h).length = 16 := rfl
theorem sumSpine_length (s : State) : s.sumSpine.length = 64 := by simp [State.sumSpine, List.length_flatMap]
theorem sumGaffers_length (s : State) : s.sumGaffers.length = 32 := by simp [State.sumGaffers, List.length_flatMap]
theorem sumOrreries_length (s : State) : s.sumOrreries.length = 48 := by simp [State.sumOrreries, List.length_flatMap]
theorem sumRings_length (s : State) : s.sumRings.length = 352 := by simp [State.sumRings, List.length_flatMap]
theorem sumSources_length (s : State) : s.sumSources.length = 192 := by simp [State.sumSources]
theorem sumEvents_length (s : State) : s.sumEvents.length = 319 := by
  simp only [State.sumEvents, List.length_append, List.length_map, List.length_replicate, List.length_range, List.length_cons, List.length_nil]

/-- A summary has its 1,024 words: the magic word first, and the CRC of the others last. -/
theorem summaryWords_shape (s : State) (h : SumHead) : (s.summaryWords h).length = 1024 ∧ (s.summaryWords h).head? = some 0x36395853 ∧
    (s.summaryWords h).getLast? = some (crcFinal (crcWords crcInit ((s.summaryWords h).dropLast.map BitVec.toNat))) := by
  refine ⟨?_, rfl, ?_⟩
  · simp only [State.summaryWords, List.length_append, sumHeader_length, sumSpine_length, sumGaffers_length, sumOrreries_length,
      sumRings_length, sumSources_length, sumEvents_length, List.length_cons, List.length_nil]
  · unfold State.summaryWords
    rw [List.dropLast_concat, List.getLast?_concat]

/-- What the end of an on-chip summary leaves. -/
def State.sumShown (s : State) (ws : List Word) (buf n last : Nat) : State :=
  (((s.sramWr buf ws).setReg R.GL_SUMCNT (word n)).rput F.GL_SUMSTAT_LAST last).evt F.GL_EVT_SUM_S

theorem sumShown_frame (s : State) (ws : List Word) (buf n last : Nat) :
    Frame [R.GL_SUMCNT, R.GL_SUMSTAT, R.GL_EVT] { s with sram := memWrWs s.sram buf ws } (s.sumShown ws buf n last) :=
  (((Frame.refl _ (s.sramWr buf ws)).setReg _ (by decide)).rput _ (by decide)).evt (by decide)

theorem sumShown_count (s : State) (ws : List Word) (buf last : Nat) {n : Nat} (h : n < 2 ^ 32) :
    (s.sumShown ws buf n last).rget F.GL_SUMCNT_CNT = n ∧ (s.sumShown ws buf n last).ron F.GL_EVT_SUM_S = true := by
  refine ⟨?_, ron_evt _ _ rfl (by decide) (by decide)⟩
  have hr : (s.sumShown ws buf n last).reg R.GL_SUMCNT = word n := by
    unfold State.sumShown
    rw [reg_evt _ _ (by decide) (by decide), reg_rput_ne _ _ (by decide), reg_setReg_same]
  show wfld ((s.sumShown ws buf n last).reg R.GL_SUMCNT) 0 32 = n
  rw [hr]
  simp only [wfld, word, BitVec.toNat_ofNat, Nat.shiftRight_zero]
  omega

end Sys2Proof.Machine
end

section
set_option Elab.async false
namespace Sys2Proof
open Sys2Proof.Machine

/-- The requests of a signature and of a summary. -/
theorem requests_written (p : Path) {s : State} (hw : s.takesWrites = true) :
    exec (.signatureGo p) s = .next (if s.hif.sig.isSome then s else
      { s with hif := { s.hif with sig := some ⟨pathBit p, s.rget F.GL_CFGGEN_GEN, s.now⟩ } }) ∧
    exec (.summaryGo p) s = .next (if s.hif.sum.isSome then s else
      { s with
        sram := memWrWs s.sram (nextSummary s + 8) [0]
        hif := { s.hif with sum := some ⟨0, s.now, s.ron F.SPN_STAT_COARSE⟩ } }) := by
  refine ⟨(hostAct_open hw p _ _).trans (congrArg _ ?_), (hostAct_open hw p _ _).trans (congrArg _ ?_)⟩
  · unfold State.sigStart
    cases s.hif.sig with
    | none => rfl
    | some q => rfl
  · cases hs : s.hif.sum with
    | none => exact sumStart_idle hs 0
    | some q => exact sumStart_busy hs 0

/-- What the end of a signature's computation puts, and reports. -/
theorem sigDone_eq {s : State} {q : SigRun} (hq : s.hif.sig = some q) : ∃ sig k us tm w7,
    s.sigDone = (State.sigShown { s with hif := { s.hif with sig := none }, free := k } sig q.gen
      (1 + 2 * b2n (s.rget F.GL_CFGGEN_GEN != q.gen) + 4 * q.req + 2 ^ 16 * us)).emit 0x2B 104 tm 0 sig (word q.gen)
      (word (b2n (s.rget F.GL_CFGGEN_GEN != q.gen) + 2 * q.req)) w7 ∧ (s.rget F.GL_CFGGEN_GEN = q.gen → sig = s.signature) := by
  unfold State.sigDone
  rw [hq]
  dsimp only
  by_cases hs : s.rget F.GL_CFGGEN_GEN = q.gen
  · have hb : (s.rget F.GL_CFGGEN_GEN != q.gen) = false := bne_eq_false_iff_eq.2 hs
    simp only [hb, Bool.false_eq_true, if_false]
    exact ⟨s.signature, s.free, _, _, _, rfl, fun _ => rfl⟩
  · have hb : (s.rget F.GL_CFGGEN_GEN != q.gen) = true := bne_iff_ne.2 hs
    simp only [hb, if_true]
    exact ⟨Config.staleSignature s.free, s.free + 1, _, _, _, rfl, fun h => absurd h hs⟩

/-- The end of a signature's computation. -/
theorem signature_ends {s : State} (he : s.takesEvents = true) {q : SigRun} (hq : s.hif.sig = some q) :
    ∃ t, exec .signatureDone s = .next t ∧ { t.hif with evSet := s.hif.evSet } = { s.hif with sig := none } ∧
      State.sameBlocks { s with hif := t.hif, free := t.free } t ∧ s.sameRegsBut t [R.GL_SIG, R.GL_SIGGEN, R.GL_SIGSTAT, R.GL_EVT] ∧
      t.ron F.GL_SIGSTAT_VALID = true ∧ t.ron F.GL_SIGSTAT_STALE = (s.rget F.GL_CFGGEN_GEN != q.gen) ∧ t.rget F.GL_SIGSTAT_REQ = q.req % 4 ∧
      t.reg R.GL_SIGGEN = word q.gen ∧ t.ron F.GL_EVT_SIG_S = true ∧ (s.rget F.GL_CFGGEN_GEN = q.gen → t.reg R.GL_SIG = s.signature) := by
  obtain ⟨sig, k, us, tm, w7, ht, hsig⟩ := sigDone_eq hq
  let info := 1 + 2 * b2n (s.rget F.GL_CFGGEN_GEN != q.gen) + 4 * q.req + 2 ^ 16 * us
  obtain ⟨h1, h2, h3, h4⟩ := sigShown_regs { s with hif := { s.hif with sig := none }, free := k } sig q.gen info
  have hf := (sigShown_frame { s with hif := { s.hif with sig := none }, free := k } sig q.gen info).emit 0x2B 104 tm 0 sig (word q.gen)
    (word (b2n (s.rget F.GL_CFGGEN_GEN != q.gen) + 2 * q.req)) w7
  have hreg : ∀ o, reportReg o = false → s.sigDone.reg o =
      (State.sigShown { s with hif := { s.hif with sig := none }, free := k } sig q.gen info).reg o := fun o ho => by
    rw [ht]; exact reg_emit _ _ _ _ _ _ _ _ _ ho
  obtain ⟨f1, f2, f3⟩ := sigStat_fields ((hreg R.GL_SIGSTAT (by decide)).trans h3)
  rw [← ht] at hf
  refine ⟨s.sigDone, event_open he State.sigDone, hf.far.hif, ?_, hf.regs, f1, f2, f3, (hreg _ (by decide)).trans h2,
    (ron_of_reg (hreg R.GL_EVT (by decide))).trans h4, fun hg => (hreg _ (by decide)).trans (h1.trans (hsig hg))⟩
  rw [show s.sigDone.free = k from hf.core.free]
  exact Frame.onHif (s := { s with free := k }) hf

/-- The end of a summary's period. -/
theorem summary_period {s : State} (he : s.takesEvents = true) :
    let due := s.rget F.GL_SUMCFG_PERIOD ≠ 0 ∧ s.hif.periodAt + s.rget F.GL_SUMCFG_PERIOD * 64000000 ≤ s.now
    (¬ due → exec .summaryPeriod s = .next s) ∧
    (due → ∃ t, exec .summaryPeriod s = .next t ∧ t.hif.periodAt = s.now ∧
      t.hif.sum = (if s.hif.sum.isSome then s.hif.sum else some ⟨1, s.now, s.ron F.SPN_STAT_COARSE⟩) ∧ (∀ o, t.reg o = s.reg o) ∧
      t.sram = (if s.hif.sum.isSome then s.sram else memWrWs s.sram (nextSummary s + 8) [0]) ∧
      State.sameBlocks { s with hif := t.hif, sram := t.sram } t) := by
  intro due
  refine ⟨fun hno => (event_open he State.sumPeriod).trans (congrArg _ (if_neg hno)), fun hd => ?_⟩
  refine ⟨_, (event_open he State.sumPeriod).trans (congrArg _ (if_pos hd)), ?_⟩
  cases hs : s.hif.sum with
  | none =>
    rw [sumStart_idle (s := { s with hif := { s.hif with periodAt := s.now } }) hs]
    exact ⟨rfl, rfl, fun _ => rfl, rfl, sameBlocks_refl _⟩
  | some q =>
    rw [sumStart_busy (s := { s with hif := { s.hif with periodAt := s.now } }) hs]
    exact ⟨rfl, hs, fun _ => rfl, rfl, sameBlocks_refl _⟩

/-- The end of an on-chip summary. -/
theorem summary_ends {s : State} (he : s.takesEvents = true) {q : SumRun} (hq : s.hif.sum = some q) :
    ∃ t ws, exec .summaryDone s = .next t ∧ ws.length = 1024 ∧ ws.head? = some 0x36395853 ∧
      ws.getLast? = some (crcFinal (crcWords crcInit (ws.dropLast.map BitVec.toNat))) ∧
      t.sram = memWrWs s.sram (nextSummary s) ws ∧
      t.rget F.GL_SUMCNT_CNT = (if s.rget F.GL_SUMCNT_CNT = 2 ^ 32 - 1 then 1 else s.rget F.GL_SUMCNT_CNT + 1) ∧
      t.ron F.GL_EVT_SUM_S = true ∧ { t.hif with evSet := s.hif.evSet } = { s.hif with sum := none } ∧
      s.sameRegsBut t [R.GL_SUMCNT, R.GL_SUMSTAT, R.GL_EVT] ∧ State.sameBlocks { s with hif := t.hif, sram := t.sram } t := by
  have hlt : s.rget F.GL_SUMCNT_CNT < 2 ^ 32 := rget_lt s F.GL_SUMCNT_CNT
  let n := if (s.rget F.GL_SUMCNT_CNT + 1) % 2 ^ 32 = 0 then 1 else s.rget F.GL_SUMCNT_CNT + 1
  have hn : n = if s.rget F.GL_SUMCNT_CNT = 2 ^ 32 - 1 then 1 else s.rget F.GL_SUMCNT_CNT + 1 := if_congr (by omega) rfl rfl
  have hn32 : n < 2 ^ 32 := by rw [hn]; split <;> omega
  obtain ⟨hlen, hhead, hlast⟩ := summaryWords_shape s ⟨q.req, 0, 0, n, q.start, q.coarse⟩
  obtain ⟨ws, hws⟩ : ∃ ws, ws = s.summaryWords ⟨q.req, 0, 0, n, q.start, q.coarse⟩ := ⟨_, rfl⟩
  rw [← hws] at hlen hhead hlast
  have ht : s.sumDone = State.sumShown { s with hif := { s.hif with sum := none } } ws s.sumBuf n ((s.sumBuf - 0x3A0000) / 0x1000) := by
    unfold State.sumDone
    rw [hq, hws]
    rfl
  have hf := sumShown_frame { s with hif := { s.hif with sum := none } } ws s.sumBuf n ((s.sumBuf - 0x3A0000) / 0x1000)
  obtain ⟨hcnt, hevt⟩ := sumShown_count { s with hif := { s.hif with sum := none } } ws s.sumBuf ((s.sumBuf - 0x3A0000) / 0x1000) hn32
  rw [← ht] at hf hcnt hevt
  have hm : s.sumDone.sram = memWrWs s.sram s.sumBuf ws := hf.core.sram
  refine ⟨s.sumDone, ws, event_open he State.sumDone, hlen, hhead, hlast, by rw [hm, sumBuf_eq], hcnt.trans hn, hevt, hf.far.hif, hf.regs, ?_⟩
  rw [hm]
  exact Frame.onHif (s := { s with sram := memWrWs s.sram s.sumBuf ws }) hf

/-- The front command of a ring is held where it is a SUMMARY to host memory and the record writer asks. -/
theorem sumHeld_front {s : State} {n : Fin 64} {w : Vector Word 8} {rest : List CmdWords} (h : fronts s n w rest) (hop : cmdOp w = 0x22) :
    s.sumHeld n = true ↔ wfld w[1] 0 1 = 0 ∧ s.writerAsks = true ∧ s.hostOpen = true := by
  unfold State.sumHeld
  rw [ringFront_of_fronts h]
  simp only [sumToHost, hop, Bool.and_eq_true, decide_eq_true_eq, true_and]
  tauto

theorem exec_summary {s : State} (h : s.takesEvents = true) (n : Fin 64) : exec (.summary n) s = .next (if s.hif.sum.isSome ∨ s.sumHeld n then s
    else s.ringExec n (fun op => op = 0x22) (fun s w => s.ringSummary n w)) :=
  event_open h (fun s => if s.hif.sum.isSome ∨ s.sumHeld n then s else s.ringExec n (fun op => op = 0x22) (fun s w => s.ringSummary n w))

end Sys2Proof
end

section
/-!
SUPPORT. The ring command SUMMARY (R241, R326).
-/
set_option Elab.async false
namespace Sys2Proof.Machine
open Sys2Proof

section
variable {s : State} {n : Fin 64} {w : Vector Word 8}

/-- The summary that a ring command writes, and where. -/
def State.ringWords (s : State) (n : Fin 64) (w : Vector Word 8) : List Word :=
  s.summaryWords ⟨2, n, cmdSeq w, (s.rings[n].sums + 1) % 2 ^ 32, s.now, s.ron F.SPN_STAT_COARSE⟩
def summaryAt (w : Vector Word 8) : Nat := w[2].toNat + 2 ^ 32 * w[3].toNat
def State.sumCounted (s : State) (n : Fin 64) : State := s.modRing n (fun x => { x with sums := s.rings[n].sums + 1 })

theorem ringSummary_onChip (hb : wfld w[1] 0 1 = 1) (ha : summaryAt w + 0x1000 ≤ 0x400000) : s.ringSummary n w =
    ((s.sumCounted n).sramWr (summaryAt w) (s.ringWords n w)).ringDone n (cmdSeq w) 0x22 0 w[2] w[3] := (if_pos hb).trans (if_pos ha)

theorem ringSummary_outside (hb : wfld w[1] 0 1 = 1) (ha : ¬ summaryAt w + 0x1000 ≤ 0x400000) : s.ringSummary n w =
    s.drawn.ringDone n (cmdSeq w) 0x22 (Config.summaryResult s.free).toNat w[2] w[3] := (if_pos hb).trans (if_neg ha)

theorem ringSummary_host (hb : ¬ wfld w[1] 0 1 = 1) (ho : s.hostOpen = true) : s.ringSummary n w =
    ((s.sumCounted n).hostWr (summaryAt w) (s.ringWords n w)).ringDone n (cmdSeq w) 0x22 0 w[2] w[3] := (if_neg hb).trans (if_pos ho)

theorem ringSummary_closed (hb : ¬ wfld w[1] 0 1 = 1) (ho : ¬ s.hostOpen = true) : s.ringSummary n w =
    s.ringDone n (cmdSeq w) 0x22 8 w[2] w[3] := (if_neg hb).trans (if_neg ho)

theorem sumCounted_fetched : (s.sumCounted n).rings[n].fetched = s.rings[n].fetched := by
  unfold State.sumCounted
  rw [ring_modRing_same]

/-- A SUMMARY's answer leaves the memories and the rings. -/
theorem summary_answered {v : State} (hop : cmdOp w = 0x22) (h : SameAnswers s v) (result : Nat) {t : State}
    (ht : t = v.ringDone n (cmdSeq w) 0x22 result w[2] w[3]) :
    ringAnswer s t n w result ∧ s.sameRegsBut t [] ∧ t.sram = v.sram ∧ t.host = v.host ∧ t.rings = v.rings := by
  subst ht
  have hf := ringDone_frame (Frame.refl [] v) n (cmdSeq w) 0x22 result w[2] w[3]
  have ha := ringDone_answers (n := n) (w := w) h result
  rw [hop] at ha
  exact ⟨ha, fun o hr ho => (hf.regs o hr ho).trans (congrArg (fun r => tblGet resetWord r o) h.regs), hf.core.sram, hf.far.host, hf.far.rings⟩

theorem sumCounted_memories (a : Nat) (ws : List Word) :
    ((s.sumCounted n).sramWr a ws).sram = memWrWs s.sram a ws ∧ ((s.sumCounted n).sramWr a ws).host = s.host ∧
    ((s.sumCounted n).hostWr a ws).sram = s.sram ∧ ((s.sumCounted n).hostWr a ws).host = memWrWs s.host a ws := ⟨rfl, rfl, rfl, rfl⟩

theorem sumCounted_answers {u : State} (h : SameAnswers s u) (a : Nat) (ws : List Word) :
    SameAnswers s ((u.sumCounted n).sramWr a ws) ∧ SameAnswers s ((u.sumCounted n).hostWr a ws) ∧ SameAnswers s u.drawn :=
  ⟨⟨h.regs, h.recq, h.seqs, h.spine⟩, ⟨h.regs, h.recq, h.seqs, h.spine⟩, ⟨h.regs, h.recq, h.seqs, h.spine⟩⟩

theorem fetched_of_rings {u v : State} (h : u.rings = v.rings) : u.rings[n].fetched = v.rings[n].fetched := by rw [h]

/-- What every SUMMARY leaves: the registers, and the commands that its ring has fetched. -/
theorem ringSummary_leaves {u : State} (hop : cmdOp w = 0x22) (hu : SameAnswers s u) :
    s.sameRegsBut (u.ringSummary n w) [] ∧ (u.ringSummary n w).rings[n].fetched = u.rings[n].fetched := by
  obtain ⟨hs, hh, hd⟩ := sumCounted_answers (n := n) hu (summaryAt w) (u.ringWords n w)
  by_cases hb : wfld w[1] 0 1 = 1
  · by_cases ha : summaryAt w + 0x1000 ≤ 0x400000
    · obtain ⟨-, h2, -, -, h5⟩ := summary_answered hop hs 0 (ringSummary_onChip (s := u) (n := n) hb ha)
      exact ⟨h2, (fetched_of_rings h5).trans sumCounted_fetched⟩
    · obtain ⟨-, h2, -, -, h5⟩ := summary_answered hop hd _ (ringSummary_outside (s := u) (n := n) hb ha)
      exact ⟨h2, fetched_of_rings h5⟩
  · by_cases ho : u.hostOpen = true
    · obtain ⟨-, h2, -, -, h5⟩ := summary_answered hop hh 0 (ringSummary_host (s := u) (n := n) hb ho)
      exact ⟨h2, (fetched_of_rings h5).trans sumCounted_fetched⟩
    · obtain ⟨-, h2, -, -, h5⟩ := summary_answered hop hu 8 (ringSummary_closed (s := u) (n := n) hb ho)
      exact ⟨h2, fetched_of_rings h5⟩

/-- A SUMMARY to SRAM. -/
theorem ringSummary_toSram {u : State} (hop : cmdOp w = 0x22) (hu : SameAnswers s u) (hb : wfld w[1] 0 1 = 1) :
    (summaryAt w + 0x1000 ≤ 0x400000 → (u.ringSummary n w).sram = memWrWs u.sram (summaryAt w) (u.ringWords n w) ∧
      (u.ringSummary n w).host = u.host ∧ ringAnswer s (u.ringSummary n w) n w 0) ∧
    (0x400000 < summaryAt w + 0x1000 → (u.ringSummary n w).sram = u.sram ∧ (u.ringSummary n w).host = u.host) := by
  obtain ⟨hs, -, hd⟩ := sumCounted_answers (n := n) hu (summaryAt w) (u.ringWords n w)
  obtain ⟨m1, m2, -, -⟩ := sumCounted_memories (s := u) (n := n) (summaryAt w) (u.ringWords n w)
  refine ⟨fun ha => ?_, fun ha => ?_⟩
  · obtain ⟨h1, -, h3, h4, -⟩ := summary_answered hop hs 0 (ringSummary_onChip (s := u) (n := n) hb ha)
    exact ⟨h3.trans m1, h4.trans m2, h1⟩
  · obtain ⟨-, -, h3, h4, -⟩ := summary_answered hop hd _ (ringSummary_outside (s := u) (n := n) hb (by omega))
    exact ⟨h3, h4⟩

/-- A SUMMARY to host memory. -/
theorem ringSummary_toHost {u : State} (hop : cmdOp w = 0x22) (hu : SameAnswers s u) (hb : wfld w[1] 0 1 = 0) :
    (u.hostOpen = true → (u.ringSummary n w).host = memWrWs u.host (summaryAt w) (u.ringWords n w) ∧
      (u.ringSummary n w).sram = u.sram ∧ ringAnswer s (u.ringSummary n w) n w 0) ∧
    (u.hostOpen = false → (u.ringSummary n w).host = u.host ∧ (u.ringSummary n w).sram = u.sram ∧ (u.ringSummary n w).rings = u.rings ∧
      ringAnswer s (u.ringSummary n w) n w 8) := by
  have hb1 : ¬ wfld w[1] 0 1 = 1 := by omega
  obtain ⟨-, hh, -⟩ := sumCounted_answers (n := n) hu (summaryAt w) (u.ringWords n w)
  obtain ⟨-, -, m3, m4⟩ := sumCounted_memories (s := u) (n := n) (summaryAt w) (u.ringWords n w)
  refine ⟨fun ho => ?_, fun ho => ?_⟩
  · obtain ⟨h1, -, h3, h4, -⟩ := summary_answered hop hh 0 (ringSummary_host (s := u) (n := n) hb1 ho)
    exact ⟨h4.trans m4, h3.trans m3, h1⟩
  · obtain ⟨h1, -, h3, h4, h5⟩ := summary_answered hop hu 8
      (ringSummary_closed (s := u) (n := n) hb1 (by rw [ho]; exact Bool.false_ne_true))
    exact ⟨h4, h3, h5, h1⟩

end

theorem hostOpen_ringPop (s : State) (n : Fin 64) : (s.ringPop n).hostOpen = s.hostOpen := by
  unfold State.ringPop
  dsimp only
  split <;> rfl

end Sys2Proof.Machine
end

section
set_option Elab.async false
namespace Sys2Proof
open Sys2Proof.Machine

/-- The ring command SUMMARY. -/
theorem summary_rings {s : State} {n : Fin 64} {w : Vector Word 8} {rest : List CmdWords} (h : fronts s n w rest) (hop : cmdOp w = 0x22) :
    let a := w[2].toNat + 2 ^ 32 * w[3].toNat
    (s.hif.sum.isSome = true ∨ (wfld w[1] 0 1 = 0 ∧ s.writerAsks = true ∧ s.hostOpen = true) → exec (.summary n) s = .next s) ∧
    (s.hif.sum = none → ¬ (wfld w[1] 0 1 = 0 ∧ s.writerAsks = true ∧ s.hostOpen = true) → ∃ t ws, exec (.summary n) s = .next t ∧ ws.length = 1024 ∧ ws.head? = some 0x36395853 ∧ s.sameRegsBut t [] ∧
      (wfld w[1] 0 1 = 1 → a + 0x1000 ≤ 0x400000 → t.sram = memWrWs s.sram a ws ∧ t.host = s.host ∧ ringAnswer s t n w 0) ∧
      (wfld w[1] 0 1 = 1 → 0x400000 < a + 0x1000 → t.sram = s.sram ∧ t.host = s.host) ∧
      (wfld w[1] 0 1 = 0 → s.hostOpen = true → t.host = memWrWs s.host a ws ∧ t.sram = s.sram ∧ ringAnswer s t n w 0) ∧
      (wfld w[1] 0 1 = 0 → s.hostOpen = false → t.host = s.host ∧ t.sram = s.sram ∧ popped s t n rest ∧ ringAnswer s t n w 8)) := by
  intro a
  have he : s.takesEvents = true := h.1
  rw [exec_summary he]
  refine ⟨fun hbusy => by rw [if_pos (hbusy.imp id (fun hh => (sumHeld_front h hop).2 hh))], fun hidle hopen => ?_⟩
  have hu := ringPop_answers s n
  obtain ⟨hregs, hfetched⟩ := ringSummary_leaves (n := n) hop hu
  have hno : ¬ (s.hif.sum.isSome = true ∨ s.sumHeld n = true) := by
    rw [hidle, sumHeld_front h hop]
    simpa using hopen
  rw [if_neg hno, ringExec_fetched h (by rw [hop]; decide) hfetched]
  obtain ⟨-, -, -, -, hs, ht⟩ := ringPop_same s n
  obtain ⟨hlen, hhead, -⟩ := summaryWords_shape (s.ringPop n) ⟨2, n, cmdSeq w, ((s.ringPop n).rings[n].sums + 1) % 2 ^ 32, (s.ringPop n).now,
    (s.ringPop n).ron F.SPN_STAT_COARSE⟩
  refine ⟨_, (s.ringPop n).ringWords n w, rfl, hlen, hhead, hregs, fun hb ha => ?_, fun hb ha => ?_, fun hb ho => ?_, fun hb ho => ?_⟩
  · obtain ⟨h1, h2, h3⟩ := (ringSummary_toSram (n := n) hop hu hb).1 ha
    exact ⟨by rw [h1, hs]; rfl, h2.trans ht, h3⟩
  · obtain ⟨h1, h2⟩ := (ringSummary_toSram (n := n) hop hu hb).2 ha
    exact ⟨h1.trans hs, h2.trans ht⟩
  · obtain ⟨h1, h2, h3⟩ := (ringSummary_toHost (n := n) hop hu hb).1 ((hostOpen_ringPop s n).trans ho)
    exact ⟨by rw [h1, ht]; rfl, h2.trans hs, h3⟩
  · obtain ⟨h1, h2, h3, h4⟩ := (ringSummary_toHost (n := n) hop hu hb).2 ((hostOpen_ringPop s n).trans ho)
    exact ⟨h1.trans ht, h2.trans hs, h3.trans (ringPop_popped h), h4⟩

/-- Settles O48: locks, the signature and the summary. -/
theorem locksSignatureSummary : Obligations.LocksSignatureSummary := by
  refine ⟨fun p v s hw => ?_, fun s he => ⟨fun hno => ?_, fun q hq => signature_ends he hq, summary_period he, fun hno => ?_,
    fun q hq => summary_ends he hq⟩, fun n w rest s h hop => summary_rings h hop⟩
  · obtain ⟨h1, h2, h3⟩ := locksAndTag_written p v hw
    obtain ⟨h4, h5⟩ := requests_written p hw
    exact ⟨h1, h2, h3, h4, h5⟩
  · refine (event_open he State.sigDone).trans (congrArg _ ?_)
    unfold State.sigDone
    rw [hno]
  · refine (event_open he State.sumDone).trans (congrArg _ ?_)
    unfold State.sumDone
    rw [hno]

end Sys2Proof
end

section
/-!
SUPPORT. The stages of a capture unit: what a step of the unit does to them, and what the reads of stage 1 leave (R75 to R77).
-/
set_option Elab.async false
namespace Sys2Proof.Machine
open Sys2Proof

theorem capOf_setCap (y : Channel) (k : Bool) (p : Cap) : capOf (setCap y k p) k = p := by cases k <;> rfl

theorem capOf_setCap_not (y : Channel) (k : Bool) (p : Cap) : capOf (setCap y k p) (!k) = capOf y (!k) := by cases k <;> rfl

theorem capOf_modCap (s : State) (c : Fin 96) (k : Bool) (p : Cap) : capOf (s.modCh c (fun y => setCap y k p)).ch[c] k = p := by
  rw [ch_modCh_same, capOf_setCap]

theorem capOf_modCap_not (s : State) (c : Fin 96) (k : Bool) (p : Cap) :
    capOf (s.modCh c (fun y => setCap y k p)).ch[c] (!k) = capOf s.ch[c] (!k) := by rw [ch_modCh_same, capOf_setCap_not]

/-- The unit whose stage 1 alone has changed. -/
def Cap.recorded (p : Cap) (x : CapT) : Cap := { p with s1 := some { x with recDone := true }, dropped := 0 }

/-- A record of stage 1 marks it recorded; nothing else of the channel changes, and no register outside the reports. -/
theorem capRecord_eq (s : State) (c : Fin 96) (k : Bool) : s.capRecord c k = s ∨
    ∃ x, (capOf s.ch[c] k).s1 = some x ∧ s.capUnrec c k x = true ∧
      Frame [] (s.modCh c (fun y => setCap y k ((capOf s.ch[c] k).recorded x))) (s.capRecord c k) := by
  unfold State.capRecord
  split
  case h_1 => exact .inl rfl
  case h_2 x hx =>
    split
    case isTrue h => exact .inr ⟨x, hx, h.1, (Frame.refl [] _).emitFl _ _ _ _ _ _ _ _⟩
    case isFalse => exact .inl rfl

theorem capRecord_rget (s : State) (c : Fin 96) (k : Bool) {g : Fld} (hg : reportReg g.reg = false) : (s.capRecord c k).rget g = s.rget g := by
  rcases capRecord_eq s c k with h | ⟨_, _, _, h⟩
  · rw [h]
  · exact rget_of_reg (h.regs g.reg hg List.not_mem_nil)

/-- A step of a unit ends with what its record leaves, but for its stages. -/
theorem capStep_eq (s : State) (c : Fin 96) (k : Bool) :
    s.capStep c k = s.capRecord c k ∨ ∃ p, s.capStep c k = (s.capRecord c k).modCh c (fun y => setCap y k p) := by
  unfold State.capStep
  dsimp only
  split
  · exact .inl rfl
  · split
    · split
      · exact .inr ⟨_, rfl⟩
      · exact .inr ⟨_, rfl⟩
    · exact .inl rfl

theorem capStep_rget (s : State) (c : Fin 96) (k : Bool) {g : Fld} (hg : reportReg g.reg = false) : (s.capStep c k).rget g = s.rget g := by
  rcases capStep_eq s c k with h | ⟨p, h⟩
  · rw [h, capRecord_rget s c k hg]
  · rw [h, ← capRecord_rget s c k hg]; rfl

theorem capRecord_other (s : State) (c : Fin 96) (k : Bool) : capOf (s.capRecord c k).ch[c] (!k) = capOf s.ch[c] (!k) := by
  rcases capRecord_eq s c k with h | ⟨_, _, _, h⟩
  · rw [h]
  · rw [h.core.ch, capOf_modCap_not]

/-- A step of one unit leaves the other as it is. -/
theorem capStep_other (s : State) (c : Fin 96) (k : Bool) : capOf (s.capStep c k).ch[c] (!k) = capOf s.ch[c] (!k) := by
  rcases capStep_eq s c k with h | ⟨p, h⟩
  · rw [h, capRecord_other]
  · rw [h, capOf_modCap_not, capRecord_other]

/-- A unit holds one capture, recorded or consumed meanwhile or not. -/
def HoldsOne (x : CapT) (p : Cap) : Prop := ∃ r u, p.s1 = some { x with recDone := r, used := u } ∧ p.s2 = none

theorem capRecord_holdsOne {s : State} {c : Fin 96} {k : Bool} {x : CapT} (h : HoldsOne x (capOf s.ch[c] k)) :
    HoldsOne x (capOf (s.capRecord c k).ch[c] k) := by
  rcases capRecord_eq s c k with hr | ⟨y, hy, -, hr⟩
  · rwa [hr]
  · obtain ⟨r, u, h1, h2⟩ := h
    rw [hr.core.ch, capOf_modCap]
    obtain rfl : _ = y := Option.some.inj (h1.symm.trans hy)
    exact ⟨true, u, rfl, h2⟩

/-- A unit that holds one capture goes on holding it. -/
theorem capStep_holdsOne {s : State} {c : Fin 96} {k : Bool} {x : CapT} (h : HoldsOne x (capOf s.ch[c] k)) (k' : Bool) :
    HoldsOne x (capOf (s.capStep c k').ch[c] k) := by
  obtain rfl | rfl : k = k' ∨ k = !k' := by cases k <;> cases k' <;> simp
  case inr => rwa [capStep_other]
  obtain ⟨r, u, h1, h2⟩ := capRecord_holdsOne h
  unfold State.capStep
  simp only [h1, h2]
  split
  · rw [capOf_modCap]
    exact ⟨r, true, rfl, rfl⟩
  · exact ⟨r, u, h1, h2⟩

theorem capSteps_holdOne {c : Fin 96} {k : Bool} {x : CapT} (ks : List Bool) {s : State} (h : HoldsOne x (capOf s.ch[c] k)) :
    HoldsOne x (capOf (ks.foldl (fun s k => s.capStep c k) s).ch[c] k) :=
  List.foldlRecOn (motive := fun t : State => HoldsOne x (capOf t.ch[c] k)) ks _ h (fun _ hb k' _ => capStep_holdsOne hb k')

theorem capPump_holdsOne {s : State} {c : Fin 96} {k : Bool} {x : CapT} (h : HoldsOne x (capOf s.ch[c] k)) :
    HoldsOne x (capOf (s.capPump c).ch[c] k) := capSteps_holdOne _ h

/-- A unit holds a capture that its reader has taken and that needs no record more, and one behind it. -/
def ReadBefore (s : State) (c : Fin 96) (k : Bool) (x z : CapT) : Prop :=
  (capOf s.ch[c] k).s1 = some x ∧ (capOf s.ch[c] k).s2 = some z ∧ x.rdDone = true ∧
    (s.ron (F.CHc_CAPk_CFG_REC c (kNat k)) = false ∨ x.recDone = true)

theorem recCfg_page (c : Fin 96) (k : Bool) : reportReg (F.CHc_CAPk_CFG_REC c (kNat k)).reg = false := reportReg_ch (by
  show 0x100000 ≤ R.CHc_CAPk_CFG c (kNat k); unfold R.CHc_CAPk_CFG; omega)

theorem capStep_not_readBefore {s : State} {c : Fin 96} {k : Bool} {x z : CapT} (h : ReadBefore s c k x z) :
    ReadBefore (s.capStep c !k) c k x z := by
  obtain ⟨h1, h2, hd, hr⟩ := h
  have ho : capOf (s.capStep c !k).ch[c] k = capOf s.ch[c] k := by
    have := capStep_other s c (!k)
    rwa [Bool.not_not] at this
  exact ⟨by rw [ho, h1], by rw [ho, h2], hd, by rwa [ron_of_rget_eq (capStep_rget s c _ (recCfg_page c _))]⟩

/-- A step of the unit gives stage 1 to the capture behind. -/
theorem capStep_readBefore {s : State} {c : Fin 96} {k : Bool} {x z : CapT} (h : ReadBefore s c k x z) :
    HoldsOne z (capOf (s.capStep c k).ch[c] k) := by
  obtain ⟨h1, h2, hd, hr⟩ := h
  have hu : s.capUnrec c k x = false := by
    unfold State.capUnrec
    rcases hr with hr | hr <;> simp [hr]
  have ht : s.capTaken c k x = true := by
    unfold State.capTaken
    rcases hr with hr | hr <;> simp [hr, hd]
  have hrec : s.capRecord c k = s := by
    rcases capRecord_eq s c k with h | ⟨y, hy, hy', -⟩
    · exact h
    · obtain rfl : x = y := Option.some.inj (h1.symm.trans hy)
      exact absurd hy' (by rw [hu]; decide)
  unfold State.capStep
  simp only [hrec, h1, h2, ht, if_true]
  rw [capOf_modCap]
  exact ⟨z.recDone, z.used, rfl, rfl⟩

theorem capPump_readBefore {s : State} {c : Fin 96} {k : Bool} {x z : CapT} (h : ReadBefore s c k x z) :
    HoldsOne z (capOf (s.capPump c).ch[c] k) := by
  unfold State.capPump
  cases k with
  | false =>
    rw [List.foldl_cons]
    exact capSteps_holdOne _ (capStep_readBefore h)
  | true =>
    rw [List.foldl_cons, List.foldl_cons]
    have h' := capStep_not_readBefore h
    rw [Bool.not_true] at h'
    exact capSteps_holdOne _ (capStep_readBefore h')

theorem HoldsOne.isCap {z : CapT} {p : Cap} (h : HoldsOne z p) : isCap p.s1 z ∧ p.s2 = none := by
  obtain ⟨r, u, h1, h2⟩ := h
  exact ⟨⟨r, z.rdDone, u, h1⟩, h2⟩

/-! ### Reads of stage 1 -/

theorem capRead_coincides {s : State} {c : Fin 96} {k : Bool} (h : s.capCoincides c k = true) (g : Bool) :
    s.capRead c k g = ((capOf s.ch[c] k).older, false, s.modCh c (fun y => setCap y k { capOf s.ch[c] k with entered := none, older := none })) := if_pos h

theorem capRead_empty {s : State} {c : Fin 96} {k : Bool} (h : s.capCoincides c k = false) (he : (capOf s.ch[c] k).s1 = none) (g : Bool) :
    s.capRead c k g = (none, false, s) := by
  unfold State.capRead
  simp only [h, he, Bool.false_eq_true, if_false]

/-- The reader of a unit that RDC and RDR select. -/
def State.readerOf (s : State) (c : Fin 96) (k g : Bool) : Bool :=
  s.ron (F.CHc_CAPk_CFG_RDC c (kNat k)) && (s.ron (F.CHc_CAPk_CFG_RDR c (kNat k)) == g)

theorem capRead_shows {s : State} {c : Fin 96} {k : Bool} {x : CapT} (h : s.capCoincides c k = false) (hx : (capOf s.ch[c] k).s1 = some x) (g : Bool) :
    s.capRead c k g = (some x, !s.capConsumed c k, if s.readerOf c k g then
      (s.modCh c (fun y => setCap y k { capOf s.ch[c] k with s1 := some { x with rdDone := true } })).capPump c else s) := by
  unfold State.capRead
  rw [h, if_neg Bool.false_ne_true, hx]
  rfl

/-- What a read of stage 1 shows: the older capture in the tick of a new one, else stage 1. -/
theorem capRead_shown (s : State) (c : Fin 96) (k g : Bool) :
    (s.capRead c k g).1 = (if s.capCoincides c k then (capOf s.ch[c] k).older else (capOf s.ch[c] k).s1) ∧
    ∀ x, (s.capRead c k g).1 = some x → (s.capRead c k g).2.1 = (!s.capCoincides c k && !s.capConsumed c k) := by
  cases hc : s.capCoincides c k with
  | true => rw [capRead_coincides hc]; exact ⟨rfl, fun _ _ => rfl⟩
  | false =>
    cases hx : (capOf s.ch[c] k).s1 with
    | none => rw [capRead_empty hc hx]; exact ⟨rfl, fun x h => nomatch h⟩
    | some x => rw [capRead_shows hc hx]; exact ⟨rfl, fun _ _ => rfl⟩

/-- A read by another than the selected reader, outside the tick of a new capture, takes nothing. -/
theorem capRead_takesNothing {s : State} {c : Fin 96} {k g : Bool} (h : s.capCoincides c k = false)
    (hn : (capOf s.ch[c] k).s1 = none ∨ s.readerOf c k g = false) : (s.capRead c k g).2.2 = s := by
  cases hx : (capOf s.ch[c] k).s1 with
  | none => rw [capRead_empty h hx]
  | some x => rw [capRead_shows h hx, hn.resolve_left (fun h => nomatch h.symm.trans hx)]; rfl

/-- The selected reader takes stage 1, which stage 2 then fills. -/
theorem capRead_takes {s : State} {c : Fin 96} {k g : Bool} {x : CapT} (h : s.capCoincides c k = false) (hx : (capOf s.ch[c] k).s1 = some x)
    (hg : s.readerOf c k g = true) :
    ((capOf s.ch[c] k).s2 = none → HoldsOne { x with rdDone := true } (capOf (s.capRead c k g).2.2.ch[c] k)) ∧
    (∀ z, (capOf s.ch[c] k).s2 = some z → (s.ron (F.CHc_CAPk_CFG_REC c (kNat k)) = false ∨ x.recDone = true) →
      HoldsOne z (capOf (s.capRead c k g).2.2.ch[c] k)) := by
  have he : (s.capRead c k g).2.2 =
      (s.modCh c (fun y => setCap y k { capOf s.ch[c] k with s1 := some { x with rdDone := true } })).capPump c :=
    (congrArg (fun r => r.2.2) (capRead_shows h hx g)).trans (if_pos hg)
  rw [he]
  refine ⟨fun h2 => capPump_holdsOne ⟨x.recDone, x.used, ?_⟩, fun z h2 hr => capPump_readBefore (x := { x with rdDone := true }) ⟨?_, ?_, rfl, hr⟩⟩
  · rw [capOf_modCap]
    exact ⟨rfl, h2⟩
  · rw [capOf_modCap]
  · rw [capOf_modCap]
    exact h2

/-- What an answered host read of stage 1 leaves in the path (R77). -/
theorem capHostRead_path (s : State) (p : Path) (c : Fin 96) (k : Bool) :
    let u := if s.frozen then s else (s.capRead c k false).2.2
    let t := s.capHostRead p c k
    PathOnly p u t ∧ t.ch = u.ch ∧
      ∀ tm rise, (match (s.capRead c k false).1 with | some y => (y.t, y.rise) | none => (0, false)) = (tm, rise) →
        (t.path p).rdata = [word (tm / 64)] ∧ t.shadowWord p (R.CHc_CAPk_HI c (kNat k)) = word (tm / 64 / 2 ^ 32) ∧
        t.shadowWord p (R.CHc_CAPk_STAT c (kNat k)) = word (tm % 64 + 64 * b2n rise + 128 * b2n (s.capRead c k false).2.1) := by
  intro u t
  have hne : R.CHc_CAPk_HI c (kNat k) ≠ R.CHc_CAPk_STAT c (kNat k) := by unfold R.CHc_CAPk_HI R.CHc_CAPk_STAT; omega
  refine ⟨((setShadow_only p _ _ _).trans (setShadow_only p _ _ _)).trans (answer_only p _ _), by cases p <;> rfl, fun tm rise h => ?_⟩
  have ht : t = ((u.setShadow p (R.CHc_CAPk_HI c (kNat k)) (word (tNs tm / 2 ^ 32))).setShadow p (R.CHc_CAPk_STAT c (kNat k))
      (word (tSub tm + 64 * b2n rise + 128 * b2n (s.capRead c k false).2.1))).answer p (word (tNs tm)) := by
    show s.capHostRead p c k = _
    rw [Prod.ext_iff] at h
    obtain ⟨rfl, rfl⟩ := h
    rfl
  rw [ht]
  refine ⟨answer_rdata _ _ _, ?_, ?_⟩
  · rw [shadowWord_answer, shadowWord_setShadow, if_neg hne, shadowWord_setShadow, if_pos rfl]; rfl
  · rw [shadowWord_answer, shadowWord_setShadow, if_pos rfl]; rfl

theorem exec_captureRead (p : Path) (c : Fin 96) (k : Bool) (s : State) :
    exec (.captureRead p c k) s = s.hostRead (fun s => s.capHostRead p c k) := rfl

theorem PathOnly.sameFar {p : Path} {s u t : State} (h : PathOnly p u t) (hf : Far s u) : Far { s with pcie := t.pcie, spi := t.spi } t := by
  obtain ⟨f, rfl⟩ := h
  obtain ⟨h1, -, -, h4⟩ := hf
  cases p <;> exact ⟨h1, rfl, rfl, h4⟩

theorem PathOnly.other_far {p : Path} {s u t : State} (h : PathOnly p u t) (hf : Far s u) :
    t.path (otherPath p) = s.path (otherPath p) := by
  rw [h.other]
  obtain ⟨-, hp, hs, -⟩ := hf
  cases p
  · exact hs
  · exact hp

end Sys2Proof.Machine
end

section
set_option Elab.async false
namespace Sys2Proof
open Sys2Proof.Machine

/-- Settles O20, by what a read shows, whether it takes, and what it leaves in the path. -/
theorem captureReadReturnsStageOne : Obligations.CaptureReadReturnsStageOne := by
  intro p c k s hp q met shown
  obtain ⟨honly, hch, hpath⟩ := capHostRead_path s p c k
  obtain ⟨hshown, hfresh⟩ := capRead_shown s c k false
  have hu : Far s (if s.frozen then s else (s.capRead c k false).2.2) :=
    far_ite (far_refl s) (capRead_far s c k false (far_refl s))
  have hthaw : ∀ h : s.frozen = false, (s.capHostRead p c k).ch = (s.capRead c k false).2.2.ch := fun h => by rw [hch, h]; rfl
  refine ⟨s.capHostRead p c k, (exec_captureRead p c k s).trans (hostRead_open hp _), honly.sameFar hu, honly.other_far hu, ?_, ?_, ?_, ?_, ?_⟩
  · intro hn
    have h0 : (s.capRead c k false).1 = none := hshown.trans hn
    have hf : (s.capRead c k false).2.1 = false := by
      cases hc : s.capCoincides c k with
      | true => rw [capRead_coincides hc]
      | false => rw [capRead_empty hc (by rw [hc] at hshown; exact hshown.symm.trans h0)]
    have := hpath 0 false (by rw [h0])
    rwa [hf] at this
  · intro x hx
    have h1 : (s.capRead c k false).1 = some x := hshown.trans hx
    have := hpath x.t x.rise (by rw [h1])
    rwa [hfresh x h1] at this
  · intro hm hn
    rw [hch]
    split
    · rfl
    · case isFalse hfr =>
      rw [capRead_takesNothing hm]
      rcases hn with h | h | h | h
      · exact .inl h
      · exact absurd h hfr
      · exact .inr (by simp [State.readerOf, h])
      · exact .inr (by simp [State.readerOf, h])
  · intro hm
    have hfr : s.frozen = false := by
      cases hfr : s.frozen
      · rfl
      · exact absurd hm (by simp [met, hfr])
    rw [hthaw hfr, capRead_coincides hm]
  · intro hm hfr hc hr
    have hg : s.readerOf c k false = true := by simp [State.readerOf, hc, hr]
    rw [hthaw hfr]
    exact ⟨fun x hx => (capRead_takes hm hx hg).1, fun x z hx hz hrec => ((capRead_takes hm hx hg).2 z hz hrec).isCap⟩

end Sys2Proof
end

section
/-!
SUPPORT. What the operations of the pins, the Orreries and the converters keep: a property of states that their elementary changes keep,
whatever the channels, Orreries and converters come to hold, is kept by each operation. It is proved once here for every such property.
-/
set_option Elab.async false
namespace Sys2Proof.Machine
open Sys2Proof

/-! ### The elementary changes -/

/-- What operations of the pins may change: the cells of some channels, the counts and captures of the channels, some Orreries, and the ephemerides
of the Gaffers. -/
structure Reach where
  chan : Fin 96 → Prop
  pins : Prop
  ory : Fin 4 → Prop
  eph : Prop

/-- All of it. -/
def Reach.all : Reach := ⟨fun _ => True, True, fun _ => True, True⟩

/-- A register that the operations of the pins, the Orreries and the converters can write within a reach: a count, a status or an event of a channel, an
Orrery, a converter or a Gaffer, a register of the event controller, one of the two saturation events, or, while an Orrery decides by an older
configuration, any of the Orreries' own. -/
inductive PinReg (D : Reach) : Nat → Prop
  | chEvt (c : Fin 96) : D.pins → PinReg D (R.CHc_EVT c)
  | chErr (c : Fin 96) : D.pins → PinReg D (R.CHc_ERRCNT c)
  | fifoStat (c : Fin 96) : D.chan c → PinReg D (R.CHc_FIFO_STAT c)
  | tgtCtl (c : Fin 96) (u : Bool) : D.chan c → PinReg D (R.CHc_CMPu_TGT_CTL c (b2n u))
  | lastSub (c : Fin 96) (u : Bool) : D.chan c → PinReg D (R.CHc_CMPu_LAST_SUB c (b2n u))
  | cmpLate (c : Fin 96) (u : Bool) : D.chan c → PinReg D (R.CHc_CMPu_LATE c (b2n u))
  | capStat (c : Fin 96) (k : Bool) : D.pins → PinReg D (R.CHc_CAPk_STAT c (kNat k))
  | oryEvt (n : Fin 4) : D.ory n → PinReg D (R.ORYn_EVT n)
  | oryStat (n : Fin 4) : D.ory n → PinReg D (R.ORYn_STAT n)
  | oryErr (n : Fin 4) : D.ory n → PinReg D (R.ORYn_ERRCNT n)
  | oryErr2 (n : Fin 4) : D.ory n → PinReg D (R.ORYn_ERRCNT2 n)
  | oryDiff (n : Fin 4) : D.ory n → PinReg D (R.ORYn_IDXDIFF n)
  | cvEvt : PinReg D R.CV_EVT
  | cvCnt (k : Fin 2) : PinReg D (R.CVk_CNT k)
  | cvLast (k : Fin 2) : PinReg D (R.CVk_LAST k)
  | bufWrite (b : Fin 6) : PinReg D (R.CVBUFb_WRIDX b)
  | bufDrop (b : Fin 6) : PinReg D (R.CVBUFb_DROP b)
  | bufBase (b : Fin 6) : PinReg D (R.CVBUFb_BASE b)
  | geEvt (e : Fin 8) : D.eph → PinReg D (R.Ge_EVT e)
  | geLatMax (e : Fin 8) : D.eph → PinReg D (R.Ge_LAT_MAX e)
  | geLate (e : Fin 8) : D.eph → PinReg D (R.Ge_LATE_CNT e)
  | geEph (e : Fin 8) : D.eph → PinReg D (R.Ge_EPH_CNT e)
  | spnEvt : (∀ n, D.ory n) → PinReg D R.SPN_EVT
  | cfgEvt : (∀ n, D.ory n) → PinReg D R.CFG_EVT
  | ec {o : Nat} : reportReg o = true → PinReg D o

theorem reportReg_page {o : Nat} (h : reportReg o = true) : 0x2000 ≤ o ∧ o < 0x3000 := by
  by_contra hn
  rw [reportReg_of_page (by omega)] at h
  exact absurd h (by decide)

/-- Where those registers lie. -/
theorem PinReg.lies {D : Reach} {o : Nat} (h : PinReg D o) : (0x2000 ≤ o ∧ o < 0x3000) ∨ o = R.SPN_EVT ∨ o = R.CFG_EVT ∨ (0x10000 ≤ o ∧ o < 0x14000) ∨
    (0x18000 ≤ o ∧ o < 0x19000) ∨ (0x40000 ≤ o ∧ o < 0x48000 ∧ 8 ≤ o % 0x1000 ∧ o % 0x1000 < 0x50) ∨
    (0x100000 ≤ o ∧ o < 0x118000 ∧ o % 0x20 ≠ 0 ∧ 0x10 ≤ o % 0x400 ∧ o % 0x400 < 0x108) := by
  have hb : ∀ u : Bool, b2n u ≤ 1 := by decide
  have hk : ∀ u : Bool, kNat u ≤ 1 := by decide
  cases h
  case ec h => exact .inl (reportReg_page h)
  case spnEvt _ => exact .inr (.inl rfl)
  case cfgEvt _ => exact .inr (.inr (.inl rfl))
  case tgtCtl c u _ => have := hb u; unfold R.CHc_CMPu_TGT_CTL; omega
  case lastSub c u _ => have := hb u; unfold R.CHc_CMPu_LAST_SUB; omega
  case cmpLate c u _ => have := hb u; unfold R.CHc_CMPu_LATE; omega
  case capStat c k _ => have := hk k; unfold R.CHc_CAPk_STAT; omega
  all_goals
    simp only [R.CHc_EVT, R.CHc_ERRCNT, R.CHc_FIFO_STAT, R.ORYn_EVT, R.ORYn_STAT, R.ORYn_ERRCNT, R.ORYn_ERRCNT2, R.ORYn_IDXDIFF, R.CV_EVT, R.CVk_CNT,
      R.CVk_LAST, R.CVBUFb_WRIDX, R.CVBUFb_DROP, R.CVBUFb_BASE, R.Ge_EVT, R.Ge_LAT_MAX, R.Ge_LATE_CNT, R.Ge_EPH_CNT]
    omega

/-- A change of a thread that leaves it where it is. -/
def StaysPut (f : Thread → Thread) : Prop := ∀ t, (f t).state = t.state ∧ (f t).pc = t.pc ∧ (f t).haltReq = t.haltReq ∧ (f t).park = t.park ∧ (f t).mask = t.mask

/-- A change of a Gaffer that leaves its threads and what runs. -/
def KeepsThreads (f : Gaffer → Gaffer) : Prop := ∀ g, (f g).thr = g.thr ∧ (f g).running = g.running

/-- One channel is another but for its captures, its counts and its records that wait. -/
def SameCell (x y : Channel) : Prop :=
  y = { x with cap0 := y.cap0, cap1 := y.cap1, cnt := y.cnt, cntTick := y.cntTick, evTick := y.evTick, evMask := y.evMask, img := y.img, imgOld := y.imgOld, imgPend := y.imgPend, stage := y.stage }

/-- A change of a channel that leaves its cell, its compares and its FIFO. -/
def KeepsCell (f : Channel → Channel) : Prop := ∀ x, SameCell x (f x)

/-- A change of a channel that leaves what a freeze and a load hold it by. -/
def KeepsHolds (f : Channel → Channel) : Prop := ∀ x, (f x).holdFrz = x.holdFrz ∧ (f x).holdBoot = x.holdBoot

theorem keepsHolds_of {f : Channel → Channel} (h : ∀ x, (f x).holdFrz = x.holdFrz ∧ (f x).holdBoot = x.holdBoot) : KeepsHolds f := h

theorem keepsHolds_setCmp (u : Bool) (p : Channel → Cmp) : KeepsHolds (fun y => setCmp y u (p y)) := fun y => by cases u <;> exact ⟨rfl, rfl⟩

theorem KeepsCell.keepsHolds {f : Channel → Channel} (h : KeepsCell f) : KeepsHolds f := fun x => by
  rw [h x]; exact ⟨rfl, rfl⟩

theorem keepsCell_setCap (k : Bool) (p : Channel → Cap) : KeepsCell (fun y => setCap y k (p y)) := fun y => by cases k <;> rfl

/-- A relation between a state and a later one that the elementary changes of these operations keep, within a reach. -/
structure PinClosed (D : Reach) (Q : State → State → Prop) : Prop where
  setReg : ∀ {s₀ : State} (s : State) (o : Nat) (w : Word), PinReg D o → Q s₀ s → Q s₀ (s.setReg o w)
  sameReg : ∀ {s₀ : State} (s : State) (o : Nat), Q s₀ s → Q s₀ (s.setReg o (s.reg o))
  noteSet : ∀ {s₀ : State} (s : State) (f : Fld), Q s₀ s → Q s₀ (s.noteSet f)
  ec : ∀ {s₀ : State} (s : State) (x : Ec), Q s₀ s → Q s₀ { s with ec := x }
  modCh : ∀ {s₀ : State} (s : State) (c : Fin 96) (f : Channel → Channel), (D.chan c ∧ KeepsHolds f) ∨ (D.pins ∧ KeepsCell f) → Q s₀ s → Q s₀ (s.modCh c f)
  modOry : ∀ {s₀ : State} (s : State) (n : Fin 4) (f : Orrery → Orrery), D.ory n → Q s₀ s → Q s₀ (s.modOry n f)
  modConv : ∀ {s₀ : State} (s : State) (k : Fin 2) (f : Converter → Converter), Q s₀ s → Q s₀ (s.modConv k f)
  modSbuf : ∀ {s₀ : State} (s : State) (b : Fin 6) (f : SampBuf → SampBuf), Q s₀ s → Q s₀ (s.modSbuf b f)
  queue : ∀ {s₀ : State} (s : State) (q : List Rec) (n : Tbl Nat), Q s₀ s → Q s₀ { s with recq := q, seqs := n }
  faults : ∀ {s₀ : State} (s : State) (m : Tbl Byte) (n : Nat), Q s₀ s → Q s₀ { s with mram := m, hl := { s.hl with faults := n } }
  kick : ∀ {s₀ : State} (s : State), Q s₀ s → Q s₀ { s with pw := { s.pw with wdgTicks := 0, wdgWarned := false } }
  sram : ∀ {s₀ : State} (s : State) (m : Tbl Byte), Q s₀ s → Q s₀ { s with sram := m }
  drawn : ∀ {s₀ : State} (s : State), Q s₀ s → Q s₀ s.drawn
  underOld : ∀ {s₀ : State} (s : State) (rs ws : List (Nat × Word)) (f : State → State), (∀ s₁ a, Q s₁ a → Q s₁ (f a)) → Q s₀ s → Q s₀ (s.underOld rs ws f)
  modGaf : ∀ {s₀ : State} (s : State) (e : Fin 8) (f : Gaffer → Gaffer), KeepsThreads f → D.eph → Q s₀ s → Q s₀ (s.modGaf e f)
  modThr : ∀ {s₀ : State} (s : State) (e : Fin 8) (n : Fin 16) (f : Thread → Thread), StaysPut f → Q s₀ s → Q s₀ (s.modThr e n f)
  wake : ∀ {s₀ : State} (s : State) (e : Fin 8) (n : Fin 16) (bit : Nat), Q s₀ s → Q s₀ (s.wake e n bit)

section
variable {P : State → Prop}

theorem pin_ite {a b : State} {c : Prop} [Decidable c] (ha : P a) (hb : P b) : P (if c then a else b) := by
  split <;> assumption

theorem pin_foldl {s : State} {β : Type} (f : State → β → State) (l : List β) (hf : ∀ a x, P a → P (f a x)) (h : P s) : P (l.foldl f s) :=
  List.foldlRecOn (motive := P) l f h (fun a ha x _ => hf a x ha)

theorem pin_foldl_fst {β γ : Type} (f : State × β → γ → State × β) (l : List γ) (hf : ∀ r x, P r.1 → P (f r x).1) (r : State × β)
    (h : P r.1) : P (l.foldl f r).1 :=
  List.foldlRecOn (motive := fun r => P r.1) l f h (fun a ha x _ => hf a x ha)

theorem pin_ite_fst {β : Type} {a b : State × β} {c : Prop} [Decidable c] (ha : P a.1) (hb : P b.1) : P (if c then a else b).1 := by
  split <;> assumption

theorem pin_pair {t : State} {β : Type} {b : β} {x : State × β} (he : x = (t, b)) (h : P x.1) : P t := by
  rw [he] at h; exact h

end

/-! ### Registers, events and records -/

section
variable {D : Reach} {Q : State → State → Prop} (hP : PinClosed D Q) {s₀ : State}
include hP

theorem rput_pin (s : State) (f : Fld) (v : Nat) (hf : PinReg D f.reg) (hk : Q s₀ s) : Q s₀ (s.rput f v) := hP.setReg _ _ _ hf hk

theorem rsat_pin (s : State) (f : Fld) (k : Nat) (hf : PinReg D f.reg) (hk : Q s₀ s) : Q s₀ (s.rsat f k) := rput_pin hP _ _ _ hf hk

theorem rwrap_pin (s : State) (f : Fld) (k : Nat) (hf : PinReg D f.reg) (hk : Q s₀ s) : Q s₀ (s.rwrap f k) := rput_pin hP _ _ _ hf hk

theorem setEcSrc_pin (s : State) (n : Nat) (x : EcSrc) (hk : Q s₀ s) : Q s₀ (s.setEcSrc n x) := hP.ec _ _ hk

theorem ecEvt_pin (s : State) (f : Fld) (hf : PinReg D f.reg) (hk : Q s₀ s) : Q s₀ (s.ecEvt f) := rput_pin hP _ _ _ hf (hP.noteSet _ _ hk)

theorem msixSend_pin (s : State) (t : Nat) (hk : Q s₀ s) : Q s₀ (s.msixSend t) := by
  unfold State.msixSend
  exact pin_ite (pin_ite (hP.ec _ _ hk) (hP.ec _ _ hk)) hk

theorem ecAssign_pin (s : State) (n : Nat) (hk : Q s₀ s) : Q s₀ (s.ecAssign n) := by
  unfold State.ecAssign
  dsimp only
  split
  · split
    · exact hk
    · exact pin_ite (msixSend_pin hP _ _ (setEcSrc_pin hP _ _ _ hk)) (setEcSrc_pin hP _ _ _ hk)
  · exact hk

theorem ecEdge_pin (s : State) (n : Nat) (hk : Q s₀ s) : Q s₀ (s.ecEdge n) := by
  have h : Q s₀ ((s.rsat F.EC_LOST2_CNT 1).ecEvt F.EC_EVT_LOST2_S) :=
    ecEvt_pin hP _ _ (.ec (by decide)) (rsat_pin hP _ _ _ (.ec (by decide)) hk)
  unfold State.ecEdge
  split
  · exact hP.ec _ _ hk
  · split
    · exact h
    · exact ecAssign_pin hP _ _ (setEcSrc_pin hP _ _ _ hk)

theorem evt_pin (s : State) (f : Fld) (hf : PinReg D f.reg) (hk : Q s₀ s) : Q s₀ (s.evt f) := by
  have h : Q s₀ ((s.noteSet f).rput f 1) := rput_pin hP _ _ _ hf (hP.noteSet _ _ hk)
  unfold State.evt
  split
  · exact hP.noteSet _ _ hk
  · split
    · exact h
    · exact ecEdge_pin hP _ _ h

theorem emitTo_pin (s : State) (ring : Option Nat) (type src t flags : Nat) (w4 w5 w6 w7 : Word) (hk : Q s₀ s) :
    Q s₀ (s.emitTo ring type src t flags w4 w5 w6 w7) := by
  have h : Q s₀ ((s.rsat F.EC_DISCARD_CNT 1).ecEvt F.EC_EVT_UNROUTED_S) :=
    ecEvt_pin hP _ _ (.ec (by decide)) (rsat_pin hP _ _ _ (.ec (by decide)) hk)
  unfold State.emitTo
  split
  · split
    · exact hP.queue _ _ _ hk
    · exact h
  · exact h

theorem faultLog_pin (s : State) (type src t flags : Nat) (w4 w5 w6 w7 : Word) (hk : Q s₀ s) : Q s₀ (s.faultLog type src t flags w4 w5 w6 w7) :=
  pin_ite (hP.faults _ _ _ hk) hk

theorem recordKick_pin (s : State) (type src : Nat) (hk : Q s₀ s) : Q s₀ (s.recordKick type src) := pin_ite (hP.kick _ hk) hk

theorem emitFl_pin (s : State) (type src t fl : Nat) (w4 w5 w6 w7 : Word) (hk : Q s₀ s) : Q s₀ (s.emitFl type src t fl w4 w5 w6 w7) :=
  emitTo_pin hP _ _ _ _ _ _ _ _ _ _ (recordKick_pin hP _ _ _ (faultLog_pin hP _ _ _ _ _ _ _ _ _ hk))

theorem emit_pin (s : State) (type src t flags : Nat) (w4 w5 w6 w7 : Word) (hk : Q s₀ s) : Q s₀ (s.emit type src t flags w4 w5 w6 w7) :=
  emitFl_pin hP _ _ _ _ _ _ _ _ _ hk

theorem sramWr_pin (s : State) (a : Nat) (ws : List Word) (hk : Q s₀ s) : Q s₀ (s.sramWr a ws) := hP.sram _ _ hk

theorem calSaturate_pin (s : State) (q : Nat) (ho : ∀ n, D.ory n) (hk : Q s₀ s) : Q s₀ (s.calSaturate q) := by
  have h : Q s₀ (s.evt F.CFG_EVT_SAT_S) := evt_pin hP _ _ (.cfgEvt ho) hk
  unfold State.calSaturate
  split
  case isFalse => exact hk
  split
  case isTrue => exact evt_pin hP _ _ (.spnEvt ho) h
  split
  case isFalse => exact h
  case isTrue hq =>
    exact evt_pin hP _ _ (.oryEvt ⟨(q - 0xD0) / 8, by omega⟩ (ho _)) h

theorem wakeCh_pin (s : State) (c : Fin 96) (bit : Nat) (hk : Q s₀ s) :
    Q s₀ (State.wakeCh s c bit) := by
  unfold State.wakeCh
  with_reducible repeat' first | assumption | (intro _) | apply hP.wake

theorem wakeSpace_pin (s : State) (e : Fin 8) (of : SpaceOf) (hk : Q s₀ s) :
    Q s₀ (State.wakeSpace s e of) := by
  unfold State.wakeSpace
  with_reducible repeat' first | assumption | (intro _) | apply hP.wake | apply pin_ite | apply pin_foldl

theorem wakeWriter_pin (s : State) (hk : Q s₀ s) :
    Q s₀ (State.wakeWriter s) := by
  unfold State.wakeWriter
  with_reducible repeat' first | assumption | (intro _) | apply wakeSpace_pin hP | apply pin_foldl

theorem stageRun_pin (s : State) (c : Fin 96) (rs : List ChRec) (hk : Q s₀ s) : Q s₀ (s.stageRun c rs).1 := by
  induction rs generalizing s with
  | nil => exact hk
  | cons r rs ih =>
    unfold State.stageRun
    split
    · exact ih _ (emitFl_pin hP _ _ _ _ _ _ _ _ _ hk)
    · exact ih s hk

theorem stagePump_pin (s : State) (c : Fin 96) (hp : D.pins) (hk : Q s₀ s) : Q s₀ (State.stagePump s c) := by
  unfold State.stagePump
  split
  · exact hk
  · exact hP.modCh _ _ _ (.inr ⟨hp, fun _ => rfl⟩) (stageRun_pin hP _ _ _ hk)

theorem chEmitFl_pin (s : State) (c : Fin 96) (type t fl : Nat) (w4 w5 w6 w7 : Word) (hp : D.pins) (hk : Q s₀ s) :
    Q s₀ (State.chEmitFl s c type t fl w4 w5 w6 w7) := by
  unfold State.chEmitFl
  with_reducible repeat' first | assumption | (intro _) | apply hP.modCh | apply stagePump_pin hP
  any_goals exact Or.inr ⟨hp, fun _ => rfl⟩

theorem chEmit_pin (s : State) (c : Fin 96) (type t flags : Nat) (w4 w5 w6 w7 : Word) (hp : D.pins) (hk : Q s₀ s) :
    Q s₀ (State.chEmit s c type t flags w4 w5 w6 w7) := by
  unfold State.chEmit
  with_reducible repeat' first | assumption | (intro _) | apply chEmitFl_pin hP

theorem sbufPut_pin (s : State) (b : Fin 6) (t : Nat) (coarse : Bool) (w0 w1 w2 w3 : Word) (hk : Q s₀ s) :
    Q s₀ (State.sbufPut s b t coarse w0 w1 w2 w3) := by
  unfold State.sbufPut
  with_reducible repeat' first | assumption | (intro _) | apply rwrap_pin hP | apply evt_pin hP | apply hP.modSbuf | apply sramWr_pin hP | apply rput_pin hP | apply emitFl_pin hP | apply pin_ite
  all_goals constructor

theorem sbufSpace_pin (s : State) (b : Fin 6) (hk : Q s₀ s) :
    Q s₀ (State.sbufSpace s b) := by
  unfold State.sbufSpace
  with_reducible repeat' first | assumption | (intro _) | apply hP.modSbuf | apply emit_pin hP | apply pin_ite

end

/-! ### Orreries -/

section
variable {D : Reach} {Q : State → State → Prop} (hP : PinClosed D Q) {s₀ : State}
include hP

theorem oWakes_pin (s : State) (n : Fin 4) (hk : Q s₀ s) :
    Q s₀ (State.oWakes s n) := by
  unfold State.oWakes
  with_reducible repeat' first | assumption | (intro _) | apply hP.wake | apply pin_ite | apply pin_foldl

theorem oPush_pin (s : State) (n : Fin 4) (due : Nat) (wake rs : Bool) (hn : D.ory n) (hk : Q s₀ s) :
    Q s₀ (State.oPush s n due wake rs) := by
  unfold State.oPush
  with_reducible repeat' first | assumption | (intro _) | apply hP.modOry

theorem oBroadcast_pin (s : State) (n : Fin 4) (due : Nat) (rs : Bool) (hn : D.ory n) (hk : Q s₀ s) :
    Q s₀ (State.oBroadcast s n due rs) := by
  unfold State.oBroadcast
  with_reducible repeat' first | assumption | (intro _) | apply oPush_pin hP

theorem oAmend_pin (s : State) (n : Fin 4) (hn : D.ory n) (hk : Q s₀ s) :
    Q s₀ (State.oAmend s n) := by
  unfold State.oAmend
  with_reducible repeat' first | assumption | (intro _) | apply hP.modOry

theorem oShow_pin (s : State) (n : Fin 4) (hn : D.ory n) (hk : Q s₀ s) :
    Q s₀ (State.oShow s n) := by
  unfold State.oShow
  with_reducible repeat' first | assumption | (intro _) | apply hP.modOry

theorem oShowPart_pin (s : State) (n : Fin 4) (f : OryView → OryView) (hn : D.ory n) (hk : Q s₀ s) :
    Q s₀ (State.oShowPart s n f) := by
  unfold State.oShowPart
  with_reducible repeat' first | assumption | (intro _) | apply hP.modOry

theorem oDeliver_pin (s : State) (n : Fin 4) (hn : D.ory n) (hk : Q s₀ s) :
    Q s₀ (State.oDeliver s n) := by
  unfold State.oDeliver
  with_reducible repeat' first | assumption | (intro _) | apply hP.modOry | apply hP.wake | apply oWakes_pin hP | apply pin_ite | apply pin_foldl

theorem oSync_pin (s : State) (n : Fin 4) (new : Sync) (cause t fl : Nat) (hn : D.ory n) (hk : Q s₀ s) :
    Q s₀ (State.oSync s n new cause t fl) := by
  unfold State.oSync
  with_reducible repeat' first | assumption | (intro _) | apply hP.modOry | apply evt_pin hP | apply emitFl_pin hP | apply pin_ite
  all_goals constructor; assumption

theorem oFault_pin (s : State) (n : Fin 4) (kind t fl : Nat) (info : Word) (hn : D.ory n) (hk : Q s₀ s) :
    Q s₀ (State.oFault s n kind t fl info) := by
  unfold State.oFault
  with_reducible repeat' first | assumption | (intro _) | apply hP.modOry | apply emitFl_pin hP | apply pin_ite | dsimp only | split

theorem oResync_pin (s : State) (n : Fin 4) (cause t fl : Nat) (shift steps : Int) (before after : Nat) (hn : D.ory n) (hk : Q s₀ s) :
    Q s₀ (State.oResync s n cause t fl shift steps before after) := by
  unfold State.oResync
  with_reducible repeat' first | assumption | (intro _) | apply rsat_pin hP | apply evt_pin hP | apply hP.modOry | apply emitFl_pin hP
  all_goals constructor; assumption

theorem oMotion_pin (s : State) (n : Fin 4) (x : OryStamp) (rev woke : Bool) (v : Int) (hn : D.ory n) (hk : Q s₀ s) :
    Q s₀ (State.oMotion s n x rev woke v) := by
  unfold State.oMotion
  with_reducible repeat' first | assumption | (intro _) | apply evt_pin hP | apply emitFl_pin hP | apply pin_ite
  all_goals constructor; assumption

theorem oRecEdge_pin (s : State) (n : Fin 4) (x : OryStamp) (info : Nat) (rs : Bool) (hk : Q s₀ s) :
    Q s₀ (State.oRecEdge s n x info rs) := by
  unfold State.oRecEdge
  with_reducible repeat' first | assumption | (intro _) | apply emitFl_pin hP | apply pin_ite

theorem oEdge_pin (s : State) (n : Fin 4) (x : OryStamp) (back : Bool) (k : Int) (span den info : Nat) (rs : Bool) (hn : D.ory n) (hk : Q s₀ s) :
    Q s₀ (State.oEdge s n x back k span den info rs) := by
  unfold State.oEdge
  with_reducible repeat' first | assumption | (intro _) | apply hP.modOry | apply oMotion_pin hP | apply oRecEdge_pin hP | apply oBroadcast_pin hP

theorem oMove_pin (s : State) (n : Fin 4) (k : Nat) (back : Bool) (hn : D.ory n) (hk : Q s₀ s) :
    Q s₀ (State.oMove s n k back) := by
  unfold State.oMove
  with_reducible repeat' first | assumption | (intro _) | apply hP.modOry

theorem oStamped_pin (s : State) (n : Fin 4) (i : Fin 3) (x : OryStamp) (hn : D.ory n) (hk : Q s₀ s) :
    Q s₀ (State.oStamped s n i x) := by
  unfold State.oStamped
  with_reducible repeat' first | assumption | (intro _) | apply hP.modOry

theorem oAccepted_pin (s : State) (n : Fin 4) (x : OryStamp) (hn : D.ory n) (hk : Q s₀ s) :
    Q s₀ (State.oAccepted s n x) := by
  unfold State.oAccepted
  with_reducible repeat' first | assumption | (intro _) | apply hP.modOry

theorem oTakeLvl_pin (s : State) (n : Fin 4) (cur lvl : BitVec 3) (mk : Fin 3 → OryStamp) (hn : D.ory n) (hk : Q s₀ s) :
    Q s₀ (State.oTakeLvl s n cur lvl mk).1 := by
  unfold State.oTakeLvl
  refine pin_foldl_fst _ _ (fun r x hr => ?_) _ hk
  split
  · exact oStamped_pin hP _ _ _ _ hn hr
  · exact hr

theorem oEarlyCnt_pin (s : State) (n : Fin 4) (hn : D.ory n) (hk : Q s₀ s) :
    Q s₀ (State.oEarlyCnt s n) := by
  unfold State.oEarlyCnt
  with_reducible repeat' first | assumption | (intro _) | apply rsat_pin hP | apply evt_pin hP
  all_goals constructor; assumption

theorem oEarly_pin (s : State) (n : Fin 4) (x : OryStamp) (info : Word) (hn : D.ory n) (hk : Q s₀ s) :
    Q s₀ (State.oEarly s n x info) := by
  unfold State.oEarly
  with_reducible repeat' first | assumption | (intro _) | apply oEarlyCnt_pin hP | apply oFault_pin hP

theorem oAccept_pin (s : State) (n : Fin 4) (t per k : Nat) (hn : D.ory n) (hk : Q s₀ s) :
    Q s₀ (State.oAccept s n t per k) := by
  unfold State.oAccept
  with_reducible repeat' first | assumption | (intro _) | apply hP.modOry

theorem oTimed_pin (s : State) (n : Fin 4) (x : OryStamp) (per k : Nat) (back : Bool) (hn : D.ory n) (hk : Q s₀ s) :
    Q s₀ (State.oTimed s n x per k back) := by
  unfold State.oTimed
  with_reducible repeat' first | assumption | (intro _) | apply hP.modOry | apply oAccept_pin hP | apply pin_ite

theorem oAcquired_pin (s : State) (n : Fin 4) (x : OryStamp) (back : Bool) (pos k : Nat) (hn : D.ory n) (hk : Q s₀ s) :
    Q s₀ (State.oAcquired s n x back pos k) := by
  unfold State.oAcquired
  with_reducible repeat' first | assumption | (intro _) | apply hP.modOry | apply oEdge_pin hP | apply oSync_pin hP | apply oAmend_pin hP

theorem oMoving_pin (s : State) (n : Fin 4) (x : OryStamp) (back : Bool) (hn : D.ory n) (hk : Q s₀ s) :
    Q s₀ (State.oMoving s n x back) := by
  unfold State.oMoving
  with_reducible repeat' first | assumption | (intro _) | apply hP.modOry | apply oMotion_pin hP

theorem oSeek_pin (s : State) (n : Fin 4) (x : OryStamp) (back rev : Bool) (hn : D.ory n) (hk : Q s₀ s) :
    Q s₀ (State.oSeek s n x back rev) := by
  unfold State.oSeek
  with_reducible repeat' first | assumption | (intro _) | apply hP.modOry | apply oPush_pin hP | apply oAccept_pin hP | apply oAcquired_pin hP | apply pin_ite | dsimp only | split

theorem oToothAcq_pin (s : State) (n : Fin 4) (x : OryStamp) (back : Bool) (hn : D.ory n) (hk : Q s₀ s) :
    Q s₀ (State.oToothAcq s n x back) := by
  unfold State.oToothAcq
  with_reducible repeat' first | assumption | (intro _) | apply oMoving_pin hP | apply oSeek_pin hP

theorem oAdvance_pin (s : State) (n : Fin 4) (x : OryStamp) (per k : Nat) (back : Bool) (hn : D.ory n) (hk : Q s₀ s) :
    Q s₀ (State.oAdvance s n x per k back) := by
  unfold State.oAdvance
  with_reducible repeat' first | assumption | (intro _) | apply oTimed_pin hP | apply oMove_pin hP | apply oEdge_pin hP

theorem oMissing_pin (s : State) (n : Fin 4) (lost kind : Nat) (x : OryStamp) (back : Bool) (info : Word) (hn : D.ory n) (hk : Q s₀ s) :
    Q s₀ (State.oMissing s n lost kind x back info) := by
  unfold State.oMissing
  with_reducible repeat' first | assumption | (intro _) | apply rsat_pin hP | apply evt_pin hP | apply oFault_pin hP
  all_goals constructor; assumption

theorem oGapEarly_pin (s : State) (n : Fin 4) (x : OryStamp) (per k : Nat) (back : Bool) (hn : D.ory n) (hk : Q s₀ s) :
    Q s₀ (State.oGapEarly s n x per k back) := by
  unfold State.oGapEarly
  with_reducible repeat' first | assumption | (intro _) | apply oTimed_pin hP | apply oMove_pin hP | apply hP.modOry | apply oResync_pin hP | apply oEdge_pin hP

theorem oTooth_pin (s : State) (n : Fin 4) (x : OryStamp) (back : Bool) (hn : D.ory n) (hk : Q s₀ s) :
    Q s₀ (State.oTooth s n x back) := by
  unfold State.oTooth
  with_reducible repeat' first | assumption | (intro _) | apply oToothAcq_pin hP | apply oEarly_pin hP | apply rsat_pin hP | apply evt_pin hP | apply oFault_pin hP | apply oMoving_pin hP | apply oSync_pin hP | apply hP.modOry | apply oPush_pin hP | apply oAdvance_pin hP | apply oMissing_pin hP | apply oGapEarly_pin hP | apply pin_ite | dsimp only | split
  all_goals constructor; assumption

theorem oKeepOld_pin (s : State) (n : Fin 4) (rs ws : List (Nat × Word)) (hn : D.ory n) (hk : Q s₀ s) :
    Q s₀ (State.oKeepOld s n rs ws) := by
  unfold State.oKeepOld
  with_reducible repeat' first | assumption | (intro _) | apply hP.modOry | apply pin_ite

theorem oPwDecide_pin (s : State) (n : Fin 4) (back : Bool) (due : Nat) (hn : D.ory n) (hk : Q s₀ s) : Q s₀ (s.oPwDecide n back due) := by
  unfold State.oPwDecide
  split
  · exact hk
  · exact hP.underOld _ _ _ _ (fun _ _ ha => oTooth_pin hP _ _ _ _ hn ha) (hP.modOry _ _ _ hn hk)

theorem oPwEnd_pin (s : State) (n : Fin 4) (x : OryStamp) (hn : D.ory n) (hk : Q s₀ s) :
    Q s₀ (State.oPwEnd s n x) := by
  unfold State.oPwEnd
  with_reducible repeat' first | assumption | (intro _) | apply oPwDecide_pin hP | dsimp only | split

theorem oWheelEdge_pin (s : State) (n : Fin 4) (x0 : OryStamp) (hn : D.ory n) (hk : Q s₀ s) :
    Q s₀ (State.oWheelEdge s n x0) := by
  unfold State.oWheelEdge
  with_reducible repeat' first | assumption | (intro _) | apply oStamped_pin hP | apply oPwEnd_pin hP | apply oEarly_pin hP | apply oAccepted_pin hP | apply hP.modOry | apply oTooth_pin hP | apply pin_ite | dsimp only | split

theorem oWheelEnd_pin (s : State) (n : Fin 4) (x : OryStamp) (hn : D.ory n) (hk : Q s₀ s) :
    Q s₀ (State.oWheelEnd s n x) := by
  unfold State.oWheelEnd
  with_reducible repeat' first | assumption | (intro _) | apply oStamped_pin hP | apply oPwEnd_pin hP | apply pin_ite

theorem oTurnBy_pin (s : State) (n : Fin 4) (pos cyc before after : Nat) (hn : D.ory n) (hk : Q s₀ s) :
    Q s₀ (State.oTurnBy s n pos cyc before after) := by
  unfold State.oTurnBy
  with_reducible repeat' first | assumption | (intro _) | apply hP.modOry

theorem oCamJudge_pin (s : State) (n : Fin 4) (x : OryStamp) (hn : D.ory n) (hk : Q s₀ s) :
    Q s₀ (State.oCamJudge s n x) := by
  unfold State.oCamJudge
  with_reducible repeat' first | assumption | (intro _) | apply rsat_pin hP | apply evt_pin hP | apply oFault_pin hP | apply oTurnBy_pin hP | apply hP.modOry | apply oSync_pin hP | apply oBroadcast_pin hP | apply oPush_pin hP | apply oResync_pin hP | apply pin_ite | dsimp only | split
  all_goals constructor; assumption

theorem oCamEdge_pin (s : State) (n : Fin 4) (x0 : OryStamp) (hn : D.ory n) (hk : Q s₀ s) :
    Q s₀ (State.oCamEdge s n x0) := by
  unfold State.oCamEdge
  with_reducible repeat' first | assumption | (intro _) | apply oStamped_pin hP | apply hP.modOry | apply pin_ite

theorem oCamSettle_pin (s : State) (n : Fin 4) (hn : D.ory n) (hk : Q s₀ s) :
    Q s₀ (State.oCamSettle s n) := by
  unfold State.oCamSettle
  with_reducible repeat' first | assumption | (intro _) | apply hP.modOry | apply oEarly_pin hP | apply oAccepted_pin hP | apply oCamJudge_pin hP | apply pin_ite | dsimp only | split

theorem oIllegal_pin (s : State) (n : Fin 4) (x : OryStamp) (hn : D.ory n) (hk : Q s₀ s) :
    Q s₀ (State.oIllegal s n x) := by
  unfold State.oIllegal
  with_reducible repeat' first | assumption | (intro _) | apply hP.modOry | apply rsat_pin hP | apply evt_pin hP | apply oFault_pin hP
  all_goals constructor; assumption

theorem oHallPlace_pin (s : State) (n : Fin 4) (x : OryStamp) (k : Nat) (hn : D.ory n) (hk : Q s₀ s) :
    Q s₀ (State.oHallPlace s n x k) := by
  unfold State.oHallPlace
  with_reducible repeat' first | assumption | (intro _) | apply hP.modOry | apply oIllegal_pin hP | apply oResync_pin hP | apply pin_ite

theorem oHall_pin (s : State) (n : Fin 4) (lvl : BitVec 3) (mk : Fin 3 → OryStamp) (hn : D.ory n) (hk : Q s₀ s) :
    Q s₀ (State.oHall s n lvl mk) := by
  unfold State.oHall
  with_reducible repeat' first | assumption | (intro _) | (refine pin_pair (by assumption) ?_) | apply oTakeLvl_pin hP | apply hP.modOry | apply oEarlyCnt_pin hP | apply oAccepted_pin hP | apply oIllegal_pin hP | apply oPush_pin hP | apply oMove_pin hP | apply oEdge_pin hP | apply oSync_pin hP | apply oAmend_pin hP | apply oHallPlace_pin hP | apply pin_ite | dsimp only | split

theorem oIndex_pin (s : State) (n : Fin 4) (t fl : Nat) (back : Bool) (L pos0 : Nat) (off : Int) (hn : D.ory n) (hk : Q s₀ s) :
    Q s₀ ((State.oIndex s n t fl back L pos0 off).1) := by
  unfold State.oIndex
  with_reducible repeat' first | assumption | (intro _) | (refine pin_pair (by assumption) ?_) | apply pin_ite_fst | apply hP.modOry | apply oResync_pin hP | apply oSync_pin hP | apply rput_pin hP | apply rsat_pin hP | apply evt_pin hP | apply oFault_pin hP | apply pin_ite | dsimp only | split
  all_goals constructor; assumption

theorem oQuadStep_pin (s : State) (n : Fin 4) (a b : Nat) (z back : Bool) (x : OryStamp) (hn : D.ory n) (hk : Q s₀ s) :
    Q s₀ (State.oQuadStep s n a b z back x) := by
  unfold State.oQuadStep
  with_reducible repeat' first | assumption | (intro _) | (refine pin_pair (by assumption) ?_) | apply oMove_pin hP | apply oIndex_pin hP | apply oEdge_pin hP | apply pin_ite | dsimp only | split

theorem oQuadIllegal_pin (s : State) (n : Fin 4) (lvl : BitVec 3) (x : OryStamp) (early : Bool) (hn : D.ory n) (hk : Q s₀ s) :
    Q s₀ (State.oQuadIllegal s n lvl x early) := by
  unfold State.oQuadIllegal
  with_reducible repeat' first | assumption | (intro _) | apply hP.modOry | apply oEarlyCnt_pin hP | apply oIllegal_pin hP | apply oPush_pin hP | apply pin_ite

theorem oQuadEarly_pin (s : State) (n : Fin 4) (lvl : BitVec 3) (x : OryStamp) (hn : D.ory n) (hk : Q s₀ s) :
    Q s₀ (State.oQuadEarly s n lvl x) := by
  unfold State.oQuadEarly
  with_reducible repeat' first | assumption | (intro _) | apply hP.modOry | apply oEarly_pin hP | apply oPush_pin hP

theorem oQuadSettle_pin (s : State) (n : Fin 4) (hn : D.ory n) (hk : Q s₀ s) :
    Q s₀ (State.oQuadSettle s n) := by
  unfold State.oQuadSettle
  with_reducible repeat' first | assumption | (intro _) | apply oQuadEarly_pin hP | apply hP.modOry | apply oQuadStep_pin hP | apply pin_ite | dsimp only | split

theorem oQuadDue_pin (s : State) (n : Fin 4) (hn : D.ory n) (hk : Q s₀ s) :
    Q s₀ (State.oQuadDue s n) := by
  unfold State.oQuadDue
  with_reducible repeat' first | assumption | (intro _) | apply oQuadSettle_pin hP | apply pin_ite | dsimp only | split

theorem oQuadArrive_pin (s : State) (n : Fin 4) (lvl : BitVec 3) (x : OryStamp) (hn : D.ory n) (hk : Q s₀ s) :
    Q s₀ (State.oQuadArrive s n lvl x) := by
  unfold State.oQuadArrive
  with_reducible repeat' first | assumption | (intro _) | apply oAccepted_pin hP | apply oQuadIllegal_pin hP | apply oQuadEarly_pin hP | apply hP.modOry | apply pin_ite

theorem oQuadIdx_pin (s : State) (n : Fin 4) (lvl : BitVec 3) (w : QuadEdge) (x : OryStamp) (hn : D.ory n) (hk : Q s₀ s) :
    Q s₀ (State.oQuadIdx s n lvl w x) := by
  unfold State.oQuadIdx
  with_reducible repeat' first | assumption | (intro _) | apply hP.modOry | apply oEarly_pin hP | apply oPush_pin hP | apply oAccepted_pin hP | apply pin_ite

theorem oQuad_pin (s : State) (n : Fin 4) (lvl : BitVec 3) (mk : Fin 3 → OryStamp) (hn : D.ory n) (hk : Q s₀ s) :
    Q s₀ (State.oQuad s n lvl mk) := by
  unfold State.oQuad
  with_reducible repeat' first | assumption | (intro _) | (refine pin_pair (by assumption) ?_) | apply oTakeLvl_pin hP | apply oQuadArrive_pin hP | apply oQuadIdx_pin hP | apply oQuadIllegal_pin hP | apply oQuadSettle_pin hP | apply pin_ite | dsimp only | split

theorem oBadPair_pin (s : State) (n : Fin 4) (x : OryStamp) (ampl : Nat) (hn : D.ory n) (hk : Q s₀ s) :
    Q s₀ (State.oBadPair s n x ampl) := by
  unfold State.oBadPair
  with_reducible repeat' first | assumption | (intro _) | apply rsat_pin hP | apply evt_pin hP | apply oFault_pin hP | apply hP.modOry | apply oSync_pin hP | apply oPush_pin hP | apply pin_ite
  all_goals constructor; assumption

theorem oGoodPair_pin (s : State) (n : Fin 4) (x : OryStamp) (phi : Nat) (hn : D.ory n) (hk : Q s₀ s) :
    Q s₀ (State.oGoodPair s n x phi) := by
  unfold State.oGoodPair
  with_reducible repeat' first | assumption | (intro _) | apply hP.modOry | apply oEdge_pin hP | apply oSync_pin hP | apply oAmend_pin hP | apply oMove_pin hP | apply rsat_pin hP | apply evt_pin hP | apply oFault_pin hP | apply oRecEdge_pin hP | apply oBroadcast_pin hP | apply pin_ite
  all_goals constructor; assumption

theorem oSincos_pin (s : State) (n : Fin 4) (rawS rawC : BitVec 14) (hn : D.ory n) (hk : Q s₀ s) :
    Q s₀ (State.oSincos s n rawS rawC) := by
  unfold State.oSincos
  with_reducible repeat' first | assumption | (intro _) | apply evt_pin hP | apply hP.modOry | apply oGoodPair_pin hP | apply oBadPair_pin hP | apply sbufPut_pin hP | apply pin_ite | dsimp only | split
  all_goals constructor; assumption

theorem oMarker_pin (s : State) (n : Fin 4) (x0 : OryStamp) (hn : D.ory n) (hk : Q s₀ s) :
    Q s₀ (State.oMarker s n x0) := by
  unfold State.oMarker
  with_reducible repeat' first | assumption | (intro _) | (refine pin_pair (by assumption) ?_) | apply oStamped_pin hP | apply oEarly_pin hP | apply oAccepted_pin hP | apply oIndex_pin hP | apply hP.modOry | apply oBroadcast_pin hP | apply pin_ite

theorem oInputOf_pin (s : State) (n : Fin 4) (c : Fin 96) (level : Bool) (mk : Fin 3 → OryStamp) (hn : D.ory n) (hk : Q s₀ s) :
    Q s₀ (State.oInputOf s n c level mk) := by
  unfold State.oInputOf
  with_reducible repeat' first | assumption | (intro _) | apply oStamped_pin hP | apply oWheelEdge_pin hP | apply oWheelEnd_pin hP | apply oCamEdge_pin hP | apply oMarker_pin hP | apply oHall_pin hP | apply oQuad_pin hP | apply pin_ite | dsimp only | split

theorem oInputEdge_pin (s : State) (c : Fin 96) (level : Bool) (t : Nat) (step : Bool) (at' : Nat) (ho : ∀ n, D.ory n) (hk : Q s₀ s) :
    Q s₀ (State.oInputEdge s c level t step at') := by
  unfold State.oInputEdge
  with_reducible repeat' first | assumption | apply ho | (intro _) | apply oInputOf_pin hP | apply pin_ite | apply pin_foldl

theorem oStill_pin (s : State) (n : Fin 4) (hn : D.ory n) (hk : Q s₀ s) :
    Q s₀ (State.oStill s n) := by
  unfold State.oStill
  with_reducible repeat' first | assumption | (intro _) | apply hP.modOry | apply evt_pin hP | apply emitFl_pin hP | apply oSync_pin hP | apply oShow_pin hP | apply oShowPart_pin hP | apply pin_ite | dsimp only | split
  all_goals constructor; assumption

theorem oCamLost_pin (s : State) (n : Fin 4) (hn : D.ory n) (hk : Q s₀ s) :
    Q s₀ (State.oCamLost s n) := by
  unfold State.oCamLost
  with_reducible repeat' first | assumption | (intro _) | apply hP.modOry | apply oShowPart_pin hP | apply evt_pin hP | apply oFault_pin hP | apply pin_ite
  all_goals constructor; assumption

theorem oPwDue_pin (s : State) (n : Fin 4) (hn : D.ory n) (hk : Q s₀ s) :
    Q s₀ (State.oPwDue s n) := by
  unfold State.oPwDue
  with_reducible repeat' first | assumption | (intro _) | apply oPwDecide_pin hP | apply pin_ite | dsimp only | split

theorem oRestart_pin (s : State) (n : Fin 4) (cause : Nat) (hn : D.ory n) (hk : Q s₀ s) :
    Q s₀ (State.oRestart s n cause) := by
  unfold State.oRestart
  with_reducible repeat' first | assumption | (intro _) | apply hP.modOry | apply oSync_pin hP | apply oShow_pin hP | dsimp only | split

theorem oOff_pin (s : State) (n : Fin 4) (hn : D.ory n) (hk : Q s₀ s) :
    Q s₀ (State.oOff s n) := by
  unfold State.oOff
  with_reducible repeat' first | assumption | (intro _) | apply hP.modOry | apply oSync_pin hP | apply oShow_pin hP

theorem oCmdDone_pin (s : State) (n : Fin 4) (ok : Bool) (hn : D.ory n) (hk : Q s₀ s) :
    Q s₀ (State.oCmdDone s n ok) := by
  unfold State.oCmdDone
  with_reducible repeat' first | assumption | (intro _) | apply rput_pin hP | apply evt_pin hP | apply pin_ite
  all_goals constructor; assumption

theorem oSetpos_pin (s : State) (n : Fin 4) (hn : D.ory n) (hk : Q s₀ s) :
    Q s₀ (State.oSetpos s n) := by
  unfold State.oSetpos
  with_reducible repeat' first | assumption | (intro _) | apply oCmdDone_pin hP | apply hP.modOry | apply oResync_pin hP | apply oSync_pin hP | apply oBroadcast_pin hP | apply pin_ite | dsimp only | split

theorem oReacq_pin (s : State) (n : Fin 4) (hn : D.ory n) (hk : Q s₀ s) :
    Q s₀ (State.oReacq s n) := by
  unfold State.oReacq
  with_reducible repeat' first | assumption | (intro _) | apply oRestart_pin hP | apply oCmdDone_pin hP | apply pin_ite

theorem oClrCnt_pin (s : State) (n : Fin 4) (hn : D.ory n) (hk : Q s₀ s) :
    Q s₀ (State.oClrCnt s n) := by
  unfold State.oClrCnt
  with_reducible repeat' first | assumption | (intro _) | apply hP.setReg | apply oCmdDone_pin hP
  all_goals constructor; assumption

theorem oCommand_pin (s : State) (n : Fin 4) (op : Nat) (hn : D.ory n) (hk : Q s₀ s) :
    Q s₀ (State.oCommand s n op) := by
  unfold State.oCommand
  with_reducible repeat' first | assumption | (intro _) | apply oCmdDone_pin hP | apply oReacq_pin hP | apply oSetpos_pin hP | apply oClrCnt_pin hP | dsimp only | split

theorem oCmdPost_pin (s : State) (n : Fin 4) (op : Nat) (hn : D.ory n) (hk : Q s₀ s) :
    Q s₀ (State.oCmdPost s n op) := by
  unfold State.oCmdPost
  with_reducible repeat' first | assumption | (intro _) | apply hP.modOry

theorem oCmdRun_pin (s : State) (n : Fin 4) (hn : D.ory n) (hk : Q s₀ s) :
    Q s₀ (State.oCmdRun s n) := by
  unfold State.oCmdRun
  with_reducible repeat' first | assumption | (intro _) | apply oCommand_pin hP | apply oQuadSettle_pin hP | apply hP.modOry | apply pin_ite | apply pin_foldl

theorem oTickEnd_pin (s : State) (n : Fin 4) (hn : D.ory n) (hk : Q s₀ s) :
    Q s₀ (State.oTickEnd s n) := by
  unfold State.oTickEnd
  with_reducible repeat' first | assumption | (intro _) | apply oCamSettle_pin hP | apply oCmdRun_pin hP

theorem oTickStart_pin (s : State) (n : Fin 4) (hn : D.ory n) (hk : Q s₀ s) :
    Q s₀ (State.oTickStart s n) := by
  unfold State.oTickStart
  with_reducible repeat' first | assumption | (intro _) | apply oQuadDue_pin hP | apply oDeliver_pin hP

end

end Sys2Proof.Machine
end

section
/-!
SUPPORT. What the operations of the converters, captures, compares and trains keep, for every property that their elementary changes keep.
-/
set_option Elab.async false
namespace Sys2Proof.Machine
open Sys2Proof

section
variable {D : Reach} {Q : State → State → Prop} (hP : PinClosed D Q) {s₀ : State}
include hP

theorem convPush_pin (s : State) (k : Fin 2) (q : Conv) (hk : Q s₀ s) :
    Q s₀ (State.convPush s k q) := by
  unfold State.convPush
  with_reducible repeat' first | assumption | (intro _) | apply hP.modConv

theorem convRefuse_pin (s : State) (k : Fin 2) (thread : Option (Fin 8 × Fin 16)) (hk : Q s₀ s) : Q s₀ (s.convRefuse k thread) := by
  unfold State.convRefuse
  split
  · exact hP.modThr _ _ _ _ (fun _ => ⟨rfl, rfl, rfl, rfl, rfl⟩) hk
  · exact evt_pin hP _ _ (.cvEvt) (rsat_pin hP _ _ _ (.cvCnt k) hk)

theorem convDrop_pin (s : State) (k : Fin 2) (hk : Q s₀ s) :
    Q s₀ (State.convDrop s k) := by
  unfold State.convDrop
  with_reducible repeat' first | assumption | (intro _) | apply hP.modConv | apply convRefuse_pin hP | apply pin_ite | dsimp only | split

theorem convClear_pin (s : State) (k : Fin 2) (m j : Nat) (h : Q s₀ s) : Q s₀ (State.convClear s k m j) := by
  induction j generalizing s with
  | zero => exact h
  | succ k ih =>
    unfold State.convClear
    with_reducible repeat' first | assumption | (intro _) | apply ih | apply convDrop_pin hP | apply pin_ite

theorem convSlot_pin (s : State) (k : Fin 2) (j due : Nat) (c : Nat) (hk : Q s₀ s) :
    Q s₀ (State.convSlot s k j due c) := by
  unfold State.convSlot
  with_reducible repeat' first | assumption | (intro _) | apply convPush_pin hP | apply convClear_pin hP | apply convRefuse_pin hP | apply pin_ite | apply pin_foldl

theorem convEvent_pin (s : State) (c : Fin 96) (ev due : Nat) (hk : Q s₀ s) :
    Q s₀ (State.convEvent s c ev due) := by
  unfold State.convEvent
  with_reducible repeat' first | assumption | (intro _) | apply convSlot_pin hP | apply pin_ite | apply pin_foldl

theorem convTick_pin (s : State) (k : Fin 2) (hk : Q s₀ s) :
    Q s₀ (State.convTick s k) := by
  unfold State.convTick
  with_reducible repeat' first | assumption | (intro _) | apply hP.modConv | apply pin_ite | dsimp only | split

theorem convHold_pin (s : State) (k : Fin 2) (hk : Q s₀ s) :
    Q s₀ (State.convHold s k) := by
  unfold State.convHold
  with_reducible repeat' first | assumption | (intro _) | apply hP.modConv | apply rsat_pin hP | apply pin_ite | dsimp only | split
  all_goals constructor

theorem convResult_pin (s : State) (k : Fin 2) (raw : BitVec 12) (hk : Q s₀ s) :
    Q s₀ (State.convResult s k raw) := by
  unfold State.convResult
  with_reducible repeat' first | assumption | (intro _) | apply hP.modConv | apply hP.setReg | apply sbufPut_pin hP | apply emitFl_pin hP | apply pin_ite | apply pin_dite | dsimp only | split
  all_goals constructor

theorem countNow_pin (s : State) (c : Fin 96) (src : Nat) (hp : D.pins) (hk : Q s₀ s) :
    Q s₀ (State.countNow s c src) := by
  unfold State.countNow
  with_reducible repeat' first | assumption | (intro _) | apply hP.modCh | apply evt_pin hP | apply pin_ite
  any_goals exact Or.inr ⟨hp, fun _ => rfl⟩
  all_goals constructor; assumption

theorem count_pin (s : State) (c : Fin 96) (src : Nat) (hp : D.pins) (hk : Q s₀ s) :
    Q s₀ (State.count s c src) := by
  unfold State.count
  with_reducible repeat' first | assumption | (intro _) | apply hP.modCh | apply countNow_pin hP
  any_goals exact Or.inr ⟨hp, fun _ => rfl⟩

theorem newImage_pin (s : State) (c : Fin 96) (cause : BitVec 4) (t : Nat) (hp : D.pins) (hk : Q s₀ s) :
    Q s₀ (State.newImage s c cause t) := by
  unfold State.newImage
  with_reducible repeat' first | assumption | (intro _) | apply hP.modCh
  any_goals exact Or.inr ⟨hp, fun _ => rfl⟩

theorem latch_pin (s : State) (c0 : Fin 96) (cause : BitVec 4) (t : Nat) (hp : D.pins) (hk : Q s₀ s) :
    Q s₀ (State.latch s c0 cause t) := by
  unfold State.latch
  with_reducible repeat' first | assumption | (intro _) | apply hP.modCh | apply newImage_pin hP | apply pin_ite | dsimp only | split
  any_goals exact Or.inr ⟨hp, fun _ => rfl⟩

theorem flushImage_pin (s : State) (c : Fin 96) (hp : D.pins) (hk : Q s₀ s) :
    Q s₀ (State.flushImage s c) := by
  unfold State.flushImage
  with_reducible repeat' first | assumption | (intro _) | apply hP.modCh | apply chEmitFl_pin hP | apply pin_ite | dsimp only | split
  any_goals exact Or.inr ⟨hp, fun _ => rfl⟩

theorem capRecord_pin (s : State) (c : Fin 96) (k : Bool) (hp : D.pins) (hk : Q s₀ s) :
    Q s₀ (State.capRecord s c k) := by
  unfold State.capRecord
  with_reducible repeat' first | assumption | (intro _) | apply hP.modCh | apply emitFl_pin hP | apply pin_ite | dsimp only | split
  any_goals exact Or.inr ⟨hp, keepsCell_setCap _ _⟩

theorem capStep_pin (s : State) (c : Fin 96) (k : Bool) (hp : D.pins) (hk : Q s₀ s) :
    Q s₀ (State.capStep s c k) := by
  unfold State.capStep
  with_reducible repeat' first | assumption | (intro _) | apply capRecord_pin hP | apply hP.modCh | apply pin_ite | dsimp only | split
  any_goals exact Or.inr ⟨hp, keepsCell_setCap _ _⟩

theorem capPump_pin (s : State) (c : Fin 96) (hp : D.pins) (hk : Q s₀ s) :
    Q s₀ (State.capPump s c) := by
  unfold State.capPump
  with_reducible repeat' first | assumption | (intro _) | apply capStep_pin hP | apply pin_foldl

theorem capEnter_pin (s : State) (c : Fin 96) (k : Bool) (p : Cap) (x : CapT) (hp : D.pins) (hk : Q s₀ s) : Q s₀ (s.capEnter c k p x) := by
  have he : PinReg D (capDropEvt c k).reg := by cases k <;> exact .chEvt c hp
  have hd : PinReg D (F.CHc_CAPk_STAT_DROP c (kNat k)).reg := .capStat c k hp
  have hc : ∀ q : Channel → Cap, Q s₀ (s.modCh c (fun y => setCap y k (q y))) := fun q => hP.modCh _ _ _ (.inr ⟨hp, keepsCell_setCap k q⟩) hk
  exact pin_ite (hc _) (pin_ite (hc _) (evt_pin hP _ _ he (rsat_pin hP _ _ _ hd (hc _))))

theorem capEdge_pin (s : State) (c : Fin 96) (k rise : Bool) (t : Nat) (step : Bool) (at' : Nat) (hp : D.pins) (hk : Q s₀ s) :
    Q s₀ (State.capEdge s c k rise t step at') := by
  unfold State.capEdge
  with_reducible repeat' first | assumption | (intro _) | apply rsat_pin hP | apply capEnter_pin hP | apply capPump_pin hP | apply count_pin hP | apply latch_pin hP | apply convEvent_pin hP | apply wakeCh_pin hP | apply pin_ite
  all_goals constructor; assumption

theorem capRead_pin (s : State) (c : Fin 96) (k g : Bool) (hp : D.pins) (hk : Q s₀ s) : Q s₀ (s.capRead c k g).2.2 := by
  cases hc : s.capCoincides c k with
  | true =>
    exact (congrArg (fun r => Q s₀ r.2.2) (capRead_coincides hc g)).mpr
      (hP.modCh s c (fun y => setCap y k { capOf s.ch[c] k with entered := none, older := none }) (.inr ⟨hp, keepsCell_setCap k _⟩) hk)
  | false =>
    cases hx : (capOf s.ch[c] k).s1 with
    | none =>
      exact (congrArg (fun r => Q s₀ r.2.2) (capRead_empty hc hx g)).mpr hk
    | some x =>
      exact (congrArg (fun r => Q s₀ r.2.2) (capRead_shows hc hx g)).mpr
        (pin_ite (capPump_pin hP _ _ hp (hP.modCh s c (fun y => setCap y k { capOf s.ch[c] k with s1 := some { x with rdDone := true } }) (.inr ⟨hp, keepsCell_setCap k _⟩) hk)) hk)

theorem ownPush_pin (s : State) (c : Fin 96) (l : Bool) (t : Int) (hc : D.chan c) (hk : Q s₀ s) :
    Q s₀ (State.ownPush s c l t) := by
  unfold State.ownPush
  with_reducible repeat' first | assumption | (intro _) | (refine hP.modCh _ _ _ (.inl ⟨hc, keepsHolds_of ?_⟩) ?_) | exact ⟨rfl, rfl⟩

theorem pinEcho_pin (s old : State) (c : Fin 96) (t : Int) (hc : D.chan c) (hk : Q s₀ s) :
    Q s₀ (State.pinEcho s old c t) := by
  unfold State.pinEcho
  with_reducible repeat' first | assumption | (intro _) | apply ownPush_pin hP | apply pin_ite | dsimp only | split

theorem modCmp_pin (s : State) (c : Fin 96) (u : Bool) (f : Cmp → Cmp) (hc : D.chan c) (hk : Q s₀ s) :
    Q s₀ (State.modCmp s c u f) := hP.modCh _ _ _ (.inl ⟨hc, keepsHolds_setCmp u _⟩) hk

theorem pinMoved_pin (s : State) (c : Fin 96) (tp : Int) (hc : D.chan c) (hk : Q s₀ s) :
    Q s₀ (State.pinMoved s c tp) := by
  unfold State.pinMoved
  with_reducible repeat' first | assumption | (intro _) | (refine hP.modCh _ _ _ (.inl ⟨hc, keepsHolds_of ?_⟩) ?_) | exact ⟨rfl, rfl⟩

theorem fireCore_pin (s : State) (c : Fin 96) (u : Bool) (tb : Int) (d : Nat) (step quiet : Bool) (hp : D.pins) (hc : D.chan c) (hk : Q s₀ s) :
    Q s₀ (State.fireCore s c u tb d step quiet) := by
  unfold State.fireCore
  with_reducible repeat' first | assumption | (intro _) | apply pinMoved_pin hP | (refine hP.modCh _ _ _ (.inl ⟨hc, keepsHolds_of ?_⟩) ?_) | apply pinEcho_pin hP | apply rwrap_pin hP | apply rput_pin hP | apply hP.setReg | apply evt_pin hP | apply rsat_pin hP | apply chEmit_pin hP | apply count_pin hP | apply convEvent_pin hP | apply wakeCh_pin hP | apply pin_ite | (cases u <;> exact And.intro rfl rfl)
  all_goals constructor; assumption

theorem fireTimely_pin (s : State) (c : Fin 96) (u : Bool) (hp : D.pins) (hc : D.chan c) (hk : Q s₀ s) :
    Q s₀ (State.fireTimely s c u) := by
  unfold State.fireTimely
  with_reducible repeat' first | assumption | (intro _) | apply fireCore_pin hP

theorem fireLate_pin (s : State) (c : Fin 96) (u : Bool) (step quiet : Bool) (hp : D.pins) (hc : D.chan c) (hk : Q s₀ s) :
    Q s₀ (State.fireLate s c u step quiet) := by
  unfold State.fireLate
  with_reducible repeat' first | assumption | (intro _) | apply fireCore_pin hP

theorem loadCmp_pin (s : State) (c : Fin 96) (u : Bool) (target act : Nat) (recEn : Bool) (tag : Nat) (fifo wake : Bool) (eph : Option Nat) (hc : D.chan c) (hk : Q s₀ s) :
    Q s₀ (State.loadCmp s c u target act recEn tag fifo wake eph) := by
  unfold State.loadCmp
  with_reducible repeat' first | assumption | (intro _) | apply modCmp_pin hP

theorem disarmCmp_pin (s : State) (c : Fin 96) (u : Bool) (hc : D.chan c) (hk : Q s₀ s) :
    Q s₀ (State.disarmCmp s c u) := by
  unfold State.disarmCmp
  with_reducible repeat' first | assumption | (intro _) | apply modCmp_pin hP

theorem modFifo_pin (s : State) (c : Fin 96) (g : Fifo → Fifo) (hc : D.chan c) (hk : Q s₀ s) :
    Q s₀ (State.modFifo s c g) := by
  unfold State.modFifo
  with_reducible repeat' first | assumption | (intro _) | (refine hP.modCh _ _ _ (.inl ⟨hc, keepsHolds_of ?_⟩) ?_) | exact ⟨rfl, rfl⟩

theorem fifoSet_pin (s : State) (c : Fin 96) (x : FifoState) (hp : D.pins) (hc : D.chan c) (hk : Q s₀ s) :
    Q s₀ (State.fifoSet s c x) := by
  unfold State.fifoSet
  with_reducible repeat' first | assumption | (intro _) | apply modFifo_pin hP | apply evt_pin hP | apply chEmit_pin hP | apply wakeCh_pin hP | apply pin_ite
  all_goals constructor; assumption

theorem fifoErr_pin (s : State) (c : Fin 96) (code : Nat) (hp : D.pins) (hc : D.chan c) (hk : Q s₀ s) :
    Q s₀ (State.fifoErr s c code) := by
  unfold State.fifoErr
  with_reducible repeat' first | assumption | (intro _) | apply rput_pin hP | apply evt_pin hP
  all_goals constructor; assumption

theorem fifoHalt_pin (s : State) (c : Fin 96) (code : Nat) (hp : D.pins) (hc : D.chan c) (hk : Q s₀ s) :
    Q s₀ (State.fifoHalt s c code) := by
  unfold State.fifoHalt
  with_reducible repeat' first | assumption | (intro _) | apply fifoErr_pin hP | apply fifoSet_pin hP

theorem fifoTrim_pin (s : State) (c : Fin 96) (hp : D.pins) (hc : D.chan c) (hk : Q s₀ s) :
    Q s₀ (State.fifoTrim s c) := by
  unfold State.fifoTrim
  with_reducible repeat' first | assumption | (intro _) | apply modFifo_pin hP | apply evt_pin hP | apply wakeCh_pin hP | apply wakeSpace_pin hP | apply pin_ite
  all_goals constructor; assumption

theorem fifoFired_pin (s : State) (c : Fin 96) (u : Nat) (late : Bool) (pin : Int) (hp : D.pins) (hc : D.chan c) (hk : Q s₀ s) :
    Q s₀ (State.fifoFired s c u late pin) := by
  unfold State.fifoFired
  with_reducible repeat' first | assumption | (intro _) | apply modFifo_pin hP | apply fifoTrim_pin hP | apply hP.wake | apply wakeCh_pin hP | apply pin_ite | dsimp only | split

theorem fifoDoSkip_pin (s : State) (c : Fin 96) (p : FifoPos) (d : Int) (hp : D.pins) (hc : D.chan c) (hk : Q s₀ s) :
    Q s₀ (State.fifoDoSkip s c p d) := by
  unfold State.fifoDoSkip
  with_reducible repeat' first | assumption | (intro _) | apply modFifo_pin hP | apply fifoTrim_pin hP | apply chEmit_pin hP | apply modCmp_pin hP | apply fireLate_pin hP | apply pin_ite

theorem fifoFill_pin (k : Nat) (s : State) (c : Fin 96) (under : Bool) (ds : List Int) (hp : D.pins) (hc : D.chan c) (h : Q s₀ s) : Q s₀ (State.fifoFill k s c under ds) := by
  induction k generalizing s c under ds with
  | zero => exact h
  | succ k ih =>
    unfold State.fifoFill
    with_reducible repeat' first | assumption | (intro _) | apply ih | apply fifoSet_pin hP | apply evt_pin hP | apply fifoHalt_pin hP | apply fifoDoSkip_pin hP | apply hP.wake | apply modCmp_pin hP | apply modFifo_pin hP | apply fireLate_pin hP | apply fifoFired_pin hP | apply pin_ite | dsimp only | split
    all_goals constructor; assumption

theorem ephStore_pin (s : State) (e : Fin 8) (x : EphEnt) (hk : Q s₀ s) : Q s₀ (s.ephStore e x) := sramWr_pin hP _ _ _ hk

theorem ephMod_pin (s : State) (e : Fin 8) (slot : Nat) (f : EphEnt → EphEnt) (he : D.eph) (hk : Q s₀ s) : Q s₀ (s.ephMod e slot f) := by
  unfold State.ephMod
  split
  · exact hk
  · exact ephStore_pin hP _ _ _ (hP.modGaf _ _ _ (fun _ => ⟨rfl, rfl⟩) he hk)

theorem ephDrop_pin (s : State) (e : Fin 8) (slot : Nat) (he : D.eph) (hk : Q s₀ s) : Q s₀ (s.ephDrop e slot) := by
  have h := hP.modGaf s e (fun g => { g with eph := g.eph.filter (fun y => y.slot ≠ slot) }) (fun _ => ⟨rfl, rfl⟩) he hk
  exact pin_ite (wakeSpace_pin hP _ _ _ (hP.sram _ _ h)) (hP.sram _ _ h)

theorem latObserve_pin (s : State) (e : Fin 8) (woke : Option Nat) (he : D.eph) (hk : Q s₀ s) : Q s₀ (s.latObserve e woke) := by
  unfold State.latObserve
  split
  · exact hk
  · exact hP.modGaf _ _ _ (fun _ => ⟨rfl, rfl⟩) he (rput_pin hP _ _ _ (.geLatMax e he) hk)

theorem ephFired_pin (s : State) (c : Fin 96) (slot : Option Nat) (late : Bool) (he : D.eph) (hk : Q s₀ s) :
    Q s₀ (State.ephFired s c slot late) := by
  unfold State.ephFired
  with_reducible repeat' first | assumption | (intro _) | apply ephDrop_pin hP | apply rwrap_pin hP | apply pin_ite | dsimp only | split
  all_goals constructor; assumption

theorem fireA_pin (s : State) (c : Fin 96) (hp : D.pins) (hc : D.chan c) (he : D.eph) (hk : Q s₀ s) :
    Q s₀ (State.fireA s c) := by
  unfold State.fireA
  with_reducible repeat' first | assumption | (intro _) | apply fireTimely_pin hP | apply fifoFill_pin hP | apply fifoFired_pin hP | apply ephFired_pin hP | apply pin_ite

theorem ephCommit_pin (k : Nat) (s : State) (c : Fin 96) (u : Bool) (hp : D.pins) (hc : D.chan c) (he : D.eph) (h : Q s₀ s) : Q s₀ (State.ephCommit k s c u) := by
  induction k generalizing s c u with
  | zero => exact h
  | succ k ih =>
    unfold State.ephCommit
    with_reducible repeat' first | assumption | (intro _) | apply ih | apply fireA_pin hP | apply fireTimely_pin hP | apply ephFired_pin hP | apply ephMod_pin hP | apply latObserve_pin hP | apply loadCmp_pin hP | apply fireLate_pin hP | apply pin_ite | dsimp only | split

theorem afterFire_pin (s : State) (c : Fin 96) (u : Bool) (y : Cmp) (late : Bool) (hp : D.pins) (hc : D.chan c) (he : D.eph) (hk : Q s₀ s) :
    Q s₀ (State.afterFire s c u y late) := by
  unfold State.afterFire
  with_reducible repeat' first | assumption | (intro _) | apply fifoFired_pin hP | apply ephFired_pin hP | apply fifoFill_pin hP | apply ephCommit_pin hP | apply pin_ite

theorem cmpReachOne_pin (s : State) (c : Fin 96) (u : Bool) (hp : D.pins) (hc : D.chan c) (he : D.eph) (hk : Q s₀ s) :
    Q s₀ (State.cmpReachOne s c u) := by
  unfold State.cmpReachOne
  with_reducible repeat' first | assumption | (intro _) | apply modCmp_pin hP | apply fireTimely_pin hP | apply afterFire_pin hP | apply pin_ite

theorem cmpReach_pin (s : State) (c : Fin 96) (u : Bool) (hp : D.pins) (hc : D.chan c) (he : D.eph) (hk : Q s₀ s) :
    Q s₀ (State.cmpReach s c u) := by
  unfold State.cmpReach
  with_reducible repeat' first | assumption | (intro _) | apply cmpReachOne_pin hP | apply pin_ite

theorem cmpLate_pin (s : State) (c : Fin 96) (u : Bool) (step : Bool) (hp : D.pins) (hc : D.chan c) (he : D.eph) (hk : Q s₀ s) :
    Q s₀ (State.cmpLate s c u step) := by
  unfold State.cmpLate
  with_reducible repeat' first | assumption | (intro _) | apply cmpReachOne_pin hP | apply fireLate_pin hP | apply afterFire_pin hP | apply pin_ite

theorem cmpArm_pin (s : State) (c : Fin 96) (u : Bool) (target act : Nat) (recEn : Bool) (tag : Nat) (hp : D.pins) (hc : D.chan c) (he : D.eph) (hk : Q s₀ s) :
    Q s₀ (State.cmpArm s c u target act recEn tag) := by
  unfold State.cmpArm
  with_reducible repeat' first | assumption | (intro _) | apply cmpReach_pin hP | apply loadCmp_pin hP | apply cmpLate_pin hP | apply pin_ite

theorem cmpDisarm_pin (s : State) (c : Fin 96) (u : Bool) (hp : D.pins) (hc : D.chan c) (he : D.eph) (hk : Q s₀ s) :
    Q s₀ (State.cmpDisarm s c u) := by
  unfold State.cmpDisarm
  with_reducible repeat' first | assumption | (intro _) | apply cmpReach_pin hP | apply disarmCmp_pin hP | apply pin_ite

theorem cmpRejudge_pin (s : State) (c : Fin 96) (u step : Bool) (hp : D.pins) (hc : D.chan c) (he : D.eph) (hk : Q s₀ s) :
    Q s₀ (State.cmpRejudge s c u step) := by
  unfold State.cmpRejudge
  with_reducible repeat' first | assumption | (intro _) | apply modCmp_pin hP | apply cmpLate_pin hP | apply pin_ite

theorem fifoStep_pin (s : State) (c : Fin 96) (hp : D.pins) (hc : D.chan c) (he : D.eph) (hk : Q s₀ s) :
    Q s₀ (State.fifoStep s c) := by
  unfold State.fifoStep
  with_reducible repeat' first | assumption | (intro _) | apply cmpRejudge_pin hP | apply disarmCmp_pin hP | apply modFifo_pin hP | apply fifoFill_pin hP | apply pin_ite | apply pin_foldl | dsimp only | split

theorem stepChannel_pin (s : State) (c : Fin 96) (hp : D.pins) (hc : D.chan c) (he : D.eph) (hk : Q s₀ s) :
    Q s₀ (State.stepChannel s c) := by
  unfold State.stepChannel
  with_reducible repeat' first | assumption | (intro _) | apply cmpRejudge_pin hP | apply fifoStep_pin hP | apply pin_ite

theorem stepRejudge_pin (s : State) (hp : D.pins) (hc : ∀ c, D.chan c) (he : D.eph) (hk : Q s₀ s) :
    Q s₀ (State.stepRejudge s) := by
  unfold State.stepRejudge
  with_reducible repeat' first | assumption | apply hc | (intro _) | apply stepChannel_pin hP | apply pin_foldl

theorem cmpRetime_pin (s : State) (c : Fin 96) (oldTrc : Int) (hp : D.pins) (hc : D.chan c) (he : D.eph) (hk : Q s₀ s) :
    Q s₀ (State.cmpRetime s c oldTrc) := by
  unfold State.cmpRetime
  with_reducible repeat' first | assumption | (intro _) | (refine hP.modCh _ _ _ (.inl ⟨hc, keepsHolds_of ?_⟩) ?_) | exact ⟨rfl, rfl⟩ | apply cmpRejudge_pin hP

theorem relFire_pin (s : State) (c : Fin 96) (dueA dueB : Bool) (hp : D.pins) (hc : D.chan c) (hk : Q s₀ s) :
    Q s₀ (State.relFire s c dueA dueB) := by
  unfold State.relFire
  with_reducible repeat' first | assumption | (intro _) | apply fireLate_pin hP | apply pin_ite

theorem relPin_pin (s : State) (c : Fin 96) (ol : Bool) (hp : D.pins) (hc : D.chan c) (hk : Q s₀ s) :
    Q s₀ (State.relPin s c ol) := by
  unfold State.relPin
  with_reducible repeat' first | assumption | (intro _) | apply pinMoved_pin hP | apply count_pin hP | apply rsat_pin hP | apply evt_pin hP | apply pin_ite
  all_goals constructor; assumption

theorem relWait_pin (s : State) (c : Fin 96) (u : Bool) (y : Cmp) (hp : D.pins) (hc : D.chan c) (he : D.eph) (hk : Q s₀ s) :
    Q s₀ (State.relWait s c u y) := by
  unfold State.relWait
  with_reducible repeat' first | assumption | (intro _) | apply modCmp_pin hP | apply cmpReachOne_pin hP | apply pin_ite

theorem holdRelease_pin (s : State) (c : Fin 96) (hp : D.pins) (hc : D.chan c) (he : D.eph) (hk : Q s₀ s) :
    Q s₀ (State.holdRelease s c) := by
  unfold State.holdRelease
  with_reducible repeat' first | assumption | (intro _) | apply relFire_pin hP | apply relPin_pin hP | apply afterFire_pin hP | apply fifoFill_pin hP | apply relWait_pin hP | apply pin_ite

theorem holdMoved_pin (s old : State) (c : Fin 96) (hp : D.pins) (hc : D.chan c) (he : D.eph) (hk : Q s₀ s) :
    Q s₀ (State.holdMoved s old c) := by
  unfold State.holdMoved
  with_reducible repeat' first | assumption | (intro _) | (refine hP.modCh _ _ _ (.inl ⟨hc, keepsHolds_of ?_⟩) ?_) | exact ⟨rfl, rfl⟩ | apply pinEcho_pin hP | apply holdRelease_pin hP | apply pin_ite

theorem holdChange_pin (s : State) (c : Fin 96) (f : State → State) (hf : ∀ a, Q s₀ a → Q s₀ (f a)) (hp : D.pins) (hc : D.chan c) (he : D.eph) (hk : Q s₀ s) :
    Q s₀ (State.holdChange s c f) := by
  unfold State.holdChange
  with_reducible repeat' first | assumption | (intro _) | apply hf | apply holdMoved_pin hP

theorem fifoRefuse_pin (s : State) (c : Fin 96) (code : Nat) (hp : D.pins) (hc : D.chan c) (hk : Q s₀ s) :
    Q s₀ (State.fifoRefuse s c code) := by
  unfold State.fifoRefuse
  with_reducible repeat' first | assumption | (intro _) | apply evt_pin hP | apply fifoErr_pin hP | apply pin_ite
  all_goals constructor; assumption

theorem fifoAppend_pin (s : State) (c : Fin 96) (e : FifoEnt) (hp : D.pins) (hc : D.chan c) (hk : Q s₀ s) :
    Q s₀ (State.fifoAppend s c e) := by
  unfold State.fifoAppend
  with_reducible repeat' first | assumption | (intro _) | apply modFifo_pin hP | apply fifoFill_pin hP | apply fifoSet_pin hP | apply pin_ite

theorem fifoPush_pin (s : State) (c : Fin 96) (e : FifoEnt) (hp : D.pins) (hc : D.chan c) (hk : Q s₀ s) :
    Q s₀ (State.fifoPush s c e) := by
  unfold State.fifoPush
  with_reducible repeat' first | assumption | (intro _) | apply fifoRefuse_pin hP | apply fifoAppend_pin hP | dsimp only | split

theorem fifoBegin_pin (s : State) (c : Fin 96) (hp : D.pins) (hc : D.chan c) (hk : Q s₀ s) :
    Q s₀ (State.fifoBegin s c) := by
  unfold State.fifoBegin
  with_reducible repeat' first | assumption | (intro _) | apply modFifo_pin hP | apply fifoFill_pin hP | apply fifoSet_pin hP

theorem fifoStart_pin (s : State) (c : Fin 96) (waits : Bool) (hp : D.pins) (hc : D.chan c) (hk : Q s₀ s) :
    Q s₀ ((State.fifoStart s c waits).1) := by
  unfold State.fifoStart
  with_reducible repeat' first | assumption | (intro _) | (refine pin_pair (by assumption) ?_) | apply pin_ite_fst | apply fifoErr_pin hP | apply rput_pin hP | apply fifoSet_pin hP | apply fifoBegin_pin hP
  all_goals constructor; assumption

theorem fifoUnarm_pin (s : State) (c : Fin 96) (hp : D.pins) (hc : D.chan c) (hk : Q s₀ s) :
    Q s₀ (State.fifoUnarm s c) := by
  unfold State.fifoUnarm
  with_reducible repeat' first | assumption | (intro _) | apply fireTimely_pin hP | apply fifoFired_pin hP | apply disarmCmp_pin hP | apply modFifo_pin hP | apply pin_ite

theorem stopCmp_pin (s : State) (c : Fin 96) (u : Bool) (hp : D.pins) (hc : D.chan c) (he : D.eph) (hk : Q s₀ s) :
    Q s₀ (State.stopCmp s c u) := by
  unfold State.stopCmp
  with_reducible repeat' first | assumption | (intro _) | apply fireTimely_pin hP | apply ephFired_pin hP | apply ephMod_pin hP | apply disarmCmp_pin hP | apply pin_ite | dsimp only | split

theorem fifoStop_pin (s : State) (c : Fin 96) (hp : D.pins) (hc : D.chan c) (he : D.eph) (hk : Q s₀ s) :
    Q s₀ (State.fifoStop s c) := by
  unfold State.fifoStop
  with_reducible repeat' first | assumption | (intro _) | apply fifoUnarm_pin hP | apply stopCmp_pin hP | apply fifoSet_pin hP

theorem noteHostStop_pin (s : State) (c : Fin 96) (hc : D.chan c) (hk : Q s₀ s) :
    Q s₀ (State.noteHostStop s c) := by
  unfold State.noteHostStop
  with_reducible repeat' first | assumption | (intro _) | apply modFifo_pin hP

theorem fifoFlush_pin (s : State) (c : Fin 96) (hp : D.pins) (hc : D.chan c) (he : D.eph) (hk : Q s₀ s) :
    Q s₀ (State.fifoFlush s c) := by
  unfold State.fifoFlush
  with_reducible repeat' first | assumption | (intro _) | apply fifoStop_pin hP | apply modFifo_pin hP | apply rput_pin hP | apply wakeSpace_pin hP | apply pin_ite
  all_goals constructor; assumption

theorem fifoBreak_pin (s : State) (c : Fin 96) (hp : D.pins) (hc : D.chan c) (hk : Q s₀ s) :
    Q s₀ (State.fifoBreak s c) := by
  unfold State.fifoBreak
  with_reducible repeat' first | assumption | (intro _) | apply modFifo_pin hP | apply disarmCmp_pin hP | apply modCmp_pin hP | apply fifoFill_pin hP | apply pin_ite | apply pin_foldl | dsimp only | split

theorem ephPurged_pin (s : State) (e : Fin 8) (chan cause n : Nat) (he : D.eph) (hk : Q s₀ s) :
    Q s₀ (State.ephPurged s e chan cause n) := by
  unfold State.ephPurged
  with_reducible repeat' first | assumption | (intro _) | apply emit_pin hP | apply evt_pin hP | apply pin_ite
  all_goals constructor; assumption

theorem ephRemove_pin (s : State) (e : Fin 8) (p : EphEnt → Bool) (he : D.eph) (hk : Q s₀ s) :
    Q s₀ (State.ephRemove s e p) := by
  unfold State.ephRemove
  with_reducible repeat' first | assumption | (intro _) | apply ephDrop_pin hP | apply pin_foldl

theorem ephRefused_pin (s : State) (e : Fin 8) (n : Nat) (he : D.eph) (hk : Q s₀ s) : Q s₀ (s.ephRefused e n) :=
  hP.modThr _ _ _ _ (fun _ => ⟨rfl, rfl, rfl, rfl, rfl⟩) (rsat_pin hP _ _ _ (.geEph e he) hk)

theorem ownChange_pin (s : State) (c : Fin 96) (old new : Nat) (hp : D.pins) (hc : D.chan c) (he : D.eph) (hk : Q s₀ s) :
    Q s₀ (State.ownChange s c old new) := by
  unfold State.ownChange
  with_reducible repeat' first | assumption | (intro _) | apply disarmCmp_pin hP | apply modFifo_pin hP | apply fifoSet_pin hP | apply ephRefused_pin hP | apply ephRemove_pin hP | apply ephPurged_pin hP | apply ephMod_pin hP | apply pin_foldl

end

/-! ### Rows of a channel -/

section
variable {D : Reach} {Q : State → State → Prop} (hP : PinClosed D Q) {s₀ : State}
include hP

theorem holdsChange_pin (s : State) (cs : List (Fin 96)) (f : State → State) (hf : ∀ a, Q s₀ a → Q s₀ (f a)) (hp : D.pins) (hc : ∀ c, D.chan c) (he : D.eph) (hk : Q s₀ s) :
    Q s₀ (State.holdsChange s cs f) := by
  unfold State.holdsChange
  with_reducible repeat' first | assumption | apply hc | (intro _) | apply hf | apply holdMoved_pin hP | apply pin_foldl

theorem bankWords_pin (s : State) (b : Fin 12) (hp : D.pins) (hc : ∀ c, D.chan c) (he : D.eph) (ho : ∀ n, D.ory n) (hk : Q s₀ s) :
    Q s₀ (State.bankWords s b) := by
  unfold State.bankWords
  with_reducible repeat' first | assumption | apply hc | apply ho | (intro _) | apply cmpRetime_pin hP | apply calSaturate_pin hP | apply pin_foldl

theorem acceptEdge_pin (s : State) (c : Fin 96) (l : Bool) (t : Nat) (step : Bool) (at' : Nat) (hp : D.pins) (hc : D.chan c) (ho : ∀ n, D.ory n) (hk : Q s₀ s) :
    Q s₀ (State.acceptEdge s c l t step at') := by
  unfold State.acceptEdge
  with_reducible repeat' first | assumption | apply ho | (intro _) | (refine hP.modCh _ _ _ (.inl ⟨hc, keepsHolds_of ?_⟩) ?_) | exact ⟨rfl, rfl⟩ | apply count_pin hP | apply capEdge_pin hP | apply oInputEdge_pin hP | apply pin_ite

theorem ownFirst_pin (s : State) (c : Fin 96) (until' : Option Int) (hp : D.pins) (hc : D.chan c) (ho : ∀ n, D.ory n) (hk : Q s₀ s) :
    Q s₀ (State.ownFirst s c until') := by
  unfold State.ownFirst
  with_reducible repeat' first | assumption | apply ho | (intro _) | (refine hP.modCh _ _ _ (.inl ⟨hc, keepsHolds_of ?_⟩) ?_) | exact ⟨rfl, rfl⟩ | apply hP.drawn | apply acceptEdge_pin hP | apply rsat_pin hP | apply pin_ite | dsimp only | split
  all_goals constructor; assumption

theorem ownStep_pin (s : State) (c : Fin 96) (until' : Option Int) (hp : D.pins) (hc : D.chan c) (ho : ∀ n, D.ory n) (hk : Q s₀ s) :
    Q s₀ (State.ownStep s c until') := by
  unfold State.ownStep
  with_reducible repeat' first | assumption | apply ho | (intro _) | apply ownFirst_pin hP | apply pin_ite | apply pin_foldl

theorem inputEdge_pin (s : State) (c : Fin 96) (level : Bool) (pos width : Nat) (hp : D.pins) (hc : D.chan c) (ho : ∀ n, D.ory n) (hk : Q s₀ s) :
    Q s₀ (State.inputEdge s c level pos width) := by
  unfold State.inputEdge
  with_reducible repeat' first | assumption | apply ho | (intro _) | apply ownStep_pin hP | apply hP.drawn | apply acceptEdge_pin hP | apply rsat_pin hP | apply pin_ite | dsimp only | split
  all_goals constructor; assumption

theorem cmpCtlWrite_pin (s : State) (p : Path) (c : Fin 96) (u : Bool) (v : Word) (arm : Bool) (hp : D.pins) (hc : D.chan c) (he : D.eph) (hk : Q s₀ s) :
    Q s₀ (State.cmpCtlWrite s p c u v arm) := by
  unfold State.cmpCtlWrite
  with_reducible repeat' first | assumption | (intro _) | apply evt_pin hP | apply hP.setReg | apply cmpArm_pin hP | apply cmpDisarm_pin hP | apply pin_ite
  all_goals constructor; assumption

end

end Sys2Proof.Machine
end

section
/-!
SUPPORT. What the operations of the pins leave: every register apart from those in reach, every cell, Orrery and ephemeris out of reach, the spine and
the banks, and where a thread that does not wait runs.
-/
set_option Elab.async false
namespace Sys2Proof.Machine
open Sys2Proof

/-! ### What is out of reach -/

/-- What lies out of a reach is as it was. -/
structure Within (D : Reach) (s t : State) : Prop where
  regs : ∀ o, ¬ PinReg D o → t.reg o = s.reg o
  cell : ∀ c : Fin 96, ¬ D.chan c → SameCell s.ch[c] t.ch[c]
  chs : ¬ D.pins → (∀ c, ¬ D.chan c) → t.ch = s.ch
  ory : ∀ n : Fin 4, ¬ D.ory n → t.ory[n] = s.ory[n]
  eph : ¬ D.eph → ∀ e : Fin 8, t.gaf[e].eph = s.gaf[e].eph
  spine : t.spine = s.spine
  banks : t.banks = s.banks
  cal : t.calU = s.calU ∧ t.otp = s.otp

theorem SameCell.refl (x : Channel) : SameCell x x := rfl

theorem SameCell.trans {x y z : Channel} (h : SameCell x y) (h' : SameCell y z) : SameCell x z := by
  unfold SameCell at *
  rw [h', h]

theorem Within.refl (D : Reach) (s : State) : Within D s s :=
  ⟨fun _ _ => rfl, fun _ _ => .refl _, fun _ _ => rfl, fun _ _ => rfl, fun _ _ => rfl, rfl, rfl, rfl, rfl⟩

theorem Within.trans {D : Reach} {s t u : State} (h : Within D s t) (h' : Within D t u) : Within D s u where
  regs o ho := (h'.regs o ho).trans (h.regs o ho)
  cell c hc := (h.cell c hc).trans (h'.cell c hc)
  chs hp hc := (h'.chs hp hc).trans (h.chs hp hc)
  ory n hn := (h'.ory n hn).trans (h.ory n hn)
  eph he e := (h'.eph he e).trans (h.eph he e)
  spine := h'.spine.trans h.spine
  banks := h'.banks.trans h.banks
  cal := ⟨h'.cal.1.trans h.cal.1, h'.cal.2.trans h.cal.2⟩

theorem Within.rget {D : Reach} {s t : State} (h : Within D s t) {f : Fld} (hf : ¬ PinReg D f.reg) : t.rget f = s.rget f := rget_of_reg (h.regs _ hf)

/-- A change of parts of the state that no reach speaks of. -/
theorem Within.elsewhere {D : Reach} {s t u : State} (h : Within D s t) (hr : u.regs = t.regs) (hc : u.ch = t.ch) (ho : u.ory = t.ory) (hg : u.gaf = t.gaf)
    (hs : u.spine = t.spine) (hb : u.banks = t.banks) (hu : u.calU = t.calU ∧ u.otp = t.otp) : Within D s u where
  regs o hx := (by simp only [State.reg, hr] : u.reg o = t.reg o).trans (h.regs o hx)
  cell c hx := by rw [hc]; exact h.cell c hx
  chs hp hx := hc.trans (h.chs hp hx)
  ory n hn := by rw [ho]; exact h.ory n hn
  eph he e := by rw [hg]; exact h.eph he e
  spine := hs.trans h.spine
  banks := hb.trans h.banks
  cal := ⟨hu.1.trans h.cal.1, hu.2.trans h.cal.2⟩

/-- A change of the Gaffers that leaves the ephemerides. -/
theorem Within.gaffers {D : Reach} {s t u : State} (h : Within D s t) (hg : ∀ e : Fin 8, u.gaf[e].eph = t.gaf[e].eph) (hr : u.regs = t.regs)
    (hc : u.ch = t.ch) (ho : u.ory = t.ory) (hs : u.spine = t.spine) (hb : u.banks = t.banks) (hu : u.calU = t.calU ∧ u.otp = t.otp) : Within D s u where
  regs o hx := (by simp only [State.reg, hr] : u.reg o = t.reg o).trans (h.regs o hx)
  cell c hx := by rw [hc]; exact h.cell c hx
  chs hp hx := hc.trans (h.chs hp hx)
  ory n hn := by rw [ho]; exact h.ory n hn
  eph he e := (hg e).trans (h.eph he e)
  spine := hs.trans h.spine
  banks := hb.trans h.banks
  cal := ⟨hu.1.trans h.cal.1, hu.2.trans h.cal.2⟩

theorem modThr_eph (s : State) (d e : Fin 8) (n : Fin 16) (f : Thread → Thread) : (s.modThr d n f).gaf[e].eph = s.gaf[e].eph := by
  by_cases h : e = d
  · subst h
    have hg : (s.modThr e n f).gaf[e] = { s.gaf[e] with thr := s.gaf[e].thr.set n (f s.gaf[e].thr[n]) } := gaf_modGaf_same s e _
    rw [hg]
  · exact congrArg Gaffer.eph (gaf_modGaf_ne s _ h)

/-! ### What an Orrery decides by an older configuration -/

/-- Registers of the Orreries put back as they are given. -/
def State.putOld (s : State) (l : List (Nat × Word)) : State :=
  l.foldl (fun (a : State) e => if 0x10000 ≤ e.1 ∧ e.1 < 0x14000 then a.setReg e.1 e.2 else a) s

theorem putOld_alike (s : State) (l : List (Nat × Word)) : s.putOld l = { s with regs := (s.putOld l).regs } :=
  pin_foldl (P := fun t : State => t = { s with regs := t.regs }) _ _ (fun t e ht => by
    split
    · exact congrArg (fun u : State => u.setReg e.1 e.2) ht
    · exact ht) rfl

theorem putOld_nil (s : State) : s.putOld [] = s := rfl

theorem putOld_reg_ne {s : State} {l : List (Nat × Word)} {o : Nat} (h : ∀ e ∈ l, e.1 ≠ o) : (s.putOld l).reg o = s.reg o := by
  induction l generalizing s with
  | nil => rfl
  | cons e l ih =>
    have hl : ∀ x ∈ l, x.1 ≠ o := fun x hx => h x (List.mem_cons_of_mem _ hx)
    have hs : (if 0x10000 ≤ e.1 ∧ e.1 < 0x14000 then s.setReg e.1 e.2 else s).reg o = s.reg o := by
      have hne : o ≠ e.1 := fun hx => h e List.mem_cons_self hx.symm
      split
      · rw [reg_setReg_ne _ _ hne]
      · rfl
    exact (ih hl).trans hs

theorem putOld_reg_out {s : State} {l : List (Nat × Word)} {o : Nat} (h : ¬ (0x10000 ≤ o ∧ o < 0x14000)) : (s.putOld l).reg o = s.reg o := by
  induction l generalizing s with
  | nil => rfl
  | cons e l ih =>
    have hs : (if 0x10000 ≤ e.1 ∧ e.1 < 0x14000 then s.setReg e.1 e.2 else s).reg o = s.reg o := by
      split
      case isTrue he =>
        have hne : o ≠ e.1 := fun hx => h (hx ▸ he)
        rw [reg_setReg_ne _ _ hne]
      case isFalse => rfl
    exact ih.trans hs

/-- Registers put back as a state has them. -/
theorem putOld_reg_same {s a : State} {ks : List Nat} {o : Nat} (ho : 0x10000 ≤ o ∧ o < 0x14000) (hm : o ∈ ks ∨ s.reg o = a.reg o) :
    (s.putOld (ks.map (fun k => (k, a.reg k)))).reg o = a.reg o := by
  induction ks generalizing s with
  | nil => exact hm.resolve_left (List.not_mem_nil)
  | cons k ks ih =>
    refine ih (s := if 0x10000 ≤ k ∧ k < 0x14000 then s.setReg k (a.reg k) else s) ?_
    by_cases hk : o = k
    · subst hk
      rw [if_pos ho, reg_setReg_same]
      exact .inr rfl
    · have hs : (if 0x10000 ≤ k ∧ k < 0x14000 then s.setReg k (a.reg k) else s).reg o = s.reg o := by
        split
        · rw [reg_setReg_ne _ _ hk]
        · rfl
      rw [hs]
      rcases hm with hm | hm
      · exact .inl ((List.mem_cons.1 hm).resolve_left hk)
      · exact .inr hm

theorem underOld_eq (s : State) (rs ws : List (Nat × Word)) (f : State → State) : s.underOld rs ws f =
    { (f { s.putOld rs with calU := ws.foldl (fun (u : Tbl Word) e => tblSet calUDefault u e.1 e.2) s.calU }).putOld
      ((rs.map (fun e => e.1)).map (fun k => (k, s.reg k))) with calU := s.calU } := by
  rw [List.map_map]
  rfl

theorem Within.underOld {D : Reach} {s t : State} (rs ws : List (Nat × Word)) (f : State → State) (hf : ∀ s₁ a, Within D s₁ a → Within D s₁ (f a))
    (h : Within D s t) : Within D s (t.underOld rs ws f) := by
  refine h.trans ?_
  obtain ⟨a, ha⟩ : ∃ a : State, a = { t.putOld rs with calU := ws.foldl (fun (u : Tbl Word) e => tblSet calUDefault u e.1 e.2) t.calU } := ⟨_, rfl⟩
  have hfa := hf a a (.refl D a)
  rw [underOld_eq, ← ha]
  generalize f a = b at hfa
  have har : ∀ o, a.reg o = (t.putOld rs).reg o := fun o => by rw [ha]; rfl
  obtain ⟨hac, hao, hag, has, hab⟩ : a.ch = t.ch ∧ a.ory = t.ory ∧ a.gaf = t.gaf ∧ a.spine = t.spine ∧ a.banks = t.banks := by
    rw [ha, putOld_alike t rs]
    exact ⟨rfl, rfl, rfl, rfl, rfl⟩
  have hat : a.otp = t.otp := by rw [ha, putOld_alike t rs]
  have hb := putOld_alike b ((rs.map (fun e => e.1)).map (fun k => (k, t.reg k)))
  have hreg : ∀ o, ¬ PinReg D o → (b.putOld ((rs.map (fun e => e.1)).map (fun k => (k, t.reg k)))).reg o = t.reg o := fun o ho => by
    have hbo : b.reg o = (t.putOld rs).reg o := (hfa.regs o ho).trans (har o)
    by_cases hr : 0x10000 ≤ o ∧ o < 0x14000
    · refine putOld_reg_same hr ?_
      by_cases hm : o ∈ rs.map (fun e => e.1)
      · exact .inl hm
      · exact .inr (hbo.trans (putOld_reg_ne (fun e he hx => hm (List.mem_map.2 ⟨e, he, hx⟩))))
    · exact (putOld_reg_out hr).trans (hbo.trans (putOld_reg_out hr))
  refine ⟨hreg, ?_, ?_, ?_, ?_, ?_, ?_, ?_⟩
  all_goals
    rw [hb]
  · exact fun c hc => by have := hfa.cell c hc; rw [hac] at this; exact this
  · exact fun hp hc => (hfa.chs hp hc).trans hac
  · exact fun n hn => by have := hfa.ory n hn; rw [hao] at this; exact this
  · exact fun he e => by have := hfa.eph he e; rw [hag] at this; exact this
  · exact hfa.spine.trans has
  · exact hfa.banks.trans hab
  · exact ⟨rfl, hfa.cal.2.trans hat⟩

theorem Within.setReg {D : Reach} {s t : State} (h : Within D s t) {o : Nat} (w : Word) (ho : PinReg D o) : Within D s (t.setReg o w) :=
  ⟨fun x hx => by
    have hxo : x ≠ o := fun e => hx (by rw [e]; exact ho)
    rw [reg_setReg_ne _ _ hxo, h.regs x hx], h.cell, h.chs, h.ory, h.eph, h.spine, h.banks, h.cal⟩

theorem Within.sameReg {D : Reach} {s t : State} (h : Within D s t) (o : Nat) : Within D s (t.setReg o (t.reg o)) :=
  ⟨fun x hx => by
    by_cases hxo : x = o
    · rw [hxo, reg_setReg_same, ← hxo, h.regs x hx]
    · rw [reg_setReg_ne _ _ hxo, h.regs x hx], h.cell, h.chs, h.ory, h.eph, h.spine, h.banks, h.cal⟩

theorem Within.modCh {D : Reach} {s t : State} (h : Within D s t) (c : Fin 96) (f : Channel → Channel) (hf : D.chan c ∨ (D.pins ∧ KeepsCell f)) :
    Within D s (t.modCh c f) where
  regs := h.regs
  cell d hd := by
    by_cases hdc : d = c
    · subst hdc
      rw [ch_modCh_same]
      exact (h.cell d hd).trans ((hf.resolve_left hd).2 _)
    · rw [ch_modCh_ne _ _ hdc]
      exact h.cell d hd
  chs hp hc := hf.elim (fun hx => absurd hx (hc c)) (fun hx => absurd hx.1 hp)
  ory := h.ory
  eph := h.eph
  spine := h.spine
  banks := h.banks
  cal := h.cal

theorem ory_modOry_ne (s : State) {n m : Fin 4} (f : Orrery → Orrery) (h : m ≠ n) : (s.modOry n f).ory[m] = s.ory[m] :=
  Vector.getElem_set_ne n.isLt m.isLt (fun e => h (Fin.ext e.symm))

theorem Within.modOry {D : Reach} {s t : State} (h : Within D s t) {n : Fin 4} (f : Orrery → Orrery) (hn : D.ory n) : Within D s (t.modOry n f) where
  regs := h.regs
  cell := h.cell
  chs := h.chs
  ory m hm := by
    have hmn : m ≠ n := fun e => hm (e ▸ hn)
    rw [ory_modOry_ne _ _ hmn]
    exact h.ory m hm
  eph := h.eph
  spine := h.spine
  banks := h.banks
  cal := h.cal

/-- The operations of the pins leave what is out of their reach. -/
theorem within_closed (D : Reach) : PinClosed D (Within D) where
  setReg _ _ w ho h := h.setReg w ho
  sameReg _ o h := h.sameReg o
  noteSet _ _ h := h.elsewhere rfl rfl rfl rfl rfl rfl ⟨rfl, rfl⟩
  ec _ _ h := h.elsewhere rfl rfl rfl rfl rfl rfl ⟨rfl, rfl⟩
  modCh _ c f hf h := h.modCh c f (hf.imp_left And.left)
  modOry _ _ f hn h := h.modOry f hn
  modConv _ _ _ h := h.elsewhere rfl rfl rfl rfl rfl rfl ⟨rfl, rfl⟩
  modSbuf _ _ _ h := h.elsewhere rfl rfl rfl rfl rfl rfl ⟨rfl, rfl⟩
  queue _ _ _ h := h.elsewhere rfl rfl rfl rfl rfl rfl ⟨rfl, rfl⟩
  faults _ _ _ h := h.elsewhere rfl rfl rfl rfl rfl rfl ⟨rfl, rfl⟩
  kick _ h := h.elsewhere rfl rfl rfl rfl rfl rfl ⟨rfl, rfl⟩
  sram _ _ h := h.elsewhere rfl rfl rfl rfl rfl rfl ⟨rfl, rfl⟩
  drawn _ h := h.elsewhere rfl rfl rfl rfl rfl rfl ⟨rfl, rfl⟩
  underOld _ rs ws f hf h := h.underOld rs ws f hf
  modGaf _ _ _ _ he h := ⟨h.regs, h.cell, h.chs, h.ory, fun hn => absurd he hn, h.spine, h.banks, h.cal⟩
  modThr t d n f _ h := h.gaffers (fun e => modThr_eph t d e n f) rfl rfl rfl rfl rfl ⟨rfl, rfl⟩
  wake t d n bit h := by
    rw [wake_eq]
    exact h.gaffers (fun e => modThr_eph t d e n _) rfl rfl rfl rfl rfl ⟨rfl, rfl⟩

/-! ### Registers apart -/

/-- Every register that the operations of the pins cannot write is as it was. -/
def KeepsApart (s t : State) : Prop := ∀ o, ¬ PinReg .all o → t.reg o = s.reg o

theorem KeepsApart.refl (s : State) : KeepsApart s s := fun _ _ => rfl

theorem KeepsApart.trans {s t u : State} (h : KeepsApart s t) (h' : KeepsApart t u) : KeepsApart s u := fun o ho => (h' o ho).trans (h o ho)

theorem KeepsApart.of_regs {s t u : State} (h : KeepsApart s t) (hu : u.regs = t.regs) : KeepsApart s u := fun o ho =>
  (by simp only [State.reg, hu] : u.reg o = t.reg o).trans (h o ho)

theorem KeepsApart.rget {s t : State} (h : KeepsApart s t) {f : Fld} (hf : ¬ PinReg .all f.reg) : t.rget f = s.rget f := rget_of_reg (h _ hf)

/-- A register within any reach is one that these operations can write. -/
theorem PinReg.all {D : Reach} {o : Nat} (h : PinReg D o) : PinReg .all o := by
  cases h <;> constructor <;> simp only [Reach.all, implies_true, *]

theorem Within.apart {D : Reach} {s t : State} (h : Within D s t) : KeepsApart s t := fun o ho => h.regs o (fun hx => ho hx.all)

/-! ### A thread that runs -/

/-- A thread that is not parked is where it was, and so is what runs. -/
def RunsOn (e : Fin 8) (n : Fin 16) (s t : State) : Prop := (s.thr e n).state ≠ .parked → Runs e n s t

theorem RunsOn.of_gaf {e : Fin 8} {n : Fin 16} {s t u : State} (h : RunsOn e n s t) (hg : u.gaf = t.gaf) : RunsOn e n s u := fun hp => (h hp).of_gaf hg

theorem RunsOn.modGaf {e : Fin 8} {n : Fin 16} {s t : State} (h : RunsOn e n s t) (d : Fin 8) {f : Gaffer → Gaffer} (hf : KeepsThreads f) :
    RunsOn e n s (t.modGaf d f) := fun hp => by
  obtain ⟨h1, h2, h3⟩ := h hp
  by_cases hd : e = d
  · subst hd
    have ht : (t.modGaf e f).thr e n = t.thr e n := by unfold State.thr; rw [gaf_modGaf_same, (hf _).1]
    exact ⟨by rw [gaf_modGaf_same, (hf _).2, h1], by rw [ht, h2], by rw [ht, h3]⟩
  · have hg : (t.modGaf d f).gaf[e] = t.gaf[e] := gaf_modGaf_ne t _ hd
    have ht : (t.modGaf d f).thr e n = t.thr e n := congrArg (fun g : Gaffer => g.thr[n]) hg
    exact ⟨by rw [hg, h1], by rw [ht, h2], by rw [ht, h3]⟩

theorem RunsOn.wake {e : Fin 8} {n : Fin 16} {s t : State} (h : RunsOn e n s t) (d : Fin 8) (m : Fin 16) (bit : Nat) : RunsOn e n s (t.wake d m bit) :=
  fun hp => by
    obtain ⟨h1, h2, h3⟩ := h hp
    by_cases hd : e = d
    · subst hd
      obtain ⟨g1, g2, g3⟩ := wake_runs (e := e) (n := n) (s := t) (by rw [h2]; exact hp) m bit
      exact ⟨g1.trans h1, g2.trans h2, g3.trans h3⟩
    · have hg : (t.wake d m bit).gaf[e] = t.gaf[e] := by rw [wake_eq]; exact gaf_modGaf_ne t _ hd
      have ht : (t.wake d m bit).thr e n = t.thr e n := congrArg (fun g : Gaffer => g.thr[n]) hg
      exact ⟨by rw [hg, h1], by rw [ht, h2], by rw [ht, h3]⟩

theorem putOld_gaf (s : State) (l : List (Nat × Word)) : (s.putOld l).gaf = s.gaf := by rw [putOld_alike]

theorem RunsOn.underOld {e : Fin 8} {n : Fin 16} {s t : State} (rs ws : List (Nat × Word)) (f : State → State)
    (hf : ∀ s₁ a, RunsOn e n s₁ a → RunsOn e n s₁ (f a)) (h : RunsOn e n s t) : RunsOn e n s (t.underOld rs ws f) := by
  obtain ⟨a, ha⟩ : ∃ a : State, a = { t.putOld rs with calU := ws.foldl (fun (u : Tbl Word) e => tblSet calUDefault u e.1 e.2) t.calU } := ⟨_, rfl⟩
  have hag : a.gaf = t.gaf := by rw [ha]; exact putOld_gaf t rs
  rw [underOld_eq, ← ha]
  exact (hf s a (h.of_gaf hag)).of_gaf (putOld_gaf (f a) _)

theorem runsOn_closed (D : Reach) (e : Fin 8) (n : Fin 16) : PinClosed D (RunsOn e n) where
  setReg _ _ _ _ h := h.of_gaf rfl
  sameReg _ _ h := h.of_gaf rfl
  noteSet _ _ h := h.of_gaf rfl
  ec _ _ h := h.of_gaf rfl
  modCh _ _ _ _ h := h.of_gaf rfl
  modOry _ _ _ _ h := h.of_gaf rfl
  modConv _ _ _ h := h.of_gaf rfl
  modSbuf _ _ _ h := h.of_gaf rfl
  queue _ _ _ h := h.of_gaf rfl
  faults _ _ _ h := h.of_gaf rfl
  kick _ h := h.of_gaf rfl
  sram _ _ h := h.of_gaf rfl
  drawn _ h := h.of_gaf rfl
  underOld _ rs ws f hf h := h.underOld rs ws f hf
  modGaf _ d _ hf _ h := h.modGaf d hf
  modThr _ d m _ hf h := fun hp => (h hp).modThr d m (fun x => (hf x).1) (fun x => (hf x).2.1)
  wake _ d m bit h := h.wake d m bit

end Sys2Proof.Machine
end

section
/-!
SUPPORT. The channel operations of a microword (R138 to R141).
-/
set_option Elab.async false
namespace Sys2Proof.Machine
open Sys2Proof

/-! ### Counter images and trains -/

theorem latch_same {s : State} {c : Fin 96} {i : Image} (hi : s.ch[s.cntGov c].img = some i) (ht : i.tick = s.spine.tick) (t : Nat) :
    s.latch c causeSnap t = s.modCh (s.cntGov c) (fun x => { x with img := some { i with cause := i.cause ||| causeSnap } }) := by
  simp only [State.latch, hi, if_pos ht]
  rfl

theorem latch_new {s : State} {c : Fin 96} (h : ∀ i, s.ch[s.cntGov c].img = some i → i.tick ≠ s.spine.tick) (cause : BitVec 4) (t : Nat) :
    s.latch c cause t = s.newImage (s.cntGov c) cause t := by
  cases hi : s.ch[s.cntGov c].img with
  | none => simp only [State.latch, hi]
  | some i => simp only [State.latch, hi, if_neg (h i hi)]

/-- A SNAP leaves an image of the present tick with its cause, of the present count and time where no image of the tick stands. -/
theorem latch_snap (s : State) (c : Fin 96) : ∃ i, (s.latch c causeSnap s.now).ch[s.cntGov c].img = some i ∧ i.tick = s.spine.tick ∧
    i.cause &&& 1 = 1 ∧ ((∀ j, s.ch[s.cntGov c].img = some j → j.tick ≠ s.spine.tick) → i.val = s.cntBefore (s.cntGov c) ∧ i.t = s.now ∧ i.cause = 1) := by
  by_cases h : ∀ j, s.ch[s.cntGov c].img = some j → j.tick ≠ s.spine.tick
  · refine ⟨⟨s.cntBefore (s.cntGov c), s.now, causeSnap, s.spine.tick, s.ron F.SPN_STAT_COARSE⟩, ?_, rfl, (by decide : causeSnap &&& 1 = 1),
      fun _ => ⟨rfl, rfl, rfl⟩⟩
    rw [latch_new h, State.newImage, ch_modCh_same]
  · push Not at h
    obtain ⟨j, hj, ht⟩ := h
    have hor : ∀ x : BitVec 4, (x ||| causeSnap) &&& 1 = 1 := by decide
    refine ⟨{ j with cause := j.cause ||| causeSnap }, ?_, ht, hor _, fun hn => absurd ht (hn j hj)⟩
    rw [latch_same hj ht, ch_modCh_same]

theorem latch_regs (s : State) (c : Fin 96) (cause : BitVec 4) (t : Nat) : (s.latch c cause t).regs = s.regs := by
  unfold State.latch
  dsimp only
  split
  · split <;> rfl
  · rfl

theorem stageRun_ch (s : State) (c : Fin 96) (rs : List ChRec) : (s.stageRun c rs).1.ch = s.ch := by
  induction rs generalizing s with
  | nil => rfl
  | cons r rs ih =>
    unfold State.stageRun
    split
    · rw [ih, ((Frame.refl [] s).emitFl _ _ _ _ _ _ _ _).core.ch]
    · exact ih s

theorem stagePump_fifo (s : State) (c d : Fin 96) : (s.stagePump c).ch[d].fifo = s.ch[d].fifo := by
  unfold State.stagePump
  split
  · rfl
  · by_cases hd : d = c
    · rw [hd, ch_modCh_same, stageRun_ch]
    · rw [ch_modCh_ne _ _ hd, stageRun_ch]

theorem chEmit_fifo (s : State) (c : Fin 96) (type t fl : Nat) (w4 w5 w6 w7 : Word) (d : Fin 96) :
    (s.chEmit c type t fl w4 w5 w6 w7).ch[d].fifo = s.ch[d].fifo := by
  unfold State.chEmit State.chEmitFl
  rw [stagePump_fifo]
  by_cases hd : d = c
  · rw [hd, ch_modCh_same]
  · rw [ch_modCh_ne _ _ hd]

theorem wake_ch (s : State) (e : Fin 8) (n : Fin 16) (bit : Nat) : (s.wake e n bit).ch = s.ch := by rw [wake_eq]; rfl

theorem wakeSpace_ch (s : State) (e : Fin 8) (of : SpaceOf) : (s.wakeSpace e of).ch = s.ch :=
  List.foldlRecOn (motive := fun t : State => t.ch = s.ch) _ _ rfl (fun t ht n _ => by
    split
    · rw [wake_ch, ht]
    · exact ht)

theorem rput_ch (s : State) (f : Fld) (v : Nat) : (s.rput f v).ch = s.ch := ((Frame.refl [f.reg] s).rput (f := f) v List.mem_cons_self).core.ch

theorem evt_ch (s : State) (f : Fld) : (s.evt f).ch = s.ch := ((Frame.refl [f.reg] s).evt (f := f) List.mem_cons_self).core.ch

/-- A train that enters another state: its event where it has drained, its record and its wake. -/
def State.fifoEnters (s : State) (c : Fin 96) (x : FifoState) : State :=
  let s1 := s.modFifo c (fun f => { f with state := x, catchPin := if x = .drained then none else f.catchPin })
  let s2 := if x = .drained then s1.evt (F.CHc_EVT_FIFO_EMPTY_S c) else s1
  (s2.chEmit c 0x0B s2.now 0 (s2.fifoStat c) 0 0 0).wakeCh c 4

theorem fifoSet_same {s : State} {c : Fin 96} {x : FifoState} (h : s.ch[c].fifo.state = x) : s.fifoSet c x = s := if_pos h

theorem fifoSet_enters {s : State} {c : Fin 96} {x : FifoState} (h : s.ch[c].fifo.state ≠ x) : s.fifoSet c x = s.fifoEnters c x := if_neg h

theorem fifoEnters_fifo (s : State) (c : Fin 96) (x : FifoState) :
    (s.fifoEnters c x).ch[c].fifo = { s.ch[c].fifo with state := x, catchPin := if x = .drained then none else s.ch[c].fifo.catchPin } := by
  have hev : ∀ t : State, (if x = .drained then t.evt (F.CHc_EVT_FIFO_EMPTY_S c) else t).ch[c].fifo = t.ch[c].fifo := fun t => by
    split
    · exact congrArg (fun v : Vector Channel 96 => v[c].fifo) (evt_ch t _)
    · rfl
  have hwake : ∀ t : State, (t.wakeCh c 4).ch[c].fifo = t.ch[c].fifo := fun t => congrArg (fun v : Vector Channel 96 => v[c].fifo) (wake_ch t _ _ _)
  exact (hwake _).trans ((chEmit_fifo _ _ _ _ _ _ _ _ _ _).trans ((hev _).trans (fifo_modFifo_same s c _)))

theorem fifoSet_state (s : State) (c : Fin 96) (x : FifoState) : (s.fifoSet c x).ch[c].fifo.state = x := by
  by_cases h : s.ch[c].fifo.state = x
  · rw [fifoSet_same h, h]
  · rw [fifoSet_enters h, fifoEnters_fifo]

/-- A train whose entries are flushed. -/
def Fifo.flushed (f : Fifo) : Fifo := { f with ents := [], next := ⟨0, 0, none, f.next.prev⟩ }

theorem Fifo.flushed_state (f : Fifo) : f.flushed.state = f.state := rfl

theorem Fifo.flushed_ents (f : Fifo) : f.flushed.ents = [] := rfl

theorem fifoFlush_ch (s : State) (c : Fin 96) : (s.fifoFlush c).ch = ((s.fifoStop c).modFifo c Fifo.flushed).ch := by
  have h : ∀ t : State, (if s.ch[c].fifo.ents.length = 16 then (t.rput (F.CHc_FIFO_STAT_ERR c) 0).wakeSpace (gafOf c) (.fifo c.val)
      else t.rput (F.CHc_FIFO_STAT_ERR c) 0).ch = t.ch := fun t => by
    have hr : (t.rput (F.CHc_FIFO_STAT_ERR c) 0).ch = t.ch := rput_ch _ _ _
    split
    · exact (wakeSpace_ch (t.rput (F.CHc_FIFO_STAT_ERR c) 0) _ _).trans hr
    · exact hr
  exact h ((s.fifoStop c).modFifo c Fifo.flushed)

/-- A flush leaves the train idle and empty. -/
theorem fifoFlush_empties (s : State) (c : Fin 96) : (s.fifoFlush c).ch[c].fifo.state = .idle ∧ (s.fifoFlush c).ch[c].fifo.ents = [] := by
  have h : (s.fifoStop c).ch[c].fifo.state = .idle := by
    rw [State.fifoStop, fifoSet_state]
  have hf : (s.fifoFlush c).ch[c].fifo = (s.fifoStop c).ch[c].fifo.flushed :=
    (congrArg (fun v : Vector Channel 96 => v[c].fifo) (fifoFlush_ch s c)).trans (fifo_modFifo_same _ c _)
  rw [hf]
  exact ⟨(Fifo.flushed_state _).trans h, Fifo.flushed_ents _⟩

/-- The owner of a channel is none of the registers that its train writes. -/
theorem ctrl_apart (c : Fin 96) : ¬ PinReg .all (R.CHc_CTRL c) := fun h => by
  have h' := h.lies
  simp only [R.CHc_CTRL, R.SPN_EVT, R.CFG_EVT] at h'
  omega

/-! ### The operations -/

/-- The state in which CAPRD has read a capture. -/
def State.caprdDone (s : State) (e : Fin 8) (n : Fin 16) (c : Fin 96) (k : Bool) : State :=
  (s.capRead c k true).2.2.modThr e n (fun t =>
    { t with fresh := (s.capRead c k true).2.1, more := s.capCoincides c k || (capOf s.ch[c] k).s2.isSome, chres := 0 })

/-- The state in which LDBASE has stopped, flushed and loaded what it names. -/
def State.baseLoaded (s : State) (c : Fin 96) (w : BitVec 144) (v : Nat) : State :=
  let s1 := if mwf w 33 1 = 1 then s.fifoStop c else s
  let s2 := if mwf w 32 1 = 1 then s1.fifoFlush c else s1
  if mwf w 29 1 = 1 then (s2.setReg (R.CHc_FIFO_BASE_LO c) (word (v / 64))).setReg (R.CHc_FIFO_BASE_SUB c) (word (v % 64)) else s2

/-- What LDBASE's START, if it names one, answers. -/
def State.baseStarted (s : State) (c : Fin 96) (w : BitVec 144) : State × FifoRes :=
  if mwf w 34 1 = 1 then s.fifoStart c (mwf w 30 1 = 1) else (s, FifoRes.ok)

/-- The state in which LDBASE is done with its train: BREAK, and a STOP of the host in the same tick, come last. -/
def State.baseBroken (t s : State) (c : Fin 96) (w : BitVec 144) : State :=
  let t1 := if mwf w 31 1 = 1 then t.fifoBreak c else t
  if mwf w 34 1 = 1 ∧ s.ch[c].fifo.hostStop = some s.spine.tick then t1.fifoStop c else t1

section
variable {s : State} {e : Fin 8} {n : Fin 16} {w : BitVec 144} (hsel : mwPsel w = 2)
include hsel

theorem portOp_caprd (hpop : mwPop w = 0) {c : Fin 96} (hc : c = chanOf e (mwLocal (mwf w 50 4) n)) {k : Bool} (hk : k = decide (mwf w 49 1 = 1)) :
    s.portOp e n w = portDone (s.caprdDone e n c k)
      [(mwf w 42 7, match (s.capRead c k true).1 with | some y => y.t % 2 ^ 40 | none => 0),
       (mwf w 35 7, b2n (s.capRead c k true).2.1 + 2 * b2n (match (s.capRead c k true).1 with | some y => y.rise | none => false) +
          4 * b2n (s.capCoincides c k || (capOf s.ch[c] k).s2.isSome) + 8 * b2n (!s.capCoincides c k && !s.capConsumed c k) +
          256 * s.rget (F.CHc_CAPk_STAT_DROP c (kNat k)) + 65536 * s.rget (F.CHc_CAPk_STAT_MISS c (kNat k)))] := by
  subst hc hk
  simp only [State.portOp, hsel, State.portChan, hpop]
  rfl

theorem portOp_snap (hpop : mwPop w = 1) {c : Fin 96} (hc : c = chanOf e (mwLocal (mwf w 50 4) n)) : s.portOp e n w =
    portDone ((s.latch c causeSnap s.now).modThr e n (fun x =>
      { x with snapt := BitVec.ofNat 40 ((s.latch c causeSnap s.now).imageWords c).2.2, chres := 0 }))
      [(mwf w 42 7, ((s.latch c causeSnap s.now).imageWords c).1), (mwf w 35 7, ((s.latch c causeSnap s.now).imageWords c).2.1)] := by
  subst hc
  simp only [State.portOp, hsel, State.portChan, hpop]

theorem portOp_cntrd (hpop : mwPop w = 2) {c : Fin 96} (hc : c = chanOf e (mwLocal (mwf w 50 4) n)) : s.portOp e n w =
    portDone (s.modThr e n (fun x => { x with snapt := BitVec.ofNat 40 (s.imageWords c).2.2, chres := 0 }))
      [(mwf w 42 7, (s.imageWords c).1), (mwf w 35 7, (s.imageWords c).2.1)] := by
  subst hc
  simp only [State.portOp, hsel, State.portChan, hpop]

theorem portOp_fpush (hpop : mwPop w = 3) {c : Fin 96} (hc : c = chanOf e (mwLocal (mwf w 50 4) n)) {x : FifoEnt}
    (hx : x = fifoEntry (word (s.rdSpec e n w (mwf w 42 7))) (word (s.rdSpec e n w (mwf w 35 7)))) : s.portOp e n w =
    if x.delta < 128 then portDone ((s.fifoRefuse c 3).setChres e n 2) []
    else if 16 ≤ s.ch[c].fifo.ents.length then
      (if mwNw w then portDone ((s.fifoRefuse c 4).setChres e n 1) [] else ⟨s, [], some (.fifo c.val), none⟩)
    else portDone ((s.fifoAppend c x).setChres e n 0) [] := by
  subst hc hx
  simp only [State.portOp, hsel, State.portChan, hpop, State.fifoTest]
  by_cases hd : (fifoEntry (word (s.rdSpec e n w (mwf w 42 7))) (word (s.rdSpec e n w (mwf w 35 7)))).delta < 128
  · simp only [hd, if_true]
  · simp only [hd, if_false]
    by_cases hf : 16 ≤ s.ch[chanOf e (mwLocal (mwf w 50 4) n)].fifo.ents.length
    · simp only [hf, if_true]
    · simp only [hf, if_false]

theorem portOp_ldbase (hpop : mwPop w = 4) {c : Fin 96} (hc : c = chanOf e (mwLocal (mwf w 50 4) n)) {v : Nat} (hv : v = s.rdSpec e n w (mwf w 42 7)) :
    s.portOp e n w = portDone ((((s.baseLoaded c w v).baseStarted c w).1.baseBroken s c w).setChres e n
      (if ((s.baseLoaded c w v).baseStarted c w).2 = .own then 3 else 0)) [] := by
  subst hc hv
  simp only [State.portOp, hsel, State.portChan, hpop]
  rfl

theorem portOp_chst (hpop : mwPop w = 5) {c : Fin 96} (hc : c = chanOf e (mwLocal (mwf w 50 4) n)) : s.portOp e n w =
    portDone (s.setChres e n 0) [(mwf w 42 7, (s.chStat c).toNat), (mwf w 35 7, (s.fifoStat c).toNat)] := by
  subst hc
  simp only [State.portOp, hsel, State.portChan, hpop]

end

end Sys2Proof.Machine
end

section
set_option Elab.async false
namespace Sys2Proof.Machine
open Sys2Proof

theorem RunsOn.refl (e : Fin 8) (n : Fin 16) (s : State) : RunsOn e n s s := fun _ => Runs.refl e n s

theorem RunsOn.setChres {e : Fin 8} {n : Fin 16} {s t : State} (h : RunsOn e n s t) (v : Nat) : RunsOn e n s (t.setChres e n v) :=
  fun hp => (h hp).modThr e n (fun _ => rfl) (fun _ => rfl)

theorem setChres_chres (s : State) (e : Fin 8) (n : Fin 16) (v : Nat) : ((s.setChres e n v).thr e n).chres = BitVec.ofNat 4 v := by
  rw [State.setChres, thr_modThr_same]

section
variable {s : State} {e : Fin 8} {n : Fin 16} {pop : Nat}

/-- A channel operation that its row's microword names, and does not park: the thread goes on with what it answers. -/
theorem chanRow (h : portReady s e n 2 pop) {i : Instr} (hi : (i, 2, pop) ∈ portRows e) {u : State} {res : List (Nat × Nat)}
    (hp : s.portOp e n (wordAt s e n) = portDone u res) (hr : ∀ x ∈ res, x.1 < 128) (hd : (res.map Prod.fst).Nodup) (hu : RunsOn e n s u) :
    exec i s = .next (u.modGaf e (Gaffer.ported n res none)) ∧ s.sameFar (u.modGaf e (Gaffer.ported n res none)) ∧
      wentOn s (u.modGaf e (Gaffer.ported n res none)) e n := by
  have hf : Far s u := by
    have := portOp_far s e n (wordAt s e n) (far_refl s)
    rwa [hp] at this
  obtain ⟨h1, h2, h3⟩ := hu (by rw [h.1.2.2.1]; decide)
  exact ⟨exec_port h (exec_portRow e s (i, 2, pop) hi) (by simp [isPort, h.2.2.1, h.2.2.2.1]) hp hr hd nofun,
    ported_far u e n res none hf, ported_wentOn u e n res none (h1.trans h.1.2.1) h2 h3⟩

theorem two_small {a b : Nat} (ha : a < 128) (hb : b < 128) (x y : Nat) : ∀ r ∈ [(a, x), (b, y)], r.1 < 128 := by simp [ha, hb]

theorem two_nodup {a b : Nat} (h : a ≠ b) (x y : Nat) : ([(a, x), (b, y)].map Prod.fst).Nodup := by simpa using h

end

/-! ### LDBASE -/

/-- The bits of a field of a microword. -/
theorem mwf_bit {w : BitVec 144} {lo n v : Nat} (h : mwf w lo n = v) {k : Nat} (hk : k < n) : mwf w (lo + k) 1 = v / 2 ^ k % 2 := by
  subst h
  have hb := Nat.testBit_mod_two_pow (w.toNat >>> lo) n k
  simp only [hk, decide_true, Bool.true_and, Nat.testBit_eq_decide_div_mod_eq, decide_eq_decide] at hb
  show (w.toNat >>> (lo + k)) % 2 = (w.toNat >>> lo) % 2 ^ n / 2 ^ k % 2
  rw [Nat.shiftRight_add, Nat.shiftRight_eq_div_pow _ k]
  omega

/-- The registers of a train's base. -/
def baseRegs (c : Fin 96) : List Nat := [R.CHc_FIFO_BASE_LO c, R.CHc_FIFO_BASE_SUB c]

/-- A base put into its registers, where a microword asks for it. -/
def State.basePut (s : State) (c : Fin 96) (w : BitVec 144) (v : Nat) : State :=
  if mwf w 29 1 = 1 then (s.setReg (R.CHc_FIFO_BASE_LO c) (word (v / 64))).setReg (R.CHc_FIFO_BASE_SUB c) (word (v % 64)) else s

theorem basePut_frame (s : State) (c : Fin 96) (w : BitVec 144) (v : Nat) : Frame (baseRegs c) s (s.basePut c w v) := by
  unfold State.basePut
  split
  · exact ((Frame.refl _ s).setReg _ List.mem_cons_self).setReg _ (List.mem_cons_of_mem _ List.mem_cons_self)
  · exact Frame.refl _ s

theorem basePut_shows (s : State) (c : Fin 96) {w : BitVec 144} (v : Nat) (h : mwf w 29 1 = 1) :
    (s.basePut c w v).reg (R.CHc_FIFO_BASE_LO c) = word (v / 64) ∧ (s.basePut c w v).reg (R.CHc_FIFO_BASE_SUB c) = word (v % 64) := by
  rw [show s.basePut c w v = _ from if_pos h]
  refine ⟨?_, reg_setReg_same _ _ _⟩
  rw [reg_setReg_ne _ _ (by unfold R.CHc_FIFO_BASE_LO R.CHc_FIFO_BASE_SUB; omega), reg_setReg_same]

theorem baseLoaded_put {s : State} {c : Fin 96} {w : BitVec 144} {v : Nat} (h33 : mwf w 33 1 ≠ 1) (h32 : mwf w 32 1 ≠ 1) :
    s.baseLoaded c w v = s.basePut c w v := by
  simp only [State.baseLoaded, if_neg h33, if_neg h32]
  rfl

/-- LDBASE leaves the owner of its channel as it is until its START. -/
theorem baseLoaded_owner (s : State) (c : Fin 96) (w : BitVec 144) (v : Nat) :
    (s.baseLoaded c w v).rget (F.CHc_CTRL_OWN c) = s.rget (F.CHc_CTRL_OWN c) := by
  have h : ∀ t, Within .all s t → (t.basePut c w v).rget (F.CHc_CTRL_OWN c) = s.rget (F.CHc_CTRL_OWN c) := fun t ht => by
    refine (rget_of_reg ((basePut_frame t c w v).regs _ (reportReg_ch (Nat.le_add_right_of_le (by decide))) ?_)).trans (ht.rget (ctrl_apart c))
    show R.CHc_CTRL c ∉ baseRegs c
    simp only [baseRegs, List.mem_cons, List.not_mem_nil, or_false, R.CHc_CTRL, R.CHc_FIFO_BASE_LO, R.CHc_FIFO_BASE_SUB]
    omega
  have hcl := within_closed .all
  have h1 : Within .all s (if mwf w 33 1 = 1 then s.fifoStop c else s) :=
    pin_ite (fifoStop_pin hcl s c trivial trivial trivial (.refl _ s)) (.refl _ s)
  exact h _ (pin_ite (fifoFlush_pin hcl _ c trivial trivial trivial h1) h1)

theorem baseRow_runs (s : State) (e : Fin 8) (n : Fin 16) (c : Fin 96) (w : BitVec 144) (v : Nat) :
    RunsOn e n s (((s.baseLoaded c w v).baseStarted c w).1.baseBroken s c w) := by
  have hcl := runsOn_closed .all e n
  have h1 : RunsOn e n s (if mwf w 33 1 = 1 then s.fifoStop c else s) := pin_ite (fifoStop_pin hcl s c trivial trivial trivial (.refl e n s)) (.refl e n s)
  have h2 : RunsOn e n s (s.baseLoaded c w v) :=
    RunsOn.of_gaf (pin_ite (fifoFlush_pin hcl _ c trivial trivial trivial h1) h1) (basePut_frame _ c w v).core.gaf
  have h3 : RunsOn e n s ((s.baseLoaded c w v).baseStarted c w).1 := pin_ite_fst (fifoStart_pin hcl _ c _ trivial trivial h2) h2
  have h4 := pin_ite (c := mwf w 31 1 = 1) (fifoBreak_pin hcl _ c trivial trivial h3) h3
  exact pin_ite (fifoStop_pin hcl _ c trivial trivial trivial h4) h4

/-- LDBASE that neither stops, flushes, breaks nor starts puts the base alone. -/
theorem baseRow_quiet {s : State} {c : Fin 96} {w : BitVec 144} (h : mwf w 30 5 = 0) (v : Nat) :
    (s.baseLoaded c w v).baseStarted c w = (s.basePut c w v, .ok) ∧ (s.basePut c w v).baseBroken s c w = s.basePut c w v := by
  have hb : ∀ k, k < 5 → mwf w (30 + k) 1 ≠ 1 := fun k hk => by simp [mwf_bit h hk]
  refine ⟨?_, ?_⟩
  · rw [baseLoaded_put (hb 3 (by decide)) (hb 2 (by decide))]
    exact if_neg (hb 4 (by decide))
  · unfold State.baseBroken
    rw [if_neg (hb 1 (by decide)), if_neg (fun hx => hb 4 (by decide) hx.1)]

end Sys2Proof.Machine
end

section
set_option Elab.async false
namespace Sys2Proof
open Sys2Proof.Machine

/-- What CAPRD answers and takes (R138). -/
theorem caprdRow {s : State} {e : Fin 8} {n : Fin 16} (h : portReady s e n 2 0) {d1 d2 : Nat} (hd1 : d1 = mwf (wordAt s e n) 42 7)
    (hd2 : d2 = mwf (wordAt s e n) 35 7) (hne : d1 ≠ d2) {c : Fin 96} (hc : c = chanOf e (mwLocal (mwf (wordAt s e n) 50 4) n)) {k : Bool}
    (hk : k = decide (mwf (wordAt s e n) 49 1 = 1)) :
    let t := (s.caprdDone e n c k).modGaf e (Gaffer.ported n
      [(d1, match (s.capRead c k true).1 with | some y => y.t % 2 ^ 40 | none => 0),
       (d2, b2n (s.capRead c k true).2.1 + 2 * b2n (match (s.capRead c k true).1 with | some y => y.rise | none => false) +
          4 * b2n (s.capCoincides c k || (capOf s.ch[c] k).s2.isSome) + 8 * b2n (!s.capCoincides c k && !s.capConsumed c k) +
          256 * s.rget (F.CHc_CAPk_STAT_DROP c (kNat k)) + 65536 * s.rget (F.CHc_CAPk_STAT_MISS c (kNat k)))] none)
    exec (.mwCaprd e) s = .next t ∧ s.sameFar t ∧ wentOn s t e n ∧ (t.thr e n).chres = 0 ∧
      (t.thr e n).more = (s.capCoincides c k || (capOf s.ch[c] k).s2.isSome) ∧ (t.thr e n).fresh = (s.capRead c k true).2.1 ∧
      t.ch = (s.capRead c k true).2.2.ch := by
  intro t
  subst hd1 hd2
  have hrun : RunsOn e n s (s.caprdDone e n c k) := fun hp =>
    (capRead_pin (runsOn_closed .all e n) s c k true trivial (.refl e n s) hp).modThr e n (fun _ => rfl) (fun _ => rfl)
  obtain ⟨h1, h2, h3⟩ := chanRow h (i := .mwCaprd e) (by simp [portRows]) (portOp_caprd h.2.2.1 h.2.2.2.1 hc hk)
    (two_small (mwf7_lt _ _) (mwf7_lt _ _) _ _) (two_nodup hne _ _) hrun
  have hthr : (s.caprdDone e n c k).thr e n = _ := thr_modThr_same _ _ _ _
  refine ⟨h1, h2, h3, ?_, ?_, ?_, rfl⟩
  · rw [ported_chres, hthr]
  · rw [ported_more, hthr]
  · rw [ported_fresh, hthr]

end Sys2Proof
end

section
set_option Elab.async false
namespace Sys2Proof.Machine
open Sys2Proof

theorem ron_of_regs {s t : State} (h : t.regs = s.regs) (f : Fld) : t.ron f = s.ron f := ron_of_rget_eq (rget_of_regs h f)

theorem cntGov_of_regs {s t : State} (h : t.regs = s.regs) (c : Fin 96) : t.cntGov c = s.cntGov c := by
  simp only [State.cntGov, State.cascHi, ron_of_regs h]
  rfl

theorem cascLo_of_regs {s t : State} (h : t.regs = s.regs) (c : Fin 96) : t.cascLo c = s.cascLo c := by
  simp only [State.cascLo, ron_of_regs h]

theorem imageWords_some {s : State} {c : Fin 96} {i : Image} (h : s.ch[s.cntGov c].img = some i) :
    s.imageWords c = (i.val % 2 ^ 32, if s.cascLo (s.cntGov c) then i.val / 2 ^ 32 else 0, i.t % 2 ^ 40) := by
  simp only [State.imageWords, h]

theorem imageWords_none {s : State} {c : Fin 96} (h : s.ch[s.cntGov c].img = none) : s.imageWords c = (0, 0, 0) := by
  simp only [State.imageWords, h]

/-- The words of an image that a SNAP has just latched. -/
theorem imageWords_latch {s : State} {c : Fin 96} {i : Image} (h : (s.latch c causeSnap s.now).ch[s.cntGov c].img = some i) :
    (s.latch c causeSnap s.now).imageWords c = (i.val % 2 ^ 32, if s.cascLo (s.cntGov c) then i.val / 2 ^ 32 else 0, i.t % 2 ^ 40) := by
  have hr := latch_regs s c causeSnap s.now
  have hi : ∀ g, g = s.cntGov c → (s.latch c causeSnap s.now).ch[g].img = some i := by
    rintro _ rfl
    exact h
  rw [imageWords_some (hi _ (cntGov_of_regs hr c)), cntGov_of_regs hr, cascLo_of_regs hr]

end Sys2Proof.Machine
end

section
set_option Elab.async false
namespace Sys2Proof
open Sys2Proof.Machine

/-- Settles O27: what each channel operation answers in its thread, and what it leaves of its channel. -/
theorem channelRowsRun : Obligations.ChannelRowsRun := by
  intro e n s w c d1 d2 k v1 x g q met shown full
  have hmet : met = s.capCoincides c k := rfl
  obtain ⟨hshown, hfresh⟩ := capRead_shown s c k true
  refine ⟨fun h hne => ?_, fun h hne => ?_, fun h hne => ?_, fun h => ?_, fun h => ?_, fun h hne => ?_⟩
  · obtain ⟨h1, h2, h3, h4, h5, h6, h7⟩ := caprdRow h rfl rfl hne rfl (k := k) rfl
    have hh := holds_two (s.caprdDone e n c k) e n none hne
      (match (s.capRead c k true).1 with | some y => y.t % 2 ^ 40 | none => 0)
      (b2n (s.capRead c k true).2.1 + 2 * b2n (match (s.capRead c k true).1 with | some y => y.rise | none => false) +
          4 * b2n (s.capCoincides c k || (capOf s.ch[c] k).s2.isSome) + 8 * b2n (!s.capCoincides c k && !s.capConsumed c k) +
          256 * s.rget (F.CHc_CAPk_STAT_DROP c (kNat k)) + 65536 * s.rget (F.CHc_CAPk_STAT_MISS c (kNat k)))
    refine ⟨_, h1, h2, h3, h4, h5, fun hn => ?_, fun y hy => ?_, fun hm => ?_, fun hm hn => ?_, fun y hm hy hz hc hr => ?_⟩
    · have h0 : (s.capRead c k true).1 = none := hshown.trans hn
      refine ⟨(congrArg (holds _ e n d1) (by rw [h0])).mp hh.1, ?_⟩
      · rw [h6]
        cases hc : s.capCoincides c k with
        | true => rw [capRead_coincides hc]
        | false => rw [capRead_empty hc (by rw [hc] at hshown; exact hshown.symm.trans h0)]
    · have h0 : (s.capRead c k true).1 = some y := hshown.trans hy
      have hf := hfresh y h0
      refine ⟨(congrArg (holds _ e n d1) (by rw [h0])).mp hh.1, h6.trans hf, (congrArg (holds _ e n d2) ?_).mp hh.2⟩
      rw [h0, hf]
      rfl
    · rw [h7, capRead_coincides hm]
    · rw [h7, capRead_takesNothing hm]
      rcases hn with hn | hn | hn
      · exact .inl hn
      · exact .inr (by simp [State.readerOf, hn])
      · exact .inr (by simp [State.readerOf, hn])
    · rw [h7]
      obtain ⟨r, u, hru, -⟩ := (capRead_takes (g := true) hm hy (by rw [State.readerOf, hc, hr]; rfl)).1 hz
      exact ⟨r, u, hru⟩
  · obtain ⟨i, hi, htick, hcause, hnew⟩ := latch_snap s c
    have hp := portOp_snap (s := s) (e := e) (n := n) h.2.2.1 h.2.2.2.1 rfl
    rw [imageWords_latch hi] at hp
    have hrun : RunsOn e n s ((s.latch c causeSnap s.now).modThr e n (fun x => { x with snapt := BitVec.ofNat 40 (i.t % 2 ^ 40), chres := 0 })) :=
      fun hq => (latch_pin (runsOn_closed .all e n) s c causeSnap s.now trivial (.refl e n s) hq).modThr e n (fun _ => rfl) (fun _ => rfl)
    obtain ⟨h1, h2, h3⟩ := chanRow h (i := .mwSnap e) (by simp [portRows]) hp (two_small (mwf7_lt _ _) (mwf7_lt _ _) _ _) (two_nodup hne _ _) hrun
    have hh := holds_two ((s.latch c causeSnap s.now).modThr e n (fun x => { x with snapt := BitVec.ofNat 40 (i.t % 2 ^ 40), chres := 0 })) e n none hne
      (i.val % 2 ^ 32) (if s.cascLo (s.cntGov c) then i.val / 2 ^ 32 else 0)
    refine ⟨_, i, h1, h2, h3, ?_, hi, htick, hcause, hh.1, hh.2, ?_, hnew⟩
    · rw [ported_chres, thr_modThr_same]
    · rw [ported_snapt, thr_modThr_same]
  · have hp := portOp_cntrd (s := s) (e := e) (n := n) h.2.2.1 h.2.2.2.1 rfl
    have hrun : RunsOn e n s (s.modThr e n (fun x => { x with snapt := BitVec.ofNat 40 (s.imageWords c).2.2, chres := 0 })) :=
      fun hq => (Runs.refl e n s).modThr e n (fun _ => rfl) (fun _ => rfl)
    obtain ⟨h1, -, h3⟩ := chanRow h (i := .mwCntrd e) (by simp [portRows]) hp (two_small (mwf7_lt _ _) (mwf7_lt _ _) _ _) (two_nodup hne _ _) hrun
    have hh := holds_two (s.modThr e n (fun x => { x with snapt := BitVec.ofNat 40 (s.imageWords c).2.2, chres := 0 })) e n none hne
      (s.imageWords c).1 (s.imageWords c).2.1
    refine ⟨_, h1, ported_blocks _ e n _ _ (modThr_blocks s e n _), h3, ?_, fun i hi => ?_, fun hi => ?_⟩
    · rw [ported_chres, thr_modThr_same]
    · have hw := imageWords_some (s := s) (c := c) hi
      refine ⟨(congrArg (holds _ e n d1) (by rw [hw])).mp hh.1, (congrArg (holds _ e n d2) (by rw [hw])).mp hh.2, ?_⟩
      rw [ported_snapt, thr_modThr_same, hw]
    · have hw := imageWords_none (s := s) (c := c) hi
      refine ⟨(congrArg (holds _ e n d1) (by rw [hw])).mp hh.1, (congrArg (holds _ e n d2) (by rw [hw])).mp hh.2, ?_⟩
      rw [ported_snapt, thr_modThr_same, hw]
      rfl
  · have hport := portOp_fpush (s := s) (e := e) (n := n) h.2.2.1 h.2.2.2.1 (c := c) rfl (x := x) rfl
    have hcl := runsOn_closed .all e n
    have row : ∀ {u : State}, s.portOp e n w = portDone u [] → RunsOn e n s u → _ := fun hp hu =>
      chanRow h (i := .mwFpush e) (by simp [portRows]) hp (by simp) (by simp) hu
    by_cases hd : x.delta < 128
    · rw [if_pos hd] at hport
      obtain ⟨h1, h2, h3⟩ := row hport ((fifoRefuse_pin hcl s c 3 trivial trivial (.refl e n s)).setChres 2)
      refine ⟨_, h1, h2, fun _ => ⟨h3, by rw [ported_chres, setChres_chres]; rfl, ?_⟩, fun hn => absurd hd (by omega), fun hn => absurd hd (by omega),
        fun hn => absurd hd (by omega)⟩
      exact (fifoRefuse_shows s c (code := 3) (by decide)).2.1.core.ch
    · rw [if_neg hd] at hport
      by_cases hf : 16 ≤ s.ch[c].fifo.ents.length
      · rw [if_pos hf] at hport
        by_cases hw : mwNw w = true
        · rw [if_pos hw] at hport
          obtain ⟨h1, h2, h3⟩ := row hport ((fifoRefuse_pin hcl s c 4 trivial trivial (.refl e n s)).setChres 1)
          refine ⟨_, h1, h2, fun hn => absurd hn hd, fun _ _ _ => ⟨h3, by rw [ported_chres, setChres_chres]; rfl, ?_⟩,
            fun _ _ hn => absurd hw (by rw [hn]; decide), fun _ hn => absurd hf (by omega)⟩
          exact (fifoRefuse_shows s c (code := 4) (by decide)).2.1.core.ch
        · rw [if_neg hw] at hport
          have hrun := exec_port_parks h (exec_portRow e s (.mwFpush e, 2, 3) (by simp [portRows])) (by simp [isPort, h.2.2.1, h.2.2.2.1])
            (of := .fifo c) (by rw [hport])
          rw [hport] at hrun
          refine ⟨_, hrun, parkThread_far _ _ _ _ (modThr_far _ _ _ _ (far_refl s)), fun hn => absurd hn hd, fun _ _ hn => absurd hn hw,
            fun _ _ _ => ⟨parks_onSpace rfl _, ?_⟩, fun _ hn => absurd hf (by omega)⟩
          exact (parkThread_frame (os := [R.Ge_CMD_STAT e]) (modThr_gafFrame (Frame.refl _ s) e n _) List.mem_cons_self n _).core.ch
      · rw [if_neg hf] at hport
        obtain ⟨h1, h2, h3⟩ := row hport ((fifoAppend_pin hcl s c x trivial trivial (.refl e n s)).setChres 0)
        refine ⟨_, h1, h2, fun hn => absurd hn hd, fun _ hn => absurd hn hf, fun _ hn => absurd hn hf,
          fun hx hn => ⟨h3, by rw [ported_chres, setChres_chres]; rfl, fun hr hdr => ?_⟩⟩
        have hj := fifoPush_joins (e := x) hx hn hr hdr
        have ha : s.fifoPush c x = s.fifoAppend c x := by
          simp only [State.fifoPush, State.fifoTest, if_neg hd, if_neg hf]
        show (s.fifoAppend c x).ch[c] = _
        rw [← ha, hj]
        exact ch_modCh_same s c _
  · have hport := portOp_ldbase (s := s) (e := e) (n := n) h.2.2.1 h.2.2.2.1 (c := c) rfl (v := v1) rfl
    obtain ⟨h1, h2, h3⟩ := chanRow h (i := .mwLdbase e) (by simp [portRows]) hport (by simp) (by simp) ((baseRow_runs s e n c w v1).setChres _)
    refine ⟨_, h1, h2, h3, fun hq => ?_, fun hst ho => ?_, fun hst => ?_, fun hfl => ?_⟩
    · obtain ⟨hq1, hq2⟩ := baseRow_quiet (s := s) (c := c) hq v1
      have hfr : Frame (baseRegs c) s (s.basePut c w v1) := basePut_frame s c w v1
      refine ⟨by rw [ported_chres, setChres_chres, hq1]; rfl, ?_, fun hb => ?_, fun o ho hno => ?_⟩
      · show (((s.baseLoaded c w v1).baseStarted c w).1.baseBroken s c w).ch = s.ch
        rw [hq1, hq2, hfr.core.ch]
      · have hreg : ∀ o, ((((s.baseLoaded c w v1).baseStarted c w).1.baseBroken s c w)).reg o = (s.basePut c w v1).reg o := fun o => by rw [hq1, hq2]
        exact ⟨(hreg _).trans (basePut_shows s c v1 hb).1, (hreg _).trans (basePut_shows s c v1 hb).2⟩
      · show (((s.baseLoaded c w v1).baseStarted c w).1.baseBroken s c w).reg o = s.reg o
        rw [hq1, hq2]
        exact hfr.regs o ho hno
    · have hown : ((s.baseLoaded c w v1).baseStarted c w).2 = .own := by
        have hlt : (s.baseLoaded c w v1).rget (F.CHc_CTRL_OWN c) < 2 := by rw [baseLoaded_owner]; exact ho
        unfold State.baseStarted State.fifoStart
        rw [if_pos hst, if_pos hlt]
      rw [ported_chres, setChres_chres, if_pos hown]
      rfl
    · have hok : ((s.baseLoaded c w v1).baseStarted c w).2 = .ok := by
        unfold State.baseStarted
        rw [if_neg (by rw [hst]; decide)]
      rw [ported_chres, setChres_chres, hok]
      rfl
    · have hb : ∀ k, k < 6 → mwf w (29 + k) 1 = 8 / 2 ^ k % 2 := fun k hk => mwf_bit hfl hk
      have hrow : ((s.baseLoaded c w v1).baseStarted c w).1.baseBroken s c w = s.fifoFlush c := by
        have hload : s.baseLoaded c w v1 = s.fifoFlush c := by
          simp only [State.baseLoaded, hb 4 (by decide), hb 3 (by decide), hb 0 (by decide)]
          rfl
        have hstart : (s.fifoFlush c).baseStarted c w = (s.fifoFlush c, .ok) := if_neg (by rw [hb 5 (by decide)]; decide)
        have hbreak : (s.fifoFlush c).baseBroken s c w = s.fifoFlush c := by
          have h31 : ¬ mwf w 31 1 = 1 := by rw [hb 2 (by decide)]; decide
          have h34 : ¬ (mwf w 34 1 = 1 ∧ s.ch[c].fifo.hostStop = some s.spine.tick) := fun hx => absurd hx.1 (by rw [hb 5 (by decide)]; decide)
          simp only [State.baseBroken, if_neg h31, if_neg h34]
        rw [hload, hstart, hbreak]
      show (((s.baseLoaded c w v1).baseStarted c w).1.baseBroken s c w).ch[c].fifo.state = .idle ∧ (((s.baseLoaded c w v1).baseStarted c w).1.baseBroken s c w).ch[c].fifo.ents = []
      rw [hrow]
      exact fifoFlush_empties s c
  · have hp := portOp_chst (s := s) (e := e) (n := n) h.2.2.1 h.2.2.2.1 rfl
    obtain ⟨h1, -, h3⟩ := chanRow h (i := .mwChst e) (by simp [portRows]) hp (two_small (mwf7_lt _ _) (mwf7_lt _ _) _ _) (two_nodup hne _ _)
      ((RunsOn.refl e n s).setChres 0)
    exact ⟨_, h1, fun _ => rfl, ported_blocks _ e n _ _ (modThr_blocks s e n _), h3, by rw [ported_chres, setChres_chres]; rfl,
      holds_two _ e n none hne _ _⟩

end Sys2Proof
end

section
/-!
SUPPORT. The converters' requests, holds, results and sample buffers (R195 to R200).
-/
set_option Elab.async false
namespace Sys2Proof.Machine
open Sys2Proof

theorem sbuf_modSbuf_same (s : State) (b : Fin 6) (f : SampBuf → SampBuf) : (s.modSbuf b f).sbuf[b] = f s.sbuf[b] := by simp [State.modSbuf]

theorem conv_modConv_same (s : State) (k : Fin 2) (f : Converter → Converter) : (s.modConv k f).conv[k] = f s.conv[k] := by simp [State.modConv]

/-! ### Requests and holds -/

/-- The registers of a refused request. -/
def trgRegs (k : Fin 2) : List Nat := [R.CVk_CNT k, R.CV_EVT]

theorem cvRegs_page (k : Fin 2) : reportReg (R.CVk_CNT k) = false := reportReg_of_page (by unfold R.CVk_CNT; omega)

theorem cvCnt_ne_evt (k : Fin 2) : R.CVk_CNT k ≠ R.CV_EVT := by unfold R.CVk_CNT R.CV_EVT; omega

/-- A refused request of the host or of a slot is counted, and reported. -/
theorem convRefuse_shows (s : State) (k : Fin 2) : Frame (trgRegs k) s (s.convRefuse k none) ∧
    countedOne s (s.convRefuse k none) (F.CVk_CNT_REFUSED k) ∧ (s.convRefuse k none).ron (trgRef k) = true := by
  have hw : (1 + k.val) + 1 ≤ 32 := by omega
  refine ⟨((Frame.refl (trgRegs k) s).rsat (f := F.CVk_CNT_REFUSED k) 1 List.mem_cons_self).evt (f := trgRef k)
    (List.mem_cons_of_mem _ List.mem_cons_self), ?_, ron_evt _ _ rfl hw (by decide : reportReg R.CV_EVT = false)⟩
  show State.rget ((s.rsat (F.CVk_CNT_REFUSED k) 1).evt (trgRef k)) _ = _
  rw [rget_evt_ne _ (cvRegs_page k) (cvCnt_ne_evt k), rget_rsat_same _ _ _ (by decide : (16 : Nat) + 16 ≤ 32)]

/-- The state after the front of a queue is sampled. -/
def State.sampled (s : State) (k : Fin 2) (q : Conv) (rest : List Conv) : State :=
  s.modConv k (fun x => { x with queue := rest, held := x.held ++ [⟨q, s.now, q.moved, s.ron F.SPN_STAT_COARSE⟩], lastHold := some s.now })

theorem convHold_waits {s : State} {k : Fin 2} (h : s.convReady k = false) : s.convHold k = s := by
  unfold State.convHold
  split
  · rfl
  · exact if_neg (by rw [h]; decide)

theorem convHold_samples {s : State} {k : Fin 2} {q : Conv} {rest : List Conv} (hq : s.conv[k].queue = q :: rest) (h : s.convReady k = true) :
    s.convHold k = if q.moved then (s.sampled k q rest).rsat (F.CVk_CNT_DELAYED k) 1 else s.sampled k q rest := by
  simp only [State.convHold, hq, h, if_true]
  rfl

theorem convHold_shows {s : State} {k : Fin 2} {q : Conv} {rest : List Conv} (hq : s.conv[k].queue = q :: rest) (h : s.convReady k = true) :
    Frame [R.CVk_CNT k] (s.sampled k q rest) (s.convHold k) ∧ (q.moved = true → countedOne s (s.convHold k) (F.CVk_CNT_DELAYED k)) := by
  rw [convHold_samples hq h]
  split
  case isTrue hm =>
    refine ⟨(Frame.refl _ _).rsat (f := F.CVk_CNT_DELAYED k) 1 List.mem_cons_self, fun _ => ?_⟩
    exact rget_rsat_same (s.sampled k q rest) (F.CVk_CNT_DELAYED k) 1 (by decide : (0 : Nat) + 16 ≤ 32)
  case isFalse hm => exact ⟨Frame.refl _ _, fun hq => absurd hq hm⟩

/-! ### Sample buffers -/

/-- The registers that a buffer's entry changes. -/
def bufRegs (b : Fin 6) : List Nat := [R.CVBUFb_DROP b, R.CV_EVT, R.CVBUFb_WRIDX b]

/-- Nothing but the sample buffers, SRAM and some registers has changed. -/
def BufFrame (os : List Nat) (s t : State) : Prop := Frame os { s with sbuf := t.sbuf, sram := t.sram } t

theorem BufFrame.refl (os : List Nat) (s : State) : BufFrame os s s := Frame.refl os s

section
variable {os : List Nat} {s t : State} (h : BufFrame os s t)
include h

theorem BufFrame.step {u : State} (hu : Frame os t u) : BufFrame os s u := by
  have hb : u.sbuf = t.sbuf := hu.core.2.2.2.2.1
  have hm : u.sram = t.sram := hu.core.sram
  unfold BufFrame
  rw [hb, hm]
  exact Frame.trans h hu

theorem BufFrame.modSbuf (b : Fin 6) (f : SampBuf → SampBuf) : BufFrame os s (t.modSbuf b f) :=
  ⟨h.regs, h.far, h.core.1, h.core.2.1, h.core.2.2.1, h.core.2.2.2.1, rfl, rfl, h.core.free⟩

theorem BufFrame.sramWr (a : Nat) (ws : List Word) : BufFrame os s (t.sramWr a ws) :=
  ⟨h.regs, h.far, h.core.1, h.core.2.1, h.core.2.2.1, h.core.2.2.2.1, rfl, rfl, h.core.free⟩

end

/-- An entry offered to a buffer changes buffers, SRAM and the buffer's registers. -/
theorem sbufPut_frame (s : State) (b : Fin 6) (t : Nat) (coarse : Bool) (w0 w1 w2 w3 : Word) : BufFrame (bufRegs b) s (s.sbufPut b t coarse w0 w1 w2 w3) := by
  have h0 := BufFrame.refl (bufRegs b) s
  have hd : R.CVBUFb_DROP b ∈ bufRegs b := List.mem_cons_self
  have he : R.CV_EVT ∈ bufRegs b := List.mem_cons_of_mem _ List.mem_cons_self
  have hw : R.CVBUFb_WRIDX b ∈ bufRegs b := List.mem_cons_of_mem _ (List.mem_cons_of_mem _ List.mem_cons_self)
  unfold State.sbufPut
  split
  · exact h0
  · split
    · exact (h0.step (((Frame.refl _ s).rwrap (f := F.CVBUFb_DROP_DROP b) 1 hd).evt (f := sbufOvr b) he)).modSbuf _ _
    · have h1 := ((h0.sramWr (sampPart + s.rget (F.CVBUFb_BASE_PAGE b) * 4096 + 16 * (s.rget (F.CVBUFb_WRIDX_WRIDX b) % s.sbufSize b)) [w0, w1, w2, w3]).step
        ((Frame.refl _ _).rput (f := F.CVBUFb_WRIDX_WRIDX b) (s.rget (F.CVBUFb_WRIDX_WRIDX b) + 1) hw)).modSbuf b
        (fun x => { x with blockT := x.blockT.mapIdx (fun k v => if s.rget (F.CVBUFb_WRIDX_WRIDX b) % 2 ^ k = 0 then (t, coarse) else v) })
      dsimp only
      split
      · exact h1.step ((Frame.refl _ _).emitFl _ _ _ _ _ _ _ _)
      · exact h1

/-- What a conversion's result shows: corrected and limited to twelve bits, with its raw value. -/
theorem satI_twelve (v : Int) : satI v 0 4095 = (min 4095 (max 0 v), decide (v < 0 ∨ 4095 < v)) := by
  unfold satI
  split
  · simp only [Prod.mk.injEq, Bool.true_eq, decide_eq_true_eq]; omega
  · split
    · simp only [Prod.mk.injEq, Bool.true_eq, decide_eq_true_eq]; omega
    · simp only [Prod.mk.injEq, Bool.false_eq, decide_eq_false_iff_not]; omega

theorem convResult_none {s : State} {k : Fin 2} (h : s.conv[k].held = []) (raw : BitVec 12) : s.convResult k raw = s := by
  simp only [State.convResult, h]

/-- The result of the oldest held conversion leaves the queue, shows in LAST, and goes to its buffer and its record. -/
theorem convResult_shows {s : State} {k : Fin 2} {h : ConvHeld} {rest : List ConvHeld} (hh : s.conv[k].held = h :: rest) (raw : BitVec 12) :
    let v := s.correct raw.toNat (0xF0 + 4 * k) (0xF1 + 4 * k)
    let t := s.convResult k raw
    BufFrame (bufRegs ⟨k.val, by omega⟩)
      ((s.modConv k (fun x => { x with held := rest })).setReg (R.CVk_LAST k) (word ((min 4095 (max 0 v)).toNat +
        4096 * b2n (decide (v < 0 ∨ 4095 < v)) + 65536 * raw.toNat + 2 ^ 28 * h.conv.ain))) t := by
  intro v t
  have hput := fun (u : State) tm co w0 w1 w2 w3 => sbufPut_frame u ⟨k.val, by omega⟩ tm co w0 w1 w2 w3
  have ht : t = s.convResult k raw := rfl
  unfold State.convResult at ht
  simp only [hh] at ht
  rw [show 0xF0 + 4 * k.val + 1 = 0xF1 + 4 * k.val by omega, show s.correct raw.toNat (0xF0 + 4 * k.val) (0xF1 + 4 * k.val) = v from rfl,
    satI_twelve] at ht
  rw [ht]
  split
  · exact (hput _ _ _ _ _ _ _).step ((Frame.refl _ _).emitFl _ _ _ _ _ _ _ _)
  · exact hput _ _ _ _ _ _ _

theorem lastReg_apart (k : Fin 2) : reportReg (R.CVk_LAST k) = false ∧ R.CVk_LAST k ∉ bufRegs ⟨k.val, by omega⟩ := by
  refine ⟨reportReg_of_page (by unfold R.CVk_LAST; omega), ?_⟩
  simp only [bufRegs, List.mem_cons, List.not_mem_nil, or_false, R.CVk_LAST, R.CVBUFb_DROP, R.CV_EVT, R.CVBUFb_WRIDX]
  omega

/-! ### Read indices -/

theorem rdidxWrite_beyond {s : State} {b : Fin 6} {v : Word}
    (h : (s.rget (F.CVBUFb_WRIDX_WRIDX b) + 2 ^ 32 - s.rget (F.CVBUFb_RDIDX_RDIDX b)) % 2 ^ 32 < (v.toNat + 2 ^ 32 - s.rget (F.CVBUFb_RDIDX_RDIDX b)) % 2 ^ 32) :
    s.rdidxWrite b v = s.evt F.CV_EVT_CFG_ERR_S := if_pos h

theorem rdidxWrite_taken {s : State} {b : Fin 6} {v : Word}
    (h : ¬ (s.rget (F.CVBUFb_WRIDX_WRIDX b) + 2 ^ 32 - s.rget (F.CVBUFb_RDIDX_RDIDX b)) % 2 ^ 32 < (v.toNat + 2 ^ 32 - s.rget (F.CVBUFb_RDIDX_RDIDX b)) % 2 ^ 32) :
    s.rdidxWrite b v = (s.setReg (R.CVBUFb_RDIDX b) v).sbufSpace b := if_neg h

/-- What a buffer's lost samples become once the read index has moved. -/
theorem sbufSpace_shows (s : State) (b : Fin 6) : Frame [] { s with sbuf := (s.sbufSpace b).sbuf } (s.sbufSpace b) ∧
    (s.sbufSpace b).sbuf[b].lost = if s.sbufFull b then s.sbuf[b].lost else 0 := by
  by_cases h : s.sbuf[b].lost = 0 ∨ s.sbufFull b = true
  · rw [show s.sbufSpace b = s from if_pos h]
    refine ⟨Frame.refl [] s, ?_⟩
    rcases h with h | h
    · rw [h, ite_self]
    · rw [if_pos h]
  · have he : s.sbufSpace b = _ := if_neg h
    have hf : Frame [] (s.modSbuf b (fun x => { x with lost := 0 })) (s.sbufSpace b) := by
      rw [he]
      exact (Frame.refl [] _).emit _ _ _ _ _ _ _ _
    have hb : (s.sbufSpace b).sbuf = (s.modSbuf b (fun x => { x with lost := 0 })).sbuf := hf.core.2.2.2.2.1
    refine ⟨by rw [hb]; exact hf, ?_⟩
    rw [if_neg (fun hx => h (.inr hx)), hb, sbuf_modSbuf_same]

theorem wfld_full (v : Word) : wfld v 0 32 = v.toNat := by
  show (v.toNat >>> 0) % 2 ^ 32 = v.toNat
  exact Nat.mod_eq_of_lt v.isLt

theorem rdidx_page (b : Fin 6) : reportReg (R.CVBUFb_RDIDX b) = false := reportReg_of_page (by unfold R.CVBUFb_RDIDX; omega)

theorem bufCfg_ne (b : Fin 6) : R.CVBUFb_CFG b ≠ R.CVBUFb_RDIDX b := by unfold R.CVBUFb_CFG R.CVBUFb_RDIDX; omega

theorem bufWrite_ne (b : Fin 6) : R.CVBUFb_WRIDX b ≠ R.CVBUFb_RDIDX b := by unfold R.CVBUFb_WRIDX R.CVBUFb_RDIDX; omega

theorem sbufFull_moved (s : State) (b : Fin 6) (v : Word) : (s.setReg (R.CVBUFb_RDIDX b) v).sbufFull b =
    decide (s.ron (F.CVBUFb_CFG_MODE b) = true ∧ (s.rget (F.CVBUFb_WRIDX_WRIDX b) + 2 ^ 32 - v.toNat) % 2 ^ 32 = s.sbufSize b) := by
  have hne : ∀ {f : Fld}, f.reg ≠ R.CVBUFb_RDIDX b → (s.setReg (R.CVBUFb_RDIDX b) v).rget f = s.rget f := fun h => rget_setReg_ne s v h
  have h1 : (s.setReg (R.CVBUFb_RDIDX b) v).rget (F.CVBUFb_RDIDX_RDIDX b) = v.toNat := by
    unfold State.rget
    rw [show (s.setReg (R.CVBUFb_RDIDX b) v).reg (F.CVBUFb_RDIDX_RDIDX b).reg = v from reg_setReg_same _ _ _]
    show wfld v 0 32 = v.toNat
    exact wfld_full v
  unfold State.sbufFull State.sbufSize State.ron
  rw [h1, hne (f := F.CVBUFb_CFG_MODE b) (bufCfg_ne b), hne (f := F.CVBUFb_WRIDX_WRIDX b) (bufWrite_ne b), hne (f := F.CVBUFb_CFG_SIZE b) (bufCfg_ne b)]
  rw [Bool.decide_and, Bool.decide_eq_true]

end Sys2Proof.Machine
end

section
set_option Elab.async false
namespace Sys2Proof
open Sys2Proof.Machine

/-- Settles O35: requests and holds by the room and the instant they find, results and read indices by what they leave. -/
theorem convertersRun : Obligations.ConvertersRun := by
  refine ⟨fun p k ain s hw => ?_, fun k s he => ⟨fun h => ?_, fun q rest hq h => ?_, fun q rest hq => ?_⟩, fun k raw s he => ⟨fun h => ?_, fun h rest hh => ?_⟩,
    fun p b v s hw => ?_⟩
  · refine ⟨s.cvCommand k ain, hostAct_open hw p _ _, fun hr => ?_, fun hr => ?_⟩
    · rw [show s.cvCommand k ain = s.convPush k ⟨ain, 5, s.now + 1, false, none, s.spine.tick, none, false⟩ from if_pos hr]
      exact ⟨rfl, fun _ => rfl, sameBlocks_refl _⟩
    · rw [show s.cvCommand k ain = s.convRefuse k none from if_neg (by rw [hr]; decide)]
      obtain ⟨hf, hc, hevt⟩ := convRefuse_shows s k
      exact ⟨hc, hevt, hf.regs, hf.blocks⟩
  · exact (event_open he (fun s => s.convHold k)).trans (by rw [convHold_waits h])
  · obtain ⟨hf, hc⟩ := convHold_shows hq h
    have hconv : (s.convHold k).conv = (s.sampled k q rest).conv := hf.core.2.2.2.1
    have hk : (s.convHold k).conv[k] = _ := (congrArg (fun v : Vector Converter 2 => v[k]) hconv).trans (conv_modConv_same s k _)
    refine ⟨s.convHold k, event_open he (fun s => s.convHold k), by rw [hk], by rw [hk], by rw [hk], hc, hf.regs, ?_⟩
    rw [hconv]
    exact hf.blocks
  · simp only [State.convTick, hq, Bool.not_eq_true]
  · exact (event_open he (fun s => s.convResult k raw)).trans (by rw [convResult_none h])
  · have hf := convResult_shows hh raw
    have hconv : (s.convResult k raw).conv[k] = _ :=
      (congrArg (fun v : Vector Converter 2 => v[k]) hf.core.2.2.2.1).trans (conv_modConv_same s k (fun x => { x with held := rest }))
    refine ⟨s.convResult k raw, event_open he (fun s => s.convResult k raw), hf.far, hf.core.ch, by rw [hconv], by rw [hconv], ?_⟩
    refine (hf.regs _ (lastReg_apart k).1 (lastReg_apart k).2).trans ?_
    exact reg_setReg_same (s.modConv k (fun x => { x with held := rest })) _ _
  · refine ⟨s.rdidxWrite b v, hostAct_open hw p _ _, fun h => ?_, fun h => ?_⟩
    · rw [rdidxWrite_beyond h]
      have hf : Frame [R.CV_EVT] s (s.evt F.CV_EVT_CFG_ERR_S) := (Frame.refl _ s).evt List.mem_cons_self
      exact ⟨ron_evt _ _ rfl (by decide) (by decide), hf.regs, hf.blocks⟩
    · rw [rdidxWrite_taken h]
      obtain ⟨hf, hl⟩ := sbufSpace_shows (s.setReg (R.CVBUFb_RDIDX b) v) b
      refine ⟨?_, ?_, hf.blocks, ?_⟩
      · exact (hf.regs _ (rdidx_page b) List.not_mem_nil).trans (reg_setReg_same s _ _)
      · intro o ho hno
        exact (hf.regs o ho List.not_mem_nil).trans (reg_setReg_ne s v (fun e => hno (by rw [e]; exact List.mem_cons_self)))
      · rw [hl, sbufFull_moved]
        simp only [decide_eq_true_eq]
        rfl

end Sys2Proof
end

section
/-!
SUPPORT. The record writer: what a ring takes and refuses, and its head copy (R17, R235, R238, R243, R244).
-/
set_option Elab.async false
namespace Sys2Proof.Machine
open Sys2Proof

/-! ### The waiting records -/

theorem ecAssign_recq (s : State) (n : Nat) : (s.ecAssign n).recq = s.recq := by
  unfold State.ecAssign State.msixSend
  dsimp only
  split
  · split
    · rfl
    · split
      · split
        · split <;> rfl
        · rfl
      · rfl
  · rfl

theorem evt_recq (s : State) (f : Fld) : (s.evt f).recq = s.recq := by
  unfold State.evt State.ecEdge
  split
  · rfl
  · split
    · rfl
    · dsimp only
      split
      · rfl
      · split
        · rfl
        · exact ecAssign_recq _ _

theorem ecLevel_recq (s : State) (n : Nat) : (s.ecLevel n).recq = s.recq := by
  unfold State.ecLevel
  dsimp only
  split
  · rfl
  · split
    · split
      · rfl
      · exact ecAssign_recq _ _
    · rfl

/-- A record on its way leaves those that wait, and may join them. -/
theorem emitFl_recq (s : State) (type src t fl : Nat) (w4 w5 w6 w7 : Word) : ∀ x ∈ s.recq, x ∈ (s.emitFl type src t fl w4 w5 w6 w7).recq := by
  have hf : (s.faultLog type src t fl w4 w5 w6 w7).recq = s.recq := by unfold State.faultLog; split <;> rfl
  have hk : ((s.faultLog type src t fl w4 w5 w6 w7).recordKick type src).recq = s.recq := by unfold State.recordKick; split <;> exact hf
  have he : ∀ (u : State) (r : Option Nat), ∀ x ∈ u.recq, x ∈ (u.emitTo r type src t fl w4 w5 w6 w7).recq := fun u r x hx => by
    unfold State.emitTo
    split
    · split
      · exact List.mem_append_left _ hx
      · exact hx
    · exact hx
  intro x hx
  exact he _ _ x (by rw [hk]; exact hx)

/-! ### Changes of the rings -/

/-- Nothing but the rings, SRAM, host memory and some registers has changed. -/
def RingFrame (os : List Nat) (s t : State) : Prop := Frame os { s with rings := t.rings, sram := t.sram, host := t.host } t

theorem RingFrame.refl (os : List Nat) (s : State) : RingFrame os s s := Frame.refl os s

section
variable {os : List Nat} {s t : State} (h : RingFrame os s t)
include h

theorem RingFrame.step {u : State} (hu : Frame os t u) : RingFrame os s u := by
  have hb : u.rings = t.rings := hu.far.rings
  have hm : u.sram = t.sram := hu.core.sram
  have hh : u.host = t.host := hu.far.host
  unfold RingFrame
  rw [hb, hm, hh]
  exact Frame.trans h hu

theorem RingFrame.rehost (x : Tbl Byte) : RingFrame os s { t with host := x } := Frame.rehost h x

theorem RingFrame.resram (x : Tbl Byte) : RingFrame os s { t with sram := x } :=
  ⟨h.regs, h.far, h.core.1, h.core.2.1, h.core.2.2.1, h.core.2.2.2.1, h.core.2.2.2.2.1, rfl, h.core.free⟩

theorem RingFrame.modRing (n : Fin 64) (f : Ring → Ring) : RingFrame os s (t.modRing n f) := by
  obtain ⟨hr, ⟨hstaged, hpcie, hspi, hspine, hbanks, hotp, hcalU, hcalS, hlayout, hap, hrings, hlehr, hel, hlatchP, hlatchS, howed,
    hfn, hhif, hload, hfrz, hpsq, hwdg, hlink, hsaved, hretEc, hleave, hcorr, hrecal, hage, hsample, hlife, hhost, hpending⟩, hcore⟩ := h
  exact ⟨hr, ⟨hstaged, hpcie, hspi, hspine, hbanks, hotp, hcalU, hcalS, hlayout, hap, rfl, hlehr, hel, hlatchP, hlatchS, howed,
    hfn, hhif, hload, hfrz, hpsq, hwdg, hlink, hsaved, hretEc, hleave, hcorr, hrecal, hage, hsample, hlife, hhost, hpending⟩, hcore⟩

theorem RingFrame.requeue (q : List Rec) : RingFrame os s { t with recq := q } := h

theorem RingFrame.headCopy (n : Nat) : RingFrame os s (t.headCopy n) := by
  rw [headCopy_eq]
  exact RingFrame.rehost h _

theorem RingFrame.trans {u : State} (h' : RingFrame os t u) : RingFrame os s u :=
  Frame.trans (s := { s with rings := u.rings, sram := u.sram, host := u.host }) (t := { t with rings := u.rings, sram := u.sram, host := u.host })
    (by
      obtain ⟨hr, ⟨hstaged, hpcie, hspi, hspine, hbanks, hotp, hcalU, hcalS, hlayout, hap, hrings, hlehr, hel, hlatchP, hlatchS, howed,
        hfn, hhif, hload, hfrz, hpsq, hwdg, hlink, hsaved, hretEc, hleave, hcorr, hrecal, hage, hsample, hlife, hhost, hpending⟩,
        hch, hg, ho, hc, hsb, -, hfree⟩ := h
      exact ⟨hr, ⟨hstaged, hpcie, hspi, hspine, hbanks, hotp, hcalU, hcalS, hlayout, hap, rfl, hlehr, hel, hlatchP, hlatchS, howed,
        hfn, hhif, hload, hfrz, hpsq, hwdg, hlink, hsaved, hretEc, hleave, hcorr, hrecal, hage, hsample, hlife, rfl, hpending⟩,
        hch, hg, ho, hc, hsb, rfl, hfree⟩) h'

theorem RingFrame.only : onlyRings s t := Frame.blocks h

end

/-! ### The head copy -/

theorem withCopy_of_regs {t u : State} {n : Fin 64} (h : ∀ o, 0x30000 ≤ o → u.reg o = t.reg o) (m : Tbl Byte) : withCopy u n m = withCopy t n m := by
  have hr : ∀ f : Fld, 0x30000 ≤ f.reg → u.rget f = t.rget f := fun f hf => rget_of_reg (h f.reg hf)
  have hcfg : 0x30000 ≤ R.RINGn_CFG n := by unfold R.RINGn_CFG; omega
  simp only [withCopy, State.ringOnChip, State.ron, hr (F.RINGn_CFG_HIDX_EN n) hcfg, hr (F.RINGn_CFG_LOC n) hcfg,
    h (R.RINGn_HADDR_LO n) (by unfold R.RINGn_HADDR_LO; omega), h (R.RINGn_HADDR_HI n) (by unfold R.RINGn_HADDR_HI; omega),
    h (R.RINGn_HEAD n) (by unfold R.RINGn_HEAD; omega), h (R.RINGn_LOSTCNT n) (by unfold R.RINGn_LOSTCNT; omega)]
  rfl

/-- The head copy of an event ring. -/
theorem headCopy_host {s : State} {n : Fin 64} (h : s.eventRing n = true) : (s.headCopy n).host = withCopy s n s.host := by
  have hd : s.ron (F.RINGn_CFG_DIR n) = false := by
    have := h
    simp only [State.eventRing, Bool.and_eq_true, Bool.not_eq_true'] at this
    exact this.2
  unfold State.headCopy withCopy
  simp only [hd, Bool.not_eq_true, Bool.false_eq_true, if_false]
  split <;> rfl

/-! ### A record taken -/

theorem ringCfg_same {s t : State} {n : Fin 64} (h : t.reg (R.RINGn_CFG n) = s.reg (R.RINGn_CFG n)) :
    t.eventRing n = s.eventRing n ∧ t.ringOnChip n = s.ringOnChip n := by
  have he : t.rget (F.RINGn_CFG_EN n) = s.rget (F.RINGn_CFG_EN n) := rget_of_reg h
  have hd : t.rget (F.RINGn_CFG_DIR n) = s.rget (F.RINGn_CFG_DIR n) := rget_of_reg h
  have hl : t.rget (F.RINGn_CFG_LOC n) = s.rget (F.RINGn_CFG_LOC n) := rget_of_reg h
  simp only [State.eventRing, State.ringOnChip, State.ron, he, hd, hl, and_self]

theorem cfg_ne_head (n : Fin 64) : R.RINGn_CFG n ≠ R.RINGn_HEAD n := by unfold R.RINGn_CFG R.RINGn_HEAD; omega

/-- A record that goes into its ring at the head. -/
theorem ringPut_shows {s : State} {n : Fin 64} (he : s.eventRing n = true) (ws : List Word) :
    let t := s.ringPut n ws
    RingFrame [R.RINGn_HEAD n] s t ∧ t.recq = s.recq ∧ t.rget (F.RINGn_HEAD_HEAD n) = (s.rget (F.RINGn_HEAD_HEAD n) + 1) % 2 ^ 32 ∧
      entryWritten s t n (s.rget (F.RINGn_HEAD_HEAD n)) ws ∧ t.rings = s.rings := by
  intro t
  obtain ⟨v, hv, hvf, hvq, hvreg, hvm, hvr⟩ : ∃ v : State, v = s.ringStore n (s.rget (F.RINGn_HEAD_HEAD n)) ws ∧ RingFrame [R.RINGn_HEAD n] s v ∧ v.recq = s.recq ∧
      v.regs = s.regs ∧ (if s.ringOnChip n then v.sram = memWrWs s.sram (s.ringAddr n (s.rget (F.RINGn_HEAD_HEAD n))) ws ∧ v.host = s.host
        else v.sram = s.sram ∧ v.host = memWrWs s.host (s.ringAddr n (s.rget (F.RINGn_HEAD_HEAD n))) ws) ∧ v.rings = s.rings := by
    refine ⟨_, rfl, ?_⟩
    unfold State.ringStore
    split
    · exact ⟨(RingFrame.refl _ s).resram _, rfl, rfl, ⟨rfl, rfl⟩, rfl⟩
    · exact ⟨(RingFrame.refl _ s).rehost _, rfl, rfl, ⟨rfl, rfl⟩, rfl⟩
  have hw : RingFrame [R.RINGn_HEAD n] s (v.rwrap (F.RINGn_HEAD_HEAD n) 1) := hvf.step ((Frame.refl _ v).rwrap 1 List.mem_cons_self)
  have hc := hw.headCopy n
  have hl := hc.step (ecLevel_frame (Frame.refl [] _ |>.mono (by simp)) n)
  have ht : t = ((v.rwrap (F.RINGn_HEAD_HEAD n) 1).headCopy n).ecLevel n := by rw [hv]; rfl
  have hcq : ((v.rwrap (F.RINGn_HEAD_HEAD n) 1).headCopy n).recq = v.recq := by rw [headCopy_eq]; rfl
  have hcs : ((v.rwrap (F.RINGn_HEAD_HEAD n) 1).headCopy n).sram = v.sram := by rw [headCopy_eq]; rfl
  have hcr : ((v.rwrap (F.RINGn_HEAD_HEAD n) 1).headCopy n).rings = v.rings := by rw [headCopy_eq]; rfl
  have hreg : ∀ o, t.reg o = (v.rwrap (F.RINGn_HEAD_HEAD n) 1).reg o := fun o => by rw [ht, reg_ecLevel, headCopy_eq]; rfl
  have hlev : Frame [] ((v.rwrap (F.RINGn_HEAD_HEAD n) 1).headCopy n) t := by rw [ht]; exact ecLevel_frame (Frame.refl [] _) n
  refine ⟨by rw [ht]; exact hl, ?_, ?_, ?_, ?_⟩
  · rw [ht, ecLevel_recq, hcq, hvq]
  · rw [rget_of_reg (hreg _), rget_rwrap_same v (F.RINGn_HEAD_HEAD n) 1 (by decide : (0 : Nat) + 32 ≤ 32), rget_of_regs hvreg]
    rfl
  · have hs : t.sram = v.sram := hlev.core.sram.trans hcs
    have hh : t.host = ((v.rwrap (F.RINGn_HEAD_HEAD n) 1).headCopy n).host := hlev.far.host
    have hev : (v.rwrap (F.RINGn_HEAD_HEAD n) 1).eventRing n = true := by
      rw [← he]
      exact (ringCfg_same ((reg_rput_ne v _ (cfg_ne_head n)).trans (by simp only [State.reg, hvreg]))).1
    have hchip : (v.rwrap (F.RINGn_HEAD_HEAD n) 1).ringOnChip n = s.ringOnChip n := by
      exact (ringCfg_same ((reg_rput_ne v _ (cfg_ne_head n)).trans (by simp only [State.reg, hvreg]))).2
    unfold entryWritten
    split at hvm
    case isTrue h =>
      rw [if_pos h]
      exact ⟨hs.trans hvm.1, by rw [hh, headCopy_onChip (hchip.trans h)]; exact hvm.2⟩
    case isFalse h =>
      rw [if_neg h]
      refine ⟨hs.trans hvm.1, ?_⟩
      rw [hh, headCopy_host hev, withCopy_of_regs (fun o _ => hreg o)]
      exact congrArg _ hvm.2
  · exact hlev.far.rings.trans (hcr.trans hvr)

/-! ### A record refused -/

/-- The registers of a refusal: the ring's counts and events, and those of the Lehr, whose deadline record it can be. -/
def refusedRegs (n : Fin 64) : List Nat := [R.RINGn_LOSTCNT n, R.RINGn_REFUSED n, R.RINGn_EVT n, R.LH_REFUSED, R.LH_EVT]

/-- The state in which a ring has counted and noted a refusal. -/
def State.refusalNoted (s : State) (n : Fin 64) (r : Rec) : State :=
  (((s.rsat (F.RINGn_LOSTCNT_CNT n) 1).rwrap (F.RINGn_REFUSED_CNT n) 1).evt (F.RINGn_EVT_LOST_S n)).modRing n (fun x =>
    { x with first := some (x.first.getD ⟨r.src, r.type, r.seq⟩), last := some ⟨r.src, r.type, r.seq⟩
             firstNs := if x.first.isSome then x.firstNs else s.nowNs })

/-- The Lehr counts a refused deadline record. -/
def State.lehrRefused (s : State) (r : Rec) : State :=
  if r.type = 0x14 then (s.rwrap F.LH_REFUSED_REFUSED 1).evt F.LH_EVT_REFUSED_S else s

/-- A refused mailbox part marks the later ones. -/
def State.partsMarked (s : State) (r : Rec) : State := if r.type = 0x27 ∧ nbit r.flags 4 then { s with recq := truncParts s.recq } else s

theorem ringRefuse_eq (s : State) (n : Fin 64) (r : Rec) :
    s.ringRefuse n r = (((s.refusalNoted n r).lostCopy n).lehrRefused r).partsMarked r := rfl

theorem lehrRefused_shows (s : State) (r : Rec) : Frame [R.LH_REFUSED, R.LH_EVT] s (s.lehrRefused r) ∧ (s.lehrRefused r).recq = s.recq := by
  unfold State.lehrRefused
  split
  · exact ⟨((Frame.refl _ s).rwrap (f := F.LH_REFUSED_REFUSED) 1 List.mem_cons_self).evt (f := F.LH_EVT_REFUSED_S) (List.mem_cons_of_mem _ List.mem_cons_self),
      evt_recq _ _⟩
  · exact ⟨Frame.refl _ s, rfl⟩

theorem partsMarked_shows (s : State) (r : Rec) : (∃ q, s.partsMarked r = { s with recq := q }) ∧ (r.type ≠ 0x27 → s.partsMarked r = s) := by
  unfold State.partsMarked
  split
  case isTrue h => exact ⟨⟨_, rfl⟩, fun hn => absurd h.1 hn⟩
  case isFalse h => exact ⟨⟨s.recq, rfl⟩, fun _ => rfl⟩

/-- What follows a refusal is the Lehr's count, and the marks of a mailbox's parts. -/
theorem refusalSpread_shows (s : State) (r : Rec) : Frame [R.LH_REFUSED, R.LH_EVT] s ((s.lehrRefused r).partsMarked r) ∧
    (r.type ≠ 0x27 → ((s.lehrRefused r).partsMarked r).recq = s.recq) := by
  obtain ⟨hf, hq⟩ := lehrRefused_shows s r
  obtain ⟨⟨q, hp⟩, hn⟩ := partsMarked_shows (s.lehrRefused r) r
  exact ⟨by rw [hp]; exact hf, fun h => by rw [hn h, hq]⟩

/-- A register of a ring is none of the Lehr's, and no report. -/
theorem ringReg_apart {o : Nat} (h : 0x30000 ≤ o) : reportReg o = false ∧ o ∉ [R.LH_REFUSED, R.LH_EVT] := by
  refine ⟨reportReg_of_page (by omega), ?_⟩
  simp only [List.mem_cons, List.not_mem_nil, or_false, R.LH_REFUSED, R.LH_EVT]
  omega

theorem ringRegs_apart (n : Fin 64) : R.RINGn_LOSTCNT n ≠ R.RINGn_REFUSED n ∧ R.RINGn_LOSTCNT n ≠ R.RINGn_EVT n ∧ R.RINGn_REFUSED n ≠ R.RINGn_EVT n ∧
    R.RINGn_REFUSED n ≠ R.RINGn_LOSTCNT n := by
  unfold R.RINGn_LOSTCNT R.RINGn_REFUSED R.RINGn_EVT
  omega

theorem stat_page (n : Fin 64) : 0x30000 ≤ R.RINGn_STAT n := by unfold R.RINGn_STAT; omega

theorem lost_page (n : Fin 64) : 0x30000 ≤ R.RINGn_LOSTCNT n := by unfold R.RINGn_LOSTCNT; omega

theorem refused_page (n : Fin 64) : 0x30000 ≤ R.RINGn_REFUSED n := by unfold R.RINGn_REFUSED; omega

theorem hosterr_apart (n : Fin 64) : R.RINGn_LOSTCNT n ∉ [R.RINGn_STAT n, R.RINGn_EVT n] ∧ R.RINGn_REFUSED n ∉ [R.RINGn_STAT n, R.RINGn_EVT n] := by
  simp only [List.mem_cons, List.not_mem_nil, or_false, R.RINGn_LOSTCNT, R.RINGn_REFUSED, R.RINGn_STAT, R.RINGn_EVT]
  omega

theorem stat_apart (n : Fin 64) : R.RINGn_STAT n ∉ [R.RINGn_LOSTCNT n, R.RINGn_REFUSED n, R.RINGn_EVT n] := by
  simp only [List.mem_cons, List.not_mem_nil, or_false, R.RINGn_STAT, R.RINGn_LOSTCNT, R.RINGn_REFUSED, R.RINGn_EVT]
  omega

theorem cfg_apart (n : Fin 64) : R.RINGn_CFG n ∉ [R.RINGn_LOSTCNT n, R.RINGn_REFUSED n, R.RINGn_EVT n] := by
  simp only [List.mem_cons, List.not_mem_nil, or_false, R.RINGn_CFG, R.RINGn_LOSTCNT, R.RINGn_REFUSED, R.RINGn_EVT]
  omega

theorem Far.fn {s t : State} (h : Far s t) : t.fn = s.fn := by
  obtain ⟨-, -, -, -, -, -, -, -, -, -, -, -, -, -, -, -, hfn, -⟩ := h
  exact hfn

/-- What a refusal notes. -/
theorem refusalNoted_shows (s : State) (n : Fin 64) (r : Rec) : let t := s.refusalNoted n r
    RingFrame [R.RINGn_LOSTCNT n, R.RINGn_REFUSED n, R.RINGn_EVT n] s t ∧ countedOne s t (F.RINGn_LOSTCNT_CNT n) ∧
      t.rget (F.RINGn_REFUSED_CNT n) = (s.rget (F.RINGn_REFUSED_CNT n) + 1) % 2 ^ 32 ∧ t.ron (F.RINGn_EVT_LOST_S n) = true ∧
      t.rings[n].last = some ⟨r.src, r.type, r.seq⟩ ∧ t.recq = s.recq ∧ t.sram = s.sram ∧ t.host = s.host := by
  intro t
  obtain ⟨h12, h13, h23, h21⟩ := ringRegs_apart n
  have hpage : ∀ o, 0x30000 ≤ o → reportReg o = false := fun o ho => (ringReg_apart ho).1
  have hl : 0x30000 ≤ R.RINGn_LOSTCNT n := by unfold R.RINGn_LOSTCNT; omega
  have hr : 0x30000 ≤ R.RINGn_REFUSED n := by unfold R.RINGn_REFUSED; omega
  have hev : 0x30000 ≤ R.RINGn_EVT n := by unfold R.RINGn_EVT; omega
  obtain ⟨u, hu⟩ : ∃ u, u = ((s.rsat (F.RINGn_LOSTCNT_CNT n) 1).rwrap (F.RINGn_REFUSED_CNT n) 1).evt (F.RINGn_EVT_LOST_S n) := ⟨_, rfl⟩
  have hf : Frame [R.RINGn_LOSTCNT n, R.RINGn_REFUSED n, R.RINGn_EVT n] s u := by
    rw [hu]
    exact (((Frame.refl _ s).rsat 1 (by simp [F.RINGn_LOSTCNT_CNT])).rwrap 1 (by simp [F.RINGn_REFUSED_CNT])).evt (by simp [F.RINGn_EVT_LOST_S])
  have ht : t = u.modRing n (fun x => { x with first := some (x.first.getD ⟨r.src, r.type, r.seq⟩), last := some ⟨r.src, r.type, r.seq⟩, firstNs := if x.first.isSome then x.firstNs else s.nowNs }) := by
    rw [hu]; rfl
  have hcount : u.rget (F.RINGn_LOSTCNT_CNT n) = min (s.rget (F.RINGn_LOSTCNT_CNT n) + 1) (2 ^ 32 - 1) := by
    rw [hu, rget_evt_ne _ (hpage _ hl) h13, rget_rwrap_ne _ _ h12, rget_rsat_same s (F.RINGn_LOSTCNT_CNT n) 1 (by decide : (0 : Nat) + 32 ≤ 32)]
    rfl
  have hrefused : u.rget (F.RINGn_REFUSED_CNT n) = (s.rget (F.RINGn_REFUSED_CNT n) + 1) % 2 ^ 32 := by
    rw [hu, rget_evt_ne _ (hpage _ hr) h23, rget_rwrap_same _ (F.RINGn_REFUSED_CNT n) 1 (by decide : (0 : Nat) + 32 ≤ 32), rget_rsat_ne s 1 h21]
    rfl
  have hlost : u.ron (F.RINGn_EVT_LOST_S n) = true := by
    rw [hu]
    exact ron_evt _ _ rfl (by decide : (0 : Nat) + 1 ≤ 32) (hpage _ hev)
  have hq : u.recq = s.recq := by rw [hu, evt_recq]; rfl
  rw [ht]
  refine ⟨(RingFrame.step (RingFrame.refl _ s) hf).modRing n _, hcount, hrefused, hlost, ?_, hq, hf.core.sram, hf.far.host⟩
  rw [ring_modRing_same]

/-- What a ring does with a record that it refuses. -/
theorem ringRefuse_shows (s : State) (n : Fin 64) (r : Rec) : let t := s.ringRefuse n r
    RingFrame (refusedRegs n) s t ∧ countedOne s t (F.RINGn_LOSTCNT_CNT n) ∧
      t.rget (F.RINGn_REFUSED_CNT n) = (s.rget (F.RINGn_REFUSED_CNT n) + 1) % 2 ^ 32 ∧ t.ron (F.RINGn_EVT_LOST_S n) = true ∧
      t.rings[n].last = some ⟨r.src, r.type, r.seq⟩ ∧ (r.type ≠ 0x27 → t.recq = s.recq) ∧ t.sram = s.sram ∧
      t.host = (if s.eventRing n = true ∧ s.ringStopped n = false ∧ s.hostOpen = true then withCopy t n s.host else s.host) := by
  intro t
  obtain ⟨hf, hcount, hrefused, hlost, hlast, hq, hm, hh⟩ := refusalNoted_shows s n r
  obtain ⟨u, hu⟩ : ∃ u, u = s.refusalNoted n r := ⟨_, rfl⟩
  rw [← hu] at hf hcount hrefused hlost hlast hq hm hh
  obtain ⟨hsp, hspq⟩ := refusalSpread_shows (u.lostCopy n) r
  have ht : t = ((u.lostCopy n).lehrRefused r).partsMarked r := by rw [hu]; rfl
  rw [← ht] at hsp hspq
  have hcopy : u.lostCopy n = { u with host := (u.lostCopy n).host } := by
    unfold State.lostCopy
    split
    · exact headCopy_eq u n
    · rfl
  have hreg : ∀ o, 0x30000 ≤ o → t.reg o = u.reg o := fun o ho =>
    (hsp.regs o (ringReg_apart ho).1 (ringReg_apart ho).2).trans (by rw [hcopy]; rfl)
  have hgetR : ∀ f : Fld, 0x30000 ≤ f.reg → t.rget f = u.rget f := fun f hf => rget_of_reg (hreg f.reg hf)
  have hcf : RingFrame [R.RINGn_LOSTCNT n, R.RINGn_REFUSED n, R.RINGn_EVT n] s (u.lostCopy n) := by rw [hcopy]; exact hf.rehost _
  have hcr : (u.lostCopy n).rings = u.rings := by rw [hcopy]
  have hcq : (u.lostCopy n).recq = u.recq := by rw [hcopy]
  have hcs : (u.lostCopy n).sram = u.sram := by rw [hcopy]
  have hstat : u.ringStopped n = s.ringStopped n := by
    have : u.rget (F.RINGn_STAT_ERR n) = s.rget (F.RINGn_STAT_ERR n) := rget_of_reg (hf.regs _ (ringReg_apart (stat_page n)).1 (stat_apart n))
    simp only [State.ringStopped, this]
  have hev : u.eventRing n = s.eventRing n := (ringCfg_same (hf.regs _ (ringReg_apart (by unfold R.RINGn_CFG; omega)).1 (cfg_apart n))).1
  have hopen : u.hostOpen = s.hostOpen := by
    have := Far.fn (Frame.far hf)
    simp only [State.hostOpen, this]
  refine ⟨RingFrame.step (Frame.mono hcf (by simp [refusedRegs])) (hsp.mono (by simp [refusedRegs])), ?_, ?_, ?_, ?_, fun h => ?_, ?_, ?_⟩
  · exact (hgetR (F.RINGn_LOSTCNT_CNT n) (by show 0x30000 ≤ R.RINGn_LOSTCNT n; unfold R.RINGn_LOSTCNT; omega)).trans hcount
  · exact (hgetR (F.RINGn_REFUSED_CNT n) (by show 0x30000 ≤ R.RINGn_REFUSED n; unfold R.RINGn_REFUSED; omega)).trans hrefused
  · exact (ron_of_rget_eq (hgetR (F.RINGn_EVT_LOST_S n) (by show 0x30000 ≤ R.RINGn_EVT n; unfold R.RINGn_EVT; omega))).trans hlost
  · rw [hsp.far.rings, hcr, hlast]
  · rw [hspq h, hcq, hq]
  · rw [hsp.core.sram, hcs, hm]
  · rw [hsp.far.host, withCopy_of_regs hreg, ← hev, ← hstat, ← hopen, ← hh]
    unfold State.lostCopy
    by_cases h : u.eventRing n = true ∧ u.ringStopped n = false ∧ u.hostOpen = true
    · rw [if_pos h, if_pos ⟨h.1, by rw [h.2.1]; decide, h.2.2⟩, headCopy_host h.1]
    · rw [if_neg h, if_neg (fun hx => h ⟨hx.1, by simpa using hx.2.1, hx.2.2⟩)]

end Sys2Proof.Machine
end

section
/-!
SUPPORT. What follows when the record writer leaves its ceiling: threads that wait are woken, and channels hand over what they hold back
(R25, R75, R102, R135).
-/
set_option Elab.async false
namespace Sys2Proof.Machine
open Sys2Proof

/-! ### Channels that hand over their records -/

/-- Channels have handed over records: only channels, reports, and records behind those that wait have changed. -/
def HandsOver (s t : State) : Prop := Frame [] { s with ch := t.ch } t ∧ ∀ x ∈ s.recq, x ∈ t.recq

theorem HandsOver.refl (s : State) : HandsOver s s := ⟨Frame.refl [] s, fun _ h => h⟩

section
variable {s t : State} (h : HandsOver s t)
include h

theorem HandsOver.emitFl (type src tm fl : Nat) (w4 w5 w6 w7 : Word) : HandsOver s (t.emitFl type src tm fl w4 w5 w6 w7) := by
  have hf : Frame [] t (t.emitFl type src tm fl w4 w5 w6 w7) := (Frame.refl [] t).emitFl _ _ _ _ _ _ _ _
  refine ⟨?_, fun x hx => emitFl_recq t _ _ _ _ _ _ _ _ x (h.2 x hx)⟩
  rw [hf.core.ch]
  exact h.1.trans hf

theorem HandsOver.modCh (c : Fin 96) (f : Channel → Channel) : HandsOver s (t.modCh c f) :=
  ⟨⟨h.1.regs, h.1.far, rfl, h.1.core.2⟩, h.2⟩

theorem HandsOver.trans {u : State} (h' : HandsOver t u) : HandsOver s u := by
  refine ⟨?_, fun x hx => h'.2 x (h.2 x hx)⟩
  have h1 : Frame [] { s with ch := u.ch } { t with ch := u.ch } := ⟨h.1.regs, h.1.far, rfl, h.1.core.2⟩
  exact h1.trans h'.1

end

theorem stageRun_handsOver {s t : State} (h : HandsOver s t) (c : Fin 96) (rs : List ChRec) : HandsOver s (t.stageRun c rs).1 := by
  induction rs generalizing t with
  | nil => exact h
  | cons r rs ih =>
    unfold State.stageRun
    split
    · exact ih (h.emitFl _ _ _ _ _ _ _ _)
    · exact ih h

theorem stagePump_handsOver {s t : State} (h : HandsOver s t) (c : Fin 96) : HandsOver s (t.stagePump c) := by
  unfold State.stagePump
  split
  · exact h
  · exact (stageRun_handsOver h c _).modCh c _

theorem capRecord_handsOver {s t : State} (h : HandsOver s t) (c : Fin 96) (k : Bool) : HandsOver s (t.capRecord c k) := by
  unfold State.capRecord
  split
  · exact h
  · split
    · exact (h.modCh c _).emitFl _ _ _ _ _ _ _ _
    · exact h

theorem capStep_handsOver {s t : State} (h : HandsOver s t) (c : Fin 96) (k : Bool) : HandsOver s (t.capStep c k) := by
  rcases capStep_eq t c k with he | ⟨p, he⟩
  · rw [he]; exact capRecord_handsOver h c k
  · rw [he]; exact (capRecord_handsOver h c k).modCh c _

theorem capPump_handsOver {s t : State} (h : HandsOver s t) (c : Fin 96) : HandsOver s (t.capPump c) :=
  pin_foldl (P := HandsOver s) _ _ (fun _ k ha => capStep_handsOver ha c k) h

theorem pumps_handOver (s : State) :
    HandsOver s ((List.finRange 96).foldl (fun (a : State) (c : Fin 96) => (a.stagePump c).capPump c) s) :=
  pin_foldl (P := HandsOver s) _ _ (fun _ c ha => capPump_handsOver (stagePump_handsOver ha c) c) (HandsOver.refl s)

/-! ### Threads that wait for space -/

/-- What a wake for space makes of a thread: one that waits for it is woken. -/
def Thread.spaced (t : Thread) (of : SpaceOf) (now : Nat) : Thread := if t.state = .parked ∧ t.park = .space of then t.woken now 10 else t

/-- The step of a wake for space at one thread. -/
def State.spaceAt (s : State) (e : Fin 8) (of : SpaceOf) (n : Fin 16) : State :=
  if (s.thr e n).state = .parked ∧ (s.thr e n).park = .space of then s.wake e n 10 else s

theorem spaceAt_thr (s : State) (e : Fin 8) (of : SpaceOf) (n : Fin 16) : (s.spaceAt e of n).thr e n = (s.thr e n).spaced of s.now := by
  unfold State.spaceAt Thread.spaced
  split
  · rw [wake_eq, thr_modThr_same]
  · rfl

theorem spaceAt_thr_ne (s : State) (e : Fin 8) (of : SpaceOf) {n h : Fin 16} (hn : h ≠ n) : (s.spaceAt e of n).thr e h = s.thr e h := by
  unfold State.spaceAt
  split
  · rw [wake_eq, thr_modThr_ne _ _ _ hn]
  · rfl

theorem spaceAt_now (s : State) (e : Fin 8) (of : SpaceOf) (n : Fin 16) : (s.spaceAt e of n).now = s.now := by
  unfold State.spaceAt
  split
  · rw [wake_eq]; rfl
  · rfl

theorem spaceAt_other (s : State) {e d : Fin 8} (of : SpaceOf) (n : Fin 16) (hd : d ≠ e) : (s.spaceAt e of n).gaf[d] = s.gaf[d] := by
  unfold State.spaceAt
  split
  · rw [wake_eq]; exact gaf_modGaf_ne s _ hd
  · rfl

theorem spaces_thr (of : SpaceOf) (e : Fin 8) (ns : List (Fin 16)) (hns : ns.Nodup) (s : State) (h : Fin 16) :
    (ns.foldl (fun s n => s.spaceAt e of n) s).thr e h = if h ∈ ns then (s.thr e h).spaced of s.now else s.thr e h := by
  induction ns generalizing s with
  | nil => rfl
  | cons n ns ih =>
    obtain ⟨hn, hns⟩ := List.nodup_cons.1 hns
    rw [List.foldl_cons, ih hns, spaceAt_now]
    by_cases hh : h = n
    · subst hh
      rw [if_neg hn, if_pos List.mem_cons_self, spaceAt_thr]
    · rw [spaceAt_thr_ne s e of hh]
      simp only [List.mem_cons, hh, false_or]

/-- A wake for space in a Gaffer. -/
theorem wakeSpace_thr (s : State) (e : Fin 8) (of : SpaceOf) (h : Fin 16) : (s.wakeSpace e of).thr e h = (s.thr e h).spaced of s.now :=
  (spaces_thr of e (List.finRange 16) (List.nodup_finRange 16) s h).trans (if_pos (List.mem_finRange h))

theorem wakeSpace_now (s : State) (e : Fin 8) (of : SpaceOf) : (s.wakeSpace e of).now = s.now :=
  pin_foldl (P := fun t : State => t.now = s.now) _ _ (fun t n ht => (spaceAt_now t e of n).trans ht) rfl

theorem wakeSpace_other (s : State) {e d : Fin 8} (of : SpaceOf) (hd : d ≠ e) : (s.wakeSpace e of).gaf[d] = s.gaf[d] :=
  pin_foldl (P := fun t : State => t.gaf[d] = s.gaf[d]) _ _ (fun t n ht => (spaceAt_other t of n hd).trans ht) rfl

theorem wakeSpaces_thr (of : SpaceOf) (es : List (Fin 8)) (hes : es.Nodup) (s : State) (e : Fin 8) (h : Fin 16) :
    (es.foldl (fun s e => s.wakeSpace e of) s).thr e h = if e ∈ es then (s.thr e h).spaced of s.now else s.thr e h := by
  induction es generalizing s with
  | nil => rfl
  | cons d es ih =>
    obtain ⟨hd, hes⟩ := List.nodup_cons.1 hes
    rw [List.foldl_cons, ih hes, wakeSpace_now]
    by_cases he : e = d
    · subst he
      rw [if_neg hd, if_pos List.mem_cons_self, wakeSpace_thr]
    · have hg : (s.wakeSpace d of).thr e h = s.thr e h := congrArg (fun g : Gaffer => g.thr[h]) (wakeSpace_other s of he)
      rw [hg]
      simp only [List.mem_cons, he, false_or]

/-- A record writer with room wakes the threads that wait for it. -/
theorem wakeWriter_thr (s : State) (e : Fin 8) (h : Fin 16) : s.wakeWriter.thr e h = (s.thr e h).spaced .writer s.now :=
  (wakeSpaces_thr .writer (List.finRange 8) (List.nodup_finRange 8) s e h).trans (if_pos (List.mem_finRange e))

theorem woken_space {t : Thread} {of : SpaceOf} (hp : t.state = .parked) (hs : t.park = .space of) (now : Nat) :
    nbit (t.woken now 10).pend.toNat 10 = true ∧ (nbit t.pend.toNat 10 = false → (t.woken now 10).state = .ready) := by
  refine ⟨woken_pend t now (by decide), fun hb => ?_⟩
  unfold Thread.woken
  rw [if_neg (by rw [hb]; decide), if_pos ⟨hp, by rw [hs]; rfl⟩]

/-- The memories, the rings and the queue of records of one state are another's. -/
def RingsAlike (s t : State) : Prop := t.rings = s.rings ∧ t.sram = s.sram ∧ t.host = s.host ∧ t.recq = s.recq

theorem wake_ringsAlike {s t : State} (h : RingsAlike s t) (e : Fin 8) (n : Fin 16) (bit : Nat) : RingsAlike s (t.wake e n bit) := by
  rw [wake_eq]
  exact h

theorem wakeSpace_ringsAlike {s t : State} (h : RingsAlike s t) (e : Fin 8) (of : SpaceOf) : RingsAlike s (t.wakeSpace e of) :=
  pin_foldl (P := RingsAlike s) _ _ (fun u n hu => by
    split
    · exact wake_ringsAlike hu e n 10
    · exact hu) h

theorem wakeWriter_ringsAlike (s : State) : RingsAlike s s.wakeWriter :=
  pin_foldl (P := RingsAlike s) _ _ (fun _ e hu => wakeSpace_ringsAlike hu e .writer) ⟨rfl, rfl, rfl, rfl⟩

theorem HandsOver.keeps {s t : State} (h : HandsOver s t) : t.rings = s.rings ∧ t.sram = s.sram ∧ t.host = s.host ∧ t.gaf = s.gaf :=
  ⟨h.1.far.rings, h.1.core.sram, h.1.far.host, h.1.core.gaf⟩

/-- What a writer that has left its ceiling leaves of the rings and the memories, and whom it wakes. -/
theorem recRoom_shows (s m t : State) (ht : m.recRoom s = t) :
    (s.atCeil = false ∨ m.atCeil = true → t = m) ∧ t.rings = m.rings ∧ t.sram = m.sram ∧ t.host = m.host ∧ (∀ x ∈ m.recq, x ∈ t.recq) ∧
      (s.atCeil = true → m.atCeil = false → ∀ e h, t.thr e h = (m.thr e h).spaced .writer m.now) := by
  unfold State.recRoom at ht
  split at ht
  case isTrue h =>
    have hover := pumps_handOver m.wakeWriter
    rw [ht] at hover
    obtain ⟨h1, h2, h3, h4⟩ := hover.keeps
    obtain ⟨hr, hm, hh, hrq⟩ := wakeWriter_ringsAlike m
    refine ⟨fun hn => ?_, h1.trans hr, h2.trans hm, h3.trans hh, fun x hx => hover.2 x (by rw [hrq]; exact hx), fun _ _ e n => ?_⟩
    · rcases hn with hn | hn
      · rw [hn] at h; exact absurd h.1 (by decide)
      · exact absurd hn h.2
    · rw [thr_of_gaf h4 e n]
      exact wakeWriter_thr m e n
  case isFalse h =>
    rw [← ht]
    exact ⟨fun _ => rfl, rfl, rfl, rfl, fun x hx => hx, fun h1 h2 => absurd ⟨h1, by rw [h2]; decide⟩ h⟩

end Sys2Proof.Machine
end

section
set_option Elab.async false
namespace Sys2Proof
open Sys2Proof.Machine

theorem recPut_puts {s : State} {n : Fin 64} {r : Rec} (he : s.eventRing n = true) (hs : s.ringStopped n = false)
    (hp : s.ringOnChip n = true ∨ s.hostOpen = true) (hl : s.rget (F.RINGn_LOSTCNT_CNT n) = 0) (hf : s.ringFull n = false) :
    s.recPut n r = s.ringPut n (s.recWords r) := by
  unfold State.recPut
  rw [if_neg (by rw [he, hs]; decide), if_neg (fun h => by rcases hp with hp | hp; exacts [h.1 hp, h.2 hp]), if_neg (by rw [hl, hf]; decide)]

/-- A record that its ring cannot take is refused, by a ring that the host path has stopped too. -/
theorem recPut_refuses {s : State} {n : Fin 64} {r : Rec} (h : s.eventRing n = false ∨ s.ringStopped n = true ∨
      (s.ringOnChip n = false ∧ s.hostOpen = false) ∨ s.rget (F.RINGn_LOSTCNT_CNT n) ≠ 0 ∨ s.ringFull n = true) :
    s.recPut n r = s.ringRefuse n r ∨ (s.hostOpen = false ∧
      s.recPut n r = ((s.rput (F.RINGn_STAT_ERR n) 2).evt (F.RINGn_EVT_HOSTERR_S n)).ringRefuse n r) := by
  unfold State.recPut
  by_cases h1 : ¬ s.eventRing n = true ∨ s.ringStopped n = true
  · exact .inl (if_pos h1)
  · rw [if_neg h1]
    by_cases h2 : ¬ s.ringOnChip n = true ∧ ¬ s.hostOpen = true
    · exact .inr ⟨by simpa using h2.2, if_pos h2⟩
    · rw [if_neg h2]
      refine .inl (if_pos ?_)
      simp only [Bool.not_eq_true] at h1 h2
      rcases h with h | h | h | h | h
      · exact absurd (.inl h) h1
      · exact absurd (.inr h) h1
      · exact absurd h h2
      · exact .inl h
      · exact .inr h

theorem head_notRefused (n : Fin 64) : R.RINGn_HEAD n ∉ R.RINGn_STAT n :: refusedRegs n := by
  simp only [refusedRegs, List.mem_cons, List.not_mem_nil, or_false, R.RINGn_HEAD, R.RINGn_STAT, R.RINGn_LOSTCNT, R.RINGn_REFUSED, R.RINGn_EVT, R.LH_REFUSED, R.LH_EVT]
  omega

/-- What a ring leaves of a record that it cannot take. -/
theorem recPut_refused {s : State} {n : Fin 64} {r : Rec} (h : s.eventRing n = false ∨ s.ringStopped n = true ∨
      (s.ringOnChip n = false ∧ s.hostOpen = false) ∨ s.rget (F.RINGn_LOSTCNT_CNT n) ≠ 0 ∨ s.ringFull n = true) :
    let t := s.recPut n r
    RingFrame (R.RINGn_STAT n :: refusedRegs n) s t ∧ countedOne s t (F.RINGn_LOSTCNT_CNT n) ∧
      t.rget (F.RINGn_REFUSED_CNT n) = (s.rget (F.RINGn_REFUSED_CNT n) + 1) % 2 ^ 32 ∧ t.ron (F.RINGn_EVT_LOST_S n) = true ∧
      t.rings[n].last = some ⟨r.src, r.type, r.seq⟩ ∧ (r.type ≠ 0x27 → t.recq = s.recq) ∧ t.sram = s.sram ∧
      t.host = (if s.eventRing n = true ∧ s.ringStopped n = false ∧ s.hostOpen = true then withCopy t n s.host else s.host) := by
  intro t
  rcases recPut_refuses h with he | ⟨hclosed, he⟩
  · obtain ⟨hf, hrest⟩ := ringRefuse_shows s n r
    rw [show t = s.ringRefuse n r from he]
    exact ⟨Frame.mono hf (fun o ho => List.mem_cons_of_mem _ ho), hrest⟩
  · obtain ⟨u, hu⟩ : ∃ u, u = (s.rput (F.RINGn_STAT_ERR n) 2).evt (F.RINGn_EVT_HOSTERR_S n) := ⟨_, rfl⟩
    rw [← hu] at he
    have hus : Frame [R.RINGn_STAT n, R.RINGn_EVT n] s u := by
      rw [hu]
      exact ((Frame.refl _ s).rput (f := F.RINGn_STAT_ERR n) 2 List.mem_cons_self).evt (f := F.RINGn_EVT_HOSTERR_S n) (List.mem_cons_of_mem _ List.mem_cons_self)
    have hq : u.recq = s.recq := by rw [hu, evt_recq]; rfl
    obtain ⟨hf, hcount, hrefused, hlost, hlast, hrq, hm, hh⟩ := ringRefuse_shows u n r
    rw [show t = u.ringRefuse n r from he]
    have hcnt : u.rget (F.RINGn_LOSTCNT_CNT n) = s.rget (F.RINGn_LOSTCNT_CNT n) := rget_of_reg (hus.regs _ (ringReg_apart (lost_page n)).1 (hosterr_apart n).1)
    have href : u.rget (F.RINGn_REFUSED_CNT n) = s.rget (F.RINGn_REFUSED_CNT n) := rget_of_reg (hus.regs _ (ringReg_apart (refused_page n)).1 (hosterr_apart n).2)
    have hopen : u.hostOpen = false := by
      have hfn := Far.fn hus.far
      rw [← hclosed]
      simp only [State.hostOpen, hfn]
    refine ⟨?_, ?_, ?_, hlost, hlast, fun hr => (hrq hr).trans hq, hm.trans hus.core.sram, ?_⟩
    · exact RingFrame.trans (RingFrame.step (RingFrame.refl _ s) (hus.mono (by simp [refusedRegs]))) (Frame.mono hf (fun o ho => List.mem_cons_of_mem _ ho))
    · unfold countedOne at hcount ⊢
      rw [hcount, hcnt]
    · rw [hrefused, href]
    · rw [hh, if_neg (fun hx => by rw [hopen] at hx; exact absurd hx.2.2 (by decide)), if_neg (fun hx => by rw [hclosed] at hx; exact absurd hx.2.2 (by decide)),
        hus.far.host]

/-- A record taken or refused changes the rings and the memories alone. -/
theorem recPut_only (s : State) (n : Fin 64) (r : Rec) : onlyRings s (s.recPut n r) := by
  by_cases h : s.eventRing n = false ∨ s.ringStopped n = true ∨ (s.ringOnChip n = false ∧ s.hostOpen = false) ∨
      s.rget (F.RINGn_LOSTCNT_CNT n) ≠ 0 ∨ s.ringFull n = true
  · exact (recPut_refused h).1.only
  · simp only [not_or, not_and, Bool.not_eq_false, Bool.not_eq_true, ne_eq, not_not] at h
    obtain ⟨he, hs, hp, hl, hf⟩ := h
    rw [recPut_puts he hs (by cases hc : s.ringOnChip n; exacts [.inr (hp hc), .inl rfl]) hl hf]
    exact (ringPut_shows he _).1.only

theorem refused_listed {n : Fin 64} {o : Nat} (h : o ∈ R.RINGn_STAT n :: refusedRegs n) :
    o ∈ [R.RINGn_LOSTCNT n, R.RINGn_REFUSED n, R.RINGn_EVT n, R.RINGn_STAT n, R.LH_REFUSED, R.LH_EVT] := by
  simp only [refusedRegs, List.mem_cons, List.not_mem_nil, or_false] at h ⊢
  rcases h with h | h | h | h | h | h <;> simp only [h, true_or, or_true]

/-- What becomes of a record that comes to its ring. -/
theorem recPut_takes (s : State) (n : Fin 64) (r : Rec) : recordTaken s (s.recPut n r) n r s.recq := by
  have honly := recPut_only s n r
  have hput := @recPut_puts s n r
  have href := @recPut_refused s n r
  have hshows := fun he => @ringPut_shows s n he (s.recWords r)
  generalize s.recPut n r = t at honly hput href ⊢
  generalize s.ringPut n (s.recWords r) = v at hput hshows
  refine ⟨honly, fun he hs hp hl hf => ?_, fun hc => ?_⟩
  · obtain ⟨hfr, hq', hh, hw, hr⟩ := hshows he
    rw [hput he hs hp hl hf]
    exact ⟨hq', hh, hw, hr, hfr.regs⟩
  · obtain ⟨hfr, h1, h2, h3, h4, h5, h6, h7⟩ := href hc
    refine ⟨h1, h2, h3, h4, hfr.regs _ (head_page n) (head_notRefused n), h6, h5, h7, fun o ho hno => hfr.regs o ho (fun hm => hno (refused_listed hm))⟩

theorem recordTaken_queue (s t : State) (n : Fin 64) (r : Rec) (rs q : List Rec) : recordTaken { s with recq := q } t n r rs → recordTaken s t n r rs :=
  fun h => h

/-- What the record writer does with a record, before it makes room. -/
theorem recordTake_takes {s : State} {r : Rec} {rs : List Rec} (hq : s.recq = r :: rs) {n : Fin 64} (hn : r.ring = n) : recordTaken s s.recordTake n r rs := by
  have ht : s.recordTake = ({ s with recq := rs }).recPut n r := by
    have hlt : r.ring < 64 := by omega
    obtain rfl : (⟨r.ring, hlt⟩ : Fin 64) = n := Fin.ext hn
    simp only [State.recordTake, hq]
    exact dif_pos hlt
  rw [ht]
  exact recordTaken_queue s _ n r rs rs (recPut_takes { s with recq := rs } n r)

/-- Settles O36: the oldest record goes into its ring or is refused, and a writer that leaves its ceiling wakes those that wait. -/
theorem recordWriterWritesOrRefuses : Obligations.RecordWriterWritesOrRefuses := by
  intro s he
  refine ⟨fun hq => ?_, fun r rs hq n hn => ?_⟩
  · have h : s.recordWrite = s := by
      have h0 : s.recordTake = s := by simp only [State.recordTake, hq]
      unfold State.recordWrite
      rw [h0]
      exact if_neg (fun h => h.2 h.1)
    exact (event_open he State.recordWrite).trans (congrArg _ h)
  · have htake := recordTake_takes hq hn
    have hshows := recRoom_shows s s.recordTake s.recordWrite rfl
    have hrun := event_open he State.recordWrite
    generalize s.recordWrite = t at hshows hrun
    generalize s.recordTake = m at htake hshows
    obtain ⟨h1, h2, h3, h4, h5, h6⟩ := hshows
    refine ⟨m, t, htake, hrun, h1, h2, h3, h4, h5, fun ha hb e h hp hs => ?_⟩
    have hg : m.thr e h = s.thr e h := thr_of_gaf (htake.1.2.2.1) e h
    obtain ⟨w1, w2⟩ := woken_space hp hs m.now
    have hthr : t.thr e h = (s.thr e h).woken m.now 10 := (h6 ha hb e h).trans ((congrArg (fun t : Thread => t.spaced .writer m.now) hg).trans
      (if_pos ⟨hp, hs⟩))
    exact ⟨(congrArg (fun t : Thread => nbit t.pend.toNat 10) hthr).trans w1, fun hb => (congrArg Thread.state hthr).trans (w2 hb)⟩

end Sys2Proof
end

section
/-!
SUPPORT. What a fire of a compare makes of its channel, and what lies out of its reach (R45, R62 to R66).
-/
set_option Elab.async false
namespace Sys2Proof.Machine
open Sys2Proof

/-! ### Reaches of the channels' operations -/

/-- Counts, captures and records alone. -/
def Reach.quiet : Reach := ⟨fun _ => False, True, fun _ => False, False⟩

/-- The cell of one channel, and what its edges set off. -/
def Reach.cell (c : Fin 96) : Reach := ⟨fun d => d = c, True, fun _ => False, False⟩

/-- The cell of one channel and the ephemeris, and what its edges set off. -/
def Reach.unit (c : Fin 96) : Reach := ⟨fun d => d = c, True, fun _ => False, True⟩

/-- One reach within another. -/
structure Reach.le (D E : Reach) : Prop where
  chan : ∀ c, D.chan c → E.chan c
  pins : D.pins → E.pins
  ory : ∀ n, D.ory n → E.ory n
  eph : D.eph → E.eph

theorem PinReg.mono {D E : Reach} (h : D.le E) {o : Nat} (hr : PinReg D o) : PinReg E o := by
  obtain ⟨h1, h2, h3, h4⟩ := h
  cases hr <;> constructor <;> simp_all

theorem KeepsCell.refl : KeepsCell id := fun _ => rfl

theorem Within.mono {D E : Reach} (h : D.le E) {s t : State} (hw : Within D s t) : Within E s t where
  regs o ho := hw.regs o (fun hx => ho (hx.mono h))
  cell c hc := hw.cell c (fun hx => hc (h.chan c hx))
  chs hp hc := hw.chs (fun hx => hp (h.pins hx)) (fun c hx => hc c (h.chan c hx))
  ory n hn := hw.ory n (fun hx => hn (h.ory n hx))
  eph he := hw.eph (fun hx => he (h.eph hx))
  spine := hw.spine
  banks := hw.banks
  cal := hw.cal

theorem quiet_le_cell (c : Fin 96) : Reach.quiet.le (.cell c) := ⟨fun _ h => h.elim, fun _ => trivial, fun _ h => h, fun h => h⟩

theorem cell_le_unit (c : Fin 96) : (Reach.cell c).le (.unit c) := ⟨fun _ h => h, fun _ => trivial, fun _ h => h, fun h => h.elim⟩

/-! ### Registers out of reach -/

/-- A register of a channel's page that no fire, count or capture writes: its configuration, its place in a channel's page below the event register. -/
theorem config_apart {D : Reach} (c : Fin 96) {k : Nat} (hk : k < 0x10) : ¬ PinReg D (0x100000 + 0x400 * c.val + k) := fun h => by
  have h' := h.lies
  simp only [R.SPN_EVT, R.CFG_EVT] at h'
  omega

theorem spine_apart {D : Reach} {o : Nat} (h : o < 0x2000) (ho : o ≠ R.SPN_EVT) (ho' : o ≠ R.CFG_EVT) : ¬ PinReg D o := fun hr => by
  have h' := hr.lies
  omega

/-! ### What a channel's own launch turns on -/

section
variable {D : Reach} {s t : State} (h : Within D s t)
include h

theorem Within.rate : t.reg R.SPN_RATE = s.reg R.SPN_RATE := h.regs _ (spine_apart (by decide) (by decide) (by decide))

theorem Within.tAhead (k : Nat) : t.tAhead k = s.tAhead k := tAhead_congr h.spine h.rate k

theorem Within.config (c : Fin 96) {f : Fld} {k : Nat} (hf : f.reg = 0x100000 + 0x400 * c.val + k) (hk : k < 0x10) : t.rget f = s.rget f :=
  rget_of_reg (by rw [hf]; exact h.regs _ (config_apart c hk))

theorem Within.calVolt (c : Fin 96) : t.calVolt c = s.calVolt c := by simp only [State.calVolt, h.banks]

theorem Within.otpV (i : Nat) : t.otpV i = s.otpV i := by simp only [State.otpV, State.otpWord, h.cal.2]

theorem Within.launchK (c : Fin 96) : t.launchK c = s.launchK c := by
  have hd : t.rget (F.CHc_PIN_DRV c) = s.rget (F.CHc_PIN_DRV c) := h.config c (k := 8) (Nat.add_right_comm 0x100000 8 (0x400 * c.val)) (by decide)
  have hc : t.calF c = s.calF c := by
    unfold State.calF
    rw [dif_pos c.isLt, dif_pos c.isLt, hd, h.calVolt, h.otpV]
  simp only [State.launchK, hc]

theorem Within.tLaunch (c : Fin 96) : t.tLaunch c = s.tLaunch c := by simp only [State.tLaunch, h.launchK, h.tAhead]

theorem Within.outTrc (c : Fin 96) : t.outTrc c = s.outTrc c := by simp only [State.outTrc, State.calUser, h.cal.1]

theorem Within.dueD (c : Fin 96) (target : Nat) : t.dueD c target = s.dueD c target := by simp only [State.dueD, h.tLaunch, h.outTrc]

theorem Within.moving : t.moving = s.moving := by simp only [State.moving, h.spine]

theorem Within.hold (c : Fin 96) : t.ron (F.CHc_CTRL_HOLD c) = s.ron (F.CHc_CTRL_HOLD c) := ron_of_rget_eq (h.config c (k := 0) rfl (by decide))

theorem Within.owner (c : Fin 96) : t.rget (F.CHc_CTRL_OWN c) = s.rget (F.CHc_CTRL_OWN c) := h.config c (k := 0) rfl (by decide)

/-- A channel is held as before where its own holds are as before. -/
theorem Within.held {c : Fin 96} (hb : t.ch[c].holdBoot = s.ch[c].holdBoot) (hf : t.ch[c].holdFrz = s.ch[c].holdFrz) : t.held c = s.held c := by
  simp only [State.held, h.hold, h.banks, hb, hf]

/-- A compare as before is launched as before. -/
theorem Within.launched {c : Fin 96} {u : Bool} (hc : cmpOf t.ch[c] u = cmpOf s.ch[c] u) : t.launched c u = s.launched c u := by
  simp only [State.launched, hc, h.moving, h.launchK, h.tAhead]

end

/-- What a channel's edges leave of its cell. -/
theorem SameCell.shows {x y : Channel} (h : SameCell x y) : (∀ u, cmpOf y u = cmpOf x u) ∧ y.ol = x.ol ∧ y.fifo = x.fifo ∧ y.holdBoot = x.holdBoot ∧
    y.holdFrz = x.holdFrz ∧ y.lastPin = x.lastPin ∧ y.own = x.own ∧ y.heldLvl = x.heldLvl := by
  unfold SameCell at h
  rw [h]
  exact ⟨fun u => by cases u <;> rfl, rfl, rfl, rfl, rfl, rfl, rfl, rfl⟩

theorem cmpOf_setCmp_same (x : Channel) (u : Bool) (p : Cmp) : cmpOf (setCmp x u p) u = p := by cases u <;> rfl

theorem cmpOf_setCmp_other (x : Channel) (u : Bool) (p : Cmp) : cmpOf (setCmp x u p) (!u) = cmpOf x (!u) := by cases u <;> rfl

/-! ### A fire -/

/-- The output level that a fire makes. -/
def State.fireOl (s : State) (c : Fin 96) (u : Bool) : Bool := actLevel s.ch[c].ol (cmpOf s.ch[c] u).act

/-- A fire changes the pin, and moves it by itself. -/
def State.fireMoves (s : State) (c : Fin 96) (u quiet : Bool) : Bool := s.fireOl c u != s.ch[c].ol && s.drives c && !quiet

/-- The least distance of pin changes stretches a fire's edge. -/
def State.fireRunt (s : State) (c : Fin 96) (u : Bool) (tb : Int) (quiet : Bool) : Bool := s.fireMoves c u quiet && decide (s.pinSlot c tb ≠ tb)

/-- The ball time of a fire's edge. -/
def State.fireAt (s : State) (c : Fin 96) (u : Bool) (tb : Int) (quiet : Bool) : Int := if s.fireRunt c u tb quiet then s.pinSlot c tb else tb

/-- The lateness of a fire. -/
def State.fireLag (s : State) (c : Fin 96) (u : Bool) (tb : Int) (d : Nat) (quiet : Bool) : Nat :=
  if (cmpOf s.ch[c] u).place.isSome then (s.fireAt c u tb quiet - (cmpOf s.ch[c] u).tb).toNat else d

/-- A compare that has fired. -/
def Cmp.spent (x : Cmp) : Cmp := { x with armed := false, due := false, place := none, eph := none, fifo := false }

/-- The channel's cell after a fire. -/
def State.fireCell (s : State) (c : Fin 96) (u : Bool) (tb : Int) (quiet : Bool) : State :=
  let tp := s.fireAt c u tb quiet
  let t := (tp + s.outTrc c).toNat
  let tap := (min 63 (tb - (s.tAhead (s.launchK c) : Int))).toNat
  let a := if s.fireMoves c u quiet then s.pinMoved c tp else s
  let b := a.modCh c (fun y => { setCmp y u (cmpOf s.ch[c] u).spent with
    ol := s.fireOl c u
    lastTap := tap
    lastRaw := a.rawTap c tap
    lastA := if u then y.lastA else t
    lastB := if u then t else y.lastB })
  if quiet then b else b.pinEcho s c tp

/-- The last-fire registers after a fire of lateness k. -/
def State.fireMarks (s : State) (c : Fin 96) (u runt : Bool) (k : Nat) : State :=
  ((((s.rwrap (F.CHc_CMPu_LAST_SUB_FIRE_CNT c (b2n u)) 1).rput (F.CHc_CMPu_LAST_SUB_RUNT c (b2n u)) (b2n runt)).rput
    (F.CHc_CMPu_LAST_SUB_LATE c (b2n u)) (b2n (decide (k ≠ 0)))).rput (F.CHc_CMPu_LAST_SUB_LATE_SUB c (b2n u)) (k % 64)).setReg
    (R.CHc_CMPu_LATE c (b2n u)) (word (min (k / 64) (2 ^ 32 - 1)))

/-- What follows a fire changes counts, captures and records alone. -/
theorem fireCore_within (s : State) (c : Fin 96) (u : Bool) (tb : Int) (d : Nat) (step quiet : Bool) :
    Within .quiet ((s.fireCell c u tb quiet).fireMarks c u (s.fireRunt c u tb quiet) (s.fireLag c u tb d quiet)) (s.fireCore c u tb d step quiet) := by
  have hcl := within_closed .quiet
  have hp : Reach.quiet.pins := trivial
  unfold State.fireCore
  dsimp only
  refine wakeCh_pin hcl _ _ _ (convEvent_pin hcl _ _ _ _ (count_pin hcl _ _ _ hp (pin_ite (count_pin hcl _ _ _ hp ?_) ?_)))
  all_goals
    refine pin_ite (chEmit_pin hcl _ _ _ _ _ _ _ _ _ hp ?_) ?_
  all_goals
    refine pin_ite (evt_pin hcl _ _ (.chEvt c hp) (rsat_pin hcl _ _ _ (.chErr c hp) ?_)) ?_
  all_goals
    exact pin_ite (evt_pin hcl _ _ (.chEvt c hp) (.refl _ _)) (.refl _ _)

/-- What an echo of the pin leaves of its channel. -/
theorem pinEcho_shows (s old : State) (c : Fin 96) (t : Int) :
    (s.pinEcho old c t).ch[c] = { s.ch[c] with own := (s.pinEcho old c t).ch[c].own } ∧ (s.pinEcho old c t).regs = s.regs := by
  unfold State.pinEcho
  split
  · split
    · exact ⟨rfl, rfl⟩
    · refine ⟨?_, rfl⟩
      rw [State.ownPush, ch_modCh_same]
  · exact ⟨rfl, rfl⟩

theorem pinMoved_shows (s : State) (c : Fin 96) (tp : Int) :
    (s.pinMoved c tp).ch[c] = { s.ch[c] with lastPin := some tp, lastAt := s.pinPos c tp } := ch_modCh_same s c _

/-- A channel's cell after a fire of compare u with an output level. -/
structure SpentCell (x y : Channel) (u : Bool) (ol : Bool) : Prop where
  fired : cmpOf y u = (cmpOf x u).spent
  other : cmpOf y (!u) = cmpOf x (!u)
  ol : y.ol = ol
  fifo : y.fifo = x.fifo
  boot : y.holdBoot = x.holdBoot
  frz : y.holdFrz = x.holdFrz

theorem SpentCell.trans {x y z : Channel} {u ol : Bool} (h : SpentCell x y u ol) (h' : SameCell y z) : SpentCell x z u ol := by
  obtain ⟨h1, h2, h3, h4, h5, _⟩ := h'.shows
  exact ⟨(h1 u).trans h.fired, (h1 _).trans h.other, h2.trans h.ol, h3.trans h.fifo, h4.trans h.boot, h5.trans h.frz⟩

theorem SpentCell.echo {x : Channel} {s : State} {u ol : Bool} {c : Fin 96} (h : SpentCell x s.ch[c] u ol) (old : State) (t : Int) :
    SpentCell x (s.pinEcho old c t).ch[c] u ol := by
  have ho : ∀ v, cmpOf (s.pinEcho old c t).ch[c] v = cmpOf s.ch[c] v := fun v => by
    rw [(pinEcho_shows s old c t).1]
    cases v <;> rfl
  have he := (pinEcho_shows s old c t).1
  exact ⟨(ho u).trans h.fired, (ho _).trans h.other, by rw [he]; exact h.ol, by rw [he]; exact h.fifo, by rw [he]; exact h.boot, by rw [he]; exact h.frz⟩

theorem fireCell_shows (s : State) (c : Fin 96) (u : Bool) (tb : Int) (quiet : Bool) :
    SpentCell s.ch[c] (s.fireCell c u tb quiet).ch[c] u (s.fireOl c u) ∧ (s.fireCell c u tb quiet).regs = s.regs := by
  obtain ⟨a, ha⟩ : ∃ a, a = if s.fireMoves c u quiet then s.pinMoved c (s.fireAt c u tb quiet) else s := ⟨_, rfl⟩
  have hreg : a.regs = s.regs := by rw [ha]; split <;> rfl
  obtain ⟨h1, h2, h3, h4⟩ : (∀ v, cmpOf a.ch[c] v = cmpOf s.ch[c] v) ∧ a.ch[c].fifo = s.ch[c].fifo ∧ a.ch[c].holdBoot = s.ch[c].holdBoot ∧
      a.ch[c].holdFrz = s.ch[c].holdFrz := by
    rw [ha]
    split
    · rw [pinMoved_shows]
      exact ⟨fun v => by cases v <;> rfl, rfl, rfl, rfl⟩
    · exact ⟨fun _ => rfl, rfl, rfl, rfl⟩
  have hb : ∀ g : Channel → Channel, (∀ y, cmpOf (g y) u = (cmpOf s.ch[c] u).spent ∧ cmpOf (g y) (!u) = cmpOf y (!u) ∧ (g y).ol = s.fireOl c u ∧
      (g y).fifo = y.fifo ∧ (g y).holdBoot = y.holdBoot ∧ (g y).holdFrz = y.holdFrz) →
      SpentCell s.ch[c] (a.modCh c g).ch[c] u (s.fireOl c u) := fun g hg => by
    obtain ⟨g1, g2, g3, g4, g5, g6⟩ := hg a.ch[c]
    rw [ch_modCh_same]
    exact ⟨g1, g2.trans (h1 _), g3, g4.trans h2, g5.trans h3, g6.trans h4⟩
  have hg := fun (tap t : Nat) => hb (fun y => { setCmp y u (cmpOf s.ch[c] u).spent with ol := s.fireOl c u, lastTap := tap, lastRaw := a.rawTap c tap, lastA := if u then y.lastA else t, lastB := if u then t else y.lastB }) (fun y => by cases u <;> exact ⟨rfl, rfl, rfl, rfl, rfl, rfl⟩)
  unfold State.fireCell
  dsimp only
  rw [← ha]
  split
  · exact ⟨hg _ _, hreg⟩
  · exact ⟨(hg _ _).echo s _, (pinEcho_shows _ s c _).2.trans hreg⟩

/-- A change of one field of the last-fire register leaves another one. -/
theorem lastSub_put (s : State) (c : Fin 96) (u : Bool) (v : Nat) {lo w l k : Nat} (hf : lo + w ≤ 32) (h : l + k ≤ lo ∨ lo + w ≤ l) :
    (s.rput ⟨R.CHc_CMPu_LAST_SUB c (b2n u), lo, w⟩ v).rget ⟨R.CHc_CMPu_LAST_SUB c (b2n u), l, k⟩ = s.rget ⟨R.CHc_CMPu_LAST_SUB c (b2n u), l, k⟩ :=
  rget_rput_apart s v hf rfl h

theorem lastSub_late (s : State) (c : Fin 96) (u : Bool) (v : Word) (l k : Nat) :
    (s.setReg (R.CHc_CMPu_LATE c (b2n u)) v).rget ⟨R.CHc_CMPu_LAST_SUB c (b2n u), l, k⟩ = s.rget ⟨R.CHc_CMPu_LAST_SUB c (b2n u), l, k⟩ := by
  have hne : R.CHc_CMPu_LAST_SUB c (b2n u) ≠ R.CHc_CMPu_LATE c (b2n u) := by
    simp only [R.CHc_CMPu_LAST_SUB, R.CHc_CMPu_LATE]
    omega
  exact rget_setReg_ne s v hne

theorem setReg_ch (s : State) (o : Nat) (w : Word) : (s.setReg o w).ch = s.ch := rfl

theorem fireCount_wraps (s : State) (c : Fin 96) (u : Bool) : (s.rwrap (F.CHc_CMPu_LAST_SUB_FIRE_CNT c (b2n u)) 1).rget (F.CHc_CMPu_LAST_SUB_FIRE_CNT c (b2n u)) =
    (s.rget (F.CHc_CMPu_LAST_SUB_FIRE_CNT c (b2n u)) + 1) % 2 ^ (F.CHc_CMPu_LAST_SUB_FIRE_CNT c (b2n u)).width :=
  rget_rwrap_same s (F.CHc_CMPu_LAST_SUB_FIRE_CNT c (b2n u)) 1 (by show (24 : Nat) + 8 ≤ 32; decide)

theorem lastSub_marked (s : State) (c : Fin 96) (u l : Bool) :
    (s.rput (F.CHc_CMPu_LAST_SUB_LATE c (b2n u)) (b2n l)).ron (F.CHc_CMPu_LAST_SUB_LATE c (b2n u)) = l := by
  have h : (s.rput (F.CHc_CMPu_LAST_SUB_LATE c (b2n u)) (b2n l)).rget (F.CHc_CMPu_LAST_SUB_LATE c (b2n u)) = b2n l % 2 ^ 1 :=
    rget_rput_same s ⟨R.CHc_CMPu_LAST_SUB c (b2n u), 16, 1⟩ _ (by decide : (16 : Nat) + 1 ≤ 32)
  rw [State.ron, h]
  cases l <;> rfl

theorem fireMarks_count (s : State) (c : Fin 96) (u runt : Bool) (k : Nat) : (s.fireMarks c u runt k).rget (F.CHc_CMPu_LAST_SUB_FIRE_CNT c (b2n u)) =
    (s.rget (F.CHc_CMPu_LAST_SUB_FIRE_CNT c (b2n u)) + 1) % 2 ^ (F.CHc_CMPu_LAST_SUB_FIRE_CNT c (b2n u)).width :=
  calc (s.fireMarks c u runt k).rget (F.CHc_CMPu_LAST_SUB_FIRE_CNT c (b2n u))
    _ = _ := lastSub_late _ c u _ 24 8
    _ = _ := lastSub_put _ c u _ (by decide : (8 : Nat) + 6 ≤ 32) (.inr (by decide))
    _ = _ := lastSub_put _ c u _ (by decide : (16 : Nat) + 1 ≤ 32) (.inr (by decide))
    _ = _ := lastSub_put _ c u _ (by decide : (17 : Nat) + 1 ≤ 32) (.inr (by decide))
    _ = _ := fireCount_wraps s c u

theorem fireMarks_late (s : State) (c : Fin 96) (u runt : Bool) (k : Nat) :
    (s.fireMarks c u runt k).ron (F.CHc_CMPu_LAST_SUB_LATE c (b2n u)) = decide (k ≠ 0) :=
  calc (s.fireMarks c u runt k).ron (F.CHc_CMPu_LAST_SUB_LATE c (b2n u))
    _ = _ := ron_of_rget_eq (lastSub_late _ c u _ 16 1)
    _ = _ := ron_of_rget_eq (lastSub_put _ c u _ (by decide : (8 : Nat) + 6 ≤ 32) (.inr (by decide)))
    _ = _ := lastSub_marked _ c u _

theorem fireMarks_lag (s : State) (c : Fin 96) (u runt : Bool) (k : Nat) :
    (s.fireMarks c u runt k).reg (R.CHc_CMPu_LATE c (b2n u)) = word (min (k / 64) (2 ^ 32 - 1)) := by
  unfold State.fireMarks
  rw [reg_setReg_same]

theorem fireMarks_ch (s : State) (c : Fin 96) (u runt : Bool) (k : Nat) : (s.fireMarks c u runt k).ch = s.ch := by
  unfold State.fireMarks
  exact (setReg_ch _ _ _).trans ((rput_ch _ _ _).trans ((rput_ch _ _ _).trans ((rput_ch _ _ _).trans (rput_ch _ _ _))))

/-- Neither last-fire register of one compare is one of the other's. -/
theorem lastFire_ne (c : Fin 96) (u : Bool) : R.CHc_CMPu_LAST_SUB c (b2n (!u)) ≠ R.CHc_CMPu_LAST_SUB c (b2n u) ∧
    R.CHc_CMPu_LAST_SUB c (b2n (!u)) ≠ R.CHc_CMPu_LATE c (b2n u) ∧ R.CHc_CMPu_LATE c (b2n (!u)) ≠ R.CHc_CMPu_LAST_SUB c (b2n u) ∧
    R.CHc_CMPu_LATE c (b2n (!u)) ≠ R.CHc_CMPu_LATE c (b2n u) := by
  cases u <;> simp only [R.CHc_CMPu_LAST_SUB, R.CHc_CMPu_LATE, b2n, Bool.not_false, Bool.not_true] <;> simp <;> omega

theorem fireMarks_beside (s : State) (c : Fin 96) (u runt : Bool) (k : Nat) {o : Nat} (h : o ≠ R.CHc_CMPu_LAST_SUB c (b2n u)) (h' : o ≠ R.CHc_CMPu_LATE c (b2n u)) :
    (s.fireMarks c u runt k).reg o = s.reg o := by
  unfold State.fireMarks
  rw [reg_setReg_ne _ _ h', reg_rput_ne _ _ h, reg_rput_ne _ _ h, reg_rput_ne _ _ h, reg_rwrap_ne _ _ h]

/-- A fire of a compare at its target, or behind it, as its lateness is given. -/
structure FireShows (s t : State) (c : Fin 96) (u : Bool) (k : Nat) : Prop where
  within : Within (.cell c) s t
  cell : SpentCell s.ch[c] t.ch[c] u (s.fireOl c u)
  count : t.rget (F.CHc_CMPu_LAST_SUB_FIRE_CNT c (b2n u)) =
    (s.rget (F.CHc_CMPu_LAST_SUB_FIRE_CNT c (b2n u)) + 1) % 2 ^ (F.CHc_CMPu_LAST_SUB_FIRE_CNT c (b2n u)).width
  late : t.ron (F.CHc_CMPu_LAST_SUB_LATE c (b2n u)) = decide (k ≠ 0)
  lag : t.reg (R.CHc_CMPu_LATE c (b2n u)) = word (min (k / 64) (2 ^ 32 - 1))
  beside : t.reg (R.CHc_CMPu_LAST_SUB c (b2n (!u))) = s.reg (R.CHc_CMPu_LAST_SUB c (b2n (!u))) ∧
    t.reg (R.CHc_CMPu_LATE c (b2n (!u))) = s.reg (R.CHc_CMPu_LATE c (b2n (!u)))

/-- The last-fire registers of a compare lie within a reach only with their channel. -/
theorem PinReg.lastFire {D : Reach} {o : Nat} (h : PinReg D o) {c : Fin 96} {k : Nat} (ho : o = 0x100030 + 0x400 * c.val + k)
    (hk : k = 0 ∨ k = 4 ∨ k = 0x20 ∨ k = 0x24) : D.chan c := by
  have hb : ∀ v : Bool, b2n v ≤ 1 := by decide
  have hk' : ∀ v : Bool, kNat v ≤ 1 := by decide
  have hd : ∀ d : Fin 96, D.chan d → d.val = c.val → D.chan c := fun d h e => Fin.ext e ▸ h
  cases h
  case lastSub d v hc =>
    have := hb v
    unfold R.CHc_CMPu_LAST_SUB at ho
    exact hd d hc (by omega)
  case cmpLate d v hc =>
    have := hb v
    unfold R.CHc_CMPu_LATE at ho
    exact hd d hc (by omega)
  case tgtCtl d v hc =>
    have := hb v
    unfold R.CHc_CMPu_TGT_CTL at ho
    exact hd d hc (by omega)
  case ec h => have := reportReg_page h; omega
  case capStat d v _ =>
    have := hk' v
    unfold R.CHc_CAPk_STAT at ho
    omega
  all_goals
    simp only [R.CHc_EVT, R.CHc_ERRCNT, R.CHc_FIFO_STAT, R.ORYn_EVT, R.ORYn_STAT, R.ORYn_ERRCNT, R.ORYn_ERRCNT2, R.ORYn_IDXDIFF, R.CV_EVT, R.CVk_CNT,
      R.CVk_LAST, R.CVBUFb_WRIDX, R.CVBUFb_DROP, R.CVBUFb_BASE, R.Ge_EVT, R.Ge_LAT_MAX, R.Ge_LATE_CNT, R.Ge_EPH_CNT, R.SPN_EVT, R.CFG_EVT] at ho
    omega

theorem lastFire_apart {D : Reach} {c : Fin 96} (hc : ¬ D.chan c) (u : Bool) :
    ¬ PinReg D (R.CHc_CMPu_LAST_SUB c (b2n u)) ∧ ¬ PinReg D (R.CHc_CMPu_LATE c (b2n u)) := by
  cases u
  · exact ⟨fun h => hc (h.lastFire (k := 0) rfl (by decide)), fun h => hc (h.lastFire (k := 4) (by unfold R.CHc_CMPu_LATE b2n; simp; omega) (by decide))⟩
  · exact ⟨fun h => hc (h.lastFire (k := 0x20) (by unfold R.CHc_CMPu_LAST_SUB b2n; simp) (by decide)),
      fun h => hc (h.lastFire (k := 0x24) (by unfold R.CHc_CMPu_LATE b2n; simp; omega) (by decide))⟩

theorem fireCore_shows (s : State) (c : Fin 96) (u : Bool) (tb : Int) (d : Nat) (step quiet : Bool) :
    FireShows s (s.fireCore c u tb d step quiet) c u (s.fireLag c u tb d quiet) := by
  have hw := fireCore_within s c u tb d step quiet
  have hpin := fireCore_pin (within_closed (.cell c)) s c u tb d step quiet trivial rfl (.refl _ s)
  generalize s.fireCore c u tb d step quiet = t at hw hpin
  obtain ⟨hcell, hreg⟩ := fireCell_shows s c u tb quiet
  have h1 := fireMarks_count (s.fireCell c u tb quiet) c u (s.fireRunt c u tb quiet) (s.fireLag c u tb d quiet)
  have h2 := fireMarks_late (s.fireCell c u tb quiet) c u (s.fireRunt c u tb quiet) (s.fireLag c u tb d quiet)
  have h3 := fireMarks_lag (s.fireCell c u tb quiet) c u (s.fireRunt c u tb quiet) (s.fireLag c u tb d quiet)
  have h4 := fireMarks_ch (s.fireCell c u tb quiet) c u (s.fireRunt c u tb quiet) (s.fireLag c u tb d quiet)
  have h5 := fun o => @fireMarks_beside (s.fireCell c u tb quiet) c u (s.fireRunt c u tb quiet) (s.fireLag c u tb d quiet) o
  generalize s.fireCell c u tb quiet = a at hcell hreg h1 h2 h3 h4 h5 hw
  generalize a.fireMarks c u (s.fireRunt c u tb quiet) (s.fireLag c u tb d quiet) = b at h1 h2 h3 h4 h5 hw
  obtain ⟨l1, l2⟩ := lastFire_apart (D := .quiet) (c := c) (fun h => h) u
  have hregs : ∀ o, a.reg o = s.reg o := fun o => by simp only [State.reg, hreg]
  obtain ⟨m1, m2⟩ := lastFire_apart (D := .quiet) (c := c) (fun h => h) (!u)
  obtain ⟨n1, n2, n3, n4⟩ := lastFire_ne c u
  refine ⟨hpin, ?_, ?_, ?_, ?_, (hw.regs _ m1).trans ((h5 _ n1 n2).trans (hregs _)), (hw.regs _ m2).trans ((h5 _ n3 n4).trans (hregs _))⟩
  · rw [← h4] at hcell
    exact hcell.trans (hw.cell c (fun h => h))
  · rw [hw.rget (f := F.CHc_CMPu_LAST_SUB_FIRE_CNT c (b2n u)) l1, h1, rget_of_regs hreg]
  · rw [ron_of_rget_eq (hw.rget (f := F.CHc_CMPu_LAST_SUB_LATE c (b2n u)) l1), h2]
  · rw [hw.regs _ l2, h3]

end Sys2Proof.Machine
end

section
/-!
SUPPORT. What a compare of a host does: it is loaded, disarmed, and fires when its launch tick comes (R60 to R66).
-/
set_option Elab.async false
namespace Sys2Proof.Machine
open Sys2Proof

/-! ### One compare changed -/

theorem modCmp_ch (s : State) (c : Fin 96) (u : Bool) (f : Cmp → Cmp) : (s.modCmp c u f).ch[c] = setCmp s.ch[c] u (f (cmpOf s.ch[c] u)) :=
  ch_modCh_same s c _

theorem modCmp_regs (s : State) (c : Fin 96) (u : Bool) (f : Cmp → Cmp) : (s.modCmp c u f).regs = s.regs := rfl

theorem modCmp_same (s : State) (c : Fin 96) (u : Bool) (f : Cmp → Cmp) : cmpOf (s.modCmp c u f).ch[c] u = f (cmpOf s.ch[c] u) := by
  rw [modCmp_ch, cmpOf_setCmp_same]

theorem modCmp_other (s : State) (c : Fin 96) (u : Bool) (f : Cmp → Cmp) : cmpOf (s.modCmp c u f).ch[c] (!u) = cmpOf s.ch[c] (!u) := by
  rw [modCmp_ch, cmpOf_setCmp_other]

theorem setCmp_cell (x : Channel) (u : Bool) (p : Cmp) : (setCmp x u p).ol = x.ol ∧ (setCmp x u p).holdBoot = x.holdBoot ∧
    (setCmp x u p).holdFrz = x.holdFrz ∧ (setCmp x u p).fifo = x.fifo := by cases u <;> exact ⟨rfl, rfl, rfl, rfl⟩

theorem modCmp_cell (s : State) (c : Fin 96) (u : Bool) (f : Cmp → Cmp) : (s.modCmp c u f).ch[c].ol = s.ch[c].ol ∧
    (s.modCmp c u f).ch[c].holdBoot = s.ch[c].holdBoot ∧ (s.modCmp c u f).ch[c].holdFrz = s.ch[c].holdFrz ∧ (s.modCmp c u f).ch[c].fifo = s.ch[c].fifo := by
  rw [modCmp_ch]
  exact setCmp_cell _ u _

theorem modCmp_only (s : State) (c : Fin 96) (u : Bool) (f : Cmp → Cmp) : onlyChannel s (s.modCmp c u f) c := onlyChannel_modCh s c _

theorem modCmp_within (s : State) (c : Fin 96) (u : Bool) (f : Cmp → Cmp) : Within (.cell c) s (s.modCmp c u f) :=
  modCmp_pin (within_closed _) s c u f rfl (.refl _ s)

/-! ### A fire of a compare of a host -/

section
variable {s t : State} {c : Fin 96} {u : Bool} {k : Nat} (h : FireShows s t c u k)
include h

theorem FireShows.held : t.held c = s.held c := h.within.held h.cell.boot h.cell.frz

theorem FireShows.otherCmp : cmpOf t.ch[c] (!u) = cmpOf s.ch[c] (!u) := h.cell.other

theorem FireShows.launchedOther : t.launched c (!u) = s.launched c (!u) := h.within.launched h.cell.other

end

theorem fireTimely_shows {s : State} {c : Fin 96} {u : Bool} : FireShows s (s.fireTimely c u) c u (s.fireLag c u (cmpOf s.ch[c] u).ask 0 false) :=
  fireCore_shows s c u _ 0 _ false

/-- An edge that no CATCH has placed is as late as it is said to be. -/
theorem fireLag_free {s : State} {c : Fin 96} {u : Bool} (hp : (cmpOf s.ch[c] u).place = none) (tb : Int) (d : Nat) (quiet : Bool) :
    s.fireLag c u tb d quiet = d := by
  unfold State.fireLag
  rw [hp]
  rfl

theorem fireLate_shows {s : State} {c : Fin 96} {u : Bool} (hp : (cmpOf s.ch[c] u).place = none) (step quiet : Bool) :
    FireShows s (s.fireLate c u step quiet) c u (s.tLaunch c - (cmpOf s.ch[c] u).tb).toNat := by
  have h := fireCore_shows s c u (s.tLaunch c) (s.tLaunch c - (cmpOf s.ch[c] u).tb).toNat step quiet
  rw [fireLag_free hp] at h
  exact h

/-- Nothing follows the fire of a compare of a host. -/
theorem afterFire_host (s : State) (c : Fin 96) (u : Bool) {y : Cmp} (hf : y.fifo = false) (he : y.eph = none) (late : Bool) : s.afterFire c u y late = s := by
  unfold State.afterFire
  rw [hf, he]
  rfl

theorem cmpReachOne_still {s : State} {c : Fin 96} {u : Bool} (h : s.launched c u = false) : s.cmpReachOne c u = s :=
  if_pos (by rw [h]; decide)

theorem cmpReachOne_held {s : State} {c : Fin 96} {u : Bool} (h : s.launched c u = true) (hh : s.held c = true) :
    s.cmpReachOne c u = s.modCmp c u (fun x => { x with due := true }) :=
  (if_neg (by rw [h]; decide)).trans (if_pos hh)

theorem cmpReachOne_fires {s : State} {c : Fin 96} {u : Bool} (h : s.launched c u = true) (hh : s.held c = false) (ho : ofHost s c u) :
    s.cmpReachOne c u = s.fireTimely c u :=
  (if_neg (by rw [h]; decide)).trans ((if_neg (by rw [hh]; decide)).trans (afterFire_host _ c u ho.1 ho.2 _))

/-- Compare A goes first only if its launch tick is reached. -/
theorem launched_of_aFirst {s : State} {c : Fin 96} (h : s.aFirst c = true) : s.launched c false = true := by
  unfold State.aFirst at h
  simp only [Bool.and_eq_true] at h
  exact h.1

/-- The state in which compare u fires: A has fired first, if it goes first. -/
def State.aGone (s : State) (c : Fin 96) (aGoes : Bool) : State := if aGoes then s.fireTimely c false else s

/-- What compare B finds where A has gone first. -/
theorem aGone_shows (s : State) (c : Fin 96) (u : Bool) (aGoes : Bool) (hu : aGoes = true → u = true) :
    Within (.cell c) s (s.aGone c aGoes) ∧ cmpOf (s.aGone c aGoes).ch[c] u = cmpOf s.ch[c] u ∧ (s.aGone c aGoes).ch[c].ol = olBefore s c aGoes ∧
    (s.aGone c aGoes).held c = s.held c ∧
    (s.aGone c aGoes).rget (F.CHc_CMPu_LAST_SUB_FIRE_CNT c (b2n u)) = s.rget (F.CHc_CMPu_LAST_SUB_FIRE_CNT c (b2n u)) := by
  cases aGoes
  · exact ⟨.refl _ s, rfl, rfl, rfl, rfl⟩
  · obtain rfl := hu rfl
    have h := @fireTimely_shows s c false
    exact ⟨h.within, h.cell.other, h.cell.ol, h.held, rget_of_reg h.beside.1⟩

/-- A compare that fires, A before it if it goes first. -/
structure ReachShows (s t : State) (c : Fin 96) (u aGoes : Bool) (act : Nat) (k : Nat) : Prop where
  within : Within (.cell c) s t
  spent : cmpOf t.ch[c] u = (cmpOf t.ch[c] u).spent
  ol : t.ch[c].ol = actLevel (olBefore s c aGoes) act
  held : t.held c = s.held c
  count : t.rget (F.CHc_CMPu_LAST_SUB_FIRE_CNT c (b2n u)) =
    (s.rget (F.CHc_CMPu_LAST_SUB_FIRE_CNT c (b2n u)) + 1) % 2 ^ (F.CHc_CMPu_LAST_SUB_FIRE_CNT c (b2n u)).width
  late : t.ron (F.CHc_CMPu_LAST_SUB_LATE c (b2n u)) = decide (k ≠ 0)

theorem ReachShows.of_fire {s t : State} {c : Fin 96} {u aGoes : Bool} {k : Nat} (hu : aGoes = true → u = true)
    (h : FireShows (s.aGone c aGoes) t c u k) : ReachShows s t c u aGoes (cmpOf s.ch[c] u).act k := by
  obtain ⟨h1, h2, h3, h4, h5⟩ := aGone_shows s c u aGoes hu
  refine ⟨h1.trans h.within, by rw [h.cell.fired]; rfl, ?_, h.held.trans h4, by rw [h.count, h5], h.late⟩
  rw [h.cell.ol, State.fireOl, h2, h3]

/-- A compare of a host that its launch tick has reached fires on time. -/
theorem cmpReach_fires {s : State} {c : Fin 96} {u : Bool} (hl : s.launched c u = true) (hh : s.held c = false) (ho : ofHost s c u)
    (ha : u = true → ofHost s c false) (hp : (cmpOf s.ch[c] u).place = none) :
    ReachShows s (s.cmpReach c u) c u (u && s.aFirst c) (cmpOf s.ch[c] u).act 0 := by
  have hu : (u && s.aFirst c) = true → u = true := fun h => (Bool.and_eq_true_iff.1 h).1
  have hfirst : (if u && s.launched c true && s.aFirst c then s.cmpReachOne c false else s) = s.aGone c (u && s.aFirst c) := by
    cases u
    · rfl
    · unfold State.aGone
      rw [hl, Bool.and_true, Bool.true_and]
      split
      case isTrue hf => exact cmpReachOne_fires (launched_of_aFirst hf) hh (ha rfl)
      case isFalse => rfl
  obtain ⟨h1, h2, h3, h4, h5⟩ := aGone_shows s c u (u && s.aFirst c) hu
  have he : s.cmpReach c u = (s.aGone c (u && s.aFirst c)).fireTimely c u := by
    rw [State.cmpReach, hfirst]
    exact cmpReachOne_fires ((h1.launched h2).trans hl) (h4.trans hh) (by unfold ofHost; rw [h2]; exact ho)
  rw [he]
  have hf := @fireTimely_shows (s.aGone c (u && s.aFirst c)) c u
  rw [fireLag_free (by rw [h2]; exact hp)] at hf
  exact .of_fire hu hf

theorem cmpReach_still {s : State} {c : Fin 96} {u : Bool} (h : s.launched c u = false) : s.cmpReach c u = s := by
  have hn : ¬ (u && s.launched c true && s.aFirst c) = true := fun hx => by
    simp only [Bool.and_eq_true] at hx
    obtain ⟨⟨rfl, hl⟩, _⟩ := hx
    rw [h] at hl
    exact absurd hl (by decide)
  rw [State.cmpReach, if_neg hn, cmpReachOne_still h]

/-- A compare of a host that is behind fires late. -/
theorem cmpLate_fires {s : State} {c : Fin 96} {u : Bool} (hh : s.held c = false) (ho : ofHost s c u) (ha : u = true → ofHost s c false)
    (hp : (cmpOf s.ch[c] u).place = none) (step : Bool) :
    ReachShows s (s.cmpLate c u step) c u (u && s.launched c false) (cmpOf s.ch[c] u).act (s.tLaunch c - (cmpOf s.ch[c] u).tb).toNat := by
  have hu : (u && s.launched c false) = true → u = true := fun h => (Bool.and_eq_true_iff.1 h).1
  have hfirst : (if u && s.launched c false then s.cmpReachOne c false else s) = s.aGone c (u && s.launched c false) := by
    unfold State.aGone
    split
    case isTrue hf =>
      obtain ⟨hu', hl⟩ := Bool.and_eq_true_iff.1 hf
      exact cmpReachOne_fires hl hh (ha hu')
    case isFalse => rfl
  obtain ⟨h1, h2, h3, h4, h5⟩ := aGone_shows s c u (u && s.launched c false) hu
  have he : s.cmpLate c u step = (s.aGone c (u && s.launched c false)).fireLate c u step false := by
    rw [State.cmpLate, hfirst]
    exact afterFire_host _ c u (by rw [h2]; exact ho.1) (by rw [h2]; exact ho.2) _
  rw [he]
  have hf := @fireLate_shows (s.aGone c (u && s.launched c false)) c u (by rw [h2]; exact hp) step false
  rw [h2, h1.tLaunch] at hf
  exact .of_fire hu hf

end Sys2Proof.Machine
end

section
/-!
SUPPORT. Writes of a compare's control word: a load and a disarming (R61, R63, R64).
-/
set_option Elab.async false
namespace Sys2Proof.Machine
open Sys2Proof

/-- The state of a host's write to a compare's control word, before it loads or disarms. -/
def State.ctlPut (s : State) (c : Fin 96) (u : Bool) (v : Word) : State := s.setReg (R.CHc_CMPu_TGT_CTL c (b2n u)) (v &&& 0xFFFF073F)

theorem ctlPut_within (s : State) (c : Fin 96) (u : Bool) (v : Word) : Within (.cell c) s (s.ctlPut c u v) := (Within.refl _ s).setReg _ (.tgtCtl c u rfl)

theorem ctlPut_ch (s : State) (c : Fin 96) (u : Bool) (v : Word) : (s.ctlPut c u v).ch = s.ch := rfl

theorem ctlPut_launched (s : State) (c d : Fin 96) (u b : Bool) (v : Word) : (s.ctlPut c u v).launched d b = s.launched d b :=
  (ctlPut_within s c u v).launched rfl

theorem ctlPut_held (s : State) (c d : Fin 96) (u : Bool) (v : Word) : (s.ctlPut c u v).held d = s.held d := (ctlPut_within s c u v).held rfl rfl

theorem ctlPut_aFirst (s : State) (c d : Fin 96) (u : Bool) (v : Word) : (s.ctlPut c u v).aFirst d = s.aFirst d := by
  unfold State.aFirst
  rw [ctlPut_launched, (ctlPut_within s c u v).tLaunch]
  rfl

theorem tgtCtl_ne_lastSub (c : Fin 96) (u : Bool) : R.CHc_CMPu_LAST_SUB c (b2n u) ≠ R.CHc_CMPu_TGT_CTL c (b2n u) := by
  unfold R.CHc_CMPu_LAST_SUB R.CHc_CMPu_TGT_CTL
  omega

theorem ctlPut_count (s : State) (c : Fin 96) (u : Bool) (v : Word) :
    (s.ctlPut c u v).rget (F.CHc_CMPu_LAST_SUB_FIRE_CNT c (b2n u)) = s.rget (F.CHc_CMPu_LAST_SUB_FIRE_CNT c (b2n u)) :=
  rget_setReg_ne s _ (tgtCtl_ne_lastSub c u)

theorem ctlPut_modCmp_only (s : State) (c : Fin 96) (u b : Bool) (v : Word) (f : Cmp → Cmp) : onlyChannel s ((s.ctlPut c u v).modCmp c b f) c :=
  ⟨sameBlocks_refl _, fun _ h => ch_modCh_ne _ _ h⟩

theorem ctlPut_modCmp_regs (s : State) (c : Fin 96) (u b : Bool) (v : Word) (f : Cmp → Cmp) :
    s.sameRegsBut ((s.ctlPut c u v).modCmp c b f) [R.CHc_CMPu_TGT_CTL c (b2n u)] := fun o _ ho => by
  have hne : o ≠ R.CHc_CMPu_TGT_CTL c (b2n u) := fun e => ho (by rw [e]; exact List.mem_singleton.2 rfl)
  exact reg_setReg_ne s _ hne

/-- A host's write to the control word of a compare that it does not own. -/
theorem cmpCtlWrite_notOwned {s : State} {c : Fin 96} (h : s.rget (F.CHc_CTRL_OWN c) ≠ 0) (p : Path) (u : Bool) (v : Word) (arm : Bool) :
    (s.cmpCtlWrite p c u v arm).ron (F.CHc_EVT_OWN_ERR_S c) = true ∧ s.sameRegsBut (s.cmpCtlWrite p c u v arm) [R.CHc_EVT c] ∧
      s.sameBlocks (s.cmpCtlWrite p c u v arm) := by
  have he : s.cmpCtlWrite p c u v arm = s.evt (F.CHc_EVT_OWN_ERR_S c) := if_pos (fun hx => h (of_decide_eq_true hx))
  rw [he]
  have hf : Frame [R.CHc_EVT c] s (s.evt (F.CHc_EVT_OWN_ERR_S c)) := (Frame.refl _ s).evt (f := F.CHc_EVT_OWN_ERR_S c) List.mem_cons_self
  exact ⟨ron_evt _ _ rfl (by show (7 : Nat) + 1 ≤ 32; decide) (chEvt_page c), hf.regs, hf.blocks⟩

theorem cmpCtlWrite_owned {s : State} {c : Fin 96} (h : s.rget (F.CHc_CTRL_OWN c) = 0) (p : Path) (u : Bool) (v : Word) (arm : Bool) :
    s.cmpCtlWrite p c u v arm = if arm then (s.ctlPut c u v).cmpArm c u (armTarget s p c u v) (wfld v 8 2) (wfld v 10 1 = 1) (wfld v 16 16)
      else (s.ctlPut c u v).cmpDisarm c u := if_neg (fun hx => hx (decide_eq_true h))

/-! ### A disarming -/

/-- A compare disarmed. -/
theorem disarmCmp_eq (s : State) (c : Fin 96) (u : Bool) : s.disarmCmp c u = s.modCmp c u Cmp.spent := rfl

theorem cmpDisarm_still {s : State} {c : Fin 96} {u : Bool} (h : s.launched c u = false ∨ s.held c = true) : s.cmpDisarm c u = s.disarmCmp c u := by
  unfold State.cmpDisarm
  split
  · rfl
  case isFalse hh => rw [cmpReach_still (h.resolve_right (by simpa using hh))]

theorem cmpDisarm_fires {s : State} {c : Fin 96} {u : Bool} (hh : s.held c = false) : s.cmpDisarm c u = (s.cmpReach c u).disarmCmp c u := by
  unfold State.cmpDisarm
  rw [hh]
  rfl

/-- A compare of a held channel that its launch tick has reached is due. -/
theorem cmpReach_held {s : State} {c : Fin 96} {u : Bool} (hl : s.launched c u = true) (hh : s.held c = true) :
    cmpOf (s.cmpReach c u).ch[c] u = { cmpOf s.ch[c] u with due := true } ∧ (∀ o, (s.cmpReach c u).reg o = s.reg o) ∧
      onlyChannel s (s.cmpReach c u) c := by
  by_cases hf : (u && s.launched c true && s.aFirst c) = true
  · obtain ⟨hu, ha⟩ := Bool.and_eq_true_iff.1 hf
    obtain rfl := (Bool.and_eq_true_iff.1 hu).1
    obtain ⟨a, ha'⟩ : ∃ a, a = s.modCmp c false (fun x => { x with due := true }) := ⟨_, rfl⟩
    have hw : Within (.cell c) s a := ha' ▸ modCmp_within s c false _
    have hb : cmpOf a.ch[c] true = cmpOf s.ch[c] true := by rw [ha']; exact modCmp_other s c false _
    obtain ⟨_, h1, h2, _⟩ := modCmp_cell s c false (fun x => { x with due := true })
    have he : s.cmpReach c true = a.modCmp c true (fun x => { x with due := true }) := by
      rw [State.cmpReach, if_pos hf, cmpReachOne_held (launched_of_aFirst ha) hh, ← ha']
      exact cmpReachOne_held ((hw.launched hb).trans hl) ((hw.held (by rw [ha']; exact h1) (by rw [ha']; exact h2)).trans hh)
    rw [he]
    refine ⟨by rw [modCmp_same, hb], fun o => by rw [ha']; rfl, by rw [ha']; exact sameBlocks_refl _, fun d hd => ?_⟩
    rw [ha']
    exact (ch_modCh_ne _ _ hd).trans (ch_modCh_ne _ _ hd)
  · have he : s.cmpReach c u = s.modCmp c u (fun x => { x with due := true }) := by
      rw [State.cmpReach, if_neg hf]
      exact cmpReachOne_held hl hh
    rw [he]
    exact ⟨modCmp_same s c u _, fun _ => rfl, modCmp_only s c u _⟩

/-! ### A load -/

/-- A compare as a host loads it. -/
def State.loaded (s : State) (c : Fin 96) (target act : Nat) (recEn : Bool) (tag : Nat) : Cmp :=
  ⟨true, target, s.tLaunch c - s.dueD c target, act, recEn, tag, false, false, none, decide (0 < s.dueD c target) && s.held c, none⟩

theorem loadCmp_eq (s : State) (c : Fin 96) (u : Bool) (target act : Nat) (recEn : Bool) (tag : Nat) :
    s.loadCmp c u target act recEn tag false false none = s.modCmp c u (fun _ => s.loaded c target act recEn tag) := rfl

theorem modCmp_held (s : State) (c : Fin 96) (u : Bool) (f : Cmp → Cmp) : (s.modCmp c u f).held c = s.held c :=
  (modCmp_within s c u f).held (modCmp_cell s c u f).2.1 (modCmp_cell s c u f).2.2.1

/-- A loaded compare is behind where its target lies behind, in a channel that is not held. -/
theorem loaded_behind (s : State) (c : Fin 96) (u : Bool) (target act : Nat) (recEn : Bool) (tag : Nat) :
    (s.modCmp c u (fun _ => s.loaded c target act recEn tag)).behind c u = (decide (0 < s.dueD c target) && !s.held c) := by
  unfold State.behind
  rw [modCmp_same, modCmp_held, (modCmp_within s c u _).tLaunch]
  have ha : (s.loaded c target act recEn tag).ask = s.tLaunch c - s.dueD c target := rfl
  have hd : (s.tLaunch c - s.dueD c target < s.tLaunch c) = (0 < s.dueD c target) := propext ⟨fun h => by omega, fun h => by omega⟩
  show (true && _ && _) = _
  rw [ha, Bool.true_and]
  simp only [hd]

theorem cmpArm_from {s a : State} {c : Fin 96} {u : Bool} (h : (if s.held c then s else s.cmpReach c u) = a) (target act : Nat) (recEn : Bool) (tag : Nat) :
    s.cmpArm c u target act recEn tag = if (a.modCmp c u (fun _ => a.loaded c target act recEn tag)).behind c u
      then (a.modCmp c u (fun _ => a.loaded c target act recEn tag)).cmpLate c u (a.modCmp c u (fun _ => a.loaded c target act recEn tag)).stepNow
      else a.modCmp c u (fun _ => a.loaded c target act recEn tag) := by
  unfold State.cmpArm
  rw [h]
  rfl

/-- A load of a compare whose old target is not yet launched, or whose channel is held. -/
theorem cmpArm_loads {s : State} {c : Fin 96} {u : Bool} (h : s.launched c u = false ∨ s.held c = true) {target : Nat}
    (hd : s.dueD c target ≤ 0 ∨ s.held c = true) (act : Nat) (recEn : Bool) (tag : Nat) :
    s.cmpArm c u target act recEn tag = s.modCmp c u (fun _ => s.loaded c target act recEn tag) := by
  have h1 : (if s.held c then s else s.cmpReach c u) = s := by
    split
    · rfl
    case isFalse hh => exact cmpReach_still (h.resolve_right hh)
  have h2 : ¬ (s.modCmp c u (fun _ => s.loaded c target act recEn tag)).behind c u = true := by
    rw [loaded_behind]
    simp only [Bool.and_eq_true, decide_eq_true_eq, Bool.not_eq_true', not_and]
    intro h0
    rw [hd.resolve_left (by omega)]
    decide
  rw [cmpArm_from h1, if_neg h2]

/-- A load behind the fire of an old target. -/
theorem cmpArm_follows {s : State} {c : Fin 96} {u : Bool} (hh : s.held c = false) {target : Nat} (act : Nat) (recEn : Bool) (tag : Nat)
    (hr : Within (.cell c) s (s.cmpReach c u)) (hd : s.dueD c target ≤ 0) :
    s.cmpArm c u target act recEn tag = (s.cmpReach c u).modCmp c u (fun _ => (s.cmpReach c u).loaded c target act recEn tag) := by
  have h1 : (if s.held c then s else s.cmpReach c u) = s.cmpReach c u := if_neg (by rw [hh]; decide)
  rw [cmpArm_from h1]
  refine if_neg ?_
  rw [loaded_behind, hr.dueD, decide_eq_false (by omega), Bool.false_and]
  decide

/-- A load of a target behind fires. -/
theorem cmpArm_late {s : State} {c : Fin 96} {u : Bool} (hl : s.launched c u = false) (hh : s.held c = false) {target : Nat} (hd : 0 < s.dueD c target)
    (act : Nat) (recEn : Bool) (tag : Nat) : ∃ step, s.cmpArm c u target act recEn tag =
      (s.modCmp c u (fun _ => s.loaded c target act recEn tag)).cmpLate c u step := by
  have h1 : (if s.held c then s else s.cmpReach c u) = s := by rw [cmpReach_still hl, ite_self]
  rw [cmpArm_from h1]
  refine ⟨_, if_pos ?_⟩
  rw [loaded_behind, hh, decide_eq_true hd]
  rfl

end Sys2Proof.Machine
end

section
set_option Elab.async false
namespace Sys2Proof
open Sys2Proof.Machine

theorem compareDisarms_holds : compareDisarms := by
  intro p c u v s hs
  have hrun : ∀ f, s.hostAct p (R.CHc_CMPu_TGT_CTL c (b2n u)) f = .next (f s) := fun f => hostAct_open hs p _ f
  refine ⟨fun hown hl => ?_, fun hown hl hh ho ha hp => ?_, fun hown => ?_⟩
  · have he : s.cmpCtlWrite p c u v false = (s.ctlPut c u v).modCmp c u Cmp.spent := by
      rw [cmpCtlWrite_owned hown]
      exact cmpDisarm_still (by rw [ctlPut_launched, ctlPut_held]; exact hl)
    refine ⟨_, (hrun _).trans (congrArg _ he), ?_, ?_, ?_, ?_, ctlPut_modCmp_regs s c u u v _, ctlPut_modCmp_only s c u u v _⟩
    · rw [modCmp_same]; rfl
    · rw [modCmp_same]; rfl
    · exact modCmp_other _ c u _
    · exact (modCmp_cell _ c u _).1
  · have he : s.cmpCtlWrite p c u v false = ((s.ctlPut c u v).cmpReach c u).modCmp c u Cmp.spent := by
      rw [cmpCtlWrite_owned hown]
      exact cmpDisarm_fires (by rw [ctlPut_held]; exact hh)
    have hr := @cmpReach_fires (s.ctlPut c u v) c u (by rw [ctlPut_launched]; exact hl) (by rw [ctlPut_held]; exact hh) ho ha hp
    rw [ctlPut_aFirst] at hr
    refine ⟨_, hrun _, ?_⟩
    have hfar := cmpCtlWrite_far s p c u v false (far_refl s)
    rw [he] at hfar ⊢
    refine ⟨by rw [modCmp_same]; rfl, (modCmp_cell _ c u _).1.trans hr.ol, ?_, ?_, hfar⟩
    · rw [rget_of_regs (modCmp_regs _ c u _), hr.count, ctlPut_count]
    · rw [ron_of_rget_eq (rget_of_regs (modCmp_regs _ c u _) _), hr.late]
      rfl
  · exact ⟨_, hrun _, cmpCtlWrite_notOwned hown p u v false⟩

theorem compareFires_holds : compareFires := by
  intro c u s he
  have hrun : exec (.compareFire c u) s = .next (s.cmpReach c u) := exec_compareFire he c u
  refine ⟨fun hl => hrun.trans (congrArg _ (cmpReach_still hl)), fun hl hh => ?_, fun hl hh ho ha hp => ?_⟩
  · have hs := cmpReach_held hl hh
    exact ⟨_, hrun, hs⟩
  · have hr := cmpReach_fires hl hh ho ha hp
    exact ⟨_, hrun, by rw [hr.spent]; rfl, hr.ol, hr.count, hr.late, cmpReach_far _ _ _ (far_refl s)⟩

/-- Settles O15: a disarmed compare does not fire, unless its launch tick is reached; a waiting one fires in its launch tick. -/
theorem comparesFireOrAreDisarmed : Obligations.ComparesFireOrAreDisarmed := ⟨compareDisarms_holds, compareFires_holds⟩

/-- Settles O14: a write with ARM = 1 loads a compare, fires the old target or the new one, or sets OWN_ERR_S. -/
theorem compareArmLoadsOrFires : Obligations.CompareArmLoadsOrFires := by
  intro p c u v s hs
  have hrun : ∀ f, s.hostAct p (R.CHc_CMPu_TGT_CTL c (b2n u)) f = .next (f s) := fun f => hostAct_open hs p _ f
  have hput := ctlPut_within s c u v
  have hload : ∀ a : State, Within (.cell c) s a → a.held c = s.held c → a.loaded c (armTarget s p c u v) (wfld v 8 2) (decide (wfld v 10 1 = 1)) (wfld v 16 16) =
      ⟨true, armTarget s p c u v, s.tLaunch c - s.dueD c (armTarget s p c u v), wfld v 8 2, wfld v 10 1 == 1, wfld v 16 16, false, false, none,
        decide (0 < s.dueD c (armTarget s p c u v)) && s.held c, none⟩ := fun a ha hh => by
    simp only [State.loaded, ha.tLaunch, ha.dueD, hh]
    rfl
  refine ⟨fun hown hl hd => ?_, fun hown hl hh hd ha => ?_, fun hown hl hh hd ho ha hp => ?_, fun hown => ?_⟩
  · have he := (cmpCtlWrite_owned hown p u v true).trans (cmpArm_loads (s := s.ctlPut c u v) (u := u) (by rw [ctlPut_launched, ctlPut_held]; exact hl)
      (by rw [hput.dueD, ctlPut_held]; exact hd) (wfld v 8 2) (wfld v 10 1 = 1) (wfld v 16 16))
    refine ⟨_, (hrun _).trans (congrArg _ he), ?_, modCmp_other _ c u _, (modCmp_cell _ c u _).1, ctlPut_modCmp_regs s c u u v _,
      ctlPut_modCmp_only s c u u v _⟩
    rw [modCmp_same, hload _ hput (ctlPut_held s c c u v)]
    have hdue : (decide (0 < s.dueD c (armTarget s p c u v)) && s.held c) = decide (0 < s.dueD c (armTarget s p c u v)) := by
      rcases hd with hd | hd
      · rw [decide_eq_false (by omega), Bool.false_and]
      · rw [hd, Bool.and_true]
    rw [hdue]
  · obtain ⟨step, hstep⟩ := cmpArm_late (s := s.ctlPut c u v) (u := u) (target := armTarget s p c u v) (by rw [ctlPut_launched]; exact hl)
      (by rw [ctlPut_held]; exact hh) (by rw [hput.dueD]; exact hd) (wfld v 8 2) (wfld v 10 1 = 1) (wfld v 16 16)
    have he := (cmpCtlWrite_owned hown p u v true).trans hstep
    have hfar := cmpCtlWrite_far s p c u v true (far_refl s)
    refine ⟨_, hrun _, ?_⟩
    rw [he] at hfar ⊢
    obtain ⟨x, hx⟩ : ∃ x, x = (s.ctlPut c u v).loaded c (armTarget s p c u v) (wfld v 8 2) (decide (wfld v 10 1 = 1)) (wfld v 16 16) := ⟨_, rfl⟩
    rw [← hx] at hfar ⊢
    obtain ⟨a, hadef⟩ : ∃ a, a = (s.ctlPut c u v).modCmp c u (fun _ => x) := ⟨_, rfl⟩
    have hxs : cmpOf a.ch[c] u = x := by rw [hadef, modCmp_same]
    have hw : Within (.cell c) s a := by rw [hadef]; exact hput.trans (modCmp_within _ c u _)
    have hheld : a.held c = false := by rw [hadef, modCmp_held, ctlPut_held]; exact hh
    rw [hload _ hput (ctlPut_held s c c u v)] at hx
    have hother : u = true → cmpOf a.ch[c] false = cmpOf s.ch[c] false := fun hu => by
      subst hu
      rw [hadef]
      exact modCmp_other _ c true _
    have hr := cmpLate_fires (s := a) (c := c) (u := u) hheld (by unfold ofHost; rw [hxs, hx]; exact ⟨rfl, rfl⟩)
      (fun hu => by unfold ofHost; rw [hother hu]; exact ha hu) (by rw [hxs, hx]) step
    have hol : olBefore a c (u && a.launched c false) = olBefore s c (u && s.launched c false) := by
      cases u
      · show a.ch[c].ol = s.ch[c].ol
        rw [hadef]
        exact (modCmp_cell _ c _ _).1
      · have h1 := hother rfl
        have h2 : a.ch[c].ol = s.ch[c].ol := by rw [hadef]; exact (modCmp_cell _ c _ _).1
        have h3 : a.ch[c].cmpA = s.ch[c].cmpA := h1
        rw [hw.launched h1]
        unfold olBefore
        rw [h2, h3]
    rw [← hadef] at hfar ⊢
    rw [hxs, hx] at hr
    refine ⟨by rw [hr.spent]; rfl, hr.ol.trans (congrArg (actLevel · _) hol), ?_, ?_, hfar⟩
    · rw [hr.count, hadef, rget_of_regs (modCmp_regs _ c u _), ctlPut_count]
    · rw [hr.late, hw.tLaunch]
      exact decide_eq_true (by show (s.tLaunch c - (s.tLaunch c - s.dueD c (armTarget s p c u v))).toNat ≠ 0; omega)
  · have hlp : (s.ctlPut c u v).launched c u = true := by rw [ctlPut_launched]; exact hl
    have hhp : (s.ctlPut c u v).held c = false := by rw [ctlPut_held]; exact hh
    have hr := @cmpReach_fires (s.ctlPut c u v) c u hlp hhp ho ha hp
    rw [ctlPut_aFirst] at hr
    have he := (cmpCtlWrite_owned hown p u v true).trans (cmpArm_follows (s := s.ctlPut c u v) (u := u) hhp (wfld v 8 2) (wfld v 10 1 = 1) (wfld v 16 16)
      hr.within (by rw [hput.dueD]; exact hd))
    have hfar := cmpCtlWrite_far s p c u v true (far_refl s)
    refine ⟨_, hrun _, hfar, ?_⟩
    rw [he]
    refine ⟨?_, (modCmp_cell _ c u _).1.trans hr.ol, ?_, ?_⟩
    · rw [modCmp_same, hload _ (hput.trans hr.within) (hr.held.trans (ctlPut_held s c c u v)), hh, Bool.and_false]
    · rw [rget_of_regs (modCmp_regs _ c u _), hr.count, ctlPut_count]
    · rw [ron_of_rget_eq (rget_of_regs (modCmp_regs _ c u _) _), hr.late]
      rfl
  · exact ⟨_, hrun _, cmpCtlWrite_notOwned hown p u v true⟩

end Sys2Proof
end

section
/-!
SUPPORT. Holds of a channel: the supply of its bank, HOLD, and the release (R54, R55, R59, R60, R65).
-/
set_option Elab.async false
namespace Sys2Proof.Machine
open Sys2Proof

/-! ### A bank that loses its supply -/

/-- One state is another but for the channels. -/
def ChAlone (s t : State) : Prop := t = { s with ch := t.ch }

theorem ChAlone.refl (s : State) : ChAlone s s := rfl

theorem ChAlone.modCh {s t : State} (h : ChAlone s t) (c : Fin 96) (f : Channel → Channel) : ChAlone s (t.modCh c f) :=
  congrArg (fun u : State => u.modCh c f) h

theorem ChAlone.banks {s t : State} (h : ChAlone s t) : t.banks = s.banks := (congrArg State.banks h).trans rfl

theorem ChAlone.regs {s t : State} (h : ChAlone s t) : t.regs = s.regs := (congrArg State.regs h).trans rfl

theorem ballLevel_off {s : State} {c : Fin 96} (h : s.banks[bankOf c].supply = 0) : s.ballLevel c = none := if_pos (.inr (.inl h))

theorem held_off {s : State} {c : Fin 96} (h : s.banks[bankOf c].supply = 0) : s.held c = true := by
  simp only [State.held, h, decide_true, Bool.or_true]

theorem pinEcho_off {s : State} {c : Fin 96} (h : s.banks[bankOf c].supply = 0) (old : State) (t : Int) : s.pinEcho old c t = s := by
  unfold State.pinEcho
  rw [ballLevel_off h]

/-- A channel of a bank without supply keeps the level driven at most. -/
theorem holdMoved_off {s : State} {c : Fin 96} (h : s.banks[bankOf c].supply = 0) (old : State) :
    s.holdMoved old c = s ∨ ∃ l, s.holdMoved old c = s.modCh c (fun x => { x with heldLvl := l }) := by
  unfold State.holdMoved
  split
  · exact .inr ⟨old.ballLevel c, pinEcho_off (s := s.modCh c (fun x => { x with heldLvl := old.ballLevel c })) h old _⟩
  · rw [if_neg (fun hx => hx.2 (held_off h)), pinEcho_off h]
    exact .inl rfl

theorem mem_bankChannels {b : Fin 12} {c : Fin 96} : c ∈ bankChannels b ↔ bankOf c = b := by
  unfold bankChannels bankOf
  simp only [List.mem_map, List.mem_finRange, true_and, Fin.ext_iff]
  constructor
  · rintro ⟨i, h⟩
    omega
  · intro h
    exact ⟨⟨c.val % 8, by omega⟩, by show 8 * b.val + c.val % 8 = c.val; omega⟩

/-- What a change of some channels in turn leaves of the others. -/
theorem chFold_others {s : State} {cs : List (Fin 96)} (f : State → Fin 96 → State) (hf : ∀ t c d, c ∈ cs → d ≠ c → (f t c).ch[d] = t.ch[d]) {d : Fin 96} (hd : d ∉ cs) :
    (cs.foldl f s).ch[d] = s.ch[d] :=
  List.foldlRecOn (motive := fun t : State => t.ch[d] = s.ch[d]) cs f rfl (fun t ht c hc => (hf t c d hc (fun e => hd (e ▸ hc))).trans ht)

/-- What each of some channels shows once all have been changed in turn. -/
theorem chFold_each {cs : List (Fin 96)} (f : State → Fin 96 → State) (q : Channel → Prop) (hset : ∀ t c, c ∈ cs → q (f t c).ch[c])
    (hkeep : ∀ t c d, c ∈ cs → d ≠ c → (f t c).ch[d] = t.ch[d]) (s : State) {d : Fin 96} (hd : d ∈ cs) : q (cs.foldl f s).ch[d] := by
  induction cs generalizing s with
  | nil => exact absurd hd List.not_mem_nil
  | cons c cs ih =>
    by_cases hm : d ∈ cs
    · exact ih (fun t c hc => hset t c (List.mem_cons_of_mem _ hc)) (fun t c d hc => hkeep t c d (List.mem_cons_of_mem _ hc)) (f s c) hm
    · obtain rfl : d = c := (List.mem_cons.1 hd).resolve_right hm
      rw [List.foldl_cons, chFold_others f (fun t c e hc => hkeep t c e (List.mem_cons_of_mem _ hc)) hm]
      exact hset s d List.mem_cons_self

/-- The inputs of a bank read 0. -/
def State.inputsOff (s : State) (b : Fin 12) : State := (bankChannels b).foldl (fun s c => s.modCh c (fun x => { x with inLvl := false, own := [] })) s

theorem inputsOff_alone (s : State) (b : Fin 12) : ChAlone s (s.inputsOff b) :=
  pin_foldl (P := ChAlone s) _ _ (fun _ c ht => ht.modCh c _) (.refl s)

theorem supply_of {s : State} {b : Fin 12} {c : Fin 96} (hc : bankOf c = b) (hb : s.banks[b].supply = 0) : s.banks[bankOf c].supply = 0 := by
  subst hc
  exact hb

/-- What a channel of the bank is, once its hold has been looked at. -/
theorem holdMoved_offs {s₀ s : State} (b : Fin 12) (old : State) (hs : ChAlone s₀ s) (hb : s₀.banks[b].supply = 0) :
    let t := (bankChannels b).foldl (fun (a : State) (c : Fin 96) => a.holdMoved old c) s
    ChAlone s₀ t ∧ (∀ c : Fin 96, bankOf c ≠ b → t.ch[c] = s.ch[c]) ∧ (∀ c : Fin 96, t.ch[c].inLvl = s.ch[c].inLvl) := by
  have hoff : ∀ t, ChAlone s₀ t → ∀ c ∈ bankChannels b, t.holdMoved old c = t ∨ ∃ l, t.holdMoved old c = t.modCh c (fun x => { x with heldLvl := l }) := fun t ht c hc => by
    refine holdMoved_off ?_ old
    rw [ht.banks]
    exact supply_of (mem_bankChannels.1 hc) hb
  refine List.foldlRecOn (motive := fun t : State => ChAlone s₀ t ∧ (∀ c : Fin 96, bankOf c ≠ b → t.ch[c] = s.ch[c]) ∧ (∀ c : Fin 96, t.ch[c].inLvl = s.ch[c].inLvl))
    _ _ ⟨hs, fun _ _ => rfl, fun _ => rfl⟩ (fun t ⟨h1, h2, h3⟩ c hc => ?_)
  rcases hoff t h1 c hc with he | ⟨l, he⟩
  · rw [he]; exact ⟨h1, h2, h3⟩
  · rw [he]
    refine ⟨h1.modCh c _, fun d hd => ?_, fun d => ?_⟩
    · have hdc : d ≠ c := fun e => hd (e ▸ mem_bankChannels.1 hc)
      rw [ch_modCh_ne _ _ hdc, h2 d hd]
    · by_cases hdc : d = c
      · subst hdc
        rw [ch_modCh_same]
        exact h3 d
      · rw [ch_modCh_ne _ _ hdc, h3 d]

theorem modBank_same (s : State) (b : Fin 12) (f : Bank → Bank) : (s.modBank b f).banks[b] = f s.banks[b] := Vector.getElem_set_self _

theorem bankLoss_shows (s : State) (b : Fin 12) : let t := s.bankLoss b
    ChAlone (s.modBank b (fun x => { x with supply := 0 })) t ∧ (∀ c : Fin 96, bankOf c = b → t.ch[c].inLvl = false ∧ t.held c = true ∧ t.ballLevel c = none) ∧
      (∀ c : Fin 96, bankOf c ≠ b → t.ch[c] = s.ch[c]) := by
  intro t
  obtain ⟨a, ha⟩ : ∃ a, a = s.modBank b (fun x => { x with supply := 0 }) := ⟨_, rfl⟩
  have hab : a.banks[b].supply = 0 := by rw [ha, modBank_same]
  have hach : a.ch = s.ch := by rw [ha]; rfl
  obtain ⟨h1, h2, h3⟩ := holdMoved_offs b s (inputsOff_alone a b) hab
  have ht : t = (bankChannels b).foldl (fun (a : State) (c : Fin 96) => a.holdMoved s c) (a.inputsOff b) := by rw [ha]; rfl
  rw [← ht] at h1 h2 h3
  rw [← ha]
  have hne : ∀ (t : State) (c d : Fin 96), d ≠ c → (t.modCh c (fun x => { x with inLvl := false, own := [] })).ch[d] = t.ch[d] := fun t c d hd => ch_modCh_ne t _ hd
  refine ⟨h1, fun c hc => ⟨?_, held_off ?_, ballLevel_off ?_⟩, fun c hc => ?_⟩
  · rw [h3]
    exact chFold_each _ (fun x => x.inLvl = false) (fun t c _ => by rw [ch_modCh_same]) (fun t c d _ => hne t c d) a (mem_bankChannels.2 hc)
  · rw [h1.banks]
    exact supply_of hc hab
  · rw [h1.banks]
    exact supply_of hc hab
  · rw [h2 c hc, ← hach]
    exact chFold_others _ (fun t c d _ => hne t c d) (fun hm => hc (mem_bankChannels.1 hm))

/-- A supply that returns. -/
theorem bankReturn_shows {s : State} {b : Fin 12} (h : s.banks[b].supply = 0) (v : Bool) :
    (s.bankReturn b v).banks = (s.modBank b (fun x => { x with supply := if v then 2 else 1, lastV := if v then 2 else 1 })).banks ∧
      State.sameFar { s with banks := (s.bankReturn b v).banks } (s.bankReturn b v) := by
  obtain ⟨a, ha⟩ : ∃ a, a = s.modBank b (fun x => { x with supply := if v then 2 else 1, lastV := if v then 2 else 1 }) := ⟨_, rfl⟩
  have hcl := within_closed .all
  have hw : Within .all a ((bankChannels b).foldl (fun (a : State) (c : Fin 96) => a.holdMoved s c) a) :=
    pin_foldl _ _ (fun t c ht => holdMoved_pin hcl t s c trivial trivial trivial ht) (.refl _ a)
  have hf : Far a ((bankChannels b).foldl (fun (a : State) (c : Fin 96) => a.holdMoved s c) a) :=
    far_foldl _ _ (fun t c ht => holdMoved_far t s c ht) (far_refl a)
  have he : s.bankReturn b v = if s.banks[b].lastV = (if v then 2 else 1) then (bankChannels b).foldl (fun (a : State) (c : Fin 96) => a.holdMoved s c) a
      else ((bankChannels b).foldl (fun (a : State) (c : Fin 96) => a.holdMoved s c) a).bankWords b := by
    rw [ha]
    exact if_pos h
  have hw' : Within .all a (s.bankReturn b v) := by
    rw [he]
    exact pin_ite hw (bankWords_pin hcl _ b trivial (fun _ => trivial) trivial (fun _ => trivial) hw)
  have hf' : Far a (s.bankReturn b v) := by
    rw [he]
    exact far_ite hf (bankWords_far _ b hf)
  rw [hw'.banks]
  refine ⟨by rw [ha], ?_⟩
  have : a = { s with banks := a.banks } := by rw [ha]; rfl
  rw [← this]
  exact hf'

end Sys2Proof.Machine
end

section
set_option Elab.async false
namespace Sys2Proof
open Sys2Proof.Machine

theorem bankSuppliesHold_holds : bankSuppliesHold := by
  intro b s
  refine ⟨?_, fun v => ?_⟩
  · obtain ⟨h1, h2, h3⟩ := bankLoss_shows s b
    refine ⟨s.bankLoss b, rfl, h1.banks, h2, h3, fun o => ?_, ?_⟩
    · have hr := h1.regs
      simp only [State.reg, hr]
      rfl
    · generalize s.bankLoss b = t at h1
      rw [h1]
      exact sameBlocks_refl _
  · refine ⟨s.bankReturn b v, rfl, fun h => bankReturn_shows h v, fun h => if_neg h⟩

end Sys2Proof
end

section
/-!
SUPPORT. A write of HOLD, and the release of a channel (R55, R59, R60, R65).
-/
set_option Elab.async false
namespace Sys2Proof.Machine
open Sys2Proof

/-! ### An echo -/

theorem ballLevel_own (s : State) (c : Fin 96) (f : Channel → Channel)
    (hf : ∀ x, (f x).ol = x.ol ∧ (f x).holdBoot = x.holdBoot ∧ (f x).holdFrz = x.holdFrz ∧ (f x).heldLvl = x.heldLvl) :
    (s.modCh c f).ballLevel c = s.ballLevel c := by
  obtain ⟨h1, h2, h3, h4⟩ := hf s.ch[c]
  have hc : (s.modCh c f).ch[c] = f s.ch[c] := ch_modCh_same s c f
  have hh : (s.modCh c f).held c = s.held c := by
    unfold State.held
    rw [hc, h2, h3]
    rfl
  unfold State.ballLevel
  rw [hh, hc, h1, h4]
  rfl

/-- The level changes on their way after an echo. -/
def State.echoOwn (s old : State) (c : Fin 96) (t : Int) : List (Bool × Int) :=
  match s.ballLevel c with
  | some l => if old.ballLevel c = some l then s.ch[c].own else ownInsert (l != s.ron (F.CHc_PIN_IN_INV c), t) s.ch[c].own
  | none => s.ch[c].own

theorem modCh_self (s : State) (c : Fin 96) {f : Channel → Channel} (hf : f s.ch[c] = s.ch[c]) : s.modCh c f = s := by
  have h : s.ch.set c (f s.ch[c]) = s.ch := by
    rw [hf]
    exact Vector.set_getElem_self c.isLt
  unfold State.modCh
  rw [h]

theorem modCh_id (s : State) (c : Fin 96) : s.modCh c (fun x => x) = s := modCh_self s c rfl

theorem modCh_congr (s : State) (c : Fin 96) {f g : Channel → Channel} (h : f s.ch[c] = g s.ch[c]) : s.modCh c f = s.modCh c g := by
  unfold State.modCh
  rw [h]

theorem pinEcho_eq (s old : State) (c : Fin 96) (t : Int) : s.pinEcho old c t = s.modCh c (fun x => { x with own := s.echoOwn old c t }) := by
  have put : ∀ o : List (Bool × Int), s.echoOwn old c t = o → s.modCh c (fun x => { x with own := s.echoOwn old c t }) = s.modCh c (fun x => { x with own := o }) :=
    fun o h => by rw [h]
  unfold State.pinEcho
  cases hb : s.ballLevel c with
  | none => exact ((put s.ch[c].own (by unfold State.echoOwn; rw [hb])).trans (modCh_self s c rfl)).symm
  | some l =>
    by_cases hl : old.ballLevel c = some l
    · exact (if_pos hl).trans ((put s.ch[c].own (by unfold State.echoOwn; rw [hb]; exact if_pos hl)).trans (modCh_self s c rfl)).symm
    · refine (if_neg hl).trans (Eq.trans ?_ (put (ownInsert (l != s.ron (F.CHc_PIN_IN_INV c), t) s.ch[c].own)
        (by unfold State.echoOwn; rw [hb]; exact if_neg hl)).symm)
      exact modCh_congr s c rfl

theorem pinEcho_ballLevel (s old : State) (c : Fin 96) (t : Int) : (s.pinEcho old c t).ballLevel c = s.ballLevel c := by
  rw [pinEcho_eq]
  exact ballLevel_own s c _ (fun _ => ⟨rfl, rfl, rfl, rfl⟩)

/-! ### HOLD written -/

/-- HOLD as a host writes it. -/
def State.holdPut (s : State) (c : Fin 96) (hold : Bool) : State := s.rput (F.CHc_CTRL_HOLD c) (b2n hold)

theorem holdPut_frame (s : State) (c : Fin 96) (hold : Bool) : Frame [R.CHc_CTRL c] s (s.holdPut c hold) :=
  (Frame.refl _ s).rput (f := F.CHc_CTRL_HOLD c) _ List.mem_cons_self

theorem holdPut_banks (s : State) (c : Fin 96) (hold : Bool) : (s.holdPut c hold).banks = s.banks := rfl

theorem holdPut_ch (s : State) (c : Fin 96) (hold : Bool) : (s.holdPut c hold).ch = s.ch := rfl

theorem holdPut_on (s : State) (c : Fin 96) (hold : Bool) : (s.holdPut c hold).ron (F.CHc_CTRL_HOLD c) = hold := by
  have h : (s.holdPut c hold).rget (F.CHc_CTRL_HOLD c) = b2n hold % 2 ^ 1 := rget_rput_same s ⟨R.CHc_CTRL c, 10, 1⟩ _ (by decide : (10 : Nat) + 1 ≤ 32)
  rw [State.ron, h]
  cases hold <;> rfl

theorem holdPut_held (s : State) (c : Fin 96) (hold : Bool) :
    (s.holdPut c hold).held c = (hold || (s.ch[c].holdBoot || s.ch[c].holdFrz || decide (s.banks[bankOf c].supply = 0))) := by
  unfold State.held
  rw [holdPut_on]
  show (s.ch[c].holdBoot || hold || s.ch[c].holdFrz || decide (s.banks[bankOf c].supply = 0)) = _
  cases s.ch[c].holdBoot <;> cases hold <;> rfl

theorem holdPut_pin (s : State) (c : Fin 96) (hold : Bool) : (s.holdPut c hold).reg (R.CHc_PIN c) = s.reg (R.CHc_PIN c) :=
  reg_rput_ne s _ (by show R.CHc_PIN c ≠ R.CHc_CTRL c; simp only [R.CHc_PIN, R.CHc_CTRL]; omega)

/-- A launch turns on the spine, its rate, the bank, the factory words and the pin's drive. -/
theorem tLaunch_congr {s t : State} {c : Fin 96} (hs : t.spine = s.spine) (hr : t.reg R.SPN_RATE = s.reg R.SPN_RATE)
    (hp : t.reg (R.CHc_PIN c) = s.reg (R.CHc_PIN c)) (hb : t.banks = s.banks) (ho : t.otp = s.otp) : t.tLaunch c = s.tLaunch c := by
  have hd : t.rget (F.CHc_PIN_DRV c) = s.rget (F.CHc_PIN_DRV c) := rget_of_reg hp
  have hc : t.calF c = s.calF c := by
    unfold State.calF
    rw [dif_pos c.isLt, dif_pos c.isLt, hd]
    simp only [State.calVolt, State.otpV, State.otpWord, hb, ho]
  unfold State.tLaunch State.launchK
  rw [hc, tAhead_congr hs hr]

theorem holdPut_tLaunch (s : State) (c : Fin 96) (hold : Bool) : (s.holdPut c hold).tLaunch c = s.tLaunch c :=
  tLaunch_congr rfl (reg_rput_ne s _ (by show R.SPN_RATE ≠ R.CHc_CTRL c; unfold R.SPN_RATE R.CHc_CTRL; omega)) (holdPut_pin s c hold) rfl rfl

/-- What an echo behind a write of HOLD makes of its channel. -/
theorem holdPut_echo (s : State) (c : Fin 96) (hold : Bool) (g : Channel → Channel) (hg : ∀ x, (g x).own = x.own) :
    let t := ((s.holdPut c hold).modCh c g).pinEcho s c s.now
    (t.regs = (s.holdPut c hold).regs ∧ t.banks = s.banks ∧ t.ballLevel c = ((s.holdPut c hold).modCh c g).ballLevel c) ∧ t.ch[c] = { g s.ch[c] with own := echoed s t c } ∧ s.sameRegsBut t [R.CHc_CTRL c] ∧ onlyChannel s t c := by
  intro t
  obtain ⟨b, hb⟩ : ∃ b, b = (s.holdPut c hold).modCh c g := ⟨_, rfl⟩
  have ht : t = b.pinEcho s c s.now := by rw [hb]
  have hinv : b.ron (F.CHc_PIN_IN_INV c) = s.ron (F.CHc_PIN_IN_INV c) := by rw [hb]; exact ron_of_reg (holdPut_pin s c hold)
  have hch : b.ch[c] = g s.ch[c] := by rw [hb]; exact ch_modCh_same _ c g
  have hball : t.ballLevel c = b.ballLevel c := by rw [ht]; exact pinEcho_ballLevel b s c _
  have hown : b.echoOwn s c s.now = echoed s t c := by
    unfold State.echoOwn echoed
    rw [hball, hinv, hch, hg] <;> rfl
  have he : t = b.modCh c (fun x => { x with own := echoed s t c }) := by rw [← hown, ht]; exact pinEcho_eq b s c _
  refine ⟨⟨by rw [he, hb]; rfl, by rw [he, hb]; rfl, by rw [← hb]; exact hball⟩, ?_, fun o ho hn => ?_, ?_⟩
  · rw [he, ch_modCh_same, hch, ← he]
  · rw [he]
    show b.reg o = s.reg o
    rw [hb]
    exact (holdPut_frame s c hold).regs o ho hn
  · rw [he, hb]
    exact ⟨sameBlocks_refl _, fun d hd => (ch_modCh_ne _ _ hd).trans (ch_modCh_ne _ _ hd)⟩

/-- The hold of a channel, from the registers and its own holds. -/
theorem held_of {s t : State} {c : Fin 96} (hr : t.regs = s.regs) (hb : t.banks = s.banks) (h1 : t.ch[c].holdBoot = s.ch[c].holdBoot)
    (h2 : t.ch[c].holdFrz = s.ch[c].holdFrz) : t.held c = s.held c := by
  unfold State.held
  rw [h1, h2, hb, ron_of_rget_eq (rget_of_regs hr _)]

/-! ### A channel held on -/

theorem holdPut_safe (s : State) (c : Fin 96) (hold : Bool) : (s.holdPut c hold).rget (F.CHc_CTRL_SAFE c) = s.rget (F.CHc_CTRL_SAFE c) :=
  rget_rput_apart s (f := ⟨R.CHc_CTRL c, 10, 1⟩) (g := ⟨R.CHc_CTRL c, 8, 2⟩) _ (by decide : (10 : Nat) + 1 ≤ 32) rfl (.inl (by show (8 : Nat) + 2 ≤ 10; decide))

/-- A channel that was held shows under HOLD what it showed. -/
theorem holdPut_ballLevel {s : State} {c : Fin 96} (h : s.held c = true) : (s.holdPut c true).ballLevel c = s.ballLevel c := by
  have hm : (s.holdPut c true).rget (F.CHc_PIN_MODE c) = s.rget (F.CHc_PIN_MODE c) := rget_of_reg (holdPut_pin s c true)
  have hp : (s.holdPut c true).powered = s.powered :=
    congrArg (fun n => n != 4 && n != 5) (rget_of_reg (f := F.PW_STAT_STATE) (reg_rput_ne s _ (by show R.PW_STAT ≠ R.CHc_CTRL c; unfold R.PW_STAT R.CHc_CTRL; omega)))
  have hi : (s.holdPut c true).ron (F.CHc_PIN_OUT_INV c) = s.ron (F.CHc_PIN_OUT_INV c) := ron_of_reg (holdPut_pin s c true)
  have hh : (s.holdPut c true).held c = true := by rw [holdPut_held]; rfl
  unfold State.ballLevel State.drives
  rw [hh, h, hm, hp, hi, holdPut_safe, holdPut_banks, holdPut_ch]

theorem echoed_same {s t : State} {c : Fin 96} (h : t.ballLevel c = s.ballLevel c) : echoed s t c = s.ch[c].own := by
  unfold echoed
  rw [h]
  split
  case h_1 l hl => exact if_pos hl
  case h_2 => rfl

/-! ### A release -/

/-- A release of a channel with nothing armed and no train that runs. -/
theorem holdRelease_still {s : State} {c : Fin 96} (ha : s.ch[c].cmpA.armed = false) (hb : s.ch[c].cmpB.armed = false) (hf : s.ch[c].fifo.state ≠ .run) :
    s.holdRelease c = s := by
  have h1 : s.relFire c (s.ch[c].cmpA.armed && decide (s.ch[c].cmpA.ask < s.tLaunch c)) (s.ch[c].cmpB.armed && decide (s.ch[c].cmpB.ask < s.tLaunch c)) = s := by
    rw [ha, hb]; rfl
  have h2 : s.relPin c s.ch[c].ol = s := if_neg (by rw [bne_self_eq_false, Bool.false_and]; decide)
  have h3 : ∀ (u : Bool) (y : Cmp), y.armed = false → s.relWait c u y = s := fun u y hy => if_neg (fun h => by rw [hy] at h; exact absurd h.1 (by decide))
  unfold State.holdRelease
  dsimp only
  rw [h1, h2, ha, hb]
  show State.fifoFill fifoFuel ((s.relWait c false s.ch[c].cmpA).relWait c true s.ch[c].cmpB) c false [] = s
  rw [h3 _ _ ha, h3 _ _ hb, fifoFill_still hf]

/-- A channel's compares, output level, train and holds, and its last-fire registers, are as they were. -/
structure Inert (s t : State) (c : Fin 96) : Prop where
  within : Within (.cell c) s t
  cmp : ∀ v, cmpOf t.ch[c] v = cmpOf s.ch[c] v
  ol : t.ch[c].ol = s.ch[c].ol
  fifo : t.ch[c].fifo = s.ch[c].fifo
  boot : t.ch[c].holdBoot = s.ch[c].holdBoot
  frz : t.ch[c].holdFrz = s.ch[c].holdFrz
  last : ∀ v, t.reg (R.CHc_CMPu_LAST_SUB c (b2n v)) = s.reg (R.CHc_CMPu_LAST_SUB c (b2n v)) ∧
    t.reg (R.CHc_CMPu_LATE c (b2n v)) = s.reg (R.CHc_CMPu_LATE c (b2n v))

theorem Inert.refl (s : State) (c : Fin 96) : Inert s s c := ⟨.refl _ s, fun _ => rfl, rfl, rfl, rfl, rfl, fun _ => ⟨rfl, rfl⟩⟩

theorem Inert.trans {s t v : State} {c : Fin 96} (h : Inert s t c) (h' : Inert t v c) : Inert s v c :=
  ⟨h.within.trans h'.within, fun b => (h'.cmp b).trans (h.cmp b), h'.ol.trans h.ol, h'.fifo.trans h.fifo, h'.boot.trans h.boot, h'.frz.trans h.frz,
    fun b => ⟨(h'.last b).1.trans (h.last b).1, (h'.last b).2.trans (h.last b).2⟩⟩

/-- What only counts, captures and records. -/
theorem Within.inert {s t : State} (h : Within .quiet s t) (c : Fin 96) : Inert s t c := by
  obtain ⟨h1, h2, h3, h4, h5, _⟩ := (h.cell c (fun hx => hx)).shows
  exact ⟨h.mono (quiet_le_cell c), h1, h2, h3, h4, h5, fun v => ⟨h.regs _ (lastFire_apart (fun hx => hx) v).1, h.regs _ (lastFire_apart (fun hx => hx) v).2⟩⟩

/-- A change of a channel's pin alone. -/
theorem modCh_inert (s : State) (c : Fin 96) {f : Channel → Channel} (hc : ∀ x v, cmpOf (f x) v = cmpOf x v)
    (hf : ∀ x, (f x).ol = x.ol ∧ (f x).fifo = x.fifo ∧ (f x).holdBoot = x.holdBoot ∧ (f x).holdFrz = x.holdFrz) : Inert s (s.modCh c f) c := by
  have he : (s.modCh c f).ch[c] = f s.ch[c] := ch_modCh_same s c f
  obtain ⟨h1, h2, h3, h4⟩ := hf s.ch[c]
  exact ⟨(Within.refl _ s).modCh c f (.inl rfl), fun v => by rw [he]; exact hc _ v, by rw [he]; exact h1, by rw [he]; exact h2, by rw [he]; exact h3,
    by rw [he]; exact h4, fun _ => ⟨rfl, rfl⟩⟩

theorem pinEcho_inert (s old : State) (c : Fin 96) (t : Int) : Inert s (s.pinEcho old c t) c := by
  rw [pinEcho_eq]
  exact modCh_inert s c (fun _ v => by cases v <;> rfl) (fun _ => ⟨rfl, rfl, rfl, rfl⟩)

theorem pinMoved_inert (s : State) (c : Fin 96) (tp : Int) : Inert s (s.pinMoved c tp) c :=
  modCh_inert s c (f := fun x => { x with lastPin := some tp, lastAt := s.pinPos c tp }) (fun _ v => by cases v <;> rfl) (fun _ => ⟨rfl, rfl, rfl, rfl⟩)

theorem relPin_inert (s : State) (c : Fin 96) (ol : Bool) : Inert s (s.relPin c ol) c := by
  have hcl := within_closed .quiet
  have hp : Reach.quiet.pins := trivial
  unfold State.relPin
  split
  · have h1 : Within .quiet (s.pinMoved c (s.pinSlot c (s.tLaunch c))) ((s.pinMoved c (s.pinSlot c (s.tLaunch c))).count c 4) := count_pin hcl _ _ _ hp (.refl _ _)
    exact (pinMoved_inert s c _).trans ((pin_ite h1 (evt_pin hcl _ _ (.chEvt c hp) (rsat_pin hcl _ _ _ (.chErr c hp) h1))).inert c)
  · exact .refl s c

theorem Inert.held {s t : State} {c : Fin 96} (h : Inert s t c) : t.held c = s.held c := h.within.held h.boot h.frz

/-- A release fires a compare of a host that is behind, where nothing else is armed. -/
theorem holdRelease_fires {s : State} {c : Fin 96} {u : Bool} (ha : (cmpOf s.ch[c] u).armed = true) (ht : (cmpOf s.ch[c] u).tb < s.tLaunch c)
    (hp : (cmpOf s.ch[c] u).place = none) (ho : ofHost s c u) (hn : (cmpOf s.ch[c] (!u)).armed = false) (hf : s.ch[c].fifo.state ≠ .run) :
    s.holdRelease c = (s.fireLate c u s.stepNow true).relPin c s.ch[c].ol := by
  have hask : (cmpOf s.ch[c] u).ask = (cmpOf s.ch[c] u).tb := by unfold Cmp.ask; rw [hp]; rfl
  have hdue : ((cmpOf s.ch[c] u).armed && decide ((cmpOf s.ch[c] u).ask < s.tLaunch c)) = true := by rw [ha, hask, decide_eq_true ht]; rfl
  have hidle : ((cmpOf s.ch[c] (!u)).armed && decide ((cmpOf s.ch[c] (!u)).ask < s.tLaunch c)) = false := by rw [hn]; rfl
  obtain ⟨t, htd⟩ : ∃ t, t = (s.fireLate c u s.stepNow true).relPin c s.ch[c].ol := ⟨_, rfl⟩
  have hfire := @fireLate_shows s c u hp s.stepNow true
  have hin := relPin_inert (s.fireLate c u s.stepNow true) c s.ch[c].ol
  rw [← htd] at hin
  have hlaunch : t.tLaunch c = s.tLaunch c := hin.within.tLaunch c |>.trans (hfire.within.tLaunch c)
  have hwait : t.relWait c u (cmpOf s.ch[c] u) = t := if_neg (fun h => by have := h.2.2; rw [hlaunch, hask] at this; omega)
  have hwaitn : t.relWait c (!u) (cmpOf s.ch[c] (!u)) = t := if_neg (fun h => by rw [hn] at h; exact absurd h.1 (by decide))
  have hafter : t.afterFire c u (cmpOf s.ch[c] u) true = t := afterFire_host t c u ho.1 ho.2 true
  have hfill : State.fifoFill fifoFuel t c false [] = t := fifoFill_still (by rw [hin.fifo, hfire.cell.fifo]; exact hf) _ _ _
  unfold State.holdRelease
  dsimp only
  cases u
  · rw [show (s.ch[c].cmpA.armed && decide (s.ch[c].cmpA.ask < s.tLaunch c)) = true from hdue,
      show (s.ch[c].cmpB.armed && decide (s.ch[c].cmpB.ask < s.tLaunch c)) = false from hidle]
    show State.fifoFill fifoFuel (((((s.fireLate c false s.stepNow true).relPin c s.ch[c].ol).afterFire c false s.ch[c].cmpA true).relWait c false s.ch[c].cmpA).relWait c true s.ch[c].cmpB) c false [] = _
    rw [← htd, show t.afterFire c false s.ch[c].cmpA true = t from hafter, show t.relWait c false s.ch[c].cmpA = t from hwait,
      show t.relWait c true s.ch[c].cmpB = t from hwaitn, hfill]
  · rw [show (s.ch[c].cmpA.armed && decide (s.ch[c].cmpA.ask < s.tLaunch c)) = false from hidle,
      show (s.ch[c].cmpB.armed && decide (s.ch[c].cmpB.ask < s.tLaunch c)) = true from hdue]
    show State.fifoFill fifoFuel (((((s.fireLate c true s.stepNow true).relPin c s.ch[c].ol).afterFire c true s.ch[c].cmpB true).relWait c false s.ch[c].cmpA).relWait c true s.ch[c].cmpB) c false [] = _
    rw [← htd, show t.afterFire c true s.ch[c].cmpB true = t from hafter, show t.relWait c false s.ch[c].cmpA = t from hwaitn,
      show t.relWait c true s.ch[c].cmpB = t from hwait, hfill]

/-! ### What a write of HOLD does -/

theorem holdMoved_stays {s old : State} {c : Fin 96} (h : s.held c = old.held c) : s.holdMoved old c = s.pinEcho old c s.now :=
  (if_neg (fun hx => hx.2 (by rw [← h]; exact hx.1))).trans (if_neg (fun hx => hx.2 (by rw [h]; exact hx.1)))

theorem holdMoved_begins {s old : State} {c : Fin 96} (h : s.held c = true) (ho : old.held c = false) :
    s.holdMoved old c = (s.modCh c (fun x => { x with heldLvl := old.ballLevel c })).pinEcho old c s.now :=
  if_pos ⟨h, by rw [ho]; decide⟩

theorem holdMoved_ends {s old : State} {c : Fin 96} (h : s.held c = false) (ho : old.held c = true) :
    s.holdMoved old c = (s.holdRelease c).pinEcho old c
      (if (s.holdRelease c).ch[c].ol = old.ch[c].ol then s.now else (s.holdRelease c).ch[c].lastPin.getD (s.tLaunch c)) :=
  (if_neg (by rw [h]; simp)).trans (if_pos ⟨ho, by rw [h]; decide⟩)

end Sys2Proof.Machine
end

section
set_option Elab.async false
namespace Sys2Proof
open Sys2Proof.Machine

/-- What a write of HOLD leaves of the other parts that a hold turns on. -/
theorem holdPut_shows (s : State) (c : Fin 96) (hold : Bool) : ∃ a, a = s.holdPut c hold ∧ a.ch = s.ch ∧ a.banks = s.banks ∧ a.now = s.now ∧
    a.tLaunch c = s.tLaunch c ∧ a.held c = (hold || (s.ch[c].holdBoot || s.ch[c].holdFrz || decide (s.banks[bankOf c].supply = 0))) ∧
    a.ron (F.CHc_CTRL_HOLD c) = hold :=
  ⟨_, rfl, rfl, rfl, rfl, holdPut_tLaunch s c hold, holdPut_held s c hold, holdPut_on s c hold⟩

/-- A hold that does not end with HOLD = 0, or that ends on a channel with nothing armed, echoes its level alone. -/
theorem holdMoved_echoes {s a : State} {c : Fin 96} (hch : a.ch = s.ch) (hnow : a.now = s.now) (hle : a.held c = true → s.held c = true)
    (ha : s.ch[c].cmpA.armed = false) (hb : s.ch[c].cmpB.armed = false) (hf : s.ch[c].fifo.state ≠ .run) :
    a.holdMoved s c = a.pinEcho s c s.now := by
  cases hh : a.held c with
  | true => rw [holdMoved_stays (hh.trans (hle hh).symm), hnow]
  | false =>
    cases hs : s.held c with
    | false => rw [holdMoved_stays (hh.trans hs.symm), hnow]
    | true =>
      have hrel : a.holdRelease c = a := holdRelease_still (by rw [hch]; exact ha) (by rw [hch]; exact hb) (by rw [hch]; exact hf)
      rw [holdMoved_ends hh hs, hrel, hch, if_pos rfl, hnow]

theorem channelHoldKeepsTheLevel_holds : channelHoldKeepsTheLevel := by
  intro p c s hs
  have hrun : ∀ hold, exec (.channelHold p c hold) s = .next ((s.holdPut c hold).holdMoved s c) := fun hold => hostAct_open hs p (R.CHc_CTRL c) _
  have hd : s.held c = (s.ch[c].holdBoot || s.ron (F.CHc_CTRL_HOLD c) || s.ch[c].holdFrz || decide (s.banks[bankOf c].supply = 0)) := rfl
  refine ⟨?_, fun ha hb hf => ?_, fun u ha ht hp ho hn hf hon hfree => ?_⟩
  · obtain ⟨a, had, hch, hbk, hnow, hlaunch, hput, hset⟩ := holdPut_shows s c true
    have hrun := hrun true
    rw [← had] at hrun
    cases hh : s.held c with
    | true =>
      obtain ⟨⟨h1, h2, h3⟩, h4, h5, h6⟩ := holdPut_echo s c true (fun x => x) (fun _ => rfl)
      have hball := holdPut_ballLevel hh
      rw [← had] at h1 h2 h3 h4 h5 h6 hball
      rw [modCh_id] at h1 h2 h3 h4 h5 h6
      have he : a.holdMoved s c = a.pinEcho s c s.now := by rw [holdMoved_stays (hput.trans hh.symm), hnow]
      refine ⟨_, hrun.trans (congrArg _ he), ?_, ?_, ?_, h5, h6⟩
      · rw [ron_of_rget_eq (rget_of_regs h1 _), hset]
      · rw [held_of (s := a) h1 (h2.trans hbk.symm) (by rw [h4, hch]) (by rw [h4, hch]), hput]
        rfl
      · rw [h4, echoed_same (h3.trans hball)]
        rfl
    | false =>
      obtain ⟨⟨h1, h2, h3⟩, h4, h5, h6⟩ := holdPut_echo s c true (fun x => { x with heldLvl := s.ballLevel c }) (fun _ => rfl)
      rw [← had] at h1 h2 h3 h4 h5 h6
      have he := holdMoved_begins (s := a) hput hh
      rw [hnow] at he
      refine ⟨_, hrun.trans (congrArg _ he), ?_, ?_, h4, h5, h6⟩
      · rw [ron_of_rget_eq (rget_of_regs h1 _), hset]
      · rw [held_of (s := a) h1 (h2.trans hbk.symm) (by rw [h4, hch]) (by rw [h4, hch]), hput]
        rfl
  · obtain ⟨a, had, hch, hbk, hnow, hlaunch, hput, hset⟩ := holdPut_shows s c false
    have hrun := hrun false
    obtain ⟨⟨h1, h2, h3⟩, h4, h5, h6⟩ := holdPut_echo s c false (fun x => x) (fun _ => rfl)
    rw [← had] at hrun h1 h2 h3 h4 h5 h6
    rw [modCh_id] at h1 h2 h3 h4 h5 h6
    have hle : a.held c = true → s.held c = true := fun h => by
      rw [hput] at h
      rw [hd]
      revert h
      cases s.ch[c].holdBoot <;> cases s.ron (F.CHc_CTRL_HOLD c) <;> cases s.ch[c].holdFrz <;> cases decide (s.banks[bankOf c].supply = 0) <;> decide
    refine ⟨_, hrun.trans (congrArg _ (holdMoved_echoes hch hnow hle ha hb hf)), ?_, ?_, h4, h5, h6⟩
    · rw [ron_of_rget_eq (rget_of_regs h1 _), hset]
    · rw [held_of (s := a) h1 (h2.trans hbk.symm) (by rw [h4, hch]) (by rw [h4, hch]), hput, Bool.false_or]
  · obtain ⟨a, had, hch, hbk, hnow, hlaunch, hput, hset⟩ := holdPut_shows s c false
    have hrun := hrun false
    have hcnt : a.rget (F.CHc_CMPu_LAST_SUB_FIRE_CNT c (b2n u)) = s.rget (F.CHc_CMPu_LAST_SUB_FIRE_CNT c (b2n u)) := by
      rw [had]
      refine rget_of_reg (reg_rput_ne s _ ?_)
      show R.CHc_CMPu_LAST_SUB c (b2n u) ≠ R.CHc_CTRL c
      have hu : b2n u ≤ 1 := by cases u <;> decide
      unfold R.CHc_CMPu_LAST_SUB R.CHc_CTRL
      omega
    have hafar : Far s a := by rw [had]; exact rput_far s _ _ (far_refl s)
    rw [← had] at hrun
    rw [hfree] at hput
    have hheld : s.held c = true := by rw [hd, hon, Bool.or_true, Bool.true_or, Bool.true_or]
    rw [← hch] at ha hp hn hf
    have ht' : (cmpOf a.ch[c] u).tb < a.tLaunch c := by rw [hlaunch, hch]; exact ht
    have hfire := @fireLate_shows a c u hp a.stepNow true
    have hin := relPin_inert (a.fireLate c u a.stepNow true) c a.ch[c].ol
    rw [← holdRelease_fires ha ht' hp (by unfold ofHost; rw [hch]; exact ho) hn hf] at hin
    have he := holdMoved_ends hput hheld
    have hall := hin.trans (pinEcho_inert _ s c (if (a.holdRelease c).ch[c].ol = s.ch[c].ol then a.now else (a.holdRelease c).ch[c].lastPin.getD (a.tLaunch c)))
    rw [← he] at hall
    refine ⟨_, hrun, (hall.held.trans hfire.held).trans hput, ?_, ?_, ?_, ?_, holdMoved_far _ s c hafar⟩
    · rw [hall.cmp, hfire.cell.fired]; rfl
    · rw [hall.ol, hfire.cell.ol, State.fireOl, hch]
    · rw [rget_of_reg (f := F.CHc_CMPu_LAST_SUB_FIRE_CNT c (b2n u)) (hall.last u).1, hfire.count, hcnt]
    · rw [ron_of_reg (f := F.CHc_CMPu_LAST_SUB_LATE c (b2n u)) (hall.last u).1, hfire.late]
      exact decide_eq_true (by omega)

/-- Settles O16: a bank without supply, and HOLD, hold a channel. -/
theorem holdsAndBankSupplies : Obligations.HoldsAndBankSupplies := ⟨bankSuppliesHold_holds, channelHoldKeepsTheLevel_holds⟩

end Sys2Proof
end

section
/-!
SUPPORT. What strobes, steps of the spine and ticks leave: a strobe changes staged values, the blocks that it gives them to, and the apply block.
-/
set_option Elab.async false
namespace Sys2Proof.Machine
open Sys2Proof

/-! ### Relations that strobes keep -/

/-- A register that strobes, steps and ticks write beside those of the pins: the apply block's, the configuration count, the spine's status, and the
Lehr's. -/
inductive TickReg : Nat → Prop
  | apply {o : Nat} : 0x3000 ≤ o → o < 0x4000 → TickReg o
  | gen : TickReg R.GL_CFGGEN
  | spnStat : TickReg R.SPN_STAT
  | lehr {o : Nat} : 0x20000 ≤ o → o < 0x20100 → TickReg o

/-- A relation between a state and a later one that the elementary changes of the end of a tick keep, but for those of the spine. -/
structure EndClosed (Q : State → State → Prop) : Prop extends PinClosed .all Q where
  stat : ∀ {s₀ : State} (s : State) (w : Word), Q s₀ s → Q s₀ (s.setReg R.SPN_STAT w)
  merge : ∀ {s₀ : State} (s : State) (o : Nat) (w : Word), Q s₀ s → Q s₀ (s.setReg o (stMerge o (s.reg o) w))
  given : ∀ {s₀ : State} (s : State) (u x y : Tbl Word), Q s₀ s → Q s₀ { s with calU := u, ap := { s.ap with regs := x, words := y } }

/-- A relation that the elementary changes of strobes and ticks keep, but for those of the spine. -/
structure TickClosed (Q : State → State → Prop) : Prop extends EndClosed Q where
  put : ∀ {s₀ : State} (s : State) (o : Nat) (w : Word), TickReg o → Q s₀ s → Q s₀ (s.setReg o w)
  ap : ∀ {s₀ : State} (s : State) (x : ApState), Q s₀ s → Q s₀ { s with ap := x }
  staged : ∀ {s₀ : State} (s : State) (x y : Tbl Word), Q s₀ s → Q s₀ { s with staged := x, calS := y }
  lehr : ∀ {s₀ : State} (s : State) (l : Lehr), Q s₀ s → Q s₀ { s with lehr := l }
  heard : ∀ {s₀ : State} (s : State) (k n : Nat), Q s₀ s → Q s₀ { s with el := { s.el with counted := k, rseq := n } }

/-- The relation stands over a change of the spine that leaves its tick. -/
def SpineClosed (Q : State → State → Prop) : Prop :=
  ∀ {s₀ : State} (s : State) (f : Spine → Spine), (∀ p, (f p).tick = p.tick) → Q s₀ s → Q s₀ (s.modSpine f)

/-- The relation stands over the end of a slew. -/
def SlewClosed (Q : State → State → Prop) : Prop :=
  ∀ {s₀ : State} (s : State), Q s₀ s → Q s₀ (s.modSpine (fun p => { p with slew := none }))

theorem SpineClosed.slew {Q : State → State → Prop} (h : SpineClosed Q) : SlewClosed Q := fun _ hk => h _ _ (fun _ => rfl) hk

/-- The relation stands over a phase command that a strobe releases. -/
def PhaseClosed (Q : State → State → Prop) : Prop :=
  ∀ {s₀ : State} (s : State) (q : SpnCmd), s.spine.pend = some q → Q s₀ s → Q s₀ ((s.modSpine (fun p => { p with pend := none })).spnRun q)

/-! ### The end of a tick -/

section
variable {Q : State → State → Prop} (hE : EndClosed Q) {s₀ : State}
include hE

theorem slewReport_end (hW : SlewClosed Q) (s : State) (shift : Int) (aborted : Bool) (t : Nat) (hk : Q s₀ s) :
    Q s₀ (s.slewReport shift aborted t) := by
  have h : Q s₀ (s.modSpine (fun p => { p with slew := none })) := hW _ hk
  exact emit_pin hE.toPinClosed _ _ _ _ _ _ _ _ _ (pin_ite h (hE.stat _ _ h))

theorem slewFinish_end (hW : SlewClosed Q) (s : State) (hk : Q s₀ s) : Q s₀ s.slewFinish := by
  unfold State.slewFinish
  split
  · split
    · exact slewReport_end hE hW _ _ _ _ hk
    · exact hk
  · exact hk

theorem oRefMoved_end (s old : State) (n : Fin 4) (hk : Q s₀ s) : Q s₀ (s.oRefMoved old n) := by
  have hP := hE.toPinClosed
  refine pin_ite (oBroadcast_pin hP _ _ _ _ trivial (emitFl_pin hP _ _ _ _ _ _ _ _ _ (evt_pin hP _ _ (.oryEvt n trivial) (rsat_pin hP _ _ _ (.oryErr n trivial) ?_)))) hk
  exact hE.modOry _ _ _ trivial (oShowPart_pin hP _ _ _ trivial hk)

theorem oryStrobe_end (s old : State) (n : Fin 4) (hk : Q s₀ s) : Q s₀ (s.oryStrobe old n) := by
  have hP := hE.toPinClosed
  exact pin_ite hk (pin_ite (oOff_pin hP _ _ trivial hk) (pin_ite hk (pin_ite (oRestart_pin hP _ _ _ trivial hk)
    (pin_ite (oRefMoved_end hE _ _ _ hk) hk))))

theorem oBeforeStrobe_end (s : State) (n : Fin 4) (hk : Q s₀ s) : Q s₀ (s.oBeforeStrobe n) := by
  have hP := hE.toPinClosed
  exact pin_ite hk (oKeepOld_pin hP _ _ _ _ trivial (oQuadSettle_pin hP _ _ trivial hk))

/-- The state in which the Orreries find the values that a strobe has left for the end of its tick. -/
def State.heldGiven (s : State) : State :=
  let s0 := (List.finRange 4).foldl (fun (x : State) (n : Fin 4) => x.oBeforeStrobe n) s
  let a := s.ap.regs.foldl (fun (x : State) e => x.setReg e.1 (stMerge e.1 (x.reg e.1) e.2)) s0
  { a with calU := s.ap.words.foldl (fun t e => tblSet calUDefault t e.1 e.2) a.calU, ap := { a.ap with regs := [], words := [] } }

theorem heldGiven_end (s : State) (hk : Q s₀ s) : Q s₀ s.heldGiven := by
  have h0 : Q s₀ ((List.finRange 4).foldl (fun (x : State) (n : Fin 4) => x.oBeforeStrobe n) s) :=
    pin_foldl _ _ (fun a n ha => oBeforeStrobe_end hE _ _ ha) hk
  let put (x : State) (e : Nat × Word) : State := x.setReg e.1 (stMerge e.1 (x.reg e.1) e.2)
  obtain ⟨a, ha⟩ : ∃ a, a = s.ap.regs.foldl put ((List.finRange 4).foldl (fun (x : State) (n : Fin 4) => x.oBeforeStrobe n) s) := ⟨_, rfl⟩
  have hb : Q s₀ a := by rw [ha]; exact pin_foldl put _ (fun a e ha => hE.merge a e.1 e.2 ha) h0
  obtain ⟨u, he⟩ : ∃ u, s.heldGiven = { a with calU := u, ap := { a.ap with regs := [], words := [] } } := ⟨_, by rw [ha]; rfl⟩
  rw [he]
  exact hE.given a u [] [] hb

theorem activateHeld_end (s : State) (hk : Q s₀ s) : Q s₀ s.activateHeld := by
  have hP := hE.toPinClosed
  exact pin_ite hk (pin_foldl _ _ (fun a b ha => sbufSpace_pin hP _ _ ha)
    (pin_foldl _ _ (fun a e ha => pin_ite ha (calSaturate_pin hP _ _ (fun _ => trivial) ha))
      (pin_foldl _ _ (fun a n ha => oryStrobe_end hE _ _ _ ha) (heldGiven_end hE s hk))))

theorem tickEnd_end (hW : SlewClosed Q) (s : State) (hk : Q s₀ s) : Q s₀ s.tickEnd := by
  have hP := hE.toPinClosed
  exact activateHeld_end hE _ (pin_foldl _ _ (fun a n ha => oTickEnd_pin hP _ _ trivial ha)
    (slewFinish_end hE hW _ (pin_foldl _ _ (fun a c ha => flushImage_pin hP _ _ trivial ha) hk)))

end

/-! ### Registers and reports of a strobe -/

section
variable {Q : State → State → Prop} (hT : TickClosed Q) {s₀ : State}
include hT

theorem rput_tick (s : State) (f : Fld) (v : Nat) (hf : TickReg f.reg) (hk : Q s₀ s) : Q s₀ (s.rput f v) := hT.put _ _ _ hf hk

theorem rsat_tick (s : State) (f : Fld) (k : Nat) (hf : TickReg f.reg) (hk : Q s₀ s) : Q s₀ (s.rsat f k) := rput_tick hT _ _ _ hf hk

theorem rwrap_tick (s : State) (f : Fld) (k : Nat) (hf : TickReg f.reg) (hk : Q s₀ s) : Q s₀ (s.rwrap f k) := rput_tick hT _ _ _ hf hk

theorem evt_tick (s : State) (f : Fld) (hf : TickReg f.reg) (hk : Q s₀ s) : Q s₀ (s.evt f) := by
  have h : Q s₀ ((s.noteSet f).rput f 1) := rput_tick hT _ _ _ hf (hT.noteSet _ _ hk)
  unfold State.evt
  split
  · exact hT.noteSet _ _ hk
  · split
    · exact h
    · exact ecEdge_pin hT.toPinClosed _ _ h

theorem emit_tick (s : State) (type src t fl : Nat) (w4 w5 w6 w7 : Word) (hk : Q s₀ s) : Q s₀ (s.emit type src t fl w4 w5 w6 w7) :=
  emit_pin hT.toPinClosed _ _ _ _ _ _ _ _ _ hk

/-! ### A step of the spine -/

theorem spnRefuse_tick (s : State) (code : Nat) (hk : Q s₀ s) : Q s₀ (s.spnRefuse code) :=
  evt_pin hT.toPinClosed _ _ (.spnEvt fun _ => trivial) (rput_tick hT _ _ _ .spnStat hk)

theorem lhState_tick (s : State) (kind : Nat) (w5 w6 : Word) (hk : Q s₀ s) : Q s₀ (s.lhState kind w5 w6) := emit_tick hT _ _ _ _ _ _ _ _ _ hk

theorem lhLateCheck_tick (s : State) (hk : Q s₀ s) : Q s₀ s.lhLateCheck := by
  unfold State.lhLateCheck
  refine pin_ite (pin_foldl _ _ (fun a i ha => lhState_tick hT _ _ _ _ ha) ?_) hk
  exact evt_tick hT _ _ (.lehr (by decide) (by decide)) (rsat_tick hT _ _ _ (.lehr (by decide) (by decide)) (hT.lehr _ _ hk))

theorem lhPass_tick (s : State) (hk : Q s₀ s) : Q s₀ s.lhPass := lhLateCheck_tick hT _ (hT.lehr _ _ hk)

theorem apPass_tick (s : State) (pre : Nat) (hk : Q s₀ s) : Q s₀ (s.apPass pre) :=
  pin_foldl _ _ (fun _ _ ha => pin_ite (hT.ap _ _ ha) ha) hk

theorem stepRejudge_tick (s : State) (hk : Q s₀ s) : Q s₀ s.stepRejudge :=
  stepRejudge_pin hT.toPinClosed _ trivial (fun _ => trivial) trivial hk

theorem stepBy_tick (hS : SpineClosed Q) (s : State) (a : Int) (isSet : Bool) (hk : Q s₀ s) : Q s₀ (s.stepBy a isSet) := by
  unfold State.stepBy
  refine pin_ite ?_ (pin_ite (spnRefuse_tick hT _ _ hk) ?_)
  · exact lhPass_tick hT _ (apPass_tick hT _ _ (stepRejudge_tick hT _
      (emit_tick hT _ _ _ _ _ _ _ _ _ (rput_tick hT _ _ _ .spnStat (hS _ _ (fun _ => rfl) hk)))))
  · exact emit_tick hT _ _ _ _ _ _ _ _ _ (rput_tick hT _ _ _ .spnStat (hS _ _ (fun _ => rfl) hk))

theorem slewStop_tick (hS : SpineClosed Q) (s : State) (hk : Q s₀ s) : Q s₀ s.slewStop := by
  unfold State.slewStop
  split
  · split <;> exact slewReport_end hT.toEndClosed hS.slew _ _ _ _ hk
  · exact hk

theorem slewBegin_tick (hS : SpineClosed Q) (s : State) (a : Int) (dur : Nat) (hk : Q s₀ s) : Q s₀ (s.slewBegin a dur) :=
  pin_ite (spnRefuse_tick hT _ _ hk) (hS _ _ (fun _ => rfl) (slewStop_tick hT hS _ hk))

theorem spnRun_tick (hS : SpineClosed Q) (s : State) (q : SpnCmd) (hk : Q s₀ s) : Q s₀ (s.spnRun q) := by
  unfold State.spnRun
  split
  · exact hk
  · exact stepBy_tick hT hS _ _ _ hk
  · exact stepBy_tick hT hS _ _ _ hk
  · exact slewBegin_tick hT hS _ _ _ hk
  · split
    · exact spnRefuse_tick hT _ _ hk
    · exact slewStop_tick hT hS _ hk

omit s₀ in
theorem SpineClosed.phase (hS : SpineClosed Q) : PhaseClosed Q := fun _ _ _ hk => spnRun_tick hT hS _ _ (hS _ _ (fun _ => rfl) hk)

/-! ### A strobe -/

theorem activate_tick (s : State) (m : Nat) (hk : Q s₀ s) : Q s₀ (s.activate m) := by
  let put (a : State) (e : Nat × Word) : State := a.setReg e.1 (stMerge e.1 (a.reg e.1) e.2)
  have h (l : List (Nat × Word)) : Q s₀ (l.foldl put s) := pin_foldl put l (fun a e ha => hT.merge a e.1 e.2 ha) hk
  obtain ⟨b, hb⟩ : ∃ b, b = ((s.staged.filter (fun e => nbit m (s.groupOf e.1))).filter (fun e => !waitsBlock e.1)).foldl put s := ⟨_, rfl⟩
  obtain ⟨x, y, he⟩ : ∃ x y, s.activate m = { b with staged := x, ap := y } := ⟨_, _, by rw [hb]; rfl⟩
  rw [he]
  exact hT.ap { b with staged := x } y (hT.staged b x b.calS (by rw [hb]; exact h _))

theorem activateCal_tick (s : State) (m : Nat) (hk : Q s₀ s) : Q s₀ (s.activateCal m) := by
  obtain ⟨u, x, y, he⟩ : ∃ u x y, s.activateCal m = { s with calU := u, calS := x, ap := y } := ⟨_, _, _, rfl⟩
  rw [he]
  exact hT.ap { s with calU := u, calS := x } y (hT.staged { s with calU := u } s.staged x (hT.given s u s.ap.regs s.ap.words hk))

theorem apDrop_tick (s : State) (m : Nat) (hk : Q s₀ s) : Q s₀ (s.apDrop m) := hT.staged s _ _ hk

theorem cfgChanged_tick (s : State) (hk : Q s₀ s) : Q s₀ s.cfgChanged := rwrap_tick hT _ _ _ .gen hk

theorem cntPut_tick (s : State) (c : Fin 96) (f : Channel → Channel) (hf : KeepsCell f) (hk : Q s₀ s) : Q s₀ (s.modCh c f) :=
  hT.modCh _ _ _ (.inr ⟨trivial, hf⟩) hk

theorem cntFrom_tick (s : State) (c : Fin 96) (v : Nat) (hk : Q s₀ s) : Q s₀ (s.cntFrom c v) := by
  have h1 : Q s₀ (s.modCh c (fun x => { x with cnt := v % 2 ^ 32, cntTick := none })) := cntPut_tick hT _ _ _ (fun _ => rfl) hk
  have h2 := pin_ite (c := s.cascLo c = true) (cntPut_tick hT _ (pairOf c) (fun x => { x with cnt := v / 2 ^ 32 }) (fun _ => rfl) h1) h1
  exact pin_ite (countNow_pin hT.toPinClosed _ _ _ trivial h2) h2

theorem cntStrobe_tick (s old : State) (c : Fin 96) (hk : Q s₀ s) : Q s₀ (s.cntStrobe old c) := by
  have h1 : Q s₀ (s.latch c causeStop s.now) := latch_pin hT.toPinClosed _ _ _ _ trivial hk
  have h2 : Q s₀ ((s.latch c causeStop s.now).modCh c (fun x => { x with cnt := s.cntBefore c % 2 ^ 32, cntTick := none })) :=
    cntPut_tick hT _ _ _ (fun _ => rfl) h1
  exact pin_ite hk (pin_ite (pin_ite (cntPut_tick hT _ _ _ (fun _ => rfl) h2) h2)
    (pin_ite hk (pin_ite (cntFrom_tick hT _ _ _ hk) (pin_ite (cntFrom_tick hT _ _ _ hk) hk))))

theorem pinStrobe_tick (s old : State) (c : Fin 96) (hk : Q s₀ s) : Q s₀ (s.pinStrobe old c) :=
  pinEcho_pin hT.toPinClosed _ _ _ _ trivial
    (pin_ite (hT.modCh _ _ _ (.inl ⟨trivial, fun _ => ⟨rfl, rfl⟩⟩) hk) hk)

theorem chStrobe_tick (s old : State) (c : Fin 96) (hk : Q s₀ s) : Q s₀ (s.chStrobe old c) := by
  have hP := hT.toPinClosed
  have h1 := cntStrobe_tick hT s old c hk
  have h2 := pin_ite (c := old.rget (F.CHc_CTRL_OWN c) = s.rget (F.CHc_CTRL_OWN c)) h1
    (ownChange_pin hP _ c (old.rget (F.CHc_CTRL_OWN c)) (s.rget (F.CHc_CTRL_OWN c)) trivial trivial trivial h1)
  have h3 := pin_ite (c := old.rget (F.CHc_CTRL_OWN c) ≠ s.rget (F.CHc_CTRL_OWN c) ∨ old.rget (F.CHc_CTRL_TB c) ≠ s.rget (F.CHc_CTRL_TB c))
    (wakeCh_pin hP _ c 11 h2) h2
  have h4 := pin_ite (c := old.rget (F.CHc_PIN_DRV c) = s.rget (F.CHc_PIN_DRV c)) h3
    (calSaturate_pin hP _ c (fun _ => trivial) (cmpRetime_pin hP _ c (s.outTrc c) trivial trivial trivial h3))
  exact wakeCh_pin hP _ _ _ (capPump_pin hP _ _ trivial (pinStrobe_tick hT _ _ _ (pin_ite (fifoBegin_pin hP _ _ trivial trivial h4) h4)))

theorem calStrobe_tick (s old : State) (hk : Q s₀ s) : Q s₀ (s.calStrobe old) := by
  have hP := hT.toPinClosed
  exact pin_foldl _ _ (fun a q ha => pin_ite ha (calSaturate_pin hP _ _ (fun _ => trivial) ha))
    (pin_foldl _ _ (fun a c ha => pin_ite ha (cmpRetime_pin hP _ _ _ trivial trivial trivial ha)) hk)

omit hT in
theorem spnStrobe_tick (hR : PhaseClosed Q) (s : State) (g : Nat) (hk : Q s₀ s) : Q s₀ (s.spnStrobe g) := by
  unfold State.spnStrobe
  split
  case h_1 q hq => exact pin_ite (hR _ _ hq hk) hk
  case h_2 => exact hk

theorem strobe_tick (hR : PhaseClosed Q) (s : State) (m : Nat) (hk : Q s₀ s) : Q s₀ (s.strobe m).1 := by
  have h1 := activateCal_tick hT _ m (activate_tick hT s m hk)
  refine pin_foldl _ _ (fun a g ha => pin_ite (spnStrobe_tick (Q := Q) hR _ _ ha) ha)
    (pin_foldl _ _ (fun a c ha => pin_ite (chStrobe_tick hT _ _ _ ha) ha) (calStrobe_tick hT _ _ ?_))
  exact pin_ite (cfgChanged_tick hT _ h1) h1

theorem strobeNote_tick (s : State) (m incl : Nat) (hk : Q s₀ s) : Q s₀ (s.strobeNote m incl) := by
  have hput : ∀ {a : State} (o : Nat) (w : Word), 0x3000 ≤ o ∧ o < 0x4000 → Q s₀ a → Q s₀ (a.setReg o w) := fun o w ho ha =>
    hT.put _ _ _ (.apply ho.1 ho.2) ha
  refine evt_tick hT _ _ (.apply (by decide) (by decide)) (hT.ap _ _ (pin_ite ?_ (rwrap_tick hT _ _ _ (.apply (by decide) (by decide)) ?_)))
  all_goals exact hput _ _ (by decide) (hput _ _ (by decide) (hput _ _ (by decide) hk))

theorem applyDone_tick (s : State) (m incl origin path : Nat) (hk : Q s₀ s) : Q s₀ (s.applyDone m incl origin path) :=
  emit_tick hT _ _ _ _ _ _ _ _ _ hk

theorem apFree_tick (s : State) (i : Nat) (hi : i < 8) (hk : Q s₀ s) : Q s₀ (s.apFree i) := by
  have hput : ∀ {a : State} (o : Nat) (w : Word), 0x3000 ≤ o ∧ o < 0x4000 → Q s₀ a → Q s₀ (a.setReg o w) := fun o w ho ha =>
    hT.put _ _ _ (.apply ho.1 ho.2) ha
  refine hT.ap _ _ (hput _ _ ?_ (hput _ _ ?_ (hput _ _ ?_ (hput _ _ ?_ hk))))
  · unfold R.AP_PENDi_BSEQ; omega
  · unfold R.AP_PENDi_INFO; omega
  · unfold R.AP_PENDi_HI; omega
  · unfold R.AP_PENDi_LO; omega

theorem apDone_tick (s old : State) (i incl : Nat) (hk : Q s₀ s) : Q s₀ (s.apDone old i incl) :=
  emit_tick hT _ _ _ _ _ _ _ _ _ (pin_ite (evt_tick hT _ _ (.apply (by decide) (by decide)) hk) hk)

theorem apStrobe_tick (hR : PhaseClosed Q) (s : State) (extra : Nat) (reqs : List (Nat × Nat)) (es : List Nat) (hes : ∀ i ∈ es, i < 8)
    (hk : Q s₀ s) : Q s₀ (s.apStrobe extra reqs es) := by
  have hf : Q s₀ (es.foldl (fun (a : State) i => a.apFree i) s) :=
    List.foldlRecOn es _ hk (fun a ha i hi => apFree_tick hT a i (hes i hi) ha)
  refine pin_ite hf (pin_foldl _ _ (fun a i ha => apDone_tick hT _ _ _ _ ha) (pin_foldl _ _ (fun a q ha => applyDone_tick hT _ _ _ _ _ ha)
    (strobeNote_tick hT _ _ _ (strobe_tick hT hR _ _ hf))))

theorem apPassed_tick (hR : PhaseClosed Q) (k : Nat) (s : State) (hk : Q s₀ s) : Q s₀ (State.apPassed k s) := by
  induction k generalizing s with
  | zero => exact hk
  | succ k ih =>
    exact pin_ite hk (ih _ (apStrobe_tick hT hR _ _ _ _ (fun i hi => List.mem_range.1 (List.mem_filter.1 hi).1) hk))

theorem apFollow_tick (hR : PhaseClosed Q) (s old : State) (hk : Q s₀ s) : Q s₀ (s.apFollow old) := pin_ite hk (apPassed_tick hT hR 8 s hk)

theorem apTick_tick (hR : PhaseClosed Q) (s : State) (extra : Nat) (hk : Q s₀ s) : Q s₀ (s.apTick extra) :=
  pin_foldl _ _ (fun _ _ ha => apDrop_tick hT _ _ ha)
    (apFollow_tick hT hR _ _ (apStrobe_tick hT hR _ _ _ _ (fun _ hi => List.mem_range.1 (List.mem_filter.1 hi).1) (hT.ap _ _ hk)))

/-! ### A tick -/

theorem rseqStep_tick (s : State) (hk : Q s₀ s) : Q s₀ s.rseqStep := pin_ite (hT.heard _ _ _ hk) hk

theorem chTick_tick (s : State) (c : Fin 96) (hk : Q s₀ s) : Q s₀ (s.chTick c) := by
  have hP := hT.toPinClosed
  exact capPump_pin hP _ _ trivial (stagePump_pin hP _ _ trivial
    (ownStep_pin hP _ _ _ trivial trivial (fun _ => trivial) (pin_ite (count_pin hP _ _ _ trivial hk) hk)))

end

/-- What the blocks do at the start of a tick, behind its strobe and the banks' new tables. -/
def State.blocksStart (s : State) : State :=
  let s3 := (List.finRange 2).foldl (fun (s : State) (k : Fin 2) => s.convTick k)
    ((List.finRange 4).foldl (fun (s : State) (n : Fin 4) => s.oTickStart n) s)
  (List.finRange 96).foldl (fun (s : State) (c : Fin 96) => s.chTick c) s3.lhLateCheck.rseqStep

/-- The state in which the strobe of a tick finds the machine. -/
def State.tickBegun (s : State) : State :=
  ({ s.modSpine (fun p => { p with tick := p.tick + 1 }) with hif := { s.hif with evSet := [] } } : State).slowTick s.spine.tick

/-- The banks take their new tables. -/
def State.banksSwap (s : State) : State := (List.finRange 12).foldl (fun (s : State) (b : Fin 12) => s.bankSwap b) s

theorem tickStart_eq (s : State) (extra : Nat) : s.tickStart extra = (s.tickBegun.apTick extra).banksSwap.blocksStart := rfl

theorem blocksStart_tick {Q : State → State → Prop} (hT : TickClosed Q) {s₀ : State} (s : State) (hk : Q s₀ s) : Q s₀ s.blocksStart := by
  have hP := hT.toPinClosed
  exact pin_foldl _ _ (fun a c ha => chTick_tick hT _ _ ha) (rseqStep_tick hT _ (lhLateCheck_tick hT _
    (pin_foldl _ _ (fun a k ha => convTick_pin hP _ _ ha) (pin_foldl _ _ (fun a n ha => oTickStart_pin hP _ _ trivial ha) hk))))

end Sys2Proof.Machine
end

section
/-!
SUPPORT. What a strobe, a step or a tick cannot change: registers of other pages, the banks, the freeze, the loader; and the spine, where no phase
command waits.
-/
set_option Elab.async false
namespace Sys2Proof.Machine
open Sys2Proof

/-! ### An Orrery's older configuration -/

theorem underOld_shape (s : State) (rs ws : List (Nat × Word)) (f : State → State) :
    ∃ r u r', s.underOld rs ws f = { f { s with regs := r, calU := u } with regs := r', calU := s.calU } := by
  obtain ⟨u, hu⟩ : ∃ u, u = ws.foldl (fun (u : Tbl Word) e => tblSet calUDefault u e.1 e.2) s.calU := ⟨_, rfl⟩
  refine ⟨(s.putOld rs).regs, u, ((f { s with regs := (s.putOld rs).regs, calU := u }).putOld ((rs.map (fun e => e.1)).map (fun k => (k, s.reg k)))).regs, ?_⟩
  rw [underOld_eq, ← hu, putOld_alike (f _), putOld_alike s]

theorem underOld_reg (s : State) (rs ws : List (Nat × Word)) (f : State → State) {o : Nat} (hf : ∀ a : State, (f a).reg o = a.reg o) :
    (s.underOld rs ws f).reg o = s.reg o := by
  rw [underOld_eq]
  obtain ⟨a, ha⟩ : ∃ a : State, a = { s.putOld rs with calU := ws.foldl (fun (u : Tbl Word) e => tblSet calUDefault u e.1 e.2) s.calU } := ⟨_, rfl⟩
  have hfa : (f a).reg o = (s.putOld rs).reg o := (hf a).trans (by rw [ha]; rfl)
  rw [← ha]
  show ((f a).putOld _).reg o = s.reg o
  by_cases hr : 0x10000 ≤ o ∧ o < 0x14000
  · refine putOld_reg_same hr ?_
    by_cases hm : o ∈ rs.map (fun e => e.1)
    · exact .inl hm
    · exact .inr (hfa.trans (putOld_reg_ne (fun e he hx => hm (List.mem_map.2 ⟨e, he, hx⟩))))
  · exact (putOld_reg_out hr).trans (hfa.trans (putOld_reg_out hr))

/-! ### What stays behind strobes and ticks -/

/-- A register that no strobe, step or tick writes. -/
def StillReg (o : Nat) : Prop := ¬ PinReg .all o ∧ ¬ TickReg o ∧ stBits o = 0

theorem stMerge_still {o : Nat} (h : stBits o = 0) (old w : Word) : stMerge o old w = old := by
  refine BitVec.eq_of_toNat_eq ?_
  unfold stMerge
  rw [h, Nat.and_zero, Nat.or_zero, BitVec.toNat_ofNat]
  rw [show (0xFFFFFFFF - 0 : Nat) = 2 ^ 32 - 1 from rfl, Nat.and_two_pow_sub_one_eq_mod, Nat.mod_mod, Nat.mod_eq_of_lt old.isLt]

/-- One state is another but for what strobes and ticks change. -/
structure Ticked (s t : State) : Prop where
  regs : ∀ o, StillReg o → t.reg o = s.reg o
  banks : t.banks = s.banks
  frz : t.frz = s.frz
  load : t.load = s.load
  host : t.host = s.host
  pending : t.pending = s.pending
  hif : { t.hif with evSet := s.hif.evSet } = s.hif
  holds : ∀ c : Fin 96, t.ch[c].holdFrz = s.ch[c].holdFrz ∧ t.ch[c].holdBoot = s.ch[c].holdBoot
  tick : t.spine.tick = s.spine.tick

theorem Ticked.refl (s : State) : Ticked s s := ⟨fun _ _ => rfl, rfl, rfl, rfl, rfl, rfl, rfl, fun _ => ⟨rfl, rfl⟩, rfl⟩

theorem Ticked.trans {s t u : State} (h : Ticked s t) (k : Ticked t u) : Ticked s u :=
  ⟨fun o ho => (k.regs o ho).trans (h.regs o ho), k.banks.trans h.banks, k.frz.trans h.frz, k.load.trans h.load, k.host.trans h.host,
    k.pending.trans h.pending, by rw [← h.hif]; have := k.hif; rw [← this],
    fun c => ⟨(k.holds c).1.trans (h.holds c).1, (k.holds c).2.trans (h.holds c).2⟩, k.tick.trans h.tick⟩

/-- A change beside all that. -/
theorem Ticked.beside {s t u : State} (h : Ticked s t) (hr : u.regs = t.regs) (h1 : u.banks = t.banks) (h2 : u.frz = t.frz) (h3 : u.load = t.load)
    (h4 : u.host = t.host) (h5 : u.pending = t.pending) (h6 : u.hif = t.hif) (h7 : u.ch = t.ch) (h8 : u.spine.tick = t.spine.tick) : Ticked s u where
  regs o ho := by rw [← h.regs o ho]; exact congrArg (fun m => tblGet _ m o) hr
  banks := h1.trans h.banks
  frz := h2.trans h.frz
  load := h3.trans h.load
  host := h4.trans h.host
  pending := h5.trans h.pending
  hif := by rw [h6]; exact h.hif
  holds c := by rw [h7]; exact h.holds c
  tick := h8.trans h.tick

theorem Ticked.setReg {s t : State} (h : Ticked s t) {o : Nat} (w : Word) (ho : StillReg o → w = t.reg o) : Ticked s (t.setReg o w) where
  regs x hx := by
    by_cases hxo : x = o
    · subst hxo
      rw [reg_setReg_same, ho hx, h.regs x hx]
    · rw [reg_setReg_ne _ _ hxo, h.regs x hx]
  banks := h.banks
  frz := h.frz
  load := h.load
  host := h.host
  pending := h.pending
  hif := h.hif
  holds := h.holds
  tick := h.tick

theorem Ticked.modCh {s t : State} (h : Ticked s t) (c : Fin 96) (f : Channel → Channel) (hf : KeepsHolds f) : Ticked s (t.modCh c f) where
  regs := h.regs
  banks := h.banks
  frz := h.frz
  load := h.load
  host := h.host
  pending := h.pending
  hif := h.hif
  holds d := by
    by_cases hdc : d = c
    · subst hdc
      rw [ch_modCh_same]
      exact ⟨(hf _).1.trans (h.holds d).1, (hf _).2.trans (h.holds d).2⟩
    · rw [ch_modCh_ne _ _ hdc]
      exact h.holds d
  tick := h.tick

theorem Ticked.noteSet {s t : State} (h : Ticked s t) (f : Fld) : Ticked s (t.noteSet f) where
  regs := h.regs
  banks := h.banks
  frz := h.frz
  load := h.load
  host := h.host
  pending := h.pending
  hif := h.hif
  holds := h.holds
  tick := h.tick

theorem Ticked.underOld {s t : State} (rs ws : List (Nat × Word)) (f : State → State) (hf : ∀ s₁ a, Ticked s₁ a → Ticked s₁ (f a))
    (h : Ticked s t) : Ticked s (t.underOld rs ws f) := by
  have hregs : ∀ o, StillReg o → (t.underOld rs ws f).reg o = t.reg o := fun o ho => underOld_reg t rs ws f (fun a => (hf a a (.refl a)).regs o ho)
  refine h.trans ?_
  obtain ⟨r, u, r', he⟩ := underOld_shape t rs ws f
  obtain ⟨a, ha⟩ : ∃ a : State, a = { t with regs := r, calU := u } := ⟨_, rfl⟩
  have hfa := hf a a (.refl a)
  rw [he, ← ha] at hregs ⊢
  generalize f a = b at hfa hregs ⊢
  subst ha
  exact ⟨hregs, hfa.banks, hfa.frz, hfa.load, hfa.host, hfa.pending, hfa.hif, hfa.holds, hfa.tick⟩

theorem ticked_closed : TickClosed Ticked where
  setReg _ _ w ho h := h.setReg w (fun hs => absurd ho hs.1)
  sameReg _ _ h := h.setReg _ (fun _ => rfl)
  noteSet _ f h := h.noteSet f
  ec _ _ h := h.beside rfl rfl rfl rfl rfl rfl rfl rfl rfl
  modCh _ c f hf h := h.modCh c f (hf.elim And.right (fun x => x.2.keepsHolds))
  modOry _ _ f hn h := h.beside rfl rfl rfl rfl rfl rfl rfl rfl rfl
  modConv _ _ _ h := h.beside rfl rfl rfl rfl rfl rfl rfl rfl rfl
  modSbuf _ _ _ h := h.beside rfl rfl rfl rfl rfl rfl rfl rfl rfl
  queue _ _ _ h := h.beside rfl rfl rfl rfl rfl rfl rfl rfl rfl
  faults _ _ _ h := h.beside rfl rfl rfl rfl rfl rfl rfl rfl rfl
  kick _ h := h.beside rfl rfl rfl rfl rfl rfl rfl rfl rfl
  sram _ _ h := h.beside rfl rfl rfl rfl rfl rfl rfl rfl rfl
  drawn _ h := h.beside rfl rfl rfl rfl rfl rfl rfl rfl rfl
  underOld _ rs ws f hf h := h.underOld rs ws f hf
  modGaf _ _ _ _ he h := h.beside rfl rfl rfl rfl rfl rfl rfl rfl rfl
  modThr t d n f _ h := h.beside rfl rfl rfl rfl rfl rfl rfl rfl rfl
  wake t d n bit h := by rw [wake_eq]; exact h.beside rfl rfl rfl rfl rfl rfl rfl rfl rfl
  put _ _ w ho h := h.setReg w (fun hs => absurd ho hs.2.1)
  stat _ w h := h.setReg w (fun hs => absurd .spnStat hs.2.1)
  merge _ _ w h := h.setReg _ (fun hs => stMerge_still hs.2.2 _ w)
  given _ _ _ _ h := h.beside rfl rfl rfl rfl rfl rfl rfl rfl rfl
  ap _ _ h := h.beside rfl rfl rfl rfl rfl rfl rfl rfl rfl
  staged _ _ _ h := h.beside rfl rfl rfl rfl rfl rfl rfl rfl rfl
  lehr _ _ h := h.beside rfl rfl rfl rfl rfl rfl rfl rfl rfl
  heard _ _ _ h := h.beside rfl rfl rfl rfl rfl rfl rfl rfl rfl

theorem ticked_spine : SpineClosed Ticked := fun _ _ hf h => h.beside rfl rfl rfl rfl rfl rfl rfl rfl (hf _)

theorem ticked_phase : PhaseClosed Ticked := ticked_spine.phase ticked_closed

/-! ### The spine -/

/-- The spine stays, where it had a property. -/
def SpineStays (p : Spine → Prop) (s t : State) : Prop := p s.spine → t.spine = s.spine

theorem SpineStays.beside {p : Spine → Prop} {s t u : State} (h : SpineStays p s t) (hu : u.spine = t.spine) : SpineStays p s u := fun hp => hu.trans (h hp)

theorem spineStays_closed (p : Spine → Prop) : TickClosed (SpineStays p) where
  setReg _ _ _ _ h := h.beside rfl
  sameReg _ _ h := h.beside rfl
  noteSet _ f h := h.beside rfl
  ec _ _ h := h.beside rfl
  modCh _ c f hf h := h.beside rfl
  modOry _ _ f hn h := h.beside rfl
  modConv _ _ _ h := h.beside rfl
  modSbuf _ _ _ h := h.beside rfl
  queue _ _ _ h := h.beside rfl
  faults _ _ _ h := h.beside rfl
  kick _ h := h.beside rfl
  sram _ _ h := h.beside rfl
  drawn _ h := h.beside rfl
  underOld t rs ws f hf h := by
    obtain ⟨r, u, r', he⟩ := underOld_shape t rs ws f
    rw [he]
    exact (hf _ { t with regs := r, calU := u } (h.beside rfl)).beside rfl
  modGaf _ _ _ _ he h := h.beside rfl
  modThr t d n f _ h := h.beside rfl
  wake t d n bit h := by rw [wake_eq]; exact h.beside rfl
  stat _ _ h := h.beside rfl
  merge _ _ w h := h.beside rfl
  given _ _ _ _ h := h.beside rfl
  put _ _ w ho h := h.beside rfl
  ap _ _ h := h.beside rfl
  staged _ _ _ h := h.beside rfl
  lehr _ _ h := h.beside rfl
  heard _ _ _ h := h.beside rfl

/-- No phase command waits for a strobe. -/
def NoPhase (p : Spine) : Prop := p.pend = none

theorem noPhase_phase : PhaseClosed (SpineStays NoPhase) := fun s q hq h hp => by
  rw [h hp, hp] at hq
  exact absurd hq (by simp)

/-! ### The end of a tick -/

/-- A register that the end of a tick does not write. -/
def EndReg (o : Nat) : Prop := ¬ PinReg .all o ∧ o ≠ R.SPN_STAT ∧ stBits o = 0

/-- What the end of a tick leaves beside: registers of other pages, the requests and entries of the apply block, and the spine but for a slew. -/
structure Ended (s t : State) : Prop where
  regs : ∀ o, EndReg o → t.reg o = s.reg o
  ap : { t.ap with regs := [], words := [] } = { s.ap with regs := [], words := [] }
  slew : t.spine = { s.spine with slew := t.spine.slew }

theorem Ended.refl (s : State) : Ended s s := ⟨fun _ _ => rfl, rfl, rfl⟩

theorem Ended.beside {s t u : State} (h : Ended s t) (hr : u.regs = t.regs) (ha : u.ap = t.ap) (hs : u.spine = t.spine) : Ended s u :=
  ⟨fun o ho => by rw [← h.regs o ho]; exact congrArg (fun m => tblGet _ m o) hr, by rw [ha]; exact h.ap, by rw [hs]; exact h.slew⟩

theorem Ended.setReg {s t : State} (h : Ended s t) {o : Nat} (w : Word) (ho : EndReg o → w = t.reg o) : Ended s (t.setReg o w) :=
  ⟨fun x hx => by
    by_cases hxo : x = o
    · subst hxo
      rw [reg_setReg_same, ho hx, h.regs x hx]
    · rw [reg_setReg_ne _ _ hxo, h.regs x hx], h.ap, h.slew⟩

theorem ended_closed : EndClosed Ended where
  setReg _ _ w ho h := h.setReg w (fun hs => absurd ho hs.1)
  sameReg _ _ h := h.setReg _ (fun _ => rfl)
  noteSet _ f h := h.beside rfl rfl rfl
  ec _ _ h := h.beside rfl rfl rfl
  modCh _ c f hf h := h.beside rfl rfl rfl
  modOry _ _ f hn h := h.beside rfl rfl rfl
  modConv _ _ _ h := h.beside rfl rfl rfl
  modSbuf _ _ _ h := h.beside rfl rfl rfl
  queue _ _ _ h := h.beside rfl rfl rfl
  faults _ _ _ h := h.beside rfl rfl rfl
  kick _ h := h.beside rfl rfl rfl
  sram _ _ h := h.beside rfl rfl rfl
  drawn _ h := h.beside rfl rfl rfl
  underOld {s₀} t rs ws f hf h := by
    have hregs : ∀ o, EndReg o → (t.underOld rs ws f).reg o = t.reg o := fun o ho => underOld_reg t rs ws f (fun a => (hf a a (.refl a)).regs o ho)
    obtain ⟨r, u, r', he⟩ := underOld_shape t rs ws f
    obtain ⟨a, ha⟩ : ∃ a : State, a = { t with regs := r, calU := u } := ⟨_, rfl⟩
    have hfa := hf a a (.refl a)
    rw [he, ← ha] at hregs ⊢
    generalize f a = b at hfa hregs ⊢
    subst ha
    refine ⟨fun o ho => (hregs o ho).trans (h.regs o ho), hfa.ap.trans h.ap, ?_⟩
    have h1 := hfa.slew
    have h2 := h.slew
    show b.spine = _
    rw [h1]
    show ({ t.spine with slew := b.spine.slew } : Spine) = _
    rw [h2]
  modGaf _ _ _ _ he h := h.beside rfl rfl rfl
  modThr t d n f _ h := h.beside rfl rfl rfl
  wake t d n bit h := by rw [wake_eq]; exact h.beside rfl rfl rfl
  stat _ w h := h.setReg w (fun hs => absurd rfl hs.2.1)
  merge _ _ w h := h.setReg _ (fun hs => stMerge_still hs.2.2 _ w)
  given _ _ _ _ h := ⟨h.regs, h.ap, h.slew⟩

theorem ended_slew : SlewClosed Ended := fun {s₀} s h => ⟨h.regs, h.ap, by
  show ({ s.spine with slew := none } : Spine) = { s₀.spine with slew := none }
  rw [h.slew]⟩

theorem tickEnd_ended (s : State) : Ended s s.tickEnd := tickEnd_end ended_closed ended_slew s (.refl s)

theorem tickEnd_ticked (s : State) : Ticked s s.tickEnd := tickEnd_end ticked_closed.toEndClosed ticked_spine.slew s (.refl s)

end Sys2Proof.Machine
end

section
/-!
SUPPORT. A step of the spine and the channels that judge it (R35, R36, R64).
-/
set_option Elab.async false
namespace Sys2Proof.Machine
open Sys2Proof

theorem Frame.respine {os : List Nat} {s t : State} (h : Frame os s t) (x : Spine) : Frame os { s with spine := x } { t with spine := x } := by
  obtain ⟨hst, hp, hspi, -, hrest⟩ := h.far
  exact ⟨h.regs, ⟨hst, hp, hspi, rfl, hrest⟩, h.core⟩

/-! ### The other channels -/

/-- Every other channel, and what its edges set off. -/
def Reach.others (c : Fin 96) : Reach := ⟨fun d => d ≠ c, True, fun _ => True, True⟩

theorem foldl_others {c : Fin 96} {s : State} (f : State → Fin 96 → State) (hf : ∀ a d, d ≠ c → Within (.others c) a (f a d)) (l : List (Fin 96))
    (hl : c ∉ l) : Within (.others c) s (l.foldl f s) := by
  induction l generalizing s with
  | nil => exact .refl _ s
  | cons d l ih =>
    have hd : d ≠ c := fun e => hl (e ▸ List.mem_cons_self)
    exact (hf s d hd).trans (ih (fun h => hl (List.mem_cons_of_mem _ h)))

/-- What a step makes of one channel lies between what it makes of the channels before it and of those behind it. -/
theorem stepRejudge_one (s : State) (c : Fin 96) :
    ∃ a, Within (.others c) s a ∧ Within (.others c) (a.stepChannel c) s.stepRejudge := by
  obtain ⟨l, r, hlr⟩ := List.append_of_mem (List.mem_finRange c)
  have hn : (l ++ c :: r).Nodup := hlr ▸ List.nodup_finRange 96
  have hl : c ∉ l := fun h => (List.nodup_append.1 hn).2.2 c h c (List.mem_cons_self) rfl
  have hr : c ∉ r := (List.nodup_cons.1 (List.nodup_append.1 hn).2.1).1
  have hf : ∀ (a : State) (d : Fin 96), d ≠ c → Within (.others c) a (a.stepChannel d) := fun a d hd =>
    stepChannel_pin (within_closed _) a d trivial hd trivial (.refl _ a)
  refine ⟨l.foldl (fun s d => s.stepChannel d) s, foldl_others _ hf l hl, ?_⟩
  have he : s.stepRejudge = r.foldl (fun s d => s.stepChannel d) ((l.foldl (fun s d => s.stepChannel d) s).stepChannel c) := by
    unfold State.stepRejudge
    rw [hlr, List.foldl_append, List.foldl_cons]
  rw [he]
  exact foldl_others _ hf r hr

/-! ### A channel with one armed compare -/

theorem cmpRejudge_unarmed {s : State} {c : Fin 96} {u : Bool} (h : (cmpOf s.ch[c] u).armed = false) (step : Bool) : s.cmpRejudge c u step = s :=
  if_neg (fun hx => absurd hx.1 (by rw [h]; decide))

theorem cmpLate_alone {s : State} {c : Fin 96} {u : Bool} (h : aloneArmed s c u) (step : Bool) : s.cmpLate c u step = s.fireLate c u step false := by
  obtain ⟨-, -, -, hf, he, hn, -, -⟩ := h
  have hfirst : (if u && s.launched c false then s.cmpReachOne c false else s) = s := by
    refine if_neg (fun hx => ?_)
    obtain ⟨rfl, hl⟩ := Bool.and_eq_true_iff.1 hx
    simp only [State.launched, Bool.and_eq_true] at hl
    rw [show (cmpOf s.ch[c] false).armed = false from hn] at hl
    exact absurd hl.1.1.1 (by decide)
  rw [State.cmpLate, hfirst]
  exact afterFire_host _ c u hf he _

theorem cmpRejudge_alone {s : State} {c : Fin 96} {u : Bool} (h : aloneArmed s c u) :
    s.cmpRejudge c u true = if (cmpOf s.ch[c] u).tb < s.tLaunch c then s.fireLate c u true false else s := by
  have hc : (cmpOf s.ch[c] u).armed = true ∧ (cmpOf s.ch[c] u).ask < s.tLaunch c ↔ (cmpOf s.ch[c] u).tb < s.tLaunch c := by
    rw [h.1, Cmp.ask, h.2.2.1, Option.getD_none]
    exact ⟨And.right, fun hx => ⟨rfl, hx⟩⟩
  have hheld := h.2.2.2.2.2.2.2
  have hl : (if s.held c = true then s.modCmp c u (fun y => { y with due := true }) else s.cmpLate c u true) = s.fireLate c u true false := by
    rw [if_neg (by rw [hheld]; decide), cmpLate_alone h]
  unfold State.cmpRejudge
  rw [hl]
  exact if_congr hc rfl rfl

theorem stepChannel_alone {s : State} {c : Fin 96} {u : Bool} (h : aloneArmed s c u) :
    s.stepChannel c = if (cmpOf s.ch[c] u).tb < s.tLaunch c then s.fireLate c u true false else s := by
  obtain ⟨-, -, hp, hf, -, hn, hfifo, -⟩ := id h
  have h0 : s.fifoStep c = s := by unfold State.fifoStep; rw [hfifo]
  let one (a : State) (v : Bool) : State := if (cmpOf a.ch[c] v).fifo && !a.held c then a else a.cmpRejudge c v true
  have hu : one s u = if (cmpOf s.ch[c] u).tb < s.tLaunch c then s.fireLate c u true false else s := by
    rw [← cmpRejudge_alone h]
    exact if_neg (by rw [hf, Bool.false_and]; decide)
  have hother : ∀ a : State, (cmpOf a.ch[c] (!u)).armed = false → one a (!u) = a := fun a ha => by
    show (if _ then a else a.cmpRejudge c (!u) true) = a
    rw [cmpRejudge_unarmed ha, ite_self]
  have hgone : (cmpOf (if (cmpOf s.ch[c] u).tb < s.tLaunch c then s.fireLate c u true false else s).ch[c] (!u)).armed = false := by
    split
    · rw [(fireLate_shows hp true false).otherCmp]; exact hn
    · exact hn
  show one (one (s.fifoStep c) false) true = _
  rw [h0]
  cases u
  · rw [hu]; exact hother _ hgone
  · rw [show one s false = s from hother s hn]; exact hu

/-! ### What follows the channels -/

theorem lhPass_frame (s : State) : ∃ l, Frame [R.LH_PFCNT, R.LH_EVT] { s with lehr := l } s.lhPass := by
  have hcheck : ∀ a : State, ∃ l, Frame [R.LH_PFCNT, R.LH_EVT] { a with lehr := l } a.lhLateCheck := fun a => by
    unfold State.lhLateCheck
    dsimp only
    split
    · obtain ⟨l, hl⟩ : ∃ l, l = { a.lehr with lateFrom := max a.lehr.lateFrom (a.lehr.pb / 4096) + (a.lhNow / 4096 + 1 - max a.lehr.lateFrom (a.lehr.pb / 4096)) } := ⟨_, rfl⟩
      refine ⟨l, List.foldlRecOn (motive := fun t => Frame [R.LH_PFCNT, R.LH_EVT] { a with lehr := l } t) _ _ ?_ (fun t ht _ _ => ht.emit _ _ _ _ _ _ _ _)⟩
      rw [hl]
      exact ((Frame.refl _ _).rsat _ (by decide)).evt (by decide)
    · exact ⟨a.lehr, .refl _ _⟩
  exact hcheck (s.modLehr _)

theorem apPass_none {s : State} (h : ∀ i < 8, s.apValid i = false) (pre : Nat) : s.apPass pre = s := by
  refine List.foldlRecOn (motive := fun t => t = s) _ _ rfl (fun t ht i hi => ?_)
  rw [ht]
  exact if_neg (fun hx => absurd hx.1 (by rw [show s.ron (F.AP_PENDi_INFO_VALID i) = s.apValid i from rfl, h i (List.mem_range.1 hi)]; decide))

/-- The spine has moved, before the channels judge it. -/
def State.stepMoved (s : State) (a : Int) (isSet : Bool) : State :=
  let s2 := (s.modSpine (fun p => { p with acc := p.acc + BitVec.ofNat 104 (a.toNat * 2 ^ 34), stepTick := some p.tick })).rput F.SPN_STAT_COARSE 0
  s2.emit 0x18 105 s2.now 0 (amountWords a).1 (amountWords a).2.1 (word ((amountWords a).2.2 + 256 * b2n isSet)) 0

theorem stepBy_moves {s : State} {a : Int} (h : 0 ≤ a) (isSet : Bool) : s.stepBy a isSet = (((s.stepMoved a isSet).stepRejudge).apPass s.now).lhPass :=
  if_pos h

theorem stepMoved_frame (s : State) (a : Int) (isSet : Bool) : SpineFrame [R.SPN_STAT] s (s.stepMoved a isSet) :=
  (((Frame.refl _ s).toSpine.modSpine _).rput 0 (by decide)).emit _ _ _ _ _ _ _ _

theorem stepMoved_spine (s : State) (a : Int) (isSet : Bool) : (s.stepMoved a isSet).spine =
    { s.spine with acc := s.spine.acc + BitVec.ofNat 104 (a.toNat * 2 ^ 34), stepTick := some s.spine.tick } := emit_spine _ _ _ _ _ _ _ _ _

/-- Where no phase command waits, nothing behind the move changes the spine. -/
theorem stepBy_spine {s : State} {a : Int} (h : 0 ≤ a) (isSet : Bool) (hp : s.spine.pend = none) (old : State) :
    ((s.stepBy a isSet).apFollow old).spine = (s.stepMoved a isSet).spine := by
  rw [stepBy_moves h]
  have hT := spineStays_closed NoPhase
  have hk : SpineStays NoPhase (s.stepMoved a isSet) (((((s.stepMoved a isSet).stepRejudge).apPass s.now).lhPass).apFollow old) :=
    apFollow_tick hT noPhase_phase _ _ (lhPass_tick hT _ (apPass_tick hT _ _
      (stepRejudge_tick hT _ (fun _ => rfl))))
  exact hk (by rw [stepMoved_spine]; exact hp)

end Sys2Proof.Machine
end

section
set_option Elab.async false
namespace Sys2Proof
open Sys2Proof.Machine

theorem aloneArmed_congr {s t : State} {c : Fin 96} {u : Bool} (hc : ∀ v, cmpOf t.ch[c] v = cmpOf s.ch[c] v) (hf : t.ch[c].fifo = s.ch[c].fifo)
    (hh : t.held c = s.held c) (h : aloneArmed s c u) : aloneArmed t c u := by
  unfold aloneArmed
  rw [hc, hc, hf, hh]
  exact h

theorem held_of_frame {os : List Nat} {s t : State} (h : SpineFrame os s t) {c : Fin 96} (hn : R.CHc_CTRL c ∉ os) : t.held c = s.held c := by
  have hr : t.ron (F.CHc_CTRL_HOLD c) = s.ron (F.CHc_CTRL_HOLD c) :=
    ron_of_reg (h.regs _ (reportReg_of_page (.inr (by show 0x3000 ≤ 0x100000 + 0x400 * c.val; omega))) hn)
  have hch : t.ch = s.ch := h.blocks.2.1
  have hb : t.banks = s.banks := h.blocks.1.2.2.2.2.1
  simp only [State.held, hr, hch, hb]

/-- What a channel with one armed compare shows behind a step. -/
structure Judged (s t : State) (c : Fin 96) (u : Bool) : Prop where
  fires : (cmpOf s.ch[c] u).tb < t.tLaunch c → (cmpOf t.ch[c] u).armed = false ∧ t.ch[c].ol = actLevel s.ch[c].ol (cmpOf s.ch[c] u).act ∧
    t.ron (F.CHc_CMPu_LAST_SUB_LATE c (b2n u)) = true ∧
    t.reg (R.CHc_CMPu_LATE c (b2n u)) = word (min ((t.tLaunch c - (cmpOf s.ch[c] u).tb).toNat / 64) (2 ^ 32 - 1))
  waits : t.tLaunch c ≤ (cmpOf s.ch[c] u).tb → cmpOf t.ch[c] u = cmpOf s.ch[c] u ∧ t.ch[c].ol = s.ch[c].ol

theorem stepRejudge_judges {s : State} {c : Fin 96} {u : Bool} (hx : aloneArmed s c u) : Judged s s.stepRejudge c u := by
  obtain ⟨a, h1, h2⟩ := stepRejudge_one s c
  have hself : ¬ (Reach.others c).chan c := fun h => h rfl
  obtain ⟨hc, hol, hfifo, hb, hf, -, -, -⟩ := (h1.cell c hself).shows
  have ha : aloneArmed a c u := aloneArmed_congr hc hfifo (h1.held hb hf) hx
  rw [stepChannel_alone ha, hc] at h2
  obtain ⟨l1, l2⟩ := lastFire_apart hself u
  refine ⟨fun ht => ?_, fun ht => ?_⟩
  all_goals
    have hw : ∀ v, Within (.others c) v s.stepRejudge → s.stepRejudge.tLaunch c = v.tLaunch c := fun v hv => hv.tLaunch c
  · have hlt : (cmpOf s.ch[c] u).tb < a.tLaunch c := by
      split at h2
      case isTrue h => exact h
      case isFalse h => rwa [hw _ h2] at ht
    rw [if_pos hlt] at h2
    have hfire := fireLate_shows (s := a) (c := c) (u := u) ha.2.2.1 true false
    obtain ⟨gc, gol, -⟩ := (h2.cell c hself).shows
    have htl : s.stepRejudge.tLaunch c = a.tLaunch c := (hw _ h2).trans (hfire.within.tLaunch c)
    refine ⟨by rw [gc, hfire.cell.fired]; rfl, by rw [gol, hfire.cell.ol, State.fireOl, hc, hol], ?_, ?_⟩
    · rw [ron_of_reg (h2.regs _ l1), hfire.late, hc]
      exact decide_eq_true (by omega)
    · rw [h2.regs _ l2, hfire.lag, hc, htl]
  · have hge : ¬ (cmpOf s.ch[c] u).tb < a.tLaunch c := fun h => by
      rw [if_pos h] at h2
      have htl : s.stepRejudge.tLaunch c = a.tLaunch c :=
        (hw _ h2).trans ((fireLate_shows (s := a) (c := c) (u := u) ha.2.2.1 true false).within.tLaunch c)
      omega
    rw [if_neg hge] at h2
    obtain ⟨gc, gol, -⟩ := (h2.cell c hself).shows
    exact ⟨(gc u).trans (hc u), gol.trans hol⟩

theorem Judged.congr {s s' t t' : State} {c : Fin 96} {u : Bool} (h : Judged s t c u) (hs : s.ch = s'.ch) (ht : t'.ch = t.ch)
    (hl : t'.tLaunch c = t.tLaunch c) (h1 : t'.reg (R.CHc_CMPu_LAST_SUB c (b2n u)) = t.reg (R.CHc_CMPu_LAST_SUB c (b2n u)))
    (h2 : t'.reg (R.CHc_CMPu_LATE c (b2n u)) = t.reg (R.CHc_CMPu_LATE c (b2n u))) : Judged s' t' c u := by
  obtain ⟨f, w⟩ := h
  rw [hs] at f w
  refine ⟨?_, ?_⟩ <;> rw [hl, ht]
  · rw [ron_of_reg h1, h2]; exact f
  · exact w

/-- A step leaves the apply block, where it passes no entry. -/
theorem stepBy_judges {s : State} {a : Int} (h : 0 ≤ a) (isSet : Bool) (hv : ∀ i < 8, s.apValid i = false) :
    (s.stepBy a isSet).ap = s.ap ∧ ∀ (c : Fin 96) (u : Bool), aloneArmed s c u → Judged s (s.stepBy a isSet) c u := by
  obtain ⟨b, hb⟩ : ∃ b, b = s.stepMoved a isSet := ⟨_, rfl⟩
  have hbf : SpineFrame [R.SPN_STAT] s b := hb ▸ stepMoved_frame s a isSet
  have hbc : b.ch = s.ch := hbf.blocks.2.1
  obtain ⟨m, hmd⟩ : ∃ m, m = b.stepRejudge := ⟨_, rfl⟩
  have hfar : Far b m := hmd ▸ stepRejudge_far b (far_refl b)
  have hj : ∀ (c : Fin 96) (u : Bool), aloneArmed b c u → Judged b m c u := fun c u hx => hmd ▸ stepRejudge_judges hx
  have hm : Within .all b m := hmd ▸ stepRejudge_pin (within_closed .all) b trivial (fun _ => trivial) trivial (.refl _ b)
  have hmv : ∀ i < 8, m.apValid i = false := fun i hi => by
    have hpage : R.AP_PENDi_INFO i < 0x4000 ∧ 0x3000 ≤ R.AP_PENDi_INFO i ∧ R.AP_PENDi_INFO i ≠ R.SPN_STAT := by
      unfold R.AP_PENDi_INFO R.SPN_STAT; omega
    have hpin : ¬ PinReg .all (R.AP_PENDi_INFO i) := fun hx => by
      have := hx.lies
      simp only [R.SPN_EVT, R.CFG_EVT] at this
      omega
    have h1 : m.reg (R.AP_PENDi_INFO i) = s.reg (R.AP_PENDi_INFO i) := (hm.regs _ hpin).trans
      (hbf.regs _ (reportReg_of_page (.inr hpage.2.1)) (by simp [hpage.2.2]))
    exact (ron_of_reg (f := F.AP_PENDi_INFO_VALID i) h1).trans (hv i hi)
  obtain ⟨l, hl⟩ := lhPass_frame m
  have he : s.stepBy a isSet = m.lhPass := by rw [stepBy_moves h, ← hb, ← hmd, apPass_none hmv]
  rw [he]
  refine ⟨hl.far.ap.trans (hfar.ap.trans hbf.blocks.1.2.2.2.2.2.2.2.2.2.1), fun c u hx => ?_⟩
  have hxb : aloneArmed b c u := aloneArmed_congr (fun v => by rw [hbc]) (by rw [hbc]) (held_of_frame hbf (by
    simp only [List.mem_singleton, R.CHc_CTRL, R.SPN_STAT]; omega)) hx
  have hreg : ∀ o, 0x100000 ≤ o ∨ o = R.SPN_RATE → m.lhPass.reg o = m.reg o := fun o ho => by
    refine hl.regs o (reportReg_of_page ?_) ?_
    · simp only [R.SPN_RATE] at ho; omega
    · simp only [R.SPN_RATE] at ho
      simp only [List.mem_cons, List.not_mem_nil, or_false, R.LH_PFCNT, R.LH_EVT]
      omega
  refine (hj c u hxb).congr hbc hl.core.ch ?_ (hreg _ (.inl ?_)) (hreg _ (.inl ?_))
  · exact tLaunch_congr hl.spine (hreg _ (.inr rfl)) (hreg _ (.inl (by unfold R.CHc_PIN; omega))) hl.far.banks hl.far.2.2.2.2.2.1
  · unfold R.CHc_CMPu_LAST_SUB; omega
  · unfold R.CHc_CMPu_LATE; omega

theorem exec_step {s : State} (h : spnFree s) (isSet : Bool) (p : Path) (ag : Fin 8) : ∃ n, n = s.spnNoted (spnCode (if isSet then .set else .step)) ∧
    exec (spnRow (if isSet then .set else .step) p false ag) s = .next ((n.stepBy (stepAmount s isSet) isSet).apFollow s) := by
  refine ⟨_, rfl, ?_⟩
  have hc := spnCommand_runs h (if isSet then .set else .step) (spnCode (if isSet then .set else .step)) ag
  cases isSet
  · refine (hostAct_open h.1 p R.SPN_CMD _).trans (congrArg Host.Outcome.next (congrArg (fun x : State => x.apFollow s) ?_))
    exact hc
  · refine (hostAct_open h.1 p R.SPN_CMD _).trans (congrArg Host.Outcome.next (congrArg (fun x : State => x.apFollow s) ?_))
    exact hc

theorem stepBy_back {s : State} {a : Int} (isSet : Bool) (ha : a < 0) : s.stepBy a isSet =
    if 2 ^ 37 ≤ (-a).toNat ∨ 2 ^ 71 ≤ heldUnits s + (-a).toNat * 2 ^ 34 then s.spnRefuse 3
    else
      let s2 := (s.modSpine (fun p => { p with hold := some ⟨(heldUnits s + (-a).toNat * 2 ^ 34) / 2 ^ 40,
        (heldUnits s + (-a).toNat * 2 ^ 34) % 2 ^ 40⟩ })).rput F.SPN_STAT_COARSE 0
      s2.emit 0x18 105 s2.now 0 (amountWords a).1 (amountWords a).2.1 (word ((amountWords a).2.2 + 256 * b2n isSet + 1024)) 0 := by
  unfold heldUnits
  refine (if_neg (by omega : ¬ 0 ≤ a)).trans ?_
  cases s.spine.hold
  · rfl
  · rfl

theorem stepBy_holds {s : State} {a : Int} (isSet : Bool) (ha : a < 0) (h1 : (-a).toNat < 2 ^ 37) (h2 : heldUnits s + (-a).toNat * 2 ^ 34 < 2 ^ 71) :
    SpineFrame [R.SPN_STAT] s (s.stepBy a isSet) ∧
    (s.stepBy a isSet).spine = { s.spine with hold := some ⟨(heldUnits s + (-a).toNat * 2 ^ 34) / 2 ^ 40, (heldUnits s + (-a).toNat * 2 ^ 34) % 2 ^ 40⟩ } ∧
    (s.stepBy a isSet).rget F.SPN_STAT_CMD_ERR = s.rget F.SPN_STAT_CMD_ERR ∧ (s.stepBy a isSet).rget F.SPN_STAT_COARSE = 0 := by
  rw [stepBy_back isSet ha, if_neg (by omega)]
  dsimp only
  refine ⟨(((Frame.refl _ s).toSpine.modSpine _).rput 0 (by decide)).emit _ _ _ _ _ _ _ _, emit_spine _ _ _ _ _ _ _ _ _, ?_, ?_⟩
  · exact (rget_emit _ _ _ _ _ _ _ _ _ (by decide)).trans (rget_rput_apart _ _ (by decide) (by decide) (by decide))
  · exact (rget_emit _ _ _ _ _ _ _ _ _ (by decide)).trans (rget_rput_same _ _ _ (by decide))

theorem heldUnits_of_spine {s t : State} (h : t.spine = s.spine) : heldUnits t = heldUnits s := by unfold heldUnits; rw [h]

theorem stepBy_refuses {s : State} {a : Int} (isSet : Bool) (ha : a < 0) (h : 2 ^ 37 ≤ (-a).toNat ∨ 2 ^ 71 ≤ heldUnits s + (-a).toNat * 2 ^ 34) :
    s.stepBy a isSet = s.spnRefuse 3 := by
  rw [stepBy_back isSet ha, if_pos h]

/-- Settles O8: a step forward moves the spine, which the channels then judge one by one; a step back joins the hold. -/
theorem stepMovesTheSpine : Obligations.StepMovesTheSpine := by
  intro isSet p ag s hs
  obtain ⟨n, hn, hx⟩ := exec_step hs isSet p ag
  have hf : Frame [R.SPN_STAT] s n := hn ▸ spnNoted_frame s _
  have hp : n.spine.pend = none := by rw [hf.spine]; exact hs.2.2
  refine ⟨_, hx, fun ha => ?_, fun ha hv c u hal => ?_, fun ha h1 h2 => ?_, fun ha h => ?_⟩
  · rw [stepBy_spine ha isSet hp, stepMoved_spine, hf.spine]
  · have hnv : ∀ i < 8, n.apValid i = false := fun i hi => by
      rw [← hv i hi]
      refine ron_of_reg (f := F.AP_PENDi_INFO_VALID i) (hf.regs _ (reportReg_of_page (.inr ?_)) ?_)
      · show 0x3000 ≤ R.AP_PENDi_INFO i; unfold R.AP_PENDi_INFO; omega
      · show R.AP_PENDi_INFO i ∉ [R.SPN_STAT]; simp only [List.mem_singleton, R.AP_PENDi_INFO, R.SPN_STAT]; omega
    obtain ⟨hap, hj⟩ := stepBy_judges ha isSet hnv
    have hnc : n.ch = s.ch := hf.core.ch
    have hal' : aloneArmed n c u := aloneArmed_congr (fun v => by rw [hnc]) (by rw [hnc]) (held_of_frame hf.toSpine (by
      simp only [List.mem_singleton, R.CHc_CTRL, R.SPN_STAT]; omega)) hal
    have hjc := (hj c u hal').congr (t' := (n.stepBy (stepAmount s isSet) isSet).apFollow s) hnc
    rw [apFollow_self (hap.trans hf.far.ap)] at hjc ⊢
    obtain ⟨h1, h2⟩ := hjc rfl rfl rfl rfl
    exact ⟨h1, h2⟩
  · have hu : heldUnits n = heldUnits s := heldUnits_of_spine hf.spine
    obtain ⟨g1, g2, g3, g4⟩ := stepBy_holds (s := n) isSet ha h1 (by rw [hu]; exact h2)
    have hap : (n.stepBy (stepAmount s isSet) isSet).ap = s.ap := g1.blocks.1.2.2.2.2.2.2.2.2.2.1.trans hf.far.ap
    rw [apFollow_self hap]
    rw [hu, hf.spine] at g2
    have hw : SpineFrame [R.SPN_STAT] s (n.stepBy (stepAmount s isSet) isSet) := (hf.respine _).trans g1
    exact ⟨by rw [g2], by rw [g2], g3.trans (by rw [hn]; exact spnNoted_cmdErr s _), g4, hw.regs, hw.blocks⟩
  · have he := stepBy_refuses (s := n) isSet ha (by rw [heldUnits_of_spine hf.spine]; exact h)
    rw [he]
    have hr := spnRefuse_frame (hf.mono (by simp)) 3
    rw [apFollow_self hr.far.ap]
    exact ⟨spnRefuse_cmdErr n (by decide), hr.regs, hr.blocks⟩

end Sys2Proof
end

section
/-!
SUPPORT. One tick of the PLL: its end, the spine's move, and what stands at the start of the next one (R28, R30, R37, R310).
-/
set_option Elab.async false
namespace Sys2Proof.Machine
open Sys2Proof

/-! ### The end of a tick and the spine's move -/

theorem Ticked.slow {s t : State} (h : Ticked s t) : t.hif.slow = s.hif.slow ∧ t.hif.slowOld = s.hif.slowOld :=
  ⟨(congrArg (fun a : HostIf => a.slow) h.hif :), (congrArg (fun a : HostIf => a.slowOld) h.hif :)⟩

theorem Ended.apply {s t : State} (h : Ended s t) : t.ap.reqs = s.ap.reqs ∧ t.ap.passed = s.ap.passed ∧ t.ap.late = s.ap.late :=
  ⟨(congrArg (fun a : ApState => a.reqs) h.ap :), (congrArg (fun a : ApState => a.passed) h.ap :), (congrArg (fun a : ApState => a.late) h.ap :)⟩

theorem slewFinish_running {s : State} (h : ∀ l, s.spine.slew = some l → l.doneAt = none) : s.slewFinish = s := by
  unfold State.slewFinish
  split
  case h_1 l hl => rw [h l hl]
  case h_2 => rfl

/-- A tick in which no slew ends leaves the spine to its own move. -/
theorem tickEnd_spine {s : State} (h : ∀ l, s.spine.slew = some l → l.doneAt = none) : s.tickEnd.spine = s.spine := by
  have hE := (spineStays_closed (fun _ => True)).toEndClosed
  have hP := hE.toPinClosed
  obtain ⟨a, ha⟩ : ∃ a, a = (List.finRange 96).foldl (fun (s : State) (c : Fin 96) => s.flushImage c) s := ⟨_, rfl⟩
  have h1 : SpineStays (fun _ => True) s a := ha ▸ pin_foldl _ _ (fun b c hb => flushImage_pin hP _ _ trivial hb) (fun _ => rfl)
  have h2 : SpineStays (fun _ => True) s (((List.finRange 4).foldl (fun (s : State) (n : Fin 4) => s.oTickEnd n) a).activateHeld) :=
    activateHeld_end hE _ (pin_foldl _ _ (fun b n hb => oTickEnd_pin hP _ _ trivial hb) h1)
  have he : s.tickEnd = ((List.finRange 4).foldl (fun (s : State) (n : Fin 4) => s.oTickEnd n) a).activateHeld := by
    unfold State.tickEnd
    dsimp only
    rw [← ha, slewFinish_running (by rw [h1 trivial]; exact h)]
  rw [he]
  exact h2 trivial

theorem spnRate_end : EndReg R.SPN_RATE :=
  ⟨spine_apart (by decide) (by decide) (by decide), by decide, by decide +kernel⟩

theorem spineAdvance_frame (s : State) (f : Nat) : SpineFrame [R.SPN_EVT] s (s.spineAdvance f) := by
  unfold State.spineAdvance
  dsimp only
  split
  · exact ((Frame.refl _ s).toSpine.evt (by decide)).modSpine _
  · exact (Frame.refl _ s).toSpine.modSpine _

theorem spineMove_frame (s : State) : SpineFrame [R.SPN_EVT] s s.spineMove := by
  unfold State.spineMove
  split
  · split
    · exact (spineAdvance_frame s _).modSpine _
    · exact (Frame.refl _ s).toSpine.modSpine _
  · exact spineAdvance_frame s 0

/-- A slew that runs, one tick later: it has given what the rate took from it. -/
def Slew.given (l : Slew) (give : Int) (acc : BitVec 104) : Slew :=
  if l.doneAt.isSome then l
  else { l with left := l.left - give, doneAt := if l.left - give = 0 then some (acc.toNat / 2 ^ 34) else none }

theorem spineAdvance_spine (s : State) (f : Nat) : (s.spineAdvance f).spine =
    { s.spine with acc := s.spine.acc + BitVec.ofNat 104 (s.tickInc - f),
                   slew := s.spine.slew.map (fun l => l.given (s.rateEff - s.rateWord) (s.spine.acc + BitVec.ofNat 104 (s.tickInc - f))) } := by
  unfold State.spineAdvance
  dsimp only
  split
  · rw [State.modSpine_spine, evt_spine]
    rfl
  · rfl

theorem spineMove_pend (s : State) : s.spineMove.spine.pend = s.spine.pend := by
  unfold State.spineMove
  split
  · split
    · rw [State.modSpine_spine, spineAdvance_spine]
    · rfl
  · rw [spineAdvance_spine]

/-! ### The slow clock -/

theorem slowApply_shape (s : State) : ∃ r, s.slowApply = { s with regs := r } :=
  pin_foldl (P := fun t : State => ∃ r : Tbl Word, t = { s with regs := r }) _ _ (fun t x ht => by
    obtain ⟨r, rfl⟩ := ht
    exact ⟨_, rfl⟩) ⟨s.regs, rfl⟩

theorem slowCount_shape (s old : State) (os : List Nat) : ∃ r, s.slowCount old os = { s with regs := r } :=
  pin_foldl (P := fun t : State => ∃ r : Tbl Word, t = { s with regs := r }) _ _ (fun t x ht => by
    obtain ⟨r, rfl⟩ := ht
    split
    · exact ⟨_, rfl⟩
    · exact ⟨_, rfl⟩) ⟨s.regs, rfl⟩

theorem slowEdge_shape (s : State) : ∃ r w, s.slowEdge =
    { s with regs := r, pw := w, hif := { s.hif with slow := [], slowOld := s.hif.slow.map (fun x => { x with w := s.reg x.ofs }) } } := by
  obtain ⟨r, hr⟩ := slowApply_shape s
  obtain ⟨r', hr'⟩ := slowCount_shape s.slowApply s (s.hif.slow.map SlowWr.ofs).dedup
  unfold State.slowEdge
  dsimp only
  rw [hr', hr]
  split
  · exact ⟨_, _, rfl⟩
  · exact ⟨_, _, rfl⟩

theorem slowTick_shape (s : State) (k : Nat) : ∃ r w l o, s.slowTick k = { s with regs := r, pw := w, hif := { s.hif with slow := l, slowOld := o } } := by
  unfold State.slowTick
  split
  · obtain ⟨r, w, h⟩ := slowEdge_shape s
    exact ⟨r, w, _, _, h⟩
  · exact ⟨s.regs, s.pw, s.hif.slow, s.hif.slowOld, rfl⟩

/-- An edge of the slow clock for which no write waits. -/
theorem slowEdge_idle {s : State} (h : s.hif.slow = []) : s.slowEdge = { s with hif := { s.hif with slow := [], slowOld := [] } } := by
  have h1 : s.slowApply = s := by unfold State.slowApply; rw [h]; rfl
  unfold State.slowEdge
  rw [h1, h]
  rfl

theorem slowTick_idle {s : State} (h : s.hif.slow = []) (k : Nat) : ∃ o, s.slowTick k = { s with hif := { s.hif with slow := [], slowOld := o } } := by
  unfold State.slowTick
  split
  · exact ⟨[], slowEdge_idle h⟩
  · exact ⟨s.hif.slowOld, by rw [← h]⟩

/-! ### The start of a tick -/

theorem tickBegun_spine (s : State) : s.tickBegun.spine = { s.spine with tick := s.spine.tick + 1 } := by
  unfold State.tickBegun
  obtain ⟨r, w, l, o, h⟩ := slowTick_shape ({ s.modSpine (fun p => { p with tick := p.tick + 1 }) with hif := { s.hif with evSet := [] } } : State) s.spine.tick
  rw [h]
  rfl

theorem modBank_shape (s : State) (b : Fin 12) : ∃ x, s.bankSwap b = { s with banks := x } := by
  unfold State.bankSwap
  split
  · exact ⟨_, rfl⟩
  · exact ⟨s.banks, rfl⟩

theorem banksSwap_shape (s : State) : ∃ x, s.banksSwap = { s with banks := x } :=
  pin_foldl (P := fun t : State => ∃ x : Vector Bank 12, t = { s with banks := x }) _ _ (fun t b ht => by
    obtain ⟨x, rfl⟩ := ht
    obtain ⟨y, hy⟩ := modBank_shape { s with banks := x } b
    exact ⟨y, hy⟩) ⟨s.banks, rfl⟩

theorem banksSwap_spine (s : State) : s.banksSwap.spine = s.spine := by
  obtain ⟨x, h⟩ := banksSwap_shape s
  rw [h]

theorem blocksStart_spine (s : State) : s.blocksStart.spine = s.spine :=
  blocksStart_tick (spineStays_closed (fun _ => True)) s (fun _ => rfl) trivial

/-- Where nothing is due, the apply block does nothing at the start of a tick. -/
theorem apTick_plain {s : State} (hr : s.ap.reqs = []) (hv : ∀ i < 8, s.apValid i = false) : s.apTick 0 = s := by
  have hes : (List.range 8).filter (fun i => s.apDue i) = [] := List.filter_eq_nil_iff.2 (fun i hi => by
    rw [State.apDue, hv i (List.mem_range.1 hi), Bool.false_and]; decide)
  have h0 : ({ s with ap := { s.ap with reqs := [] } } : State) = s := by rw [← hr]
  unfold State.apTick State.apApplies State.apAborts
  dsimp only
  rw [hes, h0, hr]
  have h1 : s.apStrobe 0 [] [] = s := by simp [State.apStrobe, State.apGroups]
  show (s.apStrobe 0 [] []).apFollow s = s
  rw [h1]
  exact apFollow_self rfl

/-- A tick in which no strobe is due. -/
theorem tickStart_plain {s : State} (hr : s.tickBegun.ap.reqs = []) (hv : ∀ i < 8, s.tickBegun.apValid i = false) :
    s.tickStart 0 = s.tickBegun.banksSwap.blocksStart := by
  rw [tickStart_eq, apTick_plain hr hv]

/-- Without a phase command that waits, or with nothing due, the start of a tick leaves the spine but for its tick. -/
theorem tickStart_spine {s : State} (h : s.spine.pend = none ∨ (s.tickBegun.ap.reqs = [] ∧ ∀ i < 8, s.tickBegun.apValid i = false)) :
    (s.tickStart 0).spine = { s.spine with tick := s.spine.tick + 1 } := by
  rw [← tickBegun_spine]
  rcases h with hp | ⟨hr, hv⟩
  · rw [tickStart_eq, blocksStart_spine, banksSwap_spine]
    exact apTick_tick (spineStays_closed NoPhase) noPhase_phase _ 0 (fun _ => rfl) (by
      show s.tickBegun.spine.pend = none
      rw [tickBegun_spine]
      exact hp)
  · rw [tickStart_plain hr hv, blocksStart_spine, banksSwap_spine]

/-! ### A plain tick -/

theorem apEntry_page {i : Nat} (hi : i < 8) : 0x3000 ≤ R.AP_PENDi_INFO i ∧ R.AP_PENDi_INFO i < 0x4000 := by
  unfold R.AP_PENDi_INFO; omega

theorem apEntry_apart {D : Reach} {i : Nat} (hi : i < 8) : ¬ PinReg D (R.AP_PENDi_INFO i) := fun hx => by
  have := hx.lies
  have := apEntry_page hi
  simp only [R.SPN_EVT, R.CFG_EVT] at *
  omega

theorem apEntry_plain : ∀ i : Fin 8, stBits (R.AP_PENDi_INFO i) = 0 := by decide +kernel

theorem apEntry_end {i : Nat} (hi : i < 8) : EndReg (R.AP_PENDi_INFO i) :=
  ⟨apEntry_apart hi, fun h => by have := apEntry_page hi; simp only [R.SPN_STAT] at h; omega, apEntry_plain ⟨i, hi⟩⟩

theorem plainTick_tickEnd {s : State} (h : plainTick s) : plainTick s.tickEnd := by
  obtain ⟨h1, h2, h3⟩ := h
  have he := tickEnd_ended s
  exact ⟨(tickEnd_ticked s).slow.1.trans h1, he.apply.1.trans h2,
    fun i hi => (ron_of_reg (f := F.AP_PENDi_INFO_VALID i) (he.regs _ (apEntry_end hi))).trans (h3 i hi)⟩

theorem plainTick_spineMove {s : State} (h : plainTick s) : plainTick s.spineMove := by
  obtain ⟨h1, h2, h3⟩ := h
  have hf := spineMove_frame s
  have hap : s.spineMove.ap = s.ap := (Far.ap hf.blocks.1 :)
  have hslow : s.spineMove.hif.slow = s.hif.slow := (congrArg (fun a : HostIf => a.slow) (Far.hif hf.blocks.1) :)
  refine ⟨hslow.trans h1, by rw [hap, h2], fun i hi => (ron_of_reg (f := F.AP_PENDi_INFO_VALID i) ?_).trans (h3 i hi)⟩
  have hp := apEntry_page hi
  exact hf.regs _ (reportReg_of_page (.inr hp.1)) (by
    simp only [List.mem_singleton, R.SPN_EVT]
    show R.AP_PENDi_INFO i ≠ _
    omega)

/-- What a tick without a waiting write and a strobe finds at its start. -/
theorem tickBegun_plain {s : State} (h : plainTick s) : ∃ o, s.tickBegun =
    { s.modSpine (fun p => { p with tick := p.tick + 1 }) with hif := { s.hif with evSet := [], slow := [], slowOld := o } } := by
  obtain ⟨o, ho⟩ := slowTick_idle (s := { s.modSpine (fun p => { p with tick := p.tick + 1 }) with hif := { s.hif with evSet := [] } }) h.1 s.spine.tick
  exact ⟨o, ho⟩

theorem plainTick_tickBegun {s : State} (h : plainTick s) : s.tickBegun.ap.reqs = [] ∧ ∀ i < 8, s.tickBegun.apValid i = false := by
  obtain ⟨o, ho⟩ := tickBegun_plain h
  rw [ho]
  exact ⟨h.2.1, h.2.2⟩

/-- A move from one tick to the next with nothing due. -/
theorem tickMove_plain {s : State} (h : plainTick s) : s.tickMove 0 = s.tickEnd.spineMove.tickBegun.banksSwap.blocksStart := by
  obtain ⟨hr, hv⟩ := plainTick_tickBegun (plainTick_spineMove (plainTick_tickEnd h))
  exact tickStart_plain hr hv

/-! ### The spine over a tick -/

/-- The spine behind a tick, but for its identity, is what its own move makes of it. -/
theorem tickMove_spine {s : State} (h : s.spine.pend = none ∨ plainTick s) (hw : ∀ l, s.spine.slew = some l → l.doneAt = none) :
    (s.tickMove 0).spine = { s.tickEnd.spineMove.spine with tick := s.tickEnd.spineMove.spine.tick + 1 } := by
  refine tickStart_spine (h.imp (fun hp => ?_) (fun hp => plainTick_tickBegun (plainTick_spineMove (plainTick_tickEnd hp))))
  have hend : s.tickEnd.spine.pend = none := by rw [tickEnd_spine hw]; exact hp
  exact (spineMove_pend s.tickEnd).trans hend

end Sys2Proof.Machine
end

section
set_option Elab.async false
namespace Sys2Proof
open Sys2Proof.Machine

/-- A tick of a counting device that is neither frozen nor powered down is a move, from a state with the watchdog's count. -/
theorem pllTick_moves {s : State} (he : s.takesEvents = true) (hc : s.spine.counting = true) : ∃ w, s.pllTick = ({ s with pw := w } : State).tickMove 0 := by
  obtain ⟨hp, hf⟩ := (takesEvents_iff s).1 he
  unfold State.pllTick State.pllTickWith
  dsimp only
  rw [if_neg (by rw [hc, hp]; decide), if_neg (by rw [hf]; decide)]
  split
  · exact ⟨s.pw, rfl⟩
  · exact ⟨_, rfl⟩

/-- The spine behind a tick is what its own move makes of it. -/
structure Advances (s t : State) : Prop where
  tick : t.spine.tick = s.spine.tick + 1
  runs : s.spine.hold = none → t.spine.acc = s.spine.acc + BitVec.ofNat 104 s.tickInc ∧ t.spine.hold = none ∧
    t.spine.slew = s.spine.slew.map (fun l => l.given (s.rateEff - s.rateWord) (s.spine.acc + BitVec.ofNat 104 s.tickInc))
  holds : ∀ h, s.spine.hold = some h → 0 < h.n → t.spine.acc = s.spine.acc ∧ t.spine.hold = some ⟨h.n - 1, h.f⟩ ∧ t.spine.slew = s.spine.slew
  ends : ∀ h, s.spine.hold = some h → h.n = 0 → t.spine.acc = s.spine.acc + BitVec.ofNat 104 (s.tickInc - h.f) ∧ t.spine.hold = none

theorem rateWord_congr {s t : State} (hr : t.reg R.SPN_RATE = s.reg R.SPN_RATE) : t.rateWord = s.rateWord := congrArg BitVec.toInt hr

theorem rateEff_congr {s t : State} (hs : t.spine = s.spine) (hr : t.reg R.SPN_RATE = s.reg R.SPN_RATE) : t.rateEff = s.rateEff := by
  unfold State.rateEff State.slewNow
  rw [hs, rateWord_congr hr]

theorem tickMove_advances {s : State} (h : s.spine.pend = none ∨ plainTick s) (hw : ∀ l, s.spine.slew = some l → l.doneAt = none) :
    Advances s (s.tickMove 0) := by
  have hs := tickEnd_spine hw
  have hr : s.tickEnd.reg R.SPN_RATE = s.reg R.SPN_RATE := (tickEnd_ended s).regs _ spnRate_end
  have hi := tickInc_congr hs hr
  have hg : s.tickEnd.rateEff - s.tickEnd.rateWord = s.rateEff - s.rateWord := by rw [rateEff_congr hs hr, rateWord_congr hr]
  have ht := tickMove_spine h hw
  have hadv := spineAdvance_spine s.tickEnd
  generalize s.tickEnd = e at hs hi hg ht hadv
  rw [hs, hi, hg] at hadv
  constructor
  case tick =>
    rw [ht]
    show e.spineMove.spine.tick + 1 = s.spine.tick + 1
    unfold State.spineMove
    split
    · split
      · rw [State.modSpine_spine, hadv]
      · rw [State.modSpine_spine, hs]
    · rw [hadv]
  case runs =>
    intro hh
    have he : e.spineMove = e.spineAdvance 0 := by unfold State.spineMove; rw [hs, hh]
    rw [ht, he, hadv]
    exact ⟨rfl, hh, rfl⟩
  case holds =>
    intro x hh hn
    have he : e.spineMove = e.modSpine (fun p => { p with hold := some { x with n := x.n - 1 } }) := by
      unfold State.spineMove
      rw [hs, hh]
      exact if_neg (by omega)
    rw [ht, he, State.modSpine_spine, hs]
    exact ⟨rfl, rfl, rfl⟩
  case ends =>
    intro x hh hn
    have he : e.spineMove = (e.spineAdvance x.f).modSpine (fun p => { p with hold := none }) := by
      unfold State.spineMove
      rw [hs, hh]
      exact if_pos hn
    rw [ht, he, State.modSpine_spine, hadv]
    exact ⟨rfl, rfl⟩

theorem tickAdvancesTheSpine_holds : tickAdvancesTheSpine := by
  intro s he hc hw hp
  obtain ⟨w, ht⟩ := pllTick_moves he hc
  have hp' : ({ s with pw := w } : State).spine.pend = none ∨ plainTick { s with pw := w } := hp.imp id (fun h => ⟨h.1, h.2.1, h.2.2⟩)
  have ha : Advances { s with pw := w } s.pllTick := ht ▸ tickMove_advances hp' hw
  obtain ⟨h1, h2, h3, h4⟩ := ha
  have hev : exec .holdEnd s = .next (match s.spine.hold with | some h => if h.n = 0 ∨ (h.n = 1 ∧ h.f = 0) then s.pllTick else s | none => s) := by
    show execHoldEnd s = _
    unfold execHoldEnd
    exact (event_open he _).trans (by cases s.spine.hold <;> rfl)
  refine ⟨h1, fun h => ⟨(h2 h).1, (h2 h).2.1⟩, h3, fun x hx hn => ?_, fun x hx hn hf => ?_, fun h => ?_, fun l hl hh => ?_⟩
  · rw [hx] at hev
    exact ⟨_, hev.trans (congrArg _ (if_pos (.inl hn))), (h4 x hx hn).1, (h4 x hx hn).2, h1⟩
  · rw [hx] at hev
    exact hev.trans (congrArg _ (if_pos (.inr ⟨hn, hf⟩)))
  · rcases h with h | ⟨x, hx, h0, hn⟩
    · rw [h] at hev
      exact hev
    · rw [hx] at hev
      exact hev.trans (congrArg _ (if_neg (fun h => by
        rcases h with h | ⟨h, hf⟩
        · omega
        · exact hn h hf)))
  · have hs := (h2 hh).2.2
    rw [show ({ s with pw := w } : State).spine.slew = some l from hl, Option.map_some] at hs
    refine ⟨_, hs, ?_⟩
    unfold Slew.given
    rw [hw l hl]
    refine ⟨rfl, rfl, rfl, ?_⟩
    show (if _ = 0 then _ else none : Option Nat).isSome = true ↔ _
    split
    case isTrue h0 => exact ⟨fun _ => h0, fun _ => rfl⟩
    case isFalse h0 => exact ⟨fun h => absurd h (by decide), fun h => absurd h h0⟩

theorem slewDoneEndsTheSlew_holds : slewDoneEndsTheSlew := by
  intro s he
  have hx : exec .slewDone s = .next s.slewFinish := event_open he _
  refine ⟨fun l d hl hd => ?_, fun h => hx.trans (congrArg _ (slewFinish_running h))⟩
  have hf : s.slewFinish = s.slewReport l.total false d := by unfold State.slewFinish; rw [hl]; dsimp only; rw [hd]
  have hr := slewReport_frame (os := [R.SPN_STAT]) (Frame.refl _ s).toSpine (by decide) l.total false d
  refine ⟨_, hx.trans (congrArg _ hf), slewReport_spine s l.total false d, ?_, hr.regs, hr.blocks⟩
  exact (rget_emit _ _ _ _ _ _ _ _ _ (by decide)).trans (rget_rput_same _ _ _ (by decide))

/-- Settles O11: a tick is the spine's own move between its end and its start, which leave the spine where no phase command is released. -/
theorem ticksHoldsAndSlews : Obligations.TicksHoldsAndSlews := ⟨tickAdvancesTheSpine_holds, slewDoneEndsTheSlew_holds⟩

end Sys2Proof
end

section
/-!
SUPPORT. The release of a held device, and the user words (R341, R347, R348).
-/
set_option Elab.async false
namespace Sys2Proof.Machine
open Sys2Proof

/-! ### The core stands apart -/

theorem pwState_frame {os : List Nat} {s t : State} (h : Frame os s t) (h1 : R.PW_STAT ∈ os) (h2 : R.PW_EVT ∈ os) (new cause : Nat) :
    Frame os s (t.pwState new cause) := by
  unfold State.pwState
  dsimp only
  split
  · exact h
  · exact ((h.rput _ h1).evt h2).emit _ _ _ _ _ _ _ _

theorem pwState_st (s : State) {new : Nat} (hn : new < 8) (cause : Nat) : (s.pwState new cause).pwSt = new := by
  unfold State.pwState
  dsimp only
  split
  case isTrue h => exact h
  case isFalse h =>
    refine (rget_emit _ _ _ _ _ _ _ _ _ (by decide)).trans ((rget_evt_ne _ (by decide) (by decide)).trans ((rget_rput_same _ _ _ (by decide)).trans ?_))
    exact Nat.mod_eq_of_lt hn

theorem holdBootAll_far {s₀ : State} (s : State) (on : Bool) (hk : Far s₀ s) : Far s₀ (s.holdBootAll on) :=
  holdsChange_far _ _ _ (fun _ ha => far_foldl _ _ (fun _ _ hb => modCh_far _ _ _ hb) ha) hk

theorem oryResume_far {s₀ : State} (s : State) (hk : Far s₀ s) : Far s₀ s.oryResume :=
  far_foldl _ _ (fun _ _ ha => far_ite (oRestart_far _ _ _ ha) ha) hk

theorem autostartAll_far {s₀ : State} (s : State) (hk : Far s₀ s) : Far s₀ s.autostartAll :=
  far_foldl _ _ (fun _ _ ha => far_ite (autostart_far _ _ ha) ha) hk

theorem autostart_shape (s : State) (e : Fin 8) : ∃ g, s.autostart e = { s with gaf := g } := by
  unfold State.autostart
  split
  · exact ⟨s.gaf, rfl⟩
  · refine pin_foldl (P := fun t : State => ∃ g : Vector Gaffer 8, t = { s with gaf := g }) _ _ (fun t n ht => ?_) ⟨_, rfl⟩
    obtain ⟨g, rfl⟩ := ht
    split
    · exact ⟨_, rfl⟩
    · exact ⟨_, rfl⟩

theorem autostartAll_shape (s : State) : ∃ g, s.autostartAll = { s with gaf := g } :=
  pin_foldl (P := fun t : State => ∃ g : Vector Gaffer 8, t = { s with gaf := g }) _ _ (fun t e ht => by
    obtain ⟨g, rfl⟩ := ht
    split
    · exact autostart_shape { s with gaf := g } e
    · exact ⟨_, rfl⟩) ⟨s.gaf, rfl⟩

/-! ### Registers that the saturation events alone can reach -/

/-- One Orrery. -/
def Reach.orrery (n : Fin 4) : Reach := ⟨fun _ => False, False, fun m => m = n, False⟩

/-- All channels and the ephemeris, and no Orrery. -/
def Reach.channels : Reach := ⟨fun _ => True, True, fun _ => False, True⟩

theorem orrery_not_all (n : Fin 4) : ¬ ∀ m, (Reach.orrery n).ory m := fun h => by
  have h0 : (0 : Fin 4) = n := h 0
  have h1 : (1 : Fin 4) = n := h 1
  exact absurd (h0.trans h1.symm) (by decide)

theorem channels_not_all : ¬ ∀ m, Reach.channels.ory m := fun h => h 0

/-- The pages of the spine, of the loader and of the power block are out of a reach that leaves an Orrery. -/
theorem page_apart {D : Reach} (hD : ¬ ∀ n, D.ory n) {o : Nat} (ho : o < 0x2000 ∨ (0x3000 ≤ o ∧ o < 0x10000)) : ¬ PinReg D o := fun h => by
  have hl := h.lies
  cases h
  case spnEvt ha => exact hD ha
  case cfgEvt ha => exact hD ha
  case ec h => have := reportReg_page h; omega
  all_goals
    simp only [R.CHc_EVT, R.CHc_ERRCNT, R.CHc_FIFO_STAT, R.CHc_CMPu_TGT_CTL, R.CHc_CMPu_LAST_SUB, R.CHc_CMPu_LATE, R.CHc_CAPk_STAT, R.ORYn_EVT, R.ORYn_STAT, R.ORYn_ERRCNT,
      R.ORYn_ERRCNT2, R.ORYn_IDXDIFF, R.CV_EVT, R.CVk_CNT, R.CVk_LAST, R.CVBUFb_WRIDX, R.CVBUFb_DROP, R.CVBUFb_BASE, R.Ge_EVT, R.Ge_LAT_MAX, R.Ge_LATE_CNT, R.Ge_EPH_CNT] at ho
    omega

theorem holdBootAll_within (s : State) (on : Bool) : Within .channels s (s.holdBootAll on) := by
  refine holdsChange_pin (within_closed .channels) s _ _ (fun a ha => ?_) trivial (fun _ => trivial) trivial (.refl _ s)
  exact pin_foldl _ _ (fun b c hb => hb.modCh c _ (.inl trivial)) ha

theorem foldl_holdBoot (s : State) (on : Bool) (l : List (Fin 96)) (c : Fin 96) :
    (l.foldl (fun (a : State) (c : Fin 96) => a.modCh c (fun x => { x with holdBoot := on })) s).ch[c].holdBoot =
      if c ∈ l then on else s.ch[c].holdBoot := by
  induction l generalizing s with
  | nil => rfl
  | cons d l ih =>
    rw [List.foldl_cons, ih]
    by_cases hd : c = d
    · subst hd
      rw [if_pos List.mem_cons_self, ch_modCh_same]
      split <;> rfl
    · rw [ch_modCh_ne _ _ hd]
      simp only [List.mem_cons, hd, false_or]

/-- What follows a change of the holds leaves them. -/
theorem holdsChange_ticked (s : State) (cs : List (Fin 96)) (f : State → State) : Ticked (f s) (s.holdsChange cs f) :=
  pin_foldl _ _ (fun _ _ hb => holdMoved_pin ticked_closed.toPinClosed _ _ _ trivial trivial trivial hb) (.refl _)

theorem holdBootAll_holds (s : State) (on : Bool) (c : Fin 96) : (s.holdBootAll on).ch[c].holdBoot = on := by
  refine ((holdsChange_ticked s _ _).holds c).2.trans ?_
  rw [foldl_holdBoot, if_pos (List.mem_finRange c)]

theorem oryResume_reg (s : State) {o : Nat} (ho : o < 0x2000 ∨ (0x3000 ≤ o ∧ o < 0x10000)) : s.oryResume.reg o = s.reg o :=
  pin_foldl (P := fun t : State => t.reg o = s.reg o) _ _ (fun a n ha => by
    split
    · exact ((oRestart_pin (within_closed (.orrery n)) a n 2 rfl (.refl _ a)).regs o (page_apart (orrery_not_all n) ho)).trans ha
    · exact ha) rfl

theorem oryResume_holds (s : State) (c : Fin 96) : s.oryResume.ch[c].holdBoot = s.ch[c].holdBoot :=
  ((pin_foldl _ _ (fun a n ha => pin_ite (oRestart_pin ticked_closed.toPinClosed a n 2 trivial ha) ha) (.refl s) : Ticked s s.oryResume).holds c).2

/-- What the release of a held device shows. -/
theorem releaseNow_shows (s : State) : s.releaseNow.ron F.CFG_STAT_HELD = false ∧ s.releaseNow.pwSt = 1 ∧ s.releaseNow.ron F.CFG_EVT_RELEASE_S = true ∧
    (∀ c : Fin 96, s.releaseNow.ch[c].holdBoot = false) ∧ Far s s.releaseNow ∧
    (∀ o, o < 0x2000 ∨ (0x3000 ≤ o ∧ o < 0x10000) → o ∉ [R.CFG_STAT, R.CFG_EVT, R.PW_STAT, R.PW_EVT] → s.releaseNow.reg o = s.reg o) := by
  obtain ⟨a, ha⟩ : ∃ a, a = ((s.rput F.CFG_STAT_HELD 0).evt F.CFG_EVT_RELEASE_S).pwState stRun causeRelease := ⟨_, rfl⟩
  have hf : Frame [R.CFG_STAT, R.CFG_EVT, R.PW_STAT, R.PW_EVT] s a :=
    ha ▸ pwState_frame (((Frame.refl _ s).rput 0 (by decide)).evt (by decide)) (by decide) (by decide) stRun causeRelease
  have hpw : a.pwSt = 1 := ha ▸ pwState_st _ (by decide) _
  have hput : Frame [R.PW_STAT, R.PW_EVT] ((s.rput F.CFG_STAT_HELD 0).evt F.CFG_EVT_RELEASE_S) a :=
    ha ▸ pwState_frame (Frame.refl _ _) (by decide) (by decide) stRun causeRelease
  have hheld : a.ron F.CFG_STAT_HELD = false := by
    rw [ron_eq_false, rget_of_reg (hput.regs _ (by decide) (by decide)), rget_evt_ne _ (by decide) (by decide), rget_rput_same _ _ _ (by decide)]
    rfl
  have hrel : a.ron F.CFG_EVT_RELEASE_S = true :=
    (ron_of_reg (hput.regs _ (by decide) (by decide))).trans (ron_evt _ _ rfl (by decide) (by decide))
  obtain ⟨u, hu⟩ : ∃ u, u = (a.holdBootAll false).oryResume := ⟨_, rfl⟩
  have hureg : ∀ o, o < 0x2000 ∨ (0x3000 ≤ o ∧ o < 0x10000) → u.reg o = a.reg o := fun o ho => by
    rw [hu]
    exact (oryResume_reg _ ho).trans ((holdBootAll_within a false).regs o (page_apart channels_not_all ho))
  have huch : ∀ c : Fin 96, u.ch[c].holdBoot = false := fun c => by
    rw [hu]
    exact (oryResume_holds _ c).trans (holdBootAll_holds a false c)
  have hufar : Far s u.autostartAll := autostartAll_far _ (by rw [hu]; exact oryResume_far _ (holdBootAll_far _ _ hf.far))
  obtain ⟨g, hg⟩ := autostartAll_shape u
  have he : s.releaseNow = u.autostartAll := by rw [hu, ha]; rfl
  have hreg : ∀ o, o < 0x2000 ∨ (0x3000 ≤ o ∧ o < 0x10000) → s.releaseNow.reg o = a.reg o := fun o ho => by
    rw [he, hg]
    exact hureg o ho
  refine ⟨?_, ?_, ?_, fun c => ?_, ?_, fun o ho hn => ?_⟩
  · rw [ron_of_reg (hreg _ (.inr (by decide)))]; exact hheld
  · exact (rget_of_reg (hreg _ (.inr (by decide)))).trans hpw
  · rw [ron_of_reg (hreg _ (.inr (by decide)))]; exact hrel
  · rw [he, hg]
    exact huch c
  · rw [he]
    exact hufar
  · exact (hreg o ho).trans (hf.regs o (reportReg_of_page (by omega)) hn)

/-! ### The user words -/

theorem calStep_only (p : Path) (s : State) : PathOnly p s (s.calStep p) := by
  unfold State.calStep
  dsimp only
  split
  · exact setHeld_only p s _ _
  · exact .refl p s

/-- The index steps where it is told to. -/
theorem calStep_index (s : State) (p : Path) : wfld ((s.calStep p).heldWord p R.CAL_IDX) 0 12 =
    if wfld (s.heldWord p R.CAL_IDX) 16 1 = 1 then (wfld (s.heldWord p R.CAL_IDX) 0 12 + 1) % 4096 else wfld (s.heldWord p R.CAL_IDX) 0 12 := by
  unfold State.calStep
  dsimp only
  split
  · rw [heldWord_setHeld, if_pos rfl]
    exact wfld_wset_same _ _ _ _ (by decide)
  · rfl

end Sys2Proof.Machine
end

section
set_option Elab.async false
namespace Sys2Proof
open Sys2Proof.Machine

theorem cfgRefuse_frame {os : List Nat} {s t : State} (h : Frame os s t) (h1 : R.CFG_STAT ∈ os) (h2 : R.CFG_EVT ∈ os) : Frame os s t.cfgRefuse :=
  (h.rput 1 h1).evt h2

theorem cfgRefuse_shows (s : State) : s.cfgRefuse.ron F.CFG_STAT_CMD_REF = true ∧ s.cfgRefuse.ron F.CFG_EVT_CMD_ERR_S = true := by
  refine ⟨?_, ron_evt _ _ rfl (by decide) (by decide)⟩
  rw [ron_eq_true]
  unfold State.cfgRefuse
  rw [rget_evt_ne _ (by decide) (by decide), rget_rput_same _ _ _ (by decide)]
  decide

/-- A refused write of CFG_CMD. -/
theorem cfgRefuse_answers {c : Instr} {s : State} (h : exec c s = .next s.cfgRefuse) : ∃ t, exec c s = .next t ∧ t.ron F.CFG_STAT_CMD_REF = true ∧
    t.ron F.CFG_EVT_CMD_ERR_S = true ∧ s.sameRegsBut t [R.CFG_STAT, R.CFG_EVT] ∧ s.sameBlocks t :=
  have hf := cfgRefuse_frame (os := [R.CFG_STAT, R.CFG_EVT]) (Frame.refl _ s) (by decide) (by decide)
  ⟨_, h, (cfgRefuse_shows s).1, (cfgRefuse_shows s).2, hf.regs, hf.blocks⟩

/-- A write of CFG_CMD reaches the command in a device that is neither frozen nor powered down, loading or not. -/
theorem cfgWrite_open {s : State} (h : s.takesEvents = true) (f : State → State) : s.hostWrite R.CFG_CMD f = f s := by
  obtain ⟨hp, hf⟩ := (takesEvents_iff s).1 h
  unfold State.hostWrite
  rw [if_neg (by rw [hp]; decide), if_neg (by rw [hf]; simp), if_neg (fun hx => hx.2 rfl)]

theorem cfgAccept_taken {s : State} (h : s.loading = false) (f : State → State) : s.cfgAccept f = f (s.rput F.CFG_STAT_CMD_REF 0) :=
  if_neg (by rw [h]; decide)

theorem cfgAccept_loading {s : State} (h : s.loading = true) (f : State → State) : s.cfgAccept f = s.cfgRefuse := if_pos h

theorem accepted_ref (s : State) : (s.rput F.CFG_STAT_CMD_REF 0).ron F.CFG_STAT_CMD_REF = false := by
  rw [ron_eq_false, rget_rput_same _ _ _ (by decide)]
  rfl

theorem exec_reload {s : State} (h : s.takesEvents = true) (p : Path) (slot : Fin 4) : exec (.reload p slot) s = .next (s.cfgReload slot) := by
  show Host.Outcome.next (s.reloadWrite slot) = _
  unfold State.reloadWrite
  rw [cfgWrite_open h, if_neg (by rw [((takesEvents_iff s).1 h).2]; simp)]

theorem exec_cfgCommands {s : State} (h : s.takesEvents = true) (p : Path) : exec (.cfgNop p) s = .next (s.cfgAccept id) ∧
    exec (.release p) s = .next s.cfgRelease ∧ exec (.clrerr p) s = .next s.cfgClrerr :=
  ⟨congrArg _ (cfgWrite_open h _), congrArg _ (cfgWrite_open h _), congrArg _ (cfgWrite_open h _)⟩

/-- A reserved OP of CFG_CMD. -/
theorem exec_cfgReserved {s : State} (h : s.takesEvents = true) (p : Path) {v : Word} (hv : 4 ≤ wfld v 0 3) :
    exec (.registerWrite p (word R.CFG_CMD) v true) s = .next (if s.loading then s.cfgRefuse else s) := by
  have hsite : siteOf p (word R.CFG_CMD).toNat = .reg R.CFG_CMD := by cases p <;> decide +kernel
  have hcmd : ∀ a : State, a.writeReg p R.CFG_CMD v = if a.loading then a.cfgRefuse else a := fun a => by
    show a.cfgCommand v = _
    have hlt : wfld v 0 3 < 8 := Nat.mod_lt _ (by decide)
    unfold State.cfgCommand
    split
    all_goals first | omega | rfl
  show Host.Outcome.next (s.writeAt p (word R.CFG_CMD).toNat v true) = _
  unfold State.writeAt State.hostReg
  rw [hsite]
  dsimp only
  rw [if_pos rfl, if_neg (by decide), if_neg (by decide), if_neg (fun hx => by omega), cfgWrite_open h, hcmd]

theorem configurationWrites_holds (p : Path) (slot : Fin 4) (s : State) (h : s.takesEvents = true) :
    (s.loading = true → ∀ c ∈ [Instr.cfgNop p, .reload p slot, .release p, .clrerr p],
      ∃ t, exec c s = .next t ∧ t.ron F.CFG_STAT_CMD_REF = true ∧ t.ron F.CFG_EVT_CMD_ERR_S = true ∧
        s.sameRegsBut t [R.CFG_STAT, R.CFG_EVT] ∧ s.sameBlocks t) := by
  intro hl c hc
  obtain ⟨h1, h2, h3⟩ := exec_cfgCommands h p
  simp only [List.mem_cons, List.not_mem_nil, or_false] at hc
  rcases hc with rfl | rfl | rfl | rfl
  · exact cfgRefuse_answers (h1.trans (congrArg _ (cfgAccept_loading hl _)))
  · exact cfgRefuse_answers ((exec_reload h p slot).trans (congrArg _ (cfgAccept_loading hl _)))
  · exact cfgRefuse_answers (h2.trans (congrArg _ (if_pos (.inl hl))))
  · exact cfgRefuse_answers (h3.trans (congrArg _ (cfgAccept_loading hl _)))

theorem release_holds {s : State} (h : s.takesEvents = true) (hl : s.loading = false) (hh : s.ron F.CFG_STAT_HELD = true) (p : Path) :
    ∃ t, exec (.release p) s = .next t ∧ t.ron F.CFG_STAT_HELD = false ∧ t.pwSt = 1 ∧ t.ron F.CFG_EVT_RELEASE_S = true ∧
      (∀ c : Fin 96, t.ch[c].holdBoot = false) ∧ s.sameFar t := by
  have he : s.cfgRelease = (s.rput F.CFG_STAT_CMD_REF 0).releaseNow := by
    unfold State.cfgRelease
    rw [if_neg (by rw [hl, hh]; decide), cfgAccept_taken hl]
  obtain ⟨r1, r2, r3, r4, r5, -⟩ := releaseNow_shows (s.rput F.CFG_STAT_CMD_REF 0)
  exact ⟨_, (exec_cfgCommands h p).2.1.trans (congrArg _ he), r1, r2, r3, r4, far_trans ((Frame.refl [R.CFG_STAT] s).rput 0 (by decide)).far r5⟩

theorem accepted_holds {s : State} (h : s.takesEvents = true) (hl : s.loading = false) (p : Path) (slot : Fin 4) :
    (∃ t, exec (.cfgNop p) s = .next t ∧ t.ron F.CFG_STAT_CMD_REF = false ∧ s.sameRegsBut t [R.CFG_STAT] ∧ s.sameBlocks t) ∧
    (∃ t, exec (.reload p slot) s = .next t ∧ t.ron F.CFG_STAT_CMD_REF = false ∧
      t.load = { s.load with reload := some ⟨slot.val, s.now⟩, excl := 0, divs := 0 } ∧ s.sameRegsBut t [R.CFG_STAT] ∧
      State.sameBlocks { s with load := t.load } t) ∧
    (∃ t, exec (.clrerr p) s = .next t ∧ t.reg R.CFG_LOADERR = 0 ∧ t.reg R.CFG_HOSTIGN = 0 ∧ t.ron F.CFG_STAT_CMD_REF = false ∧
      s.sameRegsBut t [R.CFG_STAT, R.CFG_LOADERR, R.CFG_HOSTIGN] ∧ s.sameBlocks t) := by
  obtain ⟨h1, -, h3⟩ := exec_cfgCommands h p
  have hf : Frame [R.CFG_STAT] s (s.rput F.CFG_STAT_CMD_REF 0) := (Frame.refl _ s).rput 0 (by decide)
  refine ⟨⟨_, h1.trans (congrArg _ (cfgAccept_taken hl _)), accepted_ref s, hf.regs, hf.blocks⟩, ?_, ?_⟩
  · refine ⟨_, (exec_reload h p slot).trans (congrArg _ (cfgAccept_taken hl _)), accepted_ref s, rfl, hf.regs, ?_⟩
    exact ((Frame.refl [R.CFG_STAT] { s with load := { s.load with reload := some ⟨slot.val, s.now⟩, excl := 0, divs := 0 } }).rput (f := F.CFG_STAT_CMD_REF) 0 (by decide)).blocks
  · have hc : Frame [R.CFG_STAT, R.CFG_LOADERR, R.CFG_HOSTIGN] s (((s.rput F.CFG_STAT_CMD_REF 0).setReg R.CFG_LOADERR 0).setReg R.CFG_HOSTIGN 0) :=
      ((hf.mono (by decide)).setReg 0 (by decide)).setReg 0 (by decide)
    refine ⟨_, h3.trans (congrArg _ (cfgAccept_taken hl _)), ?_, reg_setReg_same _ _ _, ?_, hc.regs, hc.blocks⟩
    · exact (reg_setReg_ne _ _ (by decide)).trans (reg_setReg_same _ _ _)
    · exact (ron_of_reg ((reg_setReg_ne _ _ (by decide)).trans (reg_setReg_ne _ _ (by decide)))).trans (accepted_ref s)

/-- A RELOAD in a freeze is counted as any other write, and refused. -/
theorem frozenReload_holds (p : Path) (slot : Fin 4) {s : State} (hp : s.powered = true) (hf : s.frozen = true) :
    ∃ t, exec (.reload p slot) s = .next t ∧ countedOne s t F.FRZ_CNT_IGN ∧ t.ron F.CFG_STAT_CMD_REF = true ∧
      s.sameRegsBut t [R.FRZ_CNT, R.CFG_STAT, R.CFG_EVT] ∧ s.sameBlocks t := by
  have he : s.reloadWrite slot = (s.rsat F.FRZ_CNT_IGN 1).cfgRefuse := by
    unfold State.reloadWrite
    rw [if_pos ⟨hf, hp⟩, hostWrite_frozen hp hf (by decide)]
  have hfr : Frame [R.FRZ_CNT, R.CFG_STAT, R.CFG_EVT] s (s.rsat F.FRZ_CNT_IGN 1).cfgRefuse :=
    cfgRefuse_frame ((Frame.refl _ s).rsat 1 (by decide)) (by decide) (by decide)
  have hx : exec (.reload p slot) s = .next (s.rsat F.FRZ_CNT_IGN 1).cfgRefuse := congrArg Host.Outcome.next he
  refine ⟨_, hx, ?_, (cfgRefuse_shows _).1, hfr.regs, hfr.blocks⟩
  show State.rget _ _ = _
  unfold State.cfgRefuse
  rw [rget_evt_ne _ (by decide) (by decide), rget_of_reg (reg_rput_ne _ _ (by decide)), rget_rsat_same _ _ _ (by decide)]

/-- A write of a user word stages it, and no other. -/
theorem calWrite_stages {s : State} (h : s.locked 1 = false) (p : Path) (v : Word) :
    ∃ x, s.calWrite p v = { s with calS := x } ∧ (∀ k, k ≠ wfld (s.heldWord p R.CAL_IDX) 0 12 → tblFind x k = tblFind s.calS k) ∧
      (calHasU (wfld (s.heldWord p R.CAL_IDX) 0 12) = true →
        tblFind x (wfld (s.heldWord p R.CAL_IDX) 0 12) = some (word (v.toNat &&& calBits (wfld (s.heldWord p R.CAL_IDX) 0 12)))) ∧
      (calHasU (wfld (s.heldWord p R.CAL_IDX) 0 12) = false → x = s.calS) := by
  unfold State.calWrite
  dsimp only
  rw [if_neg (by rw [h]; decide)]
  split
  case isTrue hu => exact ⟨_, rfl, fun k hk => tblFind_put_ne _ _ hk, fun _ => tblFind_put_same _ _ _, fun hn => by rw [hu] at hn; exact absurd hn (by decide)⟩
  case isFalse hu => exact ⟨s.calS, rfl, fun _ _ => rfl, fun hx => absurd hx hu, fun _ => rfl⟩

theorem heldWord_calS (s : State) (x : Tbl Word) (p : Path) (o : Nat) : ({ s with calS := x } : State).heldWord p o = s.heldWord p o := by cases p <;> rfl

theorem userWords_holds (p : Path) (v : Word) (s : State) (hw : s.takesWrites = true) :
    let q := wfld (s.heldWord p R.CAL_IDX) 0 12
    let next := if wfld (s.heldWord p R.CAL_IDX) 16 1 = 1 then (q + 1) % 4096 else q
    (s.locked 1 = false → ∃ t, exec (.calUDataAccess p (some v)) s = .next t ∧ wfld (t.heldWord p R.CAL_IDX) 0 12 = next ∧
      t.calU = s.calU ∧ (∀ k, k ≠ q → tblFind t.calS k = tblFind s.calS k) ∧
      (calHasU q = true → tblFind t.calS q = some (word (v.toNat &&& calBits q))) ∧ (calHasU q = false → t.calS = s.calS) ∧
      (∀ o, t.reg o = s.reg o) ∧ State.sameBlocks { s with calS := t.calS, pcie := t.pcie, spi := t.spi } t) ∧
    (s.locked 1 = true → ∃ t, exec (.calUDataAccess p (some v)) s = .next t ∧ countedOne s t F.GL_LOCK_VIOL_CNT ∧ t.calS = s.calS ∧
      t.calU = s.calU) ∧
    (s.viewOf p = false → ∃ t, exec (.calUDataAccess p none) s = .next t ∧ (t.path p).rdata = [s.calUser q] ∧
      wfld (t.heldWord p R.CAL_IDX) 0 12 = next ∧ (∀ o, t.reg o = s.reg o) ∧ State.sameBlocks { s with pcie := t.pcie, spi := t.spi } t) := by
  intro q next
  have hx : exec (.calUDataAccess p (some v)) s = .next ((s.calWrite p v).calStep p) := hostAct_open hw p R.CAL_U_DATA _
  refine ⟨fun hl => ?_, fun hl => ?_, fun hv => ?_⟩
  · obtain ⟨x, he, h1, h2, h3⟩ := calWrite_stages hl p v
    rw [he] at hx
    obtain ⟨f, hf⟩ := calStep_only p { s with calS := x }
    have hi := calStep_index { s with calS := x } p
    rw [heldWord_calS] at hi
    rw [hf] at hx hi
    cases p <;> exact ⟨_, hx, hi, rfl, h1, h2, h3, fun _ => rfl, sameBlocks_refl _⟩
  · have he : s.calWrite p v = s.lockViolation p R.CAL_U_DATA v 2 false := if_pos hl
    rw [he] at hx
    have hload : s.loading = false := ((takesWrites_iff s).1 hw).2.2
    have hc := (lockViolation_counts hload p R.CAL_U_DATA v 2 false).1
    have hfr := lockViolation_frame (Frame.refl violRegs s) hload (fun _ h => h) p R.CAL_U_DATA v 2 false
    have ho := calStep_only p (s.lockViolation p R.CAL_U_DATA v 2 false)
    generalize s.lockViolation p R.CAL_U_DATA v 2 false = a at hx hc hfr ho
    obtain ⟨f, hf⟩ := ho
    rw [hf] at hx
    have hcalS : a.calS = s.calS := hfr.far.2.2.2.2.2.2.2.1
    have hcalU : a.calU = s.calU := hfr.far.2.2.2.2.2.2.1
    cases p <;> exact ⟨_, hx, hc, hcalS, hcalU⟩
  · obtain ⟨hp, hfz, -⟩ := (takesWrites_iff s).1 hw
    have hrl : s.rlCopy p R.CAL_U_DATA = s := by
      have hn : rlCopies R.CAL_U_DATA = [] := by decide +kernel
      unfold State.rlCopy
      rw [hn]
      rfl
    have hm : copyMask R.CAL_U_DATA = 0 := by decide +kernel
    have hread : s.readWord p R.CAL_U_DATA = s.calUser q := by
      unfold State.readWord
      dsimp only
      rw [hm, hv]
      rfl
    have hfa : ∀ w, (s.answer p w).frozen = s.frozen := fun w => by cases p <;> rfl
    have he : s.readReg p R.CAL_U_DATA = (s.answer p (s.calUser q)).calStep p := by
      unfold State.readReg
      rw [if_neg (by decide), if_neg (by decide), hrl, hread]
      dsimp only
      rw [if_neg (by rw [hfz]; decide), if_neg (by decide), if_pos rfl]
    have hxr : exec (.calUDataAccess p none) s = .next ((s.answer p (s.calUser q)).calStep p) := by
      show s.hostRead (fun s => s.readReg p R.CAL_U_DATA) = _
      rw [hostRead_open hp, he]
    have hheld : (s.answer p (s.calUser q)).heldWord p R.CAL_IDX = s.heldWord p R.CAL_IDX := by cases p <;> rfl
    have hi := calStep_index (s.answer p (s.calUser q)) p
    rw [hheld] at hi
    have hon : PathOnly p s ((s.answer p (s.calUser q)).calStep p) := (answer_only p s _).trans (calStep_only p _)
    refine ⟨_, hxr, ?_, hi, hon.reg, hon.blocks⟩
    unfold State.calStep
    dsimp only
    split
    · unfold State.setHeld State.answer
      rw [path_modPath, path_modPath]
    · exact congrArg PathState.rdata (path_modPath s p _)

/-- Settles O57: CFG_CMD passes one gate, behind which each command is accepted or refused; the user words go through the path's index. -/
theorem configurationCommandsRun : Obligations.ConfigurationCommandsRun := by
  refine ⟨fun p slot s h => ⟨configurationWrites_holds p slot s h, fun v hv => ⟨fun hl => ?_, fun hl => ?_⟩, fun hl => ?_⟩,
    fun p slot s hp hf => frozenReload_holds p slot hp hf, userWords_holds⟩
  · exact cfgRefuse_answers ((exec_cfgReserved h p hv).trans (congrArg _ (if_pos hl)))
  · exact (exec_cfgReserved h p hv).trans (congrArg _ (if_neg (by rw [hl]; decide)))
  · obtain ⟨h1, h2, h3⟩ := accepted_holds h hl p slot
    refine ⟨h1, h2, (release_holds h hl · p), fun hn => ?_, h3⟩
    obtain ⟨t, ht, hr, -, hregs, hb⟩ := cfgRefuse_answers ((exec_cfgCommands h p).2.1.trans (congrArg _ (if_pos (.inr (by rw [hn]; decide)))))
    exact ⟨t, ht, hr, hregs, hb⟩

end Sys2Proof
end

section
/-!
SUPPORT. The health block: what its samples, checkpoints and recalibrations write, and what a re-plan of the Gaffers changes (R47, R114, R369 to R373).
-/
set_option Elab.async false
namespace Sys2Proof.Machine
open Sys2Proof

/-! ### Frames beside the health block and the Gaffers -/

/-- But for the health block, the Gaffers, the free-value counter, and reports, only the listed registers have changed. -/
def HlFrame (os : List Nat) (s t : State) : Prop := Frame os { s with hl := t.hl, gaf := t.gaf, free := t.free } t

theorem Frame.onHealth {os : List Nat} {s t : State} {x : Health} {g : Vector Gaffer 8} {n : Nat} (h : Frame os { s with hl := x, gaf := g, free := n } t) :
    HlFrame os s t := by
  obtain ⟨hr, hf, c1, -, c3, c4, c5, c6, -⟩ := h
  obtain ⟨a1, a2, a3, a4, a5, a6, a7, a8, a9, a10, a11, a12, a13, a14, a15, a16, a17, a18, a19, a20, a21, a22, a23, a24, a25, a26, -, -, -, -, -, a32, a33⟩ := hf
  exact ⟨hr, ⟨a1, a2, a3, a4, a5, a6, a7, a8, a9, a10, a11, a12, a13, a14, a15, a16, a17, a18, a19, a20, a21, a22, a23, a24, a25, a26, rfl, rfl, rfl, rfl, rfl, a32, a33⟩,
    c1, rfl, c3, c4, c5, c6, rfl⟩

theorem Frame.toHealth {os : List Nat} {s t : State} (h : Frame os s t) : HlFrame os s t := Frame.onHealth (x := s.hl) (g := s.gaf) (n := s.free) h

section
variable {os os' : List Nat} {s t u : State} (h : HlFrame os s t)
include h

theorem HlFrame.regs : s.sameRegsBut t os := h.1
theorem HlFrame.spine : t.spine = s.spine := Frame.spine (s := { s with hl := t.hl, gaf := t.gaf, free := t.free }) h
theorem HlFrame.banks : t.banks = s.banks := Far.banks (s := { s with hl := t.hl, gaf := t.gaf, free := t.free }) h.2.1
theorem HlFrame.otp : t.otp = s.otp := h.2.1.2.2.2.2.2.1

theorem HlFrame.then (h' : Frame os t u) : HlFrame os s u := (Frame.trans h h').onHealth

theorem HlFrame.mono (hs : ∀ o ∈ os, o ∈ os') : HlFrame os' s t := Frame.mono h hs

theorem HlFrame.rput {f : Fld} (v : Nat) (hf : f.reg ∈ os) : HlFrame os s (t.rput f v) := h.then ((Frame.refl _ t).rput v hf)
theorem HlFrame.rwrap {f : Fld} (v : Nat) (hf : f.reg ∈ os) : HlFrame os s (t.rwrap f v) := h.then ((Frame.refl _ t).rwrap v hf)
theorem HlFrame.setReg {o : Nat} (w : Word) (ho : o ∈ os) : HlFrame os s (t.setReg o w) := h.then ((Frame.refl _ t).setReg w ho)
theorem HlFrame.evt {f : Fld} (hf : f.reg ∈ os) : HlFrame os s (t.evt f) := h.then ((Frame.refl _ t).evt hf)
theorem HlFrame.emit (type src tm fl : Nat) (w4 w5 w6 w7 : Word) : HlFrame os s (t.emit type src tm fl w4 w5 w6 w7) :=
  h.then ((Frame.refl _ t).emit _ _ _ _ _ _ _ _)

theorem HlFrame.put (x : Health) (g : Vector Gaffer 8) (n : Nat) (m : Tbl Byte) : HlFrame os s { t with hl := x, gaf := g, free := n, mram := m } := by
  obtain ⟨hr, hf, c1, -, c3, c4, c5, c6, -⟩ := h
  obtain ⟨a1, a2, a3, a4, a5, a6, a7, a8, a9, a10, a11, a12, a13, a14, a15, a16, a17, a18, a19, a20, a21, a22, a23, a24, a25, a26, -, -, -, -, -, a32, a33⟩ := hf
  exact ⟨hr, ⟨a1, a2, a3, a4, a5, a6, a7, a8, a9, a10, a11, a12, a13, a14, a15, a16, a17, a18, a19, a20, a21, a22, a23, a24, a25, a26, rfl, rfl, rfl, rfl, rfl, a32, a33⟩,
    c1, rfl, c3, c4, c5, c6, rfl⟩

theorem HlFrame.trans (h' : HlFrame os t u) : HlFrame os s u := by
  have hp := h.put u.hl u.gaf u.free t.mram
  exact (Frame.trans hp (show Frame os { t with hl := u.hl, gaf := u.gaf, free := u.free } u from h')).onHealth

end

/-- But for the health block and the free-value counter, only the listed registers have changed. -/
theorem Frame.onLife {os : List Nat} {s t : State} {x : Health} {n : Nat} {m : Tbl Byte} (h : Frame os { s with hl := x, free := n, mram := m } t) :
    s.sameRegsBut t os ∧ State.sameBlocks { s with free := t.free, hl := t.hl } t := by
  obtain ⟨hr, hf, c1, c2, c3, c4, c5, c6, -⟩ := h
  obtain ⟨a1, a2, a3, a4, a5, a6, a7, a8, a9, a10, a11, a12, a13, a14, a15, a16, a17, a18, a19, a20, a21, a22, a23, a24, a25, a26, -, -, -, -, -, a32, a33⟩ := hf
  exact ⟨hr, ⟨a1, a2, a3, a4, a5, a6, a7, a8, a9, a10, a11, a12, a13, a14, a15, a16, a17, a18, a19, a20, a21, a22, a23, a24, a25, a26, rfl, rfl, rfl, rfl, rfl, a32, a33⟩,
    c1, c2, c3, c4, c5, c6, rfl⟩

/-- What a chain that starts elsewhere leaves of a register. -/
theorem HlFrame.rget {os : List Nat} {s t : State} (h : HlFrame os s t) {f : Fld} (hr : reportReg f.reg = false) (ho : f.reg ∉ os) : t.rget f = s.rget f :=
  rget_of_reg (h.regs _ hr ho)

/-! ### A re-plan -/

/-- The registers that a re-plan writes. -/
def planRegs : List Nat := (List.finRange 8).flatMap (fun (e : Fin 8) => [R.Ge_EVT e, R.Ge_LEAD e, R.Ge_LEAD_MEAS e, R.Ge_SPEED e])

theorem mem_planRegs {e : Fin 8} {o : Nat} (h : o ∈ [R.Ge_EVT e, R.Ge_LEAD e, R.Ge_LEAD_MEAS e, R.Ge_SPEED e]) : o ∈ planRegs :=
  List.mem_flatMap.2 ⟨e, List.mem_finRange e, h⟩

theorem planRegs_page {o : Nat} (h : o ∈ planRegs) : 0x40000 ≤ o := by
  obtain ⟨e, -, h⟩ := List.mem_flatMap.1 h
  simp only [R.Ge_EVT, R.Ge_LEAD, R.Ge_LEAD_MEAS, R.Ge_SPEED, List.mem_cons, List.not_mem_nil, or_false] at h
  omega

/-- What a re-plan may change: the registers of its Gaffers, and their states. -/
def Planned (os : List Nat) (s t : State) : Prop := HlFrame os s t ∧ t.free = s.free

section
variable {os : List Nat} {s t : State} (h : Planned os s t)
include h

theorem Planned.rput {f : Fld} (v : Nat) (hf : f.reg ∈ os) : Planned os s (t.rput f v) := ⟨h.1.rput v hf, h.2⟩
theorem Planned.evt {f : Fld} (hf : f.reg ∈ os) : Planned os s (t.evt f) := ⟨h.1.evt hf, (Core.free ((Frame.refl os t).evt hf).core).trans h.2⟩
theorem Planned.emit (type src tm fl : Nat) (w4 w5 w6 w7 : Word) : Planned os s (t.emit type src tm fl w4 w5 w6 w7) :=
  ⟨h.1.emit _ _ _ _ _ _ _ _, (Core.free ((Frame.refl os t).emit _ _ _ _ _ _ _ _).core).trans h.2⟩
theorem Planned.gaf (g : Vector Gaffer 8) : Planned os s { t with gaf := g } := ⟨h.1.put t.hl g t.free t.mram, h.2⟩

end

section
variable {os : List Nat} (hos : ∀ o ∈ planRegs, o ∈ os) {s t : State} (h : Planned os s t)
include hos h

theorem planned_rput (e : Fin 8) {f : Fld} (v : Nat) (hf : f.reg ∈ [R.Ge_EVT e, R.Ge_LEAD e, R.Ge_LEAD_MEAS e, R.Ge_SPEED e]) : Planned os s (t.rput f v) :=
  h.rput v (hos _ (mem_planRegs hf))

theorem leadOver_planned (e : Fin 8) : Planned os s (t.leadOver e) := by
  unfold State.leadOver
  split
  · exact h.evt (hos _ (mem_planRegs (e := e) (by simp [F.Ge_EVT_LEAD_OVER_S])))
  · exact h

theorem leadSet_planned (e : Fin 8) (new : Nat) : Planned os s (t.leadSet e new) := by
  have h1 : Planned os s (t.rput (F.Ge_LEAD_BUDGET e) new) := planned_rput hos h e new (by simp [F.Ge_LEAD_BUDGET])
  have h2 : Planned os s (if t.rget (F.Ge_LEAD_BUDGET e) < new then (t.rput (F.Ge_LEAD_BUDGET e) new).evt (F.Ge_EVT_LEAD_UP_S e) else t.rput (F.Ge_LEAD_BUDGET e) new) := by
    split
    · exact h1.evt (hos _ (mem_planRegs (e := e) (by simp [F.Ge_EVT_LEAD_UP_S])))
    · exact h1
  refine pin_foldl (P := Planned os s) _ _ (fun a n ha => ?_) (h2.emit _ _ _ _ _ _ _ _)
  split
  · rw [wake_eq]
    exact ha.gaf _
  · exact ha

theorem leadModel_planned (e : Fin 8) (g : GafMeas) : Planned os s (t.leadModel e g) :=
  planned_rput hos (planned_rput hos h e _ (by simp [F.Ge_LEAD_MEAS_MODEL])) e _ (by simp [F.Ge_SPEED_RATE])

theorem replan_planned (e : Fin 8) (g : GafMeas) : Planned os s (t.replan e g) := by
  have h0 := leadModel_planned hos h e g
  unfold State.replan
  dsimp only
  refine leadOver_planned hos ?_ e
  generalize t.leadModel e g = a at h0 ⊢
  have hm : ∀ f, Planned os s (a.modGaf e f) := fun f => h0.gaf _
  split
  · exact leadSet_planned hos (hm _) e _
  · split
    · exact leadSet_planned hos (hm _) e _
    · exact hm _

theorem replanAll_planned (gs : List GafMeas) : Planned os s (t.replanAll gs) := by
  unfold State.replanAll
  split
  · exact pin_foldl (P := Planned os s) _ _ (fun a x ha => replan_planned hos ha x.2 x.1) h
  · exact h

end

/-- A re-plan leaves the health block's own times. -/
theorem replanAll_far {s₀ : State} (s : State) (gs : List GafMeas) (hk : Far s₀ s) : Far s₀ (s.replanAll gs) := by
  have hset : ∀ (a : State) (e : Fin 8) (new : Nat), Far s₀ a → Far s₀ (a.leadSet e new) := fun a e new ha => by
    unfold State.leadSet
    dsimp only
    exact far_foldl _ _ (fun b n hb => far_ite (wake_far _ _ _ _ hb) hb) (emit_far _ _ _ _ _ _ _ _ _ (far_ite (evt_far _ _ (rput_far _ _ _ ha)) (rput_far _ _ _ ha)))
  have hover : ∀ (a : State) (e : Fin 8), Far s₀ a → Far s₀ (a.leadOver e) := fun a e ha => far_ite (evt_far _ _ ha) ha
  have hplan : ∀ (a : State) (e : Fin 8) (g : GafMeas), Far s₀ a → Far s₀ (a.replan e g) := fun a e g ha => by
    have h0 : Far s₀ (a.leadModel e g) := rput_far _ _ _ (rput_far _ _ _ ha)
    unfold State.replan
    dsimp only
    exact hover _ e (far_ite (hset _ e _ (modGaf_far _ _ _ h0)) (far_ite (hset _ e _ (modGaf_far _ _ _ h0)) (modGaf_far _ _ _ h0)))
  exact far_ite (far_foldl _ _ (fun b x hb => hplan b x.2 x.1 hb) hk) hk


/-! ### Samples -/

/-- The registers that the monitors of a sample show in. -/
def monRegs : List Nat := (List.range 32).map R.HL_MONm

/-- The readings of some monitors with their slowdowns, and the first one's number behind. -/
theorem monFold_frame (s : State) (xs : List ((Monitor × Int) × Nat)) (hx : ∀ x ∈ xs, x.2 < 32) : Frame monRegs s
    (xs.foldl (fun (a : State) (x : (Monitor × Int) × Nat) => a.setReg (R.HL_MONm x.2) (word (x.1.1.raw.toNat + 2 ^ 16 * (x.1.2 % 65536).toNat))) s) :=
  List.foldlRecOn (motive := Frame monRegs s) _ _ (.refl _ s) (fun _ ha x hm => ha.setReg _ (List.mem_map.2 ⟨x.2, List.mem_range.2 (hx x hm), rfl⟩))

theorem monFold_other (s : State) (xs : List ((Monitor × Int) × Nat)) {k : Nat} (hk : ∀ x ∈ xs, x.2 ≠ k) :
    (xs.foldl (fun (a : State) (x : (Monitor × Int) × Nat) => a.setReg (R.HL_MONm x.2) (word (x.1.1.raw.toNat + 2 ^ 16 * (x.1.2 % 65536).toNat))) s).reg
      (R.HL_MONm k) = s.reg (R.HL_MONm k) :=
  List.foldlRecOn (motive := fun t => State.reg t (R.HL_MONm k) = s.reg (R.HL_MONm k)) _ _ rfl (fun a ha x hm =>
    (reg_setReg_ne a _ (fun e => hk x hm (by simp only [R.HL_MONm] at e; omega))).trans ha)

/-- Each monitor shows where its number says. -/
theorem monFold_shows (s : State) (xs : List ((Monitor × Int) × Nat)) (hn : (xs.map Prod.snd).Nodup) {x : (Monitor × Int) × Nat} (hx : x ∈ xs) :
    (xs.foldl (fun (a : State) (x : (Monitor × Int) × Nat) => a.setReg (R.HL_MONm x.2) (word (x.1.1.raw.toNat + 2 ^ 16 * (x.1.2 % 65536).toNat))) s).reg
      (R.HL_MONm x.2) = word (x.1.1.raw.toNat + 2 ^ 16 * (x.1.2 % 65536).toNat) := by
  induction xs generalizing s with
  | nil => exact absurd hx (List.not_mem_nil)
  | cons y ys ih =>
    obtain ⟨hy, hys⟩ := List.nodup_cons.1 hn
    rw [List.foldl_cons]
    by_cases hm : x ∈ ys
    · exact ih _ hys hm
    · obtain rfl : x = y := (List.mem_cons.1 hx).resolve_right hm
      rw [monFold_other _ ys (fun z hz e => hy (List.mem_map.2 ⟨z, hz, e⟩)), reg_setReg_same]

theorem periodOver_iff (s : State) (last : Option Nat) (period : Nat) :
    s.periodOver last period = true ↔ ∀ k, last = some k → k + period ≤ s.spine.tick := by
  unfold State.periodOver
  cases last
  · exact ⟨fun _ k hk => absurd hk (by simp), fun _ => rfl⟩
  · simp

/-- The registers of a sample's tail, behind its monitors and failures. -/
def sampleRegs : List Nat := [R.HL_EVT, R.HL_AGE_LO, R.HL_AGE_HI, R.HL_LIFE, R.HL_MRAM] ++ planRegs

theorem planRegs_sample : ∀ o ∈ planRegs, o ∈ sampleRegs := fun _ h => List.mem_append_right _ h

theorem sampleRegs_not {o : Nat} (h : o < 0x40000) (hn : o ∉ [R.HL_EVT, R.HL_AGE_LO, R.HL_AGE_HI, R.HL_LIFE, R.HL_MRAM]) : o ∉ sampleRegs := fun hm => by
  rcases List.mem_append.1 hm with h1 | h1
  · exact hn h1
  · have := planRegs_page h1
    omega

theorem mramEntry_frame {os : List Nat} {s t : State} (h : HlFrame os s t) (hos : R.HL_MRAM ∈ os) (base size : Nat) {idx : Fld} (hi : idx.reg = R.HL_MRAM) :
    HlFrame os s (t.mramEntry base size idx) :=
  HlFrame.rwrap (h.put t.hl t.gaf (t.free + 16) (memWrWs t.mram (base + 64 * (t.rget idx % size)) (t.logWords 16))) 1 (by rw [hi]; exact hos)

/-- The monitors of a sample with their numbers. -/
def sampleRows (ms : List Monitor) (slows : List Int) : List ((Monitor × Int) × Nat) := (ms.zip slows).zip (List.range 32)

/-- What shows once the failures do: the temperature and the monitors stand behind it. -/
def State.sampleShown (s : State) (tj : BitVec 16) (ms : List Monitor) (slows : List Int) (vstFail : Bool) : State :=
  ((((sampleRows ms slows).foldl (fun (a : State) (x : (Monitor × Int) × Nat) =>
    a.setReg (R.HL_MONm x.2) (word (x.1.1.raw.toNat + 2 ^ 16 * (x.1.2 % 65536).toNat))) (s.rput F.HL_TEMP_TJ tj.toNat)).rput F.HL_STAT_MON_FAIL
      (b2n (slows.any (fun v => decide (10000 < v))))).rput F.HL_STAT_VST_FAIL (b2n vstFail))

theorem sampleRows_lt {ms : List Monitor} {slows : List Int} : ∀ x ∈ sampleRows ms slows, x.2 < 32 := fun _ hx =>
  List.mem_range.1 (List.of_mem_zip hx).2

theorem zip_snd_prefix {α β : Type} (l : List α) (m : List β) : (l.zip m).map Prod.snd <+: m := by
  induction l generalizing m with
  | nil => exact List.nil_prefix
  | cons x l ih =>
    cases m with
    | nil => exact List.nil_prefix
    | cons y m => exact (List.cons_prefix_cons).2 ⟨rfl, ih m⟩

theorem sampleRows_nodup (ms : List Monitor) (slows : List Int) : ((sampleRows ms slows).map Prod.snd).Nodup := by
  exact (zip_snd_prefix (ms.zip slows) (List.range 32)).sublist.nodup List.nodup_range

/-- What a sample shows behind that: its events, the age and the projection. -/
def State.sampleTail (a : State) (tj : BitVec 16) (slows : List Int) (vstFail : Bool) : State :=
  let s3 := if slows.any (fun v => decide (10000 < v)) then a.evt F.HL_EVT_MON_S else a
  let s4 := (if vstFail then s3.evt F.HL_EVT_VST_S else s3).ageAdd tj.toInt
  (s4.rput F.HL_LIFE_NOW ((worstOf slows).1 % 65536).toNat).rput F.HL_LIFE_PROJ (min (projection (worstOf slows).1.toNat s4.age) 65535)

/-! ### The block's own times -/

/-- The health block's times are as they were, but for the fraction of the age. -/
def TimesStay (s t : State) : Prop := t.hl.corrAt = s.hl.corrAt ∧ t.hl.recalAt = s.hl.recalAt ∧ t.hl.sampleAt = s.hl.sampleAt ∧ t.hl.lifeAt = s.hl.lifeAt

theorem Far.times {s t : State} (h : Far s t) : TimesStay s t := by
  obtain ⟨-, -, -, -, -, -, -, -, -, -, -, -, -, -, -, -, -, -, -, -, -, -, -, -, -, -, h1, h2, -, h3, h4, -⟩ := h
  exact ⟨h1, h2, h3, h4⟩

theorem TimesStay.trans {s t u : State} (h : TimesStay s t) (k : TimesStay t u) : TimesStay s u :=
  ⟨k.1.trans h.1, k.2.1.trans h.2.1, k.2.2.1.trans h.2.2.1, k.2.2.2.trans h.2.2.2⟩

/-- The age and its fraction set from one number, of 2^-32 of the age's unit each. -/
def State.ageSet (b : State) (m : Nat) : State :=
  let a := m / 2 ^ 32
  let s1 := (b.setReg R.HL_AGE_LO (word a)).setReg R.HL_AGE_HI (word (a / 2 ^ 32))
  { s1 with hl := { s1.hl with ageFrac := m % 2 ^ 32 } }

theorem ageAdd_eq (b : State) (tj : Int) : b.ageAdd tj = b.ageSet (b.age * 2 ^ 32 + b.hl.ageFrac + ageStep tj) := rfl

theorem ageSet_shape (b : State) (m : Nat) : ∃ w w' f, b.ageSet m =
    { (b.setReg R.HL_AGE_LO w).setReg R.HL_AGE_HI w' with hl := { b.hl with ageFrac := f } } :=
  ⟨_, _, _, rfl⟩

theorem ageAdd_shape (b : State) (tj : Int) : ∃ w w' f, b.ageAdd tj =
    { (b.setReg R.HL_AGE_LO w).setReg R.HL_AGE_HI w' with hl := { b.hl with ageFrac := f } } :=
  ageAdd_eq b tj ▸ ageSet_shape b _

theorem ageAdd_times (b : State) (tj : Int) : TimesStay b (b.ageAdd tj) := by
  obtain ⟨w, w', f, h⟩ := ageAdd_shape b tj
  rw [h]
  exact ⟨rfl, rfl, rfl, rfl⟩

theorem sampleTail_frame (a : State) (tj : BitVec 16) (slows : List Int) (vstFail : Bool) : HlFrame sampleRegs a (a.sampleTail tj slows vstFail) := by
  have he : ∀ r : Nat, r ∈ [R.HL_EVT, R.HL_AGE_LO, R.HL_AGE_HI, R.HL_LIFE, R.HL_MRAM] → r ∈ sampleRegs := fun r hr => List.mem_append_left _ hr
  have hevt : ∀ (b : State) (c : Bool) (f : Fld), f.reg = R.HL_EVT → HlFrame sampleRegs a b → HlFrame sampleRegs a (if c then b.evt f else b) := fun b c f hf hb => by
    split
    · exact hb.evt (by rw [hf]; exact he _ (by decide))
    · exact hb
  have h2 := hevt _ vstFail F.HL_EVT_VST_S rfl (hevt _ (slows.any (fun v => decide (10000 < v))) F.HL_EVT_MON_S rfl (Frame.refl _ a).toHealth)
  have hage : ∀ b : State, HlFrame sampleRegs a b → HlFrame sampleRegs a (b.ageAdd tj.toInt) := fun b hb => by
    obtain ⟨w, w', f, h⟩ := ageAdd_shape b tj.toInt
    rw [h]
    have hb' := (hb.setReg w (he R.HL_AGE_LO (by decide))).setReg w' (he R.HL_AGE_HI (by decide))
    exact hb'.put { b.hl with ageFrac := f } b.gaf b.free b.mram
  exact ((hage _ h2).rput _ (he _ (by decide))).rput _ (he _ (by decide))

theorem sampleTail_times (a : State) (tj : BitVec 16) (slows : List Int) (vstFail : Bool) : TimesStay a (a.sampleTail tj slows vstFail) := by
  have hevt : ∀ (b : State) (c : Bool) (f : Fld), Far a b → Far a (if c then b.evt f else b) := fun b c f hb => far_ite (evt_far _ _ hb) hb
  have h2 := hevt _ vstFail F.HL_EVT_VST_S (hevt _ (slows.any (fun v => decide (10000 < v))) F.HL_EVT_MON_S (far_refl a))
  obtain ⟨b, hb⟩ : ∃ b, b = (State.ageAdd (if vstFail then (if slows.any (fun v => decide (10000 < v)) then a.evt F.HL_EVT_MON_S else a).evt F.HL_EVT_VST_S
    else (if slows.any (fun v => decide (10000 < v)) then a.evt F.HL_EVT_MON_S else a)) tj.toInt) := ⟨_, rfl⟩
  have h3 : TimesStay a b := hb ▸ h2.times.trans (ageAdd_times _ _)
  unfold State.sampleTail
  dsimp only
  rw [← hb]
  exact h3.trans ⟨rfl, rfl, rfl, rfl⟩

theorem mramEntry_times (a : State) (base size : Nat) (idx : Fld) : TimesStay a (a.mramEntry base size idx) := ⟨rfl, rfl, rfl, rfl⟩

theorem healthRegs_tail (s : State) (tj : BitVec 16) (ms : List Monitor) (slows : List Int) (vstFail : Bool) :
    HlFrame sampleRegs (s.sampleShown tj ms slows vstFail) (s.healthRegs tj ms slows vstFail) ∧
    TimesStay (s.sampleShown tj ms slows vstFail) (s.healthRegs tj ms slows vstFail) := by
  unfold State.sampleShown State.healthRegs sampleRows
  dsimp only
  generalize State.rput (State.rput (List.foldl _ _ _) F.HL_STAT_MON_FAIL _) F.HL_STAT_VST_FAIL _ = a
  exact ⟨sampleTail_frame a tj slows vstFail, sampleTail_times a tj slows vstFail⟩

end Sys2Proof.Machine
end

section
set_option Elab.async false
namespace Sys2Proof
open Sys2Proof.Machine

theorem monRegs_page {o : Nat} (h : o ∈ monRegs) : 0x7100 ≤ o ∧ o < 0x7180 := by
  obtain ⟨k, hk, rfl⟩ := List.mem_map.1 h
  have := List.mem_range.1 hk
  unfold R.HL_MONm
  omega

theorem sampleShown_frames (s : State) (tj : BitVec 16) (ms : List Monitor) (slows : List Int) (vstFail : Bool) :
    Frame ([R.HL_STAT] ++ monRegs) (s.rput F.HL_TEMP_TJ tj.toNat) (s.sampleShown tj ms slows vstFail) :=
  (((monFold_frame _ _ sampleRows_lt).mono (fun _ h => List.mem_append_right _ h)).rput _ (List.mem_append_left _ (by decide))).rput _ (List.mem_append_left _ (by decide))

theorem sampleShown_temp (s : State) (tj : BitVec 16) (ms : List Monitor) (slows : List Int) (vstFail : Bool) :
    (s.sampleShown tj ms slows vstFail).rget F.HL_TEMP_TJ = tj.toNat := by
  have hn : F.HL_TEMP_TJ.reg ∉ [R.HL_STAT] ++ monRegs := fun h => by
    rcases List.mem_append.1 h with h | h
    · exact absurd h (by decide)
    · exact absurd (monRegs_page h).1 (by decide)
  rw [rget_of_reg ((sampleShown_frames s tj ms slows vstFail).regs _ (by decide) hn), rget_rput_same _ _ _ (by decide)]
  exact Nat.mod_eq_of_lt tj.isLt

theorem ron_b2n {n : Nat} {b : Bool} (h : n = b2n b) : (n != 0) = b := by rw [h]; cases b <;> rfl

theorem sampleShown_fails (s : State) (tj : BitVec 16) (ms : List Monitor) (slows : List Int) (vstFail : Bool) :
    (s.sampleShown tj ms slows vstFail).ron F.HL_STAT_VST_FAIL = vstFail ∧
    (s.sampleShown tj ms slows vstFail).ron F.HL_STAT_MON_FAIL = slows.any (fun v => decide (10000 < v)) := by
  have hb : ∀ b : Bool, b2n b % 2 ^ 1 = b2n b := by decide
  refine ⟨ron_b2n ((rget_rput_same _ _ _ (by decide)).trans (hb _)), ron_b2n ?_⟩
  exact (rget_rput_apart _ _ (by decide) (by decide) (by decide)).trans ((rget_rput_same _ _ _ (by decide)).trans (hb _))

theorem sampleShown_monitor (s : State) (tj : BitVec 16) {ms : List Monitor} {slows : List Int} (vstFail : Bool) {x : (Monitor × Int) × Nat} (hx : x ∈ sampleRows ms slows) :
    (s.sampleShown tj ms slows vstFail).reg (R.HL_MONm x.2) = word (x.1.1.raw.toNat + 2 ^ 16 * (x.1.2 % 65536).toNat) := by
  have hne : R.HL_MONm x.2 ≠ R.HL_STAT := by unfold R.HL_MONm R.HL_STAT; omega
  exact (reg_rput_ne _ _ hne).trans ((reg_rput_ne _ _ hne).trans (monFold_shows _ _ (sampleRows_nodup ms slows) hx))

/-- Monitor k of a sample, with its slowdown. -/
theorem mem_sampleRows {s : State} {ms : List Monitor} {vcore tj : BitVec 16} {k : Nat} {m : Monitor} (hk : k < 32) (hm : ms[k]? = some m) :
    ((m, s.monSlow k m vcore tj), k) ∈ sampleRows ms (s.slows ms vcore tj) := by
  refine List.mem_iff_getElem?.2 ⟨k, ?_⟩
  have hr : (List.range 32)[k]? = some k := by rw [List.getElem?_range hk]
  have hs : (s.slows ms vcore tj)[k]? = some (s.monSlow k m vcore tj) := by
    unfold State.slows
    rw [List.getElem?_map, (List.getElem?_zip_eq_some (z := (m, k))).2 ⟨hm, hr⟩]
    rfl
  exact (List.getElem?_zip_eq_some (z := ((m, s.monSlow k m vcore tj), k))).2 ⟨(List.getElem?_zip_eq_some (z := (m, s.monSlow k m vcore tj))).2 ⟨hm, hs⟩, hr⟩

theorem healthSample_shows {s : State} {tj vcore : BitVec 16} {ms : List Monitor} {vst : List (BitVec 16)} {gs : List GafMeas} (hd : s.sampleDue = true) :
    let t := s.healthSample tj vcore ms vst gs
    HlFrame sampleRegs (({ s with hl := { s.hl with sampleAt := some s.spine.tick } } : State).sampleShown tj ms (s.slows ms vcore tj) (vst.any vernierFails)) t ∧
    t.hl.sampleAt = some s.spine.tick ∧ t.hl.corrAt = s.rget F.HL_ECC_CORR := by
  intro t
  obtain ⟨a, ha⟩ : ∃ a, a = ({ s with hl := { s.hl with sampleAt := some s.spine.tick } } : State).sampleShown tj ms (s.slows ms vcore tj) (vst.any vernierFails) := ⟨_, rfl⟩
  obtain ⟨r, hr⟩ : ∃ r, r = (State.healthRegs { s with hl := { s.hl with sampleAt := some s.spine.tick } } tj ms (s.slows ms vcore tj) (vst.any vernierFails)).replanAll gs := ⟨_, rfl⟩
  have htail := healthRegs_tail { s with hl := { s.hl with sampleAt := some s.spine.tick } } tj ms (s.slows ms vcore tj) (vst.any vernierFails)
  rw [← ha] at htail
  have hrf : HlFrame sampleRegs a r := htail.1.trans <| hr ▸ (replanAll_planned planRegs_sample ⟨Frame.toHealth (Frame.refl _ _), rfl⟩ gs).1
  have hrt : TimesStay a r := hr ▸ htail.2.trans (replanAll_far _ gs (far_refl _)).times
  have haf : Frame ([R.HL_TEMP, R.HL_STAT] ++ monRegs) ({ s with hl := { s.hl with sampleAt := some s.spine.tick } } : State) a := by
    rw [ha]
    refine ((Frame.refl _ _).rput _ (List.mem_append_left _ (by decide))).trans ((sampleShown_frames _ tj ms _ _).mono (fun o ho => ?_))
    rcases List.mem_append.1 ho with h | h
    · exact List.mem_append_left _ (List.mem_cons_of_mem _ h)
    · exact List.mem_append_right _ h
  have hecc : r.rget F.HL_ECC_CORR = s.rget F.HL_ECC_CORR := by
    rw [hrf.rget (by decide) (sampleRegs_not (by decide) (by decide))]
    refine rget_of_reg (haf.regs _ (by decide) (fun h => ?_))
    rcases List.mem_append.1 h with h | h
    · exact absurd h (by decide)
    · exact absurd (monRegs_page h).1 (by decide)
  have hlog : HlFrame sampleRegs a r.eccMark.healthLog ∧ TimesStay r.eccMark r.eccMark.healthLog := by
    have hm : HlFrame sampleRegs a r.eccMark := hrf.put _ r.gaf r.free r.mram
    unfold State.healthLog
    split
    · exact ⟨mramEntry_frame hm (List.mem_append_left _ (by decide)) _ _ rfl, mramEntry_times _ _ _ _⟩
    · exact ⟨hm, rfl, rfl, rfl, rfl⟩
  obtain ⟨b, hb⟩ : ∃ b, b = r.eccMark.healthLog := ⟨_, rfl⟩
  rw [← hb] at hlog
  have ht : t = b.healthRecord tj vcore (s.rget F.HL_ECC_CORR - s.hl.corrAt) (worstOf (s.slows ms vcore tj)).2 (vst.any vernierFails) := by
    rw [hb, hr]
    exact if_pos hd
  have hrec : HlFrame sampleRegs a t ∧ TimesStay b t := by
    rw [ht]
    unfold State.healthRecord
    split
    · exact ⟨hlog.1.emit _ _ _ _ _ _ _ _, (emit_far _ _ _ _ _ _ _ _ _ (far_refl b)).times⟩
    · exact ⟨hlog.1, rfl, rfl, rfl, rfl⟩
  obtain ⟨h1, -, h3, -⟩ := hlog.2.trans hrec.2
  refine ⟨ha ▸ hrec.1, h3.trans (hrt.2.2.1.trans ?_), h1.trans hecc⟩
  exact haf.far.times.2.2.1

/-! ### The clauses of a sample and of a checkpoint -/

theorem slows_any (s : State) (ms : List Monitor) (vcore tj : BitVec 16) :
    (s.slows ms vcore tj).any (fun v => decide (10000 < v)) = (ms.zip (List.range 32)).any (fun x => decide (10000 < s.monSlow x.2 x.1 vcore tj)) := by
  unfold State.slows
  rw [List.any_map]
  rfl

/-- A sample that is due. -/
theorem healthSample_due {s : State} (tj vcore : BitVec 16) (ms : List Monitor) (vst : List (BitVec 16)) (gs : List GafMeas) (hd : s.sampleDue = true) :
    let t := s.healthSample tj vcore ms vst gs
    t.rget F.HL_TEMP_TJ = tj.toNat ∧ t.ron F.HL_STAT_VST_FAIL = vst.any (fun e => decide (20 * 16 < e.toNat)) ∧ t.hl.sampleAt = some s.spine.tick ∧
    t.ron F.HL_STAT_MON_FAIL = (ms.zip (List.range 32)).any (fun x => decide (10000 < s.monSlow x.2 x.1 vcore tj)) ∧ t.hl.corrAt = s.rget F.HL_ECC_CORR ∧
    (∀ k m, k < 32 → ms[k]? = some m → t.reg (R.HL_MONm k) = word (m.raw.toNat + 2 ^ 16 * (s.monSlow k m vcore tj % 65536).toNat)) ∧
    State.sameBlocks { s with hl := t.hl, gaf := t.gaf, free := t.free } t := by
  intro t
  obtain ⟨hf, ha, hc⟩ := healthSample_shows (tj := tj) (vcore := vcore) (ms := ms) (vst := vst) (gs := gs) hd
  have hshown := sampleShown_frames { s with hl := { s.hl with sampleAt := some s.spine.tick } } tj ms (s.slows ms vcore tj) (vst.any vernierFails)
  have htj := sampleShown_temp { s with hl := { s.hl with sampleAt := some s.spine.tick } } tj ms (s.slows ms vcore tj) (vst.any vernierFails)
  obtain ⟨hv, hm⟩ := sampleShown_fails { s with hl := { s.hl with sampleAt := some s.spine.tick } } tj ms (s.slows ms vcore tj) (vst.any vernierFails)
  have hmon : ∀ k m, k < 32 → ms[k]? = some m → _ := fun k m hk hx =>
    sampleShown_monitor { s with hl := { s.hl with sampleAt := some s.spine.tick } } tj (vst.any vernierFails) (mem_sampleRows (s := s) (vcore := vcore) (tj := tj) hk hx)
  have hbl : State.sameBlocks { s with hl := t.hl, gaf := t.gaf, free := t.free } t := by
    have h0 : HlFrame (monRegs ++ [R.HL_STAT, R.HL_TEMP] ++ sampleRegs) s t := by
      refine HlFrame.trans (HlFrame.put (Frame.refl _ s).toHealth { s.hl with sampleAt := some s.spine.tick } s.gaf s.free s.mram)
        (HlFrame.trans (Frame.toHealth (((Frame.refl _ _).rput tj.toNat ?_).trans (hshown.mono ?_))) (hf.mono (fun o ho => List.mem_append_right _ ho)))
      · exact List.mem_append_left _ (List.mem_append_right _ (by decide))
      · intro o ho
        rcases List.mem_append.1 ho with h | h
        · exact List.mem_append_left _ (List.mem_append_right _ (List.mem_of_mem_head? (by rw [List.mem_singleton.1 h]; rfl)))
        · exact List.mem_append_left _ (List.mem_append_left _ h)
    exact h0.2
  refine ⟨(hf.rget (by decide) (sampleRegs_not (by decide) (by decide))).trans htj, (ron_of_rget_eq (hf.rget (by decide) (sampleRegs_not (by decide) (by decide)))).trans hv,
    ha, (ron_of_rget_eq (hf.rget (by decide) (sampleRegs_not (by decide) (by decide)))).trans (hm.trans (slows_any s ms vcore tj)), hc, fun k m hk hx => ?_, hbl⟩
  refine (hf.regs (R.HL_MONm k) (reportReg_of_page (.inr (by unfold R.HL_MONm; omega))) (sampleRegs_not (by unfold R.HL_MONm; omega) ?_)).trans (hmon k m hk hx)
  simp only [R.HL_MONm, R.HL_EVT, R.HL_AGE_LO, R.HL_AGE_HI, R.HL_LIFE, R.HL_MRAM, List.mem_cons, List.not_mem_nil, or_false]
  omega

/-- A checkpoint that is due. -/
theorem healthLife_due {s : State} (hd : s.lifeDue = true) :
    let t := s.healthLife
    t.hl.lifeAt = some s.spine.tick ∧ t.ron F.HL_STAT_WARN = decide (10000 - (s.rget F.HL_LIFE_PROJ : Int) < s.rget F.HL_LIFE_CFG_WARN) ∧
    t.rget F.HL_MRAM_HOURIDX = (s.rget F.HL_MRAM_HOURIDX + 1) % 2 ^ 16 ∧ s.sameRegsBut t [R.HL_MRAM, R.HL_STAT, R.HL_EVT] ∧
    State.sameBlocks { s with free := t.free, hl := t.hl } t := by
  intro t
  obtain ⟨low, hlow⟩ : ∃ low, low = decide (s.margin < (s.rget F.HL_LIFE_CFG_WARN : Int)) := ⟨_, rfl⟩
  obtain ⟨m, hm⟩ : ∃ m, m = memWrWs s.mram (0x48000 + 64 * (s.rget F.HL_MRAM_HOURIDX % 2048))
    (({ s with hl := { s.hl with lifeAt := some s.spine.tick } } : State).logWords 16) := ⟨_, rfl⟩
  obtain ⟨u, hu⟩ : ∃ u, u = ({ s with hl := { s.hl with lifeAt := some s.spine.tick }, free := s.free + 16, mram := m } : State) := ⟨_, rfl⟩
  obtain ⟨b, hb⟩ : ∃ b, b = (u.rwrap F.HL_MRAM_HOURIDX 1).rput F.HL_STAT_WARN (b2n low) := ⟨_, rfl⟩
  obtain ⟨c, hc⟩ : ∃ c, c = (if low then b.evt F.HL_EVT_LIFE_S else b) := ⟨_, rfl⟩
  have ht : t = c.emit 0x23 105 c.now 0 (word (c.age / 3600)) (c.reg R.HL_LIFE) (iword c.margin) (word (b2n low)) := by
    rw [hc, hb, hu, hm, hlow]
    exact if_pos hd
  have hbf : Frame [R.HL_MRAM, R.HL_STAT, R.HL_EVT] u b := by
    rw [hb]
    exact ((Frame.refl _ u).rwrap _ (by decide)).rput _ (by decide)
  have hcf : Frame [R.HL_EVT] b c := by
    rw [hc]
    split
    · exact (Frame.refl _ b).evt (by decide)
    · exact .refl _ b
  have htf : Frame [R.HL_EVT] b t := by
    rw [ht]
    exact hcf.emit _ _ _ _ _ _ _ _
  have hall := hbf.trans (htf.mono (by decide))
  have hw : b.ron F.HL_STAT_WARN = low := by
    rw [hb]
    exact ron_b2n ((rget_rput_same _ _ _ (by decide)).trans (by cases low <;> rfl))
  have hi : b.rget F.HL_MRAM_HOURIDX = (s.rget F.HL_MRAM_HOURIDX + 1) % 2 ^ 16 := by
    rw [hb]
    refine (rget_of_reg (reg_rput_ne _ _ (by decide))).trans ((rget_rwrap_same _ _ _ (by decide)).trans ?_)
    rw [hu]
    rfl
  refine ⟨hall.far.times.2.2.2.trans (by rw [hu]), ?_, ?_, ?_⟩
  · rw [ron_of_reg (htf.regs _ (by decide) (by decide)), hw, hlow]
    rfl
  · rw [rget_of_reg (htf.regs _ (by decide) (by decide)), hi]
  · rw [hu] at hall
    exact hall.onLife

/-! ### Recalibrations -/

/-- The registers of the banks' tables. -/
def calRegs : List Nat := (List.finRange 12).map (fun (b : Fin 12) => R.SPN_BANKCALb b)

theorem calRegs_page {o : Nat} (h : o ∈ calRegs) : 0x1100 ≤ o ∧ o < 0x1130 := by
  obtain ⟨b, -, rfl⟩ := List.mem_map.1 h
  unfold R.SPN_BANKCALb
  omega

/-- But for the banks and their registers, a state is as it was. -/
def BankFrame (s t : State) : Prop := Frame calRegs { s with banks := t.banks } t

theorem BankFrame.rebank {s t : State} (h : BankFrame s t) (x : Vector Bank 12) : BankFrame s { t with banks := x } := by
  obtain ⟨hr, hf, hc⟩ := h
  obtain ⟨a1, a2, a3, a4, -, a6⟩ := hf
  exact ⟨hr, ⟨a1, a2, a3, a4, rfl, a6⟩, hc⟩

theorem BankFrame.rput {s t : State} (h : BankFrame s t) {f : Fld} (v : Nat) (hf : f.reg ∈ calRegs) : BankFrame s (t.rput f v) := Frame.rput h v hf

theorem mem_calRegs (b : Fin 12) : R.SPN_BANKCALb b ∈ calRegs := List.mem_map.2 ⟨b, List.mem_finRange b, rfl⟩

theorem recalBank_frame {s t : State} (h : BankFrame s t) (m : BankMeas) : BankFrame s (t.recalBank m) :=
  ((((h.rebank _).rput _ (mem_calRegs m.b)).rput _ (mem_calRegs m.b)).rput _ (mem_calRegs m.b)).rput _ (mem_calRegs m.b)

theorem recalBank_banks (s : State) (m : BankMeas) : (s.recalBank m).banks = s.banks.set m.b { s.banks[m.b] with bins := m.bins, swap := true } := rfl

theorem recalBanks_frame (s : State) (ms : List BankMeas) : BankFrame s (ms.foldl (fun (a : State) m => a.recalBank m) s) :=
  pin_foldl (P := BankFrame s) _ _ (fun _ m h => recalBank_frame h m) (Frame.refl _ s)

theorem recalBanks_other (ms : List BankMeas) (b : Fin 12) (s : State) (h : ∀ m ∈ ms, m.b ≠ b) :
    (ms.foldl (fun (a : State) m => a.recalBank m) s).banks[b] = s.banks[b] :=
  List.foldlRecOn (motive := fun t : State => t.banks[b] = s.banks[b]) _ _ rfl (fun a ha m hm => by
    rw [recalBank_banks]
    refine (Vector.getElem_set_ne m.b.isLt b.isLt ?_).trans ha
    exact fun e => h m hm (Fin.ext e))

theorem recalBank_shows (s : State) (m : BankMeas) : (s.recalBank m).banks[m.b] = { s.banks[m.b] with bins := m.bins, swap := true } ∧
    (s.recalBank m).ron (F.SPN_BANKCALb_VALID m.b) = true ∧ (s.recalBank m).rget (F.SPN_BANKCALb_ELEM m.b) = m.elem.toNat := by
  refine ⟨by rw [recalBank_banks]; exact Vector.getElem_set_self m.b.isLt, ?_⟩
  obtain ⟨u, hu⟩ : ∃ u, s.recalBank m = State.rput (State.rput u (F.SPN_BANKCALb_ELEM m.b) m.elem.toNat) (F.SPN_BANKCALb_VALID m.b) 1 := ⟨_, rfl⟩
  rw [hu]
  constructor
  · exact congrArg (· != 0) (rget_rput_same _ _ _ (show 24 + 1 ≤ 32 by decide))
  · refine (rget_rput_apart (f := F.SPN_BANKCALb_VALID m.b) (g := F.SPN_BANKCALb_ELEM m.b) _ 1 (show 24 + 1 ≤ 32 by decide) rfl (.inl (show 0 + 8 ≤ 24 by decide))).trans
      ((rget_rput_same _ _ _ (show 0 + 8 ≤ 32 by decide)).trans ?_)
    exact Nat.mod_eq_of_lt m.elem.isLt

/-- A recalibration outside a load. -/
theorem recalibrate_runs {s : State} (ms : List BankMeas) (gs : List GafMeas) (tj : BitVec 16) {cause : Nat} (hc : s.recalCause tj.toInt = cause) (h0 : cause ≠ 0)
    (h3 : cause < 3) :
    let t := s.recalibrate ms gs tj
    t.rget F.HL_TEMP_TCAL = tj.toNat ∧ t.rget F.HL_RECAL_COUNT = (s.rget F.HL_RECAL_COUNT + 1) % 2 ^ 16 ∧ t.hl.recalAt = s.now ∧
    t.ron F.HL_EVT_RECAL_S = true ∧ t.rget F.HL_RECAL_LAST = cause ∧
    (∀ b : Fin 12, (∀ m ∈ ms, m.b ≠ b) → t.banks[b] = s.banks[b]) ∧
    (∀ m, ms = [m] → t.banks[m.b] = { s.banks[m.b] with bins := m.bins, swap := true } ∧
      t.ron (F.SPN_BANKCALb_VALID m.b) = true ∧ t.rget (F.SPN_BANKCALb_ELEM m.b) = m.elem.toNat) ∧
    State.sameBlocks { s with banks := t.banks, hl := t.hl, gaf := t.gaf } t := by
  intro t
  have hbf := recalBanks_frame s ms
  have hoth := fun b => recalBanks_other ms b s
  have hone : ∀ m, ms = [m] → ms.foldl (fun (a : State) m => a.recalBank m) s = s.recalBank m := fun m hm => by rw [hm]; rfl
  obtain ⟨a, ha⟩ : ∃ a, a = ms.foldl (fun (a : State) m => a.recalBank m) s := ⟨_, rfl⟩
  obtain ⟨mask, hmask⟩ : ∃ n, n = (List.finRange 12).foldl (fun (a : Nat) (b : Fin 12) => a + bitAt b (ms.any (fun m => m.b == b))) 0 := ⟨_, rfl⟩
  rw [← ha] at hbf hoth hone
  obtain ⟨b, hb⟩ : ∃ b, b = ((a.rput F.HL_TEMP_TCAL tj.toNat).rwrap F.HL_RECAL_COUNT 1).rput F.HL_RECAL_LAST cause := ⟨_, rfl⟩
  obtain ⟨c, hcc⟩ : ∃ c, c = ({ b with hl := { b.hl with recalAt := b.now } } : State) := ⟨_, rfl⟩
  obtain ⟨d, hdd⟩ : ∃ d, d = (c.evt F.HL_EVT_RECAL_S).emit 0x21 105 (c.evt F.HL_EVT_RECAL_S).now 0 (word cause) (word tj.toNat) (word mask) 0 := ⟨_, rfl⟩
  have ht : t = d.replanAll gs := by
    rw [hdd, hcc, hb, ha, hmask]
    show s.recalibrate ms gs tj = _
    unfold State.recalibrate
    dsimp only
    rw [hc, if_neg h0, if_neg (fun h => by omega)]
  have hcb : Frame [R.HL_TEMP, R.HL_RECAL] a b := by
    rw [hb]
    exact ((((Frame.refl _ a).rput _ (by decide)).rwrap _ (by decide)).rput _ (by decide))
  have hdc : Frame [R.HL_EVT] c d := by
    rw [hdd]
    exact ((Frame.refl _ c).evt (by decide)).emit _ _ _ _ _ _ _ _
  have htd : Planned planRegs d t := ht ▸ replanAll_planned (fun _ h => h) ⟨(Frame.refl _ d).toHealth, rfl⟩ gs
  have hnow : b.now = s.now := by
    have h1 : b.spine = s.spine := (Far.spine hcb.far).trans hbf.2.1.2.2.2.1
    show b.spine.acc.toNat / 2 ^ 34 = s.spine.acc.toNat / 2 ^ 34
    rw [h1]
  have hreg : ∀ o, reportReg o = false → o ≠ R.HL_EVT → o < 0x40000 → t.reg o = b.reg o := fun o hr he ho => by
    rw [htd.1.regs o hr (fun h => by have := planRegs_page h; omega), hdc.regs o hr (fun h => he (List.mem_singleton.1 h)), hcc]
    rfl
  have hbanks : t.banks = a.banks := (HlFrame.banks htd.1).trans ((Far.banks hdc.far).trans ((by rw [hcc] : c.banks = b.banks).trans (Far.banks hcb.far)))
  have hold : ∀ o, reportReg o = false → o ≠ R.HL_EVT → o < 0x40000 → o ∉ [R.HL_TEMP, R.HL_RECAL] → t.reg o = a.reg o := fun o hr he ho hn =>
    (hreg o hr he ho).trans (hcb.regs o hr hn)
  have hcal : ∀ o, o < 0x1000 ∨ 0x1200 ≤ o → reportReg o = false → a.reg o = s.reg o := fun o ho hr => hbf.regs o hr (fun h => by
    have := calRegs_page h
    omega)
  refine ⟨?_, ?_, ?_, ?_, ?_, fun x hx => ?_, fun m hm => ?_, ?_⟩
  · rw [rget_of_reg (hreg _ (by decide) (by decide) (by decide)), hb, rget_of_reg (reg_rput_ne _ _ (by decide)), rget_rwrap_ne _ _ (by decide),
      rget_rput_same _ _ _ (by decide)]
    exact Nat.mod_eq_of_lt tj.isLt
  · rw [rget_of_reg (hreg _ (by decide) (by decide) (by decide)), hb, rget_rput_apart _ _ (by decide) (by decide) (by decide), rget_rwrap_same _ _ _ (by decide),
      rget_of_reg (reg_rput_ne _ _ (by decide)), rget_of_reg (hcal _ (by decide) (by decide))]
    rfl
  · rw [ht, (replanAll_far d gs (far_refl d)).times.2.1, hdc.far.times.2.1, hcc]
    exact hnow
  · rw [ron_of_reg (htd.1.regs _ (by decide) (fun h => absurd (planRegs_page h) (by decide))), hdd]
    exact (ron_of_reg (reg_emit _ _ _ _ _ _ _ _ _ (by decide))).trans (ron_evt _ _ rfl (by decide) (by decide))
  · rw [rget_of_reg (hreg _ (by decide) (by decide) (by decide)), hb, rget_rput_same _ _ _ (by decide)]
    exact Nat.mod_eq_of_lt (show cause < 4 by omega)
  · rw [hbanks]
    exact hoth x hx
  · obtain ⟨h1, h2, h3⟩ := recalBank_shows s m
    rw [← hone m hm] at h1 h2 h3
    have hr : t.reg (R.SPN_BANKCALb m.b) = a.reg (R.SPN_BANKCALb m.b) := by
      have := calRegs_page (mem_calRegs m.b)
      refine hold _ (reportReg_of_page (.inl (by omega))) ?_ (by omega) ?_
      · simp only [R.HL_EVT]; omega
      · simp only [R.HL_TEMP, R.HL_RECAL, List.mem_cons, List.not_mem_nil, or_false]; omega
    exact ⟨by rw [hbanks]; exact h1, (ron_of_reg hr).trans h2, (rget_of_reg hr).trans h3⟩
  · have hcf := (Frame.toHealth hcb).put { b.hl with recalAt := b.now } b.gaf b.free b.mram
    rw [← show c = { b with hl := { b.hl with recalAt := b.now }, gaf := b.gaf, free := b.free, mram := b.mram } from hcc] at hcf
    have hall := (((Frame.toHealth hbf).mono (os' := calRegs ++ [R.HL_TEMP, R.HL_RECAL, R.HL_EVT] ++ planRegs) (fun o ho => List.mem_append_left _ (List.mem_append_left _ ho))).trans
      (hcf.mono (fun o ho => List.mem_append_left _ (List.mem_append_right _ ((by decide : ∀ o ∈ [R.HL_TEMP, R.HL_RECAL], o ∈ [R.HL_TEMP, R.HL_RECAL, R.HL_EVT]) o ho))))).trans
      ((Frame.toHealth hdc).mono (fun o ho => List.mem_append_left _ (List.mem_append_right _ ((by decide : ∀ o ∈ [R.HL_EVT], o ∈ [R.HL_TEMP, R.HL_RECAL, R.HL_EVT]) o ho))))
    have hb := (hall.trans (htd.1.mono (fun o ho => List.mem_append_right _ ho))).2
    have hfree : t.free = s.free := htd.2.trans ((Core.free hdc.core).trans ((by rw [hcc] : c.free = b.free).trans ((Core.free hcb.core).trans (Core.free hbf.2.2))))
    rw [hfree] at hb
    rw [hbanks]
    exact hb

/-! ### The tables come into force -/

theorem bankSwap_bank (s : State) (b : Fin 12) : (s.bankSwap b).banks[b] =
    if s.banks[b].swap then { s.banks[b] with live := some ⟨s.rget (F.SPN_BANKCALb_ELEM b), s.banks[b].bins⟩, swap := false } else s.banks[b] := by
  unfold State.bankSwap
  split
  · exact Vector.getElem_set_self b.isLt
  · rfl

theorem bankSwap_other (s : State) {b c : Fin 12} (h : c ≠ b) : (s.bankSwap c).banks[b] = s.banks[b] := by
  unfold State.bankSwap
  split
  · exact Vector.getElem_set_ne c.isLt b.isLt (fun e => h (Fin.ext e))
  · rfl

theorem foldl_bankSwap (b : Fin 12) (l : List (Fin 12)) (hl : l.Nodup) (s : State) : (l.foldl (fun (a : State) c => a.bankSwap c) s).banks[b] =
    if b ∈ l ∧ s.banks[b].swap then { s.banks[b] with live := some ⟨s.rget (F.SPN_BANKCALb_ELEM b), s.banks[b].bins⟩, swap := false } else s.banks[b] := by
  induction l generalizing s with
  | nil => simp
  | cons c l ih =>
    obtain ⟨hc, hl'⟩ := List.nodup_cons.1 hl
    rw [List.foldl_cons, ih hl']
    have hr : (s.bankSwap c).rget (F.SPN_BANKCALb_ELEM b) = s.rget (F.SPN_BANKCALb_ELEM b) := by
      obtain ⟨x, hx⟩ := modBank_shape s c
      rw [hx]
      rfl
    by_cases hcb : c = b
    · subst hcb
      rw [if_neg (fun h => hc h.1), bankSwap_bank]
      simp only [List.mem_cons, true_or, true_and]
    · rw [bankSwap_other s hcb, hr]
      simp only [List.mem_cons, show (b = c) = False from eq_false (fun e => hcb e.symm), false_or]

theorem banksSwap_bank (s : State) (b : Fin 12) : s.banksSwap.banks[b] =
    if s.banks[b].swap then { s.banks[b] with live := some ⟨s.rget (F.SPN_BANKCALb_ELEM b), s.banks[b].bins⟩, swap := false } else s.banks[b] := by
  refine (foldl_bankSwap b _ (List.nodup_finRange 12) s).trans ?_
  simp only [List.mem_finRange, true_and]

theorem bankCal_plain : ∀ b : Fin 12, stBits (R.SPN_BANKCALb b) = 0 := by decide +kernel

theorem bankCal_end (b : Fin 12) : EndReg (R.SPN_BANKCALb b) := by
  have h := calRegs_page (mem_calRegs b)
  exact ⟨spine_apart (by omega) (by simp only [R.SPN_EVT]; omega) (by simp only [R.CFG_EVT]; omega), by simp only [R.SPN_STAT]; omega, bankCal_plain b⟩

theorem spineMove_banks (s : State) : s.spineMove.banks = s.banks := (Far.banks (spineMove_frame s).blocks.1 :)

/-- A plain tick takes the tables that wait in the shadow copies. -/
theorem plainTick_bank {s : State} (hp : plainTick s) (b : Fin 12) : (s.tickMove 0).banks[b] =
    if s.banks[b].swap then { s.banks[b] with live := some ⟨s.rget (F.SPN_BANKCALb_ELEM b), s.banks[b].bins⟩, swap := false } else s.banks[b] := by
  have hmove := spineMove_frame s.tickEnd
  have hpage := calRegs_page (mem_calRegs b)
  have hmb : s.tickEnd.spineMove.banks = s.tickEnd.banks := spineMove_banks _
  have hb : s.tickEnd.spineMove.banks = s.banks := hmb.trans (tickEnd_ticked s).banks
  have hr : s.tickEnd.spineMove.reg (R.SPN_BANKCALb b) = s.reg (R.SPN_BANKCALb b) :=
    (hmove.regs (R.SPN_BANKCALb b) (reportReg_of_page (.inl (by omega))) (by simp only [List.mem_singleton, R.SPN_EVT]; omega)).trans ((tickEnd_ended s).regs _ (bankCal_end b))
  obtain ⟨o, ho⟩ := tickBegun_plain (plainTick_spineMove (plainTick_tickEnd hp))
  rw [tickMove_plain hp, (blocksStart_tick ticked_closed _ (.refl _)).banks, banksSwap_bank]
  generalize s.tickEnd.spineMove = e at hb hr ho ⊢
  have hb' : e.tickBegun.banks = s.banks := by rw [ho]; exact hb
  have hr' : e.tickBegun.reg (R.SPN_BANKCALb b) = s.reg (R.SPN_BANKCALb b) := by rw [ho]; exact hr
  rw [hb', rget_of_reg (f := F.SPN_BANKCALb_ELEM b) hr']

/-! ### The obligation -/

theorem sampleDue_iff (s : State) : s.sampleDue = true ↔ s.ron F.HL_CTRL_EN = true ∧ ∀ k, s.hl.sampleAt = some k → k + 10 * 10 ^ 9 ≤ s.spine.tick := by
  unfold State.sampleDue
  rw [Bool.and_eq_true, periodOver_iff]
  rfl

theorem lifeDue_iff (s : State) : s.lifeDue = true ↔ s.ron F.HL_CTRL_EN = true ∧ ∀ k, s.hl.lifeAt = some k → k + 3600 * 10 ^ 9 ≤ s.spine.tick := by
  unfold State.lifeDue
  rw [Bool.and_eq_true, periodOver_iff]
  rfl

/-- Why a recalibration outside a load runs. -/
theorem recalCause_eq {s : State} (hl : s.loading = false) (tj : Int) : s.recalCause tj =
    if s.ron F.HL_CTRL_EN = false then 0 else if 40 ≤ (tj - signed (s.rget F.HL_TEMP_TCAL) 16).natAbs then 1
    else if s.hl.recalAt + 38400000000000 ≤ s.now then 2 else 0 := by
  unfold State.recalCause
  rw [hl]
  simp only [Bool.false_eq_true, if_false, Bool.not_eq_true, show 600 * 64000000000 = 38400000000000 from rfl]

theorem recalRow_idle {s : State} (hl : s.loading = false) {ms : List BankMeas} {gs : List GafMeas} {tj : BitVec 16} (h : s.recalCause tj.toInt = 0) :
    s.recalRow ms gs tj = s := by
  unfold State.recalRow State.recalibrate
  rw [hl]
  simp only [Bool.false_eq_true, if_false, h, if_true]

theorem recalRow_recalibrate {s : State} (hl : s.loading = false) (ms : List BankMeas) (gs : List GafMeas) (tj : BitVec 16) :
    s.recalRow ms gs tj = s.recalibrate ms gs tj := by
  unfold State.recalRow
  rw [hl]
  rfl

/-- Settles O59, by what each row of the health block writes; a plain tick swaps the banks' tables at its start. -/
theorem healthSamplesAndRecalibrates : Obligations.HealthSamplesAndRecalibrates := by
  unfold Obligations.HealthSamplesAndRecalibrates
  refine ⟨fun tj vcore ms vst gs s he => ?_, fun ms gs tj s he => ?_, fun b s he hc hp hq => ?_⟩
  · have hx : exec (.healthSample tj vcore ms vst gs) s = .next (s.healthSample tj vcore ms vst gs) := event_open he (fun s => s.healthSample tj vcore ms vst gs)
    have hy : exec .healthLife s = .next s.healthLife := event_open he State.healthLife
    refine ⟨fun h => hx.trans (congrArg _ (if_neg ?_)), fun h => hy.trans (congrArg _ (if_neg ?_)), fun hen =>
      ⟨fun hpast => ⟨_, hx, healthSample_due tj vcore ms vst gs ((sampleDue_iff s).2 ⟨hen, hpast⟩)⟩, fun hpast => ⟨_, hy, healthLife_due ((lifeDue_iff s).2 ⟨hen, hpast⟩)⟩⟩⟩
    · rw [sampleDue_iff]
      exact fun hd => h.elim (fun h0 => absurd (h0.symm.trans hd.1) (by decide)) (fun h0 => h0 hd.2)
    · rw [lifeDue_iff]
      exact fun hd => h.elim (fun h0 => absurd (h0.symm.trans hd.1) (by decide)) (fun h0 => h0 hd.2)
  · have hx : exec (.recalibration ms gs tj) s = .next (s.recalRow ms gs tj) := event_open he (fun s => s.recalRow ms gs tj)
    refine ⟨fun hl hen => hx.trans (congrArg _ (recalRow_idle hl ?_)), fun hl ht hi => hx.trans (congrArg _ (recalRow_idle hl ?_)), fun hl hen hdue => ?_⟩
    · rw [recalCause_eq hl, if_pos hen]
    · rw [recalCause_eq hl, if_neg (Nat.not_le.2 ht), if_neg (Nat.not_le.2 hi), ite_self]
    · have hcause : s.recalCause tj.toInt = if 40 ≤ (tj.toInt - signed (s.rget F.HL_TEMP_TCAL) 16).natAbs then 1 else 2 := by
        rw [recalCause_eq hl, if_neg (by rw [hen]; decide)]
        split
        · rfl
        case isFalse h => exact if_pos (hdue.resolve_left h)
      have hlt : ∀ p : Prop, [Decidable p] → (if p then 1 else 2) ≠ 0 ∧ (if p then 1 else 2) < 3 := fun p _ => by split <;> decide
      have hrun := recalibrate_runs ms gs tj hcause (hlt _).1 (hlt _).2
      exact ⟨_, hx.trans (congrArg _ (recalRow_recalibrate hl ms gs tj)), hrun⟩
  · obtain ⟨w, hw⟩ := pllTick_moves he hc
    refine ⟨_, (idleStepIsATick s hq).trans (congrArg _ hw), ?_⟩
    exact plainTick_bank (s := { s with pw := w }) ⟨hp.1, hp.2.1, hp.2.2⟩ b

end Sys2Proof
end

section
/-!
SUPPORT. Freeze and thaw (R376 to R381): the requests, the freeze tick and the thaw tick.
-/
set_option Elab.async false
namespace Sys2Proof.Machine
open Sys2Proof

/-! ### The ball and the requests -/

/-- The FREEZE ball at a level. -/
def State.ballAt (s : State) (b : Bool) : State := { s with frz := { s.frz with ball := b } }

/-- The registers of a freeze. -/
def frzRegs : List Nat := [R.FRZ_T_LO, R.FRZ_T_HI, R.FRZ_T_SUB, R.FRZ_STAT, R.FRZ_CNT, R.FRZ_EVT]

theorem frzBallTo_active (s : State) : s.frzBallTo true =
    if s.ron F.FRZ_CTRL_BALL_EN = true ∧ s.ron F.FRZ_STAT_REQ_BALL = false then (s.ballAt (!s.ron F.FRZ_CTRL_POL)).frzRequest F.FRZ_STAT_REQ_BALL 0
    else s.ballAt (!s.ron F.FRZ_CTRL_POL) := by
  have hb : (true != s.ron F.FRZ_CTRL_POL) = !s.ron F.FRZ_CTRL_POL := by cases s.ron F.FRZ_CTRL_POL <;> rfl
  have ha : (s.ballAt (!s.ron F.FRZ_CTRL_POL)).frzActive = true := by
    show ((!s.ron F.FRZ_CTRL_POL) != s.ron F.FRZ_CTRL_POL) = true
    cases s.ron F.FRZ_CTRL_POL <;> rfl
  unfold State.frzBallTo
  rw [hb]
  show (s.ballAt (!s.ron F.FRZ_CTRL_POL)).frzBall = _
  unfold State.frzBall
  rw [if_pos ha]
  exact if_congr (and_congr_right (fun _ => by rw [Bool.not_eq_true]; rfl)) rfl rfl

theorem frzBallTo_released (s : State) : s.frzBallTo false =
    if s.ron F.FRZ_STAT_REQ_BALL = true then (s.ballAt (s.ron F.FRZ_CTRL_POL)).frzEnd F.FRZ_STAT_REQ_BALL else s.ballAt (s.ron F.FRZ_CTRL_POL) := by
  have hb : (false != s.ron F.FRZ_CTRL_POL) = s.ron F.FRZ_CTRL_POL := by cases s.ron F.FRZ_CTRL_POL <;> rfl
  have ha : (s.ballAt (s.ron F.FRZ_CTRL_POL)).frzActive = false := by
    show (s.ron F.FRZ_CTRL_POL != s.ron F.FRZ_CTRL_POL) = false
    cases s.ron F.FRZ_CTRL_POL <;> rfl
  unfold State.frzBallTo
  rw [hb]
  show (s.ballAt (s.ron F.FRZ_CTRL_POL)).frzBall = _
  unfold State.frzBall
  rw [if_neg (by rw [ha]; decide)]
  rfl

/-- A request of a device that is powered down or loads is refused. -/
theorem frzRequest_refused {s : State} (h : s.powered = false ∨ s.loading = true) (f : Fld) (cause : Nat) : s.frzRequest f cause = s.frzRefuse :=
  if_pos (h.imp (fun h => by rw [h]; decide) id)

theorem frzRequest_joins {s : State} (hp : s.powered = true) (hl : s.loading = false) (hf : s.frozen = true) (f : Fld) (cause : Nat) :
    s.frzRequest f cause = s.rput f 1 := by
  unfold State.frzRequest
  rw [if_neg (by rw [hp, hl]; decide), if_pos hf]

theorem frzRequest_begins {s : State} (hw : s.takesWrites = true) (f : Fld) (cause : Nat) : s.frzRequest f cause = (s.rput f 1).frzBegin cause := by
  obtain ⟨hp, hf, hl⟩ := (takesWrites_iff s).1 hw
  unfold State.frzRequest
  rw [if_neg (by rw [hp, hl]; decide), if_neg (by rw [hf]; decide)]

theorem frzRefuse_shows (s : State) : s.frzRefuse.ron F.FRZ_EVT_REF_S = true ∧ Frame [R.FRZ_EVT] s s.frzRefuse :=
  ⟨ron_evt s _ rfl (by decide) (by decide), (Frame.refl _ s).evt (by decide)⟩

/-! ### The freeze tick -/

theorem holdMoved_held {s old : State} {c : Fin 96} (h : s.held c = true) : ∃ x, s.holdMoved old c = { s with ch := x } := by
  have hecho : ∀ (a : State) (t : Int), (∃ x, a = { s with ch := x }) → ∃ x, a.pinEcho old c t = { s with ch := x } := fun a t ⟨x, hx⟩ => by
    rw [pinEcho_eq, hx]
    exact ⟨_, rfl⟩
  cases ho : old.held c with
  | true => rw [holdMoved_stays (h.trans ho.symm)]; exact hecho s _ ⟨s.ch, rfl⟩
  | false => rw [holdMoved_begins h ho]; exact hecho _ _ ⟨_, rfl⟩

theorem foldl_holdFrz (s : State) (on : Bool) (l : List (Fin 96)) (c : Fin 96) :
    (l.foldl (fun (a : State) (c : Fin 96) => a.modCh c (fun x => { x with holdFrz := on })) s).ch[c].holdFrz =
      if c ∈ l then on else s.ch[c].holdFrz := by
  induction l generalizing s with
  | nil => rfl
  | cons d l ih =>
    rw [List.foldl_cons, ih]
    by_cases hd : c = d
    · subst hd
      rw [if_pos List.mem_cons_self, ch_modCh_same]
      split <;> rfl
    · rw [ch_modCh_ne _ _ hd]
      simp only [List.mem_cons, hd, false_or]

theorem holdFrzAll_holds (s : State) (on : Bool) (c : Fin 96) : (s.holdFrzAll on).ch[c].holdFrz = on := by
  refine ((holdsChange_ticked s _ _).holds c).1.trans ?_
  rw [foldl_holdFrz, if_pos (List.mem_finRange c)]

theorem foldl_holdFrz_shape (s : State) (on : Bool) (l : List (Fin 96)) :
    ∃ x, l.foldl (fun (a : State) (c : Fin 96) => a.modCh c (fun x => { x with holdFrz := on })) s = { s with ch := x } :=
  pin_foldl (P := fun t : State => ∃ x : Vector Channel 96, t = { s with ch := x }) _ _ (fun t c ht => by
    obtain ⟨x, rfl⟩ := ht
    exact ⟨_, rfl⟩) ⟨s.ch, rfl⟩

/-- The freeze tick changes the channels, and nothing else. -/
theorem holdFrzAll_shape (s : State) : ∃ x, s.holdFrzAll true = { s with ch := x } := by
  have hall : ∀ (l : List (Fin 96)) (a : State), (∃ x, a = { s with ch := x }) → (∀ c : Fin 96, a.ch[c].holdFrz = true) →
      ∃ x, l.foldl (fun (a : State) (c : Fin 96) => a.holdMoved s c) a = { s with ch := x } := fun l => by
    induction l with
    | nil => exact fun a h _ => h
    | cons d l ih =>
      intro a ⟨x, hx⟩ hh
      have hd : a.held d = true := by unfold State.held; rw [hh d]; simp
      obtain ⟨y, hy⟩ := holdMoved_held (old := s) hd
      exact ih _ ⟨y, hy.trans (by rw [hx])⟩ (fun c => ((holdMoved_pin ticked_closed.toPinClosed a s d trivial trivial trivial (.refl a)).holds c).1.trans (hh c))
  obtain ⟨x, hx⟩ := foldl_holdFrz_shape s true (List.finRange 96)
  exact hall _ _ ⟨x, hx⟩ (fun c => by rw [foldl_holdFrz, if_pos (List.mem_finRange c)])

theorem Far.frz {s t : State} (h : Far s t) : t.frz = s.frz := by
  obtain ⟨-, -, -, -, -, -, -, -, -, -, -, -, -, -, -, -, -, -, -, h, -⟩ := h
  exact h

theorem Far.owed {s t : State} (h : Far s t) : t.ec.owed = s.ec.owed := by
  obtain ⟨-, -, -, -, -, -, -, -, -, -, -, -, -, -, -, h, -⟩ := h
  exact h

/-! ### What the blocks do at a tick's start leaves the apply block's registers -/

theorem lhLateCheck_frame (s : State) : ∃ l, Frame [R.LH_PFCNT, R.LH_EVT] { s with lehr := l } s.lhLateCheck := by
  unfold State.lhLateCheck
  dsimp only
  split
  · refine ⟨{ s.lehr with lateFrom := max s.lehr.lateFrom (s.lehr.pb / 4096) + (s.lhNow / 4096 + 1 - max s.lehr.lateFrom (s.lehr.pb / 4096)) }, ?_⟩
    refine List.foldlRecOn (motive := fun t => Frame [R.LH_PFCNT, R.LH_EVT] ({ s with lehr := { s.lehr with lateFrom := max s.lehr.lateFrom (s.lehr.pb / 4096) +
      (s.lhNow / 4096 + 1 - max s.lehr.lateFrom (s.lehr.pb / 4096)) } } : State) t) _ _ ?_ (fun t ht _ _ => ht.emit _ _ _ _ _ _ _ _)
    exact ((Frame.refl _ _).rsat _ (by decide)).evt (by decide)
  · exact ⟨s.lehr, .refl _ _⟩

theorem lhLateCheck_reg (s : State) {o : Nat} (ho : o ∉ [R.LH_PFCNT, R.LH_EVT]) (hr : reportReg o = false) : s.lhLateCheck.reg o = s.reg o := by
  obtain ⟨l, hl⟩ := lhLateCheck_frame s
  exact hl.regs o hr ho

theorem chTick_within (s : State) (c : Fin 96) : Within .all s (s.chTick c) := by
  have hP := within_closed .all
  exact capPump_pin hP _ _ trivial (stagePump_pin hP _ _ trivial
    (ownStep_pin hP _ _ _ trivial trivial (fun _ => trivial) (pin_ite (count_pin hP _ _ _ trivial (.refl _ s)) (.refl _ s))))

theorem blocksStart_reg (s : State) {o : Nat} (ho : 0x3000 ≤ o ∧ o < 0x4000) : s.blocksStart.reg o = s.reg o := by
  have hP := within_closed .all
  have hpin : ¬ PinReg .all o := fun hx => by
    have := hx.lies
    simp only [R.SPN_EVT, R.CFG_EVT] at this
    omega
  obtain ⟨a, ha⟩ : ∃ a, a = (List.finRange 2).foldl (fun (s : State) (k : Fin 2) => s.convTick k)
    ((List.finRange 4).foldl (fun (s : State) (n : Fin 4) => s.oTickStart n) s) := ⟨_, rfl⟩
  have hw : Within .all s a := ha ▸ pin_foldl _ _ (fun a k ha => convTick_pin hP _ _ ha) (pin_foldl _ _ (fun a n ha => oTickStart_pin hP _ _ trivial ha) (.refl _ s))
  have h1 : a.lhLateCheck.rseqStep.reg o = s.reg o := by
    have h2 : a.lhLateCheck.rseqStep.reg o = a.lhLateCheck.reg o := by unfold State.rseqStep; split <;> rfl
    rw [h2, lhLateCheck_reg a (by simp only [R.LH_PFCNT, R.LH_EVT, List.mem_cons, List.not_mem_nil, or_false]; omega) (reportReg_of_page (.inr ho.1)), hw.regs o hpin]
  refine Eq.trans ?_ h1
  unfold State.blocksStart
  dsimp only
  rw [← ha]
  exact (pin_foldl (P := Within .all a.lhLateCheck.rseqStep) _ _ (fun b c hb => hb.trans (chTick_within b c)) (.refl _ _)).regs o hpin

/-! ### What the thaw sends -/

section
variable {Q : State → State → Prop} (hT : TickClosed Q) {s₀ : State} (s : State) (hk : Q s₀ s)
include hT hk

theorem ecLevel_tick (n : Nat) : Q s₀ (s.ecLevel n) := by
  have hset : ∀ k x, Q s₀ (s.setEcSrc k x) := fun k x => hT.ec _ _ hk
  unfold State.ecLevel
  dsimp only
  exact pin_ite hk (pin_ite (pin_ite hk (ecAssign_pin hT.toPinClosed _ _ (hset _ _))) (hset _ _))

theorem ecUnlatch_tick : Q s₀ s.ecUnlatch :=
  pin_foldl _ _ (fun _ _ ha => ecAssign_pin hT.toPinClosed _ _ ha) (pin_foldl _ _ (fun a n ha => ecLevel_tick hT a ha n)
    (pin_foldl _ _ (fun a n ha => ecEdge_pin hT.toPinClosed a n ha) (hT.ec _ _ hk)))

theorem msixFlush_tick : Q s₀ s.msixFlush :=
  pin_ite hk (pin_foldl _ _ (fun _ _ ha => pin_ite (msixSend_pin hT.toPinClosed _ _ (hT.ec _ _ ha)) ha) hk)

theorem ecRedeliver_tick : Q s₀ s.ecRedeliver := pin_foldl _ _ (fun _ _ ha => pin_ite (msixSend_pin hT.toPinClosed _ _ ha) ha) hk

theorem frzMsix_tick : Q s₀ s.frzMsix := by
  have h := msixFlush_tick hT s hk
  exact pin_ite (ecRedeliver_tick hT _ (hT.ec _ _ h)) h

theorem unlatched_tick : Q s₀ (if s.ecLatched then s else s.ecUnlatch) := pin_ite hk (ecUnlatch_tick hT s hk)

end

theorem frzMsix_owed (s : State) : s.frzMsix.ec.owed = false := by
  have hre : ∀ a : State, a.ec.owed = false → a.ecRedeliver.ec.owed = false := fun a ha =>
    pin_foldl (P := fun t : State => t.ec.owed = false) _ _ (fun b t hb => by
      split
      · exact ((msixSend_far b t (far_refl b)).owed).trans hb
      · exact hb) ha
  unfold State.frzMsix
  dsimp only
  split
  · exact hre _ rfl
  case isFalse h => exact Bool.not_eq_true _ ▸ h

theorem ecUnlatch_far {s₀ : State} (s : State) (hk : Far s₀ s) : Far s₀ s.ecUnlatch :=
  far_foldl _ _ (fun _ _ ha => ecAssign_far _ _ ha) (far_foldl _ _ (fun _ _ ha => ecLevel_far _ _ ha) (far_foldl _ _ (fun _ _ ha => ecEdge_far _ _ ha) hk))

/-- A freeze with its registers, before the pins are held. -/
def State.frzNoted (s : State) (cause : Nat) : State :=
  let s1 := ((s.setReg R.FRZ_T_LO (word (tNs s.now))).setReg R.FRZ_T_HI (word (tNs s.now / 2 ^ 32))).setReg R.FRZ_T_SUB (word (tSub s.now))
  ((({ s1 with frz := ⟨0, cause, s.frz.ball⟩ }).rwrap F.FRZ_CNT_FREEZES 1).rput F.FRZ_STAT_STOPPING 1).evt F.FRZ_EVT_FREEZE_S

theorem frzBegin_eq (s : State) (cause : Nat) : s.frzBegin cause =
    if (s.frzNoted cause).ron F.FRZ_CTRL_PINS then (s.frzNoted cause).holdFrzAll true else s.frzNoted cause := rfl

theorem frzNoted_frame (s : State) (cause : Nat) : Frame frzRegs { s with frz := ⟨0, cause, s.frz.ball⟩ } (s.frzNoted cause) :=
  (((((((Frame.refl frzRegs ({ s with frz := ⟨0, cause, s.frz.ball⟩ } : State)).setReg _ (by decide)).setReg _ (by decide)).setReg _ (by decide)).rwrap _ (by decide)).rput _
    (by decide)).evt (by decide))

/-- The registers show the gap, and that no freeze stands. -/
def State.frzShown (s : State) : State := ((s.rput F.FRZ_STAT_STOPPING 0).rput F.FRZ_STAT_FROZEN 0).gapRegs s.frzGap

/-- The machine at the thaw, behind its tick and before its records. -/
def State.frzResumed (s : State) : State :=
  let s2 := (s.frzShown.frzMarks.tickMove 0).holdFrzAll false
  if s2.ron F.FRZ_CTRL_ADDGAP then s2.gapStep s.frzGap else s2

theorem frzThaw_eq (s : State) : s.frzThaw =
    let s4 := ((s.frzResumed.frzRecords s.frzGap s.ch[0].holdFrz).evt F.FRZ_EVT_THAW_S).frzMsix
    if s4.ecLatched then s4 else s4.ecUnlatch := rfl

end Sys2Proof.Machine
end

section
set_option Elab.async false
namespace Sys2Proof
open Sys2Proof.Machine

/-! ### What a freeze shows -/

theorem tNs_now (s : State) : tNs s.now = s.nowNs := Nat.div_div_eq_div_mul _ _ _

/-- What the registers of a freeze show. -/
theorem frzNoted_shows (s : State) (cause : Nat) :
    let t := s.frzNoted cause
    t.reg R.FRZ_T_LO = word s.nowNs ∧ t.reg R.FRZ_T_HI = word (s.nowNs / 2 ^ 32) ∧ t.rget F.FRZ_T_SUB_SUB = tSub s.now ∧
    t.rget F.FRZ_CNT_FREEZES = (s.rget F.FRZ_CNT_FREEZES + 1) % 2 ^ 16 ∧ t.ron F.FRZ_STAT_STOPPING = true ∧
    t.ron F.FRZ_STAT_REQ_BALL = s.ron F.FRZ_STAT_REQ_BALL ∧ t.ron F.FRZ_STAT_REQ_CMD = s.ron F.FRZ_STAT_REQ_CMD := by
  intro t
  obtain ⟨n, hn⟩ : ∃ n, n = s.nowNs := ⟨_, rfl⟩
  obtain ⟨k, hk⟩ : ∃ k, k = tSub s.now := ⟨_, rfl⟩
  have hk6 : k % 2 ^ 6 = k := by rw [hk]; exact Nat.mod_mod _ _
  obtain ⟨a, ha⟩ : ∃ a : State, a = { ((s.setReg R.FRZ_T_LO (word n)).setReg R.FRZ_T_HI (word (n / 2 ^ 32))).setReg R.FRZ_T_SUB (word k) with frz := ⟨0, cause, s.frz.ball⟩ } := ⟨_, rfl⟩
  have hreg : ∀ o, a.reg o = if o = R.FRZ_T_SUB then word k else if o = R.FRZ_T_HI then word (n / 2 ^ 32) else if o = R.FRZ_T_LO then word n else s.reg o := fun o => by
    rw [ha]
    show (((s.setReg R.FRZ_T_LO (word n)).setReg R.FRZ_T_HI (word (n / 2 ^ 32))).setReg R.FRZ_T_SUB (word k)).reg o = _
    by_cases h1 : o = R.FRZ_T_SUB
    · rw [if_pos h1, h1, reg_setReg_same]
    · rw [if_neg h1, reg_setReg_ne _ _ h1]
      by_cases h2 : o = R.FRZ_T_HI
      · rw [if_pos h2, h2, reg_setReg_same]
      · rw [if_neg h2, reg_setReg_ne _ _ h2]
        by_cases h3 : o = R.FRZ_T_LO
        · rw [if_pos h3, h3, reg_setReg_same]
        · rw [if_neg h3, reg_setReg_ne _ _ h3]
  have ht : t = ((a.rwrap F.FRZ_CNT_FREEZES 1).rput F.FRZ_STAT_STOPPING 1).evt F.FRZ_EVT_FREEZE_S := by
    rw [ha, hk, hn, ← tNs_now]
    rfl
  have hplain : ∀ o, o ≠ R.FRZ_CNT → o ≠ R.FRZ_STAT → o ≠ R.FRZ_EVT → reportReg o = false → t.reg o = a.reg o := fun o h1 h2 h3 hr => by
    rw [ht, reg_evt _ _ hr h3, reg_rput_ne _ _ h2, reg_rwrap_ne _ _ h1]
  have hstat : ∀ f : Fld, f.reg = R.FRZ_STAT → f.lo + f.width ≤ 3 → t.rget f = s.rget f := fun f hf hlt => by
    rw [ht, rget_evt_ne _ (by rw [hf]; decide) (by rw [hf]; decide), rget_rput_apart (f := F.FRZ_STAT_STOPPING) _ _ (by decide) hf (.inl hlt), rget_rwrap_ne _ _ (by rw [hf]; decide)]
    refine rget_of_reg ?_
    rw [hreg, hf]
    rfl
  refine ⟨?_, ?_, ?_, ?_, ?_, ron_of_rget_eq (hstat _ rfl (by decide)), ron_of_rget_eq (hstat _ rfl (by decide))⟩
  · rw [hplain _ (by decide) (by decide) (by decide) (by decide), hreg, ← hn]
    rfl
  · rw [hplain _ (by decide) (by decide) (by decide) (by decide), hreg, ← hn]
    rfl
  · have h1 : t.reg R.FRZ_T_SUB = word k := by
      rw [hplain _ (by decide) (by decide) (by decide) (by decide), hreg]
      rfl
    have h2 : t.rget F.FRZ_T_SUB_SUB = k % 2 ^ 6 := by
      show wfld (t.reg R.FRZ_T_SUB) 0 6 = _
      rw [h1]
      simp [wfld, word, BitVec.toNat_ofNat]
    rw [h2, hk6, hk]
  · rw [ht, rget_evt_ne _ (by decide) (by decide), rget_of_reg (reg_rput_ne _ _ (by decide)), rget_rwrap_same _ _ _ (by decide)]
    refine congrArg (fun m => (m + 1) % 2 ^ 16) (rget_of_reg ?_)
    rw [hreg]
    rfl
  · rw [ht, ron_of_reg (reg_evt _ _ (by decide) (by decide))]
    exact congrArg (· != 0) (rget_rput_same _ _ _ (by decide))

/-- A freeze from a state in which the request stands. -/
theorem frzBegin_shows (s : State) (f : Fld) (hf : f = F.FRZ_STAT_REQ_BALL ∨ f = F.FRZ_STAT_REQ_CMD) (cause : Nat) :
    frozeAt s ((s.rput f 1).frzBegin cause) cause s.frz.ball ∧ ((s.rput f 1).frzBegin cause).ron f = true := by
  have hset : (s.rput f 1).ron f = true := by
    rcases hf with rfl | rfl
    · exact congrArg (· != 0) (rget_rput_same s F.FRZ_STAT_REQ_BALL 1 (by decide))
    · exact congrArg (· != 0) (rget_rput_same s F.FRZ_STAT_REQ_CMD 1 (by decide))
  have hfr : f.reg = R.FRZ_STAT := by rcases hf with rfl | rfl <;> rfl
  obtain ⟨h1, h2, h3, h4, h5, h6, h7⟩ := frzNoted_shows (s.rput f 1) cause
  have hfrm := frzNoted_frame (s.rput f 1) cause
  rw [frzBegin_eq]
  obtain ⟨t, ht⟩ : ∃ t, t = (s.rput f 1).frzNoted cause := ⟨_, rfl⟩
  rw [← ht] at h1 h2 h3 h4 h5 h6 h7 hfrm ⊢
  have hfin : ∀ u : State, (∃ x, u = { t with ch := x }) → (s.ron F.FRZ_CTRL_PINS = true → ∀ c : Fin 96, u.ch[c].holdFrz = true) →
      (s.ron F.FRZ_CTRL_PINS = false → u.ch = s.ch) → frozeAt s u cause s.frz.ball ∧ u.ron f = true := fun u ⟨x, hx⟩ ha hb => by
    have hreg : ∀ o, u.reg o = t.reg o := fun o => by rw [hx]; rfl
    have hron : ∀ g, u.ron g = t.ron g := fun g => ron_of_reg (hreg _)
    have hf1 : t.ron f = true := by
      rcases hf with rfl | rfl
      · exact h6.trans hset
      · exact h7.trans hset
    have hfar : Far { s with frz := ⟨0, cause, s.frz.ball⟩ } t := hfrm.far
    have hfrz : t.frz = ⟨0, cause, s.frz.ball⟩ := hfar.frz
    refine ⟨⟨?_, (hreg _).trans h1, (hreg _).trans h2, (rget_of_reg (hreg _)).trans h3, ?_, ?_, (hron _).trans h5, ha, hb, fun o hr ho => ?_, ?_⟩, (hron f).trans hf1⟩
    · show (u.ron F.FRZ_STAT_REQ_CMD || u.ron F.FRZ_STAT_REQ_BALL) = true
      rw [hron, hron]
      rcases hf with rfl | rfl
      · rw [hf1, Bool.or_true]
      · rw [hf1, Bool.true_or]
    · rw [hx]
      exact hfrz
    · rw [rget_of_reg (hreg _), h4, rget_of_reg (reg_rput_ne _ _ (by rw [hfr]; decide))]
    · rw [hreg, hfrm.regs o hr ho]
      exact reg_rput_ne _ _ (fun e => ho (by rw [e, hfr]; decide))
    · have hu : u.frz = ⟨0, cause, s.frz.ball⟩ := by rw [hx]; exact hfrz
      obtain ⟨-, c2, c3, c4, c5, c6, c7⟩ := hfrm.core
      rw [hu, hx]
      exact ⟨hfar, rfl, c2, c3, c4, c5, c6, c7⟩
  have hpins : t.ron F.FRZ_CTRL_PINS = s.ron F.FRZ_CTRL_PINS :=
    ron_of_reg ((hfrm.regs _ (by decide) (by decide)).trans (reg_rput_ne s _ (by rw [hfr]; decide)))
  rw [hpins]
  split
  case isTrue hp =>
    refine hfin _ (holdFrzAll_shape t) (fun _ c => holdFrzAll_holds t true c) (fun h => absurd (hp.symm.trans h) (by decide))
  case isFalse hp =>
    exact hfin t ⟨t.ch, rfl⟩ (fun h => absurd h hp) (fun _ => Core.ch hfrm.core)

/-! ### The thaw tick -/

theorem spineMove_frz (s : State) : s.spineMove.frz = s.frz := (Far.frz (spineMove_frame s).blocks.1 :)

theorem spineMove_reg (s : State) {o : Nat} (ho : StillReg o) : s.spineMove.reg o = s.reg o := by
  refine (spineMove_frame s).regs o ?_ (fun h => ho.1 ?_)
  · cases hr : reportReg o with
    | false => rfl
    | true => exact absurd (.ec hr) ho.1
  · rw [List.mem_singleton.1 h]
    exact .spnEvt (fun _ => trivial)

theorem spineMove_tick (s : State) : s.spineMove.spine.tick = s.spine.tick := by
  unfold State.spineMove
  split
  · split
    · rw [State.modSpine_spine, spineAdvance_spine]
    · rfl
  · rw [spineAdvance_spine]

/-- The start of a tick with nothing due leaves the freeze, the registers that no strobe, step or tick writes, and what is due. -/
theorem plainStart_calm {e : State} (h : plainTick e) :
    let t := e.tickBegun.banksSwap.blocksStart
    (∀ o, StillReg o → t.reg o = e.reg o) ∧ t.frz = e.frz ∧ t.spine.tick = e.spine.tick + 1 ∧ ∀ i < 8, t.apValid i = false := by
  intro t
  obtain ⟨o, ho⟩ := tickBegun_plain h
  obtain ⟨x, hx⟩ := banksSwap_shape e.tickBegun
  have hb : Ticked e.tickBegun.banksSwap t := blocksStart_tick ticked_closed _ (.refl _)
  have hreg : ∀ r, e.tickBegun.banksSwap.reg r = e.reg r := fun r => by
    rw [hx, ho]
    rfl
  have hap : ∀ i < 8, t.reg (R.AP_PENDi_INFO i) = e.reg (R.AP_PENDi_INFO i) := fun i hi => (blocksStart_reg _ (apEntry_page hi)).trans (hreg _)
  refine ⟨fun r hr => (hb.regs r hr).trans (hreg r), hb.frz.trans ?_, hb.tick.trans ?_, fun i hi => (ron_of_reg (f := F.AP_PENDi_INFO_VALID i) (hap i hi)).trans (h.2.2 i hi)⟩
  · rw [hx, ho]
    rfl
  · rw [hx, ho]
    rfl

/-- A tick with nothing due leaves the freeze, the registers that no strobe, step or tick writes, and what is due. -/
theorem plainTick_calm {s : State} (h : plainTick s) :
    (∀ o, StillReg o → (s.tickMove 0).reg o = s.reg o) ∧ (s.tickMove 0).frz = s.frz ∧ (s.tickMove 0).spine.tick = s.spine.tick + 1 ∧
    ∀ i < 8, (s.tickMove 0).apValid i = false := by
  have he := tickEnd_ticked s
  obtain ⟨h1, h2, h3, h4⟩ := plainStart_calm (plainTick_spineMove (plainTick_tickEnd h))
  rw [tickMove_plain h]
  exact ⟨fun r hr => (h1 r hr).trans ((spineMove_reg _ hr).trans (he.regs r hr)), h2.trans ((spineMove_frz _).trans he.frz),
    h3.trans (congrArg (· + 1) ((spineMove_tick _).trans he.tick)), h4⟩

/-! ### The thaw -/

theorem frz_still {o : Nat} (h : 0x8000 ≤ o ∧ o < 0x9000) (hs : stBits o = 0) : StillReg o := by
  refine ⟨fun hx => ?_, fun hx => ?_, hs⟩
  · have := hx.lies
    simp only [R.SPN_EVT, R.CFG_EVT] at this
    omega
  · cases hx with
    | apply h1 h2 => omega
    | gen => exact absurd h.1 (by decide)
    | spnStat => exact absurd h.1 (by decide)
    | lehr h1 h2 => omega

theorem frzShown_frame (s : State) : Frame [R.FRZ_STAT, R.FRZ_GAP_LO, R.FRZ_GAP_HI, R.FRZ_GAP_SUB] s s.frzShown :=
  (((((Frame.refl _ s).rput _ (by decide)).rput _ (by decide)).setReg _ (by decide)).setReg _ (by decide)).setReg _ (by decide)

theorem frzShown_shows (s : State) : s.frzShown.reg R.FRZ_GAP_LO = word (s.frzGap / 2 ^ 40) ∧ s.frzShown.reg R.FRZ_GAP_HI = word (s.frzGap / 2 ^ 72) ∧
    s.frzShown.ron F.FRZ_STAT_FROZEN = false ∧ s.frzShown.ron F.FRZ_STAT_STOPPING = false ∧ s.frzShown.frozen = s.frozen := by
  obtain ⟨g, hg⟩ : ∃ g, g = s.frzGap := ⟨_, rfl⟩
  obtain ⟨a, ha⟩ : ∃ a, a = (s.rput F.FRZ_STAT_STOPPING 0).rput F.FRZ_STAT_FROZEN 0 := ⟨_, rfl⟩
  have he : s.frzShown = ((a.setReg R.FRZ_GAP_LO (word (g / 2 ^ 40))).setReg R.FRZ_GAP_HI (word (g / 2 ^ 72))).setReg R.FRZ_GAP_SUB
      (word (g / 2 ^ 34 % 64 + 256 * a.rget F.FRZ_CTRL_ADDGAP)) := by rw [hg, ha]; rfl
  have hstat : s.frzShown.reg R.FRZ_STAT = a.reg R.FRZ_STAT := by
    rw [he, reg_setReg_ne _ _ (by decide), reg_setReg_ne _ _ (by decide), reg_setReg_ne _ _ (by decide)]
  have hreq : ∀ f : Fld, f.reg = R.FRZ_STAT → 1 ≤ f.lo → f.lo + f.width ≤ 3 → s.frzShown.ron f = s.ron f := fun f hf h1 h3 => by
    rw [ron_of_reg (f := f) (t := s.frzShown) (s := a) (by rw [hf]; exact hstat), ha]
    refine ron_of_rget_eq ?_
    rw [rget_rput_apart (f := F.FRZ_STAT_FROZEN) _ _ (by decide) hf (.inr h1), rget_rput_apart (f := F.FRZ_STAT_STOPPING) _ _ (by decide) hf (.inl h3)]
  refine ⟨?_, ?_, ?_, ?_, ?_⟩
  · rw [he, reg_setReg_ne _ _ (by decide), reg_setReg_ne _ _ (by decide), reg_setReg_same, ← hg]
  · rw [he, reg_setReg_ne _ _ (by decide), reg_setReg_same, ← hg]
  · rw [ron_of_reg (f := F.FRZ_STAT_FROZEN) hstat, ha]
    exact congrArg (· != 0) (rget_rput_same _ _ _ (by decide))
  · rw [ron_of_reg (f := F.FRZ_STAT_STOPPING) hstat, ha]
    refine (ron_of_rget_eq (rget_rput_apart (f := F.FRZ_STAT_FROZEN) _ _ (by decide) (by decide) (.inr (by decide)))).trans ?_
    exact congrArg (· != 0) (rget_rput_same _ _ _ (by decide))
  · show (s.frzShown.ron F.FRZ_STAT_REQ_CMD || s.frzShown.ron F.FRZ_STAT_REQ_BALL) = _
    rw [hreq _ rfl (by decide) (by decide), hreq _ rfl (by decide) (by decide)]
    rfl

theorem lhPass_keeps (s : State) : s.lhPass.ap = s.ap ∧ s.lhPass.spine = s.spine := by
  obtain ⟨l, hl⟩ := lhPass_frame s
  exact ⟨hl.far.ap, hl.spine⟩

/-- The gap is added, where that is asked for; the step changes nothing else of the spine. -/
theorem gapStep_shows {s : State} (hv : ∀ i < 8, s.apValid i = false) (g : Nat) :
    (s.gapStep g).spine = { s.spine with acc := s.spine.acc + BitVec.ofNat 104 g, stepTick := some s.spine.tick } ∧ Ticked s (s.gapStep g) := by
  obtain ⟨a, ha⟩ : ∃ a, a = s.modSpine (fun x => { x with acc := x.acc + BitVec.ofNat 104 g, stepTick := some x.tick }) := ⟨_, rfl⟩
  have hav : ∀ i < 8, a.stepRejudge.apValid i = false := fun i hi => by
    have h1 : a.stepRejudge.reg (R.AP_PENDi_INFO i) = a.reg (R.AP_PENDi_INFO i) :=
      (stepRejudge_pin (within_closed .all) a trivial (fun _ => trivial) trivial (.refl _ a)).regs _ (apEntry_apart hi)
    rw [State.apValid, ron_of_reg (f := F.AP_PENDi_INFO_VALID i) h1, ha]
    exact hv i hi
  have hfar : Far a a.stepRejudge := stepRejudge_far a (far_refl a)
  obtain ⟨hlap, hlsp⟩ := lhPass_keeps a.stepRejudge
  have he : s.gapStep g = a.stepRejudge.lhPass := by
    unfold State.gapStep
    dsimp only
    rw [← ha, apPass_none hav]
    refine apFollow_self (hlap.trans (hfar.ap.trans ?_))
    rw [ha]
    rfl
  rw [he]
  have hT : Ticked s a := by
    rw [ha]
    exact ticked_spine _ _ (fun _ => rfl) (.refl s)
  refine ⟨?_, lhPass_tick ticked_closed _ (stepRejudge_tick ticked_closed _ hT)⟩
  refine hlsp.trans (hfar.spine.trans ?_)
  rw [ha]
  rfl

theorem frzMarks_frame (s : State) : s.frzMarks.regs = s.regs ∧ s.frzMarks.frz = s.frz ∧ s.frzMarks.spine = { s.spine with tick := s.spine.tick + s.frz.ticks } ∧
    s.frzMarks.hif = s.hif ∧ s.frzMarks.ap = s.ap := ⟨rfl, rfl, rfl, rfl, rfl⟩

/-- No channel is held for the freeze any more; the spine, the freeze, and what is due stay. -/
theorem holdFrzAll_ends (s : State) : Far s (s.holdFrzAll false) ∧ (∀ o, StillReg o → (s.holdFrzAll false).reg o = s.reg o) ∧
    (∀ i < 8, (s.holdFrzAll false).apValid i = s.apValid i) := by
  obtain ⟨x, hx⟩ := foldl_holdFrz_shape s false (List.finRange 96)
  have hT : Ticked _ (s.holdFrzAll false) := holdsChange_ticked s (List.finRange 96)
    (fun s => (List.finRange 96).foldl (fun (a : State) (c : Fin 96) => a.modCh c (fun x => { x with holdFrz := false })) s)
  have hW : Within .all _ (s.holdFrzAll false) := pin_foldl _ _ (fun a c ha => holdMoved_pin (within_closed .all) a s c trivial trivial trivial ha)
    (.refl .all ((List.finRange 96).foldl (fun (a : State) (c : Fin 96) => a.modCh c (fun x => { x with holdFrz := false })) s))
  have hF : Far ((List.finRange 96).foldl (fun (a : State) (c : Fin 96) => a.modCh c (fun x => { x with holdFrz := false })) s) (s.holdFrzAll false) :=
    far_foldl _ _ (fun a c ha => holdMoved_far a s c ha) (far_refl _)
  rw [hx] at hT hW hF
  exact ⟨hF, hT.regs, fun i hi => ron_of_reg (f := F.AP_PENDi_INFO_VALID i) (hW.regs _ (apEntry_apart hi))⟩

theorem frzRecords_frame (s : State) (g : Nat) (pins : Bool) : Frame [] s (s.frzRecords g pins) := ((Frame.refl _ s).emit _ _ _ _ _ _ _ _).emit _ _ _ _ _ _ _ _

/-- What the thaw's records and messages leave, and that no message is owed. -/
theorem frzTail_shows (s : State) (g : Nat) (pins : Bool) :
    let b := ((s.frzRecords g pins).evt F.FRZ_EVT_THAW_S).frzMsix
    let t := if b.ecLatched then b else b.ecUnlatch
    (∀ o, StillReg o → o ≠ R.FRZ_EVT → t.reg o = s.reg o) ∧ t.ron F.FRZ_EVT_THAW_S = true ∧ t.frz = s.frz ∧ t.spine = s.spine ∧ t.ec.owed = false ∧
    ∀ c : Fin 96, t.ch[c].holdFrz = s.ch[c].holdFrz := by
  intro b t
  have hr := frzRecords_frame s g pins
  obtain ⟨a, ha⟩ : ∃ a, a = (s.frzRecords g pins).evt F.FRZ_EVT_THAW_S := ⟨_, rfl⟩
  have haf : Frame [R.FRZ_EVT] s a := by
    rw [ha]
    exact (hr.mono (by decide)).evt (by decide)
  have hb : b = a.frzMsix := by rw [ha]
  have hkeep : ∀ {Q : State → State → Prop}, TickClosed Q → Q a a → Q a t := @fun Q hT hk => by
    show Q a (if b.ecLatched then b else b.ecUnlatch)
    rw [hb]
    exact unlatched_tick hT _ (frzMsix_tick hT a hk)
  have hT := hkeep ticked_closed (.refl a)
  have hS : t.spine = a.spine := hkeep (spineStays_closed (fun _ => True)) (fun _ => rfl) trivial
  have hlast : reportReg R.FRZ_EVT = false := by decide
  have hstill : ∀ o, StillReg o → reportReg o = false := fun o ho => by
    cases hx : reportReg o with
    | false => rfl
    | true => exact absurd (.ec hx) ho.1
  refine ⟨fun o ho hn => (hT.regs o ho).trans (haf.regs o (hstill o ho) (by simp [hn])), ?_, hT.frz.trans haf.far.frz, hS.trans haf.spine, ?_, fun c => ?_⟩
  · rw [ron_of_reg (f := F.FRZ_EVT_THAW_S) (hT.regs _ (frz_still (by decide) (by decide +kernel))), ha]
    exact ron_evt _ _ rfl (by decide) (by decide)
  · show (if b.ecLatched then b else b.ecUnlatch).ec.owed = false
    have h0 : b.ec.owed = false := hb ▸ frzMsix_owed a
    split
    · exact h0
    · exact (ecUnlatch_far b (far_refl b)).owed.trans h0
  · rw [(hT.holds c).1, haf.core.ch]

/-- The thaw of a device in whose tick nothing else is due. -/
theorem frzThaw_thaws {s : State} (hp : plainTick s) (hf : s.frozen = false) : thawed s s.frzThaw ∧ s.frzThaw.frz.ball = s.frz.ball := by
  obtain ⟨g1, g2, g3, g4, g5⟩ := frzShown_shows s
  have hbf := frzShown_frame s
  obtain ⟨b, hb⟩ : ∃ b, b = s.frzShown := ⟨_, rfl⟩
  obtain ⟨m, hm⟩ : ∃ m, m = s.frzShown.frzMarks := ⟨_, rfl⟩
  obtain ⟨m1, m2, m3, m4, m5⟩ := frzMarks_frame s.frzShown
  rw [← hm, ← hb] at m1 m2 m3 m4 m5
  rw [← hb] at g1 g2 g3 g4 g5 hbf
  have hmreg : ∀ o, m.reg o = b.reg o := fun o => congrArg (fun r => tblGet resetWord r o) m1
  have hbs : b.spine = s.spine := hbf.spine
  have hbz : b.frz = s.frz := hbf.far.frz
  have hother : ∀ o, reportReg o = false → o ∉ [R.FRZ_STAT, R.FRZ_GAP_LO, R.FRZ_GAP_HI, R.FRZ_GAP_SUB] → m.reg o = s.reg o := fun o h1 h2 => (hmreg o).trans (hbf.regs o h1 h2)
  have hpm : plainTick m := by
    obtain ⟨p1, p2, p3⟩ := hp
    refine ⟨?_, ?_, fun i hi => ?_⟩
    · rw [m4]
      exact (congrArg (fun a : HostIf => a.slow) (Far.hif hbf.far) :).trans p1
    · rw [m5, hbf.far.ap]
      exact p2
    · have hpage := apEntry_page hi
      refine (ron_of_reg (f := F.AP_PENDi_INFO_VALID i) (hother _ (reportReg_of_page (.inr hpage.1)) ?_)).trans (p3 i hi)
      show R.AP_PENDi_INFO i ∉ _
      simp only [R.FRZ_STAT, R.FRZ_GAP_LO, R.FRZ_GAP_HI, R.FRZ_GAP_SUB, List.mem_cons, List.not_mem_nil, or_false]
      omega
  have hmove : (∀ l, m.spine.slew = some l → l.doneAt = none) → Advances m (m.tickMove 0) := fun h => tickMove_advances (.inr hpm) h
  obtain ⟨w1, w2, w3, w4⟩ := plainTick_calm hpm
  have hx : s.frzResumed = if ((m.tickMove 0).holdFrzAll false).ron F.FRZ_CTRL_ADDGAP then ((m.tickMove 0).holdFrzAll false).gapStep s.frzGap
      else (m.tickMove 0).holdFrzAll false := by rw [hm]; rfl
  generalize m.tickMove 0 = w at hmove w1 w2 w3 w4 hx
  obtain ⟨u1, u2, u3⟩ := holdFrzAll_ends w
  have u4 := holdFrzAll_holds w false
  generalize w.holdFrzAll false = u at u1 u2 u3 u4 hx
  have hadd : u.ron F.FRZ_CTRL_ADDGAP = s.ron F.FRZ_CTRL_ADDGAP :=
    ron_of_reg ((u2 _ (frz_still (by decide) (by decide +kernel))).trans ((w1 _ (frz_still (by decide) (by decide +kernel))).trans (hother _ (by decide) (by decide))))
  obtain ⟨v1, v2⟩ := gapStep_shows (fun i hi => (u3 i hi).trans (w4 i hi)) s.frzGap
  obtain ⟨x, hxe⟩ : ∃ x, x = s.frzResumed := ⟨_, rfl⟩
  rw [← hxe, hadd] at hx
  have hxT : Ticked u x := by
    rw [hx]
    split
    · exact v2
    · exact .refl u
  have hxacc : x.spine.acc = u.spine.acc + (if s.ron F.FRZ_CTRL_ADDGAP then BitVec.ofNat 104 s.frzGap else 0) := by
    rw [hx]
    split
    · rw [v1]
    · exact (BitVec.add_zero _).symm
  obtain ⟨t1, t2, t3, t4, t5, t6⟩ := frzTail_shows x s.frzGap s.ch[0].holdFrz
  have ht := frzThaw_eq s
  rw [← hxe] at ht
  rw [ht]
  dsimp only
  generalize (if (((x.frzRecords s.frzGap s.ch[0].holdFrz).evt F.FRZ_EVT_THAW_S).frzMsix).ecLatched then (((x.frzRecords s.frzGap s.ch[0].holdFrz).evt F.FRZ_EVT_THAW_S).frzMsix)
    else (((x.frzRecords s.frzGap s.ch[0].holdFrz).evt F.FRZ_EVT_THAW_S).frzMsix).ecUnlatch) = t at t1 t2 t3 t4 t5 t6
  have hstill : ∀ o, 0x8000 ≤ o ∧ o < 0x9000 → stBits o = 0 → o ≠ R.FRZ_EVT → t.reg o = b.reg o := fun o h1 h2 h3 => by
    have hs := frz_still h1 h2
    rw [t1 o hs h3, hxT.regs o hs, u2 o hs, w1 o hs, hmreg]
  have hstat := hstill R.FRZ_STAT (by decide) (by decide +kernel) (by decide)
  have hfrz : t.frz = s.frz := t3.trans (hxT.frz.trans (u1.frz.trans (w2.trans (m2.trans hbz))))
  refine ⟨⟨?_, ?_, ?_, ?_, t2, t5, ?_, ?_, fun c => ?_, fun hh hl => ?_⟩, by rw [hfrz]⟩
  · show (t.ron F.FRZ_STAT_REQ_CMD || t.ron F.FRZ_STAT_REQ_BALL) = false
    rw [ron_of_reg (f := F.FRZ_STAT_REQ_CMD) hstat, ron_of_reg (f := F.FRZ_STAT_REQ_BALL) hstat]
    exact g5.trans hf
  · rw [t4, hxT.tick, u1.spine, w3, m3, hbs, hbz]
  · exact (ron_of_reg (f := F.FRZ_STAT_FROZEN) hstat).trans g3
  · exact (ron_of_reg (f := F.FRZ_STAT_STOPPING) hstat).trans g4
  · exact (hstill _ (by decide) (by decide +kernel) (by decide)).trans g1
  · exact (hstill _ (by decide) (by decide +kernel) (by decide)).trans g2
  · rw [t6, (hxT.holds c).1, u4]
  · have hms : m.spine.slew = none ∧ m.spine.hold = none ∧ m.spine.acc = s.spine.acc := by
      rw [m3, hbs]
      exact ⟨hl, hh, rfl⟩
    have hrate : m.reg R.SPN_RATE = s.reg R.SPN_RATE := hother _ (by decide) (by decide)
    have hinc : m.tickInc = s.tickInc := by
      have h1 : ({ m with spine := s.spine } : State).tickInc = s.tickInc := tickInc_congr rfl hrate
      have h2 : m.tickInc = ({ m with spine := s.spine } : State).tickInc := by
        have hs : m.slewNow = ({ m with spine := s.spine } : State).slewNow := by
          unfold State.slewNow
          rw [hms.1, show ({ m with spine := s.spine } : State).spine.slew = none from hl]
        unfold State.tickInc State.rateEff
        rw [hs]
        rfl
      exact h2.trans h1
    have hadv := (hmove (fun l h => absurd (hms.1.symm.trans h) (by simp))).runs hms.2.1
    rw [t4, hxacc, u1.spine, hadv.1, hms.2.2, hinc]

/-! ### The buffer -/

theorem frzFree_out (free lo n : Nat) (m : Tbl Byte) (base : Nat) {a : Nat} (h : a < base + lo ∨ base + lo + n ≤ a) : memRd (frzFree free lo n m base) a = memRd m a :=
  List.foldlRecOn (motive := fun t : Tbl Byte => memRd t a = memRd m a) _ _ rfl (fun t ht i hi => by
    rw [memRd_wr_ne _ _ (by have := List.mem_range.1 hi; omega), ht])

theorem flatMap_length {α β : Type} (l : List α) (f : α → List β) (k : Nat) (h : ∀ x ∈ l, (f x).length = k) : (l.flatMap f).length = l.length * k := by
  rw [List.length_flatMap, List.map_congr_left h, List.map_const', List.sum_replicate_nat]

theorem frzShared_length (s : State) : s.frzShared.length = 1024 := by
  unfold State.frzShared
  rw [flatMap_length _ _ 128 (fun e _ => by rw [flatMap_length _ _ 2 (fun _ _ => rfl), Vector.length_toList]), List.length_finRange]

theorem frzBuffer_out (s : State) {a : Nat} (h : a < (s.reg R.FRZ_BUF).toNat ∨ (s.reg R.FRZ_BUF).toNat + 0x7000 ≤ a) :
    memRd s.frzBuffer.sram a = memRd s.sram a := by
  show memRd (memWrWs _ _ s.frzShared) a = _
  rw [memRd_wrWs_out _ _ _ (by rw [frzShared_length]; omega), frzFree_out _ _ _ _ _ (by omega), frzFree_out _ _ _ _ _ (by omega)]

theorem frzBuffer_shape (s : State) : ∃ m n, s.frzBuffer = { s with sram := m, free := n } := ⟨_, _, rfl⟩

/-- Every block has stopped: the state shows, and the buffer is written. -/
theorem frzComplete_shows {s : State} (hf : s.frozen = true) (hs : s.ron F.FRZ_STAT_STOPPING = true) :
    s.frzComplete.ron F.FRZ_STAT_STOPPING = false ∧ s.frzComplete.ron F.FRZ_STAT_FROZEN = true ∧ s.sameRegsBut s.frzComplete [R.FRZ_STAT] ∧
    State.sameBlocks { s with sram := s.frzComplete.sram, free := s.frzComplete.free } s.frzComplete ∧
    ∀ a, a < (s.reg R.FRZ_BUF).toNat ∨ (s.reg R.FRZ_BUF).toNat + 0x7000 ≤ a → memRd s.frzComplete.sram a = memRd s.sram a := by
  have he : s.frzComplete = (s.frzBuffer.rput F.FRZ_STAT_STOPPING 0).rput F.FRZ_STAT_FROZEN 1 := if_pos ⟨hf, hs⟩
  have hout := fun a => frzBuffer_out s (a := a)
  obtain ⟨m, n, hb⟩ := frzBuffer_shape s
  rw [he]
  rw [hb] at hout ⊢
  have hfr : Frame [R.FRZ_STAT] { s with sram := m, free := n } ((({ s with sram := m, free := n } : State).rput F.FRZ_STAT_STOPPING 0).rput F.FRZ_STAT_FROZEN 1) :=
    ((Frame.refl _ _).rput _ (by decide)).rput _ (by decide)
  refine ⟨?_, congrArg (· != 0) (rget_rput_same _ _ _ (by decide)), hfr.regs, hfr.blocks, hout⟩
  exact (ron_of_rget_eq (rget_rput_apart (f := F.FRZ_STAT_FROZEN) _ _ (by decide) (by decide) (.inr (by decide)))).trans
    (congrArg (· != 0) (rget_rput_same _ _ _ (by decide)))

/-! ### A write of FRZ_CTRL -/

theorem frzCtrl_site (p : Path) : siteOf p (word R.FRZ_CTRL).toNat = .reg R.FRZ_CTRL := by cases p <;> decide +kernel

theorem exec_frzCtrl {p : Path} {v : Word} {s : State} (hw : s.takesWrites = true) :
    exec (.registerWrite p (word R.FRZ_CTRL) v true) s = .next (s.fieldsWrite p R.FRZ_CTRL v).frzBall :=
  (exec_fullWrite hw (frzCtrl_site p) (by decide) (by decide) (by decide)).trans rfl

/-- The ball as FRZ_CTRL judges it, in a device that neither loads nor is powered down, and that is not frozen. -/
theorem frzBall_judges {s : State} (hw : s.takesWrites = true) : s.frzBall.frozen = (s.frzBall.ron F.FRZ_CTRL_BALL_EN && (s.frz.ball != s.frzBall.ron F.FRZ_CTRL_POL)) ∧
    s.frzBall.frz.ball = s.frz.ball := by
  obtain ⟨hp, hf, hl⟩ := (takesWrites_iff s).1 hw
  obtain ⟨-, hreq⟩ := Bool.or_eq_false_iff.1 hf
  unfold State.frzBall State.frzActive
  cases hact : (s.frz.ball != s.ron F.FRZ_CTRL_POL) with
  | false =>
    rw [if_neg (by decide), if_neg (by rw [hreq]; decide), hact, hf, Bool.and_false]
    exact ⟨rfl, rfl⟩
  | true =>
    rw [if_pos rfl, hreq]
    cases hen : s.ron F.FRZ_CTRL_BALL_EN with
    | false =>
      rw [if_neg (by simp), hen, hf]
      exact ⟨rfl, rfl⟩
    | true =>
      rw [if_pos (by simp), frzRequest_begins hw]
      obtain ⟨⟨h1, -, -, -, h2, -, -, -, -, h3, -⟩, -⟩ := frzBegin_shows s F.FRZ_STAT_REQ_BALL (.inl rfl) 0
      have hctl : ∀ f : Fld, f.reg = R.FRZ_CTRL → ((s.rput F.FRZ_STAT_REQ_BALL 1).frzBegin 0).ron f = s.ron f := fun f hf =>
        ron_of_reg (h3 _ (by rw [hf]; decide) (by rw [hf]; decide))
      rw [h1, h2, hctl _ rfl, hctl _ rfl, hen, hact]
      exact ⟨rfl, rfl⟩

theorem frzCtrl_judges (p : Path) (v : Word) {s : State} (hw : s.takesWrites = true) :
    ∃ t, exec (.registerWrite p (word R.FRZ_CTRL) v true) s = .next t ∧
      t.frozen = (t.ron F.FRZ_CTRL_BALL_EN && (s.frz.ball != t.ron F.FRZ_CTRL_POL)) ∧ t.frz.ball = s.frz.ball := by
  have hlock : s.lockedBits R.FRZ_CTRL = 0 := rfl
  obtain ⟨a, ha⟩ : ∃ a, a = s.fieldsWrite p R.FRZ_CTRL v := ⟨_, rfl⟩
  have hfr := fieldsWrite_frame (os := [R.FRZ_CTRL, R.GL_CFGGEN]) hlock (by decide) (by decide) p v
  rw [← ha] at hfr
  have hfz : a.frz = s.frz := hfr.far.frz
  have hr : ∀ f : Fld, f.reg ≠ R.FRZ_CTRL → f.reg ≠ R.GL_CFGGEN → reportReg f.reg = false → a.rget f = s.rget f := fun f h1 h2 h3 =>
    rget_of_reg (hfr.regs _ h3 (by simp [h1, h2]))
  have haw : a.takesWrites = true := by
    obtain ⟨hp, hf, hl⟩ := (takesWrites_iff s).1 hw
    refine (takesWrites_iff a).2 ⟨?_, ?_, ?_⟩
    · unfold State.powered at hp ⊢
      rw [hr F.PW_STAT_STATE (by decide) (by decide) (by decide)]
      exact hp
    · unfold State.frozen State.ron at hf ⊢
      rw [hr F.FRZ_STAT_REQ_CMD (by decide) (by decide) (by decide), hr F.FRZ_STAT_REQ_BALL (by decide) (by decide) (by decide)]
      exact hf
    · unfold State.loading State.ron at hl ⊢
      rw [hr F.CFG_STAT_LOADING (by decide) (by decide) (by decide)]
      exact hl
  obtain ⟨h1, h2⟩ := frzBall_judges haw
  refine ⟨_, exec_frzCtrl hw, ?_⟩
  rw [← ha, ← hfz]
  exact ⟨h1, h2⟩

/-! ### The end of a request -/

theorem thawed_congr {s' s t : State} (hs : s'.spine = s.spine) (hz : s'.frz.ticks = s.frz.ticks) (hr : s'.reg R.SPN_RATE = s.reg R.SPN_RATE)
    (hc : s'.reg R.FRZ_CTRL = s.reg R.FRZ_CTRL) (h : thawed s' t) : thawed s t := by
  have hg : s'.frzGap = s.frzGap := by
    unfold State.frzGap
    rw [hz, rateWord_congr hr]
  unfold thawed at h ⊢
  rwa [hg, hs, hz, ron_of_reg (f := F.FRZ_CTRL_ADDGAP) hc, tickInc_congr hs hr] at h

/-- Each of the two requests with the other one. -/
def requests (f g : Fld) : Prop := f = F.FRZ_STAT_REQ_CMD ∧ g = F.FRZ_STAT_REQ_BALL ∨ f = F.FRZ_STAT_REQ_BALL ∧ g = F.FRZ_STAT_REQ_CMD

theorem request_ends (s : State) {f g : Fld} (hf : requests f g) : (s.rput f 0).ron f = false ∧ (s.rput f 0).ron g = s.ron g ∧ f.reg = R.FRZ_STAT := by
  rcases hf with ⟨rfl, rfl⟩ | ⟨rfl, rfl⟩
  · exact ⟨congrArg (· != 0) (rget_rput_same s F.FRZ_STAT_REQ_CMD 0 (by decide)),
      ron_of_rget_eq (rget_rput_apart s (f := F.FRZ_STAT_REQ_CMD) (g := F.FRZ_STAT_REQ_BALL) 0 (by decide) (by decide) (.inl (by decide))), rfl⟩
  · exact ⟨congrArg (· != 0) (rget_rput_same s F.FRZ_STAT_REQ_BALL 0 (by decide)),
      ron_of_rget_eq (rget_rput_apart s (f := F.FRZ_STAT_REQ_BALL) (g := F.FRZ_STAT_REQ_CMD) 0 (by decide) (by decide) (.inr (by decide))), rfl⟩

theorem frozen_of_requests (s : State) {f g : Fld} (hf : requests f g) : s.frozen = (s.ron f || s.ron g) := by
  rcases hf with ⟨rfl, rfl⟩ | ⟨rfl, rfl⟩
  · rfl
  · exact Bool.or_comm _ _

/-- The one request ends, and another stands. -/
theorem frzEnd_stays {s : State} {f g : Fld} (hf : requests f g) (hg : s.ron g = true) :
    (s.frzEnd f).ron f = false ∧ (s.frzEnd f).frozen = true ∧ Frame [R.FRZ_STAT] s (s.frzEnd f) := by
  obtain ⟨h1, h2, h3⟩ := request_ends s hf
  have hfro : (s.rput f 0).frozen = true := by rw [frozen_of_requests _ hf, h1, h2, hg]; rfl
  have he : s.frzEnd f = s.rput f 0 := if_pos hfro
  rw [he]
  exact ⟨h1, hfro, (Frame.refl _ s).rput _ (by rw [h3]; decide)⟩

/-- The last request ends, in a tick in which nothing else is due. -/
theorem frzEnd_thaws {s : State} {f g : Fld} (hf : requests f g) (hg : s.ron g = false) (hp : plainTick s) :
    thawed s (s.frzEnd f) ∧ (s.frzEnd f).frz.ball = s.frz.ball := by
  obtain ⟨h1, h2, h3⟩ := request_ends s hf
  have hfro : (s.rput f 0).frozen = false := by rw [frozen_of_requests _ hf, h1, h2, hg]; rfl
  have hreg : ∀ o, o ≠ R.FRZ_STAT → (s.rput f 0).reg o = s.reg o := fun o ho => reg_rput_ne s _ (by rw [h3]; exact ho)
  have hp' : plainTick (s.rput f 0) := ⟨hp.1, hp.2.1, fun i hi =>
    (ron_of_reg (f := F.AP_PENDi_INFO_VALID i) (hreg _ (fun h => by have := apEntry_page hi; simp only [F.AP_PENDi_INFO_VALID, R.FRZ_STAT] at h; omega))).trans (hp.2.2 i hi)⟩
  have he : s.frzEnd f = (s.rput f 0).frzThaw := if_neg (by rw [hfro]; decide)
  obtain ⟨k1, k2⟩ := frzThaw_thaws hp' hfro
  rw [he]
  exact ⟨thawed_congr (s' := s.rput f 0) rfl rfl (hreg R.SPN_RATE (by decide)) (hreg R.FRZ_CTRL (by decide)) k1, k2⟩

/-! ### Freeze and thaw by a command -/

theorem freezePage_cmd : freezePage R.FRZ_CMD = true := by decide

theorem frzWrite_runs {s : State} (hp : s.powered = true) (hl : s.loading = false) (f : State → State) : s.hostWrite R.FRZ_CMD f = f s := by
  unfold State.hostWrite
  rw [if_neg (by rw [hp]; decide), if_neg (fun h => h.2 freezePage_cmd), if_neg (by rw [hl]; simp)]

theorem frzCommand_runs {s : State} (hp : s.powered = true) (hl : s.loading = false) (f : State → State) : s.frzCommand f = f s := by
  unfold State.frzCommand
  rw [frzWrite_runs hp hl, if_neg (by rw [hp, hl]; decide)]

theorem freeze_loading {s : State} (hp : s.powered = true) (hl : s.loading = true) (f : State → State) :
    let t := s.frzCommand f
    countedOne s t F.CFG_HOSTIGN_CNT ∧ t.ron F.FRZ_EVT_REF_S = true ∧ Frame [R.CFG_HOSTIGN, R.FRZ_EVT] s t := by
  intro t
  have ht : t = (s.rsat F.CFG_HOSTIGN_CNT 1).frzRefuse := by
    show s.frzCommand f = _
    have hw : s.hostWrite R.FRZ_CMD f = s.rsat F.CFG_HOSTIGN_CNT 1 := by
      unfold State.hostWrite
      rw [if_neg (by rw [hp]; decide), if_neg (fun h => h.2 freezePage_cmd), if_pos ⟨hl, by decide⟩]
    unfold State.frzCommand
    rw [hw]
    exact if_pos (.inl hl)
  obtain ⟨h1, h2⟩ := frzRefuse_shows (s.rsat F.CFG_HOSTIGN_CNT 1)
  rw [ht]
  refine ⟨?_, h1, ((Frame.refl _ s).rsat _ (by decide)).trans (h2.mono (by decide))⟩
  exact (rget_of_reg (h2.regs _ (by decide) (by decide))).trans (rget_rsat_same _ _ _ (by decide))

theorem freeze_powerless {s : State} (hp : s.powered = false) (f : State → State) : s.frzCommand f = s.frzRefuse := by
  have hw : s.hostWrite R.FRZ_CMD f = s := if_pos (by rw [hp]; decide)
  unfold State.frzCommand
  rw [hw]
  exact if_pos (.inr (by rw [hp]; decide))

/-! ### The obligation -/

theorem freezeBall_clauses (s : State) :
    let on := !s.ron F.FRZ_CTRL_POL
    (s.ron F.FRZ_CTRL_BALL_EN = false ∨ s.ron F.FRZ_STAT_REQ_BALL = true → exec .freezeBall s = .next (s.ballAt on)) ∧
    (s.ron F.FRZ_CTRL_BALL_EN = true → s.ron F.FRZ_STAT_REQ_BALL = false →
      (s.powered = false ∨ s.loading = true → ∃ t, exec .freezeBall s = .next t ∧ t.ron F.FRZ_EVT_REF_S = true ∧
        s.sameRegsBut t [R.FRZ_EVT] ∧ State.sameBlocks (s.ballAt on) t) ∧
      (s.powered = true → s.loading = false → s.frozen = true → ∃ t, exec .freezeBall s = .next t ∧ t.ron F.FRZ_STAT_REQ_BALL = true ∧
        t.ron F.FRZ_STAT_REQ_CMD = s.ron F.FRZ_STAT_REQ_CMD ∧ s.sameRegsBut t [R.FRZ_STAT] ∧ State.sameBlocks (s.ballAt on) t) ∧
      (s.takesWrites = true → ∃ t, exec .freezeBall s = .next t ∧ t.ron F.FRZ_STAT_REQ_BALL = true ∧ frozeAt s t 0 on)) := by
  intro on
  have hx : exec .freezeBall s = .next (s.frzBallTo true) := rfl
  rw [hx, frzBallTo_active]
  obtain ⟨b, hb⟩ : ∃ b, b = s.ballAt on := ⟨_, rfl⟩
  refine ⟨fun h => congrArg _ (if_neg (fun hn => ?_)), fun hen hreq => ?_⟩
  · rcases h with h | h
    · exact absurd (h.symm.trans hn.1) (by decide)
    · exact absurd (h.symm.trans hn.2) (by decide)
  rw [if_pos ⟨hen, hreq⟩]
  refine ⟨fun h => ⟨_, rfl, ?_⟩, fun hp hl hf => ⟨_, rfl, ?_⟩, fun hw => ⟨_, rfl, ?_⟩⟩
  · obtain ⟨h1, h2⟩ := frzRefuse_shows (s.ballAt on)
    rw [frzRequest_refused (s := s.ballAt on) h]
    exact ⟨h1, h2.regs, h2.blocks⟩
  · rw [frzRequest_joins (s := s.ballAt on) hp hl hf]
    have hfr : Frame [R.FRZ_STAT] (s.ballAt on) ((s.ballAt on).rput F.FRZ_STAT_REQ_BALL 1) := (Frame.refl _ _).rput _ (by decide)
    exact ⟨congrArg (· != 0) (rget_rput_same (s.ballAt on) F.FRZ_STAT_REQ_BALL 1 (by decide)),
      ron_of_rget_eq (rget_rput_apart (s.ballAt on) (f := F.FRZ_STAT_REQ_BALL) (g := F.FRZ_STAT_REQ_CMD) 1 (by decide) (by decide) (.inr (by decide))), hfr.regs, hfr.blocks⟩
  · rw [frzRequest_begins (s := s.ballAt on) hw]
    obtain ⟨h1, h2⟩ := frzBegin_shows (s.ballAt on) F.FRZ_STAT_REQ_BALL (.inl rfl) 0
    exact ⟨h2, h1⟩

theorem freezeRelease_clauses (s : State) :
    let off := s.ron F.FRZ_CTRL_POL
    (s.ron F.FRZ_STAT_REQ_BALL = false → exec .freezeBallRelease s = .next (s.ballAt off)) ∧
    (s.ron F.FRZ_STAT_REQ_BALL = true →
      (s.ron F.FRZ_STAT_REQ_CMD = true → ∃ t, exec .freezeBallRelease s = .next t ∧ t.ron F.FRZ_STAT_REQ_BALL = false ∧ t.frozen = true ∧
        s.sameRegsBut t [R.FRZ_STAT] ∧ State.sameBlocks (s.ballAt off) t) ∧
      (s.ron F.FRZ_STAT_REQ_CMD = false → plainTick s → ∃ t, exec .freezeBallRelease s = .next t ∧ thawed s t ∧ t.frz.ball = off)) := by
  intro off
  have hx : exec .freezeBallRelease s = .next (s.frzBallTo false) := rfl
  rw [hx, frzBallTo_released]
  have hreq : requests F.FRZ_STAT_REQ_BALL F.FRZ_STAT_REQ_CMD := .inr ⟨rfl, rfl⟩
  refine ⟨fun h => congrArg _ (if_neg (by rw [h]; decide)), fun h => ?_⟩
  rw [if_pos h]
  refine ⟨fun hc => ⟨_, rfl, ?_⟩, fun hc hp => ⟨_, rfl, ?_⟩⟩
  · obtain ⟨h1, h2, h3⟩ := frzEnd_stays (s := s.ballAt off) hreq hc
    exact ⟨h1, h2, h3.regs, h3.blocks⟩
  · obtain ⟨h1, h2⟩ := frzEnd_thaws (s := s.ballAt off) hreq hc hp
    exact ⟨thawed_congr (s' := s.ballAt off) rfl rfl rfl rfl h1, h2⟩

/-- Settles O60: each request is refused, joins or begins a freeze; the thaw is one plain tick of the machine that shows the gap, behind which no step,
record or message changes what the thaw shows. -/
theorem freezeAndThaw : Obligations.FreezeAndThaw := by
  unfold Obligations.FreezeAndThaw
  intro s ballAt on
  obtain ⟨a1, a2⟩ := freezeBall_clauses s
  obtain ⟨b1, b2⟩ := freezeRelease_clauses s
  have hon : (!on) = s.ron F.FRZ_CTRL_POL := Bool.not_not _
  rw [hon]
  refine ⟨a1, a2, b1, b2, fun p v hw => frzCtrl_judges p v hw, fun p o hp => ⟨fun hw => ?_, fun hf hl => ?_, fun hf hl => ?_, fun hw => ?_, fun hl hc hb => ?_,
    fun hl hc hb ht => ?_, fun hl => ?_⟩, fun o hp => ?_, fun h => ?_, fun hf hs => ?_⟩
  · obtain ⟨-, -, hl⟩ := (takesWrites_iff s).1 hw
    obtain ⟨h1, h2⟩ := frzBegin_shows s F.FRZ_STAT_REQ_CMD (.inr rfl) (frzCause o)
    exact ⟨_, congrArg Host.Outcome.next ((frzCommand_runs hp hl _).trans (frzRequest_begins hw _ _)), h2, h1⟩
  · have hfr : Frame [R.FRZ_STAT] s (s.rput F.FRZ_STAT_REQ_CMD 1) := (Frame.refl _ _).rput _ (by decide)
    exact ⟨_, congrArg Host.Outcome.next ((frzCommand_runs hp hl _).trans (frzRequest_joins hp hl hf _ _)),
      congrArg (· != 0) (rget_rput_same s F.FRZ_STAT_REQ_CMD 1 (by decide)), hfr.regs, hfr.blocks⟩
  · obtain ⟨h1, h2, h3⟩ := freeze_loading hp hl (fun s => s.frzFreeze o)
    exact ⟨_, rfl, h1, h2, h3.regs, h3.blocks⟩
  · obtain ⟨-, hf, hl⟩ := (takesWrites_iff s).1 hw
    obtain ⟨h1, h2⟩ := frzRefuse_shows s
    have he : s.frzThawCmd = s.frzRefuse := if_pos (by rw [hf]; decide)
    exact ⟨_, congrArg Host.Outcome.next ((frzWrite_runs hp hl _).trans he), h1, h2.regs, h2.blocks⟩
  all_goals have hreq : requests F.FRZ_STAT_REQ_CMD F.FRZ_STAT_REQ_BALL := .inl ⟨rfl, rfl⟩
  · have he : s.frzThawCmd = s.frzEnd F.FRZ_STAT_REQ_CMD := by
      unfold State.frzThawCmd
      rw [if_neg (by rw [frozen_of_requests s hreq, hc, Bool.true_or]; decide), if_pos hc]
    obtain ⟨h1, h2, h3⟩ := frzEnd_stays hreq hb
    exact ⟨_, congrArg Host.Outcome.next ((frzWrite_runs hp hl _).trans he), h1, h2, h3.regs, h3.blocks⟩
  · have he : s.frzThawCmd = s.frzEnd F.FRZ_STAT_REQ_CMD := by
      unfold State.frzThawCmd
      rw [if_neg (by rw [frozen_of_requests s hreq, hc, Bool.true_or]; decide), if_pos hc]
    exact ⟨_, congrArg Host.Outcome.next ((frzWrite_runs hp hl _).trans he), (frzEnd_thaws hreq hb ht).1⟩
  · exact congrArg Host.Outcome.next (frzWrite_runs hp hl id)
  · obtain ⟨h1, h2⟩ := frzRefuse_shows s
    exact ⟨_, congrArg Host.Outcome.next (freeze_powerless hp _), h1, h2.regs, h2.blocks⟩
  · refine congrArg Host.Outcome.next (if_neg (fun hn => ?_))
    rcases h with h | h
    · exact absurd (h.symm.trans hn.1) (by decide)
    · exact absurd (h.symm.trans hn.2) (by decide)
  · exact ⟨_, rfl, frzComplete_shows hf hs⟩

end Sys2Proof
end

section
/-!
SUPPORT. What happens at the inputs of one Orrery stays with it (R153, R354).
-/
set_option Elab.async false
namespace Sys2Proof.Machine
open Sys2Proof

/-- A state differs from another only by one Orrery, and by what that one shows. -/
def OryAlone (n : Fin 4) (s t : State) : Prop := Far s t ∧ Within (.orrery n) s t

theorem OryAlone.refl (n : Fin 4) (s : State) : OryAlone n s s := ⟨far_refl s, .refl _ s⟩

/-- The registers that one Orrery shows in. -/
theorem orrery_reg {n : Fin 4} {o : Nat} (hr : reportReg o = false) (h1 : o < R.ORYn_CTRL n ∨ R.ORYn_CTRL n + 0x1000 ≤ o) (h2 : o < 0x14000 ∨ 0x19000 ≤ o) :
    ¬ PinReg (.orrery n) o := fun h => by
  have hl := h.lies
  cases h
  case ec he => exact absurd (hr.symm.trans he) (by decide)
  case spnEvt ha => exact orrery_not_all n ha
  case cfgEvt ha => exact orrery_not_all n ha
  case oryEvt m hm => obtain rfl : m = n := hm; unfold R.ORYn_CTRL R.ORYn_EVT at h1; omega
  case oryStat m hm => obtain rfl : m = n := hm; unfold R.ORYn_CTRL R.ORYn_STAT at h1; omega
  case oryErr m hm => obtain rfl : m = n := hm; unfold R.ORYn_CTRL R.ORYn_ERRCNT at h1; omega
  case oryErr2 m hm => obtain rfl : m = n := hm; unfold R.ORYn_CTRL R.ORYn_ERRCNT2 at h1; omega
  case oryDiff m hm => obtain rfl : m = n := hm; unfold R.ORYn_CTRL R.ORYn_IDXDIFF at h1; omega
  case geEvt _ he => exact he
  case geLatMax _ he => exact he
  case geLate _ he => exact he
  case geEph _ he => exact he
  case cvEvt => unfold R.CV_EVT at h2; omega
  case cvCnt k => unfold R.CVk_CNT at h2; omega
  case cvLast k => unfold R.CVk_LAST at h2; omega
  case bufWrite b => unfold R.CVBUFb_WRIDX at h2; omega
  case bufDrop b => unfold R.CVBUFb_DROP at h2; omega
  case bufBase b => unfold R.CVBUFb_BASE at h2; omega
  case chEvt _ hp => exact hp
  case chErr _ hp => exact hp
  case capStat _ _ hp => exact hp
  case fifoStat _ hc => exact hc
  case tgtCtl _ _ hc => exact hc
  case lastSub _ _ hc => exact hc
  case cmpLate _ _ hc => exact hc

theorem OryAlone.only {n : Fin 4} {s t : State} (h : OryAlone n s t) : onlyOrrery s t n :=
  ⟨h.1, h.2.chs (fun hp => hp) (fun _ hc => hc), fun m hm => h.2.ory m hm, fun _ hr h1 h2 => h.2.regs _ (orrery_reg hr h1 h2)⟩

theorem OryAlone.ite {n : Fin 4} {s a b : State} {c : Prop} [Decidable c] (ha : OryAlone n s a) (hb : OryAlone n s b) : OryAlone n s (if c then a else b) :=
  ⟨far_ite ha.1 hb.1, pin_ite ha.2 hb.2⟩

/-- A row of the Orreries does its work where they take part, and else changes nothing. -/
theorem oryEvent_alone (n : Fin 4) (s : State) (f : State → State) (hf : OryAlone n s (f s)) :
    (s.rget F.PW_STAT_STATE = 2 → s.oryEvent f = .next s) ∧ ∃ t, s.oryEvent f = .next t ∧ onlyOrrery s t n := by
  unfold State.oryEvent State.event
  constructor
  · intro h
    dsimp only
    rw [if_pos h, ite_self]
  · split
    · exact ⟨s, rfl, (OryAlone.refl n s).only⟩
    · exact ⟨_, rfl, ((OryAlone.refl n s).ite hf).only⟩

theorem oryEdge_alone (n : Fin 4) (i : Nat) (s : State) (f : State → State) (hf : OryAlone n s (f s)) :
    (s.rget F.PW_STAT_STATE = 2 → s.oryEdge n i f = .next s) ∧ ∃ t, s.oryEdge n i f = .next t ∧ onlyOrrery s t n :=
  oryEvent_alone n s _ ((OryAlone.refl n s).ite hf)

end Sys2Proof.Machine
end

section
set_option Elab.async false
namespace Sys2Proof
open Sys2Proof.Machine

/-- Settles O31: what each row does lies within the reach of its Orrery, and outside the blocks that only others change. -/
theorem orreriesStandApart : Obligations.OrreriesStandApart := by
  unfold Obligations.OrreriesStandApart
  intro n lvl pos a b s row hrow
  have hW := within_closed (.orrery n)
  have h0 := OryAlone.refl n s
  simp only [oryRows, List.mem_cons, List.not_mem_nil, or_false] at hrow
  rcases hrow with rfl | rfl | rfl | rfl | rfl | rfl | rfl | rfl | rfl
  · rw [show exec (.wheelTooth n pos) s = s.oryEdge n 0 (fun s => s.oWheelEdge n (s.oStamp n 0 pos)) from rfl]
    exact oryEdge_alone n 0 s _ ⟨oWheelEdge_far _ _ _ h0.1, oWheelEdge_pin hW _ _ _ rfl h0.2⟩
  · rw [show exec (.camEdge n pos) s = s.oryEdge n 2 (fun s => s.oCamEdge n (s.oStamp n 2 pos)) from rfl]
    exact oryEdge_alone n 2 s _ ⟨oCamEdge_far _ _ _ h0.1, oCamEdge_pin hW _ _ _ rfl h0.2⟩
  · rw [show exec (.camLost n) s = s.oryEvent (fun s => s.oCamLost n) from rfl]
    exact oryEvent_alone n s _ ⟨oCamLost_far _ _ h0.1, oCamLost_pin hW _ _ rfl h0.2⟩
  · rw [show exec (.dirPwDecision n) s = s.oryEvent (fun s => s.oPwDue n) from rfl]
    exact oryEvent_alone n s _ ⟨oPwDue_far _ _ h0.1, oPwDue_pin hW _ _ rfl h0.2⟩
  · rw [show exec (.hallChange n lvl pos) s = s.oryEvent (fun s => s.oHall n (s.oSeenLvl n s.ory[n].lvl lvl) (fun i => s.oStamp n i pos)) from rfl]
    exact oryEvent_alone n s _ ⟨oHall_far _ _ _ _ h0.1, oHall_pin hW _ _ _ _ rfl h0.2⟩
  · rw [show exec (.quadTransition n lvl pos) s = s.oryEvent (fun s => s.oQuad n (s.oSeenLvl n (s.oQuadLvl n) lvl) (fun i => s.oStamp n i pos)) from rfl]
    exact oryEvent_alone n s _ ⟨oQuad_far _ _ _ _ h0.1, oQuad_pin hW _ _ _ _ rfl h0.2⟩
  · rw [show exec (.sincosSample n a b) s = s.oryEvent (fun s => s.oSincos n a b) from rfl]
    exact oryEvent_alone n s _ ⟨oSincos_far _ _ _ _ h0.1, oSincos_pin hW _ _ _ _ rfl h0.2⟩
  · rw [show exec (.sincosIndex n pos) s = s.oryEdge n 2 (fun s => s.oMarker n (s.oStamp n 2 pos)) from rfl]
    exact oryEdge_alone n 2 s _ ⟨oMarker_far _ _ _ h0.1, oMarker_pin hW _ _ _ rfl h0.2⟩
  · rw [show exec (.still n) s = s.oryEvent (fun s => s.oStill n) from rfl]
    exact oryEvent_alone n s _ ⟨oStill_far _ _ h0.1, oStill_pin hW _ _ rfl h0.2⟩

end Sys2Proof
end

section
/-!
SUPPORT. What the operations of an Orrery change: the Orrery itself, and the registers it reports in (R153 to R181).
-/
set_option Elab.async false
namespace Sys2Proof.Machine
open Sys2Proof

/-- But for Orrery n, which is x, and the listed registers and reports, a state is as it was. -/
def OryFrame (os : List Nat) (n : Fin 4) (x : Orrery) (s t : State) : Prop := Frame os { s with ory := s.ory.set n x } t

theorem Core.ory {s t : State} (h : Core s t) : t.ory = s.ory := h.2.2.1

theorem Frame.reory {os : List Nat} {s t : State} (h : Frame os s t) (x : Vector Orrery 4) : Frame os { s with ory := x } { t with ory := x } :=
  ⟨h.regs, h.far, h.core.1, h.core.2.1, rfl, h.core.2.2.2⟩

section
variable {os os' : List Nat} {n : Fin 4} {x : Orrery} {s t : State} (h : OryFrame os n x s t)
include h

theorem OryFrame.ory : t.ory = s.ory.set n x := Core.ory h.core

theorem OryFrame.self : t.ory[n] = x := by
  rw [h.ory]
  exact Vector.getElem_set_self n.isLt

theorem OryFrame.other {m : Fin 4} (hm : m ≠ n) : t.ory[m] = s.ory[m] := by
  rw [h.ory]
  exact Vector.getElem_set_ne n.isLt m.isLt (fun e => hm (Fin.ext e.symm))

theorem OryFrame.regs : s.sameRegsBut t os := h.1
theorem OryFrame.spine : t.spine = s.spine := Frame.spine (s := { s with ory := s.ory.set n x }) h

theorem OryFrame.rget {f : Fld} (hr : reportReg f.reg = false) (ho : f.reg ∉ os) : t.rget f = s.rget f := rget_of_reg (h.regs _ hr ho)
theorem OryFrame.ron {f : Fld} (hr : reportReg f.reg = false) (ho : f.reg ∉ os) : t.ron f = s.ron f := ron_of_rget_eq (h.rget hr ho)

theorem OryFrame.mono (hs : ∀ o ∈ os, o ∈ os') : OryFrame os' n x s t := Frame.mono h hs
theorem OryFrame.evt {f : Fld} (hf : f.reg ∈ os) : OryFrame os n x s (t.evt f) := Frame.evt h hf
theorem OryFrame.rput {f : Fld} (v : Nat) (hf : f.reg ∈ os) : OryFrame os n x s (t.rput f v) := Frame.rput h v hf
theorem OryFrame.rsat {f : Fld} (k : Nat) (hf : f.reg ∈ os) : OryFrame os n x s (t.rsat f k) := Frame.rsat h k hf
theorem OryFrame.setReg {o : Nat} (w : Word) (ho : o ∈ os) : OryFrame os n x s (t.setReg o w) := Frame.setReg h w ho
theorem OryFrame.emitFl (type src tm fl : Nat) (w4 w5 w6 w7 : Word) : OryFrame os n x s (t.emitFl type src tm fl w4 w5 w6 w7) := Frame.emitFl h _ _ _ _ _ _ _ _

/-- A change of the Orrery. -/
theorem OryFrame.modOry (f : Orrery → Orrery) : OryFrame os n (f x) s (t.modOry n f) := by
  have hx := h.self
  have ho : t.ory.set n (f t.ory[n]) = s.ory.set n (f x) := by
    rw [hx, h.ory]
    exact Vector.set_set x n.isLt
  have hr := Frame.reory h (s.ory.set n (f x))
  show Frame os { s with ory := s.ory.set n (f x) } { t with ory := t.ory.set n (f t.ory[n]) }
  rw [ho]
  exact hr

end

theorem OryFrame.ite {os : List Nat} {n : Fin 4} {x : Orrery} {s a b : State} {c : Prop} [Decidable c] (ha : OryFrame os n x s a) (hb : OryFrame os n x s b) :
    OryFrame os n x s (if c then a else b) := by
  split <;> assumption

/-- An Orrery that has changed SYNC (R157). -/
def Orrery.synced (x : Orrery) (new : Sync) : Orrery :=
  { x with sync := new, cyc := if (x.sync = .off ∨ x.sync = .acq) ∧ (new = .full ∨ new = .rel) then 0 else x.cyc }

theorem OryFrame.refl (os : List Nat) (n : Fin 4) (s : State) : OryFrame os n s.ory[n] s s := by
  unfold OryFrame
  rw [show s.ory.set n s.ory[n] = s.ory from Vector.set_getElem_self n.isLt]
  exact Frame.refl os s

/-- A state with a changed Orrery. -/
theorem modOry_oryFrame (os : List Nat) (n : Fin 4) (s : State) (f : Orrery → Orrery) : OryFrame os n (f s.ory[n]) s (s.modOry n f) :=
  (OryFrame.refl os n s).modOry f

section
variable {os : List Nat} {n : Fin 4} {x : Orrery} {s t : State} (h : OryFrame os n x s t)
include h

/-- What SYNC makes of an Orrery (R157, R163). -/
theorem OryFrame.oSync (he : R.ORYn_EVT n ∈ os) (new : Sync) (cause tm fl : Nat) : OryFrame os n (x.synced new) s (t.oSync n new cause tm fl) := by
  have hs : t.ory[n].sync = x.sync := by rw [h.self]
  have h1 : OryFrame os n (x.synced new) s (t.modOry n (fun o => { o with sync := new, cyc := if (t.ory[n].sync = .off ∨ t.ory[n].sync = .acq) ∧ (new = .full ∨ new = .rel) then 0 else o.cyc })) := by
    have h2 := h.modOry (fun o => { o with sync := new, cyc := if (t.ory[n].sync = .off ∨ t.ory[n].sync = .acq) ∧ (new = .full ∨ new = .rel) then 0 else o.cyc })
    rwa [show ({ x with sync := new, cyc := if (t.ory[n].sync = .off ∨ t.ory[n].sync = .acq) ∧ (new = .full ∨ new = .rel) then 0 else x.cyc } : Orrery) = x.synced new from by
      rw [hs]; rfl] at h2
  exact (OryFrame.ite (c := t.ory[n].sync = new) h1 (h1.evt he)).emitFl _ _ _ _ _ _ _ _

/-- A resync is counted and reported (R166). -/
theorem OryFrame.oResync (he : R.ORYn_EVT n ∈ os) (hc : R.ORYn_ERRCNT n ∈ os) (cause tm fl : Nat) (shift steps : Int) (before after : Nat) :
    OryFrame os n { x with suspect := false } s (t.oResync n cause tm fl shift steps before after) :=
  (((h.rsat 1 hc).evt he).modOry (fun o => { o with suspect := false })).emitFl _ _ _ _ _ _ _ _

theorem OryFrame.oPush (due : Nat) (wake rs : Bool) : OryFrame os n { x with bcs := x.bcs ++ [⟨due, wake, { x.view with resync := rs }⟩] } s (t.oPush n due wake rs) :=
  h.modOry (fun o => { o with bcs := o.bcs ++ [⟨due, wake, { o.view with resync := rs }⟩] })

theorem OryFrame.oShow : OryFrame os n { x with bcs := [], seen := x.view } s (t.oShow n) := h.modOry (fun o => { o with bcs := [], seen := o.view })

theorem OryFrame.oCmdDone (hs : R.ORYn_STAT n ∈ os) (he : R.ORYn_EVT n ∈ os) (ok : Bool) : OryFrame os n x s (t.oCmdDone n ok) := by
  unfold State.oCmdDone
  split
  · exact h.rput 0 hs
  · exact (h.rput 1 hs).evt he

end

/-! ### A tick in which no Orrery has anything due -/

/-- No reach but the counts, the captures and the records of the channels. -/
def Reach.pinsOnly : Reach := ⟨fun _ => False, True, fun _ => False, False⟩

theorem pinsOnly_orrery {o : Nat} (h : 0x10000 ≤ o ∧ o < 0x14000) : ¬ PinReg .pinsOnly o := fun hx => by
  cases hx
  case oryEvt _ hn => exact hn
  case oryStat _ hn => exact hn
  case oryErr _ hn => exact hn
  case oryErr2 _ hn => exact hn
  case oryDiff _ hn => exact hn
  case fifoStat _ hn => exact hn
  case tgtCtl _ _ hn => exact hn
  case lastSub _ _ hn => exact hn
  case cmpLate _ _ hn => exact hn
  case geEvt _ hn => exact hn
  case geLatMax _ hn => exact hn
  case geLate _ hn => exact hn
  case geEph _ hn => exact hn
  case spnEvt hn => exact hn 0
  case cfgEvt hn => exact hn 0
  case ec hr => have := reportReg_page hr; omega
  all_goals
    simp only [R.CHc_EVT, R.CHc_ERRCNT, R.CHc_CAPk_STAT, R.CV_EVT, R.CVk_CNT, R.CVk_LAST, R.CVBUFb_WRIDX, R.CVBUFb_DROP, R.CVBUFb_BASE] at h
    omega

/-- Nothing is due at any Orrery, and no channel holds a level change of its own. -/
structure OryQuiet (s : State) : Prop where
  qwait : ∀ m : Fin 4, s.ory[m].qwait = none
  bcs : ∀ m : Fin 4, ∀ b ∈ s.ory[m].bcs, s.spine.tick < b.due
  own : ∀ c : Fin 96, s.ch[c].own = []

theorem oTickStart_quiet {s : State} (h : OryQuiet s) (n : Fin 4) : s.oTickStart n = s := by
  have hq : s.oQuadDue n = s := by unfold State.oQuadDue; rw [h.qwait n]
  have hb : s.ory[n].bcs.takeWhile (fun b => b.due ≤ s.spine.tick) = [] := by
    cases hl : s.ory[n].bcs with
    | nil => rfl
    | cons b l =>
      have hd := h.bcs n b (by rw [hl]; exact List.mem_cons_self)
      exact List.takeWhile_cons_of_neg (by simp; omega)
  unfold State.oTickStart
  rw [hq]
  unfold State.oDeliver
  rw [hb]
  rfl

theorem chTick_pinsOnly {s : State} {c : Fin 96} (h : s.ch[c].own = []) : Within .pinsOnly s (s.chTick c) := by
  have hP := within_closed .pinsOnly
  have h1 : Within .pinsOnly s (if s.ch[c].inLvl then s.count c 9 else s) := pin_ite (count_pin hP _ _ _ trivial (.refl _ s)) (.refl _ s)
  have h2 : (if s.ch[c].inLvl then s.count c 9 else s).ch[c].own = [] := by
    rw [h1.cell c (fun hx => hx)]
    exact h
  have h3 : (if s.ch[c].inLvl then s.count c 9 else s).ownStep c none = if s.ch[c].inLvl then s.count c 9 else s := by
    unfold State.ownStep
    simp only [if_pos h2]
  unfold State.chTick
  dsimp only
  rw [h3]
  exact capPump_pin hP _ _ trivial (stagePump_pin hP _ _ trivial h1)

theorem chTicks_pinsOnly (l : List (Fin 96)) {s t : State} (h : Within .pinsOnly s t) (ho : ∀ c : Fin 96, s.ch[c].own = []) :
    Within .pinsOnly s (l.foldl (fun (s : State) (c : Fin 96) => s.chTick c) t) :=
  pin_foldl (P := Within .pinsOnly s) _ _ (fun a c ha => ha.trans (chTick_pinsOnly (by rw [ha.cell c (fun hx => hx)]; exact ho c))) h

/-- The blocks begin a tick with nothing due at any Orrery. -/
theorem blocksStart_quiet {s : State} (h : OryQuiet s) :
    (∀ m : Fin 4, s.blocksStart.ory[m] = s.ory[m]) ∧ ∀ o, 0x10000 ≤ o ∧ o < 0x14000 → s.blocksStart.reg o = s.reg o := by
  have hory : (List.finRange 4).foldl (fun (s : State) (n : Fin 4) => s.oTickStart n) s = s := List.foldl_fixed' (oTickStart_quiet h) _
  obtain ⟨a, ha⟩ : ∃ a, a = (List.finRange 2).foldl (fun (s : State) (k : Fin 2) => s.convTick k) s := ⟨_, rfl⟩
  have haw : Within .pinsOnly s a := ha ▸ pin_foldl _ _ (fun b k hb => convTick_pin (within_closed _) _ _ hb) (.refl _ s)
  obtain ⟨l, hl⟩ := lhLateCheck_frame a
  have hr : a.lhLateCheck.rseqStep.regs = a.lhLateCheck.regs ∧ a.lhLateCheck.rseqStep.ory = a.lhLateCheck.ory ∧ a.lhLateCheck.rseqStep.ch = a.lhLateCheck.ch := by
    unfold State.rseqStep
    split <;> exact ⟨rfl, rfl, rfl⟩
  obtain ⟨b, hb⟩ : ∃ b, b = a.lhLateCheck.rseqStep := ⟨_, rfl⟩
  rw [← hb] at hr
  have hbch : b.ch = a.ch := hr.2.2.trans hl.core.ch
  have hbo : b.ory = a.ory := hr.2.1.trans (Core.ory hl.core)
  have hown : ∀ c : Fin 96, b.ch[c].own = [] := fun c => by
    rw [hbch, haw.cell c (fun hx => hx)]
    exact h.own c
  have hw := chTicks_pinsOnly (List.finRange 96) (.refl _ b) hown
  have he : s.blocksStart = (List.finRange 96).foldl (fun (s : State) (c : Fin 96) => s.chTick c) b := by
    unfold State.blocksStart
    rw [hory, ← ha]
    dsimp only
    rw [← hb]
  rw [he]
  refine ⟨fun m => (hw.ory m (fun hx => hx)).trans ?_, fun o ho => (hw.regs o (pinsOnly_orrery ho)).trans ?_⟩
  · rw [hbo]
    exact haw.ory m (fun hx => hx)
  · have h1 : b.reg o = a.lhLateCheck.reg o := congrArg (fun r => tblGet resetWord r o) hr.1
    rw [h1, hl.regs o (reportReg_of_page (.inr (by omega))) (by simp only [R.LH_PFCNT, R.LH_EVT, List.mem_cons, List.not_mem_nil, or_false]; omega)]
    exact haw.regs o (pinsOnly_orrery ho)

theorem spineMove_core (s : State) : s.spineMove.ory = s.ory ∧ s.spineMove.ch = s.ch := by
  obtain ⟨h1, -, h3, -⟩ := (spineMove_frame s).blocks.2
  exact ⟨h3, h1⟩

theorem spineMove_oryReg (s : State) {o : Nat} (h : 0x10000 ≤ o ∧ o < 0x14000) : s.spineMove.reg o = s.reg o :=
  (spineMove_frame s).regs o (reportReg_of_page (.inr (by omega))) (by simp only [R.SPN_EVT, List.mem_singleton]; omega)

/-- The start of a plain tick in which nothing is due at any Orrery leaves the Orreries. -/
theorem plainStart_ory {e : State} (h : plainTick e) (hq : ∀ m : Fin 4, e.ory[m].qwait = none) (hb : ∀ m : Fin 4, ∀ b ∈ e.ory[m].bcs, e.spine.tick + 1 < b.due)
    (ho : ∀ c : Fin 96, e.ch[c].own = []) :
    (∀ m : Fin 4, e.tickBegun.banksSwap.blocksStart.ory[m] = e.ory[m]) ∧
    ∀ o, 0x10000 ≤ o ∧ o < 0x14000 → e.tickBegun.banksSwap.blocksStart.reg o = e.reg o := by
  obtain ⟨w, hw⟩ := tickBegun_plain h
  obtain ⟨x, hx⟩ := banksSwap_shape e.tickBegun
  have h1 : e.tickBegun.banksSwap.ory = e.ory := by rw [hx, hw]; rfl
  have h2 : e.tickBegun.banksSwap.ch = e.ch := by rw [hx, hw]; rfl
  have h3 : e.tickBegun.banksSwap.spine.tick = e.spine.tick + 1 := by rw [hx, hw]; rfl
  have h4 : ∀ o, e.tickBegun.banksSwap.reg o = e.reg o := fun o => by rw [hx, hw]; rfl
  generalize e.tickBegun.banksSwap = a at h1 h2 h3 h4
  have hqa : OryQuiet a := ⟨fun m => by rw [h1]; exact hq m, fun m b hm => by rw [h3]; exact hb m b (by rw [← h1]; exact hm), fun c => by rw [h2]; exact ho c⟩
  obtain ⟨k1, k2⟩ := blocksStart_quiet hqa
  exact ⟨fun m => (k1 m).trans (by rw [h1]), fun o hr => (k2 o hr).trans (h4 o)⟩

/-- A plain tick in which nothing is due at any Orrery leaves what its end made of them. -/
theorem plainTick_ory {s : State} (h : plainTick s) (hq : ∀ m : Fin 4, s.tickEnd.ory[m].qwait = none) (hb : ∀ m : Fin 4, ∀ b ∈ s.tickEnd.ory[m].bcs, s.spine.tick + 1 < b.due)
    (ho : ∀ c : Fin 96, s.tickEnd.ch[c].own = []) :
    (∀ m : Fin 4, (s.tickMove 0).ory[m] = s.tickEnd.ory[m]) ∧ ∀ o, 0x10000 ≤ o ∧ o < 0x14000 → (s.tickMove 0).reg o = s.tickEnd.reg o := by
  have hp := plainTick_spineMove (plainTick_tickEnd h)
  have hreg := fun o => spineMove_oryReg s.tickEnd (o := o)
  obtain ⟨h1, h2⟩ := spineMove_core s.tickEnd
  have h3 : s.tickEnd.spineMove.spine.tick = s.spine.tick := (spineMove_tick _).trans (tickEnd_ticked s).tick
  rw [tickMove_plain h]
  generalize s.tickEnd.spineMove = e at *
  obtain ⟨k1, k2⟩ := plainStart_ory hp (fun m => by rw [h1]; exact hq m) (fun m b hm => by rw [h3]; exact hb m b (by rw [← h1]; exact hm)) (fun c => by rw [h2]; exact ho c)
  exact ⟨fun m => (k1 m).trans (by rw [h1]), fun o hr => (k2 o hr).trans (hreg o hr)⟩

/-! ### The end of a tick in which one Orrery has work -/

/-- At its end, a tick finds a command at Orrery n alone. -/
structure WorksAlone (s : State) (n : Fin 4) : Prop where
  img : ∀ c : Fin 96, s.ch[c].imgPend = false
  slew : s.spine.slew = none
  cam : ∀ m : Fin 4, s.ory[m].camWait = none
  cmds : ∀ m : Fin 4, m ≠ n → s.ory[m].cmds = []
  regs : s.ap.regs = []
  words : s.ap.words = []

theorem oTickEnd_still {s : State} {m : Fin 4} (hc : s.ory[m].camWait = none) (hm : s.ory[m].cmds = []) : s.oTickEnd m = s := by
  have h : s.oCamSettle m = s := by unfold State.oCamSettle; rw [hc]
  unfold State.oTickEnd
  rw [h, oCmdRun_still hm]

theorem oTickEnds_still (l : List (Fin 4)) {s : State} {n : Fin 4} (hn : n ∉ l) (h : ∀ m : Fin 4, m ≠ n → s.ory[m].camWait = none ∧ s.ory[m].cmds = []) :
    l.foldl (fun (s : State) (m : Fin 4) => s.oTickEnd m) s = s :=
  List.foldlRecOn (motive := fun t => t = s) _ _ rfl (fun t ht m hm => by
    have hmn : m ≠ n := fun e => hn (e ▸ hm)
    rw [ht]
    exact oTickEnd_still (h m hmn).1 (h m hmn).2)

theorem tickEnd_alone {s : State} {n : Fin 4} (h : WorksAlone s n) : s.tickEnd = s.oCmdRun n := by
  have himg : (List.finRange 96).foldl (fun (s : State) (c : Fin 96) => s.flushImage c) s = s :=
    List.foldl_fixed' (fun c => by unfold State.flushImage; rw [if_neg (by rw [h.img c]; exact Bool.false_ne_true)]) _
  have hslew : s.slewFinish = s := by unfold State.slewFinish; rw [h.slew]
  have hone : s.oTickEnd n = s.oCmdRun n := by
    unfold State.oTickEnd State.oCamSettle
    rw [h.cam n]
  have hw : Within (.orrery n) s (s.oCmdRun n) := oCmdRun_pin (within_closed _) s n rfl (.refl _ s)
  have hf : Far s (s.oCmdRun n) := oCmdRun_far s n (far_refl s)
  have hfold : (List.finRange 4).foldl (fun (s : State) (m : Fin 4) => s.oTickEnd m) s = s.oCmdRun n := by
    obtain ⟨l, r, hlr⟩ := List.append_of_mem (List.mem_finRange n)
    have hnd : (l ++ n :: r).Nodup := hlr ▸ List.nodup_finRange 4
    have hl : n ∉ l := fun hx => (List.nodup_append.1 hnd).2.2 n hx n (List.mem_cons_self) rfl
    have hr : n ∉ r := (List.nodup_cons.1 (List.nodup_append.1 hnd).2.1).1
    rw [hlr, List.foldl_append, List.foldl_cons, oTickEnds_still l hl (fun m hm => ⟨h.cam m, h.cmds m hm⟩), hone,
      oTickEnds_still r hr (fun m hm => by rw [hw.ory m hm]; exact ⟨h.cam m, h.cmds m hm⟩)]
  unfold State.tickEnd
  dsimp only
  rw [himg, hslew, hfold]
  unfold State.activateHeld
  rw [if_pos ⟨by rw [hf.ap]; exact h.regs, by rw [hf.ap]; exact h.words⟩]

theorem modOry_congr {s : State} {n : Fin 4} {f g : Orrery → Orrery} (h : f s.ory[n] = g s.ory[n]) : s.modOry n f = s.modOry n g := by
  unfold State.modOry
  rw [h]

/-- The one command that waits has come due, or not. -/
theorem oCmdRun_one {s : State} {n : Fin 4} {k op : Nat} (hc : s.ory[n].cmds = [(k, op)]) (hq : s.ory[n].qwait = none) :
    (k < s.spine.tick → s.oCmdRun n = (s.modOry n (fun o => { o with cmds := [] })).oCommand n op) ∧ (s.spine.tick ≤ k → s.oCmdRun n = s) := by
  have hset : s.oQuadSettle n = s := by unfold State.oQuadSettle; rw [hq]
  unfold State.oCmdRun
  dsimp only
  rw [hc, hset]
  constructor
  · intro hk
    rw [List.takeWhile_cons_of_pos (by simpa using hk), List.takeWhile_nil, ite_self]
    have hm : s.modOry n (fun o => { o with cmds := o.cmds.drop 1 }) = s.modOry n (fun o => { o with cmds := [] }) :=
      modOry_congr (by rw [hc]; rfl)
    rw [List.length_singleton, hm]
    rfl
  · intro hk
    rw [List.takeWhile_cons_of_neg (by simpa using hk), ite_self]
    have hx : ({ s.ory[n] with cmds := s.ory[n].cmds.drop 0 } : Orrery) = s.ory[n] := rfl
    show { s with ory := s.ory.set n { s.ory[n] with cmds := s.ory[n].cmds.drop 0 } } = s
    rw [hx, show s.ory.set n s.ory[n] = s.ory from Vector.set_getElem_self n.isLt]

/-! ### The commands -/

/-- The registers that the commands of an Orrery write. -/
def oryCmdRegs (n : Fin 4) : List Nat := [R.ORYn_STAT n, R.ORYn_EVT n, R.ORYn_ERRCNT n, R.ORYn_ERRCNT2 n]

theorem mem_oryCmdRegs (n : Fin 4) : R.ORYn_STAT n ∈ oryCmdRegs n ∧ R.ORYn_EVT n ∈ oryCmdRegs n ∧ R.ORYn_ERRCNT n ∈ oryCmdRegs n ∧ R.ORYn_ERRCNT2 n ∈ oryCmdRegs n := by
  simp [oryCmdRegs]

/-- An Orrery that has restarted, before SYNC is told. -/
structure Restarted (y : Orrery) : Prop where
  cmds : y.cmds = []
  still : y.still = true
  back : y.back = false
  cyc : y.cyc = 0
  qwait : y.qwait = none

theorem Restarted.synced {y : Orrery} (h : Restarted y) (new : Sync) : Restarted (y.synced new) :=
  ⟨h.cmds, h.still, h.back, by unfold Orrery.synced; dsimp only; rw [h.cyc, ite_self], h.qwait⟩

theorem Restarted.placed {y : Orrery} (h : Restarted y) (k : Nat) (l : List OryEdge) : Restarted { y with pos := k, hist := l } := ⟨h.cmds, h.still, h.back, h.cyc, h.qwait⟩

/-- A restart (R157, R181): what it makes of the Orrery, by its type and the levels of its inputs. -/
theorem oRestart_shows {os : List Nat} {n : Fin 4} {x : Orrery} {s t : State} (h : OryFrame os n x s t) (hx : x.cmds = []) (he : R.ORYn_EVT n ∈ os) (cause : Nat) :
    ∃ y, Restarted y ∧ OryFrame os n { y with bcs := [], seen := y.view } s (t.oRestart n cause) ∧
      (t.oType n = 0 ∨ t.oType n = 3 → y.sync = .acq ∧ y.hist = []) ∧
      (∀ j, t.oType n = 1 → hallSector (t.oLevels n).toNat = some j → y.sync = .rel ∧ y.pos = j) ∧
      (t.oType n = 2 → y.sync = .rel ∧ y.pos = 0) := by
  obtain ⟨z, hz⟩ : ∃ z, z = ({ oClear x with still := true, back := false, lvl := t.oLevels n, cyc := 0 } : Orrery) := ⟨_, rfl⟩
  have hzr : Restarted z := by rw [hz]; exact ⟨hx, rfl, rfl, rfl, rfl⟩
  have h1 : OryFrame os n z s (t.modOry n (fun o => { oClear o with still := true, back := false, lvl := t.oLevels n, cyc := 0 })) := by
    rw [hz]
    exact h.modOry (fun o => { oClear o with still := true, back := false, lvl := t.oLevels n, cyc := 0 })
  have hacq : z.hist = [] ∧ z.pos = 0 := by rw [hz]; exact ⟨rfl, rfl⟩
  unfold State.oRestart
  dsimp only
  generalize t.modOry n (fun o => { oClear o with still := true, back := false, lvl := t.oLevels n, cyc := 0 }) = a at h1 ⊢
  split
  case h_1 ht =>
    rw [ht]
    split
    case h_1 k hk =>
      refine ⟨({ z with pos := k, hist := [hallCentre k t.now false] } : Orrery).synced .rel, (hzr.placed k _).synced _,
        ((h1.modOry (fun o => { o with pos := k, hist := [hallCentre k t.now false] })).oSync he .rel cause _ _).oShow, fun h => by omega, fun j _ hj => ⟨rfl, ?_⟩, fun h => by omega⟩
      exact Option.some.inj (hk.symm.trans hj)
    case h_2 hk =>
      exact ⟨z.synced .acq, hzr.synced _, (h1.oSync he .acq cause _ _).oShow, fun h => by omega, fun j _ hj => absurd (hk.symm.trans hj) (by simp), fun h => by omega⟩
  case h_2 ht =>
    rw [ht]
    obtain ⟨e, hee⟩ : ∃ e : OryEdge, e = ⟨t.oAngle n 0 0, t.now, 0, false, t.oNext n 0 false 0⟩ := ⟨_, rfl⟩
    rw [← hee]
    exact ⟨({ z with hist := [e] } : Orrery).synced .rel, (hzr.placed z.pos [e]).synced _,
      ((h1.modOry (fun o => { o with hist := [e] })).oSync he .rel cause _ _).oShow, fun h => by omega, fun j h => by omega, fun _ => ⟨rfl, hacq.2⟩⟩
  case h_3 h1' h2' =>
    exact ⟨z.synced .acq, hzr.synced _, (h1.oSync he .acq cause _ _).oShow, fun _ => ⟨rfl, hacq.1⟩, fun j h => absurd h h1', fun h => absurd h h2'⟩

theorem oryPage_reports (o : Nat) (h : 0x10000 ≤ o) : reportReg o = false := reportReg_of_page (.inr (by omega))

/-- Where SETPOS puts the last validated edge. -/
theorem oZero_setpos (s : State) (n : Fin 4) (w : Word) :
    s.oZero n ((w.toNat + 2 ^ 32 - (s.calUser (0xD5 + 8 * n.val)).toNat % 2 ^ 24) % 2 ^ 32) = w.toNat := by
  unfold State.oZero
  generalize hz : (s.calUser (0xD5 + 8 * n.val)).toNat % 2 ^ 24 = z
  have h1 : z < 2 ^ 24 := hz ▸ Nat.mod_lt _ (by decide)
  have h2 := w.isLt
  omega

theorem rget_modOry (s : State) (n : Fin 4) (f : Orrery → Orrery) (g : Fld) : (s.modOry n f).rget g = s.rget g := rfl

theorem rget_oBroadcast (s : State) (n : Fin 4) (due : Nat) (rs : Bool) (f : Fld) : (s.oBroadcast n due rs).rget f = s.rget f := rfl

/-- SETPOS of an Orrery with an edge (R181). -/
theorem oSetpos_shows {os : List Nat} {n : Fin 4} {x : Orrery} {s t : State} (h : OryFrame os n x s t) (hs : R.ORYn_STAT n ∈ os) (he : R.ORYn_EVT n ∈ os)
    (hc : R.ORYn_ERRCNT n ∈ os) {e : OryEdge} {l : List OryEdge} (hh : x.hist = e :: l) (ho : x.sync = .turn ∨ x.sync = .rel ∨ x.sync = .full) :
    ∃ y : Orrery, OryFrame os n { y with bcs := x.bcs ++ [⟨t.spine.tick + 20, true, { y.view with resync := true }⟩] } s (t.oSetpos n) ∧
      y.sync = .full ∧ y.seen = x.seen ∧ y.qwait = x.qwait ∧ y.cmds = x.cmds ∧ (∃ d, y.hist = { e with base := ((t.reg (R.ORYn_OPD n)).toNat + 2 ^ 32 - (t.calUser (0xD5 + 8 * n.val)).toNat % 2 ^ 24) % 2 ^ 32, dnext := d } :: l) ∧
      (t.oSetpos n).ron (F.ORYn_STAT_CMD_REF n) = false ∧ (t.oSetpos n).rget (F.ORYn_ERRCNT_RESYNC n) = min (t.rget (F.ORYn_ERRCNT_RESYNC n) + 1) (2 ^ 8 - 1) := by
  have hself := h.self
  have hty : t.ory[n].hist = e :: l := by rw [hself]; exact hh
  have hsy : t.ory[n].sync = .turn ∨ t.ory[n].sync = .rel ∨ t.ory[n].sync = .full := by rw [hself]; exact ho
  obtain ⟨after, hafter⟩ : ∃ a, a = ((t.reg (R.ORYn_OPD n)).toNat + 2 ^ 32 - (t.calUser (0xD5 + 8 * n.val)).toNat % 2 ^ 24) % 2 ^ 32 := ⟨_, rfl⟩
  obtain ⟨f, cause, tm, fl, d, st, bf, af, tm2, fl2, pos, cyc, dn, hf, heq⟩ : ∃ (f : Orrery → Orrery) (cause tm fl : Nat) (d st : Int) (bf af tm2 fl2 pos cyc dn : Nat),
      (f = fun o => { o with pos := pos, cyc := cyc, hist := { e with base := after, dnext := dn } :: l }) ∧
      t.oSetpos n = (State.oCmdDone (if t.ory[n].sync = .full then (t.modOry n f).oResync n cause tm fl d st bf af else
        ((t.modOry n f).oResync n cause tm fl d st bf af).oSync n .full 3 tm2 fl2) n true).oBroadcast n (t.spine.tick + 20) true := by
    unfold State.oSetpos
    dsimp only
    rw [hty]
    dsimp only
    rw [if_pos hsy, ← hafter]
    exact ⟨_, _, _, _, _, _, _, _, _, _, _, _, _, rfl, rfl⟩
  have hx1 : OryFrame os n { x with pos := pos, cyc := cyc, hist := { e with base := after, dnext := dn } :: l } s (t.modOry n f) := by
    rw [hf]
    exact h.modOry _
  obtain ⟨y, hy⟩ : ∃ y, y = ({ x with pos := pos, cyc := cyc, hist := { e with base := after, dnext := dn } :: l } : Orrery) := ⟨_, rfl⟩
  rw [← hy] at hx1
  have hcnt : (t.modOry n f).rget (F.ORYn_ERRCNT_RESYNC n) = t.rget (F.ORYn_ERRCNT_RESYNC n) := rfl
  generalize t.modOry n f = b at hx1 hcnt heq
  have hsync : t.ory[n].sync = x.sync := by rw [hself]
  rw [hsync] at heq
  have hyf : y.sync = x.sync ∧ y.seen = x.seen ∧ y.qwait = x.qwait ∧ y.cmds = x.cmds ∧ y.bcs = x.bcs ∧ y.hist = { e with base := after, dnext := dn } :: l := by
    rw [hy]; exact ⟨rfl, rfl, rfl, rfl, rfl, rfl⟩
  have hr := hx1.oResync he hc cause tm fl d st bf af
  have hrc : (b.oResync n cause tm fl d st bf af).rget (F.ORYn_ERRCNT_RESYNC n) = min (t.rget (F.ORYn_ERRCNT_RESYNC n) + 1) (2 ^ 8 - 1) := by
    have h1 : (b.rsat (F.ORYn_ERRCNT_RESYNC n) 1).rget (F.ORYn_ERRCNT_RESYNC n) = min (b.rget (F.ORYn_ERRCNT_RESYNC n) + 1) (2 ^ 8 - 1) :=
      rget_rsat_same b (F.ORYn_ERRCNT_RESYNC n) 1 (show 24 + 8 ≤ 32 by decide)
    have h2 := rget_evt_ne (b.rsat (F.ORYn_ERRCNT_RESYNC n) 1) (f := F.ORYn_EVT_RESYNC_S n) (g := F.ORYn_ERRCNT_RESYNC n) (oryPage_reports (R.ORYn_ERRCNT n) (by unfold R.ORYn_ERRCNT; omega))
      (by show R.ORYn_ERRCNT n ≠ R.ORYn_EVT n; unfold R.ORYn_ERRCNT R.ORYn_EVT; omega)
    rw [← hcnt, ← h1, ← h2]
    unfold State.oResync
    exact (rget_emitFl _ _ _ _ _ _ _ _ _ (oryPage_reports (R.ORYn_ERRCNT n) (by unfold R.ORYn_ERRCNT; omega))).trans (rget_modOry _ n _ _)
  generalize b.oResync n cause tm fl d st bf af = r at hr hrc heq
  obtain ⟨z, q, hq, hz, hqe, hqc⟩ : ∃ z q, OryFrame os n z s q ∧ (z.sync = .full ∧ z.seen = x.seen ∧ z.qwait = x.qwait ∧ z.cmds = x.cmds ∧ z.bcs = x.bcs ∧ z.hist = { e with base := after, dnext := dn } :: l) ∧
      (if x.sync = .full then r else r.oSync n .full 3 tm2 fl2) = q ∧ q.rget (F.ORYn_ERRCNT_RESYNC n) = r.rget (F.ORYn_ERRCNT_RESYNC n) := by
    split
    case isTrue hfull => exact ⟨_, r, hr, ⟨hyf.1.trans hfull, hyf.2⟩, rfl, rfl⟩
    case isFalse =>
      refine ⟨_, _, hr.oSync he .full 3 tm2 fl2, ⟨rfl, hyf.2⟩, rfl, ?_⟩
      have hone := (OryFrame.refl [R.ORYn_EVT n] n r).oSync List.mem_cons_self .full 3 tm2 fl2
      exact hone.rget (oryPage_reports (R.ORYn_ERRCNT n) (by unfold R.ORYn_ERRCNT; omega)) (by show R.ORYn_ERRCNT n ∉ [R.ORYn_EVT n]; simp [R.ORYn_ERRCNT, R.ORYn_EVT])
  rw [hqe] at heq
  obtain ⟨hz1, hz2, hz3, hzc, hz4, hz5⟩ := hz
  have hdone : q.oCmdDone n true = q.rput (F.ORYn_STAT_CMD_REF n) 0 := if_pos rfl
  rw [hdone] at heq
  rw [heq]
  refine ⟨z, ?_, hz1, hz2, hz3, hzc, ⟨dn, by rw [← hafter]; exact hz5⟩, ?_, ?_⟩
  · rw [← hz4]
    exact (hq.rput 0 hs).oPush _ true true
  · rw [ron_of_rget_eq (rget_oBroadcast (q.rput (F.ORYn_STAT_CMD_REF n) 0) n _ _ _)]
    exact congrArg (· != 0) (rget_rput_same q (F.ORYn_STAT_CMD_REF n) 0 (show 18 + 1 ≤ 32 by decide))
  · rw [← hrc, ← hqc, rget_oBroadcast]
    exact rget_of_reg (reg_rput_ne q _ (by show R.ORYn_ERRCNT n ≠ R.ORYn_STAT n; unfold R.ORYn_ERRCNT R.ORYn_STAT; omega))

end Sys2Proof.Machine
end

section
set_option Elab.async false
namespace Sys2Proof
open Sys2Proof.Machine

/-! ### Writes of ORYn_CMD -/

theorem exec_oryCmd {s : State} (hw : s.takesWrites = true) (p : Path) (n : Fin 4) :
    exec (.oryNop p n) s = .next (oryPosted s n 0) ∧ exec (.clrCnt p n) s = .next (oryPosted s n 3) :=
  ⟨hostAct_open hw p _ _, hostAct_open hw p _ _⟩

theorem exec_oryLocked {s : State} (hw : s.takesWrites = true) (p : Path) (n : Fin 4) :
    exec (.reacq p n) s = .next (if s.locked 3 then s.lockViolation p (R.ORYn_CMD n) 1 (2 ^ 3) false else oryPosted s n 1) ∧
    exec (.setpos p n) s = .next (if s.locked 3 then s.lockViolation p (R.ORYn_CMD n) 2 (2 ^ 3) false else oryPosted s n 2) :=
  ⟨hostAct_open hw p (R.ORYn_CMD n) (fun s => s.lockedCommand p (R.ORYn_CMD n) 3 1 (fun s => s.oCmdPost n 1)),
    hostAct_open hw p (R.ORYn_CMD n) (fun s => s.lockedCommand p (R.ORYn_CMD n) 3 2 (fun s => s.oCmdPost n 2))⟩

theorem oryWritesComplete_holds : oryWritesComplete := by
  intro p n s hw
  have hl := loading_of_writes hw
  obtain ⟨h1, h2⟩ := exec_oryCmd hw p n
  obtain ⟨h3, h4⟩ := exec_oryLocked hw p n
  have hfr : ∀ v, State.sameBlocks s (s.lockViolation p (R.ORYn_CMD n) v (2 ^ 3) false) := fun v =>
    (lockViolation_frame (os := violRegs) (Frame.refl _ s) hl (fun _ h => h) p (R.ORYn_CMD n) v (2 ^ 3) false).blocks
  have hct : ∀ v, _ := fun v => lockViolation_counts hl p (R.ORYn_CMD n) v (2 ^ 3) false
  refine ⟨h1, h2, fun hf => ?_, fun ht => ?_⟩
  · rw [if_neg (by rw [hf]; decide)] at h3 h4
    exact ⟨h3, h4⟩
  · rw [if_pos ht] at h3 h4
    exact ⟨⟨_, h3, (hct 1).1, (hct 1).2, hfr 1⟩, ⟨_, h4, (hct 2).1, hfr 2⟩⟩

/-! ### The tick in which a command executes -/

/-- The registers of an Orrery but for those listed. -/
theorem oryRegs_others {os l : List Nat} {n : Fin 4} {x : Orrery} {s e t : State} (h : OryFrame os n x s e) (hos : ∀ o ∈ os, o ∈ l)
    (ht : ∀ o, 0x10000 ≤ o ∧ o < 0x14000 → t.reg o = e.reg o) :
    ∀ a, R.ORYn_CTRL n ≤ a → a < R.ORYn_CTRL n + 0x1000 → a ∉ l → t.reg a = s.reg a := fun a h1 h2 h3 => by
  have hp : 0x10000 ≤ a ∧ a < 0x14000 := by
    unfold R.ORYn_CTRL at h1 h2
    have := n.isLt
    omega
  exact (ht a hp).trans (h.regs a (oryPage_reports a hp.1) (fun hm => h3 (hos a hm)))

/-- No command waits at an Orrery any more, and nothing else that is due in the next tick. -/
def notDue (s e : State) (n : Fin 4) : Prop := e.ory[n].cmds = [] ∧ e.ory[n].qwait = none ∧ ∀ b ∈ e.ory[n].bcs, s.spine.tick + 1 < b.due

theorem noBroadcast {s : State} (l : List OryBcast) (h : l = []) : ∀ b ∈ l, s.spine.tick + 1 < b.due := fun _ hb => absurd (h ▸ hb) (List.not_mem_nil)

theorem oCommand_done {s : State} {n : Fin 4} (hq : s.ory[n].qwait = none) (hb : s.ory[n].bcs = []) (op : Nat) :
    let e := (s.modOry n (fun o => { o with cmds := [] })).oCommand n op
    notDue s e n ∧ ∀ t : State, t.ory[n] = e.ory[n] → (∀ o, 0x10000 ≤ o ∧ o < 0x14000 → t.reg o = e.reg o) → oryDone s t n op := by
  obtain ⟨hstat, hevt, herr, herr2⟩ := mem_oryCmdRegs n
  obtain ⟨m, hm⟩ : ∃ m, m = s.modOry n (fun o => { o with cmds := [] }) := ⟨_, rfl⟩
  have hmo : OryFrame (oryCmdRegs n) n { s.ory[n] with cmds := [] } s m := hm ▸ modOry_oryFrame _ n s _
  have hmn : ∀ l, OryFrame l n { s.ory[n] with cmds := [] } s m := fun l => hm ▸ modOry_oryFrame _ n s _
  have href : ∀ a : State, (a.oCmdDone n true).ron (F.ORYn_STAT_CMD_REF n) = false := fun a =>
    congrArg (· != 0) (rget_rput_same a (F.ORYn_STAT_CMD_REF n) 0 (show 18 + 1 ≤ 32 by decide))
  have hpage : ∀ o ∈ oryCmdRegs n, 0x10000 ≤ o ∧ o < 0x14000 := fun o ho => by
    simp only [oryCmdRegs, R.ORYn_STAT, R.ORYn_EVT, R.ORYn_ERRCNT, R.ORYn_ERRCNT2, List.mem_cons, List.not_mem_nil, or_false] at ho
    have := n.isLt
    omega
  rw [← hm]
  match op with
  | 0 =>
    have hf := (hmn [R.ORYn_STAT n]).rput (f := F.ORYn_STAT_CMD_REF n) 0 List.mem_cons_self
    refine ⟨?_, fun t ho hr => ?_⟩
    · unfold notDue
      rw [show (m.oCommand n 0).ory[n] = _ from hf.self]
      exact ⟨rfl, hq, noBroadcast _ hb⟩
    · unfold oryDone
      refine ⟨fun _ => ⟨?_, ho.trans hf.self, oryRegs_others hf (fun _ h => h) hr⟩, fun h => absurd h (by decide), fun h => absurd h (by decide), fun h => absurd h (by decide)⟩
      exact (ron_of_reg (f := F.ORYn_STAT_CMD_REF n) (hr _ (hpage _ hstat))).trans (href m)
  | 1 =>
    have hsync : m.ory[n].sync = s.ory[n].sync := by rw [hmo.self]
    have hty : m.oType n = s.oType n := by rw [hm]; rfl
    have hlv : m.oLevels n = s.oLevels n := by rw [hm]; rfl
    by_cases hoff : s.ory[n].sync = .off
    · have he : m.oCommand n 1 = m.oCmdDone n true := by
        show m.oReacq n = _
        unfold State.oReacq
        rw [hsync, if_pos hoff]
      rw [he]
      have hf := hmo.oCmdDone hstat hevt true
      refine ⟨?_, fun t ho hr => ?_⟩
      · unfold notDue
        rw [hf.self]
        exact ⟨rfl, hq, noBroadcast _ hb⟩
      · unfold oryDone
        refine ⟨fun h => absurd h (by decide), fun h => absurd h (by decide), fun _ => ⟨?_, fun _ => ho.trans hf.self, fun h => absurd hoff h, fun h => absurd hoff h,
          fun j h => absurd hoff h, fun h => absurd hoff h⟩, fun h => absurd h (by decide)⟩
        exact (ron_of_reg (f := F.ORYn_STAT_CMD_REF n) (hr _ (hpage _ hstat))).trans (href m)
    · obtain ⟨y, hy, hyf, hy0, hy1, hy2⟩ := oRestart_shows hmo rfl hevt 2
      have he : m.oCommand n 1 = (m.oRestart n 2).oCmdDone n true := by
        show m.oReacq n = _
        unfold State.oReacq
        rw [hsync, if_neg hoff]
      rw [he]
      have hf := hyf.oCmdDone hstat hevt true
      rw [hty] at hy0 hy1 hy2
      rw [hlv] at hy1
      refine ⟨?_, fun t ho hr => ?_⟩
      · unfold notDue
        rw [hf.self]
        exact ⟨hy.cmds, hy.qwait, noBroadcast _ rfl⟩
      · have hto := ho.trans hf.self
        unfold oryDone
        refine ⟨fun h => absurd h (by decide), fun h => absurd h (by decide), fun _ => ⟨?_, fun h => absurd h hoff, fun _ => ?_, fun _ h => ?_,
          fun j _ h1 h2 => ?_, fun _ h => ?_⟩, fun h => absurd h (by decide)⟩
        · exact (ron_of_reg (f := F.ORYn_STAT_CMD_REF n) (hr _ (hpage _ hstat))).trans (href _)
        all_goals rw [hto]
        · exact ⟨hy.still, hy.back, hy.cyc, rfl, rfl⟩
        · exact hy0 h
        · exact hy1 j h1 h2
        · exact hy2 h
  | 2 =>
    have hhist : m.ory[n].hist = s.ory[n].hist := by rw [hmo.self]
    have hsync : m.ory[n].sync = s.ory[n].sync := by rw [hmo.self]
    have hrefused : (s.ory[n].hist = [] ∨ s.ory[n].sync = .off ∨ s.ory[n].sync = .acq) → m.oCommand n 2 = m.oCmdDone n false := fun h => by
      show m.oSetpos n = _
      unfold State.oSetpos
      dsimp only
      split
      · rfl
      case h_2 e l hl =>
        refine if_neg (fun hx => ?_)
        rw [hsync] at hx
        rcases h with h | h | h
        · rw [← hhist, hl] at h
          exact absurd h (by simp)
        · rw [h] at hx
          exact absurd hx (by decide)
        · rw [h] at hx
          exact absurd hx (by decide)
    by_cases hr : s.ory[n].hist = [] ∨ s.ory[n].sync = .off ∨ s.ory[n].sync = .acq
    · rw [hrefused hr]
      have hf := hmo.oCmdDone hstat hevt false
      have hd : m.oCmdDone n false = (m.rput (F.ORYn_STAT_CMD_REF n) 1).evt (F.ORYn_EVT_CFG_ERR_S n) := if_neg (by decide)
      refine ⟨?_, fun t ho ht => ?_⟩
      · unfold notDue
        rw [hf.self]
        exact ⟨rfl, hq, noBroadcast _ hb⟩
      · unfold oryDone
        refine ⟨fun h => absurd h (by decide), fun h => absurd h (by decide), fun h => absurd h (by decide), fun _ => ⟨fun _ => ⟨?_, ?_, ho.trans hf.self⟩, fun x xs h1 h2 => ?_⟩⟩
        · rw [ron_of_reg (f := F.ORYn_STAT_CMD_REF n) (ht _ (hpage _ hstat)), hd]
          rw [ron_of_reg (f := F.ORYn_STAT_CMD_REF n) (reg_evt (m.rput (F.ORYn_STAT_CMD_REF n) 1) (F.ORYn_EVT_CFG_ERR_S n) (oryPage_reports _ (hpage _ hstat).1)
            (by show R.ORYn_STAT n ≠ R.ORYn_EVT n; unfold R.ORYn_STAT R.ORYn_EVT; omega))]
          exact congrArg (· != 0) (rget_rput_same m (F.ORYn_STAT_CMD_REF n) 1 (show 18 + 1 ≤ 32 by decide))
        · rw [ron_of_reg (f := F.ORYn_EVT_CFG_ERR_S n) (ht _ (hpage _ hevt)), hd]
          exact ron_evt _ (F.ORYn_EVT_CFG_ERR_S n) rfl (show 11 + 1 ≤ 32 by decide) (oryPage_reports _ (hpage _ hevt).1)
        · rcases hr with h | h | h
          · rw [h] at h1; exact absurd h1 (by simp)
          · rw [h] at h2; exact absurd h2 (by decide)
          · rw [h] at h2; exact absurd h2 (by decide)
    · have hrun : s.ory[n].sync = .turn ∨ s.ory[n].sync = .rel ∨ s.ory[n].sync = .full := by
        cases hs : s.ory[n].sync with
        | off => exact absurd (.inr (.inl hs)) hr
        | acq => exact absurd (.inr (.inr hs)) hr
        | turn => exact .inl rfl
        | rel => exact .inr (.inl rfl)
        | full => exact .inr (.inr rfl)
      obtain ⟨x, xs, hx⟩ : ∃ x xs, s.ory[n].hist = x :: xs := by
        cases hh : s.ory[n].hist with
        | nil => exact absurd (.inl hh) hr
        | cons x xs => exact ⟨x, xs, rfl⟩
      obtain ⟨y, hyf, hy1, hy2, hy3, hyc, ⟨d, hy4⟩, hy5, hy6⟩ := oSetpos_shows hmo hstat hevt herr hx hrun
      have hopd : m.reg (R.ORYn_OPD n) = s.reg (R.ORYn_OPD n) ∧ m.calUser = s.calUser ∧ m.spine = s.spine ∧ m.rget (F.ORYn_ERRCNT_RESYNC n) = s.rget (F.ORYn_ERRCNT_RESYNC n) := by
        rw [hm]; exact ⟨rfl, rfl, rfl, rfl⟩
      obtain ⟨ho1, ho2, ho3, ho4⟩ := hopd
      rw [ho1, ho2] at hy4
      rw [ho3] at hyf
      rw [ho4] at hy6
      rw [show m.oCommand n 2 = m.oSetpos n from rfl]
      refine ⟨?_, fun t ho ht => ?_⟩
      · unfold notDue
        rw [hyf.self]
        refine ⟨hyc, hy3.trans hq, fun b hbm => ?_⟩
        rw [show ({ s.ory[n] with cmds := [] } : Orrery).bcs = [] from hb, List.nil_append] at hbm
        rw [List.mem_singleton.1 hbm]
        show s.spine.tick + 1 < s.spine.tick + 20
        omega
      · have hto := ho.trans hyf.self
        unfold oryDone
        refine ⟨fun h => absurd h (by decide), fun h => absurd h (by decide), fun h => absurd h (by decide), fun _ => ⟨fun h => absurd h hr, fun x' xs' h1 _ => ?_⟩⟩
        obtain ⟨rfl, rfl⟩ : x = x' ∧ xs = xs' := by
          rw [hx] at h1
          exact List.cons.inj h1
        refine ⟨?_, ?_, ?_, ⟨?_, ?_⟩, ⟨{ x with base := ((s.reg (R.ORYn_OPD n)).toNat + 2 ^ 32 - (s.calUser (0xD5 + 8 * n.val)).toNat % 2 ^ 24) % 2 ^ 32, dnext := d }, ?_, rfl,
          oZero_setpos s n _⟩⟩
        · exact (ron_of_reg (f := F.ORYn_STAT_CMD_REF n) (ht _ (hpage _ hstat))).trans hy5
        · rw [hto]; exact hy1
        · exact (rget_of_reg (f := F.ORYn_ERRCNT_RESYNC n) (ht _ (hpage _ herr))).trans hy6
        · rw [hto]; rfl
        · rw [hto]; exact hy2
        · rw [hto]; exact hy4
  | k + 3 =>
    have hf : OryFrame [R.ORYn_STAT n, R.ORYn_ERRCNT n, R.ORYn_ERRCNT2 n] n { s.ory[n] with cmds := [] } s (m.oClrCnt n) :=
      (((hmn _).setReg (o := R.ORYn_ERRCNT n) 0 (by simp)).setReg (o := R.ORYn_ERRCNT2 n) 0 (by simp)).rput (f := F.ORYn_STAT_CMD_REF n) 0 List.mem_cons_self
    refine ⟨?_, fun t ho hr => ?_⟩
    · unfold notDue
      rw [show (m.oCommand n (k + 3)).ory[n] = _ from hf.self]
      exact ⟨rfl, hq, noBroadcast _ hb⟩
    · unfold oryDone
      refine ⟨fun h => absurd h (by omega), fun _ => ⟨?_, ?_, ?_, ho.trans hf.self, oryRegs_others hf (fun _ h => h) hr⟩, fun h => absurd h (by omega), fun h => absurd h (by omega)⟩
      · refine (hr _ (hpage _ herr)).trans ?_
        show (State.rput _ _ _).reg _ = _
        rw [reg_rput_ne _ _ (by show R.ORYn_ERRCNT n ≠ R.ORYn_STAT n; unfold R.ORYn_ERRCNT R.ORYn_STAT; omega), reg_setReg_ne _ _ (by unfold R.ORYn_ERRCNT R.ORYn_ERRCNT2; omega),
          reg_setReg_same]
      · refine (hr _ (hpage _ herr2)).trans ?_
        show (State.rput _ _ _).reg _ = _
        rw [reg_rput_ne _ _ (by show R.ORYn_ERRCNT2 n ≠ R.ORYn_STAT n; unfold R.ORYn_ERRCNT2 R.ORYn_STAT; omega), reg_setReg_same]
      · exact (ron_of_reg (f := F.ORYn_STAT_CMD_REF n) (hr _ (hpage _ hstat))).trans (href _)

theorem oryDone_congr {s s' t : State} {n : Fin 4} {op : Nat} (ho : s'.ory = s.ory) (hr : s'.regs = s.regs) (hs : s'.spine = s.spine) (hc : s'.ch = s.ch) (hu : s'.calU = s.calU)
    (h : oryDone s' t n op) : oryDone s t n op := by
  have hreg : ∀ o, s'.reg o = s.reg o := fun o => congrArg (fun r => tblGet resetWord r o) hr
  have hrget : ∀ f, s'.rget f = s.rget f := fun f => rget_of_reg (hreg _)
  have hty : s'.oType n = s.oType n := hrget _
  have hlv : s'.oLevels n = s.oLevels n := by
    unfold State.oLevels State.oInput
    simp only [hrget, hc]
  have hz : ∀ b, s'.oZero n b = s.oZero n b := fun b => by
    unfold State.oZero State.calUser
    rw [hu]
  unfold oryDone broadcasts countedOne at h ⊢
  simp only [ho, hreg, hrget, hty, hlv, hz, hs] at h
  exact h

theorem oryCommandsExecute_holds : oryCommandsExecute := by
  intro n k op s hw hcam hcmds
  obtain ⟨hpend, hcount, hpow, hfro, hslew, hslow, hold, hregs, hwords, hreqs, hv, hswap, hconv, hch, hlh, hroot, hory⟩ := hw
  have he : s.takesEvents = true := (takesEvents_iff s).2 ⟨hpow, hfro⟩
  obtain ⟨w, ht⟩ := pllTick_moves he hcount
  obtain ⟨a, ha⟩ : ∃ a, a = ({ s with pw := w } : State) := ⟨_, rfl⟩
  have hplain : plainTick a := by rw [ha]; exact ⟨hslow, hreqs, hv⟩
  have halone : WorksAlone a n := by
    rw [ha]
    refine ⟨fun c => (hch c).2.2.1, hslew, fun m => ?_, fun m hm => ((hory m).2.2 hm).2, hregs, hwords⟩
    by_cases hm : m = n
    · rw [hm]; exact hcam
    · exact ((hory m).2.2 hm).1
  have hend := tickEnd_alone halone
  have hwi : Within (.orrery n) a (a.oCmdRun n) := oCmdRun_pin (within_closed _) a n rfl (.refl _ a)
  have hrun := oCmdRun_one (s := a) (n := n) (k := k) (op := op) (by rw [ha]; exact hcmds) (by rw [ha]; exact (hory n).1)
  obtain ⟨hnd, hdone⟩ := oCommand_done (s := a) (n := n) (by rw [ha]; exact (hory n).1) (by rw [ha]; exact (hory n).2.1) op
  have hao : a.ory = s.ory := by rw [ha]
  have hat : a.spine.tick = s.spine.tick := by rw [ha]
  have hdue : (a.oCmdRun n).ory[n].qwait = none ∧ ∀ b ∈ (a.oCmdRun n).ory[n].bcs, a.spine.tick + 1 < b.due := by
    by_cases hk : k < a.spine.tick
    · rw [hrun.1 hk]; exact hnd.2
    · rw [hrun.2 (by omega), hao]
      exact ⟨(hory n).1, noBroadcast _ (hory n).2.1⟩
  have hq : ∀ m : Fin 4, a.tickEnd.ory[m].qwait = none ∧ ∀ b ∈ a.tickEnd.ory[m].bcs, a.spine.tick + 1 < b.due := fun m => by
    rw [hend]
    by_cases hm : m = n
    · rw [hm]; exact hdue
    · rw [hwi.ory m hm, hao, (hory m).2.1]
      exact ⟨(hory m).1, fun b hb => absurd hb (List.not_mem_nil)⟩
  have hown : ∀ c : Fin 96, a.tickEnd.ch[c].own = [] := fun c => by
    rw [hend, hwi.chs (fun hx => hx) (fun _ hx => hx), ha]
    exact (hch c).1
  obtain ⟨ho, hr⟩ := plainTick_ory hplain (fun m => (hq m).1) (fun m => (hq m).2) hown
  rw [hend] at ho hr
  refine ⟨a.tickMove 0, (idleStepIsATick s hpend).trans (congrArg _ (by rw [ht, ha])), ?_, fun m hm => ?_, fun hk => ?_, fun hk => ?_⟩
  · rw [(plainTick_calm hplain).2.2.1, hat]
  · rw [ho, hwi.ory m hm, hao]
  · rw [hrun.1 (by omega)] at ho hr
    have hd := hdone _ (ho n) hr
    exact ⟨by rw [ho]; exact hnd.1, oryDone_congr (by rw [ha]) (by rw [ha]) (by rw [ha]) (by rw [ha]) (by rw [ha]) hd⟩
  · rw [ho, hrun.2 (by omega), hao]

/-- Settles O34: a command that waits executes at the tick's end, behind which nothing at its Orrery is due. -/
theorem orreryCommands : Obligations.OrreryCommands := ⟨oryWritesComplete_holds, oryCommandsExecute_holds⟩

end Sys2Proof
end

section
/-!
SUPPORT. The ephemeris table: what a change, a drop and a commit of an entry make of it, and of the compare that takes it (R108, R110).
-/
set_option Elab.async false
namespace Sys2Proof.Machine
open Sys2Proof

/-! ### The table -/

/-- The entries of a table with those of a slot changed. -/
def onSlot (slot : Nat) (f : EphEnt → EphEnt) (l : List EphEnt) : List EphEnt := l.map (fun y => if y.slot = slot then f y else y)

theorem onSlot_mem {slot : Nat} {f : EphEnt → EphEnt} {l : List EphEnt} {y : EphEnt} (h : y ∈ l) :
    (if y.slot = slot then f y else y) ∈ onSlot slot f l := List.mem_map_of_mem h

theorem onSlot_length (slot : Nat) (f : EphEnt → EphEnt) (l : List EphEnt) : (onSlot slot f l).length = l.length := List.length_map _

theorem onSlot_absent {slot : Nat} (f : EphEnt → EphEnt) {l : List EphEnt} (h : ∀ y ∈ l, y.slot ≠ slot) : onSlot slot f l = l :=
  (List.map_congr_left (fun y hy => if_neg (h y hy))).trans (List.map_id' l)

theorem ephMod_eph (s : State) (e : Fin 8) (slot : Nat) (f : EphEnt → EphEnt) : (s.ephMod e slot f).gaf[e].eph = onSlot slot f s.gaf[e].eph := by
  unfold State.ephMod
  split
  case h_1 h =>
    refine (onSlot_absent f (fun y hy => ?_)).symm
    have := List.find?_eq_none.1 h y hy
    simpa using this
  case h_2 x _ =>
    exact congrArg Gaffer.eph (gaf_modGaf_same s e (fun g => { g with eph := g.eph.map (fun y => if y.slot = slot then f y else y) }))

theorem ephMod_ch (s : State) (e : Fin 8) (slot : Nat) (f : EphEnt → EphEnt) : (s.ephMod e slot f).ch = s.ch := by
  unfold State.ephMod
  split <;> rfl

theorem wakeSpace_eph (s : State) (e d : Fin 8) (of : SpaceOf) : (s.wakeSpace e of).gaf[d].eph = s.gaf[d].eph :=
  (wakeSpace_pin (within_closed .quiet) s e of (.refl _ s)).eph (fun h => h) d

theorem wake_eph (s : State) (e d : Fin 8) (n : Fin 16) (bit : Nat) : (s.wake e n bit).gaf[d].eph = s.gaf[d].eph :=
  ((within_closed .quiet).wake s e n bit (.refl _ s)).eph (fun h => h) d

theorem reg_wakeSpace (s : State) (e : Fin 8) (of : SpaceOf) (o : Nat) : (s.wakeSpace e of).reg o = s.reg o :=
  pin_foldl (P := fun t : State => t.reg o = s.reg o) _ _ (fun t n ht => by
    split
    · rw [reg_wake, ht]
    · exact ht) rfl

/-- A dropped entry is gone from the table; no channel and no register changes. -/
theorem ephDrop_shows (s : State) (e : Fin 8) (slot : Nat) : (s.ephDrop e slot).gaf[e].eph = s.gaf[e].eph.filter (fun y => decide (y.slot ≠ slot)) ∧
    (s.ephDrop e slot).ch = s.ch ∧ ∀ o, (s.ephDrop e slot).reg o = s.reg o := by
  obtain ⟨a, ha⟩ : ∃ a, a = { s.modGaf e (fun g => { g with eph := g.eph.filter (fun y => y.slot ≠ slot) }) with
    sram := memWrW s.sram ((s.reg (R.Ge_EPH_BASE e)).toNat + 16 * slot + 8) (memRdW s.sram ((s.reg (R.Ge_EPH_BASE e)).toNat + 16 * slot + 8) &&& 0xFFFFFF7F) } := ⟨_, rfl⟩
  have h1 : a.gaf[e].eph = s.gaf[e].eph.filter (fun y => decide (y.slot ≠ slot)) := by
    rw [ha]
    exact congrArg Gaffer.eph (gaf_modGaf_same s e (fun g => { g with eph := g.eph.filter (fun y => y.slot ≠ slot) }))
  have h2 : a.ch = s.ch := by rw [ha]; rfl
  have h3 : ∀ o, a.reg o = s.reg o := fun o => by rw [ha]; rfl
  have he : s.ephDrop e slot = if s.gaf[e].eph.length = 256 then a.wakeSpace e .ephemeris else a := by rw [ha]; rfl
  rw [he]
  split
  · exact ⟨(wakeSpace_eph a e e _).trans h1, (wakeSpace_ch a e _).trans h2, fun o => (reg_wakeSpace a e _ o).trans (h3 o)⟩
  · exact ⟨h1, h2, h3⟩

theorem latObserve_shows (s : State) (e : Fin 8) (w : Option Nat) : (s.latObserve e w).gaf[e].eph = s.gaf[e].eph ∧ (s.latObserve e w).ch = s.ch := by
  unfold State.latObserve
  split
  · exact ⟨rfl, rfl⟩
  case h_2 w =>
    dsimp only
    generalize min ((s.now - w + 63) / 64) 65535 = ns
    have h := gaf_modGaf_same (s.rput (F.Ge_LAT_MAX_OBS_MAX e) (max (s.rget (F.Ge_LAT_MAX_OBS_MAX e)) ns)) e
      (fun g => { g with obs := (s.spine.tick, ns) :: g.obs.filter (fun x => decide (ns < x.2)) })
    exact ⟨(congrArg Gaffer.eph h :), rfl⟩

theorem gafOf_chanOf (e : Fin 8) (i : Fin 12) : gafOf (chanOf e i) = e := Fin.ext (by unfold gafOf chanOf; dsimp only; omega)

theorem localOf_chanOf (e : Fin 8) (i : Fin 12) : localOf (chanOf e i) = i.val := by unfold localOf chanOf; dsimp only; omega

/-! ### A commit -/

/-- The entry that a compare holds is committed no more as an earlier one takes it. -/
def State.ephDisplaced (s : State) (c : Fin 96) (u : Bool) : State :=
  match (cmpOf s.ch[c] u).eph with
  | some o => if (cmpOf s.ch[c] u).armed then s.ephMod (gafOf c) o (fun z => { z with committed := false }) else s
  | none => s

/-- An entry is noted as committed, and the latency of its wake is observed. -/
def State.ephNoted (s : State) (c : Fin 96) (x : EphEnt) : State :=
  (s.ephMod (gafOf c) x.slot (fun z => { z with committed := true, woke := none })).latObserve (gafOf c) x.woke

theorem ephDisplaced_ch (s : State) (c : Fin 96) (u : Bool) : (s.ephDisplaced c u).ch = s.ch := by
  unfold State.ephDisplaced
  split
  · split
    · exact ephMod_ch _ _ _ _
    · rfl
  · rfl

theorem ephNoted_ch (s : State) (c : Fin 96) (x : EphEnt) : (s.ephNoted c x).ch = s.ch :=
  (latObserve_shows _ _ _).2.trans (ephMod_ch _ _ _ _)

theorem ephNoted_eph (s : State) (c : Fin 96) (x : EphEnt) :
    (s.ephNoted c x).gaf[gafOf c].eph = onSlot x.slot (fun z => { z with committed := true, woke := none }) s.gaf[gafOf c].eph :=
  (latObserve_shows _ _ _).1.trans (ephMod_eph _ _ _ _)

theorem ephNoted_within (s : State) (c : Fin 96) (u : Bool) (x : EphEnt) : Within (.unit c) s ((s.ephDisplaced c u).ephNoted c x) := by
  refine latObserve_pin (within_closed (.unit c)) _ _ _ trivial (ephMod_pin (within_closed (.unit c)) _ _ _ _ trivial ?_)
  unfold State.ephDisplaced
  split
  · exact pin_ite (ephMod_pin (within_closed (.unit c)) _ _ _ _ trivial (.refl _ s)) (.refl _ s)
  · exact .refl _ s

/-- A compare as its owner loads it. -/
theorem loadCmp_shows (s : State) (c : Fin 96) (u : Bool) (target act : Nat) (recEn : Bool) (tag : Nat) (fifo wake : Bool) (eph : Option Nat) :
    let t := s.loadCmp c u target act recEn tag fifo wake eph
    cmpOf t.ch[c] u = ⟨true, target, s.tLaunch c - s.dueD c target, act, recEn, tag, fifo, wake, none, decide (0 < s.dueD c target) && s.held c, eph⟩ ∧
      t.ch[c].ol = s.ch[c].ol ∧ t.gaf = s.gaf ∧ (s.dueD c target ≤ 0 → t.behind c u = false) := by
  refine ⟨modCmp_same s c u _, (modCmp_cell s c u _).1, rfl, fun hd => ?_⟩
  unfold State.behind State.loadCmp
  dsimp only
  rw [modCmp_same, (modCmp_within s c u _).tLaunch]
  show (true && decide (s.tLaunch c - s.dueD c target < s.tLaunch c) && _) = false
  rw [decide_eq_false (by omega), Bool.and_false, Bool.false_and]

/-- The earliest entry of a queue takes its compare, which has no target that is to fire first. -/
theorem ephCommit_takes {s : State} {e : Fin 8} {c : Fin 96} (hc : gafOf c = e) {u : Bool} {x : EphEnt} {xs : List EphEnt}
    (hq : s.ephQueue e (localOf c) (b2n u) = x :: xs)
    (hx : x.committed = false) (hl : s.launched c u = false) (hd : s.dueD c x.tgt ≤ 0) (k : Nat) :
    ∃ t, State.ephCommit (k + 1) s c u = t ∧ (cmpOf t.ch[c] u).armed = true ∧ (cmpOf t.ch[c] u).target = x.tgt ∧ (cmpOf t.ch[c] u).act = x.act ∧
      (cmpOf t.ch[c] u).due = false ∧ (cmpOf t.ch[c] u).eph = some x.slot ∧ t.ch[c].ol = s.ch[c].ol ∧
      t.gaf[e].eph = onSlot x.slot (fun z => { z with committed := true, woke := none }) (s.ephDisplaced c u).gaf[e].eph := by
  subst hc
  obtain ⟨a, ha⟩ : ∃ a, a = (s.ephDisplaced c u).ephNoted c x := ⟨_, rfl⟩
  have hw : Within (.unit c) s a := ha ▸ ephNoted_within s c u x
  have hch : a.ch = s.ch := by rw [ha, ephNoted_ch, ephDisplaced_ch]
  have heph : a.gaf[gafOf c].eph = onSlot x.slot (fun z => { z with committed := true, woke := none }) (s.ephDisplaced c u).gaf[gafOf c].eph := by
    rw [ha]; exact ephNoted_eph _ c x
  obtain ⟨h1, h2, h3, h4⟩ := loadCmp_shows a c u x.tgt x.act x.recEn x.tag false false (some x.slot)
  have hdue : a.dueD c x.tgt ≤ 0 := by rw [hw.dueD]; exact hd
  have he : State.ephCommit (k + 1) s c u = a.loadCmp c u x.tgt x.act x.recEn x.tag false false (some x.slot) := by
    unfold State.ephCommit
    dsimp only
    rw [hq]
    dsimp only
    rw [hx, if_neg (by decide), if_neg (fun hc => by rw [hl] at hc; exact absurd hc.2.1 (by decide))]
    refine (if_neg ?_).trans ?_
    · have := h4 hdue
      rw [ha] at this
      refine fun hb => absurd (this.symm.trans hb) (by decide)
    · rw [ha]
      rfl
  refine ⟨_, he, ?_⟩
  generalize a.loadCmp c u x.tgt x.act x.recEn x.tag false false (some x.slot) = t at h1 h2 h3 h4 he
  have hdec : (decide (0 < a.dueD c x.tgt) && a.held c) = false := by rw [decide_eq_false (by omega), Bool.false_and]
  refine ⟨by rw [h1], by rw [h1], by rw [h1], by rw [h1]; exact hdec, by rw [h1], h2.trans (by rw [hch]), by rw [h3, heph]⟩

end Sys2Proof.Machine
end

section
/-!
SUPPORT. The scheduler: which thread a free engine takes (R104).
-/
set_option Elab.async false
namespace Sys2Proof.Machine
open Sys2Proof

/-- The first number that meets a condition is the least one. -/
theorem find_finRange_least {N : Nat} {p : Fin N → Bool} {n : Fin N} (h : (List.finRange N).find? p = some n) : p n = true ∧ ∀ k, p k = true → n ≤ k := by
  obtain ⟨hn, as, bs, hl, has⟩ := List.find?_eq_some_iff_append.1 h
  refine ⟨hn, fun k hk => ?_⟩
  have hmem : k ∈ as ++ n :: bs := hl ▸ List.mem_finRange k
  have hsort : (as ++ n :: bs).Pairwise (· < ·) := hl ▸ List.pairwise_lt_finRange N
  rcases List.mem_append.1 hmem with h' | h'
  · have := has k h'
    rw [hk] at this
    exact absurd this (by decide)
  · rcases List.mem_cons.1 h' with rfl | h''
    · exact le_refl _
    · exact le_of_lt ((List.pairwise_cons.1 (List.pairwise_append.1 hsort).2.1).1 k h'')

/-- The first number of a turn that begins behind another one meets a condition within the fewest places. -/
theorem find_turn_nearest {p : Fin 16 → Bool} {l n : Fin 16} (h : ((List.finRange 16).map (fun i => l + 1 + i)).find? p = some n) :
    p n = true ∧ ∀ k, p k = true → (n - 1 - l).val ≤ (k - 1 - l).val := by
  rw [List.find?_map] at h
  obtain ⟨i, hi, rfl⟩ := Option.map_eq_some_iff.1 h
  obtain ⟨hp, hmin⟩ := find_finRange_least hi
  have h1 : ∀ k : Fin 16, l + 1 + (k - 1 - l) = k := fun k => by abel
  have h2 : l + 1 + i - 1 - l = i := by abel
  refine ⟨hp, fun k hk => ?_⟩
  rw [h2]
  exact hmin (k - 1 - l) (by rw [Function.comp_apply, h1]; exact hk)

theorem find_turn_none {p : Fin 16 → Bool} {l : Fin 16} (h : ((List.finRange 16).map (fun i => l + 1 + i)).find? p = none) (k : Fin 16) : p k = false := by
  have h1 : l + 1 + (k - 1 - l) = k := by abel
  have := List.find?_eq_none.1 h k (List.mem_map.2 ⟨k - 1 - l, List.mem_finRange _, h1⟩)
  simpa using this

section
variable {s : State} {e : Fin 8} {cls : Fin 4}

theorem pickClass_none (h : s.pickClass e cls = none) (m : Fin 16) (hm : (s.thr e m).state = .ready) : (s.thr e m).cls ≠ cls.val := fun hc => by
  unfold State.pickClass at h
  dsimp only at h
  split at h
  · cases h
  · have := find_turn_none h m
    rw [decide_eq_true hm, decide_eq_true hc] at this
    exact absurd this (by decide)

/-- The thread that a class gives: the one that keeps its place, else the one the fewest places behind the last one dispatched. -/
theorem pickClass_shows {n : Fin 16} (h : s.pickClass e cls = some n) : (s.thr e n).state = .ready ∧ (s.thr e n).cls = cls.val ∧
    (∀ k, (s.thr e k).state = .ready → (s.thr e k).cls = cls.val → (s.thr e k).keep = true → (s.thr e n).keep = true ∧ n ≤ k) ∧
    ((∀ k, (s.thr e k).state = .ready → (s.thr e k).cls = cls.val → (s.thr e k).keep = false) →
      ∀ k, (s.thr e k).state = .ready → (s.thr e k).cls = cls.val → placesBehind s e cls.val n ≤ placesBehind s e cls.val k) := by
  have hlast : ∀ k, placesBehind s e cls.val k = (k - 1 - s.gaf[e].last[cls]).val := fun k => by
    unfold placesBehind
    have : s.gaf[e].last.toList.getD cls.val 0 = s.gaf[e].last[cls] := by
      rw [List.getD_eq_getElem _ _ (by rw [Vector.length_toList]; exact cls.isLt), Vector.getElem_toList]
      rfl
    rw [this]
  unfold State.pickClass at h
  dsimp only at h
  split at h
  case h_1 m hm =>
    obtain rfl := Option.some.inj h
    obtain ⟨hp, hmin⟩ := find_finRange_least hm
    simp only [Bool.and_eq_true, decide_eq_true_eq] at hp hmin
    obtain ⟨⟨h1, h2⟩, h3⟩ := hp
    exact ⟨h1, h2, fun k hk hc hkeep => ⟨h3, hmin k ⟨⟨hk, hc⟩, hkeep⟩⟩,
      fun hno => absurd (h3.symm.trans (hno m h1 h2)) (by decide)⟩
  case h_2 hm =>
    obtain ⟨hp, hmin⟩ := find_turn_nearest h
    simp only [Bool.and_eq_true, decide_eq_true_eq] at hp hmin
    refine ⟨hp.1, hp.2, fun k hk hc hkeep => ?_, fun _ k hk hc => ?_⟩
    · have := List.find?_eq_none.1 hm k (List.mem_finRange k)
      simp only [hk, hc, hkeep, decide_true, Bool.and_self, not_true_eq_false] at this
    · rw [hlast, hlast]
      exact hmin k ⟨hk, hc⟩

end

/-- The thread that a free engine takes is of the highest class that has one. -/
theorem pickThread_shows {s : State} {e : Fin 8} {m : Fin 16} (hm : (s.thr e m).state = .ready) (hc : (s.thr e m).cls < 4) :
    ∃ k n, s.pickThread e = some (k, n) ∧ s.pickClass e k = some n ∧ k.val ≤ (s.thr e m).cls := by
  unfold State.pickThread
  cases hp : (List.finRange 4).findSome? (fun k => (s.pickClass e k).map (fun n => (k, n))) with
  | none =>
    have := List.findSome?_eq_none_iff.1 hp ⟨(s.thr e m).cls, hc⟩ (List.mem_finRange _)
    exact absurd rfl (pickClass_none (Option.map_eq_none_iff.1 this) m hm)
  | some x =>
    obtain ⟨as, k, bs, hl, hk, has⟩ := List.findSome?_eq_some_iff.1 hp
    obtain ⟨n, hn, rfl⟩ := Option.map_eq_some_iff.1 hk
    refine ⟨k, n, rfl, hn, ?_⟩
    have hmem : (⟨(s.thr e m).cls, hc⟩ : Fin 4) ∈ as ++ k :: bs := hl ▸ List.mem_finRange _
    have hsort : (as ++ k :: bs).Pairwise (· < ·) := hl ▸ List.pairwise_lt_finRange 4
    rcases List.mem_append.1 hmem with h' | h'
    · exact absurd rfl (pickClass_none (Option.map_eq_none_iff.1 (has _ h')) m hm)
    · rcases List.mem_cons.1 h' with h'' | h''
      · exact le_of_eq (congrArg Fin.val h''.symm)
      · exact le_of_lt ((List.pairwise_cons.1 (List.pairwise_append.1 hsort).2.1).1 _ h'')

theorem pickThread_none {s : State} {e : Fin 8} (h : ∀ m, (s.thr e m).state ≠ .ready) : s.pickThread e = none := by
  refine List.findSome?_eq_none_iff.2 (fun k _ => ?_)
  cases hp : s.pickClass e k with
  | none => rfl
  | some n => exact absurd (pickClass_shows hp).1 (h n)

/-! ### Dispatch -/

/-- A thread that the engine takes. -/
def Thread.dispatched (t : Thread) (now : Nat) : Thread :=
  let t : Thread := { t.waited now with state := .run, atSafe := false, keep := false, quantum := 0, starved := false }
  if t.park = .wait then { t with park := .none, wres := t.pend &&& t.mask, pend := t.pend &&& ~~~t.mask, pc := t.pc + 1 } else t

theorem waited_rest (t : Thread) (now : Nat) : t.waited now = { t with readySince := none, maxWait := longestWait t now } := by
  unfold Thread.waited longestWait
  cases h : t.readySince with
  | none =>
    dsimp only
    rw [← h]
  | some r => rfl

theorem Thread.dispatched_shows (t : Thread) (now : Nat) : (t.dispatched now).state = .run ∧ (t.dispatched now).readySince = none ∧
    (t.dispatched now).maxWait = longestWait t now ∧
    (if t.park = .wait then
      (t.dispatched now).wres = t.pend &&& t.mask ∧ (t.dispatched now).pend = t.pend &&& ~~~t.mask ∧
      (t.dispatched now).pc = t.pc + 1 ∧ (t.dispatched now).park = .none
    else (t.dispatched now).pend = t.pend ∧ (t.dispatched now).pc = t.pc ∧ (t.dispatched now).park = t.park) := by
  unfold Thread.dispatched
  rw [waited_rest]
  dsimp only
  split
  · exact ⟨rfl, rfl, rfl, rfl, rfl, rfl, rfl⟩
  · exact ⟨rfl, rfl, rfl, rfl, rfl, rfl⟩

theorem dispatchThread_eq (s : State) (e : Fin 8) (cls : Fin 4) (n : Fin 16) :
    s.dispatchThread e cls n = (s.modGaf e (fun g => { g with running := some n, last := g.last.set cls n, ran := true })).modThr e n
      (fun t => t.dispatched s.now) := rfl

theorem thr_modGaf {s : State} {e : Fin 8} {f : Gaffer → Gaffer} (hf : ∀ g, (f g).thr = g.thr) (k : Fin 16) : (s.modGaf e f).thr e k = s.thr e k := by
  unfold State.thr
  rw [gaf_modGaf_same, hf]

/-- What a dispatch makes of its Gaffer. -/
theorem dispatchThread_shows (s : State) (e : Fin 8) (cls : Fin 4) (n : Fin 16) : let t := s.dispatchThread e cls n
    t.gaf[e].running = some n ∧ t.gaf[e].last.toList.getD cls.val 0 = n ∧ t.thr e n = (s.thr e n).dispatched s.now ∧
      (∀ k, k ≠ n → t.thr e k = s.thr e k) ∧ (∀ o, t.reg o = s.reg o) ∧ State.sameBlocks { s with gaf := t.gaf } t := by
  intro t
  have hthr := fun k => thr_modGaf (s := s) (e := e) (f := fun g => { g with running := some n, last := g.last.set cls n, ran := true }) (fun _ => rfl) k
  have hg := gaf_modGaf_same s e (fun g => { g with running := some n, last := g.last.set cls n, ran := true })
  refine ⟨(running_modThr _ _ _ _).trans (congrArg Gaffer.running hg), ?_, (thr_modThr_same _ e n _).trans (congrArg (fun t => Thread.dispatched t s.now) (hthr n)),
    fun k hk => (thr_modThr_ne _ e _ hk).trans (hthr k), fun _ => rfl, sameBlocks_refl _⟩
  have hl : t.gaf[e].last = s.gaf[e].last.set cls n := by
    show ((s.modGaf e _).modThr e n _).gaf[e].last = _
    rw [State.modThr, gaf_modGaf_same, hg]
  rw [hl, List.getD_eq_getElem _ _ (by rw [Vector.length_toList]; exact cls.isLt), Vector.getElem_toList, Vector.getElem_set_self]

end Sys2Proof.Machine
end

section
/-!
SUPPORT. An entry of the ephemeris fires, and the next one takes its compare (R110).
-/
set_option Elab.async false
namespace Sys2Proof.Machine
open Sys2Proof

theorem launched_unarmed {s : State} {c : Fin 96} {u : Bool} (h : (cmpOf s.ch[c] u).armed = false) : s.launched c u = false := by
  unfold State.launched
  dsimp only
  rw [h]
  rfl

/-- A compare whose channel has no other one armed reaches its launch tick by itself. -/
theorem cmpReach_single {s : State} {c : Fin 96} {u : Bool} (h : (cmpOf s.ch[c] (!u)).armed = false) : s.cmpReach c u = s.cmpReachOne c u := by
  unfold State.cmpReach
  rw [if_neg]
  intro hc
  obtain ⟨hu, ha⟩ := Bool.and_eq_true_iff.1 hc
  obtain rfl := (Bool.and_eq_true_iff.1 hu).1
  exact absurd ((launched_unarmed h).symm.trans (launched_of_aFirst ha)) (by decide)

/-- An entry's compare fires: its entry is dropped, and the next one is committed. -/
theorem cmpReachOne_entry {s : State} {c : Fin 96} {u : Bool} {slot : Nat} (hl : s.launched c u = true) (hh : s.held c = false)
    (hf : (cmpOf s.ch[c] u).fifo = false) (hp : (cmpOf s.ch[c] u).place = none) (he : (cmpOf s.ch[c] u).eph = some slot) :
    s.cmpReachOne c u = State.ephCommit ephFuel ((s.fireTimely c u).ephDrop (gafOf c) slot) c u := by
  unfold State.cmpReachOne
  rw [if_neg (by rw [hl]; decide), if_neg (by rw [hh]; decide)]
  unfold State.afterFire State.ephFired
  simp only [hf, hp, he, Bool.false_eq_true, if_false, Option.isSome_none, Option.isSome_some, if_true]

end Sys2Proof.Machine
end

section
set_option Elab.async false
namespace Sys2Proof
open Sys2Proof.Machine

theorem entriesFollow_holds : entriesFollow := by
  intro e i u x y s hs c hl hh hf hp ho he hnd hq hy hd
  have hc : gafOf c = e := gafOf_chanOf e i
  obtain ⟨b, hb⟩ : ∃ b, b = s.fireTimely c u := ⟨_, rfl⟩
  have hfire := @fireTimely_shows s c u
  rw [← hb] at hfire
  obtain ⟨d, hdd⟩ : ∃ d, d = b.ephDrop e x.slot := ⟨_, rfl⟩
  obtain ⟨hde, hdc, hdr⟩ := ephDrop_shows b e x.slot
  rw [← hdd] at hde hdc hdr
  have heph : d.gaf[e].eph = s.gaf[e].eph.filter (fun z => decide (z.slot ≠ x.slot)) := by
    rw [hde, hfire.within.eph (fun h => h)]
  have hrun : exec (.compareFire c u) s = .next (State.ephCommit ephFuel d c u) := by
    rw [exec_compareFire hs c u, cmpReach_single ho, cmpReachOne_entry hl hh hf hp he, ← hb, hc, ← hdd]
  have hxy : y.slot ≠ x.slot := by
    have hsub : [x, y].Sublist s.gaf[e].eph := hq ▸ List.filter_sublist
    have := hnd.sublist (hsub.map EphEnt.slot)
    simp only [List.map_cons, List.map_nil, List.nodup_cons, List.mem_singleton] at this
    exact fun h => this.1 h.symm
  have hdq : d.ephQueue e (localOf c) (b2n u) = [y] := by
    rw [show localOf c = i.val from localOf_chanOf e i]
    unfold State.ephQueue at hq ⊢
    rw [heph, List.filter_filter]
    have : (s.gaf[e].eph.filter fun a => (!a.timer && decide (a.chan = i.val) && decide (a.unit = b2n u)) && decide (a.slot ≠ x.slot)) =
        [x, y].filter (fun z => decide (z.slot ≠ x.slot)) := by
      rw [← hq, List.filter_filter]
      exact List.filter_congr (fun a _ => Bool.and_comm _ _)
    rw [this]
    simp [hxy]
  have hspent : cmpOf d.ch[c] u = (cmpOf s.ch[c] u).spent := by rw [hdc]; exact hfire.cell.fired
  have hdl : d.launched c u = false := launched_unarmed (by rw [hspent]; rfl)
  have hw : Within (.unit c) s d := by
    rw [hdd]
    exact ephDrop_pin (within_closed (.unit c)) b e x.slot trivial (hfire.within.mono (cell_le_unit c))
  obtain ⟨t, ht, h1, h2, h3, h4, h5, h6, h7⟩ := ephCommit_takes hc hdq hy hdl (by rw [hw.dueD]; exact hd) 599
  have ht' : State.ephCommit ephFuel d c u = t := ht
  have hdis : d.ephDisplaced c u = d := by
    unfold State.ephDisplaced
    rw [hspent]
    rfl
  rw [hdis, heph] at h7
  have hmem : y ∈ s.gaf[e].eph.filter (fun z => decide (z.slot ≠ x.slot)) := by
    have : y ∈ s.ephQueue e i.val (b2n u) := by rw [hq]; exact List.mem_cons_of_mem _ List.mem_cons_self
    exact List.mem_filter.2 ⟨(List.mem_filter.1 this).1, decide_eq_true hxy⟩
  refine ⟨t, hrun.trans (congrArg _ ht'), ?_, fun z hz => ?_, ⟨h1, h2, h3, h4, h5, ?_⟩, ?_⟩
  · rw [← ht', hdd, hb]
    exact ephCommit_far _ _ _ _ (ephDrop_far _ _ _ (fireTimely_far _ _ _ (far_refl s)))
  · rw [h7] at hz
    obtain ⟨a, ha, rfl⟩ := List.mem_map.1 hz
    have := of_decide_eq_true (List.mem_filter.1 ha).2
    split
    · exact this
    · exact this
  · have hz := onSlot_mem (slot := y.slot) (f := fun z => { z with committed := true, woke := none }) hmem
    rw [if_pos rfl, ← h7] at hz
    exact ⟨_, hz, rfl, rfl, rfl⟩
  · rw [h6, hdc, hfire.cell.ol]
    rfl

theorem exec_timerDue {s : State} (hs : s.takesEvents = true) (e : Fin 8) : exec (.timerDue e) s = .next (s.timerDue e) := event_open hs (fun s => s.timerDue e)

theorem exec_dispatch {s : State} (hs : s.takesEvents = true) (e : Fin 8) : exec (.dispatch e) s = .next (s.dispatch e) := event_open hs (fun s => s.dispatch e)

theorem exec_threadStarve {s : State} (hs : s.takesEvents = true) (e : Fin 8) (n : Fin 16) : exec (.threadStarve e n) s = .next (s.threadStarve e n) :=
  event_open hs (fun s => s.threadStarve e n)

/-- Settles O21: the events of the scheduler and of the ephemeris. -/
theorem schedulerEvents : Obligations.SchedulerEvents := by
  refine ⟨entriesFollow_holds, fun e s hs => ⟨fun h => ?_, fun hon hfree m hm hcls => ?_, fun h => ?_, fun pre x rest hl hpre hx hdue => ?_, fun n => ⟨?_, ?_⟩⟩⟩
  · refine (exec_dispatch hs e).trans (congrArg _ ?_)
    unfold State.dispatch
    rcases h with h | h | h
    · rw [if_neg (fun hc => by rw [h] at hc; exact absurd hc.1 (by decide))]
    · rw [if_neg (fun hc => h hc.2)]
    · rw [pickThread_none h]
      exact ite_self s
  · obtain ⟨k, n, hpick, hclass, hle⟩ := pickThread_shows hm hcls
    obtain ⟨hready, hn, hkeep, hturn⟩ := pickClass_shows hclass
    have hd : s.dispatch e = s.dispatchThread e k n := by
      unfold State.dispatch
      rw [if_pos ⟨hon, hfree⟩, hpick]
    obtain ⟨h1, h2, h3, h4, h5, h6⟩ := dispatchThread_shows s e k n
    obtain ⟨d1, d2, d3, d4⟩ := (s.thr e n).dispatched_shows s.now
    refine ⟨_, n, (exec_dispatch hs e).trans (congrArg _ hd), h1, hready, hn ▸ hle, ?_, ?_, ?_, ?_, ?_, h4, h5, h6⟩
    · rw [hn]
      refine ⟨fun ⟨a, ha, hka⟩ => ⟨(hkeep a ha.1 ha.2 hka).1, fun b hb hkb => (hkeep b hb.1 hb.2 hkb).2⟩,
        fun hno b hb => hturn (fun a ha hca => hno a ⟨ha, hca⟩) b hb.1 hb.2, h2⟩
    · rw [h3]; exact d1
    · rw [h3]; exact d2
    · rw [h3]; exact d3
    · rw [h3]; exact d4
  · refine (exec_timerDue hs e).trans (congrArg _ ?_)
    unfold State.timerDue
    rw [List.find?_eq_none.2 (fun x hx => ?_)]
    intro hc
    obtain ⟨ht, hle⟩ := Bool.and_eq_true_iff.1 hc
    have := h x hx ht
    have := of_decide_eq_true hle
    omega
  · have hfind : s.gaf[e].eph.find? (fun x => x.timer && decide (x.tFull ≤ (s.now : Int))) = some x := by
      refine List.find?_eq_some_iff_append.2 ⟨by rw [hx, decide_eq_true hdue]; rfl, pre, rest, hl, fun y hy => ?_⟩
      cases ht : y.timer with
      | false => rfl
      | true =>
        have := hpre y hy ht
        rw [decide_eq_false (by omega)]
        rfl
    obtain ⟨a, ha⟩ : ∃ a, a = s.ephDrop e x.slot := ⟨_, rfl⟩
    have hrun : s.timerDue e = a.wake e ⟨x.thr % 16, by omega⟩ 5 := by
      unfold State.timerDue
      rw [hfind, ha]
    obtain ⟨h1, h2, h3⟩ := ephDrop_shows s e x.slot
    rw [← ha] at h1 h2 h3
    refine ⟨_, (exec_timerDue hs e).trans (congrArg _ hrun), (wake_eph a e e _ 5).trans h1, wake_pend a e _ (by decide), (wake_ch a e _ 5).trans h2,
      fun o => (reg_wake a e _ 5 o).trans (h3 o), ?_⟩
    rw [← hrun]
    exact timerDue_far _ _ (far_refl s)
  · intro r hr hus hst hsv hlt
    obtain ⟨a, ha⟩ : ∃ a, a = s.modThr e n (fun t => { t with starved := true }) := ⟨_, rfl⟩
    have hrun : s.threadStarve e n = (a.evt (F.Ge_EVT_STARVE_S e)).emit 0x1E 105 s.now 0
        (word (e.val + 16 * n.val + 256 * (s.thr e n).cls)) (word ((s.now - r) / 64000)) 0 0 := by
      unfold State.threadStarve
      rw [ha]
      dsimp only
      rw [hr]
      exact if_pos ⟨hus, hst, by rw [hsv]; decide, hlt⟩
    have hf : Frame [R.Ge_EVT e] a (s.threadStarve e n) := by
      rw [hrun]
      exact ((Frame.refl _ a).evt (f := F.Ge_EVT_STARVE_S e) List.mem_cons_self).emit _ _ _ _ _ _ _ _
    have hpage : reportReg (R.Ge_EVT e) = false := reportReg_of_page (by unfold R.Ge_EVT; omega)
    have hron : (s.threadStarve e n).ron (F.Ge_EVT_STARVE_S e) = true := by
      rw [hrun, ron_of_reg (f := F.Ge_EVT_STARVE_S e) (reg_emit _ _ _ _ _ _ _ _ _ hpage)]
      exact ron_evt _ _ rfl (by show (1 : Nat) + 1 ≤ 32; decide) hpage
    refine ⟨_, exec_threadStarve hs e n, ?_, hron, fun o hr ho => ?_, ?_⟩
    · rw [ha] at hf
      exact hf.thr_same
    · rw [hf.regs o hr ho, ha]
      rfl
    · rw [ha] at hf
      exact hf.onlyThread_modThr
  · intro h
    refine (exec_threadStarve hs e n).trans (congrArg _ ?_)
    unfold State.threadStarve
    dsimp only
    split
    case h_1 r hr =>
      refine if_neg (fun ⟨h1, h2, h3, h4⟩ => ?_)
      rcases h with h | h | h | h
      · exact h1 h
      · exact h h2
      · exact h3 h
      · have := h r hr
        omega
    · rfl

end Sys2Proof
end

section
/-!
SUPPORT. Inserts into the ephemeris table, and cancels (R109 to R111).
-/
set_option Elab.async false
namespace Sys2Proof.Machine
open Sys2Proof

/-! ### A new entry's place and slot -/

theorem ephPlace_perm (x : EphEnt) (l : List EphEnt) : (ephPlace x l).Perm (x :: l) := by
  induction l with
  | nil => exact List.Perm.refl _
  | cons y ys ih =>
    unfold ephPlace
    split
    · exact (ih.cons y).trans (List.Perm.swap x y ys)
    · exact List.Perm.refl _

theorem mem_ephPlace {x y : EphEnt} {l : List EphEnt} : y ∈ ephPlace x l ↔ y = x ∨ y ∈ l := (ephPlace_perm x l).mem_iff.trans List.mem_cons

theorem ephPlace_length (x : EphEnt) (l : List EphEnt) : (ephPlace x l).length = l.length + 1 := (ephPlace_perm x l).length_eq

/-- A new entry is alone in an empty queue. -/
theorem ephPlace_alone {x : EphEnt} {p : EphEnt → Bool} (hx : p x = true) {l : List EphEnt} (h : l.filter p = []) : (ephPlace x l).filter p = [x] := by
  have hp := (ephPlace_perm x l).filter p
  rw [List.filter_cons_of_pos hx, h] at hp
  exact List.perm_singleton.1 hp

/-- A new entry goes before the only one of its queue, which is later. -/
theorem ephPlace_before {x o : EphEnt} {p : EphEnt → Bool} (hx : p x = true) (hlt : x.tFull < o.tFull) {l : List EphEnt} (h : l.filter p = [o]) :
    (ephPlace x l).filter p = [x, o] := by
  induction l with
  | nil => cases h
  | cons y ys ih =>
    unfold ephPlace
    split
    case isTrue hy =>
      cases hp : p y with
      | true =>
        rw [List.filter_cons_of_pos hp] at h
        obtain rfl := (List.cons.inj h).1
        exact absurd hlt (by omega)
      | false =>
        rw [List.filter_cons_of_neg (by rw [hp]; decide)] at h ⊢
        exact ih h
    case isFalse hy => rw [List.filter_cons_of_pos hx, h]

/-- A table with room has a slot that no entry uses. -/
theorem ephSlot_fresh {l : List EphEnt} (h : l.length < 256) : ∀ x ∈ l, x.slot ≠ ephSlot l := by
  unfold ephSlot
  cases hf : (List.range 256).find? (fun k => l.all (fun x => x.slot ≠ k)) with
  | some k =>
    have := List.find?_some hf
    exact fun x hx => of_decide_eq_true (List.all_eq_true.1 this x hx)
  | none =>
    have hsub : List.range 256 ⊆ l.map EphEnt.slot := fun k hk => by
      have := List.find?_eq_none.1 hf k hk
      simp only [ne_eq, decide_not, List.all_eq_true, Bool.not_eq_true', decide_eq_false_iff_not, not_forall, not_not] at this
      obtain ⟨x, hx, he⟩ := this
      exact List.mem_map.2 ⟨x, hx, he⟩
    have hle := (List.nodup_range.subperm hsub).length_le
    rw [List.length_range, List.length_map] at hle
    omega

/-! ### An insert -/

/-- The new entry of an insert. -/
def State.ephNew (s : State) (e : Fin 8) (n : Fin 16) (q : EphReq) (tgt : Nat) : EphEnt :=
  ⟨ephSlot s.gaf[e].eph, tgt % 2 ^ 38, (s.now : Int) - s.ephD tgt, q.timer, q.chan, b2n q.unit, q.act, q.recEn, q.tag, n,
    decide (s.ephTest e n q tgt = .tight), false, q.angle, s.nowNs % 2 ^ 32, s.spine.tick,
    if !q.timer && (q.recEn || q.act != 0) then (s.thr e n).wokenAt else none⟩

/-- The state in which a new entry has joined the table. -/
def State.ephJoined (s : State) (e : Fin 8) (n : Fin 16) (q : EphReq) (tgt : Nat) : State :=
  let x := s.ephNew e n q tgt
  let s1 := (s.modGaf e (fun g => { g with eph := ephPlace x g.eph })).ephStore e x
  let s2 := if !q.timer && (q.recEn || q.act != 0) then s1.modThr e n (fun t => { t with wokenAt := none }) else s1
  let s3 := if s.ephTest e n q tgt = .tight then s2.rsat (F.Ge_EPH_CNT_TIGHT e) 1 else s2
  s3.rput (F.Ge_EPH_STAT_HIGH e) (max (s3.rget (F.Ge_EPH_STAT_HIGH e)) s3.gaf[e].eph.length)

/-- A state in which the table has been given entries, and nothing is changed that a launch turns on. -/
structure Joined (e : Fin 8) (l : List EphEnt) (s t : State) : Prop where
  eph : t.gaf[e].eph = l
  ch : t.ch = s.ch
  spine : t.spine = s.spine
  banks : t.banks = s.banks
  cal : t.calU = s.calU ∧ t.otp = s.otp
  regs : ∀ o, o ≠ R.Ge_EPH_CNT e → o ≠ R.Ge_EPH_STAT e → t.reg o = s.reg o

section
variable {e : Fin 8} {l : List EphEnt} {s t : State} (h : Joined e l s t)
include h

theorem Joined.modThr (n : Fin 16) (f : Thread → Thread) : Joined e l s (t.modThr e n f) :=
  ⟨by rw [State.modThr, gaf_modGaf_same]; exact h.eph, h.ch, h.spine, h.banks, h.cal, h.regs⟩

theorem Joined.rput {f : Fld} (hf : f.reg = R.Ge_EPH_CNT e ∨ f.reg = R.Ge_EPH_STAT e) (v : Nat) : Joined e l s (t.rput f v) :=
  ⟨h.eph, h.ch, h.spine, h.banks, h.cal, fun o h1 h2 => (reg_rput_ne t v (by rcases hf with hf | hf <;> rw [hf] <;> assumption)).trans (h.regs o h1 h2)⟩

theorem Joined.tLaunch (c : Fin 96) : t.tLaunch c = s.tLaunch c ∧ t.reg (R.CHc_PIN c) = s.reg (R.CHc_PIN c) ∧ t.reg R.SPN_RATE = s.reg R.SPN_RATE := by
  have h1 : t.reg (R.CHc_PIN c) = s.reg (R.CHc_PIN c) :=
    h.regs _ (by unfold R.CHc_PIN R.Ge_EPH_CNT; omega) (by unfold R.CHc_PIN R.Ge_EPH_STAT; omega)
  have h2 : t.reg R.SPN_RATE = s.reg R.SPN_RATE := h.regs _ (by unfold R.SPN_RATE R.Ge_EPH_CNT; omega) (by unfold R.SPN_RATE R.Ge_EPH_STAT; omega)
  exact ⟨tLaunch_congr h.spine h2 h1 h.banks h.cal.2, h1, h2⟩

theorem Joined.dueD (c : Fin 96) (target : Nat) : t.dueD c target = s.dueD c target := by
  simp only [State.dueD, (h.tLaunch c).1, State.outTrc, State.calUser, h.cal.1]

theorem Joined.launched (c : Fin 96) (u : Bool) : t.launched c u = s.launched c u := by
  obtain ⟨-, h1, h2⟩ := h.tLaunch c
  have hd : t.rget (F.CHc_PIN_DRV c) = s.rget (F.CHc_PIN_DRV c) := rget_of_reg h1
  have hc : t.calF c = s.calF c := by
    unfold State.calF
    rw [dif_pos c.isLt, dif_pos c.isLt, hd]
    simp only [State.calVolt, State.otpV, State.otpWord, h.banks, h.cal.2]
  have hm : t.moving = s.moving := by unfold State.moving; rw [h.spine]
  simp only [State.launched, hm, State.launchK, hc, tAhead_congr h.spine h2, h.ch]
  rfl

end

theorem ephJoined_joined (s : State) (e : Fin 8) (n : Fin 16) (q : EphReq) (tgt : Nat) :
    Joined e (ephPlace (s.ephNew e n q tgt) s.gaf[e].eph) s (s.ephJoined e n q tgt) := by
  unfold State.ephJoined
  generalize s.ephNew e n q tgt = x
  obtain ⟨a, ha⟩ : ∃ a, a = (s.modGaf e (fun g => { g with eph := ephPlace x g.eph })).ephStore e x := ⟨_, rfl⟩
  have h1 : Joined e (ephPlace x s.gaf[e].eph) s a := by
    have hg := congrArg Gaffer.eph (gaf_modGaf_same s e (fun g => { g with eph := ephPlace x g.eph }))
    rw [ha]
    exact ⟨hg, rfl, rfl, rfl, ⟨rfl, rfl⟩, fun _ _ _ => rfl⟩
  dsimp only
  rw [← ha]
  refine Joined.rput ?_ (.inr rfl) _
  split
  · refine Joined.rput ?_ (.inl rfl) _
    split
    · exact h1.modThr n _
    · exact h1
  · split
    · exact h1.modThr n _
    · exact h1

theorem RunsOn.rput {e : Fin 8} {n : Fin 16} {s t : State} (h : RunsOn e n s t) (f : Fld) (v : Nat) : RunsOn e n s (t.rput f v) := h.of_gaf rfl

theorem ephJoined_runs (s : State) (e : Fin 8) (n : Fin 16) (q : EphReq) (tgt : Nat) : RunsOn e n s (s.ephJoined e n q tgt) := by
  unfold State.ephJoined
  generalize s.ephNew e n q tgt = x
  obtain ⟨a, ha⟩ : ∃ a, a = (s.modGaf e (fun g => { g with eph := ephPlace x g.eph })).ephStore e x := ⟨_, rfl⟩
  have h1 : RunsOn e n s a := by
    rw [ha]
    exact RunsOn.of_gaf (RunsOn.modGaf (f := fun g => { g with eph := ephPlace x g.eph }) (fun _ => Runs.refl e n s) e (fun _ => ⟨rfl, rfl⟩)) rfl
  have h2 : RunsOn e n s (a.modThr e n (fun t => { t with wokenAt := none })) := fun hp => (h1 hp).modThr e n (fun _ => rfl) (fun _ => rfl)
  dsimp only
  rw [← ha]
  refine RunsOn.rput ?_ _ _
  split
  · refine RunsOn.rput ?_ _ _
    split
    · exact h2
    · exact h1
  · split
    · exact h2
    · exact h1

/-- An insert that is refused: counted, and reported where it is out of range or finds no room. -/
def State.ephTurned (s : State) (e : Fin 8) (r : EphRes) : State :=
  match r with
  | .range => (s.rsat (F.Ge_EPH_CNT_REFUSED e) 1).evt (F.Ge_EVT_EPH_RANGE_S e)
  | .full => (s.rsat (F.Ge_EPH_CNT_REFUSED e) 1).evt (F.Ge_EVT_EPH_FULL_S e)
  | _ => s.rsat (F.Ge_EPH_CNT_REFUSED e) 1

theorem ephTurned_frame (s : State) (e : Fin 8) (r : EphRes) : Frame [R.Ge_EPH_CNT e, R.Ge_EVT e] s (s.ephTurned e r) := by
  have h := (Frame.refl [R.Ge_EPH_CNT e, R.Ge_EVT e] s).rsat (f := F.Ge_EPH_CNT_REFUSED e) 1 List.mem_cons_self
  have hm : R.Ge_EVT e ∈ [R.Ge_EPH_CNT e, R.Ge_EVT e] := List.mem_cons_of_mem _ List.mem_cons_self
  unfold State.ephTurned
  split
  · exact h.evt (f := F.Ge_EVT_EPH_RANGE_S e) hm
  · exact h.evt (f := F.Ge_EVT_EPH_FULL_S e) hm
  · exact h

/-- A refused insert is counted. -/
theorem ephTurned_counts (s : State) (e : Fin 8) (r : EphRes) : (s.ephTurned e r).rget (F.Ge_EPH_CNT_REFUSED e) =
    min (s.rget (F.Ge_EPH_CNT_REFUSED e) + 1) (2 ^ (F.Ge_EPH_CNT_REFUSED e).width - 1) := by
  have h : (s.rsat (F.Ge_EPH_CNT_REFUSED e) 1).rget (F.Ge_EPH_CNT_REFUSED e) = _ := rget_rsat_same s (F.Ge_EPH_CNT_REFUSED e) 1 (by decide : (0 : Nat) + 16 ≤ 32)
  have hr : reportReg (R.Ge_EPH_CNT e) = false := reportReg_of_page (by unfold R.Ge_EPH_CNT; omega)
  have hne : R.Ge_EPH_CNT e ≠ R.Ge_EVT e := by unfold R.Ge_EPH_CNT R.Ge_EVT; omega
  unfold State.ephTurned
  split
  · exact (rget_evt_ne _ (f := F.Ge_EVT_EPH_RANGE_S e) (g := F.Ge_EPH_CNT_REFUSED e) hr hne).trans h
  · exact (rget_evt_ne _ (f := F.Ge_EVT_EPH_FULL_S e) (g := F.Ge_EPH_CNT_REFUSED e) hr hne).trans h
  · exact h

theorem ephInsert_refuses {s : State} {e : Fin 8} {n : Fin 16} {q : EphReq} {tgt : Nat}
    (h : s.ephTest e n q tgt = .own ∨ s.ephTest e n q tgt = .quota ∨ s.ephTest e n q tgt = .range ∨ s.ephTest e n q tgt = .full) :
    s.ephInsert e n q tgt = (s.ephTurned e (s.ephTest e n q tgt), s.ephTest e n q tgt) := by
  unfold State.ephInsert
  dsimp only
  rcases h with h | h | h | h <;> rw [h] <;> rfl

theorem ephTest_results (s : State) (e : Fin 8) (n : Fin 16) (q : EphReq) (tgt : Nat) : let r := s.ephTest e n q tgt
    r = .own ∨ r = .quota ∨ r = .range ∨ r = .full ∨ r = .behind ∨ r = .ok ∨ r = .tight := by
  unfold State.ephTest
  dsimp only
  split
  · exact .inl rfl
  split
  · exact .inr (.inr (.inl rfl))
  split
  · exact .inr (.inr (.inr (.inr (.inl rfl))))
  split
  · exact .inr (.inl rfl)
  split
  · exact .inr (.inr (.inr (.inl rfl)))
  split
  · exact .inr (.inr (.inr (.inr (.inl rfl))))
  split
  · exact .inr (.inr (.inr (.inr (.inr (.inr rfl)))))
  · exact .inr (.inr (.inr (.inr (.inr (.inl rfl)))))

/-- An insert that is taken finds room in the table. -/
theorem ephTest_room {s : State} {e : Fin 8} {n : Fin 16} {q : EphReq} {tgt : Nat} (h : s.ephTest e n q tgt = .ok ∨ s.ephTest e n q tgt = .tight) :
    s.gaf[e].eph.length < 256 := by
  by_contra hn
  unfold State.ephTest at h
  dsimp only at h
  rw [if_pos (show 256 ≤ s.gaf[e].eph.length by omega)] at h
  rcases h with h | h
  all_goals
    split at h
    · cases h
    split at h
    · cases h
    split at h
    · cases h
    split at h <;> cases h

theorem ephInsert_wakes {s : State} {e : Fin 8} {n : Fin 16} {q : EphReq} {tgt : Nat} (hq : q.timer = true) (h : s.ephTest e n q tgt = .behind) :
    s.ephInsert e n q tgt = (s.wake e n 5, .behind) := by
  unfold State.ephInsert
  dsimp only
  rw [h]
  dsimp only
  exact if_pos ⟨hq, rfl⟩

theorem ephInsert_joins {s : State} {e : Fin 8} {n : Fin 16} {q : EphReq} {tgt : Nat}
    (h : s.ephTest e n q tgt = .ok ∨ s.ephTest e n q tgt = .tight ∨ (s.ephTest e n q tgt = .behind ∧ q.timer = false)) :
    s.ephInsert e n q tgt = (if q.timer then s.ephJoined e n q tgt else State.ephCommit ephFuel (s.ephJoined e n q tgt) (chanOf e q.chan) q.unit,
      s.ephTest e n q tgt) := by
  unfold State.ephInsert State.ephJoined State.ephNew
  dsimp only
  rcases h with h | h | ⟨h, hq⟩
  · rw [h]; dsimp only; exact if_neg (fun hc => by cases hc.2)
  · rw [h]; dsimp only; exact if_neg (fun hc => by cases hc.2)
  · rw [h]; dsimp only; exact if_neg (fun hc => by rw [hq] at hc; exact absurd hc.1 (by decide))

theorem ephInsert_answers (s : State) (e : Fin 8) (n : Fin 16) (q : EphReq) (tgt : Nat) : (s.ephInsert e n q tgt).2 = s.ephTest e n q tgt := by
  have hres := ephTest_results s e n q tgt
  by_cases hr : s.ephTest e n q tgt = .own ∨ s.ephTest e n q tgt = .quota ∨ s.ephTest e n q tgt = .range ∨ s.ephTest e n q tgt = .full
  · rw [ephInsert_refuses hr]
  · by_cases hb : q.timer = true ∧ s.ephTest e n q tgt = .behind
    · rw [ephInsert_wakes hb.1 hb.2, hb.2]
    · rw [ephInsert_joins ?_]
      cases hq : q.timer with
      | true => simp_all
      | false => simp only [and_true]; tauto

theorem ephInsert_runs (s : State) (e : Fin 8) (n : Fin 16) (q : EphReq) (tgt : Nat) : RunsOn e n s (s.ephInsert e n q tgt).1 := by
  have hcl := runsOn_closed .all e n
  by_cases hr : s.ephTest e n q tgt = .own ∨ s.ephTest e n q tgt = .quota ∨ s.ephTest e n q tgt = .range ∨ s.ephTest e n q tgt = .full
  · rw [ephInsert_refuses hr]
    exact RunsOn.of_gaf (fun _ => Runs.refl e n s) (ephTurned_frame s e _).core.gaf
  · by_cases hb : q.timer = true ∧ s.ephTest e n q tgt = .behind
    · rw [ephInsert_wakes hb.1 hb.2]
      exact RunsOn.wake (fun _ => Runs.refl e n s) e n 5
    · have hres := ephTest_results s e n q tgt
      rw [ephInsert_joins (by cases hq : q.timer with
        | true => simp_all
        | false => simp only [and_true]; tauto)]
      exact pin_ite (ephJoined_runs s e n q tgt) (ephCommit_pin hcl _ _ _ _ trivial trivial trivial (ephJoined_runs s e n q tgt))

/-! ### Removals -/

/-- What a removal leaves: entries that were there and whose slot no entry that it names has. -/
theorem ephRemove_shows (s : State) (e : Fin 8) (p : EphEnt → Bool) :
    (∀ y ∈ (s.ephRemove e p).gaf[e].eph, y ∈ s.gaf[e].eph ∧ ∀ x ∈ s.gaf[e].eph, p x = true → y.slot ≠ x.slot) ∧ (s.ephRemove e p).ch = s.ch := by
  have hfold : ∀ (xs : List EphEnt) (t : State), (∀ y ∈ (xs.foldl (fun s x => s.ephDrop e x.slot) t).gaf[e].eph, y ∈ t.gaf[e].eph ∧ ∀ x ∈ xs, y.slot ≠ x.slot) ∧
      (xs.foldl (fun s x => s.ephDrop e x.slot) t).ch = t.ch := by
    intro xs
    induction xs with
    | nil => exact fun t => ⟨fun y hy => ⟨hy, nofun⟩, rfl⟩
    | cons x xs ih =>
      intro t
      obtain ⟨h1, h2, -⟩ := ephDrop_shows t e x.slot
      obtain ⟨i1, i2⟩ := ih (t.ephDrop e x.slot)
      refine ⟨fun y hy => ?_, i2.trans h2⟩
      obtain ⟨hm, hs⟩ := i1 y hy
      rw [h1] at hm
      obtain ⟨hm, hne⟩ := List.mem_filter.1 hm
      exact ⟨hm, List.forall_mem_cons.2 ⟨of_decide_eq_true hne, hs⟩⟩
  obtain ⟨h1, h2⟩ := hfold (s.gaf[e].eph.filter p) s
  exact ⟨fun y hy => ⟨(h1 y hy).1, fun x hx hp => (h1 y hy).2 x (List.mem_filter.2 ⟨hx, hp⟩)⟩, h2⟩

/-- A removal leaves no entry that it names. -/
theorem ephRemove_clears (s : State) (e : Fin 8) (p : EphEnt → Bool) : ∀ y ∈ (s.ephRemove e p).gaf[e].eph, p y = false := fun y hy => by
  obtain ⟨hm, hs⟩ := (ephRemove_shows s e p).1 y hy
  cases hp : p y with
  | false => rfl
  | true => exact absurd rfl (hs y hm hp)

/-! ### No commit brings an entry back -/

/-- No entry of a table meets a condition. -/
def Cleared (e : Fin 8) (p : EphEnt → Bool) (s : State) : Prop := ∀ y ∈ s.gaf[e].eph, p y = false

section
variable {e : Fin 8} {p : EphEnt → Bool} {s t : State}

theorem Cleared.of_eph (h : Cleared e p s) (he : t.gaf[e].eph = s.gaf[e].eph) : Cleared e p t := fun y hy => h y (he ▸ hy)

theorem Cleared.within {D : Reach} (h : Cleared e p s) (hw : Within D s t) (hD : ¬ D.eph) : Cleared e p t := h.of_eph (hw.eph hD e)

theorem Cleared.ephMod (h : Cleared e p s) (slot : Nat) {f : EphEnt → EphEnt} (hf : ∀ y, p (f y) = p y) : Cleared e p (s.ephMod e slot f) := fun y hy => by
  rw [ephMod_eph] at hy
  obtain ⟨x, hx, rfl⟩ := List.mem_map.1 hy
  split
  · rw [hf, h x hx]
  · exact h x hx

theorem Cleared.ephFired (h : Cleared e p s) {c : Fin 96} (hc : gafOf c = e) (slot : Option Nat) (late : Bool) : Cleared e p (s.ephFired c slot late) := by
  subst hc
  unfold State.ephFired
  split
  · exact h
  case h_2 k =>
    have hd : Cleared (gafOf c) p (s.ephDrop (gafOf c) k) := fun y hy => by
      rw [(ephDrop_shows s (gafOf c) k).1] at hy
      exact h y (List.mem_filter.1 hy).1
    exact pin_ite (P := Cleared (gafOf c) p) (hd.of_eph rfl) hd

theorem Cleared.fireA (h : Cleared e p s) {c : Fin 96} (hc : gafOf c = e) : Cleared e p (s.fireA c) := by
  have hcl := within_closed (.cell c)
  unfold State.fireA
  refine pin_ite (P := Cleared e p) ?_ ?_
  · exact h.within (fifoFill_pin hcl _ _ _ _ _ trivial rfl (fifoFired_pin hcl _ _ _ _ _ trivial rfl (fireTimely_pin hcl _ _ _ trivial rfl (.refl _ s)))) (fun h => h)
  · exact (h.within (fireTimely_pin hcl _ c false trivial rfl (.refl _ s)) (fun h => h)).ephFired hc _ _

/-- A commit brings back no entry that meets a condition which neither its commitment nor its wake turns on. -/
theorem Cleared.ephCommit (hp : ∀ (y : EphEnt) (b : Bool), p { y with committed := b } = p y) (hw : ∀ y : EphEnt, p { y with committed := true, woke := none } = p y)
    (k : Nat) {c : Fin 96} (hc : gafOf c = e) {s : State} (u : Bool) (h : Cleared e p s) : Cleared e p (State.ephCommit k s c u) := by
  have hcl := within_closed (.cell c)
  induction k generalizing s u with
  | zero => exact h
  | succ k ih =>
    have hs1 : Cleared e p (s.ephDisplaced c u) := by
      unfold State.ephDisplaced
      subst hc
      split
      · exact pin_ite (P := Cleared (gafOf c) p) (h.ephMod _ (fun y => hp y false)) h
      · exact h
    have hs2 : ∀ x, Cleared e p ((s.ephDisplaced c u).ephNoted c x) := fun x => by
      subst hc
      exact (hs1.ephMod _ hw).of_eph (latObserve_shows _ _ _).1
    have hs3 : ∀ x : EphEnt, Cleared e p (((s.ephDisplaced c u).ephNoted c x).loadCmp c u x.tgt x.act x.recEn x.tag false false (some x.slot)) := fun x =>
      (hs2 x).of_eph rfl
    unfold State.ephCommit
    dsimp only
    split
    · exact h
    case h_2 x _ _ =>
      refine pin_ite (P := Cleared e p) h (pin_ite (P := Cleared e p) (pin_ite (P := Cleared e p) ?_ ?_) (pin_ite (P := Cleared e p) ?_ ?_))
      · exact ih _ (ih _ (h.fireA hc))
      · exact ih _ ((h.within (fireTimely_pin hcl _ c u trivial rfl (.refl _ s)) (fun h => h)).ephFired hc _ _)
      · refine ih _ (Cleared.ephFired (Cleared.within (D := .cell c) ?_ (fireLate_pin hcl _ c u _ false trivial rfl (.refl _ _)) (fun h => h)) hc _ _)
        exact pin_ite (P := Cleared e p) (ih _ ((hs3 x).fireA hc)) (hs3 x)
      · exact hs3 x

end

end Sys2Proof.Machine
end

section
/-!
SUPPORT. The ephemeris operations of a microword (R109 to R112, R135, R137).
-/
set_option Elab.async false
namespace Sys2Proof.Machine
open Sys2Proof

theorem ephDisplaced_unarmed {s : State} {c : Fin 96} {u : Bool} (h : (cmpOf s.ch[c] u).armed = false) : s.ephDisplaced c u = s := by
  unfold State.ephDisplaced
  rw [h]
  split <;> rfl

theorem ephDisplaced_armed {s : State} {e : Fin 8} {c : Fin 96} (hc : gafOf c = e) {u : Bool} (h : (cmpOf s.ch[c] u).armed = true) {o : Nat}
    (ho : (cmpOf s.ch[c] u).eph = some o) : (s.ephDisplaced c u).gaf[e].eph = onSlot o (fun z => { z with committed := false }) s.gaf[e].eph := by
  subst hc
  unfold State.ephDisplaced
  rw [ho, h]
  exact ephMod_eph _ _ _ _

/-! ### What an insert shows -/

/-- Where an insert for a compare finds what its queue and the compare hold: nothing, or one later entry that is not yet launched. -/
def State.ephFree (s : State) (e : Fin 8) (q : EphReq) (tgt : Nat) : Prop :=
  let c := chanOf e q.chan
  let queue := s.ephQueue e q.chan (b2n q.unit)
  (queue = [] ∧ (cmpOf s.ch[c] q.unit).armed = false) ∨ (∃ o, queue = [o] ∧ o.committed = true ∧ (cmpOf s.ch[c] q.unit).armed = true ∧
    (cmpOf s.ch[c] q.unit).eph = some o.slot ∧ s.launched c q.unit = false ∧ (s.now : Int) - s.ephD tgt < o.tFull)

/-- What an insert of a thread shows in the state t after it. -/
structure InsertShows (s t : State) (e : Fin 8) (n : Fin 16) (q : EphReq) (tgt : Nat) : Prop where
  refused : s.ephTest e n q tgt = .own ∨ s.ephTest e n q tgt = .quota ∨ s.ephTest e n q tgt = .range → t.gaf[e].eph = s.gaf[e].eph ∧
    t.rget (F.Ge_EPH_CNT_REFUSED e) = min (s.rget (F.Ge_EPH_CNT_REFUSED e) + 1) (2 ^ (F.Ge_EPH_CNT_REFUSED e).width - 1)
  behind : q.timer = true → s.ephTest e n q tgt = .behind → t.gaf[e].eph = s.gaf[e].eph ∧ nbit (t.thr e n).pend.toNat 5 = true
  timer : q.timer = true → s.ephTest e n q tgt = .ok ∨ s.ephTest e n q tgt = .tight →
    t.gaf[e].eph.length = s.gaf[e].eph.length + 1 ∧ (∀ x ∈ s.gaf[e].eph, x ∈ t.gaf[e].eph) ∧
    ∃ x ∈ t.gaf[e].eph, x.timer = true ∧ x.tgt = tgt % 2 ^ 38 ∧ x.thr = n.val ∧ x.tag = q.tag ∧ x.committed = false ∧
      x.tight = decide (s.ephTest e n q tgt = .tight)
  compare : q.timer = false → s.ephTest e n q tgt = .ok ∨ s.ephTest e n q tgt = .tight → s.dueD (chanOf e q.chan) (tgt % 2 ^ 38) ≤ 0 → s.ephFree e q tgt →
    t.gaf[e].eph.length = s.gaf[e].eph.length + 1 ∧ committedTo t e (chanOf e q.chan) q.unit (tgt % 2 ^ 38) q.act (ephSlot s.gaf[e].eph) ∧
    ∀ o ∈ s.ephQueue e q.chan (b2n q.unit), ∃ z ∈ t.gaf[e].eph, z.slot = o.slot ∧ z.tgt = o.tgt ∧ z.committed = false

section
variable {s : State} {e : Fin 8} {n : Fin 16} {q : EphReq} {tgt : Nat}

/-- The new entry is the earliest of its queue. -/
theorem ephFree_first (hq : q.timer = false) (hf : s.ephFree e q tgt) :
    ∃ os, (ephPlace (s.ephNew e n q tgt) s.gaf[e].eph).filter (fun x => !x.timer && x.chan = q.chan.val && x.unit = b2n q.unit) = s.ephNew e n q tgt :: os := by
  have hx : (fun x : EphEnt => !x.timer && decide (x.chan = q.chan.val) && decide (x.unit = b2n q.unit)) (s.ephNew e n q tgt) = true := by
    unfold State.ephNew
    simp [hq]
  rcases hf with ⟨h, -⟩ | ⟨o, h, -, -, -, -, hlt⟩
  · exact ⟨[], ephPlace_alone hx h⟩
  · exact ⟨[o], ephPlace_before hx hlt h⟩

/-- An insert for a compare takes it, and the entry that it displaces stays. -/
theorem ephInsert_commits (hq : q.timer = false) (hok : s.ephTest e n q tgt = .ok ∨ s.ephTest e n q tgt = .tight)
    (hd : s.dueD (chanOf e q.chan) (tgt % 2 ^ 38) ≤ 0) (hf : s.ephFree e q tgt) : let t := (s.ephInsert e n q tgt).1
    t.gaf[e].eph.length = s.gaf[e].eph.length + 1 ∧ committedTo t e (chanOf e q.chan) q.unit (tgt % 2 ^ 38) q.act (ephSlot s.gaf[e].eph) ∧
      ∀ o ∈ s.ephQueue e q.chan (b2n q.unit), ∃ z ∈ t.gaf[e].eph, z.slot = o.slot ∧ z.tgt = o.tgt ∧ z.committed = false := by
  obtain ⟨a, ha⟩ : ∃ a, a = s.ephJoined e n q tgt := ⟨_, rfl⟩
  have hins : (s.ephInsert e n q tgt).1 = State.ephCommit ephFuel a (chanOf e q.chan) q.unit := by
    rw [ephInsert_joins (by tauto), hq, ha]
    rfl
  have hj := ephJoined_joined s e n q tgt
  rw [← ha] at hj
  have hfresh := ephSlot_fresh (ephTest_room hok)
  obtain ⟨os, hos⟩ := ephFree_first (n := n) hq hf
  obtain ⟨x, hx⟩ : ∃ x, x = s.ephNew e n q tgt := ⟨_, rfl⟩
  rw [← hx] at hj hos
  have hslot : x.slot = ephSlot s.gaf[e].eph := by rw [hx]; rfl
  have htgt : x.tgt = tgt % 2 ^ 38 := by rw [hx]; rfl
  have hact : x.act = q.act := by rw [hx]; rfl
  have hcom : x.committed = false := by rw [hx]; rfl
  have hqueue : a.ephQueue e (localOf (chanOf e q.chan)) (b2n q.unit) = x :: os := by
    unfold State.ephQueue
    rw [hj.eph, localOf_chanOf]
    exact hos
  have hlaunch : a.launched (chanOf e q.chan) q.unit = false := by
    rw [hj.launched]
    rcases hf with ⟨-, h⟩ | ⟨o, -, -, -, -, h, -⟩
    · exact launched_unarmed h
    · exact h
  obtain ⟨t, ht, h1, h2, h3, h4, h5, -, h7⟩ := ephCommit_takes (gafOf_chanOf e q.chan) hqueue hcom hlaunch (by rw [hj.dueD, htgt]; exact hd) 599
  have hins' : (s.ephInsert e n q tgt).1 = t := hins.trans ht
  intro t'
  obtain rfl : t' = t := hins'
  have hdis : (a.ephDisplaced (chanOf e q.chan) q.unit).gaf[e].eph = (ephPlace x s.gaf[e].eph) ∧ s.ephQueue e q.chan (b2n q.unit) = [] ∨
      ∃ o, s.ephQueue e q.chan (b2n q.unit) = [o] ∧ (a.ephDisplaced (chanOf e q.chan) q.unit).gaf[e].eph =
        onSlot o.slot (fun z => { z with committed := false }) (ephPlace x s.gaf[e].eph) := by
    rcases hf with ⟨h, harm⟩ | ⟨o, h, -, harm, heph, -, -⟩
    · exact .inl ⟨by rw [ephDisplaced_unarmed (by rw [hj.ch]; exact harm)]; exact hj.eph, h⟩
    · exact .inr ⟨o, h, by rw [ephDisplaced_armed (gafOf_chanOf e q.chan) (by rw [hj.ch]; exact harm) (by rw [hj.ch]; exact heph), hj.eph]⟩
  have hxm : x ∈ (a.ephDisplaced (chanOf e q.chan) q.unit).gaf[e].eph := by
    rcases hdis with ⟨hdis, -⟩ | ⟨o, ho, hdis⟩
    · rw [hdis]
      exact mem_ephPlace.2 (.inl rfl)
    · rw [hdis]
      have hom : o ∈ s.gaf[e].eph := (List.mem_filter.1 (show o ∈ s.ephQueue e q.chan (b2n q.unit) by rw [ho]; exact List.mem_cons_self)).1
      have := onSlot_mem (slot := o.slot) (f := fun z => { z with committed := false }) (mem_ephPlace.2 (.inl rfl) : x ∈ ephPlace x s.gaf[e].eph)
      rwa [if_neg (fun h => hfresh o hom (h.symm.trans hslot))] at this
  refine ⟨?_, ⟨h1, h2.trans htgt, h3.trans hact, h4, h5.trans (congrArg some hslot), ?_⟩, fun o ho => ?_⟩
  · rw [h7, onSlot_length]
    rcases hdis with ⟨hdis, -⟩ | ⟨o, -, hdis⟩
    · rw [hdis, ephPlace_length]
    · rw [hdis, onSlot_length, ephPlace_length]
  · have := onSlot_mem (slot := x.slot) (f := fun z => { z with committed := true, woke := none }) hxm
    rw [if_pos rfl, ← h7] at this
    exact ⟨_, this, hslot, htgt, rfl⟩
  · rcases hdis with ⟨-, hnil⟩ | ⟨o', ho', hdis⟩
    · rw [hnil] at ho
      exact absurd ho List.not_mem_nil
    · rw [ho'] at ho
      obtain rfl := List.mem_singleton.1 ho
      have hom : o ∈ s.gaf[e].eph := (List.mem_filter.1 (show o ∈ s.ephQueue e q.chan (b2n q.unit) by rw [ho']; exact List.mem_cons_self)).1
      have h1 := onSlot_mem (slot := o.slot) (f := fun z => { z with committed := false }) (mem_ephPlace.2 (.inr hom) : o ∈ ephPlace x s.gaf[e].eph)
      rw [if_pos rfl, ← hdis] at h1
      have h2 := onSlot_mem (slot := x.slot) (f := fun z => { z with committed := true, woke := none }) h1
      rw [if_neg (show ¬ o.slot = x.slot from fun h => hfresh o hom (h.trans hslot)), ← h7] at h2
      exact ⟨_, h2, rfl, rfl, rfl⟩

theorem ephInsert_shows : InsertShows s (s.ephInsert e n q tgt).1 e n q tgt where
  refused h := by
    rw [ephInsert_refuses (by tauto)]
    exact ⟨congrArg (fun g : Vector Gaffer 8 => g[e].eph) (ephTurned_frame s e _).core.gaf, ephTurned_counts s e _⟩
  behind hq h := by
    rw [ephInsert_wakes hq h]
    exact ⟨wake_eph s e e n 5, wake_pend s e n (by decide)⟩
  timer hq h := by
    rw [ephInsert_joins (by tauto), hq]
    dsimp only
    rw [if_pos rfl, (ephJoined_joined s e n q tgt).eph]
    exact ⟨ephPlace_length _ _, fun x hx => mem_ephPlace.2 (.inr hx), _, mem_ephPlace.2 (.inl rfl), hq, rfl, rfl, rfl, rfl, rfl⟩
  compare hq h hd hf := ephInsert_commits hq h hd hf

/-- What follows an insert leaves what it shows. -/
theorem InsertShows.congr {t u : State} (h : InsertShows s t e n q tgt) (he : u.gaf[e].eph = t.gaf[e].eph) (hc : u.ch = t.ch)
    (hp : (u.thr e n).pend = (t.thr e n).pend) (hr : u.regs = t.regs) : InsertShows s u e n q tgt where
  refused hx := by rw [he, rget_of_regs hr]; exact h.refused hx
  behind hq hx := by rw [he, hp]; exact h.behind hq hx
  timer hq hx := by rw [he]; exact h.timer hq hx
  compare hq hx hd hf := by
    unfold committedTo
    rw [he, hc]
    exact h.compare hq hx hd hf

theorem setEphres_rest (t : State) (e : Fin 8) (n : Fin 16) (r : EphRes) : (t.setEphres e n r).gaf[e].eph = t.gaf[e].eph ∧
    (t.setEphres e n r).ch = t.ch ∧ ((t.setEphres e n r).thr e n).pend = (t.thr e n).pend ∧ (t.setEphres e n r).regs = t.regs ∧
    ((t.setEphres e n r).thr e n).ephres = BitVec.ofNat 4 (ephCode r) := by
  refine ⟨?_, rfl, ?_, rfl, ?_⟩
  · rw [State.setEphres, State.modThr, gaf_modGaf_same]
  · rw [State.setEphres, thr_modThr_same]
  · rw [State.setEphres, thr_modThr_same]

theorem RunsOn.setEphres {t : State} (h : RunsOn e n s t) (r : EphRes) : RunsOn e n s (t.setEphres e n r) :=
  fun hp => (h hp).modThr e n (fun _ => rfl) (fun _ => rfl)

/-- The row of an ephemeris operation that does not park. -/
theorem ephRow {pop : Nat} (h : portReady s e n 1 pop) {i : Instr} (hi : (i, 1, pop) ∈ portRows e) {u : State} {r : EphRes}
    (hp : s.portOp e n (wordAt s e n) = portDone (u.setEphres e n r) []) (hu : RunsOn e n s u) :
    ∃ t, exec i s = .next t ∧ s.sameFar t ∧ wentOn s t e n ∧ (t.thr e n).ephres = BitVec.ofNat 4 (ephCode r) ∧
      t.gaf[e].eph = u.gaf[e].eph ∧ t.ch = u.ch ∧ (t.thr e n).pend = (u.thr e n).pend ∧ t.regs = u.regs := by
  have hf : Far s (u.setEphres e n r) := by
    have := portOp_far s e n (wordAt s e n) (far_refl s)
    rwa [hp] at this
  obtain ⟨h1, h2, h3⟩ := hu.setEphres r (by rw [h.1.2.2.1]; decide)
  obtain ⟨g1, g2, g3, g4, g5⟩ := setEphres_rest u e n r
  refine ⟨_, exec_port h (exec_portRow e s (i, 1, pop) hi) (by simp [isPort, h.2.2.1, h.2.2.2.1]) hp (by simp) (by simp) nofun,
    ported_far _ e n [] none hf, ported_wentOn _ e n [] none (h1.trans h.1.2.1) h2 h3, (ported_ephres _ e n [] none).trans g5,
    (ported_eph _ e n [] none).trans g1, g2, (ported_pend _ e n [] none n).trans g3, g4⟩

/-- What a timer's test looks at. -/
theorem ephTest_timer {p : EphReq} (hp : p.timer = true) (hq : q.timer = true) : s.ephTest e n p tgt = s.ephTest e n q tgt := by
  unfold State.ephTest
  simp only [hp, hq, not_true_eq_false, false_and, if_false]

end

end Sys2Proof.Machine
end

section
/-!
SUPPORT. The rows of the ephemeris operations (R109 to R112, R135, R137).
-/
set_option Elab.async false
namespace Sys2Proof.Machine
open Sys2Proof

section
variable {s : State} {e : Fin 8} {n : Fin 16}

/-- The row of an insert: it parks where the table is full and it may wait, and else answers. -/
structure InsertRow (s t : State) (e : Fin 8) (n : Fin 16) (q : EphReq) (tgt : Nat) : Prop where
  far : s.sameFar t
  parks : s.ephTest e n q tgt = .full ∧ mwNw (wordAt s e n) = false → parksOnSpace s t e n .ephemeris ∧ t.ron (F.Ge_EVT_EPH_FULL_S e) = true
  answers : s.ephTest e n q tgt ≠ .full ∨ mwNw (wordAt s e n) = true → wentOn s t e n ∧
    (t.thr e n).ephres = BitVec.ofNat 4 (ephCode (s.ephTest e n q tgt))
  shows : InsertShows s t e n q tgt

/-- What an insert's port operation does. -/
def State.insertOp (s : State) (e : Fin 8) (n : Fin 16) (q : EphReq) (tgt : Nat) : PortRes :=
  if s.ephTest e n q tgt = .full ∧ ¬ mwNw (wordAt s e n) then ⟨s.evt (F.Ge_EVT_EPH_FULL_S e), [], some .ephemeris, none⟩
  else portDone ((s.ephInsert e n q tgt).1.setEphres e n (s.ephInsert e n q tgt).2) []

theorem insertRow {pop : Nat} (h : portReady s e n 1 pop) {i : Instr} (hi : (i, 1, pop) ∈ portRows e) {q : EphReq} {tgt : Nat}
    (hp : s.portOp e n (wordAt s e n) = s.insertOp e n q tgt) : ∃ t, exec i s = .next t ∧ InsertRow s t e n q tgt := by
  unfold State.insertOp at hp
  by_cases hf : s.ephTest e n q tgt = .full ∧ ¬ mwNw (wordAt s e n)
  · rw [if_pos hf] at hp
    have hrun := exec_port_parks h (exec_portRow e s (i, 1, pop) hi) (by simp [isPort, h.2.2.1, h.2.2.2.1]) (of := .ephemeris) (by rw [hp])
    rw [hp] at hrun
    have hw : mwNw (wordAt s e n) = false := by simpa using hf.2
    obtain ⟨b, hb⟩ : ∃ b, b = (s.evt (F.Ge_EVT_EPH_FULL_S e)).modThr e n (fun t => { t with pend := t.pend &&& ~~~(BitVec.ofNat 16 1024) }) := ⟨_, rfl⟩
    have hpage : reportReg (R.Ge_EVT e) = false := reportReg_of_page (by unfold R.Ge_EVT; omega)
    have hfr : Frame [R.Ge_EVT e] s (s.evt (F.Ge_EVT_EPH_FULL_S e)) := (Frame.refl _ s).evt (f := F.Ge_EVT_EPH_FULL_S e) List.mem_cons_self
    have hon : b.ron (F.Ge_EVT_EPH_FULL_S e) = true := by
      rw [hb]
      exact ron_evt s (F.Ge_EVT_EPH_FULL_S e) rfl (by show (4 : Nat) + 1 ≤ 32; decide) hpage
    refine ⟨_, hrun, parkThread_far _ _ _ _ (modThr_far _ _ _ _ hfr.far), fun _ => ⟨parks_onSpace (thr_of_gaf hfr.core.gaf e n) _, ?_⟩,
      fun hn => absurd hf (by rw [hw]; rcases hn with hn | hn <;> simp_all), ?_, ?_, ?_, ?_⟩
    · rw [← hb, ← hon]
      refine ron_of_reg (f := F.Ge_EVT_EPH_FULL_S e) ((parkThread_frame (os := [R.Ge_CMD_STAT e]) (Frame.refl _ b) List.mem_cons_self n _).regs _ hpage ?_)
      rw [List.mem_singleton]
      show R.Ge_EVT e ≠ R.Ge_CMD_STAT e
      unfold R.Ge_EVT R.Ge_CMD_STAT
      omega
    all_goals rw [hf.1]
    · exact fun hx => by rcases hx with hx | hx | hx <;> cases hx
    · exact fun _ hx => by cases hx
    · exact fun _ hx => by rcases hx with hx | hx <;> cases hx
    · exact fun _ hx => by rcases hx with hx | hx <;> cases hx
  · rw [if_neg hf] at hp
    obtain ⟨t, h1, h2, h3, h4, h5, h6, h7, h8⟩ := ephRow h hi hp (ephInsert_runs s e n q tgt)
    rw [ephInsert_answers] at h4
    exact ⟨t, h1, h2, fun hx => absurd ⟨hx.1, by rw [hx.2]; decide⟩ hf, fun _ => ⟨h3, h4⟩, ephInsert_shows.congr h5 h6 h7 h8⟩

/-- The rows of two timers with one tag are alike. -/
theorem InsertRow.timer {t : State} {p q : EphReq} {tgt : Nat} (h : InsertRow s t e n p tgt) (hp : p.timer = true) (hq : q.timer = true) (ht : p.tag = q.tag) :
    InsertRow s t e n q tgt := by
  have he := ephTest_timer (s := s) (e := e) (n := n) (tgt := tgt) hp hq
  obtain ⟨h1, h2, h3, h4, h5, h6, -⟩ := h
  rw [he] at h2 h3 h4 h5 h6
  refine ⟨h1, h2, h3, h4, fun _ => h5 hp, fun _ => ?_, fun hn => absurd (hq.symm.trans hn) (by decide)⟩
  rw [← ht]
  exact h6 hp

/-! ### The port operations -/

variable {w : BitVec 144} (hw : w = wordAt s e n) (hsel : mwPsel w = 1)
include hw hsel

theorem portOp_insCmp (hpop : mwPop w = 0) : s.portOp e n w = s.insertOp e n (insReq s e n false false) (s.rdSpec e n w (mwf w 40 7) % 2 ^ 38) := by
  subst hw
  simp only [State.portOp, hsel, State.portEph, hpop]
  rfl

theorem portOp_insTmr (hpop : mwPop w = 1) : s.portOp e n w =
    s.insertOp e n ⟨true, 0, false, 0, false, s.rdSpec e n w (mwf w 33 7) % 65536, false⟩ (s.rdSpec e n w (mwf w 40 7) % 2 ^ 38) := by
  subst hw
  simp only [State.portOp, hsel, State.portEph, hpop]
  rfl

theorem portOp_canCmp (hpop : mwPop w = 2) : s.portOp e n w =
    portDone ((s.ephCancel e (mwLocal (mwf w 51 4) n) (decide (mwf w 50 1 = 1)) (s.rdSpec e n w (mwf w 33 7) % 65536)).1.setEphres e n
      (s.ephCancel e (mwLocal (mwf w 51 4) n) (decide (mwf w 50 1 = 1)) (s.rdSpec e n w (mwf w 33 7) % 65536)).2) [] := by
  subst hw
  simp only [State.portOp, hsel, State.portEph, hpop]

theorem portOp_canTmr (hpop : mwPop w = 3) : s.portOp e n w =
    portDone ((s.ephCancelTimer e n (s.rdSpec e n w (mwf w 33 7) % 65536)).1.setEphres e n (s.ephCancelTimer e n (s.rdSpec e n w (mwf w 33 7) % 65536)).2) [] := by
  subst hw
  simp only [State.portOp, hsel, State.portEph, hpop]

/-- The time of an angle. -/
def State.angAt (s : State) (e : Fin 8) (n : Fin 16) (w : BitVec 144) : Option (Option Int) :=
  s.angTime (s.angOry (chanOf e (mwLocal (mwf w 51 4) n)) (mwf w 31 2)) (s.rdSpec e n w (mwf w 40 7) % 2 ^ 32) s.now

theorem portOp_insAng_none (hpop : mwPop w = 4) (ha : s.angAt e n w = none) : s.portOp e n w = portDone (s.setEphres e n .nosync) [] := by
  subst hw
  unfold State.angAt at ha
  simp only [State.portOp, hsel, State.portEph, hpop, ha]

theorem portOp_insAng_some (hpop : mwPop w = 4) {v : Int} (ha : s.angAt e n w = some (some v)) (hv : v ≤ (s.now : Int) + 2 ^ 36) :
    s.portOp e n w = s.insertOp e n (insReq s e n false true) (v % (2 ^ 38 : Nat)).toNat := by
  subst hw
  unfold State.angAt at ha
  have hfar : decide ((s.now : Int) + 2 ^ 36 < v) = false := decide_eq_false (by omega)
  simp only [State.portOp, hsel, State.portEph, hpop, ha]
  rw [if_neg (by rw [hfar]; decide)]
  rfl

end

/-! ### Cancels -/

section
variable (s : State) (e : Fin 8) (n : Fin 16) (i : Fin 12) (u : Bool) (tag : Nat)

/-- The entries of a compare with a tag. -/
def cancelHits (i : Fin 12) (u : Bool) (tag : Nat) (x : EphEnt) : Bool := !x.timer && x.chan = i && x.unit = b2n u && x.tag = tag

/-- A thread's timers with a tag. -/
def timerHits (n : Fin 16) (tag : Nat) (x : EphEnt) : Bool := x.timer && x.thr = n.val && x.tag = tag

theorem ephCancel_none (h : s.gaf[e].eph.filter (cancelHits i u tag) = []) : s.ephCancel e i u tag = (s, .none) := if_pos h

theorem ephCancel_removes (h : s.gaf[e].eph.filter (cancelHits i u tag) ≠ []) (hc : ∀ x ∈ s.gaf[e].eph, cancelHits i u tag x = true → x.committed = false) :
    s.ephCancel e i u tag = (State.ephCommit ephFuel (s.ephRemove e (cancelHits i u tag)) (chanOf e i) u, .removed) := by
  have hfind : (s.gaf[e].eph.filter (cancelHits i u tag)).find? (fun x => x.committed) = none := List.find?_eq_none.2 (fun x hx => by
    rw [hc x (List.mem_filter.1 hx).1 (List.mem_filter.1 hx).2]
    decide)
  refine (if_neg h).trans ?_
  show (match (s.gaf[e].eph.filter (cancelHits i u tag)).find? (fun x => x.committed) with | none => _ | some x => _) = _
  rw [hfind]
  rfl

theorem ephCancel_committed (hc : ∃ x ∈ s.gaf[e].eph, cancelHits i u tag x = true ∧ x.committed = true) :
    (s.ephCancel e i u tag).2 = if (cmpOf s.ch[chanOf e i] u).due ∨ s.launched (chanOf e i) u then .fired else .disarmed := by
  obtain ⟨x, hx, hh, hcm⟩ := hc
  have hm : x ∈ s.gaf[e].eph.filter (cancelHits i u tag) := List.mem_filter.2 ⟨hx, hh⟩
  cases hfind : (s.gaf[e].eph.filter (cancelHits i u tag)).find? (fun x => x.committed) with
  | none => exact absurd hcm (List.find?_eq_none.1 hfind x hm)
  | some y =>
    have he : s.ephCancel e i u tag = if (cmpOf s.ch[chanOf e i] u).due ∨ s.launched (chanOf e i) u then
        ((s.ephRemove e (fun z => cancelHits i u tag z && z.slot ≠ y.slot)).cmpReach (chanOf e i) u, .fired)
      else (State.ephCommit ephFuel ((s.disarmCmp (chanOf e i) u).ephRemove e (cancelHits i u tag)) (chanOf e i) u, .disarmed) := by
      refine (if_neg (fun h => List.not_mem_nil ((show s.gaf[e].eph.filter (cancelHits i u tag) = [] from h) ▸ hm))).trans ?_
      show (match (s.gaf[e].eph.filter (cancelHits i u tag)).find? (fun x => x.committed) with | none => _ | some x => _) = _
      rw [hfind]
      rfl
    rw [he]
    split <;> rfl

theorem ephCancel_runs : RunsOn e n s (s.ephCancel e i u tag).1 := by
  have hcl := runsOn_closed .all e n
  have h0 : RunsOn e n s s := fun _ => Runs.refl e n s
  unfold State.ephCancel
  dsimp only
  refine pin_ite_fst (P := RunsOn e n s) h0 ?_
  split
  · exact ephCommit_pin hcl _ _ _ _ trivial trivial trivial (ephRemove_pin hcl _ _ _ trivial h0)
  · exact pin_ite_fst (P := RunsOn e n s) (cmpReach_pin hcl _ _ _ trivial trivial trivial (ephRemove_pin hcl _ _ _ trivial h0))
      (ephCommit_pin hcl _ _ _ _ trivial trivial trivial (ephRemove_pin hcl _ _ _ trivial (disarmCmp_pin hcl _ _ _ trivial h0)))

theorem ephCancelTimer_runs : RunsOn e n s (s.ephCancelTimer e n tag).1 :=
  pin_ite_fst (P := RunsOn e n s) (fun _ => Runs.refl e n s) (ephRemove_pin (runsOn_closed .all e n) _ _ _ trivial (fun _ => Runs.refl e n s))

theorem ephCancelTimer_shows : let t := s.ephCancelTimer e n tag
    t.2 = (if s.gaf[e].eph.filter (timerHits n tag) = [] then .none else .removed) ∧ t.1.ch = s.ch ∧ ∀ x ∈ t.1.gaf[e].eph, timerHits n tag x = false := by
  have he : s.ephCancelTimer e n tag = if s.gaf[e].eph.filter (timerHits n tag) = [] then (s, .none) else (s.ephRemove e (timerHits n tag), .removed) := rfl
  rw [he]
  split
  case isTrue h =>
    refine ⟨rfl, rfl, fun x hx => ?_⟩
    have := List.filter_eq_nil_iff.1 h x hx
    simpa using this
  case isFalse h => exact ⟨rfl, (ephRemove_shows s e _).2, ephRemove_clears s e _⟩

end

end Sys2Proof.Machine
end

section
set_option Elab.async false
namespace Sys2Proof
open Sys2Proof.Machine

/-- Settles O26: the ephemeris operations. -/
theorem ephemerisRowsRun : Obligations.EphemerisRowsRun := by
  intro e n s w tgt tag i u inserts
  have row : ∀ {pop : Nat} {r : Instr}, portReady s e n 1 pop → (r, 1, pop) ∈ portRows e → ∀ {q : EphReq} {tgt : Nat},
      (∃ t, exec r s = .next t ∧ InsertRow s t e n q tgt) → inserts r q tgt := by
    intro _ _ _ _ _ _ ⟨t, hx, hr⟩
    exact ⟨t, hx, hr.far, hr.parks, hr.answers, hr.shows.refused, hr.shows.behind, hr.shows.timer, hr.shows.compare⟩
  refine ⟨fun h => ?_, fun h => ?_, fun h => ⟨fun ha => ?_, fun v ha hv => ?_⟩, fun h => ?_, fun h => ?_⟩
  · have hi : (Instr.mwInsCmp e, 1, 0) ∈ portRows e := by simp [portRows]
    exact row h hi (insertRow h hi (portOp_insCmp rfl h.2.2.1 h.2.2.2.1))
  · have hi : (Instr.mwInsTmr e, 1, 1) ∈ portRows e := by simp [portRows]
    obtain ⟨t, hx, hr⟩ := insertRow h hi (portOp_insTmr rfl h.2.2.1 h.2.2.2.1)
    exact row h hi ⟨t, hx, hr.timer rfl rfl rfl⟩
  · have hi : (Instr.mwInsAng e, 1, 4) ∈ portRows e := by simp [portRows]
    have hp := portOp_insAng_none (s := s) (e := e) (n := n) (w := w) rfl h.2.2.1 h.2.2.2.1 ha
    have hrun := exec_port h (exec_portRow e s (.mwInsAng e, 1, 4) hi) (by simp [isPort, h.2.2.1, h.2.2.2.1]) hp (by simp) (by simp) nofun
    refine ⟨_, hrun, ported_wentOn _ e n [] none ?_ ?_ ?_, ?_, ?_⟩
    · exact (running_modThr _ _ _ _).trans h.1.2.1
    · rw [State.setEphres, thr_modThr_same]
    · rw [State.setEphres, thr_modThr_same]
    · exact (ported_ephres _ e n [] none).trans (setEphres_rest s e n .nosync).2.2.2.2
    · rw [ported_plain, State.setEphres, modThr_modThr]
      exact onlyThread_modThr s e n _
  · have hi : (Instr.mwInsAng e, 1, 4) ∈ portRows e := by simp [portRows]
    exact row h hi (insertRow h hi (portOp_insAng_some rfl h.2.2.1 h.2.2.2.1 ha hv))
  · intro hit
    have hi : (Instr.mwCanCmp e, 1, 2) ∈ portRows e := by simp [portRows]
    have hp := portOp_canCmp (s := s) (e := e) (n := n) (w := w) rfl h.2.2.1 h.2.2.2.1
    obtain ⟨t, h1, h2, h3, h4, h5, -, -, -⟩ := ephRow h hi hp (ephCancel_runs s e n i u tag)
    refine ⟨t, h1, h2, h3, fun hnone => ?_, fun hsome hunc => ?_, fun hc => ?_⟩
    · have hcan := ephCancel_none s e i u tag hnone
      rw [show s.ephCancel e (mwLocal (mwf w 51 4) n) (decide (mwf w 50 1 = 1)) (s.rdSpec e n w (mwf w 33 7) % 65536) = (s, .none) from hcan] at h4 hp
      refine ⟨h4, ?_⟩
      have hrun := exec_port h (exec_portRow e s (.mwCanCmp e, 1, 2) hi) (by simp [isPort, h.2.2.1, h.2.2.2.1]) hp (by simp) (by simp) nofun
      rw [Host.Outcome.next.inj (h1.symm.trans hrun), ported_plain, State.setEphres, modThr_modThr]
      exact onlyThread_modThr s e n _
    · have hcan := ephCancel_removes s e i u tag hsome hunc
      rw [show s.ephCancel e (mwLocal (mwf w 51 4) n) (decide (mwf w 50 1 = 1)) (s.rdSpec e n w (mwf w 33 7) % 65536) = _ from hcan] at h4 h5
      refine ⟨h4, fun x hx => ?_⟩
      rw [h5] at hx
      exact Cleared.ephCommit (p := cancelHits i u tag) (fun _ _ => rfl) (fun _ => rfl) ephFuel (gafOf_chanOf e i) u (ephRemove_clears s e _) x hx
    · have hcan := ephCancel_committed s e i u tag hc
      rw [h4, show (s.ephCancel e (mwLocal (mwf w 51 4) n) (decide (mwf w 50 1 = 1)) (s.rdSpec e n w (mwf w 33 7) % 65536)).2 = _ from hcan]
      split <;> rfl
  · intro hit
    have hi : (Instr.mwCanTmr e, 1, 3) ∈ portRows e := by simp [portRows]
    have hp := portOp_canTmr (s := s) (e := e) (n := n) (w := w) rfl h.2.2.1 h.2.2.2.1
    obtain ⟨t, h1, h2, h3, h4, h5, h6, -, -⟩ := ephRow h hi hp (ephCancelTimer_runs s e n tag)
    obtain ⟨g1, g2, g3⟩ := ephCancelTimer_shows s e n tag
    refine ⟨t, h1, h2, h3, h6.trans g2, ?_, fun x hx => g3 x (by rw [h5] at hx; exact hx)⟩
    rw [h4, show (s.ephCancelTimer e n (s.rdSpec e n w (mwf w 33 7) % 65536)).2 = _ from g1]
    show BitVec.ofNat 4 (ephCode (if s.gaf[e].eph.filter (timerHits n tag) = [] then EphRes.none else .removed)) = if s.gaf[e].eph.filter (timerHits n tag) = [] then 11 else 8
    split <;> rfl

end Sys2Proof
end

section
/-!
SUPPORT. Accesses to registers and to nothing: what a write gives each field, and what is counted (R293, R295, R305 to R311).
-/
set_option Elab.async false
namespace Sys2Proof.Machine
open Sys2Proof

/-! ### Fields of a written word -/

/-- The fields of a register lie in its word, and no two of them have a bit in common. -/
def Separate (fs : List FieldDesc) : Prop :=
  (∀ f ∈ fs, f.lo + f.width ≤ 32) ∧ fs.Pairwise (fun f g => f.lo + f.width ≤ g.lo ∨ g.lo + g.width ≤ f.lo)

theorem wfld_wset_apart (w : Word) {lo n l k : Nat} (v : Nat) (h : lo + n ≤ 32) (ha : l + k ≤ lo ∨ lo + n ≤ l) : wfld (wset w lo n v) l k = wfld w l k := by
  rcases ha with ha | ha
  · exact wfld_wset_low w lo n v l k h ha
  · exact wfld_wset_high w lo n v l k h ha

/-- Bits that no changed field has stay. -/
theorem foldl_fields_apart {step : Word → FieldDesc → Word} (hstep : ∀ w f, step w f = w ∨ ∃ n, step w f = wset w f.lo f.width n) {l k : Nat} :
    ∀ (fs : List FieldDesc) (w : Word), (∀ f ∈ fs, f.lo + f.width ≤ 32 ∧ (l + k ≤ f.lo ∨ f.lo + f.width ≤ l)) → wfld (fs.foldl step w) l k = wfld w l k
  | [], _, _ => rfl
  | f :: fs, w, h => by
    obtain ⟨h1, h2⟩ := h f List.mem_cons_self
    rw [List.foldl_cons, foldl_fields_apart hstep fs _ (fun g hg => h g (List.mem_cons_of_mem _ hg))]
    rcases hstep w f with he | ⟨n, he⟩
    · rw [he]
    · rw [he, wfld_wset_apart w n h1 h2]

/-- One field of a list, and the others apart from it. -/
theorem Separate.split {fs : List FieldDesc} (h : Separate fs) {f : FieldDesc} (hf : f ∈ fs) : ∃ as bs, fs = as ++ f :: bs ∧
    (∀ g ∈ as, g.lo + g.width ≤ 32 ∧ (f.lo + f.width ≤ g.lo ∨ g.lo + g.width ≤ f.lo)) ∧
    ∀ g ∈ bs, g.lo + g.width ≤ 32 ∧ (f.lo + f.width ≤ g.lo ∨ g.lo + g.width ≤ f.lo) := by
  obtain ⟨as, bs, rfl⟩ := List.append_of_mem hf
  obtain ⟨hw, hp⟩ := h
  obtain ⟨-, hb, hab⟩ := List.pairwise_append.1 hp
  exact ⟨as, bs, rfl, fun g hg => ⟨hw g (List.mem_append_left _ hg), (hab g hg f List.mem_cons_self).symm⟩,
    fun g hg => ⟨hw g (List.mem_append_right _ (List.mem_cons_of_mem _ hg)), (List.pairwise_cons.1 hb).1 g hg⟩⟩

section
variable {s : State} {o lk : Nat} {old v : Word} {st : Bool} {fs : List FieldDesc}

/-- A write takes a field of its kind that it can change, that no lock holds, and whose encoding fits. -/
def State.takesField (s : State) (o lk : Nat) (old v : Word) (st : Bool) (fs : List FieldDesc) (f : FieldDesc) : Bool :=
  decide (f.st = st ∧ fieldWritable f ∧ lk &&& fieldBits f = 0 ∧ s.fieldFits o f (fieldWritten f (s.setNow o) old v) (rawWord fs (s.setNow o) old v))

theorem mergeWord_eq : s.mergeWord o lk old v st fs =
    fs.foldl (fun w f => if s.takesField o lk old v st fs f then wset w f.lo f.width (fieldWritten f (s.setNow o) old v) else w) old := by
  unfold State.mergeWord State.takesField
  simp only [decide_eq_true_eq]

theorem mergeWord_step (w : Word) (f : FieldDesc) :
    (if s.takesField o lk old v st fs f then wset w f.lo f.width (fieldWritten f (s.setNow o) old v) else w) = w ∨
      ∃ n, (if s.takesField o lk old v st fs f then wset w f.lo f.width (fieldWritten f (s.setNow o) old v) else w) = wset w f.lo f.width n := by
  split
  · exact .inr ⟨_, rfl⟩
  · exact .inl rfl

/-- What a write leaves in one of a register's fields. -/
theorem mergeWord_field (hs : Separate fs) {f : FieldDesc} (hf : f ∈ fs) : wfld (s.mergeWord o lk old v st fs) f.lo f.width =
    if s.takesField o lk old v st fs f then fieldWritten f (s.setNow o) old v % 2 ^ f.width else wfld old f.lo f.width := by
  obtain ⟨as, bs, he, has, hbs⟩ := hs.split hf
  rw [mergeWord_eq]
  conv_lhs => rw [show fs.foldl _ old = (as ++ f :: bs).foldl (fun w f => if s.takesField o lk old v st fs f then
    wset w f.lo f.width (fieldWritten f (s.setNow o) old v) else w) old from by rw [← he]]
  rw [List.foldl_append, List.foldl_cons, foldl_fields_apart mergeWord_step bs _ hbs]
  split
  · exact wfld_wset_same _ _ _ _ (hs.1 f hf)
  · exact foldl_fields_apart mergeWord_step as old has

/-- A write that takes no field leaves the word. -/
theorem mergeWord_none (h : ∀ f ∈ fs, s.takesField o lk old v st fs f = false) : s.mergeWord o lk old v st fs = old := by
  rw [mergeWord_eq]
  refine List.foldlRecOn (motive := fun w => w = old) fs _ rfl (fun w hw f hf => ?_)
  rw [h f hf]
  exact hw

end

theorem wfld_lt (w : Word) (lo n : Nat) : wfld w lo n < 2 ^ n := Nat.mod_lt _ (by positivity)

theorem fieldWritten_lt (f : FieldDesc) (hw old v : Word) : fieldWritten f hw old v < 2 ^ f.width := by
  have h1 := wfld_lt old f.lo f.width
  have h2 := wfld_lt v f.lo f.width
  unfold fieldWritten
  dsimp only
  split
  · exact h1
  · exact h1
  · exact h2
  · exact h2
  · exact Nat.or_lt_two_pow (lt_of_le_of_lt Nat.and_le_left h1) (lt_of_le_of_lt Nat.and_le_left h2)
  · exact lt_of_le_of_lt Nat.and_le_left h1
  · exact Nat.or_lt_two_pow h1 h2

/-- Registers whose encodings depend on no other field. -/
theorem fieldExtra_plain (s : State) {o : Nat} (h : o < 0xA000) (h1 : o ≠ R.SPN_PPSO_OFS) (h2 : o ≠ R.SPN_PPSO_WID) (h3 : o < 0x2040 ∨ 0x20C0 ≤ o)
    (lo n : Nat) (w : Word) : s.fieldExtra o lo n w = true := by
  unfold State.fieldExtra
  rw [if_neg h1, if_neg h2, if_neg (by omega), if_neg (by omega), if_neg (by omega)]

theorem fieldExtra_pin (s : State) (c : Fin 96) (lo n : Nat) (w : Word) : s.fieldExtra (R.CHc_PIN c) lo n w = true := by
  unfold State.fieldExtra
  rw [if_neg (by unfold R.CHc_PIN R.SPN_PPSO_OFS; omega), if_neg (by unfold R.CHc_PIN R.SPN_PPSO_WID; omega), if_neg (by unfold R.CHc_PIN; omega),
    if_neg (by unfold R.CHc_PIN; omega), if_pos (by unfold R.CHc_PIN; omega), decide_eq_false (show ¬ R.CHc_PIN c % 0x400 = 0 by unfold R.CHc_PIN; omega)]
  rfl

/-- A field all of whose encodings are defined is taken where nothing holds it. -/
theorem takesField_full {s : State} {o : Nat} (he : ∀ lo n w, s.fieldExtra o lo n w = true) (old v : Word) {st : Bool} (fs : List FieldDesc) {f : FieldDesc}
    (h1 : f.st = st) (h2 : fieldWritable f = true) (h3 : f.mn = 0) (h4 : f.mx = 2 ^ f.width - 1) : s.takesField o 0 old v st fs f = true := by
  have hlt := fieldWritten_lt f (s.setNow o) old v
  refine decide_eq_true ⟨h1, h2, Nat.zero_and _, ?_⟩
  unfold State.fieldFits
  rw [he, Bool.and_true]
  exact decide_eq_true ⟨by omega, by omega⟩

/-- What a write leaves in a field that it takes. -/
theorem mergeWord_takes {s : State} {o : Nat} (he : ∀ lo n w, s.fieldExtra o lo n w = true) (old v : Word) {st : Bool} {fs : List FieldDesc} (hs : Separate fs)
    {f : FieldDesc} (hf : f ∈ fs) (h1 : f.st = st) (h2 : fieldWritable f = true) (h3 : f.mn = 0) (h4 : f.mx = 2 ^ f.width - 1) :
    wfld (s.mergeWord o 0 old v st fs) f.lo f.width = fieldWritten f (s.setNow o) old v := by
  rw [mergeWord_field hs hf, if_pos (takesField_full he old v fs h1 h2 h3 h4), Nat.mod_eq_of_lt (fieldWritten_lt f _ old v)]

theorem wfld_bit (w : Word) (i : Nat) : wfld w i 1 = b2n (w.getLsbD i) := by
  unfold wfld
  rw [BitVec.getLsbD, Nat.testBit, Nat.and_comm, Nat.and_one_is_mod, pow_one]
  rcases Nat.mod_two_eq_zero_or_one (w.toNat >>> i) with h | h <;> rw [h] <;> rfl

/-- A masked field is written where its mask bit is set. -/
theorem rwm_bit (lo : Nat) (st : Bool) (r mn mx : Nat) (hw old v : Word) :
    fieldWritten ⟨lo, 1, .rwm, st, r, mn, mx⟩ hw old v = if nbit v.toNat (16 + lo) then wfld v lo 1 else wfld old lo 1 := by
  have hn : nbit v.toNat (16 + lo) = v.getLsbD (16 + lo) := by
    unfold nbit
    rw [BitVec.getLsbD, Nat.testBit, Nat.and_comm, Nat.and_one_is_mod]
    rcases Nat.mod_two_eq_zero_or_one (v.toNat >>> (16 + lo)) with h | h <;> rw [h] <;> rfl
  unfold fieldWritten
  dsimp only
  rw [hn, wfld_bit, wfld_bit, wfld_bit]
  cases old.getLsbD lo <;> cases v.getLsbD lo <;> cases v.getLsbD (16 + lo) <;> rfl

/-- A write-1-to-clear bit is cleared where it is written as one and hardware does not set it in the tick. -/
theorem w1c_bit (lo : Nat) (st : Bool) (r mn mx : Nat) (hw old v : Word) :
    fieldWritten ⟨lo, 1, .w1c, st, r, mn, mx⟩ hw old v = b2n (old.getLsbD lo && (!v.getLsbD lo || hw.getLsbD lo)) := by
  unfold fieldWritten
  dsimp only
  rw [wfld_bit, wfld_bit, wfld_bit]
  cases old.getLsbD lo <;> cases v.getLsbD lo <;> cases hw.getLsbD lo <;> rfl

/-! ### Writes of a register's fields -/

/-- A write of a register that no lock holds, that has no staged field and is no configuration. -/
theorem fieldsWrite_plain {s : State} {o : Nat} {r : RegDesc} (hd : descAt o = some r) (hl : s.lockedBits o = 0) (hsig : sigBits o = 0) (hst : descSt r = 0)
    (p : Path) (v : Word) : s.fieldsWrite p o v = s.setReg o (s.mergeWord o 0 (s.reg o) v false r.fields) := by
  have hcfg : ∀ w, s.cfgWrite o (fun x => x.setReg o w) = s.setReg o w := fun w => by
    unfold State.cfgWrite
    refine if_pos ?_
    unfold State.sigValue
    rw [hsig, Nat.and_zero, Nat.and_zero]
  unfold State.fieldsWrite
  rw [hd]
  dsimp only
  rw [hl, hst, Nat.and_zero, Nat.zero_and, if_pos rfl, if_pos rfl, hcfg]

theorem setReg_frame (s : State) (o : Nat) (w : Word) : Frame [o] s (s.setReg o w) := (Frame.refl _ s).setReg w List.mem_cons_self

theorem reg_setReg_self (s : State) (o a : Nat) : (s.setReg o (s.reg o)).reg a = s.reg a := by
  by_cases h : a = o
  · rw [h, reg_setReg_same]
  · rw [reg_setReg_ne _ _ h]

/-! ### Accesses to nothing, and partial ones -/

theorem glErr_apart (s : State) (v : Nat) : (s.rput F.GL_ERRCNT_UNMAP v).rget F.GL_ERRCNT_PARTIAL = s.rget F.GL_ERRCNT_PARTIAL ∧
    (s.rput F.GL_ERRCNT_PARTIAL v).rget F.GL_ERRCNT_UNMAP = s.rget F.GL_ERRCNT_UNMAP :=
  ⟨rget_rput_apart (f := F.GL_ERRCNT_UNMAP) (g := F.GL_ERRCNT_PARTIAL) s v (by decide) rfl (.inl (by decide)),
    rget_rput_apart (f := F.GL_ERRCNT_PARTIAL) (g := F.GL_ERRCNT_UNMAP) s v (by decide) rfl (.inr (by decide))⟩

theorem rget_glErr_evt (s : State) (f : Fld) (hf : f.reg = R.GL_EVT) {g : Fld} (hg : g.reg = R.GL_ERRCNT) : (s.evt f).rget g = s.rget g :=
  rget_evt_ne s (by rw [hg]; decide) (by rw [hf, hg]; decide)

/-- A partial write is counted. -/
theorem partialWrite_shows (s : State) : countedOne s s.partialWrite F.GL_ERRCNT_PARTIAL ∧ s.partialWrite.ron F.GL_EVT_PARTIAL_S = true ∧
    s.partialWrite.rget F.GL_ERRCNT_UNMAP = s.rget F.GL_ERRCNT_UNMAP ∧ (s.ron F.GL_EVT_UNMAP_S = true → s.partialWrite.ron F.GL_EVT_UNMAP_S = true) ∧
    Frame [R.GL_ERRCNT, R.GL_EVT] s s.partialWrite := by
  have he : s.partialWrite = (s.rsat F.GL_ERRCNT_PARTIAL 1).evt F.GL_EVT_PARTIAL_S := rfl
  rw [he]
  refine ⟨(rget_glErr_evt _ _ rfl rfl).trans (rget_rsat_same s _ 1 (by decide)), ron_evt _ _ rfl (by decide) (by decide),
    (rget_glErr_evt _ _ rfl rfl).trans (glErr_apart s _).2, fun h => ?_,
    ((Frame.refl _ s).rsat (f := F.GL_ERRCNT_PARTIAL) 1 (by simp [F.GL_ERRCNT_PARTIAL])).evt (f := F.GL_EVT_PARTIAL_S) (by simp [F.GL_EVT_PARTIAL_S])⟩
  have h1 : (s.rsat F.GL_ERRCNT_PARTIAL 1).ron F.GL_EVT_UNMAP_S = true := (ron_of_rget_eq (rget_rsat_ne s (f := F.GL_ERRCNT_PARTIAL) (g := F.GL_EVT_UNMAP_S) 1 (by decide))).trans h
  exact (ron_of_rget_eq (rget_evt_apart _ (f := F.GL_EVT_PARTIAL_S) (g := F.GL_EVT_UNMAP_S) (by decide) (by decide) rfl (.inl (by decide)))).trans h1

/-- An access to nothing is counted. -/
theorem unmapped_shows (s : State) : countedOne s s.unmapped F.GL_ERRCNT_UNMAP ∧ s.unmapped.ron F.GL_EVT_UNMAP_S = true ∧
    s.unmapped.rget F.GL_ERRCNT_PARTIAL = s.rget F.GL_ERRCNT_PARTIAL ∧ Frame [R.GL_ERRCNT, R.GL_EVT] s s.unmapped := by
  have he : s.unmapped = (s.rsat F.GL_ERRCNT_UNMAP 1).evt F.GL_EVT_UNMAP_S := rfl
  rw [he]
  exact ⟨(rget_glErr_evt _ _ rfl rfl).trans (rget_rsat_same s _ 1 (by decide)), ron_evt _ _ rfl (by decide) (by decide),
    (rget_glErr_evt _ _ rfl rfl).trans (glErr_apart s _).1,
    ((Frame.refl _ s).rsat (f := F.GL_ERRCNT_UNMAP) 1 (by simp [F.GL_ERRCNT_UNMAP])).evt (f := F.GL_EVT_UNMAP_S) (by simp [F.GL_EVT_UNMAP_S])⟩

end Sys2Proof.Machine
end

section
/-!
SUPPORT. The slow domain: writes that wait for its clock, and the edge that applies them (R306, R310, R323).
-/
set_option Elab.async false
namespace Sys2Proof.Machine
open Sys2Proof

/-! ### What waits -/

/-- The waiting writes applied to a state. -/
def slowOver (l : List SlowWr) (s : State) : State :=
  l.foldl (fun (a : State) x => a.setReg x.ofs ((a.reg x.ofs &&& ~~~x.bits) ||| (x.w &&& x.bits))) s

theorem slowApply_eq (s : State) : s.slowApply = slowOver s.hif.slow s := rfl

theorem slowOver_reg (o : Nat) : ∀ (l : List SlowWr) (s : State),
    (slowOver l s).reg o = l.foldl (fun (w : Word) x => if x.ofs = o then (w &&& ~~~x.bits) ||| (x.w &&& x.bits) else w) (s.reg o)
  | [], _ => rfl
  | x :: l, s => by
    have hx : (s.setReg x.ofs ((s.reg x.ofs &&& ~~~x.bits) ||| (x.w &&& x.bits))).reg o =
        if x.ofs = o then (s.reg o &&& ~~~x.bits) ||| (x.w &&& x.bits) else s.reg o := by
      split
      case isTrue h => rw [h, reg_setReg_same]
      case isFalse h => rw [reg_setReg_ne _ _ (fun e => h e.symm)]
    rw [List.foldl_cons, ← hx]
    exact slowOver_reg o l _

theorem slowApply_reg (s : State) (o : Nat) : s.slowApply.reg o = afterSlow s o := slowOver_reg o s.hif.slow s

theorem slowOver_shape : ∀ (l : List SlowWr) (s : State), ∃ rs, slowOver l s = { s with regs := rs }
  | [], s => ⟨s.regs, rfl⟩
  | x :: l, s => by
    obtain ⟨rs, h⟩ := slowOver_shape l (s.setReg x.ofs ((s.reg x.ofs &&& ~~~x.bits) ||| (x.w &&& x.bits)))
    exact ⟨rs, h⟩

theorem afterSlow_apart {s : State} {o : Nat} (h : ∀ x ∈ s.hif.slow, x.ofs ≠ o) : afterSlow s o = s.reg o :=
  List.foldlRecOn (motive := fun w => w = s.reg o) _ _ rfl (fun w hw x hx => by rw [if_neg (h x hx)]; exact hw)

/-! ### The configuration count -/

/-- The registers of a list whose configured values differ between two states. -/
def sigDiffers (s old : State) (o : Nat) : Bool := decide (s.sigValue o ≠ old.sigValue o)

theorem cfgChanged_shape (a : State) : ∃ rs, a.cfgChanged = { a with regs := rs } := ⟨_, rfl⟩

/-- The count advances by the number of registers that differ. -/
theorem slowCount_from (s old : State) (os : List Nat) : ∀ a : State, let t := os.foldl (fun (a : State) o => if s.sigValue o = old.sigValue o then a else a.cfgChanged) a
    (∃ rs, t = { a with regs := rs }) ∧ (∀ o, o ≠ R.GL_CFGGEN → t.reg o = a.reg o) ∧
      t.rget F.GL_CFGGEN_GEN = (a.rget F.GL_CFGGEN_GEN + (os.filter (sigDiffers s old)).length) % 2 ^ 32 := by
  induction os with
  | nil => exact fun a => ⟨⟨a.regs, rfl⟩, fun _ _ => rfl, (Nat.mod_eq_of_lt (rget_lt a F.GL_CFGGEN_GEN)).symm⟩
  | cons o os ih =>
    intro a
    rw [List.foldl_cons]
    by_cases h : s.sigValue o = old.sigValue o
    · rw [if_pos h, List.filter_cons_of_neg (by unfold sigDiffers; rw [decide_eq_false (fun hn => hn h)]; decide)]
      exact ih a
    · rw [if_neg h, List.filter_cons_of_pos (by unfold sigDiffers; rw [decide_eq_true h])]
      obtain ⟨⟨rs, h1⟩, h2, h3⟩ := ih a.cfgChanged
      refine ⟨⟨rs, h1⟩, fun x hx => (h2 x hx).trans (reg_rwrap_ne a (f := F.GL_CFGGEN_GEN) 1 hx), ?_⟩
      have hg : a.cfgChanged.rget F.GL_CFGGEN_GEN = (a.rget F.GL_CFGGEN_GEN + 1) % 2 ^ 32 := rget_rwrap_same a F.GL_CFGGEN_GEN 1 (by decide)
      rw [h3, hg, List.length_cons]
      omega

/-! ### The edge -/

/-- The registers of the slow domain that no watchdog reads. -/
def slowRegs : List Nat := [R.PW_RET_TMR, R.PW_CTRL]

theorem slowRegs_facts : ∀ o ∈ slowRegs, 0x5000 ≤ o ∧ o < 0x6000 ∧ o ≠ R.PW_WDG ∧ o ≠ R.PW_STAT ∧ o ≠ R.PW_WDG_STAT ∧ stBits o = 0 := by decide +kernel

theorem slowRegs_still {o : Nat} (ho : o ∈ slowRegs) : StillReg o := by
  obtain ⟨h1, h2, -, -, -, h6⟩ := slowRegs_facts o ho
  refine ⟨fun hx => ?_, fun hx => ?_, h6⟩
  · have := hx.lies
    simp only [R.SPN_EVT, R.CFG_EVT] at this
    omega
  · cases hx with
    | apply h3 h4 => omega
    | gen => unfold R.GL_CFGGEN at h1; omega
    | spnStat => unfold R.SPN_STAT at h1; omega
    | lehr h3 h4 => omega

/-- What an edge of the slow clock makes of a state, where only those registers wait. -/
theorem slowEdge_shows {s : State} (h : ∀ x ∈ s.hif.slow, x.ofs ∈ slowRegs) :
    (∃ rs, s.slowEdge = { s with regs := rs, hif := { s.hif with slow := [], slowOld := s.hif.slow.map (fun x => { x with w := s.reg x.ofs }) } }) ∧
    (∀ o ∈ slowRegs, s.slowEdge.reg o = afterSlow s o) ∧
    s.slowEdge.rget F.GL_CFGGEN_GEN =
      (s.rget F.GL_CFGGEN_GEN + (slowRegs.filter (sigDiffers s.slowEdge s)).length) % 2 ^ 32 := by
  obtain ⟨a, ha⟩ : ∃ a, a = s.slowApply := ⟨_, rfl⟩
  obtain ⟨rs, hshape⟩ := slowOver_shape s.hif.slow s
  rw [← slowApply_eq, ← ha] at hshape
  have hreg : ∀ o, a.reg o = afterSlow s o := fun o => by rw [ha, slowApply_reg]
  obtain ⟨b, hb⟩ : ∃ b, b = a.slowCount s (s.hif.slow.map SlowWr.ofs).dedup := ⟨_, rfl⟩
  obtain ⟨⟨rs', h1⟩, h2, h3⟩ := slowCount_from a s (s.hif.slow.map SlowWr.ofs).dedup a
  rw [show (s.hif.slow.map SlowWr.ofs).dedup.foldl _ a = b from hb.symm] at h1 h2 h3
  have hedge : s.slowEdge = { b with hif := { b.hif with slow := [], slowOld := s.hif.slow.map (fun x => { x with w := s.reg x.ofs }) } } := by
    unfold State.slowEdge
    rw [← ha, ← hb]
    dsimp only
    rw [if_neg]
    intro hany
    obtain ⟨x, hx, he⟩ := List.any_eq_true.1 hany
    exact (slowRegs_facts _ (h x hx)).2.2.1 (of_decide_eq_true he)
  have hregs : s.slowEdge.regs = b.regs := by rw [hedge]
  have hslow : ∀ o ∈ slowRegs, s.slowEdge.reg o = afterSlow s o := fun o ho => by
    have hne : o ≠ R.GL_CFGGEN := by
      have := (slowRegs_facts o ho).1
      unfold R.GL_CFGGEN
      omega
    rw [show s.slowEdge.reg o = b.reg o from by simp only [State.reg, hregs], h2 o hne, hreg]
  refine ⟨⟨b.regs, ?_⟩, hslow, ?_⟩
  · rw [hedge, h1, hshape]
  · have hgen : a.rget F.GL_CFGGEN_GEN = s.rget F.GL_CFGGEN_GEN := rget_of_reg ((hreg _).trans (afterSlow_apart (fun x hx => by
      have := (slowRegs_facts _ (h x hx)).1
      show x.ofs ≠ R.GL_CFGGEN
      unfold R.GL_CFGGEN
      omega)))
    rw [rget_of_regs hregs, h3, hgen]
    refine congrArg (fun n => (s.rget F.GL_CFGGEN_GEN + n) % 2 ^ 32) (List.Perm.length_eq ((List.perm_ext_iff_of_nodup ?_ ?_).2 (fun o => ?_)))
    · exact (List.nodup_dedup _).filter _
    · exact List.Nodup.filter _ (by decide)
    · rw [List.mem_filter, List.mem_filter, List.mem_dedup]
      have hsig : o ∈ slowRegs → sigDiffers s.slowEdge s o = sigDiffers a s o := fun ho => by
        simp only [sigDiffers, State.sigValue, hslow o ho, hreg]
      constructor
      · rintro ⟨hm, hd⟩
        obtain ⟨x, hx, rfl⟩ := List.mem_map.1 hm
        exact ⟨h x hx, by rw [hsig (h x hx)]; exact hd⟩
      · rintro ⟨hm, hd⟩
        rw [hsig hm] at hd
        refine ⟨?_, hd⟩
        by_contra hno
        have : a.reg o = s.reg o := (hreg o).trans (afterSlow_apart (fun x hx he => hno (List.mem_map.2 ⟨x, hx, he⟩)))
        refine absurd hd ?_
        simp only [sigDiffers, State.sigValue, this, ne_eq, not_true_eq_false, decide_false, Bool.false_eq_true, not_false_eq_true]

/-- What the copy of a register shows behind the edge that has applied a write of it. -/
theorem slowRegs_shown {t : State} {l : List SlowWr} {g : Nat → Word} (h : t.hif.slowOld = l.map (fun x => { x with w := g x.ofs })) {x : SlowWr} (hx : x ∈ l)
    (ho : x.ofs ∈ slowRegs) (p : Path) : t.liveWord p false x.ofs = g x.ofs := by
  obtain ⟨h1, h2, -, h4, h5, -⟩ := slowRegs_facts _ ho
  have hlive : t.liveWord p false x.ofs = t.pwWord x.ofs := by
    unfold State.liveWord
    iterate 5 rw [if_neg (by omega)]
    rw [if_pos h2]
  rw [hlive]
  unfold State.pwWord State.slowReg
  rw [if_neg h4, if_neg h5, h]
  cases hf : (l.map (fun x => { x with w := g x.ofs })).find? (fun y => decide (y.ofs = x.ofs)) with
  | none =>
    have := List.find?_eq_none.1 hf _ (List.mem_map_of_mem hx)
    exact absurd (decide_eq_true rfl) this
  | some y =>
    obtain ⟨z, -, rfl⟩ := List.mem_map.1 (List.mem_of_find?_eq_some hf)
    have := of_decide_eq_true (List.find?_some (p := fun y : SlowWr => decide (y.ofs = x.ofs)) hf)
    exact congrArg g this

/-! ### A tick with an edge -/

theorem slowTick_edge {s : State} {k : Nat} (he : slowEdgeAt k = true) (h : s.hif.slow ≠ []) : s.slowTick k = s.slowEdge := if_pos ⟨he, .inl h⟩

theorem sameHif_slow {a b : HostIf} (h : { b with evSet := a.evSet } = a) : b.slow = a.slow ∧ b.slowOld = a.slowOld :=
  ⟨(congrArg HostIf.slow h :), (congrArg HostIf.slowOld h :)⟩

/-- The start of a tick behind the edge leaves the registers that no tick writes, and what the edge has noted. -/
theorem startRest_slow (c : State) : let t := ((c.apTick 0).banksSwap).blocksStart
    (∀ o, StillReg o → t.reg o = c.reg o) ∧ t.hif.slow = c.hif.slow ∧ t.hif.slowOld = c.hif.slowOld := by
  intro t
  obtain ⟨a, ha⟩ : ∃ a, a = c.apTick 0 := ⟨_, rfl⟩
  have h1 : Ticked c a := ha ▸ apTick_tick ticked_closed ticked_phase c 0 (.refl c)
  obtain ⟨x, hx⟩ := banksSwap_shape a
  obtain ⟨b, hb⟩ : ∃ b, b = a.banksSwap := ⟨_, rfl⟩
  have h2 : Ticked b b.blocksStart := blocksStart_tick ticked_closed b (.refl b)
  have ht : t = b.blocksStart := by rw [hb, ha]
  rw [hx] at hb
  have hregs : ∀ o, b.reg o = a.reg o := fun o => by rw [hb]; rfl
  have hhif : b.hif = a.hif := by rw [hb]
  rw [ht]
  obtain ⟨p1, p2⟩ := sameHif_slow h1.hif
  obtain ⟨q1, q2⟩ := sameHif_slow h2.hif
  rw [hhif] at q1 q2
  exact ⟨fun o ho => (h2.regs o ho).trans ((hregs o).trans (h1.regs o ho)), q1.trans p1, q2.trans p2⟩

/-- The end of a tick and the spine's move leave what waits. -/
theorem endMoved_slow (s : State) : let t := s.tickEnd.spineMove
    (∀ o, StillReg o → t.reg o = s.reg o) ∧ t.hif.slow = s.hif.slow ∧ t.spine.tick = s.spine.tick := by
  have h1 := tickEnd_ticked s
  generalize s.tickEnd = a at h1
  have hhif := (Far.hif (spineMove_frame a).blocks.1 :)
  refine ⟨fun o ho => (spineMove_reg a ho).trans (h1.regs o ho), ?_, (spineMove_tick a).trans h1.tick⟩
  exact (sameHif_slow hhif).1.trans (sameHif_slow h1.hif).1

end Sys2Proof.Machine
end

section
/-!
SUPPORT. Writes of single registers, and of the slow domain (R305 to R311).
-/
set_option Elab.async false
namespace Sys2Proof.Machine
open Sys2Proof

theorem regSites (p : Path) : ∀ o ∈ [R.SPN_DUR, R.AP_CTRL, R.HL_EVT, R.ID, R.PW_RET_TMR, R.PW_CTRL], siteOf p (word o).toNat = .reg o := by
  cases p <;> decide +kernel

theorem regLocks (s : State) : ∀ o ∈ [R.SPN_DUR, R.AP_CTRL, R.HL_EVT, R.ID], s.lockedBits o = 0 := by
  have h : ∀ o ∈ [R.SPN_DUR, R.AP_CTRL, R.HL_EVT, R.ID], lockMask o = none := by decide +kernel
  intro o ho
  unfold State.lockedBits
  rw [h o ho]

theorem regSigs : ∀ o ∈ [R.SPN_DUR, R.AP_CTRL, R.HL_EVT, R.ID], sigBits o = 0 := by decide +kernel

theorem writeReg_spnDur (s : State) (p : Path) (v : Word) : s.writeReg p R.SPN_DUR v = s.fieldsWrite p R.SPN_DUR v := by
  unfold State.writeReg State.spnWrite
  rw [if_neg (by decide), if_pos (by decide), if_neg (by decide), if_neg (by decide), if_neg (by decide)]

theorem writeReg_apCtrl (s : State) (p : Path) (v : Word) : s.writeReg p R.AP_CTRL v = s.fieldsWrite p R.AP_CTRL v := by
  unfold State.writeReg State.apWrite
  iterate 3 rw [if_neg (by decide)]
  rw [if_pos (by decide)]
  dsimp only
  iterate 6 rw [if_neg (by decide)]

theorem writeReg_hlEvt (s : State) (p : Path) (v : Word) : s.writeReg p R.HL_EVT v = s.fieldsWrite p R.HL_EVT v := by
  unfold State.writeReg
  iterate 7 rw [if_neg (by decide)]
  rw [if_pos (by decide)]

theorem writeReg_id (s : State) (p : Path) (v : Word) : s.writeReg p R.ID v = s.fieldsWrite p R.ID v := by
  unfold State.writeReg State.glWrite
  rw [if_pos (by decide)]
  iterate 5 rw [if_neg (by decide)]

theorem writeReg_slow (s : State) (p : Path) {o : Nat} (ho : o ∈ slowRegs) (hcmd : o ≠ R.PW_CMD ∧ o ≠ R.PW_WDG_KICK ∧ o ≠ R.PW_EVT) (v : Word) :
    s.writeReg p o v = s.slowWrite p o v := by
  obtain ⟨h1, h2, h3, -⟩ := slowRegs_facts o ho
  unfold State.writeReg State.pwWrite
  iterate 5 rw [if_neg (by omega)]
  rw [if_pos h2, if_neg hcmd.1, if_neg h3, if_neg hcmd.2.1, if_neg hcmd.2.2]

theorem writeReg_chPin (s : State) (p : Path) (c : Fin 96) (v : Word) : s.writeReg p (R.CHc_PIN c) v = s.fieldsWrite p (R.CHc_PIN c) v := by
  have h : R.CHc_PIN c % 0x400 = 8 := by unfold R.CHc_PIN; omega
  have hlo : 0x100000 ≤ R.CHc_PIN c ∧ R.CHc_PIN c < 0x118000 := by unfold R.CHc_PIN; omega
  unfold State.writeReg State.chPageWrite
  iterate 15 rw [if_neg (by omega)]
  rw [if_pos hlo.2]
  dsimp only
  rw [h]
  iterate 6 rw [if_neg (by decide)]

/-! ### The rows of the maps -/

def spnDurFields : List FieldDesc := [⟨0, 32, .rw, false, 0, 0, 4294967295⟩]

def apCtrlFields : List FieldDesc := [⟨16, 16, .wo, false, 0, 0, 65535⟩, ⟨1, 1, .rwm, false, 0, 0, 1⟩, ⟨0, 1, .rwm, false, 0, 0, 1⟩]

/-- A field of one event bit. -/
def evtField (i : Nat) : FieldDesc := ⟨i, 1, .w1c, false, 0, 0, 1⟩

def hlEvtFields : List FieldDesc := [6, 5, 4, 3, 2, 1, 0].map evtField

def pwCtrlFields : List FieldDesc :=
  [⟨16, 16, .wo, false, 0, 0, 65535⟩, ⟨5, 1, .rwm, false, 0, 0, 1⟩, ⟨4, 1, .rwm, false, 0, 0, 1⟩, ⟨3, 1, .rwm, false, 1, 0, 1⟩, ⟨2, 1, .rwm, false, 0, 0, 1⟩]

def chPinFields : List FieldDesc :=
  [⟨16, 16, .wo, false, 0, 0, 65535⟩, ⟨8, 8, .rwm, true, 0, 0, 255⟩, ⟨7, 1, .rwm, true, 0, 0, 1⟩, ⟨6, 1, .rwm, true, 0, 0, 1⟩,
    ⟨4, 2, .rwm, true, 0, 0, 2⟩, ⟨2, 2, .rwm, true, 1, 0, 3⟩, ⟨0, 2, .rwm, true, 0, 0, 2⟩]

theorem descRows : descAt R.SPN_DUR = some ⟨R.SPN_DUR, [], spnDurFields⟩ ∧ descAt R.AP_CTRL = some ⟨R.AP_CTRL, [], apCtrlFields⟩ ∧
    descAt R.HL_EVT = some ⟨R.HL_EVT, [], hlEvtFields⟩ ∧ descAt R.PW_RET_TMR = some ⟨R.PW_RET_TMR, [], spnDurFields⟩ ∧
    descAt R.PW_CTRL = some ⟨R.PW_CTRL, [], pwCtrlFields⟩ := by decide +kernel

theorem descRow_id : ∃ r, descAt R.ID = some r ∧ descSt r = 0 ∧ ∀ f ∈ r.fields, fieldWritable f = false := by
  refine ⟨⟨R.ID, [], [⟨16, 16, .ro, false, 150, 0, 65535⟩, ⟨8, 8, .ro, false, 90, 0, 255⟩, ⟨0, 8, .ro, false, 161, 0, 255⟩]⟩, ?_⟩
  decide +kernel

theorem descRow_chPin (c : Fin 96) : descAt (R.CHc_PIN c) = some ⟨R.CHc_PIN 0, [(96, 0x400)], chPinFields⟩ := by
  revert c
  decide +kernel

theorem fields_separate : Separate spnDurFields ∧ Separate apCtrlFields ∧ Separate hlEvtFields ∧ Separate pwCtrlFields ∧ Separate chPinFields := by
  unfold Separate
  decide

/-! ### What they write -/

theorem fieldsWrite_spnDur (s : State) (p : Path) (v : Word) : s.fieldsWrite p R.SPN_DUR v = s.setReg R.SPN_DUR v := by
  have hex := fun lo n w => fieldExtra_plain s (o := R.SPN_DUR) (by decide) (by decide) (by decide) (by decide) lo n w
  rw [fieldsWrite_plain descRows.1 (regLocks s _ (by simp)) (regSigs _ (by simp)) (by decide)]
  refine congrArg (s.setReg R.SPN_DUR) (BitVec.eq_of_toNat_eq ?_)
  have h := mergeWord_takes (s := s) hex (s.reg R.SPN_DUR) v (st := false) fields_separate.1 (f := ⟨0, 32, .rw, false, 0, 0, 4294967295⟩)
    (by decide) rfl rfl rfl rfl
  rw [show fieldWritten ⟨0, 32, .rw, false, 0, 0, 4294967295⟩ _ _ v = wfld v 0 32 from rfl, wfld_full] at h
  exact h.trans (wfld_full v)

theorem fieldsWrite_apCtrl (s : State) (p : Path) (v : Word) : ∃ w, s.fieldsWrite p R.AP_CTRL v = s.setReg R.AP_CTRL w ∧
    wfld w 0 1 = (if nbit v.toNat 16 then wfld v 0 1 else wfld (s.reg R.AP_CTRL) 0 1) ∧
    wfld w 1 1 = (if nbit v.toNat 17 then wfld v 1 1 else wfld (s.reg R.AP_CTRL) 1 1) := by
  have hex := fun lo n w => fieldExtra_plain s (o := R.AP_CTRL) (by decide) (by decide) (by decide) (by decide) lo n w
  have take : ∀ f ∈ apCtrlFields, _ := fun f hf => mergeWord_takes (s := s) hex (s.reg R.AP_CTRL) v (st := false) fields_separate.2.1 hf
  refine ⟨_, fieldsWrite_plain descRows.2.1 (regLocks s _ (by simp)) (regSigs _ (by simp)) (by decide) p v, ?_, ?_⟩
  · exact (take ⟨0, 1, .rwm, false, 0, 0, 1⟩ (by decide) rfl rfl rfl rfl).trans (rwm_bit 0 _ _ _ _ _ _ _)
  · exact (take ⟨1, 1, .rwm, false, 0, 0, 1⟩ (by decide) rfl rfl rfl rfl).trans (rwm_bit 1 _ _ _ _ _ _ _)

theorem fieldsWrite_hlEvt (s : State) (p : Path) (v : Word) : ∃ w, s.fieldsWrite p R.HL_EVT v = s.setReg R.HL_EVT w ∧
    w &&& 0x7F = s.reg R.HL_EVT &&& (~~~v ||| s.setNow R.HL_EVT) &&& 0x7F := by
  have hex := fun lo n w => fieldExtra_plain s (o := R.HL_EVT) (by decide) (by decide) (by decide) (by decide) lo n w
  obtain ⟨w, hw⟩ : ∃ w, w = s.mergeWord R.HL_EVT 0 (s.reg R.HL_EVT) v false hlEvtFields := ⟨_, rfl⟩
  refine ⟨w, by rw [hw]; exact fieldsWrite_plain descRows.2.2.1 (regLocks s _ (by simp)) (regSigs _ (by simp)) (by decide) p v, ?_⟩
  have bit : ∀ i, i < 7 → w.getLsbD i = ((s.reg R.HL_EVT).getLsbD i && (!v.getLsbD i || (s.setNow R.HL_EVT).getLsbD i)) := fun i hi => by
    have hm : evtField i ∈ hlEvtFields := List.mem_map.2 ⟨i, by simp only [List.mem_cons, List.not_mem_nil, or_false]; omega, rfl⟩
    have h := (mergeWord_takes (s := s) hex (s.reg R.HL_EVT) v (st := false) fields_separate.2.2.1 hm rfl rfl rfl rfl).trans (w1c_bit i _ _ _ _ _ _ _)
    rw [← hw, show wfld w (evtField i).lo (evtField i).width = wfld w i 1 from rfl, wfld_bit] at h
    revert h
    generalize w.getLsbD i = a
    generalize ((s.reg R.HL_EVT).getLsbD i && _) = b
    cases a <;> cases b <;> decide
  refine BitVec.eq_of_getLsbD_eq (fun i hi => ?_)
  have hmask : (0x7F : Word).getLsbD i = decide (i < 7) := by
    have : ∀ j : Fin 32, (0x7F : Word).getLsbD j.val = decide (j.val < 7) := by decide
    exact this ⟨i, hi⟩
  rw [BitVec.getLsbD_and, BitVec.getLsbD_and, BitVec.getLsbD_and, BitVec.getLsbD_or, BitVec.getLsbD_not, hmask, decide_eq_true hi, Bool.true_and]
  by_cases h7 : i < 7
  · rw [bit i h7]
  · rw [decide_eq_false h7, Bool.and_false, Bool.and_false]

theorem fieldsWrite_id (s : State) (p : Path) (v : Word) : s.fieldsWrite p R.ID v = s.setReg R.ID (s.reg R.ID) := by
  obtain ⟨r, hr, hst, hro⟩ := descRow_id
  rw [fieldsWrite_plain hr (regLocks s _ (by simp)) (regSigs _ (by simp)) hst]
  refine congrArg (s.setReg R.ID) (mergeWord_none (fun f hf => decide_eq_false (fun h => ?_)))
  exact absurd ((hro f hf).symm.trans h.2.1) (by decide)

/-- A write of a pin's configuration stages what its mask selects. -/
theorem fieldsWrite_chPin {s : State} (hl : s.locked 2 = false) (p : Path) (c : Fin 96) {v : Word} (hv : wfld v 24 8 = 255) :
    ∃ w, s.fieldsWrite p (R.CHc_PIN c) v = (s.setReg (R.CHc_PIN c) (s.reg (R.CHc_PIN c))).stage (R.CHc_PIN c) w ∧ wfld w 8 8 = wfld v 8 8 := by
  have hex := fieldExtra_pin s c
  have hlk : s.lockedBits (R.CHc_PIN c) = 0 := by
    unfold State.lockedBits
    split
    case h_1 d m h =>
      have : ∀ c : Fin 96, lockMask (R.CHc_PIN c) = some (2, 0xFFFFFFFF) := by decide +kernel
      rw [this c] at h
      obtain ⟨rfl, rfl⟩ := Prod.mk.inj (Option.some.inj h)
      rw [hl]
      rfl
    · rfl
  have hactive : ∀ old, s.mergeWord (R.CHc_PIN c) 0 old v false chPinFields = old := fun old => mergeWord_none (fun f hf => decide_eq_false (fun h => by
    have : ∀ f ∈ chPinFields, f.st = false → fieldWritable f = false := by decide
    exact absurd ((this f hf h.1).symm.trans h.2.1) (by decide)))
  have hcfg : s.cfgWrite (R.CHc_PIN c) (fun x => x.setReg (R.CHc_PIN c) (s.reg (R.CHc_PIN c))) = s.setReg (R.CHc_PIN c) (s.reg (R.CHc_PIN c)) := by
    unfold State.cfgWrite
    refine if_pos ?_
    unfold State.sigValue
    rw [reg_setReg_same]
  have hsel : descSelects ⟨R.CHc_PIN 0, [(96, 0x400)], chPinFields⟩ v &&& descSt ⟨R.CHc_PIN 0, [(96, 0x400)], chPinFields⟩ &&& (0xFFFFFFFF - 0) ≠ 0 := by
    have hs : descSelects ⟨R.CHc_PIN 0, [(96, 0x400)], chPinFields⟩ v = 0xFFFF &&& wfld v 16 16 := by
      have hall : chPinFields.foldl (fun (a : Nat) f => if fieldWritable f then a + fieldBits f else a) 0 = 0xFFFF := by decide
      unfold descSelects
      dsimp only
      rw [hall, if_pos (by decide)]
    have hd : descSt ⟨R.CHc_PIN 0, [(96, 0x400)], chPinFields⟩ = 0xFFFF := by decide
    have hm : wfld v 16 16 / 256 = 255 := by
      have : wfld v 24 8 = wfld v 16 16 / 256 := by
        unfold wfld
        rw [Nat.shiftRight_eq_div_pow, Nat.shiftRight_eq_div_pow]
        omega
      omega
    rw [hs, hd]
    have hlt := wfld_lt v 16 16
    generalize wfld v 16 16 = m at hm hlt
    intro h0
    have hb := congrArg (fun n => n.testBit 8) h0
    simp only [Nat.testBit_and, Nat.zero_testBit] at hb
    have hmb : m.testBit 8 = true := by
      rw [Nat.testBit_eq_decide_div_mod_eq]
      exact decide_eq_true (by omega)
    rw [hmb] at hb
    exact absurd hb (by decide)
  refine ⟨s.mergeWord (R.CHc_PIN c) 0 (s.stagedReg (R.CHc_PIN c)) v true chPinFields, ?_, ?_⟩
  · unfold State.fieldsWrite
    rw [descRow_chPin c]
    dsimp only
    rw [hlk, Nat.and_zero, if_pos rfl, hactive, hcfg]
    exact if_neg hsel
  · refine (mergeWord_takes (s := s) hex (s.stagedReg (R.CHc_PIN c)) v (st := true) fields_separate.2.2.2.2 (f := ⟨8, 8, .rwm, true, 0, 0, 255⟩)
      (by decide) rfl rfl rfl rfl).trans ?_
    unfold fieldWritten
    dsimp only
    rw [show 16 + 8 = 24 from rfl, hv, show 2 ^ 8 - 1 - 255 = 0 from rfl, Nat.and_zero, Nat.zero_or, show 255 = 2 ^ 8 - 1 from rfl, Nat.and_two_pow_sub_one_eq_mod,
      Nat.mod_eq_of_lt (wfld_lt v 8 8)]

/-- A write of a register of the slow domain joins those that wait. -/
theorem slowWrite_waits {s : State} (hl : s.loading = false) (p : Path) {o : Nat} {r : RegDesc} (hd : descAt o = some r) (v : Word) :
    s.slowWrite p o v = { s with hif := { s.hif with
      slow := s.hif.slow ++ [⟨p, o, word (descSelects r v), s.mergeWord o 0 (afterSlow s o) v false r.fields⟩] } } := by
  unfold State.slowWrite State.slowNext
  rw [hd, hl, slowApply_reg]

end Sys2Proof.Machine
end

section
set_option Elab.async false
namespace Sys2Proof
open Sys2Proof.Machine

theorem takesWrites_powered {s : State} (h : s.takesWrites = true) : s.powered = true ∧ s.frozen = false := by
  rw [takesWrites_iff] at h
  exact ⟨h.1, h.2.1⟩

theorem slowWrites_wait (p : Path) (v : Word) {s : State} (hw : s.takesWrites = true) :
    (∃ t, exec (.registerWrite p (word R.PW_RET_TMR) v true) s = .next t ∧
      t.hif = { s.hif with slow := s.hif.slow ++ [⟨p, R.PW_RET_TMR, 0xFFFFFFFF, v⟩] } ∧
      (∀ o, t.reg o = s.reg o) ∧ State.sameBlocks { s with hif := t.hif } t) ∧
    (∃ t x, exec (.registerWrite p (word R.PW_CTRL) v true) s = .next t ∧ x.path = p ∧ x.ofs = R.PW_CTRL ∧
      wfld x.w 3 1 = (if nbit v.toNat 19 then wfld v 3 1 else wfld (afterSlow s R.PW_CTRL) 3 1) ∧ nbit x.bits.toNat 3 = nbit v.toNat 19 ∧
      wfld x.w 2 1 = (if nbit v.toNat 18 then wfld v 2 1 else wfld (afterSlow s R.PW_CTRL) 2 1) ∧ nbit x.bits.toNat 2 = nbit v.toNat 18 ∧
      t.hif = { s.hif with slow := s.hif.slow ++ [x] } ∧ (∀ o, t.reg o = s.reg o) ∧ State.sameBlocks { s with hif := t.hif } t) := by
  have hl := loading_of_writes hw
  obtain ⟨-, -, -, hd1, hd2⟩ := descRows
  have hrun : ∀ {o : Nat} {r : RegDesc}, o ∈ slowRegs → descAt o = some r → o ≠ R.PW_CMD ∧ o ≠ R.PW_WDG_KICK ∧ o ≠ R.PW_EVT → siteOf p (word o).toNat = .reg o →
      o ≠ R.FRZ_CMD → o ≠ R.CFG_CMD → exec (.registerWrite p (word o) v true) s = .next { s with hif := { s.hif with
        slow := s.hif.slow ++ [⟨p, o, word (descSelects r v), s.mergeWord o 0 (afterSlow s o) v false r.fields⟩] } } :=
    fun ho hd hc hsite h2 h3 => (exec_fullWrite hw hsite hc.1 h2 h3).trans (congrArg _ ((writeReg_slow s p ho hc v).trans (slowWrite_waits hl p hd v)))
  constructor
  · have h := hrun (o := R.PW_RET_TMR) (by decide) hd1 (by decide) (regSites p _ (by simp)) (by decide) (by decide)
    refine ⟨_, h, ?_, fun _ => rfl, sameBlocks_refl _⟩
    have hex := fun lo n w => fieldExtra_plain s (o := R.PW_RET_TMR) (by decide) (by decide) (by decide) (by decide) lo n w
    have hm : s.mergeWord R.PW_RET_TMR 0 (afterSlow s R.PW_RET_TMR) v false spnDurFields = v := by
      have h := mergeWord_takes (s := s) hex (afterSlow s R.PW_RET_TMR) v (st := false) fields_separate.1 (f := ⟨0, 32, .rw, false, 0, 0, 4294967295⟩)
        (by decide) rfl rfl rfl rfl
      refine BitVec.eq_of_toNat_eq ?_
      rw [← wfld_full, ← wfld_full v]
      exact h
    have hs : word (descSelects ⟨R.PW_RET_TMR, [], spnDurFields⟩ v) = 0xFFFFFFFF := rfl
    show ({ s.hif with slow := s.hif.slow ++ [⟨p, R.PW_RET_TMR, word (descSelects ⟨R.PW_RET_TMR, [], spnDurFields⟩ v),
      s.mergeWord R.PW_RET_TMR 0 (afterSlow s R.PW_RET_TMR) v false spnDurFields⟩] } : HostIf) = _
    rw [hm, hs]
  · have h := hrun (o := R.PW_CTRL) (by decide) hd2 (by decide) (regSites p _ (by simp)) (by decide) (by decide)
    have hex := fun lo n w => fieldExtra_plain s (o := R.PW_CTRL) (by decide) (by decide) (by decide) (by decide) lo n w
    have take : ∀ f ∈ pwCtrlFields, _ := fun f hf => mergeWord_takes (s := s) hex (afterSlow s R.PW_CTRL) v (st := false) fields_separate.2.2.2.1 hf
    have hsel : descSelects ⟨R.PW_CTRL, [], pwCtrlFields⟩ v = 60 &&& wfld v 16 16 := by
      have hall : pwCtrlFields.foldl (fun (a : Nat) f => if fieldWritable f then a + fieldBits f else a) 0 = 60 := by decide
      unfold descSelects
      dsimp only
      rw [hall, if_pos (by decide)]
    have hbit : ∀ i, i < 16 → (60 : Nat).testBit i = true → nbit (word (descSelects ⟨R.PW_CTRL, [], pwCtrlFields⟩ v)).toNat i = nbit v.toNat (16 + i) := fun i hi h60 => by
      rw [hsel, nbit_toNat, nbit_toNat, word, BitVec.getLsbD_ofNat, Nat.testBit_and, h60, Bool.true_and, decide_eq_true (by omega), Bool.true_and, wfld,
        Nat.testBit_mod_two_pow, decide_eq_true hi, Bool.true_and, Nat.testBit_shiftRight, BitVec.getLsbD]
    refine ⟨_, _, h, rfl, rfl, ?_, hbit 3 (by decide) (by decide), ?_, hbit 2 (by decide) (by decide), rfl, fun _ => rfl, sameBlocks_refl _⟩
    · exact (take ⟨3, 1, .rwm, false, 1, 0, 1⟩ (by decide) rfl rfl rfl rfl).trans (rwm_bit 3 _ _ _ _ _ _ _)
    · exact (take ⟨2, 1, .rwm, false, 0, 0, 1⟩ (by decide) rfl rfl rfl rfl).trans (rwm_bit 2 _ _ _ _ _ _ _)

theorem slowEdge_applies {s : State} (hp : s.pending = []) (he : s.takesEvents = true) (hedge : s.spine.counting = true → slowEdgeAt s.spine.tick = true)
    (hne : s.hif.slow ≠ []) (hall : ∀ x ∈ s.hif.slow, x.ofs ∈ slowRegs) :
    ∃ t, step s = .next t ∧ t.hif.slow = [] ∧ (∀ o ∈ slowRegs, t.reg o = afterSlow s o) ∧
      t.hif.slowOld = s.hif.slow.map (fun x => { x with w := s.reg x.ofs }) ∧
      (s.spine.counting = false → t.rget F.GL_CFGGEN_GEN = (s.rget F.GL_CFGGEN_GEN + (slowRegs.filter (sigDiffers t s)).length) % 2 ^ 32) := by
  obtain ⟨hpow, hfrz⟩ := (takesEvents_iff s).1 he
  have hstep : step s = .next s.pllTick := idleStepIsATick s hp
  by_cases hc : s.spine.counting = true
  · obtain ⟨a, ha⟩ : ∃ a, a = if s.loading then s else { s with pw := { s.pw with wdgTicks := s.pw.wdgTicks + 1 } } := ⟨_, rfl⟩
    have hregs : ∀ o, a.reg o = s.reg o := fun o => by rw [ha]; split <;> rfl
    have hhif : a.hif = s.hif := by rw [ha]; split <;> rfl
    have htick : a.spine.tick = s.spine.tick := by rw [ha]; split <;> rfl
    have hrun : s.pllTick = a.tickEnd.spineMove.tickStart 0 := by
      unfold State.pllTick State.pllTickWith State.tickMove
      rw [if_neg (by rw [hc, hpow]; decide), if_neg (by rw [hfrz]; decide), ← ha]
    obtain ⟨h1, h2, h3⟩ := endMoved_slow a
    generalize a.tickEnd.spineMove = b at hrun h1 h2 h3
    obtain ⟨b', hb'⟩ : ∃ b' : State, b' = { b.modSpine (fun p => { p with tick := p.tick + 1 }) with hif := { b.hif with evSet := [] } } := ⟨_, rfl⟩
    have hslow : b'.hif.slow = s.hif.slow := by rw [hb', ← hhif, ← h2]
    have hreg' : ∀ o, StillReg o → b'.reg o = s.reg o := fun o ho => by
      rw [hb']
      exact (h1 o ho).trans (hregs o)
    have hbegun : b.tickBegun = b'.slowEdge := by
      have : b.tickBegun = b'.slowTick b.spine.tick := by rw [hb']; rfl
      rw [this, slowTick_edge (by rw [h3, htick]; exact hedge hc) (by rw [hslow]; exact hne)]
    obtain ⟨⟨rs, e1⟩, e2, -⟩ := slowEdge_shows (s := b') (by rw [hslow]; exact hall)
    obtain ⟨g1, g2, g3⟩ := startRest_slow b'.slowEdge
    rw [tickStart_eq, hbegun] at hrun
    rw [hrun] at hstep
    generalize ((b'.slowEdge.apTick 0).banksSwap).blocksStart = t at hstep g1 g2 g3
    have hold : b'.slowEdge.hif.slow = [] ∧ b'.slowEdge.hif.slowOld = b'.hif.slow.map (fun x => { x with w := b'.reg x.ofs }) := by
      rw [e1]
      exact ⟨rfl, rfl⟩
    refine ⟨t, hstep, g2.trans hold.1, fun o ho => ?_, ?_, fun hn => absurd (hc.symm.trans hn) (by decide)⟩
    · rw [g1 o (slowRegs_still ho), e2 o ho]
      unfold afterSlow
      rw [hslow, hreg' o (slowRegs_still ho)]
    · rw [g3, hold.2, hslow]
      exact List.map_congr_left (fun x hx => by rw [hreg' _ (slowRegs_still (hall x hx))])
  · obtain ⟨b, hb⟩ : ∃ b : State, b = { s with hif := { s.hif with evSet := [] } } := ⟨_, rfl⟩
    have hrun : s.pllTick = b.slowEdge := by
      unfold State.pllTick State.pllTickWith
      rw [if_pos (Or.inl hc), hb]
    have hslow : b.hif.slow = s.hif.slow := by rw [hb]
    have hregs : b.regs = s.regs := by rw [hb]
    have hreg : ∀ o, b.reg o = s.reg o := fun o => by simp only [State.reg, hregs]
    obtain ⟨⟨rs, e1⟩, e2, e3⟩ := slowEdge_shows (s := b) (by rw [hslow]; exact hall)
    rw [hrun] at hstep
    have hold : b.slowEdge.hif.slow = [] ∧ b.slowEdge.hif.slowOld = b.hif.slow.map (fun x => { x with w := b.reg x.ofs }) := by
      rw [e1]
      exact ⟨rfl, rfl⟩
    refine ⟨_, hstep, hold.1, fun o ho => ?_, ?_, fun _ => ?_⟩
    · rw [e2 o ho]
      unfold afterSlow
      rw [hslow, hreg]
    · rw [hold.2, hslow]
      exact List.map_congr_left (fun x hx => by rw [hreg])
    · rw [e3, rget_of_regs hregs]
      have hd : sigDiffers b.slowEdge b = sigDiffers b.slowEdge s := funext (fun o => by unfold sigDiffers State.sigValue; rw [hreg])
      rw [hd]

theorem slowWrites_holds : slowWrites := by
  refine ⟨fun p v s hw => slowWrites_wait p v hw, fun s hp he hedge hne hall => ?_⟩
  have hall' : ∀ x ∈ s.hif.slow, x.ofs ∈ slowRegs := fun x hx => by
    simp only [slowRegs, List.mem_cons, List.not_mem_nil, or_false]
    exact hall x hx
  obtain ⟨t, h1, h2, h3, h4, h5⟩ := slowEdge_applies hp he hedge hne hall'
  exact ⟨t, h1, h2, h3, h4, fun x hx p => slowRegs_shown h4 hx (hall' x hx) p, h5⟩

/-- An access to nothing: what it counts, and what a read shows. -/
theorem accessesToNothing {p : Path} {a : Word} (hsite : siteOf p a.toNat = .unmapped) {s : State} (hw : s.takesWrites = true) (v : Word) (full isWrite : Bool) :
    ∀ c ∈ [Instr.registerWrite p a v full, .unmappedAccess p a isWrite, .rlRead p a],
      ∃ t, exec c s = .next t ∧ countedOne s t F.GL_ERRCNT_UNMAP ∧ t.ron F.GL_EVT_UNMAP_S = true ∧
        s.sameRegsBut t [R.GL_ERRCNT, R.GL_EVT] ∧ State.sameBlocks { s with pcie := t.pcie, spi := t.spi } t ∧
        (c = .registerWrite p a v false → a.toNat < 0x400000 → countedOne s t F.GL_ERRCNT_PARTIAL ∧ t.ron F.GL_EVT_PARTIAL_S = true) ∧
        (c = .registerWrite p a v true → t.rget F.GL_ERRCNT_PARTIAL = s.rget F.GL_ERRCNT_PARTIAL) ∧
        (c = .rlRead p a ∨ (c = .unmappedAccess p a isWrite ∧ isWrite = false) → (t.path p).rdata = [0]) := by
  obtain ⟨hpow, hfrz⟩ := takesWrites_powered hw
  obtain ⟨u1, u2, u3, u4⟩ := unmapped_shows s
  have paths : ∀ t : State, s.sameBlocks t → State.sameBlocks { s with pcie := t.pcie, spi := t.spi } t := fun t ht => by
    have h1 : t.pcie = s.pcie := ht.1.2.1
    have h2 : t.spi = s.spi := ht.1.2.2.1
    rw [h1, h2]
    exact ht
  obtain ⟨u, hu⟩ : ∃ u, u = s.unmapped := ⟨_, rfl⟩
  rw [← hu] at u1 u2 u3 u4
  have hread : s.readAt p a.toNat = u.answer p 0 := by
    unfold State.readAt
    rw [hsite]
    dsimp only
    rw [hfrz, if_neg (by decide), hu]
  have hro := answer_only p u 0
  have readBlocks : State.sameBlocks { s with pcie := (u.answer p 0).pcie, spi := (u.answer p 0).spi } (u.answer p 0) := by
    cases p
    · exact ⟨⟨u4.blocks.1.1, rfl, rfl, u4.blocks.1.2.2.2⟩, u4.blocks.2⟩
    · exact ⟨⟨u4.blocks.1.1, rfl, rfl, u4.blocks.1.2.2.2⟩, u4.blocks.2⟩
  have readCount : countedOne s (u.answer p 0) F.GL_ERRCNT_UNMAP := (hro.rget _).trans u1
  have readEvt : (u.answer p 0).ron F.GL_EVT_UNMAP_S = true := (ron_of_rget_eq (hro.rget _)).trans u2
  have readRegs : s.sameRegsBut (u.answer p 0) [R.GL_ERRCNT, R.GL_EVT] := fun o hr ho => (hro.reg o).trans (u4.regs o hr ho)
  intro c hc
  simp only [List.mem_cons, List.not_mem_nil, or_false] at hc
  rcases hc with rfl | rfl | rfl
  · have hrun : exec (.registerWrite p a v full) s = .next (if full ∨ 0x400000 ≤ a.toNat then u else u.partialWrite) := by
      show Host.Outcome.next (s.writeAt p a.toNat v full) = _
      unfold State.writeAt
      rw [hsite]
      dsimp only
      rw [hostWrite_open hw, hu]
    by_cases hf : full = true ∨ 0x400000 ≤ a.toNat
    · rw [if_pos hf] at hrun
      refine ⟨u, hrun, u1, u2, u4.regs, paths _ u4.blocks, fun he ha => ?_, fun _ => u3, fun he => ?_⟩
      · obtain rfl : full = false := by injection he
        rcases hf with hf | hf
        · cases hf
        · omega
      · rcases he with he | ⟨he, -⟩ <;> cases he
    · rw [if_neg hf] at hrun
      obtain ⟨p1, p2, p3, p4, p5⟩ := partialWrite_shows u
      have hall := u4.trans p5
      refine ⟨_, hrun, p3.trans u1, p4 u2, hall.regs, paths _ hall.blocks, fun _ _ => ⟨?_, p2⟩, fun he => ?_, fun he => ?_⟩
      · show _ = min (s.rget F.GL_ERRCNT_PARTIAL + 1) _
        rw [← u3]
        exact p1
      · obtain rfl : full = true := by injection he
        exact absurd (.inl rfl) hf
      · rcases he with he | ⟨he, -⟩ <;> cases he
  · have hrun : exec (.unmappedAccess p a isWrite) s = .next (if isWrite then u else u.answer p 0) := by
      show (match siteOf p a.toNat with | .unmapped => if isWrite then s.hostAct p a.toNat State.unmapped else s.hostRead (fun s => s.readAt p a.toNat) | _ => .next s) = _
      rw [hsite]
      dsimp only
      rw [hostAct_open hw, hostRead_open hpow, hread, ← hu]
      cases isWrite <;> rfl
    cases isWrite with
    | true => exact ⟨u, hrun, u1, u2, u4.regs, paths _ u4.blocks, nofun, nofun, fun he => by rcases he with he | ⟨-, he⟩ <;> cases he⟩
    | false => exact ⟨_, hrun, readCount, readEvt, readRegs, readBlocks, nofun, nofun, fun _ => answer_rdata u p 0⟩
  · have hrun : exec (.rlRead p a) s = .next (u.answer p 0) := by rw [exec_rlRead, hostRead_open hpow, hread]
    exact ⟨_, hrun, readCount, readEvt, readRegs, readBlocks, nofun, nofun, fun _ => answer_rdata u p 0⟩

theorem fullWrites (p : Path) (v : Word) {s : State} (hw : s.takesWrites = true) :
    (∃ t, exec (.registerWrite p (word R.SPN_DUR) v true) s = .next t ∧ t.reg R.SPN_DUR = v ∧ s.sameRegsBut t [R.SPN_DUR] ∧ s.sameBlocks t) ∧
    (∃ t, exec (.registerWrite p (word R.AP_CTRL) v true) s = .next t ∧
      t.rget F.AP_CTRL_VIEW_P = (if nbit v.toNat 16 then wfld v 0 1 else s.rget F.AP_CTRL_VIEW_P) ∧
      t.rget F.AP_CTRL_VIEW_S = (if nbit v.toNat 17 then wfld v 1 1 else s.rget F.AP_CTRL_VIEW_S) ∧
      s.sameRegsBut t [R.AP_CTRL] ∧ s.sameBlocks t) ∧
    (∃ t, exec (.registerWrite p (word R.HL_EVT) v true) s = .next t ∧
      t.reg R.HL_EVT &&& 0x7F = s.reg R.HL_EVT &&& (~~~v ||| s.setNow R.HL_EVT) &&& 0x7F ∧ s.sameRegsBut t [R.HL_EVT] ∧ s.sameBlocks t) ∧
    (∃ t, exec (.registerWrite p (word R.ID) v true) s = .next t ∧ (∀ o, t.reg o = s.reg o) ∧ s.sameBlocks t) ∧
    (∀ c : Fin 96, s.locked 2 = false → wfld v 24 8 = 255 → ∃ t w, exec (.registerWrite p (word (R.CHc_PIN c)) v true) s = .next t ∧
      (∀ o, t.reg o = s.reg o) ∧ tblFind t.staged (R.CHc_PIN c) = some w ∧ wfld w 8 8 = wfld v 8 8 ∧
      (∀ o, o ≠ R.CHc_PIN c → tblFind t.staged o = tblFind s.staged o) ∧ State.sameBlocks { s with staged := t.staged } t) := by
  have hrun : ∀ {o : Nat}, o ∈ [R.SPN_DUR, R.AP_CTRL, R.HL_EVT, R.ID, R.PW_RET_TMR, R.PW_CTRL] → o ≠ R.PW_CMD → o ≠ R.FRZ_CMD → o ≠ R.CFG_CMD →
      exec (.registerWrite p (word o) v true) s = .next (s.writeReg p o v) := fun ho h1 h2 h3 => exec_fullWrite hw (regSites p _ ho) h1 h2 h3
  refine ⟨?_, ?_, ?_, ?_, fun c hl hv => ?_⟩
  · have hf := setReg_frame s R.SPN_DUR v
    refine ⟨_, (hrun (by simp) (by decide) (by decide) (by decide)).trans (congrArg _ ((writeReg_spnDur s p v).trans (fieldsWrite_spnDur s p v))),
      reg_setReg_same s _ v, hf.regs, hf.blocks⟩
  · obtain ⟨w, h1, h2, h3⟩ := fieldsWrite_apCtrl s p v
    have hf := setReg_frame s R.AP_CTRL w
    have hr : (s.setReg R.AP_CTRL w).reg R.AP_CTRL = w := reg_setReg_same s _ w
    refine ⟨_, (hrun (by simp) (by decide) (by decide) (by decide)).trans (congrArg _ ((writeReg_apCtrl s p v).trans h1)), ?_, ?_, hf.regs, hf.blocks⟩
    · show wfld ((s.setReg R.AP_CTRL w).reg R.AP_CTRL) 0 1 = _
      rw [hr]
      exact h2
    · show wfld ((s.setReg R.AP_CTRL w).reg R.AP_CTRL) 1 1 = _
      rw [hr]
      exact h3
  · obtain ⟨w, h1, h2⟩ := fieldsWrite_hlEvt s p v
    have hf := setReg_frame s R.HL_EVT w
    refine ⟨_, (hrun (by simp) (by decide) (by decide) (by decide)).trans (congrArg _ ((writeReg_hlEvt s p v).trans h1)), ?_, hf.regs, hf.blocks⟩
    rw [reg_setReg_same]
    exact h2
  · exact ⟨_, (hrun (by simp) (by decide) (by decide) (by decide)).trans (congrArg _ ((writeReg_id s p v).trans (fieldsWrite_id s p v))),
      reg_setReg_self s R.ID, (setReg_frame s R.ID _).blocks⟩
  · obtain ⟨w, h1, h2⟩ := fieldsWrite_chPin hl p c hv
    have hsite : ∀ c : Fin 96, siteOf p (word (R.CHc_PIN c)).toNat = .reg (R.CHc_PIN c) := by cases p <;> decide +kernel
    have hne : R.CHc_PIN c ≠ R.PW_CMD ∧ R.CHc_PIN c ≠ R.FRZ_CMD ∧ R.CHc_PIN c ≠ R.CFG_CMD := by
      unfold R.CHc_PIN R.PW_CMD R.FRZ_CMD R.CFG_CMD
      omega
    refine ⟨_, w, (exec_fullWrite hw (hsite c) hne.1 hne.2.1 hne.2.2).trans (congrArg _ ((writeReg_chPin s p c v).trans h1)), reg_setReg_self s _,
      tblFind_put_same _ _ _, h2, fun o ho => tblFind_put_ne _ _ ho, ?_⟩
    have hb := (setReg_frame s (R.CHc_PIN c) (s.reg (R.CHc_PIN c))).blocks
    exact ⟨⟨rfl, hb.1.2⟩, hb.2⟩

/-- Settles O49: register accesses. -/
theorem registerAccesses : Obligations.RegisterAccesses := by
  refine ⟨slowWrites_holds, fun p a v o s hw hsite => ?_, fun p v s hw => fullWrites p v hw, fun p a v full isWrite s hsite hw => accessesToNothing hsite hw v full isWrite,
    fun a h1 h2 => ?_, fun p s hp => ?_⟩
  · obtain ⟨h1, h2, -, -, h5⟩ := partialWrite_shows s
    refine ⟨s.partialWrite, ?_, h1, h2, h5.regs, h5.blocks⟩
    show Host.Outcome.next (s.writeAt p a.toNat v false) = _
    unfold State.writeAt
    rw [hsite]
    dsimp only
    rw [if_neg (by decide), hostWrite_open hw]
  · unfold siteOf
    dsimp only
    rw [if_neg (by omega), if_neg (by omega), if_pos (by omega)]
  · obtain ⟨hs1, -, -⟩ := timeRegs_sites p
    obtain ⟨m1, m2, -⟩ := timeRegs_masks
    have ht := (rlCopy_only p s R.SPN_NOW_LO).trans (answer_only p _ (s.readWord p R.SPN_NOW_LO))
    refine ⟨_, exec_regRead hp hs1 (by decide) (by decide) (by decide) (by decide), ?_, ?_, ?_, ht.other, ht.reg, ht.blocks⟩
    · rw [answer_rdata, readWord_live m1 m2]
      rfl
    · rw [shadowWord_answer, rlCopy_now, shadowWord_setShadow, if_neg (by decide), shadowWord_setShadow, if_pos rfl]
    · rw [shadowWord_answer, rlCopy_now, shadowWord_setShadow, if_pos rfl]

end Sys2Proof
end

section
/-!
SUPPORT. What the operations of an Orrery make of it, count and tell (R153 to R183).
-/
set_option Elab.async false
namespace Sys2Proof.Machine
open Sys2Proof

/-- The registers that an Orrery's edges report in. -/
def oryReports (n : Fin 4) : List Nat := [R.ORYn_EVT n, R.ORYn_ERRCNT n, R.ORYn_ERRCNT2 n, R.ORYn_IDXDIFF n]

/-- The counts of an Orrery. -/
def oryCounts (n : Fin 4) : List Fld :=
  [F.ORYn_ERRCNT_EARLY n, F.ORYn_ERRCNT_MISSING n, F.ORYn_ERRCNT_LOSS n, F.ORYn_ERRCNT_RESYNC n,
   F.ORYn_ERRCNT2_ILLEGAL n, F.ORYn_ERRCNT2_INDEX n, F.ORYn_ERRCNT2_CAM n, F.ORYn_ERRCNT2_SIGNAL n]

/-- The event bits of an Orrery. -/
def oryEvents (n : Fin 4) : List Fld :=
  [F.ORYn_EVT_SYNC_S n, F.ORYn_EVT_RESYNC_S n, F.ORYn_EVT_EARLY_S n, F.ORYn_EVT_MISSING_S n, F.ORYn_EVT_LOSS_S n, F.ORYn_EVT_ILLEGAL_S n,
   F.ORYn_EVT_INDEX_S n, F.ORYn_EVT_CAM_S n, F.ORYn_EVT_SIGNAL_S n, F.ORYn_EVT_STILL_S n, F.ORYn_EVT_REV_S n, F.ORYn_EVT_CFG_ERR_S n]

/-- Fields of one register stand beside each other. -/
def Beside (f g : Fld) : Prop := g.lo + g.width ≤ f.lo ∨ f.lo + f.width ≤ g.lo

/-- A count lies in a register of its own. -/
structure CountAt (n : Fin 4) (f : Fld) : Prop where
  reg : f.reg = R.ORYn_ERRCNT n ∨ f.reg = R.ORYn_ERRCNT2 n
  width : f.width = 8
  lo : f.lo + f.width ≤ 32
  whole : f.lo % 8 = 0

theorem oryCounts_at {n : Fin 4} {f : Fld} (hf : f ∈ oryCounts n) : CountAt n f := by
  simp only [oryCounts, List.mem_cons, List.not_mem_nil, or_false] at hf
  rcases hf with rfl | rfl | rfl | rfl | rfl | rfl | rfl | rfl
  · exact ⟨.inl rfl, rfl, show 0 + 8 ≤ 32 by decide, show 0 % 8 = 0 by decide⟩
  · exact ⟨.inl rfl, rfl, show 8 + 8 ≤ 32 by decide, show 8 % 8 = 0 by decide⟩
  · exact ⟨.inl rfl, rfl, show 16 + 8 ≤ 32 by decide, show 16 % 8 = 0 by decide⟩
  · exact ⟨.inl rfl, rfl, show 24 + 8 ≤ 32 by decide, show 24 % 8 = 0 by decide⟩
  · exact ⟨.inr rfl, rfl, show 0 + 8 ≤ 32 by decide, show 0 % 8 = 0 by decide⟩
  · exact ⟨.inr rfl, rfl, show 8 + 8 ≤ 32 by decide, show 8 % 8 = 0 by decide⟩
  · exact ⟨.inr rfl, rfl, show 16 + 8 ≤ 32 by decide, show 16 % 8 = 0 by decide⟩
  · exact ⟨.inr rfl, rfl, show 24 + 8 ≤ 32 by decide, show 24 % 8 = 0 by decide⟩

theorem Fld.eq_of {f g : Fld} (hr : f.reg = g.reg) (hl : f.lo = g.lo) (hw : f.width = g.width) : f = g := by
  cases f; cases g; cases hr; cases hl; cases hw; rfl

theorem CountAt.apart {n : Fin 4} {f g : Fld} (hf : CountAt n f) (hg : CountAt n g) (h : f ≠ g) : f.reg ≠ g.reg ∨ Beside f g := by
  by_cases hr : f.reg = g.reg
  · refine .inr ?_
    have hlo : f.lo ≠ g.lo := fun hl => h (Fld.eq_of hr hl (hf.width.trans hg.width.symm))
    have h1 := hf.whole
    have h2 := hg.whole
    unfold Beside
    rw [hf.width, hg.width]
    omega
  · exact .inl hr

theorem CountAt.silent {n : Fin 4} {f : Fld} (hf : CountAt n f) : reportReg f.reg = false ∧ f.reg ≠ R.ORYn_EVT n ∧ f.reg ≠ R.ORYn_IDXDIFF n ∧ f.reg ∈ oryReports n := by
  have h : 0x10000 ≤ f.reg ∧ f.reg ≠ R.ORYn_EVT n ∧ f.reg ≠ R.ORYn_IDXDIFF n := by
    rcases hf.reg with h | h <;> rw [h] <;> simp only [R.ORYn_ERRCNT, R.ORYn_ERRCNT2, R.ORYn_EVT, R.ORYn_IDXDIFF] <;> omega
  refine ⟨oryPage_reports _ h.1, h.2.1, h.2.2, ?_⟩
  unfold oryReports
  rcases hf.reg with h | h <;> rw [h] <;> simp

/-- An event bit of an Orrery. -/
structure EventAt (n : Fin 4) (f : Fld) : Prop where
  reg : f.reg = R.ORYn_EVT n
  width : f.width = 1
  lo : f.lo + f.width ≤ 32

theorem oryEvents_at {n : Fin 4} {f : Fld} (hf : f ∈ oryEvents n) : EventAt n f := by
  simp only [oryEvents, List.mem_cons, List.not_mem_nil, or_false] at hf
  rcases hf with rfl | rfl | rfl | rfl | rfl | rfl | rfl | rfl | rfl | rfl | rfl | rfl
  · exact ⟨rfl, rfl, show 0 + 1 ≤ 32 by decide⟩
  · exact ⟨rfl, rfl, show 1 + 1 ≤ 32 by decide⟩
  · exact ⟨rfl, rfl, show 2 + 1 ≤ 32 by decide⟩
  · exact ⟨rfl, rfl, show 3 + 1 ≤ 32 by decide⟩
  · exact ⟨rfl, rfl, show 4 + 1 ≤ 32 by decide⟩
  · exact ⟨rfl, rfl, show 5 + 1 ≤ 32 by decide⟩
  · exact ⟨rfl, rfl, show 6 + 1 ≤ 32 by decide⟩
  · exact ⟨rfl, rfl, show 7 + 1 ≤ 32 by decide⟩
  · exact ⟨rfl, rfl, show 8 + 1 ≤ 32 by decide⟩
  · exact ⟨rfl, rfl, show 9 + 1 ≤ 32 by decide⟩
  · exact ⟨rfl, rfl, show 10 + 1 ≤ 32 by decide⟩
  · exact ⟨rfl, rfl, show 11 + 1 ≤ 32 by decide⟩

theorem EventAt.silent {n : Fin 4} {f : Fld} (hf : EventAt n f) : reportReg f.reg = false ∧ f.reg ∈ oryReports n := by
  rw [hf.reg]
  exact ⟨oryPage_reports _ (by unfold R.ORYn_EVT; omega), List.mem_cons_self⟩

/-- An event sets its bit and clears none. -/
theorem EventAt.keeps {n : Fin 4} {f g : Fld} (hf : EventAt n f) (hg : EventAt n g) {s : State} (h : s.ron g = true) : (s.evt f).ron g = true := by
  have hr := hf.reg
  have hr' := hg.reg
  have hw := hf.width
  have hw' := hg.width
  by_cases hl : f.lo = g.lo
  · obtain rfl := Fld.eq_of (hr.trans hr'.symm) hl (hw.trans hw'.symm)
    exact ron_evt s f hw hf.lo hf.silent.1
  · rw [ron_of_rget_eq (rget_evt_apart s hg.silent.1 hf.lo (hr'.trans hr.symm) (by rw [hw, hw']; omega))]
    exact h

/-- From s, Orrery n has become x, has counted one of each of the counts cs and none of the others, and told the events es. -/
structure OryRun (n : Fin 4) (cs es : List Fld) (x : Orrery) (s t : State) : Prop where
  frame : OryFrame (oryReports n) n x s t
  counts : ∀ f ∈ cs, f ∈ oryCounts n
  events : ∀ f ∈ es, f ∈ oryEvents n
  kept : ∀ f ∈ oryCounts n, f ∉ cs → t.rget f = s.rget f
  counted : ∀ f ∈ cs, t.rget f = min (s.rget f + 1) (2 ^ f.width - 1)
  told : ∀ f ∈ es, t.ron f = true

theorem OryRun.refl (n : Fin 4) (s : State) : OryRun n [] [] s.ory[n] s s :=
  ⟨OryFrame.refl _ n s, fun _ h => absurd h List.not_mem_nil, fun _ h => absurd h List.not_mem_nil, fun _ _ _ => rfl, fun _ h => absurd h List.not_mem_nil,
    fun _ h => absurd h List.not_mem_nil⟩

section
variable {n : Fin 4} {cs es : List Fld} {x : Orrery} {s t : State} (h : OryRun n cs es x s t)
include h

theorem OryRun.self : t.ory[n] = x := h.frame.self

/-- An operation that leaves the counts and event bits. -/
theorem OryRun.silent {y : Orrery} {u : State} (hf : OryFrame (oryReports n) n y s u) (hr : ∀ o ∈ [R.ORYn_EVT n, R.ORYn_ERRCNT n, R.ORYn_ERRCNT2 n], u.reg o = t.reg o) :
    OryRun n cs es y s u := by
  have hc : ∀ f ∈ oryCounts n, u.rget f = t.rget f := fun f hm => rget_of_reg (hr _ (by rcases (oryCounts_at hm).reg with e | e <;> rw [e] <;> simp))
  exact ⟨hf, h.counts, h.events, fun f hm hn => (hc f hm).trans (h.kept f hm hn), fun f hm => (hc f (h.counts f hm)).trans (h.counted f hm),
    fun f hm => (ron_of_reg (hr _ (by rw [(oryEvents_at (h.events f hm)).reg]; simp))).trans (h.told f hm)⟩

theorem OryRun.modOry (f : Orrery → Orrery) : OryRun n cs es (f x) s (t.modOry n f) := h.silent (h.frame.modOry f) (fun _ _ => rfl)

theorem OryRun.emitFl (type src tm fl : Nat) (w4 w5 w6 w7 : Word) : OryRun n cs es x s (t.emitFl type src tm fl w4 w5 w6 w7) := by
  refine h.silent (h.frame.emitFl _ _ _ _ _ _ _ _) (fun o ho => reg_emitFl _ _ _ _ _ _ _ _ _ (oryPage_reports o ?_))
  simp only [R.ORYn_EVT, R.ORYn_ERRCNT, R.ORYn_ERRCNT2, List.mem_cons, List.not_mem_nil, or_false] at ho
  omega

/-- An event that is told, or only told of: it clears no other. -/
theorem OryRun.tell {f : Fld} (hf : f ∈ oryEvents n) : OryRun n cs (f :: es) x s (t.evt f) := by
  have ha := oryEvents_at hf
  have hc : ∀ g ∈ oryCounts n, (t.evt f).rget g = t.rget g := fun g hg =>
    rget_evt_ne t (oryCounts_at hg).silent.1 (by rw [ha.reg]; exact (oryCounts_at hg).silent.2.1)
  refine ⟨h.frame.evt ha.silent.2, h.counts, fun g hg => ?_, fun g hg hn => (hc g hg).trans (h.kept g hg hn), fun g hg => (hc g (h.counts g hg)).trans (h.counted g hg),
    fun g hg => ?_⟩
  · rcases List.mem_cons.1 hg with rfl | hg
    · exact hf
    · exact h.events g hg
  · rcases List.mem_cons.1 hg with rfl | hg
    · exact ron_evt t g ha.width ha.lo ha.silent.1
    · exact ha.keeps (oryEvents_at (h.events g hg)) (h.told g hg)

theorem OryRun.fewer {es' : List Fld} (he : ∀ f ∈ es', f ∈ es) : OryRun n cs es' x s t :=
  ⟨h.frame, h.counts, fun f hf => h.events f (he f hf), h.kept, h.counted, fun f hf => h.told f (he f hf)⟩

theorem OryRun.evt {f : Fld} (hf : f ∈ oryEvents n) : OryRun n cs es x s (t.evt f) := (h.tell hf).fewer (fun _ => List.mem_cons_of_mem f)

/-- A count that has not yet moved. -/
theorem OryRun.count {f : Fld} (hf : f ∈ oryCounts n) (hn : f ∉ cs) : OryRun n (f :: cs) es x s (t.rsat f 1) := by
  have ha := oryCounts_at hf
  have hother : ∀ g ∈ oryCounts n, g ≠ f → (t.rsat f 1).rget g = t.rget g := fun g hg hne => by
    rcases ha.apart (oryCounts_at hg) hne.symm with e | e
    · exact rget_rsat_ne t 1 e.symm
    · by_cases hr : g.reg = f.reg
      · exact rget_rput_apart t _ ha.lo hr e
      · exact rget_rsat_ne t 1 hr
  refine ⟨h.frame.rsat 1 ha.silent.2.2.2, fun g hg => ?_, h.events, fun g hg hne => ?_, fun g hg => ?_, fun g hg => ?_⟩
  · rcases List.mem_cons.1 hg with rfl | hg
    · exact hf
    · exact h.counts g hg
  · rw [List.mem_cons, not_or] at hne
    exact (hother g hg hne.1).trans (h.kept g hg hne.2)
  · rcases List.mem_cons.1 hg with rfl | hg
    · rw [rget_rsat_same t g 1 ha.lo, h.kept g hf hn]
    · exact (hother g (h.counts g hg) (fun e => hn (e ▸ hg))).trans (h.counted g hg)
  · have hne : g.reg ≠ f.reg := by rw [(oryEvents_at (h.events g hg)).reg]; exact ha.silent.2.1.symm
    rw [ron_of_rget_eq (rget_rsat_ne t 1 hne)]
    exact h.told g hg

/-! ### What the operations make of the Orrery -/

theorem OryRun.oFault (kind tm fl : Nat) (info : Word) : ∃ l, OryRun n cs es { x with faults := l } s (t.oFault n kind tm fl info) := by
  unfold State.oFault
  split
  · exact ⟨_, (h.modOry (fun o => { o with faults := tblPut o.faults kind (tm, 0) })).emitFl _ _ _ _ _ _ _ _⟩
  case h_2 t0 c _ =>
    split
    · exact ⟨_, (h.modOry (fun o => { o with faults := tblPut o.faults kind (tm, 0) })).emitFl _ _ _ _ _ _ _ _⟩
    · exact ⟨_, h.modOry (fun o => { o with faults := tblPut o.faults kind (t0, c + 1) })⟩

theorem OryRun.oEarlyCnt (hn : F.ORYn_ERRCNT_EARLY n ∉ cs) : OryRun n (F.ORYn_ERRCNT_EARLY n :: cs) (F.ORYn_EVT_EARLY_S n :: es) x s (t.oEarlyCnt n) :=
  (h.count (by simp [oryCounts]) hn).tell (by simp [oryEvents])

theorem OryRun.oEarly (hn : F.ORYn_ERRCNT_EARLY n ∉ cs) (y : OryStamp) (info : Word) :
    ∃ l, OryRun n (F.ORYn_ERRCNT_EARLY n :: cs) (F.ORYn_EVT_EARLY_S n :: es) { x with faults := l } s (t.oEarly n y info) := (h.oEarlyCnt hn).oFault _ _ _ _

theorem OryRun.oSync (new : Sync) (cause tm fl : Nat) : OryRun n cs es (x.synced new) s (t.oSync n new cause tm fl) := by
  have hs : t.ory[n].sync = x.sync := by rw [h.self]
  have h1 : OryRun n cs es (x.synced new) s (t.modOry n (fun o => { o with sync := new, cyc := if (t.ory[n].sync = .off ∨ t.ory[n].sync = .acq) ∧ (new = .full ∨ new = .rel) then 0 else o.cyc })) := by
    have h2 := h.modOry (fun o => { o with sync := new, cyc := if (t.ory[n].sync = .off ∨ t.ory[n].sync = .acq) ∧ (new = .full ∨ new = .rel) then 0 else o.cyc })
    rwa [show ({ x with sync := new, cyc := if (t.ory[n].sync = .off ∨ t.ory[n].sync = .acq) ∧ (new = .full ∨ new = .rel) then 0 else x.cyc } : Orrery) = x.synced new from by
      rw [hs]; rfl] at h2
  unfold State.oSync
  dsimp only
  split
  · exact h1.emitFl _ _ _ _ _ _ _ _
  · exact (h1.evt (by simp [oryEvents])).emitFl _ _ _ _ _ _ _ _

theorem OryRun.oResync (hn : F.ORYn_ERRCNT_RESYNC n ∉ cs) (cause tm fl : Nat) (shift steps : Int) (before after : Nat) :
    OryRun n (F.ORYn_ERRCNT_RESYNC n :: cs) es { x with suspect := false } s (t.oResync n cause tm fl shift steps before after) :=
  (((h.count (by simp [oryCounts]) hn).evt (by simp [oryEvents])).modOry (fun o => { o with suspect := false })).emitFl _ _ _ _ _ _ _ _

theorem OryRun.oPush (due : Nat) (wake rs : Bool) : OryRun n cs es { x with bcs := x.bcs ++ [⟨due, wake, { x.view with resync := rs }⟩] } s (t.oPush n due wake rs) :=
  h.modOry (fun o => { o with bcs := o.bcs ++ [⟨due, wake, { o.view with resync := rs }⟩] })

theorem OryRun.oBroadcast (due : Nat) (rs : Bool) : OryRun n cs es { x with bcs := x.bcs ++ [⟨due, true, { x.view with resync := rs }⟩] } s (t.oBroadcast n due rs) :=
  h.oPush due true rs

theorem OryRun.oAccepted (y : OryStamp) : OryRun n cs es { x with lastAcc := some (max y.t (x.lastAcc.getD 0)) } s (t.oAccepted n y) :=
  h.modOry (fun o => { o with lastAcc := some (max y.t (o.lastAcc.getD 0)) })

theorem OryRun.oStamped (i : Fin 3) (y : OryStamp) :
    OryRun n cs es { x with stamp := x.stamp.set i (some y.at'), marks := x.marks &&& ~~~(BitVec.ofNat 3 (2 ^ i.val)) } s (t.oStamped n i y) :=
  h.modOry (fun o => { o with stamp := o.stamp.set i (some y.at'), marks := o.marks &&& ~~~(BitVec.ofNat 3 (2 ^ i.val)) })

theorem OryRun.oMotion (y : OryStamp) (rev woke : Bool) (v : Int) : OryRun n cs es x s (t.oMotion n y rev woke v) := by
  have h1 : OryRun n cs es x s (if rev then t.evt (F.ORYn_EVT_REV_S n) else t) := by
    split
    · exact h.evt (by simp [oryEvents])
    · exact h
  unfold State.oMotion
  dsimp only
  split
  · exact h1.emitFl _ _ _ _ _ _ _ _
  · exact h1

theorem OryRun.oRecEdge (y : OryStamp) (info : Nat) (rs : Bool) : OryRun n cs es x s (t.oRecEdge n y info rs) := by
  unfold State.oRecEdge
  split
  · exact h.emitFl _ _ _ _ _ _ _ _
  · exact h

theorem OryRun.oMoving (y : OryStamp) (back : Bool) : OryRun n cs es { x with back := back, still := false } s (t.oMoving n y back) :=
  (h.modOry (fun o => { o with back := back, still := false })).oMotion _ _ _ _

theorem OryRun.oIllegal (hn : F.ORYn_ERRCNT2_ILLEGAL n ∉ cs) (y : OryStamp) :
    ∃ l, OryRun n (F.ORYn_ERRCNT2_ILLEGAL n :: cs) (F.ORYn_EVT_ILLEGAL_S n :: es) { x with suspect := true, faults := l } s (t.oIllegal n y) :=
  (((h.modOry (fun o => { o with suspect := true })).count (by simp [oryCounts]) hn).tell (by simp [oryEvents])).oFault _ _ _ _

end

/-! ### The description of an Orrery -/

section
variable {n : Fin 4} {cs es : List Fld} {x : Orrery} {s t : State} (h : OryRun n cs es x s t)
include h

theorem OryRun.cfg {f : Fld} (hp : 0x10000 ≤ f.reg) (hf : f.reg ∉ oryReports n) : t.rget f = s.rget f := h.frame.rget (oryPage_reports _ hp) hf

theorem OryRun.oType : t.oType n = s.oType n :=
  h.cfg (f := F.ORYn_CTRL_TYPE n) (by simp only [F.ORYn_CTRL_TYPE, R.ORYn_CTRL]; omega)
    (by simp [F.ORYn_CTRL_TYPE, R.ORYn_CTRL, oryReports, R.ORYn_EVT, R.ORYn_ERRCNT, R.ORYn_ERRCNT2, R.ORYn_IDXDIFF])

theorem OryRun.tpc : t.ron (F.ORYn_CTRL_TPC n) = s.ron (F.ORYn_CTRL_TPC n) :=
  ron_of_rget_eq (h.cfg (f := F.ORYn_CTRL_TPC n) (by simp only [F.ORYn_CTRL_TPC, R.ORYn_CTRL]; omega)
    (by simp [F.ORYn_CTRL_TPC, R.ORYn_CTRL, oryReports, R.ORYn_EVT, R.ORYn_ERRCNT, R.ORYn_ERRCNT2, R.ORYn_IDXDIFF]))

theorem OryRun.oNpos : t.oNpos n = s.oNpos n :=
  h.cfg (f := F.ORYn_WHEEL_NPOS n) (by simp only [F.ORYn_WHEEL_NPOS, R.ORYn_WHEEL]; omega)
    (by simp [F.ORYn_WHEEL_NPOS, R.ORYn_WHEEL, oryReports, R.ORYn_EVT, R.ORYn_ERRCNT, R.ORYn_ERRCNT2, R.ORYn_IDXDIFF])

theorem OryRun.lines : t.rget (F.ORYn_LINES_LINES n) = s.rget (F.ORYn_LINES_LINES n) :=
  h.cfg (f := F.ORYn_LINES_LINES n) (by simp only [F.ORYn_LINES_LINES, R.ORYn_LINES]; omega)
    (by simp [F.ORYn_LINES_LINES, R.ORYn_LINES, oryReports, R.ORYn_EVT, R.ORYn_ERRCNT, R.ORYn_ERRCNT2, R.ORYn_IDXDIFF])

theorem OryRun.ref : t.rget (F.ORYn_REF_REF n) = s.rget (F.ORYn_REF_REF n) :=
  h.cfg (f := F.ORYn_REF_REF n) (by simp only [F.ORYn_REF_REF, R.ORYn_REF]; omega)
    (by simp [F.ORYn_REF_REF, R.ORYn_REF, oryReports, R.ORYn_EVT, R.ORYn_ERRCNT, R.ORYn_ERRCNT2, R.ORYn_IDXDIFF])

theorem OryRun.oSteps : t.oSteps n = s.oSteps n := by
  unfold State.oSteps State.oTurns
  rw [h.oType, h.tpc, h.oNpos, h.lines]

theorem OryRun.oAngle (pos phi : Nat) : t.oAngle n pos phi = s.oAngle n pos phi := by
  unfold State.oAngle
  rw [h.ref, h.oType, h.oSteps]

theorem OryRun.oBase (cyc pos phi : Nat) : t.oBase n cyc pos phi = s.oBase n cyc pos phi := by
  unfold State.oBase
  rw [h.oAngle]

theorem OryRun.oClose (hx : x.lastAcc = s.ory[n].lastAcc) (y : OryStamp) : t.oClose n y = s.oClose n y := by
  unfold State.oClose
  rw [h.self, hx]

end

/-! ### A validated edge -/

/-- An Orrery that has moved k of N steps (R157). -/
def Orrery.moved (x : Orrery) (N k : Nat) (back : Bool) : Orrery :=
  let p := if back then x.pos + N * (k / N + 1) - k else x.pos + k
  let wraps := p / N
  let borrow := k / N + 1
  { x with
    pos := p % N
    cyc := if back then (x.cyc + 256 * borrow + wraps - borrow) % 256 else (x.cyc + wraps) % 256
    camSteps := x.camSteps + k
    idxNet := x.idxNet.map (fun i => (i.1 + (if back then -(k : Int) else (k : Int)), i.2)) }

/-- An Orrery whose latest validated edge is e, and which has begun to broadcast it (R156, R160). -/
def Orrery.edged (x : Orrery) (e : OryEdge) (l : List (Nat × Int)) (due : Nat) (rs : Bool) : Orrery :=
  { x with
    back := e.back, still := false, ivals := l, hist := (e :: x.hist).take 8
    bcs := x.bcs ++ [⟨due, true, { ({ x with back := e.back, still := false, ivals := l, hist := (e :: x.hist).take 8 } : Orrery).view with resync := rs }⟩] }

section
variable {n : Fin 4} {cs es : List Fld} {x : Orrery} {s t : State} (h : OryRun n cs es x s t)
include h

theorem OryRun.oMove (k : Nat) (back : Bool) : OryRun n cs es (x.moved (s.oSteps n) k back) s (t.oMove n k back) := by
  have h1 := h.modOry (fun o => o.moved (t.oSteps n) k back)
  rw [h.oSteps] at h1
  unfold State.oMove
  rw [h.oSteps]
  exact h1

/-- A validated edge: where it lies (R156, R157, R176). -/
theorem OryRun.oEdge (y : OryStamp) (back : Bool) (k : Int) (span den info : Nat) (rs : Bool) :
    ∃ e l, e.t = y.t ∧ e.back = back ∧ e.base = s.oBase n x.cyc x.pos x.phi ∧ OryRun n cs es (x.edged e l y.due rs) s (t.oEdge n y back k span den info rs) := by
  have hx := h.self
  unfold State.oEdge
  dsimp only
  rw [hx, h.oBase]
  generalize (if (back != x.back) = true ∨ y.step = true ∨ x.ivals = [] then [(y.t, (0 : Int))] else List.take 1026 ((y.t, k) :: x.ivals)) = l
  generalize (if (back != x.back) = true then (0 : Int) else _) = v
  obtain ⟨e, he⟩ : ∃ e : OryEdge, e = ⟨s.oBase n x.cyc x.pos x.phi, y.t, v, back, t.oNext n x.pos back v⟩ := ⟨_, rfl⟩
  have h1 := h.modOry (fun o => { o with
    back := back, still := false, ivals := l, hist := List.take 8 (⟨s.oBase n x.cyc x.pos x.phi, y.t, v, back, t.oNext n o.pos back v⟩ :: o.hist) })
  have h2 := ((h1.oMotion y (back != x.back) x.still (t.oSpeedIn n y.t)).oRecEdge y info rs).oBroadcast y.due rs
  have hb : e.back = back := by rw [he]
  refine ⟨e, l, by rw [he], hb, by rw [he], ?_⟩
  have hsame : x.edged e l y.due rs = { ({ x with back := back, still := false, ivals := l, hist := List.take 8 (e :: x.hist) } : Orrery) with
      bcs := x.bcs ++ [⟨y.due, true, { ({ x with back := back, still := false, ivals := l, hist := List.take 8 (e :: x.hist) } : Orrery).view with resync := rs }⟩] } := by
    unfold Orrery.edged
    rw [hb]
  rw [hsame, he]
  exact h2

/-- A tooth has taken its time: the periods follow (R163, R176). -/
theorem OryRun.oTimed (y : OryStamp) (P k : Nat) (back : Bool) :
    ∃ a b c d, OryRun n cs es { x with tooth := some y.t, pLast := a, kLast := b, pPrev := c, kPrev := d } s (t.oTimed n y P k back) := by
  have hx := h.self
  unfold State.oTimed
  dsimp only
  split
  · exact ⟨_, _, _, _, h.modOry (fun o => { o with tooth := some y.t, pLast := 0, pPrev := 0 })⟩
  · split
    · exact ⟨_, _, _, _, h.modOry (fun o => { o with tooth := some y.t })⟩
    · exact ⟨_, _, _, _, h.modOry (fun o => { o with tooth := some y.t, pPrev := o.pLast, kPrev := o.kLast, pLast := P, kLast := k })⟩

end

/-- An Orrery whose last tooth came at t. -/
def Orrery.toothed (x : Orrery) (t a b c d : Nat) : Orrery := { x with tooth := some t, pLast := a, kLast := b, pPrev := c, kPrev := d }

/-- A tooth over k pitches (R163, R165). -/
theorem OryRun.oAdvance {n : Fin 4} {cs es : List Fld} {x : Orrery} {s t : State} (h : OryRun n cs es x s t) (y : OryStamp) (P k : Nat) (back : Bool) :
    ∃ a b c d e l, e.t = y.t ∧ e.back = back ∧
      OryRun n cs es (((x.toothed y.t a b c d).moved (s.oSteps n) k back).edged e l y.due false) s (t.oAdvance n y P k back) := by
  obtain ⟨a, b, c, d, h1⟩ := h.oTimed y P k back
  obtain ⟨e, l, he1, he2, -, h2⟩ := (h1.oMove k back).oEdge y back k (t.oWheelSpan n) (t.oSteps n) k false
  unfold State.oAdvance
  exact ⟨a, b, c, d, e, l, he1, he2, h2⟩

end Sys2Proof.Machine
end

section
/-!
SUPPORT. Teeth of a wheel (R154, R155, R163 to R168).
-/
set_option Elab.async false
namespace Sys2Proof.Machine
open Sys2Proof

theorem oryEvent_open {s : State} (h : oryTakes s) (f : State → State) : s.oryEvent f = .next (f s) := by
  unfold State.oryEvent
  rw [event_open h.1, if_neg h.2]

theorem oryEdge_open {s : State} (h : oryTakes s) (n : Fin 4) (i : Nat) (f : State → State) : s.oryEdge n i f = .next (if s.oInputOff n i then s else f s) :=
  oryEvent_open h _

theorem oPwEnd_none {s : State} {n : Fin 4} (h : s.ory[n].pw = none) (y : OryStamp) : s.oPwEnd n y = s := by
  unfold State.oPwEnd
  rw [h]

/-- A tooth that a wheel's stamper does not see (R154). -/
theorem oWheelEdge_unseen {s : State} {n : Fin 4} {y : OryStamp} (h : s.ory[n].sync = .off ∨ s.oDead n 0 y = true) : s.oWheelEdge n y = s := by
  unfold State.oWheelEdge
  exact if_neg (fun hx => h.elim hx.2.1 hx.2.2)

section
variable {s : State} {n : Fin 4} {y : OryStamp} (ht : s.oType n = 0) (hs : s.ory[n].sync ≠ .off) (hd : s.oDead n 0 y = false) (hp : s.ory[n].pw = none)
include ht hs hd hp

/-- One less than 40 ns after the previous edge is early (R155). -/
theorem oWheelEdge_close (hc : s.oClose n (s.oMarked n 0 y) = true) :
    ∃ r, s.oWheelEdge n y = (s.oStamped n 0 (s.oMarked n 0 y)).oEarly n (s.oMarked n 0 y) r := by
  have h1 := (OryRun.refl n s).oStamped 0 (s.oMarked n 0 y)
  have hpw : (s.oStamped n 0 (s.oMarked n 0 y)).ory[n].pw = none := by rw [h1.self]; exact hp
  unfold State.oWheelEdge
  rw [if_pos ⟨ht, hs, by rw [hd]; decide⟩]
  dsimp only
  rw [oPwEnd_none hpw, if_pos ((h1.oClose rfl _).trans hc)]
  exact ⟨_, rfl⟩

/-- The state in which a wheel has accepted a tooth. -/
def toothSeen (s : State) (n : Fin 4) (y : OryStamp) : State :=
  ((s.oStamped n 0 (s.oMarked n 0 y)).oAccepted n (s.oMarked n 0 y)).modOry n (fun o => { o with toothTick := some (s.oStamped n 0 (s.oMarked n 0 y)).spine.tick })

omit ht hs hd hp in
/-- What an accepted tooth leaves of the Orrery until it is decoded. -/
theorem toothSeen_run : ∃ a b c d, OryRun n [] [] { s.ory[n] with stamp := a, marks := b, lastAcc := c, toothTick := d } s (toothSeen s n y) ∧
    (∀ f, (toothSeen s n y).rget f = s.rget f) := by
  have h := (((OryRun.refl n s).oStamped 0 (s.oMarked n 0 y)).oAccepted (s.oMarked n 0 y)).modOry
    (fun o => { o with toothTick := some (s.oStamped n 0 (s.oMarked n 0 y)).spine.tick })
  exact ⟨_, _, _, _, h, fun _ => rfl⟩

/-- Without a direction input a tooth is a forward one (R168). -/
theorem oWheelEdge_plain (hc : s.oClose n (s.oMarked n 0 y) = false) (hm : s.rget (F.ORYn_CTRL_DIRMODE n) = 0) :
    s.oWheelEdge n y = (toothSeen s n y).oTooth n (s.oMarked n 0 y) false := by
  have h1 := (OryRun.refl n s).oStamped 0 (s.oMarked n 0 y)
  have hpw : (s.oStamped n 0 (s.oMarked n 0 y)).ory[n].pw = none := by rw [h1.self]; exact hp
  unfold State.oWheelEdge
  rw [if_pos ⟨ht, hs, by rw [hd]; decide⟩]
  dsimp only
  rw [oPwEnd_none hpw, if_neg (by rw [h1.oClose rfl, hc]; decide), hm]
  rfl

end

/-! ### A tooth by its class -/

theorem oClassify_congr {s t : State} {n : Fin 4} (hr : ∀ f, t.rget f = s.rget f)
    (h1 : t.ory[n].pLast = s.ory[n].pLast) (h2 : t.ory[n].kLast = s.ory[n].kLast) (h3 : t.ory[n].pPrev = s.ory[n].pPrev) (h4 : t.ory[n].kPrev = s.ory[n].kPrev) (P : Nat) :
    t.oClassify n P = s.oClassify n P := by
  unfold State.oClassify State.oPitch State.oMiss State.ron
  simp only [hr, h1, h2, h3, h4]

theorem oSpan_congr {s t : State} (hr : ∀ f, t.rget f = s.rget f) (n pos : Nat) (back : Bool) : t.oSpan n pos back = s.oSpan n pos back := by
  unfold State.oSpan State.oNpos State.oMiss
  simp only [hr]

/-- The class of a tooth outside acquisition, and the ratio for its fault record (R163, R168, R176). -/
def toothJudged (s : State) (n : Fin 4) (y : OryStamp) (back : Bool) : ToothClass × Word :=
  if y.step ∨ s.ory[n].still ∨ s.ory[n].tooth = none ∨ s.ory[n].pLast = 0 then (.spans (s.oSpan n s.ory[n].pos back), 0)
  else s.oClassify n (y.t - s.ory[n].tooth.getD y.t)

section
variable {s : State} {n : Fin 4} {y : OryStamp} {back : Bool} (ha : s.ory[n].sync ≠ .acq)
include ha

theorem oTooth_early (hc : (toothJudged s n y back).1 = .early) : s.oTooth n y back = s.oEarly n y (toothJudged s n y back).2 := by
  unfold State.oTooth
  dsimp only
  rw [if_neg ha]
  unfold toothJudged at hc ⊢
  generalize (if y.step = true ∨ s.ory[n].still = true ∨ s.ory[n].tooth = none ∨ s.ory[n].pLast = 0 then (ToothClass.spans (s.oSpan n s.ory[n].pos back), (0 : Word))
    else s.oClassify n (y.t - s.ory[n].tooth.getD y.t)) = j at hc ⊢
  obtain ⟨c, r⟩ := j
  dsimp only at hc
  subst hc
  rfl

theorem oTooth_loss (hc : (toothJudged s n y back).1 = .loss) :
    s.oTooth n y back = (((((((s.rsat (F.ORYn_ERRCNT_LOSS n) 1).evt (F.ORYn_EVT_LOSS_S n)).oFault n 3 y.t (y.fl back) (toothJudged s n y back).2).oMoving n y back).oSync n .acq 4 y.t
      (y.fl back)).modOry n oClear).modOry n (fun o => { o with tooth := some y.t, ivals := [(y.t, 0)] })).oPush n y.due false false := by
  unfold State.oTooth
  dsimp only
  rw [if_neg ha]
  unfold toothJudged at hc ⊢
  generalize (if y.step = true ∨ s.ory[n].still = true ∨ s.ory[n].tooth = none ∨ s.ory[n].pLast = 0 then (ToothClass.spans (s.oSpan n s.ory[n].pos back), (0 : Word))
    else s.oClassify n (y.t - s.ory[n].tooth.getD y.t)) = j at hc ⊢
  obtain ⟨c, r⟩ := j
  dsimp only at hc
  subst hc
  rfl

theorem oTooth_spans (hc : (toothJudged s n y back).1 = .spans (s.oSpan n s.ory[n].pos back)) :
    s.oTooth n y back = (if s.oSpan n s.ory[n].pos back = s.oMiss n + 1 then s.modOry n (fun o => { o with suspect := false }) else s).oAdvance n y
      (y.t - s.ory[n].tooth.getD y.t) (s.oSpan n s.ory[n].pos back) back := by
  unfold State.oTooth
  dsimp only
  rw [if_neg ha]
  unfold toothJudged at hc
  generalize (if y.step = true ∨ s.ory[n].still = true ∨ s.ory[n].tooth = none ∨ s.ory[n].pLast = 0 then (ToothClass.spans (s.oSpan n s.ory[n].pos back), (0 : Word))
    else s.oClassify n (y.t - s.ory[n].tooth.getD y.t)) = j at hc ⊢
  obtain ⟨c, r⟩ := j
  dsimp only at hc
  subst hc
  dsimp only
  rw [if_pos rfl]

end

/-- What a lost signal leaves of a wheel's Orrery (R165). -/
theorem oTooth_lost {cs es : List Fld} {x : Orrery} {s t : State} {n : Fin 4} {y : OryStamp} {back : Bool} (h : OryRun n cs es x s t) (ha : x.sync ≠ .acq)
    (hn : F.ORYn_ERRCNT_LOSS n ∉ cs) (hc : (toothJudged t n y back).1 = .loss) :
    ∃ l due, OryRun n (F.ORYn_ERRCNT_LOSS n :: cs) (F.ORYn_EVT_LOSS_S n :: es)
      { oClear ((({ x with faults := l } : Orrery)).synced .acq) with tooth := some y.t, ivals := [(y.t, 0)], back := back, still := false, bcs := due } s (t.oTooth n y back) := by
  rw [oTooth_loss (by rw [h.self]; exact ha) hc]
  obtain ⟨l, h1⟩ := ((h.count (f := F.ORYn_ERRCNT_LOSS n) (by simp [oryCounts]) hn).tell (f := F.ORYn_EVT_LOSS_S n) (by simp [oryEvents])).oFault 3 y.t (y.fl back) (toothJudged t n y back).2
  have h2 := ((((h1.oMoving y back).oSync .acq 4 y.t (y.fl back)).modOry oClear).modOry (fun o => { o with tooth := some y.t, ivals := [(y.t, 0)] })).oPush y.due false false
  exact ⟨l, _, h2⟩

/-- A gap in its place ends the suspicion (R165). -/
theorem OryRun.trusted {cs es : List Fld} {x : Orrery} {s t : State} {n : Fin 4} (h : OryRun n cs es x s t) (c : Prop) [Decidable c] :
    ∃ sus, OryRun n cs es { x with suspect := sus } s (if c then t.modOry n (fun o => { o with suspect := false }) else t) := by
  by_cases hc : c
  · rw [if_pos hc]
    exact ⟨false, h.modOry (fun o => { o with suspect := false })⟩
  · rw [if_neg hc]
    exact ⟨x.suspect, h⟩

/-- A tooth over the pitches expected of it (R163). -/
theorem oTooth_spanned {cs es : List Fld} {x : Orrery} {s t : State} {n : Fin 4} {y : OryStamp} {back : Bool} (h : OryRun n cs es x s t) (ha : x.sync ≠ .acq)
    (hc : (toothJudged t n y back).1 = .spans (t.oSpan n x.pos back)) :
    ∃ sus a b c d e l, e.t = y.t ∧ e.back = back ∧
      OryRun n cs es (((({ x with suspect := sus } : Orrery).toothed y.t a b c d).moved (s.oSteps n) (t.oSpan n x.pos back) back).edged e l y.due false) s (t.oTooth n y back) := by
  have hp : t.oSpan n t.ory[n].pos back = t.oSpan n x.pos back := by rw [h.self]
  rw [← hp] at hc
  rw [oTooth_spans (by rw [h.self]; exact ha) hc, hp]
  generalize t.oSpan n x.pos back = k
  obtain ⟨sus, h1⟩ := h.trusted (k = t.oMiss n + 1)
  obtain ⟨a, b, c, d, e, l, he1, he2, h2⟩ := h1.oAdvance y (y.t - t.ory[n].tooth.getD y.t) k back
  exact ⟨sus, a, b, c, d, e, l, he1, he2, h2⟩

end Sys2Proof.Machine
end

section
set_option Elab.async false
namespace Sys2Proof
open Sys2Proof.Machine

theorem toothJudged_seen {s t : State} {n : Fin 4} {x : OryStamp} {t0 : Nat} (hr : ∀ f, t.rget f = s.rget f) (h0 : s.ory[n].tooth = some t0)
    (ho : ∃ a b c d, t.ory[n] = { s.ory[n] with stamp := a, marks := b, lastAcc := c, toothTick := d }) :
    (toothJudged t n x false).1 = toothIs s n x t0 := by
  obtain ⟨a, b, c, d, ho⟩ := ho
  have hcl := oClassify_congr hr (by rw [ho]) (by rw [ho]) (by rw [ho]) (by rw [ho]) (x.t - t0)
  have hst : t.ory[n].still = s.ory[n].still ∧ t.ory[n].tooth = some t0 ∧ t.ory[n].pLast = s.ory[n].pLast ∧ t.ory[n].pos = s.ory[n].pos := by
    rw [ho]; exact ⟨rfl, h0, rfl, rfl⟩
  obtain ⟨h1, h2, h3, h4⟩ := hst
  unfold toothJudged toothIs
  rw [h1, h2, h3, h4, oSpan_congr hr, Option.getD_some, hcl]
  by_cases hx : x.step = true ∨ s.ory[n].still = true ∨ s.ory[n].pLast = 0
  · rw [if_pos (hx.imp_right (fun h => h.imp_right .inr)), if_pos hx]
  · have hy : ¬ (x.step = true ∨ s.ory[n].still = true ∨ some t0 = none ∨ s.ory[n].pLast = 0) := fun h =>
      hx (h.imp_right (fun h => h.imp_right (fun h => h.resolve_left (fun e => absurd e (by simp)))))
    rw [if_neg hy, if_neg hx]

theorem exec_wheelTooth {s : State} (h : oryTakes s) (n : Fin 4) (pos : Fin 64) :
    exec (.wheelTooth n pos) s = .next (if s.oInputOff n 0 then s else s.oWheelEdge n (s.oStamp n 0 pos)) := oryEdge_open h n 0 _

/-- What a tooth in FULL does (R163 to R165). -/
theorem fullTooth {s : State} (h : oryTakes s) {n : Fin 4} {pos : Fin 64} {t0 : Nat} (ht : s.oType n = 0) (hin : s.oInputOff n 0 = false) (hfull : s.ory[n].sync = .full)
    (hm : s.rget (F.ORYn_CTRL_DIRMODE n) = 0) (hp : s.ory[n].pw = none) (hd : s.oDead n 0 (s.oStamp n 0 pos) = false)
    (hc : s.oClose n (s.oMarked n 0 (s.oStamp n 0 pos)) = false) (h0 : s.ory[n].tooth = some t0) :
    let o := s.ory[n]
    let x := s.oMarked n 0 (s.oStamp n 0 pos)
    ∃ t, exec (.wheelTooth n pos) s = .next t ∧
      (toothIs s n x t0 = .spans (s.oSpan n o.pos false) →
        t.ory[n].pos = (o.pos + s.oSpan n o.pos false) % s.oSteps n ∧ t.ory[n].sync = .full ∧ t.ory[n].tooth = some x.t ∧
        t.ory[n].still = false ∧ t.ory[n].back = false ∧ broadcasts s t n x.due false ∧
        ∃ y, t.ory[n].hist = (y :: o.hist).take 8 ∧ y.t = x.t ∧ y.back = false) ∧
      (toothIs s n x t0 = .early → countedOne s t (F.ORYn_ERRCNT_EARLY n) ∧ t.ron (F.ORYn_EVT_EARLY_S n) = true ∧
        t.ory[n].pos = o.pos ∧ t.ory[n].hist = o.hist ∧ t.ory[n].tooth = some t0 ∧ t.ory[n].sync = .full) ∧
      (toothIs s n x t0 = .loss → countedOne s t (F.ORYn_ERRCNT_LOSS n) ∧ t.ron (F.ORYn_EVT_LOSS_S n) = true ∧
        t.ory[n].sync = .acq ∧ t.ory[n].hist = [] ∧ t.ory[n].tooth = some x.t ∧ t.ory[n].back = false ∧ t.ory[n].still = false) := by
  intro o x
  obtain ⟨a, b, c, d, hrun, hreg⟩ := toothSeen_run (s := s) (n := n) (y := s.oStamp n 0 pos)
  have hexec : exec (.wheelTooth n pos) s = .next ((toothSeen s n (s.oStamp n 0 pos)).oTooth n x false) := by
    rw [exec_wheelTooth h, if_neg (by rw [hin]; decide), oWheelEdge_plain ht (by rw [hfull]; decide) hd hp hc hm]
  have hj := toothJudged_seen (x := x) hreg h0 ⟨a, b, c, d, hrun.self⟩
  have ha : ({ s.ory[n] with stamp := a, marks := b, lastAcc := c, toothTick := d } : Orrery).sync ≠ .acq := by
    show s.ory[n].sync ≠ .acq
    rw [hfull]; decide
  generalize toothSeen s n (s.oStamp n 0 pos) = u at hrun hreg hexec hj
  refine ⟨_, hexec, fun hs => ?_, fun he => ?_, fun hl => ?_⟩
  · obtain ⟨sus, p1, p2, p3, p4, e, l, he1, he2, h1⟩ := oTooth_spanned (y := x) (back := false) hrun ha (by rw [hj, hs, oSpan_congr hreg])
    rw [oSpan_congr hreg] at h1
    unfold broadcasts
    rw [h1.self]
    exact ⟨rfl, hfull, rfl, rfl, he2, ⟨rfl, rfl⟩, e, rfl, he1, he2⟩
  · rw [oTooth_early (by rw [hrun.self]; exact ha) (hj.trans he)]
    obtain ⟨l, h1⟩ := hrun.oEarly List.not_mem_nil x (toothJudged u n x false).2
    rw [h1.self]
    exact ⟨h1.counted _ List.mem_cons_self, h1.told _ List.mem_cons_self, rfl, rfl, h0, hfull⟩
  · obtain ⟨l, due, h1⟩ := oTooth_lost (y := x) (back := false) hrun ha List.not_mem_nil (hj.trans hl)
    rw [h1.self]
    exact ⟨h1.counted _ List.mem_cons_self, h1.told _ List.mem_cons_self, rfl, rfl, rfl, rfl, rfl⟩

theorem wheelTeeth_holds : wheelTeeth := by
  intro n pos s h ht
  have hrun := exec_wheelTooth h n pos
  refine ⟨fun hc => ?_, fun hin hs hd hp hc => ?_, fun t0 hin hfull hm hp hd hc h0 => fullTooth h ht hin hfull hm hp hd hc h0, fun hin ha hm hp hd hc h0 => ?_⟩
  · rw [hrun]
    rcases hc with hin | hc
    · rw [if_pos hin]
    · rw [oWheelEdge_unseen hc, ite_self]
  · obtain ⟨r, he⟩ := oWheelEdge_close ht hs hd hp hc
    rw [if_neg (by rw [hin]; decide), he] at hrun
    obtain ⟨l, h1⟩ := ((OryRun.refl n s).oStamped 0 (s.oMarked n 0 (s.oStamp n 0 pos))).oEarly List.not_mem_nil (s.oMarked n 0 (s.oStamp n 0 pos)) r
    refine ⟨_, hrun, h1.counted _ List.mem_cons_self, h1.told _ List.mem_cons_self, ?_⟩
    rw [h1.self]
    exact ⟨rfl, rfl, rfl, rfl⟩
  · obtain ⟨a, b, c, d, hr, -⟩ := toothSeen_run (s := s) (n := n) (y := s.oStamp n 0 pos)
    rw [if_neg (by rw [hin]; decide), oWheelEdge_plain ht (by rw [ha]; decide) hd hp hc hm] at hrun
    generalize toothSeen s n (s.oStamp n 0 pos) = u at hr hrun
    have hx := hr.self
    obtain ⟨x, hxe⟩ : ∃ x, x = s.oMarked n 0 (s.oStamp n 0 pos) := ⟨_, rfl⟩
    rw [← hxe] at hrun ⊢
    have h1 := hr.oMoving x false
    have hto : (u.oMoving n x false).ory[n].tooth = none := by rw [h1.self]; exact h0
    have he : u.oTooth n x false = ((u.oMoving n x false).modOry n (fun o => { o with pLast := 0, pPrev := 0, ivals := [(x.t, 0)], tooth := some x.t })).oPush n x.due false false := by
      unfold State.oTooth
      dsimp only
      rw [if_pos (by rw [hx]; exact ha)]
      unfold State.oToothAcq State.oSeek
      dsimp only
      rw [hto]
    have h2 := (h1.modOry (fun o => { o with pLast := 0, pPrev := 0, ivals := [(x.t, 0)], tooth := some x.t })).oPush x.due false false
    rw [he] at hrun
    refine ⟨_, hrun, ?_⟩
    rw [h2.self]
    exact ⟨rfl, ha, rfl, rfl⟩

end Sys2Proof
end

section
/-!
SUPPORT. Cam edges, the missing cam, and the tooth that waits for its pulse width (R155, R167, R168).
-/
set_option Elab.async false
namespace Sys2Proof.Machine
open Sys2Proof

/-! ### No tooth waits for its pulse width -/

/-- No tooth of Orrery n waits for its pulse width. -/
def PwFree (n : Fin 4) (s : State) : Prop := s.ory[n].pw = none

theorem PwFree.of_ory {n : Fin 4} {s t : State} (h : PwFree n s) (ho : t.ory = s.ory) : PwFree n t := by
  unfold PwFree
  rw [ho]
  exact h

theorem PwFree.ite {n : Fin 4} {s t : State} {c : Prop} [Decidable c] (hs : PwFree n s) (ht : PwFree n t) : PwFree n (if c then s else t) := by
  split <;> assumption

section
variable {n : Fin 4} {s : State} (h : PwFree n s)
include h

theorem PwFree.modOry {f : Orrery → Orrery} (hf : ∀ o : Orrery, o.pw = none → (f o).pw = none := by exact fun _ ho => ho) : PwFree n (s.modOry n f) := by
  unfold PwFree
  rw [(modOry_oryFrame [] n s f).self]
  exact hf _ h

theorem PwFree.emitFl (type src tm fl : Nat) (w4 w5 w6 w7 : Word) : PwFree n (s.emitFl type src tm fl w4 w5 w6 w7) :=
  h.of_ory (Core.ory ((Frame.refl [] s).emitFl type src tm fl w4 w5 w6 w7).core)

theorem PwFree.evt (f : Fld) : PwFree n (s.evt f) := h.of_ory (Core.ory ((Frame.refl [f.reg] s).evt List.mem_cons_self).core)

theorem PwFree.rsat (f : Fld) (k : Nat) : PwFree n (s.rsat f k) := h.of_ory rfl

theorem PwFree.oFault (kind tm fl : Nat) (info : Word) : PwFree n (s.oFault n kind tm fl info) := by
  unfold State.oFault
  split
  · exact PwFree.emitFl (PwFree.modOry h) _ _ _ _ _ _ _ _
  · split
    · exact PwFree.emitFl (PwFree.modOry h) _ _ _ _ _ _ _ _
    · exact PwFree.modOry h

theorem PwFree.oEarly (x : OryStamp) (info : Word) : PwFree n (s.oEarly n x info) := PwFree.oFault (PwFree.evt (h.rsat _ 1) _) _ _ _ _

theorem PwFree.oMissing (lost kind : Nat) (x : OryStamp) (back : Bool) (info : Word) : PwFree n (s.oMissing n lost kind x back info) :=
  PwFree.oFault (PwFree.evt (h.rsat _ lost) _) _ _ _ _

theorem PwFree.oSync (new : Sync) (cause tm fl : Nat) : PwFree n (s.oSync n new cause tm fl) :=
  PwFree.emitFl (PwFree.ite (PwFree.modOry h) (PwFree.evt (PwFree.modOry h) _)) _ _ _ _ _ _ _ _

theorem PwFree.oResync (cause tm fl : Nat) (shift steps : Int) (before after : Nat) : PwFree n (s.oResync n cause tm fl shift steps before after) :=
  PwFree.emitFl (PwFree.modOry (PwFree.evt (h.rsat _ 1) _)) _ _ _ _ _ _ _ _

theorem PwFree.oPush (due : Nat) (wake rs : Bool) : PwFree n (s.oPush n due wake rs) := PwFree.modOry h

theorem PwFree.oAmend : PwFree n (s.oAmend n) := PwFree.modOry h

theorem PwFree.oMotion (x : OryStamp) (rev woke : Bool) (v : Int) : PwFree n (s.oMotion n x rev woke v) := by
  have h1 : PwFree n (if rev then s.evt (F.ORYn_EVT_REV_S n) else s) := .ite (h.evt _) h
  unfold State.oMotion
  dsimp only
  exact .ite (h1.emitFl _ _ _ _ _ _ _ _) h1

theorem PwFree.oRecEdge (x : OryStamp) (info : Nat) (rs : Bool) : PwFree n (s.oRecEdge n x info rs) := by
  unfold State.oRecEdge
  exact .ite (h.emitFl _ _ _ _ _ _ _ _) h

theorem PwFree.oEdge (x : OryStamp) (back : Bool) (k : Int) (span den info : Nat) (rs : Bool) : PwFree n (s.oEdge n x back k span den info rs) := by
  unfold State.oEdge
  dsimp only
  exact PwFree.oPush (PwFree.oRecEdge (PwFree.oMotion (PwFree.modOry h) _ _ _ _) _ _ _) _ _ _

theorem PwFree.oMove (k : Nat) (back : Bool) : PwFree n (s.oMove n k back) := PwFree.modOry h

theorem PwFree.oTimed (x : OryStamp) (P k : Nat) (back : Bool) : PwFree n (s.oTimed n x P k back) := by
  unfold State.oTimed
  exact .ite (PwFree.modOry h) (.ite (PwFree.modOry h) (PwFree.modOry h))

theorem PwFree.oAdvance (x : OryStamp) (P k : Nat) (back : Bool) : PwFree n (s.oAdvance n x P k back) := ((h.oTimed x P k back).oMove k back).oEdge _ _ _ _ _ _ _

theorem PwFree.oMoving (x : OryStamp) (back : Bool) : PwFree n (s.oMoving n x back) := PwFree.oMotion (PwFree.modOry h) _ _ _ _

theorem PwFree.oAcquired (x : OryStamp) (back : Bool) (pos k : Nat) : PwFree n (s.oAcquired n x back pos k) :=
  PwFree.oAmend (PwFree.oSync (PwFree.oEdge (PwFree.modOry h) _ _ _ _ _ _ _) _ _ _ _)

theorem PwFree.oAccept (t P k : Nat) : PwFree n (s.oAccept n t P k) := PwFree.modOry h

theorem PwFree.oSeek (x : OryStamp) (back rev : Bool) : PwFree n (s.oSeek n x back rev) := by
  unfold State.oSeek
  dsimp only
  split
  · exact PwFree.oPush (PwFree.modOry h) _ _ _
  · split
    · exact PwFree.oPush (PwFree.modOry h) _ _ _
    · split
      · exact PwFree.oPush (PwFree.modOry h) _ _ _
      · split
        · exact PwFree.oPush (PwFree.modOry h) _ _ _
        · exact PwFree.oPush (PwFree.modOry h) _ _ _
        · exact .ite (PwFree.oAcquired (PwFree.oAccept h _ _ _) _ _ _ _)
            (.ite (.ite (PwFree.oPush (PwFree.modOry (PwFree.oAccept h _ _ _)) _ _ _) (PwFree.oAcquired (PwFree.oAccept h _ _ _) _ _ _ _))
              (PwFree.oPush (PwFree.modOry (PwFree.oAccept h _ _ _)) _ _ _))

theorem PwFree.oGapEarly (x : OryStamp) (P k : Nat) (back : Bool) : PwFree n (s.oGapEarly n x P k back) := by
  unfold State.oGapEarly
  dsimp only
  exact PwFree.oEdge (PwFree.oResync (PwFree.modOry ((h.oTimed x P k back).oMove k back)) _ _ _ _ _ _ _) _ _ _ _ _ _ _

/-- A tooth whose direction is known leaves none that waits. -/
theorem PwFree.oTooth (x : OryStamp) (back : Bool) : PwFree n (s.oTooth n x back) := by
  unfold State.oTooth
  dsimp only
  refine .ite ((h.oMoving x back).oSeek _ _ _) ?_
  split
  · exact h.oEarly _ _
  · exact PwFree.oPush (PwFree.modOry (PwFree.modOry (PwFree.oSync (PwFree.oMoving (PwFree.oFault (PwFree.evt (h.rsat _ 1) _) _ _ _ _) x back) _ _ _ _) (fun _ _ => rfl))) _ _ _
  · refine .ite (PwFree.oAdvance (PwFree.ite (PwFree.modOry h) h) _ _ _ _) (.ite (PwFree.oAdvance (h.oMissing _ _ _ _ _) _ _ _ _) (.ite (.ite ?_ (h.oGapEarly _ _ _ _)) ?_))
    · exact PwFree.oAdvance (PwFree.modOry (h.oMissing _ _ _ _ _)) _ _ _ _
    · exact PwFree.oAdvance (PwFree.modOry (h.oMissing _ _ _ _ _)) _ _ _ _

end

/-- A pulse that has lasted the threshold makes its tooth a backward one (R168). -/
theorem oPwDue_none {s : State} {n : Fin 4} (h : s.ory[n].pw = none) : s.oPwDue n = s := by
  unfold State.oPwDue
  rw [h]

theorem oPwDue_early {s : State} {n : Fin 4} {y : OryStamp} (h : s.ory[n].pw = some y) (hl : s.now < y.t + s.rget (F.ORYn_DIRPW_THR n) * 64) : s.oPwDue n = s := by
  unfold State.oPwDue
  rw [h]
  exact if_neg (Nat.not_le.2 hl)

theorem oPwDue_decides {s : State} {n : Fin 4} {y : OryStamp} (h : s.ory[n].pw = some y) (hl : y.t + s.rget (F.ORYn_DIRPW_THR n) * 64 ≤ s.now) :
    s.oPwDue n = (s.modOry n (fun o => { o with pw := none, pwRegs := [], pwWords := [] })).underOld s.ory[n].pwRegs s.ory[n].pwWords
      (fun u => u.oTooth n { y with due := s.spine.tick + 50 } true) := by
  unfold State.oPwDue
  rw [h]
  dsimp only
  rw [if_pos hl]
  unfold State.oPwDecide
  rw [h]

theorem underOld_pwFree {s : State} {n : Fin 4} (h : PwFree n s) (rs ws : List (Nat × Word)) (x : OryStamp) (back : Bool) :
    PwFree n (s.underOld rs ws (fun u => u.oTooth n x back)) := by
  obtain ⟨r, u, r', he⟩ := underOld_shape s rs ws (fun u => u.oTooth n x back)
  have h1 : PwFree n ({ s with regs := r, calU := u } : State) := h.of_ory rfl
  have h2 := h1.oTooth x back
  dsimp only at he
  generalize ({ s with regs := r, calU := u } : State).oTooth n x back = w at h2 he
  rw [he]
  exact h2.of_ory rfl

theorem Far.calU {s t : State} (h : Far s t) : t.calU = s.calU := by
  obtain ⟨-, -, -, -, -, -, h7, -⟩ := h
  exact h7

theorem underOld_nil (s : State) {f : State → State} (hf : (f s).calU = s.calU) : s.underOld [] [] f = f s := by
  unfold State.underOld
  dsimp only [List.foldl_nil, List.map_nil]
  show { f s with calU := s.calU } = f s
  rw [← hf]

end Sys2Proof.Machine
end

section
/-!
SUPPORT. Cam edges (R155, R167, R182).
-/
set_option Elab.async false
namespace Sys2Proof.Machine
open Sys2Proof

/-- A cam edge that the stamper does not see, or that no wheel has (R154). -/
theorem oCamEdge_unseen {s : State} {n : Fin 4} {y : OryStamp} (h : s.oType n ≠ 0 ∨ s.ory[n].sync = .off ∨ s.oDead n 2 y = true) : s.oCamEdge n y = s := by
  unfold State.oCamEdge
  refine if_neg (fun hx => ?_)
  rcases h with h | h | h
  · exact h hx.1
  · exact hx.2.1 h
  · exact hx.2.2 h

theorem oCamTakes_iff {s : State} {n : Fin 4} (ht : s.oType n = 0) :
    s.oCamTakes n = true ↔ s.ron (F.ORYn_CTRL_TPC n) = true ∧ (s.ory[n].sync = .turn ∨ s.ory[n].sync = .full) := by
  unfold State.oCamTakes
  rw [ht]
  simp

/-- One that is seen waits for the end of its tick (R182). -/
theorem oCamEdge_seen {s : State} {n : Fin 4} {y : OryStamp} (ht : s.oType n = 0) (hs : s.ory[n].sync ≠ .off) (hd : s.oDead n 2 y = false) :
    ∃ a b, OryRun n [] [] { s.ory[n] with
      stamp := s.ory[n].stamp.set 2 (some (s.oMarked n 2 y).at'), marks := a, camWait := b } s (s.oCamEdge n y) ∧
      b = (if s.ron (F.ORYn_CTRL_TPC n) = true ∧ (s.ory[n].sync = .turn ∨ s.ory[n].sync = .full) then some (s.oMarked n 2 y, s.oClose n (s.oMarked n 2 y)) else s.ory[n].camWait) ∧
      (s.oCamEdge n y).regs = s.regs := by
  have h1 := (OryRun.refl n s).oStamped 2 (s.oMarked n 2 y)
  unfold State.oCamEdge
  rw [if_pos ⟨ht, hs, by rw [hd]; decide⟩]
  dsimp only
  by_cases hc : s.oCamTakes n = true
  · rw [if_pos hc, if_pos ((oCamTakes_iff ht).1 hc)]
    have h2 := h1.modOry (fun o => { o with camWait := some (s.oMarked n 2 y, s.oClose n (s.oMarked n 2 y)) })
    exact ⟨_, _, h2, rfl, rfl⟩
  · rw [if_neg hc, if_neg (fun h => hc ((oCamTakes_iff ht).2 h))]
    exact ⟨_, _, h1, rfl, rfl⟩

/-! ### The judgement -/

/-- The window halves that an estimate names: whether it lies in turn 0, and whether the cam window holds it and its counterpart (R167). -/
def camFull (s : State) (n est : Nat) : Nat := s.oZero n est % 2 ^ 24
def camIn0 (s : State) (n est : Nat) : Bool := s.oCamIn n (camFull s n est % 2 ^ 23)
def camIn1 (s : State) (n est : Nat) : Bool := s.oCamIn n (camFull s n est % 2 ^ 23 + 2 ^ 23)

section
variable {cs es : List Fld} {x : Orrery} {s t : State} {n : Fin 4} {y : OryStamp} (h : OryRun n cs es x s t)
include h

/-- One in both halves, or in neither, is counted. -/
theorem oCamJudge_unsure {est : Nat} (he : t.oEst n y.t = some est) (hi : camIn0 t n est = camIn1 t n est) (hn : F.ORYn_ERRCNT2_CAM n ∉ cs) :
    ∃ l, OryRun n (F.ORYn_ERRCNT2_CAM n :: cs) (F.ORYn_EVT_CAM_S n :: es) { x with faults := l } s (t.oCamJudge n y) := by
  unfold camIn0 camIn1 camFull at hi
  unfold State.oCamJudge
  rw [he]
  dsimp only
  rw [if_pos hi]
  exact ((h.count (f := F.ORYn_ERRCNT2_CAM n) (by simp [oryCounts]) hn).tell (f := F.ORYn_EVT_CAM_S n) (by simp [oryEvents])).oFault 7 y.t (y.fl t.ory[n].back) 0

/-- One that the estimate agrees with confirms it. -/
theorem oCamJudge_agrees {est : Nat} (hf : x.sync = .full) (he : t.oEst n y.t = some est) (hi : camIn0 t n est ≠ camIn1 t n est)
    (hm : camIn0 t n est = decide (camFull t n est < 2 ^ 23)) :
    OryRun n cs es { oCamOk (t.oAhead n y.t) x with bcs := x.bcs ++ [⟨y.due, false, { (oCamOk (t.oAhead n y.t) x).view with resync := false }⟩] } s (t.oCamJudge n y) := by
  have hs : t.ory[n].sync ≠ .turn := by rw [h.self, hf]; decide
  unfold camIn0 camIn1 camFull at hi
  unfold camIn0 camFull at hm
  unfold State.oCamJudge
  rw [he]
  dsimp only
  rw [if_neg hi, if_neg hs, if_pos hm.symm]
  exact (h.modOry (oCamOk (t.oAhead n y.t))).oPush y.due false false

/-- One in the other half moves it by a turn. -/
theorem oCamJudge_moves {est : Nat} (hf : x.sync = .full) (he : t.oEst n y.t = some est) (hi : camIn0 t n est ≠ camIn1 t n est)
    (hm : camIn0 t n est ≠ decide (camFull t n est < 2 ^ 23)) (hn : F.ORYn_ERRCNT_RESYNC n ∉ cs) :
    ∃ d c b, OryRun n (F.ORYn_ERRCNT_RESYNC n :: cs) es { oCamOk (t.oAhead n y.t) { x.shiftHist d with pos := (x.pos + t.oNpos n) % (2 * t.oNpos n), cyc := c } with
      suspect := false, bcs := x.bcs ++ [⟨y.due, true, b⟩] } s (t.oCamJudge n y) := by
  have hx := h.self
  have hs : t.ory[n].sync ≠ .turn := by rw [hx, hf]; decide
  unfold camIn0 camIn1 camFull at hi
  unfold camIn0 camFull at hm
  obtain ⟨d, c, hmod⟩ : ∃ (d : Int) (c : Nat), t.oCamJudge n y = ((((t.modOry n (fun o => { o.shiftHist d with pos := (x.pos + t.oNpos n) % (2 * t.oNpos n), cyc := c })).modOry n (oCamOk (t.oAhead n y.t))).oResync n 2 y.t
      (y.fl x.back) (-8388608) (-(t.oNpos n : Int)) (t.oBase n x.cyc x.pos 0) ((t.oBase n x.cyc x.pos 0 + 2 ^ 32 - 2 ^ 23) % 2 ^ 32)).oBroadcast n y.due true) := by
    unfold State.oCamJudge
    rw [he]
    dsimp only
    rw [if_neg hi, if_neg hs, if_neg hm.symm, hx]
    exact ⟨_, _, rfl⟩
  rw [hmod]
  have h1 := (((h.modOry (fun o => { o.shiftHist d with pos := (x.pos + t.oNpos n) % (2 * t.oNpos n), cyc := c })).modOry (oCamOk (t.oAhead n y.t))).oResync hn 2 y.t
    (y.fl x.back) (-8388608) (-(t.oNpos n : Int)) (t.oBase n x.cyc x.pos 0) ((t.oBase n x.cyc x.pos 0 + 2 ^ 32 - 2 ^ 23) % 2 ^ 32)).oBroadcast y.due true
  exact ⟨d, c, _, h1⟩

end

/-- What a cam edge leaves of an Orrery whatever it says: what waits, but for a broadcast of its own. -/
structure CamKeeps (x z : Orrery) (due : Nat) : Prop where
  qwait : z.qwait = x.qwait
  cmds : z.cmds = x.cmds
  bcs : ∀ b ∈ z.bcs, b ∈ x.bcs ∨ b.due = due

theorem CamKeeps.of_bcs {x z : Orrery} {due : Nat} (hq : z.qwait = x.qwait) (hc : z.cmds = x.cmds) (hb : z.bcs = x.bcs) : CamKeeps x z due :=
  ⟨hq, hc, fun _ h => .inl (hb ▸ h)⟩

theorem CamKeeps.push {x z : Orrery} {due : Nat} {wake : Bool} {v : OryView} (hq : z.qwait = x.qwait) (hc : z.cmds = x.cmds) (hb : z.bcs = x.bcs ++ [⟨due, wake, v⟩]) :
    CamKeeps x z due := by
  refine ⟨hq, hc, fun c h => ?_⟩
  rw [hb, List.mem_append, List.mem_singleton] at h
  rcases h with h | rfl
  · exact .inl h
  · exact .inr rfl

/-- A cam edge in TURN makes the Orrery FULL (R167). -/
theorem oCamJudge_turn {cs es : List Fld} {x : Orrery} {s t : State} {n : Fin 4} {y : OryStamp} (h : OryRun n cs es x s t) (hf : x.sync = .turn) {est : Nat} (he : t.oEst n y.t = some est)
    (hi : camIn0 t n est ≠ camIn1 t n est) : ∃ z, OryRun n cs es z s (t.oCamJudge n y) ∧ CamKeeps x z y.due := by
  have hs : t.ory[n].sync = .turn := by rw [h.self, hf]
  unfold camIn0 camIn1 camFull at hi
  obtain ⟨p, a, hmod⟩ : ∃ (p : Nat) (a : Int), t.oCamJudge n y = (((t.modOry n (fun o => { o.shiftHist a with pos := p, cyc := 0 })).modOry n (oCamOk (t.oAhead n y.t))).oSync n .full 0 y.t
      (y.fl t.ory[n].back)).oBroadcast n y.due false := by
    unfold State.oCamJudge
    rw [he]
    dsimp only
    rw [if_neg hi, if_pos hs]
    exact ⟨_, _, rfl⟩
  rw [hmod]
  have h1 := (((h.modOry (fun o => { o.shiftHist a with pos := p, cyc := 0 })).modOry (oCamOk (t.oAhead n y.t))).oSync .full 0 y.t (y.fl t.ory[n].back)).oBroadcast y.due false
  exact ⟨_, h1, CamKeeps.push rfl rfl rfl⟩

theorem oCamJudge_keeps {es : List Fld} {x : Orrery} {s t : State} {n : Fin 4} {y : OryStamp} (h : OryRun n [] es x s t) (hf : x.sync = .turn ∨ x.sync = .full) :
    ∃ cs' es' z, OryRun n cs' es' z s (t.oCamJudge n y) ∧ CamKeeps x z y.due := by
  cases he : t.oEst n y.t with
  | none =>
    have : t.oCamJudge n y = t := by unfold State.oCamJudge; rw [he]
    rw [this]
    exact ⟨_, _, x, h, .of_bcs rfl rfl rfl⟩
  | some est =>
    by_cases hi : camIn0 t n est = camIn1 t n est
    · obtain ⟨l, h1⟩ := oCamJudge_unsure h he hi List.not_mem_nil
      exact ⟨_, _, _, h1, .of_bcs rfl rfl rfl⟩
    · rcases hf with hf | hf
      · obtain ⟨z, h1, hz⟩ := oCamJudge_turn h hf he hi
        exact ⟨_, _, z, h1, hz⟩
      · by_cases hm : camIn0 t n est = decide (camFull t n est < 2 ^ 23)
        · exact ⟨_, _, _, oCamJudge_agrees h hf he hi hm, CamKeeps.push rfl rfl rfl⟩
        · obtain ⟨d, c, b, h1⟩ := oCamJudge_moves h hf he hi hm List.not_mem_nil
          exact ⟨_, _, _, h1, CamKeeps.push rfl rfl rfl⟩

/-! ### The end of the tick -/

/-- The state in which a cam edge is judged. -/
def camAccepted (s : State) (n : Fin 4) (y : OryStamp) : State := (s.modOry n (fun o => { o with camWait := none })).oAccepted n y

theorem camAccepted_run (s : State) (n : Fin 4) (y : OryStamp) :
    OryRun n [] [] { s.ory[n] with camWait := none, lastAcc := some (max y.t (s.ory[n].lastAcc.getD 0)) } s (camAccepted s n y) :=
  ((OryRun.refl n s).modOry (fun o => { o with camWait := none })).oAccepted y

section
variable {s : State} {n : Fin 4} {y : OryStamp} {close : Bool} (hw : s.ory[n].camWait = some (y, close))
include hw

/-- The 40 ns limit sets itself against a cam edge, but not against a tooth of the tick (R155). -/
theorem oCamSettle_close (ht : s.oCamTakes n = true) (hc : close = true) (hn : s.ory[n].toothTick ≠ some s.spine.tick) :
    s.oCamSettle n = (s.modOry n (fun o => { o with camWait := none })).oEarly n y 0 := by
  unfold State.oCamSettle
  rw [hw]
  dsimp only
  rw [if_neg (fun h => h ht), if_pos ⟨hc, hn⟩]

theorem oCamSettle_judges (ht : s.oCamTakes n = true) (hc : close = false ∨ s.ory[n].toothTick = some s.spine.tick) :
    s.oCamSettle n = (camAccepted s n y).oCamJudge n y := by
  unfold State.oCamSettle
  rw [hw]
  dsimp only
  rw [if_neg (fun h => h ht), if_neg (fun h => hc.elim (fun e => by rw [e] at h; exact absurd h.1 (by decide)) (fun e => h.2 e))]
  rfl

theorem oCamSettle_drops (ht : ¬ s.oCamTakes n = true) : s.oCamSettle n = s.modOry n (fun o => { o with camWait := none }) := by
  unfold State.oCamSettle
  rw [hw]
  dsimp only
  rw [if_pos ht]

/-- A cam edge leaves what else waits at the Orrery. -/
theorem oCamSettle_keeps : ∃ cs es z, OryRun n cs es z s (s.oCamSettle n) ∧ CamKeeps s.ory[n] z y.due := by
  by_cases ht : s.oCamTakes n = true
  · by_cases hc : close = true ∧ s.ory[n].toothTick ≠ some s.spine.tick
    · obtain ⟨l, h1⟩ := ((OryRun.refl n s).modOry (fun o => { o with camWait := none })).oEarly List.not_mem_nil y 0
      rw [oCamSettle_close hw ht hc.1 hc.2]
      exact ⟨_, _, _, h1, .of_bcs rfl rfl rfl⟩
    · have hc' : close = false ∨ s.ory[n].toothTick = some s.spine.tick := by
        cases close with
        | false => exact .inl rfl
        | true => exact .inr (by_contra (fun hx => hc ⟨rfl, hx⟩))
      have hf : s.ory[n].sync = .turn ∨ s.ory[n].sync = .full := by
        unfold State.oCamTakes at ht
        simpa using (Bool.and_eq_true_iff.1 ht).2
      rw [oCamSettle_judges hw ht hc']
      obtain ⟨cs, es, z, h1, hq, hc, hb⟩ := oCamJudge_keeps (camAccepted_run s n y) hf
      exact ⟨cs, es, z, h1, hq, hc, hb⟩
  · rw [oCamSettle_drops hw ht]
    exact ⟨_, _, _, (OryRun.refl n s).modOry (fun o => { o with camWait := none }), .of_bcs rfl rfl rfl⟩

end

/-- An Orrery that shows the same in the same configuration estimates the same (R160). -/
theorem oEst_congr {s t : State} {n : Fin 4} (hr : ∀ f, t.rget f = s.rget f) (hh : t.ory[n].hist = s.ory[n].hist) (hs : t.ory[n].still = s.ory[n].still) (tm : Nat) :
    t.oEst n tm = s.oEst n tm ∧ t.oAhead n tm = s.oAhead n tm := by
  have hd : ∀ b e u, t.oDelta n b e u = s.oDelta n b e u := fun b e u => by
    unfold State.oDelta State.oType
    rw [hr]
  constructor
  · unfold State.oEst State.oEstOf OryView.edgeAt Orrery.view
    simp only [hh, hs, hd]
  · unfold State.oAhead
    rw [hh, hs]
    simp only [hd]

theorem camIn_congr {s t : State} {n : Fin 4} (hr : ∀ f, t.rget f = s.rget f) (hu : t.calU = s.calU) (est : Nat) :
    camFull t n est = camFull s n est ∧ camIn0 t n est = camIn0 s n est ∧ camIn1 t n est = camIn1 s n est := by
  have hf : camFull t n est = camFull s n est := by
    unfold camFull State.oZero State.calUser
    rw [hu]
  have hi : ∀ a, t.oCamIn n a = s.oCamIn n a := fun a => by
    unfold State.oCamIn
    simp only [hr]
  refine ⟨hf, ?_, ?_⟩
  · unfold camIn0
    rw [hf, hi]
  · unfold camIn1
    rw [hf, hi]

/-- The end of a tick whose only work is the cam edge of Orrery n. -/
theorem tickEnd_cam {s : State} {n : Fin 4} (himg : ∀ c : Fin 96, s.ch[c].imgPend = false) (hslew : s.spine.slew = none)
    (hory : ∀ m : Fin 4, m ≠ n → s.ory[m].camWait = none ∧ s.ory[m].cmds = []) (hcmds : (s.oCamSettle n).ory[n].cmds = [])
    (hregs : s.ap.regs = []) (hwords : s.ap.words = []) : s.tickEnd = s.oCamSettle n := by
  have hi : (List.finRange 96).foldl (fun (s : State) (c : Fin 96) => s.flushImage c) s = s :=
    List.foldl_fixed' (fun c => by unfold State.flushImage; rw [if_neg (by rw [himg c]; exact Bool.false_ne_true)]) _
  have hs : s.slewFinish = s := by unfold State.slewFinish; rw [hslew]
  have hone : s.oTickEnd n = s.oCamSettle n := by
    unfold State.oTickEnd
    exact oCmdRun_still hcmds
  have hw : Within (.orrery n) s (s.oCamSettle n) := oCamSettle_pin (within_closed _) s n rfl (.refl _ s)
  have hf : Far s (s.oCamSettle n) := oCamSettle_far s n (far_refl s)
  have hfold : (List.finRange 4).foldl (fun (s : State) (m : Fin 4) => s.oTickEnd m) s = s.oCamSettle n := by
    obtain ⟨l, r, hlr⟩ := List.append_of_mem (List.mem_finRange n)
    have hnd : (l ++ n :: r).Nodup := hlr ▸ List.nodup_finRange 4
    have hl : n ∉ l := fun hx => (List.nodup_append.1 hnd).2.2 n hx n (List.mem_cons_self) rfl
    have hr : n ∉ r := (List.nodup_cons.1 (List.nodup_append.1 hnd).2.1).1
    rw [hlr, List.foldl_append, List.foldl_cons, oTickEnds_still l hl hory, hone, oTickEnds_still r hr (fun m hm => by rw [hw.ory m hm]; exact hory m hm)]
  unfold State.tickEnd
  dsimp only
  rw [hi, hs, hfold]
  unfold State.activateHeld
  rw [if_pos ⟨by rw [hf.ap]; exact hregs, by rw [hf.ap]; exact hwords⟩]

end Sys2Proof.Machine
end

section
set_option Elab.async false
namespace Sys2Proof
open Sys2Proof.Machine

theorem exec_camEdge {s : State} (h : oryTakes s) (n : Fin 4) (pos : Fin 64) :
    exec (.camEdge n pos) s = .next (if s.oInputOff n 2 then s else s.oCamEdge n (s.oStamp n 2 pos)) := oryEdge_open h n 2 _

theorem exec_camLost {s : State} (h : oryTakes s) (n : Fin 4) : exec (.camLost n) s = .next (s.oCamLost n) := oryEvent_open h (fun s => s.oCamLost n)

theorem exec_dirPwDecision {s : State} (h : oryTakes s) (n : Fin 4) : exec (.dirPwDecision n) s = .next (s.oPwDue n) := oryEvent_open h (fun s => s.oPwDue n)

/-- A cam edge in FULL (R155, R167). -/
theorem fullCam {s : State} {n : Fin 4} {x : OryStamp} {close : Bool} (hw : s.ory[n].camWait = some (x, close)) (ht : s.oType n = 0)
    (htpc : s.ron (F.ORYn_CTRL_TPC n) = true) (hfull : s.ory[n].sync = .full) :
    let o := s.ory[n]
    let t := s.oCamSettle n
    (close = true → o.toothTick ≠ some s.spine.tick → countedOne s t (F.ORYn_ERRCNT_EARLY n) ∧ t.ory[n].pos = o.pos ∧
      t.ory[n].hist = o.hist ∧ t.ory[n].camok = o.camok) ∧
    (∀ est, (close = false ∨ o.toothTick = some s.spine.tick) → s.oEst n x.t = some est →
      let full := s.oZero n est % 2 ^ 24
      let in0 := s.oCamIn n (full % 2 ^ 23)
      let in1 := s.oCamIn n (full % 2 ^ 23 + 2 ^ 23)
      t.ory[n].sync = .full ∧ t.ory[n].camWait = none ∧
      (in0 = in1 → countedOne s t (F.ORYn_ERRCNT2_CAM n) ∧ t.ron (F.ORYn_EVT_CAM_S n) = true ∧ t.ory[n].pos = o.pos) ∧
      (in0 ≠ in1 → in0 = decide (full < 2 ^ 23) → t.ory[n].camok = true ∧ t.ory[n].camSteps = 0 ∧ t.ory[n].camTold = false ∧
        t.ory[n].camOff = s.oAhead n x.t ∧ t.ory[n].pos = o.pos ∧ t.ory[n].hist = o.hist) ∧
      (in0 ≠ in1 → in0 ≠ decide (full < 2 ^ 23) → t.ory[n].camok = true ∧ countedOne s t (F.ORYn_ERRCNT_RESYNC n) ∧
        t.ory[n].pos = (o.pos + s.oNpos n) % (2 * s.oNpos n))) := by
  intro o t
  have htk : s.oCamTakes n = true := (oCamTakes_iff ht).2 ⟨htpc, .inr hfull⟩
  refine ⟨fun hc hn => ?_, fun est hc he => ?_⟩
  · obtain ⟨l, h1⟩ := ((OryRun.refl n s).modOry (fun o => { o with camWait := none })).oEarly List.not_mem_nil x 0
    show countedOne s (s.oCamSettle n) _ ∧ (s.oCamSettle n).ory[n].pos = _ ∧ (s.oCamSettle n).ory[n].hist = _ ∧ (s.oCamSettle n).ory[n].camok = _
    rw [oCamSettle_close hw htk hc hn, h1.self]
    exact ⟨h1.counted _ List.mem_cons_self, rfl, rfl, rfl⟩
  · intro full in0 in1
    have hrun := camAccepted_run s n x
    have hu : (camAccepted s n x).calU = s.calU := rfl
    have hreg : ∀ f, (camAccepted s n x).rget f = s.rget f := fun _ => rfl
    have hset := oCamSettle_judges hw htk hc
    have hnp : (camAccepted s n x).oNpos n = s.oNpos n := rfl
    show (s.oCamSettle n).ory[n].sync = _ ∧ (s.oCamSettle n).ory[n].camWait = _ ∧ (_ → countedOne s (s.oCamSettle n) _ ∧ (s.oCamSettle n).ron _ = _ ∧ (s.oCamSettle n).ory[n].pos = _) ∧
      (_ → _ → (s.oCamSettle n).ory[n].camok = _ ∧ (s.oCamSettle n).ory[n].camSteps = _ ∧ (s.oCamSettle n).ory[n].camTold = _ ∧ (s.oCamSettle n).ory[n].camOff = _ ∧
        (s.oCamSettle n).ory[n].pos = _ ∧ (s.oCamSettle n).ory[n].hist = _) ∧
      (_ → _ → (s.oCamSettle n).ory[n].camok = _ ∧ countedOne s (s.oCamSettle n) _ ∧ (s.oCamSettle n).ory[n].pos = _)
    rw [hset]
    generalize camAccepted s n x = u at hrun hu hreg hnp
    have hself := hrun.self
    obtain ⟨hest, hahead⟩ := oEst_congr (n := n) hreg (by rw [hself]) (by rw [hself]) x.t
    obtain ⟨h1, h2, h3⟩ := camIn_congr (n := n) hreg hu est
    have heu := hest.trans he
    have h0 : in0 = camIn0 u n est := h2.symm
    have h1' : in1 = camIn1 u n est := h3.symm
    have hfl : full = camFull u n est := h1.symm
    clear_value in0 in1 full
    rw [h0, h1', hfl]
    by_cases hi : camIn0 u n est = camIn1 u n est
    · obtain ⟨l, hr⟩ := oCamJudge_unsure hrun heu hi List.not_mem_nil
      rw [hr.self]
      exact ⟨hfull, rfl, fun _ => ⟨hr.counted _ List.mem_cons_self, hr.told _ List.mem_cons_self, rfl⟩, fun hx => absurd hi hx, fun hx => absurd hi hx⟩
    · by_cases hm : camIn0 u n est = decide (camFull u n est < 2 ^ 23)
      · have hr := oCamJudge_agrees hrun hfull heu hi hm
        rw [hr.self, hahead]
        exact ⟨hfull, rfl, fun hx => absurd hx hi, fun _ _ => ⟨rfl, rfl, rfl, rfl, rfl, rfl⟩, fun _ hx => absurd hm hx⟩
      · obtain ⟨d, c, b, hr⟩ := oCamJudge_moves hrun hfull heu hi hm List.not_mem_nil
        rw [hnp] at hr
        rw [hr.self]
        exact ⟨hfull, rfl, fun hx => absurd hx hi, fun _ hx => absurd hx hm, fun _ _ => ⟨rfl, hr.counted _ List.mem_cons_self, rfl⟩⟩

/-- The next step ends the tick, and judges the cam edge (R182). -/
theorem camJudgedAtEnd {s : State} {n : Fin 4} {x : OryStamp} {close : Bool} (hw : s.ory[n].camWait = some (x, close)) (h : onlyWork s n) (hcm : s.ory[n].cmds = [])
    (hdue : s.spine.tick + 1 < x.due) {a : State} (ha : a = if s.loading then s else { s with pw := { s.pw with wdgTicks := s.pw.wdgTicks + 1 } }) :
    ∃ t, Machine.step s = .next t ∧ t.spine.tick = s.spine.tick + 1 ∧ t.ory[n] = (a.oCamSettle n).ory[n] := by
  obtain ⟨hpend, hcount, hpow, hfro, hslew, hslow, hold, hregs, hwords, hreqs, hv, hswap, hconv, hch, hlh, hroot, hory⟩ := h
  have ht : s.pllTick = a.tickMove 0 := by
    unfold State.pllTick State.pllTickWith
    dsimp only
    rw [if_neg (by rw [hcount, hpow]; decide), if_neg (by rw [hfro]; decide), ← ha]
  obtain ⟨w, hwp⟩ : ∃ w, a = ({ s with pw := w } : State) := by
    rw [ha]
    split
    · exact ⟨s.pw, rfl⟩
    · exact ⟨_, rfl⟩
  have hao : a.ory = s.ory := by rw [hwp]
  have hat : a.spine.tick = s.spine.tick := by rw [hwp]
  have hplain : plainTick a := by rw [hwp]; exact ⟨hslow, hreqs, hv⟩
  obtain ⟨cs, es, z, hrun, hq, hc, hb⟩ := oCamSettle_keeps (s := a) (n := n) (y := x) (close := close) (by rw [hao]; exact hw)
  rw [hao] at hq hc hb
  have hend : a.tickEnd = a.oCamSettle n := tickEnd_cam (fun c => by rw [hwp]; exact (hch c).2.2.1) (by rw [hwp]; exact hslew)
    (fun m hm => by rw [hao]; exact (hory m).2.2 hm) (by rw [hrun.self]; exact hc.trans hcm) (by rw [hwp]; exact hregs) (by rw [hwp]; exact hwords)
  have hwi : Within (.orrery n) a (a.oCamSettle n) := oCamSettle_pin (within_closed _) a n rfl (.refl _ a)
  have hq : ∀ m : Fin 4, a.tickEnd.ory[m].qwait = none ∧ ∀ b ∈ a.tickEnd.ory[m].bcs, a.spine.tick + 1 < b.due := fun m => by
    rw [hend]
    by_cases hm : m = n
    · rw [hm, hrun.self]
      refine ⟨hq.trans (hory n).1, fun b hbm => ?_⟩
      rcases hb b hbm with hx | hx
      · rw [(hory n).2.1] at hx
        exact absurd hx List.not_mem_nil
      · rw [hx, hat]
        exact hdue
    · rw [hwi.ory m hm, hao, (hory m).2.1]
      exact ⟨(hory m).1, fun b hb => absurd hb (List.not_mem_nil)⟩
  have hown : ∀ c : Fin 96, a.tickEnd.ch[c].own = [] := fun c => by
    rw [hend, hwi.chs (fun hx => hx) (fun _ hx => hx), hwp]
    exact (hch c).1
  obtain ⟨ho, -⟩ := plainTick_ory hplain (fun m => (hq m).1) (fun m => (hq m).2) hown
  rw [hend] at ho
  exact ⟨a.tickMove 0, (idleStepIsATick s hpend).trans (congrArg _ ht), (plainTick_calm hplain).2.2.1.trans (by rw [hat]), ho n⟩

/-- A cam that stays away is told once (R167). -/
theorem oCamLost_told {s : State} {n : Fin 4} (htk : s.oCamTakes n = true) (hfull : s.ory[n].sync = .full) (hto : s.ory[n].camTold = false) (hl : s.rget (F.ORYn_CAM_CFG_CAMTO n) ≠ 0)
    (hd : (s.rget (F.ORYn_CAM_CFG_CAMTO n) * 2 ^ 24 + s.ory[n].camOff) * s.oSteps n ≤ s.ory[n].camSteps * 2 ^ 24 + s.oAhead n s.now * s.oSteps n) :
    ∃ a b c, OryRun n [] [F.ORYn_EVT_CAM_S n] { s.ory[n] with camok := false, camTold := true, faults := a, bcs := b, seen := c } s (s.oCamLost n) := by
  unfold State.oCamLost
  dsimp only
  rw [if_pos ⟨htk, hfull, by rw [hto]; decide, hl, hd⟩]
  obtain ⟨l, h1⟩ := ((((OryRun.refl n s).modOry (fun o => { o with camok := false, camTold := true })).modOry
    (fun o => { o with bcs := o.bcs.map (fun b => { b with view := (fun v : OryView => { v with camok := false }) b.view }), seen := (fun v : OryView => { v with camok := false }) o.seen })).tell
    (f := F.ORYn_EVT_CAM_S n) (by simp [oryEvents])).oFault 8 s.now (s.oDirFlag n) 0
  exact ⟨l, _, _, h1⟩

theorem wheelCams_holds : wheelCams := by
  intro n pos s h
  have hrun := exec_camEdge h n pos
  refine ⟨fun hc => ?_, fun hin ht hs hd => ?_, fun x close hw ht htpc hfull => fullCam hw ht htpc hfull, fun x close hw ho hcm hdue => camJudgedAtEnd hw ho hcm hdue rfl,
    ⟨fun ht => ?_, fun hn => ?_⟩, fun y hy => ⟨fun hl => ?_, fun hl => ?_⟩, fun hp => ?_⟩
  · rw [hrun]
    rcases hc with hin | hc
    · rw [if_pos hin]
    · rw [oCamEdge_unseen hc, ite_self]
  · rw [if_neg (by rw [hin]; decide)] at hrun
    obtain ⟨a, b, h1, hb, hregs⟩ := oCamEdge_seen ht hs hd
    refine ⟨_, hrun, fun o => congrArg (fun r => tblGet resetWord r o) hregs, ?_⟩
    rw [h1.self]
    exact ⟨rfl, hb, rfl, rfl, rfl, rfl⟩
  · obtain ⟨h1, h2, h3, h4, h5, h6⟩ := ht
    obtain ⟨a, b, c, hr⟩ := oCamLost_told ((oCamTakes_iff h1).2 ⟨h2, .inr h3⟩) h3 h4 h5 h6
    refine ⟨_, exec_camLost h n, ?_⟩
    rw [hr.self]
    exact ⟨rfl, rfl, hr.told _ List.mem_cons_self, rfl⟩
  · rw [exec_camLost h n]
    unfold State.oCamLost
    dsimp only
    rw [if_neg]
    rintro ⟨h1, h2, h3, h4, h5⟩
    have hty : s.oType n = 0 := by
      unfold State.oCamTakes at h1
      simp only [Bool.and_eq_true, decide_eq_true_eq] at h1
      exact h1.1.1
    exact hn ⟨hty, ((oCamTakes_iff hty).1 h1).1, h2, Bool.eq_false_of_not_eq_true h3, h4, h5⟩
  · rw [exec_dirPwDecision h n, oPwDue_early hy hl]
  · have he := oPwDue_decides hy hl
    have hfree : PwFree n (s.modOry n (fun o => { o with pw := none, pwRegs := [], pwWords := [] })) := by
      unfold PwFree
      rw [(modOry_oryFrame [] n s _).self]
    have hp := underOld_pwFree hfree s.ory[n].pwRegs s.ory[n].pwWords { y with due := s.spine.tick + 50 } true
    rw [← he] at hp
    refine ⟨_, exec_dirPwDecision h n, hp, he, fun hr hw => ?_⟩
    have hsame : s.modOry n (fun o => { o with pw := none, pwRegs := [], pwWords := [] }) = s.modOry n (fun o => { o with pw := none }) :=
      modOry_congr (by rw [hr, hw])
    rw [he, hr, hw, hsame, underOld_nil]
    exact (Far.calU (oTooth_far _ n _ true (far_refl _)))
  · rw [exec_dirPwDecision h n, oPwDue_none hp]

/-- Settles O32: the wheel decoder, by its teeth and its cam edges. -/
theorem wheelDecoding : Obligations.WheelDecoding := ⟨wheelTeeth_holds, wheelCams_holds⟩

end Sys2Proof
end

section
/-!
SUPPORT. Hall changes (R154, R155, R169).
-/
set_option Elab.async false
namespace Sys2Proof.Machine
open Sys2Proof

/-! ### The levels that a decoder sees and takes -/

theorem levels_taken : ∀ cur lvl : BitVec 3,
    (List.finRange 3).foldl (fun (a : BitVec 3) (i : Fin 3) => if (cur ^^^ lvl).getLsbD i then a ^^^ BitVec.ofNat 3 (2 ^ i.val) else a) cur = lvl := by decide

/-- With no input in a bank without supply, every level is seen (R54). -/
theorem oSeenLvl_on {s : State} {n : Fin 4} (h : inputsOn s n) (cur lvl : BitVec 3) : s.oSeenLvl n cur lvl = lvl := by
  have hf : (fun (a : BitVec 3) (i : Fin 3) => if (cur ^^^ lvl).getLsbD i = true ∧ ¬ s.oInputOff n i = true then a ^^^ BitVec.ofNat 3 (2 ^ i.val) else a) =
      (fun (a : BitVec 3) (i : Fin 3) => if (cur ^^^ lvl).getLsbD i then a ^^^ BitVec.ofNat 3 (2 ^ i.val) else a) := by
    funext a i
    simp only [h i.val i.isLt, Bool.false_eq_true, not_false_eq_true, and_true]
  unfold State.oSeenLvl
  rw [hf]
  exact levels_taken cur lvl

/-- One stamper takes its level change, or does not see it (R154). -/
def takeOne (s : State) (n : Fin 4) (cur lvl : BitVec 3) (mk : Fin 3 → OryStamp) (r : State × BitVec 3 × Option OryStamp) (i : Fin 3) : State × BitVec 3 × Option OryStamp :=
  if (cur ^^^ lvl).getLsbD i ∧ ¬ s.oDead n i (mk i) then
    (r.1.oStamped n i (mk i), r.2.1 ^^^ BitVec.ofNat 3 (2 ^ i.val), r.2.2.or (some (s.oMarked n i (mk i))))
  else r

theorem oTakeLvl_eq (s : State) (n : Fin 4) (cur lvl : BitVec 3) (mk : Fin 3 → OryStamp) :
    s.oTakeLvl n cur lvl mk = takeOne s n cur lvl mk (takeOne s n cur lvl mk (takeOne s n cur lvl mk (s, cur, none) 0) 1) 2 := rfl

theorem flip_back : ∀ (cur : BitVec 3) (i j : Fin 3), (cur ^^^ (cur ^^^ BitVec.ofNat 3 (2 ^ i.val))).getLsbD j = decide (j = i) := by decide

theorem takeOne_other {s : State} {n : Fin 4} {cur : BitVec 3} {mk : Fin 3 → OryStamp} {r : State × BitVec 3 × Option OryStamp} {i j : Fin 3} (h : j ≠ i) :
    takeOne s n cur (cur ^^^ BitVec.ofNat 3 (2 ^ i.val)) mk r j = r := by
  unfold takeOne
  rw [flip_back]
  exact if_neg (fun hx => h (of_decide_eq_true hx.1))

theorem takeOne_same {s : State} {n : Fin 4} {cur : BitVec 3} {mk : Fin 3 → OryStamp} {i : Fin 3} (hd : s.oDead n i (mk i) = false) (a : State) :
    (takeOne s n cur (cur ^^^ BitVec.ofNat 3 (2 ^ i.val)) mk (a, cur, none) i).2 = (cur ^^^ BitVec.ofNat 3 (2 ^ i.val), some (s.oMarked n i (mk i))) := by
  unfold takeOne
  rw [flip_back, if_pos ⟨decide_eq_true rfl, by rw [hd]; decide⟩]
  rfl

/-- A change of one line alone, out of its dead time, is taken as it is. -/
theorem oTakeLvl_one {s : State} {n : Fin 4} {cur : BitVec 3} {mk : Fin 3 → OryStamp} {i : Fin 3} (hd : s.oDead n i (mk i) = false) :
    (s.oTakeLvl n cur (cur ^^^ BitVec.ofNat 3 (2 ^ i.val)) mk).2 = (cur ^^^ BitVec.ofNat 3 (2 ^ i.val), some (s.oMarked n i (mk i))) := by
  rw [oTakeLvl_eq]
  match i, hd with
  | 0, hd => rw [takeOne_other (i := 0) (j := 2) (by decide), takeOne_other (i := 0) (j := 1) (by decide)]; exact takeOne_same hd s
  | 1, hd => rw [takeOne_other (i := 1) (j := 2) (by decide), takeOne_other (i := 1) (j := 0) (by decide)]; exact takeOne_same hd s
  | 2, hd => rw [takeOne_other (i := 2) (j := 1) (by decide), takeOne_other (i := 2) (j := 0) (by decide)]; exact takeOne_same hd s

/-- A state in which some stampers of an Orrery have seen their edges. -/
def Stamped (n : Fin 4) (s t : State) : Prop := ∃ a b, OryRun n [] [] { s.ory[n] with stamp := a, marks := b } s t ∧ t.regs = s.regs

theorem Stamped.take {n : Fin 4} {s : State} {cur lvl : BitVec 3} {mk : Fin 3 → OryStamp} {r : State × BitVec 3 × Option OryStamp} (h : Stamped n s r.1) (i : Fin 3) :
    Stamped n s (takeOne s n cur lvl mk r i).1 := by
  unfold takeOne
  split
  · obtain ⟨a, b, h1, h2⟩ := h
    exact ⟨_, _, h1.oStamped i (mk i), h2⟩
  · exact h

theorem oTakeLvl_stamped (s : State) (n : Fin 4) (cur lvl : BitVec 3) (mk : Fin 3 → OryStamp) : Stamped n s (s.oTakeLvl n cur lvl mk).1 := by
  have h0 : Stamped n s s := ⟨s.ory[n].stamp, s.ory[n].marks, OryRun.refl n s, rfl⟩
  rw [oTakeLvl_eq]
  exact Stamped.take (Stamped.take (Stamped.take h0 0) 1) 2

/-! ### A Hall change -/

/-- The state in which a Hall change has been taken: an early one is counted. -/
def hallTaken (s s0 : State) (n : Fin 4) (l : BitVec 3) (x : OryStamp) : State :=
  if s.oClose n x then (s0.modOry n (fun o => { o with lvl := l })).oEarlyCnt n else (s0.modOry n (fun o => { o with lvl := l })).oAccepted n x

/-- What counts as early. -/
def earlyCount (n : Fin 4) (c : Bool) : List Fld := if c then [F.ORYn_ERRCNT_EARLY n] else []
def earlyEvent (n : Fin 4) (c : Bool) : List Fld := if c then [F.ORYn_EVT_EARLY_S n] else []

theorem hallTaken_run {s s0 : State} {n : Fin 4} (h : Stamped n s s0) (l : BitVec 3) (x : OryStamp) :
    ∃ a b c, OryRun n (earlyCount n (s.oClose n x)) (earlyEvent n (s.oClose n x)) { s.ory[n] with stamp := a, marks := b, lvl := l, lastAcc := c } s (hallTaken s s0 n l x) := by
  obtain ⟨a, b, h1, -⟩ := h
  have h2 := h1.modOry (fun o => { o with lvl := l })
  unfold hallTaken earlyCount earlyEvent
  cases hc : s.oClose n x with
  | true => exact ⟨a, b, _, h2.oEarlyCnt List.not_mem_nil⟩
  | false => exact ⟨a, b, _, h2.oAccepted x⟩

theorem not_early {n : Fin 4} {f : Fld} (h : f ≠ F.ORYn_ERRCNT_EARLY n) (c : Bool) : f ∉ earlyCount n c := by
  unfold earlyCount
  cases c
  · exact List.not_mem_nil
  · exact fun hx => h (List.mem_singleton.1 hx)

theorem illegal_ne_early (n : Fin 4) : F.ORYn_ERRCNT2_ILLEGAL n ≠ F.ORYn_ERRCNT_EARLY n := fun h => by
  have := congrArg Fld.reg h
  simp [F.ORYn_ERRCNT2_ILLEGAL, F.ORYn_ERRCNT_EARLY, R.ORYn_ERRCNT, R.ORYn_ERRCNT2] at this

theorem resync_ne_early (n : Fin 4) : F.ORYn_ERRCNT_RESYNC n ≠ F.ORYn_ERRCNT_EARLY n := fun h => by
  have := congrArg Fld.lo h
  simp [F.ORYn_ERRCNT_RESYNC, F.ORYn_ERRCNT_EARLY] at this

theorem resync_ne_illegal (n : Fin 4) : F.ORYn_ERRCNT_RESYNC n ≠ F.ORYn_ERRCNT2_ILLEGAL n := fun h => by
  have := congrArg Fld.lo h
  simp [F.ORYn_ERRCNT_RESYNC, F.ORYn_ERRCNT2_ILLEGAL] at this

/-- A change without an early edge, or with one, among what it counts. -/
structure Early (s t : State) (n : Fin 4) (x : OryStamp) : Prop where
  early : s.oClose n x = true → countedOne s t (F.ORYn_ERRCNT_EARLY n) ∧ t.ron (F.ORYn_EVT_EARLY_S n) = true

theorem OryRun.early {n : Fin 4} {cs es : List Fld} {z : Orrery} {s t : State} {x : OryStamp} (h : OryRun n cs es z s t)
    (hc : ∀ f ∈ earlyCount n (s.oClose n x), f ∈ cs) (he : ∀ f ∈ earlyEvent n (s.oClose n x), f ∈ es) : Early s t n x := by
  refine ⟨fun hx => ?_⟩
  rw [hx] at hc he
  exact ⟨h.counted _ (hc _ List.mem_cons_self), h.told _ (he _ List.mem_cons_self)⟩

/-- A Hall state of no sector, or one that the 40 ns limit rejects in ACQ (R155, R169). -/
theorem hallIllegal_run {n : Fin 4} {c : Bool} {es : List Fld} {z : Orrery} {s t : State} (h : OryRun n (earlyCount n c) es z s t) (x : OryStamp) :
    ∃ l b, OryRun n (F.ORYn_ERRCNT2_ILLEGAL n :: earlyCount n c) (F.ORYn_EVT_ILLEGAL_S n :: es) { z with suspect := true, faults := l, bcs := b } s
      ((t.oIllegal n x).oPush n x.due false false) := by
  obtain ⟨l, h1⟩ := h.oIllegal (not_early (illegal_ne_early n) c) x
  exact ⟨l, _, h1.oPush x.due false false⟩

/-- An illegal change to a legal state: the position follows it (R169). -/
theorem oHallPlace_run {n : Fin 4} {c : Bool} {es : List Fld} {z : Orrery} {s t : State} (h : OryRun n (earlyCount n c) es z s t) (x : OryStamp) (k : Nat) :
    ∃ cs' es' z', OryRun n cs' es' z' s (t.oHallPlace n x k) ∧ (∀ f ∈ earlyCount n c, f ∈ cs') ∧ (∀ f ∈ es, f ∈ es') ∧ z'.lvl = z.lvl := by
  unfold State.oHallPlace
  dsimp only
  generalize t.oShift n (t.oBase n t.ory[n].cyc t.ory[n].pos 0) k 0 = q
  obtain ⟨d, after, cyc⟩ := q
  dsimp only
  obtain ⟨l, h1⟩ := (h.modOry (fun o => { o with pos := k, cyc := cyc, hist := match o.hist with | e :: h => { e with base := after } :: h | [] => [] })).oIllegal
    (not_early (illegal_ne_early n) c) x
  split
  · exact ⟨_, _, _, h1, fun f hf => List.mem_cons_of_mem _ hf, fun f hf => List.mem_cons_of_mem _ hf, rfl⟩
  · have hn : F.ORYn_ERRCNT_RESYNC n ∉ F.ORYn_ERRCNT2_ILLEGAL n :: earlyCount n c := by
      rw [List.mem_cons, not_or]
      exact ⟨resync_ne_illegal n, not_early (resync_ne_early n) c⟩
    have h2 := (h1.oResync hn 4 x.t (x.fl t.ory[n].back) d (stepShift d t.ory[n].pos k 6) (t.oBase n t.ory[n].cyc t.ory[n].pos 0) after).modOry (fun o => { o with suspect := true })
    exact ⟨_, _, _, h2, fun f hf => List.mem_cons_of_mem _ (List.mem_cons_of_mem _ hf), fun f hf => List.mem_cons_of_mem _ hf, rfl⟩

/-- The last broadcast begun carries what the Orrery now holds. -/
def Orrery.amended (x : Orrery) : Orrery :=
  { x with bcs := match x.bcs.getLast? with | some b => x.bcs.dropLast ++ [{ b with view := { x.view with resync := b.view.resync } }] | none => [] }

theorem OryRun.oAmend {n : Fin 4} {cs es : List Fld} {z : Orrery} {s t : State} (h : OryRun n cs es z s t) : OryRun n cs es z.amended s (t.oAmend n) := h.modOry Orrery.amended

/-- A legal change to a neighbouring sector (R169). -/
theorem hallStep_run {n : Fin 4} {cs es : List Fld} {z : Orrery} {s t : State} (h : OryRun n cs es z s t) (x : OryStamp) (back : Bool) (c : Prop) [Decidable c] (span : Nat) :
    ∃ e l w, e.t = x.t ∧ e.back = back ∧ OryRun n cs es w s
      (let s4 := ((t.oMove n 1 back).modOry n (fun o => { o with suspect := false })).oEdge n x back 1 span 6 1 false
       if c then (s4.oSync n .full 0 x.t (x.fl back)).oAmend n else s4) ∧
      w.lvl = z.lvl ∧ w.pos = (z.moved (s.oSteps n) 1 back).pos ∧ w.back = back ∧ w.suspect = false ∧ w.hist = ((e :: z.hist).take 8) ∧ w.sync = (if c then .full else z.sync) ∧ w.ivals = l := by
  obtain ⟨e, l, he1, he2, -, h1⟩ := ((h.oMove 1 back).modOry (fun o => { o with suspect := false })).oEdge x back 1 span 6 1 false
  dsimp only
  split
  · exact ⟨e, l, _, he1, he2, (h1.oSync .full 0 x.t (x.fl back)).oAmend, rfl, rfl, he2, rfl, rfl, rfl, rfl⟩
  · exact ⟨e, l, _, he1, he2, h1, rfl, rfl, he2, rfl, rfl, rfl, rfl⟩

/-- No change, or none that a stamper sees. -/
theorem oHall_unseen {s : State} {n : Fin 4} {lvl : BitVec 3} {mk : Fin 3 → OryStamp} (h : lvl = s.ory[n].lvl ∨ (s.oTakeLvl n s.ory[n].lvl lvl mk).2.2 = none) :
    s.oHall n lvl mk = s := by
  unfold State.oHall
  dsimp only
  split
  · next hc =>
    have hn := h.resolve_left hc.2.2
    generalize s.oTakeLvl n s.ory[n].lvl lvl mk = r at hn
    obtain ⟨a, b, c⟩ := r
    dsimp only at hn
    subst hn
    rfl
  · rfl

/-- What a change that is seen does, by the sectors before and behind it (R155, R169). -/
def hallDone (s u : State) (n : Fin 4) (l : BitVec 3) (x : OryStamp) : State :=
  match hallSector l.toNat with
  | none => (u.oIllegal n x).oPush n x.due false false
  | some k =>
    let bwd : Bool := hallSector s.ory[n].lvl.toNat = some ((k + 1) % 6)
    if !s.oClose n x && (decide (hallSector s.ory[n].lvl.toNat = some ((k + 5) % 6)) || bwd) && (s.ory[n].sync = .rel || s.ory[n].sync = .full) then
      let s4 := ((u.oMove n 1 bwd).modOry n (fun o => { o with suspect := false })).oEdge n x bwd 1 (s.oWheelSpan n) 6 1 false
      if s.ory[n].sync = .rel then (s4.oSync n .full 0 x.t (x.fl bwd)).oAmend n else s4
    else if s.ory[n].sync = .acq then
      if s.oClose n x then (u.oIllegal n x).oPush n x.due false false
      else ((u.modOry n (fun o => { o with pos := k, hist := [hallCentre k x.t o.back] })).oSync n .rel 0 x.t (x.fl s.ory[n].back)).oPush n x.due false false
    else (u.oHallPlace n x k).oPush n x.due false ((u.oHallPlace n x k).ory[n].pos != s.ory[n].pos)

theorem oHall_seen {s : State} {n : Fin 4} {lvl : BitVec 3} {mk : Fin 3 → OryStamp} (ht : s.oType n = 1) (hs : s.ory[n].sync ≠ .off) (hl : lvl ≠ s.ory[n].lvl) {x : OryStamp}
    (hr : (s.oTakeLvl n s.ory[n].lvl lvl mk).2.2 = some x) :
    s.oHall n lvl mk = hallDone s (hallTaken s (s.oTakeLvl n s.ory[n].lvl lvl mk).1 n (s.oTakeLvl n s.ory[n].lvl lvl mk).2.1 x) n (s.oTakeLvl n s.ory[n].lvl lvl mk).2.1 x := by
  unfold State.oHall
  dsimp only
  rw [if_pos ⟨ht, hs, hl⟩]
  generalize s.oTakeLvl n s.ory[n].lvl lvl mk = r at hr
  obtain ⟨a, b, c⟩ := r
  dsimp only at hr
  subst hr
  unfold hallDone
  dsimp only
  rw [show (if s.oClose n x = true then (a.modOry n (fun o => { o with lvl := b })).oEarlyCnt n else (a.modOry n (fun o => { o with lvl := b })).oAccepted n x) =
      hallTaken s a n b x from rfl] <;> (generalize hallTaken s a n b x = u; cases hallSector b.toNat <;> rfl)

end Sys2Proof.Machine
end

section
set_option Elab.async false
namespace Sys2Proof
open Sys2Proof.Machine

theorem exec_hallChange {s : State} (h : oryTakes s) (n : Fin 4) (lvl : BitVec 3) (pos : Fin 64) :
    exec (.hallChange n lvl pos) s = .next (s.oHall n (s.oSeenLvl n s.ory[n].lvl lvl) (fun i => s.oStamp n i pos)) :=
  oryEvent_open h (fun s => s.oHall n (s.oSeenLvl n s.ory[n].lvl lvl) (fun i => s.oStamp n i pos))

/-- What a Hall change that is seen shows (R155, R169). -/
theorem hallDone_shows {s u : State} {n : Fin 4} {l : BitVec 3} {x : OryStamp} {y : Orrery} (ht : s.oType n = 1)
    (h : OryRun n (earlyCount n (s.oClose n x)) (earlyEvent n (s.oClose n x)) y s u)
    (hl : y.lvl = l) (hp : y.pos = s.ory[n].pos) (hh : y.hist = s.ory[n].hist) (hy : y.sync = s.ory[n].sync) :
    let o := s.ory[n]
    let t := hallDone s u n l x
    t.ory[n].lvl = l ∧
      (s.oClose n x = true → countedOne s t (F.ORYn_ERRCNT_EARLY n) ∧ t.ron (F.ORYn_EVT_EARLY_S n) = true) ∧
      (hallSector l.toNat = none → t.ory[n].suspect = true ∧ countedOne s t (F.ORYn_ERRCNT2_ILLEGAL n) ∧
        t.ron (F.ORYn_EVT_ILLEGAL_S n) = true ∧ t.ory[n].pos = o.pos ∧ t.ory[n].hist = o.hist) ∧
      (∀ k, hallSector l.toNat = some k → o.sync = .acq →
        (s.oClose n x = true → t.ory[n].sync = .acq ∧ t.ory[n].suspect = true ∧ countedOne s t (F.ORYn_ERRCNT2_ILLEGAL n)) ∧
        (s.oClose n x = false → t.ory[n].sync = .rel ∧ t.ory[n].pos = k)) ∧
      (∀ k, hallSector l.toNat = some k → s.oClose n x = false → o.sync = .rel ∨ o.sync = .full →
        (hallSector o.lvl.toNat = some ((k + 5) % 6) → t.ory[n].pos = (o.pos + 1) % 6 ∧ t.ory[n].back = false ∧ t.ory[n].suspect = false ∧
          t.ory[n].sync = .full ∧ ∃ y, t.ory[n].hist = (y :: o.hist).take 8 ∧ y.t = x.t ∧ y.back = false) ∧
        (hallSector o.lvl.toNat = some ((k + 1) % 6) → t.ory[n].pos = (o.pos + 5) % 6 ∧ t.ory[n].back = true ∧ t.ory[n].sync = .full)) := by
  intro o t
  have hsteps : s.oSteps n = 6 := by unfold State.oSteps; simp only [ht]
  show (hallDone s u n l x).ory[n].lvl = l ∧ (_ → countedOne s (hallDone s u n l x) _ ∧ (hallDone s u n l x).ron _ = _) ∧
    (_ → (hallDone s u n l x).ory[n].suspect = _ ∧ countedOne s (hallDone s u n l x) _ ∧ (hallDone s u n l x).ron _ = _ ∧ (hallDone s u n l x).ory[n].pos = _ ∧ (hallDone s u n l x).ory[n].hist = _) ∧
    (∀ k, _ → _ → (_ → (hallDone s u n l x).ory[n].sync = _ ∧ (hallDone s u n l x).ory[n].suspect = _ ∧ countedOne s (hallDone s u n l x) _) ∧
      (_ → (hallDone s u n l x).ory[n].sync = _ ∧ (hallDone s u n l x).ory[n].pos = k)) ∧
    (∀ k, _ → _ → _ → (_ → (hallDone s u n l x).ory[n].pos = _ ∧ (hallDone s u n l x).ory[n].back = _ ∧ (hallDone s u n l x).ory[n].suspect = _ ∧ (hallDone s u n l x).ory[n].sync = _ ∧
      ∃ y : OryEdge, (hallDone s u n l x).ory[n].hist = _ ∧ y.t = _ ∧ y.back = _) ∧
      (_ → (hallDone s u n l x).ory[n].pos = _ ∧ (hallDone s u n l x).ory[n].back = _ ∧ (hallDone s u n l x).ory[n].sync = _))
  unfold hallDone
  cases hk : hallSector l.toNat with
  | none =>
    dsimp only
    obtain ⟨f, b, h1⟩ := hallIllegal_run h x
    rw [h1.self]
    exact ⟨hl, (h1.early (fun _ hf => List.mem_cons_of_mem _ hf) (fun _ hf => List.mem_cons_of_mem _ hf)).early,
      fun _ => ⟨rfl, h1.counted _ List.mem_cons_self, h1.told _ List.mem_cons_self, hp, hh⟩, nofun, nofun⟩
  | some k =>
    dsimp only
    have hk' : ∀ j, some k = some j → k = j := fun j hj => Option.some.inj hj
    by_cases hstep : (!s.oClose n x && (decide (hallSector s.ory[n].lvl.toNat = some ((k + 5) % 6)) || decide (hallSector s.ory[n].lvl.toNat = some ((k + 1) % 6))) &&
        (decide (s.ory[n].sync = .rel) || decide (s.ory[n].sync = .full))) = true
    · rw [if_pos hstep]
      simp only [Bool.and_eq_true, Bool.not_eq_true', Bool.or_eq_true, decide_eq_true_eq] at hstep
      obtain ⟨⟨hc, hadj⟩, hsy⟩ := hstep
      obtain ⟨e, iv, w, he1, he2, h1, w1, w2, w3, w4, w5, w6, -⟩ := hallStep_run h x (decide (hallSector s.ory[n].lvl.toNat = some ((k + 1) % 6))) (s.ory[n].sync = .rel) (s.oWheelSpan n)
      dsimp only at h1
      rw [h1.self]
      have hfull : w.sync = .full := by
        rw [w6, hy]
        rcases hsy with hr | hr
        · rw [if_pos hr]
        · rw [if_neg (by rw [hr]; decide), hr]
      refine ⟨w1.trans hl, fun hx => absurd (hx.symm.trans hc) (by decide), nofun, fun j _ ha => ?_, fun j hj _ _ => ⟨fun hf => ?_, fun hb => ?_⟩⟩
      · rcases hsy with hr | hr <;> exact absurd (ha.symm.trans hr) (by decide)
      · obtain rfl := hk' j hj
        have hb : decide (hallSector s.ory[n].lvl.toNat = some ((k + 1) % 6)) = false := by
          rw [decide_eq_false_iff_not]
          intro hx
          have := Option.some.inj (hf.symm.trans hx)
          omega
        rw [hb] at w2 w3 he2
        refine ⟨w2.trans ?_, w3, w4, hfull, e, by rw [w5, hh], he1, he2⟩
        rw [hsteps]
        show (y.pos + 1) % 6 = _
        rw [hp]
      · obtain rfl := hk' j hj
        rw [decide_eq_true hb] at w2 w3
        refine ⟨w2.trans ?_, w3, hfull⟩
        rw [hsteps]
        show (y.pos + 6 * (1 / 6 + 1) - 1) % 6 = _
        rw [hp]
        show _ = (s.ory[n].pos + 5) % 6
        omega
    · rw [if_neg hstep]
      have hno : ∀ j, k = j → s.oClose n x = false → s.ory[n].sync = .rel ∨ s.ory[n].sync = .full →
          ¬ hallSector s.ory[n].lvl.toNat = some ((j + 5) % 6) ∧ ¬ hallSector s.ory[n].lvl.toNat = some ((j + 1) % 6) := fun j hj hc hsy => by
        subst hj
        have hcc : (!s.oClose n x) = true := by rw [hc]; rfl
        have hss : (decide (s.ory[n].sync = .rel) || decide (s.ory[n].sync = .full)) = true := by
          rcases hsy with hr | hr
          · rw [decide_eq_true hr, Bool.true_or]
          · rw [decide_eq_true hr, Bool.or_true]
        exact ⟨fun hx => hstep (by rw [hcc, decide_eq_true hx, hss, Bool.true_or]; rfl), fun hx => hstep (by rw [hcc, decide_eq_true hx, hss, Bool.or_true]; rfl)⟩
      by_cases ha : s.ory[n].sync = .acq
      · rw [if_pos ha]
        by_cases hc : s.oClose n x = true
        · rw [if_pos hc]
          obtain ⟨f, b, h1⟩ := hallIllegal_run h x
          rw [h1.self]
          exact ⟨hl, (h1.early (fun _ hf => List.mem_cons_of_mem _ hf) (fun _ hf => List.mem_cons_of_mem _ hf)).early, nofun,
            fun j _ _ => ⟨fun _ => ⟨hy.trans ha, rfl, h1.counted _ List.mem_cons_self⟩, fun hx => absurd (hc.symm.trans hx) (by decide)⟩,
            fun j _ hx => absurd (hc.symm.trans hx) (by decide)⟩
        · rw [if_neg hc]
          have h1 := ((h.modOry (fun o => { o with pos := k, hist := [hallCentre k x.t o.back] })).oSync .rel 0 x.t (x.fl s.ory[n].back)).oPush x.due false false
          rw [h1.self]
          refine ⟨hl, (h1.early (fun _ hf => hf) (fun _ hf => hf)).early, nofun, fun j hj _ => ⟨fun hx => absurd hx hc, fun _ => ⟨rfl, hk' j hj⟩⟩, fun j _ _ hsy => ?_⟩
          rcases hsy with hr | hr <;> exact absurd (ha.symm.trans hr) (by decide)
      · rw [if_neg ha]
        obtain ⟨cs', es', z', h1, hcs, hes, hz⟩ := oHallPlace_run h x k
        have h2 := h1.oPush x.due false ((u.oHallPlace n x k).ory[n].pos != s.ory[n].pos)
        rw [h2.self]
        refine ⟨hz.trans hl, (h2.early hcs hes).early, nofun, fun j _ hx => absurd hx ha, fun j hj hc hsy => ?_⟩
        obtain ⟨n1, n2⟩ := hno j (hk' j hj) hc hsy
        exact ⟨fun hx => absurd hx n1, fun hx => absurd hx n2⟩

theorem hallChanges_holds : hallChanges := by
  intro n pos lvl s h ht hs
  have hrun := exec_hallChange h n lvl pos
  refine ⟨fun hi => oSeenLvl_on hi _ _, fun hn => ?_, fun i hg hd => ?_, fun x hg hx => ?_⟩
  · rw [hrun, oHall_unseen hn]
  · rw [hg]
    have := oTakeLvl_one (s := s) (n := n) (cur := s.ory[n].lvl) (mk := fun i => s.oStamp n i pos) (i := i) hd
    exact ⟨congrArg Prod.fst this, congrArg Prod.snd this⟩
  · rw [oHall_seen ht hs hg hx] at hrun
    obtain ⟨a, b, c, h1⟩ := hallTaken_run (oTakeLvl_stamped s n s.ory[n].lvl (s.oSeenLvl n s.ory[n].lvl lvl) (fun i => s.oStamp n i pos))
      (s.oTakeLvl n s.ory[n].lvl (s.oSeenLvl n s.ory[n].lvl lvl) (fun i => s.oStamp n i pos)).2.1 x
    exact ⟨_, hrun, hallDone_shows ht h1 rfl rfl rfl rfl⟩

end Sys2Proof
end

section
/-!
SUPPORT. Quadrature transitions (R155, R170, R171).
-/
set_option Elab.async false
namespace Sys2Proof.Machine
open Sys2Proof

theorem oQuadLvl_none {s : State} {n : Fin 4} (h : s.ory[n].qwait = none) : s.oQuadLvl n = s.ory[n].lvl := by
  unfold State.oQuadLvl
  rw [h]

theorem oQuadLvl_some {s : State} {n : Fin 4} {w : QuadEdge} (h : s.ory[n].qwait = some w) : s.oQuadLvl n = w.lvl := by
  unfold State.oQuadLvl
  rw [h]

/-- No change, or none that a stamper sees. -/
theorem oQuad_unseen {s : State} {n : Fin 4} {lvl : BitVec 3} {mk : Fin 3 → OryStamp} (h : lvl = s.oQuadLvl n ∨ (s.oTakeLvl n (s.oQuadLvl n) lvl mk).2.2 = none) :
    s.oQuad n lvl mk = s := by
  unfold State.oQuad
  dsimp only
  split
  · next hc =>
    have hn := h.resolve_left hc.2.2
    generalize s.oTakeLvl n (s.oQuadLvl n) lvl mk = r at hn
    obtain ⟨a, b, c⟩ := r
    dsimp only at hn
    subst hn
    rfl
  · rfl

/-- A transition at a decoder at which none waits, and at one at which w waits. -/
theorem oQuad_seen {s : State} {n : Fin 4} {lvl : BitVec 3} {mk : Fin 3 → OryStamp} (ht : s.oType n = 2) (hs : s.ory[n].sync ≠ .off) (hl : lvl ≠ s.oQuadLvl n) {x : OryStamp}
    (hr : (s.oTakeLvl n (s.oQuadLvl n) lvl mk).2.2 = some x) :
    let s0 := (s.oTakeLvl n (s.oQuadLvl n) lvl mk).1
    let l := (s.oTakeLvl n (s.oQuadLvl n) lvl mk).2.1
    (s.ory[n].qwait = none → s.oQuad n lvl mk = s0.oQuadArrive n l x) ∧
    ∀ w, s.ory[n].qwait = some w → s.oQuad n lvl mk =
      if (l ^^^ w.lvl).toNat % 4 = 0 then s0.oQuadIdx n l w x
      else if ((x.t : Int) - w.x.t).natAbs < 128 ∧ (l ^^^ s.ory[n].lvl).toNat % 4 = 3 then s0.oQuadIllegal n l w.x w.early
      else (s0.oQuadSettle n).oQuadArrive n l x := by
  unfold State.oQuad
  dsimp only
  rw [if_pos ⟨ht, hs, hl⟩]
  generalize s.oTakeLvl n (s.oQuadLvl n) lvl mk = r at hr
  obtain ⟨a, b, c⟩ := r
  dsimp only at hr
  subst hr
  dsimp only
  constructor
  · intro hq
    rw [hq]
  · intro w hq
    rw [hq]

theorem quadPlace_same : ∀ a b : Fin 4, (quadPlace b.val + 4 - quadPlace a.val) % 4 = 0 → a = b := by decide

/-- No step at all leaves the state of the two lines. -/
theorem quad_still {l k : BitVec 3} (h : (quadPlace (l.toNat % 4) + 4 - quadPlace (k.toNat % 4)) % 4 = 0) : k.toNat % 4 = l.toNat % 4 :=
  congrArg Fin.val (quadPlace_same ⟨k.toNat % 4, Nat.mod_lt _ (by decide)⟩ ⟨l.toNat % 4, Nat.mod_lt _ (by decide)⟩ h)

/-- A step of one place is a change of the two lines. -/
theorem quad_moved {l k : BitVec 3} (h : (quadPlace (l.toNat % 4) + 4 - quadPlace (k.toNat % 4)) % 4 ≠ 0) : k.toNat % 4 ≠ l.toNat % 4 := fun e => by
  rw [e] at h
  exact h (by rw [Nat.add_sub_cancel_left])

theorem OryRun.oQuadIllegal {n : Fin 4} {es : List Fld} {z : Orrery} {s t : State} (h : OryRun n [] es z s t) (l : BitVec 3) (x : OryStamp) (early : Bool) :
    ∃ f b, OryRun n (F.ORYn_ERRCNT2_ILLEGAL n :: earlyCount n early) (F.ORYn_EVT_ILLEGAL_S n :: (earlyEvent n early ++ es))
      { z with qwait := none, lvl := l, suspect := true, faults := f, bcs := b } s (t.oQuadIllegal n l x early) := by
  have h1 := h.modOry (fun o => { o with qwait := none, lvl := l })
  unfold State.oQuadIllegal
  dsimp only
  cases early with
  | true =>
    obtain ⟨f, b, h2⟩ := hallIllegal_run (c := true) (h1.oEarlyCnt List.not_mem_nil) x
    exact ⟨f, b, h2⟩
  | false =>
    obtain ⟨f, b, h2⟩ := hallIllegal_run (c := false) h1 x
    exact ⟨f, b, h2⟩

theorem OryRun.oQuadEarly {n : Fin 4} {es : List Fld} {z : Orrery} {s t : State} (h : OryRun n [] es z s t) (l : BitVec 3) (x : OryStamp) :
    ∃ f b, OryRun n [F.ORYn_ERRCNT_EARLY n] (F.ORYn_EVT_EARLY_S n :: es) { z with qwait := none, lvl := l, suspect := true, faults := f, bcs := b } s (t.oQuadEarly n l x) := by
  obtain ⟨f, h1⟩ := (h.modOry (fun o => { o with qwait := none, lvl := l, suspect := true })).oEarly List.not_mem_nil x 0
  exact ⟨f, _, h1.oPush x.due false false⟩

/-- A transition that arrives, the stampers having seen it: what it leaves until it is decoded. -/
def quadTaken (s s0 : State) (n : Fin 4) (x : OryStamp) : State := if s.oClose n x then s0 else s0.oAccepted n x

theorem quadTaken_run {s s0 : State} {n : Fin 4} (h : Stamped n s s0) (x : OryStamp) :
    ∃ a b c, OryRun n [] [] { s.ory[n] with stamp := a, marks := b, lastAcc := c } s (quadTaken s s0 n x) ∧ (quadTaken s s0 n x).regs = s.regs := by
  obtain ⟨a, b, h1, hr⟩ := h
  unfold quadTaken
  split
  · exact ⟨a, b, _, h1, hr⟩
  · exact ⟨a, b, _, h1.oAccepted x, hr⟩

theorem oQuadArrive_eq {s s0 : State} {n : Fin 4} (h : Stamped n s s0) (l : BitVec 3) (x : OryStamp) :
    s0.oQuadArrive n l x =
      if (quadPlace (l.toNat % 4) + 4 - quadPlace (s.ory[n].lvl.toNat % 4)) % 4 = 2 then (quadTaken s s0 n x).oQuadIllegal n l x (s.oClose n x)
      else if s.ory[n].lvl.toNat % 4 = l.toNat % 4 then
        (if s.oClose n x then (quadTaken s s0 n x).oQuadEarly n l x else (quadTaken s s0 n x).modOry n (fun o => { o with lvl := l }))
      else (quadTaken s s0 n x).modOry n (fun o => { o with qwait := some ⟨l, s.oZ n l, x, s.oClose n x⟩ }) := by
  obtain ⟨a, b, h1, hr⟩ := h
  have hl : s0.ory[n].lvl = s.ory[n].lvl := by rw [h1.self]
  have hc : s0.oClose n x = s.oClose n x := h1.oClose rfl x
  have hz : s0.oZ n l = s.oZ n l := by
    have hg : ∀ f, s0.rget f = s.rget f := fun f => rget_of_regs hr f
    unfold State.oZ State.oInput State.ron
    simp only [hg]
  unfold State.oQuadArrive
  dsimp only
  rw [hl, hc, hz]
  rfl

/-- An edge of Z while a transition waits (R155, R171). -/
theorem oQuadIdx_run {s s0 : State} {n : Fin 4} (h : Stamped n s s0) (l : BitVec 3) (w : QuadEdge) (x : OryStamp) :
    ∃ z : Orrery, z.qwait = some { w with lvl := l } ∧ z.pos = s.ory[n].pos ∧ z.sync = s.ory[n].sync ∧ z.hist = s.ory[n].hist ∧
      (s.oClose n x = true → OryRun n [F.ORYn_ERRCNT_EARLY n] [F.ORYn_EVT_EARLY_S n] z s (s0.oQuadIdx n l w x) ∧ z.suspect = true) ∧
      (s.oClose n x = false → OryRun n [] [] z s (s0.oQuadIdx n l w x) ∧ (s0.oQuadIdx n l w x).regs = s.regs) := by
  obtain ⟨a, b, h1, hr⟩ := h
  have hc : s0.oClose n x = s.oClose n x := h1.oClose rfl x
  have h2 := h1.modOry (fun o => { o with qwait := some { w with lvl := l } })
  unfold State.oQuadIdx
  dsimp only
  rw [hc]
  by_cases hx : s.oClose n x = true
  · rw [if_pos hx]
    obtain ⟨f, h3⟩ := (h2.modOry (fun o => { o with suspect := true })).oEarly List.not_mem_nil x 0
    have h4 := h3.oPush x.due false false
    refine ⟨_, ?_, ?_, ?_, ?_, fun _ => ⟨h4, ?_⟩, fun hn => absurd (hx.symm.trans hn) (by decide)⟩
    all_goals rfl
  · rw [if_neg hx]
    have h3 := h2.oAccepted x
    refine ⟨_, ?_, ?_, ?_, ?_, fun hn => absurd hn hx, fun _ => ⟨h3, hr⟩⟩
    all_goals rfl

/-- A transition that has stayed alone (R155, R170). -/
theorem oQuadSettle_early {s : State} {n : Fin 4} {w : QuadEdge} (hq : s.ory[n].qwait = some w) (he : w.early = true) : s.oQuadSettle n = s.oQuadEarly n w.lvl w.x := by
  unfold State.oQuadSettle
  rw [hq]
  dsimp only
  rw [if_pos he]

/-- One that counts: a step of the count, on which no index boundary lies. -/
theorem oQuadSettle_counts {s : State} {n : Fin 4} {w : QuadEdge} (hq : s.ory[n].qwait = some w) (he : w.early = false) (hz : w.z = false) :
    ∃ e l, e.back = decide ((quadPlace (w.lvl.toNat % 4) + 4 - quadPlace (s.ory[n].lvl.toNat % 4)) % 4 = 3) ∧
      OryRun n [] [] ((({ s.ory[n] with qwait := none, lvl := w.lvl } : Orrery).moved (s.oSteps n) 1
        (decide ((quadPlace (w.lvl.toNat % 4) + 4 - quadPlace (s.ory[n].lvl.toNat % 4)) % 4 = 3))).edged e l w.x.due false) s (s.oQuadSettle n) := by
  unfold State.oQuadSettle
  rw [hq]
  dsimp only
  rw [if_neg (by rw [he]; decide), hz]
  generalize decide ((quadPlace (w.lvl.toNat % 4) + 4 - quadPlace (s.ory[n].lvl.toNat % 4)) % 4 = 3) = back
  have h1 := (OryRun.refl n s).modOry (fun o => { o with qwait := none, lvl := w.lvl })
  unfold State.oQuadStep
  dsimp only
  rw [Bool.false_and, if_neg (by decide)]
  obtain ⟨e, l, -, he2, -, h2⟩ := (h1.oMove 1 back).oEdge w.x back 1
    ((s.modOry n (fun o => { o with qwait := none, lvl := w.lvl })).oWheelSpan n)
    ((s.modOry n (fun o => { o with qwait := none, lvl := w.lvl })).oSteps n) 1 false
  exact ⟨e, l, he2, h2⟩

/-! ### The index boundary -/

/-- An Orrery placed at an index boundary (R171, R174). -/
def Orrery.indexed (x : Orrery) (pos0 cyc : Nat) (off : Int) (back : Bool) : Orrery :=
  { x with pos := pos0, cyc := cyc, suspect := false, idxNet := some (-off, back) }

section
variable {n : Fin 4} {es : List Fld} {x : Orrery} {s t : State} (h : OryRun n [] es x s t) (tm fl : Nat) (back : Bool) (L pos0 : Nat) (off : Int)
include h

/-- The first boundary after acquisition makes the Orrery FULL, with a resync. -/
theorem oIndex_rel (hr : x.sync = .rel) :
    ∃ c, OryRun n [F.ORYn_ERRCNT_RESYNC n] es ({ x.indexed pos0 c off back with suspect := false }.synced .full) s (t.oIndex n tm fl back L pos0 off).1 := by
  have hs : t.ory[n].sync = .rel := by rw [h.self, hr]
  unfold State.oIndex
  dsimp only
  generalize t.oShift n (t.oBase n t.ory[n].cyc t.ory[n].pos t.ory[n].phi) pos0 t.ory[n].phi = q
  obtain ⟨d, after, cyc⟩ := q
  dsimp only
  rw [if_pos hs]
  have h1 := ((h.modOry (fun o => { o with pos := pos0, cyc := cyc, suspect := false, idxNet := some (-off, back) })).oResync List.not_mem_nil 3 tm fl d (stepShift d t.ory[n].pos pos0 L)
    (t.oBase n t.ory[n].cyc t.ory[n].pos t.ory[n].phi) after).oSync .full 0 tm fl
  exact ⟨cyc, h1⟩

/-- One without a boundary before it places the Orrery. -/
theorem oIndex_first (hr : x.sync ≠ .rel) (hi : x.idxNet = none) : ∃ c, OryRun n [] es (x.indexed pos0 c off back) s (t.oIndex n tm fl back L pos0 off).1 := by
  have hs : ¬ t.ory[n].sync = .rel := by rw [h.self]; exact hr
  have hn : t.ory[n].idxNet = none := by rw [h.self]; exact hi
  unfold State.oIndex
  dsimp only
  generalize t.oShift n (t.oBase n t.ory[n].cyc t.ory[n].pos t.ory[n].phi) pos0 t.ory[n].phi = q
  obtain ⟨d, after, cyc⟩ := q
  dsimp only
  rw [if_neg hs, hn]
  have h1 := h.modOry (fun o => { o with pos := pos0, cyc := cyc, suspect := false, idxNet := some (-off, back) })
  exact ⟨cyc, h1⟩

/-- A boundary leaves the levels, the transition that waits, and the phase. -/
theorem oIndex_levels : ∃ cs es' z, OryRun n cs es' z s (t.oIndex n tm fl back L pos0 off).1 ∧ z.lvl = x.lvl ∧ z.qwait = x.qwait ∧ z.phi = x.phi := by
  by_cases hr : x.sync = .rel
  · obtain ⟨c, h1⟩ := oIndex_rel h tm fl back L pos0 off hr
    exact ⟨_, _, _, h1, rfl, rfl, rfl⟩
  · cases hi : x.idxNet with
    | none =>
      obtain ⟨c, h1⟩ := oIndex_first h tm fl back L pos0 off hr hi
      exact ⟨_, _, _, h1, rfl, rfl, rfl⟩
    | some i =>
      have hs : ¬ t.ory[n].sync = .rel := by rw [h.self]; exact hr
      have hn : t.ory[n].idxNet = some i := by rw [h.self]; exact hi
      unfold State.oIndex
      dsimp only
      generalize t.oShift n (t.oBase n t.ory[n].cyc t.ory[n].pos t.ory[n].phi) pos0 t.ory[n].phi = q
      obtain ⟨d, after, cyc⟩ := q
      obtain ⟨net0, prev⟩ := i
      dsimp only
      rw [if_neg hs, hn]
      dsimp only
      generalize (if back = prev then if back then -(L : Int) else (L : Int) else 0) = want
      split
      · have h1 := h.modOry (fun o => { o with pos := pos0, cyc := cyc, suspect := false, idxNet := some (-off, back) })
        exact ⟨_, _, _, h1, rfl, rfl, rfl⟩
      · have hd : OryRun n [] es x s (t.rput (F.ORYn_IDXDIFF_DIFF n) (iword (net0 + off - want)).toNat) := by
          refine h.silent (h.frame.rput _ (by simp [oryReports, F.ORYn_IDXDIFF_DIFF])) (fun o ho => reg_rput_ne _ _ ?_)
          simp only [List.mem_cons, List.not_mem_nil, or_false, R.ORYn_EVT, R.ORYn_ERRCNT, R.ORYn_ERRCNT2] at ho
          show o ≠ R.ORYn_IDXDIFF n
          unfold R.ORYn_IDXDIFF
          omega
        obtain ⟨l, h1⟩ := ((hd.count (f := F.ORYn_ERRCNT2_INDEX n) (by simp [oryCounts]) List.not_mem_nil).evt (f := F.ORYn_EVT_INDEX_S n) (by simp [oryEvents])).oFault 6 tm fl (iword (net0 + off - want))
        have hne : F.ORYn_ERRCNT_RESYNC n ∉ [F.ORYn_ERRCNT2_INDEX n] := fun hx => by
          have := congrArg Fld.lo (List.mem_singleton.1 hx)
          simp [F.ORYn_ERRCNT_RESYNC, F.ORYn_ERRCNT2_INDEX] at this
        have h2 := (h1.modOry (fun o => { o with pos := pos0, cyc := cyc, suspect := false, idxNet := some (-off, back) })).oResync hne 3 tm fl d (stepShift d t.ory[n].pos pos0 L)
          (t.oBase n t.ory[n].cyc t.ory[n].pos t.ory[n].phi) after
        exact ⟨_, _, _, h2, rfl, rfl, rfl⟩

end

/-- Whatever it counts, a transition that is decoded has its levels taken, and waits no more. -/
theorem oQuadSettle_levels {s : State} {n : Fin 4} {w : QuadEdge} (hq : s.ory[n].qwait = some w) : (s.oQuadSettle n).ory[n].lvl = w.lvl ∧ (s.oQuadSettle n).ory[n].qwait = none := by
  by_cases he : w.early = true
  · obtain ⟨f, b, h1⟩ := (OryRun.refl n s).oQuadEarly w.lvl w.x
    rw [oQuadSettle_early hq he, h1.self]
    exact ⟨rfl, rfl⟩
  · obtain ⟨u, back, hu, hset⟩ : ∃ u back, u = s.modOry n (fun o => { o with qwait := none, lvl := w.lvl }) ∧
        s.oQuadSettle n = u.oQuadStep n (s.ory[n].lvl.toNat % 4) (w.lvl.toNat % 4) w.z back w.x := by
      unfold State.oQuadSettle
      rw [hq]
      dsimp only
      rw [if_neg he]
      exact ⟨_, _, rfl, rfl⟩
    have h1 := (OryRun.refl n s).modOry (fun o => { o with qwait := none, lvl := w.lvl })
    rw [← hu] at h1
    have h2 := h1.oMove 1 back
    obtain ⟨cs, es, z, h3, h4, h5, -⟩ := oIndex_levels h2 w.x.t (w.x.fl back) back (u.oSteps n) 0 (b2n back)
    rw [hset]
    unfold State.oQuadStep
    dsimp only
    generalize (w.z && (if back = true then s.ory[n].lvl.toNat % 4 else w.lvl.toNat % 4) == u.rget (F.ORYn_LINES_IDXQ n)) = crossing
    cases crossing with
    | true =>
      rw [if_pos rfl]
      obtain ⟨e, l, -, -, -, h6⟩ := h3.oEdge w.x back 1 (u.oWheelSpan n) (u.oSteps n) 1 ((u.oMove n 1 back).oIndex n w.x.t (w.x.fl back) back (u.oSteps n) 0 (b2n back)).2
      rw [h6.self]
      exact ⟨h4, h5⟩
    | false =>
      rw [if_neg (by decide)]
      obtain ⟨e, l, -, -, -, h6⟩ := h2.oEdge w.x back 1 (u.oWheelSpan n) (u.oSteps n) 1 false
      rw [h6.self]
      exact ⟨rfl, rfl⟩

end Sys2Proof.Machine
end

section
set_option Elab.async false
namespace Sys2Proof
open Sys2Proof.Machine

theorem exec_quadTransition {s : State} (h : oryTakes s) (n : Fin 4) (lvl : BitVec 3) (pos : Fin 64) :
    exec (.quadTransition n lvl pos) s = .next (s.oQuad n (s.oSeenLvl n (s.oQuadLvl n) lvl) (fun i => s.oStamp n i pos)) :=
  oryEvent_open h (fun s => s.oQuad n (s.oSeenLvl n (s.oQuadLvl n) lvl) (fun i => s.oStamp n i pos))

/-- An illegal transition has taken the levels l. -/
def quadIllegal (s t : State) (n : Fin 4) (l : BitVec 3) : Prop :=
  t.ory[n].lvl = l ∧ t.ory[n].qwait = none ∧ t.ory[n].suspect = true ∧ countedOne s t (F.ORYn_ERRCNT2_ILLEGAL n) ∧
    t.ron (F.ORYn_EVT_ILLEGAL_S n) = true ∧ t.ory[n].pos = s.ory[n].pos ∧ t.ory[n].sync = s.ory[n].sync

theorem quadIllegal_shows {s u : State} {n : Fin 4} {y : Orrery} (h : OryRun n [] [] y s u) (hp : y.pos = s.ory[n].pos) (hy : y.sync = s.ory[n].sync) (hh : y.hist = s.ory[n].hist)
    (l : BitVec 3) (x : OryStamp) (early : Bool) :
    quadIllegal s (u.oQuadIllegal n l x early) n l ∧ (u.oQuadIllegal n l x early).ory[n].hist = s.ory[n].hist ∧
      (early = true → countedOne s (u.oQuadIllegal n l x early) (F.ORYn_ERRCNT_EARLY n)) := by
  obtain ⟨f, b, h1⟩ := h.oQuadIllegal l x early
  unfold quadIllegal
  rw [h1.self]
  refine ⟨⟨rfl, rfl, rfl, h1.counted _ List.mem_cons_self, h1.told _ List.mem_cons_self, hp, hy⟩, hh, fun he => h1.counted _ ?_⟩
  rw [he]
  exact List.mem_cons_of_mem _ List.mem_cons_self

/-- A transition that arrives where none waits. -/
theorem quadArrive_shows {s s0 : State} {n : Fin 4} (h : Stamped n s s0) (hq : s.ory[n].qwait = none) (l : BitVec 3) (x : OryStamp) :
    let o := s.ory[n]
    let t := s0.oQuadArrive n l x
    let d := (quadPlace (l.toNat % 4) + 4 - quadPlace (o.lvl.toNat % 4)) % 4
    t.ory[n].pos = o.pos ∧ t.ory[n].sync = o.sync ∧ t.ory[n].hist = o.hist ∧
      (d = 2 → quadIllegal s t n l ∧ (s.oClose n x = true → countedOne s t (F.ORYn_ERRCNT_EARLY n))) ∧
      (d = 1 ∨ d = 3 → t.ory[n].lvl = o.lvl ∧ t.ory[n].qwait = some ⟨l, s.oZ n l, x, s.oClose n x⟩ ∧ ∀ a, t.reg a = s.reg a) ∧
      (d = 0 → t.ory[n].lvl = l ∧ t.ory[n].qwait = none ∧
        (s.oClose n x = true → countedOne s t (F.ORYn_ERRCNT_EARLY n) ∧ t.ron (F.ORYn_EVT_EARLY_S n) = true) ∧
        (s.oClose n x = false → ∀ a, t.reg a = s.reg a)) := by
  intro o t d
  have ht : t = s0.oQuadArrive n l x := rfl
  have hd : d = (quadPlace (l.toNat % 4) + 4 - quadPlace (s.ory[n].lvl.toNat % 4)) % 4 := rfl
  have ho : o = s.ory[n] := rfl
  clear_value t d o
  rw [oQuadArrive_eq h, ← hd] at ht
  obtain ⟨a, b, c, h1, hr⟩ := quadTaken_run h x
  generalize quadTaken s s0 n x = u at h1 hr ht
  have hreg : ∀ w : State, w.regs = u.regs → ∀ k, w.reg k = s.reg k := fun w hw k => congrArg (fun r => tblGet resetWord r k) (hw.trans hr)
  by_cases h2 : d = 2
  · rw [if_pos h2] at ht
    obtain ⟨k1, k2, k3⟩ := quadIllegal_shows h1 rfl rfl rfl l x (s.oClose n x)
    rw [← ht] at k1 k2 k3
    subst ho
    exact ⟨k1.2.2.2.2.2.1, k1.2.2.2.2.2.2, k2, fun _ => ⟨k1, k3⟩, fun hx => by omega, fun hx => by omega⟩
  · rw [if_neg h2] at ht
    by_cases h0 : s.ory[n].lvl.toNat % 4 = l.toNat % 4
    · have hd0 : d = 0 := by rw [hd, h0, Nat.add_sub_cancel_left]
      rw [if_pos h0] at ht
      by_cases hc : s.oClose n x = true
      · rw [if_pos hc] at ht
        obtain ⟨f, b', k⟩ := h1.oQuadEarly l x
        rw [← ht] at k
        subst ho
        rw [k.self]
        exact ⟨rfl, rfl, rfl, fun hx => absurd hx h2, fun hx => by omega,
          fun _ => ⟨rfl, rfl, fun _ => ⟨k.counted _ List.mem_cons_self, k.told _ List.mem_cons_self⟩, fun hx => absurd (hc.symm.trans hx) (by decide)⟩⟩
      · rw [if_neg hc] at ht
        have k := h1.modOry (fun o => { o with lvl := l })
        have hregs : t.regs = u.regs := by rw [ht]; rfl
        rw [← ht] at k
        subst ho
        rw [k.self]
        exact ⟨rfl, rfl, rfl, fun hx => absurd hx h2, fun hx => by omega, fun _ => ⟨rfl, hq, fun hx => absurd hx hc, fun _ => hreg t hregs⟩⟩
    · rw [if_neg h0] at ht
      have k := h1.modOry (fun o => { o with qwait := some ⟨l, s.oZ n l, x, s.oClose n x⟩ })
      have hregs : t.regs = u.regs := by rw [ht]; rfl
      rw [← ht] at k
      subst ho
      rw [k.self]
      exact ⟨rfl, rfl, rfl, fun hx => absurd hx h2, fun _ => ⟨rfl, rfl, hreg t hregs⟩, fun hx => absurd (quad_still (hd.symm.trans hx)) h0⟩

/-- What a transition that has stayed alone shows (R155, R170). -/
theorem quadSettle_shows {s : State} {n : Fin 4} {w : QuadEdge} (hq : s.ory[n].qwait = some w) :
    let o := s.ory[n]
    let t := s.oQuadSettle n
    let d := (quadPlace (w.lvl.toNat % 4) + 4 - quadPlace (o.lvl.toNat % 4)) % 4
    t.ory[n].lvl = w.lvl ∧ t.ory[n].qwait = none ∧
      (w.early = true → countedOne s t (F.ORYn_ERRCNT_EARLY n) ∧ t.ron (F.ORYn_EVT_EARLY_S n) = true ∧ t.ory[n].suspect = true ∧
        t.ory[n].pos = o.pos ∧ t.ory[n].hist = o.hist) ∧
      (w.early = false → w.z = false → t.ory[n].sync = o.sync ∧
        (d = 1 → t.ory[n].pos = (o.pos + 1) % s.oSteps n ∧ t.ory[n].back = false) ∧
        (d = 3 → 1 < s.oSteps n → t.ory[n].pos = (o.pos + s.oSteps n - 1) % s.oSteps n ∧ t.ory[n].back = true) ∧
        broadcasts s t n w.x.due false) := by
  intro o t d
  obtain ⟨hl, hn⟩ := oQuadSettle_levels hq
  refine ⟨hl, hn, fun he => ?_, fun he hz => ?_⟩
  · obtain ⟨f, b, k⟩ := (OryRun.refl n s).oQuadEarly w.lvl w.x
    rw [← oQuadSettle_early hq he] at k
    show countedOne s (s.oQuadSettle n) _ ∧ (s.oQuadSettle n).ron _ = _ ∧ (s.oQuadSettle n).ory[n].suspect = _ ∧ (s.oQuadSettle n).ory[n].pos = _ ∧ (s.oQuadSettle n).ory[n].hist = _
    rw [k.self]
    exact ⟨k.counted _ List.mem_cons_self, k.told _ List.mem_cons_self, rfl, rfl, rfl⟩
  · obtain ⟨e, l, he2, k⟩ := oQuadSettle_counts hq he hz
    have hd : d = (quadPlace (w.lvl.toNat % 4) + 4 - quadPlace (s.ory[n].lvl.toNat % 4)) % 4 := rfl
    clear_value d
    rw [← hd] at he2 k
    show (s.oQuadSettle n).ory[n].sync = _ ∧ (_ → (s.oQuadSettle n).ory[n].pos = _ ∧ (s.oQuadSettle n).ory[n].back = _) ∧
      (_ → _ → (s.oQuadSettle n).ory[n].pos = _ ∧ (s.oQuadSettle n).ory[n].back = _) ∧ broadcasts s (s.oQuadSettle n) n w.x.due false
    unfold broadcasts
    rw [k.self]
    refine ⟨rfl, fun h1 => ?_, fun h3 hN => ?_, rfl, rfl⟩
    · subst h1
      exact ⟨rfl, he2⟩
    · subst h3
      refine ⟨?_, he2⟩
      show (s.ory[n].pos + s.oSteps n * (1 / s.oSteps n + 1) - 1) % s.oSteps n = (s.ory[n].pos + s.oSteps n - 1) % s.oSteps n
      rw [Nat.div_eq_of_lt hN, Nat.zero_add, Nat.mul_one]

theorem quadTransitions_holds : quadTransitions := by
  intro n pos lvl s h ht hs
  have hrun := exec_quadTransition h n lvl pos
  refine ⟨fun hi => oSeenLvl_on hi _ _, fun hn => ?_, fun hq hg => ?_, fun w hq => ⟨fun hg => ⟨fun hn => ?_, fun x hx => ?_⟩, fun hd => ?_, fun h1 h2 => ?_, quadSettle_shows hq⟩⟩
  · rw [hrun, oQuad_unseen (.inl hn)]
  · have hc := oQuadLvl_none hq
    refine ⟨fun hn => ?_, fun x hx => ?_⟩
    · rw [← hc] at hn
      rw [hrun, oQuad_unseen (.inr hn)]
    · rw [← hc] at hx hg
      have h1 := (oQuad_seen ht hs hg hx).1 hq
      rw [h1] at hrun
      rw [hc] at hrun
      rw [hc] at hx
      obtain ⟨k1, k2, k3, k4, k5, k6⟩ := quadArrive_shows (oTakeLvl_stamped s n s.ory[n].lvl (s.oSeenLvl n s.ory[n].lvl lvl) (fun i => s.oStamp n i pos)) hq
        (s.oTakeLvl n s.ory[n].lvl (s.oSeenLvl n s.ory[n].lvl lvl) (fun i => s.oStamp n i pos)).2.1 x
      rw [hc]
      exact ⟨_, hrun, k1, k2, k3, k4, k5, k6⟩
  · have hc := oQuadLvl_some hq
    rw [← hc] at hn
    rw [hrun, oQuad_unseen (.inr hn)]
  · have hc := oQuadLvl_some hq
    rw [← hc] at hx hg
    have h1 := (oQuad_seen ht hs hg hx).2 w hq
    rw [h1] at hrun
    rw [hc] at hrun hx ⊢
    have hst := oTakeLvl_stamped s n w.lvl (s.oSeenLvl n w.lvl lvl) (fun i => s.oStamp n i pos)
    generalize s.oTakeLvl n w.lvl (s.oSeenLvl n w.lvl lvl) (fun i => s.oStamp n i pos) = r at hrun hx hst ⊢
    obtain ⟨s0, l, y⟩ := r
    dsimp only at hrun hst ⊢
    refine ⟨fun hz => ?_, fun hz hb => ?_, fun hz hb => ?_⟩
    · rw [if_pos hz] at hrun
      obtain ⟨z, z1, z2, z3, z4, z5, z6⟩ := oQuadIdx_run hst l w x
      have hself : (s0.oQuadIdx n l w x).ory[n] = z := by
        by_cases hcl : s.oClose n x = true
        · exact (z5 hcl).1.self
        · exact (z6 (Bool.eq_false_of_not_eq_true hcl)).1.self
      refine ⟨_, hrun, ?_⟩
      rw [hself]
      exact ⟨z1, z2, z3, z4, fun hcl => ⟨(z5 hcl).1.counted _ List.mem_cons_self, (z5 hcl).2⟩,
        fun hcl a => congrArg (fun r => tblGet resetWord r a) (z6 hcl).2⟩
    · rw [if_neg hz, if_pos hb] at hrun
      obtain ⟨a, b, h2, -⟩ := hst
      obtain ⟨k1, -, k3⟩ := quadIllegal_shows h2 rfl rfl rfl l w.x w.early
      exact ⟨_, hrun, k1, k3⟩
    · rw [if_neg hz, if_neg hb] at hrun
      exact hrun
  · unfold State.oQuadDue
    rw [hq]
    exact if_pos hd
  · unfold State.oQuadDue
    rw [hq]
    refine if_neg (fun hx => ?_)
    rcases hx with hx | hx <;> omega

end Sys2Proof
end

section
/-!
SUPPORT. Samples of a sine/cosine track (R172, R173, R176).
-/
set_option Elab.async false
namespace Sys2Proof.Machine
open Sys2Proof

/-- A sample leaves what the next ones are set against (R172). -/
structure RawKept (x z : Orrery) : Prop where
  rawS : z.rawS = x.rawS
  rawC : z.rawC = x.rawC
  ampl : z.ampl = x.ampl

/-- A sample outside the amplitude window (R172). -/
theorem oBadPair_run {n : Fin 4} {y : Orrery} {s t : State} (h : OryRun n [] [] y s t) (x : OryStamp) (a : Nat) :
    ∃ z, OryRun n [F.ORYn_ERRCNT2_SIGNAL n] [F.ORYn_EVT_SIGNAL_S n] z s (t.oBadPair n x a) ∧ RawKept y z ∧
      z.bad = (if 64 ≤ y.bad + 1 ∧ y.sync ≠ .acq then 0 else y.bad + 1) ∧
      z.sync = (if 64 ≤ y.bad + 1 ∧ y.sync ≠ .acq then .acq else y.sync) ∧
      (64 ≤ y.bad + 1 → y.sync ≠ .acq → z.hist = []) ∧
      (y.bad + 1 < 64 → z.pos = y.pos ∧ z.phi = y.phi ∧ z.hist = y.hist) := by
  unfold State.oBadPair
  dsimp only
  obtain ⟨f, h1⟩ := ((h.count (f := F.ORYn_ERRCNT2_SIGNAL n) (by simp [oryCounts]) List.not_mem_nil).tell (f := F.ORYn_EVT_SIGNAL_S n) (by simp [oryEvents])).oFault 9 x.t
    (x.fl t.ory[n].back) (word a)
  have h2 := h1.modOry (fun o => { o with bad := o.bad + 1 })
  have hb : ∀ u : State, OryRun n [F.ORYn_ERRCNT2_SIGNAL n] [F.ORYn_EVT_SIGNAL_S n] { y with faults := f, bad := y.bad + 1 } s u →
      (u.ory[n].bad ≥ 64 ∧ u.ory[n].sync ≠ .acq ↔ 64 ≤ y.bad + 1 ∧ y.sync ≠ .acq) := fun u hu => by rw [hu.self]
  generalize State.modOry _ n (fun o => { o with bad := o.bad + 1 }) = u at h2
  by_cases hc : 64 ≤ y.bad + 1 ∧ y.sync ≠ .acq
  · rw [if_pos ((hb u h2).2 hc), if_pos hc, if_pos hc]
    have h3 := ((h2.modOry oClear).oSync .acq 5 x.t (x.fl t.ory[n].back)).oPush x.due false false
    exact ⟨_, h3, ⟨rfl, rfl, rfl⟩, rfl, rfl, fun _ _ => rfl, fun hl => absurd hc.1 (by omega)⟩
  · rw [if_neg (fun hx => hc ((hb u h2).1 hx)), if_neg hc, if_neg hc]
    exact ⟨_, h2, ⟨rfl, rfl, rfl⟩, rfl, rfl, fun h1 h2 => absurd ⟨h1, h2⟩ hc, fun _ => ⟨rfl, rfl, rfl⟩⟩

/-- A good sample is the latest validated edge, which a broadcast shows (R156, R173). -/
structure Sampled (s : State) (n : Fin 4) (x : OryStamp) (phi : Nat) (y z : Orrery) : Prop where
  phase : z.phi = phi
  bad : z.bad = 0
  bcs : z.bcs = y.bcs ++ [⟨x.due, true, { z.view with resync := false }⟩]
  seen : z.seen = y.seen
  hist : ∃ e ys, z.hist = e :: ys ∧ e.t = x.t ∧ e.base = s.oBase n z.cyc z.pos phi

theorem amended_bcs {z : Orrery} {l : List OryBcast} {due : Nat} {wake : Bool} {v : OryView} (h : z.bcs = l ++ [⟨due, wake, v⟩]) :
    z.amended.bcs = l ++ [⟨due, wake, { z.amended.view with resync := v.resync }⟩] := by
  unfold Orrery.amended
  dsimp only
  rw [h, List.getLast?_concat, List.dropLast_concat]
  rfl

/-- The first good sample starts the track at line 0 (R173). -/
theorem oGoodPair_starts {n : Fin 4} {y : Orrery} {s t : State} (h : OryRun n [] [] y s t) (ha : y.sync = .acq) (x : OryStamp) (phi : Nat) :
    ∃ z, OryRun n [] [] z s (t.oGoodPair n x phi) ∧ RawKept y z ∧ Sampled s n x phi y z ∧ z.pos = 0 ∧ z.cyc = 0 ∧ z.sync = (if s.oSteps n = 1 then .full else .rel) := by
  have hs : t.ory[n].sync = .acq := by rw [h.self, ha]
  unfold State.oGoodPair
  dsimp only
  rw [if_pos hs, h.oSteps]
  have h1 := h.modOry (fun o => { oClear o with phi := phi, unwrapped := 0, anchor := 0, anchorT := x.t, furthest := 0, cyc := 0 })
  obtain ⟨e, l, he1, he2, he3, h2⟩ := h1.oEdge x t.ory[n].back 0 1 (4096 * s.oSteps n) 1 false
  obtain ⟨k, hk⟩ : ∃ k : Sync, k = if s.oSteps n = 1 then .full else .rel := ⟨_, rfl⟩
  rw [← hk]
  have h3 := (h2.oSync k 0 x.t (x.fl t.ory[n].back)).oAmend
  obtain ⟨w, hw⟩ : ∃ w, w = ({ oClear y with phi := phi, unwrapped := 0, anchor := 0, anchorT := x.t, furthest := 0, cyc := 0 } : Orrery).edged e l x.due false := ⟨_, rfl⟩
  have hcyc : (w.synced k).cyc = 0 := by
    show (if (w.sync = .off ∨ w.sync = .acq) ∧ (k = .full ∨ k = .rel) then 0 else w.cyc) = 0
    rw [show w.cyc = 0 from by rw [hw]; rfl, ite_self]
  have hbcs : (w.synced k).bcs = y.bcs ++ [⟨x.due, true, { w.view with resync := false }⟩] := by rw [hw]; rfl
  rw [← hw] at h3
  refine ⟨_, h3, ⟨?_, ?_, ?_⟩, ⟨?_, ?_, amended_bcs hbcs, ?_, e, [], ?_, he1, ?_⟩, ?_, hcyc, ?_⟩
  · rw [hw]; rfl
  · rw [hw]; rfl
  · rw [hw]; rfl
  · rw [hw]; rfl
  · rw [hw]; rfl
  · rw [hw]; rfl
  · rw [hw]; rfl
  · rw [he3]
    show s.oBase n 0 0 phi = s.oBase n (w.synced k).cyc w.pos phi
    rw [hcyc, hw]
    rfl
  · rw [hw]; rfl
  · rfl

/-- The line that a later sample lies on: the phase's wrap moves it by one (R173). -/
def Orrery.lined (x : Orrery) (N phi : Nat) (d : Int) : Orrery :=
  if d ≥ 0 ∧ phi < x.phi then x.moved N 1 false else if d < 0 ∧ phi > x.phi then x.moved N 1 true else x

/-- What the wrap leaves. -/
structure LineKept (x z : Orrery) : Prop where
  phi : z.phi = x.phi
  sync : z.sync = x.sync
  bcs : z.bcs = x.bcs
  seen : z.seen = x.seen
  suspect : z.suspect = x.suspect
  unwrapped : z.unwrapped = x.unwrapped
  raw : RawKept x z

theorem lined_keeps (x : Orrery) (N phi : Nat) (d : Int) : LineKept x (x.lined N phi d) := by
  unfold Orrery.lined
  split
  · exact ⟨rfl, rfl, rfl, rfl, rfl, rfl, rfl, rfl, rfl⟩
  · split
    · exact ⟨rfl, rfl, rfl, rfl, rfl, rfl, rfl, rfl, rfl⟩
    · exact ⟨rfl, rfl, rfl, rfl, rfl, rfl, rfl, rfl, rfl⟩

/-- What a move of more than 3/8 of a line counts (R173). -/
def fastCount (n : Fin 4) (fast : Prop) [Decidable fast] : List Fld := if fast then [F.ORYn_ERRCNT2_SIGNAL n] else []

/-- A later good sample before it is recorded: the line, the phase, and the count of a move that is too fast (R173). -/
def goodLined (s : State) (n : Fin 4) (x : OryStamp) (phi : Nat) (d : Int) (back leaves : Bool) : State :=
  let o := s.ory[n]
  let s1 := if d ≥ 0 ∧ phi < o.phi then s.oMove n 1 false else if d < 0 ∧ phi > o.phi then s.oMove n 1 true else s
  let s2 := s1.modOry n (fun o' => { o' with phi := phi, unwrapped := o.unwrapped + d, bad := 0, suspect := o'.suspect || decide (d.natAbs > 1536) })
  let s3 := if d.natAbs > 1536 then ((s2.rsat (F.ORYn_ERRCNT2_SIGNAL n) 1).evt (F.ORYn_EVT_SIGNAL_S n)).oFault n 10 x.t (x.fl back) 0 else s2
  if leaves then s3.modOry n (fun o' => { o' with anchor := o.unwrapped + d, anchorT := x.t }) else s3

/-- The sample as a validated edge: one that leaves the band, one inside it at standstill, and a running one (R173, R175). -/
def goodEnd (s : State) (n : Fin 4) (x : OryStamp) (phi : Nat) (d : Int) (still back leaves : Bool) (span den : Nat) (unw : Int) (g : Orrery → Int) : State :=
  if still then
    if leaves then (s.modOry n (fun o => { o with ivals := [], furthest := unw })).oEdge n x back d span den 1 false
    else ((s.modOry n (fun o => { o with hist := (⟨s.oBase n s.ory[n].cyc s.ory[n].pos phi, x.t, 0, o.back, 0⟩ :: o.hist).take 8 })).oRecEdge n x 1 false).oBroadcast n x.due false
  else (s.modOry n (fun o => { o with furthest := g o })).oEdge n x back d span den 1 false

/-- Whether a sample leaves the band around the anchor, and whether it is a reversal (R175). -/
def goodLeaves (s : State) (n : Fin 4) (d : Int) : Bool := decide ((s.ory[n].unwrapped + d - s.ory[n].anchor).natAbs > s.rget (F.ORYn_MOTION_HYST n))
def goodRev (s : State) (n : Fin 4) (d : Int) : Bool :=
  !s.ory[n].still && decide (if s.ory[n].back then s.ory[n].unwrapped + d - s.ory[n].furthest > s.rget (F.ORYn_MOTION_HYST n)
    else s.ory[n].furthest - (s.ory[n].unwrapped + d) > s.rget (F.ORYn_MOTION_HYST n))
def goodBack (s : State) (n : Fin 4) (d : Int) : Bool :=
  if s.ory[n].still && goodLeaves s n d then decide (s.ory[n].unwrapped + d < s.ory[n].anchor) else if goodRev s n d then !s.ory[n].back else s.ory[n].back

theorem oGoodPair_later {s : State} {n : Fin 4} (h : s.ory[n].sync ≠ .acq) (x : OryStamp) (phi : Nat) {d : Int} (hd : d = halfRange ((phi : Int) - s.ory[n].phi) 4096) :
    ∃ g, s.oGoodPair n x phi = goodEnd (goodLined s n x phi d (goodBack s n d) (goodLeaves s n d)) n x phi d s.ory[n].still (goodBack s n d) (goodLeaves s n d)
      (2 ^ min (s.rget (F.ORYn_MOTION_SPAN n)) 10) (4096 * s.oSteps n) (s.ory[n].unwrapped + d) g := by
  refine ⟨fun o => if goodRev s n d then s.ory[n].unwrapped + d else if o.back then min o.furthest (s.ory[n].unwrapped + d) else max o.furthest (s.ory[n].unwrapped + d), ?_⟩
  unfold State.oGoodPair
  rw [if_neg h]
  dsimp only
  rw [← hd]
  rfl

theorem goodLined_run {n : Fin 4} {y : Orrery} {s t : State} (h : OryRun n [] [] y s t) (x : OryStamp) (phi : Nat) (d : Int) (back leaves : Bool) :
    ∃ es a b f, OryRun n (fastCount n (d.natAbs > 1536)) es { y.lined (s.oSteps n) phi d with
        phi := phi, unwrapped := y.unwrapped + d, bad := 0, suspect := y.suspect || decide (d.natAbs > 1536), faults := f, anchor := a, anchorT := b } s
      (goodLined t n x phi d back leaves) := by
  have hk := lined_keeps y (s.oSteps n) phi d
  have h1 : OryRun n [] [] (y.lined (s.oSteps n) phi d) s (if d ≥ 0 ∧ phi < y.phi then t.oMove n 1 false else if d < 0 ∧ phi > y.phi then t.oMove n 1 true else t) := by
    unfold Orrery.lined
    split
    · exact h.oMove 1 false
    · split
      · exact h.oMove 1 true
      · exact h
  have hsus := hk.suspect
  unfold goodLined
  dsimp only
  rw [h.self]
  generalize (if d ≥ 0 ∧ phi < y.phi then t.oMove n 1 false else if d < 0 ∧ phi > y.phi then t.oMove n 1 true else t) = u at h1
  generalize y.lined (s.oSteps n) phi d = w at h1 hsus
  have h2 := h1.modOry (fun o => { o with phi := phi, unwrapped := y.unwrapped + d, bad := 0, suspect := o.suspect || decide (d.natAbs > 1536) })
  generalize u.modOry n (fun o => { o with phi := phi, unwrapped := y.unwrapped + d, bad := 0, suspect := o.suspect || decide (d.natAbs > 1536) }) = v at h2
  rw [hsus] at h2
  obtain ⟨es, f, r, hr, h3⟩ : ∃ es f r, (if d.natAbs > 1536 then ((v.rsat (F.ORYn_ERRCNT2_SIGNAL n) 1).evt (F.ORYn_EVT_SIGNAL_S n)).oFault n 10 x.t (x.fl back) 0 else v) = r ∧
      OryRun n (fastCount n (d.natAbs > 1536)) es { w with phi := phi, unwrapped := y.unwrapped + d, bad := 0, suspect := y.suspect || decide (d.natAbs > 1536), faults := f } s r := by
    unfold fastCount
    by_cases hf : d.natAbs > 1536
    · rw [if_pos hf, if_pos hf]
      obtain ⟨f, h3⟩ := ((h2.count (f := F.ORYn_ERRCNT2_SIGNAL n) (by simp [oryCounts]) List.not_mem_nil).tell (f := F.ORYn_EVT_SIGNAL_S n) (by simp [oryEvents])).oFault 10 x.t (x.fl back) 0
      exact ⟨_, f, _, rfl, h3⟩
    · rw [if_neg hf, if_neg hf]
      exact ⟨_, _, v, rfl, h2⟩
  rw [hr]
  split
  · have h4 := h3.modOry (fun o => { o with anchor := y.unwrapped + d, anchorT := x.t })
    exact ⟨es, _, _, f, h4⟩
  · exact ⟨es, _, _, f, h3⟩

/-- What the recording of a sample leaves of the Orrery. -/
structure PairKept (x z : Orrery) : Prop where
  sync : z.sync = x.sync
  pos : z.pos = x.pos
  unwrapped : z.unwrapped = x.unwrapped
  suspect : z.suspect = x.suspect
  raw : RawKept x z

theorem goodEnd_run {n : Fin 4} {cs es : List Fld} {y : Orrery} {s t : State} (h : OryRun n cs es y s t) (x : OryStamp) {phi : Nat} (hp : y.phi = phi) (hb : y.bad = 0) (d : Int)
    (still back leaves : Bool) (span den : Nat) (unw : Int) (g : Orrery → Int) :
    ∃ z, OryRun n cs es z s (goodEnd t n x phi d still back leaves span den unw g) ∧ Sampled s n x phi y z ∧ PairKept y z := by
  unfold goodEnd
  split
  · split
    · have h1 := h.modOry (fun o => { o with ivals := [], furthest := unw })
      obtain ⟨e, l, he1, he2, he3, h2⟩ := h1.oEdge x back d span den 1 false
      exact ⟨_, h2, ⟨hp, hb, rfl, rfl, e, y.hist.take 7, rfl, he1, hp ▸ he3⟩, rfl, rfl, rfl, rfl, rfl, rfl, rfl⟩
    · rw [h.self, h.oBase]
      have h1 := ((h.modOry (fun o => { o with hist := (⟨s.oBase n y.cyc y.pos phi, x.t, 0, o.back, 0⟩ :: o.hist).take 8 })).oRecEdge x 1 false).oBroadcast x.due false
      exact ⟨_, h1, ⟨hp, hb, rfl, rfl, ⟨s.oBase n y.cyc y.pos phi, x.t, 0, y.back, 0⟩, y.hist.take 7, rfl, rfl, rfl⟩, rfl, rfl, rfl, rfl, rfl, rfl, rfl⟩
  · have h1 := h.modOry (fun o => { o with furthest := g o })
    obtain ⟨e, l, he1, he2, he3, h2⟩ := h1.oEdge x back d span den 1 false
    exact ⟨_, h2, ⟨hp, hb, rfl, rfl, e, y.hist.take 7, rfl, he1, hp ▸ he3⟩, rfl, rfl, rfl, rfl, rfl, rfl, rfl⟩

/-- A later good sample (R173, R175). -/
theorem oGoodPair_goesOn {n : Fin 4} {y : Orrery} {s t : State} (h : OryRun n [] [] y s t) (ha : y.sync ≠ .acq) (x : OryStamp) (phi : Nat) :
    ∃ es z, OryRun n (fastCount n ((halfRange ((phi : Int) - y.phi) 4096).natAbs > 1536)) es z s (t.oGoodPair n x phi) ∧ RawKept y z ∧ Sampled s n x phi y z ∧ z.sync = y.sync ∧
      z.unwrapped = y.unwrapped + halfRange ((phi : Int) - y.phi) 4096 ∧ z.pos = (y.lined (s.oSteps n) phi (halfRange ((phi : Int) - y.phi) 4096)).pos ∧
      z.suspect = (y.suspect || decide ((halfRange ((phi : Int) - y.phi) 4096).natAbs > 1536)) := by
  obtain ⟨d, hd⟩ : ∃ d, d = halfRange ((phi : Int) - t.ory[n].phi) 4096 := ⟨_, rfl⟩
  obtain ⟨g, he⟩ := oGoodPair_later (s := t) (n := n) (by rw [h.self]; exact ha) x phi hd
  rw [he]
  rw [h.self] at hd
  rw [← hd]
  generalize goodBack t n d = back
  generalize goodLeaves t n d = leaves
  obtain ⟨es, a, b, f, h1⟩ := goodLined_run h x phi d back leaves
  obtain ⟨z, h2, hz, hk⟩ := goodEnd_run h1 x rfl rfl d t.ory[n].still back leaves (2 ^ min (t.rget (F.ORYn_MOTION_SPAN n)) 10) (4096 * t.oSteps n) (t.ory[n].unwrapped + d) g
  have hl := lined_keeps y (s.oSteps n) phi d
  refine ⟨es, z, h2, ⟨hk.raw.rawS.trans hl.raw.rawS, hk.raw.rawC.trans hl.raw.rawC, hk.raw.ampl.trans hl.raw.ampl⟩, ⟨hz.phase, hz.bad, hz.bcs.trans ?_, hz.seen.trans hl.seen, hz.hist⟩,
    hk.sync.trans hl.sync, hk.unwrapped, hk.pos, hk.suspect⟩
  show (y.lined (s.oSteps n) phi d).bcs ++ _ = _
  rw [hl.bcs]

end Sys2Proof.Machine
end

section
set_option Elab.async false
namespace Sys2Proof
open Sys2Proof.Machine

/-- A sample that is logged leaves the Orreries and their registers. -/
def SameOrreries (s t : State) : Prop := t.ory = s.ory ∧ ∀ o, 0x10000 ≤ o → o < 0x14000 → t.reg o = s.reg o

theorem sbufPut_orreries (s : State) (b : Fin 6) (t : Nat) (coarse : Bool) (w0 w1 w2 w3 : Word) : SameOrreries s (s.sbufPut b t coarse w0 w1 w2 w3) := by
  have h := sbufPut_frame s b t coarse w0 w1 w2 w3
  refine ⟨(Core.ory h.core :), fun o h1 h2 => h.regs o (oryPage_reports o h1) ?_⟩
  simp only [bufRegs, R.CVBUFb_DROP, R.CV_EVT, R.CVBUFb_WRIDX, List.mem_cons, List.not_mem_nil, or_false]
  omega

theorem sampleLogged {s : State} {c : Prop} [Decidable c] (b : Fin 6) (t : Nat) (coarse : Bool) (w0 w1 w2 w3 : Word) :
    SameOrreries s (if c then s.sbufPut b t coarse w0 w1 w2 w3 else s) := by
  split
  · exact sbufPut_orreries _ _ _ _ _ _ _ _
  · exact ⟨rfl, fun _ _ _ => rfl⟩

theorem SameOrreries.rget {s t : State} (h : SameOrreries s t) {n : Fin 4} {f : Fld} (hf : f ∈ oryCounts n) : t.rget f = s.rget f := by
  have hr := (oryCounts_at hf).reg
  refine rget_of_reg (h.2 _ ?_ ?_) <;> rcases hr with hr | hr <;> rw [hr] <;> simp only [R.ORYn_ERRCNT, R.ORYn_ERRCNT2] <;> omega

theorem SameOrreries.ron {s t : State} (h : SameOrreries s t) {n : Fin 4} {f : Fld} (hf : f ∈ oryEvents n) : t.ron f = s.ron f := by
  refine ron_of_reg (h.2 _ ?_ ?_) <;> rw [(oryEvents_at hf).reg] <;> simp only [R.ORYn_EVT] <;> omega

theorem oSincos_idle {s : State} {n : Fin 4} {a b : BitVec 14} (h : s.oType n ≠ 3 ∨ s.ory[n].sync = .off ∨ s.oSampleAt n = none) : s.oSincos n a b = s := by
  unfold State.oSincos
  split
  · rfl
  · next t ht =>
    refine if_neg (fun hx => ?_)
    rcases h with h | h | h
    · exact h hx.1
    · exact hx.2 h
    · rw [h] at ht
      cases ht

/-- A sample at its instant (R172). -/
theorem oSincos_runs {s : State} {n : Fin 4} {a b : BitVec 14} {at' : Nat} (ht : s.oType n = 3) (hs : s.ory[n].sync ≠ .off) (hat : s.oSampleAt n = some at') :
    ∃ (x : OryStamp) (u t : State), x.t = at' ∧ x.due = s.spine.tick + 1220 ∧
      OryRun n [] [] { s.ory[n] with rawS := a, rawC := b, ampl := min (Nat.sqrt (ampOf s n a b)) 65535 } s u ∧ s.oSincos n a b = t ∧
      (inWindow s n a b → SameOrreries (u.oGoodPair n x (phase12 (pairIn s n a b).1 (pairIn s n a b).2)) t) ∧
      (¬ inWindow s n a b → SameOrreries (u.oBadPair n x (min (Nat.sqrt (ampOf s n a b)) 65535)) t) := by
  obtain ⟨m, hm⟩ : ∃ m, m = if (s.calE (0xD0 + 8 * n.val)).2 ∨ (s.calE (0xD0 + 8 * n.val + 1)).2 ∨ (s.calE (0xD0 + 8 * n.val + 2)).2 ∨ (s.calE (0xD0 + 8 * n.val + 3)).2
      then s.evt (F.ORYn_EVT_CFG_ERR_S n) else s := ⟨_, rfl⟩
  have h0 : OryRun n [] [] s.ory[n] s m := by
    rw [hm]
    split
    · exact (OryRun.refl n s).evt (by simp [oryEvents])
    · exact OryRun.refl n s
  have h1 := h0.modOry (fun o => { o with rawS := a, rawC := b, ampl := min (Nat.sqrt (ampOf s n a b)) 65535 })
  refine ⟨⟨at', (s.stampAt (at' - s.now)).2, s.ron F.SPN_STAT_COARSE, s.tickPos (at' - s.now), s.spine.tick + 1220⟩, _, _, rfl, rfl, h1, rfl, fun hg => ?_, fun hb => ?_⟩
  · unfold State.oSincos
    rw [hat]
    dsimp only
    rw [if_pos ⟨ht, hs⟩, ← hm]
    have hg : s.ron F.PW_STAT_VDDA_OK = true ∧ s.rget (F.ORYn_SC_AMP_AMIN n) * s.rget (F.ORYn_SC_AMP_AMIN n) ≤ ampOf s n a b ∧
      ampOf s n a b ≤ s.rget (F.ORYn_SC_AMP_AMAX n) * s.rget (F.ORYn_SC_AMP_AMAX n) := hg
    unfold ampOf pairIn at hg
    unfold ampOf pairIn
    dsimp only at hg ⊢
    rw [if_pos hg]
    exact sampleLogged _ _ _ _ _ _ _
  · unfold State.oSincos
    rw [hat]
    dsimp only
    rw [if_pos ⟨ht, hs⟩, ← hm]
    have hb : ¬ (s.ron F.PW_STAT_VDDA_OK = true ∧ s.rget (F.ORYn_SC_AMP_AMIN n) * s.rget (F.ORYn_SC_AMP_AMIN n) ≤ ampOf s n a b ∧
      ampOf s n a b ≤ s.rget (F.ORYn_SC_AMP_AMAX n) * s.rget (F.ORYn_SC_AMP_AMAX n)) := hb
    unfold ampOf pairIn at hb
    unfold ampOf pairIn
    dsimp only at hb ⊢
    rw [if_neg hb]
    exact sampleLogged _ _ _ _ _ _ _

end Sys2Proof
end

section
set_option Elab.async false
namespace Sys2Proof
open Sys2Proof.Machine

theorem exec_sincosSample {s : State} (h : oryTakes s) (n : Fin 4) (a b : BitVec 14) : exec (.sincosSample n a b) s = .next (s.oSincos n a b) :=
  oryEvent_open h (fun s => s.oSincos n a b)

theorem exec_sincosIndex {s : State} (h : oryTakes s) (n : Fin 4) (pos : Fin 64) :
    exec (.sincosIndex n pos) s = .next (if s.oInputOff n 2 then s else s.oMarker n (s.oStamp n 2 pos)) := oryEdge_open h n 2 (fun s => s.oMarker n (s.oStamp n 2 pos))

theorem exec_still {s : State} (h : oryTakes s) (n : Fin 4) : exec (.still n) s = .next (s.oStill n) := oryEvent_open h (fun s => s.oStill n)

/-- The phase of a pair on an axis (R173). -/
theorem phase12_axes (v : Int) (h : 0 < v) : phase12 0 v = 0 ∧ phase12 v 0 = 1024 ∧ phase12 0 (-v) = 2048 ∧ phase12 (-v) 0 = 3072 := by
  unfold phase12
  refine ⟨?_, ?_, ?_, ?_⟩
  · rw [if_pos rfl, if_neg (by omega)]
    rfl
  · rw [if_neg (by omega), if_pos rfl, if_pos h]
    rfl
  · rw [if_pos rfl, if_pos (by omega)]
    rfl
  · rw [if_neg (by omega), if_pos rfl, if_neg (by omega)]
    rfl

/-- The instant of a sample lies in the present tick, a whole microsecond and PH ns (R172). -/
theorem sampleAt_shows {s : State} {n : Fin 4} (hh : s.spine.hold = none) {at' : Nat} (h : s.oSampleAt n = some at') :
    s.now ≤ at' ∧ at' < s.tAhead 1 ∧ (at' : Int) % 64000 = s.rget (F.ORYn_SC_CFG_PH n) * 64 % 64000 := by
  unfold State.oSampleAt at h
  dsimp only at h
  split at h
  · next hr =>
    obtain rfl := Option.some.inj h
    unfold State.reaches at hr
    rw [hh] at hr
    simp only [Bool.and_true, decide_eq_true_eq] at hr
    refine ⟨by omega, hr, ?_⟩
    omega
  · cases h

/-- What a sample that is not in the window shows (R172). -/
theorem badSample {s : State} {n : Fin 4} {a b : BitVec 14} {x : OryStamp} {u t : State} {m : Nat}
    (hu : OryRun n [] [] { s.ory[n] with rawS := a, rawC := b, ampl := m } s u) (ht : SameOrreries (u.oBadPair n x m) t) :
    let o := s.ory[n]
    (t.ory[n].rawS = a ∧ t.ory[n].rawC = b ∧ t.ory[n].ampl = m) ∧
    countedOne s t (F.ORYn_ERRCNT2_SIGNAL n) ∧ t.ron (F.ORYn_EVT_SIGNAL_S n) = true ∧
      t.ory[n].bad = (if 64 ≤ o.bad + 1 ∧ o.sync ≠ .acq then 0 else o.bad + 1) ∧
      t.ory[n].sync = (if 64 ≤ o.bad + 1 ∧ o.sync ≠ .acq then .acq else o.sync) ∧
      (64 ≤ o.bad + 1 → o.sync ≠ .acq → t.ory[n].hist = []) ∧
      (o.bad + 1 < 64 → t.ory[n].pos = o.pos ∧ t.ory[n].phi = o.phi ∧ t.ory[n].hist = o.hist) := by
  obtain ⟨z, h1, hk, h2, h3, h4, h5⟩ := oBadPair_run hu x m
  have hz : t.ory[n] = z := (congrArg (fun v : Vector Orrery 4 => v[n]) ht.1).trans h1.self
  dsimp only
  rw [hz]
  exact ⟨⟨hk.rawS, hk.rawC, hk.ampl⟩, (ht.rget (n := n) (by simp [oryCounts])).trans (h1.counted _ List.mem_cons_self),
    (ht.ron (n := n) (by simp [oryEvents])).trans (h1.told _ List.mem_cons_self), h2, h3, h4, h5⟩

theorem lined_up {x : Orrery} {N phi : Nat} {d : Int} (hd : 0 ≤ d) (hp : phi < x.phi) : (x.lined N phi d).pos = (x.pos + 1) % N := by
  unfold Orrery.lined
  rw [if_pos ⟨hd, hp⟩]
  rfl

theorem lined_down {x : Orrery} {N phi : Nat} {d : Int} (hd : d < 0) (hp : x.phi < phi) (hN : 1 < N) : (x.lined N phi d).pos = (x.pos + N - 1) % N := by
  unfold Orrery.lined
  rw [if_neg (fun h => by omega), if_pos ⟨hd, hp⟩]
  show (x.pos + N * (1 / N + 1) - 1) % N = _
  rw [Nat.div_eq_of_lt hN, Nat.zero_add, Nat.mul_one]

theorem lined_stays {x : Orrery} {N phi : Nat} {d : Int} (h : (0 ≤ d ∧ x.phi ≤ phi) ∨ (d < 0 ∧ phi ≤ x.phi)) : (x.lined N phi d).pos = x.pos := by
  unfold Orrery.lined
  rw [if_neg (fun hx => by omega), if_neg (fun hx => by omega)]

/-- What a sample in the window shows (R173). -/
theorem goodSample {s : State} {n : Fin 4} {a b : BitVec 14} {x : OryStamp} {u t : State} {m phi : Nat}
    (hu : OryRun n [] [] { s.ory[n] with rawS := a, rawC := b, ampl := m } s u) (ht : SameOrreries (u.oGoodPair n x phi) t) :
    let o := s.ory[n]
    let d := halfRange ((phi : Int) - o.phi) 4096
    (t.ory[n].rawS = a ∧ t.ory[n].rawC = b ∧ t.ory[n].ampl = m) ∧
    t.ory[n].phi = phi ∧ t.ory[n].bad = 0 ∧ broadcasts s t n x.due false ∧
      (∃ y ys, t.ory[n].hist = y :: ys ∧ y.t = x.t ∧ y.base = s.oBase n t.ory[n].cyc t.ory[n].pos phi) ∧
      (o.sync = .acq → t.ory[n].pos = 0 ∧ t.ory[n].cyc = 0 ∧ t.ory[n].sync = (if s.oSteps n = 1 then .full else .rel)) ∧
      (o.sync ≠ .acq → t.ory[n].sync = o.sync ∧ t.ory[n].unwrapped = o.unwrapped + d ∧
        (0 ≤ d → phi < o.phi → t.ory[n].pos = (o.pos + 1) % s.oSteps n) ∧
        (d < 0 → o.phi < phi → 1 < s.oSteps n → t.ory[n].pos = (o.pos + s.oSteps n - 1) % s.oSteps n) ∧
        ((0 ≤ d ∧ o.phi ≤ phi) ∨ (d < 0 ∧ phi ≤ o.phi) → t.ory[n].pos = o.pos) ∧
        (1536 < d.natAbs → t.ory[n].suspect = true ∧ countedOne s t (F.ORYn_ERRCNT2_SIGNAL n)) ∧
        (d.natAbs ≤ 1536 → t.ory[n].suspect = o.suspect)) := by
  intro o d
  unfold broadcasts
  by_cases ha : s.ory[n].sync = .acq
  · obtain ⟨z, h1, hk, hz, h2, h3, h4⟩ := oGoodPair_starts hu ha x phi
    have hself : t.ory[n] = z := (congrArg (fun v : Vector Orrery 4 => v[n]) ht.1).trans h1.self
    rw [hself]
    exact ⟨⟨hk.rawS, hk.rawC, hk.ampl⟩, hz.phase, hz.bad, ⟨hz.bcs, hz.seen⟩, hz.hist, fun _ => ⟨h2, h3, h4⟩, fun hx => absurd ha hx⟩
  · obtain ⟨es, z, h1, hk, hz, h2, h3, h4, h5⟩ := oGoodPair_goesOn hu ha x phi
    have hself : t.ory[n] = z := (congrArg (fun v : Vector Orrery 4 => v[n]) ht.1).trans h1.self
    rw [hself]
    have hd : halfRange ((phi : Int) - s.ory[n].phi) 4096 = d := rfl
    have hp4 : z.pos = (({ s.ory[n] with rawS := a, rawC := b, ampl := m } : Orrery).lined (s.oSteps n) phi d).pos := h4
    have hs5 : z.suspect = (s.ory[n].suspect || decide (d.natAbs > 1536)) := h5
    have h1' : OryRun n (fastCount n (d.natAbs > 1536)) es z s (u.oGoodPair n x phi) := h1
    clear_value d
    refine ⟨⟨hk.rawS, hk.rawC, hk.ampl⟩, hz.phase, hz.bad, ⟨hz.bcs, hz.seen⟩, hz.hist, fun hx => absurd hx ha, fun _ => ⟨h2, h3.trans (congrArg _ hd), fun e1 e2 => ?_, fun e1 e2 e3 => ?_, fun e1 => ?_,
      fun e1 => ⟨?_, ?_⟩, fun e1 => ?_⟩⟩
    · exact hp4.trans (lined_up e1 e2)
    · exact hp4.trans (lined_down e1 e2 e3)
    · exact hp4.trans (lined_stays e1)
    · rw [hs5, decide_eq_true e1, Bool.or_true]
    · refine (ht.rget (n := n) (by simp [oryCounts])).trans (h1'.counted _ ?_)
      unfold fastCount
      rw [if_pos e1]
      exact List.mem_cons_self
    · rw [hs5, decide_eq_false (by omega), Bool.or_false]

theorem samplesTaken_holds : samplesTaken := by
  intro n a b s h
  have hrun := exec_sincosSample h n a b
  refine ⟨fun hi => ?_, fun at' ht hs hat => ?_, phase12_axes, fun hh at' hat => sampleAt_shows hh hat⟩
  · rw [hrun, oSincos_idle hi]
  · obtain ⟨x, u, t, hx, hd, hu, he, hg, hb⟩ := oSincos_runs (a := a) (b := b) ht hs hat
    rw [he] at hrun
    by_cases hw : inWindow s n a b
    · obtain ⟨⟨r1, r2, r3⟩, k⟩ := goodSample hu (hg hw)
      rw [hx, hd] at k
      exact ⟨t, hrun, r1, r2, r3, fun hn => absurd hw hn, fun _ => k⟩
    · obtain ⟨⟨r1, r2, r3⟩, k⟩ := badSample hu (hb hw)
      exact ⟨t, hrun, r1, r2, r3, fun _ => k, fun hn => absurd hn hw⟩

end Sys2Proof
end

section
/-!
SUPPORT. Markers of a sine/cosine track, and standstill (R168, R174 to R177).
-/
set_option Elab.async false
namespace Sys2Proof.Machine
open Sys2Proof

/-- A marker that the stamper does not see, or that no track has. -/
theorem oMarker_unseen {s : State} {n : Fin 4} {y : OryStamp} (h : s.oType n ≠ 3 ∨ s.ory[n].sync = .off ∨ s.oDead n 2 y = true) : s.oMarker n y = s := by
  unfold State.oMarker
  refine if_neg (fun hx => ?_)
  rcases h with h | h | h
  · exact h hx.1
  · exact hx.2.1 h
  · exact hx.2.2 h

/-- The state in which a marker has been accepted. -/
def markerSeen (s : State) (n : Fin 4) (x : OryStamp) : State := (s.oStamped n 2 x).oAccepted n x

theorem markerSeen_run (s : State) (n : Fin 4) (x : OryStamp) :
    ∃ a b c, OryRun n [] [] { s.ory[n] with stamp := a, marks := b, lastAcc := c } s (markerSeen s n x) :=
  ⟨_, _, _, ((OryRun.refl n s).oStamped 2 x).oAccepted x⟩

/-- The line that a marker's boundary becomes, and how far the boundary lies ahead (R174). -/
def markerPos (s : State) (n : Fin 4) (x : OryStamp) : Nat := (-(s.oNearLine n x.t) % (s.oSteps n : Int)).toNat

/-- The boundary check of a marker (R174). -/
def markerIndexed (s : State) (n : Fin 4) (x : OryStamp) : State :=
  ((markerSeen s n x).oIndex n x.t (x.fl s.ory[n].back) s.ory[n].back (s.oSteps n) (markerPos s n x) (s.oNearLine n x.t)).1

section
variable {s : State} {n : Fin 4} {y : OryStamp} (ht : s.oType n = 3) (hs : s.ory[n].sync ≠ .off) (hd : s.oDead n 2 y = false)
include ht hs hd

/-- One before the track is found is only stamped. -/
theorem oMarker_lost (h : s.ory[n].sync ≠ .rel ∧ s.ory[n].sync ≠ .full) : s.oMarker n y = s.oStamped n 2 (s.oMarked n 2 y) := by
  unfold State.oMarker
  rw [if_pos ⟨ht, hs, by rw [hd]; decide⟩]
  dsimp only
  rw [if_pos h]

theorem oMarker_close (h : s.ory[n].sync = .rel ∨ s.ory[n].sync = .full) (hc : s.oClose n (s.oMarked n 2 y) = true) :
    s.oMarker n y = (s.oStamped n 2 (s.oMarked n 2 y)).oEarly n (s.oMarked n 2 y) 0 := by
  unfold State.oMarker
  rw [if_pos ⟨ht, hs, by rw [hd]; decide⟩]
  dsimp only
  rw [if_neg (fun hx => h.elim hx.1 hx.2), if_pos hc]

theorem oMarker_takes (h : s.ory[n].sync = .rel ∨ s.ory[n].sync = .full) (hc : s.oClose n (s.oMarked n 2 y) = false) :
    ∃ d rs, s.oMarker n y = ((markerIndexed s n (s.oMarked n 2 y)).modOry n (fun o => o.shiftHist d)).oBroadcast n (s.oMarked n 2 y).due rs := by
  unfold State.oMarker
  rw [if_pos ⟨ht, hs, by rw [hd]; decide⟩]
  dsimp only
  rw [if_neg (fun hx => h.elim hx.1 hx.2), if_neg (by rw [hc]; decide)]
  exact ⟨_, _, rfl⟩

end

/-! ### Standstill -/

/-- Standstill is not declared (R177). -/
theorem oStill_not {s : State} {n : Fin 4} (h : s.ory[n].sync = .off ∨ s.ory[n].still = true ∨ s.oLastT n = none ∨
    ∃ te, s.oLastT n = some te ∧ (s.now < te + s.rget (F.ORYn_MOTION_STILL_MS n) * 1000000 * 64 ∨ s.oQuiet n (te + s.rget (F.ORYn_MOTION_STILL_MS n) * 1000000 * 64) = false)) :
    s.oStill n = s := by
  unfold State.oStill
  dsimp only
  split
  · rfl
  · next te hte =>
    refine if_neg (fun hx => ?_)
    obtain ⟨h1, h2, h3, h4⟩ := hx
    rcases h with h | h | h | ⟨u, hu, h⟩
    · exact h1 h
    · exact h2 h
    · rw [h] at hte
      cases hte
    · obtain rfl := Option.some.inj (hte.symm.trans hu)
      rcases h with h | h
      · omega
      · rw [h] at h4
        cases h4

/-- Whether a wheel that stands still keeps its position (R168). -/
def stillFalls (s : State) (n : Fin 4) : Prop :=
  s.oType n = 0 ∧ ¬ (s.ron (F.ORYn_CTRL_KEEP n) = true ∧ s.rget (F.ORYn_CTRL_DIRMODE n) ≠ 0) ∧ (s.ory[n].sync = .turn ∨ s.ory[n].sync = .full)

/-- Standstill is declared (R168, R176, R177). -/
theorem oStill_run {s : State} {n : Fin 4} {te : Nat} (hs : s.ory[n].sync ≠ .off) (hst : s.ory[n].still = false) (hte : s.oLastT n = some te)
    (hl : te + s.rget (F.ORYn_MOTION_STILL_MS n) * 1000000 * 64 ≤ s.now) (hq : s.oQuiet n (te + s.rget (F.ORYn_MOTION_STILL_MS n) * 1000000 * 64) = true) :
    ∃ z, OryRun n [] [F.ORYn_EVT_STILL_S n] z s (s.oStill n) ∧ z.still = true ∧ z.ivals = [] ∧
      (stillFalls s n → z.sync = .acq ∧ z.hist = []) ∧ (¬ stillFalls s n → z.sync = s.ory[n].sync ∧ z.hist = s.ory[n].hist) ∧
      (s.oType n = 0 → s.ory[n].sync = .acq → z.tooth = none ∧ z.pLast = 0) := by
  unfold State.oStill
  rw [hte]
  dsimp only
  rw [if_pos ⟨hs, by rw [hst]; decide, hl, hq⟩]
  obtain ⟨u, hu⟩ : ∃ u, u = ((s.modOry n (fun o => { o with still := true, ivals := [] })).evt (F.ORYn_EVT_STILL_S n)).emitFl 0x0F (oSrc n) s.now
    (s.oDirFlag n) (word (1 + 4 * b2n s.ory[n].back)) (word (s.oLast n)) (satWord (s.oSpeedIn n s.now)) 0 := ⟨_, rfl⟩
  have h1 : OryRun n [] [F.ORYn_EVT_STILL_S n] { s.ory[n] with still := true, ivals := [] } s u := by
    rw [hu]
    exact (((OryRun.refl n s).modOry (fun o => { o with still := true, ivals := [] })).tell (f := F.ORYn_EVT_STILL_S n) (by simp [oryEvents])).emitFl _ _ _ _ _ _ _ _
  rw [← hu]
  by_cases hf : stillFalls s n
  · have hc : s.oType n = 0 ∧ ¬ (s.ron (F.ORYn_CTRL_KEEP n) = true ∧ s.rget (F.ORYn_CTRL_DIRMODE n) ≠ 0) ∧ (s.ory[n].sync = .turn ∨ s.ory[n].sync = .full) := hf
    rw [if_pos hc]
    have h2 := ((h1.oSync .acq 1 s.now (s.oDirFlag n)).modOry oClear).modOry (fun o => { o with bcs := [], seen := o.view })
    refine ⟨_, h2, rfl, rfl, fun _ => ⟨rfl, rfl⟩, fun hx => absurd hf hx, fun _ ha => ?_⟩
    rcases hc.2.2 with h | h <;> exact absurd (ha.symm.trans h) (by decide)
  · have hc : ¬ (s.oType n = 0 ∧ ¬ (s.ron (F.ORYn_CTRL_KEEP n) = true ∧ s.rget (F.ORYn_CTRL_DIRMODE n) ≠ 0) ∧ (s.ory[n].sync = .turn ∨ s.ory[n].sync = .full)) := hf
    rw [if_neg hc]
    by_cases ha : s.oType n = 0 ∧ s.ory[n].sync = .acq
    · rw [if_pos ha]
      have h2 := (h1.modOry (fun o => { o with tooth := none, pLast := 0, pPrev := 0, confGap := false })).modOry
        (fun o => { o with bcs := o.bcs.map (fun b => { b with view := (fun v : OryView => { v with still := true }) b.view }), seen := (fun v : OryView => { v with still := true }) o.seen })
      exact ⟨_, h2, rfl, rfl, fun hx => absurd hx hf, fun _ => ⟨rfl, rfl⟩, fun _ _ => ⟨rfl, rfl⟩⟩
    · rw [if_neg ha]
      have h2 := h1.modOry
        (fun o => { o with bcs := o.bcs.map (fun b => { b with view := (fun v : OryView => { v with still := true }) b.view }), seen := (fun v : OryView => { v with still := true }) o.seen })
      exact ⟨_, h2, rfl, rfl, fun hx => absurd hx hf, fun _ => ⟨rfl, rfl⟩, fun h1 h2 => absurd ⟨h1, h2⟩ ha⟩

end Sys2Proof.Machine
end

section
set_option Elab.async false
namespace Sys2Proof
open Sys2Proof.Machine

theorem trackMarkers_holds : trackMarkers := by
  intro n pos s h
  have hrun := exec_sincosIndex h n pos
  refine ⟨fun hc => ?_, fun hin ht hs hd => ?_⟩
  · rw [hrun]
    rcases hc with hin | hc
    · rw [if_pos hin]
    · rw [oMarker_unseen hc, ite_self]
  · rw [if_neg (by rw [hin]; decide)] at hrun
    by_cases hsy : s.ory[n].sync = .rel ∨ s.ory[n].sync = .full
    · cases hc : s.oClose n (s.oMarked n 2 (s.oStamp n 2 pos)) with
      | true =>
        rw [oMarker_close ht hs hd hsy hc] at hrun
        obtain ⟨l, h1⟩ := ((OryRun.refl n s).oStamped 2 (s.oMarked n 2 (s.oStamp n 2 pos))).oEarly List.not_mem_nil (s.oMarked n 2 (s.oStamp n 2 pos)) 0
        refine ⟨_, hrun, ?_⟩
        rw [h1.self]
        exact ⟨rfl, fun _ _ => ⟨h1.counted _ List.mem_cons_self, rfl, rfl, rfl⟩, fun _ hx => absurd hx (by decide)⟩
      | false =>
        obtain ⟨d, rs, hm⟩ := oMarker_takes ht hs hd hsy hc
        rw [hm] at hrun
        generalize s.oMarked n 2 (s.oStamp n 2 pos) = x at hrun
        obtain ⟨a, b, c, h1⟩ := markerSeen_run s n x
        have hix : markerIndexed s n x = ((markerSeen s n x).oIndex n x.t (x.fl s.ory[n].back) s.ory[n].back (s.oSteps n) (markerPos s n x) (s.oNearLine n x.t)).1 := rfl
        have hpos : 0 < s.oSteps n → ((markerPos s n x : Nat) : Int) = -(s.oNearLine n x.t) % (s.oSteps n : Int) := fun hN =>
          Int.toNat_of_nonneg (Int.emod_nonneg _ (by omega))
        have hend : ∀ {cs es : List Fld} {z : Orrery}, OryRun n cs es z s (markerIndexed s n x) →
            OryRun n cs es { z.shiftHist d with bcs := z.bcs ++ [⟨x.due, true, { (z.shiftHist d).view with resync := rs }⟩] } s
              (((markerIndexed s n x).modOry n (fun o => o.shiftHist d)).oBroadcast n x.due rs) := fun hz => (hz.modOry (fun o => o.shiftHist d)).oBroadcast x.due rs
        refine ⟨_, hrun, ?_⟩
        by_cases hr : s.ory[n].sync = .rel
        · obtain ⟨cy, h2⟩ := oIndex_rel h1 x.t (x.fl s.ory[n].back) s.ory[n].back (s.oSteps n) (markerPos s n x) (s.oNearLine n x.t) hr
          have h3 := hend (hix ▸ h2)
          rw [h3.self]
          exact ⟨rfl, fun _ hx => absurd hx (by decide), fun _ _ hN => ⟨rfl, hpos hN, fun _ => h3.counted _ List.mem_cons_self⟩⟩
        · cases hi : s.ory[n].idxNet with
          | none =>
            obtain ⟨cy, h2⟩ := oIndex_first h1 x.t (x.fl s.ory[n].back) s.ory[n].back (s.oSteps n) (markerPos s n x) (s.oNearLine n x.t) hr hi
            have h3 := hend (hix ▸ h2)
            rw [h3.self]
            exact ⟨rfl, fun _ hx => absurd hx (by decide), fun _ _ hN => ⟨hsy.resolve_left hr, hpos hN, fun hx => absurd hx hr⟩⟩
          | some i =>
            obtain ⟨cs, es, z, h2, -, -, hz⟩ := oIndex_levels h1 x.t (x.fl s.ory[n].back) s.ory[n].back (s.oSteps n) (markerPos s n x) (s.oNearLine n x.t)
            have h3 := hend (hix ▸ h2)
            rw [h3.self]
            exact ⟨hz, fun _ hx => absurd hx (by decide), fun hx => absurd hx (fun hx => hx.elim hr (fun hx => by cases hx.2))⟩
    · rw [oMarker_lost ht hs hd (not_or.1 hsy)] at hrun
      have h1 := (OryRun.refl n s).oStamped 2 (s.oMarked n 2 (s.oStamp n 2 pos))
      refine ⟨_, hrun, ?_⟩
      rw [h1.self]
      exact ⟨rfl, fun hx => absurd hx hsy, fun hx => absurd (hx.imp_right And.left) hsy⟩

theorem standstill_holds : standstill := by
  intro n s h
  have hrun := exec_still h n
  refine ⟨fun hn => ?_, fun te hs hst hte hl hq => ?_⟩
  · rw [hrun, oStill_not hn]
  · obtain ⟨z, h1, h2, h3, h4, h5, h6⟩ := oStill_run hs hst hte hl hq
    refine ⟨_, hrun, ?_⟩
    rw [h1.self]
    refine ⟨h2, h3, h1.told _ List.mem_cons_self, h6, ?_⟩
    have hiff : stillFalls s n ↔ s.oType n = 0 ∧ (s.ron (F.ORYn_CTRL_KEEP n) = false ∨ s.rget (F.ORYn_CTRL_DIRMODE n) = 0) ∧ (s.ory[n].sync = .turn ∨ s.ory[n].sync = .full) := by
      unfold stillFalls
      rw [not_and_or, not_not, Bool.not_eq_true]
    split
    · next hc => exact h4 (hiff.2 hc)
    · next hc => exact h5 (fun hx => hc (hiff.1 hx))

/-- Settles O33: the other decoders, each by what its operations make of the Orrery. -/
theorem sectorAndTrackDecoding : Obligations.SectorAndTrackDecoding :=
  ⟨hallChanges_holds, quadTransitions_holds, samplesTaken_holds, trackMarkers_holds, standstill_holds⟩

end Sys2Proof
end

section
/-!
SUPPORT. Edges at an input: its level and its count (R57, R58, R78).
-/
set_option Elab.async false
namespace Sys2Proof.Machine
open Sys2Proof

/-- What the channels' counts and captures and the Orreries may change. -/
def Reach.edges : Reach := ⟨fun _ => False, True, fun _ => True, False⟩

/-- What the converters, the threads and the Orreries may change. -/
def Reach.besides : Reach := ⟨fun _ => False, False, fun _ => True, False⟩

theorem Within.besides_ch {s t : State} (h : Within .besides s t) : t.ch = s.ch := h.chs (fun hx => hx) (fun _ hx => hx)

/-- No operation of the pins changes the configuration of a channel, of its counter or of its captures. -/
theorem chCfg_kept (D : Reach) (c : Nat) (hc : c < 96) : ¬ PinReg D (R.CHc_CTRL c) ∧ ¬ PinReg D (R.CHc_CNT_CFG c) ∧ ∀ k, k < 2 → ¬ PinReg D (R.CHc_CAPk_CFG c k) := by
  refine ⟨fun h => ?_, fun h => ?_, fun k hk h => ?_⟩ <;>
  · have := h.lies
    simp only [R.CHc_CTRL, R.CHc_CNT_CFG, R.CHc_CAPk_CFG, R.SPN_EVT, R.CFG_EVT] at this
    omega

/-- The configuration that a channel's count goes by. -/
structure CountCfg (s t : State) (c : Fin 96) : Prop where
  tick : t.spine.tick = s.spine.tick
  casc : ∀ d : Fin 96, t.ron (F.CHc_CTRL_CASC d) = s.ron (F.CHc_CTRL_CASC d)
  run : t.ron (F.CHc_CNT_CFG_RUN c) = s.ron (F.CHc_CNT_CFG_RUN c)
  src : t.rget (F.CHc_CNT_CFG_SRC c) = s.rget (F.CHc_CNT_CFG_SRC c)

theorem Within.countCfg {D : Reach} {s t : State} (h : Within D s t) (c : Fin 96) : CountCfg s t c where
  tick := congrArg Spine.tick h.spine
  casc d := ron_of_rget_eq (h.rget (chCfg_kept D d d.isLt).1)
  run := ron_of_rget_eq (h.rget (chCfg_kept D c c.isLt).2.1)
  src := h.rget (chCfg_kept D c c.isLt).2.1

theorem cascHi_iff (s : State) (c : Fin 96) : s.cascHi c = true ↔ ∃ d : Fin 96, d.val % 2 = 0 ∧ c.val = d.val + 1 ∧ s.ron (F.CHc_CTRL_CASC d) = true := by
  unfold State.cascHi
  rw [Bool.and_eq_true, decide_eq_true_eq]
  constructor
  · rintro ⟨h1, h2⟩
    exact ⟨⟨c.val - 1, by omega⟩, by show (c.val - 1) % 2 = 0; omega, by show c.val = c.val - 1 + 1; omega, h2⟩
  · rintro ⟨d, h1, h2, h3⟩
    refine ⟨by omega, ?_⟩
    rw [show c.val - 1 = d.val by omega]
    exact h3

theorem CountCfg.cascHi {s t : State} {c : Fin 96} (h : CountCfg s t c) : t.cascHi c = s.cascHi c := by
  apply Bool.eq_iff_iff.2
  rw [cascHi_iff, cascHi_iff]
  simp only [h.casc]

/-- A channel that is no high half of a cascade is none of its neighbour's. -/
theorem pairOf_ne {s : State} {c d : Fin 96} (hc : s.cascHi c = false) (hd : s.cascLo d = true) : c ≠ pairOf d := fun e => by
  unfold State.cascLo at hd
  rw [Bool.and_eq_true, decide_eq_true_eq] at hd
  have : s.cascHi c = true := (cascHi_iff s c).2 ⟨d, hd.1, by rw [e]; unfold pairOf; simp only [hd.1, if_true], hd.2⟩
  rw [hc] at this
  cases this

/-- The event of a source as a tick remembers it. -/
def noted (s : State) (d : Fin 96) (src : Nat) : State := s.modCh d (fun x => { x with evTick := s.spine.tick, evMask := s.eventsNow d ||| 2 ^ src })

theorem noted_ch (s : State) (c d : Fin 96) (src : Nat) :
    (noted s d src).ch[c].cnt = s.ch[c].cnt ∧ (noted s d src).ch[c].cntTick = s.ch[c].cntTick ∧ (noted s d src).ch[c].cap0 = s.ch[c].cap0 ∧ (noted s d src).ch[c].cap1 = s.ch[c].cap1 := by
  unfold noted
  by_cases h : c = d
  · subst h
    rw [ch_modCh_same]
    exact ⟨rfl, rfl, rfl, rfl⟩
  · rw [ch_modCh_ne _ _ h]
    exact ⟨rfl, rfl, rfl, rfl⟩

/-- A count of a channel has stayed. -/
def CntStays (c : Fin 96) (s t : State) : Prop := t.ch[c].cnt = s.ch[c].cnt ∧ t.ch[c].cntTick = s.ch[c].cntTick

theorem CntStays.trans {c : Fin 96} {s t u : State} (h : CntStays c s t) (h' : CntStays c t u) : CntStays c s u := ⟨h'.1.trans h.1, h'.2.trans h.2⟩

theorem CntStays.of_ch {c : Fin 96} {s t : State} (h : t.ch = s.ch) : CntStays c s t := by
  unfold CntStays
  rw [h]
  exact ⟨rfl, rfl⟩

theorem cntStays_modCh {c d : Fin 96} (s : State) {f : Channel → Channel} (hf : ∀ x, (f x).cnt = x.cnt ∧ (f x).cntTick = x.cntTick) : CntStays c s (s.modCh d f) := by
  unfold CntStays
  by_cases h : c = d
  · subst h
    rw [ch_modCh_same]
    exact hf _
  · rw [ch_modCh_ne _ _ h]
    exact ⟨rfl, rfl⟩

theorem CntStays.modCh_ne {c d : Fin 96} {s t : State} (h : CntStays c s t) (hne : c ≠ d) (f : Channel → Channel) : CntStays c s (t.modCh d f) := by
  refine h.trans ?_
  unfold CntStays
  rw [ch_modCh_ne _ _ hne]
  exact ⟨rfl, rfl⟩

theorem CntStays.evt {c : Fin 96} {s t : State} (h : CntStays c s t) (f : Fld) : CntStays c s (t.evt f) := h.trans (.of_ch (evt_ch t f))

/-- Another source, and a count of another channel, leaves a count alone. -/
theorem count_other {s : State} {c d : Fin 96} {src : Nat} (hc : s.cascHi c = false) (hd : d = c → s.rget (F.CHc_CNT_CFG_SRC c) ≠ src) : CntStays c s (s.count d src) := by
  obtain ⟨h1, h2, -⟩ := noted_ch s c d src
  have h0 : CntStays c s (noted s d src) := ⟨h1, h2⟩
  have hc' : (noted s d src).cascHi c = false := hc
  have hd' : d = c → (noted s d src).rget (F.CHc_CNT_CFG_SRC c) ≠ src := hd
  refine h0.trans ?_
  show CntStays c (noted s d src) ((noted s d src).countNow d src)
  generalize noted s d src = u at hc' hd'
  unfold State.countNow
  dsimp only
  split
  · exact .of_ch rfl
  · next hn =>
    have hne : c ≠ d := fun e => hn (.inr (.inr (.inl (by rw [← e]; exact hd' e.symm))))
    have hm : ∀ f, CntStays c u (u.modCh d f) := fun f => CntStays.modCh_ne (.of_ch rfl) hne f
    split
    · exact hm _
    · split
      · next hlo => exact pin_ite (((hm _).modCh_ne (pairOf_ne hc' hlo) _).evt _) ((hm _).modCh_ne (pairOf_ne hc' hlo) _)
      · exact (hm _).evt _

theorem pairOf_ne_self (c : Fin 96) : c ≠ pairOf c := fun e => by
  have := congrArg Fin.val e
  unfold pairOf at this
  dsimp only at this
  split at this <;> omega

/-- A running counter counts its source once in a tick (R78). -/
theorem count_counts {s : State} {c : Fin 96} {src : Nat} (hc : s.cascHi c = false) (hr : s.ron (F.CHc_CNT_CFG_RUN c) = true) (hs : s.rget (F.CHc_CNT_CFG_SRC c) = src)
    (ht : s.ch[c].cntTick ≠ some s.spine.tick) : (s.count c src).ch[c].cnt = (s.ch[c].cnt + 1) % 2 ^ 32 := by
  obtain ⟨h1, h2, -⟩ := noted_ch s c c src
  have hc' : (noted s c src).cascHi c = false := hc
  have hr' : (noted s c src).ron (F.CHc_CNT_CFG_RUN c) = true := hr
  have hs' : (noted s c src).rget (F.CHc_CNT_CFG_SRC c) = src := hs
  have ht' : (noted s c src).ch[c].cntTick ≠ some (noted s c src).spine.tick := by rw [h2]; exact ht
  rw [← h1]
  show ((noted s c src).countNow c src).ch[c].cnt = _
  generalize noted s c src = u at hc' hr' hs' ht'
  obtain ⟨m, hm⟩ : ∃ m, m = u.modCh c (fun x => { x with cnt := (u.ch[c].cnt + 1) % 2 ^ 32, cntTick := some u.spine.tick }) := ⟨_, rfl⟩
  have hcnt : m.ch[c].cnt = (u.ch[c].cnt + 1) % 2 ^ 32 := by rw [hm, ch_modCh_same]
  have h0 : CntStays c m m := .of_ch rfl
  refine Eq.trans (And.left (?_ : CntStays c m (u.countNow c src))) hcnt
  unfold State.countNow
  dsimp only
  rw [if_neg (fun h => h.elim (fun h => by rw [hc'] at h; cases h) (fun h => h.elim (fun h => h hr') (fun h => h.elim (fun h => h hs') ht'))), ← hm]
  split
  · exact h0
  · split
    · exact pin_ite ((h0.modCh_ne (pairOf_ne_self c) _).evt _) (h0.modCh_ne (pairOf_ne_self c) _)
    · exact h0.evt _

/-! ### Captures leave the counts -/

theorem setCap_cnt (k : Bool) (p : Channel → Cap) (x : Channel) : (setCap x k (p x)).cnt = x.cnt ∧ (setCap x k (p x)).cntTick = x.cntTick := by
  cases k <;> exact ⟨rfl, rfl⟩

theorem emitFl_ch (s : State) (type src t fl : Nat) (w4 w5 w6 w7 : Word) : (s.emitFl type src t fl w4 w5 w6 w7).ch = s.ch :=
  ((Frame.refl [] s).emitFl type src t fl w4 w5 w6 w7).core.ch

theorem capRecord_cnt (s : State) (c d : Fin 96) (k : Bool) : CntStays c s (s.capRecord d k) := by
  unfold State.capRecord
  split
  · exact .of_ch rfl
  · dsimp only
    split
    · exact (cntStays_modCh s (setCap_cnt k _)).trans (.of_ch (emitFl_ch _ _ _ _ _ _ _ _ _))
    · exact .of_ch rfl

theorem capStep_cnt (s : State) (c d : Fin 96) (k : Bool) : CntStays c s (s.capStep d k) := by
  have h1 := capRecord_cnt s c d k
  unfold State.capStep
  dsimp only
  split
  · exact h1
  · split
    · split
      · exact h1.trans (cntStays_modCh _ (setCap_cnt k _))
      · exact h1.trans (cntStays_modCh _ (setCap_cnt k _))
    · exact h1

theorem capPump_cnt (s : State) (c d : Fin 96) : CntStays c s (s.capPump d) :=
  pin_foldl (P := CntStays c s) _ _ (fun a k ha => ha.trans (capStep_cnt a c d k)) (.of_ch rfl)

theorem capEnter_cnt (s : State) (c d : Fin 96) (k : Bool) (p : Cap) (x : CapT) : CntStays c s (s.capEnter d k p x) := by
  unfold State.capEnter
  split
  · exact cntStays_modCh s (setCap_cnt k _)
  · split
    · exact cntStays_modCh s (setCap_cnt k _)
    · exact (cntStays_modCh s (setCap_cnt k (fun _ => { p with dropped := p.dropped + 1 }))).trans (.of_ch (evt_ch _ _))

theorem latch_cnt (s : State) (c d : Fin 96) (cause : BitVec 4) (t : Nat) : CntStays c s (s.latch d cause t) := by
  unfold State.latch
  dsimp only
  split
  · split
    · exact cntStays_modCh s (fun _ => ⟨rfl, rfl⟩)
    · exact cntStays_modCh s (fun _ => ⟨rfl, rfl⟩)
  · exact cntStays_modCh s (fun _ => ⟨rfl, rfl⟩)

/-- Whether an edge falls within the dead time of a capture unit (R74). -/
def deadEdge (p : Cap) (at' : Nat) : Bool := match p.lastEdge with | some u => decide (at' < u + 256) | none => false

/-- The capture that an edge makes. -/
def edgeCap (s : State) (d : Fin 96) (k rise : Bool) (t : Nat) (step : Bool) : CapT :=
  ⟨t, rise, step || (capOf s.ch[d] k).mark, s.ron F.SPN_STAT_COARSE, s.capAngle d t, false, false, false⟩

/-- The stages behind an edge that a capture unit takes. -/
def staged (s : State) (d : Fin 96) (k rise : Bool) (t : Nat) (step : Bool) (at' : Nat) : State :=
  (s.capEnter d k { capOf s.ch[d] k with mark := false, lastEdge := some at' } (edgeCap s d k rise t step)).capPump d

/-- The image that an edge of a capture unit latches (R80). -/
def capLatched (v : State) (d : Fin 96) (k : Bool) (t : Nat) : State :=
  if (if k then v.ron (F.CHc_CNT_CFG_LAT_CAP1 (v.cntGov d)) else v.ron (F.CHc_CNT_CFG_LAT_CAP0 (v.cntGov d))) = true ∧ v.cntGov d = d
  then v.latch d (causeCap k) t else v

theorem capEdge_dead {s : State} {d : Fin 96} {k : Bool} {at' : Nat} (h : deadEdge (capOf s.ch[d] k) at' = true) (rise : Bool) (t : Nat) (step : Bool) :
    s.capEdge d k rise t step at' = s.rsat (F.CHc_CAPk_STAT_MISS d (kNat k)) 1 := if_pos h

theorem capEdge_taken {s : State} {d : Fin 96} {k : Bool} {at' : Nat} (h : deadEdge (capOf s.ch[d] k) at' = false) (rise : Bool) (t : Nat) (step : Bool) :
    s.capEdge d k rise t step at' =
      ((capLatched ((staged s d k rise t step at').count d (7 + kNat k)) d k t).convEvent d (2 + kNat k) (t + (s.rget (F.CHc_PIN_FILT d) + 10) * 64)).wakeCh d (2 + kNat k) :=
  if_neg (fun h' => Bool.noConfusion ((show deadEdge (capOf s.ch[d] k) at' = true from h').symm.trans h))

theorem staged_within (s : State) (d : Fin 96) (k rise : Bool) (t : Nat) (step : Bool) (at' : Nat) : Within .edges s (staged s d k rise t step at') :=
  capPump_pin (within_closed _) _ _ trivial (capEnter_pin (within_closed _) s d k _ _ trivial (.refl _ s))

theorem convWake_within (w : State) (d : Fin 96) (e t n : Nat) : Within .besides w ((w.convEvent d e t).wakeCh d n) :=
  wakeCh_pin (within_closed _) _ _ _ (convEvent_pin (within_closed _) _ _ _ _ (.refl _ w))

theorem capLatched_cnt (v : State) (c d : Fin 96) (k : Bool) (t : Nat) : CntStays c v (capLatched v d k t) := by
  exact pin_ite (latch_cnt v c d _ _) (.of_ch rfl)

theorem rsat_ch (s : State) (f : Fld) (n : Nat) : (s.rsat f n).ch = s.ch := rfl

/-- The stages leave a count alone. -/
theorem staged_cnt (s : State) (c d : Fin 96) (k rise : Bool) (t : Nat) (step : Bool) (at' : Nat) : CntStays c s (staged s d k rise t step at') :=
  (capEnter_cnt s c d k _ _).trans (capPump_cnt _ c d)

/-- A channel that counts an input counts no capture. -/
theorem capEdge_cnt {s : State} {c : Fin 96} (hc : s.cascHi c = false) (hs : s.rget (F.CHc_CNT_CFG_SRC c) < 7) (d : Fin 96) (k rise : Bool) (t : Nat) (step : Bool) (at' : Nat) :
    CntStays c s (s.capEdge d k rise t step at') := by
  cases hd : deadEdge (capOf s.ch[d] k) at' with
  | true =>
    rw [capEdge_dead hd]
    exact .of_ch (rsat_ch _ _ _)
  | false =>
    rw [capEdge_taken hd]
    have h1 := staged_cnt s c d k rise t step at'
    have hcfg := (staged_within s d k rise t step at').countCfg c
    generalize staged s d k rise t step at' = u at h1 hcfg
    have h2 : CntStays c u (u.count d (7 + kNat k)) := count_other (by rw [hcfg.cascHi, hc]) (fun _ => by rw [hcfg.src]; omega)
    generalize u.count d (7 + kNat k) = v at h2
    have h3 := capLatched_cnt v c d k t
    generalize capLatched v d k t = w at h3
    exact ((h1.trans h2).trans h3).trans (.of_ch (convWake_within w d _ _ _).besides_ch)

end Sys2Proof.Machine
end

section
/-!
SUPPORT. A transition at an input: what the filter makes of it, and what it counts (R57, R58, R78).
-/
set_option Elab.async false
namespace Sys2Proof.Machine
open Sys2Proof

theorem filterFate_accept {filt width : Nat} (free : Nat) (h1 : filt ≠ 0 → 64 * filt ≤ width) (h0 : filt = 0 → 128 ≤ width) : filterFate filt width free = .accept := by
  unfold filterFate
  by_cases hf : filt = 0
  · rw [if_pos hf, if_pos (.inl (h0 hf))]
  · rw [if_neg hf, if_pos (h1 hf)]

theorem filterFate_reject {filt width : Nat} (free : Nat) (hf : filt ≠ 0) (h : width < 64 * (filt - 1)) : filterFate filt width free = .reject := by
  unfold filterFate
  rw [if_neg hf, if_neg (by omega), if_pos h]

theorem filterOpen_not {filt width : Nat} (h1 : filt ≠ 0 → 64 * filt ≤ width ∨ width < 64 * (filt - 1))
    (h0 : filt = 0 → 128 ≤ width) : filterOpen filt width = false := by
  unfold filterOpen
  by_cases hf : filt = 0
  · rw [if_pos hf]; exact decide_eq_false (by have := h0 hf; omega)
  · rw [if_neg hf]; exact decide_eq_false (by have := h1 hf; omega)

/-- A capture that a transition makes at one unit. -/
def capAt (l : Bool) (t : Nat) (step : Bool) (at' : Nat) (s : State) (d : Fin 96) (k : Bool) (src : Nat) : State :=
  if s.rget (F.CHc_CAPk_CFG_SRC d (kNat k)) = src ∧ s.capTakes d k l then s.capEdge d k l t step at' else s

/-- A transition once its level is known: the counts, the captures and the Orreries. -/
def edgeSeen (s : State) (c : Fin 96) (l : Bool) (t : Nat) (step : Bool) (at' : Nat) : State :=
  (capAt l t step at' (capAt l t step at' (capAt l t step at' (capAt l t step at' ((s.count c (if l then 1 else 2)).count c 3) c false 0) c true 0) (pairOf c) false 1)
    (pairOf c) true 1).oInputEdge c l t step at'

theorem acceptEdge_eq (s : State) (c : Fin 96) (l : Bool) (t : Nat) (step : Bool) (at' : Nat) :
    s.acceptEdge c l t step at' = edgeSeen (s.modCh c (fun x => { x with inLvl := l })) c l t step at' := rfl

theorem capAt_within {s a : State} (h : Within .edges s a) (l : Bool) (t : Nat) (step : Bool) (at' : Nat) (d : Fin 96) (k : Bool) (src : Nat) :
    Within .edges s (capAt l t step at' a d k src) :=
  pin_ite (P := Within .edges s) (capEdge_pin (within_closed _) a d k l t step at' trivial h) h

theorem count_within {s a : State} (h : Within .edges s a) (c : Fin 96) (src : Nat) : Within .edges s (a.count c src) := count_pin (within_closed _) a c src trivial h

theorem edgeSeen_within (s : State) (c : Fin 96) (l : Bool) (t : Nat) (step : Bool) (at' : Nat) : Within .edges s (edgeSeen s c l t step at') := by
  unfold edgeSeen
  exact oInputEdge_pin (within_closed _) _ c l t step at' (fun _ => trivial) (capAt_within (capAt_within (capAt_within (capAt_within
    (count_within (count_within (.refl _ s) c _) c _) l t step at' _ _ _) l t step at' _ _ _) l t step at' _ _ _) l t step at' _ _ _)

theorem SameCell.inLvl {x y : Channel} (h : SameCell x y) : y.inLvl = x.inLvl := by rw [h]

theorem acceptEdge_inLvl (s : State) (c : Fin 96) (l : Bool) (t : Nat) (step : Bool) (at' : Nat) : (s.acceptEdge c l t step at').ch[c].inLvl = l := by
  rw [acceptEdge_eq, ((edgeSeen_within _ c l t step at').cell c (fun h => h)).inLvl, ch_modCh_same]

/-- A channel that counts an input counts no capture at any unit. -/
theorem CntStays.capAt {s a : State} {c : Fin 96} (h : CntStays c s a) (hw : Within .edges s a) (hc : s.cascHi c = false) (hs : s.rget (F.CHc_CNT_CFG_SRC c) < 7)
    (l : Bool) (t : Nat) (step : Bool) (at' : Nat) (d : Fin 96) (k : Bool) (src : Nat) : CntStays c s (Machine.capAt l t step at' a d k src) :=
  have hcfg := hw.countCfg c
  pin_ite (P := CntStays c s) (h.trans (capEdge_cnt (by rw [hcfg.cascHi, hc]) (by rw [hcfg.src]; exact hs) d k l t step at')) h

/-- Behind the two counts of a transition, nothing counts once more. -/
theorem edgeSeen_cnt {s : State} {c : Fin 96} (hc : s.cascHi c = false) (hs : s.rget (F.CHc_CNT_CFG_SRC c) < 7) (l : Bool) (t : Nat) (step : Bool) (at' : Nat) :
    CntStays c ((s.count c (if l then 1 else 2)).count c 3) (edgeSeen s c l t step at') := by
  have hw0 : Within .edges s ((s.count c (if l then 1 else 2)).count c 3) := count_within (count_within (.refl _ s) c _) c _
  have hcfg := hw0.countCfg c
  unfold edgeSeen
  generalize (s.count c (if l then 1 else 2)).count c 3 = u at hcfg
  have hc' : u.cascHi c = false := by rw [hcfg.cascHi, hc]
  have hs' : u.rget (F.CHc_CNT_CFG_SRC c) < 7 := by rw [hcfg.src]; exact hs
  have w0 := Within.refl .edges u
  have w1 := capAt_within w0 l t step at' c false 0
  have w2 := capAt_within w1 l t step at' c true 0
  have w3 := capAt_within w2 l t step at' (pairOf c) false 1
  have h4 := ((((CntStays.of_ch rfl : CntStays c u u).capAt w0 hc' hs' l t step at' c false 0).capAt w1 hc' hs' l t step at' c true 0).capAt w2 hc' hs' l t step at'
    (pairOf c) false 1).capAt w3 hc' hs' l t step at' (pairOf c) true 1
  refine h4.trans (.of_ch ?_)
  exact (oInputEdge_pin (within_closed .besides) _ c l t step at' (fun _ => trivial) (.refl _ _)).besides_ch

/-- R78: a running counter whose source a transition is counts it once. -/
theorem edgeSeen_counts {s : State} {c : Fin 96} {l : Bool} (hc : s.cascHi c = false) (hr : s.ron (F.CHc_CNT_CFG_RUN c) = true)
    (ht : s.ch[c].cntTick ≠ some s.spine.tick) (hs : s.rget (F.CHc_CNT_CFG_SRC c) = 3 ∨ s.rget (F.CHc_CNT_CFG_SRC c) = (if l then 1 else 2)) (t : Nat) (step : Bool) (at' : Nat) :
    (edgeSeen s c l t step at').ch[c].cnt = (s.ch[c].cnt + 1) % 2 ^ 32 := by
  have hl : (if l then 1 else 2) < 3 := by cases l <;> decide
  rw [(edgeSeen_cnt hc (by omega) l t step at').1]
  have hcfg := (count_within (.refl .edges s) c (if l then 1 else 2)).countCfg c
  obtain h3 | h1 := hs
  · have hst : CntStays c s (s.count c (if l then 1 else 2)) := count_other hc (fun _ => by omega)
    rw [count_counts (by rw [hcfg.cascHi, hc]) (by rw [hcfg.run, hr]) (by rw [hcfg.src, h3]) (by rw [hst.2, hcfg.tick]; exact ht), hst.1]
  · rw [(count_other (by rw [hcfg.cascHi, hc]) (fun _ => by rw [hcfg.src]; omega)).1]
    exact count_counts hc hr h1 ht

theorem acceptEdge_counts {s : State} {c : Fin 96} {l : Bool} (hc : s.cascHi c = false) (hr : s.ron (F.CHc_CNT_CFG_RUN c) = true)
    (ht : s.ch[c].cntTick ≠ some s.spine.tick) (hs : s.rget (F.CHc_CNT_CFG_SRC c) = 3 ∨ s.rget (F.CHc_CNT_CFG_SRC c) = (if l then 1 else 2)) (t : Nat) (step : Bool) (at' : Nat) :
    (s.acceptEdge c l t step at').ch[c].cnt = (s.ch[c].cnt + 1) % 2 ^ 32 := by
  have hm := ch_modCh_same s c (fun x => { x with inLvl := l })
  rw [acceptEdge_eq, edgeSeen_counts (s := s.modCh c (fun x => { x with inLvl := l })) hc hr (by rw [hm]; exact ht) hs t step at', hm]

/-- What a transition does behind the channel's own ones. -/
def edgeJudged (a : State) (c : Fin 96) (level : Bool) (pos width : Nat) : State :=
  if a.banks[bankOf c].supply = 0 ∨ (level != a.ron (F.CHc_PIN_IN_INV c)) = a.ch[c].inLvl then a
  else
    let s1 := if filterOpen (a.rget (F.CHc_PIN_FILT c)) width then a.drawn else a
    match filterFate (a.rget (F.CHc_PIN_FILT c)) width a.free with
    | .accept => s1.acceptEdge c (level != a.ron (F.CHc_PIN_IN_INV c)) (s1.ballStamp c pos).1 (s1.ballStamp c pos).2 (s1.tickPos pos)
    | .reject => s1.rsat (F.CHc_ERRCNT_GLITCH c) 1
    | .unseen => s1

theorem inputEdge_eq (s : State) (c : Fin 96) (level : Bool) (pos width : Nat) :
    s.inputEdge c level pos width = edgeJudged (s.ownStep c (some ((s.stampAt pos).1 : Int))) c level pos width := rfl

theorem edgeJudged_none {a : State} {c : Fin 96} {level : Bool} (h : a.banks[bankOf c].supply = 0 ∨ (level != a.ron (F.CHc_PIN_IN_INV c)) = a.ch[c].inLvl) (pos width : Nat) :
    edgeJudged a c level pos width = a := if_pos h

theorem edgeJudged_accept {a : State} {c : Fin 96} {level : Bool} {width : Nat} (hb : a.banks[bankOf c].supply ≠ 0) (hl : (level != a.ron (F.CHc_PIN_IN_INV c)) ≠ a.ch[c].inLvl)
    (h1 : a.rget (F.CHc_PIN_FILT c) ≠ 0 → 64 * a.rget (F.CHc_PIN_FILT c) ≤ width) (h0 : a.rget (F.CHc_PIN_FILT c) = 0 → 128 ≤ width) (pos : Nat) :
    edgeJudged a c level pos width =
      a.acceptEdge c (level != a.ron (F.CHc_PIN_IN_INV c)) (a.ballStamp c pos).1 (a.ballStamp c pos).2 (a.tickPos pos) := by
  unfold edgeJudged
  rw [if_neg (fun h => h.elim hb hl), filterFate_accept _ h1 h0, filterOpen_not (fun h => .inl (h1 h)) h0]
  rfl

theorem edgeJudged_reject {a : State} {c : Fin 96} {level : Bool} {width : Nat} (hb : a.banks[bankOf c].supply ≠ 0) (hl : (level != a.ron (F.CHc_PIN_IN_INV c)) ≠ a.ch[c].inLvl)
    (hf : a.rget (F.CHc_PIN_FILT c) ≠ 0) (hw : width < 64 * (a.rget (F.CHc_PIN_FILT c) - 1)) (pos : Nat) :
    edgeJudged a c level pos width = a.rsat (F.CHc_ERRCNT_GLITCH c) 1 := by
  unfold edgeJudged
  rw [if_neg (fun h => h.elim hb hl), filterFate_reject _ hf hw, filterOpen_not (fun _ => .inr hw) (fun h => absurd h hf)]
  rfl

theorem exec_inputEdge {s : State} (he : s.takesEvents = true) (c : Fin 96) (level : Bool) (pos : Fin 64) (width : Nat) :
    exec (.inputEdge c level pos width) s = .next (edgeJudged (s.ownStep c (some ((s.stampAt pos).1 : Int))) c level pos width) :=
  event_open he (fun s => s.inputEdge c level pos width)

theorem edgeJudged_sameFar (s : State) (c : Fin 96) (level : Bool) (pos width : Nat) :
    s.sameFar (edgeJudged (s.ownStep c (some ((s.stampAt pos).1 : Int))) c level pos width) := by
  rw [← inputEdge_eq]
  exact inputEdge_far s c level pos width (far_refl s)

end Sys2Proof.Machine
end

section
set_option Elab.async false
namespace Sys2Proof
open Sys2Proof.Machine

/-- Settles O13: a transition is judged once behind the channel's own ones; an accepted one counts before its captures and its Orreries see it, and none
of those counts an input once more. -/
theorem inputEdgesAreFiltered : Obligations.InputEdgesAreFiltered := by
  intro c level pos width s he
  have hx := exec_inputEdge he c level pos width
  have hfar := edgeJudged_sameFar s c level pos width
  refine ⟨fun h => if_pos h, fun h => ?_, fun hb hl h1 h0 => ?_, fun hb hl hf hw => ?_⟩
  · rw [hx, edgeJudged_none h]
  · rw [edgeJudged_accept hb hl h1 h0] at hx hfar
    refine ⟨_, hx, acceptEdge_inLvl _ _ _ _ _ _, hfar, fun hc hr ht hs => ?_⟩
    rw [acceptEdge_inLvl] at hs
    exact acceptEdge_counts hc hr ht hs _ _ _
  · rw [edgeJudged_reject hb hl hf hw] at hx
    have hfr := (Frame.refl [R.CHc_ERRCNT c] (s.ownStep c (some ((s.stampAt pos).1 : Int)))).rsat (f := F.CHc_ERRCNT_GLITCH c) 1 (List.mem_singleton.2 rfl)
    exact ⟨_, hx, rget_rsat_same _ _ _ (by decide : 0 + 16 ≤ 32), hfr.regs, hfr.blocks⟩

end Sys2Proof
end

section
/-!
SUPPORT. How captures enter the stages of their unit, and how the unit comes to rest (R74 to R76).
-/
set_option Elab.async false
namespace Sys2Proof.Machine
open Sys2Proof

/-! ### A step of a unit, as a function of what the unit holds -/

/-- Stage 1 still needs a record. -/
def CapT.unrec (rec' : Bool) (x : CapT) : Bool := rec' && !x.recDone && !x.used

/-- Every enabled consumer has taken the capture. -/
def CapT.taken (rec' rdc : Bool) (x : CapT) : Bool := x.used || ((!rec' || x.recDone) && (!rdc || x.rdDone))

/-- The unit once its record has gone, where it can. -/
def Cap.marked (rec' go : Bool) (p : Cap) : Cap := match p.s1 with | none => p | some x => if x.unrec rec' && go then p.recorded x else p

/-- The unit once its stages have moved up. -/
def Cap.moved (rec' rdc : Bool) (p : Cap) : Cap :=
  match p.s1 with
  | none => p
  | some x => if x.taken rec' rdc then (match p.s2 with | none => { p with s1 := some { x with used := true } } | some z => { p with s1 := some z, s2 := none }) else p

/-- A record of the unit can go now. -/
def State.capGoes (s : State) (c : Fin 96) (k : Bool) : Bool := !s.atCeil && (match (capOf s.ch[c] k).s1 with | none => false | some x => s.capFirst c k x.t)

/-- The consumers that a unit's configuration enables. -/
def State.recIn (s : State) (c : Fin 96) (k : Bool) : Bool := s.ron (F.CHc_CAPk_CFG_REC c (kNat k))
def State.rdcIn (s : State) (c : Fin 96) (k : Bool) : Bool := s.ron (F.CHc_CAPk_CFG_RDC c (kNat k))

theorem capRecord_cap (s : State) (c : Fin 96) (k : Bool) : capOf (s.capRecord c k).ch[c] k = (capOf s.ch[c] k).marked (s.recIn c k) (s.capGoes c k) := by
  unfold State.capRecord Cap.marked State.capGoes
  cases h1 : (capOf s.ch[c] k).s1 with
  | none => rfl
  | some x =>
    have hc : (s.capUnrec c k x = true ∧ ¬ s.atCeil = true ∧ s.capFirst c k x.t = true) ↔ (x.unrec (s.recIn c k) && (!s.atCeil && s.capFirst c k x.t)) = true := by
      rw [Bool.and_eq_true, Bool.and_eq_true, Bool.not_eq_true', Bool.not_eq_true]
      exact Iff.rfl
    by_cases h : s.capUnrec c k x = true ∧ ¬ s.atCeil = true ∧ s.capFirst c k x.t = true
    · dsimp only
      rw [if_pos h, if_pos (hc.1 h), emitFl_ch, capOf_modCap]
      rfl
    · dsimp only
      rw [if_neg h, if_neg (fun h' => h (hc.2 h'))]

theorem recIn_capRecord (s : State) (c : Fin 96) (k k' : Bool) : (s.capRecord c k).recIn c k' = s.recIn c k' := ron_of_rget_eq (capRecord_rget s c k (recCfg_page c k'))
theorem rdcIn_capRecord (s : State) (c : Fin 96) (k k' : Bool) : (s.capRecord c k).rdcIn c k' = s.rdcIn c k' := ron_of_rget_eq (capRecord_rget s c k (recCfg_page c k'))
theorem recIn_capStep (s : State) (c : Fin 96) (k k' : Bool) : (s.capStep c k).recIn c k' = s.recIn c k' := ron_of_rget_eq (capStep_rget s c k (recCfg_page c k'))
theorem rdcIn_capStep (s : State) (c : Fin 96) (k k' : Bool) : (s.capStep c k).rdcIn c k' = s.rdcIn c k' := ron_of_rget_eq (capStep_rget s c k (recCfg_page c k'))

/-- A step of a unit, by what it holds. -/
theorem capStep_cap (s : State) (c : Fin 96) (k : Bool) :
    capOf (s.capStep c k).ch[c] k = ((capOf s.ch[c] k).marked (s.recIn c k) (s.capGoes c k)).moved (s.recIn c k) (s.rdcIn c k) := by
  rw [← capRecord_cap, ← recIn_capRecord s c k k, ← rdcIn_capRecord s c k k]
  unfold State.capStep Cap.moved
  dsimp only
  generalize s.capRecord c k = r
  cases h1 : (capOf r.ch[c] k).s1 with
  | none => rfl
  | some x =>
    dsimp only
    by_cases ht : r.capTaken c k x = true
    · rw [if_pos ht, if_pos (show x.taken (r.recIn c k) (r.rdcIn c k) = true from ht)]
      cases h2 : (capOf r.ch[c] k).s2 with
      | none => dsimp only; rw [capOf_modCap]
      | some z => dsimp only; rw [capOf_modCap]
    · rw [if_neg ht, if_neg (show ¬ x.taken (r.recIn c k) (r.rdcIn c k) = true from ht)]

/-- No record goes while the writer works at its ceiling, or while none is enabled. -/
theorem capStep_recq {s : State} {c : Fin 96} {k : Bool} (h : s.atCeil = true ∨ s.recIn c k = false) : (s.capStep c k).recq = s.recq := by
  have hr : s.capRecord c k = s := by
    unfold State.capRecord
    split
    · rfl
    · next x hx =>
      refine if_neg (fun hc => ?_)
      rcases h with h | h
      · exact hc.2.1 h
      · have h1 : (s.recIn c k && !x.recDone && !x.used) = true := hc.1
        rw [h] at h1
        cases h1
  rcases capStep_eq s c k with h' | ⟨p, h'⟩
  · rw [h', hr]
  · rw [h', hr]; rfl

theorem atCeil_congr {s t : State} (h : t.recq = s.recq) : t.atCeil = s.atCeil := by
  unfold State.atCeil
  rw [h]

/-! ### The unit comes to rest -/

/-- What every step of a unit keeps, the pump keeps: at the ceiling, where no record goes, and elsewhere. -/
theorem capSteps_keep {c : Fin 96} {k : Bool} {Q : Cap → Prop} {s : State}
    (hQ : ∀ p go, (s.atCeil = true → go = false) → Q p → Q ((p.marked (s.recIn c k) go).moved (s.recIn c k) (s.rdcIn c k))) (ks : List Bool) (h : Q (capOf s.ch[c] k)) :
    Q (capOf (ks.foldl (fun s k => s.capStep c k) s).ch[c] k) := by
  refine (List.foldlRecOn (motive := fun t : State => (t.recIn c k = s.recIn c k ∧ t.rdcIn c k = s.rdcIn c k ∧ (s.atCeil = true → t.atCeil = true)) ∧ Q (capOf t.ch[c] k)) ks _
    ⟨⟨rfl, rfl, fun h => h⟩, h⟩ (fun t ⟨⟨h1, h2, h3⟩, h4⟩ k' _ => ?_)).2
  refine ⟨⟨by rw [recIn_capStep, h1], by rw [rdcIn_capStep, h2], fun hc => by rw [atCeil_congr (capStep_recq (.inl (h3 hc))), h3 hc]⟩, ?_⟩
  obtain rfl | rfl : k = k' ∨ k = !k' := by cases k <;> cases k' <;> simp
  · rw [capStep_cap, h1, h2]
    exact hQ _ _ (fun hc => by unfold State.capGoes; rw [h3 hc]; rfl) h4
  · rw [capStep_other]
    exact h4

/-- The pump begins, for either unit, with a step of that unit, behind at most one of the other. -/
theorem capPump_begins (s : State) (c : Fin 96) (k : Bool) : ∃ (v : State) (ks : List Bool), s.capPump c = ks.foldl (fun s k => s.capStep c k) (v.capStep c k) ∧
    capOf v.ch[c] k = capOf s.ch[c] k ∧ v.recIn c k = s.recIn c k ∧ v.rdcIn c k = s.rdcIn c k ∧ v.recIn c (!k) = s.recIn c (!k) ∧
    (s.recIn c (!k) = false → v.recq = s.recq) := by
  cases k with
  | false => exact ⟨s, [true, false, true, false, true], by unfold State.capPump; rw [List.foldl_cons], rfl, rfl, rfl, rfl, fun _ => rfl⟩
  | true => exact ⟨s.capStep c false, [false, true, false, true], by unfold State.capPump; rw [List.foldl_cons, List.foldl_cons], capStep_other s c false, recIn_capStep s c false true, rdcIn_capStep s c false true, recIn_capStep s c false false, fun h => capStep_recq (.inr h)⟩

/-- A record goes where the writer takes it and the other unit has none to hand over. -/
theorem capGoes_of {s : State} {c : Fin 96} {k : Bool} {x : CapT} (hx : (capOf s.ch[c] k).s1 = some x) (hc : s.atCeil = false) (ho : s.recIn c (!k) = false) :
    s.capGoes c k = true := by
  have h1 : ∀ y, s.capUnrec c (!k) y = false := fun y => by
    show (s.recIn c (!k) && !y.recDone && !y.used) = false
    rw [ho]; rfl
  have h2 : s.ron (F.CHc_CAPk_CFG_REC c (kNat !k)) = false := ho
  unfold State.capGoes
  rw [hx, hc]
  unfold State.capFirst
  simp only [h1, h2, Bool.false_and, Bool.not_false, Bool.and_true, Bool.true_and]
  cases (capOf s.ch[c] !k).s1 <;> cases (capOf s.ch[c] !k).s2 <;> rfl

/-- A unit at rest stays as it is. -/
theorem capPump_fixed {s : State} {c : Fin 96} {k : Bool} (hm : ∀ go, (s.atCeil = true → go = false) → (capOf s.ch[c] k).marked (s.recIn c k) go = capOf s.ch[c] k)
    (hv : (capOf s.ch[c] k).moved (s.recIn c k) (s.rdcIn c k) = capOf s.ch[c] k) : capOf (s.capPump c).ch[c] k = capOf s.ch[c] k :=
  capSteps_keep (Q := fun p => p = capOf s.ch[c] k) (fun p go hgo hp => by rw [hp, hm go hgo, hv]) _ rfl

theorem capPump_keeps_lastEdge (s : State) (c : Fin 96) (k : Bool) : (capOf (s.capPump c).ch[c] k).lastEdge = (capOf s.ch[c] k).lastEdge :=
  capSteps_keep (Q := fun p => p.lastEdge = (capOf s.ch[c] k).lastEdge) (fun p go _ hp => by
    have h1 : (p.marked (s.recIn c k) go).lastEdge = p.lastEdge := by unfold Cap.marked; split; · rfl
                                                                      · split <;> rfl
    rw [← hp, ← h1]
    unfold Cap.moved
    split
    · rfl
    · split
      · split <;> rfl
      · rfl) _ rfl

/-- A new capture at rest: recorded or not, and used once all its consumers have it. -/
def AtRest (rec' rdc q : Bool) (x : CapT) (p : Cap) : Prop :=
  ∃ r u, p.s1 = some { x with recDone := r, used := u } ∧ (rec' = false → r = false) ∧ (q = true → r = true) ∧ (u = true ↔ rdc = false ∧ (rec' = false ∨ r = true)) ∧ p.s2 = none

theorem moved_some {rec' rdc : Bool} {p : Cap} {x : CapT} (h1 : p.s1 = some x) (h2 : p.s2 = none) :
    p.moved rec' rdc = if x.taken rec' rdc then { p with s1 := some { x with used := true } } else p := by
  unfold Cap.moved
  rw [h1, h2]

theorem marked_some {rec' go : Bool} {p : Cap} {x : CapT} (h1 : p.s1 = some x) : p.marked rec' go = if x.unrec rec' && go then p.recorded x else p := by
  unfold Cap.marked
  rw [h1]

/-- A step of a unit that holds one capture, whose reader has not taken it. -/
theorem step_atRest {rec' rdc go r u : Bool} {x : CapT} {p : Cap} (hd : x.rdDone = false) (h1 : p.s1 = some { x with recDone := r, used := u }) (h2 : p.s2 = none)
    (hr : rec' = false → r = false) (hu : u = true → rdc = false ∧ (rec' = false ∨ r = true)) :
    AtRest rec' rdc (r || (rec' && !u && go)) x ((p.marked rec' go).moved rec' rdc) := by
  rw [marked_some h1]
  have hx : ∀ b v, CapT.taken rec' rdc { x with recDone := b, used := v } = (v || ((!rec' || b) && !rdc)) := fun b v => by
    unfold CapT.taken
    rw [show ({ x with recDone := b, used := v } : CapT).rdDone = false from hd, Bool.or_false]
  by_cases hg : (CapT.unrec rec' { x with recDone := r, used := u } && go) = true
  · rw [if_pos hg, moved_some (p := p.recorded _) (x := { x with recDone := true, used := u }) rfl h2, hx]
    unfold CapT.unrec at hg
    dsimp only at hg
    have hrec : rec' = true := by revert hg; cases rec' <;> simp
    have hun : u = false := by revert hg; cases u <;> simp
    subst hrec hun
    cases rdc with
    | false => exact ⟨true, true, rfl, nofun, fun _ => rfl, by decide, h2⟩
    | true => exact ⟨true, false, rfl, nofun, fun _ => rfl, by decide, h2⟩
  · rw [if_neg hg, moved_some h1 h2, hx]
    have hq : (r || (rec' && !u && go)) = true → r = true := by
      unfold CapT.unrec at hg
      revert hg
      cases r <;> cases rec' <;> cases u <;> cases go <;> simp
    by_cases ht : (u || ((!rec' || r) && !rdc)) = true
    · rw [if_pos ht]
      have hboth : rdc = false ∧ (rec' = false ∨ r = true) := by
        cases hv : u with
        | true => exact hu hv
        | false => revert ht; rw [hv]; cases rdc <;> cases rec' <;> cases r <;> simp
      exact ⟨r, true, rfl, hr, hq, iff_of_true rfl hboth, h2⟩
    · rw [if_neg ht]
      refine ⟨r, u, h1, hr, hq, iff_of_false (fun hv => ht (by rw [hv]; rfl)) (fun h => ht ?_), h2⟩
      obtain ⟨h3, h4⟩ := h
      rw [h3]
      rcases h4 with h4 | h4 <;> rw [h4] <;> cases u <;> simp

/-- A new capture comes to rest, recorded where its record goes at once. -/
theorem capPump_rests {s : State} {c : Fin 96} {k : Bool} {x : CapT} (hx : x.recDone = false ∧ x.rdDone = false ∧ x.used = false)
    (h1 : (capOf s.ch[c] k).s1 = some x) (h2 : (capOf s.ch[c] k).s2 = none) :
    AtRest (s.recIn c k) (s.rdcIn c k) (s.recIn c k && !s.recIn c (!k) && !s.atCeil) x (capOf (s.capPump c).ch[c] k) := by
  obtain ⟨hr0, hd, hu0⟩ := hx
  obtain ⟨v, ks, hp, hc, hr, hrd, ho, hq⟩ := capPump_begins s c k
  rw [hp, ← hr, ← hrd]
  have hx0 : x = { x with recDone := false, used := false } := by
    obtain ⟨t, rise, step, coarse, ang, rd, ru, us⟩ := x
    dsimp only at hr0 hu0
    rw [hr0, hu0]
  have h1' : (capOf v.ch[c] k).s1 = some { x with recDone := false, used := false } := by rw [hc, h1, ← hx0]
  have hfirst := step_atRest (rec' := v.recIn c k) (rdc := v.rdcIn c k) (go := v.capGoes c k) hd h1' (by rw [hc, h2]) (fun _ => rfl) nofun
  rw [← capStep_cap] at hfirst
  have hgo : (v.recIn c k && !s.recIn c (!k) && !s.atCeil) = true → (false || (v.recIn c k && !false && v.capGoes c k)) = true := fun h => by
    rw [Bool.and_eq_true, Bool.and_eq_true, Bool.not_eq_true', Bool.not_eq_true'] at h
    obtain ⟨⟨ha, hb⟩, hd⟩ := h
    rw [ha, capGoes_of (h1'.trans rfl) (by rw [atCeil_congr (hq hb), hd]) (by rw [ho, hb])]
    rfl
  obtain ⟨r, u, a1, a2, a3, a4, a5⟩ := hfirst
  have hinit : AtRest ((v.capStep c k).recIn c k) ((v.capStep c k).rdcIn c k) (v.recIn c k && !s.recIn c (!k) && !s.atCeil) x (capOf (v.capStep c k).ch[c] k) := by
    rw [recIn_capStep, rdcIn_capStep]
    exact ⟨r, u, a1, a2, fun h => a3 (hgo h), a4, a5⟩
  have hfin := capSteps_keep (s := v.capStep c k) (fun p go _ ⟨r, u, b1, b2, b3, b4, b5⟩ => by
    obtain ⟨r', u', c1, c2, c3, c4, c5⟩ := step_atRest (go := go) hd b1 b5 b2 b4.1
    exact ⟨r', u', c1, c2, fun h => c3 (by rw [b3 h]; rfl), c4, c5⟩) ks hinit
  rwa [recIn_capStep, rdcIn_capStep] at hfin

/-- Stage 1 waits for its reader: its record may go, but it stays. -/
def Waits (y : CapT) (z : Option CapT) (p : Cap) : Prop := ∃ r, p.s1 = some { y with recDone := r } ∧ p.s2 = z

theorem step_waits {rec' go : Bool} {y : CapT} {z : Option CapT} {p : Cap} (hy : y.rdDone = false ∧ y.used = false) (h : Waits y z p) :
    Waits y z ((p.marked rec' go).moved rec' true) := by
  have hmove : ∀ q : Cap, Waits y z q → q.moved rec' true = q := fun q ⟨r, h1, _⟩ => by
    unfold Cap.moved
    rw [h1]
    refine if_neg (fun ht => ?_)
    unfold CapT.taken at ht
    dsimp only at ht
    rw [hy.1, hy.2] at ht
    revert ht
    cases rec' <;> cases r <;> decide
  have hm : Waits y z (p.marked rec' go) := by
    obtain ⟨r, h1, h2⟩ := h
    rw [marked_some h1]
    by_cases hg : (CapT.unrec rec' { y with recDone := r } && go) = true
    · rw [if_pos hg]; exact ⟨true, rfl, h2⟩
    · rw [if_neg hg]; exact ⟨r, h1, h2⟩
  rwa [hmove _ hm]

theorem capPump_waits {s : State} {c : Fin 96} {k : Bool} {y : CapT} (hrdc : s.rdcIn c k = true) (hy : y.rdDone = false ∧ y.used = false)
    (h1 : (capOf s.ch[c] k).s1 = some y) : Waits y (capOf s.ch[c] k).s2 (capOf (s.capPump c).ch[c] k) :=
  capSteps_keep (Q := Waits y (capOf s.ch[c] k).s2) (fun p go _ hp => by rw [hrdc]; exact step_waits hy hp) _ ⟨y.recDone, h1, rfl⟩

/-- At the ceiling, or with nothing to record, a capture that is not taken stays. -/
theorem capPump_stays {s : State} {c : Fin 96} {k : Bool} {y : CapT} (h1 : (capOf s.ch[c] k).s1 = some y) (ht : y.taken (s.recIn c k) (s.rdcIn c k) = false)
    (hg : y.unrec (s.recIn c k) = false ∨ s.atCeil = true) : capOf (s.capPump c).ch[c] k = capOf s.ch[c] k := by
  refine capPump_fixed (fun go hgo => ?_) ?_
  · rw [marked_some h1]
    refine if_neg (fun h => ?_)
    rw [Bool.and_eq_true] at h
    rcases hg with hg | hg
    · rw [hg] at h; exact Bool.noConfusion h.1
    · rw [hgo hg] at h; exact Bool.noConfusion h.2
  · unfold Cap.moved
    rw [h1]
    exact if_neg (fun h => Bool.noConfusion (ht.symm.trans h))

/-- A capture that waits only for a record writer that takes it gives its stage to the next one. -/
theorem capPump_gives {s : State} {c : Fin 96} {k : Bool} {x y : CapT} (h1 : (capOf s.ch[c] k).s1 = some y) (h2 : (capOf s.ch[c] k).s2 = some x)
    (hu : y.unrec (s.recIn c k) = true) (hrdc : s.rdcIn c k = false) (hc : s.atCeil = false) (ho : s.recIn c (!k) = false) :
    HoldsOne x (capOf (s.capPump c).ch[c] k) := by
  obtain ⟨v, ks, hp, hcap, hr, hrd, ho', hq⟩ := capPump_begins s c k
  rw [hp]
  refine capSteps_holdOne ks ?_
  rw [← hcap] at h1 h2
  rw [← hr] at hu
  rw [capStep_cap, capGoes_of h1 (by rw [atCeil_congr (hq ho), hc]) (by rw [ho', ho]), marked_some h1, hu, hrd, hrdc]
  unfold Cap.moved
  rw [if_pos (by decide)]
  have ht : CapT.taken (v.recIn c k) false { y with recDone := true } = true := by
    unfold CapT.taken
    cases v.recIn c k <;> cases y.used <;> rfl
  show HoldsOne x (if CapT.taken (v.recIn c k) false { y with recDone := true } then _ else _)
  rw [if_pos ht]
  show HoldsOne x (match (capOf v.ch[c] k).s2 with | none => _ | some z => _)
  rw [h2]
  exact ⟨x.recDone, x.used, rfl, rfl⟩

/-- A unit at which a step changes nothing is at rest. -/
theorem capPump_other_rests {s u : State} {c : Fin 96} {k : Bool} (hs : s.capStep c k = s) (hr : s.recIn c k = false) (hcap : capOf u.ch[c] k = capOf s.ch[c] k)
    (h1 : u.recIn c k = s.recIn c k) (h2 : u.rdcIn c k = s.rdcIn c k) : capOf (u.capPump c).ch[c] k = capOf s.ch[c] k := by
  have hm : ∀ (p : Cap) go, p.marked false go = p := fun p go => by
    unfold Cap.marked
    split
    · rfl
    · exact if_neg (by unfold CapT.unrec; simp)
  have hv : (capOf s.ch[c] k).moved (s.recIn c k) (s.rdcIn c k) = capOf s.ch[c] k := by
    have h := capStep_cap s c k
    rw [hs, hr, hm] at h
    rw [hr]
    exact h.symm
  rw [← hcap]
  refine capPump_fixed (fun go _ => by rw [h1, hr, hm]) ?_
  rw [hcap, h1, h2, hv]

end Sys2Proof.Machine
end

section
/-!
SUPPORT. An edge at a capture unit: the stage that it enters, and what its counts, its image and its wakes leave of the unit (R74 to R76).
-/
set_option Elab.async false
namespace Sys2Proof.Machine
open Sys2Proof

/-! ### Counts and images leave the captures -/

/-- The captures of a channel have stayed. -/
def CapStays (c : Fin 96) (s t : State) : Prop := ∀ k, capOf t.ch[c] k = capOf s.ch[c] k

theorem CapStays.trans {c : Fin 96} {s t u : State} (h : CapStays c s t) (h' : CapStays c t u) : CapStays c s u := fun k => (h' k).trans (h k)

theorem CapStays.of_ch {c : Fin 96} {s t : State} (h : t.ch = s.ch) : CapStays c s t := fun k => by rw [h]

theorem capStays_modCh {c d : Fin 96} (s : State) {f : Channel → Channel} (hf : ∀ x, (f x).cap0 = x.cap0 ∧ (f x).cap1 = x.cap1) : CapStays c s (s.modCh d f) := by
  intro k
  by_cases h : c = d
  · subst h
    rw [ch_modCh_same]
    cases k
    · exact (hf _).1
    · exact (hf _).2
  · rw [ch_modCh_ne _ _ h]

theorem countNow_caps (s : State) (c d : Fin 96) (src : Nat) : CapStays c s (s.countNow d src) := by
  unfold State.countNow
  dsimp only
  have h1 : ∀ v t, CapStays c s (s.modCh d (fun x => { x with cnt := v, cntTick := t })) := fun _ _ => capStays_modCh s (fun _ => ⟨rfl, rfl⟩)
  have h2 : ∀ (u : State) w, CapStays c u (u.modCh (pairOf d) (fun x => { x with cnt := w })) := fun u _ => capStays_modCh u (fun _ => ⟨rfl, rfl⟩)
  split
  · exact .of_ch rfl
  · split
    · exact h1 _ _
    · split
      · exact pin_ite (((h1 _ _).trans (h2 _ _)).trans (.of_ch (evt_ch _ _))) ((h1 _ _).trans (h2 _ _))
      · exact (h1 _ _).trans (.of_ch (evt_ch _ _))

theorem count_caps (s : State) (c d : Fin 96) (src : Nat) : CapStays c s (s.count d src) :=
  (capStays_modCh s (f := fun x => { x with evTick := s.spine.tick, evMask := s.eventsNow d ||| 2 ^ src }) (fun _ => ⟨rfl, rfl⟩)).trans (countNow_caps _ c d src)

theorem latch_caps (s : State) (c d : Fin 96) (cause : BitVec 4) (t : Nat) : CapStays c s (s.latch d cause t) := by
  unfold State.latch
  dsimp only
  split
  · split
    · exact capStays_modCh s (fun _ => ⟨rfl, rfl⟩)
    · exact capStays_modCh s (fun _ => ⟨rfl, rfl⟩)
  · exact capStays_modCh s (fun _ => ⟨rfl, rfl⟩)

/-- What follows an edge behind its stages. -/
def edgeTold (u : State) (d : Fin 96) (k : Bool) (t due : Nat) : State :=
  ((capLatched (u.count d (7 + kNat k)) d k t).convEvent d (2 + kNat k) due).wakeCh d (2 + kNat k)

theorem edgeTold_caps (u : State) (d : Fin 96) (k : Bool) (t due : Nat) : CapStays d u (edgeTold u d k t due) := by
  have h2 := count_caps u d d (7 + kNat k)
  unfold edgeTold
  generalize u.count d (7 + kNat k) = v at h2
  have h3 : CapStays d v (capLatched v d k t) := pin_ite (P := CapStays d v) (latch_caps v d d _ _) (.of_ch rfl)
  generalize capLatched v d k t = w at h3
  exact (h2.trans h3).trans (.of_ch (convWake_within w d _ _ _).besides_ch)

/-! ### What is counted of a drop stays -/

theorem reg_of_regs {s t : State} (h : t.regs = s.regs) (o : Nat) : t.reg o = s.reg o := by
  unfold State.reg
  rw [h]


/-- A drop of a unit is counted, and reported. -/
def DropTold (c : Fin 96) (k : Bool) (v : Nat) (t : State) : Prop := t.rget (F.CHc_CAPk_STAT_DROP c (kNat k)) = v ∧ t.ron (capDropEvt c k) = true

theorem capDropEvt_reg (c : Fin 96) (k : Bool) : (capDropEvt c k).reg = R.CHc_EVT c := by cases k <;> rfl

theorem dropRegs_page (c : Fin 96) (k : Bool) : reportReg (R.CHc_CAPk_STAT c (kNat k)) = false ∧ reportReg (R.CHc_EVT c) = false :=
  ⟨reportReg_ch (by unfold R.CHc_CAPk_STAT; omega), reportReg_ch (by unfold R.CHc_EVT; omega)⟩

theorem capStat_ne_evt (c d : Fin 96) (k : Bool) : R.CHc_CAPk_STAT c (kNat k) ≠ R.CHc_EVT d := by
  have := show kNat k ≤ 1 by cases k <;> decide
  unfold R.CHc_CAPk_STAT R.CHc_EVT
  omega

theorem DropTold.of_regs {c : Fin 96} {k : Bool} {v : Nat} {s t : State} (h : DropTold c k v s)
    (hr : t.reg (R.CHc_CAPk_STAT c (kNat k)) = s.reg (R.CHc_CAPk_STAT c (kNat k)) ∧ t.reg (R.CHc_EVT c) = s.reg (R.CHc_EVT c)) : DropTold c k v t :=
  ⟨(rget_of_reg hr.1).trans h.1, (ron_of_reg (by rw [capDropEvt_reg]; exact hr.2)).trans h.2⟩

theorem DropTold.evtWrap {c : Fin 96} {k : Bool} {v : Nat} {s : State} (h : DropTold c k v s) (d : Fin 96) : DropTold c k v (s.evt (F.CHc_EVT_CNT_WRAP_S d)) := by
  refine ⟨(rget_evt_ne s (dropRegs_page c k).1 (capStat_ne_evt c d k)).trans h.1, ?_⟩
  by_cases hd : c = d
  · subst hd
    refine (ron_of_rget_eq (rget_evt_apart s (by rw [capDropEvt_reg]; exact (dropRegs_page c k).2) (by decide : 6 + 1 ≤ 32) ?_ ?_)).trans h.2
    · exact capDropEvt_reg c k
    · cases k
      · exact .inl (by decide : 4 + 1 ≤ 6)
      · exact .inl (by decide : 5 + 1 ≤ 6)
  · refine (ron_of_rget_eq (rget_evt_ne s (by rw [capDropEvt_reg]; exact (dropRegs_page c k).2) ?_)).trans h.2
    rw [capDropEvt_reg]
    show R.CHc_EVT c ≠ R.CHc_EVT d
    unfold R.CHc_EVT
    omega

theorem DropTold.count {c : Fin 96} {k : Bool} {v : Nat} {s : State} (h : DropTold c k v s) (d : Fin 96) (src : Nat) : DropTold c k v (s.count d src) := by
  have h0 : DropTold c k v (noted s d src) := h
  show DropTold c k v ((noted s d src).countNow d src)
  generalize noted s d src = u at h0
  unfold State.countNow
  dsimp only
  split
  · exact h0
  · split
    · exact h0
    · split
      · exact pin_ite (DropTold.evtWrap (s := (u.modCh d _).modCh (pairOf d) _) h0 d) h0
      · exact DropTold.evtWrap (s := u.modCh d _) h0 d

theorem capLatched_regs (s : State) (d : Fin 96) (k : Bool) (t : Nat) : (capLatched s d k t).regs = s.regs :=
  pin_ite (P := fun u : State => u.regs = s.regs) (latch_regs s d _ t) rfl

theorem PinReg.besides_lies {o : Nat} (h : PinReg .besides o) : o < 0x100000 := by
  cases h
  case chEvt h => exact h.elim
  case chErr h => exact h.elim
  case fifoStat h => exact h.elim
  case tgtCtl h => exact h.elim
  case lastSub h => exact h.elim
  case cmpLate h => exact h.elim
  case capStat h => exact h.elim
  case ec h => have := reportReg_page h; omega
  all_goals
    simp only [R.ORYn_EVT, R.ORYn_STAT, R.ORYn_ERRCNT, R.ORYn_ERRCNT2, R.ORYn_IDXDIFF, R.CV_EVT, R.CVk_CNT, R.CVk_LAST, R.CVBUFb_WRIDX, R.CVBUFb_DROP, R.CVBUFb_BASE,
      R.Ge_EVT, R.Ge_LAT_MAX, R.Ge_LATE_CNT, R.Ge_EPH_CNT, R.SPN_EVT, R.CFG_EVT]
    omega

theorem drop_not_besides (c : Fin 96) (k : Bool) : ¬ PinReg .besides (R.CHc_CAPk_STAT c (kNat k)) ∧ ¬ PinReg .besides (R.CHc_EVT c) := by
  constructor <;>
  · intro h
    have := h.besides_lies
    simp only [R.CHc_CAPk_STAT, R.CHc_EVT] at this
    omega

theorem DropTold.told {d : Fin 96} {k : Bool} {v : Nat} {u : State} (h : DropTold d k v u) (t due : Nat) : DropTold d k v (edgeTold u d k t due) := by
  have h2 := h.count d (7 + kNat k)
  unfold edgeTold
  generalize u.count d (7 + kNat k) = m at h2
  have h3 : DropTold d k v (capLatched m d k t) := h2.of_regs ⟨reg_of_regs (capLatched_regs m d k t) _, reg_of_regs (capLatched_regs m d k t) _⟩
  generalize capLatched m d k t = w at h3
  have hw := convWake_within w d (2 + kNat k) due (2 + kNat k)
  exact h3.of_regs ⟨hw.regs _ (drop_not_besides d k).1, hw.regs _ (drop_not_besides d k).2⟩

/-! ### The stage that a capture enters -/

theorem capEnter_first {s : State} {c : Fin 96} {k : Bool} {p : Cap} (hc : s.capConsumed c k = true) (h2 : p.s2 = none) (x : CapT) :
    s.capEnter c k p x = s.modCh c (fun y => setCap y k { p with s1 := some x, entered := some s.spine.tick, older := p.s1 }) := if_pos ⟨hc, h2⟩

theorem capEnter_second {s : State} {c : Fin 96} {k : Bool} {p : Cap} (hc : s.capConsumed c k = false) (h2 : p.s2 = none) (x : CapT) :
    s.capEnter c k p x = s.modCh c (fun y => setCap y k { p with s2 := some x }) :=
  (if_neg (fun h => Bool.noConfusion (hc.symm.trans h.1))).trans (if_pos h2)

theorem capEnter_dropped {s : State} {c : Fin 96} {k : Bool} {p : Cap} (h2 : p.s2 ≠ none) (x : CapT) :
    s.capEnter c k p x = ((s.modCh c (fun y => setCap y k { p with dropped := p.dropped + 1 })).rsat (F.CHc_CAPk_STAT_DROP c (kNat k)) 1).evt (capDropEvt c k) :=
  (if_neg (fun h => h2 h.2)).trans (if_neg h2)

/-- Where a capture enters, the other unit, the configuration of both and the records stay. -/
structure Enters (s t : State) (c : Fin 96) (k : Bool) : Prop where
  other : capOf t.ch[c] (!k) = capOf s.ch[c] (!k)
  recIn : ∀ k', t.recIn c k' = s.recIn c k'
  rdcIn : ∀ k', t.rdcIn c k' = s.rdcIn c k'
  recq : t.recq = s.recq

theorem enters_modCap (s : State) (c : Fin 96) (k : Bool) (p : Cap) : Enters s (s.modCh c (fun y => setCap y k p)) c k :=
  ⟨capOf_modCap_not s c k p, fun _ => rfl, fun _ => rfl, rfl⟩

theorem capCfg_ne_drop (c : Fin 96) (k k' : Bool) : R.CHc_CAPk_CFG c (kNat k') ≠ R.CHc_CAPk_STAT c (kNat k) ∧ R.CHc_CAPk_CFG c (kNat k') ≠ (capDropEvt c k).reg := by
  have h1 := show kNat k ≤ 1 by cases k <;> decide
  have h2 := show kNat k' ≤ 1 by cases k' <;> decide
  rw [capDropEvt_reg]
  unfold R.CHc_CAPk_CFG R.CHc_CAPk_STAT R.CHc_EVT
  omega

/-- A dropped capture is counted and reported, and its unit holds what it held. -/
theorem dropped_shows (s : State) (c : Fin 96) (k : Bool) (p : Cap) :
    let t := ((s.modCh c (fun y => setCap y k p)).rsat (F.CHc_CAPk_STAT_DROP c (kNat k)) 1).evt (capDropEvt c k)
    Enters s t c k ∧ capOf t.ch[c] k = p ∧
      DropTold c k (min (s.rget (F.CHc_CAPk_STAT_DROP c (kNat k)) + 1) (2 ^ (F.CHc_CAPk_STAT_DROP c (kNat k)).width - 1)) t := by
  have h0 := enters_modCap s c k p
  have hp := capOf_modCap s c k p
  have hv : (s.modCh c (fun y => setCap y k p)).rget (F.CHc_CAPk_STAT_DROP c (kNat k)) = s.rget (F.CHc_CAPk_STAT_DROP c (kNat k)) := rfl
  dsimp only
  rw [← hv]
  generalize s.modCh c (fun y => setCap y k p) = u at h0 hp
  have hch : ((u.rsat (F.CHc_CAPk_STAT_DROP c (kNat k)) 1).evt (capDropEvt c k)).ch = u.ch := (evt_ch _ _).trans (rsat_ch _ _ _)
  have hcfg : ∀ k', ((u.rsat (F.CHc_CAPk_STAT_DROP c (kNat k)) 1).evt (capDropEvt c k)).reg (R.CHc_CAPk_CFG c (kNat k')) = u.reg (R.CHc_CAPk_CFG c (kNat k')) := fun k' =>
    (reg_evt _ _ (recCfg_page c k') (capCfg_ne_drop c k k').2).trans (reg_rput_ne _ _ (capCfg_ne_drop c k k').1)
  have hne : R.CHc_CAPk_STAT c (kNat k) ≠ (capDropEvt c k).reg := by rw [capDropEvt_reg]; exact capStat_ne_evt c c k
  refine ⟨⟨?_, fun k' => ?_, fun k' => ?_, ?_⟩, ?_, ?_, ?_⟩
  · rw [hch]; exact h0.other
  · exact (ron_of_reg (hcfg k')).trans (h0.recIn k')
  · exact (ron_of_reg (hcfg k')).trans (h0.rdcIn k')
  · rw [evt_recq]; exact h0.recq
  · rw [hch]; exact hp
  · exact (rget_evt_ne _ (dropRegs_page c k).1 hne).trans (rget_rsat_same _ _ _ (by decide : 16 + 8 ≤ 32))
  · exact ron_evt _ _ (by cases k <;> rfl) (by cases k; exacts [(by decide : 4 + 1 ≤ 32), (by decide : 5 + 1 ≤ 32)]) (by rw [capDropEvt_reg]; exact (dropRegs_page c k).2)

theorem pumpRecord_regs (s : State) (c : Fin 96) (k : Bool) {o : Nat} (ho : reportReg o = false) : (s.capStep c k).reg o = s.reg o := by
  have hrec : (s.capRecord c k).reg o = s.reg o := by
    rcases capRecord_eq s c k with h | ⟨_, _, _, h⟩
    · rw [h]
    · exact h.regs o ho List.not_mem_nil
  rcases capStep_eq s c k with h | ⟨p, h⟩
  · rw [h, hrec]
  · rw [h, ← hrec]; rfl

theorem capPump_regs (s : State) (c : Fin 96) {o : Nat} (ho : reportReg o = false) : (s.capPump c).reg o = s.reg o :=
  List.foldlRecOn (motive := fun t : State => t.reg o = s.reg o) _ _ rfl (fun _ h k _ => (pumpRecord_regs _ c k ho).trans h)

theorem capTaken_eq (s : State) (c : Fin 96) (k : Bool) (y : CapT) : s.capTaken c k y = y.taken (s.recIn c k) (s.rdcIn c k) := rfl
theorem capUnrec_eq (s : State) (c : Fin 96) (k : Bool) (y : CapT) : s.capUnrec c k y = y.unrec (s.recIn c k) := rfl

theorem capConsumed_some {s : State} {c : Fin 96} {k : Bool} {y : CapT} (h : (capOf s.ch[c] k).s1 = some y) : s.capConsumed c k = s.capTaken c k y := by
  unfold State.capConsumed
  rw [h]

theorem CapT.isCap_self (y : CapT) {p : Option CapT} (h : p = some y) : isCap p y := ⟨y.recDone, y.rdDone, y.used, h⟩

theorem Waits.isCap {y : CapT} {z : Option CapT} {p : Cap} (h : Waits y z p) : isCap p.s1 y ∧ p.s2 = z := by
  obtain ⟨r, h1, h2⟩ := h
  exact ⟨⟨r, y.rdDone, y.used, h1⟩, h2⟩

/-- A capture that stays keeps its stage, and what stands behind it. -/
theorem capPump_leaves {s u : State} {c : Fin 96} {k : Bool} {y : CapT} (he : Enters s u c k) (hs : stays s c k y) (h1 : (capOf u.ch[c] k).s1 = some y) :
    isCap (capOf (u.capPump c).ch[c] k).s1 y ∧ (capOf (u.capPump c).ch[c] k).s2 = (capOf u.ch[c] k).s2 ∧
      (s.capUnrec c k y = false ∨ s.atCeil = true → (capOf (u.capPump c).ch[c] k).dropped = (capOf u.ch[c] k).dropped) := by
  have hall : y.taken (u.recIn c k) (u.rdcIn c k) = false → s.capUnrec c k y = false ∨ s.atCeil = true → capOf (u.capPump c).ch[c] k = capOf u.ch[c] k := fun ht hq =>
    capPump_stays h1 ht (hq.imp (fun h => by rw [he.recIn]; exact h) (fun h => by rw [atCeil_congr he.recq, h]))
  rcases hs with ⟨hrdc, hy⟩ | ⟨ht, hc⟩
  · obtain ⟨ha, hb⟩ := (capPump_waits (by rw [he.rdcIn]; exact hrdc) hy h1).isCap
    refine ⟨ha, hb, fun hq => ?_⟩
    have ht : y.taken (u.recIn c k) (u.rdcIn c k) = false := by
      rw [he.rdcIn, show s.rdcIn c k = true from hrdc]
      unfold CapT.taken
      rw [hy.1, hy.2]
      simp
    rw [hall ht hq]
  · have h := hall (by rw [he.recIn, he.rdcIn]; exact ht) (.inr hc)
    rw [h]
    exact ⟨y.isCap_self h1, rfl, fun _ => rfl⟩

/-- What an edge that a unit takes leaves of the unit. -/
def EdgeStages (s t : State) (c : Fin 96) (k : Bool) (at' : Nat) (x : CapT) : Prop :=
  let q := capOf s.ch[c] k
  (capOf t.ch[c] k).lastEdge = some at' ∧
  (s.ron (F.CHc_CAPk_CFG_REC c (kNat !k)) = false → s.capStep c (!k) = s → capOf t.ch[c] (!k) = capOf s.ch[c] (!k)) ∧
  (s.capConsumed c k = true → q.s2 = none →
    (∃ r u, (capOf t.ch[c] k).s1 = some { x with recDone := r, used := u } ∧ (s.recIn c k = false → r = false) ∧
      (s.recIn c k = true → s.ron (F.CHc_CAPk_CFG_REC c (kNat !k)) = false → s.atCeil = false → r = true) ∧
      (u = true ↔ s.rdcIn c k = false ∧ (s.recIn c k = false ∨ r = true))) ∧
    (capOf t.ch[c] k).s2 = none) ∧
  (∀ y, q.s1 = some y → s.capConsumed c k = false → q.s2 = none → stays s c k y →
    isCap (capOf t.ch[c] k).s1 y ∧ (capOf t.ch[c] k).s2 = some x) ∧
  (∀ y, q.s1 = some y → s.capConsumed c k = false → q.s2 = none → s.rdcIn c k = false → s.atCeil = false →
    s.ron (F.CHc_CAPk_CFG_REC c (kNat !k)) = false →
    isCap (capOf t.ch[c] k).s1 x ∧ (capOf t.ch[c] k).s2 = none) ∧
  (∀ y, q.s1 = some y → q.s2.isSome = true → stays s c k y →
    isCap (capOf t.ch[c] k).s1 y ∧ (capOf t.ch[c] k).s2 = q.s2 ∧
    (s.capUnrec c k y = false ∨ s.atCeil = true → (capOf t.ch[c] k).dropped = q.dropped + 1)) ∧
  (q.s2.isSome = true → DropTold c k (min (s.rget (F.CHc_CAPk_STAT_DROP c (kNat k)) + 1) (2 ^ (F.CHc_CAPk_STAT_DROP c (kNat k)).width - 1)) t)

/-- The unit when a capture enters it. -/
def Cap.edged (q : Cap) (at' : Nat) : Cap := { q with mark := false, lastEdge := some at' }

theorem capEnter_enters (s : State) (c : Fin 96) (k : Bool) (at' : Nat) (x : CapT) :
    Enters s (s.capEnter c k ((capOf s.ch[c] k).edged at') x) c k ∧ (capOf (s.capEnter c k ((capOf s.ch[c] k).edged at') x).ch[c] k).lastEdge = some at' := by
  by_cases h2 : (capOf s.ch[c] k).s2 = none
  · cases hc : s.capConsumed c k with
    | true =>
      rw [capEnter_first (p := (capOf s.ch[c] k).edged at') hc h2]
      exact ⟨enters_modCap _ _ _ _, congrArg Cap.lastEdge (capOf_modCap _ _ _ _)⟩
    | false =>
      rw [capEnter_second (p := (capOf s.ch[c] k).edged at') hc h2]
      exact ⟨enters_modCap _ _ _ _, congrArg Cap.lastEdge (capOf_modCap _ _ _ _)⟩
  · rw [capEnter_dropped (p := (capOf s.ch[c] k).edged at') h2]
    obtain ⟨h, hp, -⟩ := dropped_shows s c k { (capOf s.ch[c] k).edged at' with dropped := ((capOf s.ch[c] k).edged at').dropped + 1 }
    exact ⟨h, congrArg Cap.lastEdge hp⟩

theorem entered_first {s : State} {c : Fin 96} {k : Bool} (at' : Nat) {x : CapT} (hx : x.recDone = false ∧ x.rdDone = false ∧ x.used = false)
    (hc : s.capConsumed c k = true) (h2 : (capOf s.ch[c] k).s2 = none) :
    AtRest (s.recIn c k) (s.rdcIn c k) (s.recIn c k && !s.recIn c (!k) && !s.atCeil) x (capOf ((s.capEnter c k ((capOf s.ch[c] k).edged at') x).capPump c).ch[c] k) := by
  obtain ⟨he, -⟩ := capEnter_enters s c k at' x
  have hcap : capOf (s.capEnter c k ((capOf s.ch[c] k).edged at') x).ch[c] k =
      { (capOf s.ch[c] k).edged at' with s1 := some x, entered := some s.spine.tick, older := ((capOf s.ch[c] k).edged at').s1 } := by
    rw [capEnter_first (p := (capOf s.ch[c] k).edged at') hc h2, capOf_modCap]
  generalize s.capEnter c k ((capOf s.ch[c] k).edged at') x = u at he hcap
  have h := capPump_rests (s := u) (c := c) (k := k) hx (by rw [hcap]) (by rw [hcap]; exact h2)
  rwa [he.recIn, he.rdcIn, he.recIn, atCeil_congr he.recq] at h

theorem entered_second {s : State} {c : Fin 96} {k : Bool} (at' : Nat) (x : CapT) {y : CapT} (h1 : (capOf s.ch[c] k).s1 = some y)
    (hc : s.capConsumed c k = false) (h2 : (capOf s.ch[c] k).s2 = none) :
    (stays s c k y → isCap (capOf ((s.capEnter c k ((capOf s.ch[c] k).edged at') x).capPump c).ch[c] k).s1 y ∧
      (capOf ((s.capEnter c k ((capOf s.ch[c] k).edged at') x).capPump c).ch[c] k).s2 = some x) ∧
    (s.rdcIn c k = false → s.atCeil = false → s.recIn c (!k) = false →
      HoldsOne x (capOf ((s.capEnter c k ((capOf s.ch[c] k).edged at') x).capPump c).ch[c] k)) := by
  obtain ⟨he, -⟩ := capEnter_enters s c k at' x
  have hcap : capOf (s.capEnter c k ((capOf s.ch[c] k).edged at') x).ch[c] k = { (capOf s.ch[c] k).edged at' with s2 := some x } := by
    rw [capEnter_second (p := (capOf s.ch[c] k).edged at') hc h2, capOf_modCap]
  generalize s.capEnter c k ((capOf s.ch[c] k).edged at') x = u at he hcap
  have h1' : (capOf u.ch[c] k).s1 = some y := by rw [hcap]; exact h1
  have h2' : (capOf u.ch[c] k).s2 = some x := by rw [hcap]
  refine ⟨fun hs => ?_, fun hr hc' ho => ?_⟩
  · obtain ⟨ha, hb, -⟩ := capPump_leaves he hs h1'
    exact ⟨ha, hb.trans h2'⟩
  · refine capPump_gives h1' h2' ?_ (by rw [he.rdcIn, hr]) (by rw [atCeil_congr he.recq, hc']) (by rw [he.recIn, ho])
    rw [capConsumed_some h1, capTaken_eq, hr] at hc
    rw [he.recIn]
    unfold CapT.taken at hc
    unfold CapT.unrec
    revert hc
    cases s.recIn c k <;> cases y.recDone <;> cases y.used <;> simp

theorem entered_dropped {s : State} {c : Fin 96} {k : Bool} (at' : Nat) (x : CapT) {y : CapT} (h1 : (capOf s.ch[c] k).s1 = some y)
    (h2 : (capOf s.ch[c] k).s2 ≠ none) (hs : stays s c k y) :
    isCap (capOf ((s.capEnter c k ((capOf s.ch[c] k).edged at') x).capPump c).ch[c] k).s1 y ∧
    (capOf ((s.capEnter c k ((capOf s.ch[c] k).edged at') x).capPump c).ch[c] k).s2 = (capOf s.ch[c] k).s2 ∧
    (s.capUnrec c k y = false ∨ s.atCeil = true →
      (capOf ((s.capEnter c k ((capOf s.ch[c] k).edged at') x).capPump c).ch[c] k).dropped = (capOf s.ch[c] k).dropped + 1) := by
  rw [capEnter_dropped (p := (capOf s.ch[c] k).edged at') h2]
  obtain ⟨he, hcap, -⟩ := dropped_shows s c k { (capOf s.ch[c] k).edged at' with dropped := ((capOf s.ch[c] k).edged at').dropped + 1 }
  generalize ((s.modCh c _).rsat _ 1).evt _ = u at he hcap
  obtain ⟨ha, hb, hd⟩ := capPump_leaves he hs (by rw [hcap]; exact h1)
  exact ⟨ha, hb.trans (by rw [hcap]; rfl), fun hq => (hd hq).trans (by rw [hcap]; rfl)⟩

theorem entered_told {s : State} {c : Fin 96} {k : Bool} (at' : Nat) (x : CapT) (h2 : (capOf s.ch[c] k).s2 ≠ none) :
    DropTold c k (min (s.rget (F.CHc_CAPk_STAT_DROP c (kNat k)) + 1) (2 ^ (F.CHc_CAPk_STAT_DROP c (kNat k)).width - 1))
      ((s.capEnter c k ((capOf s.ch[c] k).edged at') x).capPump c) := by
  rw [capEnter_dropped (p := (capOf s.ch[c] k).edged at') h2]
  obtain ⟨-, -, ht⟩ := dropped_shows s c k { (capOf s.ch[c] k).edged at' with dropped := ((capOf s.ch[c] k).edged at').dropped + 1 }
  exact ht.of_regs ⟨capPump_regs _ c (dropRegs_page c k).1, capPump_regs _ c (dropRegs_page c k).2⟩

theorem entered_stages (s : State) (c : Fin 96) (k rise : Bool) (t : Nat) (step : Bool) (at' due : Nat) :
    EdgeStages s (edgeTold (staged s c k rise t step at') c k t due) c k at' (edgeCap s c k rise t step) := by
  have hx : (edgeCap s c k rise t step).recDone = false ∧ (edgeCap s c k rise t step).rdDone = false ∧ (edgeCap s c k rise t step).used = false := ⟨rfl, rfl, rfl⟩
  have hst : staged s c k rise t step at' = (s.capEnter c k ((capOf s.ch[c] k).edged at') (edgeCap s c k rise t step)).capPump c := rfl
  rw [hst]
  generalize edgeCap s c k rise t step = x at hx
  have hcap := edgeTold_caps ((s.capEnter c k ((capOf s.ch[c] k).edged at') x).capPump c) c k t due
  obtain ⟨he, hl⟩ := capEnter_enters s c k at' x
  unfold EdgeStages
  dsimp only
  rw [hcap k, hcap (!k)]
  refine ⟨(capPump_keeps_lastEdge _ _ _).trans hl, fun hr hs => ?_, fun hc h2 => ?_, fun y h1 hc h2 hs => (entered_second at' x h1 hc h2).1 hs,
    fun y h1 hc h2 hr hce ho => ((entered_second at' x h1 hc h2).2 hr hce ho).isCap, fun y h1 h2 hs => ?_, fun h2 => ?_⟩
  · exact capPump_other_rests hs hr he.other (he.recIn _) (he.rdcIn _)
  · obtain ⟨r, u, a1, a2, a3, a4, a5⟩ := entered_first at' hx hc h2
    refine ⟨⟨r, u, a1, a2, fun b1 b2 b3 => a3 ?_, a4⟩, a5⟩
    rw [b1, show s.recIn c (!k) = false from b2, b3]
    rfl
  · exact entered_dropped at' x h1 (fun h => by rw [h] at h2; cases h2) hs
  · exact (entered_told at' x (fun h => by rw [h] at h2; cases h2)).told t due

theorem exec_capture {s : State} (he : s.takesEvents = true) {c : Fin 96} {k rise : Bool} (hb : s.banks[bankOf (capBall s c k)].supply ≠ 0)
    (ht : s.capTakes c k rise = true) (pos : Fin 64) : exec (.capture c k rise pos) s =
      .next (s.capEdge c k rise (s.ballStamp (capBall s c k) pos).1 (s.ballStamp (capBall s c k) pos).2 (s.spine.tick * 64 + pos.val)) :=
  (event_open he (fun s => if s.banks[bankOf (capBall s c k)].supply ≠ 0 ∧ s.capTakes c k rise then
    s.capEdge c k rise (s.ballStamp (capBall s c k) pos).1 (s.ballStamp (capBall s c k) pos).2 (s.tickPos pos) else s)).trans
    (congrArg Host.Outcome.next (if_pos ⟨hb, ht⟩))

end Sys2Proof.Machine
end

section
set_option Elab.async false
namespace Sys2Proof
open Sys2Proof.Machine

/-- Settles O19, by the stage that a capture enters and by how its unit then comes to rest; its counts, its image and its wakes leave the unit. -/
theorem capturesEnterTheirStages : Obligations.CapturesEnterTheirStages := by
  intro c k rise pos s he hb ht q stamp at' x rec' rdc
  have hx := exec_capture he hb ht pos
  refine ⟨fun ⟨e, h1, h2⟩ => ?_, fun hlive => ?_⟩
  · have hd : deadEdge (capOf s.ch[c] k) at' = true := by
      unfold deadEdge
      rw [show (capOf s.ch[c] k).lastEdge = some e from h1]
      exact decide_eq_true h2
    rw [capEdge_dead hd] at hx
    have hfr := (Frame.refl [R.CHc_CAPk_STAT c (kNat k)] s).rsat (f := F.CHc_CAPk_STAT_MISS c (kNat k)) 1 (List.mem_singleton.2 rfl)
    exact ⟨_, hx, rget_rsat_same _ _ _ (by decide : 24 + 8 ≤ 32), hfr.regs, hfr.blocks⟩
  · have hd : deadEdge (capOf s.ch[c] k) at' = false := by
      unfold deadEdge
      cases h : (capOf s.ch[c] k).lastEdge with
      | none => rfl
      | some e => exact decide_eq_false (by have := hlive e h; omega)
    refine ⟨_, hx, capEdge_far s c k rise _ _ _ (far_refl s), ?_⟩
    rw [capEdge_taken hd]
    exact entered_stages s c k rise stamp.1 stamp.2 at' _

end Sys2Proof
end

section
/-!
SUPPORT. SPI frames (R300 to R304) and the memory windows (R295, R296, R374, R375).
-/
set_option Elab.async false
namespace Sys2Proof.Machine
open Sys2Proof

/-! ### A discarded frame, and a late one -/

/-- The registers of the SPI port's reports. -/
def spiRegs : List Nat := [R.GL_SPISTAT, R.GL_EVT]

theorem spiFrame_frame (s : State) : Frame spiRegs (s.modHif (fun h => { h with frame := true })) s.spiFrame :=
  ((Frame.refl spiRegs _).rsat (f := F.GL_SPISTAT_FRAME) 1 (by decide)).evt (f := F.GL_EVT_SPI_S) (by decide)

theorem spiUnder_frame (s : State) : Frame spiRegs (s.modHif (fun h => { h with under := true })) s.spiUnder :=
  ((Frame.refl spiRegs _).rsat (f := F.GL_SPISTAT_UNDER) 1 (by decide)).evt (f := F.GL_EVT_SPI_S) (by decide)

theorem spiFrame_shows (s : State) : discarded s s.spiFrame ∧ State.sameBlocks { s with hif := s.spiFrame.hif } s.spiFrame := by
  have h := spiFrame_frame s
  refine ⟨⟨?_, h.far.hif, ron_evt _ _ rfl (by decide) (by decide), h.regs⟩, h.onHif⟩
  exact (rget_evt_ne _ (by decide) (by decide)).trans (rget_rsat_same _ F.GL_SPISTAT_FRAME 1 (by decide))

theorem spiUnder_shows (s : State) : countedOne s s.spiUnder F.GL_SPISTAT_UNDER ∧ { s.spiUnder.hif with evSet := s.hif.evSet } = { s.hif with under := true } ∧
    s.sameRegsBut s.spiUnder spiRegs ∧ s.spiUnder.spi = s.spi := by
  have h := spiUnder_frame s
  refine ⟨(rget_evt_ne _ (by decide) (by decide)).trans (rget_rsat_same _ F.GL_SPISTAT_UNDER 1 (by decide)), h.far.hif, h.regs, ?_⟩
  obtain ⟨-, -, hs, -⟩ := h.far
  exact hs

/-! ### Reads -/

/-- The SPI port's answer, which nothing else of the state shows. -/
def State.spiAnswer (s : State) (ws : List Word) : State := s.modPath .spi (fun q => { q with rdata := ws })

theorem spiAnswer_self (s : State) : s.spiAnswer s.spi.rdata = s := by cases s; rfl

theorem spiAnswer_spiAnswer (s : State) (v w : List Word) : (s.spiAnswer v).spiAnswer w = s.spiAnswer w := rfl

theorem siteOf_window {p : Path} {a : Nat} (h0 : 0x1000000 ≤ a) (h1 : a < 0x1400000) (h4 : a % 4 = 0) : siteOf p a = .sram (a - 0x1000000) := by
  have h := siteOf_sramWindow p (a := a - 0x1000000) (by omega)
  rwa [show 0x1000000 + (a - 0x1000000) = a by omega, show (a - 0x1000000) / 4 * 4 = a - 0x1000000 by omega] at h

theorem readSram_plain {s : State} {b : Nat} (h : b < 0x80000 ∨ (0x380000 ≤ b ∧ b < 0x388000)) (p : Path) : s.readSram p b = s.answer p (memRdW s.sram b) := by
  unfold State.readSram
  refine if_neg (fun hc => ?_)
  unfold State.internalPart at hc
  simp only [Bool.or_eq_true, Bool.and_eq_true, decide_eq_true_eq] at hc
  omega

theorem readAt_window {s : State} {a : Nat} (h0 : 0x1000000 ≤ a) (h1 : a < 0x1080000) (h4 : a % 4 = 0) :
    s.readAt .spi a = s.spiAnswer [memRdW s.sram (a - 0x1000000)] := by
  unfold State.readAt
  rw [siteOf_window h0 (by omega) h4]
  exact readSram_plain (.inl (by omega)) .spi

/-- A read of words of the window keeps them in order, and leaves the last as the port's answer. -/
theorem spiReadWords_window (m : Nat) : ∀ (s : State) {a : Nat} (ws : List Word), 0x1000000 ≤ a → a + 4 * m ≤ 0x1080000 → a % 4 = 0 →
    (∃ v, (s.spiReadWords a m ws).1 = s.spiAnswer v) ∧
      (s.spiReadWords a m ws).2 = ws ++ (List.range m).map (fun i => memRdW s.sram (a - 0x1000000 + 4 * i)) := by
  induction m with
  | zero => exact fun s a ws _ _ _ => ⟨⟨s.spi.rdata, (spiAnswer_self s).symm⟩, (List.append_nil ws).symm⟩
  | succ m ih =>
    intro s a ws h0 h1 h4
    have hr := readAt_window (s := s) h0 (by omega) h4
    obtain ⟨⟨v, hv⟩, hw⟩ := ih (s.readAt .spi a) (a := a + 4) (ws ++ (s.readAt .spi a).spi.rdata) (by omega) (by omega) (by omega)
    refine ⟨⟨v, ?_⟩, ?_⟩
    · show ((s.readAt .spi a).spiReadWords (a + 4) m (ws ++ (s.readAt .spi a).spi.rdata)).1 = _
      rw [hv, hr, spiAnswer_spiAnswer]
    · show ((s.readAt .spi a).spiReadWords (a + 4) m (ws ++ (s.readAt .spi a).spi.rdata)).2 = _
      rw [hw, hr, List.range_succ_eq_map, List.map_cons, List.map_map, List.append_assoc]
      refine congrArg (ws ++ ·) (congrArg₂ List.cons (by rw [Nat.mul_zero, Nat.add_zero]) (List.map_congr_left (fun i _ => ?_)))
      show memRdW s.sram (a + 4 - 0x1000000 + 4 * i) = memRdW s.sram (a - 0x1000000 + 4 * (i + 1))
      rw [show a + 4 - 0x1000000 + 4 * i = a - 0x1000000 + 4 * (i + 1) by omega]

theorem readWord_id (s : State) (p : Path) : s.readWord p R.ID = s.reg R.ID := readWord_live (by decide +kernel) (by decide +kernel) s p

theorem readAt_id (s : State) : s.readAt .spi R.ID = s.spiAnswer [s.reg R.ID] := by
  have hs : siteOf .spi R.ID = .reg R.ID := by decide +kernel
  have hc : s.rlCopy .spi R.ID = s := by
    unfold State.rlCopy
    rw [show rlCopies R.ID = [] by decide +kernel]
    rfl
  rw [readAt_reg hs, readReg_copies (by decide) (by decide) (by decide) (by decide), hc, readWord_id]
  rfl

/-- What a read frame that is not discarded sends. -/
def sent (n : Nat) (late : Bool) (ws : List Word) : List Word :=
  let out := (ws ++ List.replicate (n - ws.length) 0xFFFFFFFF).take n
  if late then out.set 0 0xFFFFFFFF else out

/-- A read frame, by the words that it reads. -/
theorem spiReadFrame_reads {s : State} {a n m : Nat} {form : SpiForm} (hf : form ≠ .unknown) (h4 : a % 4 = 0) (hm : n + b2n (decide (form = .torn)) = m) (h0 : m ≠ 0)
    (late : Bool) {v ws : List Word} (hr : s.spiReadWords a (if inWindow a then min m 256 else 1) [] = (s.spiAnswer v, ws)) :
    s.spiReadFrame a n late form = (let s3 := if late then (s.spiAnswer (sent n late ws)).spiUnder else s.spiAnswer (sent n late ws)
      if form = .torn then s3.spiFrame else s3) := by
  unfold State.spiReadFrame
  rw [hm]
  dsimp only
  rw [if_neg (fun h => h.elim hf (fun h => h h4)), if_neg h0, hr]
  rfl

theorem spiReadFrame_discards {s : State} {a n : Nat} {late : Bool} {form : SpiForm} (h : a % 4 ≠ 0 ∨ form = .unknown) : s.spiReadFrame a n late form = s.spiFrame :=
  if_pos h.symm

theorem inWindow_sram {a : Nat} (h0 : 0x1000000 ≤ a) (h1 : a < 0x1400000) : Machine.inWindow a = true := by
  unfold Machine.inWindow
  rw [decide_eq_true (show 0x1000000 ≤ a ∧ a < 0x1400000 from ⟨h0, h1⟩)]
  rfl

/-- A read frame of words of the window. -/
theorem spiReadFrame_window {s : State} {a n m : Nat} {form : SpiForm} (hf : form ≠ .unknown) (h4 : a % 4 = 0) (hm : n + b2n (decide (form = .torn)) = m) (h0 : m ≠ 0)
    (hm' : m ≤ 256) (ha : 0x1000000 ≤ a) (hb : a + 4 * m ≤ 0x1080000) :
    s.spiReadFrame a n false form = (let s3 := s.spiAnswer ((List.range n).map (fun i => memRdW s.sram (a - 0x1000000 + 4 * i)))
      if form = .torn then s3.spiFrame else s3) := by
  obtain ⟨⟨v, hv⟩, hw⟩ := spiReadWords_window m s (a := a) [] ha hb h4
  have hle : n ≤ m := by omega
  have hsent : sent n false ((List.range m).map (fun i => memRdW s.sram (a - 0x1000000 + 4 * i))) =
      (List.range n).map (fun i => memRdW s.sram (a - 0x1000000 + 4 * i)) := by
    show List.take n (_ ++ _) = _
    rw [List.length_map, List.length_range, Nat.sub_eq_zero_of_le hle, List.replicate_zero, List.append_nil, ← List.map_take, List.take_range, Nat.min_eq_left hle]
  rw [spiReadFrame_reads hf h4 hm h0 false (v := v) (ws := (List.range m).map (fun i => memRdW s.sram (a - 0x1000000 + 4 * i)))]
  · rw [hsent]
    rfl
  · rw [inWindow_sram ha (by omega), if_pos rfl, Nat.min_eq_left hm']
    exact Prod.ext hv hw

/-- A read frame of one register: all ones follow its word. -/
theorem spiReadFrame_id {s : State} {n : Nat} (h : 1 ≤ n) (late : Bool) :
    s.spiReadFrame R.ID n late .whole = (let t := s.spiAnswer ((if late then 0xFFFFFFFF else s.reg R.ID) :: List.replicate (n - 1) 0xFFFFFFFF); if late then t.spiUnder else t) := by
  rw [spiReadFrame_reads (m := n) (by decide) (by decide) rfl (by omega) late (v := [s.reg R.ID]) (ws := [s.reg R.ID])]
  · have hs : sent n late [s.reg R.ID] = (if late then 0xFFFFFFFF else s.reg R.ID) :: List.replicate (n - 1) 0xFFFFFFFF := by
      obtain ⟨k, rfl⟩ : ∃ k, n = k + 1 := ⟨n - 1, by omega⟩
      unfold sent
      cases late <;> simp
    rw [hs]
    cases late <;> rfl
  · show (s.readAt .spi R.ID, [] ++ (s.readAt .spi R.ID).spi.rdata) = _
    rw [readAt_id]
    rfl

theorem exec_readFrame {s : State} (hp : s.powered = true) (quad : Bool) (a : Word) (n : Fin 257) (late : Bool) (form : SpiForm) :
    exec (readFrame quad a n late form) s = .next (s.spiReadFrame a.toNat n late form) := by
  have h := hostRead_open hp (fun s => s.spiReadFrame a.toNat n late form)
  cases quad <;> exact h

/-! ### Writes -/

theorem sramBytes_word (s : State) (a : Nat) (v : Word) : s.sramBytes a v 15 = s.sramWr a [v] := by
  refine congrArg (fun m => { s with sram := m }) ?_
  show memWr (memWr (memWr (memWr s.sram (a + 0) _) (a + 1) _) (a + 2) _) (a + 3) _ = memWr (memWr (memWr (memWr s.sram a _) (a + 1) _) (a + 1 + 1) _) (a + 1 + 1 + 1) _
  rw [Nat.div_div_eq_div_mul, Nat.div_div_eq_div_mul, Nat.mul_zero, Nat.pow_zero, Nat.div_one]
  norm_num [Nat.add_assoc]

theorem sramStore_plain {s : State} {b : Nat} (h : b < 0x80000) (v : Word) (be : Nat) : s.sramStore b v be = s.sramBytes b v be := by
  have hs : s.summaryBusy b = false := by
    unfold State.summaryBusy
    rw [decide_eq_false (show ¬ 0x3A0000 ≤ b by omega)]
    rfl
  unfold State.sramStore State.spoil
  rw [hs, if_neg Bool.false_ne_true, if_neg (by omega), if_neg (by omega)]

theorem writeAt_window {s : State} (hw : s.takesWrites = true) {a : Nat} (h0 : 0x1000000 ≤ a) (h1 : a < 0x1080000) (h4 : a % 4 = 0) (v : Word) :
    s.writeAt .spi a v true = s.sramWr (a - 0x1000000) [v] := by
  unfold State.writeAt
  rw [siteOf_window h0 (by omega) h4]
  show s.hostWrite a (fun s => s.sramStore (a - 0x1000000) v 15) = _
  rw [hostWrite_open hw, sramStore_plain (by omega), sramBytes_word]

theorem spiWriteWords_window (ws : List Word) : ∀ {s : State} {a : Nat}, s.takesWrites = true → 0x1000000 ≤ a → a + 4 * ws.length ≤ 0x1080000 → a % 4 = 0 →
    s.spiWriteWords a ws = s.sramWr (a - 0x1000000) ws := by
  induction ws with
  | nil => exact fun _ _ _ _ => rfl
  | cons w ws ih =>
    intro s a hw h0 h1 h4
    rw [List.length_cons] at h1
    show (s.writeAt .spi a w true).spiWriteWords (a + 4) ws = _
    rw [writeAt_window hw h0 (by omega) h4, ih (s := s.sramWr (a - 0x1000000) [w]) hw (by omega) (by omega) (by omega), show a + 4 - 0x1000000 = a - 0x1000000 + 4 by omega]
    rfl

theorem spiWriteFrame_discards {s : State} {a : Nat} {ws : List Word} {form : SpiForm} (h : a % 4 ≠ 0 ∨ form = .unknown) : s.spiWriteFrame a ws form = s.spiFrame :=
  if_pos h.symm

theorem spiWriteFrame_window {s : State} (hw : s.takesWrites = true) {a : Nat} {ws : List Word} {form : SpiForm} (h0 : 0x1000000 ≤ a) (h1 : a + 4 * ws.length ≤ 0x1080000)
    (h4 : a % 4 = 0) (hl : ws.length ≤ 256) (hf : form ≠ .unknown) :
    s.spiWriteFrame a ws form = (if form = .torn then (s.sramWr (a - 0x1000000) ws).spiFrame else s.sramWr (a - 0x1000000) ws) := by
  unfold State.spiWriteFrame
  rw [if_neg (fun h => h.elim hf (fun h => h h4)), List.take_of_length_le hl, spiWriteWords_window ws hw h0 h1 h4]

theorem exec_writeFrame {s : State} (hw : s.takesWrites = true) (quad : Bool) (a : Word) (ws : List Word) (form : SpiForm) :
    exec (writeFrame quad a ws form) s = .next (s.spiWriteFrame a.toNat ws form) := by
  have h : Host.Outcome.next (if s.powered then s.spiWriteFrame a.toNat ws form else s) = (.next (s.spiWriteFrame a.toNat ws form) : Host.Outcome State Fault Refusal) :=
    congrArg _ (if_pos ((takesWrites_iff s).1 hw).1)
  cases quad <;> exact h

/-! ### Windows -/

theorem ecAssign_mram (s : State) (n : Nat) : (s.ecAssign n).mram = s.mram := by
  unfold State.ecAssign State.msixSend
  dsimp only
  split
  · split
    · rfl
    · split
      · split
        · split <;> rfl
        · rfl
      · rfl
  · rfl

/-- An event leaves the MRAM. -/
theorem evt_mram (s : State) (f : Fld) : (s.evt f).mram = s.mram := by
  unfold State.evt State.ecEdge
  split
  · rfl
  · split
    · rfl
    · dsimp only
      split
      · rfl
      · split
        · rfl
        · exact ecAssign_mram _ _

theorem memRd_wr_if (m : Tbl Byte) (c : Bool) (a x : Nat) (b : Byte) : memRd (if c then memWr m a b else m) x = if c = true ∧ x = a then b else memRd m x := by
  cases c with
  | false => rfl
  | true =>
    by_cases h : x = a
    · rw [if_pos rfl, if_pos ⟨rfl, h⟩, h, memRd_wr_same]
    · rw [if_pos rfl, if_neg (fun h' => h h'.2), memRd_wr_ne _ _ h]

/-- A store of the bytes that enables select. -/
theorem memRd_sramBytes (s : State) (a : Nat) (v : Word) (be x : Nat) : memRd (s.sramBytes a v be).sram x =
    if a ≤ x ∧ x < a + 4 ∧ nbit be (x - a) = true then BitVec.ofNat 8 (v.toNat / 2 ^ (8 * (x - a))) else memRd s.sram x := by
  show memRd ((List.range 4).foldl (fun (t : Tbl Byte) i => if nbit be i then memWr t (a + i) (BitVec.ofNat 8 (v.toNat / 2 ^ (8 * i))) else t) s.sram) x = _
  rw [show List.range 4 = [0, 1, 2, 3] from rfl]
  simp only [List.foldl_cons, List.foldl_nil, memRd_wr_if]
  by_cases hx : a ≤ x ∧ x < a + 4
  · obtain ⟨k, hk, rfl⟩ : ∃ k, k < 4 ∧ x = a + k := ⟨x - a, by omega, by omega⟩
    obtain rfl | rfl | rfl | rfl : k = 0 ∨ k = 1 ∨ k = 2 ∨ k = 3 := by omega
    all_goals simp
  · rw [if_neg (by omega), if_neg (by omega), if_neg (by omega), if_neg (by omega), if_neg (by omega)]

/-- The byte enables of a window write: an SPI frame writes whole words. -/
def storeEnables (p : Path) (be : BitVec 4) : Nat := match p with | .pcie => be.toNat | .spi => 15

theorem exec_sramWindowWrite {s : State} (hw : s.takesWrites = true) {p : Path} {a : Word} {b : Nat} (hs : siteOf p a.toNat = .sram b) (v : Word) (be : BitVec 4) :
    exec (.sramWindowWrite p a v be) s = .next (s.sramStore b v (storeEnables p be)) := by
  show execSramWindowWrite p a v be s = _
  unfold execSramWindowWrite
  rw [hs]
  exact hostAct_open hw p _ _

theorem exec_mramWindowWrite {s : State} (hw : s.takesWrites = true) {p : Path} {a : Word} {b : Nat} (hs : siteOf p a.toNat = .mram b) (v : Word) :
    exec (.mramWindowWrite p a v) s = .next (s.mramStore b v) := by
  show execMramWindowWrite p a v s = _
  unfold execMramWindowWrite
  rw [hs]
  exact hostAct_open hw p _ _

theorem partialSite_reg (base k : Nat) : ∀ b, partialSite base k ≠ .mram b := fun b => by
  unfold partialSite
  dsimp only
  split <;> nofun

theorem fullSite_reg (o : Nat) : ∀ b, fullSite o ≠ .mram b := fun b => by unfold fullSite; split <;> nofun

theorem csSite_reg (o : Nat) : ∀ b, csSite o ≠ .mram b := fun b => by
  unfold csSite
  dsimp only
  split
  · split <;> nofun
  · split
    · exact partialSite_reg _ _ b
    · nofun

theorem site_skip {c : Prop} [Decidable c] {x y : Site} {b : Nat} (h : (if c then x else y) = .mram b) (hx : ∀ b, x ≠ .mram b) : ¬ c ∧ y = .mram b := by
  by_cases hc : c
  · rw [if_pos hc] at h; exact absurd h (hx b)
  · rw [if_neg hc] at h; exact ⟨hc, h⟩

/-- The MRAM window alone leads to the MRAM. -/
theorem siteOf_mram_lt {p : Path} {a b : Nat} (h : siteOf p a = .mram b) : b < 0x80000 := by
  unfold siteOf at h
  dsimp only at h
  replace h := (site_skip h (partialSite_reg _ _)).2
  replace h := (site_skip h nofun).2
  replace h := (site_skip h (by cases p <;> nofun)).2
  replace h := (site_skip h (partialSite_reg _ _)).2
  replace h := (site_skip h nofun).2
  replace h := (site_skip h (partialSite_reg _ _)).2
  replace h := (site_skip h nofun).2
  replace h := (site_skip h (partialSite_reg _ _)).2
  replace h := (site_skip h (fullSite_reg _)).2
  replace h := (site_skip h (partialSite_reg _ _)).2
  replace h := (site_skip h nofun).2
  replace h := (site_skip h (fullSite_reg _)).2
  replace h := (site_skip h nofun).2
  replace h := (site_skip h (csSite_reg _)).2
  replace h := (site_skip h nofun).2
  replace h := (site_skip h nofun).2
  obtain ⟨hlo, h⟩ := site_skip h nofun
  split at h
  · have := Site.mram.inj h
    omega
  · cases h

theorem exec_windowRead {s : State} (hp : s.powered = true) {p : Path} {a : Word} (ecc : Ecc) :
    (∀ b, siteOf p a.toNat = .sram b → exec (.hostWindowRead p a ecc) s = .next (s.eccSram p b ecc)) ∧
    (∀ b, siteOf p a.toNat = .mram b → exec (.hostWindowRead p a ecc) s = .next (s.eccMram p b ecc)) := by
  refine ⟨fun b hs => ?_, fun b hs => ?_⟩ <;>
  · show execHostWindowRead p a ecc s = _
    unfold execHostWindowRead
    rw [hs]
    exact hostRead_open hp _

/-- What stays when a read is answered, and reports follow. -/
theorem Frame.answered {os : List Nat} {s t : State} {p : Path} {w : Word} (h : Frame os (s.answer p w) t) :
    (t.path p).rdata = [w] ∧ s.sameRegsBut t os ∧ State.sameBlocks { s with pcie := t.pcie, spi := t.spi } t := by
  obtain ⟨hr, ⟨h1, h2, h3, hrest⟩, hcore⟩ := h
  cases p with
  | pcie => exact ⟨congrArg PathState.rdata h2, hr, ⟨h1, rfl, rfl, hrest⟩, hcore⟩
  | spi => exact ⟨congrArg PathState.rdata h3, hr, ⟨h1, rfl, rfl, hrest⟩, hcore⟩

theorem rget_answer (s : State) (p : Path) (w : Word) (f : Fld) : (s.answer p w).rget f = s.rget f := by cases p <;> rfl

/-- A word of the window that ECC has corrected. -/
theorem eccSram_corrected {s : State} (hf : s.frozen = false) {b : Nat} (hb : b < 0x80000) (p : Path) :
    s.eccSram p b .corrected = (s.answer p (memRdW s.sram b)).eccCorr b := by
  show (if s.frozen then s.readSram p b else (s.readSram p b).eccCorr b) = _
  rw [hf, readSram_plain (.inl hb)]
  rfl

theorem badRead_reported {s : State} (hf : s.frozen = false) (p : Path) (mram : Bool) (a : Nat) : s.badRead p mram a = (s.answer p 0xFFFFFFFF).eccBad mram a := by
  show (if s.frozen then s.answer p 0xFFFFFFFF else (s.answer p 0xFFFFFFFF).eccBad mram a) = _
  rw [hf]
  rfl

end Sys2Proof.Machine
end

section
set_option Elab.async false
namespace Sys2Proof
open Sys2Proof.Machine

/-- The read frames of SPI. -/
theorem readFrames_hold (quad late : Bool) (a : Word) (n : Fin 257) (s : State) (hp : s.powered = true) :
    (∀ form, a.toNat % 4 ≠ 0 ∨ form = .unknown →
      ∃ t, exec (readFrame quad a n late form) s = .next t ∧ discarded s t ∧ State.sameBlocks { s with hif := t.hif } t) ∧
    (1 ≤ n.val → a.toNat % 4 = 0 → 0x1000000 ≤ a.toNat → a.toNat + 4 * n.val ≤ 0x1080000 → late = false →
      exec (readFrame quad a n late .whole) s = .next (s.modPath .spi (fun q => { q with
        rdata := (List.range n.val).map (fun i => memRdW s.sram (a.toNat - 0x1000000 + 4 * i)) }))) ∧
    (n.val < 256 → a.toNat % 4 = 0 → 0x1000000 ≤ a.toNat → a.toNat + 4 * n.val < 0x1080000 → late = false →
      ∃ t, exec (readFrame quad a n late .torn) s = .next t ∧ discarded s t ∧ State.sameBlocks { s with hif := t.hif, spi := t.spi } t ∧
        t.spi.rdata = (List.range n.val).map (fun i => memRdW s.sram (a.toNat - 0x1000000 + 4 * i))) ∧
    (1 ≤ n.val → exec (readFrame quad (word R.ID) n false .whole) s =
      .next (s.modPath .spi (fun q => { q with rdata := s.reg R.ID :: List.replicate (n.val - 1) 0xFFFFFFFF }))) ∧
    (1 ≤ n.val → ∃ t, exec (readFrame quad (word R.ID) n true .whole) s = .next t ∧ t.spi.rdata = List.replicate n.val 0xFFFFFFFF ∧
      countedOne s t F.GL_SPISTAT_UNDER ∧ { t.hif with evSet := s.hif.evSet } = { s.hif with under := true } ∧
      s.sameRegsBut t [R.GL_SPISTAT, R.GL_EVT]) := by
  have hid : (word R.ID).toNat = R.ID := rfl
  refine ⟨fun form h => ?_, fun h1 h4 h0 hb hl => ?_, fun h1 h4 h0 hb hl => ?_, fun h1 => ?_, fun h1 => ?_⟩
  · rw [exec_readFrame hp, spiReadFrame_discards h]
    exact ⟨_, rfl, spiFrame_shows s⟩
  · rw [exec_readFrame hp, hl, spiReadFrame_window (m := n.val) (by decide) h4 rfl (by omega) (by omega) h0 hb]
    rfl
  · rw [exec_readFrame hp, hl, spiReadFrame_window (m := n.val + 1) (by decide) h4 rfl (by omega) (by omega) h0 (by omega)]
    generalize hv : (List.range n.val).map (fun i => memRdW s.sram (a.toNat - 0x1000000 + 4 * i)) = v
    obtain ⟨⟨hc, hh, he, hr⟩, hblk⟩ := spiFrame_shows (s.spiAnswer v)
    obtain ⟨⟨h1, h2, h3, hrest⟩, hcore⟩ := hblk
    exact ⟨_, rfl, ⟨hc, hh, he, hr⟩, ⟨⟨h1, h2, rfl, hrest⟩, hcore⟩, congrArg PathState.rdata h3⟩
  · rw [exec_readFrame hp, hid, spiReadFrame_id h1]
    rfl
  · rw [exec_readFrame hp, hid, spiReadFrame_id h1]
    have hl : (0xFFFFFFFF : Word) :: List.replicate (n.val - 1) 0xFFFFFFFF = List.replicate n.val 0xFFFFFFFF := by
      rw [← List.replicate_succ, Nat.sub_add_cancel h1]
    obtain ⟨hc, hh, hr, hs⟩ := spiUnder_shows (s.spiAnswer ((0xFFFFFFFF : Word) :: List.replicate (n.val - 1) 0xFFFFFFFF))
    exact ⟨_, rfl, (congrArg PathState.rdata hs).trans hl, hc, hh, hr⟩

/-- The write frames of SPI. -/
theorem writeFrames_hold (quad : Bool) (a : Word) (ws : List Word) (form : SpiForm) (s : State) (hw : s.takesWrites = true) :
    (a.toNat % 4 ≠ 0 ∨ form = .unknown →
      ∃ t, exec (writeFrame quad a ws form) s = .next t ∧ discarded s t ∧ State.sameBlocks { s with hif := t.hif } t) ∧
    (a.toNat % 4 = 0 → 0x1000000 ≤ a.toNat → a.toNat + 4 * ws.length ≤ 0x1080000 → ws.length ≤ 256 → form ≠ .unknown →
      ∃ t, exec (writeFrame quad a ws form) s = .next t ∧ t.sram = memWrWs s.sram (a.toNat - 0x1000000) ws ∧
        State.sameBlocks { s with sram := t.sram, hif := t.hif } t ∧ (form = .torn → discarded s t) ∧
        (form = .whole → t.hif = s.hif ∧ ∀ o, t.reg o = s.reg o)) := by
  refine ⟨fun h => ?_, fun h4 h0 hb hl hf => ?_⟩
  · rw [exec_writeFrame hw, spiWriteFrame_discards h]
    exact ⟨_, rfl, spiFrame_shows s⟩
  · rw [exec_writeFrame hw, spiWriteFrame_window hw h0 hb h4 hl hf]
    cases form with
    | unknown => exact absurd rfl hf
    | whole => exact ⟨_, rfl, rfl, sameBlocks_refl _, nofun, fun _ => ⟨rfl, fun _ => rfl⟩⟩
    | torn =>
      obtain ⟨hd, hblk⟩ := spiFrame_shows (s.sramWr (a.toNat - 0x1000000) ws)
      obtain ⟨hfar, h1, h2, h3, h4, h5, h6, h7⟩ := hblk
      exact ⟨_, rfl, h6, ⟨hfar, h1, h2, h3, h4, h5, rfl, h7⟩, fun _ => hd, nofun⟩

/-- The writes of the memory windows. -/
theorem windowWrites_hold (p : Path) (a v : Word) (be : BitVec 4) (b : Nat) (s : State) (hw : s.takesWrites = true) :
    (siteOf p a.toNat = .sram b → b < 0x80000 → ∃ t, exec (.sramWindowWrite p a v be) s = .next t ∧ t = { s with sram := t.sram } ∧
      (∀ i : Fin 4, memRd t.sram (b + i.val) = if p = .spi ∨ nbit be.toNat i.val = true then BitVec.ofNat 8 (v.toNat / 2 ^ (8 * i.val))
        else memRd s.sram (b + i.val)) ∧
      (∀ k, k < b ∨ b + 4 ≤ k → memRd t.sram k = memRd s.sram k)) ∧
    (siteOf p a.toNat = .mram b → 0x78000 ≤ b →
      exec (.mramWindowWrite p a v) s = .next { s with mram := memWrWs s.mram b [v] }) ∧
    (siteOf p a.toNat = .mram b → b < 0x78000 → ∃ t, exec (.mramWindowWrite p a v) s = .next t ∧ t.mram = s.mram ∧
      t.ron F.HL_EVT_MRAM_S = true ∧ s.sameRegsBut t [R.HL_EVT] ∧ s.sameBlocks t) := by
  refine ⟨fun hs hb => ?_, fun hs hb => ?_, fun hs hb => ?_⟩
  · rw [exec_sramWindowWrite hw hs, sramStore_plain hb]
    refine ⟨_, rfl, rfl, fun i => ?_, fun k hk => ?_⟩
    · rw [memRd_sramBytes, Nat.add_sub_cancel_left]
      have hen : (p = .spi ∨ nbit be.toNat i.val = true) ↔ nbit (storeEnables p be) i.val = true := by
        cases p with
        | pcie => exact ⟨fun h => h.resolve_left nofun, .inr⟩
        | spi => exact iff_of_true (.inl rfl) ((by decide : ∀ i : Fin 4, nbit 15 i.val = true) i)
      exact if_congr (by rw [hen]; exact ⟨fun h => h.2.2, fun h => ⟨by omega, by omega, h⟩⟩) rfl rfl
    · rw [memRd_sramBytes]
      exact if_neg (by omega)
  · rw [exec_mramWindowWrite hw hs]
    exact congrArg _ (if_pos ⟨hb, siteOf_mram_lt hs⟩)
  · have he : s.mramStore b v = s.evt F.HL_EVT_MRAM_S := if_neg (by omega)
    have h := (Frame.refl [R.HL_EVT] s).evt (f := F.HL_EVT_MRAM_S) (by decide)
    rw [exec_mramWindowWrite hw hs, he]
    exact ⟨_, rfl, evt_mram s _, ron_evt _ _ rfl (by decide) (by decide), h.regs, h.blocks⟩

/-- The reads of the memory windows. -/
theorem windowReads_hold (p : Path) (a : Word) (b : Nat) (s : State) (hp : s.powered = true) :
    (siteOf p a.toNat = .sram b → b < 0x80000 ∨ (0x380000 ≤ b ∧ b < 0x388000) →
      exec (.hostWindowRead p a .ok) s = .next (s.modPath p (fun q => { q with rdata := [memRdW s.sram b] }))) ∧
    (siteOf p a.toNat = .mram b → 0x8000 ≤ b →
      exec (.hostWindowRead p a .ok) s = .next (s.modPath p (fun q => { q with rdata := [memRdW s.mram b] }))) ∧
    (siteOf p a.toNat = .sram b → b < 0x80000 → s.frozen = false → ∃ t, exec (.hostWindowRead p a .corrected) s = .next t ∧
      (t.path p).rdata = [memRdW s.sram b] ∧ countedOne s t F.HL_ECC_CORR ∧ t.ron F.HL_EVT_ECC_C_S = true ∧
      s.sameRegsBut t [R.HL_ECC, R.HL_EVT] ∧ State.sameBlocks { s with pcie := t.pcie, spi := t.spi } t) ∧
    (siteOf p a.toNat = .mram b → s.frozen = false → ∃ t, exec (.hostWindowRead p a .bad) s = .next t ∧
      (t.path p).rdata = [0xFFFFFFFF] ∧ countedOne s t F.HL_ECC_UNCORR ∧ t.reg R.HL_ECCADDR = word (b + 2 ^ 31) ∧
      t.ron F.HL_EVT_ECC_U_S = true ∧ t.ron F.HL_EVT_MRAM_S = true ∧ s.sameRegsBut t [R.HL_ECC, R.HL_ECCADDR, R.HL_EVT] ∧
      State.sameBlocks { s with pcie := t.pcie, spi := t.spi } t) ∧
    (siteOf p a.toNat = .sram b → s.frozen = false → ∃ t, exec (.hostWindowRead p a .bad) s = .next t ∧
      (t.path p).rdata = [0xFFFFFFFF] ∧ countedOne s t F.HL_ECC_UNCORR ∧ t.reg R.HL_ECCADDR = word b ∧ t.ron F.HL_EVT_ECC_U_S = true ∧
      s.sameRegsBut t [R.HL_ECC, R.HL_ECCADDR, R.HL_EVT] ∧ State.sameBlocks { s with pcie := t.pcie, spi := t.spi } t) := by
  have hbad : ∀ mram, s.frozen = false → _ := fun mram hf => badRead_reported hf p mram b
  have hfr : ∀ mram, Frame [R.HL_ECC, R.HL_ECCADDR, R.HL_EVT] (s.answer p 0xFFFFFFFF) ((s.answer p 0xFFFFFFFF).eccBad mram b) := fun mram =>
    eccBad_frame (.refl _ _) (fun _ h => h) mram b
  refine ⟨fun hs hb => ?_, fun hs hb => ?_, fun hs hb hf => ?_, fun hs hf => ?_, fun hs hf => ?_⟩
  · rw [(exec_windowRead hp .ok).1 b hs]
    exact congrArg _ (readSram_plain hb p)
  · rw [(exec_windowRead hp .ok).2 b hs]
    refine congrArg Host.Outcome.next ?_
    show s.answer p (s.mramWord b) = _
    rw [show s.mramWord b = memRdW s.mram b from if_neg (by omega)]
    rfl
  · rw [(exec_windowRead hp .corrected).1 b hs, eccSram_corrected hf hb]
    obtain ⟨h1, h2⟩ := eccCorr_shows (s.answer p (memRdW s.sram b)) b
    obtain ⟨h3, h4, h5⟩ := (eccCorr_frame (os := [R.HL_ECC, R.HL_EVT]) (.refl _ (s.answer p (memRdW s.sram b))) (by decide) (by decide) b).answered
    exact ⟨_, rfl, h3, by rwa [countedOne, rget_answer] at h1, h2, h4, h5⟩
  · rw [(exec_windowRead hp .bad).2 b hs, show s.eccMram p b .bad = s.badRead p true b from rfl, hbad true hf]
    obtain ⟨h1, h2, h3, h4⟩ := eccBad_shows (s.answer p 0xFFFFFFFF) true b
    obtain ⟨h5, h6, h7⟩ := (hfr true).answered
    exact ⟨_, rfl, h5, by rwa [countedOne, rget_answer] at h1, h2, h3, h4 rfl, h6, h7⟩
  · rw [(exec_windowRead hp .bad).1 b hs, show s.eccSram p b .bad = s.badRead p false b from rfl, hbad false hf]
    obtain ⟨h1, h2, h3, -⟩ := eccBad_shows (s.answer p 0xFFFFFFFF) false b
    obtain ⟨h5, h6, h7⟩ := (hfr false).answered
    exact ⟨_, rfl, h5, by rwa [countedOne, rget_answer] at h1, h2, h3, h6, h7⟩

theorem rdsr_sends {s : State} (hp : s.powered = true) : exec .rdsr s = .next { s with
    spi := { s.spi with rdata := [word (bitAt 1 s.hif.under + bitAt 2 s.hif.frame + bitAt 3 s.hif.rstd)] }
    hif := { s.hif with under := false, frame := false, rstd := false } } := hostRead_open hp State.spiRdsr

/-- Settles O50: frames by the words that they read and write, windows by their sites and by what ECC finds. -/
theorem framesAndWindows : Obligations.FramesAndWindows :=
  ⟨fun quad late a n s hp => readFrames_hold quad late a n s hp, writeFrames_hold, fun _ => rfl, fun _ hp => rdsr_sends hp, windowWrites_hold, windowReads_hold⟩

end Sys2Proof
end

section
/-!
SUPPORT. The commands of the power block that leave the core powered (R354, R355, R380).
-/
set_option Elab.async false
namespace Sys2Proof.Machine
open Sys2Proof

theorem pwCommand_open {s : State} (hw : s.takesWrites = true) (f : State → State) : s.pwCommand f = f s := by
  have hf : s.frozen = false := ((takesWrites_iff s).1 hw).2.1
  unfold State.pwCommand
  rw [hostWrite_open hw]
  exact if_neg (fun h => Bool.noConfusion (hf.symm.trans h.1))

theorem pwRefuse_shows (s : State) : pwRefused s s.pwRefuse := by
  have h := (Frame.refl [R.PW_EVT] s).evt (f := F.PW_EVT_CMD_ERR_S) (by decide)
  exact ⟨ron_evt _ _ rfl (by decide) (by decide), h.regs, h.blocks⟩

/-- A command in a frozen device is counted, and refused. -/
theorem pwCommand_frozen {s : State} (hp : s.powered = true) (hf : s.frozen = true) (f : State → State) :
    s.pwCommand f = (s.rsat F.FRZ_CNT_IGN 1).pwRefuse := by
  unfold State.pwCommand
  rw [hostWrite_frozen hp hf (by decide)]
  exact if_pos ⟨hf, hp⟩

theorem frozenRefusal_shows (s : State) : let t := (s.rsat F.FRZ_CNT_IGN 1).pwRefuse
    countedOne s t F.FRZ_CNT_IGN ∧ t.ron F.PW_EVT_CMD_ERR_S = true ∧ s.sameRegsBut t [R.FRZ_CNT, R.PW_EVT] ∧ s.sameBlocks t := by
  have h := ((Frame.refl [R.FRZ_CNT, R.PW_EVT] s).rsat (f := F.FRZ_CNT_IGN) 1 (by decide)).evt (f := F.PW_EVT_CMD_ERR_S) (by decide)
  exact ⟨(rget_evt_ne _ (by decide) (by decide)).trans (rget_rsat_same _ _ _ (by decide)), ron_evt _ _ rfl (by decide) (by decide), h.regs, h.blocks⟩

/-! ### The Orreries off and on -/

/-- Registers that no Orrery alone reaches. -/
def LowReg (o : Nat) : Prop := o < 0x2000 ∨ (0x3000 ≤ o ∧ o < 0x10000)

/-- No operation of an Orrery writes the register that enables one. -/
theorem PinReg.ne_oryCtrl {D : Reach} {o : Nat} (h : PinReg D o) (m : Fin 4) : o ≠ R.ORYn_CTRL m := by
  have hb : ∀ u : Bool, b2n u ≤ 1 := by decide
  have hk : ∀ u : Bool, kNat u ≤ 1 := by decide
  unfold R.ORYn_CTRL
  cases h
  case ec h => have := reportReg_page h; omega
  all_goals
    simp only [R.CHc_EVT, R.CHc_ERRCNT, R.CHc_FIFO_STAT, R.CHc_CMPu_TGT_CTL, R.CHc_CMPu_LAST_SUB, R.CHc_CMPu_LATE, R.CHc_CAPk_STAT, R.ORYn_EVT, R.ORYn_STAT, R.ORYn_ERRCNT,
      R.ORYn_ERRCNT2, R.ORYn_IDXDIFF, R.CV_EVT, R.CVk_CNT, R.CVk_LAST, R.CVBUFb_WRIDX, R.CVBUFb_DROP, R.CVBUFb_BASE, R.Ge_EVT, R.Ge_LAT_MAX, R.Ge_LATE_CNT, R.Ge_EPH_CNT,
      R.SPN_EVT, R.CFG_EVT]
    omega

theorem Within.oryCtrl {D : Reach} {s t : State} (h : Within D s t) (m : Fin 4) : t.ron (F.ORYn_CTRL_EN m) = s.ron (F.ORYn_CTRL_EN m) :=
  ron_of_reg (h.regs _ (fun hp => hp.ne_oryCtrl m rfl))

/-- Each Orrery that is enabled goes through an operation of its own. -/
def eachEnabled (f : State → Fin 4 → State) (s : State) (l : List (Fin 4)) : State :=
  l.foldl (fun (a : State) (n : Fin 4) => if a.ron (F.ORYn_CTRL_EN n) then f a n else a) s

/-- What such operations leave, where each is its own Orrery's. -/
theorem eachEnabled_low {f : State → Fin 4 → State} (hf : ∀ a n, Within (.orrery n) a (f a n)) (hfar : ∀ {s₀ : State} a n, Far s₀ a → Far s₀ (f a n)) (s : State) (l : List (Fin 4)) :
    Far s (eachEnabled f s l) ∧ ∀ o, LowReg o → (eachEnabled f s l).reg o = s.reg o :=
  pin_foldl (P := fun t : State => Far s t ∧ ∀ o, LowReg o → t.reg o = s.reg o) _ _ (fun a n ⟨h1, h2⟩ => by
    split
    · exact ⟨hfar a n h1, fun o ho => ((hf a n).regs o (page_apart (orrery_not_all n) ho)).trans (h2 o ho)⟩
    · exact ⟨h1, h2⟩) ⟨far_refl s, fun _ _ => rfl⟩

/-- What such operations do to each Orrery. -/
theorem eachEnabled_each {f : State → Fin 4 → State} (hf : ∀ a n, Within (.orrery n) a (f a n)) {q : Orrery → Prop} (hq : ∀ a n, q (f a n).ory[n]) (l : List (Fin 4)) :
    ∀ (s : State), (∀ n : Fin 4, s.ron (F.ORYn_CTRL_EN n) = false → (eachEnabled f s l).ory[n] = s.ory[n]) ∧
      (∀ n : Fin 4, (n ∈ l ∨ q s.ory[n]) → s.ron (F.ORYn_CTRL_EN n) = true → q (eachEnabled f s l).ory[n]) := by
  induction l with
  | nil => exact fun s => ⟨fun _ _ => rfl, fun n h _ => h.resolve_left List.not_mem_nil⟩
  | cons m l ih =>
    intro s
    show (∀ n : Fin 4, _ → (eachEnabled f (if s.ron (F.ORYn_CTRL_EN m) then f s m else s) l).ory[n] = _) ∧
      ∀ n : Fin 4, _ → _ → q (eachEnabled f (if s.ron (F.ORYn_CTRL_EN m) then f s m else s) l).ory[n]
    by_cases hm : s.ron (F.ORYn_CTRL_EN m) = true
    · rw [if_pos hm]
      obtain ⟨h1, h2⟩ := ih (f s m)
      have hen := fun n => (hf s m).oryCtrl n
      refine ⟨fun n hn => ?_, fun n hq' hn => ?_⟩
      · have hne : n ≠ m := fun e => by rw [e, hm] at hn; cases hn
        exact (h1 n ((hen n).trans hn)).trans ((hf s m).ory n hne)
      · refine h2 n ?_ ((hen n).trans hn)
        by_cases he : n = m
        · exact .inr (by rw [he]; exact hq s m)
        · refine hq'.imp (fun h => (List.mem_cons.1 h).resolve_left he) (fun h => ?_)
          rw [(hf s m).ory n he]
          exact h
    · rw [if_neg hm]
      obtain ⟨h1, h2⟩ := ih s
      refine ⟨h1, fun n hq' hn => h2 n (hq'.imp (fun h => (List.mem_cons.1 h).resolve_left (fun e => hm (by rw [← e]; exact hn))) id) hn⟩

theorem oOff_within (a : State) (n : Fin 4) : Within (.orrery n) a (a.oOff n) := oOff_pin (within_closed _) a n rfl (.refl _ a)

theorem oRestart_within (a : State) (n : Fin 4) : Within (.orrery n) a (a.oRestart n 2) := oRestart_pin (within_closed _) a n 2 rfl (.refl _ a)

theorem ory_modOry_same (s : State) (n : Fin 4) (f : Orrery → Orrery) : (s.modOry n f).ory[n] = f s.ory[n] := Vector.getElem_set_self _

theorem oSync_sync (s : State) (n : Fin 4) (new : Sync) (cause t fl : Nat) : (s.oSync n new cause t fl).ory[n].sync = new := by
  have hset : ∀ g : Orrery → Nat, (s.modOry n (fun o => { o with sync := new, cyc := g o })).ory[n].sync = new := fun g => by
    rw [ory_modOry_same]
  have hw : ∀ u : State, u.ory[n].sync = new → ∀ (w4 w5 w6 w7 : Word), (u.emitFl 0x0C (oSrc n) t fl w4 w5 w6 w7).ory[n].sync = new := fun u hu w4 w5 w6 w7 => by
    rw [((Frame.refl [] u).emitFl 0x0C (oSrc n) t fl w4 w5 w6 w7).core.ory]
    exact hu
  unfold State.oSync
  dsimp only
  refine hw _ ?_ _ _ _ _
  split
  · exact hset _
  · exact (congrArg (fun v : Vector Orrery 4 => v[n].sync) (evt_core _ _ (core_refl _)).ory).trans (hset _)

theorem oOff_sync (a : State) (n : Fin 4) : (a.oOff n).ory[n].sync = .off := by
  unfold State.oOff State.oShow
  rw [ory_modOry_same]
  exact oSync_sync _ _ _ _ _ _

/-! ### IDLE and RUN -/

theorem idleEnd_eq (s : State) (cause : Nat) :
    s.idleEnd cause = (eachEnabled (fun a n => a.oRestart n 2) (s.pwState stRun cause) (List.finRange 4)).autostartAll := rfl

theorem pwIdle_eq {s : State} (h : s.pwSt = 1) : s.pwIdle = eachEnabled (fun a n => a.oOff n) (s.pwState stIdle causeCommand) (List.finRange 4) := if_pos h

theorem pwState_far {s₀ : State} {s : State} (new cause : Nat) (h : Far s₀ s) : Far s₀ (s.pwState new cause) :=
  far_trans h (pwState_frame (Frame.refl [R.PW_STAT, R.PW_EVT] s) (by decide) (by decide) new cause).far

/-- IDLE ends in RUN; the pages of the spine, the loader and the power block show no more than that. -/
theorem idleEnd_shows (s : State) (cause : Nat) : (s.idleEnd cause).pwSt = 1 ∧ Far s (s.idleEnd cause) ∧
    ∀ o, LowReg o → (s.idleEnd cause).reg o = (s.pwState stRun cause).reg o := by
  obtain ⟨h1, h2⟩ := eachEnabled_low (f := fun a n => a.oRestart n 2) oRestart_within (fun a n h => oRestart_far a n 2 h) (s.pwState stRun cause) (List.finRange 4)
  rw [idleEnd_eq]
  generalize eachEnabled (fun a n => a.oRestart n 2) (s.pwState stRun cause) (List.finRange 4) = u at h1 h2
  obtain ⟨g, hg⟩ := autostartAll_shape u
  have hfar := autostartAll_far u (far_trans (pwState_far stRun cause (far_refl s)) h1)
  have hreg : ∀ o, LowReg o → u.autostartAll.reg o = (s.pwState stRun cause).reg o := fun o ho => by rw [hg]; exact h2 o ho
  exact ⟨(rget_of_reg (hreg _ (.inr (by decide)))).trans (pwState_st s (by decide) cause), hfar, hreg⟩

/-- An event of the power block stays through a change of state. -/
theorem pwState_keepsWake {s : State} (h : s.ron F.PW_EVT_WAKE_S = true) (new cause : Nat) : (s.pwState new cause).ron F.PW_EVT_WAKE_S = true := by
  unfold State.pwState
  dsimp only
  split
  · exact h
  · refine (ron_of_rget_eq ?_).trans h
    exact (rget_emit _ _ _ _ _ _ _ _ _ (g := F.PW_EVT_WAKE_S) (by decide)).trans
      ((rget_evt_apart _ (f := F.PW_EVT_STATE_S) (g := F.PW_EVT_WAKE_S) (by decide) (by decide) rfl (by decide)).trans
        (rget_rput_ne _ (f := F.PW_STAT_STATE) (g := F.PW_EVT_WAKE_S) _ (by decide)))

/-- A wake ends IDLE. -/
theorem wakeEnds_shows (s : State) (cause : Nat) : let t := (s.evt F.PW_EVT_WAKE_S).idleEnd cause
    t.pwSt = 1 ∧ t.ron F.PW_EVT_WAKE_S = true ∧ s.sameFar t := by
  obtain ⟨h1, h2, h3⟩ := idleEnd_shows (s.evt F.PW_EVT_WAKE_S) cause
  refine ⟨h1, ?_, far_trans (evt_far _ _ (far_refl s)) h2⟩
  rw [ron_of_reg (h3 _ (.inr (by decide)))]
  exact pwState_keepsWake (ron_evt _ _ rfl (by decide) (by decide)) _ _

theorem pwIdle_shows {s : State} (h : s.pwSt = 1) : s.pwIdle.pwSt = 2 ∧ s.sameFar s.pwIdle ∧
    ∀ n : Fin 4, (s.ron (F.ORYn_CTRL_EN n) = true → s.pwIdle.ory[n].sync = .off) ∧ (s.ron (F.ORYn_CTRL_EN n) = false → s.pwIdle.ory[n] = s.ory[n]) := by
  rw [pwIdle_eq h]
  have hfr := pwState_frame (Frame.refl [R.PW_STAT, R.PW_EVT] s) (by decide) (by decide) stIdle causeCommand
  have hst := pwState_st s (new := stIdle) (by decide) causeCommand
  have hen : ∀ n : Fin 4, (s.pwState stIdle causeCommand).ron (F.ORYn_CTRL_EN n) = s.ron (F.ORYn_CTRL_EN n) := fun n =>
    ron_of_reg (hfr.regs _ (reportReg_of_page (by simp only [F.ORYn_CTRL_EN, R.ORYn_CTRL]; omega)) (by simp only [F.ORYn_CTRL_EN, R.ORYn_CTRL, List.mem_cons, List.not_mem_nil, or_false, R.PW_STAT, R.PW_EVT]; omega))
  have hory := hfr.core.ory
  have hfar := hfr.far
  generalize s.pwState stIdle causeCommand = u at hst hen hory hfar
  obtain ⟨h1, h2⟩ := eachEnabled_low (f := fun a n => a.oOff n) oOff_within (fun a n h => oOff_far a n h) u (List.finRange 4)
  obtain ⟨h3, h4⟩ := eachEnabled_each (f := fun a n => a.oOff n) oOff_within (q := fun o => o.sync = .off) oOff_sync (List.finRange 4) u
  refine ⟨(rget_of_reg (h2 _ (.inr (by decide)))).trans hst, far_trans hfar h1, fun n => ⟨fun hn => h4 n (.inl (List.mem_finRange n)) ((hen n).trans hn), fun hn => ?_⟩⟩
  rw [h3 n ((hen n).trans hn), hory]

/-! ### HOLD -/

theorem foldl_holdBoot_shape (s : State) (on : Bool) (l : List (Fin 96)) :
    ∃ x, l.foldl (fun (a : State) (c : Fin 96) => a.modCh c (fun x => { x with holdBoot := on })) s = { s with ch := x } :=
  pin_foldl (P := fun t : State => ∃ x : Vector Channel 96, t = { s with ch := x }) _ _ (fun t c ht => by
    obtain ⟨x, rfl⟩ := ht
    exact ⟨_, rfl⟩) ⟨s.ch, rfl⟩

/-- To hold every channel changes the channels, and nothing else. -/
theorem holdBootAll_shape (s : State) : ∃ x, s.holdBootAll true = { s with ch := x } := by
  have hall : ∀ (l : List (Fin 96)) (a : State), (∃ x, a = { s with ch := x }) → (∀ c : Fin 96, a.ch[c].holdBoot = true) →
      ∃ x, l.foldl (fun (a : State) (c : Fin 96) => a.holdMoved s c) a = { s with ch := x } := fun l => by
    induction l with
    | nil => exact fun a h _ => h
    | cons d l ih =>
      intro a ⟨x, hx⟩ hh
      have hd : a.held d = true := by unfold State.held; rw [hh d]; rfl
      obtain ⟨y, hy⟩ := holdMoved_held (old := s) hd
      exact ih _ ⟨y, hy.trans (by rw [hx])⟩ (fun c => ((holdMoved_pin ticked_closed.toPinClosed a s d trivial trivial trivial (.refl a)).holds c).2.trans (hh c))
  obtain ⟨x, hx⟩ := foldl_holdBoot_shape s true (List.finRange 96)
  exact hall _ _ ⟨x, hx⟩ (fun c => by rw [foldl_holdBoot, if_pos (List.mem_finRange c)])

theorem pwHold_shows {s : State} (h : s.pwSt = 1 ∨ s.pwSt = 2) : s.pwHold.pwSt = 3 ∧ s.pwHold.ron F.CFG_STAT_HELD = true ∧
    (∀ c : Fin 96, s.pwHold.ch[c].holdBoot = true) ∧ s.sameRegsBut s.pwHold [R.CFG_STAT, R.PW_STAT, R.PW_EVT] ∧ State.sameBlocks { s with ch := s.pwHold.ch } s.pwHold := by
  have he : s.pwHold = ((s.holdBootAll true).rput F.CFG_STAT_HELD 1).pwState stHold causeCommand := if_pos h
  rw [he]
  obtain ⟨x, hx⟩ := holdBootAll_shape s
  have hb := holdBootAll_holds s true
  rw [hx] at hb ⊢
  have hput : (({ s with ch := x } : State).rput F.CFG_STAT_HELD 1).ron F.CFG_STAT_HELD = true := by
    rw [ron_eq_true, rget_rput_same _ _ _ (by decide)]
    decide
  have hfr := pwState_frame (((Frame.refl [R.CFG_STAT, R.PW_STAT, R.PW_EVT] ({ s with ch := x } : State)).rput (f := F.CFG_STAT_HELD) 1 (by decide))) (by decide) (by decide) stHold causeCommand
  have hown := pwState_frame (Frame.refl [R.PW_STAT, R.PW_EVT] (({ s with ch := x } : State).rput F.CFG_STAT_HELD 1)) (by decide) (by decide) stHold causeCommand
  have hst := pwState_st (({ s with ch := x } : State).rput F.CFG_STAT_HELD 1) (new := stHold) (by decide) causeCommand
  generalize (({ s with ch := x } : State).rput F.CFG_STAT_HELD 1).pwState stHold causeCommand = t at hfr hown hst
  have hch : t.ch = x := hfr.core.ch
  refine ⟨hst, (ron_of_reg (hown.regs _ (by decide) (by decide))).trans hput, fun c => ?_, hfr.regs, ?_⟩
  · rw [hch]; exact hb c
  · rw [hch]; exact hfr.blocks

end Sys2Proof.Machine
end

section
/-!
SUPPORT. RETAIN and OFF: the records are handed over, rails fall, and the spine is saved (R52, R355, R356, R368).
-/
set_option Elab.async false
namespace Sys2Proof.Machine
open Sys2Proof

/-! ### The records that wait are handed over -/

theorem truncParts_length (l : List Rec) : (truncParts l).length = l.length := by
  induction l with
  | nil => rfl
  | cons r rs ih =>
    unfold truncParts
    split
    · split
      · rw [List.length_cons, List.length_cons, ih]
      · rfl
    · rw [List.length_cons, List.length_cons, ih]

theorem headCopy_recq (s : State) (n : Nat) : (s.headCopy n).recq = s.recq := by
  rw [headCopy_eq]

theorem ringRefuse_queued (s : State) (n : Fin 64) (r : Rec) : (s.ringRefuse n r).recq.length = s.recq.length := by
  rw [ringRefuse_eq]
  obtain ⟨-, -, -, -, -, h1, -, -⟩ := refusalNoted_shows s n r
  have h2 : ((s.refusalNoted n r).lostCopy n).recq = s.recq := by
    unfold State.lostCopy
    split
    · exact (headCopy_recq _ _).trans h1
    · exact h1
  have h3 := (lehrRefused_shows ((s.refusalNoted n r).lostCopy n) r).2.trans h2
  generalize ((s.refusalNoted n r).lostCopy n).lehrRefused r = u at h3
  unfold State.partsMarked
  split
  · exact (truncParts_length u.recq).trans (by rw [h3])
  · rw [h3]

/-- A record taken leaves as many behind it as stood there. -/
theorem recPut_queued (s : State) (n : Fin 64) (r : Rec) : (s.recPut n r).recq.length = s.recq.length := by
  by_cases h : s.eventRing n = false ∨ s.ringStopped n = true ∨ (s.ringOnChip n = false ∧ s.hostOpen = false) ∨
      s.rget (F.RINGn_LOSTCNT_CNT n) ≠ 0 ∨ s.ringFull n = true
  · rcases recPut_refuses (r := r) h with he | ⟨-, he⟩
    · rw [he, ringRefuse_queued]
    · rw [he, ringRefuse_queued, evt_recq]
      rfl
  · have ht := (recPut_takes s n r).2.1
    simp only [not_or, not_and, Bool.not_eq_false, Bool.not_eq_true, ne_eq, not_not] at h
    obtain ⟨he, hs, hp, hl, hf⟩ := h
    rw [(ht he hs (by cases hc : s.ringOnChip n; exacts [.inr (hp hc), .inl rfl]) hl hf).1]

theorem recordTake_queued (s : State) : s.recordTake.recq.length = s.recq.length - 1 := by
  unfold State.recordTake
  cases hq : s.recq with
  | nil => simp only [hq]; rfl
  | cons r rs =>
    dsimp only
    split
    · rw [recPut_queued]; rfl
    · rfl

/-- What the way into RETAIN leaves: the spine, the channels, and the low pages but for the states of power and rails. -/
structure Fading (s t : State) : Prop where
  spine : t.spine = s.spine
  ch : t.ch = s.ch
  regs : ∀ o, LowReg o → o ∉ [R.PW_STAT, R.PW_EVT, R.PSQ_STAT] → t.reg o = s.reg o

theorem Fading.refl (s : State) : Fading s s := ⟨rfl, rfl, fun _ _ _ => rfl⟩

theorem Fading.trans {s t u : State} (h : Fading s t) (h' : Fading t u) : Fading s u :=
  ⟨h'.spine.trans h.spine, h'.ch.trans h.ch, fun o ho hn => (h'.regs o ho hn).trans (h.regs o ho hn)⟩

/-- A record taken leaves every low page. -/
theorem recPut_low (s : State) (n : Fin 64) (r : Rec) {o : Nat} (ho : LowReg o) : (s.recPut n r).reg o = s.reg o := by
  have hrep : reportReg o = false := reportReg_of_page (by unfold LowReg at ho; omega)
  obtain ⟨-, hput, href⟩ := recPut_takes s n r
  by_cases h : s.eventRing n = false ∨ s.ringStopped n = true ∨ (s.ringOnChip n = false ∧ s.hostOpen = false) ∨
      s.rget (F.RINGn_LOSTCNT_CNT n) ≠ 0 ∨ s.ringFull n = true
  · obtain ⟨-, -, -, -, -, -, -, -, hr⟩ := href h
    refine hr o hrep (fun hm => ?_)
    simp only [List.mem_cons, List.not_mem_nil, or_false, R.RINGn_LOSTCNT, R.RINGn_REFUSED, R.RINGn_EVT, R.RINGn_STAT, R.LH_REFUSED, R.LH_EVT] at hm
    unfold LowReg at ho
    omega
  · simp only [not_or, not_and, Bool.not_eq_false, Bool.not_eq_true, ne_eq, not_not] at h
    obtain ⟨he, hs, hp, hl, hf⟩ := h
    obtain ⟨-, -, -, -, hr⟩ := hput he hs (by cases hc : s.ringOnChip n; exacts [.inr (hp hc), .inl rfl]) hl hf
    refine hr o hrep (fun hm => ?_)
    simp only [List.mem_cons, List.not_mem_nil, or_false, R.RINGn_HEAD] at hm
    unfold LowReg at ho
    omega

theorem recordTake_low (s : State) {o : Nat} (ho : LowReg o) : s.recordTake.reg o = s.reg o := by
  unfold State.recordTake
  split
  · rfl
  · split
    · exact recPut_low { s with recq := _ } _ _ ho
    · rfl

theorem recordTake_fading (s : State) : Fading s s.recordTake := by
  unfold State.recordTake
  split
  · exact .refl s
  · next r rs hq =>
    split
    · next hr =>
      have hb := recPut_only { s with recq := rs } ⟨r.ring, hr⟩ r
      obtain ⟨⟨-, -, -, hspine, -⟩, hch, -⟩ := hb
      exact ⟨hspine, hch, fun o ho _ => recPut_low { s with recq := rs } _ _ ho⟩
    · exact ⟨rfl, rfl, fun _ _ _ => rfl⟩

/-- The record writer hands over every record that it holds. -/
theorem writeAll_shows (s : State) : s.writeAll.recq = [] ∧ Fading s s.writeAll ∧ ∀ o, LowReg o → s.writeAll.reg o = s.reg o := by
  have hlen : ∀ k, ((List.range k).foldl (fun (a : State) _ => a.recordTake) s).recq.length = s.recq.length - k := fun k => by
    induction k with
    | zero => rfl
    | succ k ih => rw [List.range_succ, List.foldl_append, List.foldl_cons, List.foldl_nil, recordTake_queued, ih]; omega
  refine ⟨List.length_eq_zero_iff.1 ((hlen _).trans (Nat.sub_self _)), ?_, fun o ho => ?_⟩
  · exact pin_foldl (P := Fading s) _ _ (fun a _ ha => ha.trans (recordTake_fading a)) (.refl s)
  · exact pin_foldl (P := fun t : State => t.reg o = s.reg o) _ _ (fun a _ ha => (recordTake_low a ho).trans ha) rfl

theorem pwState_fading (s : State) (new cause : Nat) : Fading s (s.pwState new cause) := by
  have h := pwState_frame (Frame.refl [R.PW_STAT, R.PW_EVT] s) (by decide) (by decide) new cause
  refine ⟨h.spine, h.core.ch, fun o ho hn => h.regs o (reportReg_of_page (by unfold LowReg at ho; omega)) (fun hm => hn ?_)⟩
  simp only [List.mem_cons, List.not_mem_nil, or_false] at hm ⊢
  tauto

/-! ### The rails -/

theorem PsqFrame.fading {s t : State} (h : PsqFrame s t) : Fading s t := by
  refine ⟨h.far.spine, h.core.ch, fun o ho hn => h.regs o (reportReg_of_page (by unfold LowReg at ho; omega)) (fun hm => hn ?_)⟩
  simp only [psqRegs, List.mem_cons, List.not_mem_nil, or_false] at hm ⊢
  tauto

theorem railsRetain_frame (s : State) : PsqFrame s s.railsRetain :=
  pin_foldl (P := PsqFrame s) _ _ (fun _ r ha => pin_ite ha (ha.railDeassert r)) ((PsqFrame.refl s).modPsq _)

theorem retKeep_stays {s t : State} (h : PsqFrame s t) (r : Fin 8) : t.ron (F.PSQ_Rr_CFG_RETKEEP r) = s.ron (F.PSQ_Rr_CFG_RETKEEP r) := by
  have hr : (F.PSQ_Rr_CFG_RETKEEP r).reg = R.PSQ_Rr_CFG r := rfl
  refine ron_of_reg (h.regs _ (reportReg_of_page ?_) ?_)
  · rw [hr]; unfold R.PSQ_Rr_CFG; omega
  · rw [hr]
    simp only [psqRegs, List.mem_cons, List.not_mem_nil, or_false, R.PSQ_Rr_CFG, R.PSQ_STAT, R.PW_EVT]
    omega

/-- Rails without RETKEEP fall; the others stand. -/
theorem railsRetain_on (s : State) (r : Fin 8) :
    s.railsRetain.psqBit F.PSQ_STAT_ON r = (s.psqBit F.PSQ_STAT_ON r && s.ron (F.PSQ_Rr_CFG_RETKEEP r)) := by
  have hall : ∀ (l : List (Fin 8)) (a : State), PsqFrame s a →
      (l.foldl (fun (a : State) (r : Fin 8) => if a.ron (F.PSQ_Rr_CFG_RETKEEP r) then a else a.railDeassert r) a).psqBit F.PSQ_STAT_ON r =
        (a.psqBit F.PSQ_STAT_ON r && (s.ron (F.PSQ_Rr_CFG_RETKEEP r) || !decide (r ∈ l))) := fun l => by
    induction l with
    | nil => intro a _; simp
    | cons x l ih =>
      intro a ha
      rw [List.foldl_cons]
      by_cases hx : a.ron (F.PSQ_Rr_CFG_RETKEEP x) = true
      · rw [if_pos hx, ih a ha]
        by_cases he : r = x
        · subst he
          rw [retKeep_stays ha] at hx
          simp [hx]
        · simp [he]
      · rw [if_neg hx, ih _ (ha.railDeassert x), (railDeassert_shows a x).1 r]
        by_cases he : r = x
        · subst he
          rw [retKeep_stays ha, Bool.not_eq_true] at hx
          simp [hx]
        · simp [he]
  have h := hall (List.finRange 8) (s.modPsq (fun q => { q with seq := none })) ((PsqFrame.refl s).modPsq _)
  rw [decide_eq_true (List.mem_finRange r), Bool.not_true, Bool.or_false] at h
  exact h

/-! ### Entry to RETAIN, and OFF -/

theorem accAhead_congr {s t : State} (hs : t.spine = s.spine) (hr : t.reg R.SPN_RATE = s.reg R.SPN_RATE) (k : Nat) : t.accAhead k = s.accAhead k := by
  have hinc : t.tickInc = s.tickInc := by
    unfold State.tickInc State.rateEff State.rateWord State.slewNow
    rw [hs, hr]
  unfold State.accAhead
  rw [hs, hinc]

theorem powerless {s : State} (h : s.pwSt = 4 ∨ s.pwSt = 5) : s.powered = false ∧ ∀ c : Fin 96, s.ballLevel c = none := by
  have hp : s.powered = false := by
    show (s.pwSt != 4 && s.pwSt != 5) = false
    rcases h with h | h <;> rw [h] <;> rfl
  exact ⟨hp, fun c => if_pos (.inl (by rw [hp]; decide))⟩

/-- The state in which the spine is to be saved. -/
def State.faded (s : State) : State := (((s.holdBootAll true).railsRetain).pwState stRetain causeCommand).writeAll

theorem retainEnter_eq (s : State) : s.retainEnter = { s.faded with pw := { s.faded.pw with
    saved := s.faded.accAhead s.faded.ticksToSlowEdge
    retEc := some ⟨s.faded.ec.srcs, s.faded.regs.filter (fun e => retEcReg e.1)⟩
    leave := none } } := rfl

theorem faded_shows (s : State) : s.faded.pwSt = 4 ∧ s.faded.spine = s.spine ∧ s.faded.reg R.SPN_RATE = s.reg R.SPN_RATE ∧ s.faded.recq = [] ∧
    (∀ c : Fin 96, s.faded.ch[c].holdBoot = true) ∧
    ∀ r : Fin 8, s.faded.psqBit F.PSQ_STAT_ON r = (s.psqBit F.PSQ_STAT_ON r && s.ron (F.PSQ_Rr_CFG_RETKEEP r)) := by
  obtain ⟨x, hx⟩ := holdBootAll_shape s
  have hb := holdBootAll_holds s true
  unfold State.faded
  rw [hx] at hb ⊢
  have h1 := railsRetain_on { s with ch := x }
  have f1 := (railsRetain_frame { s with ch := x }).fading
  generalize State.railsRetain { s with ch := x } = u at h1 f1
  have h2 := pwState_st u (new := stRetain) (by decide) causeCommand
  have f2 := pwState_fading u stRetain causeCommand
  have r2 := pwState_frame (Frame.refl [R.PW_STAT, R.PW_EVT] u) (by decide) (by decide) stRetain causeCommand
  generalize u.pwState stRetain causeCommand = v at h2 f2 r2
  obtain ⟨h3, f3, r3⟩ := writeAll_shows v
  generalize v.writeAll = w at h3 f3 r3
  have f := (f1.trans f2).trans f3
  refine ⟨(rget_of_reg (r3 _ (.inr (by decide)))).trans h2, f.spine, f.regs _ (.inl (by decide)) (by decide), h3, fun c => ?_, fun r => ?_⟩
  · rw [f.ch]; exact hb c
  · refine Eq.trans (congrArg (fun n => nbit n r) ?_) (h1 r)
    exact (rget_of_reg (r3 R.PSQ_STAT (.inr (by decide)))).trans (rget_of_reg (r2.regs R.PSQ_STAT (by decide) (by decide)))

theorem pwRetain_enters {s : State} (hst : s.pwSt = 1 ∨ s.pwSt = 2 ∨ s.pwSt = 3) (hd : s.fn.d3 = true ∨ s.fn.linkUp = false) : s.pwRetain = s.retainEnter :=
  if_pos ⟨hst, hd.imp id (fun h => by rw [h]; decide)⟩

theorem pwRetain_refuses {s : State} (hd : s.fn.d3 = false) (hl : s.fn.linkUp = true) : s.pwRetain = s.pwRefuse :=
  if_neg (fun h => h.2.elim (fun h => by rw [hd] at h; cases h) (fun h => h hl))

theorem retainEnter_shows (s : State) : let t := s.retainEnter
    t.pwSt = 4 ∧ t.powered = false ∧ t.pw.saved = s.accAhead s.ticksToSlowEdge ∧ (s.spine.hold = none → t.pw.saved = s.spine.acc.toNat + s.ticksToSlowEdge * s.tickInc) ∧
      t.pw.retEc.isSome = true ∧ (∀ c : Fin 96, t.ballLevel c = none) ∧ t.pw.leave = none ∧ t.recq = [] ∧ (∀ c : Fin 96, t.ch[c].holdBoot = true) ∧
      ∀ r : Fin 8, t.psqBit F.PSQ_STAT_ON r = (s.psqBit F.PSQ_STAT_ON r && s.ron (F.PSQ_Rr_CFG_RETKEEP r)) := by
  obtain ⟨h1, h2, h3, h4, h5, h6⟩ := faded_shows s
  have hpw : s.retainEnter.pwSt = 4 := h1
  obtain ⟨hp, hball⟩ := powerless (.inl hpw)
  have hsave : s.retainEnter.pw.saved = s.accAhead s.ticksToSlowEdge := by
    show s.faded.accAhead s.faded.ticksToSlowEdge = _
    rw [accAhead_congr h2 h3]
    unfold State.ticksToSlowEdge
    rw [h2]
  refine ⟨hpw, hp, hsave, fun hn => ?_, rfl, hball, rfl, h4, h5, h6⟩
  rw [hsave]
  unfold State.accAhead
  rw [hn]

theorem pwOff_shows (s : State) : s.pwOff.pwSt = 5 ∧ s.pwOff.powered = false ∧ s.pwOff.recq = [] ∧ ∀ c : Fin 96, s.pwOff.ballLevel c = none := by
  obtain ⟨h1, -, h3⟩ := writeAll_shows (s.pwState stOff causeCommand)
  have hst : s.pwOff.pwSt = 5 := (rget_of_reg (h3 _ (.inr (by decide)))).trans (pwState_st s (new := stOff) (by decide) causeCommand)
  obtain ⟨hp, hb⟩ := powerless (.inr hst)
  exact ⟨hst, hp, h1, hb⟩

/-! ### The edges of the slow clock -/

/-- A tick lies in period `q` of a slow clock as long as its time lies between two multiples of the period. -/
theorem slowPeriod_eq {p q A j : Nat} (hA : (q + 1) * p = A) (h1 : A ≤ j * 32768 + p) (h2 : j * 32768 < A) : j * 32768 / p = q :=
  Nat.div_eq_of_lt_le (by rw [Nat.add_mul, Nat.one_mul] at hA; omega) (by omega)

/-- The next edge of a slow clock of period `p` is the first in the ticks ahead. -/
theorem slowPeriod_next (p n : Nat) (hp : 32768 < p) : let d := ((n * 32768 / p + 1) * p + 32767) / 32768 - n
    ((n + d - 1 + 1) * 32768 / p ≠ (n + d - 1) * 32768 / p) ∧ ∀ k, n ≤ k → k + 1 < n + d → (k + 1) * 32768 / p = k * 32768 / p := by
  have hn : n * 32768 < (n * 32768 / p + 1) * p := by
    rw [Nat.mul_comm _ p]
    exact Nat.lt_mul_div_succ _ (by omega)
  have hq := Nat.div_mul_le_self (n * 32768) p
  generalize n * 32768 / p = q at hn hq ⊢
  obtain ⟨A, hA⟩ : ∃ A, (q + 1) * p = A := ⟨_, rfl⟩
  have hqp : A = q * p + p := by rw [← hA, Nat.add_mul, Nat.one_mul]
  rw [hA] at hn ⊢
  obtain ⟨e, he⟩ : ∃ e, (A + 32767) / 32768 = e := ⟨_, rfl⟩
  rw [he]
  have hlt : n < e := by omega
  refine ⟨?_, fun k hk hke => ?_⟩
  · have hlast : n + (e - n) - 1 = e - 1 := by omega
    have hlow : A ≤ (e - 1) * 32768 + p ∧ (e - 1) * 32768 < A ∧ A ≤ (e - 1 + 1) * 32768 := by omega
    obtain ⟨h1, h2, h3⟩ := hlow
    have hhigh : q + 1 ≤ (e - 1 + 1) * 32768 / p := (Nat.le_div_iff_mul_le (by omega)).2 (hA.le.trans h3)
    rw [hlast, slowPeriod_eq hA h1 h2]
    exact Nat.ne_of_gt hhigh
  · have hin : ∀ j, n ≤ j → j < e → j * 32768 / p = q := fun j h1 h2 => by
      have hj : A ≤ j * 32768 + p ∧ j * 32768 < A := by omega
      exact slowPeriod_eq hA hj.1 hj.2
    rw [hin k hk (by omega), hin (k + 1) (by omega) (by omega)]

/-- The next edge of the slow clock is the first in the ticks ahead. -/
theorem slowEdge_next (s : State) : slowEdgeAt (s.spine.tick + s.ticksToSlowEdge - 1) = true ∧
    ∀ k, s.spine.tick ≤ k → k + 1 < s.spine.tick + s.ticksToSlowEdge → slowEdgeAt k = false := by
  obtain ⟨h1, h2⟩ := slowPeriod_next (10 ^ 9) s.spine.tick (by norm_num)
  exact ⟨bne_iff_ne.2 h1, fun k hk hk' => bne_eq_false_iff_eq.2 (h2 k hk hk')⟩

end Sys2Proof.Machine
end

section
/-!
SUPPORT. What a reset keeps of the register file, and the OTP scan behind it (R335, R346, R364).
-/
set_option Elab.async false
namespace Sys2Proof.Machine
open Sys2Proof

theorem far_load {s t : State} (h : Far s t) : t.load = s.load := by
  obtain ⟨-, -, -, -, -, -, -, -, -, -, -, -, -, -, -, -, -, -, hl, -⟩ := h
  exact hl

theorem far_leave {s t : State} (h : Far s t) : t.pw.leave = s.pw.leave := by
  obtain ⟨-, -, -, -, -, -, -, -, -, -, -, -, -, -, -, -, -, -, -, -, -, -, -, -, -, hl, -⟩ := h
  exact hl

/-- A word of which a reset keeps the bits m of w'. -/
def mixed (w w' : Word) (m : Nat) : Word := word ((w.toNat &&& (0xFFFFFFFF - m)) ||| (w'.toNat &&& m))

theorem mixed_none (w w' : Word) : mixed w w' 0 = w := by
  unfold mixed word
  refine BitVec.eq_of_toNat_eq ?_
  have h : w.toNat &&& (2 ^ 32 - 1) = w.toNat % 2 ^ 32 := Nat.and_two_pow_sub_one_eq_mod _ 32
  rw [Nat.and_zero, Nat.or_zero, BitVec.toNat_ofNat]
  show (w.toNat &&& (2 ^ 32 - 1)) % 2 ^ 32 = _
  rw [h, Nat.mod_mod, Nat.mod_eq_of_lt w.isLt]

/-- The low bits, where a reset keeps none of them. -/
theorem mixed_low (w w' : Word) {m k : Nat} (hk : k ≤ 32) (h : m % 2 ^ k = 0) (hm : (0xFFFFFFFF - m) % 2 ^ k = 2 ^ k - 1) :
    (mixed w w' m).toNat % 2 ^ k = w.toNat % 2 ^ k := by
  unfold mixed word
  rw [BitVec.toNat_ofNat, Nat.mod_mod_of_dvd _ (pow_dvd_pow 2 hk), Nat.or_mod_two_pow, Nat.and_mod_two_pow, Nat.and_mod_two_pow, h, hm, Nat.and_zero, Nat.or_zero,
    Nat.and_two_pow_sub_one_eq_mod, Nat.mod_mod]

/-- Each register after a reset is its reset word but for the bits that the reset keeps. -/
theorem keptRegs_shape (s : State) (k : ResetKind) (o : Nat) :
    tblGet resetWord (s.keptRegs k) o = resetWord o ∨ ∃ w', tblGet resetWord (s.keptRegs k) o = mixed (resetWord o) w' (s.keptBits k o) := by
  refine List.foldlRecOn (motive := fun t => tblGet resetWord t o = resetWord o ∨ ∃ w', tblGet resetWord t o = mixed (resetWord o) w' (s.keptBits k o))
    _ _ (.inl rfl) (fun t ht e _ => ?_)
  by_cases he : o = e.1
  · subst he
    exact .inr ⟨e.2, tblGet_set_same _ _ _ _⟩
  · dsimp only
    rw [tblGet_set_ne _ _ _ he]
    exact ht

/-- A register of which a reset keeps nothing reads its reset word. -/
theorem keptRegs_reset (s : State) (k : ResetKind) (o : Nat) (h : s.keptBits k o = 0) : tblGet resetWord (s.keptRegs k) o = resetWord o := by
  rcases keptRegs_shape s k o with hw | ⟨w', hw⟩
  · exact hw
  · rw [hw, h, mixed_none]

/-! ### The OTP scan -/

/-- The scan's CRC over the voted words. -/
def State.otpCrc (s : State) : Word := crcFinal (crcWords crcInit s.otpVoted)

/-- The words in which the copies disagree. -/
def State.otpCorr (s : State) : Nat := (s.otp.filter (fun e => e.1 < 0x800 && otpDiff e.2 != 0)).length

/-- What a scan of this outcome notes. -/
def State.scanNoted (s : State) (corr trim : Nat) (bad : Bool) : State :=
  ((s.rput F.CAL_VOTE_CORR corr).rput F.CAL_VOTE_FBAD (b2n bad)).modLoad (fun l => { l with trim := trim })

/-- What a scan of this outcome does. -/
def State.scanTold (s : State) (corr trim : Nat) (bad : Bool) : State :=
  if bad = true then (s.scanNoted corr trim bad).evt F.CFG_EVT_FCRC_S else s.scanNoted corr trim bad

theorem scan_eq_told (s : State) (c d : Word) (corr trim : Nat) :
    (let bad := c ≠ d
     let s1 := (s.rput F.CAL_VOTE_CORR corr).rput F.CAL_VOTE_FBAD (b2n bad)
     let s2 := s1.modLoad (fun l => { l with trim := trim })
     if bad then s2.evt F.CFG_EVT_FCRC_S else s2) = s.scanTold corr trim (c != d) := by
  dsimp only
  unfold State.scanTold State.scanNoted
  by_cases h : c = d
  · rw [if_neg (not_not.2 h), if_neg (by rw [bne_iff_ne]; exact not_not.2 h), bne_eq_false_iff_eq.2 h, decide_eq_false (not_not.2 h)]
  · rw [if_pos h, if_pos (bne_iff_ne.2 h), bne_iff_ne.2 h, decide_eq_true h]

theorem otpScan_eq (s : State) : s.otpScan = s.scanTold s.otpCorr (s.otpV 0x3F8 % 64) (s.otpCrc != word (s.otpV 0x7FF)) :=
  scan_eq_told s (crcFinal (crcWords crcInit s.otpVoted)) (word (s.otpV 0x7FF)) s.otpCorr (s.otpV 0x3F8 % 64)

section
variable (s : State) (corr trim : Nat) (bad : Bool)

theorem rget_modLoad (f : Load → Load) (g : Fld) : (s.modLoad f).rget g = s.rget g := rfl

theorem reg_modLoad (f : Load → Load) (o : Nat) : (s.modLoad f).reg o = s.reg o := rfl

theorem modLoad_blocks (f : Load → Load) : (s.modLoad f).load = f s.load ∧ (s.modLoad f).spine = s.spine ∧ (s.modLoad f).sram = s.sram ∧
    (s.modLoad f).pw = s.pw ∧ (s.modLoad f).ch = s.ch := ⟨rfl, rfl, rfl, rfl, rfl⟩

theorem scanNoted_blocks : (s.scanNoted corr trim bad).load = { s.load with trim := trim } ∧ (s.scanNoted corr trim bad).spine = s.spine ∧
    (s.scanNoted corr trim bad).sram = s.sram ∧ (s.scanNoted corr trim bad).pw.leave = s.pw.leave ∧ (s.scanNoted corr trim bad).ch = s.ch := by
  unfold State.scanNoted
  have h := ((Frame.refl [R.CAL_VOTE] s).rput (f := F.CAL_VOTE_CORR) corr (by decide)).rput (f := F.CAL_VOTE_FBAD) (b2n bad) (by decide)
  generalize (s.rput F.CAL_VOTE_CORR corr).rput F.CAL_VOTE_FBAD (b2n bad) = u at h
  obtain ⟨h1, h2, h3, h4, h5⟩ := modLoad_blocks u (fun l => { l with trim := trim })
  exact ⟨by rw [h1, far_load h.far], h2.trans h.spine, h3.trans h.core.sram, by rw [h4, far_leave h.far], h5.trans h.core.ch⟩

theorem scanNoted_corr : (s.scanNoted corr trim bad).rget F.CAL_VOTE_CORR = corr % 2 ^ 11 := by
  unfold State.scanNoted
  rw [rget_modLoad, rget_rput_apart _ (f := F.CAL_VOTE_FBAD) (g := F.CAL_VOTE_CORR) _ (by decide) rfl (by decide), rget_rput_same _ _ _ (by decide)]
  rfl

theorem scanNoted_bad : (s.scanNoted corr trim bad).ron F.CAL_VOTE_FBAD = bad := by
  unfold State.scanNoted State.ron
  rw [rget_modLoad, rget_rput_same _ _ _ (by decide)]
  cases bad <;> rfl

theorem scanNoted_reg {o : Nat} (ho : o ≠ R.CAL_VOTE) : (s.scanNoted corr trim bad).reg o = s.reg o := by
  unfold State.scanNoted
  rw [reg_modLoad, reg_rput_ne _ _ ho, reg_rput_ne _ _ ho]

theorem scanTold_frame : Frame [R.CFG_EVT] (s.scanNoted corr trim bad) (s.scanTold corr trim bad) := by
  unfold State.scanTold
  split
  · exact (Frame.refl _ _).evt (by decide)
  · exact .refl _ _

theorem scanTold_shows : (s.scanTold corr trim bad).rget F.CAL_VOTE_CORR = corr % 2 ^ 11 ∧ (s.scanTold corr trim bad).ron F.CAL_VOTE_FBAD = bad ∧
    (bad = true → (s.scanTold corr trim bad).ron F.CFG_EVT_FCRC_S = true) ∧ (s.scanTold corr trim bad).load = { s.load with trim := trim } ∧
    ∀ o, reportReg o = false → o ≠ R.CAL_VOTE → o ≠ R.CFG_EVT → (s.scanTold corr trim bad).reg o = s.reg o := by
  have hf := scanTold_frame s corr trim bad
  have hv := hf.regs R.CAL_VOTE (by decide) (by decide)
  refine ⟨(rget_of_reg hv).trans (scanNoted_corr s corr trim bad), (ron_of_reg hv).trans (scanNoted_bad s corr trim bad), fun hb => ?_, (far_load hf.far).trans (scanNoted_blocks s corr trim bad).1, fun o hr ho ho' => (hf.regs o hr (by simpa using ho')).trans (scanNoted_reg s corr trim bad ho)⟩
  unfold State.scanTold
  rw [if_pos hb]
  exact ron_evt _ _ rfl (by decide) (by decide)

theorem scanTold_blocks : (s.scanTold corr trim bad).spine = s.spine ∧ (s.scanTold corr trim bad).sram = s.sram ∧
    (s.scanTold corr trim bad).pw.leave = s.pw.leave ∧ (s.scanTold corr trim bad).ch = s.ch := by
  have h := scanTold_frame s corr trim bad
  obtain ⟨-, h1, h2, h3, h4⟩ := scanNoted_blocks s corr trim bad
  exact ⟨h.spine.trans h1, h.core.sram.trans h2, (far_leave h.far).trans h3, h.core.ch.trans h4⟩

end

/-- The scan of a reset: what it counts shows, and it changes no register besides. -/
theorem otpScan_shows (s : State) : scanned s s.otpScan ∧ s.otpScan.load = { s.load with trim := s.otpV 0x3F8 % 64 } ∧
    ∀ o, reportReg o = false → o ≠ R.CAL_VOTE → o ≠ R.CFG_EVT → s.otpScan.reg o = s.reg o := by
  obtain ⟨h1, h2, h3, h4, h5⟩ := scanTold_shows s s.otpCorr (s.otpV 0x3F8 % 64) (s.otpCrc != word (s.otpV 0x7FF))
  rw [← otpScan_eq] at h1 h2 h3 h4 h5
  have hbad : (s.otpCrc != word (s.otpV 0x7FF)) = true ↔ s.otpCrc ≠ word (s.otpV 0x7FF) := bne_iff_ne
  exact ⟨⟨h1, by rw [h2]; exact hbad, fun h => h3 (hbad.2 h), by rw [h4]⟩, h4, h5⟩

theorem otpScan_blocks (s : State) : s.otpScan.spine = s.spine ∧ s.otpScan.sram = s.sram ∧ s.otpScan.pw.leave = s.pw.leave ∧ s.otpScan.ch = s.ch := by
  rw [otpScan_eq]
  exact scanTold_blocks _ _ _ _

end Sys2Proof.Machine
end

section
/-!
SUPPORT. The ends of RETAIN and OFF (R52, R355, R357, R364).
-/
set_option Elab.async false
namespace Sys2Proof.Machine
open Sys2Proof

theorem far_otp {s t : State} (h : Far s t) : t.otp = s.otp := by
  obtain ⟨-, -, -, -, -, ho, -⟩ := h
  exact ho

theorem scanned_congr {s v t : State} (h : v.otp = s.otp) (hs : scanned v t) : scanned s t := by
  have hv : v.otpV = s.otpV := by
    funext i
    unfold State.otpV State.otpWord
    rw [h]
  unfold scanned at hs ⊢
  rw [hv, h] at hs
  exact hs

/-! ### The power-on reset -/

theorem coldReset_reg (s : State) (o : Nat) : (s.coldReset .por).reg o = tblGet resetWord (s.pgLevels.keptRegs .por) o := rfl

theorem coldReset_plain (s : State) {o : Nat} (h : s.pgLevels.keptBits .por o = 0) : (s.coldReset .por).reg o = resetWord o :=
  (coldReset_reg s o).trans (keptRegs_reset _ _ _ h)

theorem coldReset_state (s : State) : (s.coldReset .por).pwSt = 3 := by
  have hreset : (resetWord R.PW_STAT).toNat % 2 ^ 3 = 3 := by decide +kernel
  show wfld (tblGet resetWord (s.pgLevels.keptRegs .por) R.PW_STAT) 0 3 = 3
  unfold wfld
  rw [Nat.shiftRight_zero]
  rcases keptRegs_shape s.pgLevels .por R.PW_STAT with h | ⟨w', h⟩ <;> rw [h]
  · exact hreset
  · exact (mixed_low _ _ (m := 0x7C0) (by decide) (by decide) (by decide)).trans hreset

theorem por_shows (s : State) : s.por.pwSt = 3 ∧ s.por.loading = true ∧ s.por.reg R.PW_RSTCAUSE = 1 := by
  obtain ⟨-, -, hr⟩ := otpScan_shows (s.coldReset .por)
  have hcause : resetWord R.PW_RSTCAUSE = 1 := by decide +kernel
  have hload : wfld (resetWord R.CFG_STAT) F.CFG_STAT_LOADING.lo F.CFG_STAT_LOADING.width ≠ 0 := by decide +kernel
  refine ⟨(rget_of_reg (hr _ (by decide) (by decide) (by decide))).trans (coldReset_state s), ?_, ?_⟩
  · refine (ron_of_reg (hr R.CFG_STAT (by decide) (by decide) (by decide))).trans ?_
    unfold State.ron State.rget
    rw [bne_iff_ne, show (s.coldReset .por).reg F.CFG_STAT_LOADING.reg = resetWord R.CFG_STAT from coldReset_plain s (by rfl)]
    exact hload
  · exact (hr _ (by decide) (by decide) (by decide)).trans ((coldReset_plain s (by rfl)).trans hcause)

/-! ### The exit from RETAIN -/

/-- The device as RETAIN's exit finds it again, before it reports. -/
def State.rebuilt (s : State) (edges : Nat) : State :=
  let s1 := s.modSpine (fun x => { x with acc := s.resumed edges })
  { (s1.coreReset .retain).modSpine (fun x => { x with refGone := false }) with
    sram := s1.retainedSram
    fn := State.reset.fn
    load := loadAfter s1.now true
    hif := { s.hifAfter with rstd := s.hif.rstd }
    pw := { s1.pw with linkRst := none, leave := none } }

/-- The exit as it reports. -/
def State.reported (u : State) : State := (((u.rput F.SPN_STAT_LOCKED 1).rstCause 0x40).evt F.PW_EVT_RESET_S).evt F.PW_EVT_WAKE_S

theorem retainExit_some {s : State} {edges cause : Nat} (hl : s.pw.leave = some cause) (hp : s.pwSt = 4) (ht : s.timerRun cause edges = true) :
    s.retainExit edges = (s.rebuilt edges).reported.otpScan.pwState stHold cause := by
  unfold State.retainExit
  rw [hl]
  exact if_pos ⟨hp, ht⟩

theorem retainExit_none {s : State} (edges : Nat) (h : s.pwSt ≠ 4 ∨ s.pw.leave = none) : s.retainExit edges = s := by
  unfold State.retainExit
  split
  · next hl => exact if_neg (fun hc => h.elim (fun hn => hn hc.1) (fun hn => by rw [hn] at hl; cases hl))
  · rfl

theorem retainExit_early {s : State} {edges cause : Nat} (hl : s.pw.leave = some cause) (ht : s.timerRun cause edges = false) : s.retainExit edges = s := by
  unfold State.retainExit
  rw [hl]
  exact if_neg (fun hc => by rw [ht] at hc; cases hc.2)

theorem timerRun_iff (s : State) (cause edges : Nat) : s.timerRun cause edges = true ↔ (cause = 3 → (s.reg R.PW_RET_TMR).toNat * 32768 ≤ edges * 1000) := by
  unfold State.timerRun
  rw [Bool.or_eq_true, bne_iff_ne, decide_eq_true_iff]
  exact (imp_iff_not_or).symm

theorem reported_shows (u : State) : u.reported.reg R.PW_RSTCAUSE = 0x40 ∧ u.reported.ron F.SPN_STAT_LOCKED = true ∧ u.reported.ron F.PW_EVT_WAKE_S = true ∧
    u.reported.ron F.PW_EVT_RESET_S = true ∧ Frame [R.SPN_STAT, R.PW_RSTCAUSE, R.PW_EVT] u u.reported := by
  unfold State.reported State.rstCause
  have h0 := (Frame.refl [R.SPN_STAT, R.PW_RSTCAUSE, R.PW_EVT] u).rput (f := F.SPN_STAT_LOCKED) 1 (by decide)
  have hlock : (u.rput F.SPN_STAT_LOCKED 1).ron F.SPN_STAT_LOCKED = true := by
    rw [ron_eq_true, rget_rput_same _ _ _ (by decide)]
    decide
  generalize u.rput F.SPN_STAT_LOCKED 1 = v at h0 hlock
  have h1 := h0.setReg (o := R.PW_RSTCAUSE) (word 0x40) (by decide)
  have hc : (v.setReg R.PW_RSTCAUSE (word 0x40)).reg R.PW_RSTCAUSE = 0x40 := reg_setReg_same _ _ _
  have hl : (v.setReg R.PW_RSTCAUSE (word 0x40)).ron F.SPN_STAT_LOCKED = true := (ron_of_reg (reg_setReg_ne _ _ (by decide))).trans hlock
  generalize v.setReg R.PW_RSTCAUSE (word 0x40) = w at h1 hc hl
  have he := ((Frame.refl [R.PW_EVT] w).evt (f := F.PW_EVT_RESET_S) (by decide)).evt (f := F.PW_EVT_WAKE_S) (by decide)
  refine ⟨(he.regs _ (by decide) (by decide)).trans hc, (ron_of_reg (he.regs _ (by decide) (by decide))).trans hl, ron_evt _ _ rfl (by decide) (by decide), ?_,
    (h1.evt (f := F.PW_EVT_RESET_S) (by decide)).evt (f := F.PW_EVT_WAKE_S) (by decide)⟩
  refine (ron_of_rget_eq (rget_evt_apart _ (f := F.PW_EVT_WAKE_S) (g := F.PW_EVT_RESET_S) (by decide) (by decide) rfl (by decide))).trans ?_
  exact ron_evt _ _ rfl (by decide) (by decide)

theorem pwState_keepsReset {s : State} (h : s.ron F.PW_EVT_RESET_S = true) (new cause : Nat) : (s.pwState new cause).ron F.PW_EVT_RESET_S = true := by
  unfold State.pwState
  dsimp only
  split
  · exact h
  · refine (ron_of_rget_eq ?_).trans h
    exact (rget_emit _ _ _ _ _ _ _ _ _ (g := F.PW_EVT_RESET_S) (by decide)).trans
      ((rget_evt_apart _ (f := F.PW_EVT_STATE_S) (g := F.PW_EVT_RESET_S) (by decide) (by decide) rfl (by decide)).trans
        (rget_rput_ne _ (f := F.PW_STAT_STATE) (g := F.PW_EVT_RESET_S) _ (by decide)))

/-- What the report, the scan and the change of state add to a device found again. -/
theorem restart_shows (u : State) (cause : Nat) : let t := u.reported.otpScan.pwState stHold cause
    t.pwSt = 3 ∧ t.loading = u.loading ∧ t.reg R.PW_RSTCAUSE = 0x40 ∧ t.ron F.SPN_STAT_LOCKED = true ∧ scanned u.reported t ∧ t.ron F.PW_EVT_WAKE_S = true ∧
      t.ron F.PW_EVT_RESET_S = true ∧ t.load.retx = u.load.retx ∧ t.pw.leave = u.pw.leave ∧ t.spine = u.spine ∧ t.sram = u.sram ∧ t.otp = u.reported.otp := by
  intro t
  obtain ⟨hc, hl, hw, hr, hf⟩ := reported_shows u
  obtain ⟨hscan, hload, hregs⟩ := otpScan_shows u.reported
  obtain ⟨hsp, hsr, hlv, -⟩ := otpScan_blocks u.reported
  have hst := pwState_st u.reported.otpScan (new := stHold) (by decide) cause
  have hp := pwState_frame (Frame.refl [R.PW_STAT, R.PW_EVT] u.reported.otpScan) (by decide) (by decide) stHold cause
  have hotp : u.reported.otpScan.otp = u.reported.otp := (otpScan_kept _ (kept_refl u.reported)).2.1
  have hkw := fun h => pwState_keepsWake (s := u.reported.otpScan) h stHold cause
  have hkr := fun h => pwState_keepsReset (s := u.reported.otpScan) h stHold cause
  change Frame _ _ t at hp
  change t.pwSt = 3 at hst
  change _ → t.ron _ = true at hkw
  change _ → t.ron _ = true at hkr
  clear_value t
  generalize u.reported.otpScan = w at *
  generalize u.reported = v at *
  have hlow : ∀ o, reportReg o = false → o ∉ [R.PW_STAT, R.PW_EVT] → o ≠ R.CAL_VOTE → o ≠ R.CFG_EVT → t.reg o = v.reg o := fun o h1 h2 h3 h4 =>
    (hp.regs o h1 h2).trans (hregs o h1 h3 h4)
  refine ⟨hst, ?_, ?_, ?_, ?_, ?_, ?_, ?_, ?_, ?_, ?_, ?_⟩
  · exact (ron_of_reg (hlow R.CFG_STAT (by decide) (by decide) (by decide) (by decide))).trans (ron_of_reg (hf.regs R.CFG_STAT (by decide) (by decide)))
  · exact (hlow _ (by decide) (by decide) (by decide) (by decide)).trans hc
  · exact (ron_of_reg (hlow R.SPN_STAT (by decide) (by decide) (by decide) (by decide))).trans hl
  · obtain ⟨h1, h2, h3, h4⟩ := hscan
    have hv := hp.regs R.CAL_VOTE (by decide) (by decide)
    exact ⟨(rget_of_reg hv).trans h1, by rw [ron_of_reg (f := F.CAL_VOTE_FBAD) hv]; exact h2, fun hb => (ron_of_reg (hp.regs R.CFG_EVT (by decide) (by decide))).trans (h3 hb),
      by rw [far_load hp.far]; exact h4⟩
  · exact hkw ((ron_of_reg (hregs _ (by decide) (by decide) (by decide))).trans hw)
  · exact hkr ((ron_of_reg (hregs _ (by decide) (by decide) (by decide))).trans hr)
  · rw [far_load hp.far, hload, far_load hf.far]
  · exact (far_leave hp.far).trans (hlv.trans (far_leave hf.far))
  · exact hp.spine.trans (hsp.trans hf.spine)
  · exact hp.core.sram.trans (hsr.trans hf.core.sram)
  · exact (far_otp hp.far).trans hotp

/-- Memory that a filter by address leaves. -/
theorem tblFind_filter_key {α : Type} (p : Nat → Bool) (m : Tbl α) (a : Nat) : tblFind (m.filter (fun e => p e.1)) a = if p a = true then tblFind m a else none := by
  induction m with
  | nil => exact (ite_self _).symm
  | cons e l ih =>
    obtain ⟨k, v⟩ := e
    rw [List.filter_cons]
    by_cases hk : k = a
    · subst hk
      by_cases hp : p k = true
      · rw [if_pos hp, if_pos hp, tblFind, tblFind, if_pos rfl, if_pos rfl]
      · rw [if_neg hp, ih, if_neg hp, if_neg hp]
    · rw [tblFind, if_neg hk, ← ih]
      split
      · rw [tblFind, if_neg hk]
      · rfl

theorem retainedSram_reads (s : State) (a : Nat) :
    memRd s.retainedSram a = if nbit (s.rget F.PW_RET_CFG_BANKS) (a / 0x40000) then memRd s.sram a else 0 := by
  unfold memRd tblGet State.retainedSram
  rw [tblFind_filter_key (fun a => nbit (s.rget F.PW_RET_CFG_BANKS) (a / 0x40000))]
  split <;> rfl

/-- RETAIN's exit keeps nothing of `CFG_STAT`. -/
theorem keptBits_retain_cfgStat (s : State) : s.keptBits .retain R.CFG_STAT = 0 := by
  have hl : s.lockedBits R.CFG_STAT = 0 := by
    unfold State.lockedBits
    rw [show lockMask R.CFG_STAT = none from rfl]
  show (if mramReg R.CFG_STAT then 0xFFFFFFFF else physicalBits R.CFG_STAT) ||| (if R.CFG_STAT = R.SPN_STAT then 0 else coreBits R.CFG_STAT) ||| s.lockedBits R.CFG_STAT = 0
  rw [hl]
  decide

theorem rebuilt_loading (s : State) (edges : Nat) : (s.rebuilt edges).loading = true := by
  have hload : wfld (resetWord R.CFG_STAT) F.CFG_STAT_LOADING.lo F.CFG_STAT_LOADING.width ≠ 0 := by decide +kernel
  have hreg := keptRegs_reset (s.modSpine (fun x => { x with acc := s.resumed edges })) .retain _ (keptBits_retain_cfgStat _)
  unfold State.loading State.ron State.rget
  rw [bne_iff_ne]
  refine fun h => hload (Eq.trans ?_ h)
  rw [← hreg]
  rfl

theorem rebuilt_blocks (s : State) (edges : Nat) : let u := s.rebuilt edges
    u.load.retx = true ∧ u.pw.leave = none ∧
      u.spine.acc = BitVec.ofNat 104 (s.pw.saved + edges * (s.reg R.SPN_SLOWPER).toNat * 2 ^ 24) ∧ u.spine.hold = none ∧ u.spine.refGone = false :=
  ⟨rfl, rfl, rfl, rfl, rfl⟩

theorem modSpine_reads (s : State) (f : Spine → Spine) : (s.modSpine f).sram = s.sram ∧ ∀ g, (s.modSpine f).rget g = s.rget g := ⟨rfl, fun _ => rfl⟩

theorem rebuilt_sram (s : State) (edges : Nat) : ∃ f : Spine → Spine, (s.rebuilt edges).sram = (s.modSpine f).retainedSram :=
  ⟨fun x => { x with acc := s.resumed edges }, rfl⟩

theorem rebuilt_reads (s : State) (edges a : Nat) :
    memRd (s.rebuilt edges).sram a = if nbit (s.rget F.PW_RET_CFG_BANKS) (a / 0x40000) then memRd s.sram a else 0 := by
  obtain ⟨f, hf⟩ := rebuilt_sram s edges
  obtain ⟨h1, h2⟩ := modSpine_reads s f
  rw [hf, retainedSram_reads, h1, h2]

/-- The exit from RETAIN (R52, R357). -/
theorem retainExit_shows {s : State} {edges cause : Nat} (hl : s.pw.leave = some cause) (hp : s.pwSt = 4) (ht : s.timerRun cause edges = true) : let t := s.retainExit edges
    t.pwSt = 3 ∧ t.loading = true ∧ t.load.retx = true ∧ t.reg R.PW_RSTCAUSE = 0x40 ∧ t.ron F.SPN_STAT_LOCKED = true ∧ t.pw.leave = none ∧
      t.spine.acc = BitVec.ofNat 104 (s.pw.saved + edges * (s.reg R.SPN_SLOWPER).toNat * 2 ^ 24) ∧ t.spine.hold = none ∧ t.spine.refGone = false ∧ scanned s t ∧
      t.ron F.PW_EVT_WAKE_S = true ∧ t.ron F.PW_EVT_RESET_S = true ∧
      ∀ a, memRd t.sram a = if nbit (s.rget F.PW_RET_CFG_BANKS) (a / 0x40000) then memRd s.sram a else 0 := by
  have hotp : (s.retainExit edges).otp = s.otp := (retainExit_kept s edges (kept_refl s)).2.1
  rw [retainExit_some hl hp ht] at hotp ⊢
  have u1 := rebuilt_loading s edges
  have u2 := rebuilt_reads s edges
  obtain ⟨u3, u4, u5, u6, u7⟩ := rebuilt_blocks s edges
  generalize s.rebuilt edges = u at *
  obtain ⟨t1, t2, t3, t4, t5, t6, t7, t8, t9, t10, t11, t12⟩ := restart_shows u cause
  generalize u.reported.otpScan.pwState stHold cause = t at *
  refine ⟨t1, t2.trans u1, t8.trans u3, t3, t4, t9.trans u4, by rw [t10, u5], by rw [t10, u6], by rw [t10, u7], scanned_congr (t12.symm.trans hotp) t5, t6, t7, fun a => ?_⟩
  rw [t11, u2]

/-! ### The other ends -/

theorem wkup_apart {s : State} {falling : Bool} (h : s.ron F.PW_CTRL_WKPOL ≠ falling) : s.wkup falling = s := if_neg h

section
variable {s : State} {falling : Bool} (hpol : s.ron F.PW_CTRL_WKPOL = falling)
include hpol

theorem wkup_idle (hp : s.pwSt = 2) (hf : s.frozen = false) : s.wkup falling = (s.evt F.PW_EVT_WAKE_S).idleEnd causeWkup := by
  unfold State.wkup
  rw [if_pos hpol]
  exact if_pos ⟨hp, by rw [hf]; decide⟩

theorem wkup_retain (hp : s.pwSt = 4) (he : s.ron F.PW_CTRL_WKEN = true) (hl : s.pw.leave = none) :
    s.wkup falling = { s with pw := { s.pw with leave := some 2 } } := by
  unfold State.wkup
  rw [if_pos hpol, if_neg (fun h => by rw [hp] at h; exact absurd h.1 (by decide))]
  exact if_pos ⟨hp, he, hl⟩

theorem wkup_off (hp : s.pwSt = 5) (he : s.ron F.PW_CTRL_WKEN = true) (hv : s.ron F.PW_STAT_VIN_OK = true) : s.wkup falling = s.por := by
  unfold State.wkup
  rw [if_pos hpol, if_neg (fun h => by rw [hp] at h; exact absurd h.1 (by decide)), if_neg (fun h => by rw [hp] at h; exact absurd h.1 (by decide))]
  exact if_pos ⟨hp, he, hv⟩

theorem wkup_none (h : s.pwSt = 1 ∨ s.pwSt = 3 ∨ (3 < s.pwSt ∧ s.ron F.PW_CTRL_WKEN = false)) : s.wkup falling = s := by
  have hidle : s.pwSt ≠ 2 := by omega
  unfold State.wkup
  rw [if_pos hpol, if_neg (fun h => hidle h.1)]
  rcases h with h | h | ⟨-, h⟩
  · rw [if_neg (fun hc => by rw [h] at hc; exact absurd hc.1 (by decide)), if_neg (fun hc => by rw [h] at hc; exact absurd hc.1 (by decide))]
  · rw [if_neg (fun hc => by rw [h] at hc; exact absurd hc.1 (by decide)), if_neg (fun hc => by rw [h] at hc; exact absurd hc.1 (by decide))]
  · rw [if_neg (fun hc => by rw [h] at hc; exact absurd hc.2.1 (by decide)), if_neg (fun hc => by rw [h] at hc; exact absurd hc.2.1 (by decide))]

end

theorem retTimer_none {s : State} (h : s.pwSt ≠ 4 ∨ s.reg R.PW_RET_TMR = 0 ∨ s.pw.leave ≠ none) : s.retTimer = s :=
  if_neg (fun hc => h.elim (fun h => h hc.1) (fun h => h.elim hc.2.1 (fun h => h hc.2.2)))

theorem idleWake_none {s : State} (h : s.pwSt ≠ 2 ∨ s.ron F.PW_CTRL_IDLE_WAKE = false ∨ s.wakeBall = false) : s.idleWake = s := by
  refine if_neg (fun hc => ?_)
  obtain ⟨h1, h2, h3⟩ := hc
  rcases h with h | h | h
  · exact h h1
  · rw [h] at h2; cases h2
  · rw [h] at h3; cases h3

theorem pwCmdRefused_refuses (s : State) {v : Word} (h : wfld v 16 16 ≠ 0x5D96 ∨ 7 ≤ wfld v 0 4) : s.pwCmdRefused v = s.pwRefuse := by
  unfold State.pwCmdRefused
  dsimp only
  rw [if_neg]
  rintro ⟨hk, ha⟩
  have hop := h.resolve_left (not_not.2 hk)
  generalize wfld v 0 4 = op at ha hop
  obtain ⟨k, rfl⟩ := Nat.exists_eq_add_of_le' hop
  exact Bool.noConfusion ha

end Sys2Proof.Machine
end

section
set_option Elab.async false
namespace Sys2Proof
open Sys2Proof.Machine

theorem pwCommands_follow (p : Path) {s : State} (hw : s.takesWrites = true) :
    exec (.pwNop p) s = .next s ∧ exec (.pwRun p) s = .next s.pwRun ∧ exec (.pwIdle p) s = .next s.pwIdle ∧ exec (.pwHold p) s = .next s.pwHold ∧
      exec (.pwRetain p) s = .next s.pwRetain ∧ exec (.pwOff p) s = .next s.pwOff ∧ ∀ v, exec (.pwCmdRefused p v) s = .next (s.pwCmdRefused v) := by
  have h := fun f => congrArg (fun t => (Host.Outcome.next t : Host.Outcome State Fault Refusal)) (pwCommand_open hw f)
  exact ⟨h id, h State.pwRun, h State.pwIdle, h State.pwHold, h State.pwRetain, h State.pwOff, fun v => h (fun s => s.pwCmdRefused v)⟩

theorem exec_wkup {falling : Bool} {s t : State} (h : s.wkup falling = t) : exec (.wkupInEdge falling) s = .next t := congrArg Host.Outcome.next h

theorem exec_retTimer {s t : State} (h : s.retTimer = t) : exec .retTmrExpiry s = .next t := congrArg Host.Outcome.next h

theorem exec_retainExit {edges : Nat} {s t : State} (h : s.retainExit edges = t) : exec (.retainExit edges) s = .next t := congrArg Host.Outcome.next h

theorem exec_idleWake {s t : State} (hev : s.takesEvents = true) (h : s.idleWake = t) : exec .idleWake s = .next t :=
  (event_open hev State.idleWake).trans (congrArg Host.Outcome.next h)

/-- Settles O55: each command, each wake and each end by its lemma. -/
theorem powerStatesFollow : Obligations.PowerStatesFollow := by
  unfold Obligations.PowerStatesFollow
  refine ⟨fun p s hw => ?_, fun p s hp hf c hc => ?_, slowEdge_next, fun falling s => ⟨fun h => exec_wkup (wkup_apart h), fun hpol => ?_⟩, fun s => ?_⟩
  · obtain ⟨e1, e2, e3, e4, e5, e6, e7⟩ := pwCommands_follow p hw
    rw [e1, e2, e3, e4, e5, e6]
    refine ⟨rfl, fun h => ?_, fun h => ?_, fun h => ⟨_, rfl, pwIdle_shows h⟩, fun h => ?_, fun h => ⟨_, rfl, pwHold_shows h⟩, fun h1 h2 => ?_, fun hst hd => ?_,
      fun hd hl => ?_, ⟨_, rfl, pwOff_shows s⟩, fun v hv => ?_⟩
    · obtain ⟨h1, h2, -⟩ := idleEnd_shows s causeCommand
      exact ⟨_, congrArg _ (if_pos h), h1, h2⟩
    · exact ⟨_, congrArg _ (if_neg h), pwRefuse_shows s⟩
    · exact ⟨_, congrArg _ (if_neg h), pwRefuse_shows s⟩
    · exact ⟨_, congrArg _ (if_neg (fun h => h.elim h1 h2)), pwRefuse_shows s⟩
    · exact ⟨_, congrArg _ (pwRetain_enters hst hd), retainEnter_shows s⟩
    · exact ⟨_, congrArg _ (pwRetain_refuses hd hl), pwRefuse_shows s⟩
    · exact ⟨_, (e7 v).trans (congrArg _ (pwCmdRefused_refuses s hv)), pwRefuse_shows s⟩
  · have h := fun f => congrArg (fun t => (Host.Outcome.next t : Host.Outcome State Fault Refusal)) (pwCommand_frozen hp hf f)
    have hall : exec c s = .next (s.rsat F.FRZ_CNT_IGN 1).pwRefuse := by
      simp only [List.mem_cons, List.not_mem_nil, or_false] at hc
      rcases hc with rfl | rfl | rfl | rfl | rfl | rfl | rfl <;> exact h _
    exact ⟨_, hall, frozenRefusal_shows s⟩
  · refine ⟨fun h1 h2 => ?_, fun h1 h2 h3 => ?_, fun h1 h2 h3 => ?_, fun h => ?_⟩
    · exact ⟨_, exec_wkup (wkup_idle hpol h1 h2), wakeEnds_shows s causeWkup⟩
    · exact exec_wkup (wkup_retain hpol h1 h2 h3)
    · exact ⟨_, exec_wkup (wkup_off hpol h1 h2 h3), por_shows s⟩
    · exact exec_wkup (wkup_none hpol h)
  · refine ⟨fun h => ?_, fun h1 h2 h3 => ?_, fun edges => ⟨fun h => ?_, fun cause h1 h2 h3 h4 => ?_, fun cause h1 h2 h3 => ?_⟩, fun hev => ⟨fun h => ?_, fun h1 h2 h3 => ?_⟩⟩
    · exact exec_retTimer (retTimer_none h)
    · exact exec_retTimer (if_pos ⟨h1, h2, h3⟩)
    · exact exec_retainExit (retainExit_none edges h)
    · refine exec_retainExit (retainExit_early h2 (Bool.eq_false_iff.2 (fun ht => ?_)))
      exact absurd ((timerRun_iff s cause edges).1 ht h3) (Nat.not_le.2 h4)
    · exact ⟨_, exec_retainExit rfl, retainExit_shows h2 h1 ((timerRun_iff s cause edges).2 h3)⟩
    · exact exec_idleWake hev (idleWake_none h)
    · exact ⟨_, exec_idleWake hev (if_pos ⟨h1, h2, h3⟩), wakeEnds_shows s causeWake⟩

end Sys2Proof
end

section
/-!
SUPPORT. Runs of Ewerlink's operations: the fields that they write, and what they do to the block's own state (R260 to R291).
-/
set_option Elab.async false
namespace Sys2Proof.Machine
open Sys2Proof

/-! ### Blocks -/

theorem far_el {s t : State} (h : Far s t) : t.el = s.el := by
  obtain ⟨-, -, -, -, -, -, -, -, -, -, -, -, he, -⟩ := h
  exact he

/-- Among the blocks only Ewerlink and the counter of free values have moved. -/
def ElBlocks (s t : State) : Prop := State.sameBlocks { s with el := t.el, free := t.free } t

theorem ElBlocks.of {s t : State} {x : Ewer} {y : Nat} (h : State.sameBlocks { s with el := x, free := y } t) : ElBlocks s t := by
  have hx : t.el = x := far_el h.1
  have hy : t.free = y := Core.free h.2
  unfold ElBlocks
  rw [hx, hy]
  exact h

theorem ElBlocks.refl (s : State) : ElBlocks s s := .of (sameBlocks_refl s)

theorem ElBlocks.modEl {s t : State} (h : ElBlocks s t) (f : Ewer → Ewer) : ElBlocks s (t.modEl f) := by
  obtain ⟨⟨h1, h2, h3, h4, h5, h6, h7, h8, h9, h10, h11, h12, -, hrest⟩, hc⟩ := h
  exact ⟨⟨h1, h2, h3, h4, h5, h6, h7, h8, h9, h10, h11, h12, rfl, hrest⟩, hc⟩

theorem ElBlocks.drawn {s t : State} (h : ElBlocks s t) : ElBlocks s t.drawn := by
  obtain ⟨hf, ⟨h1, h2, h3, h4, h5, h6, -⟩⟩ := h
  exact ⟨hf, ⟨h1, h2, h3, h4, h5, h6, rfl⟩⟩

theorem ElBlocks.far {s t u : State} (h : ElBlocks s t) (hf : Far t u) (hc : Core t u) : ElBlocks s u :=
  .of ⟨far_trans h.1 hf, by
    obtain ⟨a1, a2, a3, a4, a5, a6, a7⟩ := h.2
    obtain ⟨b1, b2, b3, b4, b5, b6, b7⟩ := hc
    exact ⟨b1.trans a1, b2.trans a2, b3.trans a3, b4.trans a4, b5.trans a5, b6.trans a6, b7.trans a7⟩⟩

theorem ElBlocks.trans {s t u : State} (h : ElBlocks s t) (h' : ElBlocks t u) : ElBlocks s u := by
  obtain ⟨⟨h1, h2, h3, h4, h5, h6, h7, h8, h9, h10, h11, h12, -, hrest⟩, ⟨c1, c2, c3, c4, c5, c6, -⟩⟩ := h
  obtain ⟨⟨k1, k2, k3, k4, k5, k6, k7, k8, k9, k10, k11, k12, -, krest⟩, ⟨d1, d2, d3, d4, d5, d6, -⟩⟩ := h'
  have hfar : Far { s with el := u.el, free := u.free } { t with el := u.el, free := u.free } :=
    ⟨h1, h2, h3, h4, h5, h6, h7, h8, h9, h10, h11, h12, rfl, hrest⟩
  exact ⟨far_trans hfar ⟨k1, k2, k3, k4, k5, k6, k7, k8, k9, k10, k11, k12, rfl, krest⟩,
    ⟨d1.trans c1, d2.trans c2, d3.trans c3, d4.trans c4, d5.trans c5, d6.trans c6, rfl⟩⟩

theorem ElBlocks.of_same {s t : State} (h : s.sameBlocks t) : ElBlocks s t := (ElBlocks.refl s).far h.1 h.2

theorem ElBlocks.spine {s t : State} (h : ElBlocks s t) : t.spine = s.spine := by
  obtain ⟨⟨-, -, -, hs, -⟩, -⟩ := h
  exact hs

/-! ### Fields -/

/-- Two fields share no bit. -/
def apart (f g : Fld) : Prop := g.reg ≠ f.reg ∨ g.lo + g.width ≤ f.lo ∨ f.lo + f.width ≤ g.lo

/-- A whole register, as a field. -/
def wholeReg (o : Nat) : Fld := ⟨o, 0, 32⟩

theorem rget_rput_of_apart (s : State) {f g : Fld} (v : Nat) (hf : f.lo + f.width ≤ 32) (h : apart f g) : (s.rput f v).rget g = s.rget g := by
  by_cases hr : g.reg = f.reg
  · exact rget_rput_apart s v hf hr (h.resolve_left (not_not.2 hr))
  · exact rget_rput_ne s v hr

theorem rget_evt_of_apart (s : State) {f g : Fld} (hr : reportReg g.reg = false) (hf : f.lo + f.width ≤ 32) (h : apart f g) : (s.evt f).rget g = s.rget g := by
  by_cases he : g.reg = f.reg
  · exact rget_evt_apart s hr hf he (h.resolve_left (not_not.2 he))
  · exact rget_evt_ne s hr he

theorem reg_of_rget_whole {s t : State} {o : Nat} (h : t.rget (wholeReg o) = s.rget (wholeReg o)) : t.reg o = s.reg o := by
  have hw : ∀ u : State, u.rget (wholeReg o) = (u.reg o).toNat := fun u => by
    show ((u.reg o).toNat >>> 0) % 2 ^ 32 = _
    rw [Nat.shiftRight_zero, Nat.mod_eq_of_lt (u.reg o).isLt]
  rw [hw, hw] at h
  exact BitVec.eq_of_toNat_eq h

/-- A run of operations of Ewerlink: the fields W that it may write, and what holds of the block's own state. -/
structure ElRun (W : Fld → Prop) (K : Ewer → Prop) (s t : State) : Prop where
  blocks : ElBlocks s t
  flds : ∀ g, reportReg g.reg = false → (∀ f, W f → apart f g) → t.rget g = s.rget g
  own : K t.el

theorem ElRun.refl {W : Fld → Prop} {K : Ewer → Prop} {s : State} (h : K s.el) : ElRun W K s s := ⟨.refl s, fun _ _ _ => rfl, h⟩

section
variable {W : Fld → Prop} {K : Ewer → Prop} {s t : State} (h : ElRun W K s t)
include h

theorem ElRun.rput {f : Fld} (v : Nat) (hw : W f) (hf : f.lo + f.width ≤ 32) : ElRun W K s (t.rput f v) :=
  ⟨h.blocks.far (setReg_far _ _ _ (far_refl t)) (setReg_core _ _ _ (core_refl t)),
    fun g hr hg => (rget_rput_of_apart t v hf (hg f hw)).trans (h.flds g hr hg), h.own⟩

theorem ElRun.rsat {f : Fld} (k : Nat) (hw : W f) (hf : f.lo + f.width ≤ 32) : ElRun W K s (t.rsat f k) := h.rput _ hw hf

theorem ElRun.setReg {o : Nat} (w : Word) (hw : W (wholeReg o)) : ElRun W K s (t.setReg o w) :=
  ⟨h.blocks.far (setReg_far _ _ _ (far_refl t)) (setReg_core _ _ _ (core_refl t)), fun g hr hg => by
    rcases hg _ hw with hne | hlow | hhigh
    · exact (rget_of_reg (reg_setReg_ne t w hne)).trans (h.flds g hr hg)
    · have hz : g.width = 0 := Nat.eq_zero_of_add_eq_zero_left (Nat.le_zero.1 hlow)
      unfold State.rget wfld
      rw [hz, Nat.pow_zero, Nat.mod_one, Nat.mod_one]
    · have hbig : ∀ x : Word, x.toNat >>> g.lo = 0 := fun x => by
        rw [Nat.shiftRight_eq_div_pow]
        exact Nat.div_eq_of_lt (lt_of_lt_of_le x.isLt (Nat.pow_le_pow_right (by decide) hhigh))
      unfold State.rget wfld
      rw [hbig, hbig], h.own⟩

theorem ElRun.evt {f : Fld} (hw : W f) (hf : f.lo + f.width ≤ 32) : ElRun W K s (t.evt f) :=
  ⟨h.blocks.far (evt_far _ _ (far_refl t)) (evt_core _ _ (core_refl t)),
    fun g hr hg => (rget_evt_of_apart t hr hf (hg f hw)).trans (h.flds g hr hg), by rw [far_el (evt_far t f (far_refl t))]; exact h.own⟩

theorem ElRun.emit (type src tm fl : Nat) (w4 w5 w6 w7 : Word) : ElRun W K s (t.emit type src tm fl w4 w5 w6 w7) :=
  ⟨h.blocks.far (emit_far _ _ _ _ _ _ _ _ _ (far_refl t)) (emit_core _ _ _ _ _ _ _ _ _ (core_refl t)),
    fun g hr hg => (rget_emit t _ _ _ _ _ _ _ _ hr).trans (h.flds g hr hg), by
      rw [far_el (emit_far t type src tm fl w4 w5 w6 w7 (far_refl t))]; exact h.own⟩

theorem ElRun.modEl (f : Ewer → Ewer) (hf : K (f t.el)) : ElRun W K s (t.modEl f) := ⟨h.blocks.modEl f, h.flds, hf⟩

theorem ElRun.drawn : ElRun W K s t.drawn := ⟨h.blocks.drawn, h.flds, h.own⟩

theorem ElRun.trans {K' : Ewer → Prop} {u : State} (h' : ElRun W K' t u) : ElRun W K' s u :=
  ⟨h.blocks.trans h'.blocks, fun g hr hg => (h'.flds g hr hg).trans (h.flds g hr hg), h'.own⟩

theorem ElRun.mono {W' : Fld → Prop} {K' : Ewer → Prop} (hW : ∀ f, W f → W' f) (hK : K t.el → K' t.el) : ElRun W' K' s t :=
  ⟨h.blocks, fun g hr hg => h.flds g hr (fun f hf => hg f (hW f hf)), hK h.own⟩

theorem ElRun.reg {o : Nat} (hr : reportReg o = false) (ho : ∀ f, W f → f.reg ≠ o) : t.reg o = s.reg o :=
  reg_of_rget_whole (h.flds (wholeReg o) hr (fun f hf => .inl (ho f hf).symm))

theorem ElRun.ron {g : Fld} (hr : reportReg g.reg = false) (hg : ∀ f, W f → apart f g) : t.ron g = s.ron g := ron_of_rget_eq (h.flds g hr hg)

theorem ElRun.only : onlyEwer s t := h.blocks

theorem ElRun.ewerRegs (hW : ∀ f, W f → (0x4000 ≤ f.reg ∧ f.reg < 0x5000) ∨ f.reg = R.SPN_RATE ∨ f.reg = R.SPN_STAT ∨ f.reg = R.GL_CFGGEN) : ewerRegs s t :=
  fun o hr h1 h2 h3 h4 => h.reg hr (fun f hf he => by
    rcases hW f hf with h | h | h | h <;> rw [he] at h
    · exact h1 h
    · exact h2 h
    · exact h3 h
    · exact h4 h)

end

end Sys2Proof.Machine
end

section
/-!
SUPPORT. Sends, joins, the servo's states and selection, as runs (R266, R268, R272, R274, R278).
-/
set_option Elab.async false
namespace Sys2Proof.Machine
open Sys2Proof

/-- The fields that a change in the tree may write: `EL_STAT`, counts, events, and what the servo leaves in the spine's registers. -/
inductive TreeFld : Fld → Prop
  | stat (f : Fld) (h : f.reg = R.EL_STAT) : TreeFld f
  | qdrop (q : Fin 4) : TreeFld (F.ELp_CNT_QDROP q)
  | topo : TreeFld F.EL_EVT_TOPO_S
  | servo : TreeFld F.EL_EVT_SERVO_S
  | unlock : TreeFld F.EL_EVT_UNLOCK_S
  | unlocks : TreeFld F.EL_SRV_CNT_UNLOCKS
  | rate : TreeFld (wholeReg R.SPN_RATE)
  | coarse : TreeFld F.SPN_STAT_COARSE

/-- What holds of the block's state whatever a queue takes, and whatever the tree's own data become. -/
structure TreeClosed (K : Ewer → Prop) : Prop where
  push : ∀ (e : Ewer) (p : Fin 4) (m : ElMsg), K e → K { e with ports := e.ports.set p { e.ports[p] with queue := e.ports[p].queue ++ [m] } }
  tree : ∀ e e' : Ewer, e'.ports = e.ports → e'.confs = e.confs → e'.mid = e.mid → e'.seen = e.seen → e'.bseq = e.bseq → e'.turn = e.turn → K e → K e'

section
variable {W : Fld → Prop} {K : Ewer → Prop} {s t : State}

theorem ElRun.modPort (h : ElRun W K s t) (p : Fin 4) (f : ElPort → ElPort) (hf : K { t.el with ports := t.el.ports.set p (f t.el.ports[p]) }) :
    ElRun W K s (t.modPort p f) := h.modEl _ hf

/-! ### Queues -/

theorem ElRun.elOffer (hK : TreeClosed K) (h : ElRun W K s t) {p : Fin 4} (m : ElMsg) (hw : W (F.ELp_CNT_QDROP p)) : ElRun W K s (t.elOffer p m).1 := by
  unfold State.elOffer
  split
  · exact h.modPort p (fun q => { q with queue := q.queue ++ [m] }) (hK.push _ p m h.own)
  · exact h.rsat _ hw (Nat.le_of_ble_eq_true rfl)

theorem ElRun.elSend (hK : TreeClosed K) (h : ElRun W K s t) {p : Fin 4} (m : ElMsg) (hw : W (F.ELp_CNT_QDROP p)) : ElRun W K s (t.elSend p m) :=
  h.elOffer hK m hw

variable (hW : ∀ f, TreeFld f → W f) (hK : TreeClosed K) (h : ElRun W K s t)
include hW hK h

/-! ### Reports -/

omit hK in
theorem ElRun.elTopo (kind node : Nat) : ElRun W K s (t.elTopo kind node) :=
  (h.evt (hW _ .topo) (by decide)).emit _ _ _ _ _ _ _ _

omit hW in
/-- A change of the tree's data leaves what holds. -/
theorem ElRun.tree (f : Ewer → Ewer) (h1 : (f t.el).ports = t.el.ports) (h2 : (f t.el).confs = t.el.confs) (h3 : (f t.el).mid = t.el.mid)
    (h4 : (f t.el).seen = t.el.seen) (h5 : (f t.el).bseq = t.el.bseq) (h6 : (f t.el).turn = t.el.turn) : ElRun W K s (t.modEl f) :=
  h.modEl f (hK.tree _ _ h1 h2 h3 h4 h5 h6 h.own)

/-! ### The servo's states -/

theorem ElRun.servoEnter (new : Nat) : ElRun W K s (t.servoEnter new) := by
  unfold State.servoEnter
  have h1 := ((h.rput (f := F.EL_STAT_SERVO) new (hW _ (.stat _ rfl)) (by decide)).evt (hW _ .servo) (by decide)).tree hK
    (fun e => { e with run := 0, skip := false, acq := none }) rfl rfl rfl rfl rfl rfl
  have h2 := pin_ite (P := ElRun W K s) (c := t.rget F.EL_STAT_SERVO = 3) ((h1.rsat (f := F.EL_SRV_CNT_UNLOCKS) 1 (hW _ .unlocks) (by decide)).evt (hW _ .unlock) (by decide)) h1
  exact pin_ite (h2.setReg _ (hW _ .rate)) (pin_ite (h2.rput (f := F.SPN_STAT_COARSE) 0 (hW _ .coarse) (by decide)) h2)

theorem ElRun.servoTo (new cause : Nat) (theta : Int) : ElRun W K s (t.servoTo new cause theta) :=
  pin_ite h ((h.servoEnter hW hK new).emit _ _ _ _ _ _ _ _)

theorem ElRun.servoFollow (cause : Nat) (lost : Bool) : ElRun W K s (t.servoFollow cause lost) := by
  unfold State.servoFollow
  exact pin_ite (pin_ite h ((pin_ite (P := ElRun W K s) (h.setReg _ (hW _ .rate)) h).servoTo hW hK _ _ _)) (pin_ite (h.servoTo hW hK _ _ _) h)

theorem ElRun.elServoMoved (hadParent rootChanged parentChanged : Bool) : ElRun W K s (t.elServoMoved hadParent rootChanged parentChanged) := by
  unfold State.elServoMoved
  dsimp only
  have h0 := pin_ite (P := ElRun W K s) (c := rootChanged = true) (h.tree hK (fun e => { e with ranged := false }) rfl rfl rfl rfl rfl rfl) h
  generalize (if rootChanged = true then t.modEl (fun e => { e with ranged := false }) else t) = a at h0
  have h1 := pin_ite (P := ElRun W K s) (c := rootChanged = true ∨ parentChanged = true) (h0.tree hK (fun e => { e with acq := none }) rfl rfl rfl rfl rfl rfl) h0
  generalize (if rootChanged = true ∨ parentChanged = true then a.modEl (fun e => { e with acq := none }) else a) = b at h1
  refine pin_ite (h1.servoFollow hW hK _ _) (pin_ite (h1.servoTo hW hK _ _ _) (pin_ite (h1.servoTo hW hK _ _ _) (pin_ite ?_ h1)))
  split
  · exact pin_ite (h1.servoTo hW hK _ _ _) h1
  · exact h1

/-! ### Joining and leaving -/

theorem ElRun.elJoinUp (id uid : Nat) : ElRun W K s (t.elJoinUp id uid) := by
  unfold State.elJoinUp
  split
  · exact h.elSend hK _ (hW _ (.qdrop _))
  · exact h

theorem ElRun.elJoin : ElRun W K s t.elJoin := by
  unfold State.elJoin
  split
  · exact h
  · have h1 := h.tree hK (fun e => { e with joinAt := t.spine.tick }) rfl rfl rfl rfl rfl rfl
    refine pin_foldl _ _ (fun a x ha => ha.elJoinUp hW hK _ _) ?_
    refine pin_ite h1 ?_
    exact ((h1.tree hK _ rfl rfl rfl rfl rfl rfl).rput (f := F.EL_STAT_IDSTATE) 1 (hW _ (.stat _ rfl)) (by decide)).elJoinUp hW hK _ _

omit h in
theorem ElRun.elLeaveUp (k : Nat) : ∀ {t : State} (_ : ElRun W K s t) (ids : List Nat), ElRun W K s (t.elLeaveUp ids k) := by
  induction k with
  | zero => exact fun h _ => h
  | succ k ih =>
    intro t h ids
    unfold State.elLeaveUp
    split
    · exact h
    · exact h
    · exact ih (h.elSend hK _ (hW _ (.qdrop _))) _

theorem ElRun.elRemove (ids : List Nat) : ElRun W K s (t.elRemove ids) :=
  pin_ite h (ElRun.elLeaveUp hW hK _ ((h.tree hK _ rfl rfl rfl rfl rfl rfl).elTopo hW _ _) _)

theorem ElRun.elChildLost (p : Nat) : ElRun W K s (t.elChildLost p) := h.elRemove hW hK _

/-! ### Selection -/

omit hK in
theorem ElRun.elStat {f : Fld} (v : Nat) (hr : f.reg = R.EL_STAT) (hf : f.lo + f.width ≤ 32) : ElRun W K s (t.rput f v) := h.rput v (hW _ (.stat f hr)) hf

omit hW in
theorem ElRun.rseqStep : ElRun W K s t.rseqStep := by
  unfold State.rseqStep
  exact pin_ite (h.tree hK (fun e => { e with counted := _, rseq := _ }) rfl rfl rfl rfl rfl rfl) h

theorem ElRun.elAdopt (c : ElPick) : ElRun W K s (t.elAdopt c) := by
  unfold State.elAdopt
  split
  · have h0 := pin_ite (P := ElRun W K s) (c := t.ron F.EL_STAT_ISROOT = true) h (h.tree hK (fun e => { e with counted := t.now }) rfl rfl rfl rfl rfl rfl)
    exact ((((((h0.elStat hW 1 rfl (by decide)).elStat hW 0 rfl (by decide)).elStat hW 0 rfl (by decide)).elStat hW 0 rfl (by decide)).elStat hW _ rfl (by decide)).tree hK
      _ rfl rfl rfl rfl rfl rfl).rseqStep hK
  · split
    · exact (((((h.elStat hW 0 rfl (by decide)).elStat hW 1 rfl (by decide)).elStat hW _ rfl (by decide)).elStat hW _ rfl (by decide)).elStat hW _ rfl (by decide)).tree hK
        _ rfl rfl rfl rfl rfl rfl
    · exact h
  · exact (((((h.elStat hW 0 rfl (by decide)).elStat hW 0 rfl (by decide)).elStat hW 0 rfl (by decide)).elStat hW _ rfl (by decide)).elStat hW _ rfl (by decide)).tree hK
      _ rfl rfl rfl rfl rfl rfl

/-- The role that a port's state and beacon give it. -/
def State.roleOf (s : State) (p : Fin 4) : Nat :=
  if ¬ s.elUp p then 0 else if s.elParent = some p then roleParent
  else match s.el.ports[p].bcn with | some b => if b.up then roleChild else roleBlocked | none => roleBlocked

/-- One port's part in the roles. -/
def State.roleStep (s : State) (p : Fin 4) : State :=
  if s.elRole p = roleChild ∧ s.roleOf p ≠ roleChild then (s.rput (F.ELp_STAT_ROLE p) (s.roleOf p)).elChildLost p
  else s.rput (F.ELp_STAT_ROLE p) (s.roleOf p)

theorem ElRun.roleStep {p : Fin 4} (hR : W (F.ELp_STAT_ROLE p)) : ElRun W K s (t.roleStep p) := by
  have h1 := fun v => h.rput (f := F.ELp_STAT_ROLE p) v hR (Nat.le_of_ble_eq_true rfl)
  exact pin_ite ((h1 _).elChildLost hW hK _) (h1 _)

omit hW hK h in
theorem elRoles_eq (s : State) : s.elRoles = (List.finRange 4).foldl State.roleStep s := rfl

theorem ElRun.elRoles (hR : ∀ q : Fin 4, W (F.ELp_STAT_ROLE q)) : ElRun W K s t.elRoles :=
  pin_foldl _ _ (fun _ p ha => ha.roleStep hW hK (hR p)) h

theorem ElRun.elSelect (hR : ∀ q : Fin 4, W (F.ELp_STAT_ROLE q)) : ElRun W K s t.elSelect := by
  unfold State.elSelect
  dsimp only
  have h1 := h.elAdopt hW hK t.elChoose
  generalize t.elAdopt t.elChoose = a at h1
  have h2 : ElRun W K s (if decide (a.elHasRoot ≠ t.elHasRoot ∨ a.el.rootUid ≠ t.el.rootUid) = true then a.elTopo (if a.elHasRoot = true then topoRoot else topoNoRoot) a.elOwnId
      else if decide (a.elParent ≠ t.elParent) = true then a.elTopo topoParent a.elOwnId else a) :=
    pin_ite (h1.elTopo hW _ _) (pin_ite (h1.elTopo hW _ _) h1)
  have h3 := h2.elRoles hW hK hR
  refine ElRun.elServoMoved hW hK (pin_ite (ElRun.elJoin hW hK ?_) ?_) _ _ _ <;>
    exact pin_ite ((h3.elStat hW 1 rfl (by decide)).elTopo hW _ _) (h3.elStat hW _ rfl (by decide))

end

end Sys2Proof.Machine
end

section
/-!
SUPPORT. A port leaves the tree (R262, R268, R269).
-/
set_option Elab.async false
namespace Sys2Proof.Machine
open Sys2Proof

/-! ### What a change in the tree leaves -/

/-- No change in the tree writes outside its registers. -/
theorem TreeFld.apart_of_reg {f : Fld} (hf : TreeFld f) {g : Fld} (h1 : g.reg ≠ R.EL_STAT) (h2 : ∀ q : Fin 4, g.reg ≠ R.ELp_CNT q) (h3 : g.reg ≠ R.EL_EVT)
    (h4 : g.reg ≠ R.EL_SRV_CNT) (h5 : g.reg ≠ R.SPN_RATE) (h6 : g.reg ≠ R.SPN_STAT) : apart f g := by
  refine .inl ?_
  cases hf with
  | stat _ h => rw [h]; exact h1
  | qdrop q => exact h2 q
  | topo => exact h3
  | servo => exact h3
  | unlock => exact h3
  | unlocks => exact h4
  | rate => exact h5
  | coarse => exact h6

/-- A register of a port's own, or of the block's configuration, counts of frames and errors. -/
def quietReg (o : Nat) : Prop := (0x4040 ≤ o ∧ o < 0x4080 ∧ o % 16 ≠ 12) ∨ o = R.EL_CTRL ∨ o = R.EL_ID ∨ o = R.EL_PRIO ∨ o = R.EL_DROP ∨ o = R.EL_CNT2 ∨ (0x4080 ≤ o ∧ o ≤ 0x4090)

theorem TreeFld.apart_quiet {f : Fld} (hf : TreeFld f) {g : Fld} (h : quietReg g.reg) : apart f g := by
  unfold quietReg at h
  simp only [R.EL_CTRL, R.EL_ID, R.EL_PRIO, R.EL_DROP, R.EL_CNT2] at h
  refine hf.apart_of_reg ?_ (fun q => ?_) ?_ ?_ ?_ ?_ <;> simp only [R.EL_STAT, R.ELp_CNT, R.EL_EVT, R.EL_SRV_CNT, R.SPN_RATE, R.SPN_STAT] <;> omega

theorem TreeFld.apart_downs {f : Fld} (hf : TreeFld f) (p : Fin 4) : apart f (F.ELp_CNT_DOWNS p) := by
  cases hf with
  | stat f h => exact .inl (by rw [h]; simp only [F.ELp_CNT_DOWNS, R.ELp_CNT, R.EL_STAT]; omega)
  | qdrop q => exact .inr (.inl (Nat.le_of_ble_eq_true rfl))
  | topo | servo | unlock => exact .inl (by simp only [F.ELp_CNT_DOWNS, R.ELp_CNT, F.EL_EVT_TOPO_S, F.EL_EVT_SERVO_S, F.EL_EVT_UNLOCK_S, R.EL_EVT]; omega)
  | unlocks => exact .inl (by simp only [F.ELp_CNT_DOWNS, R.ELp_CNT, F.EL_SRV_CNT_UNLOCKS, R.EL_SRV_CNT]; omega)
  | rate => exact .inl (by simp only [F.ELp_CNT_DOWNS, R.ELp_CNT, wholeReg, R.SPN_RATE]; omega)
  | coarse => exact .inl (by simp only [F.ELp_CNT_DOWNS, R.ELp_CNT, F.SPN_STAT_COARSE, R.SPN_STAT]; omega)

theorem TreeFld.apart_link {f : Fld} (hf : TreeFld f) : apart f F.EL_EVT_LINK_S := by
  cases hf with
  | stat f h => exact .inl (by rw [h]; decide)
  | qdrop q => exact .inl (by simp only [F.ELp_CNT_QDROP, R.ELp_CNT, F.EL_EVT_LINK_S, R.EL_EVT]; omega)
  | topo | servo | unlock => exact .inr (.inl (by decide))
  | unlocks | rate | coarse => exact .inl (by decide)

/-- The ports are as they were, but for their queues. -/
def PortsAs (e₀ e : Ewer) : Prop := ∀ q : Fin 4, { e.ports[q] with queue := e₀.ports[q].queue } = e₀.ports[q]

theorem PortsAs.refl (e : Ewer) : PortsAs e e := fun _ => rfl

theorem portsAs_closed (e₀ : Ewer) : TreeClosed (PortsAs e₀) where
  push e p m h q := by
    by_cases hq : q = p
    · subst hq
      have hs : (e.ports.set q { e.ports[q] with queue := e.ports[q].queue ++ [m] })[q] = { e.ports[q] with queue := e.ports[q].queue ++ [m] } := Vector.getElem_set_self _
      dsimp only
      rw [hs]
      exact h q
    · have hs : (e.ports.set p { e.ports[p] with queue := e.ports[p].queue ++ [m] })[q] = e.ports[q] :=
        Vector.getElem_set_ne _ _ (fun he => hq (Fin.ext he.symm))
      dsimp only
      rw [hs]
      exact h q
  tree e e' h1 _ _ _ _ _ h q := by rw [h1]; exact h q

theorem PortsAs.bcn {e₀ e : Ewer} (h : PortsAs e₀ e) (q : Fin 4) : e.ports[q].bcn = e₀.ports[q].bcn := by rw [← h q]
theorem PortsAs.bcnAt {e₀ e : Ewer} (h : PortsAs e₀ e) (q : Fin 4) : e.ports[q].bcnAt = e₀.ports[q].bcnAt := by rw [← h q]
theorem PortsAs.downAt {e₀ e : Ewer} (h : PortsAs e₀ e) (q : Fin 4) : e.ports[q].downAt = e₀.ports[q].downAt := by rw [← h q]

theorem anyEl_closed : TreeClosed (fun _ => True) := ⟨fun _ _ _ _ => trivial, fun _ _ _ _ _ _ _ _ _ => trivial⟩

/-- A change in the tree. -/
theorem treeRun_refl (s : State) : ElRun TreeFld (fun _ => True) s s := .refl trivial

/-! ### Roles -/

/-- The fields that a port's part in the roles may write. -/
def roleFlds (p : Fin 4) (f : Fld) : Prop := TreeFld f ∨ f = F.ELp_STAT_ROLE p

theorem roleStep_run (s : State) (p : Fin 4) : ElRun (roleFlds p) (fun _ => True) s (s.roleStep p) :=
  (ElRun.refl trivial).roleStep (fun _ h => .inl h) anyEl_closed (.inr rfl)

theorem roleFlds_state {p q : Fin 4} {f : Fld} (hf : roleFlds p f) : apart f (F.ELp_STAT_STATE q) := by
  rcases hf with h | rfl
  · exact h.apart_quiet (.inl (by simp only [F.ELp_STAT_STATE, R.ELp_STAT]; omega))
  · exact .inr (.inl (Nat.le_of_ble_eq_true rfl))

theorem portRole_apart {p q : Fin 4} (h : q ≠ p) : apart (F.ELp_STAT_ROLE p) (F.ELp_STAT_ROLE q) :=
  .inl (fun he => h (Fin.ext (by simp only [F.ELp_STAT_ROLE, R.ELp_STAT] at he; omega)))

theorem treeFld_role {f : Fld} (hf : TreeFld f) (q : Fin 4) : apart f (F.ELp_STAT_ROLE q) :=
  hf.apart_quiet (.inl (by simp only [F.ELp_STAT_ROLE, R.ELp_STAT]; omega))

theorem elReg_plain {o : Nat} (h : 0x4000 ≤ o ∧ o < 0x5000) : reportReg o = false := reportReg_of_page (by omega)

theorem elStat_plain (q : Fin 4) : reportReg (R.ELp_STAT q) = false := elReg_plain (by unfold R.ELp_STAT; omega)

theorem roleStep_up (s : State) (p q : Fin 4) : (s.roleStep p).elUp q = s.elUp q := by
  unfold State.elUp State.elState
  rw [(roleStep_run s p).flds (F.ELp_STAT_STATE q) (elStat_plain q) (fun f hf => roleFlds_state hf)]

theorem roleStep_others (s : State) {p q : Fin 4} (h : q ≠ p) : (s.roleStep p).elRole q = s.elRole q := by
  refine (roleStep_run s p).flds (F.ELp_STAT_ROLE q) (elStat_plain q) (fun f hf => ?_)
  rcases hf with h' | rfl
  · exact treeFld_role h' q
  · exact portRole_apart h

/-- A port that is not up has no role. -/
theorem roleStep_down {s : State} {p : Fin 4} (h : s.elUp p = false) : (s.roleStep p).elRole p = 0 := by
  have hz : s.roleOf p = 0 := if_pos (by rw [h]; decide)
  unfold State.roleStep
  rw [hz]
  have hput : (s.rput (F.ELp_STAT_ROLE p) 0).elRole p = 0 := rget_rput_same _ _ _ (Nat.le_of_ble_eq_true rfl)
  split
  · refine Eq.trans ?_ hput
    exact ((treeRun_refl _).elChildLost (fun _ h => h) anyEl_closed p).flds (F.ELp_STAT_ROLE p) (elStat_plain p) (fun f hf => treeFld_role hf p)
  · exact hput

theorem elRoles_down {s : State} {p : Fin 4} (h : s.elUp p = false) : s.elRoles.elRole p = 0 := by
  have hall : ∀ (l : List (Fin 4)) (a : State), a.elUp p = false → (p ∈ l ∨ a.elRole p = 0) → (l.foldl State.roleStep a).elRole p = 0 := fun l => by
    induction l with
    | nil => exact fun a _ hr => hr.resolve_left List.not_mem_nil
    | cons x l ih =>
      intro a ha hr
      refine ih _ ((roleStep_up a x p).trans ha) ?_
      by_cases hx : p = x
      · exact .inr (by rw [← hx]; exact roleStep_down ha)
      · exact hr.imp (fun hm => (List.mem_cons.1 hm).resolve_left hx) (fun h0 => (roleStep_others a hx).trans h0)
  exact hall _ s h (.inl (List.mem_finRange p))

/-! ### Selection -/

/-- The fields that a selection may write. -/
def SelFld (f : Fld) : Prop := TreeFld f ∨ ∃ q : Fin 4, f = F.ELp_STAT_ROLE q

theorem elSelect_run {K : Ewer → Prop} (hK : TreeClosed K) {s t : State} (h : ElRun SelFld K s t) : ElRun SelFld K s t.elSelect :=
  h.elSelect (fun _ h => .inl h) hK (fun q => .inr ⟨q, rfl⟩)

/-- The part of a selection behind the roles. -/
def State.elSettled (s old : State) (rootChanged parentChanged : Bool) : State :=
  let deep := s.elDeep && !s.elHasRoot
  let s4 := if deep ∧ ¬ s.ron F.EL_STAT_TOO_DEEP then (s.rput F.EL_STAT_TOO_DEEP 1).elTopo topoDeep s.elOwnId
    else s.rput F.EL_STAT_TOO_DEEP (b2n deep)
  let s5 := if parentChanged then s4.elJoin else s4
  s5.elServoMoved old.elParent.isSome rootChanged parentChanged

/-- The part of a selection before the roles. -/
def State.elChosen (s : State) (rootChanged parentChanged : Bool) : State :=
  let s1 := s.elAdopt s.elChoose
  if rootChanged then s1.elTopo (if s1.elHasRoot then topoRoot else topoNoRoot) s1.elOwnId
  else if parentChanged then s1.elTopo topoParent s1.elOwnId else s1

theorem elSelect_parts (s : State) : ∃ r c, s.elSelect = (s.elChosen r c).elRoles.elSettled s r c := ⟨_, _, rfl⟩

theorem elSettled_run (s old : State) (r c : Bool) : ElRun TreeFld (fun _ => True) s (s.elSettled old r c) := by
  unfold State.elSettled
  dsimp only
  have h3 := treeRun_refl s
  refine ElRun.elServoMoved (fun _ h => h) anyEl_closed (pin_ite (ElRun.elJoin (fun _ h => h) anyEl_closed ?_) ?_) _ _ _ <;>
    exact pin_ite ((h3.elStat (fun _ h => h) 1 rfl (by decide)).elTopo (fun _ h => h) _ _) (h3.elStat (fun _ h => h) _ rfl (by decide))

theorem elChosen_run (s : State) (r c : Bool) : ElRun TreeFld (fun _ => True) s (s.elChosen r c) := by
  have h1 := (treeRun_refl s).elAdopt (fun _ h => h) anyEl_closed s.elChoose
  exact pin_ite (h1.elTopo (fun _ h => h) _ _) (pin_ite (h1.elTopo (fun _ h => h) _ _) h1)

/-- Behind a selection, a port that is not up has no role. -/
theorem elSelect_down {s : State} {p : Fin 4} (h : s.elUp p = false) : s.elSelect.elRole p = 0 := by
  obtain ⟨r, c, he⟩ := elSelect_parts s
  rw [he]
  refine ((elSettled_run _ _ _ _).flds (F.ELp_STAT_ROLE p) (elStat_plain p) (fun f hf => treeFld_role hf p)).trans (elRoles_down ?_)
  refine Eq.trans ?_ h
  unfold State.elUp State.elState
  rw [(elChosen_run s r c).flds (F.ELp_STAT_STATE p) (elStat_plain p) (fun f hf => hf.apart_quiet (.inl (by simp only [F.ELp_STAT_STATE, R.ELp_STAT]; omega)))]

end Sys2Proof.Machine
end

section
/-!
SUPPORT. A port goes to DOWN or DISABLED, and what follows in the tree (R262, R291).
-/
set_option Elab.async false
namespace Sys2Proof.Machine
open Sys2Proof

/-- A run that has not begun leaves the block's own state. -/
theorem ElRun.same (W : Fld → Prop) (s : State) : ElRun W (fun e => e = s.el) s s := ⟨.refl s, fun _ _ _ => rfl, rfl⟩

/-- The fields that a port's leave writes itself. -/
inductive OffFld (p : Fin 4) : Fld → Prop
  | state : OffFld p (F.ELp_STAT_STATE p)
  | role : OffFld p (F.ELp_STAT_ROLE p)
  | cand : OffFld p (F.ELp_STAT_CAND p)
  | holdoff : OffFld p (F.ELp_STAT_HOLDOFF p)
  | downs : OffFld p (F.ELp_CNT_DOWNS p)

/-- The block's own state once a port has left. -/
def Ewer.left (e : Ewer) (p : Fin 4) (k : Nat) : Ewer :=
  { e with ports := e.ports.set p { e.ports[p] with bcn := none, t21 := none, reqDue := false, req := none, bcns := 0, downAt := k, resp := none } }

/-- What a port's leave writes into `ELp_STAT`. -/
def State.statCleared (s : State) (p : Fin 4) (new : Nat) (b : Bool) : State :=
  (((s.rput (F.ELp_STAT_STATE p) new).rput (F.ELp_STAT_ROLE p) 0).rput (F.ELp_STAT_CAND p) 0).rput (F.ELp_STAT_HOLDOFF p) (b2n b)

/-- A port's leave before its report. -/
def State.portCleared (s : State) (p : Fin 4) (new : Nat) : State :=
  let s2 := (s.statCleared p new (decide (new = 1))).modEl (fun e => e.left p s.spine.tick)
  if new = 1 then s2.rsat (F.ELp_CNT_DOWNS p) 1 else s2

theorem elPortOff_moves {s : State} {p : Fin 4} {new : Nat} (h : s.elState p ≠ new) (report : State → Nat → State) :
    s.elPortOff p new report = (if s.elRole p = roleChild then (report (s.portCleared p new) (s.elState p)).elChildLost p
      else report (s.portCleared p new) (s.elState p)).elSelect := by
  unfold State.elPortOff
  dsimp only
  rw [if_neg h]
  rfl

section
variable (s : State) (p : Fin 4)

/-- The register of a port's state, once it has left. -/
theorem statCleared_shows (new : Nat) (hn : new < 8) (b : Bool) : let u := s.statCleared p new b
    u.elState p = new ∧ u.elRole p = 0 ∧ u.ron (F.ELp_STAT_CAND p) = false ∧ u.ron (F.ELp_STAT_HOLDOFF p) = b := by
  have hb : ∀ b : Bool, ((b2n b % 2 ^ 1) != 0) = b := by decide
  unfold State.statCleared
  refine ⟨?_, ?_, ?_, ?_⟩
  · unfold State.elState
    rw [rget_rput_of_apart _ _ (Nat.le_of_ble_eq_true rfl) (.inr (.inl (Nat.le_of_ble_eq_true rfl))),
      rget_rput_of_apart _ _ (Nat.le_of_ble_eq_true rfl) (.inr (.inl (Nat.le_of_ble_eq_true rfl))),
      rget_rput_of_apart _ _ (Nat.le_of_ble_eq_true rfl) (.inr (.inl (Nat.le_of_ble_eq_true rfl))), rget_rput_same _ _ _ (Nat.le_of_ble_eq_true rfl)]
    exact Nat.mod_eq_of_lt hn
  · unfold State.elRole
    rw [rget_rput_of_apart _ _ (Nat.le_of_ble_eq_true rfl) (.inr (.inl (Nat.le_of_ble_eq_true rfl))),
      rget_rput_of_apart _ _ (Nat.le_of_ble_eq_true rfl) (.inr (.inl (Nat.le_of_ble_eq_true rfl))), rget_rput_same _ _ _ (Nat.le_of_ble_eq_true rfl)]
    rfl
  · unfold State.ron
    rw [rget_rput_of_apart _ _ (Nat.le_of_ble_eq_true rfl) (.inr (.inr (Nat.le_of_ble_eq_true rfl))), rget_rput_same _ _ _ (Nat.le_of_ble_eq_true rfl)]
    rfl
  · unfold State.ron
    rw [rget_rput_same _ _ _ (Nat.le_of_ble_eq_true rfl)]
    exact hb b

theorem statCleared_run (new : Nat) (b : Bool) : ElRun (OffFld p) (fun e => e = s.el) s (s.statCleared p new b) := by
  have h1 := (ElRun.same (OffFld p) s).rput (f := F.ELp_STAT_STATE p) new .state (Nat.le_of_ble_eq_true rfl)
  have h2 := h1.rput (f := F.ELp_STAT_ROLE p) 0 .role (Nat.le_of_ble_eq_true rfl)
  have h3 := h2.rput (f := F.ELp_STAT_CAND p) 0 .cand (Nat.le_of_ble_eq_true rfl)
  exact h3.rput (f := F.ELp_STAT_HOLDOFF p) _ .holdoff (Nat.le_of_ble_eq_true rfl)

theorem statCleared_downs (new : Nat) (b : Bool) : (s.statCleared p new b).rget (F.ELp_CNT_DOWNS p) = s.rget (F.ELp_CNT_DOWNS p) := by
  have hne : ∀ (u : State) {f : Fld} (v : Nat), f.reg = R.ELp_STAT p → (u.rput f v).rget (F.ELp_CNT_DOWNS p) = u.rget (F.ELp_CNT_DOWNS p) := fun u f v hr =>
    rget_rput_ne u v (by rw [hr]; simp only [F.ELp_CNT_DOWNS, R.ELp_CNT, R.ELp_STAT]; omega)
  unfold State.statCleared
  rw [hne _ _ rfl, hne _ _ rfl, hne _ _ rfl, hne _ _ rfl]

theorem portCleared_run (new : Nat) : ElRun (OffFld p) (fun e => e = s.el.left p s.spine.tick) s (s.portCleared p new) := by
  have h := statCleared_run s p new (decide (new = 1))
  have h2 : ElRun (OffFld p) (fun e => e = s.el.left p s.spine.tick) s ((s.statCleared p new (decide (new = 1))).modEl (fun e => e.left p s.spine.tick)) :=
    ⟨h.blocks.modEl _, h.flds, congrArg (fun e => Ewer.left e p s.spine.tick) h.own⟩
  exact pin_ite (h2.rsat (f := F.ELp_CNT_DOWNS p) 1 .downs (Nat.le_of_ble_eq_true rfl)) h2

theorem portCleared_shows {new : Nat} (hn : new < 8) : let u := s.portCleared p new
    u.elState p = new ∧ u.elRole p = 0 ∧ u.ron (F.ELp_STAT_CAND p) = false ∧ u.ron (F.ELp_STAT_HOLDOFF p) = decide (new = 1) ∧
      (new = 1 → countedOne s u (F.ELp_CNT_DOWNS p)) := by
  obtain ⟨h1, h2, h3, h4⟩ := statCleared_shows s p new hn (decide (new = 1))
  have hd := statCleared_downs s p new (decide (new = 1))
  have hmod : ∀ (v : State) (f : Ewer → Ewer) (g : Fld), (v.modEl f).rget g = v.rget g := fun _ _ _ => rfl
  have hsat : ∀ (v : State) (g : Fld), g.reg = R.ELp_STAT p → (v.rsat (F.ELp_CNT_DOWNS p) 1).rget g = v.rget g := fun v g hr =>
    rget_rsat_ne v 1 (by rw [hr]; simp only [F.ELp_CNT_DOWNS, R.ELp_CNT, R.ELp_STAT]; omega)
  unfold State.portCleared
  dsimp only
  generalize s.statCleared p new (decide (new = 1)) = u at h1 h2 h3 h4 hd
  by_cases hne : new = 1
  · rw [if_pos hne]
    refine ⟨(hsat _ _ rfl).trans h1, (hsat _ _ rfl).trans h2, (ron_of_rget_eq (hsat _ _ rfl)).trans h3, (ron_of_rget_eq (hsat _ _ rfl)).trans h4, fun _ => ?_⟩
    unfold countedOne
    rw [rget_rsat_same _ _ _ (Nat.le_of_ble_eq_true rfl), hmod, hd]
  · rw [if_neg hne]
    exact ⟨h1, h2, h3, h4, fun he => absurd he hne⟩

end

/-- A report of a port's change of state: it sets LINK_S. -/
def Reports (report : State → Nat → State) : Prop := ∀ (u : State) (old : Nat),
  ElRun (fun f => f = F.EL_EVT_LINK_S) (fun e => e = u.el) u (report u old) ∧ (report u old).ron F.EL_EVT_LINK_S = true

theorem elLink_reports (p new cause : Nat) : Reports (fun s old => s.elLink p old new cause) := fun u old => by
  have h : ElRun (fun f => f = F.EL_EVT_LINK_S) (fun e => e = u.el) u (u.evt F.EL_EVT_LINK_S) := (ElRun.same _ u).evt (f := F.EL_EVT_LINK_S) rfl (by decide)
  have hon : (u.evt F.EL_EVT_LINK_S).ron F.EL_EVT_LINK_S = true := ron_evt _ _ rfl (by decide) (by decide)
  exact ⟨h.emit _ _ _ _ _ _ _ _, (ron_of_rget_eq (rget_emit _ _ _ _ _ _ _ _ _ (by decide))).trans hon⟩

theorem elLinkFree_reports (p new : Nat) : Reports (fun s old => s.elLinkFree p old new) := fun u old => by
  obtain ⟨h, hon⟩ := elLink_reports p new (Config.linkCause u.free).toNat u.drawn old
  have hd : ElRun (fun f => f = F.EL_EVT_LINK_S) (fun e => e = u.el) u u.drawn := (ElRun.same _ u).drawn
  exact ⟨hd.trans h, hon⟩

/-- The fields that a port's leave may write, with all that follows from it. -/
def LeaveFld (p : Fin 4) (f : Fld) : Prop := SelFld f ∨ OffFld p f ∨ f = F.EL_EVT_LINK_S

theorem selFld_apart_link {f : Fld} (hf : SelFld f) : apart f F.EL_EVT_LINK_S := by
  rcases hf with h | ⟨q, rfl⟩
  · exact h.apart_link
  · exact .inl (by simp only [F.ELp_STAT_ROLE, R.ELp_STAT, F.EL_EVT_LINK_S, R.EL_EVT]; omega)

theorem selFld_apart_downs {f : Fld} (hf : SelFld f) (p : Fin 4) : apart f (F.ELp_CNT_DOWNS p) := by
  rcases hf with h | ⟨q, rfl⟩
  · exact h.apart_downs p
  · exact .inl (by simp only [F.ELp_STAT_ROLE, R.ELp_STAT, F.ELp_CNT_DOWNS, R.ELp_CNT]; omega)

/-- A selection changes no field of a port's register but its role. -/
theorem selFld_apart_stat {f : Fld} (hf : SelFld f) {p : Fin 4} {g : Fld} (hr : g.reg = R.ELp_STAT p) (hg : g.lo + g.width ≤ 4 ∨ 6 ≤ g.lo) : apart f g := by
  rcases hf with h | ⟨q, rfl⟩
  · exact h.apart_quiet (.inl (by rw [hr]; unfold R.ELp_STAT; omega))
  · exact .inr hg

theorem selFld_quiet {f : Fld} (hf : SelFld f) {g : Fld} (h : quietReg g.reg) (hp : ∀ p : Fin 4, g.reg ≠ R.ELp_STAT p) : apart f g := by
  rcases hf with h' | ⟨q, rfl⟩
  · exact h'.apart_quiet h
  · exact .inl (hp q)

/-- A port has left for a state, and the tree has followed. -/
structure PortLeft (s t : State) (p : Fin 4) (new : Nat) : Prop where
  run : ElRun (LeaveFld p) (PortsAs (s.el.left p s.spine.tick)) s t
  state : t.elState p = new
  role : t.elRole p = 0
  cand : t.ron (F.ELp_STAT_CAND p) = false
  holdoff : t.ron (F.ELp_STAT_HOLDOFF p) = decide (new = 1)
  downs : new = 1 → countedOne s t (F.ELp_CNT_DOWNS p)
  link : t.ron F.EL_EVT_LINK_S = true

theorem elPortOff_leaves {s : State} {p : Fin 4} {new : Nat} (hold : s.elState p ≠ new) (hnew : new = 0 ∨ new = 1) {report : State → Nat → State} (hrep : Reports report) :
    PortLeft s (s.elPortOff p new report) p new := by
  rw [elPortOff_moves hold]
  obtain ⟨h1, h2, h3, h4, h5⟩ := portCleared_shows s p (new := new) (by omega)
  have hrun := portCleared_run s p new
  generalize s.portCleared p new = u at h1 h2 h3 h4 h5 hrun
  obtain ⟨hr, hlink⟩ := hrep u (s.elState p)
  generalize report u (s.elState p) = v at hr hlink
  have hvel : v.el = s.el.left p s.spine.tick := hr.own.trans hrun.own
  have hK := portsAs_closed (s.el.left p s.spine.tick)
  have hv : ElRun SelFld (PortsAs (s.el.left p s.spine.tick)) v v := .refl (by rw [hvel]; exact .refl _)
  have hlost := pin_ite (P := ElRun SelFld (PortsAs (s.el.left p s.spine.tick)) v) (c := s.elRole p = roleChild) (hv.elChildLost (fun _ h => .inl h) hK p) hv
  have hstate : ∀ w, ElRun SelFld (PortsAs (s.el.left p s.spine.tick)) v w → ∀ g : Fld, g.reg = R.ELp_STAT p → g.lo + g.width ≤ 4 ∨ 6 ≤ g.lo → w.rget g = u.rget g := fun w hw g hg hlo =>
    (hw.flds g (by rw [hg]; exact elStat_plain p) (fun f hf => selFld_apart_stat hf hg hlo)).trans
      (hr.flds g (by rw [hg]; exact elStat_plain p) (fun f hf => .inl (by rw [hf, hg]; simp only [R.ELp_STAT, F.EL_EVT_LINK_S, R.EL_EVT]; omega)))
  have hup : ∀ w, ElRun SelFld (PortsAs (s.el.left p s.spine.tick)) v w → w.elUp p = false := fun w hw => by
    have hst : w.elState p = new := (hstate w hw (F.ELp_STAT_STATE p) rfl (.inl (Nat.le_of_ble_eq_true rfl))).trans h1
    unfold State.elUp
    rw [hst]
    rcases hnew with rfl | rfl <;> rfl
  have hsel := elSelect_run hK hlost
  have hrole := elSelect_down (hup _ hlost)
  generalize (if s.elRole p = roleChild then v.elChildLost p else v).elSelect = t at hsel hrole
  have hdowns : t.rget (F.ELp_CNT_DOWNS p) = u.rget (F.ELp_CNT_DOWNS p) :=
    (hsel.flds _ (elReg_plain (by simp only [F.ELp_CNT_DOWNS, R.ELp_CNT]; omega)) (fun f hf => selFld_apart_downs hf p)).trans
      (hr.flds _ (elReg_plain (by simp only [F.ELp_CNT_DOWNS, R.ELp_CNT]; omega))
        (fun f hf => .inl (by rw [hf]; simp only [F.ELp_CNT_DOWNS, R.ELp_CNT, F.EL_EVT_LINK_S, R.EL_EVT]; omega)))
  refine ⟨?_, (hstate t hsel (F.ELp_STAT_STATE p) rfl (.inl (Nat.le_of_ble_eq_true rfl))).trans h1, hrole,
    (ron_of_rget_eq (hstate t hsel (F.ELp_STAT_CAND p) rfl (.inr (Nat.le_of_ble_eq_true rfl)))).trans h3,
    (ron_of_rget_eq (hstate t hsel (F.ELp_STAT_HOLDOFF p) rfl (.inr (Nat.le_of_ble_eq_true rfl)))).trans h4, fun he => ?_,
    (hsel.ron (by decide) (fun f hf => selFld_apart_link hf)).trans hlink⟩
  · exact ((hrun.mono (W' := LeaveFld p) (K' := fun _ => True) (fun f hf => .inr (.inl hf)) (fun _ => trivial)).trans
      (hr.mono (K' := fun _ => True) (fun f hf => .inr (.inr hf)) (fun _ => trivial))).trans (hsel.mono (fun f hf => .inl hf) (fun h => h))
  · unfold countedOne
    rw [hdowns]
    exact h5 he

end Sys2Proof.Machine
end

section
/-!
SUPPORT. A change of the servo's state, and Ewerlink switched off (R278, R291).
-/
set_option Elab.async false
namespace Sys2Proof.Machine
open Sys2Proof

/-! ### Changes of the servo's state -/

/-- The fields that a change of the servo's state writes behind the state itself. -/
inductive ServoFld : Fld → Prop
  | servo : ServoFld F.EL_EVT_SERVO_S
  | unlock : ServoFld F.EL_EVT_UNLOCK_S
  | unlocks : ServoFld F.EL_SRV_CNT_UNLOCKS

/-- What a change of state does before the rate and COARSE follow. -/
def State.servoBegun (s : State) (new : Nat) : State :=
  let s1 := ((s.rput F.EL_STAT_SERVO new).evt F.EL_EVT_SERVO_S).modEl (fun e => { e with run := 0, skip := false, acq := none })
  if s.rget F.EL_STAT_SERVO = 3 then (s1.rsat F.EL_SRV_CNT_UNLOCKS 1).evt F.EL_EVT_UNLOCK_S else s1

/-- The block's own state in a new state of the servo. -/
def Ewer.anew (e : Ewer) : Ewer := { e with run := 0, skip := false, acq := none }

theorem servoEnter_eq (s : State) (new : Nat) : s.servoEnter new = if new = 4 then (s.servoBegun new).setReg R.SPN_RATE ((s.servoBegun new).reg R.EL_SRV_INT)
    else if new = 3 then (s.servoBegun new).rput F.SPN_STAT_COARSE 0 else s.servoBegun new := rfl

theorem servoBegun_run (s : State) (new : Nat) : ElRun ServoFld (fun e => e = s.el.anew) (s.rput F.EL_STAT_SERVO new) (s.servoBegun new) := by
  have h := (ElRun.same ServoFld (s.rput F.EL_STAT_SERVO new)).evt (f := F.EL_EVT_SERVO_S) .servo (by decide)
  have h1 : ElRun ServoFld (fun e => e = s.el.anew) (s.rput F.EL_STAT_SERVO new) (((s.rput F.EL_STAT_SERVO new).evt F.EL_EVT_SERVO_S).modEl Ewer.anew) :=
    ⟨h.blocks.modEl _, h.flds, congrArg Ewer.anew h.own⟩
  exact pin_ite ((h1.rsat (f := F.EL_SRV_CNT_UNLOCKS) 1 .unlocks (by decide)).evt (f := F.EL_EVT_UNLOCK_S) .unlock (by decide)) h1

theorem ServoFld.apart_of {f g : Fld} (hf : ServoFld f) (h1 : g.reg ≠ R.EL_EVT) (h2 : g.reg ≠ R.EL_SRV_CNT) : apart f g := by
  cases hf with
  | servo | unlock => exact .inl h1
  | unlocks => exact .inl h2

/-- What a change of the servo's state leaves. -/
structure ServoMoved (s t : State) (new : Nat) : Prop where
  state : t.rget F.EL_STAT_SERVO = new
  own : t.el = s.el.anew
  rate : t.reg R.SPN_RATE = if new = 4 then s.reg R.EL_SRV_INT else s.reg R.SPN_RATE
  flds : ∀ g : Fld, reportReg g.reg = false → apart F.EL_STAT_SERVO g → g.reg ∉ [R.EL_EVT, R.EL_SRV_CNT, R.SPN_RATE, R.SPN_STAT] → t.rget g = s.rget g
  blocks : ElBlocks s t

theorem servoEnter_moves (s : State) {new : Nat} (hn : new < 8) : ServoMoved s (s.servoEnter new) new := by
  have h := servoBegun_run s new
  have hstate : (s.servoBegun new).rget F.EL_STAT_SERVO = new :=
    (h.flds F.EL_STAT_SERVO (by decide) (fun f hf => hf.apart_of (by decide) (by decide))).trans
      ((rget_rput_same _ _ _ (by decide)).trans (Nat.mod_eq_of_lt hn))
  have hflds : ∀ g : Fld, reportReg g.reg = false → apart F.EL_STAT_SERVO g → g.reg ≠ R.EL_EVT → g.reg ≠ R.EL_SRV_CNT → (s.servoBegun new).rget g = s.rget g :=
    fun g hr hg h1 h2 => (h.flds g hr (fun f hf => hf.apart_of h1 h2)).trans (rget_rput_of_apart s _ (by decide) hg)
  have hregs : ∀ o, reportReg o = false → o ≠ R.EL_STAT → o ≠ R.EL_EVT → o ≠ R.EL_SRV_CNT → (s.servoBegun new).reg o = s.reg o :=
    fun o hr h0 h1 h2 => reg_of_rget_whole (hflds (wholeReg o) hr (.inl h0) h1 h2)
  have hblocks : ElBlocks s (s.servoBegun new) := (((ElRun.same (fun _ => True) s).rput (f := F.EL_STAT_SERVO) new trivial (by decide)).trans
    (h.mono (K' := fun _ => True) (fun _ _ => trivial) (fun _ => trivial))).blocks
  have hown := h.own
  rw [servoEnter_eq]
  generalize s.servoBegun new = u at *
  have hint := hregs R.EL_SRV_INT (by decide) (by decide) (by decide) (by decide)
  have hrate := hregs R.SPN_RATE (by decide) (by decide) (by decide) (by decide)
  by_cases h4 : new = 4
  · rw [if_pos h4]
    refine ⟨(rget_of_reg (reg_setReg_ne u _ (by decide))).trans hstate, hown, ?_, fun g hr hg ho => ?_,
      hblocks.far (setReg_far _ _ _ (far_refl u)) (setReg_core _ _ _ (core_refl u))⟩
    · rw [if_pos h4, reg_setReg_same, hint]
    · simp only [List.mem_cons, List.not_mem_nil, or_false, not_or] at ho
      exact (rget_of_reg (reg_setReg_ne u _ ho.2.2.1)).trans (hflds g hr hg ho.1 ho.2.1)
  · rw [if_neg h4]
    by_cases h3 : new = 3
    · rw [if_pos h3]
      refine ⟨(rget_rput_ne u (f := F.SPN_STAT_COARSE) _ (by decide)).trans hstate, hown, ?_, fun g hr hg ho => ?_,
        hblocks.far (setReg_far _ _ _ (far_refl u)) (setReg_core _ _ _ (core_refl u))⟩
      · rw [if_neg h4, reg_rput_ne u (f := F.SPN_STAT_COARSE) _ (by decide), hrate]
      · simp only [List.mem_cons, List.not_mem_nil, or_false, not_or] at ho
        exact (rget_rput_ne u (f := F.SPN_STAT_COARSE) _ ho.2.2.2).trans (hflds g hr hg ho.1 ho.2.1)
    · rw [if_neg h3]
      refine ⟨hstate, hown, by rw [if_neg h4, hrate], fun g hr hg ho => ?_, hblocks⟩
      simp only [List.mem_cons, List.not_mem_nil, or_false, not_or] at ho
      exact hflds g hr hg ho.1 ho.2.1

theorem emit_el (s : State) (type src tm fl : Nat) (w4 w5 w6 w7 : Word) : (s.emit type src tm fl w4 w5 w6 w7).el = s.el :=
  far_el (emit_far s type src tm fl w4 w5 w6 w7 (far_refl s))

theorem evt_el (s : State) (f : Fld) : (s.evt f).el = s.el := far_el (evt_far s f (far_refl s))

theorem reg_emit_plain (s : State) (type src tm fl : Nat) (w4 w5 w6 w7 : Word) {o : Nat} (hr : reportReg o = false) :
    (s.emit type src tm fl w4 w5 w6 w7).reg o = s.reg o := reg_emit s _ _ _ _ _ _ _ _ hr

theorem ServoMoved.emit {s t : State} {new : Nat} (h : ServoMoved s t new) (type src tm fl : Nat) (w4 w5 w6 w7 : Word) :
    ServoMoved s (t.emit type src tm fl w4 w5 w6 w7) new :=
  ⟨(rget_emit t _ _ _ _ _ _ _ _ (by decide)).trans h.state, (emit_el t _ _ _ _ _ _ _ _).trans h.own, (reg_emit_plain t _ _ _ _ _ _ _ _ (by decide)).trans h.rate,
    fun g hr hg ho => (rget_emit t _ _ _ _ _ _ _ _ hr).trans (h.flds g hr hg ho),
    h.blocks.far (emit_far _ _ _ _ _ _ _ _ _ (far_refl t)) (emit_core _ _ _ _ _ _ _ _ _ (core_refl t))⟩

/-- A servo that goes to another state. -/
theorem servoTo_moves {s : State} {new : Nat} (hn : new < 8) (hne : s.rget F.EL_STAT_SERVO ≠ new) (cause : Nat) (theta : Int) :
    ServoMoved s (s.servoTo new cause theta) new := by
  have he : s.servoTo new cause theta = (s.servoEnter new).servoRecord new (s.rget F.EL_STAT_SERVO) cause theta := if_neg (Ne.symm hne)
  rw [he]
  exact (servoEnter_moves s hn).emit _ _ _ _ _ _ _ _

theorem servoTo_stays {s : State} {new : Nat} (h : s.rget F.EL_STAT_SERVO = new) (cause : Nat) (theta : Int) : s.servoTo new cause theta = s := if_pos h.symm

theorem ServoMoved.regs {s t : State} {new : Nat} (h : ServoMoved s t new) {o : Nat} (hr : reportReg o = false)
    (ho : o ∉ [R.EL_STAT, R.EL_EVT, R.EL_SRV_CNT, R.SPN_RATE, R.SPN_STAT]) : t.reg o = s.reg o :=
  reg_of_rget_whole (h.flds (wholeReg o) hr (.inl (fun he => ho (List.mem_cons.2 (.inl he)))) (fun hm => ho (List.mem_cons_of_mem _ hm)))

/-! ### Ewerlink off -/

/-- One port's part. -/
def State.portKill (s : State) (p : Fin 4) : State :=
  let s2 := (s.statCleared p 0 false).modPort p (fun q => { q with bcn := none, t21 := none, reqDue := false, req := none, bcns := 0, queue := [], resp := none })
  if s.elState p = 0 then s2 else s2.elLink p (s.elState p) 0 5

/-- A port that holds nothing. -/
structure PortDead (s : State) (p : Fin 4) : Prop where
  state : s.elState p = 0
  role : s.elRole p = 0
  bcn : s.el.ports[p].bcn = none
  queue : s.el.ports[p].queue = []

/-- The fields that a port's part writes. -/
def KillFld (p : Fin 4) (f : Fld) : Prop := OffFld p f ∨ f = F.EL_EVT_LINK_S

theorem ports_set_same (v : Vector ElPort 4) (p : Fin 4) (x : ElPort) : (v.set p x)[p] = x := Vector.getElem_set_self _

theorem ports_set_ne (v : Vector ElPort 4) {p q : Fin 4} (x : ElPort) (h : q ≠ p) : (v.set p x)[q] = v[q] :=
  Vector.getElem_set_ne _ _ (fun he => h (Fin.ext he.symm))

/-- A run, and then another state of the block's own. -/
theorem ElRun.onEl {W : Fld → Prop} {K K' : Ewer → Prop} {s t : State} (h : ElRun W K s t) (f : Ewer → Ewer) (hf : K' (f t.el)) : ElRun W K' s (t.modEl f) :=
  ⟨h.blocks.modEl f, h.flds, hf⟩

/-- The block's own state behind one port's part. -/
def Ewer.killed (e : Ewer) (p : Fin 4) : Ewer :=
  { e with ports := e.ports.set p { e.ports[p] with bcn := none, t21 := none, reqDue := false, req := none, bcns := 0, queue := [], resp := none } }

theorem portKill_run (s : State) (p : Fin 4) : ElRun (KillFld p) (fun e => e = s.el.killed p) s (s.portKill p) := by
  have h := (statCleared_run s p 0 false).mono (W' := KillFld p) (fun _ hf => .inl hf) (fun h => h)
  have h2 := h.onEl (K' := fun e => e = s.el.killed p) (fun e => e.killed p) (congrArg (fun e => Ewer.killed e p) h.own)
  exact pin_ite h2 ((h2.evt (f := F.EL_EVT_LINK_S) (.inr rfl) (by decide)).emit _ _ _ _ _ _ _ _)

theorem killFld_others {p q : Fin 4} (h : q ≠ p) {f : Fld} (hf : KillFld p f) {g : Fld} (hg : g.reg = R.ELp_STAT q) : apart f g := by
  refine .inl ?_
  have hne : q.val ≠ p.val := fun he => h (Fin.ext he)
  rcases hf with hf | rfl
  · cases hf <;> simp only [hg, F.ELp_STAT_STATE, F.ELp_STAT_ROLE, F.ELp_STAT_CAND, F.ELp_STAT_HOLDOFF, F.ELp_CNT_DOWNS, R.ELp_STAT, R.ELp_CNT] <;> omega
  · simp only [hg, R.ELp_STAT, F.EL_EVT_LINK_S, R.EL_EVT]
    omega

theorem portKill_others {s : State} {p q : Fin 4} (h : q ≠ p) (hd : PortDead s q) : PortDead (s.portKill p) q := by
  have hr := portKill_run s p
  have hown : (s.portKill p).el.ports[q] = s.el.ports[q] := by
    rw [hr.own]
    exact ports_set_ne _ _ h
  refine ⟨?_, ?_, by rw [hown]; exact hd.bcn, by rw [hown]; exact hd.queue⟩
  · exact (hr.flds (F.ELp_STAT_STATE q) (elStat_plain q) (fun f hf => killFld_others h hf rfl)).trans hd.state
  · exact (hr.flds (F.ELp_STAT_ROLE q) (elStat_plain q) (fun f hf => killFld_others h hf rfl)).trans hd.role

theorem portKill_dead (s : State) (p : Fin 4) : PortDead (s.portKill p) p := by
  have hr := portKill_run s p
  have hown : (s.portKill p).el.ports[p] = { s.el.ports[p] with bcn := none, t21 := none, reqDue := false, req := none, bcns := 0, queue := [], resp := none } := by
    rw [hr.own]
    exact ports_set_same _ _ _
  obtain ⟨h1, h2, -, -⟩ := statCleared_shows s p 0 (by decide) false
  have hlink : ∀ (u : State) (old : Nat) (g : Fld), g.reg = R.ELp_STAT p → (u.elLink p old 0 5).rget g = u.rget g := fun u old g hg =>
    (elLink_reports p 0 5 u old).1.flds g (by rw [hg]; exact elStat_plain p) (fun f hf => .inl (by rw [hf, hg]; simp only [R.ELp_STAT, F.EL_EVT_LINK_S, R.EL_EVT]; omega))
  have hstat : ∀ g : Fld, g.reg = R.ELp_STAT p → (s.portKill p).rget g = (s.statCleared p 0 false).rget g := fun g hg => by
    unfold State.portKill
    dsimp only
    split
    · rfl
    · exact hlink _ _ g hg
  exact ⟨(hstat _ rfl).trans h1, (hstat _ rfl).trans h2, by rw [hown], by rw [hown]⟩

/-- Every port's part. -/
def State.portsKilled (s : State) : State := (List.finRange 4).foldl State.portKill s

theorem portsKilled_dead (s : State) (p : Fin 4) : PortDead s.portsKilled p := by
  have hall : ∀ (l : List (Fin 4)) (a : State), (p ∈ l ∨ PortDead a p) → PortDead (l.foldl State.portKill a) p := fun l => by
    induction l with
    | nil => exact fun a h => h.resolve_left List.not_mem_nil
    | cons x l ih =>
      intro a h
      refine ih _ ?_
      by_cases hx : p = x
      · exact .inr (by rw [← hx]; exact portKill_dead a p)
      · exact h.imp (fun hm => (List.mem_cons.1 hm).resolve_left hx) (portKill_others hx)
  exact hall _ s (.inl (List.mem_finRange p))

theorem portsKilled_run (s : State) : ElRun (fun f => ∃ p, KillFld p f) (fun _ => True) s s.portsKilled :=
  pin_foldl _ _ (fun a p ha => ha.trans ((portKill_run a p).mono (fun _ hf => ⟨p, hf⟩) (fun _ => trivial))) (.refl trivial)

/-- What Ewerlink's end leaves of the tree and of the ID, before the servo follows. -/
def State.treeCleared (s : State) : State :=
  ((((((((((s.modEl (fun e => { e with table := [] })).rput F.EL_STAT_ISROOT 0).rput F.EL_STAT_HASPARENT 0).rput F.EL_STAT_PARENT 0).rput F.EL_STAT_DEPTH 31).rput
    F.EL_STAT_ROOT_ID 0).modEl (fun e => { e with rootUid := 0, rootPrio := 0 })).rput F.EL_ID_HELD_V 0).rput F.EL_ID_HELD 0).rput F.EL_STAT_IDSTATE 0).rput
    F.EL_STAT_TOO_DEEP 0

theorem elOff_eq (s : State) : s.elOff =
    (s.portsKilled.treeCleared.servoTo 0 servoParent s.portsKilled.treeCleared.lastTheta).elTopo topoNoRoot s.portsKilled.treeCleared.elOwnId := rfl

theorem treeCleared_run (s : State) : ElRun (fun f => f.reg = R.EL_STAT ∨ f.reg = R.EL_ID) (fun e => e.ports = s.el.ports ∧ e.table = []) s s.treeCleared := by
  have h := (ElRun.same (fun f => f.reg = R.EL_STAT ∨ f.reg = R.EL_ID) s).onEl (K' := fun e => e.ports = s.el.ports ∧ e.table = []) (fun e => { e with table := [] }) ⟨rfl, rfl⟩
  have h2 := ((((h.rput (f := F.EL_STAT_ISROOT) 0 (.inl rfl) (by decide)).rput (f := F.EL_STAT_HASPARENT) 0 (.inl rfl) (by decide)).rput
    (f := F.EL_STAT_PARENT) 0 (.inl rfl) (by decide)).rput (f := F.EL_STAT_DEPTH) 31 (.inl rfl) (by decide)).rput (f := F.EL_STAT_ROOT_ID) 0 (.inl rfl) (by decide)
  have h3 := h2.modEl (fun e => { e with rootUid := 0, rootPrio := 0 }) h2.own
  exact (((h3.rput (f := F.EL_ID_HELD_V) 0 (.inr rfl) (by decide)).rput (f := F.EL_ID_HELD) 0 (.inr rfl) (by decide)).rput
    (f := F.EL_STAT_IDSTATE) 0 (.inl rfl) (by decide)).rput (f := F.EL_STAT_TOO_DEEP) 0 (.inl rfl) (by decide)

theorem treeCleared_shows (s : State) : s.treeCleared.rget F.EL_STAT_IDSTATE = 0 ∧ s.treeCleared.rget F.EL_ID_HELD_V = 0 ∧ s.treeCleared.rget F.EL_STAT_HASPARENT = 0 ∧
    s.treeCleared.rget F.EL_STAT_ISROOT = 0 ∧ s.treeCleared.rget F.EL_STAT_DEPTH = 31 := by
  have hm : ∀ (v : State) (f : Ewer → Ewer) (g : Fld), (v.modEl f).rget g = v.rget g := fun _ _ _ => rfl
  have hput : ∀ (v : State) (f g : Fld) (n : Nat), f.lo + f.width ≤ 32 → apart f g → (v.rput f n).rget g = v.rget g := fun v f g n h1 h2 => rget_rput_of_apart v n h1 h2
  unfold State.treeCleared
  refine ⟨?_, ?_, ?_, ?_, ?_⟩
  · rw [hput _ F.EL_STAT_TOO_DEEP _ _ (by decide) (.inr (by decide)), rget_rput_same _ _ _ (by decide)]
    rfl
  · rw [hput _ F.EL_STAT_TOO_DEEP _ _ (by decide) (.inl (by decide)), hput _ F.EL_STAT_IDSTATE _ _ (by decide) (.inl (by decide)),
      hput _ F.EL_ID_HELD _ _ (by decide) (.inr (by decide)), rget_rput_same _ _ _ (by decide)]
    rfl
  · rw [hput _ F.EL_STAT_TOO_DEEP _ _ (by decide) (.inr (by decide)), hput _ F.EL_STAT_IDSTATE _ _ (by decide) (.inr (by decide)),
      hput _ F.EL_ID_HELD _ _ (by decide) (.inl (by decide)), hput _ F.EL_ID_HELD_V _ _ (by decide) (.inl (by decide)), hm,
      hput _ F.EL_STAT_ROOT_ID _ _ (by decide) (.inr (by decide)), hput _ F.EL_STAT_DEPTH _ _ (by decide) (.inr (by decide)),
      hput _ F.EL_STAT_PARENT _ _ (by decide) (.inr (by decide)), rget_rput_same _ _ _ (by decide)]
    rfl
  · rw [hput _ F.EL_STAT_TOO_DEEP _ _ (by decide) (.inr (by decide)), hput _ F.EL_STAT_IDSTATE _ _ (by decide) (.inr (by decide)),
      hput _ F.EL_ID_HELD _ _ (by decide) (.inl (by decide)), hput _ F.EL_ID_HELD_V _ _ (by decide) (.inl (by decide)), hm,
      hput _ F.EL_STAT_ROOT_ID _ _ (by decide) (.inr (by decide)), hput _ F.EL_STAT_DEPTH _ _ (by decide) (.inr (by decide)),
      hput _ F.EL_STAT_PARENT _ _ (by decide) (.inr (by decide)), hput _ F.EL_STAT_HASPARENT _ _ (by decide) (.inr (by decide)), rget_rput_same _ _ _ (by decide)]
    rfl
  · rw [hput _ F.EL_STAT_TOO_DEEP _ _ (by decide) (.inr (by decide)), hput _ F.EL_STAT_IDSTATE _ _ (by decide) (.inr (by decide)),
      hput _ F.EL_ID_HELD _ _ (by decide) (.inl (by decide)), hput _ F.EL_ID_HELD_V _ _ (by decide) (.inl (by decide)), hm,
      hput _ F.EL_STAT_ROOT_ID _ _ (by decide) (.inr (by decide)), rget_rput_same _ _ _ (by decide)]
    rfl

end Sys2Proof.Machine
end

section
/-!
SUPPORT. The rows of the link states, and masked writes of `EL_CTRL` (R262, R291).
-/
set_option Elab.async false
namespace Sys2Proof.Machine
open Sys2Proof

/-! ### Ewerlink off -/

/-- The servo goes off: the rate stays. -/
theorem servoTo_off (s : State) (cause : Nat) (theta : Int) : let t := s.servoTo 0 cause theta
    t.rget F.EL_STAT_SERVO = 0 ∧ t.el.ports = s.el.ports ∧ t.el.table = s.el.table ∧ t.reg R.SPN_RATE = s.reg R.SPN_RATE ∧
      ∀ g : Fld, reportReg g.reg = false → apart F.EL_STAT_SERVO g → g.reg ∉ [R.EL_EVT, R.EL_SRV_CNT, R.SPN_RATE, R.SPN_STAT] → t.rget g = s.rget g := by
  by_cases h : s.rget F.EL_STAT_SERVO = 0
  · rw [servoTo_stays h]
    exact ⟨h, rfl, rfl, rfl, fun _ _ _ _ => rfl⟩
  · have hm := servoTo_moves (new := 0) (by decide) h cause theta
    have hrate := hm.rate
    rw [if_neg (by decide)] at hrate
    exact ⟨hm.state, by rw [hm.own]; rfl, by rw [hm.own]; rfl, hrate, hm.flds⟩

theorem ron_of_zero {s : State} {f : Fld} (h : s.rget f = 0) : s.ron f = false := by
  unfold State.ron
  rw [h]
  rfl

theorem elTopo_run (s : State) (kind node : Nat) : ElRun (fun f => f = F.EL_EVT_TOPO_S) (fun e => e = s.el) s (s.elTopo kind node) :=
  ((ElRun.same (fun f => f = F.EL_EVT_TOPO_S) s).evt (f := F.EL_EVT_TOPO_S) rfl (by decide)).emit _ _ _ _ _ _ _ _

/-- The fields that Ewerlink's end may write. -/
def EndFld (f : Fld) : Prop := (∃ p, KillFld p f) ∨ f.reg = R.EL_STAT ∨ f.reg = R.EL_ID ∨ TreeFld f

theorem killFld_reg {p : Fin 4} {f : Fld} (hf : KillFld p f) : f.reg = R.ELp_STAT p ∨ f.reg = R.ELp_CNT p ∨ f.reg = R.EL_EVT := by
  rcases hf with hf | rfl
  · cases hf with
    | state | role | cand | holdoff => exact .inl rfl
    | downs => exact .inr (.inl rfl)
  · exact .inr (.inr rfl)

theorem treeFld_ewer {f : Fld} (hf : TreeFld f) : (0x4000 ≤ f.reg ∧ f.reg < 0x5000) ∨ f.reg = R.SPN_RATE ∨ f.reg = R.SPN_STAT ∨ f.reg = R.GL_CFGGEN := by
  cases hf with
  | stat f h => exact .inl (by rw [h]; decide)
  | qdrop q => exact .inl (by simp only [F.ELp_CNT_QDROP, R.ELp_CNT]; omega)
  | topo | servo | unlock | unlocks => exact .inl (by decide)
  | rate => exact .inr (.inl rfl)
  | coarse => exact .inr (.inr (.inl rfl))

theorem killFld_ewer {p : Fin 4} {f : Fld} (hf : KillFld p f) : 0x4000 ≤ f.reg ∧ f.reg < 0x5000 := by
  rcases killFld_reg hf with h | h | h <;> rw [h]
  · unfold R.ELp_STAT; omega
  · unfold R.ELp_CNT; omega
  · decide

theorem endFld_ewer {f : Fld} (hf : EndFld f) : (0x4000 ≤ f.reg ∧ f.reg < 0x5000) ∨ f.reg = R.SPN_RATE ∨ f.reg = R.SPN_STAT ∨ f.reg = R.GL_CFGGEN := by
  rcases hf with ⟨p, h⟩ | h | h | h
  · exact .inl (killFld_ewer h)
  · exact .inl (by rw [h]; decide)
  · exact .inl (by rw [h]; decide)
  · exact treeFld_ewer h

theorem endFld_ctrl {f : Fld} (hf : EndFld f) : f.reg ≠ R.EL_CTRL := by
  rcases hf with ⟨p, h⟩ | h | h | h
  · rcases killFld_reg h with h | h | h <;> rw [h]
    · unfold R.ELp_STAT R.EL_CTRL; omega
    · unfold R.ELp_CNT R.EL_CTRL; omega
    · decide
  · rw [h]; decide
  · rw [h]; decide
  · intro he
    cases h with
    | stat f h => rw [h] at he; exact absurd he (by decide)
    | qdrop q => simp only [F.ELp_CNT_QDROP, R.ELp_CNT, R.EL_CTRL] at he; omega
    | topo | servo | unlock | unlocks | rate | coarse => exact absurd he (by decide)

/-- Ewerlink is off: nothing stands in the tree, and `SPN_RATE` is kept. -/
theorem elOff_shows (s : State) : let t := s.elOff
    (∀ p : Fin 4, PortDead t p) ∧ t.el.table = [] ∧ t.rget F.EL_STAT_IDSTATE = 0 ∧ t.ron F.EL_ID_HELD_V = false ∧ t.rget F.EL_STAT_SERVO = 0 ∧
      t.ron F.EL_STAT_HASPARENT = false ∧ t.ron F.EL_STAT_ISROOT = false ∧ t.rget F.EL_STAT_DEPTH = 31 ∧ t.reg R.SPN_RATE = s.reg R.SPN_RATE ∧
      ElRun EndFld (fun _ => True) s t := by
  rw [elOff_eq]
  have hdead := portsKilled_dead s
  have hk := portsKilled_run s
  generalize s.portsKilled = u at hdead hk
  have hc := treeCleared_run u
  obtain ⟨c1, c2, c3, c4, c5⟩ := treeCleared_shows u
  generalize u.treeCleared = v at hc c1 c2 c3 c4 c5
  obtain ⟨s1, s2, s3, s4, s5⟩ := servoTo_off v servoParent v.lastTheta
  have hs : ElRun TreeFld (fun _ => True) v (v.servoTo 0 servoParent v.lastTheta) := (treeRun_refl v).servoTo (fun _ h => h) anyEl_closed 0 _ _
  generalize v.servoTo 0 servoParent v.lastTheta = w at s1 s2 s3 s4 s5 hs
  have ht := elTopo_run w topoNoRoot v.elOwnId
  generalize w.elTopo topoNoRoot v.elOwnId = t at ht
  have htf : ∀ g : Fld, reportReg g.reg = false → g.reg ≠ R.EL_EVT → t.rget g = w.rget g := fun g hr hg => ht.flds g hr (fun f hf => .inl (by rw [hf]; exact hg))
  have hel : t.el.ports = u.el.ports ∧ t.el.table = [] := ⟨by rw [ht.own, s2]; exact hc.own.1, by rw [ht.own, s3]; exact hc.own.2⟩
  have hstat : ∀ g : Fld, g.reg = R.EL_STAT → apart F.EL_STAT_SERVO g → t.rget g = v.rget g := fun g hg ha =>
    (htf g (by rw [hg]; decide) (by rw [hg]; decide)).trans (s5 g (by rw [hg]; decide) ha (by rw [hg]; decide))
  have hport : ∀ p : Fin 4, ∀ g : Fld, g.reg = R.ELp_STAT p → t.rget g = u.rget g := fun p g hg => by
    have hr : reportReg g.reg = false := by rw [hg]; exact elStat_plain p
    have hne : ∀ o, o < 0x4040 ∨ 0x4080 ≤ o → g.reg ≠ o := fun o ho => by rw [hg]; unfold R.ELp_STAT; omega
    refine (htf g hr (hne _ (by decide))).trans ((s5 g hr (.inl (hne _ (by decide))) ?_).trans (hc.flds g hr (fun f hf => .inl ?_)))
    · simp only [List.mem_cons, List.not_mem_nil, or_false, not_or]
      exact ⟨hne _ (by decide), hne _ (by decide), hne _ (by decide), hne _ (by decide)⟩
    · rcases hf with h | h <;> rw [h] <;> exact hne _ (by decide)
  refine ⟨fun p => ⟨(hport p _ rfl).trans (hdead p).state, (hport p _ rfl).trans (hdead p).role, by rw [hel.1]; exact (hdead p).bcn, by rw [hel.1]; exact (hdead p).queue⟩,
    hel.2, (hstat _ rfl (.inr (by decide))).trans c1, ?_, (htf _ (by decide) (by decide)).trans s1, ron_of_zero ((hstat _ rfl (.inr (by decide))).trans c3),
    ron_of_zero ((hstat _ rfl (.inr (by decide))).trans c4), (hstat _ rfl (.inr (by decide))).trans c5, ?_, ?_⟩
  · exact ron_of_zero ((htf _ (by decide) (by decide)).trans ((s5 F.EL_ID_HELD_V (by decide) (.inl (by decide)) (by decide)).trans c2))
  · have hrt : t.reg R.SPN_RATE = w.reg R.SPN_RATE := ht.reg (by decide) (fun f hf he => absurd (hf ▸ he) (by decide))
    have hrv : v.reg R.SPN_RATE = u.reg R.SPN_RATE := hc.reg (by decide) (fun f hf he => by rcases hf with h | h <;> rw [h] at he <;> exact absurd he (by decide))
    have hru : u.reg R.SPN_RATE = s.reg R.SPN_RATE := hk.reg (by decide) (fun f ⟨p, hf⟩ he => by
      have hb := killFld_ewer hf
      rw [he] at hb
      exact absurd hb (by decide))
    exact hrt.trans (s4.trans (hrv.trans hru))
  · exact (((hk.mono (W' := EndFld) (K' := fun _ => True) (fun f hf => .inl hf) (fun _ => trivial)).trans (hc.mono (K' := fun _ => True) (fun f hf => .inr (hf.imp id .inl)) (fun _ => trivial))).trans
      (hs.mono (K' := fun _ => True) (fun f hf => .inr (.inr (.inr hf))) (fun _ => trivial))).trans
      (ht.mono (fun f hf => .inr (.inr (.inr (by rw [hf]; exact .topo)))) (fun _ => trivial))

/-! ### A port's fall -/

theorem leaveFld_ewer {p : Fin 4} {f : Fld} (hf : LeaveFld p f) : (0x4000 ≤ f.reg ∧ f.reg < 0x5000) ∨ f.reg = R.SPN_RATE ∨ f.reg = R.SPN_STAT ∨ f.reg = R.GL_CFGGEN := by
  rcases hf with (h | ⟨q, rfl⟩) | h | h
  · exact treeFld_ewer h
  · exact .inl (by simp only [F.ELp_STAT_ROLE, R.ELp_STAT]; omega)
  · exact .inl (killFld_ewer (.inl h))
  · exact .inl (by rw [h]; decide)

theorem PortLeft.fell {s t : State} {p : Fin 4} (h : PortLeft s t p 1) : fellDown s t p := by
  have hport : (s.el.left p s.spine.tick).ports[p] = { s.el.ports[p] with bcn := none, t21 := none, reqDue := false, req := none, bcns := 0, downAt := s.spine.tick, resp := none } :=
    ports_set_same _ _ _
  refine ⟨h.state, h.role, h.cand, h.holdoff, ?_, ?_, h.downs rfl, h.link, h.run.only, h.run.ewerRegs (fun f hf => leaveFld_ewer hf)⟩
  · rw [h.run.own.bcn p, hport]
  · rw [h.run.own.downAt p, hport]

theorem elDown_falls {s : State} {p : Fin 4} (h : hasLock s p) (cause : Nat) : PortLeft s (s.elDown p cause) p 1 := by
  have he : s.elDown p cause = s.elPortOff p psDown (fun s old => s.elLink p old psDown cause) := if_pos h
  rw [he]
  exact elPortOff_leaves (by rcases h with h | h <;> rw [h] <;> decide) (.inr rfl) (elLink_reports p psDown cause)

theorem elDown_stays {s : State} {p : Fin 4} (h : ¬ hasLock s p) (cause : Nat) : s.elDown p cause = s := if_neg h

/-! ### Masked writes -/

/-- The bits of a mask that another leaves. -/
theorem testBit_sub_and (i : Nat) : ∀ k x : Nat, (k - (x &&& k)).testBit i = (k.testBit i && !x.testBit i) := by
  induction i with
  | zero =>
    intro k x
    have h1 : (x &&& k) % 2 = 1 ↔ x % 2 = 1 ∧ k % 2 = 1 := Nat.and_mod_two_eq_one
    have h2 : x &&& k ≤ k := Nat.and_le_right
    rw [Nat.testBit_zero, Nat.testBit_zero, Nat.testBit_zero]
    by_cases hx : x % 2 = 1 <;> by_cases hk : k % 2 = 1 <;> simp only [hx, hk, and_true, iff_true, iff_false, and_self, and_false] at h1 ⊢ <;>
      simp only [decide_eq_true_eq, decide_true, decide_false, Bool.not_true, Bool.not_false, Bool.and_true, Bool.and_false, decide_eq_false_iff_not] <;> omega
  | succ i ih =>
    intro k x
    have h1 : (x &&& k) / 2 = x / 2 &&& k / 2 := Nat.and_div_two
    have h2 : (x &&& k) % 2 = 1 → k % 2 = 1 := fun h => (Nat.and_mod_two_eq_one.1 h).2
    have h3 : x &&& k ≤ k := Nat.and_le_right
    have hdiv : (k - (x &&& k)) / 2 = k / 2 - (x / 2 &&& k / 2) := by
      rw [← h1]
      omega
    rw [Nat.testBit_succ, Nat.testBit_succ, Nat.testBit_succ, hdiv, ih]

theorem testBit_wfld (w : Word) (lo n i : Nat) : (wfld w lo n).testBit i = (decide (i < n) && w.getLsbD (lo + i)) := by
  unfold wfld
  rw [Nat.testBit_mod_two_pow, Nat.testBit_shiftRight]
  rfl

/-- A bit that the mask of a write of `EL_CTRL` selects takes its value, any other stays. -/
def ctrlWord (old v : Word) : Word :=
  let m := wfld v 16 16 &&& 0xF01
  word (old.toNat &&& (0xF01 - m) ||| (v.toNat &&& m))

theorem ctrlWord_bit (old v : Word) {i : Nat} (hi : i < 16) (hk : (0xF01 : Nat).testBit i = true) :
    (ctrlWord old v).getLsbD i = if v.getLsbD (16 + i) then v.getLsbD i else old.getLsbD i := by
  unfold ctrlWord word
  dsimp only
  rw [BitVec.getLsbD_ofNat, decide_eq_true (by omega : i < 32), Bool.true_and, Nat.testBit_or, Nat.testBit_and, Nat.testBit_and, Nat.testBit_and, testBit_sub_and, hk,
    testBit_wfld, decide_eq_true hi, Bool.true_and, Bool.true_and, Bool.and_true]
  have ho : old.toNat.testBit i = old.getLsbD i := rfl
  have hv : v.toNat.testBit i = v.getLsbD i := rfl
  rw [ho, hv]
  cases v.getLsbD (16 + i) <;> simp

/-- A field of one bit. -/
theorem ron_eq_bit (s : State) {f : Fld} (hw : f.width = 1) : s.ron f = (s.reg f.reg).getLsbD f.lo := by
  have h := testBit_wfld (s.reg f.reg) f.lo 1 0
  rw [Nat.testBit_zero, decide_eq_true (by decide : (0 : Nat) < 1), Bool.true_and, Nat.add_zero] at h
  have hlt : wfld (s.reg f.reg) f.lo 1 < 2 := Nat.mod_lt _ (by decide)
  unfold State.ron State.rget
  rw [hw, ← h]
  generalize wfld (s.reg f.reg) f.lo 1 = n at hlt
  rcases (by omega : n = 0 ∨ n = 1) with rfl | rfl <;> rfl

theorem nbit_portEn (s : State) (p : Fin 4) : nbit (s.rget F.EL_CTRL_PORT_EN) p = (s.reg R.EL_CTRL).getLsbD (8 + p) := by
  rw [nbit_eq_testBit]
  exact (testBit_wfld (s.reg R.EL_CTRL) 8 4 p).trans (by rw [decide_eq_true p.isLt, Bool.true_and])

end Sys2Proof.Machine
end

section
/-!
SUPPORT. Writes of `EL_CTRL` that switch Ewerlink or a port off (R291, R319).
-/
set_option Elab.async false
namespace Sys2Proof.Machine
open Sys2Proof

/-! ### The ports follow `EL_CTRL` -/

/-- One port follows its bit. -/
def State.portAlign (s : State) (p : Fin 4) : State :=
  if s.ron F.EL_CTRL_EN ∧ nbit (s.rget F.EL_CTRL_PORT_EN) p then s.elPortOn p else s.elPortDisable p

theorem elPorts_eq (s : State) : s.elPorts = (List.finRange 4).foldl State.portAlign s := rfl

theorem elPortOn_run (s : State) (p : Fin 4) : ElRun (LeaveFld p) (fun _ => True) s (s.elPortOn p) := by
  by_cases h : s.elState p = 0
  · have he : s.elPortOn p = s.elPortOff p 1 (fun s old => s.elLinkFree p old 1) := if_pos h
    rw [he]
    exact (elPortOff_leaves (by rw [h]; decide) (.inr rfl) (elLinkFree_reports p 1)).run.mono (fun _ h => h) (fun _ => trivial)
  · have he : s.elPortOn p = s := if_neg h
    rw [he]
    exact .refl trivial

theorem elPortDisable_shows (s : State) (p : Fin 4) : (s.elPortDisable p).elState p = 0 ∧ ElRun (LeaveFld p) (fun _ => True) s (s.elPortDisable p) := by
  by_cases h : s.elState p = 0
  · have he : s.elPortDisable p = s := if_pos h
    rw [he]
    exact ⟨h, .refl trivial⟩
  · have hl := elPortOff_leaves h (.inl rfl) (elLink_reports p 0 5)
    exact ⟨hl.state, hl.run.mono (fun _ h => h) (fun _ => trivial)⟩

theorem portAlign_run (s : State) (p : Fin 4) : ElRun (LeaveFld p) (fun _ => True) s (s.portAlign p) :=
  pin_ite (elPortOn_run s p) (elPortDisable_shows s p).2

theorem leaveFld_ctrl {p : Fin 4} {f : Fld} (hf : LeaveFld p f) : f.reg ≠ R.EL_CTRL := by
  rcases hf with (h | ⟨q, rfl⟩) | h | h
  · exact endFld_ctrl (.inr (.inr (.inr h)))
  · simp only [F.ELp_STAT_ROLE, R.ELp_STAT, R.EL_CTRL]; omega
  · exact endFld_ctrl (.inl ⟨p, .inl h⟩)
  · rw [h]; decide

/-- No other port's state moves. -/
theorem leaveFld_state {p q : Fin 4} (h : q ≠ p) {f : Fld} (hf : LeaveFld p f) : apart f (F.ELp_STAT_STATE q) := by
  rcases hf with hf | hf | hf
  · exact selFld_apart_stat hf rfl (.inl (Nat.le_of_ble_eq_true rfl))
  · exact killFld_others h (.inl hf) rfl
  · exact killFld_others h (.inr hf) rfl

/-- The fields that the ports' alignment may write. -/
def AlignFld (f : Fld) : Prop := ∃ p, LeaveFld p f

theorem elPorts_run (s : State) : ElRun AlignFld (fun _ => True) s s.elPorts :=
  pin_foldl _ _ (fun a p ha => ha.trans ((portAlign_run a p).mono (fun _ hf => ⟨p, hf⟩) (fun h => h))) (.refl trivial)

theorem elPorts_off {s : State} {p : Fin 4} (h : nbit (s.rget F.EL_CTRL_PORT_EN) p = false) : s.elPorts.elState p = 0 := by
  have hstep : ∀ (a : State) (x : Fin 4), (a.portAlign x).rget F.EL_CTRL_PORT_EN = a.rget F.EL_CTRL_PORT_EN := fun a x =>
    (portAlign_run a x).flds _ (by decide) (fun f hf => .inl (leaveFld_ctrl hf).symm)
  have hall : ∀ (l : List (Fin 4)) (a : State), nbit (a.rget F.EL_CTRL_PORT_EN) p = false → (p ∈ l ∨ a.elState p = 0) → (l.foldl State.portAlign a).elState p = 0 := fun l => by
    induction l with
    | nil => exact fun a _ h => h.resolve_left List.not_mem_nil
    | cons x l ih =>
      intro a ha h0
      refine ih _ (by rw [hstep]; exact ha) ?_
      by_cases hx : p = x
      · refine .inr ?_
        subst hx
        have he : a.portAlign p = a.elPortDisable p := if_neg (fun hc => by rw [ha] at hc; exact absurd hc.2 (by decide))
        rw [he]
        exact (elPortDisable_shows a p).1
      · exact h0.imp (fun hm => (List.mem_cons.1 hm).resolve_left hx) (fun h1 =>
          ((portAlign_run a x).flds _ (elStat_plain p) (fun f hf => leaveFld_state hx hf)).trans h1)
  exact hall _ s h (.inl (List.mem_finRange p))

/-! ### The write -/

/-- What a write of `EL_CTRL` does. -/
def State.ctrlPut (s : State) (v : Word) : State :=
  let s1 := s.setReg R.EL_CTRL (ctrlWord (s.reg R.EL_CTRL) v)
  if s.ron F.EL_CTRL_EN ∧ ¬ s1.ron F.EL_CTRL_EN then s1.elOff
  else if s1.ron F.EL_CTRL_EN then (if s.ron F.EL_CTRL_EN then s1.elPorts else s1.elPorts.elSelect) else s1

theorem elCtrlWrite_open {s : State} (h : s.locked 7 = false) (p : Path) (v : Word) : s.elCtrlWrite p v = s.cfgWrite R.EL_CTRL (fun s => s.ctrlPut v) :=
  if_neg (fun hc => by rw [h] at hc; exact absurd hc.1 (by decide))

theorem elCtrlWrite_locked {s : State} (h : s.locked 7 = true) (p : Path) {v : Word} (hv : v.getLsbD 16 = true) :
    s.elCtrlWrite p v = s.lockViolation p R.EL_CTRL v (2 ^ 7) false := by
  refine if_pos ⟨h, fun h0 => ?_⟩
  have hb : (wfld v 16 16 &&& 0xF01).testBit 0 = true := by
    rw [Nat.testBit_and, testBit_wfld]
    rw [show (16 + 0 : Nat) = 16 from rfl, hv]
    decide
  rw [h0] at hb
  exact absurd hb (by decide)

theorem ctrlPut_en (s : State) (v : Word) : (s.setReg R.EL_CTRL (ctrlWord (s.reg R.EL_CTRL) v)).ron F.EL_CTRL_EN = if v.getLsbD 16 then v.getLsbD 0 else s.ron F.EL_CTRL_EN := by
  rw [ron_eq_bit _ rfl, ron_eq_bit s rfl, show F.EL_CTRL_EN.reg = R.EL_CTRL from rfl, reg_setReg_same]
  exact ctrlWord_bit _ _ (by decide) (by decide)

theorem ctrlPut_port (s : State) (v : Word) (p : Fin 4) : nbit ((s.setReg R.EL_CTRL (ctrlWord (s.reg R.EL_CTRL) v)).rget F.EL_CTRL_PORT_EN) p =
    if v.getLsbD (24 + p) then v.getLsbD (8 + p) else nbit (s.rget F.EL_CTRL_PORT_EN) p := by
  have hk : ∀ p : Fin 4, (0xF01 : Nat).testBit (8 + p) = true := by decide
  rw [nbit_portEn, nbit_portEn, reg_setReg_same, ctrlWord_bit _ _ (by omega) (hk p), show 16 + (8 + p.val) = 24 + p.val by omega]

/-- A configuration write adds at most the count of configurations. -/
theorem cfgWrite_run {W : Fld → Prop} {K : Ewer → Prop} {s u : State} {o : Nat} {f : State → State} (h : ElRun W K u (f s)) (hW : W F.GL_CFGGEN_GEN) :
    ElRun W K u (s.cfgWrite o f) :=
  pin_ite h (h.rput _ hW (by decide))

end Sys2Proof.Machine
end

section
/-!
SUPPORT. The rows of the link states (R262, R268, R291).
-/
set_option Elab.async false
namespace Sys2Proof.Machine
open Sys2Proof

/-! ### Symbol lock and the hold-off -/

theorem elLockOn_locks {s : State} {p : Fin 4} (h1 : s.elState p = 1) (h2 : s.ron (F.ELp_STAT_HOLDOFF p) = false) (h3 : s.ron F.PW_STAT_VDDL_OK = true) : let t := s.elLockOn p
    t.elState p = 2 ∧ t.ron F.EL_EVT_LINK_S = true ∧ s.sameRegsBut t [R.ELp_STAT p, R.EL_EVT] ∧ s.sameBlocks t := by
  have he : s.elLockOn p = (s.rput (F.ELp_STAT_STATE p) 2).elLink p 1 2 1 := if_pos ⟨h1, by rw [h2]; decide, h3⟩
  rw [he]
  obtain ⟨hr, hon⟩ := elLink_reports p 2 1 (s.rput (F.ELp_STAT_STATE p) 2) 1
  have hf : Frame [R.ELp_STAT p, R.EL_EVT] s ((s.rput (F.ELp_STAT_STATE p) 2).elLink p 1 2 1) :=
    (((Frame.refl _ s).rput (f := F.ELp_STAT_STATE p) 2 List.mem_cons_self).evt (f := F.EL_EVT_LINK_S) (List.mem_cons_of_mem _ List.mem_cons_self)).emit _ _ _ _ _ _ _ _
  refine ⟨?_, hon, hf.regs, hf.blocks⟩
  exact (hr.flds (F.ELp_STAT_STATE p) (elStat_plain p) (fun f hf => .inl (by rw [hf]; simp only [F.ELp_STAT_STATE, R.ELp_STAT, F.EL_EVT_LINK_S, R.EL_EVT]; omega))).trans
    (rget_rput_same _ _ _ (Nat.le_of_ble_eq_true rfl))

theorem elLockOn_stays {s : State} {p : Fin 4} (h : s.elState p ≠ 1 ∨ s.ron (F.ELp_STAT_HOLDOFF p) = true ∨ s.ron F.PW_STAT_VDDL_OK = false) : s.elLockOn p = s := by
  refine if_neg (fun hc => ?_)
  obtain ⟨h1, h2, h3⟩ := hc
  rcases h with h | h | h
  · exact h h1
  · exact h2 h
  · rw [h] at h3; cases h3

theorem holdoffEnd_ends {s : State} {p : Fin 4} (h1 : s.ron (F.ELp_STAT_HOLDOFF p) = true) (h2 : s.el.ports[p].downAt + 10000000 ≤ s.spine.tick) : let t := s.holdoffEnd p
    t.ron (F.ELp_STAT_HOLDOFF p) = false ∧ t.elState p = s.elState p ∧ s.sameRegsBut t [R.ELp_STAT p] ∧ s.sameBlocks t := by
  have he : s.holdoffEnd p = s.rput (F.ELp_STAT_HOLDOFF p) 0 := if_pos ⟨h1, h2⟩
  rw [he]
  have hf := (Frame.refl [R.ELp_STAT p] s).rput (f := F.ELp_STAT_HOLDOFF p) 0 List.mem_cons_self
  refine ⟨ron_of_zero ((rget_rput_same _ _ _ (Nat.le_of_ble_eq_true rfl)).trans rfl), ?_, hf.regs, hf.blocks⟩
  exact rget_rput_of_apart s 0 (Nat.le_of_ble_eq_true rfl) (.inr (.inl (Nat.le_of_ble_eq_true rfl)))

theorem holdoffEnd_stays {s : State} {p : Fin 4} (h : s.ron (F.ELp_STAT_HOLDOFF p) = false ∨ s.spine.tick < s.el.ports[p].downAt + 10000000) : s.holdoffEnd p = s := by
  refine if_neg (fun hc => ?_)
  obtain ⟨h1, h2⟩ := hc
  rcases h with h | h
  · rw [h] at h1; cases h1
  · exact absurd h2 (Nat.not_le.2 h)

/-! ### Violations -/

/-- The device once violations are counted. -/
def State.violCounted (s : State) (p : Fin 4) (viol : BitVec 16) : State := s.rsat (F.ELp_ERR_CV p) viol.toNat

theorem violCounted_shows (s : State) (p : Fin 4) (viol : BitVec 16) : (s.violCounted p viol).rget (F.ELp_ERR_CV p) = min (s.rget (F.ELp_ERR_CV p) + viol.toNat) 65535 ∧
    Frame [R.ELp_ERR p] s (s.violCounted p viol) ∧ ∀ g : Fld, g.reg ≠ R.ELp_ERR p → (s.violCounted p viol).rget g = s.rget g :=
  ⟨rget_rsat_same _ _ _ (Nat.le_of_ble_eq_true rfl), (Frame.refl _ s).rsat (f := F.ELp_ERR_CV p) _ List.mem_cons_self, fun _ hg => rget_rsat_ne s (f := F.ELp_ERR_CV p) _ hg⟩

theorem leaveFld_err {p q : Fin 4} {f : Fld} (hf : LeaveFld p f) : apart f (F.ELp_ERR_CV q) := by
  have hq : quietReg (F.ELp_ERR_CV q).reg := .inl (by simp only [F.ELp_ERR_CV, R.ELp_ERR]; omega)
  have hne : ∀ r : Fin 4, (F.ELp_ERR_CV q).reg ≠ R.ELp_STAT r := fun r => by simp only [F.ELp_ERR_CV, R.ELp_ERR, R.ELp_STAT]; omega
  rcases hf with hf | hf | hf
  · exact selFld_quiet hf hq hne
  · rcases killFld_reg (.inl hf) with h | h | h
    · exact .inl (by rw [h]; exact hne p)
    · exact .inl (by rw [h]; simp only [F.ELp_ERR_CV, R.ELp_ERR, R.ELp_CNT]; omega)
    · exact .inl (by rw [h]; simp only [F.ELp_ERR_CV, R.ELp_ERR, R.EL_EVT]; omega)
  · exact .inl (by rw [hf]; simp only [F.ELp_ERR_CV, R.ELp_ERR, F.EL_EVT_LINK_S, R.EL_EVT]; omega)

/-- A fall behind counted violations is a fall. -/
theorem fellDown_of_counted {s t : State} {p : Fin 4} {viol : BitVec 16} (h : fellDown (s.violCounted p viol) t p) : fellDown s t p := by
  obtain ⟨-, hf, hg⟩ := violCounted_shows s p viol
  obtain ⟨h1, h2, h3, h4, h5, h6, h7, h8, h9, h10⟩ := h
  have hd : (s.violCounted p viol).rget (F.ELp_CNT_DOWNS p) = s.rget (F.ELp_CNT_DOWNS p) := hg _ (by simp only [F.ELp_CNT_DOWNS, R.ELp_CNT, R.ELp_ERR]; omega)
  refine ⟨h1, h2, h3, h4, h5, h6, ?_, h8, ?_, fun o hr ha hb hc hd => (h10 o hr ha hb hc hd).trans (hf.regs o hr ?_)⟩
  · unfold countedOne at h7 ⊢
    rw [h7, hd]
  · exact (ElBlocks.of_same hf.blocks).trans h9
  · simp only [List.mem_cons, List.not_mem_nil, or_false, R.ELp_ERR]
    omega

/-! ### Stale candidates -/

/-- A candidate that goes is one no more; the beacon goes with it, if that is what went stale. -/
theorem candidateExpiry_expires {s : State} {p : Fin 4} (h1 : s.el.ports[p].bcn.isSome = true)
    (h2 : s.el.ports[p].bcnAt + 3000000 < s.spine.tick ∨ (s.ron (F.ELp_STAT_CAND p) = true ∧ s.el.ports[p].rseqAt + 3000000 < s.spine.tick)) : let t := s.candidateExpiry p
    t.ron (F.ELp_STAT_CAND p) = false ∧ t.elState p = s.elState p ∧ (s.el.ports[p].bcnAt + 3000000 < s.spine.tick → t.el.ports[p].bcn = none) ∧ onlyEwer s t ∧ ewerRegs s t := by
  have he : s.candidateExpiry p = (if s.el.ports[p].bcnAt + bcnLimit < s.spine.tick then (s.rput (F.ELp_STAT_CAND p) 0).modPort p (fun q => { q with bcn := none })
      else s.rput (F.ELp_STAT_CAND p) 0).elSelect := if_pos ⟨h1, h2⟩
  rw [he]
  have hrun := (ElRun.refl (W := LeaveFld p) (K := fun _ => True) (s := s) trivial).rput (f := F.ELp_STAT_CAND p) 0 (.inr (.inl .cand)) (Nat.le_of_ble_eq_true rfl)
  have hcand : (s.rput (F.ELp_STAT_CAND p) 0).rget (F.ELp_STAT_CAND p) = 0 := (rget_rput_same _ _ _ (Nat.le_of_ble_eq_true rfl)).trans rfl
  have hstate : (s.rput (F.ELp_STAT_CAND p) 0).elState p = s.elState p := rget_rput_of_apart s 0 (Nat.le_of_ble_eq_true rfl) (.inr (.inl (Nat.le_of_ble_eq_true rfl)))
  generalize s.rput (F.ELp_STAT_CAND p) 0 = u at hrun hcand hstate
  have hmod := pin_ite (P := fun v => ElRun (LeaveFld p) (fun _ => True) s v ∧ v.rget (F.ELp_STAT_CAND p) = 0 ∧ v.elState p = s.elState p)
    (c := s.el.ports[p].bcnAt + bcnLimit < s.spine.tick) (a := u.modPort p (fun q => { q with bcn := none })) (b := u)
    ⟨hrun.modPort p _ trivial, hcand, hstate⟩ ⟨hrun, hcand, hstate⟩
  have hbcn : s.el.ports[p].bcnAt + bcnLimit < s.spine.tick →
      (if s.el.ports[p].bcnAt + bcnLimit < s.spine.tick then u.modPort p (fun q => { q with bcn := none }) else u).el.ports[p].bcn = none := fun hc => by
    rw [if_pos hc]
    exact congrArg ElPort.bcn (ports_set_same u.el.ports p _)
  generalize (if s.el.ports[p].bcnAt + bcnLimit < s.spine.tick then u.modPort p (fun q => { q with bcn := none }) else u) = v at hmod hbcn
  obtain ⟨m1, m2, m3⟩ := hmod
  have hsel := elSelect_run (portsAs_closed v.el) (ElRun.refl (s := v) (PortsAs.refl v.el))
  have hall : ElRun (LeaveFld p) (fun _ => True) s v.elSelect := m1.trans (hsel.mono (fun _ hf => .inl hf) (fun _ => trivial))
  refine ⟨ron_of_zero ?_, ?_, fun hc => (hsel.own.bcn p).trans (hbcn hc), hall.only, hall.ewerRegs (fun f hf => leaveFld_ewer hf)⟩
  · exact (hsel.flds _ (elStat_plain p) (fun f hf => selFld_apart_stat hf rfl (.inr (Nat.le_of_ble_eq_true rfl)))).trans m2
  · exact (hsel.flds _ (elStat_plain p) (fun f hf => selFld_apart_stat hf rfl (.inl (Nat.le_of_ble_eq_true rfl)))).trans m3

theorem candidateExpiry_stays {s : State} {p : Fin 4} (h : s.el.ports[p].bcn = none ∨ (s.spine.tick ≤ s.el.ports[p].bcnAt + 3000000 ∧
    (s.ron (F.ELp_STAT_CAND p) = false ∨ s.spine.tick ≤ s.el.ports[p].rseqAt + 3000000))) : s.candidateExpiry p = s := by
  refine if_neg (fun hc => ?_)
  obtain ⟨h1, h2⟩ := hc
  rcases h with h | ⟨h3, h4⟩
  · rw [h] at h1; cases h1
  · rcases h2 with h2 | ⟨h2, h5⟩
    · exact absurd h2 (Nat.not_lt.2 h3)
    · rcases h4 with h4 | h4
      · rw [h4] at h2; cases h2
      · exact absurd h5 (Nat.not_lt.2 h4)

theorem beaconTimeout_stays {s : State} {p : Fin 4} (h : s.elState p ≠ 3 ∨ s.spine.tick < s.el.ports[p].bcnAt + 3000000) : s.beaconTimeout p = s := by
  refine if_neg (fun hc => ?_)
  obtain ⟨h1, h2⟩ := hc
  rcases h with h | h
  · exact h (of_decide_eq_true h1)
  · exact absurd h2 (Nat.not_le.2 h)

theorem beaconTimeout_falls {s : State} {p : Fin 4} (h1 : s.elState p = 3) (h2 : s.el.ports[p].bcnAt + 3000000 ≤ s.spine.tick) : s.beaconTimeout p = s.elDown p 4 :=
  if_pos ⟨decide_eq_true h1, h2⟩

end Sys2Proof.Machine
end

section
set_option Elab.async false
namespace Sys2Proof
open Sys2Proof.Machine

section
variable {p : Fin 4} {s : State} (hev : s.takesEvents = true)
include hev

theorem exec_linkLock {t : State} (h : s.elLockOn p = t) : exec (.linkLock p) s = .next t := (event_open hev (fun s => s.elLockOn p)).trans (congrArg Host.Outcome.next h)

theorem exec_holdoffEnd {t : State} (h : s.holdoffEnd p = t) : exec (.holdoffEnd p) s = .next t := (event_open hev (fun s => s.holdoffEnd p)).trans (congrArg Host.Outcome.next h)

theorem exec_beaconTimeout {t : State} (h : s.beaconTimeout p = t) : exec (.beaconTimeout p) s = .next t := (event_open hev (fun s => s.beaconTimeout p)).trans (congrArg Host.Outcome.next h)

theorem exec_candidateExpiry {t : State} (h : s.candidateExpiry p = t) : exec (.candidateExpiry p) s = .next t :=
  (event_open hev (fun s => s.candidateExpiry p)).trans (congrArg Host.Outcome.next h)

/-- A row of violations in a port that is not DISABLED. -/
theorem exec_portDown (h : s.elState p ≠ 0) (code : Bool) (viol : BitVec 16) : exec (.portDown p code viol) s =
    .next (if code = true ∧ viol.toNat < 4 then s.violCounted p viol else (s.violCounted p viol).elDown p (if code then 3 else 2)) := by
  refine (event_open hev (fun s =>
    let s1 := if s.elState p = psDisabled then s else s.rsat (F.ELp_ERR_CV p) viol.toNat
    if code ∧ viol.toNat < 4 then s1 else s1.elDown p (if code then 3 else 2))).trans (congrArg Host.Outcome.next ?_)
  have hc : (if s.elState p = psDisabled then s else s.rsat (F.ELp_ERR_CV p) viol.toNat) = s.violCounted p viol := if_neg h
  dsimp only
  rw [hc]

theorem exec_portDown_disabled (h : s.elState p = 0) (code : Bool) (viol : BitVec 16) : exec (.portDown p code viol) s = .next s := by
  refine (event_open hev (fun s =>
    let s1 := if s.elState p = psDisabled then s else s.rsat (F.ELp_ERR_CV p) viol.toNat
    if code ∧ viol.toNat < 4 then s1 else s1.elDown p (if code then 3 else 2))).trans (congrArg Host.Outcome.next ?_)
  have hc : (if s.elState p = psDisabled then s else s.rsat (F.ELp_ERR_CV p) viol.toNat) = s := if_pos h
  dsimp only
  rw [hc, elDown_stays (fun hl => by rcases hl with hl | hl <;> rw [h] at hl <;> cases hl), ite_self]

theorem portDown_follows (h : s.elState p ≠ 0) (code : Bool) (viol : BitVec 16) : ∃ t, exec (.portDown p code viol) s = .next t ∧
    t.rget (F.ELp_ERR_CV p) = min (s.rget (F.ELp_ERR_CV p) + viol.toNat) 65535 ∧
    ((code = true ∧ viol.toNat < 4) ∨ ¬ hasLock s p → s.sameRegsBut t [R.ELp_ERR p] ∧ s.sameBlocks t) ∧
    (hasLock s p → code = false ∨ 4 ≤ viol.toNat → fellDown s t p) := by
  obtain ⟨h1, h2, h3⟩ := violCounted_shows s p viol
  have hst : (s.violCounted p viol).elState p = s.elState p := h3 _ (by simp only [F.ELp_STAT_STATE, R.ELp_STAT, R.ELp_ERR]; omega)
  refine ⟨_, exec_portDown hev h code viol, ?_⟩
  by_cases hc : code = true ∧ viol.toNat < 4
  · rw [if_pos hc]
    refine ⟨h1, fun _ => ⟨h2.regs, h2.blocks⟩, fun _ h => ?_⟩
    obtain ⟨hc1, hc2⟩ := hc
    rcases h with h | h
    · rw [h] at hc1; cases hc1
    · exact absurd hc2 (Nat.not_lt.2 h)
  · rw [if_neg hc]
    by_cases hl : hasLock s p
    · have hl' : hasLock (s.violCounted p viol) p := by
        unfold hasLock at hl ⊢
        rw [hst]
        exact hl
      have hd := elDown_falls hl' (if code then 3 else 2)
      refine ⟨(hd.run.flds _ (elReg_plain (by simp only [F.ELp_ERR_CV, R.ELp_ERR]; omega)) (fun f hf => leaveFld_err hf)).trans h1, fun h => ?_,
        fun _ _ => fellDown_of_counted hd.fell⟩
      exact absurd hl (h.resolve_left hc)
    · have hl' : ¬ hasLock (s.violCounted p viol) p := by
        unfold hasLock at hl ⊢
        rw [hst]
        exact hl
      rw [elDown_stays hl']
      exact ⟨h1, fun _ => ⟨h2.regs, h2.blocks⟩, fun h => absurd h hl⟩

end

section
variable {s : State} (hw : s.takesWrites = true) (q : Path) (v : Word)
include hw

theorem exec_ewerlinkDisable {t : State} (h : s.elCtrlWrite q ((v ||| 0x10000) &&& 0xFFFFFFFE) = t) : exec (.ewerlinkDisable q v) s = .next t :=
  (hostAct_open hw q R.EL_CTRL _).trans (congrArg Host.Outcome.next h)

theorem exec_portDisable {t : State} (h : s.elCtrlWrite q (v &&& 0xFFFEFFFF) = t) : exec (.portDisable q v) s = .next t :=
  (hostAct_open hw q R.EL_CTRL _).trans (congrArg Host.Outcome.next h)

end

/-- The word of a row that clears EN selects EN, and clears it. -/
theorem disableWord_bits (v : Word) : ((v ||| 0x10000) &&& 0xFFFFFFFE).getLsbD 16 = true ∧ ((v ||| 0x10000) &&& 0xFFFFFFFE).getLsbD 0 = false := by
  have h1 : (0x10000 : Word).getLsbD 16 = true := by decide
  have h2 : (0xFFFFFFFE : Word).getLsbD 16 = true := by decide
  have h3 : (0xFFFFFFFE : Word).getLsbD 0 = false := by decide
  rw [BitVec.getLsbD_and, BitVec.getLsbD_and, BitVec.getLsbD_or, h1, h2, h3, Bool.or_true, Bool.and_false]
  exact ⟨rfl, rfl⟩

/-- The word of a row for a port leaves EN, and every other bit. -/
theorem portWord_bits (v : Word) : (v &&& 0xFFFEFFFF).getLsbD 16 = false ∧ ∀ p : Fin 4, (v &&& 0xFFFEFFFF).getLsbD (24 + p) = v.getLsbD (24 + p) ∧
    (v &&& 0xFFFEFFFF).getLsbD (8 + p) = v.getLsbD (8 + p) := by
  have h1 : (0xFFFEFFFF : Word).getLsbD 16 = false := by decide
  have h2 : ∀ p : Fin 4, (0xFFFEFFFF : Word).getLsbD (24 + p) = true ∧ (0xFFFEFFFF : Word).getLsbD (8 + p) = true := by decide
  refine ⟨by rw [BitVec.getLsbD_and, h1, Bool.and_false], fun p => ?_⟩
  obtain ⟨h3, h4⟩ := h2 p
  rw [BitVec.getLsbD_and, BitVec.getLsbD_and, h3, h4, Bool.and_true, Bool.and_true]
  exact ⟨rfl, rfl⟩

/-- A write that switches Ewerlink off. -/
theorem ewerlinkDisable_follows {s : State} (hw : s.takesWrites = true) (q : Path) (v : Word) :
    (s.locked 7 = true → ∃ t, exec (.ewerlinkDisable q v) s = .next t ∧ countedOne s t F.GL_LOCK_VIOL_CNT ∧
      t.reg R.EL_CTRL = s.reg R.EL_CTRL ∧ s.sameBlocks t) ∧
    (s.locked 7 = false → s.ron F.EL_CTRL_EN = false → ∃ t, exec (.ewerlinkDisable q v) s = .next t ∧ t.ron F.EL_CTRL_EN = false ∧
      s.sameRegsBut t [R.EL_CTRL, R.GL_CFGGEN] ∧ s.sameBlocks t) ∧
    (s.locked 7 = false → s.ron F.EL_CTRL_EN = true → ∃ t, exec (.ewerlinkDisable q v) s = .next t ∧ t.ron F.EL_CTRL_EN = false ∧
      (∀ p : Fin 4, t.elState p = 0 ∧ t.elRole p = 0 ∧ t.el.ports[p].bcn = none ∧ t.el.ports[p].queue = []) ∧ t.el.table = [] ∧
      t.rget F.EL_STAT_IDSTATE = 0 ∧ t.ron F.EL_ID_HELD_V = false ∧ t.rget F.EL_STAT_SERVO = 0 ∧ t.ron F.EL_STAT_HASPARENT = false ∧
      t.ron F.EL_STAT_ISROOT = false ∧ t.rget F.EL_STAT_DEPTH = 31 ∧ t.reg R.SPN_RATE = s.reg R.SPN_RATE ∧ onlyEwer s t ∧ ewerRegs s t) := by
  obtain ⟨hb16, hb0⟩ := disableWord_bits v
  have hen := ctrlPut_en s ((v ||| 0x10000) &&& 0xFFFFFFFE)
  rw [if_pos hb16, hb0] at hen
  refine ⟨fun hl => ?_, fun hl he => ?_, fun hl he => ?_⟩
  · refine ⟨_, exec_ewerlinkDisable hw q v (elCtrlWrite_locked hl q hb16), (lockViolation_counts (loading_of_writes hw) _ _ _ _ _).1, ?_⟩
    have hf := lockViolation_frame (Frame.refl violRegs s) (loading_of_writes hw) (fun _ h => h) q R.EL_CTRL ((v ||| 0x10000) &&& 0xFFFFFFFE) (2 ^ 7) false
    exact ⟨hf.regs _ (by decide) (by decide), hf.blocks⟩
  · refine ⟨_, exec_ewerlinkDisable hw q v (elCtrlWrite_open hl q _), ?_⟩
    have hput : s.ctrlPut ((v ||| 0x10000) &&& 0xFFFFFFFE) = s.setReg R.EL_CTRL (ctrlWord (s.reg R.EL_CTRL) ((v ||| 0x10000) &&& 0xFFFFFFFE)) := by
      unfold State.ctrlPut
      dsimp only
      rw [if_neg (fun hc => by rw [he] at hc; exact absurd hc.1 (by decide)), if_neg (by rw [hen]; decide)]
    have hf := cfgWrite_frame (o := R.EL_CTRL) (f := fun s => s.ctrlPut ((v ||| 0x10000) &&& 0xFFFFFFFE)) (s := s) (u := s) (os := [R.EL_CTRL, R.GL_CFGGEN])
      (by rw [hput]; exact (Frame.refl _ s).setReg _ (by decide)) (by decide)
    refine ⟨(ron_of_reg (cfgWrite_reg s (by decide))).trans ?_, hf.regs, hf.blocks⟩
    rw [hput]
    exact hen
  · refine ⟨_, exec_ewerlinkDisable hw q v (elCtrlWrite_open hl q _), ?_⟩
    have hput : s.ctrlPut ((v ||| 0x10000) &&& 0xFFFFFFFE) = (s.setReg R.EL_CTRL (ctrlWord (s.reg R.EL_CTRL) ((v ||| 0x10000) &&& 0xFFFFFFFE))).elOff := by
      unfold State.ctrlPut
      dsimp only
      rw [if_pos ⟨he, by rw [hen]; decide⟩]
    have hrun := (ElRun.refl (W := fun f => EndFld f ∨ f.reg = R.EL_CTRL ∨ f.reg = R.GL_CFGGEN) (K := fun _ => True) (s := s) trivial).setReg
      (ctrlWord (s.reg R.EL_CTRL) ((v ||| 0x10000) &&& 0xFFFFFFFE)) (o := R.EL_CTRL) (.inr (.inl rfl))
    have hrate : (s.setReg R.EL_CTRL (ctrlWord (s.reg R.EL_CTRL) ((v ||| 0x10000) &&& 0xFFFFFFFE))).reg R.SPN_RATE = s.reg R.SPN_RATE := reg_setReg_ne s _ (by decide)
    generalize s.setReg R.EL_CTRL (ctrlWord (s.reg R.EL_CTRL) ((v ||| 0x10000) &&& 0xFFFFFFFE)) = u at hen hput hrun hrate
    obtain ⟨o1, o2, o3, o4, o5, o6, o7, o8, o9, o10⟩ := elOff_shows u
    have hen' : u.elOff.ron F.EL_CTRL_EN = false := (ron_of_reg (o10.reg (by decide) (fun f hf => endFld_ctrl hf))).trans hen
    have hall := hrun.trans (o10.mono (K' := fun _ => True) (fun _ hf => .inl hf) (fun _ => trivial))
    rw [← hput] at o1 o2 o3 o4 o5 o6 o7 o8 o9 hen' hall
    have hcfg := cfgWrite_run (o := R.EL_CTRL) (f := fun s => s.ctrlPut ((v ||| 0x10000) &&& 0xFFFFFFFE)) (s := s) hall (.inr (.inr rfl))
    have hreg : ∀ a, a ≠ R.GL_CFGGEN → (s.cfgWrite R.EL_CTRL (fun s => s.ctrlPut ((v ||| 0x10000) &&& 0xFFFFFFFE))).reg a = (s.ctrlPut ((v ||| 0x10000) &&& 0xFFFFFFFE)).reg a :=
      fun a ha => cfgWrite_reg s ha
    have hel : (s.cfgWrite R.EL_CTRL (fun s => s.ctrlPut ((v ||| 0x10000) &&& 0xFFFFFFFE))).el = (s.ctrlPut ((v ||| 0x10000) &&& 0xFFFFFFFE)).el :=
      far_el (cfgWrite_frame (o := R.EL_CTRL) (f := fun s => s.ctrlPut ((v ||| 0x10000) &&& 0xFFFFFFFE)) (s := s) (os := [R.GL_CFGGEN]) (Frame.refl _ _) (by decide)).far
    generalize s.cfgWrite R.EL_CTRL (fun s => s.ctrlPut ((v ||| 0x10000) &&& 0xFFFFFFFE)) = t at hcfg hreg hel
    have hport : ∀ p : Fin 4, R.ELp_STAT p ≠ R.GL_CFGGEN := fun p => by unfold R.ELp_STAT R.GL_CFGGEN; omega
    refine ⟨(ron_of_reg (hreg _ (by decide))).trans hen', fun p => ⟨(rget_of_reg (hreg _ (hport p))).trans (o1 p).state, (rget_of_reg (hreg _ (hport p))).trans (o1 p).role,
      by rw [hel]; exact (o1 p).bcn, by rw [hel]; exact (o1 p).queue⟩, by rw [hel]; exact o2, (rget_of_reg (hreg _ (by decide))).trans o3,
      (ron_of_reg (hreg _ (by decide))).trans o4, (rget_of_reg (hreg _ (by decide))).trans o5, (ron_of_reg (hreg _ (by decide))).trans o6,
      (ron_of_reg (hreg _ (by decide))).trans o7, (rget_of_reg (hreg _ (by decide))).trans o8, (hreg _ (by decide)).trans (o9.trans hrate), hcfg.only,
      hcfg.ewerRegs (fun f hf => ?_)⟩
    rcases hf with h | h | h
    · exact endFld_ewer h
    · exact .inl (by rw [h]; decide)
    · exact .inr (.inr (.inr h))

/-- A write that switches a port off. -/
theorem portDisable_follows {s : State} (hw : s.takesWrites = true) (q : Path) (v : Word) (p : Fin 4) (hl : s.locked 7 = false) (he : s.ron F.EL_CTRL_EN = true)
    (hm : nbit v.toNat (24 + p.val) = true) (hb : nbit v.toNat (8 + p.val) = false) :
    ∃ t, exec (.portDisable q v) s = .next t ∧ t.ron F.EL_CTRL_EN = true ∧ nbit (t.rget F.EL_CTRL_PORT_EN) p.val = false ∧
      t.elState p = 0 ∧ onlyEwer s t ∧ ewerRegs s t := by
  obtain ⟨hb16, hbits⟩ := portWord_bits v
  obtain ⟨hbm, hbv⟩ := hbits p
  rw [nbit_toNat] at hm hb
  rw [hm] at hbm
  rw [hb] at hbv
  refine ⟨_, exec_portDisable hw q v (elCtrlWrite_open hl q _), ?_⟩
  generalize v &&& 0xFFFEFFFF = w at *
  have hen := ctrlPut_en s w
  rw [if_neg (by rw [hb16]; decide), he] at hen
  have hpe := ctrlPut_port s w p
  rw [if_pos hbm, hbv] at hpe
  have hput : s.ctrlPut w = (s.setReg R.EL_CTRL (ctrlWord (s.reg R.EL_CTRL) w)).elPorts := by
    unfold State.ctrlPut
    dsimp only
    rw [if_neg (fun hc => hc.2 hen), if_pos hen, if_pos he]
  have hrun := (ElRun.refl (W := fun f => AlignFld f ∨ f.reg = R.EL_CTRL ∨ f.reg = R.GL_CFGGEN) (K := fun _ => True) (s := s) trivial).setReg
    (ctrlWord (s.reg R.EL_CTRL) w) (o := R.EL_CTRL) (.inr (.inl rfl))
  generalize s.setReg R.EL_CTRL (ctrlWord (s.reg R.EL_CTRL) w) = u at hen hpe hput hrun
  have hps := elPorts_run u
  have hctrl : u.elPorts.reg R.EL_CTRL = u.reg R.EL_CTRL := hps.reg (by decide) (fun f ⟨_, hf⟩ => leaveFld_ctrl hf)
  have hstate := elPorts_off hpe
  have hall := hrun.trans (hps.mono (K' := fun _ => True) (fun _ hf => .inl hf) (fun _ => trivial))
  rw [← hput] at hctrl hstate hall
  have hcfg := cfgWrite_run (o := R.EL_CTRL) (f := fun s => s.ctrlPut w) (s := s) hall (.inr (.inr rfl))
  have hreg : ∀ a, a ≠ R.GL_CFGGEN → (s.cfgWrite R.EL_CTRL (fun s => s.ctrlPut w)).reg a = (s.ctrlPut w).reg a := fun a ha => cfgWrite_reg s ha
  generalize s.cfgWrite R.EL_CTRL (fun s => s.ctrlPut w) = t at hcfg hreg
  have htc : t.reg R.EL_CTRL = u.reg R.EL_CTRL := (hreg _ (by decide)).trans hctrl
  refine ⟨(ron_of_reg htc).trans hen, by rw [rget_of_reg (f := F.EL_CTRL_PORT_EN) htc]; exact hpe,
    (rget_of_reg (hreg _ (by simp only [F.ELp_STAT_STATE, R.ELp_STAT, R.GL_CFGGEN]; omega))).trans hstate, hcfg.only, hcfg.ewerRegs (fun f hf => ?_)⟩
  rcases hf with ⟨_, h⟩ | h | h
  · exact leaveFld_ewer h
  · exact .inl (by rw [h]; decide)
  · exact .inr (.inr (.inr h))

/-- Settles O42: each row of a port by its lemma; falls and stale candidates go through the leave of a port and the selection behind it. -/
theorem ewerlinkPortsFollowTheirLinks : Obligations.EwerlinkPortsFollowTheirLinks := by
  unfold Obligations.EwerlinkPortsFollowTheirLinks
  refine ⟨fun p s hev => ⟨fun h1 h2 h3 => ⟨_, exec_linkLock hev rfl, elLockOn_locks h1 h2 h3⟩, fun h => exec_linkLock hev (elLockOn_stays h),
    fun code viol => ⟨fun h => exec_portDown_disabled hev h code viol, fun h => portDown_follows hev h code viol⟩,
    fun h1 h2 => ⟨_, exec_holdoffEnd hev rfl, holdoffEnd_ends h1 h2⟩, fun h => exec_holdoffEnd hev (holdoffEnd_stays h), fun h1 h2 => ?_,
    fun h => exec_beaconTimeout hev (beaconTimeout_stays h), fun h1 h2 => ⟨_, exec_candidateExpiry hev rfl, candidateExpiry_expires h1 h2⟩,
    fun h => exec_candidateExpiry hev (candidateExpiry_stays h)⟩, fun q v s hw => ?_⟩
  · exact ⟨_, exec_beaconTimeout hev (beaconTimeout_falls h1 h2), (elDown_falls (.inr h1) 4).fell⟩
  · obtain ⟨h1, h2, h3⟩ := ewerlinkDisable_follows hw q v
    exact ⟨h1, h2, h3, fun p => portDisable_follows hw q v p⟩

end Sys2Proof
end

section
/-!
SUPPORT. Ewerlink frames as bytes (R264, R265): what reading a frame's bytes back finds.
-/
set_option Elab.async false
namespace Sys2Proof.Machine
open Sys2Proof

/-! ### Reading little-endian values back -/

@[simp] theorem leBytes_length (n v : Nat) : (leBytes n v).length = n := by
  induction n generalizing v with
  | zero => rfl
  | succ n ih => simp [leBytes, ih]

theorem leVal_leBytes (n v : Nat) : leVal (leBytes n v) = v % 256 ^ n := by
  induction n generalizing v with
  | zero => simp [leBytes, leVal, Nat.mod_one]
  | succ n ih =>
    rw [leBytes, leVal, ih, BitVec.toNat_ofNat, Nat.pow_succ' (m := 256)]
    exact Nat.mod_mul.symm

@[simp] theorem leAt_here (n v : Nat) (rest : List Byte) : leAt (leBytes n v ++ rest) 0 n = v % 256 ^ n := by
  rw [leAt, List.drop_zero, List.take_left' (leBytes_length n v), leVal_leBytes]

@[simp] theorem leAt_whole (n v : Nat) : leAt (leBytes n v) 0 n = v % 256 ^ n := by
  simpa using leAt_here n v []

theorem leAt_skip {m i : Nat} (u n : Nat) (rest : List Byte) (h : m ≤ i) : leAt (leBytes m u ++ rest) i n = leAt rest (i - m) n := by
  rw [leAt, List.drop_append, List.drop_eq_nil_of_le (by simpa using h), List.nil_append, leBytes_length, leAt]

/-- One byte by itself is the one byte of its value. -/
theorem byte_leBytes (b : Byte) : [b] = leBytes 1 b.toNat := by simp [leBytes]

/-- The values of two bytes each that stand one behind the other. -/
theorem leAt_pairs (ids : List Nat) (i : Nat) (h : i < ids.length) : leAt (ids.flatMap (fun x => leBytes 2 x)) (2 * i) 2 = ids[i] % 65536 := by
  induction ids generalizing i with
  | nil => simp at h
  | cons x xs ih =>
    cases i with
    | zero => rw [List.flatMap_cons, Nat.mul_zero, leAt_here]; rfl
    | succ j =>
      rw [List.flatMap_cons, leAt_skip _ _ _ (by omega), show 2 * (j + 1) - 2 = 2 * j from by omega, ih j (by simpa using h),
        List.getElem_cons_succ]

theorem pairs_length (ids : List Nat) : (ids.flatMap (fun x => leBytes 2 x)).length = 2 * ids.length := by
  induction ids with
  | nil => rfl
  | cons x xs ih => simp only [List.flatMap_cons, List.length_append, leBytes_length, ih, List.length_cons]; omega

theorem byte_mod (b : BitVec 8) : b.toNat % 256 ^ 1 = b.toNat := Nat.mod_eq_of_lt b.isLt

theorem short_mod (b : BitVec 16) : b.toNat % 256 ^ 2 = b.toNat := Nat.mod_eq_of_lt b.isLt

theorem long_mod (b : BitVec 64) : b.toNat % 256 ^ 8 = b.toNat := Nat.mod_eq_of_lt b.isLt

theorem crcOf_lt (bs : List Byte) : crcOf bs < 256 ^ 4 := (crcFinal _).isLt

/-! ### A frame without its CRC -/

/-- What header and payload of a frame are, the CRC apart. -/
def frameRead (y : List Byte) : Option ElOut :=
  if leAt y 0 1 / 16 ≠ 1 then none
  else
    match leAt y 0 1 % 16 with
    | 1 =>
      if (y.drop 6).length = 32 then
        some (.beacon ⟨timeAt (y.drop 6) 0, leAt (y.drop 6) 9 1, leAt (y.drop 6) 10 2 % 1024, leAt (y.drop 6) 12 8, leAt (y.drop 6) 20 1 % 32,
          leAt (y.drop 6) 22 2, leAt (y.drop 6) 24 8, leAt y 2 2 % 1024, nbit (leAt y 1 1) 2, nbit (leAt y 1 1) 3⟩)
      else none
    | 2 => if (y.drop 6).length = 10 then some (.delayReq (timeAt (y.drop 6) 0) (leAt (y.drop 6) 9 1)) else none
    | 3 => if (y.drop 6).length = 10 then some (.delayResp (timeAt (y.drop 6) 0) (leAt (y.drop 6) 9 1)) else none
    | k => (bodyFrom k (y.drop 6)).map (fun b =>
        .untimed ⟨leAt y 2 2 % 1024, leAt y 2 2 / 1024 % 32, leAt y 4 2 % 1024, nbit (leAt y 1 1) 1, b⟩)

/-- A frame with its own CRC is what its header and payload are. -/
theorem frameFrom_sealed (y : List Byte) (h : 6 ≤ y.length) : frameFrom (y ++ leBytes 4 (crcOf y)) = frameRead y := by
  have hlen : (y ++ leBytes 4 (crcOf y)).length - 4 = y.length := by simp
  have htake : (y ++ leBytes 4 (crcOf y)).take y.length = y := by simp
  have hcrc : leAt (y ++ leBytes 4 (crcOf y)) y.length 4 = crcOf y := by
    rw [leAt, List.drop_append, List.drop_eq_nil_of_le (Nat.le_refl _), Nat.sub_self]
    exact (leAt_whole 4 _).trans (Nat.mod_eq_of_lt (crcOf_lt y))
  have hshort : ¬ (y ++ leBytes 4 (crcOf y)).length < 10 := by simp; omega
  unfold frameFrom frameRead
  simp only [hlen, htake, hcrc, hshort, ne_eq, not_true_eq_false, false_or] <;> rfl

theorem frameFrom_wire (src : Nat) (o : ElOut) (h : 6 ≤ (frameBody src o).length) : frameFrom (frameWire src o) = frameRead (frameBody src o) :=
  frameFrom_sealed _ h

/-! ### The header -/

/-- The parts of a header in front of a payload. -/
theorem head_reads {type flags src hops dst : Nat} {x : List Byte} (ht : type < 16) (hf : flags < 256) (hs : src < 1024) (hh : hops < 32)
    (hd : dst < 1024) :
    (leAt (headBytes type flags src hops dst ++ x) 0 1 / 16 = 1 ∧ leAt (headBytes type flags src hops dst ++ x) 0 1 % 16 = type) ∧
    leAt (headBytes type flags src hops dst ++ x) 1 1 = flags ∧
    (leAt (headBytes type flags src hops dst ++ x) 2 2 % 1024 = src ∧ leAt (headBytes type flags src hops dst ++ x) 2 2 / 1024 % 32 = hops) ∧
    leAt (headBytes type flags src hops dst ++ x) 4 2 % 1024 = dst ∧ (headBytes type flags src hops dst ++ x).drop 6 = x := by
  refine ⟨?_, ?_, ?_, ?_, ?_⟩
  · simp only [headBytes, List.append_assoc, leAt_here]; omega
  · simp (disch := decide) only [headBytes, List.append_assoc, leAt_skip, Nat.sub_self, leAt_here]; omega
  · simp (disch := decide) only [headBytes, List.append_assoc, leAt_skip, leAt_here, Nat.reduceSub]; omega
  · simp (disch := decide) only [headBytes, List.append_assoc, leAt_skip, leAt_here, Nat.reduceSub]; omega
  · exact List.drop_left' (by simp [headBytes])

theorem six_le_head (type flags src hops dst : Nat) (x : List Byte) : 6 ≤ (headBytes type flags src hops dst ++ x).length := by
  simp [headBytes]; omega

/-! ### The timed frames -/

/-- A time is read back from its nine bytes. -/
theorem timeAt_timeBytes (ns : BitVec 64) (sub : BitVec 6) (x : List Byte) :
    timeAt (timeBytes (ns.toNat * 64 + sub.toNat) ++ x) 0 = ns.toNat * 64 + sub.toNat := by
  have hn := ns.isLt
  have hs := sub.isLt
  simp (disch := decide) only [timeAt, timeBytes, List.append_assoc, leAt_here, leAt_skip]
  norm_num at hn hs ⊢
  omega

theorem timeBytes_length (t : Nat) : (timeBytes t).length = 9 := by simp [timeBytes]

/-- Behind a time, offsets count from the end of its nine bytes. -/
theorem leAt_timeBytes {i : Nat} (t n : Nat) (x : List Byte) (h : 9 ≤ i) : leAt (timeBytes t ++ x) i n = leAt x (i - 9) n := by
  rw [leAt, List.drop_append, List.drop_eq_nil_of_le (by simpa [timeBytes_length] using h), List.nil_append, timeBytes_length, leAt]

/-- A BEACON comes back from its bytes. -/
theorem frameFrom_beacon (src : Nat) (f : FrameHead) (b : Beacon) : frameFrom (frameWire src (.beacon (bcnOf f b))) = some (.beacon (bcnOf f b)) := by
  obtain ⟨⟨hver, htype⟩, hflags, ⟨hsrc, -⟩, -, hx⟩ :=
    head_reads (x := bcnBytes (bcnOf f b)) (show 1 < 16 by decide) (flags := 4 * b2n b.qual + 8 * b2n b.up)
      (by cases b.qual <;> cases b.up <;> decide) f.src.isLt (hops := 0) (by decide) (dst := 0) (by decide)
  have hlen : (bcnBytes (bcnOf f b)).length = 32 := by simp [bcnBytes, timeBytes_length]
  have hqual : nbit (4 * b2n b.qual + 8 * b2n b.up) 2 = b.qual := by cases b.qual <;> cases b.up <;> rfl
  have hup : nbit (4 * b2n b.qual + 8 * b2n b.up) 3 = b.up := by cases b.qual <;> cases b.up <;> rfl
  have ht1 : timeAt (bcnBytes (bcnOf f b)) 0 = b.t1Ns.toNat * 64 + b.t1Sub.toNat := by
    simp only [bcnBytes, List.append_assoc]; exact timeAt_timeBytes _ _ _
  have hparts : leAt (bcnBytes (bcnOf f b)) 9 1 = b.prio.toNat ∧ leAt (bcnBytes (bcnOf f b)) 10 2 % 1024 = b.rootId ∧
      leAt (bcnBytes (bcnOf f b)) 12 8 = b.rootUid.toNat ∧ leAt (bcnBytes (bcnOf f b)) 20 1 % 32 = b.depth ∧
      leAt (bcnBytes (bcnOf f b)) 22 2 = b.rseq.toNat ∧ leAt (bcnBytes (bcnOf f b)) 24 8 = b.uid.toNat := by
    have hprio := b.prio.isLt
    have hroot := b.rootId.isLt
    have hrootUid := b.rootUid.isLt
    have hdepth := b.depth.isLt
    have hrseq := b.rseq.isLt
    have huid := b.uid.isLt
    simp (disch := decide) only [bcnBytes, bcnOf, List.append_assoc, leAt_timeBytes, leAt_skip, leAt_here, leAt_whole, Nat.reduceSub]
    norm_num at *
    omega
  obtain ⟨hprio, hroot, hrootUid, hdepth, hrseq, huid⟩ := hparts
  rw [frameFrom_wire _ _ (six_le_head ..)]
  change frameRead (headBytes 1 (4 * b2n b.qual + 8 * b2n b.up) f.src 0 0 ++ bcnBytes (bcnOf f b)) = _
  simp only [frameRead, hver, htype, hflags, hsrc, hx, hlen, hqual, hup, ht1, hprio, hroot, hrootUid, hdepth, hrseq, huid, ne_eq, not_true_eq_false,
    if_false, if_true] <;> rfl

/-- The payload of a delay frame: a time and the number of the request. -/
theorem delay_reads (ns : BitVec 64) (sub : BitVec 6) (num : BitVec 8) :
    (timeBytes (ns.toNat * 64 + sub.toNat) ++ leBytes 1 num.toNat).length = 10 ∧
    timeAt (timeBytes (ns.toNat * 64 + sub.toNat) ++ leBytes 1 num.toNat) 0 = ns.toNat * 64 + sub.toNat ∧
    leAt (timeBytes (ns.toNat * 64 + sub.toNat) ++ leBytes 1 num.toNat) 9 1 = num.toNat := by
  refine ⟨by simp [timeBytes_length], timeAt_timeBytes _ _ _, ?_⟩
  rw [leAt_timeBytes _ _ _ (Nat.le_refl 9), Nat.sub_self, leAt_whole, byte_mod]

theorem frameFrom_delayReq (src : Fin 1024) (ns : BitVec 64) (sub : BitVec 6) (num : BitVec 8) :
    frameFrom (frameWire src (.delayReq (ns.toNat * 64 + sub.toNat) num.toNat)) = some (.delayReq (ns.toNat * 64 + sub.toNat) num.toNat) := by
  obtain ⟨hlen, ht, hnum⟩ := delay_reads ns sub num
  obtain ⟨⟨hver, htype⟩, -, -, -, hx⟩ := head_reads (x := timeBytes (ns.toNat * 64 + sub.toNat) ++ leBytes 1 num.toNat)
    (show 2 < 16 by decide) (flags := 0) (by decide) src.isLt (hops := 0) (by decide) (dst := 0) (by decide)
  rw [frameFrom_wire _ _ (six_le_head ..)]
  change frameRead (headBytes 2 0 src 0 0 ++ _) = _
  simp only [frameRead, hver, htype, hx, hlen, ht, hnum, ne_eq, not_true_eq_false, if_false, if_true]

theorem frameFrom_delayResp (src : Fin 1024) (ns : BitVec 64) (sub : BitVec 6) (num : BitVec 8) :
    frameFrom (frameWire src (.delayResp (ns.toNat * 64 + sub.toNat) num.toNat)) = some (.delayResp (ns.toNat * 64 + sub.toNat) num.toNat) := by
  obtain ⟨hlen, ht, hnum⟩ := delay_reads ns sub num
  obtain ⟨⟨hver, htype⟩, -, -, -, hx⟩ := head_reads (x := timeBytes (ns.toNat * 64 + sub.toNat) ++ leBytes 1 num.toNat)
    (show 3 < 16 by decide) (flags := 0) (by decide) src.isLt (hops := 0) (by decide) (dst := 0) (by decide)
  rw [frameFrom_wire _ _ (six_le_head ..)]
  change frameRead (headBytes 3 0 src 0 0 ++ _) = _
  simp only [frameRead, hver, htype, hx, hlen, ht, hnum, ne_eq, not_true_eq_false, if_false, if_true]

/-! ### The untimed frames -/

/-- An untimed frame comes back from its bytes where its body comes back from its payload. -/
theorem frameFrom_untimed (src : Nat) (f : FrameHead) (b : ElBody) (hb : bodyFrom (bodyType b) (bodyBytes b) = some b) :
    frameFrom (frameWire src (.untimed ⟨f.src, f.hops, f.dst, f.conf, b⟩)) = some (.untimed ⟨f.src, f.hops, f.dst, f.conf, b⟩) := by
  have hlow : 4 ≤ bodyType b ∧ bodyType b < 16 := by cases b <;> exact ⟨Nat.le_of_ble_eq_true rfl, Nat.le_of_ble_eq_true rfl⟩
  obtain ⟨⟨hver, htype⟩, hflags, ⟨hsrc, hhops⟩, hdst, hx⟩ :=
    head_reads (x := bodyBytes b) hlow.2 (flags := b2n (decide (bodyType b = 7)) + 2 * b2n f.conf)
      (by cases f.conf <;> cases decide (bodyType b = 7) <;> decide) f.src.isLt f.hops.isLt f.dst.isLt
  have hconf : nbit (b2n (decide (bodyType b = 7)) + 2 * b2n f.conf) 1 = f.conf := by
    cases f.conf <;> cases decide (bodyType b = 7) <;> rfl
  rw [frameFrom_wire _ _ (six_le_head ..)]
  change frameRead (headBytes (bodyType b) (b2n (decide (bodyType b = 7)) + 2 * b2n f.conf) f.src f.hops f.dst ++ bodyBytes b) = _
  simp only [frameRead, hver, htype, hflags, hsrc, hhops, hdst, hx, hconf, ne_eq, not_true_eq_false, if_false]
  split
  · omega
  · omega
  · omega
  · rw [hb]; rfl

theorem bodyFrom_join (id : Fin 1024) (u : BitVec 64) : bodyFrom 4 (bodyBytes (.join id u.toNat)) = some (.join id u.toNat) := by
  have hu' : leAt (leBytes 2 id ++ leBytes 8 u.toNat) 2 8 = u.toNat := by
    rw [leAt_skip _ _ _ (Nat.le_refl 2), Nat.sub_self, leAt_whole, long_mod]
  simp [bodyFrom, bodyBytes, hu']

theorem b2n_bit (b : Bool) : b2n b % 256 ^ 1 = b2n b ∧ decide (b2n b = 1) = b := by cases b <;> decide

theorem bodyFrom_joinAck (id : Fin 1024) (c : Bool) (u : BitVec 64) :
    bodyFrom 5 (bodyBytes (.joinAck id c u.toNat)) = some (.joinAck id c u.toNat) := by
  have hc' : leAt (leBytes 2 id ++ (leBytes 1 (b2n c) ++ leBytes 8 u.toNat)) 2 1 = b2n c := by
    rw [leAt_skip _ _ _ (Nat.le_refl 2), Nat.sub_self, leAt_here, (b2n_bit c).1]
  have hu' : leAt (leBytes 2 id ++ (leBytes 1 (b2n c) ++ leBytes 8 u.toNat)) 3 8 = u.toNat := by
    rw [leAt_skip _ _ _ (by decide), leAt_skip _ _ _ (by decide), leAt_whole, long_mod]
  simp [bodyFrom, bodyBytes, hc', hu', (b2n_bit c).2]

theorem bodyFrom_leave (ids : List (Fin 1024)) (h : 1 ≤ ids.length ∧ ids.length ≤ 16) :
    bodyFrom 6 (bodyBytes (.leave (ids.map Fin.val))) = some (.leave (ids.map Fin.val)) := by
  obtain ⟨h1, h16⟩ := h
  have hn : leAt (bodyBytes (.leave (ids.map Fin.val))) 0 1 = ids.length := by
    simp only [bodyBytes, List.append_assoc, leAt_here, List.length_map]; omega
  have hlen : (bodyBytes (.leave (ids.map Fin.val))).length = 2 + 2 * ids.length := by
    simp only [bodyBytes, List.length_append, leBytes_length, pairs_length, List.length_map]
  have hids : (List.range ids.length).map (fun i => leAt (bodyBytes (.leave (ids.map Fin.val))) (2 + 2 * i) 2 % 1024) = ids.map Fin.val := by
    refine List.ext_getElem (by simp) fun i hi _ => ?_
    have hi' : i < (ids.map Fin.val).length := by simpa using hi
    rw [List.getElem_map, List.getElem_range]
    simp only [bodyBytes, List.append_assoc]
    rw [leAt_skip _ _ _ (by omega), leAt_skip _ _ _ (by omega), show 2 + 2 * i - 1 - 1 = 2 * i from by omega, leAt_pairs _ _ hi', List.getElem_map]
    have hid := (ids[i]'(by simpa using hi')).isLt
    omega
  simp only [bodyFrom, hn, hlen, hids, h1, h16, and_self, if_true]

theorem bodyFrom_applyAt (u : BitVec 64) (m : BitVec 8) (w : BitVec 16) :
    bodyFrom 7 (bodyBytes (.applyAt u.toNat m w.toNat)) = some (.applyAt u.toNat m w.toNat) := by
  have hu' : leAt (leBytes 8 u.toNat ++ (leBytes 1 m.toNat ++ leBytes 2 w.toNat)) 0 8 = u.toNat := by
    rw [leAt_here, long_mod]
  have hm' : leAt (leBytes 8 u.toNat ++ (leBytes 1 m.toNat ++ leBytes 2 w.toNat)) 8 1 = m.toNat := by
    rw [leAt_skip _ _ _ (Nat.le_refl 8), Nat.sub_self, leAt_here, byte_mod]
  have hw' : leAt (leBytes 8 u.toNat ++ (leBytes 1 m.toNat ++ leBytes 2 w.toNat)) 9 2 = w.toNat := by
    rw [leAt_skip _ _ _ (by decide), leAt_skip _ _ _ (by decide), leAt_whole, short_mod]
  have hbytes : bodyBytes (.applyAt u.toNat m w.toNat) = leBytes 8 u.toNat ++ (leBytes 1 m.toNat ++ leBytes 2 w.toNat) := by
    rw [bodyBytes, byte_leBytes m, List.append_assoc]
  simp [bodyFrom, hbytes, hu', hm', hw']

theorem bodyFrom_doorbell (id : Fin 1024) (mid : BitVec 8) :
    bodyFrom 8 (bodyBytes (.doorbell id mid.toNat)) = some (.doorbell id mid.toNat) := by
  have hm' : leAt (leBytes 2 id ++ leBytes 1 mid.toNat) 2 1 = mid.toNat := by
    rw [leAt_skip _ _ _ (Nat.le_refl 2), Nat.sub_self, leAt_whole, byte_mod]
  simp [bodyFrom, bodyBytes, hm']

theorem bodyFrom_mailbox (mid : BitVec 8) (data : List Byte) (h : 1 ≤ data.length ∧ data.length ≤ 32) :
    bodyFrom 9 (bodyBytes (.mailbox mid.toNat data)) = some (.mailbox mid.toNat data) := by
  have hn : leAt (leBytes 1 data.length ++ (leBytes 1 mid.toNat ++ data)) 0 1 = data.length := by rw [leAt_here]; omega
  have hm : leAt (leBytes 1 data.length ++ (leBytes 1 mid.toNat ++ data)) 1 1 = mid.toNat := by
    rw [leAt_skip _ _ _ (Nat.le_refl 1), Nat.sub_self, leAt_here, byte_mod]
  have hdata : (leBytes 1 data.length ++ (leBytes 1 mid.toNat ++ data)).drop 2 = data := by
    rw [← List.append_assoc]; exact List.drop_left' (by simp)
  have hlen : (leBytes 1 data.length ++ (leBytes 1 mid.toNat ++ data)).length = 2 + data.length := by simp; omega
  simp only [bodyFrom, bodyBytes, List.append_assoc, hn, hm, hdata, hlen, h, and_self, if_true]

theorem bodyFrom_delivery (mid type : BitVec 8) (c : Bool) :
    bodyFrom 10 (bodyBytes (.delivery mid.toNat type.toNat c)) = some (.delivery mid.toNat type.toNat c) := by
  have hm : leAt (leBytes 1 mid.toNat ++ (leBytes 1 type.toNat ++ leBytes 1 (b2n c))) 0 1 = mid.toNat := by
    rw [leAt_here, byte_mod]
  have ht : leAt (leBytes 1 mid.toNat ++ (leBytes 1 type.toNat ++ leBytes 1 (b2n c))) 1 1 = type.toNat := by
    rw [leAt_skip _ _ _ (Nat.le_refl 1), Nat.sub_self, leAt_here, byte_mod]
  have hc : leAt (leBytes 1 mid.toNat ++ (leBytes 1 type.toNat ++ leBytes 1 (b2n c))) 2 1 = b2n c := by
    rw [leAt_skip _ _ _ (by decide), leAt_skip _ _ _ (by decide), leAt_whole, (b2n_bit c).1]
  simp [bodyFrom, bodyBytes, hm, ht, hc, (b2n_bit c).2]

end Sys2Proof.Machine
end


section
/-!
SUPPORT. Ewerlink frames that arrive and are sent (R264 to R266, R269).
-/
set_option Elab.async false
namespace Sys2Proof.Machine
open Sys2Proof

/-! ### Frames that arrive -/

theorem hasLock_iff (s : State) (p : Fin 4) : (s.elState p = psTrain ∨ s.elUp p = true) ↔ hasLock s p :=
  or_congr Iff.rfl decide_eq_true_iff

theorem elFrame_stays {s : State} {p : Fin 4} (h : ¬ hasLock s p) (f : FrameHead) (o : ElOut) (pos : Option Nat) : s.elFrame p f o pos = s :=
  if_neg (mt (hasLock_iff s p).mp h)

theorem elFrame_arrives {s : State} {p : Fin 4} (h : hasLock s p) {f : FrameHead} {o x : ElOut} (hx : frameGot f o = some x) (pos : Option Nat) :
    s.elFrame p f o pos = s.elArrives p x pos := by
  unfold State.elFrame
  rw [if_pos ((hasLock_iff s p).mpr h), hx]

theorem elFrame_bad {s : State} {p : Fin 4} (h : hasLock s p) {f : FrameHead} {o : ElOut} (hx : frameGot f o = none) (pos : Option Nat) :
    s.elFrame p f o pos = s.elBad p := by
  unfold State.elFrame
  rw [if_pos ((hasLock_iff s p).mpr h), hx]

/-- A frame that is discarded is counted, and nothing else changes (R265). -/
theorem elBad_counts (s : State) (p : Fin 4) : countedOne s (s.elBad p) (F.ELp_ERR_CRC p) ∧ (s.elBad p).ron F.EL_EVT_CRC_S = true ∧
    s.sameRegsBut (s.elBad p) [R.ELp_ERR p, R.EL_EVT] ∧ s.sameBlocks (s.elBad p) := by
  have hframe : Frame [R.ELp_ERR p, R.EL_EVT] s (s.elBad p) :=
    ((Frame.refl _ s).rsat (f := F.ELp_ERR_CRC p) 1 (List.mem_cons_self ..)).evt (f := F.EL_EVT_CRC_S) (List.mem_cons_of_mem _ (List.mem_cons_self ..))
  refine ⟨?_, ron_evt _ _ rfl (by decide) (by decide), hframe.regs, hframe.blocks⟩
  have hapart : (F.ELp_ERR_CRC p).reg ≠ F.EL_EVT_CRC_S.reg := by fin_cases p <;> decide
  have hplain : reportReg (F.ELp_ERR_CRC p).reg = false := by fin_cases p <;> decide
  exact (rget_evt_ne _ hplain hapart).trans (rget_rsat_same s (F.ELp_ERR_CRC p) 1 (Nat.le_of_ble_eq_true rfl))

/-- A frame whose size agrees with its type is one that the checks let pass. -/
theorem frameSized_iff {o : ElOut} (h : o ≠ .nothing) : frameSized o = true ↔ sizeFits o := by
  cases o with
  | nothing => exact absurd rfl h
  | beacon b => exact iff_of_true rfl (by simp [sizeFits])
  | delayReq t k => exact iff_of_true rfl (by simp [sizeFits])
  | delayResp t k => exact iff_of_true rfl (by simp [sizeFits])
  | untimed m => obtain ⟨src, hops, dst, conf, b⟩ := m; cases b <;> simp [frameSized, sizeFits]

theorem frameGot_bad {f : FrameHead} {o : ElOut} (hn : o ≠ .nothing)
    (h : (∃ bs, f.wire = some bs ∧ frameFrom bs = none) ∨ (f.wire = none ∧ ¬ sizeFits o)) : frameGot f o = none := by
  unfold frameGot
  obtain ⟨bs, hw, hbad⟩ | ⟨hw, hsize⟩ := h <;> rw [hw]
  · exact hbad
  · exact if_neg (mt (frameSized_iff hn).mp hsize)

theorem frameGot_own {f : FrameHead} {o : ElOut} (hn : o ≠ .nothing) (hw : f.wire = none) (h : sizeFits o) : frameGot f o = some o := by
  unfold frameGot
  rw [hw]
  exact if_pos ((frameSized_iff hn).mpr h)

section
variable {p : Fin 4} {f : FrameHead} {b : Beacon} {pos : Fin 64} {n8 m8 : BitVec 8} {w16 : BitVec 16} {u : BitVec 64} {u6 : BitVec 6}
  {id : Fin 1024} {flag : Bool} {ids : List (Fin 1024)} {data : List Byte} {c : Instr × ElOut}
  (hc : c ∈ frameRows p f b pos n8 m8 w16 u u6 id flag ids data)
include hc

theorem frameRows_cases : c = (.beaconReceive p f b pos, .beacon (bcnOf f b)) ∨
    c = (.delayReqReceive p f ⟨u, u6, n8⟩ pos, .delayReq (u.toNat * 64 + u6.toNat) n8.toNat) ∨
    c = (.delayRespReceive p f u u6 n8, .delayResp (u.toNat * 64 + u6.toNat) n8.toNat) ∨
    c = (.joinReceive p f id u, .untimed (heard f (.join id u.toNat))) ∨
    c = (.joinAckReceive p f id flag u, .untimed (heard f (.joinAck id flag u.toNat))) ∨
    c = (.leaveReceive p f ids, .untimed (heard f (.leave (ids.map Fin.val)))) ∨
    c = (.applyAtFrame p f u m8 w16, .untimed (heard f (.applyAt u.toNat m8 w16.toNat))) ∨
    c = (.doorbellFrame p f id n8, .untimed (heard f (.doorbell id n8.toNat))) ∨
    c = (.mailboxFrame p f n8 data, .untimed (heard f (.mailbox n8.toNat data))) ∨
    c = (.deliveryReceive p f n8 m8 flag, .untimed (heard f (.delivery n8.toNat m8.toNat flag))) := by
  simpa only [frameRows, List.mem_cons, List.not_mem_nil, or_false] using hc

/-- Each of the rows hands its frame to the port. -/
theorem exec_frameRow {s : State} (hev : s.takesEvents = true) : c.2 ≠ .nothing ∧ ∃ q, exec c.1 s = .next (s.elFrame p f c.2 q) := by
  obtain rfl | rfl | rfl | rfl | rfl | rfl | rfl | rfl | rfl | rfl := frameRows_cases hc
  · exact ⟨nofun, some pos, event_open hev fun s => s.elFrame p f _ (some pos)⟩
  · exact ⟨nofun, some pos, event_open hev fun s => s.elFrame p f _ (some pos)⟩
  · exact ⟨nofun, none, event_open hev fun s => s.elFrame p f _ none⟩
  · exact ⟨nofun, none, event_open hev fun s => s.elFrame p f _ none⟩
  · exact ⟨nofun, none, event_open hev fun s => s.elFrame p f _ none⟩
  · exact ⟨nofun, none, event_open hev fun s => s.elFrame p f _ none⟩
  · exact ⟨nofun, none, event_open hev fun s => s.elFrame p f _ none⟩
  · exact ⟨nofun, none, event_open hev fun s => s.elFrame p f _ none⟩
  · exact ⟨nofun, none, event_open hev fun s => s.elFrame p f _ none⟩
  · exact ⟨nofun, none, event_open hev fun s => s.elFrame p f _ none⟩

/-- Every frame of a row comes back from its bytes (R264, R265). -/
theorem frameFrom_frameRow (hsize : sizeFits c.2) : frameFrom (frameWire f.src c.2) = some c.2 := by
  obtain rfl | rfl | rfl | rfl | rfl | rfl | rfl | rfl | rfl | rfl := frameRows_cases hc
  · exact frameFrom_beacon _ f b
  · exact frameFrom_delayReq f.src u u6 n8
  · exact frameFrom_delayResp f.src u u6 n8
  · exact frameFrom_untimed _ f _ (bodyFrom_join id u)
  · exact frameFrom_untimed _ f _ (bodyFrom_joinAck id flag u)
  · have hn := (hsize _ rfl).1 _ rfl
    rw [List.length_map] at hn
    exact frameFrom_untimed _ f _ (bodyFrom_leave ids hn)
  · exact frameFrom_untimed _ f _ (bodyFrom_applyAt u m8 w16)
  · exact frameFrom_untimed _ f _ (bodyFrom_doorbell id n8)
  · exact frameFrom_untimed _ f _ (bodyFrom_mailbox n8 data ((hsize _ rfl).2 _ _ rfl))
  · exact frameFrom_untimed _ f _ (bodyFrom_delivery n8 m8 flag)

end

/-! ### Sending -/

theorem lineFits_iff (s : State) (p : Fin 4) (n : Nat) : s.lineFits p n = true ↔ lineTakes s p n := by
  simp only [State.lineFits, State.lineFree, State.beacons, lineTakes, symbolTicks, sendGap, Bool.and_eq_true, Bool.or_eq_true, Bool.not_eq_true',
    decide_eq_true_eq, Bool.or_eq_false_iff]
  refine and_congr_right fun _ => ?_
  cases s.elHasRoot <;> cases s.ron F.EL_STAT_TOO_DEEP <;> simp <;> exact decide_eq_true_iff

/-- A change of a port leaves the registers, and all but Ewerlink. -/
theorem modPort_only (s : State) (p : Fin 4) (f : ElPort → ElPort) : (∀ o, (s.modPort p f).reg o = s.reg o) ∧ onlyEwer s (s.modPort p f) :=
  ⟨fun _ => rfl, sameBlocks_refl _⟩

section
variable {s : State} {p : Fin 4} {t4 num : Nat} (h : s.el.ports[p].resp = some (t4, num))
include h

theorem frameSend_resp : s.frameSend p =
    if (s.elState p = psTrain ∨ s.elUp p = true) ∧ s.lineFits p 22 = true then
      s.modPort p (fun q => { q with resp := none, sent := .delayResp t4 num, busy := lineTaken s 22 })
    else s := by
  unfold State.frameSend State.respSend
  rw [if_pos (by rw [h]; rfl), h] <;> rfl

theorem frameSend_answers (hl : hasLock s p) (hf : lineTakes s p 22) :
    s.frameSend p = s.modPort p (fun q => { q with resp := none, sent := .delayResp t4 num, busy := lineTaken s 22 }) :=
  (frameSend_resp h).trans (if_pos ⟨(hasLock_iff s p).mpr hl, (lineFits_iff s p 22).mpr hf⟩)

theorem frameSend_answer_waits (hn : ¬ hasLock s p ∨ ¬ lineTakes s p 22) : s.frameSend p = s :=
  (frameSend_resp h).trans (if_neg fun ⟨hl, hf⟩ =>
    hn.elim (· ((hasLock_iff s p).mp hl)) (· ((lineFits_iff s p 22).mp hf)))

end

theorem elClass_le (b : ElBody) : elClass b ≤ 2 := by cases b <;> exact Nat.le_of_ble_eq_true rfl

theorem elNext_nil : elNext [] = none := rfl

/-- The frame that goes next is the first one of the most urgent class (R266). -/
theorem elNext_first {q : List ElMsg} (h : q ≠ []) : ∃ m, m ∈ q ∧ elNext q = some (m, q.erase m) ∧ (∀ x ∈ q, elClass m.body ≤ elClass x.body) ∧
    (q.filter (fun x => decide (elClass x.body = elClass m.body))).head? = some m := by
  unfold elNext
  cases h0 : q.find? (fun m => decide (elClass m.body = 0)) with
  | some m =>
    have hm : elClass m.body = 0 := by simpa using List.find?_some h0
    refine ⟨m, List.mem_of_find?_eq_some h0, rfl, fun x _ => by omega, ?_⟩
    rw [hm, List.head?_filter, h0]
  | none =>
    have hno0 : ∀ x ∈ q, elClass x.body ≠ 0 := by simpa using h0
    cases h1 : q.find? (fun m => decide (elClass m.body = 1)) with
    | some m =>
      have hm : elClass m.body = 1 := by simpa using List.find?_some h1
      refine ⟨m, List.mem_of_find?_eq_some h1, rfl, fun x hx => ?_, ?_⟩
      · have := hno0 x hx; omega
      · rw [hm, List.head?_filter, h1]
    | none =>
      have hno1 : ∀ x ∈ q, elClass x.body ≠ 1 := by simpa using h1
      have htwo : ∀ x ∈ q, elClass x.body = 2 := fun x hx => by
        have h0 := hno0 x hx
        have h1 := hno1 x hx
        have h2 := elClass_le x.body
        omega
      cases q with
      | nil => exact absurd rfl h
      | cons m r =>
        refine ⟨m, List.mem_cons_self .., by rw [List.erase_cons_head], fun x hx => ?_, ?_⟩
        · rw [htwo m (List.mem_cons_self ..), htwo x hx]
        · rw [List.filter_cons_of_pos (by simp)]; rfl

section
variable {s : State} {p : Fin 4} (hr : s.el.ports[p].resp = none)
include hr

theorem frameSend_first {m : ElMsg} {r : List ElMsg} (hm : elNext s.el.ports[p].queue = some (m, r)) : s.frameSend p =
    if s.elTree p = true ∧ s.lineFits p (bodySymbols m.body) = true then
      s.modPort p (fun q => { q with queue := r, sent := .untimed m, busy := lineTaken s (bodySymbols m.body) })
    else s := by
  unfold State.frameSend
  rw [if_neg (by rw [hr]; exact Bool.false_ne_true), hm] <;> rfl

theorem frameSend_waits (h : s.el.ports[p].queue = [] ∨ s.elTree p = false ∨ ∀ m ∈ s.el.ports[p].queue, ¬ lineTakes s p (bodySymbols m.body)) :
    s.frameSend p = s := by
  by_cases hq : s.el.ports[p].queue = []
  · unfold State.frameSend
    rw [if_neg (by rw [hr]; exact Bool.false_ne_true), hq, elNext_nil]
  · obtain ⟨m, hmem, hm, -, -⟩ := elNext_first hq
    rw [frameSend_first hr hm]
    refine if_neg fun ⟨htree, hfits⟩ => ?_
    obtain h | h | h := h
    · exact hq h
    · exact Bool.false_ne_true (h.symm.trans htree)
    · exact h m hmem ((lineFits_iff s p _).mp hfits)

theorem frameSend_sends (hq : s.el.ports[p].queue ≠ []) (ht : s.elTree p = true)
    (hf : ∀ m ∈ s.el.ports[p].queue, lineTakes s p (bodySymbols m.body)) :
    ∃ m, (∀ x ∈ s.el.ports[p].queue, elClass m.body ≤ elClass x.body) ∧
      (s.el.ports[p].queue.filter (fun x => decide (elClass x.body = elClass m.body))).head? = some m ∧
      (s.frameSend p).el = (s.modPort p (fun q => { q with
        queue := q.queue.erase m, sent := .untimed m, busy := lineTaken s (bodySymbols m.body) })).el ∧
      (∀ o, (s.frameSend p).reg o = s.reg o) ∧ onlyEwer s (s.frameSend p) := by
  obtain ⟨m, hmem, hm, hleast, hfirst⟩ := elNext_first hq
  rw [frameSend_first hr hm, if_pos ⟨ht, (lineFits_iff s p _).mpr (hf m hmem)⟩]
  exact ⟨m, hleast, hfirst, rfl, modPort_only ..⟩

end

theorem exec_frameSend {s t : State} (hev : s.takesEvents = true) {p : Fin 4} (h : s.frameSend p = t) : exec (.frameSend p) s = .next t :=
  (event_open hev fun s => s.frameSend p).trans (congrArg _ h)

end Sys2Proof.Machine
end

section
set_option Elab.async false
namespace Sys2Proof
open Sys2Proof.Machine

/-- Settles O43: each row hands its frame to the port, whose bytes read back as the frame; the first frame of the most urgent class is sent. -/
theorem ewerlinkFramesAreCheckedAndSent : Obligations.EwerlinkFramesAreCheckedAndSent := by
  unfold Obligations.EwerlinkFramesAreCheckedAndSent
  refine ⟨fun p f b pos n8 m8 w16 u u6 id flag ids data c s hc hev => ?_, fun p f b pos n8 m8 w16 u u6 id flag ids data c hc => frameFrom_frameRow hc,
    fun p s hev => ⟨fun t4 num hr => ⟨fun hl hf => ?_, fun hn => exec_frameSend hev (frameSend_answer_waits hr hn)⟩,
      fun hr => ⟨fun h => exec_frameSend hev (frameSend_waits hr h), fun hq ht hf => ?_⟩⟩⟩
  · obtain ⟨hsome, q, hexec⟩ := exec_frameRow hc hev
    refine ⟨fun hl => hexec.trans (congrArg _ (elFrame_stays hl ..)), fun hl hbad => ⟨_, hexec, ?_⟩⟩
    rw [elFrame_bad hl (frameGot_bad hsome hbad)]
    exact elBad_counts s p
  · obtain ⟨hregs, honly⟩ := modPort_only s p (fun q => { q with resp := none, sent := .delayResp t4 num, busy := lineTaken s 22 })
    exact ⟨_, exec_frameSend hev (frameSend_answers hr hl hf), hregs, honly, rfl⟩
  · obtain ⟨m, hleast, hfirst, hel, hregs, honly⟩ := frameSend_sends hr hq ht hf
    exact ⟨_, m, exec_frameSend hev rfl, hleast, hfirst, hel, hregs, honly⟩

end Sys2Proof
end
